-- ==== Sys2Proof/Word.lean ====
section
/-! DEFINITION. The word types of the KZ-9640B model and their plainest arithmetic. -/

namespace Sys2Proof

/-- One byte, the smallest unit of every structure the device reads or writes (R15). -/
abbrev Byte := BitVec 8
/-- A 16-bit register field. -/
abbrev Half := BitVec 16
/-- A mailbox word, a device-window register, an NVMe command dword. -/
abbrev Word := BitVec 32
/-- A 64-bit access of the device window (R537). -/
abbrev Quad := BitVec 64

end Sys2Proof
end

