-- ==== Sys2Proof/Machine/State/Tab.lean ====
section
/-! DEFINITION. `Tab α`: a sparse table as plain data, a list of (key, record) pairs in rising order of
the key. Every table of the device (zones, groups, dies, queues) is held in this form, so two
states that hold the same records are the same data. -/

namespace Sys2Proof.Machine

/-- A sparse table keyed by a number. -/
abbrev Tab (α : Type) := List (Nat × α)

/-- The record at key `k`, if the table holds one. -/
def tabGet {α : Type} : Tab α → Nat → Option α
  | [], _ => none
  | (j, a) :: t, k => if j = k then some a else tabGet t k

/-- The table with record `a` at key `k`, kept in rising order of the keys. -/
def tabSet {α : Type} : Tab α → Nat → α → Tab α
  | [], k, a => [(k, a)]
  | (j, b) :: t, k, a =>
    if j = k then (k, a) :: t
    else if k < j then (k, a) :: (j, b) :: t
    else (j, b) :: tabSet t k a

/-- The table with nothing at key `k`. -/
def tabDel {α : Type} : Tab α → Nat → Tab α
  | [], _ => []
  | (j, b) :: t, k => if j = k then tabDel t k else (j, b) :: tabDel t k

/-- The record at `k`, or `d` where the table holds none. -/
def tabGetD {α : Type} (t : Tab α) (k : Nat) (d : α) : α := (tabGet t k).getD d

/-- The table with the record at `k` changed by `f`; a key that holds nothing stays empty. -/
def tabUpd {α : Type} (t : Tab α) (k : Nat) (f : α → α) : Tab α :=
  match tabGet t k with
  | some a => tabSet t k (f a)
  | none => t

/-- Every record changed by `f`, which also sees its key. -/
def tabMap {α : Type} (f : Nat → α → α) (t : Tab α) : Tab α := t.map fun p => (p.1, f p.1 p.2)

/-- The keys in rising order: the canonical form of a table. -/
def tabWf {α : Type} : Tab α → Bool
  | [] => true
  | [_] => true
  | (j, _) :: (k, b) :: t => decide (j < k) && tabWf ((k, b) :: t)

end Sys2Proof.Machine
end

