-- ==== Sys2Proof/Machine/State/Firmware.lean ====
section
/-! DEFINITION. State of firmware slots, activation, the cellar, the corridor, the configuration record and
the calibration set (chapter Firmware, Configuration and Calibration). -/

namespace Sys2Proof.Machine

/-- What the ROM finds of a copy of an image: `ok`, or the first failing step's slot state (R389, R395). -/
inductive Verdict | ok | malformed | wrongRevision | key | rolledBack | decrypt
deriving DecidableEq, Repr

/-- What the checks of R389 find that need keys, ciphertext and plaintext, which lie outside the model: the signing key
is that of the fuse entry and not revoked, the signature, the tag and every digest verify. -/
structure ImageChecks where
  keyOk : Bool
  signed : Bool
  tagOk : Bool
  digestsOk : Bool
deriving DecidableEq, Repr

/-- An Ihliz container (R387), with what its verification finds. -/
structure Image where
  bytes : List Byte
  checks : ImageChecks
deriving DecidableEq, Repr

/-- State of a slot (R406 word 4). -/
inductive SlotSt | empty | valid | malformed | wrongRevision | key | rolledBack | decrypt | handoverFailed | writing
deriving DecidableEq, Repr

/-- An image slot (R392, R393). -/
structure FwSlot where
  st : SlotSt
  image : Option Image
  copy0 : Bool
  copy1 : Bool
  /-- A prepared plaintext copy is held (R397). -/
  prepared : Bool
deriving DecidableEq, Repr

/-- The path of a staging (R397). -/
inductive Path | manager | download | owner | corridor
deriving DecidableEq, Repr

/-- The staging in progress (R397, R398). -/
structure Staging where
  path : Path
  slot : Nat
  /-- What the staging buffer has received. -/
  data : List Byte
  forward : Bool
  image : Option Image
  /-- The whole container has been received and verified; its copies are being written. -/
  writing : Bool
  /-- SCP tag awaiting the final reply. -/
  tag : Option Nat
  /-- NVMe work item awaiting its completion. -/
  item : Option Nat
deriving DecidableEq, Repr

/-- ACT_STATE (R406). -/
inductive ActState | none | staging | preparing | scheduled | holding | notStarted | expired | cancelled
deriving DecidableEq, Repr

/-- A scheduled activation (R401). -/
structure Sched where
  slot : Nat
  scope : Bool
  frame : Nat
  imageId : Word
  /-- A is the first boundary after preparation (Firmware Commit 011b). -/
  asap : Bool
  prepared : Bool
  tag : Option Nat
  item : Option Nat
deriving DecidableEq, Repr

/-- An activation hold (R402). -/
structure Hold2 where
  slot : Nat
  from_ : Nat
  recordWritten : Bool
  switched : Bool
  /-- Handover ready stamped: the hold ends at the next boundary. -/
  ready : Bool
  item : Option Nat
deriving DecidableEq, Repr

/-- What boot or a run finds of the configuration record's copies, or of the calibration set. -/
structure Config412 where
  seq : Nat
  bootSlot : Nat
  lbSize : Nat
  holdupCap : Nat
  corrPos : Nat
  syncEn : Bool
  balls : Nat
  totalVfs0 : Nat
  pfQp0 : Nat
  pfQp1 : Nat
  pfAz0 : Nat
  pfAz1 : Nat
  pfSlot0 : Nat
  pfSlot1 : Nat
  pfGuard : Nat
  tWarn : Nat
  tThrottle : Nat
  remoteLimit : List Nat
  gcShare : Nat
  matchShift : Nat
  lcAge : List Nat
  /-- Shares of the two PFs, words 1 to 9 of R344 each. -/
  pfShares : List Nat
  /-- DRAM channels 0 to 5: populated, ranks, capacity, rate. -/
  dram : List (Bool × Nat × Nat × Nat)
  /-- Channels 0 to 127: targets, LUNs, ladder step, DQ loads. -/
  channels : List (Nat × Nat × Nat × Nat)
  /-- Class entries 0 to 3, each 256 bytes. -/
  classes : List (List Byte)
deriving DecidableEq, Repr

/-- The calibration set (R418). -/
structure Calib where
  /-- Bytes [65535:12] but the CRC; a byte past the list's end is zero. -/
  body : List Byte
  overwritten : Bool
  writes : Nat
deriving DecidableEq, Repr

/-- An image transfer to CORRIDOR_DOWN (R400). -/
structure Transfer where
  image : Image
  tries : Nat
  /-- Frame of the next retry after a busy answer. -/
  retryAt : Option Nat
deriving DecidableEq, Repr

structure FwSt where
  svMin : Nat
  slot1 : FwSlot
  slot2 : FwSlot
  /-- Running slot, 0 in the cellar. -/
  running : Nat
  /-- Image that runs now, and the frame in which it began (R391). -/
  image : Option Image
  began : Nat
  staging : Option Staging
  act : ActState
  lastReason : Nat
  sched : Option Sched
  hold : Option Hold2
  lastHold : Nat
  longestHold : Nat
  /-- Held completions may resume: fetch paused after an expiry until (R403). -/
  expiryAt : Option Nat
  /-- PHY components that wait for the next cold start, TYPE 0x10 to 0x13 (R402). -/
  pendComps : List Nat
  corrRefusals : Nat
  /-- 4-bit state of each corridor position (R406 QTYPE 1). -/
  corrStates : Tab Nat
  corrImage : Word
  transfer : Option Transfer
  cellar : Bool
  cellarCause : Nat
  /-- Frame of the final reply of a successful staging in the cellar (R409). -/
  stagedAt : Option Nat
  copyA : Option Config412
  copyB : Option Config412
  /-- The record in force. -/
  cfg : Config412
  /-- Configuration state: 0 normal, 1 one copy invalid, 2 none valid (R414). -/
  cfgState : Nat
  /-- A committed record whose boundary fields take effect at the next boundary (R415). -/
  cfgDue : Option Config412
  calib : Calib
  calState : Nat
  /-- Completion of the boot: the step of R394 reached, 0 to 8; 8 is running. -/
  bootStep : Nat
  /-- Image copy the ROM is trying, 0 to 3 in the order of R395. -/
  bootTry : Nat
  /-- Frame in which the main firmware was started. -/
  bootFrom : Nat
deriving DecidableEq, Repr

/-- The configuration record held in ROM (R414): LB_SIZE 1 GiB, TOTALVFS0 1,024, every other field at
its default. The fields for which the spec states no default are zero (DESIGN CHOICE, log 6). -/
def Config412.rom : Config412 :=
  { seq := 0, bootSlot := 1, lbSize := 1, holdupCap := 0, corrPos := 0xFF, syncEn := false, balls := 0,
    totalVfs0 := 1024, pfQp0 := 256, pfQp1 := 256, pfAz0 := 256, pfAz1 := 256, pfSlot0 := 0xFFFF,
    pfSlot1 := 0xFFFF, pfGuard := 0, tWarn := 0, tThrottle := 0, remoteLimit := [0, 0, 0, 0],
    gcShare := 15, matchShift := 3, lcAge := [], pfShares := [], dram := [], channels := [],
    classes := [] }

def Calib.reset : Calib := { body := [], overwritten := false, writes := 0 }

def FwSlot.reset : FwSlot :=
  { st := .empty, image := none, copy0 := false, copy1 := false, prepared := false }

/-- A device with empty image slots and no configuration record written (DESIGN CHOICE, log 6). -/
def FwSt.reset : FwSt :=
  { svMin := 0, slot1 := FwSlot.reset, slot2 := FwSlot.reset, running := 0, image := none, began := 0,
    staging := none, act := .none, lastReason := 0, sched := none, hold := none, lastHold := 0,
    longestHold := 0, expiryAt := none, pendComps := [], corrRefusals := 0, corrStates := [],
    corrImage := 0, transfer := none, cellar := false, cellarCause := 0, stagedAt := none,
    copyA := none, copyB := none, cfg := Config412.rom, cfgState := 0, cfgDue := none,
    calib := Calib.reset, calState := 0, bootStep := 0, bootTry := 0, bootFrom := 0 }

end Sys2Proof.Machine
end

