-- ==== Sys2Proof/Machine/State/Emit.lean ====
section
/-! DEFINITION. What the block sends out while it performs one command: values returned to the host,
interrupts, writes to host memory, replies on the sideband, corridor messages and PMBus transfers. -/

namespace Sys2Proof.Machine

/-- A message on a corridor link (R49, R400, R401, R405). -/
inductive CorrMsg
  /-- frame count, exchanged when a link comes up -/
  | count (c : Nat)
  /-- the beginning of an image transfer -/
  | image (i : Image)
  /-- an activation schedule -/
  | schedule (imageId : Word) (frame : Nat)
  | cancel
  /-- outcome of the unit at a corridor position, its 4-bit state -/
  | outcome (pos state : Nat) (imageId : Word)
  /-- the staging buffer of the receiver is occupied -/
  | busy
deriving DecidableEq, Repr

/-- One thing the block sends out. -/
inductive Emission
  /-- the value a read returns to its reader -/
  | readData (value : Nat)
  /-- an MSI-X message: function and vector -/
  | msix (fn vector : Nat)
  /-- bytes written to host memory of a function at an address (a descriptor, a ring, a data pointer) -/
  | hostWrite (fn : Nat) (addr : Nat) (bytes : List Byte)
  /-- the data returned by an NVMe command: its work item's function and bytes -/
  | nvmeData (fn : Nat) (bytes : List Byte)
  /-- the blocks of a unit sent to the host by a Read, and their metadata -/
  | unitOut (fn cid unit : Nat) (data pi : List Byte)
  /-- a reply to an owner request: status and payload -/
  | owner (status : Nat) (payload : List Byte)
  /-- SPDM ERROR with an error code -/
  | spdmError (code : Nat)
  /-- an NVMe-MI response or another MCTP answer -/
  | mi (bytes : List Byte)
  /-- a Basic Management answer -/
  | basic (bytes : List Byte)
  | corridor (down : Bool) (msg : CorrMsg)
  /-- a PMBus transfer: device address and command -/
  | pmbus (dev cmd : Nat)
  /-- an ONFI command to a LUN of a channel: target, LUN, the opcodes of its first and last command cycle, equal for a
  command of one cycle, and the plane and column of the codeword that a Random Data Out or a Change Write Column
  addresses (R236, R239, R271) -/
  | onfi (ch target lun first last plane column : Nat)
  /-- a JTAG data register made visible -/
  | jtag (value : Nat)
deriving DecidableEq, Repr

end Sys2Proof.Machine
end

