-- ==== Sys2Proof/Machine/State/Zone.lean ====
section
/-! DEFINITION. State of namespaces and zones (chapter Zoned and Conventional Namespaces; the zone record
and its extents are those of Translation, Wear and Free Space). Zoned namespaces have 4,096-byte
blocks only (R128), so zone offsets count 4 KiB units. -/

namespace Sys2Proof.Machine

/-- The zone states of the Zoned Namespace command set (R203). -/
inductive ZState | empty | implicit | explicit | closed | readOnly | full | offline
deriving DecidableEq, Repr

/-- Where unit positions `first` to `last` of a zone row lie: physical row `prow` of a group (R205). Runs of
whole rows (R204) are formed from these when the extents are counted. -/
structure ZPart where
  eg : Nat
  prow : Nat
  first : Nat
  last : Nat
deriving DecidableEq, Repr

/-- A zone that drains a failed write (R145). -/
structure Drain where
  /-- Failure offset, in units from ZSLBA. -/
  offset : Nat
  /-- Sequence numbers of the work items marked 0x81 and of the failed writes. -/
  marked : List Nat
  /-- Writes fetched from this sequence number on start only once the drain ends. -/
  from_ : Nat
deriving DecidableEq, Repr

/-- A zone record (R203) and the two offsets the device keeps for it (R141). -/
structure Zone where
  nsx : Nat
  /-- Zone number within its namespace. -/
  idx : Nat
  st : ZState
  zfc : Bool
  fzr : Bool
  /-- Bound lifetime class and placement group (R151). -/
  bind : Option (Nat × Nat)
  /-- Write pointer: end of the last write whose completion is posted, units from ZSLBA. -/
  wp : Nat
  /-- Accept pointer, units from ZSLBA. -/
  ap : Nat
  /-- Units committed to flash as one contiguous run (R203). -/
  wpFlash : Nat
  /-- Frame of the first write after leaving Empty, in elapsed frames (log 20); rebased at a cold start
  (R546). -/
  firstWrite : Option Int
  /-- Predicted reset frame (R180), numbered alike. -/
  pred : Option Int
  /-- Committed parts of each zone row, by zone row (R205). -/
  exts : Tab (List ZPart)
  /-- The zone's extent blocks in their order; the first is EXT_HEAD (R203, R204). -/
  blocks : List Nat
  /-- Zone rows claimed and not yet bound, with the group in which each has a row reserved (R214). -/
  claims : Tab Nat
  /-- The group the zone's next rows bind into (R183). -/
  curGroup : Option Nat
  /-- Its own open last-shelf group, on a secure-discard namespace (R156, R229; log 114). -/
  shelf : Option Nat
  drain : Option Drain
  /-- The timed finish has fired: no write starts any more, and the zone goes to Full once those started have
  completed (R140). -/
  finishing : Bool
deriving DecidableEq, Repr

/-- What a running Format, Sanitize, INST_SANITISE or destroy does to a namespace (R159, R161). -/
inductive EraseKind | unmap | block | crypto
deriving DecidableEq, Repr

/-- The progress record of a running Format or sanitise of one namespace (R161). -/
structure Progress where
  kind : EraseKind
  /-- The format index and the protection information type the Format sets. -/
  lbaf : Nat
  pit : Nat
  ext : Bool
  pil : Bool
  /-- The erasure has begun: every work item fetched by `startFrame` has finished (R158). -/
  started : Bool
  startFrame : Nat
  /-- Erase groups the operation had to process when it began. -/
  total : Nat
deriving DecidableEq, Repr

/-- A namespace (R126). -/
structure Ns where
  /-- Owner 0 to 2,049 (R174). -/
  owner : Nat
  nsid : Nat
  zoned : Bool
  lbaf : Nat
  /-- Protection Information Type 0 to 3 (R300). -/
  pit : Nat
  /-- Metadata is contiguous with the data (extended LBA), and the PI location bit of DPS (R300). -/
  ext : Bool
  pil : Bool
  width : Nat
  /-- log2 of the zone size in bytes; 0 for a conventional namespace. -/
  zexp : Nat
  secdisc : Bool
  /-- Size in logical blocks. -/
  nsze : Nat
  attached : Bool
  /-- Speed class (R175). -/
  cls : Nat
  /-- Reservation of raw flash, bytes (R129). -/
  resv : Nat
  /-- First device zone number of the namespace. -/
  zbase : Nat
  zcount : Nat
  salt : BitVec 256
  saltGen : Half
  fmt : Option Progress
  /-- Open groups of a conventional namespace per lifetime class: host data, then collection copies (R177). -/
  hostGroup : Tab Nat
  gcGroup : Tab Nat
  /-- Rows claimed and not yet bound, oldest first, per lifetime class: the group of each (R214). -/
  claims : Tab (List Nat)
  /-- Its open last-shelf group (R229). -/
  shelfGroup : Option Nat
  /-- Units of it wait for a last-shelf group that cannot be formed (R232). -/
  blocked : Bool
deriving DecidableEq, Repr

/-- The state of the device Sanitize (R104, R161). -/
inductive SanState | idle | waiting | running | failed
deriving DecidableEq, Repr

/-- Log 0x81 (R161). -/
structure Sanitize where
  st : SanState
  kind : EraseKind
  /-- Erase groups it had to process when it began. -/
  total : Nat
  /-- A Sanitize has completed successfully. -/
  completed : Bool
  /-- Work item of the Sanitize in progress was fetched in this frame. -/
  startFrame : Nat
deriving DecidableEq, Repr

/-- A secure discard under way on a conventional namespace (R225). -/
structure Discard where
  seq : Nat
  nsx : Nat
  first : Nat
  count : Nat
  /-- Step 1 has ended, and the groups of steps 2 and 3 are known. -/
  begun : Bool
  /-- Groups that hold only stale copies, then those that hold current ones, still to be stepped through. -/
  stale : List Nat
  current : List Nat
deriving DecidableEq, Repr

structure ZoneSt where
  /-- Namespaces by device namespace index NSX. -/
  nss : Tab Ns
  /-- Zones by device zone number. -/
  zones : Tab Zone
  san : Sanitize
  discards : List Discard
  /-- Active-zone resources of each function given back in the frame in progress (R135). -/
  freed : Tab Nat
deriving DecidableEq, Repr

def Sanitize.reset : Sanitize :=
  { st := .idle, kind := .unmap, total := 0, completed := false, startFrame := 0 }

def ZoneSt.reset : ZoneSt := { nss := [], zones := [], san := Sanitize.reset, discards := [], freed := [] }

end Sys2Proof.Machine
end

