-- ==== Sys2Proof/Machine/State/Host.lean ====
section
/-! DEFINITION. State of the queue engines: the NVMe functions, their queues and features, and the tag
table (chapter Host Queues and NVMe Commands). A function is named by its owner number: 0 to
2,047 for the VF of an instance, 2,048 and 2,049 for the port 0 and port 1 PF (R178, R297). -/

namespace Sys2Proof.Machine

/-- A submission queue entry: the 64 bytes the queue engines fetch, by field (NVMe 2.0, R110). -/
structure Sqe where
  opc : Byte
  fuse : BitVec 2
  psdt : BitVec 2
  cid : Half
  nsid : Word
  cdw2 : Word
  cdw3 : Word
  mptr : Quad
  dptr : BitVec 128
  cdw10 : Word
  cdw11 : Word
  cdw12 : Word
  cdw13 : Word
  cdw14 : Word
  cdw15 : Word
deriving DecidableEq, Repr

/-- The key of a work item: function, SQID and CID (R100). SQID 0 is the admin queue. -/
structure CmdId where
  fn : Nat
  sq : Nat
  cid : Nat
deriving DecidableEq, Repr

/-- A completion status: code type, code and Do Not Retry (R117). -/
structure Status where
  sct : Nat
  sc : Nat
  dnr : Bool
deriving DecidableEq, Repr

/-- A completion queue entry. -/
structure Cqe where
  sq : Nat
  cid : Nat
  st : Status
  /-- The More bit (R117). -/
  more : Bool
  dw0 : Word
  dw1 : Word
deriving DecidableEq, Repr

/-- The phase of a fetched command (R113, R124). -/
inductive Phase
  /-- fetched, its parse not begun -/
  | fetched
  /-- parsed and waiting to start: behind a barrier, a drain, a claim or landing space -/
  | waiting
  /-- started (R113) -/
  | started
  /-- its work is done or stopped and its completion waits for its turn -/
  | done
deriving DecidableEq, Repr

/-- Why a parsed command waits to start. -/
inductive Hold | none | order | drain | reserve | landing
deriving DecidableEq, Repr

/-- A work item of the tag table (R100). -/
structure Item where
  id : CmdId
  sqe : Sqe
  /-- Position in fetch order over the whole device. -/
  seq : Nat
  /-- Frame of the doorbell write that made it available (Q of R289). -/
  bell : Nat
  /-- Frame of fetch. -/
  fetched : Nat
  /-- Generation of the owner at fetch (R346). -/
  gen : Nat
  /-- Lifetime in frames, counted from fetch; 0 for an admin command (R118). -/
  life : Nat
  /-- Frames of the lifetime that a pause has excluded (R61). -/
  paused : Nat
  phase : Phase
  hold : Hold
  /-- The single outcome latched by the tag table (R122). -/
  outcome : Option Status
  /-- Frame in which the outcome was latched. -/
  latchedAt : Nat
  dw0 : Word
  dw1 : Word
  /-- First 4 KiB unit of the command in its namespace (assigned at start for an append). -/
  unit : Nat
  /-- 4 KiB units the command acts on; for a Finish of an Empty zone the active-zone resource it
  holds until its completion (R135). -/
  count : Nat
  /-- Position in the order in which conventional writes started (R154). -/
  start : Nat
  /-- A zone's state record that must be durable before the completion is posted (R136). -/
  waitRec : Option Nat
  /-- Ranges of a Dataset Management, first unit and count, which its start has read. -/
  ranges : List (Nat × Nat)
  /-- Zones a secure-discard Reset has emptied, as they were: their resources and ages wait for the completion
  (R135, R178, R226). -/
  resets : List Zone
  /-- Units landed, for a write; units transferred, for a read. -/
  doneUnits : List Nat
  /-- Units that failed on the media (R121). -/
  failed : List Nat
  /-- The queue was deleted or the controller reset: the item finishes and posts nothing (R123). -/
  silent : Bool
  /-- Held at the porch by an activation hold (R124). -/
  held : Bool
deriving DecidableEq, Repr

/-- A submission queue: `bells` is the frame in which each unfetched entry became available. -/
structure Sq where
  size : Nat
  head : Nat
  tail : Nat
  cq : Nat
  /-- The control core whose shard holds the queue (R36). -/
  shard : Nat
  bells : List Nat
  /-- Elapsed frame of the last completion posted for the queue, and for an ORD command of it (R113). -/
  lastPost : Option Nat
  lastOrd : Option Nat
deriving DecidableEq, Repr

/-- A completion queue: `entries` are the posted entries the host has not consumed, oldest first, and
`waiting` those for which there is no free entry. -/
structure Cq where
  size : Nat
  head : Nat
  tail : Nat
  vector : Nat
  ien : Bool
  entries : List Cqe
  waiting : List Cqe
deriving DecidableEq, Repr

/-- An asynchronous event not yet reported: type, information and log (R106). -/
structure Event where
  type : Nat
  info : Nat
  log : Nat
deriving DecidableEq, Repr

/-- An Error Information entry (R108, R117). -/
structure ErrEntry where
  count : Nat
  sq : Nat
  cid : Nat
  st : Status
  lba : Nat
  nsid : Nat
deriving DecidableEq, Repr

/-- An entry of log 0xC2 (R121). -/
structure ReadFail where
  frame : Nat
  nsid : Nat
  sq : Nat
  cid : Nat
  slba : Nat
  nlb : Nat
  failed : Nat
  map : BitVec 512
deriving DecidableEq, Repr

/-- Coalescing state of one vector (R99). -/
structure Vec where
  /-- Coalescing Disable. -/
  cd : Bool
  /-- Completions pending on the vector. -/
  pend : Nat
  /-- Frame from which the aggregation time runs. -/
  since : Nat
deriving DecidableEq, Repr

/-- The features of a function (R107). -/
structure Feats where
  burst : Nat
  tempOver : Nat
  tempUnder : Nat
  dulbe : Bool
  coalThr : Nat
  coalTime : Nat
  aec : Word
  atomicDn : Bool
  /-- Timestamp last set, milliseconds; none before it is set. -/
  ts : Option Nat
  tsFrame : Nat
  lifeE : Nat
deriving DecidableEq, Repr

/-- The NVMe controller of one function. -/
structure Ctl where
  /-- CAP, which the function reports (R95). -/
  cap : Quad
  /-- CC.EN -/
  en : Bool
  /-- CSTS.RDY -/
  rdy : Bool
  /-- CSTS.CFS (R312, R441) -/
  cfs : Bool
  /-- I/O queue pairs the function holds (R96). -/
  qpairs : Nat
  /-- MSI-X vectors (R99). -/
  msix : Nat
  /-- Active-zone allocation (R133). -/
  azones : Nat
  /-- Submission queues by QID; 0 is the admin queue. -/
  sqs : Tab Sq
  cqs : Tab Cq
  feats : Feats
  vecs : Tab Vec
  /-- CIDs of the outstanding Asynchronous Event Requests, oldest first (R106). -/
  aers : List Nat
  /-- Events waiting for a request. -/
  events : List Event
  /-- Event types reported and not yet cleared by a read of their log. -/
  masked : List Nat
  /-- Error Information, newest first, at most 256. -/
  errs : List ErrEntry
  errCount : Nat
  changedNs : List Nat
  /-- Changed zones: NSID and ZSLBA (log 0xBF). -/
  changedZones : List (Nat × Nat)
  readFailTotal : Nat
  /-- Log 0xC2, newest first, at most 64. -/
  readFails : List ReadFail
  /-- Queue that took the function's last fetch turn, and whether the admin queue took the last one (R101). -/
  lastSq : Nat
  adminLast : Bool
  dataRead : Nat
  dataWritten : Nat
  cmdsRead : Nat
  cmdsWritten : Nat
  /-- Temperature Threshold crossed: Critical Warning bit 1 on this function alone (R466). -/
  tempWarn : Bool
  /-- Fetch of the function is paused until its reset ends (R349). -/
  fetchPaused : Bool
  /-- After a controller reset: its opened zones are to close once the work that finishes internally has
  ended (R123, R136). -/
  closing : Bool
  /-- Guard format of LBAF 2: false 64-bit, true 32-bit (R301). -/
  guard32 : Bool
deriving DecidableEq, Repr

/-- A PCIe port (R92, R94, R329, R526). -/
structure Port where
  link : Bool
  vfEnable : Bool
  numVfs : Nat
  totalVfs : Nat
  /-- First VF Offset and VF Stride (R92). -/
  firstVf : Nat
  vfStride : Nat
deriving DecidableEq, Repr

/-- A control core (R36 to R38). -/
structure Core where
  running : Bool
  /-- Elapsed frame from which its watchdog's 250 frames count at the earliest: the frame in which the core was
  last known to service it (R37, R60). -/
  served : Nat
  /-- The core takes a shard at the next rebalance. -/
  shardOwner : Bool
deriving DecidableEq, Repr

structure HostSt where
  /-- The functions that have a controller, by owner number. -/
  ctls : Tab Ctl
  /-- The tag table in fetch order (R100). -/
  items : List Item
  nextSeq : Nat
  nextStart : Nat
  /-- Function that took the last fetch turn (R101). -/
  lastFn : Nat
  port0 : Port
  port1 : Port
  /-- Control cores 0 to 15. -/
  cores : Tab Core
  /-- Work items released from an activation hold: those of one submission queue are parsed in fetch order (R124). -/
  porch : List Nat
  /-- Admin commands held while core 0 restarted: it processes them in arrival order (R38). -/
  kept : List Nat
deriving DecidableEq, Repr

def Port.reset : Port := { link := false, vfEnable := false, numVfs := 0, totalVfs := 0, firstVf := 1, vfStride := 1 }

/-- The queue engines at a cold start: no controller, no command (R92); the first turn goes to the port 0 PF, the
lowest CNTLID (log 8). -/
def HostSt.reset : HostSt :=
  { ctls := [], items := [], nextSeq := 0, nextStart := 0, lastFn := 2047, port0 := Port.reset, port1 := Port.reset,
    cores := [], porch := [], kept := [] }

end Sys2Proof.Machine
end

