-- ==== Sys2Proof/Machine/State/Media.lean ====
section
/-! DEFINITION. State of the landing buffer, the maps, the erase groups, the journal store and free space
(chapters Placement Engine, and Translation, Wear and Free Space). -/

namespace Sys2Proof.Machine

/-- The content of one 4 KiB unit. -/
abbrev UnitData := BitVec 32768

/-- The unit header (R297). -/
structure UnitHdr where
  owner : Half
  nsx : Half
  lba : Quad
  gen : Byte
  poison : Bool
  zeros : Bool
  saltGen : Half
deriving DecidableEq, Repr

/-- KIND of a codeword's information part (R267). -/
inductive UKind | data | pad | refuge | system
deriving DecidableEq, Repr

/-- A unit as it is stored: the information part of its codeword (R267). -/
structure Stored where
  data : UnitData
  /-- META, 64 bytes. -/
  meta_ : BitVec 512
  hdr : UnitHdr
  /-- STORED_CHECK (R296). -/
  check : Quad
  kind : UKind
  flushSeq : Nat
deriving DecidableEq, Repr

/-- A place on flash: group, row, data die-page and slot (R206). -/
structure Loc where
  eg : Nat
  row : Nat
  ddp : Nat
  slot : Nat
deriving DecidableEq, Repr

/-- A page-map entry (R206): where a conventional unit is. A landing-buffer entry is named by its landing
order. -/
inductive PmEntry | landing (order : Nat) | flash (loc : Loc)
deriving DecidableEq, Repr

/-- A landing-buffer entry: a 4 KiB slot and its companion record (R304). -/
structure Landed where
  /-- Its slot of 4 KiB, LBSLOT of R206. -/
  slot : Nat
  nsx : Nat
  /-- Unit number in the namespace. -/
  unit : Nat
  stored : Stored
  /-- Work item that wrote it while its completion is not posted; none once acknowledged. -/
  writer : Option Nat
  /-- The earlier location of R548, for a conventional unit. -/
  earlier : Option PmEntry
  /-- The place it is bound to, once its row is bound (R170). -/
  bound : Option Loc
  /-- Reads that pin the entry (R30). -/
  pins : Nat
  /-- Frame in which it landed. -/
  frame : Nat
  /-- Landing order. -/
  order : Nat
  /-- Lifetime class of the handle (R177). -/
  lc : Nat
  /-- Its map update is committed; the entry goes when no read pins it. -/
  committed : Bool
deriving DecidableEq, Repr

/-- STATE of an erase group (R207). -/
inductive EgState | opened | closed | pendingErase | refuge | system
deriving DecidableEq, Repr

/-- A substitute of a member: it holds rows from `off` on, its ROW_OFFSET (R185, R208). -/
structure Subst where
  die : Nat
  block : Nat
  off : Nat
  lost : Bool
deriving DecidableEq, Repr

/-- A member of an erase group, with its substitutes, newest first (R185, R208). -/
structure Member where
  die : Nat
  block : Nat
  substs : List Subst
  /-- The original member is lost. -/
  lost : Bool
deriving DecidableEq, Repr

/-- An erase group (R207). -/
structure Group where
  owner : Nat
  nsx : Nat
  lc : Nat
  pg : Nat
  shared : Bool
  secdisc : Bool
  rebuild : Bool
  subs : Nat
  width : Nat
  cls : Nat
  st : EgState
  pslc : Bool
  shelf : Bool
  refresh : Bool
  retire : Bool
  pack : Bool
  /-- Group takes collection copies (R177). -/
  gc : Bool
  /-- Closed early at its next row: no further row is bound in it (R185). -/
  early : Bool
  nextRow : Nat
  /-- Rows reserved by claims and not yet bound (R214). -/
  reserved : Nat
  rows : Nat
  valid : Nat
  pred : Option Int
  /-- Frame of the first write of the zone for whose claim it was formed. -/
  predFrom : Int
  lastProg : Int
  members : List Member
  /-- Rows bound whose commit is outstanding. -/
  inFlight : List Nat
  /-- Regions of a secure-discard namespace programmed into the group (R224). -/
  regions : List Nat
  /-- Device zone numbers with rows in the group. -/
  zones : List Nat
  /-- Code-rate wear band, fixed when the group opens (R269). -/
  band : Nat
  /-- A relocation is in progress (R216). -/
  victim : Bool
  /-- Its place in the pending-erase list, from the submission of its record on (R199). -/
  pendIdx : Option Nat
  /-- Its region map, in a secure-discard conventional namespace (R224). -/
  regionMap : Option Nat
  /-- Die blocks whose erase is outstanding, by member. -/
  erasing : List Nat
deriving DecidableEq, Repr

/-- STATE of a die block (R208). -/
inductive BlkState | free | inGroup | incomplete | retired | bad
deriving DecidableEq, Repr

/-- A die-block entry (R208). -/
structure DieBlock where
  pe : Nat
  st : BlkState
  eg : Nat
  member : Nat
  pslc : Bool
  rowOffset : Nat
  /-- A program of one of its pages failed (R218). -/
  progFailed : Bool
deriving DecidableEq, Repr

/-- What a committed record makes of a zone (R136, R138). -/
inductive ZoneTo
  /-- explicitly opened -/
  | opened
  /-- closed, or Empty with its write pointer at ZSLBA -/
  | closed
  /-- finished: Full, the write pointer at the zone's end -/
  | finished
  /-- filled: Full by a write that ends at the capacity -/
  | filled
  /-- reset: Empty, every unit unmapped -/
  | empty
  /-- emptied by a Format or sanitise, which teaches no age (R178) -/
  | wiped
  | offline
  /-- a state change that has taken effect already; the state and FZR it replaced stand again where the record is
  lost -/
  | told (old : ZState) (fzr : Bool)
deriving DecidableEq, Repr

/-- The journal record types (R202). -/
inductive JType | zoneExt | pageRow | zoneState | unmap | egState | erasePend | eraseDone | secureStep
deriving DecidableEq, Repr

/-- Where a unit of a row comes from: the landing buffer, or a copy of what a place on flash holds. -/
inductive RowSrc | landing (order : Nat) | copy (old : Loc)
deriving DecidableEq, Repr

/-- A unit of a bound row: its number in the namespace and what is programmed. -/
structure RowUnit where
  unit : Nat
  src : RowSrc
  stored : Stored
deriving DecidableEq, Repr

/-- A row on its way from binding to its map commit (R170, R221). -/
structure RowOp where
  eg : Nat
  row : Nat
  nsx : Nat
  /-- Device zone and zone row, for a zoned row. -/
  zone : Option (Nat × Nat)
  /-- Lifetime class of a conventional row. -/
  lc : Nat
  /-- The unit at each unit position; a position not listed holds a pad. -/
  units : Tab RowUnit
  /-- The victim whose units a relocation row copies. -/
  reloc : Option Nat
  /-- The parity die-page that the stripe parity unit has formed, by slot (R27, R271). -/
  parity : List Stored
  /-- Members whose program status is outstanding, and whether one has failed. -/
  outstanding : List Nat
  failed : Bool
  /-- Its programs have been charged to the owner (R342). -/
  charged : Bool
  /-- It is a re-placement of a row whose program failed (R184, R493). -/
  again : Bool
  /-- Frame in which it was bound. -/
  frame : Nat
deriving DecidableEq, Repr

/-- What an EG_STATE record says of its group (R202): it is opened, it is closed, or a member takes a substitute. -/
inductive EgTo | opened | closed | substitute (member : Nat)
deriving DecidableEq, Repr

/-- A journal record submitted to the ring (R201, R202), with what its commit brings about. -/
structure JRec where
  type : JType
  seq : Nat
  frame : Nat
  /-- Its payload and the CRC-32C over the record, as the ring holds them (R201). -/
  body : List Byte
  crc : Word
  /-- A line of it was found uncorrectable (R503), and the SEQ of the record that it repeats. -/
  damaged : Bool
  again : Option Nat
  /-- What becomes of the group of an EG_STATE record. -/
  egTo : Option EgTo
  /-- The row whose map update it carries. -/
  row : Option RowOp
  /-- Zones and the states they take. -/
  zst : List (Nat × ZoneTo)
  /-- A range of units unmapped: namespace, first unit, count. -/
  unmap : Option (Nat × Nat × Nat)
  /-- The group a group record names. -/
  eg : Nat
  /-- Groups put on the pending-erase list with it. -/
  erase : List Nat
  /-- Work items whose completion waits for it. -/
  items : List Nat
  /-- 16-byte words of the record. -/
  len : Nat
  /-- Home lines it changes that are not written yet, and page-map segments no checkpoint covers yet (R200). -/
  todo : List Nat
  segs : List Nat
deriving DecidableEq, Repr

/-- A relocation victim in progress (R216, R221). -/
structure Victim where
  eg : Nat
  prio : Nat
  /-- Copies decoded and not yet bound. -/
  copies : List (Nat × Loc × Stored)
  /-- Rows of copies whose programs have passed: they are committed when all of them have (R221 step 3). -/
  rows : List RowOp
  /-- Units that a read of ladder step 6 has left in place (R287). -/
  stuck : List Loc
deriving DecidableEq, Repr

/-- A unit written to the refuge area (R227): the refuge group that carries it and the flush that wrote it. -/
structure RefugeUnit where
  eg : Nat
  entry : Landed
  seq : Nat
deriving DecidableEq, Repr

/-- A page-map segment as the checkpoint holds it (R206): the SEQ of the newest ring record it reflects, its CRC-64, the
dies of its two copies, and its entries by unit, those in the landing buffer with the place they have on flash. -/
structure Ckpt where
  seq : Nat
  crc : Quad
  dies : List Nat
  entries : Tab Loc
deriving DecidableEq, Repr

/-- A learned-age entry (R179): COUNT, MEAN in 1/16 of log2, frame of the last update, and COUNT and MEAN at the
boundary that began that frame (R180). -/
structure Learned where
  count : Nat
  mean : Int
  used : Int
  was : Nat × Int
  changed : Bool
deriving DecidableEq, Repr

/-- The learned-age table, keyed by instance, lifetime class and placement group; PG 4,096 is the
aggregate entry of (instance, lifetime class) (R178). -/
structure AgeEntry where
  inst : Nat
  lc : Nat
  pg : Nat
  age : Learned
deriving DecidableEq, Repr

/-- Write-amplification and placement counts of one owner (R193, R196). -/
structure Amp where
  host : Nat
  prog : Nat
  hostMin : Nat
  progMin : Nat
  lastHost : Nat
  lastProg : Nat
  padMin : Nat
  lastPad : Nat
  mispred : Nat
  contMin : Nat
  lastCont : Nat
deriving DecidableEq, Repr

/-- The running placement policy (R195). -/
structure Policy where
  gcShare : Nat
  matchShift : Nat
  /-- LC_AGE[1] to LC_AGE[7], by class. -/
  lcAge : Tab Nat
deriving DecidableEq, Repr

/-- A die class found at boot (R244, R245, R412). -/
structure Class where
  /-- Class key (R244). -/
  key : List Byte
  rows : Nat
  blocks : Nat
  bitsPerCell : Nat
  tR : Nat
  tProg : Nat
  tBers : Nat
  tSus : Nat
  /-- Parameter-page maxima, frames (R255). -/
  maxR : Nat
  maxProg : Nat
  maxBers : Nat
  suspProg : Nat
  suspErase : Nat
  /-- Suspension on: the command table gives the opcodes and tSUS is at most 20 (R238, R245). -/
  suspend : Bool
  pslc : Bool
  ratedPe : Nat
  pslcPe : Nat
  /-- Rate index of native bands 0 to 3, then pSLC (R269). -/
  rates : List Nat
  /-- Range of read-level offsets, and the sign direction per page type (R412). -/
  ofsMin : Int
  ofsMax : Int
  dir : Nat
  /-- In the last-shelf state (R230). -/
  lastShelf : Bool
  /-- Planes of a die (R242). -/
  planes : Nat
  /-- The die command table (R238, R412): suspend and resume of a program and of an erase, the feature address of the
  read levels, whether they are LUN features, and the pSLC entry prefix and exit opcode. -/
  suspOps : List Nat
  levelAddr : Nat
  levelLun : Bool
  pslcIn : Nat
  pslcOut : Nat
deriving DecidableEq, Repr

structure MediaSt where
  landing : List Landed
  nextOrder : Nat
  /-- Landing-buffer size in force, GiB (R448); 0 in write-through. -/
  lbSize : Nat
  writeThrough : Bool
  /-- The page map of conventional units, by nsx × 2^40 + unit; a unit not listed is unmapped. -/
  pageMap : Tab PmEntry
  groups : Tab Group
  /-- Die blocks by die × 16,384 + block; a die block not listed is free and unused (PE 0). -/
  blocks : Tab DieBlock
  /-- What has been programmed: by eg × 2^24 + row × 2^9 + unit position. -/
  flash : Tab Stored
  /-- The parity die-pages of the rows programmed (R168, R271): by eg × 2^24 + row × 2^9 + slot. -/
  parity : Tab Stored
  rowOps : List RowOp
  /-- Rows ready for dispatch, in the order in which they became ready: frame, namespace, and the first unit of the zone
  row or the lifetime class (R170). -/
  ready : List (Nat × Nat × Nat)
  /-- Records submitted and not yet committed, oldest first (R201). -/
  ring : List JRec
  /-- Records committed whose home lines are not written (R200). -/
  uncopied : List JRec
  nextJSeq : Nat
  ringFullFrames : Nat
  /-- Frame of the last write of each home line, for the interval of R200. -/
  homeWrites : Tab Nat
  /-- Changed page-map segments, oldest change first (R206). -/
  dirtySegs : List Nat
  spareLines : Nat
  /-- Home lines as the engine has last written them, for the tables whose records R203 to R208 and R224 give, and the
  lines that a spare line has replaced, with the number of the spare. -/
  home : Tab (List Byte)
  replaced : Tab Nat
  /-- Reads in the record period in progress that have corrected a line (R501). -/
  corrected : Tab Nat
  journalReadOnly : Bool
  /-- The page-map checkpoint, by segment (R206). -/
  checkpoint : Tab Ckpt
  victims : List Victim
  refuge : List RefugeUnit
  flushSeq : Nat
  /-- The system group that holds the wrapped keys and salts, and those that held earlier ones and are not erased yet
  (R324). -/
  keyArea : Option Nat
  keyStale : List Nat
  /-- The system groups of the image slots: copy 0 and 1 of slot 1, then of slot 2 (R392). -/
  slotGroups : Tab Nat
  /-- Refuge limit of R33 in GiB, from the pSLC rate measured at boot. -/
  refugeLimit : Nat
  ages : List AgeEntry
  /-- The learned ages as last committed to the journal store (R179). -/
  agesSaved : List AgeEntry
  amps : Tab Amp
  /-- Host units landed and units programmed since the cold start, over all owners (R196). -/
  hostUnits : Nat
  progUnits : Nat
  policy : Policy
  /-- A policy change accepted and due at the next boundary (R195). -/
  policyDue : Option Policy
  classes : Tab Class
  slowFallbacks : Nat
  classFallbacks : Nat
  substitutions : Nat
  marks : Nat
deriving DecidableEq, Repr

/-- The defaults of R195 for the policy. -/
def Policy.reset : Policy := { gcShare := 15, matchShift := 3, lcAge := [] }

/-- No flash found yet, nothing landed, an empty journal ring; 22.75 MiB of spare lines of 64 bytes (R199, R501). -/
def MediaSt.reset : MediaSt :=
  { landing := [], nextOrder := 0, lbSize := 0, writeThrough := false, pageMap := [], groups := [],
    blocks := [], flash := [], parity := [], rowOps := [], ready := [], ring := [], uncopied := [], nextJSeq := 0,
    ringFullFrames := 0, homeWrites := [], dirtySegs := [], spareLines := 372736, home := [], replaced := [], corrected := [],
    journalReadOnly := false, checkpoint := [],
    victims := [], refuge := [], flushSeq := 0, keyArea := none, keyStale := [], slotGroups := [], refugeLimit := 0,
    ages := [], agesSaved := [], amps := [], hostUnits := 0, progUnits := 0, policy := Policy.reset, policyDue := none, classes := [],
    slowFallbacks := 0, classFallbacks := 0, substitutions := 0, marks := 0 }

end Sys2Proof.Machine
end

