-- ==== Sys2Proof/Machine/State/Power.lean ====
section
/-! DEFINITION. State of the power states, power loss, the boot sequencer, the management core, thermal
control and the pins (chapters Power States and Power Loss; Management Subsystem and Thermal
Control; Package, Balls and Electrical Limits). -/

namespace Sys2Proof.Machine

/-- An entry to PS3 or PS4 in progress (R428). -/
structure Entry where
  target : Nat
  from_ : Nat
  /-- Work item of the Set Features that asked for it; none for an autonomous entry. -/
  item : Option Nat
  /-- A wake event has arrived during it (R433). -/
  wake : Bool
deriving DecidableEq, Repr

/-- One entry of the APST data structure (R426). -/
structure Apst where
  itps : Nat
  itpt : Nat
deriving DecidableEq, Repr

/-- Refusals of entries to one of PS3, PS4 (R438). -/
structure Refusals where
  /-- Counts by refuser code 1 to 7. -/
  counts : Tab Nat
  last : Nat
  lastAbort : Bool
  lastAuto : Bool
  lastFrame : Nat
  auto : Nat
deriving DecidableEq, Repr

/-- A power-loss flush (R442 to R445). -/
structure Flush where
  /-- Frame P. -/
  p : Nat
  /-- It was started by the fire door, else by PF_N. -/
  fire : Bool
  /-- Only the commit row runs (R445). -/
  commitOnly : Bool
deriving DecidableEq, Repr

/-- Where the boot sequencer stands (R439, R471, R517). -/
inductive Boot
  /-- standby rails absent -/
  | off
  /-- waiting for the crystal -/
  | crystal
  /-- waiting for power-good of the rails of PWR_EN group 0 to 3 -/
  | rails (group : Nat)
  /-- all rails good: the ROM runs -/
  | rom
  /-- the controller runs -/
  | running
  /-- a start failed: 100 ms to the next attempt -/
  | retry
  /-- held until PERST# or a power cycle -/
  | held
  /-- the flush has ended; domains stopped -/
  | stopped
  /-- the fire door's hold, cooling -/
  | fireHold
  /-- the permanent hold of R471 -/
  | permanent
deriving DecidableEq, Repr

structure PowerSt where
  /-- Power state in force, 0 to 4. -/
  ps : Nat
  /-- Operational state in force before an entry. -/
  lastOp : Nat
  /-- Power states requested by Set Features and due at the next boundary, each with its work item. -/
  psDue : List (Nat × Nat)
  entry : Option Entry
  /-- The exit of R434 is in progress from frame W. -/
  exitFrom : Option Nat
  /-- Frames of PS3 or PS4 whose boundary work is due at the next boundary (R43). -/
  deferred : Nat
  /-- The hall counter at the stop, and frames AON has counted since (R43). -/
  aonCount : Nat
  apste : Bool
  apst : Tab Apst
  /-- Frame P of the last flush record (R444), and the frame count last committed under R428 or R445 (R546). -/
  flushP : Nat
  committedAt : Nat
  /-- Frame from which the idle timer runs (R426). -/
  idleFrom : Option Nat
  entries : Tab Nat
  wakesInEntry : Nat
  gated : Nat
  failedExits : Nat
  flushes : Nat
  lastFlush : Nat
  longestFlush : Nat
  ps3Frames : Nat
  ps4Frames : Nat
  wtFrames : Nat
  ref3 : Refusals
  ref4 : Refusals
  flush : Option Flush
  boot : Boot
  attempts : Nat
  /-- Fault code: kind and rail (R440). -/
  faultKind : Nat
  faultRail : Nat
  /-- Attempts made, as the fault code latched them (R440). -/
  faultAttempts : Nat
  /-- Hold-up: energy in 0.01 J, OK, reads without an answer in a row (R447). -/
  energy : Nat
  holdupOk : Bool
  holdupMiss : Nat
  /-- L computed and due at the next boundary (R448). -/
  lbDue : Option Nat
  /-- Rails with power-good, by number 1 to 12. -/
  good : List Nat
  /-- RC fallback clocks AON (R24). -/
  rcFallback : Bool
deriving DecidableEq, Repr

/-- A diode (R459 to R462). Temperatures are in 1/8 °C. -/
structure Diode where
  /-- ROR_WARN held in its last sample. -/
  warn : Bool
  /-- Samples, newest first, at most 1,000. -/
  ring : List Int
  broken : Bool
  /-- Last ADC code, the frame in which it last changed, and the reading of every diode then. -/
  code : Nat
  codeFrom : Nat
  max : Int
  min : Int
deriving DecidableEq, Repr

/-- A remote thermistor input (R459, R461, R465). -/
structure Remote where
  value : Int
  broken : Bool
  code : Nat
  codeFrom : Nat
  step : Nat
  /-- Frame from which a fall is counted. -/
  fallFrom : Nat
  max : Int
  min : Int
  /-- Readings of the neighbours when the code last changed. -/
  near : List Int
deriving DecidableEq, Repr

/-- A thermal zone (R463). -/
structure TZone where
  step : Nat
  /-- Step due at the next boundary. -/
  due : Option Nat
  /-- Frame of the last rise the rate condition caused, and of the last sample in which it held. -/
  rateRise : Option Nat
  quietFrom : Nat
deriving DecidableEq, Repr

/-- Fire-door state of byte 0xF2 (R458). -/
inductive Fire | normal | cooling | permanent
deriving DecidableEq, Repr

/-- A trip as AON retention and the since-manufacture block keep it (R469, R484). -/
structure Trip where
  frame : Nat
  boot : Nat
  zone : Nat
  cause : Nat
  voters : List Nat
  readings : List Int
deriving DecidableEq, Repr

structure ThermSt where
  diodes : Tab Diode
  remotes : Tab Remote
  zones : Tab TZone
  /-- Readings when a diode's code last changed, for the stuck judgement (R461): by diode. -/
  stuckRef : Tab (List Int)
  rails : Tab Nat
  holdupMv : Nat
  power10mw : Nat
  rorWarn : Nat
  rorThrottle : Nat
  lastRorWarn : Option Nat
  /-- Frames at device step 1 to 4. -/
  stepFrames : Tab Nat
  fire : Fire
  fireZone : Nat
  fireCause : Nat
  trips : Nat
  /-- A trip not yet taken into the since-manufacture block. -/
  tripKept : Option Trip
  /-- The cooling condition is met and counting (R470). -/
  cooling : Bool
  /-- Frames at or above T_WARN and T_THROTTLE, which log 0x02 reports in minutes (R466). -/
  wctt : Nat
  cctt : Nat
  /-- Critical warnings of log 0x02, device-wide bits 0 to 4 (R108). -/
  critical : BitVec 5
  mediaErrors : Nat
  tWarn : Nat
  tThrottle : Nat
  remoteLimit : List Nat
deriving DecidableEq, Repr

/-- NVMe-MI control primitive state of one command slot (R456). -/
structure MiSlot where
  paused : Bool
  /-- The last response, for Replay. -/
  last : List Byte
  /-- A command is being processed. -/
  busy : Bool
deriving DecidableEq, Repr

structure MgmtSt where
  running : Bool
  /-- Elapsed frame in which it last serviced its watchdog, as far as is known; the frame in which it stopped (R453). -/
  served : Nat
  /-- Sideband messages held during a restart, oldest first, at most 16, each with its transport (R453). -/
  held : List (Nat × List Byte)
  restarts : Nat
  discarded : Nat
  /-- Endpoint IDs and transmission units per transport (R454): I3C 0, SMBus 1, VDM 2 and 3. -/
  eids : Tab Nat
  mtu : Tab Nat
  smbusFreq : Nat
  healthChange : Nat
  /-- STATUS_WORD of the hold-up controller as last read (R525). -/
  statusWord : Nat
  slot : MiSlot
deriving DecidableEq, Repr

/-- The instructions of a JTAG chain (R367, R533): those of IEEE 1149.1, and any other by its code. -/
inductive JtagIr | bypass | idcode | sample | extest | clamp | highz | debug (code : Nat)
deriving DecidableEq, Repr

/-- The pins (R511, R525). Active-low inputs are held as "asserted". -/
structure Pins where
  pfLow : Bool
  cellar : Bool
  ownerClaim : Bool
  /-- FAULT_N driven low (R525). -/
  fault : Bool
  /-- ALERT_N asserted (R472). -/
  alert : Bool
  /-- GPIO_3 driven low, with BALLS [0] = 1 (R525). -/
  gpio3 : Bool
  pwrEn : List Bool
  /-- The instruction in force on the two JTAG chains (R533). -/
  jtag : JtagIr
  jtag2 : JtagIr
  /-- Console characters taken in. -/
  console : List Byte
deriving DecidableEq, Repr

def Refusals.reset : Refusals :=
  { counts := [], last := 0, lastAbort := false, lastAuto := false, lastFrame := 0, auto := 0 }

/-- Standby rails absent, nothing counted (R439, R438). -/
def PowerSt.reset : PowerSt :=
  { ps := 0, lastOp := 0, psDue := [], entry := none, exitFrom := none, deferred := 0,
    aonCount := 0, apste := false, apst := [], idleFrom := none, entries := [], wakesInEntry := 0,
    gated := 0, failedExits := 0, flushes := 0, lastFlush := 0, longestFlush := 0, flushP := 0, committedAt := 0, ps3Frames := 0,
    ps4Frames := 0, wtFrames := 0, ref3 := Refusals.reset, ref4 := Refusals.reset, flush := none,
    boot := .off, attempts := 0, faultKind := 0, faultRail := 0, faultAttempts := 0, energy := 0, holdupOk := false,
    holdupMiss := 0, lbDue := none, good := [], rcFallback := false }

/-- No sample taken, every step 0, fire door closed, the default temperatures (R458, R463, R467). -/
def ThermSt.reset : ThermSt :=
  { diodes := [], remotes := [], zones := [], stuckRef := [], rails := [], holdupMv := 0,
    power10mw := 0, rorWarn := 0, rorThrottle := 0, lastRorWarn := none, stepFrames := [],
    fire := .normal, fireZone := 0, fireCause := 0, trips := 0, tripKept := none, cooling := false,
    wctt := 0, cctt := 0, critical := 0, mediaErrors := 0, tWarn := 100, tThrottle := 110,
    remoteLimit := [75, 75, 75, 75] }

def MiSlot.reset : MiSlot := { paused := false, last := [], busy := false }

def MgmtSt.reset : MgmtSt :=
  { running := false, served := 0, held := [], restarts := 0, discarded := 0, eids := [], mtu := [], smbusFreq := 1,
    healthChange := 0, statusWord := 0, slot := MiSlot.reset }

def Pins.reset : Pins :=
  { pfLow := false, cellar := false, ownerClaim := false, fault := false, alert := false,
    gpio3 := false, pwrEn := [], jtag := .idcode, jtag2 := .idcode, console := [] }

end Sys2Proof.Machine
end

