-- ==== Sys2Proof/Machine/State/Protect.lean ====
section
/-! DEFINITION. State of keys, protection and the owner (chapters Integrity from End to End and Protection
Set-up and Two-Party Changes). -/

namespace Sys2Proof.Machine

/-- STATE of a key slot (R322). -/
inductive SlotState | device | injected
deriving DecidableEq, Repr

/-- A key slot that is not empty (R322). -/
structure KeySlot where
  key : BitVec 512
  st : SlotState
  /-- Owner the slot is bound or assigned to. -/
  owner : Option Nat
deriving DecidableEq, Repr

/-- The two parties (R7). -/
inductive Party | manager | owner
deriving DecidableEq, Repr

/-- A change record of 64 bytes, by field (R372). -/
structure Change where
  cls : Nat
  op : Nat
  index : Nat
  /-- VALUE, 40 bytes, byte 0 least significant. -/
  value : BitVec 320
  /-- Reserved bytes [7:4] and [63:48]. -/
  rsvd : Nat
deriving DecidableEq, Repr

/-- A pending proposal (R373 to R375). -/
structure Proposal where
  rec_ : Change
  nonce : Quad
  digest : BitVec 384
  proposer : Party
  /-- PROPOSED_FRAME, and the elapsed frame its deadline is armed in (R374). -/
  frame : Nat
  armed : Nat
  fails : Nat
  /-- The key of an INJECT, wrapped as the inactive candidate (R385). -/
  key : Option (BitVec 512)
deriving DecidableEq, Repr

/-- LAST_OUTCOME of a class (R383). -/
inductive Outc | none | applied | withdrawn | rejected | expired | discarded | refused | partyReset | lost
deriving DecidableEq, Repr

/-- A confirmation accepted and due at the boundary after its write ends (R374). -/
structure Confirmed where
  prop : Proposal
  /-- The write of the protection state has ended. -/
  written : Bool
  by_ : Party
  /-- SCP tag of the confirmer's request, when it came by SCP. -/
  tag : Option Nat
deriving DecidableEq, Repr

/-- The debug enables (R367). -/
structure Debug where
  jtag : Bool
  chain2 : Bool
  console : Bool
deriving DecidableEq, Repr

/-- An SPDM session (R369): the link it runs on and whether the requester is authenticated. -/
inductive Sideband | i3c | smbus | vdm0 | vdm1
deriving DecidableEq, Repr

structure Session where
  link : Sideband
  /-- The requester has authenticated with the owner key (R369). -/
  mutualAuth : Bool
deriving DecidableEq, Repr

/-- A claim nonce that is outstanding (R370). -/
structure Claim where
  nonce : BitVec 256
  frame : Nat
deriving DecidableEq, Repr

structure ProtSt where
  /-- Pending proposal of each class 1 to 6. -/
  pending : Tab Proposal
  confirmed : List Confirmed
  outcomes : Tab Outc
  fwLock : Bool
  enables : Debug
  calWe : Bool
  acceptImages : Bool
  forward : Bool
  /-- Registered owner key, X then Y (R370). -/
  ownerKey : Option (BitVec 768)
  claim : Option Claim
  /-- Sequence number of the protection-state copies (R368). -/
  seq : Nat
  /-- Which of the two copies is valid (R368). -/
  copyA : Bool
  copyB : Bool
  sessions : List Session
  /-- Replies that the owner was told are not ready, oldest first: it collects them with RESPOND_IF_READY (R369). -/
  replies : List (Nat × List Nat)
  /-- Key slots that are not empty, by slot 0 to 4,095. -/
  slots : Tab KeySlot
  /-- The TRNG health tests pass (R325). -/
  trngOk : Bool
  /-- Draws taken from the TRNG so far: the model's own field, the argument of the free random values. -/
  draws : Nat
deriving DecidableEq, Repr

/-- ECC test mode: the windows by target × 8,192 + index hold 80-bit words; a word not listed is the
all-zero codeword (R317, R318). -/
structure EccSt where
  mode : Bool
  words : Tab (BitVec 80)
  /-- Frames counted in the scrub cycle in progress, of 2^24 frames over the DRAM channels and of 2^20 over the SRAMs;
  frames of PS3 and PS4 do not count (R60, R61, R315, R316). -/
  dramScrub : Nat
  sramScrub : Nat
deriving DecidableEq, Repr

/-- DEC-TED counts of one memory (R313). -/
structure DecCount where
  single : Nat
  double : Nat
  uncorr : Nat
  pSingle : Nat
  pDouble : Nat
  pUncorr : Nat
deriving DecidableEq, Repr

/-- The protected objects at their values at manufacture (R367). -/
def ProtSt.reset : ProtSt :=
  { pending := [], confirmed := [], outcomes := [], fwLock := false,
    enables := { jtag := false, chain2 := false, console := false }, calWe := false, acceptImages := true,
    forward := true, ownerKey := none, claim := none, seq := 0, copyA := true, copyB := true,
    sessions := [], replies := [], slots := [], trngOk := true, draws := 0 }

def EccSt.reset : EccSt := { mode := false, words := [], dramScrub := 0, sramScrub := 0 }

end Sys2Proof.Machine
end

