-- ==== Sys2Proof/Syntax.lean ====
section
/-! DEFINITION. The commands of the block: one constructor per row of spec/opcode_table.json, with the
operands its rule gives it. What the environment decides (a sample, a status a die reports, the bytes in
host memory, a verdict of a container's signature) is an operand. -/

namespace Sys2Proof

open Sys2Proof.Machine

/-- The two physical functions, which own a device window each (R62). -/
inductive Pf | port0 | port1
deriving DecidableEq, Repr

/-- What cuts a DMA short. -/
inductive DmaCut
  /-- the link fails the transfer at this byte offset (R67, R547) -/
  | link (off : Nat)
  /-- the holder of LATCH_1 moves HOST_EPOCH while the transfer stands at this byte offset, by releasing the
  latch or else by MBX_CTL.RESET (R78, R80); only a bulk descriptor's transfer meets it -/
  | epoch (off : Nat) (release : Bool)
deriving DecidableEq, Repr

/-- What a descriptor or data-pointer DMA does: the bytes host memory holds (for a read), and what cuts the
transfer short, if anything does. -/
structure Dma where
  bytes : List Byte
  failAt : Option DmaCut
deriving DecidableEq, Repr

/-- The link fails the transfer (R547). -/
def Dma.linkFails (d : Dma) : Bool :=
  match d.failAt with
  | some (.link _) => true
  | _ => false

/-- The path an owner-or-manager request takes: the head SCP request with its descriptor DMA, or an owner
request on a sideband link with its payload (R369, R384, R411). -/
inductive Via
  | scp (dma : Dma)
  | owner (link : Sideband) (payload : List Byte)
deriving DecidableEq, Repr

/-- What the LDPC array finds when it decodes a codeword (R273): the corrected bit flips read low as high
and high as low, a failure to converge, or a wrong codeword that converges. -/
inductive DecodeOut
  | good (up down : Nat)
  /-- it failed after its first transfer and decodes after a second one with no new sensing (R249) -/
  | retried (up down : Nat)
  | fail
  | wrong
deriving DecidableEq, Repr

/-- One copy of the parameter page of a LUN (R244). Times are in frames, rounded up. -/
structure Page where
  mfr : Nat
  model : List Byte
  bits : Nat
  planes : Nat
  dataBytes : Nat
  spareBytes : Nat
  pages : Nat
  blocksPerLun : Nat
  lunsPerTarget : Nat
  /-- ONFI 5.0 or later. -/
  onfi5 : Bool
  /-- VccQ = 1.2 V is supported (R527). -/
  vccq12 : Bool
  /-- Multi-plane page programs in ascending page order are accepted. -/
  multiPlane : Bool
  ratedPe : Nat
  maxR : Nat
  maxProg : Nat
  maxBers : Nat
  /-- Ladder step of the highest rate its timing modes allow. -/
  fastest : Nat
deriving DecidableEq, Repr

/-- A LUN that answers at a die number during identification (R244 to R247): the redundant copies of its parameter
page, each with whether its CRC verifies, and the die blocks with a plane marked bad. -/
structure FoundLun where
  die : Nat
  copies : List (Bool × Page)
  bad : List Nat
deriving DecidableEq, Repr

/-- The parameter page the device uses: the first copy whose CRC verifies (R244). -/
def FoundLun.page (l : FoundLun) : Option Page := (l.copies.find? fun c => c.1).map (·.2)

/-- A line of 64 bytes of the journal store (R199, R501): of the ring, by the SEQ of a record in it; of a home table, by
its number; of the other regions, by its place in them. -/
inductive JLine
  | ring (seq : Nat)
  | home (line : Nat)
  | cfg (copyB : Bool) (line : Nat)
  | calib (line : Nat)
  | ages (line : Nat)
  | mantel (line : Nat)
  | attic (line : Nat)
  | since (line : Nat)
deriving DecidableEq, Repr

/-- A line that a read finds failing: corrected, one or two bits a word, or uncorrectable (R501, R503). -/
structure LineFind where
  line : JLine
  uncorrectable : Bool
deriving DecidableEq, Repr

/-- A descriptor DMA over a region of the flash system area, and what the reads of its lines find (R501, R503). -/
structure RegionDma where
  dma : Dma
  finds : List LineFind
deriving DecidableEq, Repr

/-- What a home line's write reads: its read-back, and the lines that fail at a read (R501, R503, R505). -/
structure HomeReads where
  readBackOk : Bool
  finds : List LineFind
deriving DecidableEq, Repr

/-- A channel's training at work (R248, R249). -/
structure TrainOut where
  /-- the DQS phase monitor reports more than 1/8 UI -/
  drift : Bool
  /-- the target in training has been trained -/
  good : Bool
deriving DecidableEq, Repr

/-- What a start of the firmware reads from the board, the fuses and the flash (R394). -/
structure BootFind where
  /-- Verdict of the image copy at each try, and whether its firmware reports ready (R395). -/
  copies : List (Verdict × Bool)
  /-- The copies of the configuration record, the protection state and the calibration set verify. -/
  cfgA : Bool
  cfgB : Bool
  protA : Bool
  protB : Bool
  calOk : Bool
  luns : List FoundLun
  /-- Channels that do not train at their rate: the ladder step at which they do, 8 for none (R248, R252). -/
  trains : List (Nat × Nat)
  /-- Zones whose acknowledged units cannot all be found after a loss in the journal store (R504). -/
  lostZones : List Nat
  /-- Conventional units whose map entry names an erased place after such a loss, by namespace and unit, and die blocks
  whose entry is lost, by die and block (R504). -/
  lostUnits : List (Nat × Nat)
  lostBlocks : List (Nat × Nat)
  /-- Remote inputs that read within range (R462). -/
  remoteOk : List Nat
  /-- E in 0.01 J and OK of the hold-up controller; none when it does not answer (R447). -/
  holdup : Option (Nat × Bool)
  /-- pSLC aggregate rate measured, bytes per second (R33). -/
  pslcRate : Nat
  /-- CELLAR_N is asserted. -/
  cellarStrap : Bool
deriving DecidableEq, Repr

/-- The request of an owner that is not one of the rows' own (R369): session messages. -/
inductive SpdmMsg
  /-- a session is established on the link; whether the requester's key verified -/
  | establish (link : Sideband) (mutualAuth : Bool)
  /-- a session ends -/
  | finish (link : Sideband)
  /-- an owner request outside a mutually authenticated session, by opcode -/
  | request (link : Sideband) (opcode : Nat)
  /-- RESPOND_IF_READY: the owner collects a reply -/
  | respondIfReady (link : Sideband)
deriving DecidableEq, Repr

/-- What an uncorrectable DEC-TED word held, of the rows of R312. -/
inductive WordOf
  /-- a landing-buffer slot or its companion record, by landing order -/
  | landing (order : Nat)
  /-- a read-cache entry, by its place on flash -/
  | cache (loc : Loc)
  /-- a page-map segment, a table with a home in the journal store, placement working SRAM, a crypto key slot,
  journal-engine queues: rebuilt or read again -/
  | rebuilt
  /-- a tracker entry, by die × 16,384 + block -/
  | tracker (key : Nat)
  /-- a tag-table or queue-state word: the work items it names -/
  | tags (items : List Nat)
  /-- a queue-pointer word of a function -/
  | queuePointer (fn : Nat)
  /-- porch staging of a host write: its work item -/
  | porchIn (item : Nat)
  /-- porch staging or LDPC buffer of a read request -/
  | porchOut (rd : Nat)
  | ldpc (rd : Nat)
  /-- a planner lane's plan SRAM -/
  | plan (lane : Nat)
  /-- the open record, or a record of the recorder's buffer by its number -/
  | record (recno : Nat)
deriving DecidableEq, Repr

/-- A word in error that a patrol scrub meets: one or two bits, corrected, or an uncorrectable one with what it
holds (R315). -/
inductive ScrubErr
  | single
  | double
  | uncorrectable (w : WordOf)
deriving DecidableEq, Repr

/-- A Firmware Commit that places the downloaded image, and what its verification finds (R397). -/
structure CommitCmd where
  id : CmdId
  checks : ImageChecks
deriving DecidableEq, Repr

/-- The commands and events of the device, one per row of the opcode table. -/
inductive Instr
  -- the frame
  | framePulse (phase : Int)
  | minuteBoundary
  | recordPeriodBoundary
  | planInputCutoff
  | planCommit (late : List Nat)
  | laneReset (lane : Nat)
  | corridorLinkUp (up : Bool) (count : Nat)
  | corridorLinkDown (up : Bool)
  | holdoverReport
  | lockQualified
  | syncInPulse
  | syncInMissing
  | frameCountLoRead (pf : Pf)
  | frameCount64Read (pf : Pf)
  -- mailbox, latches, notice boards
  | mbxOutDataWrite (pf : Pf) (w : Word)
  | mbxInDataRead (pf : Pf)
  | mbxCtlReset (pf : Pf)
  | spillConsWrite (pf : Pf) (v : Byte)
  | registerWrite (pf : Pf) (off size : Nat) (v : Nat)
  | latchRead (agent n : Nat)
  | latchWrite (agent n : Nat) (v : Word)
  | latchInspectRead (pf : Pf) (n : Nat) (off size : Nat)
  | noticeDataRead (pf : Pf) (n : Nat)
  | notice64Read (pf : Pf) (n : Nat)
  | noticeBoardUpdate (n : Nat)
  | echo
  | statusGet
  -- instances
  | instCreate (dma : Dma)
  | instCreateDone (n : Nat)
  | instDestroy
  | instDestroyDone (n : Nat)
  | instReset
  | instanceResetEffect (n : Nat)
  | instResetEnd (n : Nat)
  | instShareSet
  | instQuery
  | instSanitise
  | instSanitiseStart (n : Nat)
  | instSanitiseDone (n : Nat)
  -- protection and the owner
  | protPropose (via : Via)
  | protConfirm (via : Via)
  | protWithdraw (via : Via)
  | protQuery (via : Via)
  | protProposalExpiry (cls : Nat)
  | claimBegin (link : Sideband)
  | claimFinish (link : Sideband) (strap : Bool) (key : BitVec 768) (good : Bool)
  | claimNonceExpiry
  | release (link : Sideband)
  | spdmSessionMessage (m : SpdmMsg)
  -- firmware and the corridor
  | fwStage (via : Via) (checks : ImageChecks)
  | fwStageWritten
  | fwSchedule (copyOk : Bool)
  | fwPrepareDone
  | fwCancel
  | fwStatus (via : Via)
  | handoverRecordWritten
  | engineMicrocodeSwitch
  | handoverReady
  | activationHoldExpiry
  | svMinRaise
  | meterRingSet
  | meterRead
  | meterBatchWrite (cons : Nat) (dmaOk : Bool)
  | meterRetry (cons : Nat) (dmaOk : Bool)
  | recRead (dma : RegionDma)
  | calRead (dma : RegionDma)
  | calWrite (dma : Dma)
  | cfgRead (dma : RegionDma)
  | cfgCommit (dma : Dma)
  | placePolicySet
  | placeQuery
  | pwrCounters
  | thermQuery
  | eccTestEnter
  | eccTestWriteRaw
  | eccTestReadRaw
  | eccTestRead
  | eccTestWrite
  | eccTestEncode
  | eccTestExit
  | cellarEnter (link : Sideband)
  | cellarExit (link : Sideband) (found : BootFind)
  | cellarAutoExit (found : BootFind)
  | corridorImageArrival (i : Image) (forward : Bool)
  | corridorForwardRetry (accepted : Bool)
  | corridorScheduleArrival (imageId : Word) (frame : Nat)
  | corridorCancelArrival
  | corridorOutcomeRelay (pos state : Nat) (imageId : Word)
  -- queues and controllers
  | submissionDoorbellWrite (fn sq tail : Nat)
  | completionDoorbellWrite (fn cq head : Nat)
  | commandFetch (fn sq : Nat) (e : Sqe)
  | controllerReset (fn : Nat)
  | controllerEnable (fn : Nat) (cc aqa : Word)
  | functionLevelReset (fn : Nat)
  | portLinkReset (pf : Pf) (perst : Bool)
  | vfEnableChange (pf : Pf) (enable : Bool) (numVfs : Nat)
  -- admin commands
  | deleteIoSubmissionQueue (id : CmdId)
  | createIoSubmissionQueue (id : CmdId)
  | deleteIoCompletionQueue (id : CmdId)
  | createIoCompletionQueue (id : CmdId)
  | getLogPage (id : CmdId)
  | identify (id : CmdId)
  | abort (id : CmdId)
  | setFeaturesArbitration (id : CmdId)
  | setFeaturesPowerManagement (id : CmdId)
  | setFeaturesTemperatureThreshold (id : CmdId)
  | setFeaturesErrorRecovery (id : CmdId)
  | setFeaturesNumberOfQueues (id : CmdId)
  | setFeaturesInterruptCoalescing (id : CmdId)
  | setFeaturesInterruptVectorConfig (id : CmdId)
  | setFeaturesWriteAtomicity (id : CmdId)
  | setFeaturesAsyncEventConfig (id : CmdId)
  | setFeaturesApst (id : CmdId) (dma : Dma)
  | setFeaturesTimestamp (id : CmdId) (dma : Dma)
  | setFeaturesLifetimeLimit (id : CmdId)
  | getFeatures (id : CmdId)
  | asynchronousEventRequest (id : CmdId)
  | namespaceManagement (id : CmdId) (dma : Dma)
  | namespaceAttachment (id : CmdId) (dma : Dma)
  | firmwareImageDownload (id : CmdId) (bytes : List Byte) (failAt : Option DmaCut)
  | firmwareCommitReplace (cmd : CommitCmd)
  | firmwareCommitActivate (id : CmdId) (copyOk : Bool)
  | directiveSend (id : CmdId)
  | directiveReceive (id : CmdId)
  | nvmeMiSend (id : CmdId) (dma : Dma)
  | nvmeMiReceive (id : CmdId)
  | formatNvm (id : CmdId)
  | formatDone (nsx : Nat)
  | sanitizeBlockErase (id : CmdId)
  | sanitizeCryptoErase (id : CmdId)
  | sanitizeExitFailureMode (id : CmdId)
  | sanitizeDone (good : Bool)
  | securitySend (id : CmdId)
  | securityReceive (id : CmdId)
  | unsupportedOpcode (id : CmdId)
  -- I/O commands
  | flush (id : CmdId)
  | write (id : CmdId)
  | read (id : CmdId)
  | writeZeroes (id : CmdId)
  | datasetManagement (id : CmdId) (dma : Dma)
  | verify (id : CmdId)
  | zoneAppend (id : CmdId)
  | closeZone (id : CmdId)
  | finishZone (id : CmdId)
  | openZone (id : CmdId)
  | resetZone (id : CmdId)
  | offlineZone (id : CmdId)
  | reportZones (id : CmdId)
  | zoneWriteStart (id : CmdId)
  | ordBarrierRelease (id : CmdId)
  | conventionalWriteWaitEnd (id : CmdId)
  | landingSpaceWaitEnd (id : CmdId)
  | unitLanded (id : CmdId) (unit : Nat) (data : UnitData) (pi : List Byte)
  | writeCompletionPost (id : CmdId)
  | hostDmaFailure (id : CmdId)
  | zoneDrainEnd (zone : Nat)
  | commandLifetimeExpiry (id : CmdId)
  | partialRowWaitExpiry (nsx first : Nat)
  -- flash and the read path
  | stripeRowDispatch (nsx first : Nat)
  | suspendAcknowledged (die : Nat)
  | dieStatusPoll (die : Nat) (ready : Bool)
  | senseComplete (die : Nat)
  /-- `bad`: the planes on which the status reports a failure -/
  | programComplete (die : Nat) (bad : List Nat)
  | eraseComplete (die : Nat) (bad : List Nat)
  | statusTimeout (die : Nat)
  | codewordDecode (rd : Nat) (out : DecodeOut)
  | softDecodeComplete (rd : Nat) (out : DecodeOut)
  | backStairReconstruct (rd : Nat)
  | readEgress (id : CmdId) (unit : Nat)
  | journalRecordCommit (readBackOk : Bool)
  | homeLineWrite (line : Nat) (reads : HomeReads)
  | checkpointSegmentWrite (seg : Nat)
  | relocationVictimStart (eg : Nat)
  | relocationCommit (eg : Nat)
  | groupEraseIssue (eg : Nat)
  | secureDiscardStep (seq : Nat)
  | refreshAgeReached (eg : Nat)
  | patrolRead (eg row : Nat)
  | trackerSave
  | trackerWindowEnd
  | probeRead (die : Nat)
  | channelRetrain (ch : Nat) (out : TrainOut)
  | dramPatrolScrub (ch : Nat) (errs : List ScrubErr)
  | sramPatrolScrub (target : Nat) (errs : List ScrubErr)
  | trngHealthFailure
  | zoneFinishRecommended (zone : Nat)
  | zoneDeviceFinish (zone : Nat)
  | controlCoreWatchdogExpiry (core : Nat)
  | controlCoreRestartDone (core : Nat)
  | mgmtWatchdogExpiry
  | mgmtRestartDone
  -- power
  | apstIdleTimerExpiry
  | psEntryDrained
  | psEntryAbort
  | wakeEvent
  | psExit (failed : Option Nat)
  | holdupReading (answer : Option (Nat × Bool))
  | pmbAlert (statusWord : Nat)
  | pfNRecognised
  | powerLossFlushEnd
  | flushRestart
  -- thermal and the management core
  | diodeSample (d : Nat) (code : Nat) (reading : Int)
  | remoteSample (r : Nat) (code : Nat) (reading : Int)
  | railMonitorSample (rail : Nat) (mv : Nat)
  | coolingRestart
  | alertResponseRead
  | mctpMessage (via : List Nat) (msg : List Byte)
  | readNvmeMiDataStructure (req : List Byte)
  | nvmSubsystemHealthStatusPoll (req : List Byte)
  | controllerHealthStatusPoll (req : List Byte)
  | configurationSet (req : List Byte)
  | configurationGet (req : List Byte)
  | recorderRead (req : List Byte)
  | thermalQuery (req : List Byte)
  | controlPrimitivePause (req : List Byte)
  | controlPrimitiveResume (req : List Byte)
  | controlPrimitiveAbort (req : List Byte)
  | controlPrimitiveGetState (req : List Byte)
  | controlPrimitiveReplay (req : List Byte)
  | nvmeMiAdminCommand (req : List Byte)
  | nvmeMiInvalidOpcode (req : List Byte)
  | basicManagementStatus
  | basicManagementVendorSerial
  | basicManagementFaultCode
  | basicManagementFireDoorStatus
  | recorderBufferWrite
  -- boot, pins, test access
  | powerOn
  | railPowerGood (group : Nat)
  | bootWaitTimeout (rail : Nat)
  | bootRetry
  | coldStart (found : BootFind)
  | firmwareReadyTimeout (found : BootFind)
  | gatedRead (pf : Pf) (off size : Nat)
  | pcieLinkUp (pf : Pf)
  | aggregationTimeExpiry (fn vector : Nat)
  | jtagInstruction (second : Bool) (ir : JtagIr)
  | consoleInput (c : Byte)
  | trngHealthTestPass
  | powerRemoved
  | sidebandLinkReset (link : Sideband)
deriving DecidableEq, Repr

end Sys2Proof
end

