-- ==== Sys2Proof/Config.lean ====
section
/-! DEFINITION. What the spec leaves open: the values it does not fix and the functions it names
without defining. Each is a constant with no body, so nothing can be proved of its value. -/

namespace Sys2Proof.Config

/-- A number the spec does not fix, by the draw number of the model's counter (log 3). -/
opaque freeNat : Nat → Nat

/-- A signed number the spec does not fix, by the draw number (log 3). -/
opaque freeInt : Nat → Int

/-- A 32-bit word the spec does not fix, by the draw number and a position (log 3). -/
opaque freeWord : Nat → Nat → BitVec 32

/-- A byte the spec does not fix, by the draw number and a position (log 3). -/
opaque freeByte : Nat → Nat → BitVec 8

/-- The output of the TRNG at a draw: fresh random bits (R325). -/
opaque random : Nat → BitVec 512

/-- SHA-384, which the spec names and does not define (R373). -/
opaque sha384 : List (BitVec 8) → BitVec 384

/-- HMAC-SHA-384 keyed with a slot key (R323). -/
opaque hmac384 : BitVec 512 → List (BitVec 8) → BitVec 384

/-- AES-256-XTS of one 4 KiB unit: key, tweak, data (R321). -/
opaque xtsEncrypt : BitVec 512 → BitVec 256 → BitVec 32768 → BitVec 32768

/-- The inverse of `xtsEncrypt`. -/
opaque xtsDecrypt : BitVec 512 → BitVec 256 → BitVec 32768 → BitVec 32768

/-- The check bits that data bit `i` contributes to a DEC-TED word (R310): the spec gives the code's size
and no parity matrix. -/
opaque dectedColumn : Nat → BitVec 16

/-- Erase groups of the flash system area, which the spec does not size (R129, R206). -/
opaque systemGroups : Nat

/-- An extreme of a span in which no sample was taken, by record number and field (log 21). -/
opaque unsampled : Nat → Nat → Int

/-- What a unit holds where overlapping commands met, by landing order (R116, log 23). -/
opaque overlapPick : Nat → Nat

/-- The refuge programs of a power-loss flush that fail, by group and die-page, by the draw number (R508, log 129). -/
opaque refugeFails : Nat → List (Nat × Nat)

/-- The ADC code at full scale high, which the spec does not give (R461); full scale low is 0. -/
opaque adcFull : Nat

/-- Bytes of identity the spec names and does not give: vendor, serial and model strings, link figures (log 22). -/
opaque deviceByte : Nat → BitVec 8

/-- What training sets for a target, from its channel's PHY seed (R248): read DQS alignment, write delay, per-bit deskew. -/
opaque phySetting : Nat → Nat → Nat

/-- The page type of a page, lower page first, by bits per cell and page number (R274). -/
opaque pageType : Nat → Nat → Nat

/-- The read levels a page type reads, by bits per cell and page type (R275). -/
opaque readsLevel : Nat → Nat → Nat → Bool

end Sys2Proof.Config
end

