-- ==== Sys2Proof/Machine/State/Flash.lean ====
section
/-! DEFINITION. State of the flash channels, the dies, the floor plan and the read path (chapters Flash
Channels and Dies, Read Path, and the slow-die tracker of Placement Engine). -/

namespace Sys2Proof.Machine

/-- A sensing: its number, and the page, named by group, row and member (R253, R282). -/
structure Sense where
  id : Nat
  eg : Nat
  row : Nat
  member : Nat
  /-- Frame of issue. -/
  issued : Nat
  /-- The read-level offsets it is taken at; none: the standing ones, which the die holds (R276, R278). -/
  ofs : Option (List Int)
deriving DecidableEq, Repr

/-- A read transfer that waits for the bus or is in progress: the codewords of one sensed page (R253, R254). -/
structure Xfer where
  die : Nat
  sense : Sense
  /-- Unit slots whose codewords are still to be moved, the one in progress first. -/
  slots : List Nat
  /-- Codewords of a plane's page. -/
  perPlane : Nat
  /-- Bytes of a codeword, and of the first one still to be moved. -/
  size : Nat
  left : Nat
deriving DecidableEq, Repr

/-- The data-in of a PROGRAM entry (R241, R253, R254). -/
structure DataIn where
  die : Nat
  eg : Nat
  row : Nat
  member : Nat
  /-- Codewords moved, of 16, and codewords of a plane's page. -/
  moved : Nat
  perPlane : Nat
  /-- Bytes of a codeword, and bytes still to be moved of the one in progress; 0 between two codewords. -/
  size : Nat
  part : Nat
  /-- A read transfer has overtaken it: its target is deselected at a codeword boundary. -/
  paused : Bool
deriving DecidableEq, Repr

/-- A retraining in progress (R249, R250). -/
structure Retrain where
  /-- The target being retrained, and the windows it has used. -/
  target : Nat
  windows : Nat
  /-- Elapsed frame of the last window, and the frame from which the next one is deferred. -/
  last : Option Nat
  since : Nat
  /-- It is the one attempt at the configured rate of a channel that runs below it (R251). -/
  upward : Bool
deriving DecidableEq, Repr

/-- One channel sequencer (R235, R239, R248 to R254). A channel the table does not list is unpopulated: it is held in
reset with its outputs at the idle levels of R528 (R22). -/
structure Chan where
  targets : Nat
  luns : Nat
  dqLoads : Nat
  /-- Configured ladder step and the step the channel runs at (R235). -/
  cfgStep : Nat
  step : Nat
  trained : Bool
  lastTrain : Nat
  /-- Flash-region temperature at the last training, 1/8 °C. -/
  trainTemp : Int
  /-- Retraining failures in succession (R251). -/
  fails : Nat
  retraining : Bool
  failed : Bool
  /-- WP_N driven high (R264). -/
  wpHigh : Bool
  /-- Frames of the transfer errors in the window of R249, newest first. -/
  xferErrs : List Nat
  /-- What training has set for each target: read DQS alignment, write DQS-to-DQ delay, per-bit deskew (R248). -/
  tuned : List Nat
  /-- The retraining in progress, and whether the plan gives the next frame to a window of it (R250). -/
  retrain : Option Retrain
  windowDue : Bool
  /-- Bytes the bus can still move in the frame in progress (R235). -/
  busLeft : Nat
  /-- Read transfers, and the data-ins of programs, in the order they are served (R254). -/
  xfers : List Xfer
  dataIns : List DataIn
deriving DecidableEq, Repr

/-- STATE of log 0xC1, 0 normal (R194). -/
inductive DieMark | normal | slow | slowRate | retired | excluded
deriving DecidableEq, Repr

/-- The array operation of a die. -/
inductive OpKind | read | program | erase
deriving DecidableEq, Repr

/-- A program or erase in progress on a die (R253 to R259). -/
structure DieOp where
  kind : OpKind
  eg : Nat
  row : Nat
  member : Nat
  /-- Frame of issue. -/
  issued : Nat
  /-- Frames the operation has run, not counting suspended ones. -/
  ran : Nat
  nominal : Nat
  suspended : Bool
  /-- A SUSPEND has been issued and not acknowledged. -/
  suspPending : Bool
  /-- Frame of the last SUSPEND and of the last RESUME. -/
  suspAt : Nat
  resumedAt : Option Nat
  /-- Suspensions so far, and sensings in the suspension in progress. -/
  susps : Nat
  senses : Nat
  /-- Frames suspended in all (R187). -/
  suspFrames : Nat
deriving DecidableEq, Repr

/-- One latency-tracker type: sum of ratios (1/256) and samples of the window, last judged ratio (R187). -/
structure Ratio where
  sum : Nat
  n : Nat
  last : Nat
deriving DecidableEq, Repr

/-- A die (R166, R187, R219, R262, R464). -/
structure Die where
  cls : Nat
  /-- Class key recorded at the last boot (R244, R246). -/
  key : List Byte
  mark : DieMark
  since : Nat
  rRead : Ratio
  rProg : Ratio
  rErase : Ratio
  /-- Consecutive windows at or below the clear ratio. -/
  clearRun : Nat
  marks : Nat
  backstairs : Nat
  backMin : Nat
  lastBackMin : Nat
  lastRead : Nat
  op : Option DieOp
  /-- The sensing in progress. -/
  sensing : Option Sense
  /-- READ entries that issue when the die is next ready, oldest first (R253, R256). -/
  queue : List Sense
  /-- The last status poll reported ready (R255). -/
  ready : Bool
  /-- Garbage-collection and thermal buckets, 1/256 die-frame (R219, R464). -/
  gc : Nat
  thermal : Nat
  /-- Status timeouts in the window of R262, frames. -/
  timeouts : List Nat
  /-- Per plane, the die blocks in succession on which a program or erase status has failed on it, and the last of
  them (R262). -/
  planeFails : Tab (Nat × Nat)
  retiredBlocks : Nat
  /-- Blocks the die has. -/
  blocks : Nat
  /-- The read-level offsets held in the die (R276). -/
  held : List Int
  /-- Change of mark due at the next boundary (R188, R263). -/
  due : Option DieMark
  /-- Suspension limit reached, counted (R259). -/
  limitHits : Nat
deriving DecidableEq, Repr

/-- A read-level tracker entry: offsets, accumulators per page type, SET (R274). -/
structure Trk where
  ofs : List Int
  acc : List Int
  set : Bool
  changed : Bool
deriving DecidableEq, Repr

/-- Why a read is taken by reconstruction (R283). -/
inductive BackWhy | unavailable | lost | ladder
deriving DecidableEq, Repr

/-- What a sensing serves. -/
inductive RdFor
  /-- a host Read or Verify: its work item -/
  | host (seq : Nat)
  /-- relocation of a victim -/
  | reloc (eg : Nat)
  | patrol
  | probe
  /-- the old unit of a write that covers a unit in part: its work item (R154) -/
  | merge (seq : Nat)
deriving DecidableEq, Repr

/-- How far a read request is (R28, R278). -/
inductive RdState
  /-- waiting for a plan of its target -/
  | requested
  /-- planned or sensing -/
  | sensing
  /-- transferred and being decoded -/
  | decoding
  /-- reconstruction: members transferred and not decoded (32 + m: member m on its second step), and members
  that wait for a plan of their second step -/
  | members (ready second : List Nat)
  /-- every member codeword has decoded -/
  | rebuilt
  /-- decoded, or taken from DRAM: waiting for egress -/
  | decoded (u : Stored)
  /-- an unmapped unit: zeros, waiting for egress -/
  | zeros
deriving DecidableEq, Repr

/-- The read of one unit from flash. -/
structure RdOp where
  id : Nat
  for_ : RdFor
  nsx : Nat
  unit : Nat
  loc : Loc
  /-- Ladder step 1 to 6 (R278). -/
  step : Nat
  /-- Extra sensings taken in step 3. -/
  extra : Nat
  lr : Bool
  fua : Bool
  back : Option BackWhy
  st : RdState
  /-- First frame whose plan the request can enter (R46). -/
  frame : Nat
  /-- Sensings planned for it and not transferred: member (32 + m on its second step) and sensing number. -/
  senses : List (Nat × Nat)
  /-- The back-stair case is no longer open to it (R283). -/
  noBack : Bool
  /-- Sensed again once after a status timeout (R255). -/
  resensed : Bool
  /-- Landing-buffer entry it pins, by landing order (R30). -/
  pin : Option Nat
  /-- Read again from its source once after its stored check failed at decryption (R307). -/
  second : Bool
deriving DecidableEq, Repr

/-- An entry of the floor plan (R253). -/
inductive PlanEntry
  | read (r : Sense)
  | program (eg row member : Nat)
  | erase (eg member : Nat)
  /-- SUSPEND, with the sensing listed with it -/
  | suspend (r : Sense)
  | resume
  /-- OFFSET, with the values of the plan in which it was built (R292) -/
  | offset (ofs : List Int)
  /-- XFER: the page sensed on the die is transferred as soon as it is ready -/
  | xfer
  | poll
deriving DecidableEq, Repr

/-- A program or erase waiting for the floor planner. -/
structure MediaReq where
  kind : OpKind
  eg : Nat
  row : Nat
  member : Nat
  die : Nat
  /-- Paid from the garbage-collection bucket (R219), else from the owner's DIE tokens (R342). -/
  gc : Bool
  owner : Nat
  frame : Nat
deriving DecidableEq, Repr

structure FlashSt where
  chans : Tab Chan
  dies : Tab Die
  reads : List RdOp
  nextRead : Nat
  nextSense : Nat
  /-- Requests that reached the planner before the cut-off, and those after it (R46). -/
  reqs : List MediaReq
  lateReqs : List MediaReq
  /-- The plan built in this frame, by die, and the plan published at its beginning (R47). -/
  plan : Tab PlanEntry
  published : Tab PlanEntry
  /-- Die status as it stood at the planner's input cut-off of this frame (R46). -/
  seen : Option (Tab Die)
  /-- Tracker entries by die × 16,384 + block, and the standing entry of each die. -/
  trackers : Tab Trk
  standing : Tab Trk
  /-- The entries changed in this frame, as they stood at its beginning: the plan built in it uses these (R275). -/
  trackersWere : Tab Trk
  standingWere : Tab Trk
  /-- The read cache, most recently used first (R285). -/
  cache : List (Loc × Stored)
  /-- Frame of the last tracker save, and of the last scrub of DRAM and SRAM. -/
  lastSave : Nat
  /-- The trackers as last saved to the flash system area (R277). -/
  savedTrk : Tab Trk
  savedStanding : Tab Trk
  windowFrom : Nat
  /-- Hard decoders in use are limited by the power state (R423). -/
  patrolPos : Nat
deriving DecidableEq, Repr

/-- No channel trained and no die identified. -/
def FlashSt.reset : FlashSt :=
  { chans := [], dies := [], reads := [], nextRead := 0, nextSense := 0, reqs := [], lateReqs := [], plan := [],
    published := [], seen := none, trackers := [], standing := [], trackersWere := [], standingWere := [], cache := [], lastSave := 0, savedTrk := [], savedStanding := [], windowFrom := 0,
    patrolPos := 0 }

end Sys2Proof.Machine
end

