-- ==== Sys2Proof/Machine/State/Frame.lean ====
section
/-! DEFINITION. State of the hall: the frame counter, shelf time, the frame schedule and the 64 planner
lanes (chapter The Frame Tick). -/

namespace Sys2Proof.Machine

/-- Log 0xC3 byte 73 (R53, R59). -/
inductive LockState | master | locked | acquiring | holdover
deriving DecidableEq, Repr

/-- Log 0xC3 byte 74 (R54, R59). -/
inductive SyncState | disabled | tracking | missing
deriving DecidableEq, Repr

/-- One floor-planner lane: it plans dies 64l to 64l + 63 (R55). -/
structure Lane where
  /-- Slips of this lane since cold start, saturating at 32 bits (R59). -/
  slips : Nat
  /-- Consecutive frames in which the lane has slipped (R57). -/
  run : Nat
  /-- The lane missed the commit point of the frame in progress. -/
  slipped : Bool
  /-- Frames the reset lane still takes to be rebuilt from die status; 0 when it plans normally (R57). -/
  rebuild : Nat
  /-- Elapsed frame of the first slip since the lane last committed: it has kept slipping through its resets since. -/
  since : Option Nat
  /-- That has lasted more than 1,000 frames and is recorded as a fault (R57). -/
  fault : Bool
deriving DecidableEq, Repr

/-- Shelf time: the corridor chain's frame count and this unit's alignment to it (R49 to R54). -/
structure Shelf where
  /-- Corridor position, 0 to 31; 0xFF outside a chain (R59, R412). -/
  pos : Nat
  /-- CORRIDOR_UP is up. -/
  upLink : Bool
  /-- CORRIDOR_DOWN is up. -/
  downLink : Bool
  /-- Elapsed frame in which the upstream link went down, while the holdover report is still due (R53). -/
  downAt : Option Nat
  lock : LockState
  /-- Consecutive frames with the phase error within the bound of R52. -/
  inBound : Nat
  /-- A count received from a neighbour that is ahead of this unit's: the step due at the next boundary (R49). -/
  stepTo : Option Nat
  /-- SYNC_IN enabled (R54). -/
  syncEn : Bool
  sync : SyncState
  /-- Elapsed frame of the last SYNC_IN pulse. -/
  syncLast : Option Nat
  /-- Frame from which the missing-pulse wait of 1,500,000 frames runs. -/
  syncFrom : Nat
  /-- Signed phase error to the upstream unit, hall cycles (R59). -/
  phase : Int
  /-- Largest absolute phase error while in lock (R59). -/
  phaseMax : Nat
  /-- Trim of the current frame: −1, 0 or +1 hall cycle (R52). -/
  trim : Int
deriving DecidableEq, Repr

structure FrameSt where
  /-- The 64-bit frame counter (R41), a number below 2^64. -/
  counter : Nat
  /-- The first pulse after the cold start has been issued (R41). -/
  started : Bool
  /-- The HI shadow of the port 0 PF (R44). -/
  hi0 : Word
  /-- The HI shadow of the port 1 PF (R44). -/
  hi1 : Word
  /-- Admission is open, hall cycles 256 to 5,999 (R46). -/
  admission : Bool
  /-- The planner's input window is open, hall cycles 0 to 1,499 (R46). -/
  inputOpen : Bool
  /-- The plan of the frame in progress has been committed (cycle 5,400). -/
  committed : Bool
  /-- Frames begun since cold start by an increment (FRAMES_ELAPSED, R59). -/
  elapsed : Nat
  frameSlips : Nat
  laneSlips : Nat
  laneResets : Nat
  /-- Frame of the most recent frame slip (R59). -/
  lastSlip : Nat
  maxRun : Nat
  tieWins : Nat
  /-- Timeouts that arrivals of the frame in progress have won; counted at the next boundary (R50). -/
  ties : Nat
  steps : Nat
  stepFrames : Nat
  /-- Frame slips of the minute in progress, for NOTICE_4 (R83). -/
  minuteSlips : Nat
  /-- Frame slips of the minute just ended. -/
  lastMinuteSlips : Nat
  /-- Lanes found to keep slipping through resets for more than 1,000 frames (R57). -/
  laneFaults : Nat
  /-- Lanes 0 to 63 that have slipped since the cold start; a lane not listed never has. -/
  lanes : Tab Lane
  shelf : Shelf
deriving DecidableEq, Repr

/-- A lane that has never slipped. -/
def Lane.reset : Lane := { slips := 0, run := 0, slipped := false, rebuild := 0, since := none, fault := false }

/-- Shelf time of a unit that is not in a chain (R59). -/
def Shelf.reset : Shelf :=
  { pos := 0xFF, upLink := false, downLink := false, downAt := none, lock := .master, inBound := 0,
    stepTo := none, syncEn := false, sync := .disabled, syncLast := none, syncFrom := 0, phase := 0,
    phaseMax := 0, trim := 0 }

/-- The frame state at a cold start (R41, R44). -/
def FrameSt.reset : FrameSt :=
  { counter := 0, started := false, hi0 := 0, hi1 := 0, admission := false, inputOpen := false,
    committed := false, elapsed := 0, frameSlips := 0, laneSlips := 0, laneResets := 0, lastSlip := 0,
    maxRun := 0, tieWins := 0, ties := 0, steps := 0, stepFrames := 0, minuteSlips := 0,
    lastMinuteSlips := 0, laneFaults := 0, lanes := [], shelf := Shelf.reset }

end Sys2Proof.Machine
end

