-- ==== Sys2Proof/Machine/State/Inst.lean ====
section
/-! DEFINITION. State of the tenant instances: the instance table, shares and token buckets, and metering
(chapter Tenant Instances). -/

namespace Sys2Proof.Machine

/-- The states of an instance number (R330); a number the table does not list is FREE. -/
inductive IState | live | resetting | sanitising | destroying | creating
deriving DecidableEq, Repr

/-- One share kind's rate and cap (R339); a cap of 0xFFFF_FFFF is no cap. -/
structure Rate where
  rate : Nat
  cap : Nat
deriving DecidableEq, Repr

/-- The shares of a holder (R339, R344). -/
structure Shares where
  read : Rate
  write : Rate
  cmd : Rate
  die : Rate
  weight : Nat
deriving DecidableEq, Repr

/-- A holder's four buckets, in 1/30,000,000 token, signed (R340, R341); DIE in 1/30,000,000 of a thousandth
of a die-frame's time. -/
structure Buckets where
  read : Int
  write : Int
  cmd : Int
  die : Int
deriving DecidableEq, Repr

/-- A protected isolation-table entry (R335). -/
structure Isolation where
  admitNew : Bool
  sanFloor : Nat
  keyMode : Bool
deriving DecidableEq, Repr

/-- A request that the state machine of an instance has answered PENDING: its tag. -/
structure PendTag where
  tag : Nat
  opcode : Nat
deriving DecidableEq, Repr

/-- An instance (R331, R333). -/
structure Inst where
  st : IState
  qpairs : Nat
  msix : Nat
  azones : Nat
  nsCount : Nat
  guard32 : Bool
  policy : Nat
  injected : Bool
  slot : Nat
  lifeE : Nat
  created : Nat
  resets : Nat
  /-- NSX of NSID 1 to 16. -/
  nsxs : List Nat
  /-- Requests of this instance answered PENDING. -/
  pend : List PendTag
  /-- A reset was received in this elapsed frame and takes effect at the next boundary (R347). -/
  resetDue : Option Nat
  /-- The reset is an FLR: it posts nothing and deletes the queues. -/
  flr : Bool
  /-- Elapsed frame in which the last reset took effect. -/
  resetAt : Nat
  /-- The reset has ended: fetch resumes at the next boundary (R349). -/
  resume : Bool
  /-- Creation has ended: the instance becomes LIVE at the next boundary (R338). -/
  liveDue : Bool
  /-- The sanitise requested in this elapsed frame starts at the next boundary (R354). -/
  sanDue : Option Nat
  /-- The sanitise in progress: block (true) or crypto erase. -/
  sanBlock : Bool
  /-- The reset of its destroy has ended, and its namespaces are being erased (R352). -/
  wiping : Bool
  /-- Erase groups a sanitise or destroy had to process when it began (R161). -/
  total : Nat
deriving DecidableEq, Repr

/-- A share change accepted and due at the next boundary (R345). -/
structure ShareDue where
  holder : Nat
  shares : Shares
deriving DecidableEq, Repr

/-- The metering counters of R356. -/
structure Meter where
  bytesRead : Nat
  bytesWritten : Nat
  commands : Nat
  dieTime : Nat
  zoneFrames : Nat
  throttled : Nat
deriving DecidableEq, Repr

/-- FLAGS of a metering record (R357). -/
structure MFlags where
  created : Bool
  destroyed : Bool
  step : Bool
  power : Bool
  ps : Bool
deriving DecidableEq, Repr

/-- A metering record (R357); its CRC is computed when it is written. -/
structure MRec where
  inst : Nat
  gen : Nat
  flags : MFlags
  span : Nat
  boot : Nat
  minute : Nat
  m : Meter
deriving DecidableEq, Repr

/-- The metering of one holder. -/
structure Holder where
  live : Meter
  /-- The counters at the boundary that began the frame (R362). -/
  seen : Meter
  flags : MFlags
  total : Meter
  /-- Held records, oldest first (R360). -/
  held : List MRec
  last : Option MRec
  /-- The current frame waited for tokens (THROTTLED). -/
  waited : Bool
  /-- Charges of the last 64 frames exceed 64 frames of its rate in no kind (R343). -/
  within : Bool
  /-- The last 64 frames, newest first: charges of READ, WRITE, CMD, DIE in bucket units, and the DIE refill. -/
  window : List (Nat × Nat × Nat × Nat × Nat)
  /-- Refill and surplus of the frame in progress, for the cap of R340. -/
  gained : Buckets
  /-- Deficits of the surplus round robin. -/
  deficit : Buckets
deriving DecidableEq, Repr

/-- The metering ring (R359). -/
structure Ring where
  pf : Nat
  base : Nat
  log2 : Nat
  ctl : Nat
  enable : Bool
  prod : Nat
deriving DecidableEq, Repr

structure InstSt where
  /-- Instances not FREE, by number 0 to 2,047. -/
  insts : Tab Inst
  /-- Generation of each owner, kept while its number is FREE (R338). -/
  gens : Tab Nat
  /-- Isolation-table entries changed from their value at manufacture (R335). -/
  iso : Tab Isolation
  /-- Shares in force of every holder, 0 to 2,049. -/
  shares : Tab Shares
  sharesDue : List ShareDue
  buckets : Tab Buckets
  /-- The surplus pools (R340). -/
  surplus : Buckets
  holders : Tab Holder
  /-- The metering ring, none before the first METER_RING_SET (R359). -/
  ring : Option Ring
  /-- Frame of the last attempt to write a held batch (R360). -/
  lastTry : Nat
  /-- First frame of the minute in progress. -/
  minuteFrom : Nat
  /-- A batch is frozen and its write is due. -/
  batchDue : Bool
  /-- Cold starts since manufacture (R357, R484). -/
  boots : Nat
deriving DecidableEq, Repr

def Buckets.reset : Buckets := { read := 0, write := 0, cmd := 0, die := 0 }

/-- Every instance number FREE, no share, no ring (R330, R359). -/
def InstSt.reset : InstSt :=
  { insts := [], gens := [], iso := [], shares := [], sharesDue := [], buckets := [],
    surplus := Buckets.reset, holders := [], ring := none, lastTry := 0,
    minuteFrom := 0, batchDue := false, boots := 0 }

end Sys2Proof.Machine
end

