-- ==== Sys2Proof/Machine/State/Mailbox.lean ====
section
/-! DEFINITION. State of the device window: the mailbox, the latches, the notice boards and the gate
status (chapters Mailboxes, Latches and SCP; Power States; Device Window Register Reference). -/

namespace Sys2Proof.Machine

/-- A posted SCP request waiting in the host→device queue (R68, R75). -/
structure Posted where
  /-- Agent number of the PF that posted it. -/
  agent : Nat
  /-- HOST_EPOCH at posting. -/
  epoch : Half
  /-- Frame in which its last word was accepted. -/
  frame : Nat
  /-- Header word, then the payload words. -/
  words : List Word
deriving DecidableEq, Repr

/-- A message whose header has been accepted and whose payload is incomplete (PARTIAL, R69). -/
structure Partial where
  agent : Nat
  words : List Word
  /-- Payload words still to come. -/
  left : Nat
deriving DecidableEq, Repr

/-- One word of the device→host queue. -/
structure InWord where
  word : Word
  /-- The word is a header (HEAD_VALID). -/
  head : Bool
  /-- DEV_EPOCH under which its message was posted. -/
  epoch : Half
deriving DecidableEq, Repr

/-- One entry of the spill ring (R72): word 0 and the three message words. -/
structure SpillEntry where
  w0 : Word
  m1 : Word
  m2 : Word
  m3 : Word
deriving DecidableEq, Repr

/-- A reply waiting in the backlog (R71). -/
structure Reply where
  words : List Word
  epoch : Half
deriving DecidableEq, Repr

/-- An outstanding request: accepted and taken up, its final reply not yet posted (R84). -/
structure Outst where
  tag : Nat
  opcode : Nat
  agent : Nat
  epoch : Half
  /-- Frame of acceptance. -/
  frame : Nat
deriving DecidableEq, Repr

/-- The fields of MBX_CTL that each PF has for itself (R63, R69). -/
structure MbxPf where
  irqEn : Byte
  vector : Byte
deriving DecidableEq, Repr

/-- GATE_STATUS of one PF's window, bits [31:1] (R437); bit 0 is computed. -/
structure Gate where
  hit : Bool
  hitWrite : Bool
  area : Nat
  count : Nat
deriving DecidableEq, Repr

/-- One notice board (R83). -/
structure Notice where
  value : Word
  full : Bool
  collide : Bool
  seq : Byte
deriving DecidableEq, Repr

structure MbxSt where
  outQ : List Posted
  part : Option Partial
  /-- Payload words of a discarded header still to be discarded (R68). -/
  skip : Nat
  inQ : List InWord
  /-- The spill entries written so far, by index 0 to 255; an index not listed reads zero (R541). -/
  spill : Tab SpillEntry
  prod : Byte
  cons : Byte
  /-- SEQ of the next entry (R72). -/
  spillSeq : BitVec 12
  backlog : List Reply
  pf0 : MbxPf
  pf1 : MbxPf
  /-- MBX_EVENT [7:0]. -/
  event : Byte
  abortWords : Nat
  rejectWords : Nat
  hostEpoch : Half
  devEpoch : Half
  outst : List Outst
  inDropped : Nat
  dupCount : Nat
  gate0 : Gate
  gate1 : Gate
  /-- HOLDER of LATCH_0 to LATCH_15, by latch number; a latch not listed is free (R81). -/
  latches : Tab Nat
  /-- NOTICE_0 to NOTICE_7; a board not listed has never been updated and reads zero. -/
  notices : Tab Notice
deriving DecidableEq, Repr

def MbxPf.reset : MbxPf := { irqEn := 0, vector := 0 }
def Gate.reset : Gate := { hit := false, hitWrite := false, area := 0, count := 0 }
/-- A board that has never been updated (R83). -/
def Notice.reset : Notice := { value := 0, full := false, collide := false, seq := 0 }

/-- The window state at a cold start (R69, R83, R437, R542). -/
def MbxSt.reset : MbxSt :=
  { outQ := [], part := none, skip := 0, inQ := [], spill := [], prod := 0, cons := 0, spillSeq := 0,
    backlog := [], pf0 := MbxPf.reset, pf1 := MbxPf.reset, event := 0, abortWords := 0, rejectWords := 0,
    hostEpoch := 0, devEpoch := 0, outst := [], inDropped := 0, dupCount := 0, gate0 := Gate.reset,
    gate1 := Gate.reset, latches := [], notices := [] }

end Sys2Proof.Machine
end

