-- ==== Sys2Proof/Machine/State/Recorder.lean ====
section
/-! DEFINITION. State of the event recorder (chapter Event Recorder). -/

namespace Sys2Proof.Machine

/-- FLAGS of a record (R478). -/
structure RFlags where
  partial_ : Bool
  damaged : Bool
  step : Bool
  ps : Bool
  opened : Bool
  cellar : Bool
  folded : Bool
deriving DecidableEq, Repr

/-- Minimum and maximum of one reading, none before the first sample. -/
abbrev Ext := Option (Int × Int)

/-- A recorder record (R478). Histogram counts are exact here and are packed as R479 says when they
are read; a bin, an extreme or a count that is not listed is zero. -/
structure Record where
  recno : Nat
  flags : RFlags
  boot : Nat
  first : Nat
  last : Nat
  version : Word
  /-- Counts by histogram × 64 + bin. -/
  hist : Tab Nat
  /-- Z_0 to Z_3, then RT_0 to RT_3. -/
  temps : Tab (Int × Int)
  railExt : Tab (Int × Int)
  holdupExt : Ext
  /-- Largest rises per zone over 125,000 and 25,000 frames: zone × 2, zone × 2 + 1. -/
  ror : Tab Int
  /-- DEC-TED counts by memory 0 to 13. -/
  dec : Tab DecCount
  /-- DATA_ERR[0] to DATA_ERR[15]. -/
  dataErr : Tab Nat
  frameSlips : Nat
  laneSlips : Nat
  laneResets : Nat
  maxRun : Nat
  steps : Nat
  ringFull : Nat
  peSnap : Tab Nat
  fireTrips : Nat
  throttle : Tab Nat
  rorWarn : Nat
  rorThrottle : Nat
  psRefusals : Tab Nat
  fwRefusals : Nat
  /-- EVENTS by code 0x00 to 0x1B (R481). -/
  events : Tab Nat
deriving DecidableEq, Repr

/-- The since-manufacture block (R484), beside BOOTS and BROKEN, which stand with their owners. -/
structure SinceMfr where
  nextRecno : Nat
  diodeExt : Tab (Int × Int)
  remoteExt : Tab (Int × Int)
  railExt : Tab (Int × Int)
  holdupExt : Ext
  ror : Tab Int
  totals : Tab Nat
  /-- The last 16 trips, newest first. -/
  trips : List Trip
deriving DecidableEq, Repr

structure RecSt where
  cur : Record
  /-- `cur` is open: from a cold start until its close. -/
  isOpen : Bool
  /-- Closed records not yet written, oldest first, at most 63. -/
  closed : List Record
  /-- The last 8,192 records written, by entry (R483). -/
  mantel : Tab Record
  attic : Tab Record
  since : SinceMfr
  /-- A buffer write is called for (R482). -/
  writeDue : Bool
deriving DecidableEq, Repr

def RFlags.reset : RFlags :=
  { partial_ := false, damaged := false, step := false, ps := false, opened := false, cellar := false,
    folded := false }

/-- A record with every count zero, opened as `recno` at frame `first`. -/
def Record.fresh (recno boot first : Nat) (version : Word) : Record :=
  { recno := recno, flags := RFlags.reset, boot := boot, first := first, last := first,
    version := version, hist := [], temps := [], railExt := [], holdupExt := none, ror := [], dec := [],
    dataErr := [], frameSlips := 0, laneSlips := 0, laneResets := 0, maxRun := 0, steps := 0,
    ringFull := 0, peSnap := [], fireTrips := 0, throttle := [], rorWarn := 0, rorThrottle := 0,
    psRefusals := [], fwRefusals := 0, events := [] }

/-- The since-manufacture block of a device that has never run. -/
def SinceMfr.reset : SinceMfr :=
  { nextRecno := 0, diodeExt := [], remoteExt := [], railExt := [], holdupExt := none, ror := [],
    totals := [], trips := [] }

def RecSt.reset : RecSt :=
  { cur := Record.fresh 0 0 0 0, isOpen := false, closed := [], mantel := [], attic := [], since := SinceMfr.reset,
    writeDue := false }

end Sys2Proof.Machine
end

