-- ==== Sys2Proof/Machine/State.lean ====
section
/-! DEFINITION. The state of the KZ-9640B: the parts of State/, one per group of blocks, and the queue
of commands waiting. -/

namespace Sys2Proof.Machine

/-- Why a command stops the model. The spec gives every row an effect, so no meaning raises one. -/
inductive Fault
  /-- Raised by no meaning: the type's only name, safe because nothing reaches it. -/
  | unreachable
deriving DecidableEq, Repr

/-- Why a command is not taken. -/
inductive Refusal
  /-- Raised by an arm of exec that has no meaning yet; safe: nothing is claimed of it. -/
  | notModelled (mnemonic : String)
deriving DecidableEq, Repr

/-- The whole device. -/
structure State where
  frame : FrameSt
  mbx : MbxSt
  host : HostSt
  zone : ZoneSt
  media : MediaSt
  flash : FlashSt
  inst : InstSt
  prot : ProtSt
  ecc : EccSt
  fw : FwSt
  power : PowerSt
  therm : ThermSt
  mgmt : MgmtSt
  pins : Pins
  recd : RecSt
  /-- What the block has sent out while it performed the latest command. -/
  emit : List Emission
  /-- The model's own counter, the argument of the free values (log 3). -/
  free : Nat
  /-- Commands waiting, first in, first out. -/
  pending : List Instr
deriving DecidableEq, Repr

/-- The device as it stands before its first power-on: every register at its reset value, nothing
waiting. -/
def State.reset : State :=
  { frame := FrameSt.reset, mbx := MbxSt.reset, host := HostSt.reset, zone := ZoneSt.reset,
    media := MediaSt.reset, flash := FlashSt.reset, inst := InstSt.reset, prot := ProtSt.reset,
    ecc := EccSt.reset, fw := FwSt.reset, power := PowerSt.reset, therm := ThermSt.reset,
    mgmt := MgmtSt.reset, pins := Pins.reset, recd := RecSt.reset, emit := [], free := 0, pending := [] }

end Sys2Proof.Machine
end

