-- ==== Sys2Proof/Machine/Ops.lean ====
section
/-! DEFINITION. The operations every family shares: the clocks, what is sent out, free values, bytes and
bit fields. -/

namespace Sys2Proof.Machine

/-- Perform an effect as one command: what the latest command sent out starts empty. -/
def act (f : State → State) (s : State) : Host.Outcome State Fault Refusal := .next (f { s with emit := [] })

/-- The frame number, shelf time (R41). -/
def now (s : State) : Nat := s.frame.counter

/-- Frames elapsed since cold start, which every elapsed period counts (R50, R59). -/
def clk (s : State) : Nat := s.frame.elapsed

/-- The elapsed period of `l` frames armed at `a` has fired by the boundary that begins elapsed frame `c`
(R50): its last counting frame is `a + l`. -/
def fired (a l c : Nat) : Bool := decide (a + l < c)

def send (e : Emission) (s : State) : State := { s with emit := s.emit ++ [e] }

def sends (es : List Emission) (s : State) : State := { s with emit := s.emit ++ es }

/-- A number the spec leaves open, and the state that has drawn it. -/
def drawNat (s : State) : Nat × State := (Config.freeNat s.free, { s with free := s.free + 1 })

/-- A signed number the spec leaves open, kept within `lo` to `hi`. -/
def drawInt (lo hi : Int) (s : State) : Int × State :=
  (max lo (min hi (Config.freeInt s.free)), { s with free := s.free + 1 })

/-- Apply `f` to the state when `c` holds. -/
def when (c : Bool) (f : State → State) (s : State) : State := if c then f s else s

/-- Apply `f` for each element in order. -/
def forEach {α : Type} (l : List α) (f : α → State → State) (s : State) : State :=
  l.foldl (fun s a => f a s) s

/-- Saturating counts (R478, R59). -/
def sat8 (n : Nat) : Nat := min n 0xFF
def sat16 (n : Nat) : Nat := min n 0xFFFF
def sat32 (n : Nat) : Nat := min n 0xFFFFFFFF

/-- `n` if `b`, else 0. -/
def flag (b : Bool) (n : Nat) : Nat := if b then n else 0

/-- Bits [hi:lo] of `n`. -/
def bits (n hi lo : Nat) : Nat := n / 2 ^ lo % 2 ^ (hi + 1 - lo)

/-- Bit `i` of `n`. -/
def bitOf (n i : Nat) : Bool := decide (n / 2 ^ i % 2 = 1)

/-- Little-endian bytes of `n`, `w` of them (R15). -/
def le (n : Nat) : Nat → List Byte
  | 0 => []
  | w + 1 => BitVec.ofNat 8 n :: le (n / 256) w

/-- The number little-endian bytes hold (R15). -/
def leNat : List Byte → Nat
  | [] => 0
  | b :: t => b.toNat + 256 * leNat t

/-- Byte `i`, zero past the end. -/
def byteAt (l : List Byte) (i : Nat) : Nat := (l.getD i 0).toNat

/-- The little-endian field of `w` bytes at offset `off`. -/
def fieldAt (l : List Byte) (off w : Nat) : Nat := leNat ((l.drop off).take w)

/-- `w` zero bytes. -/
def zeros (w : Nat) : List Byte := List.replicate w 0

/-- `l` cut or filled with zeros to `w` bytes. -/
def padTo (w : Nat) (l : List Byte) : List Byte := l.take w ++ zeros (w - l.length)

/-- `l` with `b` in place of what it holds from offset `off` on. -/
def putAt (off : Nat) (b l : List Byte) : List Byte := l.take off ++ b ++ l.drop (off + b.length)

/-- Two's-complement reading of the low `w` bits of `n`. -/
def sext (w n : Nat) : Int :=
  let m := n % 2 ^ w
  if m < 2 ^ (w - 1) then (m : Int) else (m : Int) - (2 ^ w : Nat)

/-- The low `w` bits of a signed number. -/
def twos (w : Nat) (i : Int) : Nat := (i % ((2 ^ w : Nat) : Int)).toNat

def wordOf (n : Nat) : Word := BitVec.ofNat 32 n

/-- The bytes of a bit vector, least significant first. -/
def bvBytes {w : Nat} (v : BitVec w) : List Byte := le v.toNat (w / 8)

end Sys2Proof.Machine

namespace Sys2Proof

/-- The agent number of a physical function (R81). -/
def Pf.agent : Pf → Nat
  | .port0 => 1
  | .port1 => 2

/-- The owner number of a physical function. -/
def Pf.fn : Pf → Nat
  | .port0 => 2048
  | .port1 => 2049

end Sys2Proof

namespace Sys2Proof.Machine

/-- The owner number of the function behind an agent. -/
def agentFn (a : Nat) : Nat := 2047 + a

/-- The port that carries a function (R92): 0 or 1. -/
def portOf (s : State) (fn : Nat) : Nat :=
  if fn = 2048 then 0
  else if fn = 2049 then 1
  else if fn < s.host.port0.totalVfs then 0 else 1

/-- The controller identifier of a function (R93). -/
def cntlid (fn : Nat) : Nat := if fn = 2048 then 1 else if fn = 2049 then 2 else 0x100 + fn

/-- The agent that holds latch `n`, 0 when it is free (R81). -/
def holder (s : State) (n : Nat) : Nat := tabGetD s.mbx.latches n 0

/-- The functions whose PF is the manager (R5). -/
def isManager (s : State) (fn : Nat) : Bool := decide (fn = agentFn (holder s 0)) && decide (holder s 0 ≠ 0)

/-- The device window's gated areas are gated (R435): from the stop of the hall until admission opens. -/
def gated (s : State) : Bool := decide (3 ≤ s.power.ps) || s.power.exitFrom.isSome

/-- The controller runs (R394): the boot has reached its last step. -/
def booted (s : State) : Bool := decide (s.power.boot = .running)

/-- A power-loss flush runs: nothing is fetched, completed, taken up or replied to (R442). -/
def flushing (s : State) : Bool := s.power.flush.isSome

/-- The hall clock runs and no flush has stopped admission. -/
def ctrlRuns (s : State) : Bool := booted s && !gated s && !flushing s

/-- The engines run: the hall runs and the device is not in the cellar (R408). -/
def hallRuns (s : State) : Bool := ctrlRuns s && !s.fw.cellar

/-- The configuration record a write starts from: the valid copy with the higher SEQ, else the record in force
(R413). -/
def newestCfg (s : State) : Config412 :=
  match s.fw.copyA, s.fw.copyB with
  | some a, some b => if a.seq < b.seq then b else a
  | some a, none => a
  | none, some b => b
  | none, none => s.fw.cfg

/-- PF_QP and PF_AZ of a PF, by its owner number (R412). -/
def pfQp (c : Config412) (fn : Nat) : Nat := if fn = 2048 then c.pfQp0 else c.pfQp1
def pfAz (c : Config412) (fn : Nat) : Nat := if fn = 2048 then c.pfAz0 else c.pfAz1

/-- Floor of log2 of `t` in quarters: the largest `k` with `2 ^ k ≤ t ^ 4` (R479). -/
def quarterLog (t : Nat) : Nat := Nat.log2 (t ^ 4)

end Sys2Proof.Machine
end

