-- ==== Sys2Proof/Machine/Container.lean ====
section
/-! DEFINITION. The Ihliz container: its header fields, its component entries and its IMAGE_ID (R387, R388, R398). -/

namespace Sys2Proof.Machine

/-! ### The header (R388) -/

def Image.magic (i : Image) : Nat := fieldAt i.bytes 0 4
def Image.format (i : Image) : Nat := fieldAt i.bytes 4 2
def Image.hdrLen (i : Image) : Nat := fieldAt i.bytes 6 2
def Image.revision (i : Image) : Nat := fieldAt i.bytes 8 4
def Image.version (i : Image) : Nat := fieldAt i.bytes 12 4
def Image.secVer (i : Image) : Nat := byteAt i.bytes 16
def Image.keyIndex (i : Image) : Nat := byteAt i.bytes 17
def Image.compCount (i : Image) : Nat := fieldAt i.bytes 18 2
def Image.totalLen (i : Image) : Nat := fieldAt i.bytes 24 8

/-- IMAGE_ID: the first 32 bits of SHA-384 over the whole container, little-endian (R398). -/
def Image.imageId (i : Image) : Word := (Config.sha384 i.bytes).setWidth 32

/-! ### Components (R388) -/

/-- A component entry: TYPE, HOT, and its place in the plaintext payload. -/
structure Comp where
  type : Nat
  hot : Bool
  off : Nat
  len : Nat
deriving DecidableEq, Repr

def compAt (b : List Byte) (k : Nat) : Comp :=
  let o := 160 + 64 * k
  { type := byteAt b o, hot := bitOf (byteAt b (o + 1)) 0, off := fieldAt b (o + 4) 4, len := fieldAt b (o + 8) 4 }

def Image.entries (i : Image) : List Comp := (List.range (min 16 i.compCount)).map (compAt i.bytes)

/-- Component types present. -/
def Image.comps (i : Image) : List Nat := i.entries.map (·.type)

/-- The flash PHY component carries HOT; the flag is honoured for it alone (R402). -/
def Image.hot (i : Image) : Bool := i.entries.any fun c => decide (c.type = 0x12) && c.hot

/-- The types of the table of R388. -/
def compTypes : List Nat := [1, 2, 3, 4, 5, 6, 0x10, 0x11, 0x12, 0x13]

def Comp.apart (a b : Comp) : Bool := decide (a.off + a.len ≤ b.off) || decide (b.off + b.len ≤ a.off)

/-- No two entries of a list overlap. -/
def compsApart : List Comp → Bool
  | [] => true
  | c :: t => t.all c.apart && compsApart t

/-- Step 1 of R389. -/
def Image.formed (i : Image) : Bool :=
  decide (i.magic = 0x5A4C4849) && decide (i.format = 1) && decide (i.hdrLen = 4096) &&
  decide (i.totalLen = i.bytes.length) && decide (i.totalLen % 4096 = 0) && decide (4096 ≤ i.totalLen) &&
  decide (i.totalLen ≤ 50331648) && decide (1 ≤ i.compCount) && decide (i.compCount ≤ 16) &&
  i.entries.all (fun c => decide (c.off + c.len ≤ i.totalLen - 4096) && compTypes.contains c.type) && compsApart i.entries &&
  decide (i.comps.Nodup) && i.comps.contains 1 && i.comps.contains 2

end Sys2Proof.Machine
end

