-- ==== Sys2Proof/Machine/RecOps.lean ====
section
/-! DEFINITION. What every family counts in the open record of the event recorder (R478 to R481). -/

namespace Sys2Proof.Machine

/-- Change the open record. -/
def updRec (f : Record → Record) (s : State) : State :=
  { s with recd := { s.recd with cur := f s.recd.cur } }

/-- A buffer write is called for (R482). -/
def callWrite (s : State) : State := { s with recd := { s.recd with writeDue := true } }

/-- The codes of R481 that make the buffer be written. -/
def eventFlushes (code : Nat) : Bool :=
  [0x00, 0x01, 0x02, 0x03, 0x05, 0x06, 0x08, 0x0B, 0x12, 0x15, 0x17, 0x18].contains code

/-- Count an occurrence under its code (R481). -/
def recEvent (code : Nat) (s : State) : State :=
  when (eventFlushes code) callWrite
    (updRec (fun r => { r with events := tabSet r.events code (sat16 (tabGetD r.events code 0 + 1)) }) s)

/-- Count `n` under a DATA_ERR index (R478). -/
def recDataErr (i n : Nat) : State → State :=
  updRec fun r => { r with dataErr := tabSet r.dataErr i (sat32 (tabGetD r.dataErr i 0 + n)) }

/-- The histogram bin of an operation of `t` frames (R479). -/
def histBin (t : Nat) : Nat := if t = 0 then 0 else min 63 (quarterLog t + 1)

/-- Count an operation of `t` frames in histogram `h` (R479). -/
def recHist (h t : Nat) : State → State :=
  updRec fun r =>
    { r with hist := tabSet r.hist (h * 64 + histBin t) (tabGetD r.hist (h * 64 + histBin t) 0 + 1) }

/-- Widen a minimum and maximum by a reading. -/
def widen (t : Tab (Int × Int)) (k : Nat) (v : Int) : Tab (Int × Int) :=
  match tabGet t k with
  | some (lo, hi) => tabSet t k (min lo v, max hi v)
  | none => tabSet t k (v, v)

/-- The larger of a table's entry and `v`. -/
def raise (t : Tab Int) (k : Nat) (v : Int) : Tab Int :=
  match tabGet t k with
  | some o => tabSet t k (max o v)
  | none => tabSet t k v

end Sys2Proof.Machine
end

