-- ==== Sys2Proof/Machine/QueueOps.lean ====
section
/-! DEFINITION. The queue engines' shared operations: completions, interrupts, asynchronous events, the
tag table and the counts kept per function (chapter Host Queues and NVMe Commands). -/

namespace Sys2Proof.Machine

/-! ### Statuses -/

/-- An arrival stamped in the last counting frame of a period of `l` frames armed at `a` wins over its timeout, which
TIE_WINS counts (R50, R59). -/
def noteTie (a l : Nat) (s : State) : State :=
  when (decide (clk s = a + l)) (fun s => { s with frame := { s.frame with ties := s.frame.ties + 1 } }) s

def mkStatus (sct sc : Nat) (dnr : Bool) : Status := { sct := sct, sc := sc, dnr := dnr }

/-- Successful completion. -/
def stOk : Status := mkStatus 0 0 false
def stInvalidOpcode : Status := mkStatus 0 0x01 true
def stInvalidField : Status := mkStatus 0 0x02 true
def stCidConflict : Status := mkStatus 0 0x03 true
def stDataTransfer : Status := mkStatus 0 0x04 false
def stInternal : Status := mkStatus 0 0x06 false
def stAbortRequested : Status := mkStatus 0 0x07 false
def stInvalidNamespace : Status := mkStatus 0 0x0B true
def stSequenceError : Status := mkStatus 0 0x0C true
def stSglType : Status := mkStatus 0 0x11 true
def stSanitizeInProgress : Status := mkStatus 0 0x1D false
def stSanitizeFailed : Status := mkStatus 0 0x1C false
def stLbaRange : Status := mkStatus 0 0x80 true
def stNsNotReady : Status := mkStatus 0 0x82 false
def stFormatInProgress : Status := mkStatus 0 0x84 false
/-- The device's own statuses (R117). -/
def stCapacityReserve : Status := mkStatus 7 0x80 true
def stEarlierFailure : Status := mkStatus 7 0x81 true
def stGeneration : Status := mkStatus 7 0x82 false
def stLifetime : Status := mkStatus 7 0x83 false
def stHoldExpired : Status := mkStatus 7 0x84 false
def stUnrecovered : Status := mkStatus 2 0x81 false

def Status.failed (st : Status) : Bool := !(decide (st.sct = 0) && decide (st.sc = 0))

/-! ### Controllers -/

def ctlOf (s : State) (fn : Nat) : Option Ctl := tabGet s.host.ctls fn

def updCtl (fn : Nat) (f : Ctl → Ctl) (s : State) : State :=
  { s with host := { s.host with ctls := tabUpd s.host.ctls fn f } }

/-- The defaults of the features (R107, R118). -/
def featsReset : Feats :=
  { burst := 0, tempOver := 0xFFFF, tempUnder := 0, dulbe := false, coalThr := 0, coalTime := 0, aec := 0,
    atomicDn := false, ts := none, tsFrame := 0, lifeE := 22 }

/-- CAP: MQES 0xFFFF, CQR 1, TO 4, MPSMAX 4, and AMS, DSTRD, NSSRS and MPSMIN 0 (R95). The rest is what NVMe 2.0
asks of a controller with I/O command sets: CSS 0x41, CRMS 1 (PRESUMED, log 10). -/
def capValue : Quad :=
  BitVec.ofNat 64 (0xFFFF + 2 ^ 16 + 4 * 2 ^ 24 + 0x41 * 2 ^ 37 + 4 * 2 ^ 52 + 2 ^ 59)

/-- A controller as it stands when its function appears: disabled, without queues. -/
def ctlReset (qpairs msix azones : Nat) (guard32 : Bool) (lifeE : Nat) : Ctl :=
  { cap := capValue, en := false, rdy := false, cfs := false, qpairs := qpairs, msix := msix, azones := azones, sqs := [],
    cqs := [], feats := { featsReset with lifeE := lifeE }, vecs := [], aers := [], events := [],
    masked := [], errs := [], errCount := 0, changedNs := [], changedZones := [], readFailTotal := 0,
    readFails := [], lastSq := 0, adminLast := false, dataRead := 0, dataWritten := 0,
    cmdsRead := 0, cmdsWritten := 0, tempWarn := false, fetchPaused := false, closing := false, guard32 := guard32 }

/-! ### Metering counters (R356) -/

def meterZero : Meter :=
  { bytesRead := 0, bytesWritten := 0, commands := 0, dieTime := 0, zoneFrames := 0, throttled := 0 }

def mflagsZero : MFlags :=
  { created := false, destroyed := false, step := false, power := false, ps := false }

def holderFresh : Holder :=
  { live := meterZero, seen := meterZero, flags := mflagsZero, total := meterZero, held := [], last := none, waited := false,
    within := true, window := [], gained := Buckets.reset, deficit := Buckets.reset }

/-- Change a holder's live counters and its totals alike; a number that is not metered has none. -/
def meter (fn : Nat) (f : Meter → Meter) (s : State) : State :=
  { s with inst := { s.inst with holders := tabUpd s.inst.holders fn fun h =>
      { h with live := f h.live, total := f h.total } } }

/-! ### Interrupts and completion queues -/

/-- Send an MSI-X vector of a function. -/
def interrupt (fn vector : Nat) : State → State := send (.msix fn vector)

/-- The coalescing record of a vector (R99). -/
def vecOf (c : Ctl) (v : Nat) : Vec := tabGetD c.vecs v { cd := false, pend := 0, since := 0 }

/-- Signal one completion on a vector: at once for the admin queue, with coalescing disabled, with no
threshold or time set, or when the threshold is reached; otherwise it is pending (R99). -/
def signal (fn cq vector : Nat) (s : State) : State :=
  match ctlOf s fn with
  | none => s
  | some c =>
    let v := vecOf c vector
    if cq = 0 ∨ v.cd ∨ c.feats.coalTime = 0 ∨ c.feats.coalThr ≤ v.pend then
      interrupt fn vector (updCtl fn (fun c => { c with vecs := tabSet c.vecs vector { v with pend := 0 } }) s)
    else
      let v := { v with pend := v.pend + 1, since := if v.pend = 0 then clk s else v.since }
      updCtl fn (fun c => { c with vecs := tabSet c.vecs vector v }) s

/-- Post an entry in a completion queue, or keep it waiting while the queue is full. -/
def postCqe (fn cq : Nat) (e : Cqe) (s : State) : State :=
  match ctlOf s fn with
  | none => s
  | some c =>
    match tabGet c.cqs cq with
    | none => s
    | some q =>
      if q.waiting.isEmpty ∧ q.entries.length + 1 < q.size then
        let q' := { q with entries := q.entries ++ [e], tail := (q.tail + 1) % q.size }
        when q.ien (signal fn cq q.vector) (updCtl fn (fun c => { c with cqs := tabSet c.cqs cq q' }) s)
      else
        let q' := { q with waiting := q.waiting ++ [e] }
        updCtl fn (fun c => { c with cqs := tabSet c.cqs cq q' }) s

/-! ### The tag table -/

def findItem (s : State) (id : CmdId) : Option Item := s.host.items.find? fun it => decide (it.id = id)

def itemBySeq (s : State) (n : Nat) : Option Item := s.host.items.find? fun it => decide (it.seq = n)

def updItems (f : List Item → List Item) (s : State) : State :=
  { s with host := { s.host with items := f s.host.items } }

/-- Change the work item with sequence number `n`. -/
def updItem (n : Nat) (f : Item → Item) : State → State :=
  updItems fun l => l.map fun it => if it.seq = n then f it else it

def dropItem (n : Nat) : State → State := updItems fun l => l.filter fun it => decide (it.seq ≠ n)

/-- An I/O command: fetched from an I/O queue. -/
def Item.io (it : Item) : Bool := decide (it.id.sq ≠ 0)

def Item.opc (it : Item) : Nat := it.sqe.opc.toNat

/-- The elapsed frames an item's lifetime has counted by elapsed frame `c` (R61). -/
def Item.age (it : Item) (c : Nat) : Nat := c - it.fetched - it.paused

/-- Latch an outcome in the tag table: the first to reach it stays (R122). -/
def latch (n : Nat) (st : Status) (dw0 dw1 : Word) (s : State) : State :=
  updItem n (fun it =>
    if it.outcome.isSome then it
    else { it with outcome := some st, latchedAt := clk s, dw0 := dw0, dw1 := dw1, phase := .done }) s

/-- The SQ's completion queue, for a work item. -/
def cqOf (c : Ctl) (sq : Nat) : Nat :=
  match tabGet c.sqs sq with
  | some q => q.cq
  | none => 0

def isWriteOpc (o : Nat) : Bool := [0x01, 0x08, 0x7D].contains o
def isReadOpc (o : Nat) : Bool := [0x02, 0x0C].contains o

/-- Add an Error Information entry, newest first, at most 256 (R95, R117). -/
def addErr (it : Item) (st : Status) (c : Ctl) : Ctl :=
  { c with
    errCount := c.errCount + 1
    errs := ({ count := c.errCount + 1, sq := it.id.sq, cid := it.id.cid, st := st,
               lba := it.sqe.cdw10.toNat + 2 ^ 32 * it.sqe.cdw11.toNat, nsid := it.sqe.nsid.toNat } ::
              c.errs).take 256 }

/-- What posting an I/O completion counts: the histogram of its class (R479), COMMANDS (R356), the counts
of log 0x02, and a lifetime it has beaten in its last counting frame (R50). -/
def countPosted (it : Item) (s : State) : State :=
  let t := clk s - it.bell
  let s := when (isReadOpc it.opc) (recHist 0 t) s
  let s := when (isWriteOpc it.opc) (recHist 1 t) s
  let s := meter it.id.fn (fun m => { m with commands := m.commands + 1 }) s
  let s := updCtl it.id.fn (fun c =>
    { c with cmdsRead := c.cmdsRead + flag (isReadOpc it.opc) 1
             cmdsWritten := c.cmdsWritten + flag (isWriteOpc it.opc) 1 }) s
  when (decide (it.age it.latchedAt = it.life) && decide (it.outcome ≠ some stLifetime))
    (fun s => { s with frame := { s.frame with ties := s.frame.ties + 1 } }) s

/-- ORD of a command: the top bit of the placement handle of a Write or Zone Append (R113, R150). -/
def Sqe.ord (e : Sqe) : Bool :=
  (decide (e.opc.toNat = 0x01) || decide (e.opc.toNat = 0x7D)) &&
  decide (bits e.cdw12.toNat 23 20 = 1) && e.cdw13.getLsbD 31

/-- The frame of a completion of a submission queue's command, for its barriers (R113). A command that ends while
an earlier ORD command waits is not one of those the barrier waits for. -/
def stampSq (it : Item) (s : State) : State :=
  let c := clk s
  let behind := s.host.items.any fun k =>
    decide (k.id.fn = it.id.fn) && decide (k.id.sq = it.id.sq) && decide (k.seq < it.seq) && k.sqe.ord
  updCtl it.id.fn (fun k => { k with sqs := tabUpd k.sqs it.id.sq fun q =>
    { q with lastPost := if behind then q.lastPost else some c, lastOrd := if it.sqe.ord then some c else q.lastOrd } }) s

/-- Post the completion of a work item whose outcome is latched and drop it from the tag table. A silent
item posts nothing (R123); during a power-loss flush nothing is posted (R442). -/
def postItem (n : Nat) (s : State) : State :=
  if flushing s then s else
  match itemBySeq s n with
  | none => s
  | some it =>
    match it.outcome with
    | none => s
    | some st =>
      let s := dropItem n s
      if it.silent then s else
        let s := stampSq it (when st.failed (updCtl it.id.fn (addErr it st)) s)
        let s := when it.io (countPosted it) s
        match ctlOf s it.id.fn with
        | none => s
        | some c =>
          postCqe it.id.fn (cqOf c it.id.sq)
            { sq := it.id.sq, cid := it.id.cid, st := st, more := st.failed, dw0 := it.dw0, dw1 := it.dw1 } s

/-- Complete a work item: latch and post. -/
def finish (n : Nat) (st : Status) (dw0 dw1 : Word) (s : State) : State :=
  postItem n (latch n st dw0 dw1 s)

def finishOk (n : Nat) : State → State := finish n stOk 0 0

def finishBad (n : Nat) (st : Status) : State → State := finish n st 0 0

/-! ### Turns of parsing (R38, R124) -/

/-- The item's parse has not begun. -/
def Item.unparsed (it : Item) : Bool := decide (it.phase = .fetched) && it.outcome.isNone

/-- No command fetched earlier must be parsed first: of those an activation hold has released, in the item's
submission queue (R124); of the admin commands held while core 0 restarted, in any (R38). -/
def inTurn (s : State) (it : Item) : Bool :=
  !(s.host.items.any fun k => decide (k.seq < it.seq) && k.unparsed &&
    ((s.host.porch.contains k.seq && decide (k.id.fn = it.id.fn) && decide (k.id.sq = it.id.sq)) ||
     (s.host.kept.contains k.seq && decide (it.id.sq = 0))))

/-- The item is taken up: it holds no later one back any more. -/
def takeUp (seq : Nat) (s : State) : State :=
  { s with host := { s.host with porch := s.host.porch.filter fun n => decide (n ≠ seq),
                                 kept := s.host.kept.filter fun n => decide (n ≠ seq) } }

/-! ### Asynchronous events (R106) -/

/-- Report the oldest event whose type is not masked, if a request is outstanding. -/
def reportOne (fn : Nat) (s : State) : State :=
  match ctlOf s fn with
  | none => s
  | some c =>
    match c.aers, c.events.find? (fun e => !c.masked.contains e.type) with
    | cid :: rest, some e =>
      let s := updCtl fn (fun c => { c with aers := rest, events := c.events.erase e,
                                            masked := e.type :: c.masked }) s
      match findItem s { fn := fn, sq := 0, cid := cid } with
      | some it => finish it.seq stOk (wordOf (e.type + 256 * e.info + 65536 * e.log)) 0 s
      | none => s
    | _, _ => s

/-- Report events while requests are outstanding, at most `n`. -/
def reportEvents (fn : Nat) : Nat → State → State
  | 0, s => s
  | n + 1, s => reportEvents fn n (reportOne fn s)

/-- An event occurs on a function. `en` says whether the function's Asynchronous Event Configuration
enables it; error and vendor-specific events are always reported. -/
def notify (fn : Nat) (en : Word → Bool) (e : Event) (s : State) : State :=
  match ctlOf s fn with
  | none => s
  | some c =>
    if c.en ∧ en c.feats.aec ∧ !c.events.contains e then
      reportEvents fn 16 (updCtl fn (fun c => { c with events := c.events ++ [e] }) s)
    else s

def always : Word → Bool := fun _ => true
def aecBit (i : Nat) : Word → Bool := fun w => w.getLsbD i

/-- Invalid Doorbell Write, reported only if a request is outstanding at the time (R98). -/
def notifyDoorbell (fn : Nat) (s : State) : State :=
  match ctlOf s fn with
  | none => s
  | some c => when (!c.aers.isEmpty) (notify fn always { type := 0, info := 0x01, log := 0x01 }) s

/-- Namespace Attribute Changed (R106), with the Changed Namespace List. -/
def notifyNs (fn nsid : Nat) (s : State) : State :=
  notify fn (aecBit 8) { type := 2, info := 0x00, log := 0x04 }
    (updCtl fn (fun c => { c with changedNs := if c.changedNs.contains nsid then c.changedNs
                                               else c.changedNs ++ [nsid] }) s)

/-- Firmware Activation Starting (R106). -/
def notifyActivation (fn : Nat) : State → State :=
  notify fn (aecBit 9) { type := 2, info := 0x01, log := 0x03 }

/-- Zone Descriptor Changed (R106), with the Changed Zone List. -/
def notifyZone (fn nsid zslba : Nat) (s : State) : State :=
  notify fn (aecBit 27) { type := 6, info := 0x00, log := 0xBF }
    (updCtl fn (fun c => { c with changedZones := if c.changedZones.contains (nsid, zslba)
                                                  then c.changedZones
                                                  else c.changedZones ++ [(nsid, zslba)] }) s)

/-- Information of the SMART event for a critical warning bit (NVMe 2.0): spare below threshold for bit
0, temperature for bit 1, reliability for the others. -/
def smartInfo (b : Nat) : Nat := if b = 0 then 2 else if b = 1 then 1 else 0

def notifySmart (fn b : Nat) : State → State :=
  notify fn (aecBit b) { type := 1, info := smartInfo b, log := 0x02 }

/-- The functions that have a controller, in ascending order. -/
def functions (s : State) : List Nat := s.host.ctls.map (·.1)

/-- ALERT_N is asserted, where BALLS selects that function (R472). -/
def assertAlert (s : State) : State :=
  if bitOf s.fw.cfg.balls 0 then s else { s with pins := { s.pins with alert := true } }

/-- Bit 1 already reads 1 on a function, by its own threshold (R466). -/
def warned (s : State) (fn : Nat) : Bool :=
  match ctlOf s fn with
  | some c => c.tempWarn
  | none => false

/-- Set a device-wide critical warning bit: an event on every function that enables it and on which the bit sets, ALERT_N,
and a write of the recorder's buffer (R106, R466, R472, R481). -/
def setCritical (b : Nat) (s : State) : State :=
  if s.therm.critical.getLsbD b then s
  else
    let s := callWrite { assertAlert s with therm := { s.therm with critical := s.therm.critical ||| BitVec.ofNat 5 (2 ^ b) } }
    forEach ((functions s).filter fun fn => decide (b ≠ 1) || !warned s fn) (fun fn => notifySmart fn b) s

/-- Clear a device-wide critical warning bit. -/
def clearCritical (b : Nat) (s : State) : State :=
  { s with therm := { s.therm with critical := s.therm.critical &&& ~~~(BitVec.ofNat 5 (2 ^ b)) } }

end Sys2Proof.Machine
end

