-- ==== Sys2Proof/Machine/Scp.lean ====
section
/-! DEFINITION. The mailbox and the Sethal Control Protocol: events, replies, taking up a request and its
checks (chapter Mailboxes, Latches and the Sethal Control Protocol). -/

namespace Sys2Proof.Machine

def updMbx (f : MbxSt → MbxSt) (s : State) : State := { s with mbx := f s.mbx }

def mbxPf (s : State) : Pf → MbxPf
  | .port0 => s.mbx.pf0
  | .port1 => s.mbx.pf1

def setMbxPf (p : Pf) (m : MbxPf) : State → State :=
  updMbx fun b => match p with
    | .port0 => { b with pf0 := m }
    | .port1 => { b with pf1 := m }

/-! ### MBX_EVENT (R69, R70) -/

/-- The vectors that go out when event bit `b` sets. -/
def eventVectors (s : State) (b : Nat) : List Emission :=
  (if (mbxPf s .port0).irqEn.getLsbD b then [.msix Pf.port0.fn (mbxPf s .port0).vector.toNat] else []) ++
  (if (mbxPf s .port1).irqEn.getLsbD b then [.msix Pf.port1.fn (mbxPf s .port1).vector.toNat] else [])

/-- Set event bit `b`; the enabled PFs are interrupted when it was clear. -/
def setEvent (b : Nat) (s : State) : State :=
  if s.mbx.event.getLsbD b then s
  else sends (eventVectors s b) (updMbx (fun m => { m with event := m.event ||| BitVec.ofNat 8 (2 ^ b) }) s)

/-- `n` words discarded under REJECT. -/
def reject (n : Nat) (s : State) : State :=
  setEvent 5 (updMbx (fun m => { m with rejectWords := sat8 (m.rejectWords + n) }) s)

/-- `n` words dropped under ABORT. -/
def abortWords (n : Nat) (s : State) : State :=
  setEvent 3 (updMbx (fun m => { m with abortWords := sat8 (m.abortWords + n) }) s)

/-- A W1C write of MBX_EVENT: bits cleared, and the word counts with their bits. -/
def clearEvents (v : Byte) (s : State) : State :=
  updMbx (fun m => { m with
    event := m.event &&& ~~~v
    abortWords := if v.getLsbD 3 then 0 else m.abortWords
    rejectWords := if v.getLsbD 5 then 0 else m.rejectWords }) s

/-! ### Replies (R71, R72) -/

/-- Spill entries in use. -/
def spillUsed (m : MbxSt) : Nat := (m.prod - m.cons).toNat

/-- Entries a reply of `n` words takes. -/
def spillNeed (n : Nat) : Nat := (n + 2) / 3

/-- The spill entry that holds up to three words of a message (R72). -/
def spillEntry (seq : BitVec 12) (epoch : Half) (first last : Bool) (ws : List Word) : SpillEntry :=
  { w0 := wordOf (seq.toNat + ws.length * 2 ^ 12 + flag first (2 ^ 14) + flag last (2 ^ 15) + epoch.toNat * 2 ^ 16)
    m1 := ws.getD 0 0
    m2 := ws.getD 1 0
    m3 := ws.getD 2 0 }

/-- Write `n` more entries of a message into the ring. -/
def spillWrite (epoch : Half) : Nat → Bool → List Word → MbxSt → MbxSt
  | 0, _, _, m => m
  | n + 1, first, ws, m =>
    let e := spillEntry m.spillSeq epoch first (decide (n = 0)) (ws.take 3)
    spillWrite epoch n false (ws.drop 3)
      { m with spill := tabSet m.spill m.prod.toNat e, prod := m.prod + 1, spillSeq := m.spillSeq + 1 }

/-- A reply goes to the ring. -/
def toRing (r : Reply) (s : State) : State :=
  setEvent 2 (updMbx (spillWrite r.epoch (spillNeed r.words.length) true r.words) s)

def ringTakes (m : MbxSt) (r : Reply) : Bool := decide (spillUsed m + spillNeed r.words.length ≤ 255)

/-- The words of a reply as the device→host queue holds them. -/
def inWords (r : Reply) : List InWord :=
  match r.words with
  | [] => []
  | h :: t => { word := h, head := true, epoch := r.epoch } ::
      t.map fun w => { word := w, head := false, epoch := r.epoch }

/-- Post a reply in the first place that can take it, in posting order (R71). What becomes of a reply that finds
512 in the backlog the spec does not say: the model's backlog takes it (DESIGN CHOICE, log 97). -/
def postReply (ws : List Word) (s : State) : State :=
  let r : Reply := { words := ws, epoch := s.mbx.devEpoch }
  if s.mbx.inQ.length + ws.length ≤ 16 ∧ spillUsed s.mbx = 0 ∧ s.mbx.backlog.isEmpty then
    setEvent 0 (updMbx (fun m => { m with inQ := m.inQ ++ inWords r }) s)
  else if s.mbx.backlog.isEmpty ∧ ringTakes s.mbx r then toRing r s
  else updMbx (fun m => { m with backlog := m.backlog ++ [r] }) s

/-- Backlogged replies move to the ring in order, each whole, while the ring takes them. -/
def drainBacklog : List Reply → State → State
  | [], s => s
  | r :: rest, s =>
    if ringTakes s.mbx r then drainBacklog rest (toRing r (updMbx (fun m => { m with backlog := rest }) s))
    else s

/-! ### The message at the head -/

def Posted.header (r : Posted) : Nat := (r.words.getD 0 0).toNat
def Posted.opcode (r : Posted) : Nat := bits r.header 31 24
def Posted.tag (r : Posted) : Nat := bits r.header 23 16
def Posted.len (r : Posted) : Nat := bits r.header 15 12
/-- Payload word `i`. -/
def Posted.pw (r : Posted) (i : Nat) : Nat := (r.words.getD (i + 1) 0).toNat
/-- The 64-bit value in payload words `i` and `i + 1`, low word first. -/
def Posted.pw64 (r : Posted) (i : Nat) : Nat := r.pw i + 2 ^ 32 * r.pw (i + 1)
/-- Address and length of the descriptor in payload words 0 to 3 (R66). -/
def Posted.descAddr (r : Posted) : Nat := r.pw64 0
def Posted.descLen (r : Posted) : Nat := r.pw 2

/-- The opcodes of the catalogue (R88). -/
def catalogue : List Nat :=
  [0x01, 0x02, 0x10, 0x11, 0x12, 0x13, 0x14, 0x15, 0x20, 0x21, 0x22, 0x23, 0x30, 0x31, 0x32, 0x33, 0x40, 0x41,
   0x50, 0x60, 0x61, 0x70, 0x71, 0x80, 0x81, 0x90, 0xA0, 0xB0]

/-- A reply's header word (R65). -/
def replyHeader (opcode tag len : Nat) (stale : Bool) (status : Nat) : Word :=
  wordOf (opcode * 2 ^ 24 + tag * 2 ^ 16 + len * 2 ^ 12 + flag stale (2 ^ 9) + status)

/-- Post a reply with opcode, tag, status and payload to a request posted under `epoch` (R75). -/
def sendReply (opcode tag : Nat) (epoch : Half) (status : Nat) (payload : List Nat) (s : State) : State :=
  postReply (replyHeader opcode tag payload.length (decide (epoch ≠ s.mbx.hostEpoch)) status ::
    payload.map wordOf) s

/-- The final reply to the request just taken up. -/
def reply (r : Posted) (status : Nat) (payload : List Nat) : State → State :=
  sendReply r.opcode r.tag r.epoch status payload

def replyOk (r : Posted) (payload : List Nat) : State → State := reply r 0x00 payload
def replyBusy (r : Posted) : State → State := reply r 0x01 []
/-- INVALID naming message word `i`: 0 the header, i + 1 payload word i (R545). -/
def replyInvalid (r : Posted) (i : Nat) : State → State := reply r 0x02 [i]
/-- CONFLICT with a holder: KIND 0 an agent, 1 a feature (R86). -/
def replyConflict (r : Posted) (kind holder : Nat) : State → State := reply r 0x03 [kind + holder * 2 ^ 16]
def replyRefused (r : Posted) (reason : Nat) : State → State := reply r 0x04 [reason]
def replyNoResource (r : Posted) (pool : Nat) : State → State := reply r 0x05 [pool]
def replyAuth (r : Posted) : State → State := reply r 0x06 []
def replyAborted (r : Posted) (reason offset : Nat) : State → State := reply r 0x07 [reason, offset]

/-- PENDING: the request stays outstanding until its final reply (R85). -/
def replyPending (r : Posted) (s : State) : State :=
  reply r 0x09 [] (updMbx (fun m => { m with outst := m.outst ++
    [{ tag := r.tag, opcode := r.opcode, agent := r.agent, epoch := r.epoch, frame := r.frame }] }) s)

/-- The final reply to the outstanding request with `tag`; an abandoned request gets none (R79). -/
def finalReply (tag opcode status : Nat) (payload : List Nat) (s : State) : State :=
  match s.mbx.outst.find? fun o => decide (o.tag = tag) && decide (o.opcode = opcode) with
  | none => s
  | some o =>
    sendReply opcode tag o.epoch status payload
      (updMbx (fun m => { m with outst := m.outst.erase o }) s)

/-! ### Taking up (R84) -/

/-- Control core `k` runs: it is not restarting (R496). -/
def coreRunning (s : State) (k : Nat) : Bool :=
  match tabGet s.host.cores k with
  | some c => c.running
  | none => true

/-- The control core whose shard holds an I/O queue runs (R36, R496). -/
def shardRuns (s : State) (fn sq : Nat) : Bool :=
  match (ctlOf s fn).bind fun c => tabGet c.sqs sq with
  | some q => coreRunning s q.shard
  | none => true

/-- Core 0 takes up requests: it runs, no activation hold is in force and the hall runs (R38, R77). -/
def scpOpen (s : State) : Bool := ctrlRuns s && coreRunning s 0 && s.fw.hold.isNone

/-- Nothing lies in the host→device queue, posted or partial. -/
def outEmpty (m : MbxSt) : Bool := m.outQ.isEmpty && m.part.isNone

/-- Perform `f`; OUT_EMPTY sets when the host→device queue becomes empty by it, whatever emptied it (R69; a clear and
the discard of a partial message count: DEDUCED, log 98). -/
def emptying (f : State → State) (s : State) : State :=
  let t := f s
  when (!outEmpty s.mbx && outEmpty t.mbx) (setEvent 1) t

/-- Remove the head request. -/
def takeHead : State → State := emptying (updMbx fun m => { m with outQ := m.outQ.tail })

/-- Step 1 of R84: the tag is that of an outstanding request. -/
def tagDup (s : State) (r : Posted) : Bool := s.mbx.outst.any fun o => decide (o.tag = r.tag)

def dropDup (s : State) : State :=
  setEvent 6 (updMbx (fun m => { m with dupCount := sat16 (m.dupCount + 1) }) s)

/-- Requests whose opcode no row has are taken up as they reach the head: discarded as duplicates, or
answered INVALID naming the header. -/
def drainHeads : Nat → State → State
  | 0, s => s
  | n + 1, s =>
    match s.mbx.outQ with
    | [] => s
    | r :: _ =>
      if catalogue.contains r.opcode then s
      else
        let s := takeHead s
        drainHeads n (if tagDup s r then dropDup s else replyInvalid r 0 s)

/-- Core 0 takes up requests again: those at the head whose opcode no row has are answered (R84). -/
def reopen (s : State) : State := when (scpOpen s) (drainHeads 16) s

/-- What an opcode's rule says of its request's form: the lengths, the reserved bits of its payload words, whether it
carries a descriptor (with the direction and the lengths allowed), and whether it is the manager's alone. -/
structure Form where
  lens : List Nat
  desc : Option (Bool × List Nat)
  mgr : Bool
  /-- What the opcode's rule says of the descriptor's length beside. -/
  lenOk : Posted → Bool := fun _ => true
  /-- Reserved bits, by payload word. -/
  rsv : List (Nat × Nat) := []

/-- The first payload word of a list whose masked bits are not zero, by its index. -/
def rsvd (r : Posted) : List (Nat × Nat) → Option Nat
  | [] => none
  | (i, mask) :: t => if r.pw i &&& mask ≠ 0 then some (i + 1) else rsvd r t

/-- The first word of a descriptor that fails R66 for every opcode. -/
def descFault (r : Posted) : Option Nat :=
  if r.pw 0 % 64 ≠ 0 then some 1
  else if r.descLen % 4 ≠ 0 ∨ r.descLen < 4 ∨ 16777216 < r.descLen then some 3
  else if 1 < r.pw 3 then some 4
  else none

/-- Step 2 of R84: the header (index 0), the descriptor, reserved bits (R545). R84 does not place R66's checks of a
descriptor: alignment, length and reserved bits stand here, before the manager's check (DEDUCED, log 99). -/
def formFault (r : Posted) (f : Form) : Option Nat :=
  if bits r.header 7 0 ≠ 0 ∨ !f.lens.contains r.len ∨ bitOf r.header 8 ≠ f.desc.isSome ∨ bitOf r.header 9 ∨
      bits r.header 11 10 ≠ 0 then some 0
  else ((if f.desc.isSome then descFault r else none)).or (rsvd r f.rsv)

/-- Length and direction of a descriptor as the opcode's own rule has them; an empty list of lengths allows every
multiple of 4. -/
def descOwn (r : Posted) (f : Form) : Option Nat :=
  match f.desc with
  | none => none
  | some (dir, lens) =>
    if (!lens.isEmpty ∧ !lens.contains r.descLen) ∨ !f.lenOk r then some 3
    else if r.pw 3 ≠ flag dir 1 then some 4
    else none

/-- The opcodes the cellar accepts (R89). -/
def cellarOpcodes : List Nat := [0x01, 0x02, 0x30, 0x33]

/-- Take up the head request when its opcode is `op`, check it in the order of R84, and perform `body`.
`fault` gives the first payload word that its own chapter refuses (step 4). -/
def scp (op : Nat) (f : Form) (fault : Posted → Option Nat) (body : Posted → State → State) (s : State) : State :=
  if !scpOpen s then s
  else
    match s.mbx.outQ with
    | [] => s
    | r :: _ =>
      if r.opcode ≠ op then s
      else
        let s := takeHead s
        drainHeads 16
          (if tagDup s r then dropDup s
           else match formFault r f with
             | some i => replyInvalid r i s
             | none =>
               if f.mgr ∧ holder s 0 ≠ r.agent then
                 if holder s 0 = 0 then replyRefused r 0 s else replyConflict r 0 (holder s 0) s
               else if s.fw.cellar ∧ !cellarOpcodes.contains op then replyRefused r 1 s
               else match (descOwn r f).or (fault r) with
                 | some i => replyInvalid r i s
                 | none => body r s)

/-- A request without a descriptor. -/
def Form.plain (lens : List Nat) (mgr : Bool) (rsv : List (Nat × Nat) := []) : Form :=
  { lens := lens, desc := none, mgr := mgr, rsv := rsv }

/-! ### Resets of the mailbox (R76, R78) -/

/-- Words of the partial message. -/
def partWords (m : MbxSt) : Nat :=
  match m.part with
  | some p => p.words.length
  | none => 0

/-- A host-side sender reset: the partial message is discarded and counted under REJECT (R76), and
HOST_EPOCH goes up by one. -/
def hostSenderReset (s : State) : State :=
  let n := partWords s.mbx
  when (decide (0 < n)) (reject n)
    (emptying (updMbx fun m => { m with part := none, skip := 0, hostEpoch := m.hostEpoch + 1 }) s)

/-- The device→host queue cleared, its words counted (R91 word 5). -/
def clearInQueue (s : State) : State :=
  updMbx (fun m => { m with inDropped := sat16 (m.inDropped + m.inQ.length), inQ := [] }) s

/-- Words in the host→device queue, with those of a partial message. -/
def outWords (m : MbxSt) : Nat := (m.outQ.map fun p => p.words.length).sum + partWords m

/-! ### Latches (R81, R82) -/

def setLatch (n a : Nat) : State → State :=
  updMbx fun m => { m with latches := if a = 0 then tabDel m.latches n else tabSet m.latches n a }

/-- ECC test mode is left and every window cleared (R318, R320). -/
def eccExit (s : State) : State := { s with ecc := { s.ecc with mode := false, words := [] } }

/-- Pending proposals of the manager are discarded with outcome "party reset" (R378). -/
def dropManagerProposals (s : State) : State :=
  let gone := s.prot.pending.filter fun p => decide (p.2.proposer = .manager)
  { s with prot := { s.prot with
      pending := s.prot.pending.filter fun p => decide (p.2.proposer ≠ .manager)
      outcomes := gone.foldl (fun t p => tabSet t p.1 .partyReset) s.prot.outcomes } }

/-- LATCH_0 changed holder or became free (R69 ROLE, R378). -/
def roleChange (s : State) : State := setEvent 7 (dropManagerProposals s)

/-- The metering ring stops when LATCH_0 is released; records are held (R360). -/
def ringOff (s : State) : State :=
  { s with inst := { s.inst with ring := s.inst.ring.map fun r => { r with enable := false } } }

/-- Latch `n` is free: what its release brings about beside. LATCH_1's own release is a host-side sender
reset when its holder wrote it. -/
def freeLatch (n : Nat) (s : State) : State :=
  let s := setLatch n 0 s
  if n = 0 then roleChange (ringOff s)
  else if n = 2 then eccExit s
  else s

/-- Agent `a` takes latch `n`. -/
def takeLatch (n a : Nat) (s : State) : State := when (decide (n = 0)) roleChange (setLatch n a s)

/-- All latches of an agent are released. -/
def freeLatchesOf (a : Nat) (s : State) : State :=
  forEach ((s.mbx.latches.filter fun p => decide (p.2 = a)).map (·.1)) freeLatch s

/-! ### Descriptor DMA (R67, R80) -/

/-- HOST_EPOCH moves under a running DMA: the holder releases LATCH_1, or writes MBX_CTL.RESET (R78). -/
def epochMoves (release : Bool) (s : State) : State :=
  if release then freeLatch 1 (hostSenderReset s) else clearInQueue (hostSenderReset s)

/-- Bytes of a transfer of `len` that have moved when the 4 KiB burst on the link at offset `off` has completed
(R80). -/
def burstEnd (off len : Nat) : Nat := min len ((off / 4096 + 1) * 4096)

/-- Perform a descriptor DMA, whose bytes to host memory are `out`; `ends` is its final reply. A request posted under an
earlier HOST_EPOCH gets none and ends ABORTED 0x0002, as one whose HOST_EPOCH moves meanwhile (R80); a DMA that fails
at the link ends it ABORTED 0x0001 (R67). -/
def descDma (r : Posted) (dma : Dma) (out : List Byte) (ends : Nat → List Nat → State → State) (body : State → State)
    (s : State) : State :=
  let put := fun (n : Nat) => when (!out.isEmpty) (send (.hostWrite (agentFn r.agent) r.descAddr (out.take n)))
  if r.epoch ≠ s.mbx.hostEpoch then ends 7 [2, 0] s
  else match dma.failAt with
    | some (.link off) => ends 7 [1, off] (put off s)
    | some (.epoch off release) =>
      ends 7 [2, burstEnd off r.descLen] (epochMoves release (put (burstEnd off r.descLen) s))
    | none => body (put r.descLen s)

/-- Perform a descriptor DMA that reads host memory, then `body` on what it read. -/
def descRead (r : Posted) (dma : Dma) (body : List Byte → State → State) : State → State :=
  descDma r dma [] (reply r) (body (padTo r.descLen dma.bytes))

/-- Perform a descriptor DMA that writes host memory, then `body`. -/
def descWrite (r : Posted) (dma : Dma) (out : List Byte) : (State → State) → State → State :=
  descDma r dma out (reply r)

/-- Cellar entry or exit (R78, R79): the host→device queue and the backlog go, DEV_EPOCH goes up, the
latches of cores and the management core are released, every request is abandoned, and the sender gets its abort
notice, with no word dropped too (R76). -/
def cellarMailboxReset (s : State) : State :=
  let n := outWords s.mbx
  let s := emptying (updMbx fun m => { m with
    outQ := [], part := none, skip := 0, backlog := [], devEpoch := m.devEpoch + 1, outst := [] }) s
  setEvent 4 (abortWords n (forEach (List.range' 3 17) freeLatchesOf s))

/-- FLR of a PF, or a reset of its port's link, as the window sees it (R78, R542). -/
def windowPfReset (p : Pf) (s : State) : State :=
  let s := when (decide (holder s 1 = p.agent)) (fun s => clearInQueue (hostSenderReset s)) s
  let s := freeLatchesOf p.agent s
  let s := setMbxPf p MbxPf.reset s
  let s := updMbx (fun m => match p with
    | .port0 => { m with gate0 := Gate.reset }
    | .port1 => { m with gate1 := Gate.reset }) s
  { s with frame := match p with
    | .port0 => { s.frame with hi0 := 0 }
    | .port1 => { s.frame with hi1 := 0 } }

end Sys2Proof.Machine
end

