-- ==== Sys2Proof/Machine/Window.lean ====
section
/-! DEFINITION. The device window: its map, the values its registers show, gated accesses, access widths
(chapters Mailboxes, Latches and SCP and Device Window Register Reference). -/

namespace Sys2Proof.Machine

/-! ### Gated areas (R435 to R437) -/

/-- The gated area that holds a 4-byte offset, by its LAST_AREA code. -/
def gatedArea (off : Nat) : Option Nat :=
  if off = 0x10 ∨ off = 0x14 then some 1
  else if 0x100 ≤ off ∧ off ≤ 0x118 then some 2
  else if 0x200 ≤ off ∧ off < 0x240 then some 3
  else if 0x300 ≤ off ∧ off < 0x340 then some 4
  else if 0x1000 ≤ off ∧ off < 0x2000 then some 5
  else none

def gateOf (s : State) : Pf → Gate
  | .port0 => s.mbx.gate0
  | .port1 => s.mbx.gate1

def setGate (p : Pf) (g : Gate) : State → State :=
  updMbx fun m => match p with
    | .port0 => { m with gate0 := g }
    | .port1 => { m with gate1 := g }

/-- A gated access is set in GATE_STATUS and counted there and in PWR_COUNTERS (R436). -/
def gateAccess (p : Pf) (area : Nat) (wr : Bool) (s : State) : State :=
  let g := gateOf s p
  let s := setGate p { hit := true, hitWrite := g.hitWrite || wr, area := area, count := sat16 (g.count + 1) } s
  { s with power := { s.power with gated := s.power.gated + 1 } }

/-! ### Register values -/

def hiShadow (s : State) : Pf → Word
  | .port0 => s.frame.hi0
  | .port1 => s.frame.hi1

/-- Set a PF's HI shadow to bits [63:32] of the counter (R44). -/
def setShadow (p : Pf) (s : State) : State :=
  let hi := wordOf (s.frame.counter / 2 ^ 32)
  { s with frame := match p with
    | .port0 => { s.frame with hi0 := hi }
    | .port1 => { s.frame with hi1 := hi } }

/-- Device throttle step: the highest zone step (R463). -/
def deviceStep (s : State) : Nat := (s.therm.zones.map fun z => z.2.step).foldl max 0

/-- Some class is in the last-shelf state (R230). -/
def lastShelfUsed (s : State) : Bool := s.media.classes.any fun c => c.2.lastShelf

def readOnlyState (s : State) : Bool := lastShelfUsed s || s.media.journalReadOnly

/-- DEV_INFO_1 (R538). -/
def devInfo1 (s : State) : Pf → Nat
  | .port0 => 1 * 2 ^ 8 + s.host.port0.totalVfs * 2 ^ 16
  | .port1 => 1 + 2 * 2 ^ 8 + s.host.port1.totalVfs * 2 ^ 16

/-- DEV_INFO_2 (R538). -/
def devInfo2 (s : State) : Nat :=
  s.power.ps + flag s.fw.cellar 8 + flag (readOnlyState s) 16 + flag s.media.writeThrough 32 +
  flag s.power.entry.isSome 64 + deviceStep s * 2 ^ 8

/-- MBX_OUT_STATUS: free words, reserved words counting as used (R69). -/
def outUsed (m : MbxSt) : Nat :=
  (m.outQ.map fun p => p.words.length).sum +
  (match m.part with
   | some p => p.words.length + p.left
   | none => 0)

def outStatus (m : MbxSt) : Nat := (16 - outUsed m) + flag m.part.isSome (2 ^ 8)

/-- MBX_IN_STATUS (R69). -/
def inStatus (m : MbxSt) : Nat :=
  m.inQ.length + m.prod.toNat * 2 ^ 8 +
  (match m.inQ with
   | [] => 0
   | w :: _ => flag w.head (2 ^ 5) + w.epoch.toNat * 2 ^ 16)

/-- MBX_CTL of a PF (R69). -/
def ctlValue (s : State) (p : Pf) : Nat :=
  (mbxPf s p).irqEn.toNat * 2 ^ 8 + (mbxPf s p).vector.toNat * 2 ^ 16 + s.mbx.cons.toNat * 2 ^ 24

/-- MBX_EVENT (R69). -/
def eventValue (m : MbxSt) : Nat := m.event.toNat + m.abortWords * 2 ^ 16 + m.rejectWords * 2 ^ 24

def noticeOf (s : State) (n : Nat) : Notice := tabGetD s.mbx.notices n Notice.reset

/-- NOTICE_n_CTL (R83). -/
def noticeCtl (b : Notice) : Nat := flag b.full 1 + flag b.collide 2 + b.seq.toNat * 2 ^ 8

/-- Word `w` of spill entry `n` (R541). -/
def spillWord (s : State) (n w : Nat) : Nat :=
  match tabGet s.mbx.spill n with
  | none => 0
  | some e => (if w = 0 then e.w0 else if w = 1 then e.m1 else if w = 2 then e.m2 else e.m3).toNat

/-- GATE_STATUS (R437). -/
def gateValue (s : State) (p : Pf) : Nat :=
  let g := gateOf s p
  flag (gated s) 1 + flag g.hit 2 + flag g.hitWrite 4 + g.area * 2 ^ 8 + g.count * 2 ^ 16

/-- The value a 4-byte register shows, with no side effect (R536). MBX_IN_DATA shows 0 to a PF that does
not hold LATCH_1; a latch shows its stored HOLDER field (R540). -/
def peek (s : State) (p : Pf) (off : Nat) : Nat :=
  if off = 0x0 then 0x96400002
  else if off = 0x4 then devInfo1 s p
  else if off = 0x8 then devInfo2 s
  else if off = 0xC then 1
  else if off = 0x10 then s.frame.counter % 2 ^ 32
  else if off = 0x14 then (hiShadow s p).toNat
  else if off = 0x104 then outStatus s.mbx
  else if off = 0x108 then
    if holder s 1 = p.agent then
      match s.mbx.inQ with
      | [] => 0
      | w :: _ => w.word.toNat
    else 0
  else if off = 0x10C then inStatus s.mbx
  else if off = 0x110 then ctlValue s p
  else if off = 0x114 then eventValue s.mbx
  else if off = 0x118 then s.mbx.hostEpoch.toNat + s.mbx.devEpoch.toNat * 2 ^ 16
  else if 0x200 ≤ off ∧ off < 0x240 then holder s ((off - 0x200) / 4)
  else if 0x300 ≤ off ∧ off < 0x340 then
    let b := noticeOf s ((off - 0x300) / 8)
    if off % 8 = 0 then b.value.toNat else noticeCtl b
  else if off = 0x400 then gateValue s p
  else if 0x1000 ≤ off ∧ off < 0x2000 then spillWord s ((off - 0x1000) / 16) (off % 16 / 4)
  else 0

/-! ### Reads -/

/-- A read of latch `n` by an agent: it takes a free latch (R81). -/
def readLatch (a n : Nat) (s : State) : Nat × State :=
  let h := holder s n
  if h = 0 then (0, takeLatch n a s)
  else if h = a then (0, s)
  else (h, s)

/-- The value of board `n` is taken: FULL clears (R83). -/
def clearFull (n : Nat) (s : State) : State :=
  updMbx (fun m => { m with notices := tabUpd m.notices n fun b => { b with full := false } }) s

/-- A 4-byte read with its side effects. -/
def read4 (p : Pf) (off : Nat) (s : State) : Nat × State :=
  match gatedArea off, gated s with
  | some area, true => (0xFFFFFFFF, gateAccess p area false s)
  | _, _ =>
    let v := peek s p off
    if off = 0x10 then (v, setShadow p s)
    else if off = 0x108 then
      (v, when (decide (holder s 1 = p.agent)) (updMbx fun m => { m with inQ := m.inQ.tail }) s)
    else if 0x200 ≤ off ∧ off < 0x240 then readLatch p.agent ((off - 0x200) / 4) s
    else if 0x300 ≤ off ∧ off < 0x340 ∧ off % 8 = 0 then (v, clearFull ((off - 0x300) / 8) s)
    else (v, s)

/-- Consecutive 4-byte reads in ascending order. -/
def readMany (p : Pf) : Nat → Nat → State → Nat × State
  | 0, _, s => (0, s)
  | n + 1, off, s =>
    let (v, s) := read4 p off s
    let (w, s) := readMany p n (off + 4) s
    (v + 2 ^ 32 * w, s)

/-- A read of `size` bytes at offset `off` of a PF's window (R537). -/
def windowRead (p : Pf) (off size : Nat) (s : State) : Nat × State :=
  if size = 4 ∧ off % 4 = 0 then read4 p off s
  else if size = 8 ∧ off % 8 = 0 then
    if off = 0x10 then
      if gated s then (2 ^ 64 - 1, gateAccess p 1 false s)
      else (s.frame.counter, setShadow p s)
    else if 0x300 ≤ off ∧ off < 0x340 then
      if gated s then (2 ^ 64 - 1, gateAccess p 4 false s)
      else (peek s p off + 2 ^ 32 * peek s p (off + 4), clearFull ((off - 0x300) / 8) s)
    else readMany p 2 off s
  else if (size = 1 ∨ size = 2) ∧ off % size = 0 then
    let reg := off / 4 * 4
    match gatedArea reg, gated s with
    | some area, true => (2 ^ (8 * size) - 1, gateAccess p area false s)
    | _, _ => (peek s p reg / 2 ^ (8 * (off % 4)) % 2 ^ (8 * size), s)
  else if 8 < size ∧ size % 4 = 0 ∧ off % 4 = 0 ∧ 0x1000 ≤ off ∧ off + size ≤ 0x2000 then
    readMany p (size / 4) off s
  else (2 ^ (8 * size) - 1, s)

/-- Return a read's value to its reader. -/
def answer (r : Nat × State) : State := send (.readData r.1) r.2

/-! ### Writes -/

/-- A word written to MBX_OUT_DATA by the holder: whole messages only (R68). -/
def outWord (p : Pf) (w : Word) (s : State) : State :=
  let m := s.mbx
  if 0 < m.skip then reject 1 (updMbx (fun m => { m with skip := m.skip - 1 }) s)
  else
    match m.part with
    | some q =>
      if q.left ≤ 1 then
        let msg : Posted := { agent := q.agent, epoch := m.hostEpoch, frame := now s, words := q.words ++ [w] }
        updMbx (fun m => { m with part := none, outQ := m.outQ ++ [msg] }) s
      else updMbx (fun m => { m with part := some { q with words := q.words ++ [w], left := q.left - 1 } }) s
    | none =>
      let len := bits w.toNat 15 12
      if 16 < outUsed m + 1 + len then reject 1 (updMbx (fun m => { m with skip := len }) s)
      else if len = 0 then
        let msg : Posted := { agent := p.agent, epoch := m.hostEpoch, frame := now s, words := [w] }
        updMbx (fun m => { m with outQ := m.outQ ++ [msg] }) s
      else updMbx (fun m => { m with part := some { agent := p.agent, words := [w], left := len } }) s

/-- A write to MBX_OUT_DATA: a non-holder's word is discarded (R64); a message whose opcode no row has is
taken up when it stands at the head. -/
def writeOut (p : Pf) (w : Word) (s : State) : State :=
  if holder s 1 = p.agent then
    let s := outWord p w s
    reopen s
  else reject 1 s

/-- The holder writes SPILL_CONS: entries are freed and backlogged replies move up. A value outside the used
range leaves the ring's contents undefined, free values, but for the entries from the last SPILL_CONS to SPILL_PROD,
which are never overwritten (R73, log 3); the value itself is taken as the new SPILL_CONS (DESIGN CHOICE, log 100). -/
def setCons (v : Byte) (s : State) : State :=
  let m := s.mbx
  let inRange := decide ((v - m.cons).toNat ≤ spillUsed m)
  let kept := fun (i : Nat) => decide ((BitVec.ofNat 8 i - m.cons).toNat < spillUsed m)
  let s := updMbx (fun m => { m with cons := v }) s
  let s := if inRange then s else
    let k := s.free
    let fill := fun (i : Nat) (t : Tab SpillEntry) =>
      if kept i then t
      else tabSet t i { w0 := Config.freeWord k (4 * i), m1 := Config.freeWord k (4 * i + 1),
                        m2 := Config.freeWord k (4 * i + 2), m3 := Config.freeWord k (4 * i + 3) }
    { updMbx (fun m => { m with spill := (List.range 256).foldl (fun t i => fill i t) m.spill }) s with free := k + 1 }
  if flushing s then s else drainBacklog s.mbx.backlog s

/-- A write of MBX_CTL (R63, R69): IRQ_EN and VECTOR of the PF; RESET and SPILL_CONS from the holder. -/
def writeCtl (p : Pf) (v : Nat) (s : State) : State :=
  let s := setMbxPf p { irqEn := BitVec.ofNat 8 (bits v 15 8), vector := BitVec.ofNat 8 (bits v 23 16) } s
  if holder s 1 = p.agent then
    setCons (BitVec.ofNat 8 (bits v 31 24)) (when (bitOf v 0) (fun s => clearInQueue (hostSenderReset s)) s)
  else s

/-- A write of latch `n` by an agent: zero from its owner releases it (R81); the holder's release of LATCH_1
is a host-side sender reset (R78). -/
def writeLatch (a n : Nat) (v : Word) (s : State) : State :=
  if v = 0 ∧ holder s n = a ∧ a ≠ 0 then freeLatch n (when (decide (n = 1)) hostSenderReset s)
  else s

/-- A 4-byte write with its side effects (R536). -/
def write4 (p : Pf) (off v : Nat) (s : State) : State :=
  match gatedArea off, gated s with
  | some area, true => gateAccess p area true s
  | _, _ =>
    if off = 0x100 then writeOut p (wordOf v) s
    else if off = 0x110 then writeCtl p v s
    else if off = 0x114 then clearEvents (BitVec.ofNat 8 v) s
    else if 0x200 ≤ off ∧ off < 0x240 then writeLatch p.agent ((off - 0x200) / 4) (wordOf v) s
    else if 0x300 ≤ off ∧ off < 0x340 ∧ off % 8 = 4 ∧ bitOf v 1 then
      updMbx (fun m => { m with notices := tabUpd m.notices ((off - 0x300) / 8) fun b => { b with collide := false } }) s
    else if off = 0x400 then
      let g := gateOf s p
      setGate p { g with hit := g.hit && !bitOf v 1, hitWrite := g.hitWrite && !bitOf v 2,
                         count := if bitOf v 1 then 0 else g.count } s
    else s

/-- A write of `size` bytes at offset `off` (R537). -/
def windowWrite (p : Pf) (off size v : Nat) (s : State) : State :=
  if size = 4 ∧ off % 4 = 0 then write4 p off (v % 2 ^ 32) s
  else if size = 8 ∧ off % 8 = 0 then write4 p (off + 4) (v / 2 ^ 32 % 2 ^ 32) (write4 p off (v % 2 ^ 32) s)
  else if (size = 1 ∨ size = 2) ∧ off % size = 0 then
    match gatedArea (off / 4 * 4), gated s with
    | some area, true => gateAccess p area true s
    | _, _ => s
  else s

/-- Write a notice board (R83); boards are not updated in PS3 and PS4 and while the management core restarts (R453). -/
def boardWrite (n : Nat) (v : Nat) (s : State) : State :=
  if gated s ∨ !s.mgmt.running then s
  else
    let b := noticeOf s n
    let b' : Notice := { value := wordOf v, full := true, collide := b.collide || b.full, seq := b.seq + 1 }
    updMbx (fun m => { m with notices := tabSet m.notices n b' }) s

end Sys2Proof.Machine
end

