-- ==== Sys2Proof/Machine/Mailbox.lean ====
section
/-! DEFINITION. The meanings of the mailbox, latch and notice-board accesses, ECHO and STATUS_GET (chapter
Mailboxes, Latches and the Sethal Control Protocol). -/

namespace Sys2Proof.Machine

/-- A word is written to MBX_OUT_DATA (R64, R68). -/
def execMbxOutDataWrite (p : Pf) (w : Word) (s : State) : Host.Outcome State Fault Refusal :=
  act (write4 p 0x100 w.toNat) s

/-- MBX_IN_DATA is read (R64, R69). -/
def execMbxInDataRead (p : Pf) (s : State) : Host.Outcome State Fault Refusal :=
  act (fun s => answer (read4 p 0x108 s)) s

/-- MBX_CTL is written with RESET = 1 and its other fields as they stand (R78). -/
def execMbxCtlReset (p : Pf) (s : State) : Host.Outcome State Fault Refusal :=
  act (fun s => write4 p 0x110 (ctlValue s p + 1) s) s

/-- MBX_CTL is written with a new SPILL_CONS and its other fields as they stand (R71, R73). -/
def execSpillConsWrite (p : Pf) (v : Byte) (s : State) : Host.Outcome State Fault Refusal :=
  act (fun s => write4 p 0x110 (ctlValue s p % 2 ^ 24 + v.toNat * 2 ^ 24) s) s

/-- A write at any offset and width (R17, R537). -/
def execRegisterWrite (p : Pf) (off size v : Nat) (s : State) : Host.Outcome State Fault Refusal :=
  act (windowWrite p off size v) s

/-- The PF of an agent number, for agents that read through a device window. -/
def agentPf (a : Nat) : Option Pf := if a = 1 then some .port0 else if a = 2 then some .port1 else none

/-- A latch is read by an agent: a PF through its window, gated or not (R82), a core or the corridor agent
internally. -/
def latchReadBy (a n : Nat) (s : State) : State :=
  if a = 0 ∨ 20 < a ∨ 15 < n then s
  else match agentPf a with
    | some p => answer (read4 p (0x200 + 4 * n) s)
    | none => answer (readLatch a n s)

def execLatchRead (a n : Nat) (s : State) : Host.Outcome State Fault Refusal := act (latchReadBy a n) s

/-- A latch is written by an agent (R81). -/
def latchWriteBy (a n : Nat) (v : Word) (s : State) : State :=
  if a = 0 ∨ 20 < a ∨ 15 < n then s
  else match agentPf a with
    | some p => write4 p (0x200 + 4 * n) v.toNat s
    | none => writeLatch a n v s

def execLatchWrite (a n : Nat) (v : Word) (s : State) : Host.Outcome State Fault Refusal :=
  act (latchWriteBy a n v) s

/-- One or two bytes of a latch are read: nothing is claimed (R540). -/
def execLatchInspectRead (p : Pf) (n off size : Nat) (s : State) : Host.Outcome State Fault Refusal :=
  act (fun s => if n ≤ 15 ∧ off + size ≤ 4 ∧ (size = 1 ∨ size = 2)
                then answer (windowRead p (0x200 + 4 * n + off) size s) else s) s

/-- NOTICE_n_DATA is read (R83). -/
def execNoticeDataRead (p : Pf) (n : Nat) (s : State) : Host.Outcome State Fault Refusal :=
  act (fun s => if n ≤ 7 then answer (read4 p (0x300 + 8 * n) s) else s) s

/-- A 64-bit read of a notice board (R537). -/
def execNotice64Read (p : Pf) (n : Nat) (s : State) : Host.Outcome State Fault Refusal :=
  act (fun s => if n ≤ 7 then answer (windowRead p (0x300 + 8 * n) 8 s) else s) s

/-- FRAME_COUNT_LO is read (R44). -/
def execFrameCountLoRead (p : Pf) (s : State) : Host.Outcome State Fault Refusal :=
  act (fun s => answer (read4 p 0x10 s)) s

/-- The counter is read whole (R45). -/
def execFrameCount64Read (p : Pf) (s : State) : Host.Outcome State Fault Refusal :=
  act (fun s => answer (windowRead p 0x10 8 s)) s

/-- A read of a gated register other than a latch (R436); where nothing is gated the row does not occur. -/
def gatedReadOf (p : Pf) (off size : Nat) (s : State) : State :=
  if gated s ∧ (gatedArea (off / 4 * 4)).isSome ∧ gatedArea (off / 4 * 4) ≠ some 3 then
    answer (windowRead p off size s)
  else s

def execGatedRead (p : Pf) (off size : Nat) (s : State) : Host.Outcome State Fault Refusal :=
  act (gatedReadOf p off size) s

/-- ECHO returns its payload (R90). -/
def execEcho (s : State) : Host.Outcome State Fault Refusal :=
  act (scp 0x01 (Form.plain (List.range 16) false) (fun _ => none)
    (fun r => replyOk r ((r.words.tail).map (·.toNat)))) s

/-- The requests outstanding beside the one just taken up: taken up and not answered, or accepted and waiting, by
their tags (R84). -/
def tagsOut (s : State) : List Nat := s.mbx.outst.map (·.tag) ++ s.mbx.outQ.map fun p => Posted.tag p

/-- Word `i` of the tag map: one bit per outstanding tag (R91). -/
def tagMap (tags : List Nat) (i : Nat) : Nat :=
  ((List.range 32).filter fun b => tags.contains (32 * i + b)).foldl (fun n b => n + 2 ^ b) 0

/-- STATE of STATUS_GET word 0 (R91); the cellar comes before the read-only state. -/
def stateCode (s : State) : Nat := if s.fw.cellar then 1 else if readOnlyState s then 2 else 0

/-- FW_VERSION of the running image; in the cellar no image runs and the spec gives no value: 0 (DESIGN CHOICE,
log 101). -/
def runningVersion (s : State) : Nat :=
  match s.fw.image with
  | some i => i.version
  | none => 0

/-- The payload of STATUS_GET to the request with tag `own` (R91). -/
def statusWords (own : Nat) (s : State) : List Nat :=
  [stateCode s + holder s 0 * 2 ^ 8 + min (tagsOut s).length 255 * 2 ^ 16,
   s.frame.counter % 2 ^ 32, s.frame.counter / 2 ^ 32,
   s.mbx.hostEpoch.toNat + s.mbx.devEpoch.toNat * 2 ^ 16,
   runningVersion s, s.mbx.inDropped] ++
  (List.range 8).map (tagMap ((tagsOut s).filter fun t => decide (t ≠ own))) ++
  [s.mbx.backlog.length + s.mbx.dupCount * 2 ^ 16]

/-- STATUS_GET (R91). -/
def execStatusGet (s : State) : Host.Outcome State Fault Refusal :=
  act (scp 0x02 (Form.plain [0] false) (fun _ => none) (fun r s => replyOk r (statusWords r.tag s) s)) s

end Sys2Proof.Machine
end

