-- ==== Sys2Proof/Machine/Frame.lean ====
section
/-! DEFINITION. The frame tick: the counter, shelf time, SYNC_IN and the planner lanes' slips (chapter The
Frame Tick). -/

namespace Sys2Proof.Machine

/-- The latency of the frame pulse in the 20 receiving domains, in hall cycles (R39). -/
def pulseLatency : List (String × Nat) :=
  [("HALL", 0), ("CTRL", 6), ("PLACE", 6), ("PORCH", 12), ("LDPC", 12), ("CRYPTO", 12), ("DRAM_CH_0", 18),
   ("DRAM_CH_1", 18), ("DRAM_CH_2", 18), ("DRAM_CH_3", 18), ("DRAM_CH_4", 18), ("DRAM_CH_5", 18),
   ("Flash group 1", 24), ("Flash group 2", 24), ("Flash group 3", 24), ("Flash group 4", 24), ("JOURNAL", 24),
   ("MGMT", 30), ("CORRIDOR", 36), ("SENSE", 60)]

def updFrame (f : FrameSt → FrameSt) (s : State) : State := { s with frame := f s.frame }

def updShelf (f : Shelf → Shelf) : State → State := updFrame fun fr => { fr with shelf := f fr.shelf }

/-! ### The counter (R41, R42, R49) -/

/-- The pulse: the first after a cold start begins frame 0 and is no increment (R41). -/
def increment (s : State) : State :=
  if s.frame.started then
    updFrame (fun f => { f with counter := (f.counter + 1) % 2 ^ 64, elapsed := f.elapsed + 1 }) s
  else updFrame (fun f => { f with started := true, counter := 0, elapsed := 0 }) s

/-- The forward step due at this boundary (R49): the counter takes the count received where that is ahead. -/
def shelfStep (s : State) : State :=
  match s.frame.shelf.stepTo with
  | none => s
  | some t =>
    let s' := updShelf (fun h => { h with stepTo := none }) s
    if t ≤ s.frame.counter then s'
    else
      recEvent 0x04 (updRec (fun r => { r with steps := sat16 (r.steps + 1) })
        (updFrame (fun f => { f with counter := t % 2 ^ 64, steps := f.steps + 1,
                                     stepFrames := f.stepFrames + (t - f.counter) }) s'))

/-! ### Shelf time (R49 to R54) -/

/-- The unit is a non-master member of a chain. -/
def Shelf.follower (h : Shelf) : Bool := decide (h.pos ≠ 0) && decide (h.pos ≠ 0xFF)

/-- The phase bound of a unit in lock, in hall cycles (R52): 64 and 8 per hop. -/
def lockBound (pos : Nat) : Nat := 64 + 8 * pos

/-- A frame's phase error is measured and the frame is trimmed (R52); without its upstream link the unit
holds its last trim (R53). The law of the trim is free within one cycle (log 3). -/
def trackPhase (phase : Int) (s : State) : State :=
  let h := s.frame.shelf
  if h.follower && h.upLink then
    let ok := decide (phase.natAbs ≤ lockBound h.pos)
    let (t, s) := drawInt (-1) 1 s
    updShelf (fun h => { h with
      phase := phase
      trim := t
      inBound := if ok then h.inBound + 1 else 0
      lock := if h.lock = .locked ∧ !ok then .acquiring else h.lock
      phaseMax := if h.lock = .locked ∧ ok then max h.phaseMax phase.natAbs else h.phaseMax }) s
  else if h.pos = 0 ∧ h.sync = .tracking then
    let (t, s) := drawInt (-1) 1 s
    updShelf (fun h => { h with trim := t }) s
  else s

/-- 1,000 consecutive frames within the bound qualify the lock (R53). -/
def lockQualify (s : State) : State :=
  let h := s.frame.shelf
  when (h.follower && h.upLink && decide (h.lock ≠ .locked) && decide (1000 ≤ h.inBound))
    (updShelf fun h => { h with lock := .locked }) s

/-- 1,000 frames after its upstream link went down the unit reports holdover (R53). -/
def holdover (s : State) : State :=
  match s.frame.shelf.downAt with
  | none => s
  | some a =>
    when (fired a 1000 (clk s)) (updShelf fun h => { h with lock := .holdover, downAt := none, inBound := 0 }) s

/-- No SYNC_IN pulse for 1,500,000 frames (R54). -/
def syncTimeout (s : State) : State :=
  let h := s.frame.shelf
  when (decide (h.sync = .tracking) && fired h.syncFrom 1500000 (clk s))
    (updShelf fun h => { h with sync := .missing }) s

/-- A SYNC_IN pulse on the chain master with SYNC_IN enabled: it adjusts the rate; after a miss two pulses
500,000 frames apart, within 50, resume it (R54). -/
def syncPulse (s : State) : State :=
  let h := s.frame.shelf
  if h.pos ≠ 0 ∨ !h.syncEn then s
  else
    let c := clk s
    let near := match h.syncLast with
      | some l => decide (c - l ≤ 500050) && decide (499950 ≤ c - l)
      | none => false
    let s := updShelf (fun h => { h with syncLast := some c })
      (when (decide (h.sync = .tracking)) (noteTie h.syncFrom 1500000) s)
    if h.sync = .missing ∧ !near then s
    else
      let (t, s) := drawInt (-1) 1 s
      updShelf (fun h => { h with sync := .tracking, syncFrom := c, trim := t }) s

/-- A corridor link comes up: the counts are exchanged, and a lower count steps forward at the next boundary
(R49). A follower whose upstream link returns qualifies its lock anew. -/
def linkUp (up : Bool) (count : Nat) (s : State) : State :=
  if !booted s then s
  else
    let s := send (.corridor (!up) (.count (now s))) s
    let s := match s.frame.shelf.downAt with
      | some a => when up (noteTie a 1000) s
      | none => s
    let s := updShelf (fun h => { h with
      upLink := h.upLink || up
      downLink := h.downLink || !up
      downAt := if up then none else h.downAt
      inBound := if up then 0 else h.inBound
      lock := if up ∧ h.follower then .acquiring else h.lock }) s
    when (decide (now s < count))
      (updShelf fun h => { h with stepTo := some (max count (h.stepTo.getD 0)) }) s

/-- A corridor link goes down; a follower keeps its count and holds its last trim (R53). -/
def linkDown (up : Bool) (s : State) : State :=
  updShelf (fun h => { h with
    upLink := h.upLink && !up
    downLink := h.downLink && up
    downAt := if up ∧ h.upLink ∧ h.follower then some (clk s) else h.downAt }) s

/-! ### Lanes (R55 to R58) -/

def laneOf (s : State) (l : Nat) : Lane := tabGetD s.frame.lanes l Lane.reset

def setLane (l : Nat) (a : Lane) : State → State := updFrame fun f => { f with lanes := tabSet f.lanes l a }

/-- The lane that plans a die (R55). -/
def laneOfDie (die : Nat) : Nat := die / 64

/-- Lane `l` misses the commit point (R55): the slip and its run are counted. One that has kept slipping through its
resets for more than 1,000 frames is recorded once, as a count of its own (R57, log 103). -/
def laneSlip (l : Nat) (s : State) : State :=
  let a := laneOf s l
  let from_ := a.since.getD (clk s)
  let bad := a.fault || fired from_ 1000 (clk s)
  let s := setLane l { a with
    slips := sat32 (a.slips + 1), run := a.run + 1, slipped := true, since := some from_, fault := bad } s
  let s := updFrame (fun f => { f with
    laneSlips := f.laneSlips + 1, maxRun := max f.maxRun (a.run + 1), laneFaults := f.laneFaults + flag (bad && !a.fault) 1 }) s
  updRec (fun r => { r with laneSlips := sat32 (r.laneSlips + 1), maxRun := sat16 (max r.maxRun (a.run + 1)) }) s

/-- Lane `l` commits its plan: its run of slips ends, whatever resets it has come through. -/
def laneCommit (l : Nat) (s : State) : State :=
  let a := laneOf s l
  when (decide (0 < a.run) || a.slipped || a.since.isSome)
    (setLane l { a with run := 0, slipped := false, since := none, fault := false }) s

/-- A frame with at least one lane slip (R55). -/
def frameSlip (s : State) : State :=
  updRec (fun r => { r with frameSlips := sat32 (r.frameSlips + 1) })
    (updFrame (fun f => { f with frameSlips := f.frameSlips + 1, lastSlip := f.counter,
                                 minuteSlips := f.minuteSlips + 1 }) s)

/-- At the commit point the lanes of `late` slip and the others commit; a lane being rebuilt does neither
(R55, R57). -/
def commitLanes (late : List Nat) (s : State) : State :=
  let slips := ((List.range 64).filter fun l => late.contains l && decide ((laneOf s l).rebuild = 0))
  let s := forEach ((List.range 64).filter fun l => !late.contains l && decide ((laneOf s l).rebuild = 0)) laneCommit s
  let s := forEach slips laneSlip s
  when (!slips.isEmpty) frameSlip s

/-- A lane that has slipped in 16 consecutive frames is reset and rebuilt within 2 frames (R57); how many
frames it takes, 1 or 2, is free (log 3). -/
def resetLane (l : Nat) (s : State) : State :=
  let a := laneOf s l
  if a.run < 16 then s
  else
    let (k, s) := drawNat s
    let s := setLane l { a with run := 0, slipped := false, rebuild := 1 + k % 2 } s
    updRec (fun r => { r with laneResets := sat16 (r.laneResets + 1) })
      (updFrame (fun f => { f with laneResets := f.laneResets + 1 }) s)

/-- A frame of a lane's rebuilding passes. -/
def rebuildLanes (s : State) : State :=
  updFrame (fun f => { f with lanes := tabMap (fun _ a => { a with rebuild := a.rebuild - 1 }) f.lanes }) s

/-! ### Rows -/

def execCorridorLinkUp (up : Bool) (count : Nat) (s : State) : Host.Outcome State Fault Refusal :=
  act (linkUp up count) s

def execCorridorLinkDown (up : Bool) (s : State) : Host.Outcome State Fault Refusal := act (linkDown up) s

def execHoldoverReport (s : State) : Host.Outcome State Fault Refusal := act holdover s

def execLockQualified (s : State) : Host.Outcome State Fault Refusal := act lockQualify s

def execSyncInPulse (s : State) : Host.Outcome State Fault Refusal := act syncPulse s

def execSyncInMissing (s : State) : Host.Outcome State Fault Refusal := act syncTimeout s

/-- The floor planner closes its input window at hall cycle 1,500: the plan of this frame is made from the requests and
the die status that have reached it by then (R46). -/
def execPlanInputCutoff (s : State) : Host.Outcome State Fault Refusal :=
  act (fun s =>
    { s with
      frame := { s.frame with inputOpen := false }
      flash := { s.flash with seen := if s.frame.inputOpen then some s.flash.dies else s.flash.seen } }) s

/-! ### Log 0xC3 (R59) -/

def lockCode : LockState → Nat
  | .master => 0
  | .locked => 1
  | .acquiring => 2
  | .holdover => 3

def syncCode : SyncState → Nat
  | .disabled => 0
  | .tracking => 1
  | .missing => 2

/-- Log 0xC3, 512 bytes. -/
def logFrame (s : State) : List Byte :=
  let f := s.frame
  let h := f.shelf
  let out := decide (h.pos = 0xFF)
  le f.counter 8 ++ le f.elapsed 8 ++ le f.frameSlips 8 ++ le f.laneSlips 8 ++ le f.laneResets 8 ++
  le f.lastSlip 8 ++ le f.maxRun 4 ++ le (sat32 f.tieWins) 4 ++ le f.steps 8 ++ le f.stepFrames 8 ++
  [BitVec.ofNat 8 h.pos, BitVec.ofNat 8 (if out then 0 else lockCode h.lock), BitVec.ofNat 8 (syncCode h.sync), 0] ++
  le (if out then 0 else twos 32 h.phase) 4 ++ le (if out then 0 else h.phaseMax) 4 ++
  le (if out then 0 else twos 32 h.trim) 4 ++ zeros 8 ++
  ((List.range 64).map fun l => le (laneOf s l).slips 4).flatten ++ zeros 160

end Sys2Proof.Machine
end

