-- ==== Sys2Proof/Machine/PowerOps.lean ====
section
/-! DEFINITION. What other families need of the power states: waking (R432, R433). -/

namespace Sys2Proof.Machine

def updPower (f : PowerSt → PowerSt) (s : State) : State := { s with power := f s.power }

/-- The PMBus writes of a PS4 entry (R519): the core rail's VOUT_COMMAND, then OPERATION of three rails. -/
def railWrites (s : State) : State :=
  sends [.pmbus 0x40 0x21, .pmbus 0x41 0x01, .pmbus 0x42 0x01, .pmbus 0x43 0x01] s

/-- An exit from PS4 reverses them. -/
def railRestores (s : State) : State :=
  sends [.pmbus 0x43 0x01, .pmbus 0x42 0x01, .pmbus 0x41 0x01, .pmbus 0x40 0x21] s

/-- A wake event: in PS3 or PS4 the exit begins from this frame; during an entry the wake is counted and the
entry runs to its end (R432, R433). -/
def wake (s : State) : State :=
  match s.power.entry with
  | some e => updPower (fun p => { p with entry := some { e with wake := true }, wakesInEntry := p.wakesInEntry + 1 }) s
  | none =>
    if 3 ≤ s.power.ps then
      updPower (fun p => { p with ps := p.lastOp, exitFrom := some (now s + p.aonCount) })
        (if s.power.ps = 4 then railRestores s else s)
    else s

end Sys2Proof.Machine
end

