-- ==== Sys2Proof/Machine/NsOps.lean ====
section
/-! DEFINITION. Namespaces and zones: formats, geometry, lookup, and the active-zone resource (chapter Zoned
and Conventional Namespaces). -/

namespace Sys2Proof.Machine

def updZone (f : ZoneSt → ZoneSt) (s : State) : State := { s with zone := f s.zone }

def updMedia (f : MediaSt → MediaSt) (s : State) : State := { s with media := f s.media }

/-- Data bytes of a logical block, and its metadata bytes (R128). -/
def lbaData (lbaf : Nat) : Nat := if lbaf = 3 ∨ lbaf = 4 then 512 else 4096
def lbaMeta (lbaf : Nat) : Nat := if lbaf = 1 ∨ lbaf = 4 then 8 else if lbaf = 2 then 16 else 0

/-- Logical blocks of a 4 KiB unit. -/
def blocksPerUnit (n : Ns) : Nat := 4096 / lbaData n.lbaf

/-- Units of the namespace. -/
def nsUnits (n : Ns) : Nat := (n.nsze + blocksPerUnit n - 1) / blocksPerUnit n

/-- Units the read cache can hold: what the landing buffer, the tables and the page map leave of DRAM. -/
def cacheUnits (s : State) : Nat :=
  let dram := (s.fw.cfg.dram.map fun d => if d.1 then d.2.2.1 else 0).sum
  let conv := (s.zone.nss.map fun p => if p.2.zoned then 0 else nsUnits p.2).sum
  (dram - s.fw.cfg.lbSize - 8) * 2 ^ 18 - conv / 512

def nsAt (s : State) (x : Nat) : Option Ns := tabGet s.zone.nss x

def updNs (x : Nat) (f : Ns → Ns) : State → State := updZone fun z => { z with nss := tabUpd z.nss x f }

/-- The namespace that NSID names on a function: its index and record. -/
def nsOf (s : State) (fn nsid : Nat) : Option (Nat × Ns) :=
  s.zone.nss.find? fun p => decide (p.2.owner = fn) && decide (p.2.nsid = nsid) && p.2.attached

/-- As `nsOf`, attached or not. -/
def nsAny (s : State) (fn nsid : Nat) : Option (Nat × Ns) :=
  s.zone.nss.find? fun p => decide (p.2.owner = fn) && decide (p.2.nsid = nsid)

/-- The namespaces of a function. -/
def nssOf (s : State) (fn : Nat) : List (Nat × Ns) := s.zone.nss.filter fun p => decide (p.2.owner = fn)

/-! ### Zones (R130) -/

/-- Units of a zone, and those that can be written. -/
def zoneUnits (n : Ns) : Nat := 2 ^ (n.zexp - 12)
def zoneCap (n : Ns) : Nat := zoneUnits n / n.width * (n.width - 1)

/-- Units of a zone row: the data slots of one stripe row are taken from the class at dispatch; the zone of
a unit of the namespace. -/
def zoneOfUnit (n : Ns) (u : Nat) : Nat := n.zbase + u / zoneUnits n

/-- A zone that has never been written. -/
def Zone.fresh (x i : Nat) : Zone :=
  { nsx := x, idx := i, st := .empty, zfc := false, fzr := false, bind := none, wp := 0, ap := 0,
    wpFlash := 0, firstWrite := none, pred := none, exts := [], blocks := [], claims := [], curGroup := none, shelf := none, drain := none,
    finishing := false }

/-- The zone with a device zone number, where a namespace holds it. -/
def zoneAt (s : State) (z : Nat) : Option Zone :=
  match tabGet s.zone.zones z with
  | some r => some r
  | none =>
    (s.zone.nss.find? fun p => decide (p.2.zbase ≤ z) && decide (z < p.2.zbase + p.2.zcount)).map
      fun p => Zone.fresh p.1 (z - p.2.zbase)

def setZone (z : Nat) (r : Zone) : State → State := updZone fun t => { t with zones := tabSet t.zones z r }

def updZoneRec (z : Nat) (f : Zone → Zone) (s : State) : State :=
  match zoneAt s z with
  | some r => setZone z (f r) s
  | none => s

def ZState.isOpen : ZState → Bool
  | .implicit => true
  | .explicit => true
  | _ => false

/-- Opened or Closed: the zone holds an active-zone resource (R133). -/
def ZState.isActive : ZState → Bool
  | .implicit => true
  | .explicit => true
  | .closed => true
  | _ => false

/-- Zones of a function that are active now. -/
def activeZones (s : State) (fn : Nat) : Nat :=
  (s.zone.zones.filter fun p => p.2.st.isActive &&
    match nsAt s p.2.nsx with
    | some n => decide (n.owner = fn)
    | none => false).length

/-- Active-zone resources that running Zone Management Sends hold for zones on their way to Full or Empty (R135). -/
def zonesSending (s : State) (fn : Nat) : Nat :=
  ((s.host.items.filter fun it => decide (it.id.fn = fn) && decide (it.opc = 0x79)).map fun it =>
    it.count + (it.resets.filter fun r => r.st.isActive).length).sum

/-- Active-zone resources in use, those given back in this frame included (R135). -/
def zonesUsed (s : State) (fn : Nat) : Nat := activeZones s fn + zonesSending s fn + tabGetD s.zone.freed fn 0

/-- The function's allocation (R133). -/
def zoneAlloc (s : State) (fn : Nat) : Nat :=
  match ctlOf s fn with
  | some c => c.azones
  | none => 0

/-- A zone's resource is given back: it serves starts from the next frame (R135). The allocation of a PF that
holds more zones than its PF_AZ falls with it (R416). -/
def giveBack (fn : Nat) (s : State) : State :=
  let low := pfAz s.fw.cfg fn
  let s := when (decide (2048 ≤ fn)) (updCtl fn fun c => { c with azones := if low < c.azones then c.azones - 1 else c.azones }) s
  updZone (fun z => { z with freed := tabSet z.freed fn (tabGetD z.freed fn 0 + 1) }) s

/-- The resources that a Zone Management Send holds are given back with its completion (R135). -/
def giveBackHeld (it : Item) (s : State) : State :=
  if it.opc = 0x79 then
    forEach (List.range (it.count + (it.resets.filter fun r => r.st.isActive).length)) (fun _ => giveBack it.id.fn) s
  else s

/-- Owner of a namespace index. -/
def ownerOf (s : State) (x : Nat) : Nat :=
  match nsAt s x with
  | some n => n.owner
  | none => 0

/-- Move a zone to a state; leaving the active states gives its resource back. -/
def moveZone (z : Nat) (st : ZState) (s : State) : State :=
  match zoneAt s z with
  | none => s
  | some r =>
    let s := setZone z { r with st := st } s
    when (r.st.isActive && !st.isActive) (giveBack (ownerOf s r.nsx)) s

/-- ZSLBA of a zone record, in logical blocks. -/
def zslba (n : Ns) (r : Zone) : Nat := r.idx * zoneUnits n

/-! ### Command fields -/

/-- SLBA and the number of logical blocks of an I/O command. -/
def Sqe.slba (e : Sqe) : Nat := e.cdw10.toNat + 2 ^ 32 * e.cdw11.toNat
def Sqe.nlb (e : Sqe) : Nat := bits e.cdw12.toNat 15 0 + 1

/-- First and last unit the blocks of a command touch. -/
def firstUnit (n : Ns) (slba : Nat) : Nat := slba / blocksPerUnit n
def unitCount (n : Ns) (slba nlb : Nat) : Nat := (slba + nlb - 1) / blocksPerUnit n - slba / blocksPerUnit n + 1

/-- Host data bytes of a Read, Verify, Write, Write Zeroes or Zone Append; other commands move none
(R341). -/
def dataBytes (s : State) (fn : Nat) (e : Sqe) : Nat :=
  if [0x01, 0x02, 0x08, 0x0C, 0x7D].contains e.opc.toNat then
    match nsOf s fn e.nsid.toNat with
    | some (_, n) => e.nlb * lbaData n.lbaf
    | none => 0
  else 0

/-! ### The landing buffer (R448) -/

/-- Bytes of landed units. -/
def landedBytes (s : State) : Nat := 4096 * s.media.landing.length

/-- L in bytes: in write-through the whole region of R32 may be used (R449). -/
def landingLimit (s : State) : Nat :=
  (if s.media.writeThrough then s.fw.cfg.lbSize else s.media.lbSize) * 2 ^ 30

end Sys2Proof.Machine
end

