-- ==== Sys2Proof/Machine/Tokens.lean ====
section
/-! DEFINITION. Token buckets: units, limits, surplus and charges (chapter Tenant Instances, R339 to R343).
A bucket counts 1/30,000,000 token, so that every refill of R340 is a whole number after the multipliers of R342, R423
and R464; DIE tokens are thousandths of a die-frame. -/

namespace Sys2Proof.Machine

/-- The share kinds of R339. -/
inductive Kind | read | write | cmd | die
deriving DecidableEq, Repr

def Buckets.get (b : Buckets) : Kind → Int
  | .read => b.read
  | .write => b.write
  | .cmd => b.cmd
  | .die => b.die

def Buckets.put (b : Buckets) (k : Kind) (v : Int) : Buckets :=
  match k with
  | .read => { b with read := v }
  | .write => { b with write := v }
  | .cmd => { b with cmd := v }
  | .die => { b with die := v }

def Buckets.add (b : Buckets) (k : Kind) (v : Int) : Buckets := b.put k (b.get k + v)

def Shares.get (h : Shares) : Kind → Rate
  | .read => h.read
  | .write => h.write
  | .cmd => h.cmd
  | .die => h.die

/-- One token of a kind, in bucket units. -/
def tokenUnit : Nat := 30000000

/-- One die-frame in DIE bucket units. -/
def dieFrame : Nat := 1000 * tokenUnit

/-- A rate or cap per frame in bucket units (R339, R340). -/
def perFrame (k : Kind) (r : Nat) : Nat :=
  match k with
  | .read => r * 60000
  | .write => r * 60000
  | .cmd => r * 60
  | .die => r * tokenUnit

/-- No reservation, no cap, weight 1: the PF default of R412. -/
def sharesDefault : Shares :=
  { read := { rate := 0, cap := 0xFFFFFFFF }, write := { rate := 0, cap := 0xFFFFFFFF },
    cmd := { rate := 0, cap := 0xFFFFFFFF }, die := { rate := 0, cap := 0xFFFFFFFF }, weight := 1 }

def sharesOf (s : State) (fn : Nat) : Shares := tabGetD s.inst.shares fn sharesDefault

def bucketsOf (s : State) (fn : Nat) : Buckets := tabGetD s.inst.buckets fn Buckets.reset

def updInst (f : InstSt → InstSt) (s : State) : State := { s with inst := f s.inst }

def setBuckets (fn : Nat) (b : Buckets) : State → State :=
  updInst fun i => { i with buckets := tabSet i.buckets fn b }

def updHolder (fn : Nat) (f : Holder → Holder) : State → State :=
  updInst fun i => { i with holders := tabUpd i.holders fn f }

/-- The state factor of R423, in twentieths. -/
def psFactor (s : State) : Nat := if s.power.ps = 1 then 12 else if s.power.ps = 2 then 7 else 20

/-- The surplus quantum of a holder (R340): WEIGHT × 256 bytes, WEIGHT ÷ 64 commands, WEIGHT ÷ 16
die-frames. -/
def quantum (k : Kind) (w : Nat) : Nat :=
  match k with
  | .read => w * 256 * tokenUnit
  | .write => w * 256 * tokenUnit
  | .cmd => w * tokenUnit / 64
  | .die => w * dieFrame / 16

/-- The holder's refill and surplus of this frame have reached its cap (R340). -/
def capReached (s : State) (fn : Nat) (k : Kind) : Bool :=
  let c := ((sharesOf s fn).get k).cap
  match tabGet s.inst.holders fn with
  | some h => decide (c ≠ 0xFFFFFFFF) && decide ((perFrame k c : Int) ≤ h.gained.get k)
  | none => false

/-- Draw `need` units of surplus by rounds of the holder's quantum (R340); none if the pool or the cap does
not allow it. -/
def drawSurplus (fn : Nat) (k : Kind) (need : Int) (s : State) : Option State :=
  if need ≤ 0 then some s
  else if s.inst.surplus.get k < need ∨ capReached s fn k then none
  else
    let q : Int := max 1 (quantum k (sharesOf s fn).weight)
    let s := updInst (fun i => { i with surplus := i.surplus.add k (-need) }) s
    let s := setBuckets fn ((bucketsOf s fn).add k need) s
    some (updHolder fn (fun h =>
      let d := h.deficit.get k
      let rounds : Int := if need ≤ d then 0 else (need - d + q - 1) / q
      { h with gained := h.gained.add k need, deficit := h.deficit.put k (d + rounds * q - need) }) s)

/-- Add a charge to the frame in progress of the 64-frame window (R343). -/
def noteCharge (k : Kind) (v : Nat) (h : Holder) : Holder :=
  match h.window with
  | [] => h
  | (r, w, c, d, g) :: t =>
    { h with window := (match k with
        | .read => (r + v, w, c, d, g)
        | .write => (r, w + v, c, d, g)
        | .cmd => (r, w, c + v, d, g)
        | .die => (r, w, c, d + v, g)) :: t }

/-- Charge a holder's bucket; the charge may leave it negative (R341). -/
def charge (fn : Nat) (k : Kind) (v : Nat) (s : State) : State :=
  updHolder fn (noteCharge k v) (setBuckets fn ((bucketsOf s fn).add k (-(v : Int))) s)

/-- Charge die-frames to an owner and to its DIE_TIME, in 1/256 die-frame (R342, R356). -/
def chargeDie (fn frames : Nat) (s : State) : State :=
  meter fn (fun m => { m with dieTime := m.dieTime + 256 * frames }) (charge fn .die (frames * dieFrame) s)

/-- The holder waited for tokens in this frame (THROTTLED of R356). -/
def noteWait (fn : Nat) : State → State := updHolder fn fun h => { h with waited := true }

/-- The kind that pays for an I/O command's data (R339). -/
def dataKind (opc : Nat) : Option Kind :=
  if isReadOpc opc then some .read else if isWriteOpc opc then some .write else none

/-- Take the tokens of an I/O command's fetch (R341): one CMD token and the whole data length; none if it may
not be fetched. A write is not fetched while its owner's DIE bucket is negative (R342). -/
def takeTokens (fn : Nat) (e : Sqe) (s : State) : Option State :=
  let o := e.opc.toNat
  if isWriteOpc o ∧ (bucketsOf s fn).die < 0 then none
  else
    match drawSurplus fn .cmd ((tokenUnit : Int) - (bucketsOf s fn).cmd) s with
    | none => none
    | some s1 =>
      match dataKind o with
      | none => some (charge fn .cmd tokenUnit s1)
      | some k =>
        match drawSurplus fn k (1 - (bucketsOf s1 fn).get k) s1 with
        | none => none
        | some s2 => some (charge fn k (dataBytes s fn e * tokenUnit) (charge fn .cmd tokenUnit s2))

end Sys2Proof.Machine
end

