-- ==== Sys2Proof/Machine/Queues.lean ====
section
/-! DEFINITION. Doorbells, fetch, queue creation, the features kept per function, asynchronous event
requests and the commands a function does not support (chapter Host Queues and NVMe Commands). -/

namespace Sys2Proof.Machine

/-! ### Visibility (R92, R329) -/

def portRec (s : State) (p : Nat) : Port := if p = 0 then s.host.port0 else s.host.port1

/-- VF number of an instance within its port, from 0. -/
def vfIndex (s : State) (n : Nat) : Nat := if n < s.host.port0.totalVfs then n else n - s.host.port0.totalVfs

/-- Function number of a function relative to its PF: 0, or that of its VF from First VF Offset and VF Stride
(R92). -/
def functionNumber (s : State) (fn : Nat) : Nat :=
  let p := portRec s (portOf s fn)
  if 2048 ≤ fn then 0 else p.firstVf + vfIndex s fn * p.vfStride

/-- The function can be reached: its port's link is up and, for a VF, VF Enable covers it. -/
def visible (s : State) (fn : Nat) : Bool :=
  let p := portRec s (portOf s fn)
  p.link && (decide (2048 ≤ fn) || (p.vfEnable && decide (vfIndex s fn < p.numVfs)))

/-! ### Doorbells (R98) -/

/-- A tail doorbell write: entries become available, or the write is ignored and reported. In PS3 and PS4,
and during an entry, it is a wake event (R432, R433). -/
def tailDoorbell (fn sq tail : Nat) (s : State) : State :=
  match ctlOf s fn with
  | none => s
  | some c =>
    if !c.en then s
    else
      match tabGet c.sqs sq with
      | none => notifyDoorbell fn (wake s)
      | some q =>
        if q.size ≤ tail then notifyDoorbell fn (wake s)
        else
          let k := (tail + q.size - q.tail) % q.size
          let q' := { q with tail := tail, bells := q.bells ++ List.replicate k (clk s) }
          wake (updCtl fn (fun c => { c with sqs := tabSet c.sqs sq q' }) s)

/-- Move waiting completions into the free entries of a completion queue. -/
def fillCq (fn cq : Nat) : List Cqe → State → State
  | [], s => s
  | e :: rest, s => fillCq fn cq rest (postCqe fn cq e s)

/-- A head doorbell write: entries are freed, or the write is ignored and reported. -/
def headDoorbell (fn cq head : Nat) (s : State) : State :=
  match ctlOf s fn with
  | none => s
  | some c =>
    if !c.en then s
    else
      match tabGet c.cqs cq with
      | none => notifyDoorbell fn s
      | some q =>
        let k := (head + q.size - q.head) % q.size
        if q.size ≤ head ∨ q.entries.length < k then notifyDoorbell fn s
        else
          let q' := { q with head := head, entries := q.entries.drop k, waiting := [] }
          fillCq fn cq q.waiting (updCtl fn (fun c => { c with cqs := tabSet c.cqs cq q' }) s)

def execSubmissionDoorbellWrite (fn sq tail : Nat) (s : State) : Host.Outcome State Fault Refusal :=
  act (tailDoorbell fn sq tail) s

def execCompletionDoorbellWrite (fn cq head : Nat) (s : State) : Host.Outcome State Fault Refusal :=
  act (headDoorbell fn cq head) s

/-! ### Fetch (R100 to R102) -/

/-- The generation of an owner (R346). -/
def genOf (s : State) (fn : Nat) : Nat := tabGetD s.inst.gens fn 0

/-- The tag table is full: fetch pauses for every function (R100). -/
def tagsFull (s : State) : Bool := decide (1048576 ≤ s.host.items.length)

/-- Nothing device-wide keeps the queue engines from fetching: the hall runs, admission is open, no entry to
PS3 or PS4 and no expired hold pauses fetch (R46, R428, R403). -/
def fetchOpen (s : State) : Bool :=
  hallRuns s && s.frame.admission && s.power.entry.isNone && s.fw.expiryAt.isNone && !tagsFull s

/-- The admin queue's turn comes before an I/O queue's (R101). -/
def adminDue (c : Ctl) : Bool :=
  !c.adminLast &&
  match tabGet c.sqs 0 with
  | some q => !q.bells.isEmpty
  | none => false

/-- A command that a controller reset lets finish internally is still in flight: it precedes every command
the function fetches (R123). -/
def silentLeft (s : State) (fn : Nat) : Bool := s.host.items.any fun it => it.silent && decide (it.id.fn = fn)

/-- A submission queue has an entry to fetch, and the core of its shard runs. -/
def queueReady (s : State) (fn sq : Nat) (q : Sq) : Bool :=
  !q.bells.isEmpty && (decide (sq = 0) || shardRuns s fn sq)

/-- The function has waited for tokens in this frame: it keeps nobody from a turn. -/
def tokensWaited (s : State) (fn : Nat) : Bool :=
  match tabGet s.inst.holders fn with
  | some h => h.waited
  | none => false

/-- The function has an entry it may fetch (R101). -/
def canFetch (s : State) (fn : Nat) (c : Ctl) : Bool :=
  c.en && c.rdy && !c.fetchPaused && !c.closing && !silentLeft s fn && !tokensWaited s fn &&
    c.sqs.any fun p => queueReady s fn p.1 p.2

/-- Turns from the one after `last` to `k`, going round `m` numbers. -/
def turnsTo (m last k : Nat) : Nat := (k + m - (last + 1)) % m

/-- It is the function's turn: in ascending CNTLID, wrapping, no function that may fetch stands between the one
that took the last turn and it (R101). Owner numbers follow one another round as CNTLIDs do. -/
def fnTurn (s : State) (fn : Nat) : Bool :=
  s.host.ctls.all fun p => decide (turnsTo 2050 s.host.lastFn fn ≤ turnsTo 2050 s.host.lastFn p.1) || !canFetch s p.1 p.2

/-- It is the queue's turn: I/O queues with work go round, and the admin queue does not take two turns running while
one of them has work (R101). A function that waits for tokens may try any of its queues. -/
def sqTurn (s : State) (fn : Nat) (c : Ctl) (sq : Nat) : Bool :=
  tokensWaited s fn ||
  c.sqs.all fun p => decide (p.1 = 0) || !queueReady s fn p.1 p.2 ||
    if sq = 0 then !c.adminLast else decide (turnsTo 65536 c.lastSq sq ≤ turnsTo 65536 c.lastSq p.1)

/-- The work item of a fetched entry. -/
def newItem (s : State) (c : Ctl) (fn sq : Nat) (bell : Nat) (e : Sqe) : Item :=
  { id := { fn := fn, sq := sq, cid := e.cid.toNat }, sqe := e, seq := s.host.nextSeq, bell := bell,
    fetched := clk s, gen := genOf s fn, life := if sq = 0 then 0 else 2 ^ c.feats.lifeE, paused := 0,
    phase := .fetched, hold := .none, outcome := none, latchedAt := 0, dw0 := 0, dw1 := 0, unit := 0,
    count := 0, start := 0, waitRec := none, ranges := [], resets := [], doneUnits := [], failed := [], silent := false, held := s.fw.hold.isSome }

/-- Fetch the entry `e` at the head of a submission queue against the function's tokens. A second in-flight
command with the same CID completes with Command ID Conflict (R102). -/
def fetch (fn sq : Nat) (e : Sqe) (s : State) : State :=
  match ctlOf s fn with
  | none => s
  | some c =>
    match tabGet c.sqs sq with
    | none => s
    | some q =>
      match q.bells with
      | [] => s
      | bell :: bells =>
        if !fetchOpen s ∨ !c.en ∨ !c.rdy ∨ c.fetchPaused ∨ c.closing ∨ silentLeft s fn ∨ (sq ≠ 0 ∧ (adminDue c ∨ !shardRuns s fn sq)) ∨
            !fnTurn s fn ∨ !sqTurn s fn c sq then s
        else
          match (if sq = 0 then some s else takeTokens fn e s) with
          | none => noteWait fn s
          | some s =>
            let q' := { q with head := (q.head + 1) % q.size, bells := bells }
            let s := updCtl fn (fun c => { c with
              sqs := tabSet c.sqs sq q', adminLast := decide (sq = 0)
              lastSq := if sq = 0 then c.lastSq else sq }) s
            let it := newItem s c fn sq bell e
            let dup := (findItem s it.id).isSome
            let s := { s with host := { s.host with nextSeq := s.host.nextSeq + 1, lastFn := fn } }
            let s := updItems (fun l => l ++ [it]) s
            when dup (finishBad it.seq stCidConflict) s

def execCommandFetch (fn sq : Nat) (e : Sqe) (s : State) : Host.Outcome State Fault Refusal :=
  act (fetch fn sq e) s

/-! ### Performing an admin command -/

/-- Who may issue an admin command (R103). -/
inductive Access | all | pf | manager
deriving DecidableEq, Repr

/-- The status a function gets for a command it may not issue. -/
def accessFault (s : State) (fn : Nat) : Access → Option Status
  | .all => none
  | .pf => if 2048 ≤ fn then none else some stInvalidOpcode
  | .manager =>
    if fn < 2048 then some stInvalidOpcode
    else if isManager s fn then none
    else some stInvalidField

/-- The admin commands NVMe 2.0 prohibits while a Sanitize runs (R104). -/
def sanitizeProhibits (opc : Nat) : Bool := [0x0D, 0x10, 0x11, 0x15, 0x80, 0x81, 0x82].contains opc

def sanitizing (s : State) : Bool := decide (s.zone.san.st = .running) || decide (s.zone.san.st = .waiting)

/-- The function's instance is being sanitised (R354). -/
def instSanitizing (s : State) (fn : Nat) : Bool :=
  match tabGet s.inst.insts fn with
  | some i => decide (i.st = .sanitising)
  | none => false

/-- Core 0 processes admin commands: it runs, and no flush or activation hold stops it (R38, R124). -/
def adminOpen (s : State) : Bool := hallRuns s && coreRunning s 0

/-- Perform the admin command of work item `id` when its opcode is `opc`: the checks of R103 and R110, then
`body`. A command the activation hold keeps at the porch is not parsed, except Abort and Asynchronous Event
Request (R124). -/
def admin (opc : Nat) (who : Access) (body : Item → State → State) (id : CmdId) (s : State) : State :=
  match findItem s id with
  | none => s
  | some it =>
    if id.sq ≠ 0 ∨ it.opc ≠ opc ∨ it.outcome.isSome ∨ !adminOpen s ∨ (it.held ∧ opc ≠ 0x08 ∧ opc ≠ 0x0C) ∨
        !inTurn s it then s
    else
      let s := takeUp it.seq s
      match accessFault s id.fn who with
      | some st => finishBad it.seq st s
      | none =>
        if it.sqe.fuse ≠ 0 ∨ it.sqe.psdt ≠ 0 then finishBad it.seq stInvalidField s
        else if (sanitizing s ∨ instSanitizing s id.fn) ∧ sanitizeProhibits opc then finishBad it.seq stSanitizeInProgress s
        else body it s

/-- A field of a command dword. -/
def dw (w : Word) (hi lo : Nat) : Nat := bits w.toNat hi lo

/-! ### I/O queues (R97) -/

/-- Load of a control core: the submission queues in its shard. -/
def shardLoad (s : State) (k : Nat) : Nat :=
  (s.host.ctls.map fun p => (p.2.sqs.filter fun q => decide (q.1 ≠ 0) && decide (q.2.shard = k)).length).sum

/-- The running control core with the least load, the lowest number on a tie (R97). -/
def leastLoaded (s : State) : Nat :=
  ((List.range 16).filter (coreRunning s)).foldl
    (fun best k => if !coreRunning s best ∨ shardLoad s k < shardLoad s best then k else best) 0

/-- Create I/O Submission Queue: the checks of R97, the completion queue of NVMe 2.0, and the shard. -/
def createSq (it : Item) (s : State) : State :=
  match ctlOf s it.id.fn with
  | none => s
  | some c =>
    let qid := dw it.sqe.cdw10 15 0
    let qsize := dw it.sqe.cdw10 31 16
    let cq := dw it.sqe.cdw11 31 16
    if qid = 0 ∨ c.qpairs < qid ∨ (tabGet c.sqs qid).isSome then finishBad it.seq (mkStatus 1 0x01 true) s
    else if qsize = 0 then finishBad it.seq (mkStatus 1 0x02 true) s
    else if dw it.sqe.cdw11 0 0 = 0 then finishBad it.seq stInvalidField s
    else if cq = 0 ∨ (tabGet c.cqs cq).isNone then finishBad it.seq (mkStatus 1 0x00 true) s
    else
      let q : Sq := { size := qsize + 1, head := 0, tail := 0, cq := cq, shard := leastLoaded s, bells := [],
                      lastPost := none, lastOrd := none }
      finishOk it.seq (updCtl it.id.fn (fun c => { c with sqs := tabSet c.sqs qid q }) s)

/-- Create I/O Completion Queue: the checks of R97. -/
def createCq (it : Item) (s : State) : State :=
  match ctlOf s it.id.fn with
  | none => s
  | some c =>
    let qid := dw it.sqe.cdw10 15 0
    let qsize := dw it.sqe.cdw10 31 16
    let vector := dw it.sqe.cdw11 31 16
    if qid = 0 ∨ c.qpairs < qid ∨ (tabGet c.cqs qid).isSome then finishBad it.seq (mkStatus 1 0x01 true) s
    else if qsize = 0 then finishBad it.seq (mkStatus 1 0x02 true) s
    else if dw it.sqe.cdw11 0 0 = 0 then finishBad it.seq stInvalidField s
    else if c.msix ≤ vector then finishBad it.seq (mkStatus 1 0x08 true) s
    else
      let q : Cq := { size := qsize + 1, head := 0, tail := 0, vector := vector,
                      ien := decide (dw it.sqe.cdw11 1 1 = 1), entries := [], waiting := [] }
      finishOk it.seq (updCtl it.id.fn (fun c => { c with cqs := tabSet c.cqs qid q }) s)

/-- Commands fetched from a submission queue and not completed. -/
def fetchedFrom (s : State) (fn sq : Nat) : Bool :=
  s.host.items.any fun it => decide (it.id.fn = fn) && decide (it.id.sq = sq)

/-- Delete I/O Submission Queue: unfetched entries are dropped at once, and the queue goes when the commands
fetched from it have completed (R103). -/
def deleteSq (it : Item) (s : State) : State :=
  match ctlOf s it.id.fn with
  | none => s
  | some c =>
    let qid := dw it.sqe.cdw10 15 0
    match (if qid = 0 then none else tabGet c.sqs qid) with
    | none => finishBad it.seq (mkStatus 1 0x01 true) s
    | some q =>
      if fetchedFrom s it.id.fn qid then
        updCtl it.id.fn (fun c => { c with sqs := tabSet c.sqs qid { q with bells := [] } }) s
      else finishOk it.seq (updCtl it.id.fn (fun c => { c with sqs := tabDel c.sqs qid }) s)

/-- Delete I/O Completion Queue: refused while a submission queue uses it (NVMe 2.0). -/
def deleteCq (it : Item) (s : State) : State :=
  match ctlOf s it.id.fn with
  | none => s
  | some c =>
    let qid := dw it.sqe.cdw10 15 0
    if qid = 0 ∨ (tabGet c.cqs qid).isNone then finishBad it.seq (mkStatus 1 0x01 true) s
    else if c.sqs.any fun p => decide (p.2.cq = qid) then finishBad it.seq (mkStatus 1 0x0C true) s
    else finishOk it.seq (updCtl it.id.fn (fun c => { c with cqs := tabDel c.cqs qid }) s)

def execCreateIoSubmissionQueue (id : CmdId) (s : State) : Host.Outcome State Fault Refusal :=
  act (admin 0x01 .all createSq id) s

def execCreateIoCompletionQueue (id : CmdId) (s : State) : Host.Outcome State Fault Refusal :=
  act (admin 0x05 .all createCq id) s

def execDeleteIoSubmissionQueue (id : CmdId) (s : State) : Host.Outcome State Fault Refusal :=
  act (admin 0x00 .all deleteSq id) s

def execDeleteIoCompletionQueue (id : CmdId) (s : State) : Host.Outcome State Fault Refusal :=
  act (admin 0x04 .all deleteCq id) s

/-! ### Set Features (R107) -/

def fidOf (it : Item) : Nat := dw it.sqe.cdw10 7 0

/-- Perform Set Features for one feature identifier; a feature that is not savable refuses the Save bit
(NVMe 2.0). `who` says who may set it; any other function gets Invalid Field (R107). -/
def setFeature (fid : Nat) (mgr : Bool) (body : Item → State → State) (id : CmdId) (s : State) : State :=
  match findItem s id with
  | none => s
  | some it =>
    if fidOf it ≠ fid then s
    else admin 0x09 .all (fun it s =>
      if mgr ∧ !isManager s it.id.fn then finishBad it.seq stInvalidField s
      else if dw it.sqe.cdw10 31 31 = 1 then finishBad it.seq (mkStatus 1 0x0D true) s
      else body it s) id s

def updFeats (fn : Nat) (f : Feats → Feats) : State → State := updCtl fn fun c => { c with feats := f c.feats }

def setArbitration (it : Item) (s : State) : State :=
  finishOk it.seq (updFeats it.id.fn (fun f => { f with burst := dw it.sqe.cdw11 2 0 }) s)

/-- Temperature Threshold (R107): over or under, of the composite temperature. -/
def setTempThreshold (it : Item) (s : State) : State :=
  let t := dw it.sqe.cdw11 15 0
  let sel := dw it.sqe.cdw11 19 16
  let ty := dw it.sqe.cdw11 21 20
  if (sel ≠ 0 ∧ sel ≠ 15) ∨ 1 < ty then finishBad it.seq stInvalidField s
  else finishOk it.seq (updFeats it.id.fn (fun f =>
    if ty = 0 then { f with tempOver := t } else { f with tempUnder := t }) s)

/-- Error Recovery: DULBE; TLER is ignored (R107). -/
def setErrorRecovery (it : Item) (s : State) : State :=
  finishOk it.seq (updFeats it.id.fn (fun f => { f with dulbe := decide (dw it.sqe.cdw11 16 16 = 1) }) s)

/-- Number of Queues: the request is ignored and the function's count is returned (R96). -/
def queueCount (c : Ctl) : Word := wordOf ((c.qpairs - 1) + 2 ^ 16 * (c.qpairs - 1))

def setNumberOfQueues (it : Item) (s : State) : State :=
  match ctlOf s it.id.fn with
  | none => s
  | some c => finish it.seq stOk (queueCount c) 0 s

def setCoalescing (it : Item) (s : State) : State :=
  finishOk it.seq (updFeats it.id.fn (fun f =>
    { f with coalThr := dw it.sqe.cdw11 7 0, coalTime := dw it.sqe.cdw11 15 8 }) s)

/-- Interrupt Vector Configuration: the coalescing-disable bit of a vector the function has (R99). -/
def setVectorConfig (it : Item) (s : State) : State :=
  match ctlOf s it.id.fn with
  | none => s
  | some c =>
    let v := dw it.sqe.cdw11 15 0
    if c.msix ≤ v then finishBad it.seq stInvalidField s
    else
      let r := { vecOf c v with cd := decide (dw it.sqe.cdw11 16 16 = 1) }
      finishOk it.seq (updCtl it.id.fn (fun c => { c with vecs := tabSet c.vecs v r }) s)

def setWriteAtomicity (it : Item) (s : State) : State :=
  finishOk it.seq (updFeats it.id.fn (fun f => { f with atomicDn := decide (dw it.sqe.cdw11 0 0 = 1) }) s)

def setAsyncConfig (it : Item) (s : State) : State :=
  finishOk it.seq (updFeats it.id.fn (fun f => { f with aec := it.sqe.cdw11 }) s)

/-- Timestamp: the value the 8-byte data buffer holds, counted on from now (R107). -/
def setTimestamp (dma : Dma) (it : Item) (s : State) : State :=
  if dma.linkFails then finishBad it.seq stDataTransfer s
  else finishOk it.seq (updFeats it.id.fn (fun f =>
      { f with ts := some (fieldAt dma.bytes 0 6), tsFrame := clk s }) s)

/-- Command lifetime limit (R118): an exponent from 16 to 26. -/
def setLifetime (it : Item) (s : State) : State :=
  let e := it.sqe.cdw11.toNat
  if e < 16 ∨ 26 < e then finishBad it.seq stInvalidField s
  else finishOk it.seq (updFeats it.id.fn (fun f => { f with lifeE := e }) s)

def execSetFeaturesArbitration (id : CmdId) (s : State) : Host.Outcome State Fault Refusal :=
  act (setFeature 0x01 false setArbitration id) s

def execSetFeaturesTemperatureThreshold (id : CmdId) (s : State) : Host.Outcome State Fault Refusal :=
  act (setFeature 0x04 false setTempThreshold id) s

def execSetFeaturesErrorRecovery (id : CmdId) (s : State) : Host.Outcome State Fault Refusal :=
  act (setFeature 0x05 false setErrorRecovery id) s

def execSetFeaturesNumberOfQueues (id : CmdId) (s : State) : Host.Outcome State Fault Refusal :=
  act (setFeature 0x07 false setNumberOfQueues id) s

def execSetFeaturesInterruptCoalescing (id : CmdId) (s : State) : Host.Outcome State Fault Refusal :=
  act (setFeature 0x08 false setCoalescing id) s

def execSetFeaturesInterruptVectorConfig (id : CmdId) (s : State) : Host.Outcome State Fault Refusal :=
  act (setFeature 0x09 false setVectorConfig id) s

def execSetFeaturesWriteAtomicity (id : CmdId) (s : State) : Host.Outcome State Fault Refusal :=
  act (setFeature 0x0A false setWriteAtomicity id) s

def execSetFeaturesAsyncEventConfig (id : CmdId) (s : State) : Host.Outcome State Fault Refusal :=
  act (setFeature 0x0B false setAsyncConfig id) s

def execSetFeaturesTimestamp (id : CmdId) (dma : Dma) (s : State) : Host.Outcome State Fault Refusal :=
  act (setFeature 0x0E false (setTimestamp dma) id) s

def execSetFeaturesLifetimeLimit (id : CmdId) (s : State) : Host.Outcome State Fault Refusal :=
  act (setFeature 0xC4 false setLifetime id) s

/-! ### Get Features (R107) -/

/-- Features the device supports. -/
def fids : List Nat := [0x01, 0x02, 0x04, 0x05, 0x07, 0x08, 0x09, 0x0A, 0x0B, 0x0C, 0x0E, 0xC4]

/-- T_WARN in kelvin: the default over-temperature threshold (NVMe 2.0). -/
def warnKelvin (s : State) : Nat := s.therm.tWarn + 273

/-- The features of a function as they stand by default. -/
def featsDefault (s : State) (lifeE : Nat) : Feats := { featsReset with tempOver := warnKelvin s, lifeE := lifeE }

/-- Milliseconds of the Timestamp feature: the value set and the frames elapsed since ÷ 500 (R107). -/
def timestampNow (s : State) (f : Feats) : Nat :=
  match f.ts with
  | some t => t + (clk s - f.tsFrame) / 500
  | none => clk s / 500

/-- The Timestamp data structure: the time in 48 bits, and the origin field. -/
def timestampBytes (s : State) (f : Feats) : List Byte :=
  le (timestampNow s f) 6 ++ [if f.ts.isSome then 2 else 0, 0]

/-- The APST data structure of 32 entries of 8 bytes (R426). -/
def apstBytes (s : State) : List Byte :=
  ((List.range 32).map fun i =>
    let e := tabGetD s.power.apst i { itps := 0, itpt := 0 }
    le (e.itps * 8 + e.itpt * 256) 8).flatten

/-- DW0 of Get Features: of the current value, or of the default, in which no vector has coalescing disabled. -/
def featureWord (s : State) (c : Ctl) (f : Feats) (it : Item) (fid : Nat) (cur : Bool) : Nat :=
  let v := dw it.sqe.cdw11 15 0
  if fid = 0x01 then f.burst
  else if fid = 0x02 then (if 2048 ≤ it.id.fn then (if 3 ≤ s.power.ps then s.power.lastOp else s.power.ps) else 0)
  else if fid = 0x04 then (if dw it.sqe.cdw11 21 20 = 1 then f.tempUnder else f.tempOver)
  else if fid = 0x05 then flag f.dulbe (2 ^ 16)
  else if fid = 0x07 then (queueCount c).toNat
  else if fid = 0x08 then f.coalThr + f.coalTime * 2 ^ 8
  else if fid = 0x09 then v + flag (cur && (vecOf c v).cd) (2 ^ 16)
  else if fid = 0x0A then flag f.atomicDn 1
  else if fid = 0x0B then f.aec.toNat
  else if fid = 0x0C then flag s.power.apste 1
  else if fid = 0xC4 then f.lifeE
  else 0

/-- Get Features: Select 0 the current value, 1 and 2 the default, 3 what may be changed (R107). -/
def getFeatures (it : Item) (s : State) : State :=
  match ctlOf s it.id.fn with
  | none => s
  | some c =>
    let fid := fidOf it
    let sel := dw it.sqe.cdw10 10 8
    let mgrOnly := decide (fid = 0x02) || decide (fid = 0x0C)
    let vfPower := decide (fid = 0x02) && decide (it.id.fn < 2048)
    if !fids.contains fid ∨ 3 < sel ∨ (mgrOnly ∧ !isManager s it.id.fn ∧ !vfPower) ∨
        (fid = 0x09 ∧ c.msix ≤ dw it.sqe.cdw11 15 0) then finishBad it.seq stInvalidField s
    else if sel = 3 then finish it.seq stOk 4 0 s
    else
      let f := if sel = 0 then c.feats else featsDefault s 22
      let w := if sel = 0 ∨ !mgrOnly then featureWord s c f it fid (decide (sel = 0)) else 0
      let s := when (decide (fid = 0x0E)) (send (.nvmeData it.id.fn (timestampBytes s f))) s
      let s := when (decide (fid = 0x0C))
        (send (.nvmeData it.id.fn (if sel = 0 then apstBytes s else zeros 256))) s
      finish it.seq stOk (wordOf w) 0 s

def execGetFeatures (id : CmdId) (s : State) : Host.Outcome State Fault Refusal :=
  act (admin 0x0A .all getFeatures id) s

/-! ### Asynchronous Event Request (R95, R106) -/

def asyncRequest (it : Item) (s : State) : State :=
  match ctlOf s it.id.fn with
  | none => s
  | some c =>
    if c.aers.contains it.id.cid then s
    else if 16 ≤ c.aers.length then finishBad it.seq (mkStatus 1 0x05 true) s
    else
      reportEvents it.id.fn 16
        (updCtl it.id.fn (fun c => { c with aers := c.aers ++ [it.id.cid] })
          (updItem it.seq (fun i => { i with phase := .waiting }) s))

def execAsynchronousEventRequest (id : CmdId) (s : State) : Host.Outcome State Fault Refusal :=
  act (admin 0x0C .all asyncRequest id) s

/-! ### Directives (R152) -/

/-- Directive Send: the Identify and Streams directives. -/
def directiveSend (it : Item) (s : State) : State :=
  let oper := dw it.sqe.cdw11 7 0
  let ty := dw it.sqe.cdw11 15 8
  if (nsOf s it.id.fn it.sqe.nsid.toNat).isNone ∧ it.sqe.nsid.toNat ≠ 0xFFFFFFFF then
    finishBad it.seq stInvalidNamespace s
  else if ty = 0 ∧ oper = 1 then
    if dw it.sqe.cdw12 15 8 = 1 ∧ dw it.sqe.cdw12 0 0 = 1 then finishOk it.seq s
    else finishBad it.seq stInvalidField s
  else if ty = 1 ∧ (oper = 1 ∨ oper = 2) then finishOk it.seq s
  else finishBad it.seq stInvalidField s

/-- Identify Return Parameters: Identify and Streams supported and enabled, 4,096 bytes. -/
def directiveIdentify : List Byte := padTo 4096 ([3] ++ zeros 31 ++ [3])

/-- Streams Return Parameters: MSL, NSSA, NSSO, then SWS and SGS, 32 bytes. -/
def streamsParams : List Byte :=
  padTo 32 (le 0xFFFF 2 ++ le 0xFFFF 2 ++ le 0 2 ++ zeros 10 ++ le 1 4 ++ le 1 2)

def directiveReceive (it : Item) (s : State) : State :=
  let oper := dw it.sqe.cdw11 7 0
  let ty := dw it.sqe.cdw11 15 8
  if (nsOf s it.id.fn it.sqe.nsid.toNat).isNone ∧ it.sqe.nsid.toNat ≠ 0xFFFFFFFF then
    finishBad it.seq stInvalidNamespace s
  else if ty = 0 ∧ oper = 1 then finishOk it.seq (send (.nvmeData it.id.fn directiveIdentify) s)
  else if ty = 1 ∧ oper = 1 then finishOk it.seq (send (.nvmeData it.id.fn streamsParams) s)
  else if ty = 1 ∧ oper = 2 then finishOk it.seq (send (.nvmeData it.id.fn (le 0 2)) s)
  else if ty = 1 ∧ oper = 3 then finish it.seq stOk (wordOf (dw it.sqe.cdw12 15 0)) 0 s
  else finishBad it.seq stInvalidField s

def execDirectiveSend (id : CmdId) (s : State) : Host.Outcome State Fault Refusal :=
  act (admin 0x19 .all directiveSend id) s

def execDirectiveReceive (id : CmdId) (s : State) : Host.Outcome State Fault Refusal :=
  act (admin 0x1A .all directiveReceive id) s

/-! ### Security protocol 0x00 (R103) -/

def protocolOf (it : Item) : Nat := dw it.sqe.cdw10 31 24

/-- Security Send: protocol 0x00 is accepted and has no effect; another protocol is refused. -/
def securitySend (it : Item) (s : State) : State :=
  if protocolOf it = 0 then finishOk it.seq s else finishBad it.seq stInvalidField s

/-- The list of supported security protocols: 0x00 alone. -/
def securityProtocols : List Byte := zeros 6 ++ [0, 1, 0]

/-- Security Receive: protocol 0x00 returns the list of protocols; SPSP other than 0 is refused. -/
def securityReceive (it : Item) (s : State) : State :=
  if protocolOf it = 0 ∧ dw it.sqe.cdw10 23 8 = 0 then
    finishOk it.seq (send (.nvmeData it.id.fn (securityProtocols.take it.sqe.cdw11.toNat)) s)
  else finishBad it.seq stInvalidField s

def execSecuritySend (id : CmdId) (s : State) : Host.Outcome State Fault Refusal :=
  act (admin 0x81 .all securitySend id) s

def execSecurityReceive (id : CmdId) (s : State) : Host.Outcome State Fault Refusal :=
  act (admin 0x82 .all securityReceive id) s

/-! ### Commands without support (R103, R109) -/

def adminOpcodes : List Nat :=
  [0x00, 0x01, 0x02, 0x04, 0x05, 0x06, 0x08, 0x09, 0x0A, 0x0C, 0x0D, 0x10, 0x11, 0x15, 0x19, 0x1A, 0x1D, 0x1E,
   0x80, 0x81, 0x82, 0x84]

/-- Set Features whose feature identifier the device does not have, Firmware Commit and Sanitize actions it
does not have: Invalid Field (R104, R105, R107). -/
def badAction (it : Item) : Bool :=
  (decide (it.opc = 0x09) && !fids.contains (fidOf it)) ||
  (decide (it.opc = 0x10) && !([0, 3].contains (dw it.sqe.cdw10 5 3))) ||
  (decide (it.opc = 0x84) && !([1, 2, 4].contains (dw it.sqe.cdw10 2 0)))

/-- The I/O opcodes a namespace's command set accepts (R109). -/
def ioAccepts (zoned : Bool) (opc : Nat) : Bool :=
  [0x00, 0x01, 0x02, 0x08, 0x0C].contains opc || (if zoned then [0x79, 0x7A, 0x7D].contains opc else opc == 0x09)

/-- Zone Management actions the device does not have: Invalid Field (R147, R148). -/
def badZoneAction (e : Sqe) : Bool :=
  (decide (e.opc.toNat = 0x79) && !([1, 2, 3, 4, 5].contains (dw e.cdw13 7 0))) ||
  (decide (e.opc.toNat = 0x7A) && decide (dw e.cdw13 7 0 ≠ 0))

/-- A command the function does not support completes with Invalid Command Opcode; a supported opcode with
an action of its own that the device lacks completes with Invalid Field. Any other command is not this row's. -/
def unsupported (id : CmdId) (s : State) : State :=
  match findItem s id with
  | none => s
  | some it =>
    if it.outcome.isSome ∨ it.held ∨ !hallRuns s ∨ it.phase ≠ .fetched ∨ !inTurn s it ∨
        !(if id.sq = 0 then adminOpen s else shardRuns s id.fn id.sq) then s
    else if id.sq = 0 then
      if !adminOpcodes.contains it.opc then finishBad it.seq stInvalidOpcode s
      else if badAction it then
        match accessFault s id.fn (if it.opc = 0x09 then .all else .manager) with
        | some st => finishBad it.seq st s
        | none => finishBad it.seq stInvalidField s
      else s
    else
      match nsOf s id.fn it.sqe.nsid.toNat with
      | none => if ioAccepts true it.opc ∨ ioAccepts false it.opc then s else finishBad it.seq stInvalidOpcode s
      | some (_, n) =>
        if !ioAccepts n.zoned it.opc then finishBad it.seq stInvalidOpcode s
        else if badZoneAction it.sqe then finishBad it.seq stInvalidField s
        else s

def execUnsupportedOpcode (id : CmdId) (s : State) : Host.Outcome State Fault Refusal := act (unsupported id) s

/-! ### Interrupt coalescing (R99) -/

/-- The aggregation time of a vector, 50 frames a unit, has run out with completions pending. -/
def aggregationExpiry (fn v : Nat) (s : State) : State :=
  match ctlOf s fn with
  | none => s
  | some c =>
    let r := vecOf c v
    if r.pend = 0 ∨ !fired r.since (50 * c.feats.coalTime) (clk s) then s
    else interrupt fn v (updCtl fn (fun c => { c with vecs := tabSet c.vecs v { r with pend := 0 } }) s)

def execAggregationTimeExpiry (fn v : Nat) (s : State) : Host.Outcome State Fault Refusal :=
  act (aggregationExpiry fn v) s

end Sys2Proof.Machine
end

