-- ==== Sys2Proof/Machine/Crypto.lean ====
section
/-! DEFINITION. The inner check, the data key and the encryption of a unit, and host protection information
(chapter Integrity from End to End). -/

namespace Sys2Proof.Machine

/-! ### CRCs -/

/-- One bit of a CRC, most significant bit first. -/
def crcBit {w : Nat} (poly : BitVec w) (c : BitVec w) (b : Bool) : BitVec w :=
  if c.msb = b then c <<< 1 else (c <<< 1) ^^^ poly

/-- One byte, most significant bit first. -/
def crcByte {w : Nat} (poly : BitVec w) (c : BitVec w) (b : Byte) : BitVec w :=
  (List.range 8).foldl (fun c i => crcBit poly c (b.getLsbD (7 - i))) c

/-- One byte, least significant bit first (the reflected CRCs). -/
def crcByteR {w : Nat} (poly : BitVec w) (c : BitVec w) (b : Byte) : BitVec w :=
  (List.range 8).foldl (fun c i => crcBit poly c (b.getLsbD i)) c

/-- ECMA-182 CRC-64 of the inner check (R296). -/
def crc64 (l : List Byte) : Quad := ~~~(l.foldl (crcByte 0x42F0E1EBA9EA3693#64) (~~~0#64))

/-- CRC-32C, as ring records, metering records and container fields carry it: reflected, all ones before and
after. -/
def crc32c (l : List Byte) : Word := (~~~(l.foldl (crcByteR 0x1EDC6F41#32) (~~~0#32))).reverse

/-- The 16-bit guard, T10 DIF (R300). -/
def guard16 (l : List Byte) : BitVec 16 := l.foldl (crcByte 0x8BB7#16) 0#16

/-- The 64-bit guard, NVMe CRC-64 (R300): reflected, all ones before and after. -/
def guard64 (l : List Byte) : Quad := (~~~(l.foldl (crcByteR 0xAD93D23594C93659#64) (~~~0#64))).reverse

/-! ### The unit header and the stored check -/

/-- The 24 bytes of UNIT_HDR (R297). -/
def hdrBytes (h : UnitHdr) : List Byte :=
  bvBytes h.owner ++ bvBytes h.nsx ++ bvBytes h.lba ++ [h.gen] ++
  [BitVec.ofNat 8 (flag h.poison 1 + flag h.zeros 2)] ++ bvBytes h.saltGen ++ zeros 8

/-- The inner check of a unit: DATA, META, UNIT_HDR (R296). -/
def innerCheck (d : UnitData) (m : BitVec 512) (h : UnitHdr) : Quad := crc64 (bvBytes d ++ bvBytes m ++ hdrBytes h)

def zeroHdr : UnitHdr :=
  { owner := 0, nsx := 0, lba := 0, gen := 0, poison := false, zeros := false, saltGen := 0 }

/-- The information part of a pad unit (R271). -/
def padUnit : Stored :=
  { data := 0, meta_ := 0, hdr := zeroHdr, check := innerCheck 0 0 zeroHdr, kind := .pad, flushSeq := 0 }

/-- KIND as bits (R267). -/
def UKind.code : UKind → BitVec 2
  | .data => 0
  | .pad => 1
  | .refuge => 2
  | .system => 3

def kindOf (c : BitVec 2) : UKind := if c = 0 then .data else if c = 1 then .pad else if c = 2 then .refuge else .system

def UnitHdr.xor (a b : UnitHdr) : UnitHdr :=
  { owner := a.owner ^^^ b.owner, nsx := a.nsx ^^^ b.nsx, lba := a.lba ^^^ b.lba, gen := a.gen ^^^ b.gen,
    poison := a.poison ^^ b.poison, zeros := a.zeros ^^ b.zeros, saltGen := a.saltGen ^^^ b.saltGen }

/-- The bytewise XOR of two information parts (R168, R271). -/
def Stored.xor (a b : Stored) : Stored :=
  { data := a.data ^^^ b.data, meta_ := a.meta_ ^^^ b.meta_, hdr := a.hdr.xor b.hdr, check := a.check ^^^ b.check,
    kind := kindOf (a.kind.code ^^^ b.kind.code), flushSeq := a.flushSeq ^^^ b.flushSeq }

/-- An information part of zeros. -/
def noUnit : Stored := { data := 0, meta_ := 0, hdr := zeroHdr, check := 0, kind := .data, flushSeq := 0 }

/-- First LBA of a unit (R297). -/
def unitLba (n : Ns) (u : Nat) : Nat := u * blocksPerUnit n

/-- What the header of a unit must say for the map lookup that found it (R298). -/
def hdrMatches (n : Ns) (x u : Nat) (h : UnitHdr) : Bool :=
  decide (h.owner.toNat = n.owner) && decide (h.nsx.toNat = x) && decide (h.lba.toNat = unitLba n u) &&
  decide (h.saltGen = n.saltGen)

/-! ### Keys (R321 to R323) -/

/-- Input of one KDF block (R323). -/
def kdfInput (i x : Nat) (n : Ns) : List Byte :=
  [0, 0, 0, BitVec.ofNat 8 i] ++ [0x4B, 0x5A, 0x4E, 0x53] ++ le x 2 ++ bvBytes n.saltGen ++ bvBytes n.salt ++
  [0, 0, 2, 0]

/-- The 512-bit data key of a namespace, from its owner's slot key (R323). -/
def dataKey (slot : BitVec 512) (x : Nat) (n : Ns) : BitVec 512 :=
  BitVec.setWidth 512 (Config.hmac384 slot (kdfInput 1 x n)) |||
    (BitVec.setWidth 512 (Config.hmac384 slot (kdfInput 2 x n)) <<< 384)

/-- The key slot of a PF: 0xFFFF selects its default (R412). -/
def pfSlot (c : Config412) (p : Pf) : Nat :=
  match p with
  | .port0 => if c.pfSlot0 = 0xFFFF then 4094 else c.pfSlot0
  | .port1 => if c.pfSlot1 = 0xFFFF then 4095 else c.pfSlot1

/-- The key slot of an owner (R322, R412). -/
def slotOf (s : State) (fn : Nat) : Nat :=
  if fn = 2048 then pfSlot s.fw.cfg .port0
  else if fn = 2049 then pfSlot s.fw.cfg .port1
  else match tabGet s.inst.insts fn with
    | some i => i.slot
    | none => 0xFFFF

def slotKey (s : State) (k : Nat) : BitVec 512 :=
  match tabGet s.prot.slots k with
  | some x => x.key
  | none => 0

/-- The data key of namespace `x`. -/
def nsKey (s : State) (x : Nat) (n : Ns) : BitVec 512 := dataKey (slotKey s (slotOf s n.owner)) x n

/-- The XTS tweak of a unit: its index, 128-bit little-endian (R321). -/
def tweak (u : Nat) : BitVec 256 := BitVec.ofNat 256 u

/-- The header of a unit that is written now (R297). -/
def unitHdr (s : State) (x : Nat) (n : Ns) (u : Nat) (zs : Bool) : UnitHdr :=
  { owner := BitVec.ofNat 16 n.owner, nsx := BitVec.ofNat 16 x, lba := BitVec.ofNat 64 (unitLba n u),
    gen := BitVec.ofNat 8 (tabGetD s.inst.gens n.owner 0), poison := false, zeros := zs, saltGen := n.saltGen }

/-- A unit in the staging SRAM: plaintext under its plain inner check (R294 to R296). -/
structure Staged where
  data : UnitData
  meta_ : BitVec 512
  hdr : UnitHdr
  check : Quad
deriving DecidableEq, Repr

/-- A unit enters the staging SRAM with the plain inner check computed. -/
def stage (d : UnitData) (m : BitVec 512) (h : UnitHdr) : Staged :=
  { data := d, meta_ := m, hdr := h, check := innerCheck d m h }

/-- The plain inner check verifies. -/
def Staged.ok (p : Staged) : Bool := decide (innerCheck p.data p.meta_ p.hdr = p.check)

/-- A unit as the crypto array hands it on: ciphertext, META, header and the stored check (R304). -/
def Staged.encrypt (s : State) (x : Nat) (n : Ns) (u : Nat) (p : Staged) : Stored :=
  let c := Config.xtsEncrypt (nsKey s x n) (tweak u) p.data
  { data := c, meta_ := p.meta_, hdr := p.hdr, check := innerCheck c p.meta_ p.hdr, kind := .data, flushSeq := 0 }

/-- The crypto array computes the stored check, then verifies the plain one and drops it (R25 step 3, R295); none where
that fails. -/
def sealUnit (s : State) (x : Nat) (n : Ns) (u : Nat) (p : Staged) : Option Stored :=
  let t := p.encrypt s x n u
  if p.ok then some t else none

/-- A unit of the given plaintext as it is stored. -/
def encryptUnit (s : State) (x : Nat) (n : Ns) (u : Nat) (d : UnitData) (m : BitVec 512) (zs : Bool) : Stored :=
  (stage d m (unitHdr s x n u zs)).encrypt s x n u

/-- The plaintext of a stored unit. -/
def decryptUnit (s : State) (x : Nat) (n : Ns) (u : Nat) (t : Stored) : UnitData :=
  Config.xtsDecrypt (nsKey s x n) (tweak u) t.data

/-- The crypto array decrypts a unit and computes its plain check (R28 step 6). -/
def openUnit (s : State) (x : Nat) (n : Ns) (u : Nat) (t : Stored) : Staged :=
  stage (decryptUnit s x n u t) t.meta_ t.hdr

/-- A poisoned unit (R309): POISON set in its header, a new stored check. -/
def poison (t : Stored) : Stored :=
  let h := { t.hdr with poison := true }
  { t with hdr := h, check := innerCheck t.data t.meta_ h }

/-! ### Host protection information (R300 to R303) -/

/-- Bytes of PI of a block: the metadata of the format. -/
def piSize (n : Ns) : Nat := lbaMeta n.lbaf

/-- The guard width in bytes of a format, with the function's guard format for LBAF 2 (R301). -/
def guardBytes (lbaf : Nat) (g32 : Bool) : Nat := if lbaf = 2 then (if g32 then 4 else 8) else 2

/-- The guard of a block's data (R300), big-endian as PI fields are. -/
def guardOf (lbaf : Nat) (g32 : Bool) (d : List Byte) : Nat :=
  if lbaf = 2 then (if g32 then (crc32c d).toNat else (guard64 d).toNat) else (guard16 d).toNat

/-- The number big-endian bytes hold. -/
def beNat (l : List Byte) : Nat := leNat l.reverse
def be (n w : Nat) : List Byte := (le n w).reverse

/-- Width of the reference tag in bytes: what guard and application tag leave (R300). -/
def refBytes (n : Ns) (g32 : Bool) : Nat := piSize n - guardBytes n.lbaf g32 - 2

/-- A block's PI: guard, application tag, reference tag. -/
def piBytes (n : Ns) (g32 : Bool) (guard app ref : Nat) : List Byte :=
  be guard (guardBytes n.lbaf g32) ++ be app 2 ++ be (ref % 2 ^ (8 * refBytes n g32)) (refBytes n g32)

/-- PRINFO fields (R110): PRACT, and the checks of guard, application tag and reference tag. -/
def Sqe.pract (e : Sqe) : Bool := e.cdw12.getLsbD 29
def Sqe.prchk (e : Sqe) (i : Nat) : Bool := e.cdw12.getLsbD (26 + i)

/-- The initial reference tag the command gives: CDW14, with CDW3 and CDW2 above it where the tag is wider. -/
def Sqe.refTag (e : Sqe) : Nat := e.cdw14.toNat + 2 ^ 32 * e.cdw3.toNat + 2 ^ 64 * e.cdw2.toNat
def Sqe.appTag (e : Sqe) : Nat := bits e.cdw15.toNat 15 0
def Sqe.appMask (e : Sqe) : Nat := bits e.cdw15.toNat 31 16

def stGuard : Status := mkStatus 2 0x82 true
def stAppTag : Status := mkStatus 2 0x83 true
def stRefTag : Status := mkStatus 2 0x84 true

/-- The reference tag expected of the `i`-th block of a command (R302): it counts up for Types 1 and 2. -/
def expectedRef (n : Ns) (e : Sqe) (i : Nat) : Nat := if n.pit = 3 then e.refTag else e.refTag + i

/-- Check one block's PI under PRCHK: guard, application tag, reference tag, the first failure deciding; the
escape values disable the checks (R302). An append checks no reference tag against an LBA (R303). -/
def piFault (n : Ns) (g32 : Bool) (e : Sqe) (i : Nat) (data pi : List Byte) : Option Status :=
  let gb := guardBytes n.lbaf g32
  let guard := beNat (pi.take gb)
  let app := beNat ((pi.drop gb).take 2)
  let ref := beNat (pi.drop (gb + 2))
  let rw := 2 ^ (8 * refBytes n g32)
  if app = 0xFFFF ∧ (n.pit ≠ 3 ∨ ref = rw - 1) then none
  else if e.prchk 2 ∧ guard ≠ guardOf n.lbaf g32 data then some stGuard
  else if e.prchk 1 ∧ app &&& e.appMask ≠ e.appTag &&& e.appMask then some stAppTag
  else if e.prchk 0 ∧ n.pit ≠ 3 ∧ e.opc.toNat ≠ 0x7D ∧ ref ≠ expectedRef n e i % rw then some stRefTag
  else none

/-- The first failing block of a unit: `first` is the block's position in the command. -/
def piFaults (n : Ns) (g32 : Bool) (e : Sqe) (first : Nat) : List (List Byte × List Byte) → Option Status
  | [] => none
  | (d, p) :: t => (piFault n g32 e first d p).or (piFaults n g32 e (first + 1) t)

/-- Cut bytes into pieces of `w` bytes, at most `k`. -/
def pieces (w : Nat) : Nat → List Byte → List (List Byte)
  | 0, _ => []
  | k + 1, l => l.take w :: pieces w k (l.drop w)

/-- PI of zero data for an unmapped block: the guard of zeros, every other tag all ones (R149). -/
def zeroPi (n : Ns) (g32 : Bool) : List Byte :=
  if piSize n = 0 then []
  else piBytes n g32 (guardOf n.lbaf g32 (zeros (lbaData n.lbaf))) 0xFFFF (2 ^ 80 - 1)

end Sys2Proof.Machine
end

