-- ==== Sys2Proof/Machine/Journal.lean ====
section
/-! DEFINITION. The journal engine: records, the ring, the home lines and the spare lines (chapters
Translation, Wear and Free Space, and Crossings, Failures and Ordering). What a commit brings about is in
Commit.lean. -/

namespace Sys2Proof.Machine

/-! ### Records (R201, R202) -/

/-- 16-byte words of `n` bytes. -/
def words16 (n : Nat) : Nat := (n + 15) / 16

/-- A record of a type that changes nothing beyond what its other fields say. -/
def jrec (t : JType) : JRec :=
  { type := t, seq := 0, frame := 0, body := [], crc := 0, damaged := false, again := none, egTo := none, row := none, zst := [], unmap := none, eg := 0, erase := [],
    items := [], len := 0, todo := [], segs := [] }

/-- The group with an EGID. -/
def groupAt (s : State) (eg : Nat) : Option Group := tabGet s.media.groups eg

def JType.code : JType → Nat
  | .zoneExt => 1
  | .pageRow => 2
  | .zoneState => 3
  | .unmap => 4
  | .egState => 5
  | .erasePend => 6
  | .eraseDone => 7
  | .secureStep => 8

/-- STATE of a zone record (R203). -/
def zstateCode : ZState → Nat
  | .empty => 0x1
  | .implicit => 0x2
  | .explicit => 0x3
  | .closed => 0x4
  | .readOnly => 0xD
  | .full => 0xE
  | .offline => 0xF

/-- The state that a record gives a zone which stands in `r`. -/
def ZoneTo.state (r : Zone) : ZoneTo → ZState
  | .opened => .explicit
  | .closed => if r.wp = 0 then .empty else .closed
  | .finished => .full
  | .filled => .full
  | .empty => .empty
  | .wiped => .empty
  | .offline => .offline
  | .told _ _ => r.st

/-- BIND of a zone record: PG, LC and BOUND (R203). -/
def bindCode (b : Option (Nat × Nat)) : Nat :=
  match b with
  | some (lc, pg) => pg % 4096 + lc % 8 * 4096 + 32768
  | none => 0

/-- A frame value of a table: signed, 64 bits; 0 is none (R203, R207). -/
def frameBytes (v : Option Int) : List Byte := bvBytes (BitVec.ofInt 64 (v.getD 0))

/-- Bytes [3:0] of a zone record. -/
def zoneHead (st : ZState) (r : Zone) : List Byte :=
  [BitVec.ofNat 8 (zstateCode st), BitVec.ofNat 8 (flag r.zfc 1 + flag r.fzr 2)] ++ le (bindCode r.bind) 2

/-- Payload of a ZONE_STATE record. A zone whose namespace has gone has a record not in use. -/
def zonePayload (s : State) (p : Nat × ZoneTo) : List Byte :=
  le p.1 4 ++
  match zoneAt s p.1 with
  | none => zeros 20
  | some r =>
    let st := p.2.state r
    let e := decide (st = .empty)
    zoneHead st (if e then Zone.fresh r.nsx r.idx else r) ++ frameBytes (if e then none else r.firstWrite) ++
      frameBytes (if e then none else r.pred)

/-- An extent entry (R204): a run of whole zone rows, or a part of one. -/
inductive Extent
  | run (eg prow count stride : Nat)
  | part (eg prow first last : Nat)
deriving DecidableEq, Repr

def Extent.word : Extent → Quad
  | .run eg prow count stride => BitVec.ofNat 64 (eg + prow * 2 ^ 24 + count * 2 ^ 36 + stride * 2 ^ 48)
  | .part eg prow first last => BitVec.ofNat 64 (eg + prow * 2 ^ 24 + first * 2 ^ 36 + last * 2 ^ 45 + 2 ^ 63)

/-- STATE of a group record (R207). -/
def EgState.code : EgState → Nat
  | .opened => 1
  | .closed => 2
  | .pendingErase => 3
  | .refuge => 4
  | .system => 5

/-- Bytes [7:4] of a group record: FLAGS_A, GEOM, STATE, FLAGS_B (R207). -/
def groupHead (g : Group) (st : EgState) : List Byte :=
  [BitVec.ofNat 8 (g.lc % 8 + flag g.shared 8 + flag g.secdisc 16 + flag g.rebuild 32 + g.subs % 4 * 64),
   BitVec.ofNat 8 (g.width % 64 + g.cls % 4 * 64), BitVec.ofNat 8 st.code,
   BitVec.ofNat 8 (flag g.pslc 1 + flag g.shelf 2 + flag g.refresh 4 + flag g.retire 8 + flag g.pack 16)]

/-- The place of a die block in the die-block table: in die-number order, one entry per die block a die has (R208). -/
def blockIndex (s : State) (die b : Nat) : Nat :=
  ((s.flash.dies.filter fun p => decide (p.1 < die)).map fun p => p.2.blocks).sum + b

/-- Payload of an EG_STATE record; a substitute's die-block index takes four bytes and its ROW_OFFSET two (DESIGN
CHOICE, log 112). -/
def groupPayload (s : State) (eg : Nat) (k : Option EgTo) : List Byte :=
  le eg 3 ++
  match groupAt s eg with
  | none => zeros 4
  | some g =>
    match k with
    | some .closed => groupHead g .closed
    | some (.substitute m) => groupHead g g.st ++
        match (g.members[m]?).bind fun m => m.substs.head? with
        | some x => le (blockIndex s x.die x.block) 4 ++ le x.off 2
        | none => []
    | _ => groupHead g g.st

/-- Payload of a row's record: ZONE_EXT with the extent it makes of the row, or PAGE_ROW; COND is 1 for relocated
rows. -/
def rowPayload (s : State) (o : RowOp) : List Byte :=
  match o.zone with
  | some (z, _) =>
    let ru := match groupAt s o.eg with
      | some g => 16 * (g.width - 1)
      | none => 0
    let first := (o.units.map (·.1)).foldl min 511
    let last := (o.units.map (·.1)).foldl max 0
    let e : Extent := if o.units.length = ru then .run o.eg o.row 1 1 else .part o.eg o.row first last
    let wp := match zoneAt s z with
      | some r => r.wpFlash
      | none => 0
    le z 4 ++ bvBytes e.word ++ le wp 4
  | none =>
    let k := match nsAt s o.nsx with
      | some n => blocksPerUnit n
      | none => 1
    le o.nsx 2 ++ le o.eg 3 ++ le o.row 2 ++ [BitVec.ofNat 8 (flag o.reloc.isSome 1)] ++ le o.units.length 2 ++
      (o.units.map fun p => le (p.2.unit * k) 5 ++ le p.1 2).flatten

/-- Units of a range of a namespace that lie in one group. -/
def unitsIn (s : State) (eg x first n : Nat) : List Nat :=
  s.media.pageMap.filterMap fun p =>
    if x * 2 ^ 40 + first ≤ p.1 ∧ p.1 < x * 2 ^ 40 + first + n then
      (match p.2 with
       | .flash l => if l.eg = eg then some (p.1 % 2 ^ 40) else none
       | .landing _ => none)
    else none

/-- Payload of an UNMAP record of `n` units from unit `first` on, and of the zone they lie in. -/
def unmapPayload (s : State) (x first n : Nat) : List Byte :=
  let (k, z) := match nsAt s x with
    | some k => (blocksPerUnit k, if k.zoned then zoneOfUnit k first else 0xFFFFFFFF)
    | none => (1, 0xFFFFFFFF)
  le x 2 ++ le (first * k) 5 ++ le (n * k) 4 ++ le z 4

/-- The payload of a record. -/
def payload (s : State) (r : JRec) : List Byte :=
  match r.type, r.row, r.zst, r.unmap with
  | .zoneExt, some o, _, _ => rowPayload s o
  | .pageRow, some o, _, _ => rowPayload s o
  | .zoneState, _, p :: _, _ => zonePayload s p
  | .unmap, _, _, some (x, first, n) => unmapPayload s x first n
  | .egState, _, _, _ => groupPayload s r.eg r.egTo
  | .erasePend, _, _, _ => le r.eg 3 ++ [0] ++ le 1 2 ++ le (((groupAt s r.eg).bind (·.regionMap)).getD 0xFFFF) 2
  | .eraseDone, _, _, _ => le r.eg 3 ++ match groupAt s r.eg with
      | some g => g.members.map fun _ => 1
      | none => []
  | .secureStep, _, _, some (x, first, n) =>
      let l := unitsIn s r.eg x first n
      let k := match nsAt s x with
        | some k => blocksPerUnit k
        | none => 1
      le x 2 ++ le r.eg 3 ++ le l.length 2 ++ (l.map fun u => le (u * k) 5).flatten
  | _, _, _, _ => []

/-- The record's bytes up to its end, CRC taken as zero (R201). -/
def recRaw (len seq frame : Nat) (t : JType) (p : List Byte) : List Byte :=
  [BitVec.ofNat 8 t.code, 0] ++ le len 2 ++ le seq 8 ++ zeros 4 ++ le frame 8 ++ padTo (16 * len - 24) p

/-- Home lines of 64 bytes, numbered by region of the journal store (R199): zone table, extent pool, erase-group table,
die-block table, pending-erase list, region maps. -/
def zoneLine (z : Nat) : Nat := 2 ^ 40 + z / 2
def extentLine (b : Nat) : Nat := 2 * 2 ^ 40 + b
def groupLine (eg : Nat) : Nat := 3 * 2 ^ 40 + eg / 2
def blockLine (i : Nat) : Nat := 4 * 2 ^ 40 + i / 8
def pendLine (i : Nat) : Nat := 5 * 2 ^ 40 + i / 4
def mapLines (m : Nat) : List Nat := List.range' (6 * 2 ^ 40 + 4 * m) 4

/-- The page-map segment of a unit: 512 entries each (R206). -/
def segOf (x u : Nat) : Nat := x * 2 ^ 31 + u / 512

/-- The die blocks of a group: its members' and their substitutes'. -/
def groupBlocks (g : Group) : List (Nat × Nat) :=
  (g.members.map fun m => (m.die, m.block) :: m.substs.map fun x => (x.die, x.block)).flatten

/-- Home lines of a zone: its record and its extent blocks. -/
def zoneLines (s : State) (z : Nat) : List Nat :=
  zoneLine z :: match tabGet s.zone.zones z with
  | some r => r.blocks.map extentLine
  | none => []

/-- Home lines of a group: its record, its die-block entries, its place in the pending-erase list, its region map. -/
def groupLines (s : State) (eg : Nat) : List Nat :=
  groupLine eg :: match groupAt s eg with
  | some g => (groupBlocks g).map (fun b => blockLine (blockIndex s b.1 b.2)) ++ g.pendIdx.toList.map pendLine ++
      (g.regionMap.toList.map mapLines).flatten
  | none => []

/-- The home lines a record changes, as the tables stand. -/
def homeLines (s : State) (r : JRec) : List Nat :=
  (match r.row with
   | some o => groupLines s o.eg ++
      (match o.zone with
       | some (z, _) => zoneLines s z
       | none => [])
   | none => []) ++
  (r.zst.map fun p => zoneLines s p.1).flatten ++
  (if r.type = .egState ∨ r.type = .eraseDone then groupLines s r.eg else []) ++
  (r.erase.map (groupLines s)).flatten ++
  (match r.unmap with
   | some (x, first, _) => match nsAt s x with
     | some n => if n.zoned then zoneLines s (zoneOfUnit n first) else []
     | none => []
   | none => [])

/-- The page-map segments a record changes. -/
def recSegs (r : JRec) : List Nat :=
  (match r.row with
   | some o => if o.zone.isNone then o.units.map fun p => segOf o.nsx p.2.unit else []
   | none => []) ++
  (match r.unmap with
   | some (x, first, n) => if r.zst.isEmpty then (List.range (n / 512 + 1)).map fun i => segOf x (first + 512 * i) else []
   | none => [])

/-- The record as the ring takes it: payload, length and CRC. A record longer than LEN can say has the largest LEN
(DEDUCED, log 112). -/
def sealRec (s : State) (r : JRec) : JRec :=
  let p := payload s r
  let len := min 4096 (words16 (24 + p.length))
  { r with len := len, body := p, crc := crc32c (recRaw len r.seq r.frame r.type p) }

/-- Submit a record to the ring: it takes the next SEQ (R201). -/
def submit (r : JRec) (s : State) : State :=
  let r' := sealRec s { r with seq := s.media.nextJSeq, frame := now s, segs := (recSegs r).eraseDups }
  updMedia (fun m => { m with ring := m.ring ++ [r'], nextJSeq := m.nextJSeq + 1 }) s

/-- A change of zone state that has taken effect is told to the journal. -/
def tell (z : Nat) (old : ZState) (fzr : Bool) : State → State :=
  submit { jrec .zoneState with zst := [(z, .told old fzr)] }

/-- A record that puts a group on the pending-erase list waits in the ring. -/
def pendWaits (s : State) (eg : Nat) : Bool := s.media.ring.any fun r => r.erase.contains eg

/-- An EG_STATE of the group waits in the ring for which `p` holds. -/
def egWaits (s : State) (eg : Nat) (p : EgTo → Bool) : Bool :=
  s.media.ring.any fun r => decide (r.eg = eg) && match r.egTo with
    | some k => p k
    | none => false

/-- 16-byte words the ring holds: records not copied home, or whose page-map changes no checkpoint covers
(R200). -/
def ringUsed (s : State) : Nat := (s.media.uncopied.map (·.len)).sum

/-- The ring of 256 MiB has no room for a record. -/
def ringFull (s : State) (len : Nat) : Bool := decide (2 ^ 24 < ringUsed s + len)

/-- Every record with SEQ `n` is committed. -/
def committed (s : State) (n : Nat) : Bool := !(s.media.ring.any fun r => decide (r.seq = n))

/-! ### Lines and spare lines (R501, R502) -/

/-- Internal Error with DNR = 1, for writes that have not landed in journal read-only (R502). -/
def stJournal : Status := mkStatus 0 0x06 true

/-- The device enters journal read-only: every write that has not landed fails (R502). -/
def journalReadOnly (s : State) : State :=
  if s.media.journalReadOnly then s
  else
    let s := setCritical 3 (updMedia (fun m => { m with journalReadOnly := true }) s)
    updItems (fun l => l.map fun it =>
      if it.io ∧ isWriteOpc it.opc ∧ it.outcome.isNone ∧
          it.doneUnits.length < max it.count 1 then
        { it with outcome := some stJournal, latchedAt := clk s, phase := .done } else it) s

/-- The die of the journal store on which a home line lies: the regions are interleaved in 4 KiB units (R19, R199). -/
def lineDie (line : Nat) : Nat := line % 2 ^ 40 / 64 % 2

/-- A line whose read-back fails is replaced from the spare lines; with none left the device enters journal
read-only, and the line is not written (R501, R502). -/
def replaceLine (line : Nat) (s : State) : State :=
  if s.media.spareLines = 0 then journalReadOnly s
  else
    let s := recEvent 0x18 (updMedia (fun m => { m with
      spareLines := m.spareLines - 1, replaced := tabSet m.replaced line (372736 - m.spareLines) }) s)
    when (decide (s.media.spareLines < 1024)) (setCritical 2) s

/-! ### The way home (R200) -/

/-- Records at the tail whose home lines and segments are written leave the ring. -/
def dropTail : List JRec → List JRec
  | [] => []
  | r :: t => if r.todo.isEmpty ∧ r.segs.isEmpty ∧ !r.damaged then dropTail t else r :: t

def advanceTail : State → State := updMedia fun m => { m with uncopied := dropTail m.uncopied }

end Sys2Proof.Machine
end

