-- ==== Sys2Proof/Machine/Space.lean ====
section
/-! DEFINITION. Die blocks, the pantry, the choice and formation of erase groups, claims and the last shelf
(chapters Placement Engine, and Translation, Wear and Free Space). -/

namespace Sys2Proof.Machine

/-! ### Dies and classes -/

def updFlash (f : FlashSt → FlashSt) (s : State) : State := { s with flash := f s.flash }

def dieAt (s : State) (d : Nat) : Option Die := tabGet s.flash.dies d

def updDie (d : Nat) (f : Die → Die) : State → State := updFlash fun x => { x with dies := tabUpd x.dies d f }

def channelOf (die : Nat) : Nat := die / 32

def classAt (s : State) (c : Nat) : Option Class := tabGet s.media.classes c

/-- The die is neither retired nor excluded. -/
def Die.inUse (d : Die) : Bool := decide (d.mark ≠ .retired) && decide (d.mark ≠ .excluded)

def Die.slow (d : Die) : Bool := decide (d.mark = .slow) || decide (d.mark = .slowRate)

/-- Dies of a class in use. -/
def classDies (s : State) (c : Nat) : List (Nat × Die) :=
  s.flash.dies.filter fun p => decide (p.2.cls = c) && p.2.inUse

/-- Bytes of a die block of a class: rows × 64 KiB (R166, R167). -/
def blockBytes (s : State) (c : Nat) : Nat :=
  match classAt s c with
  | some k => k.rows * 65536
  | none => 0

/-! ### Retirement of a die (R262) -/

/-- A die that meets a condition of R262 is retired at the next boundary. -/
def judgeDie (die : Nat) (s : State) : State :=
  match dieAt s die with
  | none => s
  | some d =>
    let c := clk s
    let recent := d.timeouts.filter fun f => decide (c < f + 1048576)
    let bad := decide (3 ≤ recent.length) || (d.planeFails.any fun p => decide (4 ≤ p.2.1)) || decide (d.blocks < 40 * d.retiredBlocks)
    if d.inUse ∧ bad then updDie die (fun d => { d with due := some .retired }) s
    else updDie die (fun d => { d with timeouts := recent }) s

/-! ### Die blocks (R208, R212) -/

def blockKey (die b : Nat) : Nat := die * 16384 + b

/-- A die block that has never been used. -/
def DieBlock.fresh : DieBlock :=
  { pe := 0, st := .free, eg := 0, member := 0, pslc := false, rowOffset := 0, progFailed := false }

/-- The entry of a die block: each block of a retired die is in state 3 (R263). -/
def blockAt (s : State) (die b : Nat) : DieBlock :=
  let e := tabGetD s.media.blocks (blockKey die b) DieBlock.fresh
  match dieAt s die with
  | some d => if d.mark = .retired then { e with st := .retired } else e
  | none => e

def setBlock (die b : Nat) (x : DieBlock) : State → State :=
  updMedia fun m => { m with blocks := tabSet m.blocks (blockKey die b) x }

/-- The listed blocks of a die. -/
def dieBlocks (s : State) (die : Nat) : List (Nat × DieBlock) :=
  s.media.blocks.filter fun p => decide (p.1 / 16384 = die)

/-- Die blocks 0 to 15 of the dies that hold the image slots, target 0 LUN 0 of channels 0 to 31: no other group takes
one of them (R392; DEDUCED, log 119). -/
def slotBlock (die b : Nat) : Bool := decide (die % 32 = 0) && decide (die < 1024) && decide (b < 16)

/-- Free die blocks of a die. -/
def freeCount (s : State) (p : Nat × Die) : Nat :=
  let kept := (List.range (min 16 p.2.blocks)).filter fun b => slotBlock p.1 b && decide ((blockAt s p.1 b).st = .free)
  p.2.blocks - ((dieBlocks s p.1).filter fun b => decide (b.2.st ≠ .free)).length - kept.length

/-- The least-worn free die block: by PE, then by address (R212); its PE and address. -/
def leastWorn (s : State) (p : Nat × Die) : Option (Nat × Nat) :=
  let listed := (dieBlocks s p.1).filterMap fun b =>
    if b.2.st = .free ∧ !slotBlock p.1 (b.1 % 16384) then some (b.2.pe, b.1 % 16384) else none
  let new := ((List.range p.2.blocks).find? fun b => !slotBlock p.1 b && (tabGet s.media.blocks (blockKey p.1 b)).isNone).map
    fun b => (0, b)
  (listed ++ new.toList).foldl (fun best x =>
    match best with
    | none => some x
    | some y => if x.1 < y.1 ∨ (x.1 = y.1 ∧ x.2 < y.2) then some x else best) none

/-! ### Capacity (R213) -/

/-- Pantry capacity of a class, bytes. -/
def pantry (s : State) (c : Nat) : Nat := ((classDies s c).map fun p => freeCount s p).sum * blockBytes s c

/-- Raw capacity of a class, bytes. -/
def rawBytes (s : State) (c : Nat) : Nat := ((classDies s c).map fun p => p.2.blocks).sum * blockBytes s c

def Group.holds (g : Group) : Bool := decide (g.st = .opened) || decide (g.st = .closed)

/-- Capacity of the groups a namespace holds: until they are erased (R212, R352). -/
def heldBytes (s : State) (x : Nat) : Nat :=
  (s.media.groups.map fun p =>
    if p.2.nsx = x ∧ (p.2.holds ∨ p.2.st = .pendingErase) then p.2.width * blockBytes s p.2.cls else 0).sum

/-- What a namespace may still claim of its reservation. -/
def claimLeft (s : State) (p : Nat × Ns) : Nat := p.2.resv - heldBytes s p.1

/-- Claims Cr of a class. -/
def claims (s : State) (c : Nat) : Nat :=
  ((s.zone.nss.filter fun p => decide (p.2.cls = c)).map fun p => claimLeft s p).sum

/-- Headroom H. -/
def headroom (s : State) (c : Nat) : Int := (pantry s c : Int) - claims s c

/-- Pantry level in ten-thousandths, 0 when negative (R213). -/
def pantryLevel (s : State) (c : Nat) : Nat :=
  let raw := rawBytes s c
  if raw = 0 then 0 else (headroom s c * 10000).toNat / raw

/-- `v` bytes of class `c` stand at or above `m` ten-thousandths. -/
def atLeast (s : State) (c : Nat) (v : Int) (m : Nat) : Bool := decide ((m * rawBytes s c : Nat) ≤ v * 10000)

/-- Last-shelf mark S, low mark, high mark (R213). -/
def shelfMark : Nat := 50
def lowMark : Nat := 200
def highMark : Nat := 300

/-- The lowest pantry level of any class (NOTICE_3). -/
def lowestLevel (s : State) : Nat := (s.media.classes.map fun p => pantryLevel s p.1).foldl min 10000

/-! ### Erase groups -/

def updGroup (eg : Nat) (f : Group → Group) : State → State :=
  updMedia fun m => { m with groups := tabUpd m.groups eg f }

/-- The group uses a die that it has not lost: as a member or as a substitute. -/
def Group.uses (g : Group) (die : Nat) : Bool :=
  g.members.any fun m => (decide (m.die = die) && !m.lost) || m.substs.any fun x => decide (x.die = die) && !x.lost

/-- The die, block and page that hold row `r` of a member, and whether they are lost (R185, R205). -/
def Member.at (m : Member) (r : Nat) : Nat × Nat × Nat × Bool :=
  match m.substs.find? fun x => decide (x.off ≤ r) with
  | some x => (x.die, x.block, r - x.off, x.lost)
  | none => (m.die, m.block, r, m.lost)

/-- Member that holds data die-page `ddp` of row `r` (R168). -/
def dataMember (w r ddp : Nat) : Nat := if ddp < r % w then ddp else ddp + 1

/-- Units of a full row: 16 per data die-page (R169). -/
def rowUnits (w : Nat) : Nat := 16 * (w - 1)

def Loc.pos (l : Loc) : Nat := l.ddp * 16 + l.slot

def locOf (eg row pos : Nat) : Loc := { eg := eg, row := row, ddp := pos / 16, slot := pos % 16 }

/-- Groups open for writing that use a die (open blocks), and those on a channel (R183). -/
def openOn (s : State) (p : Nat → Bool) : Nat :=
  (s.media.groups.filter fun g => decide (g.2.st = .opened) && g.2.members.any fun m =>
    (!m.lost && p m.die) || m.substs.any fun x => !x.lost && p x.die).length

/-! ### new_group (R183) -/

/-- Insert by a key, smaller first, after equal keys. -/
def insKey {α : Type} (k : Nat) (a : α) : List (Nat × α) → List (Nat × α)
  | [] => [(k, a)]
  | (j, b) :: t => if j ≤ k then (j, b) :: insKey k a t else (k, a) :: (j, b) :: t

/-- Sort by a key. -/
def sortKey {α : Type} (f : α → Nat) (l : List α) : List α :=
  (l.foldl (fun acc a => insKey (f a) a acc) []).map (·.2)

/-- Wear step of a die: its least-worn free block's PE ÷ 16. -/
def wearStep (s : State) (p : Nat × Die) : Nat :=
  match leastWorn s p with
  | some (pe, _) => pe / 16
  | none => 0

/-- The best die of a channel among those allowed: lowest wear step, open blocks, die number. -/
def bestDie (s : State) (cls ch : Nat) (ok : Die → Bool) : Option (Nat × Die) :=
  (sortKey (fun p => wearStep s p * 2 ^ 40 + openOn s (fun d => decide (d = p.1)) * 2 ^ 20 + p.1)
    ((classDies s cls).filter fun p =>
      decide (channelOf p.1 = ch) && ok p.2 && decide (0 < freeCount s p))).head?

/-- Rank of a channel by its best die. -/
def channelKey (s : State) (p : Nat × Die) : Nat :=
  let ch := channelOf p.1
  wearStep s p * 2 ^ 60 + openOn s (fun d => decide (channelOf d = ch)) * 2 ^ 40 +
    openOn s (fun d => decide (d = p.1)) * 2 ^ 20 + ch

/-- The tracker ratio a die is ranked by as a slow fallback: its highest judged ratio. -/
def Die.ratio (d : Die) : Nat := max d.rRead.last (max d.rProg.last d.rErase.last)

/-- The first die of each channel that is not in `used`. -/
def spread (used : List Nat) : List (Nat × Die) → List (Nat × Die)
  | [] => []
  | p :: t => if used.contains (channelOf p.1) then spread used t else p :: spread (channelOf p.1 :: used) t

/-- Members of class `cls` for a group of width `w` on channels not in `taken`: normal dies first, then slow
ones; the dies, and whether slow dies were needed. -/
def pickClass (s : State) (cls w : Nat) (taken : List Nat) : List (Nat × Die) × Bool :=
  let chans := (List.range 128).filter fun c => !taken.contains c
  let normal := (sortKey (channelKey s)
    (chans.filterMap fun c => bestDie s cls c fun d => !d.slow)).take w
  let used := normal.map fun p => channelOf p.1
  let slow := (spread used (sortKey (fun p => p.2.ratio * 4096 + p.1)
    ((classDies s cls).filter fun p =>
      p.2.slow && !taken.contains (channelOf p.1) && decide (0 < freeCount s p)))).take (w - normal.length)
  (normal ++ slow, decide (normal.length < w))

/-- The members new_group chooses: class, dies in ascending channel order, slow fallback, class fallback. -/
def pickMembers (s : State) (cls w : Nat) : Option (Nat × List (Nat × Die) × Bool × Bool) :=
  (cls :: (s.media.classes.map (·.1)).filter fun c => decide (c ≠ cls)).findSome? fun c =>
    let (l, slow) := pickClass s c w []
    if l.length < w then none
    else some (c, sortKey (fun p => channelOf p.1) l, slow, decide (c ≠ cls))

/-- Wear band of a group from its highest PE count (R269). -/
def wearBand (k : Class) (pe : Nat) : Nat :=
  if 3 * pe < k.ratedPe then 0 else if 3 * pe < 2 * k.ratedPe then 1 else if pe < k.ratedPe then 2 else 3

/-- The lowest EGID not in use. -/
def freeEg (s : State) : Nat :=
  ((List.range (s.media.groups.length + 1)).find? fun i => (groupAt s i).isNone).getD 0

/-- What a group is wanted for. -/
structure Want where
  owner : Nat
  nsx : Nat
  cls : Nat
  width : Nat
  lc : Nat
  pg : Nat
  secdisc : Bool
  gc : Bool
  shelf : Bool
  /-- Predicted reset and first-write frame of the zone it is formed for (R181). -/
  pred : Option Int
  from_ : Int

/-- Take the least-worn free block of each die into group `eg` as members 0, 1, …. -/
def takeBlocks (eg : Nat) : Nat → List (Nat × Die) → State → List Member × State
  | _, [], s => ([], s)
  | i, p :: t, s =>
    let b := match leastWorn s p with
      | some (_, b) => b
      | none => 0
    let x := blockAt s p.1 b
    let s := setBlock p.1 b { x with st := .inGroup, eg := eg, member := i, rowOffset := 0, pslc := false } s
    let (ms, s) := takeBlocks eg (i + 1) t s
    ({ die := p.1, block := b, substs := [], lost := false } :: ms, s)

/-- The lowest number that no group holds by `f`. -/
def freeIndex (s : State) (f : Group → Option Nat) : Nat :=
  let used := s.media.groups.filterMap fun p => f p.2
  ((List.range (used.length + 1)).find? fun i => !used.contains i).getD 0

/-- The group takes a region map: it belongs to a secure-discard conventional namespace (R224). -/
def wantsMap (s : State) (w : Want) : Bool :=
  w.secdisc && match nsAt s w.nsx with
    | some n => !n.zoned
    | none => false

/-- A group as it is formed, of the members `ms`. -/
def freshGroup (s : State) (w : Want) (c : Nat) (ms : List Member) : Group :=
  let pe := (ms.map fun m => (blockAt s m.die m.block).pe).foldl max 0
  let (rows, band) := match classAt s c with
    | some k => (k.rows, wearBand k pe)
    | none => (0, 0)
  { owner := w.owner, nsx := w.nsx, lc := w.lc, pg := w.pg, shared := false, secdisc := w.secdisc,
    rebuild := false, subs := 0, width := w.width, cls := c, st := .opened, pslc := false,
    shelf := w.shelf, refresh := false, retire := false, pack := false, gc := w.gc, early := false,
    nextRow := 0, reserved := 0, rows := rows, valid := 0, pred := w.pred, predFrom := w.from_,
    lastProg := now s, members := ms, inFlight := [], regions := [], zones := [], band := band,
    victim := false, pendIdx := none, regionMap := if wantsMap s w then some (freeIndex s (·.regionMap)) else none,
    erasing := [] }

/-- Form a group of the members chosen; its rows are programmed once its EG_STATE is committed (R20). -/
def formGroup (w : Want) (c : Nat) (dies : List (Nat × Die)) (slow fallback : Bool) (s : State) : Nat × State :=
  let eg := freeEg s
  let (ms, s) := takeBlocks eg 0 dies s
  let g := freshGroup s w c ms
  let s := updMedia (fun m => { m with
    groups := tabSet m.groups eg g
    slowFallbacks := m.slowFallbacks + flag slow 1
    classFallbacks := m.classFallbacks + flag fallback 1 }) s
  (eg, submit { jrec .egState with eg := eg, egTo := some .opened } s)

/-- The tables hold one more group: 4,194,304 groups, 32,768 region maps (R199, R234). -/
def tablesHold (s : State) (w : Want) : Bool :=
  decide (s.media.groups.length < 4194304) &&
  (!wantsMap s w || decide ((s.media.groups.filter fun p => p.2.regionMap.isSome).length < 32768))

/-- Free rows of an open group that no claim has reserved. -/
def Group.freeRows (g : Group) : Nat := if g.early ∨ g.st ≠ .opened then 0 else g.rows - g.nextRow - g.reserved

/-! ### Claims (R214, R229, R230) -/

/-- A new group may be formed: within the namespace's reservation Cp ≥ S, otherwise H ≥ S, after it; a
last-shelf group needs only its members (R214, R229). -/
def mayForm (s : State) (w : Want) (c : Nat) (beyond : Bool) : Bool :=
  let cost := w.width * blockBytes s c
  let left := match nsAt s w.nsx with
    | some n => claimLeft s (w.nsx, n)
    | none => 0
  w.shelf ||
  (if !beyond && decide (cost ≤ left) then atLeast s c ((pantry s c : Int) - cost) shelfMark
   else atLeast s c (headroom s c - ((cost - left : Nat) : Int)) shelfMark)

/-- Form a new group under R214, or answer none. `beyond` marks rows that lie beyond the reservation whatever
it holds (pads, continuation rows, re-placements, relocation). -/
def newGroup (w : Want) (beyond : Bool) (s : State) : Option (Nat × State) :=
  match pickMembers s w.cls w.width with
  | none => none
  | some (c, dies, slow, fallback) =>
    if tablesHold s w ∧ mayForm s w c beyond then some (formGroup w c dies slow fallback s) else none

/-- A class enters the last-shelf state (R230 steps 2 to 5). -/
def enterLastShelf (c : Nat) (s : State) : State :=
  match classAt s c with
  | none => s
  | some k =>
    if k.lastShelf then s
    else setCritical 3 (setCritical 0
      (updMedia (fun m => { m with classes := tabSet m.classes c { k with lastShelf := true } }) s))

/-- A class leaves it when H and Cp stand 10 ten-thousandths above S (R231). -/
def leaveLastShelf (s : State) : State :=
  let s' := updMedia (fun m => { m with classes := tabMap (fun c k =>
    { k with lastShelf := k.lastShelf &&
        !(atLeast s c (headroom s c) (shelfMark + 10) && atLeast s c (pantry s c) (shelfMark + 10)) }) m.classes }) s
  if lastShelfUsed s ∧ !lastShelfUsed s' then
    clearCritical 0 (when (!s'.media.journalReadOnly) (clearCritical 3) s')
  else s'

/-! ### choose_group (R181, R183) -/

/-- A zone's prediction matches a group's (R181). -/
def matchesGroup (s : State) (g : Group) (pg : Nat) (pred : Option Int) (from_ : Int) : Bool :=
  match g.pred, pred with
  | some a, some b =>
    decide ((a - b).natAbs ≤ max (2 ^ 28) ((a - g.predFrom).natAbs / 2 ^ s.media.policy.matchShift))
  | none, none => decide (g.pg = pg) && decide ((g.predFrom - from_).natAbs ≤ 2 ^ 24)
  | _, _ => false

/-- The open groups a zone may share: owner, namespace and class equal, prediction matching, fewest free rows
first. -/
def sharable (s : State) (w : Want) : List (Nat × Group) :=
  sortKey (fun p => (p.2.rows - p.2.nextRow) * 2 ^ 24 + p.1)
    (s.media.groups.filter fun p =>
      decide (p.2.st = .opened) && !p.2.early && !p.2.shelf && !p.2.gc && decide (p.2.owner = w.owner) &&
      decide (p.2.nsx = w.nsx) && decide (p.2.lc = w.lc) && decide (0 < p.2.freeRows) &&
      matchesGroup s p.2 w.pg w.pred w.from_)

/-- choose_group: an open group that matches, else a new one. -/
def chooseGroup (w : Want) (beyond : Bool) (s : State) : Option (Nat × State) :=
  match (if w.secdisc then none else (sharable s w).head?) with
  | some (eg, _) => some (eg, s)
  | none => newGroup w beyond s

/-- Reserve a row of a group for a claim. -/
def reserveRow (eg : Nat) : State → State := updGroup eg fun g => { g with reserved := g.reserved + 1 }

/-! ### VALID and the pending-erase list (R207, R209, R216) -/

/-- The pending-erase list has a free entry, of 262,144 (R199, R234). -/
def pendRoom (s : State) : Bool := decide ((s.media.groups.filter fun p => p.2.pendIdx.isSome).length < 262144)

/-- Group `eg` takes an entry of the pending-erase list. -/
def takePend (eg : Nat) (s : State) : State :=
  let i := freeIndex s (·.pendIdx)
  updGroup eg (fun g => { g with pendIdx := some i }) s

/-- Put a group on the pending-erase list: it is there when the record is committed (R221 step 4). -/
def pendErase (eg : Nat) (s : State) : State :=
  if pendWaits s eg ∨ !pendRoom s then s
  else submit { jrec .erasePend with eg := eg, erase := [eg] } (takePend eg s)

/-- A closed group with no valid unit enters the pending-erase list at once. -/
def pendIfEmpty (eg : Nat) (s : State) : State :=
  match groupAt s eg with
  | none => s
  | some g => if g.st = .closed ∧ g.valid = 0 then pendErase eg s else s

/-- `n` map entries leave a group. -/
def loseValid (eg n : Nat) (s : State) : State :=
  pendIfEmpty eg (updGroup eg (fun g => { g with valid := g.valid - n }) s)

def gainValid (eg n : Nat) : State → State := updGroup eg fun g => { g with valid := g.valid + n }

/-- A group closes once every bound row is committed and no further row will be bound: its EG_STATE is submitted, whose
commit closes it (R207). -/
def closeIfDone (eg : Nat) (s : State) : State :=
  match groupAt s eg with
  | none => s
  | some g =>
    if g.st = .opened ∧ (g.early ∨ g.nextRow = g.rows) ∧ g.inFlight.isEmpty ∧ !egWaits s eg (· = .closed) then
      submit { jrec .egState with eg := eg, egTo := some .closed } s
    else s

/-- Close a group at its next row (R185, R197): its zones and namespace bind in new groups. -/
def closeEarly (eg : Nat) (s : State) : State :=
  closeIfDone eg (updGroup eg (fun g => { g with early := true, reserved := 0 }) s)

/-- No namespace and no zone binds in group `eg` any more. -/
def forgetGroup (eg : Nat) : State → State :=
  let other := fun (p : Nat × Nat) => decide (p.2 ≠ eg)
  let keep := fun (o : Option Nat) => if o = some eg then none else o
  updZone fun z => { z with
    nss := tabMap (fun _ n => { n with
      hostGroup := n.hostGroup.filter other, gcGroup := n.gcGroup.filter other
      claims := tabMap (fun _ l => l.filter fun k => decide (k ≠ eg)) n.claims, shelfGroup := keep n.shelfGroup }) z.nss
    zones := tabMap (fun _ r => { r with curGroup := keep r.curGroup, shelf := keep r.shelf, claims := r.claims.filter other }) z.zones }

/-! ### The refuge and system groups (R212, R227, R238) -/

/-- A group of the refuge area or of the flash system area: it has no owner and no namespace (R207). -/
def Group.area (g : Group) : Bool := decide (g.nsx = 0xFFFF)

/-- Rows of a group in pSLC mode: one bit a cell (DEDUCED, log 110). -/
def Class.pslcRows (k : Class) : Nat := k.rows / max 1 k.bitsPerCell

/-- Units a refuge group takes. -/
def Group.areaUnits (g : Group) : Nat := 16 * g.width * g.rows

/-- The first class that can hold refuge and system groups: one with pSLC (R238). -/
def areaClass (s : State) : Option Nat := (s.media.classes.find? fun p => p.2.pslc).map (·.1)

/-- Die blocks of the area on a channel. -/
def areaOn (s : State) (ch : Nat) : Nat :=
  ((s.media.groups.filter fun p => p.2.area).map fun p =>
    (p.2.members.filter fun m => decide (channelOf m.die = ch)).length).sum

/-- A die of each populated channel, the channels with the fewest die blocks of the area first, at most 32. -/
def areaDies (s : State) (c : Nat) : List (Nat × Die) :=
  sortKey (fun p => channelOf p.1)
    ((sortKey (fun p => areaOn s (channelOf p.1) * 128 + channelOf p.1)
      ((List.range 128).filterMap fun ch => bestDie s c ch fun _ => true)).take 32)

/-- The least-worn free block of a die joins the area as member `i` of group `eg`. -/
def areaBlock (eg i die b : Nat) (s : State) : State :=
  setBlock die b { blockAt s die b with st := .inGroup, eg := eg, member := i, rowOffset := 0, pslc := true } s

/-- Form a group of the refuge or the system area in state `st`. -/
def formArea (st : EgState) (s : State) : Option State :=
  match areaClass s with
  | none => none
  | some c =>
    let dies := areaDies s c
    let w : Want := { owner := 0xFFFF, nsx := 0xFFFF, cls := c, width := dies.length, lc := 0, pg := 0, secdisc := false,
                      gc := false, shelf := false, pred := none, from_ := 0 }
    if dies.isEmpty ∨ !tablesHold s w then none
    else
      let (eg, s) := formGroup w c dies false false s
      let rows := match classAt s c with
        | some k => k.pslcRows
        | none => 0
      let s := updGroup eg (fun g => { g with st := st, pslc := true, rows := rows }) s
      some (match groupAt s eg with
        | some g => forEach ((List.range g.members.length).zip g.members) (fun p => areaBlock eg p.1 p.2.die p.2.block) s
        | none => s)

/-- Refuge capacity, units: of every refuge group, and of those that are erased. -/
def refugeUnits (s : State) (p : Group → Bool) : Nat :=
  ((s.media.groups.filter fun g => g.2.area && decide (g.2.st ≠ .system) && p g.2).map fun g => g.2.areaUnits).sum

def refugeErased (s : State) : Nat := refugeUnits s fun g => decide (g.st = .refuge) && decide (g.nextRow = 0)

/-! ### The image slots (R392, R393) -/

def isSlotGroup (s : State) (eg : Nat) : Bool := s.media.slotGroups.any fun p => decide (p.2 = eg)

/-- The lowest die block of 0 to 15 of a slot die that is not bad or retired. -/
def slotChoice (s : State) (die : Nat) : Nat :=
  ((List.range 16).find? fun b =>
    let x := blockAt s die b
    decide (x.st ≠ .bad) && decide (x.st ≠ .retired)).getD 0

/-- The dies of copy `k` mod 2 of slot `k` ÷ 2 + 1: eight channels. -/
def slotDies (k : Nat) : List Nat := (List.range 8).map fun i => (8 * k + i) * 32

/-- The members of copy `k`, chosen afresh. -/
def slotMembers (s : State) (k : Nat) : List Member :=
  (slotDies k).map fun d => { die := d, block := slotChoice s d, substs := [], lost := false }

/-- The die blocks of a slot's group name it. -/
def joinSlot (eg : Nat) (ms : List Member) : State → State :=
  forEach ((List.range ms.length).zip ms) fun p => areaBlock eg p.1 p.2.die p.2.block

/-- Form the group of copy `k`, of width 8 in pSLC mode. -/
def formSlot (k : Nat) (s : State) : State :=
  if (tabGet s.media.slotGroups k).isSome then s
  else
    let eg := freeEg s
    let ms := slotMembers s k
    let c := ((ms.head?.bind fun m => dieAt s m.die).map (·.cls)).getD 0
    let w : Want := { owner := 0xFFFF, nsx := 0xFFFF, cls := c, width := 8, lc := 0, pg := 0, secdisc := false,
                      gc := false, shelf := false, pred := none, from_ := 0 }
    let rows := match classAt s c with
      | some x => x.pslcRows
      | none => 0
    let g := { freshGroup s w c ms with st := .system, pslc := true, rows := rows }
    joinSlot eg ms (updMedia (fun m => { m with
      groups := tabSet m.groups eg g, slotGroups := tabSet m.slotGroups k eg }) s)

/-- Erase copy `k` before it is programmed again: a cycle for each of its die blocks, which are then chosen afresh. -/
def eraseSlot (k : Nat) (s : State) : State :=
  match tabGet s.media.slotGroups k with
  | none => s
  | some eg => match groupAt s eg with
    | none => s
    | some g =>
      let s := forEach g.members (fun m s =>
        let x := blockAt s m.die m.block
        setBlock m.die m.block { DieBlock.fresh with pe := min (x.pe + 1) 131071, st := if x.st = .retired then .retired else .free } s) s
      let ms := slotMembers s k
      joinSlot eg ms (updGroup eg (fun g => { g with members := ms }) s)

/-- Form system groups up to `Config.systemGroups`, and refuge groups up to twice the landing buffer, while members are
found. -/
def formAreas : Nat → State → State
  | 0, s => s
  | k + 1, s =>
    let sys := (s.media.groups.filter fun p => decide (p.2.st = .system) && !isSlotGroup s p.1).length
    let st : Option EgState :=
      if sys < max 1 Config.systemGroups then some .system
      else if refugeUnits s (fun _ => true) < 2 * s.fw.cfg.lbSize * 2 ^ 18 then some .refuge else none
    match st.bind fun e => formArea e s with
    | some s => formAreas k s
    | none => s

/-- A system group that holds no wrapped keys. -/
def freeSystem (s : State) : Option Nat :=
  (s.media.groups.find? fun p =>
    decide (p.2.st = .system) && decide (s.media.keyArea ≠ some p.1) && !isSlotGroup s p.1).map (·.1)

/-- New wrapped keys or salts are written to another system group, formed where there is none; the group that held the
previous ones is to be erased (R324). -/
def rewrapKeys (s : State) : State :=
  let s := if (freeSystem s).isSome then s else (formArea .system s).getD s
  match freeSystem s with
  | none => s
  | some eg =>
    let old := s.media.keyArea.toList
    forEach old pendErase (updMedia (fun m => { m with keyArea := some eg, keyStale := m.keyStale ++ old }) s)

/-- Every refuge and system group the build is to have: those of the image slots, then the rest, at most one for each die
block; a system group holds the wrapped keys and salts. -/
def buildAreas (s : State) : State :=
  let s := formAreas 33554432 (forEach [0, 1, 2, 3] formSlot s)
  if s.media.keyArea.isSome then s else rewrapKeys s

/-- A group of the refuge or the system area has been erased: it returns to its area. A die block that is worn out for pSLC, or retired, is
replaced from the pantry; a group that finds no replacement leaves the area (R228). -/
def refugeAgain (eg : Nat) (s : State) : State :=
  match groupAt s eg with
  | none => s
  | some g =>
    let st : EgState := if s.media.keyStale.contains eg then .system else .refuge
    let s := updMedia (fun m => { m with keyStale := m.keyStale.filter fun k => decide (k ≠ eg) }) s
    let s := updGroup eg (fun g => { g with st := st, nextRow := 0, pendIdx := none, erasing := [], victim := false }) s
    forEach (List.range g.members.length) (fun i s =>
      match (groupAt s eg).bind fun g => g.members[i]? with
      | none => s
      | some m =>
        let x := blockAt s m.die m.block
        let worn := match classAt s g.cls with
          | some k => decide (k.pslcPe ≤ x.pe)
          | none => false
        if x.st ≠ .retired ∧ !worn then areaBlock eg i m.die m.block s
        else
          let s := if x.st = .retired then s else setBlock m.die m.block { DieBlock.fresh with pe := x.pe } s
          match bestDie s g.cls (channelOf m.die) fun _ => true with
          | none => updMedia (fun k => { k with groups := tabDel k.groups eg }) s
          | some p => match leastWorn s p with
            | none => s
            | some (_, b) =>
              areaBlock eg i p.1 b (updGroup eg (fun g => { g with members := g.members.set i { m with die := p.1, block := b } }) s)) s

end Sys2Proof.Machine
end

