-- ==== Sys2Proof/Machine/Landing.lean ====
section
/-! DEFINITION. The maps and the landing buffer: where a unit is, landing it, releasing and restoring it
(R29, R30, R206, R209, R548). -/

namespace Sys2Proof.Machine

/-! ### Lookup (R28 step 2, R29) -/

/-- Where the map places a unit. -/
inductive Place
  | unmapped
  | landing (e : Landed)
  | flash (l : Loc)

def landedAt (s : State) (order : Nat) : Option Landed :=
  s.media.landing.find? fun e => decide (e.order = order)

/-- The landed unit of a zone: the newest entry that holds it. -/
def landedUnit (s : State) (x u : Nat) : Option Landed :=
  (s.media.landing.filter fun e => decide (e.nsx = x) && decide (e.unit = u) && !e.committed).getLast?

def pmKey (x u : Nat) : Nat := x * 2 ^ 40 + u

def pmAt (s : State) (x u : Nat) : Option PmEntry := tabGet s.media.pageMap (pmKey x u)

def setPm (x u : Nat) (e : Option PmEntry) : State → State :=
  updMedia fun m => { m with pageMap := match e with
    | some e => tabSet m.pageMap (pmKey x u) e
    | none => tabDel m.pageMap (pmKey x u) }

/-- The committed place of a zone offset (R205). -/
def zoneLoc (r : Zone) (w off : Nat) : Option Loc :=
  let k := off / rowUnits w
  let p := off % rowUnits w
  ((tabGetD r.exts k []).find? fun e => decide (e.first ≤ p) && decide (p ≤ e.last)).map
    fun e => locOf e.eg e.prow p

/-- Where unit `u` of namespace `x` is. Units at or beyond a zone's capacity are never mapped (R149). -/
def lookup (s : State) (x : Nat) (n : Ns) (u : Nat) : Place :=
  if n.zoned then
    match landedUnit s x u with
    | some e => .landing e
    | none =>
      match tabGet s.zone.zones (zoneOfUnit n u) with
      | none => .unmapped
      | some r =>
        match zoneLoc r n.width (u % zoneUnits n) with
        | some l => .flash l
        | none => .unmapped
  else
    match pmAt s x u with
    | none => .unmapped
    | some (.flash l) => .flash l
    | some (.landing o) =>
      match landedAt s o with
      | some e => .landing e
      | none => .unmapped

/-- What has been programmed at a place. -/
def flashKey (l : Loc) : Nat := l.eg * 2 ^ 24 + l.row * 2 ^ 9 + l.pos

def flashAt (s : State) (l : Loc) : Option Stored := tabGet s.media.flash (flashKey l)

/-- The stored unit the map points to, if any. -/
def storedAt (s : State) (x : Nat) (n : Ns) (u : Nat) : Option Stored :=
  match lookup s x n u with
  | .unmapped => none
  | .landing e => some e.stored
  | .flash l => flashAt s l

/-! ### Entries -/

def updLanding (f : List Landed → List Landed) : State → State := updMedia fun m => { m with landing := f m.landing }

def updLanded (order : Nat) (f : Landed → Landed) : State → State :=
  updLanding fun l => l.map fun e => if e.order = order then f e else e

/-- Release an entry: it goes at once, or when no read pins it any more (R30). -/
def releaseEntry (order : Nat) : State → State :=
  updLanding fun l => l.filterMap fun e =>
    if e.order = order then (if e.pins = 0 then none else some { e with committed := true }) else some e

def pinEntry (order : Nat) : State → State := updLanded order fun e => { e with pins := e.pins + 1 }

def unpinEntry (order : Nat) : State → State :=
  updLanding fun l => l.filterMap fun e =>
    if e.order = order then
      (if e.committed ∧ e.pins ≤ 1 then none else some { e with pins := e.pins - 1 })
    else some e

/-- The lowest free slot of the landing buffer. -/
def landingSlot (s : State) : Nat :=
  ((List.range (s.media.landing.length + 1)).find? fun k => !(s.media.landing.any fun e => decide (e.slot = k))).getD 0

/-- Put a unit into the landing buffer; its map entry points there (R29), and a conventional unit holds its
earlier location (R548). -/
def land (x : Nat) (n : Ns) (u : Nat) (t : Stored) (writer : Option Nat) (lc : Nat) (s : State) : State :=
  let o := s.media.nextOrder
  let e : Landed :=
    { slot := landingSlot s, nsx := x, unit := u, stored := t, writer := writer, earlier := if n.zoned then none else pmAt s x u,
      bound := none, pins := 0, frame := clk s, order := o, lc := lc, committed := false }
  let s := updMedia (fun m => { m with landing := m.landing ++ [e], nextOrder := o + 1 }) s
  when (!n.zoned) (setPm x u (some (.landing o))) s

/-- An earlier location is released (R548): a place on flash loses a valid unit, a superseded landing entry
goes. -/
def releaseEarlier (e : Option PmEntry) (s : State) : State :=
  match e with
  | none => s
  | some (.flash l) => loseValid l.eg 1 s
  | some (.landing o) =>
    match landedAt s o with
    | none => s
    | some old => when (decide (old.writer = none)) (releaseEntry o) s

/-- Point a conventional unit's entry back to its earlier location (R548). -/
def restoreUnit (e : Landed) (s : State) : State :=
  let s := if pmAt s e.nsx e.unit = some (.landing e.order) then setPm e.nsx e.unit e.earlier s
    else if e.committed ∧ pmAt s e.nsx e.unit = e.bound.map .flash ∧ e.bound.isSome then
      forEach e.bound.toList (fun l => loseValid l.eg 1) (setPm e.nsx e.unit e.earlier s)
    else updLanding (fun l => l.map fun k =>
      if k.nsx = e.nsx ∧ k.unit = e.unit ∧ k.earlier = some (.landing e.order) then { k with earlier := e.earlier }
      else k) s
  releaseEntry e.order s

/-- The entries a work item has landed. -/
def landedBy (s : State) (seq : Nat) : List Landed :=
  s.media.landing.filter fun e => decide (e.writer = some seq)

/-- A write's completion is posted: its units are acknowledged and the earlier locations released (R548). -/
def acknowledge (seq : Nat) (s : State) : State :=
  let l := landedBy s seq
  let s := forEach l (fun e => updLanded e.order fun e => { e with writer := none, earlier := none }) s
  let s := forEach (l.filter fun e => e.committed) (fun e => releaseEntry e.order) s
  forEach l (fun e => releaseEarlier e.earlier) s

/-- A write ends before its completion: its landed units are released; conventional ones restore their
earlier content, zoned ones are unmapped (R145, R548). -/
def discardLanded (seq : Nat) (s : State) : State :=
  forEach (landedBy s seq) (fun e s =>
    match nsAt s e.nsx with
    | some n => if n.zoned then releaseEntry e.order s else restoreUnit e s
    | none => releaseEntry e.order s) s

/-! ### Extents (R204, R205) -/

/-- Add a zone row to the extents before it, the last first: a whole row extends the run before it where it lies in the
same group at the run's stride. -/
def addRow (ru : Nat) (acc : List Extent) (l : List ZPart) : List Extent :=
  match l with
  | [e] =>
    if e.first = 0 ∧ e.last + 1 = ru then
      match acc with
      | .run eg prow count stride :: t =>
        let last := prow + (count - 1) * stride
        if e.eg = eg ∧ last < e.prow ∧ e.prow - last ≤ 255 ∧ count < 4095 ∧ (count = 1 ∨ e.prow - last = stride) then
          .run eg prow (count + 1) (e.prow - last) :: t
        else .run e.eg e.prow 1 1 :: acc
      | _ => .run e.eg e.prow 1 1 :: acc
    else .part e.eg e.prow e.first e.last :: acc
  | _ => (l.map fun e => Extent.part e.eg e.prow e.first e.last).reverse ++ acc

/-- The extent entries of a zone. -/
def zoneExtents (s : State) (r : Zone) : List Extent :=
  match nsAt s r.nsx with
  | some n => (r.exts.foldl (fun acc p => addRow (rowUnits n.width) acc p.2) []).reverse
  | none => []

/-- Extent blocks of a zone: seven entries each. -/
def zoneBlocks (s : State) (r : Zone) : Nat := ((zoneExtents s r).length + 6) / 7

/-- Extent blocks in use, of 3,145,728. -/
def extentsUsed (s : State) : Nat := (s.zone.zones.map fun p => zoneBlocks s p.2).sum

def extentBlocks : Nat := 3145728

/-- The lowest `k` extent blocks that no zone has. -/
def freeBlocks (s : State) (k : Nat) : List Nat :=
  let used := (s.zone.zones.map fun p => p.2.blocks).flatten
  ((List.range (used.length + k)).filter fun i => !used.contains i).take k

/-- A zone has as many extent blocks as its extents fill. -/
def fitBlocks (z : Nat) (s : State) : State :=
  match tabGet s.zone.zones z with
  | none => s
  | some r =>
    let k := zoneBlocks s r
    let b := if k ≤ r.blocks.length then r.blocks.take k else r.blocks ++ freeBlocks s (k - r.blocks.length)
    setZone z { r with blocks := b } s

/-! ### Unmapping -/

/-- Parts of a zone row below unit position `p`, and the places of those cut off, as (group, count). -/
def cutParts (p : Nat) : List ZPart → List ZPart × List (Nat × Nat)
  | [] => ([], [])
  | e :: t =>
    let (ks, ds) := cutParts p t
    if e.last < p then (e :: ks, ds)
    else if p ≤ e.first then (ks, (e.eg, e.last + 1 - e.first) :: ds)
    else ({ e with last := p - 1 } :: ks, (e.eg, e.last + 1 - p) :: ds)

/-- The units of a zone from offset `off` on leave the landing buffer (R138, R145). -/
def dropLanded (z off : Nat) (s : State) : State :=
  match zoneAt s z with
  | none => s
  | some r =>
    match nsAt s r.nsx with
    | none => s
    | some n =>
      let base := r.idx * zoneUnits n
      forEach (s.media.landing.filter fun e =>
        decide (e.nsx = r.nsx) && decide (base + off ≤ e.unit) && decide (e.unit < base + zoneUnits n))
        (fun e => releaseEntry e.order) s

/-- The extents of a zone end at offset `off`. -/
def cutZone (z off : Nat) (s : State) : State :=
  match zoneAt s z with
  | none => s
  | some r =>
    match nsAt s r.nsx with
    | none => s
    | some n =>
      let ru := rowUnits n.width
      let rows := r.exts.map fun p => (p.1, cutParts (off - p.1 * ru) p.2)
      let gone := (rows.map fun p => p.2.2).flatten
      let kept := (rows.map fun p => (p.1, p.2.1)).filter fun p => !p.2.isEmpty
      let s := fitBlocks z (setZone z { r with exts := kept, wpFlash := min r.wpFlash off } s)
      forEach gone (fun p => loseValid p.1 p.2) s

/-- Copies of units `lo` to `hi - 1` of a namespace that a relocation has read or is reading are not bound (R155). -/
def dropCopies (x lo hi : Nat) (s : State) : State :=
  let range := fun (u : Nat) => decide (lo ≤ u) && decide (u < hi)
  let mine := fun (v : Nat) => match groupAt s v with
    | some g => decide (g.nsx = x)
    | none => false
  let cut := fun (v : Victim) => if mine v.eg then { v with copies := v.copies.filter fun c => !range c.1 } else v
  let s := updMedia (fun m => { m with victims := m.victims.map cut }) s
  { s with flash := { s.flash with reads := s.flash.reads.map fun r => match r.for_ with
    | .reloc _ => if r.nsx = x ∧ range r.unit then { r with for_ := .probe } else r
    | _ => r } }

/-- Unmap a zone's units from offset `off` on, in the landing buffer and on flash (R138, R350). -/
def unmapZoneFrom (z off : Nat) (s : State) : State :=
  let s := match (zoneAt s z).bind fun r => (nsAt s r.nsx).map fun n => (r, n) with
    | some (r, n) => dropCopies r.nsx (r.idx * zoneUnits n + off) ((r.idx + 1) * zoneUnits n) s
    | none => s
  dropLanded z off (cutZone z off s)

/-- Unmap one conventional unit: its entry goes, and with it what it pointed to. -/
def unmapUnit (x u : Nat) (s : State) : State :=
  match pmAt s x u with
  | none => s
  | some e =>
    let s := setPm x u none s
    match e with
    | .flash l => loseValid l.eg 1 s
    | .landing o =>
      match landedAt s o with
      | none => s
      | some k => releaseEntry o (releaseEarlier k.earlier (updLanded o (fun k => { k with earlier := none }) s))

def unmapUnits (x first n : Nat) (s : State) : State :=
  forEach ((s.media.pageMap.filter fun p => decide (pmKey x first ≤ p.1) && decide (p.1 < pmKey x first + n)).map
    fun p => p.1 - pmKey x 0) (fun u => unmapUnit x u) s

/-- The page-map segments that a commit changes become dirty, oldest change first (R206). -/
def markSegs (l : List Nat) : State → State :=
  updMedia fun m => { m with dirtySegs := m.dirtySegs ++ (l.filter fun g => !m.dirtySegs.contains g) }

end Sys2Proof.Machine
end

