-- ==== Sys2Proof/Machine/Tables.lean ====
section
/-! DEFINITION. The home tables as the journal store holds them, the page-map checkpoint, and lines that a read finds
failing (chapters Translation, Wear and Free Space, and Crossings, Failures and Ordering). -/

namespace Sys2Proof.Machine

/-! ### The records of the home tables (R203, R204, R207, R208, R224) -/

/-- A zone record. -/
def zoneRecord (s : State) (z : Nat) : List Byte :=
  match zoneAt s z with
  | none => zeros 32
  | some r => zoneHead r.st r ++ le r.wpFlash 4 ++ frameBytes r.firstWrite ++ frameBytes r.pred ++
      le (r.blocks.head?.getD 0xFFFFFFFF) 4 ++ le r.nsx 2 ++ zeros 2

/-- Extent block `b` of a zone: NEXT, USED and seven extent entries. -/
def extentBlock (s : State) (r : Zone) (b : Nat) : List Byte :=
  let i := r.blocks.findIdx fun k => decide (k = b)
  let l := ((zoneExtents s r).drop (7 * i)).take 7
  bvBytes (BitVec.ofNat 64 (r.blocks.getD (i + 1) 0xFFFFFFFF + l.length * 2 ^ 32)) ++
    padTo 56 (l.map fun e => bvBytes e.word).flatten

/-- A group record. -/
def groupRecord (s : State) (eg : Nat) : List Byte :=
  match groupAt s eg with
  | none => zeros 32
  | some g => le (if g.st = .refuge ∨ g.st = .system then 0xFFFF else g.owner) 2 ++
      le (if g.st = .refuge ∨ g.st = .system then 0xFFFF else g.nsx) 2 ++ groupHead g g.st ++ le g.nextRow 2 ++
      le g.rows 2 ++ le g.valid 4 ++ frameBytes g.pred ++ frameBytes (some g.lastProg)

def BlkState.code : BlkState → Nat
  | .free => 0
  | .inGroup => 1
  | .incomplete => 2
  | .retired => 3
  | .bad => 4

/-- A die-block entry. -/
def blockEntry (x : DieBlock) : List Byte :=
  bvBytes (BitVec.ofNat 64 (min x.pe 131071 + x.st.code * 2 ^ 17 + x.eg % 2 ^ 24 * 2 ^ 21 + x.member % 32 * 2 ^ 45 +
    flag x.pslc (2 ^ 50) + x.rowOffset % 4096 * 2 ^ 51))

/-- The die and the block of the die-block table's entry `i`. -/
def blockOf : List (Nat × Die) → Nat → Option (Nat × Nat)
  | [], _ => none
  | p :: t, i => if i < p.2.blocks then some (p.1, i) else blockOf t (i - p.2.blocks)

/-- Bits `lo` to `lo + 511` of a region map. -/
def mapBits (l : List Nat) (lo : Nat) : List Byte :=
  (List.range 64).map fun i => BitVec.ofNat 8 ((List.range 8).foldl (fun k b =>
    k + if l.contains (lo + 8 * i + b) then 2 ^ b else 0) 0)

/-- What a home line holds in the device's view; nothing for the tables whose entries no rule gives. -/
def lineBytes (s : State) (line : Nat) : List Byte :=
  let i := line % 2 ^ 40
  match line / 2 ^ 40 with
  | 1 => zoneRecord s (2 * i) ++ zoneRecord s (2 * i + 1)
  | 2 => match s.zone.zones.find? fun p => p.2.blocks.contains i with
    | some p => extentBlock s p.2 i
    | none => zeros 64
  | 3 => groupRecord s (2 * i) ++ groupRecord s (2 * i + 1)
  | 4 => ((List.range' (8 * i) 8).map fun k => match blockOf s.flash.dies k with
    | some b => blockEntry (blockAt s b.1 b.2)
    | none => zeros 8).flatten
  | 6 => match s.media.groups.find? fun p => decide (p.2.regionMap = some (i / 4)) with
    | some p => mapBits p.2.regions (i % 4 * 512)
    | none => zeros 64
  | _ => []

/-- A home line is written with what the device's view holds. -/
def writeLine (line : Nat) (s : State) : State :=
  let b := lineBytes s line
  updMedia (fun m => { m with home := if b.isEmpty then m.home else tabSet m.home line b }) s

/-! ### Lines that a read finds failing (R501, R503) -/

/-- The number of a line (R199): a ring line by the SEQ of a record in it. -/
def lineNumber : JLine → Nat
  | .home l => l
  | .ages i => 8 * 2 ^ 40 + i
  | .ring q => 9 * 2 ^ 40 + q
  | .cfg b i => (if b then 11 else 10) * 2 ^ 40 + i
  | .calib i => 12 * 2 ^ 40 + i
  | .attic i => 13 * 2 ^ 40 + i
  | .mantel i => 14 * 2 ^ 40 + i
  | .since i => 15 * 2 ^ 40 + i

/-- The record `q` is written again at the ring head; the tail does not pass the damaged line until that is done. -/
def rewriteRec (q : Nat) (s : State) : State :=
  match s.media.uncopied.find? fun r => decide (r.seq = q) && !r.damaged with
  | none => s
  | some r =>
    let s := updMedia (fun m => { m with uncopied := m.uncopied.map fun k => if k.seq = q then { k with damaged := true } else k }) s
    submit { r with again := some q, items := [] } s

/-- Set DAMAGED in a record of an area of the recorder. -/
def damageEntry (t : Tab Record) (k : Nat) : Tab Record :=
  tabUpd t k fun r => { r with flags := { r.flags with damaged := true } }

/-- The learned ages that lie in line `i`: four entries. -/
def dropAges (i : Nat) (s : State) : State :=
  let gone := (s.media.agesSaved.drop (4 * i)).take 4
  let keep := fun (l : List AgeEntry) => l.filter fun e =>
    !(gone.any fun g => decide (g.inst = e.inst) && decide (g.lc = e.lc) && decide (g.pg = e.pg))
  updMedia (fun m => { m with ages := keep m.ages, agesSaved := keep m.agesSaved }) s

/-- An uncorrectable line is rebuilt while the device runs (R503). -/
def rebuildLine (l : JLine) (s : State) : State :=
  match l with
  | .ring q => rewriteRec q s
  | .home k => writeLine k s
  | .cfg b _ =>
    let c := newestCfg s
    { s with fw := if b then { s.fw with copyB := some c } else { s.fw with copyA := some c } }
  | .calib _ => s
  | .ages i => dropAges i s
  | .mantel i => recEvent 0x19 { s with recd := { s.recd with mantel := damageEntry s.recd.mantel (i / 32) } }
  | .attic i => { s with recd := { s.recd with attic := damageEntry s.recd.attic (i / 32) } }
  | .since _ => s

/-- A line that needs correction on three reads within one record period is replaced; before that it is rewritten in
place (R501). -/
def correctLine (line : Nat) (s : State) : State :=
  let n := tabGetD s.media.corrected line 0 + 1
  if n < 3 then updMedia (fun m => { m with corrected := tabSet m.corrected line n }) s
  else replaceLine line (updMedia (fun m => { m with corrected := tabDel m.corrected line }) s)

def readLine (f : LineFind) (s : State) : State :=
  if f.uncorrectable then rebuildLine f.line s else correctLine (lineNumber f.line) s

/-- The failing lines that an access to the journal store has found. -/
def readLines (l : List LineFind) (s : State) : State := if booted s then forEach l readLine s else s

/-! ### The way home (R200) -/

/-- A home line may be written: some committed record changes it and its last write is 2^17 frames old. -/
def lineDue (s : State) (line : Nat) : Bool :=
  (s.media.uncopied.any fun r => r.todo.contains line) &&
  match tabGet s.media.homeWrites line with
  | some f => decide (f + 131072 ≤ clk s)
  | none => true

/-- Write a home line with every change that has arrived, and advance the ring tail (R200). -/
def homeLineWrite (line : Nat) (readBackOk : Bool) (finds : List LineFind) (s : State) : State :=
  if !booted s ∨ s.media.journalReadOnly ∨ !lineDue s line then s
  else
    let s := when (!readBackOk) (replaceLine line) (readLines finds s)
    if s.media.journalReadOnly then s
    else
      advanceTail (updMedia (fun m => { m with
        homeWrites := tabSet m.homeWrites line (clk s)
        uncopied := m.uncopied.map fun r => { r with todo := r.todo.filter fun l => decide (l ≠ line) } })
        (writeLine line s))

def execHomeLineWrite (line : Nat) (reads : HomeReads) (s : State) : Host.Outcome State Fault Refusal :=
  act (homeLineWrite line reads.readBackOk reads.finds) s

/-! ### The page-map checkpoint (R206) -/

/-- The place on flash that the ring records give an entry: for a landed unit its earlier location's. -/
def durablePlace (s : State) : Nat → PmEntry → Option Loc
  | _, .flash l => some l
  | 0, .landing _ => none
  | k + 1, .landing o => match landedAt s o with
    | some e => e.earlier.bind (durablePlace s k)
    | none => none

/-- A page-map entry (R206). -/
def pmWord (s : State) (e : Option PmEntry) : Quad :=
  match e with
  | none => 0
  | some (.landing o) => BitVec.ofNat 64 (2 ^ 62 + match landedAt s o with
    | some k => k.slot
    | none => 0)
  | some (.flash l) => BitVec.ofNat 64 (2 ^ 63 + l.eg + l.row * 2 ^ 24 + l.ddp * 2 ^ 36 + l.slot * 2 ^ 41)

/-- A segment's 512 entries as they stand on flash. -/
def segEntries (s : State) (seg : Nat) : Tab Loc :=
  let lo := pmKey (seg / 2 ^ 31) (seg % 2 ^ 31 * 512)
  s.media.pageMap.filterMap fun p =>
    if lo ≤ p.1 ∧ p.1 < lo + 512 then (durablePlace s s.media.landing.length p.2).map fun l => (p.1, l) else none

/-- The 4 KiB of a segment. -/
def segBytes (s : State) (seg : Nat) (t : Tab Loc) : List Byte :=
  let lo := pmKey (seg / 2 ^ 31) (seg % 2 ^ 31 * 512)
  ((List.range 512).map fun i => bvBytes (pmWord s ((tabGet t (lo + i)).map PmEntry.flash))).flatten

/-- The dies of the flash system area, each of a channel of its own. -/
def systemDies (s : State) : List Nat :=
  ((s.media.groups.filter fun p => decide (p.2.st = .system) && !isSlotGroup s p.1).map fun p => p.2.members.map (·.die)).flatten.eraseDups

/-- Two dies of different channels for a segment's copies. -/
def copyDies (s : State) (seg : Nat) : List Nat :=
  match systemDies s with
  | [] => []
  | d :: t =>
    let l := d :: t
    let a := l.getD (seg % l.length) d
    a :: (l.find? fun b => decide (channelOf b ≠ channelOf a)).toList

/-- Write a page-map segment to the checkpoint, twice in pSLC; segments go oldest change first (R206). -/
def checkpointWrite (seg : Nat) (s : State) : State :=
  if !booted s ∨ flushing s ∨ s.media.dirtySegs.head? ≠ some seg ∨ (copyDies s seg).length < 2 then s
  else
    let t := segEntries s seg
    let c : Ckpt := { seq := s.media.nextJSeq - s.media.ring.length - 1, crc := crc64 (segBytes s seg t),
                      dies := copyDies s seg, entries := t }
    advanceTail (updMedia (fun m => { m with
      dirtySegs := m.dirtySegs.filter fun g => decide (g ≠ seg)
      checkpoint := tabSet m.checkpoint seg c
      uncopied := m.uncopied.map fun r => { r with segs := r.segs.filter fun g => decide (g ≠ seg) } }) s)

def execCheckpointSegmentWrite (seg : Nat) (s : State) : Host.Outcome State Fault Refusal :=
  act (checkpointWrite seg) s

/-- Checkpoint programs take precedence over collection on the dies of the system area while the ring is more than 75 %
full (R206). -/
def checkpointFirst (s : State) (die : Nat) : Bool :=
  decide (3 * 2 ^ 24 < 4 * ringUsed s) && !s.media.dirtySegs.isEmpty && (systemDies s).contains die

end Sys2Proof.Machine
end

