-- ==== Sys2Proof/Machine/IoOps.lean ====
section
/-! DEFINITION. I/O commands: parse checks, barriers, the order of zone writes, claims, failures and drains
(chapters Host Queues and NVMe Commands, and Zoned and Conventional Namespaces). -/

namespace Sys2Proof.Machine

/-! ### Statuses of zones (R136, R142) -/

def stZoneBoundary : Status := mkStatus 1 0xB8 true
def stZoneFull : Status := mkStatus 1 0xB9 true
def stZoneReadOnly : Status := mkStatus 1 0xBA true
def stZoneOffline : Status := mkStatus 1 0xBB true
def stZoneInvalidWrite : Status := mkStatus 1 0xBC true
def stTooManyActive : Status := mkStatus 1 0xBD false
def stZoneTransition : Status := mkStatus 1 0xBF true
def stInvalidFormat : Status := mkStatus 1 0x0A true
def stDeallocated : Status := mkStatus 2 0x87 true

/-! ### Handles (R110, R150) -/

def Sqe.dtype (e : Sqe) : Nat := bits e.cdw12.toNat 23 20

/-- The placement handle: DSPEC with DTYPE 1 on a Write or Zone Append, else 0. -/
def Sqe.handle (e : Sqe) : Nat :=
  if (e.opc.toNat = 0x01 ∨ e.opc.toNat = 0x7D) ∧ e.dtype = 1 then bits e.cdw13.toNat 31 16 else 0

def handleLc (h : Nat) : Nat := bits h 14 12
def handlePg (h : Nat) : Nat := bits h 11 0

/-! ### Parse checks (R104, R110, R143) -/

/-- The SGL descriptor of a command: Data Block, Segment and Last Segment only, 4-byte aligned. -/
def sglFault (e : Sqe) : Option Status :=
  if e.psdt = 0 then none
  else if e.psdt = 3 then some stInvalidField
  else if !([0, 2, 3].contains (bits e.dptr.toNat 127 124)) then some stSglType
  else if bits e.dptr.toNat 1 0 ≠ 0 then some stInvalidField
  else none

/-- What keeps I/O from every namespace: no valid configuration record, or a Sanitize (R104, R160, R414). -/
def blockedAll (s : State) (it : Item) : Option Status :=
  if s.fw.cfgState = 2 then some stNsNotReady
  else if s.zone.san.st = .failed then some stSanitizeFailed
  else if (s.zone.san.st = .running ∨ s.zone.san.st = .waiting) ∧ s.zone.san.startFrame < it.fetched then
    some stSanitizeInProgress
  else none

/-- What keeps I/O from a namespace: the same, an instance sanitise, a Format started since (R158, R354). -/
def blockedBy (s : State) (n : Ns) (it : Item) : Option Status :=
  match blockedAll s it with
  | some st => some st
  | none => match n.fmt with
    | some p =>
      if p.startFrame < it.fetched then
        some (match tabGet s.inst.insts n.owner with
          | some i => if i.st = .sanitising then stSanitizeInProgress else stFormatInProgress
          | none => stFormatInProgress)
      else none
    | none => none

/-- The commands that carry a number of logical blocks. -/
def hasRange (o : Nat) : Bool := [0x01, 0x02, 0x08, 0x0C, 0x7D].contains o

/-- Parse an I/O command whose opcode its namespace accepts: the first failing check's status, or the
namespace. -/
def parseIo (s : State) (it : Item) : Status ⊕ (Nat × Ns) :=
  let e := it.sqe
  let o := it.opc
  if e.fuse ≠ 0 then .inl stInvalidField
  else match sglFault e with
    | some st => .inl st
    | none =>
      match nsOf s it.id.fn e.nsid.toNat with
      | none => .inl stInvalidNamespace
      | some (x, n) =>
        match blockedBy s n it with
        | some st => .inl st
        | none =>
          if hasRange o ∧ (2 ^ 21 < e.nlb * lbaData n.lbaf ∨ (o ≠ 0x08 ∧ e.cdw12.getLsbD 24) ∨
              ((o = 0x01 ∨ o = 0x7D) ∧ 1 < e.dtype)) then .inl stInvalidField
          else if (hasRange o ∨ (o = 0x79 ∧ !e.cdw13.getLsbD 8) ∨ o = 0x7A) ∧
              n.nsze < e.slba + (if hasRange o then e.nlb else 1) then .inl stLbaRange
          else .inr (x, n)

/-! ### Barriers (R113) -/

/-- Commands fetched from the item's queue and not completed, by whether they were fetched before it. -/
def earlierInQueue (s : State) (it : Item) : List Item :=
  s.host.items.filter fun k =>
    decide (k.id.fn = it.id.fn) && decide (k.id.sq = it.id.sq) && decide (k.seq < it.seq)

/-- A frame boundary lies between frame `f` and now. -/
def boundarySince (s : State) (f : Option Nat) : Bool :=
  match f with
  | some a => decide (a < clk s)
  | none => true

def sqAt (s : State) (id : CmdId) : Option Sq :=
  match ctlOf s id.fn with
  | some c => tabGet c.sqs id.sq
  | none => none

/-- No barrier holds the item: an ORD command waits for every earlier command of its queue, any command for
every earlier ORD command, and then for a frame boundary. -/
def barrierOpen (s : State) (it : Item) : Bool :=
  match sqAt s it.id with
  | none => true
  | some q =>
    if it.sqe.ord then (earlierInQueue s it).isEmpty && boundarySince s q.lastPost
    else !((earlierInQueue s it).any fun k => k.sqe.ord) && boundarySince s q.lastOrd

/-! ### Zones and the items that write them (R141) -/

/-- The zone an item writes, when its namespace is zoned. -/
def itemZone (s : State) (it : Item) : Option Nat :=
  if isWriteOpc it.opc then
    match nsOf s it.id.fn it.sqe.nsid.toNat with
    | some (_, n) => if n.zoned then some (zoneOfUnit n it.sqe.slba) else none
    | none => none
  else none

/-- Started and not completed. -/
def Item.running (it : Item) : Bool := decide (it.phase = .started) || decide (it.phase = .done)

/-- Items that write zone `z`. -/
def zoneItems (s : State) (z : Nat) : List Item := s.host.items.filter fun it => decide (itemZone s it = some z)

/-- Every write to the zone fetched before the item has started (R141). -/
def zoneTurn (s : State) (z : Nat) (it : Item) : Bool :=
  !((zoneItems s z).any fun k => decide (k.seq < it.seq) && !k.running)

/-- Space in the landing buffer for a write that starts now (R448, R449, R228). -/
def landingRoom (s : State) : Bool :=
  if s.media.writeThrough then decide (landedBytes s < landingLimit s)
  else decide (landedBytes s ≤ landingLimit s) && decide (s.media.lbSize * 2 ^ 18 ≤ refugeErased s)

/-! ### Learned ages (R178 to R180) -/

/-- The predicted age 2^(MEAN/16) in frames, rounded down (log 19). -/
def ageOf (mean : Int) : Nat :=
  let m := mean.toNat
  (List.range (m / 16 + 1)).reverse.foldl (fun k i => if (k + 2 ^ i) ^ 16 ≤ 2 ^ m then k + 2 ^ i else k) 0

/-- log2 of an age in 1/16, rounded down; an age of 0 counts as 1 frame (R179). -/
def ageSample (age : Nat) : Int := Nat.log2 ((max age 1) ^ 16)

/-- The PG of an aggregate entry. -/
def anyPg : Nat := 4096

def ageEntry (s : State) (inst lc pg : Nat) : Option Learned :=
  (s.media.ages.find? fun e => decide (e.inst = inst) && decide (e.lc = lc) && decide (e.pg = pg)).map (·.age)

/-- The age of an entry with at least 4 samples at the boundary that began the frame. -/
def knownAge (s : State) (inst lc pg : Nat) : Option Nat :=
  match ageEntry s inst lc pg with
  | some e =>
    let k := if e.used = (clk s : Int) then e.was else (e.count, e.mean)
    if 4 ≤ k.1 then some (ageOf k.2) else none
  | none => none

/-- The predicted age of a zone (R180): its entry's, else the aggregate's, else the policy's default. -/
def predictAge (s : State) (inst lc pg : Nat) : Option Nat :=
  (knownAge s inst lc pg).or ((knownAge s inst lc anyPg).or
    (match tabGet s.media.policy.lcAge lc with
     | some 0 => none
     | some e => some (2 ^ e)
     | none => none))

/-! ### Claims (R214) -/

def zoneWant (s : State) (z : Nat) (r : Zone) (n : Ns) (shelf : Bool) : Want :=
  let b := r.bind.getD (0, 0)
  let _ := (s, z)
  { owner := n.owner, nsx := r.nsx, cls := n.cls, width := n.width, lc := b.1, pg := b.2, secdisc := n.secdisc,
    gc := false, shelf := shelf, pred := r.pred, from_ := r.firstWrite.getD 0 }

/-- Reserve one more row for zone row `k` in the zone's current group or in one chosen; none when it is
refused. A continuation row needs H ≥ S (R171). -/
def claimRow (z k : Nat) (n : Ns) (cont : Bool) (s : State) : Option State :=
  match zoneAt s z with
  | none => none
  | some r =>
    let take := fun (eg : Nat) (s : State) =>
      updZoneRec z (fun r => { r with curGroup := some eg, claims := tabSet r.claims k eg }) (reserveRow eg s)
    if cont ∧ !atLeast s n.cls (headroom s n.cls) shelfMark then none
    else
      match r.curGroup.bind fun eg => (groupAt s eg).bind fun g => if 0 < g.freeRows then some eg else none with
      | some eg => some (take eg s)
      | none =>
        match chooseGroup (zoneWant s z r n false) cont s with
        | some (eg, s) => some (take eg s)
        | none => none

/-- Zone row `k` has units bound or committed already: what follows in it is a continuation (R171). -/
def rowStarted (s : State) (z : Nat) (r : Zone) (k : Nat) : Bool :=
  !(tabGetD r.exts k []).isEmpty || s.media.rowOps.any fun o => decide (o.zone = some (z, k))

/-- Claim every row a write of `cnt` units at offset `off` needs beyond those claimed. -/
def claimRows (z : Nat) (n : Ns) : List Nat → State → Option State
  | [], s => some s
  | k :: t, s =>
    match zoneAt s z with
    | none => none
    | some r =>
      if (tabGet r.claims k).isSome then claimRows z n t s
      else match claimRow z k n (rowStarted s z r k) s with
        | some s => claimRows z n t s
        | none => none

def rowsOf (n : Ns) (off cnt : Nat) : List Nat :=
  List.range' (off / rowUnits n.width) ((off + cnt - 1) / rowUnits n.width + 1 - off / rowUnits n.width)

/-- Units of a namespace and class that a row is still to be found for: landed and not bound, and those that
started writes have yet to land. -/
def unboundUnits (s : State) (x lc : Nat) : Nat :=
  (s.media.landing.filter fun e =>
    decide (e.nsx = x) && decide (e.lc = lc) && e.bound.isNone && !e.committed).length +
  (s.host.items.map fun it =>
    if it.phase = .started ∧ isWriteOpc it.opc ∧ handleLc it.sqe.handle = lc ∧
        (nsOf s it.id.fn it.sqe.nsid.toNat).map (·.1) = some x
    then it.count - it.doneUnits.length else 0).sum

/-- Outcome of a conventional claim. -/
inductive Claimed
  | ok (s : State)
  /-- beyond the reservation: the write waits (R220) -/
  | wait
  /-- refused with 0x80 -/
  | refused

def nsClaims (n : Ns) (lc : Nat) : List Nat := tabGetD n.claims lc []

/-- Claim `k` more rows of a conventional namespace's group for a lifetime class. -/
def claimConv (x lc : Nat) : Nat → State → Claimed
  | 0, s => .ok s
  | k + 1, s =>
    match nsAt s x with
    | none => .refused
    | some n =>
      let take := fun (eg : Nat) (s : State) =>
        updNs x (fun n => { n with hostGroup := tabSet n.hostGroup lc eg,
                                   claims := tabSet n.claims lc (nsClaims n lc ++ [eg]) }) (reserveRow eg s)
      match (tabGet n.hostGroup lc).bind fun eg =>
          (groupAt s eg).bind fun g => if 0 < g.freeRows then some eg else none with
      | some eg => claimConv x lc k (take eg s)
      | none =>
        let w : Want := { owner := n.owner, nsx := x, cls := n.cls, width := n.width, lc := lc, pg := 0,
                          secdisc := n.secdisc, gc := false, shelf := false, pred := none, from_ := 0 }
        if claimLeft s (x, n) < n.width * blockBytes s n.cls then .wait
        else match newGroup w false s with
          | some (eg, s) => claimConv x lc k (take eg s)
          | none => .refused

/-- The device finishes a zone whose timed finish has fired once no write to it is outstanding (R139,
R140). -/
def deviceFinish (z : Nat) (s : State) : State :=
  match zoneAt s z with
  | none => s
  | some r =>
    if r.finishing ∧ r.drain.isNone ∧ r.st.isActive ∧ !((zoneItems s z).any Item.running) ∧
        !(s.media.ring.any fun j => j.zst.contains (z, .finished)) then
      submit { jrec .zoneState with zst := [(z, .finished)] } s
    else s

/-! ### Failures before completion (R117, R145, R146) -/

/-- Zone offset of a started item. -/
def zoneOff (n : Ns) (it : Item) : Nat := it.unit % zoneUnits n

/-- Claims of zone rows that no remaining write needs are given up. -/
def dropClaims (z from_ : Nat) (s : State) : State :=
  match zoneAt s z with
  | none => s
  | some r =>
    let gone := r.claims.filter fun p => decide (from_ ≤ p.1)
    let s := updZoneRec z (fun r => { r with claims := r.claims.filter fun p => decide (p.1 < from_) }) s
    forEach gone (fun p => updGroup p.2 fun g => { g with reserved := g.reserved - 1 }) s

/-- An UNMAP record of a command that ends with another outcome unmaps nothing (R117). -/
def stopUnmap (seq : Nat) (s : State) : State :=
  let stop := fun (r : JRec) =>
    if r.type = .unmap ∧ r.items.contains seq then
      sealRec s { r with unmap := r.unmap.map (fun p => (p.1, p.2.1, 0)), items := [], segs := [] }
    else r
  updMedia (fun m => { m with ring := m.ring.map stop }) s

/-- Only the group whose SECURE_STEP has been submitted is still finished for a secure discard. -/
def cutDiscard (seq : Nat) (s : State) : State :=
  let stepped := fun (g : Nat) => pendWaits s g || match groupAt s g with
    | some k => decide (k.st = .pendingErase)
    | none => false
  updZone (fun z => { z with discards := z.discards.map fun d =>
    if d.seq = seq then { d with begun := true, stale := [], current := d.current.filter stepped } else d }) s

/-- Latch an outcome for an item whose outcome is open, and let go of what it has landed and of what it would still
unmap. -/
def stopWrite (seq : Nat) (st : Status) (s : State) : State :=
  discardLanded seq (cutDiscard seq (stopUnmap seq (latch seq st 0 0 s)))

/-- A started write to zone `z` fails with status `st`: the failure offset is fixed, later writes are marked
0x81, the accept pointer returns (R145 steps 1 and 2, R146). -/
def zoneFail (z seq : Nat) (st : Status) (s : State) : State :=
  match zoneAt s z, itemBySeq s seq with
  | some r, some it =>
    match nsAt s r.nsx with
    | none => s
    | some n =>
      let off := match r.drain with
        | some d => min d.offset (zoneOff n it)
        | none => zoneOff n it
      let from_ := match r.drain with
        | some d => d.from_
        | none => s.host.nextSeq
      let later := (zoneItems s z).filter fun k =>
        k.running && k.outcome.isNone && decide (off < zoneOff n k) && decide (k.seq ≠ seq)
      let s := stopWrite seq st s
      let s := forEach later (fun k => stopWrite k.seq stEarlierFailure) s
      let old := match r.drain with
        | some d => d.marked
        | none => []
      let cut := r.exts.any fun p => decide (off < (p.1 + 1) * rowUnits n.width) &&
        p.2.any fun e => decide (off ≤ p.1 * rowUnits n.width + e.last)
      let s := dropLanded z off s
      let s := when cut (submit { jrec .unmap with unmap := some (r.nsx, r.idx * zoneUnits n + off, zoneUnits n - off) }) s
      let s := dropClaims z ((off + rowUnits n.width - 1) / rowUnits n.width) s
      updZoneRec z (fun r => { r with
        ap := off
        drain := some { offset := off, marked := (old ++ seq :: later.map (·.seq)).eraseDups, from_ := from_ } }) s
  | _, _ => s

/-- A sensing of the read has been issued and its decode is still to come. -/
def RdOp.flying (r : RdOp) : Bool :=
  match r.st with
  | .sensing => true
  | .decoding => true
  | .members _ _ => true
  | _ => false

/-- The read requests of a work item end: pinned entries are let go. Sensings already issued run on (R292). -/
def dropReads (seq : Nat) (s : State) : State :=
  let mine := s.flash.reads.filter fun r => decide (r.for_ = .host seq) || decide (r.for_ = .merge seq)
  let s := forEach mine (fun r s => match r.pin with
    | some o => unpinEntry o s
    | none => s) s
  let keep := fun (r : RdOp) =>
    if r.for_ ≠ .host seq ∧ r.for_ ≠ .merge seq then some r
    else if r.flying then some { r with for_ := .probe, pin := none } else none
  updFlash (fun f => { f with reads := f.reads.filterMap keep }) s

/-- A command without a latched outcome ends with status `st` before its completion (R117, R119, R122). -/
def failItem (seq : Nat) (st : Status) (s : State) : State :=
  match itemBySeq s seq with
  | none => s
  | some it =>
    if it.outcome.isSome then s
    else if it.running then
      match itemZone s it with
      | some z => zoneFail z seq st s
      | none =>
        if isWriteOpc it.opc then
          let s := stopWrite seq st (dropReads seq s)
          if s.zone.discards.any fun d => decide (d.seq = seq) then s else postItem seq s
        else finishBad seq st (dropReads seq s)
    else finishBad seq st s

end Sys2Proof.Machine
end

