-- ==== Sys2Proof/Machine/Writes.lean ====
section
/-! DEFINITION. Writes: parse, start, landing and completion (chapters Host Queues and NVMe Commands, Zoned
and Conventional Namespaces, and R25). -/

namespace Sys2Proof.Machine

/-- An I/O command may be processed: the hall runs, no activation hold keeps it at the porch, and its parse is due
(R124). -/
def ioOpen (s : State) (it : Item) : Bool :=
  it.io && hallRuns s && !it.held && it.outcome.isNone &&
    (decide (it.phase ≠ .fetched) || (shardRuns s it.id.fn it.id.sq && inTurn s it))

/-! ### Start of a zone write (R135, R142, R151, R180) -/

/-- The checks of R142 in their order; none when the write may start. A write whose SLBA an earlier write's failure has
made stale gets Zone Invalid Write by this order, where R123's row for it has 0x81 (DEDUCED, log 102). -/
def zoneChecks (s : State) (it : Item) (n : Ns) (r : Zone) : Option Status :=
  let app := decide (it.opc = 0x7D)
  let off := it.sqe.slba % zoneUnits n
  if r.st = .offline then some stZoneOffline
  else if r.st = .readOnly then some stZoneReadOnly
  else if r.st = .full ∨ r.finishing then some stZoneFull
  else if app ∧ off ≠ 0 then some stInvalidField
  else if !app ∧ off ≠ r.ap then some stZoneInvalidWrite
  else if zoneCap n < r.ap + it.sqe.nlb then some stZoneBoundary
  else if r.st = .empty ∧ zoneAlloc s it.id.fn ≤ zonesUsed s it.id.fn then some stTooManyActive
  else match r.drain with
    | some d => if d.offset < (if app then r.ap else off) then some stEarlierFailure else none
    | none => none

/-- The zone as the first write after leaving Empty leaves it: LC and PG bound, the first-write frame and the
prediction taken (R151, R180). -/
def firstWrite (s : State) (n : Ns) (h : Nat) (r : Zone) : Zone :=
  let b := r.bind.getD (handleLc h, handlePg h)
  let r := { r with bind := some b }
  match r.firstWrite with
  | some _ => r
  | none =>
    let p := (predictAge s n.owner b.1 b.2).map fun a => (clk s : Int) + a
    { r with firstWrite := some (clk s : Int), pred := p }

/-- What a write's start does to its zone: Empty and Closed become Implicitly Opened, committed by a
ZONE_STATE record; the accept pointer advances by the command's length (R136, R142). -/
def openForWrite (z : Nat) (it : Item) (n : Ns) (r : Zone) (s : State) : State :=
  let opens := decide (r.st = .empty) || decide (r.st = .closed)
  let r1 := firstWrite s n it.sqe.handle r
  let s1 := setZone z { r1 with st := if opens then .implicit else r.st, ap := r.ap + it.sqe.nlb } s
  let s2 := updItem it.seq (fun i => { i with
    phase := .started
    hold := .none
    unit := r.idx * zoneUnits n + r.ap
    count := it.sqe.nlb
    waitRec := if opens then some s.media.nextJSeq else none }) s1
  when opens (tell z r.st r.fzr) s2

/-- Count host units landed, for their owner and for the device (R193, R196). -/
def countLanded (owner cnt : Nat) : State → State := updMedia fun m =>
  { m with
    hostUnits := m.hostUnits + cnt
    amps := tabUpd m.amps owner fun a => { a with host := a.host + cnt, hostMin := a.hostMin + cnt } }

/-- All units of a Write Zeroes land as zeros (R144, R303, R305). -/
def landZeros (x : Nat) (n : Ns) (it : Item) (first cnt : Nat) (s : State) : State :=
  let g32 := match ctlOf s it.id.fn with
    | some c => c.guard32
    | none => false
  let guard := guardOf n.lbaf g32 (zeros (lbaData n.lbaf))
  let meta_ := fun (u : Nat) =>
    if piSize n = 0 ∨ !it.sqe.pract then []
    else ((List.range (blocksPerUnit n)).map fun j =>
      piBytes n g32 guard it.sqe.appTag (expectedRef n it.sqe ((u - first) * blocksPerUnit n + j))).flatten
  let s := forEach (List.range' first cnt) (fun u s =>
    land x n u (encryptUnit s x n u 0 (BitVec.ofNat 512 (leNat (meta_ u))) true) (some it.seq)
      (handleLc it.sqe.handle) s) s
  let s := countLanded n.owner cnt s
  let s := meter n.owner (fun m => { m with bytesWritten := m.bytesWritten + 4096 * cnt }) s
  updItem it.seq (fun i => { i with doneUnits := List.range' first cnt, phase := .done }) s

/-- A zone write starts (R142): a failing check completes it with no effect on the zone; a refused claim ends
it with 0x80. -/
def startZoned (z x : Nat) (n : Ns) (it : Item) (s : State) : State :=
  match zoneAt s z with
  | none => s
  | some r =>
    if s.media.journalReadOnly then finishBad it.seq stJournal s
    else match zoneChecks s it n r with
      | some st => finishBad it.seq st s
      | none =>
        let s := openForWrite z it n r s
        match (if n.blocked then none else claimRows z n (rowsOf n r.ap it.sqe.nlb) s) with
        | none => zoneFail z it.seq stCapacityReserve (enterLastShelf n.cls s)
        | some s =>
          if it.opc = 0x08 then landZeros x n it (r.idx * zoneUnits n + r.ap) it.sqe.nlb s else s

/-- A zone write starts once every write to the zone fetched before it has started, no barrier holds it, the
drain it was fetched in has ended and landing space allows (R141, R145 step 3, R448). -/
def tryZoned (z x : Nat) (n : Ns) (it : Item) (s : State) : State :=
  match zoneAt s z with
  | none => s
  | some r =>
    let drains := match r.drain with
      | some d => decide (d.from_ ≤ it.seq)
      | none => false
    let wait := fun (h : Hold) => updItem it.seq (fun i => { i with phase := .waiting, hold := h }) s
    if !barrierOpen s it ∨ !zoneTurn s z it then wait .order
    else if drains then wait .drain
    else if !landingRoom s then wait .landing
    else startZoned z x n it s

/-! ### Start of a conventional write (R153, R154, R214, R220) -/

/-- Rows a conventional write of `cnt` units must claim. -/
def rowsShort (s : State) (x : Nat) (n : Ns) (lc cnt : Nat) : Nat :=
  (unboundUnits s x lc + cnt + rowUnits n.width - 1) / rowUnits n.width - (nsClaims n lc).length

/-- Units fully covered by the blocks of a command. -/
def wholeUnits (n : Ns) (slba nlb : Nat) : Nat × Nat :=
  let b := blocksPerUnit n
  let first := (slba + b - 1) / b
  (first, (slba + nlb) / b - first)

/-- The region of a unit, of 2,048 (R224). -/
def regionOf (n : Ns) (u : Nat) : Nat := u * 2048 / max 1 (nsUnits n)

/-- A secure discard of a range on a secure-discard conventional namespace begins (R155, R225): relocation leaves the
range alone from now on. -/
def beginDiscard (seq x : Nat) (first cnt : Nat) (s : State) : State :=
  updZone (fun z => { z with discards := z.discards ++
    [{ seq := seq, nsx := x, first := first, count := cnt, begun := false, stale := [], current := [] }] })
    (dropCopies x first (first + cnt) s)

/-- Deallocate a range: at once with an UNMAP record whose commit completes the command, or by the steps of a
secure discard. -/
def deallocate (x : Nat) (n : Ns) (ranges : List (Nat × Nat)) (it : Item) (s : State) : State :=
  let s := updItem it.seq (fun i => { i with phase := .started, ranges := ranges }) s
  let live := ranges.filter fun r => decide (0 < r.2)
  if n.secdisc then
    if live.isEmpty then finishOk it.seq s
    else forEach live (fun r s => beginDiscard it.seq x r.1 r.2 s) s
  else
    let last := live.length - 1
    let s := forEach ((List.range live.length).zip live) (fun p =>
      submit { jrec .unmap with unmap := some (x, p.2.1, p.2.2), items := if p.1 = last then [it.seq] else [] }) s
    when live.isEmpty (finishOk it.seq) s

/-- A conventional write starts: it claims the rows it needs; beyond the reservation it waits (R220), refused
it ends with 0x80. -/
def startConv (x : Nat) (n : Ns) (it : Item) (s : State) : State :=
  if s.media.journalReadOnly then finishBad it.seq stJournal s
  else if n.blocked ∧ !(it.opc = 0x08 ∧ it.sqe.cdw12.getLsbD 25) then finishBad it.seq stCapacityReserve s
  else if it.opc = 0x08 ∧ it.sqe.cdw12.getLsbD 25 then
    deallocate x n [wholeUnits n it.sqe.slba it.sqe.nlb] it s
  else
    let first := firstUnit n it.sqe.slba
    let cnt := unitCount n it.sqe.slba it.sqe.nlb
    let lc := handleLc it.sqe.handle
    match claimConv x lc (rowsShort s x n lc cnt) s with
    | .wait => updItem it.seq (fun i => { i with phase := .waiting, hold := .reserve }) s
    | .refused => finishBad it.seq stCapacityReserve (enterLastShelf n.cls s)
    | .ok s =>
      let k := s.host.nextStart
      let s := updItem it.seq (fun i => { i with phase := .started, hold := .none, unit := first, count := cnt, start := k }) s
      let s := { s with host := { s.host with nextStart := k + 1 } }
      if it.opc = 0x08 ∧ lbaData n.lbaf = 4096 then landZeros x n it first cnt s else s

def tryConv (x : Nat) (n : Ns) (it : Item) (s : State) : State :=
  let wait := fun (h : Hold) => updItem it.seq (fun i => { i with phase := .waiting, hold := h }) s
  if !barrierOpen s it then wait .order
  else if !landingRoom s ∧ !(it.opc = 0x08 ∧ it.sqe.cdw12.getLsbD 25) then wait .landing
  else startConv x n it s

/-- Start a parsed write if nothing holds it. -/
def tryWrite (x : Nat) (n : Ns) (it : Item) (s : State) : State :=
  if n.zoned then tryZoned (zoneOfUnit n it.sqe.slba) x n it s else tryConv x n it s

/-! ### Rows that parse a write -/

/-- Parse a fetched command of opcode `opc` and start it if nothing holds it. -/
def writeRow (opc : Nat) (ok : Ns → Bool) (id : CmdId) (s : State) : State :=
  match findItem s id with
  | none => s
  | some it =>
    if it.opc ≠ opc ∨ it.phase ≠ .fetched ∨ !ioOpen s it then s
    else match parseIo s it with
      | .inl st => finishBad it.seq st s
      | .inr (x, n) =>
        if ok n then tryWrite x n it (updItem it.seq (fun i => { i with phase := .waiting }) s) else s

def execWrite (id : CmdId) (s : State) : Host.Outcome State Fault Refusal := act (writeRow 0x01 (fun _ => true) id) s

def execWriteZeroes (id : CmdId) (s : State) : Host.Outcome State Fault Refusal :=
  act (writeRow 0x08 (fun _ => true) id) s

def execZoneAppend (id : CmdId) (s : State) : Host.Outcome State Fault Refusal :=
  act (writeRow 0x7D (fun n => n.zoned) id) s

/-- A waiting command for which `ready` holds starts. -/
def startRow (ready : Item → Ns → Bool) (id : CmdId) (s : State) : State :=
  match findItem s id with
  | none => s
  | some it =>
    if it.phase ≠ .waiting ∨ !ioOpen s it ∨ !isWriteOpc it.opc then s
    else match nsOf s id.fn it.sqe.nsid.toNat with
      | none => s
      | some (x, n) => if ready it n then tryWrite x n it s else s

def execZoneWriteStart (id : CmdId) (s : State) : Host.Outcome State Fault Refusal :=
  act (startRow (fun _ n => n.zoned) id) s

/-- A conventional write that waits for its namespace's reservation starts once a group has been freed
(R220). -/
def execConventionalWriteWaitEnd (id : CmdId) (s : State) : Host.Outcome State Fault Refusal :=
  act (startRow (fun it n => !n.zoned && decide (it.hold = .reserve)) id) s

/-- A write that waits at start for landing space starts once occupancy has fallen to L or below (R448). -/
def execLandingSpaceWaitEnd (id : CmdId) (s : State) : Host.Outcome State Fault Refusal :=
  act (fun s => startRow (fun it _ => decide (it.hold = .landing) && landingRoom s) id s) s

/-! ### Landing (R25 steps 2 to 4, R299, R302 to R305, R307) -/

/-- The blocks of a unit that the command writes: first block of the unit in the command, and how many. -/
def blockSpan (n : Ns) (e : Sqe) (u : Nat) : Nat × Nat :=
  let b := blocksPerUnit n
  let lo := max e.slba (u * b)
  let hi := min (e.slba + e.nlb) (u * b + b)
  (lo - u * b, hi - lo)

/-- The reference tags of an append remapped to the assigned LBA (R303). -/
def remapPi (n : Ns) (g32 : Bool) (u : Nat) (p : List Byte) : List Byte :=
  let w := refBytes n g32
  p.take (piSize n - w) ++ be (u % 2 ^ (8 * w)) w

/-- The PI stored for the blocks of a unit: the porch's with PRACT, else the host's, with an append's
reference tags remapped where PIREMAP says. -/
def storedPi (n : Ns) (g32 : Bool) (e : Sqe) (u first : Nat) (data pi : List (List Byte)) : List (List Byte) :=
  ((List.range data.length).zip data).map fun p =>
    let i := first + p.1
    if e.pract then piBytes n g32 (guardOf n.lbaf g32 p.2) e.appTag (expectedRef n e i)
    else
      let h := pi.getD p.1 []
      if e.opc.toNat = 0x7D ∧ e.cdw12.getLsbD 25 ∧ n.pit ≠ 3 then remapPi n g32 u h else h

/-- Put the written blocks of a unit into its old bytes. -/
def mergeAt (off : Nat) (new old : List Byte) : List Byte := putAt off new old

/-- A partial unit waits for an earlier write of the unit to be acknowledged or to fail (R154). -/
def unitBusy (s : State) (x u seq start : Nat) : Bool :=
  (s.media.landing.any fun e => decide (e.nsx = x) && decide (e.unit = u) &&
    match e.writer with
    | some w => decide (w ≠ seq)
    | none => false) ||
  s.host.items.any fun k => decide (k.start < start) && k.running && k.outcome.isNone && isWriteOpc k.opc &&
    decide ((nsOf s k.id.fn k.sqe.nsid.toNat).map (·.1) = some x) &&
    decide (k.unit ≤ u) && decide (u < k.unit + k.count)

/-- The plaintext and metadata of an old unit for a read-modify-write; none where it cannot be used (R154, R309). -/
def plainUnit (s : State) (x : Nat) (n : Ns) (u : Nat) (t : Stored) : Option (List Byte × List Byte) :=
  if t.hdr.poison ∨ innerCheck t.data t.meta_ t.hdr ≠ t.check then none
  else
    let p := openUnit s x n u t
    if p.ok then some (bvBytes p.data, bvBytes p.meta_) else none

/-- The old unit of a partial write: zeros where it is not mapped, what the landing buffer or the read cache holds, else
what the read of it from flash has brought; none while that read is still to come. -/
inductive OldUnit
  | ready (old : Option (List Byte × List Byte))
  | wait (s : State)

def oldUnit (s : State) (seq x : Nat) (n : Ns) (u : Nat) : OldUnit :=
  match s.flash.reads.find? fun r => decide (r.for_ = .merge seq) && decide (r.unit = u) with
  | some r => match r.st with
    | .decoded t => .ready (plainUnit s x n u t)
    | _ => .wait s
  | none => match lookup s x n u with
    | .unmapped => .ready (some (zeros 4096, zeros 64))
    | .landing e => .ready (plainUnit s x n u e.stored)
    | .flash l => match s.flash.cache.find? fun e => decide (e.1 = l) with
      | some e => .ready (plainUnit s x n u e.2)
      | none =>
        let r : RdOp :=
          { id := s.flash.nextRead, for_ := .merge seq, nsx := x, unit := u, loc := l, step := 1, extra := 0, lr := false,
            fua := true, back := none, st := .requested, frame := if s.frame.inputOpen then clk s else clk s + 1, senses := [],
            noBack := false, resensed := false, pin := none, second := false }
        .wait { s with flash := { s.flash with reads := s.flash.reads ++ [r], nextRead := s.flash.nextRead + 1 } }

/-- The read of an old unit ends with its use. -/
def endMerge (seq u : Nat) (s : State) : State :=
  { s with flash := { s.flash with reads := s.flash.reads.filter fun r => !(decide (r.for_ = .merge seq) && decide (r.unit = u)) } }

/-- The LBAs a work item acts on: first and end. An append's are known once they are assigned. -/
def lbaSpans (n : Ns) (k : Item) : List (Nat × Nat) :=
  if k.opc = 0x7D then [(k.unit * blocksPerUnit n, (k.unit + k.count) * blocksPerUnit n)]
  else if k.opc = 0x09 then k.ranges.map fun r => (r.1 * blocksPerUnit n, (r.1 + r.2) * blocksPerUnit n)
  else if hasRange k.opc then [(k.sqe.slba, k.sqe.slba + k.sqe.nlb)]
  else []

/-- Another command that has started and is not completed shares LBAs of unit `u` with the item (R116). -/
def overlapped (s : State) (x : Nat) (n : Ns) (u : Nat) (it : Item) : Bool :=
  s.host.items.any fun k => decide (k.seq ≠ it.seq) && k.running &&
    decide ((nsOf s k.id.fn k.sqe.nsid.toNat).map (·.1) = some x) &&
    (lbaSpans n k).any fun b => (lbaSpans n it).any fun a =>
      decide (max (max a.1 b.1) (u * blocksPerUnit n) < min (min a.2 b.2) ((u + 1) * blocksPerUnit n))

/-- What a unit holds once overlapping commands have met there (R116): the content of the command that lands, what
it held before, or a mixture, which the stored check shows. Which of them is free (log 23). -/
def overlapResult (s : State) (x : Nat) (n : Ns) (u : Nat) (t : Stored) : Stored :=
  match Config.overlapPick s.media.nextOrder % 3 with
  | 0 => t
  | 1 => (storedAt s x n u).getD (encryptUnit s x n u 0 0 true)
  | _ => { t with check := t.check + 1 }

/-- The CRC-64 that the porch computes over each received sector of a partial unit and its LBA (R305). -/
def sectorCrcs (lba : Nat) (blocks : List (List Byte)) : List Quad :=
  ((List.range blocks.length).zip blocks).map fun p => crc64 (p.2 ++ le (lba + p.1) 8)

/-- The sector CRCs of a partial unit verify; a whole unit has none. -/
def sectorsOk (lba : Nat) (blocks : List (List Byte)) (crcs : List Quad) : Bool :=
  crcs.isEmpty || decide (sectorCrcs lba blocks = crcs)

/-- Land unit `u` of a started write: `data` are the 4 KiB the link delivered (the blocks of the command in
their places), `pi` the metadata of those blocks. A unit that a command covers in part waits until its old unit is read
(R154). A unit that a Write Zeroes covers in part carries the ZEROS flag as a whole one does (DESIGN CHOICE, log 118). -/
def landUnit (it : Item) (x : Nat) (n : Ns) (u : Nat) (data : UnitData) (pi : List Byte) (s : State) : State :=
  let g32 := match ctlOf s it.id.fn with
    | some c => c.guard32
    | none => false
  let wz := decide (it.opc = 0x08)
  let (b0, cnt) := blockSpan n it.sqe u
  let bs := lbaData n.lbaf
  let ms := lbaMeta n.lbaf
  let first := u * blocksPerUnit n + b0 - it.sqe.slba
  let first := if it.opc = 0x7D then u - it.unit else first
  let (b0, cnt) := if it.opc = 0x7D then (0, 1) else (b0, cnt)
  let new := if wz then zeros (cnt * bs) else ((bvBytes data).drop (b0 * bs)).take (cnt * bs)
  let blocks := pieces bs cnt new
  let pis := if wz then List.replicate cnt (zeros ms) else pieces ms cnt pi
  let fault := if n.pit = 0 ∨ ms = 0 ∨ it.sqe.pract ∨ wz then none
    else piFaults n g32 it.sqe first (blocks.zip pis)
  match fault with
  | some st => failItem it.seq st (recDataErr 4 1 s)
  | none =>
    let mine := if ms = 0 then []
      else if n.pit = 0 then pis
      else storedPi n g32 it.sqe (unitLba n u) first blocks pis
    match (if cnt = blocksPerUnit n then .ready (some (zeros 4096, zeros 64)) else oldUnit s it.seq x n u) with
    | .wait s => s
    | .ready none => failItem it.seq stUnrecovered s
    | .ready (some (old, oldMeta)) =>
      let d := mergeAt (b0 * bs) new old
      let m := mergeAt (b0 * ms) mine.flatten oldMeta
      let crcs := if cnt = blocksPerUnit n then [] else sectorCrcs (unitLba n u + b0) blocks
      let p := stage (BitVec.ofNat 32768 (leNat d)) (BitVec.ofNat 512 (leNat m)) (unitHdr s x n u wz)
      match (if sectorsOk (unitLba n u + b0) blocks crcs then sealUnit s x n u p else none) with
      | none => failItem it.seq stInternal (recDataErr 0 1 s)
      | some t =>
      let t := if overlapped s x n u it then overlapResult s x n u t else t
      let s := land x n u t (some it.seq) (handleLc it.sqe.handle) (endMerge it.seq u s)
      let s := countLanded n.owner 1 s
      let s := meter n.owner (fun m => { m with bytesWritten := m.bytesWritten + cnt * bs }) s
      let s := when (!wz) (updCtl it.id.fn fun c => { c with dataWritten := c.dataWritten + cnt * bs }) s
      updItem it.seq (fun i =>
        let l := u :: i.doneUnits
        { i with doneUnits := l, phase := if l.length = i.count then .done else .started }) s

/-- A unit of a started write has arrived (R25 steps 2 to 4). A generation that is no longer current discards
it (R299). -/
def unitLanded (id : CmdId) (u : Nat) (data : UnitData) (pi : List Byte) (s : State) : State :=
  match findItem s id with
  | none => s
  | some it =>
    if it.phase ≠ .started ∨ it.outcome.isSome ∨ !isWriteOpc it.opc ∨ !hallRuns s ∨
        it.gen ≠ tabGetD s.inst.gens id.fn 0 ∨ u < it.unit ∨ it.unit + it.count ≤ u ∨ it.doneUnits.contains u then s
    else match nsOf s id.fn it.sqe.nsid.toNat with
      | none => s
      | some (x, n) =>
        if (blockSpan n it.sqe u).2 ≠ blocksPerUnit n ∧ !n.zoned ∧ unitBusy s x u it.seq it.start then s
        else landUnit it x n u data pi s

def execUnitLanded (id : CmdId) (u : Nat) (data : UnitData) (pi : List Byte) (s : State) :
    Host.Outcome State Fault Refusal :=
  act (unitLanded id u data pi) s

/-! ### Completion (R111, R115, R135, R136, R449, R548) -/

/-- Every unit a work item has landed is mapped durably (write-through, R449): none is left in the landing
buffer with it as writer, and each map commit is done. -/
def allMapped (s : State) (seq : Nat) : Bool := (landedBy s seq).all fun e => e.committed

/-- No write to the zone with a lower offset is outstanding (R115). -/
def zoneOrder (s : State) (z : Nat) (it : Item) : Bool :=
  !((zoneItems s z).any fun k => k.running && decide (k.unit < it.unit))

/-- The completion's own conditions: the work done, the zone record it reports durable (R136), in
write-through every map update durable. -/
def mayPost (s : State) (it : Item) : Bool :=
  decide (it.phase = .done) && it.outcome.isNone &&
  (match it.waitRec with
   | some j => committed s j
   | none => true) &&
  (!s.media.writeThrough || allMapped s it.seq)

/-- A write's completion is posted: the zone's write pointer becomes its end (R141), its units are
acknowledged (R548). -/
def postWrite (n : Ns) (it : Item) (s : State) : State :=
  let app := decide (it.opc = 0x7D)
  let s := acknowledge it.seq s
  let s := match itemZone s it with
    | some z => updZoneRec z (fun r => { r with wp := max r.wp (zoneOff n it + it.count) }) s
    | none => s
  let s := finish it.seq stOk (if app then wordOf (it.unit % 2 ^ 32) else 0)
    (if app then wordOf (it.unit / 2 ^ 32) else 0) s
  match itemZone s it with
  | some z => deviceFinish z s
  | none => s

/-- Post the completion of a write whose work is done, in zone offset order. A write that ends at the zone's
capacity first commits the zone's move to Full, which posts it (R136, R115). -/
def writePost (id : CmdId) (s : State) : State :=
  match findItem s id with
  | none => s
  | some it =>
    if !isWriteOpc it.opc ∨ flushing s ∨ !booted s ∨ !mayPost s it then s
    else match nsOf s id.fn it.sqe.nsid.toNat with
      | none => s
      | some (_, n) =>
        match itemZone s it with
        | none => postWrite n it s
        | some z =>
          if !zoneOrder s z it then s
          else if zoneOff n it + it.count = zoneCap n then
            updItem it.seq (fun i => { i with waitRec := some s.media.nextJSeq })
              (submit { jrec .zoneState with zst := [(z, .filled)], items := [it.seq] } s)
          else postWrite n it s

def execWriteCompletionPost (id : CmdId) (s : State) : Host.Outcome State Fault Refusal := act (writePost id) s

/-! ### Drains (R145) -/

/-- Post the completions of a drained zone in offset order (R145 step 4). -/
def drainEnd (z : Nat) (s : State) : State :=
  match (zoneAt s z).bind (·.drain) with
  | none => s
  | some d =>
    let marked := d.marked.filterMap fun q => itemBySeq s q
    let low := match zoneAt s z, (zoneAt s z).bind fun r => nsAt s r.nsx with
      | some r, some n => r.idx * zoneUnits n + d.offset
      | _, _ => 0
    if flushing s ∨ (zoneItems s z).any (fun k => k.running && decide (k.unit < low)) then s
    else
      let s := forEach (sortKey (fun it => it.unit * 2 ^ 64 + it.seq) marked) (fun it => postItem it.seq) s
      deviceFinish z (updZoneRec z (fun r => { r with drain := none }) s)

def execZoneDrainEnd (z : Nat) (s : State) : Host.Outcome State Fault Refusal := act (drainEnd z) s

/-! ### Barriers (R113) -/

/-- A command a barrier has held starts: a write here, a read in Reads.lean. -/
def barrierWrite (id : CmdId) (s : State) : State :=
  startRow (fun it _ => barrierOpen s it) id s

/-- Flush completes at once: every completed write is durable in the landing buffer (R27, R111). -/
def flushIo (id : CmdId) (s : State) : State :=
  match findItem s id with
  | none => s
  | some it =>
    if it.opc ≠ 0x00 ∨ id.sq = 0 ∨ !ioOpen s it ∨ !barrierOpen s it then s
    else if it.sqe.fuse ≠ 0 then finishBad it.seq stInvalidField s
    else match sglFault it.sqe with
      | some st => finishBad it.seq st s
      | none =>
        if it.sqe.nsid.toNat = 0xFFFFFFFF then
          match blockedAll s it with
          | some st => finishBad it.seq st s
          | none => finishOk it.seq s
        else match parseIo s it with
          | .inl st => finishBad it.seq st s
          | .inr _ => finishOk it.seq s

def execFlush (id : CmdId) (s : State) : Host.Outcome State Fault Refusal := act (flushIo id) s

/-! ### Dataset Management (R109, R153, R154) -/

/-- The ranges of a Dataset Management as the data buffer gives them: starting LBA and length, 16 bytes
each. -/
def dsmRanges (dma : Dma) (k : Nat) : List (Nat × Nat) :=
  (List.range k).map fun i => (fieldAt dma.bytes (16 * i + 8) 8, fieldAt dma.bytes (16 * i + 4) 4)

/-- Deallocate acts only on units that a range covers entirely; without the attribute it has no effect. -/
def datasetManagement (dma : Dma) (id : CmdId) (s : State) : State :=
  match findItem s id with
  | none => s
  | some it =>
    if it.opc ≠ 0x09 ∨ id.sq = 0 ∨ it.running ∨ !ioOpen s it ∨ !barrierOpen s it then s
    else match parseIo s it with
      | .inl st => finishBad it.seq st s
      | .inr (x, n) =>
        if n.zoned then s
        else if dma.linkFails then finishBad it.seq stDataTransfer s
        else
          let rs := dsmRanges dma (bits it.sqe.cdw10.toNat 7 0 + 1)
          if rs.any fun r => decide (n.nsze < r.1 + r.2) then finishBad it.seq stLbaRange s
          else if !it.sqe.cdw11.getLsbD 2 then finishOk it.seq s
          else if s.media.journalReadOnly then finishBad it.seq stJournal s
          else deallocate x n (rs.map fun r => wholeUnits n r.1 r.2) it s

def execDatasetManagement (id : CmdId) (dma : Dma) (s : State) : Host.Outcome State Fault Refusal :=
  act (datasetManagement dma id) s

end Sys2Proof.Machine
end

