-- ==== Sys2Proof/Machine/ZoneMgmt.lean ====
section
/-! DEFINITION. Zone Management Send and Receive, and the zone transitions of the device's own clock (chapter
Zoned and Conventional Namespaces). -/

namespace Sys2Proof.Machine

/-! ### Zone Management Send (R136, R137, R147) -/

/-- The actions of R147. -/
inductive ZAction | close | finish | open_ | reset | offline
deriving DecidableEq, Repr

def ZAction.code : ZAction → Nat
  | .close => 1
  | .finish => 2
  | .open_ => 3
  | .reset => 4
  | .offline => 5

/-- What an action meets in a zone (R136): a change, no change, or a status. -/
inductive Meets
  | change
  | same
  | bad (st : Status)
deriving DecidableEq, Repr

def zoneMeets (a : ZAction) (st : ZState) : Meets :=
  match a, st with
  | .offline, .readOnly => .change
  | _, .readOnly => .bad stZoneReadOnly
  | _, .offline => .bad stZoneOffline
  | .open_, .empty => .change
  | .open_, .implicit => .change
  | .open_, .closed => .change
  | .open_, .explicit => .same
  | .close, .implicit => .change
  | .close, .explicit => .change
  | .close, .closed => .same
  | .finish, .full => .same
  | .finish, _ => .change
  | .reset, .empty => .same
  | .reset, _ => .change
  | _, _ => .bad stZoneTransition

/-- The zones Select All acts on (R137). -/
def allActs (a : ZAction) (st : ZState) : Bool :=
  match a with
  | .open_ => decide (st = .closed)
  | .close => st.isOpen
  | .finish => st.isActive
  | .reset => st.isActive || decide (st = .full)
  | .offline => decide (st = .readOnly)

/-- Groups of a zone: they hold rows of it, or rows are claimed for it in them. -/
def zoneGroups (s : State) (z : Nat) : List Nat :=
  let own : List Nat := match zoneAt s z with
    | some r => r.curGroup.toList ++ r.shelf.toList ++ r.claims.map Prod.snd
    | none => []
  (s.media.groups.filter fun p => (p.2.zones.contains z || own.contains p.1) && p.2.holds).map (·.1)

/-- A pending erase of a namespace's groups, or a refuge group that holds a unit of it (R225 step 1, R226 step 1). -/
def erasesLeft (s : State) (x : Nat) : Bool :=
  (s.media.groups.any fun p => decide (p.2.nsx = x) && (decide (p.2.st = .pendingErase) || pendWaits s p.1)) ||
  s.media.refuge.any fun u => decide (u.entry.nsx = x)

/-- A secure-discard Reset of a zone may take its second step: no pending erase and no refuge unit of the
namespace, and no row of the zone still in program (R197, R226 step 1). -/
def resetReady (s : State) (z x : Nat) : Bool :=
  !erasesLeft s x &&
  !(s.media.rowOps.any fun o => decide ((o.zone.map (·.1)) = some z)) &&
  !(s.media.victims.any fun v => v.rows.any fun o => decide ((o.zone.map (·.1)) = some z)) &&
  !(s.media.ring.any fun r => decide ((r.row.bind (·.zone)).map (·.1) = some z))

/-- One ZONE_STATE record for each zone, with ERASE_PEND for the groups `erase` gives; the completion waits for the
last. -/
def submitZones (dest : ZoneTo) (items : List Nat) (erase : Nat → List Nat) : List Nat → State → State
  | [], s => s
  | z :: t, s =>
    submitZones dest items erase t (submit { jrec .zoneState with
      zst := [(z, dest)], items := if t.isEmpty then items else [], erase := erase z } s)

/-- An Open has taken effect; its records are told, the completion waits for the last. -/
def openZonesNow (items : List Nat) : List Nat → State → State
  | [], s => s
  | z :: t, s =>
    match zoneAt s z with
    | none => openZonesNow items t s
    | some r =>
      openZonesNow items t (submit { jrec .zoneState with
        zst := [(z, .told r.st r.fzr)], items := if t.isEmpty then items else [] } (setZone z { r with st := .explicit } s))

/-- Perform an action on the zones `zs` for a started item: an Open takes effect at once, every other action
when its ZONE_STATE is committed; the completion waits for the commit, and a secure-discard Reset for the
erases too (R136, R138, R226). -/
def sendZones (a : ZAction) (n : Ns) (zs : List Nat) (it : Item) (s : State) : State :=
  match a with
  | .open_ => openZonesNow [it.seq] zs s
  | .close => submitZones .closed [it.seq] (fun _ => []) zs s
  | .finish => submitZones .finished [it.seq] (fun _ => []) zs s
  | .offline => submitZones .offline [it.seq] (fun _ => []) zs s
  | .reset =>
    if n.secdisc then
      let gs := (zs.map fun z => zoneGroups s z).flatten.eraseDups
      let s := updItem it.seq (fun i => { i with ranges := gs.map fun g => (g, 0) }) s
      let s := forEach gs takePend s
      submitZones .empty (if gs.isEmpty then [it.seq] else []) (zoneGroups s) zs s
    else submitZones .empty [it.seq] (fun _ => []) zs s

/-- The zones of a namespace, by device zone number, in ascending order. -/
def nsZones (n : Ns) : List Nat := List.range' n.zbase n.zcount

/-- Zone Management Send of one action. -/
def zoneSend (a : ZAction) (id : CmdId) (s : State) : State :=
  match findItem s id with
  | none => s
  | some it =>
    if it.opc ≠ 0x79 ∨ bits it.sqe.cdw13.toNat 7 0 ≠ a.code ∨ id.sq = 0 ∨ it.running ∨ !ioOpen s it ∨
        !barrierOpen s it then s
    else match parseIo s it with
      | .inl st => finishBad it.seq st s
      | .inr (x, n) =>
        if !n.zoned then s
        else
          let all := it.sqe.cdw13.getLsbD 8
          let z := zoneOfUnit n it.sqe.slba
          let begin := fun (zs : List Nat) (s : State) =>
            if zs.isEmpty then finishOk it.seq s
            else if a = .reset ∧ n.secdisc ∧ zs.any fun z => !resetReady s z x then
              updItem it.seq (fun i => { i with phase := .waiting }) s
            else sendZones a n zs it (updItem it.seq (fun i => { i with phase := .started }) s)
          if s.media.journalReadOnly then finishBad it.seq stJournal s
          else if all then
            begin ((nsZones n).filter fun z =>
              match zoneAt s z with
              | some r => allActs a r.st
              | none => false) s
          else if it.sqe.slba % zoneUnits n ≠ 0 then finishBad it.seq stInvalidField s
          else match zoneAt s z with
            | none => finishBad it.seq stInvalidField s
            | some r =>
              match zoneMeets a r.st with
              | .bad st => finishBad it.seq st s
              | .same => finishOk it.seq s
              | .change =>
                if (a = .open_ ∨ a = .finish) ∧ r.st = .empty ∧ zoneAlloc s id.fn ≤ zonesUsed s id.fn then
                  finishBad it.seq stTooManyActive s
                else
                  let taken := decide (a = .finish) && decide (r.st = .empty)
                  begin [z] (when taken (updItem it.seq fun i => { i with count := 1 }) s)

def execCloseZone (id : CmdId) (s : State) : Host.Outcome State Fault Refusal := act (zoneSend .close id) s
def execFinishZone (id : CmdId) (s : State) : Host.Outcome State Fault Refusal := act (zoneSend .finish id) s
def execOpenZone (id : CmdId) (s : State) : Host.Outcome State Fault Refusal := act (zoneSend .open_ id) s
def execResetZone (id : CmdId) (s : State) : Host.Outcome State Fault Refusal := act (zoneSend .reset id) s
def execOfflineZone (id : CmdId) (s : State) : Host.Outcome State Fault Refusal := act (zoneSend .offline id) s

/-! ### Learned ages at a Reset (R178, R179, R182) -/

/-- A sample in frame `c` moves an entry: the running average of the first 8, then an eighth of the difference,
rounded toward zero. The entry also keeps what it was at the boundary that began the frame (R180). -/
def addSample (x : Int) (c : Nat) (e : Learned) : Learned :=
  let e := { e with was := if e.used = (c : Int) then e.was else (e.count, e.mean), used := c }
  if e.count < 8 then
    { e with count := e.count + 1, mean := (e.mean * e.count + x) / (e.count + 1), changed := true }
  else { e with count := min (e.count + 1) 65535, mean := e.mean + (x - e.mean).tdiv 8, changed := true }

def sameAge (inst lc pg : Nat) (e : AgeEntry) : Bool :=
  decide (e.inst = inst) && decide (e.lc = lc) && decide (e.pg = pg)

/-- The table with one entry fewer, the one updated least recently. -/
def dropOldest (l : List AgeEntry) : List AgeEntry :=
  match (l.foldl (fun best e =>
      match best with
      | none => some e
      | some (b : AgeEntry) => if e.age.used < b.age.used then some e else best) none) with
  | none => l
  | some e => l.erase e

/-- Add an age to the entry for (instance, LC, PG), made new where there is none; the table holds 262,144. -/
def learn (inst lc pg : Nat) (x : Int) (s : State) : State :=
  let f := fun (e : AgeEntry) => { e with age := addSample x (clk s) e.age }
  let fresh : AgeEntry := { inst := inst, lc := lc, pg := pg, age := { count := 0, mean := 0, used := clk s, was := (0, 0), changed := false } }
  updMedia (fun m =>
    if m.ages.any (sameAge inst lc pg) then
      { m with ages := m.ages.map fun e => if sameAge inst lc pg e then f e else e }
    else
      let l := if m.ages.length < 262144 then m.ages else dropOldest m.ages
      { m with ages := l ++ [f fresh] }) s

/-- The reset-match tolerance of R181 for an age. -/
def tolerance (s : State) (age : Nat) : Nat := max (2 ^ 28) (age / 2 ^ s.media.policy.matchShift)

/-- A zone is reset: its age is learned and a misprediction counted. A zone that no write has started has no
age. -/
def learnReset (n : Ns) (r : Zone) (s : State) : State :=
  match r.firstWrite with
  | none => s
  | some f =>
    let age : Nat := if r.zfc then 2 ^ 36 else ((clk s : Int) - f).toNat
    let b := r.bind.getD (0, 0)
    let s := learn n.owner b.1 anyPg (ageSample age) (learn n.owner b.1 b.2 (ageSample age) s)
    match r.pred with
    | none => s
    | some p =>
      let want := (p - f).toNat
      when (decide (tolerance s want < (((age : Int) - want).natAbs)))
        (updMedia fun m => { m with amps := tabUpd m.amps n.owner fun a => { a with mispred := a.mispred + 1 } }) s

/-- The zones that a secure-discard Reset has emptied have been reset with its completion. -/
def learnHeld (it : Item) (s : State) : State :=
  match nsOf s it.id.fn it.sqe.nsid.toNat with
  | some (_, n) => forEach it.resets (learnReset n) s
  | none => s

/-! ### Zone states as a commit makes them (R136, R138, R139) -/

/-- A shared group whose zone is reset while another zone's rows remain valid takes PACK (R216). -/
def packShared (z : Nat) (s : State) : State :=
  updMedia (fun m => { m with groups := tabMap (fun _ g =>
    if g.zones.contains z then
      { g with pack := g.pack || decide (0 < g.valid ∧ 1 < g.zones.length) } else g) m.groups }) s

/-- A zone becomes Empty: every unit unmapped, attributes and binding cleared (R138). -/
def emptyZone (z : Nat) (s : State) : State :=
  match zoneAt s z with
  | none => s
  | some r =>
    let s := dropClaims z 0 (unmapZoneFrom z 0 s)
    let s := packShared z s
    let s := moveZone z .empty s
    let s := match nsAt s r.nsx, r.curGroup with
      | some n, some eg => when n.secdisc (closeEarly eg) s
      | _, _ => s
    updZoneRec z (fun k => { Zone.fresh r.nsx r.idx with st := k.st }) s

/-- An opened zone is closed, or Empty when nothing of it is written (R136). -/
def closeZone (z : Nat) (s : State) : State :=
  match zoneAt s z with
  | none => s
  | some r => if r.wp = 0 then emptyZone z s else moveZone z .closed s

/-- A zone goes Offline: its units read as zeros from then on (R149). -/
def offlineZone (z : Nat) (s : State) : State := moveZone z .offline (dropClaims z 0 (unmapZoneFrom z 0 s))

/-- A secure-discard Reset keeps the zone's resource, and its age runs, until its completion is posted (R135, R178,
R226). -/
def holdReset (z : Nat) (s : State) : State :=
  match zoneAt s z with
  | none => s
  | some r =>
    match s.host.items.find? fun it => decide (it.opc = 0x79) && it.running && decide (bits it.sqe.cdw13.toNat 7 0 = 4) &&
        decide ((nsOf s it.id.fn it.sqe.nsid.toNat).map (·.1) = some r.nsx) && !it.ranges.isEmpty with
    | none => s
    | some it =>
      setZone z { r with st := .full, firstWrite := none } (updItem it.seq (fun i => { i with resets := i.resets ++ [r] }) s)

/-- A zone is finished: Full, the write pointer at the zone's end (R138). A device finish sets ZFC and clears
FZR (R139). -/
def finishZone (z : Nat) (s : State) : State :=
  match zoneAt s z with
  | none => s
  | some r =>
    match nsAt s r.nsx with
    | none => s
    | some n =>
      let s := moveZone z .full s
      let s := updZoneRec z (fun k => { k with
        wp := zoneUnits n
        ap := zoneUnits n
        zfc := k.zfc || r.finishing
        fzr := k.fzr && !r.finishing
        finishing := false }) s
      when r.finishing (notifyZone n.owner n.nsid (zslba n r)) s

/-- What a committed record makes of a zone. -/
def applyZone (p : Nat × ZoneTo) (s : State) : State :=
  match p.2 with
  | .told _ _ => s
  | .opened => updZoneRec p.1 (fun r => { r with st := .explicit }) s
  | .closed => closeZone p.1 s
  | .finished => finishZone p.1 s
  | .filled =>
    match zoneAt s p.1 with
    | none => s
    | some r =>
      match nsAt s r.nsx with
      | none => s
      | some n => when (decide (r.ap = zoneCap n)) (moveZone p.1 .full) s
  | .wiped => emptyZone p.1 s
  | .offline => offlineZone p.1 s
  | .empty =>
    match zoneAt s p.1 with
    | none => s
    | some r =>
      match nsAt s r.nsx with
      | none => s
      | some n => emptyZone p.1 (if n.secdisc then holdReset p.1 s else learnReset n r s)

/-! ### The device's own transitions (R139, R140) -/

/-- Frames since the zone's first write. -/
def zoneAge (s : State) (r : Zone) : Option Int := r.firstWrite.map fun f => (clk s : Int) - f

/-- Finish Zone Recommended after 2^35 frames. -/
def finishRecommended (z : Nat) (s : State) : State :=
  match zoneAt s z with
  | none => s
  | some r =>
    match nsAt s r.nsx, zoneAge s r with
    | some n, some a =>
      if r.st.isActive ∧ !r.fzr ∧ (2 ^ 35 : Int) < a then
        notifyZone n.owner n.nsid (zslba n r)
          (tell z r.st r.fzr (updZoneRec z (fun r => { r with fzr := true }) s))
      else s
    | _, _ => s

def execZoneFinishRecommended (z : Nat) (s : State) : Host.Outcome State Fault Refusal :=
  act (finishRecommended z) s

/-- The device finishes a zone after 2^36 frames: no write starts any more, and the zone goes to Full once
those started have completed (R140). -/
def deviceFinishDue (z : Nat) (s : State) : State :=
  match zoneAt s z with
  | none => s
  | some r =>
    match zoneAge s r with
    | none => s
    | some a =>
      if r.st.isActive ∧ (2 ^ 36 : Int) < a then deviceFinish z (updZoneRec z (fun r => { r with finishing := true }) s)
      else s

def execZoneDeviceFinish (z : Nat) (s : State) : Host.Outcome State Fault Refusal := act (deviceFinishDue z) s

/-! ### Report Zones (R148) -/

/-- The reporting options 0x0 to 0x7 of the Zoned Namespace command set. -/
def reports (opt : Nat) (st : ZState) : Bool :=
  if opt = 0 then true
  else if opt = 1 then decide (st = .empty)
  else if opt = 2 then decide (st = .implicit)
  else if opt = 3 then decide (st = .explicit)
  else if opt = 4 then decide (st = .closed)
  else if opt = 5 then decide (st = .full)
  else if opt = 6 then decide (st = .readOnly)
  else decide (st = .offline)

/-- A 64-byte zone descriptor. -/
def zoneDesc (n : Ns) (r : Zone) : List Byte :=
  [2, BitVec.ofNat 8 (zstateCode r.st * 16), BitVec.ofNat 8 (flag r.zfc 1 + flag r.fzr 2)] ++ zeros 5 ++
  le (zoneCap n) 8 ++ le (zslba n r) 8 ++ le (zslba n r + r.wp) 8 ++ zeros 32

def reportZones (id : CmdId) (s : State) : State :=
  match findItem s id with
  | none => s
  | some it =>
    if it.opc ≠ 0x7A ∨ bits it.sqe.cdw13.toNat 7 0 ≠ 0 ∨ id.sq = 0 ∨ !ioOpen s it ∨ !barrierOpen s it then s
    else match parseIo s it with
      | .inl st => finishBad it.seq st s
      | .inr (_, n) =>
        if !n.zoned then s
        else
          let opt := bits it.sqe.cdw13.toNat 15 8
          let bytes := 4 * (it.sqe.cdw12.toNat + 1)
          if 7 < opt ∨ 2 ^ 21 < bytes then finishBad it.seq stInvalidField s
          else
            let from_ := zoneOfUnit n it.sqe.slba
            let hits := ((nsZones n).filter fun z => decide (from_ ≤ z)).filterMap fun z =>
              match zoneAt s z with
              | some r => if reports opt r.st then some r else none
              | none => none
            let fit := hits.take ((bytes - 64) / 64)
            let count := if it.sqe.cdw13.getLsbD 16 then fit.length else hits.length
            let out := (le count 8 ++ zeros 56 ++ (fit.map (zoneDesc n)).flatten).take bytes
            finishOk it.seq (send (.nvmeData id.fn out) s)

def execReportZones (id : CmdId) (s : State) : Host.Outcome State Fault Refusal := act (reportZones id) s

end Sys2Proof.Machine
end

