-- ==== Sys2Proof/Machine/Commit.lean ====
section
/-! DEFINITION. What the commit of a journal record brings about (R20, R25 steps 10 and 11, R29, R209, R215,
R221). -/

namespace Sys2Proof.Machine

/-! ### Zone rows by unit position -/

/-- Unit positions of a zone row with their group and physical row. -/
def expandParts (l : List ZPart) : List (Nat × Nat × Nat) :=
  (l.map fun e => (List.range' e.first (e.last + 1 - e.first)).map fun p => (p, e.eg, e.prow)).flatten

/-- Positions in rising order as parts: neighbours in one physical row form one part. -/
def compressParts : List (Nat × Nat × Nat) → List ZPart
  | [] => []
  | (p, eg, row) :: t =>
    match compressParts t with
    | e :: r => if e.eg = eg ∧ e.prow = row ∧ e.first = p + 1 then { e with first := p } :: r
                else { eg := eg, prow := row, first := p, last := p } :: e :: r
    | [] => [{ eg := eg, prow := row, first := p, last := p }]

/-- A zone row with the positions `ps` moved to row `row` of group `eg`. -/
def moveParts (eg row : Nat) (ps : List Nat) (l : List ZPart) : List ZPart :=
  compressParts (sortKey (fun x => x.1)
    (((expandParts l).filter fun x => !ps.contains x.1) ++ ps.map fun p => (p, eg, row)))

/-- Units of a zone mapped to flash as one run from its start (WP_FLASH, R203). -/
def flashRun (ru : Nat) : Nat → List (Nat × List ZPart) → Nat
  | _, [] => 0
  | k, (j, l) :: t =>
    if j ≠ k then k * ru
    else
      let n := (List.range ru).takeWhile fun p => l.any fun e => decide (e.first ≤ p) && decide (p ≤ e.last)
      if n.length = ru then (if t.isEmpty then (k + 1) * ru else flashRun ru (k + 1) t) else k * ru + n.length

/-! ### Lost members (R139) -/

/-- Members of row `row` that are lost. -/
def lostIn (g : Group) (row : Nat) : Nat := (g.members.filter fun m => (m.at row).2.2.2).length

/-- A zone goes Read Only when a written row of it has lost two members (R139). -/
def zoneLosses (z : Nat) (s : State) : State :=
  match zoneAt s z with
  | none => s
  | some r =>
    let hit := r.exts.any fun p => p.2.any fun e =>
      match groupAt s e.eg with
      | some g => decide (2 ≤ lostIn g e.prow)
      | none => false
    if hit ∧ r.st ≠ .readOnly ∧ r.st ≠ .offline then
      match nsAt s r.nsx with
      | none => s
      | some n =>
        notifyZone n.owner n.nsid (zslba n r) (tell z r.st r.fzr (moveZone z .readOnly s))
    else s

/-! ### Row commits -/

/-- A landing-buffer entry whose map update is durable: it goes, but in write-through it stays until its
write's completion is posted (R25, R449). -/
def landedCommitted (order : Nat) (s : State) : State :=
  match landedAt s order with
  | none => s
  | some e =>
    if e.writer.isSome then updLanded order (fun e => { e with committed := true }) s else releaseEntry order s

/-- The unit of a zoned row still comes from where the row took it. -/
def zoneUnitLive (s : State) (r : Zone) (w : Nat) (k : Nat) (o : RowOp) (p : Nat × RowUnit) : Bool :=
  match p.2.src with
  | .landing ord =>
    match landedAt s ord with
    | some e => !e.committed && decide (e.bound = some (locOf o.eg o.row p.1))
    | none => false
  | .copy old => decide (zoneLoc r w (k * rowUnits w + p.1) = some old)

/-- Commit a zoned row: the positions that are still current move to it (ZONE_EXT). -/
def commitZoned (z k : Nat) (o : RowOp) (s : State) : State :=
  match zoneAt s z with
  | none => s
  | some r =>
    match nsAt s r.nsx with
    | none => s
    | some n =>
      let live := o.units.filter (zoneUnitLive s r n.width k o)
      let ps := live.map (·.1)
      let l := moveParts o.eg o.row ps (tabGetD r.exts k [])
      let exts := if l.isEmpty then r.exts else tabSet r.exts k l
      let s := fitBlocks z (setZone z { r with exts := exts, wpFlash := flashRun (rowUnits n.width) 0 exts } s)
      let s := gainValid o.eg live.length s
      let s := forEach live (fun p s => match p.2.src with
        | .landing ord => landedCommitted ord s
        | .copy old => loseValid old.eg 1 s) s
      if live.isEmpty then s
      else zoneLosses z <| updGroup o.eg (fun g => { g with
        zones := if g.zones.contains z then g.zones else g.zones ++ [z]
        shared := g.shared || (!g.zones.contains z && !g.zones.isEmpty) }) s

/-- Commit one unit of a conventional row: its entry, or an earlier location held for it, moves to the row if
it still names the place the unit was taken from (PAGE_ROW, R215, R548). -/
def commitPage (o : RowOp) (p : Nat × RowUnit) (s : State) : State :=
  let x := o.nsx
  let u := p.2.unit
  let new := locOf o.eg o.row p.1
  let old : PmEntry := match p.2.src with
    | .landing ord => .landing ord
    | .copy l => .flash l
  let held := s.media.landing.find? fun e => decide (e.nsx = x) && decide (e.unit = u) && decide (e.earlier = some old)
  let gone := match p.2.src with
    | .landing ord => landedCommitted ord
    | .copy l => loseValid l.eg 1
  if pmAt s x u = some old then gone (gainValid o.eg 1 (setPm x u (some (.flash new)) s))
  else match held with
    | some e => gone (gainValid o.eg 1 (updLanded e.order (fun e => { e with earlier := some (.flash new) }) s))
    | none => s

/-- Commit a row: the map update is durable. -/
def commitRow (o : RowOp) (s : State) : State :=
  let s := match o.zone with
    | some (z, k) => commitZoned z k o s
    | none => markSegs ((o.units.map fun p => segOf o.nsx p.2.unit).eraseDups) (forEach o.units (commitPage o) s)
  closeIfDone o.eg (updGroup o.eg (fun g => { g with inFlight := g.inFlight.filter fun i => decide (i ≠ o.row) }) s)

/-! ### Erased groups (R212, R218, R221 step 6) -/

/-- The wear limit: 150 % of the rated endurance (R218). -/
def wornOut (s : State) (cls pe : Nat) : Bool :=
  match classAt s cls with
  | some k => decide (3 * k.ratedPe ≤ 2 * pe)
  | none => false

/-- A die block of an erased group: one cycle more; it enters the pantry, or is retired after a failure or at
its wear limit. In the refuge area the pSLC endurance decides instead (R228). -/
def freeBlock (cls : Nat) (area : Bool) (die b : Nat) (s : State) : State :=
  let x := blockAt s die b
  let pe := min (x.pe + 1) 131071
  let bad := x.progFailed || (!area && wornOut s cls pe) || decide (x.st = .retired)
  let s := updFlash (fun f => { f with savedTrk := tabDel f.savedTrk (blockKey die b) }) s
  let s := setBlock die b { DieBlock.fresh with pe := pe, pslc := area, st := if bad then .retired else .free } s
  if bad ∧ x.st ≠ .retired then
    judgeDie die (updDie die (fun d => { d with retiredBlocks := d.retiredBlocks + 1 }) s)
  else s

/-- Completions that wait for a group's erase (R226 step 5). -/
def erasedItems (eg : Nat) (s : State) : State :=
  let mine := s.host.items.filter fun it => decide (it.opc = 0x79) && it.running && it.ranges.contains (eg, 0)
  forEach mine (fun it s =>
    let left := it.ranges.filter fun r => decide (r ≠ (eg, 0))
    let s := updItem it.seq (fun i => { i with ranges := left }) s
    if left.isEmpty then finishOk it.seq (learnHeld it (giveBackHeld it s)) else s) s

/-- What an erased group held is gone: its data, its parity, and the refuge units it carried. -/
def clearGroup (eg : Nat) : State → State := updMedia fun m => { m with
  flash := m.flash.filter fun p => decide (p.1 / 2 ^ 24 ≠ eg)
  parity := m.parity.filter fun p => decide (p.1 / 2 ^ 24 ≠ eg)
  refuge := m.refuge.filter fun u => decide (u.eg ≠ eg)
  victims := m.victims.filter fun v => decide (v.eg ≠ eg) }

/-- Groups that held earlier wrapped keys and found no entry of the pending-erase list. -/
def keyWaits (s : State) : List Nat :=
  s.media.keyStale.filter fun eg => match groupAt s eg with
    | some g => decide (g.st = .system) && g.pendIdx.isNone
    | none => false

/-- An erased group dissolves: its die blocks return on their own, and the EGID is free (R212). A refuge group returns to
the refuge area (R228). Groups that found the pending-erase list full enter it. -/
def dissolve (eg : Nat) (s : State) : State :=
  match groupAt s eg with
  | none => s
  | some g =>
    let full := !pendRoom s
    let s := clearGroup eg (forEach (groupBlocks g) (fun p => freeBlock g.cls g.area p.1 p.2) s)
    let s := if g.area then refugeAgain eg s
      else forgetGroup eg (updMedia (fun m => { m with groups := tabDel m.groups eg }) s)
    let s := updZone (fun z => { z with discards := z.discards.map fun d =>
      { d with stale := d.stale.filter fun k => decide (k ≠ eg), current := d.current.filter fun k => decide (k ≠ eg) } }) s
    let s := when full (fun s => forEach (keyWaits s) pendErase (forEach (s.media.groups.map (·.1)) pendIfEmpty s)) s
    erasedItems eg s

/-! ### Commit -/

/-- An item whose completion waited for the record: a write that filled its zone is acknowledged and posted,
any other command completes. -/
def commitItem (seq : Nat) (s : State) : State :=
  match itemBySeq s seq with
  | none => s
  | some it =>
    let s := learnHeld it (giveBackHeld it s)
    if it.outcome.isSome then postItem seq s
    else if isWriteOpc it.opc then
      match nsOf s it.id.fn it.sqe.nsid.toNat with
      | some (_, n) => if n.zoned then postWrite n it s else finishOk seq s
      | none => finishOk seq s
    else finishOk seq s

/-- A SECURE_STEP unmaps the units of a range that lie in one group (R225). -/
def unmapIn (eg x first n : Nat) (s : State) : State := forEach (unitsIn s eg x first n) (fun u => unmapUnit x u) s

/-- What a committed record makes of the groups it names: opened rows may be programmed from now on, a group closes, or
enters the pending-erase list (R207, R221). -/
def applyGroups (r : JRec) (s : State) : State :=
  let s := forEach r.erase (fun g => updGroup g fun g => { g with st := .pendingErase }) s
  match r.egTo with
  | some .closed => pendIfEmpty r.eg (updGroup r.eg (fun g => { g with st := if g.st = .opened then .closed else g.st }) s)
  | _ => s

/-- What a committed UNMAP or SECURE_STEP unmaps. -/
def applyUnmap (r : JRec) (s : State) : State :=
  match r.unmap with
  | none => s
  | some (x, first, n) =>
    match nsAt s x with
    | none => s
    | some k =>
      if n = 0 then s
      else if k.zoned then (if r.type = .unmap then cutZone (zoneOfUnit k first) (first % zoneUnits k) s else s)
      else if r.type = .secureStep then markSegs r.segs (unmapIn r.eg x first n s)
      else markSegs r.segs (unmapUnits x first n s)

/-- The effects of a committed record, all at once (R202). A record that repeats a damaged one has none (R503). -/
def applyRec (r : JRec) (s : State) : State :=
  if r.again.isSome then s
  else
    let s := applyGroups r s
    let s := match r.row with
      | some o => commitRow o s
      | none => s
    let s := applyUnmap r (forEach r.zst applyZone s)
    let s := when (decide (r.type = .eraseDone)) (dissolve r.eg) s
    forEach r.items commitItem s

/-- The head of the ring becomes durable and is carried out; it waits for its home lines, the tail behind it. A repeated
record stands in for the damaged one from now on. -/
def record (r : JRec) (rest : List JRec) (s : State) : State :=
  let before := homeLines s r
  let s := applyRec r (updMedia (fun m => { m with ring := rest }) s)
  let todo := (before ++ homeLines s r).eraseDups
  updMedia (fun m => match r.again with
    | none => { m with uncopied := m.uncopied ++ [{ r with todo := todo }] }
    | some q =>
      let old := m.uncopied.filter fun k => decide (k.seq = q)
      { m with uncopied := (m.uncopied.filter fun k => decide (k.seq ≠ q)) ++
          [{ r with todo := (old.map (·.todo)).flatten, segs := (old.map (·.segs)).flatten, again := none }] }) s

/-- The head of the ring is durable (R201): its effects come about, unless the ring is full, no extent block
is free for it, or a line cannot be written (R205, R206, R502). -/
def commitHead (ok : JRec → Bool) (readBackOk : Bool) (s : State) : State :=
  match s.media.ring with
  | [] => s
  | r :: rest =>
    if !ok r ∨ !booted s ∨ s.media.journalReadOnly ∨ ringFull s r.len then s
    else
      let s0 := when (!readBackOk) (replaceLine (9 * 2 ^ 40 + r.seq)) s
      if s0.media.journalReadOnly then s0
      else
        let s1 := record r rest s0
        if extentBlocks < extentsUsed s1 then s else s1

/-- The victim whose row a record commits. -/
def relocRec (r : JRec) : Option Nat := if r.again.isSome then none else r.row.bind (·.reloc)

/-- The oldest record submitted becomes durable; a relocation row's is RELOCATION_COMMIT's. -/
def execJournalRecordCommit (readBackOk : Bool) (s : State) : Host.Outcome State Fault Refusal :=
  act (commitHead (fun r => (relocRec r).isNone) readBackOk) s

/-- A victim's work is under way: reads, copies, rows in program, records to commit. -/
def victimBusy (s : State) (v : Victim) : Bool :=
  s.flash.reads.any (fun r => decide (r.for_ = .reloc v.eg)) || s.media.rowOps.any (fun o => decide (o.reloc = some v.eg)) ||
  s.media.ring.any (fun r => decide (relocRec r = some v.eg)) || !v.copies.isEmpty || !v.rows.isEmpty

/-- A victim whose units have all moved waits for its erase (R221 steps 4 to 6); one that keeps units, those no read
recovers or a discard's own, is done: nothing of it is left to move (R225, R287). -/
def victimDone (eg : Nat) (s : State) : State :=
  match s.media.victims.find? fun v => decide (v.eg = eg), groupAt s eg with
  | some v, some g =>
    if victimBusy s v ∨ g.valid = 0 then s
    else updMedia (fun m => { m with
      victims := m.victims.filter fun v => decide (v.eg ≠ eg)
      groups := tabUpd m.groups eg fun g => { g with victim := false, refresh := g.refresh && v.stuck.isEmpty } }) s
  | _, _ => s

/-- When every copy of a victim is programmed, its conditional map updates are submitted, in the order of the rows (R221
step 3). -/
def submitRows (eg : Nat) (s : State) : State :=
  match s.media.victims.find? fun v => decide (v.eg = eg) with
  | none => s
  | some v =>
    if s.flash.reads.any (fun r => decide (r.for_ = .reloc eg)) ∨ s.media.rowOps.any (fun o => decide (o.reloc = some eg)) ∨
        !v.copies.isEmpty then s
    else
      let s := updMedia (fun m => { m with victims := m.victims.map fun v => if v.eg = eg then { v with rows := [] } else v }) s
      victimDone eg (forEach v.rows (fun o =>
        submit { jrec (if o.zone.isSome then .zoneExt else .pageRow) with row := some o, eg := o.eg }) s)

/-- The conditional map updates of a victim's relocated row are committed (R215, R221 step 3). -/
def relocationCommit (eg : Nat) (s : State) : State :=
  victimDone eg (commitHead (fun r => decide (relocRec r = some eg)) true s)

def execRelocationCommit (eg : Nat) (s : State) : Host.Outcome State Fault Refusal := act (relocationCommit eg) s

end Sys2Proof.Machine
end

