-- ==== Sys2Proof/Machine/Rows.lean ====
section
/-! DEFINITION. Binding stripe rows: dispatch from the landing buffer, pads, re-placement, and the copies of
relocation (R25 steps 6 and 7, R27, R168 to R172, R184, R215, R229). -/

namespace Sys2Proof.Machine

/-! ### Requests to the floor planner (R46) -/

/-- A program or erase reaches the planner: before its input window closes it enters the plan being built,
later it waits for the following one. -/
def request (q : MediaReq) (s : State) : State :=
  if s.frame.inputOpen then updFlash (fun f => { f with reqs := f.reqs ++ [q] }) s
  else updFlash (fun f => { f with lateReqs := f.lateReqs ++ [q] }) s

/-- Request the program of row `row` on every member of a group. -/
def requestRow (eg row : Nat) (gc : Bool) (s : State) : State :=
  match groupAt s eg with
  | none => s
  | some g =>
    forEach ((List.range g.members.length).zip g.members) (fun p s =>
      request { kind := .program, eg := eg, row := row, member := p.1, die := (p.2.at row).1, gc := gc,
                owner := g.owner, frame := clk s } s) s

/-! ### Amplification counts (R193) -/

def ampZero : Amp :=
  { host := 0, prog := 0, hostMin := 0, progMin := 0, lastHost := 0, lastProg := 0, padMin := 0, lastPad := 0,
    mispred := 0, contMin := 0, lastCont := 0 }

def updAmp (fn : Nat) (f : Amp → Amp) : State → State :=
  updMedia fun m => { m with amps := tabUpd m.amps fn f }

/-! ### Taking a row of a group -/

/-- The parity die-page of a row of width `w`: at each slot the XOR of its data die-pages, pads among them (R168, R271). -/
def rowParity (w : Nat) (units : Tab RowUnit) : List Stored :=
  (List.range 16).map fun i => (List.range (w - 1)).foldl (fun a d =>
    a.xor (match tabGet units (16 * d + i) with
      | some u => u.stored
      | none => padUnit)) noUnit

/-- Bind the next row of a group: what it holds, its programs requested. `reserved` says that a claim had
reserved the row. Every unit is verified before it is encoded; one whose check fails is poisoned (R307, R309). -/
def bindIn (eg : Nat) (reserved : Bool) (o : RowOp) (s : State) : State :=
  match groupAt s eg with
  | none => s
  | some g =>
    let row := g.nextRow
    let bad := o.units.filter fun p =>
      decide (innerCheck p.2.stored.data p.2.stored.meta_ p.2.stored.hdr ≠ p.2.stored.check)
    let units := o.units.map fun p =>
      if innerCheck p.2.stored.data p.2.stored.meta_ p.2.stored.hdr = p.2.stored.check then p
      else (p.1, { p.2 with stored := poison p.2.stored })
    let o := { o with eg := eg, row := row, units := units, parity := rowParity g.width units, outstanding := List.range g.width, failed := false,
                      frame := clk s }
    let regs := match nsAt s o.nsx with
      | some n => if n.secdisc ∧ !n.zoned then (units.map fun p => regionOf n p.2.unit).eraseDups else []
      | none => []
    let s := updGroup eg (fun g => { g with
      nextRow := row + 1
      reserved := if reserved then g.reserved - 1 else g.reserved
      inFlight := g.inFlight ++ [row]
      regions := (g.regions ++ regs).eraseDups }) s
    let s := updMedia (fun m => { m with rowOps := m.rowOps ++ [o] }) s
    let s := forEach units (fun p s => match p.2.src with
      | .landing ord => updLanded ord (fun e => { e with bound := some (locOf eg row p.1), stored := p.2.stored }) s
      | .copy _ => s) s
    let s := requestRow eg row o.reloc.isSome s
    if bad.isEmpty then s
    else
      let s := recDataErr 8 bad.length (recDataErr 1 bad.length s)
      setCritical 2 { callWrite s with therm := { s.therm with mediaErrors := s.therm.mediaErrors + bad.length } }

/-- The open last-shelf group that the rows of a zone, or of a namespace, bind into: a zone of a secure-discard namespace
has its own (R156, R229; DEDUCED, log 114). -/
def shelfGroup (s : State) (n : Ns) (z : Option Nat) : Option Nat :=
  match z with
  | some z => if n.secdisc then (zoneAt s z).bind (·.shelf) else n.shelfGroup
  | none => n.shelfGroup

/-- The open last-shelf group where it has a free row; while there is none, one formed with no condition but capacity
(R229). -/
def shelfGroupFor (w : Want) (z : Option Nat) (s : State) : Option (Nat × State) :=
  match nsAt s w.nsx with
  | none => none
  | some n =>
    match ((shelfGroup s n z).bind fun eg => (groupAt s eg).map fun g => (eg, g)).filter fun p => decide (p.2.st = .opened) with
    | some (eg, g) => if 0 < g.freeRows then some (eg, s) else none
    | none =>
      match newGroup { w with shelf := true } true s with
      | none => none
      | some (eg, s) =>
        some (eg, match z with
          | some z => if n.secdisc then updZoneRec z (fun r => { r with shelf := some eg }) s
            else updNs w.nsx (fun n => { n with shelfGroup := some eg }) s
          | none => updNs w.nsx (fun n => { n with shelfGroup := some eg }) s)

/-- A group has a row free for a row that no claim has reserved. -/
def openRow (s : State) (eg : Nat) : Option Nat :=
  (groupAt s eg).bind fun g => if 0 < g.freeRows then some eg else none

/-- The reserved row of a claim is still there. -/
def claimGood (s : State) (eg : Nat) : Bool :=
  match groupAt s eg with
  | some g => decide (g.st = .opened) && !g.early && decide (g.nextRow < g.rows)
  | none => false

/-! ### bind_row for a zone (R170, R183) -/

/-- bind_row without a claim: the current group, or one chosen; then the last shelf where it may be used. -/
def bindZoneFree (z : Nat) (shelf : Bool) (fresh : Bool) (o : RowOp) (s : State) : Option State :=
  match zoneAt s z with
  | none => none
  | some r =>
    match nsAt s r.nsx with
    | none => none
    | some n =>
      match (if fresh then none else r.curGroup.bind (openRow s)) with
      | some eg => some (bindIn eg false o s)
      | none =>
        match (if fresh then newGroup (zoneWant s z r n false) true s else chooseGroup (zoneWant s z r n false) true s) with
        | some (eg, s) => some (bindIn eg false o (updZoneRec z (fun r => { r with curGroup := some eg }) s))
        | none =>
          if shelf then
            match shelfGroupFor (zoneWant s z r n true) (some z) s with
            | some (eg, s) => some (bindIn eg false o s)
            | none => none
          else none

/-- A continuation row that no claim holds a row for is bound while H ≥ S (R171, R214). -/
def mayContinue (s : State) (z : Nat) : Bool :=
  match (zoneAt s z).bind fun r => nsAt s r.nsx with
  | some n => atLeast s n.cls (headroom s n.cls) shelfMark
  | none => false

/-- Bind a row that no claim holds a row for. -/
def bindUnclaimed (z : Nat) (cont : Bool) (o : RowOp) (s : State) : Option State :=
  if cont ∧ !mayContinue s z then none else bindZoneFree z (!cont) false o s

/-- Bind zone row `k`: on its claim's row, or as bind_row chooses. A continuation row never draws on the last shelf
(R171). -/
def bindZoneRow (z k : Nat) (cont : Bool) (o : RowOp) (s : State) : Option State :=
  match zoneAt s z with
  | none => none
  | some r =>
    match tabGet r.claims k with
    | some eg =>
      let s := updZoneRec z (fun r => { r with claims := tabDel r.claims k }) s
      if claimGood s eg then some (bindIn eg true o s) else bindUnclaimed z cont o s
    | none => bindUnclaimed z cont o s

/-! ### Conventional rows (R177) -/

def convWant (x : Nat) (n : Ns) (lc : Nat) (gc shelf : Bool) : Want :=
  { owner := n.owner, nsx := x, cls := n.cls, width := n.width, lc := lc, pg := 0, secdisc := n.secdisc,
    gc := gc, shelf := shelf, pred := none, from_ := 0 }

/-- Bind a row of the namespace's open group of a lifetime class, for host data or collection copies. -/
def bindConvFree (x lc : Nat) (gc shelf fresh : Bool) (o : RowOp) (s : State) : Option State :=
  match nsAt s x with
  | none => none
  | some n =>
    let cur := if gc then tabGet n.gcGroup lc else tabGet n.hostGroup lc
    match (if fresh then none else cur.bind (openRow s)) with
    | some eg => some (bindIn eg false o s)
    | none =>
      match newGroup (convWant x n lc gc false) true s with
      | some (eg, s) =>
        some (bindIn eg false o (updNs x (fun n =>
          if gc then { n with gcGroup := tabSet n.gcGroup lc eg } else { n with hostGroup := tabSet n.hostGroup lc eg }) s))
      | none =>
        if shelf then
          match shelfGroupFor (convWant x n lc gc true) none s with
          | some (eg, s) => some (bindIn eg false o s)
          | none => none
        else none

def bindConvRow (x lc : Nat) (o : RowOp) (s : State) : Option State :=
  match nsAt s x with
  | none => none
  | some n =>
    match nsClaims n lc with
    | eg :: rest =>
      let s := updNs x (fun n => { n with claims := tabSet n.claims lc rest }) s
      if claimGood s eg then some (bindIn eg true o s) else bindConvFree x lc false true false o s
    | [] => bindConvFree x lc false true false o s

def inRange (d : Discard) (u : Nat) : Bool := decide (d.first ≤ u) && decide (u < d.first + d.count)

/-! ### Ready rows (R27, R170) -/

/-- A landed unit may be bound: its write is acknowledged, or the device runs in write-through (R25). The units of a
secure discard stay where they are (R225). -/
def dispatchable (s : State) (e : Landed) : Bool :=
  e.bound.isNone && !e.committed && (e.writer.isNone || s.media.writeThrough) &&
  !(s.zone.discards.any fun d => decide (d.nsx = e.nsx) && inRange d e.unit)

/-- Partial rows are closed device-wide: occupancy above 75 %, an entry to PS3 or PS4, write-through (R27). -/
def closesPartial (s : State) : Bool :=
  decide (3 * landingLimit s < 4 * landedBytes s) || s.power.entry.isSome || s.media.writeThrough

/-- The row's first landed unit has waited 2^20 frames (R27). -/
def partialWaited (s : State) (l : List Landed) : Bool := l.any fun e => fired e.frame 1048576 (clk s)

/-- The row is bound in the last counting frame of its partial-row wait (R50). -/
def noteRowTie (l : List Landed) (s : State) : State :=
  match l.find? fun e => decide (clk s = e.frame + 1048576) with
  | some e => noteTie e.frame 1048576 s
  | none => s

/-- A row to be bound, with nothing in it yet. -/
def rowOp (x : Nat) (zone : Option (Nat × Nat)) (lc : Nat) (reloc : Option Nat) (units : Tab RowUnit) : RowOp :=
  { eg := 0, row := 0, nsx := x, zone := zone, lc := lc, units := units, reloc := reloc, parity := [], outstanding := [],
    failed := false, charged := false, again := false, frame := 0 }

/-- New writes to a namespace fail while its units wait for a group that cannot be formed (R232). -/
def blockNs (x : Nat) (b : Bool) : State → State := updNs x fun n => { n with blocked := b }

/-- The dispatchable units of a zone row, oldest position first. -/
def zoneRowUnits (s : State) (x first ru : Nat) : List Landed :=
  sortKey (fun e => e.unit) (s.media.landing.filter fun e =>
    decide (e.nsx = x) && decide (first ≤ e.unit) && decide (e.unit < first + ru) && dispatchable s e)

/-- Units of the zone row bound or committed already. -/
def rowDone (s : State) (z k : Nat) (r : Zone) : Nat :=
  (expandParts (tabGetD r.exts k [])).length +
  ((s.media.rowOps.filter fun o => decide (o.zone = some (z, k)) && o.reloc.isNone).map fun o => o.units.length).sum

/-- The zone's units are about to be unmapped: a Reset or an erasure of it, or an UNMAP that cuts it, waits in the ring
(R155). -/
def zoneLeaves (s : State) (z : Nat) : Bool :=
  s.media.ring.any fun r => r.zst.contains (z, .empty) || r.zst.contains (z, .wiped) ||
    match r.unmap with
    | some (x, first, k) => decide (0 < k) && match nsAt s x with
      | some n => n.zoned && decide (zoneOfUnit n first = z)
      | none => false
    | none => false

/-- The zone row that begins at unit `first` is ready: full, or to be closed with pads (R27, R170); its units, its zone and
zone row, and whether it is a continuation. -/
def zoneReady (s : State) (x : Nat) (n : Ns) (first : Nat) (waited : Bool) : Option (List Landed × Nat × Nat × Bool) :=
  let z := zoneOfUnit n first
  let ru := rowUnits n.width
  match zoneAt s z with
  | none => none
  | some r =>
    let off := first % zoneUnits n
    let k := off / ru
    let l := zoneRowUnits s x first ru
    if off % ru ≠ 0 ∨ zoneCap n ≤ off ∨ l.isEmpty ∨ zoneLeaves s z then none
    else
      let full := decide (l.length + rowDone s z k r = ru)
      let close := decide (r.st = .full) || closesPartial s || (waited && partialWaited s l)
      if full || close then some (l, z, k, decide (0 < rowDone s z k r)) else none

/-- Dispatch a zone row (R171). -/
def dispatchZone (x : Nat) (n : Ns) (first : Nat) (waited : Bool) (s : State) : State :=
  match zoneReady s x n first waited with
  | none => s
  | some (l, z, k, cont) =>
    let units := l.map fun e => (e.unit - first, { unit := e.unit, src := .landing e.order, stored := e.stored : RowUnit })
    match bindZoneRow z k cont (rowOp x (some (z, k)) 0 none units) s with
    | none => blockNs x true s
    | some s => blockNs x false <| noteRowTie l <| when cont (updAmp n.owner fun a => { a with contMin := a.contMin + 1 }) s

/-- The next row of a namespace's lifetime class is ready; its units. -/
def convReady (s : State) (x : Nat) (n : Ns) (lc : Nat) (waited : Bool) : Option (List Landed) :=
  let ru := rowUnits n.width
  let l := (s.media.landing.filter fun e => decide (e.nsx = x) && decide (e.lc = lc) && dispatchable s e).take ru
  if l.isEmpty ∨ !(decide (l.length = ru) || closesPartial s || (waited && partialWaited s l)) then none else some l

/-- Dispatch the next row of a conventional namespace's lifetime class. -/
def dispatchConv (x : Nat) (n : Ns) (lc : Nat) (waited : Bool) (s : State) : State :=
  match convReady s x n lc waited with
  | none => s
  | some l =>
    let units := ((List.range l.length).zip l).map fun p =>
      (p.1, { unit := p.2.unit, src := .landing p.2.order, stored := p.2.stored : RowUnit })
    match bindConvRow x lc (rowOp x none lc none units) s with
    | none => blockNs x true s
    | some s => blockNs x false (noteRowTie l s)

/-! ### The order of dispatch (R170) -/

/-- The row is ready: `first` is the first unit of the zone row, or the lifetime class of a conventional row. -/
def rowReady (s : State) (x first : Nat) : Bool :=
  match nsAt s x with
  | none => false
  | some n => if n.zoned then (zoneReady s x n first true).isSome else (convReady s x n first true).isSome

/-- The rows that have landed units to be bound. -/
def openRows (s : State) : List (Nat × Nat) :=
  ((s.media.landing.filter (dispatchable s)).filterMap fun e => (nsAt s e.nsx).map fun n =>
    (e.nsx, if n.zoned then e.unit - e.unit % zoneUnits n % rowUnits n.width else e.lc)).eraseDups

/-- Frame, instance, namespace identifier and zone of a ready row, in one key. -/
def readyKey (s : State) (p : Nat × Nat × Nat) : Nat :=
  match nsAt s p.2.1 with
  | some n => ((p.1 * 2 ^ 16 + n.owner) * 2 ^ 16 + n.nsid) * 2 ^ 48 + p.2.2
  | none => 0

/-- Rows that have become ready join those that were, in the order in which they are bound. -/
def noteReady (s : State) : State :=
  let old := s.media.ready.filter fun p => rowReady s p.2.1 p.2.2
  let new := (openRows s).filter fun p => rowReady s p.1 p.2 && !(old.any fun q => decide (q.2 = p))
  let c := clk s
  updMedia (fun m => { m with ready := sortKey (readyKey s) (old ++ new.map fun p => (c, p)) }) s

/-- No row of a namespace that can take rows has been ready before it. -/
def rowTurn (s : State) (x first : Nat) : Bool :=
  (s.media.ready.takeWhile fun p => decide (p.2 ≠ (x, first))).all fun p =>
    match nsAt s p.2.1 with
    | some n => n.blocked
    | none => true

/-- A ready row of a namespace is bound in its turn: `first` is the first unit of the zone row, or the lifetime class of a
conventional row. -/
def dispatchRow (x first : Nat) (waited : Bool) (s : State) : State :=
  if !booted s ∨ flushing s ∨ s.media.journalReadOnly then s
  else
    let s := noteReady s
    if !rowTurn s x first then s
    else match nsAt s x with
      | none => s
      | some n => if n.zoned then dispatchZone x n first waited s else dispatchConv x n first waited s

def execStripeRowDispatch (x first : Nat) (s : State) : Host.Outcome State Fault Refusal :=
  act (dispatchRow x first false) s

/-- The partial rows whose wait has ended, in the order of dispatch. -/
def waitedRows (s : State) : List (Nat × Nat) :=
  ((noteReady s).media.ready.map (·.2)).filter fun p => s.media.landing.any fun e =>
    decide (e.nsx = p.1) && fired e.frame 1048576 (clk s)

def rowTimeouts (s : State) : State := forEach (waitedRows s) (fun p => dispatchRow p.1 p.2 true) s

/-- A partial row has waited 2^20 frames since its first unit landed: it is closed with pads (R27). -/
def execPartialRowWaitExpiry (x first : Nat) (s : State) : Host.Outcome State Fault Refusal :=
  act (dispatchRow x first true) s

/-! ### Re-placement (R184, R493) -/

/-- Copies that could not be bound stay with the victim: a refused relocation waits for the pantry level to
rise (R214). -/
def keepCopies (eg : Nat) (l : List (Nat × Loc × Stored)) : State → State :=
  updMedia fun m => { m with victims := m.victims.map fun v => if v.eg = eg then { v with copies := v.copies ++ l } else v }

/-- The units of a failed row are bound again: the next row of the current group, for a re-placed row that
has failed too a row of another group, from the last shelf if need be. Units gone from the landing buffer
meanwhile are left out; copies that no group takes stay with their victim. -/
def replaceRow (o : RowOp) (s : State) : State :=
  let units := o.units.filter fun p => match p.2.src with
    | .landing ord => (landedAt s ord).isSome
    | .copy _ => true
  let s := forEach units (fun p s => match p.2.src with
    | .landing ord => updLanded ord (fun e => { e with bound := none }) s
    | .copy _ => s) s
  let o' := { rowOp o.nsx o.zone o.lc o.reloc units with again := true }
  let back := match o.reloc with
    | none => s
    | some v => keepCopies v (units.filterMap fun p => match p.2.src with
      | .landing _ => none
      | .copy l => some (p.2.unit, l, p.2.stored)) s
  if units.isEmpty then s
  else match o.zone with
    | some (z, _) => (bindZoneFree z o.reloc.isNone o.again o' s).getD back
    | none => (bindConvFree o.nsx o.lc o.reloc.isSome o.reloc.isNone o.again o' s).getD back

/-! ### Copies of a relocation (R215, R221 step 2) -/

/-- Unit of the namespace that a copy carries, and the zone row it belongs to. -/
def zoneRowOf (n : Ns) (u : Nat) : Nat × Nat := (zoneOfUnit n u, u % zoneUnits n / rowUnits n.width)

/-- Bind the copies of one zone row, whole, by bind_row. -/
def bindZoneCopies (eg x : Nat) (n : Ns) (zk : Nat × Nat) (l : List (Nat × Loc × Stored)) (s : State) : Option State :=
  let base := (zk.1 - n.zbase) * zoneUnits n + zk.2 * rowUnits n.width
  let units := (sortKey (fun c => c.1) l).map fun c =>
    (c.1 - base, { unit := c.1, src := .copy c.2.1, stored := c.2.2 : RowUnit })
  bindZoneFree zk.1 false false (rowOp x (some zk) 0 (some eg) units) s

/-- Cut a list into pieces of at most `k`, with fuel. -/
def chunks {α : Type} (k : Nat) : Nat → List α → List (List α)
  | 0, _ => []
  | n + 1, l => if l.isEmpty then [] else l.take k :: chunks k n (l.drop k)

def takeCopies (eg : Nat) : State → State :=
  updMedia fun m => { m with victims := m.victims.map fun v => if v.eg = eg then { v with copies := [] } else v }

/-- A secure discard keeps the unit from any relocation but its own steps (R225). -/
def discardHolds (s : State) (x u : Nat) : Bool := s.zone.discards.any fun d => decide (d.nsx = x) && inRange d u

/-- Bind the copies `l` of a victim. -/
def bindAll (eg : Nat) (g : Group) (n : Ns) (l : List (Nat × Loc × Stored)) (s : State) : State :=
  if n.zoned then
    let rows := sortKey (fun (zk : Nat × Nat) => zk.1 * 2 ^ 32 + zk.2) (l.map fun c => zoneRowOf n c.1).eraseDups
    forEach rows (fun zk s =>
      let l := l.filter fun c => decide (zoneRowOf n c.1 = zk)
      if zoneLeaves s zk.1 then keepCopies eg l s
      else match bindZoneCopies eg g.nsx n zk l s with
        | some s => s
        | none => keepCopies eg l s) s
  else
    forEach (chunks (rowUnits n.width) (l.length + 1) l) (fun l s =>
      let units := ((List.range l.length).zip l).map fun p =>
        (p.1, { unit := p.2.1, src := .copy p.2.2.1, stored := p.2.2.2 : RowUnit })
      match bindConvFree g.nsx g.lc true false false (rowOp g.nsx none g.lc (some eg) units) s with
      | some s => s
      | none => keepCopies eg l s) s

/-- When every unit of a victim is decoded or found unreadable, its copies are bound: zoned ones a zone row at
a time in zone-row order, conventional ones in the order they were read. With no row of it left in program their map
updates follow. -/
def bindCopies (eg : Nat) (s : State) : State :=
  match s.media.victims.find? fun v => decide (v.eg = eg), groupAt s eg with
  | some v, some g =>
    if s.flash.reads.any fun r => decide (r.for_ = .reloc eg) then s
    else match nsAt s g.nsx with
      | none => s
      | some n => submitRows eg (bindAll eg g n (v.copies.filter fun c => !discardHolds s g.nsx c.1) (takeCopies eg s))
  | _, _ => s

end Sys2Proof.Machine
end

