-- ==== Sys2Proof/Machine/Tracker.lean ====
section
/-! DEFINITION. The read-level tracker, the latency ratios of the dies, the code rates and the read cache
(chapters Read Path and Placement Engine). -/

namespace Sys2Proof.Machine

/-! ### Code rates (R235, R268, R269) -/

/-- Stored codeword size S and hard limit of a rate index. -/
def codeSize (i : Nat) : Nat := if i = 0 then 4448 else if i = 1 then 4500 else if i = 2 then 4608 else 4736
def hardLimit (i : Nat) : Nat := if i = 0 then 90 else if i = 1 then 120 else if i = 2 then 170 else 230

/-- Bytes per frame at a ladder step. -/
def stepBytes (i : Nat) : Nat := [7200, 6400, 5600, 4800, 3200, 2400, 1600, 1066].getD i 1066

/-- Rate index of a group's die-pages. -/
def rateOf (s : State) (g : Group) : Nat :=
  match classAt s g.cls with
  | some k => k.rates.getD (if g.pslc then 4 else g.band) 0
  | none => 0

def groupRate (s : State) (eg : Nat) : Nat :=
  match groupAt s eg with
  | some g => rateOf s g
  | none => 0

/-- Frames one codeword of a group takes on a die's channel. -/
def xferFrames (s : State) (eg die : Nat) : Nat :=
  let b := match tabGet s.flash.chans (channelOf die) with
    | some c => stepBytes c.step
    | none => 7200
  (codeSize (groupRate s eg) + b - 1) / b

/-! ### Read-level tracker (R274 to R277) -/

def Trk.fresh : Trk := { ofs := List.replicate 15 0, acc := [0, 0, 0, 0], set := false, changed := false }

/-- The standing entry of a die. -/
def standingOf (s : State) (die : Nat) : Trk := tabGetD s.flash.standing die Trk.fresh

/-- The entry of a die block; one that has none stands at its die's standing entry. -/
def trackerOf (s : State) (die b : Nat) : Trk := tabGetD s.flash.trackers (blockKey die b) (standingOf s die)

/-- The two entries as the plan built in this frame takes them: a change takes effect in the plan built in the next
frame (R275). -/
def plannedStanding (s : State) (die : Nat) : Trk := tabGetD s.flash.standingWere die (standingOf s die)

def plannedTracker (s : State) (die b : Nat) : Trk :=
  match tabGet s.flash.trackersWere (blockKey die b), tabGet s.flash.trackers (blockKey die b) with
  | some t, _ => t
  | none, some t => t
  | none, none => plannedStanding s die

/-- Read levels of a cell; pSLC has one (R274). -/
def levelCount (k : Class) (pslc : Bool) : Nat := if pslc then 1 else 2 ^ k.bitsPerCell - 1

def clampOfs (k : Class) (i : Int) : Int := max k.ofsMin (min k.ofsMax i)

/-- Offsets `d` steps from an entry's on the levels the cell has, within the table's range. -/
def shiftOfs (k : Class) (levels : Nat) (d : Int) (l : List Int) : List Int :=
  ((List.range l.length).zip l).map fun p => if p.1 < levels then clampOfs k (p.2 + d) else 0

/-- Add `d` (1-to-0 less 0-to-1 flips) to a page type's accumulator; at ±256 the levels it reads move by one
step and it clears. Which levels a page type reads is open (log 3); levels beyond the cell's count stay zero. -/
def Trk.feed (k : Class) (levels pt : Nat) (d : Int) (t : Trk) : Trk :=
  let a := t.acc.getD pt 0 + d
  if a.natAbs < 256 then { t with acc := t.acc.set pt a, changed := true }
  else
    let up := bitOf k.dir pt == decide (0 < a)
    let move := fun (p : Nat × Int) =>
      if levels ≤ p.1 then 0
      else if Config.readsLevel k.bitsPerCell pt p.1 then clampOfs k (if up then p.2 + 1 else p.2 - 1)
      else p.2
    { ofs := ((List.range t.ofs.length).zip t.ofs).map move, acc := t.acc.set pt 0, set := true, changed := true }

/-- The entry a change replaces stands for the plan built in this frame. -/
def keepOld (t : Tab Trk) (k : Nat) (old : Trk) : Tab Trk := if (tabGet t k).isSome then t else tabSet t k old

/-- A successful hard decode of page `page` feeds the block's entry, and the die's where the page was sensed at
standing offsets. -/
def feedTracker (die b page : Nat) (atStanding : Bool) (d : Int) (s : State) : State :=
  match (dieAt s die).bind fun x => classAt s x.cls with
  | none => s
  | some k =>
    let pt := Config.pageType k.bitsPerCell page % 4
    let levels := levelCount k (blockAt s die b).pslc
    let old := trackerOf s die b
    let s := updFlash (fun f => { f with
      trackersWere := keepOld f.trackersWere (blockKey die b) old
      trackers := tabSet f.trackers (blockKey die b) (old.feed k levels pt d) }) s
    when atStanding (updFlash fun f =>
      let old := tabGetD f.standing die Trk.fresh
      { f with
        standingWere := keepOld f.standingWere die old
        standing := tabSet f.standing die (old.feed k levels pt d) }) s

/-- The block's tracked offsets differ from the standing ones (R278). -/
def tracked (s : State) (die b : Nat) : Bool := decide ((trackerOf s die b).ofs ≠ (standingOf s die).ofs)

/-! ### Latency ratios (R187) -/

/-- Add a measurement of `t` frames against a nominal time. -/
def Ratio.add (nominal t : Nat) (r : Ratio) : Ratio :=
  { r with sum := r.sum + 256 * t / max 1 nominal, n := r.n + 1 }

/-! ### The read cache (R32, R285) -/

def cacheHit (s : State) (l : Loc) : Option Stored :=
  (s.flash.cache.find? fun e => decide (e.1 = l)).map (·.2)

/-- Enter a unit as the most recently used; the least recently used go. -/
def cacheFill (l : Loc) (t : Stored) (s : State) : State :=
  let k := cacheUnits s
  updFlash (fun f => { f with cache := ((l, t) :: f.cache.filter fun e => decide (e.1 ≠ l)).take k }) s

/-- Drop every entry of an erase group. -/
def cacheDrop (eg : Nat) : State → State :=
  updFlash fun f => { f with cache := f.cache.filter fun e => decide (e.1.eg ≠ eg) }

/-! ### Flags of groups (R217, R278) -/

def refreshGroup (eg : Nat) : State → State := updGroup eg fun g => { g with refresh := true }

/-- A die of the system area that can pay a die-page program from its garbage-collection bucket, and the price (R219,
R277). -/
def savePayer (s : State) : Option (Nat × Nat) :=
  (systemDies s).findSome? fun die =>
    match dieAt s die with
    | none => none
    | some d => match classAt s d.cls with
      | some k => if 256 * k.tProg ≤ d.gc then some (die, 256 * k.tProg) else none
      | none => none

/-- Save the tracker entries that have changed: they go to the flash system area, paid from the tokens of one of its dies
(R277). -/
def trackerSave (s : State) : State :=
  if !booted s ∨ flushing s ∨ clk s < s.flash.lastSave + 2 ^ 28 then s
  else match savePayer s with
    | none => s
    | some (die, price) =>
      let c := clk s
      let saved := fun (t : Tab Trk) => tabMap (fun _ x => { x with changed := false }) t
      updDie die (fun d => { d with gc := d.gc - price }) (updFlash (fun f => { f with
        lastSave := c
        trackers := saved f.trackers
        standing := saved f.standing
        savedTrk := saved f.trackers
        savedStanding := saved f.standing }) s)

def execTrackerSave (s : State) : Host.Outcome State Fault Refusal := act trackerSave s

end Sys2Proof.Machine
end

