-- ==== Sys2Proof/Machine/Reads.lean ====
section
/-! DEFINITION. Reads: lookup, the retry ladder, decode, reconstruction and egress (R28, and chapter Read
Path, LDPC and Back-Stair Reads). Which sensings are placed is in Planner.lean. -/

namespace Sys2Proof.Machine

/-! ### Requests -/

/-- First elapsed frame whose plan a request made now can enter (R46). -/
def planFrame (s : State) : Nat := if s.frame.inputOpen then clk s else clk s + 1

/-- A read of unit `u` at place `l`, before it has a number. -/
def readOp (s : State) (w : RdFor) (x u : Nat) (l : Loc) : RdOp :=
  { id := 0, for_ := w, nsx := x, unit := u, loc := l, step := 1, extra := 0, lr := false, fua := false, back := none,
    st := .requested, frame := planFrame s, senses := [], noBack := false, resensed := false, pin := none,
    second := false }

def addRead (r : RdOp) : State → State :=
  updFlash fun f => { f with reads := f.reads ++ [{ r with id := f.nextRead }], nextRead := f.nextRead + 1 }

def findRead (s : State) (id : Nat) : Option RdOp := s.flash.reads.find? fun r => decide (r.id = id)

def updRead (id : Nat) (f : RdOp → RdOp) : State → State :=
  updFlash fun x => { x with reads := x.reads.map fun r => if r.id = id then f r else r }

def dropRead (id : Nat) : State → State :=
  updFlash fun x => { x with reads := x.reads.filter fun r => decide (r.id ≠ id) }

/-! ### Completion of a read (R117, R120, R121) -/

/-- FAIL_MAP and FAILED of a read. -/
def failMap (it : Item) : BitVec 512 :=
  BitVec.ofNat 512 (it.failed.foldl (fun n u => n + 2 ^ (u - it.unit)) 0)

/-- Enter a failed read in log 0xC2 and report it. -/
def logReadFail (it : Item) (s : State) : State :=
  let e : ReadFail :=
    { frame := now s, nsid := it.sqe.nsid.toNat, sq := it.id.sq, cid := it.id.cid, slba := it.sqe.slba,
      nlb := it.sqe.nlb - 1, failed := it.failed.length, map := failMap it }
  notify it.id.fn always { type := 7, info := 0x00, log := 0xC2 }
    (updCtl it.id.fn (fun c => { c with readFailTotal := c.readFailTotal + 1, readFails := (e :: c.readFails).take 64 }) s)

/-- Post a read whose last unit is done. -/
def readDone (seq : Nat) (s : State) : State :=
  match itemBySeq s seq with
  | none => s
  | some it =>
    if it.outcome.isSome ∨ it.doneUnits.length + it.failed.length < it.count ∨ flushing s then s
    else if it.failed.isEmpty then finishOk seq s
    else finishBad seq stUnrecovered (if it.silent then s else logReadFail it s)

/-- A unit of a read fails. -/
def failUnit (seq u : Nat) (s : State) : State :=
  readDone seq (updItem seq (fun i => { i with failed := u :: i.failed }) s)

/-! ### The ladder (R278, R279, R283, R286 to R288) -/

/-- A unit is uncorrectable: counted, its group due for refresh, and its read ends. -/
def uncorrectable (r : RdOp) (s : State) : State :=
  let s := refreshGroup r.loc.eg (recDataErr 7 1 s)
  let s := dropRead r.id (callWrite { s with therm := { s.therm with mediaErrors := s.therm.mediaErrors + 1 } })
  match r.for_ with
  | .host seq => failUnit seq r.unit s
  | .reloc eg =>
    bindCopies eg (updMedia (fun m => { m with victims := m.victims.map fun v =>
      if v.eg = eg then { v with stuck := v.stuck ++ [r.loc] } else v }) s)
  | .patrol => s
  | .probe => s
  | .merge seq => failItem seq stUnrecovered s

/-- Request the read's next sensing: the planner sees it in the frame after the failed decode. -/
def again (id : Nat) (f : RdOp → RdOp) (s : State) : State :=
  let c := clk s + 1
  updRead id (fun r => { f r with st := .requested, senses := [], frame := c }) s

/-- Go to ladder step `k`, counted under its index (R478). -/
def toStep (k : Nat) (r : RdOp) (s : State) : State :=
  let s := recDataErr (7 + k) 1 s
  if k = 4 then updRead r.id (fun r => { r with step := 4, st := .decoding }) s
  else again r.id (fun r => { r with step := k, extra := 0, back := if k = 5 then some .ladder else r.back }) s

/-- The die and block that hold a member of a read's row. -/
def memberPlace (s : State) (l : Loc) (m : Nat) : Option (Nat × Nat × Nat × Bool) :=
  (groupAt s l.eg).bind fun g => (g.members[m]?).map fun k => k.at l.row

/-- The member that holds a place. -/
def targetMember (s : State) (l : Loc) : Nat :=
  match groupAt s l.eg with
  | some g => dataMember g.width l.row l.ddp
  | none => 0

/-- The step after a failed decode. A read whose command has ended climbs no further (R292). -/
def climb (r : RdOp) (s : State) : State :=
  if r.for_ = .probe then dropRead r.id s
  else if r.step = 1 then
    match memberPlace s r.loc (targetMember s r.loc) with
    | some (die, b, _, _) =>
      if tracked s die b then toStep 2 r s else if r.lr then toStep 5 r s else toStep 3 r s
    | none => uncorrectable r s
  else if r.step = 2 then (if r.lr then toStep 5 r s else toStep 3 r s)
  else if r.step = 3 then
    if r.extra < 2 then again r.id (fun r => { r with extra := r.extra + 1 }) s else toStep 4 r s
  else if r.step = 4 then toStep 5 r s
  else uncorrectable r s

/-- The data of a read's unit is decoded and verified: it goes to its reader. -/
def deliver (r : RdOp) (t : Stored) (s : State) : State :=
  let s := when (decide (3 ≤ r.step)) (refreshGroup r.loc.eg) s
  let s := when (!r.fua) (cacheFill r.loc t) s
  match r.for_ with
  | .host _ => updRead r.id (fun r => { r with st := .decoded t, senses := [] }) s
  | .merge _ => updRead r.id (fun r => { r with st := .decoded t, senses := [] }) s
  | .reloc eg =>
    bindCopies eg (updMedia (fun m => { m with victims := m.victims.map fun v =>
      if v.eg = eg then { v with copies := v.copies ++ [(r.unit, r.loc, t)] } else v }) (dropRead r.id s))
  | .patrol => dropRead r.id s
  | .probe => dropRead r.id s

/-- The header of a unit says what the lookup that found it expects (R298). A pad carries none. -/
def headerGood (s : State) (r : RdOp) (t : Stored) : Bool :=
  match nsAt s r.nsx with
  | some n => hdrMatches n r.nsx r.unit t.hdr
  | none => false

/-- A read wants the unit the decoder found: one with a matching header; a patrol or probe read wants whatever
is stored there. -/
def wanted (s : State) (r : RdOp) (t : Stored) : Bool :=
  decide (r.for_ = .patrol) || decide (r.for_ = .probe) || headerGood s r t

/-! ### CODEWORD_DECODE (R272, R273, R275, R298) -/

/-- A transfer error of the channel that carried a member's codeword, of which those of the last 2^16 frames count
(R249). -/
def noteRetry (l : Loc) (m : Nat) (s : State) : State :=
  match memberPlace s l m with
  | none => s
  | some (die, _, _, _) =>
    let c := clk s
    updFlash (fun f => { f with chans := tabUpd f.chans (channelOf die) fun x =>
      { x with xferErrs := c :: x.xferErrs.filter fun e => decide (c < e + 65536) } }) s

/-- A successful hard decode of member `m` of the read's row: it feeds the tracker, and a codeword with more
than three quarters of the hard limit makes the group due for refresh. -/
def goodDecode (l : Loc) (m : Nat) (atStanding : Bool) (up down : Nat) (s : State) : State :=
  match memberPlace s l m with
  | none => s
  | some (die, b, page, _) =>
    let s := feedTracker die b page atStanding ((down : Int) - up) s
    when (decide (3 * hardLimit (groupRate s l.eg) < 4 * (up + down))) (refreshGroup l.eg) s

/-- A reconstruction brings no unit: what follows depends on why it was chosen (R283). -/
def backEnds (r : RdOp) (s : State) : State :=
  if r.for_ = .probe then dropRead r.id s
  else if r.back = some .unavailable then
    again r.id (fun r => { r with step := 1, back := none, noBack := true }) s
  else uncorrectable r s

/-- A member has failed, which is counted (R284). -/
def backFails (r : RdOp) (s : State) : State := backEnds r (recDataErr 15 1 s)

/-- Members' codewords still to be decoded and members that wait for their second step; with none left the parts can be
XORed. A read whose command has ended takes no further step (R292). -/
def setMembers (r : RdOp) (ready second : List Nat) (s : State) : State :=
  let second := if r.for_ = .probe then [] else second
  let fin := ready.isEmpty && second.isEmpty && r.senses.isEmpty
  if fin ∧ r.for_ = .probe then dropRead r.id s
  else updRead r.id (fun k => { k with st := if fin then .rebuilt else .members ready second }) s

/-- A member's codeword is decoded. One that fails takes a second step at the block's tracked offsets, else the
reconstruction fails (R282, R283). -/
def decodeMember (r : RdOp) (code : Nat) (rest second : List Nat) (out : DecodeOut) (s : State) : State :=
  let m := code % 32
  let fails := fun (s : State) =>
    match memberPlace s r.loc m with
    | some (die, b, _, _) =>
      if r.for_ = .probe then setMembers r rest second s
      else if code < 32 ∧ tracked s die b then
        let c := clk s + 1
        updRead r.id (fun k => { k with frame := c }) (setMembers r rest (second ++ [m]) s)
      else backFails r s
    | none => backFails r s
  match out with
  | .good up down => setMembers r rest second (goodDecode r.loc m (decide (code < 32)) up down s)
  | .retried up down => setMembers r rest second (goodDecode r.loc m (decide (code < 32)) up down (noteRetry r.loc m s))
  | .fail => fails s
  | .wrong => fails (recDataErr 5 1 s)

/-- A direct read's codeword has decoded. -/
def directDecode (r : RdOp) (up down : Nat) (s : State) : State :=
  let s := goodDecode r.loc (targetMember s r.loc) (decide (r.step = 1)) up down s
  match flashAt s r.loc with
  | some t => if wanted s r t then deliver r t s else climb r (recDataErr 6 1 s)
  | none => if r.for_ = .patrol ∨ r.for_ = .probe then dropRead r.id s else climb r (recDataErr 6 1 s)

/-- A codeword is decoded: of a direct read in steps 1 to 3, or of a member. -/
def codewordDecode (id : Nat) (out : DecodeOut) (s : State) : State :=
  match findRead s id with
  | none => s
  | some r =>
    if !hallRuns s then s
    else match r.st with
      | .decoding =>
        if r.step = 4 then s
        else match out with
          | .good up down => directDecode r up down s
          | .retried up down => directDecode r up down (noteRetry r.loc (targetMember s r.loc) s)
          | .fail => climb r s
          | .wrong => climb r (recDataErr 5 1 s)
      | .members (code :: rest) second => decodeMember r code rest second out s
      | _ => s

def execCodewordDecode (id : Nat) (out : DecodeOut) (s : State) : Host.Outcome State Fault Refusal :=
  act (codewordDecode id out) s

/-- The soft decode of step 4 ends (R272, R278). -/
def softDecode (id : Nat) (out : DecodeOut) (s : State) : State :=
  match findRead s id with
  | none => s
  | some r =>
    if !hallRuns s ∨ r.st ≠ .decoding ∨ r.step ≠ 4 then s
    else match out, flashAt s r.loc with
      | .good _ _, some t => if wanted s r t then deliver r t s else climb r (recDataErr 6 1 s)
      | .retried _ _, some t => if wanted s r t then deliver r t s else climb r (recDataErr 6 1 s)
      | .wrong, _ => climb r (recDataErr 5 1 s)
      | _, _ => climb r s

def execSoftDecodeComplete (id : Nat) (out : DecodeOut) (s : State) : Host.Outcome State Fault Refusal :=
  act (softDecode id out) s

/-- What a slot of a row holds in the member codewords other than data die-page `ddp`, XORed (R271). -/
def xorOthers (s : State) (l : Loc) (w : Nat) : Stored :=
  ((List.range (w - 1)).filter fun d => decide (d ≠ l.ddp)).foldl (fun a d =>
    a.xor ((flashAt s { l with ddp := d }).getD padUnit))
    (tabGetD s.media.parity (l.eg * 2 ^ 24 + l.row * 2 ^ 9 + l.slot) noUnit)

/-- The decoded members' information parts are XORed, which gives the target's, and STORED_CHECK verified
(R271, R283). -/
def backStair (id : Nat) (s : State) : State :=
  match findRead s id with
  | none => s
  | some r =>
    if !hallRuns s ∨ r.st ≠ .rebuilt then s
    else match groupAt s r.loc.eg with
      | none => backEnds r s
      | some g =>
        let t := xorOthers s r.loc g.width
        if innerCheck t.data t.meta_ t.hdr = t.check ∧ wanted s r t then deliver r t s else backEnds r s

def execBackStairReconstruct (id : Nat) (s : State) : Host.Outcome State Fault Refusal := act (backStair id) s

/-! ### READ and VERIFY (R28, R110, R149, R285) -/

/-- Request unit `u` of a started read. -/
def readUnit (it : Item) (x : Nat) (n : Ns) (u : Nat) (s : State) : State :=
  let lr := it.sqe.cdw12.getLsbD 31
  let fua := it.sqe.cdw12.getLsbD 30 && decide (it.opc = 0x02)
  let r := { readOp s (.host it.seq) x u (locOf 0 0 0) with lr := lr, fua := fua }
  match lookup s x n u with
  | .unmapped => addRead { r with st := .zeros } s
  | .landing e => addRead { r with st := .decoded e.stored, pin := some e.order } (pinEntry e.order s)
  | .flash l =>
    match (if fua then none else cacheHit s l) with
    | some t => addRead { r with loc := l, st := .decoded t } (cacheFill l t s)
    | none => addRead { r with loc := l } s

/-- A read of a deallocated block fails where the function has enabled it; conventional namespaces only
(R107). -/
def deallocatedRead (s : State) (it : Item) (x : Nat) (n : Ns) (first cnt : Nat) : Bool :=
  (match ctlOf s it.id.fn with
   | some c => c.feats.dulbe
   | none => false) && !n.zoned &&
  (List.range' first cnt).any fun u => (pmAt s x u).isNone

def startRead (x : Nat) (n : Ns) (it : Item) (s : State) : State :=
  let first := firstUnit n it.sqe.slba
  let cnt := unitCount n it.sqe.slba it.sqe.nlb
  if deallocatedRead s it x n first cnt then finishBad it.seq stDeallocated s
  else
    forEach (List.range' first cnt) (readUnit it x n)
      (updItem it.seq (fun i => { i with phase := .started, hold := .none, unit := first, count := cnt }) s)

def tryRead (x : Nat) (n : Ns) (it : Item) (s : State) : State :=
  if barrierOpen s it then startRead x n it s
  else updItem it.seq (fun i => { i with phase := .waiting, hold := .order }) s

/-- Parse a fetched Read or Verify and start it if no barrier holds it. -/
def readRow (opc : Nat) (id : CmdId) (s : State) : State :=
  match findItem s id with
  | none => s
  | some it =>
    if it.opc ≠ opc ∨ it.phase ≠ .fetched ∨ !ioOpen s it then s
    else match parseIo s it with
      | .inl st => finishBad it.seq st s
      | .inr (x, n) => tryRead x n it s

def execRead (id : CmdId) (s : State) : Host.Outcome State Fault Refusal := act (readRow 0x02 id) s

def execVerify (id : CmdId) (s : State) : Host.Outcome State Fault Refusal := act (readRow 0x0C id) s

/-- A read a barrier has held starts. -/
def barrierRead (id : CmdId) (s : State) : State :=
  match findItem s id with
  | none => s
  | some it =>
    if it.phase ≠ .waiting ∨ !ioOpen s it ∨ !isReadOpc it.opc ∨ !barrierOpen s it then s
    else match nsOf s id.fn it.sqe.nsid.toNat with
      | none => s
      | some (x, n) => startRead x n it s

/-- At the boundary after the completions it waits on are posted, a command held by a barrier starts
(R113). -/
def barrierRelease (id : CmdId) (s : State) : State := barrierRead id (barrierWrite id s)

def execOrdBarrierRelease (id : CmdId) (s : State) : Host.Outcome State Fault Refusal := act (barrierRelease id) s

/-! ### READ_EGRESS (R28 steps 6 to 8, R302, R306 to R309) -/

/-- The blocks a command asks of unit `u`, with their metadata, from the plaintext and metadata of the unit. -/
def askedBlocks (n : Ns) (e : Sqe) (u : Nat) (d m : List Byte) : List (List Byte × List Byte) :=
  let (b0, cnt) := blockSpan n e u
  let bs := lbaData n.lbaf
  let ms := lbaMeta n.lbaf
  (pieces bs cnt (d.drop (b0 * bs))).zip (pieces ms cnt (m.drop (b0 * ms)))

/-- The entry a unit is read from is let go and the request ends. -/
def endRead (r : RdOp) (s : State) : State :=
  let s := match r.pin with
    | some o => unpinEntry o s
    | none => s
  dropRead r.id s

/-- Send a unit's blocks to the host: PI checked as PRCHK says and stripped with PRACT; a Verify sends
nothing. -/
def sendUnit (it : Item) (n : Ns) (u : Nat) (d m : List Byte) (s : State) : State :=
  let g32 := match ctlOf s it.id.fn with
    | some c => c.guard32
    | none => false
  let bl := askedBlocks n it.sqe u d m
  let first := u * blocksPerUnit n + (blockSpan n it.sqe u).1 - it.sqe.slba
  let fault := if n.pit = 0 ∨ lbaMeta n.lbaf = 0 then none else piFaults n g32 it.sqe first bl
  match fault with
  | some st =>
    let failed := !it.failed.isEmpty && !it.silent
    finishBad it.seq st (when failed (logReadFail it) (dropReads it.seq s))
  | none =>
    let pi := if n.pit ≠ 0 ∧ it.sqe.pract then [] else (bl.map (·.2)).flatten
    let data := (bl.map (·.1)).flatten
    let s := if it.opc ≠ 0x02 ∨ it.silent then s else
      updCtl it.id.fn (fun c => { c with dataRead := c.dataRead + data.length })
        (meter it.id.fn (fun k => { k with bytesRead := k.bytesRead + data.length + pi.length })
          (send (.unitOut it.id.fn it.id.cid u data pi) s))
    readDone it.seq (updItem it.seq (fun i => { i with doneUnits := u :: i.doneUnits }) s)

/-- A unit whose stored check (`i` = 2) or header (`i` = 6, R298) fails at decryption is counted and read again
from its source once (R307). -/
def rereadUnit (i : Nat) (r : RdOp) (it : Item) (s : State) : State :=
  let s := recDataErr i 1 s
  if r.second then failUnit it.seq r.unit (endRead r s)
  else match r.pin with
    | some _ => updRead r.id (fun r => { r with second := true }) s
    | none => again r.id (fun r => { r with step := 1, second := true }) s

/-- Unit `u` of a started read leaves the device. -/
def readEgress (id : CmdId) (u : Nat) (s : State) : State :=
  match findItem s id with
  | none => s
  | some it =>
    if it.phase ≠ .started ∨ it.outcome.isSome ∨ !hallRuns s then s
    else match s.flash.reads.find? fun r => decide (r.for_ = .host it.seq) && decide (r.unit = u),
        nsOf s id.fn it.sqe.nsid.toNat with
      | some r, some (x, n) =>
        match r.st with
        | .zeros =>
          let g32 := match ctlOf s id.fn with
            | some c => c.guard32
            | none => false
          sendUnit it n u (zeros 4096) (List.replicate (blocksPerUnit n) (zeroPi n g32)).flatten (endRead r s)
        | .decoded t =>
          if innerCheck t.data t.meta_ t.hdr ≠ t.check then rereadUnit 2 r it s
          else if !hdrMatches n x u t.hdr then rereadUnit 6 r it s
          else if t.hdr.poison then failUnit it.seq u (endRead r s)
          else
            let p := openUnit s x n u t
            if p.ok then sendUnit it n u (bvBytes p.data) (bvBytes p.meta_) (endRead r s)
            else failUnit it.seq u (recDataErr 3 1 (endRead r s))
        | _ => s
      | _, _ => s

def execReadEgress (id : CmdId) (u : Nat) (s : State) : Host.Outcome State Fault Refusal := act (readEgress id u) s

/-! ### HOST_DMA_FAILURE (R117, R145, R547) -/

/-- A data DMA fails at the link: a write fails; a read issues no further data DMA, and its units that have failed on
the media are entered in log 0xC2. -/
def dmaFailure (id : CmdId) (s : State) : State :=
  match findItem s id with
  | none => s
  | some it =>
    if it.phase ≠ .started ∨ it.outcome.isSome ∨ flushing s ∨ it.opc = 0x0C ∨ it.opc = 0x08 ∨
        !(isWriteOpc it.opc || decide (it.opc = 0x02)) then s
    else
      let failed := decide (it.opc = 0x02) && !it.failed.isEmpty && !it.silent
      failItem it.seq stDataTransfer (when failed (logReadFail it) s)

def execHostDmaFailure (id : CmdId) (s : State) : Host.Outcome State Fault Refusal := act (dmaFailure id) s

end Sys2Proof.Machine
end

