-- ==== Sys2Proof/Machine/Bus.lean ====
section
/-! DEFINITION. The channel buses: what a sequencer moves in a frame and in which order, the ONFI commands it issues, the
windows of a retraining, and the outputs at rest (R22, R235 to R241, R250, R253 to R256, R265, R528). -/

namespace Sys2Proof.Machine

/-! ### Operations of a die (R253 to R259) -/

/-- Frames an operation has run by elapsed frame `c`, not counting suspended ones: a suspension counts from
its SUSPEND. -/
def DieOp.runAt (o : DieOp) (c : Nat) : Nat :=
  if o.suspended ∨ o.suspPending then o.ran else o.ran + (c - o.resumedAt.getD o.issued)

/-- Frames from issue to now less suspended ones (R187). -/
def DieOp.measured (o : DieOp) (c : Nat) : Nat := c - o.issued - o.suspFrames

/-- The nominal time of a kind of operation, and its parameter-page maximum. -/
def nominal (k : Class) : OpKind → Nat
  | .read => k.tR
  | .program => k.tProg
  | .erase => k.tBers

def maxTime (k : Class) : OpKind → Nat
  | .read => k.maxR
  | .program => k.maxProg
  | .erase => k.maxBers

def dieClass (s : State) (die : Nat) : Option Class := (dieAt s die).bind fun d => classAt s d.cls

/-! ### The commands of a LUN (R236 to R239) -/

/-- A command that addresses a codeword is issued to a die: its target's CE_N is low, all others of the channel are
high. -/
def onfiAt (die first last plane column : Nat) : State → State :=
  send (.onfi (channelOf die) (die % 32 / 4) (die % 4) first last plane column)

/-- A command is issued to a die. -/
def onfi (die first last : Nat) : State → State := onfiAt die first last 0 0

/-- The plane and the column of unit slot `u`, with `n` codewords of `size` bytes in a plane's page (R271). -/
def slotPlace (n size u : Nat) : Nat × Nat := (u / n, u % n * size)

/-- One command a plane, the last one closing the multi-plane sequence. -/
def onfiPlanes (die planes first more last : Nat) (s : State) : State :=
  onfi die first last (forEach (List.range (planes - 1)) (fun _ => onfi die first more) s)

/-- The row lies in a pSLC group: the class's entry prefix goes before an operation and its exit opcode follows it
(R238). -/
def pslcGroup (s : State) (eg : Nat) : Bool :=
  match groupAt s eg with
  | some g => g.pslc
  | none => false

/-- Set Features or Set LUN Features at the read levels' address (R236, R238). -/
def onfiLevels (die : Nat) (k : Class) : State → State :=
  if k.levelLun then onfi die 0xD5 k.levelAddr else onfi die 0xEF k.levelAddr

/-! ### A channel's bus in one frame (R241, R254) -/

/-- What the bus work of a frame brings about. -/
inductive BusEv
  /-- a command to a die: its first and last cycle -/
  | cmd (die first last : Nat)
  /-- a command that addresses the codeword at a plane and a column -/
  | seek (die first last : Nat) (place : Nat × Nat)
  /-- the codeword at a slot of a sensed page has been transferred; it may be the last one listed -/
  | word (die sense slot : Nat) (last : Bool)
  /-- the last codeword of a data-in has been moved: the program confirm -/
  | confirm (d : DataIn)
deriving DecidableEq, Repr

/-- The commands due when a data-in stands at a codeword boundary: a plane's data is closed, and with the last plane
the program is confirmed. -/
def DataIn.atBoundary (d : DataIn) : List BusEv :=
  if d.part ≠ 0 ∨ d.moved % d.perPlane ≠ 0 then []
  else if d.moved = 16 then [.cmd d.die 0x80 0x10, .confirm d] else [.cmd d.die 0x80 0x11]

/-- The codeword in progress of the first data-in moves by as much as the frame still holds; at the boundary after it
the data-in is paused when a read transfer waits. -/
def Chan.moveData (c : Chan) (d : DataIn) (rest : List DataIn) (read : Bool) : Chan × List BusEv :=
  let k := min c.busLeft d.part
  let d := { d with part := d.part - k }
  let d := if d.part = 0 then { d with moved := d.moved + 1, paused := read } else d
  ({ c with busLeft := c.busLeft - k, dataIns := if d.part = 0 ∧ d.moved = 16 then rest else d :: rest }, d.atBoundary)

/-- The codeword in progress of the first read transfer moves likewise. -/
def Chan.moveXfer (c : Chan) (q : Xfer) (rest : List Xfer) : Chan × List BusEv :=
  let k := min c.busLeft q.left
  let c := { c with
    busLeft := c.busLeft - k
    dataIns := match c.dataIns with
      | d :: ds => { d with paused := d.paused || decide (0 < d.moved) } :: ds
      | [] => [] }
  if k < q.left then ({ c with xfers := { q with left := q.left - k } :: rest }, [])
  else match q.slots with
    | [] => ({ c with xfers := rest }, [])
    | [u] => ({ c with xfers := rest }, [.seek q.die 0x06 0xE0 (slotPlace q.perPlane q.size u), .word q.die q.sense.id u true])
    | u :: us => ({ c with xfers := { q with slots := us, left := q.size } :: rest },
        [.seek q.die 0x06 0xE0 (slotPlace q.perPlane q.size u), .word q.die q.sense.id u false])

/-- Read transfers come first, one codeword at a time; a data-in codeword already on the bus ends before them. -/
def Chan.runXfers : Nat → Chan → Chan × List BusEv
  | 0, c => (c, [])
  | n + 1, c =>
    if c.retraining ∨ c.busLeft = 0 then (c, [])
    else match c.xfers, c.dataIns with
      | [], _ => (c, [])
      | q :: qs, d :: ds =>
        let (c, e) := if 0 < d.part then c.moveData d ds true else c.moveXfer q qs
        let (c, e') := runXfers n c
        (c, e ++ e')
      | q :: qs, [] =>
        let (c, e) := c.moveXfer q qs
        let (c, e') := runXfers n c
        (c, e ++ e')

/-- What read transfers leave of the frame goes to the data-ins, in the order of their issue; a paused one resumes with
Change Write Column. -/
def Chan.runData : Nat → Chan → Chan × List BusEv
  | 0, c => (c, [])
  | n + 1, c =>
    if c.retraining ∨ c.busLeft = 0 ∨ !c.xfers.isEmpty then (c, [])
    else match c.dataIns with
      | [] => (c, [])
      | d :: ds =>
        let back := if d.paused then [BusEv.seek d.die 0x85 0x85 (slotPlace d.perPlane d.size d.moved)] else []
        let (c, e) := c.moveData { d with part := if d.part = 0 then d.size else d.part, paused := false } ds false
        let (c, e') := runData n c
        (c, back ++ e ++ e')

/-- More codewords than the bus work of the channel has. -/
def Chan.work (c : Chan) : Nat := 2 + (c.xfers.map fun q => q.slots.length + 1).sum + 17 * c.dataIns.length

/-! ### Sensings and transfers (R253, R256, R257, R282) -/

/-- The PHY training seed of a channel: FLASH_SEED of the calibration set, a nominal one where the set is not valid
(R248, R418). -/
def flashSeed (s : State) (ch : Nat) : Nat :=
  if s.fw.calState = 2 then 0 else fieldAt s.fw.calib.body (2048 - 12 + 32 * ch) 32

def updChan (ch : Nat) (f : Chan → Chan) : State → State :=
  updFlash fun x => { x with chans := tabUpd x.chans ch f }

def chanAt (s : State) (ch : Nat) : Option Chan := tabGet s.flash.chans ch

/-- A page sensed on the die waits for its transfer: the die senses no other before (R237, R289). -/
def xferPending (s : State) (die : Nat) : Bool :=
  match chanAt s (channelOf die) with
  | some c => c.xfers.any fun q => decide (q.die = die)
  | none => false

/-- A program's data is being moved to the die. -/
def dataPending (s : State) (die : Nat) : Bool :=
  match chanAt s (channelOf die) with
  | some c => c.dataIns.any fun d => decide (d.die = die)
  | none => false

/-- Start a sensing on a die. Offsets other than the standing ones are set first and stay in the die (R276). -/
def startSense (die : Nat) (q : Sense) (s : State) : State :=
  let c := clk s
  let s := match dieClass s die with
    | none => s
    | some k =>
      let s := when q.ofs.isSome (onfiLevels die k) s
      let p := pslcGroup s q.eg
      let s := when p (onfi die k.pslcIn k.pslcIn) s
      let s := onfiPlanes die k.planes 0x00 0x32 0x30 s
      when p (onfi die k.pslcOut k.pslcOut) s
  updDie die (fun d => { d with
    sensing := some { q with issued := c }
    ready := false
    held := q.ofs.getD d.held
    op := d.op.map fun o => { o with senses := o.senses + flag o.suspended 1 } }) s

/-- A die that is ready for a sensing takes the next one queued: it idles, or its operation is suspended with
fewer than four sensings taken (R256, R257). -/
def kickDie (die : Nat) (s : State) : State :=
  match dieAt s die with
  | none => s
  | some d =>
    match d.sensing, d.queue with
    | none, q :: rest =>
      let free : Bool := match d.op with
        | none => true
        | some o => o.suspended && decide (o.senses < 4)
      if free ∧ d.inUse ∧ !flushing s ∧ !xferPending s die ∧ !dataPending s die then
        startSense die q (updDie die (fun d => { d with queue := rest }) s)
      else s
    | _, _ => s

/-- A read that holds sensing number `n`: the member it was taken for. -/
def RdOp.senseOf (r : RdOp) (n : Nat) : Option Nat := (r.senses.find? fun p => decide (p.2 = n)).map (·.1)

/-- The codeword at a slot of a sensing is transferred: a direct read goes to its decode, a member's codeword to its
own. -/
def RdOp.take (n slot : Nat) (r : RdOp) : RdOp :=
  match r.senseOf n with
  | none => r
  | some m =>
    if r.loc.slot ≠ slot then r
    else
      let rest := r.senses.filter fun p => decide (p.2 ≠ n)
      let st := match r.st with
        | .members a b => .members (a ++ [m]) b
        | _ => .decoding
      { r with senses := rest, st := st }

def transferred (n slot : Nat) : State → State := updFlash fun f => { f with reads := f.reads.map (RdOp.take n slot) }

/-- A die's array operation begins: the confirm has been issued. -/
def startOp (die : Nat) (kind : OpKind) (eg row m : Nat) (s : State) : State :=
  match dieClass s die with
  | none => s
  | some k =>
    let c := clk s
    updDie die (fun d => { d with
      ready := false
      op := some { kind := kind, eg := eg, row := row, member := m, issued := c, ran := 0, nominal := nominal k kind,
                   suspended := false, suspPending := false, suspAt := 0, resumedAt := none, susps := 0,
                   senses := 0, suspFrames := 0 } }) s

/-- An event of the bus takes effect. -/
def busEvent (e : BusEv) (s : State) : State :=
  match e with
  | .cmd die first last => onfi die first last s
  | .seek die first last p => onfiAt die first last p.1 p.2 s
  | .word die n slot last => when last (kickDie die) (transferred n slot s)
  | .confirm d =>
    let s := match dieClass s d.die with
      | some k => when (pslcGroup s d.eg) (onfi d.die k.pslcOut k.pslcOut) s
      | none => s
    startOp d.die .program d.eg d.row d.member s

/-- Bus work of a channel by `run`, and what it brings about. -/
def runBus (ch : Nat) (run : Nat → Chan → Chan × List BusEv) (s : State) : State :=
  match chanAt s ch with
  | none => s
  | some c =>
    let r := run c.work c
    forEach r.2 busEvent (updChan ch (fun _ => r.1) s)

/-- Slots that reads want of a sensing, in the order of their requests. -/
def wantedSlots (s : State) (n : Nat) : List Nat :=
  ((s.flash.reads.filter fun r => (r.senseOf n).isSome).map fun r => r.loc.slot).eraseDups

/-- Transfers of pages ready in one frame are served in ascending die number (R265); one already on the bus keeps it. -/
def addXfer (q : Xfer) : List Xfer → List Xfer
  | [] => [q]
  | p :: t => if q.die < p.die ∧ p.left = p.size then q :: p :: t else p :: addXfer q t

/-- A sensed page is transferred: its listed codewords wait for the bus of its channel. -/
def beginXfer (die : Nat) (q : Sense) (s : State) : State :=
  let slots := wantedSlots s q.id
  if slots.isEmpty then kickDie die s
  else
    let size := codeSize (groupRate s q.eg)
    let planes := match dieClass s die with
      | some k => k.planes
      | none => 1
    let x : Xfer := { die := die, sense := q, slots := slots, perPlane := 16 / planes, size := size, left := size }
    runBus (channelOf die) Chan.runXfers (updChan (channelOf die) (fun c => { c with xfers := addXfer x c.xfers }) s)

/-- The data-in of a program begins: the first of its 16 codewords waits for the bus (R241). -/
def beginData (die eg row m : Nat) (s : State) : State :=
  match dieClass s die with
  | none => s
  | some k =>
    let d : DataIn := { die := die, eg := eg, row := row, member := m, moved := 0, perPlane := 16 / k.planes,
                        size := codeSize (groupRate s eg), part := 0, paused := false }
    let s := when (pslcGroup s eg) (onfi die k.pslcIn k.pslcIn) s
    updChan (channelOf die) (fun c => { c with dataIns := c.dataIns ++ [d] }) s

/-! ### The beginning and the end of a frame (R250, R254, R255) -/

/-- Read Status Enhanced is due on a LUN: its sensing or its operation has reached its nominal end (R255). -/
def pollDue (s : State) (d : Die) : Bool :=
  match classAt s d.cls, d.sensing, d.op with
  | none, _, _ => false
  | some k, some q, _ => decide (q.issued + k.tR ≤ clk s)
  | some _, none, some o => !o.suspended && decide (o.nominal ≤ o.ran + (clk s - (if o.suspPending then o.suspAt
      else o.resumedAt.getD o.issued)))
  | some _, none, none => false

/-- A frame begins on a channel: a window of its retraining takes all of it (R250), else the bus can move the bytes of
R235, waiting read transfers first. -/
def Chan.open (c : Nat) (x : Chan) : Chan :=
  { x with
    busLeft := stepBytes x.step
    windowDue := false
    retraining := x.windowDue && x.retrain.isSome
    retrain := x.retrain.map fun r =>
      if x.windowDue then { r with windows := r.windows + 1, last := some c, since := c + 2 } else r }

/-- ZQ Calibration Short, with the first window of a target (R236). -/
def openWindow (ch : Nat) (s : State) : State :=
  match chanAt s ch with
  | some x => match x.retrain with
    | some r => when (x.retraining && decide (r.windows = 1)) (onfi (ch * 32 + r.target * 4) 0xD9 0xD9) s
    | none => s
  | none => s

/-- The bus work that opens a frame: windows, waiting transfers, then the polls of LUNs at their nominal end. -/
def busOpen (s : State) : State :=
  let c := clk s
  let s := updFlash (fun f => { f with chans := tabMap (fun _ x => x.open c) f.chans }) s
  let s := forEach (s.flash.chans.map (·.1)) (fun ch s => runBus ch Chan.runXfers (openWindow ch s)) s
  forEach s.flash.dies (fun p s => when (p.2.inUse && pollDue s p.2) (onfi p.1 0x78 0x78) s) s

/-- The frame ends: what is left of it has gone to the data-ins of programs. -/
def busClose (s : State) : State :=
  if !hallRuns s then s
  else forEach (s.flash.chans.map (·.1)) (fun ch s => runBus ch Chan.runData (runBus ch Chan.runXfers s)) s

/-! ### The outputs of a channel at rest (R22, R239, R264, R528) -/

/-- Levels of a channel's outputs between commands; DQ and DQS are then high-impedance. -/
structure Levels where
  ce : List Bool
  we : Bool
  reT : Bool
  reC : Bool
  cle : Bool
  ale : Bool
  wp : Bool
deriving DecidableEq, Repr

/-- The idle levels, which an unpopulated channel and a CE_N without a target always show; WP_N is what R264 drives. -/
def levels (s : State) (ch : Nat) : Levels :=
  { ce := List.replicate 8 true, we := true, reT := true, reC := false, cle := false, ale := false
    wp := match chanAt s ch with
      | some c => c.wpHigh
      | none => s.flash.chans.any fun c => c.2.wpHigh }

end Sys2Proof.Machine
end

