-- ==== Sys2Proof/Machine/Dies.lean ====
section
/-! DEFINITION. What a die reports: sensings, programs, erases, suspends, timeouts; lost members, slow and
retired dies; channel retraining (chapters Flash Channels and Dies, and Placement Engine). -/

namespace Sys2Proof.Machine

/-! ### Sensings (R187, R253, R255, R282) -/

/-- A sensing brings no data: a direct read takes its next step, or is planned again where its die is gone; a
member has failed (R283, R292). -/
def senseLost (n : Nat) (gone : Bool) (s : State) : State :=
  let mine := s.flash.reads.filter fun r => (r.senseOf n).isSome
  forEach mine (fun r s =>
    if r.back.isSome then backFails r s
    else if gone then again r.id (fun r => { r with step := 1 }) s
    else climb r s) s

/-- A sensing has ended: its histogram, its ratio, the transfer of its codewords, and the next one queued. -/
def senseComplete (die : Nat) (s : State) : State :=
  match dieAt s die with
  | none => s
  | some d =>
    match d.sensing, classAt s d.cls with
    | some q, some k =>
      if !d.ready then s
      else
        let t := clk s - q.issued
        beginXfer die q (updDie die (fun d => { d with sensing := none, ready := false, rRead := d.rRead.add k.tR t }) (recHist 2 t s))
    | _, _ => s

def execSenseComplete (die : Nat) (s : State) : Host.Outcome State Fault Refusal := act (senseComplete die) s

/-- Read Status Enhanced on a LUN, from the nominal end of its operation on (R255). -/
def statusPoll (die : Nat) (ready : Bool) (s : State) : State :=
  match dieAt s die with
  | none => s
  | some d => when (pollDue s d) (updDie die fun d => { d with ready := ready }) s

def execDieStatusPoll (die : Nat) (ready : Bool) (s : State) : Host.Outcome State Fault Refusal :=
  act (statusPoll die ready) s

/-- A die acknowledges a suspend: the sensings listed with it are issued (R256). Reaching the limit of R259
is counted. -/
def suspendAck (die : Nat) (s : State) : State :=
  match dieAt s die with
  | none => s
  | some d =>
    match d.op, classAt s d.cls with
    | some o, some k =>
      if !o.suspPending then s
      else
        let lim := if o.kind = .program then k.suspProg else k.suspErase
        let o' := { o with suspPending := false, suspended := true, susps := o.susps + 1, senses := 0 }
        let hit := decide (o'.susps = lim)
        let s := updDie die (fun d => { d with op := some o', limitHits := d.limitHits + flag hit 1 }) s
        kickDie die (when hit (recEvent 0x11) s)
    | _, _ => s

def execSuspendAcknowledged (die : Nat) (s : State) : Host.Outcome State Fault Refusal := act (suspendAck die) s

/-! ### Lost members (R139, R185, R186) -/

/-- Take a substitute for member `i` of an open group from its next row on, or close the group there: at most
two substitutes, of the same class and page count, on a channel not in the set (R185). -/
def substitute (eg i : Nat) (s : State) : State :=
  match groupAt s eg with
  | none => s
  | some g =>
    if g.st ≠ .opened ∨ g.early ∨ g.nextRow = g.rows then s
    else
      let taken := (g.members.map fun m => channelOf m.die :: m.substs.map fun x => channelOf x.die).flatten
      match (if 2 ≤ g.subs then none else (pickClass s g.cls 1 taken).1.head?) with
      | none => closeEarly eg s
      | some p =>
        match leastWorn s p with
        | none => closeEarly eg s
        | some (_, b) =>
          let k := g.nextRow
          let s := setBlock p.1 b { blockAt s p.1 b with st := .inGroup, eg := eg, member := i, rowOffset := k, pslc := false } s
          let s := updGroup eg (fun g => { g with
            subs := g.subs + 1
            members := ((List.range g.members.length).zip g.members).map fun q =>
              if q.1 = i then { q.2 with substs := { die := p.1, block := b, off := k, lost := false } :: q.2.substs }
              else q.2 }) s
          submit { jrec .egState with eg := eg, egTo := some (.substitute i) } (updMedia (fun m => { m with substitutions := m.substitutions + 1 }) s)

/-- A member of `die` is marked lost. -/
def Member.lose (die : Nat) (m : Member) : Member :=
  { m with lost := m.lost || decide (m.die = die)
           substs := m.substs.map fun x => { x with lost := x.lost || decide (x.die = die) } }

/-- Group `eg` loses the member on `die`: an open group takes a substitute for the rows to come; a group with
written rows becomes a rebuild candidate. A slow die keeps the rows it has (R185, R186, R189). -/
def loseMember (die : Nat) (slow : Bool) (eg : Nat) (s : State) : State :=
  match groupAt s eg with
  | none => s
  | some g =>
    if slow ∧ g.st ≠ .opened then s
    else
      let cur := (List.range g.members.length).filter fun i =>
        match g.members[i]? with
        | some m => decide ((m.at g.nextRow).1 = die)
        | none => false
      let s := updGroup eg (fun g => { g with
        members := if slow then g.members else g.members.map (Member.lose die)
        rebuild := g.rebuild || decide (0 < g.nextRow) }) s
      let s := forEach cur (substitute eg) s
      if slow then s else forEach g.zones zoneLosses s

/-- Every group that uses a die loses that member. -/
def loseDie (die : Nat) (slow : Bool) (s : State) : State :=
  forEach ((s.media.groups.filter fun p => p.2.uses die).map (·.1)) (loseMember die slow) s

/-! ### Programs (R184, R218, R221 step 2, R493) -/

def rowOpAt (s : State) (eg row : Nat) : Option RowOp :=
  s.media.rowOps.find? fun o => decide (o.eg = eg) && decide (o.row = row)

def dropRowOp (eg row : Nat) : State → State :=
  updMedia fun m => { m with rowOps := m.rowOps.filter fun o => decide (o.eg ≠ eg) || decide (o.row ≠ row) }

/-- The units and the pads of a row that has been programmed count for the owner of its group (R193). -/
def countRow (o : RowOp) (s : State) : State :=
  match groupAt s o.eg with
  | none => s
  | some g =>
    let s := updMedia (fun m => { m with progUnits := m.progUnits + rowUnits g.width }) s
    updAmp g.owner (fun a => { a with
      prog := a.prog + rowUnits g.width, progMin := a.progMin + rowUnits g.width
      padMin := a.padMin + (rowUnits g.width - o.units.length) }) s

/-- A row is programmed on every member: its units and its parity are on flash, and its map update is submitted; a
relocation row's waits for the other rows of its victim (R221). -/
def rowProgrammed (o : RowOp) (s : State) : State :=
  let s := dropRowOp o.eg o.row s
  let s := updMedia (fun m => { m with
    flash := o.units.foldl (fun t p => tabSet t (flashKey (locOf o.eg o.row p.1)) p.2.stored) m.flash
    parity := ((List.range 16).zip o.parity).foldl (fun t p => tabSet t (o.eg * 2 ^ 24 + o.row * 2 ^ 9 + p.1) p.2) m.parity }) s
  let f := now s
  let s := countRow o (updGroup o.eg (fun g => { g with lastProg := f }) s)
  match o.reloc with
  | some v => submitRows v (updMedia (fun m => { m with victims := m.victims.map fun k =>
      if k.eg = v then { k with rows := k.rows ++ [o] } else k }) s)
  | none => submit { jrec (if o.zone.isSome then .zoneExt else .pageRow) with row := some o, eg := o.eg } s

/-- A row of which a program has failed: it holds no mapped data, its group is due for retirement, and its
units are bound again. -/
def rowFailed (o : RowOp) (s : State) : State :=
  let s := countRow o (dropRowOp o.eg o.row s)
  let s := updGroup o.eg (fun g => { g with
    retire := true
    inFlight := g.inFlight.filter fun i => decide (i ≠ o.row) }) s
  closeIfDone o.eg (replaceRow o s)

/-- The status of a row's program on one member. -/
def programResult (eg row m : Nat) (pass : Bool) (s : State) : State :=
  match rowOpAt s eg row with
  | none => s
  | some o =>
    let o' := { o with outstanding := o.outstanding.filter fun i => decide (i ≠ m), failed := o.failed || !pass }
    let s := match memberPlace s (locOf eg row 0) m with
      | some (die, b, _, _) => if pass then s else setBlock die b { blockAt s die b with progFailed := true } s
      | none => s
    if !o'.outstanding.isEmpty then
      updMedia (fun k => { k with rowOps := k.rowOps.map fun r => if r.eg = eg ∧ r.row = row then o' else r }) s
    else if o'.failed then rowFailed o' s
    else rowProgrammed o' s

/-! ### Erases (R218, R221 steps 5 and 6) -/

/-- The status of the erase of die block `i` of a group: with the last one, ERASE_DONE is submitted; a block
whose status fails is retired. -/
def eraseResult (eg i : Nat) (pass : Bool) (s : State) : State :=
  match groupAt s eg with
  | none => s
  | some g =>
    let left := g.erasing.filter fun k => decide (k ≠ i)
    let s := updGroup eg (fun g => { g with erasing := left, retire := g.retire || !pass }) s
    let s := match (groupBlocks g)[i]? with
      | some (die, b) =>
        if pass then s
        else updDie die (fun d => { d with retiredBlocks := d.retiredBlocks + 1 })
          (setBlock die b { blockAt s die b with st := .retired } s)
      | none => s
    when (left.isEmpty && g.erasing.contains i) (submit { jrec .eraseDone with eg := eg }) s

/-! ### Retirement (R262, R263, R494) -/

/-- The operation on a die ends without a pass: a program or erase fails, one whose data is still being moved
among them (R255, R494). -/
def opFails (die : Nat) (s : State) : State :=
  let ins := match chanAt s (channelOf die) with
    | some c => c.dataIns.filter fun d => decide (d.die = die)
    | none => []
  let s := updChan (channelOf die) (fun c => { c with dataIns := c.dataIns.filter fun d => decide (d.die ≠ die) }) s
  let s := forEach ins (fun d => programResult d.eg d.row d.member false) s
  match (dieAt s die).bind (·.op) with
  | none => s
  | some o =>
    let s := updDie die (fun d => { d with op := none, ready := false }) s
    match o.kind with
    | .program => programResult o.eg o.row o.member false s
    | .erase => eraseResult o.eg o.member false s
    | .read => s

/-- Requests that wait for a die end as operations on a lost die do. -/
def dropRequests (die : Nat) (s : State) : State :=
  let mine := (s.flash.reqs ++ s.flash.lateReqs).filter fun q => decide (q.die = die)
  let keep := fun (l : List MediaReq) => l.filter fun q => decide (q.die ≠ die)
  let s := updFlash (fun f => { f with reqs := keep f.reqs, lateReqs := keep f.lateReqs }) s
  forEach mine (fun q s =>
    match q.kind with
    | .program => programResult q.eg q.row q.member false s
    | .erase => eraseResult q.eg q.member false s
    | .read => s) s

/-- A die is retired: its block table, its groups, its operations and its reads (R263, R494). -/
def retireDie (die : Nat) (s : State) : State :=
  match dieAt s die with
  | none => s
  | some d =>
    let f := now s
    let planned := match tabGet s.flash.plan die with
      | some (.read q) => [q.id]
      | some (.suspend q) => [q.id]
      | _ => []
    let waiting := match chanAt s (channelOf die) with
      | some c => (c.xfers.filter fun x => decide (x.die = die)).map fun x => x.sense.id
      | none => []
    let s := updDie die (fun d => { d with mark := .retired, since := f, due := none, queue := [], sensing := none }) s
    let s := recEvent 0x0B s
    let s := updMedia (fun m => { m with blocks := tabMap (fun k b =>
      if k / 16384 = die then { b with st := .retired } else b) m.blocks }) s
    let s := updChan (channelOf die) (fun c => { c with xfers := c.xfers.filter fun x => decide (x.die ≠ die) }) s
    let s := updFlash (fun f => { f with plan := tabDel f.plan die, published := tabDel f.published die }) s
    let s := loseDie die false s
    let gone := (d.sensing.toList ++ d.queue).map (·.id) ++ waiting ++ planned
    let s := forEach gone (fun n => senseLost n true) s
    dropRequests die (opFails die s)

/-- Marks due at this boundary take effect (R188, R191, R263). -/
def applyMark (die : Nat) (m : DieMark) (s : State) : State :=
  let f := now s
  match m with
  | .retired => retireDie die s
  | .normal => updDie die (fun d => { d with mark := .normal, since := f, due := none, clearRun := 0 }) s
  | .excluded => updDie die (fun d => { d with mark := .excluded, since := f, due := none }) s
  | m =>
    let s := updDie die (fun d => { d with mark := m, since := f, due := none, clearRun := 0, marks := d.marks + 1 }) s
    loseDie die true (recEvent 0x0D (updMedia (fun k => { k with marks := k.marks + 1 }) s))

def applyMarks (s : State) : State :=
  forEach (s.flash.dies.filterMap fun p => p.2.due.map fun m => (p.1, m)) (fun p => applyMark p.1 p.2) s

/-! ### PROGRAM_COMPLETE, ERASE_COMPLETE, STATUS_TIMEOUT -/

/-- The operation of a die has reported ready. A suspend that it has not acknowledged is not counted, and the
sensings listed with it issue (R265). -/
def opReady (s : State) (die : Nat) (k : OpKind) : Option (DieOp × Class) :=
  match dieAt s die with
  | none => none
  | some d =>
    match d.op, classAt s d.cls with
    | some o, some c => if o.kind = k ∧ !o.suspended ∧ d.ready then some (o, c) else none
    | _, _ => none

/-- The run of die blocks on which plane `p` has failed, after a status of die block `b`: a block counts once, and a
pass of the plane on another block ends the run (R262; DEDUCED, log 109). -/
def planeRun (b : Nat) (bad : List Nat) (t : Tab (Nat × Nat)) (p : Nat) : Tab (Nat × Nat) :=
  match tabGet t p with
  | some (n, last) =>
    if last = b then t else if bad.contains p then tabSet t p (n + 1, b) else tabDel t p
  | none => if bad.contains p then tabSet t p (1, b) else t

/-- Failures of a die's planes (R262). -/
def noteStatus (die b : Nat) (bad : List Nat) (s : State) : State :=
  match dieClass s die with
  | none => s
  | some k => judgeDie die
      (updDie die (fun d => { d with planeFails := (List.range k.planes).foldl (planeRun b bad) d.planeFails }) s)

/-- The die block of a member of a group, at a row. -/
def memberBlock (s : State) (eg row m : Nat) : Nat :=
  match memberPlace s (locOf eg row 0) m with
  | some (_, b, _, _) => b
  | none => 0

/-- A die-page program reports its status: a row of which all have passed goes to its map commit. -/
def programComplete (die : Nat) (bad : List Nat) (s : State) : State :=
  match opReady s die .program with
  | none => s
  | some (o, k) =>
    let t := o.measured (clk s)
    let b := memberBlock s o.eg o.row o.member
    let s := updDie die (fun d => { d with op := none, ready := false, rProg := d.rProg.add k.tProg t }) (recHist 3 t s)
    kickDie die (noteStatus die b bad (programResult o.eg o.row o.member bad.isEmpty s))

def execProgramComplete (die : Nat) (bad : List Nat) (s : State) : Host.Outcome State Fault Refusal :=
  act (programComplete die bad) s

/-- A die-block erase reports its status. -/
def eraseComplete (die : Nat) (bad : List Nat) (s : State) : State :=
  match opReady s die .erase with
  | none => s
  | some (o, k) =>
    let t := o.measured (clk s)
    let b := match groupAt s o.eg with
      | some g => match (groupBlocks g)[o.member]? with
        | some p => p.2
        | none => 0
      | none => 0
    let s := updDie die (fun d => { d with op := none, ready := false, rErase := d.rErase.add k.tBers t }) (recHist 4 t s)
    kickDie die (noteStatus die b bad (eraseResult o.eg o.member bad.isEmpty s))

def execEraseComplete (die : Nat) (bad : List Nat) (s : State) : Host.Outcome State Fault Refusal :=
  act (eraseComplete die bad) s

/-- What has timed out on a die: a sensing, an operation, or a suspend (R255). -/
def timedOut (s : State) (d : Die) (k : Class) : Bool :=
  let c := clk s
  (match d.sensing with
   | some q => decide (q.issued + 4 * k.maxR < c)
   | none => false) ||
  (match d.op with
   | some o => (!o.suspended && decide (4 * maxTime k o.kind < o.runAt c)) ||
       (o.suspPending && decide (o.suspAt + 4 * k.tSus < c))
   | none => false)

/-- The sensing in progress when a LUN is reset, or sensed and not transferred, is taken again once; then it brings no
data. -/
def resense (die : Nat) (q : Sense) (s : State) : State :=
  let s := updDie die (fun d => { d with sensing := none }) s
  let s := updChan (channelOf die) (fun c => { c with xfers := c.xfers.filter fun x => decide (x.sense.id ≠ q.id) }) s
  let first := s.flash.reads.any fun r => (r.senseOf q.id).isSome && !r.resensed
  if first then
    let s := updFlash (fun f => { f with reads := f.reads.map fun r =>
      if (r.senseOf q.id).isSome then { r with resensed := true } else r }) s
    updDie die (fun d => { d with queue := q :: d.queue }) s
  else senseLost q.id false s

/-- Reset LUN after a timeout (R255, R265). -/
def statusTimeout (die : Nat) (s : State) : State :=
  match dieAt s die with
  | none => s
  | some d =>
    match classAt s d.cls with
    | none => s
    | some k =>
      if !d.inUse ∨ !timedOut s d k then s
      else
        let c := clk s
        let s := updDie die (fun d => { d with timeouts := c :: d.timeouts, ready := false }) s
        let waiting := match chanAt s (channelOf die) with
          | some x => (x.xfers.filter fun q => decide (q.die = die)).map fun q => q.sense
          | none => []
        let s := forEach (d.sensing.toList ++ waiting) (resense die) (onfi die 0xFA 0xFA s)
        kickDie die (judgeDie die (opFails die s))

def execStatusTimeout (die : Nat) (s : State) : Host.Outcome State Fault Refusal := act (statusTimeout die) s

/-! ### TRACKER_WINDOW_END (R187, R188) -/

/-- The mean ratio of a type in the window, where it is judged: at least 16 samples. -/
def Ratio.judged (r : Ratio) : Option Nat := if 16 ≤ r.n then some (r.sum / r.n) else none

/-- The window begins again; a judged type keeps its ratio. -/
def Ratio.restart (r : Ratio) : Ratio := { sum := 0, n := 0, last := r.judged.getD r.last }

/-- Judge a die at the end of a window. -/
def judgeWindow (d : Die) : Die :=
  let js := [d.rRead, d.rProg, d.rErase].filterMap Ratio.judged
  let run := if !js.isEmpty ∧ js.all (fun r => decide (r ≤ 320)) then d.clearRun + 1 else 0
  let due := if d.due = some .slowRate then d.due
    else if d.mark = .normal ∧ js.any (fun r => decide (384 < r)) then some .slow
    else if d.mark = .slow ∧ 16 ≤ run then some .normal
    else d.due
  { d with rRead := d.rRead.restart, rProg := d.rProg.restart, rErase := d.rErase.restart, clearRun := run,
           due := if d.inUse then (if d.due = some .retired then d.due else due) else d.due }

/-- Windows of 2^16 frames follow one another: one that ends begins the next in its last frame. -/
def trackerWindowEnd (s : State) : State :=
  let a := s.flash.windowFrom
  if !hallRuns s ∨ !fired a 65536 (clk s) then s
  else
    let k := (clk s - 1 - a) / 65536
    updFlash (fun f => { f with windowFrom := a + 65536 * k, dies := tabMap (fun _ d => judgeWindow d) f.dies }) s

def execTrackerWindowEnd (s : State) : Host.Outcome State Fault Refusal := act trackerWindowEnd s

/-! ### CHANNEL_RETRAIN (R249 to R252) -/

/-- Dies of a channel take a mark at the next boundary. -/
def markChannel (ch : Nat) (m : DieMark) (ok : Die → Bool) : State → State :=
  updFlash fun f => { f with dies := tabMap (fun d x =>
    if channelOf d = ch ∧ x.inUse ∧ x.due ≠ some .retired ∧ ok x then { x with due := some m } else x) f.dies }

/-- A channel has been trained: the interval, the temperature and the window of errors start again. -/
def Chan.trainedAt (c : Nat) (t : Int) (x : Chan) : Chan :=
  { x with trained := true, lastTrain := c, trainTemp := t, xferErrs := [], retrain := none, windowDue := false }

/-- The reading of the remote sensor of a channel's flash region: 32 channels each. -/
def regionTemp (s : State) (ch : Nat) : Int :=
  match tabGet s.therm.remotes (ch / 32) with
  | some r => r.value
  | none => 0

/-- The interval of a periodic retraining has run since the last training. -/
def periodic (c : Nat) (x : Chan) : Bool := decide (x.lastTrain + 2 ^ 30 ≤ c)

/-- A trigger of R249 holds: the interval, 10 °C in the flash region, DQS drift, or 16 transfer errors in 2^16 frames. -/
def retrainDue (s : State) (ch : Nat) (x : Chan) (drift : Bool) : Bool :=
  let c := clk s
  periodic c x || decide (80 ≤ (regionTemp s ch - x.trainTemp).natAbs) || drift ||
    decide (16 ≤ (x.xferErrs.filter fun e => decide (c < e + 65536)).length)

/-- A retraining begins with target 0; its windows are placed by the planner (R250). -/
def Retrain.first (c : Nat) (upward : Bool) : Retrain :=
  { target := 0, windows := 0, last := none, since := c + 1, upward := upward }

/-- Every target has been trained: a channel tried at its configured rate runs there again (R251). -/
def retrainPassed (ch : Nat) (x : Chan) (up : Bool) (s : State) : State :=
  let c := clk s
  let t := regionTemp s ch
  let s := updChan ch (fun x => { x.trainedAt c t with step := if up then x.cfgStep else x.step, fails := 0 }) s
  when (up && decide (x.step ≠ x.cfgStep)) (markChannel ch .normal fun d => decide (d.mark = .slowRate)) s

/-- The data-ins of a channel start again from their first codeword (R265). -/
def Chan.restartData (x : Chan) : Chan :=
  { x with dataIns := x.dataIns.map fun d => { d with moved := 0, part := 0, paused := false } }

/-- A target cannot be trained: the try at the configured rate ends; at the current rate the retraining is tried again,
and a second failure steps the channel down, or fails it at the last step (R251, R252). -/
def retrainFailed (ch : Nat) (x : Chan) (up : Bool) (s : State) : State :=
  let c := clk s
  let t := regionTemp s ch
  if up then updChan ch (fun x => { x.trainedAt c t with fails := 0 }) s
  else if x.fails = 0 then updChan ch (fun x => { x with fails := 1, retrain := some (Retrain.first c false) }) s
  else if x.step < 7 then
    recEvent 0x0E (markChannel ch .slowRate (fun d => decide (d.mark ≠ .slowRate))
      (updChan ch (fun x => { x.restartData with
        step := x.step + 1, fails := 0, retrain := some (Retrain.first c false) }) s))
  else markChannel ch .retired (fun _ => true) (updChan ch (fun x => { x with failed := true, retrain := none }) s)

/-- A target of the retraining in progress ends its training, once a window has served it; the next one follows. -/
def retrainTarget (ch : Nat) (x : Chan) (r : Retrain) (good : Bool) (s : State) : State :=
  if r.windows = 0 then s
  else if !good then retrainFailed ch x r.upward s
  else
    let (n, s) := drawNat s
    let seed := flashSeed s ch
    let s := updChan ch (fun x => { x with tuned := x.tuned.set r.target (Config.phySetting seed n) }) s
    if r.target + 1 < x.targets then
      updChan ch (fun x => { x with retrain := some { r with target := r.target + 1, windows := 0 } }) s
    else retrainPassed ch x r.upward s

/-- A channel is retrained target by target: a trigger begins it, and each end of a target's training carries it on. A
channel below its configured rate tries that rate in a periodic retraining. -/
def channelRetrain (ch : Nat) (drift good : Bool) (s : State) : State :=
  match chanAt s ch with
  | none => s
  | some x =>
    if !hallRuns s ∨ x.failed ∨ !x.trained then s
    else match x.retrain with
      | some r => retrainTarget ch x r good s
      | none =>
        let c := clk s
        let up := decide (x.step ≠ x.cfgStep) && periodic c x
        when (retrainDue s ch x drift) (updChan ch fun x => { x with retrain := some (Retrain.first c up) }) s

def execChannelRetrain (ch : Nat) (out : TrainOut) (s : State) : Host.Outcome State Fault Refusal :=
  act (channelRetrain ch out.drift out.good) s

end Sys2Proof.Machine
end

