-- ==== Sys2Proof/Machine/Planner.lean ====
section
/-! DEFINITION. The floor planner: what each die is given in the next frame, and the issue of a published plan
(R46, R47, R55 to R57, R219, R253 to R261, R280 to R284, R342, R464). -/

namespace Sys2Proof.Machine

/-! ### Lanes -/

/-- A lane plans in this frame: it has not slipped and is not being rebuilt. -/
def laneOpen (s : State) (l : Nat) : Bool :=
  let a := laneOf s l
  !a.slipped && decide (a.rebuild = 0)

def dieOpen (s : State) (die : Nat) : Bool := laneOpen s (laneOfDie die)

/-! ### Tokens of a die (R219, R464) -/

def pays (have_ frames : Nat) : Bool := decide (256 * frames ≤ have_)

def spendGc (die frames : Nat) : State → State := updDie die fun d => { d with gc := d.gc - 256 * frames }

def spendThermal (die frames : Nat) : State → State :=
  updDie die fun d => { d with thermal := d.thermal - 256 * frames }

/-! ### Availability (R256 to R260, R280) -/

/-- How a sensing can be placed on a die in the plan for frame `f`. -/
inductive Avail | no | idle | wait | suspend
deriving DecidableEq, Repr

/-- The status of a die that the plan sees: as it stood at the input cut-off (R46). -/
def seenDie (s : State) (die : Nat) : Option Die :=
  match s.flash.seen with
  | some t => tabGet t die
  | none => dieAt s die

/-- Frames until the sensings placed on a die have been sensed and transferred. -/
def senseBusy (d : Die) (k : Class) (x f : Nat) : Nat :=
  (match d.sensing with
   | some q => q.issued + k.tR + x - f
   | none => 0) + d.queue.length * (k.tR + x)

/-- Frames to the deadline: tSUS, or 10 with suspension off. -/
def slack (k : Class) : Nat := if k.suspend then k.tSus else 10

/-- The die can be suspended at frame `f`. -/
def maySuspend (d : Die) (k : Class) (o : DieOp) (f : Nat) : Bool :=
  k.suspend && d.queue.isEmpty &&
  decide (k.tSus < o.nominal - o.runAt f) &&
  decide (o.susps < (if o.kind = .program then k.suspProg else k.suspErase)) &&
  match o.resumedAt with
  | some r => decide (r + (if o.kind = .program then 25 else 250) ≤ f)
  | none => true

/-- What the plan for frame `f` can do with a read of a group on a die. -/
def avail (s : State) (eg die f : Nat) : Avail :=
  match seenDie s die, dieClass s die with
  | some d, some k =>
    let x := xferFrames s eg die
    let busy := senseBusy d k x f + flag (xferPending s die) x
    if !d.inUse ∨ !dieOpen s die ∨ (tabGet s.flash.plan die).isSome ∨ dataPending s die then .no
    else match d.op with
      | none => if busy = 0 then .idle else if busy ≤ slack k then .wait else .no
      | some o =>
        if o.suspended ∨ o.suspPending then
          let ack := if o.suspPending then o.suspAt + k.tSus - f else 0
          if o.senses + d.queue.length < 4 ∧ ack + busy ≤ slack k ∧
              f + ack + busy + k.tR + x ≤ o.suspAt + 125 then .wait else .no
        else if o.nominal - o.runAt f + busy ≤ slack k then .wait
        else if maySuspend d k o f then .suspend
        else .no
  | _, _ => .no

/-! ### Placing sensings (R253, R282) -/

/-- The sensing an entry carries. -/
def PlanEntry.sense : PlanEntry → Option Sense
  | .read q => some q
  | .suspend q => some q
  | _ => none

/-- The offsets of a sensing on a die block: the standing ones, or `d` steps from the tracked ones (R278). -/
def senseOfs (s : State) (die b : Nat) : Option Int → Option (List Int)
  | none => none
  | some d => (dieClass s die).map fun k =>
      shiftOfs k (levelCount k (blockAt s die b).pslc) d (plannedTracker s die b).ofs

/-- A sensing of the same page at the same offsets that is in the plan. -/
def mergeWith (s : State) (die eg row m : Nat) (ofs : Option (List Int)) : Option Sense :=
  ((tabGet s.flash.plan die).bind PlanEntry.sense).bind fun q =>
    if q.eg = eg ∧ q.row = row ∧ q.member = m ∧ q.ofs = ofs then some q else none

/-- Place a sensing for a read: merged into one already planned, or as a die's entry. It answers its number and
whether it is new. -/
def placeSense (a : Avail) (die eg row m : Nat) (ofs : Option (List Int)) (s : State) : Nat × Bool × State :=
  match mergeWith s die eg row m ofs with
  | some q => (q.id, false, s)
  | none =>
    let n := s.flash.nextSense
    let q : Sense := { id := n, eg := eg, row := row, member := m, issued := 0, ofs := ofs }
    let c := clk s
    (n, true, updDie die (fun d => { d with lastRead := c })
      (updFlash (fun f => { f with
        nextSense := n + 1
        plan := tabSet f.plan die (if a = .suspend then .suspend q else .read q) }) s))

/-! ### Who pays for a read (R219, R342) -/

/-- The owner a read is charged to: the host's; relocation and patrol reads are paid from the die's
garbage-collection bucket, a probe read from none. -/
def readOwner (s : State) (r : RdOp) : Option Nat :=
  match r.for_ with
  | .host _ => some (ownerOf s r.nsx)
  | .merge _ => some (ownerOf s r.nsx)
  | _ => none

def RdOp.gcPaid (r : RdOp) : Bool :=
  match r.for_ with
  | .reloc _ => true
  | .patrol => true
  | _ => false

def RdOp.relocates (r : RdOp) : Bool :=
  match r.for_ with
  | .reloc _ => true
  | _ => false

/-- A die's buckets hold a sensing of the read. -/
def diePays (s : State) (r : RdOp) (die : Nat) : Bool :=
  match dieAt s die, dieClass s die with
  | some d, some k => (!r.gcPaid || (pays d.gc k.tR && !checkpointFirst s die)) && (!r.relocates || pays d.thermal k.tR)
  | _, _ => false

/-- Pay for a new sensing on a die. -/
def payDie (r : RdOp) (die : Nat) (s : State) : State :=
  match dieClass s die with
  | none => s
  | some k =>
    let s := when r.gcPaid (spendGc die k.tR) s
    let s := when r.relocates (spendThermal die k.tR) s
    match readOwner s r with
    | some fn => chargeDie fn k.tR s
    | none => s

/-- The owner's DIE bucket is negative: only direct reads on idle dies are planned for it (R342). -/
def owes (s : State) (fn : Nat) : Bool := decide ((bucketsOf s fn).die < 0)

def readOwes (s : State) (r : RdOp) : Bool :=
  match readOwner s r with
  | some fn => owes s fn
  | none => false

/-! ### Planning a read (R281 to R284) -/

/-- Place one sensing for the read on member `m` and pay for it when it is new. -/
def place (r : RdOp) (f m code : Nat) (shift : Option Int) (s : State) : State :=
  match memberPlace s r.loc m with
  | none => s
  | some (die, b, _, _) =>
    let (n, new, s) := placeSense (avail s r.loc.eg die f) die r.loc.eg r.loc.row m (senseOfs s die b shift) s
    let s := when new (payDie r die) s
    updRead r.id (fun k => { k with senses := k.senses ++ [(code, n)] }) s

/-- Member `m` can be sensed for the read: merged, or available and paid for. -/
def canSense (s : State) (r : RdOp) (f m : Nat) (shift : Option Int) (idleOnly : Bool) : Bool :=
  match memberPlace s r.loc m with
  | none => false
  | some (die, b, _, lost) =>
    let a := avail s r.loc.eg die f
    !lost && ((mergeWith s die r.loc.eg r.loc.row m (senseOfs s die b shift)).isSome ||
      (decide (a ≠ .no) && (!idleOnly || decide (a = .idle)) && diePays s r die))

def slowDie (s : State) (die : Nat) : Bool :=
  match dieAt s die with
  | some d => d.slow
  | none => false

/-- The die that holds a member of the read's row is slow. -/
def slowMember (s : State) (r : RdOp) (m : Nat) : Bool :=
  match memberPlace s r.loc m with
  | some (die, _, _, _) => slowDie s die
  | none => false

/-- The other members of the read's row can all be sensed. A slow member, and every member of a slow target's row, is
used only in a slot that everything else in the plan has left idle (R189, R281): in the plan's last pass, `spare`. -/
def membersFree (s : State) (r : RdOp) (f target : Nat) (spare slowTarget : Bool) : Bool :=
  match groupAt s r.loc.eg with
  | none => false
  | some g => ((List.range g.members.length).filter fun m => decide (m ≠ target)).all fun m =>
      let slow := slowTarget || slowMember s r m
      (spare || !slow) && canSense s r f m none slow

/-- Plan a back-stair read: a sensing on every other member, counted against the target die. -/
def planBack (r : RdOp) (f target : Nat) (why : BackWhy) (s : State) : State :=
  match groupAt s r.loc.eg, memberPlace s r.loc target with
  | some g, some (die, _, _, _) =>
    let s := updRead r.id (fun k => { k with st := .members [] [], back := some why }) s
    let s := forEach ((List.range g.members.length).filter fun m => decide (m ≠ target)) (fun m => place r f m m none) s
    let s := updDie die (fun d => { d with backstairs := d.backstairs + 1, backMin := d.backMin + 1 }) s
    match why with
    | .unavailable => recDataErr 13 1 s
    | .lost => recDataErr 14 1 s
    | .ladder => s
  | _, _ => s

/-- Steps from the tracked offsets at which the read's ladder step is sensed: none in step 1; the tracked ones in step 2;
+2, −2 and −4 in step 3 (R278). -/
def RdOp.shift (r : RdOp) : Option Int :=
  if r.step < 2 then none else if r.step = 2 then some 0 else some ([2, -2, -4].getD r.extra 0)

/-- Plan a read request that the plan for frame `f` can take (R281); `spare` in the last pass, which fills what
everything else has left idle. -/
def planRequest (f : Nat) (spare : Bool) (r : RdOp) (s : State) : State :=
  let t := targetMember s r.loc
  match memberPlace s r.loc t with
  | none => uncorrectable r s
  | some (die, _, _, lost) =>
    let owing := readOwes s r
    let lostAll := match groupAt s r.loc.eg with
      | some g => lostIn g r.loc.row
      | none => 0
    if r.back = some .ladder then
      if !owing ∧ membersFree s r f t spare false then planBack r f t .ladder s else s
    else if lost then
      if 2 ≤ lostAll then uncorrectable r s
      else if !owing ∧ membersFree s r f t spare false then planBack r f t .lost s else s
    else if canSense s r f t r.shift owing then
      place r f t t r.shift (updRead r.id (fun k => { k with st := .sensing, back := none }) s)
    else if !owing ∧ !r.noBack ∧ membersFree s r f t spare (slowDie s die) then planBack r f t .unavailable s
    else
      match readOwner s r with
      | some fn => when (owing && !spare) (noteWait fn) s
      | none => s

/-- A member that waits for its second step has been lost: it fails (R283, R292). -/
def lostMember (s : State) (r : RdOp) (m : Nat) : Bool :=
  match memberPlace s r.loc m with
  | some (_, _, _, lost) => lost
  | none => true

/-- Plan the second steps of a reconstruction's members (R282); none for a read whose command has ended (R292). -/
def planSecond (f : Nat) (spare : Bool) (r : RdOp) (s : State) : State :=
  match r.st with
  | .members ready second =>
    if r.for_ = .probe then setMembers r ready [] s
    else if second.any (lostMember s r) then backFails r s
    else
      let go := second.filter fun m =>
        let slow := slowMember s r m
        (spare || !slow) && canSense s r f m (some 0) slow
      let s := updRead r.id (fun k => { k with st := .members ready (second.filter fun m => !go.contains m) }) s
      forEach go (fun m => place r f m (32 + m) (some 0)) s
  | _ => s

/-- Every read the plan can take, in the order of their requests, host reads first. -/
def planReads (f : Nat) (spare : Bool) (s : State) : State :=
  let due := s.flash.reads.filter fun r => decide (r.frame ≤ clk s)
  let host := due.filter fun r => (readOwner s r).isSome
  let own := due.filter fun r => (readOwner s r).isNone
  forEach (host ++ own) (fun r s =>
    match findRead s r.id with
    | none => s
    | some r => if r.st = .requested then planRequest f spare r s else planSecond f spare r s) s

/-! ### Programs and erases (R219, R253, R264, R342, R464) -/

/-- The die can take a program or an erase in the plan: nothing runs, is sensed or waits on it, and its write
protection is off. -/
def dieFree (s : State) (die : Nat) : Bool :=
  match seenDie s die, chanAt s (channelOf die) with
  | some d, some x =>
    d.inUse && !dataPending s die && !xferPending s die && d.op.isNone && d.sensing.isNone && d.queue.isEmpty && (tabGet s.flash.plan die).isNone &&
      dieOpen s die && x.wpHigh && !x.failed
  | _, _ => false

/-- A row's programs are charged to its owner once, when the first of them is planned. -/
def rowCharged (s : State) (q : MediaReq) : Bool :=
  match rowOpAt s q.eg q.row with
  | some o => o.charged
  | none => true

def chargeRow (q : MediaReq) (t : Nat) (s : State) : State :=
  match rowOpAt s q.eg q.row, groupAt s q.eg with
  | some o, some g =>
    if o.charged then s
    else
      chargeDie q.owner (g.width * t)
        (updMedia (fun m => { m with rowOps := m.rowOps.map fun r =>
          if r.eg = q.eg ∧ r.row = q.row then { r with charged := true } else r }) s)
  | _, _ => s

/-- Plan one program or erase, or leave it for a later plan. -/
def planMedia (q : MediaReq) (s : State) : State :=
  match dieAt s q.die, dieClass s q.die with
  | some d, some k =>
    let t := nominal k q.kind
    let paid := pays d.thermal t && (if q.gc then pays d.gc t else rowCharged s q || !owes s q.owner)
    let waits := decide (q.kind = .program) && egWaits s q.eg (fun k => decide (k ≠ .closed))
    if !dieFree s q.die ∨ !paid ∨ waits ∨ (q.gc ∧ checkpointFirst s q.die) then
      let s := when (!q.gc && !rowCharged s q && owes s q.owner) (noteWait q.owner) s
      updFlash (fun f => { f with reqs := f.reqs ++ [q] }) s
    else
      let s := spendThermal q.die t (if q.gc then spendGc q.die t s else chargeRow q t s)
      let e : PlanEntry := if q.kind = .program then .program q.eg q.row q.member else .erase q.eg q.member
      updFlash (fun f => { f with plan := tabSet f.plan q.die e }) s
  | _, _ => s

def planMedias (s : State) : State :=
  let l := s.flash.reqs
  forEach l planMedia (updFlash (fun f => { f with reqs := [] }) s)

/-! ### Resume and offsets (R257, R276) -/

/-- A suspended die with no read in the plan, four sensings taken, or at the limit of 125 frames resumes; an
idle die whose offsets are not the standing ones gets those. A die with nothing else in the plan has its transfer or its
poll there (R253; DEDUCED, log 108). -/
def planRest (f : Nat) (die : Nat) (s : State) : State :=
  let give := fun (e : PlanEntry) => updFlash fun x => { x with plan := tabSet x.plan die e }
  match seenDie s die, dieClass s die with
  | some d, some k =>
    if (tabGet s.flash.plan die).isSome ∨ !dieOpen s die ∨ !d.inUse then s
    else
      let xfer := xferPending s die || match d.sensing with
        | some q => decide (q.issued + k.tR ≤ f)
        | none => false
      match d.op with
      | some o =>
        let tooLong := decide (o.suspAt + 125 ≤ f)
        if o.suspended ∧ d.sensing.isNone ∧ (d.queue.isEmpty ∨ 4 ≤ o.senses ∨ tooLong) then
          (if xferPending s die ∧ !tooLong then give .xfer s else give .resume s)
        else if xfer then give .xfer s
        else if !o.suspended ∧ o.nominal ≤ o.runAt f then give .poll s
        else s
      | none =>
        let v := (plannedStanding s die).ofs
        if xfer then give .xfer s
        else if d.sensing.isNone ∧ d.queue.isEmpty ∧ !dataPending s die ∧ d.held ≠ v then give (.offset v) s
        else s
  | _, _ => s

/-- A read transfer is planned on the channel in frame `f`, or a data-in waits for its bus. -/
def busPlanned (s : State) (ch : Nat) (x : Chan) (f : Nat) : Bool :=
  !x.xfers.isEmpty || !x.dataIns.isEmpty || s.flash.dies.any fun p =>
    decide (channelOf p.1 = ch) && match p.2.sensing, dieClass s p.1 with
      | some q, some k => decide (q.issued + k.tR ≤ f)
      | _, _ => false

/-- A retraining window in frame `f` (R250): never in two consecutive frames, at most 40 for a target, and beside planned
transfers only after a deferral of 64 frames. -/
def mayWindow (s : State) (ch : Nat) (x : Chan) (f : Nat) : Bool :=
  match x.retrain with
  | none => false
  | some r =>
    !x.failed && laneOpen s (ch / 2) && decide (r.windows < 40) &&
    (match r.last with
     | some l => decide (l + 1 < f)
     | none => true) &&
    (!busPlanned s ch x f || decide (r.since + 64 ≤ f))

def planWindows (f : Nat) (s : State) : State :=
  updFlash (fun x => { x with chans := tabMap (fun ch c => { c with windowDue := mayWindow s ch c f }) x.chans }) s

/-- Build the plan for the frame after this one. Reads of slow dies' units by their members, and slow members, come last,
into slots that would stay idle (R189, R190). A power-loss flush plans nothing (R261). -/
def buildPlan (s : State) : State :=
  let f := clk s + 1
  let s := planMedias (planReads f false s)
  let s := planReads f true s
  planWindows f (forEach (s.flash.dies.map (·.1)) (planRest f) s)

/-- The commit point (R46, R55): the lanes of `late` slip, the others commit what they have planned from the die status
of the cut-off. -/
def planCommit (late : List Nat) (s : State) : State :=
  if !hallRuns s ∨ s.frame.committed then s
  else
    let s := buildPlan (commitLanes late s)
    updFlash (fun f => { f with seen := none })
      (updFrame (fun f => { f with committed := true, inputOpen := false }) s)

def execPlanCommit (late : List Nat) (s : State) : Host.Outcome State Fault Refusal := act (planCommit late) s

/-! ### The reset of a lane (R57) -/

/-- An operation that leaves the plan waits for the planner again. Its tokens are spent. -/
def requeue (k : OpKind) (eg row m die : Nat) (s : State) : State :=
  match groupAt s eg with
  | none => s
  | some g =>
    let q : MediaReq :=
      { kind := k, eg := eg, row := row, member := m, die := die, gc := decide (k = .erase), owner := g.owner, frame := clk s }
    updFlash (fun f => { f with reqs := q :: f.reqs }) s

/-- The reset clears the lane's plan; requests keep their order. -/
def laneReset (l : Nat) (s : State) : State :=
  if 64 ≤ l ∨ (laneOf s l).run < 16 then s
  else
    let gone := s.flash.plan.filter fun p => decide (laneOfDie p.1 = l)
    let s := resetLane l (updFlash (fun f => { f with plan := f.plan.filter fun p => decide (laneOfDie p.1 ≠ l) }) s)
    forEach gone (fun p s =>
      match p.2 with
      | .read q => senseLost q.id true s
      | .suspend q => senseLost q.id true s
      | .program eg row m => requeue .program eg row m p.1 s
      | .erase eg m => requeue .erase eg 0 m p.1 s
      | _ => s) s

def execLaneReset (l : Nat) (s : State) : Host.Outcome State Fault Refusal := act (laneReset l) s

/-! ### The published plan (R47 step 7, R253, R256) -/

/-- The opcode of the die command table that suspends or resumes an operation (R238). -/
def suspOp (k : Class) (kind : OpKind) (resume : Bool) : Nat :=
  k.suspOps.getD ((if kind = .program then 0 else 2) + flag resume 1) 0

/-- A die's entry is carried out by its channel sequencer. -/
def issueEntry (die : Nat) (e : PlanEntry) (s : State) : State :=
  let c := clk s
  match dieAt s die, dieClass s die with
  | some d, some k =>
    let kind := match d.op with
      | some o => o.kind
      | none => .read
    if !d.inUse then s
    else match e with
      | .read q => kickDie die (updDie die (fun d => { d with queue := d.queue ++ [q] }) s)
      | .suspend q =>
        updDie die (fun d => { d with
          queue := d.queue ++ [q]
          op := d.op.map fun o => { o with suspPending := true, suspAt := c, ran := o.runAt c } })
          (onfi die (suspOp k kind false) (suspOp k kind false) s)
      | .resume =>
        updDie die (fun d => { d with op := d.op.map fun o =>
          { o with suspended := false, resumedAt := some c, suspFrames := o.suspFrames + (c - o.suspAt) } })
          (onfi die (suspOp k kind true) (suspOp k kind true) s)
      | .program eg row m => beginData die eg row m s
      | .erase eg m => startOp die .erase eg 0 m (onfiPlanes die k.planes 0x60 0xD1 0xD0 s)
      | .offset v => updDie die (fun d => { d with held := v }) (onfiLevels die k s)
      | .xfer => s
      | .poll => s
  | _, _ => s

/-- Publish the plan of the frame just ended and issue it. A SUSPEND for an operation that has ended meanwhile
is a plain READ (R265). -/
def publish (s : State) : State :=
  let p := s.flash.plan
  let s := updFlash (fun f => { f with
    published := p, plan := [], reqs := f.reqs ++ f.lateReqs, lateReqs := [], trackersWere := [], standingWere := [], seen := none }) s
  let s := forEach p (fun e s =>
    let busy := ((dieAt s e.1).bind (·.op)).isSome
    issueEntry e.1 (match e.2 with
      | .suspend q => if busy then .suspend q else .read q
      | x => x) s) s
  forEach (s.flash.dies.map (·.1)) kickDie (busOpen s)

end Sys2Proof.Machine
end

