-- ==== Sys2Proof/Machine/Reloc.lean ====
section
/-! DEFINITION. Relocation victims, erases, secure discards, refresh, patrol and probe reads (chapters
Translation, Wear and Free Space, Placement Engine, and Read Path). -/

namespace Sys2Proof.Machine

/-! ### Which group is next (R216) -/

/-- A group that could be a victim: closed, with valid units, none in progress on it. -/
def Group.candidate (g : Group) : Bool := decide (g.st = .closed) && decide (0 < g.valid) && !g.victim

/-- A secure discard's steps own the group: nothing else relocates it (R225, R233). -/
def discardOwns (s : State) (eg : Nat) : Bool :=
  s.zone.discards.any fun d => d.stale.contains eg || d.current.contains eg

/-- Closed groups that satisfy `p`, in ascending order of LAST_PROG, then EGID; or of valid units first. -/
def oldest (s : State) (p : Nat → Group → Bool) : List Nat :=
  (sortKey (fun (e : Nat × Group) => (e.2.lastProg + 2 ^ 64).toNat * 2 ^ 24 + e.1)
    (s.media.groups.filter fun e => e.2.candidate && !discardOwns s e.1 && !pendWaits s e.1 && p e.1 e.2)).map (·.1)

def fewest (s : State) (p : Nat → Group → Bool) : List Nat :=
  (sortKey (fun (e : Nat × Group) => e.2.valid * 2 ^ 96 + (e.2.lastProg + 2 ^ 64).toNat * 2 ^ 24 + e.1)
    (s.media.groups.filter fun e => e.2.candidate && !discardOwns s e.1 && !pendWaits s e.1 && p e.1 e.2)).map (·.1)

/-- A write of the namespace waits under R220. -/
def writeWaits (s : State) (n : Ns) : Bool :=
  s.host.items.any fun it =>
    decide (it.hold = .reserve) && decide (it.id.fn = n.owner) && decide (it.sqe.nsid.toNat = n.nsid)

/-- The namespace has fallen below 1/32 of its reservation, or a write waits for a group of it (R216, R220). -/
def reserveLow (s : State) (x : Nat) : Bool :=
  match nsAt s x with
  | some n => !n.zoned && (decide (32 * claimLeft s (x, n) < n.resv) || writeWaits s n)
  | none => false

def convGroup (s : State) (g : Group) : Bool :=
  match nsAt s g.nsx with
  | some n => !n.zoned
  | none => false

/-- Fewer than 1/16 of the extent blocks are free. -/
def extentsLow (s : State) : Bool := decide (15 * extentBlocks < 16 * extentsUsed s)

/-- Zones in order of extent count, the most extents first (R205). -/
def widestZones (s : State) : List (Nat × Zone) :=
  sortKey (fun p => 2 ^ 64 - (zoneExtents s p.2).length) s.zone.zones

/-- The victims in the order of their priorities. -/
def victimOrder (s : State) : List (Nat × Nat) :=
  let tag := fun (k : Nat) (l : List Nat) => l.map fun e => (k, e)
  tag 1 (oldest s fun _ g => g.rebuild) ++ tag 2 (oldest s fun _ g => g.refresh) ++
  tag 3 (oldest s fun _ g => g.retire) ++
  tag 4 (fewest s fun _ g => reserveLow s g.nsx) ++
  tag 5 (fewest s fun _ g => decide (pantryLevel s g.cls < highMark) && (convGroup s g || g.pack)) ++
  tag 5 (if extentsLow s then ((widestZones s).map fun p => fewest s fun _ g => g.zones.contains p.1).flatten.eraseDups else [])

/-! ### RELOCATION_VICTIM_START (R215, R216, R221 step 1) -/

/-- The units of a zoned group's zone rows, each row whole. -/
def zoneCopies (s : State) (eg : Nat) (z : Nat) : List (Nat × Loc) :=
  match tabGet s.zone.zones z with
  | none => []
  | some r =>
    match nsAt s r.nsx with
    | none => []
    | some n =>
      ((r.exts.filter fun p => p.2.any fun e => decide (e.eg = eg)).map fun p =>
        (expandParts p.2).map fun q =>
          (r.idx * zoneUnits n + p.1 * rowUnits n.width + q.1, locOf q.2.1 q.2.2 q.1)).flatten

/-- The valid units of a conventional group, held earlier locations included, in the order of their places. -/
def convCopies (s : State) (eg x : Nat) : List (Nat × Loc) :=
  let mapped := s.media.pageMap.filterMap fun p =>
    if p.1 / 2 ^ 40 = x then
      (match p.2 with
       | .flash l => if l.eg = eg then some (p.1 % 2 ^ 40, l) else none
       | .landing _ => none)
    else none
  let held := s.media.landing.filterMap fun e =>
    match e.earlier with
    | some (.flash l) => if l.eg = eg then some (e.unit, l) else none
    | _ => none
  sortKey (fun p => flashKey p.2) (mapped ++ held)

def victimUnits (s : State) (eg : Nat) (g : Group) : List (Nat × Loc) :=
  if convGroup s g then convCopies s eg g.nsx else (g.zones.map (zoneCopies s eg)).flatten

/-- A group becomes a victim: the reads of `l` are requested. -/
def startVictim (eg prio : Nat) (g : Group) (l : List (Nat × Loc)) (s : State) : State :=
  let s := updMedia (fun m => { m with victims := m.victims ++ [{ eg := eg, prio := prio, copies := [], rows := [], stuck := [] }] }) s
  let s := updGroup eg (fun g => { g with victim := true }) s
  let s := forEach l (fun p s => addRead (readOp s (.reloc eg) g.nsx p.1 p.2) s) s
  victimDone eg s

/-- Take a victim, or bind again the copies of one that no group could take. -/
def relocationStart (eg : Nat) (s : State) : State :=
  match groupAt s eg with
  | none => s
  | some g =>
    if !hallRuns s then s
    else if g.victim then bindCopies eg s
    else if 64 ≤ s.media.victims.length then s
    else match victimOrder s with
      | (k, e) :: _ => if e = eg then startVictim eg k g (victimUnits s eg g) s else s
      | [] => s

def execRelocationVictimStart (eg : Nat) (s : State) : Host.Outcome State Fault Refusal := act (relocationStart eg) s

/-! ### GROUP_ERASE_ISSUE (R221 step 5, R285, R292) -/

/-- A read is planned or in flight on the group. -/
def readOn (s : State) (eg : Nat) : Bool :=
  s.flash.reads.any fun r => decide (r.loc.eg = eg) &&
    match r.st with
    | .decoded _ => false
    | .zeros => false
    | _ => true

/-- Request the erase of every die block of a group on the pending-erase list; blocks of a lost die are not
erased. -/
def groupErase (eg : Nat) (s : State) : State :=
  match groupAt s eg with
  | none => s
  | some g =>
    if !hallRuns s ∨ g.st ≠ .pendingErase ∨ !g.erasing.isEmpty ∨ readOn s eg ∨
        s.media.ring.any (fun r => decide (r.type = .eraseDone) && decide (r.eg = eg)) then s
    else
      let bl := (List.range (groupBlocks g).length).zip (groupBlocks g)
      let live := bl.filter fun p => match dieAt s p.2.1 with
        | some d => d.inUse
        | none => false
      let s := cacheDrop eg s
      let s := updGroup eg (fun g => { g with erasing := live.map (·.1) }) s
      if live.isEmpty then submit { jrec .eraseDone with eg := eg } s
      else forEach live (fun p s =>
        request { kind := .erase, eg := eg, row := 0, member := p.1, die := p.2.1, gc := true, owner := g.owner,
                  frame := clk s } s) s

def execGroupEraseIssue (eg : Nat) (s : State) : Host.Outcome State Fault Refusal := act (groupErase eg) s

/-! ### SECURE_DISCARD_STEP (R155, R225) -/

def updDiscard (d : Discard) (f : Discard → Discard) : State → State :=
  updZone fun z => { z with discards := z.discards.map fun k => if k = d then f k else k }

/-- Step 1: no pending erase and no refuge unit of the namespace is left, and no row that carries a unit of the range is on
its way to flash. -/
def discardReady (s : State) (d : Discard) : Bool := !erasesLeft s d.nsx

/-- Step 2: a group with stale copies alone is closed, relocated, and erased when nothing valid is left. -/
def discardStale (eg : Nat) (s : State) : State :=
  match groupAt s eg with
  | none => s
  | some g =>
    if g.st = .opened then closeEarly eg s
    else if g.candidate then startVictim eg 0 g (victimUnits s eg g) s
    else if g.victim then bindCopies eg s
    else pendIfEmpty eg s

/-- Step 3: the units outside the range are relocated, then one SECURE_STEP unmaps the group's units of the
range and puts it on the pending-erase list. -/
def discardCurrent (d : Discard) (eg : Nat) (s : State) : State :=
  match groupAt s eg with
  | none => s
  | some g =>
    let outside := (victimUnits s eg g).filter fun p => !inRange d p.1
    if g.st = .opened then closeEarly eg s
    else if g.st ≠ .closed then s
    else if g.victim then bindCopies eg s
    else if !outside.isEmpty then startVictim eg 0 g outside s
    else if pendWaits s eg ∨ !pendRoom s then s
    else submit { jrec .secureStep with unmap := some (d.nsx, d.first, d.count), eg := eg, erase := [eg] } (takePend eg s)

def dropDiscard (d : Discard) : State → State :=
  updZone fun z => { z with discards := z.discards.erase d }

/-- A row that carries a unit of the range is on its way to flash. -/
def rangeInFlight (s : State) (d : Discard) : Bool :=
  let has := fun (o : RowOp) => decide (o.nsx = d.nsx) && o.units.any fun p => inRange d p.2.unit
  s.media.rowOps.any has || (s.media.victims.any fun v => v.rows.any has) || s.media.ring.any fun r => r.row.any has

/-- Groups that hold current copies of units of the range. -/
def rangeGroups (s : State) (d : Discard) : List Nat :=
  (s.media.pageMap.filterMap fun p =>
    if pmKey d.nsx d.first ≤ p.1 ∧ p.1 < pmKey d.nsx d.first + d.count then
      (match p.2 with
       | .flash l => some l.eg
       | .landing _ => none)
    else none).eraseDups

/-- The groups whose region map meets the range and that hold none of its current copies (R225 step 2). -/
def staleGroups (s : State) (d : Discard) (n : Ns) : List Nat :=
  let cur := rangeGroups s d
  ((s.media.groups.filter fun p =>
    decide (p.2.nsx = d.nsx) && p.2.holds && !cur.contains p.1 &&
    p.2.regions.any fun i => decide (regionOf n d.first ≤ i) && decide (i ≤ regionOf n (d.first + d.count - 1))).map (·.1))

/-- The end of step 1: the groups of steps 2 and 3 are known. -/
def discardBegin (d : Discard) (s : State) : State :=
  match nsAt s d.nsx with
  | none => dropDiscard d s
  | some n =>
    if rangeInFlight s d then s
    else updDiscard d (fun k => { k with begun := true, stale := staleGroups s d n, current := rangeGroups s d }) s

/-- The discard that a Format of a secure-discard namespace makes of it (R225) has no work item. -/
def wipeKey (x : Nat) : Nat := 2 ^ 64 + x

/-- Step 4: the units of the range that are still landed are unmapped; the last range completes the command. -/
def discardEnd (d : Discard) (s : State) : State :=
  let s := dropDiscard d s
  let more := s.zone.discards.any fun k => decide (k.seq = d.seq)
  submit { jrec .unmap with unmap := some (d.nsx, d.first, d.count),
                            items := if more ∨ d.seq = wipeKey d.nsx then [] else [d.seq] } s

/-- The groups of a discard have been stepped through: units that have come to flash meanwhile, then the last step. -/
def discardRest (d : Discard) (s : State) : State :=
  if rangeInFlight s d then s
  else
    let l := rangeGroups s d
    if l.isEmpty then discardEnd d s else updDiscard d (fun d => { d with current := l }) s

def discardStep (seq : Nat) (s : State) : State :=
  match s.zone.discards.find? fun d => decide (d.seq = seq) with
  | none => s
  | some d =>
    if !hallRuns s ∨ s.media.journalReadOnly then s
    else if !d.begun then (if discardReady s d then discardBegin d s else s)
    else match d.stale, d.current with
      | eg :: _, _ => discardStale eg s
      | [], eg :: _ => discardCurrent d eg s
      | [], [] =>
        match itemBySeq s seq with
        | some it =>
          if it.outcome.isSome then
            let s := dropDiscard d s
            if s.zone.discards.any fun k => decide (k.seq = seq) then s else postItem seq s
          else discardRest d s
        | none => if seq = wipeKey d.nsx then discardRest d s else dropDiscard d s

def execSecureDiscardStep (seq : Nat) (s : State) : Host.Outcome State Fault Refusal := act (discardStep seq) s

/-! ### Refresh, patrol, probe (R188, R217) -/

def refreshAge (eg : Nat) (s : State) : State :=
  match groupAt s eg with
  | none => s
  | some g =>
    when (booted s && decide (g.st = .closed) && decide (g.lastProg + 2 ^ 41 ≤ (now s : Int))) (refreshGroup eg) s

def execRefreshAgeReached (eg : Nat) (s : State) : Host.Outcome State Fault Refusal := act (refreshAge eg) s

/-- The closed group whose turn it is in the rotation. -/
def patrolNext (s : State) : Option Nat :=
  let l := (s.media.groups.filter fun p => decide (p.2.st = .closed)).map (·.1)
  (l.find? fun e => decide (s.flash.patrolPos < e)).or l.head?

/-- The units programmed in a row. -/
def rowPlaces (s : State) (eg row : Nat) : List Loc :=
  s.media.flash.filterMap fun p =>
    if p.1 / 2 ^ 24 = eg ∧ p.1 / 2 ^ 9 % 2 ^ 15 = row then some (locOf eg row (p.1 % 2 ^ 9)) else none

/-- Read one row of the closed group whose turn it is; its results go to no host. -/
def patrol (eg row : Nat) (s : State) : State :=
  match groupAt s eg with
  | none => s
  | some g =>
    if !hallRuns s ∨ patrolNext s ≠ some eg ∨ g.rows ≤ row then s
    else
      let s := updFlash (fun f => { f with patrolPos := eg }) s
      forEach (rowPlaces s eg row) (fun l s => addRead (readOp s .patrol g.nsx 0 l) s) s

def execPatrolRead (eg row : Nat) (s : State) : Host.Outcome State Fault Refusal := act (patrol eg row) s

/-- A written page of a die, by its first unit. -/
def pageOn (s : State) (die : Nat) : Option Loc :=
  (s.media.flash.find? fun p =>
    let l := locOf (p.1 / 2 ^ 24) (p.1 / 2 ^ 9 % 2 ^ 15) (p.1 % 2 ^ 9)
    match memberPlace s l (targetMember s l) with
    | some (d, _, _, _) => decide (d = die)
    | none => false).map fun p => locOf (p.1 / 2 ^ 24) (p.1 / 2 ^ 9 % 2 ^ 15) (p.1 % 2 ^ 9)

/-- A slow die with no read planned for 1,024 frames is sensed once (R188). -/
def probe (die : Nat) (s : State) : State :=
  match dieAt s die, pageOn s die with
  | some d, some l =>
    if !hallRuns s ∨ !d.slow ∨ !fired d.lastRead 1024 (clk s) ∨
        s.flash.reads.any (fun r => decide (r.for_ = .probe) && decide (r.loc = l)) then s
    else addRead { readOp s .probe 65536 0 l with noBack := true } s
  | _, _ => s

def execProbeRead (die : Nat) (s : State) : Host.Outcome State Fault Refusal := act (probe die) s

end Sys2Proof.Machine
end

