-- ==== Sys2Proof/Machine/Wipe.lean ====
section
/-! DEFINITION. Format, Sanitize and the erasing of an instance's namespaces (R103, R104, R157 to R162, R353,
R354). -/

namespace Sys2Proof.Machine

/-! ### What an operation still has to process (R161) -/

/-- Erase groups of a namespace an operation processes: with block erase every one that is not erased yet, else
those that hold rows. -/
def wipeLeft (s : State) (block : Bool) (x : Nat) : Nat :=
  (s.media.groups.filter fun p => decide (p.2.nsx = x) && (block || p.2.holds)).length

/-- Erase groups of every namespace. -/
def wipeLeftAll (s : State) (block : Bool) : Nat := (s.zone.nss.map fun p => wipeLeft s block p.1).sum

/-- Percentage of `total` that `left` is, rounded down (DESIGN CHOICE, log 116); 0 when there was nothing to process. -/
def percentLeft (total left : Nat) : Nat := if total = 0 then 0 else min 100 (left * 100 / total)

/-- A refuge group holds a copy of a unit of the namespace. -/
def inRefuge (s : State) (x : Nat) : Bool := s.media.refuge.any fun u => decide (u.entry.nsx = x)

/-- The record of a wipe of the namespace is still in the ring. -/
def wipePending (s : State) (x : Nat) : Bool :=
  s.media.ring.any fun r =>
    (match r.unmap with
     | some (y, _, _) => decide (y = x)
     | none => false) ||
    r.zst.any fun p => decide (p.2 = .wiped) && (match zoneAt s p.1 with
      | some z => decide (z.nsx = x)
      | none => false)

/-- The wipe of a namespace is done: its unmapping durable and, with block erase, no copy left on flash or in
the refuge area; with crypto erase, the system-area blocks that held the previous wrapped salts and keys erased
(R324). -/
def wipeDone (s : State) (kind : EraseKind) (x : Nat) : Bool :=
  (decide (kind ≠ .crypto) || s.media.keyStale.isEmpty) &&
  !wipePending s x && !(s.zone.discards.any fun d => decide (d.nsx = x)) && (decide (kind ≠ .block) || (decide (wipeLeft s true x = 0) && !inRefuge s x))

/-! ### Wiping one namespace -/

/-- Draw random bits (R325). -/
def drawRandom (s : State) : BitVec 512 × State :=
  (Config.random s.prot.draws, { s with prot := { s.prot with draws := s.prot.draws + 1 } })

/-- Renew a namespace's salt (R323). -/
def renewSalt (x : Nat) (s : State) : State :=
  let (r, s) := drawRandom s
  updNs x (fun n => { n with salt := BitVec.setWidth 256 r, saltGen := n.saltGen + 1 }) s

/-- Replace a device-generated slot key; an injected one is kept (R323). -/
def renewSlot (k : Nat) (s : State) : State :=
  match tabGet s.prot.slots k with
  | some x =>
    if x.st = .device then
      let (r, s) := drawRandom s
      { s with prot := { s.prot with slots := tabSet s.prot.slots k { x with key := r } } }
    else s
  | none => s

/-- Unmap every unit of a namespace and close its open groups; a crypto erase renews the salt first (R159). A Format with
block erase on a secure-discard conventional namespace takes the steps of R225. -/
def wipeNs (x : Nat) (kind : EraseKind) (s : State) : State :=
  match nsAt s x with
  | none => s
  | some n =>
    let s := when (decide (kind = .crypto)) (renewSalt x) s
    let open_ := (s.media.groups.filter fun p => decide (p.2.nsx = x) && decide (p.2.st = .opened)).map (·.1)
    let s := forEach open_ closeEarly s
    let s := updNs x (fun n => { n with hostGroup := [], gcGroup := [], claims := [], shelfGroup := none, blocked := false }) s
    if n.zoned then
      let zs := (s.zone.zones.filter fun p => decide (p.2.nsx = x)).map (·.1)
      submitZones .wiped [] (fun _ => []) zs s
    else if n.secdisc ∧ kind = .block ∧ n.fmt.isSome ∧ !instSanitizing s n.owner then
      beginDiscard (wipeKey x) x 0 (nsUnits n) s
    else submit { jrec .unmap with unmap := some (x, 0, nsUnits n) } s

/-- Work items of a namespace fetched in frame `f` or earlier, or started since. -/
def olderIo (s : State) (n : Ns) (f : Nat) : Bool :=
  s.host.items.any fun it =>
    it.io && decide (it.id.fn = n.owner) && decide (it.sqe.nsid.toNat = n.nsid) && (decide (it.fetched ≤ f) || it.running)

/-- A crypto erase waits for the TRNG while a health test fails (R325). -/
def wipeWaits (s : State) (kind : EraseKind) : Bool := s.media.journalReadOnly || (decide (kind = .crypto) && !s.prot.trngOk)

/-- The instance that is being sanitised, of an owner. -/
def sanitised (s : State) (fn : Nat) : Option Inst := if instSanitizing s fn then tabGet s.inst.insts fn else none

/-- At a boundary, a Format or instance sanitise whose earlier commands have finished begins to erase; the namespaces of
an instance begin together, and a crypto erase replaces its slot key with the first of them (R354). -/
def startWipe (x : Nat) (s : State) : State :=
  match nsAt s x with
  | none => s
  | some n =>
    match n.fmt with
    | none => s
    | some p =>
      let older : Bool := match sanitised s n.owner with
        | some _ => (nssOf s n.owner).any fun q => olderIo s q.2 p.startFrame
        | none => olderIo s n p.startFrame
      if p.started ∨ clk s ≤ p.startFrame ∨ older ∨ wipeWaits s p.kind then s
      else
        let s := when (decide (p.kind = .crypto)) (fun s => match sanitised s n.owner with
          | some i => if i.nsxs.head? = some x then renewSlot i.slot (rewrapKeys s) else s
          | none => rewrapKeys s) s
        wipeNs x p.kind (updNs x (fun n => { n with fmt := some { p with started := true } }) s)

def startWipes (s : State) : State := forEach (s.zone.nss.map (·.1)) startWipe s

/-! ### FORMAT_NVM (R103, R104, R158 to R160) -/

/-- The erasure a Secure Erase Setting asks for. -/
def eraseKindOf (ses : Nat) : Option EraseKind :=
  if ses = 0 then some .unmap else if ses = 1 then some .block else if ses = 2 then some .crypto else none

/-- A namespace's instance sanitise is not a Format of its own. -/
def formatRuns (s : State) (n : Ns) : Bool := n.fmt.isSome && !instSanitizing s n.owner

def formatNvm (it : Item) (s : State) : State :=
  let lbaf := dw it.sqe.cdw10 3 0
  let pit := dw it.sqe.cdw10 7 5
  match nsOf s it.id.fn it.sqe.nsid.toNat with
  | none => finishBad it.seq stInvalidNamespace s
  | some (x, n) =>
    if n.fmt.isSome then
      (if it.phase = .started then s else finishBad it.seq stFormatInProgress s)
    else if 4 < lbaf ∨ (n.zoned ∧ 2 < lbaf) then finishBad it.seq stInvalidFormat s
    else if 3 < pit ∨ (lbaMeta lbaf = 0 ∧ 0 < pit) then finishBad it.seq stInvalidField s
    else match eraseKindOf (dw it.sqe.cdw10 11 9) with
      | none => finishBad it.seq stInvalidField s
      | some k =>
        if k = .crypto ∧ !s.prot.trngOk then finishBad it.seq stInternal s
        else
          let ext := decide (dw it.sqe.cdw10 4 4 = 1)
          let pil := decide (dw it.sqe.cdw10 8 8 = 1)
          let p : Progress :=
            { kind := k, lbaf := lbaf, pit := pit, ext := ext, pil := pil, started := false, startFrame := it.fetched
              total := wipeLeft s (decide (k = .block)) x }
          updItem it.seq (fun i => { i with phase := .started }) (updNs x (fun n => { n with fmt := some p }) s)

def execFormatNvm (id : CmdId) (s : State) : Host.Outcome State Fault Refusal :=
  act (admin 0x80 .all formatNvm id) s

/-- The Format of a namespace ends: the format it set takes effect, its command completes (R158, R161). -/
def formatDone (x : Nat) (s : State) : State :=
  match nsAt s x with
  | none => s
  | some n =>
    match n.fmt with
    | none => s
    | some p =>
      if !booted s ∨ !p.started ∨ instSanitizing s n.owner ∨ !wipeDone s p.kind x then s
      else
        let s := updNs x (fun n => { n with
          fmt := none
          lbaf := p.lbaf
          pit := p.pit
          ext := p.ext
          pil := p.pil
          nsze := n.nsze * lbaData n.lbaf / lbaData p.lbaf }) s
        let s := notifyNs n.owner n.nsid s
        forEach (s.host.items.filter fun it => !it.io && decide (it.opc = 0x80) && decide (it.id.fn = n.owner) &&
          decide (it.sqe.nsid.toNat = n.nsid) && it.running) (fun it => finishOk it.seq) s

def execFormatDone (x : Nat) (s : State) : Host.Outcome State Fault Refusal := act (formatDone x) s

/-! ### Sanitize (R104, R160, R161) -/

/-- Sanitize of one kind: the command completes when the operation is accepted, and the operation starts once
the I/O fetched before it has finished. -/
def sanitize (action : Nat) (kind : EraseKind) (it : Item) (s : State) : State :=
  if dw it.sqe.cdw10 2 0 ≠ action then s
  else if s.zone.nss.any (fun p => formatRuns s p.2) then finishBad it.seq stFormatInProgress s
  else if sanitizing s ∨ (s.inst.insts.any fun p => decide (p.2.st = .sanitising)) then finishBad it.seq stSanitizeInProgress s
  else if kind = .crypto ∧ !s.prot.trngOk then finishBad it.seq stInternal s
  else
    finishOk it.seq (updZone (fun z => { z with san :=
      { z.san with st := .waiting, kind := kind, total := wipeLeftAll s (decide (kind = .block)), startFrame := it.fetched } }) s)

def execSanitizeBlockErase (id : CmdId) (s : State) : Host.Outcome State Fault Refusal :=
  act (admin 0x84 .manager (sanitize 2 .block) id) s

def execSanitizeCryptoErase (id : CmdId) (s : State) : Host.Outcome State Fault Refusal :=
  act (admin 0x84 .manager (sanitize 4 .crypto) id) s

/-- Exit Failure Mode releases the device from the failure state. -/
def exitFailure (it : Item) (s : State) : State :=
  if dw it.sqe.cdw10 2 0 ≠ 1 then s
  else if sanitizing s then finishBad it.seq stSanitizeInProgress s
  else finishOk it.seq (when (decide (s.zone.san.st = .failed))
    (updZone fun z => { z with san := { z.san with st := .idle } }) s)

def execSanitizeExitFailureMode (id : CmdId) (s : State) : Host.Outcome State Fault Refusal :=
  act (admin 0x84 .manager exitFailure id) s

/-- Replace every device-generated slot key (R323). -/
def renewSlots (s : State) : State := forEach (s.prot.slots.map (·.1)) renewSlot s

/-- At a boundary, a Sanitize whose earlier commands have finished begins. -/
def startSanitize (s : State) : State :=
  let a := s.zone.san
  if a.st ≠ .waiting ∨ clk s ≤ a.startFrame ∨ wipeWaits s a.kind ∨
      s.host.items.any (fun it => it.io && (decide (it.fetched ≤ a.startFrame) || it.running)) then s
  else
    let s := when (decide (a.kind = .crypto)) (fun s => renewSlots (rewrapKeys s)) s
    let s := forEach (s.zone.nss.map (·.1)) (fun x => wipeNs x a.kind) s
    updZone (fun z => { z with san := { z.san with st := .running } }) s

/-- The running Sanitize ends: successfully once every namespace is wiped, or in the failure state of
NVMe 2.0. -/
def sanitizeDone (good : Bool) (s : State) : State :=
  let a := s.zone.san
  if a.st ≠ .running ∨ !booted s ∨ (good ∧ !(s.zone.nss.all fun p => wipeDone s a.kind p.1)) then s
  else updZone (fun z => { z with san :=
    { z.san with st := if good then .idle else .failed, completed := z.san.completed || good } }) s

def execSanitizeDone (good : Bool) (s : State) : Host.Outcome State Fault Refusal := act (sanitizeDone good) s

/-! ### Abort (R122) -/

/-- Complete an Abort with the named command aborted, once that command's completion is posted. -/
def abortEnd (it : Item) (target : Nat) (s : State) : State :=
  match itemBySeq s target with
  | none => finishOk it.seq s
  | some _ => updItem it.seq (fun i => { i with phase := .started, ranges := [(target, 0)] }) s

/-- Commands that an Abort leaves to their own completion: admin commands, and Zone Management Send and Dataset
Management once started. -/
def notAbortable (it : Item) : Bool :=
  !it.io || it.outcome.isSome || (it.running && (decide (it.opc = 0x79) || decide (it.opc = 0x09)))

def abort (it : Item) (s : State) : State :=
  match it.ranges with
  | (t, _) :: _ => abortEnd it t s
  | [] =>
    let earlier := s.host.items.filter fun k =>
      decide (k.id.fn = it.id.fn) && !k.io && decide (k.opc = 0x08) && decide (k.seq < it.seq)
    if 8 ≤ earlier.length then finishBad it.seq (mkStatus 1 0x03 true) s
    else
      match findItem s { fn := it.id.fn, sq := dw it.sqe.cdw10 15 0, cid := dw it.sqe.cdw10 31 16 } with
      | none => finish it.seq stOk 1 0 s
      | some k =>
        if notAbortable k then finish it.seq stOk 1 0 s
        else abortEnd it k.seq (failItem k.seq stAbortRequested s)

def execAbort (id : CmdId) (s : State) : Host.Outcome State Fault Refusal := act (admin 0x08 .all abort id) s

/-! ### COMMAND_LIFETIME_EXPIRY (R118, R119, R157, R225, R226) -/

/-- A lifetime fires: the command ends with 0x83; one whose atomic step is under way ends with it. -/
def lifetimeEnd (it : Item) (s : State) : State :=
  if it.running ∧ (it.opc = 0x79 ∨ it.opc = 0x09) then
    cutDiscard it.seq (latch it.seq stLifetime 0 0 s)
  else failItem it.seq stLifetime s

def lifetimeExpiry (id : CmdId) (s : State) : State :=
  match findItem s id with
  | none => s
  | some it =>
    if !it.io ∨ it.outcome.isSome ∨ flushing s ∨ !booted s ∨ it.age (clk s) ≤ it.life then s
    else lifetimeEnd it s

def execCommandLifetimeExpiry (id : CmdId) (s : State) : Host.Outcome State Fault Refusal :=
  act (lifetimeExpiry id) s

end Sys2Proof.Machine
end

