-- ==== Sys2Proof/Machine/Resets.lean ====
section
/-! DEFINITION. Controller resets, link resets, VF visibility and the resets of an instance (R92 to R94, R123,
R163, R329, R346 to R351, R498). -/

namespace Sys2Proof.Machine

/-! ### Opened zones after a reset (R136, R163) -/

/-- The opened zones of a function, by device zone number. -/
def openZones (s : State) (fn : Nat) : List Nat :=
  (s.zone.zones.filter fun p => p.2.st.isOpen && decide (ownerOf s p.2.nsx = fn)).map (·.1)

/-- Close the opened zones of a function: Closed, or Empty where the write pointer is at ZSLBA. -/
def closeZones (fn : Nat) (s : State) : State :=
  let zs := openZones s fn
  if zs.isEmpty then s
  else
    forEach zs (fun z s =>
      match zoneAt s z with
      | none => s
      | some r => tell z r.st r.fzr (closeZone z (updZoneRec z (fun r => { r with ap := r.wp, drain := none }) s))) s

/-- After a controller reset the zones close once no work finishes internally any more. -/
def settle (fn : Nat) (s : State) : State :=
  match ctlOf s fn with
  | none => s
  | some c =>
    if !c.closing ∨ silentLeft s fn then s
    else updCtl fn (fun c => { c with closing := false }) (closeZones fn s)

/-! ### Controller reset (R123) -/

/-- A controller as a reset leaves it: disabled, without queues, its features at their defaults; the counts and
logs of the function stay. -/
def clearCtl (s : State) (lifeE : Nat) (c : Ctl) : Ctl :=
  { c with
    en := false, rdy := false, cfs := false, sqs := [], cqs := [], feats := featsDefault s lifeE, vecs := [],
    aers := [], events := [], masked := [], lastSq := 0, adminLast := false, closing := true }

/-- The default lifetime exponent of a function: an instance's own, 22 on a PF (R118, R336). -/
def lifeDefault (s : State) (fn : Nat) : Nat :=
  match tabGet s.inst.insts fn with
  | some i => i.lifeE
  | none => 22

/-- A controller reset: commands not started are dropped, started ones finish internally and post nothing. -/
def ctlResetOf (fn : Nat) (s : State) : State :=
  let s := updItems (fun l => (l.filter fun it => decide (it.id.fn ≠ fn) || it.running).map fun it =>
    if it.id.fn = fn then { it with silent := true } else it) s
  let e := lifeDefault s fn
  let s' := s
  settle fn (updCtl fn (clearCtl s' e) s)

def execControllerReset (fn : Nat) (s : State) : Host.Outcome State Fault Refusal :=
  act (when (booted s) (ctlResetOf fn)) s

/-- CC.EN is written to 1: the admin queue pair takes the sizes of AQA, and the controller is ready (NVMe
2.0). A FREE instance has no controller, and a controller that is not reachable takes no write (R330). -/
def ctlEnable (fn : Nat) (cc aqa : Word) (s : State) : State :=
  match ctlOf s fn with
  | none => s
  | some c =>
    if !hallRuns s ∨ !visible s fn ∨ c.en ∨ !cc.getLsbD 0 ∨ s.fw.cellar then s
    else
      let sq : Sq := { size := dw aqa 11 0 + 1, head := 0, tail := 0, cq := 0, shard := 0, bells := [],
                       lastPost := none, lastOrd := none }
      let cq : Cq := { size := dw aqa 27 16 + 1, head := 0, tail := 0, vector := 0, ien := true, entries := [],
                       waiting := [] }
      updCtl fn (fun c => { c with en := true, rdy := true, sqs := tabSet c.sqs 0 sq, cqs := tabSet c.cqs 0 cq }) s

def execControllerEnable (fn : Nat) (cc aqa : Word) (s : State) : Host.Outcome State Fault Refusal :=
  act (ctlEnable fn cc aqa) s

/-! ### Resets of an instance (R346 to R351) -/

def updInstance (n : Nat) (f : Inst → Inst) : State → State :=
  updInst fun i => { i with insts := tabUpd i.insts n f }

def instAt (s : State) (n : Nat) : Option Inst := tabGet s.inst.insts n

/-- An FLR of an instance is received: it takes effect at the next boundary (R347). -/
def flrRequest (n : Nat) (s : State) : State :=
  let c := clk s
  updInstance n (fun i => if i.st = .creating then i else { i with resetDue := some (i.resetDue.getD c), flr := true }) s

/-- Roll back a zone (R350): its accept pointer returns to the write pointer, what lies beyond is unmapped, one
UNMAP record. -/
def rollbackZone (z : Nat) (s : State) : State :=
  match zoneAt s z with
  | none => s
  | some r =>
    match nsAt s r.nsx with
    | none => s
    | some n =>
      if r.ap ≤ r.wp then updZoneRec z (fun r => { r with drain := none }) s
      else
        let s := unmapZoneFrom z r.wp s
        let s := dropClaims z ((r.wp + rowUnits n.width - 1) / rowUnits n.width) s
        let s := updZoneRec z (fun r => { r with ap := r.wp, drain := none }) s
        submit { jrec .unmap with unmap := some (r.nsx, r.idx * zoneUnits n + r.wp, r.ap - r.wp) } s

/-- The zones of an instance's namespaces that are not Full: those a write may be under way to. -/
def rollZones (s : State) (n : Nat) : List Nat :=
  (s.zone.zones.filter fun p => decide (p.2.st ≠ .full) && decide (ownerOf s p.2.nsx = n) &&
    (decide (p.2.wp < p.2.ap) || p.2.drain.isSome)).map (·.1)

/-- An old-generation I/O item stops: its outcome is latched, its reads end, what it has landed goes. -/
def stopOld (it : Item) (s : State) : State :=
  if it.outcome.isSome then s
  else
    let s := latch it.seq stGeneration 0 0 s
    if isReadOpc it.opc then dropReads it.seq s
    else if isWriteOpc it.opc then discardLanded it.seq s
    else cutDiscard it.seq s

/-- An item whose atomic step of a secure discard is under way posts at its end (R351). -/
def inStep (s : State) (it : Item) : Bool :=
  (decide (it.opc = 0x79) && it.running && !it.ranges.isEmpty) ||
  s.zone.discards.any fun d => decide (d.seq = it.seq) && !d.current.isEmpty

/-- The completions of the old generation are posted in zone offset order once the rollback is committed: with its last
record. -/
def postOld (n before : Nat) (s : State) : State :=
  let l := sortKey (fun it => it.unit * 2 ^ 64 + it.seq)
    (s.host.items.filter fun it => it.io && decide (it.id.fn = n) && it.outcome.isSome && !inStep s it)
  if s.media.nextJSeq = before then forEach l (fun it => postItem it.seq) s
  else updMedia (fun m => { m with ring := m.ring.map fun r =>
    if r.seq + 1 = m.nextJSeq then { r with items := r.items ++ l.map (·.seq) } else r }) s

/-- What an FLR leaves: no command, no queue, nothing posted. -/
def flrEnd (n : Nat) (s : State) : State :=
  let e := lifeDefault s n
  let s' := s
  let s := updItems (fun l => l.filter fun it => decide (it.id.fn ≠ n)) s
  updCtl n (fun c => { clearCtl s' e c with closing := false }) s

/-- The erasure of the units under a sanitise policy (R353): a crypto erase there unmaps, and erases the wrapped keys. -/
def policyKind (p : Nat) : EraseKind := if p = 2 then .block else .unmap

def isoOf (s : State) (n : Nat) : Isolation :=
  tabGetD s.inst.iso n { admitNew := true, sanFloor := 0, keyMode := false }

/-- The policy applied at destroy: the higher of the instance's and the isolation table's floor (R335). -/
def policyNow (s : State) (n : Nat) (i : Inst) : Nat := max i.policy (isoOf s n).sanFloor

/-- The namespaces of a destroyed instance are detached and wiped under its policy, and under policies 1 and 2 the
wrapped copies of its keys go (R352, R353). -/
def destroyWipe (n : Nat) (i : Inst) (s : State) : State :=
  let k := policyKind (policyNow s n i)
  let left := (i.nsxs.map fun x => wipeLeft s (decide (k = .block)) x).sum
  let s := updInstance n (fun i => { i with wiping := true, total := left }) s
  let s := when (decide (0 < policyNow s n i)) rewrapKeys s
  forEach i.nsxs (fun x s => wipeNs x k (updNs x (fun m => { m with attached := false, fmt := none }) s)) s

/-- Cycle 256 of the frame in which a reset takes effect, and the rollback of the next frame. -/
def resetEffect (n : Nat) (s : State) : State :=
  match instAt s n with
  | none => s
  | some i =>
    match i.resetDue with
    | none => s
    | some f =>
      if !hallRuns s ∨ clk s ≤ f then s
      else
        let before := s.media.nextJSeq
        let c := clk s
        let s := updInst (fun t => { t with gens := tabSet t.gens n ((tabGetD t.gens n 0 + 1) % 256) }) s
        let counts := decide (i.st ≠ .destroying) || i.flr || i.pend.any fun p => decide (p.opcode = 0x12)
        let s := updInstance n (fun i => { i with resets := i.resets + flag counts 1, resetDue := none, resetAt := c, resume := false }) s
        let s := updCtl n (fun c => { c with fetchPaused := true }) s
        let mine := s.host.items.filter fun it => decide (it.id.fn = n)
        let s := forEach (mine.filter Item.io) stopOld s
        let s := forEach (rollZones s n) rollbackZone s
        let s := closeZones n s
        let s := if i.flr then flrEnd n s
          else postOld n before
            (forEach (mine.filter fun it => !it.io && decide (it.phase = .fetched)) (fun it => finishBad it.seq stGeneration) s)
        when (decide (i.st = .destroying) && !(i.pend.any fun p => decide (p.opcode = 0x12)))
          (updCtl n (fun c => { c with en := false, rdy := false, closing := false })) s

def execInstanceResetEffect (n : Nat) (s : State) : Host.Outcome State Fault Refusal := act (resetEffect n) s

/-- Operations of an older generation that remain: work items, sensings on dies, programs (R346, R349). -/
def oldWork (s : State) (n : Nat) (i : Inst) : Bool :=
  (s.host.items.any fun it => it.io && decide (it.id.fn = n)) ||
  (s.flash.reads.any fun r => r.flying && i.nsxs.contains r.nsx && (match r.for_ with
    | .host _ => true
    | .merge _ => true
    | .probe => true
    | _ => false)) ||
  (s.media.rowOps.any fun o => o.reloc.isNone && i.nsxs.contains o.nsx && decide (o.frame ≤ i.resetAt) &&
    !o.outstanding.isEmpty)

/-- SCP opcodes of this chapter. -/
def opInstCreate : Nat := 0x10
def opInstDestroy : Nat := 0x11
def opInstReset : Nat := 0x12
def opInstSanitise : Nat := 0x15

/-- Post the final replies of an instance's pending requests with one opcode. -/
def replyPend (n opcode status : Nat) (payload : List Nat) (s : State) : State :=
  match instAt s n with
  | none => s
  | some i =>
    let mine := i.pend.filter fun p => decide (p.opcode = opcode)
    let s := updInstance n (fun i => { i with pend := i.pend.filter fun p => decide (p.opcode ≠ opcode) }) s
    forEach mine (fun p => finalReply p.tag opcode status payload) s

/-- The reset of an instance ends: final replies with the new generation, fetch resumes at the next boundary. -/
def resetEnd (n : Nat) (s : State) : State :=
  match instAt s n, ctlOf s n with
  | some i, some c =>
    let destroys := decide (i.st = .destroying)
    if !hallRuns s ∨ !c.fetchPaused ∨ i.resume ∨ i.resetDue.isSome ∨ oldWork s n i ∨
        (destroys ∧ !(i.pend.any fun p => decide (p.opcode = opInstReset))) then s
    else
      let f := clk s
      let s := updInstance n (fun i => { i with
        resume := !destroys
        resetDue := if destroys then some f else none
        flr := false
        st := if i.st = .resetting then .live else i.st }) s
      replyPend n opInstReset 0 [genOf s n] s
  | _, _ => s

def execInstResetEnd (n : Nat) (s : State) : Host.Outcome State Fault Refusal := act (resetEnd n) s

/-- At a boundary, an instance whose destroy has brought its reset to an end is erased (R352). -/
def startDestroy (n : Nat) (s : State) : State :=
  match instAt s n with
  | none => s
  | some i =>
    if i.st ≠ .destroying ∨ i.wiping ∨ i.resetDue.isSome ∨ i.resume ∨ i.pend.any (fun p => decide (p.opcode = opInstReset)) ∨
        oldWork s n i ∨ s.media.journalReadOnly then s
    else destroyWipe n i s

def startDestroys (s : State) : State := forEach (s.inst.insts.map (·.1)) startDestroy s

/-- At a boundary, instances whose reset has ended fetch again. -/
def resumeFetch (s : State) : State :=
  forEach ((s.inst.insts.filter fun p => p.2.resume).map (·.1)) (fun n s =>
    updCtl n (fun c => { c with fetchPaused := false }) (updInstance n (fun i => { i with resume := false }) s)) s

/-- INST_RESET (R348). -/
def instReset (r : Posted) (s : State) : State :=
  let n := bits (r.pw 0) 10 0
  match instAt s n with
  | none => replyRefused r 0x0102 s
  | some i =>
    if i.st ≠ .live ∧ i.st ≠ .resetting then replyRefused r 0x0103 s
    else
      let c := clk s
      let s := updInstance n (fun i => { i with
        st := .resetting, resetDue := some (i.resetDue.getD c), pend := i.pend ++ [{ tag := r.tag, opcode := opInstReset }] }) s
      replyPending r s

def execInstReset (s : State) : Host.Outcome State Fault Refusal :=
  act (scp opInstReset (Form.plain [1] true [(0, 0xFFFFF800)]) (fun _ => none) instReset) s

/-! ### VF visibility, FLR and link resets (R94, R329) -/

def updPort (p : Pf) (f : Port → Port) (s : State) : State :=
  { s with host := match p with
    | .port0 => { s.host with port0 := f s.host.port0 }
    | .port1 => { s.host with port1 := f s.host.port1 } }

/-- The instances whose VF is visible on a port. -/
def shown (s : State) (p : Pf) : List Nat :=
  (s.inst.insts.map (·.1)).filter fun n => decide (portOf s n = portOf s p.fn) && visible s n

/-- Change a port; each VF that it hides receives an FLR. -/
def changePort (p : Pf) (f : Port → Port) (s : State) : State :=
  let was := shown s p
  let s := updPort p f s
  let still := shown s p
  forEach (was.filter fun n => !still.contains n) flrRequest s

def execVfEnableChange (p : Pf) (enable : Bool) (numVfs : Nat) (s : State) : Host.Outcome State Fault Refusal :=
  act (when (booted s) (changePort p fun q => { q with vfEnable := enable, numVfs := min numVfs q.totalVfs })) s

/-- A Controller Level Reset of a PF: its controller and window are reset and its VFs hidden (R78, R329). -/
def pfReset (p : Pf) (f : Port → Port) (s : State) : State :=
  let s := changePort p (fun q => f { q with vfEnable := false, numVfs := 0 }) s
  windowPfReset p (ctlResetOf p.fn s)

/-- An FLR of a function; in PS3 and PS4 it wakes the device (R432). -/
def flr (fn : Nat) (s : State) : State :=
  if !booted s then s
  else
    let s := if fn = 2048 then pfReset .port0 id s
      else if fn = 2049 then pfReset .port1 id s
      else if visible s fn then flrRequest fn s else s
    wake s

def execFunctionLevelReset (fn : Nat) (s : State) : Host.Outcome State Fault Refusal := act (flr fn) s

/-- PERST# on either port ends the hold after the third failed start, and that after a failed exit, with a cold
start from the crystal wait (R440, R434). -/
def endHold (s : State) : State :=
  when (decide (s.power.boot = .held)) (updPower fun p => { p with boot := .crystal, attempts := 0 }) s

/-- A reset of a port's link: PERST#, hot reset or link down (R94). -/
def linkReset (p : Pf) (perst : Bool) (s : State) : State :=
  let s := when perst endHold s
  if !booted s then updPort p (fun q => { q with link := false }) s
  else wake (pfReset p (fun q => { q with link := false }) s)

def execPortLinkReset (p : Pf) (perst : Bool) (s : State) : Host.Outcome State Fault Refusal :=
  act (linkReset p perst) s

/-- A port's link completes training (R94, R454). -/
def execPcieLinkUp (p : Pf) (s : State) : Host.Outcome State Fault Refusal :=
  act (when (booted s) (updPort p fun q => { q with link := true })) s

end Sys2Proof.Machine
end

