-- ==== Sys2Proof/Machine/Instances.lean ====
section
/-! DEFINITION. The instance requests of SCP and the creation of namespaces (R126 to R133, R175, R322, R333 to
R338, R344, R345, R352 to R355). -/

namespace Sys2Proof.Machine

/-! ### Creating namespaces (R126 to R131, R153, R175) -/

/-- The parameters of a namespace to be created. -/
structure NsReq where
  nsze : Nat
  csi : Nat
  lbaf : Nat
  pit : Nat
  ext : Bool
  pil : Bool
  zexp : Nat
  width : Nat
  secdisc : Bool
deriving DecidableEq, Repr

def NsReq.zoned (q : NsReq) : Bool := decide (q.csi = 2)

/-- Zones of a zoned namespace. -/
def NsReq.zones (q : NsReq) : Nat := if q.zoned then q.nsze / 2 ^ (q.zexp - 12) else 0

/-- Size in bytes. -/
def NsReq.bytes (q : NsReq) : Nat := q.nsze * lbaData q.lbaf

/-- Conventional space it takes. -/
def NsReq.conv (q : NsReq) : Nat := if q.zoned then 0 else q.bytes

/-- Reservation of raw flash (R129). A conventional one that is not whole is rounded down, which the spec leaves open
(DESIGN CHOICE, log 120). -/
def NsReq.resv (q : NsReq) : Nat :=
  if q.zoned then q.zones * 2 ^ q.zexp else q.bytes * q.width * 9 / ((q.width - 1) * 8)

/-- Limits of the fields, but for the format a zoned namespace may take (R127, R128). -/
def NsReq.fieldsOk (q : NsReq) : Bool :=
  decide (0 < q.nsze) && ([8, 16, 32].contains q.width) && decide (q.lbaf ≤ 4) &&
  (if q.csi = 2 then decide (29 ≤ q.zexp ∧ q.zexp ≤ 33) && decide (q.nsze % 2 ^ (q.zexp - 12) = 0)
   else decide (q.csi = 0 ∧ q.zexp = 0))

/-- The class a namespace is bound to: the most free die blocks among those whose normal dies lie on at least
`w` channels, the lowest-numbered on a tie (R175). -/
def classFor (s : State) (w : Nat) : Option Nat :=
  (s.media.classes.foldl (fun (best : Option (Nat × Nat)) p =>
    let ds := classDies s p.1
    let chans := ((ds.filter fun d => !d.2.slow).map fun d => channelOf d.1).eraseDups.length
    let free := (ds.map (freeCount s)).sum
    if chans < w then best
    else match best with
      | none => some (p.1, free)
      | some b => if b.2 < free then some (p.1, free) else best) none).map (·.1)

def zonesHeld (s : State) : Nat := (s.zone.nss.map fun p => p.2.zcount).sum
def convHeld (s : State) : Nat :=
  (s.zone.nss.map fun p => if p.2.zoned then 0 else p.2.nsze * lbaData p.2.lbaf).sum
/-- Reservations held: those of the namespaces, and the groups of a destroyed instance until they are erased
(R129, R352). -/
def resvHeld (s : State) : Nat :=
  (s.zone.nss.map fun p => p.2.resv).sum + (s.media.groups.map fun p =>
    if p.2.owner < 2048 ∧ (nsAt s p.2.nsx).isNone then p.2.width * blockBytes s p.2.cls else 0).sum

/-- Raw capacity that reservations may take: all but the last shelf, the refuge area and the system area. -/
def rawForNs (s : State) : Nat :=
  let raw := (s.media.classes.map fun p => rawBytes s p.1).sum
  let area := (s.media.groups.map fun p => if p.2.area then p.2.width * blockBytes s p.2.cls else 0).sum
  raw - raw * shelfMark / 10000 - area

/-- The first pool code of R334, 5 to 8, that cannot hold the namespaces asked for together. -/
def nsShort (s : State) (qs : List NsReq) : Option Nat :=
  if 8192 < s.zone.nss.length + qs.length then some 5
  else if 4194304 < zonesHeld s + (qs.map NsReq.zones).sum then some 6
  else if 8 * 2 ^ 40 < convHeld s + (qs.map NsReq.conv).sum ∧ (qs.any fun q => !q.zoned) then some 7
  else if (rawForNs s < resvHeld s + (qs.map NsReq.resv).sum ∧ !qs.isEmpty) ∨
      (qs.any fun q => (classFor s q.width).isNone) then some 8
  else none

/-- An NSX that no namespace and no group or landed unit uses. -/
def freeNsx (s : State) : Nat :=
  let used := fun (x : Nat) => (nsAt s x).isSome || s.media.groups.any (fun p => decide (p.2.nsx = x)) ||
    s.media.landing.any (fun e => decide (e.nsx = x)) || inRefuge s x
  ((List.range 8192).find? fun x => !used x).getD 0

/-- First device zone number from which `k` numbers are free. -/
def freeZones (s : State) (k : Nat) : Nat :=
  let ends := 0 :: s.zone.nss.map fun p => p.2.zbase + p.2.zcount
  let free := fun (b : Nat) => s.zone.nss.all fun p =>
    decide (b + k ≤ p.2.zbase) || decide (p.2.zbase + p.2.zcount ≤ b)
  ((sortKey id ends).find? free).getD 0

/-- The page map grows: the cache gives up entries, the least recently used first. -/
def trimCache (s : State) : State := updFlash (fun f => { f with cache := f.cache.take (cacheUnits s) }) s

/-- Create a namespace with an NSID of a function; its NSX. -/
def createNs (owner nsid : Nat) (attached : Bool) (q : NsReq) (s : State) : Nat × State :=
  let x := freeNsx s
  let (r, s) := drawRandom s
  let n : Ns :=
    { owner := owner, nsid := nsid, zoned := q.zoned, lbaf := q.lbaf, pit := q.pit, ext := q.ext, pil := q.pil, width := q.width, zexp := q.zexp,
      secdisc := q.secdisc, nsze := q.nsze, attached := attached, cls := (classFor s q.width).getD 0,
      resv := q.resv, zbase := freeZones s q.zones, zcount := q.zones, salt := BitVec.setWidth 256 r, saltGen := 0,
      fmt := none, hostGroup := [], gcGroup := [], claims := [], shelfGroup := none, blocked := false }
  (x, trimCache (updZone (fun z => { z with nss := tabSet z.nss x n }) s))

/-- Create namespaces with consecutive NSIDs from `nsid`. -/
def createNss (owner : Nat) : Nat → List NsReq → State → List Nat × State
  | _, [], s => ([], s)
  | nsid, q :: t, s =>
    let (x, s) := createNs owner nsid true q s
    let (xs, s) := createNss owner (nsid + 1) t s
    (x :: xs, s)

/-- A namespace ceases to exist. -/
def removeNs (x : Nat) : State → State :=
  updZone fun z => { z with
    nss := tabDel z.nss x
    zones := z.zones.filter fun p => decide (p.2.nsx ≠ x) }

/-! ### Shares (R339, R344) -/

/-- Shares in the words 1 to 9 of R344, given as a function of the word number 0 to 8. -/
def sharesAt (w : Nat → Nat) : Shares :=
  { read := { rate := w 0, cap := w 1 }, write := { rate := w 2, cap := w 3 }, cmd := { rate := w 4, cap := w 5 },
    die := { rate := w 6, cap := w 7 }, weight := w 8 % 65536 }

/-- First of the nine words at fault: a cap below its rate, a reserved bit, WEIGHT = 0. -/
def sharesFault (w : Nat → Nat) : Option Nat :=
  if w 1 < w 0 then some 1
  else if w 3 < w 2 then some 3
  else if w 5 < w 4 then some 5
  else if w 7 < w 6 then some 7
  else if w 8 % 65536 = 0 ∨ 65536 ≤ w 8 then some 8
  else none

def shareWords (h : Shares) : List Nat :=
  [h.read.rate, h.read.cap, h.write.rate, h.write.cap, h.cmd.rate, h.cmd.cap, h.die.rate, h.die.cap, h.weight]

/-- Dies in use. -/
def diesInUse (s : State) : Nat := (s.flash.dies.filter fun p => p.2.inUse).length

def poolOf (s : State) : Kind → Nat
  | .read => 110000000
  | .write => 110000000
  | .cmd => 25000000
  | .die => 600 * diesInUse s

/-- The rate a holder will have: that of its last change still waiting, else that in force. -/
def rateAhead (s : State) (fn : Nat) (k : Kind) : Nat :=
  match (s.inst.sharesDue.filter fun d => decide (d.holder = fn)).getLast? with
  | some d => (d.shares.get k).rate
  | none => ((sharesOf s fn).get k).rate

/-- Sum of the rates of all holders but one. -/
def ratesBeside (s : State) (fn : Nat) (k : Kind) : Nat :=
  (((s.inst.shares.map (·.1) ++ s.inst.sharesDue.map (·.holder)).eraseDups.filter fun h => decide (h ≠ fn)).map
    fun h => rateAhead s h k).sum

/-- The lowest rate pool, by its code 0x0009 to 0x000C, that a holder's new shares overdraw. -/
def rateShort (s : State) (fn : Nat) (h : Shares) : Option Nat :=
  ([(Kind.read, 9), (Kind.write, 10), (Kind.cmd, 11), (Kind.die, 12)].find? fun p =>
    decide (poolOf s p.1 < ratesBeside s fn p.1 + (h.get p.1).rate)).map (·.2)

def opInstShareSet : Nat := 0x13
def opInstQuery : Nat := 0x14

/-- INST_SHARE_SET (R344, R345). -/
def shareSet (r : Posted) (s : State) : State :=
  let n := bits (r.pw 0) 11 0
  let h := sharesAt fun i => r.pw (i + 1)
  let go := fun (s : State) =>
    match rateShort s n h with
    | some p => replyNoResource r p s
    | none => replyOk r [] (updInst (fun i => { i with sharesDue := i.sharesDue ++ [{ holder := n, shares := h }] }) s)
  if 2048 ≤ n then go s
  else match instAt s n with
    | none => replyRefused r 0x0102 s
    | some i => if i.st = .destroying ∨ i.st = .creating then replyRefused r 0x0103 s else go s

def shareFault (r : Posted) : Option Nat :=
  if 2049 < bits (r.pw 0) 11 0 then some 1
  else (sharesFault fun i => r.pw (i + 1)).map (· + 2)

def execInstShareSet (s : State) : Host.Outcome State Fault Refusal :=
  act (scp opInstShareSet (Form.plain [10] true [(0, 0xFFFFF000), (9, 0xFFFF0000)]) shareFault shareSet) s

/-- The limit of a bucket (R340): 64 frames of its rate, or the largest single charge of the holder. -/
def largestCharge (s : State) (fn : Nat) : Kind → Nat
  | .read => 2 ^ 21 * tokenUnit
  | .write => 2 ^ 21 * tokenUnit
  | .cmd => tokenUnit
  | .die => ((nssOf s fn).map fun p =>
      match classAt s p.2.cls with
      | some k => p.2.width * k.tProg * dieFrame
      | none => 0).foldl max 0

def bucketLimit (s : State) (fn : Nat) (k : Kind) : Nat :=
  max (64 * perFrame k ((sharesOf s fn).get k).rate) (largestCharge s fn k)

/-- Contents of a bucket above its limit pass to surplus. -/
def spill (fn : Nat) (k : Kind) (s : State) : State :=
  let b := (bucketsOf s fn).get k
  let l : Int := bucketLimit s fn k
  if b ≤ l then s
  else
    updInst (fun i => { i with surplus := i.surplus.add k (b - l) })
      (setBuckets fn ((bucketsOf s fn).put k l) s)

/-- Accepted share changes apply in acceptance order (R345); those of an instance that is being created wait for the
boundary at which it becomes LIVE (R338). -/
def applyShares (s : State) : State :=
  let waits := fun (d : ShareDue) => match instAt s d.holder with
    | some i => decide (i.st = .creating) && !i.liveDue
    | none => false
  let due := s.inst.sharesDue.filter fun d => !waits d
  let s := updInst (fun i => { i with sharesDue := i.sharesDue.filter waits }) s
  forEach due (fun d s =>
    let s := updInst (fun i => { i with shares := tabSet i.shares d.holder d.shares }) s
    forEach [Kind.read, Kind.write, Kind.cmd, Kind.die] (spill d.holder) s) s

/-! ### Key slots (R322, R338) -/

/-- The lowest-numbered empty key slot. -/
def freeSlot (s : State) : Option Nat :=
  (List.range 4096).find? fun k => (tabGet s.prot.slots k).isNone

/-- A slot is assigned to an owner: filled from the TRNG unless a key is injected in it. -/
def assignSlot (k owner : Nat) (s : State) : State :=
  match tabGet s.prot.slots k with
  | some x => { s with prot := { s.prot with slots := tabSet s.prot.slots k { x with owner := some owner } } }
  | none =>
    let (r, s) := drawRandom s
    { s with prot := { s.prot with slots := tabSet s.prot.slots k { key := r, st := .device, owner := some owner } } }

def emptySlot (k : Nat) (s : State) : State := { s with prot := { s.prot with slots := tabDel s.prot.slots k } }

/-! ### INST_CREATE (R336 to R338) -/

/-- The first byte offset of a list of checks at fault. -/
def firstFault : List (Nat × Bool) → Option Nat
  | [] => none
  | (off, bad) :: t => if bad then some off else firstFault t

/-- Reserved bytes that are not zero. -/
def rsvdBytes (b : List Byte) (off n : Nat) : List (Nat × Bool) :=
  (List.range n).map fun i => (off + i, decide (byteAt b (off + i) ≠ 0))

def entryReq (b : List Byte) (o : Nat) : NsReq :=
  { nsze := fieldAt b o 8, csi := byteAt b (o + 8), lbaf := byteAt b (o + 9), pit := 0, ext := false, pil := false, zexp := byteAt b (o + 10),
    width := byteAt b (o + 11), secdisc := bitOf (byteAt b (o + 12)) 0 }

/-- The checks of a namespace entry at offset `o`, in ascending byte order (R337). -/
def entryChecks (b : List Byte) (o : Nat) : List (Nat × Bool) :=
  let q := entryReq b o
  let z := q.zoned
  [(o, decide (q.nsze = 0) || (z && decide (29 ≤ q.zexp ∧ q.zexp ≤ 33) && decide (q.nsze % 2 ^ (q.zexp - 12) ≠ 0))),
   (o + 8, decide (q.csi ≠ 0) && !z),
   (o + 9, decide (4 < q.lbaf) || (z && decide (2 < q.lbaf))),
   (o + 10, if z then !decide (29 ≤ q.zexp ∧ q.zexp ≤ 33) else decide (q.zexp ≠ 0)),
   (o + 11, !([8, 16, 32].contains q.width)),
   (o + 12, decide (1 < byteAt b (o + 12)))] ++ rsvdBytes b (o + 13) 3

/-- The creation block's checks in ascending byte order (R336). -/
def createChecks (b : List Byte) : List (Nat × Bool) :=
  let k := byteAt b 8
  let zoned := (List.range (min k 16)).any fun i => byteAt b (128 + 16 * i + 8) = 2
  let q := fieldAt b 2 2
  let m := fieldAt b 4 2
  let a := fieldAt b 6 2
  let slot := fieldAt b 12 2
  let src := byteAt b 11
  let e := byteAt b 14
  [(0, decide (2047 < fieldAt b 0 2)), (2, decide (q = 0 ∨ 4096 < q)), (4, decide (m = 0 ∨ 256 < m)),
   (6, decide (4096 < a) || (zoned && decide (a = 0))), (8, decide (16 < k)), (9, decide (1 < byteAt b 9)),
   (10, decide (2 < byteAt b 10)), (11, decide (1 < src)),
   (12, if src = 0 then decide (slot ≠ 0) else decide (4095 < slot)),
   (14, decide (e ≠ 0) && !decide (16 ≤ e ∧ e ≤ 26))] ++ rsvdBytes b 15 17 ++
  (match sharesFault fun i => fieldAt b (32 + 4 * i) 4 with
   | some w => [(32 + 4 * w, true)]
   | none => []) ++
  rsvdBytes b 68 60 ++
  ((List.range (min k 16)).map fun i => entryChecks b (128 + 16 * i)).flatten ++
  rsvdBytes b (128 + 16 * min k 16) (512 - (128 + 16 * min k 16))

/-- I/O queue pairs, vectors or active zones taken: by the instances that are not FREE, and by each PF the larger
of its allocation in force and `due`, its committed one (R416). -/
def taken (s : State) (i : Inst → Nat) (c : Ctl → Nat) (due : Nat → Nat) : Nat :=
  (s.inst.insts.map fun p => i p.2).sum +
  ((s.host.ctls.filter fun p => decide (2048 ≤ p.1)).map fun p => max (c p.2) (due p.1)).sum

/-- The lowest pool code that cannot meet the block (R338 step 3). -/
def createShort (s : State) (b : List Byte) (qs : List NsReq) : Option Nat :=
  if 65536 < taken s (·.qpairs) (·.qpairs) (pfQp (newestCfg s)) + fieldAt b 2 2 then some 1
  else if 32768 < taken s (·.msix) (·.msix) (fun _ => 0) + fieldAt b 4 2 then some 2
  else if 65536 < taken s (·.azones) (·.azones) (pfAz (newestCfg s)) + fieldAt b 6 2 then some 3
  else if byteAt b 11 = 0 ∧ (freeSlot s).isNone then some 4
  else (nsShort s qs).or (rateShort s (fieldAt b 0 2) (sharesAt fun i => fieldAt b (32 + 4 * i) 4))

/-- The isolation table and the state (R338 step 2). -/
def createRefused (s : State) (b : List Byte) : Option Nat :=
  let n := fieldAt b 0 2
  let iso := isoOf s n
  let injected := decide (byteAt b 11 = 1)
  let slotOk := match tabGet s.prot.slots (fieldAt b 12 2) with
    | some k => decide (k.st = .injected) && decide (k.owner = some n)
    | none => false
  if (instAt s n).isSome then some 0x0101
  else if !iso.admitNew then some 0x0100
  else if (iso.keyMode ∧ !injected) ∨ (injected ∧ !slotOk) then some 0x0104
  else if byteAt b 10 < iso.sanFloor then some 0x0105
  else if sanitizing s then some 0x0106
  else none

/-- The device creates the instance: slot, namespaces, generation. -/
def createInst (b : List Byte) (qs : List NsReq) (tag : Nat) (s : State) : State :=
  let n := fieldAt b 0 2
  let slot := if byteAt b 11 = 1 then fieldAt b 12 2 else (freeSlot s).getD 0
  let s := assignSlot slot n s
  let s := updInst (fun t => { t with
    gens := tabSet t.gens n ((tabGetD t.gens n 0 + 1) % 256)
    sharesDue := t.sharesDue ++ [{ holder := n, shares := sharesAt fun i => fieldAt b (32 + 4 * i) 4 }] }) s
  let i : Inst :=
    { st := .creating, qpairs := fieldAt b 2 2, msix := fieldAt b 4 2, azones := fieldAt b 6 2, nsCount := byteAt b 8,
      guard32 := decide (byteAt b 9 = 1), policy := byteAt b 10, injected := decide (byteAt b 11 = 1), slot := slot,
      lifeE := if byteAt b 14 = 0 then 22 else byteAt b 14, created := now s, resets := 0, nsxs := [],
      pend := [{ tag := tag, opcode := opInstCreate }], resetDue := none, flr := false, resetAt := 0, resume := false,
      liveDue := false, sanDue := none, sanBlock := false, wiping := false, total := 0 }
  let s := updInst (fun t => { t with insts := tabSet t.insts n i }) s
  let (xs, s) := createNss n 1 qs s
  updInstance n (fun i => { i with nsxs := xs }) s

/-- INST_CREATE with its creation block. -/
def instCreate (r : Posted) (b : List Byte) (s : State) : State :=
  match firstFault (createChecks b) with
  | some off => replyInvalid r (5 + off / 4) s
  | none =>
    let qs := (List.range (byteAt b 8)).map fun i => entryReq b (128 + 16 * i)
    match createRefused s b with
    | some reason => replyRefused r reason s
    | none =>
      match createShort s b qs with
      | some p => replyNoResource r p s
      | none =>
        if !s.prot.trngOk ∧ (byteAt b 11 = 0 ∨ !qs.isEmpty) then replyBusy r s
        else createInst b qs r.tag (replyPending r s)

def execInstCreate (dma : Dma) (s : State) : Host.Outcome State Fault Refusal :=
  act (scp opInstCreate { lens := [4], desc := some (false, [512]), mgr := true } (fun _ => none)
    (fun r => descRead r dma (instCreate r))) s

/-- The words 1 to 8 of the final reply: the NSX of each namespace, 0xFFFF where there is none. -/
def nsxWords (l : List Nat) : List Nat :=
  (List.range 8).map fun j => l.getD (2 * j) 0xFFFF + 2 ^ 16 * l.getD (2 * j + 1) 0xFFFF

/-- Creation ends: the final reply; the instance is LIVE from the next boundary. -/
def createDone (n : Nat) (s : State) : State :=
  match instAt s n with
  | none => s
  | some i =>
    if i.st ≠ .creating ∨ i.liveDue ∨ !hallRuns s then s
    else replyPend n opInstCreate 0 (i.slot :: nsxWords i.nsxs) (updInstance n (fun i => { i with liveDue := true }) s)

def execInstCreateDone (n : Nat) (s : State) : Host.Outcome State Fault Refusal := act (createDone n) s

/-- The metering of a new holder; one that is created in the minute of its predecessor's end goes on in the
same minute's record. -/
def holderNew (old : Option Holder) : Holder :=
  match old with
  | some h => { h with flags := { h.flags with created := true }, total := meterZero, waited := false, window := [] }
  | none => { holderFresh with flags := { mflagsZero with created := true } }

/-- At a boundary, an instance whose creation has ended becomes LIVE: its controller appears, disabled, its
buckets are empty, its metering begins. -/
def goLive (n : Nat) (s : State) : State :=
  match instAt s n with
  | none => s
  | some i =>
    if !i.liveDue then s
    else
      let s := updInstance n (fun i => { i with st := .live, liveDue := false, created := now s }) s
      let c := clearCtl s i.lifeE (Machine.ctlReset i.qpairs i.msix i.azones i.guard32 i.lifeE)
      let s := { s with host := { s.host with ctls := tabSet s.host.ctls n { c with closing := false } } }
      let s := updInst (fun t => { t with
        buckets := tabSet t.buckets n Buckets.reset
        holders := tabSet t.holders n (holderNew (tabGet t.holders n)) }) s
      updMedia (fun m => { m with amps := tabSet m.amps n ampZero }) s

def goLives (s : State) : State := forEach (s.inst.insts.map (·.1)) goLive s

/-! ### INST_DESTROY (R352, R353) -/

/-- A sanitise of the instance is requested or runs. -/
def Inst.sanitises (i : Inst) : Bool := decide (i.st = .sanitising) || i.sanDue.isSome

def instDestroy (r : Posted) (s : State) : State :=
  let n := bits (r.pw 0) 10 0
  match instAt s n with
  | none => replyRefused r 0x0102 s
  | some i =>
    if i.st = .destroying ∨ i.st = .creating ∨ i.sanitises then replyRefused r 0x0103 s
    else
      let c := clk s
      let again := decide (i.st = .resetting)
      let s := updInstance n (fun i => { i with
        st := .destroying
        resetDue := if again then i.resetDue else some (i.resetDue.getD c)
        pend := i.pend ++ [{ tag := r.tag, opcode := opInstDestroy }] }) s
      replyPending r s

def execInstDestroy (s : State) : Host.Outcome State Fault Refusal :=
  act (scp opInstDestroy (Form.plain [1] true [(0, 0xFFFFF800)]) (fun _ => none) instDestroy) s

/-- The destroy of an instance ends: its resources return and its number is FREE. -/
def destroyDone (n : Nat) (s : State) : State :=
  match instAt s n with
  | some i =>
    let k := policyKind (policyNow s n i)
    let pol := policyNow s n i
    if !hallRuns s ∨ !i.wiping ∨ !(i.nsxs.all fun x => wipeDone s k x) ∨ (0 < pol ∧ !s.media.keyStale.isEmpty) then s
    else
      let s := forEach i.nsxs removeNs s
      let s := when (decide (pol = 0)) rewrapKeys (emptySlot i.slot s)
      let s := updItems (fun l => l.filter fun it => decide (it.id.fn ≠ n)) s
      let s := replyPend n opInstDestroy 0 [] s
      let s := updInst (fun t => { t with
        insts := tabDel t.insts n
        shares := tabDel t.shares n
        sharesDue := t.sharesDue.filter fun d => decide (d.holder ≠ n)
        buckets := tabDel t.buckets n
        holders := tabUpd t.holders n fun h => { h with flags := { h.flags with destroyed := true } } }) s
      let s := updMedia (fun m => { m with amps := tabDel m.amps n }) s
      { s with host := { s.host with ctls := tabDel s.host.ctls n } }
  | none => s

def execInstDestroyDone (n : Nat) (s : State) : Host.Outcome State Fault Refusal := act (destroyDone n) s

/-! ### INST_SANITISE (R354) -/

def instSanitise (r : Posted) (s : State) : State :=
  let n := bits (r.pw 0) 10 0
  let block := decide (bits (r.pw 0) 12 11 = 1)
  match instAt s n with
  | none => replyRefused r 0x0102 s
  | some i =>
    if i.st ≠ .live ∨ i.sanitises then replyRefused r 0x0103 s
    else if sanitizing s then replyRefused r 0x0106 s
    else if (nssOf s n).any fun p => p.2.fmt.isSome then replyRefused r 0x0107 s
    else if !block ∧ !s.prot.trngOk then replyBusy r s
    else
      let c := clk s
      replyPending r (updInstance n (fun i => { i with
        sanDue := some c, sanBlock := block, pend := i.pend ++ [{ tag := r.tag, opcode := opInstSanitise }] }) s)

def sanitiseFault (r : Posted) : Option Nat :=
  if bits (r.pw 0) 12 11 = 0 ∨ bits (r.pw 0) 12 11 = 3 then some 1 else none

def execInstSanitise (s : State) : Host.Outcome State Fault Refusal :=
  act (scp opInstSanitise (Form.plain [1] true [(0, 0xFFFFE000)]) sanitiseFault instSanitise) s

def sanKind (i : Inst) : EraseKind := if i.sanBlock then .block else .crypto

/-- The sanitise starts: each namespace takes a progress record; the commands fetched before it finish
first. -/
def sanitiseStart (n : Nat) (s : State) : State :=
  match instAt s n with
  | none => s
  | some i =>
    match i.sanDue with
    | none => s
    | some f =>
      if !hallRuns s ∨ clk s ≤ f ∨ i.st ≠ .live ∨ wipeWaits s (sanKind i) then s
      else
        let c := clk s
        let left := (i.nsxs.map fun x => wipeLeft s i.sanBlock x).sum
        let s := updInstance n (fun i => { i with st := .sanitising, sanDue := none, total := left }) s
        let s := when (!i.sanBlock && i.nsxs.isEmpty) (fun s => renewSlot i.slot (rewrapKeys s)) s
        forEach i.nsxs (fun x s => updNs x (fun m => { m with
          fmt := some { kind := sanKind i, lbaf := m.lbaf, pit := m.pit, ext := m.ext, pil := m.pil, started := false, startFrame := c - 1,
                        total := wipeLeft s i.sanBlock x } }) s) s

def execInstSanitiseStart (n : Nat) (s : State) : Host.Outcome State Fault Refusal := act (sanitiseStart n) s

/-- The sanitise ends: every namespace is wiped, the final reply is posted, the instance is LIVE. -/
def sanitiseDone (n : Nat) (s : State) : State :=
  match instAt s n with
  | none => s
  | some i =>
    let ready := i.nsxs.all fun x =>
      wipeDone s (sanKind i) x &&
      match nsAt s x with
      | some m => (match m.fmt with
        | some p => p.started
        | none => true)
      | none => true
    if !hallRuns s ∨ i.st ≠ .sanitising ∨ !ready ∨ (!i.sanBlock ∧ !s.media.keyStale.isEmpty) then s
    else
      let s := forEach i.nsxs (fun x => updNs x fun m => { m with fmt := none }) s
      replyPend n opInstSanitise 0 [] (updInstance n (fun i => { i with st := .live }) s)

def execInstSanitiseDone (n : Nat) (s : State) : Host.Outcome State Fault Refusal := act (sanitiseDone n) s

/-! ### INST_QUERY (R355) -/

/-- STATE of QTYPE 0; a number whose creation runs is not LIVE yet. -/
def IState.code : IState → Nat
  | .creating => 0
  | .live => 1
  | .resetting => 2
  | .sanitising => 3
  | .destroying => 4

/-- Percentage remaining of a running sanitise or destroy (R161). -/
def instLeft (s : State) (n : Nat) (i : Inst) : Nat :=
  let block := match i.st with
    | .sanitising => i.sanBlock
    | .destroying => decide (policyNow s n i = 2)
    | _ => false
  if i.st = .sanitising ∨ i.st = .destroying then
    percentLeft i.total (i.nsxs.map fun x => wipeLeft s block x).sum
  else 0

def queryInst (s : State) (n : Nat) : List Nat :=
  match instAt s n with
  | none => List.replicate 11 0
  | some i =>
    [i.st.code + genOf s n * 2 ^ 8 + portOf s n * 2 ^ 16 + (vfIndex s n + 1) * 2 ^ 17,
     i.qpairs + i.msix * 2 ^ 16, i.azones + activeZones s n * 2 ^ 16,
     i.nsCount + flag i.guard32 (2 ^ 8) + policyNow s n i * 2 ^ 9 + flag i.injected (2 ^ 11) + i.slot * 2 ^ 12 +
       (match ctlOf s n with
        | some c => c.feats.lifeE
        | none => i.lifeE) * 2 ^ 24,
     i.resets, i.created % 2 ^ 32, i.created / 2 ^ 32, instLeft s n i, 0, 0, 0]

def queryShares (s : State) (n : Nat) : List Nat :=
  if n < 2048 ∧ (instAt s n).isNone then List.replicate 11 0
  else
    let (within, throttled) := match tabGet s.inst.holders n with
      | some h => (h.within, h.live.throttled)
      | none => (false, 0)
    shareWords (sharesOf s n) ++ [flag within 1, sat32 throttled]

def instQuery (r : Posted) (s : State) : State :=
  let n := bits (r.pw 0) 11 0
  replyOk r (if bits (r.pw 0) 15 12 = 0 then queryInst s n else queryShares s n) s

def queryFault (r : Posted) : Option Nat :=
  let n := bits (r.pw 0) 11 0
  let q := bits (r.pw 0) 15 12
  if 2049 < n ∨ 1 < q ∨ (q = 0 ∧ 2048 ≤ n) then some 1 else none

def execInstQuery (s : State) : Host.Outcome State Fault Refusal :=
  act (scp opInstQuery (Form.plain [1] true [(0, 0xFFFF0000)]) queryFault instQuery) s

end Sys2Proof.Machine
end

