-- ==== Sys2Proof/Machine/Metering.lean ====
section
/-! DEFINITION. Metering: the samples of a frame, the records of a minute, the ring and METER_READ (R47, R51,
R356 to R362). -/

namespace Sys2Proof.Machine

/-! ### The frame's samples (R47 step 2, R343) -/

/-- Charges of the window stay within 64 frames of the rates times the state factor `f` of R423, DIE within the
refills granted. -/
def withinShares (h : Shares) (f : Nat) (w : List (Nat × Nat × Nat × Nat × Nat)) : Bool :=
  decide (20 * (w.map fun x => x.1).sum ≤ 64 * f * perFrame .read h.read.rate) &&
  decide (20 * (w.map fun x => x.2.1).sum ≤ 64 * f * perFrame .write h.write.rate) &&
  decide (20 * (w.map fun x => x.2.2.1).sum ≤ 64 * f * perFrame .cmd h.cmd.rate) &&
  decide ((w.map fun x => x.2.2.2.1).sum ≤ (w.map fun x => x.2.2.2.2).sum)

/-- The metered holders whose counters run: the instances whose creation has ended, and the PFs. -/
def meteredNow (s : State) (fn : Nat) : Bool :=
  decide (2048 ≤ fn) || (match instAt s fn with
    | some i => decide (i.st ≠ .creating)
    | none => false)

/-- A holder's samples of the frame that has just ended. -/
def sampleHolder (s : State) (fn : Nat) (h : Holder) : Holder :=
  if meteredNow s fn then
    let w := flag h.waited 1
    let z := activeZones s fn
    let f := fun (m : Meter) => { m with zoneFrames := m.zoneFrames + z, throttled := m.throttled + w }
    let within := withinShares (sharesOf s fn) (psFactor s) h.window
    let window := ((0, 0, 0, 0, 0) :: h.window).take 64
    { h with live := f h.live, total := f h.total, waited := false, within := within, window := window }
  else h

def meterSample (s : State) : State :=
  updInst (fun i => { i with holders := tabMap (sampleHolder s) i.holders }) s

/-- The counters as the boundary leaves them: what METER_READ and log 0xC0 show in the frame (R362, R363). -/
def noteMeters : State → State := updInst fun i => { i with holders := tabMap (fun _ h => { h with seen := h.live }) i.holders }

/-- `k` frames passed in PS3 or PS4: the zones held at entry count on, and the minute carries PS (R358). -/
def meterPassed (k : Nat) (s : State) : State :=
  updInst (fun i => { i with holders := tabMap (fun fn h =>
    let z := activeZones s fn * k
    let f := fun (m : Meter) => { m with zoneFrames := m.zoneFrames + z }
    { h with live := f h.live, total := f h.total, flags := { h.flags with ps := true } }) i.holders }) s

/-! ### The records of a minute (R357, R358, R360) -/

def framesPerMinute : Nat := 30000000

/-- Number of the minute in progress. -/
def minuteNow (s : State) : Nat := s.inst.minuteFrom / framesPerMinute

def MFlags.or (a b : MFlags) : MFlags :=
  { created := a.created || b.created, destroyed := a.destroyed || b.destroyed, step := a.step || b.step,
    power := a.power || b.power, ps := a.ps || b.ps }

def Meter.plus (a b : Meter) : Meter :=
  { bytesRead := a.bytesRead + b.bytesRead, bytesWritten := a.bytesWritten + b.bytesWritten,
    commands := a.commands + b.commands, dieTime := a.dieTime + b.dieTime,
    zoneFrames := a.zoneFrames + b.zoneFrames, throttled := a.throttled + b.throttled }

/-- The older record folded into the next one. -/
def foldRec (a b : MRec) : MRec :=
  { b with minute := a.minute, span := a.span + b.span, flags := a.flags.or b.flags, m := a.m.plus b.m }

/-- Fold the oldest record into the next whose spans together are at most 64. -/
def foldOldest : List MRec → List MRec
  | a :: b :: t => if a.span + b.span ≤ 64 then foldRec a b :: t else a :: foldOldest (b :: t)
  | l => l

/-- Hold a record; with 64 held already the oldest is folded. -/
def holdRec (l : List MRec) (r : MRec) : List MRec := if l.length < 64 then l ++ [r] else foldOldest l ++ [r]

/-- The record of a holder for minute `m`. -/
def meterRec (s : State) (fn m : Nat) (extra : MFlags) (h : Holder) : MRec :=
  { inst := fn, gen := genOf s fn, flags := h.flags.or extra, span := 1, boot := s.inst.boots % 65536, minute := m,
    m := h.live }

/-- A holder at the freeze: its record is held and its counters start at zero. -/
def freezeHolder (s : State) (m : Nat) (extra : MFlags) (fn : Nat) (h : Holder) : Holder :=
  let r := meterRec s fn m extra h
  { h with live := meterZero, seen := meterZero, flags := mflagsZero, held := holdRec h.held r, last := some r }

/-- Per-minute counts of the placement engine and of back-stair reads restart (R193, R196). -/
def Amp.freeze (a : Amp) : Amp :=
  { a with
    lastHost := a.hostMin, lastProg := a.progMin, lastPad := a.padMin, lastCont := a.contMin, hostMin := 0,
    progMin := 0, padMin := 0, contMin := 0 }

def freezePlacement (s : State) : State :=
  let s := updMedia (fun m => { m with amps := tabMap (fun _ a => a.freeze) m.amps }) s
  updFlash (fun f => { f with dies := tabMap (fun _ d => { d with lastBackMin := d.backMin, backMin := 0 }) f.dies }) s

/-- NOTICE_4 takes the frame slips of the minute that has ended (R83). -/
def freezeSlips (s : State) : State :=
  let s := updFrame (fun f => { f with lastMinuteSlips := f.minuteSlips, minuteSlips := 0 }) s
  boardWrite 4 (sat32 s.frame.lastMinuteSlips) s

/-- Learned ages that have changed are committed (R179). -/
def commitAges : State → State :=
  updMedia fun m =>
    let a := m.ages.map fun e => { e with age := { e.age with changed := false } }
    { m with ages := a, agesSaved := a }

/-- Freeze the minute in progress and begin the one that frame `at_` lies in. A holder that was neither LIVE nor
DESTROYING in it produces nothing. -/
def freezeMinute (extra : MFlags) (at_ : Nat) (s : State) : State :=
  let m := minuteNow s
  let f := fun (fn : Nat) (h : Holder) =>
    if meteredNow s fn ∨ h.flags.destroyed then freezeHolder s m extra fn h else h
  let s := updInst (fun i => { i with holders := tabMap f i.holders, minuteFrom := at_, batchDue := true }) s
  commitAges (freezeSlips (freezePlacement s))

/-- Holders whose instance is gone leave the table once their records are delivered. -/
def dropGone (s : State) : State :=
  let keep := fun (p : Nat × Holder) => meteredNow s p.1 || !p.2.held.isEmpty || p.2.flags.destroyed
  updInst (fun i => { i with holders := i.holders.filter keep }) s

/-- The minute in progress ends when the counter has reached a multiple of 30,000,000 beyond it; `cut` says that
a forward step cuts it short (R51). -/
def minuteEnd (cut : Bool) (s : State) : State :=
  if now s / framesPerMinute = minuteNow s then s
  else freezeMinute { mflagsZero with step := cut } (now s / framesPerMinute * framesPerMinute) s

/-- The minutes that passed in PS3 or PS4, in frame order: `rem` frames from frame `at_` (R43, R358). -/
def passMinutes : Nat → Nat → Nat → State → State
  | 0, _, _, s => s
  | n + 1, at_, rem, s =>
    let k := min rem (framesPerMinute - at_ % framesPerMinute)
    let s := meterPassed k s
    if k = framesPerMinute - at_ % framesPerMinute then passMinutes n (at_ + k) (rem - k) (freezeMinute mflagsZero (at_ + k) s)
    else s

/-- The boundary's own minute work, for a boundary that the frame pulse has not processed. -/
def execMinuteBoundary (s : State) : Host.Outcome State Fault Refusal :=
  act (when (ctrlRuns s) (minuteEnd false)) s

/-! ### The ring (R358 to R360) -/

def mflagBits (f : MFlags) : Nat :=
  flag f.created 1 + flag f.destroyed 2 + flag f.step 4 + flag f.power 8 + flag f.ps 16

/-- A metering record of 64 bytes, its CRC over the first 60. -/
def mrecBody (r : MRec) : List Byte :=
  le r.inst 2 ++ le r.gen 1 ++ le (mflagBits r.flags) 1 ++ le r.span 2 ++ le r.boot 2 ++ le r.minute 8 ++
  le r.m.bytesRead 8 ++ le r.m.bytesWritten 8 ++ le r.m.commands 8 ++ le (sat32 r.m.throttled) 4 ++ le r.m.dieTime 8 ++
  le r.m.zoneFrames 8

def mrecBytes (r : MRec) : List Byte := mrecBody r ++ bvBytes (crc32c (mrecBody r))

/-- Minute after the last one a record covers: records of one batch agree in it. -/
def MRec.upto (r : MRec) : Nat := r.minute + r.span

/-- The batch held longest: the oldest records of every holder that end with the same minute. -/
def nextBatch (s : State) : List MRec :=
  let heads := s.inst.holders.filterMap fun p => p.2.held.head?
  match heads.map fun r => r.boot * 2 ^ 64 + r.upto with
  | [] => []
  | k :: t =>
    let low := t.foldl min k
    heads.filter fun r => decide (r.boot * 2 ^ 64 + r.upto = low)

/-- Write the records of a batch and then PROD; NOTICE_6 takes its minute. -/
def writeBatch (g : Ring) (b : List MRec) (s : State) : State :=
  let es := ((List.range b.length).zip b).map fun p =>
    Emission.hostWrite g.pf (g.base + (g.prod + p.1) % 2 ^ g.log2 * 64) (mrecBytes p.2)
  let prod := g.prod + b.length
  let s := sends (es ++ [.hostWrite g.pf g.ctl (le prod 8)]) s
  let s := updInst (fun i => { i with
    ring := some { g with prod := prod }
    holders := tabMap (fun fn h => if b.any fun r => decide (r.inst = fn) then { h with held := h.held.tail } else h) i.holders }) s
  boardWrite 6 ((b.map fun r => r.upto - 1).foldl max 0 % 2 ^ 32) s

/-- Write held batches, oldest first, while the ring has room for a whole one. -/
def writeBatches (cons : Nat) : Nat → State → State
  | 0, s => s
  | n + 1, s =>
    match s.inst.ring, nextBatch s with
    | some g, b :: t =>
      if 2 ^ g.log2 < g.prod - cons + (b :: t).length then s else writeBatches cons n (writeBatch g (b :: t) s)
    | _, _ => s

/-- The setting PF's link is up. -/
def ringLink (s : State) (g : Ring) : Bool := (portRec s (portOf s g.pf)).link

/-- An attempt to write the held batches; a failed DMA is counted (R360). -/
def tryBatches (cons : Nat) (dmaOk : Bool) (s : State) : State :=
  match s.inst.ring with
  | none => s
  | some g =>
    if !g.enable ∨ !ringLink s g ∨ (nextBatch s).isEmpty then s
    else if dmaOk then dropGone (writeBatches cons 128 s)
    else recEvent 0x16 s

/-- The batch of a minute is written after the minute's end. -/
def batchWrite (cons : Nat) (dmaOk : Bool) (s : State) : State :=
  if !hallRuns s ∨ !s.inst.batchDue then s
  else
    let c := clk s
    tryBatches cons dmaOk (updInst (fun i => { i with batchDue := false, lastTry := c }) s)

def execMeterBatchWrite (cons : Nat) (dmaOk : Bool) (s : State) : Host.Outcome State Fault Refusal :=
  act (batchWrite cons dmaOk) s

/-- A held batch is tried again 50,000 frames after the last attempt. -/
def meterRetry (cons : Nat) (dmaOk : Bool) (s : State) : State :=
  if !hallRuns s ∨ clk s < s.inst.lastTry + 50000 then s
  else
    let c := clk s
    tryBatches cons dmaOk (updInst (fun i => { i with batchDue := false, lastTry := c }) s)

def execMeterRetry (cons : Nat) (dmaOk : Bool) (s : State) : Host.Outcome State Fault Refusal :=
  act (meterRetry cons dmaOk) s

/-! ### METER_RING_SET and METER_READ (R359, R362) -/

def ringFault (r : Posted) : Option Nat :=
  if r.pw 0 % 4096 ≠ 0 then some 1
  else if r.pw 2 < 12 ∨ 24 < r.pw 2 then some 3
  else if r.pw 3 % 64 ≠ 0 then some 4
  else none

/-- The ring is set; PROD starts again at 0. -/
def ringSet (r : Posted) (s : State) : State :=
  let g : Ring := { pf := agentFn r.agent, base := r.pw64 0, log2 := r.pw 2, ctl := r.pw64 3,
                    enable := decide (r.pw 5 = 1), prod := 0 }
  replyOk r [] (updInst (fun i => { i with ring := some g }) s)

def execMeterRingSet (s : State) : Host.Outcome State Fault Refusal :=
  act (scp 0x40 (Form.plain [6] true [(2, 0xFFFFFFE0), (5, 0xFFFFFFFE)]) ringFault ringSet) s

def lo32 (n : Nat) : Nat := n % 2 ^ 32
def hi32 (n : Nat) : Nat := n / 2 ^ 32 % 2 ^ 32

/-- The counters of the minute in progress. -/
def meterWords (s : State) (fn : Nat) (h : Holder) : List Nat :=
  let m := h.seen
  [fn + genOf s fn * 2 ^ 16 + mflagBits h.flags * 2 ^ 24, now s - s.inst.minuteFrom, lo32 (minuteNow s),
   hi32 (minuteNow s), lo32 m.bytesRead, hi32 m.bytesRead, lo32 m.bytesWritten, hi32 m.bytesWritten,
   lo32 m.commands, hi32 m.commands, sat32 m.throttled, lo32 m.dieTime, hi32 m.dieTime, lo32 m.zoneFrames,
   hi32 m.zoneFrames]

def meterRead (r : Posted) (s : State) : State :=
  let fn := bits (r.pw 0) 11 0
  match (if meteredNow s fn then tabGet s.inst.holders fn else none) with
  | none => replyRefused r 0x0102 s
  | some h => replyOk r (meterWords s fn h) s

def execMeterRead (s : State) : Host.Outcome State Fault Refusal :=
  act (scp 0x41 (Form.plain [1] true [(0, 0xFFFFF000)])
    (fun r => if 2049 < r.pw 0 then some 1 else none) meterRead) s

/-! ### Log 0xC0 (R363) -/

/-- Write amplification in thousandths (R193). -/
def ampOf (prog host : Nat) : Nat := if host = 0 then 0 else prog * 1000 / host

def ampAt (s : State) (fn : Nat) : Amp := tabGetD s.media.amps fn ampZero

/-- The instance usage log of a holder. -/
def logUsage (s : State) (fn : Nat) : List Byte :=
  match tabGet s.inst.holders fn with
  | none => zeros 512
  | some h =>
    let last := match h.last with
      | some r => mrecBytes r
      | none => zeros 64
    let live := mrecBody (meterRec s fn (minuteNow s) mflagsZero { h with live := h.seen }) ++ zeros 4
    let a := ampAt s fn
    let resets := match instAt s fn with
      | some i => i.resets
      | none => 0
    padTo 512 (last ++ live ++ le h.total.bytesRead 8 ++ le h.total.bytesWritten 8 ++ le h.total.commands 8 ++
      le h.total.dieTime 8 ++ le h.total.zoneFrames 8 ++ le (ampOf a.lastProg a.lastHost) 4 ++ le (ampOf a.prog a.host) 4 ++
      le (zoneAlloc s fn) 4 ++ le (activeZones s fn) 4 ++ le resets 4 ++ [BitVec.ofNat 8 (flag h.within 1)])

end Sys2Proof.Machine
end

