-- ==== Sys2Proof/Machine/NsMgmt.lean ====
section
/-! DEFINITION. Namespace Management and Namespace Attachment (R103, R126 to R131). -/

namespace Sys2Proof.Machine

def stNsIdUnavailable : Status := mkStatus 1 0x16 true
def stNsCapacity : Status := mkStatus 1 0x15 true
def stCtrlList : Status := mkStatus 1 0x1C true
def stAlreadyAttached : Status := mkStatus 1 0x18 true
def stNotAttached : Status := mkStatus 1 0x1A true

/-- The other PF. -/
def otherPf (fn : Nat) : Nat := if fn = 2048 then 2049 else 2048

/-- The PF namespace an NSID of the manager names: its own, else the other PF's. -/
def nsPf (s : State) (fn nsid : Nat) : Option (Nat × Ns) := (nsAny s fn nsid).or (nsAny s (otherPf fn) nsid)

/-- The NSID of a new PF namespace: the lowest that neither PF uses, else the lowest its owner does not. -/
def freeNsid (s : State) (fn : Nat) : Option Nat :=
  ((List.range' 1 16).find? fun i => (nsPf s fn i).isNone).or
    ((List.range' 1 16).find? fun i => (nsAny s fn i).isNone)

/-- The create data structure's fields the device reads (R127). -/
def mgmtReq (it : Item) (b : List Byte) : NsReq :=
  { nsze := fieldAt b 0 8, csi := dw it.sqe.cdw11 31 24, lbaf := byteAt b 26 % 16, pit := byteAt b 29 % 8,
    ext := bitOf (byteAt b 26) 4, pil := bitOf (byteAt b 29) 3,
    zexp := byteAt b 3072, width := byteAt b 3073, secdisc := bitOf (byteAt b 3074) 0 }

/-- The committed PF_SLOT of a PF differs from the slot in force (R416). -/
def slotChanges (s : State) (fn : Nat) : Bool :=
  let p := if fn = 2048 then Pf.port0 else Pf.port1
  decide (pfSlot (newestCfg s) p ≠ pfSlot s.fw.cfg p)

/-- Create a PF namespace. -/
def nsCreate (it : Item) (b : List Byte) (s : State) : State :=
  let q := mgmtReq it b
  if 1 < byteAt b 3074 ∨ (rsvdBytes b 3075 13).any (·.2) ∨ 3 < q.pit then finishBad it.seq stInvalidField s
  else if 4 < q.lbaf ∨ (q.zoned ∧ 2 < q.lbaf) then finishBad it.seq stInvalidFormat s
  else if !q.fieldsOk ∨ (lbaMeta q.lbaf = 0 ∧ 0 < q.pit) then finishBad it.seq stInvalidField s
  else if !s.prot.trngOk then finishBad it.seq stInternal s
  else if slotChanges s it.id.fn then finishBad it.seq stSequenceError s
  else match freeNsid s it.id.fn, nsShort s [q] with
    | none, _ => finishBad it.seq stNsIdUnavailable s
    | some _, some 5 => finishBad it.seq stNsIdUnavailable s
    | some _, some _ => finishBad it.seq stNsCapacity s
    | some nsid, none =>
      let (_, s) := createNs it.id.fn nsid false q s
      finish it.seq stOk (wordOf nsid) 0 s

/-- The I/O of a namespace that goes away stops: each command ends with Invalid Namespace or Format. -/
def stopNsIo (n : Ns) (s : State) : State :=
  let mine := s.host.items.filter fun it =>
    it.io && decide (it.id.fn = n.owner) && decide (it.sqe.nsid.toNat = n.nsid)
  forEach mine (fun it s =>
    let s := if it.outcome.isSome then s
      else if isWriteOpc it.opc then discardLanded it.seq (latch it.seq stInvalidNamespace 0 0 s)
      else latch it.seq stInvalidNamespace 0 0 (dropReads it.seq s)
    postItem it.seq s) s

/-- Delete a namespace: every unit unmapped, its groups closed, its parameters gone; the completion waits for
the record. -/
def nsDelete (items : List Nat) (x : Nat) (n : Ns) (s : State) : State :=
  let s := stopNsIo n s
  let s := updZone (fun z => { z with discards := z.discards.filter fun d => decide (d.nsx ≠ x) }) s
  let zs := (s.zone.zones.filter fun p => decide (p.2.nsx = x)).map (·.1)
  let s := if n.zoned then forEach zs emptyZone s else unmapUnits x 0 (nsUnits n) s
  let open_ := (s.media.groups.filter fun p => decide (p.2.nsx = x) && decide (p.2.st = .opened)).map (·.1)
  let s := forEach open_ closeEarly s
  let gone : ZoneTo := .told .offline false
  let s := notifyNs n.owner n.nsid (removeNs x s)
  if zs.isEmpty then submit { jrec .unmap with unmap := some (x, 0, nsUnits n), items := items } s
  else submitZones gone items (fun _ => []) zs s

/-- NAMESPACE_MANAGEMENT. -/
def nsManagement (dma : Dma) (it : Item) (s : State) : State :=
  let sel := dw it.sqe.cdw10 3 0
  let nsid := it.sqe.nsid.toNat
  if it.phase = .started then s
  else if s.media.journalReadOnly then finishBad it.seq stJournal s
  else if sel = 0 then
    if dma.linkFails then finishBad it.seq stDataTransfer s else nsCreate it (padTo 4096 dma.bytes) s
  else if sel = 1 then
    let go := fun (l : List (Nat × Ns)) (s : State) =>
      if l.any fun p => p.2.fmt.isSome then finishBad it.seq stFormatInProgress s
      else
        let s := updItem it.seq (fun i => { i with phase := .started }) s
        let last := l.length - 1
        forEach ((List.range l.length).zip l) (fun p => nsDelete (if p.1 = last then [it.seq] else []) p.2.1 p.2.2) s
    if nsid = 0xFFFFFFFF then
      let l := s.zone.nss.filter fun p => decide (2048 ≤ p.2.owner)
      if l.isEmpty then finishOk it.seq s else go l s
    else match nsPf s it.id.fn nsid with
      | none => finishBad it.seq stInvalidNamespace s
      | some p => go [p] s
  else finishBad it.seq stInvalidField s

def execNamespaceManagement (id : CmdId) (dma : Dma) (s : State) : Host.Outcome State Fault Refusal :=
  act (admin 0x0D .manager (nsManagement dma) id) s

/-- The controller identifiers of a controller list. -/
def ctrlList (b : List Byte) : List Nat :=
  (List.range (min (fieldAt b 0 2) 2047)).map fun i => fieldAt b (2 + 2 * i) 2

/-- NAMESPACE_ATTACHMENT: a PF namespace is attached to the PF that owns it, or detached from it. -/
def nsAttachment (dma : Dma) (it : Item) (s : State) : State :=
  let sel := dw it.sqe.cdw10 3 0
  if 1 < sel then finishBad it.seq stInvalidField s
  else if dma.linkFails then finishBad it.seq stDataTransfer s
  else match nsPf s it.id.fn it.sqe.nsid.toNat with
    | none => finishBad it.seq stInvalidNamespace s
    | some (x, n) =>
      if ctrlList (padTo 4096 dma.bytes) ≠ [cntlid n.owner] then finishBad it.seq stCtrlList s
      else if sel = 0 ∧ n.attached then finishBad it.seq stAlreadyAttached s
      else if sel = 1 ∧ !n.attached then finishBad it.seq stNotAttached s
      else
        let s := when (decide (sel = 1)) (stopNsIo n) s
        finishOk it.seq (notifyNs n.owner n.nsid (updNs x (fun n => { n with attached := decide (sel = 0) }) s))

def execNamespaceAttachment (id : CmdId) (dma : Dma) (s : State) : Host.Outcome State Fault Refusal :=
  act (admin 0x15 .manager (nsAttachment dma) id) s

end Sys2Proof.Machine
end

