-- ==== Sys2Proof/Machine/Recorder.lean ====
section
/-! DEFINITION. The event recorder: closing and opening records, their layout, the buffer, the mantel, the attic
and the since-manufacture block (chapter Event Recorder). -/

namespace Sys2Proof.Machine

/-- Frames of a record period (R60). -/
def recordPeriod : Nat := 1800000000

def updRecd (f : RecSt → RecSt) (s : State) : State := { s with recd := f s.recd }

/-! ### Closing and opening (R476, R477, R480, R484) -/

/-- The bin of a native die block, by its wear. -/
def peBin (k : Class) (pe : Nat) : Nat := if k.ratedPe = 0 then 15 else min 15 (16 * pe / k.ratedPe)

/-- PE_SNAP (R480): a die block that is not listed has PE 0 and is free. -/
def peSnap (s : State) : Tab Nat :=
  let add := fun (t : Tab Nat) (b n : Nat) => tabSet t b (tabGetD t b 0 + n)
  let seen := s.media.blocks.filter fun p => (dieClass s (p.1 / 16384)).isSome
  let t := seen.foldl (fun t p =>
    match dieClass s (p.1 / 16384) with
    | some k => if (p.2.st = .free ∨ p.2.st = .inGroup) ∧ !p.2.pslc then add t (peBin k p.2.pe) 1 else t
    | none => t) []
  s.flash.dies.foldl (fun t p =>
    let listed := (seen.filter fun b => decide (b.1 / 16384 = p.1)).length
    match classAt s p.2.cls with
    | some k => if listed < p.2.blocks then add t (peBin k 0) (p.2.blocks - listed) else t
    | none => t) t

/-- Widen every entry of a table by the entries of another. -/
def widenAll (t u : Tab (Int × Int)) : Tab (Int × Int) := u.foldl (fun t p => widen (widen t p.1 p.2.1) p.1 p.2.2) t

def widenExt (a b : Ext) : Ext :=
  match a, b with
  | some x, some y => some (min x.1 y.1, max x.2 y.2)
  | some x, none => some x
  | none, y => y

/-- A record's extremes and counts merged into the since-manufacture block (R484). -/
def mergeSince (s : State) (r : Record) (m : SinceMfr) : SinceMfr :=
  let di := s.therm.diodes.foldl (fun t p => widen (widen t p.1 p.2.min) p.1 p.2.max) m.diodeExt
  let re := s.therm.remotes.foldl (fun t p => widen (widen t p.1 p.2.min) p.1 p.2.max) m.remoteExt
  { m with
    diodeExt := di
    remoteExt := re
    railExt := widenAll m.railExt r.railExt
    holdupExt := widenExt m.holdupExt r.holdupExt
    ror := r.ror.foldl (fun t p => raise t p.1 p.2) m.ror
    totals := r.events.foldl (fun t p => tabSet t p.1 (sat32 (tabGetD t p.1 0 + p.2))) m.totals }

/-- Open the next record at frame `first`. -/
def openRecord (first : Nat) (s : State) : State :=
  let n := s.recd.since.nextRecno
  let r := Record.fresh n s.inst.boots first (wordOf (runningVersion s))
  let r := { r with flags := { r.flags with cellar := s.fw.cellar } }
  updRecd (fun x => { x with cur := r, isOpen := true, since := { x.since with nextRecno := n + 1 } }) s

/-- Close the open record at frame `last`, with what `mark` adds to its FLAGS. -/
def closeRecord (last : Nat) (mark : RFlags → RFlags) (s : State) : State :=
  let r := s.recd.cur
  let snap := peSnap s
  let r := { r with last := last, version := wordOf (runningVersion s), flags := mark r.flags, peSnap := snap }
  let m := mergeSince s r s.recd.since
  boardWrite 7 (lo32 (r.first / recordPeriod)) (updMedia (fun x => { x with corrected := [] }) <| updRecd (fun x => { x with isOpen := false, closed := x.closed ++ [r], since := m }) s)

def markPartial (f : RFlags) : RFlags := { f with partial_ := true }
def markStep (cut : Bool) (f : RFlags) : RFlags := { f with step := f.step || cut }
def markPs (f : RFlags) : RFlags := { f with ps := true }

/-- The record period that the open record lies in has ended: close it and open the next. With 63 closed
records waiting the open record continues, folded, until an entry is free. -/
def periodEnd (cut : Bool) (last : Nat) (s : State) : State :=
  if now s / recordPeriod = s.recd.cur.first / recordPeriod then s
  else if 63 ≤ s.recd.closed.length then
    updRec (fun r => { r with flags := { r.flags with folded := true } }) s
  else openRecord (now s / recordPeriod * recordPeriod) (closeRecord last (markStep cut) s)

/-- The boundaries that passed in PS3 or PS4, up to frame `upto`: the open record closes with PS, and the
periods spent whole in them are one further record (R477). -/
def passPeriods (upto : Nat) (s : State) : State :=
  let a := s.recd.cur.first / recordPeriod
  let b := upto / recordPeriod
  if b ≤ a then s
  else if 63 ≤ s.recd.closed.length then
    updRec (fun r => { r with flags := { r.flags with folded := true, ps := true } }) s
  else
    let s := closeRecord ((a + 1) * recordPeriod - 1) markPs s
    let s := if a + 1 < b ∧ s.recd.closed.length < 63 then
        closeRecord (b * recordPeriod - 1) markPs (openRecord ((a + 1) * recordPeriod) s)
      else s
    openRecord (b * recordPeriod) s

def execRecordPeriodBoundary (s : State) : Host.Outcome State Fault Refusal :=
  act (when (ctrlRuns s) (periodEnd false (now s - 1))) s

/-! ### Writing (R482, R483) -/

/-- A record is written to its mantel entry, and to the attic while RECNO is below 4,096. -/
def keepRecord (x : RecSt) (r : Record) : RecSt :=
  { x with
    mantel := tabSet x.mantel (r.recno % 8192) r
    attic := if r.recno < 4096 ∧ (tabGet x.attic r.recno).isNone then tabSet x.attic r.recno r else x.attic }

/-- Every pending record is written and leaves the buffer. -/
def writeBuffer : State → State :=
  updRecd fun x => { x.closed.foldl keepRecord x with closed := [], writeDue := false }

/-- A write is called for: 48 records pending, or an event marked Flush. -/
def execRecorderBufferWrite (s : State) : Host.Outcome State Fault Refusal :=
  act (when (booted s && (s.recd.writeDue || decide (48 ≤ s.recd.closed.length))) writeBuffer) s

/-! ### Layout (R478, R479) -/

/-- Smallest shift that makes the count less than 2^28, searched up to 15. -/
def binShift (n : Nat) : Nat → Nat → Nat
  | 0, k => k
  | f + 1, k => if n / 2 ^ k < 2 ^ 28 then k else binShift n f (k + 1)

/-- A histogram bin as stored. -/
def packBin (n : Nat) : Nat :=
  let k := binShift n 15 0
  min (2 ^ 28 - 1) (n / 2 ^ k) + k * 2 ^ 28

def le16s (i : Int) : List Byte := le (twos 16 i) 2

/-- Minimum and maximum, 2 bytes each; without a sample they are open (log 21). -/
def extBytes (id field : Nat) (e : Option (Int × Int)) : List Byte :=
  let lo := match e with
    | some p => p.1
    | none => Config.unsampled id (2 * field)
  let hi := match e with
    | some p => p.2
    | none => Config.unsampled id (2 * field + 1)
  le16s lo ++ le16s hi

def rorBytes (id : Nat) (t : Tab Int) (k : Nat) : List Byte :=
  le16s (match tabGet t k with
    | some v => v
    | none => Config.unsampled id (200 + k))

def rangeBytes (n : Nat) (f : Nat → List Byte) : List Byte := ((List.range n).map f).flatten

def flagByte (f : RFlags) : Nat :=
  flag f.partial_ 1 + flag f.damaged 2 + flag f.step 4 + flag f.ps 8 + flag f.opened 16 + flag f.cellar 32 + flag f.folded 64

def decZero : DecCount := { single := 0, double := 0, uncorr := 0, pSingle := 0, pDouble := 0, pUncorr := 0 }

def decBytes (d : DecCount) : List Byte :=
  le (sat16 d.single) 2 ++ le (sat16 d.double) 2 ++ le (sat16 d.uncorr) 2 ++ le (sat16 d.pSingle) 2 ++
  le (sat16 d.pDouble) 2 ++ le (sat16 d.pUncorr) 2

/-- Bytes [63:0] of a record. -/
def recordHead (r : Record) : List Byte :=
  padTo 64 (le 0x43525A4B 4 ++ le 1 2 ++ le (flagByte r.flags) 2 ++ le r.recno 4 ++ le r.boot 2 ++ zeros 2 ++
    le (r.first / recordPeriod) 8 ++ le r.first 8 ++ le r.last 8 ++ le r.version.toNat 4)

/-- Bytes [1443:1344]: the extremes. -/
def recordExts (r : Record) : List Byte :=
  rangeBytes 8 (fun k => extBytes r.recno k (tabGet r.temps k)) ++
  rangeBytes 12 (fun k => extBytes r.recno (8 + k) (tabGet r.railExt (k + 1))) ++
  extBytes r.recno 20 r.holdupExt ++ rangeBytes 8 (rorBytes r.recno r.ror)

/-- Bytes [1851:1676]: the counts. -/
def recordCounts (r : Record) : List Byte :=
  le r.frameSlips 4 ++ le r.laneSlips 4 ++ le r.laneResets 2 ++ le r.maxRun 2 ++ le r.steps 2 ++ le r.ringFull 2 ++
  rangeBytes 16 (fun k => le (sat32 (tabGetD r.peSnap k 0)) 4) ++ le r.fireTrips 2 ++
  rangeBytes 4 (fun k => le (sat32 (tabGetD r.throttle (k + 1) 0)) 4) ++ le r.rorWarn 2 ++ le r.rorThrottle 2 ++
  rangeBytes 7 (fun k => le (sat8 (tabGetD r.psRefusals (k + 1) 0)) 1) ++ zeros 1 ++ le r.fwRefusals 2 ++
  rangeBytes 32 (fun k => le (tabGetD r.events k 0) 2)

/-- The 2,048 bytes of a record. -/
def recordBytes (r : Record) : List Byte :=
  let b := padTo 2040 (recordHead r ++ rangeBytes 320 (fun k => le (packBin (tabGetD r.hist k 0)) 4) ++ recordExts r ++
    rangeBytes 14 (fun k => decBytes (tabGetD r.dec k decZero)) ++ rangeBytes 16 (fun k => le (tabGetD r.dataErr k 0) 4) ++
    recordCounts r)
  b ++ bvBytes (crc64 b)

/-- The broken diodes, D_00 in bit 0 (R462). -/
def brokenMask (s : State) : Nat := ((s.therm.diodes.filter fun p => p.2.broken).map fun p => 2 ^ p.1).sum

/-- A trip's 64 bytes (R484). -/
def tripBytes (t : Trip) : List Byte :=
  padTo 64 (le t.frame 8 ++ le t.boot 2 ++ le t.zone 1 ++ le t.cause 1 ++ le ((t.voters.map fun d => 2 ^ d).sum) 2 ++
    rangeBytes 16 (fun k => le16s (t.readings.getD k 0)))

/-- The since-manufacture block, 65,536 bytes (R484). -/
def sinceBytes (s : State) : List Byte :=
  let m := s.recd.since
  let id := 2 ^ 33
  let b := padTo 65528 (
    padTo 32 (le 0x4D535A4B 4 ++ le 1 2 ++ zeros 2 ++ le m.nextRecno 4 ++ le s.inst.boots 4) ++
    rangeBytes 16 (fun k => extBytes id k (tabGet m.diodeExt k)) ++
    rangeBytes 4 (fun k => extBytes id (16 + k) (tabGet m.remoteExt k)) ++
    rangeBytes 12 (fun k => extBytes id (20 + k) (tabGet m.railExt (k + 1))) ++ extBytes id 32 m.holdupExt ++
    rangeBytes 8 (rorBytes id m.ror) ++ padTo 4 (le (brokenMask s) 2) ++
    rangeBytes 32 (fun k => le (tabGetD m.totals k 0) 4) ++ ((m.trips.take 16).map tripBytes).flatten)
  b ++ bvBytes (crc64 b)

/-! ### Reading (R485, R486) -/

/-- A snapshot of the open record. -/
def snapshot (s : State) : Record :=
  let r := s.recd.cur
  let snap := peSnap s
  { r with last := now s, version := wordOf (runningVersion s), flags := { r.flags with opened := true }, peSnap := snap }

/-- The records an area holds, in RECNO order. -/
def areaRecords (s : State) (area : Nat) : List Record :=
  if area = 0 then sortKey (fun r => r.recno) (s.recd.mantel.map (·.2))
  else if area = 1 then s.recd.attic.map (·.2)
  else if area = 3 then s.recd.closed ++ [snapshot s]
  else []

/-- Write host memory for an outstanding request, then `body`; what R67 and R80 make of a DMA cut short is its final
reply. -/
def descWriteFinal (r : Posted) (dma : Dma) (out : List Byte) : (State → State) → State → State :=
  descDma r dma out (finalReply r.tag r.opcode)

def recRead (dma : Dma) (finds : List LineFind) (r : Posted) (s : State) : State :=
  let s := readLines finds s
  let area := r.pw 4
  let l := ((areaRecords s area).filter fun x => decide (r.pw 5 ≤ x.recno)).take (r.descLen / 2048)
  let out := if area = 2 then sinceBytes s else (l.map recordBytes).flatten
  let (f, s) := drawNat s
  let (c, s) := drawNat s
  let first := match l with
    | x :: _ => x.recno
    | [] => f
  let count := if area = 2 then c else l.length
  descWriteFinal r dma out (finalReply r.tag r.opcode 0 [lo32 first, hi32 first, lo32 count]) (replyPending r s)

def execRecRead (dma : RegionDma) (s : State) : Host.Outcome State Fault Refusal :=
  act (scp 0x50
    { lens := [7], desc := some (true, []), mgr := false,
      lenOk := fun r => decide (r.descLen % 2048 = 0) && (decide (r.pw 4 % 4 ≠ 2) || decide (r.descLen = 65536)),
      rsv := [(4, 0xFFFFFFFC), (6, 0xFFFFFFFF)] }
    (fun r => if r.pw 4 % 4 = 2 ∧ r.pw 5 ≠ 0 then some 6 else none)
    (recRead dma.dma dma.finds)) s

end Sys2Proof.Machine
end

