-- ==== Sys2Proof/Machine/Power.lean ====
section
/-! DEFINITION. The power states: the commands that request them, the entry to PS3 and PS4, its refusers, the exit,
the hold-up readings and PWR_COUNTERS (chapter Power States and Power Loss). -/

namespace Sys2Proof.Machine

/-! ### Refusers (R427) -/

/-- Data is moving (R399, R427): a Format, a Sanitize, an INST_SANITISE, or an INST_DESTROY under policy 1 or 2. -/
def dataMoving (s : State) : Bool :=
  (s.zone.nss.any fun p => p.2.fmt.isSome) || sanitizing s ||
  s.inst.insts.any fun p => p.2.sanitises || (decide (p.2.st = .destroying) && decide (1 ≤ policyNow s p.1 p.2))

/-- An acknowledged unit waits in the landing buffer for a row that cannot be bound now (R232). -/
def landingStuck (s : State) : Bool :=
  s.media.landing.any fun e => dispatchable s e &&
    match nsAt s e.nsx with
    | none => false
    | some n =>
      let z := zoneOfUnit n e.unit
      let k := e.unit % zoneUnits n / rowUnits n.width
      let cont := match zoneAt s z with
        | some r => decide (0 < rowDone s z k r)
        | none => false
      if n.zoned then (bindZoneRow z k cont (rowOp e.nsx (some (z, k)) 0 none []) s).isNone
      else (bindConvRow e.nsx e.lc (rowOp e.nsx none e.lc none []) s).isNone

/-- Relocation of priorities 1 to 3, a retraining, a ring more than 75 % full, or a lane being reset. -/
def engineBusy (s : State) : Bool :=
  (s.media.victims.any fun v => decide (v.prio ≤ 3)) || ((victimOrder s).any fun v => decide (v.1 ≤ 3)) ||
  (s.flash.chans.any fun c => c.2.retrain.isSome) || decide (3 * 2 ^ 24 < 4 * ringUsed s) ||
  s.frame.lanes.any fun l => decide (0 < l.2.rebuild) || decide (16 ≤ l.2.run)

/-- A rate-of-rise warning was raised in the last 500,000 frames. -/
def rorRecent (s : State) : Bool :=
  match s.therm.lastRorWarn with
  | some f => decide (clk s ≤ f + 500000)
  | none => false

/-- The code of the first refuser that holds, in the order of R427. -/
def refuser (s : State) : Option Nat :=
  if s.prot.enables.jtag ∨ s.prot.enables.chain2 ∨ s.prot.enables.console then some 5
  else if s.fw.sched.isSome ∨ s.fw.hold.isSome ∨ s.fw.staging.isSome then some 6
  else if dataMoving s then some 2
  else if !s.power.holdupOk then some 3
  else if 2 ≤ deviceStep s ∨ rorRecent s then some 4
  else if engineBusy s then some 1
  else if landingStuck s then some 7
  else none

/-- A refusal in the counts of R438. -/
def Refusals.add (r : Refusals) (code : Nat) (abort auto : Bool) (f : Nat) : Refusals :=
  { counts := tabSet r.counts code (tabGetD r.counts code 0 + 1), last := code, lastAbort := abort, lastAuto := auto,
    lastFrame := f, auto := r.auto + flag auto 1 }

def stOperationDenied : Status := mkStatus 0 0x15 false

/-- An entry to `target` is refused or aborted: counted, the idle timer restarted, the Set Features that asked
for it answered with the refuser's code (R425, R426, R438). -/
def refuseEntry (target code : Nat) (abort : Bool) (item : Option Nat) (s : State) : State :=
  let f := now s
  let c := clk s
  let auto := item.isNone
  let s := updPower (fun p => { p with
    ref3 := if target = 3 then p.ref3.add code abort auto f else p.ref3
    ref4 := if target = 4 then p.ref4.add code abort auto f else p.ref4
    idleFrom := if auto then some c else p.idleFrom }) s
  let s := updRec (fun r => { r with psRefusals := tabSet r.psRefusals code (sat8 (tabGetD r.psRefusals code 0 + 1)) }) s
  match item with
  | some n => finish n stOperationDenied (wordOf code) 0 s
  | none => s

/-- Submission queues with entries unfetched. -/
def unfetched (s : State) : Nat := (s.host.ctls.map fun c => (c.2.sqs.filter fun q => !q.2.bells.isEmpty).length).sum

/-- The boundary E of an entry: the checks, then fetch pauses and the idle timer stops (R428). The doorbell of a queue
with entries unfetched at E counts as a wake during the entry (R433). -/
def beginEntry (target : Nat) (item : Option Nat) (s : State) : State :=
  match refuser s with
  | some code => refuseEntry target code false item s
  | none =>
    let c := clk s
    let k := unfetched s
    updPower (fun p => { p with
      entry := some { target := target, from_ := c, item := item, wake := decide (0 < k) }
      wakesInEntry := p.wakesInEntry + k, idleFrom := none }) s

/-! ### Set Features Power Management (R425) -/

/-- Count an entry completed into a state (R438). -/
def countEntry (ps : Nat) (p : PowerSt) : PowerSt :=
  { p with entries := tabSet p.entries ps (tabGetD p.entries ps 0 + 1) }

/-- A change among operational states takes effect. -/
def setPs (ps : Nat) : State → State :=
  updPower fun p => if p.ps = ps then p else { countEntry ps p with ps := ps, lastOp := ps, idleFrom := none }

/-- A request that is due: PS0 to PS2 at once, PS3 or PS4 by an entry. A second entry waits for the first. -/
def applyPs (r : Nat × Nat) (s : State) : State :=
  let keep := updPower fun p => { p with psDue := p.psDue ++ [r] }
  if r.1 ≤ 2 then (if s.fw.hold.isSome then keep s else finishOk r.2 (setPs r.1 s))
  else if s.power.entry.isSome then keep s
  else beginEntry r.1 (some r.2) s

/-- Step 4 of R47 for the power states. -/
def applyPsDue (s : State) : State :=
  let l := s.power.psDue
  forEach l applyPs (updPower (fun p => { p with psDue := [] }) s)

/-- The state requested is in force, or it becomes due at the next boundary. -/
def setPowerManagement (it : Item) (s : State) : State :=
  let ps := dw it.sqe.cdw11 4 0
  if 4 < ps then finishBad it.seq stInvalidField s
  else if s.power.psDue.any fun r => decide (r.2 = it.seq) then s
  else if (match s.power.entry with
    | some e => decide (e.item = some it.seq)
    | none => false) then s
  else if ps = s.power.ps ∧ s.power.psDue.isEmpty then finishOk it.seq s
  else updPower (fun p => { p with psDue := p.psDue ++ [(ps, it.seq)] }) s

def execSetFeaturesPowerManagement (id : CmdId) (s : State) : Host.Outcome State Fault Refusal :=
  act (setFeature 0x02 true setPowerManagement id) s

/-! ### The idle timer (R426) -/

/-- Entry `i` of the APST data structure. -/
def apstEntry (b : List Byte) (i : Nat) : Apst :=
  let w := fieldAt b (8 * i) 4
  { itps := bits w 7 3, itpt := bits w 31 8 }

/-- ITPS is 3 or 4, 4 in the entry for PS3, or 0 with ITPT 0. -/
def apstOk (i : Nat) (e : Apst) : Bool :=
  (decide (e.itps = 0) && decide (e.itpt = 0)) || (decide (e.itps = 3) && decide (i ≠ 3)) || decide (e.itps = 4)

def setApst (dma : Dma) (it : Item) (s : State) : State :=
  if dma.linkFails then finishBad it.seq stDataTransfer s
  else
    let l := (List.range 32).map fun i => (i, apstEntry dma.bytes i)
    if l.any fun p => !apstOk p.1 p.2 then finishBad it.seq stInvalidField s
    else
      let on := decide (dw it.sqe.cdw11 0 0 = 1)
      finishOk it.seq (updPower (fun p => { p with
        apste := on, apst := l.filter fun e => decide (e.2 ≠ { itps := 0, itpt := 0 }), idleFrom := none }) s)

def execSetFeaturesApst (id : CmdId) (dma : Dma) (s : State) : Host.Outcome State Fault Refusal :=
  act (setFeature 0x0C true (setApst dma) id) s

/-- An outstanding Asynchronous Event Request. -/
def Item.isAer (it : Item) : Bool := !it.io && decide (it.opc = 0x0C)

/-- An owner request is not answered yet: its image is being written, its confirmation waits for its boundary, or its
reply has not been collected (R369). -/
def ownerPending (s : State) : Bool :=
  !s.prot.replies.isEmpty || (s.prot.confirmed.any fun k => decide (k.by_ = .owner)) ||
  match s.fw.staging with
  | some g => g.writing && decide (g.path = .owner)
  | none => false

/-- The device is idle in this frame. -/
def idleNow (s : State) : Bool :=
  s.host.items.all Item.isAer && decide (unfetched s = 0) && s.mbx.outst.isEmpty && s.mbx.outQ.isEmpty && !ownerPending s

/-- The idle timer at a boundary: it starts with the first idle frame and an idle end stops it. -/
def idleTick (s : State) : State :=
  let c := clk s
  if s.power.apste ∧ s.power.ps ≤ 2 ∧ s.power.entry.isNone ∧ idleNow s then
    updPower (fun p => { p with idleFrom := some (p.idleFrom.getD c) }) s
  else updPower (fun p => { p with idleFrom := none }) s

/-- A Set Features Power Management is in the tag table. -/
def psRequested (s : State) : Bool := s.host.items.any fun it => !it.io && decide (it.opc = 0x09) && decide (fidOf it = 0x02)

def idleExpiry (s : State) : State :=
  match s.power.idleFrom, tabGet s.power.apst s.power.ps with
  | some a, some e =>
    if !hallRuns s ∨ !s.power.apste ∨ s.power.entry.isSome ∨ 2 < s.power.ps ∨ e.itpt = 0 ∨ psRequested s ∨
        !fired a (e.itpt * 500) (clk s) then s
    else beginEntry e.itps none s
  | _, _ => s

def execApstIdleTimerExpiry (s : State) : Host.Outcome State Fault Refusal := act idleExpiry s

/-! ### The end of an entry (R428, R429) -/

/-- Work items that the entry still waits for. -/
def workLeft (s : State) (e : Entry) : Bool := s.host.items.any fun it => !it.isAer && decide (e.item ≠ some it.seq)

/-- A PS4 entry lowers the rails and powers the corridor PHY off: its links go down (R428, R534). -/
def lowerRails (wake : Bool) (s : State) : State :=
  when wake railRestores (railWrites (linkDown false (linkDown true s)))

/-- The hall stops, and frame E is committed; a wake that arrived meanwhile begins the exit at once (R433). -/
def stopHall (e : Entry) (s : State) : State :=
  let f := now s
  let frameE := f - (clk s - e.from_)
  let s := writeBuffer s
  let s := match e.item with
    | some n => finishOk n s
    | none => s
  let s := updFlash (fun x => { x with cache := [] }) (when (decide (e.target = 4)) (lowerRails e.wake) s)
  updPower (fun p => { countEntry e.target p with
    lastOp := p.ps, ps := if e.wake then p.ps else e.target, entry := none, aonCount := 0, idleFrom := none, committedAt := frameE
    exitFrom := if e.wake then some f else none }) s

/-- The entry ends: work items done, landing buffer empty, records committed. -/
def entryDrained (s : State) : State :=
  match s.power.entry with
  | none => s
  | some e =>
    if !hallRuns s ∨ workLeft s e ∨ !s.media.landing.isEmpty ∨ !s.media.rowOps.isEmpty ∨ !s.media.ring.isEmpty then s
    else stopHall e s

def execPsEntryDrained (s : State) : Host.Outcome State Fault Refusal := act entryDrained s

/-- Fetch resumes at the next boundary. -/
def abortEntry (e : Entry) (code : Nat) (s : State) : State :=
  refuseEntry e.target code true e.item
    (updFrame (fun f => { f with admission := false }) (updPower (fun p => { p with entry := none }) s))

def entryAbort (s : State) : State :=
  match s.power.entry with
  | none => s
  | some e =>
    if !hallRuns s then s
    else if workLeft s e ∧ e.from_ + 10000 ≤ clk s then abortEntry e 1 s
    else if !s.media.landing.isEmpty ∧ e.from_ + 48000 ≤ clk s then abortEntry e 7 s
    else s

def execPsEntryAbort (s : State) : Host.Outcome State Fault Refusal := act entryAbort s

/-! ### Waking and the exit (R432 to R434, R441) -/

def execWakeEvent (s : State) : Host.Outcome State Fault Refusal := act (when (booted s) wake) s

/-- PWR_EN_3 to PWR_EN_0 are driven low (R518). -/
def railsOff (s : State) : State := { s with pins := { s.pins with pwrEn := [false, false, false, false] } }

/-- A failed exit: CFS on every function, FAULT_N low, kind 6, and the hold without retries (R441). `rail` is the
rail whose power-good is missing, 0 for another cause. -/
def exitFailed (rail : Nat) (s : State) : State :=
  let s := { s with host := { s.host with ctls := tabMap (fun _ c => { c with cfs := true }) s.host.ctls } }
  let s := recEvent 0x05 s
  let s := updPower (fun p => { p with
    exitFrom := none, failedExits := p.failedExits + 1, faultKind := 6, faultRail := rail, faultAttempts := 1, boot := .held }) s
  assertAlert (railsOff { s with pins := { s.pins with fault := true } })

/-- The hall counter takes the AON count; what has passed is processed at the next boundary (R43). -/
def exitDone (s : State) : State :=
  let k := s.power.aonCount
  let s := updFrame (fun f => { f with counter := (f.counter + k) % 2 ^ 64, elapsed := f.elapsed + k }) s
  reopen (updPower (fun p => { p with exitFrom := none, aonCount := 0, deferred := p.deferred + k }) s)

def psExit (failed : Option Nat) (s : State) : State :=
  if !booted s ∨ s.power.exitFrom.isNone ∨ flushing s then s
  else match failed with
    | some rail => exitFailed rail s
    | none => exitDone s

def execPsExit (failed : Option Nat) (s : State) : Host.Outcome State Fault Refusal := act (psExit failed) s

/-! ### Hold-up readings (R447 to R449) -/

/-- The formula of R448 in whole GiB, H in 0.01 J; 0 when H is 0. -/
def holdupGiB (lb h limit e : Nat) : Nat := if h = 0 then 0 else min lb (min limit (lb * (16 * e - h) / (15 * h)))

/-- L from the values in force: 0 in write-through, which ends only with OK. -/
def landingSize (s : State) : Nat :=
  let l := holdupGiB s.fw.cfg.lbSize s.fw.cfg.holdupCap s.media.refugeLimit s.power.energy
  if s.media.writeThrough ∧ !s.power.holdupOk then 0 else l

def setHoldup (e : Nat) (ok : Bool) (miss : Nat) : State → State :=
  updPower fun p => { p with energy := e, holdupOk := ok, holdupMiss := miss }

def holdupReading (answer : Option (Nat × Bool)) (s : State) : State :=
  if !booted s then s
  else
    let s := match answer with
      | some (e, ok) => setHoldup e ok 0 s
      | none =>
        let m := s.power.holdupMiss + 1
        if m < 3 then updPower (fun p => { p with holdupMiss := m }) s
        else when (decide (m = 3)) (recEvent 0x15) (setHoldup 0 false m s)
    let l := landingSize s
    send (.pmbus 0x5C 0xD0) (updPower (fun p => { p with lbDue := some l }) s)

def execHoldupReading (answer : Option (Nat × Bool)) (s : State) : Host.Outcome State Fault Refusal :=
  act (holdupReading answer) s

/-- A new L at a boundary; write-through sets and clears Critical Warning bit 4. -/
def applyLb (s : State) : State :=
  match s.power.lbDue with
  | none => s
  | some l =>
    let s := updPower (fun p => { p with lbDue := none }) s
    let s := updMedia (fun m => { m with lbSize := l, writeThrough := decide (l = 0) }) s
    if l = 0 then setCritical 4 s else clearCritical 4 s

/-- PMB_ALERT_N: STATUS_WORD of the hold-up controller is read at once; `w` is what it answers. -/
def pmbAlert (w : Nat) (s : State) : State :=
  if !booted s ∨ !s.mgmt.running then s
  else { send (.pmbus 0x5C 0x79) s with mgmt := { s.mgmt with statusWord := w % 65536 } }

def execPmbAlert (statusWord : Nat) (s : State) : Host.Outcome State Fault Refusal := act (pmbAlert statusWord) s

/-! ### PWR_COUNTERS (R438) -/

def refusalsOf (s : State) (q : Nat) : Refusals := if q = 1 then s.power.ref3 else s.power.ref4

/-- The refuser codes in the order of words 0 to 6. -/
def refuserOrder : List Nat := [1, 2, 3, 4, 5, 6, 7]

def pwrWords0 (s : State) : List Nat :=
  let p := s.power
  [p.ps + p.lastOp * 2 ^ 8 + flag p.entry.isSome (2 ^ 16), tabGetD p.entries 1 0, tabGetD p.entries 2 0,
   tabGetD p.entries 3 0, tabGetD p.entries 4 0, p.wakesInEntry, p.gated, p.failedExits, p.flushes,
   sat16 p.lastFlush + sat16 p.longestFlush * 2 ^ 16,
   s.media.lbSize + s.fw.cfg.lbSize * 2 ^ 8 + p.energy * 2 ^ 16, p.ps3Frames / 65536, p.ps4Frames / 65536,
   p.wtFrames / 65536, 0]

def pwrWords (s : State) (q : Nat) : List Nat :=
  let r := refusalsOf s q
  refuserOrder.map (fun c => tabGetD r.counts c 0) ++
  [r.last + flag r.lastAbort (2 ^ 8) + flag r.lastAuto (2 ^ 9), lo32 r.lastFrame, hi32 r.lastFrame, r.auto, 0, 0, 0, 0]

def execPwrCounters (s : State) : Host.Outcome State Fault Refusal :=
  act (scp 0x90 (Form.plain [1] false [(0, 0xFFFFFF00)]) (fun r => if 2 < r.pw 0 then some 1 else none)
    (fun r s => replyOk r (if r.pw 0 = 0 then pwrWords0 s else pwrWords s (r.pw 0)) s)) s

end Sys2Proof.Machine
end

