-- ==== Sys2Proof/Machine/PowerLoss.lean ====
section
/-! DEFINITION. Power loss: the recognition of PF_N, the flush that the fire door shares, and its end (R227, R264,
R361, R442 to R446, R500, R518). -/

namespace Sys2Proof.Machine

/-- The frame number with what AON has counted since the stop of the hall (R43). -/
def aonNow (s : State) : Nat := now s + s.power.aonCount

/-- Elapsed frames with what AON has counted since the stop of the hall. -/
def aonClk (s : State) : Nat := clk s + s.power.aonCount

/-- Only the commit row runs (R445): in PS3 and PS4, during an exit or its failed hold, and during an entry once
the landing buffer is empty. -/
def commitOnly (s : State) : Bool := gated s || !booted s || (s.power.entry.isSome && s.media.landing.isEmpty)

/-- An erase in progress is suspended and not resumed (R223). -/
def Die.holdErase (d : Die) : Die :=
  { d with op := d.op.map fun o => if o.kind = .erase then { o with suspended := true, suspPending := false } else o }

/-- Frame P: nothing is fetched, completed or taken up any more. One flush serves power loss and fire door. -/
def startFlush (fire : Bool) (s : State) : State :=
  match s.power.flush with
  | some f => updPower (fun p => { p with flush := some { f with fire := f.fire || fire } }) s
  | none =>
    let only := commitOnly s
    let f := aonNow s
    let s := recEvent (if fire then 0x01 else 0x00) s
    let s := updFlash (fun x => { x with dies := tabMap (fun _ d => d.holdErase) x.dies }) s
    updPower (fun p => { p with flush := some { p := f, fire := fire, commitOnly := only } }) s

/-- The hall runs during a start: the ROM waits for the firmware (R394, R395). -/
def hallStarted (s : State) : Bool := decide (s.power.boot = .rom) && decide (s.fw.bootStep = 3)

/-- A flush runs at a loss or a trip: once the hall has started, and in the hold after a failed exit (R442, R450). -/
def mayFlush (s : State) : Bool :=
  booted s || hallStarted s || (decide (s.power.boot = .held) && decide (s.power.faultKind = 6))

/-- PF_N is recognised; the cooling count of the fire door is lost (R442, R474). -/
def pfRecognised (s : State) : State :=
  let s := { s with pins := { s.pins with pfLow := true }, therm := { s.therm with cooling := false } }
  when (mayFlush s) (startFlush false) s

def execPfNRecognised (s : State) : Host.Outcome State Fault Refusal := act pfRecognised s

/-! ### The flush (R444) -/

/-- The acknowledged units that are still in the landing buffer, in landing order. -/
def unwritten (s : State) : List Landed := s.media.landing.filter fun e => e.writer.isNone && !e.committed

/-- A unit as the refuge area keeps it. -/
def refugeUnit (seq eg : Nat) (e : Landed) : RefugeUnit :=
  let t := { e.stored with kind := .refuge, flushSeq := seq }
  { eg := eg, entry := { e with stored := t, bound := none, pins := 0 }, seq := seq }

/-- The units of the die-pages of a group that fail: their programs are numbered from 0, 16 units each. -/
def failedUnits (bad : List (Nat × Nat)) (eg : Nat) (l : List Landed) : List Landed :=
  ((List.range l.length).zip l).filterMap fun p => if bad.contains (eg, p.1 / 16) then some p.2 else none

/-- Units go to the erased refuge groups in their order, each up to what it takes; those of a program that fails are
written again to the next group (R508). The groups, with the units written to each and those that it then holds. -/
def fillRefuge (bad : List (Nat × Nat)) : List (Nat × Group) → List Landed → List (Nat × List Landed × List Landed)
  | [], _ => []
  | p :: t, l =>
    if l.isEmpty then []
    else
      let here := l.take p.2.areaUnits
      let lost := failedUnits bad p.1 here
      (p.1, here, here.filter fun e => !lost.contains e) :: fillRefuge bad t (lost ++ l.drop p.2.areaUnits)

/-- The refuge writes: every landed unit in landing order, under a new flush number, into the erased half of the area
(R227). `bad` names the programs that fail, by group and die-page. -/
def refugeWrite (bad : List (Nat × Nat)) (s : State) : State :=
  let q := s.media.flushSeq + 1
  let free := s.media.groups.filter fun p => decide (p.2.st = .refuge) && decide (p.2.nextRow = 0)
  let parts := fillRefuge bad free (unwritten s)
  let rows := fun (g : Group) (k : Nat) => min g.rows ((k + 16 * g.width - 1) / max 1 (16 * g.width))
  let s := forEach parts (fun p => updGroup p.1 fun g => { g with nextRow := rows g p.2.1.length }) s
  updMedia (fun m => { m with
    flushSeq := q
    refuge := m.refuge ++ (parts.map fun p => p.2.2.map (refugeUnit q p.1)).flatten }) s

/-- The landing buffer is in force: what a flush does not write is not in it. While the ROM runs, and before the maps are
rebuilt, the last flush still holds what was landed. -/
def landingLive (s : State) : Bool :=
  (decide (s.power.boot = .running) && !s.fw.cellar && decide (s.fw.cfgState ≠ 2)) ||
    (decide (s.power.boot = .held) && decide (s.power.faultKind = 6))

/-- A record of the ring as the power-fail commit carries it out: no completion is posted, and a zone does not
become Full by a write that is rolled back. -/
def silentRec (r : JRec) : JRec := { r with items := [], zst := r.zst.filter fun p => decide (p.2 ≠ .filled) }

/-- The ring records are committed, oldest first, while the ring takes them. -/
def commitRing : Nat → State → State
  | 0, s => s
  | n + 1, s =>
    match s.media.ring with
    | [] => s
    | r :: rest =>
      if s.media.journalReadOnly ∨ ringFull s r.len then s
      else commitRing n (record (silentRec r) rest s)

/-- WP_N is driven low on every channel (R264). -/
def wpLow : State → State := updFlash fun f => { f with chans := tabMap (fun _ c => { c with wpHigh := false }) f.chans }

/-- The links of both ports go down with the PCIe PHYs. -/
def linksDown (s : State) : State :=
  { s with host := { s.host with port0 := { s.host.port0 with link := false }, port1 := { s.host.port1 with link := false } } }

/-- Two diodes of one zone are broken: the permanent hold of R471. -/
def twoBroken (s : State) : Bool :=
  (List.range 4).any fun z => decide (2 ≤ (s.therm.diodes.filter fun p => decide (p.1 / 4 = z) && p.2.broken).length)

/-- The domains stop; the fire door's hold drives FAULT_N (R469, R471), otherwise the device waits for PF_N. -/
def stopDomains (fire : Bool) (s : State) : State :=
  let perm := fire && twoBroken s
  let s := railsOff (linksDown (wpLow s))
  let s := { s with pins := { s.pins with
    fault := s.pins.fault || fire
    pwrEn := if perm then [true, true, false, false] else s.pins.pwrEn } }
  let s := { s with mgmt := { s.mgmt with running := perm } }
  let s := if perm then { s with therm := { s.therm with fire := .permanent } } else s
  updPower (fun p => { p with boot := if perm then .permanent else if fire then .fireHold else .stopped }) s

/-- The end of the flush: refuge writes, ring records, the recorder, WP_N low. -/
def flushEnd (bad : List (Nat × Nat)) (s : State) : State :=
  match s.power.flush with
  | none => s
  | some f =>
    let s := when (landingLive s) (refugeWrite bad) s
    let s := commitRing s.media.ring.length s
    let s := writeBuffer (when s.recd.isOpen (closeRecord f.p markPartial) s)
    let k := aonNow s - f.p
    let s := updPower (fun p => { p with
      flush := none, entry := none, exitFrom := none, flushes := p.flushes + 1, lastFlush := k
      flushP := f.p, committedAt := if f.commitOnly then f.p else p.committedAt
      longestFlush := max p.longestFlush k }) s
    stopDomains f.fire s

/-- Which refuge programs fail is the media's: a free value, drawn at the flush's end (log 129). -/
def execPowerLossFlushEnd (s : State) : Host.Outcome State Fault Refusal :=
  act (fun s => flushEnd (Config.refugeFails s.free) { s with free := s.free + 1 }) s

end Sys2Proof.Machine
end

