-- ==== Sys2Proof/Machine/Thermal.lean ====
section
/-! DEFINITION. Sensors, throttle steps, temperature warnings, the fire door and THERM_QUERY (chapter Management
Subsystem and Thermal Control). Temperatures are in 1/8 °C. -/

namespace Sys2Proof.Machine

def updTherm (f : ThermSt → ThermSt) (s : State) : State := { s with therm := f s.therm }

/-! ### Readings -/

/-- The zone of a diode (R459). -/
def zoneOfDiode (d : Nat) : Nat := d / 4

/-- The last reading of a diode that is not broken. -/
def Diode.valid (d : Diode) : Option Int := if d.broken then none else d.ring.head?

def maxOf (l : List Int) : Option Int := l.foldl (fun a x => some (match a with
  | some y => max x y
  | none => x)) none

/-- The hottest valid diode of a zone. -/
def hottest (s : State) (z : Nat) : Option Int :=
  maxOf ((s.therm.diodes.filter fun p => decide (zoneOfDiode p.1 = z)).filterMap fun p => p.2.valid)

/-- The composite temperature: the hottest valid diode (R466). -/
def composite (s : State) : Option Int := maxOf (s.therm.diodes.filterMap fun p => p.2.valid)

/-- Rounded to whole °C, and to whole kelvin. -/
def wholeC (t : Int) : Int := (t + 4) / 8
def kelvin (t : Int) : Nat := ((100 * t + 218920) / 800).toNat

/-- The rise of a diode over the `k` samples up to the one taken `i` samples ago. -/
def Diode.riseAt (d : Diode) (i k : Nat) : Option Int :=
  match d.ring[i]?, d.ring[i + k]? with
  | some a, some b => some (a - b)
  | _, _ => none

/-- The rise of a diode over its last `k` samples. -/
def Diode.rise (d : Diode) (k : Nat) : Option Int := d.riseAt 0 k

/-! ### Throttle steps (R463) -/

def TZone.fresh : TZone := { step := 0, due := none, rateRise := none, quietFrom := 0 }

def tzone (s : State) (z : Nat) : TZone := tabGetD s.therm.zones z TZone.fresh

def setTzone (z : Nat) (t : TZone) : State → State := updTherm fun x => { x with zones := tabSet x.zones z t }

/-- The absolute step at a hottest reading, by T_THROTTLE in °C. -/
def absStep (throttle : Nat) (h : Option Int) : Nat :=
  match h with
  | none => 0
  | some t => if t < 8 * throttle then 0 else min 4 (((t - 8 * throttle) / 32).toNat + 1)

/-- A zone with a broken diode is held at 1 or above (R462). -/
def zoneFloor (s : State) (z : Nat) : Nat :=
  flag (s.therm.diodes.any fun p => decide (zoneOfDiode p.1 = z) && p.2.broken) 1

/-- The rate condition of a zone in one of its last `n` + 1 samples: a valid diode more than 1.25 °C above its reading of
250 samples earlier. -/
def rateHolds (s : State) (z n : Nat) : Bool :=
  s.therm.diodes.any fun p => decide (zoneOfDiode p.1 = z) && !p.2.broken && (List.range (n + 1)).any fun i =>
    match p.2.riseAt i 250 with
    | some r => decide (10 < r)
    | none => false

/-- Judge a zone by its last `n` + 1 samples; the change is due at the next boundary. -/
def judgeOver (n z : Nat) (s : State) : State :=
  let c := aonClk s
  let t := tzone s z
  let cur := t.due.getD t.step
  let h := hottest s z
  let floor_ := zoneFloor s z
  let base := max (absStep s.therm.tThrottle h) floor_
  let rate := rateHolds s z n
  let detected := rate && t.rateRise.isNone
  let again := match t.rateRise with
    | some f => rate && decide (f + 125000 ≤ c)
    | none => false
  let up := max (max cur base) (if detected || again then min 4 (cur + 1) else 0)
  let warm := absStep s.therm.tThrottle (h.map fun x => x + 24)
  let falls := !rate && decide (up = cur) && decide (floor_ < cur) && decide (t.quietFrom + 500000 ≤ c)
  let new := if falls then min cur (max (cur - 1) (max warm floor_)) else up
  let rose := decide (cur < up)
  let t' : TZone := { t with
    due := if new = t.step then none else some new
    rateRise := if !rate then none else if detected || again then some c else t.rateRise
    quietFrom := if rate || rose || decide (new < cur) then c else t.quietFrom }
  let s := setTzone z t' s
  if detected then
    updRec (fun r => { r with rorThrottle := sat16 (r.rorThrottle + 1) })
      (updTherm (fun x => { x with rorThrottle := x.rorThrottle + 1 }) s)
  else s

/-- Judge a zone after a sample. -/
def judgeZone : Nat → State → State := judgeOver 0

/-- A ball GPIO_3 is driven low while a zone or region step is 2 or above or the fire door is not normal (R525). -/
def driveGpio (s : State) : State :=
  let hot := (s.therm.zones.any fun p => decide (2 ≤ p.2.step)) || (s.therm.remotes.any fun p => decide (2 ≤ p.2.step)) ||
    decide (s.therm.fire ≠ .normal)
  let on := bitOf s.fw.cfg.balls 0 && hot
  { s with pins := { s.pins with gpio3 := on } }

/-! ### Temperature warnings (R466) -/

/-- Critical Warning bit 1 is called for on every function. -/
def tempCritical (s : State) : Bool :=
  (match composite s with
    | some t => decide (8 * (s.therm.tWarn : Int) ≤ t)
    | none => false) ||
  (s.therm.zones.any fun p => decide (1 ≤ p.2.step)) || (s.therm.remotes.any fun p => decide (1 ≤ p.2.step)) ||
  (s.therm.diodes.any fun p => p.2.broken) || s.therm.remotes.any fun p => p.2.broken

/-- A function's Temperature Threshold is crossed. -/
def crossed (s : State) (f : Feats) : Bool :=
  match composite s with
  | some t => decide (f.tempOver ≤ kelvin t) || decide (kelvin t ≤ f.tempUnder)
  | none => false

/-- One function's own bit, set by its threshold alone; the event is sent when the bit that the function reports sets. -/
def judgeFn (fn : Nat) (s : State) : State :=
  match ctlOf s fn with
  | none => s
  | some c =>
    let on := crossed s c.feats
    let s' := updCtl fn (fun c => { c with tempWarn := on }) s
    if on ∧ !c.tempWarn ∧ !s.therm.critical.getLsbD 1 then notifySmart fn 1 (assertAlert s') else s'

def judgeWarnings (s : State) : State :=
  let s := if tempCritical s then setCritical 1 s else clearCritical 1 s
  driveGpio (forEach (functions s) judgeFn s)

/-! ### The fire door (R468 to R471) -/

/-- A diode votes "over". -/
def Diode.votes (d : Diode) : Bool :=
  d.broken ||
  (match d.ring.head? with
    | some t => decide (1000 < t)
    | none => false) ||
  match d.rise 50 with
  | some r => decide (8 < r)
  | none => false

/-- The diodes of a zone that vote over. -/
def voters (s : State) (z : Nat) : List Nat :=
  (s.therm.diodes.filter fun p => decide (zoneOfDiode p.1 = z) && p.2.votes).map (·.1)

/-- The cause of a trip (R458): 1 absolute, 2 rate, 3 broken sensors only. -/
def tripCause (s : State) (l : List Nat) : Nat :=
  let v := s.therm.diodes.filter fun p => l.contains p.1 && !p.2.broken
  if v.any fun p => (match p.2.ring.head? with
    | some t => decide (1000 < t)
    | none => false) then 1
  else if v.isEmpty then 3 else 2

/-- What AON retention keeps of a trip: a broken diode reads 0x8000. -/
def tripOf (s : State) (z : Nat) (l : List Nat) : Trip :=
  { frame := aonNow s, boot := s.inst.boots % 65536, zone := z, cause := tripCause s l, voters := l,
    readings := (List.range 16).map fun d => match tabGet s.therm.diodes d with
      | some x => x.valid.getD (-32768)
      | none => Config.unsampled (2 ^ 34) d }

/-- The domains stop without a flush: the hall has not started, or has been stopped. -/
def fireStop (s : State) : State :=
  if mayFlush s ∨ flushing s then startFlush true s
  else stopDomains true s

/-- The fire door trips on zone `z`. -/
def trip (z : Nat) (s : State) : State :=
  let l := voters s z
  let t := tripOf s z l
  let s := updTherm (fun x => { x with
    fire := .cooling, fireZone := z, fireCause := t.cause, trips := x.trips + 1, tripKept := some t, cooling := false }) s
  let s := updRec (fun r => { r with fireTrips := sat16 (r.fireTrips + 1) }) s
  driveGpio (assertAlert (fireStop s))

/-- The cooling condition of R470. -/
def coolingNow (s : State) : Bool :=
  (s.therm.diodes.all fun p => match p.2.valid with
    | some t => decide (t ≤ 720)
    | none => true) &&
  (s.therm.remotes.all fun p => p.2.broken || decide (p.2.value ≤ 720)) &&
  (List.range 4).all fun z => decide ((voters s z).length < 2)

/-- The fire door logic after a sample of zone `z`. -/
def judgeFire (z : Nat) (s : State) : State :=
  match s.therm.fire with
  | .normal => if 2 ≤ (voters s z).length then trip z s else s
  | .cooling => if s.power.boot = .fireHold then updTherm (fun x => { x with cooling := coolingNow s }) s else s
  | .permanent => s

/-! ### DIODE_SAMPLE (R460 to R463) -/

/-- A code at either end of the scale, or a reading out of range (R461). -/
def sensorBad (code : Nat) (v hi : Int) : Bool :=
  decide (code = Config.adcFull) || decide (code = 0) || decide (v < -320) || decide (hi < v)

/-- A reading has moved by 2 °C or more against what it was. -/
def movedBy (ref now_ : Option Int) : Bool :=
  match ref, now_ with
  | some a, some b => decide (16 ≤ (b - a).natAbs)
  | _, _ => false

/-- The readings of the diodes, by number, none for one that has no valid reading. -/
def diodeNow (s : State) : List (Option Int) := (List.range 16).map fun d => (tabGet s.therm.diodes d).bind Diode.valid

/-- Another valid diode of the zone has moved by 2 °C since diode `d`'s code last changed. -/
def zoneMoved (s : State) (d : Nat) : Bool :=
  let ref := tabGetD s.therm.stuckRef d []
  (List.range 16).any fun e =>
    decide (e ≠ d) && decide (zoneOfDiode e = zoneOfDiode d) && movedBy ref[e]? ((tabGet s.therm.diodes e).bind Diode.valid)

/-- The sample put into the ring, the code's age kept. -/
def takeDiode (d code : Nat) (v : Int) (s : State) : State :=
  let c := aonClk s
  let old := tabGet s.therm.diodes d
  let same := match old with
    | some x => decide (x.code = code)
    | none => false
  let ref := (diodeNow s).map fun o => o.getD v
  let x : Diode := match old with
    | some x =>
      let w := match x.ring[999]? with
        | some b => decide (16 < v - b)
        | none => false
      { x with
        warn := w && !x.broken, ring := if x.broken then x.ring else (v :: x.ring).take 1000, code := code
        codeFrom := if same then x.codeFrom else c, max := if x.broken then x.max else max x.max v
        min := if x.broken then x.min else min x.min v }
    | none => { warn := false, ring := [v], broken := false, code := code, codeFrom := c, max := v, min := v }
  updTherm (fun t => { t with
    diodes := tabSet t.diodes d x
    stuckRef := if same then t.stuckRef else tabSet t.stuckRef d ref }) s

/-- Mark a diode broken; the mark is never cleared (R462). -/
def breakDiode (d : Nat) (s : State) : State :=
  recEvent 0x12 (updTherm (fun t => { t with diodes := tabUpd t.diodes d fun x => { x with broken := true, warn := false } }) s)

/-- The mark of R461, judged by the fire door logic. -/
def judgeDiode (d code : Nat) (v : Int) (s : State) : State :=
  match tabGet s.therm.diodes d with
  | none => s
  | some x =>
    if x.broken then s
    else if sensorBad code v 1200 ∨ (fired x.codeFrom 1048576 (aonClk s) ∧ zoneMoved s d) then breakDiode d s
    else s

/-- ROR_WARN of a sample: detected when the sample before did not show it (R466). -/
def rorWarning (d : Nat) (before : Bool) (s : State) : State :=
  match tabGet s.therm.diodes d with
  | none => s
  | some x =>
    if !x.warn then s
    else
      let c := aonClk s
      let s := updTherm (fun t => { t with lastRorWarn := some c, rorWarn := t.rorWarn + flag (!before) 1 }) s
      updRec (fun r => { r with rorWarn := sat16 (r.rorWarn + flag (!before) 1) }) s

/-- The extremes of the open record (R478). -/
def recordTemps (z : Nat) (s : State) : State :=
  let s := match hottest s z with
    | some t => updRec (fun r => { r with temps := widen r.temps z t }) s
    | none => s
  forEach (s.therm.diodes.filter fun p => decide (zoneOfDiode p.1 = z) && !p.2.broken) (fun p s =>
    let s := match p.2.rise 250 with
      | some r => updRec (fun x => { x with ror := raise x.ror (2 * z) r }) s
      | none => s
    match p.2.rise 50 with
    | some r => updRec (fun x => { x with ror := raise x.ror (2 * z + 1) r }) s
    | none => s) s

/-- The management core judges steps and warnings while it runs (R453). -/
def mgmtJudges (s : State) : Bool := booted s && s.mgmt.running && !flushing s

def diodeSample (d code : Nat) (v : Int) (s : State) : State :=
  if 15 < d ∨ s.power.boot = .off then s
  else
    let z := zoneOfDiode d
    let before := match tabGet s.therm.diodes d with
      | some x => x.warn
      | none => false
    let s := judgeDiode d code v (takeDiode d code v s)
    let s := when (booted s) (fun s => recordTemps z (rorWarning d before s)) s
    let s := when (mgmtJudges s) (fun s => judgeWarnings (judgeZone z s)) s
    judgeFire z s

def execDiodeSample (d code : Nat) (reading : Int) (s : State) : Host.Outcome State Fault Refusal :=
  act (diodeSample d code reading) s

/-- Step 4 of R47: the steps that are due; ALERT_N at a change of the device step (R472). -/
def applySteps (s : State) : State :=
  let was := deviceStep s
  let s := updTherm (fun t => { t with zones := tabMap (fun _ z => { z with step := z.due.getD z.step, due := none }) t.zones }) s
  let s := when (decide (deviceStep s ≠ was)) assertAlert s
  if s.mgmt.running then judgeWarnings s else s

/-! ### REMOTE_SAMPLE (R461, R462, R465) -/

/-- REMOTE_LIMIT of a region in force, °C. -/
def remoteLimit (s : State) (r : Nat) : Nat := s.therm.remoteLimit.getD r 75

/-- The step that a reading gives against a limit. -/
def regionStep (limit : Nat) (v : Int) : Nat :=
  if v < 8 * limit then 0 else min 4 (((v - 8 * limit) / 24).toNat + 1)

/-- Readings of the other inputs, by number. -/
def remoteNow (s : State) (v : Int) : List Int := (List.range 4).map fun r => match tabGet s.therm.remotes r with
  | some x => x.value
  | none => v

def remoteMoved (s : State) (r : Nat) (near : List Int) : Bool :=
  (List.range 4).any fun e => decide (e ≠ r) && match tabGet s.therm.remotes e with
    | some x => !x.broken && movedBy near[e]? (some x.value)
    | none => false

/-- The sample, before it is judged. -/
def takeRemote (r code : Nat) (v : Int) (s : State) : State :=
  let c := aonClk s
  let near := remoteNow s v
  let x : Remote := match tabGet s.therm.remotes r with
    | some x =>
      let same := decide (x.code = code)
      { x with
        value := v, code := code, codeFrom := if same then x.codeFrom else c, near := if same then x.near else near
        max := if x.broken then x.max else max x.max v, min := if x.broken then x.min else min x.min v }
    | none =>
      { value := v, broken := false, code := code, codeFrom := c, step := 0, fallFrom := 0, max := v, min := v, near := near }
  updTherm (fun t => { t with remotes := tabSet t.remotes r x }) s

/-- The region's step: it rises at once and falls one step at a time, with hysteresis. -/
def judgeRegion (limit c : Nat) (v : Int) (x : Remote) : Remote :=
  let st := regionStep limit v
  if x.step ≤ st then { x with step := st }
  else if regionStep limit (v + 24) < x.step ∧ x.fallFrom + 500000 ≤ c then { x with step := x.step - 1, fallFrom := c }
  else x

/-- A remote input is marked broken, its region held at step 2 or above (R462). -/
def breakRemote (r : Nat) (s : State) : State :=
  recEvent 0x12 (updTherm (fun t => { t with remotes := tabUpd t.remotes r fun x => { x with broken := true, step := max 2 x.step } }) s)

def remoteSample (r code : Nat) (v : Int) (s : State) : State :=
  if 3 < r ∨ s.power.boot = .off then s
  else
    let s := takeRemote r code v s
    match tabGet s.therm.remotes r with
    | none => s
    | some x =>
      let c := aonClk s
      let bad := sensorBad code v 1000 || (fired x.codeFrom 1048576 c && remoteMoved s r x.near)
      let s := if mgmtJudges s then
          if x.broken ∨ bad then
            if x.broken then updTherm (fun t => { t with remotes := tabSet t.remotes r { x with step := max 2 x.step } }) s
            else breakRemote r s
          else
            let y := judgeRegion (remoteLimit s r) c v x
            updRec (fun k => { k with temps := widen k.temps (4 + r) v })
              (updTherm (fun t => { t with remotes := tabSet t.remotes r y }) s)
        else s
      let s := when (mgmtJudges s) judgeWarnings s
      if s.power.boot = .fireHold then updTherm (fun t => { t with cooling := coolingNow s }) s else s

/-- The stuck sensors of R461 at a boundary: a code unchanged for 2^20 frames beside a neighbour that moved. -/
def stuckSensors (s : State) : State :=
  let c := aonClk s
  let dead := (s.therm.diodes.filter fun p => !p.2.broken && fired p.2.codeFrom 1048576 c && zoneMoved s p.1).map (·.1)
  let s := forEach dead (fun d s =>
    let s := when (mgmtJudges s) (fun s => judgeWarnings (judgeZone (zoneOfDiode d) s)) (breakDiode d s)
    judgeFire (zoneOfDiode d) s) s
  let cold := (s.therm.remotes.filter fun p =>
    !p.2.broken && fired p.2.codeFrom 1048576 c && remoteMoved s p.1 p.2.near).map (·.1)
  when (mgmtJudges s && !cold.isEmpty) (fun s => judgeWarnings (forEach cold breakRemote s)) s

def execRemoteSample (r code : Nat) (reading : Int) (s : State) : Host.Outcome State Fault Refusal :=
  act (remoteSample r code reading) s

/-! ### RAIL_MONITOR_SAMPLE (R459, R460, R516) -/

/-- The recommended ranges of rails 1 to 12, in mV (R516). -/
def railRange : List (Nat × Nat) :=
  [(730, 780), (820, 880), (770, 830), (870, 930), (820, 880), (1160, 1240), (820, 880), (1067, 1133), (820, 880),
   (1140, 1260), (820, 880), (1710, 1890)]

/-- A rail monitor 1 to 12, or the hold-up voltage input as 13. -/
def railSample (rail mv : Nat) (s : State) : State :=
  if s.power.boot = .off ∨ rail = 0 ∨ 13 < rail then s
  else if rail = 13 then
    let s := updTherm (fun t => { t with holdupMv := mv }) s
    updRec (fun r => { r with holdupExt := widenExt r.holdupExt (some ((mv : Int), (mv : Int))) }) s
  else
    let s := updTherm (fun t => { t with rails := tabSet t.rails rail mv }) s
    let s := updRec (fun r => { r with railExt := widen r.railExt rail mv }) s
    match railRange[rail - 1]? with
    | some (lo, hi) => when (decide (mv < lo ∨ hi < mv)) (recEvent 0x14) s
    | none => s

def execRailMonitorSample (rail mv : Nat) (s : State) : Host.Outcome State Fault Refusal := act (railSample rail mv) s

/-! ### ALERT_RESPONSE_READ (R472) -/

def alertResponse (s : State) : State :=
  if s.power.boot = .off ∨ !s.pins.alert then s
  else send (.basic [0x6A]) { s with pins := { s.pins with alert := false } }

def execAlertResponseRead (s : State) : Host.Outcome State Fault Refusal := act alertResponse s

/-! ### THERM_QUERY (R473) -/

def temp16 (t : Int) : Nat := twos 16 t

/-- A diode's reading: 0x8000 when it is broken; before its first sample it is open (log 21). -/
def diodeWord (s : State) (d : Nat) : Nat :=
  match tabGet s.therm.diodes d with
  | none => temp16 (Config.unsampled (2 ^ 34) d)
  | some x => match x.valid with
    | some t => temp16 t
    | none => 0x8000

def remoteWord (s : State) (r : Nat) : Nat :=
  match tabGet s.therm.remotes r with
  | none => temp16 (Config.unsampled (2 ^ 34) (16 + r))
  | some x => if x.broken then 0x8000 else temp16 x.value

def regionStepNow (s : State) (r : Nat) : Nat := match tabGet s.therm.remotes r with
  | some x => x.step
  | none => 0

/-- The highest diode reading since manufacture (R484). -/
def highestEver (s : State) : Int :=
  match maxOf ((s.recd.since.diodeExt.map fun p => p.2.2)) with
  | some t => t
  | none => Config.unsampled (2 ^ 34) 40

def thermWords0 (s : State) : List Nat :=
  let z := fun i => (tzone s i).step
  let brk := brokenMask s + ((s.therm.remotes.filter fun p => p.2.broken).map fun p => 2 ^ (16 + p.1)).sum
  let t := (composite s).getD (Config.unsampled (2 ^ 34) 41)
  [deviceStep s + z 0 * 2 ^ 4 + z 1 * 2 ^ 8 + z 2 * 2 ^ 12 + z 3 * 2 ^ 16,
   regionStepNow s 0 + regionStepNow s 1 * 2 ^ 4 + regionStepNow s 2 * 2 ^ 8 + regionStepNow s 3 * 2 ^ 12, temp16 t, brk,
   s.therm.tWarn + s.therm.tThrottle * 2 ^ 8, sat32 s.therm.rorWarn, sat32 s.therm.rorThrottle, s.therm.trips,
   ((List.range' 1 4).map fun k => tabGetD s.therm.stepFrames k 0).sum / 65536,
   flag (rorRecent s) 1 + flag (decide (8 * (s.therm.tWarn : Int) ≤ t)) 2, 0, 0, 0, 0, 0]

def thermWords1 (s : State) : List Nat :=
  ((List.range 8).map fun i => diodeWord s (2 * i) + diodeWord s (2 * i + 1) * 2 ^ 16) ++
  [remoteWord s 0 + remoteWord s 1 * 2 ^ 16, remoteWord s 2 + remoteWord s 3 * 2 ^ 16, temp16 (highestEver s), 0, 0, 0, 0]

def thermWords2 (s : State) : List Nat :=
  let m := fun i => match tabGet s.therm.rails i with
    | some v => v % 65536
    | none => temp16 (Config.unsampled (2 ^ 34) (42 + i))
  ((List.range 6).map fun i => m (2 * i + 1) + m (2 * i + 2) * 2 ^ 16) ++
  [s.therm.holdupMv % 65536, s.therm.power10mw % 65536, 0, 0, 0, 0, 0, 0, 0]

def thermWords (s : State) (q : Nat) : List Nat :=
  if q = 0 then thermWords0 s else if q = 1 then thermWords1 s else thermWords2 s

def execThermQuery (s : State) : Host.Outcome State Fault Refusal :=
  act (scp 0xA0 (Form.plain [1] false [(0, 0xFFFFFF00)]) (fun r => if 2 < r.pw 0 then some 1 else none)
    (fun r s => replyOk r (thermWords s (r.pw 0)) s)) s

end Sys2Proof.Machine
end

