-- ==== Sys2Proof/Machine/Identify.lean ====
section
/-! DEFINITION. Identify and Get Log Page (R93, R95, R103, R107, R108, R110, R121, R132, R161, R194, R202, R300, R301,
R363, R422). Structures are laid out as NVMe 2.0 lays them out (log 22). -/

namespace Sys2Proof.Machine

/-! ### Building a structure from its fields -/

/-- Put each field at its offset. -/
def fields (size : Nat) (l : List (Nat × List Byte)) : List Byte :=
  l.foldl (fun b f => putAt f.1 f.2 b) (zeros size)

def b1 (n : Nat) : List Byte := [BitVec.ofNat 8 n]

/-- `w` identity bytes from position `i` on. -/
def deviceBytes (i w : Nat) : List Byte := (List.range w).map fun k => Config.deviceByte (i + k)

/-- A digit of FW_VERSION in ASCII. -/
def hexDigit (n : Nat) : Byte := BitVec.ofNat 8 (if n < 10 then 0x30 + n else 0x37 + n)

/-- FW_VERSION as eight hexadecimal digits (R388, R544). -/
def hex8 (v : Nat) : List Byte := (List.range 8).map fun i => hexDigit (v / 16 ^ (7 - i) % 16)


/-! ### Identify Controller (R95, R422) -/

/-- MP, NOPS, ENLAT, EXLAT and the relative figures of a power state (R422). -/
def powerTable : List (Nat × Nat × Nat × Nat) :=
  [(7200, 0, 10, 10), (4500, 0, 10, 10), (2800, 0, 50, 50), (600, 1, 100000, 2000), (180, 1, 110000, 12000)]

def psd (i : Nat) (p : Nat × Nat × Nat × Nat) : List Byte :=
  padTo 32 (le p.1 2 ++ [0] ++ b1 (p.2.1 * 2) ++ le p.2.2.1 4 ++ le p.2.2.2 4 ++ b1 i ++ b1 i ++ b1 i ++ b1 i)

/-- The power state descriptors of a function: PFs report five, VFs PS0 alone. -/
def psds (pf : Bool) : List (Nat × List Byte) :=
  let l := if pf then powerTable else powerTable.take 1
  ((List.range l.length).zip l).map fun p => (2048 + 32 * p.1, psd p.1 p.2)

/-- OACS: Security, Format and Directives; on a PF also Firmware, Namespace Management and NVMe-MI. -/
def oacs (pf : Bool) : Nat := if pf then 0x6F else 0x23

def identifyCtrl (s : State) (fn : Nat) : List Byte :=
  let pf := decide (2048 ≤ fn)
  fields 4096 ([(0, deviceBytes 0 4), (4, deviceBytes 4 20), (24, deviceBytes 24 40), (64, hex8 (runningVersion s)),
    (73, deviceBytes 64 3), (76, b1 (if pf then 0x03 else 0x07)), (77, b1 9), (78, le (cntlid fn) 2), (80, le 0x20000 4),
    (92, le 0x08000300 4), (111, b1 1), (256, le (oacs pf) 2), (258, b1 7), (259, b1 15), (260, b1 (flag pf 0x14)),
    (261, b1 0x06), (262, b1 255), (263, b1 (flag pf 4)), (265, b1 (flag pf 1)), (266, le (s.therm.tWarn + 273) 2),
    (268, le (s.therm.tThrottle + 273) 2), (319, b1 (flag pf 1)), (328, le (flag pf 3) 4), (512, b1 0x66), (513, b1 0x44),
    (516, le 16 4), (520, le 0xCC 2), (524, b1 0x04), (536, le 0x80002 4), (768, deviceBytes 128 256)] ++ psds pf)

/-! ### Identify Namespace (R128, R132, R149, R300, R301) -/

/-- FPI: the percentage of a Format that remains (R161). -/
def fpi (s : State) (x : Nat) (n : Ns) : Nat :=
  match n.fmt with
  | some p => 0x80 + percentLeft p.total (wipeLeft s (decide (p.kind = .block)) x)
  | none => 0x80

/-- Logical blocks in use: the mapped units of a conventional namespace; a zoned one counts its whole size. -/
def nsUse (s : State) (x : Nat) (n : Ns) : Nat :=
  if n.zoned then n.nsze
  else (s.media.pageMap.filter fun p => decide (p.1 / 2 ^ 40 = x)).length * blocksPerUnit n

/-- Logical blocks that can be written. -/
def nsCap (n : Ns) : Nat := if n.zoned then n.zcount * zoneCap n else n.nsze

/-- LBADS and MS of each LBA format. -/
def lbafs : List (Nat × List Byte) :=
  (List.range 5).map fun i => (128 + 4 * i, le (lbaMeta i + (if lbaData i = 512 then 9 else 12) * 2 ^ 16) 4)

def identifyNs (s : State) (x : Nat) (n : Ns) : List Byte :=
  let aw := if lbaData n.lbaf = 512 then 7 else 0
  fields 4096 ([(0, le n.nsze 8), (8, le (nsCap n) 8), (16, le (nsUse s x n) 8), (24, b1 0x06), (25, b1 4),
    (26, b1 (n.lbaf + flag n.ext 16)), (27, b1 3), (28, b1 0x1F), (29, b1 (n.pit + flag n.pil 8)), (32, b1 (fpi s x n)),
    (33, b1 (if n.zoned then 0x11 else 0x19)), (34, le aw 2), (36, le aw 2)] ++ lbafs ++ [(104, deviceBytes (1024 + 16 * x) 16)])

/-- What every namespace has in common (NSID 0xFFFF_FFFF). -/
def identifyCommon : List Byte := fields 4096 ([(24, b1 0x06), (25, b1 4), (27, b1 3), (28, b1 0x1F)] ++ lbafs)

/-- The NVM command set structure: the guard format of each LBA format. -/
def identifyNvm (guard32 : Bool) : List Byte :=
  fields 4096 ((List.range 5).map fun i => (12 + 4 * i, le (if i = 2 then (if guard32 then 2 ^ 7 else 2 ^ 8) else 0) 4))

/-- The Zoned Namespace structure (R132). ZSZE of the 512-byte formats, which no zoned namespace takes, is left open: it
is the same number of 4 KiB blocks (DESIGN CHOICE, log 121). -/
def identifyZns (s : State) (n : Ns) : List Byte :=
  let m := zoneAlloc s n.owner - 1
  fields 4096 ([(2, le 1 2), (4, le m 4), (8, le m 4), (16, le 68719 4)] ++
    (List.range 5).map fun i => (2816 + 16 * i, le (zoneUnits n) 8))

/-- The structure independent of the command set. -/
def identifyIndep (s : State) (x : Nat) (n : Ns) : List Byte := fields 4096 [(0, b1 0x06), (3, b1 (fpi s x n)), (14, b1 1)]

/-- NSIDs above `after`, in ascending order, 4 bytes each. -/
def nsList (s : State) (fn after : Nat) (ok : Ns → Bool) : List Byte :=
  let l := (s.zone.nss.filter fun p => decide (p.2.owner = fn) && p.2.attached && decide (after < p.2.nsid) && ok p.2).map (·.2.nsid)
  padTo 4096 (((sortKey id l).map fun k => le k 4).flatten)

def csiOf (n : Ns) : Nat := if n.zoned then 2 else 0

/-- Namespace descriptors: an NGUID and the command set. -/
def nsDescs (x : Nat) (n : Ns) : List Byte :=
  padTo 4096 ([2, 16, 0, 0] ++ deviceBytes (1024 + 16 * x) 16 ++ [4, 1, 0, 0] ++ b1 (csiOf n))

/-- A structure of one namespace: zeros for an identifier that names none, refused for an invalid one. -/
def ofNs (s : State) (fn nsid : Nat) (f : Nat → Ns → Status ⊕ List Byte) : Status ⊕ List Byte :=
  if nsid = 0 ∨ 16 < nsid then .inl stInvalidNamespace
  else match nsOf s fn nsid with
    | some (x, n) => f x n
    | none => .inr (zeros 4096)

/-- What Identify returns for a CNS value (R103). -/
def identifyData (s : State) (fn cns csi nsid : Nat) (guard32 : Bool) : Status ⊕ List Byte :=
  if cns = 0x00 then
    (if nsid = 0xFFFFFFFF ∧ 2048 ≤ fn then .inr identifyCommon else ofNs s fn nsid fun x n => .inr (identifyNs s x n))
  else if cns = 0x01 then .inr (identifyCtrl s fn)
  else if cns = 0x02 then (if 0xFFFFFFFE ≤ nsid then .inl stInvalidNamespace else .inr (nsList s fn nsid fun _ => true))
  else if cns = 0x03 then ofNs s fn nsid fun x n => .inr (nsDescs x n)
  else if cns = 0x05 then
    (if csi = 0 then ofNs s fn nsid fun _ _ => .inr (identifyNvm guard32)
     else if csi = 2 then ofNs s fn nsid fun _ n => if n.zoned then .inr (identifyZns s n) else .inl stInvalidField
     else .inl stInvalidField)
  else if cns = 0x06 then
    (if csi = 0 then .inr (fields 4096 [(0, [9, 9])]) else if csi = 2 then .inr (fields 4096 [(0, [9])]) else .inl stInvalidField)
  else if cns = 0x07 then
    (if csi ≠ 0 ∧ csi ≠ 2 then .inl stInvalidField
     else if 0xFFFFFFFE ≤ nsid then .inl stInvalidNamespace
     else .inr (nsList s fn nsid fun n => decide (csiOf n = csi)))
  else if cns = 0x08 then ofNs s fn nsid fun x n => .inr (identifyIndep s x n)
  else if cns = 0x1C then .inr (fields 4096 [(0, [0x05])])
  else .inl stInvalidField

def guardOfFn (s : State) (fn : Nat) : Bool :=
  match ctlOf s fn with
  | some c => c.guard32
  | none => false

def identify (it : Item) (s : State) : State :=
  match identifyData s it.id.fn (dw it.sqe.cdw10 7 0) (dw it.sqe.cdw11 31 24) it.sqe.nsid.toNat (guardOfFn s it.id.fn) with
  | .inl st => finishBad it.seq st s
  | .inr b => finishOk it.seq (send (.nvmeData it.id.fn b) s)

def execIdentify (id : CmdId) (s : State) : Host.Outcome State Fault Refusal := act (admin 0x06 .all identify id) s

/-! ### Log pages (R108) -/

/-- Log 0x01: 256 entries of 64 bytes, newest first. -/
def logErrors (c : Ctl) : List Byte :=
  padTo 16384 ((c.errs.map fun e => fields 64 [(0, le e.count 8), (8, le e.sq 2), (10, le e.cid 2),
    (12, le (2 * (e.st.sc + 256 * e.st.sct + flag e.st.dnr (2 ^ 14) + 2 ^ 13)) 2), (16, le e.lba 8), (24, le e.nsid 4)]).flatten)

/-- Available Spare (R211): the lowest pantry level × 100 ÷ 500, at most 100. -/
def availableSpare (s : State) : Nat := min 100 (lowestLevel s * 100 / 500)

/-- Mean wear of the native die blocks, as a percentage of the rated endurance (log 22). -/
def percentUsed (s : State) : Nat :=
  let used := (s.media.blocks.filter fun p => !p.2.pslc).map fun p => match dieClass s (p.1 / 16384) with
    | some k => if k.ratedPe = 0 then 0 else p.2.pe * 100 / k.ratedPe
    | none => 0
  let n := (s.flash.dies.map fun p => p.2.blocks).sum
  if n = 0 then 0 else min 255 (used.sum / n)

/-- Data units of 1,000 × 512 bytes, rounded up (NVMe 2.0). -/
def dataUnits (n : Nat) : Nat := (n + 511999) / 512000

/-- Critical warnings as one function sees them. -/
def warningsOf (s : State) (c : Ctl) : Nat :=
  s.therm.critical.toNat + flag (c.tempWarn && !s.therm.critical.getLsbD 1) 2

/-- Log 0x02. -/
def logSmart (s : State) (c : Ctl) : List Byte :=
  fields 512 [(0, b1 (warningsOf s c)), (1, le (match composite s with
      | some t => kelvin t
      | none => (Config.unsampled (2 ^ 34) 41).toNat) 2),
    (3, b1 (availableSpare s)), (4, b1 10), (5, b1 (percentUsed s)), (32, le (dataUnits c.dataRead) 16),
    (48, le (dataUnits c.dataWritten) 16), (64, le c.cmdsRead 16), (80, le c.cmdsWritten 16), (112, le s.inst.boots 16),
    (128, le (clk s / 1800000000) 16), (144, le s.power.flushes 16), (160, le s.therm.mediaErrors 16), (176, le c.errCount 16),
    (192, le (s.therm.wctt / framesPerMinute) 4), (196, le (s.therm.cctt / framesPerMinute) 4)]

/-- A slot's version, zero while it holds no image. -/
def slotText (k : FwSlot) : List Byte :=
  match k.image with
  | some i => hex8 i.version
  | none => zeros 8

/-- Log 0x03: the running slot, and the slot the next cold start boots. -/
def logFirmware (s : State) : List Byte :=
  fields 512 [(0, b1 (s.fw.running + (if s.fw.cfg.bootSlot = s.fw.running then 0 else s.fw.cfg.bootSlot) * 16)),
    (8, slotText s.fw.slot1), (16, slotText s.fw.slot2)]

/-- Log 0x04: the changed namespaces. -/
def logChangedNs (c : Ctl) : List Byte := padTo 4096 (((sortKey id c.changedNs).map fun k => le k 4).flatten)

/-- Log 0x05: commands the function supports, CSUPP alone set. -/
def logEffects (fn : Nat) : List Byte :=
  let pfOnly := [0x0D, 0x10, 0x11, 0x15, 0x1D, 0x1E, 0x84]
  let adm := adminOpcodes.filter fun o => decide (2048 ≤ fn) || !pfOnly.contains o
  let io := [0x00, 0x01, 0x02, 0x08, 0x09, 0x0C, 0x79, 0x7A, 0x7D]
  fields 4096 ((adm.map fun o => (4 * o, [1])) ++ io.map fun o => (1024 + 4 * o, [1]))

/-- Log 0x81 (R161). -/
def logSanitize (s : State) : List Byte :=
  let z := s.zone.san
  let left := percentLeft z.total (wipeLeftAll s (decide (z.kind = .block)))
  let sprog := if z.st = .running then 65536 * (100 - left) / 100 else if z.st = .waiting then 0 else 0xFFFF
  let st := match z.st with
    | .idle => flag z.completed 1
    | .waiting => 2
    | .running => 2
    | .failed => 3
  let action := match z.kind with
    | .unmap => 0
    | .block => 2
    | .crypto => 4
  fields 512 [(0, le (min 0xFFFF sprog) 2), (2, le st 2), (4, le action 4)]

/-- Log 0xBF: the changed zones. -/
def logZones (c : Ctl) : List Byte :=
  let l := sortKey (fun p => p.1 * 2 ^ 48 + p.2) c.changedZones
  padTo 4096 (le (if 511 < l.length then 0xFFFF else l.length) 2 ++ zeros 6 ++ ((l.take 511).map fun p => le p.2 8).flatten)

/-- Log 0xC1 (R194). -/
def logDies (s : State) : List Byte :=
  let st := fun (d : Die) => match d.mark with
    | .slow => 1
    | .slowRate => 2
    | .normal => 0
    | _ => 3
  let l := s.flash.dies.filter fun p => decide (0 < st p.2)
  let slow := (l.filter fun p => p.2.slow).length
  let gone := (l.filter fun p => decide (p.2.mark = .retired)).length
  let rebuild := (s.media.groups.filter fun p => p.2.rebuild && p.2.holds).length
  padTo 64 (le slow 4 ++ le gone 4 ++ le l.length 4 ++ zeros 4 ++ le s.media.marks 8 ++ le s.media.substitutions 8 ++
    le s.media.slowFallbacks 8 ++ le s.media.classFallbacks 8 ++ le rebuild 4) ++
  (l.map fun p => padTo 32 (le p.1 2 ++ b1 (st p.2) ++ b1 p.2.cls ++ le p.2.since 8 ++ le p.2.rRead.last 2 ++ le p.2.rProg.last 2 ++
    le p.2.rErase.last 2 ++ le (sat16 p.2.marks) 2 ++ le p.2.backstairs 4)).flatten

/-- Log 0xC2 (R121). -/
def logReads (c : Ctl) : List Byte :=
  padTo 8256 (padTo 64 (le c.readFailTotal 8 ++ le c.readFails.length 2) ++
    (c.readFails.map fun e => padTo 64 (le e.frame 8 ++ le e.nsid 4 ++ le e.sq 2 ++ le e.cid 2 ++ le e.slba 8 ++ le e.nlb 2 ++
      le e.failed 2) ++ bvBytes e.map).flatten)

/-- The holder log 0xC0 describes for a function and LSI (R363). -/
def usageHolder (s : State) (fn lsi : Nat) : Status ⊕ Nat :=
  if fn < 2048 then (if lsi = 0 then .inr fn else .inl stInvalidField)
  else if !isManager s fn then .inl stInvalidField
  else if 2049 < lsi ∨ (lsi < 2048 ∧ (instAt s lsi).isNone) then .inl stInvalidField
  else .inr lsi

def stLogPage : Status := mkStatus 1 0x09 true

/-- A log whole, as it stands, for a function. -/
def logData (s : State) (fn lid lsi : Nat) (c : Ctl) : Status ⊕ List Byte :=
  if lid = 0x01 then .inr (logErrors c)
  else if lid = 0x02 then .inr (logSmart s c)
  else if lid = 0x03 then .inr (logFirmware s)
  else if lid = 0x04 then .inr (logChangedNs c)
  else if lid = 0x05 then .inr (logEffects fn)
  else if lid = 0x81 then .inr (logSanitize s)
  else if lid = 0xBF then .inr (logZones c)
  else if lid = 0xC0 then (match usageHolder s fn lsi with
    | .inl st => .inl st
    | .inr h => .inr (logUsage s h))
  else if lid = 0xC1 then
    (if fn < 2048 then .inl stLogPage else if isManager s fn then .inr (logDies s) else .inl stInvalidField)
  else if lid = 0xC2 then .inr (logReads c)
  else if lid = 0xC3 then (if fn < 2048 then .inl stLogPage else .inr (logFrame s))
  else .inl stLogPage

/-- The event types that a read of a log with RAE = 0 clears (R106). -/
def logEvents (lid : Nat) : List Nat :=
  if lid = 0x01 then [0] else if lid = 0x02 then [1] else if lid = 0x03 ∨ lid = 0x04 then [2] else if lid = 0xBF then [6]
  else if lid = 0xC2 then [7] else []

/-- A read without RAE clears the event and the list it reports. -/
def clearLog (fn lid : Nat) (s : State) : State :=
  reportEvents fn 16 (updCtl fn (fun c => { c with
    masked := c.masked.filter fun t => !(logEvents lid).contains t
    changedNs := if lid = 0x04 then [] else c.changedNs
    changedZones := if lid = 0xBF then [] else c.changedZones }) s)

/-- `n` bytes of a log from `off`; what lies past its end is open (log 3). -/
def logPart (b : List Byte) (off n d : Nat) : List Byte :=
  let l := (b.drop off).take n
  l ++ (List.range (n - l.length)).map fun i => Config.freeByte d i

def getLogPage (it : Item) (s : State) : State :=
  match ctlOf s it.id.fn with
  | none => s
  | some c =>
    let lid := dw it.sqe.cdw10 7 0
    let n := 4 * (dw it.sqe.cdw10 31 16 + 65536 * dw it.sqe.cdw11 15 0 + 1)
    let off := it.sqe.cdw12.toNat + 2 ^ 32 * it.sqe.cdw13.toNat
    match logData s it.id.fn lid (dw it.sqe.cdw11 31 16) c with
    | .inl st => finishBad it.seq st s
    | .inr b =>
      if off % 4 ≠ 0 ∨ b.length < off ∨ 2097152 < n then finishBad it.seq stInvalidField s
      else
        let part := logPart b off n s.free
        let s := send (.nvmeData it.id.fn part) { s with free := s.free + 1 }
        finishOk it.seq (when (dw it.sqe.cdw10 15 15 = 0) (clearLog it.id.fn lid) s)

def execGetLogPage (id : CmdId) (s : State) : Host.Outcome State Fault Refusal := act (admin 0x02 .all getLogPage id) s

end Sys2Proof.Machine
end

