-- ==== Sys2Proof/Machine/Mgmt.lean ====
section
/-! DEFINITION. The management core and the control cores: watchdogs, MCTP, NVMe-MI and the Basic Management Command
(R37, R38, R453 to R458, R486, R496). Messages are laid out as NVMe-MI 1.2 and MCTP lay them out (log 22). -/

namespace Sys2Proof.Machine

def updMgmt (f : MgmtSt → MgmtSt) (s : State) : State := { s with mgmt := f s.mgmt }

/-- The management core answers messages: it runs, and no flush is under way (R442, R474). -/
def miOpen (s : State) : Bool :=
  s.mgmt.running && !flushing s && (booted s || decide (s.power.boot = .permanent))

/-! ### The command slot -/

/-- Send a response; a paused slot keeps it for Resume. -/
def respond (b : List Byte) (s : State) : State :=
  let paused := s.mgmt.slot.paused
  let s := updMgmt (fun m => { m with slot := { m.slot with last := b, busy := paused } }) s
  when (!paused) (send (.mi b)) s

/-- Status values of NVMe-MI. -/
def miInvalidOpcode : Nat := 0x03
def miInvalidParameter : Nat := 0x04

/-- A Management Interface response: status, the NVMe Management Response and data. -/
def miResponse (status resp : Nat) (data : List Byte) : List Byte := b1 status ++ le resp 3 ++ data

def miError (status : Nat) : Nat × Nat × List Byte := (status, 0, [])

/-! ### Read NVMe-MI Data Structure -/

/-- Transmission unit of a Management Interface port, 0 and 1 PCIe, 2 SMBus, 3 I3C (R454, R456). -/
def portMtu (s : State) (p : Nat) : Nat := tabGetD s.mgmt.mtu p 64

/-- Port Information: type, transmission unit, and for SMBus the addresses and speeds. -/
def portInfo (s : State) (p : Nat) : List Byte :=
  fields 32 ([(0, b1 (if p < 2 then 1 else 2)), (2, le 256 2)] ++
    (if p < 2 then [(8, deviceBytes (2 ^ 21 + 16 * p) 8)] else [(10, b1 0x1D), (11, b1 3), (12, b1 (flag (decide (p = 2)) 1))]) ++
    [(14, le (portMtu s p) 2)])

/-- Identity of a PF controller. -/
def ctrlInfo (id : Nat) : List Byte := fields 32 [(0, b1 (id - 1)), (8, deviceBytes 0 2), (12, deviceBytes 2 2)]

/-- The PF controllers from an identifier on (R456). -/
def ctrlIds (from_ : Nat) : List Nat := [1, 2].filter fun i => decide (from_ ≤ i)

def miRead (s : State) (d0 : Nat) : Nat × Nat × List Byte :=
  let ty := bits d0 31 24
  let port := bits d0 23 16
  let id := bits d0 15 0
  let ok := fun (b : List Byte) => (0, b.length, b)
  if ty = 0 then ok (fields 32 [(0, b1 3), (1, b1 1), (2, b1 2)])
  else if ty = 1 then (if port < 4 then ok (portInfo s port) else miError miInvalidParameter)
  else if ty = 2 then ok (le (ctrlIds id).length 2 ++ ((ctrlIds id).map fun i => le i 2).flatten)
  else if ty = 3 then (if id = 1 ∨ id = 2 then ok (ctrlInfo id) else miError miInvalidParameter)
  else if ty = 4 then ok (le 2 2 ++ [0x08, 0xC0, 0x08, 0xC1])
  else miError miInvalidParameter

/-! ### Health polls -/

/-- Composite temperature as the polls report it: °C, 0x80 for no data. -/
def basicTemp (s : State) : Nat :=
  match composite s with
  | some t =>
    if s.power.rcFallback then 0x80
    else if wholeC t < -60 then 0xC4
    else if wholeC t < 0 then twos 8 (wholeC t)
    else min 0x7F (wholeC t).toNat
  | none => 0x80

/-- CSTS of a PF, low bits: RDY and CFS. -/
def cstsOf (s : State) (fn : Nat) : Nat :=
  match ctlOf s fn with
  | some c => flag c.rdy 1 + flag c.cfs 2
  | none => 0

def fatal (s : State) : Bool := bitOf (cstsOf s 2048) 1 || bitOf (cstsOf s 2049) 1

/-- NVM Subsystem Health Status: bit 31 of NMDW1 clears the changes reported. -/
def miSubsystem (s : State) : List Byte :=
  let st := flag (!fatal s) 0x20 + 0x10 + flag s.host.port0.link 8 + flag s.host.port1.link 4
  b1 st ++ b1 (255 - s.therm.critical.toNat) ++ b1 (basicTemp s) ++ b1 (percentUsed s) ++ le s.mgmt.healthChange 2 ++ [0, 0]

/-- One PF controller's health. -/
def ctrlHealth (s : State) (id : Nat) : List Byte :=
  let fn := 2047 + id
  let w := match ctlOf s fn with
    | some c => warningsOf s c
    | none => s.therm.critical.toNat
  fields 16 [(0, le id 2), (2, le (cstsOf s fn) 2), (4, le (match composite s with
      | some t => kelvin t
      | none => 0) 2), (6, b1 (percentUsed s)), (7, b1 (availableSpare s)), (8, b1 w)]

def miControllers (s : State) (d0 : Nat) : Nat × Nat × List Byte :=
  let l := (ctrlIds (bits d0 15 0)).take (bits d0 23 16 + 1)
  (0, l.length * 2 ^ 16, (l.map (ctrlHealth s)).flatten)

/-! ### Configuration -/

/-- The port a configuration names. -/
def cfgPort (d0 : Nat) : Nat := bits d0 31 24

/-- What Configuration Set changes, or none for a parameter out of range. -/
def miConfigSet (d0 d1 : Nat) (m : MgmtSt) : Option MgmtSt :=
  let id := bits d0 7 0
  let fr := bits d0 15 8
  let mtu := bits d1 15 0
  if id = 1 then
    (if cfgPort d0 = 2 ∧ 1 ≤ fr ∧ fr ≤ 3 then some { m with smbusFreq := fr } else none)
  else if id = 2 then some { m with healthChange := m.healthChange - (m.healthChange &&& bits d1 15 0) }
  else if id = 3 then
    (if cfgPort d0 < 4 ∧ 64 ≤ mtu ∧ mtu ≤ 256 then some { m with mtu := tabSet m.mtu (cfgPort d0) mtu } else none)
  else none

def miConfigGet (s : State) (d0 : Nat) : Nat × Nat × List Byte :=
  let id := bits d0 7 0
  if id = 1 then (if cfgPort d0 = 2 then (0, s.mgmt.smbusFreq, []) else miError miInvalidParameter)
  else if id = 2 then (0, 0, [])
  else if id = 3 then (if cfgPort d0 < 4 then (0, portMtu s (cfgPort d0), []) else miError miInvalidParameter)
  else miError miInvalidParameter

/-! ### Vendor-specific commands (R456, R486) -/

/-- One 2,048-byte piece of an area. -/
def miRecorder (s : State) (d0 d1 : Nat) : Nat × Nat × List Byte :=
  let area := bits d0 1 0
  let part := bits d0 15 8
  if area = 2 then
    (if part < 32 then (0, 0, ((sinceBytes s).drop (2048 * part)).take 2048) else miError miInvalidParameter)
  else match (areaRecords s area).find? fun r => decide (r.recno = d1) with
    | some r => (0, 0, recordBytes r)
    | none => miError miInvalidParameter

def miThermal (s : State) (d0 : Nat) : Nat × Nat × List Byte :=
  let q := bits d0 7 0
  if 2 < q then miError miInvalidParameter else (0, 0, ((thermWords s q).map fun w => le w 4).flatten)

/-! ### Management Interface commands -/

/-- The opcodes of R456. -/
def miOpcodes : List Nat := [0x00, 0x01, 0x02, 0x03, 0x04, 0xC0, 0xC1]

/-- Perform a command: opcode, NMDW0, NMDW1; its status, response and data. -/
def miCommand (op d0 d1 : Nat) (s : State) : (Nat × Nat × List Byte) × State :=
  if op = 0x00 then (miRead s d0, s)
  else if op = 0x01 then
    ((0, 0, miSubsystem s), if bitOf d1 31 then updMgmt (fun m => { m with healthChange := 0 }) s else s)
  else if op = 0x02 then (miControllers s d0, s)
  else if op = 0x03 then
    (match miConfigSet d0 d1 s.mgmt with
     | some m => ((0, 0, []), { s with mgmt := m })
     | none => (miError miInvalidParameter, s))
  else if op = 0x04 then (miConfigGet s d0, s)
  else if op = 0xC0 then (miRecorder s d0 d1, s)
  else if op = 0xC1 then (miThermal s d0, s)
  else (miError miInvalidOpcode, s)

/-- A request message: opcode in byte 0, NMDW0 in bytes 4 to 7, NMDW1 in bytes 8 to 11. -/
def miRequest (req : List Byte) (s : State) : State :=
  let ((st, resp, b), s) := miCommand (byteAt req 0) (fieldAt req 4 4) (fieldAt req 8 4) s
  respond (miResponse st resp b) s

/-- The request when it carries opcode `op`. -/
def miRow (op : Nat) (req : List Byte) (s : State) : State := if miOpen s ∧ byteAt req 0 = op then miRequest req s else s

def execReadNvmeMiDataStructure (req : List Byte) (s : State) : Host.Outcome State Fault Refusal := act (miRow 0x00 req) s

def execNvmSubsystemHealthStatusPoll (req : List Byte) (s : State) : Host.Outcome State Fault Refusal :=
  act (miRow 0x01 req) s

def execControllerHealthStatusPoll (req : List Byte) (s : State) : Host.Outcome State Fault Refusal :=
  act (miRow 0x02 req) s

def execConfigurationSet (req : List Byte) (s : State) : Host.Outcome State Fault Refusal := act (miRow 0x03 req) s

def execConfigurationGet (req : List Byte) (s : State) : Host.Outcome State Fault Refusal := act (miRow 0x04 req) s

def execRecorderRead (req : List Byte) (s : State) : Host.Outcome State Fault Refusal := act (miRow 0xC0 req) s

def execThermalQuery (req : List Byte) (s : State) : Host.Outcome State Fault Refusal := act (miRow 0xC1 req) s

/-- An opcode the device does not support (R456). -/
def execNvmeMiInvalidOpcode (req : List Byte) (s : State) : Host.Outcome State Fault Refusal :=
  act (when (miOpen s && !miOpcodes.contains (byteAt req 0)) (miRequest req)) s

/-! ### Control Primitives -/

/-- A primitive's answer: success, its tag, CPSR. -/
def cpAnswer (req : List Byte) (cpsr : Nat) : State → State := send (.mi (b1 0 ++ b1 (byteAt req 1) ++ le cpsr 2))

def updSlot (f : MiSlot → MiSlot) : State → State := updMgmt fun m => { m with slot := f m.slot }

/-- Responses wait. -/
def miPause (req : List Byte) (s : State) : State := cpAnswer req 1 (updSlot (fun k => { k with paused := true }) s)

/-- A response that waited is sent. -/
def miResume (req : List Byte) (s : State) : State :=
  let k := s.mgmt.slot
  let s := cpAnswer req 0 (updSlot (fun k => { k with paused := false, busy := false }) s)
  when k.busy (send (.mi k.last)) s

/-- The command in the slot ends without a response. -/
def miAbort (req : List Byte) (s : State) : State :=
  cpAnswer req 0 (updSlot (fun _ => { paused := false, last := [], busy := false }) s)

/-- Slot state in [1:0], 3 while a response waits, and the pause flag in [15]. -/
def miGetState (req : List Byte) (s : State) : State :=
  cpAnswer req (flag s.mgmt.slot.busy 3 + flag s.mgmt.slot.paused (2 ^ 15)) s

/-- The last response again; CPSR [0] says that there was one. -/
def miReplay (req : List Byte) (s : State) : State :=
  let l := s.mgmt.slot.last
  let s := cpAnswer req (flag (!l.isEmpty) 1) s
  when (!l.isEmpty) (send (.mi l)) s

/-- Perform the primitive whose opcode is in byte 0. -/
def cpRequest (req : List Byte) (s : State) : State :=
  if byteAt req 0 = 0 then miPause req s
  else if byteAt req 0 = 1 then miResume req s
  else if byteAt req 0 = 2 then miAbort req s
  else if byteAt req 0 = 3 then miGetState req s
  else if byteAt req 0 = 4 then miReplay req s
  else send (.mi (b1 miInvalidOpcode ++ b1 (byteAt req 1) ++ [0, 0])) s

def execControlPrimitivePause (req : List Byte) (s : State) : Host.Outcome State Fault Refusal :=
  act (when (miOpen s) (miPause req)) s

def execControlPrimitiveResume (req : List Byte) (s : State) : Host.Outcome State Fault Refusal :=
  act (when (miOpen s) (miResume req)) s

def execControlPrimitiveAbort (req : List Byte) (s : State) : Host.Outcome State Fault Refusal :=
  act (when (miOpen s) (miAbort req)) s

def execControlPrimitiveGetState (req : List Byte) (s : State) : Host.Outcome State Fault Refusal :=
  act (when (miOpen s) (miGetState req)) s

def execControlPrimitiveReplay (req : List Byte) (s : State) : Host.Outcome State Fault Refusal :=
  act (when (miOpen s) (miReplay req)) s

/-! ### NVMe Admin commands over NVMe-MI (R457) -/

/-- What the Admin command of a PF answers: a status, DW0 and data. -/
def miAdminData (s : State) (fn opc nsid d10 d11 : Nat) : Status ⊕ (Nat × List Byte) :=
  match ctlOf s fn with
  | none => .inl stInvalidField
  | some c =>
    if opc = 0x06 then
      (match identifyData s fn (bits d10 7 0) (bits d11 31 24) nsid c.guard32 with
       | .inl st => .inl st
       | .inr b => .inr (0, b))
    else if opc = 0x02 ∧ [0x02, 0x03, 0xC1, 0xC3].contains (bits d10 7 0) then
      (if bits d10 7 0 = 0xC1 then .inr (0, logDies s)
       else match logData s fn (bits d10 7 0) (bits d11 31 16) c with
         | .inl st => .inl st
         | .inr b => .inr (0, b))
    else if opc = 0x0A ∧ bits d10 7 0 = 0x02 then .inr (if 3 ≤ s.power.ps then s.power.lastOp else s.power.ps, [])
    else if opc = 0x0A ∧ bits d10 7 0 = 0x04 then
      .inr (if bits d11 21 20 = 1 then c.feats.tempUnder else c.feats.tempOver, [])
    else .inl stInvalidField

/-- DW3 of a completion entry: the status field in [31:17]. -/
def cqeDw3 (st : Status) : Nat := (st.sc + 256 * st.sct + flag st.dnr (2 ^ 14)) * 2 ^ 17

/-- An Admin request: opcode in byte 0, CNTLID in bytes 2 and 3, NSID, data offset, data length, CDW10 and CDW11. -/
def miAdmin (req : List Byte) (s : State) : State :=
  let id := fieldAt req 2 2
  let r := if id = 1 ∨ id = 2 then miAdminData s (2047 + id) (byteAt req 0) (fieldAt req 4 4) (fieldAt req 40 4) (fieldAt req 44 4)
    else .inl stInvalidField
  let off := fieldAt req 24 4
  let len := fieldAt req 28 4
  match r with
  | .inl st => respond (miResponse 0 0 (zeros 8 ++ le (cqeDw3 st) 4)) s
  | .inr (d0, b) => respond (miResponse 0 0 (le d0 4 ++ zeros 4 ++ le 0 4 ++ (b.drop off).take len)) s

def execNvmeMiAdminCommand (req : List Byte) (s : State) : Host.Outcome State Fault Refusal :=
  act (when (miOpen s) (miAdmin req)) s

/-! ### MCTP (R454, R455) -/

/-- An MCTP control request: Set and Get Endpoint ID and Get Message Type Support; any other is unsupported. -/
def mctpControl (tr : Nat) (m : List Byte) (s : State) : State :=
  let head := [0x00, BitVec.ofNat 8 (byteAt m 1 % 32), BitVec.ofNat 8 (byteAt m 2)]
  if byteAt m 2 = 1 then
    let e := byteAt m 4
    send (.mi (head ++ [0, 0] ++ b1 e ++ [0])) (updMgmt (fun k => { k with eids := tabSet k.eids tr e }) s)
  else if byteAt m 2 = 2 then send (.mi (head ++ [0] ++ b1 (tabGetD s.mgmt.eids tr 0) ++ [0, 0])) s
  else if byteAt m 2 = 5 then send (.mi (head ++ [0, 3, 0x04, 0x05, 0x06])) s
  else send (.mi (head ++ [5])) s

/-- An NVMe-MI message: its kind in bits [6:3] of byte 1, the request from byte 4 on. -/
def miMessage (m : List Byte) (s : State) : State :=
  let k := bits (byteAt m 1) 6 3
  let req := m.drop 4
  if k = 0 then cpRequest req s
  else if k = 1 then miRequest req s
  else if k = 2 then miAdmin req s
  else s

/-- The transport is there: I3C 0, SMBus 1, the PCIe VDM endpoints of the ports 2 and 3 while their links are up. -/
def transportUp (s : State) (tr : Nat) : Bool :=
  decide (tr < 2) || (decide (tr = 2) && s.host.port0.link) || (decide (tr = 3) && s.host.port1.link)

/-- Dispatch a message by its type; SPDM and secured messages go to the rows of the owner. Any other type is
discarded and counted. -/
def mctpDispatch (tr : Nat) (m : List Byte) (s : State) : State :=
  let ty := byteAt m 0 % 128
  if ty = 0 then mctpControl tr m s
  else if ty = 4 then miMessage m s
  else if ty = 5 ∨ ty = 6 then s
  else recEvent 0x1A (updMgmt (fun k => { k with discarded := k.discarded + 1 }) s)

/-- A message received whole, its packets on the transports `via`: held during a restart of the management core, at most
16 (R453). One whose packets arrived on more than one transport is discarded (R455). -/
def mctpMessage (via : List Nat) (m : List Byte) (s : State) : State :=
  match via with
  | [] => s
  | tr :: rest =>
    if !transportUp s tr ∨ flushing s ∨ (!booted s ∧ s.power.boot ≠ .permanent) ∨ (rest.any fun k => decide (k ≠ tr)) then s
    else if !s.mgmt.running then
      when (decide (s.mgmt.held.length < 16)) (updMgmt fun k => { k with held := k.held ++ [(tr, m)] }) s
    else mctpDispatch tr m s

def execMctpMessage (via : List Nat) (m : List Byte) (s : State) : Host.Outcome State Fault Refusal :=
  act (mctpMessage via m) s

/-! ### The Basic Management Command (R440, R458) -/

/-- AON is powered. -/
def aonOn (s : State) : Bool := decide (s.power.boot ≠ .off)

def basicStatus (s : State) : List Byte :=
  let ready := bitOf (cstsOf s 2048) 0 || bitOf (cstsOf s 2049) 0
  b1 6 ++ b1 (flag (!ready) 0x40 + flag (booted s && !fatal s) 0x20 + 0x10 + flag s.host.port0.link 8 + flag s.host.port1.link 4 + 3) ++
  b1 (255 - s.therm.critical.toNat) ++ b1 (basicTemp s) ++ b1 (percentUsed s) ++ [0, 0]

def execBasicManagementStatus (s : State) : Host.Outcome State Fault Refusal :=
  act (when (aonOn s) (send (.basic (basicStatus s)))) s

def execBasicManagementVendorSerial (s : State) : Host.Outcome State Fault Refusal :=
  act (when (aonOn s) (send (.basic (b1 22 ++ deviceBytes 0 2 ++ deviceBytes 4 20)))) s

def execBasicManagementFaultCode (s : State) : Host.Outcome State Fault Refusal :=
  act (when (aonOn s) (send (.basic (b1 (s.power.faultKind * 16 + s.power.faultRail % 16) ++ b1 (s.power.faultAttempts % 4))))) s

def fireCode : Fire → Nat
  | .normal => 0
  | .cooling => 1
  | .permanent => 2

def execBasicManagementFireDoorStatus (s : State) : Host.Outcome State Fault Refusal :=
  act (when (aonOn s) (send (.basic (b1 (fireCode s.therm.fire + flag s.therm.cooling 4) ++
    b1 (s.therm.fireZone % 4 + s.therm.fireCause % 4 * 4 + min 15 s.therm.trips * 16))))) s

/-! ### NVMe-MI Send and Receive (R103) -/

/-- DW0 of the completion: status and NVMe Management Response. -/
def miDw0 (st resp : Nat) : Word := wordOf (st + resp % 2 ^ 24 * 2 ^ 8)

/-- The command in CDW11 [7:0] with NMDW0 and NMDW1 in CDW12 and CDW13; Send carries those that take data,
Receive those that return it. It waits while the management core restarts. -/
def miTunnel (op : Nat → Bool) (it : Item) (s : State) : State :=
  if !s.mgmt.running then s
  else
    let o := dw it.sqe.cdw11 7 0
    let r := if op o then miCommand o it.sqe.cdw12.toNat it.sqe.cdw13.toNat s else (miError miInvalidOpcode, s)
    let b := r.1.2.2
    finish it.seq stOk (miDw0 r.1.1 r.1.2.1) 0 (when (!b.isEmpty) (send (.nvmeData it.id.fn b)) r.2)

def execNvmeMiSend (id : CmdId) (dma : Dma) (s : State) : Host.Outcome State Fault Refusal :=
  act (admin 0x1D .pf (fun it s => if dma.linkFails then finishBad it.seq stDataTransfer s
    else miTunnel (fun o => decide (o = 0x03)) it s) id) s

def execNvmeMiReceive (id : CmdId) (s : State) : Host.Outcome State Fault Refusal :=
  act (admin 0x1E .pf (miTunnel fun o => decide (o ≠ 0x03)) id) s

/-! ### Watchdogs (R37, R38, R453, R496) -/

/-- The management core stops for a restart; its duties pause. -/
def mgmtStop (s : State) : State :=
  let c := aonClk s
  updMgmt (fun m => { m with running := false, served := c }) s

/-- Its watchdog expires once 250 frames have passed without service: it is restarted. While an activation replaces the
cores their watchdogs are suspended (R402). -/
def mgmtExpiry (s : State) : State :=
  if !booted s ∨ !s.mgmt.running ∨ s.fw.hold.isSome ∨ !fired s.mgmt.served 250 (aonClk s) then s
  else recEvent 0x03 (updMgmt (fun m => { m with restarts := m.restarts + 1 }) (mgmtStop s))

def execMgmtWatchdogExpiry (s : State) : Host.Outcome State Fault Refusal := act mgmtExpiry s

/-- It judges the rate conditions of the restart from the sample ring and takes up the messages held. -/
def mgmtRestart (s : State) : State :=
  if !booted s ∨ s.mgmt.running then s
  else
    let l := s.mgmt.held
    let c := aonClk s
    let n := min 749 ((c - s.mgmt.served) / 500)
    let s := updMgmt (fun m => { m with running := true, served := c, held := [] }) s
    let s := judgeWarnings (forEach (List.range 4) (judgeOver n) s)
    if flushing s then s else forEach l (fun p => mctpDispatch p.1 p.2) s

def execMgmtRestartDone (s : State) : Host.Outcome State Fault Refusal := act mgmtRestart s

def updHost (f : HostSt → HostSt) (s : State) : State := { s with host := f s.host }

def setCore (k : Nat) (c : Core) : State → State := updHost fun h => { h with cores := tabSet h.cores k c }

/-- Move a queue to the shard of a core. -/
def moveQueue (fn q k : Nat) : State → State := updCtl fn fun c => { c with sqs := tabUpd c.sqs q fun x => { x with shard := k } }

/-- The I/O queues in the shard of a core. -/
def queuesOf (s : State) (k : Nat) : List (Nat × Nat) :=
  (s.host.ctls.map fun p => (p.2.sqs.filter fun q => decide (q.1 ≠ 0) && decide (q.2.shard = k)).map fun q => (p.1, q.1)).flatten

/-- Move every queue of a core's shard to the least-loaded running core. -/
def moveShard (k : Nat) (s : State) : State := forEach (queuesOf s k) (fun q s => moveQueue q.1 q.2 (leastLoaded s) s) s

/-- Frame in which a core was last known to service its watchdog: at its start, or at its restart. -/
def coreServed (s : State) (k : Nat) : Nat :=
  match tabGet s.host.cores k with
  | some c => c.served
  | none => s.fw.began

/-- A control core's watchdog expires once 250 frames have passed without service (R37): its shard moves, or waits
where no core runs; an activation hold is replacing the cores and ignores it (R420). -/
def coreExpiry (k : Nat) (s : State) : State :=
  if !booted s ∨ 15 < k ∨ !coreRunning s k ∨ s.fw.hold.isSome ∨ !fired (coreServed s k) 250 (clk s) then s
  else
    let s := recEvent 0x02 (setCore k { running := false, served := clk s, shardOwner := false } s)
    if (List.range 16).any (coreRunning s) then moveShard k s else s

def execControlCoreWatchdogExpiry (core : Nat) (s : State) : Host.Outcome State Fault Refusal := act (coreExpiry core) s

/-- The core runs again and services its watchdog; shards that waited for the first core move to it. Core 0 finds what
was held for it, in arrival order (R38). -/
def coreRestart (k : Nat) (s : State) : State :=
  if !booted s ∨ 15 < k ∨ coreRunning s k then s
  else
    let s := setCore k { running := true, served := clk s, shardOwner := false } s
    let s := when (decide (k = 0)) (updHost fun h =>
      { h with kept := (h.items.filter fun it => !it.io && it.unparsed).map (·.seq) }) s
    reopen (forEach ((List.range 16).filter fun j => !coreRunning s j) moveShard s)

def execControlCoreRestartDone (core : Nat) (s : State) : Host.Outcome State Fault Refusal := act (coreRestart core) s

/-- A queue may change its shard: no work item of it is in parse. -/
def movable (s : State) (q : Nat × Nat) : Bool :=
  s.host.items.all fun it => decide (it.id.fn ≠ q.1) || decide (it.id.sq ≠ q.2) || decide (it.phase ≠ .fetched)

/-- A restarted core takes back a shard: queues of other cores move to it while it has fewer. -/
def rebalance (s : State) : State :=
  forEach ((s.host.cores.filter fun p => p.2.running && !p.2.shardOwner).map (·.1)) (fun k s =>
    let all := ((List.range 16).filter fun j => decide (j ≠ k)).map (queuesOf s) |>.flatten
    let s := forEach all (fun q s =>
      let from_ := match (ctlOf s q.1).bind fun c => tabGet c.sqs q.2 with
        | some x => x.shard
        | none => k
      when (movable s q && decide (shardLoad s k + 1 < shardLoad s from_)) (moveQueue q.1 q.2 k) s) s
    updHost (fun h => { h with cores := tabUpd h.cores k fun c => { c with shardOwner := true } }) s) s

end Sys2Proof.Machine
end

