-- ==== Sys2Proof/Machine/Integrity.lean ====
section
/-! DEFINITION. DEC-TED protection, ECC test mode, patrol scrub and the TRNG (chapter Integrity from End to End,
R310 to R320 and R325), and the placement policy and queries (R195, R196). -/

namespace Sys2Proof.Machine

/-! ### The DEC-TED code (R310) -/

/-- The syndrome of one flipped bit of the 80 under a code with data columns `c`. -/
def flipOf (c : Nat → BitVec 16) (i : Nat) : BitVec 16 := if i < 64 then c i else BitVec.ofNat 16 (2 ^ (i - 64))

/-- The pairs of the 80 bits. -/
def bitPairs : List (Nat × Nat) := ((List.range 80).map fun i => (List.range i).map fun j => (i, j)).flatten

/-- The syndromes of no error, of one bit and of two bits. -/
def fewFlips (c : Nat → BitVec 16) : List (BitVec 16) :=
  0 :: (List.range 80).map (flipOf c) ++ bitPairs.map fun p => flipOf c p.1 ^^^ flipOf c p.2

/-- The code corrects every error of one or two bits and detects every error of three. -/
def dectedGood (c : Nat → BitVec 16) : Bool :=
  decide (fewFlips c).Nodup &&
  bitPairs.all fun p => (List.range p.2).all fun k => !(fewFlips c).contains (flipOf c p.1 ^^^ flipOf c p.2 ^^^ flipOf c k)

/-- A code of the size that R310 gives: x^(15 + i) modulo the generator of the even-weight BCH code of length 127. -/
def bchColumn : Nat → BitVec 16
  | 0 => 0x4599
  | i + 1 => let c := bchColumn i
             if c.getLsbD 14 then (c <<< 1) ^^^ 0xC599 else c <<< 1

/-- The column of data bit `i`: the free one, where the free columns have the property that R310 states of the code;
R310 publishes no equations (log 58). -/
def column (i : Nat) : BitVec 16 := if dectedGood Config.dectedColumn then Config.dectedColumn i else bchColumn i

/-- Check bits of a 64-bit data word: the code is linear, each data bit contributes its column. -/
def checkOf (d : Quad) : BitVec 16 :=
  (List.range 64).foldl (fun c i => if d.getLsbD i then c ^^^ column i else c) 0

/-- Data bits [63:0] and check bits [79:64] of a stored word. -/
def dataOf (w : BitVec 80) : Quad := w.setWidth 64
def checkBits (w : BitVec 80) : BitVec 16 := (w >>> 64).setWidth 16
def stored80 (d : Quad) (c : BitVec 16) : BitVec 80 := c ++ d
def encode80 (d : Quad) : BitVec 80 := stored80 d (checkOf d)

/-- The stored check bits against those the data requires. -/
def syndrome (w : BitVec 80) : BitVec 16 := checkBits w ^^^ checkOf (dataOf w)

def flipBit (w : BitVec 80) (i : Nat) : BitVec 80 := w ^^^ BitVec.ofNat 80 (2 ^ i)

/-- What the decoder makes of a word: bits corrected and the corrected word; none when it is uncorrectable. -/
def decode80 (w : BitVec 80) : Option (Nat × BitVec 80) :=
  let y := syndrome w
  if y = 0 then some (0, w)
  else match (List.range 80).find? fun i => decide (flipOf column i = y) with
    | some i => some (1, flipBit w i)
    | none =>
      match bitPairs.find? fun p => decide (flipOf column p.1 ^^^ flipOf column p.2 = y) with
      | some p => some (2, flipBit (flipBit w p.1) p.2)
      | none => none

/-! ### ECC_TEST (R317 to R320) -/

def Posted.subop (r : Posted) : Nat := bits (r.pw 0) 7 0
def Posted.target (r : Posted) : Nat := bits (r.pw 0) 15 8

def subops : List Nat := [0x00, 0x01, 0x02, 0x03, 0x04, 0x05, 0x0F]

def targets : List Nat := List.range 6 ++ List.range' 0x10 8

/-- The sub-operations that name a word of a window. -/
def usesWord (sub : Nat) : Bool := [0x01, 0x02, 0x03, 0x04].contains sub

def eccFault (r : Posted) : Option Nat :=
  if !subops.contains r.subop ∨ (usesWord r.subop ∧ !targets.contains r.target) then some 1 else none

def eccKey (r : Posted) : Nat := r.target * 8192 + r.pw 1

def eccWord (s : State) (r : Posted) : BitVec 80 := tabGetD s.ecc.words (eccKey r) 0

/-- Store a word of a window; the all-zero codeword is not listed. -/
def eccPut (r : Posted) (w : BitVec 80) (s : State) : State :=
  { s with ecc := { s.ecc with words := if w = 0 then tabDel s.ecc.words (eccKey r) else tabSet s.ecc.words (eccKey r) w } }

def eccData (r : Posted) : Quad := BitVec.ofNat 64 (r.pw64 2)

/-- The reply of R319. -/
def eccReply (r : Posted) (w0 : Nat) (d : Quad) (w3 : Nat) : State → State :=
  replyOk r [w0, d.toNat % 2 ^ 32, d.toNat / 2 ^ 32, w3]

/-- A request of one sub-operation at the head of the queue: the latch and test mode are checked after R84, TARGET
after them. A SUBOP of no row is answered with ENTER's. -/
def eccRow (sub : Nat) (body : Posted → State → State) (s : State) : State :=
  match s.mbx.outQ with
  | [] => s
  | r :: _ =>
    if r.opcode ≠ 0xB0 ∨ (r.subop ≠ sub ∧ (sub ≠ 0 ∨ subops.contains r.subop)) then s
    else
      scp 0xB0 (Form.plain [5] true [(0, 0xFFFF0000), (1, 0xFFFFE000), (4, 0xFF000000)]) (fun _ => none) (fun r s =>
        if holder s 2 = 0 then replyRefused r 0x0010 s
        else if holder s 2 ≠ r.agent then replyConflict r 0 (holder s 2) s
        else if sub ≠ 0 ∧ !s.ecc.mode then replyRefused r 0x0010 s
        else match eccFault r with
          | some i => replyInvalid r i s
          | none => body r s) s

/-- ENTER: every window cleared to zero data with valid check bits. -/
def eccEnter (r : Posted) (s : State) : State := eccReply r 0 0 0 { s with ecc := { s.ecc with mode := true, words := [] } }

def execEccTestEnter (s : State) : Host.Outcome State Fault Refusal := act (eccRow 0x00 eccEnter) s

def eccWriteRaw (r : Posted) (s : State) : State :=
  eccReply r 0 0 0 (eccPut r (stored80 (eccData r) (BitVec.ofNat 16 (bits (r.pw 4) 15 0))) s)

def execEccTestWriteRaw (s : State) : Host.Outcome State Fault Refusal := act (eccRow 0x01 eccWriteRaw) s

def eccReadRaw (r : Posted) (s : State) : State :=
  let w := eccWord s r
  eccReply r 0 (dataOf w) (checkBits w).toNat s

def execEccTestReadRaw (s : State) : Host.Outcome State Fault Refusal := act (eccRow 0x02 eccReadRaw) s

/-- READ: through the decoder, with no write-back. -/
def eccRead (r : Posted) (s : State) : State :=
  let w := eccWord s r
  let y := (syndrome w).toNat * 2 ^ 16
  match decode80 w with
  | some (k, c) => eccReply r (k + k * 2 ^ 8 + y) (dataOf c) 0 s
  | none => eccReply r (3 + y) (dataOf w) 0 s

def execEccTestRead (s : State) : Host.Outcome State Fault Refusal := act (eccRow 0x03 eccRead) s

/-- `new` in the bytes `mask` selects, else `old`. -/
def mergeBytes (mask : Nat) (old new : Quad) : Quad :=
  BitVec.ofNat 64 (leNat ((List.range 8).map fun i =>
    if bitOf mask i then BitVec.ofNat 8 (new.toNat / 256 ^ i) else BitVec.ofNat 8 (old.toNat / 256 ^ i)))

/-- A narrow write (R314): merged into the corrected word; a word found uncorrectable is written with the check
bits inverted. -/
def narrowWrite (mask : Nat) (w : BitVec 80) (d : Quad) : BitVec 80 :=
  match decode80 w with
  | some (_, c) => encode80 (mergeBytes mask (dataOf c) d)
  | none => let m := mergeBytes mask (dataOf w) d
            stored80 m (~~~(checkOf m))

/-- WRITE: the cost of a read-modify-write is at least 14 hall cycles on SRAM, and open on DRAM (log 3). -/
def eccWrite (r : Posted) (s : State) : State :=
  let mask := bits (r.pw 4) 23 16
  if mask = 0xFF then eccReply r 0 0 0 (eccPut r (encode80 (eccData r)) s)
  else
    let (k, s) := drawNat s
    let cost := if r.target < 0x10 then k % 2 ^ 16 else 14 + k % (2 ^ 16 - 14)
    eccReply r 0 0 (cost * 2 ^ 16) (eccPut r (narrowWrite mask (eccWord s r) (eccData r)) s)

def execEccTestWrite (s : State) : Host.Outcome State Fault Refusal := act (eccRow 0x04 eccWrite) s

def eccEncode (r : Posted) (s : State) : State := eccReply r 0 0 (checkOf (eccData r)).toNat s

def execEccTestEncode (s : State) : Host.Outcome State Fault Refusal := act (eccRow 0x05 eccEncode) s

def execEccTestExit (s : State) : Host.Outcome State Fault Refusal :=
  act (eccRow 0x0F fun r s => eccReply r 0 0 0 (eccExit s)) s

/-! ### Patrol scrub (R312, R313, R315) -/

/-- An acknowledged unit whose landing copy is lost is poisoned (R309). -/
def poisonLanded (order : Nat) (s : State) : State :=
  if s.media.landing.any fun e => decide (e.order = order) && !e.stored.hdr.poison then
    let s := recDataErr 8 1 (updLanded order (fun e => { e with stored := poison e.stored }) s)
    setCritical 2 { callWrite s with therm := { s.therm with mediaErrors := s.therm.mediaErrors + 1 } }
  else s

/-- Set DAMAGED in a record of the buffer (R312, R488). -/
def damageRecord (n : Nat) (s : State) : State :=
  let mark := fun (r : Record) => if r.recno = n then { r with flags := { r.flags with damaged := true } } else r
  if s.recd.cur.recno = n ∨ s.recd.closed.any fun r => decide (r.recno = n) then
    recEvent 0x19 (updRecd (fun x => { x with cur := mark x.cur, closed := x.closed.map mark }) s)
  else s

/-- A planner lane reset by the hall (R57, R312). -/
def forceLaneReset (l : Nat) (s : State) : State := resetLane l (setLane l { laneOf s l with run := 16 } s)

/-- A read request whose word in porch staging is lost: as a failed stored check at decryption (R307). -/
def porchOutLost (rd : Nat) (s : State) : State :=
  match findRead s rd with
  | none => s
  | some r =>
    match r.for_ with
    | .host seq => match itemBySeq s seq with
      | some it => rereadUnit 2 r it s
      | none => s
    | _ => s

/-- What the consumer of an uncorrectable word brings about (R312). -/
def wordLost (w : WordOf) (s : State) : State :=
  match w with
  | .landing order => poisonLanded order s
  | .cache loc => updFlash (fun f => { f with cache := f.cache.filter fun e => decide (e.1 ≠ loc) }) s
  | .rebuilt => s
  | .tracker key => updFlash (fun f => { f with trackers := tabDel f.trackers key }) s
  | .tags items => forEach items (fun n s => failItem n stInternal s) s
  | .queuePointer fn => updCtl fn (fun c => { c with cfs := true }) s
  | .porchIn item => recDataErr 0 1 (failItem item stInternal s)
  | .porchOut rd => porchOutLost rd s
  | .ldpc rd => match findRead s rd with
    | some r => if r.st = .decoding then climb r s else s
    | none => s
  | .plan lane => if lane < 64 then forceLaneReset lane s else s
  | .record n => damageRecord n s

/-- Count a word that scrub met under memory `k` of R478; its consumer's access, which meets an uncorrectable one, counts
it as well (R312, R313). -/
def countScrub (k : Nat) (e : ScrubErr) : State → State :=
  updRec fun r =>
    let d := tabGetD r.dec k decZero
    let d := match e with
      | .single => { d with pSingle := sat16 (d.pSingle + 1) }
      | .double => { d with pDouble := sat16 (d.pDouble + 1) }
      | .uncorrectable _ => { d with pUncorr := sat16 (d.pUncorr + 1), uncorr := sat16 (d.uncorr + 1) }
    { r with dec := tabSet r.dec k d }

/-- Words a scrub pass meets in memory `k`: corrected ones are written back, an uncorrectable one is left in
place and its consumer meets it. -/
def scrub (k : Nat) (errs : List ScrubErr) (s : State) : State :=
  if !hallRuns s then s
  else forEach errs (fun e s =>
    match e with
    | .uncorrectable w => wordLost w (countScrub k e s)
    | _ => countScrub k e s) s

/-- The configuration record populates DRAM channel `ch`; an unpopulated one is left out of the error counts (R22). -/
def dramPopulated (s : State) (ch : Nat) : Bool :=
  match s.fw.cfg.dram[ch]? with
  | some d => d.1
  | none => false

/-- Bursts of 128 B of DRAM channel `ch` that its controller has read in the cycle in progress (R315). -/
def scrubBursts (s : State) (ch : Nat) : Nat :=
  match s.fw.cfg.dram[ch]? with
  | some d => if d.1 then d.2.2.1 * 2 ^ 30 / 128 / 2 ^ 24 * s.ecc.dramScrub else 0
  | none => 0

def execDramPatrolScrub (ch : Nat) (errs : List ScrubErr) (s : State) : Host.Outcome State Fault Refusal :=
  act (when (dramPopulated s ch) (scrub ch errs)) s

def execSramPatrolScrub (target : Nat) (errs : List ScrubErr) (s : State) : Host.Outcome State Fault Refusal :=
  act (when (decide (0x10 ≤ target) && decide (target ≤ 0x17)) (scrub (target - 10) errs)) s

/-! ### The TRNG (R325) -/

def setTrng (ok : Bool) (s : State) : State := { s with prot := { s.prot with trngOk := ok } }

/-- A health test fails: operations that need fresh random values wait; the failure is counted. -/
def execTrngHealthFailure (s : State) : Host.Outcome State Fault Refusal :=
  act (when (booted s) fun s => recEvent 0x17 (setTrng false s)) s

def execTrngHealthTestPass (s : State) : Host.Outcome State Fault Refusal := act (setTrng true) s

/-! ### PLACE_POLICY_SET (R195) -/

def policyFault (r : Posted) : Option Nat :=
  let w := r.pw 1
  let gc := bits w 7 0
  let sh := bits w 15 8
  let ageOk := fun (b : Nat) => decide (b = 0) || (decide (20 ≤ b) && decide (b ≤ 40))
  let word := fun (i n : Nat) => (List.range n).all fun j => ageOk (bits (r.pw i) (8 * j + 7) (8 * j))
  if 7 < r.pw 0 then some 1
  else if bits w 31 16 ≠ 0 ∨ (bitOf (r.pw 0) 0 ∧ (gc < 5 ∨ 40 < gc)) ∨ (bitOf (r.pw 0) 1 ∧ (sh < 1 ∨ 6 < sh)) then some 2
  else if bitOf (r.pw 0) 2 ∧ !word 2 4 then some 3
  else if bits (r.pw 3) 31 24 ≠ 0 ∨ (bitOf (r.pw 0) 2 ∧ !word 3 3) then some 4
  else none

/-- LC_AGE[1] to LC_AGE[7] of words 2 and 3. -/
def policyAges (r : Posted) : Tab Nat :=
  (List.range 7).filterMap fun i =>
    let b := if i < 4 then bits (r.pw 2) (8 * i + 7) (8 * i) else bits (r.pw 3) (8 * (i - 4) + 7) (8 * (i - 4))
    if b = 0 then none else some (i + 1, b)

/-- The policy in force from the next boundary, over one that is due already. -/
def placePolicySet (r : Posted) (s : State) : State :=
  let p := s.media.policyDue.getD s.media.policy
  let p := if bitOf (r.pw 0) 0 then { p with gcShare := bits (r.pw 1) 7 0 } else p
  let p := if bitOf (r.pw 0) 1 then { p with matchShift := bits (r.pw 1) 15 8 } else p
  let p := if bitOf (r.pw 0) 2 then { p with lcAge := policyAges r } else p
  replyOk r [] (updMedia (fun m => { m with policyDue := some p }) s)

def execPlacePolicySet (s : State) : Host.Outcome State Fault Refusal :=
  act (scp 0x80 (Form.plain [4] true [(0, 0xFFFFFFF8), (1, 0xFFFF0000), (3, 0xFF000000)]) policyFault placePolicySet) s

/-- The policy that is due takes effect at step 4 of R47. -/
def applyPolicy (s : State) : State :=
  match s.media.policyDue with
  | some p => updMedia (fun m => { m with policy := p, policyDue := none }) s
  | none => s

/-! ### PLACE_QUERY (R196) -/

/-- Write amplification of the whole device in thousandths: last minute and since cold start. -/
def ampDevice (s : State) : Nat × Nat :=
  let sum := fun (f : Amp → Nat) => (s.media.amps.map fun p => f p.2).sum
  (ampOf (sum (·.lastProg)) (sum (·.lastHost)), ampOf s.media.progUnits s.media.hostUnits)

def countGroups (s : State) (f : Group → Bool) : Nat := (s.media.groups.filter fun p => f p.2).length

def Group.openNow (g : Group) : Bool := decide (g.st = .opened)

def placeDevice (s : State) : List Nat :=
  let dies := s.flash.dies
  [countGroups s Group.openNow, countGroups s Group.holds, (dies.filter fun p => p.2.slow).length,
   (dies.filter fun p => decide (p.2.mark = .retired)).length, countGroups s fun g => g.rebuild && g.holds,
   s.media.ages.length, (ampDevice s).1, (ampDevice s).2]

/-- The owner exists: an instance that is not FREE, or a PF. -/
def ownerExists (s : State) (o : Nat) : Bool := decide (2048 ≤ o) || (instAt s o).isSome

def placeOwner (s : State) (o : Nat) : List Nat :=
  if !ownerExists s o then []
  else
    let a := ampAt s o
    [countGroups s fun g => g.openNow && decide (g.owner = o), countGroups s fun g => g.holds && decide (g.owner = o),
     countGroups s fun g => g.holds && decide (g.owner = o) && decide (2 ≤ g.zones.length),
     ampOf a.lastProg a.lastHost, ampOf a.prog a.host, lo32 a.host, hi32 a.host, lo32 a.prog, hi32 a.prog, a.lastPad,
     a.mispred, a.lastCont]

/-- STATE of log 0xC1, 0 normal. -/
def DieMark.code : DieMark → Nat
  | .slow => 1
  | .slowRate => 2
  | .normal => 0
  | _ => 3

def placeDie (s : State) (d : Nat) : List Nat :=
  match tabGet s.flash.dies d with
  | none => []
  | some x =>
    let uses := countGroups s fun g => g.holds && g.uses d
    let low := match (if x.inUse then leastWorn s (d, x) else none) with
      | some b => b.1
      | none => 0
    [d + x.mark.code * 2 ^ 12 + x.cls * 2 ^ 16, x.rRead.last + x.rProg.last * 2 ^ 16, x.rErase.last, uses, if x.inUse then freeCount s (d, x) else 0,
     low, ((dieBlocks s d).map fun b => b.2.pe).foldl max 0, x.lastBackMin]

def queryIndexOk (q i : Nat) : Bool :=
  if q = 0 then decide (i = 0) else if q = 1 then decide (i ≤ 2049) else decide (i ≤ 4095)

def placeFault (r : Posted) : Option Nat :=
  if 2 < r.pw 0 then some 1 else if !queryIndexOk (r.pw 0) (r.pw 1) then some 2 else none

/-- Words to fifteen, the unlisted ones zero. -/
def words15 (l : List Nat) : List Nat := (l ++ List.replicate (15 - l.length) 0).map fun n => n % 2 ^ 32

def placeQuery (r : Posted) (s : State) : State :=
  replyOk r (words15 (if r.pw 0 = 0 then placeDevice s else if r.pw 0 = 1 then placeOwner s (r.pw 1) else placeDie s (r.pw 1))) s

def execPlaceQuery (s : State) : Host.Outcome State Fault Refusal :=
  act (scp 0x81 (Form.plain [2] false [(0, 0xFFFFFF00)]) placeFault placeQuery) s

end Sys2Proof.Machine
end

