-- ==== Sys2Proof/Machine/Owner.lean ====
section
/-! DEFINITION. What the requests of the two parties share: the manager's come by SCP, the owner's in an SPDM session
on a sideband link (R369, R384, R411). -/

namespace Sys2Proof.Machine

def updProt (f : ProtSt → ProtSt) (s : State) : State := { s with prot := f s.prot }

/-- Who is answered: the poster of an SCP request, or the owner on its session. -/
inductive Asker
  | scp (r : Posted)
  | owner
deriving DecidableEq, Repr

/-- A reply of an owner request: the payload words that SCP would return (R384). -/
def ownerReply (status : Nat) (words : List Nat) : State → State :=
  send (.owner status ((words.map fun w => le w 4).flatten))

def askReply (a : Asker) (status : Nat) (words : List Nat) : State → State :=
  match a with
  | .scp r => reply r status words
  | .owner => ownerReply status words

def askOk (a : Asker) (words : List Nat) : State → State := askReply a 0x00 words
def askRefused (a : Asker) (reason : Nat) : State → State := askReply a 0x04 [reason]
def askInvalid (a : Asker) (i : Nat) : State → State := askReply a 0x02 [i]
def askConflict (a : Asker) (kind holder : Nat) : State → State := askReply a 0x03 [kind + holder * 2 ^ 16]
def askAuth (a : Asker) : State → State := askReply a 0x06 []
def askBusy (a : Asker) : State → State := askReply a 0x01 []

/-- PENDING to a poster; ERROR ResponseNotReady to the owner, which collects its reply later (R85, R369). The spec gives no
SPDM response time: a request that SCP answers PENDING is taken to need longer (DESIGN CHOICE, log 62). -/
def askPending (a : Asker) : State → State :=
  match a with
  | .scp r => replyPending r
  | .owner => send (.spdmError 0x42)

/-- A reply waits for the owner to collect it. -/
def ownerLater (status : Nat) (words : List Nat) : State → State :=
  updProt fun t => { t with replies := t.replies ++ [(status, words)] }

/-- RESPOND_IF_READY: the oldest reply that waits, or ERROR ResponseNotReady. -/
def ownerCollect (s : State) : State :=
  match s.prot.replies with
  | [] => send (.spdmError 0x42) s
  | (st, w) :: rest => ownerReply st w (updProt (fun t => { t with replies := rest }) s)

/-- The final reply after `askPending`. -/
def askFinal (a : Asker) (status : Nat) (words : List Nat) : State → State :=
  match a with
  | .scp r => finalReply r.tag r.opcode status words
  | .owner => ownerLater status words

/-- Index of a field at byte `off` of a request's data: the block follows the message words (R545). -/
def askIndex (a : Asker) (off : Nat) : Nat :=
  match a with
  | .scp r => r.len + 1 + off / 4
  | .owner => 1 + off / 4

/-- SPDM ERROR, UnsupportedRequest (R369). -/
def spdmUnsupported : State → State := send (.spdmError 0x07)

/-- Owner requests are taken up: by the management core while it runs, by the ROM in the cellar; held in an activation
hold and not taken up in a flush (R77, R378, R408, R442). -/
def ownerOpen (s : State) : Bool :=
  booted s && !flushing s && (s.mgmt.running || s.fw.cellar) && s.fw.hold.isNone

/-- The session on a link, and whether its requester has authenticated. -/
def sessionOn (s : State) (l : Sideband) : Option Session := s.prot.sessions.find? fun x => decide (x.link = l)

/-- A request that wakes the device (R432). While the hall is stopped it is taken up after the exit, when its row is
given again. -/
def ownerWakes (body : State → State) (s : State) : State := if gated s then wake s else body (wake s)

/-- An owner request that wakes nothing (R432): refused outside a mutually authenticated session. -/
def ownerQuiet (l : Sideband) (body : State → State) (s : State) : State :=
  if !ownerOpen s then s
  else match sessionOn s l with
    | some x => if x.mutualAuth then body s else spdmUnsupported s
    | none => spdmUnsupported s

/-- An owner request that wakes the device. -/
def ownerRow (l : Sideband) (body : State → State) : State → State := ownerQuiet l (ownerWakes body)

/-- A claim request needs a secured session, which authenticates the device only (R370). -/
def ownerClaimRow (l : Sideband) (body : State → State) (s : State) : State :=
  if !ownerOpen s then s
  else match sessionOn s l with
    | some _ => body s
    | none => spdmUnsupported s

end Sys2Proof.Machine
end

