-- ==== Sys2Proof/Machine/Firmware.lean ====
section
/-! DEFINITION. Firmware images: verification, staging, activation, and the corridor (chapter Firmware, Configuration
and Calibration, R387 to R406, and R105). -/

namespace Sys2Proof.Machine

def updFw (f : FwSt → FwSt) (s : State) : State := { s with fw := f s.fw }

/-! ### Verification (R389) -/

/-- The revision code every image is bound to (R3, R538). -/
def revisionCode : Nat := 0x96400002

/-- The slot state of the first failing step of R389; none when the image passes. -/
def verifyFault (s : State) (i : Image) : Option SlotSt :=
  if !i.formed then some .malformed
  else if i.revision ≠ revisionCode then some .wrongRevision
  else if 3 < i.keyIndex ∨ !i.checks.keyOk ∨ !i.checks.signed then some .key
  else if i.secVer < s.fw.svMin then some .rolledBack
  else if !i.checks.tagOk ∨ !i.checks.digestsOk then some .decrypt
  else none

/-! ### Slots (R392, R393) -/

def slotAt (s : State) (n : Nat) : FwSlot := if n = 1 then s.fw.slot1 else s.fw.slot2

def updSlotAt (n : Nat) (f : FwSlot → FwSlot) : State → State :=
  updFw fun w => if n = 1 then { w with slot1 := f w.slot1 } else { w with slot2 := f w.slot2 }

def slotValid (s : State) (n : Nat) : Bool := decide ((slotAt s n).st = .valid)

/-! ### The configuration record's writes (R413) -/

/-- Write the record to the copy that is not the newest, SEQ one higher. A BOOT_SLOT it sets is in force for the next
start. -/
def writeCfg (f : Config412 → Config412) (s : State) : State :=
  let b := newestCfg s
  let r := { f b with seq := b.seq + 1 }
  let toB := match s.fw.copyA, s.fw.copyB with
    | some a, some c => decide (c.seq ≤ a.seq)
    | some _, none => true
    | none, _ => false
  let st := if s.fw.cfgState = 1 then 0 else s.fw.cfgState
  let cfg := { s.fw.cfg with bootSlot := r.bootSlot, seq := r.seq }
  updFw (fun w => { w with
    copyA := if toB then w.copyA else some r
    copyB := if toB then some r else w.copyB
    cfg := cfg
    cfgState := st }) s

/-! ### Refusals (R399) -/

/-- Count a refusal and keep its REASON. -/
def noteReason (k : Nat) (s : State) : State :=
  updRec (fun r => { r with fwRefusals := sat16 (r.fwRefusals + 1) }) (updFw (fun w => { w with lastReason := k }) s)

def stActivationProhibited : Status := mkStatus 1 0x13 true
def stFirmwareSlot : Status := mkStatus 1 0x06 true
def stFirmwareImage : Status := mkStatus 1 0x07 true

/-- The NVMe status of a reason. -/
def reasonStatus (k : Nat) : Status :=
  if k = 0x0306 then stSequenceError
  else if k = 0x0303 ∨ k = 0x0307 ∨ k = 0x0309 then stFirmwareSlot
  else stActivationProhibited

/-- The reported energy covers less than LB_SIZE. -/
def holdupLow (s : State) : Bool :=
  decide (holdupGiB s.fw.cfg.lbSize s.fw.cfg.holdupCap s.fw.cfg.lbSize s.power.energy < s.fw.cfg.lbSize)

/-- The three refusal states: FW_LOCK, hold-up low, data moving. -/
def stateReason (s : State) (lockCounts : Bool) : Option Nat :=
  if s.prot.fwLock ∧ lockCounts then some 0x0300
  else if holdupLow s then some 0x0301
  else if dataMoving s then some 0x0302
  else none

/-- An activation of the slot is scheduled or its hold runs. -/
def slotScheduled (s : State) (n : Nat) : Bool :=
  (match s.fw.sched with
   | some c => decide (c.slot = n)
   | none => false) ||
  (match s.fw.hold with
   | some h => decide (h.slot = n)
   | none => false)

/-- Another staging is in progress, or this path's is being written. -/
def stagingBusy (s : State) (p : Path) : Bool :=
  match s.fw.staging with
  | some g => decide (g.path ≠ p) || g.writing
  | none => false

/-- The reason that refuses a staging into `slot` on a path; a download names its slot only at the commit. -/
def stageReason (s : State) (p : Path) (slot : Option Nat) : Option Nat :=
  (stateReason s (!(decide (p = .owner) && s.fw.cellar))).or
    (if slot = some s.fw.running ∧ s.fw.running ≠ 0 then some 0x0303
     else if stagingBusy s p then some 0x0306
     else match slot with
       | some n => if slotScheduled s n then some 0x0309 else none
       | none => none)

/-! ### Outcomes along the corridor (R400, R406) -/

/-- This unit's outcome for an image, which goes to CORRIDOR_UP. -/
def setOutcome (imageId : Word) (st : Nat) (s : State) : State :=
  let h := s.frame.shelf
  if h.pos = 0xFF then s
  else
    let same := decide (s.fw.corrImage = imageId)
    let s := updFw (fun w => { w with
      corrImage := imageId, corrStates := tabSet (if same then w.corrStates else []) h.pos st }) s
    when h.upLink (send (.corridor false (.outcome h.pos st imageId))) s

/-- The container is sent to CORRIDOR_DOWN after its verification, if FORWARD allows (R400). -/
def forwardImage (i : Image) (s : State) : State :=
  if s.prot.forward ∧ s.frame.shelf.downLink then
    let c := clk s
    send (.corridor true (.image i)) (updFw (fun w => { w with transfer := some { image := i, tries := 0, retryAt := some (c + 500000) } }) s)
  else s

/-- A message for the units downstream. -/
def forwardMsg (m : CorrMsg) (s : State) : State :=
  when (s.prot.forward && s.frame.shelf.downLink) (send (.corridor true m)) s

/-! ### Staging (R397, R398, R400) -/

/-- The slot that corridor and owner stagings go to. -/
def stagingTarget (s : State) : Nat :=
  if s.fw.cellar then
    if !slotValid s 1 then 1 else if !slotValid s 2 then 2 else 3 - (newestCfg s).bootSlot
  else 3 - s.fw.running

/-- A container that fails R389 is not staged; the slot state records the failing step. -/
def stageFails (slot : Nat) (st : SlotSt) (s : State) : State :=
  updSlotAt slot (fun k => { k with st := st })
    (updFw (fun w => { w with staging := none, act := if w.act = .staging then .none else w.act }) s)

/-- Both copies of the slot are erased and the verified container is written to them. -/
def beginWrite (g : Staging) (i : Image) (s : State) : State :=
  let s := updSlotAt g.slot (fun _ => { st := .writing, image := none, copy0 := false, copy1 := false, prepared := false }) s
  let s := forEach [2 * (g.slot - 1), 2 * (g.slot - 1) + 1] eraseSlot s
  let s := updFw (fun w => { w with staging := some { g with writing := true, image := some i }, act := .staging }) s
  when g.forward (forwardImage i) s

/-- The whole container is in the staging buffer: it is verified, and written if it passes. `bad` answers one that
fails. -/
def endStaging (g : Staging) (checks : ImageChecks) (bad : State → State) (s : State) : State :=
  let i : Image := { bytes := g.data, checks := checks }
  match verifyFault s i with
  | some st => bad (setOutcome i.imageId 5 (stageFails g.slot st s))
  | none => beginWrite g i s

/-- Bytes received by the staging in progress on a path. -/
def received (s : State) (p : Path) : Nat :=
  match s.fw.staging with
  | some g => if g.path = p ∧ !g.writing then g.data.length else 0
  | none => 0

/-- A chunk at `off` is taken: 0 restarts the staging, else it continues what the path has sent. -/
def takeChunk (p : Path) (slot off : Nat) (b : List Byte) (forward : Bool) (s : State) : Staging × State :=
  let had := match s.fw.staging with
    | some g => if off = 0 then [] else g.data
    | none => []
  let g : Staging := { path := p, slot := slot, data := had ++ b, forward := forward, image := none, writing := false,
                       tag := none, item := none }
  (g, updFw (fun w => { w with staging := some g, act := .staging }) s)

/-- An offset that is neither 0 nor the number of bytes received so far, or a total beyond 48 MiB. -/
def offsetBad (s : State) (p : Path) (off len : Nat) : Bool :=
  decide (off ≠ 0 ∧ off ≠ received s p) || decide (50331648 < off + len)

/-- A chunk of FW_STAGE. -/
def stageChunk (a : Asker) (p : Path) (slot off : Nat) (b : List Byte) (last forward : Bool) (checks : ImageChecks) (s : State) :
    State :=
  let (g, s) := takeChunk p slot off b forward s
  if !last then askOk a [g.data.length] s
  else
    let g := { g with tag := match a with
      | .scp r => some r.tag
      | .owner => none }
    endStaging g checks (askFinal a 0x06 []) (askPending a s)

def stageFault (r : Posted) : Option Nat :=
  if r.pw 4 % 4 = 0 ∨ r.pw 4 % 4 = 3 then some 5 else none

def fwStageScp (dma : Dma) (checks : ImageChecks) (r : Posted) (s : State) : State :=
  let slot := r.pw 4 % 4
  if offsetBad s .manager (r.pw 5) r.descLen then replyInvalid r 6 s
  else match stageReason s .manager (some slot) with
    | some k => replyRefused r k (noteReason k s)
    | none =>
      descRead r dma (fun b s =>
        stageChunk (.scp r) .manager slot (r.pw 5) b (bitOf (r.pw 4) 8) (bitOf (r.pw 4) 9) checks s) s

/-- Owner FW_STAGE (R411): OFFSET, flags and a chunk of 4,096 bytes. -/
def fwStageOwner (payload : List Byte) (checks : ImageChecks) (s : State) : State :=
  let off := fieldAt payload 0 4
  let flags := byteAt payload 4
  let slot := stagingTarget s
  if payload.length ≠ 4101 then askInvalid .owner 0 s
  else if 3 < flags then askInvalid .owner 2 s
  else if offsetBad s .owner off 4096 then askInvalid .owner 1 s
  else match stageReason s .owner (some slot) with
    | some k => askRefused .owner k (noteReason k s)
    | none => stageChunk .owner .owner slot off (payload.drop 5) (bitOf flags 0) (bitOf flags 1) checks s

def execFwStage (via : Via) (checks : ImageChecks) (s : State) : Host.Outcome State Fault Refusal :=
  act (match via with
    | .scp dma => scp 0x30
        { lens := [6], desc := some (false, []), mgr := true, lenOk := fun r => decide (r.descLen % 4096 = 0),
          rsv := [(4, 0xFFFFFCFC)] }
        stageFault (fwStageScp dma checks)
    | .owner l payload => ownerRow l (fwStageOwner payload checks)) s

/-- What a finished staging answers on its path. -/
def stagedReply (g : Staging) (i : Image) (s : State) : State :=
  match g.path with
  | .manager => match g.tag with
    | some t => finalReply t 0x30 0x00 [i.imageId.toNat] s
    | none => s
  | .owner => ownerLater 0x00 [g.data.length, i.imageId.toNat] s
  | .download => match g.item with
    | some n => finishOk n s
    | none => s
  | .corridor => s

/-- Both copies are written: the slot is valid. In the cellar the record names it first (R409). -/
def stageWritten (s : State) : State :=
  match s.fw.staging with
  | none => s
  | some g =>
    match g.writing, g.image with
    | true, some i =>
      let s := updSlotAt g.slot (fun _ => { st := .valid, image := some i, copy0 := true, copy1 := true, prepared := false }) s
      let s := updFw (fun w => { w with staging := none, act := .none }) s
      let c := clk s
      let s := if s.fw.cellar then
        updFw (fun w => { w with stagedAt := some c }) (writeCfg (fun r => { r with bootSlot := g.slot }) s) else s
      stagedReply g i (setOutcome i.imageId 1 s)
    | _, _ => s

def execFwStageWritten (s : State) : Host.Outcome State Fault Refusal := act (when (ctrlRuns s) stageWritten) s

/-! ### Firmware Image Download and Firmware Commit (R103, R105) -/

def imageDownload (dma : Dma) (it : Item) (s : State) : State :=
  let len := 4 * (it.sqe.cdw10.toNat + 1)
  let off := 4 * it.sqe.cdw11.toNat
  if len % 4096 ≠ 0 ∨ off % 4096 ≠ 0 ∨ offsetBad s .download off len then finishBad it.seq stInvalidField s
  else match stageReason s .download none with
    | some k => finishBad it.seq (reasonStatus k) (noteReason k s)
    | none =>
      if dma.linkFails then finishBad it.seq stDataTransfer s
      else finishOk it.seq (takeChunk .download 0 off (padTo len dma.bytes) false s).2

def execFirmwareImageDownload (id : CmdId) (bytes : List Byte) (failAt : Option DmaCut) (s : State) :
    Host.Outcome State Fault Refusal :=
  act (admin 0x11 .manager (imageDownload { bytes := bytes, failAt := failAt }) id) s

/-- Commit action and firmware slot of a Firmware Commit. -/
def commitAction (it : Item) : Nat := dw it.sqe.cdw10 5 3
def commitSlot (s : State) (it : Item) : Nat :=
  if dw it.sqe.cdw10 2 0 = 0 then 3 - max 1 s.fw.running else dw it.sqe.cdw10 2 0

/-- The command's staging or schedule is under way. -/
def commitRuns (s : State) (seq : Nat) : Bool :=
  (match s.fw.staging with
   | some g => decide (g.item = some seq)
   | none => false) ||
  (match s.fw.sched with
   | some c => decide (c.item = some seq)
   | none => false) ||
  (match s.fw.hold with
   | some h => decide (h.item = some seq)
   | none => false)

/-- Action 000b: the downloaded image is verified and written to the slot. -/
def commitReplace (checks : ImageChecks) (it : Item) (s : State) : State :=
  let slot := commitSlot s it
  if commitAction it ≠ 0 ∨ commitRuns s it.seq then s
  else if 2 < slot then finishBad it.seq stFirmwareSlot s
  else match stageReason s .download (some slot) with
    | some k => finishBad it.seq (reasonStatus k) (noteReason k s)
    | none =>
      match s.fw.staging with
      | none => finishBad it.seq stSequenceError s
      | some g => endStaging { g with slot := slot, item := some it.seq } checks (finishBad it.seq stFirmwareImage) s

def execFirmwareCommitReplace (cmd : CommitCmd) (s : State) : Host.Outcome State Fault Refusal :=
  act (admin 0x10 .manager (commitReplace cmd.checks) cmd.id) s

/-! ### Schedules (R399, R401, R405) -/

/-- The schedule goes: what waits for its preparation or its hold is answered. -/
def dropSched (reason : Nat) (s : State) : State :=
  match s.fw.sched with
  | none => s
  | some c =>
    let s := updFw (fun w => { w with sched := none }) s
    let s := match c.tag with
      | some t => if c.prepared then s else finalReply t 0x31 0x04 [reason] s
      | none => s
    match c.item with
    | some n => finishBad n (reasonStatus reason) s
    | none => s

/-- The reason that refuses a schedule of `slot` whose image must be `imageId`. -/
def scheduleReason (s : State) (slot : Nat) (imageId : Option Word) : Option Nat :=
  let ok := match (slotAt s slot).image with
    | some i => slotValid s slot && (match imageId with
        | some w => decide (i.imageId = w)
        | none => true)
    | none => false
  (stateReason s true).or (if !ok then some 0x0307 else if 3 ≤ s.power.ps then some 0x0308 else none)

/-- A schedule is taken, replacing one that has not started, and its slot is being prepared. -/
def takeSched (c : Sched) (s : State) : State :=
  updFw (fun w => { w with sched := some c, act := .preparing }) (dropSched 0x0305 s)

def imageIdOf (s : State) (slot : Nat) : Word :=
  match (slotAt s slot).image with
  | some i => i.imageId
  | none => 0

def scheduleFault (r : Posted) : Option Nat :=
  if r.pw 0 % 4 = 0 ∨ r.pw 0 % 4 = 3 then some 1 else none

/-- FW_SCHEDULE; `copyOk` says that a copy of the slot passes R389 when it is prepared. -/
def fwSchedule (copyOk : Bool) (r : Posted) (s : State) : State :=
  let slot := r.pw 0 % 4
  let chain := bitOf (r.pw 0) 8
  let f := r.pw64 1
  if f < now s + 524288 ∨ now s + 2 ^ 31 < f then replyInvalid r 2 s
  else match scheduleReason s slot (some (wordOf (r.pw 3))) with
    | some k => replyRefused r k (noteReason k s)
    | none =>
      let s := replyPending r s
      let s := when chain (forwardMsg (.schedule (wordOf (r.pw 3)) f)) s
      if !copyOk then finalReply r.tag 0x31 0x04 [0x0307] (noteReason 0x0307 s)
      else takeSched { slot := slot, scope := chain, frame := f, imageId := wordOf (r.pw 3), asap := false, prepared := false,
                       tag := some r.tag, item := none } s

def execFwSchedule (copyOk : Bool) (s : State) : Host.Outcome State Fault Refusal :=
  act (scp 0x31 (Form.plain [4] true [(0, 0xFFFFFEFC)]) scheduleFault (fwSchedule copyOk)) s

/-- Action 011b: a schedule of this unit whose frame is the first boundary after preparation. -/
def commitActivate (copyOk : Bool) (it : Item) (s : State) : State :=
  let slot := commitSlot s it
  if commitAction it ≠ 3 ∨ commitRuns s it.seq then s
  else if 2 < slot then finishBad it.seq stFirmwareSlot s
  else match (scheduleReason s slot none).or (if copyOk then none else some 0x0307) with
    | some k => finishBad it.seq (reasonStatus k) (noteReason k s)
    | none =>
      takeSched { slot := slot, scope := false, frame := 0, imageId := imageIdOf s slot, asap := true, prepared := false,
                  tag := none, item := some it.seq } s

def execFirmwareCommitActivate (id : CmdId) (copyOk : Bool) (s : State) : Host.Outcome State Fault Refusal :=
  act (admin 0x10 .manager (commitActivate copyOk) id) s

/-- Preparation ends: the slot holds its plaintext copy. -/
def prepareDone (s : State) : State :=
  match s.fw.sched with
  | none => s
  | some c =>
    if c.prepared then s
    else
      let a := if c.asap then now s + 1 else c.frame
      let s := updSlotAt c.slot (fun k => { k with prepared := true }) s
      let s := updFw (fun w => { w with sched := some { c with prepared := true, frame := a }, act := .scheduled }) s
      let s := when c.scope (setOutcome c.imageId 2) s
      match c.tag with
      | some t => finalReply t 0x31 0x00 [] s
      | none => s

def execFwPrepareDone (s : State) : Host.Outcome State Fault Refusal := act (when (ctrlRuns s) prepareDone) s

/-- A schedule is cancelled with `reason` for what waits on it. -/
def cancelSched (reason : Nat) (s : State) : State :=
  if s.fw.sched.isNone then s else updFw (fun w => { w with act := .cancelled }) (dropSched reason s)

def fwCancel (r : Posted) (s : State) : State :=
  if s.fw.sched.isNone then replyRefused r 0x0305 (noteReason 0x0305 s)
  else
    let s := when (bitOf (r.pw 0) 0) (forwardMsg .cancel) s
    replyOk r [] (cancelSched 0x0305 s)

def execFwCancel (s : State) : Host.Outcome State Fault Refusal :=
  act (scp 0x32 (Form.plain [1] true [(0, 0xFFFFFFFE)]) (fun _ => none) fwCancel) s

/-! ### The activation hold (R402 to R404) -/

/-- The reason that keeps a due activation from starting, in the order of R402. -/
def startReason (s : State) (c : Sched) : Option Nat :=
  (stateReason s true).or
    (if c.scope ∧ s.frame.shelf.lock ≠ .master ∧ s.frame.shelf.lock ≠ .locked then some 0x0304
     else if !slotValid s c.slot ∨ imageIdOf s c.slot ≠ c.imageId ∨ !(slotAt s c.slot).prepared ∨ !c.prepared then some 0x0307
     else none)

/-- The commands fetched and not started are held at the porch (R123); Aborts and Asynchronous Event Requests are
accepted throughout (R124), and the Firmware Commit that activates waits for its own outcome. -/
def holdPorch (s : State) : State :=
  let mine := s.fw.hold.bind (·.item)
  updItems (fun l => l.map fun it =>
    let idle := if it.io then !it.running else it.unparsed && decide (it.opc ≠ 0x08) && decide (it.opc ≠ 0x0C)
    if idle ∧ it.outcome.isNone ∧ some it.seq ≠ mine then { it with held := true } else it) s

/-- Step 4 of R47 for a scheduled activation: at or after frame A it starts, or it does not and the image stays
staged. -/
def startActivation (s : State) : State :=
  match s.fw.sched with
  | none => s
  | some c =>
    if now s < c.frame ∨ (c.asap ∧ !c.prepared) ∨ s.fw.cellar then s
    else match startReason s c with
      | some k =>
        let s := updFw (fun w => { w with act := .notStarted }) (dropSched k (noteReason k s))
        setOutcome c.imageId (if k = 0x0304 then 6 else 4) s
      | none =>
        let h : Hold2 := { slot := c.slot, from_ := clk s, recordWritten := false, switched := false, ready := false, item := c.item }
        let s := holdPorch (updFw (fun w => { w with sched := none, hold := some h, act := .holding }) s)
        forEach (functions s) notifyActivation s

def updHold (f : Hold2 → Hold2) : State → State := updFw fun w => { w with hold := w.hold.map f }

/-- The handover record is in DRAM; the components are copied, and the management core restarts (R402). -/
def handoverWritten (s : State) : State :=
  when (s.fw.hold.isSome && s.mgmt.running) mgmtStop (updHold (fun h => { h with recordWritten := true }) s)

def execHandoverRecordWritten (s : State) : Host.Outcome State Fault Refusal := act (when (hallRuns s) handoverWritten) s

/-- Every engine switches to its new microcode, after the components have been copied: the management core runs again by
then. -/
def microcodeSwitch (s : State) : State :=
  let go : Bool := match s.fw.hold with
    | some h => h.recordWritten
    | none => false
  when go mgmtRestart (updHold (fun h => { h with switched := h.switched || h.recordWritten }) s)

def execEngineMicrocodeSwitch (s : State) : Host.Outcome State Fault Refusal := act (when (hallRuns s) microcodeSwitch) s

/-- Handover ready is stamped; one stamped after the hold's last counting frame comes too late. -/
def handoverReady (s : State) : State :=
  let c := clk s
  match s.fw.hold with
  | none => s
  | some h =>
    if h.ready ∨ !h.switched ∨ fired h.from_ 999 c then s
    else updHold (fun h => { h with ready := true }) (noteTie h.from_ 999 s)

def execHandoverReady (s : State) : Host.Outcome State Fault Refusal := act (when (hallRuns s) handoverReady) s

/-- Components that wait for the next cold start: PHYs, but for a flash PHY with HOT. -/
def pendingComps (i : Image) : List Nat := i.comps.filter fun t => decide (0x10 ≤ t) && !(decide (t = 0x12) && i.hot)

/-- Commands held at the porch. -/
def heldItems (s : State) : List Item :=
  s.host.items.filter fun it => it.held && !it.isAer && it.outcome.isNone

/-- A reset of the function's instance takes effect in the frame that begins (R347). -/
def resetNow (s : State) (fn : Nat) : Bool :=
  match (tabGet s.inst.insts fn).bind (·.resetDue) with
  | some f => decide (f < clk s)
  | none => false

/-- The hold has ended: what it held may be parsed, in fetch order per submission queue (R124). -/
def releaseHeld (s : State) : State :=
  let s := { s with host := { s.host with
    porch := (s.host.items.filter fun it => it.held && it.unparsed).map (·.seq) } }
  updItems (fun l => l.map fun it => { it with held := false }) s

/-- The length of a hold that ends now. -/
def holdEnds (h : Hold2) (s : State) : State :=
  let n := clk s - h.from_
  updFw (fun w => { w with hold := none, lastHold := n, longestHold := max w.longestHold n }) s

/-- The boundary after handover ready: the activated slot runs, and the record names it. -/
def finishHold (s : State) : State :=
  match s.fw.hold with
  | none => s
  | some h =>
    if !h.ready then s
    else
      let i := (slotAt s h.slot).image
      let c := clk s
      let s := updFw (fun w => { w with
        running := h.slot, image := i, began := c, act := .none
        pendComps := match i with
          | some i => pendingComps i
          | none => [] }) (holdEnds h s)
      let s := recEvent 0x07 (releaseHeld s)
      let s := writeCfg (fun r => { r with bootSlot := h.slot }) s
      let s := match i with
        | some i => setOutcome i.imageId 3 s
        | none => s
      reopen (match h.item with
        | some n => finishOk n s
        | none => s)

/-- The hold expires without a handover: held commands end with 0x84, but for those of an instance that is reset at this
boundary, which are left to the reset (R492); fetch pauses, the running image is restored. -/
def holdExpiry (s : State) : State :=
  match s.fw.hold with
  | none => s
  | some h =>
    if h.ready ∨ !fired h.from_ 999 (clk s) then s
    else
      let held := (heldItems s).filter fun it => !resetNow s it.id.fn
      let s := forEach held (fun it s => failItem it.seq stHoldExpired s) s
      let s := match h.item with
        | some n => finishBad n stHoldExpired s
        | none => s
      let (k, s) := drawNat s
      let c := clk s
      let s := updFw (fun w => { w with act := .expired, expiryAt := some (c + k % 500 + 1) }) (holdEnds h s)
      let s := updSlotAt h.slot (fun k => { k with st := .handoverFailed, prepared := false }) s
      reopen (mgmtRestart (recEvent 0x06 (setOutcome (imageIdOf s h.slot) 7 (releaseHeld s))))

def execActivationHoldExpiry (s : State) : Host.Outcome State Fault Refusal := act (when (hallRuns s) holdExpiry) s

/-- Fetch resumes within 500 frames of an expiry. -/
def resumeAfterExpiry (s : State) : State :=
  match s.fw.expiryAt with
  | some f => if f ≤ clk s then updFw (fun w => { w with expiryAt := none }) s else s
  | none => s

/-! ### SV_MIN (R391) -/

/-- An image in the other slot below SV_MIN fails step 5 from now on. -/
def rollBack (n : Nat) (s : State) : State :=
  match (slotAt s n).image with
  | some i => if i.secVer < s.fw.svMin ∧ n ≠ s.fw.running ∧ (slotAt s n).st = .valid then
      updSlotAt n (fun k => { k with st := .rolledBack, prepared := false }) s else s
  | none => s

/-- The running image has run for 1,800,000,000 frames. -/
def svMinRaise (s : State) : State :=
  match s.fw.image with
  | none => s
  | some i =>
    if clk s < s.fw.began + 1800000000 ∨ i.secVer ≤ s.fw.svMin then s
    else rollBack 2 (rollBack 1 (updFw (fun w => { w with svMin := i.secVer }) s))

def execSvMinRaise (s : State) : Host.Outcome State Fault Refusal := act (when (hallRuns s) svMinRaise) s

/-! ### FW_STATUS (R406) -/

def SlotSt.code : SlotSt → Nat
  | .empty => 0
  | .valid => 1
  | .malformed => 2
  | .wrongRevision => 3
  | .key => 4
  | .rolledBack => 5
  | .decrypt => 6
  | .handoverFailed => 7
  | .writing => 8

def ActState.code : ActState → Nat
  | .none => 0
  | .staging => 1
  | .preparing => 2
  | .scheduled => 3
  | .holding => 4
  | .notStarted => 5
  | .expired => 6
  | .cancelled => 7

/-- FW_VERSION of a slot, 0 for an invalid slot. -/
def slotVersion (k : FwSlot) : Nat :=
  match k.image with
  | some i => if k.st = .valid ∨ k.st = .handoverFailed then i.version else 0
  | none => 0

def fwWords0 (s : State) : List Nat :=
  let w := s.fw
  let sec := match w.image with
    | some i => i.secVer
    | none => 0
  let a := match w.sched with
    | some c => c.frame
    | none => 0
  let bytes := match w.staging with
    | some g => g.data.length
    | none => 0
  [w.running + (newestCfg s).bootSlot * 2 ^ 2 + w.act.code * 2 ^ 8 + w.lastReason * 2 ^ 16, runningVersion s,
   slotVersion w.slot1, slotVersion w.slot2, w.slot1.st.code + w.slot2.st.code * 2 ^ 8 + w.svMin * 2 ^ 16,
   sec + ((w.pendComps.filter fun t => decide (0x10 ≤ t ∧ t ≤ 0x13)).map fun t => 2 ^ (16 + (t - 0x10))).sum, lo32 a, hi32 a,
   sat16 w.lastHold + sat16 w.longestHold * 2 ^ 16, bytes,
   w.cellarCause + sat8 w.corrRefusals * 2 ^ 8 + w.cfgState * 2 ^ 16 + w.calState * 2 ^ 24]

/-- Eight corridor positions' states in a word. -/
def corrWord (s : State) (i : Nat) : Nat :=
  ((List.range 8).map fun j => tabGetD s.fw.corrStates (8 * i + j) 0 * 16 ^ j).sum

def fwWords1 (s : State) : List Nat := (List.range 4).map (corrWord s) ++ [s.fw.corrImage.toNat]

def fwStatusWords (s : State) (q : Nat) : List Nat := words15 (if q = 0 then fwWords0 s else fwWords1 s)

def execFwStatus (via : Via) (s : State) : Host.Outcome State Fault Refusal :=
  act (match via with
    | .scp _ => scp 0x33 (Form.plain [1] false [(0, 0xFFFFFF00)]) (fun r => if 1 < r.pw 0 then some 1 else none)
        (fun r s => replyOk r (fwStatusWords s (r.pw 0)) s)
    | .owner l payload => ownerQuiet l fun s =>
        if 1 < byteAt payload 0 ∨ payload.length ≠ 1 then askInvalid .owner 1 s
        else askOk .owner (fwStatusWords s (byteAt payload 0)) s) s

/-! ### The corridor (R367, R400, R401, R405) -/

/-- An image or schedule refused because ACCEPT_IMAGES is 0. -/
def corrRefuse (imageId : Word) (s : State) : State :=
  setOutcome imageId 4 (recEvent 0x1B (updFw (fun w => { w with corrRefusals := sat8 (w.corrRefusals + 1) }) s))

/-- An image has arrived whole on CORRIDOR_UP. A unit in a refusal state does not stage it and still forwards it. -/
def imageArrival (i : Image) (fwd : Bool) (s : State) : State :=
  if !ctrlRuns s ∨ !s.frame.shelf.upLink then s
  else if !s.prot.acceptImages then corrRefuse i.imageId s
  else if stagingBusy s .corridor ∨ s.fw.staging.isSome then send (.corridor false .busy) (noteReason 0x0306 s)
  else
    let slot := stagingTarget s
    let g : Staging := { path := .corridor, slot := slot, data := i.bytes, forward := fwd, image := none, writing := false,
                         tag := none, item := none }
    match stageReason s .corridor (some slot) with
    | some k =>
      match verifyFault s i with
      | some st => setOutcome i.imageId 5 (stageFails slot st s)
      | none => setOutcome i.imageId 4 (noteReason k (when fwd (forwardImage i) s))
    | none => endStaging g i.checks id s

def execCorridorImageArrival (i : Image) (forward : Bool) (s : State) : Host.Outcome State Fault Refusal :=
  act (imageArrival i forward) s

/-- The sender tries again 500,000 frames after a busy answer, up to 8 times; `accepted` is the receiver's answer. -/
def forwardRetry (accepted : Bool) (s : State) : State :=
  match s.fw.transfer with
  | none => s
  | some t =>
    match t.retryAt with
    | none => s
    | some f =>
      if !ctrlRuns s ∨ clk s < f ∨ !s.frame.shelf.downLink then s
      else
        let n := t.tries + 1
        let t' : Transfer := { t with tries := n, retryAt := some (f + 500000) }
        send (.corridor true (.image t.image)) (updFw (fun w => { w with transfer := if accepted ∨ 8 ≤ n then none else some t' }) s)

def execCorridorForwardRetry (accepted : Bool) (s : State) : Host.Outcome State Fault Refusal := act (forwardRetry accepted) s

/-- The slot whose valid image has an IMAGE_ID. -/
def slotOfImage (s : State) (w : Word) : Option Nat :=
  [1, 2].find? fun n => slotValid s n && decide (imageIdOf s n = w)

/-- A schedule arrives on CORRIDOR_UP and goes on downstream. -/
def scheduleArrival (imageId : Word) (f : Nat) (s : State) : State :=
  if !ctrlRuns s ∨ !s.frame.shelf.upLink then s
  else if !s.prot.acceptImages then corrRefuse imageId s
  else
    let s := forwardMsg (.schedule imageId f) s
    match slotOfImage s imageId with
    | none => setOutcome imageId 4 (noteReason 0x0307 s)
    | some n =>
      if s.fw.hold.isSome ∨ s.fw.cellar then setOutcome imageId 4 s
      else match scheduleReason s n (some imageId) with
        | some k => setOutcome imageId 4 (noteReason k s)
        | none =>
          takeSched { slot := n, scope := true, frame := f, imageId := imageId, asap := false, prepared := false, tag := none,
                      item := none } s

def execCorridorScheduleArrival (imageId : Word) (frame : Nat) (s : State) : Host.Outcome State Fault Refusal :=
  act (scheduleArrival imageId frame) s

/-- A cancel arrives: after this unit's start it is refused here, which is reported upstream. -/
def cancelArrival (s : State) : State :=
  if !ctrlRuns s ∨ !s.frame.shelf.upLink then s
  else
    let s := forwardMsg .cancel s
    match s.fw.hold, s.fw.sched with
    | some h, _ => setOutcome (imageIdOf s h.slot) 4 (noteReason 0x0305 s)
    | none, some c => setOutcome c.imageId 1 (cancelSched 0x0305 s)
    | none, none => noteReason 0x0305 s

def execCorridorCancelArrival (s : State) : Host.Outcome State Fault Refusal := act cancelArrival s

/-- The outcome of a unit downstream arrives on CORRIDOR_DOWN and is relayed up; a transfer to the next unit has
ended with it. -/
def outcomeRelay (pos st : Nat) (imageId : Word) (s : State) : State :=
  let h := s.frame.shelf
  if !ctrlRuns s ∨ !h.downLink ∨ 31 < pos then s
  else
    let same := decide (s.fw.corrImage = imageId)
    let s := updFw (fun w => { w with
      corrImage := imageId, corrStates := tabSet (if same then w.corrStates else []) pos (st % 16)
      transfer := if pos = h.pos + 1 then none else w.transfer }) s
    when h.upLink (send (.corridor false (.outcome pos (st % 16) imageId))) s

def execCorridorOutcomeRelay (pos state : Nat) (imageId : Word) (s : State) : Host.Outcome State Fault Refusal :=
  act (outcomeRelay pos state imageId) s

end Sys2Proof.Machine
end

