-- ==== Sys2Proof/Machine/Protect.lean ====
section
/-! DEFINITION. Two-party changes of the protected objects, and the owner (chapter Protection Set-up and Two-Party
Changes). -/

namespace Sys2Proof.Machine

/-! ### Change records (R372) -/

/-- A change record from its 64 bytes. -/
def changeOf (b : List Byte) : Change :=
  { cls := byteAt b 0, op := byteAt b 1, index := fieldAt b 2 2, value := BitVec.ofNat 320 (fieldAt b 8 40),
    rsvd := fieldAt b 4 4 + fieldAt b 48 16 * 2 ^ 32 }

def changeBytes (c : Change) : List Byte :=
  le c.cls 1 ++ le c.op 1 ++ le c.index 2 ++ le (c.rsvd % 2 ^ 32) 4 ++ bvBytes c.value ++ le (c.rsvd / 2 ^ 32) 16

/-- Byte `i` of a record's VALUE field, counted from the record's first byte. -/
def Change.byte (c : Change) (i : Nat) : Nat := c.value.toNat / 256 ^ (i - 8) % 256

/-- KEY_OWNER and KCV of an INJECT. -/
def Change.keyOwner (c : Change) : Nat := c.value.toNat % 2 ^ 16
def Change.kcv (c : Change) : BitVec 128 := (c.value >>> 64).setWidth 128

def Change.inject (c : Change) : Bool := decide (c.cls = 2) && decide (c.op = 1)
def Change.clear (c : Change) : Bool := decide (c.cls = 2) && decide (c.op = 2)

/-- INDEX is one that the class has. -/
def indexOk (cls i : Nat) : Bool :=
  if cls = 1 then decide (i ≤ 2047) || decide (i = 0xFFFF) else if cls = 2 then decide (i ≤ 4095) else decide (i = 0)

/-- Bytes of VALUE that carry a field. -/
def valueBytes (cls op : Nat) : List Nat :=
  if cls = 1 then [8, 9, 10]
  else if cls = 2 then (if op = 1 then [8, 9] ++ List.range' 16 16 else [])
  else [8]

/-- The largest value of byte 8 of a one-byte VALUE. -/
def valueMax (cls : Nat) : Nat := if cls = 4 then 7 else if cls = 6 then 3 else 1

def valueChecks (c : Change) : List (Nat × Bool) :=
  (if c.cls = 1 then [(8, decide (1 < c.byte 8)), (9, decide (2 < c.byte 9)), (10, decide (1 < c.byte 10))]
   else if c.cls = 2 then [(8, c.inject && decide (2049 < c.keyOwner))]
   else [(8, decide (valueMax c.cls < c.byte 8))]) ++
  (((List.range' 8 40).filter fun i => !(valueBytes c.cls c.op).contains i).map fun i => (i, decide (c.byte i ≠ 0)))

/-- Order 3 of R375 for a record: the offset of a field out of range. -/
def changeFault (c : Change) : Option Nat :=
  firstFault ([(0, decide (c.cls = 0 ∨ 6 < c.cls)), (1, !(decide (c.op = 1) || c.clear)), (2, !indexOk c.cls c.index),
    (4, decide (c.rsvd % 2 ^ 32 ≠ 0))] ++ valueChecks c ++ [(48, decide (c.rsvd / 2 ^ 32 ≠ 0))])

/-! ### Conditions on key slots (R375 orders 6 and 7) -/

/-- A unit of the namespace is mapped. -/
def nsMapped (s : State) (x : Nat) : Bool :=
  (s.media.landing.any fun e => decide (e.nsx = x)) || (s.media.pageMap.any fun p => decide (p.1 / 2 ^ 40 = x)) ||
  s.zone.zones.any fun p => decide (p.2.nsx = x) && !p.2.exts.isEmpty

/-- A namespace of the slot's owner holds a mapped unit. -/
def slotInUse (s : State) (k : Nat) : Bool :=
  s.zone.nss.any fun p => decide (slotOf s p.2.owner = k) && nsMapped s p.1

/-- The slot is assigned to an instance that is not FREE, or to a PF. -/
def slotAssigned (s : State) (k : Nat) : Bool :=
  (s.inst.insts.any fun p => decide (p.2.slot = k)) || decide (slotOf s 2048 = k) || decide (slotOf s 2049 = k)

/-- The reason that keeps a KEY record from being accepted or applied. -/
def keyRefusal (s : State) (c : Change) : Option Nat :=
  if c.cls ≠ 2 then none
  else if slotInUse s c.index then some 0x0204
  else if c.clear ∧ slotAssigned s c.index then some 0x0206
  else none

/-- The feature that holds the UART balls against a DEBUG record (R372). -/
def ballConflict (s : State) (c : Change) : Option Nat :=
  if c.cls ≠ 4 then none
  else if !bitOf s.fw.cfg.balls 1 ∧ bitOf (c.byte 8) 1 then some 3
  else if bitOf s.fw.cfg.balls 1 ∧ bitOf (c.byte 8) 2 then some 4
  else none

/-! ### Proposals (R373, R374) -/

def Party.code : Party → Nat
  | .manager => 1
  | .owner => 2

/-- DIGEST over the record, NONCE, PROPOSER and PROPOSED_FRAME. -/
def digestOf (c : Change) (nonce : Quad) (p : Party) (f : Nat) : BitVec 384 :=
  Config.sha384 (changeBytes c ++ bvBytes nonce ++ le p.code 1 ++ le f 8)

/-- KCV of a key: the first 16 bytes of its SHA-384. -/
def kcvOf (k : BitVec 512) : BitVec 128 := (Config.sha384 (bvBytes k)).setWidth 128

def pendingOf (s : State) (cls : Nat) : Option Proposal := tabGet s.prot.pending cls

/-- A pending proposal ends with an outcome; an inactive key candidate is erased with it. -/
def endProposal (cls : Nat) (o : Outc) : State → State :=
  updProt fun p => { p with pending := tabDel p.pending cls, outcomes := tabSet p.outcomes cls o }

/-- The deadline has passed with no confirmation: it fires at the boundary after the last counting frame. -/
def expireProposal (cls : Nat) (s : State) : State :=
  match pendingOf s cls with
  | some p => if fired p.armed (2 ^ 27) (clk s) then endProposal cls .expired s else s
  | none => s

def execProtProposalExpiry (cls : Nat) (s : State) : Host.Outcome State Fault Refusal :=
  act (when (booted s) (expireProposal cls)) s

/-- Words of a digest, byte 0 in bits [7:0] of the first. -/
def digestWords (d : BitVec 384) : List Nat := (List.range 12).map fun i => d.toNat / 2 ^ (32 * i) % 2 ^ 32

/-- A record is proposed by a party; `key` is the key of an INJECT. -/
def propose (a : Asker) (by_ : Party) (c : Change) (key : Option (BitVec 512)) (s : State) : State :=
  let s := expireProposal c.cls s
  if s.fw.cellar then askRefused a 0x0001 s
  else if s.prot.ownerKey.isNone then askRefused a 0x0200 s
  else match (changeFault c).or (if c.inject ∧ key = some 0 then some 64 else none) with
    | some off => askInvalid a (askIndex a off) s
    | none =>
      if (pendingOf s c.cls).isSome then askRefused a 0x0201 s
      else if c.inject ∧ by_ = .manager then askRefused a 0x0205 s
      else match keyRefusal s c, ballConflict s c with
        | some k, _ => askRefused a k s
        | none, some h => askConflict a 1 h s
        | none, none =>
          if c.inject ∧ (key.map fun k => kcvOf k) ≠ some c.kcv then askInvalid a (askIndex a 16) s
          else if !s.prot.trngOk then askBusy a s
          else
            let s := askPending a s
            let (r, s) := drawRandom s
            let nonce := r.setWidth 64
            let f := now s
            let c0 := clk s
            let d := digestOf c nonce by_ f
            let p : Proposal := { rec_ := c, nonce := nonce, digest := d, proposer := by_, frame := f, armed := c0, fails := 0,
                                  key := if c.inject then key else none }
            let s := updProt (fun t => { t with pending := tabSet t.pending c.cls p }) s
            askFinal a 0x00 ([c.cls, nonce.toNat % 2 ^ 32, nonce.toNat / 2 ^ 32] ++ digestWords d) s

/-- A PROT_PROPOSE of the manager posted in this frame waits: it is taken before the owner's, whose row is then given
again (R386). -/
def managerFirst (s : State) : Bool := s.mbx.outQ.any fun r => decide (r.opcode = 0x20) && decide (r.frame = now s)

def execProtPropose (via : Via) (s : State) : Host.Outcome State Fault Refusal :=
  act (match via with
    | .scp dma => scp 0x20 { lens := [4], desc := some (false, [64]), mgr := true } (fun _ => none)
        (fun r s => descRead r dma (fun b s => propose (.scp r) .manager (changeOf b) none s) s)
    | .owner l b => ownerRow l fun s =>
        let c := changeOf b
        if managerFirst s then s
        else if b.length ≠ (if c.inject then 128 else 64) then askInvalid .owner 0 s
        else propose .owner .owner c (if c.inject then some (BitVec.ofNat 512 (fieldAt b 64 64)) else none) s) s

/-! ### Confirmation and withdrawal (R375, R377, R381, R382) -/

/-- An AUTH failure is counted; the third discards the proposal. -/
def authFail (cls : Nat) (p : Proposal) (s : State) : State :=
  if 2 ≤ p.fails then endProposal cls .discarded s
  else updProt (fun t => { t with pending := tabSet t.pending cls { p with fails := p.fails + 1 } }) s

/-- A confirmation is accepted: the new protection state is written to both copies and applies at the boundary
after. -/
def acceptConfirm (cls : Nat) (p : Proposal) (by_ : Party) (tag : Option Nat) : State → State :=
  updProt fun t => { t with
    pending := tabDel t.pending cls
    confirmed := t.confirmed ++ [{ prop := p, written := true, by_ := by_, tag := tag }] }

def confirm (a : Asker) (by_ : Party) (cls : Nat) (d : BitVec 384) (s : State) : State :=
  let s := expireProposal cls s
  if s.fw.cellar then askRefused a 0x0001 s
  else if s.prot.ownerKey.isNone then askRefused a 0x0200 s
  else if cls = 0 ∨ 6 < cls then askInvalid a 1 s
  else match pendingOf s cls with
    | none => askRefused a 0x0203 s
    | some p =>
      if p.proposer = by_ then askRefused a 0x0202 s
      else if d ≠ p.digest then askAuth a (authFail cls p s)
      else acceptConfirm cls p by_ (match a with
        | .scp r => some r.tag
        | .owner => none) (askPending a (noteTie p.armed (2 ^ 27) s))

/-- DIGEST in payload words from `i`. -/
def digestAt (w : Nat → Nat) (i : Nat) : BitVec 384 :=
  BitVec.ofNat 384 ((List.range 12).map fun j => w (i + j) * 2 ^ (32 * j)).sum

def execProtConfirm (via : Via) (s : State) : Host.Outcome State Fault Refusal :=
  act (match via with
    | .scp _ => scp 0x21 (Form.plain [13] true [(0, 0xFFFFFF00)]) (fun _ => none)
        (fun r s => confirm (.scp r) .manager (r.pw 0) (digestAt r.pw 1) s)
    | .owner l b => ownerRow l fun s =>
        if b.length ≠ 52 then askInvalid .owner 0 s
        else if 255 < fieldAt b 0 4 then askInvalid .owner 1 s
        else confirm .owner .owner (fieldAt b 0 4) (BitVec.ofNat 384 (fieldAt b 4 48)) s) s

def withdraw (a : Asker) (by_ : Party) (cls : Nat) (s : State) : State :=
  let s := expireProposal cls s
  if s.fw.cellar then askRefused a 0x0001 s
  else if s.prot.ownerKey.isNone then askRefused a 0x0200 s
  else if cls = 0 ∨ 6 < cls then askInvalid a 1 s
  else match pendingOf s cls with
    | none => askRefused a 0x0203 s
    | some p => askOk a [] (endProposal cls (if p.proposer = by_ then .withdrawn else .rejected) s)

def execProtWithdraw (via : Via) (s : State) : Host.Outcome State Fault Refusal :=
  act (match via with
    | .scp _ => scp 0x22 (Form.plain [1] true [(0, 0xFFFFFF00)]) (fun _ => none)
        (fun r s => withdraw (.scp r) .manager (r.pw 0) s)
    | .owner l b => ownerRow l fun s =>
        if b.length ≠ 4 then askInvalid .owner 0 s
        else if 255 < fieldAt b 0 4 then askInvalid .owner 1 s
        else withdraw .owner .owner (fieldAt b 0 4) s) s

/-! ### PROT_QUERY (R383) -/

def SlotState.code : SlotState → Nat
  | .device => 1
  | .injected => 2

def Outc.code : Outc → Nat
  | .none => 0
  | .applied => 1
  | .withdrawn => 2
  | .rejected => 3
  | .expired => 4
  | .discarded => 5
  | .refused => 6
  | .partyReset => 7
  | .lost => 8

def debugBits (d : Debug) : Nat := flag d.jtag 1 + flag d.chain2 2 + flag d.console 4

/-- CURRENT: the value in force, 48 bytes. -/
def currentValue (s : State) (cls i : Nat) : List Byte :=
  padTo 48
    (if cls = 1 then
      let e := isoOf s i
      le (flag e.admitNew 1) 1 ++ le e.sanFloor 1 ++ le (flag e.keyMode 1) 1
    else if cls = 2 then
      match tabGet s.prot.slots i with
      | some k => padTo 16 (le k.st.code 1 ++ zeros 1 ++ le (k.owner.getD 0) 2) ++
          (if k.st = .injected then bvBytes (kcvOf k.key) else [])
      | none => []
    else if cls = 3 then le (flag s.prot.fwLock 1) 1
    else if cls = 4 then le (debugBits s.prot.enables) 1
    else if cls = 5 then le (flag s.prot.calWe 1) 1
    else le (flag s.prot.acceptImages 1 + flag s.prot.forward 2) 1)

/-- The block of 192 bytes. -/
def queryBlock (s : State) (cls i : Nat) : List Byte :=
  let owner := flag s.prot.ownerKey.isSome 2
  let out := (tabGetD s.prot.outcomes cls .none).code
  match pendingOf s cls with
  | some p =>
    changeBytes p.rec_ ++ bvBytes p.digest ++ bvBytes p.nonce ++ le p.frame 8 ++ le (now s + (p.armed + 2 ^ 27) - clk s) 8 ++
    le (1 + owner) 1 ++ le p.proposer.code 1 ++ le out 1 ++ le p.fails 1 ++ zeros 4 ++ currentValue s cls i
  | none => zeros 136 ++ le owner 1 ++ zeros 1 ++ le out 1 ++ zeros 1 ++ zeros 4 ++ currentValue s cls i

/-- CLASS and INDEX of a query are those of an object. -/
def queryOk (w : Nat) : Bool :=
  let cls := bits w 7 0
  let i := bits w 19 8
  decide (1 ≤ cls) && decide (cls ≤ 6) && decide (w < 2 ^ 20) && (indexOk cls i && decide (cls ≠ 1 ∨ i ≤ 2047))

def execProtQuery (via : Via) (s : State) : Host.Outcome State Fault Refusal :=
  act (match via with
    | .scp dma => scp 0x23 { lens := [5], desc := some (true, [192]), mgr := false, rsv := [(4, 0xFFF00000)] }
        (fun r => if queryOk (r.pw 4) then none else some 5)
        (fun r s =>
          let s := expireProposal (bits (r.pw 4) 7 0) s
          descWrite r dma (queryBlock s (bits (r.pw 4) 7 0) (bits (r.pw 4) 19 8)) (replyOk r []) s)
    | .owner l b => ownerQuiet l fun s =>
        let w := fieldAt b 0 4
        let s := expireProposal (bits w 7 0) s
        if s.fw.cellar then askRefused .owner 0x0001 s
        else if b.length ≠ 4 ∨ !queryOk w then askInvalid .owner 1 s
        else send (.owner 0x00 (queryBlock s (bits w 7 0) (bits w 19 8))) s) s

/-! ### Application at step 4 of R47 (R374 to R376) -/

def isoDefault : Isolation := { admitNew := true, sanFloor := 0, keyMode := false }

/-- Set the isolation entry of an instance, or of all. -/
def setIsolation (i : Nat) (e : Isolation) : State → State :=
  let t := fun (l : Tab Isolation) =>
    if i = 0xFFFF then (if e = isoDefault then [] else (List.range 2048).map fun n => (n, e))
    else if e = isoDefault then tabDel l i else tabSet l i e
  updInst fun s => { s with iso := t s.iso }

/-- Apply every field of a record. -/
def applyChange (p : Proposal) (s : State) : State :=
  let c := p.rec_
  let b := c.byte 8
  if c.cls = 1 then
    setIsolation c.index { admitNew := decide (b = 1), sanFloor := c.byte 9, keyMode := decide (c.byte 10 = 1) } s
  else if c.cls = 2 then
    match c.inject, p.key with
    | true, some k =>
      updProt (fun t => { t with slots := tabSet t.slots c.index { key := k, st := .injected, owner := some c.keyOwner } }) s
    | _, _ => emptySlot c.index s
  else if c.cls = 3 then
    let s := updProt (fun t => { t with fwLock := bitOf b 0 }) s
    if bitOf b 0 then cancelSched 0x0300 s else s
  else if c.cls = 4 then
    updProt (fun t => { t with enables := { jtag := bitOf b 0, chain2 := bitOf b 1, console := bitOf b 2 } }) s
  else if c.cls = 5 then updProt (fun t => { t with calWe := bitOf b 0 }) s
  else updProt (fun t => { t with acceptImages := bitOf b 0, forward := bitOf b 1 }) s

/-- The final reply to the confirmer. -/
def confirmReply (k : Confirmed) (status : Nat) (words : List Nat) (s : State) : State :=
  match k.by_, k.tag with
  | .manager, some t => finalReply t 0x21 status words s
  | .manager, none => s
  | .owner, _ => ownerLater status words s

def applyOne (k : Confirmed) (s : State) : State :=
  let cls := k.prop.rec_.cls
  let setOut := fun (o : Outc) => updProt fun t => { t with outcomes := tabSet t.outcomes cls o, seq := t.seq + 1 }
  match keyRefusal s k.prop.rec_ with
  | some r => confirmReply k 0x04 [r] (setOut .refused s)
  | none =>
    let s := setOut .applied (applyChange k.prop s)
    confirmReply k 0x00 [lo32 (now s), hi32 (now s)] s

/-- Every agreed change whose write has ended applies, in class order. -/
def applyProtection (s : State) : State :=
  let due := sortKey (fun k => k.prop.rec_.cls) (s.prot.confirmed.filter fun k => k.written)
  let s := updProt (fun t => { t with confirmed := t.confirmed.filter fun k => !k.written }) s
  forEach due applyOne s

/-- The pending proposals are discarded: a release, a cold start, cellar entry (R378). -/
def discardProposals (s : State) : State :=
  forEach (s.prot.pending.map (·.1)) (fun c s => endProposal c .discarded s) s

/-! ### The owner (R369 to R371, R384) -/

/-- The prime and the constant term of the curve P-384 (y² = x³ − 3x + b), which R369 names. -/
def p384 : Nat := 2 ^ 384 - 2 ^ 128 - 2 ^ 96 + 2 ^ 32 - 1
def b384 : Nat :=
  0xb3312fa7e23ee7e4988e056be3f82d19181d9c6efe8141120314088f5013875ac656398d8a2ed19d2a85c8edd3ec2aef

/-- X then Y is a point of the curve. -/
def validPoint (k : BitVec 768) : Bool :=
  let x := k.toNat / 2 ^ 384
  let y := k.toNat % 2 ^ 384
  decide (x < p384) && decide (y < p384) && decide ((y * y) % p384 = (x * x * x + (p384 - 3) * x + b384) % p384)

/-- The window of a nonce has ended. -/
def expireClaim (s : State) : State :=
  match s.prot.claim with
  | some k => if fired k.frame (2 ^ 27) (clk s) then updProt (fun t => { t with claim := none }) s else s
  | none => s

def execClaimNonceExpiry (s : State) : Host.Outcome State Fault Refusal := act (when (booted s) expireClaim) s

/-- CLAIM_BEGIN: a fresh nonce replaces one still outstanding. -/
def claimBegin (s : State) : State :=
  if s.fw.cellar then askRefused .owner 0x0001 s
  else if s.prot.ownerKey.isSome then askRefused .owner 0x0207 s
  else if !s.prot.trngOk then askBusy .owner s
  else
    let (r, s) := drawRandom s
    let n : BitVec 256 := r.setWidth 256
    let c := clk s
    send (.owner 0x00 (bvBytes n)) (updProt (fun t => { t with claim := some { nonce := n, frame := c } }) s)

def execClaimBegin (link : Sideband) (s : State) : Host.Outcome State Fault Refusal :=
  act (ownerClaimRow link claimBegin) s

/-- CLAIM_FINISH; `strap` is the level of OWNER_CLAIM_N in this frame (R525), `good` says that the signature over "KZCLAIM" and the nonce verifies. -/
def claimFinish (strap : Bool) (key : BitVec 768) (good : Bool) (s : State) : State :=
  let s := expireClaim { s with pins := { s.pins with ownerClaim := strap } }
  if s.fw.cellar then askRefused .owner 0x0001 s
  else if s.prot.ownerKey.isSome then askRefused .owner 0x0207 s
  else if !s.pins.ownerClaim then askRefused .owner 0x0208 s
  else if s.prot.claim.isNone then askRefused .owner 0x0209 s
  else
    let s := match s.prot.claim with
      | some k => noteTie k.frame (2 ^ 27) s
      | none => s
    let s := updProt (fun t => { t with claim := none }) s
    if !validPoint key then askInvalid .owner 1 s
    else if !good then askAuth .owner s
    else askOk .owner [] (updProt (fun t => { t with ownerKey := some key, seq := t.seq + 1 }) s)

def execClaimFinish (link : Sideband) (strap : Bool) (key : BitVec 768) (good : Bool) (s : State) : Host.Outcome State Fault Refusal :=
  act (ownerClaimRow link (ownerWakes (claimFinish strap key good))) s

/-- RELEASE: pending proposals go, and the owner's registration ends. -/
def releaseOwner (s : State) : State :=
  if s.fw.cellar then askRefused .owner 0x0001 s
  else if s.prot.ownerKey.isNone then askRefused .owner 0x0200 s
  else askOk .owner [] (updProt (fun t => { t with ownerKey := none, seq := t.seq + 1 }) (discardProposals s))

def execRelease (link : Sideband) (s : State) : Host.Outcome State Fault Refusal := act (ownerRow link releaseOwner) s

/-- The session on a link ends; with the last session go the replies not collected. -/
def endSession (l : Sideband) : State → State :=
  updProt fun t =>
    let left := t.sessions.filter fun x => decide (x.link ≠ l)
    { t with sessions := left, replies := if left.isEmpty then [] else t.replies }

/-- Opcodes of owner requests (R384, R411). -/
def ownerOpcodes : List Nat := [0x01, 0x02, 0x03, 0x20, 0x21, 0x22, 0x23, 0x30, 0x33, 0x34, 0x35]

/-- A request outside a session that allows it is refused with SPDM ERROR; an opcode of no request is INVALID. -/
def ownerRequest (l : Sideband) (op : Nat) (s : State) : State :=
  match sessionOn s l with
  | none => spdmUnsupported s
  | some x =>
    if op = 0x01 ∨ op = 0x02 then s
    else if !x.mutualAuth then spdmUnsupported s
    else if ownerOpcodes.contains op then s
    else askInvalid .owner 0 s

def spdmMessage (m : SpdmMsg) (s : State) : State :=
  if !ownerOpen s then s
  else match m with
    | .establish l auth =>
      let ok := auth && s.prot.ownerKey.isSome
      updProt (fun t => { t with sessions := t.sessions ++ [{ link := l, mutualAuth := ok }] }) (endSession l s)
    | .finish l => endSession l s
    | .request l op => ownerRequest l op s
    | .respondIfReady l => match sessionOn s l with
      | some x => if x.mutualAuth then ownerCollect s else spdmUnsupported s
      | none => spdmUnsupported s

def execSpdmSessionMessage (m : SpdmMsg) (s : State) : Host.Outcome State Fault Refusal := act (spdmMessage m) s

/-- A sideband link resets: its session ends, and pending proposals are kept (R378). -/
def execSidebandLinkReset (link : Sideband) (s : State) : Host.Outcome State Fault Refusal := act (endSession link) s

end Sys2Proof.Machine
end

