-- ==== Sys2Proof/Machine/ConfigRec.lean ====
section
/-! DEFINITION. The configuration record and the calibration set (chapter Firmware, Configuration and Calibration,
R412 to R419, and the THERMAL field of R467). -/

namespace Sys2Proof.Machine

/-! ### The record as bytes (R412) -/

/-- The bytes of the fields from 24 on, in runs of (offset, bytes). -/
def cfgFields (c : Config412) : List (Nat × List Byte) :=
  [(24, le c.bootSlot 1), (64, le c.lbSize 1 ++ le c.holdupCap 2 ++ le c.corrPos 1 ++ le (flag c.syncEn 1) 1 ++ le c.balls 1 ++
      le c.totalVfs0 2 ++ le c.pfQp0 2 ++ le c.pfQp1 2 ++ le c.pfAz0 2 ++ le c.pfAz1 2 ++ le c.pfSlot0 2 ++ le c.pfSlot1 2 ++
      le c.pfGuard 1),
   (128, le c.tWarn 1 ++ le c.tThrottle 1 ++ (c.remoteLimit.map fun n => le n 1).flatten),
   (192, le c.gcShare 1 ++ le c.matchShift 1 ++ (c.lcAge.map fun n => le n 1).flatten),
   (201, (c.pfShares.map fun n => le n 4).flatten)] ++
  ((List.range c.dram.length).zip c.dram).map (fun p =>
    (320 + 16 * p.1, le (flag p.2.1 1) 1 ++ le p.2.2.1 1 ++ le p.2.2.2.1 2 ++ le p.2.2.2.2 2)) ++
  ((List.range c.channels.length).zip c.channels).map (fun p =>
    (512 + 4 * p.1, le (p.2.1 + p.2.2.1 * 2 ^ 4 + p.2.2.2.1 * 2 ^ 8 + p.2.2.2.2 * 2 ^ 16) 4)) ++
  ((List.range c.classes.length).zip c.classes).map fun p => (1024 + 256 * p.1, p.2)

def cfgRaw (c : Config412) (crc : Nat) : List Byte :=
  fields 65536 ([(0, le 0x46435A4B 4), (4, le 1 2), (8, le c.seq 8), (16, le crc 8)] ++ cfgFields c)

/-- The record, CRC over it with the CRC field zero. -/
def cfgBytes (c : Config412) : List Byte := cfgRaw c (crc64 (cfgRaw c 0)).toNat

/-- The record that the bytes hold. -/
def cfgOf (b : List Byte) : Config412 :=
  { seq := fieldAt b 8 8, bootSlot := byteAt b 24, lbSize := byteAt b 64, holdupCap := fieldAt b 65 2, corrPos := byteAt b 67,
    syncEn := bitOf (byteAt b 68) 0, balls := byteAt b 69, totalVfs0 := fieldAt b 70 2, pfQp0 := fieldAt b 72 2,
    pfQp1 := fieldAt b 74 2, pfAz0 := fieldAt b 76 2, pfAz1 := fieldAt b 78 2, pfSlot0 := fieldAt b 80 2,
    pfSlot1 := fieldAt b 82 2, pfGuard := byteAt b 84, tWarn := byteAt b 128, tThrottle := byteAt b 129,
    remoteLimit := (List.range 4).map fun i => byteAt b (130 + i), gcShare := byteAt b 192, matchShift := byteAt b 193,
    lcAge := (List.range 7).map fun i => byteAt b (194 + i), pfShares := (List.range 18).map fun i => fieldAt b (201 + 4 * i) 4,
    dram := (List.range 6).map fun i =>
      (bitOf (byteAt b (320 + 16 * i)) 0, byteAt b (321 + 16 * i), fieldAt b (322 + 16 * i) 2, fieldAt b (324 + 16 * i) 2),
    channels := (List.range 128).map fun i =>
      let w := fieldAt b (512 + 4 * i) 4
      (bits w 3 0, bits w 6 4, bits w 10 8, bits w 21 16),
    classes := (List.range 4).map fun i => (b.drop (1024 + 256 * i)).take 256 }

/-! ### The checks of CFG_COMMIT (R415) -/

def within (lo hi n : Nat) : Bool := decide (lo ≤ n) && decide (n ≤ hi)

/-- THERMAL: 0 selects the default; T_WARN at most T_THROTTLE (R467). -/
def warnOf (n : Nat) : Nat := if n = 0 then 100 else n
def throttleOf (n : Nat) : Nat := if n = 0 then 110 else n
def limitOf (n : Nat) : Nat := if n = 0 then 75 else n

def thermalChecks (b : List Byte) : List (Nat × Bool) :=
  let w := byteAt b 128
  let t := byteAt b 129
  [(128, decide (w ≠ 0) && !within 70 115 w || decide (throttleOf t < warnOf w)), (129, decide (t ≠ 0) && !within 80 120 t)] ++
  ((List.range 4).map fun i => (130 + i, decide (byteAt b (130 + i) ≠ 0) && !within 40 95 (byteAt b (130 + i)))) ++
  rsvdBytes b 134 58

/-- A PF share block at `o`: all zeros, or shares of R344. -/
def pfShareChecks (b : List Byte) (o : Nat) : List (Nat × Bool) :=
  let w := fun i => fieldAt b (o + 4 * i) 4
  if (List.range 9).all fun i => w i = 0 then []
  else match sharesFault w with
    | some i => [(o + 4 * i, true)]
    | none => []

def policyChecks (b : List Byte) : List (Nat × Bool) :=
  [(192, !within 5 40 (byteAt b 192)), (193, !within 1 6 (byteAt b 193))] ++
  ((List.range 7).map fun i => (194 + i, decide (byteAt b (194 + i) ≠ 0) && !within 20 40 (byteAt b (194 + i)))) ++
  pfShareChecks b 201 ++ pfShareChecks b 237 ++ rsvdBytes b 273 47

def dramChecks (b : List Byte) (i : Nat) : List (Nat × Bool) :=
  let o := 320 + 16 * i
  let on := decide (byteAt b o = 1)
  [(o, decide (1 < byteAt b o)), (o + 1, on && !within 1 4 (byteAt b (o + 1))), (o + 2, on && !within 8 32 (fieldAt b (o + 2) 2))] ++
  rsvdBytes b (o + 6) 10

/-- The record populates less DRAM than the 48 GiB of R34 (DEDUCED, log 105). -/
def dramShort (b : List Byte) : Bool :=
  decide (((List.range 6).map fun i => if byteAt b (320 + 16 * i) = 1 then fieldAt b (322 + 16 * i) 2 else 0).sum < 48)

def channelChecks (b : List Byte) (i : Nat) : List (Nat × Bool) :=
  let o := 512 + 4 * i
  let w := fieldAt b o 4
  let on := decide (bits w 3 0 ≠ 0)
  [(o, decide (8 < bits w 3 0) || (on && !within 1 4 (bits w 6 4)) || bitOf w 7), (o + 1, decide (bits w 15 11 ≠ 0)),
   (o + 2, (on && !within 1 32 (bits w 21 16)) || decide (bits w 31 22 ≠ 0))]

def rateByteOk (n : Nat) : Bool := decide (n ≤ 3) || decide (n = 0xFF)

/-- The ranges of a class entry in use, and the reserved bits and bytes of any. -/
def classChecks (b : List Byte) (i : Nat) : List (Nat × Bool) :=
  let o := 1024 + 256 * i
  let on := decide (byteAt b o = 1)
  [(o, decide (1 < byteAt b o)), (o + 41, on && decide (4 < byteAt b (o + 41))), (o + 42, on && decide (32 < byteAt b (o + 42)))] ++
  ((List.range 5).map fun k => (o + 43 + k, on && !rateByteOk (byteAt b (o + 43 + k)))) ++
  [(o + 53, on && decide (1 < byteAt b (o + 53))), (o + 56, decide (15 < byteAt b (o + 56)))] ++ rsvdBytes b (o + 57) 1 ++
  rsvdBytes b (o + 62) 194

/-- Check 1: the offset of the first failing field, in ascending order of bytes. -/
def cfgFault (b : List Byte) : Option Nat :=
  firstFault ([(0, decide (fieldAt b 0 4 ≠ 0x46435A4B)), (4, decide (fieldAt b 4 2 ≠ 1))] ++ rsvdBytes b 6 2 ++ rsvdBytes b 25 39 ++
    [(64, !within 1 8 (byteAt b 64)), (67, decide (31 < byteAt b 67 ∧ byteAt b 67 ≠ 0xFF)), (68, decide (1 < byteAt b 68)),
     (69, decide (3 < byteAt b 69)), (70, decide (2048 < fieldAt b 70 2)), (72, !within 1 4096 (fieldAt b 72 2)),
     (74, !within 1 4096 (fieldAt b 74 2)), (76, decide (4096 < fieldAt b 76 2)), (78, decide (4096 < fieldAt b 78 2)),
     (80, decide (4095 < fieldAt b 80 2 ∧ fieldAt b 80 2 ≠ 0xFFFF)), (82, decide (4095 < fieldAt b 82 2 ∧ fieldAt b 82 2 ≠ 0xFFFF)),
     (84, decide (3 < byteAt b 84))] ++ rsvdBytes b 85 43 ++ thermalChecks b ++ policyChecks b ++
    (320, dramShort b) :: ((List.range 6).map (dramChecks b)).flatten ++ rsvdBytes b 416 96 ++ ((List.range 128).map (channelChecks b)).flatten ++
    ((List.range 4).map (classChecks b)).flatten ++ rsvdBytes b 2048 63488)

/-- The RATE bytes that a record gives a class key: those of its valid entry, else the defaults. -/
def rateBytes (c : Config412) (key : List Byte) : List Byte :=
  match c.classes.find? fun e => decide (byteAt e 0 = 1) && decide ((e.drop 1).take 33 = padTo 33 key) with
  | some e => (e.drop 43).take 5
  | none => List.replicate 5 0xFF

/-- Check 2: a rate change for a class present in the build (R270). -/
def rateChanges (s : State) (c : Config412) : Bool :=
  s.media.classes.any fun p => decide (rateBytes c p.2.key ≠ rateBytes (newestCfg s) p.2.key)

/-- Check 6 for one PF: its slot changes while it holds a namespace, or is another's. -/
def slotClash (s : State) (c : Config412) (p : Pf) : Bool :=
  let k := pfSlot c p
  let other := match p with
    | .port0 => Pf.port1
    | .port1 => Pf.port0
  (decide (k ≠ pfSlot s.fw.cfg p) && s.zone.nss.any fun n => decide (n.2.owner = p.fn)) ||
  (s.inst.insts.any fun i => decide (i.2.slot = k)) || decide (k = pfSlot c other) ||
  (decide (k ≠ pfSlot s.fw.cfg p) && decide (k = pfSlot s.fw.cfg other))

/-- Check 7: the pool that values of a PF, added to every other allocation, would exceed. -/
def poolExceeded (s : State) (c : Config412) (inst : Inst → Nat) (now_ : Ctl → Nat) (of_ : Config412 → Nat → Nat) : Bool :=
  let held := fun fn => match ctlOf s fn with
    | some k => now_ k
    | none => 0
  let used := (s.inst.insts.map fun p => inst p.2).sum
  decide (65536 < used + of_ c 2048 + max (of_ c 2049) (held 2049)) || decide (65536 < used + of_ c 2049 + max (of_ c 2048) (held 2048))

/-- The order of R415: what answers a record that is not taken. -/
def commitFault (s : State) (r : Posted) (b : List Byte) (c : Config412) : Option (State → State) :=
  match cfgFault b with
  | some off => some (replyInvalid r (5 + off / 4))
  | none =>
    if rateChanges s c then some (replyRefused r 0x0311)
    else if c.totalVfs0 ≠ s.fw.cfg.totalVfs0 ∧ !s.inst.insts.isEmpty then some (replyRefused r 0x0312)
    else if c.syncEn ∧ c.corrPos ≠ 0 then some (replyConflict r 0 20)
    else if !bitOf c.balls 1 ∧ !s.prot.enables.console ∧ s.prot.enables.chain2 then some (replyConflict r 1 4)
    else if bitOf c.balls 1 ∧ !s.prot.enables.chain2 ∧ s.prot.enables.console then some (replyConflict r 1 3)
    else if slotClash s c .port0 ∨ slotClash s c .port1 then some (replyRefused r 0x0314)
    else if poolExceeded s c (·.qpairs) (·.qpairs) pfQp then some (replyNoResource r 1)
    else if poolExceeded s c (·.azones) (·.azones) pfAz then some (replyNoResource r 3)
    else none

/-- The record is written with the next SEQ and the BOOT_SLOT in force; its boundary fields are due. -/
def cfgCommit (r : Posted) (b : List Byte) (s : State) : State :=
  let c := cfgOf b
  match commitFault s r b c with
  | some f => f s
  | none =>
    let s := writeCfg (fun old => { c with seq := old.seq, bootSlot := old.bootSlot }) s
    let n := (newestCfg s).seq
    replyOk r [lo32 n, hi32 n] (updFw (fun w => { w with cfgDue := some c }) s)

def execCfgCommit (dma : Dma) (s : State) : Host.Outcome State Fault Refusal :=
  act (scp 0x71 { lens := [4], desc := some (false, [65536]), mgr := true } (fun _ => none)
    (fun r s => descRead r dma (fun b s => cfgCommit r b s) s)) s

/-- The temperatures of a record come into force (R467). -/
def applyThermal (c : Config412) : State → State :=
  updTherm fun t => { t with tWarn := warnOf c.tWarn, tThrottle := throttleOf c.tThrottle, remoteLimit := c.remoteLimit.map limitOf }

/-- SYNC_EN comes into force: SYNC_IN is tracked, its wait runs from now (R54). -/
def applySync (on : Bool) (s : State) : State :=
  let c := clk s
  updShelf (fun h => if h.syncEn = on then h else { h with
    syncEn := on, sync := if on then .tracking else .disabled, syncLast := none, syncFrom := c }) s

/-- The fields marked "Boundary" take effect at the first boundary after the reply. -/
def applyCfg (s : State) : State :=
  match s.fw.cfgDue with
  | none => s
  | some c =>
    let s := updFw (fun w => { w with
      cfgDue := none
      cfg := { w.cfg with syncEn := c.syncEn, tWarn := c.tWarn, tThrottle := c.tThrottle, remoteLimit := c.remoteLimit } }) s
    applySync c.syncEn (applyThermal c s)

/-! ### CFG_READ (R417) -/

/-- The copy that word 4 selects. -/
def cfgCopy (s : State) (k : Nat) : Option Config412 :=
  if k = 0 then (if s.fw.copyA.isSome ∨ s.fw.copyB.isSome then some (newestCfg s) else none)
  else if k = 1 then s.fw.copyA
  else if k = 2 then s.fw.copyB
  else some s.fw.cfg

def cfgRead (dma : Dma) (finds : List LineFind) (r : Posted) (s : State) : State :=
  let s := readLines finds s
  match cfgCopy s (r.pw 4) with
  | none => replyRefused r 0x0313 s
  | some c => descWrite r dma (cfgBytes c) (replyOk r [lo32 c.seq, hi32 c.seq]) s

def execCfgRead (dma : RegionDma) (s : State) : Host.Outcome State Fault Refusal :=
  act (scp 0x70 { lens := [5], desc := some (true, [65536]), mgr := false, rsv := [(4, 0xFFFFFFFC)] } (fun _ => none) (cfgRead dma.dma dma.finds)) s

/-! ### The calibration set (R418, R419) -/

/-- The set with a given CRC field. -/
def calRaw (c : Calib) (crc : Nat) : List Byte :=
  fields 65536 [(12, c.body), (0, le 0x41435A4B 4), (4, le 1 2), (6, le (flag c.overwritten 1) 1), (8, le c.writes 4),
    (16, le crc 8)]

def calBytes (c : Calib) : List Byte := calRaw c (crc64 (calRaw c 0)).toNat

/-- The set as stored; the bytes of a set that failed its CRC at boot are open. -/
def calRead (dma : Dma) (finds : List LineFind) (r : Posted) (s : State) : State :=
  let s := readLines finds s
  if s.fw.calState = 2 then
    let (_, s) := drawNat s
    let d := s.free
    descWrite r dma ((List.range 65536).map fun i => Config.freeByte d i) (replyOk r []) s
  else descWrite r dma (calBytes s.fw.calib) (replyOk r []) s

def execCalRead (dma : RegionDma) (s : State) : Host.Outcome State Fault Refusal :=
  act (scp 0x60 { lens := [4], desc := some (true, [65536]), mgr := true } (fun _ => none) (calRead dma.dma dma.finds)) s

/-- MAGIC, FORMAT and CRC as the host supplies them, and the reserved bytes (R16, R418, R419; log 106). -/
def calFault (b : List Byte) : Option Nat :=
  firstFault ([(0, decide (fieldAt b 0 4 ≠ 0x41435A4B)), (4, decide (fieldAt b 4 2 ≠ 1))] ++ rsvdBytes b 7 1 ++ rsvdBytes b 12 4 ++
    [(16, decide (fieldAt b 16 8 ≠ (crc64 (putAt 16 (zeros 8) b)).toNat))] ++ rsvdBytes b 24 40 ++ rsvdBytes b 196 60 ++
    rsvdBytes b 384 128 ++ rsvdBytes b 1984 64 ++ rsvdBytes b 6176 224 ++ rsvdBytes b 6464 59072)

/-- The set is overwritten as one operation: ORIGIN 1, WRITES one higher. -/
def calWrite (b : List Byte) (s : State) : State :=
  let k : Calib := { body := b.drop 12, overwritten := true, writes := s.fw.calib.writes + 1 }
  recEvent 0x0A (updFw (fun w => { w with calib := k, calState := 1 }) s)

def execCalWrite (dma : Dma) (s : State) : Host.Outcome State Fault Refusal :=
  act (scp 0x61 { lens := [4], desc := some (false, [65536]), mgr := true } (fun _ => none)
    (fun r s =>
      if !s.prot.calWe then replyRefused r 0x0310 s
      else descRead r dma (fun b s => match calFault b with
        | some off => replyInvalid r (5 + off / 4) s
        | none => replyOk r [] (calWrite b s)) s)) s

end Sys2Proof.Machine
end

