-- ==== Sys2Proof/Machine/Sequencer.lean ====
section
/-! DEFINITION. The boot sequencer in AON: rails, waits, retries and holds, and the test access and console balls
(R439, R440, R446, R470, R516 to R518, R525, R533, R534). -/

namespace Sys2Proof.Machine

/-! ### Rails (R516, R517) -/

/-- The rails that PWR_EN_n enables. -/
def railGroup (n : Nat) : List Nat := [[1, 2], [4], [5, 7, 9, 11], [6, 8, 10]].getD n []

/-- The rails the board holds up on its own. -/
def standbyRails : List Nat := [3, 12]

/-- PWR_EN_0 to PWR_EN_(n−1) high. -/
def pwrEnUpTo (n : Nat) : List Bool := (List.range 4).map fun i => decide (i < n)

def setPwrEn (l : List Bool) (s : State) : State := { s with pins := { s.pins with pwrEn := l } }

/-- The sequencer begins: the crystal is awaited. -/
def beginSequence (fresh : Bool) (s : State) : State :=
  setPwrEn (pwrEnUpTo 0) (updPower (fun p => { p with
    boot := .crystal, good := standbyRails, rcFallback := false, attempts := if fresh then 0 else p.attempts }) s)

/-- Rails 3 and 12 are within range. -/
def powerOn (s : State) : State := if s.power.boot = .off then beginSequence true s else s

def execPowerOn (s : State) : Host.Outcome State Fault Refusal := act powerOn s

/-- The group that the sequencer waits for; the crystal reports ready before group 0 is enabled. -/
def groupAwaited (b : Boot) : Option Nat :=
  match b with
  | .crystal => some 0
  | .rails g => some g
  | _ => none

/-- Every rail of a group has power-good: the next PWR_EN is driven, and after group 3 the ROM runs. -/
def railGood (g : Nat) (s : State) : State :=
  if groupAwaited s.power.boot ≠ some g ∨ 3 < g then s
  else
    let s := updPower (fun p => { p with
      good := p.good ++ railGroup g, boot := if g = 3 then .rom else .rails (g + 1) }) s
    let s := updFw (fun w => { w with bootStep := 0 }) s
    setPwrEn (pwrEnUpTo (min 4 (g + 2))) s

def execRailPowerGood (group : Nat) (s : State) : Host.Outcome State Fault Refusal := act (railGood group) s

/-! ### Failed starts (R439, R440) -/

/-- Kind and rail of the fault code when a wait runs out: `w` names the crystal (0), a rail (1 to 12), the PLL lock,
the fuses or the journal store (13 to 15). -/
def waitFault (s : State) (w : Nat) : Option (Nat × Nat) :=
  match s.power.boot with
  | .crystal => if w = 0 then some (2, 0) else if (railGroup 0).contains w then some (1, w) else none
  | .rails g => if (railGroup g).contains w then some (1, w) else none
  | .rom => if s.fw.bootStep = 3 then none
            else if w = 13 then some (3, 0) else if w = 14 then some (4, 0) else if w = 15 then some (5, 0) else none
  | _ => none

/-- The controller is held: FAULT_N low, the code latched, the rails down; after the third attempt the hold. -/
def startFails (f : Nat × Nat) (s : State) : State :=
  let n := s.power.attempts + 1
  let s := updPower (fun p => { p with
    attempts := n, faultKind := f.1, faultRail := f.2, faultAttempts := n, rcFallback := decide (f.1 = 2)
    good := standbyRails, boot := if n < 3 then .retry else .held }) s
  assertAlert (setPwrEn (pwrEnUpTo 0) { s with pins := { s.pins with fault := true } })

def bootWaitTimeout (w : Nat) (s : State) : State :=
  match waitFault s w with
  | some f => startFails f s
  | none => s

def execBootWaitTimeout (rail : Nat) (s : State) : Host.Outcome State Fault Refusal := act (bootWaitTimeout rail) s

/-- 100 ms after a failed start the whole sequence is tried again. -/
def bootRetry (s : State) : State := if s.power.boot = .retry then beginSequence false s else s

def execBootRetry (s : State) : Host.Outcome State Fault Refusal := act bootRetry s

/-! ### Restarts (R446, R470) -/

/-- PF_N has been high for 50 ms after a flush. -/
def flushRestart (s : State) : State :=
  if s.power.boot = .stopped then beginSequence true { s with pins := { s.pins with pfLow := false } } else s

def execFlushRestart (s : State) : Host.Outcome State Fault Refusal := act flushRestart s

/-- The cooling condition has held for 10 s: FAULT_N is released. -/
def coolingRestart (s : State) : State :=
  if s.power.boot ≠ .fireHold ∨ !s.therm.cooling then s
  else
    let s := updTherm (fun t => { t with fire := .normal, cooling := false }) s
    beginSequence true (driveGpio { s with pins := { s.pins with fault := false } })

def execCoolingRestart (s : State) : Host.Outcome State Fault Refusal := act coolingRestart s

/-! ### Power removed -/

/-- Samples of a diode do not outlast AON's power; its mark and extremes are kept (R462, R484). -/
def Diode.unpowered (d : Diode) : Diode := { d with ring := [], warn := false }

/-- Rails 3 and 12 go: the fault code and every hold end; what is not in the journal store or on flash is lost. -/
def powerRemoved (s : State) : State :=
  let s := updPower (fun p => { p with
    boot := .off, attempts := 0, faultKind := 0, faultRail := 0, faultAttempts := 0, good := [], rcFallback := false
    flush := none, entry := none, exitFrom := none }) s
  let s := updTherm (fun t => { t with
    diodes := tabMap (fun _ d => d.unpowered) t.diodes
    fire := if t.fire = .permanent then .permanent else .normal
    tripKept := none, cooling := false }) s
  let s := updRecd (fun r => { r with isOpen := false, closed := [] }) (linksDown s)
  { s with
    pins := { s.pins with pfLow := false, fault := false, pwrEn := pwrEnUpTo 0, jtag := .idcode, jtag2 := .idcode }
    mgmt := { s.mgmt with running := false } }

def execPowerRemoved (s : State) : Host.Outcome State Fault Refusal := act powerRemoved s

/-! ### Test access and the console (R367, R525, R533) -/

/-- The IDCODE register. -/
def idcode : Nat := 0x296401E3

/-- The boot sequencer holds the device in reset. -/
def heldInReset (s : State) : Bool :=
  match s.power.boot with
  | .running => false
  | .rom => decide (s.fw.bootStep ≠ 3)
  | _ => true

/-- The instruction takes effect on the first chain. -/
def jtagAllowed (s : State) (ir : JtagIr) : Bool :=
  match ir with
  | .bypass => true
  | .idcode => true
  | .sample => true
  | .extest => s.prot.enables.jtag || heldInReset s
  | .clamp => s.prot.enables.jtag || heldInReset s
  | .highz => s.prot.enables.jtag || heldInReset s
  | .debug _ => s.prot.enables.jtag

/-- An instruction enters a chain. The second one is there while BALLS gives it the UART balls and CHAIN2 is set;
what a data register other than IDCODE captures is open. -/
def jtagInstruction (second : Bool) (ir : JtagIr) (s : State) : State :=
  if second then
    if !bitOf s.fw.cfg.balls 1 ∨ !s.prot.enables.chain2 then s
    else
      let (n, s) := drawNat s
      send (.jtag n) { s with pins := { s.pins with jtag2 := ir } }
  else if !jtagAllowed s ir then s
  else
    let s := { s with pins := { s.pins with jtag := ir } }
    if ir = .idcode then send (.jtag idcode) s
    else
      let (n, s) := drawNat s
      send (.jtag n) s

def execJtagInstruction (second : Bool) (ir : JtagIr) (s : State) : Host.Outcome State Fault Refusal :=
  act (jtagInstruction second ir) s

/-- A character on the console: input needs BALLS [1] = 0 and DEBUG.CONSOLE. -/
def consoleInput (c : Byte) (s : State) : State :=
  if bitOf s.fw.cfg.balls 1 ∨ !s.prot.enables.console then s
  else { s with pins := { s.pins with console := s.pins.console ++ [c] } }

def execConsoleInput (c : Byte) (s : State) : Host.Outcome State Fault Refusal := act (consoleInput c) s

end Sys2Proof.Machine
end

