-- ==== Sys2Proof/Machine/Population.lean ====
section
/-! DEFINITION. Identification of the flash at a start: parameter pages, population rules, classes, code rates, channels
and their rates (R22, R235, R238, R240, R242 to R248, R252, R268 to R270, R392, R527). -/

namespace Sys2Proof.Machine

/-! ### Parameter pages (R242, R244) -/

/-- The class key, in the bytes of the record's KEY field (R412). -/
def pageKey (p : Page) : List Byte :=
  le p.mfr 1 ++ padTo 20 p.model ++ le p.bits 1 ++ le p.planes 1 ++ le p.dataBytes 4 ++ le p.pages 2 ++ le p.blocksPerLun 4

/-- Die blocks of a die: a block of each plane (R243). -/
def pageBlocks (p : Page) : Nat := p.blocksPerLun / p.planes

/-- The geometries of R242 and the spare bytes they need. -/
def pageShape (p : Page) : Bool :=
  (decide (p.dataBytes = 16384) && decide (p.planes = 4) && decide (1408 ≤ p.spareBytes)) ||
  (decide (p.dataBytes = 32768) && decide (p.planes = 2) && decide (2816 ≤ p.spareBytes))

/-- A die keeps to the population rules that concern it alone. -/
def pageComplies (p : Page) : Bool :=
  (pageShape p) && decide (p.pages ≤ 4096) && decide (pageBlocks p ≤ 16384) && p.multiPlane && p.vccq12

/-! ### The dies of the build (R246) -/

/-- Targets, LUNs per target, ladder step and DQ loads that the record gives a channel. -/
def chanCfg (c : Config412) (ch : Nat) : Nat × Nat × Nat × Nat := c.channels.getD ch (0, 0, 0, 0)

def popChannels (c : Config412) : List Nat := (List.range 128).filter fun ch => decide (0 < (chanCfg c ch).1)

/-- The die numbers that the record populates, ascending (R166). -/
def popDies (c : Config412) : List Nat :=
  ((popChannels c).map fun ch =>
    ((List.range (chanCfg c ch).1).map fun t => (List.range (chanCfg c ch).2.1).map fun l => ch * 32 + t * 4 + l).flatten).flatten

/-- The page of the LUN at a die number, when the die meets the rules for it alone: it answers, complies, has the LUN
count of the record, and the class key of its last boot. -/
def soundPage (s : State) (c : Config412) (found : BootFind) (d : Nat) : Option Page :=
  match (found.luns.find? fun x => decide (x.die = d)).bind (·.page) with
  | none => none
  | some p =>
    let same : Bool := match dieAt s d with
      | some x => x.key.isEmpty || decide (x.key = pageKey p)
      | none => true
    if (pageComplies p) ∧ p.lunsPerTarget = (chanCfg c (channelOf d)).2.1 ∧ same then some p else none

/-- Every lower target of the die's channel has a LUN that answers: the targets occupy CE_N[0] upward without a gap
(R242). -/
def noGap (found : BootFind) (d : Nat) : Bool :=
  (List.range (d % 32 / 4)).all fun t => found.luns.any fun x => decide (x.die / 4 = channelOf d * 8 + t)

def soundDies (s : State) (c : Config412) (found : BootFind) : List (Nat × Page) :=
  ((popDies c).filter (noGap found)).filterMap fun d => (soundPage s c found d).map fun p => (d, p)

/-- All dies of a channel belong to the class of its lowest die. -/
def oneClass (l : List (Nat × Page)) : List (Nat × Page) :=
  l.filter fun q => match l.find? fun r => decide (channelOf r.1 = channelOf q.1) with
    | some r => decide (pageKey r.2 = pageKey q.2)
    | none => false

/-- The classes of the build in ascending order of their lowest die: each on 8 channels, at most four. -/
def classPages (l : List (Nat × Page)) : List Page :=
  let keys := (l.map fun q => pageKey q.2).eraseDups
  let wide := keys.filter fun k => decide (8 ≤ ((l.filter fun q => decide (pageKey q.2 = k)).map fun q => channelOf q.1).eraseDups.length)
  (wide.take 4).filterMap fun k => (l.find? fun q => decide (pageKey q.2 = k)).map (·.2)

/-- Dies in ascending order while the build stays within 33,554,432 die blocks and 2 PiB. -/
def withinBuild : Nat → Nat → List (Nat × Page) → List (Nat × Page)
  | _, _, [] => []
  | b, m, q :: t =>
    let b' := b + (pageBlocks q.2)
    let m' := m + pageBlocks q.2 * q.2.pages * 65536
    if b' ≤ 2 ^ 25 ∧ m' ≤ 2 ^ 51 then q :: withinBuild b' m' t else withinBuild b m t

/-- Raw capacity of dies, bytes. -/
def pagesRaw (l : List (Nat × Page)) : Nat := (l.map fun q => pageBlocks q.2 * q.2.pages * 65536).sum

/-- The dies that are used, with their pages, and the pages of the classes. A build of less than 64 TiB keeps to the
rules with none of its dies (R34, R242; DEDUCED, log 107). -/
def buildDies (s : State) (c : Config412) (found : BootFind) : List (Nat × Page) × List Page :=
  let l := oneClass (soundDies s c found)
  let cs := classPages l
  let used := withinBuild 0 0 (l.filter fun q => cs.any fun p => decide (pageKey p = pageKey q.2))
  if pagesRaw used < 2 ^ 46 then ([], []) else (used, cs)

/-! ### Classes (R238, R244, R245, R268 to R270, R412) -/

/-- A rate fits a class: the codewords of a plane's page fit in its data and spare bytes. -/
def pageFits (p : Page) (r : Nat) : Bool := decide (p.dataBytes / 4096 * codeSize r ≤ p.dataBytes + p.spareBytes)

def pageStrongest (p : Page) : Nat := ([3, 2, 1, 0].find? (pageFits p)).getD 0

def rateDefaults : List Nat := [1, 1, 2, 3, 0]

/-- The valid entry of a class key; an empty one where there is none, without suspension and pSLC. -/
def classEntry (c : Config412) (key : List Byte) : List Byte :=
  (c.classes.find? fun e => decide (byteAt e 0 = 1) && decide ((e.drop 1).take 33 = key)).getD
    (zeros 43 ++ List.replicate 5 0xFF ++ zeros 208)

/-- The rate that an entry names, band 0 to 3 and pSLC, and the rate in use. -/
def rateNamed (e : List Byte) (i : Nat) : Nat := if byteAt e (43 + i) = 0xFF then rateDefaults.getD i 0 else byteAt e (43 + i)
def rateUsed (p : Page) (e : List Byte) (i : Nat) : Nat := if pageFits p (rateNamed e i) then rateNamed e i else (pageStrongest p)

/-- Half a parameter-page maximum, rounded up, where the entry gives no time. -/
def timeOr (n maxTime : Nat) : Nat := if n = 0 then (maxTime + 1) / 2 else n

/-- The class of a page under a record. -/
def classOf (c : Config412) (shelf : Bool) (p : Page) : Class :=
  let e := classEntry c (pageKey p)
  let tSus := if byteAt e 40 = 0 then 20 else byteAt e 40
  { key := pageKey p, rows := p.pages, blocks := pageBlocks p, bitsPerCell := p.bits, tR := timeOr (fieldAt e 34 2) p.maxR,
    tProg := timeOr (fieldAt e 36 2) p.maxProg, tBers := timeOr (fieldAt e 38 2) p.maxBers, tSus := tSus, maxR := p.maxR,
    maxProg := p.maxProg, maxBers := p.maxBers, suspProg := byteAt e 41, suspErase := byteAt e 42,
    suspend := ((List.range 4).all fun i => decide (byteAt e (48 + i) ≠ 0)) && decide (tSus ≤ 20),
    pslc := decide (byteAt e 58 ≠ 0), ratedPe := p.ratedPe, pslcPe := 1000 * fieldAt e 60 2,
    rates := (List.range 5).map (rateUsed p e), ofsMin := sext 8 (byteAt e 54), ofsMax := sext 8 (byteAt e 55), dir := byteAt e 56,
    lastShelf := shelf, planes := p.planes, suspOps := (List.range 4).map fun i => byteAt e (48 + i)
    levelAddr := byteAt e 52, levelLun := decide (byteAt e 53 = 1), pslcIn := byteAt e 58, pslcOut := byteAt e 59 }

/-- Rate entries that boot raises. -/
def raised (c : Config412) (p : Page) : Nat :=
  ((List.range 5).filter fun i => !pageFits p (rateNamed (classEntry c (pageKey p)) i)).length

/-- The classes numbered, each keeping its last-shelf state. -/
def newClasses (s : State) (c : Config412) (ps : List Page) : Tab Class :=
  (List.range ps.length).zip (ps.map fun p =>
    classOf c ((s.media.classes.find? fun k => decide (k.2.key = pageKey p)).any fun k => k.2.lastShelf) p)

/-- The number that a class of the last boot has now. -/
def renumber (old new : Tab Class) (n : Nat) : Nat :=
  match tabGet old n with
  | none => n
  | some k => match new.find? fun p => decide (p.2.key = k.key) with
    | some p => p.1
    | none => n

/-! ### Dies -/

def Ratio.zero : Ratio := { sum := 0, n := 0, last := 0 }

/-- A die at a start: nothing runs on it, its buckets are full (R219, R464). -/
def Die.fresh (cls : Nat) (key : List Byte) (blocks : Nat) : Die :=
  { cls := cls, key := key, mark := .normal, since := 0, rRead := Ratio.zero, rProg := Ratio.zero, rErase := Ratio.zero,
    clearRun := 0, marks := 0, backstairs := 0, backMin := 0, lastBackMin := 0, lastRead := 0, op := none, sensing := none,
    queue := [], ready := false, gc := 4096 * 256, thermal := 4096 * 256, timeouts := [], planeFails := [], retiredBlocks := 0,
    blocks := blocks, held := List.replicate 15 0, due := none, limitHits := 0 }

/-- A die of the build: a retired die stays retired (R263). -/
def dieOf (s : State) (cls : Tab Class) (q : Nat × Page) : Nat × Die :=
  let n := match cls.find? fun k => decide (k.2.key = pageKey q.2) with
    | some k => k.1
    | none => 0
  let d := Die.fresh n (pageKey q.2) (pageBlocks q.2)
  (q.1, match dieAt s q.1 with
    | some x => { d with mark := if x.mark = .retired then .retired else .normal, retiredBlocks := x.retiredBlocks }
    | none => d)

/-- A populated die that is not used. One that has never been accepted has no key recorded. -/
def excludedDie (s : State) (d : Nat) : Nat × Die :=
  (d, match dieAt s d with
    | some x => { Die.fresh x.cls x.key x.blocks with
        mark := if x.mark = .retired then .retired else .excluded, retiredBlocks := x.retiredBlocks }
    | none => { Die.fresh 0 [] 0 with mark := .excluded })

/-- The die has been found at an earlier start. -/
def knownDie (s : State) (d : Nat) : Bool :=
  match dieAt s d with
  | some x => !x.key.isEmpty
  | none => false

/-- Manufacturer marks, read when a die is first found (R247). -/
def markBad (s : State) (found : BootFind) (t : Tab DieBlock) (q : Nat × Page) : Tab DieBlock :=
  match found.luns.find? fun x => decide (x.die = q.1) with
  | some x =>
    if knownDie s q.1 then t
    else (x.bad.filter fun b => decide (b < pageBlocks q.2)).foldl
      (fun t b => tabSet t (blockKey q.1 b) { DieBlock.fresh with st := .bad }) t
  | none => t

/-! ### Channels (R235, R240, R248) -/

/-- Highest rate that the DQ loads allow, as a ladder step. -/
def loadStep (loads : Nat) : Nat := if loads ≤ 4 then 0 else if loads ≤ 8 then 1 else if loads ≤ 16 then 3 else 5

/-- The step that the dies of a channel allow: NV-LPDDR4 needs ONFI 5.0, and their timing modes bound it. -/
def dieStep (l : List (Nat × Page)) (ch : Nat) : Nat :=
  ((l.filter fun q => decide (channelOf q.1 = ch)).map fun q => max q.2.fastest (if q.2.onfi5 then 0 else 5)).foldl max 0

/-- A channel as it is trained, one setting for each target from the channel's seed. WP_N goes high on every channel
once training has ended on all of them (R248, R264). -/
def chanOf (s : State) (c : Config412) (found : BootFind) (l : List (Nat × Page)) (ch : Nat) : Chan :=
  let (targets, luns, step, loads) := chanCfg c ch
  let cfg := max (max step (loadStep loads)) (dieStep l ch)
  let got := match found.trains.find? fun p => decide (p.1 = ch) with
    | some p => max cfg p.2
    | none => cfg
  { targets := targets, luns := luns, dqLoads := loads, cfgStep := cfg, step := min 7 got, trained := decide (got ≤ 7),
    lastTrain := clk s, trainTemp := regionTemp s ch, fails := 0, retraining := false, failed := decide (7 < got),
    wpHigh := true, xferErrs := []
    tuned := (List.range targets).map fun t => Config.phySetting (flashSeed s ch) (Config.freeNat (s.free + 8 * ch + t))
    retrain := none, windowDue := false, busLeft := stepBytes (min 7 got), xfers := [], dataIns := [] }

/-- The commands of a target at a cold start: Reset, identification and parameter page of each LUN, its timing mode,
interface, drive and termination, and the calibration that begins its training (R236, R244, R248, R527). -/
def identifyTarget (ch luns t : Nat) (s : State) : State :=
  let d := ch * 32 + 4 * t
  let s := forEach (List.range luns) (fun l s => onfi (d + l) 0xEC 0xEC (onfi (d + l) 0x90 0x90 s)) (onfi d 0xFF 0xFF s)
  onfi d 0xF9 0xF9 (onfi d 0xEF 0xEF s)

def identifyChannel (c : Config412) (ch : Nat) : State → State :=
  forEach (List.range (chanCfg c ch).1) (identifyTarget ch (chanCfg c ch).2.1)

/-- Channels that the record configures above the row of their DQ loads. -/
def overLoaded (c : Config412) : Nat :=
  ((popChannels c).filter fun ch => decide ((chanCfg c ch).2.2.1 < loadStep (chanCfg c ch).2.2.2)).length

/-- Count an event `n` times. -/
def recEvents (code n : Nat) (s : State) : State := forEach (List.range n) (fun _ => recEvent code) s

/-- Target 0 of channels 0 to 31 is populated, each slot die that identification accepts is of a class with pSLC, and so
is some class, which can hold refuge and system groups (R238, R392). -/
def buildStarts (c : Config412) (l : List (Nat × Page)) (cls : Tab Class) : Bool :=
  (cls.any fun k => k.2.pslc) && ((List.range 32).all fun ch => decide (0 < (chanCfg c ch).1)) &&
  l.all fun q => !slotBlock q.1 0 || cls.any fun k => decide (k.2.key = pageKey q.2) && k.2.pslc

/-- Identification and training of every populated channel. -/
def identifyFlash (found : BootFind) (s : State) : State :=
  let c := s.fw.cfg
  let (l, ps) := buildDies s c found
  let cls := newClasses s c ps
  let out := (popDies c).filter fun d => !(l.any fun q => decide (q.1 = d))
  let dies := (l.map (dieOf s cls) ++ out.map (excludedDie s)).foldl (fun t p => tabSet t p.1 p.2) []
  let chans := (popChannels c).map fun ch => (ch, chanOf s c found l ch)
  let blocks := l.foldl (markBad s found) s.media.blocks
  let old := s.media.classes
  let s := updZone (fun z => { z with nss := tabMap (fun _ n => { n with cls := renumber old cls n.cls }) z.nss }) s
  let s := updMedia (fun m => { m with
    classes := cls, blocks := blocks, groups := tabMap (fun _ g => { g with cls := renumber old cls g.cls }) m.groups }) s
  let s := updFlash (fun f => { f with chans := chans, dies := dies }) { s with free := s.free + 1024 }
  let s := forEach (popChannels c) (identifyChannel c) s
  let s := recEvents 0x0C out.length (recEvents 0x0F (overLoaded c) s)
  recEvents 0x10 ((ps.map (raised c)).sum) s

/-- What the maps make of it: excluded dies are lost to their groups, those of a channel that cannot train are retired,
those of one below its rate are slow (R185, R188, R252). -/
def settleDies (s : State) : State :=
  let gone := (s.flash.dies.filter fun p => decide (p.2.mark = .excluded)).map (·.1)
  let s := forEach gone (fun d => loseDie d false) s
  forEach s.flash.chans (fun p s =>
    let mine := (s.flash.dies.filter fun d => decide (channelOf d.1 = p.1) && d.2.inUse).map (·.1)
    if p.2.failed then forEach mine retireDie s
    else if p.2.step ≠ p.2.cfgStep then forEach mine (fun d => applyMark d .slowRate) s
    else s) s

end Sys2Proof.Machine
end

