-- ==== Sys2Proof/Machine/Recovery.lean ====
section
/-! DEFINITION. What a start makes of the tables, the maps and the landing buffer: the scan of open groups, the work that
is dropped, the replay of the refuge area, zones and interrupted erases (R139, R161, R163, R164, R210, R222, R223,
R228, R331, R350, R504, R505, R546). -/

namespace Sys2Proof.Machine

/-! ### Work that ends with the run (R163, R222, R331, R350) -/

/-- A row of a group whose programs have begun, so that a page of it is programmed (R210 step 4). -/
def pagesBegun (s : State) (eg row : Nat) : Bool :=
  match s.media.rowOps.find? fun o => decide (o.eg = eg) && decide (o.row = row) with
  | none => true
  | some o =>
    let w := match groupAt s eg with
      | some g => g.width
      | none => 0
    decide (o.outstanding.length < w) || s.flash.dies.any fun d => match d.2.op with
      | some p => decide (p.kind = .program) && decide (p.eg = eg) && decide (p.row = row)
      | none => false

/-- NEXT_ROW after the scan of an open group: the first row at which every page is erased. -/
def scanGroup (s : State) (eg : Nat) (g : Group) : Group :=
  { g with
    nextRow := (g.inFlight.find? fun r => !pagesBegun s eg r).getD g.nextRow
    inFlight := [], reserved := 0, victim := false, erasing := []
    pendIdx := if g.st = .pendingErase then g.pendIdx else none }

def scanGroups (s : State) : State := updMedia (fun m => { m with groups := tabMap (scanGroup s) m.groups }) s

/-- Units landed for writes whose completion is not posted are rolled back. -/
def dropUnposted (s : State) : State :=
  forEach (s.media.landing.filterMap (·.writer)).eraseDups discardLanded s

/-- A die block that an uncommitted record took is free again. -/
def giveBlock (p : Nat × Nat) (s : State) : State :=
  setBlock p.1 p.2 { DieBlock.fresh with pe := (blockAt s p.1 p.2).pe } s

/-- A record that is not replayed has no effect (R202): what has been done on its submission is undone. Nothing has been
programmed in a group or on a substitute whose EG_STATE is not committed. -/
def undoRec (r : JRec) (s : State) : State :=
  let s := forEach r.zst (fun p s => match p.2 with
    | .told old fzr => updZoneRec p.1 (fun z => { z with st := old, fzr := fzr }) s
    | _ => s) s
  match r.egTo, groupAt s r.eg with
  | some .opened, some g =>
    forgetGroup r.eg (updMedia (fun m => { m with groups := tabDel m.groups r.eg }) (forEach (groupBlocks g) giveBlock s))
  | some (.substitute i), some g =>
    match (g.members[i]?).bind fun m => m.substs.head? with
    | none => s
    | some x => giveBlock (x.die, x.block) (updGroup r.eg (fun g => { g with
        subs := g.subs - 1
        members := match g.members[i]? with
          | some m => g.members.set i { m with substs := m.substs.drop 1 }
          | none => g.members }) s)
  | _, _ => s

/-- The record can be read and its CRC verifies (R210 step 3). -/
def recOk (r : JRec) : Bool := !r.damaged && decide (crc32c (recRaw r.len r.seq r.frame r.type r.body) = r.crc)

/-- A record that verifies begins within the next `n` bytes (R504). -/
def goodWithin : Nat → List JRec → Bool
  | _, [] => false
  | n, r :: t => decide (0 < n) && (recOk r || goodWithin (n - 16 * r.len) t)

/-- The records that are replayed, oldest first: one that does not verify is skipped where one that does lies within the
next 65,600 bytes, and ends the replay otherwise (R504). -/
def replayed : List JRec → List JRec
  | [] => []
  | r :: t => if recOk r then r :: replayed t else if goodWithin (65600 - 16 * r.len) t then replayed t else []

/-- The records submitted and not committed are lost; the next record follows the last one committed (R201). -/
def dropRing (s : State) : State :=
  let s := forEach s.media.ring.reverse undoRec s
  updMedia (fun m => { m with ring := [], nextJSeq := m.nextJSeq - m.ring.length, uncopied := replayed m.uncopied }) s

/-- A die at which nothing runs. -/
def Die.still (d : Die) : Die := { d with op := none, sensing := none, queue := [], ready := false }

/-- Commands, reads, programs and requests end with the run; the landing buffer, the read cache and the ring's
uncommitted records go. -/
def dropWork (s : State) : State :=
  let s := dropUnposted (scanGroups s)
  let s := updItems (fun _ => []) s
  let s := dropRing s
  let s := updMedia (fun m => { m with landing := [], rowOps := [], ready := [], victims := [], corrected := [] }) s
  let s := updFlash (fun f => { f with
    reads := [], reqs := [], lateReqs := [], plan := [], published := [], cache := []
    dies := tabMap (fun _ d => d.still) f.dies }) s
  let ns := fun (_ : Nat) (n : Ns) => { n with claims := [] }
  let zn := fun (_ : Nat) (r : Zone) => { r with claims := [], drain := none }
  updZone (fun z => { z with discards := [], freed := [], nss := tabMap ns z.nss, zones := tabMap zn z.zones }) s

/-! ### Rebasing (R546) -/

/-- A stored frame value at a cold start; 0 stays 0. -/
def rebase (b : Int) (v : Int) : Int := if v = 0 then 0 else v - (b + 1)

/-- B: the last frame of the boot that has ended, the highest of the frames of the ring records, the frame P of the
flush record and the frame count committed. -/
def lastFrame (s : State) : Nat :=
  (s.media.uncopied.map (·.frame)).foldl max (max s.power.flushP s.power.committedAt)

/-- FIRST_WRITE, PRED and LAST_PROG of the tables: `f` is B, and `e` the same frame in elapsed frames. -/
def rebaseTables (e f : Int) (s : State) : State :=
  let zn := fun (_ : Nat) (r : Zone) => { r with firstWrite := r.firstWrite.map (rebase e), pred := r.pred.map (rebase e) }
  let gr := fun (_ : Nat) (g : Group) =>
    { g with pred := g.pred.map (rebase e), predFrom := rebase e g.predFrom, lastProg := rebase f g.lastProg }
  let ag := fun (a : AgeEntry) => { a with age := { a.age with used := a.age.used - (e + 1) } }
  updMedia (fun m => { m with groups := tabMap gr m.groups, agesSaved := m.agesSaved.map ag }) (updZone (fun z => { z with zones := tabMap zn z.zones }) s)

/-! ### The refuge area (R210 step 5, R227, R228, R305) -/

/-- A refuge unit whose stored check verifies. -/
def refugeOk (u : RefugeUnit) : Bool :=
  decide (innerCheck u.entry.stored.data u.entry.stored.meta_ u.entry.stored.hdr = u.entry.stored.check)

/-- The unit as it returns to the landing buffer. -/
def returned (u : RefugeUnit) : Landed :=
  { u.entry with stored := { u.entry.stored with kind := .data, flushSeq := 0 }, bound := none, pins := 0, frame := 0, committed := false }

/-- The units that the last flush wrote, as far as their group still holds them for the landing buffer (R228): every unit
of an older flush that is not among them has reached flash or been superseded. -/
def lastFlush (s : State) : List RefugeUnit :=
  s.media.refuge.filter fun u => decide (u.seq = s.media.flushSeq) && match groupAt s u.eg with
    | some g => decide (g.st = .refuge)
    | none => false

/-- A unit whose stored check fails at replay is lost; it comes back poisoned, as R309 has it for a landing-buffer copy
(DESIGN CHOICE, log 117). -/
def takeBack (u : RefugeUnit) : Landed :=
  let e := returned u
  if refugeOk u then e else { e with stored := poison e.stored }

/-- Refuge units return to the landing buffer in landing order; map entries of units that did not come back are
unmapped. -/
def replayRefuge (s : State) : State :=
  let us := lastFlush s
  let bad := (us.filter fun u => !refugeOk u).length
  let l := sortKey (·.order) (us.map takeBack)
  let keep := fun (p : Nat × PmEntry) => match p.2 with
    | .landing n => l.any fun e => decide (e.order = n)
    | .flash _ => true
  let s := updMedia (fun m => { m with landing := l, pageMap := m.pageMap.filter keep }) s
  if bad = 0 then s
  else setCritical 2 { callWrite (recDataErr 8 bad s) with therm := { s.therm with mediaErrors := s.therm.mediaErrors + bad } }

/-! ### Zones (R139, R163, R504, R505) -/

/-- End of the acknowledged units of a zone that are found, from the run committed to flash on. -/
def foundTo (s : State) (r : Zone) (base : Nat) : Nat :=
  let here := fun (u : Nat) => s.media.landing.any fun e => decide (e.nsx = r.nsx) && decide (e.unit = base + u)
  ((List.range (r.wp - r.wpFlash)).find? fun i => !here (r.wpFlash + i)).elim r.wp (r.wpFlash + ·)

/-- A zone that was opened or Closed: its write pointer is the end of its last acknowledged write, and an opened zone
closes. -/
def recoverZone (z : Nat) (s : State) : State :=
  match zoneAt s z with
  | none => s
  | some r =>
    match nsAt s r.nsx with
    | none => s
    | some n =>
      if !(r.st.isOpen || decide (r.st = .closed)) then s
      else
        let w := if r.wpFlash < r.wp then foundTo s r (r.idx * zoneUnits n) else r.wp
        closeZone z (updZoneRec z (fun k => { k with wp := w, ap := w }) s)

/-- A zone of which acknowledged units are lost goes Offline. -/
def loseZone (z : Nat) (s : State) : State :=
  match zoneAt s z with
  | none => s
  | some r =>
    match nsAt s r.nsx with
    | none => s
    | some n => notifyZone n.owner n.nsid (zslba n r) (offlineZone z s)

def loseZones (l : List Nat) (s : State) : State :=
  if l.isEmpty then s else recEvent 0x18 (setCritical 2 (forEach l loseZone s))

/-! ### Erases (R222, R223) -/

/-- A block whose erase may have been interrupted: state 2, charged one cycle. -/
def incomplete (x : DieBlock) : DieBlock :=
  if x.st = .retired ∨ x.st = .bad then x else { x with st := .incomplete, pe := min (x.pe + 1) 131071 }

/-- The pending-erase list is replayed: the die blocks of its groups are erase-incomplete. A step of a secure discard is
completed at once (R225). -/
def recoverErases (s : State) : State :=
  let pend := s.media.groups.filter fun p => decide (p.2.st = .pendingErase)
  forEach pend (fun p s =>
    let s := forEach (groupBlocks p.2) (fun b => setBlock b.1 b.2 (incomplete (blockAt s b.1 b.2))) s
    when p.2.regionMap.isSome (dissolve p.1) s) s

/-- Closed groups with nothing valid are put on the list, and open groups of which every row is bound close (R207,
R222). -/
def settleGroups (s : State) : State :=
  forEach (s.media.groups.map (·.1)) (fun eg s => closeIfDone eg (pendIfEmpty eg s)) s

/-- The page-map segments that no ring record has changed since are taken from the newer checkpoint copy whose CRC-64
verifies (R210 step 2). -/
def loadCheckpoint (s : State) : State :=
  let clean := s.media.checkpoint.filter fun p => !s.media.dirtySegs.contains p.1 && decide (crc64 (segBytes s p.1 p.2.entries) = p.2.crc)
  let old := s.media.pageMap
  let put := fun (t : Tab PmEntry) (e : Nat × Loc) => match tabGet old e.1 with
    | some (.landing _) => t
    | _ => tabSet t e.1 (.flash e.2)
  updMedia (fun m => { m with pageMap := (clean.map (·.2.entries)).flatten.foldl put m.pageMap }) s

/-- A die-block entry that is lost has the highest PE of its die (R504). -/
def loseEntry (p : Nat × Nat) (s : State) : State :=
  setBlock p.1 p.2 { blockAt s p.1 p.2 with pe := ((dieBlocks s p.1).map fun b => b.2.pe).foldl max 0 } s

/-- What a loss in the journal store leaves: zones of which acknowledged units cannot be found, conventional units whose map
names an erased place, die-block entries (R504, R505). -/
def recoverLosses (found : BootFind) (s : State) : State :=
  let nowhere : Loc := locOf 16777215 0 0
  let s := forEach found.lostUnits (fun p => setPm p.1 p.2 (some (.flash nowhere))) s
  let s := forEach found.lostBlocks loseEntry s
  let s := when (!found.lostUnits.isEmpty || !found.lostBlocks.isEmpty) (fun s => recEvent 0x18 (setCritical 2 s)) s
  loseZones found.lostZones s

/-- The maps are rebuilt and the landing buffer is filled from the refuge area (R210). -/
def recoverMaps (found : BootFind) (s : State) : State :=
  let s := replayRefuge (loadCheckpoint s)
  let s := forEach (s.zone.zones.map (·.1)) recoverZone s
  let s := settleGroups (recoverErases s)
  recoverLosses found (forEach (s.zone.zones.map (·.1)) zoneLosses s)

/-! ### Functions and instances (R92, R96, R133, R331, R416) -/

/-- The controller of a function at a start: its counts and logs stay, but a PF's read failures. -/
def coldCtl (s : State) (old : Option Ctl) (lifeE : Nat) (pf : Bool) (c : Ctl) : Ctl :=
  let k := match old with
    | none => c
    | some o => { o with
        qpairs := c.qpairs, msix := c.msix, azones := c.azones, guard32 := c.guard32, tempWarn := false, fetchPaused := false
        readFailTotal := if pf then 0 else o.readFailTotal
        readFails := if pf then [] else o.readFails }
  { clearCtl s lifeE k with closing := false }

/-- A PF takes its committed values; its zones may hold more than its new allocation (R416). -/
def startPf (p : Pf) (s : State) : State :=
  let c := s.fw.cfg
  let az := max (pfAz c p.fn) (activeZones s p.fn)
  let k := coldCtl s (ctlOf s p.fn) 22 true (Machine.ctlReset (pfQp c p.fn) 256 az (bitOf c.pfGuard (p.fn - 2048)) 22)
  let w := (c.pfShares.drop (9 * (p.fn - 2048))).take 9
  let sh := if w.all (· = 0) then sharesDefault else sharesAt fun i => w.getD i 0
  let s := { s with host := { s.host with ctls := tabSet s.host.ctls p.fn k } }
  let s := updMedia (fun m => { m with amps := tabSet m.amps p.fn ampZero }) s
  updInst (fun t => { t with
    shares := tabSet t.shares p.fn sh
    holders := tabSet t.holders p.fn (tabGetD t.holders p.fn holderFresh) }) s

/-- Assign a PF's key slot. A slot no longer assigned to it, when it holds no namespace, returns to the pool
(R322, R416). -/
def startSlot (p : Pf) (s : State) : State :=
  let k := pfSlot s.fw.cfg p
  let old := (s.prot.slots.filter fun x => decide (x.2.owner = some p.fn) && decide (x.1 ≠ k)).map (·.1)
  let holds := s.zone.nss.any fun n => decide (n.2.owner = p.fn)
  if holds then s else assignSlot k p.fn (forEach old emptySlot s)

/-- An instance at a cold start: LIVE with its generation one higher and its controller as after an FLR; a destroy or
sanitise that was running goes on; one that was being created is not there. -/
def startInstance (n : Nat) (s : State) : State :=
  match instAt s n with
  | none => s
  | some i =>
    if i.st = .creating then
      let s := emptySlot i.slot (forEach i.nsxs removeNs s)
      { updInst (fun t => { t with insts := tabDel t.insts n }) s with host := { s.host with ctls := tabDel s.host.ctls n } }
    else
      let live := decide (i.st = .live) || decide (i.st = .resetting)
      let due := i.resetDue.isSome && !live
      let k := coldCtl s (ctlOf s n) i.lifeE false (Machine.ctlReset i.qpairs i.msix i.azones i.guard32 i.lifeE)
      let k := { k with fetchPaused := decide (i.st = .destroying) && !due }
      let i' := { i with
        st := if live then .live else i.st
        pend := [], resetDue := if due then some 0 else none, flr := false, resetAt := 0, resume := false, sanDue := none }
      let s := { s with host := { s.host with ctls := tabSet s.host.ctls n k } }
      updInst (fun t => { t with
        insts := tabSet t.insts n i'
        gens := if live then tabSet t.gens n ((tabGetD t.gens n 0 + 1) % 256) else t.gens }) s

/-- A holder's window and samples start again; what it holds for the ring stays (R340, R360). -/
def Holder.cold (h : Holder) : Holder :=
  { h with waited := false, window := [], gained := Buckets.reset, deficit := Buckets.reset }

/-- The running Formats and the Sanitize go on from their records (R161): an erasure that had begun is submitted again,
what it has erased stays erased. -/
def resumeProgress (s : State) : State :=
  let s := updZone (fun z => { z with
    san := { z.san with startFrame := 0 }
    nss := tabMap (fun _ n => { n with fmt := n.fmt.map fun f => { f with startFrame := 0 } }) z.nss }) s
  let wipe := fun (p : Nat × Ns) (s : State) => match p.2.fmt with
    | some f => when f.started (wipeNs p.1 f.kind) s
    | none => if s.zone.san.st = .running then wipeNs p.1 s.zone.san.kind s else
        match instAt s p.2.owner with
        | some i => if i.wiping then wipeNs p.1 (policyKind (policyNow s p.2.owner i)) s else s
        | none => s
  forEach s.zone.nss wipe s

end Sys2Proof.Machine
end

