-- ==== Sys2Proof/Machine/Boot.lean ====
section
/-! DEFINITION. The cold start, the choice of the image, and entering and leaving the cellar (R32, R41, R247, R361, R379,
R394 to R396, R407 to R410, R413, R414, R447 to R449, R462, R471, R476, R484, R527, R542). -/

namespace Sys2Proof.Machine

/-! ### The end of the last boot (R361, R477, R484, R546) -/

/-- The minutes of the last boot, with the interrupted one's records, POWER set (R361). -/
def endMinutes (s : State) : State :=
  if s.inst.boots = 0 then s
  else
    let s := if s.power.aonCount = 0 then s else passMinutes (s.power.aonCount / framesPerMinute + 2) (now s) s.power.aonCount s
    freezeMinute { mflagsZero with power := true } 0 s

/-- The retained buffer of a failed exit is written, its open record closed with PARTIAL (R477). -/
def endRecord (s : State) : State := if s.recd.isOpen then writeBuffer (closeRecord (aonNow s) markPartial s) else s

/-- A trip kept by AON goes into the since-manufacture block (R469, R484). -/
def takeTrip (s : State) : State :=
  match s.therm.tripKept with
  | none => s
  | some t =>
    updRecd (fun r => { r with since := { r.since with trips := (t :: r.since.trips).take 16 } })
      (updTherm (fun x => { x with tripKept := none }) s)

/-! ### What a cold start resets -/

/-- Flash, reads and journal-engine times start again; saved trackers are loaded (R277). -/
def coldFlash (f : FlashSt) : FlashSt :=
  { f with
    chans := [], nextRead := 0, nextSense := 0, lastSave := 0, windowFrom := 0, patrolPos := 0
    trackers := tabMap (fun _ t => { t with set := false }) f.savedTrk
    standing := tabMap (fun _ t => { t with set := false }) f.savedStanding, seen := none, trackersWere := [], standingWere := [] }

def coldMedia (m : MediaSt) : MediaSt :=
  { m with
    ringFullFrames := 0, homeWrites := [], policyDue := none, slowFallbacks := 0, classFallbacks := 0, substitutions := 0
    marks := 0, ages := m.agesSaved, hostUnits := 0, progUnits := 0 }

def coldInst (i : InstSt) : InstSt :=
  { i with
    sharesDue := [], buckets := [], surplus := Buckets.reset, ring := none, lastTry := 0, minuteFrom := 0
    holders := tabMap (fun _ h => h.cold) i.holders, boots := i.boots + 1 }

/-- Confirmations not applied are lost, proposals discarded, DEBUG and CAL_WE cleared, sessions ended (R366, R378,
R379). -/
def coldProt (s : State) : State :=
  let lost := s.prot.confirmed.map fun k => k.prop.rec_.cls
  let s := discardProposals s
  let s := recEvents 0x09 lost.length s
  updProt (fun t => { t with
    confirmed := [], outcomes := lost.foldl (fun t c => tabSet t c .lost) t.outcomes
    enables := { jtag := false, chain2 := false, console := false }, calWe := false, claim := none, sessions := [], replies := [] }) s

/-- A slot whose copies were being written holds nothing. -/
def coldSlot (k : FwSlot) : FwSlot :=
  if k.st = .writing then FwSlot.reset else { k with prepared := false }

def coldFw (w : FwSt) : FwSt :=
  { w with
    slot1 := coldSlot w.slot1, slot2 := coldSlot w.slot2, running := 0, image := none, staging := none, act := .none
    lastReason := 0, sched := none, hold := none, lastHold := 0, longestHold := 0, expiryAt := none, pendComps := []
    corrRefusals := 0, corrStates := [], corrImage := 0, transfer := none, cellar := false, cellarCause := 0, stagedAt := none
    cfgDue := none, bootStep := 0, bootTry := 0 }

/-- Counts from cold start are zero; those since manufacture and the fault code stay (R438, R440). -/
def coldPower (p : PowerSt) : PowerSt :=
  { PowerSt.reset with
    failedExits := p.failedExits, flushes := p.flushes, lastFlush := p.lastFlush, longestFlush := p.longestFlush, boot := p.boot
    attempts := p.attempts, faultKind := p.faultKind, faultRail := p.faultRail, faultAttempts := p.faultAttempts, good := p.good }

/-- Remote marks clear where the input reads within range (R462). -/
def coldRemote (ok : List Nat) (r : Nat) (x : Remote) : Remote :=
  if x.broken ∧ ok.contains r then { x with broken := false, step := 0 } else { x with step := flag x.broken 2 }

/-- A zone with a broken diode starts at its floor (R462). -/
def coldZones (t : ThermSt) : Tab TZone :=
  ((List.range 4).filter fun z => t.diodes.any fun p => decide (zoneOfDiode p.1 = z) && p.2.broken).map fun z =>
    (z, { TZone.fresh with step := 1 })

def coldTherm (ok : List Nat) (t : ThermSt) : ThermSt :=
  { t with
    zones := coldZones t, remotes := tabMap (coldRemote ok) t.remotes, rorWarn := 0, rorThrottle := 0, lastRorWarn := none
    stepFrames := [], critical := 0 }

/-- The volatile state at a cold start; tables, journal store and flash stay. -/
def wipeVolatile (ok : List Nat) (s : State) : State :=
  let s := coldProt (dropWork s)
  let s := updInst coldInst (updMedia coldMedia (updFlash coldFlash s))
  let s := updTherm (coldTherm ok) (updPower coldPower (updFw coldFw s))
  { s with
    frame := FrameSt.reset, mbx := MbxSt.reset, ecc := EccSt.reset, mgmt := MgmtSt.reset
    host := { HostSt.reset with ctls := s.host.ctls }
    pins := { s.pins with fault := false, gpio3 := false } }

/-! ### The stored records (R368, R394 step 1, R413, R414, R418) -/

/-- The record in force: the valid copy with the higher SEQ, else the one in ROM. -/
def readRecord (found : BootFind) (s : State) : State :=
  let a := if found.cfgA then s.fw.copyA else none
  let b := if found.cfgB then s.fw.copyB else none
  let st := if a.isSome ∧ b.isSome then 0 else if a.isSome ∨ b.isSome then 1 else 2
  let s := updFw (fun w => { w with copyA := a, copyB := b, cfg := Config412.rom, cfgState := st }) s
  let c := newestCfg s
  let s := updFw (fun w => { w with cfg := c }) s
  let s := updShelf (fun h => { h with
    pos := c.corrPos, lock := if c.corrPos = 0 ∨ c.corrPos = 0xFF then .master else .acquiring }) s
  applySync c.syncEn (applyThermal c s)

def readCalib (ok : Bool) : State → State :=
  updFw fun w => { w with calState := if !ok then 2 else flag w.calib.overwritten 1 }

/-- The policy defaults come into force (R195, R412). -/
def startPolicy (s : State) : State :=
  let c := s.fw.cfg
  let ages := ((List.range 7).map fun i => (i + 1, c.lcAge.getD i 0)).filter fun p => decide (p.2 ≠ 0)
  updMedia (fun m => { m with policy := { gcShare := c.gcShare, matchShift := c.matchShift, lcAge := ages } }) s

/-! ### The hold-up and the landing buffer (R33, R447 to R449) -/

/-- Whole GiB that the refuge area absorbs in 42.95 ms. -/
def refugeLimitOf (rate : Nat) : Nat := rate * 4295 / (100000 * 2 ^ 30)

/-- The reading at boot: no answer is E = 0 and OK = 0 at once; OK = 0 or less than 1 GiB begins in write-through. -/
def startHoldup (found : BootFind) (s : State) : State :=
  let (e, ok) := match found.holdup with
    | some r => r
    | none => (0, false)
  let s := updMedia (fun m => { m with refugeLimit := refugeLimitOf found.pslcRate }) (setHoldup e ok 0 s)
  let l := holdupGiB s.fw.cfg.lbSize s.fw.cfg.holdupCap s.media.refugeLimit e
  let wt := decide (l = 0) || !ok
  updMedia (fun m => { m with lbSize := if wt then 0 else l, writeThrough := wt }) s

/-! ### The main firmware (R394 steps 3 to 8) -/

/-- Critical warnings that the recovered state calls for (R230, R449, R502). -/
def startCritical (s : State) : State :=
  let s := when (lastShelfUsed s) (fun s => setCritical 3 (setCritical 0 s)) s
  let s := when s.media.journalReadOnly (setCritical 3) s
  let s := when (decide (s.media.spareLines < 1024)) (setCritical 2) s
  judgeWarnings (when s.media.writeThrough (setCritical 4) s)

/-- The device is held with a configuration fault: no class can hold refuge and system groups, or the slot dies are not
populated (R238, R392). The spec gives the fault no kind. -/
def configFault (s : State) : State :=
  let s := updPower (fun p => { p with boot := .held, faultKind := 0, faultRail := 0 }) s
  assertAlert (setPwrEn (pwrEnUpTo 0) { s with pins := { s.pins with fault := true } })

/-- Functions and instances after a start. -/
def startFunctions (s : State) : State :=
  let c := s.fw.cfg
  let s := startSlot .port1 (startSlot .port0 (startPf .port1 (startPf .port0 s)))
  let s := { s with host := { s.host with
    port0 := { s.host.port0 with totalVfs := c.totalVfs0 }
    port1 := { s.host.port1 with totalVfs := 2048 - c.totalVfs0 } } }
  forEach (s.inst.insts.map (·.1)) startInstance s

/-- The functions, the engines and the management core run (R394 step 8). -/
def startRun (s : State) : State :=
  let s := updPower (fun p => { p with boot := .running }) (startFunctions s)
  let s := updFw (fun w => { w with bootStep := 8 }) s
  let c := aonClk s
  updMgmt (fun m => { m with running := true, served := c }) s

/-- The engines start: channels, maps, functions, the landing buffer. -/
def startEngines (found : BootFind) (s : State) : State :=
  let rom := decide (s.fw.cfgState = 2)
  let s := startRun (if rom then s else identifyFlash found s)
  let s := if rom then s else settleDies (resumeProgress (recoverMaps found s))
  let s := startCritical (startPolicy (startHoldup found s))
  if rom then s else buildAreas s

/-- The build can start: with the record in ROM no flash is used. -/
def mayStart (found : BootFind) (s : State) : Bool :=
  let (l, ps) := buildDies s s.fw.cfg found
  decide (s.fw.cfgState = 2) || buildStarts s.fw.cfg l (newClasses s s.fw.cfg ps)

/-- The firmware of slot `n` has reported ready. -/
def bootMain (found : BootFind) (n : Nat) (s : State) : State :=
  let i := (slotAt s n).image
  let c := clk s
  let s := updSlotAt n (fun k => if k.st = .handoverFailed then k else { k with st := .valid }) s
  let s := updFw (fun w => { w with running := n, image := i, began := c }) s
  let s := when (decide (n ≠ s.fw.cfg.bootSlot)) (recEvent 0x08) s
  let s := updRec (fun r => { r with version := wordOf (runningVersion s) }) s
  if mayStart found s then startEngines found s else configFault s

/-! ### The cellar (R407, R408) -/

/-- The protected objects at their values at manufacture (R366, R408). -/
def manufactureProt (t : ProtSt) : ProtSt :=
  { t with
    fwLock := false, enables := { jtag := false, chain2 := false, console := false }, calWe := false, acceptImages := true
    forward := true, ownerKey := none, pending := [], confirmed := [] }

/-- The ROM runs the cellar; every function is as after a controller reset. -/
def enterCellar (cause : Nat) (s : State) : State :=
  let fns := functions s
  let s := forEach fns (fun fn s => updCtl fn (fun c => { clearCtl s (lifeDefault s fn) c with closing := false }) s)
    (cellarMailboxReset s)
  let s := updFw (fun w => { w with
    cellar := true, cellarCause := cause, running := 0, image := none, stagedAt := none, bootStep := 3, sched := none, hold := none }) s
  let s := if cause = 4 then { updProt manufactureProt s with inst := { s.inst with iso := [] } } else s
  let s := updPower (fun p => { p with boot := .running, entry := none, psDue := [] }) s
  let s := updRec (fun r => { r with flags := { r.flags with cellar := true } }) s
  { s with mgmt := { s.mgmt with running := false } }

/-! ### Trying the images (R395) -/

/-- Slot and copy of try `k`: both copies of BOOT_SLOT, then both of the other. -/
def trySlot (s : State) (k : Nat) : Nat := if k < 2 then s.fw.cfg.bootSlot else 3 - s.fw.cfg.bootSlot

/-- The slot state of the first step of R389 that a copy fails, by what the ROM finds of it. -/
def copyFault (s : State) (i : Image) (v : Verdict) : Option SlotSt :=
  match v with
  | .ok => verifyFault s i
  | .malformed => some .malformed
  | .wrongRevision => some .wrongRevision
  | .key => some .key
  | .rolledBack => some .rolledBack
  | .decrypt => some .decrypt

/-- The copy of try `k` passes R389. -/
def tryPasses (s : State) (found : BootFind) (k : Nat) : Bool :=
  let x := slotAt s (trySlot s k)
  match x.image, found.copies[k]? with
  | some i, some (v, _) =>
    (if k % 2 = 0 then x.copy0 else x.copy1) && (copyFault s i v).isNone
  | _, _ => false

/-- The copy of try `k` fails; when both copies of a slot have failed, its state is the failing step (R389, R393). -/
def failCopy (found : BootFind) (k : Nat) (s : State) : State :=
  let n := trySlot s k
  match (slotAt s n).image, found.copies[k]? with
  | some i, some (v, _) =>
    match copyFault s i v with
    | some st => if k % 2 = 1 ∧ !tryPasses s found (k - 1) then updSlotAt n (fun x => { x with st := st }) s else s
    | none => s
  | _, _ => s

/-- The images from try `k` on: the first that passes starts, and the device waits where its firmware does not report
ready; with none left the cellar. -/
def tryImages (found : BootFind) : Nat → Nat → State → State
  | 0, _, s => enterCellar 1 s
  | n + 1, k, s =>
    if !tryPasses s found k then tryImages found n (k + 1) (failCopy found k s)
    else
      match found.copies[k]? with
      | some (_, true) => bootMain found (trySlot s k) s
      | _ =>
        let c := clk s
        updPower (fun p => { p with boot := .rom }) (updFw (fun w => { w with bootStep := 3, bootTry := k, bootFrom := c }) s)

def startImages (found : BootFind) : State → State := tryImages found 4 0

/-- The main firmware has not reported ready within 200,000 frames of its start. -/
def readyTimeout (found : BootFind) (s : State) : State :=
  let k := s.fw.bootTry
  if !hallStarted s ∨ flushing s ∨ clk s ≤ s.fw.bootFrom + 200000 then s else tryImages found (3 - k) (k + 1) s

def execFirmwareReadyTimeout (found : BootFind) (s : State) : Host.Outcome State Fault Refusal :=
  act (readyTimeout found) s

/-! ### COLD_START (R394) -/

/-- Two broken diodes of one zone: the permanent hold, before the hall starts (R471). -/
def permanentHold (s : State) : State :=
  let s := updTherm (fun t => { t with fire := .permanent }) (updPower (fun p => { p with boot := .permanent }) s)
  driveGpio (setPwrEn [true, true, false, false]
    { s with mgmt := { s.mgmt with running := true }, pins := { s.pins with fault := true } })

/-- Step 1 and what follows from it: the cellar by strap or unreadable protection state, else the images. -/
def startDevice (found : BootFind) (s : State) : State :=
  let prot := (found.protA && s.prot.copyA) || (found.protB && s.prot.copyB)
  let s := { s with pins := { s.pins with cellar := found.cellarStrap } }
  if found.cellarStrap then enterCellar 2 s
  else if !prot then enterCellar 4 s
  else startImages found s

/-- The frame counter, FIRST_WRITE, PRED and LAST_PROG, the records and the volatile state; the device begins at
frame 0 (R41, R476, R546). -/
def newBoot (found : BootFind) (s : State) : State :=
  let cleared := (s.therm.remotes.filter fun p => p.2.broken && found.remoteOk.contains p.1).length
  let first := decide (s.inst.boots = 0)
  let f : Int := lastFrame s
  let e : Int := f - ((now s : Int) - clk s)
  let s := takeTrip (endRecord (endMinutes (updMedia (fun m => { m with ages := m.agesSaved }) s)))
  let s := if first then s else rebaseTables e f s
  let s := readCalib found.calOk (readRecord found (wipeVolatile found.remoteOk s))
  recEvents 0x13 cleared (openRecord 0 s)

/-- A cold start. A loss recognised at frame 0 is flushed with an empty landing buffer (R534). -/
def coldStart (found : BootFind) (s : State) : State :=
  if s.power.boot ≠ .rom ∨ s.fw.bootStep = 3 ∨ flushing s then s
  else if twoBroken s then permanentHold s
  else
    let s := newBoot found s
    if s.pins.pfLow then startFlush false s else startDevice found s

def execColdStart (found : BootFind) (s : State) : Host.Outcome State Fault Refusal := act (coldStart found) s

/-! ### CELLAR_ENTER, CELLAR_EXIT, CELLAR_AUTO_EXIT (R407 to R409) -/

/-- The flush of an owner's entry: acknowledged units to the refuge area, ring records and the buffer committed. -/
def cellarFlush (s : State) : State :=
  writeBuffer (commitRing s.media.ring.length (refugeWrite [] s))

/-- CELLAR_ENTER: admission stops, the flush runs, and the ROM takes over. In the cellar it is refused (log 45). -/
def cellarEnter (s : State) : State :=
  if s.fw.cellar then askRefused .owner 0x0001 s
  else
    let s := discardProposals (dropWork (cellarFlush s))
    let s := updProt (fun t => { t with claim := none }) s
    let s := updFw (fun w => { w with staging := none, act := .none }) s
    askOk .owner [] (enterCellar 3 s)

def execCellarEnter (link : Sideband) (s : State) : Host.Outcome State Fault Refusal := act (ownerRow link cellarEnter) s

/-- The cellar is left: under cause 4 the protection state is written as at manufacture and the injected keys are lost;
then R394 from step 3, the frame counter going on. -/
def leaveCellar (found : BootFind) (s : State) : State :=
  let s := if s.fw.cellarCause = 4 then
    updProt (fun t => { manufactureProt t with
      copyA := true, copyB := true, seq := t.seq + 1
      slots := t.slots.filter fun p => decide (p.2.st ≠ .injected) }) s else s
  let s := updFw (fun w => { w with cellar := false, cellarCause := 0, stagedAt := none }) (cellarMailboxReset s)
  startImages found (updPower (fun p => { p with boot := .rom }) s)

/-- CELLAR_EXIT: with neither slot valid it is refused. Outside the cellar it is refused for a reason that the spec does
not give (log 45). -/
def cellarExit (found : BootFind) (s : State) : State :=
  if !s.fw.cellar then
    let (k, s) := drawNat s
    askRefused .owner (k % 65536) s
  else if !slotValid s 1 ∧ !slotValid s 2 then askRefused .owner 0x0307 s
  else leaveCellar found (askOk .owner [] s)

def execCellarExit (link : Sideband) (found : BootFind) (s : State) : Host.Outcome State Fault Refusal :=
  act (ownerRow link (cellarExit found)) s

/-- 1,000 frames after the final reply of a staging in the cellar. -/
def cellarAutoExit (found : BootFind) (s : State) : State :=
  match s.fw.stagedAt with
  | some a => if booted s ∧ s.fw.cellar ∧ !s.pins.cellar ∧ decide (a + 1000 ≤ clk s) then leaveCellar found s else s
  | none => s

def execCellarAutoExit (found : BootFind) (s : State) : Host.Outcome State Fault Refusal :=
  act (cellarAutoExit found) s

end Sys2Proof.Machine
end

