-- ==== Sys2Proof/Machine/Boundary.lean ====
section
/-! DEFINITION. The frame boundary: the actions of R47 in their order, the refills, the frames of PS3 and PS4, and the
notice boards (R41, R43, R47, R51, R61, R83, R219, R228, R231, R340, R342, R423, R464). -/

namespace Sys2Proof.Machine

/-! ### Steps 1 to 3: the counter, the samples, the minute and the record period -/

/-- Step 5 of R47: every timeout whose last counting frame has passed (R50). The rows of these timeouts find nothing due
after it; those that need what the environment finds (a boot, an exit) are left to their rows (log 104). -/
def timeouts (s : State) : State :=
  let s := forEach (s.host.items.map (·.id)) lifetimeExpiry s
  let s := when (hallRuns s) holdExpiry s
  let s := rowTimeouts s
  let s := syncTimeout (lockQualify (holdover s))
  let s := when (booted s) (fun s => expireClaim (forEach [1, 2, 3, 4, 5, 6] expireProposal s)) s
  let s := stuckSensors (trackerWindowEnd s)
  let s := forEach (s.flash.dies.map (·.1)) statusTimeout s
  let s := forEach (s.host.ctls.map fun p => p.2.vecs.map fun v => (p.1, v.1)).flatten (fun p => aggregationExpiry p.1 p.2) s
  entryAbort (idleExpiry s)

/-- The boundary work of the frames passed in PS3 or PS4, before the boundary's own: minutes and record periods in
frame order, then timeouts (R43, R434). -/
def passedWork (s : State) : State :=
  let k := s.power.deferred
  if k = 0 then s
  else
    let s := updPower (fun p => { p with deferred := 0 }) s
    timeouts (passPeriods (now s) (passMinutes (k / framesPerMinute + 2) (now s - k) k s))

/-- A frame of the scrub cycles passes (R60, R315). -/
def scrubFrame (s : State) : State :=
  { s with ecc := { s.ecc with dramScrub := (s.ecc.dramScrub + 1) % 2 ^ 24, sramScrub := (s.ecc.sramScrub + 1) % 2 ^ 20 } }

/-- The ring has no room for its next record. -/
def ringWaits (s : State) : Bool :=
  match s.media.ring with
  | r :: _ => ringFull s r.len
  | [] => false

/-- Counts of the frame that has ended: write-through, throttle steps, composite temperature, a full ring. -/
def countFrame (s : State) : State :=
  let d := deviceStep s
  let warm := fun (limit : Nat) => match composite s with
    | some t => decide ((8 * limit : Nat) ≤ t)
    | none => false
  let w := flag (warm s.therm.tWarn) 1
  let c := flag (warm s.therm.tThrottle) 1
  let s := when s.media.writeThrough (updPower fun p => { p with wtFrames := p.wtFrames + 1 }) s
  let s := when (decide (0 < d)) (fun s =>
    updRec (fun r => { r with throttle := tabSet r.throttle d (sat32 (tabGetD r.throttle d 0 + 1)) })
      (updTherm (fun t => { t with stepFrames := tabSet t.stepFrames d (tabGetD t.stepFrames d 0 + 1) }) s)) s
  let s := updTherm (fun t => { t with wctt := t.wctt + w, cctt := t.cctt + c }) s
  when (ringWaits s) (fun s =>
    updRec (fun r => { r with ringFull := sat16 (r.ringFull + 1) })
      (updMedia (fun m => { m with ringFullFrames := m.ringFullFrames + 1 }) s)) s

/-- A frame of an activation hold counts for no lifetime (R61). -/
def pauseItems (s : State) : State :=
  if s.fw.hold.isNone then s
  else
    let c := clk s
    updItems (fun l => l.map fun it => if it.fetched < c then { it with paused := it.paused + 1 } else it) s

/-! ### Step 6: refills (R219, R340, R342, R423, R464) -/

/-- The share s of R219 at a pantry level, percent. -/
def levelShare (gc l : Nat) : Nat :=
  if 200 ≤ l then gc else if 50 < l then gc + (80 - gc) * (200 - l) / 150 else 80

def classShare (s : State) (c : Nat) : Nat := levelShare s.media.policy.gcShare (pantryLevel s c)

/-- The share of a die is raised to 80 % because of a group on it. -/
def raisedBy (s : State) (eg : Nat) (g : Group) : Bool :=
  (s.media.victims.any fun v => decide (v.eg = eg) && decide (v.prio = 4) &&
    match nsAt s g.nsx with
    | some n => !n.zoned && writeWaits s n
    | none => false) ||
  (match instAt s g.owner with
   | some i => decide (i.st = .destroying) && decide (policyNow s g.owner i = 2)
   | none => false) ||
  (g.area && s.inst.insts.any fun p => decide (p.2.st = .destroying) && decide (policyNow s p.1 p.2 = 2) &&
    s.media.refuge.any fun u => decide (u.eg = eg) && p.2.nsxs.contains u.entry.nsx)

def dieShare (s : State) (die : Nat) (d : Die) : Nat :=
  let shelf : Bool := match classAt s d.cls with
    | some k => k.lastShelf
    | none => false
  if shelf ∨ s.media.groups.any (fun p => p.2.uses die && raisedBy s p.1 p.2) then 80 else classShare s d.cls

/-- The throttle factor in eighths (R464). -/
def throttle8 (step : Nat) : Nat := if step = 0 then 8 else if step = 1 then 6 else if step = 2 then 4 else if step = 3 then 2 else 1

/-- The cap of the garbage-collection and thermal buckets: 4,096 die-frames in 1/256. -/
def dieCap : Nat := 4096 * 256

def refillDie (s : State) (die : Nat) (d : Die) : Die :=
  let step := max (deviceStep s) (regionStepNow s (channelOf die / 32))
  { d with
    gc := min dieCap (d.gc + dieShare s die d * 256 / 100)
    thermal := min dieCap (d.thermal + throttle8 step * 32) }

/-- The largest share among the classes of an owner's namespaces, or of the build. -/
def ownerShare (s : State) (fn : Nat) : Nat :=
  let own := (nssOf s fn).map fun p => p.2.cls
  let cs := if own.isEmpty then s.media.classes.map (·.1) else own
  (cs.map (classShare s)).foldl max 0

/-- A holder's refill of one kind. -/
def refillOf (s : State) (fn : Nat) (k : Kind) : Nat :=
  let r := perFrame k ((sharesOf s fn).get k).rate * psFactor s
  match k with
  | .die => r * min 60 (100 - ownerShare s fn) * throttle8 (deviceStep s) / 9600
  | _ => if tagsFull s then 0 else r / 20

def kinds : List Kind := [.read, .write, .cmd, .die]

/-- The holders: the two PFs and the instances that are LIVE, RESETTING, SANITISING or DESTROYING. -/
def holdersNow (s : State) : List Nat := (s.inst.holders.map (·.1)).filter (meteredNow s)

def refillKind (fn : Nat) (k : Kind) (s : State) : State :=
  let v := refillOf s fn k
  let s := setBuckets fn ((bucketsOf s fn).add k v) s
  let s := updHolder fn (fun h => { h with gained := h.gained.put k v }) s
  spill fn k s

/-- The DIE refill enters the window of R343. -/
def noteRefill (fn : Nat) (s : State) : State :=
  let v := refillOf s fn .die
  updHolder fn (fun h => match h.window with
    | (r, w, c, d, _) :: t => { h with window := (r, w, c, d, v) :: t }
    | [] => { h with window := [(0, 0, 0, 0, v)] }) s

/-- The unreserved part of a pool, per frame. -/
def unreserved (s : State) (k : Kind) : Nat :=
  if k ≠ .die ∧ tagsFull s then 0
  else perFrame k (poolOf s k - ((holdersNow s).map fun fn => ((sharesOf s fn).get k).rate).sum) * psFactor s / 20

/-- The surplus of a kind after its gains, at most one frame of the whole pool. -/
def poolSurplus (k : Kind) (s : State) : State :=
  let v : Int := s.inst.surplus.get k + unreserved s k
  let cap : Int := perFrame k (poolOf s k)
  updInst (fun i => { i with surplus := i.surplus.put k (min cap v) }) s

/-- Step 6 of R47. -/
def refill (s : State) : State :=
  let s := forEach (holdersNow s) (fun fn s => noteRefill fn (forEach kinds (refillKind fn) s)) s
  let s := forEach kinds poolSurplus s
  updFlash (fun f => { f with dies := tabMap (refillDie s) f.dies }) s

/-! ### The refuge area (R228) -/

/-- A refuge group goes on the pending-erase list once none of the units it carries remains in the landing buffer: each
has reached flash, been superseded, or been flushed again. -/
def releaseRefuge (s : State) : State :=
  let stays := fun (u : RefugeUnit) => decide (u.seq = s.media.flushSeq) &&
    s.media.landing.any fun e => decide (e.order = u.entry.order) && !e.committed
  let gone := s.media.groups.filter fun p => decide (p.2.st = .refuge) && decide (0 < p.2.nextRow) &&
    !(s.media.refuge.any fun u => decide (u.eg = p.1) && stays u)
  forEach (gone.map (·.1)) pendErase s

/-! ### The boundary (R47) -/

/-- Step 4 and the changes of other chapters that take effect at a boundary. -/
def applyDue (s : State) : State :=
  let s := applySteps (applyShares (applyProtection s))
  let s := startActivation (finishHold s)
  let s := applyMarks (applyCfg (applyPsDue (applyLb (applyPolicy s))))
  resumeAfterExpiry (resumeFetch (goLives s))

/-- The zones whose device finish waits for its writes. -/
def finishing (s : State) : List Nat := (s.zone.zones.filter fun p => p.2.finishing).map (·.1)

/-- Work that begins at a boundary once what precedes it has ended. -/
def beginWork (s : State) : State :=
  let s := noteReady (startSanitize (startWipes (startDestroys s)))
  let s := forEach (finishing s) deviceFinish (forEach (functions s) settle s)
  dropGone (idleTick (rebalance (releaseRefuge (leaveLastShelf s))))

/-- The lanes that have slipped in 16 frames running are reset (R57). -/
def resetLanes (s : State) : State :=
  forEach ((s.frame.lanes.filter fun p => decide (16 ≤ p.2.run)).map (·.1)) laneReset s

/-- Steps 7 and 8. -/
def openFrame (s : State) : State :=
  updFrame (fun f => { f with admission := true, inputOpen := true, committed := false })
    (publish (resetLanes (rebuildLanes s)))

/-- The tie rule's wins and what a frame gives back begin again; surplus not spent is discarded. -/
def endFrame (s : State) : State :=
  let s := updFrame (fun f => { f with tieWins := f.tieWins + f.ties, ties := 0 }) s
  let s := updZone (fun z => { z with freed := [] }) s
  updInst (fun i => { i with surplus := Buckets.reset }) s

/-- Steps 1 to 3, which the ROM keeps in the cellar too (R408, R477). -/
def countBoundary (phase : Int) (s : State) : State :=
  let s := countFrame (pauseItems (trackPhase phase (passedWork (busClose s))))
  let last := now s
  let s := increment s
  let f := now s
  let s := shelfStep s
  let cut := decide (now s ≠ f)
  noteMeters (periodEnd cut last (minuteEnd cut (meterSample s)))

def boundary (phase : Int) (s : State) : State :=
  let s := timeouts (applyDue (endFrame (countBoundary phase s)))
  if s.fw.cellar then s else openFrame (refill (beginWork (scrubFrame s)))

/-- A frame of PS3, PS4 or an exit, which AON counts (R43, R438). -/
def aonFrame (s : State) : State :=
  updPower (fun p => { p with
    aonCount := p.aonCount + 1
    ps3Frames := p.ps3Frames + flag (decide (p.ps = 3)) 1
    ps4Frames := p.ps4Frames + flag (decide (p.ps = 4)) 1
    wtFrames := p.wtFrames + flag s.media.writeThrough 1 }) s

/-- The frame pulse. A flush sees the counter alone; while the ROM waits for the firmware the boundary counts as it does
in the cellar (R408). -/
def framePulse (phase : Int) (s : State) : State :=
  if booted s ∧ gated s then aonFrame s
  else if flushing s then increment s
  else if hallStarted s then endFrame (countBoundary phase s)
  else if booted s then boundary phase s
  else s

def execFramePulse (phase : Int) (s : State) : Host.Outcome State Fault Refusal := act (framePulse phase) s

/-! ### NOTICE_BOARD_UPDATE (R83, R453) -/

/-- Occupancy of the landing buffer in thousandths of its size. -/
def landingOccupancy (s : State) : Nat :=
  if s.media.lbSize = 0 then 0 else min 1000 (s.media.landing.length * 1000 / (s.media.lbSize * 2 ^ 18))

/-- The value of board `n`; a board that another row updates keeps its value, but for NOTICE_4. -/
def boardValue (s : State) (n : Nat) : Option Nat :=
  match n with
  | 0 => some (twos 8 (wholeC ((composite s).getD 0)) + deviceStep s * 2 ^ 8)
  | 1 => some (s.therm.power10mw % 65536)
  | 2 => some (landingOccupancy s + s.media.lbSize * 2 ^ 16)
  | 3 => some (lowestLevel s + flag (lastShelfUsed s) (2 ^ 16))
  | 4 => some (sat32 s.frame.lastMinuteSlips)
  | 5 => some (s.therm.holdupMv % 65536)
  | _ => none

/-- The device power is measured: a value the spec does not give (log 3), of at most 72 W (R34). -/
def measurePower (s : State) : State :=
  let (k, s) := drawNat s
  updTherm (fun t => { t with power10mw := k % 7201 }) s

def noticeUpdate (n : Nat) (s : State) : State :=
  if !booted s ∨ !s.mgmt.running ∨ flushing s then s
  else
    let s := when (decide (n = 1)) measurePower s
    match boardValue s n with
    | some v => boardWrite n v s
    | none => s

def execNoticeBoardUpdate (n : Nat) (s : State) : Host.Outcome State Fault Refusal := act (noticeUpdate n) s

end Sys2Proof.Machine
end

