-- ==== Sys2Proof/Machine/Dispatch.lean ====
section
/-! DEFINITION. Which meaning each command has: one arm per row of the opcode table, in its order. -/

namespace Sys2Proof.Machine

def exec (i : Instr) (s : State) : Host.Outcome State Fault Refusal :=
  match i with
  | .framePulse phase => Sys2Proof.Machine.execFramePulse phase s
  | .minuteBoundary => Sys2Proof.Machine.execMinuteBoundary s
  | .recordPeriodBoundary => Sys2Proof.Machine.execRecordPeriodBoundary s
  | .planInputCutoff => Sys2Proof.Machine.execPlanInputCutoff s
  | .planCommit late => Sys2Proof.Machine.execPlanCommit late s
  | .laneReset lane => Sys2Proof.Machine.execLaneReset lane s
  | .corridorLinkUp up count => Sys2Proof.Machine.execCorridorLinkUp up count s
  | .corridorLinkDown up => Sys2Proof.Machine.execCorridorLinkDown up s
  | .holdoverReport => Sys2Proof.Machine.execHoldoverReport s
  | .lockQualified => Sys2Proof.Machine.execLockQualified s
  | .syncInPulse => Sys2Proof.Machine.execSyncInPulse s
  | .syncInMissing => Sys2Proof.Machine.execSyncInMissing s
  | .frameCountLoRead pf => Sys2Proof.Machine.execFrameCountLoRead pf s
  | .frameCount64Read pf => Sys2Proof.Machine.execFrameCount64Read pf s
  | .mbxOutDataWrite pf w => Sys2Proof.Machine.execMbxOutDataWrite pf w s
  | .mbxInDataRead pf => Sys2Proof.Machine.execMbxInDataRead pf s
  | .mbxCtlReset pf => Sys2Proof.Machine.execMbxCtlReset pf s
  | .spillConsWrite pf v => Sys2Proof.Machine.execSpillConsWrite pf v s
  | .registerWrite pf off size v => Sys2Proof.Machine.execRegisterWrite pf off size v s
  | .latchRead agent n => Sys2Proof.Machine.execLatchRead agent n s
  | .latchWrite agent n v => Sys2Proof.Machine.execLatchWrite agent n v s
  | .latchInspectRead pf n off size => Sys2Proof.Machine.execLatchInspectRead pf n off size s
  | .noticeDataRead pf n => Sys2Proof.Machine.execNoticeDataRead pf n s
  | .notice64Read pf n => Sys2Proof.Machine.execNotice64Read pf n s
  | .noticeBoardUpdate n => Sys2Proof.Machine.execNoticeBoardUpdate n s
  | .echo => Sys2Proof.Machine.execEcho s
  | .statusGet => Sys2Proof.Machine.execStatusGet s
  | .instCreate dma => Sys2Proof.Machine.execInstCreate dma s
  | .instCreateDone n => Sys2Proof.Machine.execInstCreateDone n s
  | .instDestroy => Sys2Proof.Machine.execInstDestroy s
  | .instDestroyDone n => Sys2Proof.Machine.execInstDestroyDone n s
  | .instReset => Sys2Proof.Machine.execInstReset s
  | .instanceResetEffect n => Sys2Proof.Machine.execInstanceResetEffect n s
  | .instResetEnd n => Sys2Proof.Machine.execInstResetEnd n s
  | .instShareSet => Sys2Proof.Machine.execInstShareSet s
  | .instQuery => Sys2Proof.Machine.execInstQuery s
  | .instSanitise => Sys2Proof.Machine.execInstSanitise s
  | .instSanitiseStart n => Sys2Proof.Machine.execInstSanitiseStart n s
  | .instSanitiseDone n => Sys2Proof.Machine.execInstSanitiseDone n s
  | .protPropose via => Sys2Proof.Machine.execProtPropose via s
  | .protConfirm via => Sys2Proof.Machine.execProtConfirm via s
  | .protWithdraw via => Sys2Proof.Machine.execProtWithdraw via s
  | .protQuery via => Sys2Proof.Machine.execProtQuery via s
  | .protProposalExpiry cls => Sys2Proof.Machine.execProtProposalExpiry cls s
  | .claimBegin link => Sys2Proof.Machine.execClaimBegin link s
  | .claimFinish link strap key good => Sys2Proof.Machine.execClaimFinish link strap key good s
  | .claimNonceExpiry => Sys2Proof.Machine.execClaimNonceExpiry s
  | .release link => Sys2Proof.Machine.execRelease link s
  | .spdmSessionMessage m => Sys2Proof.Machine.execSpdmSessionMessage m s
  | .fwStage via checks => Sys2Proof.Machine.execFwStage via checks s
  | .fwStageWritten => Sys2Proof.Machine.execFwStageWritten s
  | .fwSchedule copyOk => Sys2Proof.Machine.execFwSchedule copyOk s
  | .fwPrepareDone => Sys2Proof.Machine.execFwPrepareDone s
  | .fwCancel => Sys2Proof.Machine.execFwCancel s
  | .fwStatus via => Sys2Proof.Machine.execFwStatus via s
  | .handoverRecordWritten => Sys2Proof.Machine.execHandoverRecordWritten s
  | .engineMicrocodeSwitch => Sys2Proof.Machine.execEngineMicrocodeSwitch s
  | .handoverReady => Sys2Proof.Machine.execHandoverReady s
  | .activationHoldExpiry => Sys2Proof.Machine.execActivationHoldExpiry s
  | .svMinRaise => Sys2Proof.Machine.execSvMinRaise s
  | .meterRingSet => Sys2Proof.Machine.execMeterRingSet s
  | .meterRead => Sys2Proof.Machine.execMeterRead s
  | .meterBatchWrite cons dmaOk => Sys2Proof.Machine.execMeterBatchWrite cons dmaOk s
  | .meterRetry cons dmaOk => Sys2Proof.Machine.execMeterRetry cons dmaOk s
  | .recRead dma => Sys2Proof.Machine.execRecRead dma s
  | .calRead dma => Sys2Proof.Machine.execCalRead dma s
  | .calWrite dma => Sys2Proof.Machine.execCalWrite dma s
  | .cfgRead dma => Sys2Proof.Machine.execCfgRead dma s
  | .cfgCommit dma => Sys2Proof.Machine.execCfgCommit dma s
  | .placePolicySet => Sys2Proof.Machine.execPlacePolicySet s
  | .placeQuery => Sys2Proof.Machine.execPlaceQuery s
  | .pwrCounters => Sys2Proof.Machine.execPwrCounters s
  | .thermQuery => Sys2Proof.Machine.execThermQuery s
  | .eccTestEnter => Sys2Proof.Machine.execEccTestEnter s
  | .eccTestWriteRaw => Sys2Proof.Machine.execEccTestWriteRaw s
  | .eccTestReadRaw => Sys2Proof.Machine.execEccTestReadRaw s
  | .eccTestRead => Sys2Proof.Machine.execEccTestRead s
  | .eccTestWrite => Sys2Proof.Machine.execEccTestWrite s
  | .eccTestEncode => Sys2Proof.Machine.execEccTestEncode s
  | .eccTestExit => Sys2Proof.Machine.execEccTestExit s
  | .cellarEnter link => Sys2Proof.Machine.execCellarEnter link s
  | .cellarExit link found => Sys2Proof.Machine.execCellarExit link found s
  | .cellarAutoExit found => Sys2Proof.Machine.execCellarAutoExit found s
  | .corridorImageArrival img forward => Sys2Proof.Machine.execCorridorImageArrival img forward s
  | .corridorForwardRetry accepted => Sys2Proof.Machine.execCorridorForwardRetry accepted s
  | .corridorScheduleArrival imageId frame => Sys2Proof.Machine.execCorridorScheduleArrival imageId frame s
  | .corridorCancelArrival => Sys2Proof.Machine.execCorridorCancelArrival s
  | .corridorOutcomeRelay pos state imageId => Sys2Proof.Machine.execCorridorOutcomeRelay pos state imageId s
  | .submissionDoorbellWrite fn sq tail => Sys2Proof.Machine.execSubmissionDoorbellWrite fn sq tail s
  | .completionDoorbellWrite fn cq head => Sys2Proof.Machine.execCompletionDoorbellWrite fn cq head s
  | .commandFetch fn sq e => Sys2Proof.Machine.execCommandFetch fn sq e s
  | .controllerReset fn => Sys2Proof.Machine.execControllerReset fn s
  | .controllerEnable fn cc aqa => Sys2Proof.Machine.execControllerEnable fn cc aqa s
  | .functionLevelReset fn => Sys2Proof.Machine.execFunctionLevelReset fn s
  | .portLinkReset pf perst => Sys2Proof.Machine.execPortLinkReset pf perst s
  | .vfEnableChange pf enable numVfs => Sys2Proof.Machine.execVfEnableChange pf enable numVfs s
  | .deleteIoSubmissionQueue id => Sys2Proof.Machine.execDeleteIoSubmissionQueue id s
  | .createIoSubmissionQueue id => Sys2Proof.Machine.execCreateIoSubmissionQueue id s
  | .deleteIoCompletionQueue id => Sys2Proof.Machine.execDeleteIoCompletionQueue id s
  | .createIoCompletionQueue id => Sys2Proof.Machine.execCreateIoCompletionQueue id s
  | .getLogPage id => Sys2Proof.Machine.execGetLogPage id s
  | .identify id => Sys2Proof.Machine.execIdentify id s
  | .abort id => Sys2Proof.Machine.execAbort id s
  | .setFeaturesArbitration id => Sys2Proof.Machine.execSetFeaturesArbitration id s
  | .setFeaturesPowerManagement id => Sys2Proof.Machine.execSetFeaturesPowerManagement id s
  | .setFeaturesTemperatureThreshold id => Sys2Proof.Machine.execSetFeaturesTemperatureThreshold id s
  | .setFeaturesErrorRecovery id => Sys2Proof.Machine.execSetFeaturesErrorRecovery id s
  | .setFeaturesNumberOfQueues id => Sys2Proof.Machine.execSetFeaturesNumberOfQueues id s
  | .setFeaturesInterruptCoalescing id => Sys2Proof.Machine.execSetFeaturesInterruptCoalescing id s
  | .setFeaturesInterruptVectorConfig id => Sys2Proof.Machine.execSetFeaturesInterruptVectorConfig id s
  | .setFeaturesWriteAtomicity id => Sys2Proof.Machine.execSetFeaturesWriteAtomicity id s
  | .setFeaturesAsyncEventConfig id => Sys2Proof.Machine.execSetFeaturesAsyncEventConfig id s
  | .setFeaturesApst id dma => Sys2Proof.Machine.execSetFeaturesApst id dma s
  | .setFeaturesTimestamp id dma => Sys2Proof.Machine.execSetFeaturesTimestamp id dma s
  | .setFeaturesLifetimeLimit id => Sys2Proof.Machine.execSetFeaturesLifetimeLimit id s
  | .getFeatures id => Sys2Proof.Machine.execGetFeatures id s
  | .asynchronousEventRequest id => Sys2Proof.Machine.execAsynchronousEventRequest id s
  | .namespaceManagement id dma => Sys2Proof.Machine.execNamespaceManagement id dma s
  | .namespaceAttachment id dma => Sys2Proof.Machine.execNamespaceAttachment id dma s
  | .firmwareImageDownload id bytes failAt => Sys2Proof.Machine.execFirmwareImageDownload id bytes failAt s
  | .firmwareCommitReplace cmd => Sys2Proof.Machine.execFirmwareCommitReplace cmd s
  | .firmwareCommitActivate id copyOk => Sys2Proof.Machine.execFirmwareCommitActivate id copyOk s
  | .directiveSend id => Sys2Proof.Machine.execDirectiveSend id s
  | .directiveReceive id => Sys2Proof.Machine.execDirectiveReceive id s
  | .nvmeMiSend id dma => Sys2Proof.Machine.execNvmeMiSend id dma s
  | .nvmeMiReceive id => Sys2Proof.Machine.execNvmeMiReceive id s
  | .formatNvm id => Sys2Proof.Machine.execFormatNvm id s
  | .formatDone nsx => Sys2Proof.Machine.execFormatDone nsx s
  | .sanitizeBlockErase id => Sys2Proof.Machine.execSanitizeBlockErase id s
  | .sanitizeCryptoErase id => Sys2Proof.Machine.execSanitizeCryptoErase id s
  | .sanitizeExitFailureMode id => Sys2Proof.Machine.execSanitizeExitFailureMode id s
  | .sanitizeDone good => Sys2Proof.Machine.execSanitizeDone good s
  | .securitySend id => Sys2Proof.Machine.execSecuritySend id s
  | .securityReceive id => Sys2Proof.Machine.execSecurityReceive id s
  | .unsupportedOpcode id => Sys2Proof.Machine.execUnsupportedOpcode id s
  | .flush id => Sys2Proof.Machine.execFlush id s
  | .write id => Sys2Proof.Machine.execWrite id s
  | .read id => Sys2Proof.Machine.execRead id s
  | .writeZeroes id => Sys2Proof.Machine.execWriteZeroes id s
  | .datasetManagement id dma => Sys2Proof.Machine.execDatasetManagement id dma s
  | .verify id => Sys2Proof.Machine.execVerify id s
  | .zoneAppend id => Sys2Proof.Machine.execZoneAppend id s
  | .closeZone id => Sys2Proof.Machine.execCloseZone id s
  | .finishZone id => Sys2Proof.Machine.execFinishZone id s
  | .openZone id => Sys2Proof.Machine.execOpenZone id s
  | .resetZone id => Sys2Proof.Machine.execResetZone id s
  | .offlineZone id => Sys2Proof.Machine.execOfflineZone id s
  | .reportZones id => Sys2Proof.Machine.execReportZones id s
  | .zoneWriteStart id => Sys2Proof.Machine.execZoneWriteStart id s
  | .ordBarrierRelease id => Sys2Proof.Machine.execOrdBarrierRelease id s
  | .conventionalWriteWaitEnd id => Sys2Proof.Machine.execConventionalWriteWaitEnd id s
  | .landingSpaceWaitEnd id => Sys2Proof.Machine.execLandingSpaceWaitEnd id s
  | .unitLanded id unit data pi => Sys2Proof.Machine.execUnitLanded id unit data pi s
  | .writeCompletionPost id => Sys2Proof.Machine.execWriteCompletionPost id s
  | .hostDmaFailure id => Sys2Proof.Machine.execHostDmaFailure id s
  | .zoneDrainEnd zone => Sys2Proof.Machine.execZoneDrainEnd zone s
  | .commandLifetimeExpiry id => Sys2Proof.Machine.execCommandLifetimeExpiry id s
  | .partialRowWaitExpiry nsx first => Sys2Proof.Machine.execPartialRowWaitExpiry nsx first s
  | .stripeRowDispatch nsx first => Sys2Proof.Machine.execStripeRowDispatch nsx first s
  | .suspendAcknowledged die => Sys2Proof.Machine.execSuspendAcknowledged die s
  | .dieStatusPoll die ready => Sys2Proof.Machine.execDieStatusPoll die ready s
  | .senseComplete die => Sys2Proof.Machine.execSenseComplete die s
  | .programComplete die bad => Sys2Proof.Machine.execProgramComplete die bad s
  | .eraseComplete die bad => Sys2Proof.Machine.execEraseComplete die bad s
  | .statusTimeout die => Sys2Proof.Machine.execStatusTimeout die s
  | .codewordDecode rd out => Sys2Proof.Machine.execCodewordDecode rd out s
  | .softDecodeComplete rd out => Sys2Proof.Machine.execSoftDecodeComplete rd out s
  | .backStairReconstruct rd => Sys2Proof.Machine.execBackStairReconstruct rd s
  | .readEgress id unit => Sys2Proof.Machine.execReadEgress id unit s
  | .journalRecordCommit readBackOk => Sys2Proof.Machine.execJournalRecordCommit readBackOk s
  | .homeLineWrite line reads => Sys2Proof.Machine.execHomeLineWrite line reads s
  | .checkpointSegmentWrite seg => Sys2Proof.Machine.execCheckpointSegmentWrite seg s
  | .relocationVictimStart eg => Sys2Proof.Machine.execRelocationVictimStart eg s
  | .relocationCommit eg => Sys2Proof.Machine.execRelocationCommit eg s
  | .groupEraseIssue eg => Sys2Proof.Machine.execGroupEraseIssue eg s
  | .secureDiscardStep seq => Sys2Proof.Machine.execSecureDiscardStep seq s
  | .refreshAgeReached eg => Sys2Proof.Machine.execRefreshAgeReached eg s
  | .patrolRead eg row => Sys2Proof.Machine.execPatrolRead eg row s
  | .trackerSave => Sys2Proof.Machine.execTrackerSave s
  | .trackerWindowEnd => Sys2Proof.Machine.execTrackerWindowEnd s
  | .probeRead die => Sys2Proof.Machine.execProbeRead die s
  | .channelRetrain ch out => Sys2Proof.Machine.execChannelRetrain ch out s
  | .dramPatrolScrub ch errs => Sys2Proof.Machine.execDramPatrolScrub ch errs s
  | .sramPatrolScrub target errs => Sys2Proof.Machine.execSramPatrolScrub target errs s
  | .trngHealthFailure => Sys2Proof.Machine.execTrngHealthFailure s
  | .zoneFinishRecommended zone => Sys2Proof.Machine.execZoneFinishRecommended zone s
  | .zoneDeviceFinish zone => Sys2Proof.Machine.execZoneDeviceFinish zone s
  | .controlCoreWatchdogExpiry core => Sys2Proof.Machine.execControlCoreWatchdogExpiry core s
  | .controlCoreRestartDone core => Sys2Proof.Machine.execControlCoreRestartDone core s
  | .mgmtWatchdogExpiry => Sys2Proof.Machine.execMgmtWatchdogExpiry s
  | .mgmtRestartDone => Sys2Proof.Machine.execMgmtRestartDone s
  | .apstIdleTimerExpiry => Sys2Proof.Machine.execApstIdleTimerExpiry s
  | .psEntryDrained => Sys2Proof.Machine.execPsEntryDrained s
  | .psEntryAbort => Sys2Proof.Machine.execPsEntryAbort s
  | .wakeEvent => Sys2Proof.Machine.execWakeEvent s
  | .psExit failed => Sys2Proof.Machine.execPsExit failed s
  | .holdupReading answer => Sys2Proof.Machine.execHoldupReading answer s
  | .pmbAlert statusWord => Sys2Proof.Machine.execPmbAlert statusWord s
  | .pfNRecognised => Sys2Proof.Machine.execPfNRecognised s
  | .powerLossFlushEnd => Sys2Proof.Machine.execPowerLossFlushEnd s
  | .flushRestart => Sys2Proof.Machine.execFlushRestart s
  | .diodeSample d code reading => Sys2Proof.Machine.execDiodeSample d code reading s
  | .remoteSample r code reading => Sys2Proof.Machine.execRemoteSample r code reading s
  | .railMonitorSample rail mv => Sys2Proof.Machine.execRailMonitorSample rail mv s
  | .coolingRestart => Sys2Proof.Machine.execCoolingRestart s
  | .alertResponseRead => Sys2Proof.Machine.execAlertResponseRead s
  | .mctpMessage via msg => Sys2Proof.Machine.execMctpMessage via msg s
  | .readNvmeMiDataStructure req => Sys2Proof.Machine.execReadNvmeMiDataStructure req s
  | .nvmSubsystemHealthStatusPoll req => Sys2Proof.Machine.execNvmSubsystemHealthStatusPoll req s
  | .controllerHealthStatusPoll req => Sys2Proof.Machine.execControllerHealthStatusPoll req s
  | .configurationSet req => Sys2Proof.Machine.execConfigurationSet req s
  | .configurationGet req => Sys2Proof.Machine.execConfigurationGet req s
  | .recorderRead req => Sys2Proof.Machine.execRecorderRead req s
  | .thermalQuery req => Sys2Proof.Machine.execThermalQuery req s
  | .controlPrimitivePause req => Sys2Proof.Machine.execControlPrimitivePause req s
  | .controlPrimitiveResume req => Sys2Proof.Machine.execControlPrimitiveResume req s
  | .controlPrimitiveAbort req => Sys2Proof.Machine.execControlPrimitiveAbort req s
  | .controlPrimitiveGetState req => Sys2Proof.Machine.execControlPrimitiveGetState req s
  | .controlPrimitiveReplay req => Sys2Proof.Machine.execControlPrimitiveReplay req s
  | .nvmeMiAdminCommand req => Sys2Proof.Machine.execNvmeMiAdminCommand req s
  | .nvmeMiInvalidOpcode req => Sys2Proof.Machine.execNvmeMiInvalidOpcode req s
  | .basicManagementStatus => Sys2Proof.Machine.execBasicManagementStatus s
  | .basicManagementVendorSerial => Sys2Proof.Machine.execBasicManagementVendorSerial s
  | .basicManagementFaultCode => Sys2Proof.Machine.execBasicManagementFaultCode s
  | .basicManagementFireDoorStatus => Sys2Proof.Machine.execBasicManagementFireDoorStatus s
  | .recorderBufferWrite => Sys2Proof.Machine.execRecorderBufferWrite s
  | .powerOn => Sys2Proof.Machine.execPowerOn s
  | .railPowerGood group => Sys2Proof.Machine.execRailPowerGood group s
  | .bootWaitTimeout rail => Sys2Proof.Machine.execBootWaitTimeout rail s
  | .bootRetry => Sys2Proof.Machine.execBootRetry s
  | .coldStart found => Sys2Proof.Machine.execColdStart found s
  | .firmwareReadyTimeout found => Sys2Proof.Machine.execFirmwareReadyTimeout found s
  | .gatedRead pf off size => Sys2Proof.Machine.execGatedRead pf off size s
  | .pcieLinkUp pf => Sys2Proof.Machine.execPcieLinkUp pf s
  | .aggregationTimeExpiry fn vector => Sys2Proof.Machine.execAggregationTimeExpiry fn vector s
  | .jtagInstruction second ir => Sys2Proof.Machine.execJtagInstruction second ir s
  | .consoleInput c => Sys2Proof.Machine.execConsoleInput c s
  | .trngHealthTestPass => Sys2Proof.Machine.execTrngHealthTestPass s
  | .powerRemoved => Sys2Proof.Machine.execPowerRemoved s
  | .sidebandLinkReset link => Sys2Proof.Machine.execSidebandLinkReset link s

end Sys2Proof.Machine
end

