-- ==== Sys2Proof/Safety.lean ====
section
/-! DEFINITION. What a claim about the block is stated in: the groups of state, and which of them one command
leaves alone. -/

namespace Sys2Proof.Machine

/-- The groups of state, one per field of `State`. -/
inductive Part
  | frame | mbx | host | zone | media | flash | inst | prot | ecc | fw | power | therm | mgmt | pins | recd | emit
  | free | pending
deriving DecidableEq, Repr

/-- The two states hold the same in a group. -/
def Part.same (p : Part) (s t : State) : Prop :=
  match p with
  | .frame => t.frame = s.frame
  | .mbx => t.mbx = s.mbx
  | .host => t.host = s.host
  | .zone => t.zone = s.zone
  | .media => t.media = s.media
  | .flash => t.flash = s.flash
  | .inst => t.inst = s.inst
  | .prot => t.prot = s.prot
  | .ecc => t.ecc = s.ecc
  | .fw => t.fw = s.fw
  | .power => t.power = s.power
  | .therm => t.therm = s.therm
  | .mgmt => t.mgmt = s.mgmt
  | .pins => t.pins = s.pins
  | .recd => t.recd = s.recd
  | .emit => t.emit = s.emit
  | .free => t.free = s.free
  | .pending => t.pending = s.pending

/-- Outside the groups `ps`, `t` holds what `s` holds. -/
structure Only (ps : List Part) (s t : State) : Prop where
  same : ∀ p, p ∉ ps → p.same s t

/-- The command completes from `s`: exec answers a next state, of which `p` holds. -/
def Does (c : Instr) (s : State) (p : State → Prop) : Prop := ∃ t, exec c s = .next t ∧ p t

/-! ### Requests and their answers -/

/-- One request stands in the host→device queue, whole and alone, under an opcode and a fresh tag; core 0 takes
requests up, and nothing waits on the way back (R71, R77, R84). -/
structure Asks (s : State) (op : Nat) (r : Posted) : Prop where
  taken : scpOpen s = true
  head : s.mbx.outQ = [r]
  whole : s.mbx.part = none
  opcode : r.opcode = op
  fresh : tagDup s r = false
  normal : s.fw.cellar = false
  noReply : s.mbx.inQ = []
  noSpill : spillUsed s.mbx = 0
  noBacklog : s.mbx.backlog = []

/-- A request that passes every check of R84: its form, its agent where the opcode is the manager's, and what its own
rule says of its payload; it was posted under the HOST_EPOCH in force. -/
structure Accepted (s : State) (op : Nat) (r : Posted) (f : Form) (fault : Posted → Option Nat) : Prop where
  asks : Asks s op r
  form : formFault r f = none
  manager : f.mgr = true → holder s 0 = r.agent
  payload : (descOwn r f).or (fault r) = none
  epoch : r.epoch = s.mbx.hostEpoch

/-- The one message in the device→host queue is the reply to `r` with a status and payload; the request is gone
from the host→device queue (R65, R71, R75). -/
structure Answers (s t : State) (r : Posted) (status : Nat) (payload : List Nat) : Prop where
  reply : t.mbx.inQ = inWords
    { words := replyHeader r.opcode r.tag payload.length (decide (r.epoch ≠ s.mbx.hostEpoch)) status :: payload.map wordOf
      epoch := s.mbx.devEpoch }
  taken : t.mbx.outQ = []

/-- Request `o` was answered PENDING and is owed its final reply, and nothing waits on the way back (R85). -/
structure Owed (s : State) (o : Outst) : Prop where
  outstanding : (s.mbx.outst.find? fun x => decide (x.tag = o.tag) && decide (x.opcode = o.opcode)) = some o
  noReply : s.mbx.inQ = []
  noSpill : spillUsed s.mbx = 0
  noBacklog : s.mbx.backlog = []

/-- The one message in the device→host queue is the final reply to `o`, which is outstanding no longer (R71, R85). -/
structure Settles (s t : State) (o : Outst) (status : Nat) (payload : List Nat) : Prop where
  reply : t.mbx.inQ = inWords
    { words := replyHeader o.opcode o.tag payload.length (decide (o.epoch ≠ s.mbx.hostEpoch)) status :: payload.map wordOf
      epoch := s.mbx.devEpoch }
  settled : t.mbx.outst = s.mbx.outst.erase o

/-- The owner's requests on a link are taken up in a mutually authenticated session, and none of them has to wake the
device first (R369, R432). -/
structure OwnerHeard (s : State) (l : Sideband) : Prop where
  taken : ownerOpen s = true
  awake : gated s = false
  noEntry : s.power.entry = none
  session : ∃ x, sessionOn s l = some x ∧ x.mutualAuth = true
  normal : s.fw.cellar = false

/-- The owner is answered on its session with a status and payload words, and nothing else is sent out (R384). -/
def OwnerAnswered (t : State) (status : Nat) (words : List Nat) : Prop :=
  t.emit = [.owner status ((words.map fun w => le w 4).flatten)]

/-- What a staging holds with the piece `b` at offset `off`: offset 0 begins anew (R397). -/
def staged (s : State) (off : Nat) (b : List Byte) : List Byte :=
  (if off = 0 then [] else match s.fw.staging with
    | some g => g.data
    | none => []) ++ b

/-! ### Commands of the queues and their completions -/

/-- The work item of an admin command whose checks of R103, R104 and R110 pass: it is the only one under its number, core 0
processes it now, and none of those held before it at the porch or over a restart is still to be parsed (R38, R124). -/
structure AdminRuns (s : State) (id : CmdId) (opc : Nat) (who : Access) (it : Item) : Prop where
  found : findItem s id = some it
  unique : itemBySeq s it.seq = some it
  queue : id.sq = 0
  opcode : it.opc = opc
  fresh : it.outcome = none
  heard : it.silent = false
  taken : adminOpen s = true
  released : it.held = false
  turn : inTurn s it = true
  allowed : accessFault s id.fn who = none
  plain : it.sqe.fuse = 0 ∧ it.sqe.psdt = 0
  noWipe : sanitizing s = false ∧ instSanitizing s id.fn = false

/-- The state in which core 0 processes an admin command: the command is taken up, and nothing is sent out yet. -/
def admitted (s : State) (it : Item) : State := takeUp it.seq { s with emit := [] }

/-- The item is gone from the tag table, and where its completion queue has a free entry and nothing waiting, the queue's
one new entry is its completion (R97, R117). -/
structure Completes (s t : State) (it : Item) (st : Status) (dw0 dw1 : Word) : Prop where
  gone : ∀ x ∈ t.host.items, x.seq ≠ it.seq
  posted : ∀ c q, ctlOf s it.id.fn = some c → tabGet c.cqs (cqOf c it.id.sq) = some q → q.waiting = [] →
    q.entries.length + 1 < q.size → ∃ c' q', ctlOf t it.id.fn = some c' ∧ tabGet c'.cqs (cqOf c it.id.sq) = some q' ∧
      q'.entries = q.entries ++
        [{ sq := it.id.sq, cid := it.id.cid, st := st, more := st.failed, dw0 := dw0, dw1 := dw1 }]

/-- A Set Features of one feature identifier whose further checks pass: it is not asked to be saved, and its function may
set it (R107). -/
structure SetsFeature (s : State) (id : CmdId) (fid : Nat) (mgr : Bool) (it : Item) : Prop where
  runs : AdminRuns s id 0x09 .all it
  feature : fidOf it = fid
  notSaved : dw it.sqe.cdw10 31 31 = 0
  allowed : mgr = true → isManager s it.id.fn = true

/-- The feature is set on the command's function alone, and the command completes successfully. -/
structure FeatureSet (s t : State) (it : Item) (f : Feats → Feats) : Prop where
  completes : Completes s t it stOk 0 0
  set : ∀ c, ctlOf s it.id.fn = some c → ∃ c', ctlOf t it.id.fn = some c' ∧ c'.feats = f c.feats
  others : ∀ fn, fn ≠ it.id.fn → ctlOf t fn = ctlOf s fn

/-! ### I/O commands -/

/-- The work item of an I/O command that neither its core nor a hold keeps from being processed, and whose checks of R104, R110 and
R143 pass on the namespace it names. -/
structure IoRuns (s : State) (id : CmdId) (opc : Nat) (it : Item) (x : Nat) (n : Ns) : Prop where
  found : findItem s id = some it
  unique : itemBySeq s it.seq = some it
  queue : id.sq ≠ 0
  opcode : it.opc = opc
  fetched : it.phase = .fetched
  heard : it.silent = false
  taken : ioOpen s it = true
  parsed : parseIo s it = .inr (x, n)

/-- The work item of a parsed write or read that waits to start. -/
structure IoWaits (s : State) (id : CmdId) (it : Item) (x : Nat) (n : Ns) : Prop where
  found : findItem s id = some it
  unique : itemBySeq s it.seq = some it
  waiting : it.phase = .waiting
  heard : it.silent = false
  taken : ioOpen s it = true
  named : nsOf s id.fn it.sqe.nsid.toNat = some (x, n)

/-- The work item of a started command whose outcome is open. -/
structure IoStarted (s : State) (id : CmdId) (it : Item) (x : Nat) (n : Ns) : Prop where
  found : findItem s id = some it
  unique : itemBySeq s it.seq = some it
  started : it.phase = .started
  heard : it.silent = false
  fresh : it.outcome = none
  runs : hallRuns s = true
  named : nsOf s id.fn it.sqe.nsid.toNat = some (x, n)
  record : nsAt s x = some n

/-- The state in which a parsed write starts. -/
def parsed (s : State) (it : Item) : State := updItem it.seq (fun i => { i with phase := .waiting }) { s with emit := [] }

/-- The item has reached phase `ph` with its first unit and number of units, and nothing has completed. -/
def Starts (s t : State) (it : Item) (ph : Phase) (u cnt : Nat) : Prop :=
  (∃ i, itemBySeq t it.seq = some i ∧ i.phase = ph ∧ i.id = it.id ∧ i.sqe = it.sqe ∧ i.outcome = it.outcome ∧
    i.unit = u ∧ i.count = cnt) ∧ t.host.ctls = s.host.ctls

/-- In state `w` a write to zone `z` may start: its turn has come, no drain nor want of landing space holds it, the checks
of R142 pass, and the rows it needs can be claimed. -/
structure ZoneTakes (w : State) (it : Item) (n : Ns) (z : Nat) (r : Zone) : Prop where
  zone : zoneAt w z = some r
  order : barrierOpen w it = true
  turn : zoneTurn w z it = true
  drained : ∀ d, r.drain = some d → it.seq < d.from_
  room : landingRoom w = true
  writable : w.media.journalReadOnly = false
  checks : zoneChecks w it n r = none
  unblocked : n.blocked = false
  rows : claimRows z n (rowsOf n r.ap it.sqe.nlb) (openForWrite z it n r w) ≠ none

/-- In state `w` a conventional write, not a deallocating one, may start. -/
structure ConvTakes (w : State) (it : Item) (x : Nat) (n : Ns) : Prop where
  order : barrierOpen w it = true
  room : landingRoom w = true
  writable : w.media.journalReadOnly = false
  unblocked : n.blocked = false
  writes : it.opc = 0x08 → it.sqe.cdw12.getLsbD 25 = false
  rows : ∃ v, claimConv x (handleLc it.sqe.handle) (rowsShort w x n (handleLc it.sqe.handle)
    (unitCount n it.sqe.slba it.sqe.nlb)) w = .ok v

/-- The write of `it`, which starts in state `w`: on a zone at its accept pointer, which moves on by the command's length,
the zone opened and bound (R141, R142, R151); on a conventional namespace at its first unit (R154). A Write Zeroes on
whole units has its work done at once. -/
def WriteStarts (c : Instr) (s w : State) (it : Item) (x : Nat) (n : Ns) : Prop :=
  (n.zoned = true → ∀ r, ZoneTakes w it n (zoneOfUnit n it.sqe.slba) r → Does c s fun t =>
    Starts s t it (if it.opc = 0x08 then .done else .started) (r.idx * zoneUnits n + r.ap) it.sqe.nlb ∧
    ∃ k, zoneAt t (zoneOfUnit n it.sqe.slba) = some k ∧ k.ap = r.ap + it.sqe.nlb ∧ k.wp = r.wp ∧
      k.st = (if r.st = .empty ∨ r.st = .closed then .implicit else r.st) ∧
      k.bind = some (r.bind.getD (handleLc it.sqe.handle, handlePg it.sqe.handle))) ∧
  (n.zoned = false → ConvTakes w it x n → Does c s fun t =>
    Starts s t it (if it.opc = 0x08 ∧ lbaData n.lbaf = 4096 then .done else .started)
      (firstUnit n it.sqe.slba) (unitCount n it.sqe.slba it.sqe.nlb) ∧ t.host.nextStart = s.host.nextStart + 1)

/-- The ranges of a deallocation: with none that covers a whole unit the command completes; otherwise it is started, and
each range is in an UNMAP record, the command completing with the last, or on a secure-discard namespace in a discard
(R109, R154, R155). -/
def Deallocates (s t : State) (it : Item) (x : Nat) (n : Ns) (ranges : List (Nat × Nat)) : Prop :=
  (ranges.filter (fun r => decide (0 < r.2)) = [] → Completes s t it stOk 0 0) ∧
  (ranges.filter (fun r => decide (0 < r.2)) ≠ [] →
    (∃ i, itemBySeq t it.seq = some i ∧ i.phase = .started ∧ i.ranges = ranges) ∧ t.host.ctls = s.host.ctls ∧
    (n.secdisc = false → ∃ l, t.media.ring = s.media.ring ++ l ∧
      l.map (·.unmap) = (ranges.filter fun r => decide (0 < r.2)).map (fun r => some (x, r.1, r.2)) ∧
      l.getLast?.map (·.items) = some [it.seq]) ∧
    (n.secdisc = true → ∃ l, t.zone.discards = s.zone.discards ++ l ∧
      l.map (fun d => (d.seq, d.nsx, d.first, d.count)) =
        (ranges.filter fun r => decide (0 < r.2)).map fun r => (it.seq, x, r.1, r.2)))

/-- The zones a Zone Management Send with Select All acts on (R137). -/
def sentAll (s : State) (a : ZAction) (n : Ns) : List Nat :=
  (nsZones n).filter fun z =>
    match zoneAt s z with
    | some r => allActs a r.st
    | none => false

/-! ### Rows and records -/

/-- The next row of group `eg`, which a claim had reserved, is bound to units at positions `pos` of namespace `x`: it waits
for the program of every member, which the floor planner is asked for (R46, R168, R170, R172). -/
structure RowBound (s t : State) (x eg : Nat) (g : Group) (zone : Option (Nat × Nat)) (pos : List Nat) : Prop where
  op : ∃ o, t.media.rowOps = s.media.rowOps ++ [o] ∧ o.eg = eg ∧ o.row = g.nextRow ∧ o.nsx = x ∧ o.zone = zone ∧
    o.reloc = none ∧ o.units.map (·.1) = pos ∧ o.outstanding = List.range g.width
  group : ∃ k, groupAt t eg = some k ∧ k.nextRow = g.nextRow + 1 ∧ k.reserved = g.reserved - 1 ∧ g.nextRow ∈ k.inFlight
  asked : s.frame.inputOpen = true → ∃ l, t.flash.reqs = s.flash.reqs ++ l ∧
    l.map (fun q => (q.kind, q.eg, q.row, q.member)) =
      (List.range g.members.length).map fun m => (OpKind.program, eg, g.nextRow, m)

/-- The dispatchable units of a conventional namespace's lifetime class, a row at most, oldest first. -/
def convRowUnits (s : State) (x lc ru : Nat) : List Landed :=
  (s.media.landing.filter fun e => decide (e.nsx = x) && decide (e.lc = lc) && dispatchable s e).take ru

/-- The oldest record is taken off the ring, everything it changes comes about at once, and it waits for its home lines
(R200 to R202). -/
def commits (s : State) (r : JRec) (rest : List JRec) : State := record r rest { s with emit := [] }

/-- The oldest record is `r`, and nothing keeps it from being committed. -/
structure MayCommit (s : State) (r : JRec) (rest : List JRec) : Prop where
  head : s.media.ring = r :: rest
  boot : s.power.boot = .running
  writable : s.media.journalReadOnly = false
  room : ringFull s r.len = false
  extents : extentsUsed (commits s r rest) ≤ extentBlocks

/-- A record that does not repeat a damaged one, and changes neither a row, nor a zone, nor a mapping, nor a group but those
it puts on the pending-erase list. -/
def plainRecord (r : JRec) : Prop :=
  r.again = none ∧ r.row = none ∧ r.zst = [] ∧ r.unmap = none ∧ r.egTo = none ∧ r.type ≠ .eraseDone

/-- A record that commits a row and nothing else. -/
def rowRecord (o : RowOp) (r : JRec) : Prop :=
  r.again = none ∧ r.row = some o ∧ r.zst = [] ∧ r.unmap = none ∧ r.egTo = none ∧ r.erase = [] ∧ r.items = [] ∧
  r.type ≠ .eraseDone

/-- What the commit of row `o` makes of the maps (R202, R203, R205, R206, R215, R548): the units of a zone row still taken
from where the row took them move to it, the zone going Read Only where the row has lost two members (R139), and so does
the one unit of a conventional row whose entry names that place. -/
def RowMapped (s t : State) (o : RowOp) : Prop :=
  (∀ z k r n, o.zone = some (z, k) → zoneAt s z = some r → nsAt s r.nsx = some n →
    o.units.filter (zoneUnitLive s r n.width k o) ≠ [] → ∃ r', zoneAt t z = some r' ∧
      tabGetD r'.exts k [] = moveParts o.eg o.row ((o.units.filter (zoneUnitLive s r n.width k o)).map (·.1))
        (tabGetD r.exts k []) ∧ r'.wp = r.wp ∧ (r'.st = r.st ∨ r'.st = .readOnly)) ∧
  (∀ p, o.zone = none → o.units = [p] →
    pmAt s o.nsx p.2.unit = some (match p.2.src with
      | .landing ord => .landing ord
      | .copy l => .flash l) → pmAt t o.nsx p.2.unit = some (.flash (locOf o.eg o.row p.1)))

/-! ### Management messages -/

/-- The response `m` is the slot's last one, and is sent, or kept for Resume while the slot is paused (R456). -/
def MiSends (s t : State) (m : List Byte) : Prop :=
  t.mgmt.slot.last = m ∧ (s.mgmt.slot.paused = false → t.emit = [.mi m]) ∧
  (s.mgmt.slot.paused = true → t.emit = [] ∧ t.mgmt.slot.busy = true)

/-! ### What every command keeps -/

/-- The mailbox as the spec bounds it: the device→host queue holds at most 16 words, the host→device queue at most 16 with
the whole of a partial message, of which something is still to come (R63, R68); each latch is one of sixteen, listed once,
and its holder one of the twenty agents (R81). -/
def MailboxOk (m : MbxSt) : Prop :=
  m.inQ.length ≤ 16 ∧ outUsed m ≤ 16 ∧ (∀ q, m.part = some q → 1 ≤ q.left) ∧ tabWf m.latches = true ∧
  ∀ p ∈ m.latches, p.1 ≤ 15 ∧ 1 ≤ p.2 ∧ p.2 ≤ 20

/-! ### Frames -/

/-- The groups of state that a command can change; what it sends out is always written anew. The queue is in none. -/
def touches : Instr → List Part
  | .framePulse .. | .cellarExit .. | .cellarAutoExit .. | .coldStart .. | .firmwareReadyTimeout .. =>
    [.frame, .mbx, .host, .zone, .media, .flash, .inst, .prot, .ecc, .fw, .power, .therm, .mgmt, .pins, .recd, .emit, .free]
  | .minuteBoundary .. => [.frame, .mbx, .media, .flash, .inst, .emit]
  | .recordPeriodBoundary .. => [.mbx, .media, .recd, .emit]
  | .planInputCutoff .. => [.frame, .flash, .emit]
  | .planCommit .. | .write .. | .writeZeroes .. | .zoneAppend .. | .zoneWriteStart .. | .ordBarrierRelease ..
    | .conventionalWriteWaitEnd .. | .landingSpaceWaitEnd .. | .partialRowWaitExpiry .. | .stripeRowDispatch ..
    | .programComplete .. | .statusTimeout .. | .codewordDecode .. | .softDecodeComplete ..
    | .backStairReconstruct .. | .journalRecordCommit .. | .relocationVictimStart .. | .relocationCommit ..
    | .secureDiscardStep .. => [.frame, .host, .zone, .media, .flash, .inst, .therm, .pins, .recd, .emit]
  | .laneReset .. | .dramPatrolScrub .. | .sramPatrolScrub .. =>
    [.frame, .host, .zone, .media, .flash, .inst, .therm, .pins, .recd, .emit, .free]
  | .corridorLinkUp .. | .corridorLinkDown .. | .holdoverReport .. | .lockQualified .. | .syncInMissing .. =>
    [.frame, .emit]
  | .syncInPulse .. => [.frame, .emit, .free]
  | .frameCountLoRead .. | .frameCount64Read .. | .mbxInDataRead .. | .latchRead .. | .latchInspectRead ..
    | .noticeDataRead .. | .notice64Read .. | .protConfirm .. | .gatedRead .. => [.frame, .mbx, .prot, .power, .emit]
  | .mbxOutDataWrite .. | .mbxCtlReset .. | .spillConsWrite .. | .registerWrite .. | .latchWrite .. =>
    [.mbx, .inst, .prot, .ecc, .power, .emit, .free]
  | .noticeBoardUpdate .. => [.mbx, .therm, .emit, .free]
  | .echo .. | .statusGet .. | .instQuery .. | .fwStatus .. | .meterRead .. | .placeQuery .. | .pwrCounters ..
    | .thermQuery .. | .eccTestReadRaw .. | .eccTestRead .. | .eccTestEncode .. => [.mbx, .emit]
  | .instCreate .. => [.mbx, .zone, .flash, .inst, .prot, .ecc, .emit]
  | .instCreateDone .. | .instDestroy .. | .instReset .. | .instResetEnd .. | .instShareSet .. | .instSanitise ..
    | .meterRingSet .. => [.mbx, .inst, .emit]
  | .instDestroyDone .. => [.mbx, .host, .zone, .media, .inst, .prot, .emit]
  | .instanceResetEffect .. | .abort .. | .namespaceAttachment .. | .datasetManagement .. | .unitLanded ..
    | .hostDmaFailure .. | .commandLifetimeExpiry .. => [.frame, .host, .zone, .media, .flash, .inst, .recd, .emit]
  | .instSanitiseStart .. => [.zone, .media, .inst, .prot, .emit]
  | .instSanitiseDone .. => [.mbx, .zone, .inst, .emit]
  | .protPropose .. => [.mbx, .inst, .prot, .ecc, .power, .emit]
  | .protWithdraw .. | .release .. => [.mbx, .prot, .power, .emit]
  | .protQuery .. => [.mbx, .inst, .prot, .ecc, .emit]
  | .protProposalExpiry .. | .claimNonceExpiry .. | .trngHealthTestPass .. | .sidebandLinkReset .. => [.prot, .emit]
  | .claimBegin .. | .spdmSessionMessage .. => [.mbx, .prot, .emit]
  | .claimFinish .. => [.frame, .mbx, .prot, .power, .pins, .emit]
  | .fwStage .. => [.mbx, .media, .inst, .prot, .ecc, .fw, .power, .recd, .emit]
  | .fwStageWritten .. => [.frame, .mbx, .host, .inst, .prot, .fw, .recd, .emit]
  | .fwSchedule .. | .fwCancel .. | .corridorScheduleArrival .. | .corridorCancelArrival ..
    | .firmwareCommitActivate .. => [.frame, .mbx, .host, .inst, .fw, .recd, .emit]
  | .fwPrepareDone .. => [.mbx, .fw, .emit]
  | .handoverRecordWritten .. => [.fw, .mgmt, .emit]
  | .engineMicrocodeSwitch .. => [.frame, .host, .inst, .fw, .therm, .mgmt, .pins, .recd, .emit]
  | .handoverReady .. => [.frame, .fw, .emit]
  | .activationHoldExpiry .. =>
    [.frame, .mbx, .host, .zone, .media, .flash, .inst, .fw, .therm, .mgmt, .pins, .recd, .emit, .free]
  | .svMinRaise .. | .corridorForwardRetry .. | .corridorOutcomeRelay .. => [.fw, .emit]
  | .meterBatchWrite .. | .meterRetry .. => [.mbx, .inst, .recd, .emit]
  | .recRead .. | .calRead .. =>
    [.frame, .mbx, .host, .media, .inst, .prot, .ecc, .fw, .therm, .pins, .recd, .emit, .free]
  | .calWrite .. => [.mbx, .inst, .prot, .ecc, .fw, .recd, .emit]
  | .cfgRead .. => [.frame, .mbx, .host, .media, .inst, .prot, .ecc, .fw, .therm, .pins, .recd, .emit]
  | .cfgCommit .. => [.mbx, .inst, .prot, .ecc, .fw, .emit]
  | .placePolicySet .. => [.mbx, .media, .emit]
  | .eccTestEnter .. | .eccTestWriteRaw .. | .eccTestExit .. => [.mbx, .ecc, .emit]
  | .eccTestWrite .. => [.mbx, .ecc, .emit, .free]
  | .cellarEnter .. =>
    [.frame, .mbx, .host, .zone, .media, .flash, .inst, .prot, .ecc, .fw, .power, .mgmt, .recd, .emit]
  | .corridorImageArrival .. => [.media, .fw, .recd, .emit]
  | .submissionDoorbellWrite .. | .setFeaturesPowerManagement .. | .setFeaturesApst .. | .psEntryAbort .. =>
    [.frame, .host, .inst, .power, .recd, .emit]
  | .completionDoorbellWrite .. | .commandFetch .. | .deleteIoSubmissionQueue .. | .createIoSubmissionQueue ..
    | .deleteIoCompletionQueue .. | .createIoCompletionQueue .. | .identify .. | .setFeaturesArbitration ..
    | .setFeaturesTemperatureThreshold .. | .setFeaturesErrorRecovery .. | .setFeaturesNumberOfQueues ..
    | .setFeaturesInterruptCoalescing .. | .setFeaturesInterruptVectorConfig .. | .setFeaturesWriteAtomicity ..
    | .setFeaturesAsyncEventConfig .. | .setFeaturesTimestamp .. | .setFeaturesLifetimeLimit .. | .getFeatures ..
    | .asynchronousEventRequest .. | .directiveSend .. | .directiveReceive .. | .securitySend ..
    | .securityReceive .. | .unsupportedOpcode .. | .flush .. | .reportZones .. => [.frame, .host, .inst, .recd, .emit]
  | .controllerReset .. => [.host, .zone, .media, .flash, .emit]
  | .controllerEnable .. | .pcieLinkUp .. | .aggregationTimeExpiry .. => [.host, .emit]
  | .functionLevelReset .. | .portLinkReset .. =>
    [.frame, .mbx, .host, .zone, .media, .flash, .inst, .prot, .ecc, .power, .emit]
  | .vfEnableChange .. => [.host, .inst, .emit]
  | .getLogPage .. => [.frame, .host, .inst, .recd, .emit, .free]
  | .namespaceManagement .. => [.frame, .host, .zone, .media, .flash, .inst, .prot, .recd, .emit]
  | .firmwareImageDownload .. => [.frame, .host, .inst, .fw, .recd, .emit]
  | .firmwareCommitReplace .. => [.frame, .host, .media, .inst, .fw, .recd, .emit]
  | .nvmeMiSend .. | .nvmeMiReceive .. => [.frame, .host, .inst, .mgmt, .recd, .emit]
  | .formatNvm .. | .formatDone .. | .sanitizeBlockErase .. | .sanitizeCryptoErase .. | .sanitizeExitFailureMode .. =>
    [.frame, .host, .zone, .inst, .recd, .emit]
  | .sanitizeDone .. => [.zone, .emit]
  | .read .. | .verify .. | .readEgress .. => [.frame, .host, .media, .flash, .inst, .recd, .emit]
  | .closeZone .. | .finishZone .. | .openZone .. | .resetZone .. | .offlineZone .. | .writeCompletionPost ..
    | .zoneDrainEnd .. | .zoneFinishRecommended .. => [.frame, .host, .zone, .media, .inst, .recd, .emit]
  | .suspendAcknowledged .. | .senseComplete .. => [.flash, .recd, .emit]
  | .dieStatusPoll .. | .patrolRead .. | .trackerSave .. | .trackerWindowEnd .. | .probeRead .. => [.flash, .emit]
  | .eraseComplete .. => [.media, .flash, .recd, .emit]
  | .homeLineWrite .. => [.frame, .host, .media, .inst, .fw, .therm, .pins, .recd, .emit]
  | .checkpointSegmentWrite .. | .refreshAgeReached .. => [.media, .emit]
  | .groupEraseIssue .. => [.media, .flash, .emit]
  | .channelRetrain .. => [.flash, .recd, .emit, .free]
  | .trngHealthFailure .. => [.prot, .recd, .emit]
  | .zoneDeviceFinish .. => [.zone, .media, .emit]
  | .controlCoreWatchdogExpiry .. => [.host, .recd, .emit]
  | .controlCoreRestartDone .. => [.mbx, .host, .emit]
  | .mgmtWatchdogExpiry .. | .mctpMessage .. => [.mgmt, .recd, .emit]
  | .mgmtRestartDone .. => [.frame, .host, .inst, .therm, .mgmt, .pins, .recd, .emit]
  | .apstIdleTimerExpiry .. => [.frame, .host, .zone, .media, .flash, .inst, .power, .therm, .pins, .recd, .emit]
  | .psEntryDrained .. => [.frame, .host, .flash, .inst, .power, .recd, .emit]
  | .wakeEvent .. => [.power, .emit]
  | .psExit .. => [.frame, .mbx, .host, .power, .pins, .recd, .emit]
  | .holdupReading .. => [.power, .recd, .emit]
  | .pmbAlert .. | .readNvmeMiDataStructure .. | .nvmSubsystemHealthStatusPoll .. | .controllerHealthStatusPoll ..
    | .configurationSet .. | .configurationGet .. | .recorderRead .. | .thermalQuery .. | .controlPrimitivePause ..
    | .controlPrimitiveResume .. | .controlPrimitiveAbort .. | .nvmeMiAdminCommand .. | .nvmeMiInvalidOpcode .. =>
    [.mgmt, .emit]
  | .pfNRecognised .. => [.flash, .power, .therm, .pins, .recd, .emit]
  | .powerLossFlushEnd .. =>
    [.frame, .mbx, .host, .zone, .media, .flash, .inst, .power, .therm, .mgmt, .pins, .recd, .emit, .free]
  | .flushRestart .. | .powerOn .. | .bootWaitTimeout .. | .bootRetry .. => [.power, .pins, .emit]
  | .diodeSample .. => [.frame, .host, .flash, .inst, .power, .therm, .mgmt, .pins, .recd, .emit]
  | .remoteSample .. => [.frame, .host, .inst, .therm, .pins, .recd, .emit]
  | .railMonitorSample .. => [.therm, .recd, .emit]
  | .coolingRestart .. => [.power, .therm, .pins, .emit]
  | .alertResponseRead .. | .consoleInput .. => [.pins, .emit]
  | .controlPrimitiveGetState .. | .controlPrimitiveReplay .. | .basicManagementStatus ..
    | .basicManagementVendorSerial .. | .basicManagementFaultCode .. | .basicManagementFireDoorStatus .. => [.emit]
  | .recorderBufferWrite .. => [.recd, .emit]
  | .railPowerGood .. => [.fw, .power, .pins, .emit]
  | .jtagInstruction .. => [.pins, .emit, .free]
  | .powerRemoved .. => [.host, .power, .therm, .mgmt, .pins, .recd, .emit]

end Sys2Proof.Machine
end

