-- ==== Sys2Proof/Certificates/Slice0/Obligations.lean ====
section
/-! DEFINITION. The statements about the block. -/

open Sys2Proof Sys2Proof.Machine

/-- A step takes the command at the front of the queue and is that command's execution on the state with the rest of
the queue; on an empty queue the block idles (log 2, the model's choice). -/
def Obligations.StepsTakeTheQueueInOrder : Prop :=
  ∀ s : State,
    (∀ (c : Instr) (rest : List Instr), s.pending = c :: rest → step s = exec c { s with pending := rest }) ∧
    (s.pending = [] → step s = .next s)

/-- What the spec gives for reset (R41, R69, R81, R83, R391, R540): the counter and its shadows are zero, the queues,
the spill ring and the epochs are empty and zero, every latch is free, no board is full, no instance exists and SV_MIN
is zero. The state before the first power-on, its queue empty and the rails down, is the model's choice (log 5). -/
def Obligations.ResetLeaves : Prop :=
  State.reset.frame.counter = 0 ∧ State.reset.frame.hi0 = 0 ∧ State.reset.frame.hi1 = 0 ∧
  outUsed State.reset.mbx = 0 ∧ State.reset.mbx.inQ = [] ∧ State.reset.mbx.prod = 0 ∧ State.reset.mbx.cons = 0 ∧
  State.reset.mbx.event = 0 ∧ State.reset.mbx.hostEpoch = 0 ∧ State.reset.mbx.devEpoch = 0 ∧
  (∀ n, holder State.reset n = 0) ∧ (∀ n, (noticeOf State.reset n).full = false) ∧
  (∀ n, instAt State.reset n = none) ∧ State.reset.fw.svMin = 0 ∧ State.reset.prot.ownerKey = none ∧
  State.reset.power.boot = .off ∧ State.reset.pending = []

/-- The mailbox is within its bounds at reset. -/
def Obligations.MailboxIsWithinItsBoundsAtReset : Prop :=
  MailboxOk State.reset.mbx

/-- R64, R69, R81: whatever the command, a step from a mailbox within its bounds leaves it within them: at most 16
words either way with the reserved ones, a partial message that still wants a word, at most one holder of each latch 0
to 15, an agent 1 to 20. -/
def Obligations.MailboxStaysWithinItsBounds : Prop :=
  ∀ s t : State, MailboxOk s.mbx → step s = .next t → MailboxOk t.mbx

/-- Every command completes from every state, and leaves alone each group of state that is none of its own; no command
changes the queue. -/
def Obligations.CommandsChangeTheirOwnGroupsOnly : Prop :=
  ∀ (c : Instr) (s : State), Does c s fun t => Only (touches c) s t ∧ t.pending = s.pending

/-- R42: the counter never decreases. Whatever the command, but for a cold start, which sets it to zero (R41), it
changes only by the increment of a frame pulse, by the forward step taken with one, and by the increments that AON has
counted in PS3 and PS4, taken over at the exit; while it does not wrap it is never lower than it was. -/
def Obligations.TheCounterNeverDecreases : Prop :=
  ∀ (c : Instr) (s t : State), exec c s = .next t → (∀ found, c ≠ .coldStart found) →
    (((∀ phase, c ≠ .framePulse phase) → (∀ rail, c ≠ .psExit rail) → t.frame.counter = s.frame.counter) ∧
    (∀ phase, c = .framePulse phase → t.frame.counter = s.frame.counter ∨
      (s.frame.started = false ∧ t.frame.counter = 0) ∨ t.frame.counter = (s.frame.counter + 1) % 2 ^ 64 ∨
      ∃ n, s.frame.shelf.stepTo = some n ∧ t.frame.counter = n % 2 ^ 64) ∧
    (∀ rail, c = .psExit rail → t.frame.counter = s.frame.counter ∨
      t.frame.counter = (s.frame.counter + s.power.aonCount) % 2 ^ 64) ∧
    (s.frame.counter + s.power.aonCount + 1 < 2 ^ 64 → (∀ n, s.frame.shelf.stepTo = some n → n < 2 ^ 64) →
      (s.frame.started = false → s.frame.counter = 0) → s.frame.counter ≤ t.frame.counter))

/-- R391: SV_MIN is zero at manufacture and no step lowers it; when an image has run for 1,800,000,000 frames it rises
to that image's SEC_VER, and a valid image in the other slot whose SEC_VER is below it is rolled back. Completes:
svMinRaise. -/
def Obligations.SvMinOnlyRises : Prop :=
  State.reset.fw.svMin = 0 ∧
  (∀ s t : State, step s = .next t → s.fw.svMin ≤ t.fw.svMin) ∧
  ∀ (s : State) (i : Image), hallRuns s = true → s.fw.image = some i → s.fw.began + 1800000000 ≤ s.frame.elapsed →
    s.fw.svMin < i.secVer → Does .svMinRaise s fun t =>
      t.fw.svMin = i.secVer ∧
      (∀ n j, n = 1 ∨ n = 2 → (slotAt s n).image = some j → n ≠ s.fw.running → (slotAt s n).st = .valid →
        j.secVer < i.secVer → (slotAt t n).st = .rolledBack) ∧
      Only [.fw, .emit] s t

/-- R41, R47 step 1: the frame pulse increments the 64-bit counter by one, modulo 2^64, and one more frame has
elapsed; the first pulse after a cold start begins frame 0 and is no increment. R44, R45: a read of FRAME_COUNT_LO
returns bits [31:0] and latches bits [63:32] into the reading PF's own shadow; a 64-bit read returns the whole counter
and latches as well. Nothing else changes. Completes: framePulse, frameCountLoRead, frameCount64Read. -/
def Obligations.FrameCounterAdvancesAndIsRead : Prop :=
  (∀ (s : State) (phase : Int), booted s = true → gated s = false → s.frame.shelf.stepTo = none →
     (s.frame.started = true → Does (.framePulse phase) s fun t =>
       t.frame.counter = (s.frame.counter + 1) % 2 ^ 64 ∧ t.frame.elapsed = s.frame.elapsed + 1) ∧
     (s.frame.started = false → Does (.framePulse phase) s fun t =>
       t.frame.counter = 0 ∧ t.frame.elapsed = 0 ∧ t.frame.started = true)) ∧
  (∀ (s : State) (p : Pf), gated s = false →
     exec (.frameCountLoRead p) s = .next { s with
       frame := match p with
         | .port0 => { s.frame with hi0 := BitVec.ofNat 32 (s.frame.counter / 2 ^ 32) }
         | .port1 => { s.frame with hi1 := BitVec.ofNat 32 (s.frame.counter / 2 ^ 32) }
       emit := [.readData (s.frame.counter % 2 ^ 32)] } ∧
     exec (.frameCount64Read p) s = .next { s with
       frame := match p with
         | .port0 => { s.frame with hi0 := BitVec.ofNat 32 (s.frame.counter / 2 ^ 32) }
         | .port1 => { s.frame with hi1 := BitVec.ofNat 32 (s.frame.counter / 2 ^ 32) }
       emit := [.readData s.frame.counter] })

/-- R46, R53, R54: what each event of the frame does to the hall's state, and that it does nothing else. The input
window closes, and the plan of the frame sees the die status of that moment; a link that goes down leaves the count
and the trim as they are and starts the holdover wait; 1,000 frames later the unit reports holdover; 1,000 frames
within the bound lock it; 1,500,000 frames without a pulse end the tracking of SYNC_IN. R49: when a corridor link
comes up the unit sends its count over it, and takes a larger count at the next boundary; R54: a SYNC_IN pulse on the
chain master is tracked, except the first one after a miss, and moves the trim by at most one cycle. Completes:
planInputCutoff, corridorLinkDown, holdoverReport, lockQualified, syncInMissing, corridorLinkUp, syncInPulse. -/
def Obligations.FrameEventsAndPulses : Prop :=
  (∀ s : State,
     exec .planInputCutoff s = .next { s with
       frame := { s.frame with inputOpen := false }
       flash := { s.flash with seen := if s.frame.inputOpen = true then some s.flash.dies else s.flash.seen }
       emit := [] } ∧
     (∀ up : Bool, exec (.corridorLinkDown up) s = .next { s with
       frame := { s.frame with shelf := { s.frame.shelf with
         upLink := s.frame.shelf.upLink && !up
         downLink := s.frame.shelf.downLink && up
         downAt := if up = true ∧ s.frame.shelf.upLink = true ∧ s.frame.shelf.pos ≠ 0 ∧ s.frame.shelf.pos ≠ 0xFF
           then some s.frame.elapsed else s.frame.shelf.downAt } }
       emit := [] }) ∧
     (∀ a, s.frame.shelf.downAt = some a → a + 1000 < s.frame.elapsed → exec .holdoverReport s = .next { s with
       frame := { s.frame with shelf := { s.frame.shelf with lock := .holdover, downAt := none, inBound := 0 } }
       emit := [] }) ∧
     (s.frame.shelf.pos ≠ 0 → s.frame.shelf.pos ≠ 0xFF → s.frame.shelf.upLink = true → s.frame.shelf.lock ≠ .locked →
       1000 ≤ s.frame.shelf.inBound → exec .lockQualified s = .next { s with
         frame := { s.frame with shelf := { s.frame.shelf with lock := .locked } }, emit := [] }) ∧
     (s.frame.shelf.sync = .tracking → s.frame.shelf.syncFrom + 1500000 < s.frame.elapsed →
       exec .syncInMissing s = .next { s with
         frame := { s.frame with shelf := { s.frame.shelf with sync := .missing } }, emit := [] })) ∧
  (∀ s : State,
     (∀ (up : Bool) (count : Nat), booted s = true → Does (.corridorLinkUp up count) s fun t =>
       t.emit = [.corridor (!up) (.count s.frame.counter)] ∧
       t.frame.shelf.upLink = (s.frame.shelf.upLink || up) ∧ t.frame.shelf.downLink = (s.frame.shelf.downLink || !up) ∧
       (s.frame.counter < count → t.frame.shelf.stepTo = some (max count (s.frame.shelf.stepTo.getD 0))) ∧
       (count ≤ s.frame.counter → t.frame.shelf.stepTo = s.frame.shelf.stepTo) ∧
       t.frame.counter = s.frame.counter ∧ Only [.frame, .emit] s t) ∧
     (s.frame.shelf.pos = 0 → s.frame.shelf.syncEn = true →
       (s.frame.shelf.sync ≠ .missing ∨ (∃ l, s.frame.shelf.syncLast = some l ∧ l + 499950 ≤ s.frame.elapsed ∧
         s.frame.elapsed ≤ l + 500050)) →
       Does .syncInPulse s fun t =>
         t.frame.shelf.sync = .tracking ∧ t.frame.shelf.syncFrom = s.frame.elapsed ∧
         t.frame.shelf.syncLast = some s.frame.elapsed ∧ -1 ≤ t.frame.shelf.trim ∧ t.frame.shelf.trim ≤ 1 ∧
         t.frame.counter = s.frame.counter ∧ Only [.frame, .emit, .free] s t))

/-- R55, R57: at the commit point a lane that is late slips, which its own count and run record, and a lane on time
ends its run; the plan is committed and the input window is closed. A lane that has slipped 16 frames in a row is
reset: its run ends, it is rebuilt in one or two frames, and nothing of its plan is left. Completes: planCommit,
laneReset. -/
def Obligations.PlannerLanesCommitSlipAndReset : Prop :=
  ∀ s : State,
    (∀ late : List Nat, hallRuns s = true → s.frame.committed = false → Does (.planCommit late) s fun t =>
      t.frame.committed = true ∧ t.frame.inputOpen = false ∧
      ∀ l, l < 64 → (laneOf s l).rebuild = 0 →
        (l ∈ late → (laneOf t l).slips = min ((laneOf s l).slips + 1) 0xFFFFFFFF ∧
          (laneOf t l).run = (laneOf s l).run + 1) ∧
        (l ∉ late → (laneOf t l).slips = (laneOf s l).slips ∧ (laneOf t l).run = 0)) ∧
    (∀ l : Nat, l < 64 → 16 ≤ (laneOf s l).run → Does (.laneReset l) s fun t =>
      (laneOf t l).run = 0 ∧ 1 ≤ (laneOf t l).rebuild ∧ (laneOf t l).rebuild ≤ 2 ∧
      t.frame.laneResets = s.frame.laneResets + 1 ∧ ∀ p ∈ t.flash.plan, p.1 / 64 ≠ l)

/-- R51, R357: a minute that has ended is frozen: every metered holder's counters go into a record of that minute and
start again at zero, the frame slips of the minute are kept, and the minute in progress is the one the counter is in.
R477: a record period that has ended closes the open record at the frame before and opens the next one; with 63
records waiting the open record goes on, marked FOLDED. Completes: minuteBoundary, recordPeriodBoundary. -/
def Obligations.MinuteAndRecordPeriodsEnd : Prop :=
  ∀ s : State, ctrlRuns s = true →
    (s.frame.counter / 30000000 ≠ s.inst.minuteFrom / 30000000 → Does .minuteBoundary s fun t =>
      t.inst.minuteFrom = s.frame.counter / 30000000 * 30000000 ∧ t.inst.batchDue = true ∧
      t.frame.lastMinuteSlips = s.frame.minuteSlips ∧ t.frame.minuteSlips = 0 ∧
      ∀ fn h, tabGet s.inst.holders fn = some h → meteredNow s fn = true →
        ∃ k r, tabGet t.inst.holders fn = some k ∧ k.live = meterZero ∧ k.last = some r ∧ r.m = h.live ∧
          r.inst = fn ∧ r.minute = s.inst.minuteFrom / 30000000) ∧
    (s.frame.counter / 1800000000 ≠ s.recd.cur.first / 1800000000 → s.recd.closed.length < 63 →
      Does .recordPeriodBoundary s fun t =>
        (∃ r, t.recd.closed = s.recd.closed ++ [r] ∧ r.recno = s.recd.cur.recno ∧ r.first = s.recd.cur.first ∧
          r.last = s.frame.counter - 1) ∧
        t.recd.cur.recno = s.recd.since.nextRecno ∧ t.recd.since.nextRecno = s.recd.since.nextRecno + 1 ∧
        t.recd.cur.first = s.frame.counter / 1800000000 * 1800000000) ∧
    (s.frame.counter / 1800000000 ≠ s.recd.cur.first / 1800000000 → 63 ≤ s.recd.closed.length →
      Does .recordPeriodBoundary s fun t =>
        t.recd.closed = s.recd.closed ∧ t.recd.cur.recno = s.recd.cur.recno ∧ t.recd.cur.flags.folded = true)

/-- R64, R68: a word that the holder of LATCH_1 writes to MBX_OUT_DATA begins a message whose 1 + LEN words are
reserved, continues one, or completes it, and the completed message is queued under the HOST_EPOCH and the frame; a
header that does not fit is discarded with the LEN words that follow, and a word of a PF that does not hold LATCH_1 is
discarded, both counted under REJECT. R64, R69: a read of MBX_IN_DATA by the holder of LATCH_1 removes and returns the
head word, zero when the queue is empty; any other PF reads zero and removes nothing. Completes: mbxOutDataWrite,
mbxInDataRead. -/
def Obligations.MailboxQueuesTakeAndGiveWords : Prop :=
  (∀ (s : State) (p : Pf) (w : Word), gated s = false →
     (holder s 1 = p.agent → s.mbx.skip = 0 → (∀ q ∈ s.mbx.outQ, q.opcode ∈ catalogue) →
       (s.mbx.part = none → outUsed s.mbx + 1 + w.toNat / 2 ^ 12 % 16 ≤ 16 →
         (w.toNat / 2 ^ 12 % 16 ≠ 0 → Does (.mbxOutDataWrite p w) s fun t =>
           t.mbx.part = some { agent := p.agent, words := [w], left := w.toNat / 2 ^ 12 % 16 } ∧
           t.mbx.outQ = s.mbx.outQ ∧ Only [.mbx, .emit] s t) ∧
         (w.toNat / 2 ^ 12 % 16 = 0 → w.toNat / 2 ^ 24 ∈ catalogue → Does (.mbxOutDataWrite p w) s fun t =>
           t.mbx.outQ = s.mbx.outQ ++
             [{ agent := p.agent, epoch := s.mbx.hostEpoch, frame := s.frame.counter, words := [w] }] ∧
           t.mbx.part = none ∧ Only [.mbx, .emit] s t)) ∧
       (∀ q : Partial, s.mbx.part = some q → q.left = 1 →
         (({ agent := q.agent, epoch := s.mbx.hostEpoch, frame := s.frame.counter, words := q.words ++ [w] } :
           Posted).opcode ∈ catalogue) → Does (.mbxOutDataWrite p w) s fun t =>
           t.mbx.outQ = s.mbx.outQ ++
             [{ agent := q.agent, epoch := s.mbx.hostEpoch, frame := s.frame.counter, words := q.words ++ [w] }] ∧
           t.mbx.part = none ∧ Only [.mbx, .emit] s t) ∧
       (∀ q : Partial, s.mbx.part = some q → 1 < q.left → Does (.mbxOutDataWrite p w) s fun t =>
         t.mbx.part = some { q with words := q.words ++ [w], left := q.left - 1 } ∧ t.mbx.outQ = s.mbx.outQ ∧
         Only [.mbx, .emit] s t) ∧
       (s.mbx.part = none → 16 < outUsed s.mbx + 1 + w.toNat / 2 ^ 12 % 16 → Does (.mbxOutDataWrite p w) s fun t =>
         t.mbx.skip = w.toNat / 2 ^ 12 % 16 ∧ t.mbx.outQ = s.mbx.outQ ∧ t.mbx.event.getLsbD 5 = true ∧
         t.mbx.rejectWords = min (s.mbx.rejectWords + 1) 255 ∧ Only [.mbx, .emit] s t)) ∧
     (holder s 1 = p.agent → 0 < s.mbx.skip → (∀ q ∈ s.mbx.outQ, q.opcode ∈ catalogue) →
       Does (.mbxOutDataWrite p w) s fun t =>
         t.mbx.skip = s.mbx.skip - 1 ∧ t.mbx.outQ = s.mbx.outQ ∧ t.mbx.part = s.mbx.part ∧
         t.mbx.event.getLsbD 5 = true ∧ t.mbx.rejectWords = min (s.mbx.rejectWords + 1) 255 ∧ Only [.mbx, .emit] s t) ∧
     (holder s 1 ≠ p.agent → Does (.mbxOutDataWrite p w) s fun t =>
       t.mbx.outQ = s.mbx.outQ ∧ t.mbx.part = s.mbx.part ∧ t.mbx.event.getLsbD 5 = true ∧
       t.mbx.rejectWords = min (s.mbx.rejectWords + 1) 255 ∧ Only [.mbx, .emit] s t)) ∧
  (∀ (s : State) (p : Pf), gated s = false →
     (holder s 1 = p.agent → exec (.mbxInDataRead p) s = .next { s with
       mbx := { s.mbx with inQ := s.mbx.inQ.tail }
       emit := [.readData (match s.mbx.inQ with
         | [] => 0
         | w :: _ => w.word.toNat)] }) ∧
     (holder s 1 ≠ p.agent → exec (.mbxInDataRead p) s = .next { s with emit := [.readData 0] }))

/-- R71, R73, R76, R78: MBX_CTL.RESET by the holder keeps the posted messages, discards the partial one, clears the
device→host queue, whose words are counted, and adds one to HOST_EPOCH; SPILL_CONS within the used range frees ring
entries. From a PF that does not hold LATCH_1 neither has an effect. Completes: mbxCtlReset, spillConsWrite. -/
def Obligations.MailboxControlWrites : Prop :=
  ∀ (s : State) (p : Pf), gated s = false →
    (holder s 1 = p.agent → Does (.mbxCtlReset p) s fun t =>
      t.mbx.outQ = s.mbx.outQ ∧ t.mbx.part = none ∧ t.mbx.inQ = [] ∧ t.mbx.hostEpoch = s.mbx.hostEpoch + 1 ∧
      t.mbx.devEpoch = s.mbx.devEpoch ∧ t.mbx.inDropped = min (s.mbx.inDropped + s.mbx.inQ.length) 0xFFFF ∧
      t.mbx.latches = s.mbx.latches ∧ Only [.mbx, .emit, .free] s t) ∧
    (holder s 1 ≠ p.agent → exec (.mbxCtlReset p) s = .next { s with emit := [] }) ∧
    (∀ v : Byte, holder s 1 = p.agent → (v - s.mbx.cons).toNat ≤ (s.mbx.prod - s.mbx.cons).toNat → s.mbx.backlog = [] →
      exec (.spillConsWrite p v) s = .next { s with mbx := { s.mbx with cons := v }, emit := [] }) ∧
    (∀ v : Byte, holder s 1 ≠ p.agent → exec (.spillConsWrite p v) s = .next { s with emit := [] })

/-- R63, R69, R536, R537: a 4-byte write of MBX_CTL sets the writing PF's own IRQ_EN and VECTOR; one of MBX_EVENT
clears the bits written as one, and a word count with its bit; a write of one or two bytes, or of a read-only
register, has no effect; a latch read of one or two bytes shows the holder and claims nothing. R436, R437: while the
window is gated, a read of a gated register returns all ones and a write is discarded; each gated access is kept in
GATE_STATUS and counted, and has no other effect. Completes: registerWrite, latchInspectRead, gatedRead. -/
def Obligations.RegisterAccesses : Prop :=
  (∀ (s : State) (p : Pf), gated s = false →
     (∀ v < 2 ^ 32, holder s 1 ≠ p.agent → exec (.registerWrite p 0x110 4 v) s = .next { s with
       mbx := match p with
         | .port0 => { s.mbx with pf0 := { irqEn := BitVec.ofNat 8 (v / 2 ^ 8), vector := BitVec.ofNat 8 (v / 2 ^ 16) } }
         | .port1 => { s.mbx with pf1 := { irqEn := BitVec.ofNat 8 (v / 2 ^ 8), vector := BitVec.ofNat 8 (v / 2 ^ 16) } }
       emit := [] }) ∧
     (∀ v < 2 ^ 32, Does (.registerWrite p 0x114 4 v) s fun t =>
       t.mbx.event = s.mbx.event &&& ~~~(BitVec.ofNat 8 v) ∧
       (v / 2 ^ 3 % 2 = 1 → t.mbx.abortWords = 0) ∧ (v / 2 ^ 3 % 2 = 0 → t.mbx.abortWords = s.mbx.abortWords) ∧
       (v / 2 ^ 5 % 2 = 1 → t.mbx.rejectWords = 0) ∧ (v / 2 ^ 5 % 2 = 0 → t.mbx.rejectWords = s.mbx.rejectWords) ∧
       Only [.mbx, .emit] s t) ∧
     (∀ off size v, size = 1 ∨ size = 2 → exec (.registerWrite p off size v) s = .next { s with emit := [] }) ∧
     (∀ off v, off ∈ [0x0, 0x4, 0x8, 0xC, 0x10, 0x14, 0x104, 0x108, 0x10C, 0x118] →
       exec (.registerWrite p off 4 v) s = .next { s with emit := [] }) ∧
     (∀ n off size, n ≤ 15 → size = 1 ∨ size = 2 → off % size = 0 → off + size ≤ 4 →
       exec (.latchInspectRead p n off size) s = .next { s with
         emit := [.readData (holder s n / 2 ^ (8 * off) % 2 ^ (8 * size))] })) ∧
  (∀ (s : State) (p : Pf) (off area : Nat), gated s = true → off % 4 = 0 → gatedArea off = some area → area ≠ 3 →
     Does (.gatedRead p off 4) s (fun t => t.emit = [.readData 0xFFFFFFFF] ∧
       gateOf t p = { hit := true, hitWrite := (gateOf s p).hitWrite, area := area,
                      count := min ((gateOf s p).count + 1) 0xFFFF } ∧
       t.power = { s.power with gated := s.power.gated + 1 } ∧ Only [.mbx, .power, .emit] s t) ∧
     ∀ v, Does (.registerWrite p off 4 v) s fun t => t.emit = [] ∧
       gateOf t p = { hit := true, hitWrite := true, area := area, count := min ((gateOf s p).count + 1) 0xFFFF } ∧
       t.power = { s.power with gated := s.power.gated + 1 } ∧ Only [.mbx, .power, .emit] s t)

/-- R81: a read of a free latch makes the reader its holder and returns 0, the holder reads 0, any other agent reads
the holder's number; a write of zero by the holder frees the latch, and any other write does nothing. For the agents
inside the device always, for the PFs while the window is not gated. Completes: latchRead, latchWrite. -/
def Obligations.LatchesHaveOneHolder : Prop :=
  ∀ (s : State) (a n : Nat), 1 ≤ a → a ≤ 20 → n ≤ 15 → (a ≤ 2 → gated s = false) →
    (holder s n = 0 → Does (.latchRead a n) s fun t =>
      .readData 0 ∈ t.emit ∧ holder t n = a ∧ (∀ m, m ≠ n → holder t m = holder s m) ∧
      Only [.mbx, .prot, .emit] s t) ∧
    (holder s n = a → exec (.latchRead a n) s = .next { s with emit := [.readData 0] }) ∧
    (holder s n ≠ 0 → holder s n ≠ a → exec (.latchRead a n) s = .next { s with emit := [.readData (holder s n)] }) ∧
    (holder s n = a → Does (.latchWrite a n 0) s fun t =>
      holder t n = 0 ∧ (∀ m, m ≠ n → holder t m = holder s m) ∧ Only [.mbx, .prot, .inst, .ecc, .emit] s t) ∧
    (∀ v : Word, v ≠ 0 ∨ holder s n ≠ a → exec (.latchWrite a n v) s = .next { s with emit := [] })

/-- R83, R537: a read of a board's DATA returns its value and clears FULL, in a 64-bit read together with CTL; an
update sets FULL and steps SEQ, and sets COLLIDE where the last value was not read. Completes: noticeDataRead,
notice64Read, noticeBoardUpdate. -/
def Obligations.NoticeBoardsCarryTheLatestValue : Prop :=
  ∀ (s : State) (n : Nat), n ≤ 7 → gated s = false →
    (∀ (p : Pf) (b : Notice), tabGet s.mbx.notices n = some b →
      Does (.noticeDataRead p n) s (fun t => t.emit = [.readData b.value.toNat] ∧
        tabGet t.mbx.notices n = some { b with full := false } ∧ Only [.mbx, .emit] s t) ∧
      Does (.notice64Read p n) s (fun t => t.emit = [.readData (b.value.toNat +
          2 ^ 32 * ((if b.full then 1 else 0) + (if b.collide then 2 else 0) + b.seq.toNat * 2 ^ 8))] ∧
        tabGet t.mbx.notices n = some { b with full := false } ∧ Only [.mbx, .emit] s t)) ∧
    (booted s = true → s.mgmt.running = true → flushing s = false → n ≤ 5 → Does (.noticeBoardUpdate n) s fun t =>
      ∃ b, tabGet t.mbx.notices n = some b ∧ b.full = true ∧ b.seq = (noticeOf s n).seq + 1 ∧
        b.collide = ((noticeOf s n).collide || (noticeOf s n).full) ∧
        (n = 5 → b.value = BitVec.ofNat 32 (s.therm.holdupMv % 65536)) ∧ Only [.mbx, .therm, .free, .emit] s t)

/-- R90: ECHO of any length and without a descriptor is answered OK with its own length and payload, and has no other
effect; with FLAGS.DESC = 1 it is answered INVALID, which names the header. Completes: echo. -/
def Obligations.EchoReturnsItsPayload : Prop :=
  ∀ (s : State) (r : Posted) (tag : Nat) (payload : List Word), Asks s 0x01 r → tag < 256 → payload.length ≤ 15 →
    (r.words = wordOf (0x01 * 2 ^ 24 + tag * 2 ^ 16 + payload.length * 2 ^ 12) :: payload → Does .echo s fun t =>
      Answers s t r 0x00 (payload.map fun w => w.toNat) ∧ Only [.mbx, .emit] s t) ∧
    (r.words = wordOf (0x01 * 2 ^ 24 + tag * 2 ^ 16 + payload.length * 2 ^ 12 + 2 ^ 8) :: payload → Does .echo s fun t =>
      Answers s t r 0x02 [0] ∧ Only [.mbx, .emit] s t)

/-- R84, R91: STATUS_GET answers OK with 15 words, among them the manager, the frame counter, the epochs and the
dropped words, and has no other effect. R195, R196, R438, R473: PLACE_POLICY_SET sets the policy that the next
boundary applies; PLACE_QUERY, PWR_COUNTERS and THERM_QUERY answer fifteen words of the state and change nothing but
the mailbox. Completes: statusGet, placePolicySet, placeQuery, pwrCounters, thermQuery. -/
def Obligations.PolicyAndQueries : Prop :=
  (∀ (s : State) (r : Posted), Asks s 0x02 r → formFault r (Form.plain [0] false) = none → Does .statusGet s fun t =>
     (∃ l : List Nat, l.length = 15 ∧ Answers s t r 0x00 l ∧ l.getD 0 0 / 2 ^ 8 % 2 ^ 8 = holder s 0 % 2 ^ 8 ∧
       l.getD 1 0 = s.frame.counter % 2 ^ 32 ∧ l.getD 2 0 = s.frame.counter / 2 ^ 32 ∧
       l.getD 3 0 = s.mbx.hostEpoch.toNat + s.mbx.devEpoch.toNat * 2 ^ 16 ∧ l.getD 5 0 = s.mbx.inDropped) ∧
     Only [.mbx, .emit] s t) ∧
  (∀ (s : State) (r : Posted),
     (Accepted s 0x80 r (Form.plain [4] true [(0, 0xFFFFFFF8), (1, 0xFFFF0000), (3, 0xFF000000)]) policyFault →
       s.media.policyDue = none → Does .placePolicySet s fun t => Answers s t r 0x00 [] ∧
         (∃ p, t.media.policyDue = some p ∧
           p.gcShare = (if bitOf (r.pw 0) 0 then bits (r.pw 1) 7 0 else s.media.policy.gcShare) ∧
           p.matchShift = (if bitOf (r.pw 0) 1 then bits (r.pw 1) 15 8 else s.media.policy.matchShift) ∧
           p.lcAge = (if bitOf (r.pw 0) 2 then policyAges r else s.media.policy.lcAge)) ∧
         t.media.policy = s.media.policy ∧ Only [.mbx, .media, .emit] s t) ∧
     (Accepted s 0x81 r (Form.plain [2] false [(0, 0xFFFFFF00)]) placeFault → Does .placeQuery s fun t =>
       (∃ l : List Nat, l.length = 15 ∧ Answers s t r 0x00 l ∧
         (r.pw 0 = 0 → l.getD 0 0 = countGroups s Group.openNow % 2 ^ 32 ∧ l.getD 1 0 = countGroups s Group.holds % 2 ^ 32)) ∧
       Only [.mbx, .emit] s t) ∧
     (Accepted s 0x90 r (Form.plain [1] false [(0, 0xFFFFFF00)]) (fun r => if 2 < r.pw 0 then some 1 else none) →
       Does .pwrCounters s fun t =>
         (∃ l : List Nat, l.length = 15 ∧ Answers s t r 0x00 l ∧
           (r.pw 0 = 0 → l.getD 1 0 = tabGetD s.power.entries 1 0 ∧ l.getD 5 0 = s.power.wakesInEntry ∧
             l.getD 8 0 = s.power.flushes) ∧
           (r.pw 0 = 1 → l.getD 0 0 = tabGetD s.power.ref3.counts 1 0) ∧
           (r.pw 0 = 2 → l.getD 0 0 = tabGetD s.power.ref4.counts 1 0)) ∧
         Only [.mbx, .emit] s t) ∧
     (Accepted s 0xA0 r (Form.plain [1] false [(0, 0xFFFFFF00)]) (fun r => if 2 < r.pw 0 then some 1 else none) →
       Does .thermQuery s fun t =>
         (∃ l : List Nat, l.length = 15 ∧ Answers s t r 0x00 l ∧
           (r.pw 0 = 0 → l.getD 4 0 = s.therm.tWarn + s.therm.tThrottle * 2 ^ 8 ∧ l.getD 7 0 = s.therm.trips) ∧
           (r.pw 0 = 1 → ∀ i < 8, l.getD i 0 = diodeWord s (2 * i) + diodeWord s (2 * i + 1) * 2 ^ 16)) ∧
         Only [.mbx, .emit] s t))

/-- R336, R338: a creation block that passes every check is answered PENDING; the number is taken by an instance being
created with the block's queue pairs, vectors, zones, policy and key source, and its generation goes up by one. When
the creation ends, the final reply gives the key slot and the namespaces. R352, R353: INST_DESTROY is answered PENDING
and the instance is DESTROYING; when its wipe has begun and its namespaces are wiped, under policies 1 and 2 with the
blocks of its wrapped keys erased, its controller, key slot, shares and number are gone and the final reply is posted.
Completes: instCreate, instCreateDone, instDestroy, instDestroyDone. -/
def Obligations.InstancesAreCreatedAndDestroyed : Prop :=
  (∀ s : State,
     (∀ (r : Posted) (dma : Dma), Asks s 0x10 r →
       formFault r { lens := [4], desc := some (false, [512]), mgr := true } = none →
       descOwn r { lens := [4], desc := some (false, [512]), mgr := true } = none → holder s 0 = r.agent →
       r.epoch = s.mbx.hostEpoch → dma.failAt = none → firstFault (createChecks (padTo 512 dma.bytes)) = none →
       createRefused s (padTo 512 dma.bytes) = none →
       createShort s (padTo 512 dma.bytes) ((List.range (byteAt (padTo 512 dma.bytes) 8)).map fun i =>
         entryReq (padTo 512 dma.bytes) (128 + 16 * i)) = none →
       s.prot.trngOk = true → Does (.instCreate dma) s fun t =>
         Answers s t r 0x09 [] ∧
         t.mbx.outst = s.mbx.outst ++
           [{ tag := r.tag, opcode := r.opcode, agent := r.agent, epoch := r.epoch, frame := r.frame }] ∧
         tabGetD t.inst.gens (fieldAt (padTo 512 dma.bytes) 0 2) 0 =
           (tabGetD s.inst.gens (fieldAt (padTo 512 dma.bytes) 0 2) 0 + 1) % 256 ∧
         (∃ i, instAt t (fieldAt (padTo 512 dma.bytes) 0 2) = some i ∧ i.st = .creating ∧
           i.qpairs = fieldAt (padTo 512 dma.bytes) 2 2 ∧ i.msix = fieldAt (padTo 512 dma.bytes) 4 2 ∧
           i.azones = fieldAt (padTo 512 dma.bytes) 6 2 ∧ i.policy = byteAt (padTo 512 dma.bytes) 10 ∧ i.resets = 0 ∧
           i.nsxs.length = byteAt (padTo 512 dma.bytes) 8) ∧
         (∀ m, m ≠ fieldAt (padTo 512 dma.bytes) 0 2 → instAt t m = instAt s m) ∧
         Only [.mbx, .zone, .flash, .inst, .prot, .ecc, .emit] s t) ∧
     (∀ (n : Nat) (i : Inst) (o : Outst), hallRuns s = true → instAt s n = some i → i.st = .creating →
       i.liveDue = false → i.pend = [{ tag := o.tag, opcode := 0x10 }] → o.opcode = 0x10 → Owed s o →
       Does (.instCreateDone n) s fun t => Settles s t o 0x00 (i.slot :: nsxWords i.nsxs) ∧
         instAt t n = some { i with liveDue := true, pend := [] } ∧ Only [.mbx, .inst, .emit] s t)) ∧
  (∀ s : State,
     (∀ (r : Posted) (i : Inst), Asks s 0x11 r → formFault r (Form.plain [1] true [(0, 0xFFFFF800)]) = none →
       holder s 0 = r.agent → instAt s (r.pw 0 % 2 ^ 11) = some i → i.st = .live ∨ i.st = .resetting →
       i.sanDue = none → Does .instDestroy s fun t => Answers s t r 0x09 [] ∧
         (∃ k, instAt t (r.pw 0 % 2 ^ 11) = some k ∧ k.st = .destroying ∧
           k.pend = i.pend ++ [{ tag := r.tag, opcode := 0x11 }]) ∧
         (∀ m, m ≠ r.pw 0 % 2 ^ 11 → instAt t m = instAt s m) ∧ Only [.mbx, .inst, .emit] s t) ∧
     (∀ (n : Nat) (i : Inst) (o : Outst), hallRuns s = true → instAt s n = some i → i.wiping = true →
       (∀ x ∈ i.nsxs, wipeDone s (policyKind (policyNow s n i)) x = true) →
       (0 < policyNow s n i → s.media.keyStale = []) →
       i.pend = [{ tag := o.tag, opcode := 0x11 }] → o.opcode = 0x11 → Owed s o →
       Does (.instDestroyDone n) s fun t => Settles s t o 0x00 [] ∧
         instAt t n = none ∧ ctlOf t n = none ∧ tabGet t.prot.slots i.slot = none ∧ tabGet t.inst.shares n = none ∧
         (∀ x ∈ i.nsxs, nsAt t x = none) ∧ (∀ it ∈ t.host.items, it.id.fn ≠ n) ∧
         (∀ m, m ≠ n → instAt t m = instAt s m)))

/-- R344, R345, R355: a share change within the pools is answered OK and waits for the next boundary; INST_QUERY
answers OK with 11 words: the state, generation and resources of an instance, zeros for a FREE number, or the shares
in force. Completes: instShareSet, instQuery. -/
def Obligations.InstanceSharesAndQuery : Prop :=
  ∀ (s : State) (r : Posted), holder s 0 = r.agent →
    (Asks s 0x13 r → formFault r (Form.plain [10] true [(0, 0xFFFFF000), (9, 0xFFFF0000)]) = none → shareFault r = none →
      rateShort s (r.pw 0 % 2 ^ 12) (sharesAt fun i => r.pw (i + 1)) = none →
      (2048 ≤ r.pw 0 % 2 ^ 12 ∨ ∃ i, instAt s (r.pw 0 % 2 ^ 12) = some i ∧ i.st ≠ .destroying ∧ i.st ≠ .creating) →
      Does .instShareSet s fun t => Answers s t r 0x00 [] ∧
        t.inst = { s.inst with sharesDue := s.inst.sharesDue ++
          [{ holder := r.pw 0 % 2 ^ 12, shares := sharesAt fun i => r.pw (i + 1) }] } ∧
        Only [.mbx, .inst, .emit] s t) ∧
    (Asks s 0x14 r → formFault r (Form.plain [1] true [(0, 0xFFFF0000)]) = none → queryFault r = none →
      Does .instQuery s fun t => (∃ l : List Nat, l.length = 11 ∧ Answers s t r 0x00 l ∧
        (r.pw 0 / 2 ^ 12 % 16 = 0 → instAt s (r.pw 0 % 2 ^ 12) = none → l = List.replicate 11 0) ∧
        (∀ i, r.pw 0 / 2 ^ 12 % 16 = 0 → instAt s (r.pw 0 % 2 ^ 12) = some i →
          l.getD 1 0 = i.qpairs + i.msix * 2 ^ 16 ∧ l.getD 4 0 = i.resets ∧ l.getD 5 0 = i.created % 2 ^ 32) ∧
        (r.pw 0 / 2 ^ 12 % 16 = 1 → 2048 ≤ r.pw 0 % 2 ^ 12 →
          l.getD 0 0 = (sharesOf s (r.pw 0 % 2 ^ 12)).read.rate ∧ l.getD 8 0 = (sharesOf s (r.pw 0 % 2 ^ 12)).weight)) ∧
        Only [.mbx, .emit] s t)

/-- R347 to R349: INST_RESET is answered PENDING and takes effect at the next boundary. The effect counts one reset
and one generation, pauses fetch, and latches an outcome for every I/O command fetched before; when nothing of the old
generation is left the final reply carries the new generation, and fetch resumes at a boundary. R354: INST_SANITISE is
answered PENDING and starts at the next boundary, when the instance is SANITISING and every namespace of it is being
wiped; when all are wiped the instance is LIVE again and the final reply is posted. Completes: instReset,
instanceResetEffect, instResetEnd, instSanitise, instSanitiseStart, instSanitiseDone. -/
def Obligations.InstancesAreResetAndSanitised : Prop :=
  (∀ s : State,
     (∀ (r : Posted) (i : Inst), Asks s 0x12 r → formFault r (Form.plain [1] true [(0, 0xFFFFF800)]) = none →
       holder s 0 = r.agent → instAt s (r.pw 0 % 2 ^ 11) = some i → i.st = .live ∨ i.st = .resetting →
       Does .instReset s fun t => Answers s t r 0x09 [] ∧
         instAt t (r.pw 0 % 2 ^ 11) = some { i with
           st := .resetting, resetDue := some (i.resetDue.getD s.frame.elapsed)
           pend := i.pend ++ [{ tag := r.tag, opcode := 0x12 }] } ∧
         (∀ m, m ≠ r.pw 0 % 2 ^ 11 → instAt t m = instAt s m) ∧ Only [.mbx, .inst, .emit] s t) ∧
     (∀ (n f : Nat) (i : Inst) (c : Ctl), hallRuns s = true → instAt s n = some i → i.st = .resetting → i.resetDue = some f →
       f < s.frame.elapsed → i.flr = false → ctlOf s n = some c → Does (.instanceResetEffect n) s fun t =>
         tabGetD t.inst.gens n 0 = (tabGetD s.inst.gens n 0 + 1) % 256 ∧
         instAt t n = some { i with resets := i.resets + 1, resetDue := none, resetAt := s.frame.elapsed, resume := false } ∧
         (∃ k, ctlOf t n = some k ∧ k.fetchPaused = true) ∧
         ∀ it ∈ t.host.items, it.io = true → it.id.fn = n → it.outcome ≠ none) ∧
     (∀ (n : Nat) (i : Inst) (c : Ctl) (o : Outst), hallRuns s = true → instAt s n = some i → ctlOf s n = some c →
       i.st = .resetting → i.resetDue = none → i.resume = false → c.fetchPaused = true → oldWork s n i = false →
       i.pend = [{ tag := o.tag, opcode := 0x12 }] → o.opcode = 0x12 → Owed s o →
       Does (.instResetEnd n) s fun t => Settles s t o 0x00 [tabGetD s.inst.gens n 0] ∧
         instAt t n = some { i with st := .live, resume := true, flr := false, pend := [] } ∧ Only [.mbx, .inst, .emit] s t)) ∧
  (∀ s : State,
     (∀ (r : Posted) (i : Inst), Asks s 0x15 r → formFault r (Form.plain [1] true [(0, 0xFFFFE000)]) = none →
       sanitiseFault r = none → holder s 0 = r.agent → instAt s (r.pw 0 % 2 ^ 11) = some i → i.st = .live →
       i.sanDue = none → sanitizing s = false → ((nssOf s (r.pw 0 % 2 ^ 11)).any fun p => p.2.fmt.isSome) = false →
       s.prot.trngOk = true → Does .instSanitise s fun t => Answers s t r 0x09 [] ∧
         instAt t (r.pw 0 % 2 ^ 11) = some { i with
           sanDue := some s.frame.elapsed, sanBlock := decide (r.pw 0 / 2 ^ 11 % 4 = 1)
           pend := i.pend ++ [{ tag := r.tag, opcode := 0x15 }] } ∧ Only [.mbx, .inst, .emit] s t) ∧
     (∀ (n f : Nat) (i : Inst), hallRuns s = true → instAt s n = some i → i.st = .live → i.sanDue = some f →
       f < s.frame.elapsed → wipeWaits s (sanKind i) = false → Does (.instSanitiseStart n) s fun t =>
         (∃ k, instAt t n = some k ∧ k.st = .sanitising ∧ k.sanDue = none) ∧
         (∀ x ∈ i.nsxs, ∀ m, nsAt t x = some m → m.fmt.isSome = true) ∧
         Only [.zone, .media, .inst, .prot, .emit] s t) ∧
     (∀ (n : Nat) (i : Inst) (o : Outst), hallRuns s = true → instAt s n = some i → i.st = .sanitising →
       (∀ x ∈ i.nsxs, wipeDone s (sanKind i) x = true ∧
         ∀ m p, nsAt s x = some m → m.fmt = some p → p.started = true) →
       (i.sanBlock = false → s.media.keyStale = []) →
       i.pend = [{ tag := o.tag, opcode := 0x15 }] → o.opcode = 0x15 → Owed s o →
       Does (.instSanitiseDone n) s fun t => Settles s t o 0x00 [] ∧
         instAt t n = some { i with st := .live, pend := [] } ∧
         (∀ x ∈ i.nsxs, ∀ m, nsAt t x = some m → m.fmt = none)))

/-- R373 to R375: a change record that passes every check becomes the pending proposal of its class, with a nonce, the
digest over record, nonce, proposer and frame, and its deadline armed; by SCP it is answered PENDING and then finally;
the owner is told that its reply is not ready, and class, nonce and digest wait for it to collect (DESIGN CHOICE, log
62). R375, R381, R382: the other party's confirmation with the right digest takes the proposal off the pending ones
and is agreed: the manager's is answered PENDING, the owner's that its reply is not ready. A wrong digest of the
manager is answered AUTH and counted, and the third such discards the proposal. Completes: protPropose, protConfirm.
-/
def Obligations.ProposalsAreHeldAndConfirmed : Prop :=
  (∀ (s : State) (c : Change), changeFault c = none → pendingOf s c.cls = none → keyRefusal s c = none →
     ballConflict s c = none → s.prot.trngOk = true → s.prot.ownerKey.isSome = true →
     (∀ (r : Posted) (dma : Dma), Asks s 0x20 r →
       formFault r { lens := [4], desc := some (false, [64]), mgr := true } = none →
       descOwn r { lens := [4], desc := some (false, [64]), mgr := true } = none → holder s 0 = r.agent →
       r.epoch = s.mbx.hostEpoch → dma.failAt = none → c = changeOf (padTo 64 dma.bytes) → c.inject = false →
       Does (.protPropose (.scp dma)) s fun t =>
         (∃ p, pendingOf t c.cls = some p ∧ p.rec_ = c ∧ p.proposer = .manager ∧ p.frame = s.frame.counter ∧
           p.armed = s.frame.elapsed ∧ p.fails = 0 ∧ p.key = none ∧
           p.digest = digestOf c p.nonce .manager s.frame.counter) ∧
         (∀ k, k ≠ c.cls → pendingOf t k = pendingOf s k) ∧ t.mbx.outQ = [] ∧ t.mbx.outst = s.mbx.outst ∧
         t.mbx.inQ = inWords { words := [replyHeader 0x20 r.tag 0 false 0x09], epoch := s.mbx.devEpoch } ∧
         Only [.mbx, .prot, .emit] s t) ∧
     (∀ (l : Sideband) (b : List Byte), OwnerHeard s l → c = changeOf b → b.length = 64 → c.inject = false →
       managerFirst s = false → Does (.protPropose (.owner l b)) s fun t =>
         (∃ p, pendingOf t c.cls = some p ∧ p.rec_ = c ∧ p.proposer = .owner ∧ p.frame = s.frame.counter ∧
           p.armed = s.frame.elapsed ∧ p.fails = 0 ∧ p.key = none ∧ p.digest = digestOf c p.nonce .owner s.frame.counter ∧
           t.prot.replies = s.prot.replies ++
             [(0x00, [c.cls, p.nonce.toNat % 2 ^ 32, p.nonce.toNat / 2 ^ 32] ++ digestWords p.digest)]) ∧
         (∀ k, k ≠ c.cls → pendingOf t k = pendingOf s k) ∧ t.emit = [.spdmError 0x42] ∧ Only [.prot, .emit] s t)) ∧
  (∀ (s : State) (p : Proposal), s.prot.ownerKey.isSome = true → s.frame.elapsed ≤ p.armed + 2 ^ 27 →
     (∀ (r : Posted) (dma : Dma), Asks s 0x21 r → formFault r (Form.plain [13] true [(0, 0xFFFFFF00)]) = none →
       holder s 0 = r.agent → 1 ≤ r.pw 0 → r.pw 0 ≤ 6 → pendingOf s (r.pw 0) = some p → p.proposer = .owner →
       (digestAt r.pw 1 = p.digest → Does (.protConfirm (.scp dma)) s fun t => Answers s t r 0x09 [] ∧
         pendingOf t (r.pw 0) = none ∧
         t.prot.confirmed = s.prot.confirmed ++ [{ prop := p, written := true, by_ := .manager, tag := some r.tag }] ∧
         Only [.frame, .mbx, .prot, .emit] s t) ∧
       (digestAt r.pw 1 ≠ p.digest → Does (.protConfirm (.scp dma)) s fun t => Answers s t r 0x06 [] ∧
         (p.fails < 2 → pendingOf t (r.pw 0) = some { p with fails := p.fails + 1 }) ∧
         (2 ≤ p.fails → pendingOf t (r.pw 0) = none ∧ tabGetD t.prot.outcomes (r.pw 0) .none = .discarded) ∧
         t.prot.confirmed = s.prot.confirmed ∧ Only [.mbx, .prot, .emit] s t)) ∧
     (∀ (l : Sideband) (b : List Byte), OwnerHeard s l → b.length = 52 → 1 ≤ fieldAt b 0 4 → fieldAt b 0 4 ≤ 6 →
       pendingOf s (fieldAt b 0 4) = some p → p.proposer = .manager → BitVec.ofNat 384 (fieldAt b 4 48) = p.digest →
       Does (.protConfirm (.owner l b)) s fun t => t.emit = [.spdmError 0x42] ∧ pendingOf t (fieldAt b 0 4) = none ∧
         t.prot.confirmed = s.prot.confirmed ++ [{ prop := p, written := true, by_ := .owner, tag := none }] ∧
         Only [.frame, .prot, .emit] s t))

/-- R377: either party withdraws the pending proposal of a class; by its proposer the outcome is "withdrawn", by the
other party "rejected". A confirmation leaves no proposal of the class pending, and where none is pending a withdrawal
is refused with reason 0x0203. Completes: protWithdraw, protConfirm. -/
def Obligations.ProposalsAreWithdrawn : Prop :=
  ∀ (s : State) (cls : Nat), 1 ≤ cls → cls ≤ 6 → s.prot.ownerKey.isSome = true →
    (∀ (r : Posted) (dma : Dma), Asks s 0x22 r → formFault r (Form.plain [1] true [(0, 0xFFFFFF00)]) = none →
      holder s 0 = r.agent → r.pw 0 = cls →
      (∀ p, pendingOf s cls = some p → s.frame.elapsed ≤ p.armed + 2 ^ 27 → Does (.protWithdraw (.scp dma)) s fun t =>
        Answers s t r 0x00 [] ∧ pendingOf t cls = none ∧
        tabGetD t.prot.outcomes cls .none = (if p.proposer = .manager then .withdrawn else .rejected) ∧
        (∀ k, k ≠ cls → pendingOf t k = pendingOf s k) ∧ Only [.mbx, .prot, .emit] s t) ∧
      (pendingOf s cls = none → Does (.protWithdraw (.scp dma)) s fun t => Answers s t r 0x04 [0x0203] ∧
        Only [.mbx, .emit] s t)) ∧
    (∀ (l : Sideband) (b : List Byte), OwnerHeard s l → b.length = 4 → fieldAt b 0 4 = cls →
      (∀ p, pendingOf s cls = some p → s.frame.elapsed ≤ p.armed + 2 ^ 27 → Does (.protWithdraw (.owner l b)) s fun t =>
        OwnerAnswered t 0x00 [] ∧ pendingOf t cls = none ∧
        tabGetD t.prot.outcomes cls .none = (if p.proposer = .owner then .withdrawn else .rejected) ∧
        (∀ k, k ≠ cls → pendingOf t k = pendingOf s k) ∧ Only [.prot, .emit] s t) ∧
      (pendingOf s cls = none → Does (.protWithdraw (.owner l b)) s fun t => OwnerAnswered t 0x04 [0x0203] ∧
        Only [.emit] s t)) ∧
    (∀ (r : Posted) (dma : Dma) (p : Proposal), Asks s 0x21 r → formFault r (Form.plain [13] true [(0, 0xFFFFFF00)]) = none →
      holder s 0 = r.agent → r.pw 0 = cls → pendingOf s cls = some p → s.frame.elapsed ≤ p.armed + 2 ^ 27 →
      p.proposer = .owner → digestAt r.pw 1 = p.digest → Does (.protConfirm (.scp dma)) s fun t => pendingOf t cls = none) ∧
    (∀ (l : Sideband) (b : List Byte) (p : Proposal), OwnerHeard s l → b.length = 52 → fieldAt b 0 4 = cls →
      pendingOf s cls = some p → s.frame.elapsed ≤ p.armed + 2 ^ 27 → p.proposer = .manager →
      BitVec.ofNat 384 (fieldAt b 4 48) = p.digest → Does (.protConfirm (.owner l b)) s fun t => pendingOf t cls = none)

/-- R383: a query returns the 192 bytes that show an object, its proposal and the last outcome, to the manager in host
memory and to the owner on its session, and changes no protected object. R50, R370, R374: a proposal whose 2^27 frames
have passed is discarded with outcome expired, and a claim nonce of that age is outstanding no longer. Completes:
protQuery, protProposalExpiry, claimNonceExpiry. -/
def Obligations.ProtectionIsShownAndExpires : Prop :=
  (∀ s : State,
     (∀ (r : Posted) (dma : Dma), Asks s 0x23 r →
       formFault r { lens := [5], desc := some (true, [192]), mgr := false, rsv := [(4, 0xFFF00000)] } = none →
       descOwn r { lens := [5], desc := some (true, [192]), mgr := false, rsv := [(4, 0xFFF00000)] } = none →
       queryOk (r.pw 4) = true → r.epoch = s.mbx.hostEpoch → dma.failAt = none → pendingOf s (r.pw 4 % 2 ^ 8) = none →
       Does (.protQuery (.scp dma)) s fun t => Answers s t r 0x00 [] ∧
         (∃ b : List Byte, b.length = 192 ∧ .hostWrite (agentFn r.agent) r.descAddr b ∈ t.emit ∧
           byteAt b 136 = (if s.prot.ownerKey.isSome then 2 else 0) ∧
           byteAt b 138 = (tabGetD s.prot.outcomes (r.pw 4 % 2 ^ 8) .none).code) ∧
         Only [.mbx, .emit] s t) ∧
     (∀ (l : Sideband) (w : List Byte), OwnerHeard s l → w.length = 4 → queryOk (fieldAt w 0 4) = true →
       pendingOf s (fieldAt w 0 4 % 2 ^ 8) = none → Does (.protQuery (.owner l w)) s fun t =>
         (∃ b : List Byte, b.length = 192 ∧ t.emit = [.owner 0x00 b] ∧
           byteAt b 136 = (if s.prot.ownerKey.isSome then 2 else 0) ∧
           byteAt b 138 = (tabGetD s.prot.outcomes (fieldAt w 0 4 % 2 ^ 8) .none).code) ∧
         Only [.emit] s t)) ∧
  (∀ s : State, booted s = true →
     (∀ (cls : Nat) (p : Proposal), pendingOf s cls = some p → p.armed + 2 ^ 27 < s.frame.elapsed →
       exec (.protProposalExpiry cls) s = .next { s with
         prot := { s.prot with pending := tabDel s.prot.pending cls, outcomes := tabSet s.prot.outcomes cls .expired }
         emit := [] }) ∧
     (∀ (cls : Nat) (p : Proposal), pendingOf s cls = some p → s.frame.elapsed ≤ p.armed + 2 ^ 27 →
       exec (.protProposalExpiry cls) s = .next { s with emit := [] }) ∧
     (∀ k, s.prot.claim = some k → k.frame + 2 ^ 27 < s.frame.elapsed →
       exec .claimNonceExpiry s = .next { s with prot := { s.prot with claim := none }, emit := [] }))

/-- R369 to R371: in a session, CLAIM_BEGIN returns a 32-byte nonce and keeps it; CLAIM_FINISH with the strap, a point
of the curve and a good signature registers the key and uses the nonce up; RELEASE ends the registration and discards
the proposals. R369, R378: a session is kept for its link, one per link, and mutually authenticated only with the
registered owner key; its end or a reset of the link removes it, with the last one the replies not collected, and
keeps the proposals; an owner request without a session is answered SPDM ERROR; RESPOND_IF_READY collects the oldest
reply that waits, or is told that none is ready. Completes: claimBegin, claimFinish, release, spdmSessionMessage,
sidebandLinkReset. -/
def Obligations.OwnerAndItsSessions : Prop :=
  (∀ (s : State) (l : Sideband), ownerOpen s = true → gated s = false → s.power.entry = none → s.fw.cellar = false →
     (∀ x, sessionOn s l = some x → s.prot.ownerKey = none → s.prot.trngOk = true → Does (.claimBegin l) s fun t =>
       (∃ n : BitVec 256, t.prot.claim = some { nonce := n, frame := s.frame.elapsed } ∧ t.emit = [.owner 0x00 (bvBytes n)]) ∧
       t.prot.ownerKey = none ∧ Only [.prot, .emit] s t) ∧
     (∀ (x : Session) (k : Claim) (key : BitVec 768), sessionOn s l = some x → s.prot.ownerKey = none →
       s.prot.claim = some k → s.frame.elapsed ≤ k.frame + 2 ^ 27 → validPoint key = true →
       Does (.claimFinish l true key true) s fun t =>
         t.prot = { s.prot with claim := none, ownerKey := some key, seq := s.prot.seq + 1 } ∧ OwnerAnswered t 0x00 [] ∧
         Only [.frame, .prot, .pins, .emit] s t) ∧
     (OwnerHeard s l → s.prot.ownerKey.isSome = true → Does (.release l) s fun t =>
       t.prot.ownerKey = none ∧ t.prot.pending = [] ∧ t.prot.seq = s.prot.seq + 1 ∧ OwnerAnswered t 0x00 [] ∧
       Only [.prot, .emit] s t)) ∧
  (∀ (s : State) (l : Sideband) (left : List Session) (r : List (Nat × List Nat)),
     left = (s.prot.sessions.filter fun x => decide (x.link ≠ l)) → r = (if left = [] then [] else s.prot.replies) →
     (∀ auth : Bool, ownerOpen s = true → exec (.spdmSessionMessage (.establish l auth)) s = .next { s with
       prot := { s.prot with
         sessions := left ++ [{ link := l, mutualAuth := auth && s.prot.ownerKey.isSome }], replies := r }
       emit := [] }) ∧
     (ownerOpen s = true → exec (.spdmSessionMessage (.finish l)) s = .next { s with
       prot := { s.prot with sessions := left, replies := r }, emit := [] }) ∧
     (∀ op, ownerOpen s = true → sessionOn s l = none →
       exec (.spdmSessionMessage (.request l op)) s = .next { s with emit := [.spdmError 0x07] }) ∧
     (∀ x, ownerOpen s = true → sessionOn s l = some x → x.mutualAuth = true →
       (s.prot.replies = [] → exec (.spdmSessionMessage (.respondIfReady l)) s = .next { s with emit := [.spdmError 0x42] }) ∧
       (∀ st w rest, s.prot.replies = (st, w) :: rest → Does (.spdmSessionMessage (.respondIfReady l)) s fun t =>
         OwnerAnswered t st w ∧ t.prot = { s.prot with replies := rest } ∧ Only [.prot, .emit] s t)) ∧
     exec (.sidebandLinkReset l) s = .next { s with
       prot := { s.prot with sessions := left, replies := r }, emit := [] })

/-- R389, R397, R398: a chunk of FW_STAGE is kept and answered with the bytes received; the last one is answered
PENDING, and the container is verified: one that passes goes into the slot, whose copies are being written, and one
that fails is not staged and leaves the failing step as the slot's state; a chunk of the owner is kept and answered
likewise. When both copies are written the slot is valid and the final reply names the image. Completes: fwStage,
fwStageWritten. -/
def Obligations.StagingFillsASlot : Prop :=
  ∀ s : State,
    (∀ (r : Posted) (dma : Dma) (checks : ImageChecks) (d : List Byte), Asks s 0x30 r →
      formFault r { lens := [6], desc := some (false, []), mgr := true, lenOk := fun r => decide (r.descLen % 4096 = 0),
                    rsv := [(4, 0xFFFFFCFC)] } = none →
      descOwn r { lens := [6], desc := some (false, []), mgr := true, lenOk := fun r => decide (r.descLen % 4096 = 0),
                  rsv := [(4, 0xFFFFFCFC)] } = none →
      stageFault r = none → holder s 0 = r.agent → r.epoch = s.mbx.hostEpoch → dma.failAt = none →
      offsetBad s .manager (r.pw 5) r.descLen = false → stageReason s .manager (some (r.pw 4 % 4)) = none →
      d = staged s (r.pw 5) (padTo r.descLen dma.bytes) →
      (bitOf (r.pw 4) 8 = false → Does (.fwStage (.scp dma) checks) s fun t =>
        Answers s t r 0x00 [r.pw 5 + r.descLen] ∧ d.length = r.pw 5 + r.descLen ∧
        t.fw.staging = some { path := .manager, slot := r.pw 4 % 4, data := d, forward := bitOf (r.pw 4) 9, image := none,
                              writing := false, tag := none, item := none } ∧
        t.fw.slot1 = s.fw.slot1 ∧ t.fw.slot2 = s.fw.slot2 ∧ Only [.mbx, .fw, .emit] s t) ∧
      (bitOf (r.pw 4) 8 = true → verifyFault s { bytes := d, checks := checks } = none →
        Does (.fwStage (.scp dma) checks) s fun t => Answers s t r 0x09 [] ∧
          slotAt t (r.pw 4 % 4) = { st := .writing, image := none, copy0 := false, copy1 := false, prepared := false } ∧
          (∃ g, t.fw.staging = some g ∧ g.writing = true ∧ g.image = some { bytes := d, checks := checks } ∧
            g.slot = r.pw 4 % 4 ∧ g.tag = some r.tag) ∧
          t.fw.act = .staging ∧ Only [.mbx, .media, .fw, .emit] s t) ∧
      (∀ st, bitOf (r.pw 4) 8 = true → verifyFault s { bytes := d, checks := checks } = some st →
        Does (.fwStage (.scp dma) checks) s fun t =>
          (slotAt t (r.pw 4 % 4)).st = st ∧ t.fw.staging = none ∧ t.mbx.outst = s.mbx.outst ∧ t.mbx.outQ = [] ∧
          Only [.mbx, .fw, .emit] s t)) ∧
    (∀ (l : Sideband) (p : List Byte) (checks : ImageChecks), OwnerHeard s l → p.length = 4101 → byteAt p 4 ≤ 3 →
      offsetBad s .owner (fieldAt p 0 4) 4096 = false → stageReason s .owner (some (stagingTarget s)) = none →
      bitOf (byteAt p 4) 0 = false → Does (.fwStage (.owner l p) checks) s fun t =>
        OwnerAnswered t 0x00 [fieldAt p 0 4 + 4096] ∧
        t.fw.staging = some { path := .owner, slot := stagingTarget s, data := staged s (fieldAt p 0 4) (p.drop 5),
                              forward := bitOf (byteAt p 4) 1, image := none, writing := false, tag := none, item := none } ∧
        Only [.fw, .emit] s t) ∧
    (∀ (g : Staging) (i : Image) (o : Outst), ctrlRuns s = true → s.fw.cellar = false → s.fw.staging = some g →
      g.writing = true → g.image = some i → g.path = .manager → g.tag = some o.tag → o.opcode = 0x30 → Owed s o →
      Does .fwStageWritten s fun t => Settles s t o 0x00 [i.imageId.toNat] ∧
        slotAt t g.slot = { st := .valid, image := some i, copy0 := true, copy1 := true, prepared := false } ∧
        t.fw.staging = none ∧ t.fw.act = .none ∧ Only [.mbx, .fw, .emit] s t)

/-- R103, R105, R397: Firmware Image Download keeps a piece of the container; Firmware Commit 000b verifies what was
downloaded and begins to write it to the slot; Firmware Commit 011b schedules the slot for the first boundary after
its preparation. R406: FW_STATUS answers OK with 15 words: the slots, states and counts for QTYPE 0, the states along
the corridor for QTYPE 1; the manager over SCP, where it changes nothing but the mailbox, and the owner on its
session. Completes: firmwareImageDownload, firmwareCommitReplace, firmwareCommitActivate, fwStatus. -/
def Obligations.FirmwareCommandsAndStatus : Prop :=
  (∀ (s : State) (id : CmdId) (it : Item),
     (∀ dma : Dma, AdminRuns s id 0x11 .manager it →
       (4 * (it.sqe.cdw10.toNat + 1)) % 4096 = 0 → (4 * it.sqe.cdw11.toNat) % 4096 = 0 →
       offsetBad s .download (4 * it.sqe.cdw11.toNat) (4 * (it.sqe.cdw10.toNat + 1)) = false →
       stageReason s .download none = none → dma.linkFails = false → Does (.firmwareImageDownload id dma.bytes dma.failAt) s fun t =>
         Completes s t it { sct := 0, sc := 0, dnr := false } 0 0 ∧
         (∃ g, t.fw.staging = some g ∧ g.path = .download ∧ g.writing = false ∧
           g.data = staged s (4 * it.sqe.cdw11.toNat) (padTo (4 * (it.sqe.cdw10.toNat + 1)) dma.bytes)) ∧
         t.fw.slot1 = s.fw.slot1 ∧ t.fw.slot2 = s.fw.slot2) ∧
     (∀ (g : Staging) (checks : ImageChecks), AdminRuns s id 0x10 .manager it → commitAction it = 0 →
       commitRuns s it.seq = false → commitSlot s it = 1 ∨ commitSlot s it = 2 →
       stageReason s .download (some (commitSlot s it)) = none → s.fw.staging = some g →
       verifyFault s { bytes := g.data, checks := checks } = none → Does (.firmwareCommitReplace ⟨id, checks⟩) s fun t =>
         slotAt t (commitSlot s it) = { st := .writing, image := none, copy0 := false, copy1 := false, prepared := false } ∧
         (∃ k, t.fw.staging = some k ∧ k.writing = true ∧ k.image = some { bytes := g.data, checks := checks } ∧
           k.item = some it.seq) ∧
         t.host.items = s.host.items ∧ t.host.ctls = s.host.ctls) ∧
     (AdminRuns s id 0x10 .manager it → commitAction it = 3 → commitRuns s it.seq = false →
       commitSlot s it = 1 ∨ commitSlot s it = 2 → scheduleReason s (commitSlot s it) none = none → s.fw.sched = none →
       Does (.firmwareCommitActivate id true) s fun t =>
         t.fw.sched = some { slot := commitSlot s it, scope := false, frame := 0, imageId := imageIdOf s (commitSlot s it),
                             asap := true, prepared := false, tag := none, item := some it.seq } ∧
         t.fw.act = .preparing ∧ t.host.items = s.host.items ∧ t.host.ctls = s.host.ctls)) ∧
  (∀ (s : State) (q : Nat) (good : List Nat → Prop), q ≤ 1 →
     good = (fun l => l.length = 15 ∧
       (q = 0 → l.getD 0 0 = s.fw.running + (newestCfg s).bootSlot * 2 ^ 2 + s.fw.act.code * 2 ^ 8 + s.fw.lastReason * 2 ^ 16 ∧
         l.getD 4 0 = s.fw.slot1.st.code + s.fw.slot2.st.code * 2 ^ 8 + s.fw.svMin * 2 ^ 16) ∧
       (q = 1 → l.getD 4 0 = s.fw.corrImage.toNat)) →
     (∀ (r : Posted) (dma : Dma), Asks s 0x33 r → formFault r (Form.plain [1] false [(0, 0xFFFFFF00)]) = none → r.pw 0 = q →
       Does (.fwStatus (.scp dma)) s fun t => (∃ l, good l ∧ Answers s t r 0x00 l) ∧ Only [.mbx, .emit] s t) ∧
     (∀ (l : Sideband) (p : List Byte), OwnerHeard s l → p.length = 1 → byteAt p 0 = q →
       Does (.fwStatus (.owner l p)) s fun t => (∃ w, good w ∧ OwnerAnswered t 0x00 w) ∧ Only [.emit] s t))

/-- R399, R401, R405: FW_SCHEDULE within its window is answered PENDING and held; when the slot is prepared the final
reply is OK and the schedule stands; FW_CANCEL clears it and answers OK. R402, R403: within an activation hold the
handover record, the switch of the microcode and the handover are stamped in this order, and the management core stops
with the first and runs again with the second; a hold of 1,000 frames without a handover expires: the running slot
stays, the slot that failed has state 7, and fetch is paused for at most 500 frames. Completes: fwSchedule,
fwPrepareDone, fwCancel, handoverRecordWritten, engineMicrocodeSwitch, handoverReady, activationHoldExpiry. -/
def Obligations.ActivationRunsItsCourse : Prop :=
  (∀ (s : State) (r : Posted), holder s 0 = r.agent →
     (Asks s 0x31 r → formFault r (Form.plain [4] true [(0, 0xFFFFFEFC)]) = none → scheduleFault r = none →
       s.frame.counter + 524288 ≤ r.pw64 1 → r.pw64 1 ≤ s.frame.counter + 2 ^ 31 →
       scheduleReason s (r.pw 0 % 4) (some (BitVec.ofNat 32 (r.pw 3))) = none → s.fw.sched = none →
       Does (.fwSchedule true) s fun t => Answers s t r 0x09 [] ∧
         t.fw.sched = some { slot := r.pw 0 % 4, scope := bitOf (r.pw 0) 8, frame := r.pw64 1,
                             imageId := BitVec.ofNat 32 (r.pw 3), asap := false, prepared := false, tag := some r.tag,
                             item := none } ∧
         t.fw.act = .preparing ∧ Only [.mbx, .fw, .emit] s t) ∧
     (∀ (c : Sched) (o : Outst), ctrlRuns s = true → s.fw.sched = some c → c.prepared = false → c.asap = false →
       c.tag = some o.tag → o.opcode = 0x31 → Owed s o → Does .fwPrepareDone s fun t => Settles s t o 0x00 [] ∧
         t.fw.sched = some { c with prepared := true } ∧ (slotAt t c.slot).prepared = true ∧ t.fw.act = .scheduled ∧
         Only [.mbx, .fw, .emit] s t) ∧
     (∀ c, Asks s 0x32 r → formFault r (Form.plain [1] true [(0, 0xFFFFFFFE)]) = none → s.fw.sched = some c →
       c.prepared = true → c.item = none → Does .fwCancel s fun t => Answers s t r 0x00 [] ∧ t.fw.sched = none ∧
         t.fw.act = .cancelled ∧ Only [.mbx, .fw, .emit] s t)) ∧
  (∀ (s : State) (h : Hold2), hallRuns s = true → s.fw.hold = some h →
     Does .handoverRecordWritten s (fun t => t.fw = { s.fw with hold := some { h with recordWritten := true } } ∧
       t.mgmt.running = false ∧ Only [.fw, .mgmt, .emit] s t) ∧
     (h.recordWritten = true → Does .engineMicrocodeSwitch s fun t =>
       t.fw = { s.fw with hold := some { h with switched := true } } ∧ (s.mgmt.held = [] → t.mgmt.running = true)) ∧
     (h.switched = true → s.frame.elapsed ≤ h.from_ + 999 → Does .handoverReady s fun t =>
       t.fw = { s.fw with hold := some { h with ready := true } } ∧ Only [.frame, .fw, .emit] s t) ∧
     (h.ready = false → h.from_ + 999 < s.frame.elapsed → Does .activationHoldExpiry s fun t =>
       t.fw.hold = none ∧ t.fw.act = .expired ∧ (slotAt t h.slot).st = .handoverFailed ∧ t.fw.running = s.fw.running ∧
       t.fw.image = s.fw.image ∧ ∃ f, t.fw.expiryAt = some f ∧ s.frame.elapsed < f ∧ f ≤ s.frame.elapsed + 500))

/-- R367, R400, R401, R405: over the corridor an image that passes is staged, a schedule is taken with the slot that
has its image and a cancel clears it; the outcome of a unit downstream is kept and relayed upstream, and a transfer
answered busy is sent again, up to 8 times. Completes: corridorImageArrival, corridorScheduleArrival,
corridorCancelArrival, corridorOutcomeRelay, corridorForwardRetry. -/
def Obligations.CorridorMessagesAreActedOn : Prop :=
  ∀ s : State, ctrlRuns s = true →
    (∀ (i : Image) (fwd : Bool), s.frame.shelf.upLink = true → s.prot.acceptImages = true → s.fw.staging = none →
      stageReason s .corridor (some (stagingTarget s)) = none → verifyFault s i = none →
      stagingTarget s = 1 ∨ stagingTarget s = 2 → Does (.corridorImageArrival i fwd) s fun t =>
        slotAt t (stagingTarget s) = { st := .writing, image := none, copy0 := false, copy1 := false, prepared := false } ∧
        (∃ g, t.fw.staging = some g ∧ g.path = .corridor ∧ g.writing = true ∧ g.image = some i) ∧
        Only [.media, .fw, .emit] s t) ∧
    (∀ (w : Word) (f n : Nat), s.frame.shelf.upLink = true → s.prot.acceptImages = true → slotOfImage s w = some n →
      s.fw.hold = none → s.fw.cellar = false → s.fw.sched = none → scheduleReason s n (some w) = none →
      Does (.corridorScheduleArrival w f) s fun t =>
        t.fw.sched = some { slot := n, scope := true, frame := f, imageId := w, asap := false, prepared := false, tag := none,
                            item := none } ∧ t.fw.act = .preparing ∧ Only [.fw, .emit] s t) ∧
    (∀ c, s.frame.shelf.upLink = true → s.fw.hold = none → s.fw.sched = some c → c.tag = none → c.item = none →
      Does .corridorCancelArrival s fun t => t.fw.sched = none ∧ t.fw.act = .cancelled ∧ Only [.fw, .emit] s t) ∧
    (∀ (pos st : Nat) (w : Word), s.frame.shelf.downLink = true → pos ≤ 31 → st < 16 →
      Does (.corridorOutcomeRelay pos st w) s fun t =>
        tabGet t.fw.corrStates pos = some st ∧ t.fw.corrImage = w ∧
        (s.frame.shelf.upLink = true → t.emit = [.corridor false (.outcome pos st w)]) ∧ Only [.fw, .emit] s t) ∧
    (∀ (x : Transfer) (f : Nat) (accepted : Bool), s.frame.shelf.downLink = true → s.fw.transfer = some x →
      x.retryAt = some f → f ≤ s.frame.elapsed → Does (.corridorForwardRetry accepted) s fun t =>
        t.emit = [.corridor true (.image x.image)] ∧
        t.fw.transfer = (if accepted = true ∨ 8 ≤ x.tries + 1 then none
          else some { x with tries := x.tries + 1, retryAt := some (f + 500000) }) ∧ Only [.fw, .emit] s t)

/-- R359, R362: METER_RING_SET sets the ring of the requesting PF with PROD at 0; METER_READ answers the fifteen words
of the minute in progress of a holder that is metered, as the boundary left its counters, and changes nothing but the
mailbox. R358 to R360: where the ring has room, the batch held longest is written to it record by record, then PROD,
on the minute's end and again 50,000 frames after an attempt that was not written; an attempt whose DMA fails is
counted, and the batch is held. Completes: meterRingSet, meterRead, meterBatchWrite, meterRetry. -/
def Obligations.MeteringIsSetReadAndWritten : Prop :=
  (∀ (s : State) (r : Posted),
     (Accepted s 0x40 r (Form.plain [6] true [(2, 0xFFFFFFE0), (5, 0xFFFFFFFE)]) ringFault → Does .meterRingSet s fun t =>
       Answers s t r 0x00 [] ∧
       t.inst.ring = some { pf := agentFn r.agent, base := r.pw64 0, log2 := r.pw 2, ctl := r.pw64 3,
                            enable := decide (r.pw 5 = 1), prod := 0 } ∧
       t.inst.holders = s.inst.holders ∧ Only [.mbx, .inst, .emit] s t) ∧
     (∀ h, Accepted s 0x41 r (Form.plain [1] true [(0, 0xFFFFF000)]) (fun r => if 2049 < r.pw 0 then some 1 else none) →
       meteredNow s (r.pw 0) = true → tabGet s.inst.holders (r.pw 0) = some h → Does .meterRead s fun t =>
         (∃ l : List Nat, l.length = 15 ∧ Answers s t r 0x00 l ∧
           l.getD 0 0 = r.pw 0 + genOf s (r.pw 0) * 2 ^ 16 + mflagBits h.flags * 2 ^ 24 ∧
           l.getD 4 0 = h.seen.bytesRead % 2 ^ 32 ∧ l.getD 6 0 = h.seen.bytesWritten % 2 ^ 32 ∧
           l.getD 8 0 = h.seen.commands % 2 ^ 32 ∧ l.getD 11 0 = h.seen.dieTime % 2 ^ 32 ∧
           l.getD 13 0 = h.seen.zoneFrames % 2 ^ 32) ∧
         Only [.mbx, .emit] s t)) ∧
  (∀ (s : State) (g : Ring) (cons : Nat) (c : Instr) (ok : Bool),
     (c = .meterBatchWrite cons ok ∧ s.inst.batchDue = true) ∨
       (c = .meterRetry cons ok ∧ s.inst.lastTry + 50000 ≤ s.frame.elapsed) →
     hallRuns s = true → s.inst.ring = some g → g.enable = true → ringLink s g = true → nextBatch s ≠ [] →
     (ok = true → g.prod - cons + (nextBatch s).length ≤ 2 ^ g.log2 → Does c s fun t =>
       (∃ more, t.emit = ((List.range (nextBatch s).length).zip (nextBatch s)).map (fun p =>
           Emission.hostWrite g.pf (g.base + (g.prod + p.1) % 2 ^ g.log2 * 64) (mrecBytes p.2)) ++
         [.hostWrite g.pf g.ctl (le (g.prod + (nextBatch s).length) 8)] ++ more) ∧
       (∃ g', t.inst.ring = some g' ∧ g.prod + (nextBatch s).length ≤ g'.prod) ∧
       t.inst.batchDue = false ∧ t.inst.lastTry = s.frame.elapsed) ∧
     (ok = false → Does c s fun t => t.emit = [] ∧
       tabGetD t.recd.cur.events 0x16 0 = sat16 (tabGetD s.recd.cur.events 0x16 0 + 1) ∧
       t.inst = { s.inst with batchDue := false, lastTry := s.frame.elapsed } ∧ Only [.inst, .recd, .emit] s t))

/-- R482, R483, R485: a write of the recorder's buffer puts every closed record into its mantel entry and leaves the
buffer empty; REC_READ answers PENDING, deals with the failing lines it finds, writes the records asked for to host
memory and gives its final reply. R414 to R419: CFG_READ and CAL_READ deal with the failing lines they find and write
what is stored to host memory; a record that passes every check of CFG_COMMIT is written with the next SEQ and the
BOOT_SLOT in force, and a calibration set that verifies replaces the one in force while CAL_WE allows it. R67, R80: a
transfer that fails at the link, or in which HOST_EPOCH moves, ends the request ABORTED, and nothing is written.
Completes: recorderBufferWrite, recRead, cfgRead, cfgCommit, calRead, calWrite. -/
def Obligations.RecordsAreWrittenAndRead : Prop :=
  (∀ s : State,
     (booted s = true → s.recd.writeDue = true ∨ 48 ≤ s.recd.closed.length → Does .recorderBufferWrite s fun t =>
       t.recd.closed = [] ∧ t.recd.writeDue = false ∧ t.recd.cur = s.recd.cur ∧
       ((s.recd.closed.map fun r => r.recno % 8192).Nodup → ∀ r ∈ s.recd.closed,
         tabGet t.recd.mantel (r.recno % 8192) = some r) ∧
       (∀ n, (∀ r ∈ s.recd.closed, r.recno % 8192 ≠ n) → tabGet t.recd.mantel n = tabGet s.recd.mantel n) ∧
       (∀ n r, tabGet s.recd.attic n = some r → tabGet t.recd.attic n = some r) ∧ Only [.recd, .emit] s t) ∧
     (∀ (r : Posted) (dma : Dma) (finds : List LineFind) (s1 : State) (l : List Record),
       Accepted s 0x50 r
         { lens := [7], desc := some (true, []), mgr := false,
           lenOk := fun r => decide (r.descLen % 2048 = 0) && (decide (r.pw 4 % 4 ≠ 2) || decide (r.descLen = 65536)),
           rsv := [(4, 0xFFFFFFFC), (6, 0xFFFFFFFF)] }
         (fun r => if r.pw 4 % 4 = 2 ∧ r.pw 5 ≠ 0 then some 6 else none) → dma.failAt = none →
       s1 = readLines finds (takeHead { s with emit := [] }) →
       l = ((areaRecords s1 (r.pw 4)).filter fun x => decide (r.pw 5 ≤ x.recno)).take (r.descLen / 2048) →
       Does (.recRead ⟨dma, finds⟩) s fun t =>
         (∃ first last count : Nat, t.mbx.inQ =
           inWords { words := [replyHeader 0x50 r.tag 0 false 0x09], epoch := s.mbx.devEpoch } ++
           inWords { words := replyHeader 0x50 r.tag 3 false 0x00 :: [first, last, count].map wordOf, epoch := s.mbx.devEpoch }) ∧
         t.mbx.outst = s.mbx.outst ∧
         (r.pw 4 = 2 → .hostWrite (agentFn r.agent) r.descAddr (sinceBytes s1) ∈ t.emit) ∧
         (r.pw 4 ≠ 2 → l ≠ [] → .hostWrite (agentFn r.agent) r.descAddr (l.map recordBytes).flatten ∈ t.emit) ∧
         t.recd = s1.recd ∧ (finds = [] → t.recd = s.recd))) ∧
  (∀ (s : State) (r : Posted) (b : List Byte) (dma : Dma), dma = { bytes := b, failAt := none } →
     (∀ c finds s1, Accepted s 0x70 r { lens := [5], desc := some (true, [65536]), mgr := false, rsv := [(4, 0xFFFFFFFC)] }
         (fun _ => none) → s1 = readLines finds (takeHead { s with emit := [] }) → cfgCopy s1 (r.pw 4) = some c →
       Does (.cfgRead ⟨dma, finds⟩) s fun t =>
         Answers s t r 0x00 [lo32 c.seq, hi32 c.seq] ∧
         .hostWrite (agentFn r.agent) r.descAddr ((cfgBytes c).take 65536) ∈ t.emit ∧ t.fw = s1.fw ∧
         (finds = [] → Only [.mbx, .emit] s t)) ∧
     (Accepted s 0x71 r { lens := [4], desc := some (false, [65536]), mgr := true } (fun _ => none) →
       (commitFault s r (padTo 65536 b) (cfgOf (padTo 65536 b)) = none → Does (.cfgCommit dma) s fun t =>
         Answers s t r 0x00 [lo32 ((newestCfg s).seq + 1), hi32 ((newestCfg s).seq + 1)] ∧
         newestCfg t = { cfgOf (padTo 65536 b) with seq := (newestCfg s).seq + 1, bootSlot := (newestCfg s).bootSlot } ∧
         t.fw.cfgDue = some (cfgOf (padTo 65536 b)) ∧ Only [.mbx, .fw, .emit] s t) ∧
       (∀ off, Does (.cfgCommit { bytes := b, failAt := some (.link off) }) s fun t =>
         Answers s t r 0x07 [1, off] ∧ Only [.mbx, .emit] s t) ∧
       (∀ off release, Does (.cfgCommit { bytes := b, failAt := some (.epoch off release) }) s fun t =>
         t.mbx.hostEpoch = s.mbx.hostEpoch + 1 ∧ (release = true → holder t 1 = 0) ∧
         t.mbx.inQ = inWords { words := replyHeader 0x71 r.tag 2 true 0x07 :: [2, burstEnd off r.descLen].map wordOf,
                               epoch := s.mbx.devEpoch } ∧ t.fw = s.fw)) ∧
     (∀ finds s1, Accepted s 0x60 r { lens := [4], desc := some (true, [65536]), mgr := true } (fun _ => none) →
       s1 = readLines finds (takeHead { s with emit := [] }) → s1.fw.calState ≠ 2 →
       Does (.calRead ⟨dma, finds⟩) s fun t => Answers s t r 0x00 [] ∧
         .hostWrite (agentFn r.agent) r.descAddr ((calBytes s1.fw.calib).take 65536) ∈ t.emit ∧
         (finds = [] → Only [.mbx, .emit] s t)) ∧
     (Accepted s 0x61 r { lens := [4], desc := some (false, [65536]), mgr := true } (fun _ => none) → s.prot.calWe = true →
       calFault (padTo 65536 b) = none → Does (.calWrite dma) s fun t => Answers s t r 0x00 [] ∧
         t.fw.calib = { body := (padTo 65536 b).drop 12, overwritten := true, writes := s.fw.calib.writes + 1 } ∧
         t.fw.calState = 1 ∧ tabGetD t.recd.cur.events 0x0A 0 = sat16 (tabGetD s.recd.cur.events 0x0A 0 + 1) ∧
         Only [.mbx, .fw, .recd, .emit] s t))

/-- R317 to R320: ENTER and EXIT set and end test mode with every window cleared; WRITE_RAW stores, READ_RAW shows and
READ decodes the word that the request names, leaving it; WRITE stores an encoded word, a narrow one merged into the
corrected word; ENCODE answers the check bits. Every other word is unchanged. R22, R312, R315, R325, R478: a scrub
pass over a populated channel or an SRAM counts a corrected word under its memory and goes on, and counts an
uncorrectable word, which its consumer meets (a tracker entry is dropped, a planner lane is reset); the TRNG fails its
health test, which is counted, and passes it again. Completes: eccTestEnter, eccTestExit, eccTestWriteRaw,
eccTestReadRaw, eccTestRead, eccTestWrite, eccTestEncode, dramPatrolScrub, sramPatrolScrub, trngHealthFailure,
trngHealthTestPass. -/
def Obligations.EccTestAndScrub : Prop :=
  (∀ (s : State) (r : Posted),
     Accepted s 0xB0 r (Form.plain [5] true [(0, 0xFFFF0000), (1, 0xFFFFE000), (4, 0xFF000000)]) (fun _ => none) →
     r.agent ≠ 0 → holder s 2 = r.agent → eccFault r = none →
     (r.subop = 0 → Does .eccTestEnter s fun t => Answers s t r 0x00 [0, 0, 0, 0] ∧ t.ecc = { s.ecc with mode := true, words := [] } ∧
       Only [.mbx, .ecc, .emit] s t) ∧
     (s.ecc.mode = true →
       (r.subop = 0x0F → Does .eccTestExit s fun t => Answers s t r 0x00 [0, 0, 0, 0] ∧
         t.ecc = { s.ecc with mode := false, words := [] } ∧ Only [.mbx, .ecc, .emit] s t) ∧
       (r.subop = 1 → Does .eccTestWriteRaw s fun t => Answers s t r 0x00 [0, 0, 0, 0] ∧
         eccWord t r = stored80 (eccData r) (BitVec.ofNat 16 (bits (r.pw 4) 15 0)) ∧
         (∀ k, k ≠ eccKey r → tabGetD t.ecc.words k 0 = tabGetD s.ecc.words k 0) ∧ Only [.mbx, .ecc, .emit] s t) ∧
       (r.subop = 2 → Does .eccTestReadRaw s fun t => Answers s t r 0x00 [0, (dataOf (eccWord s r)).toNat % 2 ^ 32,
         (dataOf (eccWord s r)).toNat / 2 ^ 32, (checkBits (eccWord s r)).toNat] ∧ Only [.mbx, .emit] s t) ∧
       (r.subop = 3 → Does .eccTestRead s fun t =>
         (∀ k w, decode80 (eccWord s r) = some (k, w) → Answers s t r 0x00
           [k + k * 2 ^ 8 + (syndrome (eccWord s r)).toNat * 2 ^ 16, (dataOf w).toNat % 2 ^ 32, (dataOf w).toNat / 2 ^ 32, 0]) ∧
         (decode80 (eccWord s r) = none → Answers s t r 0x00 [3 + (syndrome (eccWord s r)).toNat * 2 ^ 16,
           (dataOf (eccWord s r)).toNat % 2 ^ 32, (dataOf (eccWord s r)).toNat / 2 ^ 32, 0]) ∧ Only [.mbx, .emit] s t) ∧
       (r.subop = 4 → Does .eccTestWrite s fun t =>
         (bits (r.pw 4) 23 16 = 0xFF → Answers s t r 0x00 [0, 0, 0, 0] ∧ eccWord t r = encode80 (eccData r)) ∧
         (bits (r.pw 4) 23 16 ≠ 0xFF → ∃ cost < 2 ^ 16, (0x10 ≤ r.target → 14 ≤ cost) ∧
           Answers s t r 0x00 [0, 0, 0, cost * 2 ^ 16] ∧
           eccWord t r = narrowWrite (bits (r.pw 4) 23 16) (eccWord s r) (eccData r)) ∧
         (∀ k, k ≠ eccKey r → tabGetD t.ecc.words k 0 = tabGetD s.ecc.words k 0) ∧ Only [.mbx, .ecc, .emit, .free] s t) ∧
       (r.subop = 5 → Does .eccTestEncode s fun t => Answers s t r 0x00 [0, 0, 0, (checkOf (eccData r)).toNat] ∧
         Only [.mbx, .emit] s t))) ∧
  (∀ s : State,
     (∀ (c : Instr) (k : Nat) (errs : List ScrubErr), hallRuns s = true →
       (∃ ch, dramPopulated s ch = true ∧ c = .dramPatrolScrub ch errs ∧ k = ch) ∨
         (∃ g, 0x10 ≤ g ∧ g ≤ 0x17 ∧ c = .sramPatrolScrub g errs ∧ k = g - 10) →
       (errs = [.single] → Does c s fun t => tabGetD t.recd.cur.dec k decZero =
         { tabGetD s.recd.cur.dec k decZero with pSingle := sat16 ((tabGetD s.recd.cur.dec k decZero).pSingle + 1) } ∧
         Only [.recd, .emit] s t) ∧
       (errs = [.double] → Does c s fun t => tabGetD t.recd.cur.dec k decZero =
         { tabGetD s.recd.cur.dec k decZero with pDouble := sat16 ((tabGetD s.recd.cur.dec k decZero).pDouble + 1) } ∧
         Only [.recd, .emit] s t) ∧
       (∀ key, errs = [.uncorrectable (.tracker key)] → Does c s fun t => tabGetD t.recd.cur.dec k decZero =
         { tabGetD s.recd.cur.dec k decZero with
             pUncorr := sat16 ((tabGetD s.recd.cur.dec k decZero).pUncorr + 1)
             uncorr := sat16 ((tabGetD s.recd.cur.dec k decZero).uncorr + 1) } ∧
         tabGet t.flash.trackers key = none ∧
         (∀ j, j ≠ key → tabGet t.flash.trackers j = tabGet s.flash.trackers j) ∧ Only [.recd, .flash, .emit] s t)) ∧
     (booted s = true → Does .trngHealthFailure s fun t => t.prot = { s.prot with trngOk := false } ∧
       tabGetD t.recd.cur.events 0x17 0 = sat16 (tabGetD s.recd.cur.events 0x17 0 + 1) ∧ Only [.prot, .recd, .emit] s t) ∧
     exec .trngHealthTestPass s = .next { s with prot := { s.prot with trngOk := true }, emit := [] })

/-- R516, R517, R439, R440: at power-on every enable is low and the crystal is awaited; each group's power-good
enables the next, and after the last the ROM runs; a wait that runs out latches its code, drives FAULT_N and takes the
rails down, to be tried again twice and then held; the flush and the cooling hold end with the whole sequence.
Completes: powerOn, railPowerGood, bootWaitTimeout, bootRetry, flushRestart, coolingRestart, powerRemoved. -/
def Obligations.BootSequencerBringsUpTheRails : Prop :=
  ∀ s : State,
    (s.power.boot = .off → Does .powerOn s fun t => t.power.boot = .crystal ∧ t.power.good = [3, 12] ∧
      t.power.attempts = 0 ∧ t.pins.pwrEn = [false, false, false, false] ∧ Only [.power, .pins, .emit] s t) ∧
    (∀ g < 4, groupAwaited s.power.boot = some g → Does (.railPowerGood g) s fun t =>
      t.power.good = s.power.good ++ railGroup g ∧
      t.power.boot = (if g = 3 then .rom else .rails (g + 1)) ∧
      (∀ i < 4, t.pins.pwrEn.getD i false = decide (i ≤ g + 1)) ∧ Only [.power, .fw, .pins, .emit] s t) ∧
    (∀ w f, waitFault s w = some f → Does (.bootWaitTimeout w) s fun t =>
      t.power.attempts = s.power.attempts + 1 ∧ t.power.faultKind = f.1 ∧ t.power.faultRail = f.2 ∧
      t.power.faultAttempts = s.power.attempts + 1 ∧ t.power.rcFallback = decide (f.1 = 2) ∧
      t.power.boot = (if s.power.attempts + 1 < 3 then .retry else .held) ∧ t.pins.fault = true ∧
      t.pins.pwrEn = [false, false, false, false] ∧ Only [.power, .pins, .emit] s t) ∧
    (s.power.boot = .retry → Does .bootRetry s fun t => t.power.boot = .crystal ∧ t.power.attempts = s.power.attempts ∧
      t.pins.fault = s.pins.fault ∧ Only [.power, .pins, .emit] s t) ∧
    (s.power.boot = .stopped → Does .flushRestart s fun t => t.power.boot = .crystal ∧ t.power.attempts = 0 ∧
      t.pins.pfLow = false ∧ Only [.power, .pins, .emit] s t) ∧
    (s.power.boot = .fireHold → s.therm.cooling = true → Does .coolingRestart s fun t => t.power.boot = .crystal ∧
      t.therm.fire = .normal ∧ t.therm.cooling = false ∧ t.pins.fault = false ∧ Only [.power, .therm, .pins, .emit] s t) ∧
    (Does .powerRemoved s fun t => t.power.boot = .off ∧ t.power.good = [] ∧ t.power.faultKind = 0 ∧
      t.power.attempts = 0 ∧ t.pins.fault = false ∧ t.pins.pwrEn = [false, false, false, false] ∧ t.mgmt.running = false ∧
      t.host.port0.link = false ∧ t.host.port1.link = false ∧ t.recd.closed = [] ∧ t.recd.mantel = s.recd.mantel ∧
      (s.therm.fire = .permanent → t.therm.fire = .permanent) ∧ t.fw = s.fw ∧ t.prot = s.prot ∧ t.media = s.media)

/-- R41, R394 to R396, R471: a cold start with two broken diodes in a zone ends in the permanent hold; otherwise the
device begins at frame 0 in a new boot, in the cellar by strap or without its protection state, and else with the
first image that passes and reports ready; one that does not report ready in 200,000 frames is followed by the next,
and the last by the cellar. Completes: coldStart, firmwareReadyTimeout. -/
def Obligations.ColdStartChoosesTheImage : Prop :=
  ∀ (s : State) (found : BootFind),
    (s.power.boot = .rom → s.fw.bootStep ≠ 3 → s.power.flush = none →
      (twoBroken s = true → Does (.coldStart found) s fun t => t.power.boot = .permanent ∧ t.therm.fire = .permanent ∧
        t.pins.fault = true ∧ t.frame = s.frame ∧ t.fw = s.fw) ∧
      (twoBroken s = false → s.pins.pfLow = false →
        (found.cellarStrap = true → Does (.coldStart found) s fun t => t.power.boot = .running ∧ t.fw.cellar = true ∧
          t.fw.cellarCause = 2 ∧ t.frame.counter = 0 ∧ t.frame.elapsed = 0 ∧ t.inst.boots = s.inst.boots + 1 ∧
          t.mbx.outQ = [] ∧ t.mbx.inQ = [] ∧ t.mbx.latches = [] ∧ t.ecc.mode = false) ∧
        (∀ n, n = newBoot found { s with emit := [] } → found.cellarStrap = false →
          (((found.protA && n.prot.copyA) || (found.protB && n.prot.copyB)) = false → Does (.coldStart found) s fun t =>
            t.power.boot = .running ∧ t.fw.cellar = true ∧ t.fw.cellarCause = 4 ∧ t.prot.ownerKey = none ∧
            t.prot.pending = []) ∧
          (∀ v, ((found.protA && n.prot.copyA) || (found.protB && n.prot.copyB)) = true → tryPasses n found 0 = true →
            found.copies[0]? = some (v, true) → mayStart found n = true → Does (.coldStart found) s fun t =>
              t.power.boot = .running ∧ t.fw.running = n.fw.cfg.bootSlot ∧ t.fw.cellar = false ∧
              t.fw.image = (slotAt n n.fw.cfg.bootSlot).image ∧ t.mgmt.running = true ∧ t.frame.counter = 0)))) ∧
    (hallStarted s = true → s.power.flush = none → s.fw.bootFrom + 200000 < s.frame.elapsed →
      (s.fw.bootTry = 3 → Does (.firmwareReadyTimeout found) s fun t => t.power.boot = .running ∧ t.fw.cellar = true ∧
        t.fw.cellarCause = 1 ∧ t.frame = s.frame) ∧
      (∀ v, s.fw.bootTry < 3 → tryPasses s found (s.fw.bootTry + 1) = true →
        found.copies[s.fw.bootTry + 1]? = some (v, true) → mayStart found s = true →
        Does (.firmwareReadyTimeout found) s fun t => t.power.boot = .running ∧
          t.fw.running = trySlot s (s.fw.bootTry + 1) ∧ t.mgmt.running = true ∧ t.frame.counter = s.frame.counter))

/-- R407 to R409: the owner's CELLAR_ENTER empties the recorder's buffer, discards proposals, resets the mailbox and
is answered OK, the ROM running the cellar; with a valid slot CELLAR_EXIT is answered OK and leaves it for the main
firmware, as the device does 1,000 frames after a staging where no strap holds it. Completes: cellarEnter, cellarExit,
cellarAutoExit. -/
def Obligations.CellarIsEnteredAndLeft : Prop :=
  ∀ (s : State) (l : Sideband) (found : BootFind),
    (OwnerHeard s l → Does (.cellarEnter l) s fun t => t.fw.cellar = true ∧ t.fw.cellarCause = 3 ∧
      t.power.boot = .running ∧ t.fw.running = 0 ∧ t.fw.staging = none ∧ t.prot.pending = [] ∧ t.recd.closed = [] ∧
      t.mbx.outQ = [] ∧ t.mbx.outst = [] ∧ t.mbx.devEpoch = s.mbx.devEpoch + 1 ∧ .owner 0x00 [] ∈ t.emit ∧
      t.frame.counter = s.frame.counter ∧ t.prot.ownerKey = s.prot.ownerKey) ∧
    (∀ v, s.fw.cellar = true → tryPasses s found 0 = true → found.copies[0]? = some (v, true) → mayStart found s = true →
      (∀ x, ownerOpen s = true → gated s = false → s.power.entry = none → sessionOn s l = some x → x.mutualAuth = true →
        slotValid s 1 = true ∨ slotValid s 2 = true → Does (.cellarExit l found) s fun t => .owner 0x00 [] ∈ t.emit ∧
          t.fw.cellar = false ∧ t.power.boot = .running ∧ t.fw.running = s.fw.cfg.bootSlot ∧ t.mgmt.running = true ∧
          t.frame.counter = s.frame.counter) ∧
      (∀ a, s.fw.stagedAt = some a → s.power.boot = .running → s.pins.cellar = false → a + 1000 ≤ s.frame.elapsed →
        Does (.cellarAutoExit found) s fun t =>
          t.fw.cellar = false ∧ t.power.boot = .running ∧ t.fw.running = s.fw.cfg.bootSlot ∧ t.mgmt.running = true ∧
          t.frame.counter = s.frame.counter))

/-- R426 to R434, R441: with the idle timer expired and no refuser an entry begins, a doorbell that is still unfetched
counting as its wake, and a refuser refuses it; drained, it ends in its state with the recorder's buffer written, PS4
with the rails low and the corridor's links down; work left after 10,000 frames, or landed units after 48,000, abort
it; a Set Features that asked for it completes; a wake is kept during an entry and begins the exit in PS3 and PS4; the
exit takes over what AON counted, and a failed one holds the device. Completes: apstIdleTimerExpiry, psEntryDrained,
psEntryAbort, wakeEvent, psExit. -/
def Obligations.PowerStatesAreEnteredAndLeft : Prop :=
  ∀ s : State,
    (∀ a e, s.power.idleFrom = some a → tabGet s.power.apst s.power.ps = some e → hallRuns s = true → s.power.apste = true →
      s.power.entry = none → s.power.ps ≤ 2 → e.itpt ≠ 0 → psRequested s = false → a + e.itpt * 500 < s.frame.elapsed →
      (refuser { s with emit := [] } = none → Does .apstIdleTimerExpiry s fun t =>
        t.power = { s.power with
          entry := some { target := e.itps, from_ := s.frame.elapsed, item := none, wake := decide (0 < unfetched s) }
          wakesInEntry := s.power.wakesInEntry + unfetched s, idleFrom := none } ∧ Only [.power, .emit] s t) ∧
      (∀ code, refuser { s with emit := [] } = some code → Does .apstIdleTimerExpiry s fun t => t.power.entry = none ∧
        t.power.idleFrom = some s.frame.elapsed ∧
        (e.itps = 3 → tabGetD t.power.ref3.counts code 0 = tabGetD s.power.ref3.counts code 0 + 1 ∧
          t.power.ref3.last = code ∧ t.power.ref3.lastAbort = false ∧ t.power.ref4 = s.power.ref4) ∧
        (e.itps = 4 → tabGetD t.power.ref4.counts code 0 = tabGetD s.power.ref4.counts code 0 + 1 ∧
          t.power.ref4.last = code ∧ t.power.ref4.lastAbort = false ∧ t.power.ref3 = s.power.ref3) ∧
        Only [.power, .recd, .emit] s t)) ∧
    (∀ e, s.power.entry = some e → hallRuns s = true →
      (workLeft s e = false → s.media.landing = [] → s.media.rowOps = [] → s.media.ring = [] →
        (Does .psEntryDrained s fun t => t.power.entry = none ∧ t.power.aonCount = 0 ∧ t.power.lastOp = s.power.ps ∧
          tabGetD t.power.entries e.target 0 = tabGetD s.power.entries e.target 0 + 1 ∧
          (e.wake = false → t.power.ps = e.target ∧ t.power.exitFrom = none) ∧
          (e.wake = true → t.power.ps = s.power.ps ∧ t.power.exitFrom = some s.frame.counter) ∧
          (e.item = none →
            (e.target = 4 → e.wake = false →
              t.emit = [.pmbus 0x40 0x21, .pmbus 0x41 0x01, .pmbus 0x42 0x01, .pmbus 0x43 0x01]) ∧
            (e.target = 4 → t.frame.shelf.upLink = false ∧ t.frame.shelf.downLink = false) ∧
            (e.target ≠ 4 → t.emit = [] ∧ t.frame = s.frame) ∧
            t.recd.closed = [] ∧ Only [.frame, .power, .recd, .flash, .emit] s t)) ∧
        (∀ it, e.item = some it.seq → itemBySeq s it.seq = some it → it.outcome = none → it.silent = false →
          Does .psEntryDrained s fun t => Completes s t it stOk 0 0)) ∧
      (∀ code, (workLeft s e = true ∧ e.from_ + 10000 ≤ s.frame.elapsed ∧ code = 1) ∨
        (workLeft s e = false ∧ s.media.landing ≠ [] ∧ e.from_ + 48000 ≤ s.frame.elapsed ∧ code = 7) →
        (Does .psEntryAbort s fun t => t.power.entry = none ∧ t.frame.admission = false ∧
          (e.target = 3 → tabGetD t.power.ref3.counts code 0 = tabGetD s.power.ref3.counts code 0 + 1 ∧
            t.power.ref3.last = code ∧ t.power.ref3.lastAbort = true ∧ t.power.ref4 = s.power.ref4) ∧
          (e.target = 4 → tabGetD t.power.ref4.counts code 0 = tabGetD s.power.ref4.counts code 0 + 1 ∧
            t.power.ref4.last = code ∧ t.power.ref4.lastAbort = true ∧ t.power.ref3 = s.power.ref3) ∧
          t.power.ps = s.power.ps ∧ (e.item = none → Only [.power, .frame, .recd, .emit] s t)) ∧
        (∀ it, e.item = some it.seq → itemBySeq s it.seq = some it → it.outcome = none → it.silent = false →
          Does .psEntryAbort s fun t => Completes s t it stOperationDenied (wordOf code) 0))) ∧
    (s.power.boot = .running →
      (∀ e, s.power.entry = some e → exec .wakeEvent s = .next { s with
        power := { s.power with entry := some { e with wake := true }, wakesInEntry := s.power.wakesInEntry + 1 }
        emit := [] }) ∧
      (s.power.entry = none → 3 ≤ s.power.ps → exec .wakeEvent s = .next { s with
        power := { s.power with ps := s.power.lastOp, exitFrom := some (s.frame.counter + s.power.aonCount) }
        emit := if s.power.ps = 4 then [.pmbus 0x43 0x01, .pmbus 0x42 0x01, .pmbus 0x41 0x01, .pmbus 0x40 0x21] else [] }) ∧
      (s.power.exitFrom.isSome = true → s.power.flush = none →
        (Does (.psExit none) s fun t => t.power.exitFrom = none ∧ t.power.aonCount = 0 ∧
          t.frame.counter = (s.frame.counter + s.power.aonCount) % 2 ^ 64 ∧
          t.frame.elapsed = s.frame.elapsed + s.power.aonCount ∧ Only [.power, .frame, .mbx, .emit] s t) ∧
        (∀ rail, Does (.psExit (some rail)) s fun t => t.power.exitFrom = none ∧ t.power.boot = .held ∧
          t.power.faultKind = 6 ∧ t.power.faultRail = rail ∧ t.power.failedExits = s.power.failedExits + 1 ∧
          t.pins.fault = true ∧ t.pins.pwrEn = [false, false, false, false] ∧
          (∀ fn c, ctlOf t fn = some c → c.cfs = true) ∧ Only [.host, .power, .recd, .pins, .emit] s t)))

/-- R442 to R449, R518: the hold-up controller's answer is kept and the landing buffer's size becomes due, the third
missing one counting as no energy; an alert of it is read; PF_N stops the device and begins the flush, which one that
runs already goes on with, and where nothing is to be flushed only the pin and the cooling count change; the flush's
end has the recorder's buffer written, WP_N low, the links down and the enables low, and after a fire-door trip holds
the device. R227, R444, R508: while the landing buffer is in force, the flush writes every acknowledged unit that is
in it alone to the erased refuge groups under the next flush number, a unit whose program fails going to the next
group, and keeps what an earlier flush wrote. Completes: holdupReading, pmbAlert, pfNRecognised, powerLossFlushEnd. -/
def Obligations.PowerLossIsFlushed : Prop :=
  (∀ s : State,
     (s.power.boot = .running →
       (∀ e ok, Does (.holdupReading (some (e, ok))) s fun t => t.power.energy = e ∧ t.power.holdupOk = ok ∧
         t.power.holdupMiss = 0 ∧ t.power.lbDue = some (landingSize t) ∧ t.emit = [.pmbus 0x5C 0xD0] ∧
         Only [.power, .emit] s t) ∧
       (s.power.holdupMiss ≠ 2 → Does (.holdupReading none) s fun t => t.power.holdupMiss = s.power.holdupMiss + 1 ∧
         t.power.energy = (if s.power.holdupMiss < 2 then s.power.energy else 0) ∧ t.power.lbDue = some (landingSize t) ∧
         Only [.power, .emit] s t) ∧
       (s.power.holdupMiss = 2 → Does (.holdupReading none) s fun t => t.power.energy = 0 ∧ t.power.holdupOk = false ∧
         tabGetD t.recd.cur.events 0x15 0 = sat16 (tabGetD s.recd.cur.events 0x15 0 + 1) ∧
         t.power.lbDue = some (landingSize t) ∧ Only [.power, .recd, .emit] s t) ∧
       (∀ w, s.mgmt.running = true → exec (.pmbAlert w) s = .next { s with
         mgmt := { s.mgmt with statusWord := w % 65536 }, emit := [.pmbus 0x5C 0x79] })) ∧
     (mayFlush s = true → s.power.flush = none → Does .pfNRecognised s fun t => t.pins.pfLow = true ∧
       t.therm.cooling = false ∧
       t.power = { s.power with flush := some { p := aonNow s, fire := false, commitOnly := commitOnly s } } ∧
       tabGetD t.recd.cur.events 0x00 0 = sat16 (tabGetD s.recd.cur.events 0x00 0 + 1) ∧
       t.flash.dies.map (·.1) = s.flash.dies.map (·.1) ∧ Only [.flash, .power, .therm, .recd, .pins, .emit] s t) ∧
     ((mayFlush s = false ∨ s.power.flush.isSome = true) → exec .pfNRecognised s = .next { s with
       pins := { s.pins with pfLow := true }, therm := { s.therm with cooling := false }, emit := [] }) ∧
     (∀ f, s.power.flush = some f → Does .powerLossFlushEnd s fun t =>
       t.power.flush = none ∧ t.power.flushes = s.power.flushes + 1 ∧ t.power.flushP = f.p ∧
       t.power.lastFlush = aonNow s - f.p ∧ t.recd.closed = [] ∧ t.recd.isOpen = false ∧
       t.host.port0.link = false ∧ t.host.port1.link = false ∧ (∀ p ∈ t.flash.chans, p.2.wpHigh = false) ∧
       (f.fire = false → t.power.boot = .stopped ∧ t.pins.pwrEn = [false, false, false, false] ∧ t.mgmt.running = false) ∧
       (f.fire = true → t.pins.fault = true ∧ t.power.boot = (if twoBroken s then .permanent else .fireHold) ∧
         t.mgmt.running = twoBroken s))) ∧
  (∀ (s : State) (f : Flush), s.power.flush = some f → landingLive s = true → s.media.ring = [] →
     (unwritten s).length ≤ ((s.media.groups.filter fun p => decide (p.2.st = .refuge) && decide (p.2.nextRow = 0) &&
       !((Config.refugeFails s.free).any fun b => decide (b.1 = p.1))).map fun p => p.2.areaUnits).sum →
     Does .powerLossFlushEnd s fun t => t.media.flushSeq = s.media.flushSeq + 1 ∧
       (∀ e ∈ s.media.landing, e.writer = none → e.committed = false →
         ∃ u ∈ t.media.refuge, u.entry.order = e.order ∧ u.entry.unit = e.unit ∧ u.entry.nsx = e.nsx ∧
           u.seq = s.media.flushSeq + 1 ∧ ∃ g ∈ s.media.groups, g.1 = u.eg ∧ g.2.st = .refuge ∧ g.2.nextRow = 0) ∧
       (∀ u ∈ s.media.refuge, u ∈ t.media.refuge))

/-- R367, R525, R533: an instruction the debug setting allows enters the chain, IDCODE capturing the device's code;
one that it does not allow leaves the chain as it is; console input is taken while BALLS and DEBUG allow it.
Completes: jtagInstruction, consoleInput. -/
def Obligations.TestAccessAndConsole : Prop :=
  ∀ (s : State) (ir : JtagIr),
    (jtagAllowed s ir = true → Does (.jtagInstruction false ir) s fun t => t.pins = { s.pins with jtag := ir } ∧
      (ir = .idcode → t.emit = [.jtag 0x296401E3]) ∧ Only [.pins, .emit, .free] s t) ∧
    (jtagAllowed s ir = false → exec (.jtagInstruction false ir) s = .next { s with emit := [] }) ∧
    (bitOf s.fw.cfg.balls 1 = true → s.prot.enables.chain2 = true → Does (.jtagInstruction true ir) s fun t =>
      t.pins = { s.pins with jtag2 := ir } ∧ Only [.pins, .emit, .free] s t) ∧
    ((bitOf s.fw.cfg.balls 1 = false ∨ s.prot.enables.chain2 = false) →
      exec (.jtagInstruction true ir) s = .next { s with emit := [] }) ∧
    (∀ c, bitOf s.fw.cfg.balls 1 = false → s.prot.enables.console = true → exec (.consoleInput c) s = .next { s with
      pins := { s.pins with console := s.pins.console ++ [c] }, emit := [] }) ∧
    (s.prot.enables = { jtag := false, chain2 := false, console := false } → heldInReset s = false →
      jtagAllowed s .bypass = true ∧ jtagAllowed s .idcode = true ∧ jtagAllowed s .extest = false)

/-- R98 to R102: a tail doorbell write within the queue makes its entries available, each with the frame of the write;
a head doorbell write frees entries of a completion queue; a fetched command enters the tag table with the next
number, its generation and the head moved on, one whose tokens are short waits, and one whose CID is in flight fails;
an aggregation time that runs out interrupts the vector once. Completes: submissionDoorbellWrite,
completionDoorbellWrite, commandFetch, aggregationTimeExpiry. -/
def Obligations.DoorbellsAndFetch : Prop :=
  ∀ (s : State) (fn : Nat) (c : Ctl), ctlOf s fn = some c → c.en = true →
    (∀ sq q tail, tabGet c.sqs sq = some q → tail < q.size → s.power.entry = none → s.power.ps < 3 →
      Does (.submissionDoorbellWrite fn sq tail) s fun t => (∃ c', ctlOf t fn = some c' ∧
        tabGet c'.sqs sq = some { q with
          tail := tail, bells := q.bells ++ List.replicate ((tail + q.size - q.tail) % q.size) s.frame.elapsed } ∧
        ∀ k, k ≠ sq → tabGet c'.sqs k = tabGet c.sqs k) ∧ t.host.items = s.host.items ∧ Only [.host, .emit] s t) ∧
    (∀ cq q head, tabGet c.cqs cq = some q → q.waiting = [] → head < q.size →
      (head + q.size - q.head) % q.size ≤ q.entries.length → Does (.completionDoorbellWrite fn cq head) s fun t =>
        (∃ c', ctlOf t fn = some c' ∧ tabGet c'.cqs cq = some { q with
          head := head, entries := q.entries.drop ((head + q.size - q.head) % q.size) } ∧
          ∀ k, k ≠ cq → tabGet c'.cqs k = tabGet c.cqs k) ∧ t.host.items = s.host.items ∧ Only [.host, .emit] s t) ∧
    (∀ sq q bell bells e x, tabGet c.sqs sq = some q → q.bells = bell :: bells → fetchOpen s = true → c.rdy = true →
      c.fetchPaused = false → c.closing = false → silentLeft s fn = false → fnTurn s fn = true → sqTurn s fn c sq = true →
      (sq = 0 ∧ x = { s with emit := [] }) ∨
        (sq ≠ 0 ∧ adminDue c = false ∧ shardRuns s fn sq = true ∧ takeTokens fn e { s with emit := [] } = some x) →
      (findItem x { fn := fn, sq := sq, cid := e.cid.toNat } = none → Does (.commandFetch fn sq e) s fun t =>
        t.host.items = x.host.items ++ [newItem x c fn sq bell e] ∧ t.host.nextSeq = x.host.nextSeq + 1 ∧
        (newItem x c fn sq bell e).gen = genOf s fn ∧ (newItem x c fn sq bell e).sqe = e ∧
        (∃ c', ctlOf t fn = some c' ∧
          tabGet c'.sqs sq = some { q with head := (q.head + 1) % q.size, bells := bells }) ∧
        Only [.host, .inst, .emit] s t) ∧
      (findItem x { fn := fn, sq := sq, cid := e.cid.toNat } ≠ none → (∀ k ∈ x.host.items, k.seq ≠ x.host.nextSeq) →
        Does (.commandFetch fn sq e) s fun t => Completes s t (newItem x c fn sq bell e) stCidConflict 0 0)) ∧
    (∀ sq q e, tabGet c.sqs sq = some q → q.bells ≠ [] → fetchOpen s = true → c.rdy = true → c.fetchPaused = false →
      c.closing = false → silentLeft s fn = false → fnTurn s fn = true → sqTurn s fn c sq = true → sq ≠ 0 →
      adminDue c = false → shardRuns s fn sq = true → takeTokens fn e { s with emit := [] } = none →
      exec (.commandFetch fn sq e) s = .next (noteWait fn { s with emit := [] })) ∧
    (∀ v, (vecOf c v).pend ≠ 0 → (vecOf c v).since + 50 * c.feats.coalTime < s.frame.elapsed →
      Does (.aggregationTimeExpiry fn v) s fun t => t.emit = [.msix fn v] ∧
        (∃ c', ctlOf t fn = some c' ∧ (vecOf c' v).pend = 0 ∧ c'.cqs = c.cqs) ∧ Only [.host, .emit] s t)

/-- R94, R123, R329, R347: a controller reset disables the controller and drops its queues, the commands already
started finishing without a completion; CC.EN makes it ready with the admin queue pair of AQA; a function-level reset
of an instance that can be reached is received for the next boundary; one of a PF, and a reset of its link, hide its
VFs; VF Enable and a link that trains change the port alone. Completes: controllerReset, functionLevelReset,
portLinkReset, vfEnableChange, pcieLinkUp, controllerEnable. -/
def Obligations.ControllersAndPortsAreReset : Prop :=
  ∀ s : State,
    (s.power.boot = .running →
      (∀ fn c, ctlOf s fn = some c → Does (.controllerReset fn) s fun t =>
        (∃ c', ctlOf t fn = some c' ∧ c'.en = false ∧ c'.rdy = false ∧ c'.sqs = [] ∧ c'.cqs = [] ∧ c'.aers = [] ∧
          c'.feats = featsDefault s (lifeDefault s fn) ∧ c'.errCount = c.errCount ∧ c'.cap = c.cap ∧ c'.qpairs = c.qpairs) ∧
        (∀ it ∈ t.host.items, it.id.fn = fn → it.silent = true ∧ it.running = true) ∧
        (∀ it ∈ s.host.items, it.id.fn ≠ fn → it ∈ t.host.items)) ∧
      (∀ fn i, fn < 2048 → visible s fn = true → instAt s fn = some i → i.st ≠ .creating → s.power.entry = none →
        s.power.ps < 3 → Does (.functionLevelReset fn) s fun t =>
          instAt t fn = some { i with resetDue := some (i.resetDue.getD s.frame.elapsed), flr := true } ∧
          Only [.inst, .emit] s t) ∧
      (∀ fn, fn < 2048 → visible s fn = false → s.power.entry = none → s.power.ps < 3 →
        exec (.functionLevelReset fn) s = .next { s with emit := [] }) ∧
      (∀ p c, ctlOf s (Pf.fn p) = some c → Does (.functionLevelReset (Pf.fn p)) s fun t =>
        (portRec t (portOf s (Pf.fn p))).vfEnable = false ∧ (portRec t (portOf s (Pf.fn p))).numVfs = 0 ∧
        (portRec t (portOf s (Pf.fn p))).link = (portRec s (portOf s (Pf.fn p))).link ∧
        ∃ c', ctlOf t (Pf.fn p) = some c' ∧ c'.en = false ∧ c'.sqs = []) ∧
      (∀ p perst c, ctlOf s (Pf.fn p) = some c → Does (.portLinkReset p perst) s fun t =>
        (portRec t (portOf s (Pf.fn p))).link = false ∧ (portRec t (portOf s (Pf.fn p))).vfEnable = false ∧
        ∃ c', ctlOf t (Pf.fn p) = some c' ∧ c'.en = false ∧ c'.sqs = []) ∧
      (∀ p enable n, Does (.vfEnableChange p enable n) s fun t =>
        (portRec t (portOf s (Pf.fn p))).vfEnable = enable ∧
        (portRec t (portOf s (Pf.fn p))).numVfs = min n (portRec s (portOf s (Pf.fn p))).totalVfs ∧
        (∀ k ∈ shown s p, k ∉ shown t p → ∀ i, instAt s k = some i → i.st ≠ .creating →
          ∃ i', instAt t k = some i' ∧ i'.flr = true ∧ i'.resetDue.isSome = true) ∧
        t.host.ctls = s.host.ctls ∧ Only [.host, .inst, .emit] s t) ∧
      (∀ p, Does (.pcieLinkUp p) s fun t => (portRec t (portOf s (Pf.fn p))).link = true ∧
        t.host.ctls = s.host.ctls ∧ Only [.host, .emit] s t)) ∧
    (∀ p, s.power.boot = .held → Does (.portLinkReset p true) s fun t => t.power.boot = .crystal ∧ t.power.attempts = 0 ∧
      (portRec t (portOf s (Pf.fn p))).link = false ∧ Only [.host, .power, .emit] s t) ∧
    (∀ fn c cc aqa, ctlOf s fn = some c → hallRuns s = true → visible s fn = true → c.en = false → cc.getLsbD 0 = true →
      Does (.controllerEnable fn cc aqa) s fun t => (∃ c', ctlOf t fn = some c' ∧ c'.en = true ∧ c'.rdy = true ∧
        (∃ q, tabGet c'.sqs 0 = some q ∧ q.size = aqa.toNat % 2 ^ 12 + 1 ∧ q.head = 0 ∧ q.tail = 0 ∧ q.bells = []) ∧
        (∃ q, tabGet c'.cqs 0 = some q ∧ q.size = aqa.toNat / 2 ^ 16 % 2 ^ 12 + 1 ∧ q.entries = [] ∧ q.waiting = []) ∧
        c'.feats = c.feats) ∧ Only [.host, .emit] s t)

/-- R97, R103: a completion queue is created with its size and vector, a submission queue with its completion queue in
a shard whose core runs, and each is deleted again, a submission queue with commands in flight once they have
completed; the command completes successfully. Completes: createIoCompletionQueue, createIoSubmissionQueue,
deleteIoSubmissionQueue, deleteIoCompletionQueue. -/
def Obligations.IoQueuesAreCreatedAndDeleted : Prop :=
  ∀ (s : State) (id : CmdId) (it : Item) (c : Ctl), ctlOf s id.fn = some c →
    (AdminRuns s id 0x05 .all it → dw it.sqe.cdw10 15 0 ≠ 0 → dw it.sqe.cdw10 15 0 ≤ c.qpairs →
      tabGet c.cqs (dw it.sqe.cdw10 15 0) = none → dw it.sqe.cdw10 31 16 ≠ 0 → dw it.sqe.cdw11 0 0 = 1 →
      dw it.sqe.cdw11 31 16 < c.msix → cqOf c 0 = 0 → Does (.createIoCompletionQueue id) s fun t => Completes s t it stOk 0 0 ∧
        ∃ c', ctlOf t id.fn = some c' ∧ c'.sqs.map (·.1) = c.sqs.map (·.1) ∧
          tabGet c'.cqs (dw it.sqe.cdw10 15 0) = some
            { size := dw it.sqe.cdw10 31 16 + 1, head := 0, tail := 0, vector := dw it.sqe.cdw11 31 16,
              ien := decide (dw it.sqe.cdw11 1 1 = 1), entries := [], waiting := [] }) ∧
    (AdminRuns s id 0x01 .all it → dw it.sqe.cdw10 15 0 ≠ 0 → dw it.sqe.cdw10 15 0 ≤ c.qpairs →
      tabGet c.sqs (dw it.sqe.cdw10 15 0) = none → dw it.sqe.cdw10 31 16 ≠ 0 → dw it.sqe.cdw11 0 0 = 1 →
      dw it.sqe.cdw11 31 16 ≠ 0 → tabGet c.cqs (dw it.sqe.cdw11 31 16) ≠ none →
      Does (.createIoSubmissionQueue id) s fun t => Completes s t it stOk 0 0 ∧
        ∃ c' q, ctlOf t id.fn = some c' ∧ tabGet c'.sqs (dw it.sqe.cdw10 15 0) = some q ∧
          q.size = dw it.sqe.cdw10 31 16 + 1 ∧ q.cq = dw it.sqe.cdw11 31 16 ∧ q.head = 0 ∧ q.tail = 0 ∧ q.bells = [] ∧
          q.shard = leastLoaded s ∧ coreRunning s q.shard = true) ∧
    (∀ q, AdminRuns s id 0x00 .all it → dw it.sqe.cdw10 15 0 ≠ 0 → tabGet c.sqs (dw it.sqe.cdw10 15 0) = some q →
      fetchedFrom s it.id.fn (dw it.sqe.cdw10 15 0) = false → Does (.deleteIoSubmissionQueue id) s fun t =>
        Completes s t it stOk 0 0 ∧
        ∃ c', ctlOf t id.fn = some c' ∧ tabGet c'.sqs (dw it.sqe.cdw10 15 0) = none) ∧
    (∀ q, AdminRuns s id 0x00 .all it → dw it.sqe.cdw10 15 0 ≠ 0 → tabGet c.sqs (dw it.sqe.cdw10 15 0) = some q →
      fetchedFrom s it.id.fn (dw it.sqe.cdw10 15 0) = true → Does (.deleteIoSubmissionQueue id) s fun t =>
        t.host.items = s.host.items ∧
        ∃ c', ctlOf t id.fn = some c' ∧ tabGet c'.sqs (dw it.sqe.cdw10 15 0) = some { q with bells := [] }) ∧
    (AdminRuns s id 0x04 .all it → dw it.sqe.cdw10 15 0 ≠ 0 → tabGet c.cqs (dw it.sqe.cdw10 15 0) ≠ none →
      (∀ p ∈ c.sqs, p.2.cq ≠ dw it.sqe.cdw10 15 0) → Does (.deleteIoCompletionQueue id) s fun t =>
        Completes s t it stOk 0 0 ∧
        ∃ c', ctlOf t id.fn = some c' ∧ tabGet c'.cqs (dw it.sqe.cdw10 15 0) = none)

/-- R96, R99, R107, R118, R425, R426: each Set Features sets its feature on its own function and completes
successfully; a power state other than the one in force becomes due at the next boundary. Completes:
setFeaturesArbitration, setFeaturesTemperatureThreshold, setFeaturesErrorRecovery, setFeaturesNumberOfQueues,
setFeaturesInterruptCoalescing, setFeaturesInterruptVectorConfig, setFeaturesWriteAtomicity,
setFeaturesAsyncEventConfig, setFeaturesTimestamp, setFeaturesLifetimeLimit, setFeaturesPowerManagement,
setFeaturesApst. -/
def Obligations.FeaturesAreSet : Prop :=
  ∀ (s : State) (id : CmdId) (it : Item),
    (SetsFeature s id 0x01 false it → Does (.setFeaturesArbitration id) s fun t =>
      FeatureSet s t it fun f => { f with burst := dw it.sqe.cdw11 2 0 }) ∧
    (SetsFeature s id 0x04 false it → dw it.sqe.cdw11 19 16 = 0 ∨ dw it.sqe.cdw11 19 16 = 15 →
      dw it.sqe.cdw11 21 20 ≤ 1 → Does (.setFeaturesTemperatureThreshold id) s fun t =>
        FeatureSet s t it fun f => if dw it.sqe.cdw11 21 20 = 0 then { f with tempOver := dw it.sqe.cdw11 15 0 }
          else { f with tempUnder := dw it.sqe.cdw11 15 0 }) ∧
    (SetsFeature s id 0x05 false it → Does (.setFeaturesErrorRecovery id) s fun t =>
      FeatureSet s t it fun f => { f with dulbe := decide (dw it.sqe.cdw11 16 16 = 1) }) ∧
    (∀ c, SetsFeature s id 0x07 false it → ctlOf s it.id.fn = some c → Does (.setFeaturesNumberOfQueues id) s fun t =>
      Completes s t it stOk (queueCount c) 0) ∧
    (SetsFeature s id 0x08 false it → Does (.setFeaturesInterruptCoalescing id) s fun t =>
      FeatureSet s t it fun f => { f with coalThr := dw it.sqe.cdw11 7 0, coalTime := dw it.sqe.cdw11 15 8 }) ∧
    (∀ c, SetsFeature s id 0x09 false it → ctlOf s it.id.fn = some c → dw it.sqe.cdw11 15 0 < c.msix →
      Does (.setFeaturesInterruptVectorConfig id) s fun t => Completes s t it stOk 0 0 ∧
        ∃ c', ctlOf t it.id.fn = some c' ∧
          (vecOf c' (dw it.sqe.cdw11 15 0)).cd = decide (dw it.sqe.cdw11 16 16 = 1)) ∧
    (SetsFeature s id 0x0A false it → Does (.setFeaturesWriteAtomicity id) s fun t =>
      FeatureSet s t it fun f => { f with atomicDn := decide (dw it.sqe.cdw11 0 0 = 1) }) ∧
    (SetsFeature s id 0x0B false it → Does (.setFeaturesAsyncEventConfig id) s fun t =>
      FeatureSet s t it fun f => { f with aec := it.sqe.cdw11 }) ∧
    (∀ dma : Dma, SetsFeature s id 0x0E false it → dma.linkFails = false → Does (.setFeaturesTimestamp id dma) s fun t =>
      FeatureSet s t it fun f => { f with ts := some (fieldAt dma.bytes 0 6), tsFrame := s.frame.elapsed }) ∧
    (SetsFeature s id 0xC4 false it → 16 ≤ it.sqe.cdw11.toNat → it.sqe.cdw11.toNat ≤ 26 →
      Does (.setFeaturesLifetimeLimit id) s fun t => FeatureSet s t it fun f => { f with lifeE := it.sqe.cdw11.toNat }) ∧
    (SetsFeature s id 0x02 true it → dw it.sqe.cdw11 4 0 ≤ 4 → s.power.psDue = [] → s.power.entry = none →
      (dw it.sqe.cdw11 4 0 = s.power.ps → Does (.setFeaturesPowerManagement id) s fun t =>
        Completes s t it stOk 0 0 ∧ t.power = s.power) ∧
      (dw it.sqe.cdw11 4 0 ≠ s.power.ps → exec (.setFeaturesPowerManagement id) s = .next { admitted s it with
        power := { s.power with psDue := [(dw it.sqe.cdw11 4 0, it.seq)] } })) ∧
    (∀ dma : Dma, SetsFeature s id 0x0C true it → dma.linkFails = false →
      (∀ i < 32, apstOk i (apstEntry dma.bytes i) = true) → Does (.setFeaturesApst id dma) s fun t =>
        Completes s t it stOk 0 0 ∧ t.power.apste = decide (dw it.sqe.cdw11 0 0 = 1) ∧ t.power.idleFrom = none ∧
        (∀ i < 32, apstEntry dma.bytes i ≠ { itps := 0, itpt := 0 } →
          tabGet t.power.apst i = some (apstEntry dma.bytes i)))

/-- R103, R107, R152: Identify, Get Log Page, Get Features, Directive Receive, Security Receive and NVMe-MI Receive
return their data and complete successfully, the log clearing its event unless RAE keeps it; Directive Send, Security
Send and NVMe-MI Send complete with their effect; an opcode the function does not support completes with Invalid
Command Opcode, and an action that the device lacks with Invalid Field. Completes: identify, getLogPage, getFeatures,
directiveSend, directiveReceive, securitySend, securityReceive, nvmeMiSend, nvmeMiReceive, unsupportedOpcode. -/
def Obligations.AdminCommandsAnswerWithData : Prop :=
  ∀ (s : State) (id : CmdId) (it : Item),
    (∀ b, AdminRuns s id 0x06 .all it → identifyData (admitted s it) it.id.fn (dw it.sqe.cdw10 7 0)
        (dw it.sqe.cdw11 31 24) it.sqe.nsid.toNat (guardOfFn s it.id.fn) = .inr b → Does (.identify id) s fun t =>
      Completes s t it stOk 0 0 ∧ .nvmeData it.id.fn b ∈ t.emit) ∧
    (∀ c b, AdminRuns s id 0x02 .all it → ctlOf s it.id.fn = some c →
      logData (admitted s it) it.id.fn (dw it.sqe.cdw10 7 0) (dw it.sqe.cdw11 31 16) c = .inr b →
      (it.sqe.cdw12.toNat + 2 ^ 32 * it.sqe.cdw13.toNat) % 4 = 0 →
      it.sqe.cdw12.toNat + 2 ^ 32 * it.sqe.cdw13.toNat ≤ b.length →
      4 * (dw it.sqe.cdw10 31 16 + 65536 * dw it.sqe.cdw11 15 0 + 1) ≤ 2097152 →
      c.aers = [] → Does (.getLogPage id) s fun t => Completes s t it stOk 0 0 ∧
        (∃ l, .nvmeData it.id.fn l ∈ t.emit ∧ l.length = 4 * (dw it.sqe.cdw10 31 16 + 65536 * dw it.sqe.cdw11 15 0 + 1) ∧
          (b.drop (it.sqe.cdw12.toNat + 2 ^ 32 * it.sqe.cdw13.toNat)).take l.length <+: l) ∧
        ∃ c', ctlOf t it.id.fn = some c' ∧ c'.masked =
          if dw it.sqe.cdw10 15 15 = 0 then c.masked.filter fun k => !(logEvents (dw it.sqe.cdw10 7 0)).contains k else c.masked) ∧
    (∀ c, AdminRuns s id 0x0A .all it → ctlOf s it.id.fn = some c → fids.contains (fidOf it) = true →
      (fidOf it = 0x02 → isManager s it.id.fn = true ∨ it.id.fn < 2048) →
      (fidOf it = 0x0C → isManager s it.id.fn = true) → (fidOf it = 0x09 → dw it.sqe.cdw11 15 0 < c.msix) →
      (dw it.sqe.cdw10 10 8 = 0 → Does (.getFeatures id) s fun t =>
        Completes s t it stOk (wordOf (featureWord s c c.feats it (fidOf it) true)) 0 ∧
        (fidOf it = 0x0E → .nvmeData it.id.fn (timestampBytes s c.feats) ∈ t.emit) ∧
        (fidOf it = 0x0C → .nvmeData it.id.fn (apstBytes s) ∈ t.emit)) ∧
      (dw it.sqe.cdw10 10 8 = 1 ∨ dw it.sqe.cdw10 10 8 = 2 → fidOf it ≠ 0x02 → fidOf it ≠ 0x0C →
        Does (.getFeatures id) s fun t =>
          Completes s t it stOk (wordOf (featureWord s c (featsDefault s 22) it (fidOf it) false)) 0) ∧
      (dw it.sqe.cdw10 10 8 = 3 → Does (.getFeatures id) s fun t => Completes s t it stOk 4 0)) ∧
    ((nsOf s it.id.fn it.sqe.nsid.toNat).isSome = true ∨ it.sqe.nsid.toNat = 0xFFFFFFFF →
      (AdminRuns s id 0x19 .all it → dw it.sqe.cdw11 15 8 = 0 → dw it.sqe.cdw11 7 0 = 1 → dw it.sqe.cdw12 15 8 = 1 →
        dw it.sqe.cdw12 0 0 = 1 → Does (.directiveSend id) s fun t => Completes s t it stOk 0 0) ∧
      (AdminRuns s id 0x19 .all it → dw it.sqe.cdw11 15 8 = 1 → dw it.sqe.cdw11 7 0 = 1 ∨ dw it.sqe.cdw11 7 0 = 2 →
        Does (.directiveSend id) s fun t => Completes s t it stOk 0 0) ∧
      (AdminRuns s id 0x1A .all it → dw it.sqe.cdw11 15 8 = 1 → dw it.sqe.cdw11 7 0 = 1 →
        Does (.directiveReceive id) s fun t => Completes s t it stOk 0 0 ∧ .nvmeData it.id.fn streamsParams ∈ t.emit) ∧
      (AdminRuns s id 0x1A .all it → dw it.sqe.cdw11 15 8 = 1 → dw it.sqe.cdw11 7 0 = 2 →
        Does (.directiveReceive id) s fun t => Completes s t it stOk 0 0 ∧ .nvmeData it.id.fn (le 0 2) ∈ t.emit) ∧
      (AdminRuns s id 0x1A .all it → dw it.sqe.cdw11 15 8 = 1 → dw it.sqe.cdw11 7 0 = 3 →
        Does (.directiveReceive id) s fun t => Completes s t it stOk (wordOf (dw it.sqe.cdw12 15 0)) 0) ∧
      (AdminRuns s id 0x1A .all it → dw it.sqe.cdw11 15 8 = 0 → dw it.sqe.cdw11 7 0 = 1 →
        Does (.directiveReceive id) s fun t => Completes s t it stOk 0 0 ∧ .nvmeData it.id.fn directiveIdentify ∈ t.emit)) ∧
    (AdminRuns s id 0x81 .all it → protocolOf it = 0 → Does (.securitySend id) s fun t => Completes s t it stOk 0 0) ∧
    (AdminRuns s id 0x82 .all it → protocolOf it = 0 → dw it.sqe.cdw10 23 8 = 0 → Does (.securityReceive id) s fun t =>
      Completes s t it stOk 0 0 ∧ .nvmeData it.id.fn ((zeros 6 ++ [0, 1, 0]).take it.sqe.cdw11.toNat) ∈ t.emit) ∧
    (s.mgmt.running = true →
      (∀ (dma : Dma) m, AdminRuns s id 0x1D .pf it → dma.linkFails = false → dw it.sqe.cdw11 7 0 = 0x03 →
        miConfigSet it.sqe.cdw12.toNat it.sqe.cdw13.toNat s.mgmt = some m → Does (.nvmeMiSend id dma) s fun t =>
          Completes s t it stOk 0 0 ∧ t.mgmt = m) ∧
      (∀ st resp b x, AdminRuns s id 0x1E .pf it → dw it.sqe.cdw11 7 0 ≠ 0x03 →
        miCommand (dw it.sqe.cdw11 7 0) it.sqe.cdw12.toNat it.sqe.cdw13.toNat (admitted s it) = ((st, resp, b), x) →
        Does (.nvmeMiReceive id) s fun t => Completes s t it stOk (miDw0 st resp) 0 ∧ t.mgmt = x.mgmt ∧
          (b ≠ [] → .nvmeData it.id.fn b ∈ t.emit))) ∧
    (findItem s id = some it → itemBySeq s it.seq = some it → it.outcome = none → it.silent = false → it.held = false →
      it.phase = .fetched → inTurn s it = true →
      ((id.sq = 0 ∧ adminOpen s = true ∧ adminOpcodes.contains it.opc = false) ∨
        (id.sq ≠ 0 ∧ hallRuns s = true ∧ shardRuns s id.fn id.sq = true ∧
          ∃ x n, nsOf s id.fn it.sqe.nsid.toNat = some (x, n) ∧ ioAccepts n.zoned it.opc = false) →
        Does (.unsupportedOpcode id) s fun t => Completes s t it stInvalidOpcode 0 0) ∧
      ((id.sq = 0 ∧ adminOpen s = true ∧ adminOpcodes.contains it.opc = true ∧ badAction it = true ∧
          accessFault s id.fn (if it.opc = 0x09 then .all else .manager) = none) ∨
        (id.sq ≠ 0 ∧ hallRuns s = true ∧ shardRuns s id.fn id.sq = true ∧ badZoneAction it.sqe = true ∧
          ∃ x n, nsOf s id.fn it.sqe.nsid.toNat = some (x, n) ∧ ioAccepts n.zoned it.opc = true) →
        Does (.unsupportedOpcode id) s fun t => Completes s t it stInvalidField 0 0))

/-- R95, R122: an Asynchronous Event Request waits in the tag table for an event; an Abort whose command is not found
or cannot be aborted completes with bit 0 of DW0 set, and one of a command not yet started latches Command Abort
Requested and completes with the bit clear. Completes: asynchronousEventRequest, abort. -/
def Obligations.AbortAndEventRequests : Prop :=
  ∀ (s : State) (id : CmdId) (it : Item),
    (∀ c, AdminRuns s id 0x0C .all it → ctlOf s it.id.fn = some c → c.aers.length < 16 → it.id.cid ∉ c.aers → c.events = [] →
      Does (.asynchronousEventRequest id) s fun t =>
        (∃ c', ctlOf t it.id.fn = some c' ∧ c'.aers = c.aers ++ [it.id.cid] ∧ c'.cqs = c.cqs) ∧
        itemBySeq t it.seq = some { it with phase := .waiting } ∧ Only [.host, .emit] s t) ∧
    (AdminRuns s id 0x08 .all it → it.ranges = [] →
      (s.host.items.filter fun k => decide (k.id.fn = it.id.fn) && !k.io && decide (k.opc = 0x08) &&
        decide (k.seq < it.seq)).length < 8 →
      (∀ k, findItem s { fn := it.id.fn, sq := dw it.sqe.cdw10 15 0, cid := dw it.sqe.cdw10 31 16 } = some k →
        notAbortable k = true) → Does (.abort id) s fun t => Completes s t it stOk 1 0) ∧
    (∀ k, AdminRuns s id 0x08 .all it → it.ranges = [] →
      (s.host.items.filter fun k => decide (k.id.fn = it.id.fn) && !k.io && decide (k.opc = 0x08) &&
        decide (k.seq < it.seq)).length < 8 →
      findItem s { fn := it.id.fn, sq := dw it.sqe.cdw10 15 0, cid := dw it.sqe.cdw10 31 16 } = some k →
      itemBySeq s k.seq = some k → notAbortable k = false → k.running = false → k.silent = false →
      (∀ c, ctlOf s it.id.fn = some c → cqOf c k.id.sq ≠ cqOf c 0) → Does (.abort id) s fun t =>
        Completes s t k stAbortRequested 0 0 ∧ ∀ x ∈ t.host.items, x.seq ≠ it.seq)

/-- R103, R126 to R131: Namespace Management creates a namespace of the manager with the parameters of its data
structure and a free NSID, which it returns, and deletes one, or all of the PFs'; Namespace Attachment attaches and
detaches. Completes: namespaceManagement, namespaceAttachment. -/
def Obligations.NamespacesAreManaged : Prop :=
  ∀ (s : State) (id : CmdId) (it : Item) (dma : Dma), dma.linkFails = false →
    (∀ nsid, AdminRuns s id 0x0D .manager it → it.phase ≠ .started → s.media.journalReadOnly = false →
      dw it.sqe.cdw10 3 0 = 0 → byteAt (padTo 4096 dma.bytes) 3074 ≤ 1 →
      (rsvdBytes (padTo 4096 dma.bytes) 3075 13).any (·.2) = false → (mgmtReq it (padTo 4096 dma.bytes)).pit ≤ 3 →
      (mgmtReq it (padTo 4096 dma.bytes)).lbaf ≤ 4 →
      ((mgmtReq it (padTo 4096 dma.bytes)).zoned = true → (mgmtReq it (padTo 4096 dma.bytes)).lbaf ≤ 2) →
      (mgmtReq it (padTo 4096 dma.bytes)).fieldsOk = true →
      (lbaMeta (mgmtReq it (padTo 4096 dma.bytes)).lbaf = 0 → (mgmtReq it (padTo 4096 dma.bytes)).pit = 0) →
      s.prot.trngOk = true → slotChanges s it.id.fn = false → freeNsid s it.id.fn = some nsid →
      nsShort (admitted s it) [mgmtReq it (padTo 4096 dma.bytes)] = none → Does (.namespaceManagement id dma) s fun t =>
        Completes s t it stOk (wordOf nsid) 0 ∧
        ∃ x n, nsAt t x = some n ∧ n.owner = it.id.fn ∧ n.nsid = nsid ∧ n.attached = false ∧
          n.lbaf = (mgmtReq it (padTo 4096 dma.bytes)).lbaf ∧ n.nsze = (mgmtReq it (padTo 4096 dma.bytes)).nsze ∧
          n.zoned = (mgmtReq it (padTo 4096 dma.bytes)).zoned) ∧
    (∀ x n, AdminRuns s id 0x0D .manager it → it.phase ≠ .started → s.media.journalReadOnly = false →
      dw it.sqe.cdw10 3 0 = 1 → it.sqe.nsid.toNat ≠ 0xFFFFFFFF → nsPf s it.id.fn it.sqe.nsid.toNat = some (x, n) →
      n.fmt = none → Does (.namespaceManagement id dma) s fun t => nsAt t x = none ∧
        (∃ r ∈ t.media.ring, it.seq ∈ r.items) ∧
        ∀ y, y ≠ x → (nsAt t y).map (·.nsid) = (nsAt s y).map (·.nsid)) ∧
    (AdminRuns s id 0x0D .manager it → it.phase ≠ .started → s.media.journalReadOnly = false →
      dw it.sqe.cdw10 3 0 = 1 → it.sqe.nsid.toNat = 0xFFFFFFFF → (∀ p ∈ s.zone.nss, 2048 ≤ p.2.owner → p.2.fmt = none) →
      ((∀ p ∈ s.zone.nss, p.2.owner < 2048) → Does (.namespaceManagement id dma) s fun t => Completes s t it stOk 0 0) ∧
      ((∃ p ∈ s.zone.nss, 2048 ≤ p.2.owner) → Does (.namespaceManagement id dma) s fun t =>
        (∀ p ∈ s.zone.nss, 2048 ≤ p.2.owner → nsAt t p.1 = none) ∧ ∃ r ∈ t.media.ring, it.seq ∈ r.items)) ∧
    (∀ x n, AdminRuns s id 0x15 .manager it → nsPf s it.id.fn it.sqe.nsid.toNat = some (x, n) → tabGet s.zone.nss x = some n →
      ctrlList (padTo 4096 dma.bytes) = [cntlid n.owner] → (∀ c, ctlOf s n.owner = some c → c.aers = []) →
      (dw it.sqe.cdw10 3 0 = 0 → n.attached = false → Does (.namespaceAttachment id dma) s fun t =>
        Completes s t it stOk 0 0 ∧ nsAt t x = some { n with attached := true }) ∧
      (dw it.sqe.cdw10 3 0 = 1 → n.attached = true →
        (∀ k ∈ s.host.items, k.io = true → k.id.fn = n.owner → k.sqe.nsid.toNat ≠ n.nsid) →
        Does (.namespaceAttachment id dma) s fun t =>
          Completes s t it stOk 0 0 ∧ nsAt t x = some { n with attached := false }))

/-- R103, R104, R158 to R161: Format NVM marks the namespace, to be erased once earlier commands have ended, and at
its end the format it set is in force and its command gone; Sanitize of either kind is accepted and waits, and ends
idle or in the failure state, which Exit Failure Mode releases. Completes: formatNvm, formatDone, sanitizeBlockErase,
sanitizeCryptoErase, sanitizeExitFailureMode, sanitizeDone. -/
def Obligations.FormatAndSanitize : Prop :=
  ∀ (s : State) (id : CmdId) (it : Item),
    (∀ x n k, AdminRuns s id 0x80 .all it → nsOf s it.id.fn it.sqe.nsid.toNat = some (x, n) → tabGet s.zone.nss x = some n →
      n.fmt = none → dw it.sqe.cdw10 3 0 ≤ 4 → (n.zoned = true → dw it.sqe.cdw10 3 0 ≤ 2) → dw it.sqe.cdw10 7 5 ≤ 3 →
      (lbaMeta (dw it.sqe.cdw10 3 0) = 0 → dw it.sqe.cdw10 7 5 = 0) → eraseKindOf (dw it.sqe.cdw10 11 9) = some k →
      (k = .crypto → s.prot.trngOk = true) → Does (.formatNvm id) s fun t =>
        (∃ p, nsAt t x = some { n with fmt := some p } ∧ p.kind = k ∧ p.lbaf = dw it.sqe.cdw10 3 0 ∧
          p.pit = dw it.sqe.cdw10 7 5 ∧ p.started = false ∧ p.startFrame = it.fetched ∧
          p.total = wipeLeft s (decide (k = .block)) x) ∧
        itemBySeq t it.seq = some { it with phase := .started } ∧ Only [.zone, .host, .emit] s t) ∧
    (∀ x n p, nsAt s x = some n → n.fmt = some p → p.started = true → s.power.boot = .running →
      instSanitizing s n.owner = false → wipeDone s p.kind x = true → Does (.formatDone x) s fun t =>
        nsAt t x = some { n with fmt := none, lbaf := p.lbaf, pit := p.pit, ext := p.ext, pil := p.pil,
                                 nsze := n.nsze * lbaData n.lbaf / lbaData p.lbaf } ∧
        (∀ y, y ≠ x → nsAt t y = nsAt s y) ∧
        (s.power.flush = none → ∀ it ∈ s.host.items, it.io = false → it.opc = 0x80 → it.id.fn = n.owner →
          it.sqe.nsid.toNat = n.nsid → it.running = true → ∀ k ∈ t.host.items, k.seq ≠ it.seq)) ∧
    (AdminRuns s id 0x84 .manager it → (s.zone.nss.any fun p => formatRuns s p.2) = false →
      (∀ p ∈ s.inst.insts, p.2.st ≠ .sanitising) →
      (dw it.sqe.cdw10 2 0 = 2 → Does (.sanitizeBlockErase id) s fun t => Completes s t it stOk 0 0 ∧
        t.zone.san = { s.zone.san with st := .waiting, kind := .block, total := wipeLeftAll s true, startFrame := it.fetched }) ∧
      (dw it.sqe.cdw10 2 0 = 4 → s.prot.trngOk = true → Does (.sanitizeCryptoErase id) s fun t =>
        Completes s t it stOk 0 0 ∧
        t.zone.san = { s.zone.san with st := .waiting, kind := .crypto, total := wipeLeftAll s false, startFrame := it.fetched })) ∧
    (AdminRuns s id 0x84 .manager it → dw it.sqe.cdw10 2 0 = 1 → s.zone.san.st = .failed →
      Does (.sanitizeExitFailureMode id) s fun t => Completes s t it stOk 0 0 ∧
        t.zone.san = { s.zone.san with st := .idle }) ∧
    (∀ good, s.zone.san.st = .running → s.power.boot = .running →
      (good = true → ∀ p ∈ s.zone.nss, wipeDone s s.zone.san.kind p.1 = true) →
      exec (.sanitizeDone good) s = .next { s with
        zone := { s.zone with san := { s.zone.san with
          st := if good then .idle else .failed, completed := s.zone.san.completed || good } }, emit := [] })

/-- R160: a Sanitize of either kind taken while any Format runs completes with Format In Progress, and a Format taken
while a Sanitize runs completes with Sanitize In Progress; neither starts. Completes: sanitizeBlockErase,
sanitizeCryptoErase, formatNvm. -/
def Obligations.FormatAndSanitizeExcludeEachOther : Prop :=
  ∀ (s : State) (id : CmdId) (it : Item),
    (∀ c a, (c = .sanitizeBlockErase id ∧ a = 2) ∨ (c = .sanitizeCryptoErase id ∧ a = 4) → AdminRuns s id 0x84 .manager it →
      dw it.sqe.cdw10 2 0 = a → (∃ p ∈ s.zone.nss, formatRuns s p.2 = true) → Does c s fun t =>
        Completes s t it { sct := 0, sc := 0x84, dnr := false } 0 0 ∧ t.zone = s.zone) ∧
    (findItem s id = some it → itemBySeq s it.seq = some it → id.sq = 0 → it.opc = 0x80 → it.outcome = none →
      it.silent = false → adminOpen s = true → it.held = false → inTurn s it = true → accessFault s id.fn .all = none → it.sqe.fuse = 0 →
      it.sqe.psdt = 0 → sanitizing s = true → Does (.formatNvm id) s fun t =>
        Completes s t it { sct := 0, sc := 0x1D, dnr := false } 0 0 ∧ t.zone = s.zone)

/-- R27, R28, R109, R110, R148, R154: a Flush completes at once; a Read or Verify starts with one request for each of
its units; a Dataset Management completes at once without the Deallocate attribute and deallocates its ranges with it;
Report Zones returns the zones its option names, from the zone of its SLBA on. Completes: flush, read, verify,
datasetManagement, reportZones. -/
def Obligations.IoCommandsRun : Prop :=
  ∀ (s : State) (id : CmdId) (it : Item) (x : Nat) (n : Ns), barrierOpen s it = true →
    (IoRuns s id 0x00 it x n → it.sqe.nsid.toNat ≠ 0xFFFFFFFF → Does (.flush id) s fun t => Completes s t it stOk 0 0) ∧
    (findItem s id = some it → itemBySeq s it.seq = some it → id.sq ≠ 0 → it.opc = 0x00 → it.silent = false →
      ioOpen s it = true → it.sqe.fuse = 0 → sglFault it.sqe = none → it.sqe.nsid.toNat = 0xFFFFFFFF →
      blockedAll s it = none → Does (.flush id) s fun t => Completes s t it stOk 0 0) ∧
    (deallocatedRead s it x n (firstUnit n it.sqe.slba) (unitCount n it.sqe.slba it.sqe.nlb) = false →
      ∀ c, (c = .read id ∧ IoRuns s id 0x02 it x n) ∨ (c = .verify id ∧ IoRuns s id 0x0C it x n) → Does c s fun t =>
        Starts s t it .started (firstUnit n it.sqe.slba) (unitCount n it.sqe.slba it.sqe.nlb) ∧
        ∃ l, t.flash.reads = s.flash.reads ++ l ∧ l.map (·.unit) =
          List.range' (firstUnit n it.sqe.slba) (unitCount n it.sqe.slba it.sqe.nlb) ∧
          ∀ r ∈ l, r.for_ = .host it.seq ∧ r.nsx = x) ∧
    (∀ dma : Dma, IoRuns s id 0x09 it x n → n.zoned = false → dma.linkFails = false →
      ((dsmRanges dma (bits it.sqe.cdw10.toNat 7 0 + 1)).any fun r => decide (n.nsze < r.1 + r.2)) = false →
      (it.sqe.cdw11.getLsbD 2 = false → Does (.datasetManagement id dma) s fun t => Completes s t it stOk 0 0) ∧
      (it.sqe.cdw11.getLsbD 2 = true → s.media.journalReadOnly = false → Does (.datasetManagement id dma) s fun t =>
        Deallocates s t it x n ((dsmRanges dma (bits it.sqe.cdw10.toNat 7 0 + 1)).map fun r => wholeUnits n r.1 r.2))) ∧
    (IoRuns s id 0x7A it x n → n.zoned = true → bits it.sqe.cdw13.toNat 7 0 = 0 → bits it.sqe.cdw13.toNat 15 8 ≤ 7 →
      4 * (it.sqe.cdw12.toNat + 1) ≤ 2 ^ 21 → Does (.reportZones id) s fun t => Completes s t it stOk 0 0 ∧
        ∃ b, .nvmeData id.fn b ∈ t.emit ∧ b.length ≤ 4 * (it.sqe.cdw12.toNat + 1) ∧
          (it.sqe.cdw13.getLsbD 16 = false → 8 ≤ 4 * (it.sqe.cdw12.toNat + 1) →
            b.take 8 = le ((nsZones n).filter fun z => decide (zoneOfUnit n it.sqe.slba ≤ z) &&
              match zoneAt s z with
              | some r => reports (bits it.sqe.cdw13.toNat 15 8) r.st
              | none => false).length 8))

/-- R113, R141, R142, R144, R153, R154, R220, R448: a Write, a Write Zeroes and a Zone Append start as soon as nothing
holds them, and one that waited starts when what held it has ended: its turn in the zone, its namespace's reservation,
the want of landing space, a barrier. A Write Zeroes that may deallocate does. Completes: write, writeZeroes,
zoneAppend, zoneWriteStart, conventionalWriteWaitEnd, landingSpaceWaitEnd, ordBarrierRelease. -/
def Obligations.WritesStart : Prop :=
  ∀ (s : State) (id : CmdId) (it : Item) (x : Nat) (n : Ns),
    (IoRuns s id 0x01 it x n → WriteStarts (.write id) s (parsed s it) it x n) ∧
    (IoRuns s id 0x08 it x n → WriteStarts (.writeZeroes id) s (parsed s it) it x n ∧
      (n.zoned = false → it.sqe.cdw12.getLsbD 25 = true → barrierOpen (parsed s it) it = true → s.media.journalReadOnly = false →
        Does (.writeZeroes id) s fun t => Deallocates s t it x n [wholeUnits n it.sqe.slba it.sqe.nlb])) ∧
    (IoRuns s id 0x7D it x n → n.zoned = true → WriteStarts (.zoneAppend id) s (parsed s it) it x n) ∧
    (IoWaits s id it x n → isWriteOpc it.opc = true →
      (n.zoned = true → WriteStarts (.zoneWriteStart id) s { s with emit := [] } it x n) ∧
      (n.zoned = false → it.hold = .reserve → WriteStarts (.conventionalWriteWaitEnd id) s { s with emit := [] } it x n) ∧
      (it.hold = .landing → WriteStarts (.landingSpaceWaitEnd id) s { s with emit := [] } it x n) ∧
      WriteStarts (.ordBarrierRelease id) s { s with emit := [] } it x n) ∧
    (IoWaits s id it x n → isReadOpc it.opc = true → barrierOpen s it = true →
      deallocatedRead s it x n (firstUnit n it.sqe.slba) (unitCount n it.sqe.slba it.sqe.nlb) = false →
      Does (.ordBarrierRelease id) s fun t =>
        Starts s t it .started (firstUnit n it.sqe.slba) (unitCount n it.sqe.slba it.sqe.nlb))

/-- R25, R115, R117, R119, R136, R141, R145, R154, R299, R303, R548: a unit that arrives, no other command sharing its
LBAs, lands as the newest entry of the landing buffer, in the name of its command, one that the command covers in part
once its old unit has been read, which is asked for first; a write whose work is done is posted, an append with its
LBA, and moves the zone's write pointer to its end; one that ends at the zone's capacity first commits the zone's move
to Full; a data DMA that fails ends the command with Data Transfer Error, a zone write by a drain, whose end posts the
commands it marked; a lifetime that fires ends a command with Command Lifetime Expired, but for an atomic step under
way. Completes: unitLanded, writeCompletionPost, hostDmaFailure, zoneDrainEnd, commandLifetimeExpiry. -/
def Obligations.WritesLandAndComplete : Prop :=
  ∀ (s : State) (id : CmdId) (it : Item) (x : Nat) (n : Ns),
    (∀ u data pi, IoStarted s id it x n → isWriteOpc it.opc = true → it.gen = tabGetD s.inst.gens id.fn 0 → it.unit ≤ u →
      u < it.unit + it.count → u ∉ it.doneUnits → overlapped s x n u it = false →
      (it.opc = 0x7D → n.zoned = true ∧ blocksPerUnit n = 1) →
      it.opc = 0x7D ∨ (blockSpan n it.sqe u).2 = blocksPerUnit n ∨ (n.zoned = false ∧ unitBusy s x u it.seq it.start = false ∧
        ∃ old, oldUnit { s with emit := [] } it.seq x n u = .ready (some old)) →
      n.pit = 0 ∨ lbaMeta n.lbaf = 0 ∨ it.sqe.pract = true ∨ it.opc = 0x08 ∨ (∀ i < 3, it.sqe.prchk i = false) →
      Does (.unitLanded id u data pi) s fun t =>
        (∃ e, t.media.landing = s.media.landing ++ [e] ∧ e.nsx = x ∧ e.unit = u ∧ e.writer = some it.seq ∧
          e.order = s.media.nextOrder ∧ e.lc = handleLc it.sqe.handle ∧ e.pins = 0 ∧ e.bound = none ∧
          e.earlier = (if n.zoned then none else pmAt s x u) ∧ hdrMatches n x u e.stored.hdr = decide
            (n.owner < 2 ^ 16 ∧ x < 2 ^ 16 ∧ unitLba n u < 2 ^ 64) ∧
          innerCheck e.stored.data e.stored.meta_ e.stored.hdr = e.stored.check) ∧
        (n.zoned = false → pmAt t x u = some (.landing s.media.nextOrder)) ∧
        itemBySeq t it.seq = some { it with
          doneUnits := u :: it.doneUnits
          phase := if it.doneUnits.length + 1 = it.count then .done else .started } ∧ t.zone = s.zone) ∧
    (∀ u data pi l, IoStarted s id it x n → it.opc = 0x01 ∨ it.opc = 0x08 → it.gen = tabGetD s.inst.gens id.fn 0 →
      it.unit ≤ u → u < it.unit + it.count → u ∉ it.doneUnits → (blockSpan n it.sqe u).2 ≠ blocksPerUnit n → n.zoned = false →
      unitBusy s x u it.seq it.start = false → pmAt s x u = some (.flash l) →
      (s.flash.cache.find? fun e => decide (e.1 = l)) = none →
      (s.flash.reads.find? fun r => decide (r.for_ = .merge it.seq) && decide (r.unit = u)) = none →
      n.pit = 0 ∨ lbaMeta n.lbaf = 0 ∨ it.sqe.pract = true ∨ it.opc = 0x08 ∨ (∀ i < 3, it.sqe.prchk i = false) →
      Does (.unitLanded id u data pi) s fun t => Only [.flash, .emit] s t ∧ ∃ r, t.flash.reads = s.flash.reads ++ [r] ∧
        r.for_ = .merge it.seq ∧ r.nsx = x ∧ r.unit = u ∧ r.loc = l ∧ r.st = .requested) ∧
    (findItem s id = some it → itemBySeq s it.seq = some it → it.silent = false → isWriteOpc it.opc = true →
      flushing s = false → booted s = true → mayPost s it = true → nsOf s id.fn it.sqe.nsid.toNat = some (x, n) →
      (itemZone s it = none → Does (.writeCompletionPost id) s fun t => Completes s t it stOk
        (if it.opc = 0x7D then wordOf (it.unit % 2 ^ 32) else 0) (if it.opc = 0x7D then wordOf (it.unit / 2 ^ 32) else 0)) ∧
      (∀ z r, itemZone s it = some z → zoneAt s z = some r → zoneOrder s z it = true →
        (zoneOff n it + it.count ≠ zoneCap n → Does (.writeCompletionPost id) s fun t =>
          Completes s t it stOk (if it.opc = 0x7D then wordOf (it.unit % 2 ^ 32) else 0)
            (if it.opc = 0x7D then wordOf (it.unit / 2 ^ 32) else 0) ∧
          ∃ k, zoneAt t z = some k ∧ k.wp = max r.wp (zoneOff n it + it.count) ∧ k.st = r.st) ∧
        (zoneOff n it + it.count = zoneCap n → Does (.writeCompletionPost id) s fun t =>
          itemBySeq t it.seq = some { it with waitRec := some s.media.nextJSeq } ∧ t.host.ctls = s.host.ctls ∧
          ∃ j, t.media.ring = s.media.ring ++ [j] ∧ j.zst = [(z, .filled)] ∧ j.items = [it.seq] ∧
            j.seq = s.media.nextJSeq))) ∧
    (IoStarted s id it x n →
      (it.opc = 0x02 → it.failed = [] ∨ (∀ c, ctlOf s it.id.fn = some c → c.aers = []) → Does (.hostDmaFailure id) s fun t => Completes s t it stDataTransfer 0 0) ∧
      (it.opc = 0x01 → n.zoned = false → (∀ d ∈ s.zone.discards, d.seq ≠ it.seq) → Does (.hostDmaFailure id) s fun t => Completes s t it stDataTransfer 0 0) ∧
      (∀ z r, it.opc = 0x01 ∨ it.opc = 0x7D → itemZone s it = some z → zoneAt s z = some r → r.drain = none → r.nsx = x →
        Does (.hostDmaFailure id) s fun t => (∃ k, itemBySeq t it.seq = some k ∧ k.outcome = some stDataTransfer) ∧
          ∃ k d, zoneAt t z = some k ∧ k.ap = zoneOff n it ∧ k.drain = some d ∧ d.offset = zoneOff n it ∧
            it.seq ∈ d.marked ∧ d.from_ = s.host.nextSeq)) ∧
    (∀ z r d, zoneAt s z = some r → r.drain = some d → nsAt s r.nsx = some n → flushing s = false →
      ((zoneItems s z).any fun k => k.running && decide (k.unit < r.idx * zoneUnits n + d.offset)) = false →
      (∀ q ∈ d.marked, ∀ k, itemBySeq s q = some k → k.outcome ≠ none) → Does (.zoneDrainEnd z) s fun t =>
        (∃ k, zoneAt t z = some k ∧ k.drain = none ∧ k.ap = r.ap) ∧
        (∀ q ∈ d.marked, itemBySeq s q ≠ none → ∀ k ∈ t.host.items, k.seq ≠ q)) ∧
    (findItem s id = some it → itemBySeq s it.seq = some it → id.sq ≠ 0 → it.silent = false → it.outcome = none →
      flushing s = false → booted s = true → it.life < it.age (clk s) →
      (it.running = false → Does (.commandLifetimeExpiry id) s fun t => Completes s t it stLifetime 0 0) ∧
      (it.running = true → isReadOpc it.opc = true ∨ (isWriteOpc it.opc = true ∧ itemZone s it = none ∧
        ∀ d ∈ s.zone.discards, d.seq ≠ it.seq) →
        Does (.commandLifetimeExpiry id) s fun t => Completes s t it stLifetime 0 0) ∧
      (∀ z r, it.running = true → itemZone s it = some z → zoneAt s z = some r → r.nsx = x → nsAt s x = some n → r.drain = none →
        Does (.commandLifetimeExpiry id) s fun t => (∃ k, itemBySeq t it.seq = some k ∧ k.outcome = some stLifetime) ∧
          ∃ k d, zoneAt t z = some k ∧ k.ap = zoneOff n it ∧ k.drain = some d ∧ it.seq ∈ d.marked) ∧
      (it.running = true → it.opc = 0x79 ∨ it.opc = 0x09 → Does (.commandLifetimeExpiry id) s fun t =>
        ∃ k, itemBySeq t it.seq = some k ∧ k.outcome = some stLifetime ∧ k.phase = .done))

/-- R135 to R140, R147, R226: Close, Finish, Open, Reset and Offline Zone on one zone, or on those that Select All
names, start and commit a record for each zone, which an Open has taken effect with at once; one that finds the zone
as it would leave it completes, and one that the zone's state forbids fails; a secure-discard Reset waits for older
erases, then puts the zone's groups on the pending-erase list with its record; after its age limits a zone is
recommended for finishing, and finished by the device. Completes: closeZone, finishZone, openZone, resetZone,
offlineZone, zoneFinishRecommended, zoneDeviceFinish. -/
def Obligations.ZonesAreSent : Prop :=
  ∀ (s : State) (id : CmdId) (it : Item) (x : Nat) (n : Ns),
    (∀ a c, ∀ dest : ZState → Bool → ZoneTo, (a = ZAction.close ∧ c = Instr.closeZone id ∧ dest = fun _ _ => .closed) ∨
        (a = .finish ∧ c = .finishZone id ∧ dest = fun _ _ => .finished) ∨ (a = .open_ ∧ c = .openZone id ∧ dest = .told) ∨
        (a = .reset ∧ c = .resetZone id ∧ dest = fun _ _ => .empty) ∨
        (a = .offline ∧ c = .offlineZone id ∧ dest = fun _ _ => .offline) →
      IoRuns s id 0x79 it x n → barrierOpen s it = true → n.zoned = true → bits it.sqe.cdw13.toNat 7 0 = a.code →
      s.media.journalReadOnly = false →
      (it.sqe.cdw13.getLsbD 8 = true → (a = .reset → n.secdisc = false) →
        (sentAll s a n = [] → Does c s fun t => Completes s t it stOk 0 0) ∧
        (sentAll s a n ≠ [] → Does c s fun t => (∃ i, itemBySeq t it.seq = some i ∧ i.phase = .started) ∧
          ∃ l, t.media.ring = s.media.ring ++ l ∧ l.map (·.zst) = (sentAll s a n).map (fun z =>
              ((zoneAt s z).map fun r => (z, dest r.st r.fzr)).toList) ∧ l.getLast?.map (·.items) = some [it.seq])) ∧
      (∀ r, it.sqe.cdw13.getLsbD 8 = false → it.sqe.slba % zoneUnits n = 0 → zoneAt s (zoneOfUnit n it.sqe.slba) = some r →
        (zoneMeets a r.st = .same → Does c s fun t => Completes s t it stOk 0 0 ∧ t.zone = s.zone) ∧
        (∀ st, zoneMeets a r.st = .bad st → Does c s fun t => Completes s t it st 0 0 ∧ t.zone = s.zone) ∧
        (a = .reset → n.secdisc = true → zoneMeets a r.st = .change →
          (resetReady s (zoneOfUnit n it.sqe.slba) x = false → Does c s fun t =>
            itemBySeq t it.seq = some { it with phase := .waiting } ∧ Only [.host, .emit] s t) ∧
          (resetReady s (zoneOfUnit n it.sqe.slba) x = true → Does c s fun t =>
            (∃ i, itemBySeq t it.seq = some i ∧ i.phase = .started ∧
              i.ranges = (zoneGroups s (zoneOfUnit n it.sqe.slba)).eraseDups.map fun g => (g, 0)) ∧
            t.host.ctls = s.host.ctls ∧
            (∀ g ∈ zoneGroups s (zoneOfUnit n it.sqe.slba), ∃ k, groupAt t g = some k ∧ k.pendIdx.isSome = true) ∧
            ∃ j, t.media.ring = s.media.ring ++ [j] ∧ j.zst = [(zoneOfUnit n it.sqe.slba, .empty)] ∧
              j.erase = zoneGroups s (zoneOfUnit n it.sqe.slba) ∧
              j.items = (if zoneGroups s (zoneOfUnit n it.sqe.slba) = [] then [it.seq] else []))) ∧
        (zoneMeets a r.st = .change → (a = .open_ ∨ a = .finish → r.st = .empty → zonesUsed s id.fn < zoneAlloc s id.fn) →
          (a = .reset → n.secdisc = false) → Does c s fun t =>
            (∃ i, itemBySeq t it.seq = some i ∧ i.phase = .started) ∧ t.host.ctls = s.host.ctls ∧
            (∃ j, t.media.ring = s.media.ring ++ [j] ∧ j.zst = [(zoneOfUnit n it.sqe.slba, dest r.st r.fzr)] ∧
              j.items = [it.seq]) ∧
            zoneAt t (zoneOfUnit n it.sqe.slba) = some (if a = .open_ then { r with st := .explicit } else r)))) ∧
    (∀ z r f, zoneAt s z = some r → nsAt s r.nsx = some n → r.firstWrite = some f → r.st.isActive = true →
      (r.fzr = false → (2 ^ 35 : Int) < s.frame.elapsed - f → Does (.zoneFinishRecommended z) s fun t =>
        zoneAt t z = some { r with fzr := true }) ∧
      ((2 ^ 36 : Int) < s.frame.elapsed - f → Does (.zoneDeviceFinish z) s fun t =>
        zoneAt t z = some { r with finishing := true } ∧
        (r.drain = none → (zoneItems s z).any Item.running = false →
          (s.media.ring.any fun j => j.zst.contains (z, .finished)) = false →
          ∃ j, t.media.ring = s.media.ring ++ [j] ∧ j.zst = [(z, .finished)] ∧ j.items = [])))

/-- R27, R46, R168, R170, R172: a stripe row whose units are all landed, or which is closed with pads, is bound in its
turn to the row its claim reserved, and its programs are requested; a partial row is bound likewise once its first
unit has waited 2^20 frames. Completes: stripeRowDispatch, partialRowWaitExpiry. -/
def Obligations.RowsAreBound : Prop :=
  ∀ (s : State) (x first eg : Nat) (n : Ns) (g : Group), booted s = true → flushing s = false →
    s.media.journalReadOnly = false → nsAt s x = some n → groupAt s eg = some g → claimGood s eg = true →
    rowTurn (noteReady { s with emit := [] }) x first = true →
    (∀ r, n.zoned = true → zoneAt s (zoneOfUnit n first) = some r →
      first % zoneUnits n % rowUnits n.width = 0 → first % zoneUnits n < zoneCap n →
      zoneRowUnits s x first (rowUnits n.width) ≠ [] →
      tabGet r.claims (first % zoneUnits n / rowUnits n.width) = some eg →
      zoneLeaves s (zoneOfUnit n first) = false →
      ((zoneRowUnits s x first (rowUnits n.width)).length +
          rowDone s (zoneOfUnit n first) (first % zoneUnits n / rowUnits n.width) r = rowUnits n.width ∨
          r.st = .full ∨ closesPartial s = true → Does (.stripeRowDispatch x first) s fun t =>
        RowBound s t x eg g (some (zoneOfUnit n first, first % zoneUnits n / rowUnits n.width))
          ((zoneRowUnits s x first (rowUnits n.width)).map fun e => e.unit - first)) ∧
      (partialWaited s (zoneRowUnits s x first (rowUnits n.width)) = true → Does (.partialRowWaitExpiry x first) s fun t =>
        RowBound s t x eg g (some (zoneOfUnit n first, first % zoneUnits n / rowUnits n.width))
          ((zoneRowUnits s x first (rowUnits n.width)).map fun e => e.unit - first))) ∧
    (∀ rest, n.zoned = false → nsClaims n first = eg :: rest → convRowUnits s x first (rowUnits n.width) ≠ [] →
      ((convRowUnits s x first (rowUnits n.width)).length = rowUnits n.width ∨ closesPartial s = true →
        Does (.stripeRowDispatch x first) s fun t =>
          RowBound s t x eg g none (List.range (convRowUnits s x first (rowUnits n.width)).length)) ∧
      (partialWaited s (convRowUnits s x first (rowUnits n.width)) = true → Does (.partialRowWaitExpiry x first) s fun t =>
        RowBound s t x eg g none (List.range (convRowUnits s x first (rowUnits n.width)).length)))

/-- R184, R193, R200 to R206, R215, R218, R221, R501 to R503: the pass of a row's last program puts its units on flash
and submits its record, a relocation row's with the others of its victim, an earlier program only counts, and a failed
row makes its group due for retirement; the pass of a group's last erase submits ERASE_DONE; the oldest record of the
ring is committed with all its effects, a relocated row's only where the unit is still where it was read, and a line
whose read-back fails takes a spare line, or makes the journal read-only; a home line due and the first dirty segment
are written; a pending-erase group has the erase of every die block in use requested. Completes: programComplete,
eraseComplete, journalRecordCommit, relocationCommit, homeLineWrite, checkpointSegmentWrite, groupEraseIssue. -/
def Obligations.RecordsAreCommitted : Prop :=
  ∀ s : State,
    (∀ die o k p bad, opReady s die .program = some (o, k) → rowOpAt s o.eg o.row = some p →
      ((p.outstanding.filter fun i => decide (i ≠ o.member)) ≠ [] → Does (.programComplete die bad) s fun t =>
        rowOpAt t o.eg o.row = some { p with
          outstanding := p.outstanding.filter fun i => decide (i ≠ o.member), failed := p.failed || !bad.isEmpty } ∧
        t.media.ring = s.media.ring ∧ ∃ d, dieAt t die = some d ∧ d.op = none) ∧
      ((p.outstanding.filter fun i => decide (i ≠ o.member)) = [] → p.failed = false → bad = [] →
        (p.reloc = none → Does (.programComplete die []) s fun t => rowOpAt t o.eg o.row = none ∧
          (∀ q ∈ p.units, (tabGet t.media.flash (flashKey (locOf p.eg p.row q.1))).isSome = true) ∧
          ∃ j, t.media.ring = s.media.ring ++ [j] ∧ j.row = some { p with outstanding := [] } ∧
            j.type = (if p.zone.isSome then .zoneExt else .pageRow) ∧ j.seq = s.media.nextJSeq) ∧
        (∀ v k, p.reloc = some v → (s.media.victims.find? fun k => decide (k.eg = v)) = some k →
          ((s.flash.reads.any fun r => decide (r.for_ = .reloc v)) = true → Does (.programComplete die []) s fun t =>
            t.media.ring = s.media.ring ∧ (t.media.victims.find? fun k => decide (k.eg = v)) =
              some { k with rows := k.rows ++ [{ p with outstanding := [] }] }) ∧
          ((s.flash.reads.any fun r => decide (r.for_ = .reloc v)) = false → k.copies = [] →
            (∀ r ∈ s.media.rowOps, r.reloc = some v → r.eg = o.eg ∧ r.row = o.row) → Does (.programComplete die []) s fun t =>
              ∃ l, t.media.ring = s.media.ring ++ l ∧ l.map (·.row) = (k.rows ++ [{ p with outstanding := [] }]).map some))) ∧
      (∀ g, (p.outstanding.filter fun i => decide (i ≠ o.member)) = [] → p.failed = true ∨ bad ≠ [] →
        groupAt s o.eg = some g → Does (.programComplete die bad) s fun t => ∃ g', groupAt t o.eg = some g' ∧ g'.retire = true)) ∧
    (∀ die o k g bad, opReady s die .erase = some (o, k) → groupAt s o.eg = some g → o.member ∈ g.erasing →
      Does (.eraseComplete die bad) s fun t => (∃ d, dieAt t die = some d ∧ d.op = none) ∧
        groupAt t o.eg = some { g with
          erasing := g.erasing.filter fun i => decide (i ≠ o.member), retire := g.retire || !bad.isEmpty } ∧
        ((g.erasing.filter fun i => decide (i ≠ o.member)) = [] → ∃ j, t.media.ring = s.media.ring ++ [j] ∧
          j.type = .eraseDone ∧ j.eg = o.eg) ∧
        (bad ≠ [] → ∀ b, (groupBlocks g)[o.member]? = some b → (blockAt t b.1 b.2).st = .retired)) ∧
    (∀ r rest, MayCommit s r rest →
      (relocRec r = none → exec (.journalRecordCommit true) s = .next (commits s r rest) ∧
        (plainRecord r → r.items = [] → (commits s r rest).media.ring = rest ∧
          (∃ l, (commits s r rest).media.uncopied = s.media.uncopied ++ [{ r with todo := l }]) ∧
          ∀ eg ∈ r.erase, ∀ g, groupAt s eg = some g → groupAt (commits s r rest) eg = some { g with st := .pendingErase }) ∧
        (∀ g, r.again = none → r.row = none → r.zst = [] → r.unmap = none → r.egTo = some .closed → r.erase = [] →
          r.items = [] → r.type ≠ .eraseDone → groupAt s r.eg = some g → g.st = .opened → g.valid ≠ 0 →
          groupAt (commits s r rest) r.eg = some { g with st := .closed }) ∧
        (∀ g, r.type = .eraseDone → r.again = none → r.row = none → r.zst = [] → r.unmap = none → r.egTo = none →
          r.erase = [] → r.items = [] → groupAt s r.eg = some g → g.area = false → groupAt (commits s r rest) r.eg = none) ∧
        (∀ o, rowRecord o r → RowMapped s (commits s r rest) o) ∧
        (∀ it, plainRecord r → r.items = [it.seq] → itemBySeq s it.seq = some it → it.outcome = none → it.silent = false →
          flushing s = false → isWriteOpc it.opc = false → it.opc ≠ 0x79 → Completes s (commits s r rest) it stOk 0 0)) ∧
      (∀ eg o, relocRec r = some eg → rowRecord o r → Does (.relocationCommit eg) s fun t => RowMapped s t o)) ∧
    (∀ r rest, s.media.ring = r :: rest → s.power.boot = .running → s.media.journalReadOnly = false → ringFull s r.len = false →
      relocRec r = none →
      (s.media.spareLines = 0 → Does (.journalRecordCommit false) s fun t => t.media.journalReadOnly = true ∧
        t.media.ring = s.media.ring) ∧
      (s.media.spareLines ≠ 0 →
        extentsUsed (record r rest (replaceLine (9 * 2 ^ 40 + r.seq) { s with emit := [] })) ≤ extentBlocks →
        exec (.journalRecordCommit false) s =
          .next (record r rest (replaceLine (9 * 2 ^ 40 + r.seq) { s with emit := [] })))) ∧
    (∀ line ok finds, s.power.boot = .running → s.media.journalReadOnly = false → lineDue s line = true →
      (readLines finds { s with emit := [] }).media.journalReadOnly = false →
      ok = true ∨ (readLines finds { s with emit := [] }).media.spareLines ≠ 0 →
      Does (.homeLineWrite line ⟨ok, finds⟩) s fun t =>
        (∃ f, tabGet t.media.homeWrites line = some f) ∧ (∀ r ∈ t.media.uncopied, line ∉ r.todo) ∧
        (finds = [] → tabGet t.media.homeWrites line = some s.frame.elapsed ∧
          t.media.spareLines = (if ok then s.media.spareLines else s.media.spareLines - 1))) ∧
    (∀ seg rest, s.power.boot = .running → flushing s = false → s.media.dirtySegs = seg :: rest →
      2 ≤ (copyDies s seg).length → Does (.checkpointSegmentWrite seg) s fun t =>
        t.media.dirtySegs = rest.filter (fun g => decide (g ≠ seg)) ∧ (∀ r ∈ t.media.uncopied, seg ∉ r.segs) ∧
        (∃ c, tabGet t.media.checkpoint seg = some c ∧ c.entries = segEntries s seg ∧ c.dies = copyDies s seg) ∧
        Only [.media, .emit] s t) ∧
    (∀ eg g, groupAt s eg = some g → hallRuns s = true → g.st = .pendingErase → g.erasing = [] →
      readOn s eg = false → (s.media.ring.any fun r => decide (r.type = .eraseDone) && decide (r.eg = eg)) = false →
      ((∀ b ∈ groupBlocks g, ∃ d, dieAt s b.1 = some d ∧ d.inUse = true) → groupBlocks g ≠ [] → s.frame.inputOpen = true →
        Does (.groupEraseIssue eg) s fun t => (∀ e ∈ t.flash.cache, e.1.eg ≠ eg) ∧
          groupAt t eg = some { g with erasing := List.range (groupBlocks g).length } ∧
          ∃ l, t.flash.reqs = s.flash.reqs ++ l ∧ l.map (fun q => (q.kind, q.eg, q.member)) =
            (List.range (groupBlocks g).length).map fun m => (OpKind.erase, eg, m)) ∧
      ((∀ b ∈ groupBlocks g, ∀ d, dieAt s b.1 = some d → d.inUse = false) → Does (.groupEraseIssue eg) s fun t =>
        ∃ j, t.media.ring = s.media.ring ++ [j] ∧ j.type = .eraseDone ∧ j.eg = eg))

/-- R187, R188, R249 to R257, R265, R277: a status poll of an operation past its nominal end takes what the die
reports; a sensing that has ended is measured, and its codewords wait for the channel's bus, a single one going over
at once where the bus is free; an acknowledged suspend is counted and starts the next sensing; a timeout is noted; a
tracker window judges the dies, and the trackers are saved against tokens; a trigger begins a channel's retraining,
which goes from target to target, and is tried again, or steps the channel down, when one fails. Completes:
dieStatusPoll, senseComplete, suspendAcknowledged, statusTimeout, trackerWindowEnd, trackerSave, channelRetrain. -/
def Obligations.DiesReport : Prop :=
  ∀ s : State,
    (∀ die d k, dieAt s die = some d → classAt s d.cls = some k →
      (∀ ready, pollDue s d = true →
        Does (.dieStatusPoll die ready) s fun t => dieAt t die = some { d with ready := ready } ∧ Only [.flash, .emit] s t) ∧
      (∀ q, d.sensing = some q → d.ready = true →
        (Does (.senseComplete die) s fun t => ∃ d', dieAt t die = some d' ∧
          d'.rRead = d.rRead.add k.tR (s.frame.elapsed - q.issued)) ∧
        (wantedSlots s q.id = [] → d.queue = [] → Does (.senseComplete die) s fun t =>
          t.flash.reads = s.flash.reads ∧ ∃ d', dieAt t die = some d' ∧ d'.sensing = none) ∧
        (∀ c, chanAt s (channelOf die) = some c → wantedSlots s q.id ≠ [] → c.retraining = true ∨ c.busLeft = 0 →
          Does (.senseComplete die) s fun t => t.flash.reads = s.flash.reads ∧
            chanAt t (channelOf die) = some { c with
              xfers := addXfer { die := die, sense := q, slots := wantedSlots s q.id, perPlane := 16 / k.planes,
                                 size := codeSize (groupRate s q.eg), left := codeSize (groupRate s q.eg) } c.xfers } ∧
            ∃ d', dieAt t die = some d' ∧ d'.sensing = none) ∧
        (∀ c u, chanAt s (channelOf die) = some c → wantedSlots s q.id = [u] → c.retraining = false → c.xfers = [] →
          c.dataIns = [] → codeSize (groupRate s q.eg) ≤ c.busLeft → Does (.senseComplete die) s fun t =>
            t.flash.reads = s.flash.reads.map (RdOp.take q.id u) ∧
            chanAt t (channelOf die) = some { c with busLeft := c.busLeft - codeSize (groupRate s q.eg) })) ∧
      (∀ o, d.op = some o → o.suspPending = true → Does (.suspendAcknowledged die) s fun t =>
        ∃ d' o', dieAt t die = some d' ∧ d'.op = some o' ∧ o'.suspended = true ∧ o'.suspPending = false ∧
          o'.susps = o.susps + 1 ∧
          d'.limitHits = d.limitHits + flag (decide (o.susps + 1 = if o.kind = .program then k.suspProg else k.suspErase)) 1 ∧
          ∀ q rest, d.sensing = none → d.queue = q :: rest → d.inUse = true → flushing s = false →
            xferPending s die = false → dataPending s die = false →
            d'.sensing = some { q with issued := s.frame.elapsed } ∧ d'.queue = rest ∧ o'.senses = 1) ∧
      (d.inUse = true → timedOut s d k = true → xferPending s die = false → dataPending s die = false →
        (∀ q, d.op = none → d.sensing = some q → flushing s = false →
          (s.flash.reads.any fun r => (r.senseOf q.id).isSome && !r.resensed) = true → Does (.statusTimeout die) s fun t =>
            (∃ d', dieAt t die = some d' ∧ d'.sensing = some { q with issued := s.frame.elapsed } ∧
              s.frame.elapsed ∈ d'.timeouts) ∧ ∀ r ∈ t.flash.reads, (r.senseOf q.id).isSome = true → r.resensed = true) ∧
        (∀ o, d.op = some o → d.sensing = none → (∃ g, o.kind = .erase ∧ groupAt s o.eg = some g) ∨
            (∃ p, o.kind = .program ∧ rowOpAt s o.eg o.row = some p ∧
              (p.outstanding.filter fun i => decide (i ≠ o.member)) ≠ []) → Does (.statusTimeout die) s fun t =>
          (∃ d', dieAt t die = some d' ∧ d'.op = none ∧ s.frame.elapsed ∈ d'.timeouts) ∧
          (∀ g, o.kind = .erase → groupAt s o.eg = some g → ∃ g', groupAt t o.eg = some g' ∧ g'.retire = true) ∧
          (∀ p, o.kind = .program → rowOpAt s o.eg o.row = some p → ∃ p', rowOpAt t o.eg o.row = some p' ∧ p'.failed = true)))) ∧
    (hallRuns s = true → s.flash.windowFrom + 65536 < s.frame.elapsed → exec .trackerWindowEnd s = .next { s with
      flash := { s.flash with
        windowFrom := s.flash.windowFrom + 65536 * ((s.frame.elapsed - 1 - s.flash.windowFrom) / 65536)
        dies := tabMap (fun _ d => judgeWindow d) s.flash.dies }
      emit := [] }) ∧
    (∀ die d price, booted s = true → flushing s = false → s.flash.lastSave + 2 ^ 28 ≤ s.frame.elapsed →
      savePayer s = some (die, price) → dieAt s die = some d → Does .trackerSave s fun t =>
        t.flash.lastSave = s.frame.elapsed ∧ t.flash.savedTrk = t.flash.trackers ∧ t.flash.savedStanding = t.flash.standing ∧
        t.flash.trackers = tabMap (fun _ x => { x with changed := false }) s.flash.trackers ∧
        dieAt t die = some { d with gc := d.gc - price } ∧ Only [.flash, .emit] s t) ∧
    (∀ ch x drift good, chanAt s ch = some x → hallRuns s = true → x.failed = false → x.trained = true →
      (x.retrain = none → retrainDue s ch x drift = true → Does (.channelRetrain ch ⟨drift, good⟩) s fun t =>
        chanAt t ch = some { x with retrain := some (Retrain.first s.frame.elapsed
          (decide (x.step ≠ x.cfgStep) && decide (x.lastTrain + 2 ^ 30 ≤ s.frame.elapsed))) } ∧ Only [.flash, .emit] s t) ∧
      (x.retrain = none → retrainDue s ch x drift = false →
        exec (.channelRetrain ch ⟨drift, good⟩) s = .next { s with emit := [] }) ∧
      (∀ r, x.retrain = some r → r.windows ≠ 0 →
        (good = true → r.target + 1 < x.targets → Does (.channelRetrain ch ⟨drift, good⟩) s fun t =>
          ∃ y, chanAt t ch = some y ∧ y.retrain = some { r with target := r.target + 1, windows := 0 } ∧ y.step = x.step) ∧
        (good = true → x.targets ≤ r.target + 1 → Does (.channelRetrain ch ⟨drift, good⟩) s fun t =>
          ∃ y, chanAt t ch = some y ∧ y.retrain = none ∧ y.fails = 0 ∧ y.lastTrain = s.frame.elapsed ∧
            y.trainTemp = regionTemp s ch ∧ y.xferErrs = [] ∧ y.step = if r.upward then x.cfgStep else x.step) ∧
        (good = false → r.upward = true → Does (.channelRetrain ch ⟨drift, good⟩) s fun t =>
          chanAt t ch = some { x.trainedAt s.frame.elapsed (regionTemp s ch) with fails := 0 } ∧ Only [.flash, .emit] s t) ∧
        (good = false → r.upward = false → x.fails = 0 → Does (.channelRetrain ch ⟨drift, good⟩) s fun t =>
          chanAt t ch = some { x with fails := 1, retrain := some (Retrain.first s.frame.elapsed false) } ∧
          Only [.flash, .emit] s t) ∧
        (good = false → r.upward = false → x.fails ≠ 0 → x.step < 7 → Does (.channelRetrain ch ⟨drift, good⟩) s fun t =>
          (∃ y, chanAt t ch = some y ∧ y.step = x.step + 1 ∧ y.fails = 0 ∧
            y.retrain = some (Retrain.first s.frame.elapsed false) ∧ ∀ d ∈ y.dataIns, d.moved = 0 ∧ d.part = 0) ∧
          ∀ die d, dieAt s die = some d → channelOf die = ch → d.inUse = true → d.due ≠ some .retired → d.mark ≠ .slowRate →
            ∃ d', dieAt t die = some d' ∧ d'.due = some .slowRate) ∧
        (good = false → r.upward = false → x.fails ≠ 0 → 7 ≤ x.step → Does (.channelRetrain ch ⟨drift, good⟩) s fun t =>
          chanAt t ch = some { x with failed := true, retrain := none } ∧
          ∀ die d, dieAt s die = some d → channelOf die = ch → d.inUse = true → ∃ d', dieAt t die = some d' ∧
            d'.due = some .retired)))

/-- R28, R271 to R283, R306 to R308: a codeword that decodes and whose header matches hands its unit to the read, in
the direct steps, the soft step and the reconstruction, which XORs the member codewords; a failure takes the ladder's
next step, a member's its second step, and a reconstruction chosen for an unavailable target goes back to the direct
read; a unit that leaves is checked, decrypted and sent to the host, an unmapped one as zeros, and the last one
completes the command. Completes: codewordDecode, softDecodeComplete, backStairReconstruct, readEgress. -/
def Obligations.ReadsAreDecoded : Prop :=
  ∀ (s : State) (id : Nat) (r : RdOp) (q : Nat), findRead s id = some r → r.id = id → hallRuns s = true →
    (r.for_ = .host q →
      (∀ out, (∃ u v, out = DecodeOut.good u v ∨ out = .retried u v) → ∀ t, flashAt s r.loc = some t → wanted s r t = true →
        r.st = .decoding →
        (r.step ≠ 4 → Does (.codewordDecode id out) s fun a => findRead a id = some { r with st := .decoded t, senses := [] }) ∧
        (r.step = 4 → Does (.softDecodeComplete id out) s fun a =>
          findRead a id = some { r with st := .decoded t, senses := [] })) ∧
      (∀ out, out = DecodeOut.fail ∨ out = .wrong → r.st = .decoding →
        (∀ die b page lost, r.step = 1 → memberPlace s r.loc (targetMember s r.loc) = some (die, b, page, lost) →
          Does (.codewordDecode id out) s fun a => findRead a id = some { r with
            step := if tracked s die b then 2 else if r.lr then 5 else 3, extra := 0
            back := if tracked s die b = false ∧ r.lr = true then some .ladder else r.back
            st := .requested, senses := [], frame := s.frame.elapsed + 1 }) ∧
        (r.step = 2 → Does (.codewordDecode id out) s fun a => findRead a id = some { r with
          step := if r.lr then 5 else 3, extra := 0, back := if r.lr then some .ladder else r.back
          st := .requested, senses := [], frame := s.frame.elapsed + 1 }) ∧
        (r.step = 3 → r.extra < 2 → Does (.codewordDecode id out) s fun a => findRead a id = some { r with
          extra := r.extra + 1, st := .requested, senses := [], frame := s.frame.elapsed + 1 }) ∧
        (r.step = 3 → 2 ≤ r.extra → Does (.codewordDecode id out) s fun a =>
          findRead a id = some { r with step := 4 }) ∧
        (r.step = 4 → Does (.softDecodeComplete id out) s fun a => findRead a id = some { r with
          step := 5, extra := 0, back := some .ladder, st := .requested, senses := [], frame := s.frame.elapsed + 1 })) ∧
      (∀ code rest second, r.st = .members (code :: rest) second →
        (∀ u v, Does (.codewordDecode id (.good u v)) s fun a => findRead a id = some { r with
          st := if rest.isEmpty && second.isEmpty && r.senses.isEmpty then .rebuilt else .members rest second }) ∧
        (∀ die b page lost, memberPlace s r.loc (code % 32) = some (die, b, page, lost) → code < 32 →
          tracked s die b = true → Does (.codewordDecode id .fail) s fun a => findRead a id = some { r with
            st := .members rest (second ++ [code]), frame := s.frame.elapsed + 1 })) ∧
      (∀ g, r.st = .rebuilt → groupAt s r.loc.eg = some g →
        (innerCheck (xorOthers s r.loc g.width).data (xorOthers s r.loc g.width).meta_ (xorOthers s r.loc g.width).hdr =
            (xorOthers s r.loc g.width).check → wanted s r (xorOthers s r.loc g.width) = true →
          Does (.backStairReconstruct id) s fun a =>
            findRead a id = some { r with st := .decoded (xorOthers s r.loc g.width), senses := [] }) ∧
        (wanted s r (xorOthers s r.loc g.width) = false → r.back = some .unavailable →
          Does (.backStairReconstruct id) s fun a => findRead a id = some { r with
            step := 1, back := none, noBack := true, st := .requested, senses := [], frame := s.frame.elapsed + 1 }))) ∧
    (∀ cid it x n, IoStarted s cid it x n → isReadOpc it.opc = true →
      (s.flash.reads.find? fun k => decide (k.for_ = .host it.seq) && decide (k.unit = r.unit)) = some r →
      n.pit = 0 ∨ lbaMeta n.lbaf = 0 ∨ (∀ i < 3, it.sqe.prchk i = false) → it.failed = [] →
      ∀ d, (r.st = .zeros ∧ d = zeros 4096) ∨ (∃ t, r.st = .decoded t ∧ innerCheck t.data t.meta_ t.hdr = t.check ∧
        hdrMatches n x r.unit t.hdr = true ∧ t.hdr.poison = false ∧ d = bvBytes (decryptUnit s x n r.unit t)) →
      Does (.readEgress cid r.unit) s fun a => (∀ k ∈ a.flash.reads, k.id ≠ id) ∧
        (it.opc = 0x02 → ∃ m pi, .unitOut it.id.fn it.id.cid r.unit
          ((askedBlocks n it.sqe r.unit d m).map (·.1)).flatten pi ∈ a.emit) ∧
        (it.doneUnits.length + 1 < it.count → itemBySeq a it.seq = some { it with doneUnits := r.unit :: it.doneUnits }) ∧
        (it.count ≤ it.doneUnits.length + 1 → Completes s a it stOk 0 0))

/-- R155, R188, R215 to R217, R221, R225: the victim next in order has its valid units' reads requested; a secure
discard begins once the older erases of its namespace are done, takes its steps one group at a time and ends in one
UNMAP; a closed group reaches its refresh age; the group whose turn it is has a row read; a slow die left unread is
probed. Completes: relocationVictimStart, secureDiscardStep, refreshAgeReached, patrolRead, probeRead. -/
def Obligations.GroupsAreMaintained : Prop :=
  ∀ s : State, hallRuns s = true →
    (∀ eg g k rest, groupAt s eg = some g → g.victim = false → s.media.victims.length < 64 →
      victimOrder s = (k, eg) :: rest → victimUnits s eg g ≠ [] → Does (.relocationVictimStart eg) s fun t =>
        t.media.victims = s.media.victims ++ [{ eg := eg, prio := k, copies := [], rows := [], stuck := [] }] ∧
        groupAt t eg = some { g with victim := true } ∧
        ∃ l, t.flash.reads = s.flash.reads ++ l ∧ l.map (fun r => (r.for_, r.unit, r.loc)) =
          (victimUnits s eg g).map fun p => (RdFor.reloc eg, p.1, p.2)) ∧
    (∀ seq d, (s.zone.discards.find? fun d => decide (d.seq = seq)) = some d → s.media.journalReadOnly = false →
      (∀ n, d.begun = false → discardReady s d = true → nsAt s d.nsx = some n → rangeInFlight s d = false →
        Does (.secureDiscardStep seq) s fun t => t.zone.discards = s.zone.discards.map (fun k =>
            if k = d then { k with begun := true, stale := staleGroups s d n, current := rangeGroups s d } else k) ∧
          Only [.zone, .emit] s t) ∧
      (∀ eg g rest, d.begun = true → d.stale = eg :: rest → groupAt s eg = some g → g.candidate = true →
        victimUnits s eg g ≠ [] → Does (.secureDiscardStep seq) s fun t =>
          groupAt t eg = some { g with victim := true } ∧ t.zone = s.zone) ∧
      (∀ eg g rest, d.begun = true → d.stale = [] → d.current = eg :: rest → groupAt s eg = some g → g.st = .closed →
        g.victim = false → pendWaits s eg = false → pendRoom s = true →
        ((victimUnits s eg g).filter fun p => !inRange d p.1) = [] → Does (.secureDiscardStep seq) s fun t =>
          (∃ k, groupAt t eg = some k ∧ k.pendIdx.isSome = true ∧ k.st = .closed) ∧
          ∃ j, t.media.ring = s.media.ring ++ [j] ∧ j.type = .secureStep ∧ j.unmap = some (d.nsx, d.first, d.count) ∧
            j.eg = eg ∧ j.erase = [eg] ∧ j.items = []) ∧
      (∀ it, d.begun = true → d.stale = [] → d.current = [] → itemBySeq s seq = some it → it.outcome = none →
        seq ≠ wipeKey d.nsx → rangeInFlight s d = false → rangeGroups s d = [] → Does (.secureDiscardStep seq) s fun t =>
          t.zone.discards = s.zone.discards.erase d ∧
          ∃ j, t.media.ring = s.media.ring ++ [j] ∧ j.type = .unmap ∧ j.unmap = some (d.nsx, d.first, d.count) ∧
            j.items = (if (s.zone.discards.erase d).any fun k => decide (k.seq = d.seq) then [] else [d.seq]))) ∧
    (∀ eg g, groupAt s eg = some g → g.st = .closed → g.lastProg + 2 ^ 41 ≤ (s.frame.counter : Int) →
      Does (.refreshAgeReached eg) s fun t => groupAt t eg = some { g with refresh := true } ∧ Only [.media, .emit] s t) ∧
    (∀ eg row g, groupAt s eg = some g → patrolNext s = some eg → row < g.rows → Does (.patrolRead eg row) s fun t =>
      t.flash.patrolPos = eg ∧ Only [.flash, .emit] s t ∧ ∃ l, t.flash.reads = s.flash.reads ++ l ∧
        l.map (fun r => (r.for_, r.loc)) = (rowPlaces s eg row).map fun p => (RdFor.patrol, p)) ∧
    (∀ die d p, dieAt s die = some d → pageOn s die = some p → d.slow = true → d.lastRead + 1024 < s.frame.elapsed →
      (s.flash.reads.any fun r => decide (r.for_ = .probe) && decide (r.loc = p)) = false → Does (.probeRead die) s fun t =>
        Only [.flash, .emit] s t ∧ ∃ r, t.flash.reads = s.flash.reads ++ [r] ∧ r.for_ = .probe ∧ r.loc = p)

/-- R453 to R457, R473, R486: each Management Interface command is answered with its data and Configuration Set with
its effect, an opcode the device does not support with Invalid Opcode, and an Admin command with the PF's own data or
with its status. The message layouts are the model's (log 22). R37, R38, R453, R454, R455: a message whose packets
came on one transport is taken up by its type, an MCTP control message setting the endpoint's identifier, an NVMe-MI
message answered in the slot; a type the device has no use for is discarded and counted; one whose packets came on two
transports is dropped; and while the management core restarts, at most 16 are held. Completes:
readNvmeMiDataStructure, controllerHealthStatusPoll, configurationGet, recorderRead, thermalQuery,
nvmSubsystemHealthStatusPoll, configurationSet, nvmeMiInvalidOpcode, nvmeMiAdminCommand, mctpMessage. -/
def Obligations.ManagementInterfaceAnswers : Prop :=
  (∀ (s : State) (req : List Byte), miOpen s = true →
     (∀ c op r, (c, op, r) ∈ [(Instr.readNvmeMiDataStructure req, 0x00, miRead s (fieldAt req 4 4)),
         (.controllerHealthStatusPoll req, 0x02, miControllers s (fieldAt req 4 4)),
         (.configurationGet req, 0x04, miConfigGet s (fieldAt req 4 4)),
         (.recorderRead req, 0xC0, miRecorder s (fieldAt req 4 4) (fieldAt req 8 4)),
         (.thermalQuery req, 0xC1, miThermal s (fieldAt req 4 4))] → byteAt req 0 = op → Does c s fun t =>
       MiSends s t (miResponse r.1 r.2.1 r.2.2) ∧ Only [.mgmt, .emit] s t) ∧
     (byteAt req 0 = 0x01 → Does (.nvmSubsystemHealthStatusPoll req) s fun t =>
       MiSends s t (miResponse 0 0 (miSubsystem s)) ∧
       t.mgmt.healthChange = (if bitOf (fieldAt req 8 4) 31 then 0 else s.mgmt.healthChange) ∧ Only [.mgmt, .emit] s t) ∧
     (byteAt req 0 = 0x03 →
       (∀ m, miConfigSet (fieldAt req 4 4) (fieldAt req 8 4) s.mgmt = some m → Does (.configurationSet req) s fun t =>
         MiSends s t (miResponse 0 0 []) ∧ t.mgmt.mtu = m.mtu ∧ t.mgmt.smbusFreq = m.smbusFreq ∧
         t.mgmt.healthChange = m.healthChange) ∧
       (miConfigSet (fieldAt req 4 4) (fieldAt req 8 4) s.mgmt = none → Does (.configurationSet req) s fun t =>
         MiSends s t (miResponse miInvalidParameter 0 []) ∧ t.mgmt.mtu = s.mgmt.mtu)) ∧
     (miOpcodes.contains (byteAt req 0) = false → Does (.nvmeMiInvalidOpcode req) s fun t =>
       MiSends s t (miResponse miInvalidOpcode 0 []) ∧ Only [.mgmt, .emit] s t) ∧
     (∀ d0 b, fieldAt req 2 2 = 1 ∨ fieldAt req 2 2 = 2 → miAdminData s (2047 + fieldAt req 2 2) (byteAt req 0) (fieldAt req 4 4)
       (fieldAt req 40 4) (fieldAt req 44 4) = .inr (d0, b) → Does (.nvmeMiAdminCommand req) s fun t =>
         MiSends s t (miResponse 0 0 (le d0 4 ++ zeros 8 ++ (b.drop (fieldAt req 24 4)).take (fieldAt req 28 4))) ∧
         Only [.mgmt, .emit] s t) ∧
     (∀ st, fieldAt req 2 2 = 1 ∨ fieldAt req 2 2 = 2 → miAdminData s (2047 + fieldAt req 2 2) (byteAt req 0) (fieldAt req 4 4)
       (fieldAt req 40 4) (fieldAt req 44 4) = .inl st → Does (.nvmeMiAdminCommand req) s fun t =>
         MiSends s t (miResponse 0 0 (zeros 8 ++ le (cqeDw3 st) 4)) ∧ Only [.mgmt, .emit] s t) ∧
     (fieldAt req 2 2 ≠ 1 → fieldAt req 2 2 ≠ 2 → Does (.nvmeMiAdminCommand req) s fun t =>
       MiSends s t (miResponse 0 0 (zeros 8 ++ le (cqeDw3 stInvalidField) 4)) ∧ Only [.mgmt, .emit] s t)) ∧
  (∀ (s : State) (via : List Nat) (tr : Nat) (req : List Byte), transportUp s tr = true →
     (miOpen s = true → (∀ k ∈ via, k = tr) →
       (byteAt req 0 % 128 = 0 → byteAt req 2 = 1 → Does (.mctpMessage (tr :: via) req) s fun t =>
         tabGet t.mgmt.eids tr = some (byteAt req 4) ∧ (∀ k, k ≠ tr → tabGet t.mgmt.eids k = tabGet s.mgmt.eids k) ∧
         (∃ m, t.emit = [.mi m]) ∧ Only [.mgmt, .emit] s t) ∧
       (byteAt req 0 % 128 = 4 → bits (byteAt req 1) 6 3 = 1 →
         let r := (miCommand (byteAt req 4) (fieldAt req 8 4) (fieldAt req 12 4) s).1
         Does (.mctpMessage (tr :: via) req) s fun t =>
           MiSends s t (miResponse r.1 r.2.1 r.2.2) ∧ Only [.mgmt, .emit] s t) ∧
       (byteAt req 0 % 128 ∉ [0, 4, 5, 6] → Does (.mctpMessage (tr :: via) req) s fun t =>
         t.mgmt = { s.mgmt with discarded := s.mgmt.discarded + 1 } ∧ t.emit = [] ∧ Only [.mgmt, .recd, .emit] s t)) ∧
     ((∃ k ∈ via, k ≠ tr) → exec (.mctpMessage (tr :: via) req) s = .next { s with emit := [] }) ∧
     (s.mgmt.running = false → s.power.flush = none → s.power.boot = .running → (∀ k ∈ via, k = tr) →
       Does (.mctpMessage (tr :: via) req) s fun t => t.emit = [] ∧ Only [.mgmt, .emit] s t ∧
         t.mgmt = (if s.mgmt.held.length < 16 then { s.mgmt with held := s.mgmt.held ++ [(tr, req)] } else s.mgmt)))

/-- R453, R456, R458: Pause keeps responses until Resume, Abort clears the slot, Get State and Replay answer from it;
each block of the Basic Management Command answers with its own bytes while AON is powered; the layouts are the
model's (log 22). A watchdog stops the management core or one control core, whose queues move to a running core, until
its restart is done. Completes: controlPrimitivePause, controlPrimitiveResume, controlPrimitiveAbort,
controlPrimitiveGetState, controlPrimitiveReplay, basicManagementStatus, basicManagementVendorSerial,
basicManagementFaultCode, basicManagementFireDoorStatus, mgmtWatchdogExpiry, mgmtRestartDone,
controlCoreWatchdogExpiry, controlCoreRestartDone. -/
def Obligations.PrimitivesBlocksAndWatchdogs : Prop :=
  ∀ s : State,
    (∀ req, miOpen s = true →
      (Does (.controlPrimitivePause req) s fun t => t.mgmt = { s.mgmt with slot := { s.mgmt.slot with paused := true } } ∧
        t.emit = [.mi (b1 0 ++ b1 (byteAt req 1) ++ le 1 2)] ∧ Only [.mgmt, .emit] s t) ∧
      (Does (.controlPrimitiveResume req) s fun t =>
        t.mgmt = { s.mgmt with slot := { s.mgmt.slot with paused := false, busy := false } } ∧
        t.emit = .mi (b1 0 ++ b1 (byteAt req 1) ++ le 0 2) :: (if s.mgmt.slot.busy then [.mi s.mgmt.slot.last] else []) ∧
        Only [.mgmt, .emit] s t) ∧
      (Does (.controlPrimitiveAbort req) s fun t =>
        t.mgmt = { s.mgmt with slot := { paused := false, last := [], busy := false } } ∧
        t.emit = [.mi (b1 0 ++ b1 (byteAt req 1) ++ le 0 2)] ∧ Only [.mgmt, .emit] s t) ∧
      (exec (.controlPrimitiveGetState req) s = .next { s with emit := [.mi (b1 0 ++ b1 (byteAt req 1) ++
        le (flag s.mgmt.slot.busy 3 + flag s.mgmt.slot.paused (2 ^ 15)) 2)] }) ∧
      (exec (.controlPrimitiveReplay req) s = .next { s with
        emit := .mi (b1 0 ++ b1 (byteAt req 1) ++ le (flag (!s.mgmt.slot.last.isEmpty) 1) 2) ::
          (if s.mgmt.slot.last.isEmpty then [] else [.mi s.mgmt.slot.last]) })) ∧
    (s.power.boot ≠ .off →
      exec .basicManagementStatus s = .next { s with emit := [.basic (basicStatus s)] } ∧
      exec .basicManagementVendorSerial s = .next { s with
        emit := [.basic (b1 22 ++ deviceBytes 0 2 ++ deviceBytes 4 20)] } ∧
      exec .basicManagementFaultCode s = .next { s with
        emit := [.basic [BitVec.ofNat 8 (s.power.faultKind * 16 + s.power.faultRail % 16),
          BitVec.ofNat 8 (s.power.faultAttempts % 4)]] } ∧
      exec .basicManagementFireDoorStatus s = .next { s with
        emit := [.basic [BitVec.ofNat 8 (fireCode s.therm.fire + flag s.therm.cooling 4),
          BitVec.ofNat 8 (s.therm.fireZone % 4 + s.therm.fireCause % 4 * 4 + min 15 s.therm.trips * 16)]] }) ∧
    (s.power.boot = .running →
      (s.mgmt.running = true → s.fw.hold = none → fired s.mgmt.served 250 (aonClk s) = true →
        Does .mgmtWatchdogExpiry s fun t =>
          t.mgmt = { s.mgmt with running := false, served := aonClk s, restarts := s.mgmt.restarts + 1 } ∧
          Only [.mgmt, .recd, .emit] s t) ∧
      (s.mgmt.running = true → fired s.mgmt.served 250 (aonClk s) = false →
        exec .mgmtWatchdogExpiry s = .next { s with emit := [] }) ∧
      (s.mgmt.running = false → Does .mgmtRestartDone s fun t =>
        t.mgmt.running = true ∧ t.mgmt.served = aonClk s ∧ t.mgmt.held = []) ∧
      (∀ k, k ≤ 15 → coreRunning s k = true → s.fw.hold = none → fired (coreServed s k) 250 (clk s) = false →
        exec (.controlCoreWatchdogExpiry k) s = .next { s with emit := [] }) ∧
      (∀ k, k ≤ 15 → coreRunning s k = true → s.fw.hold = none → fired (coreServed s k) 250 (clk s) = true → Does (.controlCoreWatchdogExpiry k) s fun t =>
        coreRunning t k = false ∧ (∀ j, j ≠ k → coreRunning t j = coreRunning s j) ∧ t.host.items = s.host.items ∧
        (∀ j, j ≤ 15 → j ≠ k → coreRunning s j = true → ∀ fn c sq q, ctlOf t fn = some c → tabGet c.sqs sq = some q → sq ≠ 0 →
          q.shard ≠ k) ∧ Only [.host, .recd, .emit] s t) ∧
      (∀ k, k ≤ 15 → coreRunning s k = false → Does (.controlCoreRestartDone k) s fun t =>
        coreRunning t k = true ∧ (∀ j, j ≠ k → coreRunning t j = coreRunning s j) ∧ t.host.items = s.host.items ∧
        coreServed t k = clk s ∧ Only [.mbx, .host, .emit] s t))

/-- R459 to R462, R465, R468, R469, R472, R516: a sample of a diode or of a remote input is kept, breaks it for good
where it is out of range, and raises a region's step at once; two other diodes of the zone that vote trip the fire
door; a rail is kept and an Alert Response Address read releases ALERT_N. Completes: diodeSample, remoteSample,
railMonitorSample, alertResponseRead. -/
def Obligations.SensorsAreSampled : Prop :=
  ∀ s : State, s.power.boot = .running →
    (∀ d code v x, d ≤ 15 → tabGet s.therm.diodes d = some x → x.broken = false → x.code ≠ code →
      (sensorBad code v 1200 = false → Does (.diodeSample d code v) s fun t =>
        (∃ y, tabGet t.therm.diodes d = some y ∧ y.ring = (v :: x.ring).take 1000 ∧ y.code = code ∧ y.broken = false ∧
          y.max = max x.max v ∧ y.min = min x.min v) ∧
        ∀ e, e ≠ d → tabGet t.therm.diodes e = tabGet s.therm.diodes e) ∧
      (sensorBad code v 1200 = true → Does (.diodeSample d code v) s fun t =>
        ∃ y, tabGet t.therm.diodes d = some y ∧ y.broken = true) ∧
      (s.therm.fire = .normal → 2 ≤ ((voters s (zoneOfDiode d)).filter fun e => decide (e ≠ d)).length →
        Does (.diodeSample d code v) s fun t => t.therm.fire = .cooling ∧ t.therm.fireZone = zoneOfDiode d ∧
          t.therm.trips = s.therm.trips + 1 ∧ t.power.flush.isSome = true)) ∧
    (∀ r code v x, r ≤ 3 → tabGet s.therm.remotes r = some x → x.broken = false → x.code ≠ code →
      s.mgmt.running = true → s.power.flush = none →
      (sensorBad code v 1000 = false → Does (.remoteSample r code v) s fun t =>
        ∃ y, tabGet t.therm.remotes r = some y ∧ y.value = v ∧ y.code = code ∧ y.broken = false ∧
          (x.step ≤ regionStep (remoteLimit s r) v → y.step = regionStep (remoteLimit s r) v) ∧
          (regionStep (remoteLimit s r) v < x.step → y.step =
            if regionStep (remoteLimit s r) (v + 24) < x.step ∧ x.fallFrom + 500000 ≤ aonClk s then x.step - 1 else x.step)) ∧
      (sensorBad code v 1000 = true → Does (.remoteSample r code v) s fun t =>
        ∃ y, tabGet t.therm.remotes r = some y ∧ y.broken = true ∧ y.step = max 2 x.step)) ∧
    (∀ rail mv, (1 ≤ rail ∧ rail ≤ 12 → Does (.railMonitorSample rail mv) s fun t =>
        tabGet t.therm.rails rail = some mv ∧ (∀ k, k ≠ rail → tabGet t.therm.rails k = tabGet s.therm.rails k) ∧
        Only [.therm, .recd, .emit] s t) ∧
      (rail = 13 → Does (.railMonitorSample rail mv) s fun t => t.therm = { s.therm with holdupMv := mv } ∧
        Only [.therm, .recd, .emit] s t)) ∧
    (s.pins.alert = true → exec .alertResponseRead s = .next { s with
      pins := { s.pins with alert := false }, emit := [.basic [0x6A]] })

/-- R310: the code of DRAM and of the SRAMs is linear and all-zero data has check bits of zero; a stored word is read
back as it is, any error of one or two of its 80 bits is corrected and counted, and any error of three is detected,
whatever the columns that the spec does not publish (log 58). -/
def Obligations.DectedCorrectsTwoAndDetectsThree : Prop :=
  checkOf 0 = 0 ∧ (∀ a b : Quad, checkOf (a ^^^ b) = checkOf a ^^^ checkOf b) ∧
  ∀ d : Quad, dataOf (encode80 d) = d ∧ decode80 (encode80 d) = some (0, encode80 d) ∧
    ∀ i, i < 80 → decode80 (flipBit (encode80 d) i) = some (1, encode80 d) ∧
      ∀ j, j < 80 → j ≠ i → decode80 (flipBit (flipBit (encode80 d) i) j) = some (2, encode80 d) ∧
        ∀ k, k < 80 → k ≠ i → k ≠ j → decode80 (flipBit (flipBit (flipBit (encode80 d) i) j) k) = none
end

