-- ==== Sys2Proof/Laws/Only.lean ====
section
/-! SUPPORT. How `Only` composes: reflexivity, composition, one lemma per field written, and the shared
combinators. Every operation's own lemma, under Laws/Only, is proved from these. -/

namespace Sys2Proof.Machine

theorem Part.same_refl (p : Part) (s : State) : p.same s s := by cases p <;> rfl

theorem Part.same_trans {p : Part} {s t u : State} (h : p.same s t) (k : p.same t u) : p.same s u := by
  cases p <;> exact Eq.trans k h

theorem only_refl (ps : List Part) (s : State) : Only ps s s := ⟨fun p _ => p.same_refl s⟩

theorem Only.trans {ps : List Part} {s t u : State} (h : Only ps s t) (k : Only ps t u) : Only ps s u :=
  ⟨fun p hp => Part.same_trans (h.same p hp) (k.same p hp)⟩

theorem Only.mono {qs ps : List Part} {s t : State} (hp : qs ⊆ ps) (h : Only qs s t) : Only ps s t :=
  ⟨fun p hn => h.same p fun hq => hn (hp hq)⟩

/-- What an operation does from any state, it does at the end of a chain of operations. -/
theorem Only.via {qs ps : List Part} {s0 s t : State} (hp : qs ⊆ ps) (h : Only ps s0 s) (k : Only qs s t) :
    Only ps s0 t := h.trans (k.mono hp)

theorem only_frame {ps : List Part} {s0 s : State} (v) (h : Only ps s0 s) (hp : [Part.frame] ⊆ ps) :
    Only ps s0 { s with frame := v } :=
  Only.via hp h ⟨fun p hn => by cases p <;> first | rfl | simp at hn⟩

theorem only_mbx {ps : List Part} {s0 s : State} (v) (h : Only ps s0 s) (hp : [Part.mbx] ⊆ ps) :
    Only ps s0 { s with mbx := v } :=
  Only.via hp h ⟨fun p hn => by cases p <;> first | rfl | simp at hn⟩

theorem only_host {ps : List Part} {s0 s : State} (v) (h : Only ps s0 s) (hp : [Part.host] ⊆ ps) :
    Only ps s0 { s with host := v } :=
  Only.via hp h ⟨fun p hn => by cases p <;> first | rfl | simp at hn⟩

theorem only_zone {ps : List Part} {s0 s : State} (v) (h : Only ps s0 s) (hp : [Part.zone] ⊆ ps) :
    Only ps s0 { s with zone := v } :=
  Only.via hp h ⟨fun p hn => by cases p <;> first | rfl | simp at hn⟩

theorem only_media {ps : List Part} {s0 s : State} (v) (h : Only ps s0 s) (hp : [Part.media] ⊆ ps) :
    Only ps s0 { s with media := v } :=
  Only.via hp h ⟨fun p hn => by cases p <;> first | rfl | simp at hn⟩

theorem only_flash {ps : List Part} {s0 s : State} (v) (h : Only ps s0 s) (hp : [Part.flash] ⊆ ps) :
    Only ps s0 { s with flash := v } :=
  Only.via hp h ⟨fun p hn => by cases p <;> first | rfl | simp at hn⟩

theorem only_inst {ps : List Part} {s0 s : State} (v) (h : Only ps s0 s) (hp : [Part.inst] ⊆ ps) :
    Only ps s0 { s with inst := v } :=
  Only.via hp h ⟨fun p hn => by cases p <;> first | rfl | simp at hn⟩

theorem only_prot {ps : List Part} {s0 s : State} (v) (h : Only ps s0 s) (hp : [Part.prot] ⊆ ps) :
    Only ps s0 { s with prot := v } :=
  Only.via hp h ⟨fun p hn => by cases p <;> first | rfl | simp at hn⟩

theorem only_ecc {ps : List Part} {s0 s : State} (v) (h : Only ps s0 s) (hp : [Part.ecc] ⊆ ps) :
    Only ps s0 { s with ecc := v } :=
  Only.via hp h ⟨fun p hn => by cases p <;> first | rfl | simp at hn⟩

theorem only_fw {ps : List Part} {s0 s : State} (v) (h : Only ps s0 s) (hp : [Part.fw] ⊆ ps) :
    Only ps s0 { s with fw := v } :=
  Only.via hp h ⟨fun p hn => by cases p <;> first | rfl | simp at hn⟩

theorem only_power {ps : List Part} {s0 s : State} (v) (h : Only ps s0 s) (hp : [Part.power] ⊆ ps) :
    Only ps s0 { s with power := v } :=
  Only.via hp h ⟨fun p hn => by cases p <;> first | rfl | simp at hn⟩

theorem only_therm {ps : List Part} {s0 s : State} (v) (h : Only ps s0 s) (hp : [Part.therm] ⊆ ps) :
    Only ps s0 { s with therm := v } :=
  Only.via hp h ⟨fun p hn => by cases p <;> first | rfl | simp at hn⟩

theorem only_mgmt {ps : List Part} {s0 s : State} (v) (h : Only ps s0 s) (hp : [Part.mgmt] ⊆ ps) :
    Only ps s0 { s with mgmt := v } :=
  Only.via hp h ⟨fun p hn => by cases p <;> first | rfl | simp at hn⟩

theorem only_pins {ps : List Part} {s0 s : State} (v) (h : Only ps s0 s) (hp : [Part.pins] ⊆ ps) :
    Only ps s0 { s with pins := v } :=
  Only.via hp h ⟨fun p hn => by cases p <;> first | rfl | simp at hn⟩

theorem only_recd {ps : List Part} {s0 s : State} (v) (h : Only ps s0 s) (hp : [Part.recd] ⊆ ps) :
    Only ps s0 { s with recd := v } :=
  Only.via hp h ⟨fun p hn => by cases p <;> first | rfl | simp at hn⟩

theorem only_emit {ps : List Part} {s0 s : State} (v) (h : Only ps s0 s) (hp : [Part.emit] ⊆ ps) :
    Only ps s0 { s with emit := v } :=
  Only.via hp h ⟨fun p hn => by cases p <;> first | rfl | simp at hn⟩

theorem only_free {ps : List Part} {s0 s : State} (v) (h : Only ps s0 s) (hp : [Part.free] ⊆ ps) :
    Only ps s0 { s with free := v } :=
  Only.via hp h ⟨fun p hn => by cases p <;> first | rfl | simp at hn⟩

theorem only_pending {ps : List Part} {s0 s : State} (v) (h : Only ps s0 s) (hp : [Part.pending] ⊆ ps) :
    Only ps s0 { s with pending := v } :=
  Only.via hp h ⟨fun p hn => by cases p <;> first | rfl | simp at hn⟩

/-- An intermediate state stands for whatever reaches it. -/
theorem only_cut {ps : List Part} {s0 t : State} (s : State) (h : Only ps s0 s)
    (k : Only ps s0 s → Only ps s0 t) : Only ps s0 t := k h

/-- An operation that may not be possible: where it is, it changes the groups `ps` only. -/
structure OnlyOpt (ps : List Part) (s0 : State) (o : Option State) : Prop where
  only : ∀ t, o = some t → Only ps s0 t

theorem onlyOpt_none (ps : List Part) (s0 : State) : OnlyOpt ps s0 none := ⟨fun _ h => by simp at h⟩

theorem onlyOpt_some {ps : List Part} {s0 s : State} (h : Only ps s0 s) : OnlyOpt ps s0 (some s) :=
  ⟨fun _ e => by cases e; exact h⟩

theorem OnlyOpt.via {qs ps : List Part} {s0 s : State} {o : Option State} (hp : qs ⊆ ps) (h : Only ps s0 s)
    (k : OnlyOpt qs s o) : OnlyOpt ps s0 o := ⟨fun t e => h.trans ((k.only t e).mono hp)⟩

theorem only_getD {ps : List Part} {s0 s : State} {o : Option State} (k : OnlyOpt ps s0 o) (h : Only ps s0 s) :
    Only ps s0 (o.getD s) := by
  cases o with
  | none => exact h
  | some t => exact k.only t rfl

theorem only_id {ps : List Part} {s0 s : State} (h : Only ps s0 s) : Only ps s0 (id s) := h

theorem only_when {ps : List Part} {s0 s : State} (c : Bool) (f : State → State) (h : Only ps s0 s)
    (hf : ∀ t, Only ps s0 t → Only ps s0 (f t)) : Only ps s0 (when c f s) := by
  unfold when; split
  · exact hf s h
  · exact h

theorem only_forEach {α : Type} {ps : List Part} {s0 : State} (l : List α) (f : α → State → State) (s : State)
    (h : Only ps s0 s) (hf : ∀ a t, Only ps s0 t → Only ps s0 (f a t)) : Only ps s0 (forEach l f s) := by
  unfold forEach
  induction l generalizing s with
  | nil => exact h
  | cons a l ih => exact ih (f a s) (hf a s h)

theorem only_foldl {α : Type} {ps : List Part} {s0 : State} (l : List α) (f : State → α → State) (s : State)
    (h : Only ps s0 s) (hf : ∀ t a, Only ps s0 t → Only ps s0 (f t a)) : Only ps s0 (l.foldl f s) := by
  induction l generalizing s with
  | nil => exact h
  | cons a l ih => exact ih (f s a) (hf s a h)

end Sys2Proof.Machine
end

