-- ==== Sys2Proof/Laws/Only/Ops.lean ====
section
/-! SUPPORT. Which groups of state each operation of Machine/Ops.lean can change. -/

set_option linter.tactic.unusedName false

namespace Sys2Proof.Machine

theorem send_only {ps : List Part} {s0 : State} (x0 : Emission) (s : State)
    (h : Only ps s0 s) (hp : [.emit] ⊆ ps) : Only ps s0 (send x0 s) :=
  Only.via hp h (by
    unfold send
    repeat' first
      | (with_reducible assumption)
      | (intro)
      | (with_reducible exact only_refl _ _)
      | (refine only_emit _ ?_ (by decide)))

theorem sends_only {ps : List Part} {s0 : State} (es : List Emission) (s : State)
    (h : Only ps s0 s) (hp : [.emit] ⊆ ps) : Only ps s0 (sends es s) :=
  Only.via hp h (by
    unfold sends
    repeat' first
      | (with_reducible assumption)
      | (intro)
      | (with_reducible exact only_refl _ _)
      | (refine only_emit _ ?_ (by decide)))

theorem drawNat_only {ps : List Part} {s0 : State}  {s : State}
    (h : Only ps s0 s) (hp : [.free] ⊆ ps) : Only ps s0 (drawNat s).2 :=
  Only.via hp h (by
    unfold drawNat
    repeat' first
      | (with_reducible assumption)
      | (intro)
      | (with_reducible exact only_refl _ _)
      | (refine only_free _ ?_ (by decide)))

theorem drawNat_only2 {ps : List Part} {s0 : State}  {s t : State} {v}
    (h : Only ps s0 s) (hp : [.free] ⊆ ps) (e : drawNat s = (v, t)) : Only ps s0 t := by
  have k := drawNat_only  h hp
  rw [e] at k; exact k

theorem drawInt_only {ps : List Part} {s0 : State} (lo : Int) (hi : Int) {s : State}
    (h : Only ps s0 s) (hp : [.free] ⊆ ps) : Only ps s0 (drawInt lo hi s).2 :=
  Only.via hp h (by
    unfold drawInt
    repeat' first
      | (with_reducible assumption)
      | (intro)
      | (with_reducible exact only_refl _ _)
      | (refine only_free _ ?_ (by decide)))

theorem drawInt_only2 {ps : List Part} {s0 : State} (lo : Int) (hi : Int) {s t : State} {v}
    (h : Only ps s0 s) (hp : [.free] ⊆ ps) (e : drawInt lo hi s = (v, t)) : Only ps s0 t := by
  have k := drawInt_only lo hi h hp
  rw [e] at k; exact k

end Sys2Proof.Machine
end

