-- ==== Sys2Proof/Laws/Only/RecOps.lean ====
section
/-! SUPPORT. Which groups of state each operation of Machine/RecOps.lean can change. -/

set_option linter.tactic.unusedName false

namespace Sys2Proof.Machine

theorem updRec_only {ps : List Part} {s0 : State} (x0 : Record → Record) (s : State)
    (h : Only ps s0 s) (hp : [.recd] ⊆ ps) : Only ps s0 (updRec x0 s) :=
  Only.via hp h (by
    unfold updRec
    repeat' first
      | (with_reducible assumption)
      | (intro)
      | (with_reducible exact only_refl _ _)
      | (refine only_recd _ ?_ (by decide)))

theorem callWrite_only {ps : List Part} {s0 : State}  (s : State)
    (h : Only ps s0 s) (hp : [.recd] ⊆ ps) : Only ps s0 (callWrite s) :=
  Only.via hp h (by
    unfold callWrite
    repeat' first
      | (with_reducible assumption)
      | (intro)
      | (with_reducible exact only_refl _ _)
      | (refine only_recd _ ?_ (by decide)))

theorem recEvent_only {ps : List Part} {s0 : State} (code : Nat) (s : State)
    (h : Only ps s0 s) (hp : [.recd] ⊆ ps) : Only ps s0 (recEvent code s) :=
  Only.via hp h (by
    unfold recEvent
    repeat' first
      | (with_reducible assumption)
      | (with_reducible refine callWrite_only _ ?_ (by decide))
      | (with_reducible refine updRec_only _ _ ?_ (by decide))
      | (with_reducible refine only_when _ _ ?_ ?_)
      | (intro)
      | (with_reducible exact only_refl _ _))

theorem recDataErr_only {ps : List Part} {s0 : State} (i : Nat) (n : Nat) (s : State)
    (h : Only ps s0 s) (hp : [.recd] ⊆ ps) : Only ps s0 (recDataErr i n s) :=
  Only.via hp h (by
    unfold recDataErr
    repeat' first
      | (with_reducible assumption)
      | (with_reducible refine updRec_only _ _ ?_ (by decide))
      | (intro)
      | (with_reducible exact only_refl _ _))

theorem recHist_only {ps : List Part} {s0 : State} (x0 : Nat) (x1 : Nat) (s : State)
    (h : Only ps s0 s) (hp : [.recd] ⊆ ps) : Only ps s0 (recHist x0 x1 s) :=
  Only.via hp h (by
    unfold recHist
    repeat' first
      | (with_reducible assumption)
      | (with_reducible refine updRec_only _ _ ?_ (by decide))
      | (intro)
      | (with_reducible exact only_refl _ _))

end Sys2Proof.Machine
end

