-- ==== Sys2Proof/Laws/Only/QueueOps.lean ====
section
/-! SUPPORT. Which groups of state each operation of Machine/QueueOps.lean can change. -/

set_option linter.tactic.unusedName false

namespace Sys2Proof.Machine

theorem noteTie_only {ps : List Part} {s0 : State} (a : Nat) (l : Nat) (s : State)
    (h : Only ps s0 s) (hp : [.frame] ⊆ ps) : Only ps s0 (noteTie a l s) :=
  Only.via hp h (by
    unfold noteTie
    repeat' first
      | (with_reducible assumption)
      | (with_reducible refine only_when _ _ ?_ ?_)
      | (intro)
      | (with_reducible exact only_refl _ _)
      | (refine only_frame _ ?_ (by decide)))

theorem updCtl_only {ps : List Part} {s0 : State} (fn : Nat) (x1 : Ctl → Ctl) (s : State)
    (h : Only ps s0 s) (hp : [.host] ⊆ ps) : Only ps s0 (updCtl fn x1 s) :=
  Only.via hp h (by
    unfold updCtl
    repeat' first
      | (with_reducible assumption)
      | (intro)
      | (with_reducible exact only_refl _ _)
      | (refine only_host _ ?_ (by decide)))

theorem meter_only {ps : List Part} {s0 : State} (fn : Nat) (x1 : Meter → Meter) (s : State)
    (h : Only ps s0 s) (hp : [.inst] ⊆ ps) : Only ps s0 (meter fn x1 s) :=
  Only.via hp h (by
    unfold meter
    repeat' first
      | (with_reducible assumption)
      | (intro)
      | (with_reducible exact only_refl _ _)
      | (refine only_inst _ ?_ (by decide)))

theorem interrupt_only {ps : List Part} {s0 : State} (fn : Nat) (vector : Nat) (s : State)
    (h : Only ps s0 s) (hp : [.emit] ⊆ ps) : Only ps s0 (interrupt fn vector s) :=
  Only.via hp h (by
    unfold interrupt
    repeat' first
      | (with_reducible assumption)
      | (with_reducible refine send_only _ _ ?_ (by decide))
      | (intro)
      | (with_reducible exact only_refl _ _))

theorem signal_only {ps : List Part} {s0 : State} (fn : Nat) (cq : Nat) (vector : Nat) (s : State)
    (h : Only ps s0 s) (hp : [.host, .emit] ⊆ ps) : Only ps s0 (signal fn cq vector s) :=
  Only.via hp h (by
    unfold signal
    repeat' first
      | (with_reducible assumption)
      | (with_reducible refine interrupt_only _ _ _ ?_ (by decide))
      | (with_reducible refine updCtl_only _ _ _ ?_ (by decide))
      | (intro)
      | (extract_lets +onlyGivenNames s1; refine only_cut s1 ?_ ?_; unfold s1; clear s1; rotate_left; intro hs1; clear_value s1; rotate_right)
      | (extract_lets +onlyGivenNames v1)
      | (split)
      | (with_reducible exact only_refl _ _))

theorem postCqe_only {ps : List Part} {s0 : State} (fn : Nat) (cq : Nat) (x2 : Cqe) (s : State)
    (h : Only ps s0 s) (hp : [.host, .emit] ⊆ ps) : Only ps s0 (postCqe fn cq x2 s) :=
  Only.via hp h (by
    unfold postCqe
    repeat' first
      | (with_reducible assumption)
      | (with_reducible refine signal_only _ _ _ _ ?_ (by decide))
      | (with_reducible refine updCtl_only _ _ _ ?_ (by decide))
      | (with_reducible refine only_when _ _ ?_ ?_)
      | (intro)
      | (extract_lets +onlyGivenNames s1; refine only_cut s1 ?_ ?_; unfold s1; clear s1; rotate_left; intro hs1; clear_value s1; rotate_right)
      | (extract_lets +onlyGivenNames v1)
      | (split)
      | (with_reducible exact only_refl _ _))

theorem updItems_only {ps : List Part} {s0 : State} (x0 : List Item → List Item) (s : State)
    (h : Only ps s0 s) (hp : [.host] ⊆ ps) : Only ps s0 (updItems x0 s) :=
  Only.via hp h (by
    unfold updItems
    repeat' first
      | (with_reducible assumption)
      | (intro)
      | (with_reducible exact only_refl _ _)
      | (refine only_host _ ?_ (by decide)))

theorem updItem_only {ps : List Part} {s0 : State} (n : Nat) (x1 : Item → Item) (s : State)
    (h : Only ps s0 s) (hp : [.host] ⊆ ps) : Only ps s0 (updItem n x1 s) :=
  Only.via hp h (by
    unfold updItem
    repeat' first
      | (with_reducible assumption)
      | (with_reducible refine updItems_only _ _ ?_ (by decide))
      | (intro)
      | (split)
      | (with_reducible exact only_refl _ _))

theorem dropItem_only {ps : List Part} {s0 : State} (n : Nat) (s : State)
    (h : Only ps s0 s) (hp : [.host] ⊆ ps) : Only ps s0 (dropItem n s) :=
  Only.via hp h (by
    unfold dropItem
    repeat' first
      | (with_reducible assumption)
      | (with_reducible refine updItems_only _ _ ?_ (by decide))
      | (intro)
      | (with_reducible exact only_refl _ _))

theorem latch_only {ps : List Part} {s0 : State} (n : Nat) (st : Status) (dw0 : Word) (dw1 : Word) (s : State)
    (h : Only ps s0 s) (hp : [.host] ⊆ ps) : Only ps s0 (latch n st dw0 dw1 s) :=
  Only.via hp h (by
    unfold latch
    repeat' first
      | (with_reducible assumption)
      | (with_reducible refine updItem_only _ _ _ ?_ (by decide))
      | (intro)
      | (split)
      | (with_reducible exact only_refl _ _))

theorem countPosted_only {ps : List Part} {s0 : State} (it : Item) (s : State)
    (h : Only ps s0 s) (hp : [.frame, .host, .inst, .recd] ⊆ ps) : Only ps s0 (countPosted it s) :=
  Only.via hp h (by
    unfold countPosted
    repeat' first
      | (with_reducible assumption)
      | (with_reducible refine recHist_only _ _ _ ?_ (by decide))
      | (with_reducible refine meter_only _ _ _ ?_ (by decide))
      | (with_reducible refine updCtl_only _ _ _ ?_ (by decide))
      | (with_reducible refine only_when _ _ ?_ ?_)
      | (intro)
      | (extract_lets +onlyGivenNames s1; refine only_cut s1 ?_ ?_; unfold s1; clear s1; rotate_left; intro hs1; clear_value s1; rotate_right)
      | (extract_lets +onlyGivenNames v1)
      | (with_reducible exact only_refl _ _)
      | (refine only_frame _ ?_ (by decide)))

theorem stampSq_only {ps : List Part} {s0 : State} (it : Item) (s : State)
    (h : Only ps s0 s) (hp : [.host] ⊆ ps) : Only ps s0 (stampSq it s) :=
  Only.via hp h (by
    unfold stampSq
    repeat' first
      | (with_reducible assumption)
      | (with_reducible refine updCtl_only _ _ _ ?_ (by decide))
      | (intro)
      | (extract_lets +onlyGivenNames s1; refine only_cut s1 ?_ ?_; unfold s1; clear s1; rotate_left; intro hs1; clear_value s1; rotate_right)
      | (extract_lets +onlyGivenNames v1)
      | (split)
      | (with_reducible exact only_refl _ _))

theorem postItem_only {ps : List Part} {s0 : State} (n : Nat) (s : State)
    (h : Only ps s0 s) (hp : [.frame, .host, .inst, .recd, .emit] ⊆ ps) : Only ps s0 (postItem n s) :=
  Only.via hp h (by
    unfold postItem
    repeat' first
      | (with_reducible assumption)
      | (with_reducible refine dropItem_only _ _ ?_ (by decide))
      | (with_reducible refine stampSq_only _ _ ?_ (by decide))
      | (with_reducible refine updCtl_only _ _ _ ?_ (by decide))
      | (with_reducible refine countPosted_only _ _ ?_ (by decide))
      | (with_reducible refine postCqe_only _ _ _ _ ?_ (by decide))
      | (with_reducible refine only_when _ _ ?_ ?_)
      | (intro)
      | (extract_lets +onlyGivenNames s1; refine only_cut s1 ?_ ?_; unfold s1; clear s1; rotate_left; intro hs1; clear_value s1; rotate_right)
      | (extract_lets +onlyGivenNames v1)
      | (split)
      | (with_reducible exact only_refl _ _))

theorem finish_only {ps : List Part} {s0 : State} (n : Nat) (st : Status) (dw0 : Word) (dw1 : Word) (s : State)
    (h : Only ps s0 s) (hp : [.frame, .host, .inst, .recd, .emit] ⊆ ps) : Only ps s0 (finish n st dw0 dw1 s) :=
  Only.via hp h (by
    unfold finish
    repeat' first
      | (with_reducible assumption)
      | (with_reducible refine postItem_only _ _ ?_ (by decide))
      | (with_reducible refine latch_only _ _ _ _ _ ?_ (by decide))
      | (intro)
      | (with_reducible exact only_refl _ _))

theorem finishOk_only {ps : List Part} {s0 : State} (n : Nat) (s : State)
    (h : Only ps s0 s) (hp : [.frame, .host, .inst, .recd, .emit] ⊆ ps) : Only ps s0 (finishOk n s) :=
  Only.via hp h (by
    unfold finishOk
    repeat' first
      | (with_reducible assumption)
      | (with_reducible refine finish_only _ _ _ _ _ ?_ (by decide))
      | (intro)
      | (with_reducible exact only_refl _ _))

theorem finishBad_only {ps : List Part} {s0 : State} (n : Nat) (st : Status) (s : State)
    (h : Only ps s0 s) (hp : [.frame, .host, .inst, .recd, .emit] ⊆ ps) : Only ps s0 (finishBad n st s) :=
  Only.via hp h (by
    unfold finishBad
    repeat' first
      | (with_reducible assumption)
      | (with_reducible refine finish_only _ _ _ _ _ ?_ (by decide))
      | (intro)
      | (with_reducible exact only_refl _ _))

theorem takeUp_only {ps : List Part} {s0 : State} (seq : Nat) (s : State)
    (h : Only ps s0 s) (hp : [.host] ⊆ ps) : Only ps s0 (takeUp seq s) :=
  Only.via hp h (by
    unfold takeUp
    repeat' first
      | (with_reducible assumption)
      | (intro)
      | (with_reducible exact only_refl _ _)
      | (refine only_host _ ?_ (by decide)))

theorem reportOne_only {ps : List Part} {s0 : State} (fn : Nat) (s : State)
    (h : Only ps s0 s) (hp : [.frame, .host, .inst, .recd, .emit] ⊆ ps) : Only ps s0 (reportOne fn s) :=
  Only.via hp h (by
    unfold reportOne
    repeat' first
      | (with_reducible assumption)
      | (with_reducible refine updCtl_only _ _ _ ?_ (by decide))
      | (with_reducible refine finish_only _ _ _ _ _ ?_ (by decide))
      | (intro)
      | (extract_lets +onlyGivenNames s1; refine only_cut s1 ?_ ?_; unfold s1; clear s1; rotate_left; intro hs1; clear_value s1; rotate_right)
      | (extract_lets +onlyGivenNames v1)
      | (split)
      | (with_reducible exact only_refl _ _))

theorem reportEvents_only {ps : List Part} {s0 : State} (fn : Nat) (x1 : Nat) (s : State)
    (h : Only ps s0 s) (hp : [.frame, .host, .inst, .recd, .emit] ⊆ ps) : Only ps s0 (reportEvents fn x1 s) :=
  Only.via hp h (by
    clear h hp
    fun_induction reportEvents
    repeat' first
      | (with_reducible assumption)
      | (with_reducible refine reportOne_only _ _ ?_ (by decide))
      | (with_reducible refine Only.trans ?_ (by with_reducible assumption))
      | (intro)
      | (with_reducible exact only_refl _ _))

theorem notify_only {ps : List Part} {s0 : State} (fn : Nat) (en : Word → Bool) (x2 : Event) (s : State)
    (h : Only ps s0 s) (hp : [.frame, .host, .inst, .recd, .emit] ⊆ ps) : Only ps s0 (notify fn en x2 s) :=
  Only.via hp h (by
    unfold notify
    repeat' first
      | (with_reducible assumption)
      | (with_reducible refine reportEvents_only _ _ _ ?_ (by decide))
      | (with_reducible refine updCtl_only _ _ _ ?_ (by decide))
      | (intro)
      | (split)
      | (with_reducible exact only_refl _ _))

theorem notifyDoorbell_only {ps : List Part} {s0 : State} (fn : Nat) (s : State)
    (h : Only ps s0 s) (hp : [.frame, .host, .inst, .recd, .emit] ⊆ ps) : Only ps s0 (notifyDoorbell fn s) :=
  Only.via hp h (by
    unfold notifyDoorbell
    repeat' first
      | (with_reducible assumption)
      | (with_reducible refine notify_only _ _ _ _ ?_ (by decide))
      | (with_reducible refine only_when _ _ ?_ ?_)
      | (intro)
      | (split)
      | (with_reducible exact only_refl _ _))

theorem notifyNs_only {ps : List Part} {s0 : State} (fn : Nat) (nsid : Nat) (s : State)
    (h : Only ps s0 s) (hp : [.frame, .host, .inst, .recd, .emit] ⊆ ps) : Only ps s0 (notifyNs fn nsid s) :=
  Only.via hp h (by
    unfold notifyNs
    repeat' first
      | (with_reducible assumption)
      | (with_reducible refine notify_only _ _ _ _ ?_ (by decide))
      | (with_reducible refine updCtl_only _ _ _ ?_ (by decide))
      | (intro)
      | (split)
      | (with_reducible exact only_refl _ _))

theorem notifyActivation_only {ps : List Part} {s0 : State} (fn : Nat) (s : State)
    (h : Only ps s0 s) (hp : [.frame, .host, .inst, .recd, .emit] ⊆ ps) : Only ps s0 (notifyActivation fn s) :=
  Only.via hp h (by
    unfold notifyActivation
    repeat' first
      | (with_reducible assumption)
      | (with_reducible refine notify_only _ _ _ _ ?_ (by decide))
      | (intro)
      | (with_reducible exact only_refl _ _))

theorem notifyZone_only {ps : List Part} {s0 : State} (fn : Nat) (nsid : Nat) (zslba : Nat) (s : State)
    (h : Only ps s0 s) (hp : [.frame, .host, .inst, .recd, .emit] ⊆ ps) : Only ps s0 (notifyZone fn nsid zslba s) :=
  Only.via hp h (by
    unfold notifyZone
    repeat' first
      | (with_reducible assumption)
      | (with_reducible refine notify_only _ _ _ _ ?_ (by decide))
      | (with_reducible refine updCtl_only _ _ _ ?_ (by decide))
      | (intro)
      | (split)
      | (with_reducible exact only_refl _ _))

theorem notifySmart_only {ps : List Part} {s0 : State} (fn : Nat) (b : Nat) (s : State)
    (h : Only ps s0 s) (hp : [.frame, .host, .inst, .recd, .emit] ⊆ ps) : Only ps s0 (notifySmart fn b s) :=
  Only.via hp h (by
    unfold notifySmart
    repeat' first
      | (with_reducible assumption)
      | (with_reducible refine notify_only _ _ _ _ ?_ (by decide))
      | (intro)
      | (with_reducible exact only_refl _ _))

theorem assertAlert_only {ps : List Part} {s0 : State}  (s : State)
    (h : Only ps s0 s) (hp : [.pins] ⊆ ps) : Only ps s0 (assertAlert s) :=
  Only.via hp h (by
    unfold assertAlert
    repeat' first
      | (with_reducible assumption)
      | (intro)
      | (split)
      | (with_reducible exact only_refl _ _)
      | (refine only_pins _ ?_ (by decide)))

theorem setCritical_only {ps : List Part} {s0 : State} (b : Nat) (s : State)
    (h : Only ps s0 s) (hp : [.frame, .host, .inst, .therm, .pins, .recd, .emit] ⊆ ps) : Only ps s0 (setCritical b s) :=
  Only.via hp h (by
    unfold setCritical
    repeat' first
      | (with_reducible assumption)
      | (with_reducible refine callWrite_only _ ?_ (by decide))
      | (with_reducible refine assertAlert_only _ ?_ (by decide))
      | (with_reducible refine notifySmart_only _ _ _ ?_ (by decide))
      | (with_reducible refine only_forEach _ _ _ ?_ ?_)
      | (intro)
      | (extract_lets +onlyGivenNames s1; refine only_cut s1 ?_ ?_; unfold s1; clear s1; rotate_left; intro hs1; clear_value s1; rotate_right)
      | (extract_lets +onlyGivenNames v1)
      | (split)
      | (with_reducible exact only_refl _ _)
      | (refine only_therm _ ?_ (by decide)))

theorem clearCritical_only {ps : List Part} {s0 : State} (b : Nat) (s : State)
    (h : Only ps s0 s) (hp : [.therm] ⊆ ps) : Only ps s0 (clearCritical b s) :=
  Only.via hp h (by
    unfold clearCritical
    repeat' first
      | (with_reducible assumption)
      | (intro)
      | (with_reducible exact only_refl _ _)
      | (refine only_therm _ ?_ (by decide)))

end Sys2Proof.Machine
end

