-- ==== Sys2Proof/Laws/Only/Scp.lean ====
section
/-! SUPPORT. Which groups of state each operation of Machine/Scp.lean can change. -/

set_option linter.tactic.unusedName false

namespace Sys2Proof.Machine

theorem updMbx_only {ps : List Part} {s0 : State} (x0 : MbxSt → MbxSt) (s : State)
    (h : Only ps s0 s) (hp : [.mbx] ⊆ ps) : Only ps s0 (updMbx x0 s) :=
  Only.via hp h (by
    unfold updMbx
    repeat' first
      | (with_reducible assumption)
      | (intro)
      | (with_reducible exact only_refl _ _)
      | (refine only_mbx _ ?_ (by decide)))

theorem setMbxPf_only {ps : List Part} {s0 : State} (p : Pf) (m : MbxPf) (s : State)
    (h : Only ps s0 s) (hp : [.mbx] ⊆ ps) : Only ps s0 (setMbxPf p m s) :=
  Only.via hp h (by
    unfold setMbxPf
    repeat' first
      | (with_reducible assumption)
      | (with_reducible refine updMbx_only _ _ ?_ (by decide))
      | (intro)
      | (split)
      | (with_reducible exact only_refl _ _))

theorem setEvent_only {ps : List Part} {s0 : State} (b : Nat) (s : State)
    (h : Only ps s0 s) (hp : [.mbx, .emit] ⊆ ps) : Only ps s0 (setEvent b s) :=
  Only.via hp h (by
    unfold setEvent
    repeat' first
      | (with_reducible assumption)
      | (with_reducible refine sends_only _ _ ?_ (by decide))
      | (with_reducible refine updMbx_only _ _ ?_ (by decide))
      | (intro)
      | (split)
      | (with_reducible exact only_refl _ _))

theorem reject_only {ps : List Part} {s0 : State} (n : Nat) (s : State)
    (h : Only ps s0 s) (hp : [.mbx, .emit] ⊆ ps) : Only ps s0 (reject n s) :=
  Only.via hp h (by
    unfold reject
    repeat' first
      | (with_reducible assumption)
      | (with_reducible refine setEvent_only _ _ ?_ (by decide))
      | (with_reducible refine updMbx_only _ _ ?_ (by decide))
      | (intro)
      | (with_reducible exact only_refl _ _))

theorem abortWords_only {ps : List Part} {s0 : State} (n : Nat) (s : State)
    (h : Only ps s0 s) (hp : [.mbx, .emit] ⊆ ps) : Only ps s0 (abortWords n s) :=
  Only.via hp h (by
    unfold abortWords
    repeat' first
      | (with_reducible assumption)
      | (with_reducible refine setEvent_only _ _ ?_ (by decide))
      | (with_reducible refine updMbx_only _ _ ?_ (by decide))
      | (intro)
      | (with_reducible exact only_refl _ _))

theorem clearEvents_only {ps : List Part} {s0 : State} (x0 : Byte) (s : State)
    (h : Only ps s0 s) (hp : [.mbx] ⊆ ps) : Only ps s0 (clearEvents x0 s) :=
  Only.via hp h (by
    unfold clearEvents
    repeat' first
      | (with_reducible assumption)
      | (with_reducible refine updMbx_only _ _ ?_ (by decide))
      | (intro)
      | (split)
      | (with_reducible exact only_refl _ _))

theorem toRing_only {ps : List Part} {s0 : State} (r : Reply) (s : State)
    (h : Only ps s0 s) (hp : [.mbx, .emit] ⊆ ps) : Only ps s0 (toRing r s) :=
  Only.via hp h (by
    unfold toRing
    repeat' first
      | (with_reducible assumption)
      | (with_reducible refine setEvent_only _ _ ?_ (by decide))
      | (with_reducible refine updMbx_only _ _ ?_ (by decide))
      | (intro)
      | (with_reducible exact only_refl _ _))

theorem postReply_only {ps : List Part} {s0 : State} (ws : List Word) (s : State)
    (h : Only ps s0 s) (hp : [.mbx, .emit] ⊆ ps) : Only ps s0 (postReply ws s) :=
  Only.via hp h (by
    unfold postReply
    repeat' first
      | (with_reducible assumption)
      | (with_reducible refine setEvent_only _ _ ?_ (by decide))
      | (with_reducible refine updMbx_only _ _ ?_ (by decide))
      | (with_reducible refine toRing_only _ _ ?_ (by decide))
      | (intro)
      | (extract_lets +onlyGivenNames s1; refine only_cut s1 ?_ ?_; unfold s1; clear s1; rotate_left; intro hs1; clear_value s1; rotate_right)
      | (extract_lets +onlyGivenNames v1)
      | (split)
      | (with_reducible exact only_refl _ _))

theorem drainBacklog_only {ps : List Part} {s0 : State} (x0 : List Reply) (s : State)
    (h : Only ps s0 s) (hp : [.mbx, .emit] ⊆ ps) : Only ps s0 (drainBacklog x0 s) :=
  Only.via hp h (by
    clear h hp
    fun_induction drainBacklog
    repeat' first
      | (with_reducible assumption)
      | (with_reducible refine toRing_only _ _ ?_ (by decide))
      | (with_reducible refine updMbx_only _ _ ?_ (by decide))
      | (with_reducible refine Only.trans ?_ (by with_reducible assumption))
      | (intro)
      | (split)
      | (with_reducible exact only_refl _ _))

theorem sendReply_only {ps : List Part} {s0 : State} (opcode : Nat) (tag : Nat) (epoch : Half) (status : Nat) (payload : List Nat) (s : State)
    (h : Only ps s0 s) (hp : [.mbx, .emit] ⊆ ps) : Only ps s0 (sendReply opcode tag epoch status payload s) :=
  Only.via hp h (by
    unfold sendReply
    repeat' first
      | (with_reducible assumption)
      | (with_reducible refine postReply_only _ _ ?_ (by decide))
      | (intro)
      | (with_reducible exact only_refl _ _))

theorem reply_only {ps : List Part} {s0 : State} (r : Posted) (status : Nat) (payload : List Nat) (s : State)
    (h : Only ps s0 s) (hp : [.mbx, .emit] ⊆ ps) : Only ps s0 (reply r status payload s) :=
  Only.via hp h (by
    unfold reply
    repeat' first
      | (with_reducible assumption)
      | (with_reducible refine sendReply_only _ _ _ _ _ _ ?_ (by decide))
      | (intro)
      | (with_reducible exact only_refl _ _))

theorem replyOk_only {ps : List Part} {s0 : State} (r : Posted) (payload : List Nat) (s : State)
    (h : Only ps s0 s) (hp : [.mbx, .emit] ⊆ ps) : Only ps s0 (replyOk r payload s) :=
  Only.via hp h (by
    unfold replyOk
    repeat' first
      | (with_reducible assumption)
      | (with_reducible refine reply_only _ _ _ _ ?_ (by decide))
      | (intro)
      | (with_reducible exact only_refl _ _))

theorem replyBusy_only {ps : List Part} {s0 : State} (r : Posted) (s : State)
    (h : Only ps s0 s) (hp : [.mbx, .emit] ⊆ ps) : Only ps s0 (replyBusy r s) :=
  Only.via hp h (by
    unfold replyBusy
    repeat' first
      | (with_reducible assumption)
      | (with_reducible refine reply_only _ _ _ _ ?_ (by decide))
      | (intro)
      | (with_reducible exact only_refl _ _))

theorem replyInvalid_only {ps : List Part} {s0 : State} (r : Posted) (i : Nat) (s : State)
    (h : Only ps s0 s) (hp : [.mbx, .emit] ⊆ ps) : Only ps s0 (replyInvalid r i s) :=
  Only.via hp h (by
    unfold replyInvalid
    repeat' first
      | (with_reducible assumption)
      | (with_reducible refine reply_only _ _ _ _ ?_ (by decide))
      | (intro)
      | (with_reducible exact only_refl _ _))

theorem replyConflict_only {ps : List Part} {s0 : State} (r : Posted) (kind : Nat) (holder : Nat) (s : State)
    (h : Only ps s0 s) (hp : [.mbx, .emit] ⊆ ps) : Only ps s0 (replyConflict r kind holder s) :=
  Only.via hp h (by
    unfold replyConflict
    repeat' first
      | (with_reducible assumption)
      | (with_reducible refine reply_only _ _ _ _ ?_ (by decide))
      | (intro)
      | (with_reducible exact only_refl _ _))

theorem replyRefused_only {ps : List Part} {s0 : State} (r : Posted) (reason : Nat) (s : State)
    (h : Only ps s0 s) (hp : [.mbx, .emit] ⊆ ps) : Only ps s0 (replyRefused r reason s) :=
  Only.via hp h (by
    unfold replyRefused
    repeat' first
      | (with_reducible assumption)
      | (with_reducible refine reply_only _ _ _ _ ?_ (by decide))
      | (intro)
      | (with_reducible exact only_refl _ _))

theorem replyNoResource_only {ps : List Part} {s0 : State} (r : Posted) (pool : Nat) (s : State)
    (h : Only ps s0 s) (hp : [.mbx, .emit] ⊆ ps) : Only ps s0 (replyNoResource r pool s) :=
  Only.via hp h (by
    unfold replyNoResource
    repeat' first
      | (with_reducible assumption)
      | (with_reducible refine reply_only _ _ _ _ ?_ (by decide))
      | (intro)
      | (with_reducible exact only_refl _ _))

theorem replyAuth_only {ps : List Part} {s0 : State} (r : Posted) (s : State)
    (h : Only ps s0 s) (hp : [.mbx, .emit] ⊆ ps) : Only ps s0 (replyAuth r s) :=
  Only.via hp h (by
    unfold replyAuth
    repeat' first
      | (with_reducible assumption)
      | (with_reducible refine reply_only _ _ _ _ ?_ (by decide))
      | (intro)
      | (with_reducible exact only_refl _ _))

theorem replyAborted_only {ps : List Part} {s0 : State} (r : Posted) (reason : Nat) (offset : Nat) (s : State)
    (h : Only ps s0 s) (hp : [.mbx, .emit] ⊆ ps) : Only ps s0 (replyAborted r reason offset s) :=
  Only.via hp h (by
    unfold replyAborted
    repeat' first
      | (with_reducible assumption)
      | (with_reducible refine reply_only _ _ _ _ ?_ (by decide))
      | (intro)
      | (with_reducible exact only_refl _ _))

theorem replyPending_only {ps : List Part} {s0 : State} (r : Posted) (s : State)
    (h : Only ps s0 s) (hp : [.mbx, .emit] ⊆ ps) : Only ps s0 (replyPending r s) :=
  Only.via hp h (by
    unfold replyPending
    repeat' first
      | (with_reducible assumption)
      | (with_reducible refine reply_only _ _ _ _ ?_ (by decide))
      | (with_reducible refine updMbx_only _ _ ?_ (by decide))
      | (intro)
      | (with_reducible exact only_refl _ _))

theorem finalReply_only {ps : List Part} {s0 : State} (tag : Nat) (opcode : Nat) (status : Nat) (payload : List Nat) (s : State)
    (h : Only ps s0 s) (hp : [.mbx, .emit] ⊆ ps) : Only ps s0 (finalReply tag opcode status payload s) :=
  Only.via hp h (by
    unfold finalReply
    repeat' first
      | (with_reducible assumption)
      | (with_reducible refine sendReply_only _ _ _ _ _ _ ?_ (by decide))
      | (with_reducible refine updMbx_only _ _ ?_ (by decide))
      | (intro)
      | (split)
      | (with_reducible exact only_refl _ _))

theorem emptying_only {ps : List Part} {s0 : State} (x0 : State → State) (s : State)
    (h : Only ps s0 s) (hf0 : ∀ t, Only ps s0 t → Only ps s0 (x0 t)) (hp : [.mbx, .emit] ⊆ ps) :
    Only ps s0 (emptying x0 s) := by
  unfold emptying
  repeat' first
    | (with_reducible assumption)
    | (with_reducible refine hf0 _ ?_)
    | (with_reducible refine setEvent_only _ _ ?_ (List.Subset.trans (by decide) hp))
    | (with_reducible refine only_when _ _ ?_ ?_)
    | (intro)
    | (extract_lets +onlyGivenNames s1; refine only_cut s1 ?_ ?_; unfold s1; clear s1; rotate_left; intro hs1; clear_value s1; rotate_right)
    | (extract_lets +onlyGivenNames v1)
    | (with_reducible exact only_refl _ _)

theorem takeHead_only {ps : List Part} {s0 : State}  (s : State)
    (h : Only ps s0 s) (hp : [.mbx, .emit] ⊆ ps) : Only ps s0 (takeHead s) :=
  Only.via hp h (by
    unfold takeHead
    repeat' first
      | (with_reducible assumption)
      | (with_reducible refine emptying_only _ _ ?_ ?_ (by decide))
      | (with_reducible refine updMbx_only _ _ ?_ (by decide))
      | (intro)
      | (with_reducible exact only_refl _ _))

theorem dropDup_only {ps : List Part} {s0 : State}  (s : State)
    (h : Only ps s0 s) (hp : [.mbx, .emit] ⊆ ps) : Only ps s0 (dropDup s) :=
  Only.via hp h (by
    unfold dropDup
    repeat' first
      | (with_reducible assumption)
      | (with_reducible refine setEvent_only _ _ ?_ (by decide))
      | (with_reducible refine updMbx_only _ _ ?_ (by decide))
      | (intro)
      | (with_reducible exact only_refl _ _))

theorem drainHeads_only {ps : List Part} {s0 : State} (x0 : Nat) (s : State)
    (h : Only ps s0 s) (hp : [.mbx, .emit] ⊆ ps) : Only ps s0 (drainHeads x0 s) :=
  Only.via hp h (by
    clear h hp
    fun_induction drainHeads
    repeat' first
      | (with_reducible assumption)
      | (with_reducible refine takeHead_only _ ?_ (by decide))
      | (with_reducible refine dropDup_only _ ?_ (by decide))
      | (with_reducible refine replyInvalid_only _ _ _ ?_ (by decide))
      | (with_reducible refine Only.trans ?_ (by with_reducible assumption))
      | (intro)
      | (extract_lets +onlyGivenNames s1; refine only_cut s1 ?_ ?_; unfold s1; clear s1; rotate_left; intro hs1; clear_value s1; rotate_right)
      | (extract_lets +onlyGivenNames v1)
      | (split)
      | (with_reducible exact only_refl _ _))

theorem reopen_only {ps : List Part} {s0 : State}  (s : State)
    (h : Only ps s0 s) (hp : [.mbx, .emit] ⊆ ps) : Only ps s0 (reopen s) :=
  Only.via hp h (by
    unfold reopen
    repeat' first
      | (with_reducible assumption)
      | (with_reducible refine drainHeads_only _ _ ?_ (by decide))
      | (with_reducible refine only_when _ _ ?_ ?_)
      | (intro)
      | (with_reducible exact only_refl _ _))

theorem scp_only {ps : List Part} {s0 : State} (op : Nat) (x1 : Form) (fault : Posted → Option Nat) (body : Posted → State → State) (s : State)
    (h : Only ps s0 s) (hf0 : ∀ a t, Only ps s0 t → Only ps s0 (body a t)) (hp : [.mbx, .emit] ⊆ ps) :
    Only ps s0 (scp op x1 fault body s) := by
  unfold scp
  repeat' first
    | (with_reducible assumption)
    | (with_reducible refine hf0 _ _ ?_)
    | (with_reducible refine takeHead_only _ ?_ (List.Subset.trans (by decide) hp))
    | (with_reducible refine drainHeads_only _ _ ?_ (List.Subset.trans (by decide) hp))
    | (with_reducible refine dropDup_only _ ?_ (List.Subset.trans (by decide) hp))
    | (with_reducible refine replyInvalid_only _ _ _ ?_ (List.Subset.trans (by decide) hp))
    | (with_reducible refine replyRefused_only _ _ _ ?_ (List.Subset.trans (by decide) hp))
    | (with_reducible refine replyConflict_only _ _ _ _ ?_ (List.Subset.trans (by decide) hp))
    | (intro)
    | (extract_lets +onlyGivenNames s1; refine only_cut s1 ?_ ?_; unfold s1; clear s1; rotate_left; intro hs1; clear_value s1; rotate_right)
    | (extract_lets +onlyGivenNames v1)
    | (split)
    | (with_reducible exact only_refl _ _)

theorem hostSenderReset_only {ps : List Part} {s0 : State}  (s : State)
    (h : Only ps s0 s) (hp : [.mbx, .emit] ⊆ ps) : Only ps s0 (hostSenderReset s) :=
  Only.via hp h (by
    unfold hostSenderReset
    repeat' first
      | (with_reducible assumption)
      | (with_reducible refine reject_only _ _ ?_ (by decide))
      | (with_reducible refine emptying_only _ _ ?_ ?_ (by decide))
      | (with_reducible refine updMbx_only _ _ ?_ (by decide))
      | (with_reducible refine only_when _ _ ?_ ?_)
      | (intro)
      | (extract_lets +onlyGivenNames s1; refine only_cut s1 ?_ ?_; unfold s1; clear s1; rotate_left; intro hs1; clear_value s1; rotate_right)
      | (extract_lets +onlyGivenNames v1)
      | (with_reducible exact only_refl _ _))

theorem clearInQueue_only {ps : List Part} {s0 : State}  (s : State)
    (h : Only ps s0 s) (hp : [.mbx] ⊆ ps) : Only ps s0 (clearInQueue s) :=
  Only.via hp h (by
    unfold clearInQueue
    repeat' first
      | (with_reducible assumption)
      | (with_reducible refine updMbx_only _ _ ?_ (by decide))
      | (intro)
      | (with_reducible exact only_refl _ _))

theorem setLatch_only {ps : List Part} {s0 : State} (n : Nat) (a : Nat) (s : State)
    (h : Only ps s0 s) (hp : [.mbx] ⊆ ps) : Only ps s0 (setLatch n a s) :=
  Only.via hp h (by
    unfold setLatch
    repeat' first
      | (with_reducible assumption)
      | (with_reducible refine updMbx_only _ _ ?_ (by decide))
      | (intro)
      | (split)
      | (with_reducible exact only_refl _ _))

theorem eccExit_only {ps : List Part} {s0 : State}  (s : State)
    (h : Only ps s0 s) (hp : [.ecc] ⊆ ps) : Only ps s0 (eccExit s) :=
  Only.via hp h (by
    unfold eccExit
    repeat' first
      | (with_reducible assumption)
      | (intro)
      | (with_reducible exact only_refl _ _)
      | (refine only_ecc _ ?_ (by decide)))

theorem dropManagerProposals_only {ps : List Part} {s0 : State}  (s : State)
    (h : Only ps s0 s) (hp : [.prot] ⊆ ps) : Only ps s0 (dropManagerProposals s) :=
  Only.via hp h (by
    unfold dropManagerProposals
    repeat' first
      | (with_reducible assumption)
      | (with_reducible refine only_foldl _ _ _ ?_ ?_)
      | (intro)
      | (extract_lets +onlyGivenNames s1; refine only_cut s1 ?_ ?_; unfold s1; clear s1; rotate_left; intro hs1; clear_value s1; rotate_right)
      | (extract_lets +onlyGivenNames v1)
      | (with_reducible exact only_refl _ _)
      | (refine only_prot _ ?_ (by decide)))

theorem roleChange_only {ps : List Part} {s0 : State}  (s : State)
    (h : Only ps s0 s) (hp : [.mbx, .prot, .emit] ⊆ ps) : Only ps s0 (roleChange s) :=
  Only.via hp h (by
    unfold roleChange
    repeat' first
      | (with_reducible assumption)
      | (with_reducible refine setEvent_only _ _ ?_ (by decide))
      | (with_reducible refine dropManagerProposals_only _ ?_ (by decide))
      | (intro)
      | (with_reducible exact only_refl _ _))

theorem ringOff_only {ps : List Part} {s0 : State}  (s : State)
    (h : Only ps s0 s) (hp : [.inst] ⊆ ps) : Only ps s0 (ringOff s) :=
  Only.via hp h (by
    unfold ringOff
    repeat' first
      | (with_reducible assumption)
      | (intro)
      | (with_reducible exact only_refl _ _)
      | (refine only_inst _ ?_ (by decide)))

theorem freeLatch_only {ps : List Part} {s0 : State} (n : Nat) (s : State)
    (h : Only ps s0 s) (hp : [.mbx, .inst, .prot, .ecc, .emit] ⊆ ps) : Only ps s0 (freeLatch n s) :=
  Only.via hp h (by
    unfold freeLatch
    repeat' first
      | (with_reducible assumption)
      | (with_reducible refine setLatch_only _ _ _ ?_ (by decide))
      | (with_reducible refine roleChange_only _ ?_ (by decide))
      | (with_reducible refine ringOff_only _ ?_ (by decide))
      | (with_reducible refine eccExit_only _ ?_ (by decide))
      | (intro)
      | (extract_lets +onlyGivenNames s1; refine only_cut s1 ?_ ?_; unfold s1; clear s1; rotate_left; intro hs1; clear_value s1; rotate_right)
      | (extract_lets +onlyGivenNames v1)
      | (split)
      | (with_reducible exact only_refl _ _))

theorem takeLatch_only {ps : List Part} {s0 : State} (n : Nat) (a : Nat) (s : State)
    (h : Only ps s0 s) (hp : [.mbx, .prot, .emit] ⊆ ps) : Only ps s0 (takeLatch n a s) :=
  Only.via hp h (by
    unfold takeLatch
    repeat' first
      | (with_reducible assumption)
      | (with_reducible refine roleChange_only _ ?_ (by decide))
      | (with_reducible refine setLatch_only _ _ _ ?_ (by decide))
      | (with_reducible refine only_when _ _ ?_ ?_)
      | (intro)
      | (with_reducible exact only_refl _ _))

theorem freeLatchesOf_only {ps : List Part} {s0 : State} (a : Nat) (s : State)
    (h : Only ps s0 s) (hp : [.mbx, .inst, .prot, .ecc, .emit] ⊆ ps) : Only ps s0 (freeLatchesOf a s) :=
  Only.via hp h (by
    unfold freeLatchesOf
    repeat' first
      | (with_reducible assumption)
      | (with_reducible refine freeLatch_only _ _ ?_ (by decide))
      | (with_reducible refine only_forEach _ _ _ ?_ ?_)
      | (intro)
      | (with_reducible exact only_refl _ _))

theorem epochMoves_only {ps : List Part} {s0 : State} (release : Bool) (s : State)
    (h : Only ps s0 s) (hp : [.mbx, .inst, .prot, .ecc, .emit] ⊆ ps) : Only ps s0 (epochMoves release s) :=
  Only.via hp h (by
    unfold epochMoves
    repeat' first
      | (with_reducible assumption)
      | (with_reducible refine freeLatch_only _ _ ?_ (by decide))
      | (with_reducible refine hostSenderReset_only _ ?_ (by decide))
      | (with_reducible refine clearInQueue_only _ ?_ (by decide))
      | (intro)
      | (split)
      | (with_reducible exact only_refl _ _))

theorem descDma_only {ps : List Part} {s0 : State} (r : Posted) (dma : Dma) (out : List Byte) (ends : Nat → List Nat → State → State) (body : State → State) (s : State)
    (h : Only ps s0 s) (hf0 : ∀ a b t, Only ps s0 t → Only ps s0 (ends a b t)) (hf1 : ∀ t, Only ps s0 t → Only ps s0 (body t)) (hp : [.mbx, .inst, .prot, .ecc, .emit] ⊆ ps) :
    Only ps s0 (descDma r dma out ends body s) := by
  unfold descDma
  repeat' first
    | (with_reducible assumption)
    | (with_reducible refine hf0 _ _ _ ?_)
    | (with_reducible refine hf1 _ ?_)
    | (with_reducible refine send_only _ _ ?_ (List.Subset.trans (by decide) hp))
    | (with_reducible refine epochMoves_only _ _ ?_ (List.Subset.trans (by decide) hp))
    | (with_reducible refine only_when _ _ ?_ ?_)
    | (intro)
    | (extract_lets +onlyGivenNames s1; refine only_cut s1 ?_ ?_; unfold s1; clear s1; rotate_left; intro hs1; clear_value s1; rotate_right)
    | (extract_lets +onlyGivenNames k1; have _ck := fun x => (k1 x : State → State); clear _ck)
    | (extract_lets +onlyGivenNames k1; have _ck := fun x => (k1 x : State); clear _ck)
    | (extract_lets +onlyGivenNames v1)
    | (split)
    | (with_reducible exact only_refl _ _)
    | (dsimp only [k1])

theorem descRead_only {ps : List Part} {s0 : State} (r : Posted) (dma : Dma) (body : List Byte → State → State) (s : State)
    (h : Only ps s0 s) (hf0 : ∀ a t, Only ps s0 t → Only ps s0 (body a t)) (hp : [.mbx, .inst, .prot, .ecc, .emit] ⊆ ps) :
    Only ps s0 (descRead r dma body s) := by
  unfold descRead
  repeat' first
    | (with_reducible assumption)
    | (with_reducible refine hf0 _ _ ?_)
    | (with_reducible refine descDma_only _ _ _ _ _ _ ?_ ?_ ?_ (List.Subset.trans (by decide) hp))
    | (with_reducible refine reply_only _ _ _ _ ?_ (List.Subset.trans (by decide) hp))
    | (intro)
    | (with_reducible exact only_refl _ _)

theorem descWrite_only {ps : List Part} {s0 : State} (r : Posted) (dma : Dma) (out : List Byte) (x3 : State → State) (s : State)
    (h : Only ps s0 s) (hf0 : ∀ t, Only ps s0 t → Only ps s0 (x3 t)) (hp : [.mbx, .inst, .prot, .ecc, .emit] ⊆ ps) :
    Only ps s0 (descWrite r dma out x3 s) := by
  unfold descWrite
  repeat' first
    | (with_reducible assumption)
    | (with_reducible refine hf0 _ ?_)
    | (with_reducible refine descDma_only _ _ _ _ _ _ ?_ ?_ ?_ (List.Subset.trans (by decide) hp))
    | (with_reducible refine reply_only _ _ _ _ ?_ (List.Subset.trans (by decide) hp))
    | (intro)
    | (with_reducible exact only_refl _ _)

theorem cellarMailboxReset_only {ps : List Part} {s0 : State}  (s : State)
    (h : Only ps s0 s) (hp : [.mbx, .inst, .prot, .ecc, .emit] ⊆ ps) : Only ps s0 (cellarMailboxReset s) :=
  Only.via hp h (by
    unfold cellarMailboxReset
    repeat' first
      | (with_reducible assumption)
      | (with_reducible refine emptying_only _ _ ?_ ?_ (by decide))
      | (with_reducible refine updMbx_only _ _ ?_ (by decide))
      | (with_reducible refine setEvent_only _ _ ?_ (by decide))
      | (with_reducible refine abortWords_only _ _ ?_ (by decide))
      | (with_reducible refine freeLatchesOf_only _ _ ?_ (by decide))
      | (with_reducible refine only_forEach _ _ _ ?_ ?_)
      | (intro)
      | (extract_lets +onlyGivenNames s1; refine only_cut s1 ?_ ?_; unfold s1; clear s1; rotate_left; intro hs1; clear_value s1; rotate_right)
      | (extract_lets +onlyGivenNames v1)
      | (with_reducible exact only_refl _ _))

theorem windowPfReset_only {ps : List Part} {s0 : State} (p : Pf) (s : State)
    (h : Only ps s0 s) (hp : [.frame, .mbx, .inst, .prot, .ecc, .emit] ⊆ ps) : Only ps s0 (windowPfReset p s) :=
  Only.via hp h (by
    unfold windowPfReset
    repeat' first
      | (with_reducible assumption)
      | (with_reducible refine clearInQueue_only _ ?_ (by decide))
      | (with_reducible refine hostSenderReset_only _ ?_ (by decide))
      | (with_reducible refine freeLatchesOf_only _ _ ?_ (by decide))
      | (with_reducible refine setMbxPf_only _ _ _ ?_ (by decide))
      | (with_reducible refine updMbx_only _ _ ?_ (by decide))
      | (with_reducible refine only_when _ _ ?_ ?_)
      | (intro)
      | (extract_lets +onlyGivenNames s1; refine only_cut s1 ?_ ?_; unfold s1; clear s1; rotate_left; intro hs1; clear_value s1; rotate_right)
      | (extract_lets +onlyGivenNames v1)
      | (split)
      | (with_reducible exact only_refl _ _)
      | (refine only_frame _ ?_ (by decide)))

end Sys2Proof.Machine
end

