-- ==== Sys2Proof/Laws/Only/Window.lean ====
section
/-! SUPPORT. Which groups of state each operation of Machine/Window.lean can change. -/

set_option linter.tactic.unusedName false

namespace Sys2Proof.Machine

theorem setGate_only {ps : List Part} {s0 : State} (p : Pf) (g : Gate) (s : State)
    (h : Only ps s0 s) (hp : [.mbx] ⊆ ps) : Only ps s0 (setGate p g s) :=
  Only.via hp h (by
    unfold setGate
    repeat' first
      | (with_reducible assumption)
      | (with_reducible refine updMbx_only _ _ ?_ (by decide))
      | (intro)
      | (split)
      | (with_reducible exact only_refl _ _))

theorem gateAccess_only {ps : List Part} {s0 : State} (p : Pf) (area : Nat) (wr : Bool) (s : State)
    (h : Only ps s0 s) (hp : [.mbx, .power] ⊆ ps) : Only ps s0 (gateAccess p area wr s) :=
  Only.via hp h (by
    unfold gateAccess
    repeat' first
      | (with_reducible assumption)
      | (with_reducible refine setGate_only _ _ _ ?_ (by decide))
      | (intro)
      | (extract_lets +onlyGivenNames s1; refine only_cut s1 ?_ ?_; unfold s1; clear s1; rotate_left; intro hs1; clear_value s1; rotate_right)
      | (extract_lets +onlyGivenNames v1)
      | (with_reducible exact only_refl _ _)
      | (refine only_power _ ?_ (by decide)))

theorem setShadow_only {ps : List Part} {s0 : State} (p : Pf) (s : State)
    (h : Only ps s0 s) (hp : [.frame] ⊆ ps) : Only ps s0 (setShadow p s) :=
  Only.via hp h (by
    unfold setShadow
    repeat' first
      | (with_reducible assumption)
      | (intro)
      | (extract_lets +onlyGivenNames s1; refine only_cut s1 ?_ ?_; unfold s1; clear s1; rotate_left; intro hs1; clear_value s1; rotate_right)
      | (extract_lets +onlyGivenNames v1)
      | (split)
      | (with_reducible exact only_refl _ _)
      | (refine only_frame _ ?_ (by decide)))

theorem readLatch_only {ps : List Part} {s0 : State} (a : Nat) (n : Nat) {s : State}
    (h : Only ps s0 s) (hp : [.mbx, .prot, .emit] ⊆ ps) : Only ps s0 (readLatch a n s).2 :=
  Only.via hp h (by
    unfold readLatch
    repeat' first
      | (with_reducible assumption)
      | (with_reducible refine takeLatch_only _ _ _ ?_ (by decide))
      | (intro)
      | (extract_lets +onlyGivenNames s1; refine only_cut s1 ?_ ?_; unfold s1; clear s1; rotate_left; intro hs1; clear_value s1; rotate_right)
      | (extract_lets +onlyGivenNames v1)
      | (split)
      | (with_reducible exact only_refl _ _))

theorem readLatch_only2 {ps : List Part} {s0 : State} (a : Nat) (n : Nat) {s t : State} {v}
    (h : Only ps s0 s) (hp : [.mbx, .prot, .emit] ⊆ ps) (e : readLatch a n s = (v, t)) : Only ps s0 t := by
  have k := readLatch_only a n h hp
  rw [e] at k; exact k

theorem clearFull_only {ps : List Part} {s0 : State} (n : Nat) (s : State)
    (h : Only ps s0 s) (hp : [.mbx] ⊆ ps) : Only ps s0 (clearFull n s) :=
  Only.via hp h (by
    unfold clearFull
    repeat' first
      | (with_reducible assumption)
      | (with_reducible refine updMbx_only _ _ ?_ (by decide))
      | (intro)
      | (with_reducible exact only_refl _ _))

theorem read4_only {ps : List Part} {s0 : State} (p : Pf) (off : Nat) {s : State}
    (h : Only ps s0 s) (hp : [.frame, .mbx, .prot, .power, .emit] ⊆ ps) : Only ps s0 (read4 p off s).2 :=
  Only.via hp h (by
    unfold read4
    repeat' first
      | (with_reducible assumption)
      | (with_reducible refine gateAccess_only _ _ _ _ ?_ (by decide))
      | (with_reducible refine setShadow_only _ _ ?_ (by decide))
      | (with_reducible refine updMbx_only _ _ ?_ (by decide))
      | (with_reducible refine readLatch_only _ _ ?_ (by decide))
      | (with_reducible refine readLatch_only2 _ _ ?_ (by decide) (by assumption))
      | (with_reducible refine clearFull_only _ _ ?_ (by decide))
      | (with_reducible refine only_when _ _ ?_ ?_)
      | (intro)
      | (extract_lets +onlyGivenNames s1; refine only_cut s1 ?_ ?_; unfold s1; clear s1; rotate_left; intro hs1; clear_value s1; rotate_right)
      | (extract_lets +onlyGivenNames v1)
      | (split)
      | (with_reducible exact only_refl _ _))

theorem read4_only2 {ps : List Part} {s0 : State} (p : Pf) (off : Nat) {s t : State} {v}
    (h : Only ps s0 s) (hp : [.frame, .mbx, .prot, .power, .emit] ⊆ ps) (e : read4 p off s = (v, t)) : Only ps s0 t := by
  have k := read4_only p off h hp
  rw [e] at k; exact k

theorem readMany_only {ps : List Part} {s0 : State} (p : Pf) (n off : Nat) {s : State}
    (h : Only ps s0 s) (hp : [.frame, .mbx, .prot, .power, .emit] ⊆ ps) : Only ps s0 (readMany p n off s).2 := by
  induction n generalizing off s with
  | zero => exact h
  | succ n ih =>
    unfold readMany
    split; rename_i w s1 e
    split; rename_i w2 s2 e2
    have k := ih (off + 4) (read4_only2 _ _ h hp e)
    rw [e2] at k; exact k

theorem readMany_only2 {ps : List Part} {s0 : State} (p : Pf) (n off : Nat) {s t : State} {v}
    (h : Only ps s0 s) (hp : [.frame, .mbx, .prot, .power, .emit] ⊆ ps) (e : readMany p n off s = (v, t)) :
    Only ps s0 t := by
  have k := readMany_only p n off h hp
  rw [e] at k; exact k

theorem windowRead_only {ps : List Part} {s0 : State} (p : Pf) (off : Nat) (size : Nat) {s : State}
    (h : Only ps s0 s) (hp : [.frame, .mbx, .prot, .power, .emit] ⊆ ps) : Only ps s0 (windowRead p off size s).2 :=
  Only.via hp h (by
    unfold windowRead
    repeat' first
      | (with_reducible assumption)
      | (with_reducible refine read4_only _ _ ?_ (by decide))
      | (with_reducible refine read4_only2 _ _ ?_ (by decide) (by assumption))
      | (with_reducible refine gateAccess_only _ _ _ _ ?_ (by decide))
      | (with_reducible refine setShadow_only _ _ ?_ (by decide))
      | (with_reducible refine clearFull_only _ _ ?_ (by decide))
      | (with_reducible refine readMany_only _ _ _ ?_ (by decide))
      | (with_reducible refine readMany_only2 _ _ _ ?_ (by decide) (by assumption))
      | (intro)
      | (extract_lets +onlyGivenNames s1; refine only_cut s1 ?_ ?_; unfold s1; clear s1; rotate_left; intro hs1; clear_value s1; rotate_right)
      | (extract_lets +onlyGivenNames v1)
      | (split)
      | (with_reducible exact only_refl _ _))

theorem windowRead_only2 {ps : List Part} {s0 : State} (p : Pf) (off : Nat) (size : Nat) {s t : State} {v}
    (h : Only ps s0 s) (hp : [.frame, .mbx, .prot, .power, .emit] ⊆ ps) (e : windowRead p off size s = (v, t)) : Only ps s0 t := by
  have k := windowRead_only p off size h hp
  rw [e] at k; exact k

theorem answer_only {ps : List Part} {s0 : State} (r : Nat × State)
    (h : Only ps s0 r.2) (hp : [.emit] ⊆ ps) : Only ps s0 (answer r) := send_only _ _ h hp

theorem outWord_only {ps : List Part} {s0 : State} (p : Pf) (w : Word) (s : State)
    (h : Only ps s0 s) (hp : [.mbx, .emit] ⊆ ps) : Only ps s0 (outWord p w s) :=
  Only.via hp h (by
    unfold outWord
    repeat' first
      | (with_reducible assumption)
      | (with_reducible refine reject_only _ _ ?_ (by decide))
      | (with_reducible refine updMbx_only _ _ ?_ (by decide))
      | (intro)
      | (extract_lets +onlyGivenNames s1; refine only_cut s1 ?_ ?_; unfold s1; clear s1; rotate_left; intro hs1; clear_value s1; rotate_right)
      | (extract_lets +onlyGivenNames v1)
      | (split)
      | (with_reducible exact only_refl _ _))

theorem writeOut_only {ps : List Part} {s0 : State} (p : Pf) (w : Word) (s : State)
    (h : Only ps s0 s) (hp : [.mbx, .emit] ⊆ ps) : Only ps s0 (writeOut p w s) :=
  Only.via hp h (by
    unfold writeOut
    repeat' first
      | (with_reducible assumption)
      | (with_reducible refine outWord_only _ _ _ ?_ (by decide))
      | (with_reducible refine reopen_only _ ?_ (by decide))
      | (with_reducible refine reject_only _ _ ?_ (by decide))
      | (intro)
      | (extract_lets +onlyGivenNames s1; refine only_cut s1 ?_ ?_; unfold s1; clear s1; rotate_left; intro hs1; clear_value s1; rotate_right)
      | (extract_lets +onlyGivenNames v1)
      | (split)
      | (with_reducible exact only_refl _ _))

theorem setCons_only {ps : List Part} {s0 : State} (v : Byte) (s : State)
    (h : Only ps s0 s) (hp : [.mbx, .emit, .free] ⊆ ps) : Only ps s0 (setCons v s) :=
  Only.via hp h (by
    unfold setCons
    extract_lets +onlyGivenNames u i kept s1 k fill s2 s3
    have h1 : Only [.mbx, .emit, .free] s s1 := updMbx_only _ _ (only_refl _ _) (by decide)
    have h2 : Only [.mbx, .emit, .free] s s2 := updMbx_only _ _ h1 (by decide)
    have h3 : Only [.mbx, .emit, .free] s s3 := by
      unfold s3; split
      · exact h1
      · exact only_free _ h2 (by decide)
    split
    · exact h3
    · exact drainBacklog_only _ _ h3 (by decide))

theorem writeCtl_only {ps : List Part} {s0 : State} (p : Pf) (x1 : Nat) (s : State)
    (h : Only ps s0 s) (hp : [.mbx, .emit, .free] ⊆ ps) : Only ps s0 (writeCtl p x1 s) :=
  Only.via hp h (by
    unfold writeCtl
    repeat' first
      | (with_reducible assumption)
      | (with_reducible refine setMbxPf_only _ _ _ ?_ (by decide))
      | (with_reducible refine setCons_only _ _ ?_ (by decide))
      | (with_reducible refine clearInQueue_only _ ?_ (by decide))
      | (with_reducible refine hostSenderReset_only _ ?_ (by decide))
      | (with_reducible refine only_when _ _ ?_ ?_)
      | (intro)
      | (extract_lets +onlyGivenNames s1; refine only_cut s1 ?_ ?_; unfold s1; clear s1; rotate_left; intro hs1; clear_value s1; rotate_right)
      | (extract_lets +onlyGivenNames v1)
      | (split)
      | (with_reducible exact only_refl _ _))

theorem writeLatch_only {ps : List Part} {s0 : State} (a : Nat) (n : Nat) (x2 : Word) (s : State)
    (h : Only ps s0 s) (hp : [.mbx, .inst, .prot, .ecc, .emit] ⊆ ps) : Only ps s0 (writeLatch a n x2 s) :=
  Only.via hp h (by
    unfold writeLatch
    repeat' first
      | (with_reducible assumption)
      | (with_reducible refine freeLatch_only _ _ ?_ (by decide))
      | (with_reducible refine hostSenderReset_only _ ?_ (by decide))
      | (with_reducible refine only_when _ _ ?_ ?_)
      | (intro)
      | (split)
      | (with_reducible exact only_refl _ _))

theorem write4_only {ps : List Part} {s0 : State} (p : Pf) (off : Nat) (x2 : Nat) (s : State)
    (h : Only ps s0 s) (hp : [.mbx, .inst, .prot, .ecc, .power, .emit, .free] ⊆ ps) : Only ps s0 (write4 p off x2 s) :=
  Only.via hp h (by
    unfold write4
    repeat' first
      | (with_reducible assumption)
      | (with_reducible refine gateAccess_only _ _ _ _ ?_ (by decide))
      | (with_reducible refine writeOut_only _ _ _ ?_ (by decide))
      | (with_reducible refine writeCtl_only _ _ _ ?_ (by decide))
      | (with_reducible refine clearEvents_only _ _ ?_ (by decide))
      | (with_reducible refine writeLatch_only _ _ _ _ ?_ (by decide))
      | (with_reducible refine updMbx_only _ _ ?_ (by decide))
      | (with_reducible refine setGate_only _ _ _ ?_ (by decide))
      | (intro)
      | (extract_lets +onlyGivenNames s1; refine only_cut s1 ?_ ?_; unfold s1; clear s1; rotate_left; intro hs1; clear_value s1; rotate_right)
      | (extract_lets +onlyGivenNames v1)
      | (split)
      | (with_reducible exact only_refl _ _))

theorem windowWrite_only {ps : List Part} {s0 : State} (p : Pf) (off : Nat) (size : Nat) (x3 : Nat) (s : State)
    (h : Only ps s0 s) (hp : [.mbx, .inst, .prot, .ecc, .power, .emit, .free] ⊆ ps) : Only ps s0 (windowWrite p off size x3 s) :=
  Only.via hp h (by
    unfold windowWrite
    repeat' first
      | (with_reducible assumption)
      | (with_reducible refine write4_only _ _ _ _ ?_ (by decide))
      | (with_reducible refine gateAccess_only _ _ _ _ ?_ (by decide))
      | (intro)
      | (split)
      | (with_reducible exact only_refl _ _))

theorem boardWrite_only {ps : List Part} {s0 : State} (n : Nat) (x1 : Nat) (s : State)
    (h : Only ps s0 s) (hp : [.mbx] ⊆ ps) : Only ps s0 (boardWrite n x1 s) :=
  Only.via hp h (by
    unfold boardWrite
    repeat' first
      | (with_reducible assumption)
      | (with_reducible refine updMbx_only _ _ ?_ (by decide))
      | (intro)
      | (extract_lets +onlyGivenNames s1; refine only_cut s1 ?_ ?_; unfold s1; clear s1; rotate_left; intro hs1; clear_value s1; rotate_right)
      | (extract_lets +onlyGivenNames v1)
      | (split)
      | (with_reducible exact only_refl _ _))

end Sys2Proof.Machine
end

