-- ==== Sys2Proof/Laws/Only/Frame.lean ====
section
/-! SUPPORT. Which groups of state each operation of Machine/Frame.lean can change. -/

set_option linter.tactic.unusedName false

namespace Sys2Proof.Machine

theorem updFrame_only {ps : List Part} {s0 : State} (x0 : FrameSt → FrameSt) (s : State)
    (h : Only ps s0 s) (hp : [.frame] ⊆ ps) : Only ps s0 (updFrame x0 s) :=
  Only.via hp h (by
    unfold updFrame
    repeat' first
      | (with_reducible assumption)
      | (intro)
      | (with_reducible exact only_refl _ _)
      | (refine only_frame _ ?_ (by decide)))

theorem updShelf_only {ps : List Part} {s0 : State} (x0 : Shelf → Shelf) (s : State)
    (h : Only ps s0 s) (hp : [.frame] ⊆ ps) : Only ps s0 (updShelf x0 s) :=
  Only.via hp h (by
    unfold updShelf
    repeat' first
      | (with_reducible assumption)
      | (with_reducible refine updFrame_only _ _ ?_ (by decide))
      | (intro)
      | (with_reducible exact only_refl _ _))

theorem increment_only {ps : List Part} {s0 : State}  (s : State)
    (h : Only ps s0 s) (hp : [.frame] ⊆ ps) : Only ps s0 (increment s) :=
  Only.via hp h (by
    unfold increment
    repeat' first
      | (with_reducible assumption)
      | (with_reducible refine updFrame_only _ _ ?_ (by decide))
      | (intro)
      | (split)
      | (with_reducible exact only_refl _ _))

theorem shelfStep_only {ps : List Part} {s0 : State}  (s : State)
    (h : Only ps s0 s) (hp : [.frame, .recd] ⊆ ps) : Only ps s0 (shelfStep s) :=
  Only.via hp h (by
    unfold shelfStep
    repeat' first
      | (with_reducible assumption)
      | (with_reducible refine updShelf_only _ _ ?_ (by decide))
      | (with_reducible refine recEvent_only _ _ ?_ (by decide))
      | (with_reducible refine updRec_only _ _ ?_ (by decide))
      | (with_reducible refine updFrame_only _ _ ?_ (by decide))
      | (intro)
      | (extract_lets +onlyGivenNames s1; refine only_cut s1 ?_ ?_; unfold s1; clear s1; rotate_left; intro hs1; clear_value s1; rotate_right)
      | (extract_lets +onlyGivenNames v1)
      | (split)
      | (with_reducible exact only_refl _ _))

theorem trackPhase_only {ps : List Part} {s0 : State} (phase : Int) (s : State)
    (h : Only ps s0 s) (hp : [.frame, .free] ⊆ ps) : Only ps s0 (trackPhase phase s) :=
  Only.via hp h (by
    unfold trackPhase
    repeat' first
      | (with_reducible assumption)
      | (with_reducible refine drawInt_only _ _ ?_ (by decide))
      | (with_reducible refine drawInt_only2 _ _ ?_ (by decide) (by assumption))
      | (with_reducible refine updShelf_only _ _ ?_ (by decide))
      | (intro)
      | (extract_lets +onlyGivenNames s1; refine only_cut s1 ?_ ?_; unfold s1; clear s1; rotate_left; intro hs1; clear_value s1; rotate_right)
      | (extract_lets +onlyGivenNames v1)
      | (split)
      | (with_reducible exact only_refl _ _))

theorem lockQualify_only {ps : List Part} {s0 : State}  (s : State)
    (h : Only ps s0 s) (hp : [.frame] ⊆ ps) : Only ps s0 (lockQualify s) :=
  Only.via hp h (by
    unfold lockQualify
    repeat' first
      | (with_reducible assumption)
      | (with_reducible refine updShelf_only _ _ ?_ (by decide))
      | (with_reducible refine only_when _ _ ?_ ?_)
      | (intro)
      | (extract_lets +onlyGivenNames s1; refine only_cut s1 ?_ ?_; unfold s1; clear s1; rotate_left; intro hs1; clear_value s1; rotate_right)
      | (extract_lets +onlyGivenNames v1)
      | (with_reducible exact only_refl _ _))

theorem holdover_only {ps : List Part} {s0 : State}  (s : State)
    (h : Only ps s0 s) (hp : [.frame] ⊆ ps) : Only ps s0 (holdover s) :=
  Only.via hp h (by
    unfold holdover
    repeat' first
      | (with_reducible assumption)
      | (with_reducible refine updShelf_only _ _ ?_ (by decide))
      | (with_reducible refine only_when _ _ ?_ ?_)
      | (intro)
      | (split)
      | (with_reducible exact only_refl _ _))

theorem syncTimeout_only {ps : List Part} {s0 : State}  (s : State)
    (h : Only ps s0 s) (hp : [.frame] ⊆ ps) : Only ps s0 (syncTimeout s) :=
  Only.via hp h (by
    unfold syncTimeout
    repeat' first
      | (with_reducible assumption)
      | (with_reducible refine updShelf_only _ _ ?_ (by decide))
      | (with_reducible refine only_when _ _ ?_ ?_)
      | (intro)
      | (extract_lets +onlyGivenNames s1; refine only_cut s1 ?_ ?_; unfold s1; clear s1; rotate_left; intro hs1; clear_value s1; rotate_right)
      | (extract_lets +onlyGivenNames v1)
      | (with_reducible exact only_refl _ _))

theorem syncPulse_only {ps : List Part} {s0 : State}  (s : State)
    (h : Only ps s0 s) (hp : [.frame, .free] ⊆ ps) : Only ps s0 (syncPulse s) :=
  Only.via hp h (by
    unfold syncPulse
    repeat' first
      | (with_reducible assumption)
      | (with_reducible refine updShelf_only _ _ ?_ (by decide))
      | (with_reducible refine noteTie_only _ _ _ ?_ (by decide))
      | (with_reducible refine drawInt_only _ _ ?_ (by decide))
      | (with_reducible refine drawInt_only2 _ _ ?_ (by decide) (by assumption))
      | (with_reducible refine only_when _ _ ?_ ?_)
      | (intro)
      | (extract_lets +onlyGivenNames s1; refine only_cut s1 ?_ ?_; unfold s1; clear s1; rotate_left; intro hs1; clear_value s1; rotate_right)
      | (extract_lets +onlyGivenNames v1)
      | (split)
      | (with_reducible exact only_refl _ _))

theorem linkUp_only {ps : List Part} {s0 : State} (up : Bool) (count : Nat) (s : State)
    (h : Only ps s0 s) (hp : [.frame, .emit] ⊆ ps) : Only ps s0 (linkUp up count s) :=
  Only.via hp h (by
    unfold linkUp
    repeat' first
      | (with_reducible assumption)
      | (with_reducible refine send_only _ _ ?_ (by decide))
      | (with_reducible refine noteTie_only _ _ _ ?_ (by decide))
      | (with_reducible refine updShelf_only _ _ ?_ (by decide))
      | (with_reducible refine only_getD ?_ ?_)
      | (with_reducible refine only_when _ _ ?_ ?_)
      | (intro)
      | (extract_lets +onlyGivenNames s1; refine only_cut s1 ?_ ?_; unfold s1; clear s1; rotate_left; intro hs1; clear_value s1; rotate_right)
      | (extract_lets +onlyGivenNames v1)
      | (split)
      | (with_reducible exact only_refl _ _))

theorem linkDown_only {ps : List Part} {s0 : State} (up : Bool) (s : State)
    (h : Only ps s0 s) (hp : [.frame] ⊆ ps) : Only ps s0 (linkDown up s) :=
  Only.via hp h (by
    unfold linkDown
    repeat' first
      | (with_reducible assumption)
      | (with_reducible refine updShelf_only _ _ ?_ (by decide))
      | (intro)
      | (split)
      | (with_reducible exact only_refl _ _))

theorem setLane_only {ps : List Part} {s0 : State} (l : Nat) (a : Lane) (s : State)
    (h : Only ps s0 s) (hp : [.frame] ⊆ ps) : Only ps s0 (setLane l a s) :=
  Only.via hp h (by
    unfold setLane
    repeat' first
      | (with_reducible assumption)
      | (with_reducible refine updFrame_only _ _ ?_ (by decide))
      | (intro)
      | (with_reducible exact only_refl _ _))

theorem laneSlip_only {ps : List Part} {s0 : State} (l : Nat) (s : State)
    (h : Only ps s0 s) (hp : [.frame, .recd] ⊆ ps) : Only ps s0 (laneSlip l s) :=
  Only.via hp h (by
    unfold laneSlip
    repeat' first
      | (with_reducible assumption)
      | (with_reducible refine setLane_only _ _ _ ?_ (by decide))
      | (with_reducible refine updFrame_only _ _ ?_ (by decide))
      | (with_reducible refine updRec_only _ _ ?_ (by decide))
      | (with_reducible refine only_getD ?_ ?_)
      | (intro)
      | (extract_lets +onlyGivenNames s1; refine only_cut s1 ?_ ?_; unfold s1; clear s1; rotate_left; intro hs1; clear_value s1; rotate_right)
      | (extract_lets +onlyGivenNames v1)
      | (with_reducible exact only_refl _ _))

theorem laneCommit_only {ps : List Part} {s0 : State} (l : Nat) (s : State)
    (h : Only ps s0 s) (hp : [.frame] ⊆ ps) : Only ps s0 (laneCommit l s) :=
  Only.via hp h (by
    unfold laneCommit
    repeat' first
      | (with_reducible assumption)
      | (with_reducible refine setLane_only _ _ _ ?_ (by decide))
      | (with_reducible refine only_when _ _ ?_ ?_)
      | (intro)
      | (extract_lets +onlyGivenNames s1; refine only_cut s1 ?_ ?_; unfold s1; clear s1; rotate_left; intro hs1; clear_value s1; rotate_right)
      | (extract_lets +onlyGivenNames v1)
      | (with_reducible exact only_refl _ _))

theorem frameSlip_only {ps : List Part} {s0 : State}  (s : State)
    (h : Only ps s0 s) (hp : [.frame, .recd] ⊆ ps) : Only ps s0 (frameSlip s) :=
  Only.via hp h (by
    unfold frameSlip
    repeat' first
      | (with_reducible assumption)
      | (with_reducible refine updRec_only _ _ ?_ (by decide))
      | (with_reducible refine updFrame_only _ _ ?_ (by decide))
      | (intro)
      | (with_reducible exact only_refl _ _))

theorem commitLanes_only {ps : List Part} {s0 : State} (late : List Nat) (s : State)
    (h : Only ps s0 s) (hp : [.frame, .recd] ⊆ ps) : Only ps s0 (commitLanes late s) :=
  Only.via hp h (by
    unfold commitLanes
    repeat' first
      | (with_reducible assumption)
      | (with_reducible refine laneCommit_only _ _ ?_ (by decide))
      | (with_reducible refine laneSlip_only _ _ ?_ (by decide))
      | (with_reducible refine frameSlip_only _ ?_ (by decide))
      | (with_reducible refine only_when _ _ ?_ ?_)
      | (with_reducible refine only_forEach _ _ _ ?_ ?_)
      | (intro)
      | (extract_lets +onlyGivenNames s1; refine only_cut s1 ?_ ?_; unfold s1; clear s1; rotate_left; intro hs1; clear_value s1; rotate_right)
      | (extract_lets +onlyGivenNames v1)
      | (with_reducible exact only_refl _ _))

theorem resetLane_only {ps : List Part} {s0 : State} (l : Nat) (s : State)
    (h : Only ps s0 s) (hp : [.frame, .recd, .free] ⊆ ps) : Only ps s0 (resetLane l s) :=
  Only.via hp h (by
    unfold resetLane
    repeat' first
      | (with_reducible assumption)
      | (with_reducible refine drawNat_only ?_ (by decide))
      | (with_reducible refine drawNat_only2 ?_ (by decide) (by assumption))
      | (with_reducible refine setLane_only _ _ _ ?_ (by decide))
      | (with_reducible refine updRec_only _ _ ?_ (by decide))
      | (with_reducible refine updFrame_only _ _ ?_ (by decide))
      | (intro)
      | (extract_lets +onlyGivenNames s1; refine only_cut s1 ?_ ?_; unfold s1; clear s1; rotate_left; intro hs1; clear_value s1; rotate_right)
      | (extract_lets +onlyGivenNames v1)
      | (split)
      | (with_reducible exact only_refl _ _))

theorem rebuildLanes_only {ps : List Part} {s0 : State}  (s : State)
    (h : Only ps s0 s) (hp : [.frame] ⊆ ps) : Only ps s0 (rebuildLanes s) :=
  Only.via hp h (by
    unfold rebuildLanes
    repeat' first
      | (with_reducible assumption)
      | (with_reducible refine updFrame_only _ _ ?_ (by decide))
      | (intro)
      | (with_reducible exact only_refl _ _))

end Sys2Proof.Machine
end

