-- ==== Sys2Proof/Laws/Only/PowerOps.lean ====
section
/-! SUPPORT. Which groups of state each operation of Machine/PowerOps.lean can change. -/

set_option linter.tactic.unusedName false

namespace Sys2Proof.Machine

theorem updPower_only {ps : List Part} {s0 : State} (x0 : PowerSt → PowerSt) (s : State)
    (h : Only ps s0 s) (hp : [.power] ⊆ ps) : Only ps s0 (updPower x0 s) :=
  Only.via hp h (by
    unfold updPower
    repeat' first
      | (with_reducible assumption)
      | (intro)
      | (with_reducible exact only_refl _ _)
      | (refine only_power _ ?_ (by decide)))

theorem railWrites_only {ps : List Part} {s0 : State}  (s : State)
    (h : Only ps s0 s) (hp : [.emit] ⊆ ps) : Only ps s0 (railWrites s) :=
  Only.via hp h (by
    unfold railWrites
    repeat' first
      | (with_reducible assumption)
      | (with_reducible refine sends_only _ _ ?_ (by decide))
      | (intro)
      | (with_reducible exact only_refl _ _))

theorem railRestores_only {ps : List Part} {s0 : State}  (s : State)
    (h : Only ps s0 s) (hp : [.emit] ⊆ ps) : Only ps s0 (railRestores s) :=
  Only.via hp h (by
    unfold railRestores
    repeat' first
      | (with_reducible assumption)
      | (with_reducible refine sends_only _ _ ?_ (by decide))
      | (intro)
      | (with_reducible exact only_refl _ _))

theorem wake_only {ps : List Part} {s0 : State}  (s : State)
    (h : Only ps s0 s) (hp : [.power, .emit] ⊆ ps) : Only ps s0 (wake s) :=
  Only.via hp h (by
    unfold wake
    repeat' first
      | (with_reducible assumption)
      | (with_reducible refine updPower_only _ _ ?_ (by decide))
      | (with_reducible refine railRestores_only _ ?_ (by decide))
      | (intro)
      | (split)
      | (with_reducible exact only_refl _ _))

end Sys2Proof.Machine
end

