-- ==== Sys2Proof/Laws/Only/NsOps.lean ====
section
/-! SUPPORT. Which groups of state each operation of Machine/NsOps.lean can change. -/

set_option linter.tactic.unusedName false

namespace Sys2Proof.Machine

theorem updZone_only {ps : List Part} {s0 : State} (x0 : ZoneSt → ZoneSt) (s : State)
    (h : Only ps s0 s) (hp : [.zone] ⊆ ps) : Only ps s0 (updZone x0 s) :=
  Only.via hp h (by
    unfold updZone
    repeat' first
      | (with_reducible assumption)
      | (intro)
      | (with_reducible exact only_refl _ _)
      | (refine only_zone _ ?_ (by decide)))

theorem updMedia_only {ps : List Part} {s0 : State} (x0 : MediaSt → MediaSt) (s : State)
    (h : Only ps s0 s) (hp : [.media] ⊆ ps) : Only ps s0 (updMedia x0 s) :=
  Only.via hp h (by
    unfold updMedia
    repeat' first
      | (with_reducible assumption)
      | (intro)
      | (with_reducible exact only_refl _ _)
      | (refine only_media _ ?_ (by decide)))

theorem updNs_only {ps : List Part} {s0 : State} (x : Nat) (x1 : Ns → Ns) (s : State)
    (h : Only ps s0 s) (hp : [.zone] ⊆ ps) : Only ps s0 (updNs x x1 s) :=
  Only.via hp h (by
    unfold updNs
    repeat' first
      | (with_reducible assumption)
      | (with_reducible refine updZone_only _ _ ?_ (by decide))
      | (intro)
      | (with_reducible exact only_refl _ _))

theorem setZone_only {ps : List Part} {s0 : State} (z : Nat) (r : Zone) (s : State)
    (h : Only ps s0 s) (hp : [.zone] ⊆ ps) : Only ps s0 (setZone z r s) :=
  Only.via hp h (by
    unfold setZone
    repeat' first
      | (with_reducible assumption)
      | (with_reducible refine updZone_only _ _ ?_ (by decide))
      | (intro)
      | (with_reducible exact only_refl _ _))

theorem updZoneRec_only {ps : List Part} {s0 : State} (z : Nat) (x1 : Zone → Zone) (s : State)
    (h : Only ps s0 s) (hp : [.zone] ⊆ ps) : Only ps s0 (updZoneRec z x1 s) :=
  Only.via hp h (by
    unfold updZoneRec
    repeat' first
      | (with_reducible assumption)
      | (with_reducible refine setZone_only _ _ _ ?_ (by decide))
      | (intro)
      | (split)
      | (with_reducible exact only_refl _ _))

theorem giveBack_only {ps : List Part} {s0 : State} (fn : Nat) (s : State)
    (h : Only ps s0 s) (hp : [.host, .zone] ⊆ ps) : Only ps s0 (giveBack fn s) :=
  Only.via hp h (by
    unfold giveBack
    repeat' first
      | (with_reducible assumption)
      | (with_reducible refine updCtl_only _ _ _ ?_ (by decide))
      | (with_reducible refine updZone_only _ _ ?_ (by decide))
      | (with_reducible refine only_when _ _ ?_ ?_)
      | (intro)
      | (extract_lets +onlyGivenNames s1; refine only_cut s1 ?_ ?_; unfold s1; clear s1; rotate_left; intro hs1; clear_value s1; rotate_right)
      | (extract_lets +onlyGivenNames v1)
      | (split)
      | (with_reducible exact only_refl _ _))

theorem giveBackHeld_only {ps : List Part} {s0 : State} (it : Item) (s : State)
    (h : Only ps s0 s) (hp : [.host, .zone] ⊆ ps) : Only ps s0 (giveBackHeld it s) :=
  Only.via hp h (by
    unfold giveBackHeld
    repeat' first
      | (with_reducible assumption)
      | (with_reducible refine giveBack_only _ _ ?_ (by decide))
      | (with_reducible refine only_forEach _ _ _ ?_ ?_)
      | (intro)
      | (split)
      | (with_reducible exact only_refl _ _))

theorem moveZone_only {ps : List Part} {s0 : State} (z : Nat) (st : ZState) (s : State)
    (h : Only ps s0 s) (hp : [.host, .zone] ⊆ ps) : Only ps s0 (moveZone z st s) :=
  Only.via hp h (by
    unfold moveZone
    repeat' first
      | (with_reducible assumption)
      | (with_reducible refine setZone_only _ _ _ ?_ (by decide))
      | (with_reducible refine giveBack_only _ _ ?_ (by decide))
      | (with_reducible refine only_when _ _ ?_ ?_)
      | (intro)
      | (extract_lets +onlyGivenNames s1; refine only_cut s1 ?_ ?_; unfold s1; clear s1; rotate_left; intro hs1; clear_value s1; rotate_right)
      | (extract_lets +onlyGivenNames v1)
      | (split)
      | (with_reducible exact only_refl _ _))

end Sys2Proof.Machine
end

