-- ==== Sys2Proof/Laws/Only/Journal.lean ====
section
/-! SUPPORT. Which groups of state each operation of Machine/Journal.lean can change. -/

set_option linter.tactic.unusedName false

namespace Sys2Proof.Machine

theorem submit_only {ps : List Part} {s0 : State} (r : JRec) (s : State)
    (h : Only ps s0 s) (hp : [.media] ⊆ ps) : Only ps s0 (submit r s) :=
  Only.via hp h (by
    unfold submit
    repeat' first
      | (with_reducible assumption)
      | (with_reducible refine updMedia_only _ _ ?_ (by decide))
      | (intro)
      | (extract_lets +onlyGivenNames s1; refine only_cut s1 ?_ ?_; unfold s1; clear s1; rotate_left; intro hs1; clear_value s1; rotate_right)
      | (extract_lets +onlyGivenNames v1)
      | (with_reducible exact only_refl _ _))

theorem tell_only {ps : List Part} {s0 : State} (z : Nat) (old : ZState) (fzr : Bool) (s : State)
    (h : Only ps s0 s) (hp : [.media] ⊆ ps) : Only ps s0 (tell z old fzr s) :=
  Only.via hp h (by
    unfold tell
    repeat' first
      | (with_reducible assumption)
      | (with_reducible refine submit_only _ _ ?_ (by decide))
      | (intro)
      | (with_reducible exact only_refl _ _))

theorem journalReadOnly_only {ps : List Part} {s0 : State}  (s : State)
    (h : Only ps s0 s) (hp : [.frame, .host, .media, .inst, .therm, .pins, .recd, .emit] ⊆ ps) : Only ps s0 (journalReadOnly s) :=
  Only.via hp h (by
    unfold journalReadOnly
    repeat' first
      | (with_reducible assumption)
      | (with_reducible refine setCritical_only _ _ ?_ (by decide))
      | (with_reducible refine updMedia_only _ _ ?_ (by decide))
      | (with_reducible refine updItems_only _ _ ?_ (by decide))
      | (intro)
      | (extract_lets +onlyGivenNames s1; refine only_cut s1 ?_ ?_; unfold s1; clear s1; rotate_left; intro hs1; clear_value s1; rotate_right)
      | (extract_lets +onlyGivenNames v1)
      | (split)
      | (with_reducible exact only_refl _ _))

theorem replaceLine_only {ps : List Part} {s0 : State} (line : Nat) (s : State)
    (h : Only ps s0 s) (hp : [.frame, .host, .media, .inst, .therm, .pins, .recd, .emit] ⊆ ps) : Only ps s0 (replaceLine line s) :=
  Only.via hp h (by
    unfold replaceLine
    repeat' first
      | (with_reducible assumption)
      | (with_reducible refine journalReadOnly_only _ ?_ (by decide))
      | (with_reducible refine recEvent_only _ _ ?_ (by decide))
      | (with_reducible refine updMedia_only _ _ ?_ (by decide))
      | (with_reducible refine setCritical_only _ _ ?_ (by decide))
      | (with_reducible refine only_when _ _ ?_ ?_)
      | (intro)
      | (extract_lets +onlyGivenNames s1; refine only_cut s1 ?_ ?_; unfold s1; clear s1; rotate_left; intro hs1; clear_value s1; rotate_right)
      | (extract_lets +onlyGivenNames v1)
      | (split)
      | (with_reducible exact only_refl _ _))

theorem advanceTail_only {ps : List Part} {s0 : State}  (s : State)
    (h : Only ps s0 s) (hp : [.media] ⊆ ps) : Only ps s0 (advanceTail s) :=
  Only.via hp h (by
    unfold advanceTail
    repeat' first
      | (with_reducible assumption)
      | (with_reducible refine updMedia_only _ _ ?_ (by decide))
      | (intro)
      | (with_reducible exact only_refl _ _))

end Sys2Proof.Machine
end

