-- ==== Sys2Proof/Laws/Only/Space.lean ====
section
/-! SUPPORT. Which groups of state each operation of Machine/Space.lean can change. -/

set_option linter.tactic.unusedName false

namespace Sys2Proof.Machine

theorem updFlash_only {ps : List Part} {s0 : State} (x0 : FlashSt → FlashSt) (s : State)
    (h : Only ps s0 s) (hp : [.flash] ⊆ ps) : Only ps s0 (updFlash x0 s) :=
  Only.via hp h (by
    unfold updFlash
    repeat' first
      | (with_reducible assumption)
      | (intro)
      | (with_reducible exact only_refl _ _)
      | (refine only_flash _ ?_ (by decide)))

theorem updDie_only {ps : List Part} {s0 : State} (d : Nat) (x1 : Die → Die) (s : State)
    (h : Only ps s0 s) (hp : [.flash] ⊆ ps) : Only ps s0 (updDie d x1 s) :=
  Only.via hp h (by
    unfold updDie
    repeat' first
      | (with_reducible assumption)
      | (with_reducible refine updFlash_only _ _ ?_ (by decide))
      | (intro)
      | (with_reducible exact only_refl _ _))

theorem judgeDie_only {ps : List Part} {s0 : State} (die : Nat) (s : State)
    (h : Only ps s0 s) (hp : [.flash] ⊆ ps) : Only ps s0 (judgeDie die s) :=
  Only.via hp h (by
    unfold judgeDie
    repeat' first
      | (with_reducible assumption)
      | (with_reducible refine updDie_only _ _ _ ?_ (by decide))
      | (intro)
      | (extract_lets +onlyGivenNames s1; refine only_cut s1 ?_ ?_; unfold s1; clear s1; rotate_left; intro hs1; clear_value s1; rotate_right)
      | (extract_lets +onlyGivenNames v1)
      | (split)
      | (with_reducible exact only_refl _ _))

theorem setBlock_only {ps : List Part} {s0 : State} (die : Nat) (b : Nat) (x : DieBlock) (s : State)
    (h : Only ps s0 s) (hp : [.media] ⊆ ps) : Only ps s0 (setBlock die b x s) :=
  Only.via hp h (by
    unfold setBlock
    repeat' first
      | (with_reducible assumption)
      | (with_reducible refine updMedia_only _ _ ?_ (by decide))
      | (intro)
      | (with_reducible exact only_refl _ _))

theorem updGroup_only {ps : List Part} {s0 : State} (eg : Nat) (x1 : Group → Group) (s : State)
    (h : Only ps s0 s) (hp : [.media] ⊆ ps) : Only ps s0 (updGroup eg x1 s) :=
  Only.via hp h (by
    unfold updGroup
    repeat' first
      | (with_reducible assumption)
      | (with_reducible refine updMedia_only _ _ ?_ (by decide))
      | (intro)
      | (with_reducible exact only_refl _ _))

theorem takeBlocks_only {ps : List Part} {s0 : State} (eg i : Nat) (l : List (Nat × Die)) {s : State}
    (h : Only ps s0 s) (hp : [.media] ⊆ ps) : Only ps s0 (takeBlocks eg i l s).2 := by
  induction l generalizing i s with
  | nil => exact h
  | cons p t ih => exact ih (i + 1) (setBlock_only _ _ _ _ h hp)

theorem takeBlocks_only2 {ps : List Part} {s0 : State} (eg i : Nat) (l : List (Nat × Die)) {s t : State} {v}
    (h : Only ps s0 s) (hp : [.media] ⊆ ps) (e : takeBlocks eg i l s = (v, t)) : Only ps s0 t := by
  have k := takeBlocks_only eg i l h hp
  rw [e] at k; exact k

theorem formGroup_only {ps : List Part} {s0 : State} (w : Want) (c : Nat) (dies : List (Nat × Die)) (slow : Bool) (fallback : Bool) {s : State}
    (h : Only ps s0 s) (hp : [.media] ⊆ ps) : Only ps s0 (formGroup w c dies slow fallback s).2 :=
  Only.via hp h (by
    unfold formGroup
    repeat' first
      | (with_reducible assumption)
      | (with_reducible refine takeBlocks_only _ _ _ ?_ (by decide))
      | (with_reducible refine takeBlocks_only2 _ _ _ ?_ (by decide) (by assumption))
      | (with_reducible refine updMedia_only _ _ ?_ (by decide))
      | (with_reducible refine submit_only _ _ ?_ (by decide))
      | (intro)
      | (extract_lets +onlyGivenNames s1; refine only_cut s1 ?_ ?_; unfold s1; clear s1; rotate_left; intro hs1; clear_value s1; rotate_right)
      | (extract_lets +onlyGivenNames v1)
      | (split)
      | (with_reducible exact only_refl _ _))

theorem formGroup_only2 {ps : List Part} {s0 : State} (w : Want) (c : Nat) (dies : List (Nat × Die)) (slow : Bool) (fallback : Bool) {s t : State} {v}
    (h : Only ps s0 s) (hp : [.media] ⊆ ps) (e : formGroup w c dies slow fallback s = (v, t)) : Only ps s0 t := by
  have k := formGroup_only w c dies slow fallback h hp
  rw [e] at k; exact k

theorem newGroup_only2 {ps : List Part} {s0 : State} (w : Want) (beyond : Bool) {s t : State} {eg : Nat}
    (h : Only ps s0 s) (hp : [.media] ⊆ ps) (e : newGroup w beyond s = some (eg, t)) : Only ps s0 t := by
  unfold newGroup at e
  split at e
  · cases e
  · split at e
    · exact formGroup_only2 _ _ _ _ _ h hp (Option.some.inj e)
    · cases e

theorem chooseGroup_only2 {ps : List Part} {s0 : State} (w : Want) (beyond : Bool) {s t : State} {eg : Nat}
    (h : Only ps s0 s) (hp : [.media] ⊆ ps) (e : chooseGroup w beyond s = some (eg, t)) : Only ps s0 t := by
  unfold chooseGroup at e
  split at e
  · cases e; exact h
  · exact newGroup_only2 w beyond h hp e

theorem enterLastShelf_only {ps : List Part} {s0 : State} (c : Nat) (s : State)
    (h : Only ps s0 s) (hp : [.frame, .host, .media, .inst, .therm, .pins, .recd, .emit] ⊆ ps) : Only ps s0 (enterLastShelf c s) :=
  Only.via hp h (by
    unfold enterLastShelf
    repeat' first
      | (with_reducible assumption)
      | (with_reducible refine setCritical_only _ _ ?_ (by decide))
      | (with_reducible refine updMedia_only _ _ ?_ (by decide))
      | (intro)
      | (split)
      | (with_reducible exact only_refl _ _))

theorem leaveLastShelf_only {ps : List Part} {s0 : State}  (s : State)
    (h : Only ps s0 s) (hp : [.media, .therm] ⊆ ps) : Only ps s0 (leaveLastShelf s) :=
  Only.via hp h (by
    unfold leaveLastShelf
    repeat' first
      | (with_reducible assumption)
      | (with_reducible refine updMedia_only _ _ ?_ (by decide))
      | (with_reducible refine clearCritical_only _ _ ?_ (by decide))
      | (with_reducible refine only_when _ _ ?_ ?_)
      | (intro)
      | (extract_lets +onlyGivenNames s1; refine only_cut s1 ?_ ?_; unfold s1; clear s1; rotate_left; intro hs1; clear_value s1; rotate_right)
      | (extract_lets +onlyGivenNames v1)
      | (split)
      | (with_reducible exact only_refl _ _))

theorem reserveRow_only {ps : List Part} {s0 : State} (eg : Nat) (s : State)
    (h : Only ps s0 s) (hp : [.media] ⊆ ps) : Only ps s0 (reserveRow eg s) :=
  Only.via hp h (by
    unfold reserveRow
    repeat' first
      | (with_reducible assumption)
      | (with_reducible refine updGroup_only _ _ _ ?_ (by decide))
      | (intro)
      | (with_reducible exact only_refl _ _))

theorem takePend_only {ps : List Part} {s0 : State} (eg : Nat) (s : State)
    (h : Only ps s0 s) (hp : [.media] ⊆ ps) : Only ps s0 (takePend eg s) :=
  Only.via hp h (by
    unfold takePend
    repeat' first
      | (with_reducible assumption)
      | (with_reducible refine updGroup_only _ _ _ ?_ (by decide))
      | (intro)
      | (extract_lets +onlyGivenNames s1; refine only_cut s1 ?_ ?_; unfold s1; clear s1; rotate_left; intro hs1; clear_value s1; rotate_right)
      | (extract_lets +onlyGivenNames v1)
      | (with_reducible exact only_refl _ _))

theorem pendErase_only {ps : List Part} {s0 : State} (eg : Nat) (s : State)
    (h : Only ps s0 s) (hp : [.media] ⊆ ps) : Only ps s0 (pendErase eg s) :=
  Only.via hp h (by
    unfold pendErase
    repeat' first
      | (with_reducible assumption)
      | (with_reducible refine submit_only _ _ ?_ (by decide))
      | (with_reducible refine takePend_only _ _ ?_ (by decide))
      | (intro)
      | (split)
      | (with_reducible exact only_refl _ _))

theorem pendIfEmpty_only {ps : List Part} {s0 : State} (eg : Nat) (s : State)
    (h : Only ps s0 s) (hp : [.media] ⊆ ps) : Only ps s0 (pendIfEmpty eg s) :=
  Only.via hp h (by
    unfold pendIfEmpty
    repeat' first
      | (with_reducible assumption)
      | (with_reducible refine pendErase_only _ _ ?_ (by decide))
      | (intro)
      | (split)
      | (with_reducible exact only_refl _ _))

theorem loseValid_only {ps : List Part} {s0 : State} (eg : Nat) (n : Nat) (s : State)
    (h : Only ps s0 s) (hp : [.media] ⊆ ps) : Only ps s0 (loseValid eg n s) :=
  Only.via hp h (by
    unfold loseValid
    repeat' first
      | (with_reducible assumption)
      | (with_reducible refine pendIfEmpty_only _ _ ?_ (by decide))
      | (with_reducible refine updGroup_only _ _ _ ?_ (by decide))
      | (intro)
      | (with_reducible exact only_refl _ _))

theorem gainValid_only {ps : List Part} {s0 : State} (eg : Nat) (n : Nat) (s : State)
    (h : Only ps s0 s) (hp : [.media] ⊆ ps) : Only ps s0 (gainValid eg n s) :=
  Only.via hp h (by
    unfold gainValid
    repeat' first
      | (with_reducible assumption)
      | (with_reducible refine updGroup_only _ _ _ ?_ (by decide))
      | (intro)
      | (with_reducible exact only_refl _ _))

theorem closeIfDone_only {ps : List Part} {s0 : State} (eg : Nat) (s : State)
    (h : Only ps s0 s) (hp : [.media] ⊆ ps) : Only ps s0 (closeIfDone eg s) :=
  Only.via hp h (by
    unfold closeIfDone
    repeat' first
      | (with_reducible assumption)
      | (with_reducible refine submit_only _ _ ?_ (by decide))
      | (intro)
      | (split)
      | (with_reducible exact only_refl _ _))

theorem closeEarly_only {ps : List Part} {s0 : State} (eg : Nat) (s : State)
    (h : Only ps s0 s) (hp : [.media] ⊆ ps) : Only ps s0 (closeEarly eg s) :=
  Only.via hp h (by
    unfold closeEarly
    repeat' first
      | (with_reducible assumption)
      | (with_reducible refine closeIfDone_only _ _ ?_ (by decide))
      | (with_reducible refine updGroup_only _ _ _ ?_ (by decide))
      | (intro)
      | (with_reducible exact only_refl _ _))

theorem forgetGroup_only {ps : List Part} {s0 : State} (eg : Nat) (s : State)
    (h : Only ps s0 s) (hp : [.zone] ⊆ ps) : Only ps s0 (forgetGroup eg s) :=
  Only.via hp h (by
    unfold forgetGroup
    repeat' first
      | (with_reducible assumption)
      | (with_reducible refine updZone_only _ _ ?_ (by decide))
      | (intro)
      | (extract_lets +onlyGivenNames s1; refine only_cut s1 ?_ ?_; unfold s1; clear s1; rotate_left; intro hs1; clear_value s1; rotate_right)
      | (extract_lets +onlyGivenNames k1; have _ck := fun x => (k1 x : State → State); clear _ck)
      | (extract_lets +onlyGivenNames k1; have _ck := fun x => (k1 x : State); clear _ck)
      | (extract_lets +onlyGivenNames v1)
      | (split)
      | (with_reducible exact only_refl _ _)
      | (dsimp only [k1]))

theorem areaBlock_only {ps : List Part} {s0 : State} (eg : Nat) (i : Nat) (die : Nat) (b : Nat) (s : State)
    (h : Only ps s0 s) (hp : [.media] ⊆ ps) : Only ps s0 (areaBlock eg i die b s) :=
  Only.via hp h (by
    unfold areaBlock
    repeat' first
      | (with_reducible assumption)
      | (with_reducible refine setBlock_only _ _ _ _ ?_ (by decide))
      | (intro)
      | (with_reducible exact only_refl _ _))

theorem formArea_onlyOpt {ps : List Part} {s0 : State} (st : EgState) (s : State)
    (h : Only ps s0 s) (hp : [.media] ⊆ ps) : OnlyOpt ps s0 (formArea st s) :=
  OnlyOpt.via hp h (by
    unfold formArea
    repeat' first
      | (with_reducible assumption)
      | (with_reducible refine formGroup_only _ _ _ _ _ ?_ (by decide))
      | (with_reducible refine formGroup_only2 _ _ _ _ _ ?_ (by decide) (by assumption))
      | (with_reducible refine updGroup_only _ _ _ ?_ (by decide))
      | (with_reducible refine areaBlock_only _ _ _ _ _ ?_ (by decide))
      | (with_reducible refine only_forEach _ _ _ ?_ ?_)
      | (intro)
      | (extract_lets +onlyGivenNames s1; refine only_cut s1 ?_ ?_; unfold s1; clear s1; rotate_left; intro hs1; clear_value s1; rotate_right)
      | (extract_lets +onlyGivenNames v1)
      | (split)
      | (with_reducible exact only_refl _ _)
      | (with_reducible exact onlyOpt_none _ _)
      | (with_reducible refine onlyOpt_some ?_))

theorem formArea_only2 {ps : List Part} {s0 : State} (st : EgState) {s t : State}
    (h : Only ps s0 s) (hp : [.media] ⊆ ps) (e : formArea st s = some t) : Only ps s0 t :=
  (formArea_onlyOpt st _ h hp).only t e

theorem joinSlot_only {ps : List Part} {s0 : State} (eg : Nat) (ms : List Member) (s : State)
    (h : Only ps s0 s) (hp : [.media] ⊆ ps) : Only ps s0 (joinSlot eg ms s) :=
  Only.via hp h (by
    unfold joinSlot
    repeat' first
      | (with_reducible assumption)
      | (with_reducible refine areaBlock_only _ _ _ _ _ ?_ (by decide))
      | (with_reducible refine only_forEach _ _ _ ?_ ?_)
      | (intro)
      | (with_reducible exact only_refl _ _))

theorem formSlot_only {ps : List Part} {s0 : State} (k : Nat) (s : State)
    (h : Only ps s0 s) (hp : [.media] ⊆ ps) : Only ps s0 (formSlot k s) :=
  Only.via hp h (by
    unfold formSlot
    repeat' first
      | (with_reducible assumption)
      | (with_reducible refine joinSlot_only _ _ _ ?_ (by decide))
      | (with_reducible refine updMedia_only _ _ ?_ (by decide))
      | (with_reducible refine only_getD ?_ ?_)
      | (intro)
      | (extract_lets +onlyGivenNames s1; refine only_cut s1 ?_ ?_; unfold s1; clear s1; rotate_left; intro hs1; clear_value s1; rotate_right)
      | (extract_lets +onlyGivenNames v1)
      | (split)
      | (with_reducible exact only_refl _ _))

theorem eraseSlot_only {ps : List Part} {s0 : State} (k : Nat) (s : State)
    (h : Only ps s0 s) (hp : [.media] ⊆ ps) : Only ps s0 (eraseSlot k s) :=
  Only.via hp h (by
    unfold eraseSlot
    repeat' first
      | (with_reducible assumption)
      | (with_reducible refine setBlock_only _ _ _ _ ?_ (by decide))
      | (with_reducible refine joinSlot_only _ _ _ ?_ (by decide))
      | (with_reducible refine updGroup_only _ _ _ ?_ (by decide))
      | (with_reducible refine only_forEach _ _ _ ?_ ?_)
      | (intro)
      | (extract_lets +onlyGivenNames s1; refine only_cut s1 ?_ ?_; unfold s1; clear s1; rotate_left; intro hs1; clear_value s1; rotate_right)
      | (extract_lets +onlyGivenNames v1)
      | (split)
      | (with_reducible exact only_refl _ _))

theorem formAreas_only {ps : List Part} {s0 : State} (n : Nat) (s : State)
    (h : Only ps s0 s) (hp : [.media] ⊆ ps) : Only ps s0 (formAreas n s) :=
  Only.via hp h (by
    clear h hp
    fun_induction formAreas n s with
    | case1 s => exact only_refl _ _
    | case2 k s sys st t e ih =>
      obtain ⟨a, _, ha⟩ := Option.bind_eq_some_iff.mp e
      exact Only.trans (formArea_only2 _ (only_refl _ _) (by decide) ha) ih
    | case3 k s sys st e => exact only_refl _ _)

theorem rewrapKeys_only {ps : List Part} {s0 : State}  (s : State)
    (h : Only ps s0 s) (hp : [.media] ⊆ ps) : Only ps s0 (rewrapKeys s) :=
  Only.via hp h (by
    unfold rewrapKeys
    repeat' first
      | (with_reducible assumption)
      | (with_reducible refine formArea_onlyOpt _ _ ?_ (by decide))
      | (with_reducible refine formArea_only2 _ ?_ (by decide) (by assumption))
      | (with_reducible refine pendErase_only _ _ ?_ (by decide))
      | (with_reducible refine updMedia_only _ _ ?_ (by decide))
      | (with_reducible refine only_getD ?_ ?_)
      | (with_reducible refine only_forEach _ _ _ ?_ ?_)
      | (intro)
      | (extract_lets +onlyGivenNames s1; refine only_cut s1 ?_ ?_; unfold s1; clear s1; rotate_left; intro hs1; clear_value s1; rotate_right)
      | (extract_lets +onlyGivenNames v1)
      | (split)
      | (with_reducible exact only_refl _ _))

theorem buildAreas_only {ps : List Part} {s0 : State}  (s : State)
    (h : Only ps s0 s) (hp : [.media] ⊆ ps) : Only ps s0 (buildAreas s) :=
  Only.via hp h (by
    unfold buildAreas
    repeat' first
      | (with_reducible assumption)
      | (with_reducible refine formAreas_only _ _ ?_ (by decide))
      | (with_reducible refine formSlot_only _ _ ?_ (by decide))
      | (with_reducible refine rewrapKeys_only _ ?_ (by decide))
      | (with_reducible refine only_forEach _ _ _ ?_ ?_)
      | (intro)
      | (extract_lets +onlyGivenNames s1; refine only_cut s1 ?_ ?_; unfold s1; clear s1; rotate_left; intro hs1; clear_value s1; rotate_right)
      | (extract_lets +onlyGivenNames v1)
      | (split)
      | (with_reducible exact only_refl _ _))

theorem refugeAgain_only {ps : List Part} {s0 : State} (eg : Nat) (s : State)
    (h : Only ps s0 s) (hp : [.media] ⊆ ps) : Only ps s0 (refugeAgain eg s) :=
  Only.via hp h (by
    unfold refugeAgain
    repeat' first
      | (with_reducible assumption)
      | (with_reducible refine updMedia_only _ _ ?_ (by decide))
      | (with_reducible refine updGroup_only _ _ _ ?_ (by decide))
      | (with_reducible refine areaBlock_only _ _ _ _ _ ?_ (by decide))
      | (with_reducible refine setBlock_only _ _ _ _ ?_ (by decide))
      | (with_reducible refine only_forEach _ _ _ ?_ ?_)
      | (intro)
      | (extract_lets +onlyGivenNames s1; refine only_cut s1 ?_ ?_; unfold s1; clear s1; rotate_left; intro hs1; clear_value s1; rotate_right)
      | (extract_lets +onlyGivenNames v1)
      | (split)
      | (with_reducible exact only_refl _ _))

end Sys2Proof.Machine
end

