-- ==== Sys2Proof/Laws/Only/Landing.lean ====
section
/-! SUPPORT. Which groups of state each operation of Machine/Landing.lean can change. -/

set_option linter.tactic.unusedName false

namespace Sys2Proof.Machine

theorem setPm_only {ps : List Part} {s0 : State} (x : Nat) (u : Nat) (x2 : Option PmEntry) (s : State)
    (h : Only ps s0 s) (hp : [.media] ⊆ ps) : Only ps s0 (setPm x u x2 s) :=
  Only.via hp h (by
    unfold setPm
    repeat' first
      | (with_reducible assumption)
      | (with_reducible refine updMedia_only _ _ ?_ (by decide))
      | (intro)
      | (split)
      | (with_reducible exact only_refl _ _))

theorem updLanding_only {ps : List Part} {s0 : State} (x0 : List Landed → List Landed) (s : State)
    (h : Only ps s0 s) (hp : [.media] ⊆ ps) : Only ps s0 (updLanding x0 s) :=
  Only.via hp h (by
    unfold updLanding
    repeat' first
      | (with_reducible assumption)
      | (with_reducible refine updMedia_only _ _ ?_ (by decide))
      | (intro)
      | (with_reducible exact only_refl _ _))

theorem updLanded_only {ps : List Part} {s0 : State} (order : Nat) (x1 : Landed → Landed) (s : State)
    (h : Only ps s0 s) (hp : [.media] ⊆ ps) : Only ps s0 (updLanded order x1 s) :=
  Only.via hp h (by
    unfold updLanded
    repeat' first
      | (with_reducible assumption)
      | (with_reducible refine updLanding_only _ _ ?_ (by decide))
      | (intro)
      | (split)
      | (with_reducible exact only_refl _ _))

theorem releaseEntry_only {ps : List Part} {s0 : State} (order : Nat) (s : State)
    (h : Only ps s0 s) (hp : [.media] ⊆ ps) : Only ps s0 (releaseEntry order s) :=
  Only.via hp h (by
    unfold releaseEntry
    repeat' first
      | (with_reducible assumption)
      | (with_reducible refine updLanding_only _ _ ?_ (by decide))
      | (intro)
      | (split)
      | (with_reducible exact only_refl _ _))

theorem pinEntry_only {ps : List Part} {s0 : State} (order : Nat) (s : State)
    (h : Only ps s0 s) (hp : [.media] ⊆ ps) : Only ps s0 (pinEntry order s) :=
  Only.via hp h (by
    unfold pinEntry
    repeat' first
      | (with_reducible assumption)
      | (with_reducible refine updLanded_only _ _ _ ?_ (by decide))
      | (intro)
      | (with_reducible exact only_refl _ _))

theorem unpinEntry_only {ps : List Part} {s0 : State} (order : Nat) (s : State)
    (h : Only ps s0 s) (hp : [.media] ⊆ ps) : Only ps s0 (unpinEntry order s) :=
  Only.via hp h (by
    unfold unpinEntry
    repeat' first
      | (with_reducible assumption)
      | (with_reducible refine updLanding_only _ _ ?_ (by decide))
      | (intro)
      | (split)
      | (with_reducible exact only_refl _ _))

theorem land_only {ps : List Part} {s0 : State} (x : Nat) (n : Ns) (u : Nat) (x3 : Stored) (writer : Option Nat) (lc : Nat) (s : State)
    (h : Only ps s0 s) (hp : [.media] ⊆ ps) : Only ps s0 (land x n u x3 writer lc s) :=
  Only.via hp h (by
    unfold land
    repeat' first
      | (with_reducible assumption)
      | (with_reducible refine updMedia_only _ _ ?_ (by decide))
      | (with_reducible refine setPm_only _ _ _ _ ?_ (by decide))
      | (with_reducible refine only_when _ _ ?_ ?_)
      | (intro)
      | (extract_lets +onlyGivenNames s1; refine only_cut s1 ?_ ?_; unfold s1; clear s1; rotate_left; intro hs1; clear_value s1; rotate_right)
      | (extract_lets +onlyGivenNames v1)
      | (split)
      | (with_reducible exact only_refl _ _))

theorem releaseEarlier_only {ps : List Part} {s0 : State} (x0 : Option PmEntry) (s : State)
    (h : Only ps s0 s) (hp : [.media] ⊆ ps) : Only ps s0 (releaseEarlier x0 s) :=
  Only.via hp h (by
    unfold releaseEarlier
    repeat' first
      | (with_reducible assumption)
      | (with_reducible refine loseValid_only _ _ _ ?_ (by decide))
      | (with_reducible refine releaseEntry_only _ _ ?_ (by decide))
      | (with_reducible refine only_when _ _ ?_ ?_)
      | (intro)
      | (split)
      | (with_reducible exact only_refl _ _))

theorem restoreUnit_only {ps : List Part} {s0 : State} (x0 : Landed) (s : State)
    (h : Only ps s0 s) (hp : [.media] ⊆ ps) : Only ps s0 (restoreUnit x0 s) :=
  Only.via hp h (by
    unfold restoreUnit
    repeat' first
      | (with_reducible assumption)
      | (with_reducible refine setPm_only _ _ _ _ ?_ (by decide))
      | (with_reducible refine loseValid_only _ _ _ ?_ (by decide))
      | (with_reducible refine updLanding_only _ _ ?_ (by decide))
      | (with_reducible refine releaseEntry_only _ _ ?_ (by decide))
      | (with_reducible refine only_forEach _ _ _ ?_ ?_)
      | (intro)
      | (extract_lets +onlyGivenNames s1; refine only_cut s1 ?_ ?_; unfold s1; clear s1; rotate_left; intro hs1; clear_value s1; rotate_right)
      | (extract_lets +onlyGivenNames v1)
      | (split)
      | (with_reducible exact only_refl _ _))

theorem acknowledge_only {ps : List Part} {s0 : State} (seq : Nat) (s : State)
    (h : Only ps s0 s) (hp : [.media] ⊆ ps) : Only ps s0 (acknowledge seq s) :=
  Only.via hp h (by
    unfold acknowledge
    repeat' first
      | (with_reducible assumption)
      | (with_reducible refine updLanded_only _ _ _ ?_ (by decide))
      | (with_reducible refine releaseEntry_only _ _ ?_ (by decide))
      | (with_reducible refine releaseEarlier_only _ _ ?_ (by decide))
      | (with_reducible refine only_forEach _ _ _ ?_ ?_)
      | (intro)
      | (extract_lets +onlyGivenNames s1; refine only_cut s1 ?_ ?_; unfold s1; clear s1; rotate_left; intro hs1; clear_value s1; rotate_right)
      | (extract_lets +onlyGivenNames v1)
      | (with_reducible exact only_refl _ _))

theorem discardLanded_only {ps : List Part} {s0 : State} (seq : Nat) (s : State)
    (h : Only ps s0 s) (hp : [.media] ⊆ ps) : Only ps s0 (discardLanded seq s) :=
  Only.via hp h (by
    unfold discardLanded
    repeat' first
      | (with_reducible assumption)
      | (with_reducible refine releaseEntry_only _ _ ?_ (by decide))
      | (with_reducible refine restoreUnit_only _ _ ?_ (by decide))
      | (with_reducible refine only_forEach _ _ _ ?_ ?_)
      | (intro)
      | (split)
      | (with_reducible exact only_refl _ _))

theorem fitBlocks_only {ps : List Part} {s0 : State} (z : Nat) (s : State)
    (h : Only ps s0 s) (hp : [.zone] ⊆ ps) : Only ps s0 (fitBlocks z s) :=
  Only.via hp h (by
    unfold fitBlocks
    repeat' first
      | (with_reducible assumption)
      | (with_reducible refine setZone_only _ _ _ ?_ (by decide))
      | (intro)
      | (extract_lets +onlyGivenNames s1; refine only_cut s1 ?_ ?_; unfold s1; clear s1; rotate_left; intro hs1; clear_value s1; rotate_right)
      | (extract_lets +onlyGivenNames v1)
      | (split)
      | (with_reducible exact only_refl _ _))

theorem dropLanded_only {ps : List Part} {s0 : State} (z : Nat) (off : Nat) (s : State)
    (h : Only ps s0 s) (hp : [.media] ⊆ ps) : Only ps s0 (dropLanded z off s) :=
  Only.via hp h (by
    unfold dropLanded
    repeat' first
      | (with_reducible assumption)
      | (with_reducible refine releaseEntry_only _ _ ?_ (by decide))
      | (with_reducible refine only_forEach _ _ _ ?_ ?_)
      | (intro)
      | (extract_lets +onlyGivenNames s1; refine only_cut s1 ?_ ?_; unfold s1; clear s1; rotate_left; intro hs1; clear_value s1; rotate_right)
      | (extract_lets +onlyGivenNames v1)
      | (split)
      | (with_reducible exact only_refl _ _))

theorem cutZone_only {ps : List Part} {s0 : State} (z : Nat) (off : Nat) (s : State)
    (h : Only ps s0 s) (hp : [.zone, .media] ⊆ ps) : Only ps s0 (cutZone z off s) :=
  Only.via hp h (by
    unfold cutZone
    repeat' first
      | (with_reducible assumption)
      | (with_reducible refine fitBlocks_only _ _ ?_ (by decide))
      | (with_reducible refine setZone_only _ _ _ ?_ (by decide))
      | (with_reducible refine loseValid_only _ _ _ ?_ (by decide))
      | (with_reducible refine only_forEach _ _ _ ?_ ?_)
      | (intro)
      | (extract_lets +onlyGivenNames s1; refine only_cut s1 ?_ ?_; unfold s1; clear s1; rotate_left; intro hs1; clear_value s1; rotate_right)
      | (extract_lets +onlyGivenNames v1)
      | (split)
      | (with_reducible exact only_refl _ _))

theorem dropCopies_only {ps : List Part} {s0 : State} (x : Nat) (lo : Nat) (hi : Nat) (s : State)
    (h : Only ps s0 s) (hp : [.media, .flash] ⊆ ps) : Only ps s0 (dropCopies x lo hi s) :=
  Only.via hp h (by
    unfold dropCopies
    repeat' first
      | (with_reducible assumption)
      | (with_reducible refine updMedia_only _ _ ?_ (by decide))
      | (intro)
      | (extract_lets +onlyGivenNames s1; refine only_cut s1 ?_ ?_; unfold s1; clear s1; rotate_left; intro hs1; clear_value s1; rotate_right)
      | (extract_lets +onlyGivenNames k1; have _ck := fun x => (k1 x : State → State); clear _ck)
      | (extract_lets +onlyGivenNames k1; have _ck := fun x => (k1 x : State); clear _ck)
      | (extract_lets +onlyGivenNames v1)
      | (split)
      | (with_reducible exact only_refl _ _)
      | (refine only_flash _ ?_ (by decide))
      | (dsimp only [k1]))

theorem unmapZoneFrom_only {ps : List Part} {s0 : State} (z : Nat) (off : Nat) (s : State)
    (h : Only ps s0 s) (hp : [.zone, .media, .flash] ⊆ ps) : Only ps s0 (unmapZoneFrom z off s) :=
  Only.via hp h (by
    unfold unmapZoneFrom
    repeat' first
      | (with_reducible assumption)
      | (with_reducible refine dropCopies_only _ _ _ _ ?_ (by decide))
      | (with_reducible refine dropLanded_only _ _ _ ?_ (by decide))
      | (with_reducible refine cutZone_only _ _ _ ?_ (by decide))
      | (intro)
      | (extract_lets +onlyGivenNames s1; refine only_cut s1 ?_ ?_; unfold s1; clear s1; rotate_left; intro hs1; clear_value s1; rotate_right)
      | (extract_lets +onlyGivenNames v1)
      | (split)
      | (with_reducible exact only_refl _ _))

theorem unmapUnit_only {ps : List Part} {s0 : State} (x : Nat) (u : Nat) (s : State)
    (h : Only ps s0 s) (hp : [.media] ⊆ ps) : Only ps s0 (unmapUnit x u s) :=
  Only.via hp h (by
    unfold unmapUnit
    repeat' first
      | (with_reducible assumption)
      | (with_reducible refine setPm_only _ _ _ _ ?_ (by decide))
      | (with_reducible refine loseValid_only _ _ _ ?_ (by decide))
      | (with_reducible refine releaseEntry_only _ _ ?_ (by decide))
      | (with_reducible refine releaseEarlier_only _ _ ?_ (by decide))
      | (with_reducible refine updLanded_only _ _ _ ?_ (by decide))
      | (intro)
      | (extract_lets +onlyGivenNames s1; refine only_cut s1 ?_ ?_; unfold s1; clear s1; rotate_left; intro hs1; clear_value s1; rotate_right)
      | (extract_lets +onlyGivenNames v1)
      | (split)
      | (with_reducible exact only_refl _ _))

theorem unmapUnits_only {ps : List Part} {s0 : State} (x : Nat) (first : Nat) (n : Nat) (s : State)
    (h : Only ps s0 s) (hp : [.media] ⊆ ps) : Only ps s0 (unmapUnits x first n s) :=
  Only.via hp h (by
    unfold unmapUnits
    repeat' first
      | (with_reducible assumption)
      | (with_reducible refine unmapUnit_only _ _ _ ?_ (by decide))
      | (with_reducible refine only_forEach _ _ _ ?_ ?_)
      | (intro)
      | (with_reducible exact only_refl _ _))

theorem markSegs_only {ps : List Part} {s0 : State} (l : List Nat) (s : State)
    (h : Only ps s0 s) (hp : [.media] ⊆ ps) : Only ps s0 (markSegs l s) :=
  Only.via hp h (by
    unfold markSegs
    repeat' first
      | (with_reducible assumption)
      | (with_reducible refine updMedia_only _ _ ?_ (by decide))
      | (intro)
      | (with_reducible exact only_refl _ _))

end Sys2Proof.Machine
end

