-- ==== Sys2Proof/Laws/Only/Tables.lean ====
section
/-! SUPPORT. Which groups of state each operation of Machine/Tables.lean can change. -/

set_option linter.tactic.unusedName false

namespace Sys2Proof.Machine

theorem writeLine_only {ps : List Part} {s0 : State} (line : Nat) (s : State)
    (h : Only ps s0 s) (hp : [.media] ⊆ ps) : Only ps s0 (writeLine line s) :=
  Only.via hp h (by
    unfold writeLine
    repeat' first
      | (with_reducible assumption)
      | (with_reducible refine updMedia_only _ _ ?_ (by decide))
      | (intro)
      | (extract_lets +onlyGivenNames s1; refine only_cut s1 ?_ ?_; unfold s1; clear s1; rotate_left; intro hs1; clear_value s1; rotate_right)
      | (extract_lets +onlyGivenNames v1)
      | (split)
      | (with_reducible exact only_refl _ _))

theorem rewriteRec_only {ps : List Part} {s0 : State} (q : Nat) (s : State)
    (h : Only ps s0 s) (hp : [.media] ⊆ ps) : Only ps s0 (rewriteRec q s) :=
  Only.via hp h (by
    unfold rewriteRec
    repeat' first
      | (with_reducible assumption)
      | (with_reducible refine updMedia_only _ _ ?_ (by decide))
      | (with_reducible refine submit_only _ _ ?_ (by decide))
      | (intro)
      | (extract_lets +onlyGivenNames s1; refine only_cut s1 ?_ ?_; unfold s1; clear s1; rotate_left; intro hs1; clear_value s1; rotate_right)
      | (extract_lets +onlyGivenNames v1)
      | (split)
      | (with_reducible exact only_refl _ _))

theorem dropAges_only {ps : List Part} {s0 : State} (i : Nat) (s : State)
    (h : Only ps s0 s) (hp : [.media] ⊆ ps) : Only ps s0 (dropAges i s) :=
  Only.via hp h (by
    unfold dropAges
    repeat' first
      | (with_reducible assumption)
      | (with_reducible refine updMedia_only _ _ ?_ (by decide))
      | (intro)
      | (extract_lets +onlyGivenNames s1; refine only_cut s1 ?_ ?_; unfold s1; clear s1; rotate_left; intro hs1; clear_value s1; rotate_right)
      | (extract_lets +onlyGivenNames k1; have _ck := fun x => (k1 x : State → State); clear _ck)
      | (extract_lets +onlyGivenNames k1; have _ck := fun x => (k1 x : State); clear _ck)
      | (extract_lets +onlyGivenNames v1)
      | (with_reducible exact only_refl _ _)
      | (dsimp only [k1]))

theorem rebuildLine_only {ps : List Part} {s0 : State} (l : JLine) (s : State)
    (h : Only ps s0 s) (hp : [.media, .fw, .recd] ⊆ ps) : Only ps s0 (rebuildLine l s) :=
  Only.via hp h (by
    unfold rebuildLine
    repeat' first
      | (with_reducible assumption)
      | (with_reducible refine rewriteRec_only _ _ ?_ (by decide))
      | (with_reducible refine writeLine_only _ _ ?_ (by decide))
      | (with_reducible refine dropAges_only _ _ ?_ (by decide))
      | (with_reducible refine recEvent_only _ _ ?_ (by decide))
      | (intro)
      | (extract_lets +onlyGivenNames s1; refine only_cut s1 ?_ ?_; unfold s1; clear s1; rotate_left; intro hs1; clear_value s1; rotate_right)
      | (extract_lets +onlyGivenNames v1)
      | (split)
      | (with_reducible exact only_refl _ _)
      | (exact hs1.trans ⟨fun p hn => by cases p <;> first | rfl | exact absurd hn (by decide)⟩)
      | (exact ⟨fun p hn => by cases p <;> first | rfl | exact absurd hn (by decide)⟩)
      | (refine only_fw _ ?_ (by decide))
      | (refine only_recd _ ?_ (by decide)))

theorem correctLine_only {ps : List Part} {s0 : State} (line : Nat) (s : State)
    (h : Only ps s0 s) (hp : [.frame, .host, .media, .inst, .therm, .pins, .recd, .emit] ⊆ ps) : Only ps s0 (correctLine line s) :=
  Only.via hp h (by
    unfold correctLine
    repeat' first
      | (with_reducible assumption)
      | (with_reducible refine updMedia_only _ _ ?_ (by decide))
      | (with_reducible refine replaceLine_only _ _ ?_ (by decide))
      | (intro)
      | (extract_lets +onlyGivenNames s1; refine only_cut s1 ?_ ?_; unfold s1; clear s1; rotate_left; intro hs1; clear_value s1; rotate_right)
      | (extract_lets +onlyGivenNames v1)
      | (split)
      | (with_reducible exact only_refl _ _))

theorem readLine_only {ps : List Part} {s0 : State} (x0 : LineFind) (s : State)
    (h : Only ps s0 s) (hp : [.frame, .host, .media, .inst, .fw, .therm, .pins, .recd, .emit] ⊆ ps) : Only ps s0 (readLine x0 s) :=
  Only.via hp h (by
    unfold readLine
    repeat' first
      | (with_reducible assumption)
      | (with_reducible refine rebuildLine_only _ _ ?_ (by decide))
      | (with_reducible refine correctLine_only _ _ ?_ (by decide))
      | (intro)
      | (split)
      | (with_reducible exact only_refl _ _))

theorem readLines_only {ps : List Part} {s0 : State} (l : List LineFind) (s : State)
    (h : Only ps s0 s) (hp : [.frame, .host, .media, .inst, .fw, .therm, .pins, .recd, .emit] ⊆ ps) : Only ps s0 (readLines l s) :=
  Only.via hp h (by
    unfold readLines
    repeat' first
      | (with_reducible assumption)
      | (with_reducible refine readLine_only _ _ ?_ (by decide))
      | (with_reducible refine only_forEach _ _ _ ?_ ?_)
      | (intro)
      | (split)
      | (with_reducible exact only_refl _ _))

theorem homeLineWrite_only {ps : List Part} {s0 : State} (line : Nat) (readBackOk : Bool) (finds : List LineFind) (s : State)
    (h : Only ps s0 s) (hp : [.frame, .host, .media, .inst, .fw, .therm, .pins, .recd, .emit] ⊆ ps) : Only ps s0 (homeLineWrite line readBackOk finds s) :=
  Only.via hp h (by
    unfold homeLineWrite
    repeat' first
      | (with_reducible assumption)
      | (with_reducible refine replaceLine_only _ _ ?_ (by decide))
      | (with_reducible refine readLines_only _ _ ?_ (by decide))
      | (with_reducible refine advanceTail_only _ ?_ (by decide))
      | (with_reducible refine updMedia_only _ _ ?_ (by decide))
      | (with_reducible refine writeLine_only _ _ ?_ (by decide))
      | (with_reducible refine only_when _ _ ?_ ?_)
      | (intro)
      | (extract_lets +onlyGivenNames s1; refine only_cut s1 ?_ ?_; unfold s1; clear s1; rotate_left; intro hs1; clear_value s1; rotate_right)
      | (extract_lets +onlyGivenNames v1)
      | (split)
      | (with_reducible exact only_refl _ _))

theorem checkpointWrite_only {ps : List Part} {s0 : State} (seg : Nat) (s : State)
    (h : Only ps s0 s) (hp : [.media] ⊆ ps) : Only ps s0 (checkpointWrite seg s) :=
  Only.via hp h (by
    unfold checkpointWrite
    repeat' first
      | (with_reducible assumption)
      | (with_reducible refine advanceTail_only _ ?_ (by decide))
      | (with_reducible refine updMedia_only _ _ ?_ (by decide))
      | (intro)
      | (extract_lets +onlyGivenNames s1; refine only_cut s1 ?_ ?_; unfold s1; clear s1; rotate_left; intro hs1; clear_value s1; rotate_right)
      | (extract_lets +onlyGivenNames v1)
      | (split)
      | (with_reducible exact only_refl _ _))

end Sys2Proof.Machine
end

