-- ==== Sys2Proof/Laws/Only/Tokens.lean ====
section
/-! SUPPORT. Which groups of state each operation of Machine/Tokens.lean can change. -/

set_option linter.tactic.unusedName false

namespace Sys2Proof.Machine

theorem updInst_only {ps : List Part} {s0 : State} (x0 : InstSt → InstSt) (s : State)
    (h : Only ps s0 s) (hp : [.inst] ⊆ ps) : Only ps s0 (updInst x0 s) :=
  Only.via hp h (by
    unfold updInst
    repeat' first
      | (with_reducible assumption)
      | (intro)
      | (with_reducible exact only_refl _ _)
      | (refine only_inst _ ?_ (by decide)))

theorem setBuckets_only {ps : List Part} {s0 : State} (fn : Nat) (b : Buckets) (s : State)
    (h : Only ps s0 s) (hp : [.inst] ⊆ ps) : Only ps s0 (setBuckets fn b s) :=
  Only.via hp h (by
    unfold setBuckets
    repeat' first
      | (with_reducible assumption)
      | (with_reducible refine updInst_only _ _ ?_ (by decide))
      | (intro)
      | (with_reducible exact only_refl _ _))

theorem updHolder_only {ps : List Part} {s0 : State} (fn : Nat) (x1 : Holder → Holder) (s : State)
    (h : Only ps s0 s) (hp : [.inst] ⊆ ps) : Only ps s0 (updHolder fn x1 s) :=
  Only.via hp h (by
    unfold updHolder
    repeat' first
      | (with_reducible assumption)
      | (with_reducible refine updInst_only _ _ ?_ (by decide))
      | (intro)
      | (with_reducible exact only_refl _ _))

theorem drawSurplus_onlyOpt {ps : List Part} {s0 : State} (fn : Nat) (k : Kind) (need : Int) (s : State)
    (h : Only ps s0 s) (hp : [.inst] ⊆ ps) : OnlyOpt ps s0 (drawSurplus fn k need s) :=
  OnlyOpt.via hp h (by
    unfold drawSurplus
    repeat' first
      | (with_reducible assumption)
      | (with_reducible refine updInst_only _ _ ?_ (by decide))
      | (with_reducible refine setBuckets_only _ _ _ ?_ (by decide))
      | (with_reducible refine updHolder_only _ _ _ ?_ (by decide))
      | (intro)
      | (extract_lets +onlyGivenNames s1; refine only_cut s1 ?_ ?_; unfold s1; clear s1; rotate_left; intro hs1; clear_value s1; rotate_right)
      | (extract_lets +onlyGivenNames v1)
      | (split)
      | (with_reducible exact only_refl _ _)
      | (with_reducible exact onlyOpt_none _ _)
      | (with_reducible refine onlyOpt_some ?_))

theorem drawSurplus_only2 {ps : List Part} {s0 : State} (fn : Nat) (k : Kind) (need : Int) {s t : State}
    (h : Only ps s0 s) (hp : [.inst] ⊆ ps) (e : drawSurplus fn k need s = some t) : Only ps s0 t :=
  (drawSurplus_onlyOpt fn k need _ h hp).only t e

theorem charge_only {ps : List Part} {s0 : State} (fn : Nat) (k : Kind) (x2 : Nat) (s : State)
    (h : Only ps s0 s) (hp : [.inst] ⊆ ps) : Only ps s0 (charge fn k x2 s) :=
  Only.via hp h (by
    unfold charge
    repeat' first
      | (with_reducible assumption)
      | (with_reducible refine updHolder_only _ _ _ ?_ (by decide))
      | (with_reducible refine setBuckets_only _ _ _ ?_ (by decide))
      | (intro)
      | (with_reducible exact only_refl _ _))

theorem chargeDie_only {ps : List Part} {s0 : State} (fn : Nat) (frames : Nat) (s : State)
    (h : Only ps s0 s) (hp : [.inst] ⊆ ps) : Only ps s0 (chargeDie fn frames s) :=
  Only.via hp h (by
    unfold chargeDie
    repeat' first
      | (with_reducible assumption)
      | (with_reducible refine meter_only _ _ _ ?_ (by decide))
      | (with_reducible refine charge_only _ _ _ _ ?_ (by decide))
      | (intro)
      | (with_reducible exact only_refl _ _))

theorem noteWait_only {ps : List Part} {s0 : State} (fn : Nat) (s : State)
    (h : Only ps s0 s) (hp : [.inst] ⊆ ps) : Only ps s0 (noteWait fn s) :=
  Only.via hp h (by
    unfold noteWait
    repeat' first
      | (with_reducible assumption)
      | (with_reducible refine updHolder_only _ _ _ ?_ (by decide))
      | (intro)
      | (with_reducible exact only_refl _ _))

theorem takeTokens_onlyOpt {ps : List Part} {s0 : State} (fn : Nat) (x1 : Sqe) (s : State)
    (h : Only ps s0 s) (hp : [.inst] ⊆ ps) : OnlyOpt ps s0 (takeTokens fn x1 s) :=
  OnlyOpt.via hp h (by
    unfold takeTokens
    repeat' first
      | (with_reducible assumption)
      | (with_reducible refine drawSurplus_onlyOpt _ _ _ _ ?_ (by decide))
      | (with_reducible refine drawSurplus_only2 _ _ _ ?_ (by decide) (by assumption))
      | (with_reducible refine charge_only _ _ _ _ ?_ (by decide))
      | (intro)
      | (extract_lets +onlyGivenNames s1; refine only_cut s1 ?_ ?_; unfold s1; clear s1; rotate_left; intro hs1; clear_value s1; rotate_right)
      | (extract_lets +onlyGivenNames v1)
      | (split)
      | (with_reducible exact only_refl _ _)
      | (with_reducible exact onlyOpt_none _ _)
      | (with_reducible refine onlyOpt_some ?_))

theorem takeTokens_only2 {ps : List Part} {s0 : State} (fn : Nat) (x1 : Sqe) {s t : State}
    (h : Only ps s0 s) (hp : [.inst] ⊆ ps) (e : takeTokens fn x1 s = some t) : Only ps s0 t :=
  (takeTokens_onlyOpt fn x1 _ h hp).only t e

end Sys2Proof.Machine
end

