-- ==== Sys2Proof/Laws/Only/IoOps.lean ====
section
/-! SUPPORT. Which groups of state each operation of Machine/IoOps.lean can change. -/

set_option linter.tactic.unusedName false

namespace Sys2Proof.Machine

theorem claimRow_onlyOpt {ps : List Part} {s0 : State} (z k : Nat) (n : Ns) (cont : Bool) (s : State)
    (h : Only ps s0 s) (hp : [.zone, .media] ⊆ ps) : OnlyOpt ps s0 (claimRow z k n cont s) :=
  OnlyOpt.via hp h (by
    unfold claimRow
    split
    · exact onlyOpt_none _ _
    extract_lets take
    have ht : ∀ eg t, Only [.zone, .media] s t → Only [.zone, .media] s (take eg t) := fun eg t ht =>
      updZoneRec_only _ _ _ (reserveRow_only _ _ ht (by decide)) (by decide)
    split
    · exact onlyOpt_none _ _
    split
    · exact onlyOpt_some (ht _ _ (only_refl _ _))
    split
    · exact onlyOpt_some (ht _ _ (chooseGroup_only2 _ _ (only_refl _ _) (by decide) (by assumption)))
    · exact onlyOpt_none _ _)

theorem claimRow_only2 {ps : List Part} {s0 : State} (z k : Nat) (n : Ns) (cont : Bool) {s t : State}
    (h : Only ps s0 s) (hp : [.zone, .media] ⊆ ps) (e : claimRow z k n cont s = some t) : Only ps s0 t :=
  (claimRow_onlyOpt z k n cont _ h hp).only t e

theorem claimRows_onlyOpt {ps : List Part} {s0 : State} (z : Nat) (n : Ns) (l : List Nat) (s : State)
    (h : Only ps s0 s) (hp : [.zone, .media] ⊆ ps) : OnlyOpt ps s0 (claimRows z n l s) := by
  induction l generalizing s with
  | nil => exact onlyOpt_some h
  | cons k l ih =>
    unfold claimRows
    split
    · exact onlyOpt_none _ _
    split
    · exact ih s h
    split
    · exact ih _ (claimRow_only2 _ _ _ _ h hp (by assumption))
    · exact onlyOpt_none _ _

theorem claimRows_only2 {ps : List Part} {s0 : State} (z : Nat) (n : Ns) (l : List Nat) {s t : State}
    (h : Only ps s0 s) (hp : [.zone, .media] ⊆ ps) (e : claimRows z n l s = some t) : Only ps s0 t :=
  (claimRows_onlyOpt z n l _ h hp).only t e

theorem deviceFinish_only {ps : List Part} {s0 : State} (z : Nat) (s : State)
    (h : Only ps s0 s) (hp : [.media] ⊆ ps) : Only ps s0 (deviceFinish z s) :=
  Only.via hp h (by
    unfold deviceFinish
    repeat' first
      | (with_reducible assumption)
      | (with_reducible refine submit_only _ _ ?_ (by decide))
      | (intro)
      | (split)
      | (with_reducible exact only_refl _ _))

theorem dropClaims_only {ps : List Part} {s0 : State} (z : Nat) (from_ : Nat) (s : State)
    (h : Only ps s0 s) (hp : [.zone, .media] ⊆ ps) : Only ps s0 (dropClaims z from_ s) :=
  Only.via hp h (by
    unfold dropClaims
    repeat' first
      | (with_reducible assumption)
      | (with_reducible refine updZoneRec_only _ _ _ ?_ (by decide))
      | (with_reducible refine updGroup_only _ _ _ ?_ (by decide))
      | (with_reducible refine only_forEach _ _ _ ?_ ?_)
      | (intro)
      | (extract_lets +onlyGivenNames s1; refine only_cut s1 ?_ ?_; unfold s1; clear s1; rotate_left; intro hs1; clear_value s1; rotate_right)
      | (extract_lets +onlyGivenNames v1)
      | (split)
      | (with_reducible exact only_refl _ _))

theorem stopUnmap_only {ps : List Part} {s0 : State} (seq : Nat) (s : State)
    (h : Only ps s0 s) (hp : [.media] ⊆ ps) : Only ps s0 (stopUnmap seq s) :=
  Only.via hp h (by
    unfold stopUnmap
    repeat' first
      | (with_reducible assumption)
      | (with_reducible refine updMedia_only _ _ ?_ (by decide))
      | (intro)
      | (extract_lets +onlyGivenNames s1; refine only_cut s1 ?_ ?_; unfold s1; clear s1; rotate_left; intro hs1; clear_value s1; rotate_right)
      | (extract_lets +onlyGivenNames k1; have _ck := fun x => (k1 x : State → State); clear _ck)
      | (extract_lets +onlyGivenNames k1; have _ck := fun x => (k1 x : State); clear _ck)
      | (extract_lets +onlyGivenNames v1)
      | (split)
      | (with_reducible exact only_refl _ _)
      | (dsimp only [k1]))

theorem cutDiscard_only {ps : List Part} {s0 : State} (seq : Nat) (s : State)
    (h : Only ps s0 s) (hp : [.zone] ⊆ ps) : Only ps s0 (cutDiscard seq s) :=
  Only.via hp h (by
    unfold cutDiscard
    repeat' first
      | (with_reducible assumption)
      | (with_reducible refine updZone_only _ _ ?_ (by decide))
      | (intro)
      | (extract_lets +onlyGivenNames s1; refine only_cut s1 ?_ ?_; unfold s1; clear s1; rotate_left; intro hs1; clear_value s1; rotate_right)
      | (extract_lets +onlyGivenNames k1; have _ck := fun x => (k1 x : State → State); clear _ck)
      | (extract_lets +onlyGivenNames k1; have _ck := fun x => (k1 x : State); clear _ck)
      | (extract_lets +onlyGivenNames v1)
      | (split)
      | (with_reducible exact only_refl _ _)
      | (dsimp only [k1]))

theorem stopWrite_only {ps : List Part} {s0 : State} (seq : Nat) (st : Status) (s : State)
    (h : Only ps s0 s) (hp : [.host, .zone, .media] ⊆ ps) : Only ps s0 (stopWrite seq st s) :=
  Only.via hp h (by
    unfold stopWrite
    repeat' first
      | (with_reducible assumption)
      | (with_reducible refine discardLanded_only _ _ ?_ (by decide))
      | (with_reducible refine cutDiscard_only _ _ ?_ (by decide))
      | (with_reducible refine stopUnmap_only _ _ ?_ (by decide))
      | (with_reducible refine latch_only _ _ _ _ _ ?_ (by decide))
      | (intro)
      | (with_reducible exact only_refl _ _))

theorem zoneFail_only {ps : List Part} {s0 : State} (z : Nat) (seq : Nat) (st : Status) (s : State)
    (h : Only ps s0 s) (hp : [.host, .zone, .media] ⊆ ps) : Only ps s0 (zoneFail z seq st s) :=
  Only.via hp h (by
    unfold zoneFail
    repeat' first
      | (with_reducible assumption)
      | (with_reducible refine stopWrite_only _ _ _ ?_ (by decide))
      | (with_reducible refine dropLanded_only _ _ _ ?_ (by decide))
      | (with_reducible refine submit_only _ _ ?_ (by decide))
      | (with_reducible refine dropClaims_only _ _ _ ?_ (by decide))
      | (with_reducible refine updZoneRec_only _ _ _ ?_ (by decide))
      | (with_reducible refine only_when _ _ ?_ ?_)
      | (with_reducible refine only_forEach _ _ _ ?_ ?_)
      | (intro)
      | (extract_lets +onlyGivenNames s1; refine only_cut s1 ?_ ?_; unfold s1; clear s1; rotate_left; intro hs1; clear_value s1; rotate_right)
      | (extract_lets +onlyGivenNames v1)
      | (split)
      | (with_reducible exact only_refl _ _))

theorem dropReads_only {ps : List Part} {s0 : State} (seq : Nat) (s : State)
    (h : Only ps s0 s) (hp : [.media, .flash] ⊆ ps) : Only ps s0 (dropReads seq s) :=
  Only.via hp h (by
    unfold dropReads
    repeat' first
      | (with_reducible assumption)
      | (with_reducible refine unpinEntry_only _ _ ?_ (by decide))
      | (with_reducible refine updFlash_only _ _ ?_ (by decide))
      | (with_reducible refine only_forEach _ _ _ ?_ ?_)
      | (intro)
      | (extract_lets +onlyGivenNames s1; refine only_cut s1 ?_ ?_; unfold s1; clear s1; rotate_left; intro hs1; clear_value s1; rotate_right)
      | (extract_lets +onlyGivenNames k1; have _ck := fun x => (k1 x : State → State); clear _ck)
      | (extract_lets +onlyGivenNames k1; have _ck := fun x => (k1 x : State); clear _ck)
      | (extract_lets +onlyGivenNames v1)
      | (split)
      | (with_reducible exact only_refl _ _)
      | (dsimp only [k1]))

theorem failItem_only {ps : List Part} {s0 : State} (seq : Nat) (st : Status) (s : State)
    (h : Only ps s0 s) (hp : [.frame, .host, .zone, .media, .flash, .inst, .recd, .emit] ⊆ ps) : Only ps s0 (failItem seq st s) :=
  Only.via hp h (by
    unfold failItem
    repeat' first
      | (with_reducible assumption)
      | (with_reducible refine zoneFail_only _ _ _ _ ?_ (by decide))
      | (with_reducible refine stopWrite_only _ _ _ ?_ (by decide))
      | (with_reducible refine dropReads_only _ _ ?_ (by decide))
      | (with_reducible refine postItem_only _ _ ?_ (by decide))
      | (with_reducible refine finishBad_only _ _ _ ?_ (by decide))
      | (intro)
      | (extract_lets +onlyGivenNames s1; refine only_cut s1 ?_ ?_; unfold s1; clear s1; rotate_left; intro hs1; clear_value s1; rotate_right)
      | (extract_lets +onlyGivenNames v1)
      | (split)
      | (with_reducible exact only_refl _ _))

end Sys2Proof.Machine
end

