-- ==== Sys2Proof/Laws/Only/Writes.lean ====
section
/-! SUPPORT. Which groups of state each operation of Machine/Writes.lean can change. -/

set_option linter.tactic.unusedName false

namespace Sys2Proof.Machine

theorem openForWrite_only {ps : List Part} {s0 : State} (z : Nat) (it : Item) (n : Ns) (r : Zone) (s : State)
    (h : Only ps s0 s) (hp : [.host, .zone, .media] ⊆ ps) : Only ps s0 (openForWrite z it n r s) :=
  Only.via hp h (by
    unfold openForWrite
    repeat' first
      | (with_reducible assumption)
      | (with_reducible refine setZone_only _ _ _ ?_ (by decide))
      | (with_reducible refine updItem_only _ _ _ ?_ (by decide))
      | (with_reducible refine tell_only _ _ _ _ ?_ (by decide))
      | (with_reducible refine only_when _ _ ?_ ?_)
      | (intro)
      | (extract_lets +onlyGivenNames s1; refine only_cut s1 ?_ ?_; unfold s1; clear s1; rotate_left; intro hs1; clear_value s1; rotate_right)
      | (extract_lets +onlyGivenNames v1)
      | (split)
      | (with_reducible exact only_refl _ _))

theorem countLanded_only {ps : List Part} {s0 : State} (owner : Nat) (cnt : Nat) (s : State)
    (h : Only ps s0 s) (hp : [.media] ⊆ ps) : Only ps s0 (countLanded owner cnt s) :=
  Only.via hp h (by
    unfold countLanded
    repeat' first
      | (with_reducible assumption)
      | (with_reducible refine updMedia_only _ _ ?_ (by decide))
      | (intro)
      | (with_reducible exact only_refl _ _))

theorem landZeros_only {ps : List Part} {s0 : State} (x : Nat) (n : Ns) (it : Item) (first : Nat) (cnt : Nat) (s : State)
    (h : Only ps s0 s) (hp : [.host, .media, .inst] ⊆ ps) : Only ps s0 (landZeros x n it first cnt s) :=
  Only.via hp h (by
    unfold landZeros
    repeat' first
      | (with_reducible assumption)
      | (with_reducible refine land_only _ _ _ _ _ _ _ ?_ (by decide))
      | (with_reducible refine countLanded_only _ _ _ ?_ (by decide))
      | (with_reducible refine meter_only _ _ _ ?_ (by decide))
      | (with_reducible refine updItem_only _ _ _ ?_ (by decide))
      | (with_reducible refine only_forEach _ _ _ ?_ ?_)
      | (intro)
      | (extract_lets +onlyGivenNames s1; refine only_cut s1 ?_ ?_; unfold s1; clear s1; rotate_left; intro hs1; clear_value s1; rotate_right)
      | (extract_lets +onlyGivenNames k1; have _ck := fun x => (k1 x : State → State); clear _ck)
      | (extract_lets +onlyGivenNames k1; have _ck := fun x => (k1 x : State); clear _ck)
      | (extract_lets +onlyGivenNames v1)
      | (split)
      | (with_reducible exact only_refl _ _)
      | (dsimp only [k1]))

theorem startZoned_only {ps : List Part} {s0 : State} (z x : Nat) (n : Ns) (it : Item) (s : State) (h : Only ps s0 s)
    (hp : [.frame, .host, .zone, .media, .inst, .therm, .pins, .recd, .emit] ⊆ ps) :
    Only ps s0 (startZoned z x n it s) :=
  Only.via hp h (by
    unfold startZoned
    split
    · exact only_refl _ _
    split
    · exact finishBad_only _ _ _ (only_refl _ _) (by decide)
    split
    · exact finishBad_only _ _ _ (only_refl _ _) (by decide)
    rename_i r _ _ _ _
    extract_lets s1
    have h1 : Only [.frame, .host, .zone, .media, .inst, .therm, .pins, .recd, .emit] s s1 :=
      openForWrite_only _ _ _ _ _ (only_refl _ _) (by decide)
    have hk : ∀ t, (if n.blocked = true then none else claimRows z n (rowsOf n r.ap it.sqe.nlb) s1) = some t →
        Only [.frame, .host, .zone, .media, .inst, .therm, .pins, .recd, .emit] s t := by
      intro t e
      split at e
      · cases e
      · exact claimRows_only2 _ _ _ h1 (by decide) e
    split
    · exact zoneFail_only _ _ _ _ (enterLastShelf_only _ _ h1 (by decide)) (by decide)
    rename_i t e
    split
    · exact landZeros_only _ _ _ _ _ _ (hk t e) (by decide)
    · exact hk t e)

theorem tryZoned_only {ps : List Part} {s0 : State} (z : Nat) (x : Nat) (n : Ns) (it : Item) (s : State)
    (h : Only ps s0 s) (hp : [.frame, .host, .zone, .media, .inst, .therm, .pins, .recd, .emit] ⊆ ps) : Only ps s0 (tryZoned z x n it s) :=
  Only.via hp h (by
    unfold tryZoned
    repeat' first
      | (with_reducible assumption)
      | (with_reducible refine updItem_only _ _ _ ?_ (by decide))
      | (with_reducible refine startZoned_only _ _ _ _ _ ?_ (by decide))
      | (intro)
      | (extract_lets +onlyGivenNames s1; refine only_cut s1 ?_ ?_; unfold s1; clear s1; rotate_left; intro hs1; clear_value s1; rotate_right)
      | (extract_lets +onlyGivenNames k1; have _ck := fun x => (k1 x : State → State); clear _ck)
      | (extract_lets +onlyGivenNames k1; have _ck := fun x => (k1 x : State); clear _ck)
      | (extract_lets +onlyGivenNames v1)
      | (split)
      | (with_reducible exact only_refl _ _)
      | (dsimp only [k1]))

theorem beginDiscard_only {ps : List Part} {s0 : State} (seq : Nat) (x : Nat) (first : Nat) (cnt : Nat) (s : State)
    (h : Only ps s0 s) (hp : [.zone, .media, .flash] ⊆ ps) : Only ps s0 (beginDiscard seq x first cnt s) :=
  Only.via hp h (by
    unfold beginDiscard
    repeat' first
      | (with_reducible assumption)
      | (with_reducible refine updZone_only _ _ ?_ (by decide))
      | (with_reducible refine dropCopies_only _ _ _ _ ?_ (by decide))
      | (intro)
      | (with_reducible exact only_refl _ _))

theorem deallocate_only {ps : List Part} {s0 : State} (x : Nat) (n : Ns) (ranges : List (Nat × Nat)) (it : Item) (s : State)
    (h : Only ps s0 s) (hp : [.frame, .host, .zone, .media, .flash, .inst, .recd, .emit] ⊆ ps) : Only ps s0 (deallocate x n ranges it s) :=
  Only.via hp h (by
    unfold deallocate
    repeat' first
      | (with_reducible assumption)
      | (with_reducible refine updItem_only _ _ _ ?_ (by decide))
      | (with_reducible refine finishOk_only _ _ ?_ (by decide))
      | (with_reducible refine beginDiscard_only _ _ _ _ _ ?_ (by decide))
      | (with_reducible refine submit_only _ _ ?_ (by decide))
      | (with_reducible refine only_when _ _ ?_ ?_)
      | (with_reducible refine only_forEach _ _ _ ?_ ?_)
      | (intro)
      | (extract_lets +onlyGivenNames s1; refine only_cut s1 ?_ ?_; unfold s1; clear s1; rotate_left; intro hs1; clear_value s1; rotate_right)
      | (extract_lets +onlyGivenNames v1)
      | (split)
      | (with_reducible exact only_refl _ _))

theorem claimConv_only2 {ps : List Part} {s0 : State} (x lc k : Nat) {s t : State} (h : Only ps s0 s)
    (hp : [.zone, .media] ⊆ ps) (e : claimConv x lc k s = .ok t) : Only ps s0 t := by
  induction k generalizing s with
  | zero => simp only [claimConv, Claimed.ok.injEq] at e; subst e; exact h
  | succ k ih =>
    simp only [claimConv] at e
    split at e
    · cases e
    split at e
    · exact ih (updNs_only _ _ _ (reserveRow_only _ _ h (List.Subset.trans (by decide) hp))
        (List.Subset.trans (by decide) hp)) e
    split at e
    · cases e
    split at e
    · exact ih (updNs_only _ _ _ (reserveRow_only _ _ (newGroup_only2 _ _ h (List.Subset.trans (by decide) hp)
        (by assumption)) (List.Subset.trans (by decide) hp)) (List.Subset.trans (by decide) hp)) e
    · cases e

theorem startConv_only {ps : List Part} {s0 : State} (x : Nat) (n : Ns) (it : Item) (s : State) (h : Only ps s0 s)
    (hp : [.frame, .host, .zone, .media, .flash, .inst, .therm, .pins, .recd, .emit] ⊆ ps) :
    Only ps s0 (startConv x n it s) :=
  Only.via hp h (by
    unfold startConv
    split
    · exact finishBad_only _ _ _ (only_refl _ _) (by decide)
    split
    · exact finishBad_only _ _ _ (only_refl _ _) (by decide)
    split
    · exact deallocate_only _ _ _ _ _ (only_refl _ _) (by decide)
    extract_lets
    split
    · exact updItem_only _ _ _ (only_refl _ _) (by decide)
    · exact finishBad_only _ _ _ (enterLastShelf_only _ _ (only_refl _ _) (by decide)) (by decide)
    · rename_i t e
      have k : Only [.frame, .host, .zone, .media, .flash, .inst, .therm, .pins, .recd, .emit] s t :=
        claimConv_only2 _ _ _ (only_refl _ _) (by decide) e
      extract_lets c s1 q s2
      have k2 : Only [.frame, .host, .zone, .media, .flash, .inst, .therm, .pins, .recd, .emit] s s2 :=
        only_host _ (updItem_only _ _ _ k (by decide)) (by decide)
      split
      · exact landZeros_only _ _ _ _ _ _ k2 (by decide)
      · exact k2)

theorem tryConv_only {ps : List Part} {s0 : State} (x : Nat) (n : Ns) (it : Item) (s : State)
    (h : Only ps s0 s) (hp : [.frame, .host, .zone, .media, .flash, .inst, .therm, .pins, .recd, .emit] ⊆ ps) : Only ps s0 (tryConv x n it s) :=
  Only.via hp h (by
    unfold tryConv
    repeat' first
      | (with_reducible assumption)
      | (with_reducible refine updItem_only _ _ _ ?_ (by decide))
      | (with_reducible refine startConv_only _ _ _ _ ?_ (by decide))
      | (intro)
      | (extract_lets +onlyGivenNames s1; refine only_cut s1 ?_ ?_; unfold s1; clear s1; rotate_left; intro hs1; clear_value s1; rotate_right)
      | (extract_lets +onlyGivenNames k1; have _ck := fun x => (k1 x : State → State); clear _ck)
      | (extract_lets +onlyGivenNames k1; have _ck := fun x => (k1 x : State); clear _ck)
      | (extract_lets +onlyGivenNames v1)
      | (split)
      | (with_reducible exact only_refl _ _)
      | (dsimp only [k1]))

theorem tryWrite_only {ps : List Part} {s0 : State} (x : Nat) (n : Ns) (it : Item) (s : State)
    (h : Only ps s0 s) (hp : [.frame, .host, .zone, .media, .flash, .inst, .therm, .pins, .recd, .emit] ⊆ ps) : Only ps s0 (tryWrite x n it s) :=
  Only.via hp h (by
    unfold tryWrite
    repeat' first
      | (with_reducible assumption)
      | (with_reducible refine tryZoned_only _ _ _ _ _ ?_ (by decide))
      | (with_reducible refine tryConv_only _ _ _ _ ?_ (by decide))
      | (intro)
      | (split)
      | (with_reducible exact only_refl _ _))

theorem writeRow_only {ps : List Part} {s0 : State} (opc : Nat) (ok : Ns → Bool) (id : CmdId) (s : State)
    (h : Only ps s0 s) (hp : [.frame, .host, .zone, .media, .flash, .inst, .therm, .pins, .recd, .emit] ⊆ ps) : Only ps s0 (writeRow opc ok id s) :=
  Only.via hp h (by
    unfold writeRow
    repeat' first
      | (with_reducible assumption)
      | (with_reducible refine finishBad_only _ _ _ ?_ (by decide))
      | (with_reducible refine tryWrite_only _ _ _ _ ?_ (by decide))
      | (with_reducible refine updItem_only _ _ _ ?_ (by decide))
      | (with_reducible refine only_id ?_)
      | (intro)
      | (split)
      | (with_reducible exact only_refl _ _))

theorem startRow_only {ps : List Part} {s0 : State} (ready : Item → Ns → Bool) (id : CmdId) (s : State)
    (h : Only ps s0 s) (hp : [.frame, .host, .zone, .media, .flash, .inst, .therm, .pins, .recd, .emit] ⊆ ps) : Only ps s0 (startRow ready id s) :=
  Only.via hp h (by
    unfold startRow
    repeat' first
      | (with_reducible assumption)
      | (with_reducible refine tryWrite_only _ _ _ _ ?_ (by decide))
      | (with_reducible refine only_id ?_)
      | (intro)
      | (split)
      | (with_reducible exact only_refl _ _))

theorem endMerge_only {ps : List Part} {s0 : State} (seq : Nat) (u : Nat) (s : State)
    (h : Only ps s0 s) (hp : [.flash] ⊆ ps) : Only ps s0 (endMerge seq u s) :=
  Only.via hp h (by
    unfold endMerge
    repeat' first
      | (with_reducible assumption)
      | (intro)
      | (with_reducible exact only_refl _ _)
      | (refine only_flash _ ?_ (by decide)))

theorem oldUnit_only2 {ps : List Part} {s0 : State} (seq x : Nat) (n : Ns) (u : Nat) {s t : State} {c : Prop} [Decidable c]
    {o : Option (List Byte × List Byte)} (h : Only ps s0 s) (hp : [.flash] ⊆ ps)
    (e : (if c then OldUnit.ready o else oldUnit s seq x n u) = .wait t) : Only ps s0 t := by
  split at e
  · cases e
  unfold oldUnit at e
  split at e
  · split at e
    · cases e
    · cases e; exact h
  split at e
  · cases e
  · cases e
  split at e
  · cases e
  · cases e; exact only_flash _ h (List.Subset.trans (by decide) hp)

theorem landUnit_only {ps : List Part} {s0 : State} (it : Item) (x : Nat) (n : Ns) (u : Nat) (data : UnitData) (pi : List Byte) (s : State)
    (h : Only ps s0 s) (hp : [.frame, .host, .zone, .media, .flash, .inst, .recd, .emit] ⊆ ps) : Only ps s0 (landUnit it x n u data pi s) :=
  Only.via hp h (by
    unfold landUnit
    repeat' first
      | (with_reducible assumption)
      | (with_reducible refine failItem_only _ _ _ ?_ (by decide))
      | (with_reducible refine recDataErr_only _ _ _ ?_ (by decide))
      | (with_reducible refine land_only _ _ _ _ _ _ _ ?_ (by decide))
      | (with_reducible refine endMerge_only _ _ _ ?_ (by decide))
      | (with_reducible refine countLanded_only _ _ _ ?_ (by decide))
      | (with_reducible refine meter_only _ _ _ ?_ (by decide))
      | (with_reducible refine updCtl_only _ _ _ ?_ (by decide))
      | (with_reducible refine updItem_only _ _ _ ?_ (by decide))
      | (refine oldUnit_only2 _ _ _ _ ?_ (by decide) (by assumption))
      | (with_reducible refine only_when _ _ ?_ ?_)
      | (intro)
      | (extract_lets +onlyGivenNames s1; refine only_cut s1 ?_ ?_; unfold s1; clear s1; rotate_left; intro hs1; clear_value s1; rotate_right)
      | (extract_lets +onlyGivenNames v1; clear_value v1)
      | (extract_lets +onlyGivenNames v1)
      | (split)
      | (with_reducible exact only_refl _ _))

theorem unitLanded_only {ps : List Part} {s0 : State} (id : CmdId) (u : Nat) (data : UnitData) (pi : List Byte) (s : State)
    (h : Only ps s0 s) (hp : [.frame, .host, .zone, .media, .flash, .inst, .recd, .emit] ⊆ ps) : Only ps s0 (unitLanded id u data pi s) :=
  Only.via hp h (by
    unfold unitLanded
    repeat' first
      | (with_reducible assumption)
      | (with_reducible refine landUnit_only _ _ _ _ _ _ _ ?_ (by decide))
      | (with_reducible refine only_id ?_)
      | (intro)
      | (split)
      | (with_reducible exact only_refl _ _))

theorem postWrite_only {ps : List Part} {s0 : State} (n : Ns) (it : Item) (s : State)
    (h : Only ps s0 s) (hp : [.frame, .host, .zone, .media, .inst, .recd, .emit] ⊆ ps) : Only ps s0 (postWrite n it s) :=
  Only.via hp h (by
    unfold postWrite
    repeat' first
      | (with_reducible assumption)
      | (with_reducible refine acknowledge_only _ _ ?_ (by decide))
      | (with_reducible refine updZoneRec_only _ _ _ ?_ (by decide))
      | (with_reducible refine finish_only _ _ _ _ _ ?_ (by decide))
      | (with_reducible refine deviceFinish_only _ _ ?_ (by decide))
      | (intro)
      | (extract_lets +onlyGivenNames s1; refine only_cut s1 ?_ ?_; unfold s1; clear s1; rotate_left; intro hs1; clear_value s1; rotate_right)
      | (extract_lets +onlyGivenNames v1)
      | (split)
      | (with_reducible exact only_refl _ _))

theorem writePost_only {ps : List Part} {s0 : State} (id : CmdId) (s : State)
    (h : Only ps s0 s) (hp : [.frame, .host, .zone, .media, .inst, .recd, .emit] ⊆ ps) : Only ps s0 (writePost id s) :=
  Only.via hp h (by
    unfold writePost
    repeat' first
      | (with_reducible assumption)
      | (with_reducible refine postWrite_only _ _ _ ?_ (by decide))
      | (with_reducible refine updItem_only _ _ _ ?_ (by decide))
      | (with_reducible refine submit_only _ _ ?_ (by decide))
      | (with_reducible refine only_id ?_)
      | (intro)
      | (split)
      | (with_reducible exact only_refl _ _))

theorem drainEnd_only {ps : List Part} {s0 : State} (z : Nat) (s : State)
    (h : Only ps s0 s) (hp : [.frame, .host, .zone, .media, .inst, .recd, .emit] ⊆ ps) : Only ps s0 (drainEnd z s) :=
  Only.via hp h (by
    unfold drainEnd
    repeat' first
      | (with_reducible assumption)
      | (with_reducible refine postItem_only _ _ ?_ (by decide))
      | (with_reducible refine deviceFinish_only _ _ ?_ (by decide))
      | (with_reducible refine updZoneRec_only _ _ _ ?_ (by decide))
      | (with_reducible refine only_forEach _ _ _ ?_ ?_)
      | (intro)
      | (extract_lets +onlyGivenNames s1; refine only_cut s1 ?_ ?_; unfold s1; clear s1; rotate_left; intro hs1; clear_value s1; rotate_right)
      | (extract_lets +onlyGivenNames v1)
      | (split)
      | (with_reducible exact only_refl _ _))

theorem barrierWrite_only {ps : List Part} {s0 : State} (id : CmdId) (s : State)
    (h : Only ps s0 s) (hp : [.frame, .host, .zone, .media, .flash, .inst, .therm, .pins, .recd, .emit] ⊆ ps) : Only ps s0 (barrierWrite id s) :=
  Only.via hp h (by
    unfold barrierWrite
    repeat' first
      | (with_reducible assumption)
      | (with_reducible refine startRow_only _ _ _ ?_ (by decide))
      | (with_reducible refine only_id ?_)
      | (intro)
      | (with_reducible exact only_refl _ _))

theorem flushIo_only {ps : List Part} {s0 : State} (id : CmdId) (s : State)
    (h : Only ps s0 s) (hp : [.frame, .host, .inst, .recd, .emit] ⊆ ps) : Only ps s0 (flushIo id s) :=
  Only.via hp h (by
    unfold flushIo
    repeat' first
      | (with_reducible assumption)
      | (with_reducible refine finishBad_only _ _ _ ?_ (by decide))
      | (with_reducible refine finishOk_only _ _ ?_ (by decide))
      | (with_reducible refine only_id ?_)
      | (intro)
      | (split)
      | (with_reducible exact only_refl _ _))

theorem datasetManagement_only {ps : List Part} {s0 : State} (dma : Dma) (id : CmdId) (s : State)
    (h : Only ps s0 s) (hp : [.frame, .host, .zone, .media, .flash, .inst, .recd, .emit] ⊆ ps) : Only ps s0 (datasetManagement dma id s) :=
  Only.via hp h (by
    unfold datasetManagement
    repeat' first
      | (with_reducible assumption)
      | (with_reducible refine finishBad_only _ _ _ ?_ (by decide))
      | (with_reducible refine finishOk_only _ _ ?_ (by decide))
      | (with_reducible refine deallocate_only _ _ _ _ _ ?_ (by decide))
      | (with_reducible refine only_id ?_)
      | (intro)
      | (extract_lets +onlyGivenNames s1; refine only_cut s1 ?_ ?_; unfold s1; clear s1; rotate_left; intro hs1; clear_value s1; rotate_right)
      | (extract_lets +onlyGivenNames v1)
      | (split)
      | (with_reducible exact only_refl _ _))

end Sys2Proof.Machine
end

