-- ==== Sys2Proof/Laws/Only/ZoneMgmt.lean ====
section
/-! SUPPORT. Which groups of state each operation of Machine/ZoneMgmt.lean can change. -/

set_option linter.tactic.unusedName false

namespace Sys2Proof.Machine

theorem submitZones_only {ps : List Part} {s0 : State} (dest : ZoneTo) (items : List Nat) (erase : Nat → List Nat) (x3 : List Nat) (s : State)
    (h : Only ps s0 s) (hp : [.media] ⊆ ps) : Only ps s0 (submitZones dest items erase x3 s) :=
  Only.via hp h (by
    clear h hp
    fun_induction submitZones
    repeat' first
      | (with_reducible assumption)
      | (with_reducible refine submit_only _ _ ?_ (by decide))
      | (with_reducible refine Only.trans ?_ (by with_reducible assumption))
      | (intro)
      | (split)
      | (with_reducible exact only_refl _ _))

theorem openZonesNow_only {ps : List Part} {s0 : State} (items : List Nat) (x1 : List Nat) (s : State)
    (h : Only ps s0 s) (hp : [.zone, .media] ⊆ ps) : Only ps s0 (openZonesNow items x1 s) :=
  Only.via hp h (by
    clear h hp
    fun_induction openZonesNow
    repeat' first
      | (with_reducible assumption)
      | (with_reducible refine submit_only _ _ ?_ (by decide))
      | (with_reducible refine setZone_only _ _ _ ?_ (by decide))
      | (with_reducible refine Only.trans ?_ (by with_reducible assumption))
      | (intro)
      | (split)
      | (with_reducible exact only_refl _ _))

theorem sendZones_only {ps : List Part} {s0 : State} (a : ZAction) (n : Ns) (zs : List Nat) (it : Item) (s : State)
    (h : Only ps s0 s) (hp : [.host, .zone, .media] ⊆ ps) : Only ps s0 (sendZones a n zs it s) :=
  Only.via hp h (by
    unfold sendZones
    repeat' first
      | (with_reducible assumption)
      | (with_reducible refine openZonesNow_only _ _ _ ?_ (by decide))
      | (with_reducible refine submitZones_only _ _ _ _ _ ?_ (by decide))
      | (with_reducible refine updItem_only _ _ _ ?_ (by decide))
      | (with_reducible refine takePend_only _ _ ?_ (by decide))
      | (with_reducible refine only_forEach _ _ _ ?_ ?_)
      | (intro)
      | (extract_lets +onlyGivenNames s1; refine only_cut s1 ?_ ?_; unfold s1; clear s1; rotate_left; intro hs1; clear_value s1; rotate_right)
      | (extract_lets +onlyGivenNames v1)
      | (split)
      | (with_reducible exact only_refl _ _))

theorem zoneSend_only {ps : List Part} {s0 : State} (a : ZAction) (id : CmdId) (s : State)
    (h : Only ps s0 s) (hp : [.frame, .host, .zone, .media, .inst, .recd, .emit] ⊆ ps) : Only ps s0 (zoneSend a id s) :=
  Only.via hp h (by
    unfold zoneSend
    repeat' first
      | (with_reducible assumption)
      | (with_reducible refine finishBad_only _ _ _ ?_ (by decide))
      | (with_reducible refine finishOk_only _ _ ?_ (by decide))
      | (with_reducible refine updItem_only _ _ _ ?_ (by decide))
      | (with_reducible refine sendZones_only _ _ _ _ _ ?_ (by decide))
      | (with_reducible refine only_when _ _ ?_ ?_)
      | (with_reducible refine only_id ?_)
      | (intro)
      | (extract_lets +onlyGivenNames s1; refine only_cut s1 ?_ ?_; unfold s1; clear s1; rotate_left; intro hs1; clear_value s1; rotate_right)
      | (extract_lets +onlyGivenNames k1; have _ck := fun x => (k1 x : State → State); clear _ck)
      | (extract_lets +onlyGivenNames k1; have _ck := fun x => (k1 x : State); clear _ck)
      | (extract_lets +onlyGivenNames v1)
      | (split)
      | (with_reducible exact only_refl _ _)
      | (dsimp only [k1]))

theorem learn_only {ps : List Part} {s0 : State} (inst : Nat) (lc : Nat) (pg : Nat) (x : Int) (s : State)
    (h : Only ps s0 s) (hp : [.media] ⊆ ps) : Only ps s0 (learn inst lc pg x s) :=
  Only.via hp h (by
    unfold learn
    repeat' first
      | (with_reducible assumption)
      | (with_reducible refine updMedia_only _ _ ?_ (by decide))
      | (intro)
      | (extract_lets +onlyGivenNames s1; refine only_cut s1 ?_ ?_; unfold s1; clear s1; rotate_left; intro hs1; clear_value s1; rotate_right)
      | (extract_lets +onlyGivenNames k1; have _ck := fun x => (k1 x : State → State); clear _ck)
      | (extract_lets +onlyGivenNames k1; have _ck := fun x => (k1 x : State); clear _ck)
      | (extract_lets +onlyGivenNames v1)
      | (split)
      | (with_reducible exact only_refl _ _)
      | (dsimp only [k1]))

theorem learnReset_only {ps : List Part} {s0 : State} (n : Ns) (r : Zone) (s : State)
    (h : Only ps s0 s) (hp : [.media] ⊆ ps) : Only ps s0 (learnReset n r s) :=
  Only.via hp h (by
    unfold learnReset
    repeat' first
      | (with_reducible assumption)
      | (with_reducible refine learn_only _ _ _ _ _ ?_ (by decide))
      | (with_reducible refine updMedia_only _ _ ?_ (by decide))
      | (with_reducible refine only_getD ?_ ?_)
      | (with_reducible refine only_when _ _ ?_ ?_)
      | (intro)
      | (extract_lets +onlyGivenNames s1; refine only_cut s1 ?_ ?_; unfold s1; clear s1; rotate_left; intro hs1; clear_value s1; rotate_right)
      | (extract_lets +onlyGivenNames v1)
      | (split)
      | (with_reducible exact only_refl _ _))

theorem learnHeld_only {ps : List Part} {s0 : State} (it : Item) (s : State)
    (h : Only ps s0 s) (hp : [.media] ⊆ ps) : Only ps s0 (learnHeld it s) :=
  Only.via hp h (by
    unfold learnHeld
    repeat' first
      | (with_reducible assumption)
      | (with_reducible refine learnReset_only _ _ _ ?_ (by decide))
      | (with_reducible refine only_forEach _ _ _ ?_ ?_)
      | (intro)
      | (split)
      | (with_reducible exact only_refl _ _))

theorem packShared_only {ps : List Part} {s0 : State} (z : Nat) (s : State)
    (h : Only ps s0 s) (hp : [.media] ⊆ ps) : Only ps s0 (packShared z s) :=
  Only.via hp h (by
    unfold packShared
    repeat' first
      | (with_reducible assumption)
      | (with_reducible refine updMedia_only _ _ ?_ (by decide))
      | (intro)
      | (split)
      | (with_reducible exact only_refl _ _))

theorem emptyZone_only {ps : List Part} {s0 : State} (z : Nat) (s : State)
    (h : Only ps s0 s) (hp : [.host, .zone, .media, .flash] ⊆ ps) : Only ps s0 (emptyZone z s) :=
  Only.via hp h (by
    unfold emptyZone
    repeat' first
      | (with_reducible assumption)
      | (with_reducible refine dropClaims_only _ _ _ ?_ (by decide))
      | (with_reducible refine unmapZoneFrom_only _ _ _ ?_ (by decide))
      | (with_reducible refine packShared_only _ _ ?_ (by decide))
      | (with_reducible refine moveZone_only _ _ _ ?_ (by decide))
      | (with_reducible refine closeEarly_only _ _ ?_ (by decide))
      | (with_reducible refine updZoneRec_only _ _ _ ?_ (by decide))
      | (with_reducible refine only_when _ _ ?_ ?_)
      | (intro)
      | (extract_lets +onlyGivenNames s1; refine only_cut s1 ?_ ?_; unfold s1; clear s1; rotate_left; intro hs1; clear_value s1; rotate_right)
      | (extract_lets +onlyGivenNames v1)
      | (split)
      | (with_reducible exact only_refl _ _))

theorem closeZone_only {ps : List Part} {s0 : State} (z : Nat) (s : State)
    (h : Only ps s0 s) (hp : [.host, .zone, .media, .flash] ⊆ ps) : Only ps s0 (closeZone z s) :=
  Only.via hp h (by
    unfold closeZone
    repeat' first
      | (with_reducible assumption)
      | (with_reducible refine emptyZone_only _ _ ?_ (by decide))
      | (with_reducible refine moveZone_only _ _ _ ?_ (by decide))
      | (intro)
      | (split)
      | (with_reducible exact only_refl _ _))

theorem offlineZone_only {ps : List Part} {s0 : State} (z : Nat) (s : State)
    (h : Only ps s0 s) (hp : [.host, .zone, .media, .flash] ⊆ ps) : Only ps s0 (offlineZone z s) :=
  Only.via hp h (by
    unfold offlineZone
    repeat' first
      | (with_reducible assumption)
      | (with_reducible refine moveZone_only _ _ _ ?_ (by decide))
      | (with_reducible refine dropClaims_only _ _ _ ?_ (by decide))
      | (with_reducible refine unmapZoneFrom_only _ _ _ ?_ (by decide))
      | (intro)
      | (with_reducible exact only_refl _ _))

theorem holdReset_only {ps : List Part} {s0 : State} (z : Nat) (s : State)
    (h : Only ps s0 s) (hp : [.host, .zone] ⊆ ps) : Only ps s0 (holdReset z s) :=
  Only.via hp h (by
    unfold holdReset
    repeat' first
      | (with_reducible assumption)
      | (with_reducible refine setZone_only _ _ _ ?_ (by decide))
      | (with_reducible refine updItem_only _ _ _ ?_ (by decide))
      | (intro)
      | (split)
      | (with_reducible exact only_refl _ _))

theorem finishZone_only {ps : List Part} {s0 : State} (z : Nat) (s : State)
    (h : Only ps s0 s) (hp : [.frame, .host, .zone, .inst, .recd, .emit] ⊆ ps) : Only ps s0 (finishZone z s) :=
  Only.via hp h (by
    unfold finishZone
    repeat' first
      | (with_reducible assumption)
      | (with_reducible refine moveZone_only _ _ _ ?_ (by decide))
      | (with_reducible refine updZoneRec_only _ _ _ ?_ (by decide))
      | (with_reducible refine notifyZone_only _ _ _ _ ?_ (by decide))
      | (with_reducible refine only_when _ _ ?_ ?_)
      | (intro)
      | (extract_lets +onlyGivenNames s1; refine only_cut s1 ?_ ?_; unfold s1; clear s1; rotate_left; intro hs1; clear_value s1; rotate_right)
      | (extract_lets +onlyGivenNames v1)
      | (split)
      | (with_reducible exact only_refl _ _))

theorem applyZone_only {ps : List Part} {s0 : State} (p : Nat × ZoneTo) (s : State)
    (h : Only ps s0 s) (hp : [.frame, .host, .zone, .media, .flash, .inst, .recd, .emit] ⊆ ps) : Only ps s0 (applyZone p s) :=
  Only.via hp h (by
    unfold applyZone
    repeat' first
      | (with_reducible assumption)
      | (with_reducible refine updZoneRec_only _ _ _ ?_ (by decide))
      | (with_reducible refine closeZone_only _ _ ?_ (by decide))
      | (with_reducible refine finishZone_only _ _ ?_ (by decide))
      | (with_reducible refine moveZone_only _ _ _ ?_ (by decide))
      | (with_reducible refine emptyZone_only _ _ ?_ (by decide))
      | (with_reducible refine offlineZone_only _ _ ?_ (by decide))
      | (with_reducible refine holdReset_only _ _ ?_ (by decide))
      | (with_reducible refine learnReset_only _ _ _ ?_ (by decide))
      | (with_reducible refine only_when _ _ ?_ ?_)
      | (intro)
      | (split)
      | (with_reducible exact only_refl _ _))

theorem finishRecommended_only {ps : List Part} {s0 : State} (z : Nat) (s : State)
    (h : Only ps s0 s) (hp : [.frame, .host, .zone, .media, .inst, .recd, .emit] ⊆ ps) : Only ps s0 (finishRecommended z s) :=
  Only.via hp h (by
    unfold finishRecommended
    repeat' first
      | (with_reducible assumption)
      | (with_reducible refine notifyZone_only _ _ _ _ ?_ (by decide))
      | (with_reducible refine tell_only _ _ _ _ ?_ (by decide))
      | (with_reducible refine updZoneRec_only _ _ _ ?_ (by decide))
      | (intro)
      | (split)
      | (with_reducible exact only_refl _ _))

theorem deviceFinishDue_only {ps : List Part} {s0 : State} (z : Nat) (s : State)
    (h : Only ps s0 s) (hp : [.zone, .media] ⊆ ps) : Only ps s0 (deviceFinishDue z s) :=
  Only.via hp h (by
    unfold deviceFinishDue
    repeat' first
      | (with_reducible assumption)
      | (with_reducible refine deviceFinish_only _ _ ?_ (by decide))
      | (with_reducible refine updZoneRec_only _ _ _ ?_ (by decide))
      | (intro)
      | (split)
      | (with_reducible exact only_refl _ _))

theorem reportZones_only {ps : List Part} {s0 : State} (id : CmdId) (s : State)
    (h : Only ps s0 s) (hp : [.frame, .host, .inst, .recd, .emit] ⊆ ps) : Only ps s0 (reportZones id s) :=
  Only.via hp h (by
    unfold reportZones
    repeat' first
      | (with_reducible assumption)
      | (with_reducible refine finishBad_only _ _ _ ?_ (by decide))
      | (with_reducible refine finishOk_only _ _ ?_ (by decide))
      | (with_reducible refine send_only _ _ ?_ (by decide))
      | (with_reducible refine only_id ?_)
      | (intro)
      | (extract_lets +onlyGivenNames s1; refine only_cut s1 ?_ ?_; unfold s1; clear s1; rotate_left; intro hs1; clear_value s1; rotate_right)
      | (extract_lets +onlyGivenNames v1)
      | (split)
      | (with_reducible exact only_refl _ _))

end Sys2Proof.Machine
end

