-- ==== Sys2Proof/Laws/Only/Commit.lean ====
section
/-! SUPPORT. Which groups of state each operation of Machine/Commit.lean can change. -/

set_option linter.tactic.unusedName false

namespace Sys2Proof.Machine

theorem zoneLosses_only {ps : List Part} {s0 : State} (z : Nat) (s : State)
    (h : Only ps s0 s) (hp : [.frame, .host, .zone, .media, .inst, .recd, .emit] ⊆ ps) : Only ps s0 (zoneLosses z s) :=
  Only.via hp h (by
    unfold zoneLosses
    repeat' first
      | (with_reducible assumption)
      | (with_reducible refine notifyZone_only _ _ _ _ ?_ (by decide))
      | (with_reducible refine tell_only _ _ _ _ ?_ (by decide))
      | (with_reducible refine moveZone_only _ _ _ ?_ (by decide))
      | (intro)
      | (extract_lets +onlyGivenNames s1; refine only_cut s1 ?_ ?_; unfold s1; clear s1; rotate_left; intro hs1; clear_value s1; rotate_right)
      | (extract_lets +onlyGivenNames v1)
      | (split)
      | (with_reducible exact only_refl _ _))

theorem landedCommitted_only {ps : List Part} {s0 : State} (order : Nat) (s : State)
    (h : Only ps s0 s) (hp : [.media] ⊆ ps) : Only ps s0 (landedCommitted order s) :=
  Only.via hp h (by
    unfold landedCommitted
    repeat' first
      | (with_reducible assumption)
      | (with_reducible refine updLanded_only _ _ _ ?_ (by decide))
      | (with_reducible refine releaseEntry_only _ _ ?_ (by decide))
      | (intro)
      | (split)
      | (with_reducible exact only_refl _ _))

theorem commitZoned_only {ps : List Part} {s0 : State} (z : Nat) (k : Nat) (o : RowOp) (s : State)
    (h : Only ps s0 s) (hp : [.frame, .host, .zone, .media, .inst, .recd, .emit] ⊆ ps) : Only ps s0 (commitZoned z k o s) :=
  Only.via hp h (by
    unfold commitZoned
    repeat' first
      | (with_reducible assumption)
      | (with_reducible refine fitBlocks_only _ _ ?_ (by decide))
      | (with_reducible refine setZone_only _ _ _ ?_ (by decide))
      | (with_reducible refine gainValid_only _ _ _ ?_ (by decide))
      | (with_reducible refine landedCommitted_only _ _ ?_ (by decide))
      | (with_reducible refine loseValid_only _ _ _ ?_ (by decide))
      | (with_reducible refine zoneLosses_only _ _ ?_ (by decide))
      | (with_reducible refine updGroup_only _ _ _ ?_ (by decide))
      | (with_reducible refine only_forEach _ _ _ ?_ ?_)
      | (intro)
      | (extract_lets +onlyGivenNames s1; refine only_cut s1 ?_ ?_; unfold s1; clear s1; rotate_left; intro hs1; clear_value s1; rotate_right)
      | (extract_lets +onlyGivenNames v1)
      | (split)
      | (with_reducible exact only_refl _ _))

theorem commitPage_only {ps : List Part} {s0 : State} (o : RowOp) (p : Nat × RowUnit) (s : State)
    (h : Only ps s0 s) (hp : [.media] ⊆ ps) : Only ps s0 (commitPage o p s) :=
  Only.via hp h (by
    unfold commitPage
    extract_lets x u new old held gone
    have hg : ∀ t, Only [.media] s t → Only [.media] s (gone t) := by
      intro t ht
      unfold gone
      cases p.2.src
      · exact landedCommitted_only _ _ ht (by decide)
      · exact loseValid_only _ _ _ ht (by decide)
    clear_value held
    split
    · exact hg _ (gainValid_only _ _ _ (setPm_only _ _ _ _ (only_refl _ _) (by decide)) (by decide))
    split
    · exact hg _ (gainValid_only _ _ _ (updLanded_only _ _ _ (only_refl _ _) (by decide)) (by decide))
    · exact only_refl _ _)

theorem commitRow_only {ps : List Part} {s0 : State} (o : RowOp) (s : State)
    (h : Only ps s0 s) (hp : [.frame, .host, .zone, .media, .inst, .recd, .emit] ⊆ ps) : Only ps s0 (commitRow o s) :=
  Only.via hp h (by
    unfold commitRow
    repeat' first
      | (with_reducible assumption)
      | (with_reducible refine commitZoned_only _ _ _ _ ?_ (by decide))
      | (with_reducible refine markSegs_only _ _ ?_ (by decide))
      | (with_reducible refine commitPage_only _ _ _ ?_ (by decide))
      | (with_reducible refine closeIfDone_only _ _ ?_ (by decide))
      | (with_reducible refine updGroup_only _ _ _ ?_ (by decide))
      | (with_reducible refine only_forEach _ _ _ ?_ ?_)
      | (intro)
      | (extract_lets +onlyGivenNames s1; refine only_cut s1 ?_ ?_; unfold s1; clear s1; rotate_left; intro hs1; clear_value s1; rotate_right)
      | (extract_lets +onlyGivenNames v1)
      | (split)
      | (with_reducible exact only_refl _ _))

theorem freeBlock_only {ps : List Part} {s0 : State} (cls : Nat) (area : Bool) (die : Nat) (b : Nat) (s : State)
    (h : Only ps s0 s) (hp : [.media, .flash] ⊆ ps) : Only ps s0 (freeBlock cls area die b s) :=
  Only.via hp h (by
    unfold freeBlock
    repeat' first
      | (with_reducible assumption)
      | (with_reducible refine updFlash_only _ _ ?_ (by decide))
      | (with_reducible refine setBlock_only _ _ _ _ ?_ (by decide))
      | (with_reducible refine judgeDie_only _ _ ?_ (by decide))
      | (with_reducible refine updDie_only _ _ _ ?_ (by decide))
      | (intro)
      | (extract_lets +onlyGivenNames s1; refine only_cut s1 ?_ ?_; unfold s1; clear s1; rotate_left; intro hs1; clear_value s1; rotate_right)
      | (extract_lets +onlyGivenNames v1)
      | (split)
      | (with_reducible exact only_refl _ _))

theorem erasedItems_only {ps : List Part} {s0 : State} (eg : Nat) (s : State)
    (h : Only ps s0 s) (hp : [.frame, .host, .zone, .media, .inst, .recd, .emit] ⊆ ps) : Only ps s0 (erasedItems eg s) :=
  Only.via hp h (by
    unfold erasedItems
    repeat' first
      | (with_reducible assumption)
      | (with_reducible refine updItem_only _ _ _ ?_ (by decide))
      | (with_reducible refine finishOk_only _ _ ?_ (by decide))
      | (with_reducible refine learnHeld_only _ _ ?_ (by decide))
      | (with_reducible refine giveBackHeld_only _ _ ?_ (by decide))
      | (with_reducible refine only_forEach _ _ _ ?_ ?_)
      | (intro)
      | (extract_lets +onlyGivenNames s1; refine only_cut s1 ?_ ?_; unfold s1; clear s1; rotate_left; intro hs1; clear_value s1; rotate_right)
      | (extract_lets +onlyGivenNames v1)
      | (split)
      | (with_reducible exact only_refl _ _))

theorem clearGroup_only {ps : List Part} {s0 : State} (eg : Nat) (s : State)
    (h : Only ps s0 s) (hp : [.media] ⊆ ps) : Only ps s0 (clearGroup eg s) :=
  Only.via hp h (by
    unfold clearGroup
    repeat' first
      | (with_reducible assumption)
      | (with_reducible refine updMedia_only _ _ ?_ (by decide))
      | (intro)
      | (with_reducible exact only_refl _ _))

theorem dissolve_only {ps : List Part} {s0 : State} (eg : Nat) (s : State)
    (h : Only ps s0 s) (hp : [.frame, .host, .zone, .media, .flash, .inst, .recd, .emit] ⊆ ps) : Only ps s0 (dissolve eg s) :=
  Only.via hp h (by
    unfold dissolve
    repeat' first
      | (with_reducible assumption)
      | (with_reducible refine clearGroup_only _ _ ?_ (by decide))
      | (with_reducible refine freeBlock_only _ _ _ _ _ ?_ (by decide))
      | (with_reducible refine refugeAgain_only _ _ ?_ (by decide))
      | (with_reducible refine forgetGroup_only _ _ ?_ (by decide))
      | (with_reducible refine updMedia_only _ _ ?_ (by decide))
      | (with_reducible refine updZone_only _ _ ?_ (by decide))
      | (with_reducible refine pendErase_only _ _ ?_ (by decide))
      | (with_reducible refine pendIfEmpty_only _ _ ?_ (by decide))
      | (with_reducible refine erasedItems_only _ _ ?_ (by decide))
      | (with_reducible refine only_when _ _ ?_ ?_)
      | (with_reducible refine only_forEach _ _ _ ?_ ?_)
      | (intro)
      | (extract_lets +onlyGivenNames s1; refine only_cut s1 ?_ ?_; unfold s1; clear s1; rotate_left; intro hs1; clear_value s1; rotate_right)
      | (extract_lets +onlyGivenNames v1)
      | (split)
      | (with_reducible exact only_refl _ _))

theorem commitItem_only {ps : List Part} {s0 : State} (seq : Nat) (s : State)
    (h : Only ps s0 s) (hp : [.frame, .host, .zone, .media, .inst, .recd, .emit] ⊆ ps) : Only ps s0 (commitItem seq s) :=
  Only.via hp h (by
    unfold commitItem
    repeat' first
      | (with_reducible assumption)
      | (with_reducible refine learnHeld_only _ _ ?_ (by decide))
      | (with_reducible refine giveBackHeld_only _ _ ?_ (by decide))
      | (with_reducible refine postItem_only _ _ ?_ (by decide))
      | (with_reducible refine postWrite_only _ _ _ ?_ (by decide))
      | (with_reducible refine finishOk_only _ _ ?_ (by decide))
      | (intro)
      | (extract_lets +onlyGivenNames s1; refine only_cut s1 ?_ ?_; unfold s1; clear s1; rotate_left; intro hs1; clear_value s1; rotate_right)
      | (extract_lets +onlyGivenNames v1)
      | (split)
      | (with_reducible exact only_refl _ _))

theorem unmapIn_only {ps : List Part} {s0 : State} (eg : Nat) (x : Nat) (first : Nat) (n : Nat) (s : State)
    (h : Only ps s0 s) (hp : [.media] ⊆ ps) : Only ps s0 (unmapIn eg x first n s) :=
  Only.via hp h (by
    unfold unmapIn
    repeat' first
      | (with_reducible assumption)
      | (with_reducible refine unmapUnit_only _ _ _ ?_ (by decide))
      | (with_reducible refine only_forEach _ _ _ ?_ ?_)
      | (intro)
      | (with_reducible exact only_refl _ _))

theorem applyGroups_only {ps : List Part} {s0 : State} (r : JRec) (s : State)
    (h : Only ps s0 s) (hp : [.media] ⊆ ps) : Only ps s0 (applyGroups r s) :=
  Only.via hp h (by
    unfold applyGroups
    repeat' first
      | (with_reducible assumption)
      | (with_reducible refine updGroup_only _ _ _ ?_ (by decide))
      | (with_reducible refine pendIfEmpty_only _ _ ?_ (by decide))
      | (with_reducible refine only_forEach _ _ _ ?_ ?_)
      | (intro)
      | (extract_lets +onlyGivenNames s1; refine only_cut s1 ?_ ?_; unfold s1; clear s1; rotate_left; intro hs1; clear_value s1; rotate_right)
      | (extract_lets +onlyGivenNames v1)
      | (split)
      | (with_reducible exact only_refl _ _))

theorem applyUnmap_only {ps : List Part} {s0 : State} (r : JRec) (s : State)
    (h : Only ps s0 s) (hp : [.zone, .media] ⊆ ps) : Only ps s0 (applyUnmap r s) :=
  Only.via hp h (by
    unfold applyUnmap
    repeat' first
      | (with_reducible assumption)
      | (with_reducible refine cutZone_only _ _ _ ?_ (by decide))
      | (with_reducible refine markSegs_only _ _ ?_ (by decide))
      | (with_reducible refine unmapIn_only _ _ _ _ _ ?_ (by decide))
      | (with_reducible refine unmapUnits_only _ _ _ _ ?_ (by decide))
      | (intro)
      | (split)
      | (with_reducible exact only_refl _ _))

theorem applyRec_only {ps : List Part} {s0 : State} (r : JRec) (s : State)
    (h : Only ps s0 s) (hp : [.frame, .host, .zone, .media, .flash, .inst, .recd, .emit] ⊆ ps) : Only ps s0 (applyRec r s) :=
  Only.via hp h (by
    unfold applyRec
    repeat' first
      | (with_reducible assumption)
      | (with_reducible refine applyGroups_only _ _ ?_ (by decide))
      | (with_reducible refine commitRow_only _ _ ?_ (by decide))
      | (with_reducible refine applyUnmap_only _ _ ?_ (by decide))
      | (with_reducible refine applyZone_only _ _ ?_ (by decide))
      | (with_reducible refine dissolve_only _ _ ?_ (by decide))
      | (with_reducible refine commitItem_only _ _ ?_ (by decide))
      | (with_reducible refine only_when _ _ ?_ ?_)
      | (with_reducible refine only_forEach _ _ _ ?_ ?_)
      | (intro)
      | (extract_lets +onlyGivenNames s1; refine only_cut s1 ?_ ?_; unfold s1; clear s1; rotate_left; intro hs1; clear_value s1; rotate_right)
      | (extract_lets +onlyGivenNames v1)
      | (split)
      | (with_reducible exact only_refl _ _))

theorem record_only {ps : List Part} {s0 : State} (r : JRec) (rest : List JRec) (s : State)
    (h : Only ps s0 s) (hp : [.frame, .host, .zone, .media, .flash, .inst, .recd, .emit] ⊆ ps) : Only ps s0 (record r rest s) :=
  Only.via hp h (by
    unfold record
    repeat' first
      | (with_reducible assumption)
      | (with_reducible refine applyRec_only _ _ ?_ (by decide))
      | (with_reducible refine updMedia_only _ _ ?_ (by decide))
      | (intro)
      | (extract_lets +onlyGivenNames s1; refine only_cut s1 ?_ ?_; unfold s1; clear s1; rotate_left; intro hs1; clear_value s1; rotate_right)
      | (extract_lets +onlyGivenNames v1)
      | (split)
      | (with_reducible exact only_refl _ _))

theorem commitHead_only {ps : List Part} {s0 : State} (ok : JRec → Bool) (readBackOk : Bool) (s : State)
    (h : Only ps s0 s) (hp : [.frame, .host, .zone, .media, .flash, .inst, .therm, .pins, .recd, .emit] ⊆ ps) : Only ps s0 (commitHead ok readBackOk s) :=
  Only.via hp h (by
    unfold commitHead
    repeat' first
      | (with_reducible assumption)
      | (with_reducible refine replaceLine_only _ _ ?_ (by decide))
      | (with_reducible refine record_only _ _ _ ?_ (by decide))
      | (with_reducible refine only_when _ _ ?_ ?_)
      | (intro)
      | (extract_lets +onlyGivenNames s1; refine only_cut s1 ?_ ?_; unfold s1; clear s1; rotate_left; intro hs1; clear_value s1; rotate_right)
      | (extract_lets +onlyGivenNames v1)
      | (split)
      | (with_reducible exact only_refl _ _))

theorem victimDone_only {ps : List Part} {s0 : State} (eg : Nat) (s : State)
    (h : Only ps s0 s) (hp : [.media] ⊆ ps) : Only ps s0 (victimDone eg s) :=
  Only.via hp h (by
    unfold victimDone
    repeat' first
      | (with_reducible assumption)
      | (with_reducible refine updMedia_only _ _ ?_ (by decide))
      | (intro)
      | (split)
      | (with_reducible exact only_refl _ _))

theorem submitRows_only {ps : List Part} {s0 : State} (eg : Nat) (s : State)
    (h : Only ps s0 s) (hp : [.media] ⊆ ps) : Only ps s0 (submitRows eg s) :=
  Only.via hp h (by
    unfold submitRows
    repeat' first
      | (with_reducible assumption)
      | (with_reducible refine updMedia_only _ _ ?_ (by decide))
      | (with_reducible refine victimDone_only _ _ ?_ (by decide))
      | (with_reducible refine submit_only _ _ ?_ (by decide))
      | (with_reducible refine only_forEach _ _ _ ?_ ?_)
      | (intro)
      | (extract_lets +onlyGivenNames s1; refine only_cut s1 ?_ ?_; unfold s1; clear s1; rotate_left; intro hs1; clear_value s1; rotate_right)
      | (extract_lets +onlyGivenNames v1)
      | (split)
      | (with_reducible exact only_refl _ _))

theorem relocationCommit_only {ps : List Part} {s0 : State} (eg : Nat) (s : State)
    (h : Only ps s0 s) (hp : [.frame, .host, .zone, .media, .flash, .inst, .therm, .pins, .recd, .emit] ⊆ ps) : Only ps s0 (relocationCommit eg s) :=
  Only.via hp h (by
    unfold relocationCommit
    repeat' first
      | (with_reducible assumption)
      | (with_reducible refine victimDone_only _ _ ?_ (by decide))
      | (with_reducible refine commitHead_only _ _ _ ?_ (by decide))
      | (intro)
      | (with_reducible exact only_refl _ _))

end Sys2Proof.Machine
end

