-- ==== Sys2Proof/Laws/Only/Mailbox.lean ====
section
/-! SUPPORT. Which groups of state each operation of Machine/Mailbox.lean can change. -/

set_option linter.tactic.unusedName false

namespace Sys2Proof.Machine

theorem latchReadBy_only {ps : List Part} {s0 : State} (a : Nat) (n : Nat) (s : State)
    (h : Only ps s0 s) (hp : [.frame, .mbx, .prot, .power, .emit] ⊆ ps) : Only ps s0 (latchReadBy a n s) :=
  Only.via hp h (by
    unfold latchReadBy
    repeat' first
      | (with_reducible assumption)
      | (with_reducible refine answer_only _ ?_ (by decide))
      | (with_reducible refine read4_only _ _ ?_ (by decide))
      | (with_reducible refine read4_only2 _ _ ?_ (by decide) (by assumption))
      | (with_reducible refine readLatch_only _ _ ?_ (by decide))
      | (with_reducible refine readLatch_only2 _ _ ?_ (by decide) (by assumption))
      | (intro)
      | (split)
      | (with_reducible exact only_refl _ _))

theorem latchWriteBy_only {ps : List Part} {s0 : State} (a : Nat) (n : Nat) (x2 : Word) (s : State)
    (h : Only ps s0 s) (hp : [.mbx, .inst, .prot, .ecc, .power, .emit, .free] ⊆ ps) : Only ps s0 (latchWriteBy a n x2 s) :=
  Only.via hp h (by
    unfold latchWriteBy
    repeat' first
      | (with_reducible assumption)
      | (with_reducible refine write4_only _ _ _ _ ?_ (by decide))
      | (with_reducible refine writeLatch_only _ _ _ _ ?_ (by decide))
      | (intro)
      | (split)
      | (with_reducible exact only_refl _ _))

theorem gatedReadOf_only {ps : List Part} {s0 : State} (p : Pf) (off : Nat) (size : Nat) (s : State)
    (h : Only ps s0 s) (hp : [.frame, .mbx, .prot, .power, .emit] ⊆ ps) : Only ps s0 (gatedReadOf p off size s) :=
  Only.via hp h (by
    unfold gatedReadOf
    repeat' first
      | (with_reducible assumption)
      | (with_reducible refine answer_only _ ?_ (by decide))
      | (with_reducible refine windowRead_only _ _ _ ?_ (by decide))
      | (with_reducible refine windowRead_only2 _ _ _ ?_ (by decide) (by assumption))
      | (intro)
      | (split)
      | (with_reducible exact only_refl _ _))

end Sys2Proof.Machine
end

