-- ==== Sys2Proof/Laws/Only/Queues.lean ====
section
/-! SUPPORT. Which groups of state each operation of Machine/Queues.lean can change. -/

set_option linter.tactic.unusedName false

namespace Sys2Proof.Machine

theorem tailDoorbell_only {ps : List Part} {s0 : State} (fn : Nat) (sq : Nat) (tail : Nat) (s : State)
    (h : Only ps s0 s) (hp : [.frame, .host, .inst, .power, .recd, .emit] ⊆ ps) : Only ps s0 (tailDoorbell fn sq tail s) :=
  Only.via hp h (by
    unfold tailDoorbell
    repeat' first
      | (with_reducible assumption)
      | (with_reducible refine notifyDoorbell_only _ _ ?_ (by decide))
      | (with_reducible refine wake_only _ ?_ (by decide))
      | (with_reducible refine updCtl_only _ _ _ ?_ (by decide))
      | (intro)
      | (extract_lets +onlyGivenNames s1; refine only_cut s1 ?_ ?_; unfold s1; clear s1; rotate_left; intro hs1; clear_value s1; rotate_right)
      | (extract_lets +onlyGivenNames v1)
      | (split)
      | (with_reducible exact only_refl _ _))

theorem fillCq_only {ps : List Part} {s0 : State} (fn : Nat) (cq : Nat) (x2 : List Cqe) (s : State)
    (h : Only ps s0 s) (hp : [.host, .emit] ⊆ ps) : Only ps s0 (fillCq fn cq x2 s) :=
  Only.via hp h (by
    clear h hp
    fun_induction fillCq
    repeat' first
      | (with_reducible assumption)
      | (with_reducible refine postCqe_only _ _ _ _ ?_ (by decide))
      | (with_reducible refine Only.trans ?_ (by with_reducible assumption))
      | (intro)
      | (with_reducible exact only_refl _ _))

theorem headDoorbell_only {ps : List Part} {s0 : State} (fn : Nat) (cq : Nat) (head : Nat) (s : State)
    (h : Only ps s0 s) (hp : [.frame, .host, .inst, .recd, .emit] ⊆ ps) : Only ps s0 (headDoorbell fn cq head s) :=
  Only.via hp h (by
    unfold headDoorbell
    repeat' first
      | (with_reducible assumption)
      | (with_reducible refine notifyDoorbell_only _ _ ?_ (by decide))
      | (with_reducible refine fillCq_only _ _ _ _ ?_ (by decide))
      | (with_reducible refine updCtl_only _ _ _ ?_ (by decide))
      | (intro)
      | (extract_lets +onlyGivenNames s1; refine only_cut s1 ?_ ?_; unfold s1; clear s1; rotate_left; intro hs1; clear_value s1; rotate_right)
      | (extract_lets +onlyGivenNames v1)
      | (split)
      | (with_reducible exact only_refl _ _))

theorem fetch_only {ps : List Part} {s0 : State} (fn : Nat) (sq : Nat) (e : Sqe) (s : State)
    (h : Only ps s0 s) (hp : [.frame, .host, .inst, .recd, .emit] ⊆ ps) : Only ps s0 (fetch fn sq e s) :=
  Only.via hp h (by
    unfold fetch
    have hk : ∀ t, (if sq = 0 then some s else takeTokens fn e s) = some t →
        Only [.frame, .host, .inst, .recd, .emit] s t := by
      intro t ht
      split at ht
      · cases ht; exact only_refl _ _
      · exact takeTokens_only2 _ _ (only_refl _ _) (by decide) ht
    split
    · exact only_refl _ _
    split
    · exact only_refl _ _
    split
    · exact only_refl _ _
    split
    · exact only_refl _ _
    split
    · exact noteWait_only _ _ (only_refl _ _) (by decide)
    rename_i s1 e1
    have k := hk s1 e1
    exact only_when _ _
      (updItems_only _ _ (only_host _ (updCtl_only _ _ _ k (by decide)) (by decide)) (by decide))
      (fun t ht => finishBad_only _ _ _ ht (by decide)))

theorem admin_only {ps : List Part} {s0 : State} (opc : Nat) (who : Access) (body : Item → State → State) (id : CmdId) (s : State)
    (h : Only ps s0 s) (hf0 : ∀ a t, Only ps s0 t → Only ps s0 (body a t)) (hp : [.frame, .host, .inst, .recd, .emit] ⊆ ps) :
    Only ps s0 (admin opc who body id s) := by
  unfold admin
  repeat' first
    | (with_reducible assumption)
    | (with_reducible refine hf0 _ _ ?_)
    | (with_reducible refine takeUp_only _ _ ?_ (List.Subset.trans (by decide) hp))
    | (with_reducible refine finishBad_only _ _ _ ?_ (List.Subset.trans (by decide) hp))
    | (with_reducible refine only_id ?_)
    | (intro)
    | (extract_lets +onlyGivenNames s1; refine only_cut s1 ?_ ?_; unfold s1; clear s1; rotate_left; intro hs1; clear_value s1; rotate_right)
    | (extract_lets +onlyGivenNames v1)
    | (split)
    | (with_reducible exact only_refl _ _)

theorem createSq_only {ps : List Part} {s0 : State} (it : Item) (s : State)
    (h : Only ps s0 s) (hp : [.frame, .host, .inst, .recd, .emit] ⊆ ps) : Only ps s0 (createSq it s) :=
  Only.via hp h (by
    unfold createSq
    repeat' first
      | (with_reducible assumption)
      | (with_reducible refine finishBad_only _ _ _ ?_ (by decide))
      | (with_reducible refine finishOk_only _ _ ?_ (by decide))
      | (with_reducible refine updCtl_only _ _ _ ?_ (by decide))
      | (intro)
      | (extract_lets +onlyGivenNames s1; refine only_cut s1 ?_ ?_; unfold s1; clear s1; rotate_left; intro hs1; clear_value s1; rotate_right)
      | (extract_lets +onlyGivenNames v1)
      | (split)
      | (with_reducible exact only_refl _ _))

theorem createCq_only {ps : List Part} {s0 : State} (it : Item) (s : State)
    (h : Only ps s0 s) (hp : [.frame, .host, .inst, .recd, .emit] ⊆ ps) : Only ps s0 (createCq it s) :=
  Only.via hp h (by
    unfold createCq
    repeat' first
      | (with_reducible assumption)
      | (with_reducible refine finishBad_only _ _ _ ?_ (by decide))
      | (with_reducible refine finishOk_only _ _ ?_ (by decide))
      | (with_reducible refine updCtl_only _ _ _ ?_ (by decide))
      | (intro)
      | (extract_lets +onlyGivenNames s1; refine only_cut s1 ?_ ?_; unfold s1; clear s1; rotate_left; intro hs1; clear_value s1; rotate_right)
      | (extract_lets +onlyGivenNames v1)
      | (split)
      | (with_reducible exact only_refl _ _))

theorem deleteSq_only {ps : List Part} {s0 : State} (it : Item) (s : State)
    (h : Only ps s0 s) (hp : [.frame, .host, .inst, .recd, .emit] ⊆ ps) : Only ps s0 (deleteSq it s) :=
  Only.via hp h (by
    unfold deleteSq
    repeat' first
      | (with_reducible assumption)
      | (with_reducible refine finishBad_only _ _ _ ?_ (by decide))
      | (with_reducible refine updCtl_only _ _ _ ?_ (by decide))
      | (with_reducible refine finishOk_only _ _ ?_ (by decide))
      | (intro)
      | (extract_lets +onlyGivenNames s1; refine only_cut s1 ?_ ?_; unfold s1; clear s1; rotate_left; intro hs1; clear_value s1; rotate_right)
      | (extract_lets +onlyGivenNames v1)
      | (split)
      | (with_reducible exact only_refl _ _))

theorem deleteCq_only {ps : List Part} {s0 : State} (it : Item) (s : State)
    (h : Only ps s0 s) (hp : [.frame, .host, .inst, .recd, .emit] ⊆ ps) : Only ps s0 (deleteCq it s) :=
  Only.via hp h (by
    unfold deleteCq
    repeat' first
      | (with_reducible assumption)
      | (with_reducible refine finishBad_only _ _ _ ?_ (by decide))
      | (with_reducible refine finishOk_only _ _ ?_ (by decide))
      | (with_reducible refine updCtl_only _ _ _ ?_ (by decide))
      | (intro)
      | (extract_lets +onlyGivenNames s1; refine only_cut s1 ?_ ?_; unfold s1; clear s1; rotate_left; intro hs1; clear_value s1; rotate_right)
      | (extract_lets +onlyGivenNames v1)
      | (split)
      | (with_reducible exact only_refl _ _))

theorem setFeature_only {ps : List Part} {s0 : State} (fid : Nat) (mgr : Bool) (body : Item → State → State) (id : CmdId) (s : State)
    (h : Only ps s0 s) (hf0 : ∀ a t, Only ps s0 t → Only ps s0 (body a t)) (hp : [.frame, .host, .inst, .recd, .emit] ⊆ ps) :
    Only ps s0 (setFeature fid mgr body id s) := by
  unfold setFeature
  repeat' first
    | (with_reducible assumption)
    | (with_reducible refine hf0 _ _ ?_)
    | (with_reducible refine admin_only _ _ _ _ _ ?_ ?_ (List.Subset.trans (by decide) hp))
    | (with_reducible refine finishBad_only _ _ _ ?_ (List.Subset.trans (by decide) hp))
    | (with_reducible refine only_id ?_)
    | (intro)
    | (split)
    | (with_reducible exact only_refl _ _)

theorem updFeats_only {ps : List Part} {s0 : State} (fn : Nat) (x1 : Feats → Feats) (s : State)
    (h : Only ps s0 s) (hp : [.host] ⊆ ps) : Only ps s0 (updFeats fn x1 s) :=
  Only.via hp h (by
    unfold updFeats
    repeat' first
      | (with_reducible assumption)
      | (with_reducible refine updCtl_only _ _ _ ?_ (by decide))
      | (intro)
      | (with_reducible exact only_refl _ _))

theorem setArbitration_only {ps : List Part} {s0 : State} (it : Item) (s : State)
    (h : Only ps s0 s) (hp : [.frame, .host, .inst, .recd, .emit] ⊆ ps) : Only ps s0 (setArbitration it s) :=
  Only.via hp h (by
    unfold setArbitration
    repeat' first
      | (with_reducible assumption)
      | (with_reducible refine finishOk_only _ _ ?_ (by decide))
      | (with_reducible refine updFeats_only _ _ _ ?_ (by decide))
      | (intro)
      | (with_reducible exact only_refl _ _))

theorem setTempThreshold_only {ps : List Part} {s0 : State} (it : Item) (s : State)
    (h : Only ps s0 s) (hp : [.frame, .host, .inst, .recd, .emit] ⊆ ps) : Only ps s0 (setTempThreshold it s) :=
  Only.via hp h (by
    unfold setTempThreshold
    repeat' first
      | (with_reducible assumption)
      | (with_reducible refine finishBad_only _ _ _ ?_ (by decide))
      | (with_reducible refine finishOk_only _ _ ?_ (by decide))
      | (with_reducible refine updFeats_only _ _ _ ?_ (by decide))
      | (intro)
      | (extract_lets +onlyGivenNames s1; refine only_cut s1 ?_ ?_; unfold s1; clear s1; rotate_left; intro hs1; clear_value s1; rotate_right)
      | (extract_lets +onlyGivenNames v1)
      | (split)
      | (with_reducible exact only_refl _ _))

theorem setErrorRecovery_only {ps : List Part} {s0 : State} (it : Item) (s : State)
    (h : Only ps s0 s) (hp : [.frame, .host, .inst, .recd, .emit] ⊆ ps) : Only ps s0 (setErrorRecovery it s) :=
  Only.via hp h (by
    unfold setErrorRecovery
    repeat' first
      | (with_reducible assumption)
      | (with_reducible refine finishOk_only _ _ ?_ (by decide))
      | (with_reducible refine updFeats_only _ _ _ ?_ (by decide))
      | (intro)
      | (with_reducible exact only_refl _ _))

theorem setNumberOfQueues_only {ps : List Part} {s0 : State} (it : Item) (s : State)
    (h : Only ps s0 s) (hp : [.frame, .host, .inst, .recd, .emit] ⊆ ps) : Only ps s0 (setNumberOfQueues it s) :=
  Only.via hp h (by
    unfold setNumberOfQueues
    repeat' first
      | (with_reducible assumption)
      | (with_reducible refine finish_only _ _ _ _ _ ?_ (by decide))
      | (intro)
      | (split)
      | (with_reducible exact only_refl _ _))

theorem setCoalescing_only {ps : List Part} {s0 : State} (it : Item) (s : State)
    (h : Only ps s0 s) (hp : [.frame, .host, .inst, .recd, .emit] ⊆ ps) : Only ps s0 (setCoalescing it s) :=
  Only.via hp h (by
    unfold setCoalescing
    repeat' first
      | (with_reducible assumption)
      | (with_reducible refine finishOk_only _ _ ?_ (by decide))
      | (with_reducible refine updFeats_only _ _ _ ?_ (by decide))
      | (intro)
      | (with_reducible exact only_refl _ _))

theorem setVectorConfig_only {ps : List Part} {s0 : State} (it : Item) (s : State)
    (h : Only ps s0 s) (hp : [.frame, .host, .inst, .recd, .emit] ⊆ ps) : Only ps s0 (setVectorConfig it s) :=
  Only.via hp h (by
    unfold setVectorConfig
    repeat' first
      | (with_reducible assumption)
      | (with_reducible refine finishBad_only _ _ _ ?_ (by decide))
      | (with_reducible refine finishOk_only _ _ ?_ (by decide))
      | (with_reducible refine updCtl_only _ _ _ ?_ (by decide))
      | (intro)
      | (extract_lets +onlyGivenNames s1; refine only_cut s1 ?_ ?_; unfold s1; clear s1; rotate_left; intro hs1; clear_value s1; rotate_right)
      | (extract_lets +onlyGivenNames v1)
      | (split)
      | (with_reducible exact only_refl _ _))

theorem setWriteAtomicity_only {ps : List Part} {s0 : State} (it : Item) (s : State)
    (h : Only ps s0 s) (hp : [.frame, .host, .inst, .recd, .emit] ⊆ ps) : Only ps s0 (setWriteAtomicity it s) :=
  Only.via hp h (by
    unfold setWriteAtomicity
    repeat' first
      | (with_reducible assumption)
      | (with_reducible refine finishOk_only _ _ ?_ (by decide))
      | (with_reducible refine updFeats_only _ _ _ ?_ (by decide))
      | (intro)
      | (with_reducible exact only_refl _ _))

theorem setAsyncConfig_only {ps : List Part} {s0 : State} (it : Item) (s : State)
    (h : Only ps s0 s) (hp : [.frame, .host, .inst, .recd, .emit] ⊆ ps) : Only ps s0 (setAsyncConfig it s) :=
  Only.via hp h (by
    unfold setAsyncConfig
    repeat' first
      | (with_reducible assumption)
      | (with_reducible refine finishOk_only _ _ ?_ (by decide))
      | (with_reducible refine updFeats_only _ _ _ ?_ (by decide))
      | (intro)
      | (with_reducible exact only_refl _ _))

theorem setTimestamp_only {ps : List Part} {s0 : State} (dma : Dma) (it : Item) (s : State)
    (h : Only ps s0 s) (hp : [.frame, .host, .inst, .recd, .emit] ⊆ ps) : Only ps s0 (setTimestamp dma it s) :=
  Only.via hp h (by
    unfold setTimestamp
    repeat' first
      | (with_reducible assumption)
      | (with_reducible refine finishBad_only _ _ _ ?_ (by decide))
      | (with_reducible refine finishOk_only _ _ ?_ (by decide))
      | (with_reducible refine updFeats_only _ _ _ ?_ (by decide))
      | (intro)
      | (split)
      | (with_reducible exact only_refl _ _))

theorem setLifetime_only {ps : List Part} {s0 : State} (it : Item) (s : State)
    (h : Only ps s0 s) (hp : [.frame, .host, .inst, .recd, .emit] ⊆ ps) : Only ps s0 (setLifetime it s) :=
  Only.via hp h (by
    unfold setLifetime
    repeat' first
      | (with_reducible assumption)
      | (with_reducible refine finishBad_only _ _ _ ?_ (by decide))
      | (with_reducible refine finishOk_only _ _ ?_ (by decide))
      | (with_reducible refine updFeats_only _ _ _ ?_ (by decide))
      | (intro)
      | (extract_lets +onlyGivenNames s1; refine only_cut s1 ?_ ?_; unfold s1; clear s1; rotate_left; intro hs1; clear_value s1; rotate_right)
      | (extract_lets +onlyGivenNames v1)
      | (split)
      | (with_reducible exact only_refl _ _))

theorem getFeatures_only {ps : List Part} {s0 : State} (it : Item) (s : State)
    (h : Only ps s0 s) (hp : [.frame, .host, .inst, .recd, .emit] ⊆ ps) : Only ps s0 (getFeatures it s) :=
  Only.via hp h (by
    unfold getFeatures
    repeat' first
      | (with_reducible assumption)
      | (with_reducible refine finishBad_only _ _ _ ?_ (by decide))
      | (with_reducible refine finish_only _ _ _ _ _ ?_ (by decide))
      | (with_reducible refine send_only _ _ ?_ (by decide))
      | (with_reducible refine only_when _ _ ?_ ?_)
      | (intro)
      | (extract_lets +onlyGivenNames s1; refine only_cut s1 ?_ ?_; unfold s1; clear s1; rotate_left; intro hs1; clear_value s1; rotate_right)
      | (extract_lets +onlyGivenNames v1)
      | (split)
      | (with_reducible exact only_refl _ _))

theorem asyncRequest_only {ps : List Part} {s0 : State} (it : Item) (s : State)
    (h : Only ps s0 s) (hp : [.frame, .host, .inst, .recd, .emit] ⊆ ps) : Only ps s0 (asyncRequest it s) :=
  Only.via hp h (by
    unfold asyncRequest
    repeat' first
      | (with_reducible assumption)
      | (with_reducible refine finishBad_only _ _ _ ?_ (by decide))
      | (with_reducible refine reportEvents_only _ _ _ ?_ (by decide))
      | (with_reducible refine updCtl_only _ _ _ ?_ (by decide))
      | (with_reducible refine updItem_only _ _ _ ?_ (by decide))
      | (intro)
      | (split)
      | (with_reducible exact only_refl _ _))

theorem directiveSend_only {ps : List Part} {s0 : State} (it : Item) (s : State)
    (h : Only ps s0 s) (hp : [.frame, .host, .inst, .recd, .emit] ⊆ ps) : Only ps s0 (directiveSend it s) :=
  Only.via hp h (by
    unfold directiveSend
    repeat' first
      | (with_reducible assumption)
      | (with_reducible refine finishBad_only _ _ _ ?_ (by decide))
      | (with_reducible refine finishOk_only _ _ ?_ (by decide))
      | (intro)
      | (extract_lets +onlyGivenNames s1; refine only_cut s1 ?_ ?_; unfold s1; clear s1; rotate_left; intro hs1; clear_value s1; rotate_right)
      | (extract_lets +onlyGivenNames v1)
      | (split)
      | (with_reducible exact only_refl _ _))

theorem directiveReceive_only {ps : List Part} {s0 : State} (it : Item) (s : State)
    (h : Only ps s0 s) (hp : [.frame, .host, .inst, .recd, .emit] ⊆ ps) : Only ps s0 (directiveReceive it s) :=
  Only.via hp h (by
    unfold directiveReceive
    repeat' first
      | (with_reducible assumption)
      | (with_reducible refine finishBad_only _ _ _ ?_ (by decide))
      | (with_reducible refine finishOk_only _ _ ?_ (by decide))
      | (with_reducible refine send_only _ _ ?_ (by decide))
      | (with_reducible refine finish_only _ _ _ _ _ ?_ (by decide))
      | (intro)
      | (extract_lets +onlyGivenNames s1; refine only_cut s1 ?_ ?_; unfold s1; clear s1; rotate_left; intro hs1; clear_value s1; rotate_right)
      | (extract_lets +onlyGivenNames v1)
      | (split)
      | (with_reducible exact only_refl _ _))

theorem securitySend_only {ps : List Part} {s0 : State} (it : Item) (s : State)
    (h : Only ps s0 s) (hp : [.frame, .host, .inst, .recd, .emit] ⊆ ps) : Only ps s0 (securitySend it s) :=
  Only.via hp h (by
    unfold securitySend
    repeat' first
      | (with_reducible assumption)
      | (with_reducible refine finishOk_only _ _ ?_ (by decide))
      | (with_reducible refine finishBad_only _ _ _ ?_ (by decide))
      | (intro)
      | (split)
      | (with_reducible exact only_refl _ _))

theorem securityReceive_only {ps : List Part} {s0 : State} (it : Item) (s : State)
    (h : Only ps s0 s) (hp : [.frame, .host, .inst, .recd, .emit] ⊆ ps) : Only ps s0 (securityReceive it s) :=
  Only.via hp h (by
    unfold securityReceive
    repeat' first
      | (with_reducible assumption)
      | (with_reducible refine finishOk_only _ _ ?_ (by decide))
      | (with_reducible refine send_only _ _ ?_ (by decide))
      | (with_reducible refine finishBad_only _ _ _ ?_ (by decide))
      | (intro)
      | (split)
      | (with_reducible exact only_refl _ _))

theorem unsupported_only {ps : List Part} {s0 : State} (id : CmdId) (s : State)
    (h : Only ps s0 s) (hp : [.frame, .host, .inst, .recd, .emit] ⊆ ps) : Only ps s0 (unsupported id s) :=
  Only.via hp h (by
    unfold unsupported
    repeat' first
      | (with_reducible assumption)
      | (with_reducible refine finishBad_only _ _ _ ?_ (by decide))
      | (with_reducible refine only_id ?_)
      | (intro)
      | (split)
      | (with_reducible exact only_refl _ _))

theorem aggregationExpiry_only {ps : List Part} {s0 : State} (fn : Nat) (x1 : Nat) (s : State)
    (h : Only ps s0 s) (hp : [.host, .emit] ⊆ ps) : Only ps s0 (aggregationExpiry fn x1 s) :=
  Only.via hp h (by
    unfold aggregationExpiry
    repeat' first
      | (with_reducible assumption)
      | (with_reducible refine interrupt_only _ _ _ ?_ (by decide))
      | (with_reducible refine updCtl_only _ _ _ ?_ (by decide))
      | (intro)
      | (extract_lets +onlyGivenNames s1; refine only_cut s1 ?_ ?_; unfold s1; clear s1; rotate_left; intro hs1; clear_value s1; rotate_right)
      | (extract_lets +onlyGivenNames v1)
      | (split)
      | (with_reducible exact only_refl _ _))

end Sys2Proof.Machine
end

