-- ==== Sys2Proof/Laws/Only/Rows.lean ====
section
/-! SUPPORT. Which groups of state each operation of Machine/Rows.lean can change. -/

set_option linter.tactic.unusedName false

namespace Sys2Proof.Machine

theorem request_only {ps : List Part} {s0 : State} (q : MediaReq) (s : State)
    (h : Only ps s0 s) (hp : [.flash] ⊆ ps) : Only ps s0 (request q s) :=
  Only.via hp h (by
    unfold request
    repeat' first
      | (with_reducible assumption)
      | (with_reducible refine updFlash_only _ _ ?_ (by decide))
      | (intro)
      | (split)
      | (with_reducible exact only_refl _ _))

theorem requestRow_only {ps : List Part} {s0 : State} (eg : Nat) (row : Nat) (gc : Bool) (s : State)
    (h : Only ps s0 s) (hp : [.flash] ⊆ ps) : Only ps s0 (requestRow eg row gc s) :=
  Only.via hp h (by
    unfold requestRow
    repeat' first
      | (with_reducible assumption)
      | (with_reducible refine request_only _ _ ?_ (by decide))
      | (with_reducible refine only_forEach _ _ _ ?_ ?_)
      | (intro)
      | (split)
      | (with_reducible exact only_refl _ _))

theorem updAmp_only {ps : List Part} {s0 : State} (fn : Nat) (x1 : Amp → Amp) (s : State)
    (h : Only ps s0 s) (hp : [.media] ⊆ ps) : Only ps s0 (updAmp fn x1 s) :=
  Only.via hp h (by
    unfold updAmp
    repeat' first
      | (with_reducible assumption)
      | (with_reducible refine updMedia_only _ _ ?_ (by decide))
      | (intro)
      | (with_reducible exact only_refl _ _))

theorem bindIn_only {ps : List Part} {s0 : State} (eg : Nat) (reserved : Bool) (o : RowOp) (s : State)
    (h : Only ps s0 s) (hp : [.frame, .host, .media, .flash, .inst, .therm, .pins, .recd, .emit] ⊆ ps) : Only ps s0 (bindIn eg reserved o s) :=
  Only.via hp h (by
    unfold bindIn
    repeat' first
      | (with_reducible assumption)
      | (with_reducible refine updGroup_only _ _ _ ?_ (by decide))
      | (with_reducible refine updMedia_only _ _ ?_ (by decide))
      | (with_reducible refine updLanded_only _ _ _ ?_ (by decide))
      | (with_reducible refine requestRow_only _ _ _ _ ?_ (by decide))
      | (with_reducible refine recDataErr_only _ _ _ ?_ (by decide))
      | (with_reducible refine setCritical_only _ _ ?_ (by decide))
      | (with_reducible refine callWrite_only _ ?_ (by decide))
      | (with_reducible refine only_forEach _ _ _ ?_ ?_)
      | (intro)
      | (extract_lets +onlyGivenNames s1; refine only_cut s1 ?_ ?_; unfold s1; clear s1; rotate_left; intro hs1; clear_value s1; rotate_right)
      | (extract_lets +onlyGivenNames v1)
      | (split)
      | (with_reducible exact only_refl _ _)
      | (refine only_therm _ ?_ (by decide)))

theorem shelfGroupFor_only2 {ps : List Part} {s0 : State} (w : Want) (z : Option Nat) {s t : State} {eg : Nat}
    (h : Only ps s0 s) (hp : [.zone, .media] ⊆ ps) (e : shelfGroupFor w z s = some (eg, t)) : Only ps s0 t := by
  unfold shelfGroupFor at e
  split at e
  · cases e
  split at e
  · split at e
    · cases e; exact h
    · cases e
  split at e
  · cases e
  · cases e
    have k := newGroup_only2 _ _ h (List.Subset.trans (by decide) hp) (by assumption)
    split
    · split
      · exact updZoneRec_only _ _ _ k (List.Subset.trans (by decide) hp)
      · exact updNs_only _ _ _ k (List.Subset.trans (by decide) hp)
    · exact updNs_only _ _ _ k (List.Subset.trans (by decide) hp)

theorem bindZoneFree_onlyOpt {ps : List Part} {s0 : State} (z : Nat) (shelf fresh : Bool) (o : RowOp) (s : State)
    (h : Only ps s0 s) (hp : [.frame, .host, .zone, .media, .flash, .inst, .therm, .pins, .recd, .emit] ⊆ ps) :
    OnlyOpt ps s0 (bindZoneFree z shelf fresh o s) :=
  OnlyOpt.via hp h (by
    unfold bindZoneFree
    split
    · exact onlyOpt_none _ _
    split
    · exact onlyOpt_none _ _
    rename_i r _ _ n _
    have hk : ∀ eg t, (if fresh then newGroup (zoneWant s z r n false) true s
        else chooseGroup (zoneWant s z r n false) true s) = some (eg, t) → Only [.frame, .host, .zone, .media, .flash, .inst, .therm, .pins, .recd, .emit] s t := by
      intro eg t e
      split at e
      · exact newGroup_only2 _ _ (only_refl _ _) (by decide) e
      · exact chooseGroup_only2 _ _ (only_refl _ _) (by decide) e
    split
    · exact onlyOpt_some (bindIn_only _ _ _ _ (only_refl _ _) (by decide))
    split
    · rename_i eg t e
      exact onlyOpt_some (bindIn_only _ _ _ _ (updZoneRec_only _ _ _ (hk eg t e) (by decide)) (by decide))
    split
    · split
      · exact onlyOpt_some (bindIn_only _ _ _ _
          (shelfGroupFor_only2 _ _ (only_refl _ _) (by decide) (by assumption)) (by decide))
      · exact onlyOpt_none _ _
    · exact onlyOpt_none _ _)

theorem bindZoneFree_only2 {ps : List Part} {s0 : State} (z : Nat) (shelf fresh : Bool) (o : RowOp) {s t : State}
    (h : Only ps s0 s) (hp : [.frame, .host, .zone, .media, .flash, .inst, .therm, .pins, .recd, .emit] ⊆ ps) (e : bindZoneFree z shelf fresh o s = some t) :
    Only ps s0 t := (bindZoneFree_onlyOpt z shelf fresh o _ h hp).only t e

theorem bindUnclaimed_onlyOpt {ps : List Part} {s0 : State} (z : Nat) (cont : Bool) (o : RowOp) (s : State)
    (h : Only ps s0 s) (hp : [.frame, .host, .zone, .media, .flash, .inst, .therm, .pins, .recd, .emit] ⊆ ps) : OnlyOpt ps s0 (bindUnclaimed z cont o s) :=
  OnlyOpt.via hp h (by
    unfold bindUnclaimed
    repeat' first
      | (with_reducible assumption)
      | (with_reducible refine bindZoneFree_onlyOpt _ _ _ _ _ ?_ (by decide))
      | (with_reducible refine bindZoneFree_only2 _ _ _ _ ?_ (by decide) (by assumption))
      | (intro)
      | (split)
      | (with_reducible exact only_refl _ _)
      | (with_reducible exact onlyOpt_none _ _)
      | (with_reducible refine onlyOpt_some ?_))

theorem bindUnclaimed_only2 {ps : List Part} {s0 : State} (z : Nat) (cont : Bool) (o : RowOp) {s t : State}
    (h : Only ps s0 s) (hp : [.frame, .host, .zone, .media, .flash, .inst, .therm, .pins, .recd, .emit] ⊆ ps) (e : bindUnclaimed z cont o s = some t) : Only ps s0 t :=
  (bindUnclaimed_onlyOpt z cont o _ h hp).only t e

theorem bindZoneRow_onlyOpt {ps : List Part} {s0 : State} (z : Nat) (k : Nat) (cont : Bool) (o : RowOp) (s : State)
    (h : Only ps s0 s) (hp : [.frame, .host, .zone, .media, .flash, .inst, .therm, .pins, .recd, .emit] ⊆ ps) : OnlyOpt ps s0 (bindZoneRow z k cont o s) :=
  OnlyOpt.via hp h (by
    unfold bindZoneRow
    repeat' first
      | (with_reducible assumption)
      | (with_reducible refine updZoneRec_only _ _ _ ?_ (by decide))
      | (with_reducible refine bindIn_only _ _ _ _ ?_ (by decide))
      | (with_reducible refine bindUnclaimed_onlyOpt _ _ _ _ ?_ (by decide))
      | (with_reducible refine bindUnclaimed_only2 _ _ _ ?_ (by decide) (by assumption))
      | (intro)
      | (extract_lets +onlyGivenNames s1; refine only_cut s1 ?_ ?_; unfold s1; clear s1; rotate_left; intro hs1; clear_value s1; rotate_right)
      | (extract_lets +onlyGivenNames v1)
      | (split)
      | (with_reducible exact only_refl _ _)
      | (with_reducible exact onlyOpt_none _ _)
      | (with_reducible refine onlyOpt_some ?_))

theorem bindZoneRow_only2 {ps : List Part} {s0 : State} (z : Nat) (k : Nat) (cont : Bool) (o : RowOp) {s t : State}
    (h : Only ps s0 s) (hp : [.frame, .host, .zone, .media, .flash, .inst, .therm, .pins, .recd, .emit] ⊆ ps) (e : bindZoneRow z k cont o s = some t) : Only ps s0 t :=
  (bindZoneRow_onlyOpt z k cont o _ h hp).only t e

theorem bindConvFree_onlyOpt {ps : List Part} {s0 : State} (x : Nat) (lc : Nat) (gc : Bool) (shelf : Bool) (fresh : Bool) (o : RowOp) (s : State)
    (h : Only ps s0 s) (hp : [.frame, .host, .zone, .media, .flash, .inst, .therm, .pins, .recd, .emit] ⊆ ps) : OnlyOpt ps s0 (bindConvFree x lc gc shelf fresh o s) :=
  OnlyOpt.via hp h (by
    unfold bindConvFree
    repeat' first
      | (with_reducible assumption)
      | (with_reducible refine bindIn_only _ _ _ _ ?_ (by decide))
      | (with_reducible refine updNs_only _ _ _ ?_ (by decide))
      | (refine newGroup_only2 _ _ ?_ (by decide) (by assumption))
      | (refine shelfGroupFor_only2 _ _ ?_ (by decide) (by assumption))
      | (intro)
      | (extract_lets +onlyGivenNames s1; refine only_cut s1 ?_ ?_; unfold s1; clear s1; rotate_left; intro hs1; clear_value s1; rotate_right)
      | (extract_lets +onlyGivenNames v1)
      | (split)
      | (with_reducible exact only_refl _ _)
      | (with_reducible exact onlyOpt_none _ _)
      | (with_reducible refine onlyOpt_some ?_))

theorem bindConvFree_only2 {ps : List Part} {s0 : State} (x : Nat) (lc : Nat) (gc : Bool) (shelf : Bool) (fresh : Bool) (o : RowOp) {s t : State}
    (h : Only ps s0 s) (hp : [.frame, .host, .zone, .media, .flash, .inst, .therm, .pins, .recd, .emit] ⊆ ps) (e : bindConvFree x lc gc shelf fresh o s = some t) : Only ps s0 t :=
  (bindConvFree_onlyOpt x lc gc shelf fresh o _ h hp).only t e

theorem bindConvRow_onlyOpt {ps : List Part} {s0 : State} (x : Nat) (lc : Nat) (o : RowOp) (s : State)
    (h : Only ps s0 s) (hp : [.frame, .host, .zone, .media, .flash, .inst, .therm, .pins, .recd, .emit] ⊆ ps) : OnlyOpt ps s0 (bindConvRow x lc o s) :=
  OnlyOpt.via hp h (by
    unfold bindConvRow
    repeat' first
      | (with_reducible assumption)
      | (with_reducible refine updNs_only _ _ _ ?_ (by decide))
      | (with_reducible refine bindIn_only _ _ _ _ ?_ (by decide))
      | (with_reducible refine bindConvFree_onlyOpt _ _ _ _ _ _ _ ?_ (by decide))
      | (with_reducible refine bindConvFree_only2 _ _ _ _ _ _ ?_ (by decide) (by assumption))
      | (intro)
      | (extract_lets +onlyGivenNames s1; refine only_cut s1 ?_ ?_; unfold s1; clear s1; rotate_left; intro hs1; clear_value s1; rotate_right)
      | (extract_lets +onlyGivenNames v1)
      | (split)
      | (with_reducible exact only_refl _ _)
      | (with_reducible exact onlyOpt_none _ _)
      | (with_reducible refine onlyOpt_some ?_))

theorem bindConvRow_only2 {ps : List Part} {s0 : State} (x : Nat) (lc : Nat) (o : RowOp) {s t : State}
    (h : Only ps s0 s) (hp : [.frame, .host, .zone, .media, .flash, .inst, .therm, .pins, .recd, .emit] ⊆ ps) (e : bindConvRow x lc o s = some t) : Only ps s0 t :=
  (bindConvRow_onlyOpt x lc o _ h hp).only t e

theorem noteRowTie_only {ps : List Part} {s0 : State} (l : List Landed) (s : State)
    (h : Only ps s0 s) (hp : [.frame] ⊆ ps) : Only ps s0 (noteRowTie l s) :=
  Only.via hp h (by
    unfold noteRowTie
    repeat' first
      | (with_reducible assumption)
      | (with_reducible refine noteTie_only _ _ _ ?_ (by decide))
      | (intro)
      | (split)
      | (with_reducible exact only_refl _ _))

theorem blockNs_only {ps : List Part} {s0 : State} (x : Nat) (b : Bool) (s : State)
    (h : Only ps s0 s) (hp : [.zone] ⊆ ps) : Only ps s0 (blockNs x b s) :=
  Only.via hp h (by
    unfold blockNs
    repeat' first
      | (with_reducible assumption)
      | (with_reducible refine updNs_only _ _ _ ?_ (by decide))
      | (intro)
      | (with_reducible exact only_refl _ _))

theorem dispatchZone_only {ps : List Part} {s0 : State} (x : Nat) (n : Ns) (first : Nat) (waited : Bool) (s : State)
    (h : Only ps s0 s) (hp : [.frame, .host, .zone, .media, .flash, .inst, .therm, .pins, .recd, .emit] ⊆ ps) : Only ps s0 (dispatchZone x n first waited s) :=
  Only.via hp h (by
    unfold dispatchZone
    repeat' first
      | (with_reducible assumption)
      | (with_reducible refine bindZoneRow_onlyOpt _ _ _ _ _ ?_ (by decide))
      | (with_reducible refine bindZoneRow_only2 _ _ _ _ ?_ (by decide) (by assumption))
      | (with_reducible refine blockNs_only _ _ _ ?_ (by decide))
      | (with_reducible refine noteRowTie_only _ _ ?_ (by decide))
      | (with_reducible refine updAmp_only _ _ _ ?_ (by decide))
      | (with_reducible refine only_when _ _ ?_ ?_)
      | (intro)
      | (extract_lets +onlyGivenNames s1; refine only_cut s1 ?_ ?_; unfold s1; clear s1; rotate_left; intro hs1; clear_value s1; rotate_right)
      | (extract_lets +onlyGivenNames v1)
      | (split)
      | (with_reducible exact only_refl _ _))

theorem dispatchConv_only {ps : List Part} {s0 : State} (x : Nat) (n : Ns) (lc : Nat) (waited : Bool) (s : State)
    (h : Only ps s0 s) (hp : [.frame, .host, .zone, .media, .flash, .inst, .therm, .pins, .recd, .emit] ⊆ ps) : Only ps s0 (dispatchConv x n lc waited s) :=
  Only.via hp h (by
    unfold dispatchConv
    repeat' first
      | (with_reducible assumption)
      | (with_reducible refine bindConvRow_onlyOpt _ _ _ _ ?_ (by decide))
      | (with_reducible refine bindConvRow_only2 _ _ _ ?_ (by decide) (by assumption))
      | (with_reducible refine blockNs_only _ _ _ ?_ (by decide))
      | (with_reducible refine noteRowTie_only _ _ ?_ (by decide))
      | (intro)
      | (extract_lets +onlyGivenNames s1; refine only_cut s1 ?_ ?_; unfold s1; clear s1; rotate_left; intro hs1; clear_value s1; rotate_right)
      | (extract_lets +onlyGivenNames v1)
      | (split)
      | (with_reducible exact only_refl _ _))

theorem noteReady_only {ps : List Part} {s0 : State}  (s : State)
    (h : Only ps s0 s) (hp : [.media] ⊆ ps) : Only ps s0 (noteReady s) :=
  Only.via hp h (by
    unfold noteReady
    repeat' first
      | (with_reducible assumption)
      | (with_reducible refine updMedia_only _ _ ?_ (by decide))
      | (intro)
      | (extract_lets +onlyGivenNames s1; refine only_cut s1 ?_ ?_; unfold s1; clear s1; rotate_left; intro hs1; clear_value s1; rotate_right)
      | (extract_lets +onlyGivenNames v1)
      | (with_reducible exact only_refl _ _))

theorem dispatchRow_only {ps : List Part} {s0 : State} (x : Nat) (first : Nat) (waited : Bool) (s : State)
    (h : Only ps s0 s) (hp : [.frame, .host, .zone, .media, .flash, .inst, .therm, .pins, .recd, .emit] ⊆ ps) : Only ps s0 (dispatchRow x first waited s) :=
  Only.via hp h (by
    unfold dispatchRow
    repeat' first
      | (with_reducible assumption)
      | (with_reducible refine noteReady_only _ ?_ (by decide))
      | (with_reducible refine dispatchZone_only _ _ _ _ _ ?_ (by decide))
      | (with_reducible refine dispatchConv_only _ _ _ _ _ ?_ (by decide))
      | (intro)
      | (extract_lets +onlyGivenNames s1; refine only_cut s1 ?_ ?_; unfold s1; clear s1; rotate_left; intro hs1; clear_value s1; rotate_right)
      | (extract_lets +onlyGivenNames v1)
      | (split)
      | (with_reducible exact only_refl _ _))

theorem rowTimeouts_only {ps : List Part} {s0 : State}  (s : State)
    (h : Only ps s0 s) (hp : [.frame, .host, .zone, .media, .flash, .inst, .therm, .pins, .recd, .emit] ⊆ ps) : Only ps s0 (rowTimeouts s) :=
  Only.via hp h (by
    unfold rowTimeouts
    repeat' first
      | (with_reducible assumption)
      | (with_reducible refine dispatchRow_only _ _ _ _ ?_ (by decide))
      | (with_reducible refine only_forEach _ _ _ ?_ ?_)
      | (intro)
      | (with_reducible exact only_refl _ _))

theorem keepCopies_only {ps : List Part} {s0 : State} (eg : Nat) (l : List (Nat × Loc × Stored)) (s : State)
    (h : Only ps s0 s) (hp : [.media] ⊆ ps) : Only ps s0 (keepCopies eg l s) :=
  Only.via hp h (by
    unfold keepCopies
    repeat' first
      | (with_reducible assumption)
      | (with_reducible refine updMedia_only _ _ ?_ (by decide))
      | (intro)
      | (split)
      | (with_reducible exact only_refl _ _))

theorem replaceRow_only {ps : List Part} {s0 : State} (o : RowOp) (s : State)
    (h : Only ps s0 s) (hp : [.frame, .host, .zone, .media, .flash, .inst, .therm, .pins, .recd, .emit] ⊆ ps) : Only ps s0 (replaceRow o s) :=
  Only.via hp h (by
    unfold replaceRow
    repeat' first
      | (with_reducible assumption)
      | (with_reducible refine updLanded_only _ _ _ ?_ (by decide))
      | (with_reducible refine keepCopies_only _ _ _ ?_ (by decide))
      | (with_reducible refine bindZoneFree_onlyOpt _ _ _ _ _ ?_ (by decide))
      | (with_reducible refine bindZoneFree_only2 _ _ _ _ ?_ (by decide) (by assumption))
      | (with_reducible refine bindConvFree_onlyOpt _ _ _ _ _ _ _ ?_ (by decide))
      | (with_reducible refine bindConvFree_only2 _ _ _ _ _ _ ?_ (by decide) (by assumption))
      | (with_reducible refine only_getD ?_ ?_)
      | (with_reducible refine only_forEach _ _ _ ?_ ?_)
      | (intro)
      | (extract_lets +onlyGivenNames s1; refine only_cut s1 ?_ ?_; unfold s1; clear s1; rotate_left; intro hs1; clear_value s1; rotate_right)
      | (extract_lets +onlyGivenNames v1)
      | (split)
      | (with_reducible exact only_refl _ _))

theorem bindZoneCopies_onlyOpt {ps : List Part} {s0 : State} (eg : Nat) (x : Nat) (n : Ns) (zk : Nat × Nat) (l : List (Nat × Loc × Stored)) (s : State)
    (h : Only ps s0 s) (hp : [.frame, .host, .zone, .media, .flash, .inst, .therm, .pins, .recd, .emit] ⊆ ps) : OnlyOpt ps s0 (bindZoneCopies eg x n zk l s) :=
  OnlyOpt.via hp h (by
    unfold bindZoneCopies
    repeat' first
      | (with_reducible assumption)
      | (with_reducible refine bindZoneFree_onlyOpt _ _ _ _ _ ?_ (by decide))
      | (with_reducible refine bindZoneFree_only2 _ _ _ _ ?_ (by decide) (by assumption))
      | (intro)
      | (extract_lets +onlyGivenNames s1; refine only_cut s1 ?_ ?_; unfold s1; clear s1; rotate_left; intro hs1; clear_value s1; rotate_right)
      | (extract_lets +onlyGivenNames v1)
      | (with_reducible exact only_refl _ _)
      | (with_reducible exact onlyOpt_none _ _)
      | (with_reducible refine onlyOpt_some ?_))

theorem bindZoneCopies_only2 {ps : List Part} {s0 : State} (eg : Nat) (x : Nat) (n : Ns) (zk : Nat × Nat) (l : List (Nat × Loc × Stored)) {s t : State}
    (h : Only ps s0 s) (hp : [.frame, .host, .zone, .media, .flash, .inst, .therm, .pins, .recd, .emit] ⊆ ps) (e : bindZoneCopies eg x n zk l s = some t) : Only ps s0 t :=
  (bindZoneCopies_onlyOpt eg x n zk l _ h hp).only t e

theorem takeCopies_only {ps : List Part} {s0 : State} (eg : Nat) (s : State)
    (h : Only ps s0 s) (hp : [.media] ⊆ ps) : Only ps s0 (takeCopies eg s) :=
  Only.via hp h (by
    unfold takeCopies
    repeat' first
      | (with_reducible assumption)
      | (with_reducible refine updMedia_only _ _ ?_ (by decide))
      | (intro)
      | (split)
      | (with_reducible exact only_refl _ _))

theorem bindAll_only {ps : List Part} {s0 : State} (eg : Nat) (g : Group) (n : Ns) (l : List (Nat × Loc × Stored)) (s : State)
    (h : Only ps s0 s) (hp : [.frame, .host, .zone, .media, .flash, .inst, .therm, .pins, .recd, .emit] ⊆ ps) : Only ps s0 (bindAll eg g n l s) :=
  Only.via hp h (by
    unfold bindAll
    repeat' first
      | (with_reducible assumption)
      | (with_reducible refine keepCopies_only _ _ _ ?_ (by decide))
      | (with_reducible refine bindZoneCopies_onlyOpt _ _ _ _ _ _ ?_ (by decide))
      | (with_reducible refine bindZoneCopies_only2 _ _ _ _ _ ?_ (by decide) (by assumption))
      | (with_reducible refine bindConvFree_onlyOpt _ _ _ _ _ _ _ ?_ (by decide))
      | (with_reducible refine bindConvFree_only2 _ _ _ _ _ _ ?_ (by decide) (by assumption))
      | (with_reducible refine only_forEach _ _ _ ?_ ?_)
      | (intro)
      | (extract_lets +onlyGivenNames s1; refine only_cut s1 ?_ ?_; unfold s1; clear s1; rotate_left; intro hs1; clear_value s1; rotate_right)
      | (extract_lets +onlyGivenNames v1)
      | (split)
      | (with_reducible exact only_refl _ _))

theorem bindCopies_only {ps : List Part} {s0 : State} (eg : Nat) (s : State)
    (h : Only ps s0 s) (hp : [.frame, .host, .zone, .media, .flash, .inst, .therm, .pins, .recd, .emit] ⊆ ps) : Only ps s0 (bindCopies eg s) :=
  Only.via hp h (by
    unfold bindCopies
    repeat' first
      | (with_reducible assumption)
      | (with_reducible refine submitRows_only _ _ ?_ (by decide))
      | (with_reducible refine bindAll_only _ _ _ _ _ ?_ (by decide))
      | (with_reducible refine takeCopies_only _ _ ?_ (by decide))
      | (intro)
      | (split)
      | (with_reducible exact only_refl _ _))

end Sys2Proof.Machine
end

