-- ==== Sys2Proof/Laws/Only/Tracker.lean ====
section
/-! SUPPORT. Which groups of state each operation of Machine/Tracker.lean can change. -/

set_option linter.tactic.unusedName false

namespace Sys2Proof.Machine

theorem feedTracker_only {ps : List Part} {s0 : State} (die : Nat) (b : Nat) (page : Nat) (atStanding : Bool) (d : Int) (s : State)
    (h : Only ps s0 s) (hp : [.flash] ⊆ ps) : Only ps s0 (feedTracker die b page atStanding d s) :=
  Only.via hp h (by
    unfold feedTracker
    repeat' first
      | (with_reducible assumption)
      | (with_reducible refine updFlash_only _ _ ?_ (by decide))
      | (with_reducible refine only_when _ _ ?_ ?_)
      | (intro)
      | (extract_lets +onlyGivenNames s1; refine only_cut s1 ?_ ?_; unfold s1; clear s1; rotate_left; intro hs1; clear_value s1; rotate_right)
      | (extract_lets +onlyGivenNames v1)
      | (split)
      | (with_reducible exact only_refl _ _))

theorem cacheFill_only {ps : List Part} {s0 : State} (l : Loc) (x1 : Stored) (s : State)
    (h : Only ps s0 s) (hp : [.flash] ⊆ ps) : Only ps s0 (cacheFill l x1 s) :=
  Only.via hp h (by
    unfold cacheFill
    repeat' first
      | (with_reducible assumption)
      | (with_reducible refine updFlash_only _ _ ?_ (by decide))
      | (intro)
      | (extract_lets +onlyGivenNames s1; refine only_cut s1 ?_ ?_; unfold s1; clear s1; rotate_left; intro hs1; clear_value s1; rotate_right)
      | (extract_lets +onlyGivenNames v1)
      | (with_reducible exact only_refl _ _))

theorem cacheDrop_only {ps : List Part} {s0 : State} (eg : Nat) (s : State)
    (h : Only ps s0 s) (hp : [.flash] ⊆ ps) : Only ps s0 (cacheDrop eg s) :=
  Only.via hp h (by
    unfold cacheDrop
    repeat' first
      | (with_reducible assumption)
      | (with_reducible refine updFlash_only _ _ ?_ (by decide))
      | (intro)
      | (with_reducible exact only_refl _ _))

theorem refreshGroup_only {ps : List Part} {s0 : State} (eg : Nat) (s : State)
    (h : Only ps s0 s) (hp : [.media] ⊆ ps) : Only ps s0 (refreshGroup eg s) :=
  Only.via hp h (by
    unfold refreshGroup
    repeat' first
      | (with_reducible assumption)
      | (with_reducible refine updGroup_only _ _ _ ?_ (by decide))
      | (intro)
      | (with_reducible exact only_refl _ _))

theorem trackerSave_only {ps : List Part} {s0 : State}  (s : State)
    (h : Only ps s0 s) (hp : [.flash] ⊆ ps) : Only ps s0 (trackerSave s) :=
  Only.via hp h (by
    unfold trackerSave
    repeat' first
      | (with_reducible assumption)
      | (with_reducible refine updDie_only _ _ _ ?_ (by decide))
      | (with_reducible refine updFlash_only _ _ ?_ (by decide))
      | (intro)
      | (extract_lets +onlyGivenNames s1; refine only_cut s1 ?_ ?_; unfold s1; clear s1; rotate_left; intro hs1; clear_value s1; rotate_right)
      | (extract_lets +onlyGivenNames k1; have _ck := fun x => (k1 x : State → State); clear _ck)
      | (extract_lets +onlyGivenNames k1; have _ck := fun x => (k1 x : State); clear _ck)
      | (extract_lets +onlyGivenNames v1)
      | (split)
      | (with_reducible exact only_refl _ _)
      | (dsimp only [k1]))

end Sys2Proof.Machine
end

