-- ==== Sys2Proof/Laws/Only/Reads.lean ====
section
/-! SUPPORT. Which groups of state each operation of Machine/Reads.lean can change. -/

set_option linter.tactic.unusedName false

namespace Sys2Proof.Machine

theorem addRead_only {ps : List Part} {s0 : State} (r : RdOp) (s : State)
    (h : Only ps s0 s) (hp : [.flash] ⊆ ps) : Only ps s0 (addRead r s) :=
  Only.via hp h (by
    unfold addRead
    repeat' first
      | (with_reducible assumption)
      | (with_reducible refine updFlash_only _ _ ?_ (by decide))
      | (with_reducible refine only_id ?_)
      | (intro)
      | (with_reducible exact only_refl _ _))

theorem updRead_only {ps : List Part} {s0 : State} (id : Nat) (x1 : RdOp → RdOp) (s : State)
    (h : Only ps s0 s) (hp : [.flash] ⊆ ps) : Only ps s0 (updRead id x1 s) :=
  Only.via hp h (by
    unfold updRead
    repeat' first
      | (with_reducible assumption)
      | (with_reducible refine updFlash_only _ _ ?_ (by decide))
      | (intro)
      | (split)
      | (with_reducible exact only_refl _ _))

theorem dropRead_only {ps : List Part} {s0 : State} (id : Nat) (s : State)
    (h : Only ps s0 s) (hp : [.flash] ⊆ ps) : Only ps s0 (dropRead id s) :=
  Only.via hp h (by
    unfold dropRead
    repeat' first
      | (with_reducible assumption)
      | (with_reducible refine updFlash_only _ _ ?_ (by decide))
      | (intro)
      | (with_reducible exact only_refl _ _))

theorem logReadFail_only {ps : List Part} {s0 : State} (it : Item) (s : State)
    (h : Only ps s0 s) (hp : [.frame, .host, .inst, .recd, .emit] ⊆ ps) : Only ps s0 (logReadFail it s) :=
  Only.via hp h (by
    unfold logReadFail
    repeat' first
      | (with_reducible assumption)
      | (with_reducible refine notify_only _ _ _ _ ?_ (by decide))
      | (with_reducible refine updCtl_only _ _ _ ?_ (by decide))
      | (intro)
      | (extract_lets +onlyGivenNames s1; refine only_cut s1 ?_ ?_; unfold s1; clear s1; rotate_left; intro hs1; clear_value s1; rotate_right)
      | (extract_lets +onlyGivenNames v1)
      | (with_reducible exact only_refl _ _))

theorem readDone_only {ps : List Part} {s0 : State} (seq : Nat) (s : State)
    (h : Only ps s0 s) (hp : [.frame, .host, .inst, .recd, .emit] ⊆ ps) : Only ps s0 (readDone seq s) :=
  Only.via hp h (by
    unfold readDone
    repeat' first
      | (with_reducible assumption)
      | (with_reducible refine finishOk_only _ _ ?_ (by decide))
      | (with_reducible refine finishBad_only _ _ _ ?_ (by decide))
      | (with_reducible refine logReadFail_only _ _ ?_ (by decide))
      | (intro)
      | (split)
      | (with_reducible exact only_refl _ _))

theorem failUnit_only {ps : List Part} {s0 : State} (seq : Nat) (u : Nat) (s : State)
    (h : Only ps s0 s) (hp : [.frame, .host, .inst, .recd, .emit] ⊆ ps) : Only ps s0 (failUnit seq u s) :=
  Only.via hp h (by
    unfold failUnit
    repeat' first
      | (with_reducible assumption)
      | (with_reducible refine readDone_only _ _ ?_ (by decide))
      | (with_reducible refine updItem_only _ _ _ ?_ (by decide))
      | (intro)
      | (with_reducible exact only_refl _ _))

theorem uncorrectable_only {ps : List Part} {s0 : State} (r : RdOp) (s : State)
    (h : Only ps s0 s) (hp : [.frame, .host, .zone, .media, .flash, .inst, .therm, .pins, .recd, .emit] ⊆ ps) : Only ps s0 (uncorrectable r s) :=
  Only.via hp h (by
    unfold uncorrectable
    repeat' first
      | (with_reducible assumption)
      | (with_reducible refine refreshGroup_only _ _ ?_ (by decide))
      | (with_reducible refine recDataErr_only _ _ _ ?_ (by decide))
      | (with_reducible refine dropRead_only _ _ ?_ (by decide))
      | (with_reducible refine callWrite_only _ ?_ (by decide))
      | (with_reducible refine failUnit_only _ _ _ ?_ (by decide))
      | (with_reducible refine bindCopies_only _ _ ?_ (by decide))
      | (with_reducible refine updMedia_only _ _ ?_ (by decide))
      | (with_reducible refine failItem_only _ _ _ ?_ (by decide))
      | (intro)
      | (extract_lets +onlyGivenNames s1; refine only_cut s1 ?_ ?_; unfold s1; clear s1; rotate_left; intro hs1; clear_value s1; rotate_right)
      | (extract_lets +onlyGivenNames v1)
      | (split)
      | (with_reducible exact only_refl _ _)
      | (refine only_therm _ ?_ (by decide)))

theorem again_only {ps : List Part} {s0 : State} (id : Nat) (x1 : RdOp → RdOp) (s : State)
    (h : Only ps s0 s) (hp : [.flash] ⊆ ps) : Only ps s0 (again id x1 s) :=
  Only.via hp h (by
    unfold again
    repeat' first
      | (with_reducible assumption)
      | (with_reducible refine updRead_only _ _ _ ?_ (by decide))
      | (with_reducible refine only_id ?_)
      | (intro)
      | (extract_lets +onlyGivenNames s1; refine only_cut s1 ?_ ?_; unfold s1; clear s1; rotate_left; intro hs1; clear_value s1; rotate_right)
      | (extract_lets +onlyGivenNames v1)
      | (with_reducible exact only_refl _ _))

theorem toStep_only {ps : List Part} {s0 : State} (k : Nat) (r : RdOp) (s : State)
    (h : Only ps s0 s) (hp : [.flash, .recd] ⊆ ps) : Only ps s0 (toStep k r s) :=
  Only.via hp h (by
    unfold toStep
    repeat' first
      | (with_reducible assumption)
      | (with_reducible refine recDataErr_only _ _ _ ?_ (by decide))
      | (with_reducible refine updRead_only _ _ _ ?_ (by decide))
      | (with_reducible refine again_only _ _ _ ?_ (by decide))
      | (intro)
      | (extract_lets +onlyGivenNames s1; refine only_cut s1 ?_ ?_; unfold s1; clear s1; rotate_left; intro hs1; clear_value s1; rotate_right)
      | (extract_lets +onlyGivenNames v1)
      | (split)
      | (with_reducible exact only_refl _ _))

theorem climb_only {ps : List Part} {s0 : State} (r : RdOp) (s : State)
    (h : Only ps s0 s) (hp : [.frame, .host, .zone, .media, .flash, .inst, .therm, .pins, .recd, .emit] ⊆ ps) : Only ps s0 (climb r s) :=
  Only.via hp h (by
    unfold climb
    repeat' first
      | (with_reducible assumption)
      | (with_reducible refine dropRead_only _ _ ?_ (by decide))
      | (with_reducible refine toStep_only _ _ _ ?_ (by decide))
      | (with_reducible refine uncorrectable_only _ _ ?_ (by decide))
      | (with_reducible refine again_only _ _ _ ?_ (by decide))
      | (intro)
      | (split)
      | (with_reducible exact only_refl _ _))

theorem deliver_only {ps : List Part} {s0 : State} (r : RdOp) (x1 : Stored) (s : State)
    (h : Only ps s0 s) (hp : [.frame, .host, .zone, .media, .flash, .inst, .therm, .pins, .recd, .emit] ⊆ ps) : Only ps s0 (deliver r x1 s) :=
  Only.via hp h (by
    unfold deliver
    repeat' first
      | (with_reducible assumption)
      | (with_reducible refine refreshGroup_only _ _ ?_ (by decide))
      | (with_reducible refine cacheFill_only _ _ _ ?_ (by decide))
      | (with_reducible refine updRead_only _ _ _ ?_ (by decide))
      | (with_reducible refine bindCopies_only _ _ ?_ (by decide))
      | (with_reducible refine updMedia_only _ _ ?_ (by decide))
      | (with_reducible refine dropRead_only _ _ ?_ (by decide))
      | (with_reducible refine only_when _ _ ?_ ?_)
      | (intro)
      | (extract_lets +onlyGivenNames s1; refine only_cut s1 ?_ ?_; unfold s1; clear s1; rotate_left; intro hs1; clear_value s1; rotate_right)
      | (extract_lets +onlyGivenNames v1)
      | (split)
      | (with_reducible exact only_refl _ _))

theorem noteRetry_only {ps : List Part} {s0 : State} (l : Loc) (m : Nat) (s : State)
    (h : Only ps s0 s) (hp : [.flash] ⊆ ps) : Only ps s0 (noteRetry l m s) :=
  Only.via hp h (by
    unfold noteRetry
    repeat' first
      | (with_reducible assumption)
      | (with_reducible refine updFlash_only _ _ ?_ (by decide))
      | (intro)
      | (extract_lets +onlyGivenNames s1; refine only_cut s1 ?_ ?_; unfold s1; clear s1; rotate_left; intro hs1; clear_value s1; rotate_right)
      | (extract_lets +onlyGivenNames v1)
      | (split)
      | (with_reducible exact only_refl _ _))

theorem goodDecode_only {ps : List Part} {s0 : State} (l : Loc) (m : Nat) (atStanding : Bool) (up : Nat) (down : Nat) (s : State)
    (h : Only ps s0 s) (hp : [.media, .flash] ⊆ ps) : Only ps s0 (goodDecode l m atStanding up down s) :=
  Only.via hp h (by
    unfold goodDecode
    repeat' first
      | (with_reducible assumption)
      | (with_reducible refine feedTracker_only _ _ _ _ _ _ ?_ (by decide))
      | (with_reducible refine refreshGroup_only _ _ ?_ (by decide))
      | (with_reducible refine only_when _ _ ?_ ?_)
      | (intro)
      | (extract_lets +onlyGivenNames s1; refine only_cut s1 ?_ ?_; unfold s1; clear s1; rotate_left; intro hs1; clear_value s1; rotate_right)
      | (extract_lets +onlyGivenNames v1)
      | (split)
      | (with_reducible exact only_refl _ _))

theorem backEnds_only {ps : List Part} {s0 : State} (r : RdOp) (s : State)
    (h : Only ps s0 s) (hp : [.frame, .host, .zone, .media, .flash, .inst, .therm, .pins, .recd, .emit] ⊆ ps) : Only ps s0 (backEnds r s) :=
  Only.via hp h (by
    unfold backEnds
    repeat' first
      | (with_reducible assumption)
      | (with_reducible refine dropRead_only _ _ ?_ (by decide))
      | (with_reducible refine again_only _ _ _ ?_ (by decide))
      | (with_reducible refine uncorrectable_only _ _ ?_ (by decide))
      | (intro)
      | (split)
      | (with_reducible exact only_refl _ _))

theorem backFails_only {ps : List Part} {s0 : State} (r : RdOp) (s : State)
    (h : Only ps s0 s) (hp : [.frame, .host, .zone, .media, .flash, .inst, .therm, .pins, .recd, .emit] ⊆ ps) : Only ps s0 (backFails r s) :=
  Only.via hp h (by
    unfold backFails
    repeat' first
      | (with_reducible assumption)
      | (with_reducible refine backEnds_only _ _ ?_ (by decide))
      | (with_reducible refine recDataErr_only _ _ _ ?_ (by decide))
      | (intro)
      | (with_reducible exact only_refl _ _))

theorem setMembers_only {ps : List Part} {s0 : State} (r : RdOp) (ready : List Nat) (second : List Nat) (s : State)
    (h : Only ps s0 s) (hp : [.flash] ⊆ ps) : Only ps s0 (setMembers r ready second s) :=
  Only.via hp h (by
    unfold setMembers
    repeat' first
      | (with_reducible assumption)
      | (with_reducible refine dropRead_only _ _ ?_ (by decide))
      | (with_reducible refine updRead_only _ _ _ ?_ (by decide))
      | (intro)
      | (extract_lets +onlyGivenNames s1; refine only_cut s1 ?_ ?_; unfold s1; clear s1; rotate_left; intro hs1; clear_value s1; rotate_right)
      | (extract_lets +onlyGivenNames v1)
      | (split)
      | (with_reducible exact only_refl _ _))

theorem decodeMember_only {ps : List Part} {s0 : State} (r : RdOp) (code : Nat) (rest : List Nat) (second : List Nat) (out : DecodeOut) (s : State)
    (h : Only ps s0 s) (hp : [.frame, .host, .zone, .media, .flash, .inst, .therm, .pins, .recd, .emit] ⊆ ps) : Only ps s0 (decodeMember r code rest second out s) :=
  Only.via hp h (by
    unfold decodeMember
    repeat' first
      | (with_reducible assumption)
      | (with_reducible refine setMembers_only _ _ _ _ ?_ (by decide))
      | (with_reducible refine updRead_only _ _ _ ?_ (by decide))
      | (with_reducible refine backFails_only _ _ ?_ (by decide))
      | (with_reducible refine goodDecode_only _ _ _ _ _ _ ?_ (by decide))
      | (with_reducible refine noteRetry_only _ _ _ ?_ (by decide))
      | (with_reducible refine recDataErr_only _ _ _ ?_ (by decide))
      | (intro)
      | (extract_lets +onlyGivenNames s1; refine only_cut s1 ?_ ?_; unfold s1; clear s1; rotate_left; intro hs1; clear_value s1; rotate_right)
      | (extract_lets +onlyGivenNames k1; have _ck := fun x => (k1 x : State → State); clear _ck)
      | (extract_lets +onlyGivenNames k1; have _ck := fun x => (k1 x : State); clear _ck)
      | (extract_lets +onlyGivenNames v1)
      | (split)
      | (with_reducible exact only_refl _ _)
      | (dsimp only [k1]))

theorem directDecode_only {ps : List Part} {s0 : State} (r : RdOp) (up : Nat) (down : Nat) (s : State)
    (h : Only ps s0 s) (hp : [.frame, .host, .zone, .media, .flash, .inst, .therm, .pins, .recd, .emit] ⊆ ps) : Only ps s0 (directDecode r up down s) :=
  Only.via hp h (by
    unfold directDecode
    repeat' first
      | (with_reducible assumption)
      | (with_reducible refine goodDecode_only _ _ _ _ _ _ ?_ (by decide))
      | (with_reducible refine deliver_only _ _ _ ?_ (by decide))
      | (with_reducible refine climb_only _ _ ?_ (by decide))
      | (with_reducible refine recDataErr_only _ _ _ ?_ (by decide))
      | (with_reducible refine dropRead_only _ _ ?_ (by decide))
      | (intro)
      | (extract_lets +onlyGivenNames s1; refine only_cut s1 ?_ ?_; unfold s1; clear s1; rotate_left; intro hs1; clear_value s1; rotate_right)
      | (extract_lets +onlyGivenNames v1)
      | (split)
      | (with_reducible exact only_refl _ _))

theorem codewordDecode_only {ps : List Part} {s0 : State} (id : Nat) (out : DecodeOut) (s : State)
    (h : Only ps s0 s) (hp : [.frame, .host, .zone, .media, .flash, .inst, .therm, .pins, .recd, .emit] ⊆ ps) : Only ps s0 (codewordDecode id out s) :=
  Only.via hp h (by
    unfold codewordDecode
    repeat' first
      | (with_reducible assumption)
      | (with_reducible refine directDecode_only _ _ _ _ ?_ (by decide))
      | (with_reducible refine noteRetry_only _ _ _ ?_ (by decide))
      | (with_reducible refine climb_only _ _ ?_ (by decide))
      | (with_reducible refine recDataErr_only _ _ _ ?_ (by decide))
      | (with_reducible refine decodeMember_only _ _ _ _ _ _ ?_ (by decide))
      | (with_reducible refine only_id ?_)
      | (intro)
      | (split)
      | (with_reducible exact only_refl _ _))

theorem softDecode_only {ps : List Part} {s0 : State} (id : Nat) (out : DecodeOut) (s : State)
    (h : Only ps s0 s) (hp : [.frame, .host, .zone, .media, .flash, .inst, .therm, .pins, .recd, .emit] ⊆ ps) : Only ps s0 (softDecode id out s) :=
  Only.via hp h (by
    unfold softDecode
    repeat' first
      | (with_reducible assumption)
      | (with_reducible refine deliver_only _ _ _ ?_ (by decide))
      | (with_reducible refine climb_only _ _ ?_ (by decide))
      | (with_reducible refine recDataErr_only _ _ _ ?_ (by decide))
      | (with_reducible refine only_id ?_)
      | (intro)
      | (split)
      | (with_reducible exact only_refl _ _))

theorem backStair_only {ps : List Part} {s0 : State} (id : Nat) (s : State)
    (h : Only ps s0 s) (hp : [.frame, .host, .zone, .media, .flash, .inst, .therm, .pins, .recd, .emit] ⊆ ps) : Only ps s0 (backStair id s) :=
  Only.via hp h (by
    unfold backStair
    repeat' first
      | (with_reducible assumption)
      | (with_reducible refine backEnds_only _ _ ?_ (by decide))
      | (with_reducible refine deliver_only _ _ _ ?_ (by decide))
      | (with_reducible refine only_id ?_)
      | (intro)
      | (extract_lets +onlyGivenNames s1; refine only_cut s1 ?_ ?_; unfold s1; clear s1; rotate_left; intro hs1; clear_value s1; rotate_right)
      | (extract_lets +onlyGivenNames v1)
      | (split)
      | (with_reducible exact only_refl _ _))

theorem readUnit_only {ps : List Part} {s0 : State} (it : Item) (x : Nat) (n : Ns) (u : Nat) (s : State)
    (h : Only ps s0 s) (hp : [.media, .flash] ⊆ ps) : Only ps s0 (readUnit it x n u s) :=
  Only.via hp h (by
    unfold readUnit
    repeat' first
      | (with_reducible assumption)
      | (with_reducible refine addRead_only _ _ ?_ (by decide))
      | (with_reducible refine pinEntry_only _ _ ?_ (by decide))
      | (with_reducible refine cacheFill_only _ _ _ ?_ (by decide))
      | (intro)
      | (extract_lets +onlyGivenNames s1; refine only_cut s1 ?_ ?_; unfold s1; clear s1; rotate_left; intro hs1; clear_value s1; rotate_right)
      | (extract_lets +onlyGivenNames v1)
      | (split)
      | (with_reducible exact only_refl _ _))

theorem startRead_only {ps : List Part} {s0 : State} (x : Nat) (n : Ns) (it : Item) (s : State)
    (h : Only ps s0 s) (hp : [.frame, .host, .media, .flash, .inst, .recd, .emit] ⊆ ps) : Only ps s0 (startRead x n it s) :=
  Only.via hp h (by
    unfold startRead
    repeat' first
      | (with_reducible assumption)
      | (with_reducible refine finishBad_only _ _ _ ?_ (by decide))
      | (with_reducible refine readUnit_only _ _ _ _ _ ?_ (by decide))
      | (with_reducible refine updItem_only _ _ _ ?_ (by decide))
      | (with_reducible refine only_forEach _ _ _ ?_ ?_)
      | (intro)
      | (extract_lets +onlyGivenNames s1; refine only_cut s1 ?_ ?_; unfold s1; clear s1; rotate_left; intro hs1; clear_value s1; rotate_right)
      | (extract_lets +onlyGivenNames v1)
      | (split)
      | (with_reducible exact only_refl _ _))

theorem tryRead_only {ps : List Part} {s0 : State} (x : Nat) (n : Ns) (it : Item) (s : State)
    (h : Only ps s0 s) (hp : [.frame, .host, .media, .flash, .inst, .recd, .emit] ⊆ ps) : Only ps s0 (tryRead x n it s) :=
  Only.via hp h (by
    unfold tryRead
    repeat' first
      | (with_reducible assumption)
      | (with_reducible refine startRead_only _ _ _ _ ?_ (by decide))
      | (with_reducible refine updItem_only _ _ _ ?_ (by decide))
      | (intro)
      | (split)
      | (with_reducible exact only_refl _ _))

theorem readRow_only {ps : List Part} {s0 : State} (opc : Nat) (id : CmdId) (s : State)
    (h : Only ps s0 s) (hp : [.frame, .host, .media, .flash, .inst, .recd, .emit] ⊆ ps) : Only ps s0 (readRow opc id s) :=
  Only.via hp h (by
    unfold readRow
    repeat' first
      | (with_reducible assumption)
      | (with_reducible refine finishBad_only _ _ _ ?_ (by decide))
      | (with_reducible refine tryRead_only _ _ _ _ ?_ (by decide))
      | (with_reducible refine only_id ?_)
      | (intro)
      | (split)
      | (with_reducible exact only_refl _ _))

theorem barrierRead_only {ps : List Part} {s0 : State} (id : CmdId) (s : State)
    (h : Only ps s0 s) (hp : [.frame, .host, .media, .flash, .inst, .recd, .emit] ⊆ ps) : Only ps s0 (barrierRead id s) :=
  Only.via hp h (by
    unfold barrierRead
    repeat' first
      | (with_reducible assumption)
      | (with_reducible refine startRead_only _ _ _ _ ?_ (by decide))
      | (with_reducible refine only_id ?_)
      | (intro)
      | (split)
      | (with_reducible exact only_refl _ _))

theorem barrierRelease_only {ps : List Part} {s0 : State} (id : CmdId) (s : State)
    (h : Only ps s0 s) (hp : [.frame, .host, .zone, .media, .flash, .inst, .therm, .pins, .recd, .emit] ⊆ ps) : Only ps s0 (barrierRelease id s) :=
  Only.via hp h (by
    unfold barrierRelease
    repeat' first
      | (with_reducible assumption)
      | (with_reducible refine barrierRead_only _ _ ?_ (by decide))
      | (with_reducible refine barrierWrite_only _ _ ?_ (by decide))
      | (with_reducible refine only_id ?_)
      | (intro)
      | (with_reducible exact only_refl _ _))

theorem endRead_only {ps : List Part} {s0 : State} (r : RdOp) (s : State)
    (h : Only ps s0 s) (hp : [.media, .flash] ⊆ ps) : Only ps s0 (endRead r s) :=
  Only.via hp h (by
    unfold endRead
    repeat' first
      | (with_reducible assumption)
      | (with_reducible refine unpinEntry_only _ _ ?_ (by decide))
      | (with_reducible refine dropRead_only _ _ ?_ (by decide))
      | (intro)
      | (extract_lets +onlyGivenNames s1; refine only_cut s1 ?_ ?_; unfold s1; clear s1; rotate_left; intro hs1; clear_value s1; rotate_right)
      | (extract_lets +onlyGivenNames v1)
      | (split)
      | (with_reducible exact only_refl _ _))

theorem sendUnit_only {ps : List Part} {s0 : State} (it : Item) (n : Ns) (u : Nat) (d : List Byte) (m : List Byte) (s : State)
    (h : Only ps s0 s) (hp : [.frame, .host, .media, .flash, .inst, .recd, .emit] ⊆ ps) : Only ps s0 (sendUnit it n u d m s) :=
  Only.via hp h (by
    unfold sendUnit
    repeat' first
      | (with_reducible assumption)
      | (with_reducible refine finishBad_only _ _ _ ?_ (by decide))
      | (with_reducible refine logReadFail_only _ _ ?_ (by decide))
      | (with_reducible refine dropReads_only _ _ ?_ (by decide))
      | (with_reducible refine updCtl_only _ _ _ ?_ (by decide))
      | (with_reducible refine meter_only _ _ _ ?_ (by decide))
      | (with_reducible refine send_only _ _ ?_ (by decide))
      | (with_reducible refine readDone_only _ _ ?_ (by decide))
      | (with_reducible refine updItem_only _ _ _ ?_ (by decide))
      | (with_reducible refine only_when _ _ ?_ ?_)
      | (intro)
      | (extract_lets +onlyGivenNames s1; refine only_cut s1 ?_ ?_; unfold s1; clear s1; rotate_left; intro hs1; clear_value s1; rotate_right)
      | (extract_lets +onlyGivenNames v1; clear_value v1)
      | (extract_lets +onlyGivenNames v1)
      | (split)
      | (with_reducible exact only_refl _ _))

theorem rereadUnit_only {ps : List Part} {s0 : State} (i : Nat) (r : RdOp) (it : Item) (s : State)
    (h : Only ps s0 s) (hp : [.frame, .host, .media, .flash, .inst, .recd, .emit] ⊆ ps) : Only ps s0 (rereadUnit i r it s) :=
  Only.via hp h (by
    unfold rereadUnit
    repeat' first
      | (with_reducible assumption)
      | (with_reducible refine recDataErr_only _ _ _ ?_ (by decide))
      | (with_reducible refine failUnit_only _ _ _ ?_ (by decide))
      | (with_reducible refine endRead_only _ _ ?_ (by decide))
      | (with_reducible refine updRead_only _ _ _ ?_ (by decide))
      | (with_reducible refine again_only _ _ _ ?_ (by decide))
      | (intro)
      | (extract_lets +onlyGivenNames s1; refine only_cut s1 ?_ ?_; unfold s1; clear s1; rotate_left; intro hs1; clear_value s1; rotate_right)
      | (extract_lets +onlyGivenNames v1)
      | (split)
      | (with_reducible exact only_refl _ _))

theorem readEgress_only {ps : List Part} {s0 : State} (id : CmdId) (u : Nat) (s : State)
    (h : Only ps s0 s) (hp : [.frame, .host, .media, .flash, .inst, .recd, .emit] ⊆ ps) : Only ps s0 (readEgress id u s) :=
  Only.via hp h (by
    unfold readEgress
    repeat' first
      | (with_reducible assumption)
      | (with_reducible refine sendUnit_only _ _ _ _ _ _ ?_ (by decide))
      | (with_reducible refine endRead_only _ _ ?_ (by decide))
      | (with_reducible refine rereadUnit_only _ _ _ _ ?_ (by decide))
      | (with_reducible refine failUnit_only _ _ _ ?_ (by decide))
      | (with_reducible refine recDataErr_only _ _ _ ?_ (by decide))
      | (with_reducible refine only_id ?_)
      | (intro)
      | (extract_lets +onlyGivenNames s1; refine only_cut s1 ?_ ?_; unfold s1; clear s1; rotate_left; intro hs1; clear_value s1; rotate_right)
      | (extract_lets +onlyGivenNames v1)
      | (split)
      | (with_reducible exact only_refl _ _))

theorem dmaFailure_only {ps : List Part} {s0 : State} (id : CmdId) (s : State)
    (h : Only ps s0 s) (hp : [.frame, .host, .zone, .media, .flash, .inst, .recd, .emit] ⊆ ps) : Only ps s0 (dmaFailure id s) :=
  Only.via hp h (by
    unfold dmaFailure
    repeat' first
      | (with_reducible assumption)
      | (with_reducible refine failItem_only _ _ _ ?_ (by decide))
      | (with_reducible refine logReadFail_only _ _ ?_ (by decide))
      | (with_reducible refine only_when _ _ ?_ ?_)
      | (with_reducible refine only_id ?_)
      | (intro)
      | (extract_lets +onlyGivenNames s1; refine only_cut s1 ?_ ?_; unfold s1; clear s1; rotate_left; intro hs1; clear_value s1; rotate_right)
      | (extract_lets +onlyGivenNames v1)
      | (split)
      | (with_reducible exact only_refl _ _))

end Sys2Proof.Machine
end

