-- ==== Sys2Proof/Laws/Only/Bus.lean ====
section
/-! SUPPORT. Which groups of state each operation of Machine/Bus.lean can change. -/

set_option linter.tactic.unusedName false

namespace Sys2Proof.Machine

theorem onfiAt_only {ps : List Part} {s0 : State} (die : Nat) (first : Nat) (last : Nat) (plane : Nat) (column : Nat) (s : State)
    (h : Only ps s0 s) (hp : [.emit] ⊆ ps) : Only ps s0 (onfiAt die first last plane column s) :=
  Only.via hp h (by
    unfold onfiAt
    repeat' first
      | (with_reducible assumption)
      | (with_reducible refine send_only _ _ ?_ (by decide))
      | (intro)
      | (with_reducible exact only_refl _ _))

theorem onfi_only {ps : List Part} {s0 : State} (die : Nat) (first : Nat) (last : Nat) (s : State)
    (h : Only ps s0 s) (hp : [.emit] ⊆ ps) : Only ps s0 (onfi die first last s) :=
  Only.via hp h (by
    unfold onfi
    repeat' first
      | (with_reducible assumption)
      | (with_reducible refine onfiAt_only _ _ _ _ _ _ ?_ (by decide))
      | (intro)
      | (with_reducible exact only_refl _ _))

theorem onfiPlanes_only {ps : List Part} {s0 : State} (die : Nat) (planes : Nat) (first : Nat) (more : Nat) (last : Nat) (s : State)
    (h : Only ps s0 s) (hp : [.emit] ⊆ ps) : Only ps s0 (onfiPlanes die planes first more last s) :=
  Only.via hp h (by
    unfold onfiPlanes
    repeat' first
      | (with_reducible assumption)
      | (with_reducible refine onfi_only _ _ _ _ ?_ (by decide))
      | (with_reducible refine only_forEach _ _ _ ?_ ?_)
      | (intro)
      | (with_reducible exact only_refl _ _))

theorem onfiLevels_only {ps : List Part} {s0 : State} (die : Nat) (k : Class) (s : State)
    (h : Only ps s0 s) (hp : [.emit] ⊆ ps) : Only ps s0 (onfiLevels die k s) :=
  Only.via hp h (by
    unfold onfiLevels
    repeat' first
      | (with_reducible assumption)
      | (with_reducible refine onfi_only _ _ _ _ ?_ (by decide))
      | (intro)
      | (split)
      | (with_reducible exact only_refl _ _))

theorem updChan_only {ps : List Part} {s0 : State} (ch : Nat) (x1 : Chan → Chan) (s : State)
    (h : Only ps s0 s) (hp : [.flash] ⊆ ps) : Only ps s0 (updChan ch x1 s) :=
  Only.via hp h (by
    unfold updChan
    repeat' first
      | (with_reducible assumption)
      | (with_reducible refine updFlash_only _ _ ?_ (by decide))
      | (intro)
      | (with_reducible exact only_refl _ _))

theorem startSense_only {ps : List Part} {s0 : State} (die : Nat) (q : Sense) (s : State)
    (h : Only ps s0 s) (hp : [.flash, .emit] ⊆ ps) : Only ps s0 (startSense die q s) :=
  Only.via hp h (by
    unfold startSense
    repeat' first
      | (with_reducible assumption)
      | (with_reducible refine onfiLevels_only _ _ _ ?_ (by decide))
      | (with_reducible refine onfi_only _ _ _ _ ?_ (by decide))
      | (with_reducible refine onfiPlanes_only _ _ _ _ _ _ ?_ (by decide))
      | (with_reducible refine updDie_only _ _ _ ?_ (by decide))
      | (with_reducible refine only_getD ?_ ?_)
      | (with_reducible refine only_when _ _ ?_ ?_)
      | (intro)
      | (extract_lets +onlyGivenNames s1; refine only_cut s1 ?_ ?_; unfold s1; clear s1; rotate_left; intro hs1; clear_value s1; rotate_right)
      | (extract_lets +onlyGivenNames v1)
      | (split)
      | (with_reducible exact only_refl _ _))

theorem kickDie_only {ps : List Part} {s0 : State} (die : Nat) (s : State)
    (h : Only ps s0 s) (hp : [.flash, .emit] ⊆ ps) : Only ps s0 (kickDie die s) :=
  Only.via hp h (by
    unfold kickDie
    repeat' first
      | (with_reducible assumption)
      | (with_reducible refine startSense_only _ _ _ ?_ (by decide))
      | (with_reducible refine updDie_only _ _ _ ?_ (by decide))
      | (intro)
      | (extract_lets +onlyGivenNames s1; refine only_cut s1 ?_ ?_; unfold s1; clear s1; rotate_left; intro hs1; clear_value s1; rotate_right)
      | (extract_lets +onlyGivenNames v1)
      | (split)
      | (with_reducible exact only_refl _ _))

theorem transferred_only {ps : List Part} {s0 : State} (n : Nat) (slot : Nat) (s : State)
    (h : Only ps s0 s) (hp : [.flash] ⊆ ps) : Only ps s0 (transferred n slot s) :=
  Only.via hp h (by
    unfold transferred
    repeat' first
      | (with_reducible assumption)
      | (with_reducible refine updFlash_only _ _ ?_ (by decide))
      | (intro)
      | (with_reducible exact only_refl _ _))

theorem startOp_only {ps : List Part} {s0 : State} (die : Nat) (kind : OpKind) (eg : Nat) (row : Nat) (m : Nat) (s : State)
    (h : Only ps s0 s) (hp : [.flash] ⊆ ps) : Only ps s0 (startOp die kind eg row m s) :=
  Only.via hp h (by
    unfold startOp
    repeat' first
      | (with_reducible assumption)
      | (with_reducible refine updDie_only _ _ _ ?_ (by decide))
      | (intro)
      | (extract_lets +onlyGivenNames s1; refine only_cut s1 ?_ ?_; unfold s1; clear s1; rotate_left; intro hs1; clear_value s1; rotate_right)
      | (extract_lets +onlyGivenNames v1)
      | (split)
      | (with_reducible exact only_refl _ _))

theorem busEvent_only {ps : List Part} {s0 : State} (x0 : BusEv) (s : State)
    (h : Only ps s0 s) (hp : [.flash, .emit] ⊆ ps) : Only ps s0 (busEvent x0 s) :=
  Only.via hp h (by
    unfold busEvent
    repeat' first
      | (with_reducible assumption)
      | (with_reducible refine onfi_only _ _ _ _ ?_ (by decide))
      | (with_reducible refine onfiAt_only _ _ _ _ _ _ ?_ (by decide))
      | (with_reducible refine kickDie_only _ _ ?_ (by decide))
      | (with_reducible refine transferred_only _ _ _ ?_ (by decide))
      | (with_reducible refine startOp_only _ _ _ _ _ _ ?_ (by decide))
      | (with_reducible refine only_when _ _ ?_ ?_)
      | (intro)
      | (extract_lets +onlyGivenNames s1; refine only_cut s1 ?_ ?_; unfold s1; clear s1; rotate_left; intro hs1; clear_value s1; rotate_right)
      | (extract_lets +onlyGivenNames v1)
      | (split)
      | (with_reducible exact only_refl _ _))

theorem runBus_only {ps : List Part} {s0 : State} (ch : Nat) (run : Nat → Chan → Chan × List BusEv) (s : State)
    (h : Only ps s0 s) (hp : [.flash, .emit] ⊆ ps) : Only ps s0 (runBus ch run s) :=
  Only.via hp h (by
    unfold runBus
    repeat' first
      | (with_reducible assumption)
      | (with_reducible refine busEvent_only _ _ ?_ (by decide))
      | (with_reducible refine updChan_only _ _ _ ?_ (by decide))
      | (with_reducible refine only_forEach _ _ _ ?_ ?_)
      | (intro)
      | (extract_lets +onlyGivenNames s1; refine only_cut s1 ?_ ?_; unfold s1; clear s1; rotate_left; intro hs1; clear_value s1; rotate_right)
      | (extract_lets +onlyGivenNames v1)
      | (split)
      | (with_reducible exact only_refl _ _))

theorem beginXfer_only {ps : List Part} {s0 : State} (die : Nat) (q : Sense) (s : State)
    (h : Only ps s0 s) (hp : [.flash, .emit] ⊆ ps) : Only ps s0 (beginXfer die q s) :=
  Only.via hp h (by
    unfold beginXfer
    repeat' first
      | (with_reducible assumption)
      | (with_reducible refine kickDie_only _ _ ?_ (by decide))
      | (with_reducible refine runBus_only _ _ _ ?_ (by decide))
      | (with_reducible refine updChan_only _ _ _ ?_ (by decide))
      | (intro)
      | (extract_lets +onlyGivenNames s1; refine only_cut s1 ?_ ?_; unfold s1; clear s1; rotate_left; intro hs1; clear_value s1; rotate_right)
      | (extract_lets +onlyGivenNames v1)
      | (split)
      | (with_reducible exact only_refl _ _))

theorem beginData_only {ps : List Part} {s0 : State} (die : Nat) (eg : Nat) (row : Nat) (m : Nat) (s : State)
    (h : Only ps s0 s) (hp : [.flash, .emit] ⊆ ps) : Only ps s0 (beginData die eg row m s) :=
  Only.via hp h (by
    unfold beginData
    repeat' first
      | (with_reducible assumption)
      | (with_reducible refine onfi_only _ _ _ _ ?_ (by decide))
      | (with_reducible refine updChan_only _ _ _ ?_ (by decide))
      | (with_reducible refine only_when _ _ ?_ ?_)
      | (intro)
      | (extract_lets +onlyGivenNames s1; refine only_cut s1 ?_ ?_; unfold s1; clear s1; rotate_left; intro hs1; clear_value s1; rotate_right)
      | (extract_lets +onlyGivenNames v1)
      | (split)
      | (with_reducible exact only_refl _ _))

theorem openWindow_only {ps : List Part} {s0 : State} (ch : Nat) (s : State)
    (h : Only ps s0 s) (hp : [.emit] ⊆ ps) : Only ps s0 (openWindow ch s) :=
  Only.via hp h (by
    unfold openWindow
    repeat' first
      | (with_reducible assumption)
      | (with_reducible refine onfi_only _ _ _ _ ?_ (by decide))
      | (with_reducible refine only_when _ _ ?_ ?_)
      | (intro)
      | (split)
      | (with_reducible exact only_refl _ _))

theorem busOpen_only {ps : List Part} {s0 : State}  (s : State)
    (h : Only ps s0 s) (hp : [.flash, .emit] ⊆ ps) : Only ps s0 (busOpen s) :=
  Only.via hp h (by
    unfold busOpen
    repeat' first
      | (with_reducible assumption)
      | (with_reducible refine updFlash_only _ _ ?_ (by decide))
      | (with_reducible refine runBus_only _ _ _ ?_ (by decide))
      | (with_reducible refine openWindow_only _ _ ?_ (by decide))
      | (with_reducible refine onfi_only _ _ _ _ ?_ (by decide))
      | (with_reducible refine only_when _ _ ?_ ?_)
      | (with_reducible refine only_forEach _ _ _ ?_ ?_)
      | (intro)
      | (extract_lets +onlyGivenNames s1; refine only_cut s1 ?_ ?_; unfold s1; clear s1; rotate_left; intro hs1; clear_value s1; rotate_right)
      | (extract_lets +onlyGivenNames v1)
      | (with_reducible exact only_refl _ _))

theorem busClose_only {ps : List Part} {s0 : State}  (s : State)
    (h : Only ps s0 s) (hp : [.flash, .emit] ⊆ ps) : Only ps s0 (busClose s) :=
  Only.via hp h (by
    unfold busClose
    repeat' first
      | (with_reducible assumption)
      | (with_reducible refine runBus_only _ _ _ ?_ (by decide))
      | (with_reducible refine only_forEach _ _ _ ?_ ?_)
      | (intro)
      | (split)
      | (with_reducible exact only_refl _ _))

end Sys2Proof.Machine
end

