-- ==== Sys2Proof/Laws/Only/Dies.lean ====
section
/-! SUPPORT. Which groups of state each operation of Machine/Dies.lean can change. -/

set_option linter.tactic.unusedName false

namespace Sys2Proof.Machine

theorem senseLost_only {ps : List Part} {s0 : State} (n : Nat) (gone : Bool) (s : State)
    (h : Only ps s0 s) (hp : [.frame, .host, .zone, .media, .flash, .inst, .therm, .pins, .recd, .emit] ⊆ ps) : Only ps s0 (senseLost n gone s) :=
  Only.via hp h (by
    unfold senseLost
    repeat' first
      | (with_reducible assumption)
      | (with_reducible refine backFails_only _ _ ?_ (by decide))
      | (with_reducible refine again_only _ _ _ ?_ (by decide))
      | (with_reducible refine climb_only _ _ ?_ (by decide))
      | (with_reducible refine only_forEach _ _ _ ?_ ?_)
      | (intro)
      | (extract_lets +onlyGivenNames s1; refine only_cut s1 ?_ ?_; unfold s1; clear s1; rotate_left; intro hs1; clear_value s1; rotate_right)
      | (extract_lets +onlyGivenNames v1)
      | (split)
      | (with_reducible exact only_refl _ _))

theorem senseComplete_only {ps : List Part} {s0 : State} (die : Nat) (s : State)
    (h : Only ps s0 s) (hp : [.flash, .recd, .emit] ⊆ ps) : Only ps s0 (senseComplete die s) :=
  Only.via hp h (by
    unfold senseComplete
    repeat' first
      | (with_reducible assumption)
      | (with_reducible refine beginXfer_only _ _ _ ?_ (by decide))
      | (with_reducible refine updDie_only _ _ _ ?_ (by decide))
      | (with_reducible refine recHist_only _ _ _ ?_ (by decide))
      | (intro)
      | (extract_lets +onlyGivenNames s1; refine only_cut s1 ?_ ?_; unfold s1; clear s1; rotate_left; intro hs1; clear_value s1; rotate_right)
      | (extract_lets +onlyGivenNames v1)
      | (split)
      | (with_reducible exact only_refl _ _))

theorem statusPoll_only {ps : List Part} {s0 : State} (die : Nat) (ready : Bool) (s : State)
    (h : Only ps s0 s) (hp : [.flash] ⊆ ps) : Only ps s0 (statusPoll die ready s) :=
  Only.via hp h (by
    unfold statusPoll
    repeat' first
      | (with_reducible assumption)
      | (with_reducible refine updDie_only _ _ _ ?_ (by decide))
      | (with_reducible refine only_when _ _ ?_ ?_)
      | (intro)
      | (split)
      | (with_reducible exact only_refl _ _))

theorem suspendAck_only {ps : List Part} {s0 : State} (die : Nat) (s : State)
    (h : Only ps s0 s) (hp : [.flash, .recd, .emit] ⊆ ps) : Only ps s0 (suspendAck die s) :=
  Only.via hp h (by
    unfold suspendAck
    repeat' first
      | (with_reducible assumption)
      | (with_reducible refine updDie_only _ _ _ ?_ (by decide))
      | (with_reducible refine kickDie_only _ _ ?_ (by decide))
      | (with_reducible refine recEvent_only _ _ ?_ (by decide))
      | (with_reducible refine only_when _ _ ?_ ?_)
      | (intro)
      | (extract_lets +onlyGivenNames s1; refine only_cut s1 ?_ ?_; unfold s1; clear s1; rotate_left; intro hs1; clear_value s1; rotate_right)
      | (extract_lets +onlyGivenNames v1)
      | (split)
      | (with_reducible exact only_refl _ _))

theorem substitute_only {ps : List Part} {s0 : State} (eg : Nat) (i : Nat) (s : State)
    (h : Only ps s0 s) (hp : [.media] ⊆ ps) : Only ps s0 (substitute eg i s) :=
  Only.via hp h (by
    unfold substitute
    repeat' first
      | (with_reducible assumption)
      | (with_reducible refine closeEarly_only _ _ ?_ (by decide))
      | (with_reducible refine setBlock_only _ _ _ _ ?_ (by decide))
      | (with_reducible refine updGroup_only _ _ _ ?_ (by decide))
      | (with_reducible refine submit_only _ _ ?_ (by decide))
      | (with_reducible refine updMedia_only _ _ ?_ (by decide))
      | (intro)
      | (extract_lets +onlyGivenNames s1; refine only_cut s1 ?_ ?_; unfold s1; clear s1; rotate_left; intro hs1; clear_value s1; rotate_right)
      | (extract_lets +onlyGivenNames v1)
      | (split)
      | (with_reducible exact only_refl _ _))

theorem loseMember_only {ps : List Part} {s0 : State} (die : Nat) (slow : Bool) (eg : Nat) (s : State)
    (h : Only ps s0 s) (hp : [.frame, .host, .zone, .media, .inst, .recd, .emit] ⊆ ps) : Only ps s0 (loseMember die slow eg s) :=
  Only.via hp h (by
    unfold loseMember
    repeat' first
      | (with_reducible assumption)
      | (with_reducible refine updGroup_only _ _ _ ?_ (by decide))
      | (with_reducible refine substitute_only _ _ _ ?_ (by decide))
      | (with_reducible refine zoneLosses_only _ _ ?_ (by decide))
      | (with_reducible refine only_forEach _ _ _ ?_ ?_)
      | (intro)
      | (extract_lets +onlyGivenNames s1; refine only_cut s1 ?_ ?_; unfold s1; clear s1; rotate_left; intro hs1; clear_value s1; rotate_right)
      | (extract_lets +onlyGivenNames v1)
      | (split)
      | (with_reducible exact only_refl _ _))

theorem loseDie_only {ps : List Part} {s0 : State} (die : Nat) (slow : Bool) (s : State)
    (h : Only ps s0 s) (hp : [.frame, .host, .zone, .media, .inst, .recd, .emit] ⊆ ps) : Only ps s0 (loseDie die slow s) :=
  Only.via hp h (by
    unfold loseDie
    repeat' first
      | (with_reducible assumption)
      | (with_reducible refine loseMember_only _ _ _ _ ?_ (by decide))
      | (with_reducible refine only_forEach _ _ _ ?_ ?_)
      | (intro)
      | (with_reducible exact only_refl _ _))

theorem dropRowOp_only {ps : List Part} {s0 : State} (eg : Nat) (row : Nat) (s : State)
    (h : Only ps s0 s) (hp : [.media] ⊆ ps) : Only ps s0 (dropRowOp eg row s) :=
  Only.via hp h (by
    unfold dropRowOp
    repeat' first
      | (with_reducible assumption)
      | (with_reducible refine updMedia_only _ _ ?_ (by decide))
      | (intro)
      | (with_reducible exact only_refl _ _))

theorem countRow_only {ps : List Part} {s0 : State} (o : RowOp) (s : State)
    (h : Only ps s0 s) (hp : [.media] ⊆ ps) : Only ps s0 (countRow o s) :=
  Only.via hp h (by
    unfold countRow
    repeat' first
      | (with_reducible assumption)
      | (with_reducible refine updMedia_only _ _ ?_ (by decide))
      | (with_reducible refine updAmp_only _ _ _ ?_ (by decide))
      | (intro)
      | (extract_lets +onlyGivenNames s1; refine only_cut s1 ?_ ?_; unfold s1; clear s1; rotate_left; intro hs1; clear_value s1; rotate_right)
      | (extract_lets +onlyGivenNames v1)
      | (split)
      | (with_reducible exact only_refl _ _))

theorem rowProgrammed_only {ps : List Part} {s0 : State} (o : RowOp) (s : State)
    (h : Only ps s0 s) (hp : [.media] ⊆ ps) : Only ps s0 (rowProgrammed o s) :=
  Only.via hp h (by
    unfold rowProgrammed
    repeat' first
      | (with_reducible assumption)
      | (with_reducible refine dropRowOp_only _ _ _ ?_ (by decide))
      | (with_reducible refine updMedia_only _ _ ?_ (by decide))
      | (with_reducible refine countRow_only _ _ ?_ (by decide))
      | (with_reducible refine updGroup_only _ _ _ ?_ (by decide))
      | (with_reducible refine submitRows_only _ _ ?_ (by decide))
      | (with_reducible refine submit_only _ _ ?_ (by decide))
      | (with_reducible refine only_foldl _ _ _ ?_ ?_)
      | (intro)
      | (extract_lets +onlyGivenNames s1; refine only_cut s1 ?_ ?_; unfold s1; clear s1; rotate_left; intro hs1; clear_value s1; rotate_right)
      | (extract_lets +onlyGivenNames v1)
      | (split)
      | (with_reducible exact only_refl _ _))

theorem rowFailed_only {ps : List Part} {s0 : State} (o : RowOp) (s : State)
    (h : Only ps s0 s) (hp : [.frame, .host, .zone, .media, .flash, .inst, .therm, .pins, .recd, .emit] ⊆ ps) : Only ps s0 (rowFailed o s) :=
  Only.via hp h (by
    unfold rowFailed
    repeat' first
      | (with_reducible assumption)
      | (with_reducible refine countRow_only _ _ ?_ (by decide))
      | (with_reducible refine dropRowOp_only _ _ _ ?_ (by decide))
      | (with_reducible refine updGroup_only _ _ _ ?_ (by decide))
      | (with_reducible refine closeIfDone_only _ _ ?_ (by decide))
      | (with_reducible refine replaceRow_only _ _ ?_ (by decide))
      | (intro)
      | (extract_lets +onlyGivenNames s1; refine only_cut s1 ?_ ?_; unfold s1; clear s1; rotate_left; intro hs1; clear_value s1; rotate_right)
      | (extract_lets +onlyGivenNames v1)
      | (with_reducible exact only_refl _ _))

theorem programResult_only {ps : List Part} {s0 : State} (eg : Nat) (row : Nat) (m : Nat) (pass : Bool) (s : State)
    (h : Only ps s0 s) (hp : [.frame, .host, .zone, .media, .flash, .inst, .therm, .pins, .recd, .emit] ⊆ ps) : Only ps s0 (programResult eg row m pass s) :=
  Only.via hp h (by
    unfold programResult
    repeat' first
      | (with_reducible assumption)
      | (with_reducible refine setBlock_only _ _ _ _ ?_ (by decide))
      | (with_reducible refine updMedia_only _ _ ?_ (by decide))
      | (with_reducible refine rowFailed_only _ _ ?_ (by decide))
      | (with_reducible refine rowProgrammed_only _ _ ?_ (by decide))
      | (intro)
      | (extract_lets +onlyGivenNames s1; refine only_cut s1 ?_ ?_; unfold s1; clear s1; rotate_left; intro hs1; clear_value s1; rotate_right)
      | (extract_lets +onlyGivenNames v1)
      | (split)
      | (with_reducible exact only_refl _ _))

theorem eraseResult_only {ps : List Part} {s0 : State} (eg : Nat) (i : Nat) (pass : Bool) (s : State)
    (h : Only ps s0 s) (hp : [.media, .flash] ⊆ ps) : Only ps s0 (eraseResult eg i pass s) :=
  Only.via hp h (by
    unfold eraseResult
    repeat' first
      | (with_reducible assumption)
      | (with_reducible refine updGroup_only _ _ _ ?_ (by decide))
      | (with_reducible refine updDie_only _ _ _ ?_ (by decide))
      | (with_reducible refine setBlock_only _ _ _ _ ?_ (by decide))
      | (with_reducible refine submit_only _ _ ?_ (by decide))
      | (with_reducible refine only_when _ _ ?_ ?_)
      | (intro)
      | (extract_lets +onlyGivenNames s1; refine only_cut s1 ?_ ?_; unfold s1; clear s1; rotate_left; intro hs1; clear_value s1; rotate_right)
      | (extract_lets +onlyGivenNames v1)
      | (split)
      | (with_reducible exact only_refl _ _))

theorem opFails_only {ps : List Part} {s0 : State} (die : Nat) (s : State)
    (h : Only ps s0 s) (hp : [.frame, .host, .zone, .media, .flash, .inst, .therm, .pins, .recd, .emit] ⊆ ps) : Only ps s0 (opFails die s) :=
  Only.via hp h (by
    unfold opFails
    repeat' first
      | (with_reducible assumption)
      | (with_reducible refine updChan_only _ _ _ ?_ (by decide))
      | (with_reducible refine programResult_only _ _ _ _ _ ?_ (by decide))
      | (with_reducible refine updDie_only _ _ _ ?_ (by decide))
      | (with_reducible refine eraseResult_only _ _ _ _ ?_ (by decide))
      | (with_reducible refine only_forEach _ _ _ ?_ ?_)
      | (intro)
      | (extract_lets +onlyGivenNames s1; refine only_cut s1 ?_ ?_; unfold s1; clear s1; rotate_left; intro hs1; clear_value s1; rotate_right)
      | (extract_lets +onlyGivenNames v1)
      | (split)
      | (with_reducible exact only_refl _ _))

theorem dropRequests_only {ps : List Part} {s0 : State} (die : Nat) (s : State)
    (h : Only ps s0 s) (hp : [.frame, .host, .zone, .media, .flash, .inst, .therm, .pins, .recd, .emit] ⊆ ps) : Only ps s0 (dropRequests die s) :=
  Only.via hp h (by
    unfold dropRequests
    repeat' first
      | (with_reducible assumption)
      | (with_reducible refine updFlash_only _ _ ?_ (by decide))
      | (with_reducible refine programResult_only _ _ _ _ _ ?_ (by decide))
      | (with_reducible refine eraseResult_only _ _ _ _ ?_ (by decide))
      | (with_reducible refine only_forEach _ _ _ ?_ ?_)
      | (intro)
      | (extract_lets +onlyGivenNames s1; refine only_cut s1 ?_ ?_; unfold s1; clear s1; rotate_left; intro hs1; clear_value s1; rotate_right)
      | (extract_lets +onlyGivenNames k1; have _ck := fun x => (k1 x : State → State); clear _ck)
      | (extract_lets +onlyGivenNames k1; have _ck := fun x => (k1 x : State); clear _ck)
      | (extract_lets +onlyGivenNames v1)
      | (split)
      | (with_reducible exact only_refl _ _)
      | (dsimp only [k1]))

theorem retireDie_only {ps : List Part} {s0 : State} (die : Nat) (s : State)
    (h : Only ps s0 s) (hp : [.frame, .host, .zone, .media, .flash, .inst, .therm, .pins, .recd, .emit] ⊆ ps) : Only ps s0 (retireDie die s) :=
  Only.via hp h (by
    unfold retireDie
    repeat' first
      | (with_reducible assumption)
      | (with_reducible refine updDie_only _ _ _ ?_ (by decide))
      | (with_reducible refine recEvent_only _ _ ?_ (by decide))
      | (with_reducible refine updMedia_only _ _ ?_ (by decide))
      | (with_reducible refine updChan_only _ _ _ ?_ (by decide))
      | (with_reducible refine updFlash_only _ _ ?_ (by decide))
      | (with_reducible refine loseDie_only _ _ _ ?_ (by decide))
      | (with_reducible refine senseLost_only _ _ _ ?_ (by decide))
      | (with_reducible refine dropRequests_only _ _ ?_ (by decide))
      | (with_reducible refine opFails_only _ _ ?_ (by decide))
      | (with_reducible refine only_forEach _ _ _ ?_ ?_)
      | (intro)
      | (extract_lets +onlyGivenNames s1; refine only_cut s1 ?_ ?_; unfold s1; clear s1; rotate_left; intro hs1; clear_value s1; rotate_right)
      | (extract_lets +onlyGivenNames v1)
      | (split)
      | (with_reducible exact only_refl _ _))

theorem applyMark_only {ps : List Part} {s0 : State} (die : Nat) (m : DieMark) (s : State)
    (h : Only ps s0 s) (hp : [.frame, .host, .zone, .media, .flash, .inst, .therm, .pins, .recd, .emit] ⊆ ps) : Only ps s0 (applyMark die m s) :=
  Only.via hp h (by
    unfold applyMark
    repeat' first
      | (with_reducible assumption)
      | (with_reducible refine retireDie_only _ _ ?_ (by decide))
      | (with_reducible refine updDie_only _ _ _ ?_ (by decide))
      | (with_reducible refine loseDie_only _ _ _ ?_ (by decide))
      | (with_reducible refine recEvent_only _ _ ?_ (by decide))
      | (with_reducible refine updMedia_only _ _ ?_ (by decide))
      | (intro)
      | (extract_lets +onlyGivenNames s1; refine only_cut s1 ?_ ?_; unfold s1; clear s1; rotate_left; intro hs1; clear_value s1; rotate_right)
      | (extract_lets +onlyGivenNames v1)
      | (split)
      | (with_reducible exact only_refl _ _))

theorem applyMarks_only {ps : List Part} {s0 : State}  (s : State)
    (h : Only ps s0 s) (hp : [.frame, .host, .zone, .media, .flash, .inst, .therm, .pins, .recd, .emit] ⊆ ps) : Only ps s0 (applyMarks s) :=
  Only.via hp h (by
    unfold applyMarks
    repeat' first
      | (with_reducible assumption)
      | (with_reducible refine applyMark_only _ _ _ ?_ (by decide))
      | (with_reducible refine only_forEach _ _ _ ?_ ?_)
      | (intro)
      | (with_reducible exact only_refl _ _))

theorem noteStatus_only {ps : List Part} {s0 : State} (die : Nat) (b : Nat) (bad : List Nat) (s : State)
    (h : Only ps s0 s) (hp : [.flash] ⊆ ps) : Only ps s0 (noteStatus die b bad s) :=
  Only.via hp h (by
    unfold noteStatus
    repeat' first
      | (with_reducible assumption)
      | (with_reducible refine judgeDie_only _ _ ?_ (by decide))
      | (with_reducible refine updDie_only _ _ _ ?_ (by decide))
      | (with_reducible refine only_foldl _ _ _ ?_ ?_)
      | (intro)
      | (split)
      | (with_reducible exact only_refl _ _))

theorem programComplete_only {ps : List Part} {s0 : State} (die : Nat) (bad : List Nat) (s : State)
    (h : Only ps s0 s) (hp : [.frame, .host, .zone, .media, .flash, .inst, .therm, .pins, .recd, .emit] ⊆ ps) : Only ps s0 (programComplete die bad s) :=
  Only.via hp h (by
    unfold programComplete
    repeat' first
      | (with_reducible assumption)
      | (with_reducible refine updDie_only _ _ _ ?_ (by decide))
      | (with_reducible refine recHist_only _ _ _ ?_ (by decide))
      | (with_reducible refine kickDie_only _ _ ?_ (by decide))
      | (with_reducible refine noteStatus_only _ _ _ _ ?_ (by decide))
      | (with_reducible refine programResult_only _ _ _ _ _ ?_ (by decide))
      | (intro)
      | (extract_lets +onlyGivenNames s1; refine only_cut s1 ?_ ?_; unfold s1; clear s1; rotate_left; intro hs1; clear_value s1; rotate_right)
      | (extract_lets +onlyGivenNames v1)
      | (split)
      | (with_reducible exact only_refl _ _))

theorem eraseComplete_only {ps : List Part} {s0 : State} (die : Nat) (bad : List Nat) (s : State)
    (h : Only ps s0 s) (hp : [.media, .flash, .recd, .emit] ⊆ ps) : Only ps s0 (eraseComplete die bad s) :=
  Only.via hp h (by
    unfold eraseComplete
    repeat' first
      | (with_reducible assumption)
      | (with_reducible refine updDie_only _ _ _ ?_ (by decide))
      | (with_reducible refine recHist_only _ _ _ ?_ (by decide))
      | (with_reducible refine kickDie_only _ _ ?_ (by decide))
      | (with_reducible refine noteStatus_only _ _ _ _ ?_ (by decide))
      | (with_reducible refine eraseResult_only _ _ _ _ ?_ (by decide))
      | (intro)
      | (extract_lets +onlyGivenNames s1; refine only_cut s1 ?_ ?_; unfold s1; clear s1; rotate_left; intro hs1; clear_value s1; rotate_right)
      | (extract_lets +onlyGivenNames v1)
      | (split)
      | (with_reducible exact only_refl _ _))

theorem resense_only {ps : List Part} {s0 : State} (die : Nat) (q : Sense) (s : State)
    (h : Only ps s0 s) (hp : [.frame, .host, .zone, .media, .flash, .inst, .therm, .pins, .recd, .emit] ⊆ ps) : Only ps s0 (resense die q s) :=
  Only.via hp h (by
    unfold resense
    repeat' first
      | (with_reducible assumption)
      | (with_reducible refine updDie_only _ _ _ ?_ (by decide))
      | (with_reducible refine updChan_only _ _ _ ?_ (by decide))
      | (with_reducible refine updFlash_only _ _ ?_ (by decide))
      | (with_reducible refine senseLost_only _ _ _ ?_ (by decide))
      | (intro)
      | (extract_lets +onlyGivenNames s1; refine only_cut s1 ?_ ?_; unfold s1; clear s1; rotate_left; intro hs1; clear_value s1; rotate_right)
      | (extract_lets +onlyGivenNames v1)
      | (split)
      | (with_reducible exact only_refl _ _))

theorem statusTimeout_only {ps : List Part} {s0 : State} (die : Nat) (s : State)
    (h : Only ps s0 s) (hp : [.frame, .host, .zone, .media, .flash, .inst, .therm, .pins, .recd, .emit] ⊆ ps) : Only ps s0 (statusTimeout die s) :=
  Only.via hp h (by
    unfold statusTimeout
    repeat' first
      | (with_reducible assumption)
      | (with_reducible refine updDie_only _ _ _ ?_ (by decide))
      | (with_reducible refine resense_only _ _ _ ?_ (by decide))
      | (with_reducible refine onfi_only _ _ _ _ ?_ (by decide))
      | (with_reducible refine kickDie_only _ _ ?_ (by decide))
      | (with_reducible refine judgeDie_only _ _ ?_ (by decide))
      | (with_reducible refine opFails_only _ _ ?_ (by decide))
      | (with_reducible refine only_forEach _ _ _ ?_ ?_)
      | (intro)
      | (extract_lets +onlyGivenNames s1; refine only_cut s1 ?_ ?_; unfold s1; clear s1; rotate_left; intro hs1; clear_value s1; rotate_right)
      | (extract_lets +onlyGivenNames v1)
      | (split)
      | (with_reducible exact only_refl _ _))

theorem trackerWindowEnd_only {ps : List Part} {s0 : State}  (s : State)
    (h : Only ps s0 s) (hp : [.flash] ⊆ ps) : Only ps s0 (trackerWindowEnd s) :=
  Only.via hp h (by
    unfold trackerWindowEnd
    repeat' first
      | (with_reducible assumption)
      | (with_reducible refine updFlash_only _ _ ?_ (by decide))
      | (intro)
      | (extract_lets +onlyGivenNames s1; refine only_cut s1 ?_ ?_; unfold s1; clear s1; rotate_left; intro hs1; clear_value s1; rotate_right)
      | (extract_lets +onlyGivenNames v1)
      | (split)
      | (with_reducible exact only_refl _ _))

theorem markChannel_only {ps : List Part} {s0 : State} (ch : Nat) (m : DieMark) (ok : Die → Bool) (s : State)
    (h : Only ps s0 s) (hp : [.flash] ⊆ ps) : Only ps s0 (markChannel ch m ok s) :=
  Only.via hp h (by
    unfold markChannel
    repeat' first
      | (with_reducible assumption)
      | (with_reducible refine updFlash_only _ _ ?_ (by decide))
      | (intro)
      | (split)
      | (with_reducible exact only_refl _ _))

theorem retrainPassed_only {ps : List Part} {s0 : State} (ch : Nat) (x : Chan) (up : Bool) (s : State)
    (h : Only ps s0 s) (hp : [.flash] ⊆ ps) : Only ps s0 (retrainPassed ch x up s) :=
  Only.via hp h (by
    unfold retrainPassed
    repeat' first
      | (with_reducible assumption)
      | (with_reducible refine updChan_only _ _ _ ?_ (by decide))
      | (with_reducible refine markChannel_only _ _ _ _ ?_ (by decide))
      | (with_reducible refine only_when _ _ ?_ ?_)
      | (intro)
      | (extract_lets +onlyGivenNames s1; refine only_cut s1 ?_ ?_; unfold s1; clear s1; rotate_left; intro hs1; clear_value s1; rotate_right)
      | (extract_lets +onlyGivenNames v1)
      | (split)
      | (with_reducible exact only_refl _ _))

theorem retrainFailed_only {ps : List Part} {s0 : State} (ch : Nat) (x : Chan) (up : Bool) (s : State)
    (h : Only ps s0 s) (hp : [.flash, .recd] ⊆ ps) : Only ps s0 (retrainFailed ch x up s) :=
  Only.via hp h (by
    unfold retrainFailed
    repeat' first
      | (with_reducible assumption)
      | (with_reducible refine updChan_only _ _ _ ?_ (by decide))
      | (with_reducible refine recEvent_only _ _ ?_ (by decide))
      | (with_reducible refine markChannel_only _ _ _ _ ?_ (by decide))
      | (intro)
      | (extract_lets +onlyGivenNames s1; refine only_cut s1 ?_ ?_; unfold s1; clear s1; rotate_left; intro hs1; clear_value s1; rotate_right)
      | (extract_lets +onlyGivenNames v1)
      | (split)
      | (with_reducible exact only_refl _ _))

theorem retrainTarget_only {ps : List Part} {s0 : State} (ch : Nat) (x : Chan) (r : Retrain) (good : Bool) (s : State)
    (h : Only ps s0 s) (hp : [.flash, .recd, .free] ⊆ ps) : Only ps s0 (retrainTarget ch x r good s) :=
  Only.via hp h (by
    unfold retrainTarget
    repeat' first
      | (with_reducible assumption)
      | (with_reducible refine retrainFailed_only _ _ _ _ ?_ (by decide))
      | (with_reducible refine drawNat_only ?_ (by decide))
      | (with_reducible refine drawNat_only2 ?_ (by decide) (by assumption))
      | (with_reducible refine updChan_only _ _ _ ?_ (by decide))
      | (with_reducible refine retrainPassed_only _ _ _ _ ?_ (by decide))
      | (intro)
      | (extract_lets +onlyGivenNames s1; refine only_cut s1 ?_ ?_; unfold s1; clear s1; rotate_left; intro hs1; clear_value s1; rotate_right)
      | (extract_lets +onlyGivenNames v1)
      | (split)
      | (with_reducible exact only_refl _ _))

theorem channelRetrain_only {ps : List Part} {s0 : State} (ch : Nat) (drift : Bool) (good : Bool) (s : State)
    (h : Only ps s0 s) (hp : [.flash, .recd, .free] ⊆ ps) : Only ps s0 (channelRetrain ch drift good s) :=
  Only.via hp h (by
    unfold channelRetrain
    repeat' first
      | (with_reducible assumption)
      | (with_reducible refine retrainTarget_only _ _ _ _ _ ?_ (by decide))
      | (with_reducible refine updChan_only _ _ _ ?_ (by decide))
      | (with_reducible refine only_when _ _ ?_ ?_)
      | (intro)
      | (extract_lets +onlyGivenNames s1; refine only_cut s1 ?_ ?_; unfold s1; clear s1; rotate_left; intro hs1; clear_value s1; rotate_right)
      | (extract_lets +onlyGivenNames v1)
      | (split)
      | (with_reducible exact only_refl _ _))

end Sys2Proof.Machine
end

