-- ==== Sys2Proof/Laws/Only/Planner.lean ====
section
/-! SUPPORT. Which groups of state each operation of Machine/Planner.lean can change. -/

set_option linter.tactic.unusedName false

namespace Sys2Proof.Machine

theorem spendGc_only {ps : List Part} {s0 : State} (die : Nat) (frames : Nat) (s : State)
    (h : Only ps s0 s) (hp : [.flash] ⊆ ps) : Only ps s0 (spendGc die frames s) :=
  Only.via hp h (by
    unfold spendGc
    repeat' first
      | (with_reducible assumption)
      | (with_reducible refine updDie_only _ _ _ ?_ (by decide))
      | (intro)
      | (with_reducible exact only_refl _ _))

theorem spendThermal_only {ps : List Part} {s0 : State} (die : Nat) (frames : Nat) (s : State)
    (h : Only ps s0 s) (hp : [.flash] ⊆ ps) : Only ps s0 (spendThermal die frames s) :=
  Only.via hp h (by
    unfold spendThermal
    repeat' first
      | (with_reducible assumption)
      | (with_reducible refine updDie_only _ _ _ ?_ (by decide))
      | (intro)
      | (with_reducible exact only_refl _ _))

theorem placeSense_only {ps : List Part} {s0 : State} (a : Avail) (die eg row m : Nat) (ofs : Option (List Int)) {s : State}
    (h : Only ps s0 s) (hp : [.flash] ⊆ ps) : Only ps s0 (placeSense a die eg row m ofs s).2.2 :=
  Only.via hp h (by
    unfold placeSense
    split
    · exact only_refl _ _
    · exact updDie_only _ _ _ (updFlash_only _ _ (only_refl _ _) (by decide)) (by decide))

theorem payDie_only {ps : List Part} {s0 : State} (r : RdOp) (die : Nat) (s : State)
    (h : Only ps s0 s) (hp : [.flash, .inst] ⊆ ps) : Only ps s0 (payDie r die s) :=
  Only.via hp h (by
    unfold payDie
    repeat' first
      | (with_reducible assumption)
      | (with_reducible refine spendGc_only _ _ _ ?_ (by decide))
      | (with_reducible refine spendThermal_only _ _ _ ?_ (by decide))
      | (with_reducible refine chargeDie_only _ _ _ ?_ (by decide))
      | (with_reducible refine only_when _ _ ?_ ?_)
      | (intro)
      | (extract_lets +onlyGivenNames s1; refine only_cut s1 ?_ ?_; unfold s1; clear s1; rotate_left; intro hs1; clear_value s1; rotate_right)
      | (extract_lets +onlyGivenNames v1)
      | (split)
      | (with_reducible exact only_refl _ _))

theorem place_only {ps : List Part} {s0 : State} (r : RdOp) (f m code : Nat) (shift : Option Int) (s : State)
    (h : Only ps s0 s) (hp : [.flash, .inst] ⊆ ps) : Only ps s0 (place r f m code shift s) :=
  Only.via hp h (by
    unfold place
    split
    · exact only_refl _ _
    · exact updRead_only _ _ _ (only_when _ _ (placeSense_only _ _ _ _ _ _ (only_refl _ _) (by decide))
        (fun t ht => payDie_only _ _ _ ht (by decide))) (by decide))

theorem planBack_only {ps : List Part} {s0 : State} (r : RdOp) (x1 : Nat) (target : Nat) (why : BackWhy) (s : State)
    (h : Only ps s0 s) (hp : [.flash, .inst, .recd] ⊆ ps) : Only ps s0 (planBack r x1 target why s) :=
  Only.via hp h (by
    unfold planBack
    repeat' first
      | (with_reducible assumption)
      | (with_reducible refine updRead_only _ _ _ ?_ (by decide))
      | (with_reducible refine place_only _ _ _ _ _ _ ?_ (by decide))
      | (with_reducible refine updDie_only _ _ _ ?_ (by decide))
      | (with_reducible refine recDataErr_only _ _ _ ?_ (by decide))
      | (with_reducible refine only_forEach _ _ _ ?_ ?_)
      | (intro)
      | (extract_lets +onlyGivenNames s1; refine only_cut s1 ?_ ?_; unfold s1; clear s1; rotate_left; intro hs1; clear_value s1; rotate_right)
      | (extract_lets +onlyGivenNames v1)
      | (split)
      | (with_reducible exact only_refl _ _))

theorem planRequest_only {ps : List Part} {s0 : State} (x0 : Nat) (spare : Bool) (r : RdOp) (s : State)
    (h : Only ps s0 s) (hp : [.frame, .host, .zone, .media, .flash, .inst, .therm, .pins, .recd, .emit] ⊆ ps) : Only ps s0 (planRequest x0 spare r s) :=
  Only.via hp h (by
    unfold planRequest
    repeat' first
      | (with_reducible assumption)
      | (with_reducible refine uncorrectable_only _ _ ?_ (by decide))
      | (with_reducible refine planBack_only _ _ _ _ _ ?_ (by decide))
      | (with_reducible refine place_only _ _ _ _ _ _ ?_ (by decide))
      | (with_reducible refine updRead_only _ _ _ ?_ (by decide))
      | (with_reducible refine noteWait_only _ _ ?_ (by decide))
      | (with_reducible refine only_when _ _ ?_ ?_)
      | (intro)
      | (extract_lets +onlyGivenNames s1; refine only_cut s1 ?_ ?_; unfold s1; clear s1; rotate_left; intro hs1; clear_value s1; rotate_right)
      | (extract_lets +onlyGivenNames v1)
      | (split)
      | (with_reducible exact only_refl _ _))

theorem planSecond_only {ps : List Part} {s0 : State} (x0 : Nat) (spare : Bool) (r : RdOp) (s : State)
    (h : Only ps s0 s) (hp : [.frame, .host, .zone, .media, .flash, .inst, .therm, .pins, .recd, .emit] ⊆ ps) : Only ps s0 (planSecond x0 spare r s) :=
  Only.via hp h (by
    unfold planSecond
    repeat' first
      | (with_reducible assumption)
      | (with_reducible refine setMembers_only _ _ _ _ ?_ (by decide))
      | (with_reducible refine backFails_only _ _ ?_ (by decide))
      | (with_reducible refine updRead_only _ _ _ ?_ (by decide))
      | (with_reducible refine place_only _ _ _ _ _ _ ?_ (by decide))
      | (with_reducible refine only_forEach _ _ _ ?_ ?_)
      | (intro)
      | (extract_lets +onlyGivenNames s1; refine only_cut s1 ?_ ?_; unfold s1; clear s1; rotate_left; intro hs1; clear_value s1; rotate_right)
      | (extract_lets +onlyGivenNames v1)
      | (split)
      | (with_reducible exact only_refl _ _))

theorem planReads_only {ps : List Part} {s0 : State} (x0 : Nat) (spare : Bool) (s : State)
    (h : Only ps s0 s) (hp : [.frame, .host, .zone, .media, .flash, .inst, .therm, .pins, .recd, .emit] ⊆ ps) : Only ps s0 (planReads x0 spare s) :=
  Only.via hp h (by
    unfold planReads
    repeat' first
      | (with_reducible assumption)
      | (with_reducible refine planRequest_only _ _ _ _ ?_ (by decide))
      | (with_reducible refine planSecond_only _ _ _ _ ?_ (by decide))
      | (with_reducible refine only_forEach _ _ _ ?_ ?_)
      | (intro)
      | (extract_lets +onlyGivenNames s1; refine only_cut s1 ?_ ?_; unfold s1; clear s1; rotate_left; intro hs1; clear_value s1; rotate_right)
      | (extract_lets +onlyGivenNames v1)
      | (split)
      | (with_reducible exact only_refl _ _))

theorem chargeRow_only {ps : List Part} {s0 : State} (q : MediaReq) (x1 : Nat) (s : State)
    (h : Only ps s0 s) (hp : [.media, .inst] ⊆ ps) : Only ps s0 (chargeRow q x1 s) :=
  Only.via hp h (by
    unfold chargeRow
    repeat' first
      | (with_reducible assumption)
      | (with_reducible refine chargeDie_only _ _ _ ?_ (by decide))
      | (with_reducible refine updMedia_only _ _ ?_ (by decide))
      | (intro)
      | (split)
      | (with_reducible exact only_refl _ _))

theorem planMedia_only {ps : List Part} {s0 : State} (q : MediaReq) (s : State)
    (h : Only ps s0 s) (hp : [.media, .flash, .inst] ⊆ ps) : Only ps s0 (planMedia q s) :=
  Only.via hp h (by
    unfold planMedia
    repeat' first
      | (with_reducible assumption)
      | (with_reducible refine noteWait_only _ _ ?_ (by decide))
      | (with_reducible refine updFlash_only _ _ ?_ (by decide))
      | (with_reducible refine spendThermal_only _ _ _ ?_ (by decide))
      | (with_reducible refine spendGc_only _ _ _ ?_ (by decide))
      | (with_reducible refine chargeRow_only _ _ _ ?_ (by decide))
      | (with_reducible refine only_when _ _ ?_ ?_)
      | (intro)
      | (extract_lets +onlyGivenNames s1; refine only_cut s1 ?_ ?_; unfold s1; clear s1; rotate_left; intro hs1; clear_value s1; rotate_right)
      | (extract_lets +onlyGivenNames v1)
      | (split)
      | (with_reducible exact only_refl _ _))

theorem planMedias_only {ps : List Part} {s0 : State}  (s : State)
    (h : Only ps s0 s) (hp : [.media, .flash, .inst] ⊆ ps) : Only ps s0 (planMedias s) :=
  Only.via hp h (by
    unfold planMedias
    repeat' first
      | (with_reducible assumption)
      | (with_reducible refine planMedia_only _ _ ?_ (by decide))
      | (with_reducible refine updFlash_only _ _ ?_ (by decide))
      | (with_reducible refine only_forEach _ _ _ ?_ ?_)
      | (intro)
      | (extract_lets +onlyGivenNames s1; refine only_cut s1 ?_ ?_; unfold s1; clear s1; rotate_left; intro hs1; clear_value s1; rotate_right)
      | (extract_lets +onlyGivenNames v1)
      | (with_reducible exact only_refl _ _))

theorem planRest_only {ps : List Part} {s0 : State} (x0 : Nat) (die : Nat) (s : State)
    (h : Only ps s0 s) (hp : [.flash] ⊆ ps) : Only ps s0 (planRest x0 die s) :=
  Only.via hp h (by
    unfold planRest
    repeat' first
      | (with_reducible assumption)
      | (with_reducible refine updFlash_only _ _ ?_ (by decide))
      | (intro)
      | (extract_lets +onlyGivenNames s1; refine only_cut s1 ?_ ?_; unfold s1; clear s1; rotate_left; intro hs1; clear_value s1; rotate_right)
      | (extract_lets +onlyGivenNames k1; have _ck := fun x => (k1 x : State → State); clear _ck)
      | (extract_lets +onlyGivenNames k1; have _ck := fun x => (k1 x : State); clear _ck)
      | (extract_lets +onlyGivenNames v1)
      | (split)
      | (with_reducible exact only_refl _ _)
      | (dsimp only [k1]))

theorem planWindows_only {ps : List Part} {s0 : State} (x0 : Nat) (s : State)
    (h : Only ps s0 s) (hp : [.flash] ⊆ ps) : Only ps s0 (planWindows x0 s) :=
  Only.via hp h (by
    unfold planWindows
    repeat' first
      | (with_reducible assumption)
      | (with_reducible refine updFlash_only _ _ ?_ (by decide))
      | (intro)
      | (with_reducible exact only_refl _ _))

theorem buildPlan_only {ps : List Part} {s0 : State}  (s : State)
    (h : Only ps s0 s) (hp : [.frame, .host, .zone, .media, .flash, .inst, .therm, .pins, .recd, .emit] ⊆ ps) : Only ps s0 (buildPlan s) :=
  Only.via hp h (by
    unfold buildPlan
    repeat' first
      | (with_reducible assumption)
      | (with_reducible refine planMedias_only _ ?_ (by decide))
      | (with_reducible refine planReads_only _ _ _ ?_ (by decide))
      | (with_reducible refine planWindows_only _ _ ?_ (by decide))
      | (with_reducible refine planRest_only _ _ _ ?_ (by decide))
      | (with_reducible refine only_forEach _ _ _ ?_ ?_)
      | (intro)
      | (extract_lets +onlyGivenNames s1; refine only_cut s1 ?_ ?_; unfold s1; clear s1; rotate_left; intro hs1; clear_value s1; rotate_right)
      | (extract_lets +onlyGivenNames v1)
      | (with_reducible exact only_refl _ _))

theorem planCommit_only {ps : List Part} {s0 : State} (late : List Nat) (s : State)
    (h : Only ps s0 s) (hp : [.frame, .host, .zone, .media, .flash, .inst, .therm, .pins, .recd, .emit] ⊆ ps) : Only ps s0 (planCommit late s) :=
  Only.via hp h (by
    unfold planCommit
    repeat' first
      | (with_reducible assumption)
      | (with_reducible refine buildPlan_only _ ?_ (by decide))
      | (with_reducible refine commitLanes_only _ _ ?_ (by decide))
      | (with_reducible refine updFlash_only _ _ ?_ (by decide))
      | (with_reducible refine updFrame_only _ _ ?_ (by decide))
      | (intro)
      | (extract_lets +onlyGivenNames s1; refine only_cut s1 ?_ ?_; unfold s1; clear s1; rotate_left; intro hs1; clear_value s1; rotate_right)
      | (extract_lets +onlyGivenNames v1)
      | (split)
      | (with_reducible exact only_refl _ _))

theorem requeue_only {ps : List Part} {s0 : State} (k : OpKind) (eg : Nat) (row : Nat) (m : Nat) (die : Nat) (s : State)
    (h : Only ps s0 s) (hp : [.flash] ⊆ ps) : Only ps s0 (requeue k eg row m die s) :=
  Only.via hp h (by
    unfold requeue
    repeat' first
      | (with_reducible assumption)
      | (with_reducible refine updFlash_only _ _ ?_ (by decide))
      | (intro)
      | (extract_lets +onlyGivenNames s1; refine only_cut s1 ?_ ?_; unfold s1; clear s1; rotate_left; intro hs1; clear_value s1; rotate_right)
      | (extract_lets +onlyGivenNames v1)
      | (split)
      | (with_reducible exact only_refl _ _))

theorem laneReset_only {ps : List Part} {s0 : State} (l : Nat) (s : State)
    (h : Only ps s0 s) (hp : [.frame, .host, .zone, .media, .flash, .inst, .therm, .pins, .recd, .emit, .free] ⊆ ps) : Only ps s0 (laneReset l s) :=
  Only.via hp h (by
    unfold laneReset
    repeat' first
      | (with_reducible assumption)
      | (with_reducible refine resetLane_only _ _ ?_ (by decide))
      | (with_reducible refine updFlash_only _ _ ?_ (by decide))
      | (with_reducible refine senseLost_only _ _ _ ?_ (by decide))
      | (with_reducible refine requeue_only _ _ _ _ _ _ ?_ (by decide))
      | (with_reducible refine only_forEach _ _ _ ?_ ?_)
      | (intro)
      | (extract_lets +onlyGivenNames s1; refine only_cut s1 ?_ ?_; unfold s1; clear s1; rotate_left; intro hs1; clear_value s1; rotate_right)
      | (extract_lets +onlyGivenNames v1)
      | (split)
      | (with_reducible exact only_refl _ _))

theorem issueEntry_only {ps : List Part} {s0 : State} (die : Nat) (x1 : PlanEntry) (s : State)
    (h : Only ps s0 s) (hp : [.flash, .emit] ⊆ ps) : Only ps s0 (issueEntry die x1 s) :=
  Only.via hp h (by
    unfold issueEntry
    repeat' first
      | (with_reducible assumption)
      | (with_reducible refine kickDie_only _ _ ?_ (by decide))
      | (with_reducible refine updDie_only _ _ _ ?_ (by decide))
      | (with_reducible refine onfi_only _ _ _ _ ?_ (by decide))
      | (with_reducible refine beginData_only _ _ _ _ _ ?_ (by decide))
      | (with_reducible refine startOp_only _ _ _ _ _ _ ?_ (by decide))
      | (with_reducible refine onfiPlanes_only _ _ _ _ _ _ ?_ (by decide))
      | (with_reducible refine onfiLevels_only _ _ _ ?_ (by decide))
      | (intro)
      | (extract_lets +onlyGivenNames s1; refine only_cut s1 ?_ ?_; unfold s1; clear s1; rotate_left; intro hs1; clear_value s1; rotate_right)
      | (extract_lets +onlyGivenNames v1)
      | (split)
      | (with_reducible exact only_refl _ _))

theorem publish_only {ps : List Part} {s0 : State}  (s : State)
    (h : Only ps s0 s) (hp : [.flash, .emit] ⊆ ps) : Only ps s0 (publish s) :=
  Only.via hp h (by
    unfold publish
    repeat' first
      | (with_reducible assumption)
      | (with_reducible refine updFlash_only _ _ ?_ (by decide))
      | (with_reducible refine issueEntry_only _ _ _ ?_ (by decide))
      | (with_reducible refine kickDie_only _ _ ?_ (by decide))
      | (with_reducible refine busOpen_only _ ?_ (by decide))
      | (with_reducible refine only_forEach _ _ _ ?_ ?_)
      | (intro)
      | (extract_lets +onlyGivenNames s1; refine only_cut s1 ?_ ?_; unfold s1; clear s1; rotate_left; intro hs1; clear_value s1; rotate_right)
      | (extract_lets +onlyGivenNames v1)
      | (split)
      | (with_reducible exact only_refl _ _))

end Sys2Proof.Machine
end

