-- ==== Sys2Proof/Laws/Only/Reloc.lean ====
section
/-! SUPPORT. Which groups of state each operation of Machine/Reloc.lean can change. -/

set_option linter.tactic.unusedName false

namespace Sys2Proof.Machine

theorem startVictim_only {ps : List Part} {s0 : State} (eg : Nat) (prio : Nat) (g : Group) (l : List (Nat × Loc)) (s : State)
    (h : Only ps s0 s) (hp : [.media, .flash] ⊆ ps) : Only ps s0 (startVictim eg prio g l s) :=
  Only.via hp h (by
    unfold startVictim
    repeat' first
      | (with_reducible assumption)
      | (with_reducible refine updMedia_only _ _ ?_ (by decide))
      | (with_reducible refine updGroup_only _ _ _ ?_ (by decide))
      | (with_reducible refine addRead_only _ _ ?_ (by decide))
      | (with_reducible refine victimDone_only _ _ ?_ (by decide))
      | (with_reducible refine only_forEach _ _ _ ?_ ?_)
      | (intro)
      | (extract_lets +onlyGivenNames s1; refine only_cut s1 ?_ ?_; unfold s1; clear s1; rotate_left; intro hs1; clear_value s1; rotate_right)
      | (extract_lets +onlyGivenNames v1)
      | (with_reducible exact only_refl _ _))

theorem relocationStart_only {ps : List Part} {s0 : State} (eg : Nat) (s : State)
    (h : Only ps s0 s) (hp : [.frame, .host, .zone, .media, .flash, .inst, .therm, .pins, .recd, .emit] ⊆ ps) : Only ps s0 (relocationStart eg s) :=
  Only.via hp h (by
    unfold relocationStart
    repeat' first
      | (with_reducible assumption)
      | (with_reducible refine bindCopies_only _ _ ?_ (by decide))
      | (with_reducible refine startVictim_only _ _ _ _ _ ?_ (by decide))
      | (intro)
      | (split)
      | (with_reducible exact only_refl _ _))

theorem groupErase_only {ps : List Part} {s0 : State} (eg : Nat) (s : State)
    (h : Only ps s0 s) (hp : [.media, .flash] ⊆ ps) : Only ps s0 (groupErase eg s) :=
  Only.via hp h (by
    unfold groupErase
    repeat' first
      | (with_reducible assumption)
      | (with_reducible refine cacheDrop_only _ _ ?_ (by decide))
      | (with_reducible refine updGroup_only _ _ _ ?_ (by decide))
      | (with_reducible refine submit_only _ _ ?_ (by decide))
      | (with_reducible refine request_only _ _ ?_ (by decide))
      | (with_reducible refine only_forEach _ _ _ ?_ ?_)
      | (intro)
      | (extract_lets +onlyGivenNames s1; refine only_cut s1 ?_ ?_; unfold s1; clear s1; rotate_left; intro hs1; clear_value s1; rotate_right)
      | (extract_lets +onlyGivenNames v1)
      | (split)
      | (with_reducible exact only_refl _ _))

theorem updDiscard_only {ps : List Part} {s0 : State} (d : Discard) (x1 : Discard → Discard) (s : State)
    (h : Only ps s0 s) (hp : [.zone] ⊆ ps) : Only ps s0 (updDiscard d x1 s) :=
  Only.via hp h (by
    unfold updDiscard
    repeat' first
      | (with_reducible assumption)
      | (with_reducible refine updZone_only _ _ ?_ (by decide))
      | (intro)
      | (split)
      | (with_reducible exact only_refl _ _))

theorem discardStale_only {ps : List Part} {s0 : State} (eg : Nat) (s : State)
    (h : Only ps s0 s) (hp : [.frame, .host, .zone, .media, .flash, .inst, .therm, .pins, .recd, .emit] ⊆ ps) : Only ps s0 (discardStale eg s) :=
  Only.via hp h (by
    unfold discardStale
    repeat' first
      | (with_reducible assumption)
      | (with_reducible refine closeEarly_only _ _ ?_ (by decide))
      | (with_reducible refine startVictim_only _ _ _ _ _ ?_ (by decide))
      | (with_reducible refine bindCopies_only _ _ ?_ (by decide))
      | (with_reducible refine pendIfEmpty_only _ _ ?_ (by decide))
      | (intro)
      | (split)
      | (with_reducible exact only_refl _ _))

theorem discardCurrent_only {ps : List Part} {s0 : State} (d : Discard) (eg : Nat) (s : State)
    (h : Only ps s0 s) (hp : [.frame, .host, .zone, .media, .flash, .inst, .therm, .pins, .recd, .emit] ⊆ ps) : Only ps s0 (discardCurrent d eg s) :=
  Only.via hp h (by
    unfold discardCurrent
    repeat' first
      | (with_reducible assumption)
      | (with_reducible refine closeEarly_only _ _ ?_ (by decide))
      | (with_reducible refine bindCopies_only _ _ ?_ (by decide))
      | (with_reducible refine startVictim_only _ _ _ _ _ ?_ (by decide))
      | (with_reducible refine submit_only _ _ ?_ (by decide))
      | (with_reducible refine takePend_only _ _ ?_ (by decide))
      | (intro)
      | (extract_lets +onlyGivenNames s1; refine only_cut s1 ?_ ?_; unfold s1; clear s1; rotate_left; intro hs1; clear_value s1; rotate_right)
      | (extract_lets +onlyGivenNames v1)
      | (split)
      | (with_reducible exact only_refl _ _))

theorem dropDiscard_only {ps : List Part} {s0 : State} (d : Discard) (s : State)
    (h : Only ps s0 s) (hp : [.zone] ⊆ ps) : Only ps s0 (dropDiscard d s) :=
  Only.via hp h (by
    unfold dropDiscard
    repeat' first
      | (with_reducible assumption)
      | (with_reducible refine updZone_only _ _ ?_ (by decide))
      | (intro)
      | (with_reducible exact only_refl _ _))

theorem discardBegin_only {ps : List Part} {s0 : State} (d : Discard) (s : State)
    (h : Only ps s0 s) (hp : [.zone] ⊆ ps) : Only ps s0 (discardBegin d s) :=
  Only.via hp h (by
    unfold discardBegin
    repeat' first
      | (with_reducible assumption)
      | (with_reducible refine dropDiscard_only _ _ ?_ (by decide))
      | (with_reducible refine updDiscard_only _ _ _ ?_ (by decide))
      | (intro)
      | (split)
      | (with_reducible exact only_refl _ _))

theorem discardEnd_only {ps : List Part} {s0 : State} (d : Discard) (s : State)
    (h : Only ps s0 s) (hp : [.zone, .media] ⊆ ps) : Only ps s0 (discardEnd d s) :=
  Only.via hp h (by
    unfold discardEnd
    repeat' first
      | (with_reducible assumption)
      | (with_reducible refine dropDiscard_only _ _ ?_ (by decide))
      | (with_reducible refine submit_only _ _ ?_ (by decide))
      | (intro)
      | (extract_lets +onlyGivenNames s1; refine only_cut s1 ?_ ?_; unfold s1; clear s1; rotate_left; intro hs1; clear_value s1; rotate_right)
      | (extract_lets +onlyGivenNames v1)
      | (split)
      | (with_reducible exact only_refl _ _))

theorem discardRest_only {ps : List Part} {s0 : State} (d : Discard) (s : State)
    (h : Only ps s0 s) (hp : [.zone, .media] ⊆ ps) : Only ps s0 (discardRest d s) :=
  Only.via hp h (by
    unfold discardRest
    repeat' first
      | (with_reducible assumption)
      | (with_reducible refine discardEnd_only _ _ ?_ (by decide))
      | (with_reducible refine updDiscard_only _ _ _ ?_ (by decide))
      | (intro)
      | (extract_lets +onlyGivenNames s1; refine only_cut s1 ?_ ?_; unfold s1; clear s1; rotate_left; intro hs1; clear_value s1; rotate_right)
      | (extract_lets +onlyGivenNames v1)
      | (split)
      | (with_reducible exact only_refl _ _))

theorem discardStep_only {ps : List Part} {s0 : State} (seq : Nat) (s : State)
    (h : Only ps s0 s) (hp : [.frame, .host, .zone, .media, .flash, .inst, .therm, .pins, .recd, .emit] ⊆ ps) : Only ps s0 (discardStep seq s) :=
  Only.via hp h (by
    unfold discardStep
    repeat' first
      | (with_reducible assumption)
      | (with_reducible refine discardBegin_only _ _ ?_ (by decide))
      | (with_reducible refine discardStale_only _ _ ?_ (by decide))
      | (with_reducible refine discardCurrent_only _ _ _ ?_ (by decide))
      | (with_reducible refine dropDiscard_only _ _ ?_ (by decide))
      | (with_reducible refine postItem_only _ _ ?_ (by decide))
      | (with_reducible refine discardRest_only _ _ ?_ (by decide))
      | (intro)
      | (extract_lets +onlyGivenNames s1; refine only_cut s1 ?_ ?_; unfold s1; clear s1; rotate_left; intro hs1; clear_value s1; rotate_right)
      | (extract_lets +onlyGivenNames v1)
      | (split)
      | (with_reducible exact only_refl _ _))

theorem refreshAge_only {ps : List Part} {s0 : State} (eg : Nat) (s : State)
    (h : Only ps s0 s) (hp : [.media] ⊆ ps) : Only ps s0 (refreshAge eg s) :=
  Only.via hp h (by
    unfold refreshAge
    repeat' first
      | (with_reducible assumption)
      | (with_reducible refine refreshGroup_only _ _ ?_ (by decide))
      | (with_reducible refine only_when _ _ ?_ ?_)
      | (intro)
      | (split)
      | (with_reducible exact only_refl _ _))

theorem patrol_only {ps : List Part} {s0 : State} (eg : Nat) (row : Nat) (s : State)
    (h : Only ps s0 s) (hp : [.flash] ⊆ ps) : Only ps s0 (patrol eg row s) :=
  Only.via hp h (by
    unfold patrol
    repeat' first
      | (with_reducible assumption)
      | (with_reducible refine updFlash_only _ _ ?_ (by decide))
      | (with_reducible refine addRead_only _ _ ?_ (by decide))
      | (with_reducible refine only_forEach _ _ _ ?_ ?_)
      | (intro)
      | (extract_lets +onlyGivenNames s1; refine only_cut s1 ?_ ?_; unfold s1; clear s1; rotate_left; intro hs1; clear_value s1; rotate_right)
      | (extract_lets +onlyGivenNames v1)
      | (split)
      | (with_reducible exact only_refl _ _))

theorem probe_only {ps : List Part} {s0 : State} (die : Nat) (s : State)
    (h : Only ps s0 s) (hp : [.flash] ⊆ ps) : Only ps s0 (probe die s) :=
  Only.via hp h (by
    unfold probe
    repeat' first
      | (with_reducible assumption)
      | (with_reducible refine addRead_only _ _ ?_ (by decide))
      | (intro)
      | (split)
      | (with_reducible exact only_refl _ _))

end Sys2Proof.Machine
end

