-- ==== Sys2Proof/Laws/Only/Wipe.lean ====
section
/-! SUPPORT. Which groups of state each operation of Machine/Wipe.lean can change. -/

set_option linter.tactic.unusedName false

namespace Sys2Proof.Machine

theorem drawRandom_only {ps : List Part} {s0 : State}  {s : State}
    (h : Only ps s0 s) (hp : [.prot] ⊆ ps) : Only ps s0 (drawRandom s).2 :=
  Only.via hp h (by
    unfold drawRandom
    repeat' first
      | (with_reducible assumption)
      | (intro)
      | (with_reducible exact only_refl _ _)
      | (refine only_prot _ ?_ (by decide)))

theorem drawRandom_only2 {ps : List Part} {s0 : State}  {s t : State} {v}
    (h : Only ps s0 s) (hp : [.prot] ⊆ ps) (e : drawRandom s = (v, t)) : Only ps s0 t := by
  have k := drawRandom_only  h hp
  rw [e] at k; exact k

theorem renewSalt_only {ps : List Part} {s0 : State} (x : Nat) (s : State)
    (h : Only ps s0 s) (hp : [.zone, .prot] ⊆ ps) : Only ps s0 (renewSalt x s) :=
  Only.via hp h (by
    unfold renewSalt
    repeat' first
      | (with_reducible assumption)
      | (with_reducible refine drawRandom_only ?_ (by decide))
      | (with_reducible refine drawRandom_only2 ?_ (by decide) (by assumption))
      | (with_reducible refine updNs_only _ _ _ ?_ (by decide))
      | (intro)
      | (extract_lets +onlyGivenNames s1; refine only_cut s1 ?_ ?_; unfold s1; clear s1; rotate_left; intro hs1; clear_value s1; rotate_right)
      | (extract_lets +onlyGivenNames v1)
      | (split)
      | (with_reducible exact only_refl _ _))

theorem renewSlot_only {ps : List Part} {s0 : State} (k : Nat) (s : State)
    (h : Only ps s0 s) (hp : [.prot] ⊆ ps) : Only ps s0 (renewSlot k s) :=
  Only.via hp h (by
    unfold renewSlot
    repeat' first
      | (with_reducible assumption)
      | (with_reducible refine drawRandom_only ?_ (by decide))
      | (with_reducible refine drawRandom_only2 ?_ (by decide) (by assumption))
      | (intro)
      | (extract_lets +onlyGivenNames s1; refine only_cut s1 ?_ ?_; unfold s1; clear s1; rotate_left; intro hs1; clear_value s1; rotate_right)
      | (extract_lets +onlyGivenNames v1)
      | (split)
      | (with_reducible exact only_refl _ _)
      | (refine only_prot _ ?_ (by decide)))

theorem wipeNs_only {ps : List Part} {s0 : State} (x : Nat) (kind : EraseKind) (s : State)
    (h : Only ps s0 s) (hp : [.zone, .media, .flash, .prot] ⊆ ps) : Only ps s0 (wipeNs x kind s) :=
  Only.via hp h (by
    unfold wipeNs
    repeat' first
      | (with_reducible assumption)
      | (with_reducible refine renewSalt_only _ _ ?_ (by decide))
      | (with_reducible refine closeEarly_only _ _ ?_ (by decide))
      | (with_reducible refine updNs_only _ _ _ ?_ (by decide))
      | (with_reducible refine submitZones_only _ _ _ _ _ ?_ (by decide))
      | (with_reducible refine beginDiscard_only _ _ _ _ _ ?_ (by decide))
      | (with_reducible refine submit_only _ _ ?_ (by decide))
      | (with_reducible refine only_when _ _ ?_ ?_)
      | (with_reducible refine only_forEach _ _ _ ?_ ?_)
      | (intro)
      | (extract_lets +onlyGivenNames s1; refine only_cut s1 ?_ ?_; unfold s1; clear s1; rotate_left; intro hs1; clear_value s1; rotate_right)
      | (extract_lets +onlyGivenNames v1)
      | (split)
      | (with_reducible exact only_refl _ _))

theorem startWipe_only {ps : List Part} {s0 : State} (x : Nat) (s : State)
    (h : Only ps s0 s) (hp : [.zone, .media, .flash, .prot] ⊆ ps) : Only ps s0 (startWipe x s) :=
  Only.via hp h (by
    unfold startWipe
    repeat' first
      | (with_reducible assumption)
      | (with_reducible refine renewSlot_only _ _ ?_ (by decide))
      | (with_reducible refine rewrapKeys_only _ ?_ (by decide))
      | (with_reducible refine wipeNs_only _ _ _ ?_ (by decide))
      | (with_reducible refine updNs_only _ _ _ ?_ (by decide))
      | (with_reducible refine only_when _ _ ?_ ?_)
      | (intro)
      | (extract_lets +onlyGivenNames s1; refine only_cut s1 ?_ ?_; unfold s1; clear s1; rotate_left; intro hs1; clear_value s1; rotate_right)
      | (extract_lets +onlyGivenNames v1)
      | (split)
      | (with_reducible exact only_refl _ _))

theorem startWipes_only {ps : List Part} {s0 : State}  (s : State)
    (h : Only ps s0 s) (hp : [.zone, .media, .flash, .prot] ⊆ ps) : Only ps s0 (startWipes s) :=
  Only.via hp h (by
    unfold startWipes
    repeat' first
      | (with_reducible assumption)
      | (with_reducible refine startWipe_only _ _ ?_ (by decide))
      | (with_reducible refine only_forEach _ _ _ ?_ ?_)
      | (intro)
      | (with_reducible exact only_refl _ _))

theorem formatNvm_only {ps : List Part} {s0 : State} (it : Item) (s : State)
    (h : Only ps s0 s) (hp : [.frame, .host, .zone, .inst, .recd, .emit] ⊆ ps) : Only ps s0 (formatNvm it s) :=
  Only.via hp h (by
    unfold formatNvm
    repeat' first
      | (with_reducible assumption)
      | (with_reducible refine finishBad_only _ _ _ ?_ (by decide))
      | (with_reducible refine updItem_only _ _ _ ?_ (by decide))
      | (with_reducible refine updNs_only _ _ _ ?_ (by decide))
      | (intro)
      | (extract_lets +onlyGivenNames s1; refine only_cut s1 ?_ ?_; unfold s1; clear s1; rotate_left; intro hs1; clear_value s1; rotate_right)
      | (extract_lets +onlyGivenNames v1)
      | (split)
      | (with_reducible exact only_refl _ _))

theorem formatDone_only {ps : List Part} {s0 : State} (x : Nat) (s : State)
    (h : Only ps s0 s) (hp : [.frame, .host, .zone, .inst, .recd, .emit] ⊆ ps) : Only ps s0 (formatDone x s) :=
  Only.via hp h (by
    unfold formatDone
    repeat' first
      | (with_reducible assumption)
      | (with_reducible refine updNs_only _ _ _ ?_ (by decide))
      | (with_reducible refine notifyNs_only _ _ _ ?_ (by decide))
      | (with_reducible refine finishOk_only _ _ ?_ (by decide))
      | (with_reducible refine only_forEach _ _ _ ?_ ?_)
      | (intro)
      | (extract_lets +onlyGivenNames s1; refine only_cut s1 ?_ ?_; unfold s1; clear s1; rotate_left; intro hs1; clear_value s1; rotate_right)
      | (extract_lets +onlyGivenNames v1)
      | (split)
      | (with_reducible exact only_refl _ _))

theorem sanitize_only {ps : List Part} {s0 : State} (action : Nat) (kind : EraseKind) (it : Item) (s : State)
    (h : Only ps s0 s) (hp : [.frame, .host, .zone, .inst, .recd, .emit] ⊆ ps) : Only ps s0 (sanitize action kind it s) :=
  Only.via hp h (by
    unfold sanitize
    repeat' first
      | (with_reducible assumption)
      | (with_reducible refine finishBad_only _ _ _ ?_ (by decide))
      | (with_reducible refine finishOk_only _ _ ?_ (by decide))
      | (with_reducible refine updZone_only _ _ ?_ (by decide))
      | (intro)
      | (split)
      | (with_reducible exact only_refl _ _))

theorem exitFailure_only {ps : List Part} {s0 : State} (it : Item) (s : State)
    (h : Only ps s0 s) (hp : [.frame, .host, .zone, .inst, .recd, .emit] ⊆ ps) : Only ps s0 (exitFailure it s) :=
  Only.via hp h (by
    unfold exitFailure
    repeat' first
      | (with_reducible assumption)
      | (with_reducible refine finishBad_only _ _ _ ?_ (by decide))
      | (with_reducible refine finishOk_only _ _ ?_ (by decide))
      | (with_reducible refine updZone_only _ _ ?_ (by decide))
      | (with_reducible refine only_when _ _ ?_ ?_)
      | (intro)
      | (split)
      | (with_reducible exact only_refl _ _))

theorem renewSlots_only {ps : List Part} {s0 : State}  (s : State)
    (h : Only ps s0 s) (hp : [.prot] ⊆ ps) : Only ps s0 (renewSlots s) :=
  Only.via hp h (by
    unfold renewSlots
    repeat' first
      | (with_reducible assumption)
      | (with_reducible refine renewSlot_only _ _ ?_ (by decide))
      | (with_reducible refine only_forEach _ _ _ ?_ ?_)
      | (intro)
      | (with_reducible exact only_refl _ _))

theorem startSanitize_only {ps : List Part} {s0 : State}  (s : State)
    (h : Only ps s0 s) (hp : [.zone, .media, .flash, .prot] ⊆ ps) : Only ps s0 (startSanitize s) :=
  Only.via hp h (by
    unfold startSanitize
    repeat' first
      | (with_reducible assumption)
      | (with_reducible refine renewSlots_only _ ?_ (by decide))
      | (with_reducible refine rewrapKeys_only _ ?_ (by decide))
      | (with_reducible refine wipeNs_only _ _ _ ?_ (by decide))
      | (with_reducible refine updZone_only _ _ ?_ (by decide))
      | (with_reducible refine only_when _ _ ?_ ?_)
      | (with_reducible refine only_forEach _ _ _ ?_ ?_)
      | (intro)
      | (extract_lets +onlyGivenNames s1; refine only_cut s1 ?_ ?_; unfold s1; clear s1; rotate_left; intro hs1; clear_value s1; rotate_right)
      | (extract_lets +onlyGivenNames v1)
      | (split)
      | (with_reducible exact only_refl _ _))

theorem sanitizeDone_only {ps : List Part} {s0 : State} (good : Bool) (s : State)
    (h : Only ps s0 s) (hp : [.zone] ⊆ ps) : Only ps s0 (sanitizeDone good s) :=
  Only.via hp h (by
    unfold sanitizeDone
    repeat' first
      | (with_reducible assumption)
      | (with_reducible refine updZone_only _ _ ?_ (by decide))
      | (intro)
      | (extract_lets +onlyGivenNames s1; refine only_cut s1 ?_ ?_; unfold s1; clear s1; rotate_left; intro hs1; clear_value s1; rotate_right)
      | (extract_lets +onlyGivenNames v1)
      | (split)
      | (with_reducible exact only_refl _ _))

theorem abortEnd_only {ps : List Part} {s0 : State} (it : Item) (target : Nat) (s : State)
    (h : Only ps s0 s) (hp : [.frame, .host, .inst, .recd, .emit] ⊆ ps) : Only ps s0 (abortEnd it target s) :=
  Only.via hp h (by
    unfold abortEnd
    repeat' first
      | (with_reducible assumption)
      | (with_reducible refine finishOk_only _ _ ?_ (by decide))
      | (with_reducible refine updItem_only _ _ _ ?_ (by decide))
      | (intro)
      | (split)
      | (with_reducible exact only_refl _ _))

theorem abort_only {ps : List Part} {s0 : State} (it : Item) (s : State)
    (h : Only ps s0 s) (hp : [.frame, .host, .zone, .media, .flash, .inst, .recd, .emit] ⊆ ps) : Only ps s0 (abort it s) :=
  Only.via hp h (by
    unfold abort
    repeat' first
      | (with_reducible assumption)
      | (with_reducible refine abortEnd_only _ _ _ ?_ (by decide))
      | (with_reducible refine finishBad_only _ _ _ ?_ (by decide))
      | (with_reducible refine finish_only _ _ _ _ _ ?_ (by decide))
      | (with_reducible refine failItem_only _ _ _ ?_ (by decide))
      | (intro)
      | (extract_lets +onlyGivenNames s1; refine only_cut s1 ?_ ?_; unfold s1; clear s1; rotate_left; intro hs1; clear_value s1; rotate_right)
      | (extract_lets +onlyGivenNames v1)
      | (split)
      | (with_reducible exact only_refl _ _))

theorem lifetimeEnd_only {ps : List Part} {s0 : State} (it : Item) (s : State)
    (h : Only ps s0 s) (hp : [.frame, .host, .zone, .media, .flash, .inst, .recd, .emit] ⊆ ps) : Only ps s0 (lifetimeEnd it s) :=
  Only.via hp h (by
    unfold lifetimeEnd
    repeat' first
      | (with_reducible assumption)
      | (with_reducible refine cutDiscard_only _ _ ?_ (by decide))
      | (with_reducible refine latch_only _ _ _ _ _ ?_ (by decide))
      | (with_reducible refine failItem_only _ _ _ ?_ (by decide))
      | (intro)
      | (split)
      | (with_reducible exact only_refl _ _))

theorem lifetimeExpiry_only {ps : List Part} {s0 : State} (id : CmdId) (s : State)
    (h : Only ps s0 s) (hp : [.frame, .host, .zone, .media, .flash, .inst, .recd, .emit] ⊆ ps) : Only ps s0 (lifetimeExpiry id s) :=
  Only.via hp h (by
    unfold lifetimeExpiry
    repeat' first
      | (with_reducible assumption)
      | (with_reducible refine lifetimeEnd_only _ _ ?_ (by decide))
      | (with_reducible refine only_id ?_)
      | (intro)
      | (split)
      | (with_reducible exact only_refl _ _))

end Sys2Proof.Machine
end

