-- ==== Sys2Proof/Laws/Only/Resets.lean ====
section
/-! SUPPORT. Which groups of state each operation of Machine/Resets.lean can change. -/

set_option linter.tactic.unusedName false

namespace Sys2Proof.Machine

theorem closeZones_only {ps : List Part} {s0 : State} (fn : Nat) (s : State)
    (h : Only ps s0 s) (hp : [.host, .zone, .media, .flash] ⊆ ps) : Only ps s0 (closeZones fn s) :=
  Only.via hp h (by
    unfold closeZones
    repeat' first
      | (with_reducible assumption)
      | (with_reducible refine tell_only _ _ _ _ ?_ (by decide))
      | (with_reducible refine closeZone_only _ _ ?_ (by decide))
      | (with_reducible refine updZoneRec_only _ _ _ ?_ (by decide))
      | (with_reducible refine only_forEach _ _ _ ?_ ?_)
      | (intro)
      | (extract_lets +onlyGivenNames s1; refine only_cut s1 ?_ ?_; unfold s1; clear s1; rotate_left; intro hs1; clear_value s1; rotate_right)
      | (extract_lets +onlyGivenNames v1)
      | (split)
      | (with_reducible exact only_refl _ _))

theorem settle_only {ps : List Part} {s0 : State} (fn : Nat) (s : State)
    (h : Only ps s0 s) (hp : [.host, .zone, .media, .flash] ⊆ ps) : Only ps s0 (settle fn s) :=
  Only.via hp h (by
    unfold settle
    repeat' first
      | (with_reducible assumption)
      | (with_reducible refine updCtl_only _ _ _ ?_ (by decide))
      | (with_reducible refine closeZones_only _ _ ?_ (by decide))
      | (intro)
      | (split)
      | (with_reducible exact only_refl _ _))

theorem ctlResetOf_only {ps : List Part} {s0 : State} (fn : Nat) (s : State)
    (h : Only ps s0 s) (hp : [.host, .zone, .media, .flash] ⊆ ps) : Only ps s0 (ctlResetOf fn s) :=
  Only.via hp h (by
    unfold ctlResetOf
    repeat' first
      | (with_reducible assumption)
      | (with_reducible refine updItems_only _ _ ?_ (by decide))
      | (with_reducible refine settle_only _ _ ?_ (by decide))
      | (with_reducible refine updCtl_only _ _ _ ?_ (by decide))
      | (intro)
      | (extract_lets +onlyGivenNames s1; refine only_cut s1 ?_ ?_; unfold s1; clear s1; rotate_left; intro hs1; clear_value s1; rotate_right)
      | (extract_lets +onlyGivenNames v1)
      | (split)
      | (with_reducible exact only_refl _ _))

theorem ctlEnable_only {ps : List Part} {s0 : State} (fn : Nat) (cc : Word) (aqa : Word) (s : State)
    (h : Only ps s0 s) (hp : [.host] ⊆ ps) : Only ps s0 (ctlEnable fn cc aqa s) :=
  Only.via hp h (by
    unfold ctlEnable
    repeat' first
      | (with_reducible assumption)
      | (with_reducible refine updCtl_only _ _ _ ?_ (by decide))
      | (intro)
      | (extract_lets +onlyGivenNames s1; refine only_cut s1 ?_ ?_; unfold s1; clear s1; rotate_left; intro hs1; clear_value s1; rotate_right)
      | (extract_lets +onlyGivenNames v1)
      | (split)
      | (with_reducible exact only_refl _ _))

theorem updInstance_only {ps : List Part} {s0 : State} (n : Nat) (x1 : Inst → Inst) (s : State)
    (h : Only ps s0 s) (hp : [.inst] ⊆ ps) : Only ps s0 (updInstance n x1 s) :=
  Only.via hp h (by
    unfold updInstance
    repeat' first
      | (with_reducible assumption)
      | (with_reducible refine updInst_only _ _ ?_ (by decide))
      | (intro)
      | (with_reducible exact only_refl _ _))

theorem flrRequest_only {ps : List Part} {s0 : State} (n : Nat) (s : State)
    (h : Only ps s0 s) (hp : [.inst] ⊆ ps) : Only ps s0 (flrRequest n s) :=
  Only.via hp h (by
    unfold flrRequest
    repeat' first
      | (with_reducible assumption)
      | (with_reducible refine updInstance_only _ _ _ ?_ (by decide))
      | (with_reducible refine only_getD ?_ ?_)
      | (intro)
      | (extract_lets +onlyGivenNames s1; refine only_cut s1 ?_ ?_; unfold s1; clear s1; rotate_left; intro hs1; clear_value s1; rotate_right)
      | (extract_lets +onlyGivenNames v1)
      | (split)
      | (with_reducible exact only_refl _ _))

theorem rollbackZone_only {ps : List Part} {s0 : State} (z : Nat) (s : State)
    (h : Only ps s0 s) (hp : [.zone, .media, .flash] ⊆ ps) : Only ps s0 (rollbackZone z s) :=
  Only.via hp h (by
    unfold rollbackZone
    repeat' first
      | (with_reducible assumption)
      | (with_reducible refine updZoneRec_only _ _ _ ?_ (by decide))
      | (with_reducible refine unmapZoneFrom_only _ _ _ ?_ (by decide))
      | (with_reducible refine dropClaims_only _ _ _ ?_ (by decide))
      | (with_reducible refine submit_only _ _ ?_ (by decide))
      | (intro)
      | (extract_lets +onlyGivenNames s1; refine only_cut s1 ?_ ?_; unfold s1; clear s1; rotate_left; intro hs1; clear_value s1; rotate_right)
      | (extract_lets +onlyGivenNames v1)
      | (split)
      | (with_reducible exact only_refl _ _))

theorem stopOld_only {ps : List Part} {s0 : State} (it : Item) (s : State)
    (h : Only ps s0 s) (hp : [.host, .zone, .media, .flash] ⊆ ps) : Only ps s0 (stopOld it s) :=
  Only.via hp h (by
    unfold stopOld
    repeat' first
      | (with_reducible assumption)
      | (with_reducible refine latch_only _ _ _ _ _ ?_ (by decide))
      | (with_reducible refine dropReads_only _ _ ?_ (by decide))
      | (with_reducible refine discardLanded_only _ _ ?_ (by decide))
      | (with_reducible refine cutDiscard_only _ _ ?_ (by decide))
      | (intro)
      | (extract_lets +onlyGivenNames s1; refine only_cut s1 ?_ ?_; unfold s1; clear s1; rotate_left; intro hs1; clear_value s1; rotate_right)
      | (extract_lets +onlyGivenNames v1)
      | (split)
      | (with_reducible exact only_refl _ _))

theorem postOld_only {ps : List Part} {s0 : State} (n : Nat) (before : Nat) (s : State)
    (h : Only ps s0 s) (hp : [.frame, .host, .media, .inst, .recd, .emit] ⊆ ps) : Only ps s0 (postOld n before s) :=
  Only.via hp h (by
    unfold postOld
    repeat' first
      | (with_reducible assumption)
      | (with_reducible refine postItem_only _ _ ?_ (by decide))
      | (with_reducible refine updMedia_only _ _ ?_ (by decide))
      | (with_reducible refine only_forEach _ _ _ ?_ ?_)
      | (intro)
      | (extract_lets +onlyGivenNames s1; refine only_cut s1 ?_ ?_; unfold s1; clear s1; rotate_left; intro hs1; clear_value s1; rotate_right)
      | (extract_lets +onlyGivenNames v1)
      | (split)
      | (with_reducible exact only_refl _ _))

theorem flrEnd_only {ps : List Part} {s0 : State} (n : Nat) (s : State)
    (h : Only ps s0 s) (hp : [.host] ⊆ ps) : Only ps s0 (flrEnd n s) :=
  Only.via hp h (by
    unfold flrEnd
    repeat' first
      | (with_reducible assumption)
      | (with_reducible refine updItems_only _ _ ?_ (by decide))
      | (with_reducible refine updCtl_only _ _ _ ?_ (by decide))
      | (intro)
      | (extract_lets +onlyGivenNames s1; refine only_cut s1 ?_ ?_; unfold s1; clear s1; rotate_left; intro hs1; clear_value s1; rotate_right)
      | (extract_lets +onlyGivenNames v1)
      | (with_reducible exact only_refl _ _))

theorem destroyWipe_only {ps : List Part} {s0 : State} (n : Nat) (i : Inst) (s : State)
    (h : Only ps s0 s) (hp : [.zone, .media, .flash, .inst, .prot] ⊆ ps) : Only ps s0 (destroyWipe n i s) :=
  Only.via hp h (by
    unfold destroyWipe
    repeat' first
      | (with_reducible assumption)
      | (with_reducible refine updInstance_only _ _ _ ?_ (by decide))
      | (with_reducible refine rewrapKeys_only _ ?_ (by decide))
      | (with_reducible refine wipeNs_only _ _ _ ?_ (by decide))
      | (with_reducible refine updNs_only _ _ _ ?_ (by decide))
      | (with_reducible refine only_when _ _ ?_ ?_)
      | (with_reducible refine only_forEach _ _ _ ?_ ?_)
      | (intro)
      | (extract_lets +onlyGivenNames s1; refine only_cut s1 ?_ ?_; unfold s1; clear s1; rotate_left; intro hs1; clear_value s1; rotate_right)
      | (extract_lets +onlyGivenNames v1)
      | (with_reducible exact only_refl _ _))

theorem resetEffect_only {ps : List Part} {s0 : State} (n : Nat) (s : State)
    (h : Only ps s0 s) (hp : [.frame, .host, .zone, .media, .flash, .inst, .recd, .emit] ⊆ ps) : Only ps s0 (resetEffect n s) :=
  Only.via hp h (by
    unfold resetEffect
    repeat' first
      | (with_reducible assumption)
      | (with_reducible refine updInst_only _ _ ?_ (by decide))
      | (with_reducible refine updInstance_only _ _ _ ?_ (by decide))
      | (with_reducible refine updCtl_only _ _ _ ?_ (by decide))
      | (with_reducible refine stopOld_only _ _ ?_ (by decide))
      | (with_reducible refine rollbackZone_only _ _ ?_ (by decide))
      | (with_reducible refine closeZones_only _ _ ?_ (by decide))
      | (with_reducible refine flrEnd_only _ _ ?_ (by decide))
      | (with_reducible refine postOld_only _ _ _ ?_ (by decide))
      | (with_reducible refine finishBad_only _ _ _ ?_ (by decide))
      | (with_reducible refine only_when _ _ ?_ ?_)
      | (with_reducible refine only_forEach _ _ _ ?_ ?_)
      | (intro)
      | (extract_lets +onlyGivenNames s1; refine only_cut s1 ?_ ?_; unfold s1; clear s1; rotate_left; intro hs1; clear_value s1; rotate_right)
      | (extract_lets +onlyGivenNames v1)
      | (split)
      | (with_reducible exact only_refl _ _))

theorem replyPend_only {ps : List Part} {s0 : State} (n : Nat) (opcode : Nat) (status : Nat) (payload : List Nat) (s : State)
    (h : Only ps s0 s) (hp : [.mbx, .inst, .emit] ⊆ ps) : Only ps s0 (replyPend n opcode status payload s) :=
  Only.via hp h (by
    unfold replyPend
    repeat' first
      | (with_reducible assumption)
      | (with_reducible refine updInstance_only _ _ _ ?_ (by decide))
      | (with_reducible refine finalReply_only _ _ _ _ _ ?_ (by decide))
      | (with_reducible refine only_forEach _ _ _ ?_ ?_)
      | (intro)
      | (extract_lets +onlyGivenNames s1; refine only_cut s1 ?_ ?_; unfold s1; clear s1; rotate_left; intro hs1; clear_value s1; rotate_right)
      | (extract_lets +onlyGivenNames v1)
      | (split)
      | (with_reducible exact only_refl _ _))

theorem resetEnd_only {ps : List Part} {s0 : State} (n : Nat) (s : State)
    (h : Only ps s0 s) (hp : [.mbx, .inst, .emit] ⊆ ps) : Only ps s0 (resetEnd n s) :=
  Only.via hp h (by
    unfold resetEnd
    repeat' first
      | (with_reducible assumption)
      | (with_reducible refine updInstance_only _ _ _ ?_ (by decide))
      | (with_reducible refine replyPend_only _ _ _ _ _ ?_ (by decide))
      | (intro)
      | (extract_lets +onlyGivenNames s1; refine only_cut s1 ?_ ?_; unfold s1; clear s1; rotate_left; intro hs1; clear_value s1; rotate_right)
      | (extract_lets +onlyGivenNames v1)
      | (split)
      | (with_reducible exact only_refl _ _))

theorem startDestroy_only {ps : List Part} {s0 : State} (n : Nat) (s : State)
    (h : Only ps s0 s) (hp : [.zone, .media, .flash, .inst, .prot] ⊆ ps) : Only ps s0 (startDestroy n s) :=
  Only.via hp h (by
    unfold startDestroy
    repeat' first
      | (with_reducible assumption)
      | (with_reducible refine destroyWipe_only _ _ _ ?_ (by decide))
      | (intro)
      | (split)
      | (with_reducible exact only_refl _ _))

theorem startDestroys_only {ps : List Part} {s0 : State}  (s : State)
    (h : Only ps s0 s) (hp : [.zone, .media, .flash, .inst, .prot] ⊆ ps) : Only ps s0 (startDestroys s) :=
  Only.via hp h (by
    unfold startDestroys
    repeat' first
      | (with_reducible assumption)
      | (with_reducible refine startDestroy_only _ _ ?_ (by decide))
      | (with_reducible refine only_forEach _ _ _ ?_ ?_)
      | (intro)
      | (with_reducible exact only_refl _ _))

theorem resumeFetch_only {ps : List Part} {s0 : State}  (s : State)
    (h : Only ps s0 s) (hp : [.host, .inst] ⊆ ps) : Only ps s0 (resumeFetch s) :=
  Only.via hp h (by
    unfold resumeFetch
    repeat' first
      | (with_reducible assumption)
      | (with_reducible refine updCtl_only _ _ _ ?_ (by decide))
      | (with_reducible refine updInstance_only _ _ _ ?_ (by decide))
      | (with_reducible refine only_forEach _ _ _ ?_ ?_)
      | (intro)
      | (with_reducible exact only_refl _ _))

theorem instReset_only {ps : List Part} {s0 : State} (r : Posted) (s : State)
    (h : Only ps s0 s) (hp : [.mbx, .inst, .emit] ⊆ ps) : Only ps s0 (instReset r s) :=
  Only.via hp h (by
    unfold instReset
    repeat' first
      | (with_reducible assumption)
      | (with_reducible refine replyRefused_only _ _ _ ?_ (by decide))
      | (with_reducible refine updInstance_only _ _ _ ?_ (by decide))
      | (with_reducible refine replyPending_only _ _ ?_ (by decide))
      | (with_reducible refine only_getD ?_ ?_)
      | (intro)
      | (extract_lets +onlyGivenNames s1; refine only_cut s1 ?_ ?_; unfold s1; clear s1; rotate_left; intro hs1; clear_value s1; rotate_right)
      | (extract_lets +onlyGivenNames v1)
      | (split)
      | (with_reducible exact only_refl _ _))

theorem updPort_only {ps : List Part} {s0 : State} (p : Pf) (x1 : Port → Port) (s : State)
    (h : Only ps s0 s) (hp : [.host] ⊆ ps) : Only ps s0 (updPort p x1 s) :=
  Only.via hp h (by
    unfold updPort
    repeat' first
      | (with_reducible assumption)
      | (intro)
      | (split)
      | (with_reducible exact only_refl _ _)
      | (refine only_host _ ?_ (by decide)))

theorem changePort_only {ps : List Part} {s0 : State} (p : Pf) (x1 : Port → Port) (s : State)
    (h : Only ps s0 s) (hp : [.host, .inst] ⊆ ps) : Only ps s0 (changePort p x1 s) :=
  Only.via hp h (by
    unfold changePort
    repeat' first
      | (with_reducible assumption)
      | (with_reducible refine updPort_only _ _ _ ?_ (by decide))
      | (with_reducible refine flrRequest_only _ _ ?_ (by decide))
      | (with_reducible refine only_forEach _ _ _ ?_ ?_)
      | (intro)
      | (extract_lets +onlyGivenNames s1; refine only_cut s1 ?_ ?_; unfold s1; clear s1; rotate_left; intro hs1; clear_value s1; rotate_right)
      | (extract_lets +onlyGivenNames v1)
      | (with_reducible exact only_refl _ _))

theorem pfReset_only {ps : List Part} {s0 : State} (p : Pf) (x1 : Port → Port) (s : State)
    (h : Only ps s0 s) (hp : [.frame, .mbx, .host, .zone, .media, .flash, .inst, .prot, .ecc, .emit] ⊆ ps) : Only ps s0 (pfReset p x1 s) :=
  Only.via hp h (by
    unfold pfReset
    repeat' first
      | (with_reducible assumption)
      | (with_reducible refine changePort_only _ _ _ ?_ (by decide))
      | (with_reducible refine windowPfReset_only _ _ ?_ (by decide))
      | (with_reducible refine ctlResetOf_only _ _ ?_ (by decide))
      | (intro)
      | (extract_lets +onlyGivenNames s1; refine only_cut s1 ?_ ?_; unfold s1; clear s1; rotate_left; intro hs1; clear_value s1; rotate_right)
      | (extract_lets +onlyGivenNames v1)
      | (with_reducible exact only_refl _ _))

theorem flr_only {ps : List Part} {s0 : State} (fn : Nat) (s : State)
    (h : Only ps s0 s) (hp : [.frame, .mbx, .host, .zone, .media, .flash, .inst, .prot, .ecc, .power, .emit] ⊆ ps) : Only ps s0 (flr fn s) :=
  Only.via hp h (by
    unfold flr
    repeat' first
      | (with_reducible assumption)
      | (with_reducible refine pfReset_only _ _ _ ?_ (by decide))
      | (with_reducible refine flrRequest_only _ _ ?_ (by decide))
      | (with_reducible refine wake_only _ ?_ (by decide))
      | (intro)
      | (extract_lets +onlyGivenNames s1; refine only_cut s1 ?_ ?_; unfold s1; clear s1; rotate_left; intro hs1; clear_value s1; rotate_right)
      | (extract_lets +onlyGivenNames v1)
      | (split)
      | (with_reducible exact only_refl _ _))

theorem endHold_only {ps : List Part} {s0 : State}  (s : State)
    (h : Only ps s0 s) (hp : [.power] ⊆ ps) : Only ps s0 (endHold s) :=
  Only.via hp h (by
    unfold endHold
    repeat' first
      | (with_reducible assumption)
      | (with_reducible refine updPower_only _ _ ?_ (by decide))
      | (with_reducible refine only_when _ _ ?_ ?_)
      | (intro)
      | (with_reducible exact only_refl _ _))

theorem linkReset_only {ps : List Part} {s0 : State} (p : Pf) (perst : Bool) (s : State)
    (h : Only ps s0 s) (hp : [.frame, .mbx, .host, .zone, .media, .flash, .inst, .prot, .ecc, .power, .emit] ⊆ ps) : Only ps s0 (linkReset p perst s) :=
  Only.via hp h (by
    unfold linkReset
    repeat' first
      | (with_reducible assumption)
      | (with_reducible refine endHold_only _ ?_ (by decide))
      | (with_reducible refine updPort_only _ _ _ ?_ (by decide))
      | (with_reducible refine wake_only _ ?_ (by decide))
      | (with_reducible refine pfReset_only _ _ _ ?_ (by decide))
      | (with_reducible refine only_when _ _ ?_ ?_)
      | (intro)
      | (extract_lets +onlyGivenNames s1; refine only_cut s1 ?_ ?_; unfold s1; clear s1; rotate_left; intro hs1; clear_value s1; rotate_right)
      | (extract_lets +onlyGivenNames v1)
      | (split)
      | (with_reducible exact only_refl _ _))

end Sys2Proof.Machine
end

