-- ==== Sys2Proof/Laws/Only/Instances.lean ====
section
/-! SUPPORT. Which groups of state each operation of Machine/Instances.lean can change. -/

set_option linter.tactic.unusedName false

namespace Sys2Proof.Machine

theorem trimCache_only {ps : List Part} {s0 : State}  (s : State)
    (h : Only ps s0 s) (hp : [.flash] ⊆ ps) : Only ps s0 (trimCache s) :=
  Only.via hp h (by
    unfold trimCache
    repeat' first
      | (with_reducible assumption)
      | (with_reducible refine updFlash_only _ _ ?_ (by decide))
      | (intro)
      | (with_reducible exact only_refl _ _))

theorem createNs_only {ps : List Part} {s0 : State} (owner : Nat) (nsid : Nat) (attached : Bool) (q : NsReq) {s : State}
    (h : Only ps s0 s) (hp : [.zone, .flash, .prot] ⊆ ps) : Only ps s0 (createNs owner nsid attached q s).2 :=
  Only.via hp h (by
    unfold createNs
    repeat' first
      | (with_reducible assumption)
      | (with_reducible refine drawRandom_only ?_ (by decide))
      | (with_reducible refine drawRandom_only2 ?_ (by decide) (by assumption))
      | (with_reducible refine trimCache_only _ ?_ (by decide))
      | (with_reducible refine updZone_only _ _ ?_ (by decide))
      | (with_reducible refine only_getD ?_ ?_)
      | (intro)
      | (extract_lets +onlyGivenNames s1; refine only_cut s1 ?_ ?_; unfold s1; clear s1; rotate_left; intro hs1; clear_value s1; rotate_right)
      | (extract_lets +onlyGivenNames v1)
      | (split)
      | (with_reducible exact only_refl _ _))

theorem createNs_only2 {ps : List Part} {s0 : State} (owner : Nat) (nsid : Nat) (attached : Bool) (q : NsReq) {s t : State} {v}
    (h : Only ps s0 s) (hp : [.zone, .flash, .prot] ⊆ ps) (e : createNs owner nsid attached q s = (v, t)) : Only ps s0 t := by
  have k := createNs_only owner nsid attached q h hp
  rw [e] at k; exact k

theorem createNss_only {ps : List Part} {s0 : State} (owner n : Nat) (l : List NsReq) {s : State}
    (h : Only ps s0 s) (hp : [.zone, .flash, .prot] ⊆ ps) : Only ps s0 (createNss owner n l s).2 := by
  induction l generalizing n s with
  | nil => exact h
  | cons q l ih => exact ih (n + 1) (createNs_only _ _ _ _ h hp)

theorem createNss_only2 {ps : List Part} {s0 : State} (owner n : Nat) (l : List NsReq) {s t : State} {v}
    (h : Only ps s0 s) (hp : [.zone, .flash, .prot] ⊆ ps) (e : createNss owner n l s = (v, t)) : Only ps s0 t := by
  have k := createNss_only owner n l h hp
  rw [e] at k; exact k

theorem removeNs_only {ps : List Part} {s0 : State} (x : Nat) (s : State)
    (h : Only ps s0 s) (hp : [.zone] ⊆ ps) : Only ps s0 (removeNs x s) :=
  Only.via hp h (by
    unfold removeNs
    repeat' first
      | (with_reducible assumption)
      | (with_reducible refine updZone_only _ _ ?_ (by decide))
      | (intro)
      | (with_reducible exact only_refl _ _))

theorem shareSet_only {ps : List Part} {s0 : State} (r : Posted) (s : State)
    (h : Only ps s0 s) (hp : [.mbx, .inst, .emit] ⊆ ps) : Only ps s0 (shareSet r s) :=
  Only.via hp h (by
    unfold shareSet
    repeat' first
      | (with_reducible assumption)
      | (with_reducible refine replyNoResource_only _ _ _ ?_ (by decide))
      | (with_reducible refine replyOk_only _ _ _ ?_ (by decide))
      | (with_reducible refine updInst_only _ _ ?_ (by decide))
      | (with_reducible refine replyRefused_only _ _ _ ?_ (by decide))
      | (intro)
      | (extract_lets +onlyGivenNames s1; refine only_cut s1 ?_ ?_; unfold s1; clear s1; rotate_left; intro hs1; clear_value s1; rotate_right)
      | (extract_lets +onlyGivenNames k1; have _ck := fun x => (k1 x : State → State); clear _ck)
      | (extract_lets +onlyGivenNames k1; have _ck := fun x => (k1 x : State); clear _ck)
      | (extract_lets +onlyGivenNames v1)
      | (split)
      | (with_reducible exact only_refl _ _)
      | (dsimp only [k1]))

theorem spill_only {ps : List Part} {s0 : State} (fn : Nat) (k : Kind) (s : State)
    (h : Only ps s0 s) (hp : [.inst] ⊆ ps) : Only ps s0 (spill fn k s) :=
  Only.via hp h (by
    unfold spill
    repeat' first
      | (with_reducible assumption)
      | (with_reducible refine updInst_only _ _ ?_ (by decide))
      | (with_reducible refine setBuckets_only _ _ _ ?_ (by decide))
      | (intro)
      | (extract_lets +onlyGivenNames s1; refine only_cut s1 ?_ ?_; unfold s1; clear s1; rotate_left; intro hs1; clear_value s1; rotate_right)
      | (extract_lets +onlyGivenNames v1)
      | (split)
      | (with_reducible exact only_refl _ _))

theorem applyShares_only {ps : List Part} {s0 : State}  (s : State)
    (h : Only ps s0 s) (hp : [.inst] ⊆ ps) : Only ps s0 (applyShares s) :=
  Only.via hp h (by
    unfold applyShares
    repeat' first
      | (with_reducible assumption)
      | (with_reducible refine updInst_only _ _ ?_ (by decide))
      | (with_reducible refine spill_only _ _ _ ?_ (by decide))
      | (with_reducible refine only_forEach _ _ _ ?_ ?_)
      | (intro)
      | (extract_lets +onlyGivenNames s1; refine only_cut s1 ?_ ?_; unfold s1; clear s1; rotate_left; intro hs1; clear_value s1; rotate_right)
      | (extract_lets +onlyGivenNames k1; have _ck := fun x => (k1 x : State → State); clear _ck)
      | (extract_lets +onlyGivenNames k1; have _ck := fun x => (k1 x : State); clear _ck)
      | (extract_lets +onlyGivenNames v1)
      | (split)
      | (with_reducible exact only_refl _ _)
      | (dsimp only [k1]))

theorem assignSlot_only {ps : List Part} {s0 : State} (k : Nat) (owner : Nat) (s : State)
    (h : Only ps s0 s) (hp : [.prot] ⊆ ps) : Only ps s0 (assignSlot k owner s) :=
  Only.via hp h (by
    unfold assignSlot
    repeat' first
      | (with_reducible assumption)
      | (with_reducible refine drawRandom_only ?_ (by decide))
      | (with_reducible refine drawRandom_only2 ?_ (by decide) (by assumption))
      | (intro)
      | (extract_lets +onlyGivenNames s1; refine only_cut s1 ?_ ?_; unfold s1; clear s1; rotate_left; intro hs1; clear_value s1; rotate_right)
      | (extract_lets +onlyGivenNames v1)
      | (split)
      | (with_reducible exact only_refl _ _)
      | (refine only_prot _ ?_ (by decide)))

theorem emptySlot_only {ps : List Part} {s0 : State} (k : Nat) (s : State)
    (h : Only ps s0 s) (hp : [.prot] ⊆ ps) : Only ps s0 (emptySlot k s) :=
  Only.via hp h (by
    unfold emptySlot
    repeat' first
      | (with_reducible assumption)
      | (intro)
      | (with_reducible exact only_refl _ _)
      | (refine only_prot _ ?_ (by decide)))

theorem createInst_only {ps : List Part} {s0 : State} (b : List Byte) (qs : List NsReq) (tag : Nat) (s : State)
    (h : Only ps s0 s) (hp : [.zone, .flash, .inst, .prot] ⊆ ps) : Only ps s0 (createInst b qs tag s) :=
  Only.via hp h (by
    unfold createInst
    repeat' first
      | (with_reducible assumption)
      | (with_reducible refine assignSlot_only _ _ _ ?_ (by decide))
      | (with_reducible refine updInst_only _ _ ?_ (by decide))
      | (with_reducible refine createNss_only _ _ _ ?_ (by decide))
      | (with_reducible refine createNss_only2 _ _ _ ?_ (by decide) (by assumption))
      | (with_reducible refine updInstance_only _ _ _ ?_ (by decide))
      | (with_reducible refine only_getD ?_ ?_)
      | (intro)
      | (extract_lets +onlyGivenNames s1; refine only_cut s1 ?_ ?_; unfold s1; clear s1; rotate_left; intro hs1; clear_value s1; rotate_right)
      | (extract_lets +onlyGivenNames v1)
      | (split)
      | (with_reducible exact only_refl _ _))

theorem instCreate_only {ps : List Part} {s0 : State} (r : Posted) (b : List Byte) (s : State)
    (h : Only ps s0 s) (hp : [.mbx, .zone, .flash, .inst, .prot, .emit] ⊆ ps) : Only ps s0 (instCreate r b s) :=
  Only.via hp h (by
    unfold instCreate
    repeat' first
      | (with_reducible assumption)
      | (with_reducible refine replyInvalid_only _ _ _ ?_ (by decide))
      | (with_reducible refine replyRefused_only _ _ _ ?_ (by decide))
      | (with_reducible refine replyNoResource_only _ _ _ ?_ (by decide))
      | (with_reducible refine replyBusy_only _ _ ?_ (by decide))
      | (with_reducible refine createInst_only _ _ _ _ ?_ (by decide))
      | (with_reducible refine replyPending_only _ _ ?_ (by decide))
      | (intro)
      | (extract_lets +onlyGivenNames s1; refine only_cut s1 ?_ ?_; unfold s1; clear s1; rotate_left; intro hs1; clear_value s1; rotate_right)
      | (extract_lets +onlyGivenNames v1)
      | (split)
      | (with_reducible exact only_refl _ _))

theorem createDone_only {ps : List Part} {s0 : State} (n : Nat) (s : State)
    (h : Only ps s0 s) (hp : [.mbx, .inst, .emit] ⊆ ps) : Only ps s0 (createDone n s) :=
  Only.via hp h (by
    unfold createDone
    repeat' first
      | (with_reducible assumption)
      | (with_reducible refine replyPend_only _ _ _ _ _ ?_ (by decide))
      | (with_reducible refine updInstance_only _ _ _ ?_ (by decide))
      | (intro)
      | (split)
      | (with_reducible exact only_refl _ _))

theorem goLive_only {ps : List Part} {s0 : State} (n : Nat) (s : State)
    (h : Only ps s0 s) (hp : [.host, .media, .inst] ⊆ ps) : Only ps s0 (goLive n s) :=
  Only.via hp h (by
    unfold goLive
    repeat' first
      | (with_reducible assumption)
      | (with_reducible refine updInstance_only _ _ _ ?_ (by decide))
      | (with_reducible refine updInst_only _ _ ?_ (by decide))
      | (with_reducible refine updMedia_only _ _ ?_ (by decide))
      | (intro)
      | (extract_lets +onlyGivenNames s1; refine only_cut s1 ?_ ?_; unfold s1; clear s1; rotate_left; intro hs1; clear_value s1; rotate_right)
      | (extract_lets +onlyGivenNames v1)
      | (split)
      | (with_reducible exact only_refl _ _)
      | (refine only_host _ ?_ (by decide)))

theorem goLives_only {ps : List Part} {s0 : State}  (s : State)
    (h : Only ps s0 s) (hp : [.host, .media, .inst] ⊆ ps) : Only ps s0 (goLives s) :=
  Only.via hp h (by
    unfold goLives
    repeat' first
      | (with_reducible assumption)
      | (with_reducible refine goLive_only _ _ ?_ (by decide))
      | (with_reducible refine only_forEach _ _ _ ?_ ?_)
      | (intro)
      | (with_reducible exact only_refl _ _))

theorem instDestroy_only {ps : List Part} {s0 : State} (r : Posted) (s : State)
    (h : Only ps s0 s) (hp : [.mbx, .inst, .emit] ⊆ ps) : Only ps s0 (instDestroy r s) :=
  Only.via hp h (by
    unfold instDestroy
    repeat' first
      | (with_reducible assumption)
      | (with_reducible refine replyRefused_only _ _ _ ?_ (by decide))
      | (with_reducible refine updInstance_only _ _ _ ?_ (by decide))
      | (with_reducible refine replyPending_only _ _ ?_ (by decide))
      | (with_reducible refine only_getD ?_ ?_)
      | (intro)
      | (extract_lets +onlyGivenNames s1; refine only_cut s1 ?_ ?_; unfold s1; clear s1; rotate_left; intro hs1; clear_value s1; rotate_right)
      | (extract_lets +onlyGivenNames v1)
      | (split)
      | (with_reducible exact only_refl _ _))

theorem destroyDone_only {ps : List Part} {s0 : State} (n : Nat) (s : State)
    (h : Only ps s0 s) (hp : [.mbx, .host, .zone, .media, .inst, .prot, .emit] ⊆ ps) : Only ps s0 (destroyDone n s) :=
  Only.via hp h (by
    unfold destroyDone
    repeat' first
      | (with_reducible assumption)
      | (with_reducible refine removeNs_only _ _ ?_ (by decide))
      | (with_reducible refine rewrapKeys_only _ ?_ (by decide))
      | (with_reducible refine emptySlot_only _ _ ?_ (by decide))
      | (with_reducible refine updItems_only _ _ ?_ (by decide))
      | (with_reducible refine replyPend_only _ _ _ _ _ ?_ (by decide))
      | (with_reducible refine updInst_only _ _ ?_ (by decide))
      | (with_reducible refine updMedia_only _ _ ?_ (by decide))
      | (with_reducible refine only_when _ _ ?_ ?_)
      | (with_reducible refine only_forEach _ _ _ ?_ ?_)
      | (intro)
      | (extract_lets +onlyGivenNames s1; refine only_cut s1 ?_ ?_; unfold s1; clear s1; rotate_left; intro hs1; clear_value s1; rotate_right)
      | (extract_lets +onlyGivenNames v1)
      | (split)
      | (with_reducible exact only_refl _ _)
      | (refine only_host _ ?_ (by decide)))

theorem instSanitise_only {ps : List Part} {s0 : State} (r : Posted) (s : State)
    (h : Only ps s0 s) (hp : [.mbx, .inst, .emit] ⊆ ps) : Only ps s0 (instSanitise r s) :=
  Only.via hp h (by
    unfold instSanitise
    repeat' first
      | (with_reducible assumption)
      | (with_reducible refine replyRefused_only _ _ _ ?_ (by decide))
      | (with_reducible refine replyBusy_only _ _ ?_ (by decide))
      | (with_reducible refine replyPending_only _ _ ?_ (by decide))
      | (with_reducible refine updInstance_only _ _ _ ?_ (by decide))
      | (intro)
      | (extract_lets +onlyGivenNames s1; refine only_cut s1 ?_ ?_; unfold s1; clear s1; rotate_left; intro hs1; clear_value s1; rotate_right)
      | (extract_lets +onlyGivenNames v1)
      | (split)
      | (with_reducible exact only_refl _ _))

theorem sanitiseStart_only {ps : List Part} {s0 : State} (n : Nat) (s : State)
    (h : Only ps s0 s) (hp : [.zone, .media, .inst, .prot] ⊆ ps) : Only ps s0 (sanitiseStart n s) :=
  Only.via hp h (by
    unfold sanitiseStart
    repeat' first
      | (with_reducible assumption)
      | (with_reducible refine updInstance_only _ _ _ ?_ (by decide))
      | (with_reducible refine renewSlot_only _ _ ?_ (by decide))
      | (with_reducible refine rewrapKeys_only _ ?_ (by decide))
      | (with_reducible refine updNs_only _ _ _ ?_ (by decide))
      | (with_reducible refine only_when _ _ ?_ ?_)
      | (with_reducible refine only_forEach _ _ _ ?_ ?_)
      | (intro)
      | (extract_lets +onlyGivenNames s1; refine only_cut s1 ?_ ?_; unfold s1; clear s1; rotate_left; intro hs1; clear_value s1; rotate_right)
      | (extract_lets +onlyGivenNames v1)
      | (split)
      | (with_reducible exact only_refl _ _))

theorem sanitiseDone_only {ps : List Part} {s0 : State} (n : Nat) (s : State)
    (h : Only ps s0 s) (hp : [.mbx, .zone, .inst, .emit] ⊆ ps) : Only ps s0 (sanitiseDone n s) :=
  Only.via hp h (by
    unfold sanitiseDone
    repeat' first
      | (with_reducible assumption)
      | (with_reducible refine updNs_only _ _ _ ?_ (by decide))
      | (with_reducible refine replyPend_only _ _ _ _ _ ?_ (by decide))
      | (with_reducible refine updInstance_only _ _ _ ?_ (by decide))
      | (with_reducible refine only_forEach _ _ _ ?_ ?_)
      | (intro)
      | (extract_lets +onlyGivenNames s1; refine only_cut s1 ?_ ?_; unfold s1; clear s1; rotate_left; intro hs1; clear_value s1; rotate_right)
      | (extract_lets +onlyGivenNames v1)
      | (split)
      | (with_reducible exact only_refl _ _))

theorem instQuery_only {ps : List Part} {s0 : State} (r : Posted) (s : State)
    (h : Only ps s0 s) (hp : [.mbx, .emit] ⊆ ps) : Only ps s0 (instQuery r s) :=
  Only.via hp h (by
    unfold instQuery
    repeat' first
      | (with_reducible assumption)
      | (with_reducible refine replyOk_only _ _ _ ?_ (by decide))
      | (intro)
      | (extract_lets +onlyGivenNames s1; refine only_cut s1 ?_ ?_; unfold s1; clear s1; rotate_left; intro hs1; clear_value s1; rotate_right)
      | (extract_lets +onlyGivenNames v1)
      | (split)
      | (with_reducible exact only_refl _ _))

end Sys2Proof.Machine
end

