-- ==== Sys2Proof/Laws/Only/Metering.lean ====
section
/-! SUPPORT. Which groups of state each operation of Machine/Metering.lean can change. -/

set_option linter.tactic.unusedName false

namespace Sys2Proof.Machine

theorem meterSample_only {ps : List Part} {s0 : State}  (s : State)
    (h : Only ps s0 s) (hp : [.inst] ⊆ ps) : Only ps s0 (meterSample s) :=
  Only.via hp h (by
    unfold meterSample
    repeat' first
      | (with_reducible assumption)
      | (with_reducible refine updInst_only _ _ ?_ (by decide))
      | (intro)
      | (with_reducible exact only_refl _ _))

theorem noteMeters_only {ps : List Part} {s0 : State}  (s : State)
    (h : Only ps s0 s) (hp : [.inst] ⊆ ps) : Only ps s0 (noteMeters s) :=
  Only.via hp h (by
    unfold noteMeters
    repeat' first
      | (with_reducible assumption)
      | (with_reducible refine updInst_only _ _ ?_ (by decide))
      | (intro)
      | (with_reducible exact only_refl _ _))

theorem meterPassed_only {ps : List Part} {s0 : State} (k : Nat) (s : State)
    (h : Only ps s0 s) (hp : [.inst] ⊆ ps) : Only ps s0 (meterPassed k s) :=
  Only.via hp h (by
    unfold meterPassed
    repeat' first
      | (with_reducible assumption)
      | (with_reducible refine updInst_only _ _ ?_ (by decide))
      | (intro)
      | (extract_lets +onlyGivenNames s1; refine only_cut s1 ?_ ?_; unfold s1; clear s1; rotate_left; intro hs1; clear_value s1; rotate_right)
      | (extract_lets +onlyGivenNames k1; have _ck := fun x => (k1 x : State → State); clear _ck)
      | (extract_lets +onlyGivenNames k1; have _ck := fun x => (k1 x : State); clear _ck)
      | (extract_lets +onlyGivenNames v1)
      | (with_reducible exact only_refl _ _)
      | (dsimp only [k1]))

theorem freezePlacement_only {ps : List Part} {s0 : State}  (s : State)
    (h : Only ps s0 s) (hp : [.media, .flash] ⊆ ps) : Only ps s0 (freezePlacement s) :=
  Only.via hp h (by
    unfold freezePlacement
    repeat' first
      | (with_reducible assumption)
      | (with_reducible refine updMedia_only _ _ ?_ (by decide))
      | (with_reducible refine updFlash_only _ _ ?_ (by decide))
      | (intro)
      | (extract_lets +onlyGivenNames s1; refine only_cut s1 ?_ ?_; unfold s1; clear s1; rotate_left; intro hs1; clear_value s1; rotate_right)
      | (extract_lets +onlyGivenNames v1)
      | (with_reducible exact only_refl _ _))

theorem freezeSlips_only {ps : List Part} {s0 : State}  (s : State)
    (h : Only ps s0 s) (hp : [.frame, .mbx] ⊆ ps) : Only ps s0 (freezeSlips s) :=
  Only.via hp h (by
    unfold freezeSlips
    repeat' first
      | (with_reducible assumption)
      | (with_reducible refine updFrame_only _ _ ?_ (by decide))
      | (with_reducible refine boardWrite_only _ _ _ ?_ (by decide))
      | (intro)
      | (extract_lets +onlyGivenNames s1; refine only_cut s1 ?_ ?_; unfold s1; clear s1; rotate_left; intro hs1; clear_value s1; rotate_right)
      | (extract_lets +onlyGivenNames v1)
      | (with_reducible exact only_refl _ _))

theorem commitAges_only {ps : List Part} {s0 : State}  (s : State)
    (h : Only ps s0 s) (hp : [.media] ⊆ ps) : Only ps s0 (commitAges s) :=
  Only.via hp h (by
    unfold commitAges
    repeat' first
      | (with_reducible assumption)
      | (with_reducible refine updMedia_only _ _ ?_ (by decide))
      | (intro)
      | (extract_lets +onlyGivenNames s1; refine only_cut s1 ?_ ?_; unfold s1; clear s1; rotate_left; intro hs1; clear_value s1; rotate_right)
      | (extract_lets +onlyGivenNames v1)
      | (with_reducible exact only_refl _ _))

theorem freezeMinute_only {ps : List Part} {s0 : State} (extra : MFlags) (at_ : Nat) (s : State)
    (h : Only ps s0 s) (hp : [.frame, .mbx, .media, .flash, .inst] ⊆ ps) : Only ps s0 (freezeMinute extra at_ s) :=
  Only.via hp h (by
    unfold freezeMinute
    repeat' first
      | (with_reducible assumption)
      | (with_reducible refine updInst_only _ _ ?_ (by decide))
      | (with_reducible refine commitAges_only _ ?_ (by decide))
      | (with_reducible refine freezeSlips_only _ ?_ (by decide))
      | (with_reducible refine freezePlacement_only _ ?_ (by decide))
      | (intro)
      | (extract_lets +onlyGivenNames s1; refine only_cut s1 ?_ ?_; unfold s1; clear s1; rotate_left; intro hs1; clear_value s1; rotate_right)
      | (extract_lets +onlyGivenNames k1; have _ck := fun x => (k1 x : State → State); clear _ck)
      | (extract_lets +onlyGivenNames k1; have _ck := fun x => (k1 x : State); clear _ck)
      | (extract_lets +onlyGivenNames v1)
      | (split)
      | (with_reducible exact only_refl _ _)
      | (dsimp only [k1]))

theorem dropGone_only {ps : List Part} {s0 : State}  (s : State)
    (h : Only ps s0 s) (hp : [.inst] ⊆ ps) : Only ps s0 (dropGone s) :=
  Only.via hp h (by
    unfold dropGone
    repeat' first
      | (with_reducible assumption)
      | (with_reducible refine updInst_only _ _ ?_ (by decide))
      | (intro)
      | (extract_lets +onlyGivenNames s1; refine only_cut s1 ?_ ?_; unfold s1; clear s1; rotate_left; intro hs1; clear_value s1; rotate_right)
      | (extract_lets +onlyGivenNames k1; have _ck := fun x => (k1 x : State → State); clear _ck)
      | (extract_lets +onlyGivenNames k1; have _ck := fun x => (k1 x : State); clear _ck)
      | (extract_lets +onlyGivenNames v1)
      | (with_reducible exact only_refl _ _)
      | (dsimp only [k1]))

theorem minuteEnd_only {ps : List Part} {s0 : State} (cut : Bool) (s : State)
    (h : Only ps s0 s) (hp : [.frame, .mbx, .media, .flash, .inst] ⊆ ps) : Only ps s0 (minuteEnd cut s) :=
  Only.via hp h (by
    unfold minuteEnd
    repeat' first
      | (with_reducible assumption)
      | (with_reducible refine freezeMinute_only _ _ _ ?_ (by decide))
      | (intro)
      | (split)
      | (with_reducible exact only_refl _ _))

theorem passMinutes_only {ps : List Part} {s0 : State} (x0 : Nat) (x1 : Nat) (x2 : Nat) (s : State)
    (h : Only ps s0 s) (hp : [.frame, .mbx, .media, .flash, .inst] ⊆ ps) : Only ps s0 (passMinutes x0 x1 x2 s) :=
  Only.via hp h (by
    clear h hp
    fun_induction passMinutes
    repeat' first
      | (with_reducible assumption)
      | (with_reducible refine meterPassed_only _ _ ?_ (by decide))
      | (with_reducible refine freezeMinute_only _ _ _ ?_ (by decide))
      | (with_reducible refine Only.trans ?_ (by with_reducible assumption))
      | (intro)
      | (extract_lets +onlyGivenNames s1; refine only_cut s1 ?_ ?_; unfold s1; clear s1; rotate_left; intro hs1; clear_value s1; rotate_right)
      | (extract_lets +onlyGivenNames v1)
      | (split)
      | (with_reducible exact only_refl _ _))

theorem writeBatch_only {ps : List Part} {s0 : State} (g : Ring) (b : List MRec) (s : State)
    (h : Only ps s0 s) (hp : [.mbx, .inst, .emit] ⊆ ps) : Only ps s0 (writeBatch g b s) :=
  Only.via hp h (by
    unfold writeBatch
    repeat' first
      | (with_reducible assumption)
      | (with_reducible refine sends_only _ _ ?_ (by decide))
      | (with_reducible refine updInst_only _ _ ?_ (by decide))
      | (with_reducible refine boardWrite_only _ _ _ ?_ (by decide))
      | (with_reducible refine only_foldl _ _ _ ?_ ?_)
      | (intro)
      | (extract_lets +onlyGivenNames s1; refine only_cut s1 ?_ ?_; unfold s1; clear s1; rotate_left; intro hs1; clear_value s1; rotate_right)
      | (extract_lets +onlyGivenNames v1)
      | (split)
      | (with_reducible exact only_refl _ _))

theorem writeBatches_only {ps : List Part} {s0 : State} (cons : Nat) (x1 : Nat) (s : State)
    (h : Only ps s0 s) (hp : [.mbx, .inst, .emit] ⊆ ps) : Only ps s0 (writeBatches cons x1 s) :=
  Only.via hp h (by
    clear h hp
    fun_induction writeBatches
    repeat' first
      | (with_reducible assumption)
      | (with_reducible refine writeBatch_only _ _ _ ?_ (by decide))
      | (with_reducible refine Only.trans ?_ (by with_reducible assumption))
      | (intro)
      | (split)
      | (with_reducible exact only_refl _ _))

theorem tryBatches_only {ps : List Part} {s0 : State} (cons : Nat) (dmaOk : Bool) (s : State)
    (h : Only ps s0 s) (hp : [.mbx, .inst, .recd, .emit] ⊆ ps) : Only ps s0 (tryBatches cons dmaOk s) :=
  Only.via hp h (by
    unfold tryBatches
    repeat' first
      | (with_reducible assumption)
      | (with_reducible refine dropGone_only _ ?_ (by decide))
      | (with_reducible refine writeBatches_only _ _ _ ?_ (by decide))
      | (with_reducible refine recEvent_only _ _ ?_ (by decide))
      | (intro)
      | (split)
      | (with_reducible exact only_refl _ _))

theorem batchWrite_only {ps : List Part} {s0 : State} (cons : Nat) (dmaOk : Bool) (s : State)
    (h : Only ps s0 s) (hp : [.mbx, .inst, .recd, .emit] ⊆ ps) : Only ps s0 (batchWrite cons dmaOk s) :=
  Only.via hp h (by
    unfold batchWrite
    repeat' first
      | (with_reducible assumption)
      | (with_reducible refine tryBatches_only _ _ _ ?_ (by decide))
      | (with_reducible refine updInst_only _ _ ?_ (by decide))
      | (intro)
      | (extract_lets +onlyGivenNames s1; refine only_cut s1 ?_ ?_; unfold s1; clear s1; rotate_left; intro hs1; clear_value s1; rotate_right)
      | (extract_lets +onlyGivenNames v1)
      | (split)
      | (with_reducible exact only_refl _ _))

theorem meterRetry_only {ps : List Part} {s0 : State} (cons : Nat) (dmaOk : Bool) (s : State)
    (h : Only ps s0 s) (hp : [.mbx, .inst, .recd, .emit] ⊆ ps) : Only ps s0 (meterRetry cons dmaOk s) :=
  Only.via hp h (by
    unfold meterRetry
    repeat' first
      | (with_reducible assumption)
      | (with_reducible refine tryBatches_only _ _ _ ?_ (by decide))
      | (with_reducible refine updInst_only _ _ ?_ (by decide))
      | (intro)
      | (extract_lets +onlyGivenNames s1; refine only_cut s1 ?_ ?_; unfold s1; clear s1; rotate_left; intro hs1; clear_value s1; rotate_right)
      | (extract_lets +onlyGivenNames v1)
      | (split)
      | (with_reducible exact only_refl _ _))

theorem ringSet_only {ps : List Part} {s0 : State} (r : Posted) (s : State)
    (h : Only ps s0 s) (hp : [.mbx, .inst, .emit] ⊆ ps) : Only ps s0 (ringSet r s) :=
  Only.via hp h (by
    unfold ringSet
    repeat' first
      | (with_reducible assumption)
      | (with_reducible refine replyOk_only _ _ _ ?_ (by decide))
      | (with_reducible refine updInst_only _ _ ?_ (by decide))
      | (intro)
      | (extract_lets +onlyGivenNames s1; refine only_cut s1 ?_ ?_; unfold s1; clear s1; rotate_left; intro hs1; clear_value s1; rotate_right)
      | (extract_lets +onlyGivenNames v1)
      | (with_reducible exact only_refl _ _))

theorem meterRead_only {ps : List Part} {s0 : State} (r : Posted) (s : State)
    (h : Only ps s0 s) (hp : [.mbx, .emit] ⊆ ps) : Only ps s0 (meterRead r s) :=
  Only.via hp h (by
    unfold meterRead
    repeat' first
      | (with_reducible assumption)
      | (with_reducible refine replyRefused_only _ _ _ ?_ (by decide))
      | (with_reducible refine replyOk_only _ _ _ ?_ (by decide))
      | (intro)
      | (extract_lets +onlyGivenNames s1; refine only_cut s1 ?_ ?_; unfold s1; clear s1; rotate_left; intro hs1; clear_value s1; rotate_right)
      | (extract_lets +onlyGivenNames v1)
      | (split)
      | (with_reducible exact only_refl _ _))

end Sys2Proof.Machine
end

