-- ==== Sys2Proof/Laws/Only/NsMgmt.lean ====
section
/-! SUPPORT. Which groups of state each operation of Machine/NsMgmt.lean can change. -/

set_option linter.tactic.unusedName false

namespace Sys2Proof.Machine

theorem nsCreate_only {ps : List Part} {s0 : State} (it : Item) (b : List Byte) (s : State)
    (h : Only ps s0 s) (hp : [.frame, .host, .zone, .flash, .inst, .prot, .recd, .emit] ⊆ ps) : Only ps s0 (nsCreate it b s) :=
  Only.via hp h (by
    unfold nsCreate
    repeat' first
      | (with_reducible assumption)
      | (with_reducible refine finishBad_only _ _ _ ?_ (by decide))
      | (with_reducible refine createNs_only _ _ _ _ ?_ (by decide))
      | (with_reducible refine createNs_only2 _ _ _ _ ?_ (by decide) (by assumption))
      | (with_reducible refine finish_only _ _ _ _ _ ?_ (by decide))
      | (intro)
      | (extract_lets +onlyGivenNames s1; refine only_cut s1 ?_ ?_; unfold s1; clear s1; rotate_left; intro hs1; clear_value s1; rotate_right)
      | (extract_lets +onlyGivenNames v1)
      | (split)
      | (with_reducible exact only_refl _ _))

theorem stopNsIo_only {ps : List Part} {s0 : State} (n : Ns) (s : State)
    (h : Only ps s0 s) (hp : [.frame, .host, .media, .flash, .inst, .recd, .emit] ⊆ ps) : Only ps s0 (stopNsIo n s) :=
  Only.via hp h (by
    unfold stopNsIo
    repeat' first
      | (with_reducible assumption)
      | (with_reducible refine discardLanded_only _ _ ?_ (by decide))
      | (with_reducible refine latch_only _ _ _ _ _ ?_ (by decide))
      | (with_reducible refine dropReads_only _ _ ?_ (by decide))
      | (with_reducible refine postItem_only _ _ ?_ (by decide))
      | (with_reducible refine only_forEach _ _ _ ?_ ?_)
      | (intro)
      | (extract_lets +onlyGivenNames s1; refine only_cut s1 ?_ ?_; unfold s1; clear s1; rotate_left; intro hs1; clear_value s1; rotate_right)
      | (extract_lets +onlyGivenNames v1)
      | (split)
      | (with_reducible exact only_refl _ _))

theorem nsDelete_only {ps : List Part} {s0 : State} (items : List Nat) (x : Nat) (n : Ns) (s : State)
    (h : Only ps s0 s) (hp : [.frame, .host, .zone, .media, .flash, .inst, .recd, .emit] ⊆ ps) : Only ps s0 (nsDelete items x n s) :=
  Only.via hp h (by
    unfold nsDelete
    repeat' first
      | (with_reducible assumption)
      | (with_reducible refine stopNsIo_only _ _ ?_ (by decide))
      | (with_reducible refine updZone_only _ _ ?_ (by decide))
      | (with_reducible refine emptyZone_only _ _ ?_ (by decide))
      | (with_reducible refine unmapUnits_only _ _ _ _ ?_ (by decide))
      | (with_reducible refine closeEarly_only _ _ ?_ (by decide))
      | (with_reducible refine notifyNs_only _ _ _ ?_ (by decide))
      | (with_reducible refine removeNs_only _ _ ?_ (by decide))
      | (with_reducible refine submit_only _ _ ?_ (by decide))
      | (with_reducible refine submitZones_only _ _ _ _ _ ?_ (by decide))
      | (with_reducible refine only_forEach _ _ _ ?_ ?_)
      | (intro)
      | (extract_lets +onlyGivenNames s1; refine only_cut s1 ?_ ?_; unfold s1; clear s1; rotate_left; intro hs1; clear_value s1; rotate_right)
      | (extract_lets +onlyGivenNames v1)
      | (split)
      | (with_reducible exact only_refl _ _))

theorem nsManagement_only {ps : List Part} {s0 : State} (dma : Dma) (it : Item) (s : State)
    (h : Only ps s0 s) (hp : [.frame, .host, .zone, .media, .flash, .inst, .prot, .recd, .emit] ⊆ ps) : Only ps s0 (nsManagement dma it s) :=
  Only.via hp h (by
    unfold nsManagement
    repeat' first
      | (with_reducible assumption)
      | (with_reducible refine finishBad_only _ _ _ ?_ (by decide))
      | (with_reducible refine nsCreate_only _ _ _ ?_ (by decide))
      | (with_reducible refine updItem_only _ _ _ ?_ (by decide))
      | (with_reducible refine nsDelete_only _ _ _ _ ?_ (by decide))
      | (with_reducible refine finishOk_only _ _ ?_ (by decide))
      | (with_reducible refine only_forEach _ _ _ ?_ ?_)
      | (intro)
      | (extract_lets +onlyGivenNames s1; refine only_cut s1 ?_ ?_; unfold s1; clear s1; rotate_left; intro hs1; clear_value s1; rotate_right)
      | (extract_lets +onlyGivenNames k1; have _ck := fun x => (k1 x : State → State); clear _ck)
      | (extract_lets +onlyGivenNames k1; have _ck := fun x => (k1 x : State); clear _ck)
      | (extract_lets +onlyGivenNames v1)
      | (split)
      | (with_reducible exact only_refl _ _)
      | (dsimp only [k1]))

theorem nsAttachment_only {ps : List Part} {s0 : State} (dma : Dma) (it : Item) (s : State)
    (h : Only ps s0 s) (hp : [.frame, .host, .zone, .media, .flash, .inst, .recd, .emit] ⊆ ps) : Only ps s0 (nsAttachment dma it s) :=
  Only.via hp h (by
    unfold nsAttachment
    repeat' first
      | (with_reducible assumption)
      | (with_reducible refine finishBad_only _ _ _ ?_ (by decide))
      | (with_reducible refine stopNsIo_only _ _ ?_ (by decide))
      | (with_reducible refine finishOk_only _ _ ?_ (by decide))
      | (with_reducible refine notifyNs_only _ _ _ ?_ (by decide))
      | (with_reducible refine updNs_only _ _ _ ?_ (by decide))
      | (with_reducible refine only_when _ _ ?_ ?_)
      | (intro)
      | (extract_lets +onlyGivenNames s1; refine only_cut s1 ?_ ?_; unfold s1; clear s1; rotate_left; intro hs1; clear_value s1; rotate_right)
      | (extract_lets +onlyGivenNames v1)
      | (split)
      | (with_reducible exact only_refl _ _))

end Sys2Proof.Machine
end

