-- ==== Sys2Proof/Laws/Only/Recorder.lean ====
section
/-! SUPPORT. Which groups of state each operation of Machine/Recorder.lean can change. -/

set_option linter.tactic.unusedName false

namespace Sys2Proof.Machine

theorem updRecd_only {ps : List Part} {s0 : State} (x0 : RecSt → RecSt) (s : State)
    (h : Only ps s0 s) (hp : [.recd] ⊆ ps) : Only ps s0 (updRecd x0 s) :=
  Only.via hp h (by
    unfold updRecd
    repeat' first
      | (with_reducible assumption)
      | (intro)
      | (with_reducible exact only_refl _ _)
      | (refine only_recd _ ?_ (by decide)))

theorem openRecord_only {ps : List Part} {s0 : State} (first : Nat) (s : State)
    (h : Only ps s0 s) (hp : [.recd] ⊆ ps) : Only ps s0 (openRecord first s) :=
  Only.via hp h (by
    unfold openRecord
    repeat' first
      | (with_reducible assumption)
      | (with_reducible refine updRecd_only _ _ ?_ (by decide))
      | (intro)
      | (extract_lets +onlyGivenNames s1; refine only_cut s1 ?_ ?_; unfold s1; clear s1; rotate_left; intro hs1; clear_value s1; rotate_right)
      | (extract_lets +onlyGivenNames v1)
      | (with_reducible exact only_refl _ _))

theorem closeRecord_only {ps : List Part} {s0 : State} (last : Nat) (mark : RFlags → RFlags) (s : State)
    (h : Only ps s0 s) (hp : [.mbx, .media, .recd] ⊆ ps) : Only ps s0 (closeRecord last mark s) :=
  Only.via hp h (by
    unfold closeRecord
    repeat' first
      | (with_reducible assumption)
      | (with_reducible refine boardWrite_only _ _ _ ?_ (by decide))
      | (with_reducible refine updMedia_only _ _ ?_ (by decide))
      | (with_reducible refine updRecd_only _ _ ?_ (by decide))
      | (intro)
      | (extract_lets +onlyGivenNames s1; refine only_cut s1 ?_ ?_; unfold s1; clear s1; rotate_left; intro hs1; clear_value s1; rotate_right)
      | (extract_lets +onlyGivenNames v1)
      | (with_reducible exact only_refl _ _))

theorem periodEnd_only {ps : List Part} {s0 : State} (cut : Bool) (last : Nat) (s : State)
    (h : Only ps s0 s) (hp : [.mbx, .media, .recd] ⊆ ps) : Only ps s0 (periodEnd cut last s) :=
  Only.via hp h (by
    unfold periodEnd
    repeat' first
      | (with_reducible assumption)
      | (with_reducible refine updRec_only _ _ ?_ (by decide))
      | (with_reducible refine openRecord_only _ _ ?_ (by decide))
      | (with_reducible refine closeRecord_only _ _ _ ?_ (by decide))
      | (intro)
      | (split)
      | (with_reducible exact only_refl _ _))

theorem passPeriods_only {ps : List Part} {s0 : State} (upto : Nat) (s : State)
    (h : Only ps s0 s) (hp : [.mbx, .media, .recd] ⊆ ps) : Only ps s0 (passPeriods upto s) :=
  Only.via hp h (by
    unfold passPeriods
    repeat' first
      | (with_reducible assumption)
      | (with_reducible refine updRec_only _ _ ?_ (by decide))
      | (with_reducible refine closeRecord_only _ _ _ ?_ (by decide))
      | (with_reducible refine openRecord_only _ _ ?_ (by decide))
      | (intro)
      | (extract_lets +onlyGivenNames s1; refine only_cut s1 ?_ ?_; unfold s1; clear s1; rotate_left; intro hs1; clear_value s1; rotate_right)
      | (extract_lets +onlyGivenNames v1)
      | (split)
      | (with_reducible exact only_refl _ _))

theorem writeBuffer_only {ps : List Part} {s0 : State}  (s : State)
    (h : Only ps s0 s) (hp : [.recd] ⊆ ps) : Only ps s0 (writeBuffer s) :=
  Only.via hp h (by
    unfold writeBuffer
    repeat' first
      | (with_reducible assumption)
      | (with_reducible refine updRecd_only _ _ ?_ (by decide))
      | (with_reducible refine only_foldl _ _ _ ?_ ?_)
      | (intro)
      | (with_reducible exact only_refl _ _))

theorem descWriteFinal_only {ps : List Part} {s0 : State} (r : Posted) (dma : Dma) (out : List Byte) (x3 : State → State) (s : State)
    (h : Only ps s0 s) (hf0 : ∀ t, Only ps s0 t → Only ps s0 (x3 t)) (hp : [.mbx, .inst, .prot, .ecc, .emit] ⊆ ps) :
    Only ps s0 (descWriteFinal r dma out x3 s) := by
  unfold descWriteFinal
  repeat' first
    | (with_reducible assumption)
    | (with_reducible refine hf0 _ ?_)
    | (with_reducible refine descDma_only _ _ _ _ _ _ ?_ ?_ ?_ (List.Subset.trans (by decide) hp))
    | (with_reducible refine finalReply_only _ _ _ _ _ ?_ (List.Subset.trans (by decide) hp))
    | (intro)
    | (with_reducible exact only_refl _ _)

theorem recRead_only {ps : List Part} {s0 : State} (dma : Dma) (finds : List LineFind) (r : Posted) (s : State)
    (h : Only ps s0 s) (hp : [.frame, .mbx, .host, .media, .inst, .prot, .ecc, .fw, .therm, .pins, .recd, .emit, .free] ⊆ ps) : Only ps s0 (recRead dma finds r s) :=
  Only.via hp h (by
    unfold recRead
    repeat' first
      | (with_reducible assumption)
      | (with_reducible refine readLines_only _ _ ?_ (by decide))
      | (with_reducible refine drawNat_only ?_ (by decide))
      | (with_reducible refine drawNat_only2 ?_ (by decide) (by assumption))
      | (with_reducible refine descWriteFinal_only _ _ _ _ _ ?_ ?_ (by decide))
      | (with_reducible refine finalReply_only _ _ _ _ _ ?_ (by decide))
      | (with_reducible refine replyPending_only _ _ ?_ (by decide))
      | (intro)
      | (extract_lets +onlyGivenNames s1; refine only_cut s1 ?_ ?_; unfold s1; clear s1; rotate_left; intro hs1; clear_value s1; rotate_right)
      | (extract_lets +onlyGivenNames v1)
      | (split)
      | (with_reducible exact only_refl _ _))

end Sys2Proof.Machine
end

