-- ==== Sys2Proof/Laws/Only/Power.lean ====
section
/-! SUPPORT. Which groups of state each operation of Machine/Power.lean can change. -/

set_option linter.tactic.unusedName false

namespace Sys2Proof.Machine

theorem refuseEntry_only {ps : List Part} {s0 : State} (target : Nat) (code : Nat) (abort : Bool) (item : Option Nat) (s : State)
    (h : Only ps s0 s) (hp : [.frame, .host, .inst, .power, .recd, .emit] ⊆ ps) : Only ps s0 (refuseEntry target code abort item s) :=
  Only.via hp h (by
    unfold refuseEntry
    repeat' first
      | (with_reducible assumption)
      | (with_reducible refine updPower_only _ _ ?_ (by decide))
      | (with_reducible refine updRec_only _ _ ?_ (by decide))
      | (with_reducible refine finish_only _ _ _ _ _ ?_ (by decide))
      | (intro)
      | (extract_lets +onlyGivenNames s1; refine only_cut s1 ?_ ?_; unfold s1; clear s1; rotate_left; intro hs1; clear_value s1; rotate_right)
      | (extract_lets +onlyGivenNames v1)
      | (split)
      | (with_reducible exact only_refl _ _))

theorem beginEntry_only {ps : List Part} {s0 : State} (target : Nat) (item : Option Nat) (s : State)
    (h : Only ps s0 s) (hp : [.frame, .host, .zone, .media, .flash, .inst, .power, .therm, .pins, .recd, .emit] ⊆ ps) : Only ps s0 (beginEntry target item s) :=
  Only.via hp h (by
    unfold beginEntry
    repeat' first
      | (with_reducible assumption)
      | (with_reducible refine refuseEntry_only _ _ _ _ _ ?_ (by decide))
      | (with_reducible refine updPower_only _ _ ?_ (by decide))
      | (intro)
      | (extract_lets +onlyGivenNames s1; refine only_cut s1 ?_ ?_; unfold s1; clear s1; rotate_left; intro hs1; clear_value s1; rotate_right)
      | (extract_lets +onlyGivenNames v1)
      | (split)
      | (with_reducible exact only_refl _ _))

theorem setPs_only {ps : List Part} {s0 : State} (x0 : Nat) (s : State)
    (h : Only ps s0 s) (hp : [.power] ⊆ ps) : Only ps s0 (setPs x0 s) :=
  Only.via hp h (by
    unfold setPs
    repeat' first
      | (with_reducible assumption)
      | (with_reducible refine updPower_only _ _ ?_ (by decide))
      | (intro)
      | (split)
      | (with_reducible exact only_refl _ _))

theorem applyPs_only {ps : List Part} {s0 : State} (r : Nat × Nat) (s : State)
    (h : Only ps s0 s) (hp : [.frame, .host, .zone, .media, .flash, .inst, .power, .therm, .pins, .recd, .emit] ⊆ ps) : Only ps s0 (applyPs r s) :=
  Only.via hp h (by
    unfold applyPs
    repeat' first
      | (with_reducible assumption)
      | (with_reducible refine updPower_only _ _ ?_ (by decide))
      | (with_reducible refine finishOk_only _ _ ?_ (by decide))
      | (with_reducible refine setPs_only _ _ ?_ (by decide))
      | (with_reducible refine beginEntry_only _ _ _ ?_ (by decide))
      | (intro)
      | (extract_lets +onlyGivenNames s1; refine only_cut s1 ?_ ?_; unfold s1; clear s1; rotate_left; intro hs1; clear_value s1; rotate_right)
      | (extract_lets +onlyGivenNames k1; have _ck := fun x => (k1 x : State → State); clear _ck)
      | (extract_lets +onlyGivenNames k1; have _ck := fun x => (k1 x : State); clear _ck)
      | (extract_lets +onlyGivenNames v1)
      | (split)
      | (with_reducible exact only_refl _ _)
      | (dsimp only [k1]))

theorem applyPsDue_only {ps : List Part} {s0 : State}  (s : State)
    (h : Only ps s0 s) (hp : [.frame, .host, .zone, .media, .flash, .inst, .power, .therm, .pins, .recd, .emit] ⊆ ps) : Only ps s0 (applyPsDue s) :=
  Only.via hp h (by
    unfold applyPsDue
    repeat' first
      | (with_reducible assumption)
      | (with_reducible refine applyPs_only _ _ ?_ (by decide))
      | (with_reducible refine updPower_only _ _ ?_ (by decide))
      | (with_reducible refine only_forEach _ _ _ ?_ ?_)
      | (intro)
      | (extract_lets +onlyGivenNames s1; refine only_cut s1 ?_ ?_; unfold s1; clear s1; rotate_left; intro hs1; clear_value s1; rotate_right)
      | (extract_lets +onlyGivenNames v1)
      | (with_reducible exact only_refl _ _))

theorem setPowerManagement_only {ps : List Part} {s0 : State} (it : Item) (s : State)
    (h : Only ps s0 s) (hp : [.frame, .host, .inst, .power, .recd, .emit] ⊆ ps) : Only ps s0 (setPowerManagement it s) :=
  Only.via hp h (by
    unfold setPowerManagement
    repeat' first
      | (with_reducible assumption)
      | (with_reducible refine finishBad_only _ _ _ ?_ (by decide))
      | (with_reducible refine finishOk_only _ _ ?_ (by decide))
      | (with_reducible refine updPower_only _ _ ?_ (by decide))
      | (intro)
      | (extract_lets +onlyGivenNames s1; refine only_cut s1 ?_ ?_; unfold s1; clear s1; rotate_left; intro hs1; clear_value s1; rotate_right)
      | (extract_lets +onlyGivenNames v1)
      | (split)
      | (with_reducible exact only_refl _ _))

theorem setApst_only {ps : List Part} {s0 : State} (dma : Dma) (it : Item) (s : State)
    (h : Only ps s0 s) (hp : [.frame, .host, .inst, .power, .recd, .emit] ⊆ ps) : Only ps s0 (setApst dma it s) :=
  Only.via hp h (by
    unfold setApst
    repeat' first
      | (with_reducible assumption)
      | (with_reducible refine finishBad_only _ _ _ ?_ (by decide))
      | (with_reducible refine finishOk_only _ _ ?_ (by decide))
      | (with_reducible refine updPower_only _ _ ?_ (by decide))
      | (intro)
      | (extract_lets +onlyGivenNames s1; refine only_cut s1 ?_ ?_; unfold s1; clear s1; rotate_left; intro hs1; clear_value s1; rotate_right)
      | (extract_lets +onlyGivenNames v1)
      | (split)
      | (with_reducible exact only_refl _ _))

theorem idleTick_only {ps : List Part} {s0 : State}  (s : State)
    (h : Only ps s0 s) (hp : [.power] ⊆ ps) : Only ps s0 (idleTick s) :=
  Only.via hp h (by
    unfold idleTick
    repeat' first
      | (with_reducible assumption)
      | (with_reducible refine updPower_only _ _ ?_ (by decide))
      | (with_reducible refine only_getD ?_ ?_)
      | (intro)
      | (extract_lets +onlyGivenNames s1; refine only_cut s1 ?_ ?_; unfold s1; clear s1; rotate_left; intro hs1; clear_value s1; rotate_right)
      | (extract_lets +onlyGivenNames v1)
      | (split)
      | (with_reducible exact only_refl _ _))

theorem idleExpiry_only {ps : List Part} {s0 : State}  (s : State)
    (h : Only ps s0 s) (hp : [.frame, .host, .zone, .media, .flash, .inst, .power, .therm, .pins, .recd, .emit] ⊆ ps) : Only ps s0 (idleExpiry s) :=
  Only.via hp h (by
    unfold idleExpiry
    repeat' first
      | (with_reducible assumption)
      | (with_reducible refine beginEntry_only _ _ _ ?_ (by decide))
      | (intro)
      | (split)
      | (with_reducible exact only_refl _ _))

theorem lowerRails_only {ps : List Part} {s0 : State} (wake : Bool) (s : State)
    (h : Only ps s0 s) (hp : [.frame, .emit] ⊆ ps) : Only ps s0 (lowerRails wake s) :=
  Only.via hp h (by
    unfold lowerRails
    repeat' first
      | (with_reducible assumption)
      | (with_reducible refine railRestores_only _ ?_ (by decide))
      | (with_reducible refine railWrites_only _ ?_ (by decide))
      | (with_reducible refine linkDown_only _ _ ?_ (by decide))
      | (with_reducible refine only_when _ _ ?_ ?_)
      | (intro)
      | (with_reducible exact only_refl _ _))

theorem stopHall_only {ps : List Part} {s0 : State} (x0 : Entry) (s : State)
    (h : Only ps s0 s) (hp : [.frame, .host, .flash, .inst, .power, .recd, .emit] ⊆ ps) : Only ps s0 (stopHall x0 s) :=
  Only.via hp h (by
    unfold stopHall
    repeat' first
      | (with_reducible assumption)
      | (with_reducible refine writeBuffer_only _ ?_ (by decide))
      | (with_reducible refine finishOk_only _ _ ?_ (by decide))
      | (with_reducible refine updFlash_only _ _ ?_ (by decide))
      | (with_reducible refine lowerRails_only _ _ ?_ (by decide))
      | (with_reducible refine updPower_only _ _ ?_ (by decide))
      | (with_reducible refine only_when _ _ ?_ ?_)
      | (intro)
      | (extract_lets +onlyGivenNames s1; refine only_cut s1 ?_ ?_; unfold s1; clear s1; rotate_left; intro hs1; clear_value s1; rotate_right)
      | (extract_lets +onlyGivenNames v1)
      | (split)
      | (with_reducible exact only_refl _ _))

theorem entryDrained_only {ps : List Part} {s0 : State}  (s : State)
    (h : Only ps s0 s) (hp : [.frame, .host, .flash, .inst, .power, .recd, .emit] ⊆ ps) : Only ps s0 (entryDrained s) :=
  Only.via hp h (by
    unfold entryDrained
    repeat' first
      | (with_reducible assumption)
      | (with_reducible refine stopHall_only _ _ ?_ (by decide))
      | (intro)
      | (split)
      | (with_reducible exact only_refl _ _))

theorem abortEntry_only {ps : List Part} {s0 : State} (x0 : Entry) (code : Nat) (s : State)
    (h : Only ps s0 s) (hp : [.frame, .host, .inst, .power, .recd, .emit] ⊆ ps) : Only ps s0 (abortEntry x0 code s) :=
  Only.via hp h (by
    unfold abortEntry
    repeat' first
      | (with_reducible assumption)
      | (with_reducible refine refuseEntry_only _ _ _ _ _ ?_ (by decide))
      | (with_reducible refine updFrame_only _ _ ?_ (by decide))
      | (with_reducible refine updPower_only _ _ ?_ (by decide))
      | (intro)
      | (with_reducible exact only_refl _ _))

theorem entryAbort_only {ps : List Part} {s0 : State}  (s : State)
    (h : Only ps s0 s) (hp : [.frame, .host, .inst, .power, .recd, .emit] ⊆ ps) : Only ps s0 (entryAbort s) :=
  Only.via hp h (by
    unfold entryAbort
    repeat' first
      | (with_reducible assumption)
      | (with_reducible refine abortEntry_only _ _ _ ?_ (by decide))
      | (intro)
      | (split)
      | (with_reducible exact only_refl _ _))

theorem railsOff_only {ps : List Part} {s0 : State}  (s : State)
    (h : Only ps s0 s) (hp : [.pins] ⊆ ps) : Only ps s0 (railsOff s) :=
  Only.via hp h (by
    unfold railsOff
    repeat' first
      | (with_reducible assumption)
      | (intro)
      | (with_reducible exact only_refl _ _)
      | (refine only_pins _ ?_ (by decide)))

theorem exitFailed_only {ps : List Part} {s0 : State} (rail : Nat) (s : State)
    (h : Only ps s0 s) (hp : [.host, .power, .pins, .recd] ⊆ ps) : Only ps s0 (exitFailed rail s) :=
  Only.via hp h (by
    unfold exitFailed
    repeat' first
      | (with_reducible assumption)
      | (with_reducible refine recEvent_only _ _ ?_ (by decide))
      | (with_reducible refine updPower_only _ _ ?_ (by decide))
      | (with_reducible refine assertAlert_only _ ?_ (by decide))
      | (with_reducible refine railsOff_only _ ?_ (by decide))
      | (intro)
      | (extract_lets +onlyGivenNames s1; refine only_cut s1 ?_ ?_; unfold s1; clear s1; rotate_left; intro hs1; clear_value s1; rotate_right)
      | (extract_lets +onlyGivenNames v1)
      | (with_reducible exact only_refl _ _)
      | (exact hs1.trans ⟨fun p hn => by cases p <;> first | rfl | exact absurd hn (by decide)⟩)
      | (exact ⟨fun p hn => by cases p <;> first | rfl | exact absurd hn (by decide)⟩)
      | (refine only_host _ ?_ (by decide))
      | (refine only_pins _ ?_ (by decide)))

theorem exitDone_only {ps : List Part} {s0 : State}  (s : State)
    (h : Only ps s0 s) (hp : [.frame, .mbx, .power, .emit] ⊆ ps) : Only ps s0 (exitDone s) :=
  Only.via hp h (by
    unfold exitDone
    repeat' first
      | (with_reducible assumption)
      | (with_reducible refine updFrame_only _ _ ?_ (by decide))
      | (with_reducible refine reopen_only _ ?_ (by decide))
      | (with_reducible refine updPower_only _ _ ?_ (by decide))
      | (intro)
      | (extract_lets +onlyGivenNames s1; refine only_cut s1 ?_ ?_; unfold s1; clear s1; rotate_left; intro hs1; clear_value s1; rotate_right)
      | (extract_lets +onlyGivenNames v1)
      | (with_reducible exact only_refl _ _))

theorem psExit_only {ps : List Part} {s0 : State} (failed : Option Nat) (s : State)
    (h : Only ps s0 s) (hp : [.frame, .mbx, .host, .power, .pins, .recd, .emit] ⊆ ps) : Only ps s0 (psExit failed s) :=
  Only.via hp h (by
    unfold psExit
    repeat' first
      | (with_reducible assumption)
      | (with_reducible refine exitFailed_only _ _ ?_ (by decide))
      | (with_reducible refine exitDone_only _ ?_ (by decide))
      | (intro)
      | (split)
      | (with_reducible exact only_refl _ _))

theorem setHoldup_only {ps : List Part} {s0 : State} (x0 : Nat) (ok : Bool) (miss : Nat) (s : State)
    (h : Only ps s0 s) (hp : [.power] ⊆ ps) : Only ps s0 (setHoldup x0 ok miss s) :=
  Only.via hp h (by
    unfold setHoldup
    repeat' first
      | (with_reducible assumption)
      | (with_reducible refine updPower_only _ _ ?_ (by decide))
      | (intro)
      | (with_reducible exact only_refl _ _))

theorem holdupReading_only {ps : List Part} {s0 : State} (answer : Option (Nat × Bool)) (s : State)
    (h : Only ps s0 s) (hp : [.power, .recd, .emit] ⊆ ps) : Only ps s0 (holdupReading answer s) :=
  Only.via hp h (by
    unfold holdupReading
    repeat' first
      | (with_reducible assumption)
      | (with_reducible refine setHoldup_only _ _ _ _ ?_ (by decide))
      | (with_reducible refine updPower_only _ _ ?_ (by decide))
      | (with_reducible refine recEvent_only _ _ ?_ (by decide))
      | (with_reducible refine send_only _ _ ?_ (by decide))
      | (with_reducible refine only_when _ _ ?_ ?_)
      | (intro)
      | (extract_lets +onlyGivenNames s1; refine only_cut s1 ?_ ?_; unfold s1; clear s1; rotate_left; intro hs1; clear_value s1; rotate_right)
      | (extract_lets +onlyGivenNames v1)
      | (split)
      | (with_reducible exact only_refl _ _))

theorem applyLb_only {ps : List Part} {s0 : State}  (s : State)
    (h : Only ps s0 s) (hp : [.frame, .host, .media, .inst, .power, .therm, .pins, .recd, .emit] ⊆ ps) : Only ps s0 (applyLb s) :=
  Only.via hp h (by
    unfold applyLb
    repeat' first
      | (with_reducible assumption)
      | (with_reducible refine updPower_only _ _ ?_ (by decide))
      | (with_reducible refine updMedia_only _ _ ?_ (by decide))
      | (with_reducible refine setCritical_only _ _ ?_ (by decide))
      | (with_reducible refine clearCritical_only _ _ ?_ (by decide))
      | (intro)
      | (extract_lets +onlyGivenNames s1; refine only_cut s1 ?_ ?_; unfold s1; clear s1; rotate_left; intro hs1; clear_value s1; rotate_right)
      | (extract_lets +onlyGivenNames v1)
      | (split)
      | (with_reducible exact only_refl _ _))

theorem pmbAlert_only {ps : List Part} {s0 : State} (w : Nat) (s : State)
    (h : Only ps s0 s) (hp : [.mgmt, .emit] ⊆ ps) : Only ps s0 (pmbAlert w s) :=
  Only.via hp h (by
    unfold pmbAlert
    repeat' first
      | (with_reducible assumption)
      | (with_reducible refine send_only _ _ ?_ (by decide))
      | (intro)
      | (split)
      | (with_reducible exact only_refl _ _)
      | (refine only_mgmt _ ?_ (by decide)))

end Sys2Proof.Machine
end

