-- ==== Sys2Proof/Laws/Only/PowerLoss.lean ====
section
/-! SUPPORT. Which groups of state each operation of Machine/PowerLoss.lean can change. -/

set_option linter.tactic.unusedName false

namespace Sys2Proof.Machine

theorem startFlush_only {ps : List Part} {s0 : State} (fire : Bool) (s : State)
    (h : Only ps s0 s) (hp : [.flash, .power, .recd] ⊆ ps) : Only ps s0 (startFlush fire s) :=
  Only.via hp h (by
    unfold startFlush
    repeat' first
      | (with_reducible assumption)
      | (with_reducible refine updPower_only _ _ ?_ (by decide))
      | (with_reducible refine recEvent_only _ _ ?_ (by decide))
      | (with_reducible refine updFlash_only _ _ ?_ (by decide))
      | (intro)
      | (extract_lets +onlyGivenNames s1; refine only_cut s1 ?_ ?_; unfold s1; clear s1; rotate_left; intro hs1; clear_value s1; rotate_right)
      | (extract_lets +onlyGivenNames v1)
      | (split)
      | (with_reducible exact only_refl _ _))

theorem pfRecognised_only {ps : List Part} {s0 : State}  (s : State)
    (h : Only ps s0 s) (hp : [.flash, .power, .therm, .pins, .recd] ⊆ ps) : Only ps s0 (pfRecognised s) :=
  Only.via hp h (by
    unfold pfRecognised
    repeat' first
      | (with_reducible assumption)
      | (with_reducible refine startFlush_only _ _ ?_ (by decide))
      | (with_reducible refine only_when _ _ ?_ ?_)
      | (intro)
      | (extract_lets +onlyGivenNames s1; refine only_cut s1 ?_ ?_; unfold s1; clear s1; rotate_left; intro hs1; clear_value s1; rotate_right)
      | (extract_lets +onlyGivenNames v1)
      | (with_reducible exact only_refl _ _)
      | (exact hs1.trans ⟨fun p hn => by cases p <;> first | rfl | exact absurd hn (by decide)⟩)
      | (exact ⟨fun p hn => by cases p <;> first | rfl | exact absurd hn (by decide)⟩)
      | (refine only_therm _ ?_ (by decide))
      | (refine only_pins _ ?_ (by decide)))

theorem refugeWrite_only {ps : List Part} {s0 : State} (bad : List (Nat × Nat)) (s : State)
    (h : Only ps s0 s) (hp : [.media] ⊆ ps) : Only ps s0 (refugeWrite bad s) :=
  Only.via hp h (by
    unfold refugeWrite
    repeat' first
      | (with_reducible assumption)
      | (with_reducible refine updGroup_only _ _ _ ?_ (by decide))
      | (with_reducible refine updMedia_only _ _ ?_ (by decide))
      | (with_reducible refine only_forEach _ _ _ ?_ ?_)
      | (intro)
      | (extract_lets +onlyGivenNames s1; refine only_cut s1 ?_ ?_; unfold s1; clear s1; rotate_left; intro hs1; clear_value s1; rotate_right)
      | (extract_lets +onlyGivenNames k1; have _ck := fun x => (k1 x : State → State); clear _ck)
      | (extract_lets +onlyGivenNames k1; have _ck := fun x => (k1 x : State); clear _ck)
      | (extract_lets +onlyGivenNames v1)
      | (with_reducible exact only_refl _ _)
      | (dsimp only [k1]))

theorem commitRing_only {ps : List Part} {s0 : State} (x0 : Nat) (s : State)
    (h : Only ps s0 s) (hp : [.frame, .host, .zone, .media, .flash, .inst, .recd, .emit] ⊆ ps) : Only ps s0 (commitRing x0 s) :=
  Only.via hp h (by
    clear h hp
    fun_induction commitRing
    repeat' first
      | (with_reducible assumption)
      | (with_reducible refine record_only _ _ _ ?_ (by decide))
      | (with_reducible refine Only.trans ?_ (by with_reducible assumption))
      | (intro)
      | (split)
      | (with_reducible exact only_refl _ _))

theorem wpLow_only {ps : List Part} {s0 : State}  (s : State)
    (h : Only ps s0 s) (hp : [.flash] ⊆ ps) : Only ps s0 (wpLow s) :=
  Only.via hp h (by
    unfold wpLow
    repeat' first
      | (with_reducible assumption)
      | (with_reducible refine updFlash_only _ _ ?_ (by decide))
      | (intro)
      | (with_reducible exact only_refl _ _))

theorem linksDown_only {ps : List Part} {s0 : State}  (s : State)
    (h : Only ps s0 s) (hp : [.host] ⊆ ps) : Only ps s0 (linksDown s) :=
  Only.via hp h (by
    unfold linksDown
    repeat' first
      | (with_reducible assumption)
      | (intro)
      | (with_reducible exact only_refl _ _)
      | (refine only_host _ ?_ (by decide)))

theorem stopDomains_only {ps : List Part} {s0 : State} (fire : Bool) (s : State)
    (h : Only ps s0 s) (hp : [.host, .flash, .power, .therm, .mgmt, .pins] ⊆ ps) : Only ps s0 (stopDomains fire s) :=
  Only.via hp h (by
    unfold stopDomains
    repeat' first
      | (with_reducible assumption)
      | (with_reducible refine railsOff_only _ ?_ (by decide))
      | (with_reducible refine linksDown_only _ ?_ (by decide))
      | (with_reducible refine wpLow_only _ ?_ (by decide))
      | (with_reducible refine updPower_only _ _ ?_ (by decide))
      | (intro)
      | (extract_lets +onlyGivenNames s1; refine only_cut s1 ?_ ?_; unfold s1; clear s1; rotate_left; intro hs1; clear_value s1; rotate_right)
      | (extract_lets +onlyGivenNames v1)
      | (split)
      | (with_reducible exact only_refl _ _)
      | (exact hs1.trans ⟨fun p hn => by cases p <;> first | rfl | exact absurd hn (by decide)⟩)
      | (exact ⟨fun p hn => by cases p <;> first | rfl | exact absurd hn (by decide)⟩)
      | (refine only_pins _ ?_ (by decide))
      | (refine only_mgmt _ ?_ (by decide))
      | (refine only_therm _ ?_ (by decide)))

theorem flushEnd_only {ps : List Part} {s0 : State} (bad : List (Nat × Nat)) (s : State)
    (h : Only ps s0 s) (hp : [.frame, .mbx, .host, .zone, .media, .flash, .inst, .power, .therm, .mgmt, .pins, .recd, .emit] ⊆ ps) : Only ps s0 (flushEnd bad s) :=
  Only.via hp h (by
    unfold flushEnd
    repeat' first
      | (with_reducible assumption)
      | (with_reducible refine refugeWrite_only _ _ ?_ (by decide))
      | (with_reducible refine commitRing_only _ _ ?_ (by decide))
      | (with_reducible refine writeBuffer_only _ ?_ (by decide))
      | (with_reducible refine closeRecord_only _ _ _ ?_ (by decide))
      | (with_reducible refine updPower_only _ _ ?_ (by decide))
      | (with_reducible refine stopDomains_only _ _ ?_ (by decide))
      | (with_reducible refine only_when _ _ ?_ ?_)
      | (intro)
      | (extract_lets +onlyGivenNames s1; refine only_cut s1 ?_ ?_; unfold s1; clear s1; rotate_left; intro hs1; clear_value s1; rotate_right)
      | (extract_lets +onlyGivenNames v1)
      | (split)
      | (with_reducible exact only_refl _ _))

end Sys2Proof.Machine
end

