-- ==== Sys2Proof/Laws/Only/Thermal.lean ====
section
/-! SUPPORT. Which groups of state each operation of Machine/Thermal.lean can change. -/

set_option linter.tactic.unusedName false

namespace Sys2Proof.Machine

theorem updTherm_only {ps : List Part} {s0 : State} (x0 : ThermSt → ThermSt) (s : State)
    (h : Only ps s0 s) (hp : [.therm] ⊆ ps) : Only ps s0 (updTherm x0 s) :=
  Only.via hp h (by
    unfold updTherm
    repeat' first
      | (with_reducible assumption)
      | (intro)
      | (with_reducible exact only_refl _ _)
      | (refine only_therm _ ?_ (by decide)))

theorem setTzone_only {ps : List Part} {s0 : State} (z : Nat) (x1 : TZone) (s : State)
    (h : Only ps s0 s) (hp : [.therm] ⊆ ps) : Only ps s0 (setTzone z x1 s) :=
  Only.via hp h (by
    unfold setTzone
    repeat' first
      | (with_reducible assumption)
      | (with_reducible refine updTherm_only _ _ ?_ (by decide))
      | (intro)
      | (with_reducible exact only_refl _ _))

theorem judgeOver_only {ps : List Part} {s0 : State} (n : Nat) (z : Nat) (s : State)
    (h : Only ps s0 s) (hp : [.therm, .recd] ⊆ ps) : Only ps s0 (judgeOver n z s) :=
  Only.via hp h (by
    unfold judgeOver
    repeat' first
      | (with_reducible assumption)
      | (with_reducible refine setTzone_only _ _ _ ?_ (by decide))
      | (with_reducible refine updRec_only _ _ ?_ (by decide))
      | (with_reducible refine updTherm_only _ _ ?_ (by decide))
      | (with_reducible refine only_getD ?_ ?_)
      | (intro)
      | (extract_lets +onlyGivenNames s1; refine only_cut s1 ?_ ?_; unfold s1; clear s1; rotate_left; intro hs1; clear_value s1; rotate_right)
      | (extract_lets +onlyGivenNames v1)
      | (split)
      | (with_reducible exact only_refl _ _))

theorem judgeZone_only {ps : List Part} {s0 : State} (x0 : Nat) (s : State)
    (h : Only ps s0 s) (hp : [.therm, .recd] ⊆ ps) : Only ps s0 (judgeZone x0 s) :=
  Only.via hp h (by
    unfold judgeZone
    repeat' first
      | (with_reducible assumption)
      | (with_reducible refine judgeOver_only _ _ _ ?_ (by decide))
      | (intro)
      | (with_reducible exact only_refl _ _))

theorem driveGpio_only {ps : List Part} {s0 : State}  (s : State)
    (h : Only ps s0 s) (hp : [.pins] ⊆ ps) : Only ps s0 (driveGpio s) :=
  Only.via hp h (by
    unfold driveGpio
    repeat' first
      | (with_reducible assumption)
      | (intro)
      | (extract_lets +onlyGivenNames s1; refine only_cut s1 ?_ ?_; unfold s1; clear s1; rotate_left; intro hs1; clear_value s1; rotate_right)
      | (extract_lets +onlyGivenNames v1)
      | (with_reducible exact only_refl _ _)
      | (refine only_pins _ ?_ (by decide)))

theorem judgeFn_only {ps : List Part} {s0 : State} (fn : Nat) (s : State)
    (h : Only ps s0 s) (hp : [.frame, .host, .inst, .pins, .recd, .emit] ⊆ ps) : Only ps s0 (judgeFn fn s) :=
  Only.via hp h (by
    unfold judgeFn
    repeat' first
      | (with_reducible assumption)
      | (with_reducible refine updCtl_only _ _ _ ?_ (by decide))
      | (with_reducible refine notifySmart_only _ _ _ ?_ (by decide))
      | (with_reducible refine assertAlert_only _ ?_ (by decide))
      | (intro)
      | (extract_lets +onlyGivenNames s1; refine only_cut s1 ?_ ?_; unfold s1; clear s1; rotate_left; intro hs1; clear_value s1; rotate_right)
      | (extract_lets +onlyGivenNames v1)
      | (split)
      | (with_reducible exact only_refl _ _))

theorem judgeWarnings_only {ps : List Part} {s0 : State}  (s : State)
    (h : Only ps s0 s) (hp : [.frame, .host, .inst, .therm, .pins, .recd, .emit] ⊆ ps) : Only ps s0 (judgeWarnings s) :=
  Only.via hp h (by
    unfold judgeWarnings
    repeat' first
      | (with_reducible assumption)
      | (with_reducible refine setCritical_only _ _ ?_ (by decide))
      | (with_reducible refine clearCritical_only _ _ ?_ (by decide))
      | (with_reducible refine driveGpio_only _ ?_ (by decide))
      | (with_reducible refine judgeFn_only _ _ ?_ (by decide))
      | (with_reducible refine only_forEach _ _ _ ?_ ?_)
      | (intro)
      | (extract_lets +onlyGivenNames s1; refine only_cut s1 ?_ ?_; unfold s1; clear s1; rotate_left; intro hs1; clear_value s1; rotate_right)
      | (extract_lets +onlyGivenNames v1)
      | (split)
      | (with_reducible exact only_refl _ _))

theorem fireStop_only {ps : List Part} {s0 : State}  (s : State)
    (h : Only ps s0 s) (hp : [.host, .flash, .power, .therm, .mgmt, .pins, .recd] ⊆ ps) : Only ps s0 (fireStop s) :=
  Only.via hp h (by
    unfold fireStop
    repeat' first
      | (with_reducible assumption)
      | (with_reducible refine startFlush_only _ _ ?_ (by decide))
      | (with_reducible refine stopDomains_only _ _ ?_ (by decide))
      | (intro)
      | (split)
      | (with_reducible exact only_refl _ _))

theorem trip_only {ps : List Part} {s0 : State} (z : Nat) (s : State)
    (h : Only ps s0 s) (hp : [.host, .flash, .power, .therm, .mgmt, .pins, .recd] ⊆ ps) : Only ps s0 (trip z s) :=
  Only.via hp h (by
    unfold trip
    repeat' first
      | (with_reducible assumption)
      | (with_reducible refine updTherm_only _ _ ?_ (by decide))
      | (with_reducible refine updRec_only _ _ ?_ (by decide))
      | (with_reducible refine driveGpio_only _ ?_ (by decide))
      | (with_reducible refine assertAlert_only _ ?_ (by decide))
      | (with_reducible refine fireStop_only _ ?_ (by decide))
      | (intro)
      | (extract_lets +onlyGivenNames s1; refine only_cut s1 ?_ ?_; unfold s1; clear s1; rotate_left; intro hs1; clear_value s1; rotate_right)
      | (extract_lets +onlyGivenNames v1)
      | (with_reducible exact only_refl _ _))

theorem judgeFire_only {ps : List Part} {s0 : State} (z : Nat) (s : State)
    (h : Only ps s0 s) (hp : [.host, .flash, .power, .therm, .mgmt, .pins, .recd] ⊆ ps) : Only ps s0 (judgeFire z s) :=
  Only.via hp h (by
    unfold judgeFire
    repeat' first
      | (with_reducible assumption)
      | (with_reducible refine trip_only _ _ ?_ (by decide))
      | (with_reducible refine updTherm_only _ _ ?_ (by decide))
      | (intro)
      | (split)
      | (with_reducible exact only_refl _ _))

theorem takeDiode_only {ps : List Part} {s0 : State} (d : Nat) (code : Nat) (x2 : Int) (s : State)
    (h : Only ps s0 s) (hp : [.therm] ⊆ ps) : Only ps s0 (takeDiode d code x2 s) :=
  Only.via hp h (by
    unfold takeDiode
    repeat' first
      | (with_reducible assumption)
      | (with_reducible refine updTherm_only _ _ ?_ (by decide))
      | (with_reducible refine only_getD ?_ ?_)
      | (intro)
      | (extract_lets +onlyGivenNames s1; refine only_cut s1 ?_ ?_; unfold s1; clear s1; rotate_left; intro hs1; clear_value s1; rotate_right)
      | (extract_lets +onlyGivenNames v1)
      | (split)
      | (with_reducible exact only_refl _ _))

theorem breakDiode_only {ps : List Part} {s0 : State} (d : Nat) (s : State)
    (h : Only ps s0 s) (hp : [.therm, .recd] ⊆ ps) : Only ps s0 (breakDiode d s) :=
  Only.via hp h (by
    unfold breakDiode
    repeat' first
      | (with_reducible assumption)
      | (with_reducible refine recEvent_only _ _ ?_ (by decide))
      | (with_reducible refine updTherm_only _ _ ?_ (by decide))
      | (intro)
      | (with_reducible exact only_refl _ _))

theorem judgeDiode_only {ps : List Part} {s0 : State} (d : Nat) (code : Nat) (x2 : Int) (s : State)
    (h : Only ps s0 s) (hp : [.therm, .recd] ⊆ ps) : Only ps s0 (judgeDiode d code x2 s) :=
  Only.via hp h (by
    unfold judgeDiode
    repeat' first
      | (with_reducible assumption)
      | (with_reducible refine breakDiode_only _ _ ?_ (by decide))
      | (intro)
      | (split)
      | (with_reducible exact only_refl _ _))

theorem rorWarning_only {ps : List Part} {s0 : State} (d : Nat) (before : Bool) (s : State)
    (h : Only ps s0 s) (hp : [.therm, .recd] ⊆ ps) : Only ps s0 (rorWarning d before s) :=
  Only.via hp h (by
    unfold rorWarning
    repeat' first
      | (with_reducible assumption)
      | (with_reducible refine updTherm_only _ _ ?_ (by decide))
      | (with_reducible refine updRec_only _ _ ?_ (by decide))
      | (intro)
      | (extract_lets +onlyGivenNames s1; refine only_cut s1 ?_ ?_; unfold s1; clear s1; rotate_left; intro hs1; clear_value s1; rotate_right)
      | (extract_lets +onlyGivenNames v1)
      | (split)
      | (with_reducible exact only_refl _ _))

theorem recordTemps_only {ps : List Part} {s0 : State} (z : Nat) (s : State)
    (h : Only ps s0 s) (hp : [.recd] ⊆ ps) : Only ps s0 (recordTemps z s) :=
  Only.via hp h (by
    unfold recordTemps
    repeat' first
      | (with_reducible assumption)
      | (with_reducible refine updRec_only _ _ ?_ (by decide))
      | (with_reducible refine only_forEach _ _ _ ?_ ?_)
      | (intro)
      | (extract_lets +onlyGivenNames s1; refine only_cut s1 ?_ ?_; unfold s1; clear s1; rotate_left; intro hs1; clear_value s1; rotate_right)
      | (extract_lets +onlyGivenNames v1)
      | (split)
      | (with_reducible exact only_refl _ _))

theorem diodeSample_only {ps : List Part} {s0 : State} (d : Nat) (code : Nat) (x2 : Int) (s : State)
    (h : Only ps s0 s) (hp : [.frame, .host, .flash, .inst, .power, .therm, .mgmt, .pins, .recd, .emit] ⊆ ps) : Only ps s0 (diodeSample d code x2 s) :=
  Only.via hp h (by
    unfold diodeSample
    repeat' first
      | (with_reducible assumption)
      | (with_reducible refine judgeDiode_only _ _ _ _ ?_ (by decide))
      | (with_reducible refine takeDiode_only _ _ _ _ ?_ (by decide))
      | (with_reducible refine recordTemps_only _ _ ?_ (by decide))
      | (with_reducible refine rorWarning_only _ _ _ ?_ (by decide))
      | (with_reducible refine judgeWarnings_only _ ?_ (by decide))
      | (with_reducible refine judgeZone_only _ _ ?_ (by decide))
      | (with_reducible refine judgeFire_only _ _ ?_ (by decide))
      | (with_reducible refine only_when _ _ ?_ ?_)
      | (intro)
      | (extract_lets +onlyGivenNames s1; refine only_cut s1 ?_ ?_; unfold s1; clear s1; rotate_left; intro hs1; clear_value s1; rotate_right)
      | (extract_lets +onlyGivenNames v1)
      | (split)
      | (with_reducible exact only_refl _ _))

theorem applySteps_only {ps : List Part} {s0 : State}  (s : State)
    (h : Only ps s0 s) (hp : [.frame, .host, .inst, .therm, .pins, .recd, .emit] ⊆ ps) : Only ps s0 (applySteps s) :=
  Only.via hp h (by
    unfold applySteps
    repeat' first
      | (with_reducible assumption)
      | (with_reducible refine updTherm_only _ _ ?_ (by decide))
      | (with_reducible refine assertAlert_only _ ?_ (by decide))
      | (with_reducible refine judgeWarnings_only _ ?_ (by decide))
      | (with_reducible refine only_getD ?_ ?_)
      | (with_reducible refine only_when _ _ ?_ ?_)
      | (intro)
      | (extract_lets +onlyGivenNames s1; refine only_cut s1 ?_ ?_; unfold s1; clear s1; rotate_left; intro hs1; clear_value s1; rotate_right)
      | (extract_lets +onlyGivenNames v1)
      | (split)
      | (with_reducible exact only_refl _ _))

theorem takeRemote_only {ps : List Part} {s0 : State} (r : Nat) (code : Nat) (x2 : Int) (s : State)
    (h : Only ps s0 s) (hp : [.therm] ⊆ ps) : Only ps s0 (takeRemote r code x2 s) :=
  Only.via hp h (by
    unfold takeRemote
    repeat' first
      | (with_reducible assumption)
      | (with_reducible refine updTherm_only _ _ ?_ (by decide))
      | (intro)
      | (extract_lets +onlyGivenNames s1; refine only_cut s1 ?_ ?_; unfold s1; clear s1; rotate_left; intro hs1; clear_value s1; rotate_right)
      | (extract_lets +onlyGivenNames v1)
      | (split)
      | (with_reducible exact only_refl _ _))

theorem breakRemote_only {ps : List Part} {s0 : State} (r : Nat) (s : State)
    (h : Only ps s0 s) (hp : [.therm, .recd] ⊆ ps) : Only ps s0 (breakRemote r s) :=
  Only.via hp h (by
    unfold breakRemote
    repeat' first
      | (with_reducible assumption)
      | (with_reducible refine recEvent_only _ _ ?_ (by decide))
      | (with_reducible refine updTherm_only _ _ ?_ (by decide))
      | (intro)
      | (with_reducible exact only_refl _ _))

theorem remoteSample_only {ps : List Part} {s0 : State} (r : Nat) (code : Nat) (x2 : Int) (s : State)
    (h : Only ps s0 s) (hp : [.frame, .host, .inst, .therm, .pins, .recd, .emit] ⊆ ps) : Only ps s0 (remoteSample r code x2 s) :=
  Only.via hp h (by
    unfold remoteSample
    repeat' first
      | (with_reducible assumption)
      | (with_reducible refine takeRemote_only _ _ _ _ ?_ (by decide))
      | (with_reducible refine updTherm_only _ _ ?_ (by decide))
      | (with_reducible refine breakRemote_only _ _ ?_ (by decide))
      | (with_reducible refine updRec_only _ _ ?_ (by decide))
      | (with_reducible refine judgeWarnings_only _ ?_ (by decide))
      | (with_reducible refine only_when _ _ ?_ ?_)
      | (intro)
      | (extract_lets +onlyGivenNames s1; refine only_cut s1 ?_ ?_; unfold s1; clear s1; rotate_left; intro hs1; clear_value s1; rotate_right)
      | (extract_lets +onlyGivenNames v1)
      | (split)
      | (with_reducible exact only_refl _ _))

theorem stuckSensors_only {ps : List Part} {s0 : State}  (s : State)
    (h : Only ps s0 s) (hp : [.frame, .host, .flash, .inst, .power, .therm, .mgmt, .pins, .recd, .emit] ⊆ ps) : Only ps s0 (stuckSensors s) :=
  Only.via hp h (by
    unfold stuckSensors
    repeat' first
      | (with_reducible assumption)
      | (with_reducible refine judgeWarnings_only _ ?_ (by decide))
      | (with_reducible refine judgeZone_only _ _ ?_ (by decide))
      | (with_reducible refine breakDiode_only _ _ ?_ (by decide))
      | (with_reducible refine judgeFire_only _ _ ?_ (by decide))
      | (with_reducible refine breakRemote_only _ _ ?_ (by decide))
      | (with_reducible refine only_when _ _ ?_ ?_)
      | (with_reducible refine only_forEach _ _ _ ?_ ?_)
      | (intro)
      | (extract_lets +onlyGivenNames s1; refine only_cut s1 ?_ ?_; unfold s1; clear s1; rotate_left; intro hs1; clear_value s1; rotate_right)
      | (extract_lets +onlyGivenNames v1)
      | (with_reducible exact only_refl _ _))

theorem railSample_only {ps : List Part} {s0 : State} (rail : Nat) (mv : Nat) (s : State)
    (h : Only ps s0 s) (hp : [.therm, .recd] ⊆ ps) : Only ps s0 (railSample rail mv s) :=
  Only.via hp h (by
    unfold railSample
    repeat' first
      | (with_reducible assumption)
      | (with_reducible refine updTherm_only _ _ ?_ (by decide))
      | (with_reducible refine updRec_only _ _ ?_ (by decide))
      | (with_reducible refine recEvent_only _ _ ?_ (by decide))
      | (with_reducible refine only_when _ _ ?_ ?_)
      | (intro)
      | (extract_lets +onlyGivenNames s1; refine only_cut s1 ?_ ?_; unfold s1; clear s1; rotate_left; intro hs1; clear_value s1; rotate_right)
      | (extract_lets +onlyGivenNames v1)
      | (split)
      | (with_reducible exact only_refl _ _))

theorem alertResponse_only {ps : List Part} {s0 : State}  (s : State)
    (h : Only ps s0 s) (hp : [.pins, .emit] ⊆ ps) : Only ps s0 (alertResponse s) :=
  Only.via hp h (by
    unfold alertResponse
    repeat' first
      | (with_reducible assumption)
      | (with_reducible refine send_only _ _ ?_ (by decide))
      | (intro)
      | (split)
      | (with_reducible exact only_refl _ _)
      | (refine only_pins _ ?_ (by decide)))

end Sys2Proof.Machine
end

