-- ==== Sys2Proof/Laws/Only/Identify.lean ====
section
/-! SUPPORT. Which groups of state each operation of Machine/Identify.lean can change. -/

set_option linter.tactic.unusedName false

namespace Sys2Proof.Machine

theorem identify_only {ps : List Part} {s0 : State} (it : Item) (s : State)
    (h : Only ps s0 s) (hp : [.frame, .host, .inst, .recd, .emit] ⊆ ps) : Only ps s0 (identify it s) :=
  Only.via hp h (by
    unfold identify
    repeat' first
      | (with_reducible assumption)
      | (with_reducible refine finishBad_only _ _ _ ?_ (by decide))
      | (with_reducible refine finishOk_only _ _ ?_ (by decide))
      | (with_reducible refine send_only _ _ ?_ (by decide))
      | (intro)
      | (split)
      | (with_reducible exact only_refl _ _))

theorem clearLog_only {ps : List Part} {s0 : State} (fn : Nat) (lid : Nat) (s : State)
    (h : Only ps s0 s) (hp : [.frame, .host, .inst, .recd, .emit] ⊆ ps) : Only ps s0 (clearLog fn lid s) :=
  Only.via hp h (by
    unfold clearLog
    repeat' first
      | (with_reducible assumption)
      | (with_reducible refine reportEvents_only _ _ _ ?_ (by decide))
      | (with_reducible refine updCtl_only _ _ _ ?_ (by decide))
      | (intro)
      | (split)
      | (with_reducible exact only_refl _ _))

theorem getLogPage_only {ps : List Part} {s0 : State} (it : Item) (s : State)
    (h : Only ps s0 s) (hp : [.frame, .host, .inst, .recd, .emit, .free] ⊆ ps) : Only ps s0 (getLogPage it s) :=
  Only.via hp h (by
    unfold getLogPage
    repeat' first
      | (with_reducible assumption)
      | (with_reducible refine finishBad_only _ _ _ ?_ (by decide))
      | (with_reducible refine send_only _ _ ?_ (by decide))
      | (with_reducible refine finishOk_only _ _ ?_ (by decide))
      | (with_reducible refine clearLog_only _ _ _ ?_ (by decide))
      | (with_reducible refine only_when _ _ ?_ ?_)
      | (intro)
      | (extract_lets +onlyGivenNames s1; refine only_cut s1 ?_ ?_; unfold s1; clear s1; rotate_left; intro hs1; clear_value s1; rotate_right)
      | (extract_lets +onlyGivenNames v1)
      | (split)
      | (with_reducible exact only_refl _ _)
      | (refine only_free _ ?_ (by decide)))

end Sys2Proof.Machine
end

