-- ==== Sys2Proof/Laws/Only/Mgmt.lean ====
section
/-! SUPPORT. Which groups of state each operation of Machine/Mgmt.lean can change. -/

set_option linter.tactic.unusedName false

namespace Sys2Proof.Machine

theorem updMgmt_only {ps : List Part} {s0 : State} (x0 : MgmtSt → MgmtSt) (s : State)
    (h : Only ps s0 s) (hp : [.mgmt] ⊆ ps) : Only ps s0 (updMgmt x0 s) :=
  Only.via hp h (by
    unfold updMgmt
    repeat' first
      | (with_reducible assumption)
      | (intro)
      | (with_reducible exact only_refl _ _)
      | (refine only_mgmt _ ?_ (by decide)))

theorem respond_only {ps : List Part} {s0 : State} (b : List Byte) (s : State)
    (h : Only ps s0 s) (hp : [.mgmt, .emit] ⊆ ps) : Only ps s0 (respond b s) :=
  Only.via hp h (by
    unfold respond
    repeat' first
      | (with_reducible assumption)
      | (with_reducible refine updMgmt_only _ _ ?_ (by decide))
      | (with_reducible refine send_only _ _ ?_ (by decide))
      | (with_reducible refine only_when _ _ ?_ ?_)
      | (intro)
      | (extract_lets +onlyGivenNames s1; refine only_cut s1 ?_ ?_; unfold s1; clear s1; rotate_left; intro hs1; clear_value s1; rotate_right)
      | (extract_lets +onlyGivenNames v1)
      | (with_reducible exact only_refl _ _))

theorem miCommand_only {ps : List Part} {s0 : State} (op : Nat) (d0 : Nat) (d1 : Nat) {s : State}
    (h : Only ps s0 s) (hp : [.mgmt] ⊆ ps) : Only ps s0 (miCommand op d0 d1 s).2 :=
  Only.via hp h (by
    unfold miCommand
    repeat' first
      | (with_reducible assumption)
      | (with_reducible refine updMgmt_only _ _ ?_ (by decide))
      | (intro)
      | (split)
      | (with_reducible exact only_refl _ _)
      | (refine only_mgmt _ ?_ (by decide)))

theorem miCommand_only2 {ps : List Part} {s0 : State} (op : Nat) (d0 : Nat) (d1 : Nat) {s t : State} {v}
    (h : Only ps s0 s) (hp : [.mgmt] ⊆ ps) (e : miCommand op d0 d1 s = (v, t)) : Only ps s0 t := by
  have k := miCommand_only op d0 d1 h hp
  rw [e] at k; exact k

theorem miRequest_only {ps : List Part} {s0 : State} (req : List Byte) (s : State)
    (h : Only ps s0 s) (hp : [.mgmt, .emit] ⊆ ps) : Only ps s0 (miRequest req s) :=
  Only.via hp h (by
    unfold miRequest
    repeat' first
      | (with_reducible assumption)
      | (with_reducible refine miCommand_only _ _ _ ?_ (by decide))
      | (with_reducible refine miCommand_only2 _ _ _ ?_ (by decide) (by assumption))
      | (with_reducible refine respond_only _ _ ?_ (by decide))
      | (intro)
      | (extract_lets +onlyGivenNames s1; refine only_cut s1 ?_ ?_; unfold s1; clear s1; rotate_left; intro hs1; clear_value s1; rotate_right)
      | (extract_lets +onlyGivenNames v1)
      | (split)
      | (with_reducible exact only_refl _ _))

theorem miRow_only {ps : List Part} {s0 : State} (op : Nat) (req : List Byte) (s : State)
    (h : Only ps s0 s) (hp : [.mgmt, .emit] ⊆ ps) : Only ps s0 (miRow op req s) :=
  Only.via hp h (by
    unfold miRow
    repeat' first
      | (with_reducible assumption)
      | (with_reducible refine miRequest_only _ _ ?_ (by decide))
      | (intro)
      | (split)
      | (with_reducible exact only_refl _ _))

theorem cpAnswer_only {ps : List Part} {s0 : State} (req : List Byte) (cpsr : Nat) (s : State)
    (h : Only ps s0 s) (hp : [.emit] ⊆ ps) : Only ps s0 (cpAnswer req cpsr s) :=
  Only.via hp h (by
    unfold cpAnswer
    repeat' first
      | (with_reducible assumption)
      | (with_reducible refine send_only _ _ ?_ (by decide))
      | (intro)
      | (with_reducible exact only_refl _ _))

theorem updSlot_only {ps : List Part} {s0 : State} (x0 : MiSlot → MiSlot) (s : State)
    (h : Only ps s0 s) (hp : [.mgmt] ⊆ ps) : Only ps s0 (updSlot x0 s) :=
  Only.via hp h (by
    unfold updSlot
    repeat' first
      | (with_reducible assumption)
      | (with_reducible refine updMgmt_only _ _ ?_ (by decide))
      | (intro)
      | (with_reducible exact only_refl _ _))

theorem miPause_only {ps : List Part} {s0 : State} (req : List Byte) (s : State)
    (h : Only ps s0 s) (hp : [.mgmt, .emit] ⊆ ps) : Only ps s0 (miPause req s) :=
  Only.via hp h (by
    unfold miPause
    repeat' first
      | (with_reducible assumption)
      | (with_reducible refine cpAnswer_only _ _ _ ?_ (by decide))
      | (with_reducible refine updSlot_only _ _ ?_ (by decide))
      | (intro)
      | (with_reducible exact only_refl _ _))

theorem miResume_only {ps : List Part} {s0 : State} (req : List Byte) (s : State)
    (h : Only ps s0 s) (hp : [.mgmt, .emit] ⊆ ps) : Only ps s0 (miResume req s) :=
  Only.via hp h (by
    unfold miResume
    repeat' first
      | (with_reducible assumption)
      | (with_reducible refine cpAnswer_only _ _ _ ?_ (by decide))
      | (with_reducible refine updSlot_only _ _ ?_ (by decide))
      | (with_reducible refine send_only _ _ ?_ (by decide))
      | (with_reducible refine only_when _ _ ?_ ?_)
      | (intro)
      | (extract_lets +onlyGivenNames s1; refine only_cut s1 ?_ ?_; unfold s1; clear s1; rotate_left; intro hs1; clear_value s1; rotate_right)
      | (extract_lets +onlyGivenNames v1)
      | (with_reducible exact only_refl _ _))

theorem miAbort_only {ps : List Part} {s0 : State} (req : List Byte) (s : State)
    (h : Only ps s0 s) (hp : [.mgmt, .emit] ⊆ ps) : Only ps s0 (miAbort req s) :=
  Only.via hp h (by
    unfold miAbort
    repeat' first
      | (with_reducible assumption)
      | (with_reducible refine cpAnswer_only _ _ _ ?_ (by decide))
      | (with_reducible refine updSlot_only _ _ ?_ (by decide))
      | (intro)
      | (with_reducible exact only_refl _ _))

theorem miGetState_only {ps : List Part} {s0 : State} (req : List Byte) (s : State)
    (h : Only ps s0 s) (hp : [.emit] ⊆ ps) : Only ps s0 (miGetState req s) :=
  Only.via hp h (by
    unfold miGetState
    repeat' first
      | (with_reducible assumption)
      | (with_reducible refine cpAnswer_only _ _ _ ?_ (by decide))
      | (intro)
      | (with_reducible exact only_refl _ _))

theorem miReplay_only {ps : List Part} {s0 : State} (req : List Byte) (s : State)
    (h : Only ps s0 s) (hp : [.emit] ⊆ ps) : Only ps s0 (miReplay req s) :=
  Only.via hp h (by
    unfold miReplay
    repeat' first
      | (with_reducible assumption)
      | (with_reducible refine cpAnswer_only _ _ _ ?_ (by decide))
      | (with_reducible refine send_only _ _ ?_ (by decide))
      | (with_reducible refine only_when _ _ ?_ ?_)
      | (intro)
      | (extract_lets +onlyGivenNames s1; refine only_cut s1 ?_ ?_; unfold s1; clear s1; rotate_left; intro hs1; clear_value s1; rotate_right)
      | (extract_lets +onlyGivenNames v1)
      | (with_reducible exact only_refl _ _))

theorem cpRequest_only {ps : List Part} {s0 : State} (req : List Byte) (s : State)
    (h : Only ps s0 s) (hp : [.mgmt, .emit] ⊆ ps) : Only ps s0 (cpRequest req s) :=
  Only.via hp h (by
    unfold cpRequest
    repeat' first
      | (with_reducible assumption)
      | (with_reducible refine miPause_only _ _ ?_ (by decide))
      | (with_reducible refine miResume_only _ _ ?_ (by decide))
      | (with_reducible refine miAbort_only _ _ ?_ (by decide))
      | (with_reducible refine miGetState_only _ _ ?_ (by decide))
      | (with_reducible refine miReplay_only _ _ ?_ (by decide))
      | (with_reducible refine send_only _ _ ?_ (by decide))
      | (intro)
      | (split)
      | (with_reducible exact only_refl _ _))

theorem miAdmin_only {ps : List Part} {s0 : State} (req : List Byte) (s : State)
    (h : Only ps s0 s) (hp : [.mgmt, .emit] ⊆ ps) : Only ps s0 (miAdmin req s) :=
  Only.via hp h (by
    unfold miAdmin
    repeat' first
      | (with_reducible assumption)
      | (with_reducible refine respond_only _ _ ?_ (by decide))
      | (with_reducible refine only_id ?_)
      | (intro)
      | (extract_lets +onlyGivenNames s1; refine only_cut s1 ?_ ?_; unfold s1; clear s1; rotate_left; intro hs1; clear_value s1; rotate_right)
      | (extract_lets +onlyGivenNames v1; clear_value v1)
      | (extract_lets +onlyGivenNames v1)
      | (split)
      | (with_reducible exact only_refl _ _))

theorem mctpControl_only {ps : List Part} {s0 : State} (tr : Nat) (m : List Byte) (s : State)
    (h : Only ps s0 s) (hp : [.mgmt, .emit] ⊆ ps) : Only ps s0 (mctpControl tr m s) :=
  Only.via hp h (by
    unfold mctpControl
    repeat' first
      | (with_reducible assumption)
      | (with_reducible refine send_only _ _ ?_ (by decide))
      | (with_reducible refine updMgmt_only _ _ ?_ (by decide))
      | (intro)
      | (extract_lets +onlyGivenNames s1; refine only_cut s1 ?_ ?_; unfold s1; clear s1; rotate_left; intro hs1; clear_value s1; rotate_right)
      | (extract_lets +onlyGivenNames v1)
      | (split)
      | (with_reducible exact only_refl _ _))

theorem miMessage_only {ps : List Part} {s0 : State} (m : List Byte) (s : State)
    (h : Only ps s0 s) (hp : [.mgmt, .emit] ⊆ ps) : Only ps s0 (miMessage m s) :=
  Only.via hp h (by
    unfold miMessage
    repeat' first
      | (with_reducible assumption)
      | (with_reducible refine cpRequest_only _ _ ?_ (by decide))
      | (with_reducible refine miRequest_only _ _ ?_ (by decide))
      | (with_reducible refine miAdmin_only _ _ ?_ (by decide))
      | (intro)
      | (extract_lets +onlyGivenNames s1; refine only_cut s1 ?_ ?_; unfold s1; clear s1; rotate_left; intro hs1; clear_value s1; rotate_right)
      | (extract_lets +onlyGivenNames v1)
      | (split)
      | (with_reducible exact only_refl _ _))

theorem mctpDispatch_only {ps : List Part} {s0 : State} (tr : Nat) (m : List Byte) (s : State)
    (h : Only ps s0 s) (hp : [.mgmt, .recd, .emit] ⊆ ps) : Only ps s0 (mctpDispatch tr m s) :=
  Only.via hp h (by
    unfold mctpDispatch
    repeat' first
      | (with_reducible assumption)
      | (with_reducible refine mctpControl_only _ _ _ ?_ (by decide))
      | (with_reducible refine miMessage_only _ _ ?_ (by decide))
      | (with_reducible refine recEvent_only _ _ ?_ (by decide))
      | (with_reducible refine updMgmt_only _ _ ?_ (by decide))
      | (intro)
      | (extract_lets +onlyGivenNames s1; refine only_cut s1 ?_ ?_; unfold s1; clear s1; rotate_left; intro hs1; clear_value s1; rotate_right)
      | (extract_lets +onlyGivenNames v1)
      | (split)
      | (with_reducible exact only_refl _ _))

theorem mctpMessage_only {ps : List Part} {s0 : State} (via : List Nat) (m : List Byte) (s : State)
    (h : Only ps s0 s) (hp : [.mgmt, .recd, .emit] ⊆ ps) : Only ps s0 (mctpMessage via m s) :=
  Only.via hp h (by
    unfold mctpMessage
    repeat' first
      | (with_reducible assumption)
      | (with_reducible refine updMgmt_only _ _ ?_ (by decide))
      | (with_reducible refine mctpDispatch_only _ _ _ ?_ (by decide))
      | (with_reducible refine only_when _ _ ?_ ?_)
      | (intro)
      | (split)
      | (with_reducible exact only_refl _ _))

theorem miTunnel_only {ps : List Part} {s0 : State} (op : Nat → Bool) (it : Item) (s : State) (h : Only ps s0 s)
    (hp : [.frame, .host, .inst, .mgmt, .recd, .emit] ⊆ ps) : Only ps s0 (miTunnel op it s) :=
  Only.via hp h (by
    unfold miTunnel
    split
    · exact only_refl _ _
    extract_lets o r b
    have hr : Only [.frame, .host, .inst, .mgmt, .recd, .emit] s r.2 := by
      unfold r; split
      · exact miCommand_only _ _ _ (only_refl _ _) (by decide)
      · exact only_refl _ _
    clear_value r
    repeat' first
      | (with_reducible assumption)
      | (with_reducible refine finish_only _ _ _ _ _ ?_ (by decide))
      | (with_reducible refine finishOk_only _ _ ?_ (by decide))
      | (with_reducible refine sends_only _ _ ?_ (by decide))
      | (with_reducible refine send_only _ _ ?_ (by decide))
      | (with_reducible refine only_when _ _ ?_ ?_)
      | (intro)
      | (split))

theorem mgmtStop_only {ps : List Part} {s0 : State}  (s : State)
    (h : Only ps s0 s) (hp : [.mgmt] ⊆ ps) : Only ps s0 (mgmtStop s) :=
  Only.via hp h (by
    unfold mgmtStop
    repeat' first
      | (with_reducible assumption)
      | (with_reducible refine updMgmt_only _ _ ?_ (by decide))
      | (intro)
      | (extract_lets +onlyGivenNames s1; refine only_cut s1 ?_ ?_; unfold s1; clear s1; rotate_left; intro hs1; clear_value s1; rotate_right)
      | (extract_lets +onlyGivenNames v1)
      | (with_reducible exact only_refl _ _))

theorem mgmtExpiry_only {ps : List Part} {s0 : State}  (s : State)
    (h : Only ps s0 s) (hp : [.mgmt, .recd] ⊆ ps) : Only ps s0 (mgmtExpiry s) :=
  Only.via hp h (by
    unfold mgmtExpiry
    repeat' first
      | (with_reducible assumption)
      | (with_reducible refine recEvent_only _ _ ?_ (by decide))
      | (with_reducible refine updMgmt_only _ _ ?_ (by decide))
      | (with_reducible refine mgmtStop_only _ ?_ (by decide))
      | (intro)
      | (split)
      | (with_reducible exact only_refl _ _))

theorem mgmtRestart_only {ps : List Part} {s0 : State}  (s : State)
    (h : Only ps s0 s) (hp : [.frame, .host, .inst, .therm, .mgmt, .pins, .recd, .emit] ⊆ ps) : Only ps s0 (mgmtRestart s) :=
  Only.via hp h (by
    unfold mgmtRestart
    repeat' first
      | (with_reducible assumption)
      | (with_reducible refine updMgmt_only _ _ ?_ (by decide))
      | (with_reducible refine judgeWarnings_only _ ?_ (by decide))
      | (with_reducible refine judgeOver_only _ _ _ ?_ (by decide))
      | (with_reducible refine mctpDispatch_only _ _ _ ?_ (by decide))
      | (with_reducible refine only_forEach _ _ _ ?_ ?_)
      | (intro)
      | (extract_lets +onlyGivenNames s1; refine only_cut s1 ?_ ?_; unfold s1; clear s1; rotate_left; intro hs1; clear_value s1; rotate_right)
      | (extract_lets +onlyGivenNames v1)
      | (split)
      | (with_reducible exact only_refl _ _))

theorem updHost_only {ps : List Part} {s0 : State} (x0 : HostSt → HostSt) (s : State)
    (h : Only ps s0 s) (hp : [.host] ⊆ ps) : Only ps s0 (updHost x0 s) :=
  Only.via hp h (by
    unfold updHost
    repeat' first
      | (with_reducible assumption)
      | (intro)
      | (with_reducible exact only_refl _ _)
      | (refine only_host _ ?_ (by decide)))

theorem setCore_only {ps : List Part} {s0 : State} (k : Nat) (c : Core) (s : State)
    (h : Only ps s0 s) (hp : [.host] ⊆ ps) : Only ps s0 (setCore k c s) :=
  Only.via hp h (by
    unfold setCore
    repeat' first
      | (with_reducible assumption)
      | (with_reducible refine updHost_only _ _ ?_ (by decide))
      | (intro)
      | (with_reducible exact only_refl _ _))

theorem moveQueue_only {ps : List Part} {s0 : State} (fn : Nat) (q : Nat) (k : Nat) (s : State)
    (h : Only ps s0 s) (hp : [.host] ⊆ ps) : Only ps s0 (moveQueue fn q k s) :=
  Only.via hp h (by
    unfold moveQueue
    repeat' first
      | (with_reducible assumption)
      | (with_reducible refine updCtl_only _ _ _ ?_ (by decide))
      | (intro)
      | (with_reducible exact only_refl _ _))

theorem moveShard_only {ps : List Part} {s0 : State} (k : Nat) (s : State)
    (h : Only ps s0 s) (hp : [.host] ⊆ ps) : Only ps s0 (moveShard k s) :=
  Only.via hp h (by
    unfold moveShard
    repeat' first
      | (with_reducible assumption)
      | (with_reducible refine moveQueue_only _ _ _ _ ?_ (by decide))
      | (with_reducible refine only_forEach _ _ _ ?_ ?_)
      | (intro)
      | (with_reducible exact only_refl _ _))

theorem coreExpiry_only {ps : List Part} {s0 : State} (k : Nat) (s : State)
    (h : Only ps s0 s) (hp : [.host, .recd] ⊆ ps) : Only ps s0 (coreExpiry k s) :=
  Only.via hp h (by
    unfold coreExpiry
    repeat' first
      | (with_reducible assumption)
      | (with_reducible refine recEvent_only _ _ ?_ (by decide))
      | (with_reducible refine setCore_only _ _ _ ?_ (by decide))
      | (with_reducible refine moveShard_only _ _ ?_ (by decide))
      | (intro)
      | (extract_lets +onlyGivenNames s1; refine only_cut s1 ?_ ?_; unfold s1; clear s1; rotate_left; intro hs1; clear_value s1; rotate_right)
      | (extract_lets +onlyGivenNames v1)
      | (split)
      | (with_reducible exact only_refl _ _))

theorem coreRestart_only {ps : List Part} {s0 : State} (k : Nat) (s : State)
    (h : Only ps s0 s) (hp : [.mbx, .host, .emit] ⊆ ps) : Only ps s0 (coreRestart k s) :=
  Only.via hp h (by
    unfold coreRestart
    repeat' first
      | (with_reducible assumption)
      | (with_reducible refine setCore_only _ _ _ ?_ (by decide))
      | (with_reducible refine updHost_only _ _ ?_ (by decide))
      | (with_reducible refine reopen_only _ ?_ (by decide))
      | (with_reducible refine moveShard_only _ _ ?_ (by decide))
      | (with_reducible refine only_when _ _ ?_ ?_)
      | (with_reducible refine only_forEach _ _ _ ?_ ?_)
      | (intro)
      | (extract_lets +onlyGivenNames s1; refine only_cut s1 ?_ ?_; unfold s1; clear s1; rotate_left; intro hs1; clear_value s1; rotate_right)
      | (extract_lets +onlyGivenNames v1)
      | (split)
      | (with_reducible exact only_refl _ _))

theorem rebalance_only {ps : List Part} {s0 : State}  (s : State)
    (h : Only ps s0 s) (hp : [.host] ⊆ ps) : Only ps s0 (rebalance s) :=
  Only.via hp h (by
    unfold rebalance
    repeat' first
      | (with_reducible assumption)
      | (with_reducible refine moveQueue_only _ _ _ _ ?_ (by decide))
      | (with_reducible refine updHost_only _ _ ?_ (by decide))
      | (with_reducible refine only_when _ _ ?_ ?_)
      | (with_reducible refine only_forEach _ _ _ ?_ ?_)
      | (intro)
      | (extract_lets +onlyGivenNames s1; refine only_cut s1 ?_ ?_; unfold s1; clear s1; rotate_left; intro hs1; clear_value s1; rotate_right)
      | (extract_lets +onlyGivenNames v1)
      | (split)
      | (with_reducible exact only_refl _ _))

end Sys2Proof.Machine
end

