-- ==== Sys2Proof/Laws/Only/Integrity.lean ====
section
/-! SUPPORT. Which groups of state each operation of Machine/Integrity.lean can change. -/

set_option linter.tactic.unusedName false

namespace Sys2Proof.Machine

theorem eccPut_only {ps : List Part} {s0 : State} (r : Posted) (w : BitVec 80) (s : State)
    (h : Only ps s0 s) (hp : [.ecc] ⊆ ps) : Only ps s0 (eccPut r w s) :=
  Only.via hp h (by
    unfold eccPut
    repeat' first
      | (with_reducible assumption)
      | (intro)
      | (split)
      | (with_reducible exact only_refl _ _)
      | (refine only_ecc _ ?_ (by decide)))

theorem eccReply_only {ps : List Part} {s0 : State} (r : Posted) (w0 : Nat) (d : Quad) (w3 : Nat) (s : State)
    (h : Only ps s0 s) (hp : [.mbx, .emit] ⊆ ps) : Only ps s0 (eccReply r w0 d w3 s) :=
  Only.via hp h (by
    unfold eccReply
    repeat' first
      | (with_reducible assumption)
      | (with_reducible refine replyOk_only _ _ _ ?_ (by decide))
      | (intro)
      | (with_reducible exact only_refl _ _))

theorem eccRow_only {ps : List Part} {s0 : State} (sub : Nat) (body : Posted → State → State) (s : State)
    (h : Only ps s0 s) (hf0 : ∀ a t, Only ps s0 t → Only ps s0 (body a t)) (hp : [.mbx, .emit] ⊆ ps) :
    Only ps s0 (eccRow sub body s) := by
  unfold eccRow
  repeat' first
    | (with_reducible assumption)
    | (with_reducible refine hf0 _ _ ?_)
    | (with_reducible refine scp_only _ _ _ _ _ ?_ ?_ (List.Subset.trans (by decide) hp))
    | (with_reducible refine replyRefused_only _ _ _ ?_ (List.Subset.trans (by decide) hp))
    | (with_reducible refine replyConflict_only _ _ _ _ ?_ (List.Subset.trans (by decide) hp))
    | (with_reducible refine replyInvalid_only _ _ _ ?_ (List.Subset.trans (by decide) hp))
    | (intro)
    | (split)
    | (with_reducible exact only_refl _ _)

theorem eccEnter_only {ps : List Part} {s0 : State} (r : Posted) (s : State)
    (h : Only ps s0 s) (hp : [.mbx, .ecc, .emit] ⊆ ps) : Only ps s0 (eccEnter r s) :=
  Only.via hp h (by
    unfold eccEnter
    repeat' first
      | (with_reducible assumption)
      | (with_reducible refine eccReply_only _ _ _ _ _ ?_ (by decide))
      | (intro)
      | (with_reducible exact only_refl _ _)
      | (refine only_ecc _ ?_ (by decide)))

theorem eccWriteRaw_only {ps : List Part} {s0 : State} (r : Posted) (s : State)
    (h : Only ps s0 s) (hp : [.mbx, .ecc, .emit] ⊆ ps) : Only ps s0 (eccWriteRaw r s) :=
  Only.via hp h (by
    unfold eccWriteRaw
    repeat' first
      | (with_reducible assumption)
      | (with_reducible refine eccReply_only _ _ _ _ _ ?_ (by decide))
      | (with_reducible refine eccPut_only _ _ _ ?_ (by decide))
      | (intro)
      | (with_reducible exact only_refl _ _))

theorem eccReadRaw_only {ps : List Part} {s0 : State} (r : Posted) (s : State)
    (h : Only ps s0 s) (hp : [.mbx, .emit] ⊆ ps) : Only ps s0 (eccReadRaw r s) :=
  Only.via hp h (by
    unfold eccReadRaw
    repeat' first
      | (with_reducible assumption)
      | (with_reducible refine eccReply_only _ _ _ _ _ ?_ (by decide))
      | (intro)
      | (extract_lets +onlyGivenNames s1; refine only_cut s1 ?_ ?_; unfold s1; clear s1; rotate_left; intro hs1; clear_value s1; rotate_right)
      | (extract_lets +onlyGivenNames v1)
      | (with_reducible exact only_refl _ _))

theorem eccRead_only {ps : List Part} {s0 : State} (r : Posted) (s : State)
    (h : Only ps s0 s) (hp : [.mbx, .emit] ⊆ ps) : Only ps s0 (eccRead r s) :=
  Only.via hp h (by
    unfold eccRead
    repeat' first
      | (with_reducible assumption)
      | (with_reducible refine eccReply_only _ _ _ _ _ ?_ (by decide))
      | (intro)
      | (extract_lets +onlyGivenNames s1; refine only_cut s1 ?_ ?_; unfold s1; clear s1; rotate_left; intro hs1; clear_value s1; rotate_right)
      | (extract_lets +onlyGivenNames v1)
      | (split)
      | (with_reducible exact only_refl _ _))

theorem eccWrite_only {ps : List Part} {s0 : State} (r : Posted) (s : State)
    (h : Only ps s0 s) (hp : [.mbx, .ecc, .emit, .free] ⊆ ps) : Only ps s0 (eccWrite r s) :=
  Only.via hp h (by
    unfold eccWrite
    repeat' first
      | (with_reducible assumption)
      | (with_reducible refine eccReply_only _ _ _ _ _ ?_ (by decide))
      | (with_reducible refine eccPut_only _ _ _ ?_ (by decide))
      | (with_reducible refine drawNat_only ?_ (by decide))
      | (with_reducible refine drawNat_only2 ?_ (by decide) (by assumption))
      | (intro)
      | (extract_lets +onlyGivenNames s1; refine only_cut s1 ?_ ?_; unfold s1; clear s1; rotate_left; intro hs1; clear_value s1; rotate_right)
      | (extract_lets +onlyGivenNames v1)
      | (split)
      | (with_reducible exact only_refl _ _))

theorem eccEncode_only {ps : List Part} {s0 : State} (r : Posted) (s : State)
    (h : Only ps s0 s) (hp : [.mbx, .emit] ⊆ ps) : Only ps s0 (eccEncode r s) :=
  Only.via hp h (by
    unfold eccEncode
    repeat' first
      | (with_reducible assumption)
      | (with_reducible refine eccReply_only _ _ _ _ _ ?_ (by decide))
      | (intro)
      | (with_reducible exact only_refl _ _))

theorem poisonLanded_only {ps : List Part} {s0 : State} (order : Nat) (s : State)
    (h : Only ps s0 s) (hp : [.frame, .host, .media, .inst, .therm, .pins, .recd, .emit] ⊆ ps) : Only ps s0 (poisonLanded order s) :=
  Only.via hp h (by
    unfold poisonLanded
    repeat' first
      | (with_reducible assumption)
      | (with_reducible refine recDataErr_only _ _ _ ?_ (by decide))
      | (with_reducible refine updLanded_only _ _ _ ?_ (by decide))
      | (with_reducible refine setCritical_only _ _ ?_ (by decide))
      | (with_reducible refine callWrite_only _ ?_ (by decide))
      | (intro)
      | (extract_lets +onlyGivenNames s1; refine only_cut s1 ?_ ?_; unfold s1; clear s1; rotate_left; intro hs1; clear_value s1; rotate_right)
      | (extract_lets +onlyGivenNames v1)
      | (split)
      | (with_reducible exact only_refl _ _)
      | (refine only_therm _ ?_ (by decide)))

theorem damageRecord_only {ps : List Part} {s0 : State} (n : Nat) (s : State)
    (h : Only ps s0 s) (hp : [.recd] ⊆ ps) : Only ps s0 (damageRecord n s) :=
  Only.via hp h (by
    unfold damageRecord
    repeat' first
      | (with_reducible assumption)
      | (with_reducible refine recEvent_only _ _ ?_ (by decide))
      | (with_reducible refine updRecd_only _ _ ?_ (by decide))
      | (intro)
      | (extract_lets +onlyGivenNames s1; refine only_cut s1 ?_ ?_; unfold s1; clear s1; rotate_left; intro hs1; clear_value s1; rotate_right)
      | (extract_lets +onlyGivenNames k1; have _ck := fun x => (k1 x : State → State); clear _ck)
      | (extract_lets +onlyGivenNames k1; have _ck := fun x => (k1 x : State); clear _ck)
      | (extract_lets +onlyGivenNames v1)
      | (split)
      | (with_reducible exact only_refl _ _)
      | (dsimp only [k1]))

theorem forceLaneReset_only {ps : List Part} {s0 : State} (l : Nat) (s : State)
    (h : Only ps s0 s) (hp : [.frame, .recd, .free] ⊆ ps) : Only ps s0 (forceLaneReset l s) :=
  Only.via hp h (by
    unfold forceLaneReset
    repeat' first
      | (with_reducible assumption)
      | (with_reducible refine resetLane_only _ _ ?_ (by decide))
      | (with_reducible refine setLane_only _ _ _ ?_ (by decide))
      | (intro)
      | (with_reducible exact only_refl _ _))

theorem porchOutLost_only {ps : List Part} {s0 : State} (rd : Nat) (s : State)
    (h : Only ps s0 s) (hp : [.frame, .host, .media, .flash, .inst, .recd, .emit] ⊆ ps) : Only ps s0 (porchOutLost rd s) :=
  Only.via hp h (by
    unfold porchOutLost
    repeat' first
      | (with_reducible assumption)
      | (with_reducible refine rereadUnit_only _ _ _ _ ?_ (by decide))
      | (intro)
      | (split)
      | (with_reducible exact only_refl _ _))

theorem wordLost_only {ps : List Part} {s0 : State} (w : WordOf) (s : State)
    (h : Only ps s0 s) (hp : [.frame, .host, .zone, .media, .flash, .inst, .therm, .pins, .recd, .emit, .free] ⊆ ps) : Only ps s0 (wordLost w s) :=
  Only.via hp h (by
    unfold wordLost
    repeat' first
      | (with_reducible assumption)
      | (with_reducible refine poisonLanded_only _ _ ?_ (by decide))
      | (with_reducible refine updFlash_only _ _ ?_ (by decide))
      | (with_reducible refine failItem_only _ _ _ ?_ (by decide))
      | (with_reducible refine updCtl_only _ _ _ ?_ (by decide))
      | (with_reducible refine recDataErr_only _ _ _ ?_ (by decide))
      | (with_reducible refine porchOutLost_only _ _ ?_ (by decide))
      | (with_reducible refine climb_only _ _ ?_ (by decide))
      | (with_reducible refine forceLaneReset_only _ _ ?_ (by decide))
      | (with_reducible refine damageRecord_only _ _ ?_ (by decide))
      | (with_reducible refine only_forEach _ _ _ ?_ ?_)
      | (intro)
      | (split)
      | (with_reducible exact only_refl _ _))

theorem countScrub_only {ps : List Part} {s0 : State} (k : Nat) (x1 : ScrubErr) (s : State)
    (h : Only ps s0 s) (hp : [.recd] ⊆ ps) : Only ps s0 (countScrub k x1 s) :=
  Only.via hp h (by
    unfold countScrub
    repeat' first
      | (with_reducible assumption)
      | (with_reducible refine updRec_only _ _ ?_ (by decide))
      | (intro)
      | (extract_lets +onlyGivenNames s1; refine only_cut s1 ?_ ?_; unfold s1; clear s1; rotate_left; intro hs1; clear_value s1; rotate_right)
      | (extract_lets +onlyGivenNames v1)
      | (split)
      | (with_reducible exact only_refl _ _))

theorem scrub_only {ps : List Part} {s0 : State} (k : Nat) (errs : List ScrubErr) (s : State)
    (h : Only ps s0 s) (hp : [.frame, .host, .zone, .media, .flash, .inst, .therm, .pins, .recd, .emit, .free] ⊆ ps) : Only ps s0 (scrub k errs s) :=
  Only.via hp h (by
    unfold scrub
    repeat' first
      | (with_reducible assumption)
      | (with_reducible refine wordLost_only _ _ ?_ (by decide))
      | (with_reducible refine countScrub_only _ _ _ ?_ (by decide))
      | (with_reducible refine only_forEach _ _ _ ?_ ?_)
      | (intro)
      | (split)
      | (with_reducible exact only_refl _ _))

theorem setTrng_only {ps : List Part} {s0 : State} (ok : Bool) (s : State)
    (h : Only ps s0 s) (hp : [.prot] ⊆ ps) : Only ps s0 (setTrng ok s) :=
  Only.via hp h (by
    unfold setTrng
    repeat' first
      | (with_reducible assumption)
      | (intro)
      | (with_reducible exact only_refl _ _)
      | (refine only_prot _ ?_ (by decide)))

theorem placePolicySet_only {ps : List Part} {s0 : State} (r : Posted) (s : State)
    (h : Only ps s0 s) (hp : [.mbx, .media, .emit] ⊆ ps) : Only ps s0 (placePolicySet r s) :=
  Only.via hp h (by
    unfold placePolicySet
    repeat' first
      | (with_reducible assumption)
      | (with_reducible refine replyOk_only _ _ _ ?_ (by decide))
      | (with_reducible refine updMedia_only _ _ ?_ (by decide))
      | (with_reducible refine only_getD ?_ ?_)
      | (intro)
      | (extract_lets +onlyGivenNames s1; refine only_cut s1 ?_ ?_; unfold s1; clear s1; rotate_left; intro hs1; clear_value s1; rotate_right)
      | (extract_lets +onlyGivenNames v1)
      | (split)
      | (with_reducible exact only_refl _ _))

theorem applyPolicy_only {ps : List Part} {s0 : State}  (s : State)
    (h : Only ps s0 s) (hp : [.media] ⊆ ps) : Only ps s0 (applyPolicy s) :=
  Only.via hp h (by
    unfold applyPolicy
    repeat' first
      | (with_reducible assumption)
      | (with_reducible refine updMedia_only _ _ ?_ (by decide))
      | (intro)
      | (split)
      | (with_reducible exact only_refl _ _))

theorem placeQuery_only {ps : List Part} {s0 : State} (r : Posted) (s : State)
    (h : Only ps s0 s) (hp : [.mbx, .emit] ⊆ ps) : Only ps s0 (placeQuery r s) :=
  Only.via hp h (by
    unfold placeQuery
    repeat' first
      | (with_reducible assumption)
      | (with_reducible refine replyOk_only _ _ _ ?_ (by decide))
      | (intro)
      | (split)
      | (with_reducible exact only_refl _ _))

end Sys2Proof.Machine
end

