-- ==== Sys2Proof/Laws/Only/Owner.lean ====
section
/-! SUPPORT. Which groups of state each operation of Machine/Owner.lean can change. -/

set_option linter.tactic.unusedName false

namespace Sys2Proof.Machine

theorem updProt_only {ps : List Part} {s0 : State} (x0 : ProtSt → ProtSt) (s : State)
    (h : Only ps s0 s) (hp : [.prot] ⊆ ps) : Only ps s0 (updProt x0 s) :=
  Only.via hp h (by
    unfold updProt
    repeat' first
      | (with_reducible assumption)
      | (intro)
      | (with_reducible exact only_refl _ _)
      | (refine only_prot _ ?_ (by decide)))

theorem ownerReply_only {ps : List Part} {s0 : State} (status : Nat) (words : List Nat) (s : State)
    (h : Only ps s0 s) (hp : [.emit] ⊆ ps) : Only ps s0 (ownerReply status words s) :=
  Only.via hp h (by
    unfold ownerReply
    repeat' first
      | (with_reducible assumption)
      | (with_reducible refine send_only _ _ ?_ (by decide))
      | (intro)
      | (with_reducible exact only_refl _ _))

theorem askReply_only {ps : List Part} {s0 : State} (a : Asker) (status : Nat) (words : List Nat) (s : State)
    (h : Only ps s0 s) (hp : [.mbx, .emit] ⊆ ps) : Only ps s0 (askReply a status words s) :=
  Only.via hp h (by
    unfold askReply
    repeat' first
      | (with_reducible assumption)
      | (with_reducible refine reply_only _ _ _ _ ?_ (by decide))
      | (with_reducible refine ownerReply_only _ _ _ ?_ (by decide))
      | (intro)
      | (split)
      | (with_reducible exact only_refl _ _))

theorem askOk_only {ps : List Part} {s0 : State} (a : Asker) (words : List Nat) (s : State)
    (h : Only ps s0 s) (hp : [.mbx, .emit] ⊆ ps) : Only ps s0 (askOk a words s) :=
  Only.via hp h (by
    unfold askOk
    repeat' first
      | (with_reducible assumption)
      | (with_reducible refine askReply_only _ _ _ _ ?_ (by decide))
      | (intro)
      | (with_reducible exact only_refl _ _))

theorem askRefused_only {ps : List Part} {s0 : State} (a : Asker) (reason : Nat) (s : State)
    (h : Only ps s0 s) (hp : [.mbx, .emit] ⊆ ps) : Only ps s0 (askRefused a reason s) :=
  Only.via hp h (by
    unfold askRefused
    repeat' first
      | (with_reducible assumption)
      | (with_reducible refine askReply_only _ _ _ _ ?_ (by decide))
      | (intro)
      | (with_reducible exact only_refl _ _))

theorem askInvalid_only {ps : List Part} {s0 : State} (a : Asker) (i : Nat) (s : State)
    (h : Only ps s0 s) (hp : [.mbx, .emit] ⊆ ps) : Only ps s0 (askInvalid a i s) :=
  Only.via hp h (by
    unfold askInvalid
    repeat' first
      | (with_reducible assumption)
      | (with_reducible refine askReply_only _ _ _ _ ?_ (by decide))
      | (intro)
      | (with_reducible exact only_refl _ _))

theorem askConflict_only {ps : List Part} {s0 : State} (a : Asker) (kind : Nat) (holder : Nat) (s : State)
    (h : Only ps s0 s) (hp : [.mbx, .emit] ⊆ ps) : Only ps s0 (askConflict a kind holder s) :=
  Only.via hp h (by
    unfold askConflict
    repeat' first
      | (with_reducible assumption)
      | (with_reducible refine askReply_only _ _ _ _ ?_ (by decide))
      | (intro)
      | (with_reducible exact only_refl _ _))

theorem askAuth_only {ps : List Part} {s0 : State} (a : Asker) (s : State)
    (h : Only ps s0 s) (hp : [.mbx, .emit] ⊆ ps) : Only ps s0 (askAuth a s) :=
  Only.via hp h (by
    unfold askAuth
    repeat' first
      | (with_reducible assumption)
      | (with_reducible refine askReply_only _ _ _ _ ?_ (by decide))
      | (intro)
      | (with_reducible exact only_refl _ _))

theorem askBusy_only {ps : List Part} {s0 : State} (a : Asker) (s : State)
    (h : Only ps s0 s) (hp : [.mbx, .emit] ⊆ ps) : Only ps s0 (askBusy a s) :=
  Only.via hp h (by
    unfold askBusy
    repeat' first
      | (with_reducible assumption)
      | (with_reducible refine askReply_only _ _ _ _ ?_ (by decide))
      | (intro)
      | (with_reducible exact only_refl _ _))

theorem askPending_only {ps : List Part} {s0 : State} (a : Asker) (s : State)
    (h : Only ps s0 s) (hp : [.mbx, .emit] ⊆ ps) : Only ps s0 (askPending a s) :=
  Only.via hp h (by
    unfold askPending
    repeat' first
      | (with_reducible assumption)
      | (with_reducible refine replyPending_only _ _ ?_ (by decide))
      | (with_reducible refine send_only _ _ ?_ (by decide))
      | (intro)
      | (split)
      | (with_reducible exact only_refl _ _))

theorem ownerLater_only {ps : List Part} {s0 : State} (status : Nat) (words : List Nat) (s : State)
    (h : Only ps s0 s) (hp : [.prot] ⊆ ps) : Only ps s0 (ownerLater status words s) :=
  Only.via hp h (by
    unfold ownerLater
    repeat' first
      | (with_reducible assumption)
      | (with_reducible refine updProt_only _ _ ?_ (by decide))
      | (intro)
      | (with_reducible exact only_refl _ _))

theorem ownerCollect_only {ps : List Part} {s0 : State}  (s : State)
    (h : Only ps s0 s) (hp : [.prot, .emit] ⊆ ps) : Only ps s0 (ownerCollect s) :=
  Only.via hp h (by
    unfold ownerCollect
    repeat' first
      | (with_reducible assumption)
      | (with_reducible refine send_only _ _ ?_ (by decide))
      | (with_reducible refine ownerReply_only _ _ _ ?_ (by decide))
      | (with_reducible refine updProt_only _ _ ?_ (by decide))
      | (intro)
      | (split)
      | (with_reducible exact only_refl _ _))

theorem askFinal_only {ps : List Part} {s0 : State} (a : Asker) (status : Nat) (words : List Nat) (s : State)
    (h : Only ps s0 s) (hp : [.mbx, .prot, .emit] ⊆ ps) : Only ps s0 (askFinal a status words s) :=
  Only.via hp h (by
    unfold askFinal
    repeat' first
      | (with_reducible assumption)
      | (with_reducible refine finalReply_only _ _ _ _ _ ?_ (by decide))
      | (with_reducible refine ownerLater_only _ _ _ ?_ (by decide))
      | (intro)
      | (split)
      | (with_reducible exact only_refl _ _))

theorem spdmUnsupported_only {ps : List Part} {s0 : State}  (s : State)
    (h : Only ps s0 s) (hp : [.emit] ⊆ ps) : Only ps s0 (spdmUnsupported s) :=
  Only.via hp h (by
    unfold spdmUnsupported
    repeat' first
      | (with_reducible assumption)
      | (with_reducible refine send_only _ _ ?_ (by decide))
      | (intro)
      | (with_reducible exact only_refl _ _))

theorem ownerWakes_only {ps : List Part} {s0 : State} (body : State → State) (s : State)
    (h : Only ps s0 s) (hf0 : ∀ t, Only ps s0 t → Only ps s0 (body t)) (hp : [.power, .emit] ⊆ ps) :
    Only ps s0 (ownerWakes body s) := by
  unfold ownerWakes
  repeat' first
    | (with_reducible assumption)
    | (with_reducible refine hf0 _ ?_)
    | (with_reducible refine wake_only _ ?_ (List.Subset.trans (by decide) hp))
    | (intro)
    | (split)
    | (with_reducible exact only_refl _ _)

theorem ownerQuiet_only {ps : List Part} {s0 : State} (l : Sideband) (body : State → State) (s : State)
    (h : Only ps s0 s) (hf0 : ∀ t, Only ps s0 t → Only ps s0 (body t)) (hp : [.emit] ⊆ ps) :
    Only ps s0 (ownerQuiet l body s) := by
  unfold ownerQuiet
  repeat' first
    | (with_reducible assumption)
    | (with_reducible refine hf0 _ ?_)
    | (with_reducible refine spdmUnsupported_only _ ?_ (List.Subset.trans (by decide) hp))
    | (intro)
    | (split)
    | (with_reducible exact only_refl _ _)

theorem ownerRow_only {ps : List Part} {s0 : State} (l : Sideband) (body : State → State) (s : State)
    (h : Only ps s0 s) (hf0 : ∀ t, Only ps s0 t → Only ps s0 (body t)) (hp : [.power, .emit] ⊆ ps) :
    Only ps s0 (ownerRow l body s) := by
  unfold ownerRow
  repeat' first
    | (with_reducible assumption)
    | (with_reducible refine hf0 _ ?_)
    | (with_reducible refine ownerQuiet_only _ _ _ ?_ ?_ (List.Subset.trans (by decide) hp))
    | (with_reducible refine ownerWakes_only _ _ ?_ ?_ (List.Subset.trans (by decide) hp))
    | (intro)
    | (with_reducible exact only_refl _ _)

theorem ownerClaimRow_only {ps : List Part} {s0 : State} (l : Sideband) (body : State → State) (s : State)
    (h : Only ps s0 s) (hf0 : ∀ t, Only ps s0 t → Only ps s0 (body t)) (hp : [.emit] ⊆ ps) :
    Only ps s0 (ownerClaimRow l body s) := by
  unfold ownerClaimRow
  repeat' first
    | (with_reducible assumption)
    | (with_reducible refine hf0 _ ?_)
    | (with_reducible refine spdmUnsupported_only _ ?_ (List.Subset.trans (by decide) hp))
    | (intro)
    | (split)
    | (with_reducible exact only_refl _ _)

end Sys2Proof.Machine
end

