-- ==== Sys2Proof/Laws/Only/Firmware.lean ====
section
/-! SUPPORT. Which groups of state each operation of Machine/Firmware.lean can change. -/

set_option linter.tactic.unusedName false

namespace Sys2Proof.Machine

theorem updFw_only {ps : List Part} {s0 : State} (x0 : FwSt → FwSt) (s : State)
    (h : Only ps s0 s) (hp : [.fw] ⊆ ps) : Only ps s0 (updFw x0 s) :=
  Only.via hp h (by
    unfold updFw
    repeat' first
      | (with_reducible assumption)
      | (intro)
      | (with_reducible exact only_refl _ _)
      | (refine only_fw _ ?_ (by decide)))

theorem updSlotAt_only {ps : List Part} {s0 : State} (n : Nat) (x1 : FwSlot → FwSlot) (s : State)
    (h : Only ps s0 s) (hp : [.fw] ⊆ ps) : Only ps s0 (updSlotAt n x1 s) :=
  Only.via hp h (by
    unfold updSlotAt
    repeat' first
      | (with_reducible assumption)
      | (with_reducible refine updFw_only _ _ ?_ (by decide))
      | (intro)
      | (split)
      | (with_reducible exact only_refl _ _))

theorem writeCfg_only {ps : List Part} {s0 : State} (x0 : Config412 → Config412) (s : State)
    (h : Only ps s0 s) (hp : [.fw] ⊆ ps) : Only ps s0 (writeCfg x0 s) :=
  Only.via hp h (by
    unfold writeCfg
    repeat' first
      | (with_reducible assumption)
      | (with_reducible refine updFw_only _ _ ?_ (by decide))
      | (intro)
      | (extract_lets +onlyGivenNames s1; refine only_cut s1 ?_ ?_; unfold s1; clear s1; rotate_left; intro hs1; clear_value s1; rotate_right)
      | (extract_lets +onlyGivenNames v1)
      | (split)
      | (with_reducible exact only_refl _ _))

theorem noteReason_only {ps : List Part} {s0 : State} (k : Nat) (s : State)
    (h : Only ps s0 s) (hp : [.fw, .recd] ⊆ ps) : Only ps s0 (noteReason k s) :=
  Only.via hp h (by
    unfold noteReason
    repeat' first
      | (with_reducible assumption)
      | (with_reducible refine updRec_only _ _ ?_ (by decide))
      | (with_reducible refine updFw_only _ _ ?_ (by decide))
      | (intro)
      | (with_reducible exact only_refl _ _))

theorem setOutcome_only {ps : List Part} {s0 : State} (imageId : Word) (st : Nat) (s : State)
    (h : Only ps s0 s) (hp : [.fw, .emit] ⊆ ps) : Only ps s0 (setOutcome imageId st s) :=
  Only.via hp h (by
    unfold setOutcome
    repeat' first
      | (with_reducible assumption)
      | (with_reducible refine updFw_only _ _ ?_ (by decide))
      | (with_reducible refine send_only _ _ ?_ (by decide))
      | (with_reducible refine only_when _ _ ?_ ?_)
      | (intro)
      | (extract_lets +onlyGivenNames s1; refine only_cut s1 ?_ ?_; unfold s1; clear s1; rotate_left; intro hs1; clear_value s1; rotate_right)
      | (extract_lets +onlyGivenNames v1)
      | (split)
      | (with_reducible exact only_refl _ _))

theorem forwardImage_only {ps : List Part} {s0 : State} (i : Image) (s : State)
    (h : Only ps s0 s) (hp : [.fw, .emit] ⊆ ps) : Only ps s0 (forwardImage i s) :=
  Only.via hp h (by
    unfold forwardImage
    repeat' first
      | (with_reducible assumption)
      | (with_reducible refine send_only _ _ ?_ (by decide))
      | (with_reducible refine updFw_only _ _ ?_ (by decide))
      | (intro)
      | (extract_lets +onlyGivenNames s1; refine only_cut s1 ?_ ?_; unfold s1; clear s1; rotate_left; intro hs1; clear_value s1; rotate_right)
      | (extract_lets +onlyGivenNames v1)
      | (split)
      | (with_reducible exact only_refl _ _))

theorem forwardMsg_only {ps : List Part} {s0 : State} (m : CorrMsg) (s : State)
    (h : Only ps s0 s) (hp : [.emit] ⊆ ps) : Only ps s0 (forwardMsg m s) :=
  Only.via hp h (by
    unfold forwardMsg
    repeat' first
      | (with_reducible assumption)
      | (with_reducible refine send_only _ _ ?_ (by decide))
      | (with_reducible refine only_when _ _ ?_ ?_)
      | (intro)
      | (with_reducible exact only_refl _ _))

theorem stageFails_only {ps : List Part} {s0 : State} (slot : Nat) (st : SlotSt) (s : State)
    (h : Only ps s0 s) (hp : [.fw] ⊆ ps) : Only ps s0 (stageFails slot st s) :=
  Only.via hp h (by
    unfold stageFails
    repeat' first
      | (with_reducible assumption)
      | (with_reducible refine updSlotAt_only _ _ _ ?_ (by decide))
      | (with_reducible refine updFw_only _ _ ?_ (by decide))
      | (intro)
      | (split)
      | (with_reducible exact only_refl _ _))

theorem beginWrite_only {ps : List Part} {s0 : State} (g : Staging) (i : Image) (s : State)
    (h : Only ps s0 s) (hp : [.media, .fw, .emit] ⊆ ps) : Only ps s0 (beginWrite g i s) :=
  Only.via hp h (by
    unfold beginWrite
    repeat' first
      | (with_reducible assumption)
      | (with_reducible refine updSlotAt_only _ _ _ ?_ (by decide))
      | (with_reducible refine eraseSlot_only _ _ ?_ (by decide))
      | (with_reducible refine updFw_only _ _ ?_ (by decide))
      | (with_reducible refine forwardImage_only _ _ ?_ (by decide))
      | (with_reducible refine only_when _ _ ?_ ?_)
      | (with_reducible refine only_forEach _ _ _ ?_ ?_)
      | (intro)
      | (extract_lets +onlyGivenNames s1; refine only_cut s1 ?_ ?_; unfold s1; clear s1; rotate_left; intro hs1; clear_value s1; rotate_right)
      | (extract_lets +onlyGivenNames v1)
      | (with_reducible exact only_refl _ _))

theorem endStaging_only {ps : List Part} {s0 : State} (g : Staging) (checks : ImageChecks) (bad : State → State) (s : State)
    (h : Only ps s0 s) (hf0 : ∀ t, Only ps s0 t → Only ps s0 (bad t)) (hp : [.media, .fw, .emit] ⊆ ps) :
    Only ps s0 (endStaging g checks bad s) := by
  unfold endStaging
  repeat' first
    | (with_reducible assumption)
    | (with_reducible refine hf0 _ ?_)
    | (with_reducible refine setOutcome_only _ _ _ ?_ (List.Subset.trans (by decide) hp))
    | (with_reducible refine stageFails_only _ _ _ ?_ (List.Subset.trans (by decide) hp))
    | (with_reducible refine beginWrite_only _ _ _ ?_ (List.Subset.trans (by decide) hp))
    | (intro)
    | (extract_lets +onlyGivenNames s1; refine only_cut s1 ?_ ?_; unfold s1; clear s1; rotate_left; intro hs1; clear_value s1; rotate_right)
    | (extract_lets +onlyGivenNames v1)
    | (split)
    | (with_reducible exact only_refl _ _)

theorem takeChunk_only {ps : List Part} {s0 : State} (p : Path) (slot : Nat) (off : Nat) (b : List Byte) (forward : Bool) {s : State}
    (h : Only ps s0 s) (hp : [.fw] ⊆ ps) : Only ps s0 (takeChunk p slot off b forward s).2 :=
  Only.via hp h (by
    unfold takeChunk
    repeat' first
      | (with_reducible assumption)
      | (with_reducible refine updFw_only _ _ ?_ (by decide))
      | (intro)
      | (extract_lets +onlyGivenNames s1; refine only_cut s1 ?_ ?_; unfold s1; clear s1; rotate_left; intro hs1; clear_value s1; rotate_right)
      | (extract_lets +onlyGivenNames v1)
      | (split)
      | (with_reducible exact only_refl _ _))

theorem takeChunk_only2 {ps : List Part} {s0 : State} (p : Path) (slot : Nat) (off : Nat) (b : List Byte) (forward : Bool) {s t : State} {v}
    (h : Only ps s0 s) (hp : [.fw] ⊆ ps) (e : takeChunk p slot off b forward s = (v, t)) : Only ps s0 t := by
  have k := takeChunk_only p slot off b forward h hp
  rw [e] at k; exact k

theorem stageChunk_only {ps : List Part} {s0 : State} (a : Asker) (p : Path) (slot : Nat) (off : Nat) (b : List Byte) (last : Bool) (forward : Bool) (checks : ImageChecks) (s : State)
    (h : Only ps s0 s) (hp : [.mbx, .media, .prot, .fw, .emit] ⊆ ps) : Only ps s0 (stageChunk a p slot off b last forward checks s) :=
  Only.via hp h (by
    unfold stageChunk
    repeat' first
      | (with_reducible assumption)
      | (with_reducible refine takeChunk_only _ _ _ _ _ ?_ (by decide))
      | (with_reducible refine takeChunk_only2 _ _ _ _ _ ?_ (by decide) (by assumption))
      | (with_reducible refine askOk_only _ _ _ ?_ (by decide))
      | (with_reducible refine endStaging_only _ _ _ _ ?_ ?_ (by decide))
      | (with_reducible refine askFinal_only _ _ _ _ ?_ (by decide))
      | (with_reducible refine askPending_only _ _ ?_ (by decide))
      | (intro)
      | (extract_lets +onlyGivenNames s1; refine only_cut s1 ?_ ?_; unfold s1; clear s1; rotate_left; intro hs1; clear_value s1; rotate_right)
      | (extract_lets +onlyGivenNames v1)
      | (split)
      | (with_reducible exact only_refl _ _))

theorem fwStageScp_only {ps : List Part} {s0 : State} (dma : Dma) (checks : ImageChecks) (r : Posted) (s : State)
    (h : Only ps s0 s) (hp : [.mbx, .media, .inst, .prot, .ecc, .fw, .recd, .emit] ⊆ ps) : Only ps s0 (fwStageScp dma checks r s) :=
  Only.via hp h (by
    unfold fwStageScp
    repeat' first
      | (with_reducible assumption)
      | (with_reducible refine replyInvalid_only _ _ _ ?_ (by decide))
      | (with_reducible refine replyRefused_only _ _ _ ?_ (by decide))
      | (with_reducible refine noteReason_only _ _ ?_ (by decide))
      | (with_reducible refine descRead_only _ _ _ _ ?_ ?_ (by decide))
      | (with_reducible refine stageChunk_only _ _ _ _ _ _ _ _ _ ?_ (by decide))
      | (intro)
      | (extract_lets +onlyGivenNames s1; refine only_cut s1 ?_ ?_; unfold s1; clear s1; rotate_left; intro hs1; clear_value s1; rotate_right)
      | (extract_lets +onlyGivenNames v1)
      | (split)
      | (with_reducible exact only_refl _ _))

theorem fwStageOwner_only {ps : List Part} {s0 : State} (payload : List Byte) (checks : ImageChecks) (s : State)
    (h : Only ps s0 s) (hp : [.mbx, .media, .prot, .fw, .recd, .emit] ⊆ ps) : Only ps s0 (fwStageOwner payload checks s) :=
  Only.via hp h (by
    unfold fwStageOwner
    repeat' first
      | (with_reducible assumption)
      | (with_reducible refine askInvalid_only _ _ _ ?_ (by decide))
      | (with_reducible refine askRefused_only _ _ _ ?_ (by decide))
      | (with_reducible refine noteReason_only _ _ ?_ (by decide))
      | (with_reducible refine stageChunk_only _ _ _ _ _ _ _ _ _ ?_ (by decide))
      | (intro)
      | (extract_lets +onlyGivenNames s1; refine only_cut s1 ?_ ?_; unfold s1; clear s1; rotate_left; intro hs1; clear_value s1; rotate_right)
      | (extract_lets +onlyGivenNames v1)
      | (split)
      | (with_reducible exact only_refl _ _))

theorem stagedReply_only {ps : List Part} {s0 : State} (g : Staging) (i : Image) (s : State)
    (h : Only ps s0 s) (hp : [.frame, .mbx, .host, .inst, .prot, .recd, .emit] ⊆ ps) : Only ps s0 (stagedReply g i s) :=
  Only.via hp h (by
    unfold stagedReply
    repeat' first
      | (with_reducible assumption)
      | (with_reducible refine finalReply_only _ _ _ _ _ ?_ (by decide))
      | (with_reducible refine ownerLater_only _ _ _ ?_ (by decide))
      | (with_reducible refine finishOk_only _ _ ?_ (by decide))
      | (intro)
      | (split)
      | (with_reducible exact only_refl _ _))

theorem stageWritten_only {ps : List Part} {s0 : State}  (s : State)
    (h : Only ps s0 s) (hp : [.frame, .mbx, .host, .inst, .prot, .fw, .recd, .emit] ⊆ ps) : Only ps s0 (stageWritten s) :=
  Only.via hp h (by
    unfold stageWritten
    repeat' first
      | (with_reducible assumption)
      | (with_reducible refine updSlotAt_only _ _ _ ?_ (by decide))
      | (with_reducible refine updFw_only _ _ ?_ (by decide))
      | (with_reducible refine writeCfg_only _ _ ?_ (by decide))
      | (with_reducible refine stagedReply_only _ _ _ ?_ (by decide))
      | (with_reducible refine setOutcome_only _ _ _ ?_ (by decide))
      | (intro)
      | (extract_lets +onlyGivenNames s1; refine only_cut s1 ?_ ?_; unfold s1; clear s1; rotate_left; intro hs1; clear_value s1; rotate_right)
      | (extract_lets +onlyGivenNames v1)
      | (split)
      | (with_reducible exact only_refl _ _))

theorem imageDownload_only {ps : List Part} {s0 : State} (dma : Dma) (it : Item) (s : State)
    (h : Only ps s0 s) (hp : [.frame, .host, .inst, .fw, .recd, .emit] ⊆ ps) : Only ps s0 (imageDownload dma it s) :=
  Only.via hp h (by
    unfold imageDownload
    repeat' first
      | (with_reducible assumption)
      | (with_reducible refine finishBad_only _ _ _ ?_ (by decide))
      | (with_reducible refine noteReason_only _ _ ?_ (by decide))
      | (with_reducible refine finishOk_only _ _ ?_ (by decide))
      | (with_reducible refine takeChunk_only _ _ _ _ _ ?_ (by decide))
      | (with_reducible refine takeChunk_only2 _ _ _ _ _ ?_ (by decide) (by assumption))
      | (intro)
      | (extract_lets +onlyGivenNames s1; refine only_cut s1 ?_ ?_; unfold s1; clear s1; rotate_left; intro hs1; clear_value s1; rotate_right)
      | (extract_lets +onlyGivenNames v1)
      | (split)
      | (with_reducible exact only_refl _ _))

theorem commitReplace_only {ps : List Part} {s0 : State} (checks : ImageChecks) (it : Item) (s : State)
    (h : Only ps s0 s) (hp : [.frame, .host, .media, .inst, .fw, .recd, .emit] ⊆ ps) : Only ps s0 (commitReplace checks it s) :=
  Only.via hp h (by
    unfold commitReplace
    repeat' first
      | (with_reducible assumption)
      | (with_reducible refine finishBad_only _ _ _ ?_ (by decide))
      | (with_reducible refine noteReason_only _ _ ?_ (by decide))
      | (with_reducible refine endStaging_only _ _ _ _ ?_ ?_ (by decide))
      | (intro)
      | (extract_lets +onlyGivenNames s1; refine only_cut s1 ?_ ?_; unfold s1; clear s1; rotate_left; intro hs1; clear_value s1; rotate_right)
      | (extract_lets +onlyGivenNames v1)
      | (split)
      | (with_reducible exact only_refl _ _))

theorem dropSched_only {ps : List Part} {s0 : State} (reason : Nat) (s : State)
    (h : Only ps s0 s) (hp : [.frame, .mbx, .host, .inst, .fw, .recd, .emit] ⊆ ps) : Only ps s0 (dropSched reason s) :=
  Only.via hp h (by
    unfold dropSched
    repeat' first
      | (with_reducible assumption)
      | (with_reducible refine updFw_only _ _ ?_ (by decide))
      | (with_reducible refine finalReply_only _ _ _ _ _ ?_ (by decide))
      | (with_reducible refine finishBad_only _ _ _ ?_ (by decide))
      | (intro)
      | (extract_lets +onlyGivenNames s1; refine only_cut s1 ?_ ?_; unfold s1; clear s1; rotate_left; intro hs1; clear_value s1; rotate_right)
      | (extract_lets +onlyGivenNames v1)
      | (split)
      | (with_reducible exact only_refl _ _))

theorem takeSched_only {ps : List Part} {s0 : State} (c : Sched) (s : State)
    (h : Only ps s0 s) (hp : [.frame, .mbx, .host, .inst, .fw, .recd, .emit] ⊆ ps) : Only ps s0 (takeSched c s) :=
  Only.via hp h (by
    unfold takeSched
    repeat' first
      | (with_reducible assumption)
      | (with_reducible refine updFw_only _ _ ?_ (by decide))
      | (with_reducible refine dropSched_only _ _ ?_ (by decide))
      | (intro)
      | (with_reducible exact only_refl _ _))

theorem fwSchedule_only {ps : List Part} {s0 : State} (copyOk : Bool) (r : Posted) (s : State)
    (h : Only ps s0 s) (hp : [.frame, .mbx, .host, .inst, .fw, .recd, .emit] ⊆ ps) : Only ps s0 (fwSchedule copyOk r s) :=
  Only.via hp h (by
    unfold fwSchedule
    repeat' first
      | (with_reducible assumption)
      | (with_reducible refine replyInvalid_only _ _ _ ?_ (by decide))
      | (with_reducible refine replyRefused_only _ _ _ ?_ (by decide))
      | (with_reducible refine noteReason_only _ _ ?_ (by decide))
      | (with_reducible refine replyPending_only _ _ ?_ (by decide))
      | (with_reducible refine forwardMsg_only _ _ ?_ (by decide))
      | (with_reducible refine finalReply_only _ _ _ _ _ ?_ (by decide))
      | (with_reducible refine takeSched_only _ _ ?_ (by decide))
      | (with_reducible refine only_when _ _ ?_ ?_)
      | (intro)
      | (extract_lets +onlyGivenNames s1; refine only_cut s1 ?_ ?_; unfold s1; clear s1; rotate_left; intro hs1; clear_value s1; rotate_right)
      | (extract_lets +onlyGivenNames v1)
      | (split)
      | (with_reducible exact only_refl _ _))

theorem commitActivate_only {ps : List Part} {s0 : State} (copyOk : Bool) (it : Item) (s : State)
    (h : Only ps s0 s) (hp : [.frame, .mbx, .host, .inst, .fw, .recd, .emit] ⊆ ps) : Only ps s0 (commitActivate copyOk it s) :=
  Only.via hp h (by
    unfold commitActivate
    repeat' first
      | (with_reducible assumption)
      | (with_reducible refine finishBad_only _ _ _ ?_ (by decide))
      | (with_reducible refine noteReason_only _ _ ?_ (by decide))
      | (with_reducible refine takeSched_only _ _ ?_ (by decide))
      | (intro)
      | (extract_lets +onlyGivenNames s1; refine only_cut s1 ?_ ?_; unfold s1; clear s1; rotate_left; intro hs1; clear_value s1; rotate_right)
      | (extract_lets +onlyGivenNames v1)
      | (split)
      | (with_reducible exact only_refl _ _))

theorem prepareDone_only {ps : List Part} {s0 : State}  (s : State)
    (h : Only ps s0 s) (hp : [.mbx, .fw, .emit] ⊆ ps) : Only ps s0 (prepareDone s) :=
  Only.via hp h (by
    unfold prepareDone
    repeat' first
      | (with_reducible assumption)
      | (with_reducible refine updSlotAt_only _ _ _ ?_ (by decide))
      | (with_reducible refine updFw_only _ _ ?_ (by decide))
      | (with_reducible refine setOutcome_only _ _ _ ?_ (by decide))
      | (with_reducible refine finalReply_only _ _ _ _ _ ?_ (by decide))
      | (with_reducible refine only_when _ _ ?_ ?_)
      | (intro)
      | (extract_lets +onlyGivenNames s1; refine only_cut s1 ?_ ?_; unfold s1; clear s1; rotate_left; intro hs1; clear_value s1; rotate_right)
      | (extract_lets +onlyGivenNames v1)
      | (split)
      | (with_reducible exact only_refl _ _))

theorem cancelSched_only {ps : List Part} {s0 : State} (reason : Nat) (s : State)
    (h : Only ps s0 s) (hp : [.frame, .mbx, .host, .inst, .fw, .recd, .emit] ⊆ ps) : Only ps s0 (cancelSched reason s) :=
  Only.via hp h (by
    unfold cancelSched
    repeat' first
      | (with_reducible assumption)
      | (with_reducible refine updFw_only _ _ ?_ (by decide))
      | (with_reducible refine dropSched_only _ _ ?_ (by decide))
      | (intro)
      | (split)
      | (with_reducible exact only_refl _ _))

theorem fwCancel_only {ps : List Part} {s0 : State} (r : Posted) (s : State)
    (h : Only ps s0 s) (hp : [.frame, .mbx, .host, .inst, .fw, .recd, .emit] ⊆ ps) : Only ps s0 (fwCancel r s) :=
  Only.via hp h (by
    unfold fwCancel
    repeat' first
      | (with_reducible assumption)
      | (with_reducible refine replyRefused_only _ _ _ ?_ (by decide))
      | (with_reducible refine noteReason_only _ _ ?_ (by decide))
      | (with_reducible refine forwardMsg_only _ _ ?_ (by decide))
      | (with_reducible refine replyOk_only _ _ _ ?_ (by decide))
      | (with_reducible refine cancelSched_only _ _ ?_ (by decide))
      | (with_reducible refine only_when _ _ ?_ ?_)
      | (intro)
      | (extract_lets +onlyGivenNames s1; refine only_cut s1 ?_ ?_; unfold s1; clear s1; rotate_left; intro hs1; clear_value s1; rotate_right)
      | (extract_lets +onlyGivenNames v1)
      | (split)
      | (with_reducible exact only_refl _ _))

theorem holdPorch_only {ps : List Part} {s0 : State}  (s : State)
    (h : Only ps s0 s) (hp : [.host] ⊆ ps) : Only ps s0 (holdPorch s) :=
  Only.via hp h (by
    unfold holdPorch
    repeat' first
      | (with_reducible assumption)
      | (with_reducible refine updItems_only _ _ ?_ (by decide))
      | (intro)
      | (extract_lets +onlyGivenNames s1; refine only_cut s1 ?_ ?_; unfold s1; clear s1; rotate_left; intro hs1; clear_value s1; rotate_right)
      | (extract_lets +onlyGivenNames v1)
      | (split)
      | (with_reducible exact only_refl _ _))

theorem startActivation_only {ps : List Part} {s0 : State}  (s : State)
    (h : Only ps s0 s) (hp : [.frame, .mbx, .host, .inst, .fw, .recd, .emit] ⊆ ps) : Only ps s0 (startActivation s) :=
  Only.via hp h (by
    unfold startActivation
    repeat' first
      | (with_reducible assumption)
      | (with_reducible refine updFw_only _ _ ?_ (by decide))
      | (with_reducible refine dropSched_only _ _ ?_ (by decide))
      | (with_reducible refine noteReason_only _ _ ?_ (by decide))
      | (with_reducible refine setOutcome_only _ _ _ ?_ (by decide))
      | (with_reducible refine holdPorch_only _ ?_ (by decide))
      | (with_reducible refine notifyActivation_only _ _ ?_ (by decide))
      | (with_reducible refine only_forEach _ _ _ ?_ ?_)
      | (intro)
      | (extract_lets +onlyGivenNames s1; refine only_cut s1 ?_ ?_; unfold s1; clear s1; rotate_left; intro hs1; clear_value s1; rotate_right)
      | (extract_lets +onlyGivenNames v1)
      | (split)
      | (with_reducible exact only_refl _ _))

theorem updHold_only {ps : List Part} {s0 : State} (x0 : Hold2 → Hold2) (s : State)
    (h : Only ps s0 s) (hp : [.fw] ⊆ ps) : Only ps s0 (updHold x0 s) :=
  Only.via hp h (by
    unfold updHold
    repeat' first
      | (with_reducible assumption)
      | (with_reducible refine updFw_only _ _ ?_ (by decide))
      | (intro)
      | (with_reducible exact only_refl _ _))

theorem handoverWritten_only {ps : List Part} {s0 : State}  (s : State)
    (h : Only ps s0 s) (hp : [.fw, .mgmt] ⊆ ps) : Only ps s0 (handoverWritten s) :=
  Only.via hp h (by
    unfold handoverWritten
    repeat' first
      | (with_reducible assumption)
      | (with_reducible refine mgmtStop_only _ ?_ (by decide))
      | (with_reducible refine updHold_only _ _ ?_ (by decide))
      | (with_reducible refine only_when _ _ ?_ ?_)
      | (intro)
      | (with_reducible exact only_refl _ _))

theorem microcodeSwitch_only {ps : List Part} {s0 : State}  (s : State)
    (h : Only ps s0 s) (hp : [.frame, .host, .inst, .fw, .therm, .mgmt, .pins, .recd, .emit] ⊆ ps) : Only ps s0 (microcodeSwitch s) :=
  Only.via hp h (by
    unfold microcodeSwitch
    repeat' first
      | (with_reducible assumption)
      | (with_reducible refine mgmtRestart_only _ ?_ (by decide))
      | (with_reducible refine updHold_only _ _ ?_ (by decide))
      | (with_reducible refine only_when _ _ ?_ ?_)
      | (intro)
      | (extract_lets +onlyGivenNames s1; refine only_cut s1 ?_ ?_; unfold s1; clear s1; rotate_left; intro hs1; clear_value s1; rotate_right)
      | (extract_lets +onlyGivenNames v1)
      | (split)
      | (with_reducible exact only_refl _ _))

theorem handoverReady_only {ps : List Part} {s0 : State}  (s : State)
    (h : Only ps s0 s) (hp : [.frame, .fw] ⊆ ps) : Only ps s0 (handoverReady s) :=
  Only.via hp h (by
    unfold handoverReady
    repeat' first
      | (with_reducible assumption)
      | (with_reducible refine updHold_only _ _ ?_ (by decide))
      | (with_reducible refine noteTie_only _ _ _ ?_ (by decide))
      | (intro)
      | (extract_lets +onlyGivenNames s1; refine only_cut s1 ?_ ?_; unfold s1; clear s1; rotate_left; intro hs1; clear_value s1; rotate_right)
      | (extract_lets +onlyGivenNames v1)
      | (split)
      | (with_reducible exact only_refl _ _))

theorem releaseHeld_only {ps : List Part} {s0 : State}  (s : State)
    (h : Only ps s0 s) (hp : [.host] ⊆ ps) : Only ps s0 (releaseHeld s) :=
  Only.via hp h (by
    unfold releaseHeld
    repeat' first
      | (with_reducible assumption)
      | (with_reducible refine updItems_only _ _ ?_ (by decide))
      | (intro)
      | (extract_lets +onlyGivenNames s1; refine only_cut s1 ?_ ?_; unfold s1; clear s1; rotate_left; intro hs1; clear_value s1; rotate_right)
      | (extract_lets +onlyGivenNames v1)
      | (with_reducible exact only_refl _ _)
      | (refine only_host _ ?_ (by decide)))

theorem holdEnds_only {ps : List Part} {s0 : State} (x0 : Hold2) (s : State)
    (h : Only ps s0 s) (hp : [.fw] ⊆ ps) : Only ps s0 (holdEnds x0 s) :=
  Only.via hp h (by
    unfold holdEnds
    repeat' first
      | (with_reducible assumption)
      | (with_reducible refine updFw_only _ _ ?_ (by decide))
      | (intro)
      | (extract_lets +onlyGivenNames s1; refine only_cut s1 ?_ ?_; unfold s1; clear s1; rotate_left; intro hs1; clear_value s1; rotate_right)
      | (extract_lets +onlyGivenNames v1)
      | (with_reducible exact only_refl _ _))

theorem finishHold_only {ps : List Part} {s0 : State}  (s : State)
    (h : Only ps s0 s) (hp : [.frame, .mbx, .host, .inst, .fw, .recd, .emit] ⊆ ps) : Only ps s0 (finishHold s) :=
  Only.via hp h (by
    unfold finishHold
    repeat' first
      | (with_reducible assumption)
      | (with_reducible refine updFw_only _ _ ?_ (by decide))
      | (with_reducible refine holdEnds_only _ _ ?_ (by decide))
      | (with_reducible refine recEvent_only _ _ ?_ (by decide))
      | (with_reducible refine releaseHeld_only _ ?_ (by decide))
      | (with_reducible refine writeCfg_only _ _ ?_ (by decide))
      | (with_reducible refine setOutcome_only _ _ _ ?_ (by decide))
      | (with_reducible refine reopen_only _ ?_ (by decide))
      | (with_reducible refine finishOk_only _ _ ?_ (by decide))
      | (intro)
      | (extract_lets +onlyGivenNames s1; refine only_cut s1 ?_ ?_; unfold s1; clear s1; rotate_left; intro hs1; clear_value s1; rotate_right)
      | (extract_lets +onlyGivenNames v1; clear_value v1)
      | (extract_lets +onlyGivenNames v1)
      | (split)
      | (with_reducible exact only_refl _ _))

theorem holdExpiry_only {ps : List Part} {s0 : State}  (s : State)
    (h : Only ps s0 s) (hp : [.frame, .mbx, .host, .zone, .media, .flash, .inst, .fw, .therm, .mgmt, .pins, .recd, .emit, .free] ⊆ ps) : Only ps s0 (holdExpiry s) :=
  Only.via hp h (by
    unfold holdExpiry
    repeat' first
      | (with_reducible assumption)
      | (with_reducible refine failItem_only _ _ _ ?_ (by decide))
      | (with_reducible refine finishBad_only _ _ _ ?_ (by decide))
      | (with_reducible refine drawNat_only ?_ (by decide))
      | (with_reducible refine drawNat_only2 ?_ (by decide) (by assumption))
      | (with_reducible refine updFw_only _ _ ?_ (by decide))
      | (with_reducible refine holdEnds_only _ _ ?_ (by decide))
      | (with_reducible refine updSlotAt_only _ _ _ ?_ (by decide))
      | (with_reducible refine reopen_only _ ?_ (by decide))
      | (with_reducible refine mgmtRestart_only _ ?_ (by decide))
      | (with_reducible refine recEvent_only _ _ ?_ (by decide))
      | (with_reducible refine setOutcome_only _ _ _ ?_ (by decide))
      | (with_reducible refine releaseHeld_only _ ?_ (by decide))
      | (with_reducible refine only_forEach _ _ _ ?_ ?_)
      | (intro)
      | (extract_lets +onlyGivenNames s1; refine only_cut s1 ?_ ?_; unfold s1; clear s1; rotate_left; intro hs1; clear_value s1; rotate_right)
      | (extract_lets +onlyGivenNames v1)
      | (split)
      | (with_reducible exact only_refl _ _))

theorem resumeAfterExpiry_only {ps : List Part} {s0 : State}  (s : State)
    (h : Only ps s0 s) (hp : [.fw] ⊆ ps) : Only ps s0 (resumeAfterExpiry s) :=
  Only.via hp h (by
    unfold resumeAfterExpiry
    repeat' first
      | (with_reducible assumption)
      | (with_reducible refine updFw_only _ _ ?_ (by decide))
      | (intro)
      | (split)
      | (with_reducible exact only_refl _ _))

theorem rollBack_only {ps : List Part} {s0 : State} (n : Nat) (s : State)
    (h : Only ps s0 s) (hp : [.fw] ⊆ ps) : Only ps s0 (rollBack n s) :=
  Only.via hp h (by
    unfold rollBack
    repeat' first
      | (with_reducible assumption)
      | (with_reducible refine updSlotAt_only _ _ _ ?_ (by decide))
      | (intro)
      | (split)
      | (with_reducible exact only_refl _ _))

theorem svMinRaise_only {ps : List Part} {s0 : State}  (s : State)
    (h : Only ps s0 s) (hp : [.fw] ⊆ ps) : Only ps s0 (svMinRaise s) :=
  Only.via hp h (by
    unfold svMinRaise
    repeat' first
      | (with_reducible assumption)
      | (with_reducible refine rollBack_only _ _ ?_ (by decide))
      | (with_reducible refine updFw_only _ _ ?_ (by decide))
      | (intro)
      | (split)
      | (with_reducible exact only_refl _ _))

theorem corrRefuse_only {ps : List Part} {s0 : State} (imageId : Word) (s : State)
    (h : Only ps s0 s) (hp : [.fw, .recd, .emit] ⊆ ps) : Only ps s0 (corrRefuse imageId s) :=
  Only.via hp h (by
    unfold corrRefuse
    repeat' first
      | (with_reducible assumption)
      | (with_reducible refine setOutcome_only _ _ _ ?_ (by decide))
      | (with_reducible refine recEvent_only _ _ ?_ (by decide))
      | (with_reducible refine updFw_only _ _ ?_ (by decide))
      | (intro)
      | (with_reducible exact only_refl _ _))

theorem imageArrival_only {ps : List Part} {s0 : State} (i : Image) (fwd : Bool) (s : State)
    (h : Only ps s0 s) (hp : [.media, .fw, .recd, .emit] ⊆ ps) : Only ps s0 (imageArrival i fwd s) :=
  Only.via hp h (by
    unfold imageArrival
    repeat' first
      | (with_reducible assumption)
      | (with_reducible refine corrRefuse_only _ _ ?_ (by decide))
      | (with_reducible refine send_only _ _ ?_ (by decide))
      | (with_reducible refine noteReason_only _ _ ?_ (by decide))
      | (with_reducible refine setOutcome_only _ _ _ ?_ (by decide))
      | (with_reducible refine stageFails_only _ _ _ ?_ (by decide))
      | (with_reducible refine forwardImage_only _ _ ?_ (by decide))
      | (with_reducible refine endStaging_only _ _ _ _ ?_ ?_ (by decide))
      | (with_reducible refine only_when _ _ ?_ ?_)
      | (with_reducible refine only_id ?_)
      | (intro)
      | (extract_lets +onlyGivenNames s1; refine only_cut s1 ?_ ?_; unfold s1; clear s1; rotate_left; intro hs1; clear_value s1; rotate_right)
      | (extract_lets +onlyGivenNames v1)
      | (split)
      | (with_reducible exact only_refl _ _))

theorem forwardRetry_only {ps : List Part} {s0 : State} (accepted : Bool) (s : State)
    (h : Only ps s0 s) (hp : [.fw, .emit] ⊆ ps) : Only ps s0 (forwardRetry accepted s) :=
  Only.via hp h (by
    unfold forwardRetry
    repeat' first
      | (with_reducible assumption)
      | (with_reducible refine send_only _ _ ?_ (by decide))
      | (with_reducible refine updFw_only _ _ ?_ (by decide))
      | (intro)
      | (extract_lets +onlyGivenNames s1; refine only_cut s1 ?_ ?_; unfold s1; clear s1; rotate_left; intro hs1; clear_value s1; rotate_right)
      | (extract_lets +onlyGivenNames v1)
      | (split)
      | (with_reducible exact only_refl _ _))

theorem scheduleArrival_only {ps : List Part} {s0 : State} (imageId : Word) (x1 : Nat) (s : State)
    (h : Only ps s0 s) (hp : [.frame, .mbx, .host, .inst, .fw, .recd, .emit] ⊆ ps) : Only ps s0 (scheduleArrival imageId x1 s) :=
  Only.via hp h (by
    unfold scheduleArrival
    repeat' first
      | (with_reducible assumption)
      | (with_reducible refine corrRefuse_only _ _ ?_ (by decide))
      | (with_reducible refine forwardMsg_only _ _ ?_ (by decide))
      | (with_reducible refine setOutcome_only _ _ _ ?_ (by decide))
      | (with_reducible refine noteReason_only _ _ ?_ (by decide))
      | (with_reducible refine takeSched_only _ _ ?_ (by decide))
      | (intro)
      | (extract_lets +onlyGivenNames s1; refine only_cut s1 ?_ ?_; unfold s1; clear s1; rotate_left; intro hs1; clear_value s1; rotate_right)
      | (extract_lets +onlyGivenNames v1)
      | (split)
      | (with_reducible exact only_refl _ _))

theorem cancelArrival_only {ps : List Part} {s0 : State}  (s : State)
    (h : Only ps s0 s) (hp : [.frame, .mbx, .host, .inst, .fw, .recd, .emit] ⊆ ps) : Only ps s0 (cancelArrival s) :=
  Only.via hp h (by
    unfold cancelArrival
    repeat' first
      | (with_reducible assumption)
      | (with_reducible refine forwardMsg_only _ _ ?_ (by decide))
      | (with_reducible refine setOutcome_only _ _ _ ?_ (by decide))
      | (with_reducible refine noteReason_only _ _ ?_ (by decide))
      | (with_reducible refine cancelSched_only _ _ ?_ (by decide))
      | (intro)
      | (extract_lets +onlyGivenNames s1; refine only_cut s1 ?_ ?_; unfold s1; clear s1; rotate_left; intro hs1; clear_value s1; rotate_right)
      | (extract_lets +onlyGivenNames v1)
      | (split)
      | (with_reducible exact only_refl _ _))

theorem outcomeRelay_only {ps : List Part} {s0 : State} (pos : Nat) (st : Nat) (imageId : Word) (s : State)
    (h : Only ps s0 s) (hp : [.fw, .emit] ⊆ ps) : Only ps s0 (outcomeRelay pos st imageId s) :=
  Only.via hp h (by
    unfold outcomeRelay
    repeat' first
      | (with_reducible assumption)
      | (with_reducible refine updFw_only _ _ ?_ (by decide))
      | (with_reducible refine send_only _ _ ?_ (by decide))
      | (with_reducible refine only_when _ _ ?_ ?_)
      | (intro)
      | (extract_lets +onlyGivenNames s1; refine only_cut s1 ?_ ?_; unfold s1; clear s1; rotate_left; intro hs1; clear_value s1; rotate_right)
      | (extract_lets +onlyGivenNames v1)
      | (split)
      | (with_reducible exact only_refl _ _))

end Sys2Proof.Machine
end

