-- ==== Sys2Proof/Laws/Only/Protect.lean ====
section
/-! SUPPORT. Which groups of state each operation of Machine/Protect.lean can change. -/

set_option linter.tactic.unusedName false

namespace Sys2Proof.Machine

theorem endProposal_only {ps : List Part} {s0 : State} (cls : Nat) (o : Outc) (s : State)
    (h : Only ps s0 s) (hp : [.prot] ⊆ ps) : Only ps s0 (endProposal cls o s) :=
  Only.via hp h (by
    unfold endProposal
    repeat' first
      | (with_reducible assumption)
      | (with_reducible refine updProt_only _ _ ?_ (by decide))
      | (intro)
      | (with_reducible exact only_refl _ _))

theorem expireProposal_only {ps : List Part} {s0 : State} (cls : Nat) (s : State)
    (h : Only ps s0 s) (hp : [.prot] ⊆ ps) : Only ps s0 (expireProposal cls s) :=
  Only.via hp h (by
    unfold expireProposal
    repeat' first
      | (with_reducible assumption)
      | (with_reducible refine endProposal_only _ _ _ ?_ (by decide))
      | (intro)
      | (split)
      | (with_reducible exact only_refl _ _))

theorem propose_only {ps : List Part} {s0 : State} (a : Asker) (by_ : Party) (c : Change) (key : Option (BitVec 512)) (s : State)
    (h : Only ps s0 s) (hp : [.mbx, .prot, .emit] ⊆ ps) : Only ps s0 (propose a by_ c key s) :=
  Only.via hp h (by
    unfold propose
    repeat' first
      | (with_reducible assumption)
      | (with_reducible refine expireProposal_only _ _ ?_ (by decide))
      | (with_reducible refine askRefused_only _ _ _ ?_ (by decide))
      | (with_reducible refine askInvalid_only _ _ _ ?_ (by decide))
      | (with_reducible refine askConflict_only _ _ _ _ ?_ (by decide))
      | (with_reducible refine askBusy_only _ _ ?_ (by decide))
      | (with_reducible refine askPending_only _ _ ?_ (by decide))
      | (with_reducible refine drawRandom_only ?_ (by decide))
      | (with_reducible refine drawRandom_only2 ?_ (by decide) (by assumption))
      | (with_reducible refine updProt_only _ _ ?_ (by decide))
      | (with_reducible refine askFinal_only _ _ _ _ ?_ (by decide))
      | (intro)
      | (extract_lets +onlyGivenNames s1; refine only_cut s1 ?_ ?_; unfold s1; clear s1; rotate_left; intro hs1; clear_value s1; rotate_right)
      | (extract_lets +onlyGivenNames v1)
      | (split)
      | (with_reducible exact only_refl _ _))

theorem authFail_only {ps : List Part} {s0 : State} (cls : Nat) (p : Proposal) (s : State)
    (h : Only ps s0 s) (hp : [.prot] ⊆ ps) : Only ps s0 (authFail cls p s) :=
  Only.via hp h (by
    unfold authFail
    repeat' first
      | (with_reducible assumption)
      | (with_reducible refine endProposal_only _ _ _ ?_ (by decide))
      | (with_reducible refine updProt_only _ _ ?_ (by decide))
      | (intro)
      | (split)
      | (with_reducible exact only_refl _ _))

theorem acceptConfirm_only {ps : List Part} {s0 : State} (cls : Nat) (p : Proposal) (by_ : Party) (tag : Option Nat) (s : State)
    (h : Only ps s0 s) (hp : [.prot] ⊆ ps) : Only ps s0 (acceptConfirm cls p by_ tag s) :=
  Only.via hp h (by
    unfold acceptConfirm
    repeat' first
      | (with_reducible assumption)
      | (with_reducible refine updProt_only _ _ ?_ (by decide))
      | (intro)
      | (with_reducible exact only_refl _ _))

theorem confirm_only {ps : List Part} {s0 : State} (a : Asker) (by_ : Party) (cls : Nat) (d : BitVec 384) (s : State)
    (h : Only ps s0 s) (hp : [.frame, .mbx, .prot, .emit] ⊆ ps) : Only ps s0 (confirm a by_ cls d s) :=
  Only.via hp h (by
    unfold confirm
    repeat' first
      | (with_reducible assumption)
      | (with_reducible refine expireProposal_only _ _ ?_ (by decide))
      | (with_reducible refine askRefused_only _ _ _ ?_ (by decide))
      | (with_reducible refine askInvalid_only _ _ _ ?_ (by decide))
      | (with_reducible refine askAuth_only _ _ ?_ (by decide))
      | (with_reducible refine authFail_only _ _ _ ?_ (by decide))
      | (with_reducible refine acceptConfirm_only _ _ _ _ _ ?_ (by decide))
      | (with_reducible refine askPending_only _ _ ?_ (by decide))
      | (with_reducible refine noteTie_only _ _ _ ?_ (by decide))
      | (intro)
      | (extract_lets +onlyGivenNames s1; refine only_cut s1 ?_ ?_; unfold s1; clear s1; rotate_left; intro hs1; clear_value s1; rotate_right)
      | (extract_lets +onlyGivenNames v1)
      | (split)
      | (with_reducible exact only_refl _ _))

theorem withdraw_only {ps : List Part} {s0 : State} (a : Asker) (by_ : Party) (cls : Nat) (s : State)
    (h : Only ps s0 s) (hp : [.mbx, .prot, .emit] ⊆ ps) : Only ps s0 (withdraw a by_ cls s) :=
  Only.via hp h (by
    unfold withdraw
    repeat' first
      | (with_reducible assumption)
      | (with_reducible refine expireProposal_only _ _ ?_ (by decide))
      | (with_reducible refine askRefused_only _ _ _ ?_ (by decide))
      | (with_reducible refine askInvalid_only _ _ _ ?_ (by decide))
      | (with_reducible refine askOk_only _ _ _ ?_ (by decide))
      | (with_reducible refine endProposal_only _ _ _ ?_ (by decide))
      | (intro)
      | (extract_lets +onlyGivenNames s1; refine only_cut s1 ?_ ?_; unfold s1; clear s1; rotate_left; intro hs1; clear_value s1; rotate_right)
      | (extract_lets +onlyGivenNames v1)
      | (split)
      | (with_reducible exact only_refl _ _))

theorem setIsolation_only {ps : List Part} {s0 : State} (i : Nat) (x1 : Isolation) (s : State)
    (h : Only ps s0 s) (hp : [.inst] ⊆ ps) : Only ps s0 (setIsolation i x1 s) :=
  Only.via hp h (by
    unfold setIsolation
    repeat' first
      | (with_reducible assumption)
      | (with_reducible refine updInst_only _ _ ?_ (by decide))
      | (intro)
      | (extract_lets +onlyGivenNames s1; refine only_cut s1 ?_ ?_; unfold s1; clear s1; rotate_left; intro hs1; clear_value s1; rotate_right)
      | (extract_lets +onlyGivenNames k1; have _ck := fun x => (k1 x : State → State); clear _ck)
      | (extract_lets +onlyGivenNames k1; have _ck := fun x => (k1 x : State); clear _ck)
      | (extract_lets +onlyGivenNames v1)
      | (split)
      | (with_reducible exact only_refl _ _)
      | (dsimp only [k1]))

theorem applyChange_only {ps : List Part} {s0 : State} (p : Proposal) (s : State)
    (h : Only ps s0 s) (hp : [.frame, .mbx, .host, .inst, .prot, .fw, .recd, .emit] ⊆ ps) : Only ps s0 (applyChange p s) :=
  Only.via hp h (by
    unfold applyChange
    repeat' first
      | (with_reducible assumption)
      | (with_reducible refine setIsolation_only _ _ _ ?_ (by decide))
      | (with_reducible refine updProt_only _ _ ?_ (by decide))
      | (with_reducible refine emptySlot_only _ _ ?_ (by decide))
      | (with_reducible refine cancelSched_only _ _ ?_ (by decide))
      | (intro)
      | (extract_lets +onlyGivenNames s1; refine only_cut s1 ?_ ?_; unfold s1; clear s1; rotate_left; intro hs1; clear_value s1; rotate_right)
      | (extract_lets +onlyGivenNames v1)
      | (split)
      | (with_reducible exact only_refl _ _))

theorem confirmReply_only {ps : List Part} {s0 : State} (k : Confirmed) (status : Nat) (words : List Nat) (s : State)
    (h : Only ps s0 s) (hp : [.mbx, .prot, .emit] ⊆ ps) : Only ps s0 (confirmReply k status words s) :=
  Only.via hp h (by
    unfold confirmReply
    repeat' first
      | (with_reducible assumption)
      | (with_reducible refine finalReply_only _ _ _ _ _ ?_ (by decide))
      | (with_reducible refine ownerLater_only _ _ _ ?_ (by decide))
      | (intro)
      | (split)
      | (with_reducible exact only_refl _ _))

theorem applyOne_only {ps : List Part} {s0 : State} (k : Confirmed) (s : State)
    (h : Only ps s0 s) (hp : [.frame, .mbx, .host, .inst, .prot, .fw, .recd, .emit] ⊆ ps) : Only ps s0 (applyOne k s) :=
  Only.via hp h (by
    unfold applyOne
    repeat' first
      | (with_reducible assumption)
      | (with_reducible refine updProt_only _ _ ?_ (by decide))
      | (with_reducible refine confirmReply_only _ _ _ _ ?_ (by decide))
      | (with_reducible refine applyChange_only _ _ ?_ (by decide))
      | (intro)
      | (extract_lets +onlyGivenNames s1; refine only_cut s1 ?_ ?_; unfold s1; clear s1; rotate_left; intro hs1; clear_value s1; rotate_right)
      | (extract_lets +onlyGivenNames k1; have _ck := fun x => (k1 x : State → State); clear _ck)
      | (extract_lets +onlyGivenNames k1; have _ck := fun x => (k1 x : State); clear _ck)
      | (extract_lets +onlyGivenNames v1)
      | (split)
      | (with_reducible exact only_refl _ _)
      | (dsimp only [k1]))

theorem applyProtection_only {ps : List Part} {s0 : State}  (s : State)
    (h : Only ps s0 s) (hp : [.frame, .mbx, .host, .inst, .prot, .fw, .recd, .emit] ⊆ ps) : Only ps s0 (applyProtection s) :=
  Only.via hp h (by
    unfold applyProtection
    repeat' first
      | (with_reducible assumption)
      | (with_reducible refine updProt_only _ _ ?_ (by decide))
      | (with_reducible refine applyOne_only _ _ ?_ (by decide))
      | (with_reducible refine only_forEach _ _ _ ?_ ?_)
      | (intro)
      | (extract_lets +onlyGivenNames s1; refine only_cut s1 ?_ ?_; unfold s1; clear s1; rotate_left; intro hs1; clear_value s1; rotate_right)
      | (extract_lets +onlyGivenNames v1)
      | (with_reducible exact only_refl _ _))

theorem discardProposals_only {ps : List Part} {s0 : State}  (s : State)
    (h : Only ps s0 s) (hp : [.prot] ⊆ ps) : Only ps s0 (discardProposals s) :=
  Only.via hp h (by
    unfold discardProposals
    repeat' first
      | (with_reducible assumption)
      | (with_reducible refine endProposal_only _ _ _ ?_ (by decide))
      | (with_reducible refine only_forEach _ _ _ ?_ ?_)
      | (intro)
      | (with_reducible exact only_refl _ _))

theorem expireClaim_only {ps : List Part} {s0 : State}  (s : State)
    (h : Only ps s0 s) (hp : [.prot] ⊆ ps) : Only ps s0 (expireClaim s) :=
  Only.via hp h (by
    unfold expireClaim
    repeat' first
      | (with_reducible assumption)
      | (with_reducible refine updProt_only _ _ ?_ (by decide))
      | (intro)
      | (split)
      | (with_reducible exact only_refl _ _))

theorem claimBegin_only {ps : List Part} {s0 : State}  (s : State)
    (h : Only ps s0 s) (hp : [.mbx, .prot, .emit] ⊆ ps) : Only ps s0 (claimBegin s) :=
  Only.via hp h (by
    unfold claimBegin
    repeat' first
      | (with_reducible assumption)
      | (with_reducible refine askRefused_only _ _ _ ?_ (by decide))
      | (with_reducible refine askBusy_only _ _ ?_ (by decide))
      | (with_reducible refine drawRandom_only ?_ (by decide))
      | (with_reducible refine drawRandom_only2 ?_ (by decide) (by assumption))
      | (with_reducible refine send_only _ _ ?_ (by decide))
      | (with_reducible refine updProt_only _ _ ?_ (by decide))
      | (intro)
      | (extract_lets +onlyGivenNames s1; refine only_cut s1 ?_ ?_; unfold s1; clear s1; rotate_left; intro hs1; clear_value s1; rotate_right)
      | (extract_lets +onlyGivenNames v1)
      | (split)
      | (with_reducible exact only_refl _ _))

theorem claimFinish_only {ps : List Part} {s0 : State} (strap : Bool) (key : BitVec 768) (good : Bool) (s : State)
    (h : Only ps s0 s) (hp : [.frame, .mbx, .prot, .pins, .emit] ⊆ ps) : Only ps s0 (claimFinish strap key good s) :=
  Only.via hp h (by
    unfold claimFinish
    repeat' first
      | (with_reducible assumption)
      | (with_reducible refine expireClaim_only _ ?_ (by decide))
      | (with_reducible refine askRefused_only _ _ _ ?_ (by decide))
      | (with_reducible refine noteTie_only _ _ _ ?_ (by decide))
      | (with_reducible refine updProt_only _ _ ?_ (by decide))
      | (with_reducible refine askInvalid_only _ _ _ ?_ (by decide))
      | (with_reducible refine askAuth_only _ _ ?_ (by decide))
      | (with_reducible refine askOk_only _ _ _ ?_ (by decide))
      | (intro)
      | (extract_lets +onlyGivenNames s1; refine only_cut s1 ?_ ?_; unfold s1; clear s1; rotate_left; intro hs1; clear_value s1; rotate_right)
      | (extract_lets +onlyGivenNames v1)
      | (split)
      | (with_reducible exact only_refl _ _)
      | (refine only_pins _ ?_ (by decide)))

theorem releaseOwner_only {ps : List Part} {s0 : State}  (s : State)
    (h : Only ps s0 s) (hp : [.mbx, .prot, .emit] ⊆ ps) : Only ps s0 (releaseOwner s) :=
  Only.via hp h (by
    unfold releaseOwner
    repeat' first
      | (with_reducible assumption)
      | (with_reducible refine askRefused_only _ _ _ ?_ (by decide))
      | (with_reducible refine askOk_only _ _ _ ?_ (by decide))
      | (with_reducible refine updProt_only _ _ ?_ (by decide))
      | (with_reducible refine discardProposals_only _ ?_ (by decide))
      | (intro)
      | (split)
      | (with_reducible exact only_refl _ _))

theorem endSession_only {ps : List Part} {s0 : State} (l : Sideband) (s : State)
    (h : Only ps s0 s) (hp : [.prot] ⊆ ps) : Only ps s0 (endSession l s) :=
  Only.via hp h (by
    unfold endSession
    repeat' first
      | (with_reducible assumption)
      | (with_reducible refine updProt_only _ _ ?_ (by decide))
      | (intro)
      | (extract_lets +onlyGivenNames s1; refine only_cut s1 ?_ ?_; unfold s1; clear s1; rotate_left; intro hs1; clear_value s1; rotate_right)
      | (extract_lets +onlyGivenNames v1)
      | (split)
      | (with_reducible exact only_refl _ _))

theorem ownerRequest_only {ps : List Part} {s0 : State} (l : Sideband) (op : Nat) (s : State)
    (h : Only ps s0 s) (hp : [.mbx, .emit] ⊆ ps) : Only ps s0 (ownerRequest l op s) :=
  Only.via hp h (by
    unfold ownerRequest
    repeat' first
      | (with_reducible assumption)
      | (with_reducible refine spdmUnsupported_only _ ?_ (by decide))
      | (with_reducible refine askInvalid_only _ _ _ ?_ (by decide))
      | (intro)
      | (split)
      | (with_reducible exact only_refl _ _))

theorem spdmMessage_only {ps : List Part} {s0 : State} (m : SpdmMsg) (s : State)
    (h : Only ps s0 s) (hp : [.mbx, .prot, .emit] ⊆ ps) : Only ps s0 (spdmMessage m s) :=
  Only.via hp h (by
    unfold spdmMessage
    repeat' first
      | (with_reducible assumption)
      | (with_reducible refine updProt_only _ _ ?_ (by decide))
      | (with_reducible refine endSession_only _ _ ?_ (by decide))
      | (with_reducible refine ownerRequest_only _ _ _ ?_ (by decide))
      | (with_reducible refine ownerCollect_only _ ?_ (by decide))
      | (with_reducible refine spdmUnsupported_only _ ?_ (by decide))
      | (intro)
      | (extract_lets +onlyGivenNames s1; refine only_cut s1 ?_ ?_; unfold s1; clear s1; rotate_left; intro hs1; clear_value s1; rotate_right)
      | (extract_lets +onlyGivenNames v1)
      | (split)
      | (with_reducible exact only_refl _ _))

end Sys2Proof.Machine
end

