-- ==== Sys2Proof/Laws/Only/ConfigRec.lean ====
section
/-! SUPPORT. Which groups of state each operation of Machine/ConfigRec.lean can change. -/

set_option linter.tactic.unusedName false

namespace Sys2Proof.Machine

theorem commitFault_only2 {ps : List Part} {s0 : State} (r : Posted) (b : List Byte) (c : Config412) (s : State)
    {t : State} {f : State → State} (h : Only ps s0 t) (hp : [.mbx, .emit] ⊆ ps) (e : commitFault s r b c = some f) :
    Only ps s0 (f t) := by
  unfold commitFault at e
  split at e
  · injection e with e; rw [← e]; exact replyInvalid_only _ _ _ h hp
  split at e
  · injection e with e; rw [← e]; exact replyRefused_only _ _ _ h hp
  split at e
  · injection e with e; rw [← e]; exact replyRefused_only _ _ _ h hp
  split at e
  · injection e with e; rw [← e]; exact replyConflict_only _ _ _ _ h hp
  split at e
  · injection e with e; rw [← e]; exact replyConflict_only _ _ _ _ h hp
  split at e
  · injection e with e; rw [← e]; exact replyConflict_only _ _ _ _ h hp
  split at e
  · injection e with e; rw [← e]; exact replyRefused_only _ _ _ h hp
  split at e
  · injection e with e; rw [← e]; exact replyNoResource_only _ _ _ h hp
  split at e
  · injection e with e; rw [← e]; exact replyNoResource_only _ _ _ h hp
  · injection e

theorem cfgCommit_only {ps : List Part} {s0 : State} (r : Posted) (b : List Byte) (s : State) (h : Only ps s0 s)
    (hp : [.mbx, .fw, .emit] ⊆ ps) : Only ps s0 (cfgCommit r b s) :=
  Only.via hp h (by
    unfold cfgCommit
    extract_lets c s1 n
    split
    · exact commitFault_only2 _ _ _ _ (only_refl _ _) (by decide) (by assumption)
    · exact replyOk_only _ _ _ (updFw_only _ _ (writeCfg_only _ _ (only_refl _ _) (by decide)) (by decide)) (by decide))

theorem applyThermal_only {ps : List Part} {s0 : State} (c : Config412) (s : State)
    (h : Only ps s0 s) (hp : [.therm] ⊆ ps) : Only ps s0 (applyThermal c s) :=
  Only.via hp h (by
    unfold applyThermal
    repeat' first
      | (with_reducible assumption)
      | (with_reducible refine updTherm_only _ _ ?_ (by decide))
      | (intro)
      | (with_reducible exact only_refl _ _))

theorem applySync_only {ps : List Part} {s0 : State} (on : Bool) (s : State)
    (h : Only ps s0 s) (hp : [.frame] ⊆ ps) : Only ps s0 (applySync on s) :=
  Only.via hp h (by
    unfold applySync
    repeat' first
      | (with_reducible assumption)
      | (with_reducible refine updShelf_only _ _ ?_ (by decide))
      | (intro)
      | (extract_lets +onlyGivenNames s1; refine only_cut s1 ?_ ?_; unfold s1; clear s1; rotate_left; intro hs1; clear_value s1; rotate_right)
      | (extract_lets +onlyGivenNames v1)
      | (split)
      | (with_reducible exact only_refl _ _))

theorem applyCfg_only {ps : List Part} {s0 : State}  (s : State)
    (h : Only ps s0 s) (hp : [.frame, .fw, .therm] ⊆ ps) : Only ps s0 (applyCfg s) :=
  Only.via hp h (by
    unfold applyCfg
    repeat' first
      | (with_reducible assumption)
      | (with_reducible refine updFw_only _ _ ?_ (by decide))
      | (with_reducible refine applySync_only _ _ ?_ (by decide))
      | (with_reducible refine applyThermal_only _ _ ?_ (by decide))
      | (intro)
      | (extract_lets +onlyGivenNames s1; refine only_cut s1 ?_ ?_; unfold s1; clear s1; rotate_left; intro hs1; clear_value s1; rotate_right)
      | (extract_lets +onlyGivenNames v1)
      | (split)
      | (with_reducible exact only_refl _ _))

theorem cfgRead_only {ps : List Part} {s0 : State} (dma : Dma) (finds : List LineFind) (r : Posted) (s : State)
    (h : Only ps s0 s) (hp : [.frame, .mbx, .host, .media, .inst, .prot, .ecc, .fw, .therm, .pins, .recd, .emit] ⊆ ps) : Only ps s0 (cfgRead dma finds r s) :=
  Only.via hp h (by
    unfold cfgRead
    repeat' first
      | (with_reducible assumption)
      | (with_reducible refine readLines_only _ _ ?_ (by decide))
      | (with_reducible refine replyRefused_only _ _ _ ?_ (by decide))
      | (with_reducible refine descWrite_only _ _ _ _ _ ?_ ?_ (by decide))
      | (with_reducible refine replyOk_only _ _ _ ?_ (by decide))
      | (intro)
      | (extract_lets +onlyGivenNames s1; refine only_cut s1 ?_ ?_; unfold s1; clear s1; rotate_left; intro hs1; clear_value s1; rotate_right)
      | (extract_lets +onlyGivenNames v1)
      | (split)
      | (with_reducible exact only_refl _ _))

theorem calRead_only {ps : List Part} {s0 : State} (dma : Dma) (finds : List LineFind) (r : Posted) (s : State)
    (h : Only ps s0 s) (hp : [.frame, .mbx, .host, .media, .inst, .prot, .ecc, .fw, .therm, .pins, .recd, .emit, .free] ⊆ ps) : Only ps s0 (calRead dma finds r s) :=
  Only.via hp h (by
    unfold calRead
    repeat' first
      | (with_reducible assumption)
      | (with_reducible refine readLines_only _ _ ?_ (by decide))
      | (with_reducible refine drawNat_only ?_ (by decide))
      | (with_reducible refine drawNat_only2 ?_ (by decide) (by assumption))
      | (with_reducible refine descWrite_only _ _ _ _ _ ?_ ?_ (by decide))
      | (with_reducible refine replyOk_only _ _ _ ?_ (by decide))
      | (intro)
      | (extract_lets +onlyGivenNames s1; refine only_cut s1 ?_ ?_; unfold s1; clear s1; rotate_left; intro hs1; clear_value s1; rotate_right)
      | (extract_lets +onlyGivenNames v1)
      | (split)
      | (with_reducible exact only_refl _ _))

theorem calWrite_only {ps : List Part} {s0 : State} (b : List Byte) (s : State)
    (h : Only ps s0 s) (hp : [.fw, .recd] ⊆ ps) : Only ps s0 (calWrite b s) :=
  Only.via hp h (by
    unfold calWrite
    repeat' first
      | (with_reducible assumption)
      | (with_reducible refine recEvent_only _ _ ?_ (by decide))
      | (with_reducible refine updFw_only _ _ ?_ (by decide))
      | (intro)
      | (extract_lets +onlyGivenNames s1; refine only_cut s1 ?_ ?_; unfold s1; clear s1; rotate_left; intro hs1; clear_value s1; rotate_right)
      | (extract_lets +onlyGivenNames v1)
      | (with_reducible exact only_refl _ _))

end Sys2Proof.Machine
end

