-- ==== Sys2Proof/Laws/Only/Sequencer.lean ====
section
/-! SUPPORT. Which groups of state each operation of Machine/Sequencer.lean can change. -/

set_option linter.tactic.unusedName false

namespace Sys2Proof.Machine

theorem setPwrEn_only {ps : List Part} {s0 : State} (l : List Bool) (s : State)
    (h : Only ps s0 s) (hp : [.pins] ⊆ ps) : Only ps s0 (setPwrEn l s) :=
  Only.via hp h (by
    unfold setPwrEn
    repeat' first
      | (with_reducible assumption)
      | (intro)
      | (with_reducible exact only_refl _ _)
      | (refine only_pins _ ?_ (by decide)))

theorem beginSequence_only {ps : List Part} {s0 : State} (fresh : Bool) (s : State)
    (h : Only ps s0 s) (hp : [.power, .pins] ⊆ ps) : Only ps s0 (beginSequence fresh s) :=
  Only.via hp h (by
    unfold beginSequence
    repeat' first
      | (with_reducible assumption)
      | (with_reducible refine setPwrEn_only _ _ ?_ (by decide))
      | (with_reducible refine updPower_only _ _ ?_ (by decide))
      | (intro)
      | (split)
      | (with_reducible exact only_refl _ _))

theorem powerOn_only {ps : List Part} {s0 : State}  (s : State)
    (h : Only ps s0 s) (hp : [.power, .pins] ⊆ ps) : Only ps s0 (powerOn s) :=
  Only.via hp h (by
    unfold powerOn
    repeat' first
      | (with_reducible assumption)
      | (with_reducible refine beginSequence_only _ _ ?_ (by decide))
      | (intro)
      | (split)
      | (with_reducible exact only_refl _ _))

theorem railGood_only {ps : List Part} {s0 : State} (g : Nat) (s : State)
    (h : Only ps s0 s) (hp : [.fw, .power, .pins] ⊆ ps) : Only ps s0 (railGood g s) :=
  Only.via hp h (by
    unfold railGood
    repeat' first
      | (with_reducible assumption)
      | (with_reducible refine updPower_only _ _ ?_ (by decide))
      | (with_reducible refine updFw_only _ _ ?_ (by decide))
      | (with_reducible refine setPwrEn_only _ _ ?_ (by decide))
      | (intro)
      | (extract_lets +onlyGivenNames s1; refine only_cut s1 ?_ ?_; unfold s1; clear s1; rotate_left; intro hs1; clear_value s1; rotate_right)
      | (extract_lets +onlyGivenNames v1)
      | (split)
      | (with_reducible exact only_refl _ _))

theorem startFails_only {ps : List Part} {s0 : State} (x0 : Nat × Nat) (s : State)
    (h : Only ps s0 s) (hp : [.power, .pins] ⊆ ps) : Only ps s0 (startFails x0 s) :=
  Only.via hp h (by
    unfold startFails
    repeat' first
      | (with_reducible assumption)
      | (with_reducible refine updPower_only _ _ ?_ (by decide))
      | (with_reducible refine assertAlert_only _ ?_ (by decide))
      | (with_reducible refine setPwrEn_only _ _ ?_ (by decide))
      | (intro)
      | (extract_lets +onlyGivenNames s1; refine only_cut s1 ?_ ?_; unfold s1; clear s1; rotate_left; intro hs1; clear_value s1; rotate_right)
      | (extract_lets +onlyGivenNames v1)
      | (split)
      | (with_reducible exact only_refl _ _)
      | (refine only_pins _ ?_ (by decide)))

theorem bootWaitTimeout_only {ps : List Part} {s0 : State} (w : Nat) (s : State)
    (h : Only ps s0 s) (hp : [.power, .pins] ⊆ ps) : Only ps s0 (bootWaitTimeout w s) :=
  Only.via hp h (by
    unfold bootWaitTimeout
    repeat' first
      | (with_reducible assumption)
      | (with_reducible refine startFails_only _ _ ?_ (by decide))
      | (intro)
      | (split)
      | (with_reducible exact only_refl _ _))

theorem bootRetry_only {ps : List Part} {s0 : State}  (s : State)
    (h : Only ps s0 s) (hp : [.power, .pins] ⊆ ps) : Only ps s0 (bootRetry s) :=
  Only.via hp h (by
    unfold bootRetry
    repeat' first
      | (with_reducible assumption)
      | (with_reducible refine beginSequence_only _ _ ?_ (by decide))
      | (intro)
      | (split)
      | (with_reducible exact only_refl _ _))

theorem flushRestart_only {ps : List Part} {s0 : State}  (s : State)
    (h : Only ps s0 s) (hp : [.power, .pins] ⊆ ps) : Only ps s0 (flushRestart s) :=
  Only.via hp h (by
    unfold flushRestart
    repeat' first
      | (with_reducible assumption)
      | (with_reducible refine beginSequence_only _ _ ?_ (by decide))
      | (intro)
      | (split)
      | (with_reducible exact only_refl _ _)
      | (refine only_pins _ ?_ (by decide)))

theorem coolingRestart_only {ps : List Part} {s0 : State}  (s : State)
    (h : Only ps s0 s) (hp : [.power, .therm, .pins] ⊆ ps) : Only ps s0 (coolingRestart s) :=
  Only.via hp h (by
    unfold coolingRestart
    repeat' first
      | (with_reducible assumption)
      | (with_reducible refine updTherm_only _ _ ?_ (by decide))
      | (with_reducible refine beginSequence_only _ _ ?_ (by decide))
      | (with_reducible refine driveGpio_only _ ?_ (by decide))
      | (intro)
      | (extract_lets +onlyGivenNames s1; refine only_cut s1 ?_ ?_; unfold s1; clear s1; rotate_left; intro hs1; clear_value s1; rotate_right)
      | (extract_lets +onlyGivenNames v1)
      | (split)
      | (with_reducible exact only_refl _ _)
      | (refine only_pins _ ?_ (by decide)))

theorem powerRemoved_only {ps : List Part} {s0 : State}  (s : State)
    (h : Only ps s0 s) (hp : [.host, .power, .therm, .mgmt, .pins, .recd] ⊆ ps) : Only ps s0 (powerRemoved s) :=
  Only.via hp h (by
    unfold powerRemoved
    repeat' first
      | (with_reducible assumption)
      | (with_reducible refine updPower_only _ _ ?_ (by decide))
      | (with_reducible refine updTherm_only _ _ ?_ (by decide))
      | (with_reducible refine updRecd_only _ _ ?_ (by decide))
      | (with_reducible refine linksDown_only _ ?_ (by decide))
      | (intro)
      | (extract_lets +onlyGivenNames s1; refine only_cut s1 ?_ ?_; unfold s1; clear s1; rotate_left; intro hs1; clear_value s1; rotate_right)
      | (extract_lets +onlyGivenNames v1)
      | (split)
      | (with_reducible exact only_refl _ _)
      | (exact hs1.trans ⟨fun p hn => by cases p <;> first | rfl | exact absurd hn (by decide)⟩)
      | (exact ⟨fun p hn => by cases p <;> first | rfl | exact absurd hn (by decide)⟩)
      | (refine only_mgmt _ ?_ (by decide))
      | (refine only_pins _ ?_ (by decide)))

theorem jtagInstruction_only {ps : List Part} {s0 : State} (second : Bool) (ir : JtagIr) (s : State)
    (h : Only ps s0 s) (hp : [.pins, .emit, .free] ⊆ ps) : Only ps s0 (jtagInstruction second ir s) :=
  Only.via hp h (by
    unfold jtagInstruction
    repeat' first
      | (with_reducible assumption)
      | (with_reducible refine drawNat_only ?_ (by decide))
      | (with_reducible refine drawNat_only2 ?_ (by decide) (by assumption))
      | (with_reducible refine send_only _ _ ?_ (by decide))
      | (intro)
      | (extract_lets +onlyGivenNames s1; refine only_cut s1 ?_ ?_; unfold s1; clear s1; rotate_left; intro hs1; clear_value s1; rotate_right)
      | (extract_lets +onlyGivenNames v1)
      | (split)
      | (with_reducible exact only_refl _ _)
      | (refine only_pins _ ?_ (by decide)))

theorem consoleInput_only {ps : List Part} {s0 : State} (c : Byte) (s : State)
    (h : Only ps s0 s) (hp : [.pins] ⊆ ps) : Only ps s0 (consoleInput c s) :=
  Only.via hp h (by
    unfold consoleInput
    repeat' first
      | (with_reducible assumption)
      | (intro)
      | (split)
      | (with_reducible exact only_refl _ _)
      | (refine only_pins _ ?_ (by decide)))

end Sys2Proof.Machine
end

