-- ==== Sys2Proof/Laws/Only/Population.lean ====
section
/-! SUPPORT. Which groups of state each operation of Machine/Population.lean can change. -/

set_option linter.tactic.unusedName false

namespace Sys2Proof.Machine

theorem identifyTarget_only {ps : List Part} {s0 : State} (ch : Nat) (luns : Nat) (x2 : Nat) (s : State)
    (h : Only ps s0 s) (hp : [.emit] ⊆ ps) : Only ps s0 (identifyTarget ch luns x2 s) :=
  Only.via hp h (by
    unfold identifyTarget
    repeat' first
      | (with_reducible assumption)
      | (with_reducible refine onfi_only _ _ _ _ ?_ (by decide))
      | (with_reducible refine only_forEach _ _ _ ?_ ?_)
      | (intro)
      | (extract_lets +onlyGivenNames s1; refine only_cut s1 ?_ ?_; unfold s1; clear s1; rotate_left; intro hs1; clear_value s1; rotate_right)
      | (extract_lets +onlyGivenNames v1)
      | (with_reducible exact only_refl _ _))

theorem identifyChannel_only {ps : List Part} {s0 : State} (c : Config412) (ch : Nat) (s : State)
    (h : Only ps s0 s) (hp : [.emit] ⊆ ps) : Only ps s0 (identifyChannel c ch s) :=
  Only.via hp h (by
    unfold identifyChannel
    repeat' first
      | (with_reducible assumption)
      | (with_reducible refine identifyTarget_only _ _ _ _ ?_ (by decide))
      | (with_reducible refine only_forEach _ _ _ ?_ ?_)
      | (intro)
      | (with_reducible exact only_refl _ _))

theorem recEvents_only {ps : List Part} {s0 : State} (code : Nat) (n : Nat) (s : State)
    (h : Only ps s0 s) (hp : [.recd] ⊆ ps) : Only ps s0 (recEvents code n s) :=
  Only.via hp h (by
    unfold recEvents
    repeat' first
      | (with_reducible assumption)
      | (with_reducible refine recEvent_only _ _ ?_ (by decide))
      | (with_reducible refine only_forEach _ _ _ ?_ ?_)
      | (intro)
      | (with_reducible exact only_refl _ _))

theorem identifyFlash_only {ps : List Part} {s0 : State} (found : BootFind) (s : State)
    (h : Only ps s0 s) (hp : [.zone, .media, .flash, .recd, .emit, .free] ⊆ ps) : Only ps s0 (identifyFlash found s) :=
  Only.via hp h (by
    unfold identifyFlash
    repeat' first
      | (with_reducible assumption)
      | (with_reducible refine updZone_only _ _ ?_ (by decide))
      | (with_reducible refine updMedia_only _ _ ?_ (by decide))
      | (with_reducible refine updFlash_only _ _ ?_ (by decide))
      | (with_reducible refine identifyChannel_only _ _ _ ?_ (by decide))
      | (with_reducible refine recEvents_only _ _ _ ?_ (by decide))
      | (with_reducible refine only_forEach _ _ _ ?_ ?_)
      | (with_reducible refine only_foldl _ _ _ ?_ ?_)
      | (intro)
      | (extract_lets +onlyGivenNames s1; refine only_cut s1 ?_ ?_; unfold s1; clear s1; rotate_left; intro hs1; clear_value s1; rotate_right)
      | (extract_lets +onlyGivenNames v1)
      | (split)
      | (with_reducible exact only_refl _ _)
      | (refine only_free _ ?_ (by decide)))

theorem settleDies_only {ps : List Part} {s0 : State}  (s : State)
    (h : Only ps s0 s) (hp : [.frame, .host, .zone, .media, .flash, .inst, .therm, .pins, .recd, .emit] ⊆ ps) : Only ps s0 (settleDies s) :=
  Only.via hp h (by
    unfold settleDies
    repeat' first
      | (with_reducible assumption)
      | (with_reducible refine loseDie_only _ _ _ ?_ (by decide))
      | (with_reducible refine retireDie_only _ _ ?_ (by decide))
      | (with_reducible refine applyMark_only _ _ _ ?_ (by decide))
      | (with_reducible refine only_forEach _ _ _ ?_ ?_)
      | (intro)
      | (extract_lets +onlyGivenNames s1; refine only_cut s1 ?_ ?_; unfold s1; clear s1; rotate_left; intro hs1; clear_value s1; rotate_right)
      | (extract_lets +onlyGivenNames v1)
      | (split)
      | (with_reducible exact only_refl _ _))

end Sys2Proof.Machine
end

