-- ==== Sys2Proof/Laws/Only/Recovery.lean ====
section
/-! SUPPORT. Which groups of state each operation of Machine/Recovery.lean can change. -/

set_option linter.tactic.unusedName false

namespace Sys2Proof.Machine

theorem scanGroups_only {ps : List Part} {s0 : State}  (s : State)
    (h : Only ps s0 s) (hp : [.media] ⊆ ps) : Only ps s0 (scanGroups s) :=
  Only.via hp h (by
    unfold scanGroups
    repeat' first
      | (with_reducible assumption)
      | (with_reducible refine updMedia_only _ _ ?_ (by decide))
      | (intro)
      | (with_reducible exact only_refl _ _))

theorem dropUnposted_only {ps : List Part} {s0 : State}  (s : State)
    (h : Only ps s0 s) (hp : [.media] ⊆ ps) : Only ps s0 (dropUnposted s) :=
  Only.via hp h (by
    unfold dropUnposted
    repeat' first
      | (with_reducible assumption)
      | (with_reducible refine discardLanded_only _ _ ?_ (by decide))
      | (with_reducible refine only_forEach _ _ _ ?_ ?_)
      | (intro)
      | (with_reducible exact only_refl _ _))

theorem giveBlock_only {ps : List Part} {s0 : State} (p : Nat × Nat) (s : State)
    (h : Only ps s0 s) (hp : [.media] ⊆ ps) : Only ps s0 (giveBlock p s) :=
  Only.via hp h (by
    unfold giveBlock
    repeat' first
      | (with_reducible assumption)
      | (with_reducible refine setBlock_only _ _ _ _ ?_ (by decide))
      | (intro)
      | (with_reducible exact only_refl _ _))

theorem undoRec_only {ps : List Part} {s0 : State} (r : JRec) (s : State)
    (h : Only ps s0 s) (hp : [.zone, .media] ⊆ ps) : Only ps s0 (undoRec r s) :=
  Only.via hp h (by
    unfold undoRec
    repeat' first
      | (with_reducible assumption)
      | (with_reducible refine updZoneRec_only _ _ _ ?_ (by decide))
      | (with_reducible refine forgetGroup_only _ _ ?_ (by decide))
      | (with_reducible refine updMedia_only _ _ ?_ (by decide))
      | (with_reducible refine giveBlock_only _ _ ?_ (by decide))
      | (with_reducible refine updGroup_only _ _ _ ?_ (by decide))
      | (with_reducible refine only_forEach _ _ _ ?_ ?_)
      | (intro)
      | (extract_lets +onlyGivenNames s1; refine only_cut s1 ?_ ?_; unfold s1; clear s1; rotate_left; intro hs1; clear_value s1; rotate_right)
      | (extract_lets +onlyGivenNames v1)
      | (split)
      | (with_reducible exact only_refl _ _))

theorem dropRing_only {ps : List Part} {s0 : State}  (s : State)
    (h : Only ps s0 s) (hp : [.zone, .media] ⊆ ps) : Only ps s0 (dropRing s) :=
  Only.via hp h (by
    unfold dropRing
    repeat' first
      | (with_reducible assumption)
      | (with_reducible refine undoRec_only _ _ ?_ (by decide))
      | (with_reducible refine updMedia_only _ _ ?_ (by decide))
      | (with_reducible refine only_forEach _ _ _ ?_ ?_)
      | (intro)
      | (extract_lets +onlyGivenNames s1; refine only_cut s1 ?_ ?_; unfold s1; clear s1; rotate_left; intro hs1; clear_value s1; rotate_right)
      | (extract_lets +onlyGivenNames v1)
      | (with_reducible exact only_refl _ _))

theorem dropWork_only {ps : List Part} {s0 : State}  (s : State)
    (h : Only ps s0 s) (hp : [.host, .zone, .media, .flash] ⊆ ps) : Only ps s0 (dropWork s) :=
  Only.via hp h (by
    unfold dropWork
    repeat' first
      | (with_reducible assumption)
      | (with_reducible refine dropUnposted_only _ ?_ (by decide))
      | (with_reducible refine scanGroups_only _ ?_ (by decide))
      | (with_reducible refine updItems_only _ _ ?_ (by decide))
      | (with_reducible refine dropRing_only _ ?_ (by decide))
      | (with_reducible refine updMedia_only _ _ ?_ (by decide))
      | (with_reducible refine updFlash_only _ _ ?_ (by decide))
      | (with_reducible refine updZone_only _ _ ?_ (by decide))
      | (intro)
      | (extract_lets +onlyGivenNames s1; refine only_cut s1 ?_ ?_; unfold s1; clear s1; rotate_left; intro hs1; clear_value s1; rotate_right)
      | (extract_lets +onlyGivenNames k1; have _ck := fun x => (k1 x : State → State); clear _ck)
      | (extract_lets +onlyGivenNames k1; have _ck := fun x => (k1 x : State); clear _ck)
      | (extract_lets +onlyGivenNames v1)
      | (with_reducible exact only_refl _ _)
      | (dsimp only [k1]))

theorem rebaseTables_only {ps : List Part} {s0 : State} (x0 : Int) (x1 : Int) (s : State)
    (h : Only ps s0 s) (hp : [.zone, .media] ⊆ ps) : Only ps s0 (rebaseTables x0 x1 s) :=
  Only.via hp h (by
    unfold rebaseTables
    repeat' first
      | (with_reducible assumption)
      | (with_reducible refine updMedia_only _ _ ?_ (by decide))
      | (with_reducible refine updZone_only _ _ ?_ (by decide))
      | (intro)
      | (extract_lets +onlyGivenNames s1; refine only_cut s1 ?_ ?_; unfold s1; clear s1; rotate_left; intro hs1; clear_value s1; rotate_right)
      | (extract_lets +onlyGivenNames k1; have _ck := fun x => (k1 x : State → State); clear _ck)
      | (extract_lets +onlyGivenNames k1; have _ck := fun x => (k1 x : State); clear _ck)
      | (extract_lets +onlyGivenNames v1)
      | (with_reducible exact only_refl _ _)
      | (dsimp only [k1]))

theorem replayRefuge_only {ps : List Part} {s0 : State}  (s : State)
    (h : Only ps s0 s) (hp : [.frame, .host, .media, .inst, .therm, .pins, .recd, .emit] ⊆ ps) : Only ps s0 (replayRefuge s) :=
  Only.via hp h (by
    unfold replayRefuge
    repeat' first
      | (with_reducible assumption)
      | (with_reducible refine updMedia_only _ _ ?_ (by decide))
      | (with_reducible refine setCritical_only _ _ ?_ (by decide))
      | (with_reducible refine callWrite_only _ ?_ (by decide))
      | (with_reducible refine recDataErr_only _ _ _ ?_ (by decide))
      | (intro)
      | (extract_lets +onlyGivenNames s1; refine only_cut s1 ?_ ?_; unfold s1; clear s1; rotate_left; intro hs1; clear_value s1; rotate_right)
      | (extract_lets +onlyGivenNames k1; have _ck := fun x => (k1 x : State → State); clear _ck)
      | (extract_lets +onlyGivenNames k1; have _ck := fun x => (k1 x : State); clear _ck)
      | (extract_lets +onlyGivenNames v1)
      | (split)
      | (with_reducible exact only_refl _ _)
      | (refine only_therm _ ?_ (by decide))
      | (dsimp only [k1]))

theorem recoverZone_only {ps : List Part} {s0 : State} (z : Nat) (s : State)
    (h : Only ps s0 s) (hp : [.host, .zone, .media, .flash] ⊆ ps) : Only ps s0 (recoverZone z s) :=
  Only.via hp h (by
    unfold recoverZone
    repeat' first
      | (with_reducible assumption)
      | (with_reducible refine closeZone_only _ _ ?_ (by decide))
      | (with_reducible refine updZoneRec_only _ _ _ ?_ (by decide))
      | (intro)
      | (extract_lets +onlyGivenNames s1; refine only_cut s1 ?_ ?_; unfold s1; clear s1; rotate_left; intro hs1; clear_value s1; rotate_right)
      | (extract_lets +onlyGivenNames v1)
      | (split)
      | (with_reducible exact only_refl _ _))

theorem loseZone_only {ps : List Part} {s0 : State} (z : Nat) (s : State)
    (h : Only ps s0 s) (hp : [.frame, .host, .zone, .media, .flash, .inst, .recd, .emit] ⊆ ps) : Only ps s0 (loseZone z s) :=
  Only.via hp h (by
    unfold loseZone
    repeat' first
      | (with_reducible assumption)
      | (with_reducible refine notifyZone_only _ _ _ _ ?_ (by decide))
      | (with_reducible refine offlineZone_only _ _ ?_ (by decide))
      | (intro)
      | (split)
      | (with_reducible exact only_refl _ _))

theorem loseZones_only {ps : List Part} {s0 : State} (l : List Nat) (s : State)
    (h : Only ps s0 s) (hp : [.frame, .host, .zone, .media, .flash, .inst, .therm, .pins, .recd, .emit] ⊆ ps) : Only ps s0 (loseZones l s) :=
  Only.via hp h (by
    unfold loseZones
    repeat' first
      | (with_reducible assumption)
      | (with_reducible refine recEvent_only _ _ ?_ (by decide))
      | (with_reducible refine setCritical_only _ _ ?_ (by decide))
      | (with_reducible refine loseZone_only _ _ ?_ (by decide))
      | (with_reducible refine only_forEach _ _ _ ?_ ?_)
      | (intro)
      | (split)
      | (with_reducible exact only_refl _ _))

theorem recoverErases_only {ps : List Part} {s0 : State}  (s : State)
    (h : Only ps s0 s) (hp : [.frame, .host, .zone, .media, .flash, .inst, .recd, .emit] ⊆ ps) : Only ps s0 (recoverErases s) :=
  Only.via hp h (by
    unfold recoverErases
    repeat' first
      | (with_reducible assumption)
      | (with_reducible refine setBlock_only _ _ _ _ ?_ (by decide))
      | (with_reducible refine dissolve_only _ _ ?_ (by decide))
      | (with_reducible refine only_when _ _ ?_ ?_)
      | (with_reducible refine only_forEach _ _ _ ?_ ?_)
      | (intro)
      | (extract_lets +onlyGivenNames s1; refine only_cut s1 ?_ ?_; unfold s1; clear s1; rotate_left; intro hs1; clear_value s1; rotate_right)
      | (extract_lets +onlyGivenNames v1)
      | (with_reducible exact only_refl _ _))

theorem settleGroups_only {ps : List Part} {s0 : State}  (s : State)
    (h : Only ps s0 s) (hp : [.media] ⊆ ps) : Only ps s0 (settleGroups s) :=
  Only.via hp h (by
    unfold settleGroups
    repeat' first
      | (with_reducible assumption)
      | (with_reducible refine closeIfDone_only _ _ ?_ (by decide))
      | (with_reducible refine pendIfEmpty_only _ _ ?_ (by decide))
      | (with_reducible refine only_forEach _ _ _ ?_ ?_)
      | (intro)
      | (with_reducible exact only_refl _ _))

theorem loadCheckpoint_only {ps : List Part} {s0 : State}  (s : State)
    (h : Only ps s0 s) (hp : [.media] ⊆ ps) : Only ps s0 (loadCheckpoint s) :=
  Only.via hp h (by
    unfold loadCheckpoint
    repeat' first
      | (with_reducible assumption)
      | (with_reducible refine updMedia_only _ _ ?_ (by decide))
      | (with_reducible refine only_foldl _ _ _ ?_ ?_)
      | (intro)
      | (extract_lets +onlyGivenNames s1; refine only_cut s1 ?_ ?_; unfold s1; clear s1; rotate_left; intro hs1; clear_value s1; rotate_right)
      | (extract_lets +onlyGivenNames k1; have _ck := fun x => (k1 x : State → State); clear _ck)
      | (extract_lets +onlyGivenNames k1; have _ck := fun x => (k1 x : State); clear _ck)
      | (extract_lets +onlyGivenNames v1)
      | (split)
      | (with_reducible exact only_refl _ _)
      | (dsimp only [k1]))

theorem loseEntry_only {ps : List Part} {s0 : State} (p : Nat × Nat) (s : State)
    (h : Only ps s0 s) (hp : [.media] ⊆ ps) : Only ps s0 (loseEntry p s) :=
  Only.via hp h (by
    unfold loseEntry
    repeat' first
      | (with_reducible assumption)
      | (with_reducible refine setBlock_only _ _ _ _ ?_ (by decide))
      | (with_reducible refine only_foldl _ _ _ ?_ ?_)
      | (intro)
      | (with_reducible exact only_refl _ _))

theorem recoverLosses_only {ps : List Part} {s0 : State} (found : BootFind) (s : State)
    (h : Only ps s0 s) (hp : [.frame, .host, .zone, .media, .flash, .inst, .therm, .pins, .recd, .emit] ⊆ ps) : Only ps s0 (recoverLosses found s) :=
  Only.via hp h (by
    unfold recoverLosses
    repeat' first
      | (with_reducible assumption)
      | (with_reducible refine setPm_only _ _ _ _ ?_ (by decide))
      | (with_reducible refine loseEntry_only _ _ ?_ (by decide))
      | (with_reducible refine recEvent_only _ _ ?_ (by decide))
      | (with_reducible refine setCritical_only _ _ ?_ (by decide))
      | (with_reducible refine loseZones_only _ _ ?_ (by decide))
      | (with_reducible refine only_when _ _ ?_ ?_)
      | (with_reducible refine only_forEach _ _ _ ?_ ?_)
      | (intro)
      | (extract_lets +onlyGivenNames s1; refine only_cut s1 ?_ ?_; unfold s1; clear s1; rotate_left; intro hs1; clear_value s1; rotate_right)
      | (extract_lets +onlyGivenNames v1)
      | (with_reducible exact only_refl _ _))

theorem recoverMaps_only {ps : List Part} {s0 : State} (found : BootFind) (s : State)
    (h : Only ps s0 s) (hp : [.frame, .host, .zone, .media, .flash, .inst, .therm, .pins, .recd, .emit] ⊆ ps) : Only ps s0 (recoverMaps found s) :=
  Only.via hp h (by
    unfold recoverMaps
    repeat' first
      | (with_reducible assumption)
      | (with_reducible refine replayRefuge_only _ ?_ (by decide))
      | (with_reducible refine loadCheckpoint_only _ ?_ (by decide))
      | (with_reducible refine recoverZone_only _ _ ?_ (by decide))
      | (with_reducible refine settleGroups_only _ ?_ (by decide))
      | (with_reducible refine recoverErases_only _ ?_ (by decide))
      | (with_reducible refine recoverLosses_only _ _ ?_ (by decide))
      | (with_reducible refine zoneLosses_only _ _ ?_ (by decide))
      | (with_reducible refine only_forEach _ _ _ ?_ ?_)
      | (intro)
      | (extract_lets +onlyGivenNames s1; refine only_cut s1 ?_ ?_; unfold s1; clear s1; rotate_left; intro hs1; clear_value s1; rotate_right)
      | (extract_lets +onlyGivenNames v1)
      | (with_reducible exact only_refl _ _))

theorem startPf_only {ps : List Part} {s0 : State} (p : Pf) (s : State)
    (h : Only ps s0 s) (hp : [.host, .media, .inst] ⊆ ps) : Only ps s0 (startPf p s) :=
  Only.via hp h (by
    unfold startPf
    repeat' first
      | (with_reducible assumption)
      | (with_reducible refine updMedia_only _ _ ?_ (by decide))
      | (with_reducible refine updInst_only _ _ ?_ (by decide))
      | (intro)
      | (extract_lets +onlyGivenNames s1; refine only_cut s1 ?_ ?_; unfold s1; clear s1; rotate_left; intro hs1; clear_value s1; rotate_right)
      | (extract_lets +onlyGivenNames v1)
      | (split)
      | (with_reducible exact only_refl _ _)
      | (refine only_host _ ?_ (by decide)))

theorem startSlot_only {ps : List Part} {s0 : State} (p : Pf) (s : State)
    (h : Only ps s0 s) (hp : [.prot] ⊆ ps) : Only ps s0 (startSlot p s) :=
  Only.via hp h (by
    unfold startSlot
    repeat' first
      | (with_reducible assumption)
      | (with_reducible refine assignSlot_only _ _ _ ?_ (by decide))
      | (with_reducible refine emptySlot_only _ _ ?_ (by decide))
      | (with_reducible refine only_forEach _ _ _ ?_ ?_)
      | (intro)
      | (extract_lets +onlyGivenNames s1; refine only_cut s1 ?_ ?_; unfold s1; clear s1; rotate_left; intro hs1; clear_value s1; rotate_right)
      | (extract_lets +onlyGivenNames v1)
      | (split)
      | (with_reducible exact only_refl _ _))

theorem startInstance_only {ps : List Part} {s0 : State} (n : Nat) (s : State)
    (h : Only ps s0 s) (hp : [.host, .zone, .inst, .prot] ⊆ ps) : Only ps s0 (startInstance n s) :=
  Only.via hp h (by
    unfold startInstance
    repeat' first
      | (with_reducible assumption)
      | (with_reducible refine emptySlot_only _ _ ?_ (by decide))
      | (with_reducible refine removeNs_only _ _ ?_ (by decide))
      | (with_reducible refine updInst_only _ _ ?_ (by decide))
      | (with_reducible refine only_forEach _ _ _ ?_ ?_)
      | (intro)
      | (extract_lets +onlyGivenNames s1; refine only_cut s1 ?_ ?_; unfold s1; clear s1; rotate_left; intro hs1; clear_value s1; rotate_right)
      | (extract_lets +onlyGivenNames v1)
      | (split)
      | (with_reducible exact only_refl _ _)
      | (refine only_host _ ?_ (by decide)))

theorem resumeProgress_only {ps : List Part} {s0 : State}  (s : State)
    (h : Only ps s0 s) (hp : [.zone, .media, .flash, .prot] ⊆ ps) : Only ps s0 (resumeProgress s) :=
  Only.via hp h (by
    unfold resumeProgress
    repeat' first
      | (with_reducible assumption)
      | (with_reducible refine updZone_only _ _ ?_ (by decide))
      | (with_reducible refine wipeNs_only _ _ _ ?_ (by decide))
      | (with_reducible refine only_when _ _ ?_ ?_)
      | (with_reducible refine only_forEach _ _ _ ?_ ?_)
      | (intro)
      | (extract_lets +onlyGivenNames s1; refine only_cut s1 ?_ ?_; unfold s1; clear s1; rotate_left; intro hs1; clear_value s1; rotate_right)
      | (extract_lets +onlyGivenNames k1; have _ck := fun x => (k1 x : State → State); clear _ck)
      | (extract_lets +onlyGivenNames k1; have _ck := fun x => (k1 x : State); clear _ck)
      | (extract_lets +onlyGivenNames v1)
      | (split)
      | (with_reducible exact only_refl _ _)
      | (dsimp only [k1]))

end Sys2Proof.Machine
end

