-- ==== Sys2Proof/Laws/Only/Boot.lean ====
section
/-! SUPPORT. Which groups of state each operation of Machine/Boot.lean can change. -/

set_option linter.tactic.unusedName false

namespace Sys2Proof.Machine

theorem endMinutes_only {ps : List Part} {s0 : State}  (s : State)
    (h : Only ps s0 s) (hp : [.frame, .mbx, .media, .flash, .inst] ⊆ ps) : Only ps s0 (endMinutes s) :=
  Only.via hp h (by
    unfold endMinutes
    repeat' first
      | (with_reducible assumption)
      | (with_reducible refine passMinutes_only _ _ _ _ ?_ (by decide))
      | (with_reducible refine freezeMinute_only _ _ _ ?_ (by decide))
      | (intro)
      | (extract_lets +onlyGivenNames s1; refine only_cut s1 ?_ ?_; unfold s1; clear s1; rotate_left; intro hs1; clear_value s1; rotate_right)
      | (extract_lets +onlyGivenNames v1)
      | (split)
      | (with_reducible exact only_refl _ _))

theorem endRecord_only {ps : List Part} {s0 : State}  (s : State)
    (h : Only ps s0 s) (hp : [.mbx, .media, .recd] ⊆ ps) : Only ps s0 (endRecord s) :=
  Only.via hp h (by
    unfold endRecord
    repeat' first
      | (with_reducible assumption)
      | (with_reducible refine writeBuffer_only _ ?_ (by decide))
      | (with_reducible refine closeRecord_only _ _ _ ?_ (by decide))
      | (intro)
      | (split)
      | (with_reducible exact only_refl _ _))

theorem takeTrip_only {ps : List Part} {s0 : State}  (s : State)
    (h : Only ps s0 s) (hp : [.therm, .recd] ⊆ ps) : Only ps s0 (takeTrip s) :=
  Only.via hp h (by
    unfold takeTrip
    repeat' first
      | (with_reducible assumption)
      | (with_reducible refine updRecd_only _ _ ?_ (by decide))
      | (with_reducible refine updTherm_only _ _ ?_ (by decide))
      | (intro)
      | (split)
      | (with_reducible exact only_refl _ _))

theorem coldProt_only {ps : List Part} {s0 : State}  (s : State)
    (h : Only ps s0 s) (hp : [.prot, .recd] ⊆ ps) : Only ps s0 (coldProt s) :=
  Only.via hp h (by
    unfold coldProt
    repeat' first
      | (with_reducible assumption)
      | (with_reducible refine discardProposals_only _ ?_ (by decide))
      | (with_reducible refine recEvents_only _ _ _ ?_ (by decide))
      | (with_reducible refine updProt_only _ _ ?_ (by decide))
      | (with_reducible refine only_foldl _ _ _ ?_ ?_)
      | (intro)
      | (extract_lets +onlyGivenNames s1; refine only_cut s1 ?_ ?_; unfold s1; clear s1; rotate_left; intro hs1; clear_value s1; rotate_right)
      | (extract_lets +onlyGivenNames v1)
      | (with_reducible exact only_refl _ _))

theorem wipeVolatile_only {ps : List Part} {s0 : State} (ok : List Nat) (s : State)
    (h : Only ps s0 s) (hp : [.frame, .mbx, .host, .zone, .media, .flash, .inst, .prot, .ecc, .fw, .power, .therm, .mgmt, .pins, .recd] ⊆ ps) : Only ps s0 (wipeVolatile ok s) :=
  Only.via hp h (by
    unfold wipeVolatile
    repeat' first
      | (with_reducible assumption)
      | (with_reducible refine coldProt_only _ ?_ (by decide))
      | (with_reducible refine dropWork_only _ ?_ (by decide))
      | (with_reducible refine updInst_only _ _ ?_ (by decide))
      | (with_reducible refine updMedia_only _ _ ?_ (by decide))
      | (with_reducible refine updFlash_only _ _ ?_ (by decide))
      | (with_reducible refine updTherm_only _ _ ?_ (by decide))
      | (with_reducible refine updPower_only _ _ ?_ (by decide))
      | (with_reducible refine updFw_only _ _ ?_ (by decide))
      | (intro)
      | (extract_lets +onlyGivenNames s1; refine only_cut s1 ?_ ?_; unfold s1; clear s1; rotate_left; intro hs1; clear_value s1; rotate_right)
      | (extract_lets +onlyGivenNames v1)
      | (with_reducible exact only_refl _ _)
      | (exact hs1.trans ⟨fun p hn => by cases p <;> first | rfl | exact absurd hn (by decide)⟩)
      | (exact ⟨fun p hn => by cases p <;> first | rfl | exact absurd hn (by decide)⟩)
      | (refine only_frame _ ?_ (by decide))
      | (refine only_mbx _ ?_ (by decide))
      | (refine only_host _ ?_ (by decide))
      | (refine only_ecc _ ?_ (by decide))
      | (refine only_mgmt _ ?_ (by decide))
      | (refine only_pins _ ?_ (by decide)))

theorem readRecord_only {ps : List Part} {s0 : State} (found : BootFind) (s : State)
    (h : Only ps s0 s) (hp : [.frame, .fw, .therm] ⊆ ps) : Only ps s0 (readRecord found s) :=
  Only.via hp h (by
    unfold readRecord
    repeat' first
      | (with_reducible assumption)
      | (with_reducible refine updFw_only _ _ ?_ (by decide))
      | (with_reducible refine updShelf_only _ _ ?_ (by decide))
      | (with_reducible refine applySync_only _ _ ?_ (by decide))
      | (with_reducible refine applyThermal_only _ _ ?_ (by decide))
      | (intro)
      | (extract_lets +onlyGivenNames s1; refine only_cut s1 ?_ ?_; unfold s1; clear s1; rotate_left; intro hs1; clear_value s1; rotate_right)
      | (extract_lets +onlyGivenNames v1)
      | (split)
      | (with_reducible exact only_refl _ _))

theorem readCalib_only {ps : List Part} {s0 : State} (ok : Bool) (s : State)
    (h : Only ps s0 s) (hp : [.fw] ⊆ ps) : Only ps s0 (readCalib ok s) :=
  Only.via hp h (by
    unfold readCalib
    repeat' first
      | (with_reducible assumption)
      | (with_reducible refine updFw_only _ _ ?_ (by decide))
      | (intro)
      | (split)
      | (with_reducible exact only_refl _ _))

theorem startPolicy_only {ps : List Part} {s0 : State}  (s : State)
    (h : Only ps s0 s) (hp : [.media] ⊆ ps) : Only ps s0 (startPolicy s) :=
  Only.via hp h (by
    unfold startPolicy
    repeat' first
      | (with_reducible assumption)
      | (with_reducible refine updMedia_only _ _ ?_ (by decide))
      | (intro)
      | (extract_lets +onlyGivenNames s1; refine only_cut s1 ?_ ?_; unfold s1; clear s1; rotate_left; intro hs1; clear_value s1; rotate_right)
      | (extract_lets +onlyGivenNames v1)
      | (split)
      | (with_reducible exact only_refl _ _))

theorem startHoldup_only {ps : List Part} {s0 : State} (found : BootFind) (s : State)
    (h : Only ps s0 s) (hp : [.media, .power] ⊆ ps) : Only ps s0 (startHoldup found s) :=
  Only.via hp h (by
    unfold startHoldup
    repeat' first
      | (with_reducible assumption)
      | (with_reducible refine updMedia_only _ _ ?_ (by decide))
      | (with_reducible refine setHoldup_only _ _ _ _ ?_ (by decide))
      | (intro)
      | (extract_lets +onlyGivenNames s1; refine only_cut s1 ?_ ?_; unfold s1; clear s1; rotate_left; intro hs1; clear_value s1; rotate_right)
      | (extract_lets +onlyGivenNames v1)
      | (split)
      | (with_reducible exact only_refl _ _))

theorem startCritical_only {ps : List Part} {s0 : State}  (s : State)
    (h : Only ps s0 s) (hp : [.frame, .host, .inst, .therm, .pins, .recd, .emit] ⊆ ps) : Only ps s0 (startCritical s) :=
  Only.via hp h (by
    unfold startCritical
    repeat' first
      | (with_reducible assumption)
      | (with_reducible refine setCritical_only _ _ ?_ (by decide))
      | (with_reducible refine judgeWarnings_only _ ?_ (by decide))
      | (with_reducible refine only_when _ _ ?_ ?_)
      | (intro)
      | (extract_lets +onlyGivenNames s1; refine only_cut s1 ?_ ?_; unfold s1; clear s1; rotate_left; intro hs1; clear_value s1; rotate_right)
      | (extract_lets +onlyGivenNames v1)
      | (with_reducible exact only_refl _ _))

theorem configFault_only {ps : List Part} {s0 : State}  (s : State)
    (h : Only ps s0 s) (hp : [.power, .pins] ⊆ ps) : Only ps s0 (configFault s) :=
  Only.via hp h (by
    unfold configFault
    repeat' first
      | (with_reducible assumption)
      | (with_reducible refine updPower_only _ _ ?_ (by decide))
      | (with_reducible refine assertAlert_only _ ?_ (by decide))
      | (with_reducible refine setPwrEn_only _ _ ?_ (by decide))
      | (intro)
      | (extract_lets +onlyGivenNames s1; refine only_cut s1 ?_ ?_; unfold s1; clear s1; rotate_left; intro hs1; clear_value s1; rotate_right)
      | (extract_lets +onlyGivenNames v1)
      | (with_reducible exact only_refl _ _)
      | (refine only_pins _ ?_ (by decide)))

theorem startFunctions_only {ps : List Part} {s0 : State}  (s : State)
    (h : Only ps s0 s) (hp : [.host, .zone, .media, .inst, .prot] ⊆ ps) : Only ps s0 (startFunctions s) :=
  Only.via hp h (by
    unfold startFunctions
    repeat' first
      | (with_reducible assumption)
      | (with_reducible refine startSlot_only _ _ ?_ (by decide))
      | (with_reducible refine startPf_only _ _ ?_ (by decide))
      | (with_reducible refine startInstance_only _ _ ?_ (by decide))
      | (with_reducible refine only_forEach _ _ _ ?_ ?_)
      | (intro)
      | (extract_lets +onlyGivenNames s1; refine only_cut s1 ?_ ?_; unfold s1; clear s1; rotate_left; intro hs1; clear_value s1; rotate_right)
      | (extract_lets +onlyGivenNames v1)
      | (with_reducible exact only_refl _ _)
      | (refine only_host _ ?_ (by decide)))

theorem startRun_only {ps : List Part} {s0 : State}  (s : State)
    (h : Only ps s0 s) (hp : [.host, .zone, .media, .inst, .prot, .fw, .power, .mgmt] ⊆ ps) : Only ps s0 (startRun s) :=
  Only.via hp h (by
    unfold startRun
    repeat' first
      | (with_reducible assumption)
      | (with_reducible refine updPower_only _ _ ?_ (by decide))
      | (with_reducible refine startFunctions_only _ ?_ (by decide))
      | (with_reducible refine updFw_only _ _ ?_ (by decide))
      | (with_reducible refine updMgmt_only _ _ ?_ (by decide))
      | (intro)
      | (extract_lets +onlyGivenNames s1; refine only_cut s1 ?_ ?_; unfold s1; clear s1; rotate_left; intro hs1; clear_value s1; rotate_right)
      | (extract_lets +onlyGivenNames v1)
      | (with_reducible exact only_refl _ _))

theorem startEngines_only {ps : List Part} {s0 : State} (found : BootFind) (s : State)
    (h : Only ps s0 s) (hp : [.frame, .host, .zone, .media, .flash, .inst, .prot, .fw, .power, .therm, .mgmt, .pins, .recd, .emit, .free] ⊆ ps) : Only ps s0 (startEngines found s) :=
  Only.via hp h (by
    unfold startEngines
    repeat' first
      | (with_reducible assumption)
      | (with_reducible refine startRun_only _ ?_ (by decide))
      | (with_reducible refine identifyFlash_only _ _ ?_ (by decide))
      | (with_reducible refine settleDies_only _ ?_ (by decide))
      | (with_reducible refine resumeProgress_only _ ?_ (by decide))
      | (with_reducible refine recoverMaps_only _ _ ?_ (by decide))
      | (with_reducible refine startCritical_only _ ?_ (by decide))
      | (with_reducible refine startPolicy_only _ ?_ (by decide))
      | (with_reducible refine startHoldup_only _ _ ?_ (by decide))
      | (with_reducible refine buildAreas_only _ ?_ (by decide))
      | (intro)
      | (extract_lets +onlyGivenNames s1; refine only_cut s1 ?_ ?_; unfold s1; clear s1; rotate_left; intro hs1; clear_value s1; rotate_right)
      | (extract_lets +onlyGivenNames v1)
      | (split)
      | (with_reducible exact only_refl _ _))

theorem bootMain_only {ps : List Part} {s0 : State} (found : BootFind) (n : Nat) (s : State)
    (h : Only ps s0 s) (hp : [.frame, .host, .zone, .media, .flash, .inst, .prot, .fw, .power, .therm, .mgmt, .pins, .recd, .emit, .free] ⊆ ps) : Only ps s0 (bootMain found n s) :=
  Only.via hp h (by
    unfold bootMain
    repeat' first
      | (with_reducible assumption)
      | (with_reducible refine updSlotAt_only _ _ _ ?_ (by decide))
      | (with_reducible refine updFw_only _ _ ?_ (by decide))
      | (with_reducible refine recEvent_only _ _ ?_ (by decide))
      | (with_reducible refine updRec_only _ _ ?_ (by decide))
      | (with_reducible refine startEngines_only _ _ ?_ (by decide))
      | (with_reducible refine configFault_only _ ?_ (by decide))
      | (with_reducible refine only_when _ _ ?_ ?_)
      | (intro)
      | (extract_lets +onlyGivenNames s1; refine only_cut s1 ?_ ?_; unfold s1; clear s1; rotate_left; intro hs1; clear_value s1; rotate_right)
      | (extract_lets +onlyGivenNames v1)
      | (split)
      | (with_reducible exact only_refl _ _))

theorem enterCellar_only {ps : List Part} {s0 : State} (cause : Nat) (s : State)
    (h : Only ps s0 s) (hp : [.mbx, .host, .inst, .prot, .ecc, .fw, .power, .mgmt, .recd, .emit] ⊆ ps) : Only ps s0 (enterCellar cause s) :=
  Only.via hp h (by
    unfold enterCellar
    repeat' first
      | (with_reducible assumption)
      | (with_reducible refine updCtl_only _ _ _ ?_ (by decide))
      | (with_reducible refine cellarMailboxReset_only _ ?_ (by decide))
      | (with_reducible refine updFw_only _ _ ?_ (by decide))
      | (with_reducible refine updProt_only _ _ ?_ (by decide))
      | (with_reducible refine updPower_only _ _ ?_ (by decide))
      | (with_reducible refine updRec_only _ _ ?_ (by decide))
      | (with_reducible refine only_forEach _ _ _ ?_ ?_)
      | (intro)
      | (extract_lets +onlyGivenNames s1; refine only_cut s1 ?_ ?_; unfold s1; clear s1; rotate_left; intro hs1; clear_value s1; rotate_right)
      | (extract_lets +onlyGivenNames k1; have _ck := fun x => (k1 x : State → State); clear _ck)
      | (extract_lets +onlyGivenNames k1; have _ck := fun x => (k1 x : State); clear _ck)
      | (extract_lets +onlyGivenNames v1)
      | (split)
      | (with_reducible exact only_refl _ _)
      | (exact hs1.trans ⟨fun p hn => by cases p <;> first | rfl | exact absurd hn (by decide)⟩)
      | (exact ⟨fun p hn => by cases p <;> first | rfl | exact absurd hn (by decide)⟩)
      | (refine only_inst _ ?_ (by decide))
      | (refine only_mgmt _ ?_ (by decide))
      | (dsimp only [k1]))

theorem failCopy_only {ps : List Part} {s0 : State} (found : BootFind) (k : Nat) (s : State)
    (h : Only ps s0 s) (hp : [.fw] ⊆ ps) : Only ps s0 (failCopy found k s) :=
  Only.via hp h (by
    unfold failCopy
    repeat' first
      | (with_reducible assumption)
      | (with_reducible refine updSlotAt_only _ _ _ ?_ (by decide))
      | (intro)
      | (extract_lets +onlyGivenNames s1; refine only_cut s1 ?_ ?_; unfold s1; clear s1; rotate_left; intro hs1; clear_value s1; rotate_right)
      | (extract_lets +onlyGivenNames v1)
      | (split)
      | (with_reducible exact only_refl _ _))

theorem tryImages_only {ps : List Part} {s0 : State} (found : BootFind) (x1 : Nat) (x2 : Nat) (s : State)
    (h : Only ps s0 s) (hp : [.frame, .mbx, .host, .zone, .media, .flash, .inst, .prot, .ecc, .fw, .power, .therm, .mgmt, .pins, .recd, .emit, .free] ⊆ ps) : Only ps s0 (tryImages found x1 x2 s) :=
  Only.via hp h (by
    clear h hp
    fun_induction tryImages
    repeat' first
      | (with_reducible assumption)
      | (with_reducible refine enterCellar_only _ _ ?_ (by decide))
      | (with_reducible refine failCopy_only _ _ _ ?_ (by decide))
      | (with_reducible refine bootMain_only _ _ _ ?_ (by decide))
      | (with_reducible refine updPower_only _ _ ?_ (by decide))
      | (with_reducible refine updFw_only _ _ ?_ (by decide))
      | (with_reducible refine Only.trans ?_ (by with_reducible assumption))
      | (intro)
      | (extract_lets +onlyGivenNames s1; refine only_cut s1 ?_ ?_; unfold s1; clear s1; rotate_left; intro hs1; clear_value s1; rotate_right)
      | (extract_lets +onlyGivenNames v1)
      | (split)
      | (with_reducible exact only_refl _ _))

theorem startImages_only {ps : List Part} {s0 : State} (found : BootFind) (s : State)
    (h : Only ps s0 s) (hp : [.frame, .mbx, .host, .zone, .media, .flash, .inst, .prot, .ecc, .fw, .power, .therm, .mgmt, .pins, .recd, .emit, .free] ⊆ ps) : Only ps s0 (startImages found s) :=
  Only.via hp h (by
    unfold startImages
    repeat' first
      | (with_reducible assumption)
      | (with_reducible refine tryImages_only _ _ _ _ ?_ (by decide))
      | (intro)
      | (with_reducible exact only_refl _ _))

theorem readyTimeout_only {ps : List Part} {s0 : State} (found : BootFind) (s : State)
    (h : Only ps s0 s) (hp : [.frame, .mbx, .host, .zone, .media, .flash, .inst, .prot, .ecc, .fw, .power, .therm, .mgmt, .pins, .recd, .emit, .free] ⊆ ps) : Only ps s0 (readyTimeout found s) :=
  Only.via hp h (by
    unfold readyTimeout
    repeat' first
      | (with_reducible assumption)
      | (with_reducible refine tryImages_only _ _ _ _ ?_ (by decide))
      | (intro)
      | (extract_lets +onlyGivenNames s1; refine only_cut s1 ?_ ?_; unfold s1; clear s1; rotate_left; intro hs1; clear_value s1; rotate_right)
      | (extract_lets +onlyGivenNames v1)
      | (split)
      | (with_reducible exact only_refl _ _))

theorem permanentHold_only {ps : List Part} {s0 : State}  (s : State)
    (h : Only ps s0 s) (hp : [.power, .therm, .mgmt, .pins] ⊆ ps) : Only ps s0 (permanentHold s) :=
  Only.via hp h (by
    unfold permanentHold
    repeat' first
      | (with_reducible assumption)
      | (with_reducible refine updTherm_only _ _ ?_ (by decide))
      | (with_reducible refine updPower_only _ _ ?_ (by decide))
      | (with_reducible refine driveGpio_only _ ?_ (by decide))
      | (with_reducible refine setPwrEn_only _ _ ?_ (by decide))
      | (intro)
      | (extract_lets +onlyGivenNames s1; refine only_cut s1 ?_ ?_; unfold s1; clear s1; rotate_left; intro hs1; clear_value s1; rotate_right)
      | (extract_lets +onlyGivenNames v1)
      | (with_reducible exact only_refl _ _)
      | (exact hs1.trans ⟨fun p hn => by cases p <;> first | rfl | exact absurd hn (by decide)⟩)
      | (exact ⟨fun p hn => by cases p <;> first | rfl | exact absurd hn (by decide)⟩)
      | (refine only_mgmt _ ?_ (by decide))
      | (refine only_pins _ ?_ (by decide)))

theorem startDevice_only {ps : List Part} {s0 : State} (found : BootFind) (s : State)
    (h : Only ps s0 s) (hp : [.frame, .mbx, .host, .zone, .media, .flash, .inst, .prot, .ecc, .fw, .power, .therm, .mgmt, .pins, .recd, .emit, .free] ⊆ ps) : Only ps s0 (startDevice found s) :=
  Only.via hp h (by
    unfold startDevice
    repeat' first
      | (with_reducible assumption)
      | (with_reducible refine enterCellar_only _ _ ?_ (by decide))
      | (with_reducible refine startImages_only _ _ ?_ (by decide))
      | (intro)
      | (extract_lets +onlyGivenNames s1; refine only_cut s1 ?_ ?_; unfold s1; clear s1; rotate_left; intro hs1; clear_value s1; rotate_right)
      | (extract_lets +onlyGivenNames v1)
      | (split)
      | (with_reducible exact only_refl _ _)
      | (refine only_pins _ ?_ (by decide)))

theorem newBoot_only {ps : List Part} {s0 : State} (found : BootFind) (s : State)
    (h : Only ps s0 s) (hp : [.frame, .mbx, .host, .zone, .media, .flash, .inst, .prot, .ecc, .fw, .power, .therm, .mgmt, .pins, .recd] ⊆ ps) : Only ps s0 (newBoot found s) :=
  Only.via hp h (by
    unfold newBoot
    repeat' first
      | (with_reducible assumption)
      | (with_reducible refine takeTrip_only _ ?_ (by decide))
      | (with_reducible refine endRecord_only _ ?_ (by decide))
      | (with_reducible refine endMinutes_only _ ?_ (by decide))
      | (with_reducible refine updMedia_only _ _ ?_ (by decide))
      | (with_reducible refine rebaseTables_only _ _ _ ?_ (by decide))
      | (with_reducible refine readCalib_only _ _ ?_ (by decide))
      | (with_reducible refine readRecord_only _ _ ?_ (by decide))
      | (with_reducible refine wipeVolatile_only _ _ ?_ (by decide))
      | (with_reducible refine recEvents_only _ _ _ ?_ (by decide))
      | (with_reducible refine openRecord_only _ _ ?_ (by decide))
      | (intro)
      | (extract_lets +onlyGivenNames s1; refine only_cut s1 ?_ ?_; unfold s1; clear s1; rotate_left; intro hs1; clear_value s1; rotate_right)
      | (extract_lets +onlyGivenNames v1)
      | (split)
      | (with_reducible exact only_refl _ _))

theorem coldStart_only {ps : List Part} {s0 : State} (found : BootFind) (s : State)
    (h : Only ps s0 s) (hp : [.frame, .mbx, .host, .zone, .media, .flash, .inst, .prot, .ecc, .fw, .power, .therm, .mgmt, .pins, .recd, .emit, .free] ⊆ ps) : Only ps s0 (coldStart found s) :=
  Only.via hp h (by
    unfold coldStart
    repeat' first
      | (with_reducible assumption)
      | (with_reducible refine permanentHold_only _ ?_ (by decide))
      | (with_reducible refine newBoot_only _ _ ?_ (by decide))
      | (with_reducible refine startFlush_only _ _ ?_ (by decide))
      | (with_reducible refine startDevice_only _ _ ?_ (by decide))
      | (intro)
      | (extract_lets +onlyGivenNames s1; refine only_cut s1 ?_ ?_; unfold s1; clear s1; rotate_left; intro hs1; clear_value s1; rotate_right)
      | (extract_lets +onlyGivenNames v1)
      | (split)
      | (with_reducible exact only_refl _ _))

theorem cellarFlush_only {ps : List Part} {s0 : State}  (s : State)
    (h : Only ps s0 s) (hp : [.frame, .host, .zone, .media, .flash, .inst, .recd, .emit] ⊆ ps) : Only ps s0 (cellarFlush s) :=
  Only.via hp h (by
    unfold cellarFlush
    repeat' first
      | (with_reducible assumption)
      | (with_reducible refine writeBuffer_only _ ?_ (by decide))
      | (with_reducible refine commitRing_only _ _ ?_ (by decide))
      | (with_reducible refine refugeWrite_only _ _ ?_ (by decide))
      | (intro)
      | (with_reducible exact only_refl _ _))

theorem cellarEnter_only {ps : List Part} {s0 : State}  (s : State)
    (h : Only ps s0 s) (hp : [.frame, .mbx, .host, .zone, .media, .flash, .inst, .prot, .ecc, .fw, .power, .mgmt, .recd, .emit] ⊆ ps) : Only ps s0 (cellarEnter s) :=
  Only.via hp h (by
    unfold cellarEnter
    repeat' first
      | (with_reducible assumption)
      | (with_reducible refine askRefused_only _ _ _ ?_ (by decide))
      | (with_reducible refine discardProposals_only _ ?_ (by decide))
      | (with_reducible refine dropWork_only _ ?_ (by decide))
      | (with_reducible refine cellarFlush_only _ ?_ (by decide))
      | (with_reducible refine updProt_only _ _ ?_ (by decide))
      | (with_reducible refine updFw_only _ _ ?_ (by decide))
      | (with_reducible refine askOk_only _ _ _ ?_ (by decide))
      | (with_reducible refine enterCellar_only _ _ ?_ (by decide))
      | (intro)
      | (extract_lets +onlyGivenNames s1; refine only_cut s1 ?_ ?_; unfold s1; clear s1; rotate_left; intro hs1; clear_value s1; rotate_right)
      | (extract_lets +onlyGivenNames v1)
      | (split)
      | (with_reducible exact only_refl _ _))

theorem leaveCellar_only {ps : List Part} {s0 : State} (found : BootFind) (s : State)
    (h : Only ps s0 s) (hp : [.frame, .mbx, .host, .zone, .media, .flash, .inst, .prot, .ecc, .fw, .power, .therm, .mgmt, .pins, .recd, .emit, .free] ⊆ ps) : Only ps s0 (leaveCellar found s) :=
  Only.via hp h (by
    unfold leaveCellar
    repeat' first
      | (with_reducible assumption)
      | (with_reducible refine updProt_only _ _ ?_ (by decide))
      | (with_reducible refine updFw_only _ _ ?_ (by decide))
      | (with_reducible refine cellarMailboxReset_only _ ?_ (by decide))
      | (with_reducible refine startImages_only _ _ ?_ (by decide))
      | (with_reducible refine updPower_only _ _ ?_ (by decide))
      | (intro)
      | (extract_lets +onlyGivenNames s1; refine only_cut s1 ?_ ?_; unfold s1; clear s1; rotate_left; intro hs1; clear_value s1; rotate_right)
      | (extract_lets +onlyGivenNames v1)
      | (split)
      | (with_reducible exact only_refl _ _))

theorem cellarExit_only {ps : List Part} {s0 : State} (found : BootFind) (s : State)
    (h : Only ps s0 s) (hp : [.frame, .mbx, .host, .zone, .media, .flash, .inst, .prot, .ecc, .fw, .power, .therm, .mgmt, .pins, .recd, .emit, .free] ⊆ ps) : Only ps s0 (cellarExit found s) :=
  Only.via hp h (by
    unfold cellarExit
    repeat' first
      | (with_reducible assumption)
      | (with_reducible refine drawNat_only ?_ (by decide))
      | (with_reducible refine drawNat_only2 ?_ (by decide) (by assumption))
      | (with_reducible refine askRefused_only _ _ _ ?_ (by decide))
      | (with_reducible refine leaveCellar_only _ _ ?_ (by decide))
      | (with_reducible refine askOk_only _ _ _ ?_ (by decide))
      | (intro)
      | (extract_lets +onlyGivenNames s1; refine only_cut s1 ?_ ?_; unfold s1; clear s1; rotate_left; intro hs1; clear_value s1; rotate_right)
      | (extract_lets +onlyGivenNames v1)
      | (split)
      | (with_reducible exact only_refl _ _))

theorem cellarAutoExit_only {ps : List Part} {s0 : State} (found : BootFind) (s : State)
    (h : Only ps s0 s) (hp : [.frame, .mbx, .host, .zone, .media, .flash, .inst, .prot, .ecc, .fw, .power, .therm, .mgmt, .pins, .recd, .emit, .free] ⊆ ps) : Only ps s0 (cellarAutoExit found s) :=
  Only.via hp h (by
    unfold cellarAutoExit
    repeat' first
      | (with_reducible assumption)
      | (with_reducible refine leaveCellar_only _ _ ?_ (by decide))
      | (intro)
      | (split)
      | (with_reducible exact only_refl _ _))

end Sys2Proof.Machine
end

