-- ==== Sys2Proof/Laws/Only/Boundary.lean ====
section
/-! SUPPORT. Which groups of state each operation of Machine/Boundary.lean can change. -/

set_option linter.tactic.unusedName false

namespace Sys2Proof.Machine

theorem timeouts_only {ps : List Part} {s0 : State}  (s : State)
    (h : Only ps s0 s) (hp : [.frame, .mbx, .host, .zone, .media, .flash, .inst, .prot, .fw, .power, .therm, .mgmt, .pins, .recd, .emit, .free] ⊆ ps) : Only ps s0 (timeouts s) :=
  Only.via hp h (by
    unfold timeouts
    repeat' first
      | (with_reducible assumption)
      | (with_reducible refine lifetimeExpiry_only _ _ ?_ (by decide))
      | (with_reducible refine holdExpiry_only _ ?_ (by decide))
      | (with_reducible refine rowTimeouts_only _ ?_ (by decide))
      | (with_reducible refine syncTimeout_only _ ?_ (by decide))
      | (with_reducible refine lockQualify_only _ ?_ (by decide))
      | (with_reducible refine holdover_only _ ?_ (by decide))
      | (with_reducible refine expireClaim_only _ ?_ (by decide))
      | (with_reducible refine expireProposal_only _ _ ?_ (by decide))
      | (with_reducible refine stuckSensors_only _ ?_ (by decide))
      | (with_reducible refine trackerWindowEnd_only _ ?_ (by decide))
      | (with_reducible refine statusTimeout_only _ _ ?_ (by decide))
      | (with_reducible refine aggregationExpiry_only _ _ _ ?_ (by decide))
      | (with_reducible refine entryAbort_only _ ?_ (by decide))
      | (with_reducible refine idleExpiry_only _ ?_ (by decide))
      | (with_reducible refine only_when _ _ ?_ ?_)
      | (with_reducible refine only_forEach _ _ _ ?_ ?_)
      | (intro)
      | (extract_lets +onlyGivenNames s1; refine only_cut s1 ?_ ?_; unfold s1; clear s1; rotate_left; intro hs1; clear_value s1; rotate_right)
      | (extract_lets +onlyGivenNames v1)
      | (with_reducible exact only_refl _ _))

theorem passedWork_only {ps : List Part} {s0 : State}  (s : State)
    (h : Only ps s0 s) (hp : [.frame, .mbx, .host, .zone, .media, .flash, .inst, .prot, .fw, .power, .therm, .mgmt, .pins, .recd, .emit, .free] ⊆ ps) : Only ps s0 (passedWork s) :=
  Only.via hp h (by
    unfold passedWork
    repeat' first
      | (with_reducible assumption)
      | (with_reducible refine updPower_only _ _ ?_ (by decide))
      | (with_reducible refine timeouts_only _ ?_ (by decide))
      | (with_reducible refine passPeriods_only _ _ ?_ (by decide))
      | (with_reducible refine passMinutes_only _ _ _ _ ?_ (by decide))
      | (intro)
      | (extract_lets +onlyGivenNames s1; refine only_cut s1 ?_ ?_; unfold s1; clear s1; rotate_left; intro hs1; clear_value s1; rotate_right)
      | (extract_lets +onlyGivenNames v1)
      | (split)
      | (with_reducible exact only_refl _ _))

theorem scrubFrame_only {ps : List Part} {s0 : State}  (s : State)
    (h : Only ps s0 s) (hp : [.ecc] ⊆ ps) : Only ps s0 (scrubFrame s) :=
  Only.via hp h (by
    unfold scrubFrame
    repeat' first
      | (with_reducible assumption)
      | (intro)
      | (with_reducible exact only_refl _ _)
      | (refine only_ecc _ ?_ (by decide)))

theorem countFrame_only {ps : List Part} {s0 : State}  (s : State)
    (h : Only ps s0 s) (hp : [.media, .power, .therm, .recd] ⊆ ps) : Only ps s0 (countFrame s) :=
  Only.via hp h (by
    unfold countFrame
    repeat' first
      | (with_reducible assumption)
      | (with_reducible refine updPower_only _ _ ?_ (by decide))
      | (with_reducible refine updRec_only _ _ ?_ (by decide))
      | (with_reducible refine updTherm_only _ _ ?_ (by decide))
      | (with_reducible refine updMedia_only _ _ ?_ (by decide))
      | (with_reducible refine only_when _ _ ?_ ?_)
      | (intro)
      | (extract_lets +onlyGivenNames s1; refine only_cut s1 ?_ ?_; unfold s1; clear s1; rotate_left; intro hs1; clear_value s1; rotate_right)
      | (extract_lets +onlyGivenNames k1; have _ck := fun x => (k1 x : State → State); clear _ck)
      | (extract_lets +onlyGivenNames k1; have _ck := fun x => (k1 x : State); clear _ck)
      | (extract_lets +onlyGivenNames v1)
      | (split)
      | (with_reducible exact only_refl _ _)
      | (dsimp only [k1]))

theorem pauseItems_only {ps : List Part} {s0 : State}  (s : State)
    (h : Only ps s0 s) (hp : [.host] ⊆ ps) : Only ps s0 (pauseItems s) :=
  Only.via hp h (by
    unfold pauseItems
    repeat' first
      | (with_reducible assumption)
      | (with_reducible refine updItems_only _ _ ?_ (by decide))
      | (intro)
      | (extract_lets +onlyGivenNames s1; refine only_cut s1 ?_ ?_; unfold s1; clear s1; rotate_left; intro hs1; clear_value s1; rotate_right)
      | (extract_lets +onlyGivenNames v1)
      | (split)
      | (with_reducible exact only_refl _ _))

theorem refillKind_only {ps : List Part} {s0 : State} (fn : Nat) (k : Kind) (s : State)
    (h : Only ps s0 s) (hp : [.inst] ⊆ ps) : Only ps s0 (refillKind fn k s) :=
  Only.via hp h (by
    unfold refillKind
    repeat' first
      | (with_reducible assumption)
      | (with_reducible refine setBuckets_only _ _ _ ?_ (by decide))
      | (with_reducible refine updHolder_only _ _ _ ?_ (by decide))
      | (with_reducible refine spill_only _ _ _ ?_ (by decide))
      | (intro)
      | (extract_lets +onlyGivenNames s1; refine only_cut s1 ?_ ?_; unfold s1; clear s1; rotate_left; intro hs1; clear_value s1; rotate_right)
      | (extract_lets +onlyGivenNames v1)
      | (with_reducible exact only_refl _ _))

theorem noteRefill_only {ps : List Part} {s0 : State} (fn : Nat) (s : State)
    (h : Only ps s0 s) (hp : [.inst] ⊆ ps) : Only ps s0 (noteRefill fn s) :=
  Only.via hp h (by
    unfold noteRefill
    repeat' first
      | (with_reducible assumption)
      | (with_reducible refine updHolder_only _ _ _ ?_ (by decide))
      | (intro)
      | (extract_lets +onlyGivenNames s1; refine only_cut s1 ?_ ?_; unfold s1; clear s1; rotate_left; intro hs1; clear_value s1; rotate_right)
      | (extract_lets +onlyGivenNames v1)
      | (split)
      | (with_reducible exact only_refl _ _))

theorem poolSurplus_only {ps : List Part} {s0 : State} (k : Kind) (s : State)
    (h : Only ps s0 s) (hp : [.inst] ⊆ ps) : Only ps s0 (poolSurplus k s) :=
  Only.via hp h (by
    unfold poolSurplus
    repeat' first
      | (with_reducible assumption)
      | (with_reducible refine updInst_only _ _ ?_ (by decide))
      | (intro)
      | (extract_lets +onlyGivenNames s1; refine only_cut s1 ?_ ?_; unfold s1; clear s1; rotate_left; intro hs1; clear_value s1; rotate_right)
      | (extract_lets +onlyGivenNames v1)
      | (with_reducible exact only_refl _ _))

theorem refill_only {ps : List Part} {s0 : State}  (s : State)
    (h : Only ps s0 s) (hp : [.flash, .inst] ⊆ ps) : Only ps s0 (refill s) :=
  Only.via hp h (by
    unfold refill
    repeat' first
      | (with_reducible assumption)
      | (with_reducible refine noteRefill_only _ _ ?_ (by decide))
      | (with_reducible refine refillKind_only _ _ _ ?_ (by decide))
      | (with_reducible refine poolSurplus_only _ _ ?_ (by decide))
      | (with_reducible refine updFlash_only _ _ ?_ (by decide))
      | (with_reducible refine only_forEach _ _ _ ?_ ?_)
      | (intro)
      | (extract_lets +onlyGivenNames s1; refine only_cut s1 ?_ ?_; unfold s1; clear s1; rotate_left; intro hs1; clear_value s1; rotate_right)
      | (extract_lets +onlyGivenNames v1)
      | (with_reducible exact only_refl _ _))

theorem releaseRefuge_only {ps : List Part} {s0 : State}  (s : State)
    (h : Only ps s0 s) (hp : [.media] ⊆ ps) : Only ps s0 (releaseRefuge s) :=
  Only.via hp h (by
    unfold releaseRefuge
    repeat' first
      | (with_reducible assumption)
      | (with_reducible refine pendErase_only _ _ ?_ (by decide))
      | (with_reducible refine only_forEach _ _ _ ?_ ?_)
      | (intro)
      | (extract_lets +onlyGivenNames s1; refine only_cut s1 ?_ ?_; unfold s1; clear s1; rotate_left; intro hs1; clear_value s1; rotate_right)
      | (extract_lets +onlyGivenNames k1; have _ck := fun x => (k1 x : State → State); clear _ck)
      | (extract_lets +onlyGivenNames k1; have _ck := fun x => (k1 x : State); clear _ck)
      | (extract_lets +onlyGivenNames v1)
      | (with_reducible exact only_refl _ _)
      | (dsimp only [k1]))

theorem applyDue_only {ps : List Part} {s0 : State}  (s : State)
    (h : Only ps s0 s) (hp : [.frame, .mbx, .host, .zone, .media, .flash, .inst, .prot, .fw, .power, .therm, .pins, .recd, .emit] ⊆ ps) : Only ps s0 (applyDue s) :=
  Only.via hp h (by
    unfold applyDue
    repeat' first
      | (with_reducible assumption)
      | (with_reducible refine applySteps_only _ ?_ (by decide))
      | (with_reducible refine applyShares_only _ ?_ (by decide))
      | (with_reducible refine applyProtection_only _ ?_ (by decide))
      | (with_reducible refine startActivation_only _ ?_ (by decide))
      | (with_reducible refine finishHold_only _ ?_ (by decide))
      | (with_reducible refine applyMarks_only _ ?_ (by decide))
      | (with_reducible refine applyCfg_only _ ?_ (by decide))
      | (with_reducible refine applyPsDue_only _ ?_ (by decide))
      | (with_reducible refine applyLb_only _ ?_ (by decide))
      | (with_reducible refine applyPolicy_only _ ?_ (by decide))
      | (with_reducible refine resumeAfterExpiry_only _ ?_ (by decide))
      | (with_reducible refine resumeFetch_only _ ?_ (by decide))
      | (with_reducible refine goLives_only _ ?_ (by decide))
      | (intro)
      | (extract_lets +onlyGivenNames s1; refine only_cut s1 ?_ ?_; unfold s1; clear s1; rotate_left; intro hs1; clear_value s1; rotate_right)
      | (extract_lets +onlyGivenNames v1)
      | (with_reducible exact only_refl _ _))

theorem beginWork_only {ps : List Part} {s0 : State}  (s : State)
    (h : Only ps s0 s) (hp : [.host, .zone, .media, .flash, .inst, .prot, .power, .therm] ⊆ ps) : Only ps s0 (beginWork s) :=
  Only.via hp h (by
    unfold beginWork
    repeat' first
      | (with_reducible assumption)
      | (with_reducible refine noteReady_only _ ?_ (by decide))
      | (with_reducible refine startSanitize_only _ ?_ (by decide))
      | (with_reducible refine startWipes_only _ ?_ (by decide))
      | (with_reducible refine startDestroys_only _ ?_ (by decide))
      | (with_reducible refine deviceFinish_only _ _ ?_ (by decide))
      | (with_reducible refine settle_only _ _ ?_ (by decide))
      | (with_reducible refine dropGone_only _ ?_ (by decide))
      | (with_reducible refine idleTick_only _ ?_ (by decide))
      | (with_reducible refine rebalance_only _ ?_ (by decide))
      | (with_reducible refine releaseRefuge_only _ ?_ (by decide))
      | (with_reducible refine leaveLastShelf_only _ ?_ (by decide))
      | (with_reducible refine only_forEach _ _ _ ?_ ?_)
      | (intro)
      | (extract_lets +onlyGivenNames s1; refine only_cut s1 ?_ ?_; unfold s1; clear s1; rotate_left; intro hs1; clear_value s1; rotate_right)
      | (extract_lets +onlyGivenNames v1)
      | (with_reducible exact only_refl _ _))

theorem resetLanes_only {ps : List Part} {s0 : State}  (s : State)
    (h : Only ps s0 s) (hp : [.frame, .host, .zone, .media, .flash, .inst, .therm, .pins, .recd, .emit, .free] ⊆ ps) : Only ps s0 (resetLanes s) :=
  Only.via hp h (by
    unfold resetLanes
    repeat' first
      | (with_reducible assumption)
      | (with_reducible refine laneReset_only _ _ ?_ (by decide))
      | (with_reducible refine only_forEach _ _ _ ?_ ?_)
      | (intro)
      | (with_reducible exact only_refl _ _))

theorem openFrame_only {ps : List Part} {s0 : State}  (s : State)
    (h : Only ps s0 s) (hp : [.frame, .host, .zone, .media, .flash, .inst, .therm, .pins, .recd, .emit, .free] ⊆ ps) : Only ps s0 (openFrame s) :=
  Only.via hp h (by
    unfold openFrame
    repeat' first
      | (with_reducible assumption)
      | (with_reducible refine updFrame_only _ _ ?_ (by decide))
      | (with_reducible refine publish_only _ ?_ (by decide))
      | (with_reducible refine resetLanes_only _ ?_ (by decide))
      | (with_reducible refine rebuildLanes_only _ ?_ (by decide))
      | (intro)
      | (with_reducible exact only_refl _ _))

theorem endFrame_only {ps : List Part} {s0 : State}  (s : State)
    (h : Only ps s0 s) (hp : [.frame, .zone, .inst] ⊆ ps) : Only ps s0 (endFrame s) :=
  Only.via hp h (by
    unfold endFrame
    repeat' first
      | (with_reducible assumption)
      | (with_reducible refine updFrame_only _ _ ?_ (by decide))
      | (with_reducible refine updZone_only _ _ ?_ (by decide))
      | (with_reducible refine updInst_only _ _ ?_ (by decide))
      | (intro)
      | (extract_lets +onlyGivenNames s1; refine only_cut s1 ?_ ?_; unfold s1; clear s1; rotate_left; intro hs1; clear_value s1; rotate_right)
      | (extract_lets +onlyGivenNames v1)
      | (with_reducible exact only_refl _ _))

theorem countBoundary_only {ps : List Part} {s0 : State} (phase : Int) (s : State)
    (h : Only ps s0 s) (hp : [.frame, .mbx, .host, .zone, .media, .flash, .inst, .prot, .fw, .power, .therm, .mgmt, .pins, .recd, .emit, .free] ⊆ ps) : Only ps s0 (countBoundary phase s) :=
  Only.via hp h (by
    unfold countBoundary
    repeat' first
      | (with_reducible assumption)
      | (with_reducible refine countFrame_only _ ?_ (by decide))
      | (with_reducible refine pauseItems_only _ ?_ (by decide))
      | (with_reducible refine trackPhase_only _ _ ?_ (by decide))
      | (with_reducible refine passedWork_only _ ?_ (by decide))
      | (with_reducible refine busClose_only _ ?_ (by decide))
      | (with_reducible refine increment_only _ ?_ (by decide))
      | (with_reducible refine shelfStep_only _ ?_ (by decide))
      | (with_reducible refine noteMeters_only _ ?_ (by decide))
      | (with_reducible refine periodEnd_only _ _ _ ?_ (by decide))
      | (with_reducible refine minuteEnd_only _ _ ?_ (by decide))
      | (with_reducible refine meterSample_only _ ?_ (by decide))
      | (intro)
      | (extract_lets +onlyGivenNames s1; refine only_cut s1 ?_ ?_; unfold s1; clear s1; rotate_left; intro hs1; clear_value s1; rotate_right)
      | (extract_lets +onlyGivenNames v1)
      | (with_reducible exact only_refl _ _))

theorem boundary_only {ps : List Part} {s0 : State} (phase : Int) (s : State)
    (h : Only ps s0 s) (hp : [.frame, .mbx, .host, .zone, .media, .flash, .inst, .prot, .ecc, .fw, .power, .therm, .mgmt, .pins, .recd, .emit, .free] ⊆ ps) : Only ps s0 (boundary phase s) :=
  Only.via hp h (by
    unfold boundary
    repeat' first
      | (with_reducible assumption)
      | (with_reducible refine timeouts_only _ ?_ (by decide))
      | (with_reducible refine applyDue_only _ ?_ (by decide))
      | (with_reducible refine endFrame_only _ ?_ (by decide))
      | (with_reducible refine countBoundary_only _ _ ?_ (by decide))
      | (with_reducible refine openFrame_only _ ?_ (by decide))
      | (with_reducible refine refill_only _ ?_ (by decide))
      | (with_reducible refine beginWork_only _ ?_ (by decide))
      | (with_reducible refine scrubFrame_only _ ?_ (by decide))
      | (intro)
      | (extract_lets +onlyGivenNames s1; refine only_cut s1 ?_ ?_; unfold s1; clear s1; rotate_left; intro hs1; clear_value s1; rotate_right)
      | (extract_lets +onlyGivenNames v1)
      | (split)
      | (with_reducible exact only_refl _ _))

theorem aonFrame_only {ps : List Part} {s0 : State}  (s : State)
    (h : Only ps s0 s) (hp : [.power] ⊆ ps) : Only ps s0 (aonFrame s) :=
  Only.via hp h (by
    unfold aonFrame
    repeat' first
      | (with_reducible assumption)
      | (with_reducible refine updPower_only _ _ ?_ (by decide))
      | (intro)
      | (with_reducible exact only_refl _ _))

theorem framePulse_only {ps : List Part} {s0 : State} (phase : Int) (s : State)
    (h : Only ps s0 s) (hp : [.frame, .mbx, .host, .zone, .media, .flash, .inst, .prot, .ecc, .fw, .power, .therm, .mgmt, .pins, .recd, .emit, .free] ⊆ ps) : Only ps s0 (framePulse phase s) :=
  Only.via hp h (by
    unfold framePulse
    repeat' first
      | (with_reducible assumption)
      | (with_reducible refine aonFrame_only _ ?_ (by decide))
      | (with_reducible refine increment_only _ ?_ (by decide))
      | (with_reducible refine endFrame_only _ ?_ (by decide))
      | (with_reducible refine countBoundary_only _ _ ?_ (by decide))
      | (with_reducible refine boundary_only _ _ ?_ (by decide))
      | (intro)
      | (split)
      | (with_reducible exact only_refl _ _))

theorem measurePower_only {ps : List Part} {s0 : State}  (s : State)
    (h : Only ps s0 s) (hp : [.therm, .free] ⊆ ps) : Only ps s0 (measurePower s) :=
  Only.via hp h (by
    unfold measurePower
    repeat' first
      | (with_reducible assumption)
      | (with_reducible refine drawNat_only ?_ (by decide))
      | (with_reducible refine drawNat_only2 ?_ (by decide) (by assumption))
      | (with_reducible refine updTherm_only _ _ ?_ (by decide))
      | (intro)
      | (extract_lets +onlyGivenNames s1; refine only_cut s1 ?_ ?_; unfold s1; clear s1; rotate_left; intro hs1; clear_value s1; rotate_right)
      | (extract_lets +onlyGivenNames v1)
      | (split)
      | (with_reducible exact only_refl _ _))

theorem noticeUpdate_only {ps : List Part} {s0 : State} (n : Nat) (s : State)
    (h : Only ps s0 s) (hp : [.mbx, .therm, .free] ⊆ ps) : Only ps s0 (noticeUpdate n s) :=
  Only.via hp h (by
    unfold noticeUpdate
    repeat' first
      | (with_reducible assumption)
      | (with_reducible refine measurePower_only _ ?_ (by decide))
      | (with_reducible refine boardWrite_only _ _ _ ?_ (by decide))
      | (with_reducible refine only_when _ _ ?_ ?_)
      | (intro)
      | (extract_lets +onlyGivenNames s1; refine only_cut s1 ?_ ?_; unfold s1; clear s1; rotate_left; intro hs1; clear_value s1; rotate_right)
      | (extract_lets +onlyGivenNames v1)
      | (split)
      | (with_reducible exact only_refl _ _))

end Sys2Proof.Machine
end

