-- ==== Sys2Proof/Laws/State.lean ====
section
/-! SUPPORT. One lemma per field of the state per update, so that no proof unfolds a record update. -/

namespace Sys2Proof.Machine

@[simp] theorem updFrame_frame (f : FrameSt → FrameSt) (s : State) : (updFrame f s).frame = f s.frame := rfl
@[simp] theorem updFrame_mbx (f : FrameSt → FrameSt) (s : State) : (updFrame f s).mbx = s.mbx := rfl
@[simp] theorem updFrame_host (f : FrameSt → FrameSt) (s : State) : (updFrame f s).host = s.host := rfl
@[simp] theorem updFrame_zone (f : FrameSt → FrameSt) (s : State) : (updFrame f s).zone = s.zone := rfl
@[simp] theorem updFrame_media (f : FrameSt → FrameSt) (s : State) : (updFrame f s).media = s.media := rfl
@[simp] theorem updFrame_flash (f : FrameSt → FrameSt) (s : State) : (updFrame f s).flash = s.flash := rfl
@[simp] theorem updFrame_inst (f : FrameSt → FrameSt) (s : State) : (updFrame f s).inst = s.inst := rfl
@[simp] theorem updFrame_prot (f : FrameSt → FrameSt) (s : State) : (updFrame f s).prot = s.prot := rfl
@[simp] theorem updFrame_ecc (f : FrameSt → FrameSt) (s : State) : (updFrame f s).ecc = s.ecc := rfl
@[simp] theorem updFrame_fw (f : FrameSt → FrameSt) (s : State) : (updFrame f s).fw = s.fw := rfl
@[simp] theorem updFrame_power (f : FrameSt → FrameSt) (s : State) : (updFrame f s).power = s.power := rfl
@[simp] theorem updFrame_therm (f : FrameSt → FrameSt) (s : State) : (updFrame f s).therm = s.therm := rfl
@[simp] theorem updFrame_mgmt (f : FrameSt → FrameSt) (s : State) : (updFrame f s).mgmt = s.mgmt := rfl
@[simp] theorem updFrame_pins (f : FrameSt → FrameSt) (s : State) : (updFrame f s).pins = s.pins := rfl
@[simp] theorem updFrame_recd (f : FrameSt → FrameSt) (s : State) : (updFrame f s).recd = s.recd := rfl
@[simp] theorem updFrame_emit (f : FrameSt → FrameSt) (s : State) : (updFrame f s).emit = s.emit := rfl
@[simp] theorem updFrame_free (f : FrameSt → FrameSt) (s : State) : (updFrame f s).free = s.free := rfl
@[simp] theorem updFrame_pending (f : FrameSt → FrameSt) (s : State) : (updFrame f s).pending = s.pending := rfl

@[simp] theorem updMbx_frame (f : MbxSt → MbxSt) (s : State) : (updMbx f s).frame = s.frame := rfl
@[simp] theorem updMbx_mbx (f : MbxSt → MbxSt) (s : State) : (updMbx f s).mbx = f s.mbx := rfl
@[simp] theorem updMbx_host (f : MbxSt → MbxSt) (s : State) : (updMbx f s).host = s.host := rfl
@[simp] theorem updMbx_zone (f : MbxSt → MbxSt) (s : State) : (updMbx f s).zone = s.zone := rfl
@[simp] theorem updMbx_media (f : MbxSt → MbxSt) (s : State) : (updMbx f s).media = s.media := rfl
@[simp] theorem updMbx_flash (f : MbxSt → MbxSt) (s : State) : (updMbx f s).flash = s.flash := rfl
@[simp] theorem updMbx_inst (f : MbxSt → MbxSt) (s : State) : (updMbx f s).inst = s.inst := rfl
@[simp] theorem updMbx_prot (f : MbxSt → MbxSt) (s : State) : (updMbx f s).prot = s.prot := rfl
@[simp] theorem updMbx_ecc (f : MbxSt → MbxSt) (s : State) : (updMbx f s).ecc = s.ecc := rfl
@[simp] theorem updMbx_fw (f : MbxSt → MbxSt) (s : State) : (updMbx f s).fw = s.fw := rfl
@[simp] theorem updMbx_power (f : MbxSt → MbxSt) (s : State) : (updMbx f s).power = s.power := rfl
@[simp] theorem updMbx_therm (f : MbxSt → MbxSt) (s : State) : (updMbx f s).therm = s.therm := rfl
@[simp] theorem updMbx_mgmt (f : MbxSt → MbxSt) (s : State) : (updMbx f s).mgmt = s.mgmt := rfl
@[simp] theorem updMbx_pins (f : MbxSt → MbxSt) (s : State) : (updMbx f s).pins = s.pins := rfl
@[simp] theorem updMbx_recd (f : MbxSt → MbxSt) (s : State) : (updMbx f s).recd = s.recd := rfl
@[simp] theorem updMbx_emit (f : MbxSt → MbxSt) (s : State) : (updMbx f s).emit = s.emit := rfl
@[simp] theorem updMbx_free (f : MbxSt → MbxSt) (s : State) : (updMbx f s).free = s.free := rfl
@[simp] theorem updMbx_pending (f : MbxSt → MbxSt) (s : State) : (updMbx f s).pending = s.pending := rfl

@[simp] theorem updHost_frame (f : HostSt → HostSt) (s : State) : (updHost f s).frame = s.frame := rfl
@[simp] theorem updHost_mbx (f : HostSt → HostSt) (s : State) : (updHost f s).mbx = s.mbx := rfl
@[simp] theorem updHost_host (f : HostSt → HostSt) (s : State) : (updHost f s).host = f s.host := rfl
@[simp] theorem updHost_zone (f : HostSt → HostSt) (s : State) : (updHost f s).zone = s.zone := rfl
@[simp] theorem updHost_media (f : HostSt → HostSt) (s : State) : (updHost f s).media = s.media := rfl
@[simp] theorem updHost_flash (f : HostSt → HostSt) (s : State) : (updHost f s).flash = s.flash := rfl
@[simp] theorem updHost_inst (f : HostSt → HostSt) (s : State) : (updHost f s).inst = s.inst := rfl
@[simp] theorem updHost_prot (f : HostSt → HostSt) (s : State) : (updHost f s).prot = s.prot := rfl
@[simp] theorem updHost_ecc (f : HostSt → HostSt) (s : State) : (updHost f s).ecc = s.ecc := rfl
@[simp] theorem updHost_fw (f : HostSt → HostSt) (s : State) : (updHost f s).fw = s.fw := rfl
@[simp] theorem updHost_power (f : HostSt → HostSt) (s : State) : (updHost f s).power = s.power := rfl
@[simp] theorem updHost_therm (f : HostSt → HostSt) (s : State) : (updHost f s).therm = s.therm := rfl
@[simp] theorem updHost_mgmt (f : HostSt → HostSt) (s : State) : (updHost f s).mgmt = s.mgmt := rfl
@[simp] theorem updHost_pins (f : HostSt → HostSt) (s : State) : (updHost f s).pins = s.pins := rfl
@[simp] theorem updHost_recd (f : HostSt → HostSt) (s : State) : (updHost f s).recd = s.recd := rfl
@[simp] theorem updHost_emit (f : HostSt → HostSt) (s : State) : (updHost f s).emit = s.emit := rfl
@[simp] theorem updHost_free (f : HostSt → HostSt) (s : State) : (updHost f s).free = s.free := rfl
@[simp] theorem updHost_pending (f : HostSt → HostSt) (s : State) : (updHost f s).pending = s.pending := rfl

@[simp] theorem updZone_frame (f : ZoneSt → ZoneSt) (s : State) : (updZone f s).frame = s.frame := rfl
@[simp] theorem updZone_mbx (f : ZoneSt → ZoneSt) (s : State) : (updZone f s).mbx = s.mbx := rfl
@[simp] theorem updZone_host (f : ZoneSt → ZoneSt) (s : State) : (updZone f s).host = s.host := rfl
@[simp] theorem updZone_zone (f : ZoneSt → ZoneSt) (s : State) : (updZone f s).zone = f s.zone := rfl
@[simp] theorem updZone_media (f : ZoneSt → ZoneSt) (s : State) : (updZone f s).media = s.media := rfl
@[simp] theorem updZone_flash (f : ZoneSt → ZoneSt) (s : State) : (updZone f s).flash = s.flash := rfl
@[simp] theorem updZone_inst (f : ZoneSt → ZoneSt) (s : State) : (updZone f s).inst = s.inst := rfl
@[simp] theorem updZone_prot (f : ZoneSt → ZoneSt) (s : State) : (updZone f s).prot = s.prot := rfl
@[simp] theorem updZone_ecc (f : ZoneSt → ZoneSt) (s : State) : (updZone f s).ecc = s.ecc := rfl
@[simp] theorem updZone_fw (f : ZoneSt → ZoneSt) (s : State) : (updZone f s).fw = s.fw := rfl
@[simp] theorem updZone_power (f : ZoneSt → ZoneSt) (s : State) : (updZone f s).power = s.power := rfl
@[simp] theorem updZone_therm (f : ZoneSt → ZoneSt) (s : State) : (updZone f s).therm = s.therm := rfl
@[simp] theorem updZone_mgmt (f : ZoneSt → ZoneSt) (s : State) : (updZone f s).mgmt = s.mgmt := rfl
@[simp] theorem updZone_pins (f : ZoneSt → ZoneSt) (s : State) : (updZone f s).pins = s.pins := rfl
@[simp] theorem updZone_recd (f : ZoneSt → ZoneSt) (s : State) : (updZone f s).recd = s.recd := rfl
@[simp] theorem updZone_emit (f : ZoneSt → ZoneSt) (s : State) : (updZone f s).emit = s.emit := rfl
@[simp] theorem updZone_free (f : ZoneSt → ZoneSt) (s : State) : (updZone f s).free = s.free := rfl
@[simp] theorem updZone_pending (f : ZoneSt → ZoneSt) (s : State) : (updZone f s).pending = s.pending := rfl

@[simp] theorem updMedia_frame (f : MediaSt → MediaSt) (s : State) : (updMedia f s).frame = s.frame := rfl
@[simp] theorem updMedia_mbx (f : MediaSt → MediaSt) (s : State) : (updMedia f s).mbx = s.mbx := rfl
@[simp] theorem updMedia_host (f : MediaSt → MediaSt) (s : State) : (updMedia f s).host = s.host := rfl
@[simp] theorem updMedia_zone (f : MediaSt → MediaSt) (s : State) : (updMedia f s).zone = s.zone := rfl
@[simp] theorem updMedia_media (f : MediaSt → MediaSt) (s : State) : (updMedia f s).media = f s.media := rfl
@[simp] theorem updMedia_flash (f : MediaSt → MediaSt) (s : State) : (updMedia f s).flash = s.flash := rfl
@[simp] theorem updMedia_inst (f : MediaSt → MediaSt) (s : State) : (updMedia f s).inst = s.inst := rfl
@[simp] theorem updMedia_prot (f : MediaSt → MediaSt) (s : State) : (updMedia f s).prot = s.prot := rfl
@[simp] theorem updMedia_ecc (f : MediaSt → MediaSt) (s : State) : (updMedia f s).ecc = s.ecc := rfl
@[simp] theorem updMedia_fw (f : MediaSt → MediaSt) (s : State) : (updMedia f s).fw = s.fw := rfl
@[simp] theorem updMedia_power (f : MediaSt → MediaSt) (s : State) : (updMedia f s).power = s.power := rfl
@[simp] theorem updMedia_therm (f : MediaSt → MediaSt) (s : State) : (updMedia f s).therm = s.therm := rfl
@[simp] theorem updMedia_mgmt (f : MediaSt → MediaSt) (s : State) : (updMedia f s).mgmt = s.mgmt := rfl
@[simp] theorem updMedia_pins (f : MediaSt → MediaSt) (s : State) : (updMedia f s).pins = s.pins := rfl
@[simp] theorem updMedia_recd (f : MediaSt → MediaSt) (s : State) : (updMedia f s).recd = s.recd := rfl
@[simp] theorem updMedia_emit (f : MediaSt → MediaSt) (s : State) : (updMedia f s).emit = s.emit := rfl
@[simp] theorem updMedia_free (f : MediaSt → MediaSt) (s : State) : (updMedia f s).free = s.free := rfl
@[simp] theorem updMedia_pending (f : MediaSt → MediaSt) (s : State) : (updMedia f s).pending = s.pending := rfl

@[simp] theorem updFlash_frame (f : FlashSt → FlashSt) (s : State) : (updFlash f s).frame = s.frame := rfl
@[simp] theorem updFlash_mbx (f : FlashSt → FlashSt) (s : State) : (updFlash f s).mbx = s.mbx := rfl
@[simp] theorem updFlash_host (f : FlashSt → FlashSt) (s : State) : (updFlash f s).host = s.host := rfl
@[simp] theorem updFlash_zone (f : FlashSt → FlashSt) (s : State) : (updFlash f s).zone = s.zone := rfl
@[simp] theorem updFlash_media (f : FlashSt → FlashSt) (s : State) : (updFlash f s).media = s.media := rfl
@[simp] theorem updFlash_flash (f : FlashSt → FlashSt) (s : State) : (updFlash f s).flash = f s.flash := rfl
@[simp] theorem updFlash_inst (f : FlashSt → FlashSt) (s : State) : (updFlash f s).inst = s.inst := rfl
@[simp] theorem updFlash_prot (f : FlashSt → FlashSt) (s : State) : (updFlash f s).prot = s.prot := rfl
@[simp] theorem updFlash_ecc (f : FlashSt → FlashSt) (s : State) : (updFlash f s).ecc = s.ecc := rfl
@[simp] theorem updFlash_fw (f : FlashSt → FlashSt) (s : State) : (updFlash f s).fw = s.fw := rfl
@[simp] theorem updFlash_power (f : FlashSt → FlashSt) (s : State) : (updFlash f s).power = s.power := rfl
@[simp] theorem updFlash_therm (f : FlashSt → FlashSt) (s : State) : (updFlash f s).therm = s.therm := rfl
@[simp] theorem updFlash_mgmt (f : FlashSt → FlashSt) (s : State) : (updFlash f s).mgmt = s.mgmt := rfl
@[simp] theorem updFlash_pins (f : FlashSt → FlashSt) (s : State) : (updFlash f s).pins = s.pins := rfl
@[simp] theorem updFlash_recd (f : FlashSt → FlashSt) (s : State) : (updFlash f s).recd = s.recd := rfl
@[simp] theorem updFlash_emit (f : FlashSt → FlashSt) (s : State) : (updFlash f s).emit = s.emit := rfl
@[simp] theorem updFlash_free (f : FlashSt → FlashSt) (s : State) : (updFlash f s).free = s.free := rfl
@[simp] theorem updFlash_pending (f : FlashSt → FlashSt) (s : State) : (updFlash f s).pending = s.pending := rfl

@[simp] theorem updInst_frame (f : InstSt → InstSt) (s : State) : (updInst f s).frame = s.frame := rfl
@[simp] theorem updInst_mbx (f : InstSt → InstSt) (s : State) : (updInst f s).mbx = s.mbx := rfl
@[simp] theorem updInst_host (f : InstSt → InstSt) (s : State) : (updInst f s).host = s.host := rfl
@[simp] theorem updInst_zone (f : InstSt → InstSt) (s : State) : (updInst f s).zone = s.zone := rfl
@[simp] theorem updInst_media (f : InstSt → InstSt) (s : State) : (updInst f s).media = s.media := rfl
@[simp] theorem updInst_flash (f : InstSt → InstSt) (s : State) : (updInst f s).flash = s.flash := rfl
@[simp] theorem updInst_inst (f : InstSt → InstSt) (s : State) : (updInst f s).inst = f s.inst := rfl
@[simp] theorem updInst_prot (f : InstSt → InstSt) (s : State) : (updInst f s).prot = s.prot := rfl
@[simp] theorem updInst_ecc (f : InstSt → InstSt) (s : State) : (updInst f s).ecc = s.ecc := rfl
@[simp] theorem updInst_fw (f : InstSt → InstSt) (s : State) : (updInst f s).fw = s.fw := rfl
@[simp] theorem updInst_power (f : InstSt → InstSt) (s : State) : (updInst f s).power = s.power := rfl
@[simp] theorem updInst_therm (f : InstSt → InstSt) (s : State) : (updInst f s).therm = s.therm := rfl
@[simp] theorem updInst_mgmt (f : InstSt → InstSt) (s : State) : (updInst f s).mgmt = s.mgmt := rfl
@[simp] theorem updInst_pins (f : InstSt → InstSt) (s : State) : (updInst f s).pins = s.pins := rfl
@[simp] theorem updInst_recd (f : InstSt → InstSt) (s : State) : (updInst f s).recd = s.recd := rfl
@[simp] theorem updInst_emit (f : InstSt → InstSt) (s : State) : (updInst f s).emit = s.emit := rfl
@[simp] theorem updInst_free (f : InstSt → InstSt) (s : State) : (updInst f s).free = s.free := rfl
@[simp] theorem updInst_pending (f : InstSt → InstSt) (s : State) : (updInst f s).pending = s.pending := rfl

@[simp] theorem updProt_frame (f : ProtSt → ProtSt) (s : State) : (updProt f s).frame = s.frame := rfl
@[simp] theorem updProt_mbx (f : ProtSt → ProtSt) (s : State) : (updProt f s).mbx = s.mbx := rfl
@[simp] theorem updProt_host (f : ProtSt → ProtSt) (s : State) : (updProt f s).host = s.host := rfl
@[simp] theorem updProt_zone (f : ProtSt → ProtSt) (s : State) : (updProt f s).zone = s.zone := rfl
@[simp] theorem updProt_media (f : ProtSt → ProtSt) (s : State) : (updProt f s).media = s.media := rfl
@[simp] theorem updProt_flash (f : ProtSt → ProtSt) (s : State) : (updProt f s).flash = s.flash := rfl
@[simp] theorem updProt_inst (f : ProtSt → ProtSt) (s : State) : (updProt f s).inst = s.inst := rfl
@[simp] theorem updProt_prot (f : ProtSt → ProtSt) (s : State) : (updProt f s).prot = f s.prot := rfl
@[simp] theorem updProt_ecc (f : ProtSt → ProtSt) (s : State) : (updProt f s).ecc = s.ecc := rfl
@[simp] theorem updProt_fw (f : ProtSt → ProtSt) (s : State) : (updProt f s).fw = s.fw := rfl
@[simp] theorem updProt_power (f : ProtSt → ProtSt) (s : State) : (updProt f s).power = s.power := rfl
@[simp] theorem updProt_therm (f : ProtSt → ProtSt) (s : State) : (updProt f s).therm = s.therm := rfl
@[simp] theorem updProt_mgmt (f : ProtSt → ProtSt) (s : State) : (updProt f s).mgmt = s.mgmt := rfl
@[simp] theorem updProt_pins (f : ProtSt → ProtSt) (s : State) : (updProt f s).pins = s.pins := rfl
@[simp] theorem updProt_recd (f : ProtSt → ProtSt) (s : State) : (updProt f s).recd = s.recd := rfl
@[simp] theorem updProt_emit (f : ProtSt → ProtSt) (s : State) : (updProt f s).emit = s.emit := rfl
@[simp] theorem updProt_free (f : ProtSt → ProtSt) (s : State) : (updProt f s).free = s.free := rfl
@[simp] theorem updProt_pending (f : ProtSt → ProtSt) (s : State) : (updProt f s).pending = s.pending := rfl

@[simp] theorem updFw_frame (f : FwSt → FwSt) (s : State) : (updFw f s).frame = s.frame := rfl
@[simp] theorem updFw_mbx (f : FwSt → FwSt) (s : State) : (updFw f s).mbx = s.mbx := rfl
@[simp] theorem updFw_host (f : FwSt → FwSt) (s : State) : (updFw f s).host = s.host := rfl
@[simp] theorem updFw_zone (f : FwSt → FwSt) (s : State) : (updFw f s).zone = s.zone := rfl
@[simp] theorem updFw_media (f : FwSt → FwSt) (s : State) : (updFw f s).media = s.media := rfl
@[simp] theorem updFw_flash (f : FwSt → FwSt) (s : State) : (updFw f s).flash = s.flash := rfl
@[simp] theorem updFw_inst (f : FwSt → FwSt) (s : State) : (updFw f s).inst = s.inst := rfl
@[simp] theorem updFw_prot (f : FwSt → FwSt) (s : State) : (updFw f s).prot = s.prot := rfl
@[simp] theorem updFw_ecc (f : FwSt → FwSt) (s : State) : (updFw f s).ecc = s.ecc := rfl
@[simp] theorem updFw_fw (f : FwSt → FwSt) (s : State) : (updFw f s).fw = f s.fw := rfl
@[simp] theorem updFw_power (f : FwSt → FwSt) (s : State) : (updFw f s).power = s.power := rfl
@[simp] theorem updFw_therm (f : FwSt → FwSt) (s : State) : (updFw f s).therm = s.therm := rfl
@[simp] theorem updFw_mgmt (f : FwSt → FwSt) (s : State) : (updFw f s).mgmt = s.mgmt := rfl
@[simp] theorem updFw_pins (f : FwSt → FwSt) (s : State) : (updFw f s).pins = s.pins := rfl
@[simp] theorem updFw_recd (f : FwSt → FwSt) (s : State) : (updFw f s).recd = s.recd := rfl
@[simp] theorem updFw_emit (f : FwSt → FwSt) (s : State) : (updFw f s).emit = s.emit := rfl
@[simp] theorem updFw_free (f : FwSt → FwSt) (s : State) : (updFw f s).free = s.free := rfl
@[simp] theorem updFw_pending (f : FwSt → FwSt) (s : State) : (updFw f s).pending = s.pending := rfl

@[simp] theorem updPower_frame (f : PowerSt → PowerSt) (s : State) : (updPower f s).frame = s.frame := rfl
@[simp] theorem updPower_mbx (f : PowerSt → PowerSt) (s : State) : (updPower f s).mbx = s.mbx := rfl
@[simp] theorem updPower_host (f : PowerSt → PowerSt) (s : State) : (updPower f s).host = s.host := rfl
@[simp] theorem updPower_zone (f : PowerSt → PowerSt) (s : State) : (updPower f s).zone = s.zone := rfl
@[simp] theorem updPower_media (f : PowerSt → PowerSt) (s : State) : (updPower f s).media = s.media := rfl
@[simp] theorem updPower_flash (f : PowerSt → PowerSt) (s : State) : (updPower f s).flash = s.flash := rfl
@[simp] theorem updPower_inst (f : PowerSt → PowerSt) (s : State) : (updPower f s).inst = s.inst := rfl
@[simp] theorem updPower_prot (f : PowerSt → PowerSt) (s : State) : (updPower f s).prot = s.prot := rfl
@[simp] theorem updPower_ecc (f : PowerSt → PowerSt) (s : State) : (updPower f s).ecc = s.ecc := rfl
@[simp] theorem updPower_fw (f : PowerSt → PowerSt) (s : State) : (updPower f s).fw = s.fw := rfl
@[simp] theorem updPower_power (f : PowerSt → PowerSt) (s : State) : (updPower f s).power = f s.power := rfl
@[simp] theorem updPower_therm (f : PowerSt → PowerSt) (s : State) : (updPower f s).therm = s.therm := rfl
@[simp] theorem updPower_mgmt (f : PowerSt → PowerSt) (s : State) : (updPower f s).mgmt = s.mgmt := rfl
@[simp] theorem updPower_pins (f : PowerSt → PowerSt) (s : State) : (updPower f s).pins = s.pins := rfl
@[simp] theorem updPower_recd (f : PowerSt → PowerSt) (s : State) : (updPower f s).recd = s.recd := rfl
@[simp] theorem updPower_emit (f : PowerSt → PowerSt) (s : State) : (updPower f s).emit = s.emit := rfl
@[simp] theorem updPower_free (f : PowerSt → PowerSt) (s : State) : (updPower f s).free = s.free := rfl
@[simp] theorem updPower_pending (f : PowerSt → PowerSt) (s : State) : (updPower f s).pending = s.pending := rfl

@[simp] theorem updTherm_frame (f : ThermSt → ThermSt) (s : State) : (updTherm f s).frame = s.frame := rfl
@[simp] theorem updTherm_mbx (f : ThermSt → ThermSt) (s : State) : (updTherm f s).mbx = s.mbx := rfl
@[simp] theorem updTherm_host (f : ThermSt → ThermSt) (s : State) : (updTherm f s).host = s.host := rfl
@[simp] theorem updTherm_zone (f : ThermSt → ThermSt) (s : State) : (updTherm f s).zone = s.zone := rfl
@[simp] theorem updTherm_media (f : ThermSt → ThermSt) (s : State) : (updTherm f s).media = s.media := rfl
@[simp] theorem updTherm_flash (f : ThermSt → ThermSt) (s : State) : (updTherm f s).flash = s.flash := rfl
@[simp] theorem updTherm_inst (f : ThermSt → ThermSt) (s : State) : (updTherm f s).inst = s.inst := rfl
@[simp] theorem updTherm_prot (f : ThermSt → ThermSt) (s : State) : (updTherm f s).prot = s.prot := rfl
@[simp] theorem updTherm_ecc (f : ThermSt → ThermSt) (s : State) : (updTherm f s).ecc = s.ecc := rfl
@[simp] theorem updTherm_fw (f : ThermSt → ThermSt) (s : State) : (updTherm f s).fw = s.fw := rfl
@[simp] theorem updTherm_power (f : ThermSt → ThermSt) (s : State) : (updTherm f s).power = s.power := rfl
@[simp] theorem updTherm_therm (f : ThermSt → ThermSt) (s : State) : (updTherm f s).therm = f s.therm := rfl
@[simp] theorem updTherm_mgmt (f : ThermSt → ThermSt) (s : State) : (updTherm f s).mgmt = s.mgmt := rfl
@[simp] theorem updTherm_pins (f : ThermSt → ThermSt) (s : State) : (updTherm f s).pins = s.pins := rfl
@[simp] theorem updTherm_recd (f : ThermSt → ThermSt) (s : State) : (updTherm f s).recd = s.recd := rfl
@[simp] theorem updTherm_emit (f : ThermSt → ThermSt) (s : State) : (updTherm f s).emit = s.emit := rfl
@[simp] theorem updTherm_free (f : ThermSt → ThermSt) (s : State) : (updTherm f s).free = s.free := rfl
@[simp] theorem updTherm_pending (f : ThermSt → ThermSt) (s : State) : (updTherm f s).pending = s.pending := rfl

@[simp] theorem updMgmt_frame (f : MgmtSt → MgmtSt) (s : State) : (updMgmt f s).frame = s.frame := rfl
@[simp] theorem updMgmt_mbx (f : MgmtSt → MgmtSt) (s : State) : (updMgmt f s).mbx = s.mbx := rfl
@[simp] theorem updMgmt_host (f : MgmtSt → MgmtSt) (s : State) : (updMgmt f s).host = s.host := rfl
@[simp] theorem updMgmt_zone (f : MgmtSt → MgmtSt) (s : State) : (updMgmt f s).zone = s.zone := rfl
@[simp] theorem updMgmt_media (f : MgmtSt → MgmtSt) (s : State) : (updMgmt f s).media = s.media := rfl
@[simp] theorem updMgmt_flash (f : MgmtSt → MgmtSt) (s : State) : (updMgmt f s).flash = s.flash := rfl
@[simp] theorem updMgmt_inst (f : MgmtSt → MgmtSt) (s : State) : (updMgmt f s).inst = s.inst := rfl
@[simp] theorem updMgmt_prot (f : MgmtSt → MgmtSt) (s : State) : (updMgmt f s).prot = s.prot := rfl
@[simp] theorem updMgmt_ecc (f : MgmtSt → MgmtSt) (s : State) : (updMgmt f s).ecc = s.ecc := rfl
@[simp] theorem updMgmt_fw (f : MgmtSt → MgmtSt) (s : State) : (updMgmt f s).fw = s.fw := rfl
@[simp] theorem updMgmt_power (f : MgmtSt → MgmtSt) (s : State) : (updMgmt f s).power = s.power := rfl
@[simp] theorem updMgmt_therm (f : MgmtSt → MgmtSt) (s : State) : (updMgmt f s).therm = s.therm := rfl
@[simp] theorem updMgmt_mgmt (f : MgmtSt → MgmtSt) (s : State) : (updMgmt f s).mgmt = f s.mgmt := rfl
@[simp] theorem updMgmt_pins (f : MgmtSt → MgmtSt) (s : State) : (updMgmt f s).pins = s.pins := rfl
@[simp] theorem updMgmt_recd (f : MgmtSt → MgmtSt) (s : State) : (updMgmt f s).recd = s.recd := rfl
@[simp] theorem updMgmt_emit (f : MgmtSt → MgmtSt) (s : State) : (updMgmt f s).emit = s.emit := rfl
@[simp] theorem updMgmt_free (f : MgmtSt → MgmtSt) (s : State) : (updMgmt f s).free = s.free := rfl
@[simp] theorem updMgmt_pending (f : MgmtSt → MgmtSt) (s : State) : (updMgmt f s).pending = s.pending := rfl

@[simp] theorem updRecd_frame (f : RecSt → RecSt) (s : State) : (updRecd f s).frame = s.frame := rfl
@[simp] theorem updRecd_mbx (f : RecSt → RecSt) (s : State) : (updRecd f s).mbx = s.mbx := rfl
@[simp] theorem updRecd_host (f : RecSt → RecSt) (s : State) : (updRecd f s).host = s.host := rfl
@[simp] theorem updRecd_zone (f : RecSt → RecSt) (s : State) : (updRecd f s).zone = s.zone := rfl
@[simp] theorem updRecd_media (f : RecSt → RecSt) (s : State) : (updRecd f s).media = s.media := rfl
@[simp] theorem updRecd_flash (f : RecSt → RecSt) (s : State) : (updRecd f s).flash = s.flash := rfl
@[simp] theorem updRecd_inst (f : RecSt → RecSt) (s : State) : (updRecd f s).inst = s.inst := rfl
@[simp] theorem updRecd_prot (f : RecSt → RecSt) (s : State) : (updRecd f s).prot = s.prot := rfl
@[simp] theorem updRecd_ecc (f : RecSt → RecSt) (s : State) : (updRecd f s).ecc = s.ecc := rfl
@[simp] theorem updRecd_fw (f : RecSt → RecSt) (s : State) : (updRecd f s).fw = s.fw := rfl
@[simp] theorem updRecd_power (f : RecSt → RecSt) (s : State) : (updRecd f s).power = s.power := rfl
@[simp] theorem updRecd_therm (f : RecSt → RecSt) (s : State) : (updRecd f s).therm = s.therm := rfl
@[simp] theorem updRecd_mgmt (f : RecSt → RecSt) (s : State) : (updRecd f s).mgmt = s.mgmt := rfl
@[simp] theorem updRecd_pins (f : RecSt → RecSt) (s : State) : (updRecd f s).pins = s.pins := rfl
@[simp] theorem updRecd_recd (f : RecSt → RecSt) (s : State) : (updRecd f s).recd = f s.recd := rfl
@[simp] theorem updRecd_emit (f : RecSt → RecSt) (s : State) : (updRecd f s).emit = s.emit := rfl
@[simp] theorem updRecd_free (f : RecSt → RecSt) (s : State) : (updRecd f s).free = s.free := rfl
@[simp] theorem updRecd_pending (f : RecSt → RecSt) (s : State) : (updRecd f s).pending = s.pending := rfl

@[simp] theorem send_frame (e : Emission) (s : State) : (send e s).frame = s.frame := rfl
@[simp] theorem send_mbx (e : Emission) (s : State) : (send e s).mbx = s.mbx := rfl
@[simp] theorem send_host (e : Emission) (s : State) : (send e s).host = s.host := rfl
@[simp] theorem send_zone (e : Emission) (s : State) : (send e s).zone = s.zone := rfl
@[simp] theorem send_media (e : Emission) (s : State) : (send e s).media = s.media := rfl
@[simp] theorem send_flash (e : Emission) (s : State) : (send e s).flash = s.flash := rfl
@[simp] theorem send_inst (e : Emission) (s : State) : (send e s).inst = s.inst := rfl
@[simp] theorem send_prot (e : Emission) (s : State) : (send e s).prot = s.prot := rfl
@[simp] theorem send_ecc (e : Emission) (s : State) : (send e s).ecc = s.ecc := rfl
@[simp] theorem send_fw (e : Emission) (s : State) : (send e s).fw = s.fw := rfl
@[simp] theorem send_power (e : Emission) (s : State) : (send e s).power = s.power := rfl
@[simp] theorem send_therm (e : Emission) (s : State) : (send e s).therm = s.therm := rfl
@[simp] theorem send_mgmt (e : Emission) (s : State) : (send e s).mgmt = s.mgmt := rfl
@[simp] theorem send_pins (e : Emission) (s : State) : (send e s).pins = s.pins := rfl
@[simp] theorem send_recd (e : Emission) (s : State) : (send e s).recd = s.recd := rfl
@[simp] theorem send_emit (e : Emission) (s : State) : (send e s).emit = s.emit ++ [e] := rfl
@[simp] theorem send_free (e : Emission) (s : State) : (send e s).free = s.free := rfl
@[simp] theorem send_pending (e : Emission) (s : State) : (send e s).pending = s.pending := rfl

@[simp] theorem sends_frame (es : List Emission) (s : State) : (sends es s).frame = s.frame := rfl
@[simp] theorem sends_mbx (es : List Emission) (s : State) : (sends es s).mbx = s.mbx := rfl
@[simp] theorem sends_host (es : List Emission) (s : State) : (sends es s).host = s.host := rfl
@[simp] theorem sends_zone (es : List Emission) (s : State) : (sends es s).zone = s.zone := rfl
@[simp] theorem sends_media (es : List Emission) (s : State) : (sends es s).media = s.media := rfl
@[simp] theorem sends_flash (es : List Emission) (s : State) : (sends es s).flash = s.flash := rfl
@[simp] theorem sends_inst (es : List Emission) (s : State) : (sends es s).inst = s.inst := rfl
@[simp] theorem sends_prot (es : List Emission) (s : State) : (sends es s).prot = s.prot := rfl
@[simp] theorem sends_ecc (es : List Emission) (s : State) : (sends es s).ecc = s.ecc := rfl
@[simp] theorem sends_fw (es : List Emission) (s : State) : (sends es s).fw = s.fw := rfl
@[simp] theorem sends_power (es : List Emission) (s : State) : (sends es s).power = s.power := rfl
@[simp] theorem sends_therm (es : List Emission) (s : State) : (sends es s).therm = s.therm := rfl
@[simp] theorem sends_mgmt (es : List Emission) (s : State) : (sends es s).mgmt = s.mgmt := rfl
@[simp] theorem sends_pins (es : List Emission) (s : State) : (sends es s).pins = s.pins := rfl
@[simp] theorem sends_recd (es : List Emission) (s : State) : (sends es s).recd = s.recd := rfl
@[simp] theorem sends_emit (es : List Emission) (s : State) : (sends es s).emit = s.emit ++ es := rfl
@[simp] theorem sends_free (es : List Emission) (s : State) : (sends es s).free = s.free := rfl
@[simp] theorem sends_pending (es : List Emission) (s : State) : (sends es s).pending = s.pending := rfl

@[simp] theorem updRec_frame (f : Record → Record) (s : State) : (updRec f s).frame = s.frame := rfl
@[simp] theorem updRec_mbx (f : Record → Record) (s : State) : (updRec f s).mbx = s.mbx := rfl
@[simp] theorem updRec_host (f : Record → Record) (s : State) : (updRec f s).host = s.host := rfl
@[simp] theorem updRec_zone (f : Record → Record) (s : State) : (updRec f s).zone = s.zone := rfl
@[simp] theorem updRec_media (f : Record → Record) (s : State) : (updRec f s).media = s.media := rfl
@[simp] theorem updRec_flash (f : Record → Record) (s : State) : (updRec f s).flash = s.flash := rfl
@[simp] theorem updRec_inst (f : Record → Record) (s : State) : (updRec f s).inst = s.inst := rfl
@[simp] theorem updRec_prot (f : Record → Record) (s : State) : (updRec f s).prot = s.prot := rfl
@[simp] theorem updRec_ecc (f : Record → Record) (s : State) : (updRec f s).ecc = s.ecc := rfl
@[simp] theorem updRec_fw (f : Record → Record) (s : State) : (updRec f s).fw = s.fw := rfl
@[simp] theorem updRec_power (f : Record → Record) (s : State) : (updRec f s).power = s.power := rfl
@[simp] theorem updRec_therm (f : Record → Record) (s : State) : (updRec f s).therm = s.therm := rfl
@[simp] theorem updRec_mgmt (f : Record → Record) (s : State) : (updRec f s).mgmt = s.mgmt := rfl
@[simp] theorem updRec_pins (f : Record → Record) (s : State) : (updRec f s).pins = s.pins := rfl
@[simp] theorem updRec_emit (f : Record → Record) (s : State) : (updRec f s).emit = s.emit := rfl
@[simp] theorem updRec_free (f : Record → Record) (s : State) : (updRec f s).free = s.free := rfl
@[simp] theorem updRec_pending (f : Record → Record) (s : State) : (updRec f s).pending = s.pending := rfl
@[simp] theorem updRec_recd (f : Record → Record) (s : State) : (updRec f s).recd = { s.recd with cur := f s.recd.cur } := rfl

/-- What a command answers is its operation from the state with nothing sent out yet. -/
theorem act_does {c : Instr} {s : State} {f : State → State} {p : State → Prop} (h : exec c s = act f s)
    (hp : p (f { s with emit := [] })) : Does c s p := ⟨_, h, hp⟩

end Sys2Proof.Machine
end

