-- ==== Sys2Proof/Laws/Ticks.lean ====
section
/-! SUPPORT. Most operations change the frame state in one field only, the count of ties (R50). How that composes. -/

namespace Sys2Proof.Machine

/-- The frame state but for its count of ties. -/
structure SameFrame (s t : State) : Prop where
  frame : ∃ n, t.frame = { s.frame with ties := n }

/-- Every group but the frame state. -/
def noFrame : List Part :=
  [.mbx, .host, .zone, .media, .flash, .inst, .prot, .ecc, .fw, .power, .therm, .mgmt, .pins, .recd, .emit, .free, .pending]

theorem sameFrame_refl (s : State) : SameFrame s s := ⟨s.frame.ties, rfl⟩

theorem sameFrame_rfl {s t : State} (e : t.frame = s.frame) : SameFrame s t := ⟨s.frame.ties, e⟩

theorem SameFrame.trans {s t u : State} (h : SameFrame s t) (k : SameFrame t u) : SameFrame s u := by
  obtain ⟨n, e⟩ := h
  obtain ⟨m, f⟩ := k
  exact ⟨m, by rw [f, e]⟩

theorem sameFrame_mk {s t u : State} (e : u.frame = t.frame) (h : SameFrame s t) : SameFrame s u :=
  h.trans (sameFrame_rfl e)

/-- An operation that leaves the whole frame state alone. -/
theorem sameFrame_of {s t u : State} (k : Only noFrame t u) (h : SameFrame s t) : SameFrame s u :=
  sameFrame_mk (k.same .frame (by decide)) h

theorem sameFrame_mbx {s0 s : State} (v) (h : SameFrame s0 s) : SameFrame s0 { s with mbx := v } :=
  sameFrame_mk (t := s) rfl h

theorem sameFrame_host {s0 s : State} (v) (h : SameFrame s0 s) : SameFrame s0 { s with host := v } :=
  sameFrame_mk (t := s) rfl h

theorem sameFrame_zone {s0 s : State} (v) (h : SameFrame s0 s) : SameFrame s0 { s with zone := v } :=
  sameFrame_mk (t := s) rfl h

theorem sameFrame_media {s0 s : State} (v) (h : SameFrame s0 s) : SameFrame s0 { s with media := v } :=
  sameFrame_mk (t := s) rfl h

theorem sameFrame_flash {s0 s : State} (v) (h : SameFrame s0 s) : SameFrame s0 { s with flash := v } :=
  sameFrame_mk (t := s) rfl h

theorem sameFrame_inst {s0 s : State} (v) (h : SameFrame s0 s) : SameFrame s0 { s with inst := v } :=
  sameFrame_mk (t := s) rfl h

theorem sameFrame_prot {s0 s : State} (v) (h : SameFrame s0 s) : SameFrame s0 { s with prot := v } :=
  sameFrame_mk (t := s) rfl h

theorem sameFrame_ecc {s0 s : State} (v) (h : SameFrame s0 s) : SameFrame s0 { s with ecc := v } :=
  sameFrame_mk (t := s) rfl h

theorem sameFrame_fw {s0 s : State} (v) (h : SameFrame s0 s) : SameFrame s0 { s with fw := v } :=
  sameFrame_mk (t := s) rfl h

theorem sameFrame_power {s0 s : State} (v) (h : SameFrame s0 s) : SameFrame s0 { s with power := v } :=
  sameFrame_mk (t := s) rfl h

theorem sameFrame_therm {s0 s : State} (v) (h : SameFrame s0 s) : SameFrame s0 { s with therm := v } :=
  sameFrame_mk (t := s) rfl h

theorem sameFrame_mgmt {s0 s : State} (v) (h : SameFrame s0 s) : SameFrame s0 { s with mgmt := v } :=
  sameFrame_mk (t := s) rfl h

theorem sameFrame_pins {s0 s : State} (v) (h : SameFrame s0 s) : SameFrame s0 { s with pins := v } :=
  sameFrame_mk (t := s) rfl h

theorem sameFrame_recd {s0 s : State} (v) (h : SameFrame s0 s) : SameFrame s0 { s with recd := v } :=
  sameFrame_mk (t := s) rfl h

theorem sameFrame_emit {s0 s : State} (v) (h : SameFrame s0 s) : SameFrame s0 { s with emit := v } :=
  sameFrame_mk (t := s) rfl h

theorem sameFrame_free {s0 s : State} (v) (h : SameFrame s0 s) : SameFrame s0 { s with free := v } :=
  sameFrame_mk (t := s) rfl h

theorem sameFrame_pending {s0 s : State} (v) (h : SameFrame s0 s) : SameFrame s0 { s with pending := v } :=
  sameFrame_mk (t := s) rfl h

theorem sameFrame_cut {s0 t : State} (s : State) (h : SameFrame s0 s) (k : SameFrame s0 s → SameFrame s0 t) :
    SameFrame s0 t := k h

theorem sameFrame_id {s0 s : State} (h : SameFrame s0 s) : SameFrame s0 (id s) := h

theorem sameFrame_when {s0 s : State} (c : Bool) (f : State → State) (h : SameFrame s0 s)
    (hf : ∀ t, SameFrame s0 t → SameFrame s0 (f t)) : SameFrame s0 (when c f s) := by
  unfold when; split
  · exact hf s h
  · exact h

theorem sameFrame_foldl {α : Type} {s0 : State} (l : List α) (f : State → α → State) (s : State) (h : SameFrame s0 s)
    (hf : ∀ t a, SameFrame s0 t → SameFrame s0 (f t a)) : SameFrame s0 (l.foldl f s) := by
  induction l generalizing s with
  | nil => exact h
  | cons a l ih => exact ih (f s a) (hf s a h)

theorem sameFrame_forEach {α : Type} {s0 : State} (l : List α) (f : α → State → State) (s : State)
    (h : SameFrame s0 s) (hf : ∀ a t, SameFrame s0 t → SameFrame s0 (f a t)) : SameFrame s0 (forEach l f s) :=
  sameFrame_foldl l _ s h fun t a ht => hf a t ht

structure SameFrameOpt (s0 : State) (o : Option State) : Prop where
  same : ∀ t, o = some t → SameFrame s0 t

theorem sameFrameOpt_none (s0 : State) : SameFrameOpt s0 none := ⟨fun _ h => by simp at h⟩

theorem sameFrameOpt_some {s0 s : State} (h : SameFrame s0 s) : SameFrameOpt s0 (some s) :=
  ⟨fun _ e => by cases e; exact h⟩

theorem sameFrameOpt_of {s0 s : State} {o : Option State} (k : OnlyOpt noFrame s o) (h : SameFrame s0 s) :
    SameFrameOpt s0 o := ⟨fun t e => sameFrame_of (k.only t e) h⟩

theorem sameFrame_getD {s0 s : State} {o : Option State} (k : SameFrameOpt s0 o) (h : SameFrame s0 s) :
    SameFrame s0 (o.getD s) := by
  cases o with
  | none => exact h
  | some t => exact k.same t rfl

end Sys2Proof.Machine
end

