-- ==== Sys2Proof/Laws/Ticks/QueueOps.lean ====
section
/-! SUPPORT. Operations of Machine/QueueOps.lean that change the frame state in its count of ties alone. -/

set_option linter.tactic.unusedName false

namespace Sys2Proof.Machine

theorem countPosted_ticks {s0 : State} (it : Item) (s : State) (h : SameFrame s0 s) : SameFrame s0 (countPosted it s) := by
  unfold countPosted
  extract_lets t s1 s2 s3 s4
  have h4 : SameFrame s0 s4 := by
    refine sameFrame_of (updCtl_only (ps := noFrame) _ _ _ (only_refl _ _) (by decide)) ?_
    refine sameFrame_of (meter_only (ps := noFrame) _ _ _ (only_refl _ _) (by decide)) ?_
    refine sameFrame_when _ _ (sameFrame_when _ _ h ?_) ?_ <;> intro t ht <;>
      exact sameFrame_of (recHist_only (ps := noFrame) _ _ _ (only_refl _ _) (by decide)) ht
  refine sameFrame_when _ _ h4 ?_
  intro t ht
  exact ht.trans ⟨t.frame.ties + 1, rfl⟩

theorem postItem_ticks {s0 : State} (n : Nat) (s : State) (h : SameFrame s0 s) :
    SameFrame s0 (postItem n s) := by
  unfold postItem
  repeat' first
    | (with_reducible assumption)
    | (with_reducible refine sameFrame_of (u := dropItem _ _) (dropItem_only (ps := noFrame) _ _ (only_refl _ _) (by decide)) ?_)
    | (with_reducible refine sameFrame_of (u := stampSq _ _) (stampSq_only (ps := noFrame) _ _ (only_refl _ _) (by decide)) ?_)
    | (with_reducible refine sameFrame_of (u := updCtl _ _ _) (updCtl_only (ps := noFrame) _ _ _ (only_refl _ _) (by decide)) ?_)
    | (with_reducible refine countPosted_ticks _ _ ?_)
    | (with_reducible refine sameFrame_of (u := postCqe _ _ _ _) (postCqe_only (ps := noFrame) _ _ _ _ (only_refl _ _) (by decide)) ?_)
    | (with_reducible refine sameFrame_when _ _ ?_ ?_)
    | (intro)
    | (extract_lets +onlyGivenNames s1; refine sameFrame_cut s1 ?_ ?_; unfold s1; clear s1; rotate_left; intro hs1; clear_value s1; rotate_right)
    | (extract_lets +onlyGivenNames v1)
    | (split)

theorem finish_ticks {s0 : State} (n : Nat) (st : Status) (dw0 : Word) (dw1 : Word) (s : State) (h : SameFrame s0 s) :
    SameFrame s0 (finish n st dw0 dw1 s) := by
  unfold finish
  repeat' first
    | (with_reducible assumption)
    | (with_reducible refine postItem_ticks _ _ ?_)
    | (with_reducible refine sameFrame_of (u := latch _ _ _ _ _) (latch_only (ps := noFrame) _ _ _ _ _ (only_refl _ _) (by decide)) ?_)
    | (intro)

theorem finishOk_ticks {s0 : State} (n : Nat) (s : State) (h : SameFrame s0 s) :
    SameFrame s0 (finishOk n s) := by
  unfold finishOk
  repeat' first
    | (with_reducible assumption)
    | (with_reducible refine finish_ticks _ _ _ _ _ ?_)
    | (intro)

theorem finishBad_ticks {s0 : State} (n : Nat) (st : Status) (s : State) (h : SameFrame s0 s) :
    SameFrame s0 (finishBad n st s) := by
  unfold finishBad
  repeat' first
    | (with_reducible assumption)
    | (with_reducible refine finish_ticks _ _ _ _ _ ?_)
    | (intro)

theorem reportOne_ticks {s0 : State} (fn : Nat) (s : State) (h : SameFrame s0 s) :
    SameFrame s0 (reportOne fn s) := by
  unfold reportOne
  repeat' first
    | (with_reducible assumption)
    | (with_reducible refine sameFrame_of (u := updCtl _ _ _) (updCtl_only (ps := noFrame) _ _ _ (only_refl _ _) (by decide)) ?_)
    | (with_reducible refine finish_ticks _ _ _ _ _ ?_)
    | (intro)
    | (extract_lets +onlyGivenNames s1; refine sameFrame_cut s1 ?_ ?_; unfold s1; clear s1; rotate_left; intro hs1; clear_value s1; rotate_right)
    | (extract_lets +onlyGivenNames v1)
    | (split)

theorem reportEvents_ticks {s0 : State} (fn : Nat) (x1 : Nat) (s : State) (h : SameFrame s0 s) :
    SameFrame s0 (reportEvents fn x1 s) := by
  fun_induction reportEvents
  repeat' first
    | (with_reducible assumption)
    | (with_reducible refine reportOne_ticks _ _ ?_)
    | (apply_assumption)
    | (intro)

theorem notify_ticks {s0 : State} (fn : Nat) (en : Word → Bool) (x2 : Event) (s : State) (h : SameFrame s0 s) :
    SameFrame s0 (notify fn en x2 s) := by
  unfold notify
  repeat' first
    | (with_reducible assumption)
    | (with_reducible refine reportEvents_ticks _ _ _ ?_)
    | (with_reducible refine sameFrame_of (u := updCtl _ _ _) (updCtl_only (ps := noFrame) _ _ _ (only_refl _ _) (by decide)) ?_)
    | (intro)
    | (split)

theorem notifyDoorbell_ticks {s0 : State} (fn : Nat) (s : State) (h : SameFrame s0 s) :
    SameFrame s0 (notifyDoorbell fn s) := by
  unfold notifyDoorbell
  repeat' first
    | (with_reducible assumption)
    | (with_reducible refine notify_ticks _ _ _ _ ?_)
    | (with_reducible refine sameFrame_when _ _ ?_ ?_)
    | (intro)
    | (split)

theorem notifyNs_ticks {s0 : State} (fn : Nat) (nsid : Nat) (s : State) (h : SameFrame s0 s) :
    SameFrame s0 (notifyNs fn nsid s) := by
  unfold notifyNs
  repeat' first
    | (with_reducible assumption)
    | (with_reducible refine notify_ticks _ _ _ _ ?_)
    | (with_reducible refine sameFrame_of (u := updCtl _ _ _) (updCtl_only (ps := noFrame) _ _ _ (only_refl _ _) (by decide)) ?_)
    | (intro)
    | (split)

theorem notifyActivation_ticks {s0 : State} (fn : Nat) (s : State) (h : SameFrame s0 s) :
    SameFrame s0 (notifyActivation fn s) := by
  unfold notifyActivation
  repeat' first
    | (with_reducible assumption)
    | (with_reducible refine notify_ticks _ _ _ _ ?_)
    | (intro)

theorem notifyZone_ticks {s0 : State} (fn : Nat) (nsid : Nat) (zslba : Nat) (s : State) (h : SameFrame s0 s) :
    SameFrame s0 (notifyZone fn nsid zslba s) := by
  unfold notifyZone
  repeat' first
    | (with_reducible assumption)
    | (with_reducible refine notify_ticks _ _ _ _ ?_)
    | (with_reducible refine sameFrame_of (u := updCtl _ _ _) (updCtl_only (ps := noFrame) _ _ _ (only_refl _ _) (by decide)) ?_)
    | (intro)
    | (split)

theorem notifySmart_ticks {s0 : State} (fn : Nat) (b : Nat) (s : State) (h : SameFrame s0 s) :
    SameFrame s0 (notifySmart fn b s) := by
  unfold notifySmart
  repeat' first
    | (with_reducible assumption)
    | (with_reducible refine notify_ticks _ _ _ _ ?_)
    | (intro)

theorem setCritical_ticks {s0 : State} (b : Nat) (s : State) (h : SameFrame s0 s) :
    SameFrame s0 (setCritical b s) := by
  unfold setCritical
  repeat' first
    | (with_reducible assumption)
    | (with_reducible refine sameFrame_of (u := callWrite _) (callWrite_only (ps := noFrame) _ (only_refl _ _) (by decide)) ?_)
    | (with_reducible refine sameFrame_of (u := assertAlert _) (assertAlert_only (ps := noFrame) _ (only_refl _ _) (by decide)) ?_)
    | (with_reducible refine notifySmart_ticks _ _ _ ?_)
    | (with_reducible refine sameFrame_forEach _ _ _ ?_ ?_)
    | (intro)
    | (extract_lets +onlyGivenNames s1; refine sameFrame_cut s1 ?_ ?_; unfold s1; clear s1; rotate_left; intro hs1; clear_value s1; rotate_right)
    | (extract_lets +onlyGivenNames v1)
    | (split)
    | (refine sameFrame_therm _ ?_)

end Sys2Proof.Machine
end

