-- ==== Sys2Proof/Laws/Ticks/Journal.lean ====
section
/-! SUPPORT. Operations of Machine/Journal.lean that change the frame state in its count of ties alone. -/

set_option linter.tactic.unusedName false

namespace Sys2Proof.Machine

theorem journalReadOnly_ticks {s0 : State}  (s : State) (h : SameFrame s0 s) :
    SameFrame s0 (journalReadOnly s) := by
  unfold journalReadOnly
  repeat' first
    | (with_reducible assumption)
    | (with_reducible refine setCritical_ticks _ _ ?_)
    | (with_reducible refine sameFrame_of (u := updMedia _ _) (updMedia_only (ps := noFrame) _ _ (only_refl _ _) (by decide)) ?_)
    | (with_reducible refine sameFrame_of (u := updItems _ _) (updItems_only (ps := noFrame) _ _ (only_refl _ _) (by decide)) ?_)
    | (intro)
    | (extract_lets +onlyGivenNames s1; refine sameFrame_cut s1 ?_ ?_; unfold s1; clear s1; rotate_left; intro hs1; clear_value s1; rotate_right)
    | (extract_lets +onlyGivenNames v1)
    | (split)

theorem replaceLine_ticks {s0 : State} (line : Nat) (s : State) (h : SameFrame s0 s) :
    SameFrame s0 (replaceLine line s) := by
  unfold replaceLine
  repeat' first
    | (with_reducible assumption)
    | (with_reducible refine journalReadOnly_ticks _ ?_)
    | (with_reducible refine sameFrame_of (u := recEvent _ _) (recEvent_only (ps := noFrame) _ _ (only_refl _ _) (by decide)) ?_)
    | (with_reducible refine sameFrame_of (u := updMedia _ _) (updMedia_only (ps := noFrame) _ _ (only_refl _ _) (by decide)) ?_)
    | (with_reducible refine setCritical_ticks _ _ ?_)
    | (with_reducible refine sameFrame_when _ _ ?_ ?_)
    | (intro)
    | (extract_lets +onlyGivenNames s1; refine sameFrame_cut s1 ?_ ?_; unfold s1; clear s1; rotate_left; intro hs1; clear_value s1; rotate_right)
    | (extract_lets +onlyGivenNames v1)
    | (split)

end Sys2Proof.Machine
end

