-- ==== Sys2Proof/Laws/Ticks/IoOps.lean ====
section
/-! SUPPORT. Operations of Machine/IoOps.lean that change the frame state in its count of ties alone. -/

set_option linter.tactic.unusedName false

namespace Sys2Proof.Machine

theorem failItem_ticks {s0 : State} (seq : Nat) (st : Status) (s : State) (h : SameFrame s0 s) :
    SameFrame s0 (failItem seq st s) := by
  unfold failItem
  repeat' first
    | (with_reducible assumption)
    | (with_reducible refine sameFrame_of (u := zoneFail _ _ _ _) (zoneFail_only (ps := noFrame) _ _ _ _ (only_refl _ _) (by decide)) ?_)
    | (with_reducible refine sameFrame_of (u := stopWrite _ _ _) (stopWrite_only (ps := noFrame) _ _ _ (only_refl _ _) (by decide)) ?_)
    | (with_reducible refine sameFrame_of (u := dropReads _ _) (dropReads_only (ps := noFrame) _ _ (only_refl _ _) (by decide)) ?_)
    | (with_reducible refine postItem_ticks _ _ ?_)
    | (with_reducible refine finishBad_ticks _ _ _ ?_)
    | (intro)
    | (extract_lets +onlyGivenNames s1; refine sameFrame_cut s1 ?_ ?_; unfold s1; clear s1; rotate_left; intro hs1; clear_value s1; rotate_right)
    | (extract_lets +onlyGivenNames v1)
    | (split)

end Sys2Proof.Machine
end

