-- ==== Sys2Proof/Laws/Ticks/Space.lean ====
section
/-! SUPPORT. Operations of Machine/Space.lean that change the frame state in its count of ties alone. -/

set_option linter.tactic.unusedName false

namespace Sys2Proof.Machine

theorem enterLastShelf_ticks {s0 : State} (c : Nat) (s : State) (h : SameFrame s0 s) :
    SameFrame s0 (enterLastShelf c s) := by
  unfold enterLastShelf
  repeat' first
    | (with_reducible assumption)
    | (with_reducible refine setCritical_ticks _ _ ?_)
    | (with_reducible refine sameFrame_of (u := updMedia _ _) (updMedia_only (ps := noFrame) _ _ (only_refl _ _) (by decide)) ?_)
    | (intro)
    | (split)

end Sys2Proof.Machine
end

