-- ==== Sys2Proof/Laws/Ticks/Writes.lean ====
section
/-! SUPPORT. Operations of Machine/Writes.lean that change the frame state in its count of ties alone. -/

set_option linter.tactic.unusedName false

namespace Sys2Proof.Machine

theorem startZoned_ticks {s0 : State} (z x : Nat) (n : Ns) (it : Item) (s : State) (h : SameFrame s0 s) :
    SameFrame s0 (startZoned z x n it s) := by
  unfold startZoned
  split
  · exact h
  split
  · exact finishBad_ticks _ _ _ h
  split
  · exact finishBad_ticks _ _ _ h
  rename_i r _ _ _ _
  extract_lets s1
  have h1 : SameFrame s0 s1 := sameFrame_of (openForWrite_only (ps := noFrame) _ _ _ _ _ (only_refl _ _) (by decide)) h
  have hk : ∀ t, (if n.blocked = true then none else claimRows z n (rowsOf n r.ap it.sqe.nlb) s1) = some t →
      SameFrame s0 t := by
    intro t e
    split at e
    · cases e
    · exact sameFrame_of (claimRows_only2 (ps := noFrame) _ _ _ (only_refl _ _) (by decide) e) h1
  split
  · exact sameFrame_of (zoneFail_only (ps := noFrame) _ _ _ _ (only_refl _ _) (by decide)) (enterLastShelf_ticks _ _ h1)
  rename_i t e
  split
  · exact sameFrame_of (landZeros_only (ps := noFrame) _ _ _ _ _ _ (only_refl _ _) (by decide)) (hk t e)
  · exact hk t e

theorem tryZoned_ticks {s0 : State} (z : Nat) (x : Nat) (n : Ns) (it : Item) (s : State) (h : SameFrame s0 s) :
    SameFrame s0 (tryZoned z x n it s) := by
  unfold tryZoned
  repeat' first
    | (with_reducible assumption)
    | (with_reducible refine sameFrame_of (u := updItem _ _ _) (updItem_only (ps := noFrame) _ _ _ (only_refl _ _) (by decide)) ?_)
    | (with_reducible refine startZoned_ticks _ _ _ _ _ ?_)
    | (intro)
    | (extract_lets +onlyGivenNames s1; refine sameFrame_cut s1 ?_ ?_; unfold s1; clear s1; rotate_left; intro hs1; clear_value s1; rotate_right)
    | (extract_lets +onlyGivenNames k1; have _ck := fun x => (k1 x : State → State); clear _ck)
    | (extract_lets +onlyGivenNames k1; have _ck := fun x => (k1 x : State); clear _ck)
    | (extract_lets +onlyGivenNames v1)
    | (split)
    | (dsimp only [k1])

theorem deallocate_ticks {s0 : State} (x : Nat) (n : Ns) (ranges : List (Nat × Nat)) (it : Item) (s : State) (h : SameFrame s0 s) :
    SameFrame s0 (deallocate x n ranges it s) := by
  unfold deallocate
  repeat' first
    | (with_reducible assumption)
    | (with_reducible refine sameFrame_of (u := updItem _ _ _) (updItem_only (ps := noFrame) _ _ _ (only_refl _ _) (by decide)) ?_)
    | (with_reducible refine finishOk_ticks _ _ ?_)
    | (with_reducible refine sameFrame_of (u := beginDiscard _ _ _ _ _) (beginDiscard_only (ps := noFrame) _ _ _ _ _ (only_refl _ _) (by decide)) ?_)
    | (with_reducible refine sameFrame_of (u := submit _ _) (submit_only (ps := noFrame) _ _ (only_refl _ _) (by decide)) ?_)
    | (with_reducible refine sameFrame_when _ _ ?_ ?_)
    | (with_reducible refine sameFrame_forEach _ _ _ ?_ ?_)
    | (intro)
    | (extract_lets +onlyGivenNames s1; refine sameFrame_cut s1 ?_ ?_; unfold s1; clear s1; rotate_left; intro hs1; clear_value s1; rotate_right)
    | (extract_lets +onlyGivenNames v1)
    | (split)

theorem startConv_ticks {s0 : State} (x : Nat) (n : Ns) (it : Item) (s : State) (h : SameFrame s0 s) :
    SameFrame s0 (startConv x n it s) := by
  unfold startConv
  split
  · exact finishBad_ticks _ _ _ h
  split
  · exact finishBad_ticks _ _ _ h
  split
  · exact deallocate_ticks _ _ _ _ _ h
  extract_lets
  split
  · exact sameFrame_of (updItem_only (ps := noFrame) _ _ _ (only_refl _ _) (by decide)) h
  · exact finishBad_ticks _ _ _ (enterLastShelf_ticks _ _ h)
  · rename_i t e
    have k : SameFrame s0 t := sameFrame_of (claimConv_only2 (ps := noFrame) _ _ _ (only_refl _ _) (by decide) e) h
    extract_lets c s1 q s2
    have k2 : SameFrame s0 s2 := sameFrame_host _
      (sameFrame_of (updItem_only (ps := noFrame) _ _ _ (only_refl _ _) (by decide)) k)
    split
    · exact sameFrame_of (landZeros_only (ps := noFrame) _ _ _ _ _ _ (only_refl _ _) (by decide)) k2
    · exact k2

theorem tryConv_ticks {s0 : State} (x : Nat) (n : Ns) (it : Item) (s : State) (h : SameFrame s0 s) :
    SameFrame s0 (tryConv x n it s) := by
  unfold tryConv
  repeat' first
    | (with_reducible assumption)
    | (with_reducible refine sameFrame_of (u := updItem _ _ _) (updItem_only (ps := noFrame) _ _ _ (only_refl _ _) (by decide)) ?_)
    | (with_reducible refine startConv_ticks _ _ _ _ ?_)
    | (intro)
    | (extract_lets +onlyGivenNames s1; refine sameFrame_cut s1 ?_ ?_; unfold s1; clear s1; rotate_left; intro hs1; clear_value s1; rotate_right)
    | (extract_lets +onlyGivenNames k1; have _ck := fun x => (k1 x : State → State); clear _ck)
    | (extract_lets +onlyGivenNames k1; have _ck := fun x => (k1 x : State); clear _ck)
    | (extract_lets +onlyGivenNames v1)
    | (split)
    | (dsimp only [k1])

theorem tryWrite_ticks {s0 : State} (x : Nat) (n : Ns) (it : Item) (s : State) (h : SameFrame s0 s) :
    SameFrame s0 (tryWrite x n it s) := by
  unfold tryWrite
  repeat' first
    | (with_reducible assumption)
    | (with_reducible refine tryZoned_ticks _ _ _ _ _ ?_)
    | (with_reducible refine tryConv_ticks _ _ _ _ ?_)
    | (intro)
    | (split)

theorem writeRow_ticks {s0 : State} (opc : Nat) (ok : Ns → Bool) (id : CmdId) (s : State) (h : SameFrame s0 s) :
    SameFrame s0 (writeRow opc ok id s) := by
  unfold writeRow
  repeat' first
    | (with_reducible assumption)
    | (with_reducible refine finishBad_ticks _ _ _ ?_)
    | (with_reducible refine tryWrite_ticks _ _ _ _ ?_)
    | (with_reducible refine sameFrame_of (u := updItem _ _ _) (updItem_only (ps := noFrame) _ _ _ (only_refl _ _) (by decide)) ?_)
    | (with_reducible refine sameFrame_id ?_)
    | (intro)
    | (split)

theorem startRow_ticks {s0 : State} (ready : Item → Ns → Bool) (id : CmdId) (s : State) (h : SameFrame s0 s) :
    SameFrame s0 (startRow ready id s) := by
  unfold startRow
  repeat' first
    | (with_reducible assumption)
    | (with_reducible refine tryWrite_ticks _ _ _ _ ?_)
    | (with_reducible refine sameFrame_id ?_)
    | (intro)
    | (split)

theorem landUnit_ticks {s0 : State} (it : Item) (x : Nat) (n : Ns) (u : Nat) (data : UnitData) (pi : List Byte) (s : State) (h : SameFrame s0 s) :
    SameFrame s0 (landUnit it x n u data pi s) := by
  unfold landUnit
  repeat' first
    | (with_reducible assumption)
    | (with_reducible refine failItem_ticks _ _ _ ?_)
    | (with_reducible refine sameFrame_of (u := recDataErr _ _ _) (recDataErr_only (ps := noFrame) _ _ _ (only_refl _ _) (by decide)) ?_)
    | (with_reducible refine sameFrame_of (u := land _ _ _ _ _ _ _) (land_only (ps := noFrame) _ _ _ _ _ _ _ (only_refl _ _) (by decide)) ?_)
    | (with_reducible refine sameFrame_of (u := endMerge _ _ _) (endMerge_only (ps := noFrame) _ _ _ (only_refl _ _) (by decide)) ?_)
    | (with_reducible refine sameFrame_of (u := countLanded _ _ _) (countLanded_only (ps := noFrame) _ _ _ (only_refl _ _) (by decide)) ?_)
    | (with_reducible refine sameFrame_of (u := meter _ _ _) (meter_only (ps := noFrame) _ _ _ (only_refl _ _) (by decide)) ?_)
    | (with_reducible refine sameFrame_of (u := updCtl _ _ _) (updCtl_only (ps := noFrame) _ _ _ (only_refl _ _) (by decide)) ?_)
    | (with_reducible refine sameFrame_of (u := updItem _ _ _) (updItem_only (ps := noFrame) _ _ _ (only_refl _ _) (by decide)) ?_)
    | (refine sameFrame_of (oldUnit_only2 (ps := noFrame) _ _ _ _ (only_refl _ _) (by decide) (by assumption)) ?_)
    | (with_reducible refine sameFrame_when _ _ ?_ ?_)
    | (intro)
    | (extract_lets +onlyGivenNames s1; refine sameFrame_cut s1 ?_ ?_; unfold s1; clear s1; rotate_left; intro hs1; clear_value s1; rotate_right)
    | (extract_lets +onlyGivenNames v1; clear_value v1)
    | (extract_lets +onlyGivenNames v1)
    | (split)

theorem unitLanded_ticks {s0 : State} (id : CmdId) (u : Nat) (data : UnitData) (pi : List Byte) (s : State) (h : SameFrame s0 s) :
    SameFrame s0 (unitLanded id u data pi s) := by
  unfold unitLanded
  repeat' first
    | (with_reducible assumption)
    | (with_reducible refine landUnit_ticks _ _ _ _ _ _ _ ?_)
    | (with_reducible refine sameFrame_id ?_)
    | (intro)
    | (split)

theorem postWrite_ticks {s0 : State} (n : Ns) (it : Item) (s : State) (h : SameFrame s0 s) :
    SameFrame s0 (postWrite n it s) := by
  unfold postWrite
  repeat' first
    | (with_reducible assumption)
    | (with_reducible refine sameFrame_of (u := acknowledge _ _) (acknowledge_only (ps := noFrame) _ _ (only_refl _ _) (by decide)) ?_)
    | (with_reducible refine sameFrame_of (u := updZoneRec _ _ _) (updZoneRec_only (ps := noFrame) _ _ _ (only_refl _ _) (by decide)) ?_)
    | (with_reducible refine finish_ticks _ _ _ _ _ ?_)
    | (with_reducible refine sameFrame_of (u := deviceFinish _ _) (deviceFinish_only (ps := noFrame) _ _ (only_refl _ _) (by decide)) ?_)
    | (intro)
    | (extract_lets +onlyGivenNames s1; refine sameFrame_cut s1 ?_ ?_; unfold s1; clear s1; rotate_left; intro hs1; clear_value s1; rotate_right)
    | (extract_lets +onlyGivenNames v1)
    | (split)

theorem writePost_ticks {s0 : State} (id : CmdId) (s : State) (h : SameFrame s0 s) :
    SameFrame s0 (writePost id s) := by
  unfold writePost
  repeat' first
    | (with_reducible assumption)
    | (with_reducible refine postWrite_ticks _ _ _ ?_)
    | (with_reducible refine sameFrame_of (u := updItem _ _ _) (updItem_only (ps := noFrame) _ _ _ (only_refl _ _) (by decide)) ?_)
    | (with_reducible refine sameFrame_of (u := submit _ _) (submit_only (ps := noFrame) _ _ (only_refl _ _) (by decide)) ?_)
    | (with_reducible refine sameFrame_id ?_)
    | (intro)
    | (split)

theorem drainEnd_ticks {s0 : State} (z : Nat) (s : State) (h : SameFrame s0 s) :
    SameFrame s0 (drainEnd z s) := by
  unfold drainEnd
  repeat' first
    | (with_reducible assumption)
    | (with_reducible refine postItem_ticks _ _ ?_)
    | (with_reducible refine sameFrame_of (u := deviceFinish _ _) (deviceFinish_only (ps := noFrame) _ _ (only_refl _ _) (by decide)) ?_)
    | (with_reducible refine sameFrame_of (u := updZoneRec _ _ _) (updZoneRec_only (ps := noFrame) _ _ _ (only_refl _ _) (by decide)) ?_)
    | (with_reducible refine sameFrame_forEach _ _ _ ?_ ?_)
    | (intro)
    | (extract_lets +onlyGivenNames s1; refine sameFrame_cut s1 ?_ ?_; unfold s1; clear s1; rotate_left; intro hs1; clear_value s1; rotate_right)
    | (extract_lets +onlyGivenNames v1)
    | (split)

theorem barrierWrite_ticks {s0 : State} (id : CmdId) (s : State) (h : SameFrame s0 s) :
    SameFrame s0 (barrierWrite id s) := by
  unfold barrierWrite
  repeat' first
    | (with_reducible assumption)
    | (with_reducible refine startRow_ticks _ _ _ ?_)
    | (with_reducible refine sameFrame_id ?_)
    | (intro)

theorem flushIo_ticks {s0 : State} (id : CmdId) (s : State) (h : SameFrame s0 s) :
    SameFrame s0 (flushIo id s) := by
  unfold flushIo
  repeat' first
    | (with_reducible assumption)
    | (with_reducible refine finishBad_ticks _ _ _ ?_)
    | (with_reducible refine finishOk_ticks _ _ ?_)
    | (with_reducible refine sameFrame_id ?_)
    | (intro)
    | (split)

theorem datasetManagement_ticks {s0 : State} (dma : Dma) (id : CmdId) (s : State) (h : SameFrame s0 s) :
    SameFrame s0 (datasetManagement dma id s) := by
  unfold datasetManagement
  repeat' first
    | (with_reducible assumption)
    | (with_reducible refine finishBad_ticks _ _ _ ?_)
    | (with_reducible refine finishOk_ticks _ _ ?_)
    | (with_reducible refine deallocate_ticks _ _ _ _ _ ?_)
    | (with_reducible refine sameFrame_id ?_)
    | (intro)
    | (extract_lets +onlyGivenNames s1; refine sameFrame_cut s1 ?_ ?_; unfold s1; clear s1; rotate_left; intro hs1; clear_value s1; rotate_right)
    | (extract_lets +onlyGivenNames v1)
    | (split)

end Sys2Proof.Machine
end

