-- ==== Sys2Proof/Laws/Ticks/ZoneMgmt.lean ====
section
/-! SUPPORT. Operations of Machine/ZoneMgmt.lean that change the frame state in its count of ties alone. -/

set_option linter.tactic.unusedName false

namespace Sys2Proof.Machine

theorem zoneSend_ticks {s0 : State} (a : ZAction) (id : CmdId) (s : State) (h : SameFrame s0 s) :
    SameFrame s0 (zoneSend a id s) := by
  unfold zoneSend
  repeat' first
    | (with_reducible assumption)
    | (with_reducible refine finishBad_ticks _ _ _ ?_)
    | (with_reducible refine finishOk_ticks _ _ ?_)
    | (with_reducible refine sameFrame_of (u := updItem _ _ _) (updItem_only (ps := noFrame) _ _ _ (only_refl _ _) (by decide)) ?_)
    | (with_reducible refine sameFrame_of (u := sendZones _ _ _ _ _) (sendZones_only (ps := noFrame) _ _ _ _ _ (only_refl _ _) (by decide)) ?_)
    | (with_reducible refine sameFrame_when _ _ ?_ ?_)
    | (with_reducible refine sameFrame_id ?_)
    | (intro)
    | (extract_lets +onlyGivenNames s1; refine sameFrame_cut s1 ?_ ?_; unfold s1; clear s1; rotate_left; intro hs1; clear_value s1; rotate_right)
    | (extract_lets +onlyGivenNames k1; have _ck := fun x => (k1 x : State → State); clear _ck)
    | (extract_lets +onlyGivenNames k1; have _ck := fun x => (k1 x : State); clear _ck)
    | (extract_lets +onlyGivenNames v1)
    | (split)
    | (dsimp only [k1])

theorem finishZone_ticks {s0 : State} (z : Nat) (s : State) (h : SameFrame s0 s) :
    SameFrame s0 (finishZone z s) := by
  unfold finishZone
  repeat' first
    | (with_reducible assumption)
    | (with_reducible refine sameFrame_of (u := moveZone _ _ _) (moveZone_only (ps := noFrame) _ _ _ (only_refl _ _) (by decide)) ?_)
    | (with_reducible refine sameFrame_of (u := updZoneRec _ _ _) (updZoneRec_only (ps := noFrame) _ _ _ (only_refl _ _) (by decide)) ?_)
    | (with_reducible refine notifyZone_ticks _ _ _ _ ?_)
    | (with_reducible refine sameFrame_when _ _ ?_ ?_)
    | (intro)
    | (extract_lets +onlyGivenNames s1; refine sameFrame_cut s1 ?_ ?_; unfold s1; clear s1; rotate_left; intro hs1; clear_value s1; rotate_right)
    | (extract_lets +onlyGivenNames v1)
    | (split)

theorem applyZone_ticks {s0 : State} (p : Nat × ZoneTo) (s : State) (h : SameFrame s0 s) :
    SameFrame s0 (applyZone p s) := by
  unfold applyZone
  repeat' first
    | (with_reducible assumption)
    | (with_reducible refine sameFrame_of (u := updZoneRec _ _ _) (updZoneRec_only (ps := noFrame) _ _ _ (only_refl _ _) (by decide)) ?_)
    | (with_reducible refine sameFrame_of (u := closeZone _ _) (closeZone_only (ps := noFrame) _ _ (only_refl _ _) (by decide)) ?_)
    | (with_reducible refine finishZone_ticks _ _ ?_)
    | (with_reducible refine sameFrame_of (u := moveZone _ _ _) (moveZone_only (ps := noFrame) _ _ _ (only_refl _ _) (by decide)) ?_)
    | (with_reducible refine sameFrame_of (u := emptyZone _ _) (emptyZone_only (ps := noFrame) _ _ (only_refl _ _) (by decide)) ?_)
    | (with_reducible refine sameFrame_of (u := offlineZone _ _) (offlineZone_only (ps := noFrame) _ _ (only_refl _ _) (by decide)) ?_)
    | (with_reducible refine sameFrame_of (u := holdReset _ _) (holdReset_only (ps := noFrame) _ _ (only_refl _ _) (by decide)) ?_)
    | (with_reducible refine sameFrame_of (u := learnReset _ _ _) (learnReset_only (ps := noFrame) _ _ _ (only_refl _ _) (by decide)) ?_)
    | (with_reducible refine sameFrame_when _ _ ?_ ?_)
    | (intro)
    | (split)

theorem finishRecommended_ticks {s0 : State} (z : Nat) (s : State) (h : SameFrame s0 s) :
    SameFrame s0 (finishRecommended z s) := by
  unfold finishRecommended
  repeat' first
    | (with_reducible assumption)
    | (with_reducible refine notifyZone_ticks _ _ _ _ ?_)
    | (with_reducible refine sameFrame_of (u := tell _ _ _ _) (tell_only (ps := noFrame) _ _ _ _ (only_refl _ _) (by decide)) ?_)
    | (with_reducible refine sameFrame_of (u := updZoneRec _ _ _) (updZoneRec_only (ps := noFrame) _ _ _ (only_refl _ _) (by decide)) ?_)
    | (intro)
    | (split)

theorem reportZones_ticks {s0 : State} (id : CmdId) (s : State) (h : SameFrame s0 s) :
    SameFrame s0 (reportZones id s) := by
  unfold reportZones
  repeat' first
    | (with_reducible assumption)
    | (with_reducible refine finishBad_ticks _ _ _ ?_)
    | (with_reducible refine finishOk_ticks _ _ ?_)
    | (with_reducible refine sameFrame_of (u := send _ _) (send_only (ps := noFrame) _ _ (only_refl _ _) (by decide)) ?_)
    | (with_reducible refine sameFrame_id ?_)
    | (intro)
    | (extract_lets +onlyGivenNames s1; refine sameFrame_cut s1 ?_ ?_; unfold s1; clear s1; rotate_left; intro hs1; clear_value s1; rotate_right)
    | (extract_lets +onlyGivenNames v1)
    | (split)

end Sys2Proof.Machine
end

