-- ==== Sys2Proof/Laws/Ticks/Commit.lean ====
section
/-! SUPPORT. Operations of Machine/Commit.lean that change the frame state in its count of ties alone. -/

set_option linter.tactic.unusedName false

namespace Sys2Proof.Machine

theorem zoneLosses_ticks {s0 : State} (z : Nat) (s : State) (h : SameFrame s0 s) :
    SameFrame s0 (zoneLosses z s) := by
  unfold zoneLosses
  repeat' first
    | (with_reducible assumption)
    | (with_reducible refine notifyZone_ticks _ _ _ _ ?_)
    | (with_reducible refine sameFrame_of (u := tell _ _ _ _) (tell_only (ps := noFrame) _ _ _ _ (only_refl _ _) (by decide)) ?_)
    | (with_reducible refine sameFrame_of (u := moveZone _ _ _) (moveZone_only (ps := noFrame) _ _ _ (only_refl _ _) (by decide)) ?_)
    | (intro)
    | (extract_lets +onlyGivenNames s1; refine sameFrame_cut s1 ?_ ?_; unfold s1; clear s1; rotate_left; intro hs1; clear_value s1; rotate_right)
    | (extract_lets +onlyGivenNames v1)
    | (split)

theorem commitZoned_ticks {s0 : State} (z : Nat) (k : Nat) (o : RowOp) (s : State) (h : SameFrame s0 s) :
    SameFrame s0 (commitZoned z k o s) := by
  unfold commitZoned
  repeat' first
    | (with_reducible assumption)
    | (with_reducible refine sameFrame_of (u := fitBlocks _ _) (fitBlocks_only (ps := noFrame) _ _ (only_refl _ _) (by decide)) ?_)
    | (with_reducible refine sameFrame_of (u := setZone _ _ _) (setZone_only (ps := noFrame) _ _ _ (only_refl _ _) (by decide)) ?_)
    | (with_reducible refine sameFrame_of (u := gainValid _ _ _) (gainValid_only (ps := noFrame) _ _ _ (only_refl _ _) (by decide)) ?_)
    | (with_reducible refine sameFrame_of (u := landedCommitted _ _) (landedCommitted_only (ps := noFrame) _ _ (only_refl _ _) (by decide)) ?_)
    | (with_reducible refine sameFrame_of (u := loseValid _ _ _) (loseValid_only (ps := noFrame) _ _ _ (only_refl _ _) (by decide)) ?_)
    | (with_reducible refine zoneLosses_ticks _ _ ?_)
    | (with_reducible refine sameFrame_of (u := updGroup _ _ _) (updGroup_only (ps := noFrame) _ _ _ (only_refl _ _) (by decide)) ?_)
    | (with_reducible refine sameFrame_forEach _ _ _ ?_ ?_)
    | (intro)
    | (extract_lets +onlyGivenNames s1; refine sameFrame_cut s1 ?_ ?_; unfold s1; clear s1; rotate_left; intro hs1; clear_value s1; rotate_right)
    | (extract_lets +onlyGivenNames v1)
    | (split)

theorem commitRow_ticks {s0 : State} (o : RowOp) (s : State) (h : SameFrame s0 s) :
    SameFrame s0 (commitRow o s) := by
  unfold commitRow
  repeat' first
    | (with_reducible assumption)
    | (with_reducible refine commitZoned_ticks _ _ _ _ ?_)
    | (with_reducible refine sameFrame_of (u := markSegs _ _) (markSegs_only (ps := noFrame) _ _ (only_refl _ _) (by decide)) ?_)
    | (with_reducible refine sameFrame_of (u := commitPage _ _ _) (commitPage_only (ps := noFrame) _ _ _ (only_refl _ _) (by decide)) ?_)
    | (with_reducible refine sameFrame_of (u := closeIfDone _ _) (closeIfDone_only (ps := noFrame) _ _ (only_refl _ _) (by decide)) ?_)
    | (with_reducible refine sameFrame_of (u := updGroup _ _ _) (updGroup_only (ps := noFrame) _ _ _ (only_refl _ _) (by decide)) ?_)
    | (with_reducible refine sameFrame_forEach _ _ _ ?_ ?_)
    | (intro)
    | (extract_lets +onlyGivenNames s1; refine sameFrame_cut s1 ?_ ?_; unfold s1; clear s1; rotate_left; intro hs1; clear_value s1; rotate_right)
    | (extract_lets +onlyGivenNames v1)
    | (split)

theorem erasedItems_ticks {s0 : State} (eg : Nat) (s : State) (h : SameFrame s0 s) :
    SameFrame s0 (erasedItems eg s) := by
  unfold erasedItems
  repeat' first
    | (with_reducible assumption)
    | (with_reducible refine sameFrame_of (u := updItem _ _ _) (updItem_only (ps := noFrame) _ _ _ (only_refl _ _) (by decide)) ?_)
    | (with_reducible refine finishOk_ticks _ _ ?_)
    | (with_reducible refine sameFrame_of (u := learnHeld _ _) (learnHeld_only (ps := noFrame) _ _ (only_refl _ _) (by decide)) ?_)
    | (with_reducible refine sameFrame_of (u := giveBackHeld _ _) (giveBackHeld_only (ps := noFrame) _ _ (only_refl _ _) (by decide)) ?_)
    | (with_reducible refine sameFrame_forEach _ _ _ ?_ ?_)
    | (intro)
    | (extract_lets +onlyGivenNames s1; refine sameFrame_cut s1 ?_ ?_; unfold s1; clear s1; rotate_left; intro hs1; clear_value s1; rotate_right)
    | (extract_lets +onlyGivenNames v1)
    | (split)

theorem dissolve_ticks {s0 : State} (eg : Nat) (s : State) (h : SameFrame s0 s) :
    SameFrame s0 (dissolve eg s) := by
  unfold dissolve
  repeat' first
    | (with_reducible assumption)
    | (with_reducible refine sameFrame_of (u := clearGroup _ _) (clearGroup_only (ps := noFrame) _ _ (only_refl _ _) (by decide)) ?_)
    | (with_reducible refine sameFrame_of (u := freeBlock _ _ _ _ _) (freeBlock_only (ps := noFrame) _ _ _ _ _ (only_refl _ _) (by decide)) ?_)
    | (with_reducible refine sameFrame_of (u := refugeAgain _ _) (refugeAgain_only (ps := noFrame) _ _ (only_refl _ _) (by decide)) ?_)
    | (with_reducible refine sameFrame_of (u := forgetGroup _ _) (forgetGroup_only (ps := noFrame) _ _ (only_refl _ _) (by decide)) ?_)
    | (with_reducible refine sameFrame_of (u := updMedia _ _) (updMedia_only (ps := noFrame) _ _ (only_refl _ _) (by decide)) ?_)
    | (with_reducible refine sameFrame_of (u := updZone _ _) (updZone_only (ps := noFrame) _ _ (only_refl _ _) (by decide)) ?_)
    | (with_reducible refine sameFrame_of (u := pendErase _ _) (pendErase_only (ps := noFrame) _ _ (only_refl _ _) (by decide)) ?_)
    | (with_reducible refine sameFrame_of (u := pendIfEmpty _ _) (pendIfEmpty_only (ps := noFrame) _ _ (only_refl _ _) (by decide)) ?_)
    | (with_reducible refine erasedItems_ticks _ _ ?_)
    | (with_reducible refine sameFrame_when _ _ ?_ ?_)
    | (with_reducible refine sameFrame_forEach _ _ _ ?_ ?_)
    | (intro)
    | (extract_lets +onlyGivenNames s1; refine sameFrame_cut s1 ?_ ?_; unfold s1; clear s1; rotate_left; intro hs1; clear_value s1; rotate_right)
    | (extract_lets +onlyGivenNames v1)
    | (split)

theorem commitItem_ticks {s0 : State} (seq : Nat) (s : State) (h : SameFrame s0 s) :
    SameFrame s0 (commitItem seq s) := by
  unfold commitItem
  repeat' first
    | (with_reducible assumption)
    | (with_reducible refine sameFrame_of (u := learnHeld _ _) (learnHeld_only (ps := noFrame) _ _ (only_refl _ _) (by decide)) ?_)
    | (with_reducible refine sameFrame_of (u := giveBackHeld _ _) (giveBackHeld_only (ps := noFrame) _ _ (only_refl _ _) (by decide)) ?_)
    | (with_reducible refine postItem_ticks _ _ ?_)
    | (with_reducible refine postWrite_ticks _ _ _ ?_)
    | (with_reducible refine finishOk_ticks _ _ ?_)
    | (intro)
    | (extract_lets +onlyGivenNames s1; refine sameFrame_cut s1 ?_ ?_; unfold s1; clear s1; rotate_left; intro hs1; clear_value s1; rotate_right)
    | (extract_lets +onlyGivenNames v1)
    | (split)

theorem applyRec_ticks {s0 : State} (r : JRec) (s : State) (h : SameFrame s0 s) :
    SameFrame s0 (applyRec r s) := by
  unfold applyRec
  repeat' first
    | (with_reducible assumption)
    | (with_reducible refine sameFrame_of (u := applyGroups _ _) (applyGroups_only (ps := noFrame) _ _ (only_refl _ _) (by decide)) ?_)
    | (with_reducible refine commitRow_ticks _ _ ?_)
    | (with_reducible refine sameFrame_of (u := applyUnmap _ _) (applyUnmap_only (ps := noFrame) _ _ (only_refl _ _) (by decide)) ?_)
    | (with_reducible refine applyZone_ticks _ _ ?_)
    | (with_reducible refine dissolve_ticks _ _ ?_)
    | (with_reducible refine commitItem_ticks _ _ ?_)
    | (with_reducible refine sameFrame_when _ _ ?_ ?_)
    | (with_reducible refine sameFrame_forEach _ _ _ ?_ ?_)
    | (intro)
    | (extract_lets +onlyGivenNames s1; refine sameFrame_cut s1 ?_ ?_; unfold s1; clear s1; rotate_left; intro hs1; clear_value s1; rotate_right)
    | (extract_lets +onlyGivenNames v1)
    | (split)

theorem record_ticks {s0 : State} (r : JRec) (rest : List JRec) (s : State) (h : SameFrame s0 s) :
    SameFrame s0 (record r rest s) := by
  unfold record
  repeat' first
    | (with_reducible assumption)
    | (with_reducible refine applyRec_ticks _ _ ?_)
    | (with_reducible refine sameFrame_of (u := updMedia _ _) (updMedia_only (ps := noFrame) _ _ (only_refl _ _) (by decide)) ?_)
    | (intro)
    | (extract_lets +onlyGivenNames s1; refine sameFrame_cut s1 ?_ ?_; unfold s1; clear s1; rotate_left; intro hs1; clear_value s1; rotate_right)
    | (extract_lets +onlyGivenNames v1)
    | (split)

theorem commitHead_ticks {s0 : State} (ok : JRec → Bool) (readBackOk : Bool) (s : State) (h : SameFrame s0 s) :
    SameFrame s0 (commitHead ok readBackOk s) := by
  unfold commitHead
  repeat' first
    | (with_reducible assumption)
    | (with_reducible refine replaceLine_ticks _ _ ?_)
    | (with_reducible refine record_ticks _ _ _ ?_)
    | (with_reducible refine sameFrame_when _ _ ?_ ?_)
    | (intro)
    | (extract_lets +onlyGivenNames s1; refine sameFrame_cut s1 ?_ ?_; unfold s1; clear s1; rotate_left; intro hs1; clear_value s1; rotate_right)
    | (extract_lets +onlyGivenNames v1)
    | (split)

theorem relocationCommit_ticks {s0 : State} (eg : Nat) (s : State) (h : SameFrame s0 s) :
    SameFrame s0 (relocationCommit eg s) := by
  unfold relocationCommit
  repeat' first
    | (with_reducible assumption)
    | (with_reducible refine sameFrame_of (u := victimDone _ _) (victimDone_only (ps := noFrame) _ _ (only_refl _ _) (by decide)) ?_)
    | (with_reducible refine commitHead_ticks _ _ _ ?_)
    | (intro)

end Sys2Proof.Machine
end

