-- ==== Sys2Proof/Laws/Ticks/Rows.lean ====
section
/-! SUPPORT. Operations of Machine/Rows.lean that change the frame state in its count of ties alone. -/

set_option linter.tactic.unusedName false

namespace Sys2Proof.Machine

theorem bindIn_ticks {s0 : State} (eg : Nat) (reserved : Bool) (o : RowOp) (s : State) (h : SameFrame s0 s) :
    SameFrame s0 (bindIn eg reserved o s) := by
  unfold bindIn
  repeat' first
    | (with_reducible assumption)
    | (with_reducible refine sameFrame_of (u := updGroup _ _ _) (updGroup_only (ps := noFrame) _ _ _ (only_refl _ _) (by decide)) ?_)
    | (with_reducible refine sameFrame_of (u := updMedia _ _) (updMedia_only (ps := noFrame) _ _ (only_refl _ _) (by decide)) ?_)
    | (with_reducible refine sameFrame_of (u := updLanded _ _ _) (updLanded_only (ps := noFrame) _ _ _ (only_refl _ _) (by decide)) ?_)
    | (with_reducible refine sameFrame_of (u := requestRow _ _ _ _) (requestRow_only (ps := noFrame) _ _ _ _ (only_refl _ _) (by decide)) ?_)
    | (with_reducible refine sameFrame_of (u := recDataErr _ _ _) (recDataErr_only (ps := noFrame) _ _ _ (only_refl _ _) (by decide)) ?_)
    | (with_reducible refine setCritical_ticks _ _ ?_)
    | (with_reducible refine sameFrame_of (u := callWrite _) (callWrite_only (ps := noFrame) _ (only_refl _ _) (by decide)) ?_)
    | (with_reducible refine sameFrame_forEach _ _ _ ?_ ?_)
    | (intro)
    | (extract_lets +onlyGivenNames s1; refine sameFrame_cut s1 ?_ ?_; unfold s1; clear s1; rotate_left; intro hs1; clear_value s1; rotate_right)
    | (extract_lets +onlyGivenNames v1)
    | (split)
    | (refine sameFrame_therm _ ?_)

theorem bindZoneFree_ticksOpt {s0 : State} (z : Nat) (shelf fresh : Bool) (o : RowOp) (s : State)
    (h : SameFrame s0 s) : SameFrameOpt s0 (bindZoneFree z shelf fresh o s) := by
  unfold bindZoneFree
  split
  · exact sameFrameOpt_none _
  split
  · exact sameFrameOpt_none _
  rename_i r _ _ n _
  have hk : ∀ eg t, (if fresh then newGroup (zoneWant s z r n false) true s
      else chooseGroup (zoneWant s z r n false) true s) = some (eg, t) → SameFrame s0 t := by
    intro eg t e
    split at e
    · exact sameFrame_of (newGroup_only2 (ps := noFrame) _ _ (only_refl _ _) (by decide) e) h
    · exact sameFrame_of (chooseGroup_only2 (ps := noFrame) _ _ (only_refl _ _) (by decide) e) h
  split
  · exact sameFrameOpt_some (bindIn_ticks _ _ _ _ h)
  split
  · rename_i eg t e
    exact sameFrameOpt_some (bindIn_ticks _ _ _ _ (sameFrame_of
      (updZoneRec_only (ps := noFrame) _ _ _ (only_refl _ _) (by decide)) (hk eg t e)))
  split
  · split
    · rename_i e
      exact sameFrameOpt_some (bindIn_ticks _ _ _ _
        (sameFrame_of (shelfGroupFor_only2 (ps := noFrame) _ _ (only_refl _ _) (by decide) e) h))
    · exact sameFrameOpt_none _
  · exact sameFrameOpt_none _

theorem bindZoneFree_ticks2 {s0 : State} (z : Nat) (shelf fresh : Bool) (o : RowOp) {s t : State} (h : SameFrame s0 s)
    (e : bindZoneFree z shelf fresh o s = some t) : SameFrame s0 t := (bindZoneFree_ticksOpt z shelf fresh o _ h).same t e

theorem bindUnclaimed_ticksOpt {s0 : State} (z : Nat) (cont : Bool) (o : RowOp) (s : State) (h : SameFrame s0 s) : SameFrameOpt s0 (bindUnclaimed z cont o s) := by
  unfold bindUnclaimed
  repeat' first
    | (with_reducible assumption)
    | (with_reducible refine bindZoneFree_ticks2 _ _ _ _ ?_ (by assumption))
    | (with_reducible refine bindZoneFree_ticksOpt _ _ _ _ _ ?_)
    | (intro)
    | (split)
    | (with_reducible exact sameFrameOpt_none _)
    | (with_reducible refine sameFrameOpt_some ?_)

theorem bindUnclaimed_ticks2 {s0 : State} (z : Nat) (cont : Bool) (o : RowOp) {s t : State} (h : SameFrame s0 s) (e : bindUnclaimed z cont o s = some t) :
    SameFrame s0 t := (bindUnclaimed_ticksOpt z cont o _ h).same t e

theorem bindZoneRow_ticksOpt {s0 : State} (z : Nat) (k : Nat) (cont : Bool) (o : RowOp) (s : State) (h : SameFrame s0 s) : SameFrameOpt s0 (bindZoneRow z k cont o s) := by
  unfold bindZoneRow
  repeat' first
    | (with_reducible assumption)
    | (with_reducible refine sameFrame_of (u := updZoneRec _ _ _) (updZoneRec_only (ps := noFrame) _ _ _ (only_refl _ _) (by decide)) ?_)
    | (with_reducible refine bindIn_ticks _ _ _ _ ?_)
    | (with_reducible refine bindUnclaimed_ticks2 _ _ _ ?_ (by assumption))
    | (with_reducible refine bindUnclaimed_ticksOpt _ _ _ _ ?_)
    | (intro)
    | (extract_lets +onlyGivenNames s1; refine sameFrame_cut s1 ?_ ?_; unfold s1; clear s1; rotate_left; intro hs1; clear_value s1; rotate_right)
    | (extract_lets +onlyGivenNames v1)
    | (split)
    | (with_reducible exact sameFrameOpt_none _)
    | (with_reducible refine sameFrameOpt_some ?_)

theorem bindZoneRow_ticks2 {s0 : State} (z : Nat) (k : Nat) (cont : Bool) (o : RowOp) {s t : State} (h : SameFrame s0 s) (e : bindZoneRow z k cont o s = some t) :
    SameFrame s0 t := (bindZoneRow_ticksOpt z k cont o _ h).same t e

theorem bindConvFree_ticksOpt {s0 : State} (x : Nat) (lc : Nat) (gc : Bool) (shelf : Bool) (fresh : Bool) (o : RowOp) (s : State) (h : SameFrame s0 s) : SameFrameOpt s0 (bindConvFree x lc gc shelf fresh o s) := by
  unfold bindConvFree
  repeat' first
    | (with_reducible assumption)
    | (with_reducible refine bindIn_ticks _ _ _ _ ?_)
    | (with_reducible refine sameFrame_of (u := updNs _ _ _) (updNs_only (ps := noFrame) _ _ _ (only_refl _ _) (by decide)) ?_)
    | (refine sameFrame_of (newGroup_only2 (ps := noFrame) _ _ (only_refl _ _) (by decide) (by assumption)) ?_)
    | (refine sameFrame_of (shelfGroupFor_only2 (ps := noFrame) _ _ (only_refl _ _) (by decide) (by assumption)) ?_)
    | (intro)
    | (extract_lets +onlyGivenNames s1; refine sameFrame_cut s1 ?_ ?_; unfold s1; clear s1; rotate_left; intro hs1; clear_value s1; rotate_right)
    | (extract_lets +onlyGivenNames v1)
    | (split)
    | (with_reducible exact sameFrameOpt_none _)
    | (with_reducible refine sameFrameOpt_some ?_)

theorem bindConvFree_ticks2 {s0 : State} (x : Nat) (lc : Nat) (gc : Bool) (shelf : Bool) (fresh : Bool) (o : RowOp) {s t : State} (h : SameFrame s0 s) (e : bindConvFree x lc gc shelf fresh o s = some t) :
    SameFrame s0 t := (bindConvFree_ticksOpt x lc gc shelf fresh o _ h).same t e

theorem bindConvRow_ticksOpt {s0 : State} (x : Nat) (lc : Nat) (o : RowOp) (s : State) (h : SameFrame s0 s) : SameFrameOpt s0 (bindConvRow x lc o s) := by
  unfold bindConvRow
  repeat' first
    | (with_reducible assumption)
    | (with_reducible refine sameFrame_of (u := updNs _ _ _) (updNs_only (ps := noFrame) _ _ _ (only_refl _ _) (by decide)) ?_)
    | (with_reducible refine bindIn_ticks _ _ _ _ ?_)
    | (with_reducible refine bindConvFree_ticks2 _ _ _ _ _ _ ?_ (by assumption))
    | (with_reducible refine bindConvFree_ticksOpt _ _ _ _ _ _ _ ?_)
    | (intro)
    | (extract_lets +onlyGivenNames s1; refine sameFrame_cut s1 ?_ ?_; unfold s1; clear s1; rotate_left; intro hs1; clear_value s1; rotate_right)
    | (extract_lets +onlyGivenNames v1)
    | (split)
    | (with_reducible exact sameFrameOpt_none _)
    | (with_reducible refine sameFrameOpt_some ?_)

theorem bindConvRow_ticks2 {s0 : State} (x : Nat) (lc : Nat) (o : RowOp) {s t : State} (h : SameFrame s0 s) (e : bindConvRow x lc o s = some t) :
    SameFrame s0 t := (bindConvRow_ticksOpt x lc o _ h).same t e

theorem replaceRow_ticks {s0 : State} (o : RowOp) (s : State) (h : SameFrame s0 s) :
    SameFrame s0 (replaceRow o s) := by
  unfold replaceRow
  repeat' first
    | (with_reducible assumption)
    | (with_reducible refine sameFrame_of (u := updLanded _ _ _) (updLanded_only (ps := noFrame) _ _ _ (only_refl _ _) (by decide)) ?_)
    | (with_reducible refine sameFrame_of (u := keepCopies _ _ _) (keepCopies_only (ps := noFrame) _ _ _ (only_refl _ _) (by decide)) ?_)
    | (with_reducible refine bindZoneFree_ticks2 _ _ _ _ ?_ (by assumption))
    | (with_reducible refine bindZoneFree_ticksOpt _ _ _ _ _ ?_)
    | (with_reducible refine bindConvFree_ticks2 _ _ _ _ _ _ ?_ (by assumption))
    | (with_reducible refine bindConvFree_ticksOpt _ _ _ _ _ _ _ ?_)
    | (with_reducible refine sameFrame_getD ?_ ?_)
    | (with_reducible refine sameFrame_forEach _ _ _ ?_ ?_)
    | (intro)
    | (extract_lets +onlyGivenNames s1; refine sameFrame_cut s1 ?_ ?_; unfold s1; clear s1; rotate_left; intro hs1; clear_value s1; rotate_right)
    | (extract_lets +onlyGivenNames v1)
    | (split)

theorem bindZoneCopies_ticksOpt {s0 : State} (eg : Nat) (x : Nat) (n : Ns) (zk : Nat × Nat) (l : List (Nat × Loc × Stored)) (s : State) (h : SameFrame s0 s) : SameFrameOpt s0 (bindZoneCopies eg x n zk l s) := by
  unfold bindZoneCopies
  repeat' first
    | (with_reducible assumption)
    | (with_reducible refine bindZoneFree_ticks2 _ _ _ _ ?_ (by assumption))
    | (with_reducible refine bindZoneFree_ticksOpt _ _ _ _ _ ?_)
    | (intro)
    | (extract_lets +onlyGivenNames s1; refine sameFrame_cut s1 ?_ ?_; unfold s1; clear s1; rotate_left; intro hs1; clear_value s1; rotate_right)
    | (extract_lets +onlyGivenNames v1)
    | (with_reducible exact sameFrameOpt_none _)
    | (with_reducible refine sameFrameOpt_some ?_)

theorem bindZoneCopies_ticks2 {s0 : State} (eg : Nat) (x : Nat) (n : Ns) (zk : Nat × Nat) (l : List (Nat × Loc × Stored)) {s t : State} (h : SameFrame s0 s) (e : bindZoneCopies eg x n zk l s = some t) :
    SameFrame s0 t := (bindZoneCopies_ticksOpt eg x n zk l _ h).same t e

theorem bindAll_ticks {s0 : State} (eg : Nat) (g : Group) (n : Ns) (l : List (Nat × Loc × Stored)) (s : State) (h : SameFrame s0 s) :
    SameFrame s0 (bindAll eg g n l s) := by
  unfold bindAll
  repeat' first
    | (with_reducible assumption)
    | (with_reducible refine sameFrame_of (u := keepCopies _ _ _) (keepCopies_only (ps := noFrame) _ _ _ (only_refl _ _) (by decide)) ?_)
    | (with_reducible refine bindZoneCopies_ticks2 _ _ _ _ _ ?_ (by assumption))
    | (with_reducible refine bindZoneCopies_ticksOpt _ _ _ _ _ _ ?_)
    | (with_reducible refine bindConvFree_ticks2 _ _ _ _ _ _ ?_ (by assumption))
    | (with_reducible refine bindConvFree_ticksOpt _ _ _ _ _ _ _ ?_)
    | (with_reducible refine sameFrame_forEach _ _ _ ?_ ?_)
    | (intro)
    | (extract_lets +onlyGivenNames s1; refine sameFrame_cut s1 ?_ ?_; unfold s1; clear s1; rotate_left; intro hs1; clear_value s1; rotate_right)
    | (extract_lets +onlyGivenNames v1)
    | (split)

theorem bindCopies_ticks {s0 : State} (eg : Nat) (s : State) (h : SameFrame s0 s) :
    SameFrame s0 (bindCopies eg s) := by
  unfold bindCopies
  repeat' first
    | (with_reducible assumption)
    | (with_reducible refine sameFrame_of (u := submitRows _ _) (submitRows_only (ps := noFrame) _ _ (only_refl _ _) (by decide)) ?_)
    | (with_reducible refine bindAll_ticks _ _ _ _ _ ?_)
    | (with_reducible refine sameFrame_of (u := takeCopies _ _) (takeCopies_only (ps := noFrame) _ _ (only_refl _ _) (by decide)) ?_)
    | (intro)
    | (split)

end Sys2Proof.Machine
end

