-- ==== Sys2Proof/Laws/Ticks/Reads.lean ====
section
/-! SUPPORT. Operations of Machine/Reads.lean that change the frame state in its count of ties alone. -/

set_option linter.tactic.unusedName false

namespace Sys2Proof.Machine

theorem logReadFail_ticks {s0 : State} (it : Item) (s : State) (h : SameFrame s0 s) :
    SameFrame s0 (logReadFail it s) := by
  unfold logReadFail
  repeat' first
    | (with_reducible assumption)
    | (with_reducible refine notify_ticks _ _ _ _ ?_)
    | (with_reducible refine sameFrame_of (u := updCtl _ _ _) (updCtl_only (ps := noFrame) _ _ _ (only_refl _ _) (by decide)) ?_)
    | (intro)
    | (extract_lets +onlyGivenNames s1; refine sameFrame_cut s1 ?_ ?_; unfold s1; clear s1; rotate_left; intro hs1; clear_value s1; rotate_right)
    | (extract_lets +onlyGivenNames v1)

theorem readDone_ticks {s0 : State} (seq : Nat) (s : State) (h : SameFrame s0 s) :
    SameFrame s0 (readDone seq s) := by
  unfold readDone
  repeat' first
    | (with_reducible assumption)
    | (with_reducible refine finishOk_ticks _ _ ?_)
    | (with_reducible refine finishBad_ticks _ _ _ ?_)
    | (with_reducible refine logReadFail_ticks _ _ ?_)
    | (intro)
    | (split)

theorem failUnit_ticks {s0 : State} (seq : Nat) (u : Nat) (s : State) (h : SameFrame s0 s) :
    SameFrame s0 (failUnit seq u s) := by
  unfold failUnit
  repeat' first
    | (with_reducible assumption)
    | (with_reducible refine readDone_ticks _ _ ?_)
    | (with_reducible refine sameFrame_of (u := updItem _ _ _) (updItem_only (ps := noFrame) _ _ _ (only_refl _ _) (by decide)) ?_)
    | (intro)

theorem uncorrectable_ticks {s0 : State} (r : RdOp) (s : State) (h : SameFrame s0 s) :
    SameFrame s0 (uncorrectable r s) := by
  unfold uncorrectable
  repeat' first
    | (with_reducible assumption)
    | (with_reducible refine sameFrame_of (u := refreshGroup _ _) (refreshGroup_only (ps := noFrame) _ _ (only_refl _ _) (by decide)) ?_)
    | (with_reducible refine sameFrame_of (u := recDataErr _ _ _) (recDataErr_only (ps := noFrame) _ _ _ (only_refl _ _) (by decide)) ?_)
    | (with_reducible refine sameFrame_of (u := dropRead _ _) (dropRead_only (ps := noFrame) _ _ (only_refl _ _) (by decide)) ?_)
    | (with_reducible refine sameFrame_of (u := callWrite _) (callWrite_only (ps := noFrame) _ (only_refl _ _) (by decide)) ?_)
    | (with_reducible refine failUnit_ticks _ _ _ ?_)
    | (with_reducible refine bindCopies_ticks _ _ ?_)
    | (with_reducible refine sameFrame_of (u := updMedia _ _) (updMedia_only (ps := noFrame) _ _ (only_refl _ _) (by decide)) ?_)
    | (with_reducible refine failItem_ticks _ _ _ ?_)
    | (intro)
    | (extract_lets +onlyGivenNames s1; refine sameFrame_cut s1 ?_ ?_; unfold s1; clear s1; rotate_left; intro hs1; clear_value s1; rotate_right)
    | (extract_lets +onlyGivenNames v1)
    | (split)
    | (refine sameFrame_therm _ ?_)

theorem climb_ticks {s0 : State} (r : RdOp) (s : State) (h : SameFrame s0 s) :
    SameFrame s0 (climb r s) := by
  unfold climb
  repeat' first
    | (with_reducible assumption)
    | (with_reducible refine sameFrame_of (u := dropRead _ _) (dropRead_only (ps := noFrame) _ _ (only_refl _ _) (by decide)) ?_)
    | (with_reducible refine sameFrame_of (u := toStep _ _ _) (toStep_only (ps := noFrame) _ _ _ (only_refl _ _) (by decide)) ?_)
    | (with_reducible refine uncorrectable_ticks _ _ ?_)
    | (with_reducible refine sameFrame_of (u := again _ _ _) (again_only (ps := noFrame) _ _ _ (only_refl _ _) (by decide)) ?_)
    | (intro)
    | (split)

theorem deliver_ticks {s0 : State} (r : RdOp) (x1 : Stored) (s : State) (h : SameFrame s0 s) :
    SameFrame s0 (deliver r x1 s) := by
  unfold deliver
  repeat' first
    | (with_reducible assumption)
    | (with_reducible refine sameFrame_of (u := refreshGroup _ _) (refreshGroup_only (ps := noFrame) _ _ (only_refl _ _) (by decide)) ?_)
    | (with_reducible refine sameFrame_of (u := cacheFill _ _ _) (cacheFill_only (ps := noFrame) _ _ _ (only_refl _ _) (by decide)) ?_)
    | (with_reducible refine sameFrame_of (u := updRead _ _ _) (updRead_only (ps := noFrame) _ _ _ (only_refl _ _) (by decide)) ?_)
    | (with_reducible refine bindCopies_ticks _ _ ?_)
    | (with_reducible refine sameFrame_of (u := updMedia _ _) (updMedia_only (ps := noFrame) _ _ (only_refl _ _) (by decide)) ?_)
    | (with_reducible refine sameFrame_of (u := dropRead _ _) (dropRead_only (ps := noFrame) _ _ (only_refl _ _) (by decide)) ?_)
    | (with_reducible refine sameFrame_when _ _ ?_ ?_)
    | (intro)
    | (extract_lets +onlyGivenNames s1; refine sameFrame_cut s1 ?_ ?_; unfold s1; clear s1; rotate_left; intro hs1; clear_value s1; rotate_right)
    | (extract_lets +onlyGivenNames v1)
    | (split)

theorem backEnds_ticks {s0 : State} (r : RdOp) (s : State) (h : SameFrame s0 s) :
    SameFrame s0 (backEnds r s) := by
  unfold backEnds
  repeat' first
    | (with_reducible assumption)
    | (with_reducible refine sameFrame_of (u := dropRead _ _) (dropRead_only (ps := noFrame) _ _ (only_refl _ _) (by decide)) ?_)
    | (with_reducible refine sameFrame_of (u := again _ _ _) (again_only (ps := noFrame) _ _ _ (only_refl _ _) (by decide)) ?_)
    | (with_reducible refine uncorrectable_ticks _ _ ?_)
    | (intro)
    | (split)

theorem backFails_ticks {s0 : State} (r : RdOp) (s : State) (h : SameFrame s0 s) :
    SameFrame s0 (backFails r s) := by
  unfold backFails
  repeat' first
    | (with_reducible assumption)
    | (with_reducible refine backEnds_ticks _ _ ?_)
    | (with_reducible refine sameFrame_of (u := recDataErr _ _ _) (recDataErr_only (ps := noFrame) _ _ _ (only_refl _ _) (by decide)) ?_)
    | (intro)

theorem decodeMember_ticks {s0 : State} (r : RdOp) (code : Nat) (rest : List Nat) (second : List Nat) (out : DecodeOut) (s : State) (h : SameFrame s0 s) :
    SameFrame s0 (decodeMember r code rest second out s) := by
  unfold decodeMember
  repeat' first
    | (with_reducible assumption)
    | (with_reducible refine sameFrame_of (u := setMembers _ _ _ _) (setMembers_only (ps := noFrame) _ _ _ _ (only_refl _ _) (by decide)) ?_)
    | (with_reducible refine sameFrame_of (u := updRead _ _ _) (updRead_only (ps := noFrame) _ _ _ (only_refl _ _) (by decide)) ?_)
    | (with_reducible refine backFails_ticks _ _ ?_)
    | (with_reducible refine sameFrame_of (u := goodDecode _ _ _ _ _ _) (goodDecode_only (ps := noFrame) _ _ _ _ _ _ (only_refl _ _) (by decide)) ?_)
    | (with_reducible refine sameFrame_of (u := noteRetry _ _ _) (noteRetry_only (ps := noFrame) _ _ _ (only_refl _ _) (by decide)) ?_)
    | (with_reducible refine sameFrame_of (u := recDataErr _ _ _) (recDataErr_only (ps := noFrame) _ _ _ (only_refl _ _) (by decide)) ?_)
    | (intro)
    | (extract_lets +onlyGivenNames s1; refine sameFrame_cut s1 ?_ ?_; unfold s1; clear s1; rotate_left; intro hs1; clear_value s1; rotate_right)
    | (extract_lets +onlyGivenNames k1; have _ck := fun x => (k1 x : State → State); clear _ck)
    | (extract_lets +onlyGivenNames k1; have _ck := fun x => (k1 x : State); clear _ck)
    | (extract_lets +onlyGivenNames v1)
    | (split)
    | (dsimp only [k1])

theorem directDecode_ticks {s0 : State} (r : RdOp) (up : Nat) (down : Nat) (s : State) (h : SameFrame s0 s) :
    SameFrame s0 (directDecode r up down s) := by
  unfold directDecode
  repeat' first
    | (with_reducible assumption)
    | (with_reducible refine sameFrame_of (u := goodDecode _ _ _ _ _ _) (goodDecode_only (ps := noFrame) _ _ _ _ _ _ (only_refl _ _) (by decide)) ?_)
    | (with_reducible refine deliver_ticks _ _ _ ?_)
    | (with_reducible refine climb_ticks _ _ ?_)
    | (with_reducible refine sameFrame_of (u := recDataErr _ _ _) (recDataErr_only (ps := noFrame) _ _ _ (only_refl _ _) (by decide)) ?_)
    | (with_reducible refine sameFrame_of (u := dropRead _ _) (dropRead_only (ps := noFrame) _ _ (only_refl _ _) (by decide)) ?_)
    | (intro)
    | (extract_lets +onlyGivenNames s1; refine sameFrame_cut s1 ?_ ?_; unfold s1; clear s1; rotate_left; intro hs1; clear_value s1; rotate_right)
    | (extract_lets +onlyGivenNames v1)
    | (split)

theorem codewordDecode_ticks {s0 : State} (id : Nat) (out : DecodeOut) (s : State) (h : SameFrame s0 s) :
    SameFrame s0 (codewordDecode id out s) := by
  unfold codewordDecode
  repeat' first
    | (with_reducible assumption)
    | (with_reducible refine directDecode_ticks _ _ _ _ ?_)
    | (with_reducible refine sameFrame_of (u := noteRetry _ _ _) (noteRetry_only (ps := noFrame) _ _ _ (only_refl _ _) (by decide)) ?_)
    | (with_reducible refine climb_ticks _ _ ?_)
    | (with_reducible refine sameFrame_of (u := recDataErr _ _ _) (recDataErr_only (ps := noFrame) _ _ _ (only_refl _ _) (by decide)) ?_)
    | (with_reducible refine decodeMember_ticks _ _ _ _ _ _ ?_)
    | (with_reducible refine sameFrame_id ?_)
    | (intro)
    | (split)

theorem softDecode_ticks {s0 : State} (id : Nat) (out : DecodeOut) (s : State) (h : SameFrame s0 s) :
    SameFrame s0 (softDecode id out s) := by
  unfold softDecode
  repeat' first
    | (with_reducible assumption)
    | (with_reducible refine deliver_ticks _ _ _ ?_)
    | (with_reducible refine climb_ticks _ _ ?_)
    | (with_reducible refine sameFrame_of (u := recDataErr _ _ _) (recDataErr_only (ps := noFrame) _ _ _ (only_refl _ _) (by decide)) ?_)
    | (with_reducible refine sameFrame_id ?_)
    | (intro)
    | (split)

theorem backStair_ticks {s0 : State} (id : Nat) (s : State) (h : SameFrame s0 s) :
    SameFrame s0 (backStair id s) := by
  unfold backStair
  repeat' first
    | (with_reducible assumption)
    | (with_reducible refine backEnds_ticks _ _ ?_)
    | (with_reducible refine deliver_ticks _ _ _ ?_)
    | (with_reducible refine sameFrame_id ?_)
    | (intro)
    | (extract_lets +onlyGivenNames s1; refine sameFrame_cut s1 ?_ ?_; unfold s1; clear s1; rotate_left; intro hs1; clear_value s1; rotate_right)
    | (extract_lets +onlyGivenNames v1)
    | (split)

theorem startRead_ticks {s0 : State} (x : Nat) (n : Ns) (it : Item) (s : State) (h : SameFrame s0 s) :
    SameFrame s0 (startRead x n it s) := by
  unfold startRead
  repeat' first
    | (with_reducible assumption)
    | (with_reducible refine finishBad_ticks _ _ _ ?_)
    | (with_reducible refine sameFrame_of (u := readUnit _ _ _ _ _) (readUnit_only (ps := noFrame) _ _ _ _ _ (only_refl _ _) (by decide)) ?_)
    | (with_reducible refine sameFrame_of (u := updItem _ _ _) (updItem_only (ps := noFrame) _ _ _ (only_refl _ _) (by decide)) ?_)
    | (with_reducible refine sameFrame_forEach _ _ _ ?_ ?_)
    | (intro)
    | (extract_lets +onlyGivenNames s1; refine sameFrame_cut s1 ?_ ?_; unfold s1; clear s1; rotate_left; intro hs1; clear_value s1; rotate_right)
    | (extract_lets +onlyGivenNames v1)
    | (split)

theorem tryRead_ticks {s0 : State} (x : Nat) (n : Ns) (it : Item) (s : State) (h : SameFrame s0 s) :
    SameFrame s0 (tryRead x n it s) := by
  unfold tryRead
  repeat' first
    | (with_reducible assumption)
    | (with_reducible refine startRead_ticks _ _ _ _ ?_)
    | (with_reducible refine sameFrame_of (u := updItem _ _ _) (updItem_only (ps := noFrame) _ _ _ (only_refl _ _) (by decide)) ?_)
    | (intro)
    | (split)

theorem readRow_ticks {s0 : State} (opc : Nat) (id : CmdId) (s : State) (h : SameFrame s0 s) :
    SameFrame s0 (readRow opc id s) := by
  unfold readRow
  repeat' first
    | (with_reducible assumption)
    | (with_reducible refine finishBad_ticks _ _ _ ?_)
    | (with_reducible refine tryRead_ticks _ _ _ _ ?_)
    | (with_reducible refine sameFrame_id ?_)
    | (intro)
    | (split)

theorem barrierRead_ticks {s0 : State} (id : CmdId) (s : State) (h : SameFrame s0 s) :
    SameFrame s0 (barrierRead id s) := by
  unfold barrierRead
  repeat' first
    | (with_reducible assumption)
    | (with_reducible refine startRead_ticks _ _ _ _ ?_)
    | (with_reducible refine sameFrame_id ?_)
    | (intro)
    | (split)

theorem barrierRelease_ticks {s0 : State} (id : CmdId) (s : State) (h : SameFrame s0 s) :
    SameFrame s0 (barrierRelease id s) := by
  unfold barrierRelease
  repeat' first
    | (with_reducible assumption)
    | (with_reducible refine barrierRead_ticks _ _ ?_)
    | (with_reducible refine barrierWrite_ticks _ _ ?_)
    | (with_reducible refine sameFrame_id ?_)
    | (intro)

theorem sendUnit_ticks {s0 : State} (it : Item) (n : Ns) (u : Nat) (d : List Byte) (m : List Byte) (s : State) (h : SameFrame s0 s) :
    SameFrame s0 (sendUnit it n u d m s) := by
  unfold sendUnit
  repeat' first
    | (with_reducible assumption)
    | (with_reducible refine finishBad_ticks _ _ _ ?_)
    | (with_reducible refine logReadFail_ticks _ _ ?_)
    | (with_reducible refine sameFrame_of (u := dropReads _ _) (dropReads_only (ps := noFrame) _ _ (only_refl _ _) (by decide)) ?_)
    | (with_reducible refine sameFrame_of (u := updCtl _ _ _) (updCtl_only (ps := noFrame) _ _ _ (only_refl _ _) (by decide)) ?_)
    | (with_reducible refine sameFrame_of (u := meter _ _ _) (meter_only (ps := noFrame) _ _ _ (only_refl _ _) (by decide)) ?_)
    | (with_reducible refine sameFrame_of (u := send _ _) (send_only (ps := noFrame) _ _ (only_refl _ _) (by decide)) ?_)
    | (with_reducible refine readDone_ticks _ _ ?_)
    | (with_reducible refine sameFrame_of (u := updItem _ _ _) (updItem_only (ps := noFrame) _ _ _ (only_refl _ _) (by decide)) ?_)
    | (with_reducible refine sameFrame_when _ _ ?_ ?_)
    | (intro)
    | (extract_lets +onlyGivenNames s1; refine sameFrame_cut s1 ?_ ?_; unfold s1; clear s1; rotate_left; intro hs1; clear_value s1; rotate_right)
    | (extract_lets +onlyGivenNames v1; clear_value v1)
    | (extract_lets +onlyGivenNames v1)
    | (split)

theorem rereadUnit_ticks {s0 : State} (i : Nat) (r : RdOp) (it : Item) (s : State) (h : SameFrame s0 s) :
    SameFrame s0 (rereadUnit i r it s) := by
  unfold rereadUnit
  repeat' first
    | (with_reducible assumption)
    | (with_reducible refine sameFrame_of (u := recDataErr _ _ _) (recDataErr_only (ps := noFrame) _ _ _ (only_refl _ _) (by decide)) ?_)
    | (with_reducible refine failUnit_ticks _ _ _ ?_)
    | (with_reducible refine sameFrame_of (u := endRead _ _) (endRead_only (ps := noFrame) _ _ (only_refl _ _) (by decide)) ?_)
    | (with_reducible refine sameFrame_of (u := updRead _ _ _) (updRead_only (ps := noFrame) _ _ _ (only_refl _ _) (by decide)) ?_)
    | (with_reducible refine sameFrame_of (u := again _ _ _) (again_only (ps := noFrame) _ _ _ (only_refl _ _) (by decide)) ?_)
    | (intro)
    | (extract_lets +onlyGivenNames s1; refine sameFrame_cut s1 ?_ ?_; unfold s1; clear s1; rotate_left; intro hs1; clear_value s1; rotate_right)
    | (extract_lets +onlyGivenNames v1)
    | (split)

theorem readEgress_ticks {s0 : State} (id : CmdId) (u : Nat) (s : State) (h : SameFrame s0 s) :
    SameFrame s0 (readEgress id u s) := by
  unfold readEgress
  repeat' first
    | (with_reducible assumption)
    | (with_reducible refine sendUnit_ticks _ _ _ _ _ _ ?_)
    | (with_reducible refine sameFrame_of (u := endRead _ _) (endRead_only (ps := noFrame) _ _ (only_refl _ _) (by decide)) ?_)
    | (with_reducible refine rereadUnit_ticks _ _ _ _ ?_)
    | (with_reducible refine failUnit_ticks _ _ _ ?_)
    | (with_reducible refine sameFrame_of (u := recDataErr _ _ _) (recDataErr_only (ps := noFrame) _ _ _ (only_refl _ _) (by decide)) ?_)
    | (with_reducible refine sameFrame_id ?_)
    | (intro)
    | (extract_lets +onlyGivenNames s1; refine sameFrame_cut s1 ?_ ?_; unfold s1; clear s1; rotate_left; intro hs1; clear_value s1; rotate_right)
    | (extract_lets +onlyGivenNames v1)
    | (split)

theorem dmaFailure_ticks {s0 : State} (id : CmdId) (s : State) (h : SameFrame s0 s) :
    SameFrame s0 (dmaFailure id s) := by
  unfold dmaFailure
  repeat' first
    | (with_reducible assumption)
    | (with_reducible refine failItem_ticks _ _ _ ?_)
    | (with_reducible refine logReadFail_ticks _ _ ?_)
    | (with_reducible refine sameFrame_when _ _ ?_ ?_)
    | (with_reducible refine sameFrame_id ?_)
    | (intro)
    | (extract_lets +onlyGivenNames s1; refine sameFrame_cut s1 ?_ ?_; unfold s1; clear s1; rotate_left; intro hs1; clear_value s1; rotate_right)
    | (extract_lets +onlyGivenNames v1)
    | (split)

end Sys2Proof.Machine
end

