-- ==== Sys2Proof/Laws/Ticks/Dies.lean ====
section
/-! SUPPORT. Operations of Machine/Dies.lean that change the frame state in its count of ties alone. -/

set_option linter.tactic.unusedName false

namespace Sys2Proof.Machine

theorem senseLost_ticks {s0 : State} (n : Nat) (gone : Bool) (s : State) (h : SameFrame s0 s) :
    SameFrame s0 (senseLost n gone s) := by
  unfold senseLost
  repeat' first
    | (with_reducible assumption)
    | (with_reducible refine backFails_ticks _ _ ?_)
    | (with_reducible refine sameFrame_of (u := again _ _ _) (again_only (ps := noFrame) _ _ _ (only_refl _ _) (by decide)) ?_)
    | (with_reducible refine climb_ticks _ _ ?_)
    | (with_reducible refine sameFrame_forEach _ _ _ ?_ ?_)
    | (intro)
    | (extract_lets +onlyGivenNames s1; refine sameFrame_cut s1 ?_ ?_; unfold s1; clear s1; rotate_left; intro hs1; clear_value s1; rotate_right)
    | (extract_lets +onlyGivenNames v1)
    | (split)

theorem loseMember_ticks {s0 : State} (die : Nat) (slow : Bool) (eg : Nat) (s : State) (h : SameFrame s0 s) :
    SameFrame s0 (loseMember die slow eg s) := by
  unfold loseMember
  repeat' first
    | (with_reducible assumption)
    | (with_reducible refine sameFrame_of (u := updGroup _ _ _) (updGroup_only (ps := noFrame) _ _ _ (only_refl _ _) (by decide)) ?_)
    | (with_reducible refine sameFrame_of (u := substitute _ _ _) (substitute_only (ps := noFrame) _ _ _ (only_refl _ _) (by decide)) ?_)
    | (with_reducible refine zoneLosses_ticks _ _ ?_)
    | (with_reducible refine sameFrame_forEach _ _ _ ?_ ?_)
    | (intro)
    | (extract_lets +onlyGivenNames s1; refine sameFrame_cut s1 ?_ ?_; unfold s1; clear s1; rotate_left; intro hs1; clear_value s1; rotate_right)
    | (extract_lets +onlyGivenNames v1)
    | (split)

theorem loseDie_ticks {s0 : State} (die : Nat) (slow : Bool) (s : State) (h : SameFrame s0 s) :
    SameFrame s0 (loseDie die slow s) := by
  unfold loseDie
  repeat' first
    | (with_reducible assumption)
    | (with_reducible refine loseMember_ticks _ _ _ _ ?_)
    | (with_reducible refine sameFrame_forEach _ _ _ ?_ ?_)
    | (intro)

theorem rowFailed_ticks {s0 : State} (o : RowOp) (s : State) (h : SameFrame s0 s) :
    SameFrame s0 (rowFailed o s) := by
  unfold rowFailed
  repeat' first
    | (with_reducible assumption)
    | (with_reducible refine sameFrame_of (u := countRow _ _) (countRow_only (ps := noFrame) _ _ (only_refl _ _) (by decide)) ?_)
    | (with_reducible refine sameFrame_of (u := dropRowOp _ _ _) (dropRowOp_only (ps := noFrame) _ _ _ (only_refl _ _) (by decide)) ?_)
    | (with_reducible refine sameFrame_of (u := updGroup _ _ _) (updGroup_only (ps := noFrame) _ _ _ (only_refl _ _) (by decide)) ?_)
    | (with_reducible refine sameFrame_of (u := closeIfDone _ _) (closeIfDone_only (ps := noFrame) _ _ (only_refl _ _) (by decide)) ?_)
    | (with_reducible refine replaceRow_ticks _ _ ?_)
    | (intro)
    | (extract_lets +onlyGivenNames s1; refine sameFrame_cut s1 ?_ ?_; unfold s1; clear s1; rotate_left; intro hs1; clear_value s1; rotate_right)
    | (extract_lets +onlyGivenNames v1)

theorem programResult_ticks {s0 : State} (eg : Nat) (row : Nat) (m : Nat) (pass : Bool) (s : State) (h : SameFrame s0 s) :
    SameFrame s0 (programResult eg row m pass s) := by
  unfold programResult
  repeat' first
    | (with_reducible assumption)
    | (with_reducible refine sameFrame_of (u := setBlock _ _ _ _) (setBlock_only (ps := noFrame) _ _ _ _ (only_refl _ _) (by decide)) ?_)
    | (with_reducible refine sameFrame_of (u := updMedia _ _) (updMedia_only (ps := noFrame) _ _ (only_refl _ _) (by decide)) ?_)
    | (with_reducible refine rowFailed_ticks _ _ ?_)
    | (with_reducible refine sameFrame_of (u := rowProgrammed _ _) (rowProgrammed_only (ps := noFrame) _ _ (only_refl _ _) (by decide)) ?_)
    | (intro)
    | (extract_lets +onlyGivenNames s1; refine sameFrame_cut s1 ?_ ?_; unfold s1; clear s1; rotate_left; intro hs1; clear_value s1; rotate_right)
    | (extract_lets +onlyGivenNames v1)
    | (split)

theorem opFails_ticks {s0 : State} (die : Nat) (s : State) (h : SameFrame s0 s) :
    SameFrame s0 (opFails die s) := by
  unfold opFails
  repeat' first
    | (with_reducible assumption)
    | (with_reducible refine sameFrame_of (u := updChan _ _ _) (updChan_only (ps := noFrame) _ _ _ (only_refl _ _) (by decide)) ?_)
    | (with_reducible refine programResult_ticks _ _ _ _ _ ?_)
    | (with_reducible refine sameFrame_of (u := updDie _ _ _) (updDie_only (ps := noFrame) _ _ _ (only_refl _ _) (by decide)) ?_)
    | (with_reducible refine sameFrame_of (u := eraseResult _ _ _ _) (eraseResult_only (ps := noFrame) _ _ _ _ (only_refl _ _) (by decide)) ?_)
    | (with_reducible refine sameFrame_forEach _ _ _ ?_ ?_)
    | (intro)
    | (extract_lets +onlyGivenNames s1; refine sameFrame_cut s1 ?_ ?_; unfold s1; clear s1; rotate_left; intro hs1; clear_value s1; rotate_right)
    | (extract_lets +onlyGivenNames v1)
    | (split)

theorem dropRequests_ticks {s0 : State} (die : Nat) (s : State) (h : SameFrame s0 s) :
    SameFrame s0 (dropRequests die s) := by
  unfold dropRequests
  repeat' first
    | (with_reducible assumption)
    | (with_reducible refine sameFrame_of (u := updFlash _ _) (updFlash_only (ps := noFrame) _ _ (only_refl _ _) (by decide)) ?_)
    | (with_reducible refine programResult_ticks _ _ _ _ _ ?_)
    | (with_reducible refine sameFrame_of (u := eraseResult _ _ _ _) (eraseResult_only (ps := noFrame) _ _ _ _ (only_refl _ _) (by decide)) ?_)
    | (with_reducible refine sameFrame_forEach _ _ _ ?_ ?_)
    | (intro)
    | (extract_lets +onlyGivenNames s1; refine sameFrame_cut s1 ?_ ?_; unfold s1; clear s1; rotate_left; intro hs1; clear_value s1; rotate_right)
    | (extract_lets +onlyGivenNames k1; have _ck := fun x => (k1 x : State → State); clear _ck)
    | (extract_lets +onlyGivenNames k1; have _ck := fun x => (k1 x : State); clear _ck)
    | (extract_lets +onlyGivenNames v1)
    | (split)
    | (dsimp only [k1])

theorem retireDie_ticks {s0 : State} (die : Nat) (s : State) (h : SameFrame s0 s) :
    SameFrame s0 (retireDie die s) := by
  unfold retireDie
  repeat' first
    | (with_reducible assumption)
    | (with_reducible refine sameFrame_of (u := updDie _ _ _) (updDie_only (ps := noFrame) _ _ _ (only_refl _ _) (by decide)) ?_)
    | (with_reducible refine sameFrame_of (u := recEvent _ _) (recEvent_only (ps := noFrame) _ _ (only_refl _ _) (by decide)) ?_)
    | (with_reducible refine sameFrame_of (u := updMedia _ _) (updMedia_only (ps := noFrame) _ _ (only_refl _ _) (by decide)) ?_)
    | (with_reducible refine sameFrame_of (u := updChan _ _ _) (updChan_only (ps := noFrame) _ _ _ (only_refl _ _) (by decide)) ?_)
    | (with_reducible refine sameFrame_of (u := updFlash _ _) (updFlash_only (ps := noFrame) _ _ (only_refl _ _) (by decide)) ?_)
    | (with_reducible refine loseDie_ticks _ _ _ ?_)
    | (with_reducible refine senseLost_ticks _ _ _ ?_)
    | (with_reducible refine dropRequests_ticks _ _ ?_)
    | (with_reducible refine opFails_ticks _ _ ?_)
    | (with_reducible refine sameFrame_forEach _ _ _ ?_ ?_)
    | (intro)
    | (extract_lets +onlyGivenNames s1; refine sameFrame_cut s1 ?_ ?_; unfold s1; clear s1; rotate_left; intro hs1; clear_value s1; rotate_right)
    | (extract_lets +onlyGivenNames v1)
    | (split)

theorem applyMark_ticks {s0 : State} (die : Nat) (m : DieMark) (s : State) (h : SameFrame s0 s) :
    SameFrame s0 (applyMark die m s) := by
  unfold applyMark
  repeat' first
    | (with_reducible assumption)
    | (with_reducible refine retireDie_ticks _ _ ?_)
    | (with_reducible refine sameFrame_of (u := updDie _ _ _) (updDie_only (ps := noFrame) _ _ _ (only_refl _ _) (by decide)) ?_)
    | (with_reducible refine loseDie_ticks _ _ _ ?_)
    | (with_reducible refine sameFrame_of (u := recEvent _ _) (recEvent_only (ps := noFrame) _ _ (only_refl _ _) (by decide)) ?_)
    | (with_reducible refine sameFrame_of (u := updMedia _ _) (updMedia_only (ps := noFrame) _ _ (only_refl _ _) (by decide)) ?_)
    | (intro)
    | (extract_lets +onlyGivenNames s1; refine sameFrame_cut s1 ?_ ?_; unfold s1; clear s1; rotate_left; intro hs1; clear_value s1; rotate_right)
    | (extract_lets +onlyGivenNames v1)
    | (split)

theorem applyMarks_ticks {s0 : State}  (s : State) (h : SameFrame s0 s) :
    SameFrame s0 (applyMarks s) := by
  unfold applyMarks
  repeat' first
    | (with_reducible assumption)
    | (with_reducible refine applyMark_ticks _ _ _ ?_)
    | (with_reducible refine sameFrame_forEach _ _ _ ?_ ?_)
    | (intro)

theorem programComplete_ticks {s0 : State} (die : Nat) (bad : List Nat) (s : State) (h : SameFrame s0 s) :
    SameFrame s0 (programComplete die bad s) := by
  unfold programComplete
  repeat' first
    | (with_reducible assumption)
    | (with_reducible refine sameFrame_of (u := updDie _ _ _) (updDie_only (ps := noFrame) _ _ _ (only_refl _ _) (by decide)) ?_)
    | (with_reducible refine sameFrame_of (u := recHist _ _ _) (recHist_only (ps := noFrame) _ _ _ (only_refl _ _) (by decide)) ?_)
    | (with_reducible refine sameFrame_of (u := kickDie _ _) (kickDie_only (ps := noFrame) _ _ (only_refl _ _) (by decide)) ?_)
    | (with_reducible refine sameFrame_of (u := noteStatus _ _ _ _) (noteStatus_only (ps := noFrame) _ _ _ _ (only_refl _ _) (by decide)) ?_)
    | (with_reducible refine programResult_ticks _ _ _ _ _ ?_)
    | (intro)
    | (extract_lets +onlyGivenNames s1; refine sameFrame_cut s1 ?_ ?_; unfold s1; clear s1; rotate_left; intro hs1; clear_value s1; rotate_right)
    | (extract_lets +onlyGivenNames v1)
    | (split)

theorem resense_ticks {s0 : State} (die : Nat) (q : Sense) (s : State) (h : SameFrame s0 s) :
    SameFrame s0 (resense die q s) := by
  unfold resense
  repeat' first
    | (with_reducible assumption)
    | (with_reducible refine sameFrame_of (u := updDie _ _ _) (updDie_only (ps := noFrame) _ _ _ (only_refl _ _) (by decide)) ?_)
    | (with_reducible refine sameFrame_of (u := updChan _ _ _) (updChan_only (ps := noFrame) _ _ _ (only_refl _ _) (by decide)) ?_)
    | (with_reducible refine sameFrame_of (u := updFlash _ _) (updFlash_only (ps := noFrame) _ _ (only_refl _ _) (by decide)) ?_)
    | (with_reducible refine senseLost_ticks _ _ _ ?_)
    | (intro)
    | (extract_lets +onlyGivenNames s1; refine sameFrame_cut s1 ?_ ?_; unfold s1; clear s1; rotate_left; intro hs1; clear_value s1; rotate_right)
    | (extract_lets +onlyGivenNames v1)
    | (split)

theorem statusTimeout_ticks {s0 : State} (die : Nat) (s : State) (h : SameFrame s0 s) :
    SameFrame s0 (statusTimeout die s) := by
  unfold statusTimeout
  repeat' first
    | (with_reducible assumption)
    | (with_reducible refine sameFrame_of (u := updDie _ _ _) (updDie_only (ps := noFrame) _ _ _ (only_refl _ _) (by decide)) ?_)
    | (with_reducible refine resense_ticks _ _ _ ?_)
    | (with_reducible refine sameFrame_of (u := onfi _ _ _ _) (onfi_only (ps := noFrame) _ _ _ _ (only_refl _ _) (by decide)) ?_)
    | (with_reducible refine sameFrame_of (u := kickDie _ _) (kickDie_only (ps := noFrame) _ _ (only_refl _ _) (by decide)) ?_)
    | (with_reducible refine sameFrame_of (u := judgeDie _ _) (judgeDie_only (ps := noFrame) _ _ (only_refl _ _) (by decide)) ?_)
    | (with_reducible refine opFails_ticks _ _ ?_)
    | (with_reducible refine sameFrame_forEach _ _ _ ?_ ?_)
    | (intro)
    | (extract_lets +onlyGivenNames s1; refine sameFrame_cut s1 ?_ ?_; unfold s1; clear s1; rotate_left; intro hs1; clear_value s1; rotate_right)
    | (extract_lets +onlyGivenNames v1)
    | (split)

end Sys2Proof.Machine
end

