-- ==== Sys2Proof/Laws/Ticks/Population.lean ====
section
/-! SUPPORT. Operations of Machine/Population.lean that change the frame state in its count of ties alone. -/

set_option linter.tactic.unusedName false

namespace Sys2Proof.Machine

theorem settleDies_ticks {s0 : State}  (s : State) (h : SameFrame s0 s) :
    SameFrame s0 (settleDies s) := by
  unfold settleDies
  repeat' first
    | (with_reducible assumption)
    | (with_reducible refine loseDie_ticks _ _ _ ?_)
    | (with_reducible refine retireDie_ticks _ _ ?_)
    | (with_reducible refine applyMark_ticks _ _ _ ?_)
    | (with_reducible refine sameFrame_forEach _ _ _ ?_ ?_)
    | (intro)
    | (extract_lets +onlyGivenNames s1; refine sameFrame_cut s1 ?_ ?_; unfold s1; clear s1; rotate_left; intro hs1; clear_value s1; rotate_right)
    | (extract_lets +onlyGivenNames v1)
    | (split)

end Sys2Proof.Machine
end

