-- ==== Sys2Proof/Laws/Ticks/PowerLoss.lean ====
section
/-! SUPPORT. Operations of Machine/PowerLoss.lean that change the frame state in its count of ties alone. -/

set_option linter.tactic.unusedName false

namespace Sys2Proof.Machine

theorem commitRing_ticks {s0 : State} (x0 : Nat) (s : State) (h : SameFrame s0 s) :
    SameFrame s0 (commitRing x0 s) := by
  fun_induction commitRing
  repeat' first
    | (with_reducible assumption)
    | (with_reducible refine record_ticks _ _ _ ?_)
    | (apply_assumption)
    | (intro)
    | (split)

theorem flushEnd_ticks {s0 : State} (bad : List (Nat × Nat)) (s : State) (h : SameFrame s0 s) :
    SameFrame s0 (flushEnd bad s) := by
  unfold flushEnd
  repeat' first
    | (with_reducible assumption)
    | (with_reducible refine sameFrame_of (u := refugeWrite _ _) (refugeWrite_only (ps := noFrame) _ _ (only_refl _ _) (by decide)) ?_)
    | (with_reducible refine commitRing_ticks _ _ ?_)
    | (with_reducible refine sameFrame_of (u := writeBuffer _) (writeBuffer_only (ps := noFrame) _ (only_refl _ _) (by decide)) ?_)
    | (with_reducible refine sameFrame_of (u := closeRecord _ _ _) (closeRecord_only (ps := noFrame) _ _ _ (only_refl _ _) (by decide)) ?_)
    | (with_reducible refine sameFrame_of (u := updPower _ _) (updPower_only (ps := noFrame) _ _ (only_refl _ _) (by decide)) ?_)
    | (with_reducible refine sameFrame_of (u := stopDomains _ _) (stopDomains_only (ps := noFrame) _ _ (only_refl _ _) (by decide)) ?_)
    | (with_reducible refine sameFrame_when _ _ ?_ ?_)
    | (intro)
    | (extract_lets +onlyGivenNames s1; refine sameFrame_cut s1 ?_ ?_; unfold s1; clear s1; rotate_left; intro hs1; clear_value s1; rotate_right)
    | (extract_lets +onlyGivenNames v1)
    | (split)

end Sys2Proof.Machine
end

