-- ==== Sys2Proof/Laws/Ticks/Recovery.lean ====
section
/-! SUPPORT. Operations of Machine/Recovery.lean that change the frame state in its count of ties alone. -/

set_option linter.tactic.unusedName false

namespace Sys2Proof.Machine

theorem replayRefuge_ticks {s0 : State}  (s : State) (h : SameFrame s0 s) :
    SameFrame s0 (replayRefuge s) := by
  unfold replayRefuge
  repeat' first
    | (with_reducible assumption)
    | (with_reducible refine sameFrame_of (u := updMedia _ _) (updMedia_only (ps := noFrame) _ _ (only_refl _ _) (by decide)) ?_)
    | (with_reducible refine setCritical_ticks _ _ ?_)
    | (with_reducible refine sameFrame_of (u := callWrite _) (callWrite_only (ps := noFrame) _ (only_refl _ _) (by decide)) ?_)
    | (with_reducible refine sameFrame_of (u := recDataErr _ _ _) (recDataErr_only (ps := noFrame) _ _ _ (only_refl _ _) (by decide)) ?_)
    | (intro)
    | (extract_lets +onlyGivenNames s1; refine sameFrame_cut s1 ?_ ?_; unfold s1; clear s1; rotate_left; intro hs1; clear_value s1; rotate_right)
    | (extract_lets +onlyGivenNames k1; have _ck := fun x => (k1 x : State → State); clear _ck)
    | (extract_lets +onlyGivenNames k1; have _ck := fun x => (k1 x : State); clear _ck)
    | (extract_lets +onlyGivenNames v1)
    | (split)
    | (refine sameFrame_therm _ ?_)
    | (dsimp only [k1])

theorem loseZone_ticks {s0 : State} (z : Nat) (s : State) (h : SameFrame s0 s) :
    SameFrame s0 (loseZone z s) := by
  unfold loseZone
  repeat' first
    | (with_reducible assumption)
    | (with_reducible refine notifyZone_ticks _ _ _ _ ?_)
    | (with_reducible refine sameFrame_of (u := offlineZone _ _) (offlineZone_only (ps := noFrame) _ _ (only_refl _ _) (by decide)) ?_)
    | (intro)
    | (split)

theorem loseZones_ticks {s0 : State} (l : List Nat) (s : State) (h : SameFrame s0 s) :
    SameFrame s0 (loseZones l s) := by
  unfold loseZones
  repeat' first
    | (with_reducible assumption)
    | (with_reducible refine sameFrame_of (u := recEvent _ _) (recEvent_only (ps := noFrame) _ _ (only_refl _ _) (by decide)) ?_)
    | (with_reducible refine setCritical_ticks _ _ ?_)
    | (with_reducible refine loseZone_ticks _ _ ?_)
    | (with_reducible refine sameFrame_forEach _ _ _ ?_ ?_)
    | (intro)
    | (split)

theorem recoverErases_ticks {s0 : State}  (s : State) (h : SameFrame s0 s) :
    SameFrame s0 (recoverErases s) := by
  unfold recoverErases
  repeat' first
    | (with_reducible assumption)
    | (with_reducible refine sameFrame_of (u := setBlock _ _ _ _) (setBlock_only (ps := noFrame) _ _ _ _ (only_refl _ _) (by decide)) ?_)
    | (with_reducible refine dissolve_ticks _ _ ?_)
    | (with_reducible refine sameFrame_when _ _ ?_ ?_)
    | (with_reducible refine sameFrame_forEach _ _ _ ?_ ?_)
    | (intro)
    | (extract_lets +onlyGivenNames s1; refine sameFrame_cut s1 ?_ ?_; unfold s1; clear s1; rotate_left; intro hs1; clear_value s1; rotate_right)
    | (extract_lets +onlyGivenNames v1)

theorem recoverLosses_ticks {s0 : State} (found : BootFind) (s : State) (h : SameFrame s0 s) :
    SameFrame s0 (recoverLosses found s) := by
  unfold recoverLosses
  repeat' first
    | (with_reducible assumption)
    | (with_reducible refine sameFrame_of (u := setPm _ _ _ _) (setPm_only (ps := noFrame) _ _ _ _ (only_refl _ _) (by decide)) ?_)
    | (with_reducible refine sameFrame_of (u := loseEntry _ _) (loseEntry_only (ps := noFrame) _ _ (only_refl _ _) (by decide)) ?_)
    | (with_reducible refine sameFrame_of (u := recEvent _ _) (recEvent_only (ps := noFrame) _ _ (only_refl _ _) (by decide)) ?_)
    | (with_reducible refine setCritical_ticks _ _ ?_)
    | (with_reducible refine loseZones_ticks _ _ ?_)
    | (with_reducible refine sameFrame_when _ _ ?_ ?_)
    | (with_reducible refine sameFrame_forEach _ _ _ ?_ ?_)
    | (intro)
    | (extract_lets +onlyGivenNames s1; refine sameFrame_cut s1 ?_ ?_; unfold s1; clear s1; rotate_left; intro hs1; clear_value s1; rotate_right)
    | (extract_lets +onlyGivenNames v1)

theorem recoverMaps_ticks {s0 : State} (found : BootFind) (s : State) (h : SameFrame s0 s) :
    SameFrame s0 (recoverMaps found s) := by
  unfold recoverMaps
  repeat' first
    | (with_reducible assumption)
    | (with_reducible refine replayRefuge_ticks _ ?_)
    | (with_reducible refine sameFrame_of (u := loadCheckpoint _) (loadCheckpoint_only (ps := noFrame) _ (only_refl _ _) (by decide)) ?_)
    | (with_reducible refine sameFrame_of (u := recoverZone _ _) (recoverZone_only (ps := noFrame) _ _ (only_refl _ _) (by decide)) ?_)
    | (with_reducible refine sameFrame_of (u := settleGroups _) (settleGroups_only (ps := noFrame) _ (only_refl _ _) (by decide)) ?_)
    | (with_reducible refine recoverErases_ticks _ ?_)
    | (with_reducible refine recoverLosses_ticks _ _ ?_)
    | (with_reducible refine zoneLosses_ticks _ _ ?_)
    | (with_reducible refine sameFrame_forEach _ _ _ ?_ ?_)
    | (intro)
    | (extract_lets +onlyGivenNames s1; refine sameFrame_cut s1 ?_ ?_; unfold s1; clear s1; rotate_left; intro hs1; clear_value s1; rotate_right)
    | (extract_lets +onlyGivenNames v1)

end Sys2Proof.Machine
end

