-- ==== Sys2Proof/Laws/Ticks/Thermal.lean ====
section
/-! SUPPORT. Operations of Machine/Thermal.lean that change the frame state in its count of ties alone. -/

set_option linter.tactic.unusedName false

namespace Sys2Proof.Machine

theorem judgeFn_ticks {s0 : State} (fn : Nat) (s : State) (h : SameFrame s0 s) :
    SameFrame s0 (judgeFn fn s) := by
  unfold judgeFn
  repeat' first
    | (with_reducible assumption)
    | (with_reducible refine sameFrame_of (u := updCtl _ _ _) (updCtl_only (ps := noFrame) _ _ _ (only_refl _ _) (by decide)) ?_)
    | (with_reducible refine notifySmart_ticks _ _ _ ?_)
    | (with_reducible refine sameFrame_of (u := assertAlert _) (assertAlert_only (ps := noFrame) _ (only_refl _ _) (by decide)) ?_)
    | (intro)
    | (extract_lets +onlyGivenNames s1; refine sameFrame_cut s1 ?_ ?_; unfold s1; clear s1; rotate_left; intro hs1; clear_value s1; rotate_right)
    | (extract_lets +onlyGivenNames v1)
    | (split)

theorem judgeWarnings_ticks {s0 : State}  (s : State) (h : SameFrame s0 s) :
    SameFrame s0 (judgeWarnings s) := by
  unfold judgeWarnings
  repeat' first
    | (with_reducible assumption)
    | (with_reducible refine setCritical_ticks _ _ ?_)
    | (with_reducible refine sameFrame_of (u := clearCritical _ _) (clearCritical_only (ps := noFrame) _ _ (only_refl _ _) (by decide)) ?_)
    | (with_reducible refine sameFrame_of (u := driveGpio _) (driveGpio_only (ps := noFrame) _ (only_refl _ _) (by decide)) ?_)
    | (with_reducible refine judgeFn_ticks _ _ ?_)
    | (with_reducible refine sameFrame_forEach _ _ _ ?_ ?_)
    | (intro)
    | (extract_lets +onlyGivenNames s1; refine sameFrame_cut s1 ?_ ?_; unfold s1; clear s1; rotate_left; intro hs1; clear_value s1; rotate_right)
    | (extract_lets +onlyGivenNames v1)
    | (split)

theorem diodeSample_ticks {s0 : State} (d : Nat) (code : Nat) (x2 : Int) (s : State) (h : SameFrame s0 s) :
    SameFrame s0 (diodeSample d code x2 s) := by
  unfold diodeSample
  repeat' first
    | (with_reducible assumption)
    | (with_reducible refine sameFrame_of (u := judgeDiode _ _ _ _) (judgeDiode_only (ps := noFrame) _ _ _ _ (only_refl _ _) (by decide)) ?_)
    | (with_reducible refine sameFrame_of (u := takeDiode _ _ _ _) (takeDiode_only (ps := noFrame) _ _ _ _ (only_refl _ _) (by decide)) ?_)
    | (with_reducible refine sameFrame_of (u := recordTemps _ _) (recordTemps_only (ps := noFrame) _ _ (only_refl _ _) (by decide)) ?_)
    | (with_reducible refine sameFrame_of (u := rorWarning _ _ _) (rorWarning_only (ps := noFrame) _ _ _ (only_refl _ _) (by decide)) ?_)
    | (with_reducible refine judgeWarnings_ticks _ ?_)
    | (with_reducible refine sameFrame_of (u := judgeZone _ _) (judgeZone_only (ps := noFrame) _ _ (only_refl _ _) (by decide)) ?_)
    | (with_reducible refine sameFrame_of (u := judgeFire _ _) (judgeFire_only (ps := noFrame) _ _ (only_refl _ _) (by decide)) ?_)
    | (with_reducible refine sameFrame_when _ _ ?_ ?_)
    | (intro)
    | (extract_lets +onlyGivenNames s1; refine sameFrame_cut s1 ?_ ?_; unfold s1; clear s1; rotate_left; intro hs1; clear_value s1; rotate_right)
    | (extract_lets +onlyGivenNames v1)
    | (split)

theorem applySteps_ticks {s0 : State}  (s : State) (h : SameFrame s0 s) :
    SameFrame s0 (applySteps s) := by
  unfold applySteps
  repeat' first
    | (with_reducible assumption)
    | (with_reducible refine sameFrame_of (u := updTherm _ _) (updTherm_only (ps := noFrame) _ _ (only_refl _ _) (by decide)) ?_)
    | (with_reducible refine sameFrame_of (u := assertAlert _) (assertAlert_only (ps := noFrame) _ (only_refl _ _) (by decide)) ?_)
    | (with_reducible refine judgeWarnings_ticks _ ?_)
    | (with_reducible refine sameFrame_getD ?_ ?_)
    | (with_reducible refine sameFrame_when _ _ ?_ ?_)
    | (intro)
    | (extract_lets +onlyGivenNames s1; refine sameFrame_cut s1 ?_ ?_; unfold s1; clear s1; rotate_left; intro hs1; clear_value s1; rotate_right)
    | (extract_lets +onlyGivenNames v1)
    | (split)

theorem remoteSample_ticks {s0 : State} (r : Nat) (code : Nat) (x2 : Int) (s : State) (h : SameFrame s0 s) :
    SameFrame s0 (remoteSample r code x2 s) := by
  unfold remoteSample
  repeat' first
    | (with_reducible assumption)
    | (with_reducible refine sameFrame_of (u := takeRemote _ _ _ _) (takeRemote_only (ps := noFrame) _ _ _ _ (only_refl _ _) (by decide)) ?_)
    | (with_reducible refine sameFrame_of (u := updTherm _ _) (updTherm_only (ps := noFrame) _ _ (only_refl _ _) (by decide)) ?_)
    | (with_reducible refine sameFrame_of (u := breakRemote _ _) (breakRemote_only (ps := noFrame) _ _ (only_refl _ _) (by decide)) ?_)
    | (with_reducible refine sameFrame_of (u := updRec _ _) (updRec_only (ps := noFrame) _ _ (only_refl _ _) (by decide)) ?_)
    | (with_reducible refine judgeWarnings_ticks _ ?_)
    | (with_reducible refine sameFrame_when _ _ ?_ ?_)
    | (intro)
    | (extract_lets +onlyGivenNames s1; refine sameFrame_cut s1 ?_ ?_; unfold s1; clear s1; rotate_left; intro hs1; clear_value s1; rotate_right)
    | (extract_lets +onlyGivenNames v1)
    | (split)

theorem stuckSensors_ticks {s0 : State}  (s : State) (h : SameFrame s0 s) :
    SameFrame s0 (stuckSensors s) := by
  unfold stuckSensors
  repeat' first
    | (with_reducible assumption)
    | (with_reducible refine judgeWarnings_ticks _ ?_)
    | (with_reducible refine sameFrame_of (u := judgeZone _ _) (judgeZone_only (ps := noFrame) _ _ (only_refl _ _) (by decide)) ?_)
    | (with_reducible refine sameFrame_of (u := breakDiode _ _) (breakDiode_only (ps := noFrame) _ _ (only_refl _ _) (by decide)) ?_)
    | (with_reducible refine sameFrame_of (u := judgeFire _ _) (judgeFire_only (ps := noFrame) _ _ (only_refl _ _) (by decide)) ?_)
    | (with_reducible refine sameFrame_of (u := breakRemote _ _) (breakRemote_only (ps := noFrame) _ _ (only_refl _ _) (by decide)) ?_)
    | (with_reducible refine sameFrame_when _ _ ?_ ?_)
    | (with_reducible refine sameFrame_forEach _ _ _ ?_ ?_)
    | (intro)
    | (extract_lets +onlyGivenNames s1; refine sameFrame_cut s1 ?_ ?_; unfold s1; clear s1; rotate_left; intro hs1; clear_value s1; rotate_right)
    | (extract_lets +onlyGivenNames v1)

end Sys2Proof.Machine
end

