-- ==== Sys2Proof/Laws/Ticks/Boot.lean ====
section
/-! SUPPORT. Operations of Machine/Boot.lean that change the frame state in its count of ties alone. -/

set_option linter.tactic.unusedName false

namespace Sys2Proof.Machine

theorem startCritical_ticks {s0 : State}  (s : State) (h : SameFrame s0 s) :
    SameFrame s0 (startCritical s) := by
  unfold startCritical
  repeat' first
    | (with_reducible assumption)
    | (with_reducible refine setCritical_ticks _ _ ?_)
    | (with_reducible refine judgeWarnings_ticks _ ?_)
    | (with_reducible refine sameFrame_when _ _ ?_ ?_)
    | (intro)
    | (extract_lets +onlyGivenNames s1; refine sameFrame_cut s1 ?_ ?_; unfold s1; clear s1; rotate_left; intro hs1; clear_value s1; rotate_right)
    | (extract_lets +onlyGivenNames v1)

theorem startEngines_ticks {s0 : State} (found : BootFind) (s : State) (h : SameFrame s0 s) :
    SameFrame s0 (startEngines found s) := by
  unfold startEngines
  repeat' first
    | (with_reducible assumption)
    | (with_reducible refine sameFrame_of (u := startRun _) (startRun_only (ps := noFrame) _ (only_refl _ _) (by decide)) ?_)
    | (with_reducible refine sameFrame_of (u := identifyFlash _ _) (identifyFlash_only (ps := noFrame) _ _ (only_refl _ _) (by decide)) ?_)
    | (with_reducible refine settleDies_ticks _ ?_)
    | (with_reducible refine sameFrame_of (u := resumeProgress _) (resumeProgress_only (ps := noFrame) _ (only_refl _ _) (by decide)) ?_)
    | (with_reducible refine recoverMaps_ticks _ _ ?_)
    | (with_reducible refine startCritical_ticks _ ?_)
    | (with_reducible refine sameFrame_of (u := startPolicy _) (startPolicy_only (ps := noFrame) _ (only_refl _ _) (by decide)) ?_)
    | (with_reducible refine sameFrame_of (u := startHoldup _ _) (startHoldup_only (ps := noFrame) _ _ (only_refl _ _) (by decide)) ?_)
    | (with_reducible refine sameFrame_of (u := buildAreas _) (buildAreas_only (ps := noFrame) _ (only_refl _ _) (by decide)) ?_)
    | (intro)
    | (extract_lets +onlyGivenNames s1; refine sameFrame_cut s1 ?_ ?_; unfold s1; clear s1; rotate_left; intro hs1; clear_value s1; rotate_right)
    | (extract_lets +onlyGivenNames v1)
    | (split)

theorem bootMain_ticks {s0 : State} (found : BootFind) (n : Nat) (s : State) (h : SameFrame s0 s) :
    SameFrame s0 (bootMain found n s) := by
  unfold bootMain
  repeat' first
    | (with_reducible assumption)
    | (with_reducible refine sameFrame_of (u := updSlotAt _ _ _) (updSlotAt_only (ps := noFrame) _ _ _ (only_refl _ _) (by decide)) ?_)
    | (with_reducible refine sameFrame_of (u := updFw _ _) (updFw_only (ps := noFrame) _ _ (only_refl _ _) (by decide)) ?_)
    | (with_reducible refine sameFrame_of (u := recEvent _ _) (recEvent_only (ps := noFrame) _ _ (only_refl _ _) (by decide)) ?_)
    | (with_reducible refine sameFrame_of (u := updRec _ _) (updRec_only (ps := noFrame) _ _ (only_refl _ _) (by decide)) ?_)
    | (with_reducible refine startEngines_ticks _ _ ?_)
    | (with_reducible refine sameFrame_of (u := configFault _) (configFault_only (ps := noFrame) _ (only_refl _ _) (by decide)) ?_)
    | (with_reducible refine sameFrame_when _ _ ?_ ?_)
    | (intro)
    | (extract_lets +onlyGivenNames s1; refine sameFrame_cut s1 ?_ ?_; unfold s1; clear s1; rotate_left; intro hs1; clear_value s1; rotate_right)
    | (extract_lets +onlyGivenNames v1)
    | (split)

theorem tryImages_ticks {s0 : State} (found : BootFind) (x1 : Nat) (x2 : Nat) (s : State) (h : SameFrame s0 s) :
    SameFrame s0 (tryImages found x1 x2 s) := by
  fun_induction tryImages
  repeat' first
    | (with_reducible assumption)
    | (with_reducible refine sameFrame_of (u := enterCellar _ _) (enterCellar_only (ps := noFrame) _ _ (only_refl _ _) (by decide)) ?_)
    | (with_reducible refine sameFrame_of (u := failCopy _ _ _) (failCopy_only (ps := noFrame) _ _ _ (only_refl _ _) (by decide)) ?_)
    | (with_reducible refine bootMain_ticks _ _ _ ?_)
    | (with_reducible refine sameFrame_of (u := updPower _ _) (updPower_only (ps := noFrame) _ _ (only_refl _ _) (by decide)) ?_)
    | (with_reducible refine sameFrame_of (u := updFw _ _) (updFw_only (ps := noFrame) _ _ (only_refl _ _) (by decide)) ?_)
    | (apply_assumption)
    | (intro)
    | (extract_lets +onlyGivenNames s1; refine sameFrame_cut s1 ?_ ?_; unfold s1; clear s1; rotate_left; intro hs1; clear_value s1; rotate_right)
    | (extract_lets +onlyGivenNames v1)
    | (split)

theorem startImages_ticks {s0 : State} (found : BootFind) (s : State) (h : SameFrame s0 s) :
    SameFrame s0 (startImages found s) := by
  unfold startImages
  repeat' first
    | (with_reducible assumption)
    | (with_reducible refine tryImages_ticks _ _ _ _ ?_)
    | (intro)

theorem readyTimeout_ticks {s0 : State} (found : BootFind) (s : State) (h : SameFrame s0 s) :
    SameFrame s0 (readyTimeout found s) := by
  unfold readyTimeout
  repeat' first
    | (with_reducible assumption)
    | (with_reducible refine tryImages_ticks _ _ _ _ ?_)
    | (intro)
    | (extract_lets +onlyGivenNames s1; refine sameFrame_cut s1 ?_ ?_; unfold s1; clear s1; rotate_left; intro hs1; clear_value s1; rotate_right)
    | (extract_lets +onlyGivenNames v1)
    | (split)

theorem startDevice_ticks {s0 : State} (found : BootFind) (s : State) (h : SameFrame s0 s) :
    SameFrame s0 (startDevice found s) := by
  unfold startDevice
  repeat' first
    | (with_reducible assumption)
    | (with_reducible refine sameFrame_of (u := enterCellar _ _) (enterCellar_only (ps := noFrame) _ _ (only_refl _ _) (by decide)) ?_)
    | (with_reducible refine startImages_ticks _ _ ?_)
    | (intro)
    | (extract_lets +onlyGivenNames s1; refine sameFrame_cut s1 ?_ ?_; unfold s1; clear s1; rotate_left; intro hs1; clear_value s1; rotate_right)
    | (extract_lets +onlyGivenNames v1)
    | (split)
    | (refine sameFrame_pins _ ?_)

theorem cellarFlush_ticks {s0 : State}  (s : State) (h : SameFrame s0 s) :
    SameFrame s0 (cellarFlush s) := by
  unfold cellarFlush
  repeat' first
    | (with_reducible assumption)
    | (with_reducible refine sameFrame_of (u := writeBuffer _) (writeBuffer_only (ps := noFrame) _ (only_refl _ _) (by decide)) ?_)
    | (with_reducible refine commitRing_ticks _ _ ?_)
    | (with_reducible refine sameFrame_of (u := refugeWrite _ _) (refugeWrite_only (ps := noFrame) _ _ (only_refl _ _) (by decide)) ?_)
    | (intro)

theorem cellarEnter_ticks {s0 : State}  (s : State) (h : SameFrame s0 s) :
    SameFrame s0 (cellarEnter s) := by
  unfold cellarEnter
  repeat' first
    | (with_reducible assumption)
    | (with_reducible refine sameFrame_of (u := askRefused _ _ _) (askRefused_only (ps := noFrame) _ _ _ (only_refl _ _) (by decide)) ?_)
    | (with_reducible refine sameFrame_of (u := discardProposals _) (discardProposals_only (ps := noFrame) _ (only_refl _ _) (by decide)) ?_)
    | (with_reducible refine sameFrame_of (u := dropWork _) (dropWork_only (ps := noFrame) _ (only_refl _ _) (by decide)) ?_)
    | (with_reducible refine cellarFlush_ticks _ ?_)
    | (with_reducible refine sameFrame_of (u := updProt _ _) (updProt_only (ps := noFrame) _ _ (only_refl _ _) (by decide)) ?_)
    | (with_reducible refine sameFrame_of (u := updFw _ _) (updFw_only (ps := noFrame) _ _ (only_refl _ _) (by decide)) ?_)
    | (with_reducible refine sameFrame_of (u := askOk _ _ _) (askOk_only (ps := noFrame) _ _ _ (only_refl _ _) (by decide)) ?_)
    | (with_reducible refine sameFrame_of (u := enterCellar _ _) (enterCellar_only (ps := noFrame) _ _ (only_refl _ _) (by decide)) ?_)
    | (intro)
    | (extract_lets +onlyGivenNames s1; refine sameFrame_cut s1 ?_ ?_; unfold s1; clear s1; rotate_left; intro hs1; clear_value s1; rotate_right)
    | (extract_lets +onlyGivenNames v1)
    | (split)

theorem leaveCellar_ticks {s0 : State} (found : BootFind) (s : State) (h : SameFrame s0 s) :
    SameFrame s0 (leaveCellar found s) := by
  unfold leaveCellar
  repeat' first
    | (with_reducible assumption)
    | (with_reducible refine sameFrame_of (u := updProt _ _) (updProt_only (ps := noFrame) _ _ (only_refl _ _) (by decide)) ?_)
    | (with_reducible refine sameFrame_of (u := updFw _ _) (updFw_only (ps := noFrame) _ _ (only_refl _ _) (by decide)) ?_)
    | (with_reducible refine sameFrame_of (u := cellarMailboxReset _) (cellarMailboxReset_only (ps := noFrame) _ (only_refl _ _) (by decide)) ?_)
    | (with_reducible refine startImages_ticks _ _ ?_)
    | (with_reducible refine sameFrame_of (u := updPower _ _) (updPower_only (ps := noFrame) _ _ (only_refl _ _) (by decide)) ?_)
    | (intro)
    | (extract_lets +onlyGivenNames s1; refine sameFrame_cut s1 ?_ ?_; unfold s1; clear s1; rotate_left; intro hs1; clear_value s1; rotate_right)
    | (extract_lets +onlyGivenNames v1)
    | (split)

theorem cellarExit_ticks {s0 : State} (found : BootFind) (s : State) (h : SameFrame s0 s) :
    SameFrame s0 (cellarExit found s) := by
  unfold cellarExit
  repeat' first
    | (with_reducible assumption)
    | (refine sameFrame_of (drawNat_only2 (ps := noFrame) (only_refl _ _) (by decide) (by assumption)) ?_)
    | (with_reducible refine sameFrame_of (drawNat_only (ps := noFrame) (only_refl _ _) (by decide)) ?_)
    | (with_reducible refine sameFrame_of (u := askRefused _ _ _) (askRefused_only (ps := noFrame) _ _ _ (only_refl _ _) (by decide)) ?_)
    | (with_reducible refine leaveCellar_ticks _ _ ?_)
    | (with_reducible refine sameFrame_of (u := askOk _ _ _) (askOk_only (ps := noFrame) _ _ _ (only_refl _ _) (by decide)) ?_)
    | (intro)
    | (extract_lets +onlyGivenNames s1; refine sameFrame_cut s1 ?_ ?_; unfold s1; clear s1; rotate_left; intro hs1; clear_value s1; rotate_right)
    | (extract_lets +onlyGivenNames v1)
    | (split)

theorem cellarAutoExit_ticks {s0 : State} (found : BootFind) (s : State) (h : SameFrame s0 s) :
    SameFrame s0 (cellarAutoExit found s) := by
  unfold cellarAutoExit
  repeat' first
    | (with_reducible assumption)
    | (with_reducible refine leaveCellar_ticks _ _ ?_)
    | (intro)
    | (split)

end Sys2Proof.Machine
end

