-- ==== Sys2Proof/Laws/Ticks/Mgmt.lean ====
section
/-! SUPPORT. Operations of Machine/Mgmt.lean that change the frame state in its count of ties alone. -/

set_option linter.tactic.unusedName false

namespace Sys2Proof.Machine

theorem miTunnel_ticks {s0 : State} (op : Nat → Bool) (it : Item) (s : State) (h : SameFrame s0 s) :
    SameFrame s0 (miTunnel op it s) := by
  unfold miTunnel
  split
  · exact h
  extract_lets o r b
  have hr : SameFrame s0 r.2 := by
    unfold r; split
    · exact sameFrame_of (miCommand_only (ps := noFrame) _ _ _ (only_refl _ _) (by decide)) h
    · exact h
  exact finish_ticks _ _ _ _ _ (sameFrame_when _ _ hr fun t ht =>
    sameFrame_of (send_only (ps := noFrame) _ _ (only_refl _ _) (by decide)) ht)

theorem mgmtRestart_ticks {s0 : State}  (s : State) (h : SameFrame s0 s) :
    SameFrame s0 (mgmtRestart s) := by
  unfold mgmtRestart
  repeat' first
    | (with_reducible assumption)
    | (with_reducible refine sameFrame_of (u := updMgmt _ _) (updMgmt_only (ps := noFrame) _ _ (only_refl _ _) (by decide)) ?_)
    | (with_reducible refine judgeWarnings_ticks _ ?_)
    | (with_reducible refine sameFrame_of (u := judgeOver _ _ _) (judgeOver_only (ps := noFrame) _ _ _ (only_refl _ _) (by decide)) ?_)
    | (with_reducible refine sameFrame_of (u := mctpDispatch _ _ _) (mctpDispatch_only (ps := noFrame) _ _ _ (only_refl _ _) (by decide)) ?_)
    | (with_reducible refine sameFrame_forEach _ _ _ ?_ ?_)
    | (intro)
    | (extract_lets +onlyGivenNames s1; refine sameFrame_cut s1 ?_ ?_; unfold s1; clear s1; rotate_left; intro hs1; clear_value s1; rotate_right)
    | (extract_lets +onlyGivenNames v1)
    | (split)

end Sys2Proof.Machine
end

