-- ==== Sys2Proof/Laws/Ticks/Firmware.lean ====
section
/-! SUPPORT. Operations of Machine/Firmware.lean that change the frame state in its count of ties alone. -/

set_option linter.tactic.unusedName false

namespace Sys2Proof.Machine

theorem endStaging_ticks {s0 : State} (g : Staging) (checks : ImageChecks) (bad : State → State) (s : State) (h : SameFrame s0 s) (hf0 : ∀ t, SameFrame s0 t → SameFrame s0 (bad t)) :
    SameFrame s0 (endStaging g checks bad s) := by
  unfold endStaging
  repeat' first
    | (with_reducible assumption)
    | (with_reducible refine hf0 _ ?_)
    | (with_reducible refine sameFrame_of (u := setOutcome _ _ _) (setOutcome_only (ps := noFrame) _ _ _ (only_refl _ _) (by decide)) ?_)
    | (with_reducible refine sameFrame_of (u := stageFails _ _ _) (stageFails_only (ps := noFrame) _ _ _ (only_refl _ _) (by decide)) ?_)
    | (with_reducible refine sameFrame_of (u := beginWrite _ _ _) (beginWrite_only (ps := noFrame) _ _ _ (only_refl _ _) (by decide)) ?_)
    | (intro)
    | (extract_lets +onlyGivenNames s1; refine sameFrame_cut s1 ?_ ?_; unfold s1; clear s1; rotate_left; intro hs1; clear_value s1; rotate_right)
    | (extract_lets +onlyGivenNames v1)
    | (split)

theorem stagedReply_ticks {s0 : State} (g : Staging) (i : Image) (s : State) (h : SameFrame s0 s) :
    SameFrame s0 (stagedReply g i s) := by
  unfold stagedReply
  repeat' first
    | (with_reducible assumption)
    | (with_reducible refine sameFrame_of (u := finalReply _ _ _ _ _) (finalReply_only (ps := noFrame) _ _ _ _ _ (only_refl _ _) (by decide)) ?_)
    | (with_reducible refine sameFrame_of (u := ownerLater _ _ _) (ownerLater_only (ps := noFrame) _ _ _ (only_refl _ _) (by decide)) ?_)
    | (with_reducible refine finishOk_ticks _ _ ?_)
    | (intro)
    | (split)

theorem stageWritten_ticks {s0 : State}  (s : State) (h : SameFrame s0 s) :
    SameFrame s0 (stageWritten s) := by
  unfold stageWritten
  repeat' first
    | (with_reducible assumption)
    | (with_reducible refine sameFrame_of (u := updSlotAt _ _ _) (updSlotAt_only (ps := noFrame) _ _ _ (only_refl _ _) (by decide)) ?_)
    | (with_reducible refine sameFrame_of (u := updFw _ _) (updFw_only (ps := noFrame) _ _ (only_refl _ _) (by decide)) ?_)
    | (with_reducible refine sameFrame_of (u := writeCfg _ _) (writeCfg_only (ps := noFrame) _ _ (only_refl _ _) (by decide)) ?_)
    | (with_reducible refine stagedReply_ticks _ _ _ ?_)
    | (with_reducible refine sameFrame_of (u := setOutcome _ _ _) (setOutcome_only (ps := noFrame) _ _ _ (only_refl _ _) (by decide)) ?_)
    | (intro)
    | (extract_lets +onlyGivenNames s1; refine sameFrame_cut s1 ?_ ?_; unfold s1; clear s1; rotate_left; intro hs1; clear_value s1; rotate_right)
    | (extract_lets +onlyGivenNames v1)
    | (split)

theorem imageDownload_ticks {s0 : State} (dma : Dma) (it : Item) (s : State) (h : SameFrame s0 s) :
    SameFrame s0 (imageDownload dma it s) := by
  unfold imageDownload
  repeat' first
    | (with_reducible assumption)
    | (with_reducible refine finishBad_ticks _ _ _ ?_)
    | (with_reducible refine sameFrame_of (u := noteReason _ _) (noteReason_only (ps := noFrame) _ _ (only_refl _ _) (by decide)) ?_)
    | (with_reducible refine finishOk_ticks _ _ ?_)
    | (refine sameFrame_of (takeChunk_only2 (ps := noFrame) _ _ _ _ _ (only_refl _ _) (by decide) (by assumption)) ?_)
    | (with_reducible refine sameFrame_of (takeChunk_only (ps := noFrame) _ _ _ _ _ (only_refl _ _) (by decide)) ?_)
    | (intro)
    | (extract_lets +onlyGivenNames s1; refine sameFrame_cut s1 ?_ ?_; unfold s1; clear s1; rotate_left; intro hs1; clear_value s1; rotate_right)
    | (extract_lets +onlyGivenNames v1)
    | (split)

theorem commitReplace_ticks {s0 : State} (checks : ImageChecks) (it : Item) (s : State) (h : SameFrame s0 s) :
    SameFrame s0 (commitReplace checks it s) := by
  unfold commitReplace
  repeat' first
    | (with_reducible assumption)
    | (with_reducible refine finishBad_ticks _ _ _ ?_)
    | (with_reducible refine sameFrame_of (u := noteReason _ _) (noteReason_only (ps := noFrame) _ _ (only_refl _ _) (by decide)) ?_)
    | (with_reducible refine endStaging_ticks _ _ _ _ ?_ ?_)
    | (intro)
    | (extract_lets +onlyGivenNames s1; refine sameFrame_cut s1 ?_ ?_; unfold s1; clear s1; rotate_left; intro hs1; clear_value s1; rotate_right)
    | (extract_lets +onlyGivenNames v1)
    | (split)

theorem dropSched_ticks {s0 : State} (reason : Nat) (s : State) (h : SameFrame s0 s) :
    SameFrame s0 (dropSched reason s) := by
  unfold dropSched
  repeat' first
    | (with_reducible assumption)
    | (with_reducible refine sameFrame_of (u := updFw _ _) (updFw_only (ps := noFrame) _ _ (only_refl _ _) (by decide)) ?_)
    | (with_reducible refine sameFrame_of (u := finalReply _ _ _ _ _) (finalReply_only (ps := noFrame) _ _ _ _ _ (only_refl _ _) (by decide)) ?_)
    | (with_reducible refine finishBad_ticks _ _ _ ?_)
    | (intro)
    | (extract_lets +onlyGivenNames s1; refine sameFrame_cut s1 ?_ ?_; unfold s1; clear s1; rotate_left; intro hs1; clear_value s1; rotate_right)
    | (extract_lets +onlyGivenNames v1)
    | (split)

theorem takeSched_ticks {s0 : State} (c : Sched) (s : State) (h : SameFrame s0 s) :
    SameFrame s0 (takeSched c s) := by
  unfold takeSched
  repeat' first
    | (with_reducible assumption)
    | (with_reducible refine sameFrame_of (u := updFw _ _) (updFw_only (ps := noFrame) _ _ (only_refl _ _) (by decide)) ?_)
    | (with_reducible refine dropSched_ticks _ _ ?_)
    | (intro)

theorem fwSchedule_ticks {s0 : State} (copyOk : Bool) (r : Posted) (s : State) (h : SameFrame s0 s) :
    SameFrame s0 (fwSchedule copyOk r s) := by
  unfold fwSchedule
  repeat' first
    | (with_reducible assumption)
    | (with_reducible refine sameFrame_of (u := replyInvalid _ _ _) (replyInvalid_only (ps := noFrame) _ _ _ (only_refl _ _) (by decide)) ?_)
    | (with_reducible refine sameFrame_of (u := replyRefused _ _ _) (replyRefused_only (ps := noFrame) _ _ _ (only_refl _ _) (by decide)) ?_)
    | (with_reducible refine sameFrame_of (u := noteReason _ _) (noteReason_only (ps := noFrame) _ _ (only_refl _ _) (by decide)) ?_)
    | (with_reducible refine sameFrame_of (u := replyPending _ _) (replyPending_only (ps := noFrame) _ _ (only_refl _ _) (by decide)) ?_)
    | (with_reducible refine sameFrame_of (u := forwardMsg _ _) (forwardMsg_only (ps := noFrame) _ _ (only_refl _ _) (by decide)) ?_)
    | (with_reducible refine sameFrame_of (u := finalReply _ _ _ _ _) (finalReply_only (ps := noFrame) _ _ _ _ _ (only_refl _ _) (by decide)) ?_)
    | (with_reducible refine takeSched_ticks _ _ ?_)
    | (with_reducible refine sameFrame_when _ _ ?_ ?_)
    | (intro)
    | (extract_lets +onlyGivenNames s1; refine sameFrame_cut s1 ?_ ?_; unfold s1; clear s1; rotate_left; intro hs1; clear_value s1; rotate_right)
    | (extract_lets +onlyGivenNames v1)
    | (split)

theorem commitActivate_ticks {s0 : State} (copyOk : Bool) (it : Item) (s : State) (h : SameFrame s0 s) :
    SameFrame s0 (commitActivate copyOk it s) := by
  unfold commitActivate
  repeat' first
    | (with_reducible assumption)
    | (with_reducible refine finishBad_ticks _ _ _ ?_)
    | (with_reducible refine sameFrame_of (u := noteReason _ _) (noteReason_only (ps := noFrame) _ _ (only_refl _ _) (by decide)) ?_)
    | (with_reducible refine takeSched_ticks _ _ ?_)
    | (intro)
    | (extract_lets +onlyGivenNames s1; refine sameFrame_cut s1 ?_ ?_; unfold s1; clear s1; rotate_left; intro hs1; clear_value s1; rotate_right)
    | (extract_lets +onlyGivenNames v1)
    | (split)

theorem cancelSched_ticks {s0 : State} (reason : Nat) (s : State) (h : SameFrame s0 s) :
    SameFrame s0 (cancelSched reason s) := by
  unfold cancelSched
  repeat' first
    | (with_reducible assumption)
    | (with_reducible refine sameFrame_of (u := updFw _ _) (updFw_only (ps := noFrame) _ _ (only_refl _ _) (by decide)) ?_)
    | (with_reducible refine dropSched_ticks _ _ ?_)
    | (intro)
    | (split)

theorem fwCancel_ticks {s0 : State} (r : Posted) (s : State) (h : SameFrame s0 s) :
    SameFrame s0 (fwCancel r s) := by
  unfold fwCancel
  repeat' first
    | (with_reducible assumption)
    | (with_reducible refine sameFrame_of (u := replyRefused _ _ _) (replyRefused_only (ps := noFrame) _ _ _ (only_refl _ _) (by decide)) ?_)
    | (with_reducible refine sameFrame_of (u := noteReason _ _) (noteReason_only (ps := noFrame) _ _ (only_refl _ _) (by decide)) ?_)
    | (with_reducible refine sameFrame_of (u := forwardMsg _ _) (forwardMsg_only (ps := noFrame) _ _ (only_refl _ _) (by decide)) ?_)
    | (with_reducible refine sameFrame_of (u := replyOk _ _ _) (replyOk_only (ps := noFrame) _ _ _ (only_refl _ _) (by decide)) ?_)
    | (with_reducible refine cancelSched_ticks _ _ ?_)
    | (with_reducible refine sameFrame_when _ _ ?_ ?_)
    | (intro)
    | (extract_lets +onlyGivenNames s1; refine sameFrame_cut s1 ?_ ?_; unfold s1; clear s1; rotate_left; intro hs1; clear_value s1; rotate_right)
    | (extract_lets +onlyGivenNames v1)
    | (split)

theorem startActivation_ticks {s0 : State}  (s : State) (h : SameFrame s0 s) :
    SameFrame s0 (startActivation s) := by
  unfold startActivation
  repeat' first
    | (with_reducible assumption)
    | (with_reducible refine sameFrame_of (u := updFw _ _) (updFw_only (ps := noFrame) _ _ (only_refl _ _) (by decide)) ?_)
    | (with_reducible refine dropSched_ticks _ _ ?_)
    | (with_reducible refine sameFrame_of (u := noteReason _ _) (noteReason_only (ps := noFrame) _ _ (only_refl _ _) (by decide)) ?_)
    | (with_reducible refine sameFrame_of (u := setOutcome _ _ _) (setOutcome_only (ps := noFrame) _ _ _ (only_refl _ _) (by decide)) ?_)
    | (with_reducible refine sameFrame_of (u := holdPorch _) (holdPorch_only (ps := noFrame) _ (only_refl _ _) (by decide)) ?_)
    | (with_reducible refine notifyActivation_ticks _ _ ?_)
    | (with_reducible refine sameFrame_forEach _ _ _ ?_ ?_)
    | (intro)
    | (extract_lets +onlyGivenNames s1; refine sameFrame_cut s1 ?_ ?_; unfold s1; clear s1; rotate_left; intro hs1; clear_value s1; rotate_right)
    | (extract_lets +onlyGivenNames v1)
    | (split)

theorem microcodeSwitch_ticks {s0 : State}  (s : State) (h : SameFrame s0 s) :
    SameFrame s0 (microcodeSwitch s) := by
  unfold microcodeSwitch
  repeat' first
    | (with_reducible assumption)
    | (with_reducible refine mgmtRestart_ticks _ ?_)
    | (with_reducible refine sameFrame_of (u := updHold _ _) (updHold_only (ps := noFrame) _ _ (only_refl _ _) (by decide)) ?_)
    | (with_reducible refine sameFrame_when _ _ ?_ ?_)
    | (intro)
    | (extract_lets +onlyGivenNames s1; refine sameFrame_cut s1 ?_ ?_; unfold s1; clear s1; rotate_left; intro hs1; clear_value s1; rotate_right)
    | (extract_lets +onlyGivenNames v1)
    | (split)

theorem finishHold_ticks {s0 : State}  (s : State) (h : SameFrame s0 s) :
    SameFrame s0 (finishHold s) := by
  unfold finishHold
  repeat' first
    | (with_reducible assumption)
    | (with_reducible refine sameFrame_of (u := updFw _ _) (updFw_only (ps := noFrame) _ _ (only_refl _ _) (by decide)) ?_)
    | (with_reducible refine sameFrame_of (u := holdEnds _ _) (holdEnds_only (ps := noFrame) _ _ (only_refl _ _) (by decide)) ?_)
    | (with_reducible refine sameFrame_of (u := recEvent _ _) (recEvent_only (ps := noFrame) _ _ (only_refl _ _) (by decide)) ?_)
    | (with_reducible refine sameFrame_of (u := releaseHeld _) (releaseHeld_only (ps := noFrame) _ (only_refl _ _) (by decide)) ?_)
    | (with_reducible refine sameFrame_of (u := writeCfg _ _) (writeCfg_only (ps := noFrame) _ _ (only_refl _ _) (by decide)) ?_)
    | (with_reducible refine sameFrame_of (u := setOutcome _ _ _) (setOutcome_only (ps := noFrame) _ _ _ (only_refl _ _) (by decide)) ?_)
    | (with_reducible refine sameFrame_of (u := reopen _) (reopen_only (ps := noFrame) _ (only_refl _ _) (by decide)) ?_)
    | (with_reducible refine finishOk_ticks _ _ ?_)
    | (intro)
    | (extract_lets +onlyGivenNames s1; refine sameFrame_cut s1 ?_ ?_; unfold s1; clear s1; rotate_left; intro hs1; clear_value s1; rotate_right)
    | (extract_lets +onlyGivenNames v1; clear_value v1)
    | (extract_lets +onlyGivenNames v1)
    | (split)

theorem holdExpiry_ticks {s0 : State}  (s : State) (h : SameFrame s0 s) :
    SameFrame s0 (holdExpiry s) := by
  unfold holdExpiry
  repeat' first
    | (with_reducible assumption)
    | (with_reducible refine failItem_ticks _ _ _ ?_)
    | (with_reducible refine finishBad_ticks _ _ _ ?_)
    | (refine sameFrame_of (drawNat_only2 (ps := noFrame) (only_refl _ _) (by decide) (by assumption)) ?_)
    | (with_reducible refine sameFrame_of (drawNat_only (ps := noFrame) (only_refl _ _) (by decide)) ?_)
    | (with_reducible refine sameFrame_of (u := updFw _ _) (updFw_only (ps := noFrame) _ _ (only_refl _ _) (by decide)) ?_)
    | (with_reducible refine sameFrame_of (u := holdEnds _ _) (holdEnds_only (ps := noFrame) _ _ (only_refl _ _) (by decide)) ?_)
    | (with_reducible refine sameFrame_of (u := updSlotAt _ _ _) (updSlotAt_only (ps := noFrame) _ _ _ (only_refl _ _) (by decide)) ?_)
    | (with_reducible refine sameFrame_of (u := reopen _) (reopen_only (ps := noFrame) _ (only_refl _ _) (by decide)) ?_)
    | (with_reducible refine mgmtRestart_ticks _ ?_)
    | (with_reducible refine sameFrame_of (u := recEvent _ _) (recEvent_only (ps := noFrame) _ _ (only_refl _ _) (by decide)) ?_)
    | (with_reducible refine sameFrame_of (u := setOutcome _ _ _) (setOutcome_only (ps := noFrame) _ _ _ (only_refl _ _) (by decide)) ?_)
    | (with_reducible refine sameFrame_of (u := releaseHeld _) (releaseHeld_only (ps := noFrame) _ (only_refl _ _) (by decide)) ?_)
    | (with_reducible refine sameFrame_forEach _ _ _ ?_ ?_)
    | (intro)
    | (extract_lets +onlyGivenNames s1; refine sameFrame_cut s1 ?_ ?_; unfold s1; clear s1; rotate_left; intro hs1; clear_value s1; rotate_right)
    | (extract_lets +onlyGivenNames v1)
    | (split)

theorem scheduleArrival_ticks {s0 : State} (imageId : Word) (x1 : Nat) (s : State) (h : SameFrame s0 s) :
    SameFrame s0 (scheduleArrival imageId x1 s) := by
  unfold scheduleArrival
  repeat' first
    | (with_reducible assumption)
    | (with_reducible refine sameFrame_of (u := corrRefuse _ _) (corrRefuse_only (ps := noFrame) _ _ (only_refl _ _) (by decide)) ?_)
    | (with_reducible refine sameFrame_of (u := forwardMsg _ _) (forwardMsg_only (ps := noFrame) _ _ (only_refl _ _) (by decide)) ?_)
    | (with_reducible refine sameFrame_of (u := setOutcome _ _ _) (setOutcome_only (ps := noFrame) _ _ _ (only_refl _ _) (by decide)) ?_)
    | (with_reducible refine sameFrame_of (u := noteReason _ _) (noteReason_only (ps := noFrame) _ _ (only_refl _ _) (by decide)) ?_)
    | (with_reducible refine takeSched_ticks _ _ ?_)
    | (intro)
    | (extract_lets +onlyGivenNames s1; refine sameFrame_cut s1 ?_ ?_; unfold s1; clear s1; rotate_left; intro hs1; clear_value s1; rotate_right)
    | (extract_lets +onlyGivenNames v1)
    | (split)

theorem cancelArrival_ticks {s0 : State}  (s : State) (h : SameFrame s0 s) :
    SameFrame s0 (cancelArrival s) := by
  unfold cancelArrival
  repeat' first
    | (with_reducible assumption)
    | (with_reducible refine sameFrame_of (u := forwardMsg _ _) (forwardMsg_only (ps := noFrame) _ _ (only_refl _ _) (by decide)) ?_)
    | (with_reducible refine sameFrame_of (u := setOutcome _ _ _) (setOutcome_only (ps := noFrame) _ _ _ (only_refl _ _) (by decide)) ?_)
    | (with_reducible refine sameFrame_of (u := noteReason _ _) (noteReason_only (ps := noFrame) _ _ (only_refl _ _) (by decide)) ?_)
    | (with_reducible refine cancelSched_ticks _ _ ?_)
    | (intro)
    | (extract_lets +onlyGivenNames s1; refine sameFrame_cut s1 ?_ ?_; unfold s1; clear s1; rotate_left; intro hs1; clear_value s1; rotate_right)
    | (extract_lets +onlyGivenNames v1)
    | (split)

end Sys2Proof.Machine
end

