-- ==== Sys2Proof/Laws/Ticks/Identify.lean ====
section
/-! SUPPORT. Operations of Machine/Identify.lean that change the frame state in its count of ties alone. -/

set_option linter.tactic.unusedName false

namespace Sys2Proof.Machine

theorem identify_ticks {s0 : State} (it : Item) (s : State) (h : SameFrame s0 s) :
    SameFrame s0 (identify it s) := by
  unfold identify
  repeat' first
    | (with_reducible assumption)
    | (with_reducible refine finishBad_ticks _ _ _ ?_)
    | (with_reducible refine finishOk_ticks _ _ ?_)
    | (with_reducible refine sameFrame_of (u := send _ _) (send_only (ps := noFrame) _ _ (only_refl _ _) (by decide)) ?_)
    | (intro)
    | (split)

theorem clearLog_ticks {s0 : State} (fn : Nat) (lid : Nat) (s : State) (h : SameFrame s0 s) :
    SameFrame s0 (clearLog fn lid s) := by
  unfold clearLog
  repeat' first
    | (with_reducible assumption)
    | (with_reducible refine reportEvents_ticks _ _ _ ?_)
    | (with_reducible refine sameFrame_of (u := updCtl _ _ _) (updCtl_only (ps := noFrame) _ _ _ (only_refl _ _) (by decide)) ?_)
    | (intro)
    | (split)

theorem getLogPage_ticks {s0 : State} (it : Item) (s : State) (h : SameFrame s0 s) :
    SameFrame s0 (getLogPage it s) := by
  unfold getLogPage
  repeat' first
    | (with_reducible assumption)
    | (with_reducible refine finishBad_ticks _ _ _ ?_)
    | (with_reducible refine sameFrame_of (u := send _ _) (send_only (ps := noFrame) _ _ (only_refl _ _) (by decide)) ?_)
    | (with_reducible refine finishOk_ticks _ _ ?_)
    | (with_reducible refine clearLog_ticks _ _ _ ?_)
    | (with_reducible refine sameFrame_when _ _ ?_ ?_)
    | (intro)
    | (extract_lets +onlyGivenNames s1; refine sameFrame_cut s1 ?_ ?_; unfold s1; clear s1; rotate_left; intro hs1; clear_value s1; rotate_right)
    | (extract_lets +onlyGivenNames v1)
    | (split)
    | (refine sameFrame_free _ ?_)

end Sys2Proof.Machine
end

