-- ==== Sys2Proof/Laws/Ticks/Scp.lean ====
section
/-! SUPPORT. Operations of Machine/Scp.lean that change the frame state in its count of ties alone. -/

set_option linter.tactic.unusedName false

namespace Sys2Proof.Machine

theorem emptying_ticks {s0 : State} (x0 : State → State) (s : State) (h : SameFrame s0 s) (hf0 : ∀ t, SameFrame s0 t → SameFrame s0 (x0 t)) :
    SameFrame s0 (emptying x0 s) := by
  unfold emptying
  repeat' first
    | (with_reducible assumption)
    | (with_reducible refine hf0 _ ?_)
    | (with_reducible refine sameFrame_of (u := setEvent _ _) (setEvent_only (ps := noFrame) _ _ (only_refl _ _) (by decide)) ?_)
    | (with_reducible refine sameFrame_when _ _ ?_ ?_)
    | (intro)
    | (extract_lets +onlyGivenNames s1; refine sameFrame_cut s1 ?_ ?_; unfold s1; clear s1; rotate_left; intro hs1; clear_value s1; rotate_right)
    | (extract_lets +onlyGivenNames v1)

theorem scp_ticks {s0 : State} (op : Nat) (x1 : Form) (fault : Posted → Option Nat) (body : Posted → State → State) (s : State) (h : SameFrame s0 s) (hf0 : ∀ a t, SameFrame s0 t → SameFrame s0 (body a t)) :
    SameFrame s0 (scp op x1 fault body s) := by
  unfold scp
  repeat' first
    | (with_reducible assumption)
    | (with_reducible refine hf0 _ _ ?_)
    | (with_reducible refine sameFrame_of (u := takeHead _) (takeHead_only (ps := noFrame) _ (only_refl _ _) (by decide)) ?_)
    | (with_reducible refine sameFrame_of (u := drainHeads _ _) (drainHeads_only (ps := noFrame) _ _ (only_refl _ _) (by decide)) ?_)
    | (with_reducible refine sameFrame_of (u := dropDup _) (dropDup_only (ps := noFrame) _ (only_refl _ _) (by decide)) ?_)
    | (with_reducible refine sameFrame_of (u := replyInvalid _ _ _) (replyInvalid_only (ps := noFrame) _ _ _ (only_refl _ _) (by decide)) ?_)
    | (with_reducible refine sameFrame_of (u := replyRefused _ _ _) (replyRefused_only (ps := noFrame) _ _ _ (only_refl _ _) (by decide)) ?_)
    | (with_reducible refine sameFrame_of (u := replyConflict _ _ _ _) (replyConflict_only (ps := noFrame) _ _ _ _ (only_refl _ _) (by decide)) ?_)
    | (intro)
    | (extract_lets +onlyGivenNames s1; refine sameFrame_cut s1 ?_ ?_; unfold s1; clear s1; rotate_left; intro hs1; clear_value s1; rotate_right)
    | (extract_lets +onlyGivenNames v1)
    | (split)

theorem descDma_ticks {s0 : State} (r : Posted) (dma : Dma) (out : List Byte) (ends : Nat → List Nat → State → State) (body : State → State) (s : State) (h : SameFrame s0 s) (hf0 : ∀ a b t, SameFrame s0 t → SameFrame s0 (ends a b t)) (hf1 : ∀ t, SameFrame s0 t → SameFrame s0 (body t)) :
    SameFrame s0 (descDma r dma out ends body s) := by
  unfold descDma
  repeat' first
    | (with_reducible assumption)
    | (with_reducible refine hf0 _ _ _ ?_)
    | (with_reducible refine hf1 _ ?_)
    | (with_reducible refine sameFrame_of (u := send _ _) (send_only (ps := noFrame) _ _ (only_refl _ _) (by decide)) ?_)
    | (with_reducible refine sameFrame_of (u := epochMoves _ _) (epochMoves_only (ps := noFrame) _ _ (only_refl _ _) (by decide)) ?_)
    | (with_reducible refine sameFrame_when _ _ ?_ ?_)
    | (intro)
    | (extract_lets +onlyGivenNames s1; refine sameFrame_cut s1 ?_ ?_; unfold s1; clear s1; rotate_left; intro hs1; clear_value s1; rotate_right)
    | (extract_lets +onlyGivenNames k1; have _ck := fun x => (k1 x : State → State); clear _ck)
    | (extract_lets +onlyGivenNames k1; have _ck := fun x => (k1 x : State); clear _ck)
    | (extract_lets +onlyGivenNames v1)
    | (split)
    | (dsimp only [k1])

theorem descRead_ticks {s0 : State} (r : Posted) (dma : Dma) (body : List Byte → State → State) (s : State) (h : SameFrame s0 s) (hf0 : ∀ a t, SameFrame s0 t → SameFrame s0 (body a t)) :
    SameFrame s0 (descRead r dma body s) := by
  unfold descRead
  repeat' first
    | (with_reducible assumption)
    | (with_reducible refine hf0 _ _ ?_)
    | (with_reducible refine descDma_ticks _ _ _ _ _ _ ?_ ?_ ?_)
    | (with_reducible refine sameFrame_of (u := reply _ _ _ _) (reply_only (ps := noFrame) _ _ _ _ (only_refl _ _) (by decide)) ?_)
    | (intro)

theorem descWrite_ticks {s0 : State} (r : Posted) (dma : Dma) (out : List Byte) (x3 : State → State) (s : State) (h : SameFrame s0 s) (hf0 : ∀ t, SameFrame s0 t → SameFrame s0 (x3 t)) :
    SameFrame s0 (descWrite r dma out x3 s) := by
  unfold descWrite
  repeat' first
    | (with_reducible assumption)
    | (with_reducible refine hf0 _ ?_)
    | (with_reducible refine descDma_ticks _ _ _ _ _ _ ?_ ?_ ?_)
    | (with_reducible refine sameFrame_of (u := reply _ _ _ _) (reply_only (ps := noFrame) _ _ _ _ (only_refl _ _) (by decide)) ?_)
    | (intro)

end Sys2Proof.Machine
end

