-- ==== Sys2Proof/Laws/Ticks/Integrity.lean ====
section
/-! SUPPORT. Operations of Machine/Integrity.lean that change the frame state in its count of ties alone. -/

set_option linter.tactic.unusedName false

namespace Sys2Proof.Machine

theorem eccRow_ticks {s0 : State} (sub : Nat) (body : Posted → State → State) (s : State) (h : SameFrame s0 s) (hf0 : ∀ a t, SameFrame s0 t → SameFrame s0 (body a t)) :
    SameFrame s0 (eccRow sub body s) := by
  unfold eccRow
  repeat' first
    | (with_reducible assumption)
    | (with_reducible refine hf0 _ _ ?_)
    | (with_reducible refine scp_ticks _ _ _ _ _ ?_ ?_)
    | (with_reducible refine sameFrame_of (u := replyRefused _ _ _) (replyRefused_only (ps := noFrame) _ _ _ (only_refl _ _) (by decide)) ?_)
    | (with_reducible refine sameFrame_of (u := replyConflict _ _ _ _) (replyConflict_only (ps := noFrame) _ _ _ _ (only_refl _ _) (by decide)) ?_)
    | (with_reducible refine sameFrame_of (u := replyInvalid _ _ _) (replyInvalid_only (ps := noFrame) _ _ _ (only_refl _ _) (by decide)) ?_)
    | (intro)
    | (split)

theorem poisonLanded_ticks {s0 : State} (order : Nat) (s : State) (h : SameFrame s0 s) :
    SameFrame s0 (poisonLanded order s) := by
  unfold poisonLanded
  repeat' first
    | (with_reducible assumption)
    | (with_reducible refine sameFrame_of (u := recDataErr _ _ _) (recDataErr_only (ps := noFrame) _ _ _ (only_refl _ _) (by decide)) ?_)
    | (with_reducible refine sameFrame_of (u := updLanded _ _ _) (updLanded_only (ps := noFrame) _ _ _ (only_refl _ _) (by decide)) ?_)
    | (with_reducible refine setCritical_ticks _ _ ?_)
    | (with_reducible refine sameFrame_of (u := callWrite _) (callWrite_only (ps := noFrame) _ (only_refl _ _) (by decide)) ?_)
    | (intro)
    | (extract_lets +onlyGivenNames s1; refine sameFrame_cut s1 ?_ ?_; unfold s1; clear s1; rotate_left; intro hs1; clear_value s1; rotate_right)
    | (extract_lets +onlyGivenNames v1)
    | (split)
    | (refine sameFrame_therm _ ?_)

theorem porchOutLost_ticks {s0 : State} (rd : Nat) (s : State) (h : SameFrame s0 s) :
    SameFrame s0 (porchOutLost rd s) := by
  unfold porchOutLost
  repeat' first
    | (with_reducible assumption)
    | (with_reducible refine rereadUnit_ticks _ _ _ _ ?_)
    | (intro)
    | (split)

end Sys2Proof.Machine
end

