-- ==== Sys2Proof/Laws/Ticks/NsMgmt.lean ====
section
/-! SUPPORT. Operations of Machine/NsMgmt.lean that change the frame state in its count of ties alone. -/

set_option linter.tactic.unusedName false

namespace Sys2Proof.Machine

theorem nsCreate_ticks {s0 : State} (it : Item) (b : List Byte) (s : State) (h : SameFrame s0 s) :
    SameFrame s0 (nsCreate it b s) := by
  unfold nsCreate
  repeat' first
    | (with_reducible assumption)
    | (with_reducible refine finishBad_ticks _ _ _ ?_)
    | (refine sameFrame_of (createNs_only2 (ps := noFrame) _ _ _ _ (only_refl _ _) (by decide) (by assumption)) ?_)
    | (with_reducible refine sameFrame_of (createNs_only (ps := noFrame) _ _ _ _ (only_refl _ _) (by decide)) ?_)
    | (with_reducible refine finish_ticks _ _ _ _ _ ?_)
    | (intro)
    | (extract_lets +onlyGivenNames s1; refine sameFrame_cut s1 ?_ ?_; unfold s1; clear s1; rotate_left; intro hs1; clear_value s1; rotate_right)
    | (extract_lets +onlyGivenNames v1)
    | (split)

theorem stopNsIo_ticks {s0 : State} (n : Ns) (s : State) (h : SameFrame s0 s) :
    SameFrame s0 (stopNsIo n s) := by
  unfold stopNsIo
  repeat' first
    | (with_reducible assumption)
    | (with_reducible refine sameFrame_of (u := discardLanded _ _) (discardLanded_only (ps := noFrame) _ _ (only_refl _ _) (by decide)) ?_)
    | (with_reducible refine sameFrame_of (u := latch _ _ _ _ _) (latch_only (ps := noFrame) _ _ _ _ _ (only_refl _ _) (by decide)) ?_)
    | (with_reducible refine sameFrame_of (u := dropReads _ _) (dropReads_only (ps := noFrame) _ _ (only_refl _ _) (by decide)) ?_)
    | (with_reducible refine postItem_ticks _ _ ?_)
    | (with_reducible refine sameFrame_forEach _ _ _ ?_ ?_)
    | (intro)
    | (extract_lets +onlyGivenNames s1; refine sameFrame_cut s1 ?_ ?_; unfold s1; clear s1; rotate_left; intro hs1; clear_value s1; rotate_right)
    | (extract_lets +onlyGivenNames v1)
    | (split)

theorem nsDelete_ticks {s0 : State} (items : List Nat) (x : Nat) (n : Ns) (s : State) (h : SameFrame s0 s) :
    SameFrame s0 (nsDelete items x n s) := by
  unfold nsDelete
  repeat' first
    | (with_reducible assumption)
    | (with_reducible refine stopNsIo_ticks _ _ ?_)
    | (with_reducible refine sameFrame_of (u := updZone _ _) (updZone_only (ps := noFrame) _ _ (only_refl _ _) (by decide)) ?_)
    | (with_reducible refine sameFrame_of (u := emptyZone _ _) (emptyZone_only (ps := noFrame) _ _ (only_refl _ _) (by decide)) ?_)
    | (with_reducible refine sameFrame_of (u := unmapUnits _ _ _ _) (unmapUnits_only (ps := noFrame) _ _ _ _ (only_refl _ _) (by decide)) ?_)
    | (with_reducible refine sameFrame_of (u := closeEarly _ _) (closeEarly_only (ps := noFrame) _ _ (only_refl _ _) (by decide)) ?_)
    | (with_reducible refine notifyNs_ticks _ _ _ ?_)
    | (with_reducible refine sameFrame_of (u := removeNs _ _) (removeNs_only (ps := noFrame) _ _ (only_refl _ _) (by decide)) ?_)
    | (with_reducible refine sameFrame_of (u := submit _ _) (submit_only (ps := noFrame) _ _ (only_refl _ _) (by decide)) ?_)
    | (with_reducible refine sameFrame_of (u := submitZones _ _ _ _ _) (submitZones_only (ps := noFrame) _ _ _ _ _ (only_refl _ _) (by decide)) ?_)
    | (with_reducible refine sameFrame_forEach _ _ _ ?_ ?_)
    | (intro)
    | (extract_lets +onlyGivenNames s1; refine sameFrame_cut s1 ?_ ?_; unfold s1; clear s1; rotate_left; intro hs1; clear_value s1; rotate_right)
    | (extract_lets +onlyGivenNames v1)
    | (split)

theorem nsManagement_ticks {s0 : State} (dma : Dma) (it : Item) (s : State) (h : SameFrame s0 s) :
    SameFrame s0 (nsManagement dma it s) := by
  unfold nsManagement
  repeat' first
    | (with_reducible assumption)
    | (with_reducible refine finishBad_ticks _ _ _ ?_)
    | (with_reducible refine nsCreate_ticks _ _ _ ?_)
    | (with_reducible refine sameFrame_of (u := updItem _ _ _) (updItem_only (ps := noFrame) _ _ _ (only_refl _ _) (by decide)) ?_)
    | (with_reducible refine nsDelete_ticks _ _ _ _ ?_)
    | (with_reducible refine finishOk_ticks _ _ ?_)
    | (with_reducible refine sameFrame_forEach _ _ _ ?_ ?_)
    | (intro)
    | (extract_lets +onlyGivenNames s1; refine sameFrame_cut s1 ?_ ?_; unfold s1; clear s1; rotate_left; intro hs1; clear_value s1; rotate_right)
    | (extract_lets +onlyGivenNames k1; have _ck := fun x => (k1 x : State → State); clear _ck)
    | (extract_lets +onlyGivenNames k1; have _ck := fun x => (k1 x : State); clear _ck)
    | (extract_lets +onlyGivenNames v1)
    | (split)
    | (dsimp only [k1])

theorem nsAttachment_ticks {s0 : State} (dma : Dma) (it : Item) (s : State) (h : SameFrame s0 s) :
    SameFrame s0 (nsAttachment dma it s) := by
  unfold nsAttachment
  repeat' first
    | (with_reducible assumption)
    | (with_reducible refine finishBad_ticks _ _ _ ?_)
    | (with_reducible refine stopNsIo_ticks _ _ ?_)
    | (with_reducible refine finishOk_ticks _ _ ?_)
    | (with_reducible refine notifyNs_ticks _ _ _ ?_)
    | (with_reducible refine sameFrame_of (u := updNs _ _ _) (updNs_only (ps := noFrame) _ _ _ (only_refl _ _) (by decide)) ?_)
    | (with_reducible refine sameFrame_when _ _ ?_ ?_)
    | (intro)
    | (extract_lets +onlyGivenNames s1; refine sameFrame_cut s1 ?_ ?_; unfold s1; clear s1; rotate_left; intro hs1; clear_value s1; rotate_right)
    | (extract_lets +onlyGivenNames v1)
    | (split)

end Sys2Proof.Machine
end

