-- ==== Sys2Proof/Laws/Ticks/Owner.lean ====
section
/-! SUPPORT. Operations of Machine/Owner.lean that change the frame state in its count of ties alone. -/

set_option linter.tactic.unusedName false

namespace Sys2Proof.Machine

theorem ownerWakes_ticks {s0 : State} (body : State → State) (s : State) (h : SameFrame s0 s) (hf0 : ∀ t, SameFrame s0 t → SameFrame s0 (body t)) :
    SameFrame s0 (ownerWakes body s) := by
  unfold ownerWakes
  repeat' first
    | (with_reducible assumption)
    | (with_reducible refine hf0 _ ?_)
    | (with_reducible refine sameFrame_of (u := wake _) (wake_only (ps := noFrame) _ (only_refl _ _) (by decide)) ?_)
    | (intro)
    | (split)

theorem ownerQuiet_ticks {s0 : State} (l : Sideband) (body : State → State) (s : State) (h : SameFrame s0 s) (hf0 : ∀ t, SameFrame s0 t → SameFrame s0 (body t)) :
    SameFrame s0 (ownerQuiet l body s) := by
  unfold ownerQuiet
  repeat' first
    | (with_reducible assumption)
    | (with_reducible refine hf0 _ ?_)
    | (with_reducible refine sameFrame_of (u := spdmUnsupported _) (spdmUnsupported_only (ps := noFrame) _ (only_refl _ _) (by decide)) ?_)
    | (intro)
    | (split)

theorem ownerRow_ticks {s0 : State} (l : Sideband) (body : State → State) (s : State) (h : SameFrame s0 s) (hf0 : ∀ t, SameFrame s0 t → SameFrame s0 (body t)) :
    SameFrame s0 (ownerRow l body s) := by
  unfold ownerRow
  repeat' first
    | (with_reducible assumption)
    | (with_reducible refine hf0 _ ?_)
    | (with_reducible refine ownerQuiet_ticks _ _ _ ?_ ?_)
    | (with_reducible refine ownerWakes_ticks _ _ ?_ ?_)
    | (intro)

theorem ownerClaimRow_ticks {s0 : State} (l : Sideband) (body : State → State) (s : State) (h : SameFrame s0 s) (hf0 : ∀ t, SameFrame s0 t → SameFrame s0 (body t)) :
    SameFrame s0 (ownerClaimRow l body s) := by
  unfold ownerClaimRow
  repeat' first
    | (with_reducible assumption)
    | (with_reducible refine hf0 _ ?_)
    | (with_reducible refine sameFrame_of (u := spdmUnsupported _) (spdmUnsupported_only (ps := noFrame) _ (only_refl _ _) (by decide)) ?_)
    | (intro)
    | (split)

end Sys2Proof.Machine
end

