-- ==== Sys2Proof/Laws/Ticks/Planner.lean ====
section
/-! SUPPORT. Operations of Machine/Planner.lean that change the frame state in its count of ties alone. -/

set_option linter.tactic.unusedName false

namespace Sys2Proof.Machine

theorem planRequest_ticks {s0 : State} (x0 : Nat) (spare : Bool) (r : RdOp) (s : State) (h : SameFrame s0 s) :
    SameFrame s0 (planRequest x0 spare r s) := by
  unfold planRequest
  repeat' first
    | (with_reducible assumption)
    | (with_reducible refine uncorrectable_ticks _ _ ?_)
    | (with_reducible refine sameFrame_of (u := planBack _ _ _ _ _) (planBack_only (ps := noFrame) _ _ _ _ _ (only_refl _ _) (by decide)) ?_)
    | (with_reducible refine sameFrame_of (u := place _ _ _ _ _ _) (place_only (ps := noFrame) _ _ _ _ _ _ (only_refl _ _) (by decide)) ?_)
    | (with_reducible refine sameFrame_of (u := updRead _ _ _) (updRead_only (ps := noFrame) _ _ _ (only_refl _ _) (by decide)) ?_)
    | (with_reducible refine sameFrame_of (u := noteWait _ _) (noteWait_only (ps := noFrame) _ _ (only_refl _ _) (by decide)) ?_)
    | (with_reducible refine sameFrame_when _ _ ?_ ?_)
    | (intro)
    | (extract_lets +onlyGivenNames s1; refine sameFrame_cut s1 ?_ ?_; unfold s1; clear s1; rotate_left; intro hs1; clear_value s1; rotate_right)
    | (extract_lets +onlyGivenNames v1)
    | (split)

theorem planSecond_ticks {s0 : State} (x0 : Nat) (spare : Bool) (r : RdOp) (s : State) (h : SameFrame s0 s) :
    SameFrame s0 (planSecond x0 spare r s) := by
  unfold planSecond
  repeat' first
    | (with_reducible assumption)
    | (with_reducible refine sameFrame_of (u := setMembers _ _ _ _) (setMembers_only (ps := noFrame) _ _ _ _ (only_refl _ _) (by decide)) ?_)
    | (with_reducible refine backFails_ticks _ _ ?_)
    | (with_reducible refine sameFrame_of (u := updRead _ _ _) (updRead_only (ps := noFrame) _ _ _ (only_refl _ _) (by decide)) ?_)
    | (with_reducible refine sameFrame_of (u := place _ _ _ _ _ _) (place_only (ps := noFrame) _ _ _ _ _ _ (only_refl _ _) (by decide)) ?_)
    | (with_reducible refine sameFrame_forEach _ _ _ ?_ ?_)
    | (intro)
    | (extract_lets +onlyGivenNames s1; refine sameFrame_cut s1 ?_ ?_; unfold s1; clear s1; rotate_left; intro hs1; clear_value s1; rotate_right)
    | (extract_lets +onlyGivenNames v1)
    | (split)

theorem planReads_ticks {s0 : State} (x0 : Nat) (spare : Bool) (s : State) (h : SameFrame s0 s) :
    SameFrame s0 (planReads x0 spare s) := by
  unfold planReads
  repeat' first
    | (with_reducible assumption)
    | (with_reducible refine planRequest_ticks _ _ _ _ ?_)
    | (with_reducible refine planSecond_ticks _ _ _ _ ?_)
    | (with_reducible refine sameFrame_forEach _ _ _ ?_ ?_)
    | (intro)
    | (extract_lets +onlyGivenNames s1; refine sameFrame_cut s1 ?_ ?_; unfold s1; clear s1; rotate_left; intro hs1; clear_value s1; rotate_right)
    | (extract_lets +onlyGivenNames v1)
    | (split)

theorem buildPlan_ticks {s0 : State}  (s : State) (h : SameFrame s0 s) :
    SameFrame s0 (buildPlan s) := by
  unfold buildPlan
  repeat' first
    | (with_reducible assumption)
    | (with_reducible refine sameFrame_of (u := planMedias _) (planMedias_only (ps := noFrame) _ (only_refl _ _) (by decide)) ?_)
    | (with_reducible refine planReads_ticks _ _ _ ?_)
    | (with_reducible refine sameFrame_of (u := planWindows _ _) (planWindows_only (ps := noFrame) _ _ (only_refl _ _) (by decide)) ?_)
    | (with_reducible refine sameFrame_of (u := planRest _ _ _) (planRest_only (ps := noFrame) _ _ _ (only_refl _ _) (by decide)) ?_)
    | (with_reducible refine sameFrame_forEach _ _ _ ?_ ?_)
    | (intro)
    | (extract_lets +onlyGivenNames s1; refine sameFrame_cut s1 ?_ ?_; unfold s1; clear s1; rotate_left; intro hs1; clear_value s1; rotate_right)
    | (extract_lets +onlyGivenNames v1)

end Sys2Proof.Machine
end

