-- ==== Sys2Proof/Laws/Ticks/Power.lean ====
section
/-! SUPPORT. Operations of Machine/Power.lean that change the frame state in its count of ties alone. -/

set_option linter.tactic.unusedName false

namespace Sys2Proof.Machine

theorem refuseEntry_ticks {s0 : State} (target : Nat) (code : Nat) (abort : Bool) (item : Option Nat) (s : State) (h : SameFrame s0 s) :
    SameFrame s0 (refuseEntry target code abort item s) := by
  unfold refuseEntry
  repeat' first
    | (with_reducible assumption)
    | (with_reducible refine sameFrame_of (u := updPower _ _) (updPower_only (ps := noFrame) _ _ (only_refl _ _) (by decide)) ?_)
    | (with_reducible refine sameFrame_of (u := updRec _ _) (updRec_only (ps := noFrame) _ _ (only_refl _ _) (by decide)) ?_)
    | (with_reducible refine finish_ticks _ _ _ _ _ ?_)
    | (intro)
    | (extract_lets +onlyGivenNames s1; refine sameFrame_cut s1 ?_ ?_; unfold s1; clear s1; rotate_left; intro hs1; clear_value s1; rotate_right)
    | (extract_lets +onlyGivenNames v1)
    | (split)

theorem beginEntry_ticks {s0 : State} (target : Nat) (item : Option Nat) (s : State) (h : SameFrame s0 s) :
    SameFrame s0 (beginEntry target item s) := by
  unfold beginEntry
  repeat' first
    | (with_reducible assumption)
    | (with_reducible refine refuseEntry_ticks _ _ _ _ _ ?_)
    | (with_reducible refine sameFrame_of (u := updPower _ _) (updPower_only (ps := noFrame) _ _ (only_refl _ _) (by decide)) ?_)
    | (intro)
    | (extract_lets +onlyGivenNames s1; refine sameFrame_cut s1 ?_ ?_; unfold s1; clear s1; rotate_left; intro hs1; clear_value s1; rotate_right)
    | (extract_lets +onlyGivenNames v1)
    | (split)

theorem applyPs_ticks {s0 : State} (r : Nat × Nat) (s : State) (h : SameFrame s0 s) :
    SameFrame s0 (applyPs r s) := by
  unfold applyPs
  repeat' first
    | (with_reducible assumption)
    | (with_reducible refine sameFrame_of (u := updPower _ _) (updPower_only (ps := noFrame) _ _ (only_refl _ _) (by decide)) ?_)
    | (with_reducible refine finishOk_ticks _ _ ?_)
    | (with_reducible refine sameFrame_of (u := setPs _ _) (setPs_only (ps := noFrame) _ _ (only_refl _ _) (by decide)) ?_)
    | (with_reducible refine beginEntry_ticks _ _ _ ?_)
    | (intro)
    | (extract_lets +onlyGivenNames s1; refine sameFrame_cut s1 ?_ ?_; unfold s1; clear s1; rotate_left; intro hs1; clear_value s1; rotate_right)
    | (extract_lets +onlyGivenNames k1; have _ck := fun x => (k1 x : State → State); clear _ck)
    | (extract_lets +onlyGivenNames k1; have _ck := fun x => (k1 x : State); clear _ck)
    | (extract_lets +onlyGivenNames v1)
    | (split)
    | (dsimp only [k1])

theorem applyPsDue_ticks {s0 : State}  (s : State) (h : SameFrame s0 s) :
    SameFrame s0 (applyPsDue s) := by
  unfold applyPsDue
  repeat' first
    | (with_reducible assumption)
    | (with_reducible refine applyPs_ticks _ _ ?_)
    | (with_reducible refine sameFrame_of (u := updPower _ _) (updPower_only (ps := noFrame) _ _ (only_refl _ _) (by decide)) ?_)
    | (with_reducible refine sameFrame_forEach _ _ _ ?_ ?_)
    | (intro)
    | (extract_lets +onlyGivenNames s1; refine sameFrame_cut s1 ?_ ?_; unfold s1; clear s1; rotate_left; intro hs1; clear_value s1; rotate_right)
    | (extract_lets +onlyGivenNames v1)

theorem setPowerManagement_ticks {s0 : State} (it : Item) (s : State) (h : SameFrame s0 s) :
    SameFrame s0 (setPowerManagement it s) := by
  unfold setPowerManagement
  repeat' first
    | (with_reducible assumption)
    | (with_reducible refine finishBad_ticks _ _ _ ?_)
    | (with_reducible refine finishOk_ticks _ _ ?_)
    | (with_reducible refine sameFrame_of (u := updPower _ _) (updPower_only (ps := noFrame) _ _ (only_refl _ _) (by decide)) ?_)
    | (intro)
    | (extract_lets +onlyGivenNames s1; refine sameFrame_cut s1 ?_ ?_; unfold s1; clear s1; rotate_left; intro hs1; clear_value s1; rotate_right)
    | (extract_lets +onlyGivenNames v1)
    | (split)

theorem setApst_ticks {s0 : State} (dma : Dma) (it : Item) (s : State) (h : SameFrame s0 s) :
    SameFrame s0 (setApst dma it s) := by
  unfold setApst
  repeat' first
    | (with_reducible assumption)
    | (with_reducible refine finishBad_ticks _ _ _ ?_)
    | (with_reducible refine finishOk_ticks _ _ ?_)
    | (with_reducible refine sameFrame_of (u := updPower _ _) (updPower_only (ps := noFrame) _ _ (only_refl _ _) (by decide)) ?_)
    | (intro)
    | (extract_lets +onlyGivenNames s1; refine sameFrame_cut s1 ?_ ?_; unfold s1; clear s1; rotate_left; intro hs1; clear_value s1; rotate_right)
    | (extract_lets +onlyGivenNames v1)
    | (split)

theorem idleExpiry_ticks {s0 : State}  (s : State) (h : SameFrame s0 s) :
    SameFrame s0 (idleExpiry s) := by
  unfold idleExpiry
  repeat' first
    | (with_reducible assumption)
    | (with_reducible refine beginEntry_ticks _ _ _ ?_)
    | (intro)
    | (split)

theorem applyLb_ticks {s0 : State}  (s : State) (h : SameFrame s0 s) :
    SameFrame s0 (applyLb s) := by
  unfold applyLb
  repeat' first
    | (with_reducible assumption)
    | (with_reducible refine sameFrame_of (u := updPower _ _) (updPower_only (ps := noFrame) _ _ (only_refl _ _) (by decide)) ?_)
    | (with_reducible refine sameFrame_of (u := updMedia _ _) (updMedia_only (ps := noFrame) _ _ (only_refl _ _) (by decide)) ?_)
    | (with_reducible refine setCritical_ticks _ _ ?_)
    | (with_reducible refine sameFrame_of (u := clearCritical _ _) (clearCritical_only (ps := noFrame) _ _ (only_refl _ _) (by decide)) ?_)
    | (intro)
    | (extract_lets +onlyGivenNames s1; refine sameFrame_cut s1 ?_ ?_; unfold s1; clear s1; rotate_left; intro hs1; clear_value s1; rotate_right)
    | (extract_lets +onlyGivenNames v1)
    | (split)

end Sys2Proof.Machine
end

