-- ==== Sys2Proof/Laws/Ticks/Protect.lean ====
section
/-! SUPPORT. Operations of Machine/Protect.lean that change the frame state in its count of ties alone. -/

set_option linter.tactic.unusedName false

namespace Sys2Proof.Machine

theorem applyChange_ticks {s0 : State} (p : Proposal) (s : State) (h : SameFrame s0 s) :
    SameFrame s0 (applyChange p s) := by
  unfold applyChange
  repeat' first
    | (with_reducible assumption)
    | (with_reducible refine sameFrame_of (u := setIsolation _ _ _) (setIsolation_only (ps := noFrame) _ _ _ (only_refl _ _) (by decide)) ?_)
    | (with_reducible refine sameFrame_of (u := updProt _ _) (updProt_only (ps := noFrame) _ _ (only_refl _ _) (by decide)) ?_)
    | (with_reducible refine sameFrame_of (u := emptySlot _ _) (emptySlot_only (ps := noFrame) _ _ (only_refl _ _) (by decide)) ?_)
    | (with_reducible refine cancelSched_ticks _ _ ?_)
    | (intro)
    | (extract_lets +onlyGivenNames s1; refine sameFrame_cut s1 ?_ ?_; unfold s1; clear s1; rotate_left; intro hs1; clear_value s1; rotate_right)
    | (extract_lets +onlyGivenNames v1)
    | (split)

theorem applyOne_ticks {s0 : State} (k : Confirmed) (s : State) (h : SameFrame s0 s) :
    SameFrame s0 (applyOne k s) := by
  unfold applyOne
  repeat' first
    | (with_reducible assumption)
    | (with_reducible refine sameFrame_of (u := updProt _ _) (updProt_only (ps := noFrame) _ _ (only_refl _ _) (by decide)) ?_)
    | (with_reducible refine sameFrame_of (u := confirmReply _ _ _ _) (confirmReply_only (ps := noFrame) _ _ _ _ (only_refl _ _) (by decide)) ?_)
    | (with_reducible refine applyChange_ticks _ _ ?_)
    | (intro)
    | (extract_lets +onlyGivenNames s1; refine sameFrame_cut s1 ?_ ?_; unfold s1; clear s1; rotate_left; intro hs1; clear_value s1; rotate_right)
    | (extract_lets +onlyGivenNames k1; have _ck := fun x => (k1 x : State → State); clear _ck)
    | (extract_lets +onlyGivenNames k1; have _ck := fun x => (k1 x : State); clear _ck)
    | (extract_lets +onlyGivenNames v1)
    | (split)
    | (dsimp only [k1])

theorem applyProtection_ticks {s0 : State}  (s : State) (h : SameFrame s0 s) :
    SameFrame s0 (applyProtection s) := by
  unfold applyProtection
  repeat' first
    | (with_reducible assumption)
    | (with_reducible refine sameFrame_of (u := updProt _ _) (updProt_only (ps := noFrame) _ _ (only_refl _ _) (by decide)) ?_)
    | (with_reducible refine applyOne_ticks _ _ ?_)
    | (with_reducible refine sameFrame_forEach _ _ _ ?_ ?_)
    | (intro)
    | (extract_lets +onlyGivenNames s1; refine sameFrame_cut s1 ?_ ?_; unfold s1; clear s1; rotate_left; intro hs1; clear_value s1; rotate_right)
    | (extract_lets +onlyGivenNames v1)

end Sys2Proof.Machine
end

