-- ==== Sys2Proof/Laws/Ticks/Queues.lean ====
section
/-! SUPPORT. Operations of Machine/Queues.lean that change the frame state in its count of ties alone. -/

set_option linter.tactic.unusedName false

namespace Sys2Proof.Machine

theorem tailDoorbell_ticks {s0 : State} (fn : Nat) (sq : Nat) (tail : Nat) (s : State) (h : SameFrame s0 s) :
    SameFrame s0 (tailDoorbell fn sq tail s) := by
  unfold tailDoorbell
  repeat' first
    | (with_reducible assumption)
    | (with_reducible refine notifyDoorbell_ticks _ _ ?_)
    | (with_reducible refine sameFrame_of (u := wake _) (wake_only (ps := noFrame) _ (only_refl _ _) (by decide)) ?_)
    | (with_reducible refine sameFrame_of (u := updCtl _ _ _) (updCtl_only (ps := noFrame) _ _ _ (only_refl _ _) (by decide)) ?_)
    | (intro)
    | (extract_lets +onlyGivenNames s1; refine sameFrame_cut s1 ?_ ?_; unfold s1; clear s1; rotate_left; intro hs1; clear_value s1; rotate_right)
    | (extract_lets +onlyGivenNames v1)
    | (split)

theorem headDoorbell_ticks {s0 : State} (fn : Nat) (cq : Nat) (head : Nat) (s : State) (h : SameFrame s0 s) :
    SameFrame s0 (headDoorbell fn cq head s) := by
  unfold headDoorbell
  repeat' first
    | (with_reducible assumption)
    | (with_reducible refine notifyDoorbell_ticks _ _ ?_)
    | (with_reducible refine sameFrame_of (u := fillCq _ _ _ _) (fillCq_only (ps := noFrame) _ _ _ _ (only_refl _ _) (by decide)) ?_)
    | (with_reducible refine sameFrame_of (u := updCtl _ _ _) (updCtl_only (ps := noFrame) _ _ _ (only_refl _ _) (by decide)) ?_)
    | (intro)
    | (extract_lets +onlyGivenNames s1; refine sameFrame_cut s1 ?_ ?_; unfold s1; clear s1; rotate_left; intro hs1; clear_value s1; rotate_right)
    | (extract_lets +onlyGivenNames v1)
    | (split)

theorem fetch_ticks {s0 : State} (fn sq : Nat) (e : Sqe) (s : State) (h : SameFrame s0 s) :
    SameFrame s0 (fetch fn sq e s) := by
  unfold fetch
  have hk : ∀ t, (if sq = 0 then some s else takeTokens fn e s) = some t → SameFrame s0 t := by
    intro t ht
    split at ht
    · cases ht; exact h
    · exact sameFrame_of (takeTokens_only2 (ps := noFrame) _ _ (only_refl _ _) (by decide) ht) h
  split
  · exact h
  split
  · exact h
  split
  · exact h
  split
  · exact h
  split
  · exact sameFrame_of (noteWait_only (ps := noFrame) _ _ (only_refl _ _) (by decide)) h
  rename_i s1 e1
  exact sameFrame_when _ _ (sameFrame_of (updItems_only (ps := noFrame) _ _ (only_refl _ _) (by decide))
    (sameFrame_host _ (sameFrame_of (updCtl_only (ps := noFrame) _ _ _ (only_refl _ _) (by decide)) (hk s1 e1))))
    (fun t ht => finishBad_ticks _ _ _ ht)

theorem admin_ticks {s0 : State} (opc : Nat) (who : Access) (body : Item → State → State) (id : CmdId) (s : State) (h : SameFrame s0 s) (hf0 : ∀ a t, SameFrame s0 t → SameFrame s0 (body a t)) :
    SameFrame s0 (admin opc who body id s) := by
  unfold admin
  repeat' first
    | (with_reducible assumption)
    | (with_reducible refine hf0 _ _ ?_)
    | (with_reducible refine sameFrame_of (u := takeUp _ _) (takeUp_only (ps := noFrame) _ _ (only_refl _ _) (by decide)) ?_)
    | (with_reducible refine finishBad_ticks _ _ _ ?_)
    | (with_reducible refine sameFrame_id ?_)
    | (intro)
    | (extract_lets +onlyGivenNames s1; refine sameFrame_cut s1 ?_ ?_; unfold s1; clear s1; rotate_left; intro hs1; clear_value s1; rotate_right)
    | (extract_lets +onlyGivenNames v1)
    | (split)

theorem createSq_ticks {s0 : State} (it : Item) (s : State) (h : SameFrame s0 s) :
    SameFrame s0 (createSq it s) := by
  unfold createSq
  repeat' first
    | (with_reducible assumption)
    | (with_reducible refine finishBad_ticks _ _ _ ?_)
    | (with_reducible refine finishOk_ticks _ _ ?_)
    | (with_reducible refine sameFrame_of (u := updCtl _ _ _) (updCtl_only (ps := noFrame) _ _ _ (only_refl _ _) (by decide)) ?_)
    | (intro)
    | (extract_lets +onlyGivenNames s1; refine sameFrame_cut s1 ?_ ?_; unfold s1; clear s1; rotate_left; intro hs1; clear_value s1; rotate_right)
    | (extract_lets +onlyGivenNames v1)
    | (split)

theorem createCq_ticks {s0 : State} (it : Item) (s : State) (h : SameFrame s0 s) :
    SameFrame s0 (createCq it s) := by
  unfold createCq
  repeat' first
    | (with_reducible assumption)
    | (with_reducible refine finishBad_ticks _ _ _ ?_)
    | (with_reducible refine finishOk_ticks _ _ ?_)
    | (with_reducible refine sameFrame_of (u := updCtl _ _ _) (updCtl_only (ps := noFrame) _ _ _ (only_refl _ _) (by decide)) ?_)
    | (intro)
    | (extract_lets +onlyGivenNames s1; refine sameFrame_cut s1 ?_ ?_; unfold s1; clear s1; rotate_left; intro hs1; clear_value s1; rotate_right)
    | (extract_lets +onlyGivenNames v1)
    | (split)

theorem deleteSq_ticks {s0 : State} (it : Item) (s : State) (h : SameFrame s0 s) :
    SameFrame s0 (deleteSq it s) := by
  unfold deleteSq
  repeat' first
    | (with_reducible assumption)
    | (with_reducible refine finishBad_ticks _ _ _ ?_)
    | (with_reducible refine sameFrame_of (u := updCtl _ _ _) (updCtl_only (ps := noFrame) _ _ _ (only_refl _ _) (by decide)) ?_)
    | (with_reducible refine finishOk_ticks _ _ ?_)
    | (intro)
    | (extract_lets +onlyGivenNames s1; refine sameFrame_cut s1 ?_ ?_; unfold s1; clear s1; rotate_left; intro hs1; clear_value s1; rotate_right)
    | (extract_lets +onlyGivenNames v1)
    | (split)

theorem deleteCq_ticks {s0 : State} (it : Item) (s : State) (h : SameFrame s0 s) :
    SameFrame s0 (deleteCq it s) := by
  unfold deleteCq
  repeat' first
    | (with_reducible assumption)
    | (with_reducible refine finishBad_ticks _ _ _ ?_)
    | (with_reducible refine finishOk_ticks _ _ ?_)
    | (with_reducible refine sameFrame_of (u := updCtl _ _ _) (updCtl_only (ps := noFrame) _ _ _ (only_refl _ _) (by decide)) ?_)
    | (intro)
    | (extract_lets +onlyGivenNames s1; refine sameFrame_cut s1 ?_ ?_; unfold s1; clear s1; rotate_left; intro hs1; clear_value s1; rotate_right)
    | (extract_lets +onlyGivenNames v1)
    | (split)

theorem setFeature_ticks {s0 : State} (fid : Nat) (mgr : Bool) (body : Item → State → State) (id : CmdId) (s : State) (h : SameFrame s0 s) (hf0 : ∀ a t, SameFrame s0 t → SameFrame s0 (body a t)) :
    SameFrame s0 (setFeature fid mgr body id s) := by
  unfold setFeature
  repeat' first
    | (with_reducible assumption)
    | (with_reducible refine hf0 _ _ ?_)
    | (with_reducible refine admin_ticks _ _ _ _ _ ?_ ?_)
    | (with_reducible refine finishBad_ticks _ _ _ ?_)
    | (with_reducible refine sameFrame_id ?_)
    | (intro)
    | (split)

theorem setArbitration_ticks {s0 : State} (it : Item) (s : State) (h : SameFrame s0 s) :
    SameFrame s0 (setArbitration it s) := by
  unfold setArbitration
  repeat' first
    | (with_reducible assumption)
    | (with_reducible refine finishOk_ticks _ _ ?_)
    | (with_reducible refine sameFrame_of (u := updFeats _ _ _) (updFeats_only (ps := noFrame) _ _ _ (only_refl _ _) (by decide)) ?_)
    | (intro)

theorem setTempThreshold_ticks {s0 : State} (it : Item) (s : State) (h : SameFrame s0 s) :
    SameFrame s0 (setTempThreshold it s) := by
  unfold setTempThreshold
  repeat' first
    | (with_reducible assumption)
    | (with_reducible refine finishBad_ticks _ _ _ ?_)
    | (with_reducible refine finishOk_ticks _ _ ?_)
    | (with_reducible refine sameFrame_of (u := updFeats _ _ _) (updFeats_only (ps := noFrame) _ _ _ (only_refl _ _) (by decide)) ?_)
    | (intro)
    | (extract_lets +onlyGivenNames s1; refine sameFrame_cut s1 ?_ ?_; unfold s1; clear s1; rotate_left; intro hs1; clear_value s1; rotate_right)
    | (extract_lets +onlyGivenNames v1)
    | (split)

theorem setErrorRecovery_ticks {s0 : State} (it : Item) (s : State) (h : SameFrame s0 s) :
    SameFrame s0 (setErrorRecovery it s) := by
  unfold setErrorRecovery
  repeat' first
    | (with_reducible assumption)
    | (with_reducible refine finishOk_ticks _ _ ?_)
    | (with_reducible refine sameFrame_of (u := updFeats _ _ _) (updFeats_only (ps := noFrame) _ _ _ (only_refl _ _) (by decide)) ?_)
    | (intro)

theorem setNumberOfQueues_ticks {s0 : State} (it : Item) (s : State) (h : SameFrame s0 s) :
    SameFrame s0 (setNumberOfQueues it s) := by
  unfold setNumberOfQueues
  repeat' first
    | (with_reducible assumption)
    | (with_reducible refine finish_ticks _ _ _ _ _ ?_)
    | (intro)
    | (split)

theorem setCoalescing_ticks {s0 : State} (it : Item) (s : State) (h : SameFrame s0 s) :
    SameFrame s0 (setCoalescing it s) := by
  unfold setCoalescing
  repeat' first
    | (with_reducible assumption)
    | (with_reducible refine finishOk_ticks _ _ ?_)
    | (with_reducible refine sameFrame_of (u := updFeats _ _ _) (updFeats_only (ps := noFrame) _ _ _ (only_refl _ _) (by decide)) ?_)
    | (intro)

theorem setVectorConfig_ticks {s0 : State} (it : Item) (s : State) (h : SameFrame s0 s) :
    SameFrame s0 (setVectorConfig it s) := by
  unfold setVectorConfig
  repeat' first
    | (with_reducible assumption)
    | (with_reducible refine finishBad_ticks _ _ _ ?_)
    | (with_reducible refine finishOk_ticks _ _ ?_)
    | (with_reducible refine sameFrame_of (u := updCtl _ _ _) (updCtl_only (ps := noFrame) _ _ _ (only_refl _ _) (by decide)) ?_)
    | (intro)
    | (extract_lets +onlyGivenNames s1; refine sameFrame_cut s1 ?_ ?_; unfold s1; clear s1; rotate_left; intro hs1; clear_value s1; rotate_right)
    | (extract_lets +onlyGivenNames v1)
    | (split)

theorem setWriteAtomicity_ticks {s0 : State} (it : Item) (s : State) (h : SameFrame s0 s) :
    SameFrame s0 (setWriteAtomicity it s) := by
  unfold setWriteAtomicity
  repeat' first
    | (with_reducible assumption)
    | (with_reducible refine finishOk_ticks _ _ ?_)
    | (with_reducible refine sameFrame_of (u := updFeats _ _ _) (updFeats_only (ps := noFrame) _ _ _ (only_refl _ _) (by decide)) ?_)
    | (intro)

theorem setAsyncConfig_ticks {s0 : State} (it : Item) (s : State) (h : SameFrame s0 s) :
    SameFrame s0 (setAsyncConfig it s) := by
  unfold setAsyncConfig
  repeat' first
    | (with_reducible assumption)
    | (with_reducible refine finishOk_ticks _ _ ?_)
    | (with_reducible refine sameFrame_of (u := updFeats _ _ _) (updFeats_only (ps := noFrame) _ _ _ (only_refl _ _) (by decide)) ?_)
    | (intro)

theorem setTimestamp_ticks {s0 : State} (dma : Dma) (it : Item) (s : State) (h : SameFrame s0 s) :
    SameFrame s0 (setTimestamp dma it s) := by
  unfold setTimestamp
  repeat' first
    | (with_reducible assumption)
    | (with_reducible refine finishBad_ticks _ _ _ ?_)
    | (with_reducible refine finishOk_ticks _ _ ?_)
    | (with_reducible refine sameFrame_of (u := updFeats _ _ _) (updFeats_only (ps := noFrame) _ _ _ (only_refl _ _) (by decide)) ?_)
    | (intro)
    | (split)

theorem setLifetime_ticks {s0 : State} (it : Item) (s : State) (h : SameFrame s0 s) :
    SameFrame s0 (setLifetime it s) := by
  unfold setLifetime
  repeat' first
    | (with_reducible assumption)
    | (with_reducible refine finishBad_ticks _ _ _ ?_)
    | (with_reducible refine finishOk_ticks _ _ ?_)
    | (with_reducible refine sameFrame_of (u := updFeats _ _ _) (updFeats_only (ps := noFrame) _ _ _ (only_refl _ _) (by decide)) ?_)
    | (intro)
    | (extract_lets +onlyGivenNames s1; refine sameFrame_cut s1 ?_ ?_; unfold s1; clear s1; rotate_left; intro hs1; clear_value s1; rotate_right)
    | (extract_lets +onlyGivenNames v1)
    | (split)

theorem getFeatures_ticks {s0 : State} (it : Item) (s : State) (h : SameFrame s0 s) :
    SameFrame s0 (getFeatures it s) := by
  unfold getFeatures
  repeat' first
    | (with_reducible assumption)
    | (with_reducible refine finishBad_ticks _ _ _ ?_)
    | (with_reducible refine finish_ticks _ _ _ _ _ ?_)
    | (with_reducible refine sameFrame_of (u := send _ _) (send_only (ps := noFrame) _ _ (only_refl _ _) (by decide)) ?_)
    | (with_reducible refine sameFrame_when _ _ ?_ ?_)
    | (intro)
    | (extract_lets +onlyGivenNames s1; refine sameFrame_cut s1 ?_ ?_; unfold s1; clear s1; rotate_left; intro hs1; clear_value s1; rotate_right)
    | (extract_lets +onlyGivenNames v1)
    | (split)

theorem asyncRequest_ticks {s0 : State} (it : Item) (s : State) (h : SameFrame s0 s) :
    SameFrame s0 (asyncRequest it s) := by
  unfold asyncRequest
  repeat' first
    | (with_reducible assumption)
    | (with_reducible refine finishBad_ticks _ _ _ ?_)
    | (with_reducible refine reportEvents_ticks _ _ _ ?_)
    | (with_reducible refine sameFrame_of (u := updCtl _ _ _) (updCtl_only (ps := noFrame) _ _ _ (only_refl _ _) (by decide)) ?_)
    | (with_reducible refine sameFrame_of (u := updItem _ _ _) (updItem_only (ps := noFrame) _ _ _ (only_refl _ _) (by decide)) ?_)
    | (intro)
    | (split)

theorem directiveSend_ticks {s0 : State} (it : Item) (s : State) (h : SameFrame s0 s) :
    SameFrame s0 (directiveSend it s) := by
  unfold directiveSend
  repeat' first
    | (with_reducible assumption)
    | (with_reducible refine finishBad_ticks _ _ _ ?_)
    | (with_reducible refine finishOk_ticks _ _ ?_)
    | (intro)
    | (extract_lets +onlyGivenNames s1; refine sameFrame_cut s1 ?_ ?_; unfold s1; clear s1; rotate_left; intro hs1; clear_value s1; rotate_right)
    | (extract_lets +onlyGivenNames v1)
    | (split)

theorem directiveReceive_ticks {s0 : State} (it : Item) (s : State) (h : SameFrame s0 s) :
    SameFrame s0 (directiveReceive it s) := by
  unfold directiveReceive
  repeat' first
    | (with_reducible assumption)
    | (with_reducible refine finishBad_ticks _ _ _ ?_)
    | (with_reducible refine finishOk_ticks _ _ ?_)
    | (with_reducible refine sameFrame_of (u := send _ _) (send_only (ps := noFrame) _ _ (only_refl _ _) (by decide)) ?_)
    | (with_reducible refine finish_ticks _ _ _ _ _ ?_)
    | (intro)
    | (extract_lets +onlyGivenNames s1; refine sameFrame_cut s1 ?_ ?_; unfold s1; clear s1; rotate_left; intro hs1; clear_value s1; rotate_right)
    | (extract_lets +onlyGivenNames v1)
    | (split)

theorem securitySend_ticks {s0 : State} (it : Item) (s : State) (h : SameFrame s0 s) :
    SameFrame s0 (securitySend it s) := by
  unfold securitySend
  repeat' first
    | (with_reducible assumption)
    | (with_reducible refine finishOk_ticks _ _ ?_)
    | (with_reducible refine finishBad_ticks _ _ _ ?_)
    | (intro)
    | (split)

theorem securityReceive_ticks {s0 : State} (it : Item) (s : State) (h : SameFrame s0 s) :
    SameFrame s0 (securityReceive it s) := by
  unfold securityReceive
  repeat' first
    | (with_reducible assumption)
    | (with_reducible refine finishOk_ticks _ _ ?_)
    | (with_reducible refine sameFrame_of (u := send _ _) (send_only (ps := noFrame) _ _ (only_refl _ _) (by decide)) ?_)
    | (with_reducible refine finishBad_ticks _ _ _ ?_)
    | (intro)
    | (split)

theorem unsupported_ticks {s0 : State} (id : CmdId) (s : State) (h : SameFrame s0 s) :
    SameFrame s0 (unsupported id s) := by
  unfold unsupported
  repeat' first
    | (with_reducible assumption)
    | (with_reducible refine finishBad_ticks _ _ _ ?_)
    | (with_reducible refine sameFrame_id ?_)
    | (intro)
    | (split)

end Sys2Proof.Machine
end

