-- ==== Sys2Proof/Laws/Ticks/Tables.lean ====
section
/-! SUPPORT. Operations of Machine/Tables.lean that change the frame state in its count of ties alone. -/

set_option linter.tactic.unusedName false

namespace Sys2Proof.Machine

theorem correctLine_ticks {s0 : State} (line : Nat) (s : State) (h : SameFrame s0 s) :
    SameFrame s0 (correctLine line s) := by
  unfold correctLine
  repeat' first
    | (with_reducible assumption)
    | (with_reducible refine sameFrame_of (u := updMedia _ _) (updMedia_only (ps := noFrame) _ _ (only_refl _ _) (by decide)) ?_)
    | (with_reducible refine replaceLine_ticks _ _ ?_)
    | (intro)
    | (extract_lets +onlyGivenNames s1; refine sameFrame_cut s1 ?_ ?_; unfold s1; clear s1; rotate_left; intro hs1; clear_value s1; rotate_right)
    | (extract_lets +onlyGivenNames v1)
    | (split)

theorem readLine_ticks {s0 : State} (x0 : LineFind) (s : State) (h : SameFrame s0 s) :
    SameFrame s0 (readLine x0 s) := by
  unfold readLine
  repeat' first
    | (with_reducible assumption)
    | (with_reducible refine sameFrame_of (u := rebuildLine _ _) (rebuildLine_only (ps := noFrame) _ _ (only_refl _ _) (by decide)) ?_)
    | (with_reducible refine correctLine_ticks _ _ ?_)
    | (intro)
    | (split)

theorem readLines_ticks {s0 : State} (l : List LineFind) (s : State) (h : SameFrame s0 s) :
    SameFrame s0 (readLines l s) := by
  unfold readLines
  repeat' first
    | (with_reducible assumption)
    | (with_reducible refine readLine_ticks _ _ ?_)
    | (with_reducible refine sameFrame_forEach _ _ _ ?_ ?_)
    | (intro)
    | (split)

theorem homeLineWrite_ticks {s0 : State} (line : Nat) (readBackOk : Bool) (finds : List LineFind) (s : State) (h : SameFrame s0 s) :
    SameFrame s0 (homeLineWrite line readBackOk finds s) := by
  unfold homeLineWrite
  repeat' first
    | (with_reducible assumption)
    | (with_reducible refine replaceLine_ticks _ _ ?_)
    | (with_reducible refine readLines_ticks _ _ ?_)
    | (with_reducible refine sameFrame_of (u := advanceTail _) (advanceTail_only (ps := noFrame) _ (only_refl _ _) (by decide)) ?_)
    | (with_reducible refine sameFrame_of (u := updMedia _ _) (updMedia_only (ps := noFrame) _ _ (only_refl _ _) (by decide)) ?_)
    | (with_reducible refine sameFrame_of (u := writeLine _ _) (writeLine_only (ps := noFrame) _ _ (only_refl _ _) (by decide)) ?_)
    | (with_reducible refine sameFrame_when _ _ ?_ ?_)
    | (intro)
    | (extract_lets +onlyGivenNames s1; refine sameFrame_cut s1 ?_ ?_; unfold s1; clear s1; rotate_left; intro hs1; clear_value s1; rotate_right)
    | (extract_lets +onlyGivenNames v1)
    | (split)

end Sys2Proof.Machine
end

