-- ==== Sys2Proof/Laws/Ticks/Recorder.lean ====
section
/-! SUPPORT. Operations of Machine/Recorder.lean that change the frame state in its count of ties alone. -/

set_option linter.tactic.unusedName false

namespace Sys2Proof.Machine

theorem descWriteFinal_ticks {s0 : State} (r : Posted) (dma : Dma) (out : List Byte) (x3 : State → State) (s : State) (h : SameFrame s0 s) (hf0 : ∀ t, SameFrame s0 t → SameFrame s0 (x3 t)) :
    SameFrame s0 (descWriteFinal r dma out x3 s) := by
  unfold descWriteFinal
  repeat' first
    | (with_reducible assumption)
    | (with_reducible refine hf0 _ ?_)
    | (with_reducible refine descDma_ticks _ _ _ _ _ _ ?_ ?_ ?_)
    | (with_reducible refine sameFrame_of (u := finalReply _ _ _ _ _) (finalReply_only (ps := noFrame) _ _ _ _ _ (only_refl _ _) (by decide)) ?_)
    | (intro)

theorem recRead_ticks {s0 : State} (dma : Dma) (finds : List LineFind) (r : Posted) (s : State) (h : SameFrame s0 s) :
    SameFrame s0 (recRead dma finds r s) := by
  unfold recRead
  repeat' first
    | (with_reducible assumption)
    | (with_reducible refine readLines_ticks _ _ ?_)
    | (refine sameFrame_of (drawNat_only2 (ps := noFrame) (only_refl _ _) (by decide) (by assumption)) ?_)
    | (with_reducible refine sameFrame_of (drawNat_only (ps := noFrame) (only_refl _ _) (by decide)) ?_)
    | (with_reducible refine descWriteFinal_ticks _ _ _ _ _ ?_ ?_)
    | (with_reducible refine sameFrame_of (u := finalReply _ _ _ _ _) (finalReply_only (ps := noFrame) _ _ _ _ _ (only_refl _ _) (by decide)) ?_)
    | (with_reducible refine sameFrame_of (u := replyPending _ _) (replyPending_only (ps := noFrame) _ _ (only_refl _ _) (by decide)) ?_)
    | (intro)
    | (extract_lets +onlyGivenNames s1; refine sameFrame_cut s1 ?_ ?_; unfold s1; clear s1; rotate_left; intro hs1; clear_value s1; rotate_right)
    | (extract_lets +onlyGivenNames v1)
    | (split)

end Sys2Proof.Machine
end

