-- ==== Sys2Proof/Laws/Ticks/Reloc.lean ====
section
/-! SUPPORT. Operations of Machine/Reloc.lean that change the frame state in its count of ties alone. -/

set_option linter.tactic.unusedName false

namespace Sys2Proof.Machine

theorem relocationStart_ticks {s0 : State} (eg : Nat) (s : State) (h : SameFrame s0 s) :
    SameFrame s0 (relocationStart eg s) := by
  unfold relocationStart
  repeat' first
    | (with_reducible assumption)
    | (with_reducible refine bindCopies_ticks _ _ ?_)
    | (with_reducible refine sameFrame_of (u := startVictim _ _ _ _ _) (startVictim_only (ps := noFrame) _ _ _ _ _ (only_refl _ _) (by decide)) ?_)
    | (intro)
    | (split)

theorem discardStale_ticks {s0 : State} (eg : Nat) (s : State) (h : SameFrame s0 s) :
    SameFrame s0 (discardStale eg s) := by
  unfold discardStale
  repeat' first
    | (with_reducible assumption)
    | (with_reducible refine sameFrame_of (u := closeEarly _ _) (closeEarly_only (ps := noFrame) _ _ (only_refl _ _) (by decide)) ?_)
    | (with_reducible refine sameFrame_of (u := startVictim _ _ _ _ _) (startVictim_only (ps := noFrame) _ _ _ _ _ (only_refl _ _) (by decide)) ?_)
    | (with_reducible refine bindCopies_ticks _ _ ?_)
    | (with_reducible refine sameFrame_of (u := pendIfEmpty _ _) (pendIfEmpty_only (ps := noFrame) _ _ (only_refl _ _) (by decide)) ?_)
    | (intro)
    | (split)

theorem discardCurrent_ticks {s0 : State} (d : Discard) (eg : Nat) (s : State) (h : SameFrame s0 s) :
    SameFrame s0 (discardCurrent d eg s) := by
  unfold discardCurrent
  repeat' first
    | (with_reducible assumption)
    | (with_reducible refine sameFrame_of (u := closeEarly _ _) (closeEarly_only (ps := noFrame) _ _ (only_refl _ _) (by decide)) ?_)
    | (with_reducible refine bindCopies_ticks _ _ ?_)
    | (with_reducible refine sameFrame_of (u := startVictim _ _ _ _ _) (startVictim_only (ps := noFrame) _ _ _ _ _ (only_refl _ _) (by decide)) ?_)
    | (with_reducible refine sameFrame_of (u := submit _ _) (submit_only (ps := noFrame) _ _ (only_refl _ _) (by decide)) ?_)
    | (with_reducible refine sameFrame_of (u := takePend _ _) (takePend_only (ps := noFrame) _ _ (only_refl _ _) (by decide)) ?_)
    | (intro)
    | (extract_lets +onlyGivenNames s1; refine sameFrame_cut s1 ?_ ?_; unfold s1; clear s1; rotate_left; intro hs1; clear_value s1; rotate_right)
    | (extract_lets +onlyGivenNames v1)
    | (split)

theorem discardStep_ticks {s0 : State} (seq : Nat) (s : State) (h : SameFrame s0 s) :
    SameFrame s0 (discardStep seq s) := by
  unfold discardStep
  repeat' first
    | (with_reducible assumption)
    | (with_reducible refine sameFrame_of (u := discardBegin _ _) (discardBegin_only (ps := noFrame) _ _ (only_refl _ _) (by decide)) ?_)
    | (with_reducible refine discardStale_ticks _ _ ?_)
    | (with_reducible refine discardCurrent_ticks _ _ _ ?_)
    | (with_reducible refine sameFrame_of (u := dropDiscard _ _) (dropDiscard_only (ps := noFrame) _ _ (only_refl _ _) (by decide)) ?_)
    | (with_reducible refine postItem_ticks _ _ ?_)
    | (with_reducible refine sameFrame_of (u := discardRest _ _) (discardRest_only (ps := noFrame) _ _ (only_refl _ _) (by decide)) ?_)
    | (intro)
    | (extract_lets +onlyGivenNames s1; refine sameFrame_cut s1 ?_ ?_; unfold s1; clear s1; rotate_left; intro hs1; clear_value s1; rotate_right)
    | (extract_lets +onlyGivenNames v1)
    | (split)

end Sys2Proof.Machine
end

