-- ==== Sys2Proof/Laws/Ticks/Resets.lean ====
section
/-! SUPPORT. Operations of Machine/Resets.lean that change the frame state in its count of ties alone. -/

set_option linter.tactic.unusedName false

namespace Sys2Proof.Machine

theorem postOld_ticks {s0 : State} (n : Nat) (before : Nat) (s : State) (h : SameFrame s0 s) :
    SameFrame s0 (postOld n before s) := by
  unfold postOld
  repeat' first
    | (with_reducible assumption)
    | (with_reducible refine postItem_ticks _ _ ?_)
    | (with_reducible refine sameFrame_of (u := updMedia _ _) (updMedia_only (ps := noFrame) _ _ (only_refl _ _) (by decide)) ?_)
    | (with_reducible refine sameFrame_forEach _ _ _ ?_ ?_)
    | (intro)
    | (extract_lets +onlyGivenNames s1; refine sameFrame_cut s1 ?_ ?_; unfold s1; clear s1; rotate_left; intro hs1; clear_value s1; rotate_right)
    | (extract_lets +onlyGivenNames v1)
    | (split)

theorem resetEffect_ticks {s0 : State} (n : Nat) (s : State) (h : SameFrame s0 s) :
    SameFrame s0 (resetEffect n s) := by
  unfold resetEffect
  repeat' first
    | (with_reducible assumption)
    | (with_reducible refine sameFrame_of (u := updInst _ _) (updInst_only (ps := noFrame) _ _ (only_refl _ _) (by decide)) ?_)
    | (with_reducible refine sameFrame_of (u := updInstance _ _ _) (updInstance_only (ps := noFrame) _ _ _ (only_refl _ _) (by decide)) ?_)
    | (with_reducible refine sameFrame_of (u := updCtl _ _ _) (updCtl_only (ps := noFrame) _ _ _ (only_refl _ _) (by decide)) ?_)
    | (with_reducible refine sameFrame_of (u := stopOld _ _) (stopOld_only (ps := noFrame) _ _ (only_refl _ _) (by decide)) ?_)
    | (with_reducible refine sameFrame_of (u := rollbackZone _ _) (rollbackZone_only (ps := noFrame) _ _ (only_refl _ _) (by decide)) ?_)
    | (with_reducible refine sameFrame_of (u := closeZones _ _) (closeZones_only (ps := noFrame) _ _ (only_refl _ _) (by decide)) ?_)
    | (with_reducible refine sameFrame_of (u := flrEnd _ _) (flrEnd_only (ps := noFrame) _ _ (only_refl _ _) (by decide)) ?_)
    | (with_reducible refine postOld_ticks _ _ _ ?_)
    | (with_reducible refine finishBad_ticks _ _ _ ?_)
    | (with_reducible refine sameFrame_when _ _ ?_ ?_)
    | (with_reducible refine sameFrame_forEach _ _ _ ?_ ?_)
    | (intro)
    | (extract_lets +onlyGivenNames s1; refine sameFrame_cut s1 ?_ ?_; unfold s1; clear s1; rotate_left; intro hs1; clear_value s1; rotate_right)
    | (extract_lets +onlyGivenNames v1)
    | (split)

end Sys2Proof.Machine
end

