-- ==== Sys2Proof/Laws/Ticks/Wipe.lean ====
section
/-! SUPPORT. Operations of Machine/Wipe.lean that change the frame state in its count of ties alone. -/

set_option linter.tactic.unusedName false

namespace Sys2Proof.Machine

theorem formatNvm_ticks {s0 : State} (it : Item) (s : State) (h : SameFrame s0 s) :
    SameFrame s0 (formatNvm it s) := by
  unfold formatNvm
  repeat' first
    | (with_reducible assumption)
    | (with_reducible refine finishBad_ticks _ _ _ ?_)
    | (with_reducible refine sameFrame_of (u := updItem _ _ _) (updItem_only (ps := noFrame) _ _ _ (only_refl _ _) (by decide)) ?_)
    | (with_reducible refine sameFrame_of (u := updNs _ _ _) (updNs_only (ps := noFrame) _ _ _ (only_refl _ _) (by decide)) ?_)
    | (intro)
    | (extract_lets +onlyGivenNames s1; refine sameFrame_cut s1 ?_ ?_; unfold s1; clear s1; rotate_left; intro hs1; clear_value s1; rotate_right)
    | (extract_lets +onlyGivenNames v1)
    | (split)

theorem formatDone_ticks {s0 : State} (x : Nat) (s : State) (h : SameFrame s0 s) :
    SameFrame s0 (formatDone x s) := by
  unfold formatDone
  repeat' first
    | (with_reducible assumption)
    | (with_reducible refine sameFrame_of (u := updNs _ _ _) (updNs_only (ps := noFrame) _ _ _ (only_refl _ _) (by decide)) ?_)
    | (with_reducible refine notifyNs_ticks _ _ _ ?_)
    | (with_reducible refine finishOk_ticks _ _ ?_)
    | (with_reducible refine sameFrame_forEach _ _ _ ?_ ?_)
    | (intro)
    | (extract_lets +onlyGivenNames s1; refine sameFrame_cut s1 ?_ ?_; unfold s1; clear s1; rotate_left; intro hs1; clear_value s1; rotate_right)
    | (extract_lets +onlyGivenNames v1)
    | (split)

theorem sanitize_ticks {s0 : State} (action : Nat) (kind : EraseKind) (it : Item) (s : State) (h : SameFrame s0 s) :
    SameFrame s0 (sanitize action kind it s) := by
  unfold sanitize
  repeat' first
    | (with_reducible assumption)
    | (with_reducible refine finishBad_ticks _ _ _ ?_)
    | (with_reducible refine finishOk_ticks _ _ ?_)
    | (with_reducible refine sameFrame_of (u := updZone _ _) (updZone_only (ps := noFrame) _ _ (only_refl _ _) (by decide)) ?_)
    | (intro)
    | (split)

theorem exitFailure_ticks {s0 : State} (it : Item) (s : State) (h : SameFrame s0 s) :
    SameFrame s0 (exitFailure it s) := by
  unfold exitFailure
  repeat' first
    | (with_reducible assumption)
    | (with_reducible refine finishBad_ticks _ _ _ ?_)
    | (with_reducible refine finishOk_ticks _ _ ?_)
    | (with_reducible refine sameFrame_of (u := updZone _ _) (updZone_only (ps := noFrame) _ _ (only_refl _ _) (by decide)) ?_)
    | (with_reducible refine sameFrame_when _ _ ?_ ?_)
    | (intro)
    | (split)

theorem abortEnd_ticks {s0 : State} (it : Item) (target : Nat) (s : State) (h : SameFrame s0 s) :
    SameFrame s0 (abortEnd it target s) := by
  unfold abortEnd
  repeat' first
    | (with_reducible assumption)
    | (with_reducible refine finishOk_ticks _ _ ?_)
    | (with_reducible refine sameFrame_of (u := updItem _ _ _) (updItem_only (ps := noFrame) _ _ _ (only_refl _ _) (by decide)) ?_)
    | (intro)
    | (split)

theorem abort_ticks {s0 : State} (it : Item) (s : State) (h : SameFrame s0 s) :
    SameFrame s0 (abort it s) := by
  unfold abort
  repeat' first
    | (with_reducible assumption)
    | (with_reducible refine abortEnd_ticks _ _ _ ?_)
    | (with_reducible refine finishBad_ticks _ _ _ ?_)
    | (with_reducible refine finish_ticks _ _ _ _ _ ?_)
    | (with_reducible refine failItem_ticks _ _ _ ?_)
    | (intro)
    | (extract_lets +onlyGivenNames s1; refine sameFrame_cut s1 ?_ ?_; unfold s1; clear s1; rotate_left; intro hs1; clear_value s1; rotate_right)
    | (extract_lets +onlyGivenNames v1)
    | (split)

theorem lifetimeEnd_ticks {s0 : State} (it : Item) (s : State) (h : SameFrame s0 s) :
    SameFrame s0 (lifetimeEnd it s) := by
  unfold lifetimeEnd
  repeat' first
    | (with_reducible assumption)
    | (with_reducible refine sameFrame_of (u := cutDiscard _ _) (cutDiscard_only (ps := noFrame) _ _ (only_refl _ _) (by decide)) ?_)
    | (with_reducible refine sameFrame_of (u := latch _ _ _ _ _) (latch_only (ps := noFrame) _ _ _ _ _ (only_refl _ _) (by decide)) ?_)
    | (with_reducible refine failItem_ticks _ _ _ ?_)
    | (intro)
    | (split)

theorem lifetimeExpiry_ticks {s0 : State} (id : CmdId) (s : State) (h : SameFrame s0 s) :
    SameFrame s0 (lifetimeExpiry id s) := by
  unfold lifetimeExpiry
  repeat' first
    | (with_reducible assumption)
    | (with_reducible refine lifetimeEnd_ticks _ _ ?_)
    | (with_reducible refine sameFrame_id ?_)
    | (intro)
    | (split)

end Sys2Proof.Machine
end

