-- ==== Sys2Proof/Laws/AllOnly.lean ====
section
/-! SUPPORT. Every operation's frame laws in one import. -/
end

