-- ==== Sys2Proof/Laws/Cnt.lean ====
section
/-! SUPPORT. Operations that leave the frame counter alone (R42), and how they compose. -/

namespace Sys2Proof.Machine

/-- The frame counter is what it was. -/
structure KeepsCnt (s t : State) : Prop where
  eq : t.frame.counter = s.frame.counter

theorem keepsCnt_refl (s : State) : KeepsCnt s s := ⟨rfl⟩

theorem KeepsCnt.trans {s t u : State} (h : KeepsCnt s t) (k : KeepsCnt t u) : KeepsCnt s u := ⟨k.eq.trans h.eq⟩

theorem keepsCnt_mk {s t u : State} (e : u.frame = t.frame) (h : KeepsCnt s t) : KeepsCnt s u := ⟨e ▸ h.eq⟩

/-- An operation that leaves the frame state alone. -/
theorem keepsCnt_of {s t u : State} (k : Only noFrame t u) (h : KeepsCnt s t) : KeepsCnt s u :=
  keepsCnt_mk (k.same .frame (by decide)) h

theorem keepsCnt_upd {s0 s : State} (f : FrameSt → FrameSt) (hf : ∀ m, (f m).counter = m.counter) (h : KeepsCnt s0 s) :
    KeepsCnt s0 (updFrame f s) := ⟨(hf s.frame).trans h.eq⟩

/-- An operation that changes the frame state in its count of ties alone. -/
theorem keepsCnt_ticks {s0 t u : State} (k : SameFrame t u) (h : KeepsCnt s0 t) : KeepsCnt s0 u := by
  obtain ⟨n, e⟩ := k.frame
  exact ⟨by rw [e]; exact h.eq⟩

theorem keepsCnt_frame {s0 s : State} (v : FrameSt) (h : KeepsCnt s0 s) (e : v.counter = s.frame.counter := by rfl) :
    KeepsCnt s0 { s with frame := v } := ⟨e.trans h.eq⟩

theorem keepsCnt_mbx {s0 s : State} (v) (h : KeepsCnt s0 s) : KeepsCnt s0 { s with mbx := v } :=
  keepsCnt_mk (t := s) rfl h

theorem keepsCnt_host {s0 s : State} (v) (h : KeepsCnt s0 s) : KeepsCnt s0 { s with host := v } :=
  keepsCnt_mk (t := s) rfl h

theorem keepsCnt_zone {s0 s : State} (v) (h : KeepsCnt s0 s) : KeepsCnt s0 { s with zone := v } :=
  keepsCnt_mk (t := s) rfl h

theorem keepsCnt_media {s0 s : State} (v) (h : KeepsCnt s0 s) : KeepsCnt s0 { s with media := v } :=
  keepsCnt_mk (t := s) rfl h

theorem keepsCnt_flash {s0 s : State} (v) (h : KeepsCnt s0 s) : KeepsCnt s0 { s with flash := v } :=
  keepsCnt_mk (t := s) rfl h

theorem keepsCnt_inst {s0 s : State} (v) (h : KeepsCnt s0 s) : KeepsCnt s0 { s with inst := v } :=
  keepsCnt_mk (t := s) rfl h

theorem keepsCnt_prot {s0 s : State} (v) (h : KeepsCnt s0 s) : KeepsCnt s0 { s with prot := v } :=
  keepsCnt_mk (t := s) rfl h

theorem keepsCnt_ecc {s0 s : State} (v) (h : KeepsCnt s0 s) : KeepsCnt s0 { s with ecc := v } :=
  keepsCnt_mk (t := s) rfl h

theorem keepsCnt_fw {s0 s : State} (v) (h : KeepsCnt s0 s) : KeepsCnt s0 { s with fw := v } :=
  keepsCnt_mk (t := s) rfl h

theorem keepsCnt_power {s0 s : State} (v) (h : KeepsCnt s0 s) : KeepsCnt s0 { s with power := v } :=
  keepsCnt_mk (t := s) rfl h

theorem keepsCnt_therm {s0 s : State} (v) (h : KeepsCnt s0 s) : KeepsCnt s0 { s with therm := v } :=
  keepsCnt_mk (t := s) rfl h

theorem keepsCnt_mgmt {s0 s : State} (v) (h : KeepsCnt s0 s) : KeepsCnt s0 { s with mgmt := v } :=
  keepsCnt_mk (t := s) rfl h

theorem keepsCnt_pins {s0 s : State} (v) (h : KeepsCnt s0 s) : KeepsCnt s0 { s with pins := v } :=
  keepsCnt_mk (t := s) rfl h

theorem keepsCnt_recd {s0 s : State} (v) (h : KeepsCnt s0 s) : KeepsCnt s0 { s with recd := v } :=
  keepsCnt_mk (t := s) rfl h

theorem keepsCnt_emit {s0 s : State} (v) (h : KeepsCnt s0 s) : KeepsCnt s0 { s with emit := v } :=
  keepsCnt_mk (t := s) rfl h

theorem keepsCnt_free {s0 s : State} (v) (h : KeepsCnt s0 s) : KeepsCnt s0 { s with free := v } :=
  keepsCnt_mk (t := s) rfl h

theorem keepsCnt_pending {s0 s : State} (v) (h : KeepsCnt s0 s) : KeepsCnt s0 { s with pending := v } :=
  keepsCnt_mk (t := s) rfl h

theorem keepsCnt_cut {s0 t : State} (s : State) (h : KeepsCnt s0 s) (k : KeepsCnt s0 s → KeepsCnt s0 t) :
    KeepsCnt s0 t := k h

theorem keepsCnt_id {s0 s : State} (h : KeepsCnt s0 s) : KeepsCnt s0 (id s) := h

theorem keepsCnt_when {s0 s : State} (c : Bool) (f : State → State) (h : KeepsCnt s0 s)
    (hf : ∀ t, KeepsCnt s0 t → KeepsCnt s0 (f t)) : KeepsCnt s0 (when c f s) := by
  unfold when; split
  · exact hf s h
  · exact h

theorem keepsCnt_foldl {α : Type} {s0 : State} (l : List α) (f : State → α → State) (s : State) (h : KeepsCnt s0 s)
    (hf : ∀ t a, KeepsCnt s0 t → KeepsCnt s0 (f t a)) : KeepsCnt s0 (l.foldl f s) := by
  induction l generalizing s with
  | nil => exact h
  | cons a l ih => exact ih (f s a) (hf s a h)

theorem keepsCnt_forEach {α : Type} {s0 : State} (l : List α) (f : α → State → State) (s : State)
    (h : KeepsCnt s0 s) (hf : ∀ a t, KeepsCnt s0 t → KeepsCnt s0 (f a t)) : KeepsCnt s0 (forEach l f s) :=
  keepsCnt_foldl l _ s h fun t a ht => hf a t ht

structure KeepsCntOpt (s0 : State) (o : Option State) : Prop where
  same : ∀ t, o = some t → KeepsCnt s0 t

theorem keepsCntOpt_none (s0 : State) : KeepsCntOpt s0 none := ⟨fun _ h => by simp at h⟩

theorem keepsCntOpt_some {s0 s : State} (h : KeepsCnt s0 s) : KeepsCntOpt s0 (some s) :=
  ⟨fun _ e => by cases e; exact h⟩

theorem keepsCntOpt_of {s0 s : State} {o : Option State} (k : OnlyOpt noFrame s o) (h : KeepsCnt s0 s) :
    KeepsCntOpt s0 o := ⟨fun t e => keepsCnt_of (k.only t e) h⟩

theorem keepsCntOpt_ticks {s0 s : State} {o : Option State} (k : SameFrameOpt s o) (h : KeepsCnt s0 s) :
    KeepsCntOpt s0 o := ⟨fun t e => keepsCnt_ticks (k.same t e) h⟩

theorem keepsCnt_getD {s0 s : State} {o : Option State} (k : KeepsCntOpt s0 o) (h : KeepsCnt s0 s) :
    KeepsCnt s0 (o.getD s) := by
  cases o with
  | none => exact h
  | some t => exact k.same t rfl

end Sys2Proof.Machine
end

