-- ==== Sys2Proof/Laws/Cnt/QueueOps.lean ====
section
/-! SUPPORT. Operations of Machine/QueueOps.lean leave the frame counter alone. -/

set_option linter.tactic.unusedName false

namespace Sys2Proof.Machine

theorem noteTie_cnt {s0 : State} (a : Nat) (l : Nat) (s : State) (h : KeepsCnt s0 s) :
    KeepsCnt s0 (noteTie a l s) := by
  unfold noteTie
  repeat' first
    | (with_reducible assumption)
    | (with_reducible refine keepsCnt_when _ _ ?_ ?_)
    | (intro)
    | (refine keepsCnt_frame _ ?_)

end Sys2Proof.Machine
end

