-- ==== Sys2Proof/Laws/Cnt/Frame.lean ====
section
/-! SUPPORT. Operations of Machine/Frame.lean leave the frame counter alone. -/

set_option linter.tactic.unusedName false

namespace Sys2Proof.Machine

theorem updShelf_cnt {s0 : State} (x0 : Shelf → Shelf) (s : State) (h : KeepsCnt s0 s) :
    KeepsCnt s0 (updShelf x0 s) := by
  unfold updShelf
  repeat' first
    | (with_reducible assumption)
    | (intro)
    | (refine keepsCnt_upd _ (fun m => rfl) ?_)

theorem trackPhase_cnt {s0 : State} (phase : Int) (s : State) (h : KeepsCnt s0 s) :
    KeepsCnt s0 (trackPhase phase s) := by
  unfold trackPhase
  repeat' first
    | (with_reducible assumption)
    | (refine keepsCnt_of (drawInt_only2 (ps := noFrame) _ _ (only_refl _ _) (by decide) (by assumption)) ?_)
    | (with_reducible refine keepsCnt_of (drawInt_only (ps := noFrame) _ _ (only_refl _ _) (by decide)) ?_)
    | (with_reducible refine updShelf_cnt _ _ ?_)
    | (intro)
    | (extract_lets +onlyGivenNames s1; refine keepsCnt_cut s1 ?_ ?_; unfold s1; clear s1; rotate_left; intro hs1; clear_value s1; rotate_right)
    | (extract_lets +onlyGivenNames v1)
    | (split)

theorem lockQualify_cnt {s0 : State}  (s : State) (h : KeepsCnt s0 s) :
    KeepsCnt s0 (lockQualify s) := by
  unfold lockQualify
  repeat' first
    | (with_reducible assumption)
    | (with_reducible refine updShelf_cnt _ _ ?_)
    | (with_reducible refine keepsCnt_when _ _ ?_ ?_)
    | (intro)
    | (extract_lets +onlyGivenNames s1; refine keepsCnt_cut s1 ?_ ?_; unfold s1; clear s1; rotate_left; intro hs1; clear_value s1; rotate_right)
    | (extract_lets +onlyGivenNames v1)

theorem holdover_cnt {s0 : State}  (s : State) (h : KeepsCnt s0 s) :
    KeepsCnt s0 (holdover s) := by
  unfold holdover
  repeat' first
    | (with_reducible assumption)
    | (with_reducible refine updShelf_cnt _ _ ?_)
    | (with_reducible refine keepsCnt_when _ _ ?_ ?_)
    | (intro)
    | (split)

theorem syncTimeout_cnt {s0 : State}  (s : State) (h : KeepsCnt s0 s) :
    KeepsCnt s0 (syncTimeout s) := by
  unfold syncTimeout
  repeat' first
    | (with_reducible assumption)
    | (with_reducible refine updShelf_cnt _ _ ?_)
    | (with_reducible refine keepsCnt_when _ _ ?_ ?_)
    | (intro)
    | (extract_lets +onlyGivenNames s1; refine keepsCnt_cut s1 ?_ ?_; unfold s1; clear s1; rotate_left; intro hs1; clear_value s1; rotate_right)
    | (extract_lets +onlyGivenNames v1)

theorem syncPulse_cnt {s0 : State}  (s : State) (h : KeepsCnt s0 s) :
    KeepsCnt s0 (syncPulse s) := by
  unfold syncPulse
  repeat' first
    | (with_reducible assumption)
    | (with_reducible refine updShelf_cnt _ _ ?_)
    | (with_reducible refine noteTie_cnt _ _ _ ?_)
    | (refine keepsCnt_of (drawInt_only2 (ps := noFrame) _ _ (only_refl _ _) (by decide) (by assumption)) ?_)
    | (with_reducible refine keepsCnt_of (drawInt_only (ps := noFrame) _ _ (only_refl _ _) (by decide)) ?_)
    | (with_reducible refine keepsCnt_when _ _ ?_ ?_)
    | (intro)
    | (extract_lets +onlyGivenNames s1; refine keepsCnt_cut s1 ?_ ?_; unfold s1; clear s1; rotate_left; intro hs1; clear_value s1; rotate_right)
    | (extract_lets +onlyGivenNames v1)
    | (split)

theorem linkUp_cnt {s0 : State} (up : Bool) (count : Nat) (s : State) (h : KeepsCnt s0 s) :
    KeepsCnt s0 (linkUp up count s) := by
  unfold linkUp
  repeat' first
    | (with_reducible assumption)
    | (with_reducible refine keepsCnt_of (u := send _ _) (send_only (ps := noFrame) _ _ (only_refl _ _) (by decide)) ?_)
    | (with_reducible refine noteTie_cnt _ _ _ ?_)
    | (with_reducible refine updShelf_cnt _ _ ?_)
    | (with_reducible refine keepsCnt_getD ?_ ?_)
    | (with_reducible refine keepsCnt_when _ _ ?_ ?_)
    | (intro)
    | (extract_lets +onlyGivenNames s1; refine keepsCnt_cut s1 ?_ ?_; unfold s1; clear s1; rotate_left; intro hs1; clear_value s1; rotate_right)
    | (extract_lets +onlyGivenNames v1)
    | (split)

theorem linkDown_cnt {s0 : State} (up : Bool) (s : State) (h : KeepsCnt s0 s) :
    KeepsCnt s0 (linkDown up s) := by
  unfold linkDown
  repeat' first
    | (with_reducible assumption)
    | (with_reducible refine updShelf_cnt _ _ ?_)
    | (intro)
    | (split)

theorem setLane_cnt {s0 : State} (l : Nat) (a : Lane) (s : State) (h : KeepsCnt s0 s) :
    KeepsCnt s0 (setLane l a s) := by
  unfold setLane
  repeat' first
    | (with_reducible assumption)
    | (intro)
    | (refine keepsCnt_upd _ (fun m => rfl) ?_)

theorem laneSlip_cnt {s0 : State} (l : Nat) (s : State) (h : KeepsCnt s0 s) :
    KeepsCnt s0 (laneSlip l s) := by
  unfold laneSlip
  repeat' first
    | (with_reducible assumption)
    | (with_reducible refine setLane_cnt _ _ _ ?_)
    | (with_reducible refine keepsCnt_of (u := updRec _ _) (updRec_only (ps := noFrame) _ _ (only_refl _ _) (by decide)) ?_)
    | (with_reducible refine keepsCnt_getD ?_ ?_)
    | (intro)
    | (extract_lets +onlyGivenNames s1; refine keepsCnt_cut s1 ?_ ?_; unfold s1; clear s1; rotate_left; intro hs1; clear_value s1; rotate_right)
    | (extract_lets +onlyGivenNames v1)
    | (refine keepsCnt_upd _ (fun m => rfl) ?_)

theorem laneCommit_cnt {s0 : State} (l : Nat) (s : State) (h : KeepsCnt s0 s) :
    KeepsCnt s0 (laneCommit l s) := by
  unfold laneCommit
  repeat' first
    | (with_reducible assumption)
    | (with_reducible refine setLane_cnt _ _ _ ?_)
    | (with_reducible refine keepsCnt_when _ _ ?_ ?_)
    | (intro)
    | (extract_lets +onlyGivenNames s1; refine keepsCnt_cut s1 ?_ ?_; unfold s1; clear s1; rotate_left; intro hs1; clear_value s1; rotate_right)
    | (extract_lets +onlyGivenNames v1)

theorem frameSlip_cnt {s0 : State}  (s : State) (h : KeepsCnt s0 s) :
    KeepsCnt s0 (frameSlip s) := by
  unfold frameSlip
  repeat' first
    | (with_reducible assumption)
    | (with_reducible refine keepsCnt_of (u := updRec _ _) (updRec_only (ps := noFrame) _ _ (only_refl _ _) (by decide)) ?_)
    | (intro)
    | (refine keepsCnt_upd _ (fun m => rfl) ?_)

theorem commitLanes_cnt {s0 : State} (late : List Nat) (s : State) (h : KeepsCnt s0 s) :
    KeepsCnt s0 (commitLanes late s) := by
  unfold commitLanes
  repeat' first
    | (with_reducible assumption)
    | (with_reducible refine laneCommit_cnt _ _ ?_)
    | (with_reducible refine laneSlip_cnt _ _ ?_)
    | (with_reducible refine frameSlip_cnt _ ?_)
    | (with_reducible refine keepsCnt_when _ _ ?_ ?_)
    | (with_reducible refine keepsCnt_forEach _ _ _ ?_ ?_)
    | (intro)
    | (extract_lets +onlyGivenNames s1; refine keepsCnt_cut s1 ?_ ?_; unfold s1; clear s1; rotate_left; intro hs1; clear_value s1; rotate_right)
    | (extract_lets +onlyGivenNames v1)

theorem resetLane_cnt {s0 : State} (l : Nat) (s : State) (h : KeepsCnt s0 s) :
    KeepsCnt s0 (resetLane l s) := by
  unfold resetLane
  repeat' first
    | (with_reducible assumption)
    | (refine keepsCnt_of (drawNat_only2 (ps := noFrame) (only_refl _ _) (by decide) (by assumption)) ?_)
    | (with_reducible refine keepsCnt_of (drawNat_only (ps := noFrame) (only_refl _ _) (by decide)) ?_)
    | (with_reducible refine setLane_cnt _ _ _ ?_)
    | (with_reducible refine keepsCnt_of (u := updRec _ _) (updRec_only (ps := noFrame) _ _ (only_refl _ _) (by decide)) ?_)
    | (intro)
    | (extract_lets +onlyGivenNames s1; refine keepsCnt_cut s1 ?_ ?_; unfold s1; clear s1; rotate_left; intro hs1; clear_value s1; rotate_right)
    | (extract_lets +onlyGivenNames v1)
    | (split)
    | (refine keepsCnt_upd _ (fun m => rfl) ?_)

theorem rebuildLanes_cnt {s0 : State}  (s : State) (h : KeepsCnt s0 s) :
    KeepsCnt s0 (rebuildLanes s) := by
  unfold rebuildLanes
  repeat' first
    | (with_reducible assumption)
    | (intro)
    | (refine keepsCnt_upd _ (fun m => rfl) ?_)

end Sys2Proof.Machine
end

