-- ==== Sys2Proof/Laws/Ticks/ConfigRec.lean ====
section
/-! SUPPORT. Operations of Machine/ConfigRec.lean that change the frame state in its count of ties alone. -/

set_option linter.tactic.unusedName false

namespace Sys2Proof.Machine

theorem cfgRead_ticks {s0 : State} (dma : Dma) (finds : List LineFind) (r : Posted) (s : State) (h : SameFrame s0 s) :
    SameFrame s0 (cfgRead dma finds r s) := by
  unfold cfgRead
  repeat' first
    | (with_reducible assumption)
    | (with_reducible refine readLines_ticks _ _ ?_)
    | (with_reducible refine sameFrame_of (u := replyRefused _ _ _) (replyRefused_only (ps := noFrame) _ _ _ (only_refl _ _) (by decide)) ?_)
    | (with_reducible refine descWrite_ticks _ _ _ _ _ ?_ ?_)
    | (with_reducible refine sameFrame_of (u := replyOk _ _ _) (replyOk_only (ps := noFrame) _ _ _ (only_refl _ _) (by decide)) ?_)
    | (intro)
    | (extract_lets +onlyGivenNames s1; refine sameFrame_cut s1 ?_ ?_; unfold s1; clear s1; rotate_left; intro hs1; clear_value s1; rotate_right)
    | (extract_lets +onlyGivenNames v1)
    | (split)

theorem calRead_ticks {s0 : State} (dma : Dma) (finds : List LineFind) (r : Posted) (s : State) (h : SameFrame s0 s) :
    SameFrame s0 (calRead dma finds r s) := by
  unfold calRead
  repeat' first
    | (with_reducible assumption)
    | (with_reducible refine readLines_ticks _ _ ?_)
    | (refine sameFrame_of (drawNat_only2 (ps := noFrame) (only_refl _ _) (by decide) (by assumption)) ?_)
    | (with_reducible refine sameFrame_of (drawNat_only (ps := noFrame) (only_refl _ _) (by decide)) ?_)
    | (with_reducible refine descWrite_ticks _ _ _ _ _ ?_ ?_)
    | (with_reducible refine sameFrame_of (u := replyOk _ _ _) (replyOk_only (ps := noFrame) _ _ _ (only_refl _ _) (by decide)) ?_)
    | (intro)
    | (extract_lets +onlyGivenNames s1; refine sameFrame_cut s1 ?_ ?_; unfold s1; clear s1; rotate_left; intro hs1; clear_value s1; rotate_right)
    | (extract_lets +onlyGivenNames v1)
    | (split)

end Sys2Proof.Machine
end

