-- ==== Sys2Proof/Laws/Cnt/ConfigRec.lean ====
section
/-! SUPPORT. Operations of Machine/ConfigRec.lean leave the frame counter alone. -/

set_option linter.tactic.unusedName false

namespace Sys2Proof.Machine

theorem applySync_cnt {s0 : State} (on : Bool) (s : State) (h : KeepsCnt s0 s) :
    KeepsCnt s0 (applySync on s) := by
  unfold applySync
  repeat' first
    | (with_reducible assumption)
    | (with_reducible refine updShelf_cnt _ _ ?_)
    | (intro)
    | (extract_lets +onlyGivenNames s1; refine keepsCnt_cut s1 ?_ ?_; unfold s1; clear s1; rotate_left; intro hs1; clear_value s1; rotate_right)
    | (extract_lets +onlyGivenNames v1)
    | (split)

theorem applyCfg_cnt {s0 : State}  (s : State) (h : KeepsCnt s0 s) :
    KeepsCnt s0 (applyCfg s) := by
  unfold applyCfg
  repeat' first
    | (with_reducible assumption)
    | (with_reducible refine keepsCnt_of (u := updFw _ _) (updFw_only (ps := noFrame) _ _ (only_refl _ _) (by decide)) ?_)
    | (with_reducible refine applySync_cnt _ _ ?_)
    | (with_reducible refine keepsCnt_of (u := applyThermal _ _) (applyThermal_only (ps := noFrame) _ _ (only_refl _ _) (by decide)) ?_)
    | (intro)
    | (extract_lets +onlyGivenNames s1; refine keepsCnt_cut s1 ?_ ?_; unfold s1; clear s1; rotate_left; intro hs1; clear_value s1; rotate_right)
    | (extract_lets +onlyGivenNames v1)
    | (split)

end Sys2Proof.Machine
end

