-- ==== Sys2Proof/Laws/Cnt/Metering.lean ====
section
/-! SUPPORT. Operations of Machine/Metering.lean leave the frame counter alone. -/

set_option linter.tactic.unusedName false

namespace Sys2Proof.Machine

theorem freezeSlips_cnt {s0 : State}  (s : State) (h : KeepsCnt s0 s) :
    KeepsCnt s0 (freezeSlips s) := by
  unfold freezeSlips
  repeat' first
    | (with_reducible assumption)
    | (with_reducible refine keepsCnt_of (u := boardWrite _ _ _) (boardWrite_only (ps := noFrame) _ _ _ (only_refl _ _) (by decide)) ?_)
    | (intro)
    | (extract_lets +onlyGivenNames s1; refine keepsCnt_cut s1 ?_ ?_; unfold s1; clear s1; rotate_left; intro hs1; clear_value s1; rotate_right)
    | (extract_lets +onlyGivenNames v1)
    | (refine keepsCnt_upd _ (fun m => rfl) ?_)

theorem freezeMinute_cnt {s0 : State} (extra : MFlags) (at_ : Nat) (s : State) (h : KeepsCnt s0 s) :
    KeepsCnt s0 (freezeMinute extra at_ s) := by
  unfold freezeMinute
  repeat' first
    | (with_reducible assumption)
    | (with_reducible refine keepsCnt_of (u := updInst _ _) (updInst_only (ps := noFrame) _ _ (only_refl _ _) (by decide)) ?_)
    | (with_reducible refine keepsCnt_of (u := commitAges _) (commitAges_only (ps := noFrame) _ (only_refl _ _) (by decide)) ?_)
    | (with_reducible refine freezeSlips_cnt _ ?_)
    | (with_reducible refine keepsCnt_of (u := freezePlacement _) (freezePlacement_only (ps := noFrame) _ (only_refl _ _) (by decide)) ?_)
    | (intro)
    | (extract_lets +onlyGivenNames s1; refine keepsCnt_cut s1 ?_ ?_; unfold s1; clear s1; rotate_left; intro hs1; clear_value s1; rotate_right)
    | (extract_lets +onlyGivenNames k1; have _ck := fun x => (k1 x : State → State); clear _ck)
    | (extract_lets +onlyGivenNames k1; have _ck := fun x => (k1 x : State); clear _ck)
    | (extract_lets +onlyGivenNames v1)
    | (split)
    | (dsimp only [k1])

theorem minuteEnd_cnt {s0 : State} (cut : Bool) (s : State) (h : KeepsCnt s0 s) :
    KeepsCnt s0 (minuteEnd cut s) := by
  unfold minuteEnd
  repeat' first
    | (with_reducible assumption)
    | (with_reducible refine freezeMinute_cnt _ _ _ ?_)
    | (intro)
    | (split)

theorem passMinutes_cnt {s0 : State} (x0 : Nat) (x1 : Nat) (x2 : Nat) (s : State) (h : KeepsCnt s0 s) :
    KeepsCnt s0 (passMinutes x0 x1 x2 s) := by
  fun_induction passMinutes
  repeat' first
    | (with_reducible assumption)
    | (with_reducible refine keepsCnt_of (u := meterPassed _ _) (meterPassed_only (ps := noFrame) _ _ (only_refl _ _) (by decide)) ?_)
    | (with_reducible refine freezeMinute_cnt _ _ _ ?_)
    | (apply_assumption)
    | (intro)
    | (extract_lets +onlyGivenNames s1; refine keepsCnt_cut s1 ?_ ?_; unfold s1; clear s1; rotate_left; intro hs1; clear_value s1; rotate_right)
    | (extract_lets +onlyGivenNames v1)
    | (split)

end Sys2Proof.Machine
end

