-- ==== Sys2Proof/Laws/Cnt/Boot.lean ====
section
/-! SUPPORT. Operations of Machine/Boot.lean leave the frame counter alone. -/

set_option linter.tactic.unusedName false

namespace Sys2Proof.Machine

theorem endMinutes_cnt {s0 : State}  (s : State) (h : KeepsCnt s0 s) :
    KeepsCnt s0 (endMinutes s) := by
  unfold endMinutes
  repeat' first
    | (with_reducible assumption)
    | (with_reducible refine passMinutes_cnt _ _ _ _ ?_)
    | (with_reducible refine freezeMinute_cnt _ _ _ ?_)
    | (intro)
    | (extract_lets +onlyGivenNames s1; refine keepsCnt_cut s1 ?_ ?_; unfold s1; clear s1; rotate_left; intro hs1; clear_value s1; rotate_right)
    | (extract_lets +onlyGivenNames v1)
    | (split)

theorem readRecord_cnt {s0 : State} (found : BootFind) (s : State) (h : KeepsCnt s0 s) :
    KeepsCnt s0 (readRecord found s) := by
  unfold readRecord
  repeat' first
    | (with_reducible assumption)
    | (with_reducible refine keepsCnt_of (u := updFw _ _) (updFw_only (ps := noFrame) _ _ (only_refl _ _) (by decide)) ?_)
    | (with_reducible refine updShelf_cnt _ _ ?_)
    | (with_reducible refine applySync_cnt _ _ ?_)
    | (with_reducible refine keepsCnt_of (u := applyThermal _ _) (applyThermal_only (ps := noFrame) _ _ (only_refl _ _) (by decide)) ?_)
    | (intro)
    | (extract_lets +onlyGivenNames s1; refine keepsCnt_cut s1 ?_ ?_; unfold s1; clear s1; rotate_left; intro hs1; clear_value s1; rotate_right)
    | (extract_lets +onlyGivenNames v1)
    | (split)

end Sys2Proof.Machine
end

