-- ==== Sys2Proof/Laws/Cnt/Planner.lean ====
section
/-! SUPPORT. Operations of Machine/Planner.lean leave the frame counter alone. -/

set_option linter.tactic.unusedName false

namespace Sys2Proof.Machine

theorem planCommit_cnt {s0 : State} (late : List Nat) (s : State) (h : KeepsCnt s0 s) :
    KeepsCnt s0 (planCommit late s) := by
  unfold planCommit
  repeat' first
    | (with_reducible assumption)
    | (with_reducible refine keepsCnt_ticks (u := buildPlan _) (buildPlan_ticks _ (sameFrame_refl _)) ?_)
    | (with_reducible refine commitLanes_cnt _ _ ?_)
    | (with_reducible refine keepsCnt_of (u := updFlash _ _) (updFlash_only (ps := noFrame) _ _ (only_refl _ _) (by decide)) ?_)
    | (intro)
    | (extract_lets +onlyGivenNames s1; refine keepsCnt_cut s1 ?_ ?_; unfold s1; clear s1; rotate_left; intro hs1; clear_value s1; rotate_right)
    | (extract_lets +onlyGivenNames v1)
    | (split)
    | (refine keepsCnt_upd _ (fun m => rfl) ?_)

theorem laneReset_cnt {s0 : State} (l : Nat) (s : State) (h : KeepsCnt s0 s) :
    KeepsCnt s0 (laneReset l s) := by
  unfold laneReset
  repeat' first
    | (with_reducible assumption)
    | (with_reducible refine resetLane_cnt _ _ ?_)
    | (with_reducible refine keepsCnt_of (u := updFlash _ _) (updFlash_only (ps := noFrame) _ _ (only_refl _ _) (by decide)) ?_)
    | (with_reducible refine keepsCnt_ticks (u := senseLost _ _ _) (senseLost_ticks _ _ _ (sameFrame_refl _)) ?_)
    | (with_reducible refine keepsCnt_of (u := requeue _ _ _ _ _ _) (requeue_only (ps := noFrame) _ _ _ _ _ _ (only_refl _ _) (by decide)) ?_)
    | (with_reducible refine keepsCnt_forEach _ _ _ ?_ ?_)
    | (intro)
    | (extract_lets +onlyGivenNames s1; refine keepsCnt_cut s1 ?_ ?_; unfold s1; clear s1; rotate_left; intro hs1; clear_value s1; rotate_right)
    | (extract_lets +onlyGivenNames v1)
    | (split)

end Sys2Proof.Machine
end

