-- ==== Sys2Proof/Laws/Cnt/Power.lean ====
section
/-! SUPPORT. Operations of Machine/Power.lean leave the frame counter alone. -/

set_option linter.tactic.unusedName false

namespace Sys2Proof.Machine

theorem lowerRails_cnt {s0 : State} (wake : Bool) (s : State) (h : KeepsCnt s0 s) :
    KeepsCnt s0 (lowerRails wake s) := by
  unfold lowerRails
  repeat' first
    | (with_reducible assumption)
    | (with_reducible refine keepsCnt_of (u := railRestores _) (railRestores_only (ps := noFrame) _ (only_refl _ _) (by decide)) ?_)
    | (with_reducible refine keepsCnt_of (u := railWrites _) (railWrites_only (ps := noFrame) _ (only_refl _ _) (by decide)) ?_)
    | (with_reducible refine linkDown_cnt _ _ ?_)
    | (with_reducible refine keepsCnt_when _ _ ?_ ?_)
    | (intro)

theorem stopHall_cnt {s0 : State} (x0 : Entry) (s : State) (h : KeepsCnt s0 s) :
    KeepsCnt s0 (stopHall x0 s) := by
  unfold stopHall
  repeat' first
    | (with_reducible assumption)
    | (with_reducible refine keepsCnt_of (u := writeBuffer _) (writeBuffer_only (ps := noFrame) _ (only_refl _ _) (by decide)) ?_)
    | (with_reducible refine keepsCnt_ticks (u := finishOk _ _) (finishOk_ticks _ _ (sameFrame_refl _)) ?_)
    | (with_reducible refine keepsCnt_of (u := updFlash _ _) (updFlash_only (ps := noFrame) _ _ (only_refl _ _) (by decide)) ?_)
    | (with_reducible refine lowerRails_cnt _ _ ?_)
    | (with_reducible refine keepsCnt_of (u := updPower _ _) (updPower_only (ps := noFrame) _ _ (only_refl _ _) (by decide)) ?_)
    | (with_reducible refine keepsCnt_when _ _ ?_ ?_)
    | (intro)
    | (extract_lets +onlyGivenNames s1; refine keepsCnt_cut s1 ?_ ?_; unfold s1; clear s1; rotate_left; intro hs1; clear_value s1; rotate_right)
    | (extract_lets +onlyGivenNames v1)
    | (split)

theorem entryDrained_cnt {s0 : State}  (s : State) (h : KeepsCnt s0 s) :
    KeepsCnt s0 (entryDrained s) := by
  unfold entryDrained
  repeat' first
    | (with_reducible assumption)
    | (with_reducible refine stopHall_cnt _ _ ?_)
    | (intro)
    | (split)

theorem abortEntry_cnt {s0 : State} (x0 : Entry) (code : Nat) (s : State) (h : KeepsCnt s0 s) :
    KeepsCnt s0 (abortEntry x0 code s) := by
  unfold abortEntry
  repeat' first
    | (with_reducible assumption)
    | (with_reducible refine keepsCnt_ticks (u := refuseEntry _ _ _ _ _) (refuseEntry_ticks _ _ _ _ _ (sameFrame_refl _)) ?_)
    | (with_reducible refine keepsCnt_of (u := updPower _ _) (updPower_only (ps := noFrame) _ _ (only_refl _ _) (by decide)) ?_)
    | (intro)
    | (refine keepsCnt_upd _ (fun m => rfl) ?_)

theorem entryAbort_cnt {s0 : State}  (s : State) (h : KeepsCnt s0 s) :
    KeepsCnt s0 (entryAbort s) := by
  unfold entryAbort
  repeat' first
    | (with_reducible assumption)
    | (with_reducible refine abortEntry_cnt _ _ _ ?_)
    | (intro)
    | (split)

end Sys2Proof.Machine
end

