-- ==== Sys2Proof/Laws/Cnt/Rows.lean ====
section
/-! SUPPORT. Operations of Machine/Rows.lean leave the frame counter alone. -/

set_option linter.tactic.unusedName false

namespace Sys2Proof.Machine

theorem noteRowTie_cnt {s0 : State} (l : List Landed) (s : State) (h : KeepsCnt s0 s) :
    KeepsCnt s0 (noteRowTie l s) := by
  unfold noteRowTie
  repeat' first
    | (with_reducible assumption)
    | (with_reducible refine noteTie_cnt _ _ _ ?_)
    | (intro)
    | (split)

theorem dispatchZone_cnt {s0 : State} (x : Nat) (n : Ns) (first : Nat) (waited : Bool) (s : State) (h : KeepsCnt s0 s) :
    KeepsCnt s0 (dispatchZone x n first waited s) := by
  unfold dispatchZone
  repeat' first
    | (with_reducible assumption)
    | (refine keepsCnt_ticks (bindZoneRow_ticks2 _ _ _ _ (sameFrame_refl _) (by assumption)) ?_)
    | (with_reducible refine keepsCntOpt_ticks (bindZoneRow_ticksOpt _ _ _ _ _ (sameFrame_refl _)) ?_)
    | (with_reducible refine keepsCnt_of (u := blockNs _ _ _) (blockNs_only (ps := noFrame) _ _ _ (only_refl _ _) (by decide)) ?_)
    | (with_reducible refine noteRowTie_cnt _ _ ?_)
    | (with_reducible refine keepsCnt_of (u := updAmp _ _ _) (updAmp_only (ps := noFrame) _ _ _ (only_refl _ _) (by decide)) ?_)
    | (with_reducible refine keepsCnt_when _ _ ?_ ?_)
    | (intro)
    | (extract_lets +onlyGivenNames s1; refine keepsCnt_cut s1 ?_ ?_; unfold s1; clear s1; rotate_left; intro hs1; clear_value s1; rotate_right)
    | (extract_lets +onlyGivenNames v1)
    | (split)

theorem dispatchConv_cnt {s0 : State} (x : Nat) (n : Ns) (lc : Nat) (waited : Bool) (s : State) (h : KeepsCnt s0 s) :
    KeepsCnt s0 (dispatchConv x n lc waited s) := by
  unfold dispatchConv
  repeat' first
    | (with_reducible assumption)
    | (refine keepsCnt_ticks (bindConvRow_ticks2 _ _ _ (sameFrame_refl _) (by assumption)) ?_)
    | (with_reducible refine keepsCntOpt_ticks (bindConvRow_ticksOpt _ _ _ _ (sameFrame_refl _)) ?_)
    | (with_reducible refine keepsCnt_of (u := blockNs _ _ _) (blockNs_only (ps := noFrame) _ _ _ (only_refl _ _) (by decide)) ?_)
    | (with_reducible refine noteRowTie_cnt _ _ ?_)
    | (intro)
    | (extract_lets +onlyGivenNames s1; refine keepsCnt_cut s1 ?_ ?_; unfold s1; clear s1; rotate_left; intro hs1; clear_value s1; rotate_right)
    | (extract_lets +onlyGivenNames v1)
    | (split)

theorem dispatchRow_cnt {s0 : State} (x : Nat) (first : Nat) (waited : Bool) (s : State) (h : KeepsCnt s0 s) :
    KeepsCnt s0 (dispatchRow x first waited s) := by
  unfold dispatchRow
  repeat' first
    | (with_reducible assumption)
    | (with_reducible refine keepsCnt_of (u := noteReady _) (noteReady_only (ps := noFrame) _ (only_refl _ _) (by decide)) ?_)
    | (with_reducible refine dispatchZone_cnt _ _ _ _ _ ?_)
    | (with_reducible refine dispatchConv_cnt _ _ _ _ _ ?_)
    | (intro)
    | (extract_lets +onlyGivenNames s1; refine keepsCnt_cut s1 ?_ ?_; unfold s1; clear s1; rotate_left; intro hs1; clear_value s1; rotate_right)
    | (extract_lets +onlyGivenNames v1)
    | (split)

theorem rowTimeouts_cnt {s0 : State}  (s : State) (h : KeepsCnt s0 s) :
    KeepsCnt s0 (rowTimeouts s) := by
  unfold rowTimeouts
  repeat' first
    | (with_reducible assumption)
    | (with_reducible refine dispatchRow_cnt _ _ _ _ ?_)
    | (with_reducible refine keepsCnt_forEach _ _ _ ?_ ?_)
    | (intro)

end Sys2Proof.Machine
end

