-- ==== Sys2Proof/Laws/Cnt/Boundary.lean ====
section
/-! SUPPORT. Operations of Machine/Boundary.lean leave the frame counter alone. -/

set_option linter.tactic.unusedName false

namespace Sys2Proof.Machine

theorem timeouts_cnt {s0 : State}  (s : State) (h : KeepsCnt s0 s) :
    KeepsCnt s0 (timeouts s) := by
  unfold timeouts
  repeat' first
    | (with_reducible assumption)
    | (with_reducible refine keepsCnt_ticks (u := lifetimeExpiry _ _) (lifetimeExpiry_ticks _ _ (sameFrame_refl _)) ?_)
    | (with_reducible refine keepsCnt_ticks (u := holdExpiry _) (holdExpiry_ticks _ (sameFrame_refl _)) ?_)
    | (with_reducible refine rowTimeouts_cnt _ ?_)
    | (with_reducible refine syncTimeout_cnt _ ?_)
    | (with_reducible refine lockQualify_cnt _ ?_)
    | (with_reducible refine holdover_cnt _ ?_)
    | (with_reducible refine keepsCnt_of (u := expireClaim _) (expireClaim_only (ps := noFrame) _ (only_refl _ _) (by decide)) ?_)
    | (with_reducible refine keepsCnt_of (u := expireProposal _ _) (expireProposal_only (ps := noFrame) _ _ (only_refl _ _) (by decide)) ?_)
    | (with_reducible refine keepsCnt_ticks (u := stuckSensors _) (stuckSensors_ticks _ (sameFrame_refl _)) ?_)
    | (with_reducible refine keepsCnt_of (u := trackerWindowEnd _) (trackerWindowEnd_only (ps := noFrame) _ (only_refl _ _) (by decide)) ?_)
    | (with_reducible refine keepsCnt_ticks (u := statusTimeout _ _) (statusTimeout_ticks _ _ (sameFrame_refl _)) ?_)
    | (with_reducible refine keepsCnt_of (u := aggregationExpiry _ _ _) (aggregationExpiry_only (ps := noFrame) _ _ _ (only_refl _ _) (by decide)) ?_)
    | (with_reducible refine entryAbort_cnt _ ?_)
    | (with_reducible refine keepsCnt_ticks (u := idleExpiry _) (idleExpiry_ticks _ (sameFrame_refl _)) ?_)
    | (with_reducible refine keepsCnt_when _ _ ?_ ?_)
    | (with_reducible refine keepsCnt_forEach _ _ _ ?_ ?_)
    | (intro)
    | (extract_lets +onlyGivenNames s1; refine keepsCnt_cut s1 ?_ ?_; unfold s1; clear s1; rotate_left; intro hs1; clear_value s1; rotate_right)
    | (extract_lets +onlyGivenNames v1)

theorem passedWork_cnt {s0 : State}  (s : State) (h : KeepsCnt s0 s) :
    KeepsCnt s0 (passedWork s) := by
  unfold passedWork
  repeat' first
    | (with_reducible assumption)
    | (with_reducible refine keepsCnt_of (u := updPower _ _) (updPower_only (ps := noFrame) _ _ (only_refl _ _) (by decide)) ?_)
    | (with_reducible refine timeouts_cnt _ ?_)
    | (with_reducible refine keepsCnt_of (u := passPeriods _ _) (passPeriods_only (ps := noFrame) _ _ (only_refl _ _) (by decide)) ?_)
    | (with_reducible refine passMinutes_cnt _ _ _ _ ?_)
    | (intro)
    | (extract_lets +onlyGivenNames s1; refine keepsCnt_cut s1 ?_ ?_; unfold s1; clear s1; rotate_left; intro hs1; clear_value s1; rotate_right)
    | (extract_lets +onlyGivenNames v1)
    | (split)

theorem applyDue_cnt {s0 : State}  (s : State) (h : KeepsCnt s0 s) :
    KeepsCnt s0 (applyDue s) := by
  unfold applyDue
  repeat' first
    | (with_reducible assumption)
    | (with_reducible refine keepsCnt_ticks (u := applySteps _) (applySteps_ticks _ (sameFrame_refl _)) ?_)
    | (with_reducible refine keepsCnt_of (u := applyShares _) (applyShares_only (ps := noFrame) _ (only_refl _ _) (by decide)) ?_)
    | (with_reducible refine keepsCnt_ticks (u := applyProtection _) (applyProtection_ticks _ (sameFrame_refl _)) ?_)
    | (with_reducible refine keepsCnt_ticks (u := startActivation _) (startActivation_ticks _ (sameFrame_refl _)) ?_)
    | (with_reducible refine keepsCnt_ticks (u := finishHold _) (finishHold_ticks _ (sameFrame_refl _)) ?_)
    | (with_reducible refine keepsCnt_ticks (u := applyMarks _) (applyMarks_ticks _ (sameFrame_refl _)) ?_)
    | (with_reducible refine applyCfg_cnt _ ?_)
    | (with_reducible refine keepsCnt_ticks (u := applyPsDue _) (applyPsDue_ticks _ (sameFrame_refl _)) ?_)
    | (with_reducible refine keepsCnt_ticks (u := applyLb _) (applyLb_ticks _ (sameFrame_refl _)) ?_)
    | (with_reducible refine keepsCnt_of (u := applyPolicy _) (applyPolicy_only (ps := noFrame) _ (only_refl _ _) (by decide)) ?_)
    | (with_reducible refine keepsCnt_of (u := resumeAfterExpiry _) (resumeAfterExpiry_only (ps := noFrame) _ (only_refl _ _) (by decide)) ?_)
    | (with_reducible refine keepsCnt_of (u := resumeFetch _) (resumeFetch_only (ps := noFrame) _ (only_refl _ _) (by decide)) ?_)
    | (with_reducible refine keepsCnt_of (u := goLives _) (goLives_only (ps := noFrame) _ (only_refl _ _) (by decide)) ?_)
    | (intro)
    | (extract_lets +onlyGivenNames s1; refine keepsCnt_cut s1 ?_ ?_; unfold s1; clear s1; rotate_left; intro hs1; clear_value s1; rotate_right)
    | (extract_lets +onlyGivenNames v1)

theorem resetLanes_cnt {s0 : State}  (s : State) (h : KeepsCnt s0 s) :
    KeepsCnt s0 (resetLanes s) := by
  unfold resetLanes
  repeat' first
    | (with_reducible assumption)
    | (with_reducible refine laneReset_cnt _ _ ?_)
    | (with_reducible refine keepsCnt_forEach _ _ _ ?_ ?_)
    | (intro)

theorem openFrame_cnt {s0 : State}  (s : State) (h : KeepsCnt s0 s) :
    KeepsCnt s0 (openFrame s) := by
  unfold openFrame
  repeat' first
    | (with_reducible assumption)
    | (with_reducible refine keepsCnt_of (u := publish _) (publish_only (ps := noFrame) _ (only_refl _ _) (by decide)) ?_)
    | (with_reducible refine resetLanes_cnt _ ?_)
    | (with_reducible refine rebuildLanes_cnt _ ?_)
    | (intro)
    | (refine keepsCnt_upd _ (fun m => rfl) ?_)

theorem endFrame_cnt {s0 : State}  (s : State) (h : KeepsCnt s0 s) :
    KeepsCnt s0 (endFrame s) := by
  unfold endFrame
  repeat' first
    | (with_reducible assumption)
    | (with_reducible refine keepsCnt_of (u := updZone _ _) (updZone_only (ps := noFrame) _ _ (only_refl _ _) (by decide)) ?_)
    | (with_reducible refine keepsCnt_of (u := updInst _ _) (updInst_only (ps := noFrame) _ _ (only_refl _ _) (by decide)) ?_)
    | (intro)
    | (extract_lets +onlyGivenNames s1; refine keepsCnt_cut s1 ?_ ?_; unfold s1; clear s1; rotate_left; intro hs1; clear_value s1; rotate_right)
    | (extract_lets +onlyGivenNames v1)
    | (refine keepsCnt_upd _ (fun m => rfl) ?_)

end Sys2Proof.Machine
end

