-- ==== Sys2Proof/Laws/Cnt/Firmware.lean ====
section
/-! SUPPORT. Operations of Machine/Firmware.lean leave the frame counter alone. -/

set_option linter.tactic.unusedName false

namespace Sys2Proof.Machine

theorem endStaging_cnt {s0 : State} (g : Staging) (checks : ImageChecks) (bad : State → State) (s : State) (h : KeepsCnt s0 s) (hf0 : ∀ t, KeepsCnt s0 t → KeepsCnt s0 (bad t)) :
    KeepsCnt s0 (endStaging g checks bad s) := by
  unfold endStaging
  repeat' first
    | (with_reducible assumption)
    | (with_reducible refine hf0 _ ?_)
    | (with_reducible refine keepsCnt_of (u := setOutcome _ _ _) (setOutcome_only (ps := noFrame) _ _ _ (only_refl _ _) (by decide)) ?_)
    | (with_reducible refine keepsCnt_of (u := stageFails _ _ _) (stageFails_only (ps := noFrame) _ _ _ (only_refl _ _) (by decide)) ?_)
    | (with_reducible refine keepsCnt_of (u := beginWrite _ _ _) (beginWrite_only (ps := noFrame) _ _ _ (only_refl _ _) (by decide)) ?_)
    | (intro)
    | (extract_lets +onlyGivenNames s1; refine keepsCnt_cut s1 ?_ ?_; unfold s1; clear s1; rotate_left; intro hs1; clear_value s1; rotate_right)
    | (extract_lets +onlyGivenNames v1)
    | (split)

theorem handoverReady_cnt {s0 : State}  (s : State) (h : KeepsCnt s0 s) :
    KeepsCnt s0 (handoverReady s) := by
  unfold handoverReady
  repeat' first
    | (with_reducible assumption)
    | (with_reducible refine keepsCnt_of (u := updHold _ _) (updHold_only (ps := noFrame) _ _ (only_refl _ _) (by decide)) ?_)
    | (with_reducible refine noteTie_cnt _ _ _ ?_)
    | (intro)
    | (extract_lets +onlyGivenNames s1; refine keepsCnt_cut s1 ?_ ?_; unfold s1; clear s1; rotate_left; intro hs1; clear_value s1; rotate_right)
    | (extract_lets +onlyGivenNames v1)
    | (split)

end Sys2Proof.Machine
end

