-- ==== Sys2Proof/Laws/Cnt/Scp.lean ====
section
/-! SUPPORT. Operations of Machine/Scp.lean leave the frame counter alone. -/

set_option linter.tactic.unusedName false

namespace Sys2Proof.Machine

theorem emptying_cnt {s0 : State} (x0 : State → State) (s : State) (h : KeepsCnt s0 s) (hf0 : ∀ t, KeepsCnt s0 t → KeepsCnt s0 (x0 t)) :
    KeepsCnt s0 (emptying x0 s) := by
  unfold emptying
  repeat' first
    | (with_reducible assumption)
    | (with_reducible refine hf0 _ ?_)
    | (with_reducible refine keepsCnt_of (u := setEvent _ _) (setEvent_only (ps := noFrame) _ _ (only_refl _ _) (by decide)) ?_)
    | (with_reducible refine keepsCnt_when _ _ ?_ ?_)
    | (intro)
    | (extract_lets +onlyGivenNames s1; refine keepsCnt_cut s1 ?_ ?_; unfold s1; clear s1; rotate_left; intro hs1; clear_value s1; rotate_right)
    | (extract_lets +onlyGivenNames v1)

theorem scp_cnt {s0 : State} (op : Nat) (x1 : Form) (fault : Posted → Option Nat) (body : Posted → State → State) (s : State) (h : KeepsCnt s0 s) (hf0 : ∀ a t, KeepsCnt s0 t → KeepsCnt s0 (body a t)) :
    KeepsCnt s0 (scp op x1 fault body s) := by
  unfold scp
  repeat' first
    | (with_reducible assumption)
    | (with_reducible refine hf0 _ _ ?_)
    | (with_reducible refine keepsCnt_of (u := takeHead _) (takeHead_only (ps := noFrame) _ (only_refl _ _) (by decide)) ?_)
    | (with_reducible refine keepsCnt_of (u := drainHeads _ _) (drainHeads_only (ps := noFrame) _ _ (only_refl _ _) (by decide)) ?_)
    | (with_reducible refine keepsCnt_of (u := dropDup _) (dropDup_only (ps := noFrame) _ (only_refl _ _) (by decide)) ?_)
    | (with_reducible refine keepsCnt_of (u := replyInvalid _ _ _) (replyInvalid_only (ps := noFrame) _ _ _ (only_refl _ _) (by decide)) ?_)
    | (with_reducible refine keepsCnt_of (u := replyRefused _ _ _) (replyRefused_only (ps := noFrame) _ _ _ (only_refl _ _) (by decide)) ?_)
    | (with_reducible refine keepsCnt_of (u := replyConflict _ _ _ _) (replyConflict_only (ps := noFrame) _ _ _ _ (only_refl _ _) (by decide)) ?_)
    | (intro)
    | (extract_lets +onlyGivenNames s1; refine keepsCnt_cut s1 ?_ ?_; unfold s1; clear s1; rotate_left; intro hs1; clear_value s1; rotate_right)
    | (extract_lets +onlyGivenNames v1)
    | (split)

theorem descDma_cnt {s0 : State} (r : Posted) (dma : Dma) (out : List Byte) (ends : Nat → List Nat → State → State) (body : State → State) (s : State) (h : KeepsCnt s0 s) (hf0 : ∀ a b t, KeepsCnt s0 t → KeepsCnt s0 (ends a b t)) (hf1 : ∀ t, KeepsCnt s0 t → KeepsCnt s0 (body t)) :
    KeepsCnt s0 (descDma r dma out ends body s) := by
  unfold descDma
  repeat' first
    | (with_reducible assumption)
    | (with_reducible refine hf0 _ _ _ ?_)
    | (with_reducible refine hf1 _ ?_)
    | (with_reducible refine keepsCnt_of (u := send _ _) (send_only (ps := noFrame) _ _ (only_refl _ _) (by decide)) ?_)
    | (with_reducible refine keepsCnt_of (u := epochMoves _ _) (epochMoves_only (ps := noFrame) _ _ (only_refl _ _) (by decide)) ?_)
    | (with_reducible refine keepsCnt_when _ _ ?_ ?_)
    | (intro)
    | (extract_lets +onlyGivenNames s1; refine keepsCnt_cut s1 ?_ ?_; unfold s1; clear s1; rotate_left; intro hs1; clear_value s1; rotate_right)
    | (extract_lets +onlyGivenNames k1; have _ck := fun x => (k1 x : State → State); clear _ck)
    | (extract_lets +onlyGivenNames k1; have _ck := fun x => (k1 x : State); clear _ck)
    | (extract_lets +onlyGivenNames v1)
    | (split)
    | (dsimp only [k1])

theorem descRead_cnt {s0 : State} (r : Posted) (dma : Dma) (body : List Byte → State → State) (s : State) (h : KeepsCnt s0 s) (hf0 : ∀ a t, KeepsCnt s0 t → KeepsCnt s0 (body a t)) :
    KeepsCnt s0 (descRead r dma body s) := by
  unfold descRead
  repeat' first
    | (with_reducible assumption)
    | (with_reducible refine hf0 _ _ ?_)
    | (with_reducible refine descDma_cnt _ _ _ _ _ _ ?_ ?_ ?_)
    | (with_reducible refine keepsCnt_of (u := reply _ _ _ _) (reply_only (ps := noFrame) _ _ _ _ (only_refl _ _) (by decide)) ?_)
    | (intro)

theorem descWrite_cnt {s0 : State} (r : Posted) (dma : Dma) (out : List Byte) (x3 : State → State) (s : State) (h : KeepsCnt s0 s) (hf0 : ∀ t, KeepsCnt s0 t → KeepsCnt s0 (x3 t)) :
    KeepsCnt s0 (descWrite r dma out x3 s) := by
  unfold descWrite
  repeat' first
    | (with_reducible assumption)
    | (with_reducible refine hf0 _ ?_)
    | (with_reducible refine descDma_cnt _ _ _ _ _ _ ?_ ?_ ?_)
    | (with_reducible refine keepsCnt_of (u := reply _ _ _ _) (reply_only (ps := noFrame) _ _ _ _ (only_refl _ _) (by decide)) ?_)
    | (intro)

theorem windowPfReset_cnt {s0 : State} (p : Pf) (s : State) (h : KeepsCnt s0 s) :
    KeepsCnt s0 (windowPfReset p s) := by
  unfold windowPfReset
  repeat' first
    | (with_reducible assumption)
    | (with_reducible refine keepsCnt_of (u := clearInQueue _) (clearInQueue_only (ps := noFrame) _ (only_refl _ _) (by decide)) ?_)
    | (with_reducible refine keepsCnt_of (u := hostSenderReset _) (hostSenderReset_only (ps := noFrame) _ (only_refl _ _) (by decide)) ?_)
    | (with_reducible refine keepsCnt_of (u := freeLatchesOf _ _) (freeLatchesOf_only (ps := noFrame) _ _ (only_refl _ _) (by decide)) ?_)
    | (with_reducible refine keepsCnt_of (u := setMbxPf _ _ _) (setMbxPf_only (ps := noFrame) _ _ _ (only_refl _ _) (by decide)) ?_)
    | (with_reducible refine keepsCnt_of (u := updMbx _ _) (updMbx_only (ps := noFrame) _ _ (only_refl _ _) (by decide)) ?_)
    | (with_reducible refine keepsCnt_when _ _ ?_ ?_)
    | (intro)
    | (extract_lets +onlyGivenNames s1; refine keepsCnt_cut s1 ?_ ?_; unfold s1; clear s1; rotate_left; intro hs1; clear_value s1; rotate_right)
    | (extract_lets +onlyGivenNames v1)
    | (split)
    | (refine keepsCnt_frame _ ?_)

end Sys2Proof.Machine
end

