-- ==== Sys2Proof/Laws/Cnt/Integrity.lean ====
section
/-! SUPPORT. Operations of Machine/Integrity.lean leave the frame counter alone. -/

set_option linter.tactic.unusedName false

namespace Sys2Proof.Machine

theorem eccRow_cnt {s0 : State} (sub : Nat) (body : Posted → State → State) (s : State) (h : KeepsCnt s0 s) (hf0 : ∀ a t, KeepsCnt s0 t → KeepsCnt s0 (body a t)) :
    KeepsCnt s0 (eccRow sub body s) := by
  unfold eccRow
  repeat' first
    | (with_reducible assumption)
    | (with_reducible refine hf0 _ _ ?_)
    | (with_reducible refine scp_cnt _ _ _ _ _ ?_ ?_)
    | (with_reducible refine keepsCnt_of (u := replyRefused _ _ _) (replyRefused_only (ps := noFrame) _ _ _ (only_refl _ _) (by decide)) ?_)
    | (with_reducible refine keepsCnt_of (u := replyConflict _ _ _ _) (replyConflict_only (ps := noFrame) _ _ _ _ (only_refl _ _) (by decide)) ?_)
    | (with_reducible refine keepsCnt_of (u := replyInvalid _ _ _) (replyInvalid_only (ps := noFrame) _ _ _ (only_refl _ _) (by decide)) ?_)
    | (intro)
    | (split)

theorem forceLaneReset_cnt {s0 : State} (l : Nat) (s : State) (h : KeepsCnt s0 s) :
    KeepsCnt s0 (forceLaneReset l s) := by
  unfold forceLaneReset
  repeat' first
    | (with_reducible assumption)
    | (with_reducible refine resetLane_cnt _ _ ?_)
    | (with_reducible refine setLane_cnt _ _ _ ?_)
    | (intro)

theorem wordLost_cnt {s0 : State} (w : WordOf) (s : State) (h : KeepsCnt s0 s) :
    KeepsCnt s0 (wordLost w s) := by
  unfold wordLost
  repeat' first
    | (with_reducible assumption)
    | (with_reducible refine keepsCnt_ticks (u := poisonLanded _ _) (poisonLanded_ticks _ _ (sameFrame_refl _)) ?_)
    | (with_reducible refine keepsCnt_of (u := updFlash _ _) (updFlash_only (ps := noFrame) _ _ (only_refl _ _) (by decide)) ?_)
    | (with_reducible refine keepsCnt_ticks (u := failItem _ _ _) (failItem_ticks _ _ _ (sameFrame_refl _)) ?_)
    | (with_reducible refine keepsCnt_of (u := updCtl _ _ _) (updCtl_only (ps := noFrame) _ _ _ (only_refl _ _) (by decide)) ?_)
    | (with_reducible refine keepsCnt_of (u := recDataErr _ _ _) (recDataErr_only (ps := noFrame) _ _ _ (only_refl _ _) (by decide)) ?_)
    | (with_reducible refine keepsCnt_ticks (u := porchOutLost _ _) (porchOutLost_ticks _ _ (sameFrame_refl _)) ?_)
    | (with_reducible refine keepsCnt_ticks (u := climb _ _) (climb_ticks _ _ (sameFrame_refl _)) ?_)
    | (with_reducible refine forceLaneReset_cnt _ _ ?_)
    | (with_reducible refine keepsCnt_of (u := damageRecord _ _) (damageRecord_only (ps := noFrame) _ _ (only_refl _ _) (by decide)) ?_)
    | (with_reducible refine keepsCnt_forEach _ _ _ ?_ ?_)
    | (intro)
    | (split)

theorem scrub_cnt {s0 : State} (k : Nat) (errs : List ScrubErr) (s : State) (h : KeepsCnt s0 s) :
    KeepsCnt s0 (scrub k errs s) := by
  unfold scrub
  repeat' first
    | (with_reducible assumption)
    | (with_reducible refine wordLost_cnt _ _ ?_)
    | (with_reducible refine keepsCnt_of (u := countScrub _ _ _) (countScrub_only (ps := noFrame) _ _ _ (only_refl _ _) (by decide)) ?_)
    | (with_reducible refine keepsCnt_forEach _ _ _ ?_ ?_)
    | (intro)
    | (split)

end Sys2Proof.Machine
end

