-- ==== Sys2Proof/Laws/Cnt/Window.lean ====
section
/-! SUPPORT. Operations of Machine/Window.lean leave the frame counter alone. -/

set_option linter.tactic.unusedName false

namespace Sys2Proof.Machine

theorem setShadow_cnt {s0 : State} (p : Pf) (s : State) (h : KeepsCnt s0 s) :
    KeepsCnt s0 (setShadow p s) := by
  unfold setShadow
  repeat' first
    | (with_reducible assumption)
    | (intro)
    | (extract_lets +onlyGivenNames s1; refine keepsCnt_cut s1 ?_ ?_; unfold s1; clear s1; rotate_left; intro hs1; clear_value s1; rotate_right)
    | (extract_lets +onlyGivenNames v1)
    | (split)
    | (refine keepsCnt_frame _ ?_)

theorem read4_cnt {s0 : State} (p : Pf) (off : Nat) {s : State} (h : KeepsCnt s0 s) : KeepsCnt s0 (read4 p off s).2 := by
  unfold read4
  repeat' first
    | (with_reducible assumption)
    | (with_reducible refine keepsCnt_of (u := gateAccess _ _ _ _) (gateAccess_only (ps := noFrame) _ _ _ _ (only_refl _ _) (by decide)) ?_)
    | (with_reducible refine setShadow_cnt _ _ ?_)
    | (with_reducible refine keepsCnt_of (u := updMbx _ _) (updMbx_only (ps := noFrame) _ _ (only_refl _ _) (by decide)) ?_)
    | (refine keepsCnt_of (readLatch_only2 (ps := noFrame) _ _ (only_refl _ _) (by decide) (by assumption)) ?_)
    | (with_reducible refine keepsCnt_of (readLatch_only (ps := noFrame) _ _ (only_refl _ _) (by decide)) ?_)
    | (with_reducible refine keepsCnt_of (u := clearFull _ _) (clearFull_only (ps := noFrame) _ _ (only_refl _ _) (by decide)) ?_)
    | (with_reducible refine keepsCnt_when _ _ ?_ ?_)
    | (intro)
    | (extract_lets +onlyGivenNames s1; refine keepsCnt_cut s1 ?_ ?_; unfold s1; clear s1; rotate_left; intro hs1; clear_value s1; rotate_right)
    | (extract_lets +onlyGivenNames v1)
    | (split)

theorem read4_cnt2 {s0 : State} (p : Pf) (off : Nat) {s t : State} {v} (h : KeepsCnt s0 s) (e : read4 p off s = (v, t)) :
    KeepsCnt s0 t := by
  have k := read4_cnt p off h
  rw [e] at k; exact k

theorem readMany_cnt {s0 : State} (p : Pf) (n off : Nat) {s : State} (h : KeepsCnt s0 s) :
    KeepsCnt s0 (readMany p n off s).2 := by
  induction n generalizing off s with
  | zero => exact h
  | succ n ih =>
    unfold readMany
    dsimp only
    exact ih _ (read4_cnt _ _ h)

theorem readMany_cnt2 {s0 : State} (p : Pf) (n off : Nat) {s t : State} {v} (h : KeepsCnt s0 s)
    (e : readMany p n off s = (v, t)) : KeepsCnt s0 t := by
  have k := readMany_cnt p n off h
  rw [e] at k; exact k

theorem windowRead_cnt {s0 : State} (p : Pf) (off : Nat) (size : Nat) {s : State} (h : KeepsCnt s0 s) : KeepsCnt s0 (windowRead p off size s).2 := by
  unfold windowRead
  repeat' first
    | (with_reducible assumption)
    | (with_reducible refine read4_cnt2 _ _ ?_ (by assumption))
    | (with_reducible refine read4_cnt _ _ ?_)
    | (with_reducible refine keepsCnt_of (u := gateAccess _ _ _ _) (gateAccess_only (ps := noFrame) _ _ _ _ (only_refl _ _) (by decide)) ?_)
    | (with_reducible refine setShadow_cnt _ _ ?_)
    | (with_reducible refine keepsCnt_of (u := clearFull _ _) (clearFull_only (ps := noFrame) _ _ (only_refl _ _) (by decide)) ?_)
    | (with_reducible refine readMany_cnt2 _ _ _ ?_ (by assumption))
    | (with_reducible refine readMany_cnt _ _ _ ?_)
    | (intro)
    | (extract_lets +onlyGivenNames s1; refine keepsCnt_cut s1 ?_ ?_; unfold s1; clear s1; rotate_left; intro hs1; clear_value s1; rotate_right)
    | (extract_lets +onlyGivenNames v1)
    | (split)

theorem windowRead_cnt2 {s0 : State} (p : Pf) (off : Nat) (size : Nat) {s t : State} {v} (h : KeepsCnt s0 s) (e : windowRead p off size s = (v, t)) :
    KeepsCnt s0 t := by
  have k := windowRead_cnt p off size h
  rw [e] at k; exact k

end Sys2Proof.Machine
end

