-- ==== Sys2Proof/Laws/Cnt/Mailbox.lean ====
section
/-! SUPPORT. Operations of Machine/Mailbox.lean leave the frame counter alone. -/

set_option linter.tactic.unusedName false

namespace Sys2Proof.Machine

theorem latchReadBy_cnt {s0 : State} (a : Nat) (n : Nat) (s : State) (h : KeepsCnt s0 s) :
    KeepsCnt s0 (latchReadBy a n s) := by
  unfold latchReadBy
  repeat' first
    | (with_reducible assumption)
    | (with_reducible refine keepsCnt_of (u := answer _) (answer_only (ps := noFrame) _ (only_refl _ _) (by decide)) ?_)
    | (with_reducible refine read4_cnt2 _ _ ?_ (by assumption))
    | (with_reducible refine read4_cnt _ _ ?_)
    | (refine keepsCnt_of (readLatch_only2 (ps := noFrame) _ _ (only_refl _ _) (by decide) (by assumption)) ?_)
    | (with_reducible refine keepsCnt_of (readLatch_only (ps := noFrame) _ _ (only_refl _ _) (by decide)) ?_)
    | (intro)
    | (split)

theorem gatedReadOf_cnt {s0 : State} (p : Pf) (off : Nat) (size : Nat) (s : State) (h : KeepsCnt s0 s) :
    KeepsCnt s0 (gatedReadOf p off size s) := by
  unfold gatedReadOf
  repeat' first
    | (with_reducible assumption)
    | (with_reducible refine keepsCnt_of (u := answer _) (answer_only (ps := noFrame) _ (only_refl _ _) (by decide)) ?_)
    | (with_reducible refine windowRead_cnt2 _ _ _ ?_ (by assumption))
    | (with_reducible refine windowRead_cnt _ _ _ ?_)
    | (intro)
    | (split)

end Sys2Proof.Machine
end

