-- ==== Sys2Proof/Laws/Cnt/Owner.lean ====
section
/-! SUPPORT. Operations of Machine/Owner.lean leave the frame counter alone. -/

set_option linter.tactic.unusedName false

namespace Sys2Proof.Machine

theorem ownerWakes_cnt {s0 : State} (body : State → State) (s : State) (h : KeepsCnt s0 s) (hf0 : ∀ t, KeepsCnt s0 t → KeepsCnt s0 (body t)) :
    KeepsCnt s0 (ownerWakes body s) := by
  unfold ownerWakes
  repeat' first
    | (with_reducible assumption)
    | (with_reducible refine hf0 _ ?_)
    | (with_reducible refine keepsCnt_of (u := wake _) (wake_only (ps := noFrame) _ (only_refl _ _) (by decide)) ?_)
    | (intro)
    | (split)

theorem ownerQuiet_cnt {s0 : State} (l : Sideband) (body : State → State) (s : State) (h : KeepsCnt s0 s) (hf0 : ∀ t, KeepsCnt s0 t → KeepsCnt s0 (body t)) :
    KeepsCnt s0 (ownerQuiet l body s) := by
  unfold ownerQuiet
  repeat' first
    | (with_reducible assumption)
    | (with_reducible refine hf0 _ ?_)
    | (with_reducible refine keepsCnt_of (u := spdmUnsupported _) (spdmUnsupported_only (ps := noFrame) _ (only_refl _ _) (by decide)) ?_)
    | (intro)
    | (split)

theorem ownerRow_cnt {s0 : State} (l : Sideband) (body : State → State) (s : State) (h : KeepsCnt s0 s) (hf0 : ∀ t, KeepsCnt s0 t → KeepsCnt s0 (body t)) :
    KeepsCnt s0 (ownerRow l body s) := by
  unfold ownerRow
  repeat' first
    | (with_reducible assumption)
    | (with_reducible refine hf0 _ ?_)
    | (with_reducible refine ownerQuiet_cnt _ _ _ ?_ ?_)
    | (with_reducible refine ownerWakes_cnt _ _ ?_ ?_)
    | (intro)

theorem ownerClaimRow_cnt {s0 : State} (l : Sideband) (body : State → State) (s : State) (h : KeepsCnt s0 s) (hf0 : ∀ t, KeepsCnt s0 t → KeepsCnt s0 (body t)) :
    KeepsCnt s0 (ownerClaimRow l body s) := by
  unfold ownerClaimRow
  repeat' first
    | (with_reducible assumption)
    | (with_reducible refine hf0 _ ?_)
    | (with_reducible refine keepsCnt_of (u := spdmUnsupported _) (spdmUnsupported_only (ps := noFrame) _ (only_refl _ _) (by decide)) ?_)
    | (intro)
    | (split)

end Sys2Proof.Machine
end

