-- ==== Sys2Proof/Laws/Cnt/Protect.lean ====
section
/-! SUPPORT. Operations of Machine/Protect.lean leave the frame counter alone. -/

set_option linter.tactic.unusedName false

namespace Sys2Proof.Machine

theorem confirm_cnt {s0 : State} (a : Asker) (by_ : Party) (cls : Nat) (d : BitVec 384) (s : State) (h : KeepsCnt s0 s) :
    KeepsCnt s0 (confirm a by_ cls d s) := by
  unfold confirm
  repeat' first
    | (with_reducible assumption)
    | (with_reducible refine keepsCnt_of (u := expireProposal _ _) (expireProposal_only (ps := noFrame) _ _ (only_refl _ _) (by decide)) ?_)
    | (with_reducible refine keepsCnt_of (u := askRefused _ _ _) (askRefused_only (ps := noFrame) _ _ _ (only_refl _ _) (by decide)) ?_)
    | (with_reducible refine keepsCnt_of (u := askInvalid _ _ _) (askInvalid_only (ps := noFrame) _ _ _ (only_refl _ _) (by decide)) ?_)
    | (with_reducible refine keepsCnt_of (u := askAuth _ _) (askAuth_only (ps := noFrame) _ _ (only_refl _ _) (by decide)) ?_)
    | (with_reducible refine keepsCnt_of (u := authFail _ _ _) (authFail_only (ps := noFrame) _ _ _ (only_refl _ _) (by decide)) ?_)
    | (with_reducible refine keepsCnt_of (u := acceptConfirm _ _ _ _ _) (acceptConfirm_only (ps := noFrame) _ _ _ _ _ (only_refl _ _) (by decide)) ?_)
    | (with_reducible refine keepsCnt_of (u := askPending _ _) (askPending_only (ps := noFrame) _ _ (only_refl _ _) (by decide)) ?_)
    | (with_reducible refine noteTie_cnt _ _ _ ?_)
    | (intro)
    | (extract_lets +onlyGivenNames s1; refine keepsCnt_cut s1 ?_ ?_; unfold s1; clear s1; rotate_left; intro hs1; clear_value s1; rotate_right)
    | (extract_lets +onlyGivenNames v1)
    | (split)

theorem claimFinish_cnt {s0 : State} (strap : Bool) (key : BitVec 768) (good : Bool) (s : State) (h : KeepsCnt s0 s) :
    KeepsCnt s0 (claimFinish strap key good s) := by
  unfold claimFinish
  repeat' first
    | (with_reducible assumption)
    | (with_reducible refine keepsCnt_of (u := expireClaim _) (expireClaim_only (ps := noFrame) _ (only_refl _ _) (by decide)) ?_)
    | (with_reducible refine keepsCnt_of (u := askRefused _ _ _) (askRefused_only (ps := noFrame) _ _ _ (only_refl _ _) (by decide)) ?_)
    | (with_reducible refine noteTie_cnt _ _ _ ?_)
    | (with_reducible refine keepsCnt_of (u := updProt _ _) (updProt_only (ps := noFrame) _ _ (only_refl _ _) (by decide)) ?_)
    | (with_reducible refine keepsCnt_of (u := askInvalid _ _ _) (askInvalid_only (ps := noFrame) _ _ _ (only_refl _ _) (by decide)) ?_)
    | (with_reducible refine keepsCnt_of (u := askAuth _ _) (askAuth_only (ps := noFrame) _ _ (only_refl _ _) (by decide)) ?_)
    | (with_reducible refine keepsCnt_of (u := askOk _ _ _) (askOk_only (ps := noFrame) _ _ _ (only_refl _ _) (by decide)) ?_)
    | (intro)
    | (extract_lets +onlyGivenNames s1; refine keepsCnt_cut s1 ?_ ?_; unfold s1; clear s1; rotate_left; intro hs1; clear_value s1; rotate_right)
    | (extract_lets +onlyGivenNames v1)
    | (split)
    | (refine keepsCnt_pins _ ?_)

end Sys2Proof.Machine
end

