-- ==== Sys2Proof/Laws/Cnt/Queues.lean ====
section
/-! SUPPORT. Operations of Machine/Queues.lean leave the frame counter alone. -/

set_option linter.tactic.unusedName false

namespace Sys2Proof.Machine

theorem admin_cnt {s0 : State} (opc : Nat) (who : Access) (body : Item → State → State) (id : CmdId) (s : State) (h : KeepsCnt s0 s) (hf0 : ∀ a t, KeepsCnt s0 t → KeepsCnt s0 (body a t)) :
    KeepsCnt s0 (admin opc who body id s) := by
  unfold admin
  repeat' first
    | (with_reducible assumption)
    | (with_reducible refine hf0 _ _ ?_)
    | (with_reducible refine keepsCnt_of (u := takeUp _ _) (takeUp_only (ps := noFrame) _ _ (only_refl _ _) (by decide)) ?_)
    | (with_reducible refine keepsCnt_ticks (u := finishBad _ _ _) (finishBad_ticks _ _ _ (sameFrame_refl _)) ?_)
    | (with_reducible refine keepsCnt_id ?_)
    | (intro)
    | (extract_lets +onlyGivenNames s1; refine keepsCnt_cut s1 ?_ ?_; unfold s1; clear s1; rotate_left; intro hs1; clear_value s1; rotate_right)
    | (extract_lets +onlyGivenNames v1)
    | (split)

theorem setFeature_cnt {s0 : State} (fid : Nat) (mgr : Bool) (body : Item → State → State) (id : CmdId) (s : State) (h : KeepsCnt s0 s) (hf0 : ∀ a t, KeepsCnt s0 t → KeepsCnt s0 (body a t)) :
    KeepsCnt s0 (setFeature fid mgr body id s) := by
  unfold setFeature
  repeat' first
    | (with_reducible assumption)
    | (with_reducible refine hf0 _ _ ?_)
    | (with_reducible refine admin_cnt _ _ _ _ _ ?_ ?_)
    | (with_reducible refine keepsCnt_ticks (u := finishBad _ _ _) (finishBad_ticks _ _ _ (sameFrame_refl _)) ?_)
    | (with_reducible refine keepsCnt_id ?_)
    | (intro)
    | (split)

end Sys2Proof.Machine
end

