-- ==== Sys2Proof/Laws/Cnt/Recorder.lean ====
section
/-! SUPPORT. Operations of Machine/Recorder.lean leave the frame counter alone. -/

set_option linter.tactic.unusedName false

namespace Sys2Proof.Machine

theorem descWriteFinal_cnt {s0 : State} (r : Posted) (dma : Dma) (out : List Byte) (x3 : State → State) (s : State) (h : KeepsCnt s0 s) (hf0 : ∀ t, KeepsCnt s0 t → KeepsCnt s0 (x3 t)) :
    KeepsCnt s0 (descWriteFinal r dma out x3 s) := by
  unfold descWriteFinal
  repeat' first
    | (with_reducible assumption)
    | (with_reducible refine hf0 _ ?_)
    | (with_reducible refine descDma_cnt _ _ _ _ _ _ ?_ ?_ ?_)
    | (with_reducible refine keepsCnt_of (u := finalReply _ _ _ _ _) (finalReply_only (ps := noFrame) _ _ _ _ _ (only_refl _ _) (by decide)) ?_)
    | (intro)

end Sys2Proof.Machine
end

