-- ==== Sys2Proof/Laws/Cnt/Resets.lean ====
section
/-! SUPPORT. Operations of Machine/Resets.lean leave the frame counter alone. -/

set_option linter.tactic.unusedName false

namespace Sys2Proof.Machine

theorem pfReset_cnt {s0 : State} (p : Pf) (x1 : Port → Port) (s : State) (h : KeepsCnt s0 s) :
    KeepsCnt s0 (pfReset p x1 s) := by
  unfold pfReset
  repeat' first
    | (with_reducible assumption)
    | (with_reducible refine keepsCnt_of (u := changePort _ _ _) (changePort_only (ps := noFrame) _ _ _ (only_refl _ _) (by decide)) ?_)
    | (with_reducible refine windowPfReset_cnt _ _ ?_)
    | (with_reducible refine keepsCnt_of (u := ctlResetOf _ _) (ctlResetOf_only (ps := noFrame) _ _ (only_refl _ _) (by decide)) ?_)
    | (intro)
    | (extract_lets +onlyGivenNames s1; refine keepsCnt_cut s1 ?_ ?_; unfold s1; clear s1; rotate_left; intro hs1; clear_value s1; rotate_right)
    | (extract_lets +onlyGivenNames v1)

theorem flr_cnt {s0 : State} (fn : Nat) (s : State) (h : KeepsCnt s0 s) :
    KeepsCnt s0 (flr fn s) := by
  unfold flr
  repeat' first
    | (with_reducible assumption)
    | (with_reducible refine pfReset_cnt _ _ _ ?_)
    | (with_reducible refine keepsCnt_of (u := flrRequest _ _) (flrRequest_only (ps := noFrame) _ _ (only_refl _ _) (by decide)) ?_)
    | (with_reducible refine keepsCnt_of (u := wake _) (wake_only (ps := noFrame) _ (only_refl _ _) (by decide)) ?_)
    | (intro)
    | (extract_lets +onlyGivenNames s1; refine keepsCnt_cut s1 ?_ ?_; unfold s1; clear s1; rotate_left; intro hs1; clear_value s1; rotate_right)
    | (extract_lets +onlyGivenNames v1)
    | (split)

theorem linkReset_cnt {s0 : State} (p : Pf) (perst : Bool) (s : State) (h : KeepsCnt s0 s) :
    KeepsCnt s0 (linkReset p perst s) := by
  unfold linkReset
  repeat' first
    | (with_reducible assumption)
    | (with_reducible refine keepsCnt_of (u := endHold _) (endHold_only (ps := noFrame) _ (only_refl _ _) (by decide)) ?_)
    | (with_reducible refine keepsCnt_of (u := updPort _ _ _) (updPort_only (ps := noFrame) _ _ _ (only_refl _ _) (by decide)) ?_)
    | (with_reducible refine keepsCnt_of (u := wake _) (wake_only (ps := noFrame) _ (only_refl _ _) (by decide)) ?_)
    | (with_reducible refine pfReset_cnt _ _ _ ?_)
    | (with_reducible refine keepsCnt_when _ _ ?_ ?_)
    | (intro)
    | (extract_lets +onlyGivenNames s1; refine keepsCnt_cut s1 ?_ ?_; unfold s1; clear s1; rotate_left; intro hs1; clear_value s1; rotate_right)
    | (extract_lets +onlyGivenNames v1)
    | (split)

end Sys2Proof.Machine
end

