-- ==== Sys2Proof/Laws/Code.lean ====
section
/-! SUPPORT. The DEC-TED code that stands in for the unpublished one corrects two errors and detects three (R310). -/

open Sys2Proof Sys2Proof.Machine

namespace Sys2Proof.Laws.Code

/-- The flips of the stand-in code, 16 bits each, bit 0 of the word lowest. -/
def flips : Nat :=
  0x800040002000100008000400020001000080004000200010000800040002000115af681b56c149ac24d6126b6bf957302b9815cc0ae60573607552f6297b767159f42cfa167d69f234f978b03c581e2c0f16078b61095248292414920a4967e833f419fa0cfd64b232597be03df01ef80f7c07be03df6323535d4b6225b17014380a1c056cce366779ff5e334dd54426221373c55b2e2d97740758cf4eab4599

/-- The flip of bit `i`, read from `flips`. -/
def flipAt (i : Nat) : Nat := (flips >>> (16 * i)) % 65536

theorem flip_toNat : ∀ i < 80, (flipOf bchColumn i).toNat = flipAt i := by decide +kernel

/-- The numbers of a list are new to the set of bits `m` and to each other. -/
def fresh : List Nat → Nat → Bool
  | [], _ => true
  | x :: t, m => !m.testBit x && fresh t (m ||| 1 <<< x)

/-- The bits of `m` and of the numbers of a list. -/
def mark (l : List Nat) (m : Nat) : Nat := l.foldl (fun m x => m ||| 1 <<< x) m

theorem testBit_mark (l : List Nat) (m x : Nat) : (mark l m).testBit x = (m.testBit x || l.contains x) := by
  induction l generalizing m with
  | nil => simp [mark]
  | cons y t ih =>
    have e : mark (y :: t) m = mark t (m ||| 1 <<< y) := rfl
    rw [e, ih]
    by_cases h : x = y <;> simp [Nat.testBit_or, Nat.one_shiftLeft, h, Ne.symm]

theorem nodup_of_fresh (l : List Nat) (m : Nat) (h : fresh l m = true) :
    l.Nodup ∧ ∀ x ∈ l, m.testBit x = false := by
  induction l generalizing m with
  | nil => simp
  | cons y t ih =>
    simp only [fresh, Bool.and_eq_true, Bool.not_eq_true'] at h
    obtain ⟨n, k⟩ := ih _ h.2
    have d : ∀ x ∈ t, m.testBit x = false ∧ x ≠ y := by
      intro x hx
      have := k x hx
      simp only [Nat.testBit_or, Nat.one_shiftLeft, Nat.testBit_two_pow, Bool.or_eq_false_iff, decide_eq_false_iff_not] at this
      exact ⟨this.1, fun e => this.2 e.symm⟩
    refine ⟨List.nodup_cons.2 ⟨fun hy => (d y hy).2 rfl, n⟩, fun x hx => ?_⟩
    rcases List.mem_cons.1 hx with rfl | hx
    · exact h.1
    · exact (d x hx).1

/-- The syndromes of no error, of one and of two, as numbers. -/
def few : List Nat := 0 :: (List.range 80).map flipAt ++ bitPairs.map fun p => flipAt p.1 ^^^ flipAt p.2

theorem bitPairs_lt : ∀ p ∈ bitPairs, p.1 < 80 ∧ p.2 < p.1 := by
  intro p h
  simp only [bitPairs, List.mem_flatten, List.mem_map, List.mem_range] at h
  obtain ⟨l, ⟨i, hi, rfl⟩, h⟩ := h
  simp only [List.mem_map, List.mem_range] at h
  obtain ⟨j, hj, rfl⟩ := h
  exact ⟨hi, hj⟩

theorem few_eq : (fewFlips bchColumn).map BitVec.toNat = few := by
  simp only [fewFlips, few, List.cons_append, List.map_cons, List.map_append, List.map_map]
  have a : (List.range 80).map (BitVec.toNat ∘ flipOf bchColumn) = (List.range 80).map flipAt :=
    List.map_congr_left fun i h => flip_toNat i (List.mem_range.1 h)
  have b : bitPairs.map (BitVec.toNat ∘ fun p => flipOf bchColumn p.1 ^^^ flipOf bchColumn p.2) =
      bitPairs.map fun p => flipAt p.1 ^^^ flipAt p.2 := by
    refine List.map_congr_left fun p h => ?_
    have := bitPairs_lt p h
    simp only [Function.comp, BitVec.toNat_xor, flip_toNat p.1 this.1, flip_toNat p.2 (by omega)]
  rw [a, b]
  rfl

theorem few_fresh : fresh few 0 = true := by decide +kernel

/-- No three flips together are in `few`. -/
def triplesFresh : Bool :=
  let m := mark few 0
  bitPairs.all fun p => (List.range p.2).all fun k => !m.testBit (flipAt p.1 ^^^ flipAt p.2 ^^^ flipAt k)

theorem triples_fresh : triplesFresh = true := by decide +kernel

/-- The stand-in code has the property that R310 states. -/
theorem dectedGood_bchColumn : dectedGood bchColumn = true := by
  have n : (fewFlips bchColumn).Nodup := 
    (List.pairwise_map.1 (few_eq.symm ▸ (nodup_of_fresh few 0 few_fresh).1 : ((fewFlips bchColumn).map BitVec.toNat).Nodup)).imp
      fun h e => h (congrArg _ e)
  simp only [dectedGood, n, decide_true, Bool.true_and, List.all_eq_true]
  intro p hp k hk
  have t := triples_fresh
  simp only [triplesFresh, List.all_eq_true] at t
  have := t p hp k hk
  have lt := bitPairs_lt p hp
  have lk := List.mem_range.1 hk
  rw [testBit_mark] at this
  simp only [Nat.zero_testBit, Bool.false_or, ← few_eq] at this
  simp only [Bool.not_eq_true', List.contains_eq_mem, decide_eq_false_iff_not] at this ⊢
  intro h
  refine this (List.mem_map.2 ⟨_, h, ?_⟩)
  simp only [BitVec.toNat_xor, flip_toNat p.1 lt.1, flip_toNat p.2 (by omega), flip_toNat k (by omega)]

/-- So has the code in force. -/
theorem dectedGood_column : dectedGood column = true := by
  by_cases h : dectedGood Config.dectedColumn = true
  · rwa [show column = Config.dectedColumn from funext fun i => by simp only [column, h, if_true]]
  · rw [show column = bchColumn from funext fun i => by simp only [column, h]; rfl]
    exact dectedGood_bchColumn

end Sys2Proof.Laws.Code
end

