-- ==== Sys2Proof/Laws/Tab.lean ====
section
/-! SUPPORT. Reading a table after one of its operations, and the canonical form that each keeps. -/

namespace Sys2Proof.Machine

variable {α : Type}

@[simp] theorem tabGet_set_self (t : Tab α) (k : Nat) (a : α) : tabGet (tabSet t k a) k = some a := by
  induction t with
  | nil => simp [tabSet, tabGet]
  | cons p t ih =>
    obtain ⟨j, b⟩ := p
    unfold tabSet
    split
    · simp [tabGet]
    · split
      · simp [tabGet]
      · simp [tabGet, *]

theorem tabGet_set_ne (t : Tab α) {k j : Nat} (a : α) (h : j ≠ k) : tabGet (tabSet t k a) j = tabGet t j := by
  have h' : k ≠ j := fun e => h e.symm
  induction t with
  | nil => simp [tabSet, tabGet, h']
  | cons p t ih =>
    obtain ⟨i, b⟩ := p
    unfold tabSet
    split
    · simp_all [tabGet]
    · split
      · simp [tabGet, h']
      · simp [tabGet, ih]

@[simp] theorem tabGet_del_self (t : Tab α) (k : Nat) : tabGet (tabDel t k) k = none := by
  induction t with
  | nil => rfl
  | cons p t ih => unfold tabDel; split <;> simp [tabGet, *]

theorem tabGet_del_ne (t : Tab α) {k j : Nat} (h : j ≠ k) : tabGet (tabDel t k) j = tabGet t j := by
  induction t with
  | nil => rfl
  | cons p t ih =>
    obtain ⟨i, b⟩ := p
    unfold tabDel
    split
    · rename_i e
      have : i ≠ j := fun x => h (x.symm.trans e)
      simp [tabGet, ih, this]
    · simp [tabGet, ih]

@[simp] theorem tabGet_map (f : Nat → α → α) (t : Tab α) (k : Nat) : tabGet (tabMap f t) k = (tabGet t k).map (f k) := by
  unfold tabMap
  induction t with
  | nil => rfl
  | cons p t ih =>
    simp only [List.map_cons, tabGet]
    split
    · rename_i e; simp [e]
    · exact ih

theorem tabGet_upd_self {t : Tab α} {k : Nat} {a : α} (f : α → α) (h : tabGet t k = some a) :
    tabGet (tabUpd t k f) k = some (f a) := by simp [tabUpd, h]

theorem tabGet_upd_ne (t : Tab α) {k j : Nat} (f : α → α) (h : j ≠ k) : tabGet (tabUpd t k f) j = tabGet t j := by
  unfold tabUpd; split
  · exact tabGet_set_ne _ _ h
  · rfl

/-! ### The canonical form -/

theorem tabWf_tail {p : Nat × α} {t : Tab α} (h : tabWf (p :: t) = true) : tabWf t = true := by
  cases t with
  | nil => rfl
  | cons q t => simp [tabWf] at h; exact h.2

/-- A record before a canonical table whose keys are all larger. -/
theorem tabWf_cons {j : Nat} {b : α} {t : Tab α} (h : tabWf t = true) (hj : ∀ q ∈ t, j < q.1) :
    tabWf ((j, b) :: t) = true := by
  cases t with
  | nil => rfl
  | cons q t => simp only [tabWf, Bool.and_eq_true, decide_eq_true_eq]; exact ⟨hj q (by simp), h⟩

theorem tabWf_lt {j : Nat} {b : α} {t : Tab α} (h : tabWf ((j, b) :: t) = true) : ∀ q ∈ t, j < q.1 := by
  induction t generalizing j b with
  | nil => simp
  | cons p t ih =>
    simp only [tabWf, Bool.and_eq_true, decide_eq_true_eq] at h
    intro q hq
    rcases List.mem_cons.mp hq with e | e
    · exact e ▸ h.1
    · exact Nat.lt_trans h.1 (ih h.2 q e)

theorem mem_tabSet {t : Tab α} {k : Nat} {a : α} {q : Nat × α} (h : q ∈ tabSet t k a) : q = (k, a) ∨ q ∈ t := by
  induction t with
  | nil => simpa [tabSet] using h
  | cons p t ih =>
    unfold tabSet at h
    split at h
    · rcases List.mem_cons.mp h with e | e <;> simp [e]
    · split at h
      · rcases List.mem_cons.mp h with e | e <;> simp_all
      · rcases List.mem_cons.mp h with e | e
        · simp [e]
        · rcases ih e with e | e <;> simp [e]

theorem mem_tabDel {t : Tab α} {k : Nat} {q : Nat × α} (h : q ∈ tabDel t k) : q ∈ t ∧ q.1 ≠ k := by
  induction t with
  | nil => simp [tabDel] at h
  | cons p t ih =>
    unfold tabDel at h
    split at h
    · exact ⟨List.mem_cons_of_mem _ (ih h).1, (ih h).2⟩
    · rename_i hn
      rcases List.mem_cons.mp h with e | e
      · subst e; exact ⟨by simp, hn⟩
      · exact ⟨List.mem_cons_of_mem _ (ih e).1, (ih e).2⟩

theorem tabWf_set {t : Tab α} (h : tabWf t = true) (k : Nat) (a : α) : tabWf (tabSet t k a) = true := by
  induction t with
  | nil => rfl
  | cons p t ih =>
    obtain ⟨j, b⟩ := p
    unfold tabSet
    split
    · rename_i e; exact tabWf_cons (tabWf_tail h) (e ▸ tabWf_lt h)
    · rename_i e
      split
      · rename_i l
        refine tabWf_cons h fun q hq => ?_
        rcases List.mem_cons.mp hq with e | e
        · exact e ▸ l
        · exact Nat.lt_trans l (tabWf_lt h q e)
      · rename_i l
        refine tabWf_cons (ih (tabWf_tail h)) fun q hq => ?_
        rcases mem_tabSet hq with e' | e'
        · subst e'; simp; omega
        · exact tabWf_lt h q e'

theorem tabWf_del {t : Tab α} (h : tabWf t = true) (k : Nat) : tabWf (tabDel t k) = true := by
  induction t with
  | nil => rfl
  | cons p t ih =>
    obtain ⟨j, b⟩ := p
    unfold tabDel
    split
    · exact ih (tabWf_tail h)
    · exact tabWf_cons (ih (tabWf_tail h)) fun q hq => tabWf_lt h q (mem_tabDel hq).1

theorem tabWf_map {t : Tab α} (h : tabWf t = true) (f : Nat → α → α) : tabWf (tabMap f t) = true := by
  induction t with
  | nil => rfl
  | cons p t ih =>
    refine tabWf_cons (ih (tabWf_tail h)) fun q hq => ?_
    obtain ⟨x, hx, e⟩ := List.mem_map.mp hq
    exact e ▸ tabWf_lt h x hx

theorem tabWf_upd {t : Tab α} (h : tabWf t = true) (k : Nat) (f : α → α) : tabWf (tabUpd t k f) = true := by
  unfold tabUpd; split
  · exact tabWf_set h _ _
  · exact h

end Sys2Proof.Machine
end

