-- ==== Sys2Proof/Laws/Mbx.lean ====
section
/-! SUPPORT. The bounds of the mailbox (`MailboxOk`) and how operations that keep them compose. -/

namespace Sys2Proof.Machine

/-- From a mailbox within its bounds to one within its bounds. -/
structure KeepsMbx (s t : State) : Prop where
  ok : MailboxOk s.mbx → MailboxOk t.mbx

/-- Every group but the mailbox. -/
def noMbx : List Part :=
  [.frame, .host, .zone, .media, .flash, .inst, .prot, .ecc, .fw, .power, .therm, .mgmt, .pins, .recd, .emit, .free, .pending]

theorem keepsMbx_refl (s : State) : KeepsMbx s s := ⟨id⟩

theorem KeepsMbx.trans {s t u : State} (h : KeepsMbx s t) (k : KeepsMbx t u) : KeepsMbx s u := ⟨fun a => k.ok (h.ok a)⟩

theorem keepsMbx_mk {s t u : State} (e : u.mbx = t.mbx) (h : KeepsMbx s t) : KeepsMbx s u := ⟨fun a => e ▸ h.ok a⟩

/-- An operation that leaves the mailbox alone. -/
theorem keepsMbx_of {s t u : State} (k : Only noMbx t u) (h : KeepsMbx s t) : KeepsMbx s u :=
  keepsMbx_mk (k.same .mbx (by decide)) h

theorem keepsMbx_upd {s0 s : State} (f : MbxSt → MbxSt) (hf : ∀ m, MailboxOk m → MailboxOk (f m)) (h : KeepsMbx s0 s) :
    KeepsMbx s0 (updMbx f s) := ⟨fun a => hf _ (h.ok a)⟩

theorem keepsMbx_frame {s0 s : State} (v) (h : KeepsMbx s0 s) : KeepsMbx s0 { s with frame := v } :=
  keepsMbx_mk (t := s) rfl h

theorem keepsMbx_host {s0 s : State} (v) (h : KeepsMbx s0 s) : KeepsMbx s0 { s with host := v } :=
  keepsMbx_mk (t := s) rfl h

theorem keepsMbx_zone {s0 s : State} (v) (h : KeepsMbx s0 s) : KeepsMbx s0 { s with zone := v } :=
  keepsMbx_mk (t := s) rfl h

theorem keepsMbx_media {s0 s : State} (v) (h : KeepsMbx s0 s) : KeepsMbx s0 { s with media := v } :=
  keepsMbx_mk (t := s) rfl h

theorem keepsMbx_flash {s0 s : State} (v) (h : KeepsMbx s0 s) : KeepsMbx s0 { s with flash := v } :=
  keepsMbx_mk (t := s) rfl h

theorem keepsMbx_inst {s0 s : State} (v) (h : KeepsMbx s0 s) : KeepsMbx s0 { s with inst := v } :=
  keepsMbx_mk (t := s) rfl h

theorem keepsMbx_prot {s0 s : State} (v) (h : KeepsMbx s0 s) : KeepsMbx s0 { s with prot := v } :=
  keepsMbx_mk (t := s) rfl h

theorem keepsMbx_ecc {s0 s : State} (v) (h : KeepsMbx s0 s) : KeepsMbx s0 { s with ecc := v } :=
  keepsMbx_mk (t := s) rfl h

theorem keepsMbx_fw {s0 s : State} (v) (h : KeepsMbx s0 s) : KeepsMbx s0 { s with fw := v } :=
  keepsMbx_mk (t := s) rfl h

theorem keepsMbx_power {s0 s : State} (v) (h : KeepsMbx s0 s) : KeepsMbx s0 { s with power := v } :=
  keepsMbx_mk (t := s) rfl h

theorem keepsMbx_therm {s0 s : State} (v) (h : KeepsMbx s0 s) : KeepsMbx s0 { s with therm := v } :=
  keepsMbx_mk (t := s) rfl h

theorem keepsMbx_mgmt {s0 s : State} (v) (h : KeepsMbx s0 s) : KeepsMbx s0 { s with mgmt := v } :=
  keepsMbx_mk (t := s) rfl h

theorem keepsMbx_pins {s0 s : State} (v) (h : KeepsMbx s0 s) : KeepsMbx s0 { s with pins := v } :=
  keepsMbx_mk (t := s) rfl h

theorem keepsMbx_recd {s0 s : State} (v) (h : KeepsMbx s0 s) : KeepsMbx s0 { s with recd := v } :=
  keepsMbx_mk (t := s) rfl h

theorem keepsMbx_emit {s0 s : State} (v) (h : KeepsMbx s0 s) : KeepsMbx s0 { s with emit := v } :=
  keepsMbx_mk (t := s) rfl h

theorem keepsMbx_free {s0 s : State} (v) (h : KeepsMbx s0 s) : KeepsMbx s0 { s with free := v } :=
  keepsMbx_mk (t := s) rfl h

theorem keepsMbx_pending {s0 s : State} (v) (h : KeepsMbx s0 s) : KeepsMbx s0 { s with pending := v } :=
  keepsMbx_mk (t := s) rfl h

theorem keepsMbx_cut {s0 t : State} (s : State) (h : KeepsMbx s0 s) (k : KeepsMbx s0 s → KeepsMbx s0 t) :
    KeepsMbx s0 t := k h

theorem keepsMbx_id {s0 s : State} (h : KeepsMbx s0 s) : KeepsMbx s0 (id s) := h

theorem keepsMbx_when {s0 s : State} (c : Bool) (f : State → State) (h : KeepsMbx s0 s)
    (hf : ∀ t, KeepsMbx s0 t → KeepsMbx s0 (f t)) : KeepsMbx s0 (when c f s) := by
  unfold when; split
  · exact hf s h
  · exact h

theorem keepsMbx_foldl {α : Type} {s0 : State} (l : List α) (f : State → α → State) (s : State) (h : KeepsMbx s0 s)
    (hf : ∀ t a, KeepsMbx s0 t → KeepsMbx s0 (f t a)) : KeepsMbx s0 (l.foldl f s) := by
  induction l generalizing s with
  | nil => exact h
  | cons a l ih => exact ih (f s a) (hf s a h)

theorem keepsMbx_forEach {α : Type} {s0 : State} (l : List α) (f : α → State → State) (s : State)
    (h : KeepsMbx s0 s) (hf : ∀ a t, KeepsMbx s0 t → KeepsMbx s0 (f a t)) : KeepsMbx s0 (forEach l f s) :=
  keepsMbx_foldl l _ s h fun t a ht => hf a t ht

structure KeepsMbxOpt (s0 : State) (o : Option State) : Prop where
  same : ∀ t, o = some t → KeepsMbx s0 t

theorem keepsMbxOpt_none (s0 : State) : KeepsMbxOpt s0 none := ⟨fun _ h => by simp at h⟩

theorem keepsMbxOpt_some {s0 s : State} (h : KeepsMbx s0 s) : KeepsMbxOpt s0 (some s) :=
  ⟨fun _ e => by cases e; exact h⟩

theorem keepsMbxOpt_of {s0 s : State} {o : Option State} (k : OnlyOpt noMbx s o) (h : KeepsMbx s0 s) :
    KeepsMbxOpt s0 o := ⟨fun t e => keepsMbx_of (k.only t e) h⟩

theorem keepsMbx_getD {s0 s : State} {o : Option State} (k : KeepsMbxOpt s0 o) (h : KeepsMbx s0 s) :
    KeepsMbx s0 (o.getD s) := by
  cases o with
  | none => exact h
  | some t => exact k.same t rfl

end Sys2Proof.Machine
end

