-- ==== Sys2Proof/Laws/Mbx/Scp.lean ====
section
/-! SUPPORT. Operations of Machine/Scp.lean keep the mailbox within its bounds. -/

set_option linter.tactic.unusedName false

namespace Sys2Proof.Machine

theorem setMbxPf_mbx {s0 : State} (p : Pf) (m : MbxPf) (s : State) (h : KeepsMbx s0 s) :
    KeepsMbx s0 (setMbxPf p m s) := by
  unfold setMbxPf
  repeat' first
    | (with_reducible assumption)
    | (intro)
    | (split)
    | (refine keepsMbx_upd _ (fun m hm => hm) ?_)

theorem setEvent_mbx {s0 : State} (b : Nat) (s : State) (h : KeepsMbx s0 s) :
    KeepsMbx s0 (setEvent b s) := by
  unfold setEvent
  repeat' first
    | (with_reducible assumption)
    | (with_reducible refine keepsMbx_of (u := sends _ _) (sends_only (ps := noMbx) _ _ (only_refl _ _) (by decide)) ?_)
    | (intro)
    | (split)
    | (refine keepsMbx_upd _ (fun m hm => hm) ?_)

theorem reject_mbx {s0 : State} (n : Nat) (s : State) (h : KeepsMbx s0 s) :
    KeepsMbx s0 (reject n s) := by
  unfold reject
  repeat' first
    | (with_reducible assumption)
    | (with_reducible refine setEvent_mbx _ _ ?_)
    | (intro)
    | (refine keepsMbx_upd _ (fun m hm => hm) ?_)

theorem abortWords_mbx {s0 : State} (n : Nat) (s : State) (h : KeepsMbx s0 s) :
    KeepsMbx s0 (abortWords n s) := by
  unfold abortWords
  repeat' first
    | (with_reducible assumption)
    | (with_reducible refine setEvent_mbx _ _ ?_)
    | (intro)
    | (refine keepsMbx_upd _ (fun m hm => hm) ?_)

theorem clearEvents_mbx {s0 : State} (x0 : Byte) (s : State) (h : KeepsMbx s0 s) :
    KeepsMbx s0 (clearEvents x0 s) := by
  unfold clearEvents
  repeat' first
    | (with_reducible assumption)
    | (intro)
    | (split)
    | (refine keepsMbx_upd _ (fun m hm => hm) ?_)

theorem spillWrite_ok (e : Half) (n : Nat) (b : Bool) (ws : List Word) (m : MbxSt) (h : MailboxOk m) :
    MailboxOk (spillWrite e n b ws m) := by
  induction n generalizing b ws m with
  | zero => exact h
  | succ n ih => exact ih false (ws.drop 3) _ h

theorem toRing_mbx {s0 : State} (r : Reply) (s : State) (h : KeepsMbx s0 s) : KeepsMbx s0 (toRing r s) :=
  setEvent_mbx _ _ (keepsMbx_upd _ (fun m hm => spillWrite_ok _ _ _ _ m hm) h)

theorem postReply_mbx {s0 : State} (ws : List Word) (s : State) (h : KeepsMbx s0 s) : KeepsMbx s0 (postReply ws s) := by
  unfold postReply
  dsimp only
  split
  · rename_i hc
    refine setEvent_mbx _ _ ⟨fun a => ?_⟩
    obtain ⟨h1, h2, h3, h4, h5⟩ := h.ok a
    refine ⟨?_, h2, h3, h4, h5⟩
    have hl : (inWords { words := ws, epoch := s.mbx.devEpoch }).length = ws.length := by
      unfold inWords; cases ws <;> simp
    show (s.mbx.inQ ++ inWords { words := ws, epoch := s.mbx.devEpoch }).length ≤ 16
    rw [List.length_append, hl]
    exact hc.1
  · split
    · exact toRing_mbx _ _ h
    · exact keepsMbx_upd _ (fun m hm => hm) h

theorem drainBacklog_mbx {s0 : State} (x0 : List Reply) (s : State) (h : KeepsMbx s0 s) :
    KeepsMbx s0 (drainBacklog x0 s) := by
  fun_induction drainBacklog
  repeat' first
    | (with_reducible assumption)
    | (with_reducible refine toRing_mbx _ _ ?_)
    | (apply_assumption)
    | (intro)
    | (split)
    | (refine keepsMbx_upd _ (fun m hm => hm) ?_)

theorem sendReply_mbx {s0 : State} (opcode : Nat) (tag : Nat) (epoch : Half) (status : Nat) (payload : List Nat) (s : State) (h : KeepsMbx s0 s) :
    KeepsMbx s0 (sendReply opcode tag epoch status payload s) := by
  unfold sendReply
  repeat' first
    | (with_reducible assumption)
    | (with_reducible refine postReply_mbx _ _ ?_)
    | (intro)

theorem reply_mbx {s0 : State} (r : Posted) (status : Nat) (payload : List Nat) (s : State) (h : KeepsMbx s0 s) :
    KeepsMbx s0 (reply r status payload s) := by
  unfold reply
  repeat' first
    | (with_reducible assumption)
    | (with_reducible refine sendReply_mbx _ _ _ _ _ _ ?_)
    | (intro)

theorem replyOk_mbx {s0 : State} (r : Posted) (payload : List Nat) (s : State) (h : KeepsMbx s0 s) :
    KeepsMbx s0 (replyOk r payload s) := by
  unfold replyOk
  repeat' first
    | (with_reducible assumption)
    | (with_reducible refine reply_mbx _ _ _ _ ?_)
    | (intro)

theorem replyBusy_mbx {s0 : State} (r : Posted) (s : State) (h : KeepsMbx s0 s) :
    KeepsMbx s0 (replyBusy r s) := by
  unfold replyBusy
  repeat' first
    | (with_reducible assumption)
    | (with_reducible refine reply_mbx _ _ _ _ ?_)
    | (intro)

theorem replyInvalid_mbx {s0 : State} (r : Posted) (i : Nat) (s : State) (h : KeepsMbx s0 s) :
    KeepsMbx s0 (replyInvalid r i s) := by
  unfold replyInvalid
  repeat' first
    | (with_reducible assumption)
    | (with_reducible refine reply_mbx _ _ _ _ ?_)
    | (intro)

theorem replyConflict_mbx {s0 : State} (r : Posted) (kind : Nat) (holder : Nat) (s : State) (h : KeepsMbx s0 s) :
    KeepsMbx s0 (replyConflict r kind holder s) := by
  unfold replyConflict
  repeat' first
    | (with_reducible assumption)
    | (with_reducible refine reply_mbx _ _ _ _ ?_)
    | (intro)

theorem replyRefused_mbx {s0 : State} (r : Posted) (reason : Nat) (s : State) (h : KeepsMbx s0 s) :
    KeepsMbx s0 (replyRefused r reason s) := by
  unfold replyRefused
  repeat' first
    | (with_reducible assumption)
    | (with_reducible refine reply_mbx _ _ _ _ ?_)
    | (intro)

theorem replyNoResource_mbx {s0 : State} (r : Posted) (pool : Nat) (s : State) (h : KeepsMbx s0 s) :
    KeepsMbx s0 (replyNoResource r pool s) := by
  unfold replyNoResource
  repeat' first
    | (with_reducible assumption)
    | (with_reducible refine reply_mbx _ _ _ _ ?_)
    | (intro)

theorem replyAuth_mbx {s0 : State} (r : Posted) (s : State) (h : KeepsMbx s0 s) :
    KeepsMbx s0 (replyAuth r s) := by
  unfold replyAuth
  repeat' first
    | (with_reducible assumption)
    | (with_reducible refine reply_mbx _ _ _ _ ?_)
    | (intro)

theorem replyAborted_mbx {s0 : State} (r : Posted) (reason : Nat) (offset : Nat) (s : State) (h : KeepsMbx s0 s) :
    KeepsMbx s0 (replyAborted r reason offset s) := by
  unfold replyAborted
  repeat' first
    | (with_reducible assumption)
    | (with_reducible refine reply_mbx _ _ _ _ ?_)
    | (intro)

theorem replyPending_mbx {s0 : State} (r : Posted) (s : State) (h : KeepsMbx s0 s) :
    KeepsMbx s0 (replyPending r s) := by
  unfold replyPending
  repeat' first
    | (with_reducible assumption)
    | (with_reducible refine reply_mbx _ _ _ _ ?_)
    | (intro)
    | (refine keepsMbx_upd _ (fun m hm => hm) ?_)

theorem finalReply_mbx {s0 : State} (tag : Nat) (opcode : Nat) (status : Nat) (payload : List Nat) (s : State) (h : KeepsMbx s0 s) :
    KeepsMbx s0 (finalReply tag opcode status payload s) := by
  unfold finalReply
  repeat' first
    | (with_reducible assumption)
    | (with_reducible refine sendReply_mbx _ _ _ _ _ _ ?_)
    | (intro)
    | (split)
    | (refine keepsMbx_upd _ (fun m hm => hm) ?_)

theorem emptying_mbx {s0 : State} (x0 : State → State) (s : State) (h : KeepsMbx s0 s) (hf0 : ∀ t, KeepsMbx s0 t → KeepsMbx s0 (x0 t)) :
    KeepsMbx s0 (emptying x0 s) := by
  unfold emptying
  repeat' first
    | (with_reducible assumption)
    | (with_reducible refine hf0 _ ?_)
    | (with_reducible refine setEvent_mbx _ _ ?_)
    | (with_reducible refine keepsMbx_when _ _ ?_ ?_)
    | (intro)
    | (extract_lets +onlyGivenNames s1; refine keepsMbx_cut s1 ?_ ?_; unfold s1; clear s1; rotate_left; intro hs1; clear_value s1; rotate_right)
    | (extract_lets +onlyGivenNames v1)

theorem takeHead_mbx {s0 : State} (s : State) (h : KeepsMbx s0 s) : KeepsMbx s0 (takeHead s) := by
  unfold takeHead
  refine emptying_mbx _ _ h fun t ht => keepsMbx_upd _ (fun m hm => ?_) ht
  obtain ⟨h1, h2, h3, h4, h5⟩ := hm
  refine ⟨h1, ?_, h3, h4, h5⟩
  unfold outUsed at *
  dsimp only
  have : (m.outQ.tail.map fun p => p.words.length).sum ≤ (m.outQ.map fun p => p.words.length).sum := by
    cases m.outQ with
    | nil => exact Nat.le_refl _
    | cons p l => simp
  omega

theorem dropDup_mbx {s0 : State}  (s : State) (h : KeepsMbx s0 s) :
    KeepsMbx s0 (dropDup s) := by
  unfold dropDup
  repeat' first
    | (with_reducible assumption)
    | (with_reducible refine setEvent_mbx _ _ ?_)
    | (intro)
    | (refine keepsMbx_upd _ (fun m hm => hm) ?_)

theorem drainHeads_mbx {s0 : State} (n : Nat) (s : State) (h : KeepsMbx s0 s) : KeepsMbx s0 (drainHeads n s) := by
  induction n generalizing s with
  | zero => exact h
  | succ n ih =>
    unfold drainHeads
    split
    · exact h
    · split
      · exact h
      · dsimp only
        refine ih _ ?_
        split
        · exact dropDup_mbx _ (takeHead_mbx _ h)
        · exact replyInvalid_mbx _ _ _ (takeHead_mbx _ h)

theorem reopen_mbx {s0 : State}  (s : State) (h : KeepsMbx s0 s) :
    KeepsMbx s0 (reopen s) := by
  unfold reopen
  repeat' first
    | (with_reducible assumption)
    | (with_reducible refine drainHeads_mbx _ _ ?_)
    | (with_reducible refine keepsMbx_when _ _ ?_ ?_)
    | (intro)

theorem scp_mbx {s0 : State} (op : Nat) (x1 : Form) (fault : Posted → Option Nat) (body : Posted → State → State) (s : State) (h : KeepsMbx s0 s) (hf0 : ∀ a t, KeepsMbx s0 t → KeepsMbx s0 (body a t)) :
    KeepsMbx s0 (scp op x1 fault body s) := by
  unfold scp
  repeat' first
    | (with_reducible assumption)
    | (with_reducible refine hf0 _ _ ?_)
    | (with_reducible refine takeHead_mbx _ ?_)
    | (with_reducible refine drainHeads_mbx _ _ ?_)
    | (with_reducible refine dropDup_mbx _ ?_)
    | (with_reducible refine replyInvalid_mbx _ _ _ ?_)
    | (with_reducible refine replyRefused_mbx _ _ _ ?_)
    | (with_reducible refine replyConflict_mbx _ _ _ _ ?_)
    | (intro)
    | (extract_lets +onlyGivenNames s1; refine keepsMbx_cut s1 ?_ ?_; unfold s1; clear s1; rotate_left; intro hs1; clear_value s1; rotate_right)
    | (extract_lets +onlyGivenNames v1)
    | (split)

theorem outUsed_noPart (m : MbxSt) (x : MbxSt) (hq : x.outQ = m.outQ) (hp : x.part = none) : outUsed x ≤ outUsed m := by
  unfold outUsed
  rw [hq, hp]
  dsimp only
  omega

theorem hostSenderReset_mbx {s0 : State} (s : State) (h : KeepsMbx s0 s) : KeepsMbx s0 (hostSenderReset s) := by
  unfold hostSenderReset
  refine keepsMbx_when _ _ (emptying_mbx _ _ h fun t ht => keepsMbx_upd _ (fun m hm => ?_) ht) fun t ht => reject_mbx _ _ ht
  obtain ⟨h1, h2, h3, h4, h5⟩ := hm
  exact ⟨h1, Nat.le_trans (outUsed_noPart m _ rfl rfl) h2, (by intro q e; cases e), h4, h5⟩

theorem clearInQueue_mbx {s0 : State} (s : State) (h : KeepsMbx s0 s) : KeepsMbx s0 (clearInQueue s) :=
  keepsMbx_upd _ (fun _ hm => ⟨Nat.zero_le _, hm.2⟩) h

theorem setLatch_mbx {s0 : State} (n a : Nat) (s : State) (hb : a = 0 ∨ (n ≤ 15 ∧ a ≤ 20)) (h : KeepsMbx s0 s) :
    KeepsMbx s0 (setLatch n a s) := by
  refine keepsMbx_upd _ (fun m hm => ?_) h
  obtain ⟨h1, h2, h3, h4, h5⟩ := hm
  refine ⟨h1, h2, h3, ?_, fun p hp => ?_⟩
  · dsimp only
    split
    · exact tabWf_del h4 _
    · exact tabWf_set h4 _ _
  · dsimp only at hp
    split at hp
    · exact h5 p (mem_tabDel hp).1
    · rename_i ha
      rcases mem_tabSet hp with e | e
      · subst e
        rcases hb with hb | hb
        · exact absurd hb ha
        · dsimp only; omega
      · exact h5 p e

theorem roleChange_mbx {s0 : State}  (s : State) (h : KeepsMbx s0 s) :
    KeepsMbx s0 (roleChange s) := by
  unfold roleChange
  repeat' first
    | (with_reducible assumption)
    | (with_reducible refine setEvent_mbx _ _ ?_)
    | (with_reducible refine keepsMbx_of (u := dropManagerProposals _) (dropManagerProposals_only (ps := noMbx) _ (only_refl _ _) (by decide)) ?_)
    | (intro)

theorem freeLatch_mbx {s0 : State} (n : Nat) (s : State) (h : KeepsMbx s0 s) : KeepsMbx s0 (freeLatch n s) := by
  have k := setLatch_mbx n 0 s (.inl rfl) h
  unfold freeLatch
  dsimp only
  split
  · exact roleChange_mbx _ (keepsMbx_of (ringOff_only (ps := noMbx) _ (only_refl _ _) (by decide)) k)
  · split
    · exact keepsMbx_of (eccExit_only (ps := noMbx) _ (only_refl _ _) (by decide)) k
    · exact k

theorem takeLatch_mbx {s0 : State} (n a : Nat) (s : State) (hb : n ≤ 15 ∧ a ≤ 20) (h : KeepsMbx s0 s) :
    KeepsMbx s0 (takeLatch n a s) :=
  keepsMbx_when _ _ (setLatch_mbx n a s (.inr hb) h) fun t ht => roleChange_mbx t ht

theorem freeLatchesOf_mbx {s0 : State} (a : Nat) (s : State) (h : KeepsMbx s0 s) :
    KeepsMbx s0 (freeLatchesOf a s) := by
  unfold freeLatchesOf
  repeat' first
    | (with_reducible assumption)
    | (with_reducible refine freeLatch_mbx _ _ ?_)
    | (with_reducible refine keepsMbx_forEach _ _ _ ?_ ?_)
    | (intro)

theorem epochMoves_mbx {s0 : State} (release : Bool) (s : State) (h : KeepsMbx s0 s) :
    KeepsMbx s0 (epochMoves release s) := by
  unfold epochMoves
  repeat' first
    | (with_reducible assumption)
    | (with_reducible refine freeLatch_mbx _ _ ?_)
    | (with_reducible refine hostSenderReset_mbx _ ?_)
    | (with_reducible refine clearInQueue_mbx _ ?_)
    | (intro)
    | (split)

theorem descDma_mbx {s0 : State} (r : Posted) (dma : Dma) (out : List Byte) (ends : Nat → List Nat → State → State) (body : State → State) (s : State) (h : KeepsMbx s0 s) (hf0 : ∀ a b t, KeepsMbx s0 t → KeepsMbx s0 (ends a b t)) (hf1 : ∀ t, KeepsMbx s0 t → KeepsMbx s0 (body t)) :
    KeepsMbx s0 (descDma r dma out ends body s) := by
  unfold descDma
  repeat' first
    | (with_reducible assumption)
    | (with_reducible refine hf0 _ _ _ ?_)
    | (with_reducible refine hf1 _ ?_)
    | (with_reducible refine keepsMbx_of (u := send _ _) (send_only (ps := noMbx) _ _ (only_refl _ _) (by decide)) ?_)
    | (with_reducible refine epochMoves_mbx _ _ ?_)
    | (with_reducible refine keepsMbx_when _ _ ?_ ?_)
    | (intro)
    | (extract_lets +onlyGivenNames s1; refine keepsMbx_cut s1 ?_ ?_; unfold s1; clear s1; rotate_left; intro hs1; clear_value s1; rotate_right)
    | (extract_lets +onlyGivenNames k1; have _ck := fun x => (k1 x : State → State); clear _ck)
    | (extract_lets +onlyGivenNames k1; have _ck := fun x => (k1 x : State); clear _ck)
    | (extract_lets +onlyGivenNames v1)
    | (split)
    | (dsimp only [k1])

theorem descRead_mbx {s0 : State} (r : Posted) (dma : Dma) (body : List Byte → State → State) (s : State) (h : KeepsMbx s0 s) (hf0 : ∀ a t, KeepsMbx s0 t → KeepsMbx s0 (body a t)) :
    KeepsMbx s0 (descRead r dma body s) := by
  unfold descRead
  repeat' first
    | (with_reducible assumption)
    | (with_reducible refine hf0 _ _ ?_)
    | (with_reducible refine descDma_mbx _ _ _ _ _ _ ?_ ?_ ?_)
    | (with_reducible refine reply_mbx _ _ _ _ ?_)
    | (intro)

theorem descWrite_mbx {s0 : State} (r : Posted) (dma : Dma) (out : List Byte) (x3 : State → State) (s : State) (h : KeepsMbx s0 s) (hf0 : ∀ t, KeepsMbx s0 t → KeepsMbx s0 (x3 t)) :
    KeepsMbx s0 (descWrite r dma out x3 s) := by
  unfold descWrite
  repeat' first
    | (with_reducible assumption)
    | (with_reducible refine hf0 _ ?_)
    | (with_reducible refine descDma_mbx _ _ _ _ _ _ ?_ ?_ ?_)
    | (with_reducible refine reply_mbx _ _ _ _ ?_)
    | (intro)

theorem cellarMailboxReset_mbx {s0 : State} (s : State) (h : KeepsMbx s0 s) : KeepsMbx s0 (cellarMailboxReset s) := by
  unfold cellarMailboxReset
  dsimp only
  refine setEvent_mbx _ _ (abortWords_mbx _ _ (keepsMbx_forEach _ _ _
    (emptying_mbx _ _ h fun t ht => keepsMbx_upd _ (fun m hm => ?_) ht) fun a t ht => freeLatchesOf_mbx a t ht))
  obtain ⟨h1, h2, h3, h4, h5⟩ := hm
  exact ⟨h1, (by show outUsed _ ≤ 16; simp [outUsed]), (by intro q e; cases e), h4, h5⟩

theorem windowPfReset_mbx {s0 : State} (p : Pf) (s : State) (h : KeepsMbx s0 s) :
    KeepsMbx s0 (windowPfReset p s) := by
  unfold windowPfReset
  repeat' first
    | (with_reducible assumption)
    | (with_reducible refine clearInQueue_mbx _ ?_)
    | (with_reducible refine hostSenderReset_mbx _ ?_)
    | (with_reducible refine freeLatchesOf_mbx _ _ ?_)
    | (with_reducible refine setMbxPf_mbx _ _ _ ?_)
    | (with_reducible refine keepsMbx_when _ _ ?_ ?_)
    | (intro)
    | (extract_lets +onlyGivenNames s1; refine keepsMbx_cut s1 ?_ ?_; unfold s1; clear s1; rotate_left; intro hs1; clear_value s1; rotate_right)
    | (extract_lets +onlyGivenNames v1)
    | (split)
    | (refine keepsMbx_upd _ (fun m hm => hm) ?_)
    | (refine keepsMbx_frame _ ?_)

end Sys2Proof.Machine
end

