-- ==== Sys2Proof/Laws/Mbx/Window.lean ====
section
/-! SUPPORT. Operations of Machine/Window.lean keep the mailbox within its bounds. -/

set_option linter.tactic.unusedName false

namespace Sys2Proof.Machine

theorem setGate_mbx {s0 : State} (p : Pf) (g : Gate) (s : State) (h : KeepsMbx s0 s) :
    KeepsMbx s0 (setGate p g s) := by
  unfold setGate
  repeat' first
    | (with_reducible assumption)
    | (intro)
    | (split)
    | (refine keepsMbx_upd _ (fun m hm => hm) ?_)

theorem gateAccess_mbx {s0 : State} (p : Pf) (area : Nat) (wr : Bool) (s : State) (h : KeepsMbx s0 s) :
    KeepsMbx s0 (gateAccess p area wr s) := by
  unfold gateAccess
  repeat' first
    | (with_reducible assumption)
    | (with_reducible refine setGate_mbx _ _ _ ?_)
    | (intro)
    | (extract_lets +onlyGivenNames s1; refine keepsMbx_cut s1 ?_ ?_; unfold s1; clear s1; rotate_left; intro hs1; clear_value s1; rotate_right)
    | (extract_lets +onlyGivenNames v1)
    | (refine keepsMbx_power _ ?_)

theorem readLatch_mbx {s0 : State} (a n : Nat) {s : State} (hb : n ≤ 15 ∧ a ≤ 20) (h : KeepsMbx s0 s) :
    KeepsMbx s0 (readLatch a n s).2 := by
  unfold readLatch
  dsimp only
  split
  · exact takeLatch_mbx n a s hb h
  · split <;> exact h

theorem clearFull_mbx {s0 : State} (n : Nat) (s : State) (h : KeepsMbx s0 s) :
    KeepsMbx s0 (clearFull n s) := by
  unfold clearFull
  repeat' first
    | (with_reducible assumption)
    | (intro)
    | (refine keepsMbx_upd _ (fun m hm => hm) ?_)

theorem pf_agent (p : Pf) : p.agent ≤ 20 := by cases p <;> decide

theorem read4_mbx {s0 : State} (p : Pf) (off : Nat) {s : State} (h : KeepsMbx s0 s) : KeepsMbx s0 (read4 p off s).2 := by
  unfold read4
  split
  · exact gateAccess_mbx _ _ _ _ h
  · dsimp only
    split
    · exact keepsMbx_of (setShadow_only (ps := noMbx) _ _ (only_refl _ _) (by decide)) h
    split
    · refine keepsMbx_when _ _ h fun t ht => keepsMbx_upd _ (fun m hm => ⟨?_, hm.2⟩) ht
      have := hm.1
      dsimp only
      rw [List.length_tail]
      omega
    split
    · rename_i hr
      exact readLatch_mbx _ _ ⟨by omega, pf_agent p⟩ h
    split
    · exact clearFull_mbx _ _ h
    · exact h

theorem read4_mbx2 {s0 : State} (p : Pf) (off : Nat) {s t : State} {v} (h : KeepsMbx s0 s) (e : read4 p off s = (v, t)) :
    KeepsMbx s0 t := by
  have k := read4_mbx p off h
  rw [e] at k; exact k

theorem readMany_mbx {s0 : State} (p : Pf) (n off : Nat) {s : State} (h : KeepsMbx s0 s) :
    KeepsMbx s0 (readMany p n off s).2 := by
  induction n generalizing off s with
  | zero => exact h
  | succ n ih =>
    unfold readMany
    dsimp only
    exact ih _ (read4_mbx _ _ h)

theorem readMany_mbx2 {s0 : State} (p : Pf) (n off : Nat) {s t : State} {v} (h : KeepsMbx s0 s)
    (e : readMany p n off s = (v, t)) : KeepsMbx s0 t := by
  have k := readMany_mbx p n off h
  rw [e] at k; exact k

theorem windowRead_mbx {s0 : State} (p : Pf) (off size : Nat) {s : State} (h : KeepsMbx s0 s) :
    KeepsMbx s0 (windowRead p off size s).2 := by
  unfold windowRead
  repeat' first
    | (with_reducible assumption)
    | (with_reducible refine gateAccess_mbx _ _ _ _ ?_)
    | (with_reducible refine keepsMbx_of (u := setShadow _ _) (setShadow_only (ps := noMbx) _ _ (only_refl _ _) (by decide)) ?_)
    | (with_reducible refine clearFull_mbx _ _ ?_)
    | (with_reducible refine readMany_mbx2 _ _ _ ?_ (by assumption))
    | (with_reducible refine readMany_mbx _ _ _ ?_)
    | (with_reducible refine read4_mbx _ _ ?_)
    | (split)
    | (dsimp only)

theorem windowRead_mbx2 {s0 : State} (p : Pf) (off size : Nat) {s t : State} {v} (h : KeepsMbx s0 s)
    (e : windowRead p off size s = (v, t)) : KeepsMbx s0 t := by
  have k := windowRead_mbx p off size h
  rw [e] at k; exact k

theorem outWord_mbx {s0 : State} (p : Pf) (w : Word) (s : State) (h : KeepsMbx s0 s) : KeepsMbx s0 (outWord p w s) := by
  unfold outWord
  dsimp only
  split
  · exact reject_mbx _ _ (keepsMbx_upd _ (fun m hm => hm) h)
  split
  · rename_i q hq
    split
    · rename_i hl
      refine ⟨fun a => ?_⟩
      obtain ⟨h1, h2, h3, h4, h5⟩ := h.ok a
      refine ⟨h1, ?_, (by intro q e; cases e), h4, h5⟩
      have k := h3 q hq
      unfold outUsed at *
      rw [hq] at h2
      simp only [updMbx, List.map_append, List.sum_append, List.map_cons, List.map_nil, List.sum_cons, List.sum_nil,
        List.length_append, List.length_cons, List.length_nil] at *
      omega
    · rename_i hl
      refine ⟨fun a => ?_⟩
      obtain ⟨h1, h2, h3, h4, h5⟩ := h.ok a
      refine ⟨h1, ?_, ?_, h4, h5⟩
      · unfold outUsed at *
        rw [hq] at h2
        simp only [updMbx, List.length_append, List.length_cons, List.length_nil] at *
        omega
      · intro q' e
        cases e
        dsimp only
        omega
  · rename_i hq
    split
    · exact reject_mbx _ _ (keepsMbx_upd _ (fun m hm => hm) h)
    rename_i hl
    have hu : outUsed s.mbx = (s.mbx.outQ.map fun p => p.words.length).sum := by unfold outUsed; rw [hq]; rfl
    split
    · refine ⟨fun a => ?_⟩
      obtain ⟨h1, h2, h3, h4, h5⟩ := h.ok a
      refine ⟨h1, ?_, (by intro q e; simp [updMbx, hq] at e), h4, h5⟩
      have : outUsed (updMbx (fun m => { m with outQ := m.outQ ++
          [{ agent := p.agent, epoch := s.mbx.hostEpoch, frame := now s, words := [w] }] }) s).mbx = outUsed s.mbx + 1 := by
        unfold outUsed
        simp only [updMbx, hq, List.map_append, List.sum_append, List.map_cons, List.map_nil, List.sum_cons, List.sum_nil,
          List.length_cons, List.length_nil]
        omega
      show outUsed _ ≤ 16
      omega
    · rename_i hz
      refine ⟨fun a => ?_⟩
      obtain ⟨h1, h2, h3, h4, h5⟩ := h.ok a
      refine ⟨h1, ?_, ?_, h4, h5⟩
      · have : outUsed (updMbx (fun m => { m with part := some { agent := p.agent, words := [w], left := bits w.toNat 15 12 } })
            s).mbx = outUsed s.mbx + 1 + bits w.toNat 15 12 := by
          unfold outUsed
          simp only [updMbx, hq, List.length_cons, List.length_nil]
          omega
        show outUsed _ ≤ 16
        omega
      · intro q' e
        cases e
        dsimp only
        omega

theorem writeOut_mbx {s0 : State} (p : Pf) (w : Word) (s : State) (h : KeepsMbx s0 s) :
    KeepsMbx s0 (writeOut p w s) := by
  unfold writeOut
  repeat' first
    | (with_reducible assumption)
    | (with_reducible refine outWord_mbx _ _ _ ?_)
    | (with_reducible refine reopen_mbx _ ?_)
    | (with_reducible refine reject_mbx _ _ ?_)
    | (intro)
    | (extract_lets +onlyGivenNames s1; refine keepsMbx_cut s1 ?_ ?_; unfold s1; clear s1; rotate_left; intro hs1; clear_value s1; rotate_right)
    | (extract_lets +onlyGivenNames v1)
    | (split)

theorem setCons_mbx {s0 : State} (x0 : Byte) (s : State) (h : KeepsMbx s0 s) :
    KeepsMbx s0 (setCons x0 s) := by
  unfold setCons
  repeat' first
    | (with_reducible assumption)
    | (with_reducible refine drainBacklog_mbx _ _ ?_)
    | (with_reducible refine keepsMbx_foldl _ _ _ ?_ ?_)
    | (intro)
    | (extract_lets +onlyGivenNames s1; refine keepsMbx_cut s1 ?_ ?_; unfold s1; clear s1; rotate_left; intro hs1; clear_value s1; rotate_right)
    | (extract_lets +onlyGivenNames k1; have _ck := fun x => (k1 x : State → State); clear _ck)
    | (extract_lets +onlyGivenNames k1; have _ck := fun x => (k1 x : State); clear _ck)
    | (extract_lets +onlyGivenNames v1)
    | (split)
    | (refine keepsMbx_upd _ (fun m hm => hm) ?_)
    | (refine keepsMbx_free _ ?_)
    | (dsimp only [k1])

theorem writeCtl_mbx {s0 : State} (p : Pf) (x1 : Nat) (s : State) (h : KeepsMbx s0 s) :
    KeepsMbx s0 (writeCtl p x1 s) := by
  unfold writeCtl
  repeat' first
    | (with_reducible assumption)
    | (with_reducible refine setMbxPf_mbx _ _ _ ?_)
    | (with_reducible refine setCons_mbx _ _ ?_)
    | (with_reducible refine clearInQueue_mbx _ ?_)
    | (with_reducible refine hostSenderReset_mbx _ ?_)
    | (with_reducible refine keepsMbx_when _ _ ?_ ?_)
    | (intro)
    | (extract_lets +onlyGivenNames s1; refine keepsMbx_cut s1 ?_ ?_; unfold s1; clear s1; rotate_left; intro hs1; clear_value s1; rotate_right)
    | (extract_lets +onlyGivenNames v1)
    | (split)

theorem writeLatch_mbx {s0 : State} (a : Nat) (n : Nat) (x2 : Word) (s : State) (h : KeepsMbx s0 s) :
    KeepsMbx s0 (writeLatch a n x2 s) := by
  unfold writeLatch
  repeat' first
    | (with_reducible assumption)
    | (with_reducible refine freeLatch_mbx _ _ ?_)
    | (with_reducible refine hostSenderReset_mbx _ ?_)
    | (with_reducible refine keepsMbx_when _ _ ?_ ?_)
    | (intro)
    | (split)

theorem write4_mbx {s0 : State} (p : Pf) (off : Nat) (x2 : Nat) (s : State) (h : KeepsMbx s0 s) :
    KeepsMbx s0 (write4 p off x2 s) := by
  unfold write4
  repeat' first
    | (with_reducible assumption)
    | (with_reducible refine gateAccess_mbx _ _ _ _ ?_)
    | (with_reducible refine writeOut_mbx _ _ _ ?_)
    | (with_reducible refine writeCtl_mbx _ _ _ ?_)
    | (with_reducible refine clearEvents_mbx _ _ ?_)
    | (with_reducible refine writeLatch_mbx _ _ _ _ ?_)
    | (with_reducible refine setGate_mbx _ _ _ ?_)
    | (intro)
    | (extract_lets +onlyGivenNames s1; refine keepsMbx_cut s1 ?_ ?_; unfold s1; clear s1; rotate_left; intro hs1; clear_value s1; rotate_right)
    | (extract_lets +onlyGivenNames v1)
    | (split)
    | (refine keepsMbx_upd _ (fun m hm => hm) ?_)

theorem windowWrite_mbx {s0 : State} (p : Pf) (off : Nat) (size : Nat) (x3 : Nat) (s : State) (h : KeepsMbx s0 s) :
    KeepsMbx s0 (windowWrite p off size x3 s) := by
  unfold windowWrite
  repeat' first
    | (with_reducible assumption)
    | (with_reducible refine write4_mbx _ _ _ _ ?_)
    | (with_reducible refine gateAccess_mbx _ _ _ _ ?_)
    | (intro)
    | (split)

theorem boardWrite_mbx {s0 : State} (n : Nat) (x1 : Nat) (s : State) (h : KeepsMbx s0 s) :
    KeepsMbx s0 (boardWrite n x1 s) := by
  unfold boardWrite
  repeat' first
    | (with_reducible assumption)
    | (intro)
    | (extract_lets +onlyGivenNames s1; refine keepsMbx_cut s1 ?_ ?_; unfold s1; clear s1; rotate_left; intro hs1; clear_value s1; rotate_right)
    | (extract_lets +onlyGivenNames v1)
    | (split)
    | (refine keepsMbx_upd _ (fun m hm => hm) ?_)

end Sys2Proof.Machine
end

