-- ==== Sys2Proof/Laws/Mbx/Metering.lean ====
section
/-! SUPPORT. Operations of Machine/Metering.lean keep the mailbox within its bounds. -/

set_option linter.tactic.unusedName false

namespace Sys2Proof.Machine

theorem freezeSlips_mbx {s0 : State}  (s : State) (h : KeepsMbx s0 s) :
    KeepsMbx s0 (freezeSlips s) := by
  unfold freezeSlips
  repeat' first
    | (with_reducible assumption)
    | (with_reducible refine keepsMbx_of (u := updFrame _ _) (updFrame_only (ps := noMbx) _ _ (only_refl _ _) (by decide)) ?_)
    | (with_reducible refine boardWrite_mbx _ _ _ ?_)
    | (intro)
    | (extract_lets +onlyGivenNames s1; refine keepsMbx_cut s1 ?_ ?_; unfold s1; clear s1; rotate_left; intro hs1; clear_value s1; rotate_right)
    | (extract_lets +onlyGivenNames v1)

theorem freezeMinute_mbx {s0 : State} (extra : MFlags) (at_ : Nat) (s : State) (h : KeepsMbx s0 s) :
    KeepsMbx s0 (freezeMinute extra at_ s) := by
  unfold freezeMinute
  repeat' first
    | (with_reducible assumption)
    | (with_reducible refine keepsMbx_of (u := updInst _ _) (updInst_only (ps := noMbx) _ _ (only_refl _ _) (by decide)) ?_)
    | (with_reducible refine keepsMbx_of (u := commitAges _) (commitAges_only (ps := noMbx) _ (only_refl _ _) (by decide)) ?_)
    | (with_reducible refine freezeSlips_mbx _ ?_)
    | (with_reducible refine keepsMbx_of (u := freezePlacement _) (freezePlacement_only (ps := noMbx) _ (only_refl _ _) (by decide)) ?_)
    | (intro)
    | (extract_lets +onlyGivenNames s1; refine keepsMbx_cut s1 ?_ ?_; unfold s1; clear s1; rotate_left; intro hs1; clear_value s1; rotate_right)
    | (extract_lets +onlyGivenNames k1; have _ck := fun x => (k1 x : State → State); clear _ck)
    | (extract_lets +onlyGivenNames k1; have _ck := fun x => (k1 x : State); clear _ck)
    | (extract_lets +onlyGivenNames v1)
    | (split)
    | (dsimp only [k1])

theorem minuteEnd_mbx {s0 : State} (cut : Bool) (s : State) (h : KeepsMbx s0 s) :
    KeepsMbx s0 (minuteEnd cut s) := by
  unfold minuteEnd
  repeat' first
    | (with_reducible assumption)
    | (with_reducible refine freezeMinute_mbx _ _ _ ?_)
    | (intro)
    | (split)

theorem passMinutes_mbx {s0 : State} (x0 : Nat) (x1 : Nat) (x2 : Nat) (s : State) (h : KeepsMbx s0 s) :
    KeepsMbx s0 (passMinutes x0 x1 x2 s) := by
  fun_induction passMinutes
  repeat' first
    | (with_reducible assumption)
    | (with_reducible refine keepsMbx_of (u := meterPassed _ _) (meterPassed_only (ps := noMbx) _ _ (only_refl _ _) (by decide)) ?_)
    | (with_reducible refine freezeMinute_mbx _ _ _ ?_)
    | (apply_assumption)
    | (intro)
    | (extract_lets +onlyGivenNames s1; refine keepsMbx_cut s1 ?_ ?_; unfold s1; clear s1; rotate_left; intro hs1; clear_value s1; rotate_right)
    | (extract_lets +onlyGivenNames v1)
    | (split)

theorem writeBatch_mbx {s0 : State} (g : Ring) (b : List MRec) (s : State) (h : KeepsMbx s0 s) :
    KeepsMbx s0 (writeBatch g b s) := by
  unfold writeBatch
  repeat' first
    | (with_reducible assumption)
    | (with_reducible refine keepsMbx_of (u := sends _ _) (sends_only (ps := noMbx) _ _ (only_refl _ _) (by decide)) ?_)
    | (with_reducible refine keepsMbx_of (u := updInst _ _) (updInst_only (ps := noMbx) _ _ (only_refl _ _) (by decide)) ?_)
    | (with_reducible refine boardWrite_mbx _ _ _ ?_)
    | (with_reducible refine keepsMbx_foldl _ _ _ ?_ ?_)
    | (intro)
    | (extract_lets +onlyGivenNames s1; refine keepsMbx_cut s1 ?_ ?_; unfold s1; clear s1; rotate_left; intro hs1; clear_value s1; rotate_right)
    | (extract_lets +onlyGivenNames v1)
    | (split)

theorem writeBatches_mbx {s0 : State} (cons : Nat) (x1 : Nat) (s : State) (h : KeepsMbx s0 s) :
    KeepsMbx s0 (writeBatches cons x1 s) := by
  fun_induction writeBatches
  repeat' first
    | (with_reducible assumption)
    | (with_reducible refine writeBatch_mbx _ _ _ ?_)
    | (apply_assumption)
    | (intro)
    | (split)

theorem tryBatches_mbx {s0 : State} (cons : Nat) (dmaOk : Bool) (s : State) (h : KeepsMbx s0 s) :
    KeepsMbx s0 (tryBatches cons dmaOk s) := by
  unfold tryBatches
  repeat' first
    | (with_reducible assumption)
    | (with_reducible refine keepsMbx_of (u := dropGone _) (dropGone_only (ps := noMbx) _ (only_refl _ _) (by decide)) ?_)
    | (with_reducible refine writeBatches_mbx _ _ _ ?_)
    | (with_reducible refine keepsMbx_of (u := recEvent _ _) (recEvent_only (ps := noMbx) _ _ (only_refl _ _) (by decide)) ?_)
    | (intro)
    | (split)

theorem batchWrite_mbx {s0 : State} (cons : Nat) (dmaOk : Bool) (s : State) (h : KeepsMbx s0 s) :
    KeepsMbx s0 (batchWrite cons dmaOk s) := by
  unfold batchWrite
  repeat' first
    | (with_reducible assumption)
    | (with_reducible refine tryBatches_mbx _ _ _ ?_)
    | (with_reducible refine keepsMbx_of (u := updInst _ _) (updInst_only (ps := noMbx) _ _ (only_refl _ _) (by decide)) ?_)
    | (intro)
    | (extract_lets +onlyGivenNames s1; refine keepsMbx_cut s1 ?_ ?_; unfold s1; clear s1; rotate_left; intro hs1; clear_value s1; rotate_right)
    | (extract_lets +onlyGivenNames v1)
    | (split)

theorem meterRetry_mbx {s0 : State} (cons : Nat) (dmaOk : Bool) (s : State) (h : KeepsMbx s0 s) :
    KeepsMbx s0 (meterRetry cons dmaOk s) := by
  unfold meterRetry
  repeat' first
    | (with_reducible assumption)
    | (with_reducible refine tryBatches_mbx _ _ _ ?_)
    | (with_reducible refine keepsMbx_of (u := updInst _ _) (updInst_only (ps := noMbx) _ _ (only_refl _ _) (by decide)) ?_)
    | (intro)
    | (extract_lets +onlyGivenNames s1; refine keepsMbx_cut s1 ?_ ?_; unfold s1; clear s1; rotate_left; intro hs1; clear_value s1; rotate_right)
    | (extract_lets +onlyGivenNames v1)
    | (split)

theorem ringSet_mbx {s0 : State} (r : Posted) (s : State) (h : KeepsMbx s0 s) :
    KeepsMbx s0 (ringSet r s) := by
  unfold ringSet
  repeat' first
    | (with_reducible assumption)
    | (with_reducible refine replyOk_mbx _ _ _ ?_)
    | (with_reducible refine keepsMbx_of (u := updInst _ _) (updInst_only (ps := noMbx) _ _ (only_refl _ _) (by decide)) ?_)
    | (intro)
    | (extract_lets +onlyGivenNames s1; refine keepsMbx_cut s1 ?_ ?_; unfold s1; clear s1; rotate_left; intro hs1; clear_value s1; rotate_right)
    | (extract_lets +onlyGivenNames v1)

theorem meterRead_mbx {s0 : State} (r : Posted) (s : State) (h : KeepsMbx s0 s) :
    KeepsMbx s0 (meterRead r s) := by
  unfold meterRead
  repeat' first
    | (with_reducible assumption)
    | (with_reducible refine replyRefused_mbx _ _ _ ?_)
    | (with_reducible refine replyOk_mbx _ _ _ ?_)
    | (intro)
    | (extract_lets +onlyGivenNames s1; refine keepsMbx_cut s1 ?_ ?_; unfold s1; clear s1; rotate_left; intro hs1; clear_value s1; rotate_right)
    | (extract_lets +onlyGivenNames v1)
    | (split)

end Sys2Proof.Machine
end

