-- ==== Sys2Proof/Laws/Mbx/Owner.lean ====
section
/-! SUPPORT. Operations of Machine/Owner.lean keep the mailbox within its bounds. -/

set_option linter.tactic.unusedName false

namespace Sys2Proof.Machine

theorem askReply_mbx {s0 : State} (a : Asker) (status : Nat) (words : List Nat) (s : State) (h : KeepsMbx s0 s) :
    KeepsMbx s0 (askReply a status words s) := by
  unfold askReply
  repeat' first
    | (with_reducible assumption)
    | (with_reducible refine reply_mbx _ _ _ _ ?_)
    | (with_reducible refine keepsMbx_of (u := ownerReply _ _ _) (ownerReply_only (ps := noMbx) _ _ _ (only_refl _ _) (by decide)) ?_)
    | (intro)
    | (split)

theorem askOk_mbx {s0 : State} (a : Asker) (words : List Nat) (s : State) (h : KeepsMbx s0 s) :
    KeepsMbx s0 (askOk a words s) := by
  unfold askOk
  repeat' first
    | (with_reducible assumption)
    | (with_reducible refine askReply_mbx _ _ _ _ ?_)
    | (intro)

theorem askRefused_mbx {s0 : State} (a : Asker) (reason : Nat) (s : State) (h : KeepsMbx s0 s) :
    KeepsMbx s0 (askRefused a reason s) := by
  unfold askRefused
  repeat' first
    | (with_reducible assumption)
    | (with_reducible refine askReply_mbx _ _ _ _ ?_)
    | (intro)

theorem askInvalid_mbx {s0 : State} (a : Asker) (i : Nat) (s : State) (h : KeepsMbx s0 s) :
    KeepsMbx s0 (askInvalid a i s) := by
  unfold askInvalid
  repeat' first
    | (with_reducible assumption)
    | (with_reducible refine askReply_mbx _ _ _ _ ?_)
    | (intro)

theorem askConflict_mbx {s0 : State} (a : Asker) (kind : Nat) (holder : Nat) (s : State) (h : KeepsMbx s0 s) :
    KeepsMbx s0 (askConflict a kind holder s) := by
  unfold askConflict
  repeat' first
    | (with_reducible assumption)
    | (with_reducible refine askReply_mbx _ _ _ _ ?_)
    | (intro)

theorem askAuth_mbx {s0 : State} (a : Asker) (s : State) (h : KeepsMbx s0 s) :
    KeepsMbx s0 (askAuth a s) := by
  unfold askAuth
  repeat' first
    | (with_reducible assumption)
    | (with_reducible refine askReply_mbx _ _ _ _ ?_)
    | (intro)

theorem askBusy_mbx {s0 : State} (a : Asker) (s : State) (h : KeepsMbx s0 s) :
    KeepsMbx s0 (askBusy a s) := by
  unfold askBusy
  repeat' first
    | (with_reducible assumption)
    | (with_reducible refine askReply_mbx _ _ _ _ ?_)
    | (intro)

theorem askPending_mbx {s0 : State} (a : Asker) (s : State) (h : KeepsMbx s0 s) :
    KeepsMbx s0 (askPending a s) := by
  unfold askPending
  repeat' first
    | (with_reducible assumption)
    | (with_reducible refine replyPending_mbx _ _ ?_)
    | (with_reducible refine keepsMbx_of (u := send _ _) (send_only (ps := noMbx) _ _ (only_refl _ _) (by decide)) ?_)
    | (intro)
    | (split)

theorem askFinal_mbx {s0 : State} (a : Asker) (status : Nat) (words : List Nat) (s : State) (h : KeepsMbx s0 s) :
    KeepsMbx s0 (askFinal a status words s) := by
  unfold askFinal
  repeat' first
    | (with_reducible assumption)
    | (with_reducible refine finalReply_mbx _ _ _ _ _ ?_)
    | (with_reducible refine keepsMbx_of (u := ownerLater _ _ _) (ownerLater_only (ps := noMbx) _ _ _ (only_refl _ _) (by decide)) ?_)
    | (intro)
    | (split)

theorem ownerWakes_mbx {s0 : State} (body : State → State) (s : State) (h : KeepsMbx s0 s) (hf0 : ∀ t, KeepsMbx s0 t → KeepsMbx s0 (body t)) :
    KeepsMbx s0 (ownerWakes body s) := by
  unfold ownerWakes
  repeat' first
    | (with_reducible assumption)
    | (with_reducible refine hf0 _ ?_)
    | (with_reducible refine keepsMbx_of (u := wake _) (wake_only (ps := noMbx) _ (only_refl _ _) (by decide)) ?_)
    | (intro)
    | (split)

theorem ownerQuiet_mbx {s0 : State} (l : Sideband) (body : State → State) (s : State) (h : KeepsMbx s0 s) (hf0 : ∀ t, KeepsMbx s0 t → KeepsMbx s0 (body t)) :
    KeepsMbx s0 (ownerQuiet l body s) := by
  unfold ownerQuiet
  repeat' first
    | (with_reducible assumption)
    | (with_reducible refine hf0 _ ?_)
    | (with_reducible refine keepsMbx_of (u := spdmUnsupported _) (spdmUnsupported_only (ps := noMbx) _ (only_refl _ _) (by decide)) ?_)
    | (intro)
    | (split)

theorem ownerRow_mbx {s0 : State} (l : Sideband) (body : State → State) (s : State) (h : KeepsMbx s0 s) (hf0 : ∀ t, KeepsMbx s0 t → KeepsMbx s0 (body t)) :
    KeepsMbx s0 (ownerRow l body s) := by
  unfold ownerRow
  repeat' first
    | (with_reducible assumption)
    | (with_reducible refine hf0 _ ?_)
    | (with_reducible refine ownerQuiet_mbx _ _ _ ?_ ?_)
    | (with_reducible refine ownerWakes_mbx _ _ ?_ ?_)
    | (intro)

theorem ownerClaimRow_mbx {s0 : State} (l : Sideband) (body : State → State) (s : State) (h : KeepsMbx s0 s) (hf0 : ∀ t, KeepsMbx s0 t → KeepsMbx s0 (body t)) :
    KeepsMbx s0 (ownerClaimRow l body s) := by
  unfold ownerClaimRow
  repeat' first
    | (with_reducible assumption)
    | (with_reducible refine hf0 _ ?_)
    | (with_reducible refine keepsMbx_of (u := spdmUnsupported _) (spdmUnsupported_only (ps := noMbx) _ (only_refl _ _) (by decide)) ?_)
    | (intro)
    | (split)

end Sys2Proof.Machine
end

