-- ==== Sys2Proof/Laws/Mbx/Recorder.lean ====
section
/-! SUPPORT. Operations of Machine/Recorder.lean keep the mailbox within its bounds. -/

set_option linter.tactic.unusedName false

namespace Sys2Proof.Machine

theorem closeRecord_mbx {s0 : State} (last : Nat) (mark : RFlags → RFlags) (s : State) (h : KeepsMbx s0 s) :
    KeepsMbx s0 (closeRecord last mark s) := by
  unfold closeRecord
  repeat' first
    | (with_reducible assumption)
    | (with_reducible refine boardWrite_mbx _ _ _ ?_)
    | (with_reducible refine keepsMbx_of (u := updMedia _ _) (updMedia_only (ps := noMbx) _ _ (only_refl _ _) (by decide)) ?_)
    | (with_reducible refine keepsMbx_of (u := updRecd _ _) (updRecd_only (ps := noMbx) _ _ (only_refl _ _) (by decide)) ?_)
    | (intro)
    | (extract_lets +onlyGivenNames s1; refine keepsMbx_cut s1 ?_ ?_; unfold s1; clear s1; rotate_left; intro hs1; clear_value s1; rotate_right)
    | (extract_lets +onlyGivenNames v1)

theorem periodEnd_mbx {s0 : State} (cut : Bool) (last : Nat) (s : State) (h : KeepsMbx s0 s) :
    KeepsMbx s0 (periodEnd cut last s) := by
  unfold periodEnd
  repeat' first
    | (with_reducible assumption)
    | (with_reducible refine keepsMbx_of (u := updRec _ _) (updRec_only (ps := noMbx) _ _ (only_refl _ _) (by decide)) ?_)
    | (with_reducible refine keepsMbx_of (u := openRecord _ _) (openRecord_only (ps := noMbx) _ _ (only_refl _ _) (by decide)) ?_)
    | (with_reducible refine closeRecord_mbx _ _ _ ?_)
    | (intro)
    | (split)

theorem passPeriods_mbx {s0 : State} (upto : Nat) (s : State) (h : KeepsMbx s0 s) :
    KeepsMbx s0 (passPeriods upto s) := by
  unfold passPeriods
  repeat' first
    | (with_reducible assumption)
    | (with_reducible refine keepsMbx_of (u := updRec _ _) (updRec_only (ps := noMbx) _ _ (only_refl _ _) (by decide)) ?_)
    | (with_reducible refine closeRecord_mbx _ _ _ ?_)
    | (with_reducible refine keepsMbx_of (u := openRecord _ _) (openRecord_only (ps := noMbx) _ _ (only_refl _ _) (by decide)) ?_)
    | (intro)
    | (extract_lets +onlyGivenNames s1; refine keepsMbx_cut s1 ?_ ?_; unfold s1; clear s1; rotate_left; intro hs1; clear_value s1; rotate_right)
    | (extract_lets +onlyGivenNames v1)
    | (split)

theorem descWriteFinal_mbx {s0 : State} (r : Posted) (dma : Dma) (out : List Byte) (x3 : State → State) (s : State) (h : KeepsMbx s0 s) (hf0 : ∀ t, KeepsMbx s0 t → KeepsMbx s0 (x3 t)) :
    KeepsMbx s0 (descWriteFinal r dma out x3 s) := by
  unfold descWriteFinal
  repeat' first
    | (with_reducible assumption)
    | (with_reducible refine hf0 _ ?_)
    | (with_reducible refine descDma_mbx _ _ _ _ _ _ ?_ ?_ ?_)
    | (with_reducible refine finalReply_mbx _ _ _ _ _ ?_)
    | (intro)

theorem recRead_mbx {s0 : State} (dma : Dma) (finds : List LineFind) (r : Posted) (s : State) (h : KeepsMbx s0 s) :
    KeepsMbx s0 (recRead dma finds r s) := by
  unfold recRead
  repeat' first
    | (with_reducible assumption)
    | (with_reducible refine keepsMbx_of (u := readLines _ _) (readLines_only (ps := noMbx) _ _ (only_refl _ _) (by decide)) ?_)
    | (refine keepsMbx_of (drawNat_only2 (ps := noMbx) (only_refl _ _) (by decide) (by assumption)) ?_)
    | (with_reducible refine keepsMbx_of (drawNat_only (ps := noMbx) (only_refl _ _) (by decide)) ?_)
    | (with_reducible refine descWriteFinal_mbx _ _ _ _ _ ?_ ?_)
    | (with_reducible refine finalReply_mbx _ _ _ _ _ ?_)
    | (with_reducible refine replyPending_mbx _ _ ?_)
    | (intro)
    | (extract_lets +onlyGivenNames s1; refine keepsMbx_cut s1 ?_ ?_; unfold s1; clear s1; rotate_left; intro hs1; clear_value s1; rotate_right)
    | (extract_lets +onlyGivenNames v1)
    | (split)

end Sys2Proof.Machine
end

