-- ==== Sys2Proof/Laws/Mbx/Boot.lean ====
section
/-! SUPPORT. Operations of Machine/Boot.lean keep the mailbox within its bounds. -/

set_option linter.tactic.unusedName false

namespace Sys2Proof.Machine

theorem endMinutes_mbx {s0 : State}  (s : State) (h : KeepsMbx s0 s) :
    KeepsMbx s0 (endMinutes s) := by
  unfold endMinutes
  repeat' first
    | (with_reducible assumption)
    | (with_reducible refine passMinutes_mbx _ _ _ _ ?_)
    | (with_reducible refine freezeMinute_mbx _ _ _ ?_)
    | (intro)
    | (extract_lets +onlyGivenNames s1; refine keepsMbx_cut s1 ?_ ?_; unfold s1; clear s1; rotate_left; intro hs1; clear_value s1; rotate_right)
    | (extract_lets +onlyGivenNames v1)
    | (split)

theorem endRecord_mbx {s0 : State}  (s : State) (h : KeepsMbx s0 s) :
    KeepsMbx s0 (endRecord s) := by
  unfold endRecord
  repeat' first
    | (with_reducible assumption)
    | (with_reducible refine keepsMbx_of (u := writeBuffer _) (writeBuffer_only (ps := noMbx) _ (only_refl _ _) (by decide)) ?_)
    | (with_reducible refine closeRecord_mbx _ _ _ ?_)
    | (intro)
    | (split)

theorem mailboxOk_reset : MailboxOk MbxSt.reset :=
  ⟨by decide, by decide, (by intro q e; cases e), by decide, (by intro p e; cases e)⟩

theorem wipeVolatile_mbx {s0 : State} (ok : List Nat) (s : State) (_ : KeepsMbx s0 s) :
    KeepsMbx s0 (wipeVolatile ok s) := ⟨fun _ => mailboxOk_reset⟩

theorem enterCellar_mbx {s0 : State} (cause : Nat) (s : State) (h : KeepsMbx s0 s) :
    KeepsMbx s0 (enterCellar cause s) := by
  unfold enterCellar
  repeat' first
    | (with_reducible assumption)
    | (with_reducible refine keepsMbx_of (u := updCtl _ _ _) (updCtl_only (ps := noMbx) _ _ _ (only_refl _ _) (by decide)) ?_)
    | (with_reducible refine cellarMailboxReset_mbx _ ?_)
    | (with_reducible refine keepsMbx_of (u := updFw _ _) (updFw_only (ps := noMbx) _ _ (only_refl _ _) (by decide)) ?_)
    | (with_reducible refine keepsMbx_of (u := updProt _ _) (updProt_only (ps := noMbx) _ _ (only_refl _ _) (by decide)) ?_)
    | (with_reducible refine keepsMbx_of (u := updPower _ _) (updPower_only (ps := noMbx) _ _ (only_refl _ _) (by decide)) ?_)
    | (with_reducible refine keepsMbx_of (u := updRec _ _) (updRec_only (ps := noMbx) _ _ (only_refl _ _) (by decide)) ?_)
    | (with_reducible refine keepsMbx_forEach _ _ _ ?_ ?_)
    | (intro)
    | (extract_lets +onlyGivenNames s1; refine keepsMbx_cut s1 ?_ ?_; unfold s1; clear s1; rotate_left; intro hs1; clear_value s1; rotate_right)
    | (extract_lets +onlyGivenNames k1; have _ck := fun x => (k1 x : State → State); clear _ck)
    | (extract_lets +onlyGivenNames k1; have _ck := fun x => (k1 x : State); clear _ck)
    | (extract_lets +onlyGivenNames v1)
    | (split)
    | (exact keepsMbx_mk rfl (by assumption))
    | (refine keepsMbx_inst _ ?_)
    | (refine keepsMbx_mgmt _ ?_)
    | (dsimp only [k1])

theorem tryImages_mbx {s0 : State} (found : BootFind) (x1 : Nat) (x2 : Nat) (s : State) (h : KeepsMbx s0 s) :
    KeepsMbx s0 (tryImages found x1 x2 s) := by
  fun_induction tryImages
  repeat' first
    | (with_reducible assumption)
    | (with_reducible refine enterCellar_mbx _ _ ?_)
    | (with_reducible refine keepsMbx_of (u := failCopy _ _ _) (failCopy_only (ps := noMbx) _ _ _ (only_refl _ _) (by decide)) ?_)
    | (with_reducible refine keepsMbx_of (u := bootMain _ _ _) (bootMain_only (ps := noMbx) _ _ _ (only_refl _ _) (by decide)) ?_)
    | (with_reducible refine keepsMbx_of (u := updPower _ _) (updPower_only (ps := noMbx) _ _ (only_refl _ _) (by decide)) ?_)
    | (with_reducible refine keepsMbx_of (u := updFw _ _) (updFw_only (ps := noMbx) _ _ (only_refl _ _) (by decide)) ?_)
    | (apply_assumption)
    | (intro)
    | (extract_lets +onlyGivenNames s1; refine keepsMbx_cut s1 ?_ ?_; unfold s1; clear s1; rotate_left; intro hs1; clear_value s1; rotate_right)
    | (extract_lets +onlyGivenNames v1)
    | (split)

theorem startImages_mbx {s0 : State} (found : BootFind) (s : State) (h : KeepsMbx s0 s) :
    KeepsMbx s0 (startImages found s) := by
  unfold startImages
  repeat' first
    | (with_reducible assumption)
    | (with_reducible refine tryImages_mbx _ _ _ _ ?_)
    | (intro)

theorem readyTimeout_mbx {s0 : State} (found : BootFind) (s : State) (h : KeepsMbx s0 s) :
    KeepsMbx s0 (readyTimeout found s) := by
  unfold readyTimeout
  repeat' first
    | (with_reducible assumption)
    | (with_reducible refine tryImages_mbx _ _ _ _ ?_)
    | (intro)
    | (extract_lets +onlyGivenNames s1; refine keepsMbx_cut s1 ?_ ?_; unfold s1; clear s1; rotate_left; intro hs1; clear_value s1; rotate_right)
    | (extract_lets +onlyGivenNames v1)
    | (split)

theorem startDevice_mbx {s0 : State} (found : BootFind) (s : State) (h : KeepsMbx s0 s) :
    KeepsMbx s0 (startDevice found s) := by
  unfold startDevice
  repeat' first
    | (with_reducible assumption)
    | (with_reducible refine enterCellar_mbx _ _ ?_)
    | (with_reducible refine startImages_mbx _ _ ?_)
    | (intro)
    | (extract_lets +onlyGivenNames s1; refine keepsMbx_cut s1 ?_ ?_; unfold s1; clear s1; rotate_left; intro hs1; clear_value s1; rotate_right)
    | (extract_lets +onlyGivenNames v1)
    | (split)
    | (refine keepsMbx_pins _ ?_)

theorem newBoot_mbx {s0 : State} (found : BootFind) (s : State) (h : KeepsMbx s0 s) :
    KeepsMbx s0 (newBoot found s) := by
  unfold newBoot
  repeat' first
    | (with_reducible assumption)
    | (with_reducible refine keepsMbx_of (u := takeTrip _) (takeTrip_only (ps := noMbx) _ (only_refl _ _) (by decide)) ?_)
    | (with_reducible refine endRecord_mbx _ ?_)
    | (with_reducible refine endMinutes_mbx _ ?_)
    | (with_reducible refine keepsMbx_of (u := updMedia _ _) (updMedia_only (ps := noMbx) _ _ (only_refl _ _) (by decide)) ?_)
    | (with_reducible refine keepsMbx_of (u := rebaseTables _ _ _) (rebaseTables_only (ps := noMbx) _ _ _ (only_refl _ _) (by decide)) ?_)
    | (with_reducible refine keepsMbx_of (u := readCalib _ _) (readCalib_only (ps := noMbx) _ _ (only_refl _ _) (by decide)) ?_)
    | (with_reducible refine keepsMbx_of (u := readRecord _ _) (readRecord_only (ps := noMbx) _ _ (only_refl _ _) (by decide)) ?_)
    | (with_reducible refine wipeVolatile_mbx _ _ ?_)
    | (with_reducible refine keepsMbx_of (u := recEvents _ _ _) (recEvents_only (ps := noMbx) _ _ _ (only_refl _ _) (by decide)) ?_)
    | (with_reducible refine keepsMbx_of (u := openRecord _ _) (openRecord_only (ps := noMbx) _ _ (only_refl _ _) (by decide)) ?_)
    | (intro)
    | (extract_lets +onlyGivenNames s1; refine keepsMbx_cut s1 ?_ ?_; unfold s1; clear s1; rotate_left; intro hs1; clear_value s1; rotate_right)
    | (extract_lets +onlyGivenNames v1)
    | (split)

theorem coldStart_mbx {s0 : State} (found : BootFind) (s : State) (h : KeepsMbx s0 s) :
    KeepsMbx s0 (coldStart found s) := by
  unfold coldStart
  repeat' first
    | (with_reducible assumption)
    | (with_reducible refine keepsMbx_of (u := permanentHold _) (permanentHold_only (ps := noMbx) _ (only_refl _ _) (by decide)) ?_)
    | (with_reducible refine newBoot_mbx _ _ ?_)
    | (with_reducible refine keepsMbx_of (u := startFlush _ _) (startFlush_only (ps := noMbx) _ _ (only_refl _ _) (by decide)) ?_)
    | (with_reducible refine startDevice_mbx _ _ ?_)
    | (intro)
    | (extract_lets +onlyGivenNames s1; refine keepsMbx_cut s1 ?_ ?_; unfold s1; clear s1; rotate_left; intro hs1; clear_value s1; rotate_right)
    | (extract_lets +onlyGivenNames v1)
    | (split)

theorem cellarEnter_mbx {s0 : State}  (s : State) (h : KeepsMbx s0 s) :
    KeepsMbx s0 (cellarEnter s) := by
  unfold cellarEnter
  repeat' first
    | (with_reducible assumption)
    | (with_reducible refine askRefused_mbx _ _ _ ?_)
    | (with_reducible refine keepsMbx_of (u := discardProposals _) (discardProposals_only (ps := noMbx) _ (only_refl _ _) (by decide)) ?_)
    | (with_reducible refine keepsMbx_of (u := dropWork _) (dropWork_only (ps := noMbx) _ (only_refl _ _) (by decide)) ?_)
    | (with_reducible refine keepsMbx_of (u := cellarFlush _) (cellarFlush_only (ps := noMbx) _ (only_refl _ _) (by decide)) ?_)
    | (with_reducible refine keepsMbx_of (u := updProt _ _) (updProt_only (ps := noMbx) _ _ (only_refl _ _) (by decide)) ?_)
    | (with_reducible refine keepsMbx_of (u := updFw _ _) (updFw_only (ps := noMbx) _ _ (only_refl _ _) (by decide)) ?_)
    | (with_reducible refine askOk_mbx _ _ _ ?_)
    | (with_reducible refine enterCellar_mbx _ _ ?_)
    | (intro)
    | (extract_lets +onlyGivenNames s1; refine keepsMbx_cut s1 ?_ ?_; unfold s1; clear s1; rotate_left; intro hs1; clear_value s1; rotate_right)
    | (extract_lets +onlyGivenNames v1)
    | (split)

theorem leaveCellar_mbx {s0 : State} (found : BootFind) (s : State) (h : KeepsMbx s0 s) :
    KeepsMbx s0 (leaveCellar found s) := by
  unfold leaveCellar
  repeat' first
    | (with_reducible assumption)
    | (with_reducible refine keepsMbx_of (u := updProt _ _) (updProt_only (ps := noMbx) _ _ (only_refl _ _) (by decide)) ?_)
    | (with_reducible refine keepsMbx_of (u := updFw _ _) (updFw_only (ps := noMbx) _ _ (only_refl _ _) (by decide)) ?_)
    | (with_reducible refine cellarMailboxReset_mbx _ ?_)
    | (with_reducible refine startImages_mbx _ _ ?_)
    | (with_reducible refine keepsMbx_of (u := updPower _ _) (updPower_only (ps := noMbx) _ _ (only_refl _ _) (by decide)) ?_)
    | (intro)
    | (extract_lets +onlyGivenNames s1; refine keepsMbx_cut s1 ?_ ?_; unfold s1; clear s1; rotate_left; intro hs1; clear_value s1; rotate_right)
    | (extract_lets +onlyGivenNames v1)
    | (split)

theorem cellarExit_mbx {s0 : State} (found : BootFind) (s : State) (h : KeepsMbx s0 s) :
    KeepsMbx s0 (cellarExit found s) := by
  unfold cellarExit
  repeat' first
    | (with_reducible assumption)
    | (refine keepsMbx_of (drawNat_only2 (ps := noMbx) (only_refl _ _) (by decide) (by assumption)) ?_)
    | (with_reducible refine keepsMbx_of (drawNat_only (ps := noMbx) (only_refl _ _) (by decide)) ?_)
    | (with_reducible refine askRefused_mbx _ _ _ ?_)
    | (with_reducible refine leaveCellar_mbx _ _ ?_)
    | (with_reducible refine askOk_mbx _ _ _ ?_)
    | (intro)
    | (extract_lets +onlyGivenNames s1; refine keepsMbx_cut s1 ?_ ?_; unfold s1; clear s1; rotate_left; intro hs1; clear_value s1; rotate_right)
    | (extract_lets +onlyGivenNames v1)
    | (split)

theorem cellarAutoExit_mbx {s0 : State} (found : BootFind) (s : State) (h : KeepsMbx s0 s) :
    KeepsMbx s0 (cellarAutoExit found s) := by
  unfold cellarAutoExit
  repeat' first
    | (with_reducible assumption)
    | (with_reducible refine leaveCellar_mbx _ _ ?_)
    | (intro)
    | (split)

end Sys2Proof.Machine
end

