-- ==== Sys2Proof/Laws/Mbx/Firmware.lean ====
section
/-! SUPPORT. Operations of Machine/Firmware.lean keep the mailbox within its bounds. -/

set_option linter.tactic.unusedName false

namespace Sys2Proof.Machine

theorem endStaging_mbx {s0 : State} (g : Staging) (checks : ImageChecks) (bad : State → State) (s : State) (h : KeepsMbx s0 s) (hf0 : ∀ t, KeepsMbx s0 t → KeepsMbx s0 (bad t)) :
    KeepsMbx s0 (endStaging g checks bad s) := by
  unfold endStaging
  repeat' first
    | (with_reducible assumption)
    | (with_reducible refine hf0 _ ?_)
    | (with_reducible refine keepsMbx_of (u := setOutcome _ _ _) (setOutcome_only (ps := noMbx) _ _ _ (only_refl _ _) (by decide)) ?_)
    | (with_reducible refine keepsMbx_of (u := stageFails _ _ _) (stageFails_only (ps := noMbx) _ _ _ (only_refl _ _) (by decide)) ?_)
    | (with_reducible refine keepsMbx_of (u := beginWrite _ _ _) (beginWrite_only (ps := noMbx) _ _ _ (only_refl _ _) (by decide)) ?_)
    | (intro)
    | (extract_lets +onlyGivenNames s1; refine keepsMbx_cut s1 ?_ ?_; unfold s1; clear s1; rotate_left; intro hs1; clear_value s1; rotate_right)
    | (extract_lets +onlyGivenNames v1)
    | (split)

theorem stageChunk_mbx {s0 : State} (a : Asker) (p : Path) (slot : Nat) (off : Nat) (b : List Byte) (last : Bool) (forward : Bool) (checks : ImageChecks) (s : State) (h : KeepsMbx s0 s) :
    KeepsMbx s0 (stageChunk a p slot off b last forward checks s) := by
  unfold stageChunk
  repeat' first
    | (with_reducible assumption)
    | (refine keepsMbx_of (takeChunk_only2 (ps := noMbx) _ _ _ _ _ (only_refl _ _) (by decide) (by assumption)) ?_)
    | (with_reducible refine keepsMbx_of (takeChunk_only (ps := noMbx) _ _ _ _ _ (only_refl _ _) (by decide)) ?_)
    | (with_reducible refine askOk_mbx _ _ _ ?_)
    | (with_reducible refine endStaging_mbx _ _ _ _ ?_ ?_)
    | (with_reducible refine askFinal_mbx _ _ _ _ ?_)
    | (with_reducible refine askPending_mbx _ _ ?_)
    | (intro)
    | (extract_lets +onlyGivenNames s1; refine keepsMbx_cut s1 ?_ ?_; unfold s1; clear s1; rotate_left; intro hs1; clear_value s1; rotate_right)
    | (extract_lets +onlyGivenNames v1)
    | (split)

theorem fwStageScp_mbx {s0 : State} (dma : Dma) (checks : ImageChecks) (r : Posted) (s : State) (h : KeepsMbx s0 s) :
    KeepsMbx s0 (fwStageScp dma checks r s) := by
  unfold fwStageScp
  repeat' first
    | (with_reducible assumption)
    | (with_reducible refine replyInvalid_mbx _ _ _ ?_)
    | (with_reducible refine replyRefused_mbx _ _ _ ?_)
    | (with_reducible refine keepsMbx_of (u := noteReason _ _) (noteReason_only (ps := noMbx) _ _ (only_refl _ _) (by decide)) ?_)
    | (with_reducible refine descRead_mbx _ _ _ _ ?_ ?_)
    | (with_reducible refine stageChunk_mbx _ _ _ _ _ _ _ _ _ ?_)
    | (intro)
    | (extract_lets +onlyGivenNames s1; refine keepsMbx_cut s1 ?_ ?_; unfold s1; clear s1; rotate_left; intro hs1; clear_value s1; rotate_right)
    | (extract_lets +onlyGivenNames v1)
    | (split)

theorem fwStageOwner_mbx {s0 : State} (payload : List Byte) (checks : ImageChecks) (s : State) (h : KeepsMbx s0 s) :
    KeepsMbx s0 (fwStageOwner payload checks s) := by
  unfold fwStageOwner
  repeat' first
    | (with_reducible assumption)
    | (with_reducible refine askInvalid_mbx _ _ _ ?_)
    | (with_reducible refine askRefused_mbx _ _ _ ?_)
    | (with_reducible refine keepsMbx_of (u := noteReason _ _) (noteReason_only (ps := noMbx) _ _ (only_refl _ _) (by decide)) ?_)
    | (with_reducible refine stageChunk_mbx _ _ _ _ _ _ _ _ _ ?_)
    | (intro)
    | (extract_lets +onlyGivenNames s1; refine keepsMbx_cut s1 ?_ ?_; unfold s1; clear s1; rotate_left; intro hs1; clear_value s1; rotate_right)
    | (extract_lets +onlyGivenNames v1)
    | (split)

theorem stagedReply_mbx {s0 : State} (g : Staging) (i : Image) (s : State) (h : KeepsMbx s0 s) :
    KeepsMbx s0 (stagedReply g i s) := by
  unfold stagedReply
  repeat' first
    | (with_reducible assumption)
    | (with_reducible refine finalReply_mbx _ _ _ _ _ ?_)
    | (with_reducible refine keepsMbx_of (u := ownerLater _ _ _) (ownerLater_only (ps := noMbx) _ _ _ (only_refl _ _) (by decide)) ?_)
    | (with_reducible refine keepsMbx_of (u := finishOk _ _) (finishOk_only (ps := noMbx) _ _ (only_refl _ _) (by decide)) ?_)
    | (intro)
    | (split)

theorem stageWritten_mbx {s0 : State}  (s : State) (h : KeepsMbx s0 s) :
    KeepsMbx s0 (stageWritten s) := by
  unfold stageWritten
  repeat' first
    | (with_reducible assumption)
    | (with_reducible refine keepsMbx_of (u := updSlotAt _ _ _) (updSlotAt_only (ps := noMbx) _ _ _ (only_refl _ _) (by decide)) ?_)
    | (with_reducible refine keepsMbx_of (u := updFw _ _) (updFw_only (ps := noMbx) _ _ (only_refl _ _) (by decide)) ?_)
    | (with_reducible refine keepsMbx_of (u := writeCfg _ _) (writeCfg_only (ps := noMbx) _ _ (only_refl _ _) (by decide)) ?_)
    | (with_reducible refine stagedReply_mbx _ _ _ ?_)
    | (with_reducible refine keepsMbx_of (u := setOutcome _ _ _) (setOutcome_only (ps := noMbx) _ _ _ (only_refl _ _) (by decide)) ?_)
    | (intro)
    | (extract_lets +onlyGivenNames s1; refine keepsMbx_cut s1 ?_ ?_; unfold s1; clear s1; rotate_left; intro hs1; clear_value s1; rotate_right)
    | (extract_lets +onlyGivenNames v1)
    | (split)

theorem dropSched_mbx {s0 : State} (reason : Nat) (s : State) (h : KeepsMbx s0 s) :
    KeepsMbx s0 (dropSched reason s) := by
  unfold dropSched
  repeat' first
    | (with_reducible assumption)
    | (with_reducible refine keepsMbx_of (u := updFw _ _) (updFw_only (ps := noMbx) _ _ (only_refl _ _) (by decide)) ?_)
    | (with_reducible refine finalReply_mbx _ _ _ _ _ ?_)
    | (with_reducible refine keepsMbx_of (u := finishBad _ _ _) (finishBad_only (ps := noMbx) _ _ _ (only_refl _ _) (by decide)) ?_)
    | (intro)
    | (extract_lets +onlyGivenNames s1; refine keepsMbx_cut s1 ?_ ?_; unfold s1; clear s1; rotate_left; intro hs1; clear_value s1; rotate_right)
    | (extract_lets +onlyGivenNames v1)
    | (split)

theorem takeSched_mbx {s0 : State} (c : Sched) (s : State) (h : KeepsMbx s0 s) :
    KeepsMbx s0 (takeSched c s) := by
  unfold takeSched
  repeat' first
    | (with_reducible assumption)
    | (with_reducible refine keepsMbx_of (u := updFw _ _) (updFw_only (ps := noMbx) _ _ (only_refl _ _) (by decide)) ?_)
    | (with_reducible refine dropSched_mbx _ _ ?_)
    | (intro)

theorem fwSchedule_mbx {s0 : State} (copyOk : Bool) (r : Posted) (s : State) (h : KeepsMbx s0 s) :
    KeepsMbx s0 (fwSchedule copyOk r s) := by
  unfold fwSchedule
  repeat' first
    | (with_reducible assumption)
    | (with_reducible refine replyInvalid_mbx _ _ _ ?_)
    | (with_reducible refine replyRefused_mbx _ _ _ ?_)
    | (with_reducible refine keepsMbx_of (u := noteReason _ _) (noteReason_only (ps := noMbx) _ _ (only_refl _ _) (by decide)) ?_)
    | (with_reducible refine replyPending_mbx _ _ ?_)
    | (with_reducible refine keepsMbx_of (u := forwardMsg _ _) (forwardMsg_only (ps := noMbx) _ _ (only_refl _ _) (by decide)) ?_)
    | (with_reducible refine finalReply_mbx _ _ _ _ _ ?_)
    | (with_reducible refine takeSched_mbx _ _ ?_)
    | (with_reducible refine keepsMbx_when _ _ ?_ ?_)
    | (intro)
    | (extract_lets +onlyGivenNames s1; refine keepsMbx_cut s1 ?_ ?_; unfold s1; clear s1; rotate_left; intro hs1; clear_value s1; rotate_right)
    | (extract_lets +onlyGivenNames v1)
    | (split)

theorem commitActivate_mbx {s0 : State} (copyOk : Bool) (it : Item) (s : State) (h : KeepsMbx s0 s) :
    KeepsMbx s0 (commitActivate copyOk it s) := by
  unfold commitActivate
  repeat' first
    | (with_reducible assumption)
    | (with_reducible refine keepsMbx_of (u := finishBad _ _ _) (finishBad_only (ps := noMbx) _ _ _ (only_refl _ _) (by decide)) ?_)
    | (with_reducible refine keepsMbx_of (u := noteReason _ _) (noteReason_only (ps := noMbx) _ _ (only_refl _ _) (by decide)) ?_)
    | (with_reducible refine takeSched_mbx _ _ ?_)
    | (intro)
    | (extract_lets +onlyGivenNames s1; refine keepsMbx_cut s1 ?_ ?_; unfold s1; clear s1; rotate_left; intro hs1; clear_value s1; rotate_right)
    | (extract_lets +onlyGivenNames v1)
    | (split)

theorem prepareDone_mbx {s0 : State}  (s : State) (h : KeepsMbx s0 s) :
    KeepsMbx s0 (prepareDone s) := by
  unfold prepareDone
  repeat' first
    | (with_reducible assumption)
    | (with_reducible refine keepsMbx_of (u := updSlotAt _ _ _) (updSlotAt_only (ps := noMbx) _ _ _ (only_refl _ _) (by decide)) ?_)
    | (with_reducible refine keepsMbx_of (u := updFw _ _) (updFw_only (ps := noMbx) _ _ (only_refl _ _) (by decide)) ?_)
    | (with_reducible refine keepsMbx_of (u := setOutcome _ _ _) (setOutcome_only (ps := noMbx) _ _ _ (only_refl _ _) (by decide)) ?_)
    | (with_reducible refine finalReply_mbx _ _ _ _ _ ?_)
    | (with_reducible refine keepsMbx_when _ _ ?_ ?_)
    | (intro)
    | (extract_lets +onlyGivenNames s1; refine keepsMbx_cut s1 ?_ ?_; unfold s1; clear s1; rotate_left; intro hs1; clear_value s1; rotate_right)
    | (extract_lets +onlyGivenNames v1)
    | (split)

theorem cancelSched_mbx {s0 : State} (reason : Nat) (s : State) (h : KeepsMbx s0 s) :
    KeepsMbx s0 (cancelSched reason s) := by
  unfold cancelSched
  repeat' first
    | (with_reducible assumption)
    | (with_reducible refine keepsMbx_of (u := updFw _ _) (updFw_only (ps := noMbx) _ _ (only_refl _ _) (by decide)) ?_)
    | (with_reducible refine dropSched_mbx _ _ ?_)
    | (intro)
    | (split)

theorem fwCancel_mbx {s0 : State} (r : Posted) (s : State) (h : KeepsMbx s0 s) :
    KeepsMbx s0 (fwCancel r s) := by
  unfold fwCancel
  repeat' first
    | (with_reducible assumption)
    | (with_reducible refine replyRefused_mbx _ _ _ ?_)
    | (with_reducible refine keepsMbx_of (u := noteReason _ _) (noteReason_only (ps := noMbx) _ _ (only_refl _ _) (by decide)) ?_)
    | (with_reducible refine keepsMbx_of (u := forwardMsg _ _) (forwardMsg_only (ps := noMbx) _ _ (only_refl _ _) (by decide)) ?_)
    | (with_reducible refine replyOk_mbx _ _ _ ?_)
    | (with_reducible refine cancelSched_mbx _ _ ?_)
    | (with_reducible refine keepsMbx_when _ _ ?_ ?_)
    | (intro)
    | (extract_lets +onlyGivenNames s1; refine keepsMbx_cut s1 ?_ ?_; unfold s1; clear s1; rotate_left; intro hs1; clear_value s1; rotate_right)
    | (extract_lets +onlyGivenNames v1)
    | (split)

theorem startActivation_mbx {s0 : State}  (s : State) (h : KeepsMbx s0 s) :
    KeepsMbx s0 (startActivation s) := by
  unfold startActivation
  repeat' first
    | (with_reducible assumption)
    | (with_reducible refine keepsMbx_of (u := updFw _ _) (updFw_only (ps := noMbx) _ _ (only_refl _ _) (by decide)) ?_)
    | (with_reducible refine dropSched_mbx _ _ ?_)
    | (with_reducible refine keepsMbx_of (u := noteReason _ _) (noteReason_only (ps := noMbx) _ _ (only_refl _ _) (by decide)) ?_)
    | (with_reducible refine keepsMbx_of (u := setOutcome _ _ _) (setOutcome_only (ps := noMbx) _ _ _ (only_refl _ _) (by decide)) ?_)
    | (with_reducible refine keepsMbx_of (u := holdPorch _) (holdPorch_only (ps := noMbx) _ (only_refl _ _) (by decide)) ?_)
    | (with_reducible refine keepsMbx_of (u := notifyActivation _ _) (notifyActivation_only (ps := noMbx) _ _ (only_refl _ _) (by decide)) ?_)
    | (with_reducible refine keepsMbx_forEach _ _ _ ?_ ?_)
    | (intro)
    | (extract_lets +onlyGivenNames s1; refine keepsMbx_cut s1 ?_ ?_; unfold s1; clear s1; rotate_left; intro hs1; clear_value s1; rotate_right)
    | (extract_lets +onlyGivenNames v1)
    | (split)

theorem finishHold_mbx {s0 : State}  (s : State) (h : KeepsMbx s0 s) :
    KeepsMbx s0 (finishHold s) := by
  unfold finishHold
  repeat' first
    | (with_reducible assumption)
    | (with_reducible refine keepsMbx_of (u := updFw _ _) (updFw_only (ps := noMbx) _ _ (only_refl _ _) (by decide)) ?_)
    | (with_reducible refine keepsMbx_of (u := holdEnds _ _) (holdEnds_only (ps := noMbx) _ _ (only_refl _ _) (by decide)) ?_)
    | (with_reducible refine keepsMbx_of (u := recEvent _ _) (recEvent_only (ps := noMbx) _ _ (only_refl _ _) (by decide)) ?_)
    | (with_reducible refine keepsMbx_of (u := releaseHeld _) (releaseHeld_only (ps := noMbx) _ (only_refl _ _) (by decide)) ?_)
    | (with_reducible refine keepsMbx_of (u := writeCfg _ _) (writeCfg_only (ps := noMbx) _ _ (only_refl _ _) (by decide)) ?_)
    | (with_reducible refine keepsMbx_of (u := setOutcome _ _ _) (setOutcome_only (ps := noMbx) _ _ _ (only_refl _ _) (by decide)) ?_)
    | (with_reducible refine reopen_mbx _ ?_)
    | (with_reducible refine keepsMbx_of (u := finishOk _ _) (finishOk_only (ps := noMbx) _ _ (only_refl _ _) (by decide)) ?_)
    | (intro)
    | (extract_lets +onlyGivenNames s1; refine keepsMbx_cut s1 ?_ ?_; unfold s1; clear s1; rotate_left; intro hs1; clear_value s1; rotate_right)
    | (extract_lets +onlyGivenNames v1; clear_value v1)
    | (extract_lets +onlyGivenNames v1)
    | (split)

theorem holdExpiry_mbx {s0 : State}  (s : State) (h : KeepsMbx s0 s) :
    KeepsMbx s0 (holdExpiry s) := by
  unfold holdExpiry
  repeat' first
    | (with_reducible assumption)
    | (with_reducible refine keepsMbx_of (u := failItem _ _ _) (failItem_only (ps := noMbx) _ _ _ (only_refl _ _) (by decide)) ?_)
    | (with_reducible refine keepsMbx_of (u := finishBad _ _ _) (finishBad_only (ps := noMbx) _ _ _ (only_refl _ _) (by decide)) ?_)
    | (refine keepsMbx_of (drawNat_only2 (ps := noMbx) (only_refl _ _) (by decide) (by assumption)) ?_)
    | (with_reducible refine keepsMbx_of (drawNat_only (ps := noMbx) (only_refl _ _) (by decide)) ?_)
    | (with_reducible refine keepsMbx_of (u := updFw _ _) (updFw_only (ps := noMbx) _ _ (only_refl _ _) (by decide)) ?_)
    | (with_reducible refine keepsMbx_of (u := holdEnds _ _) (holdEnds_only (ps := noMbx) _ _ (only_refl _ _) (by decide)) ?_)
    | (with_reducible refine keepsMbx_of (u := updSlotAt _ _ _) (updSlotAt_only (ps := noMbx) _ _ _ (only_refl _ _) (by decide)) ?_)
    | (with_reducible refine reopen_mbx _ ?_)
    | (with_reducible refine keepsMbx_of (u := mgmtRestart _) (mgmtRestart_only (ps := noMbx) _ (only_refl _ _) (by decide)) ?_)
    | (with_reducible refine keepsMbx_of (u := recEvent _ _) (recEvent_only (ps := noMbx) _ _ (only_refl _ _) (by decide)) ?_)
    | (with_reducible refine keepsMbx_of (u := setOutcome _ _ _) (setOutcome_only (ps := noMbx) _ _ _ (only_refl _ _) (by decide)) ?_)
    | (with_reducible refine keepsMbx_of (u := releaseHeld _) (releaseHeld_only (ps := noMbx) _ (only_refl _ _) (by decide)) ?_)
    | (with_reducible refine keepsMbx_forEach _ _ _ ?_ ?_)
    | (intro)
    | (extract_lets +onlyGivenNames s1; refine keepsMbx_cut s1 ?_ ?_; unfold s1; clear s1; rotate_left; intro hs1; clear_value s1; rotate_right)
    | (extract_lets +onlyGivenNames v1)
    | (split)

theorem scheduleArrival_mbx {s0 : State} (imageId : Word) (x1 : Nat) (s : State) (h : KeepsMbx s0 s) :
    KeepsMbx s0 (scheduleArrival imageId x1 s) := by
  unfold scheduleArrival
  repeat' first
    | (with_reducible assumption)
    | (with_reducible refine keepsMbx_of (u := corrRefuse _ _) (corrRefuse_only (ps := noMbx) _ _ (only_refl _ _) (by decide)) ?_)
    | (with_reducible refine keepsMbx_of (u := forwardMsg _ _) (forwardMsg_only (ps := noMbx) _ _ (only_refl _ _) (by decide)) ?_)
    | (with_reducible refine keepsMbx_of (u := setOutcome _ _ _) (setOutcome_only (ps := noMbx) _ _ _ (only_refl _ _) (by decide)) ?_)
    | (with_reducible refine keepsMbx_of (u := noteReason _ _) (noteReason_only (ps := noMbx) _ _ (only_refl _ _) (by decide)) ?_)
    | (with_reducible refine takeSched_mbx _ _ ?_)
    | (intro)
    | (extract_lets +onlyGivenNames s1; refine keepsMbx_cut s1 ?_ ?_; unfold s1; clear s1; rotate_left; intro hs1; clear_value s1; rotate_right)
    | (extract_lets +onlyGivenNames v1)
    | (split)

theorem cancelArrival_mbx {s0 : State}  (s : State) (h : KeepsMbx s0 s) :
    KeepsMbx s0 (cancelArrival s) := by
  unfold cancelArrival
  repeat' first
    | (with_reducible assumption)
    | (with_reducible refine keepsMbx_of (u := forwardMsg _ _) (forwardMsg_only (ps := noMbx) _ _ (only_refl _ _) (by decide)) ?_)
    | (with_reducible refine keepsMbx_of (u := setOutcome _ _ _) (setOutcome_only (ps := noMbx) _ _ _ (only_refl _ _) (by decide)) ?_)
    | (with_reducible refine keepsMbx_of (u := noteReason _ _) (noteReason_only (ps := noMbx) _ _ (only_refl _ _) (by decide)) ?_)
    | (with_reducible refine cancelSched_mbx _ _ ?_)
    | (intro)
    | (extract_lets +onlyGivenNames s1; refine keepsMbx_cut s1 ?_ ?_; unfold s1; clear s1; rotate_left; intro hs1; clear_value s1; rotate_right)
    | (extract_lets +onlyGivenNames v1)
    | (split)

end Sys2Proof.Machine
end

