-- ==== Sys2Proof/Laws/Mbx/Protect.lean ====
section
/-! SUPPORT. Operations of Machine/Protect.lean keep the mailbox within its bounds. -/

set_option linter.tactic.unusedName false

namespace Sys2Proof.Machine

theorem propose_mbx {s0 : State} (a : Asker) (by_ : Party) (c : Change) (key : Option (BitVec 512)) (s : State) (h : KeepsMbx s0 s) :
    KeepsMbx s0 (propose a by_ c key s) := by
  unfold propose
  repeat' first
    | (with_reducible assumption)
    | (with_reducible refine keepsMbx_of (u := expireProposal _ _) (expireProposal_only (ps := noMbx) _ _ (only_refl _ _) (by decide)) ?_)
    | (with_reducible refine askRefused_mbx _ _ _ ?_)
    | (with_reducible refine askInvalid_mbx _ _ _ ?_)
    | (with_reducible refine askConflict_mbx _ _ _ _ ?_)
    | (with_reducible refine askBusy_mbx _ _ ?_)
    | (with_reducible refine askPending_mbx _ _ ?_)
    | (refine keepsMbx_of (drawRandom_only2 (ps := noMbx) (only_refl _ _) (by decide) (by assumption)) ?_)
    | (with_reducible refine keepsMbx_of (drawRandom_only (ps := noMbx) (only_refl _ _) (by decide)) ?_)
    | (with_reducible refine keepsMbx_of (u := updProt _ _) (updProt_only (ps := noMbx) _ _ (only_refl _ _) (by decide)) ?_)
    | (with_reducible refine askFinal_mbx _ _ _ _ ?_)
    | (intro)
    | (extract_lets +onlyGivenNames s1; refine keepsMbx_cut s1 ?_ ?_; unfold s1; clear s1; rotate_left; intro hs1; clear_value s1; rotate_right)
    | (extract_lets +onlyGivenNames v1)
    | (split)

theorem confirm_mbx {s0 : State} (a : Asker) (by_ : Party) (cls : Nat) (d : BitVec 384) (s : State) (h : KeepsMbx s0 s) :
    KeepsMbx s0 (confirm a by_ cls d s) := by
  unfold confirm
  repeat' first
    | (with_reducible assumption)
    | (with_reducible refine keepsMbx_of (u := expireProposal _ _) (expireProposal_only (ps := noMbx) _ _ (only_refl _ _) (by decide)) ?_)
    | (with_reducible refine askRefused_mbx _ _ _ ?_)
    | (with_reducible refine askInvalid_mbx _ _ _ ?_)
    | (with_reducible refine askAuth_mbx _ _ ?_)
    | (with_reducible refine keepsMbx_of (u := authFail _ _ _) (authFail_only (ps := noMbx) _ _ _ (only_refl _ _) (by decide)) ?_)
    | (with_reducible refine keepsMbx_of (u := acceptConfirm _ _ _ _ _) (acceptConfirm_only (ps := noMbx) _ _ _ _ _ (only_refl _ _) (by decide)) ?_)
    | (with_reducible refine askPending_mbx _ _ ?_)
    | (with_reducible refine keepsMbx_of (u := noteTie _ _ _) (noteTie_only (ps := noMbx) _ _ _ (only_refl _ _) (by decide)) ?_)
    | (intro)
    | (extract_lets +onlyGivenNames s1; refine keepsMbx_cut s1 ?_ ?_; unfold s1; clear s1; rotate_left; intro hs1; clear_value s1; rotate_right)
    | (extract_lets +onlyGivenNames v1)
    | (split)

theorem withdraw_mbx {s0 : State} (a : Asker) (by_ : Party) (cls : Nat) (s : State) (h : KeepsMbx s0 s) :
    KeepsMbx s0 (withdraw a by_ cls s) := by
  unfold withdraw
  repeat' first
    | (with_reducible assumption)
    | (with_reducible refine keepsMbx_of (u := expireProposal _ _) (expireProposal_only (ps := noMbx) _ _ (only_refl _ _) (by decide)) ?_)
    | (with_reducible refine askRefused_mbx _ _ _ ?_)
    | (with_reducible refine askInvalid_mbx _ _ _ ?_)
    | (with_reducible refine askOk_mbx _ _ _ ?_)
    | (with_reducible refine keepsMbx_of (u := endProposal _ _ _) (endProposal_only (ps := noMbx) _ _ _ (only_refl _ _) (by decide)) ?_)
    | (intro)
    | (extract_lets +onlyGivenNames s1; refine keepsMbx_cut s1 ?_ ?_; unfold s1; clear s1; rotate_left; intro hs1; clear_value s1; rotate_right)
    | (extract_lets +onlyGivenNames v1)
    | (split)

theorem applyChange_mbx {s0 : State} (p : Proposal) (s : State) (h : KeepsMbx s0 s) :
    KeepsMbx s0 (applyChange p s) := by
  unfold applyChange
  repeat' first
    | (with_reducible assumption)
    | (with_reducible refine keepsMbx_of (u := setIsolation _ _ _) (setIsolation_only (ps := noMbx) _ _ _ (only_refl _ _) (by decide)) ?_)
    | (with_reducible refine keepsMbx_of (u := updProt _ _) (updProt_only (ps := noMbx) _ _ (only_refl _ _) (by decide)) ?_)
    | (with_reducible refine keepsMbx_of (u := emptySlot _ _) (emptySlot_only (ps := noMbx) _ _ (only_refl _ _) (by decide)) ?_)
    | (with_reducible refine cancelSched_mbx _ _ ?_)
    | (intro)
    | (extract_lets +onlyGivenNames s1; refine keepsMbx_cut s1 ?_ ?_; unfold s1; clear s1; rotate_left; intro hs1; clear_value s1; rotate_right)
    | (extract_lets +onlyGivenNames v1)
    | (split)

theorem confirmReply_mbx {s0 : State} (k : Confirmed) (status : Nat) (words : List Nat) (s : State) (h : KeepsMbx s0 s) :
    KeepsMbx s0 (confirmReply k status words s) := by
  unfold confirmReply
  repeat' first
    | (with_reducible assumption)
    | (with_reducible refine finalReply_mbx _ _ _ _ _ ?_)
    | (with_reducible refine keepsMbx_of (u := ownerLater _ _ _) (ownerLater_only (ps := noMbx) _ _ _ (only_refl _ _) (by decide)) ?_)
    | (intro)
    | (split)

theorem applyOne_mbx {s0 : State} (k : Confirmed) (s : State) (h : KeepsMbx s0 s) :
    KeepsMbx s0 (applyOne k s) := by
  unfold applyOne
  repeat' first
    | (with_reducible assumption)
    | (with_reducible refine keepsMbx_of (u := updProt _ _) (updProt_only (ps := noMbx) _ _ (only_refl _ _) (by decide)) ?_)
    | (with_reducible refine confirmReply_mbx _ _ _ _ ?_)
    | (with_reducible refine applyChange_mbx _ _ ?_)
    | (intro)
    | (extract_lets +onlyGivenNames s1; refine keepsMbx_cut s1 ?_ ?_; unfold s1; clear s1; rotate_left; intro hs1; clear_value s1; rotate_right)
    | (extract_lets +onlyGivenNames k1; have _ck := fun x => (k1 x : State → State); clear _ck)
    | (extract_lets +onlyGivenNames k1; have _ck := fun x => (k1 x : State); clear _ck)
    | (extract_lets +onlyGivenNames v1)
    | (split)
    | (dsimp only [k1])

theorem applyProtection_mbx {s0 : State}  (s : State) (h : KeepsMbx s0 s) :
    KeepsMbx s0 (applyProtection s) := by
  unfold applyProtection
  repeat' first
    | (with_reducible assumption)
    | (with_reducible refine keepsMbx_of (u := updProt _ _) (updProt_only (ps := noMbx) _ _ (only_refl _ _) (by decide)) ?_)
    | (with_reducible refine applyOne_mbx _ _ ?_)
    | (with_reducible refine keepsMbx_forEach _ _ _ ?_ ?_)
    | (intro)
    | (extract_lets +onlyGivenNames s1; refine keepsMbx_cut s1 ?_ ?_; unfold s1; clear s1; rotate_left; intro hs1; clear_value s1; rotate_right)
    | (extract_lets +onlyGivenNames v1)

theorem claimBegin_mbx {s0 : State}  (s : State) (h : KeepsMbx s0 s) :
    KeepsMbx s0 (claimBegin s) := by
  unfold claimBegin
  repeat' first
    | (with_reducible assumption)
    | (with_reducible refine askRefused_mbx _ _ _ ?_)
    | (with_reducible refine askBusy_mbx _ _ ?_)
    | (refine keepsMbx_of (drawRandom_only2 (ps := noMbx) (only_refl _ _) (by decide) (by assumption)) ?_)
    | (with_reducible refine keepsMbx_of (drawRandom_only (ps := noMbx) (only_refl _ _) (by decide)) ?_)
    | (with_reducible refine keepsMbx_of (u := send _ _) (send_only (ps := noMbx) _ _ (only_refl _ _) (by decide)) ?_)
    | (with_reducible refine keepsMbx_of (u := updProt _ _) (updProt_only (ps := noMbx) _ _ (only_refl _ _) (by decide)) ?_)
    | (intro)
    | (extract_lets +onlyGivenNames s1; refine keepsMbx_cut s1 ?_ ?_; unfold s1; clear s1; rotate_left; intro hs1; clear_value s1; rotate_right)
    | (extract_lets +onlyGivenNames v1)
    | (split)

theorem claimFinish_mbx {s0 : State} (strap : Bool) (key : BitVec 768) (good : Bool) (s : State) (h : KeepsMbx s0 s) :
    KeepsMbx s0 (claimFinish strap key good s) := by
  unfold claimFinish
  repeat' first
    | (with_reducible assumption)
    | (with_reducible refine keepsMbx_of (u := expireClaim _) (expireClaim_only (ps := noMbx) _ (only_refl _ _) (by decide)) ?_)
    | (with_reducible refine askRefused_mbx _ _ _ ?_)
    | (with_reducible refine keepsMbx_of (u := noteTie _ _ _) (noteTie_only (ps := noMbx) _ _ _ (only_refl _ _) (by decide)) ?_)
    | (with_reducible refine keepsMbx_of (u := updProt _ _) (updProt_only (ps := noMbx) _ _ (only_refl _ _) (by decide)) ?_)
    | (with_reducible refine askInvalid_mbx _ _ _ ?_)
    | (with_reducible refine askAuth_mbx _ _ ?_)
    | (with_reducible refine askOk_mbx _ _ _ ?_)
    | (intro)
    | (extract_lets +onlyGivenNames s1; refine keepsMbx_cut s1 ?_ ?_; unfold s1; clear s1; rotate_left; intro hs1; clear_value s1; rotate_right)
    | (extract_lets +onlyGivenNames v1)
    | (split)
    | (refine keepsMbx_pins _ ?_)

theorem releaseOwner_mbx {s0 : State}  (s : State) (h : KeepsMbx s0 s) :
    KeepsMbx s0 (releaseOwner s) := by
  unfold releaseOwner
  repeat' first
    | (with_reducible assumption)
    | (with_reducible refine askRefused_mbx _ _ _ ?_)
    | (with_reducible refine askOk_mbx _ _ _ ?_)
    | (with_reducible refine keepsMbx_of (u := updProt _ _) (updProt_only (ps := noMbx) _ _ (only_refl _ _) (by decide)) ?_)
    | (with_reducible refine keepsMbx_of (u := discardProposals _) (discardProposals_only (ps := noMbx) _ (only_refl _ _) (by decide)) ?_)
    | (intro)
    | (split)

theorem ownerRequest_mbx {s0 : State} (l : Sideband) (op : Nat) (s : State) (h : KeepsMbx s0 s) :
    KeepsMbx s0 (ownerRequest l op s) := by
  unfold ownerRequest
  repeat' first
    | (with_reducible assumption)
    | (with_reducible refine keepsMbx_of (u := spdmUnsupported _) (spdmUnsupported_only (ps := noMbx) _ (only_refl _ _) (by decide)) ?_)
    | (with_reducible refine askInvalid_mbx _ _ _ ?_)
    | (intro)
    | (split)

theorem spdmMessage_mbx {s0 : State} (m : SpdmMsg) (s : State) (h : KeepsMbx s0 s) :
    KeepsMbx s0 (spdmMessage m s) := by
  unfold spdmMessage
  repeat' first
    | (with_reducible assumption)
    | (with_reducible refine keepsMbx_of (u := updProt _ _) (updProt_only (ps := noMbx) _ _ (only_refl _ _) (by decide)) ?_)
    | (with_reducible refine keepsMbx_of (u := endSession _ _) (endSession_only (ps := noMbx) _ _ (only_refl _ _) (by decide)) ?_)
    | (with_reducible refine ownerRequest_mbx _ _ _ ?_)
    | (with_reducible refine keepsMbx_of (u := ownerCollect _) (ownerCollect_only (ps := noMbx) _ (only_refl _ _) (by decide)) ?_)
    | (with_reducible refine keepsMbx_of (u := spdmUnsupported _) (spdmUnsupported_only (ps := noMbx) _ (only_refl _ _) (by decide)) ?_)
    | (intro)
    | (extract_lets +onlyGivenNames s1; refine keepsMbx_cut s1 ?_ ?_; unfold s1; clear s1; rotate_left; intro hs1; clear_value s1; rotate_right)
    | (extract_lets +onlyGivenNames v1)
    | (split)

end Sys2Proof.Machine
end

