-- ==== Sys2Proof/Laws/Mbx/Boundary.lean ====
section
/-! SUPPORT. Operations of Machine/Boundary.lean keep the mailbox within its bounds. -/

set_option linter.tactic.unusedName false

namespace Sys2Proof.Machine

theorem timeouts_mbx {s0 : State}  (s : State) (h : KeepsMbx s0 s) :
    KeepsMbx s0 (timeouts s) := by
  unfold timeouts
  repeat' first
    | (with_reducible assumption)
    | (with_reducible refine keepsMbx_of (u := lifetimeExpiry _ _) (lifetimeExpiry_only (ps := noMbx) _ _ (only_refl _ _) (by decide)) ?_)
    | (with_reducible refine holdExpiry_mbx _ ?_)
    | (with_reducible refine keepsMbx_of (u := rowTimeouts _) (rowTimeouts_only (ps := noMbx) _ (only_refl _ _) (by decide)) ?_)
    | (with_reducible refine keepsMbx_of (u := syncTimeout _) (syncTimeout_only (ps := noMbx) _ (only_refl _ _) (by decide)) ?_)
    | (with_reducible refine keepsMbx_of (u := lockQualify _) (lockQualify_only (ps := noMbx) _ (only_refl _ _) (by decide)) ?_)
    | (with_reducible refine keepsMbx_of (u := holdover _) (holdover_only (ps := noMbx) _ (only_refl _ _) (by decide)) ?_)
    | (with_reducible refine keepsMbx_of (u := expireClaim _) (expireClaim_only (ps := noMbx) _ (only_refl _ _) (by decide)) ?_)
    | (with_reducible refine keepsMbx_of (u := expireProposal _ _) (expireProposal_only (ps := noMbx) _ _ (only_refl _ _) (by decide)) ?_)
    | (with_reducible refine keepsMbx_of (u := stuckSensors _) (stuckSensors_only (ps := noMbx) _ (only_refl _ _) (by decide)) ?_)
    | (with_reducible refine keepsMbx_of (u := trackerWindowEnd _) (trackerWindowEnd_only (ps := noMbx) _ (only_refl _ _) (by decide)) ?_)
    | (with_reducible refine keepsMbx_of (u := statusTimeout _ _) (statusTimeout_only (ps := noMbx) _ _ (only_refl _ _) (by decide)) ?_)
    | (with_reducible refine keepsMbx_of (u := aggregationExpiry _ _ _) (aggregationExpiry_only (ps := noMbx) _ _ _ (only_refl _ _) (by decide)) ?_)
    | (with_reducible refine keepsMbx_of (u := entryAbort _) (entryAbort_only (ps := noMbx) _ (only_refl _ _) (by decide)) ?_)
    | (with_reducible refine keepsMbx_of (u := idleExpiry _) (idleExpiry_only (ps := noMbx) _ (only_refl _ _) (by decide)) ?_)
    | (with_reducible refine keepsMbx_when _ _ ?_ ?_)
    | (with_reducible refine keepsMbx_forEach _ _ _ ?_ ?_)
    | (intro)
    | (extract_lets +onlyGivenNames s1; refine keepsMbx_cut s1 ?_ ?_; unfold s1; clear s1; rotate_left; intro hs1; clear_value s1; rotate_right)
    | (extract_lets +onlyGivenNames v1)

theorem passedWork_mbx {s0 : State}  (s : State) (h : KeepsMbx s0 s) :
    KeepsMbx s0 (passedWork s) := by
  unfold passedWork
  repeat' first
    | (with_reducible assumption)
    | (with_reducible refine keepsMbx_of (u := updPower _ _) (updPower_only (ps := noMbx) _ _ (only_refl _ _) (by decide)) ?_)
    | (with_reducible refine timeouts_mbx _ ?_)
    | (with_reducible refine passPeriods_mbx _ _ ?_)
    | (with_reducible refine passMinutes_mbx _ _ _ _ ?_)
    | (intro)
    | (extract_lets +onlyGivenNames s1; refine keepsMbx_cut s1 ?_ ?_; unfold s1; clear s1; rotate_left; intro hs1; clear_value s1; rotate_right)
    | (extract_lets +onlyGivenNames v1)
    | (split)

theorem applyDue_mbx {s0 : State}  (s : State) (h : KeepsMbx s0 s) :
    KeepsMbx s0 (applyDue s) := by
  unfold applyDue
  repeat' first
    | (with_reducible assumption)
    | (with_reducible refine keepsMbx_of (u := applySteps _) (applySteps_only (ps := noMbx) _ (only_refl _ _) (by decide)) ?_)
    | (with_reducible refine keepsMbx_of (u := applyShares _) (applyShares_only (ps := noMbx) _ (only_refl _ _) (by decide)) ?_)
    | (with_reducible refine applyProtection_mbx _ ?_)
    | (with_reducible refine startActivation_mbx _ ?_)
    | (with_reducible refine finishHold_mbx _ ?_)
    | (with_reducible refine keepsMbx_of (u := applyMarks _) (applyMarks_only (ps := noMbx) _ (only_refl _ _) (by decide)) ?_)
    | (with_reducible refine keepsMbx_of (u := applyCfg _) (applyCfg_only (ps := noMbx) _ (only_refl _ _) (by decide)) ?_)
    | (with_reducible refine keepsMbx_of (u := applyPsDue _) (applyPsDue_only (ps := noMbx) _ (only_refl _ _) (by decide)) ?_)
    | (with_reducible refine keepsMbx_of (u := applyLb _) (applyLb_only (ps := noMbx) _ (only_refl _ _) (by decide)) ?_)
    | (with_reducible refine keepsMbx_of (u := applyPolicy _) (applyPolicy_only (ps := noMbx) _ (only_refl _ _) (by decide)) ?_)
    | (with_reducible refine keepsMbx_of (u := resumeAfterExpiry _) (resumeAfterExpiry_only (ps := noMbx) _ (only_refl _ _) (by decide)) ?_)
    | (with_reducible refine keepsMbx_of (u := resumeFetch _) (resumeFetch_only (ps := noMbx) _ (only_refl _ _) (by decide)) ?_)
    | (with_reducible refine keepsMbx_of (u := goLives _) (goLives_only (ps := noMbx) _ (only_refl _ _) (by decide)) ?_)
    | (intro)
    | (extract_lets +onlyGivenNames s1; refine keepsMbx_cut s1 ?_ ?_; unfold s1; clear s1; rotate_left; intro hs1; clear_value s1; rotate_right)
    | (extract_lets +onlyGivenNames v1)

theorem countBoundary_mbx {s0 : State} (phase : Int) (s : State) (h : KeepsMbx s0 s) :
    KeepsMbx s0 (countBoundary phase s) := by
  unfold countBoundary
  repeat' first
    | (with_reducible assumption)
    | (with_reducible refine keepsMbx_of (u := countFrame _) (countFrame_only (ps := noMbx) _ (only_refl _ _) (by decide)) ?_)
    | (with_reducible refine keepsMbx_of (u := pauseItems _) (pauseItems_only (ps := noMbx) _ (only_refl _ _) (by decide)) ?_)
    | (with_reducible refine keepsMbx_of (u := trackPhase _ _) (trackPhase_only (ps := noMbx) _ _ (only_refl _ _) (by decide)) ?_)
    | (with_reducible refine passedWork_mbx _ ?_)
    | (with_reducible refine keepsMbx_of (u := busClose _) (busClose_only (ps := noMbx) _ (only_refl _ _) (by decide)) ?_)
    | (with_reducible refine keepsMbx_of (u := increment _) (increment_only (ps := noMbx) _ (only_refl _ _) (by decide)) ?_)
    | (with_reducible refine keepsMbx_of (u := shelfStep _) (shelfStep_only (ps := noMbx) _ (only_refl _ _) (by decide)) ?_)
    | (with_reducible refine keepsMbx_of (u := noteMeters _) (noteMeters_only (ps := noMbx) _ (only_refl _ _) (by decide)) ?_)
    | (with_reducible refine periodEnd_mbx _ _ _ ?_)
    | (with_reducible refine minuteEnd_mbx _ _ ?_)
    | (with_reducible refine keepsMbx_of (u := meterSample _) (meterSample_only (ps := noMbx) _ (only_refl _ _) (by decide)) ?_)
    | (intro)
    | (extract_lets +onlyGivenNames s1; refine keepsMbx_cut s1 ?_ ?_; unfold s1; clear s1; rotate_left; intro hs1; clear_value s1; rotate_right)
    | (extract_lets +onlyGivenNames v1)

theorem boundary_mbx {s0 : State} (phase : Int) (s : State) (h : KeepsMbx s0 s) :
    KeepsMbx s0 (boundary phase s) := by
  unfold boundary
  repeat' first
    | (with_reducible assumption)
    | (with_reducible refine timeouts_mbx _ ?_)
    | (with_reducible refine applyDue_mbx _ ?_)
    | (with_reducible refine keepsMbx_of (u := endFrame _) (endFrame_only (ps := noMbx) _ (only_refl _ _) (by decide)) ?_)
    | (with_reducible refine countBoundary_mbx _ _ ?_)
    | (with_reducible refine keepsMbx_of (u := openFrame _) (openFrame_only (ps := noMbx) _ (only_refl _ _) (by decide)) ?_)
    | (with_reducible refine keepsMbx_of (u := refill _) (refill_only (ps := noMbx) _ (only_refl _ _) (by decide)) ?_)
    | (with_reducible refine keepsMbx_of (u := beginWork _) (beginWork_only (ps := noMbx) _ (only_refl _ _) (by decide)) ?_)
    | (with_reducible refine keepsMbx_of (u := scrubFrame _) (scrubFrame_only (ps := noMbx) _ (only_refl _ _) (by decide)) ?_)
    | (intro)
    | (extract_lets +onlyGivenNames s1; refine keepsMbx_cut s1 ?_ ?_; unfold s1; clear s1; rotate_left; intro hs1; clear_value s1; rotate_right)
    | (extract_lets +onlyGivenNames v1)
    | (split)

theorem framePulse_mbx {s0 : State} (phase : Int) (s : State) (h : KeepsMbx s0 s) :
    KeepsMbx s0 (framePulse phase s) := by
  unfold framePulse
  repeat' first
    | (with_reducible assumption)
    | (with_reducible refine keepsMbx_of (u := aonFrame _) (aonFrame_only (ps := noMbx) _ (only_refl _ _) (by decide)) ?_)
    | (with_reducible refine keepsMbx_of (u := increment _) (increment_only (ps := noMbx) _ (only_refl _ _) (by decide)) ?_)
    | (with_reducible refine keepsMbx_of (u := endFrame _) (endFrame_only (ps := noMbx) _ (only_refl _ _) (by decide)) ?_)
    | (with_reducible refine countBoundary_mbx _ _ ?_)
    | (with_reducible refine boundary_mbx _ _ ?_)
    | (intro)
    | (split)

theorem noticeUpdate_mbx {s0 : State} (n : Nat) (s : State) (h : KeepsMbx s0 s) :
    KeepsMbx s0 (noticeUpdate n s) := by
  unfold noticeUpdate
  repeat' first
    | (with_reducible assumption)
    | (with_reducible refine keepsMbx_of (u := measurePower _) (measurePower_only (ps := noMbx) _ (only_refl _ _) (by decide)) ?_)
    | (with_reducible refine boardWrite_mbx _ _ _ ?_)
    | (with_reducible refine keepsMbx_when _ _ ?_ ?_)
    | (intro)
    | (extract_lets +onlyGivenNames s1; refine keepsMbx_cut s1 ?_ ?_; unfold s1; clear s1; rotate_left; intro hs1; clear_value s1; rotate_right)
    | (extract_lets +onlyGivenNames v1)
    | (split)

end Sys2Proof.Machine
end

