-- ==== Sys2Proof/Laws/Mbx/ConfigRec.lean ====
section
/-! SUPPORT. Operations of Machine/ConfigRec.lean keep the mailbox within its bounds. -/

set_option linter.tactic.unusedName false

namespace Sys2Proof.Machine

theorem commitFault_mbx {s0 : State} (s : State) (r : Posted) (b : List Byte) (c : Config412) {t : State}
    {f : State → State} (h : KeepsMbx s0 t) (e : commitFault s r b c = some f) : KeepsMbx s0 (f t) := by
  unfold commitFault at e
  repeat' first
    | (split at e)
    | (cases e; done)
    | (cases e)
    | (with_reducible refine replyInvalid_mbx _ _ _ ?_)
    | (with_reducible refine replyRefused_mbx _ _ _ ?_)
    | (with_reducible refine replyConflict_mbx _ _ _ _ ?_)
    | (with_reducible refine replyNoResource_mbx _ _ _ ?_)
    | (with_reducible assumption)

theorem cfgCommit_mbx {s0 : State} (r : Posted) (b : List Byte) (s : State) (h : KeepsMbx s0 s) :
    KeepsMbx s0 (cfgCommit r b s) := by
  unfold cfgCommit
  dsimp only
  split
  · exact commitFault_mbx _ _ _ _ h (by assumption)
  · exact replyOk_mbx _ _ _ (keepsMbx_of (updFw_only (ps := noMbx) _ _ (only_refl _ _) (by decide))
      (keepsMbx_of (writeCfg_only (ps := noMbx) _ _ (only_refl _ _) (by decide)) h))

theorem cfgRead_mbx {s0 : State} (dma : Dma) (finds : List LineFind) (r : Posted) (s : State) (h : KeepsMbx s0 s) :
    KeepsMbx s0 (cfgRead dma finds r s) := by
  unfold cfgRead
  repeat' first
    | (with_reducible assumption)
    | (with_reducible refine keepsMbx_of (u := readLines _ _) (readLines_only (ps := noMbx) _ _ (only_refl _ _) (by decide)) ?_)
    | (with_reducible refine replyRefused_mbx _ _ _ ?_)
    | (with_reducible refine descWrite_mbx _ _ _ _ _ ?_ ?_)
    | (with_reducible refine replyOk_mbx _ _ _ ?_)
    | (intro)
    | (extract_lets +onlyGivenNames s1; refine keepsMbx_cut s1 ?_ ?_; unfold s1; clear s1; rotate_left; intro hs1; clear_value s1; rotate_right)
    | (extract_lets +onlyGivenNames v1)
    | (split)

theorem calRead_mbx {s0 : State} (dma : Dma) (finds : List LineFind) (r : Posted) (s : State) (h : KeepsMbx s0 s) :
    KeepsMbx s0 (calRead dma finds r s) := by
  unfold calRead
  repeat' first
    | (with_reducible assumption)
    | (with_reducible refine keepsMbx_of (u := readLines _ _) (readLines_only (ps := noMbx) _ _ (only_refl _ _) (by decide)) ?_)
    | (refine keepsMbx_of (drawNat_only2 (ps := noMbx) (only_refl _ _) (by decide) (by assumption)) ?_)
    | (with_reducible refine keepsMbx_of (drawNat_only (ps := noMbx) (only_refl _ _) (by decide)) ?_)
    | (with_reducible refine descWrite_mbx _ _ _ _ _ ?_ ?_)
    | (with_reducible refine replyOk_mbx _ _ _ ?_)
    | (intro)
    | (extract_lets +onlyGivenNames s1; refine keepsMbx_cut s1 ?_ ?_; unfold s1; clear s1; rotate_left; intro hs1; clear_value s1; rotate_right)
    | (extract_lets +onlyGivenNames v1)
    | (split)

end Sys2Proof.Machine
end

