-- ==== Sys2Proof/Laws/Mbx/Resets.lean ====
section
/-! SUPPORT. Operations of Machine/Resets.lean keep the mailbox within its bounds. -/

set_option linter.tactic.unusedName false

namespace Sys2Proof.Machine

theorem replyPend_mbx {s0 : State} (n : Nat) (opcode : Nat) (status : Nat) (payload : List Nat) (s : State) (h : KeepsMbx s0 s) :
    KeepsMbx s0 (replyPend n opcode status payload s) := by
  unfold replyPend
  repeat' first
    | (with_reducible assumption)
    | (with_reducible refine keepsMbx_of (u := updInstance _ _ _) (updInstance_only (ps := noMbx) _ _ _ (only_refl _ _) (by decide)) ?_)
    | (with_reducible refine finalReply_mbx _ _ _ _ _ ?_)
    | (with_reducible refine keepsMbx_forEach _ _ _ ?_ ?_)
    | (intro)
    | (extract_lets +onlyGivenNames s1; refine keepsMbx_cut s1 ?_ ?_; unfold s1; clear s1; rotate_left; intro hs1; clear_value s1; rotate_right)
    | (extract_lets +onlyGivenNames v1)
    | (split)

theorem resetEnd_mbx {s0 : State} (n : Nat) (s : State) (h : KeepsMbx s0 s) :
    KeepsMbx s0 (resetEnd n s) := by
  unfold resetEnd
  repeat' first
    | (with_reducible assumption)
    | (with_reducible refine keepsMbx_of (u := updInstance _ _ _) (updInstance_only (ps := noMbx) _ _ _ (only_refl _ _) (by decide)) ?_)
    | (with_reducible refine replyPend_mbx _ _ _ _ _ ?_)
    | (intro)
    | (extract_lets +onlyGivenNames s1; refine keepsMbx_cut s1 ?_ ?_; unfold s1; clear s1; rotate_left; intro hs1; clear_value s1; rotate_right)
    | (extract_lets +onlyGivenNames v1)
    | (split)

theorem instReset_mbx {s0 : State} (r : Posted) (s : State) (h : KeepsMbx s0 s) :
    KeepsMbx s0 (instReset r s) := by
  unfold instReset
  repeat' first
    | (with_reducible assumption)
    | (with_reducible refine replyRefused_mbx _ _ _ ?_)
    | (with_reducible refine keepsMbx_of (u := updInstance _ _ _) (updInstance_only (ps := noMbx) _ _ _ (only_refl _ _) (by decide)) ?_)
    | (with_reducible refine replyPending_mbx _ _ ?_)
    | (with_reducible refine keepsMbx_getD ?_ ?_)
    | (intro)
    | (extract_lets +onlyGivenNames s1; refine keepsMbx_cut s1 ?_ ?_; unfold s1; clear s1; rotate_left; intro hs1; clear_value s1; rotate_right)
    | (extract_lets +onlyGivenNames v1)
    | (split)

theorem pfReset_mbx {s0 : State} (p : Pf) (x1 : Port → Port) (s : State) (h : KeepsMbx s0 s) :
    KeepsMbx s0 (pfReset p x1 s) := by
  unfold pfReset
  repeat' first
    | (with_reducible assumption)
    | (with_reducible refine keepsMbx_of (u := changePort _ _ _) (changePort_only (ps := noMbx) _ _ _ (only_refl _ _) (by decide)) ?_)
    | (with_reducible refine windowPfReset_mbx _ _ ?_)
    | (with_reducible refine keepsMbx_of (u := ctlResetOf _ _) (ctlResetOf_only (ps := noMbx) _ _ (only_refl _ _) (by decide)) ?_)
    | (intro)
    | (extract_lets +onlyGivenNames s1; refine keepsMbx_cut s1 ?_ ?_; unfold s1; clear s1; rotate_left; intro hs1; clear_value s1; rotate_right)
    | (extract_lets +onlyGivenNames v1)

theorem flr_mbx {s0 : State} (fn : Nat) (s : State) (h : KeepsMbx s0 s) :
    KeepsMbx s0 (flr fn s) := by
  unfold flr
  repeat' first
    | (with_reducible assumption)
    | (with_reducible refine pfReset_mbx _ _ _ ?_)
    | (with_reducible refine keepsMbx_of (u := flrRequest _ _) (flrRequest_only (ps := noMbx) _ _ (only_refl _ _) (by decide)) ?_)
    | (with_reducible refine keepsMbx_of (u := wake _) (wake_only (ps := noMbx) _ (only_refl _ _) (by decide)) ?_)
    | (intro)
    | (extract_lets +onlyGivenNames s1; refine keepsMbx_cut s1 ?_ ?_; unfold s1; clear s1; rotate_left; intro hs1; clear_value s1; rotate_right)
    | (extract_lets +onlyGivenNames v1)
    | (split)

theorem linkReset_mbx {s0 : State} (p : Pf) (perst : Bool) (s : State) (h : KeepsMbx s0 s) :
    KeepsMbx s0 (linkReset p perst s) := by
  unfold linkReset
  repeat' first
    | (with_reducible assumption)
    | (with_reducible refine keepsMbx_of (u := endHold _) (endHold_only (ps := noMbx) _ (only_refl _ _) (by decide)) ?_)
    | (with_reducible refine keepsMbx_of (u := updPort _ _ _) (updPort_only (ps := noMbx) _ _ _ (only_refl _ _) (by decide)) ?_)
    | (with_reducible refine keepsMbx_of (u := wake _) (wake_only (ps := noMbx) _ (only_refl _ _) (by decide)) ?_)
    | (with_reducible refine pfReset_mbx _ _ _ ?_)
    | (with_reducible refine keepsMbx_when _ _ ?_ ?_)
    | (intro)
    | (extract_lets +onlyGivenNames s1; refine keepsMbx_cut s1 ?_ ?_; unfold s1; clear s1; rotate_left; intro hs1; clear_value s1; rotate_right)
    | (extract_lets +onlyGivenNames v1)
    | (split)

end Sys2Proof.Machine
end

