-- ==== Sys2Proof/Laws/Mbx/Instances.lean ====
section
/-! SUPPORT. Operations of Machine/Instances.lean keep the mailbox within its bounds. -/

set_option linter.tactic.unusedName false

namespace Sys2Proof.Machine

theorem shareSet_mbx {s0 : State} (r : Posted) (s : State) (h : KeepsMbx s0 s) :
    KeepsMbx s0 (shareSet r s) := by
  unfold shareSet
  repeat' first
    | (with_reducible assumption)
    | (with_reducible refine replyNoResource_mbx _ _ _ ?_)
    | (with_reducible refine replyOk_mbx _ _ _ ?_)
    | (with_reducible refine keepsMbx_of (u := updInst _ _) (updInst_only (ps := noMbx) _ _ (only_refl _ _) (by decide)) ?_)
    | (with_reducible refine replyRefused_mbx _ _ _ ?_)
    | (intro)
    | (extract_lets +onlyGivenNames s1; refine keepsMbx_cut s1 ?_ ?_; unfold s1; clear s1; rotate_left; intro hs1; clear_value s1; rotate_right)
    | (extract_lets +onlyGivenNames k1; have _ck := fun x => (k1 x : State → State); clear _ck)
    | (extract_lets +onlyGivenNames k1; have _ck := fun x => (k1 x : State); clear _ck)
    | (extract_lets +onlyGivenNames v1)
    | (split)
    | (dsimp only [k1])

theorem instCreate_mbx {s0 : State} (r : Posted) (b : List Byte) (s : State) (h : KeepsMbx s0 s) :
    KeepsMbx s0 (instCreate r b s) := by
  unfold instCreate
  repeat' first
    | (with_reducible assumption)
    | (with_reducible refine replyInvalid_mbx _ _ _ ?_)
    | (with_reducible refine replyRefused_mbx _ _ _ ?_)
    | (with_reducible refine replyNoResource_mbx _ _ _ ?_)
    | (with_reducible refine replyBusy_mbx _ _ ?_)
    | (with_reducible refine keepsMbx_of (u := createInst _ _ _ _) (createInst_only (ps := noMbx) _ _ _ _ (only_refl _ _) (by decide)) ?_)
    | (with_reducible refine replyPending_mbx _ _ ?_)
    | (intro)
    | (extract_lets +onlyGivenNames s1; refine keepsMbx_cut s1 ?_ ?_; unfold s1; clear s1; rotate_left; intro hs1; clear_value s1; rotate_right)
    | (extract_lets +onlyGivenNames v1)
    | (split)

theorem createDone_mbx {s0 : State} (n : Nat) (s : State) (h : KeepsMbx s0 s) :
    KeepsMbx s0 (createDone n s) := by
  unfold createDone
  repeat' first
    | (with_reducible assumption)
    | (with_reducible refine replyPend_mbx _ _ _ _ _ ?_)
    | (with_reducible refine keepsMbx_of (u := updInstance _ _ _) (updInstance_only (ps := noMbx) _ _ _ (only_refl _ _) (by decide)) ?_)
    | (intro)
    | (split)

theorem instDestroy_mbx {s0 : State} (r : Posted) (s : State) (h : KeepsMbx s0 s) :
    KeepsMbx s0 (instDestroy r s) := by
  unfold instDestroy
  repeat' first
    | (with_reducible assumption)
    | (with_reducible refine replyRefused_mbx _ _ _ ?_)
    | (with_reducible refine keepsMbx_of (u := updInstance _ _ _) (updInstance_only (ps := noMbx) _ _ _ (only_refl _ _) (by decide)) ?_)
    | (with_reducible refine replyPending_mbx _ _ ?_)
    | (with_reducible refine keepsMbx_getD ?_ ?_)
    | (intro)
    | (extract_lets +onlyGivenNames s1; refine keepsMbx_cut s1 ?_ ?_; unfold s1; clear s1; rotate_left; intro hs1; clear_value s1; rotate_right)
    | (extract_lets +onlyGivenNames v1)
    | (split)

theorem destroyDone_mbx {s0 : State} (n : Nat) (s : State) (h : KeepsMbx s0 s) :
    KeepsMbx s0 (destroyDone n s) := by
  unfold destroyDone
  repeat' first
    | (with_reducible assumption)
    | (with_reducible refine keepsMbx_of (u := removeNs _ _) (removeNs_only (ps := noMbx) _ _ (only_refl _ _) (by decide)) ?_)
    | (with_reducible refine keepsMbx_of (u := rewrapKeys _) (rewrapKeys_only (ps := noMbx) _ (only_refl _ _) (by decide)) ?_)
    | (with_reducible refine keepsMbx_of (u := emptySlot _ _) (emptySlot_only (ps := noMbx) _ _ (only_refl _ _) (by decide)) ?_)
    | (with_reducible refine keepsMbx_of (u := updItems _ _) (updItems_only (ps := noMbx) _ _ (only_refl _ _) (by decide)) ?_)
    | (with_reducible refine replyPend_mbx _ _ _ _ _ ?_)
    | (with_reducible refine keepsMbx_of (u := updInst _ _) (updInst_only (ps := noMbx) _ _ (only_refl _ _) (by decide)) ?_)
    | (with_reducible refine keepsMbx_of (u := updMedia _ _) (updMedia_only (ps := noMbx) _ _ (only_refl _ _) (by decide)) ?_)
    | (with_reducible refine keepsMbx_when _ _ ?_ ?_)
    | (with_reducible refine keepsMbx_forEach _ _ _ ?_ ?_)
    | (intro)
    | (extract_lets +onlyGivenNames s1; refine keepsMbx_cut s1 ?_ ?_; unfold s1; clear s1; rotate_left; intro hs1; clear_value s1; rotate_right)
    | (extract_lets +onlyGivenNames v1)
    | (split)
    | (refine keepsMbx_host _ ?_)

theorem instSanitise_mbx {s0 : State} (r : Posted) (s : State) (h : KeepsMbx s0 s) :
    KeepsMbx s0 (instSanitise r s) := by
  unfold instSanitise
  repeat' first
    | (with_reducible assumption)
    | (with_reducible refine replyRefused_mbx _ _ _ ?_)
    | (with_reducible refine replyBusy_mbx _ _ ?_)
    | (with_reducible refine replyPending_mbx _ _ ?_)
    | (with_reducible refine keepsMbx_of (u := updInstance _ _ _) (updInstance_only (ps := noMbx) _ _ _ (only_refl _ _) (by decide)) ?_)
    | (intro)
    | (extract_lets +onlyGivenNames s1; refine keepsMbx_cut s1 ?_ ?_; unfold s1; clear s1; rotate_left; intro hs1; clear_value s1; rotate_right)
    | (extract_lets +onlyGivenNames v1)
    | (split)

theorem sanitiseDone_mbx {s0 : State} (n : Nat) (s : State) (h : KeepsMbx s0 s) :
    KeepsMbx s0 (sanitiseDone n s) := by
  unfold sanitiseDone
  repeat' first
    | (with_reducible assumption)
    | (with_reducible refine keepsMbx_of (u := updNs _ _ _) (updNs_only (ps := noMbx) _ _ _ (only_refl _ _) (by decide)) ?_)
    | (with_reducible refine replyPend_mbx _ _ _ _ _ ?_)
    | (with_reducible refine keepsMbx_of (u := updInstance _ _ _) (updInstance_only (ps := noMbx) _ _ _ (only_refl _ _) (by decide)) ?_)
    | (with_reducible refine keepsMbx_forEach _ _ _ ?_ ?_)
    | (intro)
    | (extract_lets +onlyGivenNames s1; refine keepsMbx_cut s1 ?_ ?_; unfold s1; clear s1; rotate_left; intro hs1; clear_value s1; rotate_right)
    | (extract_lets +onlyGivenNames v1)
    | (split)

theorem instQuery_mbx {s0 : State} (r : Posted) (s : State) (h : KeepsMbx s0 s) :
    KeepsMbx s0 (instQuery r s) := by
  unfold instQuery
  repeat' first
    | (with_reducible assumption)
    | (with_reducible refine replyOk_mbx _ _ _ ?_)
    | (intro)
    | (extract_lets +onlyGivenNames s1; refine keepsMbx_cut s1 ?_ ?_; unfold s1; clear s1; rotate_left; intro hs1; clear_value s1; rotate_right)
    | (extract_lets +onlyGivenNames v1)
    | (split)

end Sys2Proof.Machine
end

