-- ==== Sys2Proof/Laws/Mbx/Integrity.lean ====
section
/-! SUPPORT. Operations of Machine/Integrity.lean keep the mailbox within its bounds. -/

set_option linter.tactic.unusedName false

namespace Sys2Proof.Machine

theorem eccReply_mbx {s0 : State} (r : Posted) (w0 : Nat) (d : Quad) (w3 : Nat) (s : State) (h : KeepsMbx s0 s) :
    KeepsMbx s0 (eccReply r w0 d w3 s) := by
  unfold eccReply
  repeat' first
    | (with_reducible assumption)
    | (with_reducible refine replyOk_mbx _ _ _ ?_)
    | (intro)

theorem eccRow_mbx {s0 : State} (sub : Nat) (body : Posted → State → State) (s : State) (h : KeepsMbx s0 s) (hf0 : ∀ a t, KeepsMbx s0 t → KeepsMbx s0 (body a t)) :
    KeepsMbx s0 (eccRow sub body s) := by
  unfold eccRow
  repeat' first
    | (with_reducible assumption)
    | (with_reducible refine hf0 _ _ ?_)
    | (with_reducible refine scp_mbx _ _ _ _ _ ?_ ?_)
    | (with_reducible refine replyRefused_mbx _ _ _ ?_)
    | (with_reducible refine replyConflict_mbx _ _ _ _ ?_)
    | (with_reducible refine replyInvalid_mbx _ _ _ ?_)
    | (intro)
    | (split)

theorem eccEnter_mbx {s0 : State} (r : Posted) (s : State) (h : KeepsMbx s0 s) :
    KeepsMbx s0 (eccEnter r s) := by
  unfold eccEnter
  repeat' first
    | (with_reducible assumption)
    | (with_reducible refine eccReply_mbx _ _ _ _ _ ?_)
    | (intro)
    | (refine keepsMbx_ecc _ ?_)

theorem eccWriteRaw_mbx {s0 : State} (r : Posted) (s : State) (h : KeepsMbx s0 s) :
    KeepsMbx s0 (eccWriteRaw r s) := by
  unfold eccWriteRaw
  repeat' first
    | (with_reducible assumption)
    | (with_reducible refine eccReply_mbx _ _ _ _ _ ?_)
    | (with_reducible refine keepsMbx_of (u := eccPut _ _ _) (eccPut_only (ps := noMbx) _ _ _ (only_refl _ _) (by decide)) ?_)
    | (intro)

theorem eccReadRaw_mbx {s0 : State} (r : Posted) (s : State) (h : KeepsMbx s0 s) :
    KeepsMbx s0 (eccReadRaw r s) := by
  unfold eccReadRaw
  repeat' first
    | (with_reducible assumption)
    | (with_reducible refine eccReply_mbx _ _ _ _ _ ?_)
    | (intro)
    | (extract_lets +onlyGivenNames s1; refine keepsMbx_cut s1 ?_ ?_; unfold s1; clear s1; rotate_left; intro hs1; clear_value s1; rotate_right)
    | (extract_lets +onlyGivenNames v1)

theorem eccRead_mbx {s0 : State} (r : Posted) (s : State) (h : KeepsMbx s0 s) :
    KeepsMbx s0 (eccRead r s) := by
  unfold eccRead
  repeat' first
    | (with_reducible assumption)
    | (with_reducible refine eccReply_mbx _ _ _ _ _ ?_)
    | (intro)
    | (extract_lets +onlyGivenNames s1; refine keepsMbx_cut s1 ?_ ?_; unfold s1; clear s1; rotate_left; intro hs1; clear_value s1; rotate_right)
    | (extract_lets +onlyGivenNames v1)
    | (split)

theorem eccWrite_mbx {s0 : State} (r : Posted) (s : State) (h : KeepsMbx s0 s) :
    KeepsMbx s0 (eccWrite r s) := by
  unfold eccWrite
  repeat' first
    | (with_reducible assumption)
    | (with_reducible refine eccReply_mbx _ _ _ _ _ ?_)
    | (with_reducible refine keepsMbx_of (u := eccPut _ _ _) (eccPut_only (ps := noMbx) _ _ _ (only_refl _ _) (by decide)) ?_)
    | (refine keepsMbx_of (drawNat_only2 (ps := noMbx) (only_refl _ _) (by decide) (by assumption)) ?_)
    | (with_reducible refine keepsMbx_of (drawNat_only (ps := noMbx) (only_refl _ _) (by decide)) ?_)
    | (intro)
    | (extract_lets +onlyGivenNames s1; refine keepsMbx_cut s1 ?_ ?_; unfold s1; clear s1; rotate_left; intro hs1; clear_value s1; rotate_right)
    | (extract_lets +onlyGivenNames v1)
    | (split)

theorem eccEncode_mbx {s0 : State} (r : Posted) (s : State) (h : KeepsMbx s0 s) :
    KeepsMbx s0 (eccEncode r s) := by
  unfold eccEncode
  repeat' first
    | (with_reducible assumption)
    | (with_reducible refine eccReply_mbx _ _ _ _ _ ?_)
    | (intro)

theorem placePolicySet_mbx {s0 : State} (r : Posted) (s : State) (h : KeepsMbx s0 s) :
    KeepsMbx s0 (placePolicySet r s) := by
  unfold placePolicySet
  repeat' first
    | (with_reducible assumption)
    | (with_reducible refine replyOk_mbx _ _ _ ?_)
    | (with_reducible refine keepsMbx_of (u := updMedia _ _) (updMedia_only (ps := noMbx) _ _ (only_refl _ _) (by decide)) ?_)
    | (with_reducible refine keepsMbx_getD ?_ ?_)
    | (intro)
    | (extract_lets +onlyGivenNames s1; refine keepsMbx_cut s1 ?_ ?_; unfold s1; clear s1; rotate_left; intro hs1; clear_value s1; rotate_right)
    | (extract_lets +onlyGivenNames v1)
    | (split)

theorem placeQuery_mbx {s0 : State} (r : Posted) (s : State) (h : KeepsMbx s0 s) :
    KeepsMbx s0 (placeQuery r s) := by
  unfold placeQuery
  repeat' first
    | (with_reducible assumption)
    | (with_reducible refine replyOk_mbx _ _ _ ?_)
    | (intro)
    | (split)

end Sys2Proof.Machine
end

