-- ==== Sys2Proof/Laws/Mbx/Mailbox.lean ====
section
/-! SUPPORT. Operations of Machine/Mailbox.lean keep the mailbox within its bounds. -/

set_option linter.tactic.unusedName false

namespace Sys2Proof.Machine

theorem latchReadBy_mbx {s0 : State} (a n : Nat) (s : State) (h : KeepsMbx s0 s) : KeepsMbx s0 (latchReadBy a n s) := by
  unfold latchReadBy
  split
  · exact h
  rename_i hb
  have hn : n ≤ 15 ∧ a ≤ 20 := by omega
  split
  · exact keepsMbx_of (answer_only (ps := noMbx) _ (only_refl _ _) (by decide)) (read4_mbx _ _ h)
  · exact keepsMbx_of (answer_only (ps := noMbx) _ (only_refl _ _) (by decide)) (readLatch_mbx _ _ hn h)

theorem latchWriteBy_mbx {s0 : State} (a : Nat) (n : Nat) (x2 : Word) (s : State) (h : KeepsMbx s0 s) :
    KeepsMbx s0 (latchWriteBy a n x2 s) := by
  unfold latchWriteBy
  repeat' first
    | (with_reducible assumption)
    | (with_reducible refine write4_mbx _ _ _ _ ?_)
    | (with_reducible refine writeLatch_mbx _ _ _ _ ?_)
    | (intro)
    | (split)

theorem gatedReadOf_mbx {s0 : State} (p : Pf) (off : Nat) (size : Nat) (s : State) (h : KeepsMbx s0 s) :
    KeepsMbx s0 (gatedReadOf p off size s) := by
  unfold gatedReadOf
  repeat' first
    | (with_reducible assumption)
    | (with_reducible refine keepsMbx_of (u := answer _) (answer_only (ps := noMbx) _ (only_refl _ _) (by decide)) ?_)
    | (with_reducible refine windowRead_mbx2 _ _ _ ?_ (by assumption))
    | (with_reducible refine windowRead_mbx _ _ _ ?_)
    | (intro)
    | (split)

end Sys2Proof.Machine
end

