-- ==== Sys2Proof/Laws/Mbx/Mgmt.lean ====
section
/-! SUPPORT. Operations of Machine/Mgmt.lean keep the mailbox within its bounds. -/

set_option linter.tactic.unusedName false

namespace Sys2Proof.Machine

theorem coreRestart_mbx {s0 : State} (k : Nat) (s : State) (h : KeepsMbx s0 s) :
    KeepsMbx s0 (coreRestart k s) := by
  unfold coreRestart
  repeat' first
    | (with_reducible assumption)
    | (with_reducible refine keepsMbx_of (u := setCore _ _ _) (setCore_only (ps := noMbx) _ _ _ (only_refl _ _) (by decide)) ?_)
    | (with_reducible refine keepsMbx_of (u := updHost _ _) (updHost_only (ps := noMbx) _ _ (only_refl _ _) (by decide)) ?_)
    | (with_reducible refine reopen_mbx _ ?_)
    | (with_reducible refine keepsMbx_of (u := moveShard _ _) (moveShard_only (ps := noMbx) _ _ (only_refl _ _) (by decide)) ?_)
    | (with_reducible refine keepsMbx_when _ _ ?_ ?_)
    | (with_reducible refine keepsMbx_forEach _ _ _ ?_ ?_)
    | (intro)
    | (extract_lets +onlyGivenNames s1; refine keepsMbx_cut s1 ?_ ?_; unfold s1; clear s1; rotate_left; intro hs1; clear_value s1; rotate_right)
    | (extract_lets +onlyGivenNames v1)
    | (split)

end Sys2Proof.Machine
end

