-- ==== Sys2Proof/Laws/Mbx/Power.lean ====
section
/-! SUPPORT. Operations of Machine/Power.lean keep the mailbox within its bounds. -/

set_option linter.tactic.unusedName false

namespace Sys2Proof.Machine

theorem exitDone_mbx {s0 : State}  (s : State) (h : KeepsMbx s0 s) :
    KeepsMbx s0 (exitDone s) := by
  unfold exitDone
  repeat' first
    | (with_reducible assumption)
    | (with_reducible refine keepsMbx_of (u := updFrame _ _) (updFrame_only (ps := noMbx) _ _ (only_refl _ _) (by decide)) ?_)
    | (with_reducible refine reopen_mbx _ ?_)
    | (with_reducible refine keepsMbx_of (u := updPower _ _) (updPower_only (ps := noMbx) _ _ (only_refl _ _) (by decide)) ?_)
    | (intro)
    | (extract_lets +onlyGivenNames s1; refine keepsMbx_cut s1 ?_ ?_; unfold s1; clear s1; rotate_left; intro hs1; clear_value s1; rotate_right)
    | (extract_lets +onlyGivenNames v1)

theorem psExit_mbx {s0 : State} (failed : Option Nat) (s : State) (h : KeepsMbx s0 s) :
    KeepsMbx s0 (psExit failed s) := by
  unfold psExit
  repeat' first
    | (with_reducible assumption)
    | (with_reducible refine keepsMbx_of (u := exitFailed _ _) (exitFailed_only (ps := noMbx) _ _ (only_refl _ _) (by decide)) ?_)
    | (with_reducible refine exitDone_mbx _ ?_)
    | (intro)
    | (split)

end Sys2Proof.Machine
end

