-- ==== Sys2Proof/Laws/Mbx/PowerLoss.lean ====
section
/-! SUPPORT. Operations of Machine/PowerLoss.lean keep the mailbox within its bounds. -/

set_option linter.tactic.unusedName false

namespace Sys2Proof.Machine

theorem flushEnd_mbx {s0 : State} (bad : List (Nat × Nat)) (s : State) (h : KeepsMbx s0 s) :
    KeepsMbx s0 (flushEnd bad s) := by
  unfold flushEnd
  repeat' first
    | (with_reducible assumption)
    | (with_reducible refine keepsMbx_of (u := refugeWrite _ _) (refugeWrite_only (ps := noMbx) _ _ (only_refl _ _) (by decide)) ?_)
    | (with_reducible refine keepsMbx_of (u := commitRing _ _) (commitRing_only (ps := noMbx) _ _ (only_refl _ _) (by decide)) ?_)
    | (with_reducible refine keepsMbx_of (u := writeBuffer _) (writeBuffer_only (ps := noMbx) _ (only_refl _ _) (by decide)) ?_)
    | (with_reducible refine closeRecord_mbx _ _ _ ?_)
    | (with_reducible refine keepsMbx_of (u := updPower _ _) (updPower_only (ps := noMbx) _ _ (only_refl _ _) (by decide)) ?_)
    | (with_reducible refine keepsMbx_of (u := stopDomains _ _) (stopDomains_only (ps := noMbx) _ _ (only_refl _ _) (by decide)) ?_)
    | (with_reducible refine keepsMbx_when _ _ ?_ ?_)
    | (intro)
    | (extract_lets +onlyGivenNames s1; refine keepsMbx_cut s1 ?_ ?_; unfold s1; clear s1; rotate_left; intro hs1; clear_value s1; rotate_right)
    | (extract_lets +onlyGivenNames v1)
    | (split)

end Sys2Proof.Machine
end

