-- ==== Sys2Proof/Laws/Mbx/Queues.lean ====
section
/-! SUPPORT. Operations of Machine/Queues.lean keep the mailbox within its bounds. -/

set_option linter.tactic.unusedName false

namespace Sys2Proof.Machine

theorem admin_mbx {s0 : State} (opc : Nat) (who : Access) (body : Item → State → State) (id : CmdId) (s : State) (h : KeepsMbx s0 s) (hf0 : ∀ a t, KeepsMbx s0 t → KeepsMbx s0 (body a t)) :
    KeepsMbx s0 (admin opc who body id s) := by
  unfold admin
  repeat' first
    | (with_reducible assumption)
    | (with_reducible refine hf0 _ _ ?_)
    | (with_reducible refine keepsMbx_of (u := takeUp _ _) (takeUp_only (ps := noMbx) _ _ (only_refl _ _) (by decide)) ?_)
    | (with_reducible refine keepsMbx_of (u := finishBad _ _ _) (finishBad_only (ps := noMbx) _ _ _ (only_refl _ _) (by decide)) ?_)
    | (with_reducible refine keepsMbx_id ?_)
    | (intro)
    | (extract_lets +onlyGivenNames s1; refine keepsMbx_cut s1 ?_ ?_; unfold s1; clear s1; rotate_left; intro hs1; clear_value s1; rotate_right)
    | (extract_lets +onlyGivenNames v1)
    | (split)

theorem setFeature_mbx {s0 : State} (fid : Nat) (mgr : Bool) (body : Item → State → State) (id : CmdId) (s : State) (h : KeepsMbx s0 s) (hf0 : ∀ a t, KeepsMbx s0 t → KeepsMbx s0 (body a t)) :
    KeepsMbx s0 (setFeature fid mgr body id s) := by
  unfold setFeature
  repeat' first
    | (with_reducible assumption)
    | (with_reducible refine hf0 _ _ ?_)
    | (with_reducible refine admin_mbx _ _ _ _ _ ?_ ?_)
    | (with_reducible refine keepsMbx_of (u := finishBad _ _ _) (finishBad_only (ps := noMbx) _ _ _ (only_refl _ _) (by decide)) ?_)
    | (with_reducible refine keepsMbx_id ?_)
    | (intro)
    | (split)

end Sys2Proof.Machine
end

