-- ==== Sys2Proof/Laws/Queue.lean ====
section
/-! SUPPORT. What finishing a work item does: the tag table loses it and its completion queue takes one entry; and how
an admin command whose checks pass reaches its own meaning. -/

namespace Sys2Proof.Machine

theorem ctlOf_updCtl (s : State) (fn : Nat) (f : Ctl → Ctl) : ctlOf (updCtl fn f s) fn = (ctlOf s fn).map f := by
  unfold ctlOf updCtl
  dsimp only
  cases h : tabGet s.host.ctls fn with
  | none => simp [tabUpd, h]
  | some c => rw [tabGet_upd_self f h]; rfl

theorem ctlOf_updCtl_ne (s : State) {fn k : Nat} (f : Ctl → Ctl) (h : k ≠ fn) : ctlOf (updCtl fn f s) k = ctlOf s k :=
  tabGet_upd_ne _ f h

theorem itemBySeq_of_items {s t : State} (h : t.host.items = s.host.items) (n : Nat) : itemBySeq t n = itemBySeq s n := by
  unfold itemBySeq; rw [h]

theorem itemBySeq_seq {s : State} {n : Nat} {it : Item} (h : itemBySeq s n = some it) : it.seq = n := by
  simpa using List.find?_some h

theorem find_map_seq (l : List Item) (n : Nat) (f : Item → Item) (hf : ∀ it, (f it).seq = it.seq) :
    (l.map fun it => if it.seq = n then f it else it).find? (fun it => decide (it.seq = n)) =
      (l.find? fun it => decide (it.seq = n)).map f := by
  induction l with
  | nil => rfl
  | cons a l ih =>
    by_cases h : a.seq = n
    · simp [h, hf]
    · simp [h, ih]

/-- The outcome latched for the item, which had none. -/
theorem itemBySeq_latch {s : State} {n : Nat} {it : Item} (st : Status) (dw0 dw1 : Word) (h : itemBySeq s n = some it)
    (ho : it.outcome = none) : itemBySeq (latch n st dw0 dw1 s) n =
      some { it with outcome := some st, latchedAt := clk s, dw0 := dw0, dw1 := dw1, phase := .done } := by
  unfold latch updItem updItems itemBySeq
  dsimp only
  rw [find_map_seq _ _ _ (by intro it; split <;> rfl)]
  unfold itemBySeq at h
  simp [h, ho]

theorem ctl_signal (s : State) (fn cq v : Nat) {c : Ctl} (h : ctlOf s fn = some c) :
    ∃ c', ctlOf (signal fn cq v s) fn = some c' ∧ c'.cqs = c.cqs := by
  unfold signal
  simp only [h]
  have k : ∀ f : Ctl → Ctl, ctlOf (updCtl fn f s) fn = some (f c) := fun f => by rw [ctlOf_updCtl, h]; rfl
  split
  · exact ⟨_, k _, rfl⟩
  · exact ⟨_, k _, rfl⟩

/-- An entry posted in a queue with room. -/
theorem postCqe_posts (s : State) (fn cq : Nat) (e : Cqe) {c : Ctl} {q : Cq} (h : ctlOf s fn = some c)
    (hq : tabGet c.cqs cq = some q) (hw : q.waiting = []) (hr : q.entries.length + 1 < q.size) :
    ∃ c' q', ctlOf (postCqe fn cq e s) fn = some c' ∧ tabGet c'.cqs cq = some q' ∧ q'.entries = q.entries ++ [e] := by
  unfold postCqe
  simp only [h, hq, hw, List.isEmpty_nil, hr, and_self, if_true]
  have k : ∀ q', ctlOf (updCtl fn (fun c => { c with cqs := tabSet c.cqs cq q' }) s) fn =
      some { c with cqs := tabSet c.cqs cq q' } := fun q' => (ctlOf_updCtl s fn _).trans (by rw [h]; rfl)
  unfold when
  split
  · obtain ⟨c', h1, h2⟩ := ctl_signal _ fn cq q.vector (k _)
    exact ⟨c', _, h1, by rw [h2]; exact tabGet_set_self _ _ _, rfl⟩
  · exact ⟨_, _, k _, tabGet_set_self _ _ _, rfl⟩

/-- An operation on a function's controller that keeps its completion queues and which queue a submission queue has. -/
structure SameQueues (s t : State) : Prop where
  ctls : ∀ fn c, ctlOf s fn = some c → ∃ c', ctlOf t fn = some c' ∧ c'.cqs = c.cqs ∧ ∀ sq, cqOf c' sq = cqOf c sq

theorem SameQueues.refl (s : State) : SameQueues s s := ⟨fun _ c h => ⟨c, h, rfl, fun _ => rfl⟩⟩

theorem SameQueues.trans {s t u : State} (h : SameQueues s t) (k : SameQueues t u) : SameQueues s u :=
  ⟨fun fn c hc => by
    obtain ⟨c1, a1, a2, a3⟩ := h.ctls fn c hc
    obtain ⟨c2, b1, b2, b3⟩ := k.ctls fn c1 a1
    exact ⟨c2, b1, b2.trans a2, fun sq => (b3 sq).trans (a3 sq)⟩⟩

theorem SameQueues.of_host {s t : State} (h : t.host.ctls = s.host.ctls) : SameQueues s t :=
  ⟨fun fn c hc => ⟨c, by unfold ctlOf at *; rw [h]; exact hc, rfl, fun _ => rfl⟩⟩

theorem SameQueues.updCtl {s : State} (fn : Nat) (f : Ctl → Ctl)
    (h : ∀ c, (f c).cqs = c.cqs ∧ ∀ sq, cqOf (f c) sq = cqOf c sq) : SameQueues s (updCtl fn f s) :=
  ⟨fun k c hc => by
    by_cases e : k = fn
    · subst e; exact ⟨f c, (ctlOf_updCtl s k f).trans (by rw [hc]; rfl), (h c).1, (h c).2⟩
    · exact ⟨c, (ctlOf_updCtl_ne s f e).trans hc, rfl, fun _ => rfl⟩⟩

theorem sameQueues_when {s : State} (b : Bool) (f : State → State) (h : SameQueues s (f s)) : SameQueues s (when b f s) := by
  unfold when; split
  · exact h
  · exact SameQueues.refl s

theorem sameQueues_stampSq (it : Item) (s : State) : SameQueues s (stampSq it s) := by
  refine SameQueues.updCtl _ _ fun c => ⟨rfl, fun sq => ?_⟩
  unfold cqOf
  dsimp only
  by_cases e : sq = it.id.sq
  · subst e
    cases h : tabGet c.sqs it.id.sq with
    | none => simp [tabUpd, h]
    | some q => rw [tabGet_upd_self _ h]
  · rw [tabGet_upd_ne _ _ e]

theorem sameQueues_countPosted (it : Item) (s : State) : SameQueues s (countPosted it s) := by
  unfold countPosted
  refine SameQueues.trans ?_ (sameQueues_when _ _ (SameQueues.of_host rfl))
  refine SameQueues.trans ?_ (SameQueues.updCtl _ _ fun c => ⟨rfl, fun _ => rfl⟩)
  refine SameQueues.trans (t := when (isWriteOpc it.opc) (recHist 1 (clk s - it.bell))
    (when (isReadOpc it.opc) (recHist 0 (clk s - it.bell)) s)) ?_ (SameQueues.of_host rfl)
  exact SameQueues.trans (sameQueues_when _ _ (SameQueues.of_host rfl)) (sameQueues_when _ _ (SameQueues.of_host rfl))

/-- What is not posted leaves the tag table as the item's removal leaves it. -/
theorem items_signal (fn cq v : Nat) (s : State) : (signal fn cq v s).host.items = s.host.items := by
  unfold signal
  split
  · rfl
  · dsimp only; split <;> rfl

theorem items_postCqe (fn cq : Nat) (e : Cqe) (s : State) : (postCqe fn cq e s).host.items = s.host.items := by
  unfold postCqe
  split
  · rfl
  split
  · rfl
  dsimp only
  split
  · unfold when
    split
    · exact items_signal _ _ _ _
    · rfl
  · rfl

theorem items_stampSq (it : Item) (s : State) : (stampSq it s).host.items = s.host.items := rfl

theorem items_countPosted (it : Item) (s : State) : (countPosted it s).host.items = s.host.items := by
  unfold countPosted when
  repeat' split
  all_goals rfl

/-- The completion of an item with a latched outcome. -/
theorem postItem_completes {s : State} {n : Nat} {it : Item} {st : Status} (h : itemBySeq s n = some it)
    (ho : it.outcome = some st) (hf : flushing s = false) (hs : it.silent = false) :
    Completes s (postItem n s) { it with outcome := none } st it.dw0 it.dw1 := by
  have hn := itemBySeq_seq h
  unfold postItem
  simp only [hf, h, ho, hs, Bool.false_eq_true, if_false]
  obtain ⟨s1, e1⟩ : ∃ x, x = dropItem n s := ⟨_, rfl⟩
  rw [← e1]
  obtain ⟨s2, e2⟩ : ∃ x, x = stampSq it (when st.failed (updCtl it.id.fn (addErr it st)) s1) := ⟨_, rfl⟩
  rw [← e2]
  obtain ⟨s3, e3⟩ : ∃ x, x = when it.io (countPosted it) s2 := ⟨_, rfl⟩
  rw [← e3]
  have q3 : SameQueues s s3 := by
    refine SameQueues.trans (SameQueues.of_host (t := s1) (by rw [e1]; rfl)) (SameQueues.trans (t := s2) ?_ (by rw [e3]; exact sameQueues_when _ _ (sameQueues_countPosted it s2)))
    rw [e2]
    exact SameQueues.trans (sameQueues_when st.failed (updCtl it.id.fn (addErr it st))
      (SameQueues.updCtl _ _ fun c => ⟨rfl, fun _ => rfl⟩)) (sameQueues_stampSq it _)
  have i3 : s3.host.items = s1.host.items := by
    have a : s2.host.items = s1.host.items := by
      rw [e2, items_stampSq]; unfold when; split <;> rfl
    rw [e3]; unfold when; split
    · rw [items_countPosted]; exact a
    · exact a
  have g : ∀ x ∈ s1.host.items, x.seq ≠ it.seq := by
    intro x hx
    rw [e1] at hx
    have := (List.mem_filter.mp hx).2
    rw [hn]; simpa using this
  constructor
  · intro x hx
    dsimp only
    split at hx
    · exact g x (i3 ▸ hx)
    · rw [items_postCqe] at hx; exact g x (i3 ▸ hx)
  · intro c q hc hq hw hr
    obtain ⟨c', a1, a2, a3⟩ := q3.ctls _ c hc
    dsimp only at *
    simp only [a1]
    obtain ⟨c2, q2, b1, b2, b3⟩ := postCqe_posts s3 it.id.fn (cqOf c' it.id.sq)
      { sq := it.id.sq, cid := it.id.cid, st := st, more := st.failed, dw0 := it.dw0, dw1 := it.dw1 } a1
      (by rw [a2, a3]; exact hq) hw hr
    exact ⟨c2, q2, b1, by rw [← a3]; exact b2, b3⟩

theorem flushing_latch (n : Nat) (st : Status) (dw0 dw1 : Word) (s : State) : flushing (latch n st dw0 dw1 s) = flushing s := rfl

/-- Finishing an item that has no outcome yet: it completes with the status given. -/
theorem finish_completes {s x : State} {n : Nat} {it : Item} (st : Status) (dw0 dw1 : Word)
    (h : itemBySeq x n = some it) (ho : it.outcome = none) (hs : it.silent = false) (hf : flushing x = false)
    (hc : x.host.ctls = s.host.ctls) : Completes s (finish n st dw0 dw1 x) it st dw0 dw1 := by
  have k := postItem_completes (itemBySeq_latch st dw0 dw1 h ho) rfl (hf ▸ flushing_latch n st dw0 dw1 x) hs
  refine ⟨k.gone, fun c q a b d e => ?_⟩
  have a' : ctlOf (latch n st dw0 dw1 x) it.id.fn = some c := by
    unfold ctlOf at *
    exact (by rw [← hc] at a; exact a)
  exact k.posted c q a' b d e

theorem adminOpen_flushing {s : State} (h : adminOpen s = true) : flushing s = false := by
  simp only [adminOpen, hallRuns, ctrlRuns, Bool.and_eq_true, Bool.not_eq_true'] at h
  exact h.1.1.2

/-- An admin row whose checks pass completes with its own meaning. -/
theorem admin_next {c : Instr} {s : State} {id : CmdId} {opc : Nat} {who : Access} {body : Item → State → State}
    {it : Item} (hc : exec c s = act (admin opc who body id) s) (a : AdminRuns s id opc who it) :
    exec c s = .next (body it (takeUp it.seq { s with emit := [] })) := by
  have h1 : findItem { s with emit := [] } id = some it := a.found
  have h2 : accessFault (takeUp it.seq { s with emit := [] }) id.fn who = none := a.allowed
  have h3 : sanitizing (takeUp it.seq { s with emit := [] }) = false := a.noWipe.1
  have h4 : instSanitizing (takeUp it.seq { s with emit := [] }) id.fn = false := a.noWipe.2
  have h5 : adminOpen { s with emit := [] } = true := a.taken
  have h6 : inTurn { s with emit := [] } it = true := a.turn
  rw [hc]
  unfold act admin
  simp only [h1, a.queue, a.opcode, a.fresh, h5, h6, a.released, h2, a.plain.1, a.plain.2, h3, h4, ne_eq, not_true_eq_false,
    Option.isSome_none, Bool.false_eq_true, Bool.not_true, false_and, or_self, if_false]

/-- What an admin command's finishing state has of the tag table and the controllers, for `finish_completes`. -/
theorem AdminRuns.finishes {s x : State} {id : CmdId} {opc : Nat} {who : Access} {it : Item} (st : Status) (dw0 dw1 : Word)
    (a : AdminRuns s id opc who it) (hi : x.host.items = s.host.items) (hc : x.host.ctls = s.host.ctls)
    (hp : x.power.flush = s.power.flush) : Completes s (finish it.seq st dw0 dw1 x) it st dw0 dw1 :=
  finish_completes st dw0 dw1 ((itemBySeq_of_items hi _).trans a.unique) a.fresh a.heard
    (by unfold flushing; rw [hp]; exact adminOpen_flushing a.taken) hc

end Sys2Proof.Machine
end

