-- ==== Sys2Proof/Laws/Scp.lean ====
section
/-! SUPPORT. What taking up a request and answering it do to the mailbox (R71, R84). -/

namespace Sys2Proof.Machine

/-- The parts of the mailbox that setting an event bit leaves alone. -/
def evMbx (m : MbxSt) : MbxSt := { m with event := 0 }

theorem setEvent_cases (b : Nat) (s : State) :
    (setEvent b s).mbx = { s.mbx with event := s.mbx.event ||| BitVec.ofNat 8 (2 ^ b) } ∨ (setEvent b s).mbx = s.mbx := by
  unfold setEvent; split
  · exact .inr rfl
  · exact .inl rfl

@[simp] theorem setEvent_evMbx (b : Nat) (s : State) : evMbx (setEvent b s).mbx = evMbx s.mbx := by
  rcases setEvent_cases b s with h | h <;> rw [h] <;> rfl

@[simp] theorem setEvent_outQ (b : Nat) (s : State) : (setEvent b s).mbx.outQ = s.mbx.outQ := by
  have h := congrArg (fun m : MbxSt => m.outQ) (setEvent_evMbx b s)
  exact h

@[simp] theorem setEvent_inQ (b : Nat) (s : State) : (setEvent b s).mbx.inQ = s.mbx.inQ := by
  have h := congrArg (fun m : MbxSt => m.inQ) (setEvent_evMbx b s)
  exact h

@[simp] theorem setEvent_part (b : Nat) (s : State) : (setEvent b s).mbx.part = s.mbx.part := by
  have h := congrArg (fun m : MbxSt => m.part) (setEvent_evMbx b s)
  exact h

@[simp] theorem setEvent_backlog (b : Nat) (s : State) : (setEvent b s).mbx.backlog = s.mbx.backlog := by
  have h := congrArg (fun m : MbxSt => m.backlog) (setEvent_evMbx b s)
  exact h

@[simp] theorem setEvent_latches (b : Nat) (s : State) : (setEvent b s).mbx.latches = s.mbx.latches := by
  have h := congrArg (fun m : MbxSt => m.latches) (setEvent_evMbx b s)
  exact h

@[simp] theorem setEvent_outst (b : Nat) (s : State) : (setEvent b s).mbx.outst = s.mbx.outst := by
  have h := congrArg (fun m : MbxSt => m.outst) (setEvent_evMbx b s)
  exact h

@[simp] theorem setEvent_hostEpoch (b : Nat) (s : State) : (setEvent b s).mbx.hostEpoch = s.mbx.hostEpoch := by
  have h := congrArg (fun m : MbxSt => m.hostEpoch) (setEvent_evMbx b s)
  exact h

@[simp] theorem setEvent_devEpoch (b : Nat) (s : State) : (setEvent b s).mbx.devEpoch = s.mbx.devEpoch := by
  have h := congrArg (fun m : MbxSt => m.devEpoch) (setEvent_evMbx b s)
  exact h

@[simp] theorem setEvent_spillUsed (b : Nat) (s : State) : spillUsed (setEvent b s).mbx = spillUsed s.mbx := by
  have h := congrArg (fun m : MbxSt => spillUsed m) (setEvent_evMbx b s)
  exact h

@[simp] theorem setEvent_holder (b n : Nat) (s : State) : holder (setEvent b s) n = holder s n := by
  simp [holder]

/-- What empties the host→device queue sets an event bit at most beside. -/
@[simp] theorem emptying_evMbx (f : State → State) (s : State) : evMbx (emptying f s).mbx = evMbx (f s).mbx := by
  unfold emptying when
  dsimp only
  split
  · exact setEvent_evMbx 1 (f s)
  · rfl

/-- The head request taken up alone leaves the queue empty and the rest of the mailbox as it is. -/
theorem takeHead_evMbx {s : State} {r : Posted} (h : s.mbx.outQ = [r]) :
    evMbx (takeHead s).mbx = evMbx { s.mbx with outQ := [] } := by
  unfold takeHead
  rw [emptying_evMbx]
  simp only [evMbx, updMbx, h, List.tail_cons]

theorem drainHeads_empty {s : State} (n : Nat) (h : s.mbx.outQ = []) : drainHeads n s = s := by
  cases n with
  | zero => rfl
  | succ n => unfold drainHeads; rw [h]

/-- A reply to a request when nothing waits: it is the one message in the device→host queue. -/
theorem postReply_evMbx {s : State} (ws : List Word) (hi : s.mbx.inQ = []) (hs : spillUsed s.mbx = 0)
    (hb : s.mbx.backlog = []) (hl : ws.length ≤ 16) :
    evMbx (postReply ws s).mbx = evMbx { s.mbx with inQ := inWords { words := ws, epoch := s.mbx.devEpoch } } := by
  unfold postReply
  simp only [hi, hs, hb, List.length_nil, Nat.zero_add, List.isEmpty_nil, hl, and_self, if_true, setEvent_evMbx]
  simp only [evMbx, updMbx, hi, hb, List.nil_append]

theorem postReply_rest {s : State} (ws : List Word) : Only [.mbx, .emit] s (postReply ws s) :=
  postReply_only ws s (only_refl _ _) (by decide)

/-- A request that passes every check of R84 reaches its opcode's own meaning, taken off the queue. -/
theorem scp_accepts {s : State} {op : Nat} {f : Form} {fault : Posted → Option Nat}
    {body : Posted → State → State} {r : Posted} (a : Asks s op r) (hf : formFault r f = none)
    (hm : f.mgr = true → holder s 0 = r.agent) (ho : (descOwn r f).or (fault r) = none)
    (hq : (body r (takeHead s)).mbx.outQ = []) : scp op f fault body s = body r (takeHead s) := by
  have hh : holder (takeHead s) 0 = holder s 0 := by
    have := takeHead_evMbx a.head
    have e := congrArg (fun m : MbxSt => tabGetD m.latches 0 0) this
    exact e
  have hd : tagDup (takeHead s) r = false := by
    have := takeHead_evMbx a.head
    have e' := congrArg (fun m : MbxSt => m.outst) this
    have e : (takeHead s).mbx.outst = s.mbx.outst := e'
    simpa [tagDup, e] using a.fresh
  have hc : (takeHead s).fw.cellar = false := by
    have := (takeHead_only s (only_refl [.mbx, .emit] s) (by decide)).same .fw (by decide)
    exact (congrArg FwSt.cellar this).trans a.normal
  have hk : ¬(f.mgr = true ∧ holder (takeHead s) 0 ≠ r.agent) := fun h => h.2 (hh.trans (hm h.1))
  unfold scp
  simp only [a.taken, Bool.not_true, Bool.false_eq_true, if_false, a.head, a.opcode, ne_eq, not_true_eq_false, hd, hf]
  rw [if_neg hk]
  simp only [hc, Bool.false_eq_true, false_and, if_false, ho]
  exact drainHeads_empty _ hq

/-- The state in which a request's own meaning leaves the mailbox before its reply: nothing waits, and the epochs
stand as `s` has them. -/
structure Quiet (s x : State) : Prop where
  outQ : x.mbx.outQ = []
  inQ : x.mbx.inQ = []
  spill : spillUsed x.mbx = 0
  backlog : x.mbx.backlog = []
  host : x.mbx.hostEpoch = s.mbx.hostEpoch
  dev : x.mbx.devEpoch = s.mbx.devEpoch

theorem Quiet.of_mbx {s x y : State} (q : Quiet s x) (h : evMbx y.mbx = evMbx x.mbx) : Quiet s y where
  outQ := (by have e := congrArg (fun m : MbxSt => m.outQ) h; exact e : y.mbx.outQ = x.mbx.outQ).trans q.outQ
  inQ := (by have e := congrArg (fun m : MbxSt => m.inQ) h; exact e : y.mbx.inQ = x.mbx.inQ).trans q.inQ
  spill := (by have e := congrArg (fun m : MbxSt => spillUsed m) h; exact e : spillUsed y.mbx = spillUsed x.mbx).trans q.spill
  backlog := (by have e := congrArg (fun m : MbxSt => m.backlog) h; exact e : y.mbx.backlog = x.mbx.backlog).trans q.backlog
  host := (by have e := congrArg (fun m : MbxSt => m.hostEpoch) h; exact e : y.mbx.hostEpoch = x.mbx.hostEpoch).trans q.host
  dev := (by have e := congrArg (fun m : MbxSt => m.devEpoch) h; exact e : y.mbx.devEpoch = x.mbx.devEpoch).trans q.dev

theorem Quiet.of_only {s x y : State} {ps : List Part} (q : Quiet s x) (h : Only ps x y) (hp : .mbx ∉ ps) : Quiet s y :=
  q.of_mbx (congrArg evMbx (h.same .mbx hp))

theorem quiet_takeHead {s : State} {op : Nat} {r : Posted} (a : Asks s op r) : Quiet s (takeHead s) := by
  have q : Quiet s { s with mbx := { s.mbx with outQ := [] } } :=
    { outQ := rfl, inQ := a.noReply, spill := a.noSpill, backlog := a.noBacklog, host := rfl, dev := rfl }
  exact q.of_mbx (takeHead_evMbx a.head)

/-- The reply posted from a quiet mailbox is the answer. -/
theorem reply_answers {s x : State} {r : Posted} {status : Nat} {payload : List Nat} (q : Quiet s x)
    (hl : payload.length ≤ 15) : Answers s (reply r status payload x) r status payload := by
  have e := postReply_evMbx (replyHeader r.opcode r.tag payload.length (decide (r.epoch ≠ x.mbx.hostEpoch)) status ::
    payload.map wordOf) q.inQ q.spill q.backlog (by simp; omega)
  constructor
  · have e1 := congrArg (fun m : MbxSt => m.inQ) e
    rw [← q.host, ← q.dev]
    exact e1
  · have e1 := congrArg (fun m : MbxSt => m.outQ) e
    exact Eq.trans e1 q.outQ

theorem Asks.act {s : State} {op : Nat} {r : Posted} (a : Asks s op r) : Asks { s with emit := [] } op r :=
  ⟨a.taken, a.head, a.whole, a.opcode, a.fresh, a.normal, a.noReply, a.noSpill, a.noBacklog⟩

/-- The state in which a request that has been taken up is performed. -/
def takenUp (s : State) : State := takeHead { s with emit := [] }

theorem takenUp_only (s : State) : Only [.mbx, .emit] s (takenUp s) :=
  takeHead_only _ (only_emit _ (only_refl _ _) (by decide)) (by decide)

theorem quiet_takenUp {s : State} {op : Nat} {r : Posted} (a : Asks s op r) : Quiet s (takenUp s) := by
  have q := quiet_takeHead a.act
  exact ⟨q.outQ, q.inQ, q.spill, q.backlog, q.host, q.dev⟩

theorem takenUp_latches {s : State} {op : Nat} {r : Posted} (a : Asks s op r) : (takenUp s).mbx.latches = s.mbx.latches := by
  have e := congrArg (fun m : MbxSt => m.latches) (takeHead_evMbx a.act.head)
  exact e

theorem takenUp_outst {s : State} {op : Nat} {r : Posted} (a : Asks s op r) : (takenUp s).mbx.outst = s.mbx.outst := by
  have e := congrArg (fun m : MbxSt => m.outst) (takeHead_evMbx a.act.head)
  exact e

/-- A request row that passes its checks completes with its own meaning. -/
theorem scp_next {c : Instr} {s : State} {op : Nat} {f : Form} {fault : Posted → Option Nat}
    {body : Posted → State → State} {r : Posted} (hc : exec c s = Sys2Proof.Machine.act (scp op f fault body) s)
    (a : Asks s op r) (hf : formFault r f = none) (hm : f.mgr = true → holder s 0 = r.agent)
    (ho : (descOwn r f).or (fault r) = none) (hq : (body r (takenUp s)).mbx.outQ = []) :
    exec c s = .next (body r (takenUp s)) :=
  hc.trans (congrArg _ (scp_accepts a.act hf hm ho hq))

/-- A request row whose meaning replies at once, from a state in which nothing waits. -/
theorem scp_replies {c : Instr} {s : State} {op : Nat} {f : Form} {fault : Posted → Option Nat}
    {body : Posted → State → State} {r : Posted} {status : Nat} {payload : List Nat} {x : State}
    (hc : exec c s = Sys2Proof.Machine.act (scp op f fault body) s) (a : Asks s op r) (hf : formFault r f = none)
    (hm : f.mgr = true → holder s 0 = r.agent) (ho : (descOwn r f).or (fault r) = none)
    (hb : body r (takenUp s) = reply r status payload x) (q : Quiet s x) (hl : payload.length ≤ 15) {p : State → Prop}
    (hp : p (reply r status payload x)) : Does c s fun t => Answers s t r status payload ∧ p t := by
  have k := reply_answers (status := status) (r := r) q hl
  refine ⟨_, scp_next hc a hf hm ho (by rw [hb]; exact k.taken), ?_, ?_⟩ <;> rw [hb]
  · exact k
  · exact hp

end Sys2Proof.Machine
end

