-- ==== Sys2Proof/Laws/Sv.lean ====
section
/-! SUPPORT. SV_MIN never falls (R391): how operations that do not lower it compose. -/

namespace Sys2Proof.Machine

/-- SV_MIN is not lower than it was. -/
structure KeepsSv (s t : State) : Prop where
  le : s.fw.svMin ≤ t.fw.svMin

/-- Every group but the firmware state. -/
def noFw : List Part :=
  [.frame, .mbx, .host, .zone, .media, .flash, .inst, .prot, .ecc, .power, .therm, .mgmt, .pins, .recd, .emit, .free, .pending]

theorem keepsSv_refl (s : State) : KeepsSv s s := ⟨Nat.le_refl _⟩

theorem KeepsSv.trans {s t u : State} (h : KeepsSv s t) (k : KeepsSv t u) : KeepsSv s u := ⟨Nat.le_trans h.le k.le⟩

theorem keepsSv_mk {s t u : State} (e : u.fw = t.fw) (h : KeepsSv s t) : KeepsSv s u := ⟨e ▸ h.le⟩

/-- An operation that leaves the firmware state alone. -/
theorem keepsSv_of {s t u : State} (k : Only noFw t u) (h : KeepsSv s t) : KeepsSv s u :=
  keepsSv_mk (k.same .fw (by decide)) h

theorem keepsSv_upd {s0 s : State} (f : FwSt → FwSt) (hf : ∀ m, m.svMin ≤ (f m).svMin) (h : KeepsSv s0 s) :
    KeepsSv s0 (updFw f s) := ⟨Nat.le_trans h.le (hf s.fw)⟩

theorem keepsSv_frame {s0 s : State} (v) (h : KeepsSv s0 s) : KeepsSv s0 { s with frame := v } :=
  keepsSv_mk (t := s) rfl h

theorem keepsSv_host {s0 s : State} (v) (h : KeepsSv s0 s) : KeepsSv s0 { s with host := v } :=
  keepsSv_mk (t := s) rfl h

theorem keepsSv_zone {s0 s : State} (v) (h : KeepsSv s0 s) : KeepsSv s0 { s with zone := v } :=
  keepsSv_mk (t := s) rfl h

theorem keepsSv_media {s0 s : State} (v) (h : KeepsSv s0 s) : KeepsSv s0 { s with media := v } :=
  keepsSv_mk (t := s) rfl h

theorem keepsSv_flash {s0 s : State} (v) (h : KeepsSv s0 s) : KeepsSv s0 { s with flash := v } :=
  keepsSv_mk (t := s) rfl h

theorem keepsSv_inst {s0 s : State} (v) (h : KeepsSv s0 s) : KeepsSv s0 { s with inst := v } :=
  keepsSv_mk (t := s) rfl h

theorem keepsSv_prot {s0 s : State} (v) (h : KeepsSv s0 s) : KeepsSv s0 { s with prot := v } :=
  keepsSv_mk (t := s) rfl h

theorem keepsSv_ecc {s0 s : State} (v) (h : KeepsSv s0 s) : KeepsSv s0 { s with ecc := v } :=
  keepsSv_mk (t := s) rfl h

theorem keepsSv_mbx {s0 s : State} (v) (h : KeepsSv s0 s) : KeepsSv s0 { s with mbx := v } :=
  keepsSv_mk (t := s) rfl h

theorem keepsSv_power {s0 s : State} (v) (h : KeepsSv s0 s) : KeepsSv s0 { s with power := v } :=
  keepsSv_mk (t := s) rfl h

theorem keepsSv_therm {s0 s : State} (v) (h : KeepsSv s0 s) : KeepsSv s0 { s with therm := v } :=
  keepsSv_mk (t := s) rfl h

theorem keepsSv_mgmt {s0 s : State} (v) (h : KeepsSv s0 s) : KeepsSv s0 { s with mgmt := v } :=
  keepsSv_mk (t := s) rfl h

theorem keepsSv_pins {s0 s : State} (v) (h : KeepsSv s0 s) : KeepsSv s0 { s with pins := v } :=
  keepsSv_mk (t := s) rfl h

theorem keepsSv_recd {s0 s : State} (v) (h : KeepsSv s0 s) : KeepsSv s0 { s with recd := v } :=
  keepsSv_mk (t := s) rfl h

theorem keepsSv_emit {s0 s : State} (v) (h : KeepsSv s0 s) : KeepsSv s0 { s with emit := v } :=
  keepsSv_mk (t := s) rfl h

theorem keepsSv_free {s0 s : State} (v) (h : KeepsSv s0 s) : KeepsSv s0 { s with free := v } :=
  keepsSv_mk (t := s) rfl h

theorem keepsSv_pending {s0 s : State} (v) (h : KeepsSv s0 s) : KeepsSv s0 { s with pending := v } :=
  keepsSv_mk (t := s) rfl h

theorem keepsSv_cut {s0 t : State} (s : State) (h : KeepsSv s0 s) (k : KeepsSv s0 s → KeepsSv s0 t) :
    KeepsSv s0 t := k h

theorem keepsSv_id {s0 s : State} (h : KeepsSv s0 s) : KeepsSv s0 (id s) := h

theorem keepsSv_when {s0 s : State} (c : Bool) (f : State → State) (h : KeepsSv s0 s)
    (hf : ∀ t, KeepsSv s0 t → KeepsSv s0 (f t)) : KeepsSv s0 (when c f s) := by
  unfold when; split
  · exact hf s h
  · exact h

theorem keepsSv_foldl {α : Type} {s0 : State} (l : List α) (f : State → α → State) (s : State) (h : KeepsSv s0 s)
    (hf : ∀ t a, KeepsSv s0 t → KeepsSv s0 (f t a)) : KeepsSv s0 (l.foldl f s) := by
  induction l generalizing s with
  | nil => exact h
  | cons a l ih => exact ih (f s a) (hf s a h)

theorem keepsSv_forEach {α : Type} {s0 : State} (l : List α) (f : α → State → State) (s : State)
    (h : KeepsSv s0 s) (hf : ∀ a t, KeepsSv s0 t → KeepsSv s0 (f a t)) : KeepsSv s0 (forEach l f s) :=
  keepsSv_foldl l _ s h fun t a ht => hf a t ht

structure KeepsSvOpt (s0 : State) (o : Option State) : Prop where
  same : ∀ t, o = some t → KeepsSv s0 t

theorem keepsSvOpt_none (s0 : State) : KeepsSvOpt s0 none := ⟨fun _ h => by simp at h⟩

theorem keepsSvOpt_some {s0 s : State} (h : KeepsSv s0 s) : KeepsSvOpt s0 (some s) :=
  ⟨fun _ e => by cases e; exact h⟩

theorem keepsSvOpt_of {s0 s : State} {o : Option State} (k : OnlyOpt noFw s o) (h : KeepsSv s0 s) :
    KeepsSvOpt s0 o := ⟨fun t e => keepsSv_of (k.only t e) h⟩

theorem keepsSv_getD {s0 s : State} {o : Option State} (k : KeepsSvOpt s0 o) (h : KeepsSv s0 s) :
    KeepsSv s0 (o.getD s) := by
  cases o with
  | none => exact h
  | some t => exact k.same t rfl

end Sys2Proof.Machine
end

