-- ==== Sys2Proof/Laws/Sv/Firmware.lean ====
section
/-! SUPPORT. Operations of Machine/Firmware.lean never lower SV_MIN. -/

set_option linter.tactic.unusedName false

namespace Sys2Proof.Machine

theorem updSlotAt_sv {s0 : State} (n : Nat) (x1 : FwSlot → FwSlot) (s : State) (h : KeepsSv s0 s) :
    KeepsSv s0 (updSlotAt n x1 s) := by
  unfold updSlotAt
  repeat' first
    | (with_reducible assumption)
    | (intro)
    | (split)
    | (refine keepsSv_upd _ (fun m => Nat.le_refl _) ?_)

theorem writeCfg_sv {s0 : State} (x0 : Config412 → Config412) (s : State) (h : KeepsSv s0 s) :
    KeepsSv s0 (writeCfg x0 s) := by
  unfold writeCfg
  repeat' first
    | (with_reducible assumption)
    | (intro)
    | (extract_lets +onlyGivenNames s1; refine keepsSv_cut s1 ?_ ?_; unfold s1; clear s1; rotate_left; intro hs1; clear_value s1; rotate_right)
    | (extract_lets +onlyGivenNames v1)
    | (split)
    | (refine keepsSv_upd _ (fun m => Nat.le_refl _) ?_)

theorem noteReason_sv {s0 : State} (k : Nat) (s : State) (h : KeepsSv s0 s) :
    KeepsSv s0 (noteReason k s) := by
  unfold noteReason
  repeat' first
    | (with_reducible assumption)
    | (with_reducible refine keepsSv_of (u := updRec _ _) (updRec_only (ps := noFw) _ _ (only_refl _ _) (by decide)) ?_)
    | (intro)
    | (refine keepsSv_upd _ (fun m => Nat.le_refl _) ?_)

theorem setOutcome_sv {s0 : State} (imageId : Word) (st : Nat) (s : State) (h : KeepsSv s0 s) :
    KeepsSv s0 (setOutcome imageId st s) := by
  unfold setOutcome
  repeat' first
    | (with_reducible assumption)
    | (with_reducible refine keepsSv_of (u := send _ _) (send_only (ps := noFw) _ _ (only_refl _ _) (by decide)) ?_)
    | (with_reducible refine keepsSv_when _ _ ?_ ?_)
    | (intro)
    | (extract_lets +onlyGivenNames s1; refine keepsSv_cut s1 ?_ ?_; unfold s1; clear s1; rotate_left; intro hs1; clear_value s1; rotate_right)
    | (extract_lets +onlyGivenNames v1)
    | (split)
    | (refine keepsSv_upd _ (fun m => Nat.le_refl _) ?_)

theorem forwardImage_sv {s0 : State} (i : Image) (s : State) (h : KeepsSv s0 s) :
    KeepsSv s0 (forwardImage i s) := by
  unfold forwardImage
  repeat' first
    | (with_reducible assumption)
    | (with_reducible refine keepsSv_of (u := send _ _) (send_only (ps := noFw) _ _ (only_refl _ _) (by decide)) ?_)
    | (intro)
    | (extract_lets +onlyGivenNames s1; refine keepsSv_cut s1 ?_ ?_; unfold s1; clear s1; rotate_left; intro hs1; clear_value s1; rotate_right)
    | (extract_lets +onlyGivenNames v1)
    | (split)
    | (refine keepsSv_upd _ (fun m => Nat.le_refl _) ?_)

theorem stageFails_sv {s0 : State} (slot : Nat) (st : SlotSt) (s : State) (h : KeepsSv s0 s) :
    KeepsSv s0 (stageFails slot st s) := by
  unfold stageFails
  repeat' first
    | (with_reducible assumption)
    | (with_reducible refine updSlotAt_sv _ _ _ ?_)
    | (intro)
    | (split)
    | (refine keepsSv_upd _ (fun m => Nat.le_refl _) ?_)

theorem beginWrite_sv {s0 : State} (g : Staging) (i : Image) (s : State) (h : KeepsSv s0 s) :
    KeepsSv s0 (beginWrite g i s) := by
  unfold beginWrite
  repeat' first
    | (with_reducible assumption)
    | (with_reducible refine updSlotAt_sv _ _ _ ?_)
    | (with_reducible refine keepsSv_of (u := eraseSlot _ _) (eraseSlot_only (ps := noFw) _ _ (only_refl _ _) (by decide)) ?_)
    | (with_reducible refine forwardImage_sv _ _ ?_)
    | (with_reducible refine keepsSv_when _ _ ?_ ?_)
    | (with_reducible refine keepsSv_forEach _ _ _ ?_ ?_)
    | (intro)
    | (extract_lets +onlyGivenNames s1; refine keepsSv_cut s1 ?_ ?_; unfold s1; clear s1; rotate_left; intro hs1; clear_value s1; rotate_right)
    | (extract_lets +onlyGivenNames v1)
    | (refine keepsSv_upd _ (fun m => Nat.le_refl _) ?_)

theorem endStaging_sv {s0 : State} (g : Staging) (checks : ImageChecks) (bad : State → State) (s : State) (h : KeepsSv s0 s) (hf0 : ∀ t, KeepsSv s0 t → KeepsSv s0 (bad t)) :
    KeepsSv s0 (endStaging g checks bad s) := by
  unfold endStaging
  repeat' first
    | (with_reducible assumption)
    | (with_reducible refine hf0 _ ?_)
    | (with_reducible refine setOutcome_sv _ _ _ ?_)
    | (with_reducible refine stageFails_sv _ _ _ ?_)
    | (with_reducible refine beginWrite_sv _ _ _ ?_)
    | (intro)
    | (extract_lets +onlyGivenNames s1; refine keepsSv_cut s1 ?_ ?_; unfold s1; clear s1; rotate_left; intro hs1; clear_value s1; rotate_right)
    | (extract_lets +onlyGivenNames v1)
    | (split)

theorem takeChunk_sv {s0 : State} (p : Path) (slot off : Nat) (b : List Byte) (forward : Bool) {s : State}
    (h : KeepsSv s0 s) : KeepsSv s0 (takeChunk p slot off b forward s).2 := by
  unfold takeChunk
  dsimp only
  refine keepsSv_upd _ ?_ h
  intro m; exact Nat.le_refl _

theorem takeChunk_sv2 {s0 : State} (p : Path) (slot off : Nat) (b : List Byte) (forward : Bool)
    {s t : State} {v} (h : KeepsSv s0 s) (e : takeChunk p slot off b forward s = (v, t)) : KeepsSv s0 t := by
  have k := takeChunk_sv p slot off b forward h
  rw [e] at k; exact k

theorem stageChunk_sv {s0 : State} (a : Asker) (p : Path) (slot : Nat) (off : Nat) (b : List Byte) (last : Bool) (forward : Bool) (checks : ImageChecks) (s : State) (h : KeepsSv s0 s) :
    KeepsSv s0 (stageChunk a p slot off b last forward checks s) := by
  unfold stageChunk
  repeat' first
    | (with_reducible assumption)
    | (with_reducible refine takeChunk_sv2 _ _ _ _ _ ?_ (by assumption))
    | (with_reducible refine takeChunk_sv _ _ _ _ _ ?_)
    | (with_reducible refine keepsSv_of (u := askOk _ _ _) (askOk_only (ps := noFw) _ _ _ (only_refl _ _) (by decide)) ?_)
    | (with_reducible refine endStaging_sv _ _ _ _ ?_ ?_)
    | (with_reducible refine keepsSv_of (u := askFinal _ _ _ _) (askFinal_only (ps := noFw) _ _ _ _ (only_refl _ _) (by decide)) ?_)
    | (with_reducible refine keepsSv_of (u := askPending _ _) (askPending_only (ps := noFw) _ _ (only_refl _ _) (by decide)) ?_)
    | (intro)
    | (extract_lets +onlyGivenNames s1; refine keepsSv_cut s1 ?_ ?_; unfold s1; clear s1; rotate_left; intro hs1; clear_value s1; rotate_right)
    | (extract_lets +onlyGivenNames v1)
    | (split)

theorem fwStageScp_sv {s0 : State} (dma : Dma) (checks : ImageChecks) (r : Posted) (s : State) (h : KeepsSv s0 s) :
    KeepsSv s0 (fwStageScp dma checks r s) := by
  unfold fwStageScp
  repeat' first
    | (with_reducible assumption)
    | (with_reducible refine keepsSv_of (u := replyInvalid _ _ _) (replyInvalid_only (ps := noFw) _ _ _ (only_refl _ _) (by decide)) ?_)
    | (with_reducible refine keepsSv_of (u := replyRefused _ _ _) (replyRefused_only (ps := noFw) _ _ _ (only_refl _ _) (by decide)) ?_)
    | (with_reducible refine noteReason_sv _ _ ?_)
    | (with_reducible refine descRead_sv _ _ _ _ ?_ ?_)
    | (with_reducible refine stageChunk_sv _ _ _ _ _ _ _ _ _ ?_)
    | (intro)
    | (extract_lets +onlyGivenNames s1; refine keepsSv_cut s1 ?_ ?_; unfold s1; clear s1; rotate_left; intro hs1; clear_value s1; rotate_right)
    | (extract_lets +onlyGivenNames v1)
    | (split)

theorem fwStageOwner_sv {s0 : State} (payload : List Byte) (checks : ImageChecks) (s : State) (h : KeepsSv s0 s) :
    KeepsSv s0 (fwStageOwner payload checks s) := by
  unfold fwStageOwner
  repeat' first
    | (with_reducible assumption)
    | (with_reducible refine keepsSv_of (u := askInvalid _ _ _) (askInvalid_only (ps := noFw) _ _ _ (only_refl _ _) (by decide)) ?_)
    | (with_reducible refine keepsSv_of (u := askRefused _ _ _) (askRefused_only (ps := noFw) _ _ _ (only_refl _ _) (by decide)) ?_)
    | (with_reducible refine noteReason_sv _ _ ?_)
    | (with_reducible refine stageChunk_sv _ _ _ _ _ _ _ _ _ ?_)
    | (intro)
    | (extract_lets +onlyGivenNames s1; refine keepsSv_cut s1 ?_ ?_; unfold s1; clear s1; rotate_left; intro hs1; clear_value s1; rotate_right)
    | (extract_lets +onlyGivenNames v1)
    | (split)

theorem stageWritten_sv {s0 : State}  (s : State) (h : KeepsSv s0 s) :
    KeepsSv s0 (stageWritten s) := by
  unfold stageWritten
  repeat' first
    | (with_reducible assumption)
    | (with_reducible refine updSlotAt_sv _ _ _ ?_)
    | (with_reducible refine writeCfg_sv _ _ ?_)
    | (with_reducible refine keepsSv_of (u := stagedReply _ _ _) (stagedReply_only (ps := noFw) _ _ _ (only_refl _ _) (by decide)) ?_)
    | (with_reducible refine setOutcome_sv _ _ _ ?_)
    | (intro)
    | (extract_lets +onlyGivenNames s1; refine keepsSv_cut s1 ?_ ?_; unfold s1; clear s1; rotate_left; intro hs1; clear_value s1; rotate_right)
    | (extract_lets +onlyGivenNames v1)
    | (split)
    | (refine keepsSv_upd _ (fun m => Nat.le_refl _) ?_)

theorem imageDownload_sv {s0 : State} (dma : Dma) (it : Item) (s : State) (h : KeepsSv s0 s) :
    KeepsSv s0 (imageDownload dma it s) := by
  unfold imageDownload
  repeat' first
    | (with_reducible assumption)
    | (with_reducible refine keepsSv_of (u := finishBad _ _ _) (finishBad_only (ps := noFw) _ _ _ (only_refl _ _) (by decide)) ?_)
    | (with_reducible refine noteReason_sv _ _ ?_)
    | (with_reducible refine keepsSv_of (u := finishOk _ _) (finishOk_only (ps := noFw) _ _ (only_refl _ _) (by decide)) ?_)
    | (with_reducible refine takeChunk_sv2 _ _ _ _ _ ?_ (by assumption))
    | (with_reducible refine takeChunk_sv _ _ _ _ _ ?_)
    | (intro)
    | (extract_lets +onlyGivenNames s1; refine keepsSv_cut s1 ?_ ?_; unfold s1; clear s1; rotate_left; intro hs1; clear_value s1; rotate_right)
    | (extract_lets +onlyGivenNames v1)
    | (split)

theorem commitReplace_sv {s0 : State} (checks : ImageChecks) (it : Item) (s : State) (h : KeepsSv s0 s) :
    KeepsSv s0 (commitReplace checks it s) := by
  unfold commitReplace
  repeat' first
    | (with_reducible assumption)
    | (with_reducible refine keepsSv_of (u := finishBad _ _ _) (finishBad_only (ps := noFw) _ _ _ (only_refl _ _) (by decide)) ?_)
    | (with_reducible refine noteReason_sv _ _ ?_)
    | (with_reducible refine endStaging_sv _ _ _ _ ?_ ?_)
    | (intro)
    | (extract_lets +onlyGivenNames s1; refine keepsSv_cut s1 ?_ ?_; unfold s1; clear s1; rotate_left; intro hs1; clear_value s1; rotate_right)
    | (extract_lets +onlyGivenNames v1)
    | (split)

theorem dropSched_sv {s0 : State} (reason : Nat) (s : State) (h : KeepsSv s0 s) :
    KeepsSv s0 (dropSched reason s) := by
  unfold dropSched
  repeat' first
    | (with_reducible assumption)
    | (with_reducible refine keepsSv_of (u := finalReply _ _ _ _ _) (finalReply_only (ps := noFw) _ _ _ _ _ (only_refl _ _) (by decide)) ?_)
    | (with_reducible refine keepsSv_of (u := finishBad _ _ _) (finishBad_only (ps := noFw) _ _ _ (only_refl _ _) (by decide)) ?_)
    | (intro)
    | (extract_lets +onlyGivenNames s1; refine keepsSv_cut s1 ?_ ?_; unfold s1; clear s1; rotate_left; intro hs1; clear_value s1; rotate_right)
    | (extract_lets +onlyGivenNames v1)
    | (split)
    | (refine keepsSv_upd _ (fun m => Nat.le_refl _) ?_)

theorem takeSched_sv {s0 : State} (c : Sched) (s : State) (h : KeepsSv s0 s) :
    KeepsSv s0 (takeSched c s) := by
  unfold takeSched
  repeat' first
    | (with_reducible assumption)
    | (with_reducible refine dropSched_sv _ _ ?_)
    | (intro)
    | (refine keepsSv_upd _ (fun m => Nat.le_refl _) ?_)

theorem fwSchedule_sv {s0 : State} (copyOk : Bool) (r : Posted) (s : State) (h : KeepsSv s0 s) :
    KeepsSv s0 (fwSchedule copyOk r s) := by
  unfold fwSchedule
  repeat' first
    | (with_reducible assumption)
    | (with_reducible refine keepsSv_of (u := replyInvalid _ _ _) (replyInvalid_only (ps := noFw) _ _ _ (only_refl _ _) (by decide)) ?_)
    | (with_reducible refine keepsSv_of (u := replyRefused _ _ _) (replyRefused_only (ps := noFw) _ _ _ (only_refl _ _) (by decide)) ?_)
    | (with_reducible refine noteReason_sv _ _ ?_)
    | (with_reducible refine keepsSv_of (u := replyPending _ _) (replyPending_only (ps := noFw) _ _ (only_refl _ _) (by decide)) ?_)
    | (with_reducible refine keepsSv_of (u := forwardMsg _ _) (forwardMsg_only (ps := noFw) _ _ (only_refl _ _) (by decide)) ?_)
    | (with_reducible refine keepsSv_of (u := finalReply _ _ _ _ _) (finalReply_only (ps := noFw) _ _ _ _ _ (only_refl _ _) (by decide)) ?_)
    | (with_reducible refine takeSched_sv _ _ ?_)
    | (with_reducible refine keepsSv_when _ _ ?_ ?_)
    | (intro)
    | (extract_lets +onlyGivenNames s1; refine keepsSv_cut s1 ?_ ?_; unfold s1; clear s1; rotate_left; intro hs1; clear_value s1; rotate_right)
    | (extract_lets +onlyGivenNames v1)
    | (split)

theorem commitActivate_sv {s0 : State} (copyOk : Bool) (it : Item) (s : State) (h : KeepsSv s0 s) :
    KeepsSv s0 (commitActivate copyOk it s) := by
  unfold commitActivate
  repeat' first
    | (with_reducible assumption)
    | (with_reducible refine keepsSv_of (u := finishBad _ _ _) (finishBad_only (ps := noFw) _ _ _ (only_refl _ _) (by decide)) ?_)
    | (with_reducible refine noteReason_sv _ _ ?_)
    | (with_reducible refine takeSched_sv _ _ ?_)
    | (intro)
    | (extract_lets +onlyGivenNames s1; refine keepsSv_cut s1 ?_ ?_; unfold s1; clear s1; rotate_left; intro hs1; clear_value s1; rotate_right)
    | (extract_lets +onlyGivenNames v1)
    | (split)

theorem prepareDone_sv {s0 : State}  (s : State) (h : KeepsSv s0 s) :
    KeepsSv s0 (prepareDone s) := by
  unfold prepareDone
  repeat' first
    | (with_reducible assumption)
    | (with_reducible refine updSlotAt_sv _ _ _ ?_)
    | (with_reducible refine setOutcome_sv _ _ _ ?_)
    | (with_reducible refine keepsSv_of (u := finalReply _ _ _ _ _) (finalReply_only (ps := noFw) _ _ _ _ _ (only_refl _ _) (by decide)) ?_)
    | (with_reducible refine keepsSv_when _ _ ?_ ?_)
    | (intro)
    | (extract_lets +onlyGivenNames s1; refine keepsSv_cut s1 ?_ ?_; unfold s1; clear s1; rotate_left; intro hs1; clear_value s1; rotate_right)
    | (extract_lets +onlyGivenNames v1)
    | (split)
    | (refine keepsSv_upd _ (fun m => Nat.le_refl _) ?_)

theorem cancelSched_sv {s0 : State} (reason : Nat) (s : State) (h : KeepsSv s0 s) :
    KeepsSv s0 (cancelSched reason s) := by
  unfold cancelSched
  repeat' first
    | (with_reducible assumption)
    | (with_reducible refine dropSched_sv _ _ ?_)
    | (intro)
    | (split)
    | (refine keepsSv_upd _ (fun m => Nat.le_refl _) ?_)

theorem fwCancel_sv {s0 : State} (r : Posted) (s : State) (h : KeepsSv s0 s) :
    KeepsSv s0 (fwCancel r s) := by
  unfold fwCancel
  repeat' first
    | (with_reducible assumption)
    | (with_reducible refine keepsSv_of (u := replyRefused _ _ _) (replyRefused_only (ps := noFw) _ _ _ (only_refl _ _) (by decide)) ?_)
    | (with_reducible refine noteReason_sv _ _ ?_)
    | (with_reducible refine keepsSv_of (u := forwardMsg _ _) (forwardMsg_only (ps := noFw) _ _ (only_refl _ _) (by decide)) ?_)
    | (with_reducible refine keepsSv_of (u := replyOk _ _ _) (replyOk_only (ps := noFw) _ _ _ (only_refl _ _) (by decide)) ?_)
    | (with_reducible refine cancelSched_sv _ _ ?_)
    | (with_reducible refine keepsSv_when _ _ ?_ ?_)
    | (intro)
    | (extract_lets +onlyGivenNames s1; refine keepsSv_cut s1 ?_ ?_; unfold s1; clear s1; rotate_left; intro hs1; clear_value s1; rotate_right)
    | (extract_lets +onlyGivenNames v1)
    | (split)

theorem startActivation_sv {s0 : State}  (s : State) (h : KeepsSv s0 s) :
    KeepsSv s0 (startActivation s) := by
  unfold startActivation
  repeat' first
    | (with_reducible assumption)
    | (with_reducible refine dropSched_sv _ _ ?_)
    | (with_reducible refine noteReason_sv _ _ ?_)
    | (with_reducible refine setOutcome_sv _ _ _ ?_)
    | (with_reducible refine keepsSv_of (u := holdPorch _) (holdPorch_only (ps := noFw) _ (only_refl _ _) (by decide)) ?_)
    | (with_reducible refine keepsSv_of (u := notifyActivation _ _) (notifyActivation_only (ps := noFw) _ _ (only_refl _ _) (by decide)) ?_)
    | (with_reducible refine keepsSv_forEach _ _ _ ?_ ?_)
    | (intro)
    | (extract_lets +onlyGivenNames s1; refine keepsSv_cut s1 ?_ ?_; unfold s1; clear s1; rotate_left; intro hs1; clear_value s1; rotate_right)
    | (extract_lets +onlyGivenNames v1)
    | (split)
    | (refine keepsSv_upd _ (fun m => Nat.le_refl _) ?_)

theorem updHold_sv {s0 : State} (x0 : Hold2 → Hold2) (s : State) (h : KeepsSv s0 s) :
    KeepsSv s0 (updHold x0 s) := by
  unfold updHold
  repeat' first
    | (with_reducible assumption)
    | (intro)
    | (refine keepsSv_upd _ (fun m => Nat.le_refl _) ?_)

theorem handoverWritten_sv {s0 : State}  (s : State) (h : KeepsSv s0 s) :
    KeepsSv s0 (handoverWritten s) := by
  unfold handoverWritten
  repeat' first
    | (with_reducible assumption)
    | (with_reducible refine keepsSv_of (u := mgmtStop _) (mgmtStop_only (ps := noFw) _ (only_refl _ _) (by decide)) ?_)
    | (with_reducible refine updHold_sv _ _ ?_)
    | (with_reducible refine keepsSv_when _ _ ?_ ?_)
    | (intro)

theorem microcodeSwitch_sv {s0 : State}  (s : State) (h : KeepsSv s0 s) :
    KeepsSv s0 (microcodeSwitch s) := by
  unfold microcodeSwitch
  repeat' first
    | (with_reducible assumption)
    | (with_reducible refine keepsSv_of (u := mgmtRestart _) (mgmtRestart_only (ps := noFw) _ (only_refl _ _) (by decide)) ?_)
    | (with_reducible refine updHold_sv _ _ ?_)
    | (with_reducible refine keepsSv_when _ _ ?_ ?_)
    | (intro)
    | (extract_lets +onlyGivenNames s1; refine keepsSv_cut s1 ?_ ?_; unfold s1; clear s1; rotate_left; intro hs1; clear_value s1; rotate_right)
    | (extract_lets +onlyGivenNames v1)
    | (split)

theorem handoverReady_sv {s0 : State}  (s : State) (h : KeepsSv s0 s) :
    KeepsSv s0 (handoverReady s) := by
  unfold handoverReady
  repeat' first
    | (with_reducible assumption)
    | (with_reducible refine updHold_sv _ _ ?_)
    | (with_reducible refine keepsSv_of (u := noteTie _ _ _) (noteTie_only (ps := noFw) _ _ _ (only_refl _ _) (by decide)) ?_)
    | (intro)
    | (extract_lets +onlyGivenNames s1; refine keepsSv_cut s1 ?_ ?_; unfold s1; clear s1; rotate_left; intro hs1; clear_value s1; rotate_right)
    | (extract_lets +onlyGivenNames v1)
    | (split)

theorem holdEnds_sv {s0 : State} (x0 : Hold2) (s : State) (h : KeepsSv s0 s) :
    KeepsSv s0 (holdEnds x0 s) := by
  unfold holdEnds
  repeat' first
    | (with_reducible assumption)
    | (intro)
    | (extract_lets +onlyGivenNames s1; refine keepsSv_cut s1 ?_ ?_; unfold s1; clear s1; rotate_left; intro hs1; clear_value s1; rotate_right)
    | (extract_lets +onlyGivenNames v1)
    | (refine keepsSv_upd _ (fun m => Nat.le_refl _) ?_)

theorem finishHold_sv {s0 : State}  (s : State) (h : KeepsSv s0 s) :
    KeepsSv s0 (finishHold s) := by
  unfold finishHold
  repeat' first
    | (with_reducible assumption)
    | (with_reducible refine holdEnds_sv _ _ ?_)
    | (with_reducible refine keepsSv_of (u := recEvent _ _) (recEvent_only (ps := noFw) _ _ (only_refl _ _) (by decide)) ?_)
    | (with_reducible refine keepsSv_of (u := releaseHeld _) (releaseHeld_only (ps := noFw) _ (only_refl _ _) (by decide)) ?_)
    | (with_reducible refine writeCfg_sv _ _ ?_)
    | (with_reducible refine setOutcome_sv _ _ _ ?_)
    | (with_reducible refine keepsSv_of (u := reopen _) (reopen_only (ps := noFw) _ (only_refl _ _) (by decide)) ?_)
    | (with_reducible refine keepsSv_of (u := finishOk _ _) (finishOk_only (ps := noFw) _ _ (only_refl _ _) (by decide)) ?_)
    | (intro)
    | (extract_lets +onlyGivenNames s1; refine keepsSv_cut s1 ?_ ?_; unfold s1; clear s1; rotate_left; intro hs1; clear_value s1; rotate_right)
    | (extract_lets +onlyGivenNames v1; clear_value v1)
    | (extract_lets +onlyGivenNames v1)
    | (split)
    | (refine keepsSv_upd _ (fun m => Nat.le_refl _) ?_)

theorem holdExpiry_sv {s0 : State}  (s : State) (h : KeepsSv s0 s) :
    KeepsSv s0 (holdExpiry s) := by
  unfold holdExpiry
  repeat' first
    | (with_reducible assumption)
    | (with_reducible refine keepsSv_of (u := failItem _ _ _) (failItem_only (ps := noFw) _ _ _ (only_refl _ _) (by decide)) ?_)
    | (with_reducible refine keepsSv_of (u := finishBad _ _ _) (finishBad_only (ps := noFw) _ _ _ (only_refl _ _) (by decide)) ?_)
    | (refine keepsSv_of (drawNat_only2 (ps := noFw) (only_refl _ _) (by decide) (by assumption)) ?_)
    | (with_reducible refine keepsSv_of (drawNat_only (ps := noFw) (only_refl _ _) (by decide)) ?_)
    | (with_reducible refine holdEnds_sv _ _ ?_)
    | (with_reducible refine updSlotAt_sv _ _ _ ?_)
    | (with_reducible refine keepsSv_of (u := reopen _) (reopen_only (ps := noFw) _ (only_refl _ _) (by decide)) ?_)
    | (with_reducible refine keepsSv_of (u := mgmtRestart _) (mgmtRestart_only (ps := noFw) _ (only_refl _ _) (by decide)) ?_)
    | (with_reducible refine keepsSv_of (u := recEvent _ _) (recEvent_only (ps := noFw) _ _ (only_refl _ _) (by decide)) ?_)
    | (with_reducible refine setOutcome_sv _ _ _ ?_)
    | (with_reducible refine keepsSv_of (u := releaseHeld _) (releaseHeld_only (ps := noFw) _ (only_refl _ _) (by decide)) ?_)
    | (with_reducible refine keepsSv_forEach _ _ _ ?_ ?_)
    | (intro)
    | (extract_lets +onlyGivenNames s1; refine keepsSv_cut s1 ?_ ?_; unfold s1; clear s1; rotate_left; intro hs1; clear_value s1; rotate_right)
    | (extract_lets +onlyGivenNames v1)
    | (split)
    | (refine keepsSv_upd _ (fun m => Nat.le_refl _) ?_)

theorem resumeAfterExpiry_sv {s0 : State}  (s : State) (h : KeepsSv s0 s) :
    KeepsSv s0 (resumeAfterExpiry s) := by
  unfold resumeAfterExpiry
  repeat' first
    | (with_reducible assumption)
    | (intro)
    | (split)
    | (refine keepsSv_upd _ (fun m => Nat.le_refl _) ?_)

theorem rollBack_sv {s0 : State} (n : Nat) (s : State) (h : KeepsSv s0 s) :
    KeepsSv s0 (rollBack n s) := by
  unfold rollBack
  repeat' first
    | (with_reducible assumption)
    | (with_reducible refine updSlotAt_sv _ _ _ ?_)
    | (intro)
    | (split)

theorem svMinRaise_sv {s0 : State} (s : State) (h : KeepsSv s0 s) : KeepsSv s0 (svMinRaise s) := by
  unfold svMinRaise
  split
  · exact h
  · split
    · exact h
    · rename_i i _ hc
      refine rollBack_sv _ _ (rollBack_sv _ _ ⟨Nat.le_trans h.le ?_⟩)
      show s.fw.svMin ≤ i.secVer
      omega

theorem corrRefuse_sv {s0 : State} (imageId : Word) (s : State) (h : KeepsSv s0 s) :
    KeepsSv s0 (corrRefuse imageId s) := by
  unfold corrRefuse
  repeat' first
    | (with_reducible assumption)
    | (with_reducible refine setOutcome_sv _ _ _ ?_)
    | (with_reducible refine keepsSv_of (u := recEvent _ _) (recEvent_only (ps := noFw) _ _ (only_refl _ _) (by decide)) ?_)
    | (intro)
    | (refine keepsSv_upd _ (fun m => Nat.le_refl _) ?_)

theorem imageArrival_sv {s0 : State} (i : Image) (fwd : Bool) (s : State) (h : KeepsSv s0 s) :
    KeepsSv s0 (imageArrival i fwd s) := by
  unfold imageArrival
  repeat' first
    | (with_reducible assumption)
    | (with_reducible refine corrRefuse_sv _ _ ?_)
    | (with_reducible refine keepsSv_of (u := send _ _) (send_only (ps := noFw) _ _ (only_refl _ _) (by decide)) ?_)
    | (with_reducible refine noteReason_sv _ _ ?_)
    | (with_reducible refine setOutcome_sv _ _ _ ?_)
    | (with_reducible refine stageFails_sv _ _ _ ?_)
    | (with_reducible refine forwardImage_sv _ _ ?_)
    | (with_reducible refine endStaging_sv _ _ _ _ ?_ ?_)
    | (with_reducible refine keepsSv_when _ _ ?_ ?_)
    | (with_reducible refine keepsSv_id ?_)
    | (intro)
    | (extract_lets +onlyGivenNames s1; refine keepsSv_cut s1 ?_ ?_; unfold s1; clear s1; rotate_left; intro hs1; clear_value s1; rotate_right)
    | (extract_lets +onlyGivenNames v1)
    | (split)

theorem forwardRetry_sv {s0 : State} (accepted : Bool) (s : State) (h : KeepsSv s0 s) :
    KeepsSv s0 (forwardRetry accepted s) := by
  unfold forwardRetry
  repeat' first
    | (with_reducible assumption)
    | (with_reducible refine keepsSv_of (u := send _ _) (send_only (ps := noFw) _ _ (only_refl _ _) (by decide)) ?_)
    | (intro)
    | (extract_lets +onlyGivenNames s1; refine keepsSv_cut s1 ?_ ?_; unfold s1; clear s1; rotate_left; intro hs1; clear_value s1; rotate_right)
    | (extract_lets +onlyGivenNames v1)
    | (split)
    | (refine keepsSv_upd _ (fun m => Nat.le_refl _) ?_)

theorem scheduleArrival_sv {s0 : State} (imageId : Word) (x1 : Nat) (s : State) (h : KeepsSv s0 s) :
    KeepsSv s0 (scheduleArrival imageId x1 s) := by
  unfold scheduleArrival
  repeat' first
    | (with_reducible assumption)
    | (with_reducible refine corrRefuse_sv _ _ ?_)
    | (with_reducible refine keepsSv_of (u := forwardMsg _ _) (forwardMsg_only (ps := noFw) _ _ (only_refl _ _) (by decide)) ?_)
    | (with_reducible refine setOutcome_sv _ _ _ ?_)
    | (with_reducible refine noteReason_sv _ _ ?_)
    | (with_reducible refine takeSched_sv _ _ ?_)
    | (intro)
    | (extract_lets +onlyGivenNames s1; refine keepsSv_cut s1 ?_ ?_; unfold s1; clear s1; rotate_left; intro hs1; clear_value s1; rotate_right)
    | (extract_lets +onlyGivenNames v1)
    | (split)

theorem cancelArrival_sv {s0 : State}  (s : State) (h : KeepsSv s0 s) :
    KeepsSv s0 (cancelArrival s) := by
  unfold cancelArrival
  repeat' first
    | (with_reducible assumption)
    | (with_reducible refine keepsSv_of (u := forwardMsg _ _) (forwardMsg_only (ps := noFw) _ _ (only_refl _ _) (by decide)) ?_)
    | (with_reducible refine setOutcome_sv _ _ _ ?_)
    | (with_reducible refine noteReason_sv _ _ ?_)
    | (with_reducible refine cancelSched_sv _ _ ?_)
    | (intro)
    | (extract_lets +onlyGivenNames s1; refine keepsSv_cut s1 ?_ ?_; unfold s1; clear s1; rotate_left; intro hs1; clear_value s1; rotate_right)
    | (extract_lets +onlyGivenNames v1)
    | (split)

theorem outcomeRelay_sv {s0 : State} (pos : Nat) (st : Nat) (imageId : Word) (s : State) (h : KeepsSv s0 s) :
    KeepsSv s0 (outcomeRelay pos st imageId s) := by
  unfold outcomeRelay
  repeat' first
    | (with_reducible assumption)
    | (with_reducible refine keepsSv_of (u := send _ _) (send_only (ps := noFw) _ _ (only_refl _ _) (by decide)) ?_)
    | (with_reducible refine keepsSv_when _ _ ?_ ?_)
    | (intro)
    | (extract_lets +onlyGivenNames s1; refine keepsSv_cut s1 ?_ ?_; unfold s1; clear s1; rotate_left; intro hs1; clear_value s1; rotate_right)
    | (extract_lets +onlyGivenNames v1)
    | (split)
    | (refine keepsSv_upd _ (fun m => Nat.le_refl _) ?_)

end Sys2Proof.Machine
end

