-- ==== Sys2Proof/Laws/Sv/Boot.lean ====
section
/-! SUPPORT. Operations of Machine/Boot.lean never lower SV_MIN. -/

set_option linter.tactic.unusedName false

namespace Sys2Proof.Machine

theorem wipeVolatile_sv {s0 : State} (ok : List Nat) (s : State) (h : KeepsSv s0 s) : KeepsSv s0 (wipeVolatile ok s) := by
  have k : KeepsSv s0 (dropWork s) := keepsSv_of (dropWork_only (ps := noFw) _ (only_refl _ _) (by decide)) h
  have k := keepsSv_of (coldProt_only (ps := noFw) _ (only_refl _ _) (by decide)) k
  exact ⟨k.le⟩

theorem readRecord_sv {s0 : State} (found : BootFind) (s : State) (h : KeepsSv s0 s) :
    KeepsSv s0 (readRecord found s) := by
  unfold readRecord
  repeat' first
    | (with_reducible assumption)
    | (with_reducible refine keepsSv_of (u := updShelf _ _) (updShelf_only (ps := noFw) _ _ (only_refl _ _) (by decide)) ?_)
    | (with_reducible refine keepsSv_of (u := applySync _ _) (applySync_only (ps := noFw) _ _ (only_refl _ _) (by decide)) ?_)
    | (with_reducible refine keepsSv_of (u := applyThermal _ _) (applyThermal_only (ps := noFw) _ _ (only_refl _ _) (by decide)) ?_)
    | (intro)
    | (extract_lets +onlyGivenNames s1; refine keepsSv_cut s1 ?_ ?_; unfold s1; clear s1; rotate_left; intro hs1; clear_value s1; rotate_right)
    | (extract_lets +onlyGivenNames v1)
    | (split)
    | (refine keepsSv_upd _ (fun m => Nat.le_refl _) ?_)

theorem readCalib_sv {s0 : State} (ok : Bool) (s : State) (h : KeepsSv s0 s) :
    KeepsSv s0 (readCalib ok s) := by
  unfold readCalib
  repeat' first
    | (with_reducible assumption)
    | (intro)
    | (split)
    | (refine keepsSv_upd _ (fun m => Nat.le_refl _) ?_)

theorem startRun_sv {s0 : State}  (s : State) (h : KeepsSv s0 s) :
    KeepsSv s0 (startRun s) := by
  unfold startRun
  repeat' first
    | (with_reducible assumption)
    | (with_reducible refine keepsSv_of (u := updPower _ _) (updPower_only (ps := noFw) _ _ (only_refl _ _) (by decide)) ?_)
    | (with_reducible refine keepsSv_of (u := startFunctions _) (startFunctions_only (ps := noFw) _ (only_refl _ _) (by decide)) ?_)
    | (with_reducible refine keepsSv_of (u := updMgmt _ _) (updMgmt_only (ps := noFw) _ _ (only_refl _ _) (by decide)) ?_)
    | (intro)
    | (extract_lets +onlyGivenNames s1; refine keepsSv_cut s1 ?_ ?_; unfold s1; clear s1; rotate_left; intro hs1; clear_value s1; rotate_right)
    | (extract_lets +onlyGivenNames v1)
    | (refine keepsSv_upd _ (fun m => Nat.le_refl _) ?_)

theorem startEngines_sv {s0 : State} (found : BootFind) (s : State) (h : KeepsSv s0 s) :
    KeepsSv s0 (startEngines found s) := by
  unfold startEngines
  repeat' first
    | (with_reducible assumption)
    | (with_reducible refine startRun_sv _ ?_)
    | (with_reducible refine keepsSv_of (u := identifyFlash _ _) (identifyFlash_only (ps := noFw) _ _ (only_refl _ _) (by decide)) ?_)
    | (with_reducible refine keepsSv_of (u := settleDies _) (settleDies_only (ps := noFw) _ (only_refl _ _) (by decide)) ?_)
    | (with_reducible refine keepsSv_of (u := resumeProgress _) (resumeProgress_only (ps := noFw) _ (only_refl _ _) (by decide)) ?_)
    | (with_reducible refine keepsSv_of (u := recoverMaps _ _) (recoverMaps_only (ps := noFw) _ _ (only_refl _ _) (by decide)) ?_)
    | (with_reducible refine keepsSv_of (u := startCritical _) (startCritical_only (ps := noFw) _ (only_refl _ _) (by decide)) ?_)
    | (with_reducible refine keepsSv_of (u := startPolicy _) (startPolicy_only (ps := noFw) _ (only_refl _ _) (by decide)) ?_)
    | (with_reducible refine keepsSv_of (u := startHoldup _ _) (startHoldup_only (ps := noFw) _ _ (only_refl _ _) (by decide)) ?_)
    | (with_reducible refine keepsSv_of (u := buildAreas _) (buildAreas_only (ps := noFw) _ (only_refl _ _) (by decide)) ?_)
    | (intro)
    | (extract_lets +onlyGivenNames s1; refine keepsSv_cut s1 ?_ ?_; unfold s1; clear s1; rotate_left; intro hs1; clear_value s1; rotate_right)
    | (extract_lets +onlyGivenNames v1)
    | (split)

theorem bootMain_sv {s0 : State} (found : BootFind) (n : Nat) (s : State) (h : KeepsSv s0 s) :
    KeepsSv s0 (bootMain found n s) := by
  unfold bootMain
  repeat' first
    | (with_reducible assumption)
    | (with_reducible refine updSlotAt_sv _ _ _ ?_)
    | (with_reducible refine keepsSv_of (u := recEvent _ _) (recEvent_only (ps := noFw) _ _ (only_refl _ _) (by decide)) ?_)
    | (with_reducible refine keepsSv_of (u := updRec _ _) (updRec_only (ps := noFw) _ _ (only_refl _ _) (by decide)) ?_)
    | (with_reducible refine startEngines_sv _ _ ?_)
    | (with_reducible refine keepsSv_of (u := configFault _) (configFault_only (ps := noFw) _ (only_refl _ _) (by decide)) ?_)
    | (with_reducible refine keepsSv_when _ _ ?_ ?_)
    | (intro)
    | (extract_lets +onlyGivenNames s1; refine keepsSv_cut s1 ?_ ?_; unfold s1; clear s1; rotate_left; intro hs1; clear_value s1; rotate_right)
    | (extract_lets +onlyGivenNames v1)
    | (split)
    | (refine keepsSv_upd _ (fun m => Nat.le_refl _) ?_)

theorem enterCellar_sv {s0 : State} (cause : Nat) (s : State) (h : KeepsSv s0 s) :
    KeepsSv s0 (enterCellar cause s) := by
  unfold enterCellar
  repeat' first
    | (with_reducible assumption)
    | (with_reducible refine keepsSv_of (u := updCtl _ _ _) (updCtl_only (ps := noFw) _ _ _ (only_refl _ _) (by decide)) ?_)
    | (with_reducible refine keepsSv_of (u := cellarMailboxReset _) (cellarMailboxReset_only (ps := noFw) _ (only_refl _ _) (by decide)) ?_)
    | (with_reducible refine keepsSv_of (u := updProt _ _) (updProt_only (ps := noFw) _ _ (only_refl _ _) (by decide)) ?_)
    | (with_reducible refine keepsSv_of (u := updPower _ _) (updPower_only (ps := noFw) _ _ (only_refl _ _) (by decide)) ?_)
    | (with_reducible refine keepsSv_of (u := updRec _ _) (updRec_only (ps := noFw) _ _ (only_refl _ _) (by decide)) ?_)
    | (with_reducible refine keepsSv_forEach _ _ _ ?_ ?_)
    | (intro)
    | (extract_lets +onlyGivenNames s1; refine keepsSv_cut s1 ?_ ?_; unfold s1; clear s1; rotate_left; intro hs1; clear_value s1; rotate_right)
    | (extract_lets +onlyGivenNames k1; have _ck := fun x => (k1 x : State → State); clear _ck)
    | (extract_lets +onlyGivenNames k1; have _ck := fun x => (k1 x : State); clear _ck)
    | (extract_lets +onlyGivenNames v1)
    | (split)
    | (refine keepsSv_upd _ (fun m => Nat.le_refl _) ?_)
    | (exact keepsSv_mk rfl (by assumption))
    | (refine keepsSv_inst _ ?_)
    | (refine keepsSv_mgmt _ ?_)
    | (dsimp only [k1])

theorem failCopy_sv {s0 : State} (found : BootFind) (k : Nat) (s : State) (h : KeepsSv s0 s) :
    KeepsSv s0 (failCopy found k s) := by
  unfold failCopy
  repeat' first
    | (with_reducible assumption)
    | (with_reducible refine updSlotAt_sv _ _ _ ?_)
    | (intro)
    | (extract_lets +onlyGivenNames s1; refine keepsSv_cut s1 ?_ ?_; unfold s1; clear s1; rotate_left; intro hs1; clear_value s1; rotate_right)
    | (extract_lets +onlyGivenNames v1)
    | (split)

theorem tryImages_sv {s0 : State} (found : BootFind) (n k : Nat) (s : State) (h : KeepsSv s0 s) :
    KeepsSv s0 (tryImages found n k s) := by
  induction n generalizing k s with
  | zero => exact enterCellar_sv _ _ h
  | succ n ih =>
    unfold tryImages
    split
    · exact ih _ _ (failCopy_sv _ _ _ h)
    · split
      · exact bootMain_sv _ _ _ h
      · exact keepsSv_of (updPower_only (ps := noFw) _ _ (only_refl _ _) (by decide))
          (keepsSv_upd _ (fun m => Nat.le_refl m.svMin) h)

theorem startImages_sv {s0 : State} (found : BootFind) (s : State) (h : KeepsSv s0 s) :
    KeepsSv s0 (startImages found s) := by
  unfold startImages
  repeat' first
    | (with_reducible assumption)
    | (with_reducible refine tryImages_sv _ _ _ _ ?_)
    | (intro)

theorem readyTimeout_sv {s0 : State} (found : BootFind) (s : State) (h : KeepsSv s0 s) :
    KeepsSv s0 (readyTimeout found s) := by
  unfold readyTimeout
  repeat' first
    | (with_reducible assumption)
    | (with_reducible refine tryImages_sv _ _ _ _ ?_)
    | (intro)
    | (extract_lets +onlyGivenNames s1; refine keepsSv_cut s1 ?_ ?_; unfold s1; clear s1; rotate_left; intro hs1; clear_value s1; rotate_right)
    | (extract_lets +onlyGivenNames v1)
    | (split)

theorem startDevice_sv {s0 : State} (found : BootFind) (s : State) (h : KeepsSv s0 s) :
    KeepsSv s0 (startDevice found s) := by
  unfold startDevice
  repeat' first
    | (with_reducible assumption)
    | (with_reducible refine enterCellar_sv _ _ ?_)
    | (with_reducible refine startImages_sv _ _ ?_)
    | (intro)
    | (extract_lets +onlyGivenNames s1; refine keepsSv_cut s1 ?_ ?_; unfold s1; clear s1; rotate_left; intro hs1; clear_value s1; rotate_right)
    | (extract_lets +onlyGivenNames v1)
    | (split)
    | (refine keepsSv_pins _ ?_)

theorem newBoot_sv {s0 : State} (found : BootFind) (s : State) (h : KeepsSv s0 s) :
    KeepsSv s0 (newBoot found s) := by
  unfold newBoot
  repeat' first
    | (with_reducible assumption)
    | (with_reducible refine keepsSv_of (u := takeTrip _) (takeTrip_only (ps := noFw) _ (only_refl _ _) (by decide)) ?_)
    | (with_reducible refine keepsSv_of (u := endRecord _) (endRecord_only (ps := noFw) _ (only_refl _ _) (by decide)) ?_)
    | (with_reducible refine keepsSv_of (u := endMinutes _) (endMinutes_only (ps := noFw) _ (only_refl _ _) (by decide)) ?_)
    | (with_reducible refine keepsSv_of (u := updMedia _ _) (updMedia_only (ps := noFw) _ _ (only_refl _ _) (by decide)) ?_)
    | (with_reducible refine keepsSv_of (u := rebaseTables _ _ _) (rebaseTables_only (ps := noFw) _ _ _ (only_refl _ _) (by decide)) ?_)
    | (with_reducible refine readCalib_sv _ _ ?_)
    | (with_reducible refine readRecord_sv _ _ ?_)
    | (with_reducible refine wipeVolatile_sv _ _ ?_)
    | (with_reducible refine keepsSv_of (u := recEvents _ _ _) (recEvents_only (ps := noFw) _ _ _ (only_refl _ _) (by decide)) ?_)
    | (with_reducible refine keepsSv_of (u := openRecord _ _) (openRecord_only (ps := noFw) _ _ (only_refl _ _) (by decide)) ?_)
    | (intro)
    | (extract_lets +onlyGivenNames s1; refine keepsSv_cut s1 ?_ ?_; unfold s1; clear s1; rotate_left; intro hs1; clear_value s1; rotate_right)
    | (extract_lets +onlyGivenNames v1)
    | (split)

theorem coldStart_sv {s0 : State} (found : BootFind) (s : State) (h : KeepsSv s0 s) :
    KeepsSv s0 (coldStart found s) := by
  unfold coldStart
  repeat' first
    | (with_reducible assumption)
    | (with_reducible refine keepsSv_of (u := permanentHold _) (permanentHold_only (ps := noFw) _ (only_refl _ _) (by decide)) ?_)
    | (with_reducible refine newBoot_sv _ _ ?_)
    | (with_reducible refine keepsSv_of (u := startFlush _ _) (startFlush_only (ps := noFw) _ _ (only_refl _ _) (by decide)) ?_)
    | (with_reducible refine startDevice_sv _ _ ?_)
    | (intro)
    | (extract_lets +onlyGivenNames s1; refine keepsSv_cut s1 ?_ ?_; unfold s1; clear s1; rotate_left; intro hs1; clear_value s1; rotate_right)
    | (extract_lets +onlyGivenNames v1)
    | (split)

theorem cellarEnter_sv {s0 : State}  (s : State) (h : KeepsSv s0 s) :
    KeepsSv s0 (cellarEnter s) := by
  unfold cellarEnter
  repeat' first
    | (with_reducible assumption)
    | (with_reducible refine keepsSv_of (u := askRefused _ _ _) (askRefused_only (ps := noFw) _ _ _ (only_refl _ _) (by decide)) ?_)
    | (with_reducible refine keepsSv_of (u := discardProposals _) (discardProposals_only (ps := noFw) _ (only_refl _ _) (by decide)) ?_)
    | (with_reducible refine keepsSv_of (u := dropWork _) (dropWork_only (ps := noFw) _ (only_refl _ _) (by decide)) ?_)
    | (with_reducible refine keepsSv_of (u := cellarFlush _) (cellarFlush_only (ps := noFw) _ (only_refl _ _) (by decide)) ?_)
    | (with_reducible refine keepsSv_of (u := updProt _ _) (updProt_only (ps := noFw) _ _ (only_refl _ _) (by decide)) ?_)
    | (with_reducible refine keepsSv_of (u := askOk _ _ _) (askOk_only (ps := noFw) _ _ _ (only_refl _ _) (by decide)) ?_)
    | (with_reducible refine enterCellar_sv _ _ ?_)
    | (intro)
    | (extract_lets +onlyGivenNames s1; refine keepsSv_cut s1 ?_ ?_; unfold s1; clear s1; rotate_left; intro hs1; clear_value s1; rotate_right)
    | (extract_lets +onlyGivenNames v1)
    | (split)
    | (refine keepsSv_upd _ (fun m => Nat.le_refl _) ?_)

theorem leaveCellar_sv {s0 : State} (found : BootFind) (s : State) (h : KeepsSv s0 s) :
    KeepsSv s0 (leaveCellar found s) := by
  unfold leaveCellar
  repeat' first
    | (with_reducible assumption)
    | (with_reducible refine keepsSv_of (u := updProt _ _) (updProt_only (ps := noFw) _ _ (only_refl _ _) (by decide)) ?_)
    | (with_reducible refine keepsSv_of (u := cellarMailboxReset _) (cellarMailboxReset_only (ps := noFw) _ (only_refl _ _) (by decide)) ?_)
    | (with_reducible refine startImages_sv _ _ ?_)
    | (with_reducible refine keepsSv_of (u := updPower _ _) (updPower_only (ps := noFw) _ _ (only_refl _ _) (by decide)) ?_)
    | (intro)
    | (extract_lets +onlyGivenNames s1; refine keepsSv_cut s1 ?_ ?_; unfold s1; clear s1; rotate_left; intro hs1; clear_value s1; rotate_right)
    | (extract_lets +onlyGivenNames v1)
    | (split)
    | (refine keepsSv_upd _ (fun m => Nat.le_refl _) ?_)

theorem cellarExit_sv {s0 : State} (found : BootFind) (s : State) (h : KeepsSv s0 s) :
    KeepsSv s0 (cellarExit found s) := by
  unfold cellarExit
  repeat' first
    | (with_reducible assumption)
    | (refine keepsSv_of (drawNat_only2 (ps := noFw) (only_refl _ _) (by decide) (by assumption)) ?_)
    | (with_reducible refine keepsSv_of (drawNat_only (ps := noFw) (only_refl _ _) (by decide)) ?_)
    | (with_reducible refine keepsSv_of (u := askRefused _ _ _) (askRefused_only (ps := noFw) _ _ _ (only_refl _ _) (by decide)) ?_)
    | (with_reducible refine leaveCellar_sv _ _ ?_)
    | (with_reducible refine keepsSv_of (u := askOk _ _ _) (askOk_only (ps := noFw) _ _ _ (only_refl _ _) (by decide)) ?_)
    | (intro)
    | (extract_lets +onlyGivenNames s1; refine keepsSv_cut s1 ?_ ?_; unfold s1; clear s1; rotate_left; intro hs1; clear_value s1; rotate_right)
    | (extract_lets +onlyGivenNames v1)
    | (split)

theorem cellarAutoExit_sv {s0 : State} (found : BootFind) (s : State) (h : KeepsSv s0 s) :
    KeepsSv s0 (cellarAutoExit found s) := by
  unfold cellarAutoExit
  repeat' first
    | (with_reducible assumption)
    | (with_reducible refine leaveCellar_sv _ _ ?_)
    | (intro)
    | (split)

end Sys2Proof.Machine
end

