-- ==== Sys2Proof/Laws/Sv/Tables.lean ====
section
/-! SUPPORT. Operations of Machine/Tables.lean never lower SV_MIN. -/

set_option linter.tactic.unusedName false

namespace Sys2Proof.Machine

theorem rebuildLine_sv {s0 : State} (l : JLine) (s : State) (h : KeepsSv s0 s) : KeepsSv s0 (rebuildLine l s) := by
  cases l with
  | ring q => exact keepsSv_of (rewriteRec_only (ps := noFw) _ _ (only_refl _ _) (by decide)) h
  | home k => exact keepsSv_of (writeLine_only (ps := noFw) _ _ (only_refl _ _) (by decide)) h
  | cfg b _ => cases b <;> exact ⟨h.le⟩
  | calib _ => exact h
  | ages i => exact keepsSv_of (dropAges_only (ps := noFw) _ _ (only_refl _ _) (by decide)) h
  | mantel i => exact keepsSv_of (recEvent_only (ps := noFw) _ _ (only_refl _ _) (by decide)) (keepsSv_recd _ h)
  | attic i => exact keepsSv_recd _ h
  | since _ => exact h

theorem readLine_sv {s0 : State} (x0 : LineFind) (s : State) (h : KeepsSv s0 s) :
    KeepsSv s0 (readLine x0 s) := by
  unfold readLine
  repeat' first
    | (with_reducible assumption)
    | (with_reducible refine rebuildLine_sv _ _ ?_)
    | (with_reducible refine keepsSv_of (u := correctLine _ _) (correctLine_only (ps := noFw) _ _ (only_refl _ _) (by decide)) ?_)
    | (intro)
    | (split)

theorem readLines_sv {s0 : State} (l : List LineFind) (s : State) (h : KeepsSv s0 s) :
    KeepsSv s0 (readLines l s) := by
  unfold readLines
  repeat' first
    | (with_reducible assumption)
    | (with_reducible refine readLine_sv _ _ ?_)
    | (with_reducible refine keepsSv_forEach _ _ _ ?_ ?_)
    | (intro)
    | (split)

theorem homeLineWrite_sv {s0 : State} (line : Nat) (readBackOk : Bool) (finds : List LineFind) (s : State) (h : KeepsSv s0 s) :
    KeepsSv s0 (homeLineWrite line readBackOk finds s) := by
  unfold homeLineWrite
  repeat' first
    | (with_reducible assumption)
    | (with_reducible refine keepsSv_of (u := replaceLine _ _) (replaceLine_only (ps := noFw) _ _ (only_refl _ _) (by decide)) ?_)
    | (with_reducible refine readLines_sv _ _ ?_)
    | (with_reducible refine keepsSv_of (u := advanceTail _) (advanceTail_only (ps := noFw) _ (only_refl _ _) (by decide)) ?_)
    | (with_reducible refine keepsSv_of (u := updMedia _ _) (updMedia_only (ps := noFw) _ _ (only_refl _ _) (by decide)) ?_)
    | (with_reducible refine keepsSv_of (u := writeLine _ _) (writeLine_only (ps := noFw) _ _ (only_refl _ _) (by decide)) ?_)
    | (with_reducible refine keepsSv_when _ _ ?_ ?_)
    | (intro)
    | (extract_lets +onlyGivenNames s1; refine keepsSv_cut s1 ?_ ?_; unfold s1; clear s1; rotate_left; intro hs1; clear_value s1; rotate_right)
    | (extract_lets +onlyGivenNames v1)
    | (split)

end Sys2Proof.Machine
end

