-- ==== Sys2Proof/Laws/Sv/ConfigRec.lean ====
section
/-! SUPPORT. Operations of Machine/ConfigRec.lean never lower SV_MIN. -/

set_option linter.tactic.unusedName false

namespace Sys2Proof.Machine

theorem cfgCommit_sv {s0 : State} (r : Posted) (b : List Byte) (s : State) (h : KeepsSv s0 s) :
    KeepsSv s0 (cfgCommit r b s) := by
  unfold cfgCommit
  dsimp only
  split
  · exact keepsSv_of (commitFault_only2 (ps := noFw) _ _ _ _ (only_refl _ _) (by decide) (by assumption)) h
  · exact keepsSv_of (replyOk_only (ps := noFw) _ _ _ (only_refl _ _) (by decide))
      (keepsSv_upd _ (fun m => Nat.le_refl m.svMin) (writeCfg_sv _ _ h))

theorem applyCfg_sv {s0 : State}  (s : State) (h : KeepsSv s0 s) :
    KeepsSv s0 (applyCfg s) := by
  unfold applyCfg
  repeat' first
    | (with_reducible assumption)
    | (with_reducible refine keepsSv_of (u := applySync _ _) (applySync_only (ps := noFw) _ _ (only_refl _ _) (by decide)) ?_)
    | (with_reducible refine keepsSv_of (u := applyThermal _ _) (applyThermal_only (ps := noFw) _ _ (only_refl _ _) (by decide)) ?_)
    | (intro)
    | (extract_lets +onlyGivenNames s1; refine keepsSv_cut s1 ?_ ?_; unfold s1; clear s1; rotate_left; intro hs1; clear_value s1; rotate_right)
    | (extract_lets +onlyGivenNames v1)
    | (split)
    | (refine keepsSv_upd _ (fun m => Nat.le_refl _) ?_)

theorem cfgRead_sv {s0 : State} (dma : Dma) (finds : List LineFind) (r : Posted) (s : State) (h : KeepsSv s0 s) :
    KeepsSv s0 (cfgRead dma finds r s) := by
  unfold cfgRead
  repeat' first
    | (with_reducible assumption)
    | (with_reducible refine readLines_sv _ _ ?_)
    | (with_reducible refine keepsSv_of (u := replyRefused _ _ _) (replyRefused_only (ps := noFw) _ _ _ (only_refl _ _) (by decide)) ?_)
    | (with_reducible refine descWrite_sv _ _ _ _ _ ?_ ?_)
    | (with_reducible refine keepsSv_of (u := replyOk _ _ _) (replyOk_only (ps := noFw) _ _ _ (only_refl _ _) (by decide)) ?_)
    | (intro)
    | (extract_lets +onlyGivenNames s1; refine keepsSv_cut s1 ?_ ?_; unfold s1; clear s1; rotate_left; intro hs1; clear_value s1; rotate_right)
    | (extract_lets +onlyGivenNames v1)
    | (split)

theorem calRead_sv {s0 : State} (dma : Dma) (finds : List LineFind) (r : Posted) (s : State) (h : KeepsSv s0 s) :
    KeepsSv s0 (calRead dma finds r s) := by
  unfold calRead
  repeat' first
    | (with_reducible assumption)
    | (with_reducible refine readLines_sv _ _ ?_)
    | (refine keepsSv_of (drawNat_only2 (ps := noFw) (only_refl _ _) (by decide) (by assumption)) ?_)
    | (with_reducible refine keepsSv_of (drawNat_only (ps := noFw) (only_refl _ _) (by decide)) ?_)
    | (with_reducible refine descWrite_sv _ _ _ _ _ ?_ ?_)
    | (with_reducible refine keepsSv_of (u := replyOk _ _ _) (replyOk_only (ps := noFw) _ _ _ (only_refl _ _) (by decide)) ?_)
    | (intro)
    | (extract_lets +onlyGivenNames s1; refine keepsSv_cut s1 ?_ ?_; unfold s1; clear s1; rotate_left; intro hs1; clear_value s1; rotate_right)
    | (extract_lets +onlyGivenNames v1)
    | (split)

theorem calWrite_sv {s0 : State} (b : List Byte) (s : State) (h : KeepsSv s0 s) :
    KeepsSv s0 (calWrite b s) := by
  unfold calWrite
  repeat' first
    | (with_reducible assumption)
    | (with_reducible refine keepsSv_of (u := recEvent _ _) (recEvent_only (ps := noFw) _ _ (only_refl _ _) (by decide)) ?_)
    | (intro)
    | (extract_lets +onlyGivenNames s1; refine keepsSv_cut s1 ?_ ?_; unfold s1; clear s1; rotate_left; intro hs1; clear_value s1; rotate_right)
    | (extract_lets +onlyGivenNames v1)
    | (refine keepsSv_upd _ (fun m => Nat.le_refl _) ?_)

end Sys2Proof.Machine
end

