-- ==== Sys2Proof/Laws/Sv/Protect.lean ====
section
/-! SUPPORT. Operations of Machine/Protect.lean never lower SV_MIN. -/

set_option linter.tactic.unusedName false

namespace Sys2Proof.Machine

theorem applyChange_sv {s0 : State} (p : Proposal) (s : State) (h : KeepsSv s0 s) :
    KeepsSv s0 (applyChange p s) := by
  unfold applyChange
  repeat' first
    | (with_reducible assumption)
    | (with_reducible refine keepsSv_of (u := setIsolation _ _ _) (setIsolation_only (ps := noFw) _ _ _ (only_refl _ _) (by decide)) ?_)
    | (with_reducible refine keepsSv_of (u := updProt _ _) (updProt_only (ps := noFw) _ _ (only_refl _ _) (by decide)) ?_)
    | (with_reducible refine keepsSv_of (u := emptySlot _ _) (emptySlot_only (ps := noFw) _ _ (only_refl _ _) (by decide)) ?_)
    | (with_reducible refine cancelSched_sv _ _ ?_)
    | (intro)
    | (extract_lets +onlyGivenNames s1; refine keepsSv_cut s1 ?_ ?_; unfold s1; clear s1; rotate_left; intro hs1; clear_value s1; rotate_right)
    | (extract_lets +onlyGivenNames v1)
    | (split)

theorem applyOne_sv {s0 : State} (k : Confirmed) (s : State) (h : KeepsSv s0 s) :
    KeepsSv s0 (applyOne k s) := by
  unfold applyOne
  repeat' first
    | (with_reducible assumption)
    | (with_reducible refine keepsSv_of (u := updProt _ _) (updProt_only (ps := noFw) _ _ (only_refl _ _) (by decide)) ?_)
    | (with_reducible refine keepsSv_of (u := confirmReply _ _ _ _) (confirmReply_only (ps := noFw) _ _ _ _ (only_refl _ _) (by decide)) ?_)
    | (with_reducible refine applyChange_sv _ _ ?_)
    | (intro)
    | (extract_lets +onlyGivenNames s1; refine keepsSv_cut s1 ?_ ?_; unfold s1; clear s1; rotate_left; intro hs1; clear_value s1; rotate_right)
    | (extract_lets +onlyGivenNames k1; have _ck := fun x => (k1 x : State → State); clear _ck)
    | (extract_lets +onlyGivenNames k1; have _ck := fun x => (k1 x : State); clear _ck)
    | (extract_lets +onlyGivenNames v1)
    | (split)
    | (dsimp only [k1])

theorem applyProtection_sv {s0 : State}  (s : State) (h : KeepsSv s0 s) :
    KeepsSv s0 (applyProtection s) := by
  unfold applyProtection
  repeat' first
    | (with_reducible assumption)
    | (with_reducible refine keepsSv_of (u := updProt _ _) (updProt_only (ps := noFw) _ _ (only_refl _ _) (by decide)) ?_)
    | (with_reducible refine applyOne_sv _ _ ?_)
    | (with_reducible refine keepsSv_forEach _ _ _ ?_ ?_)
    | (intro)
    | (extract_lets +onlyGivenNames s1; refine keepsSv_cut s1 ?_ ?_; unfold s1; clear s1; rotate_left; intro hs1; clear_value s1; rotate_right)
    | (extract_lets +onlyGivenNames v1)

end Sys2Proof.Machine
end

