-- ==== Sys2Proof/Laws/Sv/Boundary.lean ====
section
/-! SUPPORT. Operations of Machine/Boundary.lean never lower SV_MIN. -/

set_option linter.tactic.unusedName false

namespace Sys2Proof.Machine

theorem timeouts_sv {s0 : State}  (s : State) (h : KeepsSv s0 s) :
    KeepsSv s0 (timeouts s) := by
  unfold timeouts
  repeat' first
    | (with_reducible assumption)
    | (with_reducible refine keepsSv_of (u := lifetimeExpiry _ _) (lifetimeExpiry_only (ps := noFw) _ _ (only_refl _ _) (by decide)) ?_)
    | (with_reducible refine holdExpiry_sv _ ?_)
    | (with_reducible refine keepsSv_of (u := rowTimeouts _) (rowTimeouts_only (ps := noFw) _ (only_refl _ _) (by decide)) ?_)
    | (with_reducible refine keepsSv_of (u := syncTimeout _) (syncTimeout_only (ps := noFw) _ (only_refl _ _) (by decide)) ?_)
    | (with_reducible refine keepsSv_of (u := lockQualify _) (lockQualify_only (ps := noFw) _ (only_refl _ _) (by decide)) ?_)
    | (with_reducible refine keepsSv_of (u := holdover _) (holdover_only (ps := noFw) _ (only_refl _ _) (by decide)) ?_)
    | (with_reducible refine keepsSv_of (u := expireClaim _) (expireClaim_only (ps := noFw) _ (only_refl _ _) (by decide)) ?_)
    | (with_reducible refine keepsSv_of (u := expireProposal _ _) (expireProposal_only (ps := noFw) _ _ (only_refl _ _) (by decide)) ?_)
    | (with_reducible refine keepsSv_of (u := stuckSensors _) (stuckSensors_only (ps := noFw) _ (only_refl _ _) (by decide)) ?_)
    | (with_reducible refine keepsSv_of (u := trackerWindowEnd _) (trackerWindowEnd_only (ps := noFw) _ (only_refl _ _) (by decide)) ?_)
    | (with_reducible refine keepsSv_of (u := statusTimeout _ _) (statusTimeout_only (ps := noFw) _ _ (only_refl _ _) (by decide)) ?_)
    | (with_reducible refine keepsSv_of (u := aggregationExpiry _ _ _) (aggregationExpiry_only (ps := noFw) _ _ _ (only_refl _ _) (by decide)) ?_)
    | (with_reducible refine keepsSv_of (u := entryAbort _) (entryAbort_only (ps := noFw) _ (only_refl _ _) (by decide)) ?_)
    | (with_reducible refine keepsSv_of (u := idleExpiry _) (idleExpiry_only (ps := noFw) _ (only_refl _ _) (by decide)) ?_)
    | (with_reducible refine keepsSv_when _ _ ?_ ?_)
    | (with_reducible refine keepsSv_forEach _ _ _ ?_ ?_)
    | (intro)
    | (extract_lets +onlyGivenNames s1; refine keepsSv_cut s1 ?_ ?_; unfold s1; clear s1; rotate_left; intro hs1; clear_value s1; rotate_right)
    | (extract_lets +onlyGivenNames v1)

theorem passedWork_sv {s0 : State}  (s : State) (h : KeepsSv s0 s) :
    KeepsSv s0 (passedWork s) := by
  unfold passedWork
  repeat' first
    | (with_reducible assumption)
    | (with_reducible refine keepsSv_of (u := updPower _ _) (updPower_only (ps := noFw) _ _ (only_refl _ _) (by decide)) ?_)
    | (with_reducible refine timeouts_sv _ ?_)
    | (with_reducible refine keepsSv_of (u := passPeriods _ _) (passPeriods_only (ps := noFw) _ _ (only_refl _ _) (by decide)) ?_)
    | (with_reducible refine keepsSv_of (u := passMinutes _ _ _ _) (passMinutes_only (ps := noFw) _ _ _ _ (only_refl _ _) (by decide)) ?_)
    | (intro)
    | (extract_lets +onlyGivenNames s1; refine keepsSv_cut s1 ?_ ?_; unfold s1; clear s1; rotate_left; intro hs1; clear_value s1; rotate_right)
    | (extract_lets +onlyGivenNames v1)
    | (split)

theorem applyDue_sv {s0 : State}  (s : State) (h : KeepsSv s0 s) :
    KeepsSv s0 (applyDue s) := by
  unfold applyDue
  repeat' first
    | (with_reducible assumption)
    | (with_reducible refine keepsSv_of (u := applySteps _) (applySteps_only (ps := noFw) _ (only_refl _ _) (by decide)) ?_)
    | (with_reducible refine keepsSv_of (u := applyShares _) (applyShares_only (ps := noFw) _ (only_refl _ _) (by decide)) ?_)
    | (with_reducible refine applyProtection_sv _ ?_)
    | (with_reducible refine startActivation_sv _ ?_)
    | (with_reducible refine finishHold_sv _ ?_)
    | (with_reducible refine keepsSv_of (u := applyMarks _) (applyMarks_only (ps := noFw) _ (only_refl _ _) (by decide)) ?_)
    | (with_reducible refine applyCfg_sv _ ?_)
    | (with_reducible refine keepsSv_of (u := applyPsDue _) (applyPsDue_only (ps := noFw) _ (only_refl _ _) (by decide)) ?_)
    | (with_reducible refine keepsSv_of (u := applyLb _) (applyLb_only (ps := noFw) _ (only_refl _ _) (by decide)) ?_)
    | (with_reducible refine keepsSv_of (u := applyPolicy _) (applyPolicy_only (ps := noFw) _ (only_refl _ _) (by decide)) ?_)
    | (with_reducible refine resumeAfterExpiry_sv _ ?_)
    | (with_reducible refine keepsSv_of (u := resumeFetch _) (resumeFetch_only (ps := noFw) _ (only_refl _ _) (by decide)) ?_)
    | (with_reducible refine keepsSv_of (u := goLives _) (goLives_only (ps := noFw) _ (only_refl _ _) (by decide)) ?_)
    | (intro)
    | (extract_lets +onlyGivenNames s1; refine keepsSv_cut s1 ?_ ?_; unfold s1; clear s1; rotate_left; intro hs1; clear_value s1; rotate_right)
    | (extract_lets +onlyGivenNames v1)

theorem countBoundary_sv {s0 : State} (phase : Int) (s : State) (h : KeepsSv s0 s) :
    KeepsSv s0 (countBoundary phase s) := by
  unfold countBoundary
  repeat' first
    | (with_reducible assumption)
    | (with_reducible refine keepsSv_of (u := countFrame _) (countFrame_only (ps := noFw) _ (only_refl _ _) (by decide)) ?_)
    | (with_reducible refine keepsSv_of (u := pauseItems _) (pauseItems_only (ps := noFw) _ (only_refl _ _) (by decide)) ?_)
    | (with_reducible refine keepsSv_of (u := trackPhase _ _) (trackPhase_only (ps := noFw) _ _ (only_refl _ _) (by decide)) ?_)
    | (with_reducible refine passedWork_sv _ ?_)
    | (with_reducible refine keepsSv_of (u := busClose _) (busClose_only (ps := noFw) _ (only_refl _ _) (by decide)) ?_)
    | (with_reducible refine keepsSv_of (u := increment _) (increment_only (ps := noFw) _ (only_refl _ _) (by decide)) ?_)
    | (with_reducible refine keepsSv_of (u := shelfStep _) (shelfStep_only (ps := noFw) _ (only_refl _ _) (by decide)) ?_)
    | (with_reducible refine keepsSv_of (u := noteMeters _) (noteMeters_only (ps := noFw) _ (only_refl _ _) (by decide)) ?_)
    | (with_reducible refine keepsSv_of (u := periodEnd _ _ _) (periodEnd_only (ps := noFw) _ _ _ (only_refl _ _) (by decide)) ?_)
    | (with_reducible refine keepsSv_of (u := minuteEnd _ _) (minuteEnd_only (ps := noFw) _ _ (only_refl _ _) (by decide)) ?_)
    | (with_reducible refine keepsSv_of (u := meterSample _) (meterSample_only (ps := noFw) _ (only_refl _ _) (by decide)) ?_)
    | (intro)
    | (extract_lets +onlyGivenNames s1; refine keepsSv_cut s1 ?_ ?_; unfold s1; clear s1; rotate_left; intro hs1; clear_value s1; rotate_right)
    | (extract_lets +onlyGivenNames v1)

theorem boundary_sv {s0 : State} (phase : Int) (s : State) (h : KeepsSv s0 s) :
    KeepsSv s0 (boundary phase s) := by
  unfold boundary
  repeat' first
    | (with_reducible assumption)
    | (with_reducible refine timeouts_sv _ ?_)
    | (with_reducible refine applyDue_sv _ ?_)
    | (with_reducible refine keepsSv_of (u := endFrame _) (endFrame_only (ps := noFw) _ (only_refl _ _) (by decide)) ?_)
    | (with_reducible refine countBoundary_sv _ _ ?_)
    | (with_reducible refine keepsSv_of (u := openFrame _) (openFrame_only (ps := noFw) _ (only_refl _ _) (by decide)) ?_)
    | (with_reducible refine keepsSv_of (u := refill _) (refill_only (ps := noFw) _ (only_refl _ _) (by decide)) ?_)
    | (with_reducible refine keepsSv_of (u := beginWork _) (beginWork_only (ps := noFw) _ (only_refl _ _) (by decide)) ?_)
    | (with_reducible refine keepsSv_of (u := scrubFrame _) (scrubFrame_only (ps := noFw) _ (only_refl _ _) (by decide)) ?_)
    | (intro)
    | (extract_lets +onlyGivenNames s1; refine keepsSv_cut s1 ?_ ?_; unfold s1; clear s1; rotate_left; intro hs1; clear_value s1; rotate_right)
    | (extract_lets +onlyGivenNames v1)
    | (split)

theorem framePulse_sv {s0 : State} (phase : Int) (s : State) (h : KeepsSv s0 s) :
    KeepsSv s0 (framePulse phase s) := by
  unfold framePulse
  repeat' first
    | (with_reducible assumption)
    | (with_reducible refine keepsSv_of (u := aonFrame _) (aonFrame_only (ps := noFw) _ (only_refl _ _) (by decide)) ?_)
    | (with_reducible refine keepsSv_of (u := increment _) (increment_only (ps := noFw) _ (only_refl _ _) (by decide)) ?_)
    | (with_reducible refine keepsSv_of (u := endFrame _) (endFrame_only (ps := noFw) _ (only_refl _ _) (by decide)) ?_)
    | (with_reducible refine countBoundary_sv _ _ ?_)
    | (with_reducible refine boundary_sv _ _ ?_)
    | (intro)
    | (split)

end Sys2Proof.Machine
end

