-- ==== Sys2Proof/Laws/Sv/Integrity.lean ====
section
/-! SUPPORT. Operations of Machine/Integrity.lean never lower SV_MIN. -/

set_option linter.tactic.unusedName false

namespace Sys2Proof.Machine

theorem eccRow_sv {s0 : State} (sub : Nat) (body : Posted → State → State) (s : State) (h : KeepsSv s0 s) (hf0 : ∀ a t, KeepsSv s0 t → KeepsSv s0 (body a t)) :
    KeepsSv s0 (eccRow sub body s) := by
  unfold eccRow
  repeat' first
    | (with_reducible assumption)
    | (with_reducible refine hf0 _ _ ?_)
    | (with_reducible refine scp_sv _ _ _ _ _ ?_ ?_)
    | (with_reducible refine keepsSv_of (u := replyRefused _ _ _) (replyRefused_only (ps := noFw) _ _ _ (only_refl _ _) (by decide)) ?_)
    | (with_reducible refine keepsSv_of (u := replyConflict _ _ _ _) (replyConflict_only (ps := noFw) _ _ _ _ (only_refl _ _) (by decide)) ?_)
    | (with_reducible refine keepsSv_of (u := replyInvalid _ _ _) (replyInvalid_only (ps := noFw) _ _ _ (only_refl _ _) (by decide)) ?_)
    | (intro)
    | (split)

end Sys2Proof.Machine
end

