-- ==== Sys2Proof/Laws/Sv/Owner.lean ====
section
/-! SUPPORT. Operations of Machine/Owner.lean never lower SV_MIN. -/

set_option linter.tactic.unusedName false

namespace Sys2Proof.Machine

theorem ownerWakes_sv {s0 : State} (body : State → State) (s : State) (h : KeepsSv s0 s) (hf0 : ∀ t, KeepsSv s0 t → KeepsSv s0 (body t)) :
    KeepsSv s0 (ownerWakes body s) := by
  unfold ownerWakes
  repeat' first
    | (with_reducible assumption)
    | (with_reducible refine hf0 _ ?_)
    | (with_reducible refine keepsSv_of (u := wake _) (wake_only (ps := noFw) _ (only_refl _ _) (by decide)) ?_)
    | (intro)
    | (split)

theorem ownerQuiet_sv {s0 : State} (l : Sideband) (body : State → State) (s : State) (h : KeepsSv s0 s) (hf0 : ∀ t, KeepsSv s0 t → KeepsSv s0 (body t)) :
    KeepsSv s0 (ownerQuiet l body s) := by
  unfold ownerQuiet
  repeat' first
    | (with_reducible assumption)
    | (with_reducible refine hf0 _ ?_)
    | (with_reducible refine keepsSv_of (u := spdmUnsupported _) (spdmUnsupported_only (ps := noFw) _ (only_refl _ _) (by decide)) ?_)
    | (intro)
    | (split)

theorem ownerRow_sv {s0 : State} (l : Sideband) (body : State → State) (s : State) (h : KeepsSv s0 s) (hf0 : ∀ t, KeepsSv s0 t → KeepsSv s0 (body t)) :
    KeepsSv s0 (ownerRow l body s) := by
  unfold ownerRow
  repeat' first
    | (with_reducible assumption)
    | (with_reducible refine hf0 _ ?_)
    | (with_reducible refine ownerQuiet_sv _ _ _ ?_ ?_)
    | (with_reducible refine ownerWakes_sv _ _ ?_ ?_)
    | (intro)

theorem ownerClaimRow_sv {s0 : State} (l : Sideband) (body : State → State) (s : State) (h : KeepsSv s0 s) (hf0 : ∀ t, KeepsSv s0 t → KeepsSv s0 (body t)) :
    KeepsSv s0 (ownerClaimRow l body s) := by
  unfold ownerClaimRow
  repeat' first
    | (with_reducible assumption)
    | (with_reducible refine hf0 _ ?_)
    | (with_reducible refine keepsSv_of (u := spdmUnsupported _) (spdmUnsupported_only (ps := noFw) _ (only_refl _ _) (by decide)) ?_)
    | (intro)
    | (split)

end Sys2Proof.Machine
end

