-- ==== Sys2Proof/Laws/Sv/Queues.lean ====
section
/-! SUPPORT. Operations of Machine/Queues.lean never lower SV_MIN. -/

set_option linter.tactic.unusedName false

namespace Sys2Proof.Machine

theorem admin_sv {s0 : State} (opc : Nat) (who : Access) (body : Item → State → State) (id : CmdId) (s : State) (h : KeepsSv s0 s) (hf0 : ∀ a t, KeepsSv s0 t → KeepsSv s0 (body a t)) :
    KeepsSv s0 (admin opc who body id s) := by
  unfold admin
  repeat' first
    | (with_reducible assumption)
    | (with_reducible refine hf0 _ _ ?_)
    | (with_reducible refine keepsSv_of (u := takeUp _ _) (takeUp_only (ps := noFw) _ _ (only_refl _ _) (by decide)) ?_)
    | (with_reducible refine keepsSv_of (u := finishBad _ _ _) (finishBad_only (ps := noFw) _ _ _ (only_refl _ _) (by decide)) ?_)
    | (with_reducible refine keepsSv_id ?_)
    | (intro)
    | (extract_lets +onlyGivenNames s1; refine keepsSv_cut s1 ?_ ?_; unfold s1; clear s1; rotate_left; intro hs1; clear_value s1; rotate_right)
    | (extract_lets +onlyGivenNames v1)
    | (split)

theorem setFeature_sv {s0 : State} (fid : Nat) (mgr : Bool) (body : Item → State → State) (id : CmdId) (s : State) (h : KeepsSv s0 s) (hf0 : ∀ a t, KeepsSv s0 t → KeepsSv s0 (body a t)) :
    KeepsSv s0 (setFeature fid mgr body id s) := by
  unfold setFeature
  repeat' first
    | (with_reducible assumption)
    | (with_reducible refine hf0 _ _ ?_)
    | (with_reducible refine admin_sv _ _ _ _ _ ?_ ?_)
    | (with_reducible refine keepsSv_of (u := finishBad _ _ _) (finishBad_only (ps := noFw) _ _ _ (only_refl _ _) (by decide)) ?_)
    | (with_reducible refine keepsSv_id ?_)
    | (intro)
    | (split)

end Sys2Proof.Machine
end

