-- ==== Sys2Proof/Laws/Sv/Recorder.lean ====
section
/-! SUPPORT. Operations of Machine/Recorder.lean never lower SV_MIN. -/

set_option linter.tactic.unusedName false

namespace Sys2Proof.Machine

theorem descWriteFinal_sv {s0 : State} (r : Posted) (dma : Dma) (out : List Byte) (x3 : State → State) (s : State) (h : KeepsSv s0 s) (hf0 : ∀ t, KeepsSv s0 t → KeepsSv s0 (x3 t)) :
    KeepsSv s0 (descWriteFinal r dma out x3 s) := by
  unfold descWriteFinal
  repeat' first
    | (with_reducible assumption)
    | (with_reducible refine hf0 _ ?_)
    | (with_reducible refine descDma_sv _ _ _ _ _ _ ?_ ?_ ?_)
    | (with_reducible refine keepsSv_of (u := finalReply _ _ _ _ _) (finalReply_only (ps := noFw) _ _ _ _ _ (only_refl _ _) (by decide)) ?_)
    | (intro)

theorem recRead_sv {s0 : State} (dma : Dma) (finds : List LineFind) (r : Posted) (s : State) (h : KeepsSv s0 s) :
    KeepsSv s0 (recRead dma finds r s) := by
  unfold recRead
  repeat' first
    | (with_reducible assumption)
    | (with_reducible refine readLines_sv _ _ ?_)
    | (refine keepsSv_of (drawNat_only2 (ps := noFw) (only_refl _ _) (by decide) (by assumption)) ?_)
    | (with_reducible refine keepsSv_of (drawNat_only (ps := noFw) (only_refl _ _) (by decide)) ?_)
    | (with_reducible refine descWriteFinal_sv _ _ _ _ _ ?_ ?_)
    | (with_reducible refine keepsSv_of (u := finalReply _ _ _ _ _) (finalReply_only (ps := noFw) _ _ _ _ _ (only_refl _ _) (by decide)) ?_)
    | (with_reducible refine keepsSv_of (u := replyPending _ _) (replyPending_only (ps := noFw) _ _ (only_refl _ _) (by decide)) ?_)
    | (intro)
    | (extract_lets +onlyGivenNames s1; refine keepsSv_cut s1 ?_ ?_; unfold s1; clear s1; rotate_left; intro hs1; clear_value s1; rotate_right)
    | (extract_lets +onlyGivenNames v1)
    | (split)

end Sys2Proof.Machine
end

