-- ==== Sys2Proof/Laws/Sv/Sequencer.lean ====
section
/-! SUPPORT. Operations of Machine/Sequencer.lean never lower SV_MIN. -/

set_option linter.tactic.unusedName false

namespace Sys2Proof.Machine

theorem railGood_sv {s0 : State} (g : Nat) (s : State) (h : KeepsSv s0 s) :
    KeepsSv s0 (railGood g s) := by
  unfold railGood
  repeat' first
    | (with_reducible assumption)
    | (with_reducible refine keepsSv_of (u := updPower _ _) (updPower_only (ps := noFw) _ _ (only_refl _ _) (by decide)) ?_)
    | (with_reducible refine keepsSv_of (u := setPwrEn _ _) (setPwrEn_only (ps := noFw) _ _ (only_refl _ _) (by decide)) ?_)
    | (intro)
    | (extract_lets +onlyGivenNames s1; refine keepsSv_cut s1 ?_ ?_; unfold s1; clear s1; rotate_left; intro hs1; clear_value s1; rotate_right)
    | (extract_lets +onlyGivenNames v1)
    | (split)
    | (refine keepsSv_upd _ (fun m => Nat.le_refl _) ?_)

end Sys2Proof.Machine
end

