-- ==== Sys2Proof/WellFormed.lean ====
section
/-! DEFINITION. Which commands are well formed: their operands lie in the ranges that the spec gives them. Every
meaning is total; a command that is not well formed is one that no party of the spec can send. -/

namespace Sys2Proof

open Sys2Proof.Machine

/-- A function number: VFs 0 to 2,047, the PFs 2,048 and 2,049 (R93). -/
def fnOk (fn : Nat) : Bool := decide (fn ≤ 2049)

/-- A command identifier: a function, a submission queue and a CID (R98). -/
def cmdOk (id : CmdId) : Bool := fnOk id.fn && decide (id.sq < 2 ^ 16) && decide (id.cid < 2 ^ 16)

/-- An access of the device window that lies in its 64 KiB, of a width a bus can give it (R535, R537). -/
def accessOk (off size : Nat) : Bool := [1, 2, 4, 8].contains size && decide (off + size ≤ 65536)

/-- A memory that scrub passes over: DRAM channels 0 to 5 (R317). -/
def dramOk (ch : Nat) : Bool := decide (ch ≤ 5)

/-- An SRAM bank class, 0x10 to 0x17 (R317). -/
def sramOk (t : Nat) : Bool := decide (0x10 ≤ t) && decide (t ≤ 0x17)

/-- A die number, 0 to 4,095 (R55, R194). -/
def dieOk (d : Nat) : Bool := decide (d < 4096)

/-- A device zone number (R131). -/
def zoneOk (z : Nat) : Bool := decide (z < 4194304)

/-- An instance number (R330). -/
def instOk (n : Nat) : Bool := decide (n < 2048)

/-- The operands of a command lie in their ranges. -/
def Instr.wellFormed : Instr → Bool
  | .planCommit late => late.all fun l => decide (l < 64)
  | .laneReset lane => decide (lane < 64)
  | .corridorLinkUp _ count => decide (count < 2 ^ 64)
  | .registerWrite _ off size v => accessOk off size && decide (v < 2 ^ (8 * size))
  | .latchRead agent n | .latchWrite agent n _ => decide (1 ≤ agent) && decide (agent ≤ 20) && decide (n ≤ 15)
  | .latchInspectRead _ n off size => decide (n ≤ 15) && [1, 2].contains size && decide (off + size ≤ 4)
  | .noticeDataRead _ n | .notice64Read _ n | .noticeBoardUpdate n => decide (n ≤ 7)
  | .gatedRead _ off size => accessOk off size
  | .instCreateDone n | .instDestroyDone n | .instanceResetEffect n | .instResetEnd n | .instSanitiseStart n
    | .instSanitiseDone n => instOk n
  | .protProposalExpiry cls => decide (1 ≤ cls) && decide (cls ≤ 6)
  | .meterBatchWrite cons _ | .meterRetry cons _ => decide (cons < 2 ^ 64)
  | .corridorScheduleArrival _ frame => decide (frame < 2 ^ 64)
  | .corridorOutcomeRelay pos state _ => decide (pos ≤ 31) && decide (state < 16)
  | .submissionDoorbellWrite fn q v | .completionDoorbellWrite fn q v =>
    fnOk fn && decide (q < 2 ^ 16) && decide (v < 2 ^ 16)
  | .commandFetch fn sq _ => fnOk fn && decide (sq < 2 ^ 16)
  | .controllerReset fn | .controllerEnable fn .. | .functionLevelReset fn => fnOk fn
  | .vfEnableChange _ _ numVfs => decide (numVfs ≤ 2048)
  | .aggregationTimeExpiry fn vector => fnOk fn && decide (vector < 256)
  | .deleteIoSubmissionQueue id | .createIoSubmissionQueue id | .deleteIoCompletionQueue id | .createIoCompletionQueue id
    | .getLogPage id | .identify id | .abort id | .setFeaturesArbitration id | .setFeaturesPowerManagement id
    | .setFeaturesTemperatureThreshold id | .setFeaturesErrorRecovery id | .setFeaturesNumberOfQueues id
    | .setFeaturesInterruptCoalescing id | .setFeaturesInterruptVectorConfig id | .setFeaturesWriteAtomicity id
    | .setFeaturesAsyncEventConfig id | .setFeaturesApst id _ | .setFeaturesTimestamp id _
    | .setFeaturesLifetimeLimit id | .getFeatures id | .asynchronousEventRequest id | .namespaceManagement id _
    | .namespaceAttachment id _ | .firmwareImageDownload id _ _ | .firmwareCommitReplace { id := id, .. }
    | .firmwareCommitActivate id _ | .directiveSend id | .directiveReceive id | .nvmeMiSend id _ | .nvmeMiReceive id
    | .formatNvm id | .sanitizeBlockErase id | .sanitizeCryptoErase id | .sanitizeExitFailureMode id
    | .securitySend id | .securityReceive id | .unsupportedOpcode id | .flush id | .write id | .read id
    | .writeZeroes id | .datasetManagement id _ | .verify id | .zoneAppend id | .closeZone id | .finishZone id
    | .openZone id | .resetZone id | .offlineZone id | .reportZones id | .zoneWriteStart id | .ordBarrierRelease id
    | .conventionalWriteWaitEnd id | .landingSpaceWaitEnd id | .unitLanded id .. | .writeCompletionPost id
    | .hostDmaFailure id | .commandLifetimeExpiry id | .readEgress id _ => cmdOk id
  | .zoneDrainEnd z | .zoneFinishRecommended z | .zoneDeviceFinish z => zoneOk z
  | .suspendAcknowledged die | .dieStatusPoll die _ | .senseComplete die | .programComplete die _ | .eraseComplete die _
    | .statusTimeout die | .probeRead die => dieOk die
  | .channelRetrain ch _ => decide (ch < 128)
  | .dramPatrolScrub ch _ => dramOk ch
  | .sramPatrolScrub t _ => sramOk t
  | .controlCoreWatchdogExpiry core | .controlCoreRestartDone core => decide (core ≤ 15)
  | .psExit (some rail) => decide (rail ≤ 15)
  | .holdupReading (some (energy, _)) => decide (energy < 2 ^ 16)
  | .pmbAlert w => decide (w < 2 ^ 16)
  | .diodeSample d .. => decide (d ≤ 15)
  | .remoteSample r .. => decide (r ≤ 3)
  | .railMonitorSample rail _ => decide (1 ≤ rail) && decide (rail ≤ 13)
  | .railPowerGood group => decide (group ≤ 3)
  | .bootWaitTimeout w => decide (w ≤ 15)
  | .mctpMessage via _ => !via.isEmpty && via.all fun tr => decide (tr ≤ 3)
  | .cellarExit _ found | .cellarAutoExit found | .coldStart found | .firmwareReadyTimeout found =>
    decide (found.copies.length ≤ 4)
  | .framePulse _ | .minuteBoundary | .recordPeriodBoundary | .planInputCutoff | .corridorLinkDown _ | .holdoverReport
    | .lockQualified | .syncInPulse | .syncInMissing | .frameCountLoRead _ | .frameCount64Read _
    | .mbxOutDataWrite .. | .mbxInDataRead _ | .mbxCtlReset _ | .spillConsWrite .. | .echo | .statusGet
    | .instCreate _ | .instDestroy | .instReset | .instShareSet | .instQuery | .instSanitise | .protPropose _
    | .protConfirm _ | .protWithdraw _ | .protQuery _ | .claimBegin _ | .claimFinish .. | .claimNonceExpiry
    | .release _ | .spdmSessionMessage _ | .fwStage .. | .fwStageWritten | .fwSchedule _ | .fwPrepareDone | .fwCancel
    | .fwStatus _ | .handoverRecordWritten | .engineMicrocodeSwitch | .handoverReady | .activationHoldExpiry
    | .svMinRaise | .meterRingSet | .meterRead | .recRead .. | .calRead .. | .calWrite _ | .cfgRead .. | .cfgCommit _
    | .placePolicySet | .placeQuery | .pwrCounters | .thermQuery | .eccTestEnter | .eccTestWriteRaw
    | .eccTestReadRaw | .eccTestRead | .eccTestWrite | .eccTestEncode | .eccTestExit | .cellarEnter _
    | .corridorImageArrival .. | .corridorForwardRetry _ | .corridorCancelArrival | .portLinkReset ..
    | .formatDone _ | .sanitizeDone _ | .partialRowWaitExpiry .. | .stripeRowDispatch .. | .codewordDecode ..
    | .softDecodeComplete .. | .backStairReconstruct _ | .journalRecordCommit _ | .homeLineWrite ..
    | .checkpointSegmentWrite _ | .relocationVictimStart _ | .relocationCommit _ | .groupEraseIssue _
    | .secureDiscardStep _ | .refreshAgeReached _ | .patrolRead .. | .trackerSave | .trackerWindowEnd
    | .trngHealthFailure | .mgmtWatchdogExpiry | .mgmtRestartDone | .apstIdleTimerExpiry | .psEntryDrained
    | .psEntryAbort | .wakeEvent | .psExit none | .holdupReading none | .pfNRecognised | .powerLossFlushEnd
    | .flushRestart | .coolingRestart | .alertResponseRead | .readNvmeMiDataStructure _
    | .nvmSubsystemHealthStatusPoll _ | .controllerHealthStatusPoll _ | .configurationSet _ | .configurationGet _
    | .recorderRead _ | .thermalQuery _ | .controlPrimitivePause _ | .controlPrimitiveResume _
    | .controlPrimitiveAbort _ | .controlPrimitiveGetState _ | .controlPrimitiveReplay _ | .nvmeMiAdminCommand _
    | .nvmeMiInvalidOpcode _ | .basicManagementStatus | .basicManagementVendorSerial | .basicManagementFaultCode
    | .basicManagementFireDoorStatus | .recorderBufferWrite | .powerOn | .bootRetry | .pcieLinkUp _
    | .jtagInstruction .. | .consoleInput _ | .trngHealthTestPass | .powerRemoved | .sidebandLinkReset _ => true

end Sys2Proof
end

