-- ==== Sys2Proof/Tests/Slice0.lean ====
section
/-! SUPPORT. Witnesses for the hypotheses of the statements, ill-formed commands, and small tests. A theorem `wit_…` shows a
state and operands that meet the hypotheses of the statement, or of a clause of it, after which it is named. -/

set_option linter.unusedSimpArgs false
set_option linter.unusedVariables false
set_option Elab.async false

namespace Sys2Proof.Machine.Tests


/-! ### The states of the witnesses -/

/-- The device at its last boot step with the port 0 PF metered, nothing else changed from reset. -/
def wRun : State :=
  { State.reset with
    power := { State.reset.power with boot := .running }
    mgmt := { State.reset.mgmt with running := true }
    inst := { State.reset.inst with holders := [(2048, holderFresh)] } }

def wShelf (h : Shelf) : State := { wRun with frame := { wRun.frame with started := true, elapsed := 2000000, shelf := h } }

/-- `wRun` with its mailbox changed. -/
def wMbx (f : MbxSt → MbxSt) : State := updMbx f wRun

/-- A request of the port 0 PF, of the given header and payload, posted under epoch 0. -/
def wPosted (ws : List Nat) : Posted := { agent := 1, epoch := 0, frame := 0, words := ws.map wordOf }

/-- `s` with one request waiting, the port 0 PF holding LATCH_0 and LATCH_2. -/
def wAsk (ws : List Nat) (s : State) : State :=
  updMbx (fun m => { m with outQ := [wPosted ws], latches := [(0, 1), (2, 1)] }) s

/-- Every condition under which a request of the manager is performed, as one Boolean. -/
def wAsks (s : State) (op : Nat) (r : Posted) (f : Form) (fault : Posted → Option Nat) : Bool :=
  scpOpen s && decide (s.mbx.outQ = [r]) && decide (s.mbx.part = none) && decide (r.opcode = op) &&
  decide (tagDup s r = false) && decide (s.fw.cellar = false) && decide (s.mbx.inQ = []) &&
  decide (spillUsed s.mbx = 0) && decide (s.mbx.backlog = []) && decide (formFault r f = none) &&
  decide (holder s 0 = r.agent) && decide ((descOwn r f).or (fault r) = none) && decide (r.epoch = s.mbx.hostEpoch)

theorem asks_of {s : State} {op : Nat} {r : Posted} {f : Form} {fault : Posted → Option Nat}
    (h : wAsks s op r f fault = true) : Asks s op r ∧ formFault r f = none ∧ holder s 0 = r.agent ∧
      (descOwn r f).or (fault r) = none ∧ r.epoch = s.mbx.hostEpoch := by
  simp only [wAsks, Bool.and_eq_true, decide_eq_true_eq] at h
  obtain ⟨⟨⟨⟨⟨⟨⟨⟨⟨⟨⟨⟨h1, h2⟩, h3⟩, h4⟩, h5⟩, h6⟩, h7⟩, h8⟩, h9⟩, h10⟩, h11⟩, h12⟩, h13⟩ := h
  exact ⟨⟨h1, h2, h3, h4, h5, h6, h7, h8, h9⟩, h10, h11, h12, h13⟩

/-- An instance with one queue pair and one vector. -/
def wInst : Inst :=
  { st := .live, qpairs := 1, msix := 1, azones := 0, nsCount := 0, guard32 := false, policy := 0, injected := false,
    slot := 3, lifeE := 22, created := 0, resets := 0, nsxs := [], pend := [], resetDue := none, flr := false,
    resetAt := 0, resume := false, liveDue := false, sanDue := none, sanBlock := false, wiping := false, total := 0 }

/-- The controller of instance 5, with an admin queue pair of 4 entries. -/
def wCtl : Ctl :=
  { Machine.ctlReset 1 1 0 false 22 with
    en := true, rdy := true
    sqs := [(0, { size := 4, head := 0, tail := 0, cq := 0, shard := 0, bells := [], lastPost := none, lastOrd := none })]
    cqs := [(0, { size := 4, head := 0, tail := 0, vector := 0, ien := true, entries := [], waiting := [] })] }

/-- `wRun` in elapsed frame 100 with instance 5 and its controller; the TRNG is healthy. -/
def wHas (i : Inst) (c : Ctl) : State :=
  { wRun with
    frame := { wRun.frame with elapsed := 100 }
    inst := { wRun.inst with insts := [(5, i)] }
    host := { wRun.host with ctls := [(5, c)] }
    prot := { wRun.prot with trngOk := true } }

/-- A request answered PENDING. -/
def wOutst (op : Nat) : Outst := { tag := 7, opcode := op, agent := 1, epoch := 0, frame := 0 }

def wOwes (op : Nat) (s : State) : State := updMbx (fun m => { m with outst := [wOutst op] }) s

theorem owed_of {s : State} {o : Outst}
    (h : (decide ((s.mbx.outst.find? fun x => decide (x.tag = o.tag) && decide (x.opcode = o.opcode)) = some o) &&
      decide (s.mbx.inQ = []) && decide (spillUsed s.mbx = 0) && decide (s.mbx.backlog = [])) = true) : Owed s o := by
  simp only [Bool.and_eq_true, decide_eq_true_eq] at h
  exact ⟨h.1.1.1, h.1.1.2, h.1.2, h.2⟩

/-- `wRun` with an owner registered and in a mutually authenticated session on I3C. -/
def wOwned : State :=
  { wRun with prot := { wRun.prot with ownerKey := some 1, trngOk := true, sessions := [{ link := .i3c, mutualAuth := true }] } }

theorem heard_of {s : State} {l : Sideband} (x : Session)
    (h : ownerOpen s = true ∧ gated s = false ∧ s.power.entry = none ∧ s.fw.cellar = false ∧ sessionOn s l = some x ∧
      x.mutualAuth = true) : OwnerHeard s l :=
  ⟨h.1, h.2.1, h.2.2.1, ⟨x, h.2.2.2.2.1, h.2.2.2.2.2⟩, h.2.2.2.1⟩

/-- A work item of function `fn`, queue `sq`, CID 9, with the given command. -/
def wItem (fn sq : Nat) (e : Sqe) : Item :=
  { id := { fn := fn, sq := sq, cid := 9 }, sqe := e, seq := 1, bell := 0, fetched := 0, gen := 0, life := 1000000, paused := 0,
    phase := .fetched, hold := .none, outcome := none, latchedAt := 0, dw0 := 0, dw1 := 0, unit := 0, count := 0, start := 0,
    waitRec := none, ranges := [], resets := [], doneUnits := [], failed := [], silent := false, held := false }

/-- A command of the given opcode, namespace and dwords 10 and 11. -/
def wSqe (opc : Byte) (nsid c10 c11 : Word) : Sqe :=
  { opc := opc, fuse := 0, psdt := 0, cid := 9, nsid := nsid, cdw2 := 0, cdw3 := 0, mptr := 0, dptr := 0, cdw10 := c10,
    cdw11 := c11, cdw12 := 0, cdw13 := 0, cdw14 := 0, cdw15 := 0 }

/-- `s` with one admin command of the port 0 PF, which is the manager and whose controller is enabled. -/
def wAdmin (e : Sqe) (s : State) : State :=
  { s with
    host := { s.host with ctls := [(2048, wCtl)], items := [wItem 2048 0 e] }
    mbx := { s.mbx with latches := [(0, 1)] } }

def wCmd : CmdId := { fn := 2048, sq := 0, cid := 9 }

/-- Every condition under which an admin command is performed, as one Boolean. -/
def wAdmins (s : State) (id : CmdId) (opc : Nat) (who : Access) (it : Item) : Bool :=
  decide (findItem s id = some it) && decide (itemBySeq s it.seq = some it) && decide (id.sq = 0) && decide (it.opc = opc) &&
  decide (it.outcome = none) && decide (it.silent = false) && adminOpen s && decide (it.held = false) && inTurn s it &&
  decide (accessFault s id.fn who = none) && decide (it.sqe.fuse = 0 ∧ it.sqe.psdt = 0) &&
  decide (sanitizing s = false ∧ instSanitizing s id.fn = false)

theorem admin_of {s : State} {id : CmdId} {opc : Nat} {who : Access} {it : Item} (h : wAdmins s id opc who it = true) :
    AdminRuns s id opc who it := by
  simp only [wAdmins, Bool.and_eq_true, decide_eq_true_eq] at h
  obtain ⟨⟨⟨⟨⟨⟨⟨⟨⟨⟨⟨h1, h2⟩, h3⟩, h4⟩, h5⟩, h6⟩, h7⟩, h8⟩, h9⟩, h10⟩, h11⟩, h12⟩ := h
  exact ⟨h1, h2, h3, h4, h5, h6, h7, h8, h9, h10, h11, h12⟩

theorem accepted_of {s : State} {op : Nat} {r : Posted} {f : Form} {fault : Posted → Option Nat}
    (h : wAsks s op r f fault = true) : Accepted s op r f fault :=
  have k := asks_of h
  ⟨k.1, k.2.1, fun _ => k.2.2.1, k.2.2.2.1, k.2.2.2.2⟩

/-- A container of a header and two empty components, the management core and the hall firmware. -/
def wImageOf (secVer : Byte) : Image :=
  { bytes := le 0x5A4C4849 4 ++ le 1 2 ++ le 4096 2 ++ le 0x96400002 4 ++ le 1 4 ++ [secVer, 0] ++ le 2 2 ++ zeros 4 ++
      le 4096 8 ++ zeros 128 ++ [1] ++ zeros 63 ++ [2] ++ zeros 3871
    checks := { keyOk := true, signed := true, tagOk := true, digestsOk := true } }

def wImage : Image := wImageOf 1

def wSlot : FwSlot := { st := .valid, image := some wImage, copy0 := true, copy1 := true, prepared := true }

/-- `wRun` running slot 1, slot 2 valid, the hold-up energy ample. -/
def wFw (f : FwSt → FwSt) : State :=
  updFw f { wRun with
    fw := { wRun.fw with running := 1, slot1 := wSlot, slot2 := wSlot, image := some wImage,
                         cfg := { wRun.fw.cfg with lbSize := 1, holdupCap := 100000 } }
    power := { wRun.power with energy := 100000 }
    mbx := { wRun.mbx with latches := [(0, 1)] } }

/-- A stored unit of zeros. -/
def wStored : Stored :=
  { data := 0, meta_ := 0, hdr := { owner := 2048, nsx := 1, lba := 0, gen := 0, poison := false, zeros := true, saltGen := 0 },
    check := 0, kind := .data, flushSeq := 0 }

/-- A controller with one I/O queue pair beside its admin queues, an entry available in each submission queue. -/
def wCtlIo : Ctl :=
  let q : Sq := { size := 4, head := 0, tail := 1, cq := 0, shard := 0, bells := [0], lastPost := none, lastOrd := none }
  let k : Cq := { size := 4, head := 0, tail := 1, vector := 0, ien := true, waiting := []
                  entries := [{ sq := 1, cid := 0, st := stOk, more := false, dw0 := 0, dw1 := 0 }] }
  { wCtl with
    sqs := [(0, q), (1, { q with cq := 1 })], cqs := [(0, { k with entries := [], tail := 0 }), (1, k)]
    vecs := [(0, { cd := false, pend := 2, since := 0 })] }

/-- A group of eight members on eight channels, of namespace 0 of the port 0 PF. -/
def wGroup : Group :=
  { owner := 2048, nsx := 0, lc := 0, pg := 0, shared := false, secdisc := false, rebuild := false, subs := 0, width := 8,
    cls := 0, st := .opened, pslc := false, shelf := false, refresh := false, retire := false, pack := false, gc := false,
    early := false, nextRow := 0, reserved := 1, rows := 4, valid := 0, pred := none, predFrom := 0, lastProg := 0,
    members := (List.range 8).map fun i => { die := 32 * i, block := 0, substs := [], lost := false }
    inFlight := [], regions := [], zones := [], band := 0, victim := false, pendIdx := none, regionMap := none, erasing := [] }

/-! ### The frame -/

theorem wit_FramePulse : ∃ s t : State, booted s = true ∧ gated s = false ∧ s.frame.shelf.stepTo = none ∧
    s.frame.started = true ∧ booted t = true ∧ gated t = false ∧ t.frame.shelf.stepTo = none ∧ t.frame.started = false :=
  ⟨wShelf Shelf.reset, wRun, by decide⟩

theorem wit_FrameEvents : ∃ s t u : State,
    s.frame.shelf.downAt = some 5 ∧ 5 + 1000 < s.frame.elapsed ∧
    t.frame.shelf.pos ≠ 0 ∧ t.frame.shelf.pos ≠ 0xFF ∧ t.frame.shelf.upLink = true ∧ t.frame.shelf.lock ≠ .locked ∧
    1000 ≤ t.frame.shelf.inBound ∧
    u.frame.shelf.sync = .tracking ∧ u.frame.shelf.syncFrom + 1500000 < u.frame.elapsed :=
  ⟨wShelf { Shelf.reset with downAt := some 5 }, wShelf { Shelf.reset with pos := 1, upLink := true, inBound := 1000 },
    wShelf { Shelf.reset with sync := .tracking }, by decide⟩

theorem wit_CorridorAndSyncPulses : ∃ s t u : State,
    booted s = true ∧ s.frame.counter < 7 ∧ 0 ≤ s.frame.counter ∧
    t.frame.shelf.pos = 0 ∧ t.frame.shelf.syncEn = true ∧ t.frame.shelf.sync ≠ .missing ∧
    u.frame.shelf.pos = 0 ∧ u.frame.shelf.syncEn = true ∧ u.frame.shelf.sync = .missing ∧
    u.frame.shelf.syncLast = some 1499950 ∧ 1499950 + 499950 ≤ u.frame.elapsed ∧ u.frame.elapsed ≤ 1499950 + 500050 :=
  ⟨wRun, wShelf { Shelf.reset with pos := 0, syncEn := true, sync := .tracking },
    wShelf { Shelf.reset with pos := 0, syncEn := true, sync := .missing, syncLast := some 1499950 }, by decide⟩

theorem wit_PlannerLanes : ∃ s t : State,
    hallRuns s = true ∧ s.frame.committed = false ∧ (laneOf s 63).rebuild = 0 ∧ 63 ∈ [63] ∧ 62 ∉ [63] ∧
    16 ≤ (laneOf t 63).run :=
  ⟨wRun, { wRun with frame := { wRun.frame with lanes := [(63, { Lane.reset with run := 16 })] } }, by decide⟩

theorem wit_FrameCountReads : gated wRun = false := by decide

theorem wit_MinuteAndRecord : ∃ s t : State,
    ctrlRuns s = true ∧ s.frame.counter / 30000000 ≠ s.inst.minuteFrom / 30000000 ∧ meteredNow s 2048 = true ∧
    tabGet s.inst.holders 2048 ≠ none ∧
    s.frame.counter / 1800000000 ≠ s.recd.cur.first / 1800000000 ∧ s.recd.closed.length < 63 ∧
    ctrlRuns t = true ∧ t.frame.counter / 1800000000 ≠ t.recd.cur.first / 1800000000 ∧ 63 ≤ t.recd.closed.length :=
  ⟨{ wRun with frame := { wRun.frame with counter := 1800000000 } },
    { wRun with frame := { wRun.frame with counter := 1800000000 },
                recd := { wRun.recd with closed := List.replicate 63 wRun.recd.cur } }, by decide⟩

/-! ### Mailbox, latches and notice boards -/

theorem wit_MailboxTakes : ∃ s t u v : State, gated s = false ∧
    holder s 1 = Pf.agent .port0 ∧ s.mbx.skip = 0 ∧ (∀ q ∈ s.mbx.outQ, q.opcode ∈ catalogue) ∧ s.mbx.part = none ∧
    outUsed s.mbx + 1 + (0x2001F000 : Word).toNat / 2 ^ 12 % 16 ≤ 16 ∧ (0x2001F000 : Word).toNat / 2 ^ 12 % 16 ≠ 0 ∧
    (0x02010000 : Word).toNat / 2 ^ 12 % 16 = 0 ∧ (0x02010000 : Word).toNat / 2 ^ 24 ∈ catalogue ∧ holder s 1 ≠ Pf.agent .port1 ∧
    t.mbx.part = some { agent := 1, words := [0x20011000], left := 1 } ∧ t.mbx.outQ = [] ∧ t.mbx.skip = 0 ∧
    holder t 1 = Pf.agent .port0 ∧
    ({ agent := 1, epoch := 0, frame := 0, words := [0x20011000] ++ [0] } : Posted).opcode ∈ catalogue ∧
    u.mbx.part = none ∧ 16 < outUsed u.mbx + 1 + (0x2001F000 : Word).toNat / 2 ^ 12 % 16 ∧ holder u 1 = Pf.agent .port0 ∧
    0 < v.mbx.skip ∧ holder v 1 = Pf.agent .port0 :=
  ⟨wMbx fun m => { m with latches := [(1, 1)] },
   wMbx fun m => { m with latches := [(1, 1)], part := some { agent := 1, words := [0x20011000], left := 1 } },
   wMbx fun m => { m with latches := [(1, 1)], outQ := [wPosted [0x02010000]] },
   wMbx fun m => { m with latches := [(1, 1)], skip := 3 }, by decide⟩

theorem wit_MailboxTakes_more : ∃ s : State, gated s = false ∧ holder s 1 = Pf.agent .port0 ∧ s.mbx.skip = 0 ∧
    s.mbx.part = some { agent := 1, words := [0x20012000], left := 2 } :=
  ⟨wMbx fun m => { m with latches := [(1, 1)], part := some { agent := 1, words := [0x20012000], left := 2 } }, by decide⟩

theorem wit_MailboxRead : ∃ s : State, gated s = false ∧ holder s 1 = Pf.agent .port0 ∧ holder s 1 ≠ Pf.agent .port1 ∧
    s.mbx.inQ ≠ [] :=
  ⟨wMbx fun m => { m with latches := [(1, 1)], inQ := [{ word := 5, head := true, epoch := 0 }] }, by decide⟩

theorem wit_MailboxControl : ∃ s : State, gated s = false ∧ holder s 1 = Pf.agent .port0 ∧ holder s 1 ≠ Pf.agent .port1 ∧
    ((3 : Byte) - s.mbx.cons).toNat ≤ (s.mbx.prod - s.mbx.cons).toNat ∧ s.mbx.backlog = [] :=
  ⟨wMbx fun m => { m with latches := [(1, 1)], prod := 3, cons := 254 }, by decide⟩

theorem wit_RegisterWrites : gated wRun = false ∧ holder wRun 1 ≠ Pf.agent .port0 ∧ (0xFFFFFFFF : Nat) < 2 ^ 32 ∧
    (15 : Nat) ≤ 15 ∧ 2 + 2 ≤ 4 ∧ 2 % 2 = 0 := by decide

theorem wit_Latches : ∃ s : State, gated s = false ∧ holder s 15 = 0 ∧ holder s 0 = 1 ∧ holder s 3 ≠ 0 ∧ holder s 3 ≠ 1 :=
  ⟨wMbx fun m => { m with latches := [(0, 1), (3, 20)] }, by decide⟩

theorem wit_Notices : ∃ s : State, gated s = false ∧ tabGet s.mbx.notices 7 ≠ none ∧ booted s = true ∧
    s.mgmt.running = true ∧ flushing s = false :=
  ⟨wMbx fun m => { m with notices := [(7, { Notice.reset with full := true })] }, by decide⟩

theorem wit_Gated : ∃ s : State, gated s = true ∧ 0x118 % 4 = 0 ∧ gatedArea 0x118 = some 2 ∧ (2 : Nat) ≠ 3 :=
  ⟨updPower (fun p => { p with ps := 3 }) wRun, by decide⟩

theorem wit_Echo : wAsks (wAsk [0x0105F000, 1, 2, 3, 4, 5, 6, 7, 8, 9, 10, 11, 12, 13, 14, 0xFFFFFFFF] wRun) 0x01
    (wPosted [0x0105F000, 1, 2, 3, 4, 5, 6, 7, 8, 9, 10, 11, 12, 13, 14, 0xFFFFFFFF]) (Form.plain (List.range 16) false)
    (fun _ => none) = true := by decide

theorem wit_Status : wAsks (wAsk [0x02050000] wRun) 0x02 (wPosted [0x02050000]) (Form.plain [0] false)
    (fun _ => none) = true := by decide

/-! ### Tenant instances -/

/-- The creation block of instance 5: one queue pair, one vector, the key injected in slot 0, weight 1. -/
def wBlock : List Byte := [5, 0, 1, 0, 1, 0, 0, 0, 0, 0, 0, 1] ++ zeros 52 ++ [1] ++ zeros 447

def wCreate : State :=
  wAsk [0x10014100, 0, 0, 512, 0] { wRun with
    prot := { wRun.prot with trngOk := true, slots := [(0, { key := 0, st := .injected, owner := some 5 })] } }

theorem wit_InstanceCreation : wAsks wCreate 0x10 (wPosted [0x10014100, 0, 0, 512, 0])
      { lens := [4], desc := some (false, [512]), mgr := true } (fun _ => none) = true ∧
    firstFault (createChecks (padTo 512 wBlock)) = none ∧ createRefused wCreate (padTo 512 wBlock) = none ∧
    wCreate.prot.trngOk = true := by decide +kernel

theorem wit_InstanceCreation_pools : createShort wCreate (padTo 512 wBlock)
    ((List.range (byteAt (padTo 512 wBlock) 8)).map fun i => entryReq (padTo 512 wBlock) (128 + 16 * i)) = none := by
  have h0 : byteAt (padTo 512 wBlock) 8 = 0 := by decide
  have hn : nsShort wCreate [] = none := by simp [nsShort]; decide
  have hr : rateShort wCreate (fieldAt (padTo 512 wBlock) 0 2)
      (sharesAt fun i => fieldAt (padTo 512 wBlock) (32 + 4 * i) 4) = none := by decide
  have h1 : ¬65536 < taken wCreate (·.qpairs) (·.qpairs) (pfQp (newestCfg wCreate)) + fieldAt (padTo 512 wBlock) 2 2 := by
    decide +kernel
  have h2 : ¬32768 < taken wCreate (·.msix) (·.msix) (fun _ => 0) + fieldAt (padTo 512 wBlock) 4 2 := by decide +kernel
  have h3 : ¬65536 < taken wCreate (·.azones) (·.azones) (pfAz (newestCfg wCreate)) + fieldAt (padTo 512 wBlock) 6 2 := by
    decide +kernel
  have h4 : ¬(byteAt (padTo 512 wBlock) 11 = 0 ∧ (freeSlot wCreate).isNone = true) := fun h => absurd h.1 (by decide)
  rw [h0]
  simp only [createShort, if_neg h1, if_neg h2, if_neg h3, if_neg h4, List.range_zero, List.map_nil, hn, hr, Option.or_none]

theorem wit_InstanceCreateDone : ∃ s : State, hallRuns s = true ∧
    instAt s 5 = some { wInst with st := .creating, pend := [{ tag := 7, opcode := 0x10 }] } ∧ Owed s (wOutst 0x10) :=
  ⟨wOwes 0x10 (wHas { wInst with st := .creating, pend := [{ tag := 7, opcode := 0x10 }] } wCtl),
    by decide, by decide, owed_of (by decide)⟩

theorem wit_InstanceShareSet : ∃ s : State,
    wAsks s 0x13 (wPosted [0x1301A000, 5, 0, 0, 0, 0, 0, 0, 0, 0, 1])
      (Form.plain [10] true [(0, 0xFFFFF000), (9, 0xFFFF0000)]) shareFault = true ∧
    rateShort s 5 (sharesAt fun i => (wPosted [0x1301A000, 5, 0, 0, 0, 0, 0, 0, 0, 0, 1]).pw (i + 1)) = none ∧
    (∃ i, instAt s 5 = some i ∧ i.st ≠ .destroying ∧ i.st ≠ .creating) :=
  ⟨wAsk [0x1301A000, 5, 0, 0, 0, 0, 0, 0, 0, 0, 1] (wHas wInst wCtl), by decide, by decide, wInst, by decide, by decide,
    by decide⟩

theorem wit_InstanceShareSet_pf : ∃ s : State,
    wAsks s 0x13 (wPosted [0x1301A000, 2049, 0, 0, 0, 0, 0, 0, 0, 0, 1])
      (Form.plain [10] true [(0, 0xFFFFF000), (9, 0xFFFF0000)]) shareFault = true ∧
    rateShort s 2049 (sharesAt fun i => (wPosted [0x1301A000, 2049, 0, 0, 0, 0, 0, 0, 0, 0, 1]).pw (i + 1)) = none :=
  ⟨wAsk [0x1301A000, 2049, 0, 0, 0, 0, 0, 0, 0, 0, 1] (wHas wInst wCtl), by decide⟩

theorem wit_InstanceQuery : ∃ s t u : State,
    wAsks s 0x14 (wPosted [0x14011000, 5]) (Form.plain [1] true [(0, 0xFFFF0000)]) queryFault = true ∧
    instAt s 5 = some wInst ∧
    wAsks t 0x14 (wPosted [0x14011000, 2047]) (Form.plain [1] true [(0, 0xFFFF0000)]) queryFault = true ∧
    instAt t 2047 = none ∧
    wAsks u 0x14 (wPosted [0x14011000, 0x1801]) (Form.plain [1] true [(0, 0xFFFF0000)]) queryFault = true :=
  ⟨wAsk [0x14011000, 5] (wHas wInst wCtl), wAsk [0x14011000, 2047] (wHas wInst wCtl),
    wAsk [0x14011000, 0x1801] (wHas wInst wCtl), by decide⟩

theorem wit_InstanceReset : ∃ s t : State,
    wAsks s 0x12 (wPosted [0x12011000, 5]) (Form.plain [1] true [(0, 0xFFFFF800)]) (fun _ => none) = true ∧
    instAt s 5 = some wInst ∧
    hallRuns t = true ∧ instAt t 5 = some { wInst with st := .resetting, resetDue := some 99 } ∧ 99 < t.frame.elapsed ∧
    ctlOf t 5 = some wCtl :=
  ⟨wAsk [0x12011000, 5] (wHas wInst wCtl), wHas { wInst with st := .resetting, resetDue := some 99 } wCtl, by decide⟩

theorem wit_InstanceResetEnd : ∃ s : State, hallRuns s = true ∧
    instAt s 5 = some { wInst with st := .resetting, pend := [{ tag := 7, opcode := 0x12 }] } ∧
    ctlOf s 5 = some { wCtl with fetchPaused := true } ∧
    oldWork s 5 { wInst with st := .resetting, pend := [{ tag := 7, opcode := 0x12 }] } = false ∧ Owed s (wOutst 0x12) :=
  ⟨wOwes 0x12 (wHas { wInst with st := .resetting, pend := [{ tag := 7, opcode := 0x12 }] } { wCtl with fetchPaused := true }),
    by decide, by decide, by decide, by decide, owed_of (by decide)⟩

theorem wit_InstanceDestroy : ∃ s : State,
    wAsks s 0x11 (wPosted [0x11011000, 5]) (Form.plain [1] true [(0, 0xFFFFF800)]) (fun _ => none) = true ∧
    instAt s 5 = some wInst :=
  ⟨wAsk [0x11011000, 5] (wHas wInst wCtl), by decide⟩

theorem wit_InstanceDestroyDone : ∃ s : State, hallRuns s = true ∧
    instAt s 5 = some { wInst with st := .destroying, wiping := true, policy := 1, pend := [{ tag := 7, opcode := 0x11 }] } ∧
    s.media.keyStale = [] ∧ Owed s (wOutst 0x11) :=
  ⟨wOwes 0x11 (wHas { wInst with st := .destroying, wiping := true, policy := 1, pend := [{ tag := 7, opcode := 0x11 }] } wCtl),
    by decide, by decide, by decide, owed_of (by decide)⟩

theorem wit_InstanceSanitise : ∃ s t : State,
    wAsks s 0x15 (wPosted [0x15011000, 5 + 2 * 2048]) (Form.plain [1] true [(0, 0xFFFFE000)]) sanitiseFault = true ∧
    instAt s 5 = some wInst ∧ sanitizing s = false ∧ ((nssOf s 5).any fun p => p.2.fmt.isSome) = false ∧
    s.prot.trngOk = true ∧
    hallRuns t = true ∧ instAt t 5 = some { wInst with sanDue := some 99 } ∧ 99 < t.frame.elapsed ∧
    wipeWaits t (sanKind { wInst with sanDue := some 99 }) = false :=
  ⟨wAsk [0x15011000, 5 + 2 * 2048] (wHas wInst wCtl), wHas { wInst with sanDue := some 99 } wCtl, by decide⟩

theorem wit_InstanceSanitiseDone : ∃ s : State, hallRuns s = true ∧
    instAt s 5 = some { wInst with st := .sanitising, pend := [{ tag := 7, opcode := 0x15 }] } ∧ s.media.keyStale = [] ∧ Owed s (wOutst 0x15) :=
  ⟨wOwes 0x15 (wHas { wInst with st := .sanitising, pend := [{ tag := 7, opcode := 0x15 }] } wCtl),
    by decide, by decide, by decide, owed_of (by decide)⟩

/-! ### Protection and the owner -/

/-- The record that sets FW_LOCK. -/
def wChange : Change := changeOf (padTo 64 [3, 1, 0, 0, 0, 0, 0, 0, 1])

def wPropose : State := wAsk [0x20014100, 0, 0, 64, 0] wOwned

theorem wit_Proposal : changeFault wChange = none ∧ pendingOf wPropose wChange.cls = none ∧
    keyRefusal wPropose wChange = none ∧ ballConflict wPropose wChange = none ∧ wPropose.prot.trngOk = true ∧
    wPropose.prot.ownerKey.isSome = true ∧ wChange.inject = false ∧
    wAsks wPropose 0x20 (wPosted [0x20014100, 0, 0, 64, 0]) { lens := [4], desc := some (false, [64]), mgr := true }
      (fun _ => none) = true := by decide +kernel

theorem wit_ProposalOfTheOwner : OwnerHeard wOwned .i3c ∧ pendingOf wOwned wChange.cls = none ∧
    keyRefusal wOwned wChange = none ∧ ballConflict wOwned wChange = none ∧ managerFirst wOwned = false ∧
    (padTo 64 [3, 1, 0, 0, 0, 0, 0, 0, 1]).length = 64 :=
  ⟨heard_of { link := .i3c, mutualAuth := true } (by decide), by decide +kernel⟩

def wProposal : Proposal :=
  { rec_ := wChange, nonce := 0, digest := 0, proposer := .owner, frame := 0, armed := 0, fails := 2, key := none }

def wPending (n : Nat) (s : State) : State := updProt (fun p => { p with pending := [(3, { wProposal with fails := n })] }) s

theorem wit_Confirmation : ∃ s t : State,
    wAsks s 0x21 (wPosted ([0x2101D000, 3] ++ List.replicate 12 0)) (Form.plain [13] true [(0, 0xFFFFFF00)]) (fun _ => none) = true ∧
    s.prot.ownerKey.isSome = true ∧ pendingOf s 3 = some wProposal ∧ s.frame.elapsed ≤ wProposal.armed + 2 ^ 27 ∧
    digestAt (wPosted ([0x2101D000, 3] ++ List.replicate 12 0)).pw 1 = wProposal.digest ∧
    wAsks t 0x21 (wPosted ([0x2101D000, 3] ++ List.replicate 12 1)) (Form.plain [13] true [(0, 0xFFFFFF00)]) (fun _ => none) = true ∧
    pendingOf t 3 = some { wProposal with fails := 1 } ∧
    digestAt (wPosted ([0x2101D000, 3] ++ List.replicate 12 1)).pw 1 ≠ wProposal.digest :=
  ⟨wAsk ([0x2101D000, 3] ++ List.replicate 12 0) (wPending 2 wOwned),
    wAsk ([0x2101D000, 3] ++ List.replicate 12 1) (wPending 1 wOwned), by decide +kernel⟩

theorem wit_ConfirmationLast : ∃ s : State,
    wAsks s 0x21 (wPosted ([0x2101D000, 3] ++ List.replicate 12 1)) (Form.plain [13] true [(0, 0xFFFFFF00)]) (fun _ => none) = true ∧
    pendingOf s 3 = some wProposal ∧ 2 ≤ wProposal.fails ∧
    digestAt (wPosted ([0x2101D000, 3] ++ List.replicate 12 1)).pw 1 ≠ wProposal.digest :=
  ⟨wAsk ([0x2101D000, 3] ++ List.replicate 12 1) (wPending 2 wOwned), by decide +kernel⟩

/-- The owner's confirmation and withdrawal of the manager's proposal of class 3, and a withdrawal where none is pending. -/
theorem wit_OwnerConfirms : ∃ s : State, OwnerHeard s .i3c ∧ s.prot.ownerKey.isSome = true ∧
    (([3] ++ zeros 51 : List Byte).length = 52 ∧ fieldAt ([3] ++ zeros 51) 0 4 = 3 ∧
      pendingOf s 3 = some { wProposal with proposer := .manager } ∧
      BitVec.ofNat 384 (fieldAt ([3] ++ zeros 51) 4 48) = wProposal.digest ∧ s.frame.elapsed ≤ wProposal.armed + 2 ^ 27 ∧
      (([3] ++ zeros 3 : List Byte).length = 4 ∧ fieldAt ([3] ++ zeros 3) 0 4 = 3) ∧
      ([6] ++ zeros 3 : List Byte).length = 4 ∧ fieldAt ([6] ++ zeros 3) 0 4 = 6 ∧ pendingOf s 6 = none ∧
      queryOk (fieldAt ([6] ++ zeros 3) 0 4) = true) :=
  ⟨updProt (fun p => { p with pending := [(3, { wProposal with proposer := .manager })] }) wOwned,
    heard_of { link := .i3c, mutualAuth := true } (by decide), by decide, by decide +kernel⟩

theorem wit_WithdrawalOfNone : ∃ s : State,
    wAsks s 0x22 (wPosted [0x22011000, 6]) (Form.plain [1] true [(0, 0xFFFFFF00)]) (fun _ => none) = true ∧
    s.prot.ownerKey.isSome = true ∧ pendingOf s 6 = none :=
  ⟨wAsk [0x22011000, 6] (wPending 2 wOwned), by decide +kernel⟩

theorem wit_RepliesWait : ∃ s t : State, ownerOpen s = true ∧ sessionOn s .i3c = some { link := .i3c, mutualAuth := true } ∧
    s.prot.replies = [] ∧ ownerOpen t = true ∧ sessionOn t .i3c = some { link := .i3c, mutualAuth := true } ∧
    t.prot.replies = [(0, [3])] :=
  ⟨wOwned, updProt (fun p => { p with replies := [(0, [3])] }) wOwned, by decide⟩

theorem wit_Withdrawal : ∃ s : State,
    wAsks s 0x22 (wPosted [0x22011000, 3]) (Form.plain [1] true [(0, 0xFFFFFF00)]) (fun _ => none) = true ∧
    s.prot.ownerKey.isSome = true ∧ pendingOf s 3 = some wProposal ∧ s.frame.elapsed ≤ wProposal.armed + 2 ^ 27 :=
  ⟨wAsk [0x22011000, 3] (wPending 2 wOwned), by decide +kernel⟩

theorem wit_ProtQuery : ∃ s : State,
    wAsks s 0x23 (wPosted [0x23015100, 0, 0, 192, 1, 6])
      { lens := [5], desc := some (true, [192]), mgr := false, rsv := [(4, 0xFFF00000)] } (fun _ => none) = true ∧
    queryOk ((wPosted [0x23015100, 0, 0, 192, 1, 6]).pw 4) = true ∧ pendingOf s 6 = none :=
  ⟨wAsk [0x23015100, 0, 0, 192, 1, 6] wOwned, by decide⟩

theorem wit_Expiry : ∃ s t : State, booted s = true ∧ pendingOf s 3 = some wProposal ∧
    wProposal.armed + 2 ^ 27 < s.frame.elapsed ∧ s.prot.claim = some { nonce := 0, frame := 0 } ∧
    booted t = true ∧ pendingOf t 3 = some wProposal ∧ t.frame.elapsed ≤ wProposal.armed + 2 ^ 27 :=
  ⟨updFrame (fun f => { f with elapsed := 2 ^ 27 + 1 }) (updProt (fun p => { p with claim := some { nonce := 0, frame := 0 } })
    (wPending 2 wOwned)), updFrame (fun f => { f with elapsed := 2 ^ 27 }) (wPending 2 wOwned), by decide +kernel⟩

/-- The base point of P-384, X then Y. -/
def wKey : BitVec 768 :=
  BitVec.ofNat 768
    (0xaa87ca22be8b05378eb1c71ef320ad746e1d3b628ba79b9859f741e082542a385502f25dbf55296c3a545e3872760ab7 * 2 ^ 384 +
      0x3617de4a96262c6f5d9e98bf9292dc29f8f41dbd289a147ce9da3113b5f0b8c00a60b1ce1d7e819d7a431d7c90ea0e5f)

theorem wit_Claim : ∃ s : State, ownerOpen s = true ∧ gated s = false ∧ s.power.entry = none ∧ s.fw.cellar = false ∧
    sessionOn s .i3c = some { link := .i3c, mutualAuth := false } ∧ s.prot.ownerKey = none ∧ s.prot.trngOk = true ∧
    s.prot.claim = some { nonce := 0, frame := 0 } ∧ s.frame.elapsed ≤ 0 + 2 ^ 27 ∧ validPoint wKey = true :=
  ⟨updProt (fun p => { p with
      ownerKey := none, claim := some { nonce := 0, frame := 0 }, sessions := [{ link := .i3c, mutualAuth := false }] }) wOwned,
    by decide +kernel⟩

theorem wit_Release : OwnerHeard (wPending 0 wOwned) .i3c ∧ (wPending 0 wOwned).prot.ownerKey.isSome = true :=
  ⟨heard_of { link := .i3c, mutualAuth := true } (by decide +kernel), by decide⟩

theorem wit_Sessions : ownerOpen wOwned = true ∧ sessionOn wOwned .smbus = none := by decide

/-! ### Firmware and the corridor -/

def wStageForm : Form :=
  { lens := [6], desc := some (false, []), mgr := true, lenOk := fun r => decide (r.descLen % 4096 = 0), rsv := [(4, 0xFFFFFCFC)] }

/-- The container received by FW_STAGE, its copies being written; the container downloaded. -/
def wStaged : Staging :=
  { path := .manager, slot := 2, data := wImage.bytes, forward := false, image := some wImage, writing := true, tag := some 7, item := none }
def wLoaded : Staging :=
  { path := .download, slot := 0, data := wImage.bytes, forward := false, image := none, writing := false, tag := none, item := none }

/-- What verification finds of a container that passes. -/
theorem wit_imageVerifies : verifyFault (wFw id) wImage = none ∧
    verifyFault (wFw fun w => { w with svMin := 2 }) wImage = some .rolledBack := by decide +kernel

def wChunk (flags : Nat) : State := wAsk [0x30016100, 0, 0, 4096, 0, flags, 0] (wFw id)

theorem wit_Staging : ∃ s t : State,
    (wAsks s 0x30 (wPosted [0x30016100, 0, 0, 4096, 0, 2, 0]) wStageForm stageFault = true ∧
    offsetBad s .manager 0 4096 = false ∧ stageReason s .manager (some 2) = none ∧
    bitOf ((wPosted [0x30016100, 0, 0, 4096, 0, 2, 0]).pw 4) 8 = false ∧
    wAsks t 0x30 (wPosted [0x30016100, 0, 0, 4096, 0, 0x102, 0]) wStageForm stageFault = true ∧
    offsetBad t .manager 0 4096 = false ∧ stageReason t .manager (some 2) = none ∧
    bitOf ((wPosted [0x30016100, 0, 0, 4096, 0, 0x102, 0]).pw 4) 8 = true) ∧
    staged t 0 (padTo 4096 wImage.bytes) = wImage.bytes :=
  ⟨wChunk 2, wChunk 0x102, by decide +kernel, by
    have h : wImage.bytes.length = 4096 := by decide +kernel
    generalize wImage.bytes = b at h
    simp [staged, padTo, zeros, h, List.take_of_length_le]⟩

theorem wit_StagingOfTheOwner : ∃ (s : State) (p : List Byte), OwnerHeard s .i3c ∧ p.length = 4101 ∧ byteAt p 4 ≤ 3 ∧
    offsetBad s .owner (fieldAt p 0 4) 4096 = false ∧ stageReason s .owner (some (stagingTarget s)) = none ∧
    bitOf (byteAt p 4) 0 = false :=
  ⟨{ wFw id with prot := wOwned.prot }, zeros 4101, heard_of { link := .i3c, mutualAuth := true } (by decide), by decide +kernel⟩

theorem wit_StagingWritten : ∃ s : State,
    ctrlRuns s = true ∧ s.fw.cellar = false ∧ s.fw.staging = some wStaged ∧ Owed s (wOutst 0x30) :=
  ⟨wOwes 0x30 (wFw fun w => { w with staging := some wStaged }), by decide, rfl, rfl, owed_of (by decide)⟩

theorem wit_FirmwareCommands : ∃ s t u : State, (
    wAdmins s wCmd 0x11 .manager (wItem 2048 0 (wSqe 0x11 0 1023 0)) = true ∧ offsetBad s .download 0 4096 = false ∧
    stageReason s .download none = none ∧
    wAdmins t wCmd 0x10 .manager (wItem 2048 0 (wSqe 0x10 0 2 0)) = true ∧ commitAction (wItem 2048 0 (wSqe 0x10 0 2 0)) = 0 ∧
    commitRuns t 1 = false ∧ commitSlot t (wItem 2048 0 (wSqe 0x10 0 2 0)) = 2 ∧
    stageReason t .download (some 2) = none ∧
    wAdmins u wCmd 0x10 .manager (wItem 2048 0 (wSqe 0x10 0 0x1A 0)) = true ∧
    commitAction (wItem 2048 0 (wSqe 0x10 0 0x1A 0)) = 3 ∧ commitRuns u 1 = false ∧
    commitSlot u (wItem 2048 0 (wSqe 0x10 0 0x1A 0)) = 2 ∧ scheduleReason u 2 none = none ∧ u.fw.sched = none) ∧ t.fw.staging = some wLoaded :=
  ⟨wAdmin (wSqe 0x11 0 1023 0) (wFw id),
    wAdmin (wSqe 0x10 0 2 0) (wFw fun w => { w with staging := some wLoaded }),
    wAdmin (wSqe 0x10 0 0x1A 0) (wFw id), by decide +kernel, rfl⟩

def wSched : Sched :=
  { slot := 2, scope := false, frame := 600000, imageId := wImage.imageId, asap := false, prepared := false, tag := some 7, item := none }

def wSchedule : Posted := wPosted [0x31014000, 2, 600000, 0, wImage.imageId.toNat]

theorem wit_scheduleReason (s : State) (n : Nat) (v : slotValid s n = true) (im : (slotAt s n).image = some wImage)
    (st : stateReason s true = none) (ps : ¬3 ≤ s.power.ps) : scheduleReason s n (some wImage.imageId) = none := by
  simp [scheduleReason, im, v, st, ps]

theorem wit_Schedule : ∃ s : State, Asks s 0x31 wSchedule ∧ formFault wSchedule (Form.plain [4] true [(0, 0xFFFFFEFC)]) = none ∧
    holder s 0 = wSchedule.agent ∧ scheduleFault wSchedule = none ∧
    s.frame.counter + 524288 ≤ wSchedule.pw64 1 ∧ wSchedule.pw64 1 ≤ s.frame.counter + 2 ^ 31 ∧
    scheduleReason s (wSchedule.pw 0 % 4) (some (BitVec.ofNat 32 (wSchedule.pw 3))) = none ∧ s.fw.sched = none := by
  have e : BitVec.ofNat 32 (wSchedule.pw 3) = wImage.imageId := by simp [Posted.pw, wSchedule, wPosted, wordOf]
  refine ⟨updMbx (fun m => { m with outQ := [wSchedule] }) (wFw id),
    ⟨?_, rfl, rfl, ?_, ?_, rfl, rfl, ?_, rfl⟩, ?_, ?_, ?_, ?_, ?_, ?slot, rfl⟩
  case slot =>
    rw [e]
    exact wit_scheduleReason _ _ (by decide +kernel) rfl (by decide +kernel) (by decide)
  all_goals decide +kernel

theorem wit_ScheduleIsPrepared : ∃ t u : State,
    (ctrlRuns t = true ∧ Owed t (wOutst 0x31) ∧
    wAsks u 0x32 (wPosted [0x32011000, 0]) (Form.plain [1] true [(0, 0xFFFFFFFE)]) (fun _ => none) = true) ∧
    t.fw.sched = some wSched ∧ u.fw.sched = some { wSched with prepared := true } :=
  ⟨wOwes 0x31 (wFw fun w => { w with sched := some wSched }),
    wAsk [0x32011000, 0] (wFw fun w => { w with sched := some { wSched with prepared := true } }),
    ⟨by decide, owed_of (by decide), by decide +kernel⟩, rfl, rfl⟩

theorem wit_Hold : ∃ s t : State,
    hallRuns s = true ∧ s.fw.hold = some { slot := 2, from_ := 0, recordWritten := true, switched := true, ready := false, item := none } ∧
    s.frame.elapsed ≤ 0 + 999 ∧
    hallRuns t = true ∧ t.fw.hold = some { slot := 2, from_ := 0, recordWritten := true, switched := true, ready := false, item := none } ∧
    0 + 999 < t.frame.elapsed :=
  ⟨wFw fun w => { w with hold := some { slot := 2, from_ := 0, recordWritten := true, switched := true, ready := false, item := none } },
    updFrame (fun f => { f with elapsed := 1000 })
      (wFw fun w => { w with hold := some { slot := 2, from_ := 0, recordWritten := true, switched := true, ready := false, item := none } }),
    by decide +kernel⟩

theorem wit_SvMin : ∃ s : State, (hallRuns s = true ∧ s.fw.began + 1800000000 ≤ s.frame.elapsed ∧ s.fw.svMin < 5 ∧
      2 ≠ s.fw.running ∧ (slotAt s 2).st = .valid ∧ (wImageOf 5).secVer = 5 ∧ wImage.secVer < 5) ∧
    s.fw.image = some (wImageOf 5) ∧ (slotAt s 2).image = some wImage :=
  ⟨updFrame (fun f => { f with elapsed := 1800000000 }) (wFw fun w => { w with image := some (wImageOf 5) }),
    by decide +kernel, rfl, rfl⟩

theorem wit_FwStatus : ∃ s t : State,
    wAsks s 0x33 (wPosted [0x33011000, 0]) (Form.plain [1] false [(0, 0xFFFFFF00)]) (fun _ => none) = true ∧
    wAsks t 0x33 (wPosted [0x33011000, 1]) (Form.plain [1] false [(0, 0xFFFFFF00)]) (fun _ => none) = true :=
  ⟨wAsk [0x33011000, 0] (wFw id), wAsk [0x33011000, 1] (wFw id), by decide +kernel⟩

def wLinks (down : Bool) (s : State) : State := updShelf (fun h => { h with pos := 1, upLink := true, downLink := down }) s

theorem wit_Corridor : ∃ s : State,
    ctrlRuns s = true ∧ s.frame.shelf.upLink = true ∧ s.frame.shelf.downLink = true ∧ s.prot.acceptImages = true ∧
    s.fw.staging = none ∧ stageReason s .corridor (some (stagingTarget s)) = none ∧ verifyFault s wImage = none ∧
    stagingTarget s = 2 :=
  ⟨wLinks true (wFw id), by decide +kernel⟩

theorem wit_CorridorSchedule : ∃ s t : State,
    (ctrlRuns s = true ∧ s.frame.shelf.upLink = true ∧ s.prot.acceptImages = true ∧ s.fw.hold = none ∧ s.fw.cellar = false ∧
      ctrlRuns t = true ∧ t.frame.shelf.upLink = true ∧ t.fw.hold = none) ∧
    slotOfImage s wImage.imageId = some 1 ∧ scheduleReason s 1 (some wImage.imageId) = none ∧ s.fw.sched = none ∧
    t.fw.sched = some { wSched with tag := none } := by
  refine ⟨wLinks true (wFw id), wLinks false (wFw fun w => { w with sched := some { wSched with tag := none } }),
    by decide +kernel, ?_, wit_scheduleReason _ _ (by decide +kernel) rfl (by decide +kernel) (by decide), rfl, rfl⟩
  have v : slotValid (wLinks true (wFw id)) 1 = true := by decide +kernel
  have i : imageIdOf (wLinks true (wFw id)) 1 = wImage.imageId := rfl
  simp [slotOfImage, v, i]

theorem wit_CorridorTransfer : ∃ s : State, ctrlRuns s = true ∧ s.frame.shelf.downLink = true ∧
    s.fw.transfer = some { image := wImage, tries := 7, retryAt := some 0 } ∧ 0 ≤ s.frame.elapsed :=
  ⟨wLinks true (wFw fun w => { w with transfer := some { image := wImage, tries := 7, retryAt := some 0 } }), by decide,
    by decide, rfl, by decide⟩

/-! ### Metering, records, queries, DEC-TED -/

/-- A request waiting, as an accepted one, of `wRun` changed by `f`. -/
def wReq (ws : List Nat) (f : State → State) : State := f (wAsk ws wRun)

theorem wit_MeterRing : Accepted (wAsk [0x40016000, 0x4000, 0, 12, 0x40, 0, 1] wRun) 0x40
      (wPosted [0x40016000, 0x4000, 0, 12, 0x40, 0, 1]) (Form.plain [6] true [(2, 0xFFFFFFE0), (5, 0xFFFFFFFE)]) ringFault ∧
    Accepted (wAsk [0x41011000, 2048] wRun) 0x41 (wPosted [0x41011000, 2048])
      (Form.plain [1] true [(0, 0xFFFFF000)]) (fun r => if 2049 < r.pw 0 then some 1 else none) ∧
    meteredNow (wAsk [0x41011000, 2048] wRun) 2048 = true ∧
    tabGet (wAsk [0x41011000, 2048] wRun).inst.holders 2048 = some holderFresh :=
  ⟨accepted_of (by decide +kernel), accepted_of (by decide +kernel), by decide +kernel⟩

def wMeterRing : Ring := { pf := 2048, base := 0x4000, log2 := 12, ctl := 0x40, enable := true, prod := 4094 }

def wMRec : MRec := { inst := 2048, gen := 0, flags := mflagsZero, span := 1, boot := 1, minute := 0, m := meterZero }

/-- `wRun` at frame 50,000 with a ring of 4,096 entries and one record waiting. -/
def wBatch : State :=
  { wRun with
    frame := { wRun.frame with elapsed := 50000 }
    inst := { wRun.inst with ring := some wMeterRing, batchDue := true, holders := [(2048, { holderFresh with held := [wMRec] })] }
    host := { wRun.host with port0 := { wRun.host.port0 with link := true } } }

theorem wit_MeterBatch : wBatch.inst.batchDue = true ∧ wBatch.inst.lastTry + 50000 ≤ wBatch.frame.elapsed ∧
    hallRuns wBatch = true ∧ wBatch.inst.ring = some wMeterRing ∧ wMeterRing.enable = true ∧ ringLink wBatch wMeterRing = true ∧
    nextBatch wBatch ≠ [] ∧ wMeterRing.prod - 2 + (nextBatch wBatch).length ≤ 2 ^ wMeterRing.log2 := by decide +kernel

def wRecord (n : Nat) : Record := Record.fresh n 1 0 0

theorem wit_Recorder : ∃ s t u : State,
    booted s = true ∧ s.recd.writeDue = true ∧ s.recd.closed = [wRecord 1, wRecord 2] ∧
    (s.recd.closed.map fun r => r.recno % 8192).Nodup ∧ booted t = true ∧ 48 ≤ t.recd.closed.length ∧
    wAsks u 0x50 (wPosted [0x50017100, 0, 0, 2048, 1, 3, 0, 0])
      { lens := [7], desc := some (true, []), mgr := false,
        lenOk := fun r => decide (r.descLen % 2048 = 0) && (decide (r.pw 4 % 4 ≠ 2) || decide (r.descLen = 65536)),
        rsv := [(4, 0xFFFFFFFC), (6, 0xFFFFFFFF)] }
      (fun r => if r.pw 4 % 4 = 2 ∧ r.pw 5 ≠ 0 then some 6 else none) = true ∧
    wAsks (wAsk [0x50017100, 0, 0, 65536, 1, 2, 0, 0] wRun) 0x50 (wPosted [0x50017100, 0, 0, 65536, 1, 2, 0, 0])
      { lens := [7], desc := some (true, []), mgr := false,
        lenOk := fun r => decide (r.descLen % 2048 = 0) && (decide (r.pw 4 % 4 ≠ 2) || decide (r.descLen = 65536)),
        rsv := [(4, 0xFFFFFFFC), (6, 0xFFFFFFFF)] }
      (fun r => if r.pw 4 % 4 = 2 ∧ r.pw 5 ≠ 0 then some 6 else none) = true :=
  ⟨updRecd (fun x => { x with closed := [wRecord 1, wRecord 2], writeDue := true }) wRun,
    updRecd (fun x => { x with closed := (List.range 48).map wRecord }) wRun, wAsk [0x50017100, 0, 0, 2048, 1, 3, 0, 0] wRun,
    by decide +kernel⟩

/-- The first 416 bytes of a configuration record that passes CFG_COMMIT, two DRAM channels of 32 GiB populated; the rest is
zeros. -/
def wCfgHead : List Byte := padTo 416 (fields 416 [(0, le 0x46435A4B 4), (4, le 1 2), (64, [1]), (70, le 1024 2), (72, le 1 2), (74, le 1 2),
  (80, le 0xFFFF 2), (82, le 0xFFFF 2), (192, [5, 1]), (320, [1, 4, 32]), (336, [1, 1, 32])])

theorem leNat_zeros (n : Nat) : leNat (zeros n) = 0 := by
  induction n with
  | zero => rfl
  | succ n ih => simp only [zeros, List.replicate_succ, leNat] at *; rw [ih]; rfl

theorem wCfg_at {n o : Nat} {l : List Byte} (h : l.length ≤ o) : byteAt (l ++ zeros n) o = 0 := by
  unfold byteAt zeros
  simp only [List.getD_eq_getElem?_getD, List.getElem?_append_right h, List.getElem?_replicate]
  split <;> rfl

theorem wCfg_field {n o w : Nat} {l : List Byte} (h : l.length ≤ o) : fieldAt (l ++ zeros n) o w = 0 := by
  unfold fieldAt
  rw [List.drop_append, List.drop_eq_nil_of_le h, List.nil_append]
  unfold zeros
  rw [List.drop_replicate, List.take_replicate]
  exact leNat_zeros _

theorem firstFault_none {l : List (Nat × Bool)} (h : ∀ p ∈ l, p.2 = false) : firstFault l = none := by
  induction l with
  | nil => rfl
  | cons p t ih =>
    obtain ⟨o, b⟩ := p
    have : b = false := h (o, b) (List.mem_cons_self ..)
    subst this
    exact ih fun q hq => h q (List.mem_cons_of_mem _ hq)

theorem rsvd_none {n o k : Nat} {l : List Byte} (h : l.length ≤ o) : ∀ p ∈ rsvdBytes (l ++ zeros n) o k, p.2 = false := by
  intro p hp
  unfold rsvdBytes at hp
  obtain ⟨i, _, rfl⟩ := List.mem_map.mp hp
  simp only [wCfg_at (n := n) (Nat.le_trans h (Nat.le_add_right o i)), ne_eq, not_true_eq_false, decide_false]

theorem wCfgHead_len : wCfgHead.length = 416 := by decide +kernel

/-- What the head decides of the record does not depend on the zeros after it. -/
theorem fieldAt_head {l : List Byte} {o w n : Nat} (h : o + w ≤ l.length) : fieldAt (l ++ zeros n) o w = fieldAt l o w := by
  unfold fieldAt
  rw [List.drop_append, List.take_append, List.length_drop, show w - (l.length - o) = 0 by omega, List.take_zero,
    List.append_nil]

theorem byteAt_head {l : List Byte} {o n : Nat} (h : o < l.length) : byteAt (l ++ zeros n) o = byteAt l o := by
  unfold byteAt
  simp only [List.getD_eq_getElem?_getD, List.getElem?_append_left h]

theorem cfgFault_head (n : Nat) (hn : n = 65120) : cfgFault (wCfgHead ++ zeros n) = none := by
  have len := wCfgHead_len
  have B : ∀ o, 416 ≤ o → byteAt (wCfgHead ++ zeros n) o = 0 := fun o h => wCfg_at (by omega)
  have F : ∀ o w, 416 ≤ o → fieldAt (wCfgHead ++ zeros n) o w = 0 := fun o w h => wCfg_field (by omega)
  have R : ∀ o k, 416 ≤ o → ∀ p ∈ rsvdBytes (wCfgHead ++ zeros n) o k, p.2 = false := fun o k h => rsvd_none (by omega)
  have b : ∀ o, o < 416 → byteAt (wCfgHead ++ zeros n) o = byteAt wCfgHead o := fun o h => byteAt_head (by omega)
  have f : ∀ o w, o + w ≤ 416 → fieldAt (wCfgHead ++ zeros n) o w = fieldAt wCfgHead o w := fun o w h => fieldAt_head (by omega)
  have r : ∀ o k, o + k ≤ 416 → rsvdBytes (wCfgHead ++ zeros n) o k = rsvdBytes wCfgHead o k := by
    intro o k h
    unfold rsvdBytes
    refine List.map_congr_left fun i hi => ?_
    rw [b (o + i) (by have := List.mem_range.mp hi; omega)]
  clear hn len
  revert B F R b f r
  generalize wCfgHead ++ zeros n = c
  intro B F R b f r
  have z : ∀ o ∈ [201, 237], pfShareChecks c o = [] := by
    intro o h
    have k : ∀ o ∈ [201, 237], ∀ i < 9, decide (fieldAt wCfgHead (o + 4 * i) 4 = 0) = true := by decide +kernel
    unfold pfShareChecks
    rw [if_pos]
    simp only [List.all_eq_true, List.mem_range]
    intro i hi
    have e : fieldAt c (o + 4 * i) 4 = fieldAt wCfgHead (o + 4 * i) 4 := f _ _ (by simp at h; omega)
    simpa only [e] using k o h i hi
  unfold cfgFault
  refine firstFault_none ?_
  simp only [List.forall_mem_append, and_assoc]
  refine ⟨?_, ?_, ?_, ?_, ?_, ?_, ?_, ?_, ?_, ?_, ?_, ?_⟩
  · simp only [f 0 4 (by omega), f 4 2 (by omega)]; decide +kernel
  · rw [r 6 2 (by omega)]; decide +kernel
  · rw [r 25 39 (by omega)]; decide +kernel
  · simp only [b 64 (by omega), b 67 (by omega), b 68 (by omega), b 69 (by omega), b 84 (by omega), f 70 2 (by omega),
      f 72 2 (by omega), f 74 2 (by omega), f 76 2 (by omega), f 78 2 (by omega), f 80 2 (by omega), f 82 2 (by omega)]
    decide +kernel
  · rw [r 85 43 (by omega)]; decide +kernel
  · unfold thermalChecks
    simp only [b 128 (by omega), b 129 (by omega), r 134 58 (by omega), show List.range 4 = [0, 1, 2, 3] from rfl, List.map,
      b 130 (by omega), b 131 (by omega), b 132 (by omega), b 133 (by omega), Nat.add_zero, Nat.reduceAdd]
    decide +kernel
  · unfold policyChecks
    simp only [z 201 (by simp), z 237 (by simp), List.forall_mem_append, List.append_nil, r 273 47 (by omega)]
    refine ⟨⟨?_, ?_⟩, by decide +kernel⟩
    · simp only [b 192 (by omega), b 193 (by omega)]; decide +kernel
    · simp only [show List.range 7 = [0, 1, 2, 3, 4, 5, 6] from rfl, List.map, Nat.add_zero, Nat.reduceAdd, b 194 (by omega),
        b 195 (by omega), b 196 (by omega), b 197 (by omega), b 198 (by omega), b 199 (by omega), b 200 (by omega)]
      decide +kernel
  · have e : ∀ i ∈ List.range 6, dramChecks c i = dramChecks wCfgHead i := by
      intro i hi
      have := List.mem_range.mp hi
      unfold dramChecks
      simp only [b (320 + 16 * i) (by omega), b (320 + 16 * i + 1) (by omega), f (320 + 16 * i + 2) 2 (by omega),
        r (320 + 16 * i + 6) 10 (by omega)]
    have d : dramShort c = dramShort wCfgHead := by
      unfold dramShort
      rw [List.map_congr_left (g := fun i => if byteAt wCfgHead (320 + 16 * i) = 1 then fieldAt wCfgHead (322 + 16 * i) 2 else 0)]
      intro i hi
      have := List.mem_range.mp hi
      rw [b _ (by omega), f _ _ (by omega)]
    rw [d, List.map_congr_left e]
    decide +kernel
  · exact R 416 96 (by omega)
  · intro p hp
    obtain ⟨l, hl, hp⟩ := List.mem_flatten.mp hp
    obtain ⟨i, _, rfl⟩ := List.mem_map.mp hl
    unfold channelChecks at hp
    simp [F (512 + 4 * i) 4 (by omega), bits, bitOf] at hp
    rcases hp with rfl | rfl | rfl <;> rfl
  · intro p hp
    obtain ⟨l, hl, hp⟩ := List.mem_flatten.mp hp
    obtain ⟨i, _, rfl⟩ := List.mem_map.mp hl
    unfold classChecks at hp
    simp [B (1024 + 256 * i) (by omega)] at hp
    rcases hp with rfl | rfl | rfl | ⟨a, _, rfl⟩ | rfl | rfl | hp | hp
    · rfl
    · rfl
    · rfl
    · rfl
    · rfl
    · simp [B (1024 + 256 * i + 56) (by omega)]
    · exact R _ _ (by omega) p hp
    · exact R _ _ (by omega) p hp
  · exact R 2048 63488 (by omega)

theorem padTo_short {w : Nat} {l : List Byte} (h : l.length ≤ w) : padTo w l = l ++ zeros (w - l.length) := by
  unfold padTo; rw [List.take_of_length_le h]

theorem commitFault_parts {s : State} {r : Posted} {b : List Byte} {c : Config412} (h : cfgFault b = none)
    (k : rateChanges s c = false ∧ c.totalVfs0 = s.fw.cfg.totalVfs0 ∧ c.syncEn = false ∧ c.balls = 0 ∧
      s.prot.enables.chain2 = false ∧ slotClash s c .port0 = false ∧ slotClash s c .port1 = false ∧
      poolExceeded s c (·.qpairs) (·.qpairs) pfQp = false ∧ poolExceeded s c (·.azones) (·.azones) pfAz = false) :
    commitFault s r b c = none := by
  unfold commitFault
  simp [h, k.1, k.2.1, k.2.2.1, k.2.2.2.1, k.2.2.2.2.1, k.2.2.2.2.2.1, k.2.2.2.2.2.2.1, k.2.2.2.2.2.2.2.1,
    k.2.2.2.2.2.2.2.2, bitOf]

/-- The fields of the record that CFG_COMMIT's further checks look at. -/
def wCfgKey (c : Config412) : List Nat :=
  [c.totalVfs0, flag c.syncEn 1, c.balls, c.pfQp0, c.pfQp1, c.pfAz0, c.pfAz1, c.pfSlot0, c.pfSlot1]

theorem cfgOf_head (n : Nat) : wCfgKey (cfgOf (wCfgHead ++ zeros n)) = [1024, 0, 0, 1, 1, 0, 0, 0xFFFF, 0xFFFF] := by
  have len := wCfgHead_len
  unfold wCfgKey cfgOf
  dsimp only
  rw [fieldAt_head (o := 70) (by omega), fieldAt_head (o := 72) (by omega), fieldAt_head (o := 74) (by omega),
    fieldAt_head (o := 76) (by omega), fieldAt_head (o := 78) (by omega), fieldAt_head (o := 80) (by omega),
    fieldAt_head (o := 82) (by omega), byteAt_head (o := 68) (by omega), byteAt_head (o := 69) (by omega)]
  decide +kernel

/-- A state without instances, classes or namespaces whose configuration keeps both PFs' own key slots. -/
theorem commit_passes {s : State} {r : Posted} (hc : s.media.classes = []) (hv : s.fw.cfg.totalVfs0 = 1024)
    (hd : s.prot.enables.chain2 = false) (hn : s.zone.nss = []) (hi : s.inst.insts = []) (hk : s.host.ctls = [])
    (h0 : pfSlot s.fw.cfg .port0 = 4094) (h1 : pfSlot s.fw.cfg .port1 = 4095) (b : List Byte) (hb : b = wCfgHead) :
    commitFault s r (padTo 65536 b) (cfgOf (padTo 65536 b)) = none := by
  subst hb
  have len := wCfgHead_len
  rw [padTo_short (by omega), len]
  refine commitFault_parts (cfgFault_head _ rfl) ?_
  have k := cfgOf_head (65536 - 416)
  revert k
  generalize cfgOf (wCfgHead ++ zeros (65536 - 416)) = c
  intro k
  simp only [wCfgKey, List.cons.injEq, and_true] at k
  obtain ⟨k1, k2, k3, k4, k5, k6, k7, k8, k9⟩ := k
  have k2' : c.syncEn = false := by
    unfold flag at k2
    split at k2
    · cases k2
    · exact Bool.eq_false_iff.mpr ‹_›
  simp [rateChanges, slotClash, poolExceeded, pfSlot, pfQp, pfAz, ctlOf, hc, hn, hi, hk, k1, k2', k3, k4, k5, k6, k7, k8, k9,
    hv, hd, tabGet] at h0 h1 ⊢
  exact ⟨fun a b => absurd (h0 a).symm b, fun a b => absurd (h1 a).symm b⟩

theorem putAt_mid {h v z Z : List Byte} (l : h.length = 16) (m : v.length = 8) (n : z.length = 8) :
    putAt 16 z (h ++ v ++ Z) = h ++ z ++ Z := by
  unfold putAt
  rw [n, List.append_assoc h v, List.take_append, l, List.take_of_length_le (l := h) (by omega), Nat.sub_self, List.take_zero,
    List.append_nil, ← List.append_assoc h v, List.drop_append, List.drop_eq_nil_of_le (by rw [List.length_append]; omega),
    List.length_append, l, m]
  rfl

theorem leNat_le (n : Nat) : ∀ w, leNat (le n w) = n % 256 ^ w := by
  intro w
  induction w generalizing n with
  | zero => simp [le, leNat, Nat.mod_one]
  | succ w ih =>
    rw [le, leNat, ih, BitVec.toNat_ofNat]
    show n % 256 + _ = _
    rw [Nat.pow_succ, Nat.mul_comm (256 ^ w) 256, Nat.mod_mul]

theorem le_length (n : Nat) : ∀ w, (le n w).length = w := by
  intro w
  induction w generalizing n with
  | zero => rfl
  | succ w ih => simp [le, ih]

def wCalHead : List Byte := le 0x41435A4B 4 ++ le 1 2 ++ zeros 10

theorem fieldAt_app {l m : List Byte} {o w : Nat} (h : o + w ≤ l.length) : fieldAt (l ++ m) o w = fieldAt l o w := by
  unfold fieldAt
  rw [List.drop_append, List.take_append, List.length_drop, show w - (l.length - o) = 0 by omega, List.take_zero,
    List.append_nil]

theorem cal_passes (n : Nat) (x : BitVec 64) (hx : x = crc64 (wCalHead ++ zeros 8 ++ zeros n)) :
    calFault (wCalHead ++ le x.toNat 8 ++ zeros n) = none := by
  have len : wCalHead.length = 16 := rfl
  have lb : (wCalHead ++ le x.toNat 8).length = 24 := by rw [List.length_append, le_length, len]
  have a : putAt 16 (zeros 8) (wCalHead ++ le x.toNat 8 ++ zeros n) = wCalHead ++ zeros 8 ++ zeros n :=
    putAt_mid len (le_length _ _) rfl
  have f : fieldAt (wCalHead ++ le x.toNat 8 ++ zeros n) 16 8 = x.toNat := by
    rw [fieldAt_head (by omega)]
    unfold fieldAt
    rw [List.drop_append, List.drop_eq_nil_of_le (by omega), len, List.nil_append, List.drop_zero,
      List.take_of_length_le (Nat.le_of_eq (le_length _ _)), leNat_le]
    have := x.isLt
    omega
  have m : fieldAt (wCalHead ++ le x.toNat 8 ++ zeros n) 0 4 = 0x41435A4B := by
    rw [fieldAt_head (by omega), fieldAt_app (by rw [len]; omega)]
    decide +kernel
  have m2 : fieldAt (wCalHead ++ le x.toNat 8 ++ zeros n) 4 2 = 1 := by
    rw [fieldAt_head (by omega), fieldAt_app (by rw [len]; omega)]
    decide +kernel
  unfold calFault
  refine firstFault_none ?_
  rw [a, f, m, m2, ← hx]
  have z : ∀ o k, 24 ≤ o → ∀ p ∈ rsvdBytes (wCalHead ++ le x.toNat 8 ++ zeros n) o k, p.2 = false :=
    fun o k h => rsvd_none (by omega)
  have d : ∀ o k, o + k ≤ 16 → rsvdBytes (wCalHead ++ le x.toNat 8 ++ zeros n) o k = rsvdBytes wCalHead o k := by
    intro o k h
    unfold rsvdBytes
    refine List.map_congr_left fun i hi => ?_
    have := List.mem_range.mp hi
    unfold byteAt
    simp only [List.getD_eq_getElem?_getD, List.append_assoc, List.getElem?_append_left (show o + i < wCalHead.length by omega)]
  simp only [List.forall_mem_append, and_assoc]
  refine ⟨by simp, ?_, ?_, by simp, z _ _ (by omega), z _ _ (by omega), z _ _ (by omega), z _ _ (by omega), z _ _ (by omega),
    z _ _ (by omega)⟩
  · rw [d 7 1 (by omega)]; decide +kernel
  · rw [d 12 4 (by omega)]; decide +kernel

/-- Bytes of a calibration set that verifies. -/
theorem cal_bytes : ∃ b : List Byte, calFault (padTo 65536 b) = none := by
  have k : ∀ x : BitVec 64, (wCalHead ++ le x.toNat 8).length = 24 := fun x => by rw [List.length_append, le_length]; rfl
  refine ⟨wCalHead ++ le (crc64 (wCalHead ++ zeros 8 ++ zeros (65536 - 24))).toNat 8, ?_⟩
  rw [padTo_short (by rw [k]; omega), k]
  exact cal_passes _ _ rfl

theorem wit_Records : ∃ (s : State) (b : List Byte) (t u : State),
    Accepted s 0x71 (wPosted [0x71014100, 0, 0, 65536, 0]) { lens := [4], desc := some (false, [65536]), mgr := true }
      (fun _ => none) ∧
    commitFault s (wPosted [0x71014100, 0, 0, 65536, 0]) (padTo 65536 wCfgHead) (cfgOf (padTo 65536 wCfgHead)) = none ∧
    Accepted u 0x61 (wPosted [0x61014100, 0, 0, 65536, 0]) { lens := [4], desc := some (false, [65536]), mgr := true }
      (fun _ => none) ∧ u.prot.calWe = true ∧ calFault (padTo 65536 b) = none ∧
    Accepted t 0x60 (wPosted [0x60014100, 0, 0, 65536, 1]) { lens := [4], desc := some (true, [65536]), mgr := true }
      (fun _ => none) ∧ t.fw.calState ≠ 2 :=
  ⟨wAsk [0x71014100, 0, 0, 65536, 0] wRun, cal_bytes.choose,
    updFw (fun w => { w with calState := 0 }) (wAsk [0x60014100, 0, 0, 65536, 1] wRun),
    updProt (fun p => { p with calWe := true }) (wAsk [0x61014100, 0, 0, 65536, 0] wRun),
    accepted_of (by decide +kernel), commit_passes rfl rfl rfl rfl rfl rfl rfl rfl _ rfl, accepted_of (by decide +kernel), rfl,
    cal_bytes.choose_spec, accepted_of (by decide +kernel), by decide⟩

theorem wit_CfgRead : Accepted (wAsk [0x70015100, 0, 0, 65536, 1, 3] wRun) 0x70 (wPosted [0x70015100, 0, 0, 65536, 1, 3])
      { lens := [5], desc := some (true, [65536]), mgr := false, rsv := [(4, 0xFFFFFFFC)] } (fun _ => none) ∧
    cfgCopy (wAsk [0x70015100, 0, 0, 65536, 1, 3] wRun) 3 = some wRun.fw.cfg :=
  ⟨accepted_of (by decide +kernel), rfl⟩

theorem wit_Queries :
    Accepted (wAsk [0x80014000, 7, 0x205, 0, 0] wRun) 0x80 (wPosted [0x80014000, 7, 0x205, 0, 0])
      (Form.plain [4] true [(0, 0xFFFFFFF8), (1, 0xFFFF0000), (3, 0xFF000000)]) policyFault ∧
    Accepted (wAsk [0x81012000, 0, 0] wRun) 0x81 (wPosted [0x81012000, 0, 0]) (Form.plain [2] false [(0, 0xFFFFFF00)]) placeFault ∧
    Accepted (wAsk [0x90011000, 2] wRun) 0x90 (wPosted [0x90011000, 2]) (Form.plain [1] false [(0, 0xFFFFFF00)])
      (fun r => if 2 < r.pw 0 then some 1 else none) ∧
    Accepted (wAsk [0xA0011000, 1] wRun) 0xA0 (wPosted [0xA0011000, 1]) (Form.plain [1] false [(0, 0xFFFFFF00)])
      (fun r => if 2 < r.pw 0 then some 1 else none) :=
  ⟨accepted_of (by decide +kernel), accepted_of (by decide +kernel), accepted_of (by decide +kernel),
    accepted_of (by decide +kernel)⟩

def updEccMode (s : State) : State := { s with ecc := { s.ecc with mode := true } }

/-- A DEC-TED request of sub-operation `sub` on SRAM target 0x10, word 8191. -/
def wEcc (sub mask : Nat) : List Nat := [0xB0015000, 0x1000 + sub, 8191, 5, 6, 7 + mask * 65536]

theorem wit_Ecc : ∀ sub ∈ subops, ∀ mask ∈ [0x0F, 0xFF],
    wAsks (wAsk (wEcc sub mask) (updEccMode wRun)) 0xB0 (wPosted (wEcc sub mask))
      (Form.plain [5] true [(0, 0xFFFF0000), (1, 0xFFFFE000), (4, 0xFF000000)]) (fun _ => none) = true ∧
    (wPosted (wEcc sub mask)).agent ≠ 0 ∧
    holder (wAsk (wEcc sub mask) (updEccMode wRun)) 2 = (wPosted (wEcc sub mask)).agent ∧
    eccFault (wPosted (wEcc sub mask)) = none ∧ (wPosted (wEcc sub mask)).subop = sub ∧
    bits ((wPosted (wEcc sub mask)).pw 4) 23 16 = mask := by decide +kernel

theorem wit_Scrub : hallRuns wRun = true ∧ booted wRun = true ∧
    dramPopulated (updFw (fun w => { w with cfg := { w.cfg with dram := [(true, 4, 32, 0)] } }) wRun) 0 = true ∧ (0x10 : Nat) ≤ 0x17 := by decide

/-! ### Boot, cold start, cellar -/

def wBoot (b : Boot) : State := updPower (fun p => { p with boot := b }) State.reset

theorem wit_Sequencer : (wBoot .off).power.boot = .off ∧ groupAwaited (wBoot .crystal).power.boot = some 0 ∧
    groupAwaited (wBoot (.rails 3)).power.boot = some 3 ∧ waitFault (wBoot (.rails 2)) 11 = some (1, 11) ∧
    waitFault (wBoot .rom) 15 = some (5, 0) ∧ (wBoot .retry).power.boot = .retry ∧ (wBoot .stopped).power.boot = .stopped ∧
    (updTherm (fun t => { t with cooling := true }) (wBoot .fireHold)).power.boot = .fireHold ∧
    (updTherm (fun t => { t with cooling := true }) (wBoot .fireHold)).therm.cooling = true := by decide +kernel

/-- What a board without flash and without a stored record gives a start. -/
def wFound (strap : Bool) : BootFind :=
  { copies := [(.ok, true), (.ok, true), (.ok, true), (.ok, true)], cfgA := false, cfgB := false, protA := true, protB := true,
    lostUnits := [], lostBlocks := [], calOk := true, luns := [], trains := [], lostZones := [], remoteOk := [], holdup := some (0, true), pslcRate := 0,
    cellarStrap := strap }

/-- Both slots hold an image, the protection state is readable. -/
def wSlots : FwSt := { (wFw id).fw with copyA := none, copyB := none }
def wCold (b : Boot) : State :=
  { wBoot b with fw := wSlots, prot := { State.reset.prot with copyA := true, copyB := true } }

def wDiode : Diode := { warn := false, ring := [], broken := true, code := 0, codeFrom := 0, max := 0, min := 0 }

theorem wit_ColdStart : ∃ p n u v : State,
    p.power.boot = .rom ∧ p.fw.bootStep ≠ 3 ∧ p.power.flush = none ∧ twoBroken p = true ∧
    n.power.boot = .rom ∧ n.fw.bootStep ≠ 3 ∧ n.power.flush = none ∧ twoBroken n = false ∧ n.pins.pfLow = false ∧
    (((wFound false).protA && (newBoot (wFound false) { n with emit := [] }).prot.copyA) ||
      ((wFound false).protB && (newBoot (wFound false) { n with emit := [] }).prot.copyB)) = true ∧
    tryPasses (newBoot (wFound false) { n with emit := [] }) (wFound false) 0 = true ∧
    (wFound false).copies[0]? = some (.ok, true) ∧ mayStart (wFound false) (newBoot (wFound false) { n with emit := [] }) = true ∧
    (({ wFound false with protA := false, protB := false }.protA && n.prot.copyA) ||
      ({ wFound false with protA := false, protB := false }.protB && n.prot.copyB)) = false ∧
    hallStarted u = true ∧ u.power.flush = none ∧ u.fw.bootFrom + 200000 < u.frame.elapsed ∧ u.fw.bootTry = 3 ∧
    hallStarted v = true ∧ v.power.flush = none ∧ v.fw.bootFrom + 200000 < v.frame.elapsed ∧ v.fw.bootTry < 3 ∧
    tryPasses v (wFound false) (v.fw.bootTry + 1) = true ∧ (wFound false).copies[v.fw.bootTry + 1]? = some (.ok, true) ∧
    mayStart (wFound false) v = true :=
  ⟨updTherm (fun t => { t with diodes := [(4, wDiode), (7, wDiode)] }) (wCold .rom), wCold .rom,
    updFrame (fun f => { f with elapsed := 200001 }) (updFw (fun w => { w with bootStep := 3, bootTry := 3 }) (wCold .rom)),
    updFrame (fun f => { f with elapsed := 200001 }) (updFw (fun w => { w with bootStep := 3, bootTry := 1, cfgState := 2 })
      (wCold .rom)), by decide +kernel⟩

/-- `wOwned` with both slots filled. -/
def wCellar (cellar : Bool) : State :=
  { wOwned with
    fw := { wSlots with cellar := cellar, cellarCause := 1, cfgState := 2, stagedAt := some 0 }
    frame := { wOwned.frame with elapsed := 1000 } }

theorem wit_Cellar : OwnerHeard (wCellar false) .i3c ∧
    (wCellar true).fw.cellar = true ∧ tryPasses (wCellar true) (wFound false) 0 = true ∧
    (wFound false).copies[0]? = some (.ok, true) ∧ mayStart (wFound false) (wCellar true) = true ∧
    ownerOpen (wCellar true) = true ∧ gated (wCellar true) = false ∧ (wCellar true).power.entry = none ∧
    sessionOn (wCellar true) .i3c = some { link := .i3c, mutualAuth := true } ∧ slotValid (wCellar true) 1 = true ∧
    (wCellar true).fw.stagedAt = some 0 ∧ (wCellar true).power.boot = .running ∧ (wCellar true).pins.cellar = false ∧
    0 + 1000 ≤ (wCellar true).frame.elapsed :=
  ⟨heard_of { link := .i3c, mutualAuth := true } (by decide +kernel), by decide +kernel⟩

/-! ### Power states, power loss, test access -/

def wPow (f : PowerSt → PowerSt) : State := updPower f { wRun with power := { wRun.power with holdupOk := true } }

def wEntry (wake : Bool) (target : Nat) : Entry := { target := target, from_ := 0, item := none, wake := wake }

/-- An acknowledged unit in the landing buffer. -/
def wWaits : Landed :=
  { slot := 0, nsx := 1, unit := 0, stored := wStored, writer := none, earlier := none, bound := none, pins := 0, frame := 0, order := 5,
    lc := 0, committed := false }

theorem wit_PowerStates : ∃ a b c d e f : State,
    a.power.idleFrom = some 0 ∧ tabGet a.power.apst a.power.ps = some { itps := 3, itpt := 1 } ∧ hallRuns a = true ∧
    a.power.apste = true ∧ a.power.entry = none ∧ a.power.ps ≤ 2 ∧ psRequested a = false ∧ 0 + 1 * 500 < a.frame.elapsed ∧
    refuser { a with emit := [] } = none ∧
    b.power.entry = some (wEntry true 4) ∧ hallRuns b = true ∧ workLeft b (wEntry true 4) = false ∧ b.media.landing = [] ∧
    b.media.rowOps = [] ∧ b.media.ring = [] ∧
    c.power.entry = some (wEntry false 3) ∧ hallRuns c = true ∧ workLeft c (wEntry false 3) = true ∧
    0 + 10000 ≤ c.frame.elapsed ∧
    d.power.entry = some (wEntry false 4) ∧ hallRuns d = true ∧ workLeft d (wEntry false 4) = false ∧ d.media.landing ≠ [] ∧
    0 + 48000 ≤ d.frame.elapsed ∧
    e.power.boot = .running ∧ e.power.entry = none ∧ 3 ≤ e.power.ps ∧
    f.power.boot = .running ∧ f.power.exitFrom.isSome = true ∧ f.power.flush = none :=
  ⟨updFrame (fun f => { f with elapsed := 501 })
      (wPow fun p => { p with idleFrom := some 0, apste := true, apst := [(0, { itps := 3, itpt := 1 })] }),
    wPow fun p => { p with entry := some (wEntry true 4) },
    updFrame (fun f => { f with elapsed := 10000 }) (updHost (fun h => { h with items := [wItem 2048 1 (wSqe 2 1 0 0)] })
      (wPow fun p => { p with entry := some (wEntry false 3) })),
    updFrame (fun f => { f with elapsed := 48000 }) (updMedia (fun m => { m with landing := [wWaits] })
      (wPow fun p => { p with entry := some (wEntry false 4) })),
    wPow fun p => { p with ps := 3 }, wPow fun p => { p with exitFrom := some 0 }, by decide +kernel⟩

/-- An idle timer that expires while an activation is scheduled; an entry that a Set Features asked for, drained and not. -/
theorem wit_PowerStates_more : ∃ a b c d : State,
    a.power.idleFrom = some 0 ∧ tabGet a.power.apst a.power.ps = some { itps := 4, itpt := 1 } ∧ hallRuns a = true ∧
    a.power.apste = true ∧ a.power.entry = none ∧ a.power.ps ≤ 2 ∧ psRequested a = false ∧ 0 + 1 * 500 < a.frame.elapsed ∧
    refuser { a with emit := [] } = some 5 ∧
    b.power.entry = some { wEntry false 3 with item := some 1 } ∧ hallRuns b = true ∧
    workLeft b { wEntry false 3 with item := some 1 } = false ∧ b.media.landing = [] ∧ b.media.rowOps = [] ∧ b.media.ring = [] ∧
    itemBySeq b 1 = some (wItem 2048 0 (wSqe 9 0 2 3)) ∧ (wItem 2048 0 (wSqe 9 0 2 3)).outcome = none ∧
    c.power.entry = some { wEntry false 3 with item := some 1 } ∧ hallRuns c = true ∧
    workLeft c { wEntry false 3 with item := some 1 } = false ∧ c.media.landing ≠ [] ∧ 0 + 48000 ≤ c.frame.elapsed ∧
    itemBySeq c 1 = some (wItem 2048 0 (wSqe 9 0 2 3)) ∧
    d.power.boot = .running ∧ d.power.entry = some (wEntry false 3) :=
  let i := fun s => updHost (fun h => { h with items := [wItem 2048 0 (wSqe 9 0 2 3)] }) s
  let e := fun s => i (updPower (fun p => { p with entry := some { wEntry false 3 with item := some 1 } }) s)
  ⟨updProt (fun p => { p with enables := { p.enables with console := true } }) (updFrame (fun f => { f with elapsed := 501 })
      (wPow fun p => { p with idleFrom := some 0, apste := true, apst := [(0, { itps := 4, itpt := 1 })] })),
    e (wPow id), e (updFrame (fun f => { f with elapsed := 48000 }) (updMedia (fun m => { m with landing := [wWaits] }) (wPow id))),
    wPow fun p => { p with entry := some (wEntry false 3) }, by decide +kernel⟩

/-- A number that no pair of a list begins with. -/
theorem fresh_first : ∀ l : List (Nat × Nat), ∃ n, ∀ m, n ≤ m → (l.any fun b => decide (b.1 = m)) = false
  | [] => ⟨0, fun _ _ => rfl⟩
  | b :: l =>
    let ⟨n, h⟩ := fresh_first l
    ⟨n + b.1 + 1, fun m hm => by
      have : b.1 ≠ m := by omega
      simpa [this] using h m (by omega)⟩

theorem wit_PowerLoss : ∃ a b : State,
    a.power.boot = .running ∧ a.power.holdupMiss = 2 ∧ a.mgmt.running = true ∧ mayFlush a = true ∧ a.power.flush = none ∧
    b.power.flush = some { p := 0, fire := false, commitOnly := true } ∧
    (updPower (fun p => { p with flush := some { p := 0, fire := true, commitOnly := true } }) b).power.flush =
      some { p := 0, fire := true, commitOnly := true } ∧ b.power.flush.isSome = true ∧ mayFlush State.reset = false :=
  ⟨wPow fun p => { p with holdupMiss := 2 }, wPow fun p => { p with flush := some { p := 0, fire := false, commitOnly := true } },
    by decide +kernel⟩

/-- A flush that finds one landed unit to write and one refuge group whose programs succeed. -/
theorem wit_PowerLoss_refuge : ∃ c : State,
    c.power.flush = some { p := 0, fire := false, commitOnly := false } ∧ c.media.ring = [] ∧ c.media.landing = [wWaits] ∧
    wWaits.writer = none ∧ wWaits.committed = false ∧ landingLive c = true ∧ unwritten c ≠ [] ∧
    (unwritten c).length ≤ ((c.media.groups.filter fun p => decide (p.2.st = .refuge) && decide (p.2.nextRow = 0) &&
      !((Config.refugeFails c.free).any fun b => decide (b.1 = p.1))).map fun p => p.2.areaUnits).sum := by
  have ⟨n, h⟩ := fresh_first (Config.refugeFails State.reset.free)
  have hn := h n (Nat.le_refl n)
  refine ⟨updMedia (fun m => { m with landing := [wWaits], groups := [(n, { wGroup with st := .refuge, pslc := true })] })
    (wPow fun p => { p with flush := some { p := 0, fire := false, commitOnly := false } }),
    rfl, rfl, rfl, by decide, by decide, rfl, ?_, ?_⟩
  · exact List.ne_nil_of_length_pos (by show 0 < 1; decide)
  · show 1 ≤ _
    have hf : (wPow fun p => { p with flush := some { p := 0, fire := false, commitOnly := false } }).free = State.reset.free := rfl
    simp [updMedia, hf, hn, wGroup, Group.areaUnits]

theorem wit_TestAccess : ∃ s t : State, jtagAllowed s .idcode = true ∧ jtagAllowed s .extest = false ∧
    bitOf t.fw.cfg.balls 1 = true ∧ t.prot.enables.chain2 = true ∧ bitOf s.fw.cfg.balls 1 = false ∧
    (updProt (fun p => { p with enables := { p.enables with console := true } }) s).prot.enables.console = true ∧
    s.prot.enables = { jtag := false, chain2 := false, console := false } ∧ heldInReset s = false :=
  ⟨wRun, updFw (fun w => { w with cfg := { w.cfg with balls := 2 } })
    (updProt (fun p => { p with enables := { p.enables with chain2 := true } }) wRun), by decide +kernel⟩

/-! ### Queues, controllers and ports -/

/-- The port 0 PF's controller enabled, its link up, elapsed frame 100. -/
def wQueues (c : Ctl) (f : HostSt → HostSt) : State :=
  updHost f { wRun with
    frame := { wRun.frame with elapsed := 100, admission := true }
    host := { wRun.host with
      ctls := [(2048, c)]
      port0 := { link := true, vfEnable := true, numVfs := 8, totalVfs := 1024, firstVf := 1, vfStride := 1 }
      port1 := { link := true, vfEnable := false, numVfs := 0, totalVfs := 1024, firstVf := 1, vfStride := 1 } }
    inst := { wRun.inst with surplus := { wRun.inst.surplus with cmd := 100 * tokenUnit } } }

/-- The same function after a turn of its admin queue. -/
def wTurn : Ctl := { wCtlIo with adminLast := true }

theorem wit_Doorbells : ∃ x : State,
    (∃ q, tabGet wCtlIo.sqs 1 = some q ∧ 3 < q.size ∧ q.bells = [0]) ∧
    (∃ q, tabGet wCtlIo.cqs 1 = some q ∧ q.waiting = [] ∧ 1 < q.size ∧ (1 + q.size - q.head) % q.size ≤ q.entries.length) ∧
    (∃ q, tabGet wCtlIo.sqs 0 = some q ∧ q.bells = [0]) ∧
    fetchOpen (wQueues wCtlIo id) = true ∧ wCtlIo.rdy = true ∧ wCtlIo.fetchPaused = false ∧ wCtlIo.closing = false ∧
    silentLeft (wQueues wCtlIo id) 2048 = false ∧ ctlOf (wQueues wCtlIo id) 2048 = some wCtlIo ∧ wCtlIo.en = true ∧
    fnTurn (wQueues wCtlIo id) 2048 = true ∧ sqTurn (wQueues wCtlIo id) 2048 wCtlIo 0 = true ∧
    findItem { wQueues wCtlIo id with emit := [] } { fn := 2048, sq := 0, cid := (9 : Half).toNat } = none ∧
    takeTokens 2048 (wSqe 0 1 0 0) { wQueues wTurn id with emit := [] } = some x ∧
    findItem x { fn := 2048, sq := 1, cid := (9 : Half).toNat } = none ∧
    fetchOpen (wQueues wTurn id) = true ∧ ctlOf (wQueues wTurn id) 2048 = some wTurn ∧ adminDue wTurn = false ∧
    silentLeft (wQueues wTurn id) 2048 = false ∧ shardRuns (wQueues wTurn id) 2048 1 = true ∧
    fnTurn (wQueues wTurn id) 2048 = true ∧ sqTurn (wQueues wTurn id) 2048 wTurn 1 = true ∧
    (vecOf wCtlIo 0).pend ≠ 0 ∧ (vecOf wCtlIo 0).since + 50 * wCtlIo.feats.coalTime < (wQueues wCtlIo id).frame.elapsed :=
  ⟨(takeTokens 2048 (wSqe 0 1 0 0) { wQueues wTurn id with emit := [] }).getD wRun,
    ⟨_, rfl, by decide⟩, ⟨_, rfl, by decide⟩, ⟨_, rfl, by decide⟩, by decide +kernel⟩

theorem wit_Controllers : ∃ s : State, s.power.boot = .running ∧ ctlOf s 2048 = some wCtlIo ∧ visible s 5 = true ∧
    instAt s 5 = some wInst ∧ wInst.st ≠ .creating ∧ s.power.entry = none ∧ s.power.ps < 3 ∧
    5 ∈ shown s .port0 ∧
    5 ∉ shown (updHost (fun h => { h with port0 := { h.port0 with numVfs := 5 } }) s) .port0 ∧
    (updPower (fun p => { p with boot := .held }) s).power.boot = .held ∧ hallRuns s = true ∧ visible s 2048 = true ∧
    ({ wCtlIo with en := false }).en = false ∧ (0x00460001 : Word).getLsbD 0 = true :=
  ⟨updInst (fun i => { i with insts := [(5, wInst)] }) (wQueues wCtlIo id), by decide +kernel⟩

/-- A command whose tokens are short, one whose CID is in flight, and a function that is not there. -/
theorem wit_Fetch_more : ∃ s t : State,
    takeTokens 2048 (wSqe 2 1 0 0) { s with emit := [] } = none ∧ fetchOpen s = true ∧ ctlOf s 2048 = some wTurn ∧
    silentLeft s 2048 = false ∧ fnTurn s 2048 = true ∧ sqTurn s 2048 wTurn 1 = true ∧ adminDue wTurn = false ∧
    shardRuns s 2048 1 = true ∧
    findItem { t with emit := [] } { fn := 2048, sq := 0, cid := (9 : Half).toNat } ≠ none ∧
    (∀ k ∈ t.host.items, k.seq ≠ t.host.nextSeq) ∧ fetchOpen t = true ∧ ctlOf t 2048 = some wCtlIo ∧
    silentLeft t 2048 = false ∧ fnTurn t 2048 = true ∧ sqTurn t 2048 wCtlIo 0 = true ∧ visible s 2000 = false :=
  ⟨updInst (fun i => { i with surplus := { i.surplus with cmd := 0 } }) (wQueues wTurn id),
    wQueues wCtlIo fun h => { h with items := [wItem 2048 0 (wSqe 0 1 0 0)], nextSeq := 2 }, by decide +kernel⟩

/-! ### Admin commands -/

/-- `wAdmin` with the controller given. -/
def wAdminC (c : Ctl) (e : Sqe) (s : State) : State := updHost (fun h => { h with ctls := [(2048, c)] }) (wAdmin e s)

theorem wit_IoQueues :
    (∃ s, wAdmins s wCmd 0x05 .all (wItem 2048 0 (wSqe 5 0 0x30001 3)) = true ∧ ctlOf s 2048 = some wCtl ∧
      tabGet wCtl.cqs 1 = none ∧ 1 ≤ wCtl.qpairs ∧ 0 < wCtl.msix ∧ dw (0x30001 : Word) 15 0 = 1 ∧ dw (0x30001 : Word) 31 16 = 3) ∧
    (∃ s, wAdmins s wCmd 0x01 .all (wItem 2048 0 (wSqe 1 0 0x30001 0x10001)) = true ∧
      ctlOf s 2048 = some { wCtl with cqs := wCtlIo.cqs } ∧ tabGet wCtl.sqs 1 = none ∧ tabGet wCtlIo.cqs 1 ≠ none ∧
      dw (0x10001 : Word) 31 16 = 1) ∧
    (∃ s, wAdmins s wCmd 0x00 .all (wItem 2048 0 (wSqe 0 0 1 0)) = true ∧ ctlOf s 2048 = some wCtlIo ∧
      tabGet wCtlIo.sqs 1 ≠ none ∧ fetchedFrom s 2048 1 = false) ∧
    (∃ s, wAdmins s wCmd 0x00 .all (wItem 2048 0 (wSqe 0 0 1 0)) = true ∧ ctlOf s 2048 = some wCtlIo ∧
      tabGet wCtlIo.sqs 1 ≠ none ∧ fetchedFrom s 2048 1 = true) ∧
    (∃ s, wAdmins s wCmd 0x04 .all (wItem 2048 0 (wSqe 4 0 1 0)) = true ∧ ctlOf s 2048 = some { wCtl with cqs := wCtlIo.cqs } ∧
      ∀ p ∈ wCtl.sqs, p.2.cq ≠ 1) :=
  ⟨⟨wAdmin (wSqe 5 0 0x30001 3) wRun, by decide +kernel⟩,
    ⟨wAdminC { wCtl with cqs := wCtlIo.cqs } (wSqe 1 0 0x30001 0x10001) wRun, by decide +kernel⟩,
    ⟨wAdminC wCtlIo (wSqe 0 0 1 0) wRun, by decide +kernel⟩,
    ⟨updHost (fun h => { h with items := h.items ++ [{ wItem 2048 1 (wSqe 2 1 0 0) with seq := 2 }] })
      (wAdminC wCtlIo (wSqe 0 0 1 0) wRun), by decide +kernel⟩,
    ⟨wAdminC { wCtl with cqs := wCtlIo.cqs } (wSqe 4 0 1 0) wRun, by decide +kernel⟩⟩

theorem sets_of {s : State} {id : CmdId} {fid : Nat} {it : Item} (h : wAdmins s id 0x09 .all it = true)
    (k : fidOf it = fid ∧ dw it.sqe.cdw10 31 31 = 0 ∧ isManager s it.id.fn = true) (mgr : Bool) : SetsFeature s id fid mgr it :=
  ⟨admin_of h, k.1, k.2.1, fun _ => k.2.2⟩

/-- Every feature can be set by the manager; 20 is a lifetime exponent, a vector 0 and a threshold of the composite. -/
theorem wit_Features : ∀ fid ∈ [0x01, 0x02, 0x04, 0x05, 0x07, 0x08, 0x09, 0x0A, 0x0B, 0x0C, 0x0E, 0xC4],
    wAdmins (wAdmin (wSqe 9 0 (BitVec.ofNat 32 fid) (if fid = 0xC4 then 20 else 0)) wRun) wCmd 0x09 .all
      (wItem 2048 0 (wSqe 9 0 (BitVec.ofNat 32 fid) (if fid = 0xC4 then 20 else 0))) = true ∧
    fidOf (wItem 2048 0 (wSqe 9 0 (BitVec.ofNat 32 fid) (if fid = 0xC4 then 20 else 0))) = fid ∧
    dw (wSqe 9 0 (BitVec.ofNat 32 fid) (if fid = 0xC4 then 20 else 0)).cdw10 31 31 = 0 ∧
    isManager (wAdmin (wSqe 9 0 (BitVec.ofNat 32 fid) (if fid = 0xC4 then 20 else 0)) wRun) 2048 = true := by decide +kernel

theorem wit_FeatureValues :
    wRun.power.psDue = [] ∧ wRun.power.entry = none ∧ dw (0 : Word) 4 0 = wRun.power.ps ∧ dw (4 : Word) 4 0 ≠ wRun.power.ps ∧
    dw (4 : Word) 4 0 ≤ 4 ∧ (0 : Nat) < wCtl.msix ∧
    (∀ i < 32, apstOk i (apstEntry (le 0x1918 8 ++ zeros 248) i) = true) ∧
    apstEntry (le 0x1918 8 ++ zeros 248) 0 ≠ { itps := 0, itpt := 0 } := by decide +kernel

theorem wit_Identify : ∃ s, wAdmins s wCmd 0x06 .all (wItem 2048 0 (wSqe 6 0 6 0)) = true ∧
    (identifyData (admitted s (wItem 2048 0 (wSqe 6 0 6 0))) 2048 6 0 0 (guardOfFn s 2048)).isRight = true :=
  ⟨wAdmin (wSqe 6 0 6 0) wRun, by decide +kernel, by decide +kernel⟩

theorem wit_GetLogPage : ∃ s, wAdmins s wCmd 0x02 .all (wItem 2048 0 (wSqe 2 0 0x38004 0)) = true ∧ ctlOf s 2048 = some wCtl ∧
    dw (0x38004 : Word) 15 15 = 1 ∧ wCtl.aers = [] ∧
    (logData (admitted s (wItem 2048 0 (wSqe 2 0 0x38004 0))) 2048 4 0 wCtl).isRight = true :=
  ⟨wAdmin (wSqe 2 0 0x38004 0) wRun, by decide +kernel, rfl, by decide, rfl, by decide +kernel⟩

theorem wit_GetFeatures : ∃ s, wAdmins s wCmd 0x0A .all (wItem 2048 0 (wSqe 10 0 0xE 0)) = true ∧ ctlOf s 2048 = some wCtl ∧
    fids.contains (fidOf (wItem 2048 0 (wSqe 10 0 0xE 0))) = true ∧ isManager s 2048 = true ∧
    dw (0x10E : Word) 10 8 = 1 ∧ dw (0x20E : Word) 10 8 = 2 ∧ dw (0x30E : Word) 10 8 = 3 :=
  ⟨wAdmin (wSqe 10 0 0xE 0) wRun, by decide +kernel⟩

theorem wit_Security : ∃ s t,
    wAdmins s wCmd 0x81 .all (wItem 2048 0 (wSqe 0x81 0 0 0)) = true ∧ protocolOf (wItem 2048 0 (wSqe 0x81 0 0 0)) = 0 ∧
    wAdmins t wCmd 0x82 .all (wItem 2048 0 (wSqe 0x82 0 0 9)) = true ∧ protocolOf (wItem 2048 0 (wSqe 0x82 0 0 9)) = 0 :=
  ⟨wAdmin (wSqe 0x81 0 0 0) wRun, wAdmin (wSqe 0x82 0 0 9) wRun, by decide +kernel⟩

def wMiSend : Sqe := { wSqe 0x1D 0 0 3 with cdw12 := 0x30003, cdw13 := 64 }

theorem wit_MiTunnel : ∃ s t, wAdmins s wCmd 0x1D .pf (wItem 2048 0 wMiSend) = true ∧ s.mgmt.running = true ∧
    (miConfigSet 0x30003 64 s.mgmt).isSome = true ∧
    wAdmins t wCmd 0x1E .pf (wItem 2048 0 (wSqe 0x1E 0 0 4)) = true ∧ t.mgmt.running = true :=
  ⟨wAdmin wMiSend wRun, wAdmin (wSqe 0x1E 0 0 4) wRun, by decide +kernel⟩

/-- A conventional namespace of the port 0 PF, of 16 units. -/
def wNs : Ns :=
  { owner := 2048, nsid := 1, zoned := false, lbaf := 0, pit := 0, ext := false, pil := false, width := 8, zexp := 0,
    secdisc := false, nsze := 16, attached := true, cls := 0, resv := 0, zbase := 0, zcount := 0, salt := 0, saltGen := 0,
    fmt := none, hostGroup := [], gcGroup := [], claims := [], shelfGroup := none, blocked := false }

def wWithNs (n : Ns) (s : State) : State := updZone (fun z => { z with nss := [(0, n)] }) s

/-- A directive command: type in [15:8] of dword 11, operation in [7:0]. -/
def wDirective (opc op : Nat) : Sqe :=
  { wSqe (BitVec.ofNat 8 opc) 1 0 (BitVec.ofNat 32 op) with cdw12 := 0x101 }

/-- Every directive operation of the statement. -/
theorem wit_Directives : ∀ opc ∈ [0x19, 0x1A], ∀ op ∈ [0x001, 0x101, 0x102, 0x103],
    wAdmins (wWithNs wNs (wAdmin (wDirective opc op) wRun)) wCmd opc .all (wItem 2048 0 (wDirective opc op)) = true ∧
    nsOf (wWithNs wNs (wAdmin (wDirective opc op) wRun)) 2048 1 = some (0, wNs) := by decide +kernel

/-- A Sanitize whose action the device lacks, and a Zone Management Send of a reserved action. -/
theorem wit_BadActions : ∃ s t : State,
    findItem s wCmd = some (wItem 2048 0 (wSqe 0x84 0 7 0)) ∧ itemBySeq s 1 = some (wItem 2048 0 (wSqe 0x84 0 7 0)) ∧
    inTurn s (wItem 2048 0 (wSqe 0x84 0 7 0)) = true ∧ adminOpen s = true ∧ badAction (wItem 2048 0 (wSqe 0x84 0 7 0)) = true ∧
    accessFault s 2048 .manager = none ∧
    findItem t { fn := 2048, sq := 1, cid := 9 } = some (wItem 2048 1 { wSqe 0x79 1 0 0 with cdw13 := 0xF }) ∧
    inTurn t (wItem 2048 1 { wSqe 0x79 1 0 0 with cdw13 := 0xF }) = true ∧ hallRuns t = true ∧ shardRuns t 2048 1 = true ∧
    badZoneAction { wSqe 0x79 1 0 0 with cdw13 := 0xF } = true ∧ nsOf t 2048 1 = some (0, { wNs with zoned := true }) ∧
    ioAccepts true (wItem 2048 1 { wSqe 0x79 1 0 0 with cdw13 := 0xF }).opc = true :=
  ⟨wAdmin (wSqe 0x84 0 7 0) wRun, wWithNs { wNs with zoned := true } (updHost (fun h => { h with
      items := [wItem 2048 1 { wSqe 0x79 1 0 0 with cdw13 := 0xF }] }) (wAdminC wCtlIo (wSqe 0 0 0 0) wRun)), by decide +kernel⟩

theorem wit_Unsupported : ∃ s t : State,
    findItem s wCmd = some (wItem 2048 0 (wSqe 0x7F 0 0 0)) ∧ itemBySeq s 1 = some (wItem 2048 0 (wSqe 0x7F 0 0 0)) ∧
    hallRuns s = true ∧ inTurn s (wItem 2048 0 (wSqe 0x7F 0 0 0)) = true ∧ adminOpen s = true ∧ shardRuns t 2048 1 = true ∧
    inTurn t (wItem 2048 1 (wSqe 0x79 1 0 0)) = true ∧ adminOpcodes.contains (wItem 2048 0 (wSqe 0x7F 0 0 0)).opc = false ∧
    findItem t { fn := 2048, sq := 1, cid := 9 } = some (wItem 2048 1 (wSqe 0x79 1 0 0)) ∧
    nsOf t 2048 1 = some (0, wNs) ∧ ioAccepts wNs.zoned (wItem 2048 1 (wSqe 0x79 1 0 0)).opc = false ∧ hallRuns t = true :=
  ⟨wAdmin (wSqe 0x7F 0 0 0) wRun,
    wWithNs wNs (updHost (fun h => { h with items := [wItem 2048 1 (wSqe 0x79 1 0 0)] }) (wAdminC wCtlIo (wSqe 0 0 0 0) wRun)),
    by decide +kernel⟩

/-- An Abort of the command 5 of queue 1, and that command. -/
def wAbort : Item := wItem 2048 0 (wSqe 8 0 0x50001 0)
def wTarget : Item := { wItem 2048 1 (wSqe 2 1 0 0) with id := { fn := 2048, sq := 1, cid := 5 }, seq := 0 }

theorem wit_Abort : ∃ s t u : State,
    wAdmins s wCmd 0x0C .all (wItem 2048 0 (wSqe 0xC 0 0 0)) = true ∧ ctlOf s 2048 = some wCtl ∧ wCtl.aers.length < 16 ∧
    9 ∉ wCtl.aers ∧ wCtl.events = [] ∧
    wAdmins t wCmd 0x08 .all wAbort = true ∧ wAbort.ranges = [] ∧ findItem t { fn := 2048, sq := 1, cid := 5 } = none ∧
    wAdmins u wCmd 0x08 .all wAbort = true ∧ findItem u { fn := 2048, sq := 1, cid := 5 } = some wTarget ∧
    itemBySeq u 0 = some wTarget ∧ notAbortable wTarget = false ∧ wTarget.running = false ∧ wTarget.silent = false ∧
    ctlOf u 2048 = some wCtlIo ∧ cqOf wCtlIo 1 ≠ cqOf wCtlIo 0 :=
  ⟨wAdmin (wSqe 0xC 0 0 0) wRun, wAdmin (wSqe 8 0 0x50001 0) wRun,
    updHost (fun h => { h with items := [wTarget, wAbort] }) (wAdminC wCtlIo (wSqe 8 0 0x50001 0) wRun), by decide +kernel⟩

/-- `wRun` with one class that can hold the namespace. -/
def wTrng (s : State) : State := updProt (fun p => { p with trngOk := true }) s

/-- The data structure of a conventional namespace without units, and a controller list of the port 0 PF. -/
def wNsData : List Byte := padTo 4096 (fields 3088 [(3073, [8])])
def wCtrlList : List Byte := padTo 4096 ([1, 0] ++ le (cntlid 2048) 2)

theorem wit_NsDelete : ∃ s t u : State,
    wAdmins s wCmd 0x0D .manager (wItem 2048 0 (wSqe 0xD 1 1 0)) = true ∧
    (wItem 2048 0 (wSqe 0xD 1 1 0)).phase ≠ .started ∧ s.media.journalReadOnly = false ∧
    nsPf s 2048 1 = some (0, wNs) ∧ wNs.fmt = none ∧
    wAdmins t wCmd 0x15 .manager (wItem 2048 0 (wSqe 0x15 1 0 0)) = true ∧
    nsPf t 2048 1 = some (0, { wNs with attached := false }) ∧ ctrlList (padTo 4096 wCtrlList) = [cntlid 2048] ∧
    ctlOf t 2048 = some wCtl ∧ wCtl.aers = [] ∧
    wAdmins u wCmd 0x15 .manager (wItem 2048 0 (wSqe 0x15 1 1 0)) = true ∧ nsPf u 2048 1 = some (0, wNs) ∧
    (∀ k ∈ u.host.items, k.io = false) :=
  ⟨wWithNs wNs (wAdmin (wSqe 0xD 1 1 0) wRun), wWithNs { wNs with attached := false } (wAdmin (wSqe 0x15 1 0 0) wRun),
    wWithNs wNs (wAdmin (wSqe 0x15 1 1 0) wRun), by decide +kernel⟩

/-- A delete of all, where no PF has a namespace, and where one has. -/
theorem wit_NsDeleteAll : ∃ s t : State,
    wAdmins s wCmd 0x0D .manager (wItem 2048 0 (wSqe 0xD 0xFFFFFFFF 1 0)) = true ∧ s.media.journalReadOnly = false ∧
    (∀ p ∈ s.zone.nss, p.2.owner < 2048) ∧ s.zone.nss ≠ [] ∧
    wAdmins t wCmd 0x0D .manager (wItem 2048 0 (wSqe 0xD 0xFFFFFFFF 1 0)) = true ∧
    (∀ p ∈ t.zone.nss, 2048 ≤ p.2.owner → p.2.fmt = none) ∧ (∃ p ∈ t.zone.nss, 2048 ≤ p.2.owner) :=
  ⟨wWithNs { wNs with owner := 5 } (wAdmin (wSqe 0xD 0xFFFFFFFF 1 0) wRun),
    wWithNs wNs (wAdmin (wSqe 0xD 0xFFFFFFFF 1 0) wRun), by decide +kernel⟩

def wFmt : Progress :=
  { kind := .crypto, lbaf := 1, pit := 0, ext := false, pil := false, started := true, startFrame := 0, total := 0 }

theorem wit_Format : ∃ s t u v w : State,
    wAdmins s wCmd 0x80 .all (wItem 2048 0 (wSqe 0x80 1 0x401 0)) = true ∧ nsOf s 2048 1 = some (0, wNs) ∧
    eraseKindOf (dw (0x401 : Word) 11 9) = some .crypto ∧ s.prot.trngOk = true ∧
    (∃ n p, nsAt t 0 = some n ∧ n.fmt = some p ∧ p.started = true ∧ t.power.boot = .running ∧
      instSanitizing t n.owner = false ∧ wipeDone t p.kind 0 = true) ∧
    wAdmins u wCmd 0x84 .manager (wItem 2048 0 (wSqe 0x84 0 4 0)) = true ∧ u.prot.trngOk = true ∧
    (u.zone.nss.any fun p => formatRuns u p.2) = false ∧
    wAdmins v wCmd 0x84 .manager (wItem 2048 0 (wSqe 0x84 0 1 0)) = true ∧ v.zone.san.st = .failed ∧
    w.zone.san.st = .running ∧ w.power.boot = .running ∧ (∀ p ∈ w.zone.nss, wipeDone w w.zone.san.kind p.1 = true) :=
  ⟨wTrng (wWithNs wNs (wAdmin (wSqe 0x80 1 0x401 0) wRun)),
    wWithNs { wNs with fmt := some wFmt } wRun,
    wTrng (wAdmin (wSqe 0x84 0 4 0) wRun),
    updZone (fun z => { z with san := { z.san with st := .failed } }) (wAdmin (wSqe 0x84 0 1 0) wRun),
    updZone (fun z => { z with san := { z.san with st := .running } }) (wWithNs wNs wRun),
    by decide +kernel, by decide +kernel, by decide +kernel, by decide +kernel,
    ⟨_, _, rfl, rfl, rfl, rfl, by decide +kernel, by decide +kernel⟩, by decide +kernel⟩

def wClass : Class :=
  { key := [], rows := 1, blocks := 100, bitsPerCell := 3, tR := 0, tProg := 0, tBers := 0, tSus := 0, maxR := 0, maxProg := 0,
    maxBers := 0, suspProg := 0, suspErase := 0, suspend := false, pslc := true, ratedPe := 0, pslcPe := 0,
    rates := [0, 0, 0, 0, 0], ofsMin := 0, ofsMax := 0, dir := 0, lastShelf := false, planes := 4, suspOps := [], levelAddr := 0,
    levelLun := false, pslcIn := 0, pslcOut := 0 }

def wDie : Die := Die.fresh 0 [] 100

/-- `s` with eight dies of one class on eight channels. -/
def wFlash (s : State) : State :=
  updFlash (fun f => { f with dies := (List.range 8).map fun i => (32 * i, wDie) })
    (updMedia (fun m => { m with classes := [(0, wClass)] }) s)

def wNsReq : List Byte := fields 4096 [(0, [1]), (3073, [8])]

def wCreateNs : State := wFlash (wTrng (wAdmin (wSqe 0xD 0 0 0) wRun))

def wQ : NsReq :=
  { nsze := 1, csi := 0, lbaf := 0, pit := 0, ext := false, pil := false, zexp := 0, width := 8, secdisc := false }

theorem wReq_eq : mgmtReq (wItem 2048 0 (wSqe 0xD 0 0 0)) (padTo 4096 wNsReq) = wQ := by decide +kernel

theorem wRoom : nsShort (admitted wCreateNs (wItem 2048 0 (wSqe 0xD 0 0 0))) [wQ] = none := by decide +kernel

theorem wit_NsCreate :
    wAdmins wCreateNs wCmd 0x0D .manager (wItem 2048 0 (wSqe 0xD 0 0 0)) = true ∧ wCreateNs.media.journalReadOnly = false ∧
    byteAt (padTo 4096 wNsReq) 3074 ≤ 1 ∧ (rsvdBytes (padTo 4096 wNsReq) 3075 13).any (·.2) = false ∧
    (mgmtReq (wItem 2048 0 (wSqe 0xD 0 0 0)) (padTo 4096 wNsReq)).fieldsOk = true ∧
    (mgmtReq (wItem 2048 0 (wSqe 0xD 0 0 0)) (padTo 4096 wNsReq)).pit = 0 ∧ wCreateNs.prot.trngOk = true ∧
    slotChanges wCreateNs 2048 = false ∧ freeNsid wCreateNs 2048 = some 1 ∧
    nsShort (admitted wCreateNs (wItem 2048 0 (wSqe 0xD 0 0 0))) [mgmtReq (wItem 2048 0 (wSqe 0xD 0 0 0)) (padTo 4096 wNsReq)] = none := by
  rw [wReq_eq]
  exact ⟨by decide +kernel, rfl, by decide +kernel, by decide +kernel, by decide, rfl, rfl, by decide +kernel,
    by decide +kernel, wRoom⟩

/-! ### I/O commands -/

/-- An I/O command of the port 0 PF on its queue 1. -/
def wIoCmd : CmdId := { fn := 2048, sq := 1, cid := 9 }

/-- The port 0 PF with one namespace and one item. -/
def wIo (n : Ns) (it : Item) (s : State) : State :=
  wWithNs n (updHost (fun h => { h with ctls := [(2048, wCtlIo)], items := [it], nextSeq := 2 }) s)

/-- Every condition of `IoRuns` as one Boolean. -/
def wIoRuns (s : State) (id : CmdId) (opc : Nat) (it : Item) (x : Nat) (n : Ns) : Bool :=
  decide (findItem s id = some it) && decide (itemBySeq s it.seq = some it) && decide (id.sq ≠ 0) && decide (it.opc = opc) &&
  decide (it.phase = .fetched) && decide (it.silent = false) && ioOpen s it && decide (parseIo s it = .inr (x, n))

theorem ioRuns_of {s : State} {id : CmdId} {opc : Nat} {it : Item} {x : Nat} {n : Ns} (h : wIoRuns s id opc it x n = true) :
    IoRuns s id opc it x n := by
  simp only [wIoRuns, Bool.and_eq_true, decide_eq_true_eq] at h
  obtain ⟨⟨⟨⟨⟨⟨⟨h1, h2⟩, h3⟩, h4⟩, h5⟩, h6⟩, h7⟩, h8⟩ := h
  exact ⟨h1, h2, h3, h4, h5, h6, h7, h8⟩

def wIoItem (e : Sqe) : Item := wItem 2048 1 e
def wReadE : Sqe := wSqe 2 1 0 0
/-- A Dataset Management of one range, with the Deallocate attribute. -/
def wDsm : Sqe := wSqe 9 1 0 4
def wRange : List Byte := le 0 4 ++ le 4 4 ++ le 8 8

/-- A zoned namespace of the port 0 PF, of two zones of 16 units, with one zone row claimed in its first zone. -/
def wZoned : Ns := { wNs with zoned := true, zexp := 16, nsze := 32, zcount := 2 }
def wZone (st : ZState) : Zone := { Zone.fresh 0 0 with st := st, claims := [(0, 0)] }
def wZ (st : ZState) (s : State) : State := updZone (fun z => { z with zones := [(0, wZone st)] }) s

/-- A conventional namespace with one row claimed. -/
def wClaimed : Ns := { wNs with claims := [(0, [0])] }

theorem wit_IoRuns :
    wIoRuns (wIo wNs (wIoItem (wSqe 0 1 0 0)) wRun) wIoCmd 0x00 (wIoItem (wSqe 0 1 0 0)) 0 wNs = true ∧
    barrierOpen (wIo wNs (wIoItem (wSqe 0 1 0 0)) wRun) (wIoItem (wSqe 0 1 0 0)) = true ∧
    ioOpen (wIo wNs (wIoItem (wSqe 0 0xFFFFFFFF 0 0)) wRun) (wIoItem (wSqe 0 0xFFFFFFFF 0 0)) = true ∧
    sglFault (wSqe 0 0xFFFFFFFF 0 0) = none ∧
    blockedAll (wIo wNs (wIoItem (wSqe 0 0xFFFFFFFF 0 0)) wRun) (wIoItem (wSqe 0 0xFFFFFFFF 0 0)) = none ∧
    wIoRuns (wIo wNs (wIoItem wReadE) wRun) wIoCmd 0x02 (wIoItem wReadE) 0 wNs = true ∧
    deallocatedRead (wIo wNs (wIoItem wReadE) wRun) (wIoItem wReadE) 0 wNs 0 1 = false ∧
    wIoRuns (wIo wNs (wIoItem (wSqe 0xC 1 0 0)) wRun) wIoCmd 0x0C (wIoItem (wSqe 0xC 1 0 0)) 0 wNs = true ∧
    wIoRuns (wIo wNs (wIoItem wDsm) wRun) wIoCmd 0x09 (wIoItem wDsm) 0 wNs = true ∧ wDsm.cdw11.getLsbD 2 = true ∧
    ((dsmRanges { bytes := wRange, failAt := none } 1).any fun r => decide (wNs.nsze < r.1 + r.2)) = false ∧
    wIoRuns (wIo wNs (wIoItem (wSqe 9 1 0 0)) wRun) wIoCmd 0x09 (wIoItem (wSqe 9 1 0 0)) 0 wNs = true ∧
    wIoRuns (wIo wZoned (wIoItem { wSqe 0x7A 1 0 0 with cdw12 := 31 }) wRun) wIoCmd 0x7A
      (wIoItem { wSqe 0x7A 1 0 0 with cdw12 := 31 }) 0 wZoned = true := by decide +kernel

/-- Every condition of `ZoneTakes`. -/
def wZoneTakes (w : State) (it : Item) (n : Ns) (z : Nat) (r : Zone) : Bool :=
  decide (zoneAt w z = some r) && barrierOpen w it && zoneTurn w z it && decide (r.drain = none) && landingRoom w &&
  !w.media.journalReadOnly && decide (zoneChecks w it n r = none) && !n.blocked &&
  (claimRows z n (rowsOf n r.ap it.sqe.nlb) (openForWrite z it n r w)).isSome

theorem zoneTakes_of {w : State} {it : Item} {n : Ns} {z : Nat} {r : Zone} (h : wZoneTakes w it n z r = true) :
    ZoneTakes w it n z r := by
  simp only [wZoneTakes, Bool.and_eq_true, decide_eq_true_eq, Bool.not_eq_true'] at h
  obtain ⟨⟨⟨⟨⟨⟨⟨⟨h1, h2⟩, h3⟩, h4⟩, h5⟩, h6⟩, h7⟩, h8⟩, h9⟩ := h
  exact ⟨h1, h2, h3, by simp [h4], h5, h6, h7, h8, Option.isSome_iff_ne_none.mp h9⟩

/-- A write of one block at LBA 0 of opcode `o`. -/
def wWr (o : Byte) : Sqe := wSqe o 1 0 0
def wWaiting (o : Byte) (h : Hold) : Item := { wIoItem (wWr o) with phase := .waiting, hold := h }
/-- `wIo` with the named namespace zoned or claimed. -/
def wConv (it : Item) : State := wIo wClaimed it wRun
def wZoneSt (it : Item) : State := wZ .implicit (wIo wZoned it (updHost (fun h => h) wRun))

theorem wit_WritesStart :
    (∀ o ∈ [(0x01 : Byte), 0x08], wIoRuns (wConv (wIoItem (wWr o))) wIoCmd o.toNat (wIoItem (wWr o)) 0 wClaimed = true) ∧
    (∀ o ∈ [(0x01 : Byte), 0x08, 0x7D], wIoRuns (wZoneSt (wIoItem (wWr o))) wIoCmd o.toNat (wIoItem (wWr o)) 0 wZoned = true ∧
      wZoneTakes (parsed (wZoneSt (wIoItem (wWr o))) (wIoItem (wWr o))) (wIoItem (wWr o)) wZoned 0 (wZone .implicit) = true) ∧
    zoneOfUnit wZoned 0 = 0 ∧
    (∀ h ∈ [Hold.reserve, .landing, .order], ioOpen (wConv (wWaiting 1 h)) (wWaiting 1 h) = true ∧
      nsOf (wConv (wWaiting 1 h)) 2048 1 = some (0, wClaimed)) ∧
    wZoneTakes { wZoneSt (wWaiting 1 .order) with emit := [] } (wWaiting 1 .order) wZoned 0 (wZone .implicit) = true ∧
    nsOf (wZoneSt (wWaiting 1 .order)) 2048 1 = some (0, wZoned) ∧
    ioOpen (wConv (wWaiting 2 .order)) (wWaiting 2 .order) = true ∧
    ({ wWr 8 with cdw12 := 0x2000000 }).cdw12.getLsbD 25 = true ∧
    wIoRuns (wConv (wIoItem { wWr 8 with cdw12 := 0x2000000 })) wIoCmd 8 (wIoItem { wWr 8 with cdw12 := 0x2000000 }) 0
      wClaimed = true := by decide +kernel

theorem wit_ConvTakes (it : Item) (h : it ∈ [wWaiting 1 .reserve, wWaiting 1 .landing, wWaiting 1 .order, wIoItem (wWr 1), wIoItem (wWr 8)]) :
    ConvTakes { wConv it with emit := [] } it 0 wClaimed ∧ ConvTakes (parsed (wConv it) it) it 0 wClaimed := by
  have k : ∀ it ∈ [wWaiting 1 .reserve, wWaiting 1 .landing, wWaiting 1 .order, wIoItem (wWr 1), wIoItem (wWr 8)],
      ∀ w ∈ [{ wConv it with emit := [] }, parsed (wConv it) it], barrierOpen w it = true ∧ landingRoom w = true ∧
        w.media.journalReadOnly = false ∧ it.sqe.cdw12.getLsbD 25 = false ∧
        rowsShort w 0 wClaimed (handleLc it.sqe.handle) (unitCount wClaimed it.sqe.slba it.sqe.nlb) = 0 := by decide +kernel
  constructor
  · obtain ⟨a, b, c, d, e⟩ := k it h { wConv it with emit := [] } (by simp)
    exact ⟨a, b, c, rfl, fun _ => d, _, by rw [e]; rfl⟩
  · obtain ⟨a, b, c, d, e⟩ := k it h (parsed (wConv it) it) (by simp)
    exact ⟨a, b, c, rfl, fun _ => d, _, by rw [e]; rfl⟩

/-- A started write of opcode `o`, of unit 0 alone, and one whose work is done. -/
def wStarted (o : Byte) : Item := { wIoItem (wWr o) with phase := .started, count := 1 }
def wDone (o : Byte) : Item := { wStarted o with phase := .done, doneUnits := [0] }
def wDrained : Item := { wStarted 1 with phase := .done, outcome := some stDataTransfer }
def wDrainZone : Zone := { wZone .implicit with drain := some { offset := 0, marked := [1], from_ := 2 } }

theorem wit_Landing :
    (∀ o ∈ [(0x01 : Byte), 0x02], findItem (wConv (wStarted o)) wIoCmd = some (wStarted o) ∧ hallRuns (wConv (wStarted o)) = true ∧
      nsOf (wConv (wStarted o)) 2048 1 = some (0, wClaimed) ∧ nsAt (wConv (wStarted o)) 0 = some wClaimed) ∧
    (blockSpan wClaimed (wWr 1) 0).2 = blocksPerUnit wClaimed ∧ wClaimed.pit = 0 ∧
    overlapped (wConv (wStarted 1)) 0 wClaimed 0 (wStarted 1) = false ∧
    mayPost (wConv (wDone 1)) (wDone 1) = true ∧ itemZone (wConv (wDone 1)) (wDone 1) = none ∧
    mayPost (wZoneSt (wDone 0x7D)) (wDone 0x7D) = true ∧ itemZone (wZoneSt (wDone 0x7D)) (wDone 0x7D) = some 0 ∧
    zoneOrder (wZoneSt (wDone 0x7D)) 0 (wDone 0x7D) = true ∧ zoneOff wZoned (wDone 0x7D) + 1 ≠ zoneCap wZoned ∧
    zoneOff wZoned { wDone 1 with unit := 13 } + 1 = zoneCap wZoned ∧
    zoneOrder (wZoneSt { wDone 1 with unit := 13 }) 0 { wDone 1 with unit := 13 } = true ∧
    zoneAt (wZoneSt (wDone 1)) 0 = some (wZone .implicit) ∧ itemZone (wZoneSt (wStarted 1)) (wStarted 1) = some 0 ∧
    (zoneAt (updZone (fun z => { z with zones := [(0, wDrainZone)] }) (wZoneSt wDrained)) 0) = some wDrainZone ∧
    ((zoneItems (wZoneSt wDrained) 0).any fun k => k.running && decide (k.unit < 0)) = false ∧
    itemBySeq (wZoneSt wDrained) 1 = some wDrained ∧
    (wStarted 1).life < (wStarted 1).age 2000000 ∧ clk (wShelf Shelf.reset) = 2000000 := by decide +kernel

/-- A Zone Management Send of an action on zone 0. -/
def wSend (a : ZAction) (all : Nat) : Sqe := { wSqe 0x79 1 0 0 with cdw13 := BitVec.ofNat 32 (a.code + 256 * all) }
def wSendSt (a : ZAction) (all : Nat) (st : ZState) (n : Ns) : State := wZ st (wIo n (wIoItem (wSend a all)) wRun)

theorem wit_Zones :
    (∀ p ∈ [(ZAction.close, ZState.implicit), (.finish, .implicit), (.open_, .closed), (.reset, .full), (.offline, .readOnly)],
      (∀ all < 2, wIoRuns (wSendSt p.1 all p.2 wZoned) wIoCmd 0x79 (wIoItem (wSend p.1 all)) 0 wZoned = true ∧
        barrierOpen (wSendSt p.1 all p.2 wZoned) (wIoItem (wSend p.1 all)) = true ∧
        bits (wSend p.1 all).cdw13.toNat 7 0 = p.1.code ∧ (wSend p.1 all).cdw13.getLsbD 8 = decide (all = 1)) ∧
      zoneMeets p.1 p.2 = .change ∧ sentAll (wSendSt p.1 1 p.2 wZoned) p.1 wZoned = [0] ∧
      zoneAt (wSendSt p.1 0 p.2 wZoned) 0 = some (wZone p.2)) ∧
    zoneMeets .close .closed = .same ∧ sentAll (wSendSt .close 1 .closed wZoned) .close wZoned = [] ∧
    resetReady (wSendSt .reset 0 .full { wZoned with secdisc := true }) 0 0 = true ∧
    (∀ l ∈ [2 ^ 35 + 1, 2 ^ 36 + 1], (l : Int) - 1 < ((wShelf Shelf.reset).frame.elapsed : Int) - (2000000 - (l : Int))) ∧
    zoneAt (wZ .implicit (wWithNs wZoned wRun)) 0 = some (wZone .implicit) := by decide +kernel

/-- A conventional namespace of 512 B blocks whose unit 0, of which a write covers one block, lies in flash or nowhere. -/
def wParts : Ns := { wNs with lbaf := 3 }
def wLoc : Loc := { eg := 0, row := 0, slot := 0, ddp := 0 }
def wPart (e : Option PmEntry) : State := setPm 0 0 e (wIo wParts (wStarted 1) wRun)

theorem wit_PartialUnits :
    (∀ s ∈ [wPart none, wPart (some (.flash wLoc))], findItem s wIoCmd = some (wStarted 1) ∧ itemBySeq s 1 = some (wStarted 1) ∧
      hallRuns s = true ∧ nsOf s 2048 1 = some (0, wParts) ∧ nsAt s 0 = some wParts ∧ unitBusy s 0 0 1 0 = false ∧
      overlapped s 0 wParts 0 (wStarted 1) = false) ∧
    (wStarted 1).phase = .started ∧ (wStarted 1).silent = false ∧ (wStarted 1).outcome = none ∧
    (blockSpan wParts (wWr 1) 0).2 ≠ blocksPerUnit wParts ∧ wParts.pit = 0 ∧
    (∃ old, oldUnit { wPart none with emit := [] } 1 0 wParts 0 = .ready (some old)) ∧
    pmAt (wPart (some (.flash wLoc))) 0 0 = some (.flash wLoc) ∧ (wPart none).flash.cache = [] ∧ (wPart none).flash.reads = [] :=
  ⟨by decide +kernel, rfl, rfl, rfl, by decide +kernel, rfl, ⟨_, rfl⟩, by decide +kernel, rfl, rfl⟩

theorem wit_DmaFailures :
    (wStarted 2).failed = [] ∧ (wConv (wStarted 1)).zone.discards = [] ∧ wClaimed.zoned = false ∧
    itemZone (wZoneSt (wStarted 0x7D)) (wStarted 0x7D) = some 0 ∧ (wZone .implicit).drain = none ∧ (wZone .implicit).nsx = 0 := by
  decide +kernel

/-! ### Rows, dies, reads and relocation -/

def wDie0 : Die := Die.fresh 0 [] 100

/-- `s` with eight dies of one class, and the given group as group 0. -/
def wMedia (g : Group) (s : State) : State :=
  updFlash (fun f => { f with dies := (List.range 8).map fun i => (32 * i, wDie0) })
    (updMedia (fun m => { m with classes := [(0, wClass)], groups := [(0, g)] }) s)

/-- The state with its dies changed, and with media and flash state set. -/
def wDies (d : Die) (s : State) : State := updFlash (fun f => { f with dies := [(0, d)] }) s

/-- An acknowledged landed unit of namespace 0. -/
def wLanded (u : Nat) : Landed :=
  { slot := u, nsx := 0, unit := u, stored := wStored, writer := none, earlier := none, bound := none, pins := 0, frame := 0, order := u,
    lc := 0, committed := false }

def wRows (n : Ns) (l : List Landed) : State :=
  updMedia (fun m => { m with landing := l }) (wMedia wGroup (wWithNs n wRun))

/-- The landed units of one whole conventional row. -/
def wRow : List Landed := (List.range 112).map wLanded

/-- The frame in which a unit landed in frame 0 has waited 2^20 frames. -/
def wLate (s : State) : State := updFrame (fun f => { f with elapsed := 1048577 }) s

theorem wit_RowsConv :
    nsAt (wRows wClaimed wRow) 0 = some wClaimed ∧ groupAt (wRows wClaimed wRow) 0 = some wGroup ∧
    claimGood (wRows wClaimed wRow) 0 = true ∧ nsClaims wClaimed 0 = [0] ∧
    (convRowUnits (wRows wClaimed wRow) 0 0 112).length = rowUnits wClaimed.width ∧
    partialWaited (wLate (wRows wClaimed [wLanded 0])) (convRowUnits (wLate (wRows wClaimed [wLanded 0])) 0 0 112) = true ∧
    booted (wRows wClaimed wRow) = true ∧ flushing (wRows wClaimed wRow) = false ∧
    rowTurn (noteReady (wRows wClaimed wRow)) 0 0 = true ∧
    rowTurn (noteReady (wLate (wRows wClaimed [wLanded 0]))) 0 0 = true := by decide +kernel

/-- A zoned namespace whose first zone has one row of 112 units, full and claimed in group 0. -/
def wZoned1 : Ns := { wNs with zoned := true, zexp := 20, nsze := 256, zcount := 1 }

theorem wit_RowsZoned :
    zoneAt (wZ .full (wRows wZoned1 [wLanded 0])) 0 = some (wZone .full) ∧ zoneOfUnit wZoned1 0 = 0 ∧
    zoneRowUnits (wZ .full (wRows wZoned1 [wLanded 0])) 0 0 (rowUnits wZoned1.width) = [wLanded 0] ∧
    tabGet (wZone .full).claims 0 = some 0 ∧ 0 < zoneCap wZoned1 ∧
    partialWaited (wLate (wZ .implicit (wRows wZoned1 [wLanded 0]))) [wLanded 0] = true ∧
    rowTurn (noteReady (wZ .full (wRows wZoned1 [wLanded 0]))) 0 0 = true ∧
    rowTurn (noteReady (wLate (wZ .implicit (wRows wZoned1 [wLanded 0])))) 0 0 = true ∧
    zoneLeaves (wZ .full (wRows wZoned1 [wLanded 0])) 0 = false := by decide +kernel

/-- A row in program with one unit, its last member outstanding; and the operation of die 0 on it. -/
def wRowOp : RowOp :=
  { rowOp 0 none 0 none [(0, { unit := 0, src := .landing 0, stored := wStored })] with outstanding := [0] }
def wProg (k : OpKind) : DieOp :=
  { kind := k, eg := 0, row := 0, member := 0, issued := 0, ran := 0, nominal := 0, suspended := false, suspPending := false,
    suspAt := 0, resumedAt := none, susps := 0, senses := 0, suspFrames := 0 }
def wOpDie (k : OpKind) : Die := { wDie0 with op := some (wProg k), ready := true }
def wProgs (k : OpKind) (o : List RowOp) (g : Group) : State :=
  updMedia (fun m => { m with rowOps := o }) (wDies (wOpDie k) (wMedia g wRun))
def wErasing : Group := { wGroup with st := .pendingErase, pendIdx := some 0, erasing := [0] }

theorem wit_Programs :
    opReady (wProgs .program [wRowOp] wGroup) 0 .program = some (wProg .program, wClass) ∧
    rowOpAt (wProgs .program [wRowOp] wGroup) 0 0 = some wRowOp ∧
    (wRowOp.outstanding.filter fun i => decide (i ≠ 0)) = [] ∧ wRowOp.failed = false ∧
    rowOpAt (wProgs .program [{ wRowOp with outstanding := [0, 1] }] wGroup) 0 0 = some { wRowOp with outstanding := [0, 1] } ∧
    opReady (wProgs .erase [] wErasing) 0 .erase = some (wProg .erase, wClass) ∧
    groupAt (wProgs .erase [] wErasing) 0 = some wErasing ∧ 0 ∈ wErasing.erasing ∧ groupBlocks wErasing ≠ [] ∧
    groupAt (wProgs .program [wRowOp] wGroup) 0 = some wGroup := by decide +kernel

/-- A relocation row with the record of its victim, a read of which is or is not outstanding. -/
def wRelocs (l : List RdOp) : State :=
  updFlash (fun f => { f with reads := l })
    (updMedia (fun m => { m with victims := [{ eg := 1, prio := 2, copies := [], rows := [], stuck := [] }] })
      (wProgs .program [{ wRowOp with reloc := some 1 }] wGroup))

def wRelocRead : RdOp :=
  { id := 4, for_ := .reloc 1, nsx := 0, unit := 0, loc := locOf 0 0 0, step := 1, extra := 0, lr := false, fua := true,
    back := none, st := .requested, frame := 0, senses := [], noBack := false, resensed := false, pin := none, second := false }

theorem wit_RelocPrograms : ∀ l ∈ [[], [wRelocRead]],
    opReady (wRelocs l) 0 .program = some (wProg .program, wClass) ∧
    rowOpAt (wRelocs l) 0 0 = some { wRowOp with reloc := some 1 } ∧
    ((wRelocs l).flash.reads.any fun r => decide (r.for_ = .reloc 1)) = !l.isEmpty ∧
    ((wRelocs l).media.victims.find? fun k => decide (k.eg = 1)) = some { eg := 1, prio := 2, copies := [], rows := [], stuck := [] } := by
  decide +kernel

/-- The device with one record waiting. -/
def wRing (r : JRec) (s : State) : State := updMedia (fun m => { m with ring := [r] }) s

theorem mayCommit_of {s : State} {r : JRec} {rest : List JRec} (h : s.media.ring = r :: rest ∧ s.power.boot = .running ∧
    s.media.journalReadOnly = false ∧ ringFull s r.len = false ∧ extentsUsed (commits s r rest) ≤ extentBlocks) :
    MayCommit s r rest := ⟨h.1, h.2.1, h.2.2.1, h.2.2.2.1, h.2.2.2.2⟩

def wRec : JRec := jrec .erasePend
/-- The records of a conventional row, of a zone row, and of a relocated row. -/
def wRecConv : JRec := { jrec .pageRow with row := some wRowOp }
def wZoneOp (reloc : Option Nat) : RowOp := { wRowOp with zone := some (0, 0), reloc := reloc }
def wRecZone (reloc : Option Nat) : JRec := { jrec .zoneExt with row := some (wZoneOp reloc) }
def wBound : Landed := { wLanded 0 with bound := some (locOf 0 0 0) }
def wCommitConv : State :=
  wRing wRecConv (updMedia (fun m => { m with landing := [wBound], pageMap := [(0, .landing 0)] }) (wRows wClaimed []))
def wCommitZone (reloc : Option Nat) : State :=
  wRing (wRecZone reloc) (wZ .implicit (updMedia (fun m => { m with landing := [wBound] }) (wRows wZoned1 [])))
def wWaitItem : Item := { wIoItem wDsm with phase := .started }

/-- The EG_STATE record of a group that is full. -/
def wCloses : JRec := { jrec .egState with egTo := some .closed }

theorem wit_GroupRecords :
    MayCommit (wRing wCloses (wMedia { wGroup with valid := 1 } wRun)) wCloses [] ∧ wGroup.st = .opened ∧
    groupAt (wRing wCloses (wMedia { wGroup with valid := 1 } wRun)) 0 = some { wGroup with valid := 1 } ∧ wGroup.area = false := by
  refine ⟨mayCommit_of ?_, ?_⟩ <;> decide +kernel

theorem wit_Commit :
    MayCommit (wRing wRec (wMedia wGroup wRun)) wRec [] ∧ MayCommit (wRing (jrec .eraseDone) (wMedia wGroup wRun)) (jrec .eraseDone) [] ∧
    MayCommit wCommitConv wRecConv [] ∧ MayCommit (wCommitZone none) (wRecZone none) [] ∧
    MayCommit (wCommitZone (some 1)) (wRecZone (some 1)) [] ∧ relocRec (wRecZone (some 1)) = some 1 ∧
    rowRecord wRowOp wRecConv ∧ rowRecord (wZoneOp none) (wRecZone none) ∧
    pmAt wCommitConv 0 0 = some (.landing 0) ∧
    (wZoneOp none).units.filter (zoneUnitLive (wCommitZone none) (wZone .implicit) 8 0 (wZoneOp none)) ≠ [] ∧
    MayCommit (wRing { wRec with items := [1] } (wIo wNs wWaitItem wRun)) { wRec with items := [1] } [] ∧
    itemBySeq (wRing { wRec with items := [1] } (wIo wNs wWaitItem wRun)) 1 = some wWaitItem := by
  refine ⟨mayCommit_of ?_, mayCommit_of ?_, mayCommit_of ?_, mayCommit_of ?_, mayCommit_of ?_, rfl,
    ⟨rfl, rfl, rfl, rfl, rfl, rfl, rfl, by decide⟩, ⟨rfl, rfl, rfl, rfl, rfl, rfl, rfl, by decide⟩, rfl,
    by decide +kernel, mayCommit_of ?_, rfl⟩ <;> decide +kernel

def wHome (s : State) : State :=
  updMedia (fun m => { m with
    uncopied := [{ wRec with todo := [7], segs := [5] }], dirtySegs := [5], spareLines := 1
    groups := [(9, { wGroup with st := .system })] }) s
def wPend : Group := { wErasing with erasing := [] }

theorem wit_Home :
    lineDue (wHome wRun) 7 = true ∧ (wHome wRun).media.spareLines ≠ 0 ∧ (wHome wRun).media.dirtySegs = [5] ∧
    (readLines [] { wHome wRun with emit := [] }).media.journalReadOnly = false ∧ 2 ≤ (copyDies (wHome wRun) 5).length ∧
    groupAt (wMedia wPend wRun) 0 = some wPend ∧ readOn (wMedia wPend wRun) 0 = false ∧
    (updFrame (fun f => { f with inputOpen := true }) (wMedia wPend wRun)).frame.inputOpen = true ∧ groupBlocks wPend ≠ [] ∧
    ((groupBlocks wPend).all fun b => match dieAt (wMedia wPend wRun) b.1 with
      | some d => d.inUse
      | none => false) = true := by decide +kernel

/-! ### Dies -/

def wSense : Sense := { id := 3, eg := 0, row := 0, member := 0, issued := 0, ofs := none }
def wRead (st : RdState) (step : Nat) : RdOp :=
  { id := 4, for_ := .host 1, nsx := 0, unit := 0, loc := locOf 0 0 0, step := step, extra := 0, lr := false, fua := false,
    back := none, st := st, frame := 0, senses := [(0, 3)], noBack := false, resensed := false, pin := none, second := false }
def wOneDie (d : Die) : State := wDies d (wMedia wGroup (wShelf Shelf.reset))
def wSuspended : Die := { wDie0 with op := some { wProg .program with suspPending := true }, queue := [wSense] }
def wSensed : Die := { wDie0 with sensing := some wSense, ready := true }
def wFlashed (d : Die) (l : List RdOp) (c : Chan) : State := updFlash (fun f => { f with reads := l, chans := [(0, c)] }) (wOneDie d)
def wChan (step fails : Nat) : Chan :=
  { targets := 2, luns := 1, dqLoads := 1, cfgStep := 1, step := step, trained := true, lastTrain := 0, trainTemp := 0,
    fails := fails, retraining := false, failed := false, wpHigh := true, xferErrs := [], tuned := [], retrain := none,
    windowDue := false, busLeft := 0, xfers := [], dataIns := [] }

theorem wit_Dies :
    dieAt (wOneDie wSensed) 0 = some wSensed ∧ classAt (wOneDie wDie0) 0 = some wClass ∧ pollDue (wOneDie wSensed) wSensed = true ∧
    wantedSlots (wOneDie wSensed) 3 = [] ∧
    wantedSlots (wFlashed wSensed [wRead .sensing 1] (wChan 1 0)) 3 = [0] ∧
    codeSize (groupRate (wFlashed wSensed [wRead .sensing 1] (wChan 1 0)) 0) ≤ 10000 ∧
    pollDue (wOneDie (wOpDie .erase)) (wOpDie .erase) = true ∧ xferPending (wOneDie (wOpDie .erase)) 0 = false ∧
    dataPending (wOneDie (wOpDie .erase)) 0 = false ∧ dieAt (wOneDie (wOpDie .erase)) 0 = some (wOpDie .erase) ∧ dieAt (wOneDie wSuspended) 0 = some wSuspended ∧
    wSuspended.inUse = true ∧ flushing (wOneDie wSuspended) = false ∧
    timedOut (wOneDie { wDie0 with sensing := some wSense }) { wDie0 with sensing := some wSense } wClass = true ∧
    ((updFlash (fun f => { f with reads := [wRead .sensing 1] }) (wOneDie wDie0)).flash.reads.any fun r =>
      (r.senseOf wSense.id).isSome && !r.resensed) = true ∧
    timedOut (wOneDie (wOpDie .erase)) (wOpDie .erase) wClass = true ∧
    timedOut (wOneDie (wOpDie .program)) (wOpDie .program) wClass = true ∧
    hallRuns (wOneDie wDie0) = true ∧ (wOneDie wDie0).flash.windowFrom + 65536 < (wOneDie wDie0).frame.elapsed := by decide +kernel

/-- A system group whose die 0 can pay for a save, 2^28 frames after the last one. -/
def wSaver : State :=
  updFrame (fun f => { f with elapsed := 2 ^ 30 }) (wDies wDie0 (wMedia { wGroup with st := .system } wRun))

theorem wit_TrackerSave : booted wSaver = true ∧ flushing wSaver = false ∧
    wSaver.flash.lastSave + 2 ^ 28 ≤ wSaver.frame.elapsed ∧ savePayer wSaver = some (0, 0) ∧ dieAt wSaver 0 = some wDie0 := by
  decide +kernel

/-- The channel 0 as given, long after its last training. -/
def wChans (x : Chan) : State :=
  updFrame (fun f => { f with elapsed := 2 ^ 30 }) (updFlash (fun f => { f with chans := [(0, x)] }) wRun)
def wRetrain (target : Nat) (up : Bool) : Retrain := { target := target, windows := 1, last := none, since := 0, upward := up }

/-- An idle channel with a trigger, and one without; and channels in a retraining: at each target, upward or not, for the
first time or again, at the last step or not. -/
theorem wit_Chans :
    (∀ x ∈ [wChan 1 0, { wChan 1 0 with retrain := some (wRetrain 0 false) }, { wChan 1 0 with retrain := some (wRetrain 1 false) },
        { wChan 2 0 with retrain := some (wRetrain 1 true) }, { wChan 1 1 with retrain := some (wRetrain 0 false) },
        { wChan 7 1 with retrain := some (wRetrain 0 false) }],
      chanAt (wChans x) 0 = some x ∧ hallRuns (wChans x) = true ∧ x.failed = false ∧ x.trained = true ∧
      retrainDue (wChans x) 0 x true = true) ∧
    retrainDue wRun 0 { wChan 1 0 with trainTemp := regionTemp wRun 0 } false = false ∧ (wRetrain 0 false).windows ≠ 0 := by
  decide +kernel

/-! ### Reads -/

/-- A stored unit of namespace 0 whose stored check is right. -/
def wUnit : Stored := { wStored with hdr := { wStored.hdr with nsx := 0 }, check := innerCheck 0 0 { wStored.hdr with nsx := 0 } }
def wReadsOf (w : Stored) (st : RdState) (step : Nat) : State :=
  updFlash (fun f => { f with reads := [wRead st step] })
    (updMedia (fun m => { m with flash := [(flashKey (locOf 0 0 0), w)] }) (wMedia wGroup (wIo wNs (wStarted 2) wRun)))
def wReads (st : RdState) (step : Nat) : State := wReadsOf wUnit st step

theorem wReadsOf_flash (w : Stored) (st : RdState) (step : Nat) : flashAt (wReadsOf w st step) (locOf 0 0 0) = some w := by
  simp [flashAt, wReadsOf, updFlash, updMedia, tabGet]

theorem wReads_flash (st : RdState) (step : Nat) : flashAt (wReads st step) (wRead st step).loc = some wUnit :=
  wReadsOf_flash wUnit st step

theorem wit_Reads :
    (∀ st ∈ [RdState.decoding, .rebuilt], findRead (wReads st 2) 4 = some (wRead st 2) ∧ hallRuns (wReads st 2) = true ∧
      wanted (wReads st 2) (wRead st 2) wUnit = true) ∧
    flashAt (wReads .decoding 2) (wRead .decoding 2).loc = some wUnit ∧ innerCheck wUnit.data wUnit.meta_ wUnit.hdr = wUnit.check ∧
    memberPlace (wReads .decoding 1) (wRead .decoding 1).loc (targetMember (wReads .decoding 1) (wRead .decoding 1).loc) ≠ none ∧
    findItem (wReads .decoding 2) wIoCmd = some (wStarted 2) ∧ nsOf (wReads .decoding 2) 2048 1 = some (0, wNs) ∧
    hdrMatches wNs 0 0 wUnit.hdr = true ∧ wUnit.hdr.poison = false :=
  ⟨by decide +kernel, wReads_flash _ _, rfl, by decide +kernel, by decide +kernel, by decide +kernel, by decide +kernel, rfl⟩

/-- A reconstruction whose members have decoded: the parity holds the target, the other members pads. -/
def wRebuilt : State := updMedia (fun m => { m with parity := [(0, wUnit)] }) (wReads .rebuilt 5)

theorem xor_twice (a b : Stored) : (a.xor b).xor b = a := by
  have k : ∀ x y : UKind, kindOf ((kindOf (x.code ^^^ y.code)).code ^^^ y.code) = x := by
    intro x y; cases x <;> cases y <;> rfl
  obtain ⟨_, _, ⟨_, _, _, _, _, _, _⟩, _, _, _⟩ := a
  simp [Stored.xor, UnitHdr.xor, BitVec.xor_assoc, Nat.xor_assoc, k]

theorem wRebuilt_unit : xorOthers wRebuilt (locOf 0 0 0) 8 = wUnit := by
  have h : xorOthers wRebuilt (locOf 0 0 0) 8 =
    ((((((wUnit.xor padUnit).xor padUnit).xor padUnit).xor padUnit).xor padUnit).xor padUnit) := rfl
  simp only [h, xor_twice]

/-- No parity and no member's data: what comes out is no unit of the namespace. -/
theorem wReads_unit : xorOthers (wReads .rebuilt 1) (locOf 0 0 0) 8 = noUnit := by
  have h : xorOthers (wReads .rebuilt 1) (locOf 0 0 0) 8 =
    ((((((noUnit.xor padUnit).xor padUnit).xor padUnit).xor padUnit).xor padUnit).xor padUnit) := rfl
  simp only [h, xor_twice]

/-- A member on its first sensing, tracked, and a target that is not; a sensing of step 3 each time. -/
def wMembers : State :=
  updFlash (fun f => { f with trackers := [(blockKey 0 0, { Trk.fresh with ofs := [1] })] }) (wReads (.members [0] []) 5)

theorem wit_Ladder :
    findRead wMembers 4 = some (wRead (.members [0] []) 5) ∧ memberPlace wMembers (locOf 0 0 0) 0 = some (0, 0, 0, false) ∧
    tracked wMembers 0 0 = true ∧ tracked (wReads .decoding 1) 0 0 = false ∧
    (∀ n ∈ [1, 2, 3, 4], findRead (wReads .decoding n) 4 = some (wRead .decoding n)) ∧
    findRead wRebuilt 4 = some (wRead .rebuilt 5) ∧ groupAt wRebuilt 0 = some wGroup ∧
    wanted wRebuilt (wRead .rebuilt 5) wUnit = true ∧
    wanted (wReads .rebuilt 1) { wRead .rebuilt 1 with back := some .unavailable } noUnit = false ∧
    groupAt (wReads .rebuilt 1) 0 = some wGroup := by
  decide +kernel

/-! ### Relocation -/

def wClosed : Group := { wGroup with st := .closed, refresh := true, valid := 1 }
/-- One unit of namespace 0 in the closed group. -/
def wVictim (g : Group) : State :=
  updMedia (fun m => { m with pageMap := [(0, .flash (locOf 0 0 0))], flash := [(flashKey (locOf 0 0 0), wUnit)] })
    (wMedia g (wWithNs wNs wRun))
def wDisc (stale current : List Nat) : Discard :=
  { seq := 1, nsx := 0, first := 0, count := 1, begun := true, stale := stale, current := current }
def wDiscard (stale current : List Nat) : State :=
  updHost (fun h => { h with items := [wWaitItem] })
    (updZone (fun z => { z with discards := [wDisc stale current] }) (wVictim { wClosed with refresh := false }))

/-- The die that holds the unit is slow and was last read in frame 0. -/
def wProbed : State :=
  updFrame (fun f => { f with elapsed := 2000 })
    (updFlash (fun f => { f with dies := [(32, { wDie0 with mark := .slow })] }) (wVictim wClosed))

theorem wit_Relocation :
    (victimOrder (wVictim wClosed)).head? = some (2, 0) ∧ victimUnits (wVictim wClosed) 0 wClosed ≠ [] ∧
    (wVictim wClosed).media.victims.length < 64 ∧ wClosed.victim = false ∧ hallRuns (wVictim wClosed) = true ∧
    discardReady (wDiscard [0] []) (wDisc [0] []) = true ∧ ({ wClosed with refresh := false }).candidate = true ∧
    nsAt (wDiscard [0] []) 0 = some wNs ∧ rangeInFlight (wDiscard [0] []) { wDisc [] [] with begun := false } = false ∧
    ((wDiscard [0] []).zone.discards.find? fun d => decide (d.seq = 1)) = some (wDisc [0] []) ∧
    (wDiscard [0] []).media.journalReadOnly = false ∧ victimUnits (wDiscard [0] []) 0 { wClosed with refresh := false } ≠ [] ∧
    pendWaits (wDiscard [] [0]) 0 = false ∧ pendRoom (wDiscard [] [0]) = true ∧ (1 : Nat) ≠ wipeKey 0 ∧
    ((victimUnits (wDiscard [] [0]) 0 { wClosed with refresh := false }).filter fun p => !inRange (wDisc [] [0]) p.1) = [] ∧
    rangeInFlight (wDiscard [] []) (wDisc [] []) = false ∧
    rangeGroups (updMedia (fun m => { m with pageMap := [] }) (wDiscard [] [])) (wDisc [] []) = [] ∧
    itemBySeq (wDiscard [] []) 1 = some wWaitItem ∧
    wClosed.lastProg + 2 ^ 41 ≤ ((updFrame (fun f => { f with counter := 2 ^ 41 }) (wVictim wClosed)).frame.counter : Int) ∧
    patrolNext (wVictim wClosed) = some 0 ∧ 0 < wClosed.rows ∧
    pageOn wProbed 32 ≠ none ∧ dieAt wProbed 32 = some { wDie0 with mark := .slow } ∧ hallRuns wProbed = true ∧
    ({ wDie0 with mark := .slow }).slow = true ∧ ({ wDie0 with mark := .slow }).lastRead + 1024 < wProbed.frame.elapsed := by decide +kernel

/-! ### Management core and thermal control -/

/-- A Management Interface request: opcode, NMDW0, NMDW1. -/
def wMi (op d0 d1 : Nat) : List Byte := [BitVec.ofNat 8 op, 0, 0, 0] ++ le d0 4 ++ le d1 4
/-- An Identify of the port 0 PF's controller, of 4,096 bytes. -/
def wMiAdmin : List Byte := fields 48 [(0, [6]), (2, [1, 0]), (28, le 4096 4), (40, le 1 4)]
def wMiState : State := updHost (fun h => { h with ctls := [(2048, wCtl)] }) wRun

theorem wit_Mi :
    miOpen wMiState = true ∧ (∀ op ∈ [0x00, 0x01, 0x02, 0x03, 0x04, 0xC0, 0xC1, 0x77], byteAt (wMi op 0 0) 0 = op) ∧
    (miConfigSet (fieldAt (wMi 3 0x03000003 64) 4 4) (fieldAt (wMi 3 0x03000003 64) 8 4) wMiState.mgmt).isSome = true ∧
    (miConfigSet (fieldAt (wMi 3 0x03000003 63) 4 4) (fieldAt (wMi 3 0x03000003 63) 8 4) wMiState.mgmt).isNone = true ∧
    miOpcodes.contains (byteAt (wMi 0x77 0 0) 0) = false ∧ fieldAt wMiAdmin 2 2 = 1 ∧ transportUp wMiState 0 = true ∧
    byteAt ([0, 0, 1, 0, 8] : List Byte) 0 % 128 = 0 ∧ byteAt ([0, 0, 1, 0, 8] : List Byte) 2 = 1 ∧
    bits (byteAt ([4, 8, 0, 0, 0xC1] : List Byte) 1) 6 3 = 1 ∧ byteAt ([4, 8, 0, 0, 0xC1] : List Byte) 4 = 0xC1 ∧
    byteAt ([0x7E] : List Byte) 0 % 128 ∉ [0, 4, 5, 6] := by decide +kernel

theorem wit_MiAdminFails : ∃ st, miAdminData wMiState 2048 0x7F 0 0 0 = .inl st := ⟨_, rfl⟩

theorem wit_MiAdmin : ∃ d0 b, miAdminData wMiState 2048 (byteAt wMiAdmin 0) (fieldAt wMiAdmin 4 4) (fieldAt wMiAdmin 40 4)
    (fieldAt wMiAdmin 44 4) = .inr (d0, b) := ⟨_, _, rfl⟩

/-- Core 3 stopped. -/
def wCore3 : State := setCore 3 { running := false, shardOwner := false, served := 0 } wRun

theorem wit_Watchdogs :
    wRun.power.boot = .running ∧ wRun.mgmt.running = true ∧ wRun.fw.hold = none ∧ coreRunning wRun 3 = true ∧
    coreRunning wRun 15 = true ∧ coreRunning wCore3 3 = false ∧ wCore3.power.boot = .running ∧
    (updMgmt (fun m => { m with running := false }) wRun).mgmt.running = false ∧
    fired wRun.mgmt.served 250 (aonClk wRun) = false ∧ fired (coreServed wRun 3) 250 (clk wRun) = false ∧
    (wShelf Shelf.reset).power.boot = .running ∧ (wShelf Shelf.reset).mgmt.running = true ∧ (wShelf Shelf.reset).fw.hold = none ∧
    coreRunning (wShelf Shelf.reset) 3 = true ∧
    fired (wShelf Shelf.reset).mgmt.served 250 (aonClk (wShelf Shelf.reset)) = true ∧
    fired (coreServed (wShelf Shelf.reset) 3) 250 (clk (wShelf Shelf.reset)) = true := by decide +kernel

/-- The management core restarting, with 15 and with 16 messages held. -/
def wHolding (n : Nat) : State :=
  updMgmt (fun m => { m with running := false, held := List.replicate n (0, [0x7E]) }) wRun

theorem wit_Mctp :
    transportUp wRun 0 = true ∧ transportUp wRun 1 = true ∧ miOpen wRun = true ∧ (∃ k ∈ [0, 1], k ≠ 0) ∧
    ∀ n ∈ [15, 16], (wHolding n).mgmt.running = false ∧ (wHolding n).power.flush = none ∧ (wHolding n).power.boot = .running ∧
      transportUp (wHolding n) 0 = true ∧ decide ((wHolding n).mgmt.held.length < 16) = decide (n = 15) := by decide +kernel

def wSound (v : Int) : Diode :=
  { warn := false, ring := [v], broken := false, code := 7, codeFrom := 0, max := v, min := v }
def wRemote : Remote :=
  { value := 200, broken := false, code := 7, codeFrom := 0, step := 1, fallFrom := 0, max := 200, min := 200, near := [] }

/-- Diodes 1 and 2 of zone 0 above 125 °C, diode 0 at 25 °C, one remote input. -/
def wSensors : State :=
  updTherm (fun t => { t with
    diodes := [(0, wSound 200), (1, wSound 1001), (2, wSound 1001)], remotes := [(0, wRemote)] }) wRun

theorem wit_Sensors :
    tabGet wSensors.therm.diodes 0 = some (wSound 200) ∧ (wSound 200).code ≠ 8 ∧ wSensors.therm.fire = .normal ∧
    2 ≤ ((voters wSensors (zoneOfDiode 0)).filter fun e => decide (e ≠ 0)).length ∧
    tabGet wSensors.therm.remotes 0 = some wRemote ∧ wSensors.mgmt.running = true ∧ wSensors.power.flush = none ∧
    wRemote.step ≤ regionStep (remoteLimit wSensors 0) 1000 ∧ wSensors.power.boot = .running := by decide +kernel

/-- Some ADC code other than the diode's last is neither 0 nor full scale, and passes at 25 °C; a code of 0 breaks it. -/
theorem wit_SensorCodes : (∃ code, code ≠ 7 ∧ sensorBad code 200 1200 = false ∧ sensorBad code 200 1000 = false) ∧
    sensorBad 0 200 1200 = true ∧ sensorBad 0 200 1000 = true := by
  refine ⟨?_, by simp [sensorBad], by simp [sensorBad]⟩
  by_cases h : Config.adcFull = 8
  · exact ⟨9, by decide, by simp [sensorBad, h], by simp [sensorBad, h]⟩
  · exact ⟨8, by decide, by simp [sensorBad, Ne.symm h], by simp [sensorBad, Ne.symm h]⟩

theorem wit_Alert : ({ wRun with pins := { wRun.pins with alert := true } } : State).pins.alert = true := rfl

/-! ### The block as a whole -/

theorem wit_Queue : ∃ s : State, s.pending = [.powerOn, .wakeEvent] := ⟨{ State.reset with pending := [.powerOn, .wakeEvent] }, rfl⟩

/-- A mailbox full both ways, with a partial message and two latches held. -/
def wFullMbx : State :=
  wMbx fun m => { m with
    outQ := [wPosted (0x0101C000 :: List.replicate 12 0)], part := some { agent := 1, words := [0], left := 2 }
    inQ := List.replicate 16 { word := 0, head := false, epoch := 0 }, latches := [(0, 1), (15, 20)] }

theorem wit_MailboxOk : MailboxOk { wFullMbx with pending := [.planInputCutoff] }.mbx ∧
    ∃ t, step { wFullMbx with pending := [.planInputCutoff] } = .next t := by
  refine ⟨⟨by decide, by decide, ?_, by decide, ?_⟩, _, rfl⟩
  · intro q e
    have e' : some ({ agent := 1, words := [0], left := 2 } : Partial) = some q := e
    injection e' with h; subst h; decide
  · intro p hp
    have h : p = (0, 1) ∨ p = (15, 20) := by
      have hp' : p ∈ [((0 : Nat), (1 : Nat)), (15, 20)] := hp
      simpa using hp'
    rcases h with h | h <;> subst h <;> decide

theorem wit_Counter : ∃ s t : State, exec (.framePulse 0) s = .next t ∧ s.frame.counter + s.power.aonCount + 1 < 2 ^ 64 ∧
    (∀ n, s.frame.shelf.stepTo = some n → n < 2 ^ 64) ∧ (s.frame.started = false → s.frame.counter = 0) :=
  ⟨wShelf { wRun.frame.shelf with stepTo := some 77 }, _, rfl, by decide,
    (by intro n e; have e' : some 77 = some n := e; injection e' with h; subst h; decide), by decide⟩

theorem wit_CounterAtTheExit : ∃ s t : State, exec (.psExit none) s = .next t ∧ s.frame.counter + s.power.aonCount + 1 < 2 ^ 64 ∧
    s.frame.shelf.stepTo = none ∧ s.frame.started = true :=
  ⟨updPower (fun p => { p with ps := 1, aonCount := 500, exitFrom := some 0 }) (wShelf wRun.frame.shelf), _, rfl, by decide⟩

theorem wit_Withdrawn : ∃ s t : State,
    wAsks s 0x22 (wPosted [0x22011000, 3]) (Form.plain [1] true [(0, 0xFFFFFF00)]) (fun _ => none) = true ∧
    s.prot.ownerKey.isSome = true ∧ pendingOf s 3 = some wProposal ∧ s.frame.elapsed ≤ wProposal.armed + 2 ^ 27 ∧
    wAsks t 0x22 (wPosted [0x22011000, 6]) (Form.plain [1] true [(0, 0xFFFFFF00)]) (fun _ => none) = true ∧
    pendingOf t 6 = none ∧ t.prot.ownerKey.isSome = true :=
  ⟨wAsk [0x22011000, 3] (wPending 2 wOwned), wAsk [0x22011000, 6] (wPending 2 wOwned), by decide +kernel⟩

theorem wit_WithdrawnByTheOwner : OwnerHeard (wPending 2 wOwned) .i3c ∧ ([3, 0, 0, 0] : List Byte).length = 4 ∧
    fieldAt [3, 0, 0, 0] 0 4 = 3 ∧ (wPending 2 wOwned).prot.ownerKey.isSome = true ∧
    pendingOf (wPending 2 wOwned) 3 = some wProposal ∧ (wPending 2 wOwned).frame.elapsed ≤ wProposal.armed + 2 ^ 27 ∧
    OwnerHeard wOwned .i3c ∧ fieldAt [1, 0, 0, 0] 0 4 = 1 ∧ pendingOf wOwned 1 = none :=
  ⟨heard_of { link := .i3c, mutualAuth := true } (by decide), by decide, by decide, by decide, by decide +kernel, by decide,
    heard_of { link := .i3c, mutualAuth := true } (by decide), by decide, by decide⟩

theorem wit_ConfirmedThenWithdrawn : ∃ s t : State,
    wAsks s 0x21 (wPosted ([0x2101D000, 3] ++ List.replicate 12 0)) (Form.plain [13] true [(0, 0xFFFFFF00)]) (fun _ => none) = true ∧
    pendingOf s 3 = some wProposal ∧ wProposal.proposer = .owner ∧
    digestAt (wPosted ([0x2101D000, 3] ++ List.replicate 12 0)).pw 1 = wProposal.digest ∧
    OwnerHeard t .i3c ∧ ([3, 0, 0, 0] ++ List.replicate 48 (0 : Byte)).length = 52 ∧
    fieldAt ([3, 0, 0, 0] ++ List.replicate 48 (0 : Byte)) 0 4 = 3 ∧
    pendingOf t 3 = some { wProposal with proposer := .manager } ∧
    BitVec.ofNat 384 (fieldAt ([3, 0, 0, 0] ++ List.replicate 48 (0 : Byte)) 4 48) = wProposal.digest :=
  ⟨wAsk ([0x2101D000, 3] ++ List.replicate 12 0) (wPending 2 wOwned),
    updProt (fun p => { p with pending := [(3, { wProposal with proposer := .manager })] }) wOwned,
    by decide +kernel, by decide +kernel, by decide, by decide +kernel,
    heard_of { link := .i3c, mutualAuth := true } (by decide), by decide, by decide, by decide +kernel, by decide +kernel⟩

theorem wit_FormatAgainstSanitize : ∃ s t : State,
    wAdmins s wCmd 0x84 .manager (wItem 2048 0 (wSqe 0x84 0 2 0)) = true ∧ dw (2 : Word) 2 0 = 2 ∧
    (s.zone.nss.any fun p => formatRuns s p.2) = true ∧
    findItem t wCmd = some (wItem 2048 0 (wSqe 0x80 1 0 0)) ∧ inTurn t (wItem 2048 0 (wSqe 0x80 1 0 0)) = true ∧ adminOpen t = true ∧ accessFault t wCmd.fn .all = none ∧
    sanitizing t = true :=
  ⟨wWithNs { wNs with fmt := some wFmt } (wAdmin (wSqe 0x84 0 2 0) wRun),
    updZone (fun z => { z with san := { z.san with st := .running } }) (wAdmin (wSqe 0x80 1 0 0) wRun), by decide +kernel⟩

/-! ### Ill-formed commands, one for each check -/

theorem test_illFormed_lane : Instr.wellFormed (.laneReset 64) = false := by decide
theorem test_illFormed_lates : Instr.wellFormed (.planCommit [3, 64]) = false := by decide
theorem test_illFormed_count : Instr.wellFormed (.corridorLinkUp true (2 ^ 64)) = false := by decide
theorem test_illFormed_width : Instr.wellFormed (.registerWrite .port0 0x110 3 0) = false := by decide
theorem test_illFormed_value : Instr.wellFormed (.registerWrite .port0 0x110 1 256) = false := by decide
theorem test_illFormed_agent : Instr.wellFormed (.latchRead 21 0) = false := by decide
theorem test_illFormed_latch : Instr.wellFormed (.latchWrite 1 16 0) = false := by decide
theorem test_illFormed_inspect : Instr.wellFormed (.latchInspectRead .port1 0 3 2) = false := by decide
theorem test_illFormed_board : Instr.wellFormed (.noticeDataRead .port0 8) = false := by decide
theorem test_illFormed_window : Instr.wellFormed (.gatedRead .port0 65533 4) = false := by decide
theorem test_illFormed_instance : Instr.wellFormed (.instDestroyDone 2048) = false := by decide
theorem test_illFormed_class : Instr.wellFormed (.protProposalExpiry 7) = false := by decide
theorem test_illFormed_cons : Instr.wellFormed (.meterRetry (2 ^ 64) true) = false := by decide
theorem test_illFormed_frame : Instr.wellFormed (.corridorScheduleArrival 0 (2 ^ 64)) = false := by decide
theorem test_illFormed_position : Instr.wellFormed (.corridorOutcomeRelay 32 0 0) = false := by decide
theorem test_illFormed_doorbell : Instr.wellFormed (.submissionDoorbellWrite 2050 0 0) = false := by decide
theorem test_illFormed_vfs : Instr.wellFormed (.vfEnableChange .port0 true 2049) = false := by decide
theorem test_illFormed_vector : Instr.wellFormed (.aggregationTimeExpiry 0 256) = false := by decide
theorem test_illFormed_cid : Instr.wellFormed (.read { fn := 0, sq := 1, cid := 65536 }) = false := by decide
theorem test_illFormed_zone : Instr.wellFormed (.zoneDrainEnd 4194304) = false := by decide
theorem test_illFormed_die : Instr.wellFormed (.senseComplete 4096) = false := by decide
theorem test_illFormed_channel : Instr.wellFormed (.channelRetrain 128 ⟨false, true⟩) = false := by decide
theorem test_illFormed_dram : Instr.wellFormed (.dramPatrolScrub 6 []) = false := by decide
theorem test_illFormed_sram : Instr.wellFormed (.sramPatrolScrub 0x18 []) = false := by decide
theorem test_illFormed_core : Instr.wellFormed (.controlCoreRestartDone 16) = false := by decide
theorem test_illFormed_rail : Instr.wellFormed (.psExit (some 16)) = false := by decide
theorem test_illFormed_energy : Instr.wellFormed (.holdupReading (some (65536, true))) = false := by decide
theorem test_illFormed_status : Instr.wellFormed (.pmbAlert 65536) = false := by decide
theorem test_illFormed_diode : Instr.wellFormed (.diodeSample 16 0 0) = false := by decide
theorem test_illFormed_remote : Instr.wellFormed (.remoteSample 4 0 0) = false := by decide
theorem test_illFormed_monitor : Instr.wellFormed (.railMonitorSample 14 0) = false := by decide
theorem test_illFormed_group : Instr.wellFormed (.railPowerGood 4) = false := by decide
theorem test_illFormed_wait : Instr.wellFormed (.bootWaitTimeout 16) = false := by decide
theorem test_illFormed_transport : Instr.wellFormed (.mctpMessage [4] []) = false := by decide
theorem test_illFormed_noTransport : Instr.wellFormed (.mctpMessage [] []) = false := by decide
theorem test_illFormed_copies : Instr.wellFormed (.coldStart { wFound false with
    copies := List.replicate 5 (.ok, true) }) = false := by decide
theorem test_wellFormed : Instr.wellFormed (.laneReset 63) = true ∧ Instr.wellFormed (.latchRead 20 15) = true ∧
    Instr.wellFormed (.read { fn := 2049, sq := 1, cid := 65535 }) = true := by decide

/-! ### Single commands -/

/-- No row of the opcode table has bits, so no word spells a command. -/
theorem test_noWord : decodeTableWord 32 0xB0015000 = none := rfl

/-- R41: the first frame pulse after the cold start begins frame 0. -/
theorem test_firstPulse : (match exec (.framePulse 0) wRun with
    | .next t => decide (t.frame.started = true ∧ t.frame.counter = 0)
    | _ => false) = true := by decide +kernel

/-- R81: the port 0 PF, agent 1, takes the free LATCH_3 and reads 0. -/
theorem test_latchTaken : (match exec (.latchRead 1 3) wRun with
    | .next t => decide (holder t 3 = 1 ∧ t.emit = [.readData 0])
    | _ => false) = true := by decide +kernel

/-- R320: the request header 0xB001_5000 is opcode 0xB0, tag 0x01, LEN 5; its reply header is 0xB001_4000. -/
theorem test_eccHeader : (wPosted [0xB0015000]).opcode = 0xB0 ∧ (wPosted [0xB0015000]).tag = 1 ∧
    (wPosted [0xB0015000]).len = 5 ∧ replyHeader 0xB0 1 4 false 0 = 0xB0014000 := by decide

/-- R89: in the cellar PLACE_QUERY is refused with REFUSED_STATE, reason 0x0001. -/
theorem test_cellarRefuses : (match exec .placeQuery
      (updFw (fun w => { w with cellar := true }) (wAsk [0x81012000, 0, 0] wRun)) with
    | .next t => decide (t.mbx.inQ.map (·.word) = [0x81011004, 1])
    | _ => false) = true := by decide +kernel

/-- R84 step 3, R5: while LATCH_0 is free a manager's request is refused with REFUSED_STATE. -/
theorem test_managerAbsent : (match exec .instQuery
      (updMbx (fun m => { m with latches := [] }) (wAsk [0x14011000, 5] wRun)) with
    | .next t => decide ((t.mbx.inQ.map (·.word)).head? = some 0x14011004)
    | _ => false) = true := by decide +kernel

end Sys2Proof.Machine.Tests
end

section
/-! R42: what a frame pulse and an exit make of the frame counter, and that every other command but a cold start leaves
it alone. -/

namespace Sys2Proof.Machine

/-! ### The counter as a function of the frame state -/

/-- The counter after the increment of R41: the first pulse begins frame 0. -/
def nextCount (f : FrameSt) : Nat := if f.started then (f.counter + 1) % 2 ^ 64 else 0

/-- The counter after a whole boundary: the increment, then the step due where that is ahead (R41, R49). -/
def boundaryCount (f : FrameSt) : Nat :=
  match f.shelf.stepTo with
  | none => nextCount f
  | some n => if n ≤ nextCount f then nextCount f else n % 2 ^ 64

theorem nextCount_cases (f : FrameSt) :
    (f.started = false ∧ nextCount f = 0) ∨ nextCount f = (f.counter + 1) % 2 ^ 64 := by
  cases h : f.started <;> simp [nextCount, h]

theorem boundaryCount_cases (f : FrameSt) :
    boundaryCount f = nextCount f ∨
      ∃ n, f.shelf.stepTo = some n ∧ nextCount f < n ∧ boundaryCount f = n % 2 ^ 64 := by
  unfold boundaryCount
  split
  case h_1 => exact .inl rfl
  case h_2 n hn =>
    split
    case isTrue => exact .inl rfl
    case isFalse hlt => exact .inr ⟨n, hn, by omega, rfl⟩

theorem counter_le_nextCount {f : FrameSt} (hc : f.counter + 1 < 2 ^ 64) (h0 : f.started = false → f.counter = 0) :
    f.counter ≤ nextCount f := by
  cases h : f.started with
  | false => simp [h0 h]
  | true => rw [nextCount, if_pos h, Nat.mod_eq_of_lt hc]; omega

theorem counter_le_boundaryCount {f : FrameSt} (hc : f.counter + 1 < 2 ^ 64) (h0 : f.started = false → f.counter = 0)
    (hn : ∀ n, f.shelf.stepTo = some n → n < 2 ^ 64) : f.counter ≤ boundaryCount f := by
  have hle := counter_le_nextCount hc h0
  obtain e | ⟨n, hs, hlt, e⟩ := boundaryCount_cases f
  · rwa [e]
  · rw [e, Nat.mod_eq_of_lt (hn n hs)]; omega

theorem increment_counter (s : State) : (increment s).frame.counter = nextCount s.frame := by
  unfold increment nextCount
  split <;> rfl

theorem increment_shelf (s : State) : (increment s).frame.shelf = s.frame.shelf := by
  unfold increment
  split <;> rfl

theorem shelfStep_counter (s : State) : (shelfStep s).frame.counter =
    match s.frame.shelf.stepTo with
    | none => s.frame.counter
    | some n => if n ≤ s.frame.counter then s.frame.counter else n % 2 ^ 64 := by
  unfold shelfStep
  cases s.frame.shelf.stepTo with
  | none => rfl
  | some n => dsimp only; split <;> rfl

theorem shelfStep_increment_counter (s : State) : (shelfStep (increment s)).frame.counter = boundaryCount s.frame := by
  rw [shelfStep_counter, increment_shelf, increment_counter]
  rfl

/-! ### What the boundary reads of the frame state, and who leaves that alone -/

/-- The counter, whether frame 0 has begun, and the step due are what they were. -/
structure KeepsClock (s t : State) : Prop where
  counter : t.frame.counter = s.frame.counter
  started : t.frame.started = s.frame.started
  stepTo : t.frame.shelf.stepTo = s.frame.shelf.stepTo

theorem KeepsClock.boundaryCount_eq {s t : State} (h : KeepsClock s t) :
    boundaryCount t.frame = boundaryCount s.frame := by
  have next : nextCount t.frame = nextCount s.frame := by rw [nextCount, nextCount, h.counter, h.started]
  rw [boundaryCount, boundaryCount, h.stepTo, next]

theorem keepsClock_refl (s : State) : KeepsClock s s := ⟨rfl, rfl, rfl⟩

theorem KeepsClock.trans {s t u : State} (h : KeepsClock s t) (k : KeepsClock t u) : KeepsClock s u :=
  ⟨k.counter.trans h.counter, k.started.trans h.started, k.stepTo.trans h.stepTo⟩

/-- An operation that changes the frame state in its count of ties alone. -/
theorem keepsClock_of_ticks {s t : State} (k : SameFrame s s → SameFrame s t) : KeepsClock s t := by
  obtain ⟨n, e⟩ := (k (sameFrame_refl s)).frame
  exact ⟨by rw [e], by rw [e], by rw [e]⟩

/-- An operation that leaves the frame state alone. -/
theorem keepsClock_of_only {s t : State} {qs : List Part} (k : Only noFrame s s → qs ⊆ noFrame → Only noFrame s t)
    (hq : qs ⊆ noFrame := by decide) : KeepsClock s t :=
  keepsClock_of_ticks (sameFrame_of (k (only_refl _ s) hq))

theorem keepsClock_when {s : State} (c : Bool) {f : State → State} (hf : KeepsClock s (f s)) :
    KeepsClock s (when c f s) := by
  unfold when
  split
  · exact hf
  · exact keepsClock_refl s

theorem keepsClock_forEach {α : Type} (l : List α) {f : α → State → State} (hf : ∀ a t, KeepsClock t (f a t))
    (s : State) : KeepsClock s (forEach l f s) := by
  unfold forEach
  induction l generalizing s with
  | nil => exact keepsClock_refl s
  | cons a l ih => exact (hf a s).trans (ih (f a s))

theorem updShelf_clock {f : Shelf → Shelf} (s : State) (hf : ∀ h, (f h).stepTo = h.stepTo := by intro; rfl) :
    KeepsClock s (updShelf f s) := ⟨rfl, rfl, hf _⟩

theorem trackPhase_clock (phase : Int) (s : State) : KeepsClock s (trackPhase phase s) := by
  unfold trackPhase
  dsimp only
  split
  · exact ⟨rfl, rfl, rfl⟩
  split
  · exact ⟨rfl, rfl, rfl⟩
  · exact keepsClock_refl s

theorem lockQualify_clock (s : State) : KeepsClock s (lockQualify s) := keepsClock_when _ (updShelf_clock s)

theorem syncTimeout_clock (s : State) : KeepsClock s (syncTimeout s) := keepsClock_when _ (updShelf_clock s)

theorem holdover_clock (s : State) : KeepsClock s (holdover s) := by
  unfold holdover
  split
  · exact keepsClock_refl s
  · exact keepsClock_when _ (updShelf_clock s)

theorem noteTie_clock (a l : Nat) (s : State) : KeepsClock s (noteTie a l s) := keepsClock_when _ ⟨rfl, rfl, rfl⟩

theorem noteRowTie_clock (l : List Landed) (s : State) : KeepsClock s (noteRowTie l s) := by
  unfold noteRowTie
  split
  · exact noteTie_clock _ _ s
  · exact keepsClock_refl s

theorem blockNs_clock (x : Nat) (b : Bool) (s : State) : KeepsClock s (blockNs x b s) :=
  keepsClock_of_only (blockNs_only x b s)

theorem dispatchZone_clock (x : Nat) (n : Ns) (first : Nat) (waited : Bool) (s : State) :
    KeepsClock s (dispatchZone x n first waited s) := by
  unfold dispatchZone
  split
  · exact keepsClock_refl s
  dsimp only
  split
  · exact blockNs_clock _ _ s
  case h_2 t ht =>
    have bound : KeepsClock s t := keepsClock_of_ticks fun h => bindZoneRow_ticks2 _ _ _ _ h ht
    exact ((bound.trans (keepsClock_when _ (keepsClock_of_only (updAmp_only _ _ t)))).trans
      (noteRowTie_clock _ _)).trans (blockNs_clock _ _ _)

theorem dispatchConv_clock (x : Nat) (n : Ns) (lc : Nat) (waited : Bool) (s : State) :
    KeepsClock s (dispatchConv x n lc waited s) := by
  unfold dispatchConv
  split
  · exact keepsClock_refl s
  dsimp only
  split
  · exact blockNs_clock _ _ s
  case h_2 t ht =>
    have bound : KeepsClock s t := keepsClock_of_ticks fun h => bindConvRow_ticks2 _ _ _ h ht
    exact (bound.trans (noteRowTie_clock _ _)).trans (blockNs_clock _ _ _)

theorem dispatchRow_clock (x first : Nat) (waited : Bool) (s : State) :
    KeepsClock s (dispatchRow x first waited s) := by
  unfold dispatchRow
  split
  · exact keepsClock_refl s
  have ready : KeepsClock s (noteReady s) := keepsClock_of_only (noteReady_only s)
  dsimp only
  split
  · exact ready
  split
  · exact ready
  split
  · exact ready.trans (dispatchZone_clock _ _ _ _ _)
  · exact ready.trans (dispatchConv_clock _ _ _ _ _)

theorem rowTimeouts_clock (s : State) : KeepsClock s (rowTimeouts s) :=
  keepsClock_forEach (waitedRows s) (fun p t => dispatchRow_clock p.1 p.2 true t) s

theorem freezeSlips_clock (s : State) : KeepsClock s (freezeSlips s) :=
  KeepsClock.trans (t := updFrame (fun f => { f with lastMinuteSlips := f.minuteSlips, minuteSlips := 0 }) s)
    ⟨rfl, rfl, rfl⟩ (keepsClock_of_only (boardWrite_only _ _ _))

theorem freezeMinute_clock (extra : MFlags) (at_ : Nat) (s : State) : KeepsClock s (freezeMinute extra at_ s) :=
  (((keepsClock_of_only (updInst_only _ s)).trans (keepsClock_of_only (freezePlacement_only _))).trans
    (freezeSlips_clock _)).trans (keepsClock_of_only (commitAges_only _))

theorem passMinutes_clock (n at_ rem : Nat) (s : State) : KeepsClock s (passMinutes n at_ rem s) := by
  induction n generalizing at_ rem s with
  | zero => exact keepsClock_refl s
  | succ n ih =>
    have metered : ∀ k, KeepsClock s (meterPassed k s) := fun k => keepsClock_of_only (meterPassed_only k s)
    unfold passMinutes
    dsimp only
    split
    · exact ((metered _).trans (freezeMinute_clock _ _ _)).trans (ih _ _ _)
    · exact metered _

theorem abortEntry_clock (e : Entry) (code : Nat) (s : State) : KeepsClock s (abortEntry e code s) :=
  KeepsClock.trans
    (t := updFrame (fun f => { f with admission := false }) (updPower (fun p => { p with entry := none }) s))
    ⟨rfl, rfl, rfl⟩ (keepsClock_of_ticks (refuseEntry_ticks _ _ _ _ _))

theorem entryAbort_clock (s : State) : KeepsClock s (entryAbort s) := by
  unfold entryAbort
  split
  · exact keepsClock_refl s
  split
  · exact keepsClock_refl s
  split
  · exact abortEntry_clock _ _ s
  split
  · exact abortEntry_clock _ _ s
  · exact keepsClock_refl s

theorem timeouts_clock (s : State) : KeepsClock s (timeouts s) := by
  unfold timeouts
  refine KeepsClock.trans ?_ (entryAbort_clock _)
  refine KeepsClock.trans ?_ (keepsClock_of_ticks (idleExpiry_ticks _))
  refine KeepsClock.trans ?_ (keepsClock_forEach _ (fun _ t => keepsClock_of_only (aggregationExpiry_only _ _ t)) _)
  refine KeepsClock.trans ?_ (keepsClock_forEach _ (fun d t => keepsClock_of_ticks (statusTimeout_ticks d t)) _)
  refine KeepsClock.trans ?_ (keepsClock_of_ticks (stuckSensors_ticks _))
  refine KeepsClock.trans ?_ (keepsClock_of_only (trackerWindowEnd_only _))
  refine KeepsClock.trans ?_ (keepsClock_when _ ((keepsClock_forEach _
    (fun c t => keepsClock_of_only (expireProposal_only c t)) _).trans (keepsClock_of_only (expireClaim_only _))))
  refine KeepsClock.trans ?_ (syncTimeout_clock _)
  refine KeepsClock.trans ?_ (lockQualify_clock _)
  refine KeepsClock.trans ?_ (holdover_clock _)
  refine KeepsClock.trans ?_ (rowTimeouts_clock _)
  refine KeepsClock.trans ?_ (keepsClock_when _ (keepsClock_of_ticks (holdExpiry_ticks _)))
  exact keepsClock_forEach _ (fun i t => keepsClock_of_ticks (lifetimeExpiry_ticks i t)) s

theorem passedWork_clock (s : State) : KeepsClock s (passedWork s) := by
  unfold passedWork
  dsimp only
  split
  · exact keepsClock_refl s
  · exact (((keepsClock_of_only (updPower_only _ s)).trans (passMinutes_clock _ _ _ _)).trans
      (keepsClock_of_only (passPeriods_only _ _))).trans (timeouts_clock _)

/-! ### The frame pulse -/

theorem countBoundary_counter (phase : Int) (s : State) :
    (countBoundary phase s).frame.counter = boundaryCount s.frame := by
  have before : KeepsClock s (countFrame (pauseItems (trackPhase phase (passedWork (busClose s))))) :=
    ((((keepsClock_of_only (busClose_only s)).trans (passedWork_clock _)).trans (trackPhase_clock phase _)).trans
      (keepsClock_of_only (pauseItems_only _))).trans (keepsClock_of_only (countFrame_only _))
  have after : ∀ t cut last, KeepsCnt t (noteMeters (periodEnd cut last (minuteEnd cut (meterSample t)))) :=
    fun t cut last =>
    keepsCnt_of (noteMeters_only _ (only_refl _ _) (by decide)) <|
      keepsCnt_of (periodEnd_only cut last _ (only_refl _ _) (by decide)) <|
        minuteEnd_cnt cut _ <| keepsCnt_of (meterSample_only _ (only_refl _ _) (by decide)) (keepsCnt_refl t)
  calc (countBoundary phase s).frame.counter
      = (shelfStep (increment (countFrame (pauseItems (trackPhase phase (passedWork (busClose s))))))).frame.counter :=
        (after _ _ _).eq
    _ = boundaryCount _ := shelfStep_increment_counter _
    _ = boundaryCount s.frame := before.boundaryCount_eq

theorem boundary_counter (phase : Int) (s : State) : (boundary phase s).frame.counter = boundaryCount s.frame := by
  have due : KeepsCnt (countBoundary phase s) (timeouts (applyDue (endFrame (countBoundary phase s)))) :=
    timeouts_cnt _ (applyDue_cnt _ (endFrame_cnt _ (keepsCnt_refl _)))
  have opened : ∀ t, KeepsCnt t (openFrame (refill (beginWork (scrubFrame t)))) := fun t =>
    openFrame_cnt _ <| keepsCnt_of (refill_only _ (only_refl _ _) (by decide)) <|
      keepsCnt_of (beginWork_only _ (only_refl _ _) (by decide)) <|
        keepsCnt_of (scrubFrame_only t (only_refl _ _) (by decide)) (keepsCnt_refl t)
  rw [← countBoundary_counter phase s]
  unfold boundary
  dsimp only
  split
  · exact due.eq
  · exact (due.trans (opened _)).eq

/-- The counter through a frame pulse: AON counts alone, or a flush sees the increment, or a whole boundary passes, or
the device is off. -/
theorem framePulse_counter (phase : Int) (s : State) :
    (framePulse phase s).frame.counter = s.frame.counter ∨
    (framePulse phase s).frame.counter = nextCount s.frame ∨
    (framePulse phase s).frame.counter = boundaryCount s.frame := by
  unfold framePulse
  split
  · exact .inl rfl
  split
  · exact .inr (.inl (increment_counter s))
  split
  · exact .inr (.inr ((endFrame_cnt _ (keepsCnt_refl _)).eq.trans (countBoundary_counter phase s)))
  split
  · exact .inr (.inr (boundary_counter phase s))
  · exact .inl rfl

/-! ### The exit -/

theorem psExit_counter (failed : Option Nat) (s : State) :
    (psExit failed s).frame.counter = s.frame.counter ∨
    (psExit failed s).frame.counter = (s.frame.counter + s.power.aonCount) % 2 ^ 64 := by
  unfold psExit
  split
  · exact .inl rfl
  split
  · exact .inl (keepsCnt_of (exitFailed_only _ s (only_refl _ _) (by decide)) (keepsCnt_refl s)).eq
  · exact .inr (keepsCnt_of (reopen_only _ (only_refl _ _) (by decide)) (keepsCnt_refl _)).eq

/-! ### Operations that leave the counter alone, and commands that are one of them -/

/-- The operation leaves the frame counter alone. -/
structure CounterKept (f : State → State) : Prop where
  keeps : ∀ s, KeepsCnt s (f s)

/-- From `s` the command performs an operation that leaves the frame counter alone. -/
abbrev KeepsCounter (c : Instr) (s : State) : Prop := ∃ f, exec c s = act f s ∧ CounterKept f

theorem KeepsCounter.counter_eq {c : Instr} {s t : State} (h : KeepsCounter c s) (he : exec c s = .next t) :
    t.frame.counter = s.frame.counter := by
  obtain ⟨f, hf, k⟩ := h
  cases hf.symm.trans he
  exact (k.keeps { s with emit := [] }).eq

namespace CounterKept

variable {f g : State → State}

theorem refl : CounterKept fun s => s := ⟨keepsCnt_refl⟩

theorem of_cnt (k : ∀ {s0} s, KeepsCnt s0 s → KeepsCnt s0 (f s)) : CounterKept f := ⟨fun s => k s (keepsCnt_refl s)⟩

theorem of_ticks (k : ∀ {s0} s, SameFrame s0 s → SameFrame s0 (f s)) : CounterKept f :=
  ⟨fun s => keepsCnt_ticks (k s (sameFrame_refl s)) (keepsCnt_refl s)⟩

theorem of_only {qs : List Part} (k : ∀ {s0} s, Only noFrame s0 s → qs ⊆ noFrame → Only noFrame s0 (f s))
    (hq : qs ⊆ noFrame := by decide) : CounterKept f :=
  ⟨fun s => keepsCnt_of (k s (only_refl _ s) hq) (keepsCnt_refl s)⟩

theorem of_ite {p : State → Prop} [DecidablePred p] (hf : CounterKept f) (hg : CounterKept g) :
    CounterKept fun s => if p s then f s else g s := by
  constructor
  intro s
  split
  · exact hf.keeps s
  · exact hg.keeps s

theorem of_when {c : Bool} (hf : CounterKept f) : CounterKept (when c f) :=
  ⟨fun s => keepsCnt_when c f (keepsCnt_refl s) fun t h => h.trans (hf.keeps t)⟩

theorem of_scp {op : Nat} {form : Form} {fault : Posted → Option Nat} {body : Posted → State → State}
    (hb : ∀ r, CounterKept (body r)) : CounterKept (scp op form fault body) :=
  ⟨fun s => scp_cnt op form fault body s (keepsCnt_refl s) fun r t h => h.trans ((hb r).keeps t)⟩

theorem of_descRead {r : Posted} {dma : Dma} {body : List Byte → State → State} (hb : ∀ b, CounterKept (body b)) :
    CounterKept (descRead r dma body) :=
  ⟨fun s => descRead_cnt r dma body s (keepsCnt_refl s) fun b t h => h.trans ((hb b).keeps t)⟩

theorem of_eccRow {sub : Nat} {body : Posted → State → State} (hb : ∀ r, CounterKept (body r)) :
    CounterKept (eccRow sub body) :=
  ⟨fun s => eccRow_cnt sub body s (keepsCnt_refl s) fun r t h => h.trans ((hb r).keeps t)⟩

theorem of_admin {opc : Nat} {who : Access} {body : Item → State → State} {id : CmdId}
    (hb : ∀ it, CounterKept (body it)) : CounterKept (admin opc who body id) :=
  ⟨fun s => admin_cnt opc who body id s (keepsCnt_refl s) fun it t h => h.trans ((hb it).keeps t)⟩

theorem of_setFeature {fid : Nat} {mgr : Bool} {body : Item → State → State} {id : CmdId}
    (hb : ∀ it, CounterKept (body it)) : CounterKept (setFeature fid mgr body id) :=
  ⟨fun s => setFeature_cnt fid mgr body id s (keepsCnt_refl s) fun it t h => h.trans ((hb it).keeps t)⟩

theorem of_ownerWakes (hf : CounterKept f) : CounterKept (ownerWakes f) :=
  ⟨fun s => ownerWakes_cnt f s (keepsCnt_refl s) fun t h => h.trans (hf.keeps t)⟩

theorem of_ownerQuiet {l : Sideband} (hf : CounterKept f) : CounterKept (ownerQuiet l f) :=
  ⟨fun s => ownerQuiet_cnt l f s (keepsCnt_refl s) fun t h => h.trans (hf.keeps t)⟩

theorem of_ownerRow {l : Sideband} (hf : CounterKept f) : CounterKept (ownerRow l f) :=
  ⟨fun s => ownerRow_cnt l f s (keepsCnt_refl s) fun t h => h.trans (hf.keeps t)⟩

theorem of_ownerClaimRow {l : Sideband} (hf : CounterKept f) : CounterKept (ownerClaimRow l f) :=
  ⟨fun s => ownerClaimRow_cnt l f s (keepsCnt_refl s) fun t h => h.trans (hf.keeps t)⟩

end CounterKept

/-! ### Commands with a body of their own -/

theorem answer_read4_kept (p : Pf) (off : Nat) : CounterKept fun s => answer (read4 p off s) :=
  ⟨fun s => keepsCnt_of (answer_only _ (only_refl _ _) (by decide)) (read4_cnt p off (keepsCnt_refl s))⟩

theorem answer_windowRead_kept (p : Pf) (off size : Nat) : CounterKept fun s => answer (windowRead p off size s) :=
  ⟨fun s => keepsCnt_of (answer_only _ (only_refl _ _) (by decide)) (windowRead_cnt p off size (keepsCnt_refl s))⟩

theorem eccExit_kept (r : Posted) : CounterKept fun s => eccReply r 0 0 0 (eccExit s) :=
  ⟨fun s => keepsCnt_of (eccReply_only _ _ _ _ _ (only_refl _ _) (by decide))
    (keepsCnt_of (eccExit_only s (only_refl _ _) (by decide)) (keepsCnt_refl s))⟩

theorem trngFails_kept : CounterKept fun s => recEvent 0x17 (setTrng false s) :=
  ⟨fun s => keepsCnt_of (recEvent_only _ _ (only_refl _ _) (by decide))
    (keepsCnt_of (setTrng_only _ s (only_refl _ _) (by decide)) (keepsCnt_refl s))⟩

theorem flushEnd_kept : CounterKept fun s => flushEnd (Config.refugeFails s.free) { s with free := s.free + 1 } :=
  ⟨fun s => keepsCnt_ticks (flushEnd_ticks _ _ (sameFrame_refl _)) (keepsCnt_free _ (keepsCnt_refl s))⟩

theorem calWrite_keepsCounter (dma : Dma) (s : State) : KeepsCounter (.calWrite dma) s :=
  ⟨_, rfl, .of_scp fun r => .of_ite (.of_only (replyRefused_only _ _)) <| .of_descRead fun b =>
    match calFault b with
    | some _ => .of_only (replyInvalid_only _ _)
    | none => ⟨fun s => keepsCnt_of (replyOk_only r [] _ (only_refl _ _) (by decide))
        (keepsCnt_of (calWrite_only b s (only_refl _ _) (by decide)) (keepsCnt_refl s))⟩⟩

theorem protPropose_keepsCounter (via : Via) (s : State) : KeepsCounter (.protPropose via) s :=
  match via with
  | .scp _ => ⟨_, rfl, .of_scp fun _ => .of_descRead fun _ => .of_only (propose_only _ _ _ _)⟩
  | .owner _ _ => ⟨_, rfl, .of_ownerRow <| .of_ite .refl <| .of_ite (.of_only (askInvalid_only _ _)) <|
      .of_only (propose_only _ _ _ _)⟩

theorem protConfirm_keepsCounter (via : Via) (s : State) : KeepsCounter (.protConfirm via) s :=
  match via with
  | .scp _ => ⟨_, rfl, .of_scp fun _ => .of_cnt (confirm_cnt _ _ _ _)⟩
  | .owner _ _ => ⟨_, rfl, .of_ownerRow <| .of_ite (.of_only (askInvalid_only _ _)) <|
      .of_ite (.of_only (askInvalid_only _ _)) <| .of_cnt (confirm_cnt _ _ _ _)⟩

theorem protWithdraw_keepsCounter (via : Via) (s : State) : KeepsCounter (.protWithdraw via) s :=
  match via with
  | .scp _ => ⟨_, rfl, .of_scp fun _ => .of_only (withdraw_only _ _ _)⟩
  | .owner _ _ => ⟨_, rfl, .of_ownerRow <| .of_ite (.of_only (askInvalid_only _ _)) <|
      .of_ite (.of_only (askInvalid_only _ _)) <| .of_only (withdraw_only _ _ _)⟩

theorem protQuery_keepsCounter (via : Via) (s : State) : KeepsCounter (.protQuery via) s := by
  have expired : ∀ cls t, KeepsCnt t (expireProposal cls t) := fun cls t =>
    keepsCnt_of (expireProposal_only cls t (only_refl _ _) (by decide)) (keepsCnt_refl t)
  cases via with
  | scp dma =>
    exact ⟨_, rfl, .of_scp fun r => ⟨fun t => descWrite_cnt _ _ _ _ _ (expired _ t) fun _ h =>
      keepsCnt_of (replyOk_only r [] _ (only_refl _ _) (by decide)) h⟩⟩
  | owner l b =>
    have answered : CounterKept fun t => if t.fw.cellar then askRefused .owner 0x0001 t
        else if b.length ≠ 4 ∨ !queryOk (fieldAt b 0 4) then askInvalid .owner 1 t
        else send (.owner 0x00 (queryBlock t (bits (fieldAt b 0 4) 7 0) (bits (fieldAt b 0 4) 19 8))) t :=
      .of_ite (.of_only (askRefused_only _ _)) <| .of_ite (.of_only (askInvalid_only _ _)) <|
        .of_only fun t => send_only _ t
    exact ⟨_, rfl, .of_ownerQuiet ⟨fun t => (expired _ t).trans (answered.keeps _)⟩⟩

theorem fwStage_keepsCounter (via : Via) (checks : ImageChecks) (s : State) : KeepsCounter (.fwStage via checks) s :=
  match via with
  | .scp _ => ⟨_, rfl, .of_scp fun _ => .of_only (fwStageScp_only _ _ _)⟩
  | .owner _ _ => ⟨_, rfl, .of_ownerRow (.of_only (fwStageOwner_only _ _))⟩

theorem fwStatus_keepsCounter (via : Via) (s : State) : KeepsCounter (.fwStatus via) s :=
  match via with
  | .scp _ => ⟨_, rfl, .of_scp fun _ => .of_only fun s => replyOk_only _ _ s⟩
  | .owner _ _ => ⟨_, rfl, .of_ownerQuiet <| .of_ite (.of_only (askInvalid_only _ _)) <|
      .of_only fun s => askOk_only _ _ s⟩

/-! ### Every command -/

/-- But for the pulse, the exit and the cold start, a command leaves the frame counter alone: its operation leaves the
whole frame state alone (`of_only`), changes it in its count of ties alone (`of_ticks`), or writes other fields of it
(`of_cnt`). -/
theorem keepsCounter_of_ne {c : Instr} (hp : ∀ phase, c ≠ .framePulse phase) (hx : ∀ rail, c ≠ .psExit rail)
    (hc : ∀ found, c ≠ .coldStart found) (s : State) : KeepsCounter c s := by
  cases c with
  | framePulse phase => exact absurd rfl (hp phase)
  | psExit rail => exact absurd rfl (hx rail)
  | coldStart found => exact absurd rfl (hc found)
  | minuteBoundary => exact ⟨_, rfl, .of_when (.of_cnt (minuteEnd_cnt _))⟩
  | recordPeriodBoundary => exact ⟨_, rfl, .of_when (.of_only (periodEnd_only _ _))⟩
  | planInputCutoff => exact ⟨_, (rfl : execPlanInputCutoff s = act _ s), ⟨fun _ => ⟨rfl⟩⟩⟩
  | planCommit _ => exact ⟨_, rfl, .of_cnt (planCommit_cnt _)⟩
  | laneReset _ => exact ⟨_, rfl, .of_cnt (laneReset_cnt _)⟩
  | corridorLinkUp _ _ => exact ⟨_, rfl, .of_cnt (linkUp_cnt _ _)⟩
  | corridorLinkDown _ => exact ⟨_, rfl, .of_cnt (linkDown_cnt _)⟩
  | holdoverReport => exact ⟨_, rfl, .of_cnt holdover_cnt⟩
  | lockQualified => exact ⟨_, rfl, .of_cnt lockQualify_cnt⟩
  | syncInPulse => exact ⟨_, rfl, .of_cnt syncPulse_cnt⟩
  | syncInMissing => exact ⟨_, rfl, .of_cnt syncTimeout_cnt⟩
  | frameCountLoRead _ => exact ⟨_, rfl, answer_read4_kept _ _⟩
  | frameCount64Read _ => exact ⟨_, rfl, answer_windowRead_kept _ _ _⟩
  | mbxOutDataWrite _ _ => exact ⟨_, rfl, .of_only (write4_only _ _ _)⟩
  | mbxInDataRead _ => exact ⟨_, rfl, answer_read4_kept _ _⟩
  | mbxCtlReset _ => exact ⟨_, (rfl : execMbxCtlReset _ s = act _ s), .of_only fun s => write4_only _ _ _ s⟩
  | spillConsWrite _ _ => exact ⟨_, (rfl : execSpillConsWrite _ _ s = act _ s), .of_only fun s => write4_only _ _ _ s⟩
  | registerWrite _ _ _ _ => exact ⟨_, rfl, .of_only (windowWrite_only _ _ _ _)⟩
  | latchRead _ _ => exact ⟨_, rfl, .of_cnt (latchReadBy_cnt _ _)⟩
  | latchWrite _ _ _ => exact ⟨_, rfl, .of_only (latchWriteBy_only _ _ _)⟩
  | latchInspectRead _ _ _ _ =>
    exact ⟨_, (rfl : execLatchInspectRead _ _ _ _ s = act _ s), .of_ite (answer_windowRead_kept _ _ _) .refl⟩
  | noticeDataRead _ _ => exact ⟨_, (rfl : execNoticeDataRead _ _ s = act _ s), .of_ite (answer_read4_kept _ _) .refl⟩
  | notice64Read _ _ =>
    exact ⟨_, (rfl : execNotice64Read _ _ s = act _ s), .of_ite (answer_windowRead_kept _ _ _) .refl⟩
  | noticeBoardUpdate _ => exact ⟨_, rfl, .of_only (noticeUpdate_only _)⟩
  | echo | statusGet | pwrCounters | thermQuery =>
    exact ⟨_, rfl, .of_scp fun _ => .of_only fun s => replyOk_only _ _ s⟩
  | instCreate _ => exact ⟨_, rfl, .of_scp fun _ => .of_descRead fun _ => .of_only (instCreate_only _ _)⟩
  | instCreateDone _ => exact ⟨_, rfl, .of_only (createDone_only _)⟩
  | instDestroy => exact ⟨_, rfl, .of_scp fun _ => .of_only (instDestroy_only _)⟩
  | instDestroyDone _ => exact ⟨_, rfl, .of_only (destroyDone_only _)⟩
  | instReset => exact ⟨_, rfl, .of_scp fun _ => .of_only (instReset_only _)⟩
  | instanceResetEffect _ => exact ⟨_, rfl, .of_ticks (resetEffect_ticks _)⟩
  | instResetEnd _ => exact ⟨_, rfl, .of_only (resetEnd_only _)⟩
  | instShareSet => exact ⟨_, rfl, .of_scp fun _ => .of_only (shareSet_only _)⟩
  | instQuery => exact ⟨_, rfl, .of_scp fun _ => .of_only (instQuery_only _)⟩
  | instSanitise => exact ⟨_, rfl, .of_scp fun _ => .of_only (instSanitise_only _)⟩
  | instSanitiseStart _ => exact ⟨_, rfl, .of_only (sanitiseStart_only _)⟩
  | instSanitiseDone _ => exact ⟨_, rfl, .of_only (sanitiseDone_only _)⟩
  | protPropose _ => exact protPropose_keepsCounter _ s
  | protConfirm _ => exact protConfirm_keepsCounter _ s
  | protWithdraw _ => exact protWithdraw_keepsCounter _ s
  | protQuery _ => exact protQuery_keepsCounter _ s
  | protProposalExpiry _ => exact ⟨_, rfl, .of_when (.of_only (expireProposal_only _))⟩
  | claimBegin _ => exact ⟨_, rfl, .of_ownerClaimRow (.of_only claimBegin_only)⟩
  | claimFinish _ _ _ _ => exact ⟨_, rfl, .of_ownerClaimRow (.of_ownerWakes (.of_cnt (claimFinish_cnt _ _ _)))⟩
  | claimNonceExpiry => exact ⟨_, rfl, .of_when (.of_only expireClaim_only)⟩
  | release _ => exact ⟨_, rfl, .of_ownerRow (.of_only releaseOwner_only)⟩
  | spdmSessionMessage _ => exact ⟨_, rfl, .of_only (spdmMessage_only _)⟩
  | fwStage _ _ => exact fwStage_keepsCounter _ _ s
  | fwStageWritten => exact ⟨_, rfl, .of_when (.of_ticks stageWritten_ticks)⟩
  | fwSchedule _ => exact ⟨_, rfl, .of_scp fun _ => .of_ticks (fwSchedule_ticks _ _)⟩
  | fwPrepareDone => exact ⟨_, rfl, .of_when (.of_only prepareDone_only)⟩
  | fwCancel => exact ⟨_, rfl, .of_scp fun _ => .of_ticks (fwCancel_ticks _)⟩
  | fwStatus _ => exact fwStatus_keepsCounter _ s
  | handoverRecordWritten => exact ⟨_, rfl, .of_when (.of_only handoverWritten_only)⟩
  | engineMicrocodeSwitch => exact ⟨_, rfl, .of_when (.of_ticks microcodeSwitch_ticks)⟩
  | handoverReady => exact ⟨_, rfl, .of_when (.of_cnt handoverReady_cnt)⟩
  | activationHoldExpiry => exact ⟨_, rfl, .of_when (.of_ticks holdExpiry_ticks)⟩
  | svMinRaise => exact ⟨_, rfl, .of_when (.of_only svMinRaise_only)⟩
  | meterRingSet => exact ⟨_, rfl, .of_scp fun _ => .of_only (ringSet_only _)⟩
  | meterRead => exact ⟨_, rfl, .of_scp fun _ => .of_only (meterRead_only _)⟩
  | meterBatchWrite _ _ => exact ⟨_, rfl, .of_only (batchWrite_only _ _)⟩
  | meterRetry _ _ => exact ⟨_, rfl, .of_only (meterRetry_only _ _)⟩
  | recRead _ => exact ⟨_, rfl, .of_scp fun _ => .of_ticks (recRead_ticks _ _ _)⟩
  | calRead _ => exact ⟨_, rfl, .of_scp fun _ => .of_ticks (calRead_ticks _ _ _)⟩
  | calWrite _ => exact calWrite_keepsCounter _ s
  | cfgRead _ => exact ⟨_, rfl, .of_scp fun _ => .of_ticks (cfgRead_ticks _ _ _)⟩
  | cfgCommit _ => exact ⟨_, rfl, .of_scp fun _ => .of_descRead fun _ => .of_only (cfgCommit_only _ _)⟩
  | placePolicySet => exact ⟨_, rfl, .of_scp fun _ => .of_only (placePolicySet_only _)⟩
  | placeQuery => exact ⟨_, rfl, .of_scp fun _ => .of_only (placeQuery_only _)⟩
  | eccTestEnter => exact ⟨_, rfl, .of_eccRow fun _ => .of_only (eccEnter_only _)⟩
  | eccTestWriteRaw => exact ⟨_, rfl, .of_eccRow fun _ => .of_only (eccWriteRaw_only _)⟩
  | eccTestReadRaw => exact ⟨_, rfl, .of_eccRow fun _ => .of_only (eccReadRaw_only _)⟩
  | eccTestRead => exact ⟨_, rfl, .of_eccRow fun _ => .of_only (eccRead_only _)⟩
  | eccTestWrite => exact ⟨_, rfl, .of_eccRow fun _ => .of_only (eccWrite_only _)⟩
  | eccTestEncode => exact ⟨_, rfl, .of_eccRow fun _ => .of_only (eccEncode_only _)⟩
  | eccTestExit => exact ⟨_, rfl, .of_eccRow eccExit_kept⟩
  | cellarEnter _ => exact ⟨_, rfl, .of_ownerRow (.of_ticks cellarEnter_ticks)⟩
  | cellarExit _ _ => exact ⟨_, rfl, .of_ownerRow (.of_ticks (cellarExit_ticks _))⟩
  | cellarAutoExit _ => exact ⟨_, rfl, .of_ticks (cellarAutoExit_ticks _)⟩
  | corridorImageArrival _ _ => exact ⟨_, rfl, .of_only (imageArrival_only _ _)⟩
  | corridorForwardRetry _ => exact ⟨_, rfl, .of_only (forwardRetry_only _)⟩
  | corridorScheduleArrival _ _ => exact ⟨_, rfl, .of_ticks (scheduleArrival_ticks _ _)⟩
  | corridorCancelArrival => exact ⟨_, rfl, .of_ticks cancelArrival_ticks⟩
  | corridorOutcomeRelay _ _ _ => exact ⟨_, rfl, .of_only (outcomeRelay_only _ _ _)⟩
  | submissionDoorbellWrite _ _ _ => exact ⟨_, rfl, .of_ticks (tailDoorbell_ticks _ _ _)⟩
  | completionDoorbellWrite _ _ _ => exact ⟨_, rfl, .of_ticks (headDoorbell_ticks _ _ _)⟩
  | commandFetch _ _ _ => exact ⟨_, rfl, .of_ticks (fetch_ticks _ _ _)⟩
  | controllerReset _ => exact ⟨_, rfl, .of_when (.of_only (ctlResetOf_only _))⟩
  | controllerEnable _ _ _ => exact ⟨_, rfl, .of_only (ctlEnable_only _ _ _)⟩
  | functionLevelReset _ => exact ⟨_, rfl, .of_cnt (flr_cnt _)⟩
  | portLinkReset _ _ => exact ⟨_, rfl, .of_cnt (linkReset_cnt _ _)⟩
  | vfEnableChange _ _ _ => exact ⟨_, rfl, .of_when (.of_only (changePort_only _ _))⟩
  | deleteIoSubmissionQueue _ => exact ⟨_, rfl, .of_admin fun _ => .of_ticks (deleteSq_ticks _)⟩
  | createIoSubmissionQueue _ => exact ⟨_, rfl, .of_admin fun _ => .of_ticks (createSq_ticks _)⟩
  | deleteIoCompletionQueue _ => exact ⟨_, rfl, .of_admin fun _ => .of_ticks (deleteCq_ticks _)⟩
  | createIoCompletionQueue _ => exact ⟨_, rfl, .of_admin fun _ => .of_ticks (createCq_ticks _)⟩
  | getLogPage _ => exact ⟨_, rfl, .of_admin fun _ => .of_ticks (getLogPage_ticks _)⟩
  | identify _ => exact ⟨_, rfl, .of_admin fun _ => .of_ticks (identify_ticks _)⟩
  | abort _ => exact ⟨_, rfl, .of_admin fun _ => .of_ticks (abort_ticks _)⟩
  | setFeaturesArbitration _ => exact ⟨_, rfl, .of_setFeature fun _ => .of_ticks (setArbitration_ticks _)⟩
  | setFeaturesPowerManagement _ => exact ⟨_, rfl, .of_setFeature fun _ => .of_ticks (setPowerManagement_ticks _)⟩
  | setFeaturesTemperatureThreshold _ => exact ⟨_, rfl, .of_setFeature fun _ => .of_ticks (setTempThreshold_ticks _)⟩
  | setFeaturesErrorRecovery _ => exact ⟨_, rfl, .of_setFeature fun _ => .of_ticks (setErrorRecovery_ticks _)⟩
  | setFeaturesNumberOfQueues _ => exact ⟨_, rfl, .of_setFeature fun _ => .of_ticks (setNumberOfQueues_ticks _)⟩
  | setFeaturesInterruptCoalescing _ => exact ⟨_, rfl, .of_setFeature fun _ => .of_ticks (setCoalescing_ticks _)⟩
  | setFeaturesInterruptVectorConfig _ => exact ⟨_, rfl, .of_setFeature fun _ => .of_ticks (setVectorConfig_ticks _)⟩
  | setFeaturesWriteAtomicity _ => exact ⟨_, rfl, .of_setFeature fun _ => .of_ticks (setWriteAtomicity_ticks _)⟩
  | setFeaturesAsyncEventConfig _ => exact ⟨_, rfl, .of_setFeature fun _ => .of_ticks (setAsyncConfig_ticks _)⟩
  | setFeaturesApst _ _ => exact ⟨_, rfl, .of_setFeature fun _ => .of_ticks (setApst_ticks _ _)⟩
  | setFeaturesTimestamp _ _ => exact ⟨_, rfl, .of_setFeature fun _ => .of_ticks (setTimestamp_ticks _ _)⟩
  | setFeaturesLifetimeLimit _ => exact ⟨_, rfl, .of_setFeature fun _ => .of_ticks (setLifetime_ticks _)⟩
  | getFeatures _ => exact ⟨_, rfl, .of_admin fun _ => .of_ticks (getFeatures_ticks _)⟩
  | asynchronousEventRequest _ => exact ⟨_, rfl, .of_admin fun _ => .of_ticks (asyncRequest_ticks _)⟩
  | namespaceManagement _ _ => exact ⟨_, rfl, .of_admin fun _ => .of_ticks (nsManagement_ticks _ _)⟩
  | namespaceAttachment _ _ => exact ⟨_, rfl, .of_admin fun _ => .of_ticks (nsAttachment_ticks _ _)⟩
  | firmwareImageDownload _ _ _ => exact ⟨_, rfl, .of_admin fun _ => .of_ticks (imageDownload_ticks _ _)⟩
  | firmwareCommitReplace _ => exact ⟨_, rfl, .of_admin fun _ => .of_ticks (commitReplace_ticks _ _)⟩
  | firmwareCommitActivate _ _ => exact ⟨_, rfl, .of_admin fun _ => .of_ticks (commitActivate_ticks _ _)⟩
  | directiveSend _ => exact ⟨_, rfl, .of_admin fun _ => .of_ticks (directiveSend_ticks _)⟩
  | directiveReceive _ => exact ⟨_, rfl, .of_admin fun _ => .of_ticks (directiveReceive_ticks _)⟩
  | nvmeMiSend _ _ =>
    exact ⟨_, rfl, .of_admin fun _ => .of_ite (.of_ticks (finishBad_ticks _ _)) (.of_ticks (miTunnel_ticks _ _))⟩
  | nvmeMiReceive _ => exact ⟨_, rfl, .of_admin fun _ => .of_ticks (miTunnel_ticks _ _)⟩
  | formatNvm _ => exact ⟨_, rfl, .of_admin fun _ => .of_ticks (formatNvm_ticks _)⟩
  | formatDone _ => exact ⟨_, rfl, .of_ticks (formatDone_ticks _)⟩
  | sanitizeBlockErase _ | sanitizeCryptoErase _ =>
    exact ⟨_, rfl, .of_admin fun _ => .of_ticks (sanitize_ticks _ _ _)⟩
  | sanitizeExitFailureMode _ => exact ⟨_, rfl, .of_admin fun _ => .of_ticks (exitFailure_ticks _)⟩
  | sanitizeDone _ => exact ⟨_, rfl, .of_only (sanitizeDone_only _)⟩
  | securitySend _ => exact ⟨_, rfl, .of_admin fun _ => .of_ticks (securitySend_ticks _)⟩
  | securityReceive _ => exact ⟨_, rfl, .of_admin fun _ => .of_ticks (securityReceive_ticks _)⟩
  | unsupportedOpcode _ => exact ⟨_, rfl, .of_ticks (unsupported_ticks _)⟩
  | flush _ => exact ⟨_, rfl, .of_ticks (flushIo_ticks _)⟩
  | write _ | writeZeroes _ | zoneAppend _ => exact ⟨_, rfl, .of_ticks (writeRow_ticks _ _ _)⟩
  | read _ | verify _ => exact ⟨_, rfl, .of_ticks (readRow_ticks _ _)⟩
  | datasetManagement _ _ => exact ⟨_, rfl, .of_ticks (datasetManagement_ticks _ _)⟩
  | closeZone _ | finishZone _ | openZone _ | resetZone _ | offlineZone _ =>
    exact ⟨_, rfl, .of_ticks (zoneSend_ticks _ _)⟩
  | reportZones _ => exact ⟨_, rfl, .of_ticks (reportZones_ticks _)⟩
  | zoneWriteStart _ | conventionalWriteWaitEnd _ => exact ⟨_, rfl, .of_ticks (startRow_ticks _ _)⟩
  | ordBarrierRelease _ => exact ⟨_, rfl, .of_ticks (barrierRelease_ticks _)⟩
  | landingSpaceWaitEnd _ => exact ⟨_, rfl, .of_ticks fun s => startRow_ticks _ _ s⟩
  | unitLanded _ _ _ _ => exact ⟨_, rfl, .of_ticks (unitLanded_ticks _ _ _ _)⟩
  | writeCompletionPost _ => exact ⟨_, rfl, .of_ticks (writePost_ticks _)⟩
  | hostDmaFailure _ => exact ⟨_, rfl, .of_ticks (dmaFailure_ticks _)⟩
  | zoneDrainEnd _ => exact ⟨_, rfl, .of_ticks (drainEnd_ticks _)⟩
  | commandLifetimeExpiry _ => exact ⟨_, rfl, .of_ticks (lifetimeExpiry_ticks _)⟩
  | partialRowWaitExpiry _ _ | stripeRowDispatch _ _ => exact ⟨_, rfl, .of_cnt (dispatchRow_cnt _ _ _)⟩
  | suspendAcknowledged _ => exact ⟨_, rfl, .of_only (suspendAck_only _)⟩
  | dieStatusPoll _ _ => exact ⟨_, rfl, .of_only (statusPoll_only _ _)⟩
  | senseComplete _ => exact ⟨_, rfl, .of_only (senseComplete_only _)⟩
  | programComplete _ _ => exact ⟨_, rfl, .of_ticks (programComplete_ticks _ _)⟩
  | eraseComplete _ _ => exact ⟨_, rfl, .of_only (eraseComplete_only _ _)⟩
  | statusTimeout _ => exact ⟨_, rfl, .of_ticks (statusTimeout_ticks _)⟩
  | codewordDecode _ _ => exact ⟨_, rfl, .of_ticks (codewordDecode_ticks _ _)⟩
  | softDecodeComplete _ _ => exact ⟨_, rfl, .of_ticks (softDecode_ticks _ _)⟩
  | backStairReconstruct _ => exact ⟨_, rfl, .of_ticks (backStair_ticks _)⟩
  | readEgress _ _ => exact ⟨_, rfl, .of_ticks (readEgress_ticks _ _)⟩
  | journalRecordCommit _ => exact ⟨_, rfl, .of_ticks (commitHead_ticks _ _)⟩
  | homeLineWrite _ _ => exact ⟨_, rfl, .of_ticks (homeLineWrite_ticks _ _ _)⟩
  | checkpointSegmentWrite _ => exact ⟨_, rfl, .of_only (checkpointWrite_only _)⟩
  | relocationVictimStart _ => exact ⟨_, rfl, .of_ticks (relocationStart_ticks _)⟩
  | relocationCommit _ => exact ⟨_, rfl, .of_ticks (relocationCommit_ticks _)⟩
  | groupEraseIssue _ => exact ⟨_, rfl, .of_only (groupErase_only _)⟩
  | secureDiscardStep _ => exact ⟨_, rfl, .of_ticks (discardStep_ticks _)⟩
  | refreshAgeReached _ => exact ⟨_, rfl, .of_only (refreshAge_only _)⟩
  | patrolRead _ _ => exact ⟨_, rfl, .of_only (patrol_only _ _)⟩
  | trackerSave => exact ⟨_, rfl, .of_only trackerSave_only⟩
  | trackerWindowEnd => exact ⟨_, rfl, .of_only trackerWindowEnd_only⟩
  | probeRead _ => exact ⟨_, rfl, .of_only (probe_only _)⟩
  | channelRetrain _ _ => exact ⟨_, rfl, .of_only (channelRetrain_only _ _ _)⟩
  | dramPatrolScrub _ _ | sramPatrolScrub _ _ => exact ⟨_, rfl, .of_when (.of_cnt (scrub_cnt _ _))⟩
  | trngHealthFailure => exact ⟨_, rfl, .of_when trngFails_kept⟩
  | zoneFinishRecommended _ => exact ⟨_, rfl, .of_ticks (finishRecommended_ticks _)⟩
  | zoneDeviceFinish _ => exact ⟨_, rfl, .of_only (deviceFinishDue_only _)⟩
  | controlCoreWatchdogExpiry _ => exact ⟨_, rfl, .of_only (coreExpiry_only _)⟩
  | controlCoreRestartDone _ => exact ⟨_, rfl, .of_only (coreRestart_only _)⟩
  | mgmtWatchdogExpiry => exact ⟨_, rfl, .of_only mgmtExpiry_only⟩
  | mgmtRestartDone => exact ⟨_, rfl, .of_ticks mgmtRestart_ticks⟩
  | apstIdleTimerExpiry => exact ⟨_, rfl, .of_ticks idleExpiry_ticks⟩
  | psEntryDrained => exact ⟨_, rfl, .of_cnt entryDrained_cnt⟩
  | psEntryAbort => exact ⟨_, rfl, .of_cnt entryAbort_cnt⟩
  | wakeEvent => exact ⟨_, rfl, .of_when (.of_only wake_only)⟩
  | holdupReading _ => exact ⟨_, rfl, .of_only (holdupReading_only _)⟩
  | pmbAlert _ => exact ⟨_, rfl, .of_only (pmbAlert_only _)⟩
  | pfNRecognised => exact ⟨_, rfl, .of_only pfRecognised_only⟩
  | powerLossFlushEnd => exact ⟨_, rfl, flushEnd_kept⟩
  | flushRestart => exact ⟨_, rfl, .of_only flushRestart_only⟩
  | diodeSample _ _ _ => exact ⟨_, rfl, .of_ticks (diodeSample_ticks _ _ _)⟩
  | remoteSample _ _ _ => exact ⟨_, rfl, .of_ticks (remoteSample_ticks _ _ _)⟩
  | railMonitorSample _ _ => exact ⟨_, rfl, .of_only (railSample_only _ _)⟩
  | coolingRestart => exact ⟨_, rfl, .of_only coolingRestart_only⟩
  | alertResponseRead => exact ⟨_, rfl, .of_only alertResponse_only⟩
  | mctpMessage _ _ => exact ⟨_, rfl, .of_only (mctpMessage_only _ _)⟩
  | readNvmeMiDataStructure _ | nvmSubsystemHealthStatusPoll _ | controllerHealthStatusPoll _
  | configurationSet _ | configurationGet _ | recorderRead _ | thermalQuery _ =>
    exact ⟨_, rfl, .of_only (miRow_only _ _)⟩
  | controlPrimitivePause _ => exact ⟨_, rfl, .of_when (.of_only (miPause_only _))⟩
  | controlPrimitiveResume _ => exact ⟨_, rfl, .of_when (.of_only (miResume_only _))⟩
  | controlPrimitiveAbort _ => exact ⟨_, rfl, .of_when (.of_only (miAbort_only _))⟩
  | controlPrimitiveGetState _ => exact ⟨_, rfl, .of_when (.of_only (miGetState_only _))⟩
  | controlPrimitiveReplay _ => exact ⟨_, rfl, .of_when (.of_only (miReplay_only _))⟩
  | nvmeMiAdminCommand _ => exact ⟨_, rfl, .of_when (.of_only (miAdmin_only _))⟩
  | nvmeMiInvalidOpcode _ => exact ⟨_, rfl, .of_when (.of_only (miRequest_only _))⟩
  | basicManagementStatus | basicManagementVendorSerial | basicManagementFaultCode
  | basicManagementFireDoorStatus =>
    exact ⟨_, rfl, .of_when (.of_only (send_only _))⟩
  | recorderBufferWrite => exact ⟨_, rfl, .of_when (.of_only writeBuffer_only)⟩
  | powerOn => exact ⟨_, rfl, .of_only powerOn_only⟩
  | railPowerGood _ => exact ⟨_, rfl, .of_only (railGood_only _)⟩
  | bootWaitTimeout _ => exact ⟨_, rfl, .of_only (bootWaitTimeout_only _)⟩
  | bootRetry => exact ⟨_, rfl, .of_only bootRetry_only⟩
  | firmwareReadyTimeout _ => exact ⟨_, rfl, .of_ticks (readyTimeout_ticks _)⟩
  | gatedRead _ _ _ => exact ⟨_, rfl, .of_cnt (gatedReadOf_cnt _ _ _)⟩
  | pcieLinkUp _ => exact ⟨_, rfl, .of_when (.of_only (updPort_only _ _))⟩
  | aggregationTimeExpiry _ _ => exact ⟨_, rfl, .of_only (aggregationExpiry_only _ _)⟩
  | jtagInstruction _ _ => exact ⟨_, rfl, .of_only (jtagInstruction_only _ _)⟩
  | consoleInput _ => exact ⟨_, rfl, .of_only (consoleInput_only _)⟩
  | trngHealthTestPass => exact ⟨_, rfl, .of_only (setTrng_only _)⟩
  | powerRemoved => exact ⟨_, rfl, .of_only powerRemoved_only⟩
  | sidebandLinkReset _ => exact ⟨_, rfl, .of_only (endSession_only _)⟩

theorem execFramePulse_counter {phase : Int} {s t : State} (he : exec (.framePulse phase) s = .next t) :
    t.frame.counter = s.frame.counter ∨ t.frame.counter = nextCount s.frame ∨
      t.frame.counter = boundaryCount s.frame := by
  cases he
  exact framePulse_counter phase { s with emit := [] }

theorem execPsExit_counter {rail : Option Nat} {s t : State} (he : exec (.psExit rail) s = .next t) :
    t.frame.counter = s.frame.counter ∨ t.frame.counter = (s.frame.counter + s.power.aonCount) % 2 ^ 64 := by
  cases he
  exact psExit_counter rail { s with emit := [] }

/-- Settles O6: one case for the pulse, one for the exit, and every other command keeps the counter. -/
theorem theCounterNeverDecreases : Obligations.TheCounterNeverDecreases := by
  intro c s t he hcold
  have others : (∀ phase, c ≠ .framePulse phase) → (∀ rail, c ≠ .psExit rail) → t.frame.counter = s.frame.counter :=
    fun hp hx => (keepsCounter_of_ne hp hx hcold s).counter_eq he
  refine ⟨others, ?pulse, ?exit, ?notLower⟩
  case pulse =>
    rintro phase rfl
    have incremented : t.frame.counter = nextCount s.frame → (s.frame.started = false ∧ t.frame.counter = 0) ∨
        t.frame.counter = (s.frame.counter + 1) % 2 ^ 64 := fun e => by rw [e]; exact nextCount_cases s.frame
    obtain e | e | e := execFramePulse_counter he
    · exact .inl e
    · exact .inr ((incremented e).imp_right .inl)
    · obtain b | ⟨n, hn, -, b⟩ := boundaryCount_cases s.frame
      · exact .inr ((incremented (e.trans b)).imp_right .inl)
      · exact .inr (.inr (.inr ⟨n, hn, e.trans b⟩))
  case exit =>
    rintro rail rfl
    exact execPsExit_counter he
  case notLower =>
    intro hc hn h0
    by_cases hp : ∃ phase, c = .framePulse phase
    · obtain ⟨phase, rfl⟩ := hp
      obtain e | e | e := execFramePulse_counter he
      · exact Nat.le_of_eq e.symm
      · exact e ▸ counter_le_nextCount (by omega) h0
      · exact e ▸ counter_le_boundaryCount (by omega) h0 hn
    by_cases hx : ∃ rail, c = .psExit rail
    · obtain ⟨rail, rfl⟩ := hx
      obtain e | e := execPsExit_counter he
      · exact Nat.le_of_eq e.symm
      · rw [e, Nat.mod_eq_of_lt (by omega)]; omega
    · exact Nat.le_of_eq (others (fun p h => hp ⟨p, h⟩) fun r h => hx ⟨r, h⟩).symm

end Sys2Proof.Machine
end

section
/-! R84, R90: what the header word of a request says of its form, what becomes of a malformed request, and ECHO, which
returns its payload. -/

namespace Sys2Proof.Machine

/-! ### The header word (R65) -/

section
variable {r : Posted} {n : Nat} {lens : List Nat} {mgr : Bool}

/-- The first word of a message, written as a number below 2^32, is its header. -/
theorem header_of_words {payload : List Word} (hn : n < 2 ^ 32) (hw : r.words = wordOf n :: payload) : r.header = n := by
  rw [Posted.header, hw]
  exact Nat.mod_eq_of_lt hn

/-- A request with no flag and no reserved bit set passes the form of an opcode without a descriptor at the lengths that
the opcode takes. -/
theorem formFault_plain_none (hlow : r.header % 2 ^ 12 = 0) (hlen : r.len ∈ lens) :
    formFault r (Form.plain lens mgr) = none := by
  have flags : bits r.header 7 0 = 0 ∧ bits r.header 11 10 = 0 := by simp only [bits]; omega
  have desc : bitOf r.header 8 = false := decide_eq_false (by omega)
  have stale : bitOf r.header 9 = false := decide_eq_false (by omega)
  simp [formFault, Form.plain, rsvd, flags, desc, stale, hlen]

/-- FLAGS.DESC = 1 to an opcode without a descriptor is a fault of the header (R84 step 2). -/
theorem formFault_plain_desc {rsv : List (Nat × Nat)} (hd : bitOf r.header 8 = true) :
    formFault r (Form.plain lens mgr rsv) = some 0 := by
  simp [formFault, Form.plain, hd]

end

/-! ### Malformed requests (R84 step 2) -/

section
variable {s : State} {op i : Nat} {f : Form} {fault : Posted → Option Nat} {body : Posted → State → State} {r : Posted}

theorem tagDup_takeHead (a : Asks s op r) : tagDup (takeHead s) r = false := by
  have outst : (takeHead s).mbx.outst = s.mbx.outst := (congrArg (fun m : MbxSt => m.outst) (takeHead_evMbx a.head) :)
  simpa [tagDup, outst] using a.fresh

/-- A malformed request is taken off the queue and answered INVALID; its opcode's own meaning is not reached. -/
theorem scp_malformed (a : Asks s op r) (hf : formFault r f = some i) :
    scp op f fault body s = replyInvalid r i (takeHead s) := by
  have empty : (replyInvalid r i (takeHead s)).mbx.outQ = [] := (reply_answers (quiet_takeHead a) (by simp)).taken
  unfold scp
  simp only [a.taken, a.head, a.opcode, tagDup_takeHead a, hf, Bool.not_true, Bool.false_eq_true, ne_eq,
    not_true_eq_false, if_false]
  exact drainHeads_empty 16 empty

/-- A request row whose request is malformed completes with INVALID, and changes the mailbox only. -/
theorem scp_malformed_replies {c : Instr} (hc : exec c s = act (scp op f fault body) s) (a : Asks s op r)
    (hf : formFault r f = some i) :
    Does c s fun t => Answers s t r 0x02 [i] ∧ Only [.mbx, .emit] s t :=
  ⟨_, hc.trans (congrArg Host.Outcome.next (scp_malformed a.act hf)), reply_answers (quiet_takenUp a) (by simp),
    replyInvalid_only r i _ (takenUp_only s) (by decide)⟩

end

/-! ### ECHO (R90) -/

/-- A well-formed ECHO is answered OK with the words that follow its header, and changes the mailbox only. -/
theorem echo_replies {s : State} {r : Posted} (a : Asks s 0x01 r)
    (hf : formFault r (Form.plain (List.range 16) false) = none) (hl : r.words.tail.length ≤ 15) :
    Does .echo s fun t => Answers s t r 0x00 (r.words.tail.map fun w => w.toNat) ∧ Only [.mbx, .emit] s t :=
  scp_replies rfl a hf nofun rfl rfl (quiet_takenUp a) (by simpa using hl)
    (replyOk_only r _ _ (takenUp_only s) (by decide))

/-- Settles O17: the header's fields decide between the reply of a well-formed ECHO and INVALID, which names word 0. -/
theorem echoReturnsItsPayload : Obligations.EchoReturnsItsPayload := by
  intro s r tag payload a htag hlen
  refine ⟨?wellFormed, ?descriptor⟩
  case wellFormed =>
    intro hw
    have header : r.header = 0x01 * 2 ^ 24 + tag * 2 ^ 16 + payload.length * 2 ^ 12 := header_of_words (by omega) hw
    have len : r.len = payload.length := by simp only [Posted.len, bits, header]; omega
    have form : formFault r (Form.plain (List.range 16) false) = none :=
      formFault_plain_none (by omega) (by rw [len, List.mem_range]; omega)
    simpa [hw] using echo_replies a form (by simpa [hw] using hlen)
  case descriptor =>
    intro hw
    have header : r.header = 0x01 * 2 ^ 24 + tag * 2 ^ 16 + payload.length * 2 ^ 12 + 2 ^ 8 :=
      header_of_words (by omega) hw
    have desc : bitOf r.header 8 = true := decide_eq_true (by omega)
    exact scp_malformed_replies rfl a (formFault_plain_desc desc)

end Sys2Proof.Machine
end

section
/-! R104, R160: an admin command that a Sanitize prohibits, and how a Format and a Sanitize exclude each other. -/

namespace Sys2Proof.Machine

/-! ### Refused admin commands -/

/-- Core 0 parses the admin command now and its checks of R103 and R110 pass, whether or not a Sanitize runs. -/
structure AdminParsed (s : State) (id : CmdId) (opc : Nat) (who : Access) (it : Item) : Prop where
  found : findItem s id = some it
  unique : itemBySeq s it.seq = some it
  queue : id.sq = 0
  opcode : it.opc = opc
  fresh : it.outcome = none
  heard : it.silent = false
  taken : adminOpen s = true
  released : it.held = false
  turn : inTurn s it = true
  allowed : accessFault s id.fn who = none
  plain : it.sqe.fuse = 0 ∧ it.sqe.psdt = 0

section
variable {c : Instr} {s : State} {id : CmdId} {opc : Nat} {who : Access} {body : Item → State → State} {it : Item}

theorem AdminRuns.parsed (a : AdminRuns s id opc who it) : AdminParsed s id opc who it :=
  ⟨a.found, a.unique, a.queue, a.opcode, a.fresh, a.heard, a.taken, a.released, a.turn, a.allowed, a.plain⟩

/-- A parsed command that fails completes with the status, and starts nothing on any namespace. -/
theorem AdminParsed.fails (a : AdminParsed s id opc who it) (st : Status) :
    Completes s (finishBad it.seq st (admitted s it)) it st 0 0 ∧
      (finishBad it.seq st (admitted s it)).zone = s.zone := by
  refine ⟨?completes, ?zone⟩
  case completes =>
    have item : itemBySeq (admitted s it) it.seq = some it := a.unique
    exact finish_completes st 0 0 item a.fresh a.heard (adminOpen_flushing a.taken) rfl
  case zone =>
    have finished : Only [.frame, .host, .inst, .recd, .emit] (admitted s it) (finishBad it.seq st (admitted s it)) :=
      finishBad_only it.seq st _ (only_refl _ _) (by decide)
    exact finished.same .zone (by decide)

/-- While a Sanitize runs, a prohibited command does not reach its own meaning (R104). -/
theorem admin_sanitizing (a : AdminParsed s id opc who it) (hr : sanitizing s = true)
    (hp : sanitizeProhibits opc = true) :
    admin opc who body id { s with emit := [] } = finishBad it.seq stSanitizeInProgress (admitted s it) := by
  have found : findItem { s with emit := [] } id = some it := a.found
  have taken : adminOpen { s with emit := [] } = true := a.taken
  have turn : inTurn { s with emit := [] } it = true := a.turn
  have allowed : accessFault (takeUp it.seq { s with emit := [] }) id.fn who = none := a.allowed
  have wipes : sanitizing (takeUp it.seq { s with emit := [] }) = true := hr
  unfold admin
  simp [found, taken, turn, allowed, wipes, hp, a.queue, a.opcode, a.fresh, a.released, a.plain, admitted]

/-- An admin row that a running Sanitize prohibits completes with Sanitize In Progress. -/
theorem admin_sanitizing_fails (hc : exec c s = act (admin opc who body id) s) (a : AdminParsed s id opc who it)
    (hr : sanitizing s = true) (hp : sanitizeProhibits opc = true) :
    Does c s fun t => Completes s t it stSanitizeInProgress 0 0 ∧ t.zone = s.zone :=
  ⟨_, hc.trans (congrArg Host.Outcome.next (admin_sanitizing a hr hp)), a.fails _⟩

end

/-! ### Sanitize against Format (R160) -/

section
variable {c : Instr} {s : State} {id : CmdId} {it : Item} {action : Nat} {kind : EraseKind}

/-- A Format on any namespace stops a Sanitize of either kind before it begins. -/
theorem sanitize_formatRuns (ha : dw it.sqe.cdw10 2 0 = action) (hf : ∃ p ∈ s.zone.nss, formatRuns s p.2 = true) :
    sanitize action kind it s = finishBad it.seq stFormatInProgress s := by
  have runs : s.zone.nss.any (fun p => formatRuns s p.2) = true := List.any_eq_true.mpr hf
  simp [sanitize, ha, runs]

/-- A Sanitize row taken while a Format runs completes with Format In Progress. -/
theorem sanitize_formatRuns_fails (hc : exec c s = act (admin 0x84 .manager (sanitize action kind) id) s)
    (a : AdminRuns s id 0x84 .manager it) (ha : dw it.sqe.cdw10 2 0 = action)
    (hf : ∃ p ∈ s.zone.nss, formatRuns s p.2 = true) :
    Does c s fun t => Completes s t it stFormatInProgress 0 0 ∧ t.zone = s.zone :=
  ⟨_, (admin_next hc a).trans (congrArg Host.Outcome.next (sanitize_formatRuns (s := admitted s it) ha hf)),
    a.parsed.fails _⟩

end

/-- Settles O47: a Format in progress is the first thing a Sanitize of either kind looks for, and a Format is among the
commands that are refused before their own meaning while a Sanitize runs. -/
theorem formatAndSanitizeExcludeEachOther : Obligations.FormatAndSanitizeExcludeEachOther := by
  intro s id it
  refine ⟨?sanitize, ?format⟩
  case sanitize =>
    rintro c a (⟨rfl, rfl⟩ | ⟨rfl, rfl⟩) runs action formats
    · exact sanitize_formatRuns_fails (kind := .block) rfl runs action formats
    · exact sanitize_formatRuns_fails (kind := .crypto) rfl runs action formats
  case format =>
    intro found unique queue opcode fresh heard taken released turn allowed fuse psdt sanitizes
    exact admin_sanitizing_fails rfl
      ⟨found, unique, queue, opcode, fresh, heard, taken, released, turn, allowed, fuse, psdt⟩ sanitizes rfl

end Sys2Proof.Machine
end

section
/-! R369, R377: what taking up an owner's request does, and how either party ends the pending proposal of a class. -/

namespace Sys2Proof.Machine

/-! ### The owner's requests (R369, R432) -/

/-- A wake has no effect on a device that is awake and enters no power state. -/
theorem wake_awake {s : State} (hg : gated s = false) (he : s.power.entry = none) : wake s = s := by
  have operational : ¬ 3 ≤ s.power.ps := fun h => by simp [gated, h] at hg
  simp [wake, he, operational]

section
variable {s : State} {l : Sideband} {c : Instr} {body : State → State}

theorem OwnerHeard.act (a : OwnerHeard s l) : OwnerHeard { s with emit := [] } l :=
  ⟨a.taken, a.awake, a.noEntry, a.session, a.normal⟩

/-- A request of an authenticated owner to a device that is awake reaches its own meaning. -/
theorem ownerRow_heard (a : OwnerHeard s l) : ownerRow l body s = body s := by
  obtain ⟨x, session, authenticated⟩ := a.session
  simp [ownerRow, ownerQuiet, ownerWakes, a.taken, session, authenticated, a.awake, wake_awake a.awake a.noEntry]

/-- An owner row that is heard completes with its own meaning. -/
theorem ownerRow_next (hc : exec c s = Sys2Proof.Machine.act (ownerRow l body) s) (a : OwnerHeard s l) :
    exec c s = .next (body { s with emit := [] }) :=
  hc.trans (congrArg Host.Outcome.next (ownerRow_heard a.act))

end

/-! ### Pending proposals (R373, R374) -/

/-- Nothing but the proposal itself keeps a request about the pending proposal of the class from being accepted: the
device is not in the cellar, an owner is registered, and the class exists (R375). -/
structure TwoPartyOpen (s : State) (cls : Nat) : Prop where
  normal : s.fw.cellar = false
  owned : s.prot.ownerKey.isSome = true
  first : 1 ≤ cls
  last : cls ≤ 6

/-- Proposal `p` is the pending one of its class, and its deadline has not passed. -/
structure PendingInTime (s : State) (cls : Nat) (p : Proposal) : Prop where
  pending : pendingOf s cls = some p
  inTime : s.frame.elapsed ≤ p.armed + 2 ^ 27

/-- The pending proposal of the class, and no other, has ended with outcome `o`. -/
structure ProposalEnded (s t : State) (cls : Nat) (o : Outc) : Prop where
  gone : pendingOf t cls = none
  outcome : tabGetD t.prot.outcomes cls .none = o
  others : ∀ k, k ≠ cls → pendingOf t k = pendingOf s k

section
variable {s t : State} {cls : Nat} {p : Proposal} {ps : List Part}

theorem pendingOf_only (h : Only ps s t) (hp : .prot ∉ ps) (k : Nat) : pendingOf t k = pendingOf s k :=
  congrArg (fun u : ProtSt => tabGet u.pending k) (h.same .prot hp)

theorem TwoPartyOpen.registered (o : TwoPartyOpen s cls) : s.prot.ownerKey.isNone = false := by
  simpa using o.owned

theorem TwoPartyOpen.known (o : TwoPartyOpen s cls) : ¬(cls = 0 ∨ 6 < cls) := by
  have := o.first
  have := o.last
  omega

theorem TwoPartyOpen.act (o : TwoPartyOpen s cls) : TwoPartyOpen { s with emit := [] } cls :=
  ⟨o.normal, o.owned, o.first, o.last⟩

theorem PendingInTime.act (k : PendingInTime s cls p) : PendingInTime { s with emit := [] } cls p :=
  ⟨k.pending, k.inTime⟩

theorem TwoPartyOpen.of_only (o : TwoPartyOpen s cls) (h : Only ps s t) (hp : .prot ∉ ps) (hf : .fw ∉ ps) :
    TwoPartyOpen t cls where
  normal := (congrArg FwSt.cellar (h.same .fw hf)).trans o.normal
  owned := (congrArg (fun u : ProtSt => u.ownerKey.isSome) (h.same .prot hp)).trans o.owned
  first := o.first
  last := o.last

theorem PendingInTime.of_only (k : PendingInTime s cls p) (h : Only ps s t) (hp : .prot ∉ ps) (hf : .frame ∉ ps) :
    PendingInTime t cls p where
  pending := (pendingOf_only h hp cls).trans k.pending
  inTime := Nat.le_trans (Nat.le_of_eq (congrArg FrameSt.elapsed (h.same .frame hf))) k.inTime

theorem endProposal_ends (o : Outc) : ProposalEnded s (endProposal cls o s) cls o where
  gone := tabGet_del_self s.prot.pending cls
  outcome := congrArg (Option.getD · Outc.none) (tabGet_set_self s.prot.outcomes cls o)
  others _ hk := tabGet_del_ne s.prot.pending hk

/-- What is done before and after the end of a proposal, and leaves the protection state alone, does not change what
has ended. -/
theorem ProposalEnded.of_only {x y : State} {o : Outc} (e : ProposalEnded x y cls o) (hx : Only ps s x) (hy : Only ps y t)
    (hp : .prot ∉ ps) : ProposalEnded s t cls o where
  gone := (pendingOf_only hy hp cls).trans e.gone
  outcome := (congrArg (fun u : ProtSt => tabGetD u.outcomes cls .none) (hy.same .prot hp)).trans e.outcome
  others k hk := ((pendingOf_only hy hp k).trans (e.others k hk)).trans (pendingOf_only hx hp k)

theorem expireProposal_none (h : pendingOf s cls = none) : expireProposal cls s = s := by
  simp [expireProposal, h]

theorem expireProposal_inTime (k : PendingInTime s cls p) : expireProposal cls s = s := by
  have waits : fired p.armed (2 ^ 27) (clk s) = false := decide_eq_false (Nat.not_lt.mpr k.inTime)
  simp only [expireProposal, k.pending, waits, Bool.false_eq_true, if_false]

end

/-! ### Withdrawal and confirmation (R375, R377) -/

section
variable {s : State} {cls : Nat} {p : Proposal} {a : Asker} {by_ : Party}

/-- The outcome of a withdrawal by a party of a proposal by another or by itself. -/
def withdrawalOutcome (proposer by_ : Party) : Outc := if proposer = by_ then .withdrawn else .rejected

theorem withdraw_pending (o : TwoPartyOpen s cls) (k : PendingInTime s cls p) :
    withdraw a by_ cls s = askOk a [] (endProposal cls (withdrawalOutcome p.proposer by_) s) := by
  simp [withdraw, expireProposal_inTime k, o.normal, o.registered, o.known, k.pending, withdrawalOutcome]

theorem withdraw_none (o : TwoPartyOpen s cls) (h : pendingOf s cls = none) :
    withdraw a by_ cls s = askRefused a 0x0203 s := by
  simp [withdraw, expireProposal_none h, o.normal, o.registered, o.known, h]

/-- The other party's confirmation with the right digest is accepted. -/
theorem confirm_accepted (o : TwoPartyOpen s cls) (k : PendingInTime s cls p) (hb : p.proposer ≠ by_) :
    ∃ tag, confirm a by_ cls p.digest s =
      acceptConfirm cls p by_ tag (askPending a (noteTie p.armed (2 ^ 27) s)) := by
  simp only [confirm, expireProposal_inTime k, o.normal, o.registered, o.known, k.pending, hb, Bool.false_eq_true,
    if_false, ne_eq, not_true_eq_false]
  exact ⟨_, rfl⟩

theorem pendingOf_acceptConfirm (by_ : Party) (tag : Option Nat) : pendingOf (acceptConfirm cls p by_ tag s) cls = none :=
  tabGet_del_self s.prot.pending cls

end

/-! ### The manager's rows -/

section
variable {s : State} {cls : Nat} {p : Proposal} {r : Posted} {dma : Dma}

theorem takenUp_twoPartyOpen (o : TwoPartyOpen s cls) : TwoPartyOpen (takenUp s) cls :=
  o.of_only (takenUp_only s) (by decide) (by decide)

theorem takenUp_pendingInTime (k : PendingInTime s cls p) : PendingInTime (takenUp s) cls p :=
  k.of_only (takenUp_only s) (by decide) (by decide)

theorem scp_withdraws (a : Asks s 0x22 r) (hf : formFault r (Form.plain [1] true [(0, 0xFFFFFF00)]) = none)
    (hm : holder s 0 = r.agent) (hc : r.pw 0 = cls) (o : TwoPartyOpen s cls) (k : PendingInTime s cls p) :
    Does (.protWithdraw (.scp dma)) s fun t => Answers s t r 0x00 [] ∧
      ProposalEnded s t cls (withdrawalOutcome p.proposer .manager) ∧ Only [.mbx, .prot, .emit] s t := by
  have ended : Only [.prot] (takenUp s) (endProposal cls (withdrawalOutcome p.proposer .manager) (takenUp s)) :=
    endProposal_only _ _ _ (only_refl _ _) (by decide)
  subst hc
  exact scp_replies rfl a hf (fun _ => hm) rfl (withdraw_pending (takenUp_twoPartyOpen o) (takenUp_pendingInTime k))
    ((quiet_takenUp a).of_only ended (by decide)) (by simp)
    ⟨(endProposal_ends _).of_only (takenUp_only s) (replyOk_only r [] _ (only_refl _ _) (by decide)) (by decide),
      replyOk_only r [] _ (((takenUp_only s).mono (by decide)).trans (ended.mono (by decide))) (by decide)⟩

theorem scp_withdraw_refused (a : Asks s 0x22 r) (hf : formFault r (Form.plain [1] true [(0, 0xFFFFFF00)]) = none)
    (hm : holder s 0 = r.agent) (hc : r.pw 0 = cls) (o : TwoPartyOpen s cls) (h : pendingOf s cls = none) :
    Does (.protWithdraw (.scp dma)) s fun t => Answers s t r 0x04 [0x0203] ∧ Only [.mbx, .emit] s t := by
  subst hc
  have nothing : pendingOf (takenUp s) (r.pw 0) = none := (pendingOf_only (takenUp_only s) (by decide) _).trans h
  exact scp_replies rfl a hf (fun _ => hm) rfl (withdraw_none (takenUp_twoPartyOpen o) nothing) (quiet_takenUp a)
    (by simp) (replyRefused_only r _ _ (takenUp_only s) (by decide))

/-- A request answered PENDING leaves the host→device queue. -/
theorem replyPending_outQ {x : State} (q : Quiet s x) : (replyPending r x).mbx.outQ = [] := by
  have noted : Quiet s (updMbx (fun m => { m with outst := m.outst ++
      [{ tag := r.tag, opcode := r.opcode, agent := r.agent, epoch := r.epoch, frame := r.frame }] }) x) :=
    ⟨q.outQ, q.inQ, q.spill, q.backlog, q.host, q.dev⟩
  exact (reply_answers noted (by simp)).taken

theorem scp_confirm_noPending (a : Asks s 0x21 r) (hf : formFault r (Form.plain [13] true [(0, 0xFFFFFF00)]) = none)
    (hm : holder s 0 = r.agent) (hc : r.pw 0 = cls) (o : TwoPartyOpen s cls) (k : PendingInTime s cls p)
    (hb : p.proposer = .owner) (hd : digestAt r.pw 1 = p.digest) :
    Does (.protConfirm (.scp dma)) s fun t => pendingOf t cls = none := by
  subst hc
  have other : p.proposer ≠ .manager := by simp [hb]
  obtain ⟨tag, accepted⟩ := confirm_accepted (a := .scp r) (takenUp_twoPartyOpen o) (takenUp_pendingInTime k) other
  have tied : Only [.frame] (takenUp s) (noteTie p.armed (2 ^ 27) (takenUp s)) :=
    noteTie_only _ _ _ (only_refl _ _) (by decide)
  have taken := replyPending_outQ (r := r) ((quiet_takenUp a).of_only tied (by decide))
  rw [← hd] at accepted
  refine ⟨_, scp_next rfl a hf (fun _ => hm) rfl ?taken, ?gone⟩
  case taken => exact (congrArg (fun t : State => t.mbx.outQ) accepted).trans taken
  case gone => exact (congrArg (pendingOf · (r.pw 0)) accepted).trans (pendingOf_acceptConfirm _ _)

end

/-! ### The owner's rows -/

section
variable {s : State} {cls : Nat} {p : Proposal} {l : Sideband} {b : List Byte}

theorem protWithdraw_owner (a : OwnerHeard s l) (hl : b.length = 4) (hc : fieldAt b 0 4 = cls) (h6 : cls ≤ 6) :
    exec (.protWithdraw (.owner l b)) s = .next (withdraw .owner .owner cls { s with emit := [] }) := by
  refine (ownerRow_next rfl a).trans ?_
  have byte : ¬ 255 < cls := by omega
  simp [hl, hc, byte]

theorem protConfirm_owner (a : OwnerHeard s l) (hl : b.length = 52) (hc : fieldAt b 0 4 = cls) (h6 : cls ≤ 6) :
    exec (.protConfirm (.owner l b)) s =
      .next (confirm .owner .owner cls (BitVec.ofNat 384 (fieldAt b 4 48)) { s with emit := [] }) := by
  refine (ownerRow_next rfl a).trans ?_
  have byte : ¬ 255 < cls := by omega
  simp [hl, hc, byte]

theorem emptied_only (s : State) : Only [.emit] s { s with emit := [] } := only_emit _ (only_refl _ _) (by decide)

theorem owner_withdraws (a : OwnerHeard s l) (hl : b.length = 4) (hc : fieldAt b 0 4 = cls) (o : TwoPartyOpen s cls)
    (k : PendingInTime s cls p) :
    Does (.protWithdraw (.owner l b)) s fun t => OwnerAnswered t 0x00 [] ∧
      ProposalEnded s t cls (withdrawalOutcome p.proposer .owner) ∧ Only [.prot, .emit] s t := by
  have performed := withdraw_pending (a := .owner) (by_ := .owner) o.act k.act
  refine ⟨_, (protWithdraw_owner a hl hc o.last).trans (congrArg Host.Outcome.next performed), rfl, ?ended, ?only⟩
  case ended =>
    exact (endProposal_ends _).of_only (emptied_only s) (ownerReply_only _ _ _ (only_refl _ _) (by decide)) (by decide)
  case only =>
    exact ownerReply_only _ _ _ (endProposal_only _ _ _ ((emptied_only s).mono (by decide)) (by decide)) (by decide)

theorem owner_withdraw_refused (a : OwnerHeard s l) (hl : b.length = 4) (hc : fieldAt b 0 4 = cls)
    (o : TwoPartyOpen s cls) (h : pendingOf s cls = none) :
    Does (.protWithdraw (.owner l b)) s fun t => OwnerAnswered t 0x04 [0x0203] ∧ Only [.emit] s t := by
  have performed := withdraw_none (a := .owner) (by_ := .owner) o.act h
  exact ⟨_, (protWithdraw_owner a hl hc o.last).trans (congrArg Host.Outcome.next performed), rfl,
    ownerReply_only _ _ _ (emptied_only s) (by decide)⟩

theorem owner_confirm_noPending (a : OwnerHeard s l) (hl : b.length = 52) (hc : fieldAt b 0 4 = cls)
    (o : TwoPartyOpen s cls) (k : PendingInTime s cls p) (hb : p.proposer = .manager)
    (hd : BitVec.ofNat 384 (fieldAt b 4 48) = p.digest) :
    Does (.protConfirm (.owner l b)) s fun t => pendingOf t cls = none := by
  have other : p.proposer ≠ .owner := by simp [hb]
  obtain ⟨tag, accepted⟩ := confirm_accepted (a := .owner) o.act k.act other
  rw [← hd] at accepted
  exact ⟨_, (protConfirm_owner a hl hc o.last).trans (congrArg Host.Outcome.next accepted), pendingOf_acceptConfirm _ _⟩

end

/-- Settles O23: a withdrawal ends the pending proposal with the outcome that its party gives it, an accepted
confirmation takes it off the pending ones, and where none is pending the withdrawal meets its one refusal. -/
theorem proposalsAreWithdrawn : Obligations.ProposalsAreWithdrawn := by
  intro s cls first last owned
  refine ⟨?managerWithdraws, ?ownerWithdraws, ?managerConfirms, ?ownerConfirms⟩
  case managerWithdraws =>
    intro r dma a form manager hc
    have o : TwoPartyOpen s cls := ⟨a.normal, owned, first, last⟩
    refine ⟨fun p pending inTime => ?_, scp_withdraw_refused a form manager hc o⟩
    obtain ⟨t, next, answers, ended, only⟩ := scp_withdraws a form manager hc o ⟨pending, inTime⟩
    exact ⟨t, next, answers, ended.gone, ended.outcome, ended.others, only⟩
  case ownerWithdraws =>
    intro l b a hl hc
    have o : TwoPartyOpen s cls := ⟨a.normal, owned, first, last⟩
    refine ⟨fun p pending inTime => ?_, owner_withdraw_refused a hl hc o⟩
    obtain ⟨t, next, answered, ended, only⟩ := owner_withdraws a hl hc o ⟨pending, inTime⟩
    exact ⟨t, next, answered, ended.gone, ended.outcome, ended.others, only⟩
  case managerConfirms =>
    intro r dma p a form manager hc pending inTime proposer digest
    exact scp_confirm_noPending a form manager hc ⟨a.normal, owned, first, last⟩ ⟨pending, inTime⟩ proposer digest
  case ownerConfirms =>
    intro l b p a hl hc pending inTime proposer digest
    exact owner_confirm_noPending a hl hc ⟨a.normal, owned, first, last⟩ ⟨pending, inTime⟩ proposer digest

end Sys2Proof.Machine
end

section
/-! What each command leaves alone: it completes from every state, and changes the groups that `touches` lists only. -/

namespace Sys2Proof.Machine

/-- What `R` says of a chain of operations, it says of the chain that `f` ends. -/
structure Carries (R : State → State → Prop) (f : State → State) : Prop where
  carries : ∀ {s0} s, R s0 s → R s0 (f s)

namespace Carries

variable {R : State → State → Prop} {f g : State → State}

theorem refl : Carries R fun s => s := ⟨fun _ h => h⟩

theorem of_ite {p : State → Prop} [DecidablePred p] (hf : Carries R f) (hg : Carries R g) :
    Carries R fun s => if p s then f s else g s := by
  constructor
  intro s0 s h
  split
  · exact hf.carries s h
  · exact hg.carries s h

theorem of_when {c : Bool} (hf : Carries R f) : Carries R (when c f) := by
  constructor
  intro s0 s h
  unfold when
  split
  · exact hf.carries s h
  · exact h

/-- An operation that ends in another one. -/
theorem of_next {F : (State → State) → State → State}
    (k : ∀ {s0} body s, R s0 s → (∀ t, R s0 t → R s0 (body t)) → R s0 (F body s)) (hf : Carries R f) :
    Carries R (F f) :=
  ⟨fun s h => k f s h fun t => hf.carries t⟩

/-- An operation that ends in another one, which it gives what it has found. -/
theorem of_cont {α : Type} {F : (α → State → State) → State → State} {body : α → State → State}
    (k : ∀ {s0} body s, R s0 s → (∀ a t, R s0 t → R s0 (body a t)) → R s0 (F body s)) (hb : ∀ a, Carries R (body a)) :
    Carries R (F body) :=
  ⟨fun s h => k body s h fun a t => (hb a).carries t⟩

end Carries

/-! ### The groups of state that a command changes -/

/-- The operation changes the groups `ps` only. -/
abbrev Within (ps : List Part) (f : State → State) : Prop := Carries (Only ps) f

/-- From `s` the command performs an operation that changes the command's own groups only. -/
abbrev OwnGroups (c : Instr) (s : State) : Prop := ∃ f, exec c s = act f s ∧ Within (touches c) f

namespace Carries

variable {ps : List Part} {f : State → State}

theorem of_only {qs : List Part} (k : ∀ {s0} s, Only ps s0 s → qs ⊆ ps → Only ps s0 (f s))
    (hq : qs ⊆ ps := by exact of_decide_eq_true rfl) : Within ps f := ⟨fun s h => k s h hq⟩

theorem of_scp {op : Nat} {form : Form} {fault : Posted → Option Nat} {body : Posted → State → State}
    (hb : ∀ a, Within ps (body a)) (hp : [.mbx, .emit] ⊆ ps := by exact of_decide_eq_true rfl) :
    Within ps (scp op form fault body) :=
  ⟨fun s h => scp_only op form fault body s h (fun a t => (hb a).carries t) hp⟩

theorem of_descRead {r : Posted} {dma : Dma} {body : List Byte → State → State}
    (hb : ∀ a, Within ps (body a)) (hp : [.mbx, .inst, .prot, .ecc, .emit] ⊆ ps := by exact of_decide_eq_true rfl) :
    Within ps (descRead r dma body) :=
  ⟨fun s h => descRead_only r dma body s h (fun a t => (hb a).carries t) hp⟩

theorem of_eccRow {sub : Nat} {body : Posted → State → State}
    (hb : ∀ a, Within ps (body a)) (hp : [.mbx, .emit] ⊆ ps := by exact of_decide_eq_true rfl) :
    Within ps (eccRow sub body) :=
  ⟨fun s h => eccRow_only sub body s h (fun a t => (hb a).carries t) hp⟩

theorem of_admin {opc : Nat} {who : Access} {body : Item → State → State} {id : CmdId}
    (hb : ∀ a, Within ps (body a)) (hp : [.frame, .host, .inst, .recd, .emit] ⊆ ps := by exact of_decide_eq_true rfl) :
    Within ps (admin opc who body id) :=
  ⟨fun s h => admin_only opc who body id s h (fun a t => (hb a).carries t) hp⟩

theorem of_setFeature {fid : Nat} {mgr : Bool} {body : Item → State → State} {id : CmdId}
    (hb : ∀ a, Within ps (body a)) (hp : [.frame, .host, .inst, .recd, .emit] ⊆ ps := by exact of_decide_eq_true rfl) :
    Within ps (setFeature fid mgr body id) :=
  ⟨fun s h => setFeature_only fid mgr body id s h (fun a t => (hb a).carries t) hp⟩

theorem of_ownerWakes (hf : Within ps f) (hp : [.power, .emit] ⊆ ps := by exact of_decide_eq_true rfl) :
    Within ps (ownerWakes f) :=
  ⟨fun s h => ownerWakes_only f s h (fun t => hf.carries t) hp⟩

theorem of_ownerQuiet {l : Sideband} (hf : Within ps f) (hp : [.emit] ⊆ ps := by exact of_decide_eq_true rfl) :
    Within ps (ownerQuiet l f) :=
  ⟨fun s h => ownerQuiet_only l f s h (fun t => hf.carries t) hp⟩

theorem of_ownerRow {l : Sideband} (hf : Within ps f) (hp : [.power, .emit] ⊆ ps := by exact of_decide_eq_true rfl) :
    Within ps (ownerRow l f) :=
  ⟨fun s h => ownerRow_only l f s h (fun t => hf.carries t) hp⟩

theorem of_ownerClaimRow {l : Sideband} (hf : Within ps f) (hp : [.emit] ⊆ ps := by exact of_decide_eq_true rfl) :
    Within ps (ownerClaimRow l f) :=
  ⟨fun s h => ownerClaimRow_only l f s h (fun t => hf.carries t) hp⟩

end Carries

/-! ### Commands with a body of their own -/

section
variable {ps : List Part}

theorem answer_read4_within (p : Pf) (off : Nat) (hp : [.frame, .mbx, .prot, .power, .emit] ⊆ ps := by exact of_decide_eq_true rfl) :
    Within ps fun s => answer (read4 p off s) :=
  ⟨fun s h => answer_only _ (read4_only p off h hp) fun _ m => hp (by simp_all)⟩

theorem answer_windowRead_within (p : Pf) (off size : Nat)
    (hp : [.frame, .mbx, .prot, .power, .emit] ⊆ ps := by exact of_decide_eq_true rfl) :
    Within ps fun s => answer (windowRead p off size s) :=
  ⟨fun s h => answer_only _ (windowRead_only p off size h hp) fun _ m => hp (by simp_all)⟩

end

theorem planInputCutoff_ownGroups (s : State) : OwnGroups .planInputCutoff s :=
  ⟨_, rfl, ⟨fun _ h => only_flash _ (only_frame _ h (by decide)) (by decide)⟩⟩

theorem eccExit_within (r : Posted) : Within [.mbx, .ecc, .emit] fun s => eccReply r 0 0 0 (eccExit s) :=
  ⟨fun s h => eccReply_only _ _ _ _ _ (eccExit_only s h (by decide)) (by decide)⟩

theorem trngFails_within : Within [.prot, .recd, .emit] fun s => recEvent 0x17 (setTrng false s) :=
  ⟨fun s h => recEvent_only _ _ (setTrng_only _ s h (by decide)) (by decide)⟩

theorem flushEnd_ownGroups (s : State) : OwnGroups .powerLossFlushEnd s :=
  ⟨_, rfl, ⟨fun _ h => flushEnd_only _ _ (only_free _ h (by decide)) (by decide)⟩⟩

theorem calWrite_ownGroups (dma : Dma) (s : State) : OwnGroups (.calWrite dma) s :=
  ⟨_, rfl, .of_scp fun r => .of_ite (.of_only (replyRefused_only _ _)) <| .of_descRead fun b =>
    match calFault b with
    | some _ => .of_only (replyInvalid_only _ _)
    | none => ⟨fun s h => replyOk_only r [] _ (calWrite_only b s h (of_decide_eq_true rfl)) (of_decide_eq_true rfl)⟩⟩

theorem protPropose_ownGroups (via : Via) (s : State) : OwnGroups (.protPropose via) s :=
  match via with
  | .scp _ => ⟨_, rfl, .of_scp fun _ => .of_descRead fun _ => .of_only (propose_only _ _ _ _)⟩
  | .owner _ _ => ⟨_, rfl, .of_ownerRow <| .of_ite .refl <| .of_ite (.of_only (askInvalid_only _ _)) <|
      .of_only (propose_only _ _ _ _)⟩

theorem protConfirm_ownGroups (via : Via) (s : State) : OwnGroups (.protConfirm via) s :=
  match via with
  | .scp _ => ⟨_, rfl, .of_scp fun _ => .of_only (confirm_only _ _ _ _)⟩
  | .owner _ _ => ⟨_, rfl, .of_ownerRow <| .of_ite (.of_only (askInvalid_only _ _)) <|
      .of_ite (.of_only (askInvalid_only _ _)) <| .of_only (confirm_only _ _ _ _)⟩

theorem protWithdraw_ownGroups (via : Via) (s : State) : OwnGroups (.protWithdraw via) s :=
  match via with
  | .scp _ => ⟨_, rfl, .of_scp fun _ => .of_only (withdraw_only _ _ _)⟩
  | .owner _ _ => ⟨_, rfl, .of_ownerRow <| .of_ite (.of_only (askInvalid_only _ _)) <|
      .of_ite (.of_only (askInvalid_only _ _)) <| .of_only (withdraw_only _ _ _)⟩

theorem protQuery_ownGroups (via : Via) (s : State) : OwnGroups (.protQuery via) s := by
  have expired : ∀ cls, Within (touches (.protQuery via)) (expireProposal cls) := fun cls =>
    .of_only (expireProposal_only cls)
  cases via with
  | scp dma =>
    exact ⟨_, rfl, .of_scp fun r => ⟨fun t h => descWrite_only _ _ _ _ _ ((expired _).carries t h) (fun _ h =>
      replyOk_only r [] _ h (of_decide_eq_true rfl)) (of_decide_eq_true rfl)⟩⟩
  | owner l b =>
    have answered : Within (touches (.protQuery (.owner l b))) fun t =>
        if t.fw.cellar then askRefused .owner 0x0001 t
        else if b.length ≠ 4 ∨ !queryOk (fieldAt b 0 4) then askInvalid .owner 1 t
        else send (.owner 0x00 (queryBlock t (bits (fieldAt b 0 4) 7 0) (bits (fieldAt b 0 4) 19 8))) t :=
      .of_ite (.of_only (askRefused_only _ _)) <| .of_ite (.of_only (askInvalid_only _ _)) <|
        .of_only fun t => send_only _ t
    exact ⟨_, rfl, .of_ownerQuiet ⟨fun t h => answered.carries _ ((expired _).carries t h)⟩⟩

theorem fwStage_ownGroups (via : Via) (checks : ImageChecks) (s : State) : OwnGroups (.fwStage via checks) s :=
  match via with
  | .scp _ => ⟨_, rfl, .of_scp fun _ => .of_only (fwStageScp_only _ _ _)⟩
  | .owner _ _ => ⟨_, rfl, .of_ownerRow (.of_only (fwStageOwner_only _ _))⟩

theorem fwStatus_ownGroups (via : Via) (s : State) : OwnGroups (.fwStatus via) s :=
  match via with
  | .scp _ => ⟨_, rfl, .of_scp fun _ => .of_only fun s => replyOk_only _ _ s⟩
  | .owner _ _ => ⟨_, rfl, .of_ownerQuiet <| .of_ite (.of_only (askInvalid_only _ _)) <|
      .of_only fun s => askOk_only _ _ s⟩

/-! ### Every command -/

/-- Whatever the command, its operation changes the groups that `touches` lists only. -/
theorem ownGroups (c : Instr) (s : State) : OwnGroups c s := by
  cases c with
  | framePulse _ => exact ⟨_, rfl, .of_only (framePulse_only _)⟩
  | psExit _ => exact ⟨_, rfl, .of_only (psExit_only _)⟩
  | coldStart _ => exact ⟨_, rfl, .of_only (coldStart_only _)⟩
  | minuteBoundary => exact ⟨_, rfl, .of_when (.of_only (minuteEnd_only _))⟩
  | recordPeriodBoundary => exact ⟨_, rfl, .of_when (.of_only (periodEnd_only _ _))⟩
  | planInputCutoff => exact planInputCutoff_ownGroups s
  | planCommit _ => exact ⟨_, rfl, .of_only (planCommit_only _)⟩
  | laneReset _ => exact ⟨_, rfl, .of_only (laneReset_only _)⟩
  | corridorLinkUp _ _ => exact ⟨_, rfl, .of_only (linkUp_only _ _)⟩
  | corridorLinkDown _ => exact ⟨_, rfl, .of_only (linkDown_only _)⟩
  | holdoverReport => exact ⟨_, rfl, .of_only holdover_only⟩
  | lockQualified => exact ⟨_, rfl, .of_only lockQualify_only⟩
  | syncInPulse => exact ⟨_, rfl, .of_only syncPulse_only⟩
  | syncInMissing => exact ⟨_, rfl, .of_only syncTimeout_only⟩
  | frameCountLoRead _ => exact ⟨_, rfl, answer_read4_within _ _⟩
  | frameCount64Read _ => exact ⟨_, rfl, answer_windowRead_within _ _ _⟩
  | mbxOutDataWrite _ _ => exact ⟨_, rfl, .of_only (write4_only _ _ _)⟩
  | mbxInDataRead _ => exact ⟨_, rfl, answer_read4_within _ _⟩
  | mbxCtlReset _ => exact ⟨_, (rfl : execMbxCtlReset _ s = act _ s), .of_only fun s => write4_only _ _ _ s⟩
  | spillConsWrite _ _ => exact ⟨_, (rfl : execSpillConsWrite _ _ s = act _ s), .of_only fun s => write4_only _ _ _ s⟩
  | registerWrite _ _ _ _ => exact ⟨_, rfl, .of_only (windowWrite_only _ _ _ _)⟩
  | latchRead _ _ => exact ⟨_, rfl, .of_only (latchReadBy_only _ _)⟩
  | latchWrite _ _ _ => exact ⟨_, rfl, .of_only (latchWriteBy_only _ _ _)⟩
  | latchInspectRead _ _ _ _ =>
    exact ⟨_, (rfl : execLatchInspectRead _ _ _ _ s = act _ s), .of_ite (answer_windowRead_within _ _ _) .refl⟩
  | noticeDataRead _ _ => exact ⟨_, (rfl : execNoticeDataRead _ _ s = act _ s), .of_ite (answer_read4_within _ _) .refl⟩
  | notice64Read _ _ =>
    exact ⟨_, (rfl : execNotice64Read _ _ s = act _ s), .of_ite (answer_windowRead_within _ _ _) .refl⟩
  | noticeBoardUpdate _ => exact ⟨_, rfl, .of_only (noticeUpdate_only _)⟩
  | echo | statusGet | pwrCounters | thermQuery =>
    exact ⟨_, rfl, .of_scp fun _ => .of_only fun s => replyOk_only _ _ s⟩
  | instCreate _ => exact ⟨_, rfl, .of_scp fun _ => .of_descRead fun _ => .of_only (instCreate_only _ _)⟩
  | instCreateDone _ => exact ⟨_, rfl, .of_only (createDone_only _)⟩
  | instDestroy => exact ⟨_, rfl, .of_scp fun _ => .of_only (instDestroy_only _)⟩
  | instDestroyDone _ => exact ⟨_, rfl, .of_only (destroyDone_only _)⟩
  | instReset => exact ⟨_, rfl, .of_scp fun _ => .of_only (instReset_only _)⟩
  | instanceResetEffect _ => exact ⟨_, rfl, .of_only (resetEffect_only _)⟩
  | instResetEnd _ => exact ⟨_, rfl, .of_only (resetEnd_only _)⟩
  | instShareSet => exact ⟨_, rfl, .of_scp fun _ => .of_only (shareSet_only _)⟩
  | instQuery => exact ⟨_, rfl, .of_scp fun _ => .of_only (instQuery_only _)⟩
  | instSanitise => exact ⟨_, rfl, .of_scp fun _ => .of_only (instSanitise_only _)⟩
  | instSanitiseStart _ => exact ⟨_, rfl, .of_only (sanitiseStart_only _)⟩
  | instSanitiseDone _ => exact ⟨_, rfl, .of_only (sanitiseDone_only _)⟩
  | protPropose _ => exact protPropose_ownGroups _ s
  | protConfirm _ => exact protConfirm_ownGroups _ s
  | protWithdraw _ => exact protWithdraw_ownGroups _ s
  | protQuery _ => exact protQuery_ownGroups _ s
  | protProposalExpiry _ => exact ⟨_, rfl, .of_when (.of_only (expireProposal_only _))⟩
  | claimBegin _ => exact ⟨_, rfl, .of_ownerClaimRow (.of_only claimBegin_only)⟩
  | claimFinish _ _ _ _ => exact ⟨_, rfl, .of_ownerClaimRow (.of_ownerWakes (.of_only (claimFinish_only _ _ _)))⟩
  | claimNonceExpiry => exact ⟨_, rfl, .of_when (.of_only expireClaim_only)⟩
  | release _ => exact ⟨_, rfl, .of_ownerRow (.of_only releaseOwner_only)⟩
  | spdmSessionMessage _ => exact ⟨_, rfl, .of_only (spdmMessage_only _)⟩
  | fwStage _ _ => exact fwStage_ownGroups _ _ s
  | fwStageWritten => exact ⟨_, rfl, .of_when (.of_only stageWritten_only)⟩
  | fwSchedule _ => exact ⟨_, rfl, .of_scp fun _ => .of_only (fwSchedule_only _ _)⟩
  | fwPrepareDone => exact ⟨_, rfl, .of_when (.of_only prepareDone_only)⟩
  | fwCancel => exact ⟨_, rfl, .of_scp fun _ => .of_only (fwCancel_only _)⟩
  | fwStatus _ => exact fwStatus_ownGroups _ s
  | handoverRecordWritten => exact ⟨_, rfl, .of_when (.of_only handoverWritten_only)⟩
  | engineMicrocodeSwitch => exact ⟨_, rfl, .of_when (.of_only microcodeSwitch_only)⟩
  | handoverReady => exact ⟨_, rfl, .of_when (.of_only handoverReady_only)⟩
  | activationHoldExpiry => exact ⟨_, rfl, .of_when (.of_only holdExpiry_only)⟩
  | svMinRaise => exact ⟨_, rfl, .of_when (.of_only svMinRaise_only)⟩
  | meterRingSet => exact ⟨_, rfl, .of_scp fun _ => .of_only (ringSet_only _)⟩
  | meterRead => exact ⟨_, rfl, .of_scp fun _ => .of_only (meterRead_only _)⟩
  | meterBatchWrite _ _ => exact ⟨_, rfl, .of_only (batchWrite_only _ _)⟩
  | meterRetry _ _ => exact ⟨_, rfl, .of_only (meterRetry_only _ _)⟩
  | recRead _ => exact ⟨_, rfl, .of_scp fun _ => .of_only (recRead_only _ _ _)⟩
  | calRead _ => exact ⟨_, rfl, .of_scp fun _ => .of_only (calRead_only _ _ _)⟩
  | calWrite _ => exact calWrite_ownGroups _ s
  | cfgRead _ => exact ⟨_, rfl, .of_scp fun _ => .of_only (cfgRead_only _ _ _)⟩
  | cfgCommit _ => exact ⟨_, rfl, .of_scp fun _ => .of_descRead fun _ => .of_only (cfgCommit_only _ _)⟩
  | placePolicySet => exact ⟨_, rfl, .of_scp fun _ => .of_only (placePolicySet_only _)⟩
  | placeQuery => exact ⟨_, rfl, .of_scp fun _ => .of_only (placeQuery_only _)⟩
  | eccTestEnter => exact ⟨_, rfl, .of_eccRow fun _ => .of_only (eccEnter_only _)⟩
  | eccTestWriteRaw => exact ⟨_, rfl, .of_eccRow fun _ => .of_only (eccWriteRaw_only _)⟩
  | eccTestReadRaw => exact ⟨_, rfl, .of_eccRow fun _ => .of_only (eccReadRaw_only _)⟩
  | eccTestRead => exact ⟨_, rfl, .of_eccRow fun _ => .of_only (eccRead_only _)⟩
  | eccTestWrite => exact ⟨_, rfl, .of_eccRow fun _ => .of_only (eccWrite_only _)⟩
  | eccTestEncode => exact ⟨_, rfl, .of_eccRow fun _ => .of_only (eccEncode_only _)⟩
  | eccTestExit => exact ⟨_, rfl, .of_eccRow eccExit_within⟩
  | cellarEnter _ => exact ⟨_, rfl, .of_ownerRow (.of_only cellarEnter_only)⟩
  | cellarExit _ _ => exact ⟨_, rfl, .of_ownerRow (.of_only (cellarExit_only _))⟩
  | cellarAutoExit _ => exact ⟨_, rfl, .of_only (cellarAutoExit_only _)⟩
  | corridorImageArrival _ _ => exact ⟨_, rfl, .of_only (imageArrival_only _ _)⟩
  | corridorForwardRetry _ => exact ⟨_, rfl, .of_only (forwardRetry_only _)⟩
  | corridorScheduleArrival _ _ => exact ⟨_, rfl, .of_only (scheduleArrival_only _ _)⟩
  | corridorCancelArrival => exact ⟨_, rfl, .of_only cancelArrival_only⟩
  | corridorOutcomeRelay _ _ _ => exact ⟨_, rfl, .of_only (outcomeRelay_only _ _ _)⟩
  | submissionDoorbellWrite _ _ _ => exact ⟨_, rfl, .of_only (tailDoorbell_only _ _ _)⟩
  | completionDoorbellWrite _ _ _ => exact ⟨_, rfl, .of_only (headDoorbell_only _ _ _)⟩
  | commandFetch _ _ _ => exact ⟨_, rfl, .of_only (fetch_only _ _ _)⟩
  | controllerReset _ => exact ⟨_, rfl, .of_when (.of_only (ctlResetOf_only _))⟩
  | controllerEnable _ _ _ => exact ⟨_, rfl, .of_only (ctlEnable_only _ _ _)⟩
  | functionLevelReset _ => exact ⟨_, rfl, .of_only (flr_only _)⟩
  | portLinkReset _ _ => exact ⟨_, rfl, .of_only (linkReset_only _ _)⟩
  | vfEnableChange _ _ _ => exact ⟨_, rfl, .of_when (.of_only (changePort_only _ _))⟩
  | deleteIoSubmissionQueue _ => exact ⟨_, rfl, .of_admin fun _ => .of_only (deleteSq_only _)⟩
  | createIoSubmissionQueue _ => exact ⟨_, rfl, .of_admin fun _ => .of_only (createSq_only _)⟩
  | deleteIoCompletionQueue _ => exact ⟨_, rfl, .of_admin fun _ => .of_only (deleteCq_only _)⟩
  | createIoCompletionQueue _ => exact ⟨_, rfl, .of_admin fun _ => .of_only (createCq_only _)⟩
  | getLogPage _ => exact ⟨_, rfl, .of_admin fun _ => .of_only (getLogPage_only _)⟩
  | identify _ => exact ⟨_, rfl, .of_admin fun _ => .of_only (identify_only _)⟩
  | abort _ => exact ⟨_, rfl, .of_admin fun _ => .of_only (abort_only _)⟩
  | setFeaturesArbitration _ => exact ⟨_, rfl, .of_setFeature fun _ => .of_only (setArbitration_only _)⟩
  | setFeaturesPowerManagement _ => exact ⟨_, rfl, .of_setFeature fun _ => .of_only (setPowerManagement_only _)⟩
  | setFeaturesTemperatureThreshold _ => exact ⟨_, rfl, .of_setFeature fun _ => .of_only (setTempThreshold_only _)⟩
  | setFeaturesErrorRecovery _ => exact ⟨_, rfl, .of_setFeature fun _ => .of_only (setErrorRecovery_only _)⟩
  | setFeaturesNumberOfQueues _ => exact ⟨_, rfl, .of_setFeature fun _ => .of_only (setNumberOfQueues_only _)⟩
  | setFeaturesInterruptCoalescing _ => exact ⟨_, rfl, .of_setFeature fun _ => .of_only (setCoalescing_only _)⟩
  | setFeaturesInterruptVectorConfig _ => exact ⟨_, rfl, .of_setFeature fun _ => .of_only (setVectorConfig_only _)⟩
  | setFeaturesWriteAtomicity _ => exact ⟨_, rfl, .of_setFeature fun _ => .of_only (setWriteAtomicity_only _)⟩
  | setFeaturesAsyncEventConfig _ => exact ⟨_, rfl, .of_setFeature fun _ => .of_only (setAsyncConfig_only _)⟩
  | setFeaturesApst _ _ => exact ⟨_, rfl, .of_setFeature fun _ => .of_only (setApst_only _ _)⟩
  | setFeaturesTimestamp _ _ => exact ⟨_, rfl, .of_setFeature fun _ => .of_only (setTimestamp_only _ _)⟩
  | setFeaturesLifetimeLimit _ => exact ⟨_, rfl, .of_setFeature fun _ => .of_only (setLifetime_only _)⟩
  | getFeatures _ => exact ⟨_, rfl, .of_admin fun _ => .of_only (getFeatures_only _)⟩
  | asynchronousEventRequest _ => exact ⟨_, rfl, .of_admin fun _ => .of_only (asyncRequest_only _)⟩
  | namespaceManagement _ _ => exact ⟨_, rfl, .of_admin fun _ => .of_only (nsManagement_only _ _)⟩
  | namespaceAttachment _ _ => exact ⟨_, rfl, .of_admin fun _ => .of_only (nsAttachment_only _ _)⟩
  | firmwareImageDownload _ _ _ => exact ⟨_, rfl, .of_admin fun _ => .of_only (imageDownload_only _ _)⟩
  | firmwareCommitReplace _ => exact ⟨_, rfl, .of_admin fun _ => .of_only (commitReplace_only _ _)⟩
  | firmwareCommitActivate _ _ => exact ⟨_, rfl, .of_admin fun _ => .of_only (commitActivate_only _ _)⟩
  | directiveSend _ => exact ⟨_, rfl, .of_admin fun _ => .of_only (directiveSend_only _)⟩
  | directiveReceive _ => exact ⟨_, rfl, .of_admin fun _ => .of_only (directiveReceive_only _)⟩
  | nvmeMiSend _ _ =>
    exact ⟨_, rfl, .of_admin fun _ => .of_ite (.of_only (finishBad_only _ _)) (.of_only (miTunnel_only _ _))⟩
  | nvmeMiReceive _ => exact ⟨_, rfl, .of_admin fun _ => .of_only (miTunnel_only _ _)⟩
  | formatNvm _ => exact ⟨_, rfl, .of_admin fun _ => .of_only (formatNvm_only _)⟩
  | formatDone _ => exact ⟨_, rfl, .of_only (formatDone_only _)⟩
  | sanitizeBlockErase _ | sanitizeCryptoErase _ =>
    exact ⟨_, rfl, .of_admin fun _ => .of_only (sanitize_only _ _ _)⟩
  | sanitizeExitFailureMode _ => exact ⟨_, rfl, .of_admin fun _ => .of_only (exitFailure_only _)⟩
  | sanitizeDone _ => exact ⟨_, rfl, .of_only (sanitizeDone_only _)⟩
  | securitySend _ => exact ⟨_, rfl, .of_admin fun _ => .of_only (securitySend_only _)⟩
  | securityReceive _ => exact ⟨_, rfl, .of_admin fun _ => .of_only (securityReceive_only _)⟩
  | unsupportedOpcode _ => exact ⟨_, rfl, .of_only (unsupported_only _)⟩
  | flush _ => exact ⟨_, rfl, .of_only (flushIo_only _)⟩
  | write _ | writeZeroes _ | zoneAppend _ => exact ⟨_, rfl, .of_only (writeRow_only _ _ _)⟩
  | read _ | verify _ => exact ⟨_, rfl, .of_only (readRow_only _ _)⟩
  | datasetManagement _ _ => exact ⟨_, rfl, .of_only (datasetManagement_only _ _)⟩
  | closeZone _ | finishZone _ | openZone _ | resetZone _ | offlineZone _ =>
    exact ⟨_, rfl, .of_only (zoneSend_only _ _)⟩
  | reportZones _ => exact ⟨_, rfl, .of_only (reportZones_only _)⟩
  | zoneWriteStart _ | conventionalWriteWaitEnd _ => exact ⟨_, rfl, .of_only (startRow_only _ _)⟩
  | ordBarrierRelease _ => exact ⟨_, rfl, .of_only (barrierRelease_only _)⟩
  | landingSpaceWaitEnd _ => exact ⟨_, rfl, .of_only fun s => startRow_only _ _ s⟩
  | unitLanded _ _ _ _ => exact ⟨_, rfl, .of_only (unitLanded_only _ _ _ _)⟩
  | writeCompletionPost _ => exact ⟨_, rfl, .of_only (writePost_only _)⟩
  | hostDmaFailure _ => exact ⟨_, rfl, .of_only (dmaFailure_only _)⟩
  | zoneDrainEnd _ => exact ⟨_, rfl, .of_only (drainEnd_only _)⟩
  | commandLifetimeExpiry _ => exact ⟨_, rfl, .of_only (lifetimeExpiry_only _)⟩
  | partialRowWaitExpiry _ _ | stripeRowDispatch _ _ => exact ⟨_, rfl, .of_only (dispatchRow_only _ _ _)⟩
  | suspendAcknowledged _ => exact ⟨_, rfl, .of_only (suspendAck_only _)⟩
  | dieStatusPoll _ _ => exact ⟨_, rfl, .of_only (statusPoll_only _ _)⟩
  | senseComplete _ => exact ⟨_, rfl, .of_only (senseComplete_only _)⟩
  | programComplete _ _ => exact ⟨_, rfl, .of_only (programComplete_only _ _)⟩
  | eraseComplete _ _ => exact ⟨_, rfl, .of_only (eraseComplete_only _ _)⟩
  | statusTimeout _ => exact ⟨_, rfl, .of_only (statusTimeout_only _)⟩
  | codewordDecode _ _ => exact ⟨_, rfl, .of_only (codewordDecode_only _ _)⟩
  | softDecodeComplete _ _ => exact ⟨_, rfl, .of_only (softDecode_only _ _)⟩
  | backStairReconstruct _ => exact ⟨_, rfl, .of_only (backStair_only _)⟩
  | readEgress _ _ => exact ⟨_, rfl, .of_only (readEgress_only _ _)⟩
  | journalRecordCommit _ => exact ⟨_, rfl, .of_only (commitHead_only _ _)⟩
  | homeLineWrite _ _ => exact ⟨_, rfl, .of_only (homeLineWrite_only _ _ _)⟩
  | checkpointSegmentWrite _ => exact ⟨_, rfl, .of_only (checkpointWrite_only _)⟩
  | relocationVictimStart _ => exact ⟨_, rfl, .of_only (relocationStart_only _)⟩
  | relocationCommit _ => exact ⟨_, rfl, .of_only (relocationCommit_only _)⟩
  | groupEraseIssue _ => exact ⟨_, rfl, .of_only (groupErase_only _)⟩
  | secureDiscardStep _ => exact ⟨_, rfl, .of_only (discardStep_only _)⟩
  | refreshAgeReached _ => exact ⟨_, rfl, .of_only (refreshAge_only _)⟩
  | patrolRead _ _ => exact ⟨_, rfl, .of_only (patrol_only _ _)⟩
  | trackerSave => exact ⟨_, rfl, .of_only trackerSave_only⟩
  | trackerWindowEnd => exact ⟨_, rfl, .of_only trackerWindowEnd_only⟩
  | probeRead _ => exact ⟨_, rfl, .of_only (probe_only _)⟩
  | channelRetrain _ _ => exact ⟨_, rfl, .of_only (channelRetrain_only _ _ _)⟩
  | dramPatrolScrub _ _ | sramPatrolScrub _ _ => exact ⟨_, rfl, .of_when (.of_only (scrub_only _ _))⟩
  | trngHealthFailure => exact ⟨_, rfl, .of_when trngFails_within⟩
  | zoneFinishRecommended _ => exact ⟨_, rfl, .of_only (finishRecommended_only _)⟩
  | zoneDeviceFinish _ => exact ⟨_, rfl, .of_only (deviceFinishDue_only _)⟩
  | controlCoreWatchdogExpiry _ => exact ⟨_, rfl, .of_only (coreExpiry_only _)⟩
  | controlCoreRestartDone _ => exact ⟨_, rfl, .of_only (coreRestart_only _)⟩
  | mgmtWatchdogExpiry => exact ⟨_, rfl, .of_only mgmtExpiry_only⟩
  | mgmtRestartDone => exact ⟨_, rfl, .of_only mgmtRestart_only⟩
  | apstIdleTimerExpiry => exact ⟨_, rfl, .of_only idleExpiry_only⟩
  | psEntryDrained => exact ⟨_, rfl, .of_only entryDrained_only⟩
  | psEntryAbort => exact ⟨_, rfl, .of_only entryAbort_only⟩
  | wakeEvent => exact ⟨_, rfl, .of_when (.of_only wake_only)⟩
  | holdupReading _ => exact ⟨_, rfl, .of_only (holdupReading_only _)⟩
  | pmbAlert _ => exact ⟨_, rfl, .of_only (pmbAlert_only _)⟩
  | pfNRecognised => exact ⟨_, rfl, .of_only pfRecognised_only⟩
  | powerLossFlushEnd => exact flushEnd_ownGroups s
  | flushRestart => exact ⟨_, rfl, .of_only flushRestart_only⟩
  | diodeSample _ _ _ => exact ⟨_, rfl, .of_only (diodeSample_only _ _ _)⟩
  | remoteSample _ _ _ => exact ⟨_, rfl, .of_only (remoteSample_only _ _ _)⟩
  | railMonitorSample _ _ => exact ⟨_, rfl, .of_only (railSample_only _ _)⟩
  | coolingRestart => exact ⟨_, rfl, .of_only coolingRestart_only⟩
  | alertResponseRead => exact ⟨_, rfl, .of_only alertResponse_only⟩
  | mctpMessage _ _ => exact ⟨_, rfl, .of_only (mctpMessage_only _ _)⟩
  | readNvmeMiDataStructure _ | nvmSubsystemHealthStatusPoll _ | controllerHealthStatusPoll _
  | configurationSet _ | configurationGet _ | recorderRead _ | thermalQuery _ =>
    exact ⟨_, rfl, .of_only (miRow_only _ _)⟩
  | controlPrimitivePause _ => exact ⟨_, rfl, .of_when (.of_only (miPause_only _))⟩
  | controlPrimitiveResume _ => exact ⟨_, rfl, .of_when (.of_only (miResume_only _))⟩
  | controlPrimitiveAbort _ => exact ⟨_, rfl, .of_when (.of_only (miAbort_only _))⟩
  | controlPrimitiveGetState _ => exact ⟨_, rfl, .of_when (.of_only (miGetState_only _))⟩
  | controlPrimitiveReplay _ => exact ⟨_, rfl, .of_when (.of_only (miReplay_only _))⟩
  | nvmeMiAdminCommand _ => exact ⟨_, rfl, .of_when (.of_only (miAdmin_only _))⟩
  | nvmeMiInvalidOpcode _ => exact ⟨_, rfl, .of_when (.of_only (miRequest_only _))⟩
  | basicManagementStatus | basicManagementVendorSerial | basicManagementFaultCode
  | basicManagementFireDoorStatus =>
    exact ⟨_, rfl, .of_when (.of_only (send_only _))⟩
  | recorderBufferWrite => exact ⟨_, rfl, .of_when (.of_only writeBuffer_only)⟩
  | powerOn => exact ⟨_, rfl, .of_only powerOn_only⟩
  | railPowerGood _ => exact ⟨_, rfl, .of_only (railGood_only _)⟩
  | bootWaitTimeout _ => exact ⟨_, rfl, .of_only (bootWaitTimeout_only _)⟩
  | bootRetry => exact ⟨_, rfl, .of_only bootRetry_only⟩
  | firmwareReadyTimeout _ => exact ⟨_, rfl, .of_only (readyTimeout_only _)⟩
  | gatedRead _ _ _ => exact ⟨_, rfl, .of_only (gatedReadOf_only _ _ _)⟩
  | pcieLinkUp _ => exact ⟨_, rfl, .of_when (.of_only (updPort_only _ _))⟩
  | aggregationTimeExpiry _ _ => exact ⟨_, rfl, .of_only (aggregationExpiry_only _ _)⟩
  | jtagInstruction _ _ => exact ⟨_, rfl, .of_only (jtagInstruction_only _ _)⟩
  | consoleInput _ => exact ⟨_, rfl, .of_only (consoleInput_only _)⟩
  | trngHealthTestPass => exact ⟨_, rfl, .of_only (setTrng_only _)⟩
  | powerRemoved => exact ⟨_, rfl, .of_only powerRemoved_only⟩
  | sidebandLinkReset _ => exact ⟨_, rfl, .of_only (endSession_only _)⟩

/-- An executed command changes the groups that `touches` lists only. -/
theorem exec_only {c : Instr} {s t : State} (he : exec c s = .next t) : Only (touches c) s t := by
  obtain ⟨f, hf, own⟩ := ownGroups c s
  cases hf.symm.trans he
  have cleared : Only (touches c) s { s with emit := [] } := (emptied_only s).mono (by cases c <;> exact of_decide_eq_true rfl)
  exact own.carries _ cleared

/-- Settles O5: every command is one operation, which changes the command's own groups only, and the queue is in none. -/
theorem commandsChangeTheirOwnGroupsOnly : Obligations.CommandsChangeTheirOwnGroupsOnly := by
  intro c s
  obtain ⟨f, hf, -⟩ := ownGroups c s
  have only := exec_only hf
  exact ⟨_, hf, only, only.same .pending (by cases c <;> exact of_decide_eq_true rfl)⟩

end Sys2Proof.Machine
end

section
/-! R64, R69, R81: whatever the command, the mailbox stays within its bounds. A command that has the mailbox among its
own groups is shown to keep them; every other one leaves the mailbox as it is. -/

namespace Sys2Proof.Machine

/-- From `s` the command performs an operation that keeps the mailbox within its bounds. -/
abbrev KeepsMailbox (c : Instr) (s : State) : Prop := ∃ f, exec c s = act f s ∧ Carries KeepsMbx f

/-! ### Commands with a body of their own -/

theorem answer_read4_mbx (p : Pf) (off : Nat) : Carries KeepsMbx fun s => answer (read4 p off s) :=
  ⟨fun _ h => keepsMbx_of (answer_only _ (only_refl _ _) (by decide)) (read4_mbx p off h)⟩

theorem answer_windowRead_mbx (p : Pf) (off size : Nat) : Carries KeepsMbx fun s => answer (windowRead p off size s) :=
  ⟨fun _ h => keepsMbx_of (answer_only _ (only_refl _ _) (by decide)) (windowRead_mbx p off size h)⟩

theorem eccExit_mbx (r : Posted) : Carries KeepsMbx fun s => eccReply r 0 0 0 (eccExit s) :=
  ⟨fun s h => eccReply_mbx _ _ _ _ _ (keepsMbx_of (eccExit_only s (only_refl _ _) (by decide)) h)⟩

theorem flushEnd_keepsMailbox (s : State) : KeepsMailbox .powerLossFlushEnd s :=
  ⟨_, rfl, ⟨fun _ h => flushEnd_mbx _ _ (keepsMbx_free _ h)⟩⟩

theorem calWrite_keepsMailbox (dma : Dma) (s : State) : KeepsMailbox (.calWrite dma) s :=
  ⟨_, rfl, .of_cont (scp_mbx _ _ _) fun r => .of_ite ⟨replyRefused_mbx _ _⟩ <| .of_cont (descRead_mbx _ _) fun b =>
    match calFault b with
    | some _ => ⟨replyInvalid_mbx _ _⟩
    | none => ⟨fun s h => replyOk_mbx r [] _ (keepsMbx_of (calWrite_only b s (only_refl _ _) (by decide)) h)⟩⟩

theorem protPropose_keepsMailbox (via : Via) (s : State) : KeepsMailbox (.protPropose via) s :=
  match via with
  | .scp _ => ⟨_, rfl, .of_cont (scp_mbx _ _ _) fun _ => .of_cont (descRead_mbx _ _) fun _ => ⟨propose_mbx _ _ _ _⟩⟩
  | .owner _ _ => ⟨_, rfl, .of_next (ownerRow_mbx _) <| .of_ite .refl <| .of_ite ⟨askInvalid_mbx _ _⟩
      ⟨propose_mbx _ _ _ _⟩⟩

theorem protConfirm_keepsMailbox (via : Via) (s : State) : KeepsMailbox (.protConfirm via) s :=
  match via with
  | .scp _ => ⟨_, rfl, .of_cont (scp_mbx _ _ _) fun _ => ⟨confirm_mbx _ _ _ _⟩⟩
  | .owner _ _ => ⟨_, rfl, .of_next (ownerRow_mbx _) <| .of_ite ⟨askInvalid_mbx _ _⟩ <|
      .of_ite ⟨askInvalid_mbx _ _⟩ ⟨confirm_mbx _ _ _ _⟩⟩

theorem protWithdraw_keepsMailbox (via : Via) (s : State) : KeepsMailbox (.protWithdraw via) s :=
  match via with
  | .scp _ => ⟨_, rfl, .of_cont (scp_mbx _ _ _) fun _ => ⟨withdraw_mbx _ _ _⟩⟩
  | .owner _ _ => ⟨_, rfl, .of_next (ownerRow_mbx _) <| .of_ite ⟨askInvalid_mbx _ _⟩ <|
      .of_ite ⟨askInvalid_mbx _ _⟩ ⟨withdraw_mbx _ _ _⟩⟩

theorem protQuery_keepsMailbox (via : Via) (s : State) : KeepsMailbox (.protQuery via) s := by
  have expired : ∀ {s0} cls t, KeepsMbx s0 t → KeepsMbx s0 (expireProposal cls t) := fun cls t h =>
    keepsMbx_of (expireProposal_only cls t (only_refl _ _) (by decide)) h
  cases via with
  | scp dma =>
    exact ⟨_, rfl, .of_cont (scp_mbx _ _ _) fun r =>
      ⟨fun t h => descWrite_mbx _ _ _ _ _ (expired _ t h) fun t => replyOk_mbx r [] t⟩⟩
  | owner l b =>
    have answered : Carries KeepsMbx fun t => if t.fw.cellar then askRefused .owner 0x0001 t
        else if b.length ≠ 4 ∨ !queryOk (fieldAt b 0 4) then askInvalid .owner 1 t
        else send (.owner 0x00 (queryBlock t (bits (fieldAt b 0 4) 7 0) (bits (fieldAt b 0 4) 19 8))) t :=
      .of_ite ⟨askRefused_mbx _ _⟩ <| .of_ite ⟨askInvalid_mbx _ _⟩
        ⟨fun t h => keepsMbx_of (send_only _ t (only_refl _ _) (by decide)) h⟩
    exact ⟨_, rfl, .of_next (ownerQuiet_mbx _) ⟨fun t h => answered.carries _ (expired _ t h)⟩⟩

theorem fwStage_keepsMailbox (via : Via) (checks : ImageChecks) (s : State) : KeepsMailbox (.fwStage via checks) s :=
  match via with
  | .scp _ => ⟨_, rfl, .of_cont (scp_mbx _ _ _) fun _ => ⟨fwStageScp_mbx _ _ _⟩⟩
  | .owner _ _ => ⟨_, rfl, .of_next (ownerRow_mbx _) ⟨fwStageOwner_mbx _ _⟩⟩

theorem fwStatus_keepsMailbox (via : Via) (s : State) : KeepsMailbox (.fwStatus via) s :=
  match via with
  | .scp _ => ⟨_, rfl, .of_cont (scp_mbx _ _ _) fun _ => ⟨fun s => replyOk_mbx _ _ s⟩⟩
  | .owner _ _ => ⟨_, rfl, .of_next (ownerQuiet_mbx _) <| .of_ite ⟨askInvalid_mbx _ _⟩ ⟨fun s => askOk_mbx _ _ s⟩⟩

/-! ### Every command -/

/-- A command that has the mailbox among its own groups keeps it within its bounds. -/
theorem keepsMailbox_of_touches {c : Instr} (h : .mbx ∈ touches c) (s : State) : KeepsMailbox c s := by
  cases c with
  | framePulse _ => exact ⟨_, rfl, ⟨framePulse_mbx _⟩⟩
  | psExit _ => exact ⟨_, rfl, ⟨psExit_mbx _⟩⟩
  | coldStart _ => exact ⟨_, rfl, ⟨coldStart_mbx _⟩⟩
  | minuteBoundary => exact ⟨_, rfl, .of_when (⟨minuteEnd_mbx _⟩)⟩
  | recordPeriodBoundary => exact ⟨_, rfl, .of_when (⟨periodEnd_mbx _ _⟩)⟩
  | frameCountLoRead _ => exact ⟨_, rfl, answer_read4_mbx _ _⟩
  | frameCount64Read _ => exact ⟨_, rfl, answer_windowRead_mbx _ _ _⟩
  | mbxOutDataWrite _ _ => exact ⟨_, rfl, ⟨write4_mbx _ _ _⟩⟩
  | mbxInDataRead _ => exact ⟨_, rfl, answer_read4_mbx _ _⟩
  | mbxCtlReset _ => exact ⟨_, (rfl : execMbxCtlReset _ s = act _ s), ⟨fun s => write4_mbx _ _ _ s⟩⟩
  | spillConsWrite _ _ => exact ⟨_, (rfl : execSpillConsWrite _ _ s = act _ s), ⟨fun s => write4_mbx _ _ _ s⟩⟩
  | registerWrite _ _ _ _ => exact ⟨_, rfl, ⟨windowWrite_mbx _ _ _ _⟩⟩
  | latchRead _ _ => exact ⟨_, rfl, ⟨latchReadBy_mbx _ _⟩⟩
  | latchWrite _ _ _ => exact ⟨_, rfl, ⟨latchWriteBy_mbx _ _ _⟩⟩
  | latchInspectRead _ _ _ _ =>
    exact ⟨_, (rfl : execLatchInspectRead _ _ _ _ s = act _ s), .of_ite (answer_windowRead_mbx _ _ _) .refl⟩
  | noticeDataRead _ _ => exact ⟨_, (rfl : execNoticeDataRead _ _ s = act _ s), .of_ite (answer_read4_mbx _ _) .refl⟩
  | notice64Read _ _ =>
    exact ⟨_, (rfl : execNotice64Read _ _ s = act _ s), .of_ite (answer_windowRead_mbx _ _ _) .refl⟩
  | noticeBoardUpdate _ => exact ⟨_, rfl, ⟨noticeUpdate_mbx _⟩⟩
  | echo | statusGet | pwrCounters | thermQuery =>
    exact ⟨_, rfl, .of_cont (scp_mbx _ _ _) fun _ => ⟨fun s => replyOk_mbx _ _ s⟩⟩
  | instCreate _ =>
    exact ⟨_, rfl, .of_cont (scp_mbx _ _ _) fun _ => .of_cont (descRead_mbx _ _) fun _ => ⟨instCreate_mbx _ _⟩⟩
  | instCreateDone _ => exact ⟨_, rfl, ⟨createDone_mbx _⟩⟩
  | instDestroy => exact ⟨_, rfl, .of_cont (scp_mbx _ _ _) fun _ => ⟨instDestroy_mbx _⟩⟩
  | instDestroyDone _ => exact ⟨_, rfl, ⟨destroyDone_mbx _⟩⟩
  | instReset => exact ⟨_, rfl, .of_cont (scp_mbx _ _ _) fun _ => ⟨instReset_mbx _⟩⟩
  | instResetEnd _ => exact ⟨_, rfl, ⟨resetEnd_mbx _⟩⟩
  | instShareSet => exact ⟨_, rfl, .of_cont (scp_mbx _ _ _) fun _ => ⟨shareSet_mbx _⟩⟩
  | instQuery => exact ⟨_, rfl, .of_cont (scp_mbx _ _ _) fun _ => ⟨instQuery_mbx _⟩⟩
  | instSanitise => exact ⟨_, rfl, .of_cont (scp_mbx _ _ _) fun _ => ⟨instSanitise_mbx _⟩⟩
  | instSanitiseDone _ => exact ⟨_, rfl, ⟨sanitiseDone_mbx _⟩⟩
  | protPropose _ => exact protPropose_keepsMailbox _ s
  | protConfirm _ => exact protConfirm_keepsMailbox _ s
  | protWithdraw _ => exact protWithdraw_keepsMailbox _ s
  | protQuery _ => exact protQuery_keepsMailbox _ s
  | claimBegin _ => exact ⟨_, rfl, .of_next (ownerClaimRow_mbx _) (⟨claimBegin_mbx⟩)⟩
  | claimFinish _ _ _ _ =>
    exact ⟨_, rfl, .of_next (ownerClaimRow_mbx _) (.of_next ownerWakes_mbx (⟨claimFinish_mbx _ _ _⟩))⟩
  | release _ => exact ⟨_, rfl, .of_next (ownerRow_mbx _) (⟨releaseOwner_mbx⟩)⟩
  | spdmSessionMessage _ => exact ⟨_, rfl, ⟨spdmMessage_mbx _⟩⟩
  | fwStage _ _ => exact fwStage_keepsMailbox _ _ s
  | fwStageWritten => exact ⟨_, rfl, .of_when (⟨stageWritten_mbx⟩)⟩
  | fwSchedule _ => exact ⟨_, rfl, .of_cont (scp_mbx _ _ _) fun _ => ⟨fwSchedule_mbx _ _⟩⟩
  | fwPrepareDone => exact ⟨_, rfl, .of_when (⟨prepareDone_mbx⟩)⟩
  | fwCancel => exact ⟨_, rfl, .of_cont (scp_mbx _ _ _) fun _ => ⟨fwCancel_mbx _⟩⟩
  | fwStatus _ => exact fwStatus_keepsMailbox _ s
  | activationHoldExpiry => exact ⟨_, rfl, .of_when (⟨holdExpiry_mbx⟩)⟩
  | meterRingSet => exact ⟨_, rfl, .of_cont (scp_mbx _ _ _) fun _ => ⟨ringSet_mbx _⟩⟩
  | meterRead => exact ⟨_, rfl, .of_cont (scp_mbx _ _ _) fun _ => ⟨meterRead_mbx _⟩⟩
  | meterBatchWrite _ _ => exact ⟨_, rfl, ⟨batchWrite_mbx _ _⟩⟩
  | meterRetry _ _ => exact ⟨_, rfl, ⟨meterRetry_mbx _ _⟩⟩
  | recRead _ => exact ⟨_, rfl, .of_cont (scp_mbx _ _ _) fun _ => ⟨recRead_mbx _ _ _⟩⟩
  | calRead _ => exact ⟨_, rfl, .of_cont (scp_mbx _ _ _) fun _ => ⟨calRead_mbx _ _ _⟩⟩
  | calWrite _ => exact calWrite_keepsMailbox _ s
  | cfgRead _ => exact ⟨_, rfl, .of_cont (scp_mbx _ _ _) fun _ => ⟨cfgRead_mbx _ _ _⟩⟩
  | cfgCommit _ =>
    exact ⟨_, rfl, .of_cont (scp_mbx _ _ _) fun _ => .of_cont (descRead_mbx _ _) fun _ => ⟨cfgCommit_mbx _ _⟩⟩
  | placePolicySet => exact ⟨_, rfl, .of_cont (scp_mbx _ _ _) fun _ => ⟨placePolicySet_mbx _⟩⟩
  | placeQuery => exact ⟨_, rfl, .of_cont (scp_mbx _ _ _) fun _ => ⟨placeQuery_mbx _⟩⟩
  | eccTestEnter => exact ⟨_, rfl, .of_cont (eccRow_mbx _) fun _ => ⟨eccEnter_mbx _⟩⟩
  | eccTestWriteRaw => exact ⟨_, rfl, .of_cont (eccRow_mbx _) fun _ => ⟨eccWriteRaw_mbx _⟩⟩
  | eccTestReadRaw => exact ⟨_, rfl, .of_cont (eccRow_mbx _) fun _ => ⟨eccReadRaw_mbx _⟩⟩
  | eccTestRead => exact ⟨_, rfl, .of_cont (eccRow_mbx _) fun _ => ⟨eccRead_mbx _⟩⟩
  | eccTestWrite => exact ⟨_, rfl, .of_cont (eccRow_mbx _) fun _ => ⟨eccWrite_mbx _⟩⟩
  | eccTestEncode => exact ⟨_, rfl, .of_cont (eccRow_mbx _) fun _ => ⟨eccEncode_mbx _⟩⟩
  | eccTestExit => exact ⟨_, rfl, .of_cont (eccRow_mbx _) eccExit_mbx⟩
  | cellarEnter _ => exact ⟨_, rfl, .of_next (ownerRow_mbx _) (⟨cellarEnter_mbx⟩)⟩
  | cellarExit _ _ => exact ⟨_, rfl, .of_next (ownerRow_mbx _) (⟨cellarExit_mbx _⟩)⟩
  | cellarAutoExit _ => exact ⟨_, rfl, ⟨cellarAutoExit_mbx _⟩⟩
  | corridorScheduleArrival _ _ => exact ⟨_, rfl, ⟨scheduleArrival_mbx _ _⟩⟩
  | corridorCancelArrival => exact ⟨_, rfl, ⟨cancelArrival_mbx⟩⟩
  | functionLevelReset _ => exact ⟨_, rfl, ⟨flr_mbx _⟩⟩
  | portLinkReset _ _ => exact ⟨_, rfl, ⟨linkReset_mbx _ _⟩⟩
  | firmwareCommitActivate _ _ => exact ⟨_, rfl, ⟨fun s h => admin_mbx _ _ _ _ s h fun it => commitActivate_mbx _ it⟩⟩
  | controlCoreRestartDone _ => exact ⟨_, rfl, ⟨coreRestart_mbx _⟩⟩
  | powerLossFlushEnd => exact flushEnd_keepsMailbox s
  | firmwareReadyTimeout _ => exact ⟨_, rfl, ⟨readyTimeout_mbx _⟩⟩
  | gatedRead _ _ _ => exact ⟨_, rfl, ⟨gatedReadOf_mbx _ _ _⟩⟩
  | _ => exact absurd h (of_decide_eq_true rfl)

/-- Whatever the command, the mailbox stays within its bounds. -/
theorem exec_keepsMbx {c : Instr} {s t : State} (he : exec c s = .next t) : KeepsMbx s t := by
  by_cases h : .mbx ∈ touches c
  · obtain ⟨f, hf, kept⟩ := keepsMailbox_of_touches h s
    cases hf.symm.trans he
    exact kept.carries _ (keepsMbx_emit [] (keepsMbx_refl s))
  · exact keepsMbx_mk ((exec_only he).same .mbx h) (keepsMbx_refl s)

/-- Settles O4: a step takes the front command off the queue, which is no part of the mailbox, and executes it. -/
theorem mailboxStaysWithinItsBounds : Obligations.MailboxStaysWithinItsBounds := by
  intro s t ok hs
  unfold step at hs
  split at hs
  case h_1 => cases hs; exact ok
  case h_2 c rest _ => exact (exec_keepsMbx hs).ok ok

end Sys2Proof.Machine
end

section
/-! R391: no step lowers SV_MIN, and a running image that has run its time raises it. -/

namespace Sys2Proof.Machine

/-- From `s` the command performs an operation that does not lower SV_MIN. -/
abbrev KeepsSvMin (c : Instr) (s : State) : Prop := ∃ f, exec c s = act f s ∧ Carries KeepsSv f

theorem calWrite_keepsSvMin (dma : Dma) (s : State) : KeepsSvMin (.calWrite dma) s :=
  ⟨_, rfl, .of_cont (scp_sv _ _ _) fun r =>
    .of_ite ⟨fun s h => keepsSv_of (replyRefused_only r _ s (only_refl _ _) (by decide)) h⟩ <|
    .of_cont (descRead_sv _ _) fun b =>
      match calFault b with
      | some _ => ⟨fun s h => keepsSv_of (replyInvalid_only r _ s (only_refl _ _) (by decide)) h⟩
      | none => ⟨fun s h => keepsSv_of (replyOk_only r [] _ (only_refl _ _) (by decide)) (calWrite_sv b s h)⟩⟩

theorem fwStage_keepsSvMin (via : Via) (checks : ImageChecks) (s : State) : KeepsSvMin (.fwStage via checks) s :=
  match via with
  | .scp _ => ⟨_, rfl, .of_cont (scp_sv _ _ _) fun _ => ⟨fwStageScp_sv _ _ _⟩⟩
  | .owner _ _ => ⟨_, rfl, .of_next (ownerRow_sv _) ⟨fwStageOwner_sv _ _⟩⟩

/-- A command that has the firmware state among its own groups does not lower SV_MIN. -/
theorem keepsSvMin_of_touches {c : Instr} (h : .fw ∈ touches c) (s : State) : KeepsSvMin c s := by
  cases c with
  | framePulse _ => exact ⟨_, rfl, ⟨framePulse_sv _⟩⟩
  | coldStart _ => exact ⟨_, rfl, ⟨coldStart_sv _⟩⟩
  | fwStage _ _ => exact fwStage_keepsSvMin _ _ s
  | fwStageWritten => exact ⟨_, rfl, .of_when (⟨stageWritten_sv⟩)⟩
  | fwSchedule _ => exact ⟨_, rfl, .of_cont (scp_sv _ _ _) fun _ => ⟨fwSchedule_sv _ _⟩⟩
  | fwPrepareDone => exact ⟨_, rfl, .of_when (⟨prepareDone_sv⟩)⟩
  | fwCancel => exact ⟨_, rfl, .of_cont (scp_sv _ _ _) fun _ => ⟨fwCancel_sv _⟩⟩
  | handoverRecordWritten => exact ⟨_, rfl, .of_when (⟨handoverWritten_sv⟩)⟩
  | engineMicrocodeSwitch => exact ⟨_, rfl, .of_when (⟨microcodeSwitch_sv⟩)⟩
  | handoverReady => exact ⟨_, rfl, .of_when (⟨handoverReady_sv⟩)⟩
  | activationHoldExpiry => exact ⟨_, rfl, .of_when (⟨holdExpiry_sv⟩)⟩
  | svMinRaise => exact ⟨_, rfl, .of_when (⟨svMinRaise_sv⟩)⟩
  | recRead _ => exact ⟨_, rfl, .of_cont (scp_sv _ _ _) fun _ => ⟨recRead_sv _ _ _⟩⟩
  | calRead _ => exact ⟨_, rfl, .of_cont (scp_sv _ _ _) fun _ => ⟨calRead_sv _ _ _⟩⟩
  | calWrite _ => exact calWrite_keepsSvMin _ s
  | cfgRead _ => exact ⟨_, rfl, .of_cont (scp_sv _ _ _) fun _ => ⟨cfgRead_sv _ _ _⟩⟩
  | cfgCommit _ =>
    exact ⟨_, rfl, .of_cont (scp_sv _ _ _) fun _ => .of_cont (descRead_sv _ _) fun _ => ⟨cfgCommit_sv _ _⟩⟩
  | cellarEnter _ => exact ⟨_, rfl, .of_next (ownerRow_sv _) (⟨cellarEnter_sv⟩)⟩
  | cellarExit _ _ => exact ⟨_, rfl, .of_next (ownerRow_sv _) (⟨cellarExit_sv _⟩)⟩
  | cellarAutoExit _ => exact ⟨_, rfl, ⟨cellarAutoExit_sv _⟩⟩
  | corridorImageArrival _ _ => exact ⟨_, rfl, ⟨imageArrival_sv _ _⟩⟩
  | corridorForwardRetry _ => exact ⟨_, rfl, ⟨forwardRetry_sv _⟩⟩
  | corridorScheduleArrival _ _ => exact ⟨_, rfl, ⟨scheduleArrival_sv _ _⟩⟩
  | corridorCancelArrival => exact ⟨_, rfl, ⟨cancelArrival_sv⟩⟩
  | corridorOutcomeRelay _ _ _ => exact ⟨_, rfl, ⟨outcomeRelay_sv _ _ _⟩⟩
  | firmwareImageDownload _ _ _ => exact ⟨_, rfl, ⟨fun s h => admin_sv _ _ _ _ s h fun it => imageDownload_sv _ it⟩⟩
  | firmwareCommitReplace _ => exact ⟨_, rfl, ⟨fun s h => admin_sv _ _ _ _ s h fun it => commitReplace_sv _ it⟩⟩
  | firmwareCommitActivate _ _ => exact ⟨_, rfl, ⟨fun s h => admin_sv _ _ _ _ s h fun it => commitActivate_sv _ it⟩⟩
  | homeLineWrite _ _ => exact ⟨_, rfl, ⟨homeLineWrite_sv _ _ _⟩⟩
  | railPowerGood _ => exact ⟨_, rfl, ⟨railGood_sv _⟩⟩
  | firmwareReadyTimeout _ => exact ⟨_, rfl, ⟨readyTimeout_sv _⟩⟩
  | _ => exact absurd h (of_decide_eq_true rfl)

theorem exec_keepsSv {c : Instr} {s t : State} (he : exec c s = .next t) : KeepsSv s t := by
  by_cases h : .fw ∈ touches c
  · obtain ⟨f, hf, kept⟩ := keepsSvMin_of_touches h s
    cases hf.symm.trans he
    exact kept.carries _ (keepsSv_emit [] (keepsSv_refl s))
  · exact keepsSv_mk ((exec_only he).same .fw h) (keepsSv_refl s)

theorem step_keepsSv {s t : State} (hs : step s = .next t) : KeepsSv s t := by
  unfold step at hs
  split at hs
  case h_1 => cases hs; exact keepsSv_refl s
  case h_2 c rest _ => exact ⟨(exec_keepsSv hs).le⟩

/-! ### The rise of SV_MIN -/

/-- Slot `n` holds an image that a rise of SV_MIN rolls back: a valid one below it, not the running one. -/
structure Outdated (s : State) (n : Nat) (j : Image) : Prop where
  image : (slotAt s n).image = some j
  below : j.secVer < s.fw.svMin
  idle : n ≠ s.fw.running
  valid : (slotAt s n).st = .valid

theorem slotAt_updSlotAt_self (n : Nat) (f : FwSlot → FwSlot) (s : State) :
    slotAt (updSlotAt n f s) n = f (slotAt s n) := by
  by_cases h : n = 1 <;> simp [slotAt, updSlotAt, h]

theorem slotAt_updSlotAt_one (f : FwSlot → FwSlot) (s : State) : slotAt (updSlotAt 1 f s) 2 = slotAt s 2 := rfl

theorem slotAt_updSlotAt_two (f : FwSlot → FwSlot) (s : State) : slotAt (updSlotAt 2 f s) 1 = slotAt s 1 := rfl

/-- Rolling a slot back leaves SV_MIN and the running slot alone. -/
theorem rollBack_rest (n : Nat) (s : State) :
    (rollBack n s).fw.svMin = s.fw.svMin ∧ (rollBack n s).fw.running = s.fw.running := by
  have upd : ∀ f, (updSlotAt n f s).fw.svMin = s.fw.svMin ∧ (updSlotAt n f s).fw.running = s.fw.running := by
    intro f
    by_cases h : n = 1 <;> simp [updSlotAt, h]
  unfold rollBack
  split
  · split
    · exact upd _
    · exact ⟨rfl, rfl⟩
  · exact ⟨rfl, rfl⟩

theorem rollBack_one_slot2 (s : State) : slotAt (rollBack 1 s) 2 = slotAt s 2 := by
  unfold rollBack
  split
  · split
    · exact slotAt_updSlotAt_one _ s
    · rfl
  · rfl

theorem rollBack_two_slot1 (s : State) : slotAt (rollBack 2 s) 1 = slotAt s 1 := by
  unfold rollBack
  split
  · split
    · exact slotAt_updSlotAt_two _ s
    · rfl
  · rfl

theorem rollBack_outdated {s : State} {n : Nat} {j : Image} (o : Outdated s n j) :
    (slotAt (rollBack n s) n).st = .rolledBack := by
  simp only [rollBack, o.image, o.below, o.idle, o.valid, ne_eq, not_false_eq_true, and_self, if_true,
    slotAt_updSlotAt_self]

/-- Both slots are rolled back where they are outdated. -/
theorem rollBacks_outdated {s : State} {n : Nat} {j : Image} (hn : n = 1 ∨ n = 2) (o : Outdated s n j) :
    (slotAt (rollBack 2 (rollBack 1 s)) n).st = .rolledBack := by
  rcases hn with rfl | rfl
  · rw [rollBack_two_slot1]
    exact rollBack_outdated o
  · obtain ⟨svMin, running⟩ := rollBack_rest 1 s
    have slot := rollBack_one_slot2 s
    exact rollBack_outdated (j := j) ⟨slot ▸ o.image, svMin ▸ o.below, running ▸ o.idle, slot ▸ o.valid⟩

/-- The running image has run its time above SV_MIN. -/
theorem svMinRaise_due {s : State} {i : Image} (hi : s.fw.image = some i) (ht : s.fw.began + 1800000000 ≤ s.frame.elapsed)
    (hv : s.fw.svMin < i.secVer) :
    svMinRaise s = rollBack 2 (rollBack 1 (updFw (fun w => { w with svMin := i.secVer }) s)) := by
  have due : ¬(clk s < s.fw.began + 1800000000 ∨ i.secVer ≤ s.fw.svMin) := by
    unfold clk
    omega
  simp only [svMinRaise, hi, due, if_false]

/-- Settles O7: no command lowers SV_MIN; the rise sets it first and then rolls back what it has outdated. -/
theorem svMinOnlyRises : Obligations.SvMinOnlyRises := by
  refine ⟨rfl, fun s t hs => (step_keepsSv hs).le, ?rise⟩
  intro s i runs image ran above
  have raised : when (hallRuns s) svMinRaise { s with emit := [] } =
      rollBack 2 (rollBack 1 (updFw (fun w => { w with svMin := i.secVer }) { s with emit := [] })) := by
    rw [runs]
    exact svMinRaise_due image ran above
  refine act_does rfl ⟨?svMin, ?slots, ?only⟩
  case svMin => rw [raised, (rollBack_rest 2 _).1, (rollBack_rest 1 _).1]; rfl
  case slots =>
    intro n j hn hj idle valid below
    rw [raised]
    exact rollBacks_outdated hn ⟨hj, below, idle, valid⟩
  case only =>
    exact only_when _ _ ((emptied_only s).mono (by decide)) fun t h => svMinRaise_only t h (by decide)

end Sys2Proof.Machine
end

section
/-! R310: the DEC-TED code is linear, and a stored word with up to two errors is decoded, whatever the data columns. -/

namespace Sys2Proof.Machine

/-! ### The code is linear -/

/-- Check bits of the data bits that a list names, added to `c`. -/
def checkFrom (l : List Nat) (c : BitVec 16) (d : Quad) : BitVec 16 :=
  l.foldl (fun c i => if d.getLsbD i then c ^^^ column i else c) c

theorem checkOf_eq (d : Quad) : checkOf d = checkFrom (List.range 64) 0 d := rfl

theorem checkFrom_xor (l : List Nat) (c e : BitVec 16) (a b : Quad) :
    checkFrom l (c ^^^ e) (a ^^^ b) = checkFrom l c a ^^^ checkFrom l e b := by
  induction l generalizing c e with
  | nil => rfl
  | cons i l ih =>
    have first : (if (a ^^^ b).getLsbD i then c ^^^ e ^^^ column i else c ^^^ e) =
        (if a.getLsbD i then c ^^^ column i else c) ^^^ (if b.getLsbD i then e ^^^ column i else e) := by
      rw [BitVec.getLsbD_xor]
      generalize column i = k
      cases a.getLsbD i <;> cases b.getLsbD i <;> simp [BitVec.xor_assoc, BitVec.xor_comm e, ← BitVec.xor_assoc k]
    simp only [checkFrom, List.foldl_cons, first]
    exact ih _ _

theorem checkOf_xor (a b : Quad) : checkOf (a ^^^ b) = checkOf a ^^^ checkOf b := by
  simpa [checkOf_eq] using checkFrom_xor (List.range 64) 0 0 a b

theorem checkOf_zero : checkOf 0 = 0 := by simpa using checkOf_xor 0 0

/-- The check bits of one data bit are its column. -/
theorem checkFrom_twoPow (n i : Nat) (hi : i < 64) :
    checkFrom (List.range n) 0 (BitVec.twoPow 64 i) = if i < n then column i else 0 := by
  induction n with
  | zero => rfl
  | succ n ih =>
    have last : checkFrom (List.range (n + 1)) 0 (BitVec.twoPow 64 i) =
        if (BitVec.twoPow 64 i).getLsbD n then checkFrom (List.range n) 0 (BitVec.twoPow 64 i) ^^^ column n
        else checkFrom (List.range n) 0 (BitVec.twoPow 64 i) := by
      simp [checkFrom, List.range_succ, List.foldl_append]
    rw [last, ih, BitVec.getLsbD_twoPow]
    obtain lt | rfl | gt := Nat.lt_trichotomy i n
    · simp [show i < n + 1 by omega, show i ≠ n by omega, lt]
    · simp [hi]
    · simp [show ¬ i < n + 1 by omega, show ¬ i < n by omega, show i ≠ n by omega]

/-! ### The syndrome -/

theorem dataOf_xor (v w : BitVec 80) : dataOf (v ^^^ w) = dataOf v ^^^ dataOf w := BitVec.setWidth_xor

theorem checkBits_xor (v w : BitVec 80) : checkBits (v ^^^ w) = checkBits v ^^^ checkBits w := by
  unfold checkBits
  rw [BitVec.ushiftRight_xor_distrib, BitVec.setWidth_xor]

theorem syndrome_xor (v w : BitVec 80) : syndrome (v ^^^ w) = syndrome v ^^^ syndrome w := by
  unfold syndrome
  rw [dataOf_xor, checkBits_xor, checkOf_xor]
  ac_rfl

theorem getLsbD_stored80 (d : Quad) (c : BitVec 16) (i : Nat) :
    (stored80 d c).getLsbD i = if i < 64 then d.getLsbD i else c.getLsbD (i - 64) :=
  BitVec.getLsbD_append

theorem dataOf_encode80 (d : Quad) : dataOf (encode80 d) = d := by
  apply BitVec.eq_of_getLsbD_eq
  intro i hi
  simp [dataOf, encode80, getLsbD_stored80, hi]

theorem checkBits_encode80 (d : Quad) : checkBits (encode80 d) = checkOf d := by
  apply BitVec.eq_of_getLsbD_eq
  intro i hi
  simp [checkBits, encode80, getLsbD_stored80, hi]

theorem syndrome_encode80 (d : Quad) : syndrome (encode80 d) = 0 := by
  rw [syndrome, checkBits_encode80, dataOf_encode80, BitVec.xor_self]
  rfl

/-- The syndrome of one error is the flip of its bit. -/
theorem syndrome_bit {i : Nat} (hi : i < 80) : syndrome (BitVec.ofNat 80 (2 ^ i)) = flipOf column i := by
  have bit : BitVec.ofNat 80 (2 ^ i) = BitVec.twoPow 80 i := BitVec.eq_of_toNat_eq (by
    rw [BitVec.toNat_ofNat, BitVec.toNat_twoPow])
  rw [bit, syndrome, flipOf]
  split
  case isTrue lt =>
    have data : dataOf (BitVec.twoPow 80 i) = BitVec.twoPow 64 i := BitVec.eq_of_getLsbD_eq fun j hj => by
      simp [dataOf, BitVec.getLsbD_twoPow, hj, hi, eq_comm]
    have check : checkBits (BitVec.twoPow 80 i) = 0 := BitVec.eq_of_getLsbD_eq fun j hj => by
      simp [checkBits, BitVec.getLsbD_twoPow]
      omega
    rw [data, check, checkOf_eq, checkFrom_twoPow 64 i lt, if_pos lt]
    simp
  case isFalse ge =>
    have data : dataOf (BitVec.twoPow 80 i) = 0 := BitVec.eq_of_getLsbD_eq fun j hj => by
      simp [dataOf, BitVec.getLsbD_twoPow]
      omega
    have check : checkBits (BitVec.twoPow 80 i) = BitVec.ofNat 16 (2 ^ (i - 64)) :=
      BitVec.eq_of_getLsbD_eq fun j hj => by
        rw [BitVec.getLsbD_ofNat, Nat.testBit_two_pow]
        simp [checkBits, BitVec.getLsbD_twoPow, hj, hi]
        omega
    rw [data, check, checkOf_zero]
    simp

theorem syndrome_flipBit (w : BitVec 80) {i : Nat} (hi : i < 80) :
    syndrome (flipBit w i) = syndrome w ^^^ flipOf column i := by
  rw [flipBit, syndrome_xor, syndrome_bit hi]

theorem flipBit_flipBit (w : BitVec 80) (i : Nat) : flipBit (flipBit w i) i = w := by
  unfold flipBit
  rw [BitVec.xor_assoc, BitVec.xor_self, BitVec.xor_zero]

theorem flipBit_comm (w : BitVec 80) (i j : Nat) : flipBit (flipBit w i) j = flipBit (flipBit w j) i := by
  simp only [flipBit]
  ac_rfl

/-! ### The syndromes of few errors are distinct -/

theorem mem_bitPairs {i j : Nat} (hi : i < 80) (hj : j < i) : (i, j) ∈ bitPairs := by
  simp only [bitPairs, List.mem_flatten, List.mem_map, List.mem_range]
  exact ⟨_, ⟨i, hi, rfl⟩, List.mem_map.mpr ⟨j, List.mem_range.mpr hj, rfl⟩⟩

theorem fewFlips_nodup : (fewFlips column).Nodup := by
  have good := Laws.Code.dectedGood_column
  simp only [dectedGood, Bool.and_eq_true, decide_eq_true_eq] at good
  exact good.1

theorem flip_mem_fewFlips {i : Nat} (hi : i < 80) : flipOf column i ∈ fewFlips column := by
  simp only [fewFlips, List.cons_append, List.mem_cons, List.mem_append, List.mem_map, List.mem_range]
  exact .inr (.inl ⟨i, hi, rfl⟩)

theorem pair_mem_fewFlips {p : Nat × Nat} (hp : p ∈ bitPairs) :
    flipOf column p.1 ^^^ flipOf column p.2 ∈ fewFlips column := by
  simp only [fewFlips, List.cons_append, List.mem_cons, List.mem_append, List.mem_map]
  exact .inr (.inr ⟨p, hp, rfl⟩)

theorem flip_ne_zero {i : Nat} (hi : i < 80) : flipOf column i ≠ 0 := by
  have distinct := (List.nodup_cons.mp fewFlips_nodup).1
  exact fun e => distinct (List.mem_append_left _ (List.mem_map.mpr ⟨i, List.mem_range.mpr hi, e⟩))

theorem pair_ne_zero {p : Nat × Nat} (hp : p ∈ bitPairs) : flipOf column p.1 ^^^ flipOf column p.2 ≠ 0 := by
  have distinct := (List.nodup_cons.mp fewFlips_nodup).1
  exact fun e => distinct (List.mem_append_right _ (List.mem_map.mpr ⟨p, hp, e⟩))

/-- A function is injective on a list whose images are distinct. -/
theorem eq_of_nodup_map {α β : Type} {f : α → β} {l : List α} (h : (l.map f).Nodup) {a b : α} (ha : a ∈ l) (hb : b ∈ l)
    (e : f a = f b) : a = b := by
  induction l with
  | nil => cases ha
  | cons c l ih =>
    obtain ⟨apart, rest⟩ := List.nodup_cons.mp h
    rcases List.mem_cons.mp ha with first | later
    · rcases List.mem_cons.mp hb with again | other
      · exact first.trans again.symm
      · exact absurd (by rw [← first, e]; exact List.mem_map_of_mem other) apart
    · rcases List.mem_cons.mp hb with again | other
      · exact absurd (by rw [← again, ← e]; exact List.mem_map_of_mem later) apart
      · exact ih rest later other

theorem flip_inj {i j : Nat} (hi : i < 80) (hj : j < 80) (e : flipOf column i = flipOf column j) : i = j :=
  eq_of_nodup_map (List.nodup_append.mp (List.nodup_cons.mp fewFlips_nodup).2).1
    (List.mem_range.mpr hi) (List.mem_range.mpr hj) e

theorem pair_inj {p q : Nat × Nat} (hp : p ∈ bitPairs) (hq : q ∈ bitPairs)
    (e : flipOf column p.1 ^^^ flipOf column p.2 = flipOf column q.1 ^^^ flipOf column q.2) : p = q :=
  eq_of_nodup_map (List.nodup_append.mp (List.nodup_cons.mp fewFlips_nodup).2).2.1 hp hq e

theorem flip_ne_pair {i : Nat} {p : Nat × Nat} (hi : i < 80) (hp : p ∈ bitPairs) :
    flipOf column i ≠ flipOf column p.1 ^^^ flipOf column p.2 :=
  (List.nodup_append.mp (List.nodup_cons.mp fewFlips_nodup).2).2.2 _
    (List.mem_map.mpr ⟨i, List.mem_range.mpr hi, rfl⟩) _ (List.mem_map.mpr ⟨p, hp, rfl⟩)

/-- Three errors have a syndrome that no error, one and two do not have. -/
theorem triple_notMem_fewFlips {i j k : Nat} (hi : i < 80) (hj : j < i) (hk : k < j) :
    flipOf column i ^^^ flipOf column j ^^^ flipOf column k ∉ fewFlips column := by
  have good := Laws.Code.dectedGood_column
  simp only [dectedGood, Bool.and_eq_true, List.all_eq_true] at good
  simpa using good.2 _ (mem_bitPairs hi hj) k (List.mem_range.mpr hk)

/-- The same of three errors in any order. -/
theorem triple_notMem_of_ne {i j k : Nat} (hi : i < 80) (hj : j < 80) (hk : k < 80) (ij : j ≠ i) (ik : k ≠ i)
    (jk : k ≠ j) : flipOf column i ^^^ flipOf column j ^^^ flipOf column k ∉ fewFlips column := by
  have order : ∀ {a b c}, a < 80 → b < a → c < b →
      flipOf column a ^^^ flipOf column b ^^^ flipOf column c =
        flipOf column i ^^^ flipOf column j ^^^ flipOf column k →
      flipOf column i ^^^ flipOf column j ^^^ flipOf column k ∉ fewFlips column :=
    fun ha hb hc e => e ▸ triple_notMem_fewFlips ha hb hc
  rcases Nat.lt_or_gt_of_ne ij with ji | ij <;> rcases Nat.lt_or_gt_of_ne ik with ki | ik <;>
    rcases Nat.lt_or_gt_of_ne jk with kj | jk
  · exact order hi ji kj rfl
  · exact order hi ki jk (by ac_rfl)
  · omega
  · exact order hk ik ji (by ac_rfl)
  · exact order hj ij ki (by ac_rfl)
  · omega
  · exact order hj kj ik (by ac_rfl)
  · exact order hk jk ij (by ac_rfl)

/-! ### Decoding by the syndrome -/

section
variable {w : BitVec 80}

theorem decode80_clean (h : syndrome w = 0) : decode80 w = some (0, w) := by
  simp [decode80, h]

theorem decode80_one {i : Nat} (hi : i < 80) (h : syndrome w = flipOf column i) :
    decode80 w = some (1, flipBit w i) := by
  have found : ((List.range 80).find? fun k => decide (flipOf column k = flipOf column i)) = some i := by
    obtain ⟨k, hk⟩ : ∃ k, ((List.range 80).find? fun k => decide (flipOf column k = flipOf column i)) = some k := by
      rw [← Option.isSome_iff_exists, List.find?_isSome]
      exact ⟨i, List.mem_range.mpr hi, by simp⟩
    have same := List.find?_some hk
    rw [hk, flip_inj (List.mem_range.mp (List.mem_of_find?_eq_some hk)) hi (by simpa using same)]
  unfold decode80
  dsimp only
  rw [h, if_neg (flip_ne_zero hi), found]

/-- A syndrome that is no bit's is not found among the bits. -/
theorem find_flip_none {y : BitVec 16} (h : ∀ i < 80, flipOf column i ≠ y) :
    ((List.range 80).find? fun k => decide (flipOf column k = y)) = none := by
  simpa [List.find?_eq_none] using h

theorem decode80_two {i j : Nat} (hi : i < 80) (hj : j < i) (h : syndrome w = flipOf column i ^^^ flipOf column j) :
    decode80 w = some (2, flipBit (flipBit w i) j) := by
  have pair := mem_bitPairs hi hj
  have found : (bitPairs.find? fun p => decide (flipOf column p.1 ^^^ flipOf column p.2 = syndrome w)) = some (i, j) := by
    obtain ⟨p, hp⟩ : ∃ p, (bitPairs.find? fun p =>
        decide (flipOf column p.1 ^^^ flipOf column p.2 = syndrome w)) = some p := by
      rw [← Option.isSome_iff_exists, List.find?_isSome]
      exact ⟨(i, j), pair, by simp [h]⟩
    have same := List.find?_some hp
    rw [hp, pair_inj (List.mem_of_find?_eq_some hp) pair (by simpa [h] using same)]
  unfold decode80
  dsimp only
  rw [if_neg (h ▸ pair_ne_zero pair), find_flip_none fun k hk => h ▸ flip_ne_pair hk pair, found]

theorem decode80_none (h : syndrome w ∉ fewFlips column) : decode80 w = none := by
  have unmatched : (bitPairs.find? fun p => decide (flipOf column p.1 ^^^ flipOf column p.2 = syndrome w)) = none := by
    rw [List.find?_eq_none]
    intro p hp e
    exact h (of_decide_eq_true e ▸ pair_mem_fewFlips hp)
  have error : syndrome w ≠ 0 := fun e => h (by rw [e]; exact List.mem_cons_self)
  have noBit : ∀ i < 80, flipOf column i ≠ syndrome w := fun i hi e => h (by rw [← e]; exact flip_mem_fewFlips hi)
  unfold decode80
  dsimp only
  rw [if_neg error, find_flip_none noBit, unmatched]

end

/-- Settles O60: the syndrome of a stored word with errors is the sum of the errors' flips, and the syndromes of up to
two errors are all distinct, and distinct from those of three. -/
theorem dectedCorrectsTwoAndDetectsThree : Obligations.DectedCorrectsTwoAndDetectsThree := by
  refine ⟨checkOf_zero, checkOf_xor, fun d => ⟨dataOf_encode80 d, decode80_clean (syndrome_encode80 d), ?errors⟩⟩
  intro i hi
  have one : syndrome (flipBit (encode80 d) i) = flipOf column i := by
    rw [syndrome_flipBit _ hi, syndrome_encode80]
    simp
  refine ⟨?single, fun j hj ji => ?more⟩
  case single => rw [decode80_one hi one, flipBit_flipBit]
  have two : syndrome (flipBit (flipBit (encode80 d) i) j) = flipOf column i ^^^ flipOf column j := by
    rw [syndrome_flipBit _ hj, one]
  refine ⟨?double, fun k hk ki kj => ?triple⟩
  case double =>
    rcases Nat.lt_or_gt_of_ne ji with lt | gt
    · rw [decode80_two hi lt two, flipBit_comm _ i j, flipBit_flipBit, flipBit_flipBit]
    · rw [decode80_two hj gt (two.trans (BitVec.xor_comm _ _)), flipBit_flipBit, flipBit_flipBit]
  case triple =>
    refine decode80_none ?_
    rw [syndrome_flipBit _ hk, two]
    exact triple_notMem_of_ne hi hj hk ji ki kj

end Sys2Proof.Machine
end

section
/-! SUPPORT. The queue of commands, the state before the first power-on, and the events of the frame. -/

namespace Sys2Proof.Machine

/-- Settles O1: `step` is by definition the command at the front of the queue. -/
theorem stepsTakeTheQueueInOrder : Obligations.StepsTakeTheQueueInOrder := by
  unfold Obligations.StepsTakeTheQueueInOrder
  intro s
  refine ⟨fun c rest hq => ?_, fun hq => ?_⟩
  · rw [step, hq]
  · rw [step, hq]

/-- Settles O2: every table of the reset state is empty. -/
theorem resetLeaves : Obligations.ResetLeaves :=
  ⟨rfl, rfl, rfl, rfl, rfl, rfl, rfl, rfl, rfl, rfl, fun _ => rfl, fun _ => rfl, fun _ => rfl, rfl, rfl, rfl, rfl⟩

/-- Settles O3: at reset both queues and the table of latches are empty. -/
theorem mailboxIsWithinItsBoundsAtReset : Obligations.MailboxIsWithinItsBoundsAtReset := by
  refine ⟨Nat.zero_le _, Nat.zero_le _, fun q hq => ?_, rfl, fun p hp => ?_⟩
  · cases hq
  · cases hp

/-! ### Events of the frame -/

theorem fired_of_lt {a l c : Nat} (h : a + l < c) : fired a l c = true := decide_eq_true h

theorem when_true (f : State → State) (s : State) : when true f s = f s := rfl

theorem when_of {c : Bool} (h : c = true) (f : State → State) (s : State) : when c f s = f s := by rw [h, when_true]

theorem when_not {c : Bool} (h : c = false) (f : State → State) (s : State) : when c f s = s := by rw [h]; rfl

theorem Shelf.follower_iff {h : Shelf} : h.follower = true ↔ h.pos ≠ 0 ∧ h.pos ≠ 0xFF := by
  simp [Shelf.follower]

theorem linkDown_of (up : Bool) (s : State) : linkDown up s = updShelf (fun h => { h with
    upLink := h.upLink && !up
    downLink := h.downLink && up
    downAt := if up = true ∧ h.upLink = true ∧ h.pos ≠ 0 ∧ h.pos ≠ 0xFF then some s.frame.elapsed else h.downAt }) s := by
  simp only [linkDown, Shelf.follower_iff, clk]

theorem holdover_of {s : State} {a : Nat} (ha : s.frame.shelf.downAt = some a) (h : a + 1000 < s.frame.elapsed) :
    holdover s = updShelf (fun h => { h with lock := .holdover, downAt := none, inBound := 0 }) s := by
  rw [holdover, ha]
  exact when_of (fired_of_lt h) _ _

theorem lockQualify_of {s : State} (hf : s.frame.shelf.follower = true) (hu : s.frame.shelf.upLink = true)
    (hl : s.frame.shelf.lock ≠ .locked) (hb : 1000 ≤ s.frame.shelf.inBound) :
    lockQualify s = updShelf (fun h => { h with lock := .locked }) s :=
  when_of (by simp [hf, hu, hl, hb]) _ _

theorem syncTimeout_of {s : State} (ht : s.frame.shelf.sync = .tracking)
    (h : s.frame.shelf.syncFrom + 1500000 < s.frame.elapsed) :
    syncTimeout s = updShelf (fun h => { h with sync := .missing }) s :=
  when_of (by rw [fired_of_lt (show _ < clk s from h), decide_eq_true ht]; rfl) _ _

/-- Tie counts leave the shelf, the counter and what is sent out as they are. -/
theorem noteTie_shelf (a l : Nat) (s : State) :
    (noteTie a l s).frame.shelf = s.frame.shelf ∧ (noteTie a l s).frame.counter = s.frame.counter ∧
    (noteTie a l s).emit = s.emit := by
  unfold noteTie
  cases h : decide (clk s = a + l) <;> exact ⟨rfl, rfl, rfl⟩

/-- The tie a returning upstream link is counted under. -/
def linkTie (up : Bool) (s : State) : State :=
  match s.frame.shelf.downAt with
  | some a => when up (noteTie a 1000) s
  | none => s

theorem linkTie_shelf (up : Bool) (s : State) :
    (linkTie up s).frame.shelf = s.frame.shelf ∧ (linkTie up s).frame.counter = s.frame.counter ∧
    (linkTie up s).emit = s.emit := by
  unfold linkTie
  split
  · cases up
    · exact ⟨rfl, rfl, rfl⟩
    · exact noteTie_shelf _ _ s
  · exact ⟨rfl, rfl, rfl⟩

/-- The shelf as a link that comes up leaves it, before the step forward. -/
def linkedShelf (up : Bool) (h : Shelf) : Shelf :=
  { h with
    upLink := h.upLink || up
    downLink := h.downLink || !up
    downAt := if up then none else h.downAt
    inBound := if up then 0 else h.inBound
    lock := if up ∧ h.follower then .acquiring else h.lock }

/-- A link that comes up: the count is sent, the tie counted, the shelf linked, and a larger count awaited. -/
theorem linkUp_of (up : Bool) (count : Nat) {s : State} (hb : booted s = true) :
    ∃ w, w.frame.shelf = linkedShelf up s.frame.shelf ∧ w.frame.counter = s.frame.counter ∧
      w.emit = s.emit ++ [.corridor (!up) (.count s.frame.counter)] ∧
      linkUp up count s = when (decide (s.frame.counter < count))
        (updShelf fun h => { h with stepTo := some (max count (h.stepTo.getD 0)) }) w := by
  obtain ⟨hs, hc, he⟩ := linkTie_shelf up (send (.corridor (!up) (.count (now s))) s)
  refine ⟨updShelf (linkedShelf up) (linkTie up (send (.corridor (!up) (.count (now s))) s)), ?_, hc, he, ?_⟩
  · exact congrArg (linkedShelf up) hs
  · have hn : decide (now (updShelf (linkedShelf up) (linkTie up (send (.corridor (!up) (.count (now s))) s))) < count) =
        decide (s.frame.counter < count) := congrArg (fun c => decide (c < count)) hc
    rw [linkUp, hb, ← hn]
    rfl

theorem linkUp_frame (up : Bool) (count : Nat) {s : State} (hb : booted s = true) :
    (linkUp up count s).emit = s.emit ++ [.corridor (!up) (.count s.frame.counter)] ∧
    (linkUp up count s).frame.shelf.upLink = (s.frame.shelf.upLink || up) ∧
    (linkUp up count s).frame.shelf.downLink = (s.frame.shelf.downLink || !up) ∧
    (s.frame.counter < count →
      (linkUp up count s).frame.shelf.stepTo = some (max count (s.frame.shelf.stepTo.getD 0))) ∧
    (count ≤ s.frame.counter → (linkUp up count s).frame.shelf.stepTo = s.frame.shelf.stepTo) ∧
    (linkUp up count s).frame.counter = s.frame.counter := by
  obtain ⟨w, hs, hc, he, h⟩ := linkUp_of up count hb
  rw [h]
  by_cases hlt : s.frame.counter < count
  case pos =>
    rw [when_of (decide_eq_true hlt)]
    simp [updShelf, hs, hc, he, linkedShelf, hlt, Nat.not_le.mpr hlt]
  case neg =>
    rw [when_not (decide_eq_false hlt)]
    simp [hs, hc, he, linkedShelf, hlt]

/-- The state in which a SYNC_IN pulse that counts draws its trim. -/
def pulsed (s : State) : State :=
  updShelf (fun h => { h with syncLast := some (clk s) })
    (when (decide (s.frame.shelf.sync = .tracking)) (noteTie s.frame.shelf.syncFrom 1500000) s)

theorem pulsed_counter (s : State) : (pulsed s).frame.counter = s.frame.counter := by
  unfold pulsed when
  split
  · exact (noteTie_shelf _ _ s).2.1
  · rfl

theorem syncPulse_of {s : State} (hp : s.frame.shelf.pos = 0) (he : s.frame.shelf.syncEn = true)
    (hn : s.frame.shelf.sync ≠ .missing ∨ ∃ l, s.frame.shelf.syncLast = some l ∧ l + 499950 ≤ s.frame.elapsed ∧
      s.frame.elapsed ≤ l + 500050) :
    syncPulse s = updShelf (fun h => { h with
        sync := .tracking, syncFrom := clk s, trim := (drawInt (-1) 1 (pulsed s)).1 }) (drawInt (-1) 1 (pulsed s)).2 := by
  have hc : ¬(s.frame.shelf.sync = .missing ∧ (!(match s.frame.shelf.syncLast with
      | some l => decide (clk s - l ≤ 500050) && decide (499950 ≤ clk s - l)
      | none => false)) = true) := by
    rintro ⟨hm, hf⟩
    obtain h | ⟨l, hl, h1, h2⟩ := hn
    · exact h hm
    · have hle : clk s - l ≤ 500050 := Nat.sub_le_iff_le_add'.mpr h2
      have hge : 499950 ≤ clk s - l := Nat.le_sub_of_add_le' h1
      simp [hl, hle, Nat.not_lt.mpr hge] at hf
  rw [syncPulse, if_neg (by simp [hp, he])]
  exact if_neg hc

theorem drawInt_within (lo hi : Int) (s : State) (h : lo ≤ hi) : lo ≤ (drawInt lo hi s).1 ∧ (drawInt lo hi s).1 ≤ hi := by
  simp only [drawInt]
  omega

/-- Settles O9: each event by the equation of its operation. -/
theorem frameEventsAndPulses : Obligations.FrameEventsAndPulses := by
  unfold Obligations.FrameEventsAndPulses
  refine ⟨fun s => ⟨rfl, fun up => ?down, fun a ha h => ?hold, fun h0 hF hu hl hb => ?lock, fun ht h => ?sync⟩,
    fun s => ⟨fun up count hb => ?up, fun hp he hn => ?pulse⟩⟩
  case down => exact congrArg Host.Outcome.next (linkDown_of up { s with emit := [] })
  case hold => exact congrArg Host.Outcome.next (holdover_of (s := { s with emit := [] }) ha h)
  case lock =>
    exact congrArg Host.Outcome.next
      (lockQualify_of (s := { s with emit := [] }) (Shelf.follower_iff.mpr ⟨h0, hF⟩) hu hl hb)
  case sync => exact congrArg Host.Outcome.next (syncTimeout_of (s := { s with emit := [] }) ht h)
  case up =>
    obtain ⟨hem, hul, hdl, hlt, hge, hcnt⟩ := linkUp_frame up count (s := { s with emit := [] }) hb
    exact ⟨_, rfl, hem, hul, hdl, hlt, hge, hcnt, exec_only (c := .corridorLinkUp up count) rfl⟩
  case pulse =>
    have heq := syncPulse_of (s := { s with emit := [] }) hp he hn
    have htr := drawInt_within (-1) 1 (pulsed { s with emit := [] }) (by decide)
    have hcnt := pulsed_counter { s with emit := [] }
    have honly : Only [.frame, .emit, .free] s (syncPulse { s with emit := [] }) := exec_only (c := .syncInPulse) rfl
    rw [heq] at honly
    refine ⟨_, rfl, ?_⟩
    rw [heq]
    exact ⟨rfl, rfl, rfl, htr.1, htr.2, hcnt, honly⟩

end Sys2Proof.Machine
end

section
/-! SUPPORT. Words of the mailbox, its control register and the latches, while the window is not gated. -/

namespace Sys2Proof.Machine

/-! ### Accesses to an open window (R435, R536) -/

theorem write4_out (p : Pf) (v : Nat) {s : State} (hg : gated s = false) :
    write4 p 0x100 v s = writeOut p (wordOf v) s := by
  have ha : gatedArea 0x100 = some 2 := rfl
  simp only [write4, ha, hg, if_true]

theorem write4_ctl (p : Pf) (v : Nat) {s : State} (hg : gated s = false) : write4 p 0x110 v s = writeCtl p v s := by
  have ha : gatedArea 0x110 = some 2 := rfl
  simp [write4, ha, hg]

theorem gatedArea_latch {n : Nat} (hn : n ≤ 15) : gatedArea (0x200 + 4 * n) = some 3 := by
  have h1 : ¬(0x200 + 4 * n = 0x10 ∨ 0x200 + 4 * n = 0x14) := by omega
  have h2 : ¬(0x100 ≤ 0x200 + 4 * n ∧ 0x200 + 4 * n ≤ 0x118) := by omega
  have h3 : 0x200 ≤ 0x200 + 4 * n ∧ 0x200 + 4 * n < 0x240 := by omega
  rw [gatedArea, if_neg h1, if_neg h2, if_pos h3]

theorem write4_latch (p : Pf) {n : Nat} (v : Nat) {s : State} (hn : n ≤ 15) (hg : gated s = false) :
    write4 p (0x200 + 4 * n) v s = writeLatch p.agent n (wordOf v) s := by
  have h1 : 0x200 + 4 * n ≠ 0x100 := by omega
  have h2 : 0x200 + 4 * n ≠ 0x110 := by omega
  have h3 : 0x200 + 4 * n ≠ 0x114 := by omega
  have h4 : 0x200 ≤ 0x200 + 4 * n ∧ 0x200 + 4 * n < 0x240 := by omega
  have h5 : (0x200 + 4 * n - 0x200) / 4 = n := by omega
  simp only [write4, gatedArea_latch hn, hg]
  rw [if_neg h1, if_neg h2, if_neg h3, if_pos h4, h5]

theorem read4_latch (p : Pf) {n : Nat} {s : State} (hn : n ≤ 15) (hg : gated s = false) :
    read4 p (0x200 + 4 * n) s = readLatch p.agent n s := by
  have h1 : 0x200 + 4 * n ≠ 0x10 := by omega
  have h2 : 0x200 + 4 * n ≠ 0x108 := by omega
  have h4 : 0x200 ≤ 0x200 + 4 * n ∧ 0x200 + 4 * n < 0x240 := by omega
  have h5 : (0x200 + 4 * n - 0x200) / 4 = n := by omega
  simp only [read4, gatedArea_latch hn, hg]
  rw [if_neg h1, if_neg h2, if_pos h4, h5]

theorem read4_in (p : Pf) {s : State} (hg : gated s = false) :
    read4 p 0x108 s = (peek s p 0x108,
      when (decide (holder s 1 = p.agent)) (updMbx fun m => { m with inQ := m.inQ.tail }) s) := by
  have ha : gatedArea 0x108 = some 2 := rfl
  simp only [read4, ha, hg]
  rfl

/-! ### Requests at the head that some row has (R84) -/

theorem drainHeads_known {s : State} (n : Nat) (h : ∀ q ∈ s.mbx.outQ, q.opcode ∈ catalogue) : drainHeads n s = s := by
  cases n with
  | zero => rfl
  | succ n =>
    unfold drainHeads
    cases hq : s.mbx.outQ with
    | nil => rfl
    | cons r rest =>
      have hr : catalogue.contains r.opcode = true := List.contains_iff_mem.mpr (h r (hq ▸ List.mem_cons_self))
      simp only [hr, if_true]

theorem reopen_known {s : State} (h : ∀ q ∈ s.mbx.outQ, q.opcode ∈ catalogue) : reopen s = s := by
  unfold reopen when
  split
  · exact drainHeads_known 16 h
  · rfl

theorem forall_mem_concat {α : Type} {P : α → Prop} {l : List α} {a : α} (h : ∀ q ∈ l, P q) (ha : P a) :
    ∀ q ∈ l ++ [a], P q := by
  intro q hq
  obtain hq | hq := List.mem_append.mp hq
  · exact h q hq
  · exact List.mem_singleton.mp hq ▸ ha

/-! ### Words discarded under REJECT (R64, R68) -/

theorem setEvent_bit {b : Nat} (hb : b < 8) (s : State) : (setEvent b s).mbx.event.getLsbD b = true := by
  unfold setEvent
  by_cases h : s.mbx.event.getLsbD b = true
  · rw [if_pos h]; exact h
  · rw [if_neg h]
    change (s.mbx.event ||| BitVec.ofNat 8 (2 ^ b)).getLsbD b = true
    rw [BitVec.getLsbD_or, BitVec.getLsbD_ofNat, Nat.testBit_two_pow_self, decide_eq_true hb, Bool.true_and,
      Bool.or_true]

@[simp] theorem setEvent_skip (b : Nat) (s : State) : (setEvent b s).mbx.skip = s.mbx.skip := by
  have h := congrArg (fun m : MbxSt => m.skip) (setEvent_evMbx b s)
  exact h

@[simp] theorem setEvent_rejectWords (b : Nat) (s : State) : (setEvent b s).mbx.rejectWords = s.mbx.rejectWords := by
  have h := congrArg (fun m : MbxSt => m.rejectWords) (setEvent_evMbx b s)
  exact h

@[simp] theorem setEvent_inDropped (b : Nat) (s : State) : (setEvent b s).mbx.inDropped = s.mbx.inDropped := by
  have h := congrArg (fun m : MbxSt => m.inDropped) (setEvent_evMbx b s)
  exact h

@[simp] theorem reject_skip (n : Nat) (s : State) : (reject n s).mbx.skip = s.mbx.skip := setEvent_skip 5 _
@[simp] theorem reject_outQ (n : Nat) (s : State) : (reject n s).mbx.outQ = s.mbx.outQ := setEvent_outQ 5 _
@[simp] theorem reject_inQ (n : Nat) (s : State) : (reject n s).mbx.inQ = s.mbx.inQ := setEvent_inQ 5 _
@[simp] theorem reject_part (n : Nat) (s : State) : (reject n s).mbx.part = s.mbx.part := setEvent_part 5 _
@[simp] theorem reject_bit (n : Nat) (s : State) : (reject n s).mbx.event.getLsbD 5 = true := setEvent_bit (by decide) _
@[simp] theorem reject_rejectWords (n : Nat) (s : State) :
    (reject n s).mbx.rejectWords = min (s.mbx.rejectWords + n) 255 := setEvent_rejectWords 5 _

/-! ### A word written to MBX_OUT_DATA (R64, R68) -/

theorem writeOut_holder {s : State} {p : Pf} (w : Word) (hh : holder s 1 = p.agent)
    (hk : ∀ q ∈ (outWord p w s).mbx.outQ, q.opcode ∈ catalogue) : writeOut p w s = outWord p w s := by
  rw [writeOut, if_pos hh]
  exact reopen_known hk

theorem writeOut_other {s : State} {p : Pf} (w : Word) (hh : holder s 1 ≠ p.agent) : writeOut p w s = reject 1 s :=
  if_neg hh

theorem mbxOutDataWrite_does {s : State} {p : Pf} (w : Word) (hg : gated s = false) {P : State → Prop}
    (hp : P (writeOut p w { s with emit := [] })) : Does (.mbxOutDataWrite p w) s P := by
  have e := write4_out p w.toNat (s := { s with emit := [] }) hg
  rw [wordOf, BitVec.ofNat_toNat, BitVec.setWidth_eq] at e
  exact act_does rfl (e ▸ hp)

/-- The word of a holder whose queue holds known requests only afterwards. -/
theorem mbxOutDataWrite_holder {s : State} {p : Pf} (w : Word) (hg : gated s = false) (hh : holder s 1 = p.agent)
    (hk : ∀ q ∈ (outWord p w { s with emit := [] }).mbx.outQ, q.opcode ∈ catalogue) {P : State → Prop}
    (hp : P (outWord p w { s with emit := [] })) : Does (.mbxOutDataWrite p w) s P :=
  mbxOutDataWrite_does w hg (writeOut_holder (s := { s with emit := [] }) w hh hk ▸ hp)

theorem mbxOutDataWrite_other {s : State} {p : Pf} (w : Word) (hg : gated s = false) (hh : holder s 1 ≠ p.agent)
    {P : State → Prop} (hp : P (reject 1 { s with emit := [] })) : Does (.mbxOutDataWrite p w) s P :=
  mbxOutDataWrite_does w hg (writeOut_other (s := { s with emit := [] }) w hh ▸ hp)

theorem outWord_skips {s : State} {p : Pf} (w : Word) (h : 0 < s.mbx.skip) :
    outWord p w s = reject 1 (updMbx (fun m => { m with skip := m.skip - 1 }) s) := if_pos h

theorem outWord_header {s : State} {p : Pf} (w : Word) (h : s.mbx.skip = 0) (hp : s.mbx.part = none) :
    outWord p w s =
      if 16 < outUsed s.mbx + 1 + w.toNat / 2 ^ 12 % 16 then
        reject 1 (updMbx (fun m => { m with skip := w.toNat / 2 ^ 12 % 16 }) s)
      else if w.toNat / 2 ^ 12 % 16 = 0 then
        updMbx (fun m => { m with outQ := m.outQ ++
          [{ agent := p.agent, epoch := s.mbx.hostEpoch, frame := now s, words := [w] }] }) s
      else updMbx (fun m => { m with
        part := some { agent := p.agent, words := [w], left := w.toNat / 2 ^ 12 % 16 } }) s := by
  rw [outWord, if_neg (by omega), hp]
  rfl

theorem outWord_part {s : State} {p : Pf} {q : Partial} (w : Word) (h : s.mbx.skip = 0) (hp : s.mbx.part = some q) :
    outWord p w s =
      if q.left ≤ 1 then
        updMbx (fun m => { m with part := none, outQ := m.outQ ++
          [{ agent := q.agent, epoch := s.mbx.hostEpoch, frame := now s, words := q.words ++ [w] }] }) s
      else updMbx (fun m => { m with part := some { q with words := q.words ++ [w], left := q.left - 1 } }) s := by
  rw [outWord, if_neg (by omega), hp]

theorem opcode_of_word (w : Word) (a : Nat) (e : Half) (f : Nat) :
    ({ agent := a, epoch := e, frame := f, words := [w] } : Posted).opcode = w.toNat / 2 ^ 24 := by
  have := w.isLt
  simp only [Posted.opcode, Posted.header, bits, List.getD_cons_zero]
  omega

theorem updMbx_emitted_only (f : MbxSt → MbxSt) (s : State) : Only [.mbx, .emit] s (updMbx f { s with emit := [] }) :=
  updMbx_only _ _ (only_emit _ (only_refl _ _) (by decide)) (by decide)

theorem reject_emitted_only (n : Nat) {s t : State} (h : Only [.mbx, .emit] s t) : Only [.mbx, .emit] s (reject n t) :=
  reject_only _ _ h (by decide)

/-! ### A read of MBX_IN_DATA (R64, R69) -/

/-- The head word as MBX_IN_DATA shows it. -/
def headWord (m : MbxSt) : Nat :=
  match m.inQ with
  | [] => 0
  | w :: _ => w.word.toNat

theorem inDataRead_holder {s : State} {p : Pf} (hg : gated s = false) (hh : holder s 1 = p.agent) :
    answer (read4 p 0x108 s) = { s with
      mbx := { s.mbx with inQ := s.mbx.inQ.tail }, emit := s.emit ++ [.readData (headWord s.mbx)] } := by
  have hv : peek s p 0x108 = headWord s.mbx := if_pos hh
  rw [read4_in p hg, hv, when_of (decide_eq_true hh)]
  rfl

theorem inDataRead_other {s : State} {p : Pf} (hg : gated s = false) (hh : holder s 1 ≠ p.agent) :
    answer (read4 p 0x108 s) = { s with emit := s.emit ++ [.readData 0] } := by
  have hv : peek s p 0x108 = 0 := if_neg hh
  rw [read4_in p hg, hv, when_not (decide_eq_false hh)]
  rfl

/-- Settles O12: the word of the holder by its place in a message, and the head word by whether one stands there. -/
theorem mailboxQueuesTakeAndGiveWords : Obligations.MailboxQueuesTakeAndGiveWords := by
  unfold Obligations.MailboxQueuesTakeAndGiveWords
  refine ⟨fun s p w hg => ⟨fun hh hs hk => ⟨fun hpart hfit => ⟨fun hl => ?begins, fun hl hop => ?alone⟩,
      fun q hq hl hop => ?ends, fun q hq hl => ?goesOn, fun hpart hfull => ?unfit⟩,
    fun hh hs hk => ?skipped, fun hh => ?other⟩, fun s p hg => ⟨fun hh => ?holder, fun hh => ?reader⟩⟩
  case begins =>
    have e := outWord_header (p := p) (s := { s with emit := [] }) w hs hpart
    rw [if_neg (Nat.not_lt.mpr hfit), if_neg hl] at e
    refine mbxOutDataWrite_holder w hg hh ?_ ?_ <;> rw [e]
    · exact hk
    · exact ⟨rfl, rfl, updMbx_emitted_only _ s⟩
  case alone =>
    have e := outWord_header (p := p) (s := { s with emit := [] }) w hs hpart
    rw [if_neg (Nat.not_lt.mpr hfit), if_pos hl] at e
    refine mbxOutDataWrite_holder w hg hh ?_ ?_ <;> rw [e]
    · exact forall_mem_concat hk (by rw [opcode_of_word]; exact hop)
    · exact ⟨rfl, hpart, updMbx_emitted_only _ s⟩
  case ends =>
    have e := outWord_part (p := p) (s := { s with emit := [] }) w hs hq
    rw [if_pos (Nat.le_of_eq hl)] at e
    refine mbxOutDataWrite_holder w hg hh ?_ ?_ <;> rw [e]
    · exact forall_mem_concat hk hop
    · exact ⟨rfl, rfl, updMbx_emitted_only _ s⟩
  case goesOn =>
    have e := outWord_part (p := p) (s := { s with emit := [] }) w hs hq
    rw [if_neg (Nat.not_le.mpr hl)] at e
    refine mbxOutDataWrite_holder w hg hh ?_ ?_ <;> rw [e]
    · exact hk
    · exact ⟨rfl, rfl, updMbx_emitted_only _ s⟩
  case unfit =>
    have e := outWord_header (p := p) (s := { s with emit := [] }) w hs hpart
    rw [if_pos hfull] at e
    refine mbxOutDataWrite_holder w hg hh ?_ ?_ <;> rw [e]
    · rw [reject_outQ]; exact hk
    · exact ⟨reject_skip _ _, reject_outQ _ _, reject_bit _ _, reject_rejectWords _ _,
        reject_emitted_only 1 (updMbx_emitted_only _ s)⟩
  case skipped =>
    have e := outWord_skips (p := p) (s := { s with emit := [] }) w hs
    refine mbxOutDataWrite_holder w hg hh ?_ ?_ <;> rw [e]
    · rw [reject_outQ]; exact hk
    · exact ⟨reject_skip _ _, reject_outQ _ _, reject_part _ _, reject_bit _ _, reject_rejectWords _ _,
        reject_emitted_only 1 (updMbx_emitted_only _ s)⟩
  case other =>
    exact mbxOutDataWrite_other w hg hh ⟨reject_outQ _ _, reject_part _ _, reject_bit _ _, reject_rejectWords _ _,
      reject_emitted_only 1 (only_emit _ (only_refl _ _) (by decide))⟩
  case holder => exact congrArg Host.Outcome.next (inDataRead_holder (s := { s with emit := [] }) hg hh)
  case reader => exact congrArg Host.Outcome.next (inDataRead_other (s := { s with emit := [] }) hg hh)

/-! ### A write of MBX_CTL (R69, R73, R76, R78) -/

/-- The parts of the mailbox that events, the count of discarded words and moving replies to the ring leave alone. -/
def steady (m : MbxSt) : MbxSt :=
  { m with event := 0, rejectWords := 0, spill := [], prod := 0, spillSeq := 0, backlog := [] }

theorem steady_of_evMbx {m n : MbxSt} (h : evMbx m = evMbx n) : steady m = steady n := by
  have e := congrArg steady h
  exact e

theorem fields_of_steady {m n : MbxSt} (h : steady m = steady n) :
    m.outQ = n.outQ ∧ m.part = n.part ∧ m.inQ = n.inQ ∧ m.hostEpoch = n.hostEpoch ∧ m.devEpoch = n.devEpoch ∧
    m.inDropped = n.inDropped ∧ m.latches = n.latches ∧ m.cons = n.cons := by
  have same {α : Type} (f : MbxSt → α) (hf : ∀ k, f (steady k) = f k) : f m = f n :=
    (hf m).symm.trans ((congrArg f h).trans (hf n))
  exact ⟨same MbxSt.outQ fun _ => rfl, same MbxSt.part fun _ => rfl, same MbxSt.inQ fun _ => rfl,
    same MbxSt.hostEpoch fun _ => rfl, same MbxSt.devEpoch fun _ => rfl, same MbxSt.inDropped fun _ => rfl,
    same MbxSt.latches fun _ => rfl, same MbxSt.cons fun _ => rfl⟩

theorem steady_spillWrite (e : Half) (n : Nat) (b : Bool) (ws : List Word) (m : MbxSt) :
    steady (spillWrite e n b ws m) = steady m := by
  induction n generalizing b ws m with
  | zero => rfl
  | succ n ih => exact ih _ _ _

theorem steady_toRing (r : Reply) (s : State) : steady (toRing r s).mbx = steady s.mbx :=
  (steady_of_evMbx (setEvent_evMbx 2 _)).trans (steady_spillWrite _ _ _ _ _)

theorem steady_reject (n : Nat) (s : State) : steady (reject n s).mbx = steady s.mbx :=
  (steady_of_evMbx (setEvent_evMbx 5 (updMbx (fun m => { m with rejectWords := sat8 (m.rejectWords + n) }) s))).trans rfl

theorem steady_drainBacklog (l : List Reply) (s : State) : steady (drainBacklog l s).mbx = steady s.mbx := by
  induction l generalizing s with
  | nil => rfl
  | cons r rest ih =>
    rw [drainBacklog]
    split
    · exact (ih _).trans (steady_toRing _ _)
    · rfl

theorem steady_setCons {v : Byte} {s : State} (h : (v - s.mbx.cons).toNat ≤ spillUsed s.mbx) :
    steady (setCons v s).mbx = steady { s.mbx with cons := v } := by
  simp only [setCons, decide_eq_true h, if_true]
  split
  · rfl
  · exact steady_drainBacklog _ _

theorem steady_hostSenderReset (s : State) : steady (hostSenderReset s).mbx =
    steady { s.mbx with part := none, skip := 0, hostEpoch := s.mbx.hostEpoch + 1 } := by
  have h := steady_of_evMbx
    (emptying_evMbx (updMbx fun m => { m with part := none, skip := 0, hostEpoch := m.hostEpoch + 1 }) s)
  unfold hostSenderReset when
  dsimp only
  split
  · exact (steady_reject _ _).trans h
  · exact h

/-- The device→host queue is cleared, and its words are counted. -/
def inCleared (m : MbxSt) : MbxSt := { m with inDropped := min (m.inDropped + m.inQ.length) 0xFFFF, inQ := [] }

theorem steady_inCleared {m n : MbxSt} (h : steady m = steady n) : steady (inCleared m) = steady (inCleared n) := by
  have e := congrArg (fun m => steady (inCleared m)) h
  exact e

theorem setCons_plain {v : Byte} {s : State} (h : (v - s.mbx.cons).toNat ≤ spillUsed s.mbx)
    (hb : s.mbx.backlog = []) : setCons v s = updMbx (fun m => { m with cons := v }) s := by
  simp only [setCons, decide_eq_true h, if_true, updMbx_mbx, hb, drainBacklog, ite_self]

theorem setMbxPf_self (p : Pf) (s : State) : setMbxPf p (mbxPf s p) s = s := by cases p <;> rfl

/-- A write of MBX_CTL with the PF's own fields as they stand. -/
theorem writeCtl_of {p : Pf} {v : Nat} {s : State} (hi : v / 2 ^ 8 % 2 ^ 8 = (mbxPf s p).irqEn.toNat)
    (hv : v / 2 ^ 16 % 2 ^ 8 = (mbxPf s p).vector.toNat) :
    writeCtl p v s = if holder s 1 = p.agent then
      setCons (BitVec.ofNat 8 (v / 2 ^ 24)) (when (decide (v % 2 = 1)) (fun s => clearInQueue (hostSenderReset s)) s)
      else s := by
  have e : setMbxPf p { irqEn := BitVec.ofNat 8 (bits v 15 8), vector := BitVec.ofNat 8 (bits v 23 16) } s = s := by
    have h1 : bits v 15 8 = (mbxPf s p).irqEn.toNat := hi
    have h2 : bits v 23 16 = (mbxPf s p).vector.toNat := hv
    rw [h1, h2, BitVec.ofNat_toNat, BitVec.ofNat_toNat, BitVec.setWidth_eq, BitVec.setWidth_eq]
    exact setMbxPf_self p s
  have hb : bitOf v 0 = decide (v % 2 = 1) := by simp [bitOf]
  have hc : BitVec.ofNat 8 (bits v 31 24) = BitVec.ofNat 8 (v / 2 ^ 24) := by
    apply BitVec.eq_of_toNat_eq
    simp [bits]
  simp only [writeCtl, e, hb, hc]

theorem ctlValue_fields (s : State) (p : Pf) (low : Nat) (hl : low < 2) (cons : Byte) :
    let v := low + (mbxPf s p).irqEn.toNat * 2 ^ 8 + (mbxPf s p).vector.toNat * 2 ^ 16 + cons.toNat * 2 ^ 24
    v / 2 ^ 8 % 2 ^ 8 = (mbxPf s p).irqEn.toNat ∧ v / 2 ^ 16 % 2 ^ 8 = (mbxPf s p).vector.toNat ∧
    BitVec.ofNat 8 (v / 2 ^ 24) = cons ∧ v % 2 = low := by
  have h1 := (mbxPf s p).irqEn.isLt
  have h2 := (mbxPf s p).vector.isLt
  have h3 := cons.isLt
  refine ⟨by omega, by omega, ?_, by omega⟩
  apply BitVec.eq_of_toNat_eq
  rw [BitVec.toNat_ofNat]
  omega

theorem mbxCtlReset_eq (s : State) (p : Pf) (hg : gated s = false) :
    write4 p 0x110 (ctlValue s p + 1) s =
      if holder s 1 = p.agent then setCons s.mbx.cons (clearInQueue (hostSenderReset s)) else s := by
  obtain ⟨hi, hv, hc, hl⟩ := ctlValue_fields s p 1 (by decide) s.mbx.cons
  have e : ctlValue s p + 1 = 1 + (mbxPf s p).irqEn.toNat * 2 ^ 8 + (mbxPf s p).vector.toNat * 2 ^ 16 +
      s.mbx.cons.toNat * 2 ^ 24 := by unfold ctlValue; omega
  rw [write4_ctl p _ hg, e, writeCtl_of hi hv, hc, when_of (decide_eq_true hl)]

theorem spillConsWrite_eq (s : State) (p : Pf) (v : Byte) (hg : gated s = false) :
    write4 p 0x110 (ctlValue s p % 2 ^ 24 + v.toNat * 2 ^ 24) s = if holder s 1 = p.agent then setCons v s else s := by
  obtain ⟨hi, hv, hc, hl⟩ := ctlValue_fields s p 0 (by decide) v
  have e : ctlValue s p % 2 ^ 24 + v.toNat * 2 ^ 24 = 0 + (mbxPf s p).irqEn.toNat * 2 ^ 8 +
      (mbxPf s p).vector.toNat * 2 ^ 16 + v.toNat * 2 ^ 24 := by
    have h1 := (mbxPf s p).irqEn.isLt
    have h2 := (mbxPf s p).vector.isLt
    unfold ctlValue
    omega
  rw [write4_ctl p _ hg, e, writeCtl_of hi hv, hc, when_not (decide_eq_false (by omega))]

/-- The mailbox after MBX_CTL.RESET. -/
theorem steady_reset (s : State) : steady (setCons s.mbx.cons (clearInQueue (hostSenderReset s))).mbx =
    steady (inCleared { s.mbx with part := none, skip := 0, hostEpoch := s.mbx.hostEpoch + 1 }) := by
  have h := steady_hostSenderReset s
  have hc : (clearInQueue (hostSenderReset s)).mbx.cons = s.mbx.cons := (fields_of_steady h).2.2.2.2.2.2.2
  refine (steady_setCons ?_).trans ?_
  · rw [hc, BitVec.sub_self]; exact Nat.zero_le _
  · have e := congrArg (fun m => steady (inCleared { m with cons := s.mbx.cons })) h
    exact e

theorem reset_does {s : State} {p : Pf} (hg : gated s = false) (hh : holder s 1 = p.agent) {P : State → Prop}
    (hp : P (setCons s.mbx.cons (clearInQueue (hostSenderReset { s with emit := [] })))) : Does (.mbxCtlReset p) s P := by
  have e := mbxCtlReset_eq { s with emit := [] } p hg
  exact ⟨_, congrArg Host.Outcome.next (e.trans (if_pos hh)), hp⟩

/-- Settles O13: MBX_CTL is written with the PF's own fields as they stand, so that only RESET and SPILL_CONS act. -/
theorem mailboxControlWrites : Obligations.MailboxControlWrites := by
  unfold Obligations.MailboxControlWrites
  intro s p hg
  have hreset := mbxCtlReset_eq { s with emit := [] } p hg
  have hcons := fun v => spillConsWrite_eq { s with emit := [] } p v hg
  refine ⟨fun hh => reset_does hg hh ?reset, fun hh => ?noReset, fun v hh hv hb => ?cons, fun v hh => ?noCons⟩
  case reset =>
    have e := steady_reset { s with emit := [] }
    obtain ⟨houtQ, hpart, hinQ, hhost, hdev, hdrop, hlatches, -⟩ := fields_of_steady e
    exact ⟨houtQ, hpart, hinQ, hhost, hdev, hdrop, hlatches, setCons_only _ _ (clearInQueue_only _ (hostSenderReset_only _
      (only_emit _ (only_refl _ _) (by decide)) (by decide)) (by decide)) (by decide)⟩
  case noReset => exact congrArg Host.Outcome.next (hreset.trans (if_neg hh))
  case cons =>
    exact congrArg Host.Outcome.next ((hcons v).trans ((if_pos hh).trans (setCons_plain (s := { s with emit := [] }) hv hb)))
  case noCons => exact congrArg Host.Outcome.next ((hcons v).trans (if_neg hh))

/-! ### Latches (R81) -/

theorem holder_setLatch_self (n a : Nat) (s : State) : holder (setLatch n a s) n = a := by
  unfold holder setLatch tabGetD
  by_cases ha : a = 0 <;> simp [updMbx, ha]

theorem holder_setLatch_ne {n m : Nat} (a : Nat) (s : State) (h : m ≠ n) : holder (setLatch n a s) m = holder s m := by
  unfold holder setLatch tabGetD
  by_cases ha : a = 0 <;> simp [updMbx, ha, tabGet_set_ne _ _ h, tabGet_del_ne _ h]

theorem holder_roleChange (n : Nat) (s : State) : holder (roleChange s) n = holder s n := setEvent_holder 7 n _

theorem holder_hostSenderReset (n : Nat) (s : State) : holder (hostSenderReset s) n = holder s n := by
  obtain ⟨-, -, -, -, -, -, hlatches, -⟩ := fields_of_steady (steady_hostSenderReset s)
  exact congrArg (fun t => tabGetD t n 0) hlatches

theorem holder_takeLatch (n a m : Nat) (s : State) : holder (takeLatch n a s) m = holder (setLatch n a s) m := by
  unfold takeLatch when
  split
  · exact holder_roleChange m _
  · rfl

theorem holder_freeLatch (n m : Nat) (s : State) : holder (freeLatch n s) m = holder (setLatch n 0 s) m := by
  unfold freeLatch
  dsimp only
  split
  · exact holder_roleChange m _
  · split <;> rfl

theorem holder_when (c : Bool) (m : Nat) (s : State) : holder (when c hostSenderReset s) m = holder s m := by
  cases c
  · rfl
  · exact holder_hostSenderReset m s

/-- The PF of an agent number has that agent number. -/
theorem agentPf_cases {a : Nat} : agentPf a = none ∨ ∃ p, agentPf a = some p ∧ p.agent = a ∧ a ≤ 2 := by
  unfold agentPf
  by_cases h1 : a = 1
  · exact .inr ⟨.port0, if_pos h1, h1.symm, by omega⟩
  · by_cases h2 : a = 2
    · exact .inr ⟨.port1, by rw [if_neg h1, if_pos h2], h2.symm, by omega⟩
    · exact .inl (by rw [if_neg h1, if_neg h2])

theorem latchReadBy_eq {s : State} {a n : Nat} (h1 : 1 ≤ a) (h20 : a ≤ 20) (hn : n ≤ 15) (hg : a ≤ 2 → gated s = false) :
    latchReadBy a n s = answer (readLatch a n s) := by
  unfold latchReadBy
  rw [if_neg (by omega)]
  obtain h | ⟨p, h, hp, h2⟩ := agentPf_cases (a := a)
  · rw [h]
  · rw [h, ← hp, ← read4_latch p hn (hg h2)]

theorem latchWriteBy_eq {s : State} {a n : Nat} (v : Word) (h1 : 1 ≤ a) (h20 : a ≤ 20) (hn : n ≤ 15)
    (hg : a ≤ 2 → gated s = false) : latchWriteBy a n v s = writeLatch a n v s := by
  unfold latchWriteBy
  rw [if_neg (by omega)]
  obtain h | ⟨p, h, hp, h2⟩ := agentPf_cases (a := a)
  · rw [h]
  · have hw : wordOf v.toNat = v := by rw [wordOf, BitVec.ofNat_toNat, BitVec.setWidth_eq]
    have e := write4_latch p v.toNat hn (hg h2)
    rw [hw, hp] at e
    rw [h]
    exact e

/-- Settles O15: what an access does goes by the holder; what a change of holder brings about beside leaves the table
of latches alone. -/
theorem latchesHaveOneHolder : Obligations.LatchesHaveOneHolder := by
  unfold Obligations.LatchesHaveOneHolder
  intro s a n h1 h20 hn hg
  have hread : exec (.latchRead a n) s = .next (answer (readLatch a n { s with emit := [] })) :=
    congrArg Host.Outcome.next (latchReadBy_eq (s := { s with emit := [] }) h1 h20 hn hg)
  have hwrite : ∀ v, exec (.latchWrite a n v) s = .next (writeLatch a n v { s with emit := [] }) := fun v =>
    congrArg Host.Outcome.next (latchWriteBy_eq (s := { s with emit := [] }) v h1 h20 hn hg)
  have honly : Only [.mbx, .prot, .inst, .ecc, .emit] s { s with emit := [] } := only_emit _ (only_refl _ _) (by decide)
  refine ⟨fun hf => ?free, fun hh => ?own, fun h0 hh => ?held, fun hh => ?release, fun v hv => ?noRelease⟩
  case free =>
    have e : readLatch a n { s with emit := [] } = (0, takeLatch n a { s with emit := [] }) := if_pos hf
    rw [e] at hread
    refine ⟨_, hread, ?_, ?_, fun m hm => ?_, ?_⟩
    · exact List.mem_append_right _ (List.mem_singleton_self _)
    · exact (holder_takeLatch n a n _).trans (holder_setLatch_self n a _)
    · exact (holder_takeLatch n a m _).trans (holder_setLatch_ne a _ hm)
    · exact send_only _ _ (takeLatch_only n a _ (only_emit _ (only_refl _ _) (by decide)) (by decide)) (by decide)
  case own =>
    have e : readLatch a n { s with emit := [] } = (0, { s with emit := [] }) :=
      (if_neg (show ¬holder s n = 0 by omega)).trans (if_pos hh)
    rw [e] at hread
    exact hread
  case held =>
    have e : readLatch a n { s with emit := [] } = (holder s n, { s with emit := [] }) :=
      (if_neg h0).trans (if_neg hh)
    rw [e] at hread
    exact hread
  case release =>
    have e : writeLatch a n 0 { s with emit := [] } =
        freeLatch n (when (decide (n = 1)) hostSenderReset { s with emit := [] }) :=
      if_pos ⟨rfl, hh, by omega⟩
    have hw := (hwrite 0).trans (congrArg Host.Outcome.next e)
    refine ⟨_, hw, ?_, fun m hm => ?_, ?_⟩
    · exact (holder_freeLatch n n _).trans (holder_setLatch_self n 0 _)
    · exact (holder_freeLatch n m _).trans ((holder_setLatch_ne 0 _ hm).trans (holder_when _ m _))
    · exact freeLatch_only n _ (only_when _ _ honly fun t ht => hostSenderReset_only t ht (by decide)) (by decide)
  case noRelease =>
    have e : writeLatch a n v { s with emit := [] } = { s with emit := [] } :=
      if_neg fun ⟨h0, hh, _⟩ => hv.elim (fun h => h h0) (fun h => h hh)
    exact (hwrite v).trans (congrArg Host.Outcome.next e)

end Sys2Proof.Machine
end

section
/-! SUPPORT. The queries over SCP answer from the state, and PLACE_POLICY_SET leaves a policy due. -/

namespace Sys2Proof.Machine

theorem Does.imp {c : Instr} {s : State} {p q : State → Prop} (h : Does c s p) (hpq : ∀ t, p t → q t) : Does c s q := by
  obtain ⟨t, ht, hp⟩ := h
  exact ⟨t, ht, hpq t hp⟩

/-! ### What taking a request up leaves alone -/

@[simp] theorem takenUp_frame (s : State) : (takenUp s).frame = s.frame := (takenUp_only s).same .frame (by decide)
@[simp] theorem takenUp_host (s : State) : (takenUp s).host = s.host := (takenUp_only s).same .host (by decide)
@[simp] theorem takenUp_zone (s : State) : (takenUp s).zone = s.zone := (takenUp_only s).same .zone (by decide)
@[simp] theorem takenUp_media (s : State) : (takenUp s).media = s.media := (takenUp_only s).same .media (by decide)
@[simp] theorem takenUp_flash (s : State) : (takenUp s).flash = s.flash := (takenUp_only s).same .flash (by decide)
@[simp] theorem takenUp_inst (s : State) : (takenUp s).inst = s.inst := (takenUp_only s).same .inst (by decide)
@[simp] theorem takenUp_prot (s : State) : (takenUp s).prot = s.prot := (takenUp_only s).same .prot (by decide)
@[simp] theorem takenUp_fw (s : State) : (takenUp s).fw = s.fw := (takenUp_only s).same .fw (by decide)
@[simp] theorem takenUp_power (s : State) : (takenUp s).power = s.power := (takenUp_only s).same .power (by decide)
@[simp] theorem takenUp_therm (s : State) : (takenUp s).therm = s.therm := (takenUp_only s).same .therm (by decide)
@[simp] theorem takenUp_mgmt (s : State) : (takenUp s).mgmt = s.mgmt := (takenUp_only s).same .mgmt (by decide)
@[simp] theorem takenUp_recd (s : State) : (takenUp s).recd = s.recd := (takenUp_only s).same .recd (by decide)

/-- The mailbox of a request taken up, but for its events. -/
theorem takenUp_evMbx {s : State} {op : Nat} {r : Posted} (a : Asks s op r) :
    evMbx (takenUp s).mbx = evMbx { s.mbx with outQ := [] } := takeHead_evMbx a.act.head

theorem takenUp_inDropped {s : State} {op : Nat} {r : Posted} (a : Asks s op r) :
    (takenUp s).mbx.inDropped = s.mbx.inDropped := by
  have h := congrArg (fun m : MbxSt => m.inDropped) (takenUp_evMbx a)
  exact h

theorem takenUp_holder {s : State} {op : Nat} {r : Posted} (a : Asks s op r) (n : Nat) :
    holder (takenUp s) n = holder s n := congrArg (fun t => tabGetD t n 0) (takenUp_latches a)

/-! ### Requests that act and are answered -/

/-- A reply leaves every group but the mailbox and what is sent out. -/
theorem reply_same {p : Part} (hp : p ∉ [Part.mbx, .emit]) (r : Posted) (status : Nat) (payload : List Nat) (x : State) :
    p.same x (reply r status payload x) :=
  (reply_only r status payload x (only_refl [.mbx, .emit] x) (List.Subset.refl _)).same p hp

/-- A request that passes its checks changes the groups `ps`, outside the mailbox, and is answered. -/
theorem scp_acts {c : Instr} {s : State} {op : Nat} {f : Form} {fault : Posted → Option Nat}
    {body : Posted → State → State} {r : Posted} {status : Nat} {payload : List Nat} {x : State} {ps : List Part}
    (hc : exec c s = act (scp op f fault body) s) (a : Asks s op r) (hf : formFault r f = none)
    (hm : f.mgr = true → holder s 0 = r.agent) (ho : (descOwn r f).or (fault r) = none)
    (hb : body r (takenUp s) = reply r status payload x) (hx : Only ps (takenUp s) x) (hp : .mbx ∉ ps)
    (hl : payload.length ≤ 15) {q : State → Prop}
    (hq : (∀ p ∉ [Part.mbx, .emit], p.same x (reply r status payload x)) →
      Only (.mbx :: .emit :: ps) s (reply r status payload x) → q (reply r status payload x)) :
    Does c s fun t => Answers s t r status payload ∧ q t := by
  refine scp_replies hc a hf hm ho hb ((quiet_takenUp a).of_only hx hp) hl (hq (fun p hp => reply_same hp r _ _ x) ?_)
  have hup : Only (.mbx :: .emit :: ps) s x :=
    ((takenUp_only s).mono (by simp)).trans (hx.mono (by simp))
  exact reply_only r status payload x hup (by simp)

/-! ### Queries -/

/-- A query that passes its checks is answered OK with its fifteen words, read as it is taken up. -/
theorem scp_query {c : Instr} {s : State} {op : Nat} {f : Form} {fault : Posted → Option Nat}
    {words : Posted → State → List Nat} {r : Posted}
    (hc : exec c s = act (scp op f fault fun r s => replyOk r (words r s) s) s) (a : Asks s op r)
    (hf : formFault r f = none) (hm : f.mgr = true → holder s 0 = r.agent) (ho : (descOwn r f).or (fault r) = none)
    (hl : (words r (takenUp s)).length = 15) {P : List Nat → Prop} (hP : P (words r (takenUp s))) :
    Does c s fun t => (∃ l : List Nat, l.length = 15 ∧ Answers s t r 0x00 l ∧ P l) ∧ Only [.mbx, .emit] s t := by
  have h := scp_replies (p := Only [.mbx, .emit] s) hc a hf hm ho rfl (quiet_takenUp a) (Nat.le_of_eq hl)
    (replyOk_only r _ _ (takenUp_only s) (by decide))
  exact h.imp fun t ⟨ht, honly⟩ => ⟨⟨_, hl, ht, hP⟩, honly⟩

theorem stateCode_le (s : State) : stateCode s ≤ 2 := by
  unfold stateCode
  split
  · decide
  · split <;> decide

theorem statusWords_length (own : Nat) (s : State) : (statusWords own s).length = 15 := by
  simp [statusWords]

theorem statusGet_answers {s : State} {r : Posted} (a : Asks s 0x02 r)
    (hf : formFault r (Form.plain [0] false) = none) : Does .statusGet s fun t =>
      (∃ l : List Nat, l.length = 15 ∧ Answers s t r 0x00 l ∧ l.getD 0 0 / 2 ^ 8 % 2 ^ 8 = holder s 0 % 2 ^ 8 ∧
       l.getD 1 0 = s.frame.counter % 2 ^ 32 ∧ l.getD 2 0 = s.frame.counter / 2 ^ 32 ∧
       l.getD 3 0 = s.mbx.hostEpoch.toNat + s.mbx.devEpoch.toNat * 2 ^ 16 ∧ l.getD 5 0 = s.mbx.inDropped) ∧
      Only [.mbx, .emit] s t := by
  have q := quiet_takenUp a
  refine scp_query rfl a hf nofun rfl (statusWords_length _ _) ⟨?_, ?_, ?_, ?_, ?_⟩
  · have h := stateCode_le (takenUp s)
    change (stateCode (takenUp s) + holder (takenUp s) 0 * 2 ^ 8 + min (tagsOut (takenUp s)).length 255 * 2 ^ 16) /
      2 ^ 8 % 2 ^ 8 = _
    rw [takenUp_holder a]
    omega
  · exact congrArg (fun f : FrameSt => f.counter % 2 ^ 32) (takenUp_frame s)
  · exact congrArg (fun f : FrameSt => f.counter / 2 ^ 32) (takenUp_frame s)
  · change (takenUp s).mbx.hostEpoch.toNat + (takenUp s).mbx.devEpoch.toNat * 2 ^ 16 = _
    rw [q.host, q.dev]
  · exact takenUp_inDropped a

theorem words15_length {l : List Nat} (h : l.length ≤ 15) : (words15 l).length = 15 := by
  simp [words15, h]

theorem placeOwner_length (s : State) (o : Nat) : (placeOwner s o).length ≤ 15 := by
  unfold placeOwner
  split
  · decide
  · exact Nat.le_of_ble_eq_true rfl

theorem placeDie_length (s : State) (d : Nat) : (placeDie s d).length ≤ 15 := by
  unfold placeDie
  split
  · decide
  · exact Nat.le_of_ble_eq_true rfl

/-- The words of PLACE_QUERY before they are filled up. -/
def placeWords (r : Posted) (s : State) : List Nat :=
  if r.pw 0 = 0 then placeDevice s else if r.pw 0 = 1 then placeOwner s (r.pw 1) else placeDie s (r.pw 1)

theorem placeWords_length (r : Posted) (s : State) : (placeWords r s).length ≤ 15 := by
  unfold placeWords
  split
  · exact Nat.le_of_ble_eq_true rfl
  · split
    · exact placeOwner_length _ _
    · exact placeDie_length _ _

theorem countGroups_takenUp (s : State) (f : Group → Bool) : countGroups (takenUp s) f = countGroups s f :=
  congrArg (fun m : MediaSt => (m.groups.filter fun p : Nat × Group => f p.2).length) (takenUp_media s)

theorem placeQuery_answers {s : State} {r : Posted}
    (a : Accepted s 0x81 r (Form.plain [2] false [(0, 0xFFFFFF00)]) placeFault) : Does .placeQuery s fun t =>
      (∃ l : List Nat, l.length = 15 ∧ Answers s t r 0x00 l ∧
        (r.pw 0 = 0 → l.getD 0 0 = countGroups s Group.openNow % 2 ^ 32 ∧
          l.getD 1 0 = countGroups s Group.holds % 2 ^ 32)) ∧ Only [.mbx, .emit] s t := by
  refine scp_query (words := fun r s => words15 (placeWords r s)) rfl a.asks a.form a.manager a.payload
    (words15_length (placeWords_length _ _)) fun h0 => ?_
  rw [placeWords, if_pos h0, ← countGroups_takenUp s, ← countGroups_takenUp s]
  exact ⟨rfl, rfl⟩

/-- The words of PWR_COUNTERS. -/
def pwrQueryWords (r : Posted) (s : State) : List Nat := if r.pw 0 = 0 then pwrWords0 s else pwrWords s (r.pw 0)

theorem pwrQueryWords_length (r : Posted) (s : State) : (pwrQueryWords r s).length = 15 := by
  unfold pwrQueryWords
  split <;> rfl

theorem pwrCounters_answers {s : State} {r : Posted} (a : Accepted s 0x90 r (Form.plain [1] false [(0, 0xFFFFFF00)])
    (fun r => if 2 < r.pw 0 then some 1 else none)) : Does .pwrCounters s fun t =>
      (∃ l : List Nat, l.length = 15 ∧ Answers s t r 0x00 l ∧
        (r.pw 0 = 0 → l.getD 1 0 = tabGetD s.power.entries 1 0 ∧ l.getD 5 0 = s.power.wakesInEntry ∧
          l.getD 8 0 = s.power.flushes) ∧
        (r.pw 0 = 1 → l.getD 0 0 = tabGetD s.power.ref3.counts 1 0) ∧
        (r.pw 0 = 2 → l.getD 0 0 = tabGetD s.power.ref4.counts 1 0)) ∧ Only [.mbx, .emit] s t := by
  refine scp_query (words := pwrQueryWords) rfl a.asks a.form a.manager a.payload (pwrQueryWords_length _ _)
    ⟨fun h0 => ?_, fun h1 => ?_, fun h2 => ?_⟩
  · rw [pwrQueryWords, if_pos h0, ← takenUp_power s]
    exact ⟨rfl, rfl, rfl⟩
  · rw [pwrQueryWords, if_neg (by omega), h1, ← takenUp_power s]
    rfl
  · rw [pwrQueryWords, if_neg (by omega), h2, ← takenUp_power s]
    rfl

theorem thermWords_length (s : State) (q : Nat) : (thermWords s q).length = 15 := by
  unfold thermWords
  split
  · rfl
  · split <;> rfl

theorem diodeWord_takenUp (s : State) (d : Nat) : diodeWord (takenUp s) d = diodeWord s d := by
  unfold diodeWord
  rw [takenUp_therm]

theorem thermWords1_diodes (s : State) (i : Nat) (hi : i < 8) :
    (thermWords s 1).getD i 0 = diodeWord s (2 * i) + diodeWord s (2 * i + 1) * 2 ^ 16 := by
  change (thermWords1 s).getD i 0 = _
  rw [thermWords1, List.getD_eq_getElem?_getD, List.getElem?_append_left (by simpa using hi)]
  simp [hi]

theorem thermQuery_answers {s : State} {r : Posted} (a : Accepted s 0xA0 r (Form.plain [1] false [(0, 0xFFFFFF00)])
    (fun r => if 2 < r.pw 0 then some 1 else none)) : Does .thermQuery s fun t =>
      (∃ l : List Nat, l.length = 15 ∧ Answers s t r 0x00 l ∧
        (r.pw 0 = 0 → l.getD 4 0 = s.therm.tWarn + s.therm.tThrottle * 2 ^ 8 ∧ l.getD 7 0 = s.therm.trips) ∧
        (r.pw 0 = 1 → ∀ i < 8, l.getD i 0 = diodeWord s (2 * i) + diodeWord s (2 * i + 1) * 2 ^ 16)) ∧
      Only [.mbx, .emit] s t := by
  refine scp_query (words := fun r s => thermWords s (r.pw 0)) rfl a.asks a.form a.manager a.payload
    (thermWords_length _ _) ⟨fun h0 => ?_, fun h1 i hi => ?_⟩
  · rw [h0, ← takenUp_therm s]
    exact ⟨rfl, rfl⟩
  · rw [h1, thermWords1_diodes _ i hi, diodeWord_takenUp, diodeWord_takenUp]

/-! ### PLACE_POLICY_SET (R195) -/

/-- The policy that a request makes of `p`. -/
def policyOf (r : Posted) (p : Policy) : Policy :=
  { gcShare := if bitOf (r.pw 0) 0 then bits (r.pw 1) 7 0 else p.gcShare
    matchShift := if bitOf (r.pw 0) 1 then bits (r.pw 1) 15 8 else p.matchShift
    lcAge := if bitOf (r.pw 0) 2 then policyAges r else p.lcAge }

theorem placePolicySet_eq (r : Posted) (s : State) : placePolicySet r s =
    replyOk r [] (updMedia (fun m => { m with policyDue := some (policyOf r (s.media.policyDue.getD s.media.policy)) }) s) := by
  unfold placePolicySet policyOf
  cases bitOf (r.pw 0) 0 <;> cases bitOf (r.pw 0) 1 <;> cases bitOf (r.pw 0) 2 <;> rfl

theorem placePolicySet_answers {s : State} {r : Posted}
    (a : Accepted s 0x80 r (Form.plain [4] true [(0, 0xFFFFFFF8), (1, 0xFFFF0000), (3, 0xFF000000)]) policyFault)
    (hd : s.media.policyDue = none) : Does .placePolicySet s fun t => Answers s t r 0x00 [] ∧
      t.media = { s.media with policyDue := some (policyOf r s.media.policy) } ∧ Only [.mbx, .media, .emit] s t := by
  have hdue : (takenUp s).media.policyDue.getD (takenUp s).media.policy = s.media.policy := by
    rw [takenUp_media, hd]; rfl
  have hb := placePolicySet_eq r (takenUp s)
  rw [hdue] at hb
  refine scp_acts rfl a.asks a.form a.manager a.payload hb (updMedia_only (ps := [.media]) _ _ (only_refl _ _) (by decide))
    (by decide) (Nat.zero_le _) fun hsame honly => ⟨?_, honly.mono (by decide)⟩
  exact (hsame .media (by decide)).trans (by rw [updMedia_media, takenUp_media])

/-- Settles O18: each query's words are read in the state in which it is taken up, where only the mailbox differs. -/
theorem policyAndQueries : Obligations.PolicyAndQueries := by
  unfold Obligations.PolicyAndQueries
  refine ⟨fun s r a hf => statusGet_answers a hf,
    fun s r => ⟨fun a hd => ?policy, placeQuery_answers, pwrCounters_answers, thermQuery_answers⟩⟩
  refine (placePolicySet_answers a hd).imp fun t ⟨ht, hm, honly⟩ => ⟨ht, ?_, ?_, honly⟩
  · exact ⟨policyOf r s.media.policy, by rw [hm], rfl, rfl, rfl⟩
  · rw [hm]

end Sys2Proof.Machine
end

section
/-! SUPPORT. What finishing a work item leaves of the controllers: all but the posted entry, the frames of the queue's
last completions, its vector's pending count and the counts of the function's logs. -/

namespace Sys2Proof.Machine

/-- A submission queue but for its last completions. -/
def Sq.core (q : Sq) : Sq := { q with lastPost := none, lastOrd := none }

/-- A completion queue but for its entries. -/
def Cq.core (q : Cq) : Cq := { q with entries := [], tail := 0, waiting := [] }

/-- What of a controller no completion changes: everything but its error log and its counts of commands, each
submission queue but for its last completions, each completion queue but for its entries, and Coalescing Disable of
each vector. -/
def ctlCore (c : Ctl) : Ctl × (Nat → Option Sq) × (Nat → Option Cq) × (Nat → Bool) :=
  ({ c with sqs := [], cqs := [], vecs := [], errs := [], errCount := 0, cmdsRead := 0, cmdsWritten := 0 },
   fun k => (tabGet c.sqs k).map Sq.core,
   fun k => (tabGet c.cqs k).map Cq.core,
   fun v => (vecOf c v).cd)

/-- Every function's controller is the same but for what a completion changes. -/
structure CtlsKept (s t : State) : Prop where
  core : ∀ fn, (ctlOf t fn).map ctlCore = (ctlOf s fn).map ctlCore

namespace CtlsKept

theorem refl (s : State) : CtlsKept s s := ⟨fun _ => rfl⟩

theorem trans {s t u : State} (h : CtlsKept s t) (k : CtlsKept t u) : CtlsKept s u :=
  ⟨fun fn => (k.core fn).trans (h.core fn)⟩

theorem of_ctls {s t : State} (h : t.host.ctls = s.host.ctls) : CtlsKept s t :=
  ⟨fun fn => by unfold ctlOf; rw [h]⟩

theorem updCtl {s : State} {fn : Nat} {f : Ctl → Ctl} (h : ∀ c, ctlOf s fn = some c → ctlCore (f c) = ctlCore c) :
    CtlsKept s (updCtl fn f s) := by
  constructor
  intro k
  by_cases e : k = fn
  · subst e
    rw [ctlOf_updCtl]
    cases hc : ctlOf s k with
    | none => rfl
    | some c => exact congrArg some (h c hc)
  · rw [ctlOf_updCtl_ne s f e]

theorem when {s : State} (b : Bool) {f : State → State} (h : CtlsKept s (f s)) : CtlsKept s (when b f s) := by
  cases b
  · exact refl s
  · exact h

theorem some {s t : State} {fn : Nat} {c : Ctl} (h : CtlsKept s t) (hc : ctlOf s fn = some c) :
    ∃ c', ctlOf t fn = some c' ∧ ctlCore c' = ctlCore c := by
  have e := h.core fn
  rw [hc] at e
  cases hc' : ctlOf t fn with
  | none => rw [hc'] at e; cases e
  | some c' => rw [hc'] at e; exact ⟨c', rfl, Option.some.inj e⟩

end CtlsKept

theorem tabGet_set_map {α β : Type} {t : Tab α} {k : Nat} {a b : α} (g : α → β) (hb : tabGet t k = some b)
    (hg : g a = g b) : (fun j => (tabGet (tabSet t k a) j).map g) = fun j => (tabGet t j).map g := by
  funext j
  by_cases h : j = k
  · rw [h, tabGet_set_self, hb, Option.map_some, Option.map_some, hg]
  · rw [tabGet_set_ne _ _ h]

theorem tabGet_upd_map {α β : Type} (t : Tab α) (k : Nat) {f : α → α} (g : α → β) (hg : ∀ a, g (f a) = g a) :
    (fun j => (tabGet (tabUpd t k f) j).map g) = fun j => (tabGet t j).map g := by
  cases h : tabGet t k with
  | none => rw [tabUpd, h]
  | some a => rw [tabUpd, h]; exact tabGet_set_map g h (hg a)

theorem ctlCore_vecs (c : Ctl) (v pend since : Nat) :
    ctlCore { c with vecs := tabSet c.vecs v { cd := (vecOf c v).cd, pend := pend, since := since } } = ctlCore c := by
  have h : (fun k => (vecOf { c with vecs := tabSet c.vecs v { cd := (vecOf c v).cd, pend := pend, since := since } } k).cd)
      = fun k => (vecOf c k).cd := by
    funext k
    by_cases e : k = v
    · subst e; simp [vecOf, tabGetD]
    · simp [vecOf, tabGetD, tabGet_set_ne _ _ e]
  exact Prod.ext rfl (Prod.ext rfl (Prod.ext rfl h))

theorem ctlCore_sqs (c : Ctl) (k : Nat) {f : Sq → Sq} (hf : ∀ q, (f q).core = q.core) :
    ctlCore { c with sqs := tabUpd c.sqs k f } = ctlCore c :=
  Prod.ext rfl (Prod.ext (tabGet_upd_map c.sqs k Sq.core hf) rfl)

theorem ctlCore_cqs {c : Ctl} {k : Nat} {p q : Cq} (hq : tabGet c.cqs k = some q) (hp : p.core = q.core) :
    ctlCore { c with cqs := tabSet c.cqs k p } = ctlCore c :=
  Prod.ext rfl (Prod.ext rfl (Prod.ext (tabGet_set_map Cq.core hq hp) rfl))

theorem ctlsKept_signal (fn cq v : Nat) (s : State) : CtlsKept s (signal fn cq v s) := by
  unfold signal
  cases hc : ctlOf s fn with
  | none => exact .refl s
  | some c =>
    dsimp only
    split
    · refine CtlsKept.trans (CtlsKept.updCtl fun c' hc' => ?_) (.of_ctls rfl)
      cases hc.symm.trans hc'
      exact ctlCore_vecs c v 0 _
    · refine CtlsKept.updCtl fun c' hc' => ?_
      cases hc.symm.trans hc'
      exact ctlCore_vecs c v _ _

theorem ctlsKept_postCqe (fn cq : Nat) (e : Cqe) (s : State) : CtlsKept s (postCqe fn cq e s) := by
  unfold postCqe
  cases hc : ctlOf s fn with
  | none => exact .refl s
  | some c =>
    dsimp only
    cases hq : tabGet c.cqs cq with
    | none => exact .refl s
    | some q =>
      dsimp only
      have hput : ∀ p : Cq, p.core = q.core →
          CtlsKept s (updCtl fn (fun c => { c with cqs := tabSet c.cqs cq p }) s) := by
        refine fun p hp => .updCtl fun c' hc' => ?_
        cases hc.symm.trans hc'
        exact ctlCore_cqs hq hp
      split
      · exact (hput { q with entries := q.entries ++ [e], tail := (q.tail + 1) % q.size } rfl).trans
          (.when _ (ctlsKept_signal _ _ _ _))
      · exact hput { q with waiting := q.waiting ++ [e] } rfl

theorem ctlsKept_stampSq (it : Item) (s : State) : CtlsKept s (stampSq it s) :=
  .updCtl fun c _ => ctlCore_sqs c _ fun _ => rfl

theorem ctlsKept_countPosted (it : Item) (s : State) : CtlsKept s (countPosted it s) := by
  unfold countPosted
  refine CtlsKept.trans ?_ (.when _ (.of_ctls rfl))
  refine CtlsKept.trans ?_ (.updCtl fun c _ => rfl)
  refine CtlsKept.trans (t := when (isWriteOpc it.opc) (recHist 1 (clk s - it.bell))
    (when (isReadOpc it.opc) (recHist 0 (clk s - it.bell)) s)) ?_ (.of_ctls rfl)
  exact (CtlsKept.when _ (.of_ctls rfl)).trans (.when _ (.of_ctls rfl))

theorem ctlsKept_postItem (n : Nat) (s : State) : CtlsKept s (postItem n s) := by
  unfold postItem
  split
  · exact .refl s
  · split
    · exact .refl s
    · rename_i it _
      split
      · exact .refl s
      · rename_i st _
        have hdrop : CtlsKept s (dropItem n s) := .of_ctls rfl
        dsimp only
        split
        · exact hdrop
        · have hstamp := (hdrop.trans (.when st.failed (f := updCtl it.id.fn (addErr it st)) (.updCtl fun c _ => rfl))).trans
            (ctlsKept_stampSq it _)
          have hcount := hstamp.trans (.when it.io (ctlsKept_countPosted it _))
          split
          · exact hcount
          · exact hcount.trans (ctlsKept_postCqe _ _ _ _)

/-- Finishing a work item. -/
theorem ctlsKept_finish (n : Nat) (st : Status) (dw0 dw1 : Word) (s : State) : CtlsKept s (finish n st dw0 dw1 s) :=
  CtlsKept.trans (t := latch n st dw0 dw1 s) (.of_ctls rfl) (ctlsKept_postItem n _)

/-! ### The other functions, the rest of the host's state, and what is sent out -/

/-- Of the host's state, only the tag table and function `fn`'s controller may differ, and more may have been sent out. -/
structure FnOnly (fn : Nat) (s t : State) : Prop where
  others : ∀ k, k ≠ fn → ctlOf t k = ctlOf s k
  rest : { t.host with items := [], ctls := [] } = { s.host with items := [], ctls := [] }
  sent : s.emit <+: t.emit

namespace FnOnly

theorem refl (fn : Nat) (s : State) : FnOnly fn s s := ⟨fun _ _ => rfl, rfl, List.prefix_refl _⟩

theorem trans {fn : Nat} {s t u : State} (h : FnOnly fn s t) (k : FnOnly fn t u) : FnOnly fn s u :=
  ⟨fun j hj => (k.others j hj).trans (h.others j hj), k.rest.trans h.rest, h.sent.trans k.sent⟩

theorem of_host {fn : Nat} {s t : State} (h : t.host = s.host) (he : t.emit = s.emit) : FnOnly fn s t :=
  ⟨fun j _ => by unfold ctlOf; rw [h], by rw [h], he ▸ List.prefix_refl _⟩

theorem of_items {fn : Nat} {s : State} (f : List Item → List Item) : FnOnly fn s (updItems f s) :=
  ⟨fun _ _ => rfl, rfl, List.prefix_refl _⟩

theorem updCtl {fn : Nat} {s : State} (f : Ctl → Ctl) : FnOnly fn s (updCtl fn f s) :=
  ⟨fun _ hk => ctlOf_updCtl_ne s f hk, rfl, List.prefix_refl _⟩

theorem when {fn : Nat} {s : State} (b : Bool) {f : State → State} (h : FnOnly fn s (f s)) : FnOnly fn s (when b f s) := by
  cases b
  · exact refl fn s
  · exact h

end FnOnly

theorem fnOnly_signal (fn cq v : Nat) (s : State) : FnOnly fn s (signal fn cq v s) := by
  unfold signal
  split
  · exact .refl fn s
  · dsimp only
    split
    · exact (FnOnly.updCtl _).trans ⟨fun _ _ => rfl, rfl, List.prefix_append _ _⟩
    · exact .updCtl _

theorem fnOnly_postCqe (fn cq : Nat) (e : Cqe) (s : State) : FnOnly fn s (postCqe fn cq e s) := by
  unfold postCqe
  split
  · exact .refl fn s
  · split
    · exact .refl fn s
    · dsimp only
      split
      · exact (FnOnly.updCtl _).trans (.when _ (fnOnly_signal fn cq _ _))
      · exact .updCtl _

theorem fnOnly_countPosted (it : Item) (s : State) : FnOnly it.id.fn s (countPosted it s) := by
  unfold countPosted
  refine FnOnly.trans ?_ (.when _ (.of_host rfl rfl))
  refine FnOnly.trans ?_ (.updCtl _)
  refine FnOnly.trans (t := when (isWriteOpc it.opc) (recHist 1 (clk s - it.bell))
    (when (isReadOpc it.opc) (recHist 0 (clk s - it.bell)) s)) ?_ (.of_host rfl rfl)
  exact (FnOnly.when _ (.of_host rfl rfl)).trans (.when _ (.of_host rfl rfl))

theorem fnOnly_postItem {n : Nat} {it : Item} {s : State} (h : itemBySeq s n = some it) :
    FnOnly it.id.fn s (postItem n s) := by
  unfold postItem
  split
  · exact .refl _ s
  · rw [h]
    dsimp only
    split
    · exact .refl _ s
    · rename_i st _
      have hdrop : FnOnly it.id.fn s (dropItem n s) := .of_items _
      split
      · exact hdrop
      · have herr := hdrop.trans (.when st.failed (f := updCtl it.id.fn (addErr it st)) (.updCtl _))
        have hstamp := herr.trans (u := stampSq it _) (.updCtl _)
        have hcount := hstamp.trans (.when it.io (fnOnly_countPosted it _))
        split
        · exact hcount
        · exact hcount.trans (fnOnly_postCqe _ _ _ _)

theorem itemBySeq_latched {s : State} {n : Nat} {it : Item} (st : Status) (dw0 dw1 : Word) (h : itemBySeq s n = some it) :
    ∃ k, itemBySeq (latch n st dw0 dw1 s) n = some k ∧ k.id = it.id ∧ k.sqe = it.sqe ∧ k.silent = it.silent := by
  have e := find_map_seq s.host.items n (fun it => if it.outcome.isSome then it
    else { it with outcome := some st, latchedAt := clk s, dw0 := dw0, dw1 := dw1, phase := .done })
    (by intro it; split <;> rfl)
  have e' : itemBySeq (latch n st dw0 dw1 s) n = (itemBySeq s n).map _ := e
  rw [h] at e'
  refine ⟨_, e', ?_⟩
  dsimp only
  split <;> exact ⟨rfl, rfl, rfl⟩

/-- Finishing a work item touches its own function's controller alone. -/
theorem fnOnly_finish {n : Nat} {it : Item} {s : State} (st : Status) (dw0 dw1 : Word) (h : itemBySeq s n = some it) :
    FnOnly it.id.fn s (finish n st dw0 dw1 s) := by
  obtain ⟨k, hk, hid, -, -⟩ := itemBySeq_latched st dw0 dw1 h
  have hp := fnOnly_postItem hk
  rw [hid] at hp
  exact FnOnly.trans (t := latch n st dw0 dw1 s) (.of_items _) hp

/-! ### What an admin command that finishes has done -/

/-- An admin row that has changed nothing of the tag table and the controllers before it finishes. -/
theorem AdminRuns.completes {s x : State} {c : Instr} {id : CmdId} {opc : Nat} {who : Access} {it : Item}
    {body : Item → State → State} {st : Status} {dw0 dw1 : Word} (a : AdminRuns s id opc who it)
    (hc : exec c s = act (admin opc who body id) s) (hb : body it (admitted s it) = finish it.seq st dw0 dw1 x)
    (hi : x.host.items = s.host.items) (hk : x.host.ctls = s.host.ctls) (hp : x.power.flush = s.power.flush)
    {q : State → Prop} (hq : q (finish it.seq st dw0 dw1 x)) :
    Does c s fun t => Completes s t it st dw0 dw1 ∧ q t :=
  ⟨_, (admin_next hc a).trans (congrArg Host.Outcome.next hb), a.finishes st dw0 dw1 hi hk hp, hq⟩

/-- The finished command's item, in a state that has the tag table of `s`. -/
theorem AdminRuns.itemBySeq {s x : State} {id : CmdId} {opc : Nat} {who : Access} {it : Item}
    (a : AdminRuns s id opc who it) (hi : x.host.items = s.host.items) : itemBySeq x it.seq = some it :=
  (itemBySeq_of_items hi _).trans a.unique

theorem AdminRuns.flushing {s : State} {id : CmdId} {opc : Nat} {who : Access} {it : Item}
    (a : AdminRuns s id opc who it) : flushing s = false := adminOpen_flushing a.taken

theorem findItem_id {s : State} {id : CmdId} {it : Item} (h : findItem s id = some it) : it.id = id := by
  simpa using List.find?_some h

theorem AdminRuns.id_eq {s : State} {id : CmdId} {opc : Nat} {who : Access} {it : Item}
    (a : AdminRuns s id opc who it) : it.id = id := findItem_id a.found

/-- A completion from a state whose completion queues are those of `s`. -/
theorem Completes.of_sameQueues {s x t : State} {it : Item} {st : Status} {dw0 dw1 : Word} (h : Completes x t it st dw0 dw1)
    (hq : SameQueues s x) : Completes s t it st dw0 dw1 := by
  refine ⟨h.gone, fun c q hc hcq hw hr => ?_⟩
  obtain ⟨cx, hcx, hcqs, hof⟩ := hq.ctls _ c hc
  rw [← hof] at hcq ⊢
  exact h.posted cx q hcx (by rw [hcqs]; exact hcq) hw hr

/-- An admin row that has changed, before it finishes, what its function's queues do not hold. -/
theorem AdminRuns.finishes_of_sameQueues {s x : State} {id : CmdId} {opc : Nat} {who : Access} {it : Item} (st : Status)
    (dw0 dw1 : Word) (a : AdminRuns s id opc who it) (hi : x.host.items = s.host.items) (hq : SameQueues s x)
    (hp : x.power.flush = s.power.flush) : Completes s (finish it.seq st dw0 dw1 x) it st dw0 dw1 :=
  (finish_completes (s := x) st dw0 dw1 (a.itemBySeq hi) a.fresh a.heard
    (by unfold Machine.flushing; rw [hp]; exact a.flushing) rfl).of_sameQueues hq

end Sys2Proof.Machine
end

section
/-! SUPPORT. Set Features: each feature on its own function, then the completion (R107). -/

namespace Sys2Proof.Machine

/-- A Set Features whose further checks pass reaches its feature's own meaning. -/
theorem setFeature_next {c : Instr} {s : State} {id : CmdId} {fid : Nat} {mgr : Bool} {body : Item → State → State}
    {it : Item} (hc : exec c s = act (setFeature fid mgr body id) s) (a : SetsFeature s id fid mgr it) :
    exec c s = .next (body it (admitted s it)) := by
  have hrow : exec c s = act (admin 0x09 .all (fun it s =>
      if mgr ∧ !isManager s it.id.fn then finishBad it.seq stInvalidField s
      else if dw it.sqe.cdw10 31 31 = 1 then finishBad it.seq (mkStatus 1 0x0D true) s
      else body it s) id) s := by
    have h1 : findItem { s with emit := [] } id = some it := a.runs.found
    rw [hc]
    unfold act setFeature
    simp only [h1, a.feature, ne_eq, not_true_eq_false, if_false]
  have hmgr : ¬(mgr = true ∧ (!isManager (admitted s it) it.id.fn) = true) := by
    rintro ⟨h1, h2⟩
    have h3 : isManager (admitted s it) it.id.fn = true := a.allowed h1
    rw [h3] at h2
    cases h2
  have hsave : ¬dw it.sqe.cdw10 31 31 = 1 := by rw [a.notSaved]; decide
  rw [admin_next hrow a.runs]
  exact congrArg Host.Outcome.next ((if_neg hmgr).trans (if_neg hsave))

/-- The state in which a feature is set and its command not yet finished. -/
def featureState (s : State) (it : Item) (f : Feats → Feats) : State := updFeats it.id.fn f (admitted s it)

theorem sameQueues_updFeats (fn : Nat) (f : Feats → Feats) (s : State) : SameQueues s (updFeats fn f s) :=
  .updCtl _ _ fun _ => ⟨rfl, fun _ => rfl⟩

theorem sameQueues_featureState (s : State) (it : Item) (f : Feats → Feats) : SameQueues s (featureState s it f) :=
  SameQueues.trans (t := admitted s it) (.of_host rfl) (sameQueues_updFeats _ _ _)

/-- A Set Features that sets its feature and finishes. -/
theorem setFeature_sets {c : Instr} {s : State} {id : CmdId} {fid : Nat} {mgr : Bool} {body : Item → State → State}
    {it : Item} {f : Feats → Feats} (hc : exec c s = act (setFeature fid mgr body id) s) (a : SetsFeature s id fid mgr it)
    (hb : body it (admitted s it) = finishOk it.seq (featureState s it f)) : Does c s fun t => FeatureSet s t it f := by
  have hit : itemBySeq (featureState s it f) it.seq = some it := a.runs.itemBySeq rfl
  refine ⟨_, (setFeature_next hc a).trans (congrArg Host.Outcome.next hb), ?completes, fun c hcs => ?set, fun fn hfn => ?others⟩
  case completes => exact a.runs.finishes_of_sameQueues stOk 0 0 rfl (sameQueues_featureState s it f) rfl
  case set =>
    have hset : ctlOf (featureState s it f) it.id.fn = some { c with feats := f c.feats } := by
      have h : ctlOf (admitted s it) it.id.fn = some c := hcs
      rw [featureState, updFeats, ctlOf_updCtl, h]
      rfl
    obtain ⟨c', hc', hcore⟩ := (ctlsKept_finish it.seq stOk 0 0 (featureState s it f)).some hset
    exact ⟨c', hc', congrArg (fun p => p.1.feats) hcore⟩
  case others =>
    exact ((fnOnly_finish stOk 0 0 hit).others fn hfn).trans (ctlOf_updCtl_ne (admitted s it) _ hfn)

/-- A Set Features that changes nothing of its function and finishes. -/
theorem setFeature_finishes {c : Instr} {s : State} {id : CmdId} {fid : Nat} {mgr : Bool} {body : Item → State → State}
    {it : Item} {x : State} {dw0 : Word} (hc : exec c s = act (setFeature fid mgr body id) s)
    (a : SetsFeature s id fid mgr it) (hb : body it (admitted s it) = finish it.seq stOk dw0 0 x)
    (hx : x.host.items = s.host.items ∧ SameQueues s x ∧ x.power.flush = s.power.flush) {q : State → Prop}
    (hq : q (finish it.seq stOk dw0 0 x)) : Does c s fun t => Completes s t it stOk dw0 0 ∧ q t := by
  obtain ⟨hi, hk, hp⟩ := hx
  exact ⟨_, (setFeature_next hc a).trans (congrArg Host.Outcome.next hb),
    a.runs.finishes_of_sameQueues stOk dw0 0 hi hk hp, hq⟩

theorem finish_power (n : Nat) (st : Status) (dw0 dw1 : Word) (s : State) :
    (finish n st dw0 dw1 s).power = s.power :=
  (finish_only n st dw0 dw1 s (only_refl [.frame, .host, .inst, .recd, .emit] s) (by decide)).same .power (by decide)

/-! ### The single features -/

theorem setTemperatureThreshold_sets {s : State} {id : CmdId} {it : Item} (a : SetsFeature s id 0x04 false it)
    (hsel : dw it.sqe.cdw11 19 16 = 0 ∨ dw it.sqe.cdw11 19 16 = 15) (hty : dw it.sqe.cdw11 21 20 ≤ 1) :
    Does (.setFeaturesTemperatureThreshold id) s fun t =>
      FeatureSet s t it fun f => if dw it.sqe.cdw11 21 20 = 0 then { f with tempOver := dw it.sqe.cdw11 15 0 }
        else { f with tempUnder := dw it.sqe.cdw11 15 0 } :=
  setFeature_sets rfl a (if_neg (by omega))

theorem setLifetime_sets {s : State} {id : CmdId} {it : Item} (a : SetsFeature s id 0xC4 false it)
    (hlo : 16 ≤ it.sqe.cdw11.toNat) (hhi : it.sqe.cdw11.toNat ≤ 26) :
    Does (.setFeaturesLifetimeLimit id) s fun t =>
      FeatureSet s t it fun f => { f with lifeE := it.sqe.cdw11.toNat } :=
  setFeature_sets rfl a (if_neg (by omega))

theorem setTimestamp_sets {s : State} {id : CmdId} {it : Item} {dma : Dma} (a : SetsFeature s id 0x0E false it)
    (hl : dma.linkFails = false) : Does (.setFeaturesTimestamp id dma) s fun t =>
      FeatureSet s t it fun f => { f with ts := some (fieldAt dma.bytes 0 6), tsFrame := s.frame.elapsed } :=
  setFeature_sets rfl a (if_neg (by rw [hl]; decide))

theorem setNumberOfQueues_answers {s : State} {id : CmdId} {it : Item} {c : Ctl} (a : SetsFeature s id 0x07 false it)
    (hc : ctlOf s it.id.fn = some c) : Does (.setFeaturesNumberOfQueues id) s fun t =>
      Completes s t it stOk (queueCount c) 0 := by
  have hb : setNumberOfQueues it (admitted s it) = finish it.seq stOk (queueCount c) 0 (admitted s it) := by
    have h : ctlOf (admitted s it) it.id.fn = some c := hc
    rw [setNumberOfQueues, h]
  exact (setFeature_finishes (q := fun _ => True) rfl a hb ⟨rfl, .of_host rfl, rfl⟩ trivial).imp fun _ h => h.1

/-- Vector `v` of a controller takes record `r`. -/
def setVec (v : Nat) (r : Vec) (c : Ctl) : Ctl := { c with vecs := tabSet c.vecs v r }

theorem vecOf_setVec (v : Nat) (r : Vec) (c : Ctl) : vecOf (setVec v r c) v = r := by simp [vecOf, setVec, tabGetD]

theorem setVectorConfig_sets {s : State} {id : CmdId} {it : Item} {c : Ctl} (a : SetsFeature s id 0x09 false it)
    (hc : ctlOf s it.id.fn = some c) (hv : dw it.sqe.cdw11 15 0 < c.msix) :
    Does (.setFeaturesInterruptVectorConfig id) s fun t => Completes s t it stOk 0 0 ∧
      ∃ c', ctlOf t it.id.fn = some c' ∧ (vecOf c' (dw it.sqe.cdw11 15 0)).cd = decide (dw it.sqe.cdw11 16 16 = 1) := by
  obtain ⟨v, hvdef⟩ : ∃ v, dw it.sqe.cdw11 15 0 = v := ⟨_, rfl⟩
  obtain ⟨r, hr⟩ : ∃ r, { vecOf c v with cd := decide (dw it.sqe.cdw11 16 16 = 1) } = r := ⟨_, rfl⟩
  have h : ctlOf (admitted s it) it.id.fn = some c := hc
  have hset : ctlOf (updCtl it.id.fn (setVec v r) (admitted s it)) it.id.fn = some (setVec v r c) :=
    (ctlOf_updCtl _ _ _).trans (by rw [h]; rfl)
  have hb : setVectorConfig it (admitted s it) =
      finish it.seq stOk 0 0 (updCtl it.id.fn (setVec v r) (admitted s it)) := by
    rw [setVectorConfig, h, ← hr, ← hvdef]
    exact if_neg (Nat.not_le.mpr hv)
  have hq : SameQueues s (updCtl it.id.fn (setVec v r) (admitted s it)) :=
    SameQueues.trans (t := admitted s it) (.of_host rfl) (.updCtl _ _ fun _ => ⟨rfl, fun _ => rfl⟩)
  refine setFeature_finishes rfl a hb ⟨rfl, hq, rfl⟩ ?_
  obtain ⟨c', hc', hcore⟩ := (ctlsKept_finish it.seq stOk 0 0 _).some hset
  have hcd : (vecOf c' v).cd = (vecOf (setVec v r c) v).cd := congrFun (congrArg (fun p => p.2.2.2) hcore) v
  exact ⟨c', hc', by rw [hvdef, hcd, vecOf_setVec, ← hr]⟩

/-! ### The power features (R425, R426) -/

theorem setPowerManagement_stays {s : State} {id : CmdId} {it : Item} (a : SetsFeature s id 0x02 true it)
    (h4 : dw it.sqe.cdw11 4 0 ≤ 4) (hd : s.power.psDue = []) (he : s.power.entry = none)
    (hps : dw it.sqe.cdw11 4 0 = s.power.ps) : Does (.setFeaturesPowerManagement id) s fun t =>
      Completes s t it stOk 0 0 ∧ t.power = s.power := by
  have hb : setPowerManagement it (admitted s it) = finish it.seq stOk 0 0 (admitted s it) := by
    have h1 : (admitted s it).power.psDue = [] := hd
    have h2 : (admitted s it).power.entry = none := he
    have h3 : dw it.sqe.cdw11 4 0 = (admitted s it).power.ps := hps
    have h5 : ¬4 < (admitted s it).power.ps := h3 ▸ Nat.not_lt.mpr h4
    simp [setPowerManagement, h1, h2, h3, h5, finishOk]
  exact setFeature_finishes rfl a hb ⟨rfl, .of_host rfl, rfl⟩ (finish_power _ _ _ _ _)

theorem setPowerManagement_waits {s : State} {id : CmdId} {it : Item} (a : SetsFeature s id 0x02 true it)
    (h4 : dw it.sqe.cdw11 4 0 ≤ 4) (hd : s.power.psDue = []) (he : s.power.entry = none)
    (hps : dw it.sqe.cdw11 4 0 ≠ s.power.ps) : exec (.setFeaturesPowerManagement id) s = .next { admitted s it with
      power := { s.power with psDue := [(dw it.sqe.cdw11 4 0, it.seq)] } } := by
  have hb : setPowerManagement it (admitted s it) = { admitted s it with
      power := { s.power with psDue := [(dw it.sqe.cdw11 4 0, it.seq)] } } := by
    have h1 : (admitted s it).power = s.power := rfl
    simp [setPowerManagement, Nat.not_lt.mpr h4, h1, hd, he, hps, updPower]
  exact (setFeature_next rfl a).trans (congrArg Host.Outcome.next hb)

theorem tabGet_filter {α : Type} {t : Tab α} {k : Nat} {a : α} {p : Nat × α → Bool} (h : tabGet t k = some a)
    (hp : p (k, a) = true) : tabGet (t.filter p) k = some a := by
  induction t with
  | nil => cases h
  | cons q t ih =>
    obtain ⟨j, b⟩ := q
    by_cases hj : j = k
    case pos =>
      subst hj
      rw [tabGet, if_pos rfl] at h
      obtain rfl : b = a := Option.some.inj h
      rw [List.filter_cons_of_pos hp, tabGet, if_pos rfl]
    case neg =>
      rw [tabGet, if_neg hj] at h
      rw [List.filter_cons]
      split
      · rw [tabGet, if_neg hj]; exact ih h
      · exact ih h

theorem tabGet_map_mem {α : Type} {l : List Nat} {k : Nat} (f : Nat → α) (h : k ∈ l) :
    tabGet (l.map fun i => (i, f i)) k = some (f k) := by
  induction l with
  | nil => cases h
  | cons i l ih =>
    rw [List.map_cons, tabGet]
    by_cases hi : i = k
    · rw [if_pos hi, hi]
    · rw [if_neg hi]
      exact ih ((List.mem_cons.mp h).resolve_left fun e => hi e.symm)

/-- The APST table that a data structure gives. -/
def apstTable (b : List Byte) : Tab Apst :=
  ((List.range 32).map fun i => (i, apstEntry b i)).filter fun e => decide (e.2 ≠ { itps := 0, itpt := 0 })

theorem apstTable_get {b : List Byte} {i : Nat} (hi : i < 32) (he : apstEntry b i ≠ { itps := 0, itpt := 0 }) :
    tabGet (apstTable b) i = some (apstEntry b i) :=
  tabGet_filter (tabGet_map_mem (apstEntry b) (List.mem_range.mpr hi)) (decide_eq_true he)

theorem setApst_sets {s : State} {id : CmdId} {it : Item} {dma : Dma} (a : SetsFeature s id 0x0C true it)
    (hl : dma.linkFails = false) (hok : ∀ i < 32, apstOk i (apstEntry dma.bytes i) = true) :
    Does (.setFeaturesApst id dma) s fun t => Completes s t it stOk 0 0 ∧
      t.power = { s.power with
        apste := decide (dw it.sqe.cdw11 0 0 = 1), apst := apstTable dma.bytes, idleFrom := none } := by
  have hany : (((List.range 32).map fun i => (i, apstEntry dma.bytes i)).any fun p => !apstOk p.1 p.2) = false := by
    rw [List.any_eq_false]
    intro p hp
    obtain ⟨i, hi, rfl⟩ := List.mem_map.mp hp
    rw [hok i (List.mem_range.mp hi)]
    decide
  have hb : setApst dma it (admitted s it) = finish it.seq stOk 0 0 (updPower (fun p => { p with
      apste := decide (dw it.sqe.cdw11 0 0 = 1), apst := apstTable dma.bytes, idleFrom := none }) (admitted s it)) := by
    simp only [setApst, hl, hany, Bool.false_eq_true, if_false]
    rfl
  exact setFeature_finishes rfl a hb ⟨rfl, .of_host rfl, rfl⟩ (finish_power _ _ _ _ _)

/-- Settles O42: a feature is set on its function's controller before the command finishes, and finishing keeps it. -/
theorem featuresAreSet : Obligations.FeaturesAreSet := by
  unfold Obligations.FeaturesAreSet
  intro s id it
  refine ⟨fun a => setFeature_sets rfl a rfl, setTemperatureThreshold_sets, fun a => setFeature_sets rfl a rfl,
    fun c a hc => setNumberOfQueues_answers a hc, fun a => setFeature_sets rfl a rfl,
    fun c a hc hv => setVectorConfig_sets a hc hv, fun a => setFeature_sets rfl a rfl, fun a => setFeature_sets rfl a rfl,
    fun dma a hl => setTimestamp_sets a hl, setLifetime_sets,
    fun a h4 hd he => ⟨setPowerManagement_stays a h4 hd he, setPowerManagement_waits a h4 hd he⟩,
    fun dma a hl hok => (setApst_sets a hl hok).imp fun t ⟨hdone, hpower⟩ => ?_⟩
  rw [hpower]
  exact ⟨hdone, rfl, rfl, fun i hi he => apstTable_get hi he⟩

end Sys2Proof.Machine
end

section
/-! SUPPORT. Doorbells, the fetch of a command, and interrupt aggregation (R98 to R102). -/

namespace Sys2Proof.Machine

/-! ### Wake events (R432, R433) -/

/-- With no entry under way and the hall running, a wake event has nothing to wake. -/
theorem wake_running {s : State} (he : s.power.entry = none) (hp : s.power.ps < 3) : wake s = s := by
  rw [wake, he]
  exact if_neg (by omega)

/-! ### Doorbells -/

/-- Submission queue `k` of a controller takes record `q`. -/
def setSq (k : Nat) (q : Sq) (c : Ctl) : Ctl := { c with sqs := tabSet c.sqs k q }

/-- Completion queue `k` of a controller takes record `q`. -/
def setCq (k : Nat) (q : Cq) (c : Ctl) : Ctl := { c with cqs := tabSet c.cqs k q }

theorem ctlOf_updCtl_some {s : State} {fn : Nat} {c : Ctl} (f : Ctl → Ctl) (h : ctlOf s fn = some c) :
    ctlOf (updCtl fn f s) fn = some (f c) := by rw [ctlOf_updCtl, h]; rfl

theorem tailDoorbell_rings {s : State} {fn sq tail : Nat} {c : Ctl} {q : Sq} (hc : ctlOf s fn = some c)
    (hen : c.en = true) (hq : tabGet c.sqs sq = some q) (ht : tail < q.size) (he : s.power.entry = none)
    (hp : s.power.ps < 3) : tailDoorbell fn sq tail s = updCtl fn (setSq sq { q with
      tail := tail, bells := q.bells ++ List.replicate ((tail + q.size - q.tail) % q.size) s.frame.elapsed }) s := by
  unfold tailDoorbell
  simp only [hc, hen, hq, Bool.not_true, Bool.false_eq_true, if_false, Nat.not_le.mpr ht]
  exact wake_running (s := updCtl fn _ s) he hp

theorem headDoorbell_frees {s : State} {fn cq head : Nat} {c : Ctl} {q : Cq} (hc : ctlOf s fn = some c)
    (hen : c.en = true) (hq : tabGet c.cqs cq = some q) (hw : q.waiting = []) (hh : head < q.size)
    (hk : (head + q.size - q.head) % q.size ≤ q.entries.length) :
    headDoorbell fn cq head s = updCtl fn (setCq cq { q with
      head := head, entries := q.entries.drop ((head + q.size - q.head) % q.size) }) s := by
  have hcond : ¬(q.size ≤ head ∨ q.entries.length < (head + q.size - q.head) % q.size) := by omega
  have hqe : q = { q with waiting := [] } := by rw [← hw]
  unfold headDoorbell
  simp only [hc, hen, hq, Bool.not_true, Bool.false_eq_true, if_false]
  rw [if_neg hcond, hw, fillCq]
  rfl

theorem updCtl_emitted_only (fn : Nat) (f : Ctl → Ctl) (s : State) :
    Only [.host, .emit] s (updCtl fn f { s with emit := [] }) :=
  updCtl_only fn f _ (only_emit _ (only_refl _ _) (by decide)) (by decide)

/-! ### Fetch -/

/-- The state in which a queue engine has moved a queue's head on. -/
def headMoved (fn sq : Nat) (q : Sq) (bells : List Nat) (x : State) : State :=
  updCtl fn (fun c => { c with
    sqs := tabSet c.sqs sq { q with head := (q.head + 1) % q.size, bells := bells }, adminLast := decide (sq = 0)
    lastSq := if sq = 0 then c.lastSq else sq }) x

/-- The state in which a fetched command has entered the tag table. -/
def entered (fn : Nat) (it : Item) (s : State) : State :=
  updItems (fun l => l ++ [it]) { s with host := { s.host with nextSeq := s.host.nextSeq + 1, lastFn := fn } }

/-- A queue whose turn it is has an entry to fetch. -/
structure Fetches (s : State) (fn sq : Nat) (c : Ctl) (q : Sq) (bell : Nat) (bells : List Nat) : Prop where
  ctl : ctlOf s fn = some c
  queue : tabGet c.sqs sq = some q
  waits : q.bells = bell :: bells
  runs : fetchOpen s = true
  enabled : c.en = true
  ready : c.rdy = true
  fetching : c.fetchPaused = false
  kept : c.closing = false
  quiet : silentLeft s fn = false
  fnTurn : fnTurn s fn = true
  sqTurn : sqTurn s fn c sq = true
  shard : sq ≠ 0 → adminDue c = false ∧ shardRuns s fn sq = true

/-- The state in which the fetch's tokens are paid: an admin command takes none. -/
def paid (fn sq : Nat) (e : Sqe) (s : State) : Option State := if sq = 0 then some s else takeTokens fn e s

theorem Fetches.goes {s : State} {fn sq bell : Nat} {c : Ctl} {q : Sq} {bells : List Nat}
    (h : Fetches s fn sq c q bell bells) :
    ¬((!fetchOpen s) = true ∨ (!c.en) = true ∨ (!c.rdy) = true ∨ c.fetchPaused = true ∨ c.closing = true ∨
      silentLeft s fn = true ∨ (sq ≠ 0 ∧ (adminDue c = true ∨ (!shardRuns s fn sq) = true)) ∨
      (!Machine.fnTurn s fn) = true ∨ (!Machine.sqTurn s fn c sq) = true) := by
  have hshard : ¬(sq ≠ 0 ∧ (adminDue c = true ∨ (!shardRuns s fn sq) = true)) := by
    rintro ⟨h0, hs⟩
    obtain ⟨h1, h2⟩ := h.shard h0
    simp [h1, h2] at hs
  simp only [h.runs, h.enabled, h.ready, h.fetching, h.kept, h.quiet, h.fnTurn, h.sqTurn, hshard]
  decide

theorem Fetches.fetch_unpaid {s : State} {fn sq bell : Nat} {c : Ctl} {q : Sq} {bells : List Nat} {e : Sqe}
    (h : Fetches s fn sq c q bell bells) (hx : paid fn sq e s = none) : fetch fn sq e s = noteWait fn s := by
  unfold fetch
  simp only [h.ctl, h.queue, h.waits]
  rw [if_neg h.goes, show (if sq = 0 then some s else takeTokens fn e s) = none from hx]

theorem Fetches.fetch_paid {s x : State} {fn sq bell : Nat} {c : Ctl} {q : Sq} {bells : List Nat} {e : Sqe}
    (h : Fetches s fn sq c q bell bells) (hx : paid fn sq e s = some x) : fetch fn sq e s =
      when (findItem x { fn := fn, sq := sq, cid := e.cid.toNat }).isSome
        (finishBad (newItem x c fn sq bell e).seq stCidConflict)
        (entered fn (newItem x c fn sq bell e) (headMoved fn sq q bells x)) := by
  unfold fetch
  simp only [h.ctl, h.queue, h.waits]
  rw [if_neg h.goes, show (if sq = 0 then some s else takeTokens fn e s) = some x from hx]
  rfl

/-! ### Paying for a fetch leaves everything but the buckets (R341) -/

theorem paid_only {fn sq : Nat} {e : Sqe} {s x : State} (h : paid fn sq e s = some x) : Only [.inst] s x := by
  unfold paid at h
  split at h
  · cases h; exact only_refl _ _
  · exact takeTokens_only2 fn e (only_refl _ _) (by decide) h

theorem drawSurplus_gens {fn : Nat} {k : Kind} {need : Int} {s x : State} (h : drawSurplus fn k need s = some x) :
    x.inst.gens = s.inst.gens := by
  unfold drawSurplus at h
  split at h
  · cases h; rfl
  · split at h
    · cases h
    · cases h; rfl

theorem takeTokens_gens {fn : Nat} {e : Sqe} {s x : State} (h : takeTokens fn e s = some x) :
    x.inst.gens = s.inst.gens := by
  unfold takeTokens at h
  dsimp only at h
  split at h
  · cases h
  split at h
  · cases h
  next s1 h1 =>
    have g1 : s1.inst.gens = s.inst.gens := drawSurplus_gens h1
    split at h
    · cases h
      exact g1
    · split at h
      · cases h
      next s2 h2 =>
        have g2 : s2.inst.gens = s1.inst.gens := drawSurplus_gens h2
        cases h
        exact g2.trans g1

theorem paid_gens {fn sq : Nat} {e : Sqe} {s x : State} (h : paid fn sq e s = some x) : x.inst.gens = s.inst.gens := by
  unfold paid at h
  split at h
  · cases h; rfl
  · exact takeTokens_gens h

/-! ### The fetched command -/

theorem entered_only (fn sq : Nat) (q : Sq) (bells : List Nat) (it : Item) {s x : State} (h : Only [.inst, .emit] s x) :
    Only [.host, .inst, .emit] s (entered fn it (headMoved fn sq q bells x)) :=
  only_host _ (only_host _ (updCtl_only fn _ x (h.mono (by decide)) (by decide)) (by decide)) (by decide)

theorem ctlOf_entered {fn sq : Nat} {q : Sq} {bells : List Nat} {it : Item} {x : State} {c : Ctl}
    (hc : ctlOf x fn = some c) : ∃ c', ctlOf (entered fn it (headMoved fn sq q bells x)) fn = some c' ∧
      tabGet c'.sqs sq = some { q with head := (q.head + 1) % q.size, bells := bells } :=
  ⟨_, ctlOf_updCtl_some (s := x) _ hc, tabGet_set_self _ _ _⟩

theorem itemBySeq_append {l : List Item} {it : Item} (h : ∀ k ∈ l, k.seq ≠ it.seq) :
    (l ++ [it]).find? (fun k => decide (k.seq = it.seq)) = some it := by
  rw [List.find?_append, List.find?_eq_none.mpr fun k hk => by simpa using h k hk]
  simp

theorem cqOf_headMoved {c : Ctl} {k : Nat} {q p : Sq} (hq : tabGet c.sqs k = some q) (hp : p.cq = q.cq) (b : Bool)
    (n sq : Nat) : cqOf { c with sqs := tabSet c.sqs k p, adminLast := b, lastSq := n } sq = cqOf c sq := by
  unfold cqOf
  by_cases h : sq = k
  · subst h; simp [hq, hp]
  · simp [tabGet_set_ne _ _ h]

theorem sameQueues_entered {fn sq : Nat} {q : Sq} {bells : List Nat} {it : Item} {s x : State} {c : Ctl}
    (hk : x.host.ctls = s.host.ctls) (hc : ctlOf s fn = some c) (hq : tabGet c.sqs sq = some q) :
    SameQueues s (entered fn it (headMoved fn sq q bells x)) := by
  have hx : ∀ k, ctlOf x k = ctlOf s k := fun k => by unfold ctlOf; rw [hk]
  constructor
  intro k c' hc'
  by_cases h : k = fn
  case pos =>
    subst h
    cases hc.symm.trans hc'
    exact ⟨_, ctlOf_updCtl_some (s := x) _ ((hx k).trans hc), rfl, fun k =>
      cqOf_headMoved (p := { q with head := (q.head + 1) % q.size, bells := bells }) hq rfl _ _ k⟩
  case neg => exact ⟨c', (ctlOf_updCtl_ne x _ h).trans ((hx k).trans hc'), rfl, fun _ => rfl⟩

theorem fetchOpen_flushing {s : State} (h : fetchOpen s = true) : flushing s = false := by
  simp only [fetchOpen, hallRuns, ctrlRuns, Bool.and_eq_true, Bool.not_eq_true'] at h
  obtain ⟨⟨⟨⟨⟨⟨-, hf⟩, -⟩, -⟩, -⟩, -⟩, -⟩ := h
  exact hf

/-- A fetched command whose CID is in flight fails. -/
theorem entered_conflict {fn sq bell : Nat} {q : Sq} {bells : List Nat} {s x : State} {c : Ctl} {e : Sqe}
    (hx : Only [.inst, .emit] s x) (hc : ctlOf s fn = some c) (hq : tabGet c.sqs sq = some q)
    (hf : flushing s = false) (hn : ∀ k ∈ x.host.items, k.seq ≠ x.host.nextSeq) :
    Completes s (finishBad (newItem x c fn sq bell e).seq stCidConflict
      (entered fn (newItem x c fn sq bell e) (headMoved fn sq q bells x))) (newItem x c fn sq bell e) stCidConflict 0 0 := by
  have hhost : x.host = s.host := hx.same .host (by decide)
  have hfx : flushing x = false := by
    unfold flushing
    rw [show x.power = s.power from hx.same .power (by decide)]
    exact hf
  refine Completes.of_sameQueues (x := entered fn (newItem x c fn sq bell e) (headMoved fn sq q bells x)) ?_
    (sameQueues_entered (by rw [hhost]) hc hq)
  exact finish_completes stCidConflict 0 0 (itemBySeq_append hn) rfl rfl hfx rfl

theorem Fetches.emitted {s : State} {fn sq bell : Nat} {c : Ctl} {q : Sq} {bells : List Nat}
    (h : Fetches s fn sq c q bell bells) : Fetches { s with emit := [] } fn sq c q bell bells :=
  ⟨h.ctl, h.queue, h.waits, h.runs, h.enabled, h.ready, h.fetching, h.kept, h.quiet, h.fnTurn, h.sqTurn, h.shard⟩

theorem Fetches.does {s x : State} {fn sq bell : Nat} {c : Ctl} {q : Sq} {bells : List Nat} {e : Sqe}
    (h : Fetches s fn sq c q bell bells) (hx : paid fn sq e { s with emit := [] } = some x) :
    exec (.commandFetch fn sq e) s = .next (when (findItem x { fn := fn, sq := sq, cid := e.cid.toNat }).isSome
        (finishBad (newItem x c fn sq bell e).seq stCidConflict)
        (entered fn (newItem x c fn sq bell e) (headMoved fn sq q bells x))) :=
  congrArg Host.Outcome.next (h.emitted.fetch_paid hx)

theorem Fetches.enters {s x : State} {fn sq bell : Nat} {c : Ctl} {q : Sq} {bells : List Nat} {e : Sqe}
    (h : Fetches s fn sq c q bell bells) (hx : paid fn sq e { s with emit := [] } = some x)
    (hnew : findItem x { fn := fn, sq := sq, cid := e.cid.toNat } = none) : Does (.commandFetch fn sq e) s fun t =>
      t.host.items = x.host.items ++ [newItem x c fn sq bell e] ∧ t.host.nextSeq = x.host.nextSeq + 1 ∧
      (newItem x c fn sq bell e).gen = genOf s fn ∧ (newItem x c fn sq bell e).sqe = e ∧
      (∃ c', ctlOf t fn = some c' ∧ tabGet c'.sqs sq = some { q with head := (q.head + 1) % q.size, bells := bells }) ∧
      Only [.host, .inst, .emit] s t := by
  have e1 := h.does hx
  rw [hnew] at e1
  have hxs : Only [.inst, .emit] s x :=
    (only_emit _ (only_refl _ s) (by decide)).trans ((paid_only hx).mono (by decide))
  have hctl : ctlOf x fn = some c := by
    unfold ctlOf
    rw [show x.host = s.host from hxs.same .host (by decide)]
    exact h.ctl
  have hgens : x.inst.gens = s.inst.gens := paid_gens (s := { s with emit := [] }) hx
  exact ⟨_, e1, rfl, rfl, congrArg (fun g : Tab Nat => tabGetD g fn 0) hgens, rfl, ctlOf_entered hctl,
    entered_only fn sq q bells _ hxs⟩

theorem Fetches.conflicts {s x : State} {fn sq bell : Nat} {c : Ctl} {q : Sq} {bells : List Nat} {e : Sqe}
    (h : Fetches s fn sq c q bell bells) (hx : paid fn sq e { s with emit := [] } = some x)
    (hdup : findItem x { fn := fn, sq := sq, cid := e.cid.toNat } ≠ none)
    (hn : ∀ k ∈ x.host.items, k.seq ≠ x.host.nextSeq) : Does (.commandFetch fn sq e) s fun t =>
      Completes s t (newItem x c fn sq bell e) stCidConflict 0 0 := by
  have e1 := h.does hx
  rw [when_of (Option.isSome_iff_ne_none.mpr hdup)] at e1
  have hxs : Only [.inst, .emit] s x :=
    (only_emit _ (only_refl _ s) (by decide)).trans ((paid_only hx).mono (by decide))
  exact ⟨_, e1, entered_conflict hxs h.ctl h.queue (fetchOpen_flushing h.runs) hn⟩

/-! ### Interrupt aggregation (R99) -/

theorem aggregationExpiry_fires {s : State} {fn v : Nat} {c : Ctl} (hc : ctlOf s fn = some c)
    (hp : (vecOf c v).pend ≠ 0) (hf : (vecOf c v).since + 50 * c.feats.coalTime < s.frame.elapsed) :
    aggregationExpiry fn v s = interrupt fn v (updCtl fn (setVec v { vecOf c v with pend := 0 }) s) := by
  unfold aggregationExpiry
  simp only [hc, fired_of_lt (show _ < clk s from hf), hp, Bool.not_true, Bool.false_eq_true, or_self, if_false]
  rfl

/-- Settles O39: a doorbell changes one queue's record; a fetch moves the head on and appends the item. -/
theorem doorbellsAndFetch : Obligations.DoorbellsAndFetch := by
  unfold Obligations.DoorbellsAndFetch
  intro s fn c hc hen
  refine ⟨fun sq q tail hq ht he hp => ?tail, fun cq q head hq hw hh hk => ?head,
    fun sq q bell bells e x hq hb hr hrdy hfp hcl hsl hft hst hx => ?fetch,
    fun sq q e hq hb hr hrdy hfp hcl hsl hft hst h0 hd hsh hx => ?wait, fun v hp hf => ?aggregation⟩
  case tail =>
    have e := tailDoorbell_rings (s := { s with emit := [] }) hc hen hq ht he hp
    exact ⟨_, congrArg Host.Outcome.next e,
      ⟨_, ctlOf_updCtl_some (s := { s with emit := [] }) _ hc, tabGet_set_self _ _ _, fun k hk => tabGet_set_ne _ _ hk⟩,
      rfl, updCtl_emitted_only fn _ s⟩
  case head =>
    have e := headDoorbell_frees (s := { s with emit := [] }) hc hen hq hw hh hk
    exact ⟨_, congrArg Host.Outcome.next e,
      ⟨_, ctlOf_updCtl_some (s := { s with emit := [] }) _ hc, tabGet_set_self _ _ _, fun k hk => tabGet_set_ne _ _ hk⟩,
      rfl, updCtl_emitted_only fn _ s⟩
  case fetch =>
    have hfetch : Fetches s fn sq c q bell bells := by
      refine ⟨hc, hq, hb, hr, hen, hrdy, hfp, hcl, hsl, hft, hst, fun h0 => ?_⟩
      obtain ⟨h1, -⟩ | ⟨-, h2, h3, -⟩ := hx
      · exact absurd h1 h0
      · exact ⟨h2, h3⟩
    have hpaid : paid fn sq e { s with emit := [] } = some x := by
      obtain ⟨h1, h2⟩ | ⟨h1, -, -, h4⟩ := hx
      · rw [paid, if_pos h1, h2]
      · rw [paid, if_neg h1, h4]
    exact ⟨hfetch.enters hpaid, hfetch.conflicts hpaid⟩
  case wait =>
    obtain ⟨bell, bells, hbb⟩ := List.exists_cons_of_ne_nil hb
    have hfetch : Fetches s fn sq c q bell bells :=
      ⟨hc, hq, hbb, hr, hen, hrdy, hfp, hcl, hsl, hft, hst, fun _ => ⟨hd, hsh⟩⟩
    exact congrArg Host.Outcome.next (hfetch.emitted.fetch_unpaid ((if_neg h0).trans hx))
  case aggregation =>
    have e := aggregationExpiry_fires (s := { s with emit := [] }) hc hp hf
    refine ⟨_, congrArg Host.Outcome.next e, rfl,
      ⟨_, ctlOf_updCtl_some (s := { s with emit := [] }) _ hc, ?_, rfl⟩, send_only _ _ (updCtl_emitted_only fn _ s) (by decide)⟩
    rw [vecOf_setVec]

end Sys2Proof.Machine
end

section
/-! SUPPORT. Admin commands that answer with data, and commands without support (R103, R107, R152). -/

namespace Sys2Proof.Machine

section rows

variable {c : Instr} {s x : State} {id : CmdId} {opc : Nat} {who : Access} {it : Item} {body : Item → State → State}
  {st : Status} {dw0 dw1 : Word}

/-- An admin row that leaves the tag table and its function's queues alone until it finishes. -/
theorem AdminRuns.answers (a : AdminRuns s id opc who it) (hc : exec c s = act (admin opc who body id) s)
    (hb : body it (admitted s it) = finish it.seq st dw0 dw1 x) (hi : x.host.items = s.host.items)
    (hq : SameQueues s x) (hp : x.power.flush = s.power.flush) {q : State → Prop} (hfin : q (finish it.seq st dw0 dw1 x)) :
    Does c s fun t => Completes s t it st dw0 dw1 ∧ q t :=
  ⟨_, (admin_next hc a).trans (congrArg Host.Outcome.next hb), a.finishes_of_sameQueues st dw0 dw1 hi hq hp, hfin⟩

/-- What has been sent out before a command finishes has been sent out after it. -/
theorem AdminRuns.sent (a : AdminRuns s id opc who it) (hi : x.host.items = s.host.items) {e : Emission} (he : e ∈ x.emit) :
    e ∈ (finish it.seq st dw0 dw1 x).emit :=
  (fnOnly_finish st dw0 dw1 (a.itemBySeq hi)).sent.subset he

/-- An admin row that sends data and finishes. -/
theorem AdminRuns.answers_data {b : List Byte} (a : AdminRuns s id opc who it)
    (hc : exec c s = act (admin opc who body id) s)
    (hb : body it (admitted s it) = finish it.seq st dw0 dw1 (send (.nvmeData it.id.fn b) (admitted s it))) :
    Does c s fun t => Completes s t it st dw0 dw1 ∧ .nvmeData it.id.fn b ∈ t.emit :=
  a.answers hc hb rfl (.of_host rfl) rfl (a.sent (x := send (.nvmeData it.id.fn b) (admitted s it)) rfl
    (List.mem_append_right _ (List.mem_singleton_self _)))

/-- An admin row that finishes at once. -/
theorem AdminRuns.answers_plain (a : AdminRuns s id opc who it) (hc : exec c s = act (admin opc who body id) s)
    (hb : body it (admitted s it) = finish it.seq st dw0 dw1 (admitted s it)) :
    Does c s fun t => Completes s t it st dw0 dw1 :=
  (a.answers (q := fun _ => True) hc hb rfl (.of_host rfl) rfl trivial).imp fun _ h => h.1

end rows

/-! ### Identify and Get Log Page -/

theorem identify_answers {s : State} {id : CmdId} {it : Item} {b : List Byte} (a : AdminRuns s id 0x06 .all it)
    (hd : identifyData (admitted s it) it.id.fn (dw it.sqe.cdw10 7 0) (dw it.sqe.cdw11 31 24) it.sqe.nsid.toNat
      (guardOfFn s it.id.fn) = .inr b) : Does (.identify id) s fun t =>
      Completes s t it stOk 0 0 ∧ .nvmeData it.id.fn b ∈ t.emit := by
  have h : identifyData (admitted s it) it.id.fn (dw it.sqe.cdw10 7 0) (dw it.sqe.cdw11 31 24) it.sqe.nsid.toNat
      (guardOfFn (admitted s it) it.id.fn) = .inr b := hd
  exact a.answers_data rfl (by rw [identify, h]; rfl)

/-- With no request outstanding no event is reported. -/
theorem reportOne_quiet {s : State} {fn : Nat} {c : Ctl} (hc : ctlOf s fn = some c) (ha : c.aers = []) :
    reportOne fn s = s := by
  rw [reportOne, hc]
  simp only [ha]

theorem reportEvents_quiet {s : State} {fn : Nat} {c : Ctl} (n : Nat) (hc : ctlOf s fn = some c) (ha : c.aers = []) :
    reportEvents fn n s = s := by
  induction n with
  | zero => rfl
  | succ n ih => rw [reportEvents, reportOne_quiet hc ha, ih]

/-- What a read of a log without RAE makes of its function's controller. -/
def logRead (lid : Nat) (c : Ctl) : Ctl :=
  { c with
    masked := c.masked.filter fun t => !(logEvents lid).contains t
    changedNs := if lid = 0x04 then [] else c.changedNs
    changedZones := if lid = 0xBF then [] else c.changedZones }

theorem clearLog_quiet {s : State} {fn : Nat} {c : Ctl} (lid : Nat) (hc : ctlOf s fn = some c) (ha : c.aers = []) :
    clearLog fn lid s = updCtl fn (logRead lid) s :=
  reportEvents_quiet 16 (ctlOf_updCtl_some (logRead lid) hc) ha

theorem logPart_length (b : List Byte) (off n d : Nat) : (logPart b off n d).length = n := by
  simp only [logPart, List.length_append, List.length_map, List.length_range, List.length_take]
  omega

theorem logPart_prefix (b : List Byte) (off n d : Nat) :
    (b.drop off).take (logPart b off n d).length <+: logPart b off n d := by
  rw [logPart_length]
  exact List.prefix_append _ _

/-- The state in which Get Log Page has sent its data. -/
def logSent (it : Item) (part : List Byte) (s : State) : State :=
  send (.nvmeData it.id.fn part) { s with free := s.free + 1 }

theorem getLogPage_sent {s : State} {it : Item} {c : Ctl} {b : List Byte} {off n : Nat} (hc : ctlOf s it.id.fn = some c)
    (hd : logData s it.id.fn (dw it.sqe.cdw10 7 0) (dw it.sqe.cdw11 31 16) c = .inr b)
    (ho : it.sqe.cdw12.toNat + 2 ^ 32 * it.sqe.cdw13.toNat = off)
    (hl : 4 * (dw it.sqe.cdw10 31 16 + 65536 * dw it.sqe.cdw11 15 0 + 1) = n)
    (hcond : ¬(off % 4 ≠ 0 ∨ b.length < off ∨ 2097152 < n)) :
    getLogPage it s = finishOk it.seq (when (dw it.sqe.cdw10 15 15 = 0) (clearLog it.id.fn (dw it.sqe.cdw10 7 0))
      (logSent it (logPart b off n s.free) s)) := by
  simp only [getLogPage, hc, hd, ho, hl]
  rw [if_neg hcond]
  rfl

theorem getLogPage_answers {s : State} {id : CmdId} {it : Item} {c : Ctl} {b : List Byte} {off n : Nat}
    (a : AdminRuns s id 0x02 .all it) (hc : ctlOf s it.id.fn = some c)
    (hd : logData (admitted s it) it.id.fn (dw it.sqe.cdw10 7 0) (dw it.sqe.cdw11 31 16) c = .inr b)
    (ho : it.sqe.cdw12.toNat + 2 ^ 32 * it.sqe.cdw13.toNat = off)
    (hl : 4 * (dw it.sqe.cdw10 31 16 + 65536 * dw it.sqe.cdw11 15 0 + 1) = n)
    (hcond : ¬(off % 4 ≠ 0 ∨ b.length < off ∨ 2097152 < n)) (ha : c.aers = []) :
    Does (.getLogPage id) s fun t => Completes s t it stOk 0 0 ∧
      (∃ l, .nvmeData it.id.fn l ∈ t.emit ∧ l.length = n ∧ (b.drop off).take l.length <+: l) ∧
      ∃ c', ctlOf t it.id.fn = some c' ∧ c'.masked =
        if dw it.sqe.cdw10 15 15 = 0 then c.masked.filter fun k => !(logEvents (dw it.sqe.cdw10 7 0)).contains k
        else c.masked := by
  have hb := getLogPage_sent (s := admitted s it) hc hd ho hl hcond
  generalize hpart : logPart b off n (admitted s it).free = part at hb
  have hlen : part.length = n := by rw [← hpart]; exact logPart_length _ _ _ _
  have hpre : (b.drop off).take part.length <+: part := by rw [← hpart]; exact logPart_prefix _ _ _ _
  have hcl : ctlOf (logSent it part (admitted s it)) it.id.fn = some c := hc
  have hmem : Emission.nvmeData it.id.fn part ∈ (logSent it part (admitted s it)).emit :=
    List.mem_append_right _ (List.mem_singleton_self _)
  have hqs : SameQueues s (logSent it part (admitted s it)) := .of_host rfl
  have hi : (logSent it part (admitted s it)).host.items = s.host.items := rfl
  have hp : (logSent it part (admitted s it)).power.flush = s.power.flush := rfl
  generalize logSent it part (admitted s it) = x at hb hcl hmem hqs hi hp
  by_cases hr : dw it.sqe.cdw10 15 15 = 0
  case pos =>
    rw [when_of (decide_eq_true hr), clearLog_quiet _ hcl ha] at hb
    refine a.answers rfl hb hi (hqs.trans (.updCtl _ _ fun _ => ⟨rfl, fun _ => rfl⟩)) hp
      ⟨⟨part, a.sent (x := updCtl it.id.fn (logRead _) x) hi hmem, hlen, hpre⟩, ?_⟩
    obtain ⟨c', hc', hcore⟩ := (ctlsKept_finish it.seq stOk 0 0 _).some (ctlOf_updCtl_some (logRead _) hcl)
    refine ⟨c', hc', (congrArg (fun p => p.1.masked) hcore).trans ?_⟩
    rw [if_pos hr]
    rfl
  case neg =>
    rw [when_not (decide_eq_false hr)] at hb
    refine a.answers rfl hb hi hqs hp ⟨⟨part, a.sent hi hmem, hlen, hpre⟩, ?_⟩
    obtain ⟨c', hc', hcore⟩ := (ctlsKept_finish it.seq stOk 0 0 _).some hcl
    refine ⟨c', hc', (congrArg (fun p => p.1.masked) hcore).trans ?_⟩
    rw [if_neg hr]
    rfl

/-! ### Get Features -/

/-- The data that Get Features sends with the current values. -/
def featureData (it : Item) (c : Ctl) (s : State) : State :=
  when (decide (fidOf it = 0x0C)) (send (.nvmeData it.id.fn (apstBytes s)))
    (when (decide (fidOf it = 0x0E)) (send (.nvmeData it.id.fn (timestampBytes s c.feats))) s)

/-- The data that Get Features sends with the defaults of a feature that is not the manager's alone. -/
def featureDefaultData (it : Item) (s : State) : State :=
  when (decide (fidOf it = 0x0E)) (send (.nvmeData it.id.fn (timestampBytes s (featsDefault s 22)))) s

/-- What a Get Features asks is refused: the feature is not there or is not its function's to read, or the selection is
none. -/
def featureRefused (s : State) (it : Item) (c : Ctl) : Prop :=
  (!fids.contains (fidOf it)) = true ∨ 3 < dw it.sqe.cdw10 10 8 ∨
    ((decide (fidOf it = 0x02) || decide (fidOf it = 0x0C)) = true ∧ (!isManager s it.id.fn) = true ∧
      (!(decide (fidOf it = 0x02) && decide (it.id.fn < 2048))) = true) ∨
    (fidOf it = 0x09 ∧ c.msix ≤ dw it.sqe.cdw11 15 0)

section features

variable {s : State} {it : Item} {c : Ctl}

theorem getFeatures_changeable (hc : ctlOf s it.id.fn = some c) (ok : ¬featureRefused s it c)
    (h3 : dw it.sqe.cdw10 10 8 = 3) :
    getFeatures it s = finish it.seq stOk 4 0 s := by
  unfold featureRefused at ok
  simp only [getFeatures, hc]
  rw [if_neg ok, if_pos h3]

theorem getFeatures_current (hc : ctlOf s it.id.fn = some c) (ok : ¬featureRefused s it c)
    (h0 : dw it.sqe.cdw10 10 8 = 0) :
    getFeatures it s = finish it.seq stOk (wordOf (featureWord s c c.feats it (fidOf it) true)) 0
      (featureData it c s) := by
  unfold featureRefused at ok
  simp only [getFeatures, hc]
  rw [if_neg ok, if_neg (by omega), h0]
  simp only [if_true, true_or, decide_true]
  cases hd : decide (fidOf it = 0x0E) <;> simp only [featureData, hd] <;> rfl

theorem getFeatures_default (hc : ctlOf s it.id.fn = some c) (ok : ¬featureRefused s it c)
    (h12 : dw it.sqe.cdw10 10 8 = 1 ∨ dw it.sqe.cdw10 10 8 = 2)
    (h2 : fidOf it ≠ 0x02) (hC : fidOf it ≠ 0x0C) :
    getFeatures it s = finish it.seq stOk (wordOf (featureWord s c (featsDefault s 22) it (fidOf it) false)) 0
      (featureDefaultData it s) := by
  have h0 : dw it.sqe.cdw10 10 8 ≠ 0 := by omega
  unfold featureRefused at ok
  simp only [getFeatures, hc]
  rw [if_neg ok, if_neg (by omega)]
  simp only [h0, h2, hC, if_false, decide_false, Bool.or_false, Bool.not_false, or_true, if_true]
  rfl

theorem not_featureRefused (hf : fids.contains (fidOf it) = true) (hs : dw it.sqe.cdw10 10 8 ≤ 3)
    (h2 : fidOf it = 0x02 → isManager s it.id.fn = true ∨ it.id.fn < 2048)
    (hC : fidOf it = 0x0C → isManager s it.id.fn = true) (h9 : fidOf it = 0x09 → dw it.sqe.cdw11 15 0 < c.msix) :
    ¬featureRefused s it c := by
  rintro (h | h | ⟨h, hm, hv⟩ | ⟨h, hv⟩)
  · simp only [hf, Bool.not_true, Bool.false_eq_true] at h
  · omega
  · have hm : isManager s it.id.fn = false := by simpa only [Bool.not_eq_true'] using hm
    rcases Bool.or_eq_true .. ▸ h with h | h
    · rcases h2 (of_decide_eq_true h) with g | g
      · exact Bool.noConfusion (hm.symm.trans g)
      · simp only [h, decide_eq_true g, Bool.and_self, Bool.not_true, Bool.false_eq_true] at hv
    · exact Bool.noConfusion (hm.symm.trans (hC (of_decide_eq_true h)))
  · exact absurd (h9 h) (by omega)

variable {id : CmdId}

/-- A read of a feature's current value returns it, and the data of the features that have any. -/
theorem getFeatures_answers_current (a : AdminRuns s id 0x0A .all it) (hc : ctlOf s it.id.fn = some c)
    (ok : ¬featureRefused s it c) (h0 : dw it.sqe.cdw10 10 8 = 0) : Does (.getFeatures id) s fun t =>
      Completes s t it stOk (wordOf (featureWord s c c.feats it (fidOf it) true)) 0 ∧
      (fidOf it = 0x0E → .nvmeData it.id.fn (timestampBytes s c.feats) ∈ t.emit) ∧
      (fidOf it = 0x0C → .nvmeData it.id.fn (apstBytes s) ∈ t.emit) := by
  have hb : getFeatures it (admitted s it) = finish it.seq stOk (wordOf (featureWord s c c.feats it (fidOf it) true)) 0
      (featureData it c (admitted s it)) := getFeatures_current hc ok h0
  by_cases hE : fidOf it = 0x0E
  case pos =>
    have hx : featureData it c (admitted s it) =
        send (.nvmeData it.id.fn (timestampBytes s c.feats)) (admitted s it) := by
      rw [featureData, hE]
      rfl
    rw [hx] at hb
    exact (a.answers_data rfl hb).imp fun t ⟨done, sent⟩ => ⟨done, fun _ => sent, fun h => by simp [hE] at h⟩
  case neg =>
    by_cases hC : fidOf it = 0x0C
    case pos =>
      have hx : featureData it c (admitted s it) = send (.nvmeData it.id.fn (apstBytes s)) (admitted s it) := by
        rw [featureData, hC]
        rfl
      rw [hx] at hb
      exact (a.answers_data rfl hb).imp fun t ⟨done, sent⟩ => ⟨done, fun h => absurd h hE, fun _ => sent⟩
    case neg =>
      rw [featureData, when_not (decide_eq_false hC), when_not (decide_eq_false hE)] at hb
      exact (a.answers_plain rfl hb).imp fun t done => ⟨done, fun h => absurd h hE, fun h => absurd h hC⟩

theorem getFeatures_answers_default (a : AdminRuns s id 0x0A .all it) (hc : ctlOf s it.id.fn = some c)
    (ok : ¬featureRefused s it c) (h12 : dw it.sqe.cdw10 10 8 = 1 ∨ dw it.sqe.cdw10 10 8 = 2) (h2 : fidOf it ≠ 0x02)
    (hC : fidOf it ≠ 0x0C) : Does (.getFeatures id) s fun t =>
      Completes s t it stOk (wordOf (featureWord s c (featsDefault s 22) it (fidOf it) false)) 0 := by
  have hb : getFeatures it (admitted s it) = finish it.seq stOk
      (wordOf (featureWord s c (featsDefault s 22) it (fidOf it) false)) 0 (featureDefaultData it (admitted s it)) :=
    getFeatures_default hc ok h12 h2 hC
  by_cases hE : fidOf it = 0x0E
  case pos =>
    rw [featureDefaultData, when_of (decide_eq_true hE)] at hb
    exact (a.answers_data rfl hb).imp fun t h => h.1
  case neg =>
    rw [featureDefaultData, when_not (decide_eq_false hE)] at hb
    exact a.answers_plain rfl hb

end features

/-! ### Directives and security protocols -/

section directives

variable {s : State} {id : CmdId} {it : Item}

/-- The namespace that a directive names is there, or it names all. -/
theorem directive_named (hn : (nsOf s it.id.fn it.sqe.nsid.toNat).isSome = true ∨ it.sqe.nsid.toNat = 0xFFFFFFFF) :
    ¬((nsOf s it.id.fn it.sqe.nsid.toNat).isNone = true ∧ it.sqe.nsid.toNat ≠ 0xFFFFFFFF) := by
  rintro ⟨h, g⟩
  rcases hn with hn | hn
  · rw [Option.isNone_iff_eq_none] at h
    simp [h] at hn
  · exact g hn

theorem directiveSend_identify (hn : (nsOf s it.id.fn it.sqe.nsid.toNat).isSome = true ∨ it.sqe.nsid.toNat = 0xFFFFFFFF)
    (ht : dw it.sqe.cdw11 15 8 = 0) (ho : dw it.sqe.cdw11 7 0 = 1) (hy : dw it.sqe.cdw12 15 8 = 1)
    (he : dw it.sqe.cdw12 0 0 = 1) : directiveSend it s = finish it.seq stOk 0 0 s := by
  simp only [directiveSend]
  rw [if_neg (directive_named hn), if_pos ⟨ht, ho⟩, if_pos ⟨hy, he⟩]
  rfl

theorem directiveSend_streams (hn : (nsOf s it.id.fn it.sqe.nsid.toNat).isSome = true ∨ it.sqe.nsid.toNat = 0xFFFFFFFF)
    (ht : dw it.sqe.cdw11 15 8 = 1) (ho : dw it.sqe.cdw11 7 0 = 1 ∨ dw it.sqe.cdw11 7 0 = 2) :
    directiveSend it s = finish it.seq stOk 0 0 s := by
  simp only [directiveSend]
  rw [if_neg (directive_named hn), if_neg (by omega), if_pos ⟨ht, ho⟩]
  rfl

/-- The data that Directive Receive returns, by the directive's type and operation. -/
def directiveData (ty oper : Nat) : List Byte :=
  if ty = 0 then directiveIdentify else if oper = 1 then streamsParams else le 0 2

theorem directiveReceive_data (hn : (nsOf s it.id.fn it.sqe.nsid.toNat).isSome = true ∨ it.sqe.nsid.toNat = 0xFFFFFFFF)
    (h : (dw it.sqe.cdw11 15 8 = 0 ∧ dw it.sqe.cdw11 7 0 = 1) ∨
      (dw it.sqe.cdw11 15 8 = 1 ∧ (dw it.sqe.cdw11 7 0 = 1 ∨ dw it.sqe.cdw11 7 0 = 2))) :
    directiveReceive it s = finish it.seq stOk 0 0
      (send (.nvmeData it.id.fn (directiveData (dw it.sqe.cdw11 15 8) (dw it.sqe.cdw11 7 0))) s) := by
  simp only [directiveReceive]
  rw [if_neg (directive_named hn)]
  rcases h with ⟨ht, ho⟩ | ⟨ht, ho | ho⟩ <;> rw [ht, ho] <;> rfl

theorem directiveReceive_allocate
    (hn : (nsOf s it.id.fn it.sqe.nsid.toNat).isSome = true ∨ it.sqe.nsid.toNat = 0xFFFFFFFF)
    (ht : dw it.sqe.cdw11 15 8 = 1) (ho : dw it.sqe.cdw11 7 0 = 3) :
    directiveReceive it s = finish it.seq stOk (wordOf (dw it.sqe.cdw12 15 0)) 0 s := by
  simp only [directiveReceive]
  rw [if_neg (directive_named hn), ht, ho]
  rfl

theorem directiveReceive_answers (a : AdminRuns s id 0x1A .all it)
    (hn : (nsOf s it.id.fn it.sqe.nsid.toNat).isSome = true ∨ it.sqe.nsid.toNat = 0xFFFFFFFF)
    (h : (dw it.sqe.cdw11 15 8 = 0 ∧ dw it.sqe.cdw11 7 0 = 1) ∨
      (dw it.sqe.cdw11 15 8 = 1 ∧ (dw it.sqe.cdw11 7 0 = 1 ∨ dw it.sqe.cdw11 7 0 = 2))) :
    Does (.directiveReceive id) s fun t => Completes s t it stOk 0 0 ∧
      .nvmeData it.id.fn (directiveData (dw it.sqe.cdw11 15 8) (dw it.sqe.cdw11 7 0)) ∈ t.emit :=
  a.answers_data rfl (directiveReceive_data (s := admitted s it) hn h)

end directives

/-! ### NVMe-MI Send and Receive -/

section tunnel

variable {s : State} {id : CmdId} {it : Item}

theorem miTunnel_command {op : Nat → Bool} (hr : s.mgmt.running = true) (ho : op (dw it.sqe.cdw11 7 0) = true)
    {st resp : Nat} {b : List Byte} {x : State}
    (hx : miCommand (dw it.sqe.cdw11 7 0) it.sqe.cdw12.toNat it.sqe.cdw13.toNat s = ((st, resp, b), x)) :
    miTunnel op it s = finish it.seq stOk (miDw0 st resp) 0 (when (!b.isEmpty) (send (.nvmeData it.id.fn b)) x) := by
  simp only [miTunnel, hr, ho, hx]
  rfl

/-- A tunnelled command that is performed returns its status and data, and leaves what it has set. -/
theorem tunnel_answers {c : Instr} {opc : Nat} {who : Access} {body : Item → State → State} {op : Nat → Bool}
    {st resp : Nat} {b : List Byte} {x : State} (a : AdminRuns s id opc who it)
    (hc : exec c s = act (admin opc who body id) s) (hb : body it (admitted s it) = miTunnel op it (admitted s it))
    (hr : s.mgmt.running = true) (ho : op (dw it.sqe.cdw11 7 0) = true)
    (hx : miCommand (dw it.sqe.cdw11 7 0) it.sqe.cdw12.toNat it.sqe.cdw13.toNat (admitted s it) = ((st, resp, b), x)) :
    Does c s fun t => Completes s t it stOk (miDw0 st resp) 0 ∧ t.mgmt = x.mgmt ∧
      (b ≠ [] → .nvmeData it.id.fn b ∈ t.emit) := by
  have only : Only [.mgmt] (admitted s it) x := miCommand_only2 _ _ _ (only_refl _ _) (by decide) hx
  have hi := congrArg HostSt.items (only.same .host (by decide))
  have hq := congrArg HostSt.ctls (only.same .host (by decide))
  have hp := congrArg PowerSt.flush (only.same .power (by decide))
  have run := hb.trans (miTunnel_command (s := admitted s it) hr ho hx)
  have kept : ∀ y, (finish it.seq stOk (miDw0 st resp) 0 y).mgmt = y.mgmt := fun y =>
    (finish_only (ps := [.frame, .host, .inst, .recd, .emit]) it.seq stOk (miDw0 st resp) 0 y (only_refl _ _)
      (by decide)).same .mgmt (by decide)
  cases b with
  | nil =>
    exact a.answers (x := x) hc run hi (.of_host hq) hp ⟨kept x, fun h => absurd rfl h⟩
  | cons k l =>
    refine a.answers (x := send (.nvmeData it.id.fn (k :: l)) x) hc run hi (.of_host hq) hp
      ⟨kept _, fun _ => a.sent (x := send (.nvmeData it.id.fn (k :: l)) x) hi
        (List.mem_append_right _ (List.mem_singleton_self _))⟩

theorem miCommand_configSet {d0 d1 : Nat} {m : MgmtSt} (hm : miConfigSet d0 d1 s.mgmt = some m) :
    miCommand 0x03 d0 d1 s = ((0, 0, []), { s with mgmt := m }) := by
  simp only [miCommand, hm, reduceCtorEq, Nat.reduceEqDiff, if_false, if_true]

theorem nvmeMiSend_answers {dma : Dma} {m : MgmtSt} (a : AdminRuns s id 0x1D .pf it) (hr : s.mgmt.running = true)
    (hd : dma.linkFails = false) (ho : dw it.sqe.cdw11 7 0 = 0x03)
    (hm : miConfigSet it.sqe.cdw12.toNat it.sqe.cdw13.toNat s.mgmt = some m) :
    Does (.nvmeMiSend id dma) s fun t => Completes s t it stOk 0 0 ∧ t.mgmt = m := by
  have hx := miCommand_configSet (s := admitted s it) hm
  rw [← ho] at hx
  refine (tunnel_answers (body := fun it s => if dma.linkFails then finishBad it.seq stDataTransfer s
    else miTunnel (fun o => decide (o = 0x03)) it s) a rfl (if_neg (by rw [hd]; decide)) hr (decide_eq_true ho) hx).imp ?_
  exact fun t ⟨done, kept, _⟩ => ⟨done, kept⟩

end tunnel

/-! ### Commands without support -/

section unsupported

variable {s : State} {id : CmdId} {it : Item}

/-- A work item that can be refused for want of support: fetched, without an outcome, and next in its turn. -/
structure Refusable (s : State) (id : CmdId) (it : Item) : Prop where
  found : findItem s id = some it
  unique : itemBySeq s it.seq = some it
  fresh : it.outcome = none
  heard : it.silent = false
  released : it.held = false
  fetched : it.phase = .fetched
  turn : inTurn s it = true
  runs : hallRuns s = true
  core : (if id.sq = 0 then adminOpen s else shardRuns s id.fn id.sq) = true

theorem hallRuns_flushing (h : hallRuns s = true) : flushing s = false := by
  simp only [hallRuns, ctrlRuns, Bool.and_eq_true, Bool.not_eq_true'] at h
  exact h.1.2

theorem adminOpen_hallRuns (h : adminOpen s = true) : hallRuns s = true := ((Bool.and_eq_true _ _).mp h).1

theorem Refusable.passes (a : Refusable s id it) :
    ¬(it.outcome.isSome = true ∨ it.held = true ∨ (!hallRuns s) = true ∨ it.phase ≠ .fetched ∨
      (!inTurn s it) = true ∨ (!(if id.sq = 0 then adminOpen s else shardRuns s id.fn id.sq)) = true) := by
  simp [a.fresh, a.released, a.runs, a.fetched, a.turn, a.core]

/-- A refused command completes with the status. -/
theorem Refusable.completes (a : Refusable s id it) {st : Status}
    (hu : unsupported id { s with emit := [] } = finishBad it.seq st { s with emit := [] }) :
    Does (.unsupportedOpcode id) s fun t => Completes s t it st 0 0 :=
  ⟨_, congrArg Host.Outcome.next hu,
    finish_completes (s := s) (x := { s with emit := [] }) st 0 0 a.unique a.fresh a.heard (hallRuns_flushing a.runs) rfl⟩

theorem unsupported_admin (a : Refusable s id it) (hq : id.sq = 0) (ho : adminOpcodes.contains it.opc = false) :
    unsupported id s = finishBad it.seq stInvalidOpcode s := by
  simp only [unsupported, a.found]
  rw [if_neg a.passes, if_pos hq, ho]
  rfl

theorem unsupported_action (a : Refusable s id it) (hq : id.sq = 0) (ho : adminOpcodes.contains it.opc = true)
    (hb : badAction it = true) (hf : accessFault s id.fn (if it.opc = 0x09 then .all else .manager) = none) :
    unsupported id s = finishBad it.seq stInvalidField s := by
  simp only [unsupported, a.found, hf]
  rw [if_neg a.passes, if_pos hq, ho, hb]
  rfl

theorem unsupported_io {x : Nat} {n : Ns} (a : Refusable s id it) (hq : id.sq ≠ 0)
    (hn : nsOf s id.fn it.sqe.nsid.toNat = some (x, n)) (ho : ioAccepts n.zoned it.opc = false) :
    unsupported id s = finishBad it.seq stInvalidOpcode s := by
  simp only [unsupported, a.found, hn, ho]
  rw [if_neg a.passes, if_neg hq]
  rfl

theorem unsupported_zoneAction {x : Nat} {n : Ns} (a : Refusable s id it) (hq : id.sq ≠ 0)
    (hn : nsOf s id.fn it.sqe.nsid.toNat = some (x, n)) (ho : ioAccepts n.zoned it.opc = true)
    (hb : badZoneAction it.sqe = true) : unsupported id s = finishBad it.seq stInvalidField s := by
  simp only [unsupported, a.found, hn, ho, hb]
  rw [if_neg a.passes, if_neg hq]
  rfl

end unsupported

/-- Settles O43: each command's equation over the admitted state, and what a row that sends data and finishes does. -/
theorem adminCommandsAnswerWithData : Obligations.AdminCommandsAnswerWithData := by
  unfold Obligations.AdminCommandsAnswerWithData
  intro s id it
  refine ⟨fun b a hd => identify_answers a hd, ?log, ?features, ?directives, ?securitySend, ?securityReceive, ?mi,
    ?unsupported⟩
  case log => exact fun c b a hc hd h4 hoff hn ha => getLogPage_answers a hc hd rfl rfl (by omega) ha
  case features =>
    intro c a hc hf h2 hC h9
    have ok : dw it.sqe.cdw10 10 8 ≤ 3 → ¬featureRefused s it c := fun hs => not_featureRefused hf hs h2 hC h9
    refine ⟨fun h0 => getFeatures_answers_current a hc (ok (by omega)) h0,
      fun h12 n2 nC => getFeatures_answers_default a hc (ok (by omega)) h12 n2 nC, fun h3 => ?_⟩
    exact a.answers_plain rfl (getFeatures_changeable (s := admitted s it) hc (ok (by omega)) h3)
  case directives =>
    intro hn
    refine ⟨fun a ht ho hy he => ?_, fun a ht ho => ?_, fun a ht ho => ?_, fun a ht ho => ?_, fun a ht ho => ?_,
      fun a ht ho => ?_⟩
    · exact a.answers_plain rfl (directiveSend_identify (s := admitted s it) hn ht ho hy he)
    · exact a.answers_plain rfl (directiveSend_streams (s := admitted s it) hn ht ho)
    · have h := directiveReceive_answers a hn (.inr ⟨ht, .inl ho⟩)
      rw [ht, ho] at h
      exact h
    · have h := directiveReceive_answers a hn (.inr ⟨ht, .inr ho⟩)
      rw [ht, ho] at h
      exact h
    · exact a.answers_plain rfl (directiveReceive_allocate (s := admitted s it) hn ht ho)
    · have h := directiveReceive_answers a hn (.inl ⟨ht, ho⟩)
      rw [ht, ho] at h
      exact h
  case securitySend => exact fun a hp => a.answers_plain rfl (if_pos hp)
  case securityReceive => exact fun a hp h0 => a.answers_data rfl (if_pos ⟨hp, h0⟩)
  case mi =>
    intro hr
    refine ⟨fun dma m a hd ho hm => nvmeMiSend_answers a hr hd ho hm, fun st resp b x a ho hx => ?_⟩
    exact tunnel_answers a rfl rfl hr (decide_eq_true ho) hx
  case unsupported =>
    intro hf hu ho hs hh hp ht
    have ready : hallRuns s = true → (if id.sq = 0 then adminOpen s else shardRuns s id.fn id.sq) = true →
        Refusable s id it := fun hr hc => ⟨hf, hu, ho, hs, hh, hp, ht, hr, hc⟩
    refine ⟨?opcode, ?action⟩
    case opcode =>
      rintro (⟨hq, ha, hop⟩ | ⟨hq, hr, hsh, x, n, hn, hop⟩)
      · have a := ready (adminOpen_hallRuns ha) (by rw [if_pos hq]; exact ha)
        exact a.completes (unsupported_admin (s := { s with emit := [] }) { a with } hq hop)
      · have a := ready hr (by rw [if_neg hq]; exact hsh)
        exact a.completes (unsupported_io (s := { s with emit := [] }) { a with } hq hn hop)
    case action =>
      rintro (⟨hq, ha, hop, hb, hac⟩ | ⟨hq, hr, hsh, hb, x, n, hn, hop⟩)
      · have a := ready (adminOpen_hallRuns ha) (by rw [if_pos hq]; exact ha)
        exact a.completes (unsupported_action (s := { s with emit := [] }) { a with } hq hop hb hac)
      · have a := ready hr (by rw [if_neg hq]; exact hsh)
        exact a.completes (unsupported_zoneAction (s := { s with emit := [] }) { a with } hq hn hop hb)
end Sys2Proof.Machine
end

section
/-! SUPPORT. The Management Interface and MCTP messages (R453 to R457, R473, R486). -/

namespace Sys2Proof.Machine

/-- What changes from the state with nothing sent out changes from the state itself, but for what is sent. -/
theorem Only.from_emptied {ps : List Part} {s t : State} (h : Only ps { s with emit := [] } t) (he : [Part.emit] ⊆ ps) :
    Only ps s t :=
  ((emptied_only s).mono he).trans h

section interface

variable {s : State} {req : List Byte}

theorem when_send_mgmt (c : Bool) (e : Emission) (x : State) : (when c (send e) x).mgmt = x.mgmt := by
  cases c <;> rfl

/-- What a response leaves of the Management Interface's own state. -/
theorem respond_mgmt (b : List Byte) (s : State) :
    (respond b s).mgmt = { s.mgmt with slot := { s.mgmt.slot with last := b, busy := s.mgmt.slot.paused } } :=
  when_send_mgmt _ _ _

@[simp] theorem respond_mtu (b : List Byte) (s : State) : (respond b s).mgmt.mtu = s.mgmt.mtu := by
  rw [respond_mgmt]

@[simp] theorem respond_smbusFreq (b : List Byte) (s : State) : (respond b s).mgmt.smbusFreq = s.mgmt.smbusFreq := by
  rw [respond_mgmt]

@[simp] theorem respond_healthChange (b : List Byte) (s : State) :
    (respond b s).mgmt.healthChange = s.mgmt.healthChange := by
  rw [respond_mgmt]

theorem respond_sent_only (b : List Byte) (s : State) : Only [.mgmt, .emit] s (respond b s) :=
  respond_only b s (only_refl _ _) (by decide)

/-- A response leaves the slot with its bytes, and is sent unless the slot is paused. -/
theorem respond_sends {x : State} (b : List Byte) (he : x.emit = []) (hp : x.mgmt.slot.paused = s.mgmt.slot.paused) :
    MiSends s (respond b x) b := by
  refine ⟨congrArg (fun m : MgmtSt => m.slot.last) (respond_mgmt b x), fun hn => ?sent, fun hy => ⟨?kept, ?busy⟩⟩
  case sent =>
    have hs : respond b x = send (.mi b) (updMgmt (fun m => { m with slot := { m.slot with last := b, busy := false } }) x) := by
      simp only [respond, hp.trans hn]
      rfl
    rw [hs]
    exact congrArg (· ++ [Emission.mi b]) he
  case kept =>
    have hs : respond b x = updMgmt (fun m => { m with slot := { m.slot with last := b, busy := true } }) x := by
      simp only [respond, hp.trans hy]
      rfl
    rw [hs]
    exact he
  case busy => exact (congrArg (fun m : MgmtSt => m.slot.busy) (respond_mgmt b x)).trans (hp.trans hy)

theorem miRequest_responds {st resp : Nat} {b : List Byte} {x : State}
    (h : miCommand (byteAt req 0) (fieldAt req 4 4) (fieldAt req 8 4) s = ((st, resp, b), x)) :
    miRequest req s = respond (miResponse st resp b) x := by
  simp only [miRequest, h]

/-- A command of the Management Interface, by its own row. -/
theorem miRow_next {c : Instr} {op : Nat} {r : Nat × Nat × List Byte} {x : State}
    (hc : exec c s = act (miRow op req) s) (ho : miOpen s = true) (hop : byteAt req 0 = op)
    (h : miCommand op (fieldAt req 4 4) (fieldAt req 8 4) { s with emit := [] } = (r, x)) :
    exec c s = .next (respond (miResponse r.1 r.2.1 r.2.2) x) := by
  refine hc.trans (congrArg Host.Outcome.next ?_)
  exact (if_pos ⟨ho, hop⟩).trans (miRequest_responds (by rw [hop]; exact h))

/-- A command that changes no state is answered with its data. -/
theorem miRow_answers {c : Instr} {op : Nat} {r : Nat × Nat × List Byte} (hc : exec c s = act (miRow op req) s)
    (ho : miOpen s = true) (hop : byteAt req 0 = op)
    (h : miCommand op (fieldAt req 4 4) (fieldAt req 8 4) { s with emit := [] } = (r, { s with emit := [] })) :
    Does c s fun t => MiSends s t (miResponse r.1 r.2.1 r.2.2) ∧ Only [.mgmt, .emit] s t :=
  ⟨_, miRow_next hc ho hop h, respond_sends _ rfl rfl, (respond_sent_only _ _).from_emptied (by decide)⟩

theorem miCommand_health (d0 d1 : Nat) (s : State) :
    miCommand 0x01 d0 d1 s = ((0, 0, miSubsystem s), when (bitOf d1 31) (updMgmt fun m => { m with healthChange := 0 }) s) := by
  simp only [miCommand]
  rfl

theorem miCommand_configUnknown {d0 d1 : Nat} (hm : miConfigSet d0 d1 s.mgmt = none) :
    miCommand 0x03 d0 d1 s = (miError miInvalidParameter, s) := by
  simp only [miCommand, hm, reduceCtorEq, Nat.reduceEqDiff, if_false, if_true]

theorem miCommand_unknown {op d0 d1 : Nat} (h : miOpcodes.contains op = false) :
    miCommand op d0 d1 s = (miError miInvalidOpcode, s) := by
  simp only [miOpcodes, List.contains_cons, List.contains_nil, Bool.or_false, Bool.or_eq_false_iff,
    beq_eq_false_iff_ne, ne_eq] at h
  obtain ⟨h0, h1, h2, h3, h4, h5, h6⟩ := h
  simp only [miCommand, h0, h1, h2, h3, h4, h5, h6, if_false]

/-- A Configuration Set leaves the slot as it was. -/
theorem miConfigSet_slot {d0 d1 : Nat} {m m' : MgmtSt} (h : miConfigSet d0 d1 m = some m') : m'.slot = m.slot := by
  unfold miConfigSet at h
  dsimp only at h
  split at h
  · split at h <;> simp only [Option.some.injEq, reduceCtorEq] at h
    exact h ▸ rfl
  · split at h
    · simp only [Option.some.injEq] at h
      exact h ▸ rfl
    · split at h
      · split at h <;> simp only [Option.some.injEq, reduceCtorEq] at h
        exact h ▸ rfl
      · exact absurd h (by simp)

/-- A command of the Management Interface leaves the slot as it was. -/
theorem miCommand_slot (op d0 d1 : Nat) (s : State) : (miCommand op d0 d1 s).2.mgmt.slot = s.mgmt.slot := by
  by_cases h : op = 0x03
  case pos =>
    cases hm : miConfigSet d0 d1 s.mgmt with
    | none => rw [h, miCommand_configUnknown hm]
    | some m =>
      rw [h, miCommand_configSet hm]
      exact miConfigSet_slot hm
  case neg =>
    simp only [miCommand, h, if_false]
    (repeat' split) <;> rfl

/-- What a command answers does not depend on what has been sent out. -/
theorem miCommand_answer (op d0 d1 : Nat) (s : State) (e : List Emission) :
    (miCommand op d0 d1 { s with emit := e }).1 = (miCommand op d0 d1 s).1 := by
  by_cases h : op = 0x03
  case pos => cases hm : miConfigSet d0 d1 s.mgmt <;> simp only [h, miCommand, hm] <;> rfl
  case neg =>
    simp only [miCommand, h, if_false]
    (repeat' split) <;> rfl

theorem miAdmin_data {d0 : Nat} {b : List Byte} (hi : fieldAt req 2 2 = 1 ∨ fieldAt req 2 2 = 2)
    (h : miAdminData s (2047 + fieldAt req 2 2) (byteAt req 0) (fieldAt req 4 4) (fieldAt req 40 4) (fieldAt req 44 4) =
      .inr (d0, b)) :
    miAdmin req s = respond (miResponse 0 0 (le d0 4 ++ zeros 8 ++ (b.drop (fieldAt req 24 4)).take (fieldAt req 28 4))) s := by
  simp only [miAdmin]
  rw [if_pos hi, h]
  simp only [List.append_assoc]
  rfl

theorem miAdmin_fails {st : Status} (hi : fieldAt req 2 2 = 1 ∨ fieldAt req 2 2 = 2)
    (h : miAdminData s (2047 + fieldAt req 2 2) (byteAt req 0) (fieldAt req 4 4) (fieldAt req 40 4) (fieldAt req 44 4) =
      .inl st) : miAdmin req s = respond (miResponse 0 0 (zeros 8 ++ le (cqeDw3 st) 4)) s := by
  simp only [miAdmin]
  rw [if_pos hi, h]

theorem miAdmin_unknown (h1 : fieldAt req 2 2 ≠ 1) (h2 : fieldAt req 2 2 ≠ 2) :
    miAdmin req s = respond (miResponse 0 0 (zeros 8 ++ le (cqeDw3 stInvalidField) 4)) s := by
  simp only [miAdmin]
  rw [if_neg (not_or.mpr ⟨h1, h2⟩)]

/-- An Admin request is answered with its one response. -/
theorem miAdmin_answers {b : List Byte} (ho : miOpen s = true)
    (h : miAdmin req { s with emit := [] } = respond b { s with emit := [] }) :
    Does (.nvmeMiAdminCommand req) s fun t => MiSends s t b ∧ Only [.mgmt, .emit] s t :=
  ⟨_, congrArg Host.Outcome.next ((when_of ho _ _).trans h), respond_sends _ rfl rfl,
    (respond_sent_only _ _).from_emptied (by decide)⟩

end interface

/-! ### MCTP -/

section mctp

variable {s : State} {via : List Nat} {tr : Nat} {m : List Byte}

/-- A message that came on more than one transport is discarded. -/
theorem mctpMessage_mixed (h : ∃ k ∈ via, k ≠ tr) : mctpMessage (tr :: via) m s = s := by
  refine if_pos (.inr (.inr (.inr ?_)))
  obtain ⟨k, hk, hne⟩ := h
  exact List.any_eq_true.mpr ⟨k, hk, decide_eq_true hne⟩

/-- A message can be taken in: its transport is up, and the device answers. -/
theorem mctp_passes (hu : transportUp s tr = true) (hf : flushing s = false)
    (hb : booted s = true ∨ s.power.boot = .permanent) (hv : ∀ k ∈ via, k = tr) :
    ¬((!transportUp s tr) = true ∨ flushing s = true ∨ ((!booted s) = true ∧ s.power.boot ≠ .permanent) ∨
      (via.any fun k => decide (k ≠ tr)) = true) := by
  have hany : (via.any fun k => decide (k ≠ tr)) = false := by
    rw [List.any_eq_false]
    exact fun k hk => by simp [hv k hk]
  rw [hu, hf, hany]
  rcases hb with hb | hb <;> simp [hb]

theorem mctpMessage_dispatched (hu : transportUp s tr = true) (ho : miOpen s = true) (hv : ∀ k ∈ via, k = tr) :
    mctpMessage (tr :: via) m s = mctpDispatch tr m s := by
  simp only [miOpen, Bool.and_eq_true, Bool.not_eq_true', Bool.or_eq_true, decide_eq_true_eq] at ho
  obtain ⟨⟨hr, hf⟩, hb⟩ := ho
  simp only [mctpMessage]
  rw [if_neg (mctp_passes hu hf hb hv), hr]
  rfl

theorem mctpMessage_held (hu : transportUp s tr = true) (hf : flushing s = false) (hb : booted s = true)
    (hr : s.mgmt.running = false) (hv : ∀ k ∈ via, k = tr) :
    mctpMessage (tr :: via) m s =
      when (decide (s.mgmt.held.length < 16)) (updMgmt fun k => { k with held := k.held ++ [(tr, m)] }) s := by
  simp only [mctpMessage]
  rw [if_neg (mctp_passes hu hf (.inl hb) hv), hr]
  rfl

/-- Set Endpoint ID sets the transport's own, and answers. -/
theorem mctpDispatch_setEid (ht : byteAt m 0 % 128 = 0) (hc : byteAt m 2 = 1) :
    mctpDispatch tr m s = send (.mi ([0x00, BitVec.ofNat 8 (byteAt m 1 % 32), BitVec.ofNat 8 (byteAt m 2)] ++ [0, 0] ++
      b1 (byteAt m 4) ++ [0])) (updMgmt (fun k => { k with eids := tabSet k.eids tr (byteAt m 4) }) s) :=
  (if_pos ht).trans (if_pos hc)

theorem mctpDispatch_request (ht : byteAt m 0 % 128 = 4) (hk : bits (byteAt m 1) 6 3 = 1) :
    mctpDispatch tr m s = miRequest (m.drop 4) s := by
  simp only [mctpDispatch, ht, miMessage, hk]
  rfl

theorem mctpDispatch_discards (ht : byteAt m 0 % 128 ∉ [0, 4, 5, 6]) :
    mctpDispatch tr m s = recEvent 0x1A (updMgmt (fun k => { k with discarded := k.discarded + 1 }) s) := by
  simp only [List.mem_cons, List.not_mem_nil, or_false, not_or] at ht
  obtain ⟨h0, h4, h5, h6⟩ := ht
  simp only [mctpDispatch]
  rw [if_neg h0, if_neg h4, if_neg (not_or.mpr ⟨h5, h6⟩)]

theorem byteAt_drop (l : List Byte) (n i : Nat) : byteAt (l.drop n) i = byteAt l (n + i) := by
  simp only [byteAt, List.getD_eq_getElem?_getD, List.getElem?_drop]

theorem fieldAt_drop (l : List Byte) (n i w : Nat) : fieldAt (l.drop n) i w = fieldAt l (n + i) w := by
  simp only [fieldAt, List.drop_drop]

/-- An NVMe-MI message carries its request from byte 4 on. -/
theorem miRequest_message (m : List Byte) (s : State) :
    miRequest (m.drop 4) s = respond
      (miResponse (miCommand (byteAt m 4) (fieldAt m 8 4) (fieldAt m 12 4) s).1.1
        (miCommand (byteAt m 4) (fieldAt m 8 4) (fieldAt m 12 4) s).1.2.1
        (miCommand (byteAt m 4) (fieldAt m 8 4) (fieldAt m 12 4) s).1.2.2)
      (miCommand (byteAt m 4) (fieldAt m 8 4) (fieldAt m 12 4) s).2 := by
  simp only [miRequest, byteAt_drop, fieldAt_drop, Nat.add_zero, Nat.reduceAdd]

end mctp

/-- Settles O57: each row's equation up to its response, and how `respond` leaves the slot. -/
theorem managementInterfaceAnswers : Obligations.ManagementInterfaceAnswers := by
  unfold Obligations.ManagementInterfaceAnswers
  refine ⟨fun s req ho => ⟨?reads, ?health, ?config, ?opcode, ?data, ?fails, ?unknown⟩,
    fun s via tr req hu => ⟨fun ho hv => ⟨?eid, ?request, ?discards⟩, ?mixed, ?held⟩⟩
  case reads =>
    intro c op r hm hop
    simp only [List.mem_cons, Prod.mk.injEq, List.not_mem_nil, or_false] at hm
    rcases hm with ⟨rfl, rfl, rfl⟩ | ⟨rfl, rfl, rfl⟩ | ⟨rfl, rfl, rfl⟩ | ⟨rfl, rfl, rfl⟩ | ⟨rfl, rfl, rfl⟩ <;>
      exact miRow_answers rfl ho hop rfl
  case health =>
    intro hop
    refine ⟨_, miRow_next rfl ho hop (miCommand_health _ _ _), ?_⟩
    cases hb : bitOf (fieldAt req 8 4) 31
    · refine ⟨respond_sends _ rfl rfl, respond_healthChange _ _, ?_⟩
      exact (respond_sent_only _ _).from_emptied (by decide)
    · refine ⟨respond_sends _ rfl rfl, respond_healthChange _ _, ?_⟩
      exact (respond_only _ _ (updMgmt_only _ _ (only_refl _ _) (by decide)) (by decide)).from_emptied (by decide)
  case config =>
    refine fun hop => ⟨fun m hm => ?_, fun hm => ?_⟩
    · refine ⟨_, miRow_next rfl ho hop (miCommand_configSet (s := { s with emit := [] }) hm), ?_⟩
      exact ⟨respond_sends _ rfl (congrArg MiSlot.paused (miConfigSet_slot hm)), respond_mtu _ _,
        respond_smbusFreq _ _, respond_healthChange _ _⟩
    · refine ⟨_, miRow_next rfl ho hop (miCommand_configUnknown (s := { s with emit := [] }) hm), ?_⟩
      exact ⟨respond_sends _ rfl rfl, respond_mtu _ _⟩
  case opcode =>
    intro hop
    have open_ : (miOpen s && !miOpcodes.contains (byteAt req 0)) = true := by rw [ho, hop]; rfl
    exact ⟨_, congrArg Host.Outcome.next ((when_of open_ _ _).trans (miRequest_responds (miCommand_unknown hop))),
      respond_sends _ rfl rfl, (respond_sent_only _ _).from_emptied (by decide)⟩
  case data => exact fun d0 b hi h => miAdmin_answers ho (miAdmin_data (s := { s with emit := [] }) hi h)
  case fails => exact fun st hi h => miAdmin_answers ho (miAdmin_fails (s := { s with emit := [] }) hi h)
  case unknown => exact fun h1 h2 => miAdmin_answers ho (miAdmin_unknown (s := { s with emit := [] }) h1 h2)
  case eid =>
    intro ht hc
    refine ⟨_, congrArg Host.Outcome.next ((mctpMessage_dispatched (s := { s with emit := [] }) hu ho hv).trans
      (mctpDispatch_setEid ht hc)), tabGet_set_self _ _ _, fun k hk => tabGet_set_ne _ _ hk, ⟨_, rfl⟩, ?_⟩
    exact (send_only _ _ (updMgmt_only _ _ (only_refl _ _) (by decide)) (by decide)).from_emptied (by decide)
  case request =>
    intro ht hk r
    have run := (mctpMessage_dispatched (s := { s with emit := [] }) hu ho hv).trans (mctpDispatch_request ht hk)
    have hr : (miCommand (byteAt req 4) (fieldAt req 8 4) (fieldAt req 12 4) { s with emit := [] }).1 = r :=
      miCommand_answer _ _ _ s []
    have kept : Only [.mgmt] { s with emit := [] }
        (miCommand (byteAt req 4) (fieldAt req 8 4) (fieldAt req 12 4) { s with emit := [] }).2 :=
      miCommand_only _ _ _ (only_refl _ _) (by decide)
    refine ⟨_, congrArg Host.Outcome.next (run.trans (miRequest_message _ _)), ?_, ?_⟩
    · rw [← hr]
      exact respond_sends _ (kept.same .emit (by decide)) (congrArg MiSlot.paused (miCommand_slot _ _ _ _))
    · exact (respond_only _ _ (kept.mono (by decide)) (by decide)).from_emptied (by decide)
  case discards =>
    intro ht
    have only : Only [.mgmt, .recd] { s with emit := [] }
        (recEvent 0x1A (updMgmt (fun k => { k with discarded := k.discarded + 1 }) { s with emit := [] })) :=
      recEvent_only _ _ (updMgmt_only _ _ (only_refl _ _) (by decide)) (by decide)
    have kept : ∀ x, Only [.recd] x (recEvent 0x1A x) := fun x => recEvent_only _ _ (only_refl _ _) (by decide)
    exact ⟨_, congrArg Host.Outcome.next ((mctpMessage_dispatched (s := { s with emit := [] }) hu ho hv).trans
      (mctpDispatch_discards ht)), (kept _).same .mgmt (by decide), only.same .emit (by decide),
      (only.mono (by decide)).from_emptied (by decide)⟩
  case mixed => exact fun h => congrArg Host.Outcome.next (mctpMessage_mixed (s := { s with emit := [] }) h)
  case held =>
    intro hr hf hb hv
    have run := mctpMessage_held (s := { s with emit := [] }) (m := req) hu (by simp only [flushing, hf]; rfl)
      (decide_eq_true hb) hr hv
    by_cases hl : s.mgmt.held.length < 16
    · refine ⟨_, congrArg Host.Outcome.next (run.trans (when_of (decide_eq_true hl) _ _)), rfl, ?_, (if_pos hl).symm⟩
      exact (updMgmt_only _ _ (only_refl _ _) (by decide)).from_emptied (by decide)
    · refine ⟨_, congrArg Host.Outcome.next (run.trans (when_not (decide_eq_false hl) _ _)), rfl, ?_, (if_neg hl).symm⟩
      exact (only_refl _ _).from_emptied (by decide)

end Sys2Proof.Machine
end

section
/-! SUPPORT. Control primitives, Basic Management blocks and watchdogs (R37, R38, R453, R456, R458). -/

namespace Sys2Proof.Machine

/-! ### Loops and tables -/

/-- What every round of a loop keeps, the loop keeps. -/
theorem forEach_keeps {α β : Type} (g : State → β) {f : α → State → State} (hf : ∀ a s, g (f a s) = g s) (l : List α)
    (s : State) : g (forEach l f s) = g s := by
  induction l generalizing s with
  | nil => rfl
  | cons a l ih => exact (ih (f a s)).trans (hf a s)

theorem tabGet_mem {α : Type} {t : Tab α} {k : Nat} {a : α} (h : tabGet t k = some a) : (k, a) ∈ t := by
  induction t with
  | nil => exact absurd h (by simp [tabGet])
  | cons p t ih =>
    obtain ⟨j, b⟩ := p
    unfold tabGet at h
    split at h
    · next e =>
      cases h
      exact e ▸ List.mem_cons_self
    · exact List.mem_cons_of_mem _ (ih h)

theorem tabGet_upd_same {α : Type} (t : Tab α) (k : Nat) (f : α → α) : tabGet (tabUpd t k f) k = (tabGet t k).map f := by
  cases h : tabGet t k with
  | none => rw [tabUpd, h]; exact h
  | some a => exact tabGet_upd_self f h

/-! ### Control primitives -/

section primitives

variable {s : State} (req : List Byte)

theorem miResume_next (s : State) : miResume req s = when s.mgmt.slot.busy (send (.mi s.mgmt.slot.last))
    (cpAnswer req 0 (updSlot (fun k => { k with paused := false, busy := false }) s)) := rfl

/-- A primitive that the interface takes up. -/
theorem primitive_next {c : Instr} {f : State → State} (hc : exec c s = act (when (miOpen s) f) s)
    (ho : miOpen s = true) : exec c s = .next (f { s with emit := [] }) :=
  hc.trans (congrArg Host.Outcome.next (when_of ho _ _))

theorem cpAnswer_slot_only (req : List Byte) (n : Nat) (f : MiSlot → MiSlot) (s : State) :
    Only [.mgmt, .emit] s (cpAnswer req n (updSlot f s)) :=
  send_only _ _ (updMgmt_only _ _ (only_refl _ _) (by decide)) (by decide)

theorem miResume_answers (ho : miOpen s = true) : Does (.controlPrimitiveResume req) s fun t =>
    t.mgmt = { s.mgmt with slot := { s.mgmt.slot with paused := false, busy := false } } ∧
    t.emit = .mi (b1 0 ++ b1 (byteAt req 1) ++ le 0 2) :: (if s.mgmt.slot.busy then [.mi s.mgmt.slot.last] else []) ∧
    Only [.mgmt, .emit] s t := by
  refine ⟨_, primitive_next rfl ho, ?_⟩
  rw [miResume_next]
  refine ⟨when_send_mgmt _ _ _, ?_, (only_when _ _ (cpAnswer_slot_only _ _ _ _) fun t h =>
    send_only _ _ h (by decide)).from_emptied (by decide)⟩
  cases hb : s.mgmt.slot.busy <;> rfl

theorem miReplay_answers (ho : miOpen s = true) : exec (.controlPrimitiveReplay req) s = .next { s with
    emit := .mi (b1 0 ++ b1 (byteAt req 1) ++ le (flag (!s.mgmt.slot.last.isEmpty) 1) 2) ::
      (if s.mgmt.slot.last.isEmpty then [] else [.mi s.mgmt.slot.last]) } := by
  refine (primitive_next rfl ho).trans (congrArg Host.Outcome.next ?_)
  unfold miReplay
  cases hl : s.mgmt.slot.last <;> rfl

end primitives

/-! ### The management core -/

/-- Whether the management core runs, when it last served its watchdog, and what it holds. -/
def duty (s : State) : Bool × Nat × List (Nat × List Byte) := (s.mgmt.running, s.mgmt.served, s.mgmt.held)

theorem duty_of_mgmt {s t : State} (h : t.mgmt = s.mgmt) : duty t = duty s := by
  simp only [duty, h]

theorem duty_respond (b : List Byte) (s : State) : duty (respond b s) = duty s := by
  simp only [duty, respond_mgmt]

theorem miConfigSet_duty {d0 d1 : Nat} {m m' : MgmtSt} (h : miConfigSet d0 d1 m = some m') :
    m'.running = m.running ∧ m'.served = m.served ∧ m'.held = m.held := by
  unfold miConfigSet at h
  dsimp only at h
  split at h
  · split at h <;> simp only [Option.some.injEq, reduceCtorEq] at h
    exact h ▸ ⟨rfl, rfl, rfl⟩
  · split at h
    · simp only [Option.some.injEq] at h
      exact h ▸ ⟨rfl, rfl, rfl⟩
    · split at h
      · split at h <;> simp only [Option.some.injEq, reduceCtorEq] at h
        exact h ▸ ⟨rfl, rfl, rfl⟩
      · exact absurd h (by simp)

theorem duty_miCommand (op d0 d1 : Nat) (s : State) : duty (miCommand op d0 d1 s).2 = duty s := by
  by_cases h : op = 0x03
  case pos =>
    cases hm : miConfigSet d0 d1 s.mgmt with
    | none => rw [h, miCommand_configUnknown hm]
    | some m =>
      obtain ⟨hr, hs, hh⟩ := miConfigSet_duty hm
      rw [h, miCommand_configSet hm]
      simp only [duty, hr, hs, hh]
  case neg =>
    simp only [miCommand, h, if_false]
    (repeat' split) <;> rfl

theorem duty_miRequest (req : List Byte) (s : State) : duty (miRequest req s) = duty s :=
  (duty_respond _ _).trans (duty_miCommand _ _ _ _)

theorem duty_miAdmin (req : List Byte) (s : State) : duty (miAdmin req s) = duty s := by
  unfold miAdmin
  dsimp only
  split <;> exact duty_respond _ _

theorem duty_when_send (c : Bool) (e : Emission) (s : State) : duty (when c (send e) s) = duty s :=
  duty_of_mgmt (when_send_mgmt c e s)

theorem duty_cpRequest (req : List Byte) (s : State) : duty (cpRequest req s) = duty s := by
  unfold cpRequest
  split
  case isTrue => rfl
  case isFalse =>
    split
    case isTrue => exact duty_when_send _ _ _
    case isFalse =>
      split
      case isTrue => rfl
      case isFalse =>
        split
        case isTrue => rfl
        case isFalse =>
          split
          case isTrue => exact duty_when_send _ _ _
          case isFalse => rfl

/-- A message that is taken up leaves the management core at its duty. -/
theorem duty_mctpControl (tr : Nat) (m : List Byte) (s : State) : duty (mctpControl tr m s) = duty s := by
  unfold mctpControl
  dsimp only
  (repeat' split) <;> rfl

theorem duty_miMessage (m : List Byte) (s : State) : duty (miMessage m s) = duty s := by
  unfold miMessage
  dsimp only
  split
  · exact duty_cpRequest _ _
  split
  · exact duty_miRequest _ _
  split
  · exact duty_miAdmin _ _
  · rfl

theorem duty_mctpDispatch (tr : Nat) (m : List Byte) (s : State) : duty (mctpDispatch tr m s) = duty s := by
  unfold mctpDispatch
  dsimp only
  split
  · exact duty_mctpControl _ _ _
  split
  · exact duty_miMessage _ _
  split
  · rfl
  · exact (duty_of_mgmt ((recEvent_only (ps := [.recd]) _ _ (only_refl _ _) (by decide)).same .mgmt (by decide))).trans rfl

/-- The restart of the management core leaves it running, its watchdog served and nothing held. -/
theorem mgmtRestart_duty {s : State} (hb : booted s = true) (hr : s.mgmt.running = false) :
    duty (mgmtRestart s) = (true, aonClk s, []) := by
  have judged : ∀ n x, duty (judgeWarnings (forEach (List.range 4) (judgeOver n) x)) = duty x := fun n x =>
    duty_of_mgmt ((judgeWarnings_only (ps := [.frame, .host, .inst, .therm, .pins, .recd, .emit]) _
      (only_forEach _ _ _ (only_refl _ _) fun a t h => judgeOver_only _ _ _ h (by decide)) (by decide)).same .mgmt (by decide))
  unfold mgmtRestart
  dsimp only
  rw [if_neg (by simp [hb, hr])]
  split
  · exact judged _ _
  · exact (forEach_keeps duty (fun (p : Nat × List Byte) t => duty_mctpDispatch p.1 p.2 t) _ _).trans (judged _ _)

/-! ### The control cores -/

section cores

variable {s : State} {k : Nat}

theorem coreRunning_of_cores {t : State} (h : t.host.cores = s.host.cores) (j : Nat) :
    coreRunning t j = coreRunning s j := by
  unfold coreRunning
  rw [h]

theorem coreRunning_setCore_self (c : Core) (s : State) : coreRunning (setCore k c s) k = c.running := by
  have h : tabGet (setCore k c s).host.cores k = some c := tabGet_set_self _ _ _
  simp only [coreRunning, h]

theorem coreRunning_setCore_ne {j : Nat} (c : Core) (s : State) (h : j ≠ k) :
    coreRunning (setCore k c s) j = coreRunning s j := by
  have g : tabGet (setCore k c s).host.cores j = tabGet s.host.cores j := tabGet_set_ne _ _ h
  simp only [coreRunning, g]

/-- What moving queues leaves of the host's state. -/
def besideCtls (s : State) : Tab Core × List Item := (s.host.cores, s.host.items)

theorem moveShard_keeps (k : Nat) (s : State) : besideCtls (moveShard k s) = besideCtls s :=
  forEach_keeps besideCtls (f := fun (q : Nat × Nat) s => moveQueue q.1 q.2 (leastLoaded s) s) (fun _ _ => rfl) _ _

theorem mem_fold_running {l : List Nat} (hl : ∀ j ∈ l, coreRunning s j = true) (best : Nat)
    (h : coreRunning s best = true ∨ l ≠ []) : coreRunning s (l.foldl
      (fun best k => if !coreRunning s best ∨ shardLoad s k < shardLoad s best then k else best) best) = true := by
  induction l generalizing best with
  | nil => exact h.resolve_right fun g => g rfl
  | cons j l ih =>
    refine ih (fun i hi => hl i (List.mem_cons_of_mem _ hi)) _ (.inl ?_)
    dsimp only
    split
    · exact hl j List.mem_cons_self
    · next g =>
      simp only [Bool.not_eq_true', not_or, Bool.not_eq_false] at g
      exact g.1

/-- While a core runs, the least-loaded core is one that runs. -/
theorem coreRunning_leastLoaded {j : Nat} (hj : j ≤ 15) (h : coreRunning s j = true) :
    coreRunning s (leastLoaded s) = true := by
  refine mem_fold_running (fun i hi => (List.mem_filter.mp hi).2) 0 (.inr (List.ne_nil_of_mem (a := j) ?_))
  exact List.mem_filter.mpr ⟨List.mem_range.mpr (by omega), h⟩

/-- The I/O queues in the shard of core `k` are all on the list. -/
def ShardWithin (k : Nat) (l : List (Nat × Nat)) (s : State) : Prop :=
  ∀ fn c sq q, ctlOf s fn = some c → tabGet c.sqs sq = some q → sq ≠ 0 → q.shard = k → (fn, sq) ∈ l

theorem shardWithin_queuesOf (k : Nat) (s : State) : ShardWithin k (queuesOf s k) s := by
  intro fn c sq q hc hq hsq hk
  refine List.mem_flatten_of_mem (List.mem_map.mpr ⟨(fn, c), tabGet_mem hc, rfl⟩) ?_
  refine List.mem_map.mpr ⟨(sq, q), List.mem_filter.mpr ⟨tabGet_mem hq, ?_⟩, rfl⟩
  simp only [hsq, hk, ne_eq, not_false_eq_true, decide_true, Bool.and_self]

/-- A queue moved to another core's shard is off the list. -/
theorem shardWithin_moveQueue {a : Nat × Nat} {l : List (Nat × Nat)} {j : Nat} (hj : j ≠ k)
    (h : ShardWithin k (a :: l) s) : ShardWithin k l (moveQueue a.1 a.2 j s) := by
  intro fn c sq q hc hq hsq hk
  by_cases hfn : fn = a.1
  case neg =>
    rw [moveQueue, ctlOf_updCtl_ne _ _ hfn] at hc
    refine (List.mem_cons.mp (h fn c sq q hc hq hsq hk)).resolve_left fun e => hfn ?_
    exact congrArg Prod.fst e
  case pos =>
    subst hfn
    rw [moveQueue, ctlOf_updCtl] at hc
    obtain ⟨c0, hc0, rfl⟩ := Option.map_eq_some_iff.mp hc
    by_cases hs : sq = a.2
    case neg =>
      have hq0 : tabGet c0.sqs sq = some q := (tabGet_upd_ne _ _ hs).symm.trans hq
      refine (List.mem_cons.mp (h _ c0 sq q hc0 hq0 hsq hk)).resolve_left fun e => hs ?_
      exact congrArg Prod.snd e
    case pos =>
      subst hs
      obtain ⟨q0, -, rfl⟩ := Option.map_eq_some_iff.mp ((tabGet_upd_same _ _ _).symm.trans hq)
      exact absurd hk hj

theorem shardWithin_forEach {l : List (Nat × Nat)} {j : Nat} (hj : j ≤ 15) (hr : coreRunning s j = true)
    (hk : coreRunning s k = false) (h : ShardWithin k l s) :
    ShardWithin k [] (forEach l (fun q s => moveQueue q.1 q.2 (leastLoaded s) s) s) := by
  induction l generalizing s with
  | nil => exact h
  | cons a l ih =>
    have hne : leastLoaded s ≠ k := fun e => by
      have hl := coreRunning_leastLoaded hj hr
      rw [e, hk] at hl
      exact absurd hl Bool.false_ne_true
    exact ih (s := moveQueue a.1 a.2 (leastLoaded s) s) hr hk (shardWithin_moveQueue hne h)

/-- No I/O queue is left in the shard of a core that has stopped, where another core runs. -/
theorem moveShard_empties {j : Nat} (hj : j ≤ 15) (hr : coreRunning s j = true) (hk : coreRunning s k = false) {fn sq : Nat}
    {c : Ctl} {q : Sq} (hc : ctlOf (moveShard k s) fn = some c) (hq : tabGet c.sqs sq = some q) (hsq : sq ≠ 0) :
    q.shard ≠ k :=
  fun e => absurd (shardWithin_forEach hj hr hk (shardWithin_queuesOf k s) fn c sq q hc hq hsq e) List.not_mem_nil

/-- A control core whose watchdog expires has stopped, before its queues move. -/
def coreStopped (k : Nat) (s : State) : State :=
  recEvent 0x02 (setCore k { running := false, served := clk s, shardOwner := false } s)

theorem coreExpiry_next (hb : booted s = true) (hk : k ≤ 15) (hr : coreRunning s k = true) (hh : s.fw.hold = none)
    (hf : fired (coreServed s k) 250 (clk s) = true) : coreExpiry k s =
      when ((List.range 16).any (coreRunning (coreStopped k s))) (moveShard k) (coreStopped k s) := by
  unfold coreExpiry
  rw [if_neg (by simp [hb, hr, hh, hf]; omega)]
  rfl

theorem coreExpiry_none (h : fired (coreServed s k) 250 (clk s) = false) : coreExpiry k s = s :=
  if_pos (by simp [h])

theorem coreStopped_only (k : Nat) (s : State) : Only [.host, .recd] s (coreStopped k s) :=
  recEvent_only _ _ (only_host _ (only_refl _ _) (by decide)) (by decide)

theorem coreStopped_host (k : Nat) (s : State) :
    (coreStopped k s).host = (setCore k { running := false, served := clk s, shardOwner := false } s).host :=
  (recEvent_only (ps := [.recd]) _ _ (only_refl _ _) (by decide)).same .host (by decide)

theorem coreStopped_running_self (k : Nat) (s : State) : coreRunning (coreStopped k s) k = false :=
  (coreRunning_of_cores (congrArg HostSt.cores (coreStopped_host k s)) k).trans (coreRunning_setCore_self _ s)

theorem coreStopped_running_ne {j : Nat} (s : State) (h : j ≠ k) : coreRunning (coreStopped k s) j = coreRunning s j :=
  (coreRunning_of_cores (congrArg HostSt.cores (coreStopped_host k s)) j).trans (coreRunning_setCore_ne _ s h)

theorem coreStopped_items (k : Nat) (s : State) : (coreStopped k s).host.items = s.host.items := by
  rw [coreStopped_host]
  rfl

theorem when_moveShard_keeps (b : Bool) (k : Nat) (s : State) : besideCtls (when b (moveShard k) s) = besideCtls s := by
  cases b
  · rfl
  · exact moveShard_keeps k s

theorem coreExpiry_stops (hb : booted s = true) (hk : k ≤ 15) (hr : coreRunning s k = true) (hh : s.fw.hold = none)
    (hf : fired (coreServed s k) 250 (clk s) = true) : Does (.controlCoreWatchdogExpiry k) s fun t =>
      coreRunning t k = false ∧ (∀ j, j ≠ k → coreRunning t j = coreRunning s j) ∧ t.host.items = s.host.items ∧
      (∀ j, j ≤ 15 → j ≠ k → coreRunning s j = true → ∀ fn c sq q, ctlOf t fn = some c → tabGet c.sqs sq = some q →
        sq ≠ 0 → q.shard ≠ k) ∧ Only [.host, .recd, .emit] s t := by
  refine ⟨_, congrArg Host.Outcome.next (coreExpiry_next (s := { s with emit := [] }) hb hk hr hh hf), ?_⟩
  have kept := when_moveShard_keeps ((List.range 16).any (coreRunning (coreStopped k { s with emit := [] }))) k
    (coreStopped k { s with emit := [] })
  have cores := congrArg Prod.fst kept
  have items := congrArg Prod.snd kept
  refine ⟨(coreRunning_of_cores cores k).trans (coreStopped_running_self _ _),
    fun j hj => (coreRunning_of_cores cores j).trans (coreStopped_running_ne _ hj), items.trans (coreStopped_items k { s with emit := [] }),
    ?moved, ?only⟩
  case moved =>
    intro j hj hjk hjr fn c sq q hc hq hsq
    have hr' : coreRunning (coreStopped k { s with emit := [] }) j = true := (coreStopped_running_ne _ hjk).trans hjr
    have some_runs : ((List.range 16).any (coreRunning (coreStopped k { s with emit := [] }))) = true :=
      List.any_eq_true.mpr ⟨j, List.mem_range.mpr (by omega), hr'⟩
    rw [when_of some_runs] at hc
    exact moveShard_empties hj hr' (coreStopped_running_self _ _) hc hq hsq
  case only =>
    refine (only_when _ _ ((coreStopped_only _ _).mono (by decide)) fun t h => ?_).from_emptied (by decide)
    exact moveShard_only _ _ h (by decide)

/-- A control core that runs again, before queues move to it. -/
def coreStarted (k : Nat) (s : State) : State :=
  when (decide (k = 0)) (updHost fun h => { h with kept := (h.items.filter fun it => !it.io && it.unparsed).map (·.seq) })
    (setCore k { running := true, served := clk s, shardOwner := false } s)

theorem coreRestart_next (hb : booted s = true) (hk : k ≤ 15) (hr : coreRunning s k = false) : coreRestart k s =
    reopen (forEach ((List.range 16).filter fun j => !coreRunning (coreStarted k s) j) moveShard (coreStarted k s)) := by
  unfold coreRestart
  rw [if_neg (by simp [hb, hr]; omega)]
  rfl

theorem coreStarted_besideCtls (k : Nat) (s : State) : besideCtls (coreStarted k s) =
    (tabSet s.host.cores k { running := true, served := clk s, shardOwner := false }, s.host.items) := by
  unfold coreStarted
  cases decide (k = 0) <;> rfl

theorem coreRestart_runs (hb : booted s = true) (hk : k ≤ 15) (hr : coreRunning s k = false) :
    Does (.controlCoreRestartDone k) s fun t =>
      coreRunning t k = true ∧ (∀ j, j ≠ k → coreRunning t j = coreRunning s j) ∧ t.host.items = s.host.items ∧
      coreServed t k = clk s ∧ Only [.mbx, .host, .emit] s t := by
  refine ⟨_, congrArg Host.Outcome.next (coreRestart_next (s := { s with emit := [] }) hb hk hr), ?_⟩
  have moved := (forEach_keeps besideCtls (fun j x => moveShard_keeps j x) ((List.range 16).filter fun j =>
    !coreRunning (coreStarted k { s with emit := [] }) j) (coreStarted k { s with emit := [] })).trans
      (coreStarted_besideCtls k { s with emit := [] })
  generalize hx : forEach ((List.range 16).filter fun j => !coreRunning (coreStarted k { s with emit := [] }) j) moveShard
    (coreStarted k { s with emit := [] }) = x at moved
  have host : (reopen x).host = x.host :=
    (reopen_only (ps := [.mbx, .emit]) _ (only_refl _ _) (by decide)).same .host (by decide)
  have cores : (reopen x).host.cores = (setCore k { running := true, served := clk s, shardOwner := false } s).host.cores :=
    (congrArg HostSt.cores host).trans (congrArg Prod.fst moved)
  have own : tabGet (reopen x).host.cores k = some { running := true, served := clk s, shardOwner := false } :=
    (congrArg (tabGet · k) cores).trans (tabGet_set_self _ _ _)
  refine ⟨by simp only [coreRunning, own], fun j hj => (coreRunning_of_cores cores j).trans (coreRunning_setCore_ne _ _ hj),
    (congrArg HostSt.items host).trans (congrArg Prod.snd moved), by simp only [coreServed, own], ?only⟩
  case only =>
    rw [← hx]
    refine (reopen_only _ (only_forEach _ _ _ (only_when _ _ ?_ fun t h => only_host _ h (by decide)) fun j t h =>
      moveShard_only _ _ h (by decide)) (by decide)).from_emptied (by decide)
    exact only_host _ (only_refl _ _) (by decide)

end cores

/-- Settles O58: the primitives' and blocks' equations; what a message taken up leaves of the management core's duty; and
the loop that moves a stopped core's queues leaves none on the list it works through. -/
theorem primitivesBlocksAndWatchdogs : Obligations.PrimitivesBlocksAndWatchdogs := by
  unfold Obligations.PrimitivesBlocksAndWatchdogs
  refine fun s => ⟨fun req ho => ⟨?pause, miResume_answers req ho, ?abort, ?getState, miReplay_answers req ho⟩, ?blocks,
    fun hb => ⟨?expires, ?serves, ?restarts, ?coreServes, ?coreExpires, ?coreRestarts⟩⟩
  case pause => exact ⟨_, primitive_next rfl ho, rfl, rfl, (cpAnswer_slot_only _ _ _ _).from_emptied (by decide)⟩
  case abort => exact ⟨_, primitive_next rfl ho, rfl, rfl, (cpAnswer_slot_only _ _ _ _).from_emptied (by decide)⟩
  case getState => exact primitive_next (c := .controlPrimitiveGetState req) rfl ho
  case blocks =>
    intro hp
    have on : aonOn { s with emit := [] } = true := decide_eq_true hp
    exact ⟨congrArg Host.Outcome.next (when_of on _ _), congrArg Host.Outcome.next (when_of on _ _),
      congrArg Host.Outcome.next (when_of on _ _), congrArg Host.Outcome.next (when_of on _ _)⟩
  case expires =>
    intro hr hh hf
    have run : mgmtExpiry { s with emit := [] } =
        recEvent 0x03 (updMgmt (fun m => { m with restarts := m.restarts + 1 }) (mgmtStop { s with emit := [] })) :=
      if_neg (by simp [booted, hb, hr, hh]; exact hf)
    refine ⟨_, congrArg Host.Outcome.next run, ?_, ?_⟩
    · exact (recEvent_only (ps := [.recd]) _ _ (only_refl _ _) (by decide)).same .mgmt (by decide)
    · exact (recEvent_only _ _ (updMgmt_only _ _ (updMgmt_only _ _ (only_refl _ _) (by decide)) (by decide))
        (by decide)).from_emptied (by decide)
  case serves =>
    intro hr hf
    exact congrArg Host.Outcome.next (if_pos (.inr (.inr (.inr (by rw [Bool.not_eq_true']; exact hf)))))
  case restarts =>
    intro hr
    have d := mgmtRestart_duty (s := { s with emit := [] }) (decide_eq_true hb) hr
    exact ⟨_, rfl, congrArg Prod.fst d, congrArg (fun p => p.2.1) d, congrArg (fun p => p.2.2) d⟩
  case coreServes => exact fun k hk hr hh hf => congrArg Host.Outcome.next (coreExpiry_none (s := { s with emit := [] }) hf)
  case coreExpires => exact fun k hk hr hh hf => coreExpiry_stops (decide_eq_true hb) hk hr hh hf
  case coreRestarts => exact fun k hk hr => coreRestart_runs (decide_eq_true hb) hk hr

end Sys2Proof.Machine
end

section
/-! SUPPORT. The test access ports and the console (R367, R525, R533). -/

namespace Sys2Proof.Machine



section testAccess

variable {s : State} {ir : JtagIr}

theorem jtagInstruction_ignored (h : jtagAllowed s ir = false) : jtagInstruction false ir s = s := by
  simp [jtagInstruction, h]

theorem jtagInstruction_second_ignored (h : bitOf s.fw.cfg.balls 1 = false ∨ s.prot.enables.chain2 = false) :
    jtagInstruction true ir s = s := by
  rcases h with h | h <;> simp [jtagInstruction, h]

theorem jtagInstruction_second (hb : bitOf s.fw.cfg.balls 1 = true) (hc : s.prot.enables.chain2 = true) :
    jtagInstruction true ir s =
      send (.jtag (drawNat s).1) { (drawNat s).2 with pins := { (drawNat s).2.pins with jtag2 := ir } } := by
  simp [jtagInstruction, hb, hc]

theorem jtagInstruction_idcode : jtagInstruction false .idcode s =
    send (.jtag idcode) { s with pins := { s.pins with jtag := .idcode } } := rfl

theorem jtagInstruction_other (h : jtagAllowed s ir = true) (hi : ir ≠ .idcode) : jtagInstruction false ir s =
    send (.jtag (drawNat { s with pins := { s.pins with jtag := ir } }).1)
      (drawNat { s with pins := { s.pins with jtag := ir } }).2 := by
  simp [jtagInstruction, h, hi]

end testAccess

/-- Settles O38: the equation of each form of an instruction. -/
theorem testAccessAndConsole : Obligations.TestAccessAndConsole := by
  unfold Obligations.TestAccessAndConsole
  intro s ir
  refine ⟨fun h => ?allowed, fun h => congrArg Host.Outcome.next (jtagInstruction_ignored (s := { s with emit := [] }) h),
    fun hb hc => ?second, fun h => congrArg Host.Outcome.next (jtagInstruction_second_ignored (s := { s with emit := [] }) h),
    fun c hb hc => congrArg Host.Outcome.next (if_neg (by simp [hb, hc])), fun he hh => ?closed⟩
  case allowed =>
    by_cases hi : ir = .idcode
    case pos =>
      subst hi
      refine ⟨_, congrArg Host.Outcome.next jtagInstruction_idcode, rfl, fun _ => rfl, ?_⟩
      exact (send_only _ _ (only_pins _ (only_refl _ _) (by decide)) (by decide)).from_emptied (by decide)
    case neg =>
      refine ⟨_, congrArg Host.Outcome.next (jtagInstruction_other (s := { s with emit := [] }) h hi), rfl,
        fun e => absurd e hi, ?_⟩
      exact (send_only _ _ (only_free _ (only_pins _ (only_refl _ _) (by decide)) (by decide)) (by decide)).from_emptied
        (by decide)
  case second =>
    refine ⟨_, congrArg Host.Outcome.next (jtagInstruction_second (s := { s with emit := [] }) hb hc), rfl, ?_⟩
    exact (send_only _ _ (only_pins _ (only_free _ (only_refl _ _) (by decide)) (by decide)) (by decide)).from_emptied
      (by decide)
  case closed => exact ⟨rfl, rfl, by simp only [jtagAllowed, he, hh]; rfl⟩

end Sys2Proof.Machine
end

section
/-! SUPPORT. Sensors, rails and the fire door (R459 to R462, R465, R468, R469, R472, R516). -/

namespace Sys2Proof.Machine

/-! ### What judging leaves of the readings and of the fire door -/

/-- The readings, the region limits and the fire door. -/
def sensed (s : State) : Tab Diode × Tab Remote × List Nat × Fire × Nat :=
  (s.therm.diodes, s.therm.remotes, s.therm.remoteLimit, s.therm.fire, s.therm.trips)

theorem sensed_of_therm {s t : State} (h : t.therm = s.therm) : sensed t = sensed s := by
  simp only [sensed, h]

theorem sensed_judgeOver (n z : Nat) (s : State) : sensed (judgeOver n z s) = sensed s := by
  unfold judgeOver
  dsimp only
  split <;> rfl

theorem sensed_setCritical (b : Nat) (s : State) : sensed (setCritical b s) = sensed s := by
  unfold setCritical
  split
  · rfl
  · exact (sensed_of_therm (forEach_keeps State.therm (fun fn t =>
      (notifySmart_only (ps := [.frame, .host, .inst, .recd, .emit]) fn b t (only_refl _ _) (by decide)).same .therm
        (by decide)) _ _)).trans rfl

theorem sensed_judgeWarnings (s : State) : sensed (judgeWarnings s) = sensed s := by
  have later : ∀ x, sensed (driveGpio (forEach (functions x) judgeFn x)) = sensed x := fun x =>
    sensed_of_therm ((driveGpio_only (ps := [.frame, .host, .inst, .pins, .recd, .emit]) _
      (only_forEach _ _ _ (only_refl _ _) fun fn t h => judgeFn_only fn t h (by decide)) (by decide)).same .therm (by decide))
  unfold judgeWarnings
  refine (later _).trans ?_
  split
  · exact sensed_setCritical 1 s
  · rfl

theorem sensed_rorWarning (d : Nat) (b : Bool) (s : State) : sensed (rorWarning d b s) = sensed s := by
  unfold rorWarning
  split
  · rfl
  · split <;> rfl

theorem sensed_recordTemps (z : Nat) (s : State) : sensed (recordTemps z s) = sensed s :=
  sensed_of_therm ((recordTemps_only (ps := [.recd]) _ _ (only_refl _ _) (by decide)).same .therm (by decide))

theorem sensed_recEvent (code : Nat) (s : State) : sensed (recEvent code s) = sensed s :=
  sensed_of_therm ((recEvent_only (ps := [.recd]) _ _ (only_refl _ _) (by decide)).same .therm (by decide))

/-- The steps after a diode's sample has been judged, before the fire door's. -/
def stepsJudged (d z : Nat) (before : Bool) (s : State) : State :=
  let s := when (booted s) (fun s => recordTemps z (rorWarning d before s)) s
  when (mgmtJudges s) (fun s => judgeWarnings (judgeZone z s)) s

theorem sensed_when {f : State → State} (hf : ∀ s, sensed (f s) = sensed s) (b : Bool) (s : State) :
    sensed (when b f s) = sensed s := by
  cases b
  · rfl
  · exact hf s

theorem sensed_stepsJudged (d z : Nat) (before : Bool) (s : State) : sensed (stepsJudged d z before s) = sensed s :=
  (sensed_when (fun x => (sensed_judgeWarnings _).trans (sensed_judgeOver 0 z x)) _ _).trans
    (sensed_when (fun x => (sensed_recordTemps _ _).trans (sensed_rorWarning _ _ x)) _ s)

theorem stepsJudged_power (d z : Nat) (before : Bool) (s : State) : (stepsJudged d z before s).power = s.power := by
  have only : Only [.frame, .host, .inst, .therm, .pins, .recd, .emit] s (stepsJudged d z before s) :=
    only_when _ _ (only_when _ _ (only_refl _ _) fun t h => recordTemps_only _ _ (rorWarning_only _ _ _ h (by decide))
      (by decide)) fun t h => judgeWarnings_only _ (judgeOver_only _ _ _ h (by decide)) (by decide)
  exact only.same .power (by decide)

/-! ### The fire door -/

section fireDoor

variable {z : Nat} {s : State}

theorem fireStop_running (hb : s.power.boot = .running) : fireStop s = startFlush true s :=
  if_pos (.inl (by simp [mayFlush, booted, hb]))

/-- A trip of a running device. -/
theorem trip_running (z : Nat) (hb : s.power.boot = .running) : trip z s = driveGpio (assertAlert (startFlush true
    (updRec (fun r => { r with fireTrips := sat16 (r.fireTrips + 1) }) (updTherm (fun x => { x with
      fire := .cooling, fireZone := z, fireCause := (tripOf s z (voters s z)).cause, trips := x.trips + 1
      tripKept := some (tripOf s z (voters s z)), cooling := false }) s)))) :=
  congrArg (fun x => driveGpio (assertAlert x)) (fireStop_running hb)

theorem trip_therm (z : Nat) (hb : s.power.boot = .running) : (trip z s).therm = { s.therm with
    fire := .cooling, fireZone := z, fireCause := (tripOf s z (voters s z)).cause, trips := s.therm.trips + 1
    tripKept := some (tripOf s z (voters s z)), cooling := false } := by
  rw [trip_running z hb]
  exact (driveGpio_only (ps := [.flash, .power, .pins, .recd]) _ (assertAlert_only _ (startFlush_only true _
    (only_refl _ _) (by decide)) (by decide)) (by decide)).same .therm (by decide)

theorem startFlush_flushes (fire : Bool) (s : State) : (startFlush fire s).power.flush.isSome = true := by
  unfold startFlush
  split <;> rfl

theorem trip_flushes (z : Nat) (hb : s.power.boot = .running) : (trip z s).power.flush.isSome = true := by
  have kept : ∀ x, (driveGpio (assertAlert x)).power = x.power := fun x =>
    (driveGpio_only (ps := [.pins]) _ (assertAlert_only x (only_refl _ _) (by decide)) (by decide)).same .power (by decide)
  rw [trip_running z hb, kept]
  exact startFlush_flushes true _

theorem judgeFire_diodes (z : Nat) (hb : s.power.boot = .running) : (judgeFire z s).therm.diodes = s.therm.diodes := by
  unfold judgeFire
  split
  · split
    · rw [trip_therm z hb]
    · rfl
  · rw [if_neg (by rw [hb]; decide)]
  · rfl

theorem judgeFire_trips (hf : s.therm.fire = .normal) (hv : 2 ≤ (voters s z).length) : judgeFire z s = trip z s := by
  unfold judgeFire
  rw [hf]
  exact if_pos hv

end fireDoor

/-! ### A diode's sample -/

section diodes

variable {d code : Nat} {v : Int} {x : Diode} {s : State}

/-- The diode after a sample whose code differs from the last one. -/
def sampled (x : Diode) (code c : Nat) (v : Int) (warn : Bool) : Diode :=
  { x with warn := warn, ring := (v :: x.ring).take 1000, code := code, codeFrom := c, max := max x.max v, min := min x.min v }

theorem takeDiode_diodes (hx : tabGet s.therm.diodes d = some x) (hb : x.broken = false) (hc : x.code ≠ code) :
    ∃ w, (takeDiode d code v s).therm.diodes = tabSet s.therm.diodes d (sampled x code (aonClk s) v w) := by
  simp only [takeDiode, updTherm, hx, hb, hc, sampled, decide_false, Bool.false_eq_true, if_false]
  exact ⟨_, rfl⟩

theorem takeDiode_entry (hx : tabGet s.therm.diodes d = some x) (hb : x.broken = false) (hc : x.code ≠ code) :
    ∃ w, tabGet (takeDiode d code v s).therm.diodes d = some (sampled x code (aonClk s) v w) := by
  obtain ⟨w, hw⟩ := takeDiode_diodes (v := v) hx hb hc
  exact ⟨w, by rw [hw, tabGet_set_self]⟩

/-- A diode whose code has just changed is not stuck. -/
theorem judgeDiode_good (hx : tabGet s.therm.diodes d = some x) (hb : sensorBad code v 1200 = false)
    (hc : x.codeFrom = aonClk s) : judgeDiode d code v s = s := by
  have fresh : fired x.codeFrom 1048576 (aonClk s) = false := by
    rw [hc]
    exact decide_eq_false (by omega)
  unfold judgeDiode
  rw [hx]
  dsimp only
  split
  · rfl
  · exact if_neg (by simp [hb, fresh])

theorem judgeDiode_bad (hx : tabGet s.therm.diodes d = some x) (hn : x.broken = false)
    (hb : sensorBad code v 1200 = true) : judgeDiode d code v s = breakDiode d s := by
  unfold judgeDiode
  rw [hx]
  dsimp only
  rw [hn, if_neg (by decide), if_pos (.inl hb)]

theorem breakDiode_diodes (d : Nat) (s : State) : (breakDiode d s).therm.diodes =
    tabUpd s.therm.diodes d fun x => { x with broken := true, warn := false } := by
  have h := congrArg Prod.fst (sensed_recEvent 0x12 (updTherm (fun t => { t with
    diodes := tabUpd t.diodes d fun x => { x with broken := true, warn := false } }) s))
  exact h

/-- A sample, up to what it makes of the steps and the fire door. -/
theorem diodeSample_next (hd : d ≤ 15) (hb : s.power.boot = .running) (v : Int) : ∃ before,
    exec (.diodeSample d code v) s = .next (judgeFire (zoneOfDiode d) (stepsJudged d (zoneOfDiode d) before
      (judgeDiode d code v (takeDiode d code v { s with emit := [] })))) := by
  refine ⟨match tabGet s.therm.diodes d with
    | some x => x.warn
    | none => false, congrArg Host.Outcome.next (if_neg ?_)⟩
  rintro (h | h)
  · omega
  · exact absurd (hb.symm.trans h) (by decide)

/-- The state in which a sample has been judged by itself. -/
def diodeJudged (d code : Nat) (v : Int) (s : State) : State := judgeDiode d code v (takeDiode d code v s)

theorem diodeJudged_power (d code : Nat) (v : Int) (s : State) : (diodeJudged d code v s).power = s.power :=
  (judgeDiode_only (ps := [.therm, .recd]) _ _ _ _ (takeDiode_only _ _ _ _ (only_refl _ _) (by decide)) (by decide)).same
    .power (by decide)

theorem diodeJudged_fire (d code : Nat) (v : Int) (s : State) :
    (diodeJudged d code v s).therm.fire = s.therm.fire ∧ (diodeJudged d code v s).therm.trips = s.therm.trips := by
  have broken : ∀ x, (breakDiode d x).therm.fire = x.therm.fire ∧ (breakDiode d x).therm.trips = x.therm.trips := fun x => by
    have h := sensed_recEvent 0x12 (updTherm (fun t => { t with
      diodes := tabUpd t.diodes d fun x => { x with broken := true, warn := false } }) x)
    exact ⟨congrArg (fun p => p.2.2.2.1) h, congrArg (fun p => p.2.2.2.2) h⟩
  unfold diodeJudged judgeDiode
  split
  · exact ⟨rfl, rfl⟩
  · split
    · exact ⟨rfl, rfl⟩
    · split
      · exact broken _
      · exact ⟨rfl, rfl⟩

/-- A sample leaves the diodes as its own judgement has them. -/
theorem diodeSample_diodes (hd : d ≤ 15) (hb : s.power.boot = .running) (v : Int) : Does (.diodeSample d code v) s fun t =>
    t.therm.diodes = (diodeJudged d code v { s with emit := [] }).therm.diodes := by
  obtain ⟨before, run⟩ := diodeSample_next (code := code) hd hb v
  refine ⟨_, run, (judgeFire_diodes _ ?_).trans (congrArg Prod.fst (sensed_stepsJudged _ _ _ _))⟩
  rw [stepsJudged_power]
  exact (congrArg PowerSt.boot (diodeJudged_power d code v _)).trans hb

theorem diodeSample_kept (hd : d ≤ 15) (hp : s.power.boot = .running) (hx : tabGet s.therm.diodes d = some x)
    (hb : x.broken = false) (hc : x.code ≠ code) (hg : sensorBad code v 1200 = false) :
    Does (.diodeSample d code v) s fun t =>
      (∃ y, tabGet t.therm.diodes d = some y ∧ y.ring = (v :: x.ring).take 1000 ∧ y.code = code ∧ y.broken = false ∧
        y.max = max x.max v ∧ y.min = min x.min v) ∧
      ∀ e, e ≠ d → tabGet t.therm.diodes e = tabGet s.therm.diodes e := by
  obtain ⟨t, run, ht⟩ := diodeSample_diodes (code := code) hd hp v
  obtain ⟨w, hw⟩ := takeDiode_diodes (s := { s with emit := [] }) (v := v) hx hb hc
  have hj : diodeJudged d code v { s with emit := [] } = takeDiode d code v { s with emit := [] } :=
    judgeDiode_good ((congrArg (tabGet · d) hw).trans (tabGet_set_self _ _ _)) hg rfl
  rw [hj, hw] at ht
  refine ⟨t, run, ⟨_, (congrArg (tabGet · d) ht).trans (tabGet_set_self _ _ _), rfl, rfl, hb, rfl, rfl⟩, fun e he => ?_⟩
  rw [ht, tabGet_set_ne _ _ he]

theorem diodeSample_breaks (hd : d ≤ 15) (hp : s.power.boot = .running) (hx : tabGet s.therm.diodes d = some x)
    (hb : x.broken = false) (hc : x.code ≠ code) (hg : sensorBad code v 1200 = true) :
    Does (.diodeSample d code v) s fun t => ∃ y, tabGet t.therm.diodes d = some y ∧ y.broken = true := by
  obtain ⟨t, run, ht⟩ := diodeSample_diodes (code := code) hd hp v
  obtain ⟨w, hw⟩ := takeDiode_entry (s := { s with emit := [] }) (v := v) hx hb hc
  have hj : diodeJudged d code v { s with emit := [] } = breakDiode d (takeDiode d code v { s with emit := [] }) :=
    judgeDiode_bad hw hb hg
  rw [hj, breakDiode_diodes] at ht
  exact ⟨t, run, _, by rw [ht, tabGet_upd_self _ hw], rfl⟩

end diodes

/-! ### The fire door's vote on a sample -/

/-- A table without its entries at a key. -/
def besides {α : Type} (k : Nat) (t : Tab α) : Tab α := t.filter fun p => decide (p.1 ≠ k)

theorem besides_tabSet {α : Type} (k : Nat) (t : Tab α) (a : α) : besides k (tabSet t k a) = besides k t := by
  induction t with
  | nil => simp [tabSet, besides]
  | cons p t ih =>
    obtain ⟨j, b⟩ := p
    unfold tabSet
    split
    · next h => simp [besides, h]
    · split
      · simp [besides]
      · have h : besides k ((j, b) :: tabSet t k a) = besides k [(j, b)] ++ besides k (tabSet t k a) :=
          List.filter_append [(j, b)] (tabSet t k a)
        rw [h, ih]
        exact (List.filter_append [(j, b)] t).symm

theorem besides_tabUpd {α : Type} (k : Nat) (t : Tab α) (f : α → α) : besides k (tabUpd t k f) = besides k t := by
  unfold tabUpd
  split
  · exact besides_tabSet k t _
  · rfl

/-- Whether a zone's other diodes vote does not depend on the diode itself. -/
theorem voters_besides (s : State) (z d : Nat) : (voters s z).filter (fun e => decide (e ≠ d)) =
    ((besides d s.therm.diodes).filter fun p => decide (zoneOfDiode p.1 = z) && p.2.votes).map (·.1) := by
  simp only [voters, besides, List.filter_map, List.filter_filter]
  refine congrArg _ (List.filter_congr fun p _ => ?_)
  exact Bool.and_comm _ _

theorem besides_diodeJudged (d code : Nat) (v : Int) (s : State) :
    besides d (diodeJudged d code v s).therm.diodes = besides d s.therm.diodes := by
  have taken : besides d (takeDiode d code v s).therm.diodes = besides d s.therm.diodes := besides_tabSet _ _ _
  have broken : ∀ x, besides d (breakDiode d x).therm.diodes = besides d x.therm.diodes := fun x => by
    rw [breakDiode_diodes, besides_tabUpd]
  unfold diodeJudged judgeDiode
  split
  · exact taken
  · split
    · exact taken
    · split
      · exact (broken _).trans taken
      · exact taken

theorem diodeSample_trips {d code : Nat} {v : Int} {s : State} (hd : d ≤ 15) (hp : s.power.boot = .running)
    (hf : s.therm.fire = .normal) (hv : 2 ≤ ((voters s (zoneOfDiode d)).filter fun e => decide (e ≠ d)).length) :
    Does (.diodeSample d code v) s fun t => t.therm.fire = .cooling ∧ t.therm.fireZone = zoneOfDiode d ∧
      t.therm.trips = s.therm.trips + 1 ∧ t.power.flush.isSome = true := by
  obtain ⟨before, run⟩ := diodeSample_next (code := code) hd hp v
  have hs := sensed_stepsJudged d (zoneOfDiode d) before (diodeJudged d code v { s with emit := [] })
  have hb := congrArg PowerSt.boot ((stepsJudged_power d (zoneOfDiode d) before
    (diodeJudged d code v { s with emit := [] })).trans (diodeJudged_power d code v { s with emit := [] }))
  obtain ⟨fire, trips⟩ := diodeJudged_fire d code v { s with emit := [] }
  have others := besides_diodeJudged d code v { s with emit := [] }
  change exec _ s = .next (judgeFire (zoneOfDiode d) (stepsJudged d (zoneOfDiode d) before
    (diodeJudged d code v { s with emit := [] }))) at run
  generalize diodeJudged d code v { s with emit := [] } = y at hs hb fire trips others run
  generalize stepsJudged d (zoneOfDiode d) before y = x at hs hb run
  have hd' : x.therm.diodes = y.therm.diodes := congrArg Prod.fst hs
  have hf' : x.therm.fire = .normal := (congrArg (fun p => p.2.2.2.1) hs).trans (fire.trans hf)
  have ht' : x.therm.trips = s.therm.trips := (congrArg (fun p => p.2.2.2.2) hs).trans trips
  have hv' : 2 ≤ (voters x (zoneOfDiode d)).length := by
    have same : (voters x (zoneOfDiode d)).filter (fun e => decide (e ≠ d)) =
        (voters s (zoneOfDiode d)).filter (fun e => decide (e ≠ d)) := by
      rw [voters_besides, voters_besides, hd', others]
    exact Nat.le_trans (same ▸ hv) (List.length_filter_le _ _)
  rw [judgeFire_trips hf' hv'] at run
  refine ⟨_, run, ?_, ?_, ?_, trip_flushes _ (hb.trans hp)⟩
  · rw [trip_therm _ (hb.trans hp)]
  · rw [trip_therm _ (hb.trans hp)]
  · rw [trip_therm _ (hb.trans hp)]
    exact congrArg (· + 1) ht'

/-! ### A remote input's sample -/

section remotes

variable {r code : Nat} {v : Int} {x : Remote} {s : State}

/-- The input after a sample whose code differs from the last one, before it is judged. -/
def heard (x : Remote) (code c : Nat) (v : Int) (near : List Int) : Remote :=
  { x with value := v, code := code, codeFrom := c, near := near, max := max x.max v, min := min x.min v }

theorem takeRemote_entry (hx : tabGet s.therm.remotes r = some x) (hb : x.broken = false) (hc : x.code ≠ code) :
    tabGet (takeRemote r code v s).therm.remotes r = some (heard x code (aonClk s) v (remoteNow s v)) := by
  simp only [takeRemote, updTherm, hx, hb, hc, heard, decide_false, Bool.false_eq_true, if_false, tabGet_set_self]

/-- A good sample's step, kept with the open record's extremes. -/
def regionJudged (r : Nat) (v : Int) (y : Remote) (s : State) : State :=
  updRec (fun k => { k with temps := widen k.temps (4 + r) v })
    (updTherm (fun t => { t with remotes := tabSet t.remotes r (judgeRegion (remoteLimit s r) (aonClk s) v y) }) s)

/-- What a sample leaves once its input has been judged. -/
def remoteJudged (s : State) : State := when (mgmtJudges s) judgeWarnings s

theorem sensed_remoteJudged (s : State) : sensed (remoteJudged s) = sensed s := sensed_when sensed_judgeWarnings _ s

theorem remoteJudged_power (s : State) : (remoteJudged s).power = s.power :=
  (only_when (ps := [.frame, .host, .inst, .therm, .pins, .recd, .emit]) _ _ (only_refl _ _) fun t h =>
    judgeWarnings_only t h (by decide)).same .power (by decide)

/-- What a sample of an input that is not broken makes of the input itself. -/
def remoteOwn (r code : Nat) (v : Int) (x : Remote) (s : State) : State :=
  if sensorBad code v 1000 = true then breakRemote r (takeRemote r code v s)
  else regionJudged r v (heard x code (aonClk s) v (remoteNow s v)) (takeRemote r code v s)

theorem remoteOwn_power (r code : Nat) (v : Int) (x : Remote) (s : State) : (remoteOwn r code v x s).power = s.power := by
  unfold remoteOwn
  split
  · exact (breakRemote_only (ps := [.therm, .recd]) _ _ (takeRemote_only _ _ _ _ (only_refl _ _) (by decide))
      (by decide)).same .power (by decide)
  · rfl

theorem remoteSample_judged (hr : r ≤ 3) (hp : s.power.boot = .running) (hm : s.mgmt.running = true)
    (hf : s.power.flush = none) (hx : tabGet s.therm.remotes r = some x) (hb : x.broken = false) (hc : x.code ≠ code) :
    remoteSample r code v s = remoteJudged (remoteOwn r code v x s) := by
  have there : ¬(3 < r ∨ s.power.boot = .off) := by simp [hp, hr]
  have judges : mgmtJudges (takeRemote r code v s) = true := by
    have h : mgmtJudges s = true := by simp [mgmtJudges, booted, flushing, hp, hm, hf]
    exact h
  have fresh : fired (aonClk s) 1048576 (aonClk (takeRemote r code v s)) = false :=
    decide_eq_false (Nat.not_lt.mpr (Nat.le_add_right (aonClk s) 1048576))
  have hold : (remoteJudged (remoteOwn r code v x s)).power.boot ≠ .fireHold := by
    rw [remoteJudged_power, remoteOwn_power, hp]
    decide
  have own : (heard x code (aonClk s) v (remoteNow s v)).codeFrom = aonClk s := rfl
  unfold remoteSample
  dsimp only
  rw [if_neg there, takeRemote_entry hx hb hc]
  dsimp only
  rw [judges, own, fresh, Bool.false_and, Bool.or_false]
  rw [show (heard x code (aonClk s) v (remoteNow s v)).broken = false from hb]
  simp only [if_true, Bool.false_eq_true, false_or, if_false]
  exact if_neg hold

theorem breakRemote_remotes (r : Nat) (s : State) : (breakRemote r s).therm.remotes =
    tabUpd s.therm.remotes r fun x => { x with broken := true, step := max 2 x.step } := by
  have h := congrArg (fun p => p.2.1) (sensed_recEvent 0x12 (updTherm (fun t => { t with
    remotes := tabUpd t.remotes r fun x => { x with broken := true, step := max 2 x.step } }) s))
  exact h

/-- The inputs after a sample are as its own judgement has them. -/
theorem remoteSample_remotes (hr : r ≤ 3) (hp : s.power.boot = .running) (hm : s.mgmt.running = true)
    (hf : s.power.flush = none) (hx : tabGet s.therm.remotes r = some x) (hb : x.broken = false) (hc : x.code ≠ code) :
    Does (.remoteSample r code v) s fun t =>
      t.therm.remotes = (remoteOwn r code v x { s with emit := [] }).therm.remotes :=
  ⟨_, congrArg Host.Outcome.next (remoteSample_judged (s := { s with emit := [] }) hr hp hm hf hx hb hc),
    congrArg (fun p => p.2.1) (sensed_remoteJudged _)⟩

theorem remoteSample_kept (hr : r ≤ 3) (hp : s.power.boot = .running) (hm : s.mgmt.running = true)
    (hf : s.power.flush = none) (hx : tabGet s.therm.remotes r = some x) (hb : x.broken = false) (hc : x.code ≠ code)
    (hg : sensorBad code v 1000 = false) : Does (.remoteSample r code v) s fun t =>
      ∃ y, tabGet t.therm.remotes r = some y ∧ y.value = v ∧ y.code = code ∧ y.broken = false ∧
        (x.step ≤ regionStep (remoteLimit s r) v → y.step = regionStep (remoteLimit s r) v) ∧
        (regionStep (remoteLimit s r) v < x.step → y.step =
          if regionStep (remoteLimit s r) (v + 24) < x.step ∧ x.fallFrom + 500000 ≤ aonClk s then x.step - 1 else x.step) := by
  refine (remoteSample_remotes hr hp hm hf hx hb hc).imp fun t ht => ?_
  refine ⟨judgeRegion (remoteLimit s r) (aonClk s) v (heard x code (aonClk s) v (remoteNow s v)), ?entry, ?_⟩
  case entry =>
    rw [ht, remoteOwn, if_neg (by simp [hg])]
    exact tabGet_set_self _ _ _
  unfold judgeRegion
  dsimp only
  split
  · next h => exact ⟨rfl, rfl, hb, fun _ => rfl, fun g => absurd g (Nat.not_lt.mpr h)⟩
  · next h =>
    split
    · next k => exact ⟨rfl, rfl, hb, fun g => absurd g h, fun _ => (if_pos k).symm⟩
    · next k => exact ⟨rfl, rfl, hb, fun g => absurd g h, fun _ => (if_neg k).symm⟩

theorem remoteSample_breaks (hr : r ≤ 3) (hp : s.power.boot = .running) (hm : s.mgmt.running = true)
    (hf : s.power.flush = none) (hx : tabGet s.therm.remotes r = some x) (hb : x.broken = false) (hc : x.code ≠ code)
    (hg : sensorBad code v 1000 = true) : Does (.remoteSample r code v) s fun t =>
      ∃ y, tabGet t.therm.remotes r = some y ∧ y.broken = true ∧ y.step = max 2 x.step := by
  refine (remoteSample_remotes hr hp hm hf hx hb hc).imp fun t ht => ?_
  rw [remoteOwn, if_pos hg, breakRemote_remotes] at ht
  exact ⟨_, (congrArg (tabGet · r) ht).trans (tabGet_upd_self _ (takeRemote_entry (s := { s with emit := [] }) hx hb hc)),
    rfl, rfl⟩

end remotes

/-! ### Rails and the alert response -/

section rails

variable {rail mv : Nat} {s : State}

/-- A rail's sample, before the recorder's extremes and its event. -/
def railTaken (rail mv : Nat) (s : State) : State := updTherm (fun t => { t with rails := tabSet t.rails rail mv }) s

theorem railSample_recorded (hb : s.power.boot ≠ .off) (h1 : 1 ≤ rail) (h12 : rail ≤ 12) :
    Only [.recd] (railTaken rail mv s) (railSample rail mv s) := by
  unfold railSample
  rw [if_neg (by simp [hb]; omega), if_neg (by omega)]
  dsimp only
  split
  · refine only_when _ _ (updRec_only _ _ (only_refl _ _) (by decide)) fun t h => recEvent_only _ _ h (by decide)
  · exact updRec_only _ _ (only_refl _ _) (by decide)

theorem railSample_takes (hb : s.power.boot ≠ .off) (h1 : 1 ≤ rail) (h12 : rail ≤ 12) :
    Does (.railMonitorSample rail mv) s fun t => tabGet t.therm.rails rail = some mv ∧
      (∀ k, k ≠ rail → tabGet t.therm.rails k = tabGet s.therm.rails k) ∧ Only [.therm, .recd, .emit] s t := by
  have recorded := railSample_recorded (mv := mv) (s := { s with emit := [] }) hb h1 h12
  have rails := congrArg ThermSt.rails (recorded.same .therm (by decide))
  refine ⟨_, rfl, (congrArg (tabGet · rail) rails).trans (tabGet_set_self _ _ _),
    fun k hk => (congrArg (tabGet · k) rails).trans (tabGet_set_ne _ _ hk), ?_⟩
  exact ((only_therm _ (only_refl _ _) (by decide)).trans (recorded.mono (by decide))).from_emptied (by decide)

theorem railSample_holdup (hb : s.power.boot ≠ .off) : Does (.railMonitorSample 13 mv) s fun t =>
    t.therm = { s.therm with holdupMv := mv } ∧ Only [.therm, .recd, .emit] s t := by
  have run : railSample 13 mv { s with emit := [] } =
      updRec (fun r => { r with holdupExt := widenExt r.holdupExt (some ((mv : Int), (mv : Int))) })
        (updTherm (fun t => { t with holdupMv := mv }) { s with emit := [] }) := by
    unfold railSample
    rw [if_neg (by simp [hb]), if_pos rfl]
  refine ⟨_, congrArg Host.Outcome.next run, rfl, ?_⟩
  exact (updRec_only _ _ (only_therm _ (only_refl _ _) (by decide)) (by decide)).from_emptied (by decide)

end rails

/-- Settles O59: what a sample's own judgement makes of its sensor, which the later judging of steps and warnings leaves,
and the votes of the zone's other diodes, which the sample leaves. -/
theorem sensorsAreSampled : Obligations.SensorsAreSampled := by
  unfold Obligations.SensorsAreSampled
  intro s hp
  have on : s.power.boot ≠ .off := by rw [hp]; decide
  refine ⟨fun d code v x hd hx hb hc => ⟨fun hg => diodeSample_kept hd hp hx hb hc hg,
      fun hg => diodeSample_breaks hd hp hx hb hc hg, fun hf hv => diodeSample_trips hd hp hf hv⟩,
    fun r code v x hr hx hb hc hm hf => ⟨fun hg => remoteSample_kept hr hp hm hf hx hb hc hg,
      fun hg => remoteSample_breaks hr hp hm hf hx hb hc hg⟩,
    fun rail mv => ⟨fun ⟨h1, h12⟩ => railSample_takes on h1 h12, fun h => h ▸ railSample_holdup on⟩, fun ha => ?alert⟩
  case alert => exact congrArg Host.Outcome.next (if_neg (by simp [on, ha]))

end Sys2Proof.Machine
end

section
/-! SUPPORT. The boot sequencer (R439, R440, R446, R470, R516, R517). -/

namespace Sys2Proof.Machine

section sequencer

variable {s : State}

theorem powerOn_begins (h : s.power.boot = .off) : powerOn s = beginSequence true s := if_pos h

theorem bootRetry_begins (h : s.power.boot = .retry) : bootRetry s = beginSequence false s := if_pos h

theorem flushRestart_begins (h : s.power.boot = .stopped) :
    flushRestart s = beginSequence true { s with pins := { s.pins with pfLow := false } } := if_pos h

theorem coolingRestart_begins (h : s.power.boot = .fireHold) (hc : s.therm.cooling = true) : coolingRestart s =
    beginSequence true (driveGpio { updTherm (fun t => { t with fire := .normal, cooling := false }) s with
      pins := { s.pins with fault := false } }) :=
  if_neg (by simp [h, hc])

theorem railGood_next {g : Nat} (hg : g < 4) (h : groupAwaited s.power.boot = some g) : railGood g s =
    setPwrEn (pwrEnUpTo (min 4 (g + 2))) (updFw (fun w => { w with bootStep := 0 }) (updPower (fun p => { p with
      good := p.good ++ railGroup g, boot := if g = 3 then .rom else .rails (g + 1) }) s)) :=
  if_neg (by simp [h]; omega)

theorem bootWaitTimeout_fails {w : Nat} {f : Nat × Nat} (h : waitFault s w = some f) :
    bootWaitTimeout w s = startFails f s := by
  rw [bootWaitTimeout, h]

/-- The enables that group `g`'s power-good drives. -/
theorem pwrEnUpTo_next : ∀ g < 4, ∀ i < 4, (pwrEnUpTo (min 4 (g + 2))).getD i false = decide (i ≤ g + 1) := by decide

/-- ALERT_N leaves the power state and the other pins. -/
theorem assertAlert_kept (s : State) : (assertAlert s).power = s.power ∧ (assertAlert s).pins.fault = s.pins.fault ∧
    (assertAlert s).pins.pwrEn = s.pins.pwrEn := by
  unfold assertAlert
  split <;> exact ⟨rfl, rfl, rfl⟩

/-- The power state and pins in which a failed start leaves the device. -/
theorem startFails_kept (f : Nat × Nat) (s : State) :
    (startFails f s).power = { s.power with
      attempts := s.power.attempts + 1, faultKind := f.1, faultRail := f.2, faultAttempts := s.power.attempts + 1
      rcFallback := decide (f.1 = 2), good := standbyRails
      boot := if s.power.attempts + 1 < 3 then .retry else .held } ∧
    (startFails f s).pins.fault = true ∧ (startFails f s).pins.pwrEn = [false, false, false, false] :=
  assertAlert_kept _

end sequencer

/-- Settles O33: the equation of each command of the sequencer. -/
theorem bootSequencerBringsUpTheRails : Obligations.BootSequencerBringsUpTheRails := by
  unfold Obligations.BootSequencerBringsUpTheRails
  refine fun s => ⟨fun h => ?on, fun g hg h => ?good, fun w f h => ?timeout, fun h => ?retry, fun h => ?flush,
    fun h hc => ?cooling, ?removed⟩
  case on =>
    refine ⟨_, congrArg Host.Outcome.next (powerOn_begins (s := { s with emit := [] }) h), rfl, rfl, rfl, rfl, ?_⟩
    exact (beginSequence_only true _ (only_refl _ _) (by decide)).from_emptied (by decide)
  case good =>
    refine ⟨_, congrArg Host.Outcome.next (railGood_next (s := { s with emit := [] }) hg h), rfl, rfl,
      pwrEnUpTo_next g hg, ?_⟩
    exact (setPwrEn_only _ _ (updFw_only _ _ (updPower_only _ _ (only_refl _ _) (by decide)) (by decide))
      (by decide)).from_emptied (by decide)
  case timeout =>
    obtain ⟨power, fault, enables⟩ := startFails_kept f { s with emit := [] }
    refine ⟨_, congrArg Host.Outcome.next (bootWaitTimeout_fails (s := { s with emit := [] }) h), by rw [power],
      by rw [power], by rw [power], by rw [power], by rw [power], by rw [power], fault, enables, ?_⟩
    exact (startFails_only f _ (only_refl _ _) (by decide)).from_emptied (by decide)
  case retry =>
    refine ⟨_, congrArg Host.Outcome.next (bootRetry_begins (s := { s with emit := [] }) h), rfl, rfl, rfl, ?_⟩
    exact (beginSequence_only false _ (only_refl _ _) (by decide)).from_emptied (by decide)
  case flush =>
    refine ⟨_, congrArg Host.Outcome.next (flushRestart_begins (s := { s with emit := [] }) h), rfl, rfl, rfl, ?_⟩
    exact (beginSequence_only true _ (only_pins _ (only_refl _ _) (by decide)) (by decide)).from_emptied (by decide)
  case cooling =>
    refine ⟨_, congrArg Host.Outcome.next (coolingRestart_begins (s := { s with emit := [] }) h hc), rfl, rfl, rfl, rfl, ?_⟩
    exact (beginSequence_only true _ (driveGpio_only _ (only_pins _ (only_therm _ (only_refl _ _) (by decide)) (by decide))
      (by decide)) (by decide)).from_emptied (by decide)
  case removed => exact ⟨_, rfl, rfl, rfl, rfl, rfl, rfl, rfl, rfl, rfl, rfl, rfl, rfl, fun h => if_pos h, rfl, rfl, rfl⟩

end Sys2Proof.Machine
end

section
/-! SUPPORT. The cold start, the choice of the image, and entering and leaving the cellar (R41, R394 to R396, R407 to
R409, R471). -/

namespace Sys2Proof.Machine

/-! ### The main firmware starts -/

section images

variable {found : BootFind} {s t : State}

/-- Whether the build can start depends on the record in force, the classes and the dies alone. -/
theorem mayStart_congr (hc : t.fw.cfg = s.fw.cfg) (hs : t.fw.cfgState = s.fw.cfgState) (hm : t.media = s.media)
    (hf : t.flash = s.flash) : mayStart found t = mayStart found s := by
  have dies : ∀ c, buildDies t c found = buildDies s c found := fun c => by
    have page : soundPage t c found = soundPage s c found := by
      funext d
      unfold soundPage dieAt
      rw [hf]
    unfold buildDies soundDies
    rw [page]
  unfold mayStart newClasses
  rw [dies, hc, hs, hm]

/-- What a copy is judged by: the slots, the record's BOOT_SLOT and SV_MIN. -/
theorem tryPasses_congr (h1 : t.fw.slot1 = s.fw.slot1) (h2 : t.fw.slot2 = s.fw.slot2) (hc : t.fw.cfg = s.fw.cfg)
    (hv : t.fw.svMin = s.fw.svMin) (k : Nat) : tryPasses t found k = tryPasses s found k := by
  have fault : copyFault t = copyFault s := by
    unfold copyFault verifyFault
    rw [hv]
  have slot : slotAt t (trySlot t k) = slotAt s (trySlot s k) := by
    unfold slotAt trySlot
    rw [h1, h2, hc]
  unfold tryPasses
  rw [slot, fault]

theorem identified_only (b : Bool) (found : BootFind) (s : State) :
    Only [.zone, .media, .flash, .recd, .emit, .free] s (if b = true then s else identifyFlash found s) := by
  split
  · exact only_refl _ _
  · exact identifyFlash_only _ _ (only_refl _ _) (by decide)

/-- The functions and engines run once they have started, and the firmware state is otherwise as it was. -/
theorem startRun_runs (s : State) : (startRun s).power.boot = .running ∧ (startRun s).mgmt.running = true ∧
    (startRun s).fw = { s.fw with bootStep := 8 } := by
  have h : (startFunctions s).fw = s.fw :=
    (startFunctions_only (ps := [.host, .zone, .media, .inst, .prot]) s (only_refl _ _) (by decide)).same .fw (by decide)
  exact ⟨rfl, rfl, congrArg (fun w : FwSt => { w with bootStep := 8 }) h⟩

theorem startHoldup_boot (found : BootFind) (s : State) : (startHoldup found s).power.boot = s.power.boot := by
  unfold startHoldup
  split
  rfl

/-- What the engines' start leaves once the functions run: the boot state, the management core and the firmware state. -/
theorem recovered_kept (found : BootFind) (s : State) :
    Only [.frame, .host, .zone, .media, .flash, .inst, .prot, .therm, .pins, .recd, .emit] s
      (settleDies (resumeProgress (recoverMaps found s))) :=
  settleDies_only _ (resumeProgress_only _ (recoverMaps_only _ _ (only_refl _ _) (by decide)) (by decide)) (by decide)

theorem areasBuilt_only (b : Bool) (s : State) : Only [.media] s (if b = true then s else buildAreas s) := by
  split
  · exact only_refl _ _
  · exact buildAreas_only _ (only_refl _ _) (by decide)

theorem startEngines_runs (found : BootFind) (s : State) : (startEngines found s).power.boot = .running ∧
    (startEngines found s).mgmt.running = true ∧ (startEngines found s).fw = { s.fw with bootStep := 8 } := by
  unfold startEngines
  dsimp only
  obtain ⟨boot, mgmt, fw⟩ := startRun_runs (if decide (s.fw.cfgState = 2) = true then s else identifyFlash found s)
  rw [(identified_only (decide (s.fw.cfgState = 2)) found s).same .fw (by decide)] at fw
  generalize startRun (if decide (s.fw.cfgState = 2) = true then s else identifyFlash found s) = x at boot mgmt fw
  have recovered : Only [.frame, .host, .zone, .media, .flash, .inst, .prot, .therm, .pins, .recd, .emit] x
      (if decide (s.fw.cfgState = 2) = true then x else settleDies (resumeProgress (recoverMaps found x))) := by
    split
    · exact only_refl _ _
    · exact recovered_kept found x
  generalize (if decide (s.fw.cfgState = 2) = true then x else settleDies (resumeProgress (recoverMaps found x))) = y at recovered
  have later : ∀ z, Only [.frame, .host, .media, .inst, .therm, .pins, .recd, .emit] z
      (if decide (s.fw.cfgState = 2) = true then startCritical (startPolicy z) else buildAreas (startCritical (startPolicy z))) :=
    fun z => ((startCritical_only _ (startPolicy_only _ (only_refl _ _) (by decide)) (by decide))).trans
      ((areasBuilt_only _ _).mono (by decide))
  have holdup : Only [.media, .power] y (startHoldup found y) := startHoldup_only _ _ (only_refl _ _) (by decide)
  refine ⟨?boot, ?mgmt, ?fw⟩
  case boot =>
    refine (congrArg PowerSt.boot ((later _).same .power (by decide))).trans ((startHoldup_boot found y).trans ?_)
    exact (congrArg PowerSt.boot (recovered.same .power (by decide))).trans boot
  case mgmt =>
    refine (congrArg MgmtSt.running ((later _).same .mgmt (by decide))).trans ?_
    exact (congrArg MgmtSt.running ((holdup.same .mgmt (by decide)).trans (recovered.same .mgmt (by decide)))).trans mgmt
  case fw =>
    exact ((later _).same .fw (by decide)).trans ((holdup.same .fw (by decide)).trans ((recovered.same .fw (by decide)).trans fw))

/-- The firmware of slot `n` has reported ready, before its engines start. -/
def mainReady (n : Nat) (s : State) : State :=
  let i := (slotAt s n).image
  let c := clk s
  let s := updSlotAt n (fun k => if k.st = .handoverFailed then k else { k with st := .valid }) s
  let s := updFw (fun w => { w with running := n, image := i, began := c }) s
  let s := when (decide (n ≠ s.fw.cfg.bootSlot)) (recEvent 0x08) s
  updRec (fun r => { r with version := wordOf (runningVersion s) }) s

theorem mainReady_only (n : Nat) (s : State) : Only [.fw, .recd] s (mainReady n s) := by
  unfold mainReady
  dsimp only
  refine updRec_only _ _ (only_when _ _ ?_ fun t h => recEvent_only _ _ h (by decide)) (by decide)
  exact updFw_only _ _ (updSlotAt_only _ _ _ (only_refl _ _) (by decide)) (by decide)

theorem updSlotAt_kept (n : Nat) (f : FwSlot → FwSlot) (s : State) : (updSlotAt n f s).fw.cfg = s.fw.cfg ∧
    (updSlotAt n f s).fw.cfgState = s.fw.cfgState ∧ (updSlotAt n f s).fw.cellar = s.fw.cellar := by
  unfold updSlotAt updFw
  dsimp only
  split <;> exact ⟨rfl, rfl, rfl⟩

theorem mainReady_fw (n : Nat) (s : State) : (mainReady n s).fw.running = n ∧
    (mainReady n s).fw.image = (slotAt s n).image ∧ (mainReady n s).fw.cfg = s.fw.cfg ∧
    (mainReady n s).fw.cfgState = s.fw.cfgState ∧ (mainReady n s).fw.cellar = s.fw.cellar := by
  have recorded : ∀ b x (f : Record → Record), (updRec f (when b (recEvent 0x08) x)).fw = x.fw := fun b x f =>
    (updRec_only _ _ (only_when (ps := [.recd]) _ _ (only_refl _ _)
      fun t h => recEvent_only _ _ h (by decide)) (by decide)).same .fw (by decide)
  unfold mainReady
  dsimp only
  rw [recorded]
  exact ⟨rfl, rfl, updSlotAt_kept n _ s⟩

/-- The firmware that has reported ready runs, where the build can start. -/
theorem bootMain_runs (n : Nat) (hm : mayStart found s = true) : (bootMain found n s).power.boot = .running ∧
    (bootMain found n s).mgmt.running = true ∧ (bootMain found n s).fw.running = n ∧
    (bootMain found n s).fw.image = (slotAt s n).image ∧ (bootMain found n s).fw.cellar = s.fw.cellar ∧
    (bootMain found n s).frame.counter = s.frame.counter := by
  obtain ⟨running, image, cfg, cfgState, cellar⟩ := mainReady_fw n s
  have only := mainReady_only n s
  have may : mayStart found (mainReady n s) = true :=
    (mayStart_congr cfg cfgState (only.same .media (by decide)) (only.same .flash (by decide))).trans hm
  have run : bootMain found n s = startEngines found (mainReady n s) := if_pos may
  obtain ⟨boot, mgmt, fw⟩ := startEngines_runs found (mainReady n s)
  obtain ⟨k, frame⟩ := (startEngines_ticks found (mainReady n s) (sameFrame_refl _)).frame
  rw [run, fw]
  refine ⟨boot, mgmt, running, image, cellar, ?_⟩
  rw [frame, only.same .frame (by decide)]

/-- The first copy tried passes and its firmware reports ready. -/
theorem tryImages_runs {n k : Nat} {v : Verdict} (hp : tryPasses s found k = true) (hk : found.copies[k]? = some (v, true)) :
    tryImages found (n + 1) k s = bootMain found (trySlot s k) s := by
  simp only [tryImages, hp, hk, Bool.not_true, Bool.false_eq_true, if_false]

end images

/-! ### The mailbox at a start of the cellar -/

section mailbox

variable {s : State}

/-- The queues of the mailbox, the requests outstanding and the device's epoch. -/
def lines (s : State) : List Posted × List InWord × List Outst × Half :=
  (s.mbx.outQ, s.mbx.inQ, s.mbx.outst, s.mbx.devEpoch)

theorem lines_setEvent (b : Nat) (s : State) : lines (setEvent b s) = lines s := by
  simp only [lines, setEvent_outQ, setEvent_inQ, setEvent_outst, setEvent_devEpoch]

theorem lines_emptying (f : State → State) (s : State) : lines (emptying f s) = lines (f s) := by
  unfold emptying when
  dsimp only
  split
  · exact lines_setEvent 1 (f s)
  · rfl

theorem lines_abortWords (n : Nat) (s : State) : lines (abortWords n s) = lines s := lines_setEvent 3 _

theorem lines_freeLatch (n : Nat) (s : State) : lines (freeLatch n s) = lines s := by
  unfold freeLatch
  dsimp only
  split
  · exact lines_setEvent 7 _
  split
  · rfl
  · rfl

theorem lines_freeLatchesOf (a : Nat) (s : State) : lines (freeLatchesOf a s) = lines s :=
  forEach_keeps lines lines_freeLatch _ s

theorem lines_cellarMailboxReset (s : State) :
    lines (cellarMailboxReset s) = ([], s.mbx.inQ, [], s.mbx.devEpoch + 1) := by
  unfold cellarMailboxReset
  dsimp only
  rw [lines_setEvent, lines_abortWords, forEach_keeps lines lines_freeLatchesOf, lines_emptying]
  rfl

theorem freeLatchesOf_free (a : Nat) (h : s.mbx.latches = []) : freeLatchesOf a s = s := by
  rw [freeLatchesOf, h]
  rfl

theorem forEach_id {α : Type} {f : α → State → State} (l : List α) (hf : ∀ a, f a s = s) : forEach l f s = s := by
  induction l with
  | nil => rfl
  | cons a l ih =>
    change forEach l f (f a s) = s
    rw [hf a, ih]

/-- With every latch free, the reset of a cellar changes the mailbox alone, and leaves the latches free. -/
theorem cellarMailboxReset_free (hl : s.mbx.latches = []) : (cellarMailboxReset s).mbx.latches = [] ∧
    Only [.mbx, .emit] s (cellarMailboxReset s) := by
  have h : (emptying (updMbx fun m => { m with
      outQ := [], part := none, skip := 0, backlog := [], devEpoch := m.devEpoch + 1, outst := [] }) s).mbx.latches = [] :=
    (congrArg (fun m : MbxSt => m.latches) (emptying_evMbx _ s)).trans hl
  unfold cellarMailboxReset
  dsimp only
  rw [forEach_id _ fun a => freeLatchesOf_free a h]
  refine ⟨?_, ?_⟩
  · rw [setEvent_latches, abortWords, setEvent_latches]
    exact h
  · exact setEvent_only _ _ (abortWords_only _ _ (only_when _ _ (updMbx_only _ _ (only_refl _ _) (by decide)) fun t h =>
      setEvent_only _ _ h (by decide)) (by decide)) (by decide)

/-- The owner's key and the number of the boot. -/
def keyAndBoots (s : State) : Option (BitVec 768) × Nat := (s.prot.ownerKey, s.inst.boots)

theorem keyAndBoots_of_only {t : State} (h : Only [.mbx, .emit] s t) : keyAndBoots t = keyAndBoots s := by
  have hp : t.prot = s.prot := h.same .prot (by decide)
  have hi : t.inst = s.inst := h.same .inst (by decide)
  rw [keyAndBoots, hp, hi, keyAndBoots]

theorem keyAndBoots_setEvent (b : Nat) (s : State) : keyAndBoots (setEvent b s) = keyAndBoots s :=
  keyAndBoots_of_only (setEvent_only _ _ (only_refl _ _) (by decide))

theorem keyAndBoots_freeLatch (n : Nat) (s : State) : keyAndBoots (freeLatch n s) = keyAndBoots s := by
  unfold freeLatch
  dsimp only
  split
  · exact keyAndBoots_setEvent 7 _
  split
  · rfl
  · rfl

theorem keyAndBoots_cellarMailboxReset (s : State) : keyAndBoots (cellarMailboxReset s) = keyAndBoots s := by
  have emptied : Only [.mbx, .emit] s (emptying (updMbx fun m => { m with
      outQ := [], part := none, skip := 0, backlog := [], devEpoch := m.devEpoch + 1, outst := [] }) s) :=
    emptying_only _ _ (only_refl _ _) (fun t h => updMbx_only _ _ h (by decide)) (by decide)
  have noticed : ∀ x, Only [.mbx, .emit] x (setEvent 4 (abortWords (outWords s.mbx) x)) := fun x =>
    setEvent_only _ _ (abortWords_only _ _ (only_refl _ _) (by decide)) (by decide)
  unfold cellarMailboxReset
  dsimp only
  refine (keyAndBoots_of_only (noticed _)).trans ?_
  refine (forEach_keeps keyAndBoots (fun a t => ?_) _ _).trans (keyAndBoots_of_only emptied)
  exact forEach_keeps keyAndBoots keyAndBoots_freeLatch _ t

end mailbox

/-! ### The cellar is entered -/

section cellar

variable {cause : Nat} {s : State}

/-- Every function as after a controller reset, behind the mailbox's own reset. -/
def cellarCleared (s : State) : State :=
  forEach (functions s) (fun fn s => updCtl fn (fun c => { clearCtl s (lifeDefault s fn) c with closing := false }) s)
    (cellarMailboxReset s)

theorem cellarCleared_only (s : State) : Only [.host] (cellarMailboxReset s) (cellarCleared s) :=
  only_forEach _ _ _ (only_refl _ _) fun fn t h => updCtl_only _ _ _ h (by decide)

/-- The protected objects in a cellar of cause 4 are as at manufacture. -/
def cellarProt (cause : Nat) (t : ProtSt) : ProtSt := if cause = 4 then manufactureProt t else t

theorem enterCellar_prot (cause : Nat) (s : State) :
    (enterCellar cause s).prot = cellarProt cause (cellarMailboxReset s).prot := by
  have h : (cellarCleared s).prot = (cellarMailboxReset s).prot := (cellarCleared_only s).same .prot (by decide)
  unfold enterCellar cellarProt
  dsimp only
  split
  · exact congrArg manufactureProt h
  · exact h

theorem enterCellar_fw (cause : Nat) (s : State) : (enterCellar cause s).fw = { s.fw with
    cellar := true, cellarCause := cause, running := 0, image := none, stagedAt := none, bootStep := 3, sched := none, hold := none } := by
  have reset : Only [.mbx, .inst, .prot, .ecc, .emit] s (cellarMailboxReset s) :=
    cellarMailboxReset_only _ (only_refl _ _) (by decide)
  have h : (cellarCleared s).fw = s.fw := ((cellarCleared_only s).same .fw (by decide)).trans (reset.same .fw (by decide))
  have g := congrArg (fun w : FwSt => { w with
    cellar := true, cellarCause := cause, running := 0, image := none, stagedAt := none, bootStep := 3, sched := none
    hold := none }) h
  unfold enterCellar
  dsimp only
  split <;> exact g

theorem enterCellar_boot (cause : Nat) (s : State) : (enterCellar cause s).power.boot = .running := rfl

theorem enterCellar_boots (cause : Nat) (s : State) : (enterCellar cause s).inst.boots = s.inst.boots := by
  have h : (cellarCleared s).inst = (cellarMailboxReset s).inst := (cellarCleared_only s).same .inst (by decide)
  have g : (cellarCleared s).inst.boots = s.inst.boots :=
    (congrArg InstSt.boots h).trans (congrArg Prod.snd (keyAndBoots_cellarMailboxReset s))
  unfold enterCellar
  dsimp only
  split <;> exact g

theorem enterCellar_mailbox (cause : Nat) (s : State) : (enterCellar cause s).mbx = (cellarMailboxReset s).mbx := by
  have h : (cellarCleared s).mbx = (cellarMailboxReset s).mbx := (cellarCleared_only s).same .mbx (by decide)
  unfold enterCellar
  dsimp only
  split <;> exact h

theorem enterCellar_ecc (cause : Nat) (s : State) : (enterCellar cause s).ecc = (cellarMailboxReset s).ecc := by
  have h : (cellarCleared s).ecc = (cellarMailboxReset s).ecc := (cellarCleared_only s).same .ecc (by decide)
  unfold enterCellar
  dsimp only
  split <;> exact h

theorem enterCellar_frame (cause : Nat) (s : State) : (enterCellar cause s).frame = s.frame :=
  (enterCellar_only (ps := [.mbx, .host, .inst, .prot, .ecc, .fw, .power, .mgmt, .recd, .emit]) _ _ (only_refl _ _)
    (by decide)).same .frame (by decide)

end cellar

/-! ### A new boot -/

section newBoot

variable {found : BootFind} {s : State}

theorem freezeMinute_boots (f : MFlags) (k : Nat) (s : State) : (freezeMinute f k s).inst.boots = s.inst.boots := by
  have only : ∀ x, Only [.frame, .mbx, .media, .flash] x (commitAges (freezeSlips (freezePlacement x))) := fun x =>
    commitAges_only _ (freezeSlips_only _ (freezePlacement_only _ (only_refl _ _) (by decide)) (by decide)) (by decide)
  exact (congrArg InstSt.boots ((only _).same .inst (by decide))).trans rfl

theorem passMinutes_boots (n k rem : Nat) (s : State) : (passMinutes n k rem s).inst.boots = s.inst.boots := by
  induction n generalizing k rem s with
  | zero => rfl
  | succ n ih =>
    unfold passMinutes
    dsimp only
    split
    · exact (ih _ _ _).trans ((freezeMinute_boots _ _ _).trans rfl)
    · rfl

theorem endMinutes_boots (s : State) : (endMinutes s).inst.boots = s.inst.boots := by
  unfold endMinutes
  split
  · rfl
  · refine (freezeMinute_boots _ _ _).trans ?_
    split
    · rfl
    · exact passMinutes_boots _ _ _ _

/-- What the last boot leaves for the next one, its records written and its tables rebased. -/
def lastBoot (s : State) : State :=
  let f : Int := lastFrame s
  let e : Int := f - ((now s : Int) - clk s)
  let x := takeTrip (endRecord (endMinutes (updMedia (fun m => { m with ages := m.agesSaved }) s)))
  if decide (s.inst.boots = 0) = true then x else rebaseTables e f x

theorem lastBoot_boots (s : State) : (lastBoot s).inst.boots = s.inst.boots := by
  have ended : ∀ x, Only [.mbx, .media, .therm, .recd] x (takeTrip (endRecord x)) := fun x =>
    takeTrip_only _ (endRecord_only _ (only_refl _ _) (by decide)) (by decide)
  have h := (congrArg InstSt.boots ((ended (endMinutes (updMedia (fun m => { m with ages := m.agesSaved }) s))).same .inst
    (by decide))).trans (endMinutes_boots _)
  unfold lastBoot
  dsimp only
  split
  · exact h
  · exact (congrArg InstSt.boots ((rebaseTables_only (ps := [.zone, .media]) _ _ _ (only_refl _ _) (by decide)).same .inst
      (by decide))).trans h

theorem lastBoot_pins (s : State) : (lastBoot s).pins = s.pins := by
  have ended : Only [.frame, .mbx, .media, .flash, .inst, .therm, .recd] s
      (takeTrip (endRecord (endMinutes (updMedia (fun m => { m with ages := m.agesSaved }) s)))) :=
    takeTrip_only _ (endRecord_only _ (endMinutes_only _ (only_media _ (only_refl _ _) (by decide)) (by decide)) (by decide))
      (by decide)
  unfold lastBoot
  dsimp only
  split
  · exact ended.same .pins (by decide)
  · exact (rebaseTables_only (ps := [.frame, .mbx, .zone, .media, .flash, .inst, .therm, .recd]) _ _ _
      (ended.mono (by decide)) (by decide)).same .pins (by decide)

/-- The volatile state of a new boot, with the stored records read. -/
def bootRead (found : BootFind) (s : State) : State :=
  readCalib found.calOk (readRecord found (wipeVolatile found.remoteOk (lastBoot s)))

theorem newBoot_recorded (found : BootFind) (s : State) : Only [.recd] (bootRead found s) (newBoot found s) :=
  recEvents_only _ _ _ (openRecord_only _ _ (only_refl _ _) (by decide)) (by decide)

theorem bootRead_only (found : BootFind) (s : State) :
    Only [.frame, .fw, .therm] (wipeVolatile found.remoteOk (lastBoot s)) (bootRead found s) := by
  unfold bootRead readCalib
  exact updFw_only _ _ (readRecord_only _ _ (only_refl _ _) (by decide)) (by decide)

theorem newBoot_only_fw (found : BootFind) (s : State) :
    Only [.frame, .fw, .therm, .recd] (wipeVolatile found.remoteOk (lastBoot s)) (newBoot found s) :=
  ((bootRead_only found s).mono (by decide)).trans ((newBoot_recorded found s).mono (by decide))

/-- A new boot begins at frame 0. -/
theorem newBoot_frame (found : BootFind) (s : State) :
    (newBoot found s).frame.counter = 0 ∧ (newBoot found s).frame.elapsed = 0 := by
  have h : (newBoot found s).frame = (bootRead found s).frame := (newBoot_recorded found s).same .frame (by decide)
  rw [h]
  exact ⟨rfl, rfl⟩

theorem newBoot_mbx_reset (found : BootFind) (s : State) : (newBoot found s).mbx = MbxSt.reset :=
  ((newBoot_only_fw found s).same .mbx (by decide)).trans rfl

theorem newBoot_ecc_reset (found : BootFind) (s : State) : (newBoot found s).ecc = EccSt.reset :=
  ((newBoot_only_fw found s).same .ecc (by decide)).trans rfl

theorem newBoot_notCellar (found : BootFind) (s : State) : (newBoot found s).fw.cellar = false :=
  (congrArg FwSt.cellar ((newBoot_recorded found s).same .fw (by decide))).trans rfl

theorem wiped_only (x : State) : Only [.host, .zone, .media, .flash, .prot, .recd] x (coldProt (dropWork x)) :=
  coldProt_only _ (dropWork_only _ (only_refl _ _) (by decide)) (by decide)

theorem wipeVolatile_pfLow (ok : List Nat) (x : State) : (wipeVolatile ok x).pins.pfLow = x.pins.pfLow := by
  have h : (coldProt (dropWork x)).pins = x.pins := (wiped_only x).same .pins (by decide)
  have g := congrArg Pins.pfLow h
  exact g

theorem wipeVolatile_boots (ok : List Nat) (x : State) : (wipeVolatile ok x).inst.boots = x.inst.boots + 1 := by
  have h : (coldProt (dropWork x)).inst = x.inst := (wiped_only x).same .inst (by decide)
  have g := congrArg (fun i : InstSt => i.boots + 1) h
  exact g

theorem newBoot_pfLow (found : BootFind) (s : State) : (newBoot found s).pins.pfLow = s.pins.pfLow := by
  have h : (newBoot found s).pins = (wipeVolatile found.remoteOk (lastBoot s)).pins :=
    (newBoot_only_fw found s).same .pins (by decide)
  rw [h, wipeVolatile_pfLow, lastBoot_pins]

theorem newBoot_boots (found : BootFind) (s : State) : (newBoot found s).inst.boots = s.inst.boots + 1 := by
  have h : (newBoot found s).inst = (wipeVolatile found.remoteOk (lastBoot s)).inst :=
    (newBoot_only_fw found s).same .inst (by decide)
  rw [h, wipeVolatile_boots, lastBoot_boots]

end newBoot

/-! ### The cold start's outcomes -/

section coldStart

variable {found : BootFind} {s : State}

theorem coldStart_holds (hb : s.power.boot = .rom) (hs : s.fw.bootStep ≠ 3) (hf : s.power.flush = none)
    (ht : twoBroken s = true) : coldStart found s = permanentHold s := by
  unfold coldStart
  rw [if_neg (by simp [hb, hs, flushing, hf]), if_pos ht]

theorem coldStart_starts (hb : s.power.boot = .rom) (hs : s.fw.bootStep ≠ 3) (hf : s.power.flush = none)
    (ht : twoBroken s = false) (hp : s.pins.pfLow = false) : coldStart found s = startDevice found (newBoot found s) := by
  have high : ¬(newBoot found s).pins.pfLow = true := by rw [newBoot_pfLow, hp]; decide
  unfold coldStart
  rw [if_neg (by simp [hb, hs, flushing, hf]), if_neg (by simp [ht])]
  exact if_neg high

/-- The device with the strap of the cellar as it was found. -/
def strapped (found : BootFind) (s : State) : State := { s with pins := { s.pins with cellar := found.cellarStrap } }

theorem startDevice_strapped (h : found.cellarStrap = true) :
    startDevice found s = enterCellar 2 (strapped found s) := if_pos h

theorem startDevice_unprotected (h : found.cellarStrap = false)
    (hp : ((found.protA && s.prot.copyA) || (found.protB && s.prot.copyB)) = false) :
    startDevice found s = enterCellar 4 (strapped found s) := by
  unfold startDevice
  dsimp only
  rw [if_neg (by simp [h]), hp]
  rfl

theorem startDevice_images (h : found.cellarStrap = false)
    (hp : ((found.protA && s.prot.copyA) || (found.protB && s.prot.copyB)) = true) :
    startDevice found s = startImages found (strapped found s) := by
  unfold startDevice
  dsimp only
  rw [if_neg (by simp [h]), hp]
  rfl

theorem permanentHold_holds (s : State) : (permanentHold s).power.boot = .permanent ∧
    (permanentHold s).therm.fire = .permanent ∧ (permanentHold s).pins.fault = true ∧
    (permanentHold s).frame = s.frame ∧ (permanentHold s).fw = s.fw := ⟨rfl, rfl, rfl, rfl, rfl⟩

/-- By strap the device begins in the cellar, with its mailbox as at a reset. -/
theorem coldStart_strapped (hb : s.power.boot = .rom) (hs : s.fw.bootStep ≠ 3) (hf : s.power.flush = none)
    (ht : twoBroken s = false) (hp : s.pins.pfLow = false) (hc : found.cellarStrap = true) :
    Does (.coldStart found) s fun t => t.power.boot = .running ∧ t.fw.cellar = true ∧ t.fw.cellarCause = 2 ∧
      t.frame.counter = 0 ∧ t.frame.elapsed = 0 ∧ t.inst.boots = s.inst.boots + 1 ∧ t.mbx.outQ = [] ∧ t.mbx.inQ = [] ∧
      t.mbx.latches = [] ∧ t.ecc.mode = false := by
  have run := (coldStart_starts (s := { s with emit := [] }) hb hs hf ht hp).trans (startDevice_strapped hc)
  have boots := newBoot_boots found { s with emit := [] }
  obtain ⟨counter, elapsed⟩ := newBoot_frame found { s with emit := [] }
  have mbx := newBoot_mbx_reset found { s with emit := [] }
  have ecc := newBoot_ecc_reset found { s with emit := [] }
  generalize newBoot found { s with emit := [] } = n at run boots counter elapsed mbx ecc
  have lines := lines_cellarMailboxReset (strapped found n)
  obtain ⟨latches, only⟩ := cellarMailboxReset_free (s := strapped found n) (congrArg MbxSt.latches mbx)
  refine ⟨_, congrArg Host.Outcome.next run, enterCellar_boot _ _, by rw [enterCellar_fw], by rw [enterCellar_fw],
    by rw [enterCellar_frame]; exact counter, by rw [enterCellar_frame]; exact elapsed, ?boots, ?outQ, ?inQ, ?latches, ?ecc⟩
  case boots => exact (enterCellar_boots _ _).trans boots
  case outQ =>
    rw [enterCellar_mailbox]
    exact congrArg Prod.fst lines
  case inQ =>
    rw [enterCellar_mailbox]
    exact (congrArg (fun p => p.2.1) lines).trans (congrArg MbxSt.inQ mbx)
  case latches =>
    rw [enterCellar_mailbox]
    exact latches
  case ecc =>
    rw [enterCellar_ecc]
    exact congrArg EccSt.mode ((only.same .ecc (by decide)).trans ecc)

/-- Without its protection state the device begins in the cellar, with no owner and no proposal. -/
theorem coldStart_unprotected {n : State} (hb : s.power.boot = .rom) (hs : s.fw.bootStep ≠ 3) (hf : s.power.flush = none)
    (ht : twoBroken s = false) (hp : s.pins.pfLow = false) (hn : n = newBoot found { s with emit := [] })
    (hc : found.cellarStrap = false) (hu : ((found.protA && n.prot.copyA) || (found.protB && n.prot.copyB)) = false) :
    Does (.coldStart found) s fun t => t.power.boot = .running ∧ t.fw.cellar = true ∧ t.fw.cellarCause = 4 ∧
      t.prot.ownerKey = none ∧ t.prot.pending = [] := by
  have run := coldStart_starts (found := found) (s := { s with emit := [] }) hb hs hf ht hp
  rw [← hn] at run
  refine ⟨_, congrArg Host.Outcome.next (run.trans (startDevice_unprotected hc hu)), enterCellar_boot _ _,
    by rw [enterCellar_fw], by rw [enterCellar_fw], by rw [enterCellar_prot]; rfl, by rw [enterCellar_prot]; rfl⟩

/-- The first image of BOOT_SLOT passes and reports ready. -/
theorem coldStart_runs {n : State} {v : Verdict} (hb : s.power.boot = .rom) (hs : s.fw.bootStep ≠ 3)
    (hf : s.power.flush = none) (ht : twoBroken s = false) (hp : s.pins.pfLow = false)
    (hn : n = newBoot found { s with emit := [] }) (hc : found.cellarStrap = false)
    (hu : ((found.protA && n.prot.copyA) || (found.protB && n.prot.copyB)) = true) (ht0 : tryPasses n found 0 = true)
    (h0 : found.copies[0]? = some (v, true)) (hm : mayStart found n = true) : Does (.coldStart found) s fun t =>
      t.power.boot = .running ∧ t.fw.running = n.fw.cfg.bootSlot ∧ t.fw.cellar = false ∧
      t.fw.image = (slotAt n n.fw.cfg.bootSlot).image ∧ t.mgmt.running = true ∧ t.frame.counter = 0 := by
  have run := coldStart_starts (found := found) (s := { s with emit := [] }) hb hs hf ht hp
  have counter := (newBoot_frame found { s with emit := [] }).1
  have cellar := newBoot_notCellar found { s with emit := [] }
  rw [← hn] at run counter cellar
  have passes : tryPasses (strapped found n) found 0 = true := (tryPasses_congr rfl rfl rfl rfl 0).trans ht0
  have may : mayStart found (strapped found n) = true := (mayStart_congr rfl rfl rfl rfl).trans hm
  obtain ⟨boot, mgmt, running, image, kept, frame⟩ := bootMain_runs (trySlot (strapped found n) 0) may
  refine ⟨_, congrArg Host.Outcome.next (run.trans ((startDevice_images hc hu).trans (tryImages_runs passes h0))),
    boot, running, kept.trans cellar, image, mgmt, frame.trans counter⟩

/-- The firmware of the last copy has not reported ready. -/
theorem readyTimeout_next (hr : hallStarted s = true) (hf : s.power.flush = none)
    (hc : s.fw.bootFrom + 200000 < s.frame.elapsed) :
    readyTimeout found s = tryImages found (3 - s.fw.bootTry) (s.fw.bootTry + 1) s := by
  have late : ¬clk s ≤ s.fw.bootFrom + 200000 := Nat.not_le.mpr hc
  unfold readyTimeout
  dsimp only
  exact if_neg (by simp [hr, flushing, hf, late])

end coldStart

/-- Settles O34: a new boot's frame state, mailbox and boot number; what the engines' start and the cellar's entry leave;
and the first copy that passes. -/
theorem coldStartChoosesTheImage : Obligations.ColdStartChoosesTheImage := by
  unfold Obligations.ColdStartChoosesTheImage
  refine fun s found => ⟨fun hb hs hf => ⟨fun ht => ?hold, fun ht hp => ⟨fun hc => coldStart_strapped hb hs hf ht hp hc,
    fun n hn hc => ⟨fun hu => coldStart_unprotected hb hs hf ht hp hn hc hu,
      fun v hu h0 hv hm => coldStart_runs hb hs hf ht hp hn hc hu h0 hv hm⟩⟩⟩, fun hr hf hc => ⟨fun h3 => ?cellar, ?next⟩⟩
  case hold =>
    exact ⟨_, congrArg Host.Outcome.next (coldStart_holds (s := { s with emit := [] }) hb hs hf ht), permanentHold_holds _⟩
  case cellar =>
    have run : readyTimeout found { s with emit := [] } = tryImages found (3 - s.fw.bootTry) (s.fw.bootTry + 1)
        { s with emit := [] } := readyTimeout_next hr hf hc
    rw [show 3 - s.fw.bootTry = 0 by omega] at run
    refine ⟨_, congrArg Host.Outcome.next run, enterCellar_boot 1 _, ?_, ?_, ?_⟩
    · exact congrArg FwSt.cellar (enterCellar_fw 1 _)
    · exact congrArg FwSt.cellarCause (enterCellar_fw 1 _)
    · exact enterCellar_frame 1 _
  case next =>
    intro v h3 hp hk hm
    have run : readyTimeout found { s with emit := [] } = tryImages found (3 - s.fw.bootTry) (s.fw.bootTry + 1)
        { s with emit := [] } := readyTimeout_next hr hf hc
    obtain ⟨m, hm'⟩ : ∃ m, 3 - s.fw.bootTry = m + 1 := ⟨2 - s.fw.bootTry, by omega⟩
    have passes : tryPasses { s with emit := [] } found (s.fw.bootTry + 1) = true :=
      (tryPasses_congr (s := s) rfl rfl rfl rfl _).trans hp
    have may : mayStart found { s with emit := [] } = true := (mayStart_congr (s := s) rfl rfl rfl rfl).trans hm
    obtain ⟨boot, mgmt, running, -, -, frame⟩ :=
      bootMain_runs (trySlot { s with emit := [] } (s.fw.bootTry + 1)) may
    rw [hm'] at run
    exact ⟨_, congrArg Host.Outcome.next (run.trans (tryImages_runs passes hk)), boot, running, mgmt, frame⟩

end Sys2Proof.Machine
end

section
/-! SUPPORT. A state whose tables are out of order, in which the keys of a controller's submission queues change when a
command completes (R97, R103). -/

namespace Sys2Proof.Machine

/-- What a command that completes leaves is what its execution gives. -/
theorem Does.of_next {c : Instr} {s t : State} {p : State → Prop} (h : Does c s p) (e : exec c s = .next t) : p t := by
  obtain ⟨u, run, hu⟩ := h
  rw [e] at run
  cases run
  exact hu

/-- A controller whose submission queues 5 and 0 are listed in that order. -/
def unsortedCtl : Ctl :=
  let q : Sq := { size := 4, head := 0, tail := 0, cq := 0, shard := 0, bells := [], lastPost := none, lastOrd := none }
  { ctlReset 1 1 0 false 22 with
    en := true, rdy := true, sqs := [(5, q), (0, q)]
    cqs := [(0, { size := 4, head := 0, tail := 0, vector := 0, ien := true, entries := [], waiting := [] })] }

def createId : CmdId := { fn := 2048, sq := 0, cid := 9 }

/-- Create I/O Completion Queue 1 with four entries and vector 0. -/
def createCommand : Item :=
  { id := createId, seq := 1, bell := 0, fetched := 0, gen := 0, life := 1000000, paused := 0, phase := .fetched
    hold := .none, outcome := none, latchedAt := 0, dw0 := 0, dw1 := 0, unit := 0, count := 0, start := 0, waitRec := none
    ranges := [], resets := [], doneUnits := [], failed := [], silent := false, held := false
    sqe := { opc := 5, fuse := 0, psdt := 0, cid := 9, nsid := 0, cdw2 := 0, cdw3 := 0, mptr := 0, dptr := 0
             cdw10 := 0x30001, cdw11 := 3, cdw12 := 0, cdw13 := 0, cdw14 := 0, cdw15 := 0 } }

/-- A device that runs, with the command in the tag table of the port 0 PF and that controller. -/
def unsortedState : State :=
  { State.reset with
    power := { State.reset.power with boot := .running }
    host := { State.reset.host with ctls := [(2048, unsortedCtl)], items := [createCommand] } }

/-- The keys of the submission queues after the command. -/
def keysAfter : Option (List Nat) :=
  match exec (.createIoCompletionQueue createId) unsortedState with
  | .next t => (ctlOf t 2048).map fun c => c.sqs.map (·.1)
  | _ => none

theorem keysAfter_eq : keysAfter = some [0, 5, 0] := by decide +kernel

theorem unsorted_runs : AdminRuns unsortedState createId 0x05 .all createCommand :=
  { found := by decide +kernel, unique := by decide +kernel, queue := rfl, opcode := by decide, fresh := rfl, heard := rfl
    taken := by decide +kernel, released := rfl, turn := by decide +kernel, allowed := by decide +kernel
    plain := by decide, noWipe := by decide +kernel }

/-- Refutes O41: a completion is stamped on its submission queue by `tabUpd`, and in a table with keys 5 and 0 in that
order this enters key 0 once more, so the keys of the queues do not stay as they were. -/
theorem not_ioQueuesAreCreatedAndDeleted : ¬ Obligations.IoQueuesAreCreatedAndDeleted := by
  unfold Obligations.IoQueuesAreCreatedAndDeleted
  intro h
  obtain ⟨create, -⟩ := h unsortedState createId createCommand unsortedCtl (by decide +kernel)
  obtain ⟨t, run, -, c', hc', keys, -⟩ := create unsorted_runs (by decide) (by decide) (by decide) (by decide) (by decide)
    (by decide) (by decide)
  have after : keysAfter = some [5, 0] := by
    have hc : ctlOf t 2048 = some c' := hc'
    rw [keysAfter, run]
    simp only [hc, Option.map_some, keys]
    rfl
  exact absurd (keysAfter_eq.symm.trans after) (by decide)

end Sys2Proof.Machine
end

section
/-! SUPPORT. The slots and the corridor's firmware messages: what each message that a unit acts on makes of the
firmware state. -/

namespace Sys2Proof.Machine

variable {s : State}

/-! ### Slots and outcomes -/

@[simp] theorem slotAt_updSlotAt (n : Nat) (f : FwSlot → FwSlot) (s : State) :
    slotAt (updSlotAt n f s) n = f (slotAt s n) := by
  unfold slotAt updSlotAt updFw
  split
  · rfl
  · rfl

theorem slotAt_fw {x y : State} (h : y.fw = x.fw) (n : Nat) : slotAt y n = slotAt x n := by
  unfold slotAt
  rw [h]

/-- An outcome reported up the corridor changes what is known of the corridor's units alone. -/
theorem setOutcome_fw (w : Word) (st : Nat) (s : State) :
    ∃ i l, (setOutcome w st s).fw = { s.fw with corrImage := i, corrStates := l } := by
  unfold setOutcome
  dsimp only
  split
  · exact ⟨s.fw.corrImage, s.fw.corrStates, rfl⟩
  · unfold when
    split <;> exact ⟨_, _, rfl⟩

theorem slotAt_setOutcome (w : Word) (st n : Nat) (s : State) : slotAt (setOutcome w st s) n = slotAt s n := by
  obtain ⟨i, l, h⟩ := setOutcome_fw w st s
  unfold slotAt
  rw [h]

theorem forwardMsg_fw (m : CorrMsg) (s : State) : (forwardMsg m s).fw = s.fw :=
  (forwardMsg_only m s (only_refl [.emit] s) (List.Subset.refl _)).same .fw (by decide)

/-- States that differ in the mailbox and in what is sent out alone. -/
theorem Only.eq_mbx_emit {s t : State} (h : Only [.mbx, .emit] s t) : t = { s with mbx := t.mbx, emit := t.emit } := by
  have frame : t.frame = s.frame := h.same .frame (by decide)
  have host : t.host = s.host := h.same .host (by decide)
  have zone : t.zone = s.zone := h.same .zone (by decide)
  have media : t.media = s.media := h.same .media (by decide)
  have flash : t.flash = s.flash := h.same .flash (by decide)
  have inst : t.inst = s.inst := h.same .inst (by decide)
  have prot : t.prot = s.prot := h.same .prot (by decide)
  have ecc : t.ecc = s.ecc := h.same .ecc (by decide)
  have fw : t.fw = s.fw := h.same .fw (by decide)
  have power : t.power = s.power := h.same .power (by decide)
  have therm : t.therm = s.therm := h.same .therm (by decide)
  have mgmt : t.mgmt = s.mgmt := h.same .mgmt (by decide)
  have pins : t.pins = s.pins := h.same .pins (by decide)
  have recd : t.recd = s.recd := h.same .recd (by decide)
  have free : t.free = s.free := h.same .free (by decide)
  have pending : t.pending = s.pending := h.same .pending (by decide)
  cases t
  simp only at frame host zone media flash inst prot ecc fw power therm mgmt pins recd free pending
  simp only [frame, host, zone, media, flash, inst, prot, ecc, fw, power, therm, mgmt, pins, recd, free, pending]

theorem Only.widen_mbx_emit {s t : State} (h : Only [.emit] s t) : Only [.mbx, .emit] s t := h.mono (by decide)

theorem scheduleReason_of_only {s t : State} (h : Only [.mbx, .emit] s t) (n : Nat) (w : Option Word) :
    scheduleReason t n w = scheduleReason s n w := by
  rw [h.eq_mbx_emit]
  rfl

/-! ### The corridor (R400, R401, R405) -/

theorem eraseSlot_fw (k : Nat) (s : State) : (eraseSlot k s).fw = s.fw :=
  (eraseSlot_only k s (only_refl [.media] s) (List.Subset.refl _)).same .fw (by decide)

theorem forwardImage_fw (i : Image) (s : State) : ∃ x, (forwardImage i s).fw = { s.fw with transfer := x } := by
  unfold forwardImage
  split
  · exact ⟨_, rfl⟩
  · exact ⟨s.fw.transfer, rfl⟩

/-- The slot written is WRITING, and the staging in progress writes the image. -/
theorem beginWrite_writes (g : Staging) (i : Image) (s : State) :
    slotAt (beginWrite g i s) g.slot =
        { st := .writing, image := none, copy0 := false, copy1 := false, prepared := false } ∧
      (beginWrite g i s).fw.staging = some { g with writing := true, image := some i } := by
  have erased : (forEach [2 * (g.slot - 1), 2 * (g.slot - 1) + 1] eraseSlot (updSlotAt g.slot (fun _ =>
      { st := .writing, image := none, copy0 := false, copy1 := false, prepared := false }) s)).fw =
      (updSlotAt g.slot (fun _ =>
        { st := .writing, image := none, copy0 := false, copy1 := false, prepared := false }) s).fw :=
    forEach_keeps State.fw (fun k x => eraseSlot_fw k x) _ _
  unfold beginWrite
  dsimp only
  generalize forEach [2 * (g.slot - 1), 2 * (g.slot - 1) + 1] eraseSlot _ = x at erased ⊢
  have slot : slotAt x g.slot =
      { st := .writing, image := none, copy0 := false, copy1 := false, prepared := false } :=
    (slotAt_fw erased _).trans (slotAt_updSlotAt _ _ _)
  unfold when
  split
  · obtain ⟨y, hy⟩ := forwardImage_fw i (updFw (fun w => { w with
      staging := some { g with writing := true, image := some i }, act := .staging }) x)
    refine ⟨?_, by rw [hy]; rfl⟩
    unfold slotAt
    rw [hy]
    exact slot
  · exact ⟨slot, rfl⟩

/-- The staging of an image that has arrived over the corridor. -/
def corridorStaging (s : State) (i : Image) (fwd : Bool) : Staging :=
  { path := .corridor, slot := stagingTarget s, data := i.bytes, forward := fwd, image := none, writing := false,
    tag := none, item := none }

theorem imageArrival_stages {i : Image} {fwd : Bool} (hr : ctrlRuns s = true) (hu : s.frame.shelf.upLink = true)
    (ha : s.prot.acceptImages = true) (hg : s.fw.staging = none)
    (hn : stageReason s .corridor (some (stagingTarget s)) = none) (hv : verifyFault s i = none) :
    imageArrival i fwd s = beginWrite (corridorStaging s i fwd) i s := by
  have idle : stagingBusy s .corridor = false := by simp [stagingBusy, hg]
  unfold imageArrival
  simp only [hr, hu, ha, idle, hg, hn, Bool.not_true, Bool.false_eq_true, Option.isSome_none, or_self, if_false]
  unfold endStaging
  simp [hv, corridorStaging]

theorem takeSched_none (c : Sched) (h : s.fw.sched = none) :
    takeSched c s = updFw (fun w => { w with sched := some c, act := .preparing }) s := by
  unfold takeSched dropSched
  rw [h]

/-- The schedule that a message of the corridor asks for. -/
def corridorSched (n : Nat) (w : Word) (f : Nat) : Sched :=
  { slot := n, scope := true, frame := f, imageId := w, asap := false, prepared := false, tag := none, item := none }

theorem slotOfImage_of_only {s t : State} (h : Only [.mbx, .emit] s t) (w : Word) :
    slotOfImage t w = slotOfImage s w := by
  rw [h.eq_mbx_emit]
  rfl

theorem forwardMsg_emits (m : CorrMsg) (s : State) : Only [.mbx, .emit] s (forwardMsg m s) :=
  forwardMsg_only m s (only_refl _ s) (by decide)

theorem scheduleArrival_takes {w : Word} {f n : Nat} (hr : ctrlRuns s = true) (hu : s.frame.shelf.upLink = true)
    (ha : s.prot.acceptImages = true) (hn : slotOfImage s w = some n) (hh : s.fw.hold = none)
    (hc : s.fw.cellar = false) (hs : s.fw.sched = none) (hq : scheduleReason s n (some w) = none) :
    scheduleArrival w f s = updFw (fun x => { x with sched := some (corridorSched n w f), act := .preparing })
      (forwardMsg (.schedule w f) s) := by
  have only := forwardMsg_emits (.schedule w f) s
  have fw := forwardMsg_fw (.schedule w f) s
  have reason := (scheduleReason_of_only only n (some w)).trans hq
  have slot := (slotOfImage_of_only only w).trans hn
  unfold scheduleArrival
  simp only [hr, hu, ha, slot, fw, hh, hc, reason, Bool.not_true, Bool.false_eq_true, Option.isSome_none, or_self,
    if_false]
  exact takeSched_none _ (by rw [fw, hs])

/-- A schedule that nothing waits for is cancelled. -/
theorem cancelSched_quiet {c : Sched} (reason : Nat) (hs : s.fw.sched = some c)
    (ht : c.tag = none ∨ c.prepared = true) (hi : c.item = none) :
    cancelSched reason s = updFw (fun w => { w with sched := none, act := .cancelled }) s := by
  have drop : dropSched reason s = updFw (fun w => { w with sched := none }) s := by
    unfold dropSched
    rw [hs]
    dsimp only
    rw [hi]
    dsimp only
    rcases ht with ht | ht
    · rw [ht]
    · split
      · exact if_pos ht
      · rfl
  unfold cancelSched
  rw [drop, hs]
  rfl

theorem cancelArrival_cancels {c : Sched} (hr : ctrlRuns s = true) (hu : s.frame.shelf.upLink = true)
    (hh : s.fw.hold = none) (hs : s.fw.sched = some c) (ht : c.tag = none) (hi : c.item = none) :
    cancelArrival s = setOutcome c.imageId 1
      (updFw (fun w => { w with sched := none, act := .cancelled }) (forwardMsg .cancel s)) := by
  have fw := forwardMsg_fw .cancel s
  unfold cancelArrival
  simp only [hr, hu, fw, hh, hs, Bool.not_true, Bool.false_eq_true, or_self, if_false]
  rw [cancelSched_quiet 0x0305 (by rw [fw, hs]) (.inl ht) hi]

theorem outcomeRelay_keeps {pos st : Nat} {w : Word} (hr : ctrlRuns s = true) (hd : s.frame.shelf.downLink = true)
    (hp : pos ≤ 31) (ht : st < 16) :
    tabGet (outcomeRelay pos st w s).fw.corrStates pos = some st ∧ (outcomeRelay pos st w s).fw.corrImage = w ∧
      (s.frame.shelf.upLink = true → (outcomeRelay pos st w s).emit = s.emit ++ [.corridor false (.outcome pos st w)]) := by
  have inside : ¬31 < pos := by omega
  unfold outcomeRelay
  simp only [hr, hd, inside, Nat.mod_eq_of_lt ht, Bool.not_true, Bool.false_eq_true, or_self, if_false]
  refine ⟨?_, ?_, fun hu => ?_⟩
  · unfold when
    split <;> exact tabGet_set_self _ _ _
  · unfold when
    split <;> rfl
  · rw [when_of hu _ _]
    rfl

theorem forwardRetry_sends {x : Transfer} {f : Nat} (accepted : Bool) (hr : ctrlRuns s = true)
    (hd : s.frame.shelf.downLink = true) (hx : s.fw.transfer = some x) (hf : x.retryAt = some f)
    (hc : f ≤ s.frame.elapsed) :
    forwardRetry accepted s = send (.corridor true (.image x.image)) (updFw (fun w => { w with
      transfer := if accepted = true ∨ 8 ≤ x.tries + 1 then none
        else some { x with tries := x.tries + 1, retryAt := some (f + 500000) } }) s) := by
  have due : ¬clk s < f := Nat.not_lt.mpr hc
  unfold forwardRetry
  simp only [hx, hf, hr, hd, due, Bool.not_true, Bool.false_eq_true, or_self, if_false]

/-- Settles O29: an equation for each message that the unit acts on. -/
theorem corridorMessagesAreActedOn : Obligations.CorridorMessagesAreActedOn := by
  unfold Obligations.CorridorMessagesAreActedOn
  refine fun s hr => ⟨fun i fwd hu ha hg hn hv _ => ?image, fun w f n hu ha hn hh hc hs hq => ?schedule,
    fun c hu hh hs ht hi => ?cancel, fun pos st w hd hp ht => ?outcome, fun x f accepted hd hx hf hc => ?retry⟩
  case image =>
    have e := imageArrival_stages (s := { s with emit := [] }) (fwd := fwd) hr hu ha hg hn hv
    obtain ⟨slot, staging⟩ := beginWrite_writes (corridorStaging s i fwd) i { s with emit := [] }
    refine ⟨_, congrArg Host.Outcome.next e, slot, ⟨_, staging, rfl, rfl, rfl⟩, ?_⟩
    exact beginWrite_only _ _ _ (only_emit _ (only_refl _ _) (by decide)) (by decide)
  case schedule =>
    have e := scheduleArrival_takes (s := { s with emit := [] }) (f := f) hr hu ha hn hh hc hs hq
    refine ⟨_, congrArg Host.Outcome.next e, rfl, rfl, ?_⟩
    exact updFw_only _ _ (forwardMsg_only _ _ (only_emit _ (only_refl _ _) (by decide)) (by decide)) (by decide)
  case cancel =>
    have e := cancelArrival_cancels (s := { s with emit := [] }) hr hu hh hs ht hi
    obtain ⟨i, l, fw⟩ := setOutcome_fw c.imageId 1
      (updFw (fun w => { w with sched := none, act := .cancelled }) (forwardMsg .cancel { s with emit := [] }))
    refine ⟨_, congrArg Host.Outcome.next e, by rw [fw]; rfl, by rw [fw]; rfl, ?_⟩
    exact setOutcome_only _ _ _ (updFw_only _ _ (forwardMsg_only _ _ (only_emit _ (only_refl _ _) (by decide))
      (by decide)) (by decide)) (by decide)
  case outcome =>
    obtain ⟨state, image, sent⟩ := outcomeRelay_keeps (s := { s with emit := [] }) (w := w) hr hd hp ht
    exact ⟨_, rfl, state, image, sent,
      outcomeRelay_only _ _ _ _ (only_emit _ (only_refl _ _) (by decide)) (by decide)⟩
  case retry =>
    have e := forwardRetry_sends (s := { s with emit := [] }) accepted hr hd hx hf hc
    have only := forwardRetry_only accepted { s with emit := [] } (only_emit (ps := [.fw, .emit]) _ (only_refl _ s)
      (by decide)) (by decide)
    refine ⟨_, rfl, congrArg State.emit e, ?_, only⟩
    exact congrArg (fun t : State => t.fw.transfer) e

end Sys2Proof.Machine
end

section
/-! SUPPORT. Replies that are pending and final replies; the schedule of an activation and its hold (R85, R399, R402,
R403). -/

namespace Sys2Proof.Machine

variable {s : State}

/-! ### PENDING and final replies -/

theorem Answers.of_mbx {t u : State} {r : Posted} {status : Nat} {payload : List Nat} (k : Answers s t r status payload)
    (h : u.mbx = t.mbx) : Answers s u r status payload where
  reply := by rw [h]; exact k.reply
  taken := by rw [h]; exact k.taken

theorem replyPending_answers {x : State} {r : Posted} (q : Quiet s x) : Answers s (replyPending r x) r 0x09 [] := by
  have noted : Quiet s (updMbx (fun m => { m with outst := m.outst ++
      [{ tag := r.tag, opcode := r.opcode, agent := r.agent, epoch := r.epoch, frame := r.frame }] }) x) :=
    ⟨q.outQ, q.inQ, q.spill, q.backlog, q.host, q.dev⟩
  exact reply_answers noted (by simp)

/-- A request that passes its checks is answered PENDING, and what is done beside changes the groups `ps`. -/
theorem scp_pends {c : Instr} {op : Nat} {f : Form} {fault : Posted → Option Nat}
    {body : Posted → State → State} {r : Posted} {x y : State} {ps : List Part}
    (hc : exec c s = act (scp op f fault body) s) (a : Asks s op r) (hf : formFault r f = none)
    (hm : f.mgr = true → holder s 0 = r.agent) (ho : (descOwn r f).or (fault r) = none)
    (hb : body r (takenUp s) = y) (hx : Only ps (takenUp s) x) (hy : Only ps (replyPending r x) y) (hp : .mbx ∉ ps)
    {q : State → Prop} (hq : Only (.mbx :: .emit :: ps) s y → q y) :
    Does c s fun t => Answers s t r 0x09 [] ∧ q t := by
  have answered : Answers s y r 0x09 [] :=
    (replyPending_answers ((quiet_takenUp a).of_only hx hp)).of_mbx (hy.same .mbx hp)
  refine ⟨_, scp_next hc a hf hm ho (by rw [hb]; exact answered.taken), ?_⟩
  rw [hb]
  refine ⟨answered, hq ?_⟩
  have pending : Only (.mbx :: .emit :: ps) s (replyPending r x) :=
    replyPending_only _ _ (((takenUp_only s).mono (by simp)).trans (hx.mono (by simp))) (by simp)
  exact pending.trans (hy.mono (by simp))

theorem replyPending_rest (r : Posted) (x : State) : Only [.mbx, .emit] x (replyPending r x) :=
  replyPending_only r x (only_refl _ x) (by decide)

/-- The final reply to a request that is owed it settles the request. -/
theorem finalReply_settles {x : State} {o : Outst} {status : Nat} {payload : List Nat} (h : Owed s o)
    (hx : x.mbx = s.mbx) (hl : payload.length ≤ 15) :
    Settles s (finalReply o.tag o.opcode status payload x) o status payload := by
  have found : (x.mbx.outst.find? fun y => decide (y.tag = o.tag) && decide (y.opcode = o.opcode)) = some o := by
    rw [hx]; exact h.outstanding
  have e := postReply_evMbx (s := updMbx (fun m => { m with outst := m.outst.erase o }) x)
    (replyHeader o.opcode o.tag payload.length (decide (o.epoch ≠ x.mbx.hostEpoch)) status :: payload.map wordOf)
    (by simp [updMbx, hx, h.noReply]) (by simp only [updMbx, hx]; exact h.noSpill)
    (by simp [updMbx, hx, h.noBacklog]) (by simp; omega)
  unfold finalReply
  rw [found]
  constructor
  · have e1 := congrArg (fun m : MbxSt => m.inQ) e
    rw [← hx]
    exact e1
  · have e1 := congrArg (fun m : MbxSt => m.outst) e
    rw [← hx]
    exact e1

/-! ### FW_SCHEDULE, its preparation and FW_CANCEL -/

section schedule

variable {r : Posted} {c : Sched}

/-- The schedule that FW_SCHEDULE asks for. -/
def askedSched (r : Posted) : Sched :=
  { slot := r.pw 0 % 4, scope := bitOf (r.pw 0) 8, frame := r.pw64 1, imageId := wordOf (r.pw 3), asap := false,
    prepared := false, tag := some r.tag, item := none }

theorem whenForward_only (b : Bool) (m : CorrMsg) (x : State) : Only [.emit] x (when b (forwardMsg m) x) :=
  only_when _ _ (only_refl _ _) fun _ h => forwardMsg_only _ _ h (by decide)

theorem fwSchedule_takes (hlo : s.frame.counter + 524288 ≤ r.pw64 1) (hhi : r.pw64 1 ≤ s.frame.counter + 2 ^ 31)
    (hq : scheduleReason s (r.pw 0 % 4) (some (wordOf (r.pw 3))) = none) (hs : s.fw.sched = none) :
    fwSchedule true r s = updFw (fun w => { w with sched := some (askedSched r), act := .preparing })
      (when (bitOf (r.pw 0) 8) (forwardMsg (.schedule (wordOf (r.pw 3)) (r.pw64 1))) (replyPending r s)) := by
  have window : ¬(r.pw64 1 < now s + 524288 ∨ now s + 2 ^ 31 < r.pw64 1) := by
    change ¬(r.pw64 1 < s.frame.counter + 524288 ∨ s.frame.counter + 2 ^ 31 < r.pw64 1)
    omega
  have idle : (when (bitOf (r.pw 0) 8) (forwardMsg (.schedule (wordOf (r.pw 3)) (r.pw64 1)))
      (replyPending r s)).fw.sched = none := by
    have h1 : _ = (replyPending r s).fw := (whenForward_only (bitOf (r.pw 0) 8)
      (.schedule (wordOf (r.pw 3)) (r.pw64 1)) (replyPending r s)).same .fw (by decide)
    have h2 : (replyPending r s).fw = s.fw := (replyPending_rest r s).same .fw (by decide)
    rw [h1, h2, hs]
  unfold fwSchedule
  dsimp only
  rw [if_neg window, hq]
  dsimp only
  exact takeSched_none _ idle

/-- The slot of a schedule that FW_SCHEDULE has left is prepared. -/
theorem prepareDone_finishes {tag : Nat} (hs : s.fw.sched = some c) (hp : c.prepared = false) (ha : c.asap = false)
    (ht : c.tag = some tag) :
    prepareDone s = finalReply tag 0x31 0x00 [] (when c.scope (setOutcome c.imageId 2) (updFw (fun w => { w with
      sched := some { c with prepared := true }, act := .scheduled })
      (updSlotAt c.slot (fun k => { k with prepared := true }) s))) := by
  unfold prepareDone
  simp only [hs, hp, ha, ht, Bool.false_eq_true, if_false]

theorem whenOutcome_fw (b : Bool) (w : Word) (st : Nat) (s : State) :
    ∃ i l, (when b (setOutcome w st) s).fw = { s.fw with corrImage := i, corrStates := l } := by
  unfold when
  split
  · exact setOutcome_fw w st s
  · exact ⟨s.fw.corrImage, s.fw.corrStates, rfl⟩

theorem finalReply_fw (tag op st : Nat) (payload : List Nat) (s : State) : (finalReply tag op st payload s).fw = s.fw :=
  (finalReply_only _ _ _ _ s (only_refl [.mbx, .emit] s) (List.Subset.refl _)).same .fw (by decide)

theorem prepareDone_fw {tag : Nat} (hs : s.fw.sched = some c) (hp : c.prepared = false) (ha : c.asap = false)
    (ht : c.tag = some tag) : (prepareDone s).fw.sched = some { c with prepared := true } ∧
      (slotAt (prepareDone s) c.slot).prepared = true ∧ (prepareDone s).fw.act = .scheduled := by
  obtain ⟨i, l, h⟩ := whenOutcome_fw c.scope c.imageId 2 (updFw (fun w => { w with
    sched := some { c with prepared := true }, act := .scheduled })
    (updSlotAt c.slot (fun k => { k with prepared := true }) s))
  have fw := (congrArg State.fw (prepareDone_finishes hs hp ha ht)).trans ((finalReply_fw _ _ _ _ _).trans h)
  have slot : (slotAt (updSlotAt c.slot (fun k => { k with prepared := true }) s) c.slot).prepared = true := by
    rw [slotAt_updSlotAt]
  refine ⟨by rw [fw]; rfl, ?_, by rw [fw]; rfl⟩
  unfold slotAt
  rw [fw]
  exact slot

theorem fwCancel_cancels (hs : s.fw.sched = some c) (hp : c.prepared = true) (hi : c.item = none) :
    fwCancel r s = replyOk r [] (updFw (fun w => { w with sched := none, act := .cancelled })
      (when (bitOf (r.pw 0) 0) (forwardMsg .cancel) s)) := by
  have fw : (when (bitOf (r.pw 0) 0) (forwardMsg .cancel) s).fw = s.fw :=
    (whenForward_only (bitOf (r.pw 0) 0) .cancel s).same .fw (by decide)
  unfold fwCancel
  simp only [hs, Option.isNone_some, Bool.false_eq_true, if_false]
  rw [cancelSched_quiet 0x0305 (by rw [fw, hs]) (.inr hp) hi]

end schedule

/-! ### The hold -/

section hold

variable {h : Hold2}

theorem handoverWritten_stamps (hr : s.fw.hold = some h) : (handoverWritten s).fw =
      { s.fw with hold := some { h with recordWritten := true } } ∧ (handoverWritten s).mgmt.running = false := by
  have stop : ∀ x, (mgmtStop x).fw = x.fw ∧ (mgmtStop x).mgmt.running = false := fun x =>
    ⟨(mgmtStop_only x (only_refl [.mgmt] x) (List.Subset.refl _)).same .fw (by decide), rfl⟩
  unfold handoverWritten when
  rw [hr]
  split
  · refine ⟨(stop _).1.trans ?_, (stop _).2⟩
    simp [updHold, updFw, hr]
  · rename_i off
    exact ⟨by simp [updHold, updFw, hr], by simpa [updHold, updFw, hr] using off⟩

theorem mgmtRestart_running (hb : booted s = true) : (mgmtRestart s).mgmt.running = true := by
  by_cases hr : s.mgmt.running = true
  · have idle : mgmtRestart s = s := if_pos (.inr hr)
    rw [idle, hr]
  · exact congrArg Prod.fst (mgmtRestart_duty hb (by simpa using hr))

theorem mgmtRestart_fw (s : State) : (mgmtRestart s).fw = s.fw :=
  (mgmtRestart_only s (only_refl [.frame, .host, .inst, .therm, .mgmt, .pins, .recd, .emit] s)
    (List.Subset.refl _)).same .fw (by decide)

theorem microcodeSwitch_runs (hr : s.fw.hold = some h) (hw : h.recordWritten = true) :
    microcodeSwitch s = mgmtRestart (updHold (fun h => { h with switched := h.switched || h.recordWritten }) s) := by
  unfold microcodeSwitch
  rw [hr]
  exact when_of hw _ _

theorem handoverReady_fw (hr : s.fw.hold = some h) (hw : h.switched = true) (hc : s.frame.elapsed ≤ h.from_ + 999) :
    (handoverReady s).fw = { s.fw with hold := some { h with ready := true } } := by
  have inTime : fired h.from_ 999 (clk s) = false := decide_eq_false (Nat.not_lt.mpr hc)
  have tie : (noteTie h.from_ 999 s).fw = s.fw :=
    (noteTie_only _ _ s (only_refl [.frame] s) (List.Subset.refl _)).same .fw (by decide)
  unfold handoverReady
  rw [hr]
  dsimp only
  split
  · rename_i stop
    have ready : h.ready = true := by simpa [hw, inTime] using stop
    rw [← ready, ← hr]
  · simp [updHold, updFw, tie, hr]

theorem failItem_keeps (n : Nat) (st : Status) (x : State) :
    (failItem n st x).fw = x.fw ∧ (failItem n st x).frame.elapsed = x.frame.elapsed := by
  obtain ⟨k, hk⟩ := (failItem_ticks n st x (sameFrame_refl _)).frame
  exact ⟨(failItem_only n st x (only_refl [.frame, .host, .zone, .media, .flash, .inst, .recd, .emit] x)
    (List.Subset.refl _)).same .fw (by decide), by rw [hk]⟩

theorem finishBad_keeps (n : Nat) (st : Status) (x : State) :
    (finishBad n st x).fw = x.fw ∧ (finishBad n st x).frame.elapsed = x.frame.elapsed := by
  obtain ⟨k, hk⟩ := (finishBad_ticks n st x (sameFrame_refl _)).frame
  exact ⟨(finishBad_only n st x (only_refl [.frame, .host, .inst, .recd, .emit] x)
    (List.Subset.refl _)).same .fw (by decide), by rw [hk]⟩

theorem releaseHeld_fw (s : State) : (releaseHeld s).fw = s.fw :=
  (releaseHeld_only s (only_refl [.host] s) (List.Subset.refl _)).same .fw (by decide)

/-- What holds when the commands that a hold kept have ended. -/
def endHeld (h : Hold2) (s : State) : State :=
  let s := forEach ((heldItems s).filter fun it => !resetNow s it.id.fn) (fun it s => failItem it.seq stHoldExpired s) s
  match h.item with
  | some n => finishBad n stHoldExpired s
  | none => s

theorem endHeld_keeps (h : Hold2) (s : State) :
    (endHeld h s).fw = s.fw ∧ (endHeld h s).frame.elapsed = s.frame.elapsed := by
  have failed : ∀ l : List Item, (forEach l (fun it s => failItem it.seq stHoldExpired s) s).fw = s.fw ∧
      (forEach l (fun it s => failItem it.seq stHoldExpired s) s).frame.elapsed = s.frame.elapsed := fun l =>
    ⟨forEach_keeps State.fw (fun (it : Item) x => (failItem_keeps it.seq stHoldExpired x).1) _ _,
      forEach_keeps (fun x : State => x.frame.elapsed) (fun (it : Item) x => (failItem_keeps it.seq stHoldExpired x).2) _ _⟩
  unfold endHeld
  dsimp only
  split
  · obtain ⟨fw, elapsed⟩ := finishBad_keeps _ stHoldExpired
      (forEach ((heldItems s).filter fun it => !resetNow s it.id.fn) (fun it s => failItem it.seq stHoldExpired s) s)
    exact ⟨fw.trans (failed _).1, elapsed.trans (failed _).2⟩
  · exact failed _

/-- The end of an expired hold, from the state in which its commands have ended. -/
def expire (h : Hold2) (s : State) : State :=
  updSlotAt h.slot (fun k => { k with st := .handoverFailed, prepared := false })
    (updFw (fun w => { w with act := .expired, expiryAt := some (clk (drawNat s).2 + (drawNat s).1 % 500 + 1) })
      (holdEnds h (drawNat s).2))

theorem holdExpiry_expires (hr : s.fw.hold = some h) (hn : h.ready = false) (hc : h.from_ + 999 < s.frame.elapsed) :
    holdExpiry s = reopen (mgmtRestart (recEvent 0x06 (setOutcome (imageIdOf (expire h (endHeld h s)) h.slot) 7
      (releaseHeld (expire h (endHeld h s)))))) := by
  have late : fired h.from_ 999 (clk s) = true := fired_of_lt hc
  unfold holdExpiry
  rw [hr]
  dsimp only
  rw [if_neg (by simp [hn, late])]
  rfl

theorem expire_fw (h : Hold2) (x : State) :
    (expire h x).fw.hold = none ∧ (expire h x).fw.act = .expired ∧ (expire h x).fw.running = x.fw.running ∧
      (expire h x).fw.image = x.fw.image ∧
      (expire h x).fw.expiryAt = some (x.frame.elapsed + (drawNat x).1 % 500 + 1) := by
  unfold expire updSlotAt updFw
  dsimp only
  split <;> exact ⟨rfl, rfl, rfl, rfl, rfl⟩

/-- What the end of an expired hold leaves of the firmware state, and the frame at which fetch resumes. -/
theorem holdExpiry_fw (hr : s.fw.hold = some h) (hn : h.ready = false) (hc : h.from_ + 999 < s.frame.elapsed) :
    (holdExpiry s).fw.hold = none ∧ (holdExpiry s).fw.act = .expired ∧
      (slotAt (holdExpiry s) h.slot).st = .handoverFailed ∧ (holdExpiry s).fw.running = s.fw.running ∧
      (holdExpiry s).fw.image = s.fw.image ∧
      ∃ k, (holdExpiry s).fw.expiryAt = some (s.frame.elapsed + k % 500 + 1) := by
  rw [holdExpiry_expires hr hn hc]
  obtain ⟨fw, elapsed⟩ := endHeld_keeps h s
  generalize endHeld h s = x at fw elapsed
  have reopened : ∀ y, (reopen (mgmtRestart (recEvent 0x06 y))).fw = y.fw := fun y =>
    (reopen_only _ (mgmtRestart_only _ (recEvent_only _ _ (only_refl
      [.frame, .mbx, .host, .inst, .therm, .mgmt, .pins, .recd, .emit] y) (by decide)) (by decide))
      (by decide)).same .fw (by decide)
  obtain ⟨i, l, out⟩ := setOutcome_fw (imageIdOf (expire h x) h.slot) 7 (releaseHeld (expire h x))
  have same := out.trans (by rw [releaseHeld_fw])
  have slot : slotAt (expire h x) h.slot = { slotAt (holdEnds h (drawNat x).2) h.slot with
      st := .handoverFailed, prepared := false } := slotAt_updSlotAt _ _ _
  obtain ⟨hold, act, running, image, expiry⟩ := expire_fw h x
  rw [reopened]
  change _ ∧ _ ∧ (slotAt (reopen (mgmtRestart (recEvent 0x06 _))) _).st = _ ∧ _
  rw [slotAt_fw (reopened _), slotAt_setOutcome, slotAt_fw (releaseHeld_fw _), slot, same]
  exact ⟨hold, act, rfl, running.trans (by rw [fw]), image.trans (by rw [fw]), _, by rw [expiry, elapsed]⟩

end hold

/-- Settles O28: an equation for each step of the course; beside the firmware state, the replies and the management
core's duty. -/
theorem activationRunsItsCourse : Obligations.ActivationRunsItsCourse := by
  unfold Obligations.ActivationRunsItsCourse
  refine ⟨fun s r hm => ⟨fun a hf hw hlo hhi hq hs => ?schedule, fun c o hr hs hp ha ht ho owed => ?prepare,
    fun c a hf hs hp hi => ?cancel⟩, fun s h hr hh => ⟨?record, fun hw => ?switch, fun hw hc => ?ready,
    fun hn hc => ?expiry⟩⟩
  case schedule =>
    have same := (takenUp_only s)
    have e := fwSchedule_takes (s := takenUp s) (r := r) (by simpa using hlo) (by simpa using hhi)
      ((scheduleReason_of_only same _ _).trans hq) (by simpa using hs)
    refine scp_pends (fault := scheduleFault) (ps := [.fw, .emit]) rfl a hf (fun _ => hm) hw e (only_refl _ _) ?_ (by decide)
      fun only => ?_
    · exact updFw_only _ _ ((whenForward_only _ _ _).mono (by decide)) (by decide)
    · exact ⟨rfl, rfl, only.mono (by decide)⟩
  case prepare =>
    have e := prepareDone_finishes (s := { s with emit := [] }) hs hp ha ht
    have fw := prepareDone_fw (s := { s with emit := [] }) hs hp ha ht
    have only := prepareDone_only { s with emit := [] } (only_emit (ps := [.mbx, .fw, .emit]) _ (only_refl _ s)
      (by decide)) (by decide)
    have run : exec .fwPrepareDone s = .next (prepareDone { s with emit := [] }) :=
      congrArg Host.Outcome.next (when_of hr _ _)
    refine ⟨_, run, ?_, fw.1, fw.2.1, fw.2.2, only⟩
    rw [e, ← ho]
    refine finalReply_settles owed ?_ (by simp)
    have kept : Only [.fw, .emit] s (when c.scope (setOutcome c.imageId 2) (updFw (fun w => { w with
        sched := some { c with prepared := true }, act := .scheduled })
        (updSlotAt c.slot (fun k => { k with prepared := true }) { s with emit := [] }))) :=
      only_when _ _ (updFw_only _ _ (updSlotAt_only _ _ _ (only_emit _ (only_refl _ _) (by decide)) (by decide))
        (by decide)) fun _ k => setOutcome_only _ _ _ k (by decide)
    exact kept.same .mbx (by decide)
  case cancel =>
    have e := fwCancel_cancels (s := takenUp s) (r := r) (by simpa using hs) hp hi
    refine scp_acts (ps := [.fw, .emit]) rfl a hf (fun _ => hm) rfl e ?_ (by decide) (by simp) fun same only => ?_
    · exact updFw_only _ _ ((whenForward_only _ _ _).mono (by decide)) (by decide)
    · have fw : _ = _ := same .fw (by decide)
      exact ⟨by rw [fw]; rfl, by rw [fw]; rfl, only.mono (by decide)⟩
  case record =>
    have e := handoverWritten_stamps (s := { s with emit := [] }) hh
    exact ⟨_, congrArg Host.Outcome.next (when_of hr _ _), e.1, e.2,
      handoverWritten_only _ (only_emit _ (only_refl _ _) (by decide)) (by decide)⟩
  case switch =>
    have e := microcodeSwitch_runs (s := { s with emit := [] }) hh hw
    have run : exec .engineMicrocodeSwitch s = .next _ :=
      congrArg Host.Outcome.next ((when_of hr _ { s with emit := [] }).trans e)
    have up : booted s = true := by
      have both : (booted s && !gated s && !flushing s && !s.fw.cellar) = true := hr
      simp only [Bool.and_eq_true] at both
      exact both.1.1.1
    refine ⟨_, run, (mgmtRestart_fw _).trans ?_, fun _ => mgmtRestart_running up⟩
    simp [updHold, updFw, hh, hw]
  case ready =>
    exact ⟨_, congrArg Host.Outcome.next (when_of hr _ _), handoverReady_fw (s := { s with emit := [] }) hh hw hc,
      handoverReady_only _ (only_emit _ (only_refl _ _) (by decide)) (by decide)⟩
  case expiry =>
    obtain ⟨hold, state, slot, running, image, k, expiry⟩ := holdExpiry_fw (s := { s with emit := [] }) hh hn hc
    have bound : k % 500 < 500 := Nat.mod_lt _ (by decide)
    exact ⟨_, congrArg Host.Outcome.next (when_of hr _ _), hold, state, slot, running, image, _, expiry,
      Nat.lt_succ_of_le (Nat.le_add_right _ _), by change s.frame.elapsed + k % 500 + 1 ≤ _; omega⟩

end Sys2Proof.Machine
end

section
/-! SUPPORT. FW_STAGE: the chunks of a staging, the container that is whole, and the slot that has been written
(R389, R397, R398). -/

namespace Sys2Proof.Machine

variable {s : State}

/-! ### Descriptors whose transfer succeeds -/

theorem descDma_whole {r : Posted} {dma : Dma} (out : List Byte) (ends : Nat → List Nat → State → State)
    (body : State → State) (he : r.epoch = s.mbx.hostEpoch) (hd : dma.failAt = none) :
    descDma r dma out ends body s =
      body (when (!out.isEmpty) (send (.hostWrite (agentFn r.agent) r.descAddr (out.take r.descLen))) s) := by
  unfold descDma
  simp only [he, hd, ne_eq, not_true_eq_false, if_false]

theorem descRead_whole {r : Posted} {dma : Dma} (body : List Byte → State → State) (he : r.epoch = s.mbx.hostEpoch)
    (hd : dma.failAt = none) : descRead r dma body s = body (padTo r.descLen dma.bytes) s :=
  descDma_whole _ _ _ he hd

theorem padTo_length (w : Nat) (l : List Byte) : (padTo w l).length = w := by
  simp only [padTo, zeros, List.length_append, List.length_take, List.length_replicate]
  omega

/-! ### What a posted reply leaves of the mailbox -/

theorem postReply_keeps (ws : List Word) (s : State) :
    (postReply ws s).mbx.outst = s.mbx.outst ∧ (postReply ws s).mbx.outQ = s.mbx.outQ := by
  unfold postReply
  dsimp only
  split
  · rw [setEvent_outst, setEvent_outQ]
    exact ⟨rfl, rfl⟩
  split
  · have h := steady_toRing { words := ws, epoch := s.mbx.devEpoch } s
    have outst := congrArg (fun m : MbxSt => m.outst) h
    have outQ := congrArg (fun m : MbxSt => m.outQ) h
    exact ⟨outst, outQ⟩
  · exact ⟨rfl, rfl⟩

theorem finalReply_outQ (tag op st : Nat) (payload : List Nat) (s : State) :
    (finalReply tag op st payload s).mbx.outQ = s.mbx.outQ := by
  unfold finalReply
  split
  · rfl
  · exact (postReply_keeps _ _).2

/-- What is noted of a request that is answered PENDING. -/
def outstOf (r : Posted) : Outst :=
  { tag := r.tag, opcode := r.opcode, agent := r.agent, epoch := r.epoch, frame := r.frame }

theorem replyPending_outst (r : Posted) (x : State) : (replyPending r x).mbx.outst = x.mbx.outst ++ [outstOf r] :=
  (postReply_keeps _ _).1

theorem find_outstOf {r : Posted} {x y : State} (hd : tagDup x r = false) (hy : y.mbx.outst = x.mbx.outst ++ [outstOf r]) :
    (y.mbx.outst.find? fun o => decide (o.tag = r.tag) && decide (o.opcode = r.opcode)) = some (outstOf r) := by
  have fresh : ∀ o ∈ x.mbx.outst, o.tag ≠ r.tag := by simpa [tagDup] using hd
  have none : (x.mbx.outst.find? fun o => decide (o.tag = r.tag) && decide (o.opcode = r.opcode)) = none := by
    rw [List.find?_eq_none]
    exact fun o ho => by simp [fresh o ho]
  rw [hy, List.find?_append, none]
  simp [outstOf]

/-- A request answered PENDING and then finally is outstanding no longer. -/
theorem pendingThenFinal_outst {r : Posted} {x y : State} (st : Nat) (payload : List Nat)
    (hd : tagDup x r = false) (hy : y.mbx = (replyPending r x).mbx) :
    (finalReply r.tag r.opcode st payload y).mbx.outst = x.mbx.outst := by
  have noted : y.mbx.outst = x.mbx.outst ++ [outstOf r] := by rw [hy, replyPending_outst]
  have absent : outstOf r ∉ x.mbx.outst := fun h => by
    have fresh : ∀ o ∈ x.mbx.outst, o.tag ≠ r.tag := by simpa [tagDup] using hd
    exact fresh _ h rfl
  unfold finalReply
  rw [find_outstOf hd noted]
  refine (postReply_keeps _ _).1.trans ?_
  change y.mbx.outst.erase (outstOf r) = _
  rw [noted, List.erase_append_right _ absent]
  simp

theorem tagDup_takenUp {op : Nat} {r : Posted} (a : Asks s op r) : tagDup (takenUp s) r = false := by
  rw [tagDup, takenUp_outst a]
  exact a.fresh

/-- A request that is answered PENDING and in the same command finally is taken off, and is outstanding no longer. -/
theorem scp_pends_then_ends {c : Instr} {op : Nat} {f : Form} {fault : Posted → Option Nat}
    {body : Posted → State → State} {r : Posted} {x y : State} {ps : List Part} {st : Nat} {payload : List Nat}
    (hc : exec c s = act (scp op f fault body) s) (a : Asks s op r) (hf : formFault r f = none)
    (hm : f.mgr = true → holder s 0 = r.agent) (ho : (descOwn r f).or (fault r) = none)
    (hb : body r (takenUp s) = finalReply r.tag r.opcode st payload y) (hx : Only ps (takenUp s) x)
    (hy : Only ps (replyPending r x) y) (hp : .mbx ∉ ps) {q : State → Prop}
    (hq : Only (.mbx :: .emit :: ps) s (finalReply r.tag r.opcode st payload y) →
      q (finalReply r.tag r.opcode st payload y)) :
    Does c s fun t => t.mbx.outst = s.mbx.outst ∧ t.mbx.outQ = [] ∧ q t := by
  have mbx : x.mbx = (takenUp s).mbx := hx.same .mbx hp
  have replied : y.mbx = (replyPending r x).mbx := hy.same .mbx hp
  have empty : (finalReply r.tag r.opcode st payload y).mbx.outQ = [] := by
    rw [finalReply_outQ, replied]
    exact (replyPending_answers ((quiet_takenUp a).of_only hx hp)).taken
  have outst : (finalReply r.tag r.opcode st payload y).mbx.outst = s.mbx.outst := by
    rw [pendingThenFinal_outst st payload (by rw [tagDup, mbx]; exact tagDup_takenUp a) replied, mbx]
    exact takenUp_outst a
  have up : Only (.mbx :: .emit :: ps) s x := ((takenUp_only s).mono (by simp)).trans (hx.mono (by simp))
  have run := scp_next hc a hf hm ho (by rw [hb]; exact empty)
  refine ⟨_, run.trans (congrArg Host.Outcome.next hb), outst, empty, hq ?_⟩
  exact finalReply_only _ _ _ _ _ ((up.trans ((replyPending_rest r x).mono (by simp))).trans (hy.mono (by simp)))
    (by simp)

/-! ### Chunks -/

section chunk

variable {p : Path} {slot off : Nat} {b : List Byte} {fwd : Bool} {checks : ImageChecks}

theorem offsetBad_of_only {t : State} (h : Only [.mbx, .emit] s t) (p : Path) (off len : Nat) :
    offsetBad t p off len = offsetBad s p off len := by
  rw [h.eq_mbx_emit]
  rfl

theorem stageReason_of_only {t : State} (h : Only [.mbx, .emit] s t) (p : Path) (n : Option Nat) :
    stageReason t p n = stageReason s p n := by
  rw [h.eq_mbx_emit]
  rfl

theorem verifyFault_svMin {t : State} (h : t.fw.svMin = s.fw.svMin) (i : Image) : verifyFault t i = verifyFault s i := by
  unfold verifyFault
  rw [h]

theorem staged_fw {t : State} (h : t.fw = s.fw) : staged t off b = staged s off b := by
  unfold staged
  rw [h]

theorem stagingTarget_fw {t : State} (h : t.fw = s.fw) : stagingTarget t = stagingTarget s := by
  unfold stagingTarget slotValid slotAt newestCfg
  rw [h]

/-- A chunk at an offset that is not bad continues what has been received, or begins anew. -/
theorem staged_length {len : Nat} (ho : offsetBad s p off len = false) : (staged s off b).length = off + b.length := by
  have good : off = 0 ∨ off = received s p := by
    simp only [offsetBad, Bool.or_eq_false_iff, decide_eq_false_iff_not] at ho
    exact (Nat.eq_zero_or_pos off).imp_right fun h => Decidable.byContradiction fun bad => ho.1 ⟨Nat.ne_of_gt h, bad⟩
  unfold staged
  rw [List.length_append]
  congr 1
  split
  case isTrue h0 => exact h0.symm
  case isFalse h0 =>
    have at_ : off = received s p := good.resolve_left h0
    unfold received at at_
    cases hg : s.fw.staging with
    | none =>
      simp only [hg] at at_
      exact absurd at_ h0
    | some g =>
      simp only [hg] at at_ ⊢
      split at at_
      · exact at_.symm
      · exact absurd at_ h0

/-- The staging that a chunk begins or continues. -/
def chunked (s : State) (p : Path) (slot off : Nat) (b : List Byte) (fwd : Bool) : Staging :=
  { path := p, slot := slot, data := staged s off b, forward := fwd, image := none, writing := false, tag := none,
    item := none }

theorem takeChunk_takes : takeChunk p slot off b fwd s = (chunked s p slot off b fwd,
    updFw (fun w => { w with staging := some (chunked s p slot off b fwd), act := .staging }) s) := by
  unfold takeChunk chunked staged
  cases hs : s.fw.staging with
  | none => simp
  | some g => by_cases h0 : off = 0 <;> simp [h0]

theorem stageChunk_more (a : Asker) : stageChunk a p slot off b false fwd checks s =
    askOk a [(staged s off b).length]
      (updFw (fun w => { w with staging := some (chunked s p slot off b fwd), act := .staging }) s) := by
  unfold stageChunk
  rw [takeChunk_takes]
  rfl

theorem stageChunk_last (r : Posted) : stageChunk (.scp r) p slot off b true fwd checks s =
    endStaging { chunked s p slot off b fwd with tag := some r.tag } checks (finalReply r.tag r.opcode 0x06 [])
      (replyPending r (updFw (fun w => { w with staging := some (chunked s p slot off b fwd), act := .staging }) s)) := by
  unfold stageChunk
  rw [takeChunk_takes]
  rfl

end chunk

/-! ### FW_STAGE of the manager -/

section manager

variable {r : Posted} {dma : Dma} {checks : ImageChecks}

theorem fwStageScp_chunk (he : r.epoch = s.mbx.hostEpoch) (hd : dma.failAt = none)
    (ho : offsetBad s .manager (r.pw 5) r.descLen = false) (hn : stageReason s .manager (some (r.pw 4 % 4)) = none) :
    fwStageScp dma checks r s = stageChunk (.scp r) .manager (r.pw 4 % 4) (r.pw 5) (padTo r.descLen dma.bytes)
      (bitOf (r.pw 4) 8) (bitOf (r.pw 4) 9) checks s := by
  unfold fwStageScp
  simp only [ho, hn, Bool.false_eq_true, if_false]
  exact descRead_whole _ he hd

theorem fwStageOwner_chunk {p : List Byte} (hl : p.length = 4101) (hf : byteAt p 4 ≤ 3)
    (ho : offsetBad s .owner (fieldAt p 0 4) 4096 = false)
    (hn : stageReason s .owner (some (stagingTarget s)) = none) :
    fwStageOwner p checks s = stageChunk .owner .owner (stagingTarget s) (fieldAt p 0 4) (p.drop 5)
      (bitOf (byteAt p 4) 0) (bitOf (byteAt p 4) 1) checks s := by
  have flags : ¬3 < byteAt p 4 := by omega
  unfold fwStageOwner
  simp only [hl, flags, ho, hn, ne_eq, not_true_eq_false, Bool.false_eq_true, if_false]

/-- The staging of a request of FW_STAGE whose container is whole. -/
def wholeStaging (r : Posted) (d : List Byte) : Staging :=
  { path := .manager, slot := r.pw 4 % 4, data := d, forward := bitOf (r.pw 4) 9, image := none, writing := false,
    tag := some r.tag, item := none }

theorem fwStageScp_last (he : r.epoch = s.mbx.hostEpoch) (hd : dma.failAt = none)
    (ho : offsetBad s .manager (r.pw 5) r.descLen = false) (hn : stageReason s .manager (some (r.pw 4 % 4)) = none)
    (hl : bitOf (r.pw 4) 8 = true) : ∃ x : State, fwStageScp dma checks r s =
      endStaging (wholeStaging r (staged s (r.pw 5) (padTo r.descLen dma.bytes))) checks
        (finalReply r.tag r.opcode 0x06 []) (replyPending r x) ∧
      Only [.fw] s x ∧ (replyPending r x).fw.svMin = s.fw.svMin := by
  rw [fwStageScp_chunk he hd ho hn, hl, stageChunk_last]
  refine ⟨_, rfl, updFw_only _ _ (only_refl _ _) (by decide), ?_⟩
  have fw := (replyPending_rest r (updFw (fun w => { w with
    staging := some (chunked s .manager (r.pw 4 % 4) (r.pw 5) (padTo r.descLen dma.bytes) (bitOf (r.pw 4) 9))
    act := .staging }) s)).same .fw (by decide)
  have svMin := congrArg FwSt.svMin fw
  exact svMin

theorem endStaging_passes {g : Staging} {bad : State → State} (hv : verifyFault s { bytes := g.data, checks := checks } = none) :
    endStaging g checks bad s = beginWrite g { bytes := g.data, checks := checks } s := by
  unfold endStaging
  dsimp only
  rw [hv]

theorem endStaging_fails {g : Staging} {bad : State → State} {st : SlotSt}
    (hv : verifyFault s { bytes := g.data, checks := checks } = some st) :
    endStaging g checks bad s =
      bad (setOutcome ({ bytes := g.data, checks := checks } : Image).imageId 5 (stageFails g.slot st s)) := by
  unfold endStaging
  dsimp only
  rw [hv]

theorem beginWrite_act (g : Staging) (i : Image) (s : State) : (beginWrite g i s).fw.act = .staging := by
  unfold beginWrite
  dsimp only
  unfold when
  split
  · obtain ⟨y, hy⟩ := forwardImage_fw i (updFw (fun w => { w with
      staging := some { g with writing := true, image := some i }, act := .staging })
      (forEach [2 * (g.slot - 1), 2 * (g.slot - 1) + 1] eraseSlot (updSlotAt g.slot (fun _ =>
        { st := .writing, image := none, copy0 := false, copy1 := false, prepared := false }) s)))
    rw [hy]
    rfl
  · rfl

/-- A container that fails leaves the failing step as its slot's state, and no staging. -/
theorem stageFails_fw (slot : Nat) (st : SlotSt) (w : Word) (k : Nat) (s : State) :
    (slotAt (setOutcome w k (stageFails slot st s)) slot).st = st ∧
      (setOutcome w k (stageFails slot st s)).fw.staging = none := by
  obtain ⟨i, l, fw⟩ := setOutcome_fw w k (stageFails slot st s)
  refine ⟨?_, ?_⟩
  · rw [slotAt_setOutcome]
    unfold stageFails
    rw [slotAt_updSlotAt]
  · rw [fw]
    unfold stageFails updSlotAt updFw
    dsimp only
    split <;> rfl

end manager

/-! ### The slot is written -/

section written

variable {g : Staging} {i : Image}

/-- The slot that has been written, and no staging in progress. -/
def slotFilled (g : Staging) (i : Image) (s : State) : State :=
  updFw (fun w => { w with staging := none, act := .none }) (updSlotAt g.slot (fun _ =>
    { st := .valid, image := some i, copy0 := true, copy1 := true, prepared := false }) s)

theorem stageWritten_replies {tag : Nat} (hc : s.fw.cellar = false) (hs : s.fw.staging = some g) (hw : g.writing = true)
    (hi : g.image = some i) (hp : g.path = .manager) (ht : g.tag = some tag) :
    stageWritten s = finalReply tag 0x30 0x00 [i.imageId.toNat] (setOutcome i.imageId 1 (slotFilled g i s)) := by
  have normal : (slotFilled g i s).fw.cellar = false := by
    unfold slotFilled updSlotAt updFw
    dsimp only
    split <;> exact hc
  unfold slotFilled at normal
  unfold stageWritten
  rw [hs]
  dsimp only
  rw [hw, hi]
  dsimp only
  rw [normal]
  unfold stagedReply
  simp only [hp, ht, Bool.false_eq_true, if_false]
  rfl

theorem slotFilled_fw (g : Staging) (i : Image) (s : State) :
    slotAt (slotFilled g i s) g.slot =
        { st := .valid, image := some i, copy0 := true, copy1 := true, prepared := false } ∧
      (slotFilled g i s).fw.staging = none ∧ (slotFilled g i s).fw.act = .none :=
  ⟨slotAt_updSlotAt _ _ _, rfl, rfl⟩

end written

/-- Settles O26: a chunk, a whole container that passes or fails, and a written slot. -/
theorem stagingFillsASlot : Obligations.StagingFillsASlot := by
  unfold Obligations.StagingFillsASlot
  refine fun s => ⟨fun r dma checks d a hf ho hw hm he hd hb hn hdata => ⟨fun hlast => ?chunk, fun hlast hv => ?passes,
    fun st hlast hv => ?fails⟩, fun l p checks a hl hfl hb hn hlast => ?owner,
    fun g i o hr hc hs hw hi hp ht hop owed => ?written⟩
  case chunk =>
    have only := takenUp_only s
    have body := fwStageScp_chunk (s := takenUp s) (checks := checks) (he.trans (quiet_takenUp a).host.symm) hd
      ((offsetBad_of_only only _ _ _).trans hb) ((stageReason_of_only only _ _).trans hn)
    rw [hlast, stageChunk_more] at body
    have data : staged (takenUp s) (r.pw 5) (padTo r.descLen dma.bytes) = d :=
      (staged_fw (takenUp_fw s)).trans hdata.symm
    have length : d.length = r.pw 5 + r.descLen := by
      rw [hdata, staged_length hb, padTo_length]
    have whole : chunked (takenUp s) .manager (r.pw 4 % 4) (r.pw 5) (padTo r.descLen dma.bytes) (bitOf (r.pw 4) 9) =
        { path := .manager, slot := r.pw 4 % 4, data := d, forward := bitOf (r.pw 4) 9, image := none,
          writing := false, tag := none, item := none } := by
      unfold chunked
      rw [data]
    rw [data, length, whole] at body
    refine scp_acts (ps := [.fw]) rfl a hf (fun _ => hm) (by rw [ho]; exact hw) body
      (updFw_only _ _ (only_refl _ _) (by decide)) (by decide) (by simp) fun same only => ?_
    have fw : _ = _ := same .fw (by decide)
    refine ⟨length, by rw [fw]; rfl, ?_, ?_, only.mono (by decide)⟩
    · rw [fw]
      change (takenUp s).fw.slot1 = _
      rw [takenUp_fw]
    · rw [fw]
      change (takenUp s).fw.slot2 = _
      rw [takenUp_fw]
  case passes =>
    have only := takenUp_only s
    obtain ⟨x, body, taken, svMin⟩ := fwStageScp_last (s := takenUp s) (checks := checks)
      (he.trans (quiet_takenUp a).host.symm) hd ((offsetBad_of_only only _ _ _).trans hb)
      ((stageReason_of_only only _ _).trans hn) hlast
    rw [staged_fw (takenUp_fw s), ← hdata] at body
    rw [takenUp_fw] at svMin
    have body := body.trans (endStaging_passes ((verifyFault_svMin svMin _).trans hv))
    obtain ⟨slot, staging⟩ := beginWrite_writes (wholeStaging r d) { bytes := d, checks := checks } (replyPending r x)
    refine scp_pends (ps := [.media, .fw, .emit]) rfl a hf (fun _ => hm) (by rw [ho]; exact hw) body
      (taken.mono (by decide)) (beginWrite_only _ _ _ (only_refl _ _) (by decide)) (by decide) fun only => ?_
    exact ⟨slot, ⟨_, staging, rfl, rfl, rfl, rfl⟩, beginWrite_act _ _ _, only.mono (by decide)⟩
  case fails =>
    have only := takenUp_only s
    obtain ⟨x, body, taken, svMin⟩ := fwStageScp_last (s := takenUp s) (checks := checks)
      (he.trans (quiet_takenUp a).host.symm) hd ((offsetBad_of_only only _ _ _).trans hb)
      ((stageReason_of_only only _ _).trans hn) hlast
    rw [staged_fw (takenUp_fw s), ← hdata] at body
    rw [takenUp_fw] at svMin
    have body := body.trans (endStaging_fails ((verifyFault_svMin svMin _).trans hv))
    obtain ⟨slot, staging⟩ := stageFails_fw (r.pw 4 % 4) st ({ bytes := d, checks := checks } : Image).imageId 5
      (replyPending r x)
    have ended := setOutcome_only (s0 := replyPending r x) (ps := [.fw, .emit])
      ({ bytes := d, checks := checks } : Image).imageId 5 _
      (stageFails_only (wholeStaging r d).slot st _ (only_refl _ _) (by decide)) (by decide)
    have does := scp_pends_then_ends (c := .fwStage (.scp dma) checks) rfl a hf (fun _ => hm) (by rw [ho]; exact hw)
      body (taken.mono (by decide)) ended (by decide) (q := fun t => (slotAt t (r.pw 4 % 4)).st = st ∧
        t.fw.staging = none ∧ Only [.mbx, .fw, .emit] s t) fun only =>
        ⟨by rw [slotAt_fw (finalReply_fw _ _ _ _ _)]; exact slot, by rw [finalReply_fw]; exact staging,
          only.mono (by decide)⟩
    exact does.imp fun t ⟨outst, outQ, slot, staging, only⟩ => ⟨slot, staging, outst, outQ, only⟩
  case owner =>
    have body : fwStageOwner p checks { s with emit := [] } = _ :=
      fwStageOwner_chunk (s := { s with emit := [] }) hl hfl hb hn
    rw [hlast, stageChunk_more] at body
    have length := staged_length (b := p.drop 5) (by simpa [hl] using hb)
    have total : (staged s (fieldAt p 0 4) (p.drop 5)).length = fieldAt p 0 4 + 4096 := by
      rw [length, List.length_drop, hl]
    refine ⟨_, (ownerRow_next rfl a).trans (congrArg Host.Outcome.next body), ?_, rfl, ?_⟩
    · rw [← total]
      rfl
    · exact ownerReply_only _ _ _ (updFw_only _ _ (only_emit _ (only_refl _ _) (by decide)) (by decide)) (by decide)
  case written =>
    have e := stageWritten_replies (s := { s with emit := [] }) hc hs hw hi hp ht
    obtain ⟨k, l, fw⟩ := setOutcome_fw i.imageId 1 (slotFilled g i { s with emit := [] })
    obtain ⟨slot, staging, act⟩ := slotFilled_fw g i { s with emit := [] }
    have fw2 := (finalReply_fw o.tag 0x30 0x00 [i.imageId.toNat]
      (setOutcome i.imageId 1 (slotFilled g i { s with emit := [] }))).trans fw
    have filled : Only [.fw, .emit] s (slotFilled g i { s with emit := [] }) :=
      updFw_only _ _ (updSlotAt_only _ _ _ (only_emit _ (only_refl _ _) (by decide)) (by decide)) (by decide)
    have out := setOutcome_only i.imageId 1 _ filled (by decide)
    refine ⟨_, congrArg Host.Outcome.next ((when_of hr _ { s with emit := [] }).trans e), ?_, ?_, ?_, ?_, ?_⟩
    · rw [← hop]
      exact finalReply_settles owed (out.same .mbx (by decide)) (by simp)
    · rw [slotAt_fw (finalReply_fw _ _ _ _ _), slotAt_setOutcome, slot]
    · rw [fw2]
      exact staging
    · rw [fw2]
      exact act
    · exact finalReply_only _ _ _ _ _ (out.mono (by decide)) (by decide)

end Sys2Proof.Machine
end

section
/-! SUPPORT. The metering ring: METER_RING_SET, METER_READ and the writes of held batches (R358 to R362). -/

namespace Sys2Proof.Machine

variable {s : State}

/-! ### METER_RING_SET and METER_READ -/

theorem meterRingSet_answers {r : Posted}
    (a : Accepted s 0x40 r (Form.plain [6] true [(2, 0xFFFFFFE0), (5, 0xFFFFFFFE)]) ringFault) :
    Does .meterRingSet s fun t => Answers s t r 0x00 [] ∧
      t.inst.ring = some { pf := agentFn r.agent, base := r.pw64 0, log2 := r.pw 2, ctl := r.pw64 3,
                           enable := decide (r.pw 5 = 1), prod := 0 } ∧
      t.inst.holders = s.inst.holders ∧ Only [.mbx, .inst, .emit] s t := by
  refine scp_acts (ps := [.inst]) rfl a.asks a.form a.manager a.payload rfl
    (updInst_only _ _ (only_refl _ _) (by decide)) (by decide) (by simp) fun same only => ?_
  have inst : _ = _ := same .inst (by decide)
  refine ⟨by rw [inst]; rfl, ?_, only.mono (by decide)⟩
  rw [inst]
  change (takenUp s).inst.holders = _
  rw [takenUp_inst]

theorem meterRead_replies {r : Posted} {h : Holder} (hf : r.pw 0 ≤ 2049) (hm : meteredNow s (r.pw 0) = true)
    (hh : tabGet s.inst.holders (r.pw 0) = some h) : meterRead r s = replyOk r (meterWords s (r.pw 0) h) s := by
  have fn : bits (r.pw 0) 11 0 = r.pw 0 := by
    simp only [bits]
    omega
  unfold meterRead
  rw [fn]
  dsimp only
  rw [if_pos hm, hh]

theorem meterWords_takenUp (fn : Nat) (h : Holder) : meterWords (takenUp s) fn h = meterWords s fn h := by
  unfold meterWords genOf minuteNow now
  rw [takenUp_inst, takenUp_frame]

/-- The words of METER_READ that the counters of a holder fill. -/
theorem meterWords_counters (fn : Nat) (h : Holder) :
    (meterWords s fn h).length = 15 ∧
      (meterWords s fn h).getD 0 0 = fn + genOf s fn * 2 ^ 16 + mflagBits h.flags * 2 ^ 24 ∧
      (meterWords s fn h).getD 4 0 = lo32 h.seen.bytesRead ∧ (meterWords s fn h).getD 6 0 = lo32 h.seen.bytesWritten ∧
      (meterWords s fn h).getD 8 0 = lo32 h.seen.commands ∧ (meterWords s fn h).getD 11 0 = lo32 h.seen.dieTime ∧
      (meterWords s fn h).getD 13 0 = lo32 h.seen.zoneFrames := by
  unfold meterWords
  exact ⟨rfl, List.getD_cons_zero, rfl, rfl, rfl, rfl, rfl⟩

theorem meterRead_answers {r : Posted} {h : Holder}
    (a : Accepted s 0x41 r (Form.plain [1] true [(0, 0xFFFFF000)]) (fun r => if 2049 < r.pw 0 then some 1 else none))
    (hm : meteredNow s (r.pw 0) = true) (hh : tabGet s.inst.holders (r.pw 0) = some h) :
    Does .meterRead s fun t => (∃ l : List Nat, l.length = 15 ∧ Answers s t r 0x00 l ∧
      l.getD 0 0 = r.pw 0 + genOf s (r.pw 0) * 2 ^ 16 + mflagBits h.flags * 2 ^ 24 ∧
      l.getD 4 0 = h.seen.bytesRead % 2 ^ 32 ∧ l.getD 6 0 = h.seen.bytesWritten % 2 ^ 32 ∧
      l.getD 8 0 = h.seen.commands % 2 ^ 32 ∧ l.getD 11 0 = h.seen.dieTime % 2 ^ 32 ∧
      l.getD 13 0 = h.seen.zoneFrames % 2 ^ 32) ∧ Only [.mbx, .emit] s t := by
  have known : r.pw 0 ≤ 2049 := by
    refine Nat.le_of_not_lt fun high => ?_
    have fault : (if 2049 < r.pw 0 then some 1 else none) = (none : Option Nat) := a.payload
    rw [if_pos high] at fault
    cases fault
  have kept := (takenUp_only s).eq_mbx_emit
  have metered : meteredNow (takenUp s) (r.pw 0) = true := by rw [kept]; exact hm
  have body : meterRead r (takenUp s) = replyOk r (meterWords s (r.pw 0) h) (takenUp s) :=
    (meterRead_replies known metered (by rw [takenUp_inst]; exact hh)).trans (by rw [meterWords_takenUp])
  have does := scp_replies (p := Only [.mbx, .emit] s) (c := .meterRead) rfl a.asks a.form a.manager a.payload body
    (quiet_takenUp a.asks)
    (Nat.le_of_eq (meterWords_counters _ _).1) (replyOk_only r _ _ (takenUp_only s) (by decide))
  obtain ⟨length, counters⟩ := meterWords_counters (s := s) (r.pw 0) h
  exact does.imp fun t ⟨ht, only⟩ => ⟨⟨_, length, ht, counters⟩, only⟩

/-! ### Batches -/

section batches

variable {g : Ring} {cons n : Nat} {b : List MRec}

theorem boardWrite_keeps (n v : Nat) (s : State) : (boardWrite n v s).emit = s.emit ∧ (boardWrite n v s).inst = s.inst :=
  ⟨(boardWrite_only n v s (only_refl [.mbx] s) (List.Subset.refl _)).same .emit (by decide),
    (boardWrite_only n v s (only_refl [.mbx] s) (List.Subset.refl _)).same .inst (by decide)⟩

/-- What the write of a batch sends: its records, then PROD. -/
def batchWords (g : Ring) (b : List MRec) : List Emission :=
  ((List.range b.length).zip b).map (fun p =>
    Emission.hostWrite g.pf (g.base + (g.prod + p.1) % 2 ^ g.log2 * 64) (mrecBytes p.2)) ++
  [.hostWrite g.pf g.ctl (le (g.prod + b.length) 8)]

/-- When an attempt was made, and whether one is due. -/
def attempt (s : State) : Bool × Nat := (s.inst.batchDue, s.inst.lastTry)

theorem writeBatch_writes (g : Ring) (b : List MRec) (s : State) :
    (writeBatch g b s).emit = s.emit ++ batchWords g b ∧
      (writeBatch g b s).inst.ring = some { g with prod := g.prod + b.length } ∧ attempt (writeBatch g b s) = attempt s := by
  unfold writeBatch attempt
  dsimp only
  rw [(boardWrite_keeps _ _ _).1, (boardWrite_keeps _ _ _).2]
  exact ⟨rfl, rfl, rfl⟩

/-- The batches that follow write on from PROD. -/
theorem writeBatches_goes_on (cons n : Nat) (hg : s.inst.ring = some g) :
    (∃ more, (writeBatches cons n s).emit = s.emit ++ more) ∧
      (∃ g', (writeBatches cons n s).inst.ring = some g' ∧ g.prod ≤ g'.prod) ∧
      attempt (writeBatches cons n s) = attempt s := by
  induction n generalizing s g with
  | zero => exact ⟨⟨[], (List.append_nil _).symm⟩, ⟨g, hg, Nat.le_refl _⟩, rfl⟩
  | succ n ih =>
    unfold writeBatches
    rw [hg]
    cases nextBatch s with
    | nil => exact ⟨⟨[], (List.append_nil _).symm⟩, ⟨g, hg, Nat.le_refl _⟩, rfl⟩
    | cons b t =>
      dsimp only
      split
      · exact ⟨⟨[], (List.append_nil _).symm⟩, ⟨g, hg, Nat.le_refl _⟩, rfl⟩
      · obtain ⟨emit, ring, tried⟩ := writeBatch_writes g (b :: t) s
        obtain ⟨⟨more, hmore⟩, ⟨g', hg', hle⟩, same⟩ := ih ring
        refine ⟨⟨batchWords g (b :: t) ++ more, ?_⟩, ⟨g', hg', Nat.le_trans (Nat.le_add_right _ _) hle⟩, same.trans tried⟩
        rw [hmore, emit, List.append_assoc]

/-- The first batch is written where the ring has room for it. -/
theorem writeBatches_first (hg : s.inst.ring = some g) (hb : nextBatch s ≠ [])
    (hr : g.prod - cons + (nextBatch s).length ≤ 2 ^ g.log2) :
    (∃ more, (writeBatches cons (n + 1) s).emit = s.emit ++ batchWords g (nextBatch s) ++ more) ∧
      (∃ g', (writeBatches cons (n + 1) s).inst.ring = some g' ∧ g.prod + (nextBatch s).length ≤ g'.prod) ∧
      attempt (writeBatches cons (n + 1) s) = attempt s := by
  unfold writeBatches
  rw [hg]
  cases h : nextBatch s with
  | nil => exact absurd h hb
  | cons b t =>
    rw [h] at hr
    dsimp only
    rw [if_neg (Nat.not_lt.mpr hr)]
    obtain ⟨emit, ring, tried⟩ := writeBatch_writes g (b :: t) s
    obtain ⟨⟨more, hmore⟩, hring, same⟩ := writeBatches_goes_on cons n ring
    exact ⟨⟨more, by rw [hmore, emit]⟩, hring, same.trans tried⟩

/-- The attempt that a batch write or a retry makes. -/
def attempted (s : State) : State :=
  updInst (fun i => { i with batchDue := false, lastTry := clk s }) s

theorem attempt_runs {c : Instr} {ok : Bool} (hc : (c = .meterBatchWrite cons ok ∧ s.inst.batchDue = true) ∨
      (c = .meterRetry cons ok ∧ s.inst.lastTry + 50000 ≤ s.frame.elapsed)) (hr : hallRuns s = true) :
    exec c s = .next (tryBatches cons ok (attempted { s with emit := [] })) := by
  have open_ : hallRuns { s with emit := [] } = true := hr
  rcases hc with ⟨rfl, hd⟩ | ⟨rfl, hd⟩
  · refine congrArg Host.Outcome.next ?_
    unfold batchWrite
    rw [if_neg (by simp [open_, hd])]
    rfl
  · have due : ¬clk { s with emit := [] } < s.inst.lastTry + 50000 := Nat.not_lt.mpr hd
    refine congrArg Host.Outcome.next ?_
    unfold meterRetry
    rw [if_neg (by simp [open_, due])]
    rfl

theorem tryBatches_open {ok : Bool} (hg : s.inst.ring = some g) (he : g.enable = true) (hl : ringLink s g = true)
    (hb : nextBatch s ≠ []) : tryBatches cons ok s =
      if ok = true then dropGone (writeBatches cons 128 s) else recEvent 0x16 s := by
  unfold tryBatches
  rw [hg]
  dsimp only
  rw [if_neg (by simp [he, hl, hb])]

theorem recEvent_counts (code : Nat) (s : State) :
    tabGetD (recEvent code s).recd.cur.events code 0 = sat16 (tabGetD s.recd.cur.events code 0 + 1) := by
  have kept : (recEvent code s).recd.cur.events = tabSet s.recd.cur.events code (sat16 (tabGetD s.recd.cur.events code 0 + 1)) := by
    unfold recEvent when
    split <;> rfl
  rw [kept, tabGetD, tabGet_set_self]
  rfl

end batches

/-- Settles O30: the ring set and read over SCP, and an attempt to write the batch held longest. -/
theorem meteringIsSetReadAndWritten : Obligations.MeteringIsSetReadAndWritten := by
  unfold Obligations.MeteringIsSetReadAndWritten
  refine ⟨fun s r => ⟨meterRingSet_answers, fun h => meterRead_answers⟩,
    fun s g cons c ok hc hr hg he hl hb => ⟨fun hok hroom => ?written, fun hok => ?failed⟩⟩
  case written =>
    have run := attempt_runs hc hr
    rw [tryBatches_open (s := attempted { s with emit := [] }) hg he hl hb, if_pos hok] at run
    obtain ⟨⟨more, emit⟩, ring, tried⟩ := writeBatches_first (s := attempted { s with emit := [] }) (n := 127) hg hb hroom
    exact ⟨_, run, ⟨more, emit⟩, ring, congrArg Prod.fst tried, congrArg Prod.snd tried⟩
  case failed =>
    have run := attempt_runs hc hr
    rw [tryBatches_open (s := attempted { s with emit := [] }) hg he hl hb, if_neg (by simp [hok])] at run
    have only : Only [.recd] (attempted { s with emit := [] }) _ := recEvent_only 0x16 _ (only_refl _ _) (by decide)
    refine ⟨_, run, only.same .emit (by decide), recEvent_counts _ _, only.same .inst (by decide), ?_⟩
    exact recEvent_only _ _ (updInst_only _ _ (only_emit _ (only_refl _ _) (by decide)) (by decide)) (by decide)

end Sys2Proof.Machine
end

section
/-! SUPPORT. The recorder's buffer and REC_READ: what a write of the buffer leaves in the mantel, and a request that is
answered PENDING and finally (R482, R483, R485). -/

namespace Sys2Proof.Machine

variable {s : State}

/-! ### What has been sent out stays sent -/

/-- What `s` has sent out is the beginning of what `t` has sent out. -/
def Sends (s t : State) : Prop := s.emit <+: t.emit

theorem sends_refl (s : State) : Sends s s := List.prefix_refl _

theorem Sends.trans {t u : State} (h : Sends s t) (k : Sends t u) : Sends s u := List.IsPrefix.trans h k

theorem sends_of_emit {t : State} (h : t.emit = s.emit) : Sends s t := by
  unfold Sends
  exact h ▸ List.prefix_refl _

theorem Sends.mem {t : State} {e : Emission} (h : Sends s t) (he : e ∈ s.emit) : e ∈ t.emit := h.subset he

theorem setEvent_sends (b : Nat) (s : State) : Sends s (setEvent b s) := by
  unfold setEvent
  split
  · exact sends_refl _
  · exact List.prefix_append _ _

theorem toRing_sends (r : Reply) (s : State) : Sends s (toRing r s) := by
  have write : Sends s (updMbx (spillWrite r.epoch (spillNeed r.words.length) true r.words) s) := sends_of_emit rfl
  exact write.trans (setEvent_sends _ _)

theorem postReply_sends (ws : List Word) (s : State) : Sends s (postReply ws s) := by
  unfold postReply
  dsimp only
  split
  · have queued : Sends s (updMbx (fun m => { m with
        inQ := m.inQ ++ inWords { words := ws, epoch := s.mbx.devEpoch } }) s) := sends_of_emit rfl
    exact queued.trans (setEvent_sends _ _)
  split
  · exact toRing_sends _ _
  · exact sends_of_emit rfl

theorem finalReply_sends (tag op st : Nat) (payload : List Nat) (s : State) : Sends s (finalReply tag op st payload s) := by
  unfold finalReply
  split
  · exact sends_refl _
  · rename_i o _
    have settled : Sends s (updMbx (fun m => { m with outst := m.outst.erase o }) s) := sends_of_emit rfl
    exact settled.trans (postReply_sends _ _)

theorem reply_sends (r : Posted) (st : Nat) (payload : List Nat) (s : State) : Sends s (reply r st payload s) :=
  postReply_sends _ _

/-! ### The buffer is written (R482, R483) -/

section buffer

variable {x : RecSt} {l : List Record}

theorem keepRecord_attic {n : Nat} {v : Record} (r : Record) (h : tabGet x.attic n = some v) :
    tabGet (keepRecord x r).attic n = some v := by
  unfold keepRecord
  dsimp only
  split
  · rename_i new
    have other : n ≠ r.recno := fun e => by
      rw [← e, h] at new
      simp at new
    rw [tabGet_set_ne _ _ other]
    exact h
  · exact h

theorem keepRecords_attic {n : Nat} {v : Record} (l : List Record) (h : tabGet x.attic n = some v) :
    tabGet (l.foldl keepRecord x).attic n = some v := by
  induction l generalizing x with
  | nil => exact h
  | cons r l ih => exact ih (keepRecord_attic r h)

theorem keepRecords_mantel_other {n : Nat} (h : ∀ r ∈ l, r.recno % 8192 ≠ n) :
    tabGet (l.foldl keepRecord x).mantel n = tabGet x.mantel n := by
  induction l generalizing x with
  | nil => rfl
  | cons r l ih =>
    rw [List.foldl_cons, ih fun q hq => h q (List.mem_cons_of_mem _ hq)]
    exact tabGet_set_ne _ _ (h r List.mem_cons_self).symm

theorem keepRecords_mantel (hd : (l.map fun r => r.recno % 8192).Nodup) :
    ∀ r ∈ l, tabGet (l.foldl keepRecord x).mantel (r.recno % 8192) = some r := by
  induction l generalizing x with
  | nil => exact fun r hr => absurd hr List.not_mem_nil
  | cons q l ih =>
    rw [List.map_cons, List.nodup_cons] at hd
    intro r hr
    rw [List.foldl_cons]
    rcases List.mem_cons.mp hr with rfl | hr
    · rw [keepRecords_mantel_other fun p hp e => hd.1 (List.mem_map.mpr ⟨p, hp, e⟩)]
      exact tabGet_set_self _ _ _
    · exact ih hd.2 r hr

theorem keepRecords_cur (l : List Record) : (l.foldl keepRecord x).cur = x.cur := by
  induction l generalizing x with
  | nil => rfl
  | cons r l ih => exact ih

end buffer

/-! ### Two replies in one command -/

theorem inWords_length (r : Reply) : (inWords r).length = r.words.length := by
  unfold inWords
  split
  · rename_i h
    simp [h]
  · rename_i h
    simp [h]

theorem postReply_fits {ws : List Word} (hl : s.mbx.inQ.length + ws.length ≤ 16) (hs : spillUsed s.mbx = 0)
    (hb : s.mbx.backlog = []) :
    evMbx (postReply ws s).mbx =
      evMbx { s.mbx with inQ := s.mbx.inQ ++ inWords { words := ws, epoch := s.mbx.devEpoch } } := by
  unfold postReply
  dsimp only
  rw [if_pos ⟨hl, hs, by rw [hb]; rfl⟩, setEvent_evMbx]
  rfl

section pending

variable {x y : State} {r : Posted}

/-- The PENDING reply to a request. -/
def pendingReply (s : State) (r : Posted) : Reply :=
  { words := [replyHeader r.opcode r.tag 0 (decide (r.epoch ≠ s.mbx.hostEpoch)) 0x09], epoch := s.mbx.devEpoch }

/-- The final reply to a request. -/
def lastReply (s : State) (r : Posted) (st : Nat) (payload : List Nat) : Reply :=
  { words := replyHeader r.opcode r.tag payload.length (decide (r.epoch ≠ s.mbx.hostEpoch)) st :: payload.map wordOf
    epoch := s.mbx.devEpoch }

theorem replyPending_evMbx (q : Quiet s x) : evMbx (replyPending r x).mbx =
    evMbx { x.mbx with outst := x.mbx.outst ++ [outstOf r], inQ := inWords (pendingReply s r) } := by
  have noted : Quiet s (updMbx (fun m => { m with outst := m.outst ++
      [{ tag := r.tag, opcode := r.opcode, agent := r.agent, epoch := r.epoch, frame := r.frame }] }) x) :=
    ⟨q.outQ, q.inQ, q.spill, q.backlog, q.host, q.dev⟩
  have e := postReply_evMbx [replyHeader r.opcode r.tag 0 (decide (r.epoch ≠ x.mbx.hostEpoch)) 0x09]
    noted.inQ noted.spill noted.backlog (by simp)
  unfold pendingReply
  rw [← q.host, ← q.dev]
  exact e

theorem replyPending_hostEpoch (q : Quiet s x) : (replyPending r x).mbx.hostEpoch = s.mbx.hostEpoch := by
  have e := congrArg (fun m : MbxSt => m.hostEpoch) (replyPending_evMbx (r := r) q)
  exact Eq.trans e q.host

/-- The replies of a request that is answered PENDING and in the same command finally. -/
theorem pendingThenFinal_inQ {st : Nat} {payload : List Nat} (q : Quiet s x) (hd : tagDup x r = false)
    (hy : y.mbx = (replyPending r x).mbx) (hl : payload.length ≤ 14) :
    (finalReply r.tag r.opcode st payload y).mbx.inQ =
      inWords (pendingReply s r) ++ inWords (lastReply s r st payload) := by
  have noted : y.mbx.outst = x.mbx.outst ++ [outstOf r] := by rw [hy, replyPending_outst]
  have e : evMbx y.mbx = _ := (congrArg evMbx hy).trans (replyPending_evMbx q)
  have inQ : y.mbx.inQ = inWords (pendingReply s r) := by
    have k := congrArg (fun m : MbxSt => m.inQ) e
    exact k
  have host : y.mbx.hostEpoch = s.mbx.hostEpoch := by
    have k := congrArg (fun m : MbxSt => m.hostEpoch) e
    exact Eq.trans k q.host
  have dev : y.mbx.devEpoch = s.mbx.devEpoch := by
    have k := congrArg (fun m : MbxSt => m.devEpoch) e
    exact Eq.trans k q.dev
  have spill : spillUsed y.mbx = 0 := by
    have k := congrArg (fun m : MbxSt => spillUsed m) e
    exact Eq.trans k q.spill
  have backlog : y.mbx.backlog = [] := by
    have k := congrArg (fun m : MbxSt => m.backlog) e
    exact Eq.trans k q.backlog
  have room : y.mbx.inQ.length + (lastReply s r st payload).words.length ≤ 16 := by
    rw [inQ, inWords_length]
    simp only [pendingReply, lastReply, List.length_cons, List.length_nil, List.length_map]
    omega
  have fits := postReply_fits (s := updMbx (fun m => { m with outst := m.outst.erase (outstOf r) }) y) room spill backlog
  have k := congrArg (fun m : MbxSt => m.inQ) fits
  unfold finalReply
  rw [find_outstOf hd noted, ← inQ]
  unfold lastReply at k ⊢
  rw [← dev, ← host] at k ⊢
  exact k

end pending

end Sys2Proof.Machine
end

section
/-! SUPPORT. REC_READ, CFG_READ, CFG_COMMIT, CAL_READ and CAL_WRITE: what is stored goes to host memory or is replaced
(R67, R80, R414 to R419, R485). -/

namespace Sys2Proof.Machine

variable {s : State} {r : Posted} {dma : Dma} {finds : List LineFind}

/-! ### Lengths of what is stored -/

theorem le_length (n w : Nat) : (le n w).length = w := by
  induction w generalizing n with
  | zero => rfl
  | succ w ih => exact congrArg Nat.succ (ih _)

theorem recordBytes_length (x : Record) : (recordBytes x).length = 2048 := by
  unfold recordBytes
  dsimp only
  rw [List.length_append, padTo_length, bvBytes, le_length]

theorem sinceBytes_length (s : State) : (sinceBytes s).length = 65536 := by
  unfold sinceBytes
  dsimp only
  rw [List.length_append, padTo_length, bvBytes, le_length]

theorem records_length (l : List Record) : (l.map recordBytes).flatten.length = 2048 * l.length := by
  induction l with
  | nil => rfl
  | cons x l ih =>
    rw [List.map_cons, List.flatten_cons, List.length_append, ih, recordBytes_length, List.length_cons]
    omega

theorem putAt_length {off : Nat} {b l : List Byte} (h : off + b.length ≤ l.length) : (putAt off b l).length = l.length := by
  simp only [putAt, List.length_append, List.length_take, List.length_drop]
  omega

/-! ### REC_READ (R485) -/

/-- The bytes that REC_READ writes to host memory. -/
def recOut (r : Posted) (s : State) : List Byte :=
  if r.pw 4 = 2 then sinceBytes s
  else ((((areaRecords s (r.pw 4)).filter fun x => decide (r.pw 5 ≤ x.recno)).take (r.descLen / 2048)).map
    recordBytes).flatten

/-- The state in which REC_READ has read the recorder. -/
def recRead1 (finds : List LineFind) (s : State) : State := (drawNat (drawNat (readLines finds s)).2).2

/-- What has been sent when REC_READ's transfer is done. -/
def putOut (r : Posted) (out : List Byte) : State → State :=
  when (!out.isEmpty) (send (.hostWrite (agentFn r.agent) r.descAddr (out.take r.descLen)))

theorem recRead_ends (he : r.epoch = (replyPending r (recRead1 finds s)).mbx.hostEpoch) (hd : dma.failAt = none) :
    ∃ first last count, recRead dma finds r s = finalReply r.tag r.opcode 0 [first, last, count]
      (putOut r (recOut r (readLines finds s)) (replyPending r (recRead1 finds s))) :=
  ⟨_, _, _, descDma_whole _ _ _ he hd⟩

theorem putOut_only (out : List Byte) (x : State) : Only [.emit] x (putOut r out x) :=
  only_when _ _ (only_refl _ _) fun _ h => h.trans (only_emit _ (only_refl _ _) (by decide))

theorem putOut_mem {out : List Byte} (x : State) (h : out ≠ []) :
    .hostWrite (agentFn r.agent) r.descAddr (out.take r.descLen) ∈ (putOut r out x).emit := by
  have some_ : (!out.isEmpty) = true := by simpa using h
  unfold putOut
  rw [when_of some_]
  exact List.mem_append_right _ List.mem_cons_self

theorem readLines_nil (s : State) : readLines [] s = s := by
  unfold readLines
  split <;> rfl

/-- The groups that reading failing lines and what follows may change. -/
def readParts : List Part := [.frame, .host, .media, .inst, .fw, .therm, .pins, .recd, .emit, .free]

theorem readLines_rest (finds : List LineFind) (s : State) : Only readParts s (readLines finds s) :=
  readLines_only _ _ (only_refl _ _) (by decide)

theorem recRead1_only (finds : List LineFind) (s : State) : Only [.free] (readLines finds s) (recRead1 finds s) :=
  drawNat_only (drawNat_only (only_refl _ _) (by decide)) (by decide)

/-- What REC_READ writes to host memory is whole. -/
theorem recOut_take {x : State} (h : r.pw 4 = 2 → r.descLen = 65536) :
    (recOut r x).take r.descLen = recOut r x := by
  refine List.take_of_length_le ?_
  unfold recOut
  split
  · rename_i block
    exact Nat.le_of_eq ((sinceBytes_length _).trans (h block).symm)
  · rw [records_length]
    have most := List.length_take_le (r.descLen / 2048)
      ((areaRecords x (r.pw 4)).filter fun x => decide (r.pw 5 ≤ x.recno))
    have whole := Nat.mul_div_le r.descLen 2048
    exact Nat.le_trans (Nat.mul_le_mul_left 2048 most) whole

/-- The form of REC_READ. -/
def recForm : Form :=
  { lens := [7], desc := some (true, []), mgr := false,
    lenOk := fun r => decide (r.descLen % 2048 = 0) && (decide (r.pw 4 % 4 ≠ 2) || decide (r.descLen = 65536)),
    rsv := [(4, 0xFFFFFFFC), (6, 0xFFFFFFFF)] }

theorem recForm_block (h : descOwn r recForm = none) (hb : r.pw 4 = 2) : r.descLen = 65536 := by
  have ok : recForm.lenOk r = true := by
    refine Decidable.byContradiction fun bad => ?_
    have fault : descOwn r recForm = some 3 := if_pos (.inr (by simpa using bad))
    rw [h] at fault
    cases fault
  simp only [recForm, hb, Bool.and_eq_true, Bool.or_eq_true, decide_eq_true_eq] at ok
  exact ok.2.resolve_left (by decide)

theorem recRead_does (a : Accepted s 0x50 r recForm (fun r => if r.pw 4 % 4 = 2 ∧ r.pw 5 ≠ 0 then some 6 else none))
    (hd : dma.failAt = none) : Does (.recRead ⟨dma, finds⟩) s fun t =>
      (∃ first last count : Nat, t.mbx.inQ = inWords (pendingReply s r) ++ inWords (lastReply s r 0 [first, last, count])) ∧
      t.mbx.outst = s.mbx.outst ∧
      (recOut r (readLines finds (takenUp s)) ≠ [] →
        .hostWrite (agentFn r.agent) r.descAddr ((recOut r (readLines finds (takenUp s))).take r.descLen) ∈ t.emit) ∧
      t.recd = (readLines finds (takenUp s)).recd := by
  have read : Only readParts (takenUp s) (recRead1 finds (takenUp s)) :=
    (readLines_rest _ _).trans ((recRead1_only _ _).mono (by decide))
  have quiet : Quiet s (recRead1 finds (takenUp s)) := (quiet_takenUp a.asks).of_only read (by decide)
  obtain ⟨first, last, count, body⟩ := recRead_ends (r := r) (finds := finds) (s := takenUp s)
    (a.epoch.trans (replyPending_hostEpoch quiet).symm) hd
  have put := putOut_only (r := r) (recOut r (readLines finds (takenUp s))) (replyPending r (recRead1 finds (takenUp s)))
  have fresh : tagDup (recRead1 finds (takenUp s)) r = false := by
    have mbx : (recRead1 finds (takenUp s)).mbx = (takenUp s).mbx := read.same .mbx (by decide)
    rw [tagDup, mbx]
    exact tagDup_takenUp a.asks
  have payload : (descOwn r recForm).or (if r.pw 4 % 4 = 2 ∧ r.pw 5 ≠ 0 then some 6 else none) = none := a.payload
  have does := scp_pends_then_ends (c := .recRead ⟨dma, finds⟩) (ps := readParts) rfl a.asks a.form a.manager payload body
    read (put.mono (by decide)) (by decide) (q := fun t =>
      (∃ first last count : Nat, t.mbx.inQ = inWords (pendingReply s r) ++ inWords (lastReply s r 0 [first, last, count])) ∧
      (recOut r (readLines finds (takenUp s)) ≠ [] →
        .hostWrite (agentFn r.agent) r.descAddr ((recOut r (readLines finds (takenUp s))).take r.descLen) ∈ t.emit) ∧
      t.recd = (readLines finds (takenUp s)).recd) fun _ => ⟨?replies, ?sent, ?recorder⟩
  · exact does.imp fun t ⟨outst, _, replies, sent, recorder⟩ => ⟨replies, outst, sent, recorder⟩
  case replies => exact ⟨_, _, _, pendingThenFinal_inQ quiet fresh (put.same .mbx (by decide)) (by simp)⟩
  case sent => exact fun h => (finalReply_sends _ _ _ _ _).mem (putOut_mem _ h)
  case recorder =>
    have h1 := finalReply_only r.tag r.opcode 0 [first, last, count] _ (only_refl [.mbx, .emit]
      (putOut r (recOut r (readLines finds (takenUp s))) (replyPending r (recRead1 finds (takenUp s))))) (by decide)
    have all : Only [.mbx, .emit, .free] (readLines finds (takenUp s)) _ := ((recRead1_only _ _).mono (by decide)).trans
      (((replyPending_rest _ _).mono (by decide)).trans ((put.mono (by decide)).trans (h1.mono (by decide))))
    exact all.same .recd (by decide)

/-! ### What is stored goes to host memory (R414, R417, R418) -/

theorem putAt_le (off : Nat) (b l : List Byte) : l.length ≤ (putAt off b l).length := by
  simp only [putAt, List.length_append, List.length_take, List.length_drop]
  omega

theorem fields_le (size : Nat) (l : List (Nat × List Byte)) : size ≤ (fields size l).length := by
  have grows : ∀ (l : List (Nat × List Byte)) (b : List Byte),
      b.length ≤ (l.foldl (fun b f => putAt f.1 f.2 b) b).length := by
    intro l
    induction l with
    | nil => exact fun b => Nat.le_refl _
    | cons f l ih => exact fun b => Nat.le_trans (putAt_le _ _ _) (ih _)
  have zero : (zeros size).length = size := List.length_replicate
  exact Nat.le_trans (Nat.le_of_eq zero.symm) (grows l _)

theorem fields_ne_nil {size : Nat} (h : 0 < size) (l : List (Nat × List Byte)) : fields size l ≠ [] :=
  List.ne_nil_of_length_pos (Nat.lt_of_lt_of_le h (fields_le size l))

theorem cfgBytes_ne_nil (c : Config412) : cfgBytes c ≠ [] := fields_ne_nil (Nat.succ_pos _) _

theorem calBytes_ne_nil (c : Calib) : calBytes c ≠ [] := fields_ne_nil (Nat.succ_pos _) _

theorem descOwn_len {f : Form} {dir : Bool} {n : Nat} (hf : f.desc = some (dir, [n])) (h : descOwn r f = none) :
    r.descLen = n := by
  unfold descOwn at h
  rw [hf] at h
  refine Decidable.byContradiction fun other => ?_
  have bad : (!([n] : List Nat).isEmpty) = true ∧ (!([n] : List Nat).contains r.descLen) = true := by
    simpa using other
  dsimp only at h
  rw [if_pos (.inl bad)] at h
  cases h

/-- A request that writes what is stored to host memory, and is answered OK. -/
theorem scp_writesOut {c : Instr} {op : Nat} {f : Form} {fault : Posted → Option Nat} {body : Posted → State → State}
    {out : List Byte} {payload : List Nat} (hc : exec c s = act (scp op f fault body) s) (a : Accepted s op r f fault)
    (hb : body r (takenUp s) = reply r 0x00 payload (putOut r out (readLines finds (takenUp s)))) (hout : out ≠ [])
    (hl : payload.length ≤ 15) : Does c s fun t => Answers s t r 0x00 payload ∧
      .hostWrite (agentFn r.agent) r.descAddr (out.take r.descLen) ∈ t.emit ∧
      t.fw = (readLines finds (takenUp s)).fw ∧ (finds = [] → Only [.mbx, .emit] s t) := by
  have put := putOut_only (r := r) out (readLines finds (takenUp s))
  refine scp_acts (ps := readParts) hc a.asks a.form a.manager a.payload hb
    ((readLines_rest _ _).trans (put.mono (by decide))) (by decide) hl fun same _ => ⟨?sent, ?fw, fun hn => ?only⟩
  case sent => exact (reply_sends _ _ _ _).mem (putOut_mem _ hout)
  case fw => exact (same .fw (by decide)).trans (put.same .fw (by decide))
  case only =>
    have none : Only [.mbx, .emit] s (readLines finds (takenUp s)) := by
      rw [hn, readLines_nil]
      exact takenUp_only s
    exact reply_only _ _ _ _ (none.trans (put.mono (by decide))) (by decide)

theorem cfgRead_replies {c : Config412} (he : r.epoch = s.mbx.hostEpoch) (hd : dma.failAt = none)
    (hc : cfgCopy (readLines finds s) (r.pw 4) = some c) :
    cfgRead dma finds r s =
      reply r 0x00 [lo32 c.seq, hi32 c.seq] (putOut r (cfgBytes c) (readLines finds s)) := by
  have epoch : (readLines finds s).mbx.hostEpoch = s.mbx.hostEpoch :=
    congrArg MbxSt.hostEpoch ((readLines_rest finds s).same .mbx (by decide))
  unfold cfgRead
  dsimp only
  rw [hc]
  exact descDma_whole _ _ _ (he.trans epoch.symm) hd

theorem calRead_replies (he : r.epoch = s.mbx.hostEpoch) (hd : dma.failAt = none)
    (hc : (readLines finds s).fw.calState ≠ 2) :
    calRead dma finds r s = reply r 0x00 [] (putOut r (calBytes (readLines finds s).fw.calib) (readLines finds s)) := by
  have epoch : (readLines finds s).mbx.hostEpoch = s.mbx.hostEpoch :=
    congrArg MbxSt.hostEpoch ((readLines_rest finds s).same .mbx (by decide))
  unfold calRead
  dsimp only
  rw [if_neg hc]
  exact descDma_whole _ _ _ (he.trans epoch.symm) hd

/-! ### The record is written (R413, R415) -/

/-- The newest copy is the record that has been written, one SEQ higher. -/
theorem newestCfg_writeCfg (f : Config412 → Config412) (s : State) :
    newestCfg (writeCfg f s) = { f (newestCfg s) with seq := (newestCfg s).seq + 1 } := by
  have beyond (b : Config412) : ¬b.seq + 1 < b.seq := Nat.not_lt.mpr (Nat.le_succ _)
  unfold writeCfg updFw newestCfg
  cases ha : s.fw.copyA with
  | none =>
    cases hb : s.fw.copyB with
    | none => simp [hb]
    | some b => simp [hb, beyond b]
  | some a =>
    cases hb : s.fw.copyB with
    | none => simp [ha]
    | some b =>
      by_cases h : a.seq < b.seq
      · have older : ¬b.seq ≤ a.seq := Nat.not_le.mpr h
        simp [hb, h, older, beyond b]
      · have newer : b.seq ≤ a.seq := Nat.not_lt.mp h
        simp [ha, h, newer]

theorem commitFault_of_only {t : State} (h : Only [.mbx, .emit] s t) (b : List Byte) (c : Config412)
    (hf : commitFault s r b c = none) : commitFault t r b c = none := by
  rw [h.eq_mbx_emit]
  exact hf

/-- The record written, and its boundary fields due. -/
def cfgWritten (c : Config412) (s : State) : State :=
  updFw (fun w => { w with cfgDue := some c })
    (writeCfg (fun old => { c with seq := old.seq, bootSlot := old.bootSlot }) s)

theorem newestCfg_fw {t : State} (h : t.fw = s.fw) : newestCfg t = newestCfg s := by
  unfold newestCfg
  rw [h]

theorem cfgWritten_newest (c : Config412) (s : State) : newestCfg (cfgWritten c s) =
    { c with seq := (newestCfg s).seq + 1, bootSlot := (newestCfg s).bootSlot } := by
  have written := newestCfg_writeCfg (fun old => { c with seq := old.seq, bootSlot := old.bootSlot }) s
  exact written

theorem cfgWritten_only (c : Config412) (s : State) : Only [.fw] s (cfgWritten c s) :=
  updFw_only _ _ (writeCfg_only _ _ (only_refl _ _) (by decide)) (by decide)

theorem cfgCommit_replies {b : List Byte} (hf : commitFault s r b (cfgOf b) = none) :
    cfgCommit r b s = reply r 0x00 [lo32 ((newestCfg s).seq + 1), hi32 ((newestCfg s).seq + 1)] (cfgWritten (cfgOf b) s) := by
  have seq : (newestCfg (writeCfg (fun old => { cfgOf b with seq := old.seq, bootSlot := old.bootSlot }) s)).seq =
      (newestCfg s).seq + 1 := by rw [newestCfg_writeCfg]
  unfold cfgCommit
  dsimp only
  rw [hf]
  dsimp only
  rw [seq]
  rfl

/-! ### Transfers that fail (R67, R80) -/

theorem descRead_link (body : List Byte → State → State) {b : List Byte} {off : Nat} (he : r.epoch = s.mbx.hostEpoch) :
    descRead r { bytes := b, failAt := some (.link off) } body s = reply r 0x07 [1, off] s := by
  unfold descRead descDma
  simp only [he, ne_eq, not_true_eq_false, if_false]
  rfl

theorem descRead_epoch (body : List Byte → State → State) {b : List Byte} {off : Nat} {release : Bool}
    (he : r.epoch = s.mbx.hostEpoch) :
    descRead r { bytes := b, failAt := some (.epoch off release) } body s =
      reply r 0x07 [2, burstEnd off r.descLen] (epochMoves release s) := by
  unfold descRead descDma
  simp only [he, ne_eq, not_true_eq_false, if_false]
  rfl

/-- The sender reset that comes of HOST_EPOCH's move, where no partial message waits. -/
theorem hostSenderReset_evMbx (hp : s.mbx.part = none) : evMbx (hostSenderReset s).mbx =
    evMbx { s.mbx with part := none, skip := 0, hostEpoch := s.mbx.hostEpoch + 1 } := by
  have none_ : partWords s.mbx = 0 := by rw [partWords, hp]
  unfold hostSenderReset
  rw [none_]
  exact emptying_evMbx _ _

/-- What the move of HOST_EPOCH under a transfer leaves of the mailbox. -/
theorem epochMoves_queues (release : Bool) (hp : s.mbx.part = none) (hi : s.mbx.inQ = []) :
    (epochMoves release s).mbx.outQ = s.mbx.outQ ∧ (epochMoves release s).mbx.inQ = [] ∧
      spillUsed (epochMoves release s).mbx = spillUsed s.mbx ∧ (epochMoves release s).mbx.backlog = s.mbx.backlog ∧
      (epochMoves release s).mbx.hostEpoch = s.mbx.hostEpoch + 1 ∧
      (epochMoves release s).mbx.devEpoch = s.mbx.devEpoch ∧ (release = true → holder (epochMoves release s) 1 = 0) := by
  have e := hostSenderReset_evMbx hp
  have outQ := congrArg (fun m : MbxSt => m.outQ) e
  have inQ := congrArg (fun m : MbxSt => m.inQ) e
  have spill := congrArg (fun m : MbxSt => spillUsed m) e
  have backlog := congrArg (fun m : MbxSt => m.backlog) e
  have host := congrArg (fun m : MbxSt => m.hostEpoch) e
  have dev := congrArg (fun m : MbxSt => m.devEpoch) e
  cases release with
  | false => exact ⟨outQ, rfl, spill, backlog, host, dev, nofun⟩
  | true => exact ⟨outQ, Eq.trans inQ hi, spill, backlog, host, dev, fun _ => by
      have gone : tabGet (tabDel (hostSenderReset s).mbx.latches 1) 1 = none := tabGet_del_self _ _
      change tabGetD (tabDel (hostSenderReset s).mbx.latches 1) 1 0 = 0
      rw [tabGetD, gone]
      rfl⟩

theorem takenUp_part {op : Nat} (a : Asks s op r) : (takenUp s).mbx.part = none := by
  have e := congrArg (fun m : MbxSt => m.part) (takenUp_evMbx a)
  exact Eq.trans e a.whole

/-- A request in whose transfer HOST_EPOCH moves ends ABORTED, and its bits of the old epoch are stale. -/
theorem scp_epochMoves {c : Instr} {op : Nat} {f : Form} {fault : Posted → Option Nat} {body : Posted → State → State}
    {release : Bool} {payload : List Nat} (hc : exec c s = act (scp op f fault body) s) (a : Accepted s op r f fault)
    (hb : body r (takenUp s) = reply r 0x07 payload (epochMoves release (takenUp s))) (hl : payload.length ≤ 15) :
    Does c s fun t => t.mbx.hostEpoch = s.mbx.hostEpoch + 1 ∧ (release = true → holder t 1 = 0) ∧
      t.mbx.inQ = inWords { words := replyHeader r.opcode r.tag payload.length true 0x07 :: payload.map wordOf
                            epoch := s.mbx.devEpoch } ∧ t.fw = s.fw := by
  have quiet := quiet_takenUp a.asks
  obtain ⟨outQ, inQ, spill, backlog, host, dev, free⟩ := epochMoves_queues release (takenUp_part a.asks) quiet.inQ
  generalize hy : epochMoves release (takenUp s) = y at *
  have e := postReply_evMbx (s := y) (replyHeader r.opcode r.tag payload.length (decide (r.epoch ≠ y.mbx.hostEpoch)) 0x07 ::
    payload.map wordOf) inQ (spill.trans quiet.spill) (backlog.trans quiet.backlog) (by simp; omega)
  have stale : decide (r.epoch ≠ y.mbx.hostEpoch) = true := by
    rw [host, quiet.host, a.epoch]
    exact decide_eq_true (by bv_omega)
  have empty : (body r (takenUp s)).mbx.outQ = [] := by
    rw [hb]
    have k := congrArg (fun m : MbxSt => m.outQ) e
    exact Eq.trans k (outQ.trans quiet.outQ)
  refine ⟨_, (scp_next hc a.asks a.form a.manager a.payload empty).trans (congrArg Host.Outcome.next hb), ?_, ?_, ?_, ?_⟩
  · have k := congrArg (fun m : MbxSt => m.hostEpoch) e
    exact Eq.trans k (host.trans (by rw [quiet.host]))
  · intro hr
    have k := congrArg (fun m : MbxSt => tabGetD m.latches 1 0) e
    exact Eq.trans k (free hr)
  · have k : (reply r 0x07 payload y).mbx.inQ = inWords
        { words := replyHeader r.opcode r.tag payload.length (decide (r.epoch ≠ y.mbx.hostEpoch)) 0x07 :: payload.map wordOf
          epoch := y.mbx.devEpoch } := by
      have k := congrArg (fun m : MbxSt => m.inQ) e
      exact k
    rw [k, stale, dev, quiet.dev]
  · have moved : Only [.mbx, .inst, .prot, .ecc, .emit] (takenUp s) y := by
      rw [← hy]
      exact epochMoves_only _ _ (only_refl _ _) (by decide)
    have all := reply_only r 0x07 payload y (((takenUp_only s).mono (by decide)).trans moved) (by decide)
    exact all.same .fw (by decide)

/-! ### The calibration set is replaced (R419) -/

theorem calWrite_keeps (b : List Byte) (s : State) :
    (calWrite b s).fw.calib = { body := b.drop 12, overwritten := true, writes := s.fw.calib.writes + 1 } ∧
      (calWrite b s).fw.calState = 1 ∧
      tabGetD (calWrite b s).recd.cur.events 0x0A 0 = sat16 (tabGetD s.recd.cur.events 0x0A 0 + 1) := by
  have fw : ∀ x, (recEvent 0x0A x).fw = x.fw := fun x =>
    (recEvent_only 0x0A x (only_refl [.recd] x) (List.Subset.refl _)).same .fw (by decide)
  unfold calWrite
  dsimp only
  rw [fw]
  exact ⟨rfl, rfl, recEvent_counts _ _⟩

/-! ### The obligation -/

/-- A write of the recorder's buffer, when it is called for. -/
theorem recorderBufferWrite_does (hb : booted s = true) (hd : s.recd.writeDue = true ∨ 48 ≤ s.recd.closed.length) :
    exec .recorderBufferWrite s = .next (writeBuffer { s with emit := [] }) := by
  have due : (booted { s with emit := [] } && (s.recd.writeDue || decide (48 ≤ s.recd.closed.length))) = true := by
    have up : booted { s with emit := [] } = true := hb
    simpa [up] using hd
  exact congrArg Host.Outcome.next (when_of due _ _)

/-- Settles O31: the buffer's write by induction on the records it holds, REC_READ's two replies, and the record and the
calibration set. -/
theorem recordsAreWrittenAndRead : Obligations.RecordsAreWrittenAndRead := by
  unfold Obligations.RecordsAreWrittenAndRead
  refine ⟨fun s => ⟨fun hb hd => ?buffer, fun r dma finds s1 l a hd hs1 hl => ?recRead⟩,
    fun s r b dma hdma => ⟨fun c finds s1 a hs1 hc => ?cfgRead, fun a => ⟨fun hf => ?cfgCommit, fun off => ?link,
      fun off release => ?epoch⟩, fun finds s1 a hs1 hc => ?calRead, fun a hw hf => ?calWrite⟩⟩
  case buffer =>
    refine ⟨_, recorderBufferWrite_does hb hd, rfl, rfl, keepRecords_cur _, fun h => keepRecords_mantel h,
      fun n h => keepRecords_mantel_other h, fun n r h => keepRecords_attic _ h, ?_⟩
    exact writeBuffer_only _ (only_emit _ (only_refl _ _) (by decide)) (by decide)
  case recRead =>
    have sent := recRead_does (finds := finds) a hd
    have none_ : descOwn r recForm = none := (Option.or_eq_none_iff.mp a.payload).1
    have epoch : decide (r.epoch ≠ s.mbx.hostEpoch) = false := decide_eq_false (fun h => h a.epoch)
    refine sent.imp fun t ⟨⟨first, last, count, replies⟩, outst, mem, recd⟩ => ⟨⟨first, last, count, ?_⟩, outst,
      fun h2 => ?_, fun h2 hne => ?_, ?_, fun hn => ?_⟩
    · rw [replies, pendingReply, lastReply, epoch, a.asks.opcode]
      rfl
    · rw [recOut_take fun h => recForm_block none_ h] at mem
      have block : recOut r (readLines finds (takenUp s)) = sinceBytes s1 := by
        rw [hs1]
        exact if_pos h2
      rw [block] at mem
      refine mem fun nil => ?_
      have length := sinceBytes_length s1
      rw [nil] at length
      cases length
    · rw [recOut_take fun h => recForm_block none_ h] at mem
      have records : recOut r (readLines finds (takenUp s)) = (l.map recordBytes).flatten := by
        rw [hl, hs1]
        exact if_neg h2
      rw [records] at mem
      refine mem fun nil => hne ?_
      have length := records_length l
      rw [nil] at length
      have none_ : 0 = 2048 * l.length := length
      exact List.eq_nil_of_length_eq_zero (by omega)
    · rw [recd, hs1]
      rfl
    · rw [recd, hn, readLines_nil, takenUp_recd]
  case cfgRead =>
    have len : r.descLen = 65536 := descOwn_len rfl (Option.or_eq_none_iff.mp a.payload).1
    have body := cfgRead_replies (s := takenUp s) (finds := finds) (dma := dma)
      (a.epoch.trans (quiet_takenUp a.asks).host.symm) (by rw [hdma]) (by rw [hs1] at hc; exact hc)
    have does := scp_writesOut (c := .cfgRead ⟨dma, finds⟩) rfl a body (cfgBytes_ne_nil c) (by simp)
    rw [len] at does
    rw [hs1]
    exact does
  case cfgCommit =>
    have only := takenUp_only s
    have newest : newestCfg (takenUp s) = newestCfg s := newestCfg_fw (takenUp_fw s)
    have body : descRead r dma (fun b s => cfgCommit r b s) (takenUp s) = _ :=
      descRead_whole _ (a.epoch.trans (quiet_takenUp a.asks).host.symm) (by rw [hdma])
    have len : r.descLen = 65536 := descOwn_len rfl (Option.or_eq_none_iff.mp a.payload).1
    rw [hdma, len] at body
    have body := body.trans (cfgCommit_replies (commitFault_of_only only _ _ hf))
    rw [newest] at body
    rw [hdma]
    generalize hc : cfgOf (padTo 65536 b) = c at *
    refine scp_acts (ps := [.fw]) rfl a.asks a.form a.manager a.payload body (cfgWritten_only _ _) (by decide) (by simp)
      fun same only => ?_
    have fw : _ = (cfgWritten c (takenUp s)).fw := same .fw (by decide)
    refine ⟨(newestCfg_fw fw).trans ((cfgWritten_newest _ _).trans (by rw [newest])), ?_, only.mono (by decide)⟩
    rw [fw]
    rfl
  case link =>
    have body := descRead_link (r := r) (s := takenUp s) (fun b s => cfgCommit r b s) (b := b) (off := off)
      (a.epoch.trans (quiet_takenUp a.asks).host.symm)
    exact scp_replies rfl a.asks a.form a.manager a.payload body (quiet_takenUp a.asks) (by simp)
      (reply_only _ _ _ _ (takenUp_only s) (by decide))
  case epoch =>
    have body := descRead_epoch (r := r) (s := takenUp s) (fun b s => cfgCommit r b s) (b := b) (off := off)
      (release := release) (a.epoch.trans (quiet_takenUp a.asks).host.symm)
    have does := scp_epochMoves (c := .cfgCommit { bytes := b, failAt := some (.epoch off release) })
      (payload := [2, burstEnd off r.descLen])
      (body := fun r s => descRead r { bytes := b, failAt := some (.epoch off release) } (fun b s => cfgCommit r b s) s)
      rfl a body (Nat.le_of_ble_eq_true rfl)
    rw [a.asks.opcode] at does
    exact does
  case calRead =>
    have len : r.descLen = 65536 := descOwn_len rfl (Option.or_eq_none_iff.mp a.payload).1
    rw [hs1] at hc
    have body := calRead_replies (s := takenUp s) (finds := finds) (dma := dma)
      (a.epoch.trans (quiet_takenUp a.asks).host.symm) (by rw [hdma]) hc
    have does := scp_writesOut (c := .calRead ⟨dma, finds⟩) rfl a body (calBytes_ne_nil _) (by simp)
    rw [len] at does
    rw [hs1]
    exact does.imp fun t ⟨answers, mem, _, only⟩ => ⟨answers, mem, only⟩
  case calWrite =>
    have len : r.descLen = 65536 := descOwn_len rfl (Option.or_eq_none_iff.mp a.payload).1
    have open_ : (takenUp s).prot.calWe = true := by rw [takenUp_prot, hw]
    obtain ⟨calib, state, event⟩ := calWrite_keeps (padTo 65536 b) (takenUp s)
    rw [takenUp_fw] at calib
    rw [takenUp_recd] at event
    refine scp_acts (x := calWrite (padTo 65536 b) (takenUp s)) (payload := []) (ps := [.fw, .recd]) rfl a.asks a.form a.manager
      a.payload ?body (calWrite_only _ _ (only_refl _ _) (by decide)) (by decide) (Nat.zero_le 15) fun same only => ?_
    case body =>
      rw [open_]
      simp only [Bool.not_true, Bool.false_eq_true, if_false]
      refine (descRead_whole (dma := dma) _ (a.epoch.trans (quiet_takenUp a.asks).host.symm) (by rw [hdma])).trans ?_
      rw [len, hdma]
      dsimp only
      rw [hf]
      rfl
    have fw : _ = (calWrite (padTo 65536 b) (takenUp s)).fw := same .fw (by decide)
    have recd : _ = (calWrite (padTo 65536 b) (takenUp s)).recd := same .recd (by decide)
    exact ⟨by rw [fw, calib], by rw [fw, state], by rw [recd, event], only.mono (by decide)⟩

end Sys2Proof.Machine
end

section
/-! SUPPORT. Proposals and their confirmation: what an accepted proposal leaves pending, and what a confirmation does
with the right and with a wrong digest (R373 to R375, R381, R382). -/

namespace Sys2Proof.Machine

variable {s : State} {c : Change} {r : Posted} {p : Proposal} {cls : Nat} {by_ : Party}

/-! ### Proposals -/

/-- What the checks of R375 ask of a record that is proposed. -/
structure Proposable (s : State) (c : Change) : Prop where
  normal : s.fw.cellar = false
  sound : changeFault c = none
  free : pendingOf s c.cls = none
  key : keyRefusal s c = none
  balls : ballConflict s c = none
  random : s.prot.trngOk = true
  owned : s.prot.ownerKey.isSome = true
  plain : c.inject = false

theorem Proposable.of_only {t : State} (a : Proposable s c) (h : Only [.mbx, .emit] s t) : Proposable t c := by
  rw [h.eq_mbx_emit]
  exact ⟨a.normal, a.sound, a.free, a.key, a.balls, a.random, a.owned, a.plain⟩

/-- The proposal that a party makes. -/
def proposalOf (by_ : Party) (c : Change) (s : State) : Proposal :=
  { rec_ := c, nonce := (drawRandom s).1.setWidth 64,
    digest := digestOf c ((drawRandom s).1.setWidth 64) by_ (now (drawRandom s).2), proposer := by_,
    frame := now (drawRandom s).2, armed := clk (drawRandom s).2, fails := 0, key := none }

/-- The state in which a proposal is pending. -/
def proposed (by_ : Party) (c : Change) (s : State) : State :=
  updProt (fun t => { t with pending := tabSet t.pending c.cls (proposalOf by_ c s) }) (drawRandom s).2

/-- The payload of a proposal's final reply. -/
def proposalWords (c : Change) (p : Proposal) : List Nat :=
  [c.cls, p.nonce.toNat % 2 ^ 32, p.nonce.toNat / 2 ^ 32] ++ digestWords p.digest

theorem proposalWords_length (c : Change) (p : Proposal) : (proposalWords c p).length = 15 := by
  simp [proposalWords, digestWords]

theorem propose_accepted (a : Asker) (h : Proposable s c) : propose a by_ c none s =
    askFinal a 0x00 (proposalWords c (proposalOf by_ c (askPending a s))) (proposed by_ c (askPending a s)) := by
  have unowned : s.prot.ownerKey.isNone = false := by simpa using h.owned
  unfold propose
  simp only [expireProposal_none h.free, h.normal, unowned, h.sound, h.free, h.key, h.balls, h.random, h.plain,
    Bool.false_eq_true, if_false, false_and, Option.or_none, Option.isSome_none, Bool.not_true]
  rfl

theorem pendingOf_proposed (by_ : Party) (c : Change) (s : State) :
    pendingOf (proposed by_ c s) c.cls = some (proposalOf by_ c s) ∧
      ∀ k, k ≠ c.cls → pendingOf (proposed by_ c s) k = pendingOf s k :=
  ⟨tabGet_set_self _ _ _, fun _ hk => tabGet_set_ne _ _ hk⟩

theorem proposed_only (by_ : Party) (c : Change) (s : State) : Only [.prot] s (proposed by_ c s) :=
  updProt_only _ _ (drawRandom_only (only_refl _ _) (by decide)) (by decide)

/-! ### A final reply that finds no room -/

/-- A reply that does not fit into the device→host queue leaves its words alone. -/
theorem postReply_noRoom {ws : List Word} (h : 16 < s.mbx.inQ.length + ws.length) :
    (postReply ws s).mbx.inQ = s.mbx.inQ := by
  unfold postReply
  dsimp only
  rw [if_neg fun k => absurd k.1 (Nat.not_le.mpr h)]
  split
  · have e := congrArg (fun m : MbxSt => m.inQ) (steady_toRing { words := ws, epoch := s.mbx.devEpoch } s)
    exact e
  · rfl

/-- A final reply of sixteen words finds no room behind its PENDING. -/
theorem pendingThenLong_inQ {x y : State} {st : Nat} {payload : List Nat} (q : Quiet s x) (hd : tagDup x r = false)
    (hy : y.mbx = (replyPending r x).mbx) (hl : payload.length = 15) :
    (finalReply r.tag r.opcode st payload y).mbx.inQ = inWords (pendingReply s r) := by
  have noted : y.mbx.outst = x.mbx.outst ++ [outstOf r] := by rw [hy, replyPending_outst]
  have inQ : y.mbx.inQ = inWords (pendingReply s r) := by
    have k := congrArg (fun m : MbxSt => m.inQ) ((congrArg evMbx hy).trans (replyPending_evMbx q))
    exact k
  unfold finalReply
  rw [find_outstOf hd noted]
  refine (postReply_noRoom ?_).trans inQ
  change 16 < y.mbx.inQ.length + _
  rw [inQ, inWords_length]
  simp [pendingReply, hl]

/-! ### The manager's and the owner's proposals -/

theorem managerProposes {dma : Dma} (h : Proposable s c) (a : Asks s 0x20 r)
    (hf : formFault r { lens := [4], desc := some (false, [64]), mgr := true } = none)
    (ho : descOwn r { lens := [4], desc := some (false, [64]), mgr := true } = none) (hm : holder s 0 = r.agent)
    (he : r.epoch = s.mbx.hostEpoch) (hd : dma.failAt = none) (hc : c = changeOf (padTo 64 dma.bytes)) :
    Does (.protPropose (.scp dma)) s fun t =>
      (∃ p, pendingOf t c.cls = some p ∧ p.rec_ = c ∧ p.proposer = .manager ∧ p.frame = s.frame.counter ∧
        p.armed = s.frame.elapsed ∧ p.fails = 0 ∧ p.key = none ∧
        p.digest = digestOf c p.nonce .manager s.frame.counter) ∧
      (∀ k, k ≠ c.cls → pendingOf t k = pendingOf s k) ∧ t.mbx.outQ = [] ∧ t.mbx.outst = s.mbx.outst ∧
      t.mbx.inQ = inWords (pendingReply s r) ∧ Only [.mbx, .prot, .emit] s t := by
  have quiet := quiet_takenUp a
  have len : r.descLen = 64 := descOwn_len rfl ho
  have accepted := propose_accepted (by_ := .manager) (.scp r) (h.of_only (takenUp_only s))
  have body : descRead r dma (fun b s => propose (.scp r) .manager (changeOf b) none s) (takenUp s) =
      finalReply r.tag r.opcode 0x00 (proposalWords c (proposalOf .manager c (replyPending r (takenUp s))))
        (proposed .manager c (replyPending r (takenUp s))) := by
    refine (descRead_whole _ (he.trans quiet.host.symm) hd).trans ?_
    rw [len, ← hc]
    exact accepted
  have made := proposed_only .manager c (replyPending r (takenUp s))
  obtain ⟨pending, others⟩ := pendingOf_proposed .manager c (replyPending r (takenUp s))
  have before : ∀ k, pendingOf (replyPending r (takenUp s)) k = pendingOf s k :=
    pendingOf_only ((takenUp_only s).trans (replyPending_rest r _)) (by decide)
  have kept : ∀ k, pendingOf (finalReply r.tag r.opcode 0x00
      (proposalWords c (proposalOf .manager c (replyPending r (takenUp s))))
      (proposed .manager c (replyPending r (takenUp s)))) k =
      pendingOf (proposed .manager c (replyPending r (takenUp s))) k :=
    pendingOf_only (finalReply_only _ _ _ _ _ (only_refl [.mbx, .emit] _) (by decide)) (by decide)
  have frame : (replyPending r (takenUp s)).frame = s.frame :=
    ((takenUp_only s).trans (replyPending_rest r _)).same .frame (by decide)
  have counter : now (drawRandom (replyPending r (takenUp s))).2 = s.frame.counter := congrArg FrameSt.counter frame
  have elapsed : clk (drawRandom (replyPending r (takenUp s))).2 = s.frame.elapsed := congrArg FrameSt.elapsed frame
  have does := scp_pends_then_ends (c := .protPropose (.scp dma)) (ps := [.prot]) rfl a hf (fun _ => hm)
    (by rw [ho]; rfl) body (only_refl _ _) made (by decide) (q := fun t =>
      t.mbx.inQ = inWords (pendingReply s r) ∧
      (∃ p, pendingOf t c.cls = some p ∧ p.rec_ = c ∧ p.proposer = .manager ∧ p.frame = s.frame.counter ∧
        p.armed = s.frame.elapsed ∧ p.fails = 0 ∧ p.key = none ∧
        p.digest = digestOf c p.nonce .manager s.frame.counter) ∧
      (∀ k, k ≠ c.cls → pendingOf t k = pendingOf s k) ∧ Only [.mbx, .prot, .emit] s t) fun only => ⟨
    pendingThenLong_inQ quiet (tagDup_takenUp a) (made.same .mbx (by decide)) (proposalWords_length _ _),
    ⟨_, (kept _).trans pending, rfl, rfl, counter, elapsed, rfl, rfl, by rw [proposalOf, counter]⟩,
    fun k hk => (kept k).trans ((others k hk).trans (before k)), only.mono (by decide)⟩
  exact does.imp fun t ⟨outst, outQ, inQ, made, others, only⟩ => ⟨made, others, outQ, outst, inQ, only⟩

theorem ownerProposes {l : Sideband} {b : List Byte} (h : Proposable s c) (a : OwnerHeard s l) (hc : c = changeOf b)
    (hl : b.length = 64) (hf : managerFirst s = false) :
    exec (.protPropose (.owner l b)) s = .next (ownerLater 0x00
      (proposalWords c (proposalOf .owner c (send (.spdmError 0x42) { s with emit := [] })))
      (proposed .owner c (send (.spdmError 0x42) { s with emit := [] }))) := by
  have first : managerFirst { s with emit := [] } = false := hf
  refine (ownerRow_next rfl a).trans (congrArg Host.Outcome.next ?_)
  have accepted := propose_accepted (by_ := .owner) .owner (h.of_only ((emptied_only s).mono (by decide)))
  have plain := h.plain
  rw [hc] at plain accepted ⊢
  simp only [first, hl, plain, Bool.false_eq_true, if_false, ne_eq, not_true_eq_false]
  exact accepted

/-! ### Confirmations -/

theorem confirm_scp (o : TwoPartyOpen s cls) (k : PendingInTime s cls p) (hb : p.proposer ≠ by_) :
    confirm (.scp r) by_ cls p.digest s =
      acceptConfirm cls p by_ (some r.tag) (replyPending r (noteTie p.armed (2 ^ 27) s)) := by
  simp only [confirm, expireProposal_inTime k, o.normal, o.registered, o.known, k.pending, hb, Bool.false_eq_true,
    if_false, ne_eq, not_true_eq_false]
  rfl

theorem confirm_owner (o : TwoPartyOpen s cls) (k : PendingInTime s cls p) (hb : p.proposer ≠ by_) :
    confirm .owner by_ cls p.digest s =
      acceptConfirm cls p by_ none (send (.spdmError 0x42) (noteTie p.armed (2 ^ 27) s)) := by
  simp only [confirm, expireProposal_inTime k, o.normal, o.registered, o.known, k.pending, hb, Bool.false_eq_true,
    if_false, ne_eq, not_true_eq_false]
  rfl

/-- A wrong digest is answered AUTH and counted. -/
theorem confirm_wrong (a : Asker) {d : BitVec 384} (o : TwoPartyOpen s cls) (k : PendingInTime s cls p)
    (hb : p.proposer ≠ by_) (hd : d ≠ p.digest) : confirm a by_ cls d s = askAuth a (authFail cls p s) := by
  simp only [confirm, expireProposal_inTime k, o.normal, o.registered, o.known, k.pending, hb, hd, Bool.false_eq_true,
    if_false, if_true, ne_eq, not_false_eq_true]

theorem authFail_counts (cls : Nat) (p : Proposal) (s : State) :
    (p.fails < 2 → pendingOf (authFail cls p s) cls = some { p with fails := p.fails + 1 }) ∧
    (2 ≤ p.fails → pendingOf (authFail cls p s) cls = none ∧
      tabGetD (authFail cls p s).prot.outcomes cls .none = .discarded) ∧
    (authFail cls p s).prot.confirmed = s.prot.confirmed := by
  unfold authFail
  split
  · rename_i third
    have ended := endProposal_ends (s := s) (cls := cls) .discarded
    exact ⟨fun h => absurd third (Nat.not_le.mpr h), fun _ => ⟨ended.gone, ended.outcome⟩, rfl⟩
  · rename_i early
    exact ⟨fun _ => tabGet_set_self _ _ _, fun h => absurd h early, rfl⟩

theorem managerConfirms {dma : Dma} (a : Asks s 0x21 r) (hf : formFault r (Form.plain [13] true [(0, 0xFFFFFF00)]) = none)
    (hm : holder s 0 = r.agent) (o : TwoPartyOpen s (r.pw 0)) (k : PendingInTime s (r.pw 0) p) (hb : p.proposer = .owner)
    (hd : digestAt r.pw 1 = p.digest) : Does (.protConfirm (.scp dma)) s fun t => Answers s t r 0x09 [] ∧
      pendingOf t (r.pw 0) = none ∧
      t.prot.confirmed = s.prot.confirmed ++ [{ prop := p, written := true, by_ := .manager, tag := some r.tag }] ∧
      Only [.frame, .mbx, .prot, .emit] s t := by
  have other : p.proposer ≠ .manager := by simp [hb]
  have body := confirm_scp (r := r) (takenUp_twoPartyOpen o) (takenUp_pendingInTime k) other
  rw [← hd] at body
  have tied : Only [.frame, .prot] (takenUp s) (noteTie p.armed (2 ^ 27) (takenUp s)) :=
    noteTie_only _ _ _ (only_refl _ _) (by decide)
  refine scp_pends (ps := [.frame, .prot]) rfl a hf (fun _ => hm) rfl body tied
    (updProt_only _ _ (only_refl _ _) (by decide)) (by decide) fun only => ?_
  refine ⟨pendingOf_acceptConfirm _ _, ?_, only.mono (by decide)⟩
  have prot : (replyPending r (noteTie p.armed (2 ^ 27) (takenUp s))).prot = s.prot := by
    have h : Only [.frame, .mbx, .emit] s (replyPending r (noteTie p.armed (2 ^ 27) (takenUp s))) :=
      replyPending_only _ _ (noteTie_only _ _ _ ((takenUp_only s).mono (by decide)) (by decide)) (by decide)
    exact h.same .prot (by decide)
  change (replyPending r (noteTie p.armed (2 ^ 27) (takenUp s))).prot.confirmed ++ _ = _
  rw [prot]

theorem managerFails {dma : Dma} (a : Asks s 0x21 r) (hf : formFault r (Form.plain [13] true [(0, 0xFFFFFF00)]) = none)
    (hm : holder s 0 = r.agent) (o : TwoPartyOpen s (r.pw 0)) (k : PendingInTime s (r.pw 0) p) (hb : p.proposer = .owner)
    (hd : digestAt r.pw 1 ≠ p.digest) : Does (.protConfirm (.scp dma)) s fun t => Answers s t r 0x06 [] ∧
      (p.fails < 2 → pendingOf t (r.pw 0) = some { p with fails := p.fails + 1 }) ∧
      (2 ≤ p.fails → pendingOf t (r.pw 0) = none ∧ tabGetD t.prot.outcomes (r.pw 0) .none = .discarded) ∧
      t.prot.confirmed = s.prot.confirmed ∧ Only [.mbx, .prot, .emit] s t := by
  have other : p.proposer ≠ .manager := by simp [hb]
  have body := confirm_wrong (.scp r) (takenUp_twoPartyOpen o) (takenUp_pendingInTime k) other hd
  refine scp_acts (ps := [.prot]) rfl a hf (fun _ => hm) rfl body (authFail_only _ _ _ (only_refl _ _) (by decide))
    (by decide) (by simp) fun same only => ?_
  obtain ⟨counted, discarded, confirmed⟩ := authFail_counts (r.pw 0) p (takenUp s)
  have prot : _ = (authFail (r.pw 0) p (takenUp s)).prot := same .prot (by decide)
  unfold pendingOf at counted discarded ⊢
  rw [prot]
  refine ⟨counted, discarded, ?_, only.mono (by decide)⟩
  rw [confirmed, takenUp_prot]

theorem ownerConfirms {l : Sideband} {b : List Byte} (a : OwnerHeard s l) (hl : b.length = 52)
    (o : TwoPartyOpen s (fieldAt b 0 4)) (k : PendingInTime s (fieldAt b 0 4) p) (hb : p.proposer = .manager)
    (hd : BitVec.ofNat 384 (fieldAt b 4 48) = p.digest) : Does (.protConfirm (.owner l b)) s fun t =>
      t.emit = [.spdmError 0x42] ∧ pendingOf t (fieldAt b 0 4) = none ∧
      t.prot.confirmed = s.prot.confirmed ++ [{ prop := p, written := true, by_ := .owner, tag := none }] ∧
      Only [.frame, .prot, .emit] s t := by
  have other : p.proposer ≠ .owner := by simp [hb]
  have performed := confirm_owner (by_ := .owner) o.act k.act other
  rw [← hd] at performed
  obtain ⟨_, _, emit⟩ := noteTie_shelf p.armed (2 ^ 27) { s with emit := [] }
  have tied : Only [.frame, .emit] s (noteTie p.armed (2 ^ 27) { s with emit := [] }) :=
    noteTie_only _ _ _ ((emptied_only s).mono (by decide)) (by decide)
  have prot : (noteTie p.armed (2 ^ 27) { s with emit := [] }).prot = s.prot := tied.same .prot (by decide)
  refine ⟨_, (protConfirm_owner a hl rfl o.last).trans (congrArg Host.Outcome.next performed), ?_,
    pendingOf_acceptConfirm _ _, ?_, ?_⟩
  · change (noteTie p.armed (2 ^ 27) { s with emit := [] }).emit ++ _ = _
    rw [emit]
    rfl
  · change (noteTie p.armed (2 ^ 27) { s with emit := [] }).prot.confirmed ++ _ = _
    rw [prot]
  · exact updProt_only _ _ ((tied.trans (only_emit _ (only_refl _ _) (by decide))).mono (by decide)) (by decide)

/-- Settles O22: a record that passes every check becomes pending, and what the other party's confirmation does. -/
theorem proposalsAreHeldAndConfirmed : Obligations.ProposalsAreHeldAndConfirmed := by
  unfold Obligations.ProposalsAreHeldAndConfirmed
  refine ⟨fun s c hc hp hk hb ht ho => ⟨fun r dma a hf hown hm he hd hrec hi => ?manager,
      fun l b a hrec hl hi hfirst => ?owner⟩,
    fun s p ho ht => ⟨fun r dma a hf hm h1 h6 hp hb => ⟨fun hd => ?confirms, fun hd => ?fails⟩,
      fun l b a hl h1 h6 hp hb hd => ?ownerConfirms⟩⟩
  case manager =>
    have does := managerProposes ⟨a.normal, hc, hp, hk, hb, ht, ho, hi⟩ a hf hown hm he hd hrec
    have fresh : decide (r.epoch ≠ s.mbx.hostEpoch) = false := decide_eq_false (fun h => h he)
    unfold pendingReply at does
    rw [fresh, a.opcode] at does
    exact does
  case owner =>
    have next := ownerProposes ⟨a.normal, hc, hp, hk, hb, ht, ho, hi⟩ a hrec hl hfirst
    obtain ⟨pending, others⟩ := pendingOf_proposed .owner c (send (.spdmError 0x42) { s with emit := [] })
    refine ⟨_, next, ⟨_, pending, rfl, rfl, rfl, rfl, rfl, rfl, rfl, rfl⟩, others, rfl, ?_⟩
    exact updProt_only _ _ (((emptied_only s).trans (only_emit _ (only_refl _ _) (by decide))).mono (by decide) |>.trans
      ((proposed_only _ _ _).mono (by decide))) (by decide)
  case confirms => exact managerConfirms a hf hm ⟨a.normal, ho, h1, h6⟩ ⟨hp, ht⟩ hb hd
  case fails => exact managerFails a hf hm ⟨a.normal, ho, h1, h6⟩ ⟨hp, ht⟩ hb hd
  case ownerConfirms => exact ownerConfirms a hl ⟨a.normal, ho, h1, h6⟩ ⟨hp, ht⟩ hb hd

end Sys2Proof.Machine
end

section
/-! SUPPORT. The owner's claim and release, and the sessions on the sideband links (R369 to R371, R378). -/

namespace Sys2Proof.Machine

variable {s : State} {l : Sideband}

/-! ### The claim -/

theorem claimBegin_draws (hc : s.fw.cellar = false) (ho : s.prot.ownerKey = none) (ht : s.prot.trngOk = true) :
    claimBegin s = send (.owner 0x00 (bvBytes ((drawRandom s).1.setWidth 256))) (updProt (fun t => { t with
      claim := some { nonce := (drawRandom s).1.setWidth 256, frame := clk (drawRandom s).2 } }) (drawRandom s).2) := by
  unfold claimBegin
  simp only [hc, ho, ht, Bool.false_eq_true, if_false, Option.isSome_none, Bool.not_true]

/-- A claim request in a session reaches its own meaning. -/
theorem ownerClaimRow_heard {c : Instr} {body : State → State} {x : Session}
    (hc : exec c s = act (ownerClaimRow l body) s) (ho : ownerOpen s = true) (hx : sessionOn s l = some x) :
    exec c s = .next (body { s with emit := [] }) := by
  have open_ : ownerOpen { s with emit := [] } = true := ho
  have session : sessionOn { s with emit := [] } l = some x := hx
  refine hc.trans (congrArg Host.Outcome.next ?_)
  unfold ownerClaimRow
  simp only [open_, session, Bool.not_true, Bool.false_eq_true, if_false]

theorem ownerWakes_awake (body : State → State) (hg : gated s = false) (he : s.power.entry = none) :
    ownerWakes body s = body s := by
  simp [ownerWakes, hg, wake_awake hg he]

theorem expireClaim_inTime {k : Claim} (hk : s.prot.claim = some k) (ht : s.frame.elapsed ≤ k.frame + 2 ^ 27) :
    expireClaim s = s := by
  have waits : fired k.frame (2 ^ 27) (clk s) = false := decide_eq_false (Nat.not_lt.mpr ht)
  simp only [expireClaim, hk, waits, Bool.false_eq_true, if_false]

/-- The device with the strap's level as it is in this frame. -/
def withStrap (strap : Bool) (s : State) : State := { s with pins := { s.pins with ownerClaim := strap } }

theorem claimFinish_registers {k : Claim} {key : BitVec 768} (hc : s.fw.cellar = false) (ho : s.prot.ownerKey = none)
    (hk : s.prot.claim = some k) (ht : s.frame.elapsed ≤ k.frame + 2 ^ 27) (hv : validPoint key = true) :
    claimFinish true key true s = ownerReply 0x00 [] (updProt (fun t => { t with ownerKey := some key, seq := t.seq + 1 })
      (updProt (fun t => { t with claim := none }) (noteTie k.frame (2 ^ 27) (withStrap true s)))) := by
  have kept : expireClaim { s with pins := { s.pins with ownerClaim := true } } = withStrap true s :=
    expireClaim_inTime hk ht
  have claim : (withStrap true s).prot.claim = some k := hk
  have normal : (withStrap true s).fw.cellar = false := hc
  have unowned : (withStrap true s).prot.ownerKey = none := ho
  have strap : (withStrap true s).pins.ownerClaim = true := rfl
  unfold claimFinish
  simp only [kept, claim, normal, unowned, strap, hv, Bool.false_eq_true, if_false, Option.isSome_none, Option.isNone_some,
    Bool.not_true]
  rfl

/-! ### The release -/

/-- Ending proposals changes what is pending and the outcomes alone, and leaves none of the classes. -/
theorem endProposals_pending (l : List Nat) (o : Outc) (s : State) : ∃ p u,
    forEach l (fun c s => endProposal c o s) s = { s with prot := { s.prot with pending := p, outcomes := u } } ∧
      ∀ q ∈ p, q ∈ s.prot.pending ∧ q.1 ∉ l := by
  induction l generalizing s with
  | nil => exact ⟨s.prot.pending, s.prot.outcomes, rfl, fun q hq => ⟨hq, List.not_mem_nil⟩⟩
  | cons c l ih =>
    obtain ⟨p, u, e, left⟩ := ih (endProposal c o s)
    refine ⟨p, u, e, fun q hq => ?_⟩
    obtain ⟨old, other⟩ := left q hq
    obtain ⟨before, ne⟩ := mem_tabDel old
    exact ⟨before, by simp [ne, other]⟩

theorem discardProposals_empties (s : State) :
    ∃ u, discardProposals s = { s with prot := { s.prot with pending := [], outcomes := u } } := by
  obtain ⟨p, u, e, left⟩ := endProposals_pending (s.prot.pending.map (·.1)) .discarded s
  have none_ : p = [] := List.eq_nil_iff_forall_not_mem.mpr fun q hq =>
    (left q hq).2 (List.mem_map.mpr ⟨q, (left q hq).1, rfl⟩)
  exact ⟨u, by rw [← none_]; exact e⟩

theorem releaseOwner_releases (hc : s.fw.cellar = false) (ho : s.prot.ownerKey.isSome = true) :
    releaseOwner s =
      ownerReply 0x00 [] (updProt (fun t => { t with ownerKey := none, seq := t.seq + 1 }) (discardProposals s)) := by
  have owned : s.prot.ownerKey.isNone = false := by simpa using ho
  unfold releaseOwner
  simp only [hc, owned, Bool.false_eq_true, if_false]
  rfl

/-! ### Sessions -/

theorem endSession_leaves (l : Sideband) (s : State) : endSession l s = { s with prot := { s.prot with
    sessions := s.prot.sessions.filter fun x => decide (x.link ≠ l)
    replies := if (s.prot.sessions.filter fun x => decide (x.link ≠ l)) = [] then [] else s.prot.replies } } := by
  unfold endSession updProt
  simp only [List.isEmpty_iff]

section messages

variable (ho : ownerOpen s = true)

include ho

theorem spdmMessage_establish (auth : Bool) : spdmMessage (.establish l auth) s = updProt (fun t => { t with
    sessions := t.sessions ++ [{ link := l, mutualAuth := auth && s.prot.ownerKey.isSome }] }) (endSession l s) := by
  unfold spdmMessage
  simp only [ho, Bool.not_true, Bool.false_eq_true, if_false]

theorem spdmMessage_finish : spdmMessage (.finish l) s = endSession l s := by
  unfold spdmMessage
  simp only [ho, Bool.not_true, Bool.false_eq_true, if_false]

theorem spdmMessage_request (op : Nat) (hx : sessionOn s l = none) :
    spdmMessage (.request l op) s = send (.spdmError 0x07) s := by
  unfold spdmMessage ownerRequest
  simp only [ho, hx, Bool.not_true, Bool.false_eq_true, if_false]
  rfl

theorem spdmMessage_respond {x : Session} (hx : sessionOn s l = some x) (ha : x.mutualAuth = true) :
    spdmMessage (.respondIfReady l) s = ownerCollect s := by
  unfold spdmMessage
  simp only [ho, hx, ha, Bool.not_true, Bool.false_eq_true, if_false, if_true]

end messages

theorem ownerCollect_none (h : s.prot.replies = []) : ownerCollect s = send (.spdmError 0x42) s := by
  unfold ownerCollect
  rw [h]

theorem ownerCollect_oldest {st : Nat} {w : List Nat} {rest : List (Nat × List Nat)} (h : s.prot.replies = (st, w) :: rest) :
    ownerCollect s = ownerReply st w (updProt (fun t => { t with replies := rest }) s) := by
  unfold ownerCollect
  rw [h]

/-- Settles O25: the claim's two requests and the release, and what each message of SPDM makes of the sessions. -/
theorem ownerAndItsSessions : Obligations.OwnerAndItsSessions := by
  unfold Obligations.OwnerAndItsSessions
  refine ⟨fun s l ho hg he hc => ⟨fun x hx hk ht => ?begin_, fun x k key hx hk hcl ht hv => ?finish_,
    fun a hk => ?release⟩, fun s l left r hl hr => ?sessions⟩
  case begin_ =>
    have e := claimBegin_draws (s := { s with emit := [] }) hc hk ht
    refine ⟨_, (ownerClaimRow_heard rfl ho hx).trans (congrArg Host.Outcome.next e), ⟨_, rfl, rfl⟩, hk, ?_⟩
    exact (updProt_only _ _ (drawRandom_only ((emptied_only s).mono (by decide)) (by decide)) (by decide) :
      Only [.prot, .emit] s _).trans (only_emit _ (only_refl _ _) (by decide))
  case finish_ =>
    have e := claimFinish_registers (s := { s with emit := [] }) hc hk hcl ht hv
    have awake := ownerWakes_awake (s := { s with emit := [] }) (claimFinish true key true) hg he
    have tied : Only [.frame] (withStrap true { s with emit := [] })
        (noteTie k.frame (2 ^ 27) (withStrap true { s with emit := [] })) :=
      noteTie_only _ _ _ (only_refl _ _) (by decide)
    have up : Only [.frame, .prot, .pins, .emit] s (withStrap true { s with emit := [] }) :=
      ((emptied_only s).mono (by decide)).trans (only_pins _ (only_refl _ _) (by decide))
    have prot : (noteTie k.frame (2 ^ 27) (withStrap true { s with emit := [] })).prot = s.prot :=
      tied.same .prot (by decide)
    have emit : (noteTie k.frame (2 ^ 27) (withStrap true { s with emit := [] })).emit = [] :=
      tied.same .emit (by decide)
    generalize noteTie k.frame (2 ^ 27) (withStrap true { s with emit := [] }) = x at e tied prot emit
    refine ⟨_, (ownerClaimRow_heard rfl ho hx).trans (congrArg Host.Outcome.next (awake.trans e)), ?_, ?_, ?_⟩
    · change { x.prot with claim := none, ownerKey := some key, seq := x.prot.seq + 1 } = _
      rw [prot]
    · change x.emit ++ _ = _
      rw [emit]
      rfl
    · exact ownerReply_only _ _ _ (updProt_only _ _ (updProt_only _ _ (up.trans (tied.mono (by decide))) (by decide))
        (by decide)) (by decide)
  case release =>
    have e := releaseOwner_releases (s := { s with emit := [] }) hc hk
    obtain ⟨u, gone⟩ := discardProposals_empties { s with emit := [] }
    rw [gone] at e
    refine ⟨_, (ownerRow_next rfl a).trans (congrArg Host.Outcome.next e), rfl, rfl, rfl, rfl, ?_⟩
    exact ownerReply_only _ _ _ (updProt_only _ _ (only_prot _ ((emptied_only s).mono (by decide)) (by decide))
      (by decide)) (by decide)
  case sessions =>
    have ended : endSession l { s with emit := [] } =
        { s with prot := { s.prot with sessions := left, replies := r }, emit := [] } := by
      rw [endSession_leaves, hr, hl]
    refine ⟨fun auth ho => congrArg Host.Outcome.next ?establish, fun ho => congrArg Host.Outcome.next ?finish,
      fun op ho hx => congrArg Host.Outcome.next ?request, fun x ho hx ha =>
      ⟨fun hn => congrArg Host.Outcome.next ?none_, fun st w rest hw => ?collect⟩, congrArg Host.Outcome.next ended⟩
    case establish =>
      rw [spdmMessage_establish (s := { s with emit := [] }) ho auth, ended]
      rfl
    case finish => exact (spdmMessage_finish (s := { s with emit := [] }) ho).trans ended
    case request => exact spdmMessage_request (s := { s with emit := [] }) ho op hx
    case none_ =>
      exact (spdmMessage_respond (s := { s with emit := [] }) ho hx ha).trans (ownerCollect_none hn)
    case collect =>
      have e := (spdmMessage_respond (s := { s with emit := [] }) ho hx ha).trans (ownerCollect_oldest hw)
      refine ⟨_, congrArg Host.Outcome.next e, rfl, rfl, ?_⟩
      exact ownerReply_only _ _ _ (updProt_only _ _ ((emptied_only s).mono (by decide)) (by decide)) (by decide)

end Sys2Proof.Machine
end

section
/-! SUPPORT. What the completion of a command leaves of the tag table, of the instances and of a function's fetch, and
what closing and rolling back a function's zones leave of them (R123, R136, R350). -/

namespace Sys2Proof.Machine

variable {s t u : State}

/-! ### The tag table -/

/-- Every command of `t` stands in `s` under the same number and identifier, and an outcome latched there is latched
still. -/
def ItemsFrom (s t : State) : Prop :=
  ∀ it ∈ t.host.items, ∃ k ∈ s.host.items, it.seq = k.seq ∧ it.id = k.id ∧ (k.outcome ≠ none → it.outcome ≠ none)

theorem itemsFrom_refl (s : State) : ItemsFrom s s := fun it h => ⟨it, h, rfl, rfl, id⟩

theorem ItemsFrom.trans (h : ItemsFrom s t) (k : ItemsFrom t u) : ItemsFrom s u := by
  intro it hit
  obtain ⟨m, hm, seq, ident, out⟩ := k it hit
  obtain ⟨o, ho, seq', ident', out'⟩ := h m hm
  exact ⟨o, ho, seq.trans seq', ident.trans ident', fun x => out (out' x)⟩

theorem itemsFrom_of_items (h : t.host.items = s.host.items) : ItemsFrom s t := by
  intro it hit
  exact ⟨it, h ▸ hit, rfl, rfl, id⟩

theorem itemsFrom_of_host (h : t.host = s.host) : ItemsFrom s t := itemsFrom_of_items (by rw [h])

theorem itemsFrom_forEach {α : Type} (l : List α) {f : α → State → State} (hf : ∀ a x, ItemsFrom x (f a x)) (s : State) :
    ItemsFrom s (forEach l f s) := by
  induction l generalizing s with
  | nil => exact itemsFrom_refl s
  | cons a l ih => exact (hf a s).trans (ih (f a s))

theorem itemsFrom_latch (n : Nat) (st : Status) (dw0 dw1 : Word) (s : State) : ItemsFrom s (latch n st dw0 dw1 s) := by
  intro it hit
  obtain ⟨k, hk, e⟩ := List.mem_map.mp hit
  refine ⟨k, hk, ?_⟩
  rw [← e]
  by_cases hs : k.seq = n
  · cases ho : k.outcome <;> simp [hs, ho]
  · simp [hs]

/-- A latched command has an outcome. -/
theorem latch_outcome (n : Nat) (st : Status) (dw0 dw1 : Word) (s : State) :
    ∀ it ∈ (latch n st dw0 dw1 s).host.items, it.seq = n → it.outcome ≠ none := by
  intro it hit hn
  obtain ⟨k, hk, e⟩ := List.mem_map.mp hit
  by_cases hs : k.seq = n
  · rw [← e]
    cases ho : k.outcome <;> simp [hs, ho]
  · rw [if_neg hs] at e
    exact absurd (e ▸ hn) hs

theorem itemsFrom_postItem (n : Nat) (s : State) : ItemsFrom s (postItem n s) := by
  unfold postItem
  split
  · exact itemsFrom_refl s
  · split
    · exact itemsFrom_refl s
    · rename_i it _
      split
      · exact itemsFrom_refl s
      · rename_i st _
        have dropped : ItemsFrom s (dropItem n s) := fun k hk => ⟨k, (List.mem_filter.mp hk).1, rfl, rfl, id⟩
        have erred : (when st.failed (updCtl it.id.fn (addErr it st)) (dropItem n s)).host.items = (dropItem n s).host.items := by
          unfold when
          split <;> rfl
        have counted : ∀ x, (when it.io (countPosted it) x).host.items = x.host.items := fun x => by
          unfold when
          split
          · exact items_countPosted it x
          · rfl
        dsimp only
        split
        · exact dropped
        · split
          · refine dropped.trans (itemsFrom_of_items ?_)
            rw [counted, items_stampSq, erred]
          · refine dropped.trans (itemsFrom_of_items ?_)
            rw [items_postCqe, counted, items_stampSq, erred]

theorem itemsFrom_finishBad (n : Nat) (st : Status) (s : State) : ItemsFrom s (finishBad n st s) :=
  (itemsFrom_latch _ _ _ _ _).trans (itemsFrom_postItem _ _)

/-! ### Instances -/

/-- What the counts of the holders leave of the instances. -/
def instBut (s : State) : InstSt := { s.inst with holders := [] }

theorem instBut_of_inst (h : t.inst = s.inst) : instBut t = instBut s := by
  unfold instBut
  rw [h]

theorem instBut_countPosted (it : Item) (s : State) : instBut (countPosted it s) = instBut s := by
  have hist : ∀ (k n : Nat) (b : Bool) (x : State), instBut (when b (recHist k n) x) = instBut x := fun k n b x =>
    instBut_of_inst ((only_when (ps := [.recd]) _ _ (only_refl _ x) fun _ h => recHist_only _ _ _ h (by decide)).same
      .inst (by decide))
  have tie : ∀ (b : Bool) (x : State), instBut (when b (fun s => { s with frame := { s.frame with ties := s.frame.ties + 1 } }) x) =
      instBut x := fun b x => by
    unfold when
    split <;> rfl
  unfold countPosted
  dsimp only
  rw [tie]
  exact (hist _ _ _ _).trans (hist _ _ _ _)

theorem instBut_postItem (n : Nat) (s : State) : instBut (postItem n s) = instBut s := by
  have host : ∀ {x y : State}, Only [.host, .emit] x y → instBut y = instBut x := fun h =>
    instBut_of_inst (h.same .inst (by decide))
  unfold postItem
  split
  · rfl
  · split
    · rfl
    · rename_i it _
      split
      · rfl
      · rename_i st _
        dsimp only
        have stamped : instBut (stampSq it (when st.failed (updCtl it.id.fn (addErr it st)) (dropItem n s))) = instBut s :=
          host (stampSq_only _ _ (only_when _ _ (dropItem_only _ _ (only_refl _ _) (by decide)) fun _ h =>
            updCtl_only _ _ _ h (by decide)) (by decide))
        have counted : ∀ x, instBut (when it.io (countPosted it) x) = instBut x := fun x => by
          unfold when
          split
          · exact instBut_countPosted it x
          · rfl
        split
        · rfl
        · split
          · exact (counted _).trans stamped
          · exact (host (postCqe_only _ _ _ _ (only_refl _ _) (by decide))).trans ((counted _).trans stamped)

theorem instBut_finishBad (n : Nat) (st : Status) (s : State) : instBut (finishBad n st s) = instBut s :=
  instBut_postItem n (latch n st 0 0 s)

/-! ### A function's fetch -/

/-- The functions whose fetch is paused. -/
def paused (s : State) : Nat → Option Bool := fun fn => (ctlOf s fn).map fun c => c.fetchPaused

theorem paused_of_ctls (h : t.host.ctls = s.host.ctls) : paused t = paused s := by
  unfold paused ctlOf
  rw [h]

theorem paused_updCtl (fn : Nat) {f : Ctl → Ctl} (hf : ∀ c, (f c).fetchPaused = c.fetchPaused) (s : State) :
    paused (updCtl fn f s) = paused s := by
  exact tabGet_upd_map s.host.ctls fn (fun c : Ctl => c.fetchPaused) hf

theorem paused_of_kept (h : CtlsKept s t) : paused t = paused s := by
  funext fn
  have e := congrArg (Option.map fun c => c.1.fetchPaused) (h.core fn)
  simp only [Option.map_map] at e
  exact e

/-! ### Zones that are closed and rolled back -/

/-- What the moves of zones leave of the host's state: the tag table, and the functions whose fetch is paused. -/
def besideMoves (s : State) : List Item × (Nat → Option Bool) := (s.host.items, paused s)

theorem besideMoves_of_host (h : t.host = s.host) : besideMoves t = besideMoves s := by
  unfold besideMoves
  rw [h, paused_of_ctls (congrArg HostSt.ctls h)]

theorem besideMoves_of_only (h : Only [.zone, .media, .flash] s t) : besideMoves t = besideMoves s :=
  besideMoves_of_host (h.same .host (by decide))

theorem besideMoves_giveBack (fn : Nat) (s : State) : besideMoves (giveBack fn s) = besideMoves s := by
  unfold giveBack when
  dsimp only
  split
  · have kept : paused (updCtl fn (fun c => { c with
        azones := if pfAz s.fw.cfg fn < c.azones then c.azones - 1 else c.azones }) s) = paused s :=
      paused_updCtl (f := fun c => { c with azones := if pfAz s.fw.cfg fn < c.azones then c.azones - 1 else c.azones })
        fn (fun _ => rfl) s
    exact Prod.ext rfl kept
  · rfl

theorem besideMoves_moveZone (z : Nat) (st : ZState) (s : State) : besideMoves (moveZone z st s) = besideMoves s := by
  unfold moveZone when
  split
  · rfl
  · split
    · exact besideMoves_giveBack _ _
    · rfl

theorem besideMoves_emptyZone (z : Nat) (s : State) : besideMoves (emptyZone z s) = besideMoves s := by
  unfold emptyZone
  split
  · rfl
  · rename_i r _
    have moved : besideMoves (moveZone z .empty (packShared z (dropClaims z 0 (unmapZoneFrom z 0 s)))) = besideMoves s :=
      (besideMoves_moveZone z .empty _).trans (besideMoves_of_only (packShared_only _ _ (dropClaims_only _ _ _
        (unmapZoneFrom_only _ _ _ (only_refl _ _) (by decide)) (by decide)) (by decide)))
    dsimp only
    refine (besideMoves_of_only (updZoneRec_only _ _ _ (only_refl _ _) (by decide))).trans ?_
    split
    · exact (besideMoves_of_only (only_when _ _ (only_refl _ _) fun _ h => closeEarly_only _ _ h (by decide))).trans moved
    · exact moved

theorem besideMoves_closeZone (z : Nat) (s : State) : besideMoves (closeZone z s) = besideMoves s := by
  unfold closeZone
  split
  · rfl
  · split
    · exact besideMoves_emptyZone z s
    · exact besideMoves_moveZone z .closed s

theorem besideMoves_closeZones (fn : Nat) (s : State) : besideMoves (closeZones fn s) = besideMoves s := by
  unfold closeZones
  dsimp only
  split
  · rfl
  · refine forEach_keeps besideMoves (fun z x => ?_) _ _
    split
    · rfl
    · refine (besideMoves_of_only (tell_only _ _ _ _ (only_refl _ _) (by decide))).trans ?_
      exact (besideMoves_closeZone z _).trans (besideMoves_of_only (updZoneRec_only _ _ _ (only_refl _ _) (by decide)))

theorem itemsFrom_closeZones (fn : Nat) (s : State) : ItemsFrom s (closeZones fn s) :=
  itemsFrom_of_items (congrArg Prod.fst (besideMoves_closeZones fn s))

/-! ### Commands of the old generation -/

theorem stopOld_outcome (it : Item) (s : State) (ho : it.outcome = none) :
    ∀ k ∈ (stopOld it s).host.items, k.seq = it.seq → k.outcome ≠ none := by
  have stopped : (stopOld it s).host.items = (latch it.seq stGeneration 0 0 s).host.items := by
    have host : ∀ {x : State}, Only [.zone, .media, .flash] (latch it.seq stGeneration 0 0 s) x →
        x.host.items = (latch it.seq stGeneration 0 0 s).host.items := fun h =>
      congrArg HostSt.items (h.same .host (by decide))
    unfold stopOld
    rw [ho]
    dsimp only
    split
    · rename_i h
      cases h
    split
    · exact host (dropReads_only _ _ (only_refl _ _) (by decide))
    split
    · exact host (discardLanded_only _ _ (only_refl _ _) (by decide))
    · exact host (cutDiscard_only _ _ (only_refl _ _) (by decide))
  rw [stopped]
  exact latch_outcome _ _ _ _ _

theorem itemsFrom_stopOld (it : Item) (s : State) : ItemsFrom s (stopOld it s) := by
  have host : ∀ {x y : State}, Only [.zone, .media, .flash] x y → ItemsFrom x y := fun h =>
    itemsFrom_of_host (h.same .host (by decide))
  have latched := itemsFrom_latch it.seq stGeneration 0 0 s
  unfold stopOld
  split
  · exact itemsFrom_refl s
  · dsimp only
    split
    · exact latched.trans (host (dropReads_only _ _ (only_refl _ _) (by decide)))
    split
    · exact latched.trans (host (discardLanded_only _ _ (only_refl _ _) (by decide)))
    · exact latched.trans (host (cutDiscard_only _ _ (only_refl _ _) (by decide)))

theorem paused_stopOld (it : Item) (s : State) : paused (stopOld it s) = paused s := by
  have host : ∀ {x y : State}, Only [.zone, .media, .flash] x y → paused y = paused x := fun h =>
    paused_of_ctls (congrArg HostSt.ctls (h.same .host (by decide)))
  have latched : paused (latch it.seq stGeneration 0 0 s) = paused s := rfl
  unfold stopOld
  split
  · rfl
  · dsimp only
    split
    · exact (host (dropReads_only _ _ (only_refl _ _) (by decide))).trans latched
    split
    · exact (host (discardLanded_only _ _ (only_refl _ _) (by decide))).trans latched
    · exact (host (cutDiscard_only _ _ (only_refl _ _) (by decide))).trans latched

/-- When every command of the list has been stopped, each that stands under the number of one of them has an outcome. -/
theorem stopAll_outcome (l : List Item) (s : State) : ∀ a ∈ l, a.outcome = none →
    ∀ it ∈ (forEach l stopOld s).host.items, it.seq = a.seq → it.outcome ≠ none := by
  induction l generalizing s with
  | nil => exact fun a h => absurd h List.not_mem_nil
  | cons b l ih =>
    intro a ha ho it hit hs
    rcases List.mem_cons.mp ha with rfl | ha
    · obtain ⟨m, hm, seq, _, out⟩ := itemsFrom_forEach l itemsFrom_stopOld (stopOld a s) it hit
      exact out (stopOld_outcome a s ho m hm (seq.symm.trans hs))
    · exact ih (stopOld b s) a ha ho it hit hs

/-! ### The reset takes effect -/

section effect

variable {n f : Nat} {i : Inst}

/-- The new generation: counted, and the function's fetch paused. -/
def newGeneration (n : Nat) (s : State) : State :=
  updCtl n (fun c => { c with fetchPaused := true }) (updInstance n (fun i => { i with
    resets := i.resets + 1, resetDue := none, resetAt := clk s, resume := false })
    (updInst (fun t => { t with gens := tabSet t.gens n ((tabGetD t.gens n 0 + 1) % 256) }) s))

/-- The function's commands at the reset. -/
def oldItems (n : Nat) (s : State) : List Item := s.host.items.filter fun it => decide (it.id.fn = n)

/-- What a reset does to the old generation: its I/O commands stop, its zones roll back and close. -/
def stopGeneration (n : Nat) (s : State) : State :=
  let x := forEach ((oldItems n s).filter Item.io) stopOld s
  closeZones n (forEach (rollZones x n) rollbackZone x)

/-- Its commands are answered. -/
def answerGeneration (n before : Nat) (s0 s : State) : State :=
  postOld n before (forEach ((oldItems n s0).filter fun it => !it.io && decide (it.phase = .fetched))
    (fun it => finishBad it.seq stGeneration) s)

theorem resetEffect_runs (hr : hallRuns s = true) (hi : instAt s n = some i) (hs : i.st = .resetting)
    (hd : i.resetDue = some f) (hf : f < s.frame.elapsed) (hl : i.flr = false) :
    resetEffect n s = answerGeneration n s.media.nextJSeq (newGeneration n s) (stopGeneration n (newGeneration n s)) := by
  have late : ¬clk s ≤ f := Nat.not_le.mpr hf
  unfold resetEffect
  simp only [hi, hd, hr, late, hs, hl, Bool.not_true, Bool.false_eq_true, or_self, if_false, ne_eq, reduceCtorEq,
    not_false_eq_true, decide_true, decide_false, Bool.true_or, flag, if_true, Bool.false_and]
  rfl

theorem newGeneration_inst (hi : instAt s n = some i) :
    tabGetD (newGeneration n s).inst.gens n 0 = (tabGetD s.inst.gens n 0 + 1) % 256 ∧
      instAt (newGeneration n s) n =
        some { i with resets := i.resets + 1, resetDue := none, resetAt := s.frame.elapsed, resume := false } := by
  have gens : tabGetD (newGeneration n s).inst.gens n 0 = (tabGetD s.inst.gens n 0 + 1) % 256 := by
    change tabGetD (tabSet s.inst.gens n ((tabGetD s.inst.gens n 0 + 1) % 256)) n 0 = _
    rw [tabGetD, tabGet_set_self]
    rfl
  exact ⟨gens, tabGet_upd_self _ hi⟩

theorem newGeneration_paused {c : Ctl} (hc : ctlOf s n = some c) : paused (newGeneration n s) n = some true := by
  have ctl : ctlOf (newGeneration n s) n = some { c with fetchPaused := true } :=
    tabGet_upd_self (fun c : Ctl => { c with fetchPaused := true }) hc
  unfold paused
  rw [ctl]
  rfl

theorem stopGeneration_only (n : Nat) (s : State) : Only [.host, .zone, .media, .flash] s (stopGeneration n s) :=
  closeZones_only _ _ (only_forEach _ _ _ (only_forEach _ _ _ (only_refl _ _) fun _ _ h => stopOld_only _ _ h (by decide))
    fun _ _ h => rollbackZone_only _ _ h (by decide)) (by decide)

theorem itemsFrom_rollbacks (l : List Nat) (s : State) : ItemsFrom s (forEach l rollbackZone s) :=
  itemsFrom_forEach l (fun z x => itemsFrom_of_host
    ((rollbackZone_only z x (only_refl [.zone, .media, .flash] x) (by decide)).same .host (by decide))) s

/-- Every I/O command of the function is stopped. -/
theorem stopGeneration_outcome (n : Nat) (s : State) :
    ∀ it ∈ (stopGeneration n s).host.items, it.io = true → it.id.fn = n → it.outcome ≠ none := by
  intro it hit hio hfn
  have after : ItemsFrom (forEach ((oldItems n s).filter Item.io) stopOld s) (stopGeneration n s) :=
    (itemsFrom_rollbacks _ _).trans (itemsFrom_closeZones _ _)
  obtain ⟨m, hm, seq, ident, out⟩ := after it hit
  obtain ⟨k, hk, seq', ident', out'⟩ := itemsFrom_forEach ((oldItems n s).filter Item.io) itemsFrom_stopOld s m hm
  have old : k ∈ (oldItems n s).filter Item.io := by
    have id_ : k.id = it.id := (ident.trans ident').symm
    refine List.mem_filter.mpr ⟨List.mem_filter.mpr ⟨hk, ?_⟩, ?_⟩
    · rw [id_]
      exact decide_eq_true hfn
    · unfold Item.io at hio ⊢
      rw [id_]
      exact hio
  by_cases done : k.outcome = none
  · exact out (stopAll_outcome _ _ k old done m hm seq')
  · exact out (out' done)

theorem paused_stopGeneration (n : Nat) (s : State) : paused (stopGeneration n s) = paused s := by
  have rolled : ∀ (l : List Nat) x, paused (forEach l rollbackZone x) = paused x := fun l x =>
    forEach_keeps paused (fun z y => paused_of_ctls (congrArg HostSt.ctls
      ((rollbackZone_only z y (only_refl [.zone, .media, .flash] y) (by decide)).same .host (by decide)))) l x
  exact (congrArg Prod.snd (besideMoves_closeZones n _)).trans ((rolled _ _).trans
    (forEach_keeps paused (fun it y => paused_stopOld it y) _ _))

/-- What the answers to the old generation leave: the commands, the instances and the fetch of every function. -/
theorem answerGeneration_keeps (n before : Nat) (s0 s : State) : ItemsFrom s (answerGeneration n before s0 s) ∧
    instBut (answerGeneration n before s0 s) = instBut s ∧ paused (answerGeneration n before s0 s) = paused s := by
  have failed : ∀ (l : List Item), ItemsFrom s (forEach l (fun it => finishBad it.seq stGeneration) s) ∧
      instBut (forEach l (fun it => finishBad it.seq stGeneration) s) = instBut s ∧
      paused (forEach l (fun it => finishBad it.seq stGeneration) s) = paused s := fun l =>
    ⟨itemsFrom_forEach l (fun it x => itemsFrom_finishBad it.seq stGeneration x) s,
      forEach_keeps instBut (fun (it : Item) x => instBut_finishBad it.seq stGeneration x) l s,
      forEach_keeps paused (fun (it : Item) x => paused_of_kept (ctlsKept_finish it.seq stGeneration 0 0 x)) l s⟩
  have posted : ∀ (l : List Item) (x : State), ItemsFrom x (forEach l (fun it => postItem it.seq) x) ∧
      instBut (forEach l (fun it => postItem it.seq) x) = instBut x ∧
      paused (forEach l (fun it => postItem it.seq) x) = paused x := fun l x =>
    ⟨itemsFrom_forEach l (fun it x => itemsFrom_postItem it.seq x) x,
      forEach_keeps instBut (fun (it : Item) x => instBut_postItem it.seq x) l x,
      forEach_keeps paused (fun (it : Item) x => paused_of_kept (ctlsKept_postItem it.seq x)) l x⟩
  unfold answerGeneration
  obtain ⟨items, inst, pause⟩ := failed ((oldItems n s0).filter fun it => !it.io && decide (it.phase = .fetched))
  generalize forEach _ _ s = x at items inst pause ⊢
  unfold postOld
  dsimp only
  split
  · obtain ⟨items', inst', pause'⟩ := posted (sortKey (fun it => it.unit * 2 ^ 64 + it.seq)
      (x.host.items.filter fun it => it.io && decide (it.id.fn = n) && it.outcome.isSome && !inStep x it)) x
    exact ⟨items.trans items', inst'.trans inst, pause'.trans pause⟩
  · exact ⟨items.trans (itemsFrom_of_items rfl), inst, pause⟩

end effect

end Sys2Proof.Machine
end

section
/-! SUPPORT. INST_RESET and INST_SANITISE: what their requests leave due, and the final replies of what has ended
(R347 to R349, R354). -/

namespace Sys2Proof.Machine

variable {s : State} {n : Nat} {i : Inst}

/-! ### Instances -/

theorem instAt_updInstance (f : Inst → Inst) (hi : instAt s n = some i) : instAt (updInstance n f s) n = some (f i) :=
  tabGet_upd_self f hi

theorem instAt_updInstance_ne {m : Nat} (f : Inst → Inst) (h : m ≠ n) : instAt (updInstance n f s) m = instAt s m := by
  unfold instAt updInstance updInst tabUpd
  dsimp only
  split
  · exact tabGet_set_ne _ _ h
  · rfl

theorem instAt_inst {t : State} (h : t.inst = s.inst) (n : Nat) : instAt t n = instAt s n := by
  unfold instAt
  rw [h]

theorem instAt_takenUp (n : Nat) : instAt (takenUp s) n = instAt s n := instAt_inst (takenUp_inst s) n

/-- The final replies that one of the instances owes under an opcode, where it owes one request alone. -/
theorem replyPend_one {o : Outst} {opcode : Nat} {st : Nat} {payload : List Nat} (hi : instAt s n = some i)
    (hp : i.pend = [{ tag := o.tag, opcode := opcode }]) : replyPend n opcode st payload s =
      finalReply o.tag opcode st payload
        (updInstance n (fun i => { i with pend := i.pend.filter fun p => decide (p.opcode ≠ opcode) }) s) := by
  unfold replyPend
  rw [hi]
  dsimp only
  rw [hp]
  simp only [List.filter_cons, List.filter_nil, decide_true, if_true]
  rfl

theorem finalReply_inst (tag op st : Nat) (payload : List Nat) (s : State) :
    (finalReply tag op st payload s).inst = s.inst :=
  (finalReply_only _ _ _ _ s (only_refl [.mbx, .emit] s) (List.Subset.refl _)).same .inst (by decide)

theorem replyPending_inst (r : Posted) (s : State) : (replyPending r s).inst = s.inst :=
  (replyPending_rest r s).same .inst (by decide)

/-! ### INST_RESET -/

theorem instReset_pends {r : Posted} (hi : instAt s (r.pw 0 % 2 ^ 11) = some i) (hs : i.st = .live ∨ i.st = .resetting) :
    instReset r s = replyPending r (updInstance (r.pw 0 % 2 ^ 11) (fun i => { i with
      st := .resetting, resetDue := some (i.resetDue.getD (clk s))
      pend := i.pend ++ [{ tag := r.tag, opcode := 0x12 }] }) s) := by
  have number : bits (r.pw 0) 10 0 = r.pw 0 % 2 ^ 11 := by simp [bits]
  have allowed : ¬(i.st ≠ .live ∧ i.st ≠ .resetting) := fun h => hs.elim h.1 h.2
  unfold instReset
  simp only [number, hi]
  rw [if_neg allowed]
  rfl

theorem resetEnd_ends {c : Ctl} {o : Outst} (hr : hallRuns s = true) (hi : instAt s n = some i) (hc : ctlOf s n = some c)
    (hs : i.st = .resetting) (hd : i.resetDue = none) (hm : i.resume = false) (hp : c.fetchPaused = true)
    (ho : oldWork s n i = false) (hq : i.pend = [{ tag := o.tag, opcode := 0x12 }]) :
    resetEnd n s = finalReply o.tag 0x12 0 [genOf s n]
      (updInstance n (fun i => { i with pend := i.pend.filter fun p => decide (p.opcode ≠ 0x12) })
        (updInstance n (fun i => { i with
          resume := true, resetDue := none, flr := false, st := if i.st = .resetting then .live else i.st }) s)) := by
  have after := instAt_updInstance (fun i => { i with
    resume := true, resetDue := none, flr := false, st := if i.st = .resetting then .live else i.st }) hi
  have e := replyPend_one (st := 0) (payload := [genOf s n]) (o := o) after hq
  refine Eq.trans ?_ e
  unfold resetEnd
  simp only [hi, hc, hr, hp, hm, hd, ho, hs, Bool.not_true, Bool.false_eq_true, Option.isSome_none, reduceCtorEq,
    decide_false, false_and, or_self, if_false, Bool.not_false]
  rfl

/-! ### INST_SANITISE -/

theorem instSanitise_pends {r : Posted} (hi : instAt s (r.pw 0 % 2 ^ 11) = some i) (hs : i.st = .live)
    (hd : i.sanDue = none) (hz : sanitizing s = false)
    (hf : ((nssOf s (r.pw 0 % 2 ^ 11)).any fun p => p.2.fmt.isSome) = false) (ht : s.prot.trngOk = true) :
    instSanitise r s = replyPending r (updInstance (r.pw 0 % 2 ^ 11) (fun i => { i with
      sanDue := some (clk s), sanBlock := decide (r.pw 0 / 2 ^ 11 % 4 = 1)
      pend := i.pend ++ [{ tag := r.tag, opcode := 0x15 }] }) s) := by
  have number : bits (r.pw 0) 10 0 = r.pw 0 % 2 ^ 11 := by simp [bits]
  have kind : bits (r.pw 0) 12 11 = r.pw 0 / 2 ^ 11 % 4 := rfl
  have idle : i.sanitises = false := by simp [Inst.sanitises, hs, hd]
  unfold instSanitise
  simp only [number, kind, hi, hs, idle, hz, hf, ht, ne_eq, not_true_eq_false, Bool.false_eq_true, or_self, if_false,
    Bool.not_true, and_false]
  rfl

/-- What holds of a namespace, where there is one. -/
def NsHas (P : Ns → Prop) (x : Nat) (s : State) : Prop := ∀ m, nsAt s x = some m → P m

theorem nsAt_updNs_self (x : Nat) (f : Ns → Ns) (s : State) : nsAt (updNs x f s) x = (nsAt s x).map f := by
  change tabGet (tabUpd s.zone.nss x f) x = (tabGet s.zone.nss x).map f
  cases h : tabGet s.zone.nss x with
  | none => rw [tabUpd, h]; exact h
  | some k => exact tabGet_upd_self f h

theorem nsAt_updNs_ne {x y : Nat} (f : Ns → Ns) (s : State) (h : y ≠ x) : nsAt (updNs x f s) y = nsAt s y := by
  change tabGet (tabUpd s.zone.nss x f) y = tabGet s.zone.nss y
  unfold tabUpd
  split
  · exact tabGet_set_ne _ _ h
  · rfl

theorem nsHas_updNs {P : Ns → Prop} (x : Nat) {f : Ns → Ns} (hf : ∀ m, P (f m)) (s : State) : NsHas P x (updNs x f s) := by
  intro m hm
  rw [nsAt_updNs_self] at hm
  obtain ⟨k, _, e⟩ := Option.map_eq_some_iff.mp hm
  exact e ▸ hf k

theorem nsHas_updNs_of {P : Ns → Prop} {x : Nat} (y : Nat) {f : Ns → Ns} (hf : ∀ m, P (f m)) (h : NsHas P x s) :
    NsHas P x (updNs y f s) := by
  by_cases e : x = y
  · rw [e]
    exact nsHas_updNs y hf s
  · intro m hm
    exact h m (by rw [← nsAt_updNs_ne f s e]; exact hm)

/-- Changing each namespace of a list makes what the change brings hold of each. -/
theorem nsHas_forEach {P : Ns → Prop} {f : Nat → State → Ns → Ns} (hf : ∀ x s m, P (f x s m)) (l : List Nat) (s : State) :
    ∀ x ∈ l, NsHas P x (forEach l (fun x s => updNs x (f x s) s) s) := by
  have kept : ∀ (l : List Nat) (x : Nat) (s : State), NsHas P x s →
      NsHas P x (forEach l (fun x s => updNs x (f x s) s) s) := by
    intro l x
    induction l with
    | nil => exact fun _ h => h
    | cons a l ih => exact fun s h => ih _ (nsHas_updNs_of a (hf a s) h)
  induction l generalizing s with
  | nil => exact fun x h => absurd h List.not_mem_nil
  | cons a l ih =>
    intro x hx
    rcases List.mem_cons.mp hx with rfl | hx
    · exact kept l x _ (nsHas_updNs x (hf x s) s)
    · exact ih _ x hx

/-- What the start of a sanitise of one of the instances sets in each of its namespaces. -/
def sanMark (i : Inst) (c x : Nat) (s : State) (m : Ns) : Ns :=
  { m with fmt := some { kind := sanKind i, lbaf := m.lbaf, pit := m.pit, ext := m.ext, pil := m.pil, started := false,
                         startFrame := c - 1, total := wipeLeft s i.sanBlock x } }

/-- One of the instances is being sanitised, its keys replaced where it has no namespace. -/
def sanBegun (n : Nat) (i : Inst) (s : State) : State :=
  when (!i.sanBlock && i.nsxs.isEmpty) (fun s => renewSlot i.slot (rewrapKeys s)) (updInstance n (fun i' => { i' with
    st := .sanitising, sanDue := none, total := (i.nsxs.map fun x => wipeLeft s i.sanBlock x).sum }) s)

theorem sanitiseStart_marks {f : Nat} (hr : hallRuns s = true) (hi : instAt s n = some i) (hs : i.st = .live)
    (hd : i.sanDue = some f) (hf : f < s.frame.elapsed) (hw : wipeWaits s (sanKind i) = false) :
    sanitiseStart n s = forEach i.nsxs (fun x s' => updNs x (sanMark i (clk s) x s') s') (sanBegun n i s) := by
  have late : ¬clk s ≤ f := Nat.not_le.mpr hf
  unfold sanitiseStart
  simp only [hi, hd, hr, late, hs, hw, Bool.not_true, Bool.false_eq_true, or_self, if_false, ne_eq, not_true_eq_false]
  rfl

theorem sanBegun_inst (hi : instAt s n = some i) :
    ∃ k, instAt (sanBegun n i s) n = some k ∧ k.st = .sanitising ∧ k.sanDue = none := by
  have keys : (sanBegun n i s).inst = (updInstance n (fun i' => { i' with
      st := .sanitising, sanDue := none, total := (i.nsxs.map fun x => wipeLeft s i.sanBlock x).sum }) s).inst :=
    (only_when (ps := [.media, .prot]) _ _ (only_refl _ _) fun _ h => renewSlot_only _ _ (rewrapKeys_only _ h (by decide))
      (by decide)).same .inst (by decide)
  exact ⟨_, (instAt_inst keys n).trans (instAt_updInstance _ hi), rfl, rfl⟩

theorem forEach_updNs_only (l : List Nat) (f : Nat → State → Ns → Ns) (s : State) :
    Only [.zone] s (forEach l (fun x s => updNs x (f x s) s) s) :=
  only_forEach _ _ _ (only_refl _ _) fun _ _ h => updNs_only _ _ _ h (by decide)

/-- One of the instances, whose namespaces have all been wiped. -/
def sanWiped (n : Nat) (i : Inst) (s : State) : State :=
  updInstance n (fun i => { i with st := .live }) (forEach i.nsxs (fun x => updNs x fun m => { m with fmt := none }) s)

theorem sanitiseDone_ends {o : Outst} (hr : hallRuns s = true) (hi : instAt s n = some i) (hs : i.st = .sanitising)
    (hx : ∀ x ∈ i.nsxs, wipeDone s (sanKind i) x = true ∧ ∀ m p, nsAt s x = some m → m.fmt = some p → p.started = true)
    (hk : i.sanBlock = false → s.media.keyStale = []) (hq : i.pend = [{ tag := o.tag, opcode := 0x15 }]) :
    sanitiseDone n s = finalReply o.tag 0x15 0 []
      (updInstance n (fun i => { i with pend := i.pend.filter fun p => decide (p.opcode ≠ 0x15) }) (sanWiped n i s)) := by
  have keys : ¬((!i.sanBlock) = true ∧ (!s.media.keyStale.isEmpty) = true) := by
    rintro ⟨block, stale⟩
    rw [hk (by simpa using block)] at stale
    cases stale
  have kept : instAt (forEach i.nsxs (fun x => updNs x fun m => { m with fmt := none }) s) n = some i :=
    (instAt_inst ((forEach_updNs_only i.nsxs (fun _ _ m => { m with fmt := none }) s).same .inst (by decide)) n).trans hi
  have after : instAt (sanWiped n i s) n = some { i with st := .live } := instAt_updInstance _ kept
  have e := replyPend_one (st := 0) (payload := []) (o := o) after hq
  refine Eq.trans ?_ e
  unfold sanitiseDone
  rw [hi]
  dsimp only
  rw [if_neg]
  · rfl
  · rintro (off | other | waits | stale)
    · simp [hr] at off
    · exact other hs
    · rw [Bool.not_eq_true', List.all_eq_false] at waits
      obtain ⟨x, hxs, undone⟩ := waits
      obtain ⟨done, started⟩ := hx x hxs
      rw [done, Bool.true_and] at undone
      cases hm : nsAt s x with
      | none => simp [hm] at undone
      | some m =>
        cases hp : m.fmt with
        | none => simp [hm, hp] at undone
        | some p => simp [hm, hp, started m p hm hp] at undone
    · exact keys stale

/-! ### The obligation -/

/-- Settles O21: the requests leave their effect due, the effect follows the old generation's commands through the tag
table, and what has ended posts the one final reply that is owed. -/
theorem instancesAreResetAndSanitised : Obligations.InstancesAreResetAndSanitised := by
  unfold Obligations.InstancesAreResetAndSanitised
  refine ⟨fun s => ⟨fun r i a hf hm hi hs => ?reset, fun n f i c hr hi hs hd hf hl hc => ?effect,
      fun n i c o hr hi hc hs hd hres hp ho hq hop owed => ?ended⟩,
    fun s => ⟨fun r i a hf hsf hm hi hs hd hz hn ht => ?sanitise, fun n f i hr hi hs hd hf hw => ?start,
      fun n i o hr hi hs hx hk hq hop owed => ?done⟩⟩
  case reset =>
    have body := instReset_pends (s := takenUp s) (r := r) ((instAt_takenUp _).trans hi) hs
    refine scp_pends (ps := [.inst]) rfl a hf (fun _ => hm) rfl body (updInstance_only _ _ _ (only_refl _ _) (by decide))
      (only_refl _ _) (by decide) fun only => ?_
    refine ⟨(instAt_inst (replyPending_inst _ _) _).trans ((instAt_updInstance _ ((instAt_takenUp _).trans hi)).trans ?_), fun m hne => ?_,
      only.mono (by decide)⟩
    · rw [show clk (takenUp s) = s.frame.elapsed from congrArg FrameSt.elapsed (takenUp_frame s)]
    · exact (instAt_inst (replyPending_inst _ _) m).trans ((instAt_updInstance_ne _ hne).trans (instAt_takenUp m))
  case effect =>
    have e := resetEffect_runs (s := { s with emit := [] }) hr hi hs hd hf hl
    obtain ⟨gens, inst⟩ := newGeneration_inst (s := { s with emit := [] }) hi
    have pause := newGeneration_paused (s := { s with emit := [] }) hc
    generalize newGeneration n { s with emit := [] } = x at e gens inst pause
    obtain ⟨items, insts, paused'⟩ := answerGeneration_keeps n s.media.nextJSeq x (stopGeneration n x)
    have stopped : (stopGeneration n x).inst = x.inst := (stopGeneration_only n x).same .inst (by decide)
    have but := insts.trans (instBut_of_inst stopped)
    have held := congrFun (paused'.trans (paused_stopGeneration n x)) n
    refine ⟨_, congrArg Host.Outcome.next e, ?_, ?_, ?_, fun it hit hio hfn => ?_⟩
    · have g := congrArg (fun t : InstSt => tabGetD t.gens n 0) but
      exact Eq.trans g gens
    · have g := congrArg (fun t : InstSt => tabGet t.insts n) but
      exact Eq.trans g inst
    · obtain ⟨k, hk, hp⟩ := Option.map_eq_some_iff.mp (held.trans pause)
      exact ⟨k, hk, hp⟩
    · obtain ⟨k, hk, _, ident, out⟩ := items it hit
      have id_ : k.id = it.id := ident.symm
      refine out (stopGeneration_outcome n x k hk ?_ (by rw [id_]; exact hfn))
      unfold Item.io at hio ⊢
      rw [id_]
      exact hio
  case ended =>
    have e := resetEnd_ends (s := { s with emit := [] }) hr hi hc hs hd hres hp ho hq
    have changed := updInstance_only n (fun i => { i with pend := i.pend.filter fun p => decide (p.opcode ≠ 0x12) }) _
      (updInstance_only n (fun i => { i with
        resume := true, resetDue := none, flr := false, st := if i.st = .resetting then .live else i.st }) _
        ((emptied_only s).mono (ps := [.inst, .emit]) (by decide)) (by decide)) (by decide)
    refine ⟨_, congrArg Host.Outcome.next e, ?_, ?_, ?_⟩
    · rw [← hop]
      exact finalReply_settles owed (changed.same .mbx (by decide)) (by simp)
    · refine (instAt_inst (finalReply_inst _ _ _ _ _) n).trans ((instAt_updInstance _ (instAt_updInstance _ hi)).trans ?_)
      simp [hs, hd, hq]
    · exact finalReply_only _ _ _ _ _ (changed.mono (by decide)) (by decide)
  case sanitise =>
    have body := instSanitise_pends (s := takenUp s) (r := r) ((instAt_takenUp _).trans hi) hs hd
      (by unfold sanitizing; rw [takenUp_zone]; exact hz) (by unfold nssOf; rw [takenUp_zone]; exact hn)
      (by rw [takenUp_prot]; exact ht)
    refine scp_pends (fault := sanitiseFault) (ps := [.inst]) rfl a hf (fun _ => hm) hsf body
      (updInstance_only _ _ _ (only_refl _ _) (by decide)) (only_refl _ _) (by decide) fun only => ?_
    refine ⟨(instAt_inst (replyPending_inst _ _) _).trans ((instAt_updInstance _ ((instAt_takenUp _).trans hi)).trans ?_), only.mono (by decide)⟩
    rw [show clk (takenUp s) = s.frame.elapsed from congrArg FrameSt.elapsed (takenUp_frame s)]
  case start =>
    have e := sanitiseStart_marks (s := { s with emit := [] }) hr hi hs hd hf hw
    obtain ⟨k, hk, st, due⟩ := sanBegun_inst (s := { s with emit := [] }) hi
    have marked := forEach_updNs_only i.nsxs (sanMark i (clk { s with emit := [] })) (sanBegun n i { s with emit := [] })
    refine ⟨_, congrArg Host.Outcome.next e, ⟨k, (instAt_inst (marked.same .inst (by decide)) n).trans hk, st, due⟩,
      fun x hx m hm => ?_, ?_⟩
    · exact nsHas_forEach (P := fun m => m.fmt.isSome = true) (f := sanMark i (clk { s with emit := [] }))
        (fun _ _ _ => rfl) _ _ x hx m hm
    · have only := sanitiseStart_only n { s with emit := [] } ((emptied_only s).mono
        (ps := [.zone, .media, .inst, .prot, .emit]) (by decide)) (by decide)
      rw [e] at only
      exact only
  case done =>
    have e := sanitiseDone_ends (s := { s with emit := [] }) hr hi hs hx hk hq
    have wiped := forEach_updNs_only i.nsxs (fun _ _ m => { m with fmt := none }) { s with emit := [] }
    have kept : instAt (forEach i.nsxs (fun x => updNs x fun m => { m with fmt := none }) { s with emit := [] }) n = some i :=
      (instAt_inst (wiped.same .inst (by decide)) n).trans hi
    have changed := updInstance_only n (fun i => { i with pend := i.pend.filter fun p => decide (p.opcode ≠ 0x15) }) _
      (updInstance_only n (fun i => { i with st := .live }) _ ((emptied_only s).mono (ps := [.zone, .inst, .emit])
        (by decide) |>.trans (wiped.mono (by decide))) (by decide)) (by decide)
    refine ⟨_, congrArg Host.Outcome.next e, ?_, ?_, fun x hxs m hm => ?_⟩
    · rw [← hop]
      exact finalReply_settles owed (changed.same .mbx (by decide)) (by simp)
    · refine (instAt_inst (finalReply_inst _ _ _ _ _) n).trans
        ((instAt_updInstance _ (instAt_updInstance (fun i => { i with st := .live }) kept)).trans ?_)
      simp [hq]
    · have zone : (finalReply o.tag 0x15 0 [] (updInstance n (fun i => { i with
          pend := i.pend.filter fun p => decide (p.opcode ≠ 0x15) }) (sanWiped n i { s with emit := [] }))).zone = _ :=
        (finalReply_only _ _ _ _ _ (only_refl [.mbx, .emit] _) (List.Subset.refl _)).same .zone (by decide)
      refine nsHas_forEach (P := fun m => m.fmt = none) (f := fun _ _ m => { m with fmt := none }) (fun _ _ _ => rfl)
        i.nsxs { s with emit := [] } x hxs m ?_
      unfold nsAt at hm ⊢
      rw [zone] at hm
      exact hm

end Sys2Proof.Machine
end

section
/-! SUPPORT. What survives the ends of commands, reads and programs: a property of the state that depends on nothing but
what was sent out and on the parts of the flash state other than its queues. -/

namespace Sys2Proof.Machine

/-- Every group but the flash state and what is sent out. -/
def behind : List Part :=
  [.frame, .mbx, .host, .zone, .media, .inst, .prot, .ecc, .fw, .power, .therm, .mgmt, .pins, .recd, .free, .pending]

/-- The flash state but for its reads and requests. -/
def QueuesOnly (x y : FlashSt) : Prop :=
  y = { x with reads := y.reads, nextRead := y.nextRead, reqs := y.reqs, lateReqs := y.lateReqs }

/-- A property that survives every change outside flash and emission, every emission, and changes of the flash queues. -/
structure Lasting (P : State → Prop) : Prop where
  quiet : ∀ {s t : State}, Only behind s t → P s → P t
  sent : ∀ (e : Emission) {s : State}, P s → P (send e s)
  queues : ∀ (f : FlashSt → FlashSt) {s : State}, (∀ x, QueuesOnly x (f x)) → P s → P (updFlash f s)

/-- What has been sent out stays sent out. -/
theorem lasting_sent (e : Emission) : Lasting fun t => e ∈ t.emit where
  quiet h he := (h.same .emit (by decide) : _ = _) ▸ he
  sent _ _ he := List.mem_append_left _ he
  queues _ _ _ he := he

/-- A property of the plan lasts. -/
theorem lasting_plan (p : Tab PlanEntry → Prop) : Lasting fun t => p t.flash.plan where
  quiet {s t} h hp := by
    have e : t.flash = s.flash := h.same .flash (by decide)
    rw [e]
    exact hp
  sent _ _ hp := hp
  queues f {s} hf hp := by
    have e := congrArg FlashSt.plan (hf s.flash)
    change p (f s.flash).plan
    rw [e]
    exact hp

/-- A property of the dies lasts. -/
theorem lasting_dies (p : Tab Die → Prop) : Lasting fun t => p t.flash.dies where
  quiet {s t} h hp := by
    have e : t.flash = s.flash := h.same .flash (by decide)
    rw [e]
    exact hp
  sent _ _ hp := hp
  queues f {s} hf hp := by
    have e := congrArg FlashSt.dies (hf s.flash)
    change p (f s.flash).dies
    rw [e]
    exact hp

/-- What holds before a loop and survives each of its steps holds after it. -/
theorem forEach_invariant {α : Type} {P : State → Prop} {f : α → State → State} (hf : ∀ a s, P s → P (f a s)) (l : List α)
    {s : State} (h : P s) : P (forEach l f s) := by
  induction l generalizing s with
  | nil => exact h
  | cons a l ih => exact ih (hf a s h)

theorem when_invariant {P : State → Prop} {f : State → State} (c : Bool) {s : State} (hf : P s → P (f s)) (h : P s) :
    P (when c f s) := by
  unfold when
  split
  · exact hf h
  · exact h

theorem getD_invariant {P : State → Prop} {r : Option State} {back : State} (e : ∀ t, r = some t → P t) (h : P back) :
    P (r.getD back) := by
  cases r with
  | none => exact h
  | some t => exact e t rfl

section survives

variable {P : State → Prop} (hP : Lasting P) {s : State}

include hP

/-! ### Completions and events -/

theorem signal_lasts (fn cq vector : Nat) (h : P s) : P (signal fn cq vector s) := by
  have kept : ∀ f, P (updCtl fn f s) := fun f => hP.quiet (updCtl_only _ _ _ (only_refl _ _) (by decide)) h
  unfold signal
  dsimp only
  split
  · exact h
  · split
    · exact hP.sent _ (kept _)
    · exact kept _

theorem postCqe_lasts (fn cq : Nat) (e : Cqe) (h : P s) : P (postCqe fn cq e s) := by
  have kept : ∀ f, P (updCtl fn f s) := fun f => hP.quiet (updCtl_only _ _ _ (only_refl _ _) (by decide)) h
  unfold postCqe
  dsimp only
  split
  · exact h
  · split
    · exact h
    · split
      · exact when_invariant _ (signal_lasts hP _ _ _) (kept _)
      · exact kept _

theorem postItem_lasts (n : Nat) (h : P s) : P (postItem n s) := by
  unfold postItem
  dsimp only
  split
  · exact h
  · split
    · exact h
    · split
      · exact h
      · rename_i it _ _ st _
        have dropped : Only behind s (dropItem n s) := dropItem_only _ _ (only_refl _ _) (by decide)
        have counted : Only behind (dropItem n s) (when it.io (countPosted it)
            (stampSq it (when st.failed (updCtl it.id.fn (addErr it st)) (dropItem n s)))) := by
          refine only_when _ _ (stampSq_only _ _ (only_when _ _ (only_refl _ _) fun t k => ?_) (by decide)) fun t k => ?_
          · exact updCtl_only _ _ _ k (by decide)
          · exact countPosted_only _ _ k (by decide)
        have posted := hP.quiet (dropped.trans counted) h
        split
        · exact hP.quiet dropped h
        · split
          · exact posted
          · exact postCqe_lasts hP _ _ _ posted

theorem finish_lasts (n : Nat) (st : Status) (dw0 dw1 : Word) (h : P s) : P (finish n st dw0 dw1 s) :=
  postItem_lasts hP _ (hP.quiet (latch_only _ _ _ _ _ (only_refl _ _) (by decide)) h)

theorem reportOne_lasts (fn : Nat) (h : P s) : P (reportOne fn s) := by
  have kept : ∀ f, P (updCtl fn f s) := fun f => hP.quiet (updCtl_only _ _ _ (only_refl _ _) (by decide)) h
  unfold reportOne
  dsimp only
  split
  · exact h
  · split
    · split
      · exact finish_lasts hP _ _ _ _ (kept _)
      · exact kept _
    · exact h

theorem reportEvents_lasts (fn n : Nat) (h : P s) : P (reportEvents fn n s) := by
  induction n generalizing s with
  | zero => exact h
  | succ n ih => exact ih (reportOne_lasts hP fn h)

theorem notify_lasts (fn : Nat) (en : Word → Bool) (e : Event) (h : P s) : P (notify fn en e s) := by
  unfold notify
  split
  · exact h
  · split
    · exact reportEvents_lasts hP _ _ (hP.quiet (updCtl_only _ _ _ (only_refl _ _) (by decide)) h)
    · exact h

theorem notifyZone_lasts (fn nsid z : Nat) (h : P s) : P (notifyZone fn nsid z s) :=
  notify_lasts hP _ _ _ (hP.quiet (updCtl_only _ _ _ (only_refl _ _) (by decide)) h)

theorem setCritical_lasts (b : Nat) (h : P s) : P (setCritical b s) := by
  have warned : Only behind s (callWrite { assertAlert s with
      therm := { s.therm with critical := s.therm.critical ||| BitVec.ofNat 5 (2 ^ b) } }) :=
    callWrite_only _ (only_therm _ (assertAlert_only _ (only_refl _ _) (by decide)) (by decide)) (by decide)
  unfold setCritical
  dsimp only
  split
  · exact h
  · exact forEach_invariant (fun fn t k => notify_lasts hP _ _ _ k) _ (hP.quiet warned h)

/-! ### Commands that fail -/

theorem dropReads_lasts (seq : Nat) (h : P s) : P (dropReads seq s) := by
  unfold dropReads
  refine hP.queues _ (fun _ => rfl) (forEach_invariant (fun r t k => ?_) _ h)
  split
  · exact hP.quiet (unpinEntry_only _ _ (only_refl _ _) (by decide)) k
  · exact k

theorem failItem_lasts (seq : Nat) (st : Status) (h : P s) : P (failItem seq st s) := by
  have stopped : P (stopWrite seq st (dropReads seq s)) :=
    hP.quiet (stopWrite_only _ _ _ (only_refl _ _) (by decide)) (dropReads_lasts hP seq h)
  unfold failItem
  dsimp only
  split
  · exact h
  · split
    · exact h
    · split
      · split
        · exact hP.quiet (zoneFail_only _ _ _ _ (only_refl _ _) (by decide)) h
        · split
          · split
            · exact stopped
            · exact postItem_lasts hP _ stopped
          · exact finish_lasts hP _ _ _ _ (dropReads_lasts hP seq h)
      · exact finish_lasts hP _ _ _ _ h

theorem readDone_lasts (seq : Nat) (h : P s) : P (readDone seq s) := by
  unfold readDone
  split
  · exact h
  · split
    · exact h
    · split
      · exact finish_lasts hP _ _ _ _ h
      · refine finish_lasts hP _ _ _ _ ?_
        split
        · exact h
        · exact notify_lasts hP _ _ _ (hP.quiet (updCtl_only _ _ _ (only_refl _ _) (by decide)) h)

theorem failUnit_lasts (seq u : Nat) (h : P s) : P (failUnit seq u s) :=
  readDone_lasts hP _ (hP.quiet (updItem_only _ _ _ (only_refl _ _) (by decide)) h)

/-! ### Rows bound again -/

theorem requestRow_lasts (eg row : Nat) (gc : Bool) (h : P s) : P (requestRow eg row gc s) := by
  unfold requestRow
  split
  · exact h
  · refine forEach_invariant (fun p t k => ?_) _ h
    unfold request
    split
    · exact hP.queues _ (fun _ => rfl) k
    · exact hP.queues _ (fun _ => rfl) k

/-- Units whose inner check fails are counted, which is critical. -/
theorem poisoned_lasts (c : Prop) [Decidable c] (n : Nat) (h : P s) : P (if c then s else
    setCritical 2 { callWrite (recDataErr 8 n (recDataErr 1 n s)) with
      therm := { (recDataErr 8 n (recDataErr 1 n s)).therm with
        mediaErrors := (recDataErr 8 n (recDataErr 1 n s)).therm.mediaErrors + n } }) := by
  have counted : Only behind s (recDataErr 8 n (recDataErr 1 n s)) :=
    recDataErr_only _ _ _ (recDataErr_only _ _ _ (only_refl _ _) (by decide)) (by decide)
  split
  · exact h
  · exact setCritical_lasts hP _ (hP.quiet (only_therm _ (callWrite_only _ counted (by decide)) (by decide)) h)

theorem bindIn_lasts (eg : Nat) (reserved : Bool) (o : RowOp) (h : P s) : P (bindIn eg reserved o s) := by
  unfold bindIn
  split
  · exact h
  · refine poisoned_lasts hP _ _ (requestRow_lasts hP _ _ _ (forEach_invariant (fun p t k => ?_) _ ?_))
    · split
      · exact hP.quiet (updLanded_only _ _ _ (only_refl _ _) (by decide)) k
      · exact k
    · exact hP.quiet (updMedia_only _ _ (updGroup_only _ _ _ (only_refl _ _) (by decide)) (by decide)) h

theorem bindZoneFree_lasts {z : Nat} {shelf fresh : Bool} {o : RowOp} {t : State} (e : bindZoneFree z shelf fresh o s = some t)
    (h : P s) : P t := by
  have formed : ∀ {w u eg}, (if fresh = true then newGroup w true s else chooseGroup w true s) = some (eg, u) → P u := by
    intro w u eg k
    split at k
    · exact hP.quiet (newGroup_only2 _ _ (only_refl _ _) (by decide) k) h
    · exact hP.quiet (chooseGroup_only2 _ _ (only_refl _ _) (by decide) k) h
  unfold bindZoneFree at e
  split at e
  · cases e
  · split at e
    · cases e
    · split at e
      · cases e
        exact bindIn_lasts hP _ _ _ h
      · split at e
        · rename_i k
          cases e
          exact bindIn_lasts hP _ _ _ (hP.quiet (updZoneRec_only _ _ _ (only_refl _ _) (by decide)) (formed k))
        · split at e
          · split at e
            · rename_i k
              cases e
              exact bindIn_lasts hP _ _ _ (hP.quiet (shelfGroupFor_only2 _ _ (only_refl _ _) (by decide) k) h)
            · cases e
          · cases e

theorem bindConvFree_lasts {x lc : Nat} {gc shelf fresh : Bool} {o : RowOp} {t : State}
    (e : bindConvFree x lc gc shelf fresh o s = some t) (h : P s) : P t := by
  unfold bindConvFree at e
  split at e
  · cases e
  · dsimp only at e
    split at e
    · cases e
      exact bindIn_lasts hP _ _ _ h
    · split at e
      · rename_i k
        cases e
        exact bindIn_lasts hP _ _ _ (hP.quiet
          (updNs_only _ _ _ (newGroup_only2 _ _ (only_refl _ _) (by decide) k) (by decide)) h)
      · split at e
        · split at e
          · rename_i k
            cases e
            exact bindIn_lasts hP _ _ _ (hP.quiet (shelfGroupFor_only2 _ _ (only_refl _ _) (by decide) k) h)
          · cases e
        · cases e

theorem keepCopies_lasts (eg : Nat) (l : List (Nat × Loc × Stored)) (h : P s) : P (keepCopies eg l s) :=
  hP.quiet (keepCopies_only _ _ _ (only_refl _ _) (by decide)) h

theorem bindAll_lasts (eg : Nat) (g : Group) (n : Ns) (l : List (Nat × Loc × Stored)) (h : P s) :
    P (bindAll eg g n l s) := by
  unfold bindAll
  dsimp only
  split
  · refine forEach_invariant (fun zk t k => ?_) _ h
    split
    · exact keepCopies_lasts hP _ _ k
    · split
      · rename_i e
        exact bindZoneFree_lasts hP e k
      · exact keepCopies_lasts hP _ _ k
  · refine forEach_invariant (fun c t k => ?_) _ h
    split
    · rename_i e
      exact bindConvFree_lasts hP e k
    · exact keepCopies_lasts hP _ _ k

theorem bindCopies_lasts (eg : Nat) (h : P s) : P (bindCopies eg s) := by
  unfold bindCopies
  split
  · split
    · exact h
    · split
      · exact h
      · exact hP.quiet (submitRows_only _ _ (only_refl _ _) (by decide))
          (bindAll_lasts hP _ _ _ _ (hP.quiet (takeCopies_only _ _ (only_refl _ _) (by decide)) h))
  · exact h

theorem replaceRow_lasts (o : RowOp) (h : P s) : P (replaceRow o s) := by
  unfold replaceRow
  extract_lets units freed row o' back
  have hf : P freed := by
    refine forEach_invariant (fun p t k => ?_) _ h
    split
    · exact hP.quiet (updLanded_only _ _ _ (only_refl _ _) (by decide)) k
    · exact k
  have hb : P back := by
    unfold back
    split
    · exact hf
    · exact keepCopies_lasts hP _ _ hf
  split
  · exact hf
  · split
    · exact getD_invariant (fun t e => bindZoneFree_lasts hP e hf) hb
    · exact getD_invariant (fun t e => bindConvFree_lasts hP e hf) hb

theorem rowFailed_lasts (o : RowOp) (h : P s) : P (rowFailed o s) := by
  have closed : ∀ {t}, P t → P (closeIfDone o.eg t) := hP.quiet (closeIfDone_only _ _ (only_refl _ _) (by decide))
  refine closed (replaceRow_lasts hP o (hP.quiet (updGroup_only _ _ _ (countRow_only _ _ (dropRowOp_only _ _ _ ?_ ?_) ?_) ?_) h))
  · exact only_refl _ _
  all_goals decide

theorem programResult_lasts (eg row m : Nat) (pass : Bool) (h : P s) : P (programResult eg row m pass s) := by
  unfold programResult
  split
  · exact h
  · extract_lets o' marked
    have hm : P marked := by
      unfold marked
      split
      · split
        · exact h
        · exact hP.quiet (setBlock_only _ _ _ _ (only_refl _ _) (by decide)) h
      · exact h
    split
    · exact hP.quiet (updMedia_only _ _ (only_refl _ _) (by decide)) hm
    · split
      · exact rowFailed_lasts hP _ hm
      · exact hP.quiet (rowProgrammed_only _ _ (only_refl _ _) (by decide)) hm

/-! ### Reads that fail -/

theorem dropRead_lasts (id : Nat) (h : P s) : P (dropRead id s) := hP.queues _ (fun _ => rfl) h

theorem updRead_lasts (id : Nat) (f : RdOp → RdOp) (h : P s) : P (updRead id f s) := hP.queues _ (fun _ => rfl) h

theorem again_lasts (id : Nat) (f : RdOp → RdOp) (h : P s) : P (again id f s) := updRead_lasts hP _ _ h

theorem toStep_lasts (k : Nat) (r : RdOp) (h : P s) : P (toStep k r s) := by
  have counted : P (recDataErr (7 + k) 1 s) := hP.quiet (recDataErr_only _ _ _ (only_refl _ _) (by decide)) h
  unfold toStep
  dsimp only
  split
  · exact updRead_lasts hP _ _ counted
  · exact again_lasts hP _ _ counted

theorem uncorrectable_lasts (r : RdOp) (h : P s) : P (uncorrectable r s) := by
  have counted : P (refreshGroup r.loc.eg (recDataErr 7 1 s)) :=
    hP.quiet (refreshGroup_only _ _ (recDataErr_only _ _ _ (only_refl _ _) (by decide)) (by decide)) h
  have called : ∀ m, P (dropRead r.id (callWrite { refreshGroup r.loc.eg (recDataErr 7 1 s) with therm := m })) := fun m =>
    dropRead_lasts hP _ (hP.quiet (callWrite_only _ (only_therm _ (only_refl _ _) (by decide)) (by decide)) counted)
  unfold uncorrectable
  dsimp only
  split
  · exact failUnit_lasts hP _ _ (called _)
  · exact bindCopies_lasts hP _ (hP.quiet (updMedia_only _ _ (only_refl _ _) (by decide)) (called _))
  · exact called _
  · exact called _
  · exact failItem_lasts hP _ _ (called _)

theorem climb_lasts (r : RdOp) (h : P s) : P (climb r s) := by
  unfold climb
  split
  · exact dropRead_lasts hP _ h
  · split
    · split
      · split
        · exact toStep_lasts hP _ _ h
        · split <;> exact toStep_lasts hP _ _ h
      · exact uncorrectable_lasts hP _ h
    · split
      · split <;> exact toStep_lasts hP _ _ h
      · split
        · split
          · exact again_lasts hP _ _ h
          · exact toStep_lasts hP _ _ h
        · split
          · exact toStep_lasts hP _ _ h
          · exact uncorrectable_lasts hP _ h

theorem backFails_lasts (r : RdOp) (h : P s) : P (backFails r s) := by
  have counted : P (recDataErr 15 1 s) := hP.quiet (recDataErr_only _ _ _ (only_refl _ _) (by decide)) h
  unfold backFails backEnds
  split
  · exact dropRead_lasts hP _ counted
  · split
    · exact again_lasts hP _ _ counted
    · exact uncorrectable_lasts hP _ counted

theorem senseLost_lasts (n : Nat) (gone : Bool) (h : P s) : P (senseLost n gone s) := by
  unfold senseLost
  refine forEach_invariant (fun r t k => ?_) _ h
  split
  · exact backFails_lasts hP _ k
  · split
    · exact again_lasts hP _ _ k
    · exact climb_lasts hP _ k

end survives

end Sys2Proof.Machine
end

section
/-! SUPPORT. Nothing that was sent out is taken back when the engines start (R394). -/

namespace Sys2Proof.Machine

/-- Every group but what is sent out. -/
def unsent : List Part := .flash :: behind

section sent

variable {e : Emission} {s : State}

theorem sent_of_only {t : State} (h : Only unsent s t) (he : e ∈ s.emit) : e ∈ t.emit := by
  have k : t.emit = s.emit := h.same .emit (by decide)
  rw [k]
  exact he

/-! ### Members and dies lost -/

theorem zoneLosses_sent (z : Nat) (he : e ∈ s.emit) : e ∈ (zoneLosses z s).emit := by
  unfold zoneLosses
  split
  · exact he
  · dsimp only
    split
    · split
      · exact he
      · refine notifyZone_lasts (lasting_sent e) _ _ _ (sent_of_only ?_ he)
        exact tell_only _ _ _ _ (moveZone_only _ _ _ (only_refl _ _) (by decide)) (by decide)
    · exact he

theorem loseMember_sent (die : Nat) (slow : Bool) (eg : Nat) (he : e ∈ s.emit) : e ∈ (loseMember die slow eg s).emit := by
  unfold loseMember
  split
  · exact he
  · split
    · exact he
    · extract_lets cur lost placed
      have hp : e ∈ placed.emit := sent_of_only (only_forEach _ _ _ (updGroup_only _ _ _ (only_refl _ _) (by decide))
        fun i t k => substitute_only _ _ _ k (by decide)) he
      split
      · exact hp
      · exact forEach_invariant (P := fun t => e ∈ t.emit) (fun z t k => zoneLosses_sent z k) _ hp

theorem loseDie_sent (die : Nat) (slow : Bool) (he : e ∈ s.emit) : e ∈ (loseDie die slow s).emit :=
  forEach_invariant (P := fun t => e ∈ t.emit) (fun eg _ k => loseMember_sent die slow eg k) _ he

theorem opFails_sent (die : Nat) (he : e ∈ s.emit) : e ∈ (opFails die s).emit := by
  have lasts := lasting_sent e
  unfold opFails
  extract_lets ins cut ended idle
  have hc : e ∈ cut.emit := sent_of_only (updChan_only _ _ _ (only_refl _ _) (by decide)) he
  have hs : e ∈ ended.emit :=
    forEach_invariant (P := fun t => e ∈ t.emit) (fun d t k => programResult_lasts lasts _ _ _ _ k) _ hc
  split
  · exact hs
  · have hi : e ∈ idle.emit := sent_of_only (updDie_only _ _ _ (only_refl _ _) (by decide)) hs
    split
    · exact programResult_lasts lasts _ _ _ _ hi
    · exact sent_of_only (eraseResult_only _ _ _ _ (only_refl _ _) (by decide)) hi
    · exact hi

theorem dropRequests_sent (die : Nat) (he : e ∈ s.emit) : e ∈ (dropRequests die s).emit := by
  unfold dropRequests
  refine forEach_invariant (P := fun t => e ∈ t.emit) (fun q t k => ?_) _ he
  split
  · exact programResult_lasts (lasting_sent e) _ _ _ _ k
  · exact sent_of_only (eraseResult_only _ _ _ _ (only_refl _ _) (by decide)) k
  · exact k

theorem retireDie_sent (die : Nat) (he : e ∈ s.emit) : e ∈ (retireDie die s).emit := by
  unfold retireDie
  split
  · exact he
  · refine dropRequests_sent _ (opFails_sent _ ?_)
    refine forEach_invariant (P := fun t => e ∈ t.emit) (fun n t k => senseLost_lasts (lasting_sent e) _ _ k) _ ?_
    refine loseDie_sent _ _ (sent_of_only ?_ he)
    refine updFlash_only _ _ (updChan_only _ _ _ (updMedia_only _ _ (recEvent_only _ _ (updDie_only _ _ _ ?_ ?_) ?_) ?_) ?_) ?_
    · exact only_refl _ _
    all_goals decide

theorem applyMark_sent (die : Nat) (m : DieMark) (he : e ∈ s.emit) : e ∈ (applyMark die m s).emit := by
  have marked : ∀ f, e ∈ (updDie die f s).emit := fun f => sent_of_only (updDie_only _ _ _ (only_refl _ _) (by decide)) he
  unfold applyMark
  dsimp only
  split
  · exact retireDie_sent _ he
  · exact marked _
  · exact marked _
  · exact loseDie_sent _ _ (sent_of_only (recEvent_only _ _ (updMedia_only _ _ (only_refl _ _) (by decide)) (by decide)) (marked _))

theorem settleDies_sent (he : e ∈ s.emit) : e ∈ (settleDies s).emit := by
  unfold settleDies
  refine forEach_invariant (P := fun t => e ∈ t.emit) (fun p t k => ?_) _
    (forEach_invariant (P := fun t => e ∈ t.emit) (fun d t k => loseDie_sent d false k) _ he)
  dsimp only
  split
  · exact forEach_invariant (P := fun t => e ∈ t.emit) (fun d t k => retireDie_sent d k) _ k
  · split
    · exact forEach_invariant (P := fun t => e ∈ t.emit) (fun d t k => applyMark_sent d .slowRate k) _ k
    · exact k

/-! ### The maps are recovered -/

theorem replayRefuge_sent (he : e ∈ s.emit) : e ∈ (replayRefuge s).emit := by
  unfold replayRefuge
  extract_lets us bad l keep taken
  have ht : e ∈ taken.emit := sent_of_only (updMedia_only _ _ (only_refl _ _) (by decide)) he
  split
  · exact ht
  · refine setCritical_lasts (lasting_sent e) _ (sent_of_only ?_ ht)
    exact only_therm _ (callWrite_only _ (recDataErr_only _ _ _ (only_refl _ _) (by decide)) (by decide)) (by decide)

theorem erasedItems_sent (eg : Nat) (he : e ∈ s.emit) : e ∈ (erasedItems eg s).emit := by
  unfold erasedItems
  refine forEach_invariant (P := fun t => e ∈ t.emit) (fun it t k => ?_) _ he
  extract_lets left moved
  have hm : e ∈ moved.emit := sent_of_only (updItem_only _ _ _ (only_refl _ _) (by decide)) k
  split
  · refine finish_lasts (lasting_sent e) _ _ _ _ (sent_of_only ?_ hm)
    exact learnHeld_only _ _ (giveBackHeld_only _ _ (only_refl _ _) (by decide)) (by decide)
  · exact hm

theorem dissolve_sent (eg : Nat) (he : e ∈ s.emit) : e ∈ (dissolve eg s).emit := by
  unfold dissolve
  split
  · exact he
  · refine erasedItems_sent _ (sent_of_only ?_ he)
    refine only_when _ _ (updZone_only _ _ ?_ (by decide)) fun t k => ?_
    · split
      · refine refugeAgain_only _ _ (clearGroup_only _ _ (only_forEach _ _ _ (only_refl _ _) fun p t k => ?_) ?_) ?_
        · exact freeBlock_only _ _ _ _ _ k (by decide)
        all_goals decide
      · refine forgetGroup_only _ _ (updMedia_only _ _ (clearGroup_only _ _ (only_forEach _ _ _ (only_refl _ _) fun p t k => ?_) ?_) ?_) ?_
        · exact freeBlock_only _ _ _ _ _ k (by decide)
        all_goals decide
    · refine only_forEach _ _ _ (only_forEach _ _ _ k fun g u k => pendIfEmpty_only _ _ k (by decide)) fun g u k => ?_
      exact pendErase_only _ _ k (by decide)

theorem recoverErases_sent (he : e ∈ s.emit) : e ∈ (recoverErases s).emit := by
  unfold recoverErases
  refine forEach_invariant (P := fun t => e ∈ t.emit) (fun p t k => ?_) _ he
  refine when_invariant (P := fun t => e ∈ t.emit) _ (dissolve_sent _) (sent_of_only ?_ k)
  exact only_forEach _ _ _ (only_refl _ _) fun b u k => setBlock_only _ _ _ _ k (by decide)

theorem loseZone_sent (z : Nat) (he : e ∈ s.emit) : e ∈ (loseZone z s).emit := by
  unfold loseZone
  split
  · exact he
  · split
    · exact he
    · exact notifyZone_lasts (lasting_sent e) _ _ _ (sent_of_only (offlineZone_only _ _ (only_refl _ _) (by decide)) he)

theorem recEvent_sent (code : Nat) (he : e ∈ s.emit) : e ∈ (recEvent code s).emit :=
  sent_of_only (recEvent_only _ _ (only_refl _ _) (by decide)) he

theorem recoverLosses_sent (found : BootFind) (he : e ∈ s.emit) : e ∈ (recoverLosses found s).emit := by
  have critical : ∀ {t : State}, e ∈ t.emit → e ∈ (recEvent 0x18 (setCritical 2 t)).emit := fun k =>
    recEvent_sent _ (setCritical_lasts (lasting_sent e) _ k)
  unfold recoverLosses
  extract_lets nowhere mapped lost told
  have hl : e ∈ lost.emit := sent_of_only (only_forEach _ _ _ (only_forEach _ _ _ (only_refl _ _) fun p t k =>
    setPm_only _ _ _ _ k (by decide)) fun b t k => loseEntry_only _ _ k (by decide)) he
  have ht : e ∈ told.emit := when_invariant (P := fun t => e ∈ t.emit) _ critical hl
  unfold loseZones
  split
  · exact ht
  · exact critical (forEach_invariant (P := fun t => e ∈ t.emit) (fun z t k => loseZone_sent z k) _ ht)

theorem recoverMaps_sent (found : BootFind) (he : e ∈ s.emit) : e ∈ (recoverMaps found s).emit := by
  have replayed : e ∈ (replayRefuge (loadCheckpoint s)).emit :=
    replayRefuge_sent (sent_of_only (loadCheckpoint_only _ (only_refl _ _) (by decide)) he)
  have zones : ∀ l : List Nat, e ∈ (forEach l recoverZone (replayRefuge (loadCheckpoint s))).emit := fun l =>
    sent_of_only (only_forEach _ _ _ (only_refl _ _) fun z t k => recoverZone_only _ _ k (by decide)) replayed
  unfold recoverMaps
  dsimp only
  refine recoverLosses_sent _ (forEach_invariant (P := fun t => e ∈ t.emit) (fun z t k => zoneLosses_sent z k) _ ?_)
  exact sent_of_only (settleGroups_only _ (only_refl _ _) (by decide)) (recoverErases_sent (zones _))

/-! ### The engines start -/

theorem identifyTarget_sent (ch luns t : Nat) (he : e ∈ s.emit) : e ∈ (identifyTarget ch luns t s).emit := by
  have sent : ∀ {d a b} {u : State}, e ∈ u.emit → e ∈ (onfi d a b u).emit := fun k => (lasting_sent e).sent _ k
  refine sent (sent (forEach_invariant (P := fun u => e ∈ u.emit) (fun l u k => sent (sent k)) _ (sent he)))

theorem identifyFlash_sent (found : BootFind) (he : e ∈ s.emit) : e ∈ (identifyFlash found s).emit := by
  unfold identifyFlash
  dsimp only
  refine sent_of_only (recEvents_only _ _ _ (recEvents_only _ _ _ (recEvents_only _ _ _ (only_refl _ _) ?_) ?_) ?_)
    (forEach_invariant (P := fun t => e ∈ t.emit) (fun ch t k =>
      forEach_invariant (P := fun t => e ∈ t.emit) (fun g u j => identifyTarget_sent _ _ _ j) _ k) _ (sent_of_only
      (updFlash_only _ _ (only_free _ (updMedia_only _ _ (updZone_only _ _ (only_refl _ _) ?_) ?_) ?_) ?_) he))
  all_goals decide

theorem judgeWarnings_sent (he : e ∈ s.emit) : e ∈ (judgeWarnings s).emit := by
  have lasts := lasting_sent e
  unfold judgeWarnings
  refine sent_of_only (driveGpio_only _ (only_refl _ _) (by decide)) ?_
  refine forEach_invariant (P := fun t => e ∈ t.emit) (fun fn t k => ?_) _ ?_
  · unfold judgeFn
    split
    · exact k
    · extract_lets on judged
      have hj : e ∈ judged.emit := sent_of_only (updCtl_only _ _ _ (only_refl _ _) (by decide)) k
      split
      · exact notify_lasts lasts _ _ _ (sent_of_only (assertAlert_only _ (only_refl _ _) (by decide)) hj)
      · exact hj
  · split
    · exact setCritical_lasts lasts _ he
    · exact sent_of_only (clearCritical_only _ _ (only_refl _ _) (by decide)) he

theorem startCritical_sent (he : e ∈ s.emit) : e ∈ (startCritical s).emit := by
  have critical : ∀ {b : Nat} {t : State}, e ∈ t.emit → e ∈ (setCritical b t).emit := setCritical_lasts (lasting_sent e) _
  have noted : ∀ c b (t : State), e ∈ t.emit → e ∈ (when c (setCritical b) t).emit := fun c b t k =>
    when_invariant (P := fun t => e ∈ t.emit) c critical k
  unfold startCritical
  refine judgeWarnings_sent (noted _ _ _ (noted _ _ _ (noted _ _ _ ?_)))
  exact when_invariant (P := fun t => e ∈ t.emit) _ (fun k => critical (critical k)) he

theorem startRun_sent (he : e ∈ s.emit) : e ∈ (startRun s).emit := by
  unfold startRun
  refine sent_of_only (updMgmt_only _ _ (updFw_only _ _ (updPower_only _ _ (startFunctions_only _ (only_refl _ _) ?_) ?_) ?_)
    ?_) he
  all_goals decide

theorem startEngines_sent (found : BootFind) (he : e ∈ s.emit) : e ∈ (startEngines found s).emit := by
  unfold startEngines
  extract_lets rom run recovered critical
  have hr : e ∈ run.emit := by
    refine startRun_sent ?_
    split
    · exact he
    · exact identifyFlash_sent found he
  have hv : e ∈ recovered.emit := by
    unfold recovered
    split
    · exact hr
    · exact settleDies_sent (sent_of_only (resumeProgress_only _ (only_refl _ _) (by decide)) (recoverMaps_sent found hr))
  have hc : e ∈ critical.emit := startCritical_sent (sent_of_only (startPolicy_only _
    (startHoldup_only _ _ (only_refl _ _) (by decide)) (by decide)) hv)
  split
  · exact hc
  · exact sent_of_only (buildAreas_only _ (only_refl _ _) (by decide)) hc

end sent

end Sys2Proof.Machine
end

section
/-! SUPPORT. The cellar is entered by its owner, and left for the main firmware (R407 to R409). -/

namespace Sys2Proof.Machine

variable {s : State}

/-! ### The mailbox's reset -/

/-- No proposal is pending. -/
def NoneProposed (s : State) : Prop := s.prot.pending = []

theorem noneProposed_setEvent (b : Nat) (h : NoneProposed s) : NoneProposed (setEvent b s) := by
  have e : (setEvent b s).prot = s.prot :=
    (setEvent_only (ps := [.mbx, .emit]) b s (only_refl _ _) (by decide)).same .prot (by decide)
  unfold NoneProposed
  rw [e]
  exact h

theorem noneProposed_freeLatch (n : Nat) (h : NoneProposed s) : NoneProposed (freeLatch n s) := by
  unfold freeLatch
  dsimp only
  split
  · refine noneProposed_setEvent 7 ?_
    unfold NoneProposed at h ⊢
    exact (congrArg (List.filter _) h :)
  split
  · exact h
  · exact h

theorem noneProposed_abortWords (n : Nat) (h : NoneProposed s) : NoneProposed (abortWords n s) := by
  unfold abortWords
  exact noneProposed_setEvent 3 h

theorem noneProposed_emptying {f : State → State} (h : NoneProposed (f s)) : NoneProposed (emptying f s) := by
  unfold emptying
  dsimp only
  exact when_invariant _ (noneProposed_setEvent 1) h

theorem noneProposed_cellarMailboxReset (h : NoneProposed s) : NoneProposed (cellarMailboxReset s) := by
  unfold cellarMailboxReset
  dsimp only
  refine noneProposed_setEvent 4 (noneProposed_abortWords _ ?_)
  refine forEach_invariant (fun a t k => ?_) _ (noneProposed_emptying h)
  exact forEach_invariant (fun n u j => noneProposed_freeLatch n j) _ k

theorem freeLatch_sent {e : Emission} (n : Nat) (h : e ∈ s.emit) : e ∈ (freeLatch n s).emit := by
  unfold freeLatch
  dsimp only
  split
  · exact (setEvent_sends 7 _).mem h
  split
  · exact h
  · exact h

theorem abortWords_sent {e : Emission} (n : Nat) (h : e ∈ s.emit) : e ∈ (abortWords n s).emit := by
  unfold abortWords
  exact (setEvent_sends 3 _).mem h

theorem emptying_sent {e : Emission} {f : State → State} (h : e ∈ (f s).emit) : e ∈ (emptying f s).emit := by
  unfold emptying
  dsimp only
  exact when_invariant (P := fun t => e ∈ t.emit) _ (setEvent_sends 1 _).mem h

theorem cellarMailboxReset_sent {e : Emission} (h : e ∈ s.emit) : e ∈ (cellarMailboxReset s).emit := by
  unfold cellarMailboxReset
  dsimp only
  refine (setEvent_sends 4 _).mem (abortWords_sent _ ?_)
  refine forEach_invariant (P := fun t => e ∈ t.emit) (fun a t k => ?_) _ (emptying_sent h)
  exact forEach_invariant (P := fun t => e ∈ t.emit) (fun n u j => freeLatch_sent n j) _ k

/-! ### The owner's entry -/

/-- The device at an owner's entry, flushed and with nothing under way, before the ROM takes over. -/
def quieted (s : State) : State :=
  updFw (fun w => { w with staging := none, act := .none })
    (updProt (fun t => { t with claim := none }) (discardProposals (dropWork (cellarFlush s))))

theorem cellarEnter_enters (h : s.fw.cellar = false) :
    cellarEnter s = ownerReply 0x00 [] (enterCellar 3 (quieted s)) := by
  unfold cellarEnter
  simp only [h, Bool.false_eq_true, if_false]
  rfl

theorem quieted_only (s : State) :
    Only [.frame, .host, .zone, .media, .flash, .inst, .prot, .fw, .recd, .emit] s (quieted s) :=
  updFw_only _ _ (updProt_only _ _ (discardProposals_only _ (dropWork_only _ (cellarFlush_only _ (only_refl _ _)
    (by decide)) (by decide)) (by decide)) (by decide)) (by decide)

theorem quieted_prot (s : State) : NoneProposed (quieted s) ∧ (quieted s).prot.ownerKey = s.prot.ownerKey := by
  obtain ⟨u, e⟩ := discardProposals_empties (dropWork (cellarFlush s))
  have k : (dropWork (cellarFlush s)).prot = s.prot := (dropWork_only (ps := [.frame, .host, .zone, .media, .flash, .inst,
    .recd, .emit]) _ (cellarFlush_only _ (only_refl _ _) (by decide)) (by decide)).same .prot (by decide)
  unfold NoneProposed quieted
  rw [e]
  refine ⟨rfl, ?_⟩
  change (dropWork (cellarFlush s)).prot.ownerKey = s.prot.ownerKey
  rw [k]

theorem quieted_counter (s : State) : (quieted s).frame.counter = s.frame.counter := by
  obtain ⟨n, e⟩ := (cellarFlush_ticks s (sameFrame_refl s)).frame
  have k : Only [.host, .zone, .media, .flash, .prot, .fw] (cellarFlush s) (quieted s) :=
    updFw_only _ _ (updProt_only _ _ (discardProposals_only _ (dropWork_only _ (only_refl _ _) (by decide)) (by decide))
      (by decide)) (by decide)
  rw [k.same .frame (by decide), e]

theorem quieted_closed (s : State) : (quieted s).recd.closed = [] := by
  have k : Only [.host, .zone, .media, .flash, .prot, .fw] (cellarFlush s) (quieted s) :=
    updFw_only _ _ (updProt_only _ _ (discardProposals_only _ (dropWork_only _ (only_refl _ _) (by decide)) (by decide))
      (by decide)) (by decide)
  rw [k.same .recd (by decide)]
  rfl

theorem enterCellar_closed (cause : Nat) (s : State) : (enterCellar cause s).recd.closed = s.recd.closed := by
  have k : Only [.mbx, .host, .inst, .prot, .ecc, .emit] s (cellarCleared s) :=
    (cellarMailboxReset_only _ (only_refl _ _) (by decide)).trans ((cellarCleared_only s).mono (by decide))
  have recd : (cellarCleared s).recd = s.recd := k.same .recd (by decide)
  have e : (cellarCleared s).recd.closed = s.recd.closed := by rw [recd]
  unfold enterCellar
  dsimp only
  split <;> exact e

theorem cellarEnter_does {l : Sideband} (a : OwnerHeard s l) : Does (.cellarEnter l) s fun t => t.fw.cellar = true ∧
    t.fw.cellarCause = 3 ∧ t.power.boot = .running ∧ t.fw.running = 0 ∧ t.fw.staging = none ∧ t.prot.pending = [] ∧
    t.recd.closed = [] ∧ t.mbx.outQ = [] ∧ t.mbx.outst = [] ∧ t.mbx.devEpoch = s.mbx.devEpoch + 1 ∧
    .owner 0x00 [] ∈ t.emit ∧ t.frame.counter = s.frame.counter ∧ t.prot.ownerKey = s.prot.ownerKey := by
  have run := (ownerRow_next (c := .cellarEnter l) rfl a).trans
    (congrArg Host.Outcome.next (cellarEnter_enters (s := { s with emit := [] }) a.normal))
  have only := quieted_only { s with emit := [] }
  obtain ⟨none_, key⟩ := quieted_prot { s with emit := [] }
  have counter := quieted_counter { s with emit := [] }
  have closed := quieted_closed { s with emit := [] }
  have mailbox : (quieted { s with emit := [] }).mbx = s.mbx := only.same .mbx (by decide)
  have staging : (quieted { s with emit := [] }).fw.staging = none := rfl
  generalize quieted { s with emit := [] } = q at run none_ key counter closed mailbox staging
  have fw := enterCellar_fw 3 q
  have prot : (enterCellar 3 q).prot = (cellarMailboxReset q).prot := enterCellar_prot 3 q
  have mbx := enterCellar_mailbox 3 q
  obtain ⟨outQ, -, outst, epoch⟩ : _ ∧ _ ∧ _ ∧ _ := by simpa only [lines, Prod.mk.injEq] using lines_cellarMailboxReset q
  refine ⟨_, run, ?_, ?_, enterCellar_boot 3 q, ?_, ?_, ?_, ?_, ?_, ?_, ?_, ?_, ?_, ?_⟩
  · exact congrArg FwSt.cellar fw
  · exact congrArg FwSt.cellarCause fw
  · exact congrArg FwSt.running fw
  · exact (congrArg FwSt.staging fw).trans staging
  · exact (congrArg ProtSt.pending prot).trans (noneProposed_cellarMailboxReset none_)
  · exact (enterCellar_closed 3 q).trans closed
  · exact (congrArg MbxSt.outQ mbx).trans outQ
  · exact (congrArg MbxSt.outst mbx).trans outst
  · refine (congrArg MbxSt.devEpoch mbx).trans (epoch.trans ?_)
    rw [mailbox]
  · exact List.mem_append_right _ List.mem_cons_self
  · exact (congrArg FrameSt.counter (enterCellar_frame 3 q)).trans counter
  · exact (congrArg ProtSt.ownerKey prot).trans ((congrArg Prod.fst (keyAndBoots_cellarMailboxReset q)).trans key)

/-! ### The cellar is left -/

/-- The protected objects as the cellar is left with them. -/
def leavingProt (cause : Nat) (t : ProtSt) : ProtSt :=
  if cause = 4 then { manufactureProt t with
    copyA := true, copyB := true, seq := t.seq + 1
    slots := t.slots.filter fun p => decide (p.2.st ≠ .injected) } else t

/-- The device as it leaves the cellar, before its images are tried. -/
def leaving (s : State) : State :=
  updPower (fun p => { p with boot := .rom })
    (updFw (fun w => { w with cellar := false, cellarCause := 0, stagedAt := none })
      (cellarMailboxReset { s with prot := leavingProt s.fw.cellarCause s.prot }))

theorem leaveCellar_starts (found : BootFind) (s : State) : leaveCellar found s = startImages found (leaving s) := by
  unfold leaveCellar leaving leavingProt
  dsimp only
  split <;> rfl

theorem leaving_only (s : State) : Only [.mbx, .inst, .prot, .ecc, .fw, .power, .emit] s (leaving s) :=
  updPower_only _ _ (updFw_only _ _ (cellarMailboxReset_only _ (only_prot _ (only_refl _ _) (by decide)) (by decide))
    (by decide)) (by decide)

theorem leaving_fw (s : State) :
    (leaving s).fw = { s.fw with cellar := false, cellarCause := 0, stagedAt := none } := by
  have e : (cellarMailboxReset { s with prot := leavingProt s.fw.cellarCause s.prot }).fw = s.fw :=
    (cellarMailboxReset_only (ps := [.mbx, .inst, .prot, .ecc, .emit]) _ (only_refl _ _) (by decide)).same .fw (by decide)
  exact congrArg (fun w : FwSt => { w with cellar := false, cellarCause := 0, stagedAt := none }) e

theorem bootMain_sent {e : Emission} {found : BootFind} (n : Nat) (hm : mayStart found s = true) (h : e ∈ s.emit) :
    e ∈ (bootMain found n s).emit := by
  have only := mainReady_only n s
  have fw := mainReady_fw n s
  have may : mayStart found (mainReady n s) = true := (mayStart_congr fw.2.2.1 fw.2.2.2.1
    (only.same .media (by decide)) (only.same .flash (by decide))).trans hm
  have run : bootMain found n s = startEngines found (mainReady n s) := if_pos may
  rw [run]
  exact startEngines_sent found (sent_of_only (only.mono (by decide)) h)

/-- The main firmware runs once the cellar is left, where its first copy passes and reports ready. -/
theorem leaveCellar_runs {found : BootFind} {v : Verdict} (hp : tryPasses s found 0 = true)
    (hk : found.copies[0]? = some (v, true)) (hm : mayStart found s = true) :
    (leaveCellar found s).fw.cellar = false ∧ (leaveCellar found s).power.boot = .running ∧
    (leaveCellar found s).fw.running = s.fw.cfg.bootSlot ∧ (leaveCellar found s).mgmt.running = true ∧
    (leaveCellar found s).frame.counter = s.frame.counter ∧ ∀ e ∈ s.emit, e ∈ (leaveCellar found s).emit := by
  have only := leaving_only s
  have fw := leaving_fw s
  have passes : tryPasses (leaving s) found 0 = true :=
    (tryPasses_congr (by rw [fw]) (by rw [fw]) (by rw [fw]) (by rw [fw]) 0).trans hp
  have may : mayStart found (leaving s) = true := (mayStart_congr (by rw [fw]) (by rw [fw])
    (only.same .media (by decide)) (only.same .flash (by decide))).trans hm
  have run : leaveCellar found s = bootMain found (trySlot (leaving s) 0) (leaving s) :=
    (leaveCellar_starts found s).trans (tryImages_runs passes hk)
  obtain ⟨boot, mgmt, running, -, cellar, frame⟩ := bootMain_runs (trySlot (leaving s) 0) may
  have slot : trySlot (leaving s) 0 = s.fw.cfg.bootSlot := by
    unfold trySlot
    rw [fw]
    rfl
  have counter : (leaving s).frame = s.frame := only.same .frame (by decide)
  rw [run]
  refine ⟨cellar.trans (by rw [fw]), boot, running.trans slot, mgmt, frame.trans (by rw [counter]), fun e he => ?_⟩
  exact bootMain_sent _ may (cellarMailboxReset_sent he)

/-- An owner's request in the cellar reaches its own meaning. -/
theorem ownerRow_inCellar {c : Instr} {l : Sideband} {body : State → State} {x : Session}
    (hc : exec c s = act (ownerRow l body) s) (ho : ownerOpen s = true) (hg : gated s = false) (he : s.power.entry = none)
    (hx : sessionOn s l = some x) (ha : x.mutualAuth = true) : exec c s = .next (body { s with emit := [] }) := by
  refine hc.trans (congrArg Host.Outcome.next ?_)
  have open_ : ownerOpen { s with emit := [] } = true := ho
  have session : sessionOn { s with emit := [] } l = some x := hx
  unfold ownerRow ownerQuiet
  simp only [open_, session, ha, Bool.not_true, Bool.false_eq_true, if_false, if_true]
  exact ownerWakes_awake body hg he

theorem cellarExit_leaves {found : BootFind} (hc : s.fw.cellar = true) (hv : slotValid s 1 = true ∨ slotValid s 2 = true) :
    cellarExit found s = leaveCellar found (ownerReply 0x00 [] s) := by
  have valid : ¬((!slotValid s 1) = true ∧ (!slotValid s 2) = true) := by
    rintro ⟨h1, h2⟩
    rcases hv with h | h <;> simp [h] at h1 h2
  unfold cellarExit
  rw [if_neg (by simp [hc])]
  exact if_neg valid

/-- Settles O35: an owner's entry leaves the flushed device to the ROM, and both exits start the first copy that passes. -/
theorem cellarIsEnteredAndLeft : Obligations.CellarIsEnteredAndLeft := by
  unfold Obligations.CellarIsEnteredAndLeft
  refine fun s l found => ⟨cellarEnter_does, fun v hc hp hk hm => ⟨fun x ho hg he hx ha hv => ?exit,
    fun a hs hb hpin ht => ?auto⟩⟩
  case exit =>
    have e := cellarExit_leaves (s := { s with emit := [] }) (found := found) hc hv
    have passes : tryPasses (ownerReply 0x00 [] { s with emit := [] }) found 0 = true :=
      (tryPasses_congr (s := s) rfl rfl rfl rfl 0).trans hp
    have may : mayStart found (ownerReply 0x00 [] { s with emit := [] }) = true :=
      (mayStart_congr (s := s) rfl rfl rfl rfl).trans hm
    obtain ⟨cellar, boot, running, mgmt, counter, sent⟩ := leaveCellar_runs passes hk may
    have run := (ownerRow_inCellar (c := .cellarExit l found) (body := cellarExit found) rfl ho hg he hx ha).trans
      (congrArg Host.Outcome.next e)
    exact ⟨_, run, sent _ (List.mem_append_right _ List.mem_cons_self), cellar, boot, running, mgmt, counter⟩
  case auto =>
    have passes : tryPasses { s with emit := [] } found 0 = true := (tryPasses_congr (s := s) rfl rfl rfl rfl 0).trans hp
    have may : mayStart found { s with emit := [] } = true := (mayStart_congr (s := s) (t := { s with emit := [] }) rfl rfl rfl rfl).trans hm
    obtain ⟨cellar, boot, running, mgmt, counter, -⟩ := leaveCellar_runs passes hk may
    have due : cellarAutoExit found { s with emit := [] } = leaveCellar found { s with emit := [] } := by
      unfold cellarAutoExit
      simp [hs, hc, hpin, booted, hb, clk, ht]
    exact ⟨_, congrArg Host.Outcome.next due, cellar, boot, running, mgmt, counter⟩

end Sys2Proof.Machine
end

section
/-! SUPPORT. The planner lanes at the commit point, and a lane's reset (R55, R57). -/

namespace Sys2Proof.Machine

/-- A loop over different keys, each step of which changes what is seen at its own key alone. -/
theorem forEach_at {β : Type} {g : State → Nat → β} {step : β → β} {f : Nat → State → State}
    (self : ∀ k s, g (f k s) k = step (g s k)) (other : ∀ k j s, j ≠ k → g (f k s) j = g s j) {l : List Nat} (nd : l.Nodup)
    (s : State) (j : Nat) : g (forEach l f s) j = if j ∈ l then step (g s j) else g s j := by
  induction l generalizing s with
  | nil => rfl
  | cons k l ih =>
    obtain ⟨new, rest⟩ := List.nodup_cons.mp nd
    refine (ih rest (f k s)).trans ?_
    by_cases e : j = k
    · subst e
      rw [if_neg new, if_pos List.mem_cons_self, self]
    · rw [other k j s e]
      simp [e]

section lanes

variable {s : State}

theorem laneOf_setLane (k : Nat) (a : Lane) (s : State) : laneOf (setLane k a s) k = a := by
  simp [laneOf, setLane, updFrame, tabGetD]

theorem laneOf_setLane_ne {k j : Nat} (a : Lane) (h : j ≠ k) (s : State) : laneOf (setLane k a s) j = laneOf s j := by
  simp only [laneOf, setLane, updFrame, tabGetD, tabGet_set_ne _ a h]

/-- The slips of a lane and the frames it has slipped in a row. -/
def slipsAndRun (s : State) (l : Nat) : Nat × Nat := ((laneOf s l).slips, (laneOf s l).run)

theorem slipsAndRun_laneCommit (k : Nat) (s : State) :
    slipsAndRun (laneCommit k s) k = ((slipsAndRun s k).1, 0) := by
  unfold laneCommit slipsAndRun
  dsimp only
  rcases Bool.eq_false_or_eq_true (decide (0 < (laneOf s k).run) || (laneOf s k).slipped || (laneOf s k).since.isSome)
    with c | c
  · rw [when_of c, laneOf_setLane]
  · rw [when_not c]
    have idle : (laneOf s k).run = 0 := by simp_all
    rw [idle]

theorem slipsAndRun_laneCommit_ne (k j : Nat) (s : State) (h : j ≠ k) :
    slipsAndRun (laneCommit k s) j = slipsAndRun s j := by
  unfold laneCommit slipsAndRun when
  dsimp only
  split
  · rw [laneOf_setLane_ne _ h]
  · rfl

theorem slipsAndRun_laneSlip (k : Nat) (s : State) :
    slipsAndRun (laneSlip k s) k = (sat32 ((slipsAndRun s k).1 + 1), (slipsAndRun s k).2 + 1) := by
  have e := laneOf_setLane k { laneOf s k with
    slips := sat32 ((laneOf s k).slips + 1), run := (laneOf s k).run + 1, slipped := true
    since := some ((laneOf s k).since.getD (clk s))
    fault := (laneOf s k).fault || fired ((laneOf s k).since.getD (clk s)) 1000 (clk s) } s
  exact congrArg (fun a : Lane => (a.slips, a.run)) e

theorem slipsAndRun_laneSlip_ne (k j : Nat) (s : State) (h : j ≠ k) : slipsAndRun (laneSlip k s) j = slipsAndRun s j := by
  have e := laneOf_setLane_ne { laneOf s k with
    slips := sat32 ((laneOf s k).slips + 1), run := (laneOf s k).run + 1, slipped := true
    since := some ((laneOf s k).since.getD (clk s))
    fault := (laneOf s k).fault || fired ((laneOf s k).since.getD (clk s)) 1000 (clk s) } h s
  exact congrArg (fun a : Lane => (a.slips, a.run)) e

/-- What the commit point does to a lane that is not being rebuilt. -/
theorem slipsAndRun_commitLanes {late : List Nat} {l : Nat} (hl : l < 64) (hr : (laneOf s l).rebuild = 0) :
    slipsAndRun (commitLanes late s) l = if l ∈ late then (sat32 ((laneOf s l).slips + 1), (laneOf s l).run + 1)
      else ((laneOf s l).slips, 0) := by
  unfold commitLanes
  extract_lets slips committed slipped
  have counted : slipsAndRun (when (!slips.isEmpty) frameSlip slipped) l = slipsAndRun slipped l := by
    unfold when
    split
    · rfl
    · rfl
  have ended := forEach_at (step := fun a => (a.1, 0)) slipsAndRun_laneCommit slipsAndRun_laneCommit_ne (s := s) (j := l)
    ((List.nodup_range (n := 64)).filter fun l => !late.contains l && decide ((laneOf s l).rebuild = 0))
  have late_ := forEach_at (step := fun a => (sat32 (a.1 + 1), a.2 + 1)) slipsAndRun_laneSlip slipsAndRun_laneSlip_ne (s := committed) (j := l)
    ((List.nodup_range (n := 64)).filter fun l => late.contains l && decide ((laneOf s l).rebuild = 0))
  rw [counted]
  refine late_.trans ?_
  rw [show slipsAndRun committed l = _ from ended]
  by_cases h : l ∈ late <;> simp [h, hl, hr, slipsAndRun]

theorem planCommit_commits {late : List Nat} (hh : hallRuns s = true) (hc : s.frame.committed = false) :
    planCommit late s = updFlash (fun f => { f with seen := none })
      (updFrame (fun f => { f with committed := true, inputOpen := false }) (buildPlan (commitLanes late s))) := by
  unfold planCommit
  simp only [hh, hc, Bool.not_true, Bool.false_eq_true, or_self, if_false]

theorem planCommit_does (late : List Nat) (hh : hallRuns s = true) (hc : s.frame.committed = false) :
    Does (.planCommit late) s fun t => t.frame.committed = true ∧ t.frame.inputOpen = false ∧
      ∀ l, l < 64 → (laneOf s l).rebuild = 0 →
        (l ∈ late → (laneOf t l).slips = min ((laneOf s l).slips + 1) 0xFFFFFFFF ∧
          (laneOf t l).run = (laneOf s l).run + 1) ∧
        (l ∉ late → (laneOf t l).slips = (laneOf s l).slips ∧ (laneOf t l).run = 0) := by
  have run := planCommit_commits (s := { s with emit := [] }) (late := late) hh hc
  have lanes : ∀ {l : Nat}, l < 64 → (laneOf s l).rebuild = 0 → slipsAndRun (commitLanes late { s with emit := [] }) l = _ :=
    fun hl hr => slipsAndRun_commitLanes hl hr
  obtain ⟨n, frame⟩ := (buildPlan_ticks _ (sameFrame_refl (commitLanes late { s with emit := [] }))).frame
  generalize buildPlan (commitLanes late { s with emit := [] }) = b at run frame
  generalize commitLanes late { s with emit := [] } = c at lanes frame
  refine ⟨_, congrArg Host.Outcome.next run, rfl, rfl, fun l hl hr => ?_⟩
  have kept : b.frame.lanes = c.frame.lanes := by rw [frame]
  have same : laneOf (updFlash (fun f => { f with seen := none })
      (updFrame (fun f => { f with committed := true, inputOpen := false }) b)) l = laneOf c l :=
    congrArg (fun t : Tab Lane => tabGetD t l Lane.reset) kept
  have e := lanes hl hr
  rw [same]
  refine ⟨fun h => ?_, fun h => ?_⟩
  · rw [if_pos h] at e
    exact Prod.mk.inj e
  · rw [if_neg h] at e
    exact Prod.mk.inj e

/-! ### The reset of a lane -/

/-- A lane's plan entries are gone. -/
def Unplanned (l : Nat) (p : Tab PlanEntry) : Prop := ∀ x ∈ p, x.1 / 64 ≠ l

theorem requeue_lasts {P : State → Prop} (hP : Lasting P) (k : OpKind) (eg row m die : Nat) (h : P s) :
    P (requeue k eg row m die s) := by
  unfold requeue
  split
  · exact h
  · exact hP.queues _ (fun _ => rfl) h

theorem requeue_frame (k : OpKind) (eg row m die : Nat) (s : State) : (requeue k eg row m die s).frame = s.frame :=
  (requeue_only (ps := [.flash]) _ _ _ _ _ _ (only_refl _ _) (by decide)).same .frame (by decide)

/-- The lane's reset itself: its run has ended, it is rebuilt, and the plan stays. -/
theorem resetLane_resets {l : Nat} (hr : 16 ≤ (laneOf s l).run) : (laneOf (resetLane l s) l).run = 0 ∧
    1 ≤ (laneOf (resetLane l s) l).rebuild ∧ (laneOf (resetLane l s) l).rebuild ≤ 2 ∧
    (resetLane l s).frame.laneResets = s.frame.laneResets + 1 ∧ (resetLane l s).flash.plan = s.flash.plan := by
  have e : resetLane l s = updRec (fun r => { r with laneResets := sat16 (r.laneResets + 1) })
      (updFrame (fun f => { f with laneResets := f.laneResets + 1 }) (setLane l { laneOf s l with
        run := 0, slipped := false, rebuild := 1 + (drawNat s).1 % 2 } (drawNat s).2)) := if_neg (by omega)
  have lane : laneOf (resetLane l s) l = { laneOf s l with
      run := 0, slipped := false, rebuild := 1 + (drawNat s).1 % 2 } := by
    rw [e]
    exact laneOf_setLane _ _ _
  rw [lane]
  have bound := Nat.mod_lt (drawNat s).1 (Nat.zero_lt_two)
  refine ⟨rfl, Nat.le_add_right _ _, ?_, ?_, ?_⟩
  · dsimp only
    omega
  · rw [e]
    rfl
  · rw [e]
    rfl

theorem laneReset_does {l : Nat} (hl : l < 64) (hr : 16 ≤ (laneOf s l).run) : Does (.laneReset l) s fun t =>
    (laneOf t l).run = 0 ∧ 1 ≤ (laneOf t l).rebuild ∧ (laneOf t l).rebuild ≤ 2 ∧
    t.frame.laneResets = s.frame.laneResets + 1 ∧ ∀ p ∈ t.flash.plan, p.1 / 64 ≠ l := by
  refine ⟨laneReset l { s with emit := [] }, rfl, ?_⟩
  have due : ¬(64 ≤ l ∨ (laneOf { s with emit := [] } l).run < 16) := by
    have : (laneOf { s with emit := [] } l).run = (laneOf s l).run := rfl
    omega
  have lasts := lasting_plan (Unplanned l)
  unfold laneReset
  rw [if_neg due]
  dsimp only
  have reset := resetLane_resets (l := l) (s := updFlash (fun f => { f with
    plan := f.plan.filter fun p => decide (laneOfDie p.1 ≠ l) }) { s with emit := [] }) hr
  generalize resetLane l (updFlash (fun f => { f with
    plan := f.plan.filter fun p => decide (laneOfDie p.1 ≠ l) }) { s with emit := [] }) = c at reset ⊢
  obtain ⟨run, low, high, resets, plan⟩ := reset
  have cleared : Unplanned l c.flash.plan := fun x hx => by
    rw [plan] at hx
    exact of_decide_eq_true (List.mem_filter.mp hx).2
  suffices after : ∀ t, SameFrame c t ∧ Unplanned l t.flash.plan → (laneOf t l).run = 0 ∧ 1 ≤ (laneOf t l).rebuild ∧
      (laneOf t l).rebuild ≤ 2 ∧ t.frame.laneResets = s.frame.laneResets + 1 ∧ ∀ p ∈ t.flash.plan, p.1 / 64 ≠ l from
    after _ (forEach_invariant (P := fun t => SameFrame c t ∧ Unplanned l t.flash.plan) (fun p t k => ?_) _
      ⟨sameFrame_refl c, cleared⟩)
  · obtain ⟨frame, gone⟩ := k
    split
    · exact ⟨senseLost_ticks _ _ _ frame, senseLost_lasts lasts _ _ gone⟩
    · exact ⟨senseLost_ticks _ _ _ frame, senseLost_lasts lasts _ _ gone⟩
    · exact ⟨sameFrame_mk (requeue_frame _ _ _ _ _ _) frame, requeue_lasts lasts _ _ _ _ _ gone⟩
    · exact ⟨sameFrame_mk (requeue_frame _ _ _ _ _ _) frame, requeue_lasts lasts _ _ _ _ _ gone⟩
    · exact ⟨frame, gone⟩
  · rintro t ⟨⟨n, frame⟩, gone⟩
    have same : laneOf t l = laneOf c l := by
      unfold laneOf
      rw [frame]
    rw [same, frame]
    exact ⟨run, low, high, resets, gone⟩

/-- Settles O10: a loop over lanes at the commit point, and a reset whose lost reads and programs leave the plan alone. -/
theorem plannerLanesCommitSlipAndReset : Obligations.PlannerLanesCommitSlipAndReset := by
  unfold Obligations.PlannerLanesCommitSlipAndReset
  exact fun s => ⟨planCommit_does, fun l => laneReset_does⟩

end lanes

end Sys2Proof.Machine
end

section
/-! SUPPORT. The frames elapsed through a frame pulse, and the reads of the frame counter (R41, R44, R45, R47). -/

namespace Sys2Proof.Machine

/-- The frames elapsed, and whether frame 0 has begun. -/
def AtTime (k : Nat) (b : Bool) (s : State) : Prop := s.frame.elapsed = k ∧ s.frame.started = b

section time

variable {k : Nat} {b : Bool} {s t : State}

/-- An operation that changes the frame state in its count of ties alone. -/
theorem atTime_of_ticks (e : SameFrame s s → SameFrame s t) (h : AtTime k b s) : AtTime k b t := by
  obtain ⟨n, frame⟩ := (e (sameFrame_refl s)).frame
  unfold AtTime
  rw [frame]
  exact h

/-- An operation that leaves the frame state alone. -/
theorem atTime_of_only (e : Only noFrame s t) (h : AtTime k b s) : AtTime k b t :=
  atTime_of_ticks (sameFrame_of e) h

theorem updShelf_atTime (f : Shelf → Shelf) (h : AtTime k b s) : AtTime k b (updShelf f s) := h

theorem trackPhase_atTime (phase : Int) (h : AtTime k b s) : AtTime k b (trackPhase phase s) := by
  unfold trackPhase
  dsimp only
  (repeat' split) <;> exact h

/-! ### Timeouts -/

theorem holdover_atTime (h : AtTime k b s) : AtTime k b (holdover s) := by
  unfold holdover
  split
  · exact h
  · exact when_invariant _ (updShelf_atTime _) h

theorem noteRowTie_atTime (l : List Landed) (h : AtTime k b s) : AtTime k b (noteRowTie l s) := by
  unfold noteRowTie noteTie
  split
  · exact when_invariant (P := AtTime k b) _ (fun j => j) h
  · exact h

theorem blockNs_atTime (x : Nat) (on : Bool) (h : AtTime k b s) : AtTime k b (blockNs x on s) :=
  atTime_of_only (blockNs_only _ _ _ (only_refl _ _) (by decide)) h

theorem dispatchZone_atTime (x : Nat) (n : Ns) (first : Nat) (waited : Bool) (h : AtTime k b s) :
    AtTime k b (dispatchZone x n first waited s) := by
  unfold dispatchZone
  split
  · exact h
  dsimp only
  split
  · exact blockNs_atTime _ _ h
  case h_2 t ht =>
    have bound : AtTime k b t := atTime_of_ticks (fun j => bindZoneRow_ticks2 _ _ _ _ j ht) h
    refine blockNs_atTime _ _ (noteRowTie_atTime _ (when_invariant _ (fun j => ?_) bound))
    exact atTime_of_only (updAmp_only _ _ _ (only_refl _ _) (by decide)) j

theorem dispatchConv_atTime (x : Nat) (n : Ns) (lc : Nat) (waited : Bool) (h : AtTime k b s) :
    AtTime k b (dispatchConv x n lc waited s) := by
  unfold dispatchConv
  split
  · exact h
  dsimp only
  split
  · exact blockNs_atTime _ _ h
  case h_2 t ht =>
    exact blockNs_atTime _ _ (noteRowTie_atTime _ (atTime_of_ticks (fun j => bindConvRow_ticks2 _ _ _ j ht) h))

theorem dispatchRow_atTime (x first : Nat) (waited : Bool) (h : AtTime k b s) :
    AtTime k b (dispatchRow x first waited s) := by
  have ready : AtTime k b (noteReady s) := atTime_of_only (noteReady_only _ (only_refl _ _) (by decide)) h
  unfold dispatchRow
  split
  · exact h
  dsimp only
  split
  · exact ready
  split
  · exact ready
  split
  · exact dispatchZone_atTime _ _ _ _ ready
  · exact dispatchConv_atTime _ _ _ _ ready

theorem entryAbort_atTime (h : AtTime k b s) : AtTime k b (entryAbort s) := by
  have aborted : ∀ e code, AtTime k b (abortEntry e code s) := fun e code =>
    atTime_of_ticks (s := updFrame (fun f => { f with admission := false }) (updPower (fun p => { p with entry := none }) s))
      (refuseEntry_ticks _ _ _ _ _) h
  unfold entryAbort
  split
  · exact h
  split
  · exact h
  split
  · exact aborted _ _
  split
  · exact aborted _ _
  · exact h

theorem timeouts_atTime (h : AtTime k b s) : AtTime k b (timeouts s) := by
  unfold timeouts
  refine entryAbort_atTime (atTime_of_ticks (idleExpiry_ticks _) ?_)
  refine forEach_invariant (fun p t j => atTime_of_only (aggregationExpiry_only _ _ _ (only_refl _ _) (by decide)) j) _ ?_
  refine forEach_invariant (fun d t j => atTime_of_ticks (statusTimeout_ticks _ _) j) _ ?_
  refine atTime_of_ticks (stuckSensors_ticks _) (atTime_of_only (trackerWindowEnd_only _ (only_refl _ _) (by decide)) ?_)
  refine when_invariant _ (fun j => atTime_of_only (expireClaim_only _ (only_refl _ _) (by decide))
    (forEach_invariant (fun c t i => atTime_of_only (expireProposal_only _ _ (only_refl _ _) (by decide)) i) _ j)) ?_
  refine when_invariant _ (updShelf_atTime _) (when_invariant _ (updShelf_atTime _) (holdover_atTime ?_))
  refine forEach_invariant (fun p t j => dispatchRow_atTime _ _ true j) _ ?_
  refine when_invariant _ (atTime_of_ticks (holdExpiry_ticks _)) ?_
  exact forEach_invariant (fun i t j => atTime_of_ticks (lifetimeExpiry_ticks _ _) j) _ h

/-! ### Minutes -/

theorem freezeMinute_atTime (extra : MFlags) (at_ : Nat) (h : AtTime k b s) : AtTime k b (freezeMinute extra at_ s) := by
  have counted : ∀ {t}, AtTime k b t → AtTime k b (freezeSlips t) := fun j =>
    atTime_of_only (boardWrite_only _ _ _ (only_refl _ _) (by decide)) j
  unfold freezeMinute
  refine atTime_of_only (commitAges_only _ (only_refl _ _) (by decide)) (counted ?_)
  exact atTime_of_only (freezePlacement_only (ps := noFrame) _ (updInst_only _ _ (only_refl _ _) (by decide)) (by decide)) h

theorem passMinutes_atTime (n at_ rem : Nat) (h : AtTime k b s) : AtTime k b (passMinutes n at_ rem s) := by
  induction n generalizing at_ rem s with
  | zero => exact h
  | succ n ih =>
    have metered : ∀ j, AtTime k b (meterPassed j s) := fun j =>
      atTime_of_only (meterPassed_only _ _ (only_refl _ _) (by decide)) h
    unfold passMinutes
    dsimp only
    split
    · exact ih _ _ (freezeMinute_atTime _ _ (metered _))
    · exact metered _

theorem passedWork_atTime (h : AtTime k b s) : AtTime k b (passedWork s) := by
  unfold passedWork
  dsimp only
  split
  · exact h
  · exact timeouts_atTime (atTime_of_only (passPeriods_only _ _ (only_refl _ _) (by decide)) (passMinutes_atTime _ _ _ h))

/-! ### The boundary -/

theorem increment_atTime (h : AtTime k true s) : AtTime (k + 1) true (increment s) := by
  unfold increment
  rw [if_pos h.2]
  exact ⟨congrArg (· + 1) h.1, h.2⟩

theorem increment_begins (h : s.frame.started = false) : AtTime 0 true (increment s) := by
  unfold increment
  rw [h]
  exact ⟨rfl, rfl⟩

theorem shelfStep_atTime (h : AtTime k b s) : AtTime k b (shelfStep s) := by
  unfold shelfStep
  split
  · exact h
  · dsimp only
    split
    · exact h
    · exact atTime_of_only (recEvent_only _ _ (updRec_only _ _ (only_refl _ _) (by decide)) (by decide)) h

/-- The work of a boundary before the counter moves. -/
theorem beforeCount_atTime (phase : Int) (h : AtTime k b s) :
    AtTime k b (countFrame (pauseItems (trackPhase phase (passedWork (busClose s))))) := by
  refine atTime_of_only (countFrame_only _ (pauseItems_only _ (only_refl _ _) (by decide)) (by decide)) ?_
  exact trackPhase_atTime _ (passedWork_atTime (atTime_of_only (busClose_only _ (only_refl _ _) (by decide)) h))

/-- The work of a boundary once the counter has moved. -/
theorem afterCount_atTime (cut : Bool) (last : Nat) (h : AtTime k b s) :
    AtTime k b (noteMeters (periodEnd cut last (minuteEnd cut (meterSample s)))) := by
  have sampled : AtTime k b (meterSample s) := atTime_of_only (meterSample_only _ (only_refl _ _) (by decide)) h
  refine atTime_of_only (noteMeters_only _ (periodEnd_only _ _ _ (only_refl _ _) (by decide)) (by decide)) ?_
  unfold minuteEnd
  split
  · exact sampled
  · exact freezeMinute_atTime _ _ sampled

theorem countBoundary_atTime (phase : Int) (h : AtTime k true s) : AtTime (k + 1) true (countBoundary phase s) :=
  afterCount_atTime _ _ (shelfStep_atTime (increment_atTime (beforeCount_atTime phase h)))

theorem countBoundary_begins (phase : Int) (h : s.frame.started = false) : AtTime 0 true (countBoundary phase s) :=
  afterCount_atTime _ _ (shelfStep_atTime (increment_begins (beforeCount_atTime phase ⟨rfl, h⟩).2))

theorem endFrame_atTime (h : AtTime k b s) : AtTime k b (endFrame s) := h

theorem applyCfg_atTime (h : AtTime k b s) : AtTime k b (applyCfg s) := by
  unfold applyCfg
  split
  · exact h
  · exact updShelf_atTime _ (atTime_of_only (applyThermal_only _ _ (updFw_only _ _ (only_refl _ _) (by decide)) (by decide)) h)

theorem applyDue_atTime (h : AtTime k b s) : AtTime k b (applyDue s) := by
  unfold applyDue
  refine atTime_of_only (resumeAfterExpiry_only _ (resumeFetch_only _ (goLives_only _ (only_refl _ _) (by decide)) (by decide))
    (by decide)) (atTime_of_ticks (applyMarks_ticks _) (applyCfg_atTime ?_))
  refine atTime_of_ticks (applyPsDue_ticks _) (atTime_of_ticks (applyLb_ticks _) ?_)
  refine atTime_of_only (applyPolicy_only _ (only_refl _ _) (by decide)) ?_
  refine atTime_of_ticks (startActivation_ticks _) (atTime_of_ticks (finishHold_ticks _) ?_)
  refine atTime_of_ticks (applySteps_ticks _) (atTime_of_only (applyShares_only _ (only_refl _ _) (by decide)) ?_)
  exact atTime_of_ticks (applyProtection_ticks _) h

theorem resetLane_atTime (l : Nat) (h : AtTime k b s) : AtTime k b (resetLane l s) := by
  unfold resetLane
  dsimp only
  split
  · exact h
  · exact h

theorem laneReset_atTime (l : Nat) (h : AtTime k b s) : AtTime k b (laneReset l s) := by
  unfold laneReset
  split
  · exact h
  · dsimp only
    refine forEach_invariant (fun p t j => ?_) _ (resetLane_atTime _ h)
    split
    · exact atTime_of_ticks (senseLost_ticks _ _ _) j
    · exact atTime_of_ticks (senseLost_ticks _ _ _) j
    · exact atTime_of_only (requeue_only _ _ _ _ _ _ (only_refl _ _) (by decide)) j
    · exact atTime_of_only (requeue_only _ _ _ _ _ _ (only_refl _ _) (by decide)) j
    · exact j

theorem openFrame_atTime (h : AtTime k b s) : AtTime k b (openFrame s) := by
  have published : AtTime k b (publish (resetLanes (rebuildLanes s))) :=
    atTime_of_only (publish_only _ (only_refl _ _) (by decide))
      (forEach_invariant (fun l t j => laneReset_atTime l j) _ (s := rebuildLanes s) h)
  exact published

/-- What follows the count at a boundary leaves the time as the count left it. -/
theorem boundary_atTime (phase : Int) (h : AtTime k b (countBoundary phase s)) : AtTime k b (boundary phase s) := by
  have due : AtTime k b (timeouts (applyDue (endFrame (countBoundary phase s)))) :=
    timeouts_atTime (applyDue_atTime (endFrame_atTime h))
  unfold boundary
  dsimp only
  split
  · exact due
  · exact openFrame_atTime (atTime_of_only (refill_only _ (beginWork_only _ (scrubFrame_only _ (only_refl _ _) (by decide))
      (by decide)) (by decide)) due)

/-- On a device that runs and is not gated a pulse is an increment under a flush, and else a boundary. -/
theorem framePulse_runs (phase : Int) (hb : booted s = true) (hg : gated s = false) :
    framePulse phase s = if flushing s = true then increment s else boundary phase s := by
  have started : hallStarted s = false := by
    have running : s.power.boot = .running := by simpa [booted] using hb
    simp [hallStarted, running]
  unfold framePulse
  simp only [hb, hg, started, Bool.false_eq_true, and_false, if_false, if_true]

theorem framePulse_advances (phase : Int) (hb : booted s = true) (hg : gated s = false) (ht : s.frame.shelf.stepTo = none)
    (hs : s.frame.started = true) : (framePulse phase s).frame.counter = (s.frame.counter + 1) % 2 ^ 64 ∧
    (framePulse phase s).frame.elapsed = s.frame.elapsed + 1 := by
  have next : nextCount s.frame = (s.frame.counter + 1) % 2 ^ 64 := by simp [nextCount, hs]
  have at_ : boundaryCount s.frame = nextCount s.frame := by simp [boundaryCount, ht]
  rw [framePulse_runs phase hb hg]
  split
  · exact ⟨(increment_counter s).trans next, (increment_atTime ⟨rfl, hs⟩).1⟩
  · exact ⟨((boundary_counter phase s).trans at_).trans next,
      (boundary_atTime phase (countBoundary_atTime phase ⟨rfl, hs⟩)).1⟩

theorem framePulse_begins (phase : Int) (hb : booted s = true) (hg : gated s = false) (ht : s.frame.shelf.stepTo = none)
    (hs : s.frame.started = false) : (framePulse phase s).frame.counter = 0 ∧
    AtTime 0 true (framePulse phase s) := by
  have next : nextCount s.frame = 0 := by simp [nextCount, hs]
  have at_ : boundaryCount s.frame = nextCount s.frame := by simp [boundaryCount, ht]
  rw [framePulse_runs phase hb hg]
  split
  · exact ⟨(increment_counter s).trans next, increment_begins hs⟩
  · exact ⟨((boundary_counter phase s).trans at_).trans next, boundary_atTime phase (countBoundary_begins phase hs)⟩

/-! ### The reads of the counter -/

theorem read4_frameCount (p : Pf) (hg : gated s = false) : read4 p 0x10 s = (s.frame.counter % 2 ^ 32, setShadow p s) := by
  unfold read4
  rw [hg]
  rfl

theorem windowRead_frameCount (p : Pf) (hg : gated s = false) :
    windowRead p 0x10 8 s = (s.frame.counter, setShadow p s) := by
  unfold windowRead
  simp [hg]

end time

/-- Settles O8: the pulse through its boundary, whose every part but the count leaves the time, and the two reads. -/
theorem frameCounterAdvancesAndIsRead : Obligations.FrameCounterAdvancesAndIsRead := by
  unfold Obligations.FrameCounterAdvancesAndIsRead
  refine ⟨fun s phase hb hg ht => ⟨fun hs => ?_, fun hs => ?_⟩, fun s p hg => ⟨?_, ?_⟩⟩
  · exact ⟨_, rfl, framePulse_advances (s := { s with emit := [] }) phase hb hg ht hs⟩
  · exact ⟨_, rfl, framePulse_begins (s := { s with emit := [] }) phase hb hg ht hs⟩
  · exact congrArg (fun r => Host.Outcome.next (answer r)) (read4_frameCount (s := { s with emit := [] }) p hg)
  · exact congrArg (fun r => Host.Outcome.next (answer r)) (windowRead_frameCount (s := { s with emit := [] }) p hg)

end Sys2Proof.Machine
end

section
/-! SUPPORT. The minute and the record period that have ended (R51, R357, R477). -/

namespace Sys2Proof.Machine

variable {s : State}

/-! ### The minute -/

/-- A minute's freeze of the counters, before the placement's and the slips'. -/
def frozen (extra : MFlags) (at_ : Nat) (s : State) : State :=
  updInst (fun i => { i with
    holders := tabMap (fun fn h =>
      if meteredNow s fn ∨ h.flags.destroyed then freezeHolder s (minuteNow s) extra fn h else h) i.holders
    minuteFrom := at_, batchDue := true }) s

theorem freezeMinute_eq (extra : MFlags) (at_ : Nat) (s : State) :
    freezeMinute extra at_ s = commitAges (freezeSlips (freezePlacement (frozen extra at_ s))) := rfl

theorem frozen_holder {fn : Nat} {h : Holder} (extra : MFlags) (at_ : Nat) (hh : tabGet s.inst.holders fn = some h)
    (hm : meteredNow s fn = true) :
    tabGet (frozen extra at_ s).inst.holders fn = some (freezeHolder s (minuteNow s) extra fn h) := by
  unfold frozen updInst
  dsimp only
  rw [tabGet_map, hh]
  exact congrArg some (if_pos (.inl hm))

theorem freezeMinute_inst (extra : MFlags) (at_ : Nat) (s : State) :
    (freezeMinute extra at_ s).inst = (frozen extra at_ s).inst := by
  have k : Only [.frame, .mbx, .media, .flash] (frozen extra at_ s)
      (commitAges (freezeSlips (freezePlacement (frozen extra at_ s)))) :=
    commitAges_only _ (freezeSlips_only _ (freezePlacement_only _ (only_refl _ _) (by decide)) (by decide)) (by decide)
  rw [freezeMinute_eq]
  exact k.same .inst (by decide)

theorem freezeMinute_slips (extra : MFlags) (at_ : Nat) (s : State) :
    (freezeMinute extra at_ s).frame.lastMinuteSlips = s.frame.minuteSlips ∧
    (freezeMinute extra at_ s).frame.minuteSlips = 0 := by
  have k : ∀ t, (commitAges (freezeSlips t)).frame = { t.frame with
      lastMinuteSlips := t.frame.minuteSlips, minuteSlips := 0 } := fun t =>
    (boardWrite_only (ps := [.mbx]) 4 (sat32 t.frame.minuteSlips)
      (updFrame (fun f => { f with lastMinuteSlips := f.minuteSlips, minuteSlips := 0 }) t)
      (only_refl _ _) (by decide)).same .frame (by decide)
  rw [freezeMinute_eq, k]
  exact ⟨rfl, rfl⟩

theorem minuteBoundary_freezes (hm : s.frame.counter / 30000000 ≠ s.inst.minuteFrom / 30000000) (hc : ctrlRuns s = true) :
    when (ctrlRuns s) (minuteEnd false) s =
      freezeMinute { mflagsZero with step := false } (s.frame.counter / framesPerMinute * framesPerMinute) s := by
  rw [when_of hc]
  exact if_neg hm

theorem minuteBoundary_does (hc : ctrlRuns s = true) (hm : s.frame.counter / 30000000 ≠ s.inst.minuteFrom / 30000000) :
    Does .minuteBoundary s fun t =>
      t.inst.minuteFrom = s.frame.counter / 30000000 * 30000000 ∧ t.inst.batchDue = true ∧
      t.frame.lastMinuteSlips = s.frame.minuteSlips ∧ t.frame.minuteSlips = 0 ∧
      ∀ fn h, tabGet s.inst.holders fn = some h → meteredNow s fn = true →
        ∃ k r, tabGet t.inst.holders fn = some k ∧ k.live = meterZero ∧ k.last = some r ∧ r.m = h.live ∧
          r.inst = fn ∧ r.minute = s.inst.minuteFrom / 30000000 := by
  refine ⟨_, congrArg Host.Outcome.next (minuteBoundary_freezes (s := { s with emit := [] }) hm hc), ?_⟩
  obtain ⟨last, zero⟩ := freezeMinute_slips { mflagsZero with step := false }
    (s.frame.counter / framesPerMinute * framesPerMinute) { s with emit := [] }
  have inst := freezeMinute_inst { mflagsZero with step := false }
    (s.frame.counter / framesPerMinute * framesPerMinute) { s with emit := [] }
  refine ⟨congrArg InstSt.minuteFrom inst, congrArg InstSt.batchDue inst, last, zero, fun fn h hh hn => ?_⟩
  refine ⟨freezeHolder { s with emit := [] } (s.inst.minuteFrom / framesPerMinute) { mflagsZero with step := false } fn h, _,
    ?_, rfl, rfl, rfl, rfl, rfl⟩
  rw [inst]
  exact frozen_holder (s := { s with emit := [] }) _ _ hh hn

/-! ### The record period -/

theorem closeRecord_recd (last : Nat) (mark : RFlags → RFlags) (s : State) :
    (closeRecord last mark s).recd.since.nextRecno = s.recd.since.nextRecno ∧
    ∃ r, (closeRecord last mark s).recd.closed = s.recd.closed ++ [r] ∧ r.recno = s.recd.cur.recno ∧
      r.first = s.recd.cur.first ∧ r.last = last := by
  have posted : ∀ n v t, (boardWrite n v t).recd = t.recd := fun n v t =>
    (boardWrite_only (ps := [.mbx]) n v t (only_refl _ _) (by decide)).same .recd (by decide)
  unfold closeRecord
  dsimp only
  rw [posted]
  exact ⟨rfl, _, rfl, rfl, rfl, rfl⟩

theorem periodEnd_turns (last : Nat) (hp : s.frame.counter / 1800000000 ≠ s.recd.cur.first / 1800000000)
    (hl : s.recd.closed.length < 63) : periodEnd false last s =
      openRecord (s.frame.counter / recordPeriod * recordPeriod) (closeRecord last (markStep false) s) := by
  unfold periodEnd
  exact (if_neg hp).trans (if_neg (Nat.not_le.mpr hl))

theorem periodEnd_folds (last : Nat) (hp : s.frame.counter / 1800000000 ≠ s.recd.cur.first / 1800000000)
    (hl : 63 ≤ s.recd.closed.length) : periodEnd false last s =
      updRec (fun r => { r with flags := { r.flags with folded := true } }) s := by
  unfold periodEnd
  exact (if_neg hp).trans (if_pos hl)

/-- Settles O11: the freeze of a metered holder's counters, and the open record closed or folded. -/
theorem minuteAndRecordPeriodsEnd : Obligations.MinuteAndRecordPeriodsEnd := by
  unfold Obligations.MinuteAndRecordPeriodsEnd
  refine fun s hc => ⟨minuteBoundary_does hc, fun hp hl => ?turns, fun hp hl => ?folds⟩
  case turns =>
    have run : when (ctrlRuns { s with emit := [] }) (periodEnd false (s.frame.counter - 1)) { s with emit := [] } = _ :=
      (when_of hc _ _).trans (periodEnd_turns (s := { s with emit := [] }) _ hp hl)
    obtain ⟨next, closed⟩ := closeRecord_recd (s.frame.counter - 1) (markStep false) { s with emit := [] }
    exact ⟨_, congrArg Host.Outcome.next run, closed, next, congrArg (· + 1) next, rfl⟩
  case folds =>
    have run : when (ctrlRuns { s with emit := [] }) (periodEnd false (s.frame.counter - 1)) { s with emit := [] } = _ :=
      (when_of hc _ _).trans (periodEnd_folds (s := { s with emit := [] }) _ hp hl)
    exact ⟨_, congrArg Host.Outcome.next run, rfl, rfl, rfl⟩

end Sys2Proof.Machine
end

section
/-! SUPPORT. Controllers and ports that are reset and enabled (R94, R123, R329, R347). -/

namespace Sys2Proof.Machine

variable {s t : State}

/-! ### What closing zones leaves of the host's state -/

/-- A controller but for its count of active zones, and whether its zones are yet to close. -/
def Ctl.beside (c : Ctl) : Ctl := { c with azones := 0, closing := false }

/-- The tag table, the ports and each controller but for what closing zones changes. -/
def besideZones (s : State) : List Item × Port × Port × (Nat → Option Ctl) :=
  (s.host.items, s.host.port0, s.host.port1, fun fn => (ctlOf s fn).map Ctl.beside)

theorem besideZones_of_host (h : t.host = s.host) : besideZones t = besideZones s := by
  unfold besideZones ctlOf
  rw [h]

theorem besideZones_of_only (h : Only [.zone, .media, .flash] s t) : besideZones t = besideZones s :=
  besideZones_of_host (h.same .host (by decide))

theorem besideZones_updCtl (fn : Nat) {f : Ctl → Ctl} (hf : ∀ c, (f c).beside = c.beside) (s : State) :
    besideZones (updCtl fn f s) = besideZones s := by
  have ctls : (fun k => (ctlOf (updCtl fn f s) k).map Ctl.beside) = fun k => (ctlOf s k).map Ctl.beside :=
    tabGet_upd_map s.host.ctls fn Ctl.beside hf
  unfold besideZones
  rw [ctls]
  rfl

theorem besideZones_giveBack (fn : Nat) (s : State) : besideZones (giveBack fn s) = besideZones s := by
  have kept := besideZones_updCtl fn (f := fun c => { c with
    azones := if pfAz s.fw.cfg fn < c.azones then c.azones - 1 else c.azones }) (fun _ => rfl) s
  unfold giveBack when
  dsimp only
  split
  · exact kept
  · rfl

theorem besideZones_moveZone (z : Nat) (st : ZState) (s : State) : besideZones (moveZone z st s) = besideZones s := by
  unfold moveZone when
  split
  · rfl
  · split
    · exact besideZones_giveBack _ _
    · rfl

theorem besideZones_emptyZone (z : Nat) (s : State) : besideZones (emptyZone z s) = besideZones s := by
  unfold emptyZone
  split
  · rfl
  · have moved : besideZones (moveZone z .empty (packShared z (dropClaims z 0 (unmapZoneFrom z 0 s)))) = besideZones s :=
      (besideZones_moveZone z .empty _).trans (besideZones_of_only (packShared_only _ _ (dropClaims_only _ _ _
        (unmapZoneFrom_only _ _ _ (only_refl _ _) (by decide)) (by decide)) (by decide)))
    dsimp only
    refine (besideZones_of_only (updZoneRec_only _ _ _ (only_refl _ _) (by decide))).trans ?_
    split
    · exact (besideZones_of_only (only_when _ _ (only_refl _ _) fun _ h => closeEarly_only _ _ h (by decide))).trans moved
    · exact moved

theorem besideZones_closeZone (z : Nat) (s : State) : besideZones (closeZone z s) = besideZones s := by
  unfold closeZone
  split
  · rfl
  · split
    · exact besideZones_emptyZone z s
    · exact besideZones_moveZone z .closed s

theorem besideZones_closeZones (fn : Nat) (s : State) : besideZones (closeZones fn s) = besideZones s := by
  unfold closeZones
  dsimp only
  split
  · rfl
  · refine forEach_keeps besideZones (fun z x => ?_) _ _
    split
    · rfl
    · refine (besideZones_of_only (tell_only _ _ _ _ (only_refl _ _) (by decide))).trans ?_
      exact (besideZones_closeZone z _).trans (besideZones_of_only (updZoneRec_only _ _ _ (only_refl _ _) (by decide)))

theorem besideZones_settle (fn : Nat) (s : State) : besideZones (settle fn s) = besideZones s := by
  unfold settle
  split
  · rfl
  · split
    · rfl
    · refine (besideZones_updCtl fn (fun c => ?_) _).trans (besideZones_closeZones fn s)
      rfl

theorem ctlOf_of_besideZones {fn : Nat} {c : Ctl} (h : besideZones t = besideZones s) (hc : ctlOf s fn = some c) :
    ∃ c', ctlOf t fn = some c' ∧ c'.beside = c.beside := by
  have e : (ctlOf t fn).map Ctl.beside = (ctlOf s fn).map Ctl.beside := congrArg (fun x => x.2.2.2 fn) h
  rw [hc] at e
  exact Option.map_eq_some_iff.mp e

/-! ### A controller's reset -/

/-- The tag table once a function's commands are dropped or silenced. -/
def silenced (fn : Nat) (l : List Item) : List Item :=
  (l.filter fun it => decide (it.id.fn ≠ fn) || it.running).map fun it => if it.id.fn = fn then { it with silent := true } else it

theorem mem_silenced {fn : Nat} {l : List Item} {it : Item} (h : it ∈ silenced fn l) (e : it.id.fn = fn) :
    it.silent = true ∧ it.running = true := by
  obtain ⟨k, hk, rfl⟩ := List.mem_map.mp h
  have kept := (List.mem_filter.mp hk).2
  by_cases hf : k.id.fn = fn
  · have running : k.running = true := by simpa [hf] using kept
    rw [if_pos hf]
    exact ⟨rfl, running⟩
  · rw [if_neg hf] at e
    exact absurd e hf

theorem mem_silenced_other {fn : Nat} {l : List Item} {it : Item} (h : it ∈ l) (e : it.id.fn ≠ fn) :
    it ∈ silenced fn l :=
  List.mem_map.mpr ⟨it, List.mem_filter.mpr ⟨h, by simp [e]⟩, if_neg e⟩

/-- What a controller's reset leaves beside its zones. -/
theorem besideZones_ctlResetOf (fn : Nat) (s : State) : besideZones (ctlResetOf fn s) =
    besideZones (updCtl fn (clearCtl (updItems (silenced fn) s) (lifeDefault s fn)) (updItems (silenced fn) s)) :=
  besideZones_settle fn _

theorem ctlResetOf_items (fn : Nat) (s : State) : (ctlResetOf fn s).host.items = silenced fn s.host.items :=
  congrArg (fun x => x.1) (besideZones_ctlResetOf fn s)

theorem ctlResetOf_ports (fn : Nat) (s : State) :
    (ctlResetOf fn s).host.port0 = s.host.port0 ∧ (ctlResetOf fn s).host.port1 = s.host.port1 :=
  ⟨congrArg (fun x => x.2.1) (besideZones_ctlResetOf fn s), congrArg (fun x => x.2.2.1) (besideZones_ctlResetOf fn s)⟩

theorem ctlResetOf_ctl {fn : Nat} {c : Ctl} (hc : ctlOf s fn = some c) : ∃ c', ctlOf (ctlResetOf fn s) fn = some c' ∧
    c'.beside = (clearCtl s (lifeDefault s fn) c).beside :=
  ctlOf_of_besideZones (besideZones_ctlResetOf fn s) (ctlOf_updCtl_some _ hc)

theorem controllerReset_does (hb : s.power.boot = .running) (fn : Nat) (c : Ctl) (hc : ctlOf s fn = some c) :
    Does (.controllerReset fn) s fun t =>
      (∃ c', ctlOf t fn = some c' ∧ c'.en = false ∧ c'.rdy = false ∧ c'.sqs = [] ∧ c'.cqs = [] ∧ c'.aers = [] ∧
        c'.feats = featsDefault s (lifeDefault s fn) ∧ c'.errCount = c.errCount ∧ c'.cap = c.cap ∧ c'.qpairs = c.qpairs) ∧
      (∀ it ∈ t.host.items, it.id.fn = fn → it.silent = true ∧ it.running = true) ∧
      (∀ it ∈ s.host.items, it.id.fn ≠ fn → it ∈ t.host.items) := by
  have up : booted { s with emit := [] } = true := by simp [booted, hb]
  have run : when (booted { s with emit := [] }) (ctlResetOf fn) { s with emit := [] } = _ := when_of up _ _
  have items := ctlResetOf_items fn { s with emit := [] }
  obtain ⟨c', found, cleared⟩ := ctlResetOf_ctl (s := { s with emit := [] }) hc
  refine ⟨_, congrArg Host.Outcome.next run, ⟨c', found, ?_⟩, fun it hi => ?_, fun it hi he => ?_⟩
  · have e : ∀ {β : Type} (g : Ctl → β), g c'.beside = g (clearCtl s (lifeDefault s fn) c).beside := fun g => congrArg g cleared
    exact ⟨e Ctl.en, e Ctl.rdy, e Ctl.sqs, e Ctl.cqs, e Ctl.aers, e Ctl.feats, e Ctl.errCount, e Ctl.cap, e Ctl.qpairs⟩
  · rw [items] at hi
    exact mem_silenced hi
  · rw [items]
    exact mem_silenced_other hi he

/-! ### Ports -/

/-- The port of a PF. -/
def pfPort (s : State) (p : Pf) : Port := portRec s (portOf s (Pf.fn p))

theorem pfPort_updPort (p : Pf) (f : Port → Port) (s : State) : pfPort (updPort p f s) p = f (pfPort s p) := by
  cases p <;> rfl

theorem pfPort_of_ports {p : Pf} (h0 : t.host.port0 = s.host.port0) (h1 : t.host.port1 = s.host.port1) :
    pfPort t p = pfPort s p := by
  cases p
  · exact h0
  · exact h1

theorem pfPort_of_host {p : Pf} (h : t.host = s.host) : pfPort t p = pfPort s p :=
  pfPort_of_ports (congrArg HostSt.port0 h) (congrArg HostSt.port1 h)

/-- What is visible, and on which port, is the ports' alone. -/
theorem seen_of_ports (h0 : t.host.port0 = s.host.port0) (h1 : t.host.port1 = s.host.port1) :
    visible t = visible s ∧ portOf t = portOf s := by
  have at_ : portOf t = portOf s := by
    funext fn
    unfold portOf
    rw [h0]
  refine ⟨?_, at_⟩
  funext fn
  unfold visible portRec vfIndex
  rw [at_, h0, h1]

theorem changePort_hides (p : Pf) (f : Port → Port) (s : State) : changePort p f s =
    forEach ((shown s p).filter fun n => !(shown (updPort p f s) p).contains n) flrRequest (updPort p f s) := rfl

theorem changePort_host (p : Pf) (f : Port → Port) (s : State) : (changePort p f s).host = (updPort p f s).host := by
  rw [changePort_hides]
  exact (only_forEach (ps := [.inst]) _ _ _ (only_refl _ _) fun n t h => flrRequest_only _ _ h (by decide)).same .host
    (by decide)

theorem pfPort_changePort (p : Pf) (f : Port → Port) (s : State) : pfPort (changePort p f s) p = f (pfPort s p) :=
  (pfPort_of_host (changePort_host p f s)).trans (pfPort_updPort p f s)

theorem updPort_ctls (p : Pf) (f : Port → Port) (s : State) : (updPort p f s).host.ctls = s.host.ctls := by
  cases p <;> rfl

/-- Instances that can take a reset. -/
def Resettable (n : Nat) (s : State) : Prop := ∃ i, instAt s n = some i ∧ i.st ≠ .creating

/-- Instances that have received a function-level reset. -/
def Received (n : Nat) (s : State) : Prop :=
  ∃ i, instAt s n = some i ∧ i.st ≠ .creating ∧ i.flr = true ∧ i.resetDue.isSome = true

theorem flrRequest_receives {n : Nat} {i : Inst} (hi : instAt s n = some i) (hs : i.st ≠ .creating) :
    flrRequest n s = updInstance n (fun i => if i.st = .creating then i else
      { i with resetDue := some (i.resetDue.getD (clk s)), flr := true }) s ∧
    instAt (flrRequest n s) n = some { i with resetDue := some (i.resetDue.getD s.frame.elapsed), flr := true } :=
  ⟨rfl, (instAt_updInstance _ hi).trans (congrArg some (if_neg hs))⟩

theorem resettable_flrRequest {n : Nat} (m : Nat) (h : Resettable n s) : Resettable n (flrRequest m s) := by
  obtain ⟨i, hi, hs⟩ := h
  by_cases e : n = m
  · subst e
    exact ⟨_, (flrRequest_receives hi hs).2, hs⟩
  · exact ⟨i, (instAt_updInstance_ne _ e).trans hi, hs⟩

theorem received_self {n : Nat} (h : Resettable n s) : Received n (flrRequest n s) := by
  obtain ⟨i, hi, hs⟩ := h
  exact ⟨_, (flrRequest_receives hi hs).2, hs, rfl, rfl⟩

theorem received_flrRequest {n : Nat} (m : Nat) (h : Received n s) : Received n (flrRequest m s) := by
  obtain ⟨i, hi, hs, hf, hr⟩ := h
  by_cases e : n = m
  · subst e
    exact received_self ⟨i, hi, hs⟩
  · exact ⟨i, (instAt_updInstance_ne _ e).trans hi, hs, hf, hr⟩

theorem forEach_flrRequest {n : Nat} {l : List Nat} (hn : n ∈ l) (h : Resettable n s) :
    Received n (forEach l flrRequest s) := by
  obtain ⟨a, b, rfl⟩ := List.append_of_mem hn
  have before : Resettable n (forEach a flrRequest s) := forEach_invariant (fun m t k => resettable_flrRequest m k) a h
  have e : forEach (a ++ n :: b) flrRequest s = forEach b flrRequest (flrRequest n (forEach a flrRequest s)) := by
    simp [forEach]
  rw [e]
  exact forEach_invariant (fun m t k => received_flrRequest m k) b (received_self before)

theorem portRec_pf (s t : State) (p : Pf) : portRec t (portOf s (Pf.fn p)) = pfPort t p := by
  cases p <;> rfl

/-- Instances that a change of their port hides receive a reset. -/
theorem changePort_resets {p : Pf} {f : Port → Port} {k : Nat} (h : k ∈ shown s p) (hid : k ∉ shown (changePort p f s) p)
    {i : Inst} (hi : instAt s k = some i) (hs : i.st ≠ .creating) : Received k (changePort p f s) := by
  have there : Resettable k (updPort p f s) := ⟨i, hi, hs⟩
  have host := changePort_host p f s
  obtain ⟨vis, at_⟩ := seen_of_ports (s := updPort p f s) (congrArg HostSt.port0 host) (congrArg HostSt.port1 host)
  have keys : k ∈ (updPort p f s).inst.insts.map (·.1) := (List.mem_filter.mp h).1
  have kept : Resettable k (changePort p f s) := by
    rw [changePort_hides]
    exact forEach_invariant (fun m t j => resettable_flrRequest m j) _ there
  have key : k ∈ (changePort p f s).inst.insts.map (·.1) := by
    obtain ⟨j, hj, -⟩ := kept
    exact List.mem_map.mpr ⟨_, tabGet_mem hj, rfl⟩
  have gone : k ∉ shown (updPort p f s) p := fun still => hid (by
    refine List.mem_filter.mpr ⟨key, ?_⟩
    rw [vis, at_]
    exact (List.mem_filter.mp still).2)
  rw [changePort_hides]
  exact forEach_flrRequest (List.mem_filter.mpr ⟨h, by simpa using gone⟩) there

theorem vfEnableChange_does (hb : s.power.boot = .running) (p : Pf) (enable : Bool) (n : Nat) :
    Does (.vfEnableChange p enable n) s fun t =>
      (portRec t (portOf s (Pf.fn p))).vfEnable = enable ∧
      (portRec t (portOf s (Pf.fn p))).numVfs = min n (portRec s (portOf s (Pf.fn p))).totalVfs ∧
      (∀ k ∈ shown s p, k ∉ shown t p → ∀ i, instAt s k = some i → i.st ≠ .creating →
        ∃ i', instAt t k = some i' ∧ i'.flr = true ∧ i'.resetDue.isSome = true) ∧
      t.host.ctls = s.host.ctls ∧ Only [.host, .inst, .emit] s t := by
  have up : booted { s with emit := [] } = true := by simp [booted, hb]
  have run : when (booted { s with emit := [] }) (changePort p fun q => { q with
    vfEnable := enable, numVfs := min n q.totalVfs }) { s with emit := [] } = _ := when_of up _ _
  have port := pfPort_changePort p (fun q => { q with vfEnable := enable, numVfs := min n q.totalVfs }) { s with emit := [] }
  refine ⟨_, congrArg Host.Outcome.next run, ?_, ?_, fun k hk hid i hi hs => ?_, ?_, ?_⟩
  · rw [portRec_pf, port]
  · rw [portRec_pf, port, portRec_pf]
    rfl
  · obtain ⟨i', found, -, flr, due⟩ := changePort_resets (s := { s with emit := [] }) hk hid hi hs
    exact ⟨i', found, flr, due⟩
  · exact (congrArg HostSt.ctls (changePort_host _ _ _)).trans (updPort_ctls _ _ _)
  · exact changePort_only _ _ _ ((emptied_only s).mono (by decide)) (by decide)

theorem pcieLinkUp_does (hb : s.power.boot = .running) (p : Pf) : Does (.pcieLinkUp p) s fun t =>
    (portRec t (portOf s (Pf.fn p))).link = true ∧ t.host.ctls = s.host.ctls ∧ Only [.host, .emit] s t := by
  have up : booted { s with emit := [] } = true := by simp [booted, hb]
  have run : when (booted { s with emit := [] }) (updPort p fun q => { q with link := true }) { s with emit := [] } = _ :=
    when_of up _ _
  refine ⟨_, congrArg Host.Outcome.next run, ?_, updPort_ctls _ _ _, ?_⟩
  · rw [portRec_pf, pfPort_updPort]
  · exact updPort_only _ _ _ ((emptied_only s).mono (by decide)) (by decide)

/-! ### A PF's reset, and a link's -/

/-- A PF's reset leaves its controller disabled, and its port changed and without VFs. -/
theorem pfReset_resets {p : Pf} {c : Ctl} (f : Port → Port) (hc : ctlOf s (Pf.fn p) = some c) :
    pfPort (wake (pfReset p f s)) p = f { pfPort s p with vfEnable := false, numVfs := 0 } ∧
    ∃ c', ctlOf (wake (pfReset p f s)) (Pf.fn p) = some c' ∧ c'.en = false ∧ c'.sqs = [] := by
  have ports := pfPort_changePort p (fun q => f { q with vfEnable := false, numVfs := 0 }) s
  have ctl : ctlOf (changePort p (fun q => f { q with vfEnable := false, numVfs := 0 }) s) (Pf.fn p) = some c := by
    unfold ctlOf at hc ⊢
    rw [changePort_host, updPort_ctls, hc]
  unfold pfReset
  dsimp only
  generalize changePort p (fun q => f { q with vfEnable := false, numVfs := 0 }) s = x at ports ctl
  have host : (wake (windowPfReset p (ctlResetOf (Pf.fn p) x))).host = (ctlResetOf (Pf.fn p) x).host :=
    (wake_only (ps := [.frame, .mbx, .inst, .prot, .ecc, .power, .emit]) _ (windowPfReset_only _ _ (only_refl _ _) (by decide))
      (by decide)).same .host (by decide)
  obtain ⟨c', found, cleared⟩ := ctlResetOf_ctl ctl
  refine ⟨(pfPort_of_host host).trans ((pfPort_of_ports (ctlResetOf_ports _ x).1 (ctlResetOf_ports _ x).2).trans ports),
    c', ?_, ?_, ?_⟩
  · unfold ctlOf
    rw [host]
    exact found
  · exact (congrArg Ctl.en cleared :)
  · exact (congrArg Ctl.sqs cleared :)

theorem wake_stays (he : s.power.entry = none) (hp : s.power.ps < 3) : wake s = s := by
  unfold wake
  rw [he]
  exact if_neg (by omega)

theorem flr_instance (hb : s.power.boot = .running) {fn : Nat} (hn : fn < 2048) (he : s.power.entry = none)
    (hp : s.power.ps < 3) : flr fn s = if visible s fn = true then flrRequest fn s else s := by
  have up : booted s = true := by simp [booted, hb]
  have kept : ∀ t : State, t.power = s.power → wake t = t := fun t h => wake_stays (h ▸ he) (h ▸ hp)
  unfold flr
  rw [up, if_neg (by simp), if_neg (by omega), if_neg (by omega)]
  refine kept _ ?_
  split
  · exact (flrRequest_only (ps := [.inst]) _ _ (only_refl _ _) (by decide)).same .power (by decide)
  · rfl

theorem flr_pf (hb : s.power.boot = .running) (p : Pf) : flr (Pf.fn p) s = wake (pfReset p id s) := by
  have up : booted s = true := by simp [booted, hb]
  unfold flr
  rw [up]
  cases p <;> rfl

theorem linkReset_resets (hb : s.power.boot = .running) (p : Pf) (perst : Bool) :
    linkReset p perst s = wake (pfReset p (fun q => { q with link := false }) s) := by
  have up : booted s = true := by simp [booted, hb]
  have held : when perst endHold s = s := by
    unfold when endHold
    split
    · exact when_not (by simp [hb]) _ _
    · rfl
  unfold linkReset
  rw [held]
  dsimp only
  rw [up]
  rfl

theorem linkReset_ends (hb : s.power.boot = .held) (p : Pf) : linkReset p true s = updPort p (fun q => { q with link := false })
    (updPower (fun w => { w with boot := .crystal, attempts := 0 }) s) := by
  have held : when true endHold s = updPower (fun w => { w with boot := .crystal, attempts := 0 }) s :=
    when_of (decide_eq_true hb) _ _
  unfold linkReset
  rw [held]
  rfl

/-! ### The controller is enabled -/

/-- The admin queue pair of AQA (NVMe 2.0). -/
def adminSq (aqa : Word) : Sq :=
  { size := dw aqa 11 0 + 1, head := 0, tail := 0, cq := 0, shard := 0, bells := [], lastPost := none, lastOrd := none }

def adminCq (aqa : Word) : Cq :=
  { size := dw aqa 27 16 + 1, head := 0, tail := 0, vector := 0, ien := true, entries := [], waiting := [] }

theorem ctlEnable_enables {fn : Nat} {c : Ctl} {cc : Word} (aqa : Word) (hc : ctlOf s fn = some c) (hh : hallRuns s = true)
    (hv : visible s fn = true) (he : c.en = false) (hcc : cc.getLsbD 0 = true) : ctlEnable fn cc aqa s =
    updCtl fn (fun c => { c with
      en := true, rdy := true, sqs := tabSet c.sqs 0 (adminSq aqa), cqs := tabSet c.cqs 0 (adminCq aqa) }) s := by
  have normal : s.fw.cellar = false := by simpa [hallRuns] using (Bool.and_eq_true_iff.mp hh).2
  unfold ctlEnable
  rw [hc]
  dsimp only
  rw [if_neg (by simp [hh, hv, he, hcc, normal])]
  rfl

theorem dw_low (w : Word) (hi : Nat) : dw w hi 0 = w.toNat % 2 ^ (hi + 1) := by
  unfold dw bits
  rw [Nat.pow_zero, Nat.div_one, Nat.sub_zero]

/-- Settles O40: what closing zones leaves of controllers and ports, and the requests of the instances a port hides. -/
theorem controllersAndPortsAreReset : Obligations.ControllersAndPortsAreReset := by
  unfold Obligations.ControllersAndPortsAreReset
  refine fun s => ⟨fun hb => ⟨controllerReset_does hb, fun fn i hn hv hi hs he hp => ?flr, fun fn hn hv he hp => ?hidden,
    fun p c hc => ?pf, fun p perst c hc => ?link, vfEnableChange_does hb, pcieLinkUp_does hb⟩, fun p hb => ?held,
    fun fn c cc aqa hc hh hv he hcc => ?enable⟩
  case flr =>
    have run := flr_instance (s := { s with emit := [] }) hb hn he hp
    have vis : visible { s with emit := [] } fn = true := hv
    rw [if_pos vis] at run
    refine ⟨_, congrArg Host.Outcome.next run, (flrRequest_receives (s := { s with emit := [] }) hi hs).2, ?_⟩
    exact flrRequest_only _ _ ((emptied_only s).mono (by decide)) (by decide)
  case hidden =>
    have run := flr_instance (s := { s with emit := [] }) hb hn he hp
    have vis : ¬visible { s with emit := [] } fn = true := fun h =>
      Bool.false_ne_true (Eq.trans (Eq.symm hv) h)
    rw [if_neg vis] at run
    exact congrArg Host.Outcome.next run
  case pf =>
    have run := flr_pf (s := { s with emit := [] }) hb p
    obtain ⟨port, ctl⟩ := pfReset_resets (s := { s with emit := [] }) id hc
    refine ⟨_, congrArg Host.Outcome.next run, ?_, ?_, ?_, ctl⟩
    all_goals rw [portRec_pf, port]
    · rfl
    · rfl
    · rw [portRec_pf]
      rfl
  case link =>
    have run := linkReset_resets (s := { s with emit := [] }) hb p perst
    obtain ⟨port, ctl⟩ := pfReset_resets (s := { s with emit := [] }) (fun q => { q with link := false }) hc
    refine ⟨_, congrArg Host.Outcome.next run, ?_, ?_, ctl⟩
    all_goals rw [portRec_pf, port]
  case held =>
    refine ⟨_, congrArg Host.Outcome.next (linkReset_ends (s := { s with emit := [] }) hb p), rfl, rfl, ?_, ?_⟩
    · rw [portRec_pf, pfPort_updPort]
    · exact updPort_only _ _ _ (updPower_only _ _ ((emptied_only s).mono (by decide)) (by decide)) (by decide)
  case enable =>
    have run := ctlEnable_enables (s := { s with emit := [] }) aqa hc hh hv he hcc
    refine ⟨_, congrArg Host.Outcome.next run, ⟨_, ctlOf_updCtl_some (s := { s with emit := [] }) _ hc, rfl, rfl,
      ⟨_, tabGet_set_self _ _ _, ?_, rfl, rfl, rfl⟩, ⟨_, tabGet_set_self _ _ _, ?_, rfl, rfl⟩, rfl⟩, ?_⟩
    · exact congrArg (· + 1) (dw_low aqa 11)
    · rfl
    · exact updCtl_only _ _ _ ((emptied_only s).mono (by decide)) (by decide)

end Sys2Proof.Machine
end

section
/-! SUPPORT. Namespaces that are created, deleted, attached and detached (R103, R126 to R131). -/

namespace Sys2Proof.Machine

variable {s t : State}

/-! ### What leaves the namespaces alone -/

/-- The namespaces. -/
def nss (s : State) : Tab Ns := s.zone.nss

theorem nss_of_only (h : Only [.frame, .host, .media, .flash, .inst, .recd, .emit] s t) : nss t = nss s :=
  congrArg ZoneSt.nss (h.same .zone (by decide))

theorem nss_updZoneRec (z : Nat) (f : Zone → Zone) (s : State) : nss (updZoneRec z f s) = nss s := by
  unfold updZoneRec
  split <;> rfl

theorem nss_giveBack (fn : Nat) (s : State) : nss (giveBack fn s) = nss s := by
  unfold giveBack when
  dsimp only
  split <;> rfl

theorem nss_moveZone (z : Nat) (st : ZState) (s : State) : nss (moveZone z st s) = nss s := by
  unfold moveZone when
  split
  · rfl
  · split
    · exact nss_giveBack _ _
    · rfl

theorem nss_dropClaims (z n : Nat) (s : State) : nss (dropClaims z n s) = nss s := by
  unfold dropClaims
  split
  · rfl
  · refine (forEach_keeps nss (fun p t => ?_) _ _).trans (nss_updZoneRec z _ s)
    rfl

theorem nss_cutZone (z off : Nat) (s : State) : nss (cutZone z off s) = nss s := by
  unfold cutZone
  split
  · rfl
  · split
    · rfl
    · refine (forEach_keeps nss (fun p t => ?_) _ _).trans ?_
      · exact nss_of_only (loseValid_only _ _ _ (only_refl _ _) (by decide))
      · unfold fitBlocks
        split <;> rfl

theorem nss_unmapZoneFrom (z off : Nat) (s : State) : nss (unmapZoneFrom z off s) = nss s := by
  have landed : ∀ t, nss (dropLanded z off t) = nss t := fun t =>
    nss_of_only (dropLanded_only _ _ _ (only_refl _ _) (by decide))
  unfold unmapZoneFrom
  dsimp only
  refine (landed _).trans ((nss_cutZone z off _).trans ?_)
  split
  · exact nss_of_only (dropCopies_only _ _ _ _ (only_refl _ _) (by decide))
  · rfl

theorem nss_emptyZone (z : Nat) (s : State) : nss (emptyZone z s) = nss s := by
  unfold emptyZone
  split
  · rfl
  · have moved : nss (moveZone z .empty (packShared z (dropClaims z 0 (unmapZoneFrom z 0 s)))) = nss s :=
      (nss_moveZone z .empty _).trans ((nss_dropClaims z 0 _).trans (nss_unmapZoneFrom z 0 s))
    dsimp only
    refine (nss_updZoneRec z _ _).trans ?_
    split
    · exact (nss_of_only (only_when _ _ (only_refl _ _) fun _ h => closeEarly_only _ _ h (by decide))).trans moved
    · exact moved

/-! ### Deletion -/

/-- A namespace's deletion up to its record. -/
def nsCleared (x : Nat) (n : Ns) (s : State) : State :=
  let s := stopNsIo n s
  let s := updZone (fun z => { z with discards := z.discards.filter fun d => decide (d.nsx ≠ x) }) s
  let s := if n.zoned then forEach ((s.zone.zones.filter fun p => decide (p.2.nsx = x)).map (·.1)) emptyZone s
    else unmapUnits x 0 (nsUnits n) s
  forEach ((s.media.groups.filter fun p => decide (p.2.nsx = x) && decide (p.2.st = .opened)).map (·.1)) closeEarly s

theorem nss_nsCleared (x : Nat) (n : Ns) (s : State) : nss (nsCleared x n s) = nss s := by
  have stopped : nss (stopNsIo n s) = nss s := nss_of_only (stopNsIo_only _ _ (only_refl _ _) (by decide))
  unfold nsCleared
  dsimp only
  refine (forEach_keeps nss (fun g t => nss_of_only (closeEarly_only _ _ (only_refl _ _) (by decide))) _ _).trans ?_
  split
  · exact (forEach_keeps nss nss_emptyZone _ _).trans stopped
  · exact (nss_of_only (unmapUnits_only _ _ _ _ (only_refl _ _) (by decide))).trans stopped

theorem submitZones_keeps (dest : ZoneTo) (items : List Nat) (erase : Nat → List Nat) (l : List Nat) (s : State) :
    nss (submitZones dest items erase l s) = nss s :=
  nss_of_only (submitZones_only _ _ _ _ _ (only_refl _ _) (by decide))

/-- The last record of the zones carries the items. -/
theorem submitZones_items (dest : ZoneTo) (items : List Nat) (erase : Nat → List Nat) {l : List Nat} (h : l ≠ []) (s : State) :
    ∃ r ∈ (submitZones dest items erase l s).media.ring, r.items = items := by
  induction l generalizing s with
  | nil => exact absurd rfl h
  | cons z l ih =>
    by_cases e : l = []
    · subst e
      exact ⟨_, List.mem_append_right _ List.mem_cons_self, rfl⟩
    · exact ih e _

/-- The record of a namespace's deletion. -/
def nsGoneRecord (items : List Nat) (x : Nat) (n : Ns) (zs : List Nat) (s : State) : State :=
  if zs.isEmpty then submit { jrec .unmap with unmap := some (x, 0, nsUnits n), items := items } s
  else submitZones (.told .offline false) items (fun _ => []) zs s

theorem nsGoneRecord_records (items : List Nat) (x : Nat) (n : Ns) (zs : List Nat) (s : State) :
    nss (nsGoneRecord items x n zs s) = nss s ∧ ∃ r ∈ (nsGoneRecord items x n zs s).media.ring, r.items = items := by
  unfold nsGoneRecord
  split
  · exact ⟨rfl, _, List.mem_append_right _ List.mem_cons_self, rfl⟩
  · rename_i h
    exact ⟨submitZones_keeps _ _ _ _ _, submitZones_items _ _ _ (fun e => h (by rw [e]; rfl)) _⟩

theorem nsDelete_eq (items : List Nat) (x : Nat) (n : Ns) (s : State) : ∃ zs,
    nsDelete items x n s = nsGoneRecord items x n zs (notifyNs n.owner n.nsid (removeNs x (nsCleared x n s))) :=
  ⟨_, rfl⟩

/-- A namespace's deletion removes it alone, and a record carries the items. -/
theorem nsDelete_deletes (items : List Nat) (x : Nat) (n : Ns) (s : State) : nss (nsDelete items x n s) = tabDel (nss s) x ∧
    ∃ r ∈ (nsDelete items x n s).media.ring, r.items = items := by
  obtain ⟨zs, e⟩ := nsDelete_eq items x n s
  obtain ⟨kept, recorded⟩ := nsGoneRecord_records items x n zs (notifyNs n.owner n.nsid (removeNs x (nsCleared x n s)))
  rw [e]
  refine ⟨kept.trans ?_, recorded⟩
  refine (nss_of_only (notifyNs_only _ _ _ (only_refl _ _) (by decide))).trans ?_
  exact congrArg (fun t => tabDel t x) (nss_nsCleared x n s)

/-- Every namespace of a list is deleted, the last with the items. -/
def nsDeletes (seq : Nat) (l : List (Nat × Ns)) (s : State) : State :=
  forEach ((List.range l.length).zip l) (fun p => nsDelete (if p.1 = l.length - 1 then [seq] else []) p.2.1 p.2.2) s

/-- A deletion adds no namespace. -/
theorem nsDelete_none {y : Nat} (items : List Nat) (x : Nat) (n : Ns) (h : tabGet (nss s) y = none) :
    tabGet (nss (nsDelete items x n s)) y = none := by
  rw [(nsDelete_deletes items x n s).1]
  by_cases e : y = x
  · rw [e]
    exact tabGet_del_self _ _
  · rw [tabGet_del_ne _ e, h]

theorem forEach_append {α : Type} (l m : List α) (f : α → State → State) (s : State) :
    forEach (l ++ m) f s = forEach m f (forEach l f s) := List.foldl_append

/-- Each namespace that a loop of deletions names is gone after it. -/
theorem forEach_nsDelete_none {β : Type} (items : β → List Nat) (l : List (β × Nat × Ns)) (s : State) :
    ∀ p ∈ l, tabGet (nss (forEach l (fun p => nsDelete (items p.1) p.2.1 p.2.2) s)) p.2.1 = none := by
  intro p hp
  obtain ⟨a, b, rfl⟩ := List.append_of_mem hp
  rw [forEach_append]
  refine forEach_invariant (P := fun t => tabGet (nss t) p.2.1 = none) (fun q t k => nsDelete_none _ _ _ k) b
    (s := nsDelete (items p.1) p.2.1 p.2.2 _) ?_
  rw [(nsDelete_deletes _ _ _ _).1]
  exact tabGet_del_self _ _

theorem nsDeletes_deletes (seq : Nat) {l : List (Nat × Ns)} (h : l ≠ []) (s : State) :
    (∀ p ∈ l, nsAt (nsDeletes seq l s) p.1 = none) ∧ ∃ r ∈ (nsDeletes seq l s).media.ring, seq ∈ r.items := by
  refine ⟨fun p hp => ?_, ?_⟩
  · obtain ⟨i, hi, rfl⟩ := List.getElem_of_mem hp
    refine forEach_nsDelete_none (fun k => if k = l.length - 1 then [seq] else []) _ s (i, l[i]) ?_
    exact List.mem_iff_getElem.mpr ⟨i, by simpa using hi, by simp⟩
  · obtain ⟨init, p, rfl⟩ : ∃ init p, l = init ++ [p] := ⟨l.dropLast, l.getLast h, (List.dropLast_concat_getLast h).symm⟩
    have zip : (List.range (init ++ [p]).length).zip (init ++ [p]) = (List.range init.length).zip init ++ [(init.length, p)] := by
      rw [List.length_append, List.length_singleton, List.range_succ, List.zip_append (by simp)]
      rfl
    obtain ⟨-, r, hr, items⟩ := nsDelete_deletes [seq] p.1 p.2
      (forEach ((List.range init.length).zip init)
        (fun q => nsDelete (if q.1 = (init ++ [p]).length - 1 then [seq] else []) q.2.1 q.2.2) s)
    have last : (if init.length = (init ++ [p]).length - 1 then [seq] else []) = [seq] := if_pos (by simp)
    refine ⟨r, ?_, items ▸ List.mem_cons_self⟩
    unfold nsDeletes
    rw [zip, forEach_append]
    change r ∈ (nsDelete (if init.length = (init ++ [p]).length - 1 then [seq] else []) p.1 p.2 _).media.ring
    rw [last]
    exact hr

/-! ### Attachment -/

/-- With no event request outstanding the notice of a namespace is kept, and nothing else changes. -/
theorem notifyNs_quiet {fn : Nat} (nsid : Nat) (h : ∀ c, ctlOf s fn = some c → c.aers = []) :
    (notifyNs fn nsid s).host.items = s.host.items ∧ SameQueues s (notifyNs fn nsid s) := by
  have noted : ∀ f, (∀ c, (f c).cqs = c.cqs ∧ (f c).sqs = c.sqs) → ∀ t : State, SameQueues t (updCtl fn f t) := fun f hf t =>
    .updCtl _ _ fun c => ⟨(hf c).1, fun q => by unfold cqOf; rw [(hf c).2]⟩
  cases hc : ctlOf s fn with
  | none =>
    have gone : ∀ f, ctlOf (updCtl fn f s) fn = none := fun f => by rw [ctlOf_updCtl, hc]; rfl
    unfold notifyNs notify
    rw [gone]
    refine ⟨rfl, noted _ ?_ s⟩
    exact fun _ => ⟨rfl, rfl⟩
  | some c =>
    have kept : ∀ f, ctlOf (updCtl fn f s) fn = some (f c) := fun f => ctlOf_updCtl_some f hc
    unfold notifyNs notify
    rw [kept]
    dsimp only
    split
    · rw [reportEvents_quiet 16 (ctlOf_updCtl_some _ (kept _)) (h c hc)]
      refine ⟨rfl, (noted _ ?_ s).trans (noted _ ?_ _)⟩ <;> exact fun _ => ⟨rfl, rfl⟩
    · refine ⟨rfl, noted _ ?_ s⟩
      exact fun _ => ⟨rfl, rfl⟩

theorem stopNsIo_idle {n : Ns} (h : ∀ k ∈ s.host.items, k.io = true → k.id.fn = n.owner → k.sqe.nsid.toNat ≠ n.nsid) :
    stopNsIo n s = s := by
  have none_ : (s.host.items.filter fun it => it.io && decide (it.id.fn = n.owner) && decide (it.sqe.nsid.toNat = n.nsid)) = [] :=
    List.filter_eq_nil_iff.mpr fun k hk => by
      simp only [Bool.and_eq_true, decide_eq_true_eq]
      exact fun ⟨⟨io, fn⟩, nsid⟩ => h k hk io fn nsid
  unfold stopNsIo
  dsimp only
  rw [none_]
  rfl

theorem nsAttachment_attaches {dma : Dma} {it : Item} {x : Nat} {n : Ns} (hd : dma.linkFails = false)
    (hn : nsPf s it.id.fn it.sqe.nsid.toNat = some (x, n)) (hl : ctrlList (padTo 4096 dma.bytes) = [cntlid n.owner]) :
    (dw it.sqe.cdw10 3 0 = 0 → n.attached = false → nsAttachment dma it s =
      finishOk it.seq (notifyNs n.owner n.nsid (updNs x (fun n => { n with attached := true }) s))) ∧
    (dw it.sqe.cdw10 3 0 = 1 → n.attached = true →
      (∀ k ∈ s.host.items, k.io = true → k.id.fn = n.owner → k.sqe.nsid.toNat ≠ n.nsid) → nsAttachment dma it s =
      finishOk it.seq (notifyNs n.owner n.nsid (updNs x (fun n => { n with attached := false }) s))) := by
  refine ⟨fun h0 ha => ?_, fun h1 ha hk => ?_⟩
  · unfold nsAttachment
    simp [h0, hd, hn, hl, ha, when]
  · unfold nsAttachment
    simp [h1, hd, hn, hl, ha, when, stopNsIo_idle hk]

/-! ### Creation -/

theorem nsCreate_creates {it : Item} {b : List Byte} {nsid : Nat} (h1 : byteAt b 3074 ≤ 1)
    (h2 : (rsvdBytes b 3075 13).any (·.2) = false) (h3 : (mgmtReq it b).pit ≤ 3) (h4 : (mgmtReq it b).lbaf ≤ 4)
    (h5 : (mgmtReq it b).zoned = true → (mgmtReq it b).lbaf ≤ 2) (h6 : (mgmtReq it b).fieldsOk = true)
    (h7 : lbaMeta (mgmtReq it b).lbaf = 0 → (mgmtReq it b).pit = 0) (h8 : s.prot.trngOk = true)
    (h9 : slotChanges s it.id.fn = false) (h10 : freeNsid s it.id.fn = some nsid) (h11 : nsShort s [mgmtReq it b] = none) :
    nsCreate it b s = finish it.seq stOk (wordOf nsid) 0 (createNs it.id.fn nsid false (mgmtReq it b) s).2 := by
  have r1 : ¬(1 < byteAt b 3074 ∨ (rsvdBytes b 3075 13).any (·.2) = true ∨ 3 < (mgmtReq it b).pit) := by
    rw [h2]
    simp
    omega
  have r2 : ¬(4 < (mgmtReq it b).lbaf ∨ ((mgmtReq it b).zoned = true ∧ 2 < (mgmtReq it b).lbaf)) := by
    rintro (h | ⟨hz, h⟩)
    · omega
    · exact absurd (h5 hz) (by omega)
  have r3 : ¬((!(mgmtReq it b).fieldsOk) = true ∨ (lbaMeta (mgmtReq it b).lbaf = 0 ∧ 0 < (mgmtReq it b).pit)) := by
    rintro (h | ⟨hm, h⟩)
    · simp [h6] at h
    · exact absurd (h7 hm) (by omega)
  unfold nsCreate
  dsimp only
  rw [if_neg r1, if_neg r2, if_neg r3, if_neg (by simp [h8]), if_neg (by simp [h9]), h10, h11]

theorem createNs_creates (owner nsid : Nat) (q : NsReq) (s : State) : ∃ x n,
    nsAt (createNs owner nsid false q s).2 x = some n ∧ n.owner = owner ∧ n.nsid = nsid ∧ n.attached = false ∧
      n.lbaf = q.lbaf ∧ n.nsze = q.nsze ∧ n.zoned = q.zoned :=
  ⟨freeNsx s, _, tabGet_set_self _ _ _, rfl, rfl, rfl, rfl, rfl, rfl⟩

/-! ### The rows -/

theorem nsManagement_create {dma : Dma} {it : Item} (hp : it.phase ≠ .started) (hj : s.media.journalReadOnly = false)
    (hs : dw it.sqe.cdw10 3 0 = 0) (hd : dma.linkFails = false) :
    nsManagement dma it s = nsCreate it (padTo 4096 dma.bytes) s := by
  unfold nsManagement
  simp only [hp, hj, hs, hd, Bool.false_eq_true, if_false, if_true]

/-- The item of a deletion is under way. -/
def deleting (it : Item) (s : State) : State := updItem it.seq (fun i => { i with phase := .started }) s

theorem nsManagement_delete {dma : Dma} {it : Item} {x : Nat} {n : Ns} (hp : it.phase ≠ .started)
    (hj : s.media.journalReadOnly = false) (hs : dw it.sqe.cdw10 3 0 = 1) (hn : it.sqe.nsid.toNat ≠ 0xFFFFFFFF)
    (hx : nsPf s it.id.fn it.sqe.nsid.toNat = some (x, n)) (hf : n.fmt = none) :
    nsManagement dma it s = nsDeletes it.seq [(x, n)] (deleting it s) := by
  unfold nsManagement
  simp only [hp, hj, hs, hn, hx, hf, Bool.false_eq_true, if_false, if_true, Nat.one_ne_zero, List.any_cons, List.any_nil,
    Option.isSome_none, Bool.or_false]
  rfl

/-- The namespaces of the PFs. -/
def pfNss (s : State) : List (Nat × Ns) := s.zone.nss.filter fun p => decide (2048 ≤ p.2.owner)

theorem nsManagement_deleteAll {dma : Dma} {it : Item} (hp : it.phase ≠ .started) (hj : s.media.journalReadOnly = false)
    (hs : dw it.sqe.cdw10 3 0 = 1) (hn : it.sqe.nsid.toNat = 0xFFFFFFFF)
    (hf : ∀ p ∈ s.zone.nss, 2048 ≤ p.2.owner → p.2.fmt = none) : nsManagement dma it s =
    if (pfNss s).isEmpty then finishOk it.seq s else nsDeletes it.seq (pfNss s) (deleting it s) := by
  have idle : ((pfNss s).any fun p => p.2.fmt.isSome) = false := List.any_eq_false.mpr fun p hp => by
    obtain ⟨mem, pf⟩ := List.mem_filter.mp hp
    rw [hf p mem (of_decide_eq_true pf)]
    simp
  unfold nsManagement
  dsimp only
  rw [if_neg hp, hj, if_neg (by simp), if_neg (by omega), if_pos hs, if_pos hn]
  change (if (pfNss s).isEmpty then _ else if ((pfNss s).any fun p => p.2.fmt.isSome) = true then _ else _) = _
  rw [idle]
  rfl

section rows

variable {id : CmdId} {it : Item} {dma : Dma}

theorem namespaceCreated {nsid : Nat} (hd : dma.linkFails = false) (a : AdminRuns s id 0x0D .manager it)
    (hp : it.phase ≠ .started) (hj : s.media.journalReadOnly = false) (hs : dw it.sqe.cdw10 3 0 = 0)
    (e : nsCreate it (padTo 4096 dma.bytes) (admitted s it) = finish it.seq stOk (wordOf nsid) 0
      (createNs it.id.fn nsid false (mgmtReq it (padTo 4096 dma.bytes)) (admitted s it)).2) :
    Does (.namespaceManagement id dma) s fun t => Completes s t it stOk (wordOf nsid) 0 ∧
      ∃ x n, nsAt t x = some n ∧ n.owner = it.id.fn ∧ n.nsid = nsid ∧ n.attached = false ∧
        n.lbaf = (mgmtReq it (padTo 4096 dma.bytes)).lbaf ∧ n.nsze = (mgmtReq it (padTo 4096 dma.bytes)).nsze ∧
        n.zoned = (mgmtReq it (padTo 4096 dma.bytes)).zoned := by
  have row := (nsManagement_create (s := admitted s it) (dma := dma) hp hj hs hd).trans e
  obtain ⟨x, n, found, params⟩ := createNs_creates it.id.fn nsid (mgmtReq it (padTo 4096 dma.bytes)) (admitted s it)
  have only : Only [.zone, .flash, .prot] (admitted s it)
      (createNs it.id.fn nsid false (mgmtReq it (padTo 4096 dma.bytes)) (admitted s it)).2 :=
    createNs_only _ _ _ _ (only_refl _ _) (by decide)
  generalize (createNs it.id.fn nsid false (mgmtReq it (padTo 4096 dma.bytes)) (admitted s it)).2 = y at row found only
  have host : y.host = (admitted s it).host := only.same .host (by decide)
  have power : y.power = s.power := only.same .power (by decide)
  have items : y.host.items = s.host.items := (congrArg HostSt.items host :)
  have ctls : y.host.ctls = s.host.ctls := (congrArg HostSt.ctls host :)
  refine a.answers rfl row items (.of_host ctls) (congrArg PowerSt.flush power) ⟨x, n, ?_, params⟩
  have kept : nss (finish it.seq stOk (wordOf nsid) 0 y) = nss y :=
    nss_of_only (finish_only _ _ _ _ _ (only_refl _ _) (by decide))
  exact (congrArg (fun t => tabGet t x) kept).trans found

theorem namespaceDeleted {x : Nat} {n : Ns} (a : AdminRuns s id 0x0D .manager it) (hp : it.phase ≠ .started)
    (hj : s.media.journalReadOnly = false) (hs : dw it.sqe.cdw10 3 0 = 1) (hn : it.sqe.nsid.toNat ≠ 0xFFFFFFFF)
    (hx : nsPf s it.id.fn it.sqe.nsid.toNat = some (x, n)) (hf : n.fmt = none) :
    Does (.namespaceManagement id dma) s fun t => nsAt t x = none ∧ (∃ r ∈ t.media.ring, it.seq ∈ r.items) ∧
      ∀ y, y ≠ x → (nsAt t y).map (·.nsid) = (nsAt s y).map (·.nsid) := by
  have row := nsManagement_delete (s := admitted s it) (dma := dma) hp hj hs hn hx hf
  obtain ⟨gone, recorded⟩ := nsDeletes_deletes it.seq (l := [(x, n)]) (by simp) (deleting it (admitted s it))
  refine ⟨_, (admin_next rfl a).trans (congrArg Host.Outcome.next row), gone _ List.mem_cons_self, recorded, fun y hy => ?_⟩
  have nss_ : nss (nsDeletes it.seq [(x, n)] (deleting it (admitted s it))) = tabDel s.zone.nss x :=
    (nsDelete_deletes _ x n _).1
  have e : nsAt (nsDeletes it.seq [(x, n)] (deleting it (admitted s it))) y = nsAt s y :=
    (congrArg (fun t => tabGet t y) nss_).trans (tabGet_del_ne _ hy)
  rw [e]

theorem namespacesDeleted (a : AdminRuns s id 0x0D .manager it) (hp : it.phase ≠ .started)
    (hj : s.media.journalReadOnly = false) (hs : dw it.sqe.cdw10 3 0 = 1) (hn : it.sqe.nsid.toNat = 0xFFFFFFFF)
    (hf : ∀ p ∈ s.zone.nss, 2048 ≤ p.2.owner → p.2.fmt = none) :
    ((∀ p ∈ s.zone.nss, p.2.owner < 2048) → Does (.namespaceManagement id dma) s fun t => Completes s t it stOk 0 0) ∧
    ((∃ p ∈ s.zone.nss, 2048 ≤ p.2.owner) → Does (.namespaceManagement id dma) s fun t =>
      (∀ p ∈ s.zone.nss, 2048 ≤ p.2.owner → nsAt t p.1 = none) ∧ ∃ r ∈ t.media.ring, it.seq ∈ r.items) := by
  have row := nsManagement_deleteAll (s := admitted s it) (dma := dma) hp hj hs hn hf
  refine ⟨fun none_ => ?_, fun some_ => ?_⟩
  · have empty : pfNss (admitted s it) = [] := List.filter_eq_nil_iff.mpr fun p hp => by
      have := none_ p hp
      simp
      omega
    rw [empty] at row
    exact a.answers_plain rfl row
  · obtain ⟨p, mem, pf⟩ := some_
    have named : ∀ p ∈ s.zone.nss, 2048 ≤ p.2.owner → p ∈ pfNss (admitted s it) := fun p mem pf =>
      List.mem_filter.mpr ⟨mem, decide_eq_true pf⟩
    have nonempty : pfNss (admitted s it) ≠ [] := List.ne_nil_of_mem (named p mem pf)
    rw [if_neg (by simpa using nonempty)] at row
    obtain ⟨gone, recorded⟩ := nsDeletes_deletes it.seq nonempty (deleting it (admitted s it))
    exact ⟨_, (admin_next rfl a).trans (congrArg Host.Outcome.next row), fun p mem pf => gone p (named p mem pf), recorded⟩

theorem namespaceAttached {x : Nat} {n : Ns} {on : Bool} (a : AdminRuns s id 0x15 .manager it)
    (hx : tabGet s.zone.nss x = some n) (ha : ∀ c, ctlOf s n.owner = some c → c.aers = [])
    (e : nsAttachment dma it (admitted s it) =
      finishOk it.seq (notifyNs n.owner n.nsid (updNs x (fun n => { n with attached := on }) (admitted s it)))) :
    Does (.namespaceAttachment id dma) s fun t => Completes s t it stOk 0 0 ∧ nsAt t x = some { n with attached := on } := by
  have quiet := notifyNs_quiet (s := updNs x (fun n => { n with attached := on }) (admitted s it)) n.nsid ha
  have only : Only [.frame, .host, .inst, .recd, .emit] (updNs x (fun n => { n with attached := on }) (admitted s it))
      (notifyNs n.owner n.nsid (updNs x (fun n => { n with attached := on }) (admitted s it))) :=
    notifyNs_only _ _ _ (only_refl _ _) (by decide)
  have found : tabGet (nss (updNs x (fun n => { n with attached := on }) (admitted s it))) x = some { n with attached := on } :=
    tabGet_upd_self _ hx
  have power : (notifyNs n.owner n.nsid (updNs x (fun n => { n with attached := on }) (admitted s it))).power = s.power :=
    only.same .power (by decide)
  have kept := nss_of_only (only.mono (by decide))
  refine a.answers rfl e quiet.1
    (SameQueues.trans (t := updNs x (fun n => { n with attached := on }) (admitted s it)) (.of_host rfl) quiet.2) (congrArg PowerSt.flush power) ?_
  exact (congrArg (fun t => tabGet t x) ((nss_of_only (finish_only _ _ _ _ _ (only_refl _ _) (by decide))).trans kept)).trans
    found

end rows

/-- Settles O45: creation and deletion through the namespaces they leave, and attachment without event requests. -/
theorem namespacesAreManaged : Obligations.NamespacesAreManaged := by
  unfold Obligations.NamespacesAreManaged
  refine fun s id it dma hd => ⟨fun nsid a hp hj hs h1 h2 h3 h4 h5 h6 h7 h8 h9 h10 h11 => ?_,
    fun x n a hp hj hs hn hx hf => namespaceDeleted a hp hj hs hn hx hf,
    fun a hp hj hs hn hf => namespacesDeleted a hp hj hs hn hf, fun x n a hx ht hl ha => ?_⟩
  · exact namespaceCreated hd a hp hj hs
      (nsCreate_creates (s := admitted s it) h1 h2 h3 h4 h5 h6 h7 h8 h9 h10 h11)
  · obtain ⟨attaches, detaches⟩ := nsAttachment_attaches (s := admitted s it) hd hx hl
    exact ⟨fun h0 hn => namespaceAttached a ht ha (attaches h0 hn),
      fun h1 hn hk => namespaceAttached a ht ha (detaches h1 hn hk)⟩

end Sys2Proof.Machine
end

section
/-! SUPPORT. Format NVM and Sanitize (R103, R104, R158 to R161). -/

namespace Sys2Proof.Machine

variable {s t u : State}

/-! ### Commands that finish leave the tag table, and no other does -/

/-- An item whose outcome is known leaves the tag table, where no flush keeps it. -/
theorem postItem_drops {n : Nat} {it : Item} (hf : flushing s = false) (hi : itemBySeq s n = some it)
    (ho : it.outcome ≠ none) : (postItem n s).host.items = s.host.items.filter fun k => decide (k.seq ≠ n) := by
  obtain ⟨st, hs⟩ := Option.ne_none_iff_exists'.mp ho
  have dropped : (dropItem n s).host.items = s.host.items.filter fun k => decide (k.seq ≠ n) := rfl
  have erred : (when st.failed (updCtl it.id.fn (addErr it st)) (dropItem n s)).host.items = (dropItem n s).host.items := by
    unfold when
    split <;> rfl
  have counted : ∀ x, (when it.io (countPosted it) x).host.items = x.host.items := fun x => by
    unfold when
    split
    · exact items_countPosted it x
    · rfl
  unfold postItem
  simp only [hf, hi, hs, Bool.false_eq_true, if_false]
  split
  · exact dropped
  · split
    · rw [counted, items_stampSq, erred, dropped]
    · rw [items_postCqe, counted, items_stampSq, erred, dropped]

theorem filter_seq_none {n : Nat} (h : itemBySeq s n = none) :
    s.host.items.filter (fun k => decide (k.seq ≠ n)) = s.host.items :=
  List.filter_eq_self.mpr fun k hk => by simpa using List.find?_eq_none.mp h k hk

/-- A change of the items of one number leaves those of the others. -/
theorem filter_map_seq (l : List Item) (n : Nat) {f : Item → Item} (hf : ∀ it, (f it).seq = it.seq) :
    (l.map fun it => if it.seq = n then f it else it).filter (fun k => decide (k.seq ≠ n)) =
      l.filter fun k => decide (k.seq ≠ n) := by
  induction l with
  | nil => rfl
  | cons a l ih =>
    by_cases h : a.seq = n
    · have gone : (f a).seq = n := (hf a).trans h
      rw [List.map_cons, if_pos h, List.filter_cons_of_neg (by simp [gone]), List.filter_cons_of_neg (by simp [h]), ih]
    · rw [List.map_cons, if_neg h, List.filter_cons_of_pos (by simp [h]), List.filter_cons_of_pos (by simp [h]), ih]

theorem latch_items_ne (n : Nat) (st : Status) (dw0 dw1 : Word) (s : State) :
    (latch n st dw0 dw1 s).host.items.filter (fun k => decide (k.seq ≠ n)) =
      s.host.items.filter fun k => decide (k.seq ≠ n) :=
  filter_map_seq s.host.items n (fun it => by split <;> rfl)

/-- A command that finishes leaves the tag table. -/
theorem finish_items (n : Nat) (st : Status) (dw0 dw1 : Word) (hf : flushing s = false) :
    (finish n st dw0 dw1 s).host.items = s.host.items.filter fun k => decide (k.seq ≠ n) := by
  unfold finish
  cases h : itemBySeq (latch n st dw0 dw1 s) n with
  | none =>
    have kept : (postItem n (latch n st dw0 dw1 s)).host.items = (latch n st dw0 dw1 s).host.items := by
      unfold postItem
      rw [h]
      split <;> rfl
    rw [kept, ← latch_items_ne n st dw0 dw1 s, filter_seq_none h]
  | some it =>
    have mem : it ∈ (latch n st dw0 dw1 s).host.items := List.mem_of_find?_eq_some h
    have out := latch_outcome n st dw0 dw1 s it mem (itemBySeq_seq h)
    rw [postItem_drops (s := latch n st dw0 dw1 s) hf h out]
    exact latch_items_ne n st dw0 dw1 s

/-- The tag table has lost the commands of some numbers, and nothing else, while no flush runs. -/
def OnlyFinished (s t : State) : Prop :=
  flushing t = flushing s ∧ ∃ p : Nat → Bool, t.host.items = s.host.items.filter fun k => p k.seq

theorem onlyFinished_of_items (hf : flushing t = flushing s) (h : t.host.items = s.host.items) : OnlyFinished s t :=
  ⟨hf, fun _ => true, by rw [h]; exact (List.filter_eq_self.mpr fun _ _ => rfl).symm⟩

theorem OnlyFinished.trans (h : OnlyFinished s t) (k : OnlyFinished t u) : OnlyFinished s u := by
  obtain ⟨f, p, hp⟩ := h
  obtain ⟨g, q, hq⟩ := k
  refine ⟨g.trans f, fun n => p n && q n, ?_⟩
  rw [hq, hp, List.filter_filter]
  exact List.filter_congr fun k _ => Bool.and_comm _ _

theorem flushing_of_only (h : Only [.frame, .host, .zone, .media, .flash, .inst, .recd, .emit] s t) :
    flushing t = flushing s := by
  have e : t.power = s.power := h.same .power (by decide)
  unfold flushing
  rw [e]

theorem onlyFinished_finish (n : Nat) (st : Status) (dw0 dw1 : Word) (hf : flushing s = false) :
    OnlyFinished s (finish n st dw0 dw1 s) :=
  ⟨flushing_of_only (finish_only _ _ _ _ _ (only_refl _ _) (by decide)), fun k => decide (k ≠ n), finish_items n st dw0 dw1 hf⟩

theorem onlyFinished_reportOne (fn : Nat) (hf : flushing s = false) : OnlyFinished s (reportOne fn s) := by
  have same : ∀ f, OnlyFinished s (updCtl fn f s) := fun f => onlyFinished_of_items rfl rfl
  have running : ∀ f, flushing (updCtl fn f s) = false := fun _ => hf
  unfold reportOne
  split
  · exact onlyFinished_of_items rfl rfl
  · split
    · dsimp only
      split
      · exact (same _).trans (onlyFinished_finish _ _ _ _ (running _))
      · exact same _
    · exact onlyFinished_of_items rfl rfl

theorem onlyFinished_reportEvents (fn n : Nat) (hf : flushing s = false) : OnlyFinished s (reportEvents fn n s) := by
  induction n generalizing s with
  | zero => exact onlyFinished_of_items rfl rfl
  | succ n ih =>
    have one := onlyFinished_reportOne fn hf
    exact one.trans (ih (one.1.trans hf))

theorem onlyFinished_updCtl (fn : Nat) (f : Ctl → Ctl) (s : State) : OnlyFinished s (updCtl fn f s) :=
  onlyFinished_of_items rfl rfl

theorem onlyFinished_notify (fn : Nat) (en : Word → Bool) (e : Event) (hf : flushing s = false) :
    OnlyFinished s (notify fn en e s) := by
  have events : ∀ f, OnlyFinished s (reportEvents fn 16 (updCtl fn f s)) := fun f =>
    (onlyFinished_updCtl fn f s).trans (onlyFinished_reportEvents (s := updCtl fn f s) fn 16 hf)
  unfold notify
  split
  · exact onlyFinished_of_items rfl rfl
  · split
    · exact events _
    · exact onlyFinished_of_items rfl rfl

theorem onlyFinished_notifyNs (fn nsid : Nat) (hf : flushing s = false) : OnlyFinished s (notifyNs fn nsid s) := by
  have noted : ∀ f, OnlyFinished s (notify fn (aecBit 8) { type := 2, info := 0x00, log := 0x04 } (updCtl fn f s)) := fun f =>
    (onlyFinished_updCtl fn f s).trans (onlyFinished_notify (s := updCtl fn f s) fn _ _ hf)
  exact noted _

/-- A loop that finishes commands leaves the others. -/
theorem forEach_finishOk_items (l : List Item) (hf : flushing s = false) :
    (forEach l (fun it => finishOk it.seq) s).host.items = s.host.items.filter fun k => !(l.map (·.seq)).contains k.seq := by
  induction l generalizing s with
  | nil => exact (List.filter_eq_self.mpr fun _ _ => rfl).symm
  | cons a l ih =>
    have one := onlyFinished_finish a.seq stOk 0 0 hf
    refine (ih (one.1.trans hf)).trans ?_
    rw [finish_items _ _ _ _ hf, List.filter_filter]
    refine List.filter_congr fun k _ => ?_
    by_cases h : k.seq = a.seq <;> simp [h]

/-! ### Format NVM -/

/-- The format that a Format NVM asks for. -/
def formatOf (s : State) (it : Item) (k : EraseKind) (x : Nat) : Progress :=
  { kind := k, lbaf := dw it.sqe.cdw10 3 0, pit := dw it.sqe.cdw10 7 5, ext := decide (dw it.sqe.cdw10 4 4 = 1)
    pil := decide (dw it.sqe.cdw10 8 8 = 1), started := false, startFrame := it.fetched
    total := wipeLeft s (decide (k = .block)) x }

theorem formatNvm_marks {it : Item} {x : Nat} {n : Ns} {k : EraseKind} (hx : nsOf s it.id.fn it.sqe.nsid.toNat = some (x, n))
    (hf : n.fmt = none) (h1 : dw it.sqe.cdw10 3 0 ≤ 4) (h2 : n.zoned = true → dw it.sqe.cdw10 3 0 ≤ 2)
    (h3 : dw it.sqe.cdw10 7 5 ≤ 3) (h4 : lbaMeta (dw it.sqe.cdw10 3 0) = 0 → dw it.sqe.cdw10 7 5 = 0)
    (hk : eraseKindOf (dw it.sqe.cdw10 11 9) = some k) (ht : k = .crypto → s.prot.trngOk = true) : formatNvm it s =
    updItem it.seq (fun i => { i with phase := .started }) (updNs x (fun n => { n with fmt := some (formatOf s it k x) }) s) := by
  have r1 : ¬(4 < dw it.sqe.cdw10 3 0 ∨ (n.zoned = true ∧ 2 < dw it.sqe.cdw10 3 0)) := by
    rintro (h | ⟨hz, h⟩)
    · omega
    · exact absurd (h2 hz) (by omega)
  have r2 : ¬(3 < dw it.sqe.cdw10 7 5 ∨ (lbaMeta (dw it.sqe.cdw10 3 0) = 0 ∧ 0 < dw it.sqe.cdw10 7 5)) := by
    rintro (h | ⟨hm, h⟩)
    · omega
    · exact absurd (h4 hm) (by omega)
  have r3 : ¬(k = .crypto ∧ (!s.prot.trngOk) = true) := fun ⟨hc, h⟩ => by simp [ht hc] at h
  unfold formatNvm
  simp only [hx, hf, hk, Option.isSome_none, Bool.false_eq_true, if_false, if_neg r1, if_neg r2, if_neg r3]
  rfl

theorem formatNvm_does {id : CmdId} {it : Item} {x : Nat} {n : Ns} {k : EraseKind} (a : AdminRuns s id 0x80 .all it)
    (hx : nsOf s it.id.fn it.sqe.nsid.toNat = some (x, n)) (hg : tabGet s.zone.nss x = some n) (hf : n.fmt = none)
    (h1 : dw it.sqe.cdw10 3 0 ≤ 4) (h2 : n.zoned = true → dw it.sqe.cdw10 3 0 ≤ 2)
    (h3 : dw it.sqe.cdw10 7 5 ≤ 3) (h4 : lbaMeta (dw it.sqe.cdw10 3 0) = 0 → dw it.sqe.cdw10 7 5 = 0)
    (hk : eraseKindOf (dw it.sqe.cdw10 11 9) = some k) (ht : k = .crypto → s.prot.trngOk = true) :
    Does (.formatNvm id) s fun t =>
      (∃ p, nsAt t x = some { n with fmt := some p } ∧ p.kind = k ∧ p.lbaf = dw it.sqe.cdw10 3 0 ∧
        p.pit = dw it.sqe.cdw10 7 5 ∧ p.started = false ∧ p.startFrame = it.fetched ∧
        p.total = wipeLeft s (decide (k = .block)) x) ∧
      itemBySeq t it.seq = some { it with phase := .started } ∧ Only [.zone, .host, .emit] s t := by
  have row := formatNvm_marks (s := admitted s it) hx hf h1 h2 h3 h4 hk ht
  refine ⟨_, (admin_next rfl a).trans (congrArg Host.Outcome.next row),
    ⟨formatOf (admitted s it) it k x, ?_, rfl, rfl, rfl, rfl, rfl, rfl⟩, ?_, ?_⟩
  · exact tabGet_upd_self _ hg
  · refine (find_map_seq s.host.items it.seq (fun i => { i with phase := .started }) (fun _ => rfl)).trans ?_
    exact congrArg (Option.map _) a.unique
  · have taken : Only [.host, .emit] s (admitted s it) :=
      (emptied_only s).mono (by decide) |>.trans (only_host _ (only_refl _ _) (by decide))
    exact updItem_only _ _ _ (updNs_only _ _ _ (taken.mono (by decide)) (by decide)) (by decide)

/-- A namespace with the format that was set on it. -/
def reformatted (p : Progress) (n : Ns) : Ns :=
  { n with fmt := none, lbaf := p.lbaf, pit := p.pit, ext := p.ext, pil := p.pil
           nsze := n.nsze * lbaData n.lbaf / lbaData p.lbaf }

/-- The Formats of a namespace that are under way. -/
def formatsOf (n : Ns) (s : State) : List Item :=
  s.host.items.filter fun it => !it.io && decide (it.opc = 0x80) && decide (it.id.fn = n.owner) &&
    decide (it.sqe.nsid.toNat = n.nsid) && it.running

/-- A Format's end up to its completions. -/
def formatSet (x : Nat) (n : Ns) (p : Progress) (s : State) : State := notifyNs n.owner n.nsid (updNs x (reformatted p) s)

theorem formatDone_ends {x : Nat} {n : Ns} {p : Progress} (hx : nsAt s x = some n) (hf : n.fmt = some p)
    (hp : p.started = true) (hb : s.power.boot = .running) (hi : instSanitizing s n.owner = false)
    (hw : wipeDone s p.kind x = true) :
    formatDone x s = forEach (formatsOf n (formatSet x n p s)) (fun it => finishOk it.seq) (formatSet x n p s) := by
  unfold formatDone
  rw [hx]
  simp only [hf, hp, booted, hb, hi, hw, decide_true, Bool.not_true, Bool.false_eq_true, or_self, if_false]
  rfl

theorem formatDone_nss (x : Nat) (n : Ns) (p : Progress) (s : State) :
    nss (forEach (formatsOf n (formatSet x n p s)) (fun it => finishOk it.seq) (formatSet x n p s)) =
      tabUpd s.zone.nss x (reformatted p) := by
  refine (forEach_keeps nss (fun it t => nss_of_only (finishOk_only _ _ (only_refl _ _) (by decide))) _ _).trans ?_
  exact nss_of_only (notifyNs_only _ _ _ (only_refl _ _) (by decide))

theorem formatDone_finishes {x : Nat} {n : Ns} {p : Progress} (hf : s.power.flush = none) {it : Item} (hi : it ∈ s.host.items)
    (h1 : it.io = false) (h2 : it.opc = 0x80) (h3 : it.id.fn = n.owner) (h4 : it.sqe.nsid.toNat = n.nsid)
    (h5 : it.running = true) : ∀ k ∈
      (forEach (formatsOf n (formatSet x n p s)) (fun it => finishOk it.seq) (formatSet x n p s)).host.items, k.seq ≠ it.seq := by
  have running : flushing s = false := by simp [flushing, hf]
  obtain ⟨still, q, items⟩ : OnlyFinished (updNs x (reformatted p) s) (formatSet x n p s) :=
    onlyFinished_notifyNs n.owner n.nsid running
  intro k hk e
  rw [forEach_finishOk_items _ (still.trans running)] at hk
  obtain ⟨mem, left⟩ := List.mem_filter.mp hk
  rw [items] at mem
  have kept := (List.mem_filter.mp mem).2
  rw [e] at kept left
  have here : it ∈ formatsOf n (formatSet x n p s) := by
    refine List.mem_filter.mpr ⟨?_, by simp [h1, h2, h3, h4, h5]⟩
    rw [items]
    exact List.mem_filter.mpr ⟨hi, kept⟩
  have named : it.seq ∈ (formatsOf n (formatSet x n p s)).map (·.seq) := List.mem_map.mpr ⟨it, here, rfl⟩
  simp [named] at left

/-! ### Sanitize -/

theorem sanitize_starts {action : Nat} {kind : EraseKind} {it : Item} (ha : dw it.sqe.cdw10 2 0 = action)
    (hf : (s.zone.nss.any fun p => formatRuns s p.2) = false) (hs : sanitizing s = false)
    (hi : ∀ p ∈ s.inst.insts, p.2.st ≠ .sanitising) (ht : kind = .crypto → s.prot.trngOk = true) :
    sanitize action kind it s = finishOk it.seq (updZone (fun z => { z with san :=
      { z.san with st := .waiting, kind := kind, total := wipeLeftAll s (decide (kind = .block)), startFrame := it.fetched } }) s) := by
  have none_ : (s.inst.insts.any fun p => decide (p.2.st = .sanitising)) = false :=
    List.any_eq_false.mpr fun p hp => by simpa using hi p hp
  have random : ¬(kind = .crypto ∧ (!s.prot.trngOk) = true) := fun ⟨hc, h⟩ => by simp [ht hc] at h
  unfold sanitize
  simp only [ha, hf, hs, none_, if_neg random, ne_eq, not_true_eq_false, Bool.false_eq_true, or_self, if_false]

/-- What a command leaves of the zone state when it finishes. -/
theorem finish_zone (n : Nat) (st : Status) (dw0 dw1 : Word) (s : State) : (finish n st dw0 dw1 s).zone = s.zone :=
  (finish_only (ps := [.frame, .host, .inst, .recd, .emit]) _ _ _ _ _ (only_refl _ _) (by decide)).same .zone (by decide)

theorem sanitize_answers {c : Instr} {id : CmdId} {it : Item} {action : Nat} {kind : EraseKind}
    (a : AdminRuns s id 0x84 .manager it) (hc : exec c s = act (admin 0x84 .manager (sanitize action kind) id) s)
    (ha : dw it.sqe.cdw10 2 0 = action) (hf : (s.zone.nss.any fun p => formatRuns s p.2) = false)
    (hi : ∀ p ∈ s.inst.insts, p.2.st ≠ .sanitising) (ht : kind = .crypto → s.prot.trngOk = true) :
    Does c s fun t => Completes s t it stOk 0 0 ∧ t.zone.san = { s.zone.san with
      st := .waiting, kind := kind, total := wipeLeftAll s (decide (kind = .block)), startFrame := it.fetched } := by
  have row := sanitize_starts (s := admitted s it) ha hf a.noWipe.1 hi ht
  exact a.answers hc row rfl (.of_host rfl) rfl (congrArg ZoneSt.san (finish_zone it.seq stOk 0 0 _))

theorem exitFailure_answers {id : CmdId} {it : Item} (a : AdminRuns s id 0x84 .manager it) (ha : dw it.sqe.cdw10 2 0 = 1)
    (hs : s.zone.san.st = .failed) : Does (.sanitizeExitFailureMode id) s fun t => Completes s t it stOk 0 0 ∧
      t.zone.san = { s.zone.san with st := .idle } := by
  have idle : sanitizing (admitted s it) = false := a.noWipe.1
  have failed : when (decide ((admitted s it).zone.san.st = .failed))
      (updZone fun z => { z with san := { z.san with st := .idle } }) (admitted s it) = _ := when_of (decide_eq_true hs) _ _
  have row : exitFailure it (admitted s it) = finishOk it.seq
      (updZone (fun z => { z with san := { z.san with st := .idle } }) (admitted s it)) := by
    unfold exitFailure
    rw [failed, if_neg (by simp [ha]), idle]
    rfl
  exact a.answers rfl row rfl (.of_host rfl) rfl (congrArg ZoneSt.san (finish_zone it.seq stOk 0 0 _))

theorem sanitizeDone_ends {good : Bool} (hs : s.zone.san.st = .running) (hb : s.power.boot = .running)
    (hw : good = true → ∀ p ∈ s.zone.nss, wipeDone s s.zone.san.kind p.1 = true) : sanitizeDone good s =
    updZone (fun z => { z with san :=
      { z.san with st := if good then .idle else .failed, completed := z.san.completed || good } }) s := by
  have wiped : ¬(good = true ∧ (!(s.zone.nss.all fun p => wipeDone s s.zone.san.kind p.1)) = true) := fun ⟨hg, h⟩ => by
    have all : (s.zone.nss.all fun p => wipeDone s s.zone.san.kind p.1) = true := List.all_eq_true.mpr (hw hg)
    simp [all] at h
  unfold sanitizeDone
  simp only [hs, booted, hb, decide_true, Bool.not_true, Bool.false_eq_true, ne_eq, not_true_eq_false, wiped,
    or_self, if_false]

/-- Settles O46: a Format's mark and end with the commands it finishes, and the states of a Sanitize. -/
theorem formatAndSanitize : Obligations.FormatAndSanitize := by
  unfold Obligations.FormatAndSanitize
  refine fun s id it => ⟨fun x n k a hx hg hf h1 h2 h3 h4 hk ht => formatNvm_does a hx hg hf h1 h2 h3 h4 hk ht,
    fun x n p hx hf hp hb hi hw => ?done, fun a hf hi => ⟨fun ha => ?block, fun ha ht => ?crypto⟩,
    fun a ha hs => exitFailure_answers a ha hs, fun good hs hb hw => ?sanitized⟩
  case done =>
    have run := formatDone_ends (s := { s with emit := [] }) hx hf hp hb hi hw
    have kept := formatDone_nss x n p { s with emit := [] }
    refine ⟨_, congrArg Host.Outcome.next run, ?_, fun y hy => ?_, fun hn it h h1 h2 h3 h4 h5 =>
      formatDone_finishes (s := { s with emit := [] }) hn h h1 h2 h3 h4 h5⟩
    · exact (congrArg (fun t => tabGet t x) kept).trans (tabGet_upd_self _ hx)
    · exact (congrArg (fun t => tabGet t y) kept).trans (tabGet_upd_ne _ _ hy)
  case block => exact sanitize_answers (kind := .block) a rfl ha hf hi fun h => by cases h
  case crypto => exact sanitize_answers (kind := .crypto) a rfl ha hf hi fun _ => ht
  case sanitized => exact congrArg Host.Outcome.next (sanitizeDone_ends (s := { s with emit := [] }) hs hb hw)

end Sys2Proof.Machine
end

section
/-! SUPPORT. Relocation victims, secure discards, refresh, patrol and probes (R155, R188, R215 to R217, R221, R225). -/

namespace Sys2Proof.Machine

variable {s : State}

/-! ### Reads that are requested, and groups that are updated -/

/-- A loop of steps that each append one read appends them in order. -/
theorem forEach_reads {α β : Type} {key : RdOp → β} {c : α → β} {f : α → State → State}
    (hf : ∀ p s, ∃ r, (f p s).flash.reads = s.flash.reads ++ [r] ∧ key r = c p) (l : List α) (s : State) :
    ∃ k, (forEach l f s).flash.reads = s.flash.reads ++ k ∧ k.map key = l.map c := by
  induction l generalizing s with
  | nil => exact ⟨[], (List.append_nil _).symm, rfl⟩
  | cons p l ih =>
    obtain ⟨r, one, hr⟩ := hf p s
    obtain ⟨k, rest, hk⟩ := ih (f p s)
    refine ⟨r :: k, rest.trans ?_, ?_⟩
    · rw [one, List.append_assoc]
      rfl
    · rw [List.map_cons, List.map_cons, hk, hr]

/-- A loop that requests reads appends them in order, whatever of them is looked at but the number. -/
theorem forEach_addRead {α β : Type} (key : RdOp → β) (hk : ∀ r n, key { r with id := n } = key r)
    {q : State → α → RdOp} {c : α → β} (hq : ∀ s p, key (q s p) = c p) (l : List α) (s : State) :
    ∃ k, (forEach l (fun p s => addRead (q s p) s) s).flash.reads = s.flash.reads ++ k ∧ k.map key = l.map c :=
  forEach_reads (fun p s => ⟨{ q s p with id := s.flash.nextRead }, rfl, (hk _ _).trans (hq s p)⟩) l s

theorem forEach_addRead_only {α : Type} (q : State → α → RdOp) (l : List α) (s : State) :
    Only [.flash] s (forEach l (fun p s => addRead (q s p) s) s) :=
  only_forEach l _ _ (only_refl _ _) fun _ _ h => addRead_only _ _ h (by decide)

theorem groupAt_updGroup {eg : Nat} {g : Group} (f : Group → Group) (h : groupAt s eg = some g) :
    groupAt (updGroup eg f s) eg = some (f g) :=
  tabGet_upd_self f h

/-! ### A victim starts -/

/-- The victim that `startVictim` adds. -/
def freshVictim (eg prio : Nat) : Victim := { eg := eg, prio := prio, copies := [], rows := [], stuck := [] }

/-- A victim with a read on its way is not done. -/
theorem victimDone_reading (eg : Nat) (h : ∃ r ∈ s.flash.reads, r.for_ = .reloc eg) : victimDone eg s = s := by
  obtain ⟨r, hr, hf⟩ := h
  unfold victimDone
  split
  case h_2 => rfl
  case h_1 v g hv _ =>
    have same : v.eg = eg := by simpa using List.find?_some hv
    have reading : (s.flash.reads.any fun r => decide (r.for_ = .reloc v.eg)) = true :=
      List.any_eq_true.mpr ⟨r, hr, by simp [hf, same]⟩
    have busy : victimBusy s v = true := by
      unfold victimBusy
      rw [reading]
      rfl
    exact if_pos (.inl busy)

theorem startVictim_reads (eg prio : Nat) {g : Group} {l : List (Nat × Loc)} (hl : l ≠ []) (hg : groupAt s eg = some g) :
    (startVictim eg prio g l s).media.victims = s.media.victims ++ [freshVictim eg prio] ∧
      groupAt (startVictim eg prio g l s) eg = some { g with victim := true } ∧ (startVictim eg prio g l s).zone = s.zone ∧
      ∃ k, (startVictim eg prio g l s).flash.reads = s.flash.reads ++ k ∧
        k.map (fun r => (r.for_, r.unit, r.loc)) = l.map fun p => (RdFor.reloc eg, p.1, p.2) := by
  unfold startVictim
  extract_lets a b c
  have kept : Only [.flash] b c := forEach_addRead_only (fun s p => readOp s (.reloc eg) g.nsx p.1 p.2) l b
  obtain ⟨k, hr, hm⟩ : ∃ k, c.flash.reads = b.flash.reads ++ k ∧
      k.map (fun r => (r.for_, r.unit, r.loc)) = l.map fun p => (RdFor.reloc eg, p.1, p.2) :=
    forEach_addRead (fun r => (r.for_, r.unit, r.loc)) (fun _ _ => rfl)
      (q := fun s p => readOp s (.reloc eg) g.nsx p.1 p.2) (fun _ _ => rfl) l b
  have reading : ∃ r ∈ c.flash.reads, r.for_ = .reloc eg := by
    obtain ⟨r, k', rfl⟩ : ∃ r k', k = r :: k' := by
      cases k with
      | nil => exact absurd (List.map_eq_nil_iff.mp hm.symm) hl
      | cons r k' => exact ⟨r, k', rfl⟩
    obtain ⟨p, l', rfl⟩ := List.exists_cons_of_ne_nil hl
    exact ⟨r, hr ▸ by simp, congrArg Prod.fst (List.cons.inj hm).1⟩
  rw [victimDone_reading eg reading]
  have media : c.media = b.media := kept.same .media (by decide)
  have zone : c.zone = b.zone := kept.same .zone (by decide)
  refine ⟨congrArg MediaSt.victims media, ?_, zone, k, hr, hm⟩
  have group : groupAt b eg = some { g with victim := true } := groupAt_updGroup (s := a) _ hg
  unfold groupAt at group ⊢
  rw [media, group]

theorem relocationStart_runs {eg k : Nat} {g : Group} {rest : List (Nat × Nat)} (hr : hallRuns s = true)
    (hg : groupAt s eg = some g) (hv : g.victim = false) (hn : s.media.victims.length < 64)
    (ho : victimOrder s = (k, eg) :: rest) : relocationStart eg s = startVictim eg k g (victimUnits s eg g) s := by
  unfold relocationStart
  simp only [hg, hr, hv, ho, Bool.not_true, Bool.false_eq_true, if_false, if_true, if_neg (Nat.not_le.mpr hn)]

/-! ### Secure discards -/

theorem discardStep_begins {seq : Nat} {d : Discard} {n : Ns} (hr : hallRuns s = true)
    (hd : (s.zone.discards.find? fun d => decide (d.seq = seq)) = some d) (hj : s.media.journalReadOnly = false)
    (hb : d.begun = false) (hy : discardReady s d = true) (hn : nsAt s d.nsx = some n) (hf : rangeInFlight s d = false) :
    discardStep seq s =
      updDiscard d (fun k => { k with begun := true, stale := staleGroups s d n, current := rangeGroups s d }) s := by
  unfold discardStep
  simp only [hd, hr, hj, hb, hy, Bool.not_true, Bool.not_false, Bool.false_eq_true, or_self, if_false, if_true]
  unfold discardBegin
  simp only [hn, hf, Bool.false_eq_true, if_false]

/-- A discard that has begun takes the step of its lists. -/
theorem discardStep_begun {seq : Nat} {d : Discard} (hr : hallRuns s = true)
    (hd : (s.zone.discards.find? fun d => decide (d.seq = seq)) = some d) (hj : s.media.journalReadOnly = false)
    (hb : d.begun = true) :
    (∀ eg rest, d.stale = eg :: rest → discardStep seq s = discardStale eg s) ∧
    (∀ eg rest, d.stale = [] → d.current = eg :: rest → discardStep seq s = discardCurrent d eg s) ∧
    (∀ it, d.stale = [] → d.current = [] → itemBySeq s seq = some it → it.outcome = none →
      discardStep seq s = discardRest d s) := by
  unfold discardStep
  simp only [hd, hr, hj, hb, Bool.not_true, Bool.false_eq_true, or_self, if_false]
  refine ⟨fun eg rest hs => ?_, fun eg rest hs hc => ?_, fun it hs hc hi ho => ?_⟩
  · simp only [hs]
  · simp only [hs, hc]
  · simp only [hs, hc, hi, ho, Option.isSome_none, Bool.false_eq_true, if_false]

theorem candidate_closed {g : Group} (h : g.candidate = true) : g.st = .closed := by
  unfold Group.candidate at h
  simp only [Bool.and_eq_true, decide_eq_true_eq] at h
  exact h.1.1

theorem discardStale_candidate {eg : Nat} {g : Group} (hg : groupAt s eg = some g) (hc : g.candidate = true) :
    discardStale eg s = startVictim eg 0 g (victimUnits s eg g) s := by
  unfold discardStale
  simp only [hg, candidate_closed hc, hc, reduceCtorEq, if_false, if_true]

theorem discardCurrent_unmaps {d : Discard} {eg : Nat} {g : Group} (hg : groupAt s eg = some g) (hc : g.st = .closed)
    (hv : g.victim = false) (hw : pendWaits s eg = false) (hp : pendRoom s = true)
    (ho : ((victimUnits s eg g).filter fun p => !inRange d p.1) = []) : discardCurrent d eg s =
      submit { jrec .secureStep with unmap := some (d.nsx, d.first, d.count), eg := eg, erase := [eg] } (takePend eg s) := by
  unfold discardCurrent
  simp only [hg, hc, hv, hw, hp, ho, List.isEmpty_nil, reduceCtorEq, ne_eq, not_true_eq_false, Bool.not_true,
    Bool.false_eq_true, or_self, if_false]

theorem takePend_pends {eg : Nat} {g : Group} (hg : groupAt s eg = some g) :
    ∃ k, groupAt (takePend eg s) eg = some k ∧ k.pendIdx.isSome = true ∧ k.st = g.st :=
  ⟨_, groupAt_updGroup _ hg, rfl, rfl⟩

/-- The last step of a discard that a command waits for. -/
theorem discardRest_ends {d : Discard} (hk : d.seq ≠ wipeKey d.nsx) (hf : rangeInFlight s d = false)
    (hg : rangeGroups s d = []) : discardRest d s = submit { jrec .unmap with
      unmap := some (d.nsx, d.first, d.count)
      items := if (s.zone.discards.erase d).any fun k => decide (k.seq = d.seq) then [] else [d.seq] } (dropDiscard d s) := by
  unfold discardRest
  simp only [hf, hg, List.isEmpty_nil, Bool.false_eq_true, if_false, if_true]
  unfold discardEnd
  simp only [hk, or_false]
  rfl

/-! ### Refresh, patrol and probes -/

theorem refreshAge_reached {eg : Nat} {g : Group} (hr : hallRuns s = true) (hg : groupAt s eg = some g) (hc : g.st = .closed)
    (ha : g.lastProg + 2 ^ 41 ≤ (s.frame.counter : Int)) : refreshAge eg s = refreshGroup eg s := by
  have hb : booted s = true := by
    simp only [hallRuns, ctrlRuns, Bool.and_eq_true] at hr
    exact hr.1.1.1
  unfold refreshAge
  simp only [hg]
  exact when_of (by simp only [hb, hc, now, ha, decide_true, Bool.and_self]) _ _

theorem patrol_reads {eg row : Nat} {g : Group} (hr : hallRuns s = true) (hg : groupAt s eg = some g)
    (hn : patrolNext s = some eg) (hw : row < g.rows) : patrol eg row s =
      forEach (rowPlaces s eg row) (fun l s => addRead (readOp s .patrol g.nsx 0 l) s)
        (updFlash (fun f => { f with patrolPos := eg }) s) := by
  unfold patrol
  simp only [hg, hr, hn, Bool.not_true, Bool.false_eq_true, ne_eq, not_true_eq_false, Nat.not_le.mpr hw, or_self, if_false]
  rfl

theorem patrolReads_reads (x : Nat) (l : List Loc) (s : State) :
    (forEach l (fun l s => addRead (readOp s .patrol x 0 l) s) s).flash.patrolPos = s.flash.patrolPos ∧
      Only [.flash] s (forEach l (fun l s => addRead (readOp s .patrol x 0 l) s) s) ∧
      ∃ k, (forEach l (fun l s => addRead (readOp s .patrol x 0 l) s) s).flash.reads = s.flash.reads ++ k ∧
        k.map (fun r => (r.for_, r.loc)) = l.map fun p => (RdFor.patrol, p) :=
  ⟨forEach_keeps (f := fun l s => addRead (readOp s .patrol x 0 l) s) (·.flash.patrolPos) (fun _ _ => rfl) l s,
    forEach_addRead_only (fun s l => readOp s .patrol x 0 l) l s,
    forEach_addRead (fun r => (r.for_, r.loc)) (fun _ _ => rfl) (q := fun s l => readOp s .patrol x 0 l) (fun _ _ => rfl) l s⟩

theorem probe_reads {die : Nat} {d : Die} {p : Loc} (hr : hallRuns s = true) (hd : dieAt s die = some d)
    (hp : pageOn s die = some p) (hs : d.slow = true) (hl : d.lastRead + 1024 < s.frame.elapsed)
    (hn : (s.flash.reads.any fun r => decide (r.for_ = .probe) && decide (r.loc = p)) = false) :
    probe die s = addRead { readOp s .probe 65536 0 p with noBack := true } s := by
  have due : fired d.lastRead 1024 (clk s) = true := fired_of_lt hl
  unfold probe
  simp only [hd, hp, hr, hs, due, hn, Bool.not_true, Bool.false_eq_true, or_self, if_false]

/-- Settles O56: a victim's reads are on their way, so its start leaves it a victim; a secure discard takes the step of
its lists; refresh, patrol and probes are one write each. -/
theorem groupsAreMaintained : Obligations.GroupsAreMaintained := by
  unfold Obligations.GroupsAreMaintained
  refine fun s hr => ⟨fun eg g k rest hg hv hn ho hu => ?_, fun seq d hd hj => ?_, fun eg g hg hc ha => ?_,
    fun eg row g hg hn hw => ?_, fun die d p hd hp hs hl hn => ?_⟩
  · have e := relocationStart_runs (s := { s with emit := [] }) hr hg hv hn ho
    obtain ⟨victims, group, -, reads⟩ := startVictim_reads (s := { s with emit := [] }) eg k hu hg
    exact act_does rfl (e ▸ ⟨victims, group, reads⟩)
  · refine ⟨fun n hb hy hx hf => ?_, fun eg g rest hb hs hg hc hu => ?_, fun eg g rest hb hs hc hg hst hv hw hp ho => ?_,
      fun it hb hs hc hi ho hk hf hg => ?_⟩
    · have e := discardStep_begins (s := { s with emit := [] }) hr hd hj hb hy hx hf
      refine act_does rfl (e ▸ ⟨rfl, ?_⟩)
      exact updZone_only _ _ ((emptied_only s).mono (by decide)) (by decide)
    · have e := ((discardStep_begun (s := { s with emit := [] }) hr hd hj hb).1 _ _ hs).trans (discardStale_candidate hg hc)
      obtain ⟨-, group, zone, -⟩ := startVictim_reads (s := { s with emit := [] }) eg 0 hu hg
      exact act_does rfl (e ▸ ⟨group, zone⟩)
    · have e := ((discardStep_begun (s := { s with emit := [] }) hr hd hj hb).2.1 _ _ hs hc).trans
        (discardCurrent_unmaps hg hst hv hw hp ho)
      obtain ⟨k, group, pends, same⟩ := takePend_pends (s := { s with emit := [] }) hg
      exact act_does rfl (e ▸ ⟨⟨k, group, pends, same.trans hst⟩, _, rfl, rfl, rfl, rfl, rfl, rfl⟩)
    · have same : d.seq = seq := by simpa using List.find?_some hd
      have e := ((discardStep_begun (s := { s with emit := [] }) hr hd hj hb).2.2 it hs hc hi ho).trans
        (discardRest_ends (same ▸ hk) hf hg)
      exact act_does rfl (e ▸ ⟨rfl, _, rfl, rfl, rfl, rfl⟩)
  · have e := refreshAge_reached (s := { s with emit := [] }) hr hg hc ha
    refine act_does rfl (e ▸ ⟨groupAt_updGroup _ hg, ?_⟩)
    exact updGroup_only _ _ _ ((emptied_only s).mono (by decide)) (by decide)
  · have e := patrol_reads (s := { s with emit := [] }) hr hg hn hw
    obtain ⟨turn, only, reads⟩ := patrolReads_reads g.nsx (rowPlaces s eg row)
      (updFlash (fun f => { f with patrolPos := eg }) { s with emit := [] })
    refine act_does rfl (e ▸ ⟨turn, ?_, reads⟩)
    exact (updFlash_only _ _ ((emptied_only s).mono (by decide)) (by decide)).trans (only.mono (by decide))
  · have e := probe_reads (s := { s with emit := [] }) hr hd hp hs hl hn
    refine act_does rfl (e ▸ ⟨?_, _, rfl, rfl, rfl⟩)
    exact addRead_only _ _ ((emptied_only s).mono (by decide)) (by decide)

end Sys2Proof.Machine
end

section
/-! SUPPORT. Stripe rows are bound to flash (R27, R46, R168, R170, R172). -/

namespace Sys2Proof.Machine

variable {s t : State} {x eg : Nat} {g : Group} {zone : Option (Nat × Nat)} {pos : List Nat}

/-! ### What of the state says that a row is bound -/

/-- The row operations, the groups and the requests of the plan being built. -/
def rowView (s : State) : List RowOp × Tab Group × List MediaReq := (s.media.rowOps, s.media.groups, s.flash.reqs)

theorem rowView_of_only {ps : List Part} (h : Only ps s t) (hm : Part.media ∉ ps := by decide)
    (hf : Part.flash ∉ ps := by decide) : rowView t = rowView s := by
  have media : t.media = s.media := h.same .media hm
  have flash : t.flash = s.flash := h.same .flash hf
  unfold rowView
  rw [media, flash]

theorem RowBound.to {t' : State} (h : RowBound s t x eg g zone pos) (e : rowView t' = rowView t) :
    RowBound s t' x eg g zone pos := by
  obtain ⟨rows, rest⟩ := Prod.ext_iff.mp e
  obtain ⟨groups, reqs⟩ := Prod.ext_iff.mp rest
  dsimp only [rowView] at rows groups reqs
  obtain ⟨op, group, asked⟩ := h
  unfold groupAt at group
  refine ⟨rows ▸ op, ?_, reqs ▸ asked⟩
  unfold groupAt
  rwa [groups]

theorem RowBound.from {s' : State} (h : RowBound s' t x eg g zone pos) (e : rowView s' = rowView s)
    (i : s'.frame.inputOpen = s.frame.inputOpen) : RowBound s t x eg g zone pos := by
  obtain ⟨rows, rest⟩ := Prod.ext_iff.mp e
  obtain ⟨-, reqs⟩ := Prod.ext_iff.mp rest
  dsimp only [rowView] at rows reqs
  obtain ⟨op, group, asked⟩ := h
  exact ⟨rows ▸ op, group, fun open_ => reqs ▸ asked (i.trans open_)⟩

/-! ### A row is bound in its group -/

theorem request_open {q : MediaReq} (h : s.frame.inputOpen = true) :
    request q s = updFlash (fun f => { f with reqs := f.reqs ++ [q] }) s := if_pos h

/-- A loop of requests in the open window appends them in order. -/
theorem forEach_request {α β : Type} (key : MediaReq → β) {q : State → α → MediaReq} {c : α → β}
    (hq : ∀ s p, key (q s p) = c p) (l : List α) (h : s.frame.inputOpen = true) :
    ∃ k, (forEach l (fun p s => request (q s p) s) s).flash.reqs = s.flash.reqs ++ k ∧ k.map key = l.map c := by
  induction l generalizing s with
  | nil => exact ⟨[], (List.append_nil _).symm, rfl⟩
  | cons p l ih =>
    have e := request_open (q := q s p) h
    obtain ⟨k, hr, hm⟩ := ih (s := request (q s p) s) (e ▸ h)
    refine ⟨q s p :: k, hr.trans ?_, ?_⟩
    · rw [e]
      exact List.append_assoc s.flash.reqs [_] k
    · rw [List.map_cons, List.map_cons, hm, hq]

theorem requestRow_asks {row : Nat} {gc : Bool} {k : Group} (hg : groupAt s eg = some k) (h : s.frame.inputOpen = true) :
    ∃ l, (requestRow eg row gc s).flash.reqs = s.flash.reqs ++ l ∧
      l.map (fun q => (q.kind, q.eg, q.row, q.member)) =
        (List.range k.members.length).map fun m => (OpKind.program, eg, row, m) := by
  unfold requestRow
  simp only [hg]
  obtain ⟨l, hr, hm⟩ := forEach_request (fun q => (q.kind, q.eg, q.row, q.member))
    (q := fun s (p : Nat × Member) => { kind := .program, eg := eg, row := row, member := p.1,
                                             die := (p.2.at row).1, gc := gc, owner := k.owner, frame := clk s })
    (c := fun p => (OpKind.program, eg, row, p.1)) (fun _ _ => rfl) ((List.range k.members.length).zip k.members) h
  refine ⟨l, hr, hm.trans ?_⟩
  have first : ((List.range k.members.length).zip k.members).map Prod.fst = List.range k.members.length :=
    List.map_fst_zip (by simp)
  exact (List.map_map (g := fun m => (OpKind.program, eg, row, m)) (f := Prod.fst)).symm.trans (congrArg _ first)

theorem rowView_updLanded (ord : Nat) (f : Landed → Landed) (s : State) : rowView (updLanded ord f s) = rowView s := rfl

/-- Changing the second parts of some pairs leaves the first ones. -/
theorem map_ite_fst {α β : Type} (c : α × β → Prop) [DecidablePred c] (f : α × β → β) (l : List (α × β)) :
    (l.map fun p => if c p then p else (p.1, f p)).map Prod.fst = l.map Prod.fst := by
  rw [List.map_map]
  exact List.map_congr_left fun p _ => (apply_ite Prod.fst _ _ _).trans (ite_self _)

theorem bindIn_binds {o : RowOp} (hg : groupAt s eg = some g) (hr : o.reloc = none) :
    RowBound s (bindIn eg true o s) o.nsx eg g o.zone (o.units.map (·.1)) := by
  unfold bindIn
  split
  case h_1 h => cases h.symm.trans hg
  case h_2 g' h =>
    cases h.symm.trans hg
    extract_lets row bad units o' regs s1 s2 s3 s4 s5
    have landed : rowView s3 = rowView s2 := by
      refine forEach_keeps rowView (fun p s => ?_) units s2
      split
      · exact rowView_updLanded _ _ s
      · rfl
    have only3 : Only [.media] s s3 := by
      refine only_forEach units _ _ ?_ fun p t k => ?_
      · exact updMedia_only _ _ (updGroup_only _ _ _ (only_refl _ _) (by decide)) (by decide)
      · split
        · exact updLanded_only _ _ _ k (by decide)
        · exact k
    have only4 : Only [.flash] s3 s4 := requestRow_only _ _ _ _ (only_refl _ _) (by decide)
    have input : s3.frame.inputOpen = s.frame.inputOpen := congrArg FrameSt.inputOpen (only3.same .frame (by decide))
    have media : s4.media = s3.media := only4.same .media (by decide)
    have flash : s3.flash = s.flash := only3.same .flash (by decide)
    obtain ⟨rows, rest⟩ := Prod.ext_iff.mp landed
    obtain ⟨groups, -⟩ := Prod.ext_iff.mp rest
    dsimp only [rowView] at rows groups
    obtain ⟨k, group, next, left, inFlight, members⟩ : ∃ k, groupAt s2 eg = some k ∧ k.nextRow = row + 1 ∧
        k.reserved = g.reserved - 1 ∧ row ∈ k.inFlight ∧ k.members = g.members :=
      ⟨_, groupAt_updGroup (s := s) _ hg, rfl, rfl, List.mem_append_right _ List.mem_cons_self, rfl⟩
    have group3 : groupAt s3 eg = some k := by
      unfold groupAt at group ⊢
      rw [groups, group]
    have tail : rowView (if bad.isEmpty = true then s4 else setCritical 2 { callWrite s5 with
        therm := { s5.therm with mediaErrors := s5.therm.mediaErrors + bad.length } }) = rowView s4 := by
      split
      · rfl
      · exact rowView_of_only (ps := [.frame, .host, .inst, .therm, .pins, .recd, .emit]) (setCritical_only _ _
          (only_therm _ (callWrite_only _ (recDataErr_only _ _ _ (recDataErr_only _ _ _ (only_refl _ _)
            (by decide)) (by decide)) (by decide)) (by decide)) (by decide))
    have places : units.map (·.1) = o.units.map (·.1) := by
      exact map_ite_fst _ _ _
    refine RowBound.to (t := s4)
      ⟨⟨o', ?_, rfl, rfl, rfl, rfl, hr, places, rfl⟩, ⟨k, ?_, next, left, inFlight⟩, fun h => ?_⟩ tail
    · rw [media, rows]
      rfl
    · unfold groupAt at group3 ⊢
      rw [media, group3]
    · rw [← flash, ← members]
      exact requestRow_asks group3 (input.trans h)

theorem claimGood_of (hg : groupAt s eg = some g) (h : claimGood s eg = true) {u : State} (m : u.media = s.media) :
    groupAt u eg = some g ∧ claimGood u eg = true := by
  unfold claimGood groupAt at *
  rw [m]
  exact ⟨hg, h⟩

/-! ### The row of a zone -/

/-- The row operation that a dispatch makes of landed units. -/
def landedUnits (first : Nat) (l : List Landed) : Tab RowUnit :=
  l.map fun e => (e.unit - first, { unit := e.unit, src := .landing e.order, stored := e.stored : RowUnit })

theorem zoneReady_row {n : Ns} {first : Nat} {waited : Bool} {r : Zone} (hz : zoneAt s (zoneOfUnit n first) = some r)
    (ha : first % zoneUnits n % rowUnits n.width = 0) (hc : first % zoneUnits n < zoneCap n)
    (hl : zoneRowUnits s x first (rowUnits n.width) ≠ []) (hv : zoneLeaves s (zoneOfUnit n first) = false)
    (hw : (zoneRowUnits s x first (rowUnits n.width)).length +
        rowDone s (zoneOfUnit n first) (first % zoneUnits n / rowUnits n.width) r = rowUnits n.width ∨ r.st = .full ∨
      closesPartial s = true ∨ (waited = true ∧ partialWaited s (zoneRowUnits s x first (rowUnits n.width)) = true)) :
    zoneReady s x n first waited = some (zoneRowUnits s x first (rowUnits n.width), zoneOfUnit n first,
      first % zoneUnits n / rowUnits n.width,
      decide (0 < rowDone s (zoneOfUnit n first) (first % zoneUnits n / rowUnits n.width) r)) := by
  have some_ : (zoneRowUnits s x first (rowUnits n.width)).isEmpty = false := by simpa using hl
  have stays : ¬(first % zoneUnits n % rowUnits n.width ≠ 0 ∨ zoneCap n ≤ first % zoneUnits n ∨
      (zoneRowUnits s x first (rowUnits n.width)).isEmpty = true ∨ zoneLeaves s (zoneOfUnit n first) = true) := by
    simp [ha, some_, hv, hc]
  unfold zoneReady
  dsimp only
  simp only [hz]
  rw [if_neg stays, if_pos]
  simp only [Bool.or_eq_true, Bool.and_eq_true, decide_eq_true_eq]
  exact hw.imp_right or_assoc.mpr

theorem dispatchZone_binds {n : Ns} {first z k : Nat} {waited cont : Bool} {l : List Landed} {r : Zone}
    (hy : zoneReady s x n first waited = some (l, z, k, cont)) (hz : zoneAt s z = some r) (hc : tabGet r.claims k = some eg)
    (hg : groupAt s eg = some g) (hd : claimGood s eg = true) :
    RowBound s (dispatchZone x n first waited s) x eg g (some (z, k)) (l.map fun e => e.unit - first) := by
  have zone : Only [.zone] s (updZoneRec z (fun r => { r with claims := tabDel r.claims k }) s) :=
    updZoneRec_only _ _ _ (only_refl _ _) (by decide)
  obtain ⟨group, good⟩ := claimGood_of hg hd (zone.same .media (by decide))
  have row : bindZoneRow z k cont (rowOp x (some (z, k)) 0 none (landedUnits first l)) s = some (bindIn eg true
      (rowOp x (some (z, k)) 0 none (landedUnits first l))
      (updZoneRec z (fun r => { r with claims := tabDel r.claims k }) s)) := by
    unfold bindZoneRow
    simp only [hz, hc]
    exact if_pos good
  have bound := (bindIn_binds (o := rowOp x (some (z, k)) 0 none (landedUnits first l)) group rfl).from
    (rowView_of_only zone) (congrArg FrameSt.inputOpen (zone.same .frame (by decide)))
  have places : (landedUnits first l).map (·.1) = l.map fun e => e.unit - first := List.map_map ..
  unfold dispatchZone
  simp only [hy]
  unfold landedUnits at row
  simp only [row]
  refine RowBound.to (places ▸ bound) ?_
  refine (rowView_of_only (ps := [.zone]) (blockNs_only _ _ _ (only_refl _ _) (by decide))).trans ?_
  refine (rowView_of_only (ps := [.frame]) (noteRowTie_only _ _ (only_refl _ _) (by decide))).trans ?_
  unfold when
  split <;> rfl

/-! ### The row of a conventional namespace -/

theorem convReady_row {n : Ns} {first : Nat} {waited : Bool} (hl : convRowUnits s x first (rowUnits n.width) ≠ [])
    (hw : (convRowUnits s x first (rowUnits n.width)).length = rowUnits n.width ∨ closesPartial s = true ∨
      (waited = true ∧ partialWaited s (convRowUnits s x first (rowUnits n.width)) = true)) :
    convReady s x n first waited = some (convRowUnits s x first (rowUnits n.width)) := by
  unfold convReady
  extract_lets ru l
  have some_ : l.isEmpty = false := List.isEmpty_eq_false_iff.mpr hl
  refine if_neg ?_
  rw [some_]
  simp only [Bool.false_eq_true, false_or, Bool.not_eq_true', Bool.not_eq_false, Bool.or_eq_true, Bool.and_eq_true,
    decide_eq_true_eq, or_assoc]
  exact hw

/-- The row operation that a dispatch makes of landed units in their order. -/
def orderedUnits (l : List Landed) : Tab RowUnit :=
  ((List.range l.length).zip l).map fun p =>
    (p.1, { unit := p.2.unit, src := .landing p.2.order, stored := p.2.stored : RowUnit })

theorem dispatchConv_binds {n : Ns} {lc : Nat} {rest : List Nat} {waited : Bool} {l : List Landed}
    (hy : convReady s x n lc waited = some l) (hn : nsAt s x = some n) (hc : nsClaims n lc = eg :: rest)
    (hg : groupAt s eg = some g) (hd : claimGood s eg = true) :
    RowBound s (dispatchConv x n lc waited s) x eg g none (List.range l.length) := by
  have zone : Only [.zone] s (updNs x (fun n => { n with claims := tabSet n.claims lc rest }) s) :=
    updNs_only _ _ _ (only_refl _ _) (by decide)
  obtain ⟨group, good⟩ := claimGood_of hg hd (zone.same .media (by decide))
  have row : bindConvRow x lc (rowOp x none lc none (orderedUnits l)) s = some (bindIn eg true
      (rowOp x none lc none (orderedUnits l)) (updNs x (fun n => { n with claims := tabSet n.claims lc rest }) s)) := by
    unfold bindConvRow
    simp only [hn, hc]
    exact if_pos good
  have bound := (bindIn_binds (o := rowOp x none lc none (orderedUnits l)) group rfl).from
    (rowView_of_only zone) (congrArg FrameSt.inputOpen (zone.same .frame (by decide)))
  have places : (orderedUnits l).map (·.1) = List.range l.length :=
    (List.map_map ..).trans (List.map_fst_zip (by simp))
  unfold dispatchConv
  simp only [hy]
  unfold orderedUnits at row
  simp only [row]
  refine RowBound.to (places ▸ bound) ?_
  refine (rowView_of_only (ps := [.zone]) (blockNs_only _ _ _ (only_refl _ _) (by decide))).trans ?_
  exact rowView_of_only (ps := [.frame]) (noteRowTie_only _ _ (only_refl _ _) (by decide))

/-! ### The turn of a row -/

theorem dispatchRow_turn {n : Ns} {first : Nat} (waited : Bool) (hb : booted s = true) (hf : flushing s = false)
    (hj : s.media.journalReadOnly = false) (ht : rowTurn (noteReady s) x first = true) (hn : nsAt s x = some n) :
    dispatchRow x first waited s =
      if n.zoned then dispatchZone x n first waited (noteReady s) else dispatchConv x n first waited (noteReady s) := by
  have found : nsAt (noteReady s) x = some n := hn
  unfold dispatchRow
  simp only [hb, hf, hj, ht, found, Bool.not_true, Bool.false_eq_true, or_self, if_false]

/-- Settles O52: the row that is ready in its turn is bound, on the row that its claim reserved. -/
theorem rowsAreBound : Obligations.RowsAreBound := by
  unfold Obligations.RowsAreBound
  intro s x first eg n g hb hf hj hn hg hd ht
  have turn := fun waited => dispatchRow_turn (s := { s with emit := [] }) waited hb hf hj ht hn
  refine ⟨fun r hz hr ha hc hl hk hv => ?_, fun rest hz hk hl => ?_⟩
  · have bound : ∀ waited, ((zoneRowUnits s x first (rowUnits n.width)).length +
        rowDone s (zoneOfUnit n first) (first % zoneUnits n / rowUnits n.width) r = rowUnits n.width ∨ r.st = .full ∨
          closesPartial s = true ∨
          (waited = true ∧ partialWaited s (zoneRowUnits s x first (rowUnits n.width)) = true)) →
        RowBound s (dispatchRow x first waited { s with emit := [] }) x eg g
          (some (zoneOfUnit n first, first % zoneUnits n / rowUnits n.width))
          ((zoneRowUnits s x first (rowUnits n.width)).map fun e => e.unit - first) := fun waited hw => by
      rw [turn, if_pos hz]
      have ready := zoneReady_row hr ha hc hl hv hw
      exact (dispatchZone_binds (s := noteReady { s with emit := [] }) ready hr hk hg hd).from rfl rfl
    exact ⟨fun hw => act_does rfl (bound false (hw.imp_right (Or.imp_right .inl))), fun hw => act_does rfl (bound true (.inr (.inr (.inr ⟨rfl, hw⟩))))⟩
  · have bound : ∀ waited, ((convRowUnits s x first (rowUnits n.width)).length = rowUnits n.width ∨
          closesPartial s = true ∨
          (waited = true ∧ partialWaited s (convRowUnits s x first (rowUnits n.width)) = true)) →
        RowBound s (dispatchRow x first waited { s with emit := [] }) x eg g none
          (List.range (convRowUnits s x first (rowUnits n.width)).length) := fun waited hw => by
      rw [turn, if_neg (by simp [hz])]
      exact (dispatchConv_binds (s := noteReady { s with emit := [] }) (convReady_row hl hw) hn hk hg hd).from rfl rfl
    exact ⟨fun hw => act_does rfl (bound false (hw.imp_right .inl)), fun hw => act_does rfl (bound true (.inr (.inr ⟨rfl, hw⟩)))⟩

end Sys2Proof.Machine
end

section
/-! SUPPORT. Flush, Read, Verify, Dataset Management and Report Zones (R27, R28, R109, R110, R148, R154). -/

namespace Sys2Proof.Machine

variable {s t u : State} {id : CmdId} {opc x : Nat} {it : Item} {n : Ns}

/-! ### An I/O command that is taken up -/

theorem ioOpen_hallRuns (h : ioOpen s it = true) : hallRuns s = true := by
  simp only [ioOpen, Bool.and_eq_true] at h
  exact h.1.1.1.2

theorem ioOpen_unlatched (h : ioOpen s it = true) : it.outcome = none := by
  simp only [ioOpen, Bool.and_eq_true, Option.isNone_iff_eq_none] at h
  exact h.1.2

theorem parseIo_plain (h : parseIo s it = .inr (x, n)) : it.sqe.fuse = 0 ∧ sglFault it.sqe = none := by
  unfold parseIo at h
  dsimp only at h
  split at h
  case isTrue => cases h
  case isFalse fuse =>
    split at h
    case h_1 => cases h
    case h_2 sgl => exact ⟨Decidable.not_not.mp fuse, sgl⟩

theorem itemBySeq_updItem {m : Nat} {f : Item → Item} (hf : ∀ i, (f i).seq = i.seq) (h : itemBySeq s m = some it) :
    itemBySeq (updItem m f s) m = some (f it) := by
  unfold itemBySeq at h ⊢
  exact (find_map_seq s.host.items m f hf).trans (by rw [h]; rfl)

/-- A command ends successfully from a state whose controllers are those of `s`. -/
theorem finishOk_completes (hi : itemBySeq u it.seq = some it) (ho : it.outcome = none) (hs : it.silent = false)
    (hf : flushing u = false) (hc : u.host.ctls = s.host.ctls) : Completes s (finishOk it.seq u) it stOk 0 0 :=
  finish_completes stOk 0 0 hi ho hs hf hc

theorem IoRuns.completes (a : IoRuns s id opc it x n) (hh : u.host = s.host) (hp : u.power = s.power) :
    Completes s (finishOk it.seq u) it stOk 0 0 := by
  have found : itemBySeq u it.seq = some it := (itemBySeq_of_items (congrArg HostSt.items hh) _).trans a.unique
  have runs : flushing u = false := by
    unfold flushing
    rw [hp]
    exact hallRuns_flushing (ioOpen_hallRuns a.taken)
  exact finishOk_completes found (ioOpen_unlatched a.taken) a.heard runs (congrArg HostSt.ctls hh)

theorem IoRuns.act (a : IoRuns s id opc it x n) : IoRuns { s with emit := [] } id opc it x n :=
  ⟨a.found, a.unique, a.queue, a.opcode, a.fetched, a.heard, a.taken, a.parsed⟩

/-! ### Flush -/

theorem flushIo_runs (a : IoRuns s id 0x00 it x n) (hb : barrierOpen s it = true) (hn : it.sqe.nsid.toNat ≠ 0xFFFFFFFF) :
    flushIo id s = finishOk it.seq s := by
  obtain ⟨fuse, sgl⟩ := parseIo_plain a.parsed
  unfold flushIo
  simp only [a.found, a.opcode, a.queue, a.taken, hb, fuse, sgl, hn, a.parsed, Bool.not_true, Bool.false_eq_true, ne_eq,
    not_true_eq_false, or_self, if_false]

theorem flushIo_all (hi : findItem s id = some it) (hq : id.sq ≠ 0) (ho : it.opc = 0x00) (ht : ioOpen s it = true)
    (hb : barrierOpen s it = true) (hf : it.sqe.fuse = 0) (hg : sglFault it.sqe = none)
    (hn : it.sqe.nsid.toNat = 0xFFFFFFFF) (hk : blockedAll s it = none) : flushIo id s = finishOk it.seq s := by
  unfold flushIo
  simp only [hi, ho, hq, ht, hb, hf, hg, hn, hk, Bool.not_true, Bool.false_eq_true, ne_eq, not_true_eq_false, or_self,
    if_false, if_true]

/-! ### Read and Verify -/

theorem readRow_starts (a : IoRuns s id opc it x n) (hb : barrierOpen s it = true)
    (hd : deallocatedRead s it x n (firstUnit n it.sqe.slba) (unitCount n it.sqe.slba it.sqe.nlb) = false) :
    readRow opc id s = forEach (List.range' (firstUnit n it.sqe.slba) (unitCount n it.sqe.slba it.sqe.nlb))
      (readUnit it x n) (updItem it.seq (fun i => { i with
        phase := .started, hold := .none, unit := firstUnit n it.sqe.slba
        count := unitCount n it.sqe.slba it.sqe.nlb }) s) := by
  unfold readRow
  simp only [a.found, a.opcode, a.fetched, a.taken, a.parsed, Bool.not_true, Bool.false_eq_true, ne_eq,
    not_true_eq_false, or_self, if_false]
  unfold tryRead startRead
  simp only [hb, hd, Bool.false_eq_true, if_false, if_true]

/-- Each unit of a read has one request. -/
theorem readUnit_requests (it : Item) (x : Nat) (n : Ns) (v : Nat) (s : State) :
    ∃ r, (readUnit it x n v s).flash.reads = s.flash.reads ++ [r] ∧
      (r.unit, r.for_, r.nsx) = (v, RdFor.host it.seq, x) := by
  unfold readUnit
  dsimp only
  split
  · exact ⟨_, rfl, rfl⟩
  · exact ⟨_, rfl, rfl⟩
  · split
    · exact ⟨_, rfl, rfl⟩
    · exact ⟨_, rfl, rfl⟩

/-- The item of a read that starts. -/
def reading (n : Ns) (it i : Item) : Item :=
  { i with phase := .started, hold := .none, unit := firstUnit n it.sqe.slba, count := unitCount n it.sqe.slba it.sqe.nlb }

theorem readUnits_start (a : IoRuns s id opc it x n) (hh : u.host = s.host) (hf : u.flash = s.flash) (ht : t =
    forEach (List.range' (firstUnit n it.sqe.slba) (unitCount n it.sqe.slba it.sqe.nlb)) (readUnit it x n)
      (updItem it.seq (reading n it) u)) :
    Starts s t it .started (firstUnit n it.sqe.slba) (unitCount n it.sqe.slba it.sqe.nlb) ∧
      ∃ l, t.flash.reads = s.flash.reads ++ l ∧
        l.map (·.unit) = List.range' (firstUnit n it.sqe.slba) (unitCount n it.sqe.slba it.sqe.nlb) ∧
        ∀ r ∈ l, r.for_ = .host it.seq ∧ r.nsx = x := by
  subst ht
  have kept : Only [.media, .flash] (updItem it.seq (reading n it) u) (forEach (List.range' (firstUnit n it.sqe.slba)
      (unitCount n it.sqe.slba it.sqe.nlb)) (readUnit it x n) (updItem it.seq (reading n it) u)) :=
    only_forEach _ _ _ (only_refl _ _) fun _ _ h => readUnit_only _ _ _ _ _ h (by decide)
  have host := kept.same .host (by decide)
  have found : itemBySeq u it.seq = some it := (itemBySeq_of_items (congrArg HostSt.items hh) _).trans a.unique
  obtain ⟨l, hl, map⟩ := forEach_reads (readUnit_requests it x n)
    (List.range' (firstUnit n it.sqe.slba) (unitCount n it.sqe.slba it.sqe.nlb)) (updItem it.seq (reading n it) u)
  refine ⟨⟨⟨reading n it it, ?_, rfl, rfl, rfl, rfl, rfl, rfl⟩, ?_⟩, l, hl.trans ?_, ?_, fun r hr => ?_⟩
  · exact (itemBySeq_of_items (congrArg HostSt.items host) _).trans (itemBySeq_updItem (fun _ => rfl) found)
  · exact (congrArg HostSt.ctls host).trans (congrArg HostSt.ctls (hh : u.host = s.host) :)
  · exact congrArg (·.reads ++ l) hf
  · have units := congrArg (List.map Prod.fst) map
    rw [List.map_map, List.map_map] at units
    exact units.trans (List.map_id _)
  · have mem : (r.unit, r.for_, r.nsx) ∈ l.map fun r => (r.unit, r.for_, r.nsx) := List.mem_map_of_mem hr
    rw [map] at mem
    obtain ⟨v, -, e⟩ := List.mem_map.mp mem
    obtain ⟨-, rest⟩ := Prod.mk.inj e
    obtain ⟨reader, space⟩ := Prod.mk.inj rest
    exact ⟨reader.symm, space.symm⟩

/-! ### Dataset Management -/

theorem datasetManagement_runs (dma : Dma) (a : IoRuns s id 0x09 it x n) (hb : barrierOpen s it = true)
    (hz : n.zoned = false) (hl : dma.linkFails = false)
    (hr : ((dsmRanges dma (bits it.sqe.cdw10.toNat 7 0 + 1)).any fun r => decide (n.nsze < r.1 + r.2)) = false) :
    (it.sqe.cdw11.getLsbD 2 = false → datasetManagement dma id s = finishOk it.seq s) ∧
    (it.sqe.cdw11.getLsbD 2 = true → s.media.journalReadOnly = false → datasetManagement dma id s =
      deallocate x n ((dsmRanges dma (bits it.sqe.cdw10.toNat 7 0 + 1)).map fun r => wholeUnits n r.1 r.2) it s) := by
  have idle : it.running = false := by simp [Item.running, a.fetched]
  have e : datasetManagement dma id s = if !it.sqe.cdw11.getLsbD 2 then finishOk it.seq s
      else if s.media.journalReadOnly then finishBad it.seq stJournal s
      else deallocate x n ((dsmRanges dma (bits it.sqe.cdw10.toNat 7 0 + 1)).map fun r => wholeUnits n r.1 r.2) it s := by
    unfold datasetManagement
    simp only [a.found, a.opcode, a.queue, idle, a.taken, hb, a.parsed, hz, hl, hr, Bool.not_true, Bool.false_eq_true, ne_eq,
      not_true_eq_false, or_self, if_false]
  refine ⟨fun h => ?_, fun h hj => ?_⟩
  · rw [e, h]
    rfl
  · rw [e, h, hj]
    rfl

/-- The records of a deallocation: one for each range, the last one with the command. -/
theorem forEach_unmaps (seq x last : Nat) (l : List (Nat × Nat × Nat)) (s : State) :
    ∃ k, (forEach l (fun p => submit { jrec .unmap with
        unmap := some (x, p.2.1, p.2.2), items := if p.1 = last then [seq] else [] }) s).media.ring = s.media.ring ++ k ∧
      k.map (fun r => (r.unmap, r.items)) =
        l.map fun p => (some (x, p.2.1, p.2.2), if p.1 = last then [seq] else []) := by
  induction l generalizing s with
  | nil => exact ⟨[], (List.append_nil _).symm, rfl⟩
  | cons p l ih =>
    obtain ⟨k, hr, hm⟩ := ih (submit { jrec .unmap with
        unmap := some (x, p.2.1, p.2.2), items := if p.1 = last then [seq] else [] } s)
    refine ⟨_ :: k, hr.trans (List.append_assoc s.media.ring [_] k), ?_⟩
    rw [List.map_cons, List.map_cons, hm]
    rfl

/-- What numbered ranges say of the records made of them. -/
theorem ranged_map {x seq : Nat} (l : List (Nat × Nat)) {k : List JRec} (h : k.map (fun r => (r.unmap, r.items)) =
    ((List.range l.length).zip l).map fun p => (some (x, p.2.1, p.2.2), if p.1 = l.length - 1 then [seq] else [])) :
    k.map (·.unmap) = l.map (fun r => some (x, r.1, r.2)) ∧ (l ≠ [] → k.getLast?.map (·.items) = some [seq]) := by
  have numbers : ((List.range l.length).zip l).map Prod.fst = List.range l.length := List.map_fst_zip (by simp)
  have ranges : ((List.range l.length).zip l).map Prod.snd = l := List.map_snd_zip (by simp)
  have unmaps := congrArg (List.map Prod.fst) h
  have items := congrArg (List.map Prod.snd) h
  rw [List.map_map, List.map_map] at unmaps items
  refine ⟨unmaps.trans ?_, fun hl => ?_⟩
  · exact (List.map_map (g := fun r : Nat × Nat => some (x, r.1, r.2)) (f := Prod.snd)).symm.trans (congrArg _ ranges)
  · have last : k.map (·.items) = (List.range l.length).map fun i => if i = l.length - 1 then [seq] else [] :=
      items.trans ((List.map_map (g := fun i => if i = l.length - 1 then [seq] else []) (f := Prod.fst)).symm.trans
        (congrArg _ numbers))
    rw [← List.getLast?_map, last, List.getLast?_map, List.getLast?_range, if_neg (by simpa using hl)]
    simp

theorem forEach_discards (seq x : Nat) (l : List (Nat × Nat)) (s : State) :
    ∃ k, (forEach l (fun r s => beginDiscard seq x r.1 r.2 s) s).zone.discards = s.zone.discards ++ k ∧
      k.map (fun d => (d.seq, d.nsx, d.first, d.count)) = l.map fun r => (seq, x, r.1, r.2) := by
  induction l generalizing s with
  | nil => exact ⟨[], (List.append_nil _).symm, rfl⟩
  | cons p l ih =>
    obtain ⟨k, hr, hm⟩ := ih (beginDiscard seq x p.1 p.2 s)
    refine ⟨_ :: k, hr.trans (List.append_assoc s.zone.discards [_] k), ?_⟩
    rw [List.map_cons, List.map_cons, hm]

/-- The command of a deallocation, started. -/
def deallocating (ranges : List (Nat × Nat)) (it : Item) : Item := { it with phase := .started, ranges := ranges }

theorem deallocate_deallocates {ranges : List (Nat × Nat)} (hi : itemBySeq u it.seq = some it) (ho : it.outcome = none)
    (hs : it.silent = false) (hf : flushing u = false) (hc : u.host.ctls = s.host.ctls) (hm : u.media = s.media)
    (hz : u.zone = s.zone) : Deallocates s (deallocate x n ranges it u) it x n ranges := by
  have started : itemBySeq (updItem it.seq (deallocating ranges) u) it.seq = some (deallocating ranges it) :=
    itemBySeq_updItem (fun _ => rfl) hi
  have ends : Completes s (finishOk it.seq (updItem it.seq (deallocating ranges) u)) it stOk 0 0 := by
    obtain ⟨gone, posted⟩ := finishOk_completes (s := s) (it := deallocating ranges it) started ho hs hf hc
    exact ⟨gone, posted⟩
  unfold deallocate
  extract_lets a live last src b
  refine ⟨fun none_ => ?_, fun some_ => ?_⟩
  · have empty : live = [] := none_
    have same : b = a := by
      unfold b
      rw [empty]
      rfl
    rw [same]
    simp only [empty, List.isEmpty_nil, if_true, when_true, ite_self]
    exact ends
  · have full : live.isEmpty = false := List.isEmpty_eq_false_iff.mpr some_
    rcases Bool.eq_false_or_eq_true n.secdisc with d | d
    · have kept : Only [.zone, .media, .flash] a (forEach live (fun r s => beginDiscard it.seq x r.1 r.2 s) a) :=
        only_forEach _ _ _ (only_refl _ _) fun _ _ h => beginDiscard_only _ _ _ _ _ h (by decide)
      have host : (forEach live (fun r s => beginDiscard it.seq x r.1 r.2 s) a).host = a.host := kept.same .host (by decide)
      obtain ⟨k, hk, map⟩ := forEach_discards it.seq x live a
      simp only [d, full, Bool.false_eq_true, if_false, if_true]
      refine ⟨⟨deallocating ranges it, ?_, rfl, rfl⟩, ?_, fun h => absurd h (by decide), fun _ => ⟨k, hk.trans ?_, map⟩⟩
      · exact (itemBySeq_of_items (congrArg HostSt.items host) _).trans started
      · exact (congrArg HostSt.ctls host).trans hc
      · exact congrArg (·.discards ++ k) hz
    · have kept : Only [.media] a b := only_forEach _ _ _ (only_refl _ _) fun _ _ h => submit_only _ _ h (by decide)
      have host : b.host = a.host := kept.same .host (by decide)
      obtain ⟨k, hk, map⟩ := forEach_unmaps it.seq x last ((List.range live.length).zip live) a
      simp only [d, full, Bool.false_eq_true, if_false, when_not]
      refine ⟨⟨deallocating ranges it, ?_, rfl, rfl⟩, ?_, fun _ => ⟨k, hk.trans ?_, ?_, ?_⟩, fun h => absurd h (by decide)⟩
      · exact (itemBySeq_of_items (congrArg HostSt.items host) _).trans started
      · exact (congrArg HostSt.ctls host).trans hc
      · exact congrArg (·.ring ++ k) hm
      · exact (ranged_map live map).1
      · exact (ranged_map live map).2 some_

/-! ### Report Zones -/

/-- The records of the zones that a Report Zones names. -/
def reported (s : State) (n : Ns) (it : Item) : List Zone :=
  ((nsZones n).filter fun z => decide (zoneOfUnit n it.sqe.slba ≤ z)).filterMap fun z =>
    match zoneAt s z with
    | some r => if reports (bits it.sqe.cdw13.toNat 15 8) r.st then some r else none
    | none => none

/-- The data of a Report Zones of `bytes` bytes. -/
def zoneReport (s : State) (n : Ns) (it : Item) (bytes : Nat) : List Byte :=
  let fit := (reported s n it).take ((bytes - 64) / 64)
  let count := if it.sqe.cdw13.getLsbD 16 then fit.length else (reported s n it).length
  (le count 8 ++ zeros 56 ++ (fit.map (zoneDesc n)).flatten).take bytes

theorem reportZones_sends (a : IoRuns s id 0x7A it x n) (hb : barrierOpen s it = true) (hz : n.zoned = true)
    (h0 : bits it.sqe.cdw13.toNat 7 0 = 0) (ho : bits it.sqe.cdw13.toNat 15 8 ≤ 7)
    (hl : 4 * (it.sqe.cdw12.toNat + 1) ≤ 2 ^ 21) : reportZones id s =
      finishOk it.seq (send (.nvmeData id.fn (zoneReport s n it (4 * (it.sqe.cdw12.toNat + 1)))) s) := by
  have fits : ¬(7 < bits it.sqe.cdw13.toNat 15 8 ∨ 2 ^ 21 < 4 * (it.sqe.cdw12.toNat + 1)) := by omega
  unfold reportZones
  simp only [a.found, a.opcode, a.queue, a.taken, hb, h0, a.parsed, hz, Bool.not_true, Bool.false_eq_true, ne_eq,
    not_true_eq_false, or_self, if_false]
  rw [if_neg fits]
  rfl

theorem zoneReport_length (s : State) (n : Ns) (it : Item) (bytes : Nat) : (zoneReport s n it bytes).length ≤ bytes :=
  List.length_take_le _ _

/-- The zone is one that a Report Zones names. -/
def isReported (s : State) (n : Ns) (it : Item) (z : Nat) : Bool :=
  decide (zoneOfUnit n it.sqe.slba ≤ z) && match zoneAt s z with
    | some r => reports (bits it.sqe.cdw13.toNat 15 8) r.st
    | none => false

theorem reported_length (s : State) (n : Ns) (it : Item) :
    (reported s n it).length = ((nsZones n).filter (isReported s n it)).length := by
  unfold reported
  rw [List.length_filterMap_eq_countP, List.countP_filter, ← List.countP_eq_length_filter]
  refine List.countP_congr fun z _ => ?_
  unfold isReported
  cases zoneAt s z with
  | none => simp
  | some r => by_cases h : reports (bits it.sqe.cdw13.toNat 15 8) r.st = true <;> simp [h]

theorem zoneReport_count {bytes : Nat} (hp : it.sqe.cdw13.getLsbD 16 = false) (hb : 8 ≤ bytes) :
    (zoneReport s n it bytes).take 8 = le (reported s n it).length 8 := by
  have eight : (le (reported s n it).length 8).length = 8 := le_length _ _
  unfold zoneReport
  dsimp only
  rw [List.take_take, Nat.min_eq_left hb, hp]
  simp only [Bool.false_eq_true, if_false, List.append_assoc]
  rw [List.take_append_of_le_length (by omega), List.take_of_length_le (by omega)]

/-- Settles O48: each command is taken up, and ends, starts its reads, or starts the unmapping of its ranges. -/
theorem ioCommandsRun : Obligations.IoCommandsRun := by
  unfold Obligations.IoCommandsRun
  refine fun s id it x n hb => ⟨fun a hn => ?_, fun hi hu hq ho hs ht hf hg hn hk => ?_, fun hd c hc => ?_,
    fun dma a hz hl hr => ⟨fun h => ?_, fun h hj => ?_⟩, fun a hz h0 ho hl => ?_⟩
  · have e := flushIo_runs (s := { s with emit := [] }) (a.act) hb hn
    exact act_does rfl (e ▸ a.completes rfl rfl)
  · have e := flushIo_all (s := { s with emit := [] }) hi hq ho ht hb hf hg hn hk
    refine act_does rfl (e ▸ ?_)
    exact finishOk_completes (u := { s with emit := [] }) hu (ioOpen_unlatched ht) hs
      (hallRuns_flushing (ioOpen_hallRuns ht)) rfl
  · have starts := fun opc (a : IoRuns s id opc it x n) => readUnits_start (u := { s with emit := [] }) a rfl rfl
      (readRow_starts (s := { s with emit := [] }) a.act hb hd)
    rcases hc with ⟨rfl, a⟩ | ⟨rfl, a⟩
    · exact act_does rfl (starts 0x02 a)
    · exact act_does rfl (starts 0x0C a)
  · have e := (datasetManagement_runs (s := { s with emit := [] }) dma a.act hb hz hl hr).1 h
    exact act_does rfl (e ▸ a.completes rfl rfl)
  · have e := (datasetManagement_runs (s := { s with emit := [] }) dma a.act hb hz hl hr).2 h hj
    refine act_does rfl (e ▸ ?_)
    exact deallocate_deallocates (u := { s with emit := [] }) a.unique (ioOpen_unlatched a.taken) a.heard
      (hallRuns_flushing (ioOpen_hallRuns a.taken)) rfl rfl rfl
  · have e := reportZones_sends (s := { s with emit := [] }) a.act hb hz h0 ho hl
    refine act_does rfl (e ▸ ⟨?_, zoneReport { s with emit := [] } n it _, ?_, zoneReport_length .., fun hp h8 => ?_⟩)
    · exact a.completes rfl rfl
    · exact finish_lasts (lasting_sent _) _ _ _ _ (List.mem_append_right _ List.mem_cons_self)
    · rw [zoneReport_count hp h8, reported_length]
      rfl

end Sys2Proof.Machine
end

section
/-! SUPPORT. Power states: the idle timer, the end of an entry, its abort, wakes and the exit (R426 to R434, R441). -/

namespace Sys2Proof.Machine

variable {s : State} {e : Entry}

/-! ### The end of a command leaves the admission of fetch -/

theorem finish_admission (n : Nat) (st : Status) (dw0 dw1 : Word) (s : State) :
    (finish n st dw0 dw1 s).frame.admission = s.frame.admission := by
  obtain ⟨ties, h⟩ := (finish_ticks n st dw0 dw1 s (sameFrame_refl s)).frame
  rw [h]

/-! ### The idle timer, and refusals -/

theorem idleExpiry_begins {a : Nat} {e : Apst} (hi : s.power.idleFrom = some a)
    (he : tabGet s.power.apst s.power.ps = some e) (hr : hallRuns s = true) (ha : s.power.apste = true)
    (hn : s.power.entry = none) (hp : s.power.ps ≤ 2) (ht : e.itpt ≠ 0) (hq : psRequested s = false)
    (hf : a + e.itpt * 500 < s.frame.elapsed) : idleExpiry s = beginEntry e.itps none s := by
  have due : fired a (e.itpt * 500) (clk s) = true := fired_of_lt hf
  unfold idleExpiry
  simp only [hi, he, hr, ha, hn, ht, hq, due, Nat.not_lt.mpr hp, Bool.not_true, Bool.false_eq_true, Option.isSome_none,
    or_self, if_false]

theorem beginEntry_enters (target : Nat) (item : Option Nat) (h : refuser s = none) :
    beginEntry target item s = updPower (fun p => { p with
      entry := some { target := target, from_ := clk s, item := item, wake := decide (0 < unfetched s) }
      wakesInEntry := p.wakesInEntry + unfetched s, idleFrom := none }) s := by
  unfold beginEntry
  simp only [h]

theorem beginEntry_refused (target : Nat) (item : Option Nat) {code : Nat} (h : refuser s = some code) :
    beginEntry target item s = refuseEntry target code false item s := by
  unfold beginEntry
  simp only [h]

/-- The power state after a refusal or an abort. -/
def refusedPower (target code : Nat) (abort : Bool) (item : Option Nat) (s : State) : PowerSt :=
  { s.power with
    ref3 := if target = 3 then s.power.ref3.add code abort item.isNone (now s) else s.power.ref3
    ref4 := if target = 4 then s.power.ref4.add code abort item.isNone (now s) else s.power.ref4
    idleFrom := if item.isNone then some (clk s) else s.power.idleFrom }

theorem refuseEntry_power (target code : Nat) (abort : Bool) (item : Option Nat) (s : State) :
    (refuseEntry target code abort item s).power = refusedPower target code abort item s := by
  unfold refuseEntry
  cases item with
  | none => rfl
  | some n =>
    exact (finish_only (ps := [.frame, .host, .inst, .recd, .emit]) n _ _ _ _ (only_refl _ _) (by decide)).same .power
      (by decide)

/-- A refusal is counted under its code. -/
theorem refusals_add (r : Refusals) (code : Nat) (abort auto : Bool) (f : Nat) :
    tabGetD (r.add code abort auto f).counts code 0 = tabGetD r.counts code 0 + 1 ∧ (r.add code abort auto f).last = code ∧
      (r.add code abort auto f).lastAbort = abort :=
  ⟨congrArg (·.getD 0) (tabGet_set_self ..), rfl, rfl⟩

/-- A refusal of the state it asked for is counted there, and not in the other state. -/
theorem refusedPower_counts (target code : Nat) (abort : Bool) (item : Option Nat) (s : State) :
    (target = 3 →
      tabGetD (refusedPower target code abort item s).ref3.counts code 0 = tabGetD s.power.ref3.counts code 0 + 1 ∧
      (refusedPower target code abort item s).ref3.last = code ∧
      (refusedPower target code abort item s).ref3.lastAbort = abort ∧
      (refusedPower target code abort item s).ref4 = s.power.ref4) ∧
    (target = 4 →
      tabGetD (refusedPower target code abort item s).ref4.counts code 0 = tabGetD s.power.ref4.counts code 0 + 1 ∧
      (refusedPower target code abort item s).ref4.last = code ∧
      (refusedPower target code abort item s).ref4.lastAbort = abort ∧
      (refusedPower target code abort item s).ref3 = s.power.ref3) := by
  refine ⟨?_, ?_⟩
  · rintro rfl
    obtain ⟨counts, last, aborted⟩ := refusals_add s.power.ref3 code abort item.isNone (now s)
    exact ⟨counts, last, aborted, rfl⟩
  · rintro rfl
    obtain ⟨counts, last, aborted⟩ := refusals_add s.power.ref4 code abort item.isNone (now s)
    exact ⟨counts, last, aborted, rfl⟩

theorem refuseEntry_quiet_only (target code : Nat) (abort : Bool) (s : State) :
    Only [.power, .recd] s (refuseEntry target code abort none s) :=
  only_recd _ (only_power _ (only_refl _ _) (by decide)) (by decide)

/-! ### The end of an entry -/

theorem entryDrained_stops (he : s.power.entry = some e) (hr : hallRuns s = true) (hw : workLeft s e = false)
    (hl : s.media.landing = []) (ho : s.media.rowOps = []) (hg : s.media.ring = []) : entryDrained s = stopHall e s := by
  unfold entryDrained
  simp only [he, hr, hw, hl, ho, hg, Bool.not_true, Bool.false_eq_true, List.isEmpty_nil, or_self, if_false]

/-- The power state after an entry that ends in a state `s`. -/
def enteredPower (e : Entry) (s : State) (p : PowerSt) : PowerSt :=
  { countEntry e.target p with
    lastOp := p.ps, ps := if e.wake then p.ps else e.target, entry := none, aonCount := 0, idleFrom := none
    committedAt := now s - (clk s - e.from_), exitFrom := if e.wake then some (now s) else none }

/-- What an entry does after its command has been answered: the rails, and the caches. -/
def cooled (e : Entry) (s : State) : State :=
  updFlash (fun x => { x with cache := [] }) (when (decide (e.target = 4)) (lowerRails e.wake) s)

/-- The command that asked for an entry is answered. -/
def answered (item : Option Nat) (s : State) : State :=
  match item with
  | some n => finishOk n s
  | none => s

theorem stopHall_eq (e : Entry) (s : State) :
    stopHall e s = updPower (enteredPower e s) (cooled e (answered e.item (writeBuffer s))) := by
  unfold stopHall answered
  cases e.item <;> rfl

theorem cooled_only (e : Entry) (s : State) : Only [.frame, .flash, .emit] s (cooled e s) :=
  updFlash_only _ _ (only_when _ _ (only_refl _ _) fun _ h => lowerRails_only _ _ h (by decide)) (by decide)

theorem answered_only (item : Option Nat) (s : State) : Only [.frame, .host, .inst, .recd, .emit] s (answered item s) := by
  unfold answered
  split
  · exact finish_only _ _ _ _ _ (only_refl _ _) (by decide)
  · exact only_refl _ _

theorem stopHall_power (e : Entry) (s : State) : (stopHall e s).power = enteredPower e s s.power := by
  have quiet : Only [.recd] s (writeBuffer s) := writeBuffer_only _ (only_refl _ _) (by decide)
  have power : (cooled e (answered e.item (writeBuffer s))).power = s.power :=
    ((cooled_only e _).same .power (by decide)).trans
      (((answered_only e.item _).same .power (by decide)).trans (quiet.same .power (by decide)))
  rw [stopHall_eq]
  exact congrArg (enteredPower e s) power

theorem enteredPower_count (e : Entry) (s : State) (p : PowerSt) :
    tabGetD (enteredPower e s p).entries e.target 0 = tabGetD p.entries e.target 0 + 1 :=
  congrArg (·.getD 0) (tabGet_set_self ..)

/-- An entry that the idle timer began: what is sent out, and the corridor's links. -/
theorem cooled_rails (e : Entry) (s : State) :
    (e.target = 4 → e.wake = false →
      (cooled e s).emit = s.emit ++ [.pmbus 0x40 0x21, .pmbus 0x41 0x01, .pmbus 0x42 0x01, .pmbus 0x43 0x01]) ∧
    (e.target = 4 → (cooled e s).frame.shelf.upLink = false ∧ (cooled e s).frame.shelf.downLink = false) ∧
    (e.target ≠ 4 → (cooled e s).emit = s.emit ∧ (cooled e s).frame = s.frame) := by
  unfold cooled
  refine ⟨fun h hw => ?_, fun h => ?_, fun h => ?_⟩
  · rw [when_of (by simp [h])]
    unfold lowerRails
    rw [hw, when_not rfl]
    rfl
  · rw [when_of (by simp [h])]
    unfold lowerRails
    have lower : ∀ s, (railWrites (linkDown false (linkDown true s))).frame.shelf.upLink = false ∧
        (railWrites (linkDown false (linkDown true s))).frame.shelf.downLink = false := fun s => by
      simp [railWrites, sends, linkDown, updShelf, updFrame]
    rcases Bool.eq_false_or_eq_true e.wake with w | w
    · rw [when_of w]
      exact lower s
    · rw [when_not w]
      exact lower s
  · rw [when_not (by simp [h])]
    exact ⟨rfl, rfl⟩

/-- What is posted stays posted while the host's part of the state stays. -/
theorem Completes.to {t t' : State} {it : Item} {st : Status} {dw0 dw1 : Word} (h : Completes s t it st dw0 dw1)
    (e : t'.host = t.host) : Completes s t' it st dw0 dw1 := by
  obtain ⟨gone, posted⟩ := h
  unfold ctlOf at posted
  refine ⟨?_, ?_⟩
  · rw [e]
    exact gone
  · unfold ctlOf
    rw [e]
    exact posted

theorem stopHall_completes {it : Item} (hi : e.item = some it.seq) (hu : itemBySeq s it.seq = some it)
    (ho : it.outcome = none) (hs : it.silent = false) (hf : flushing s = false) :
    Completes s (stopHall e s) it stOk 0 0 := by
  have quiet : Only [.recd] s (writeBuffer s) := writeBuffer_only _ (only_refl _ _) (by decide)
  rw [stopHall_eq, hi]
  have host : (cooled e (finishOk it.seq (writeBuffer s))).host = (finishOk it.seq (writeBuffer s)).host :=
    (cooled_only e _).same .host (by decide)
  have ends : Completes s (finishOk it.seq (writeBuffer s)) it stOk 0 0 := finishOk_completes hu ho hs hf rfl
  exact ends.to (t' := updPower (enteredPower e s) (cooled e (finishOk it.seq (writeBuffer s)))) host

/-! ### The abort of an entry -/

theorem entryAbort_aborts {code : Nat} (he : s.power.entry = some e) (hr : hallRuns s = true)
    (h : (workLeft s e = true ∧ e.from_ + 10000 ≤ s.frame.elapsed ∧ code = 1) ∨
      (workLeft s e = false ∧ s.media.landing ≠ [] ∧ e.from_ + 48000 ≤ s.frame.elapsed ∧ code = 7)) :
    entryAbort s = abortEntry e code s := by
  unfold entryAbort
  simp only [he, hr, Bool.not_true, Bool.false_eq_true, if_false]
  rcases h with ⟨hw, hc, rfl⟩ | ⟨hw, hl, hc, rfl⟩
  · exact if_pos ⟨hw, hc⟩
  · have landed : s.media.landing.isEmpty = false := List.isEmpty_eq_false_iff.mpr hl
    rw [if_neg (by simp [hw]), if_pos ⟨by simp [landed], hc⟩]

/-- The state in which an aborted entry is refused. -/
def unentered (s : State) : State :=
  updFrame (fun f => { f with admission := false }) (updPower (fun p => { p with entry := none }) s)

theorem abortEntry_eq (e : Entry) (code : Nat) (s : State) :
    abortEntry e code s = refuseEntry e.target code true e.item (unentered s) := rfl

theorem refuseEntry_admission (target code : Nat) (abort : Bool) (item : Option Nat) (s : State) :
    (refuseEntry target code abort item s).frame.admission = s.frame.admission := by
  unfold refuseEntry
  cases item with
  | none => rfl
  | some n => exact finish_admission n _ _ _ _

theorem refuseEntry_completes {u : State} {it : Item} (target code : Nat) (abort : Bool)
    (hi : itemBySeq u it.seq = some it) (ho : it.outcome = none) (hs : it.silent = false) (hf : flushing u = false)
    (hc : u.host.ctls = s.host.ctls) :
    Completes s (refuseEntry target code abort (some it.seq) u) it stOperationDenied (wordOf code) 0 :=
  finish_completes _ _ _ (x := updRec _ (updPower _ u)) hi ho hs hf hc

/-! ### Wakes and the exit -/

theorem wake_entry (he : s.power.entry = some e) : wake s = updPower (fun p => { p with
    entry := some { e with wake := true }, wakesInEntry := p.wakesInEntry + 1 }) s := by
  unfold wake
  simp only [he]

theorem wake_begins (he : s.power.entry = none) (hp : 3 ≤ s.power.ps) : wake s =
    updPower (fun p => { p with ps := p.lastOp, exitFrom := some (now s + p.aonCount) })
      (if s.power.ps = 4 then railRestores s else s) := by
  unfold wake
  simp only [he]
  exact if_pos hp

theorem psExit_runs (hb : booted s = true) (hx : s.power.exitFrom.isSome = true) (hf : s.power.flush = none) :
    psExit none s = exitDone s ∧ ∀ rail, psExit (some rail) s = exitFailed rail s := by
  have due : s.power.exitFrom.isNone = false := by rw [← Option.not_isSome, hx]; rfl
  have quiet : flushing s = false := by simp [flushing, hf]
  unfold psExit
  simp only [hb, due, quiet, Bool.not_true, Bool.false_eq_true, or_self, if_false]
  exact ⟨trivial, fun _ => trivial⟩

theorem exitDone_counts (s : State) : (exitDone s).power.exitFrom = none ∧ (exitDone s).power.aonCount = 0 ∧
    (exitDone s).frame.counter = (s.frame.counter + s.power.aonCount) % 2 ^ 64 ∧
    (exitDone s).frame.elapsed = s.frame.elapsed + s.power.aonCount := by
  unfold exitDone
  extract_lets k a
  have opened : Only [.mbx, .emit]
      (updPower (fun p => { p with exitFrom := none, aonCount := 0, deferred := p.deferred + k }) a) (reopen
        (updPower (fun p => { p with exitFrom := none, aonCount := 0, deferred := p.deferred + k }) a)) :=
    reopen_only _ (only_refl _ _) (by decide)
  rw [opened.same .power (by decide), opened.same .frame (by decide)]
  exact ⟨rfl, rfl, rfl, rfl⟩

theorem ctlOf_allFailed {fn : Nat} {c : Ctl} {h : HostSt}
    (e : tabGet (tabMap (fun _ c => { c with cfs := true }) h.ctls) fn = some c) : c.cfs = true := by
  unfold tabMap at e
  obtain ⟨p, -, hp⟩ := List.mem_map.mp (tabGet_mem e)
  have same : { p.2 with cfs := true } = c := congrArg Prod.snd hp
  rw [← same]

theorem exitFailed_holds (rail : Nat) (s : State) : (exitFailed rail s).power.exitFrom = none ∧
    (exitFailed rail s).power.boot = .held ∧ (exitFailed rail s).power.faultKind = 6 ∧
    (exitFailed rail s).power.faultRail = rail ∧ (exitFailed rail s).power.failedExits = s.power.failedExits + 1 ∧
    (exitFailed rail s).pins.fault = true ∧ (exitFailed rail s).pins.pwrEn = [false, false, false, false] ∧
    ∀ fn c, ctlOf (exitFailed rail s) fn = some c → c.cfs = true := by
  unfold exitFailed
  extract_lets src a b c
  have noted : Only [.recd] a b := recEvent_only _ _ (only_refl _ _) (by decide)
  have power : b.power = s.power := noted.same .power (by decide)
  have host : b.host = a.host := noted.same .host (by decide)
  have alerted : ∀ u : State, (assertAlert u).power = u.power ∧ (assertAlert u).host = u.host ∧
      (assertAlert u).pins.fault = u.pins.fault ∧ (assertAlert u).pins.pwrEn = u.pins.pwrEn := fun u => by
    unfold assertAlert
    split <;> exact ⟨rfl, rfl, rfl, rfl⟩
  obtain ⟨sameP, sameH, fault, rails⟩ := alerted (railsOff { c with pins := { c.pins with fault := true } })
  rw [sameP, fault, rails]
  refine ⟨rfl, rfl, rfl, rfl, ?_, rfl, rfl, fun fn k hk => ?_⟩
  · exact congrArg (·.failedExits + 1) power
  · unfold ctlOf at hk
    rw [sameH] at hk
    exact ctlOf_allFailed (h := s.host) ((congrArg (fun h => tabGet h.ctls fn) host).symm.trans hk)

/-- Settles O36: the entry of the idle timer, its refusal, its end and its abort each write the power state once; a wake
is kept during an entry and begins the exit after it. -/
theorem powerStatesAreEnteredAndLeft : Obligations.PowerStatesAreEnteredAndLeft := by
  unfold Obligations.PowerStatesAreEnteredAndLeft
  refine fun s => ⟨fun a e hi he hr ha hn hp ht hq hf => ⟨fun h => ?_, fun code h => ?_⟩, fun e he hr => ⟨?_, ?_⟩,
    fun hb => ⟨fun e he => ?_, fun he hp => ?_, fun hx hf => ⟨?_, fun rail => ?_⟩⟩⟩
  · have run := (idleExpiry_begins (s := { s with emit := [] }) hi he hr ha hn hp ht hq hf).trans (beginEntry_enters _ _ h)
    refine act_does rfl (run ▸ ⟨rfl, ?_⟩)
    exact updPower_only _ _ ((emptied_only s).mono (by decide)) (by decide)
  · have run := (idleExpiry_begins (s := { s with emit := [] }) hi he hr ha hn hp ht hq hf).trans (beginEntry_refused _ _ h)
    have power := refuseEntry_power e.itps code false none { s with emit := [] }
    obtain ⟨three, four⟩ := refusedPower_counts e.itps code false none { s with emit := [] }
    rw [← power] at three four
    refine act_does rfl (run ▸ ⟨?_, ?_, three, four, ?_⟩)
    · rw [power]
      exact hn
    · rw [power]
      rfl
    · exact ((emptied_only s).mono (by decide)).trans ((refuseEntry_quiet_only _ _ _ _).mono (by decide))
  · intro hw hl ho hg
    have run := entryDrained_stops (s := { s with emit := [] }) he hr hw hl ho hg
    have power := stopHall_power e { s with emit := [] }
    refine ⟨act_does rfl (run ▸ ⟨?_, ?_, ?_, ?_, fun h => ?_, fun h => ?_, fun hi => ?_⟩), fun it hi hu hk hs => ?_⟩
    · rw [power]; rfl
    · rw [power]; rfl
    · rw [power]; rfl
    · rw [power]
      exact enteredPower_count _ _ _
    · rw [power]
      simp [enteredPower, h]
    · rw [power]
      simp [enteredPower, h, now, countEntry]
    · obtain ⟨four, links, other⟩ := cooled_rails e (writeBuffer { s with emit := [] })
      rw [stopHall_eq, hi]
      have recd := (cooled_only e (writeBuffer { s with emit := [] })).same .recd (by decide)
      refine ⟨four, links, fun h => ⟨(other h).1, (other h).2⟩, (congrArg RecSt.closed recd :), ?_⟩
      have written : Only [.frame, .power, .recd, .flash, .emit] s (writeBuffer { s with emit := [] }) :=
        writeBuffer_only _ ((emptied_only s).mono (by decide)) (by decide)
      exact updPower_only _ _ (written.trans ((cooled_only e _).mono (by decide))) (by decide)
    · obtain ⟨gone, posted⟩ := stopHall_completes (s := { s with emit := [] }) hi hu hk hs (hallRuns_flushing hr)
      exact act_does rfl (run ▸ ⟨gone, posted⟩)
  · intro code h
    have run := entryAbort_aborts (s := { s with emit := [] }) he hr h
    rw [abortEntry_eq] at run
    have power := refuseEntry_power e.target code true e.item (unentered { s with emit := [] })
    obtain ⟨three, four⟩ := refusedPower_counts e.target code true e.item (unentered { s with emit := [] })
    rw [← power] at three four
    refine ⟨act_does rfl (run ▸ ⟨?_, ?_, three, four, ?_, fun hi => ?_⟩), fun it hi hu hk hs => ?_⟩
    · rw [power]; rfl
    · exact refuseEntry_admission _ _ _ _ _
    · rw [power]; rfl
    · rw [hi]
      exact (updFrame_only _ _ (updPower_only _ _ ((emptied_only s).mono (by decide)) (by decide)) (by decide)).trans
        ((refuseEntry_quiet_only _ _ _ _).mono (by decide))
    · refine act_does rfl (run ▸ ?_)
      rw [hi]
      exact refuseEntry_completes _ _ _ hu hk hs (hallRuns_flushing hr) rfl
  · have booted_ : booted s = true := by simp [booted, hb]
    have e : when (booted s) wake { s with emit := [] } = _ := (when_of booted_ _ _).trans (wake_entry he)
    exact congrArg Host.Outcome.next e
  · have booted_ : booted s = true := by simp [booted, hb]
    have e : when (booted s) wake { s with emit := [] } = _ := (when_of booted_ _ _).trans (wake_begins he hp)
    refine (congrArg Host.Outcome.next e).trans ?_
    by_cases h : s.power.ps = 4
    · rw [if_pos h, if_pos h]
      rfl
    · rw [if_neg h, if_neg h]
      rfl
  · have booted_ : booted s = true := by simp [booted, hb]
    have run := (psExit_runs (s := { s with emit := [] }) booted_ hx hf).1
    obtain ⟨exit, aon, counter, elapsed⟩ := exitDone_counts { s with emit := [] }
    refine act_does rfl (run ▸ ⟨exit, aon, counter, elapsed, ?_⟩)
    exact exitDone_only _ ((emptied_only s).mono (by decide)) (by decide)
  · have booted_ : booted s = true := by simp [booted, hb]
    have run := (psExit_runs (s := { s with emit := [] }) booted_ hx hf).2 rail
    obtain ⟨exit, held, kind, which, count, fault, rails, cfs⟩ := exitFailed_holds rail { s with emit := [] }
    refine act_does rfl (run ▸ ⟨exit, held, kind, which, count, fault, rails, cfs, ?_⟩)
    exact exitFailed_only _ _ ((emptied_only s).mono (by decide)) (by decide)

end Sys2Proof.Machine
end

section
/-! SUPPORT. Hold-up readings, power loss and the flush (R227, R442 to R449, R508, R518). -/

namespace Sys2Proof.Machine

variable {s : State}

/-! ### Hold-up readings -/

/-- What an answer of the hold-up controller, or the want of one, leaves in force. -/
def holdupHeard (answer : Option (Nat × Bool)) (s : State) : State :=
  match answer with
  | some (e, ok) => setHoldup e ok 0 s
  | none =>
    if s.power.holdupMiss + 1 < 3 then updPower (fun p => { p with holdupMiss := s.power.holdupMiss + 1 }) s
    else when (decide (s.power.holdupMiss + 1 = 3)) (recEvent 0x15) (setHoldup 0 false (s.power.holdupMiss + 1) s)

/-- The size of the landing buffer becomes due, and the next reading is asked for. -/
def sizeDue (s : State) : State :=
  send (.pmbus 0x5C 0xD0) (updPower (fun p => { p with lbDue := some (landingSize s) }) s)

theorem holdupReading_eq (answer : Option (Nat × Bool)) (hb : booted s = true) :
    holdupReading answer s = sizeDue (holdupHeard answer s) := by
  unfold holdupReading holdupHeard
  rw [if_neg (by simp [hb])]
  rcases answer with - | ⟨e, ok⟩ <;> rfl

theorem sizeDue_only (s : State) : Only [.power, .emit] s (sizeDue s) :=
  send_only _ _ (updPower_only _ _ (only_refl _ _) (by decide)) (by decide)

theorem sizeDue_due (s : State) : (sizeDue s).power.lbDue = some (landingSize (sizeDue s)) := rfl

/-- A missing answer other than the third. -/
theorem holdupHeard_missing (h : s.power.holdupMiss ≠ 2) :
    (holdupHeard none s).power.holdupMiss = s.power.holdupMiss + 1 ∧
      (holdupHeard none s).power.energy = (if s.power.holdupMiss < 2 then s.power.energy else 0) ∧
      Only [.power] s (holdupHeard none s) := by
  unfold holdupHeard
  dsimp only
  by_cases m : s.power.holdupMiss < 2
  · rw [if_pos (by omega), if_pos m]
    exact ⟨rfl, rfl, updPower_only _ _ (only_refl _ _) (by decide)⟩
  · rw [if_neg (by omega), when_not (by simp [h]), if_neg m]
    exact ⟨rfl, rfl, updPower_only _ _ (only_refl _ _) (by decide)⟩

/-- The third missing answer counts as no energy, and is recorded. -/
theorem holdupHeard_third (h : s.power.holdupMiss = 2) :
    holdupHeard none s = recEvent 0x15 (setHoldup 0 false 3 s) := by
  unfold holdupHeard
  simp only [h]
  rfl

theorem pmbAlert_reads (w : Nat) (hb : booted s = true) (hr : s.mgmt.running = true) : pmbAlert w s =
    { send (.pmbus 0x5C 0x79) s with mgmt := { s.mgmt with statusWord := w % 65536 } } := by
  unfold pmbAlert
  simp only [hb, hr, Bool.not_true, Bool.false_eq_true, or_self, if_false]

/-! ### PF_N -/

theorem startFlush_begins (fire : Bool) (h : s.power.flush = none) : startFlush fire s =
    updPower (fun p => { p with flush := some { p := aonNow s, fire := fire, commitOnly := commitOnly s } })
      (updFlash (fun x => { x with dies := tabMap (fun _ d => d.holdErase) x.dies })
        (recEvent (if fire then 0x01 else 0x00) s)) := by
  unfold startFlush
  simp only [h]

theorem startFlush_goes_on {f : Flush} (h : s.power.flush = some f) : startFlush false s = s := by
  unfold startFlush
  simp only [h, Bool.or_false]
  unfold updPower
  rw [← h]

/-- The pin, and the cooling count, when PF_N falls. -/
def pfLowered (s : State) : State :=
  { s with pins := { s.pins with pfLow := true }, therm := { s.therm with cooling := false } }

theorem pfLowered_only (s : State) : Only [.pins, .therm] s (pfLowered s) :=
  only_therm (s := { s with pins := { s.pins with pfLow := true } }) _ (only_pins _ (only_refl _ _) (by decide)) (by decide)

theorem pfRecognised_eq (s : State) : pfRecognised s = when (mayFlush s) (startFlush false) (pfLowered s) := rfl

/-! ### The flush, but for the refuge -/

theorem twoBroken_of {t : State} (h : t.therm = s.therm) : twoBroken t = twoBroken s := by
  unfold twoBroken
  rw [h]

/-- The domains stop, in the fire door's hold or for PF_N. -/
theorem stopDomains_stops (fire : Bool) (s : State) :
    (stopDomains fire s).power = { s.power with
      boot := if (fire && twoBroken s) = true then .permanent else if fire then .fireHold else .stopped } ∧
    (stopDomains fire s).recd = s.recd ∧ (stopDomains fire s).media = s.media ∧
    (stopDomains fire s).host.port0.link = false ∧ (stopDomains fire s).host.port1.link = false ∧
    (stopDomains fire s).mgmt.running = (fire && twoBroken s) ∧
    (stopDomains fire s).pins.fault = (s.pins.fault || fire) ∧
    ((fire && twoBroken s) = false → (stopDomains fire s).pins.pwrEn = [false, false, false, false]) ∧
    (∀ p ∈ (stopDomains fire s).flash.chans, p.2.wpHigh = false) := by
  have chans : ∀ t : FlashSt, ∀ p ∈ tabMap (fun _ c => { c with wpHigh := false }) t.chans, p.2.wpHigh = false := by
    intro t p hp
    obtain ⟨q, -, rfl⟩ := List.mem_map.mp hp
    rfl
  unfold stopDomains
  rcases Bool.eq_false_or_eq_true (fire && twoBroken s) with h | h
  · simp only [h, if_true]
    exact ⟨rfl, rfl, rfl, rfl, rfl, rfl, rfl, fun e => absurd e (by decide), chans s.flash⟩
  · simp only [h, Bool.false_eq_true, if_false]
    exact ⟨rfl, rfl, rfl, rfl, rfl, rfl, rfl, fun _ => rfl, chans s.flash⟩

/-- The state of a flush when its refuge writes and its ring records are done, the recorder's buffer not yet written. -/
def flushed (bad : List (Nat × Nat)) (s : State) : State :=
  commitRing (when (landingLive s) (refugeWrite bad) s).media.ring.length (when (landingLive s) (refugeWrite bad) s)

/-- The recorder's open record is closed, and its buffer written. -/
def recorderFlushed (f : Flush) (s : State) : State :=
  writeBuffer (when s.recd.isOpen (closeRecord f.p markPartial) s)

/-- The power state at the end of a flush. -/
def flushedPower (f : Flush) (k : Nat) (p : PowerSt) : PowerSt :=
  { p with
    flush := none, entry := none, exitFrom := none, flushes := p.flushes + 1, lastFlush := k, flushP := f.p
    committedAt := if f.commitOnly then f.p else p.committedAt, longestFlush := max p.longestFlush k }

theorem flushEnd_eq (bad : List (Nat × Nat)) {f : Flush} (hf : s.power.flush = some f) : flushEnd bad s =
    stopDomains f.fire (updPower (flushedPower f (aonNow (recorderFlushed f (flushed bad s)) - f.p))
      (recorderFlushed f (flushed bad s))) := by
  unfold flushEnd
  simp only [hf]
  rfl

theorem flushed_only (bad : List (Nat × Nat)) (s : State) :
    Only [.frame, .host, .zone, .media, .flash, .inst, .recd, .emit] s (flushed bad s) :=
  commitRing_only _ _ (only_when _ _ (only_refl _ _) fun _ h => refugeWrite_only _ _ h (by decide)) (by decide)

theorem flushed_counter (bad : List (Nat × Nat)) (s : State) : (flushed bad s).frame.counter = s.frame.counter := by
  have refuge : Only [.media] s (when (landingLive s) (refugeWrite bad) s) :=
    only_when _ _ (only_refl _ _) fun _ h => refugeWrite_only _ _ h (by decide)
  obtain ⟨ties, h⟩ := (commitRing_ticks (when (landingLive s) (refugeWrite bad) s).media.ring.length _ (sameFrame_refl _)).frame
  have frame : (when (landingLive s) (refugeWrite bad) s).frame = s.frame := refuge.same .frame (by decide)
  have count := congrArg FrameSt.counter h
  rw [frame] at count
  exact count

theorem recorderFlushed_only (f : Flush) (s : State) : Only [.mbx, .media, .recd] s (recorderFlushed f s) :=
  writeBuffer_only _ (only_when _ _ (only_refl _ _) fun _ h => closeRecord_only _ _ _ h (by decide)) (by decide)

theorem keepRecords_isOpen (l : List Record) (x : RecSt) : (l.foldl keepRecord x).isOpen = x.isOpen := by
  induction l generalizing x with
  | nil => rfl
  | cons r l ih => exact ih (keepRecord x r)

/-- Closing a record leaves what the refuge area holds. -/
theorem closeRecord_shuts (last : Nat) (mark : RFlags → RFlags) (s : State) : (closeRecord last mark s).recd.isOpen = false ∧
    (closeRecord last mark s).media.refuge = s.media.refuge ∧
    (closeRecord last mark s).media.flushSeq = s.media.flushSeq := by
  have posted : ∀ n v t, Only [.mbx] t (boardWrite n v t) := fun n v t => boardWrite_only _ _ _ (only_refl _ _) (by decide)
  unfold closeRecord
  dsimp only
  rw [(posted _ _ _).same .recd (by decide), (posted _ _ _).same .media (by decide)]
  exact ⟨rfl, rfl, rfl⟩

theorem recorderFlushed_empty (f : Flush) (s : State) :
    (recorderFlushed f s).recd.closed = [] ∧ (recorderFlushed f s).recd.isOpen = false := by
  refine ⟨rfl, (keepRecords_isOpen _ _).trans ?_⟩
  rcases Bool.eq_false_or_eq_true s.recd.isOpen with h | h
  · rw [when_of h]
    exact (closeRecord_shuts f.p markPartial s).1
  · rw [when_not h]
    exact h

theorem recorderFlushed_refuge (f : Flush) (s : State) : (recorderFlushed f s).media.refuge = s.media.refuge ∧
    (recorderFlushed f s).media.flushSeq = s.media.flushSeq := by
  obtain ⟨-, refuge, number⟩ := closeRecord_shuts f.p markPartial s
  unfold recorderFlushed when
  split
  · exact ⟨refuge, number⟩
  · exact ⟨rfl, rfl⟩

theorem aonNow_recorderFlushed (f : Flush) (bad : List (Nat × Nat)) (s : State) :
    aonNow (recorderFlushed f (flushed bad s)) = aonNow s := by
  have recorded := recorderFlushed_only f (flushed bad s)
  have frame := congrArg FrameSt.counter (recorded.same .frame (by decide) : _ = _)
  have power := congrArg PowerSt.aonCount
    ((recorded.same .power (by decide)).trans ((flushed_only bad s).same .power (by decide)) : _ = _)
  unfold aonNow now
  rw [frame, power, flushed_counter]

theorem recorderFlushed_power (f : Flush) (bad : List (Nat × Nat)) (s : State) :
    (recorderFlushed f (flushed bad s)).power = s.power :=
  ((recorderFlushed_only f _).same .power (by decide)).trans ((flushed_only bad s).same .power (by decide))

theorem recorderFlushed_therm (f : Flush) (bad : List (Nat × Nat)) (s : State) :
    (recorderFlushed f (flushed bad s)).therm = s.therm :=
  ((recorderFlushed_only f _).same .therm (by decide)).trans ((flushed_only bad s).same .therm (by decide))

/-! ### The refuge area -/

/-- The programs of a group that none of `bad` names lose nothing. -/
theorem failedUnits_none {bad : List (Nat × Nat)} {eg : Nat} (h : (bad.any fun b => decide (b.1 = eg)) = false)
    (l : List Landed) : failedUnits bad eg l = [] := by
  have other : ∀ k, bad.contains (eg, k) = false := fun k => by
    rw [List.contains_eq_any_beq, List.any_eq_false]
    intro b hb e
    have same : b.1 = eg := (congrArg Prod.fst (eq_of_beq e)).symm
    exact absurd (List.any_eq_false.mp h b hb) (by simp [same])
  unfold failedUnits
  exact List.filterMap_eq_nil_iff.mpr fun p _ => if_neg (by rw [other]; decide)

theorem failedUnits_length (bad : List (Nat × Nat)) (eg : Nat) (l : List Landed) :
    (failedUnits bad eg l).length ≤ l.length := by
  refine Nat.le_trans (List.length_filterMap_le _ _) ?_
  simp

/-- What the groups take in which no program fails. -/
def soundArea (bad : List (Nat × Nat)) (l : List (Nat × Group)) : Nat :=
  ((l.filter fun p => !bad.any fun b => decide (b.1 = p.1)).map fun p => p.2.areaUnits).sum

/-- Where the sound groups have room for every unit, every unit is kept by one of the groups. -/
theorem fillRefuge_keeps (bad : List (Nat × Nat)) (gs : List (Nat × Group)) (l : List Landed)
    (room : l.length ≤ soundArea bad gs) {e : Landed} (he : e ∈ l) :
    ∃ p ∈ fillRefuge bad gs l, e ∈ p.2.2 ∧ ∃ g ∈ gs, g.1 = p.1 := by
  induction gs generalizing l with
  | nil => exact absurd (List.length_pos_of_mem he) (by simpa [soundArea] using room)
  | cons g gs ih =>
    have full : l.isEmpty = false := List.isEmpty_eq_false_iff.mpr (List.ne_nil_of_mem he)
    unfold fillRefuge
    rw [full]
    simp only [Bool.false_eq_true, if_false]
    by_cases kept : e ∈ (l.take g.2.areaUnits).filter fun e => !(failedUnits bad g.1 (l.take g.2.areaUnits)).contains e
    · exact ⟨_, List.mem_cons_self, kept, g, List.mem_cons_self, rfl⟩
    · have rest : e ∈ failedUnits bad g.1 (l.take g.2.areaUnits) ++ l.drop g.2.areaUnits := by
        rw [← List.take_append_drop g.2.areaUnits l] at he
        rcases List.mem_append.mp he with h | h
        · refine List.mem_append_left _ ?_
          refine Decidable.byContradiction fun lost => ?_
          exact kept (List.mem_filter.mpr ⟨h, by simp [lost]⟩)
        · exact List.mem_append_right _ h
      have left : (failedUnits bad g.1 (l.take g.2.areaUnits) ++ l.drop g.2.areaUnits).length ≤ soundArea bad gs := by
        have lost := failedUnits_length bad g.1 (l.take g.2.areaUnits)
        rw [List.length_take] at lost
        rw [List.length_append, List.length_drop]
        rcases Bool.eq_false_or_eq_true (bad.any fun b => decide (b.1 = g.1)) with sick | sound
        · have same : soundArea bad (g :: gs) = soundArea bad gs := by simp [soundArea, sick]
          omega
        · have more : soundArea bad (g :: gs) = g.2.areaUnits + soundArea bad gs := by simp [soundArea, sound]
          rw [failedUnits_none sound]
          simp only [List.length_nil]
          omega
      obtain ⟨p, hp, hm, k, hk, same⟩ := ih _ left rest
      exact ⟨p, List.mem_cons_of_mem _ hp, hm, k, List.mem_cons_of_mem _ hk, same⟩

/-- The erased refuge groups. -/
def erasedRefuge (s : State) : List (Nat × Group) :=
  s.media.groups.filter fun p => decide (p.2.st = .refuge) && decide (p.2.nextRow = 0)

theorem refugeWrite_media (bad : List (Nat × Nat)) (s : State) :
    (refugeWrite bad s).media.flushSeq = s.media.flushSeq + 1 ∧ (refugeWrite bad s).media.refuge = s.media.refuge ++
      ((fillRefuge bad (erasedRefuge s) (unwritten s)).map fun p =>
        p.2.2.map (refugeUnit (s.media.flushSeq + 1) p.1)).flatten ∧ (refugeWrite bad s).media.ring = s.media.ring := by
  unfold refugeWrite
  extract_lets q free parts rows a
  have refuge : a.media.refuge = s.media.refuge := by
    refine forEach_keeps (·.media.refuge) ?_ parts s
    exact fun _ _ => rfl
  have ring : a.media.ring = s.media.ring := by
    refine forEach_keeps (·.media.ring) ?_ parts s
    exact fun _ _ => rfl
  refine ⟨rfl, ?_, ring⟩
  exact congrArg (· ++ _) refuge

theorem refugeWrite_keeps (bad : List (Nat × Nat)) (s : State) (room : (unwritten s).length ≤ soundArea bad (erasedRefuge s))
    {e : Landed} (he : e ∈ s.media.landing) (hw : e.writer = none) (hc : e.committed = false) :
    ∃ u ∈ (refugeWrite bad s).media.refuge, u.entry.order = e.order ∧ u.entry.unit = e.unit ∧ u.entry.nsx = e.nsx ∧
      u.seq = s.media.flushSeq + 1 ∧ ∃ g ∈ s.media.groups, g.1 = u.eg ∧ g.2.st = .refuge ∧ g.2.nextRow = 0 := by
  have mine : e ∈ unwritten s := List.mem_filter.mpr ⟨he, by simp [hw, hc]⟩
  obtain ⟨p, hp, hm, g, hg, same⟩ := fillRefuge_keeps bad (erasedRefuge s) (unwritten s) room mine
  obtain ⟨inGroups, erased⟩ := List.mem_filter.mp hg
  obtain ⟨st, next⟩ := (Bool.and_eq_true _ _).mp erased
  refine ⟨refugeUnit (s.media.flushSeq + 1) p.1 e, ?_, rfl, rfl, rfl, rfl, g, inGroups, same, of_decide_eq_true st,
    of_decide_eq_true next⟩
  rw [(refugeWrite_media bad s).2.1]
  refine List.mem_append_right _ (List.mem_flatten.mpr ⟨_, List.mem_map_of_mem hp, List.mem_map_of_mem hm⟩)

/-- With no record in the ring, the flush of a landing buffer in force is the refuge writes. -/
theorem flushed_refuge (bad : List (Nat × Nat)) (hl : landingLive s = true) (hr : s.media.ring = []) :
    flushed bad s = refugeWrite bad s := by
  have empty : (refugeWrite bad s).media.ring = [] := (refugeWrite_media bad s).2.2.trans hr
  unfold flushed
  rw [when_of hl, empty]
  rfl

theorem flushEnd_media (bad : List (Nat × Nat)) {f : Flush} (hf : s.power.flush = some f) (hl : landingLive s = true)
    (hr : s.media.ring = []) : (flushEnd bad s).media.flushSeq = s.media.flushSeq + 1 ∧
      (flushEnd bad s).media.refuge = (refugeWrite bad s).media.refuge := by
  obtain ⟨refuge, number⟩ := recorderFlushed_refuge f (refugeWrite bad s)
  obtain ⟨-, -, media, -⟩ := stopDomains_stops f.fire (updPower (flushedPower f
    (aonNow (recorderFlushed f (refugeWrite bad s)) - f.p)) (recorderFlushed f (refugeWrite bad s)))
  rw [flushEnd_eq bad hf, flushed_refuge bad hl hr, media]
  exact ⟨number.trans (refugeWrite_media bad s).1, refuge⟩

/-- The end of a flush, but for the refuge. -/
theorem flushEnd_ends (bad : List (Nat × Nat)) {f : Flush} (hf : s.power.flush = some f) :
    ((flushEnd bad s).power.flush = none ∧ (flushEnd bad s).power.flushes = s.power.flushes + 1 ∧
      (flushEnd bad s).power.flushP = f.p ∧ (flushEnd bad s).power.lastFlush = aonNow s - f.p) ∧
    ((flushEnd bad s).recd.closed = [] ∧ (flushEnd bad s).recd.isOpen = false) ∧
    ((flushEnd bad s).host.port0.link = false ∧ (flushEnd bad s).host.port1.link = false ∧
      ∀ p ∈ (flushEnd bad s).flash.chans, p.2.wpHigh = false) ∧
    (f.fire = false → (flushEnd bad s).power.boot = .stopped ∧
      (flushEnd bad s).pins.pwrEn = [false, false, false, false] ∧ (flushEnd bad s).mgmt.running = false) ∧
    (f.fire = true → (flushEnd bad s).pins.fault = true ∧
      (flushEnd bad s).power.boot = (if twoBroken s then .permanent else .fireHold) ∧
      (flushEnd bad s).mgmt.running = twoBroken s) := by
  have u := aonNow_recorderFlushed f bad s
  have power := recorderFlushed_power f bad s
  have broken := twoBroken_of (recorderFlushed_therm f bad s)
  obtain ⟨closed, shut⟩ := recorderFlushed_empty f (flushed bad s)
  rw [flushEnd_eq bad hf, u]
  generalize recorderFlushed f (flushed bad s) = v at power broken closed shut
  obtain ⟨powerT, recd, -, up, down, running, fault, rails, chans⟩ :=
    stopDomains_stops f.fire (updPower (flushedPower f (aonNow s - f.p)) v)
  have brokenV : twoBroken (updPower (flushedPower f (aonNow s - f.p)) v) = twoBroken s := broken
  rw [brokenV] at powerT running rails
  rw [powerT, recd, running, fault]
  refine ⟨⟨rfl, congrArg (·.flushes + 1) power, rfl, rfl⟩, ⟨closed, shut⟩, ⟨up, down, chans⟩, fun h => ?_, fun h => ?_⟩
  · rw [h] at rails
    rw [h]
    exact ⟨rfl, rails rfl, rfl⟩
  · rw [h]
    exact ⟨Bool.or_true _, rfl, rfl⟩

/-- Settles O37: each reading leaves what it says in force, PF_N begins one flush, and the flush's end is written from its
stages; a unit that a refuge program loses goes to the next group until a sound one takes it. -/
theorem powerLossIsFlushed : Obligations.PowerLossIsFlushed := by
  unfold Obligations.PowerLossIsFlushed
  refine ⟨fun s => ⟨fun hb => ?_, fun hm hf => ?_, fun h => ?_, fun f hf => ?_⟩, fun s f hf hl hr room => ?_⟩
  · have booted_ : booted s = true := by simp [booted, hb]
    have reading := fun answer => holdupReading_eq (s := { s with emit := [] }) answer booted_
    refine ⟨fun e ok => ?_, fun h => ?_, fun h => ?_, fun w hr => ?_⟩
    · refine act_does rfl (reading (some (e, ok)) ▸ ⟨rfl, rfl, rfl, sizeDue_due _, rfl, ?_⟩)
      exact (updPower_only _ _ ((emptied_only s).mono (by decide)) (by decide)).trans ((sizeDue_only _).mono (by decide))
    · obtain ⟨miss, energy, only⟩ := holdupHeard_missing (s := { s with emit := [] }) h
      refine act_does rfl (reading none ▸ ⟨miss, energy, sizeDue_due _, ?_⟩)
      exact ((emptied_only s).mono (by decide)).trans ((only.mono (by decide)).trans ((sizeDue_only _).mono (by decide)))
    · have run := reading none
      rw [holdupHeard_third (s := { s with emit := [] }) h] at run
      have kept : Only [.recd] (setHoldup 0 false 3 { s with emit := [] }) (recEvent 0x15 (setHoldup 0 false 3
        { s with emit := [] })) := recEvent_only _ _ (only_refl _ _) (by decide)
      have power := kept.same .power (by decide)
      refine act_does rfl (run ▸ ⟨(congrArg PowerSt.energy power :), (congrArg PowerSt.holdupOk power :),
        recEvent_counts _ _, sizeDue_due _, ?_⟩)
      refine Only.trans ?_ ((sizeDue_only _).mono (by decide))
      exact recEvent_only _ _ (updPower_only _ _ ((emptied_only s).mono (by decide)) (by decide)) (by decide)
    · have run := pmbAlert_reads (s := { s with emit := [] }) w booted_ hr
      exact congrArg Host.Outcome.next run
  · have run : pfRecognised { s with emit := [] } = startFlush false (pfLowered { s with emit := [] }) :=
      (pfRecognised_eq _).trans (when_of hm _ _)
    rw [startFlush_begins (s := pfLowered { s with emit := [] }) false hf] at run
    have lowered : Only [.pins, .therm, .emit] s (pfLowered { s with emit := [] }) :=
      ((emptied_only s).mono (by decide)).trans ((pfLowered_only _).mono (by decide))
    have noted : Only [.recd] (pfLowered { s with emit := [] }) (recEvent 0x00 (pfLowered { s with emit := [] })) :=
      recEvent_only _ _ (only_refl _ _) (by decide)
    refine act_does rfl (run ▸ ⟨?_, ?_, ?_, recEvent_counts _ _, ?_, ?_⟩)
    · exact (congrArg Pins.pfLow (noted.same .pins (by decide)) :)
    · exact (congrArg ThermSt.cooling (noted.same .therm (by decide)) :)
    · exact (congrArg (fun p : PowerSt => { p with
        flush := some { p := aonNow s, fire := false, commitOnly := commitOnly s } }) (noted.same .power (by decide)) :)
    · have flash := congrArg FlashSt.dies (noted.same .flash (by decide) : _ = _)
      exact (List.map_map ..).trans (congrArg (List.map Prod.fst) flash)
    · exact updPower_only _ _ (updFlash_only _ _ ((lowered.mono (by decide)).trans (noted.mono (by decide))) (by decide))
        (by decide)
  · have run : pfRecognised { s with emit := [] } = pfLowered { s with emit := [] } := by
      rw [pfRecognised_eq]
      rcases Bool.eq_false_or_eq_true (mayFlush s) with m | m
      · rcases h with h | h
        · exact absurd h (by simp [m])
        · obtain ⟨f, hf⟩ := Option.isSome_iff_exists.mp h
          exact (when_of m _ _).trans (startFlush_goes_on (s := pfLowered { s with emit := [] }) hf)
      · exact when_not m _ _
    exact congrArg Host.Outcome.next run
  · obtain ⟨⟨none_, count, frameP, last⟩, ⟨closed, shut⟩, ⟨up, down, chans⟩, loss, fire⟩ :=
      flushEnd_ends (s := { s with emit := [], free := s.free + 1 }) (Config.refugeFails s.free) hf
    have broken : twoBroken { s with emit := [], free := s.free + 1 } = twoBroken s := rfl
    rw [broken] at fire
    exact ⟨_, rfl, none_, count, frameP, last, closed, shut, up, down, chans, loss, fire⟩
  · obtain ⟨number, refuge⟩ :=
      flushEnd_media (s := { s with emit := [], free := s.free + 1 }) (Config.refugeFails s.free) hf hl hr
    have sound : (unwritten s).length ≤ soundArea (Config.refugeFails s.free) (erasedRefuge s) := by
      unfold soundArea erasedRefuge
      rw [List.filter_filter]
      refine Nat.le_trans room (Nat.le_of_eq ?_)
      exact congrArg (fun l => (List.map _ l).sum) (List.filter_congr fun p _ => Bool.and_comm _ _)
    refine ⟨_, rfl, number, fun e he hw hc => ?_, fun u hu => ?_⟩
    · rw [refuge]
      exact refugeWrite_keeps (s := { s with emit := [], free := s.free + 1 }) _ sound he hw hc
    · rw [refuge, (refugeWrite_media _ _).2.1]
      exact List.mem_append_left _ hu

end Sys2Proof.Machine
end

section
/-! SUPPORT. Codewords are decoded through the ladder, and units leave (R28, R271 to R283, R306 to R308). -/

namespace Sys2Proof.Machine

variable {s t : State} {id q : Nat} {r : RdOp}

/-! ### One read of the list -/

theorem findRead_of_reads (h : t.flash.reads = s.flash.reads) (id : Nat) : findRead t id = findRead s id := by
  unfold findRead
  rw [h]

theorem find_map_id {l : List RdOp} {f : RdOp → RdOp} (hf : (f r).id = r.id)
    (h : (l.find? fun r => decide (r.id = id)) = some r) :
    ((l.map fun r => if r.id = id then f r else r).find? fun r => decide (r.id = id)) = some (f r) := by
  induction l with
  | nil => cases h
  | cons a l ih =>
    rw [List.map_cons]
    by_cases e : a.id = id
    · rw [List.find?_cons_of_pos (by simpa using e)] at h
      cases h
      rw [if_pos e, List.find?_cons_of_pos (by simpa [hf] using e)]
    · rw [List.find?_cons_of_neg (by simpa using e)] at h
      rw [if_neg e, List.find?_cons_of_neg (by simpa using e)]
      exact ih h

/-- A read that is written anew is found as it is written. -/
theorem findRead_updRead {f : RdOp → RdOp} (hf : (f r).id = r.id) (h : findRead s id = some r) :
    findRead (updRead id f s) id = some (f r) :=
  find_map_id hf h

theorem findRead_again {f : RdOp → RdOp} (hf : (f r).id = r.id) (h : findRead s id = some r) :
    findRead (again id f s) id = some { f r with st := .requested, senses := [], frame := s.frame.elapsed + 1 } :=
  findRead_updRead (f := fun r => { f r with st := .requested, senses := [], frame := s.frame.elapsed + 1 }) hf h

/-! ### What a decode leaves of the state before the read's next step -/

/-- The reads, the pages, and the zones' part of the state. -/
def readView (s : State) : List RdOp × Tab Stored × ZoneSt := (s.flash.reads, s.media.flash, s.zone)

theorem goodDecode_view (l : Loc) (m : Nat) (st : Bool) (up down : Nat) (s : State) :
    readView (goodDecode l m st up down s) = readView s := by
  have fed : ∀ die b page d, readView (feedTracker die b page st d s) = readView s := fun die b page d => by
    unfold feedTracker
    split
    · rfl
    · unfold when
      dsimp only
      split <;> rfl
  unfold goodDecode
  split
  · rfl
  · unfold when
    dsimp only
    split
    · exact fed _ _ _ _
    · exact fed _ _ _ _

theorem noteRetry_view (l : Loc) (m : Nat) (s : State) : readView (noteRetry l m s) = readView s := by
  unfold noteRetry
  split <;> rfl

theorem findRead_view (h : readView t = readView s) (id : Nat) : findRead t id = findRead s id :=
  findRead_of_reads (congrArg Prod.fst h) id

theorem flashAt_view (h : readView t = readView s) (l : Loc) : flashAt t l = flashAt s l := by
  have flash : t.media.flash = s.media.flash := congrArg (·.2.1) h
  unfold flashAt
  rw [flash]

theorem wanted_view (h : readView t = readView s) (r : RdOp) (u : Stored) : wanted t r u = wanted s r u := by
  have zone : t.zone = s.zone := congrArg (·.2.2) h
  unfold wanted headerGood nsAt
  rw [zone]

/-! ### A unit is delivered -/

/-- The state in which a delivered unit goes to its reader. -/
def delivering (r : RdOp) (u : Stored) (s : State) : State :=
  when (!r.fua) (cacheFill r.loc u) (when (decide (3 ≤ r.step)) (refreshGroup r.loc.eg) s)

theorem deliver_host_eq (hq : r.for_ = .host q) (u : Stored) (s : State) :
    deliver r u s = updRead r.id (fun r => { r with st := .decoded u, senses := [] }) (delivering r u s) := by
  unfold deliver
  simp only [hq]
  rfl

theorem deliver_host (hq : r.for_ = .host q) (hi : r.id = id) (u : Stored) (h : findRead s id = some r) :
    findRead (deliver r u s) id = some { r with st := .decoded u, senses := [] } := by
  have same : (delivering r u s).flash.reads = s.flash.reads := by
    unfold delivering when
    split <;> split <;> rfl
  subst hi
  rw [deliver_host_eq hq]
  exact findRead_updRead (f := fun r => { r with st := .decoded u, senses := [] }) rfl
    ((findRead_of_reads same _).trans h)

/-! ### The ladder's next step -/

theorem recDataErr_reads (i n : Nat) (s : State) : findRead (recDataErr i n s) id = findRead s id := rfl

theorem findRead_toStep {k : Nat} (hi : r.id = id) (hk : k ≠ 4) (h : findRead s id = some r) :
    findRead (toStep k r s) id = some { r with
      step := k, extra := 0, back := if k = 5 then some .ladder else r.back
      st := .requested, senses := [], frame := s.frame.elapsed + 1 } := by
  subst hi
  unfold toStep
  rw [if_neg hk]
  exact findRead_again (s := recDataErr (7 + k) 1 s)
    (f := fun r => { r with step := k, extra := 0, back := if k = 5 then some .ladder else r.back }) rfl h

theorem findRead_toStep_soft (hi : r.id = id) (h : findRead s id = some r) :
    findRead (toStep 4 r s) id = some { r with step := 4, st := .decoding } := by
  subst hi
  exact findRead_updRead (s := recDataErr (7 + 4) 1 s) (f := fun r => { r with step := 4, st := .decoding }) rfl h

/-- What a failed decode makes of a read for a host. -/
theorem climb_host (hq : r.for_ = .host q) (hi : r.id = id) (h : findRead s id = some r) :
    (∀ die b page lost, r.step = 1 → memberPlace s r.loc (targetMember s r.loc) = some (die, b, page, lost) →
      findRead (climb r s) id = some { r with
        step := if tracked s die b then 2 else if r.lr then 5 else 3, extra := 0
        back := if tracked s die b = false ∧ r.lr = true then some .ladder else r.back
        st := .requested, senses := [], frame := s.frame.elapsed + 1 }) ∧
    (r.step = 2 → findRead (climb r s) id = some { r with
      step := if r.lr then 5 else 3, extra := 0, back := if r.lr then some .ladder else r.back
      st := .requested, senses := [], frame := s.frame.elapsed + 1 }) ∧
    (r.step = 3 → r.extra < 2 → findRead (climb r s) id = some { r with
      extra := r.extra + 1, st := .requested, senses := [], frame := s.frame.elapsed + 1 }) ∧
    (r.step = 3 → 2 ≤ r.extra → findRead (climb r s) id = some { r with step := 4, st := .decoding }) ∧
    (r.step = 4 → findRead (climb r s) id = some { r with
      step := 5, extra := 0, back := some .ladder, st := .requested, senses := [], frame := s.frame.elapsed + 1 }) := by
  have host : r.for_ ≠ .probe := by simp [hq]
  subst hi
  unfold climb
  rw [if_neg host]
  refine ⟨fun die b page lost hs hm => ?_, fun hs => ?_, fun hs he => ?_, fun hs he => ?_, fun hs => ?_⟩
  · rw [if_pos hs]
    simp only [hm]
    rcases Bool.eq_false_or_eq_true (tracked s die b) with tr | tr
    · simpa [tr] using findRead_toStep (k := 2) rfl (by decide) h
    · rcases Bool.eq_false_or_eq_true r.lr with lr | lr
      · simpa [tr, lr] using findRead_toStep (k := 5) rfl (by decide) h
      · simpa [tr, lr] using findRead_toStep (k := 3) rfl (by decide) h
  · rw [if_neg (by omega), if_pos hs]
    rcases Bool.eq_false_or_eq_true r.lr with lr | lr
    · simpa [lr] using findRead_toStep (k := 5) rfl (by decide) h
    · simpa [lr] using findRead_toStep (k := 3) rfl (by decide) h
  · rw [if_neg (by omega), if_neg (by omega), if_pos hs, if_pos he]
    exact findRead_again (f := fun r => { r with extra := r.extra + 1 }) rfl h
  · rw [if_neg (by omega), if_neg (by omega), if_pos hs, if_neg (by omega)]
    exact findRead_toStep_soft rfl h
  · rw [if_neg (by omega), if_neg (by omega), if_neg (by omega), if_pos hs]
    exact findRead_toStep (k := 5) rfl (by decide) h

/-! ### The codeword of a direct read -/

theorem codewordDecode_direct {u v : Nat} (hf : findRead s id = some r) (hr : hallRuns s = true) (hs : r.st = .decoding)
    (h4 : r.step ≠ 4) : codewordDecode id (.good u v) s = directDecode r u v s ∧
      codewordDecode id (.retried u v) s = directDecode r u v (noteRetry r.loc (targetMember s r.loc) s) ∧
      codewordDecode id .fail s = climb r s ∧ codewordDecode id .wrong s = climb r (recDataErr 5 1 s) := by
  unfold codewordDecode
  simp only [hf, hr, hs, h4, Bool.not_true, Bool.false_eq_true, if_false, and_self]

/-- A direct read that decodes with the unit it wants. -/
theorem directDecode_host {u : Stored} (a b : Nat) (hq : r.for_ = .host q) (hi : r.id = id) (h : findRead s id = some r)
    (hu : flashAt s r.loc = some u) (hw : wanted s r u = true) :
    findRead (directDecode r a b s) id = some { r with st := .decoded u, senses := [] } := by
  unfold directDecode
  dsimp only
  have view := goodDecode_view r.loc (targetMember s r.loc) (decide (r.step = 1)) a b s
  simp only [(flashAt_view view r.loc).trans hu, (wanted_view view r u).trans hw, if_true]
  exact deliver_host hq hi u ((findRead_view view id).trans h)

theorem codewordDecode_decodes {out : DecodeOut} (ho : ∃ u v, out = .good u v ∨ out = .retried u v) {u : Stored}
    (hf : findRead s id = some r) (hi : r.id = id) (hr : hallRuns s = true) (hq : r.for_ = .host q)
    (hu : flashAt s r.loc = some u) (hw : wanted s r u = true) (hs : r.st = .decoding) (h4 : r.step ≠ 4) :
    findRead (codewordDecode id out s) id = some { r with st := .decoded u, senses := [] } := by
  obtain ⟨a, b, rfl | rfl⟩ := ho
  · rw [(codewordDecode_direct hf hr hs h4).1]
    exact directDecode_host a b hq hi hf hu hw
  · rw [(codewordDecode_direct hf hr hs h4).2.1]
    have view := noteRetry_view r.loc (targetMember s r.loc) s
    exact directDecode_host a b hq hi ((findRead_view view id).trans hf) ((flashAt_view view _).trans hu)
      ((wanted_view view _ _).trans hw)

theorem codewordDecode_fails {out : DecodeOut} (ho : out = .fail ∨ out = .wrong) (hf : findRead s id = some r)
    (hr : hallRuns s = true) (hs : r.st = .decoding) (h4 : r.step ≠ 4) :
    codewordDecode id out s = climb r s ∨ codewordDecode id out s = climb r (recDataErr 5 1 s) := by
  obtain ⟨-, -, fail, wrong⟩ := codewordDecode_direct (u := 0) (v := 0) hf hr hs h4
  rcases ho with rfl | rfl
  · exact .inl fail
  · exact .inr wrong

/-! ### The soft step -/

theorem softDecode_decodes {out : DecodeOut} (ho : ∃ u v, out = .good u v ∨ out = .retried u v) {u : Stored}
    (hf : findRead s id = some r) (hi : r.id = id) (hr : hallRuns s = true) (hq : r.for_ = .host q)
    (hu : flashAt s r.loc = some u) (hw : wanted s r u = true) (hs : r.st = .decoding) (h4 : r.step = 4) :
    findRead (softDecode id out s) id = some { r with st := .decoded u, senses := [] } := by
  have e : softDecode id out s = deliver r u s := by
    unfold softDecode
    obtain ⟨a, b, rfl | rfl⟩ := ho <;>
      simp only [hf, hr, hs, h4, hu, hw, Bool.not_true, Bool.false_eq_true, ne_eq, not_true_eq_false, or_self, if_false,
        if_true]
  rw [e]
  exact deliver_host hq hi u hf

theorem softDecode_fails {out : DecodeOut} (ho : out = .fail ∨ out = .wrong) (hf : findRead s id = some r)
    (hr : hallRuns s = true) (hs : r.st = .decoding) (h4 : r.step = 4) :
    softDecode id out s = climb r s ∨ softDecode id out s = climb r (recDataErr 5 1 s) := by
  unfold softDecode
  rcases ho with rfl | rfl <;>
    simp only [hf, hr, hs, h4, Bool.not_true, Bool.false_eq_true, ne_eq, not_true_eq_false, or_self, if_false, true_or,
      or_true]

/-! ### The members of a reconstruction -/

theorem setMembers_host (hq : r.for_ = .host q) (ready second : List Nat) (s : State) :
    setMembers r ready second s = updRead r.id (fun k => { k with
      st := if (ready.isEmpty && second.isEmpty && r.senses.isEmpty) = true then .rebuilt else .members ready second }) s := by
  unfold setMembers
  simp only [hq, reduceCtorEq, and_false, if_false]

theorem codewordDecode_member {code : Nat} {rest second : List Nat} (out : DecodeOut) (hf : findRead s id = some r)
    (hr : hallRuns s = true) (hs : r.st = .members (code :: rest) second) :
    codewordDecode id out s = decodeMember r code rest second out s := by
  unfold codewordDecode
  simp only [hf, hr, hs, Bool.not_true, Bool.false_eq_true, if_false]

theorem decodeMember_good {code : Nat} {rest second : List Nat} (u v : Nat) (hq : r.for_ = .host q) (hi : r.id = id)
    (hf : findRead s id = some r) : findRead (decodeMember r code rest second (.good u v) s) id = some { r with
      st := if (rest.isEmpty && second.isEmpty && r.senses.isEmpty) = true then .rebuilt else .members rest second } := by
  subst hi
  unfold decodeMember
  dsimp only
  rw [setMembers_host hq]
  exact findRead_updRead (f := fun k => { k with
    st := if (rest.isEmpty && second.isEmpty && r.senses.isEmpty) = true then .rebuilt else .members rest second }) rfl
    ((findRead_view (goodDecode_view ..) _).trans hf)

theorem decodeMember_fail_eq {code die b page : Nat} {lost : Bool} {rest second : List Nat} (hq : r.for_ = .host q)
    (hm : memberPlace s r.loc (code % 32) = some (die, b, page, lost)) (hc : code < 32) (ht : tracked s die b = true) :
    decodeMember r code rest second .fail s = updRead r.id (fun k => { k with frame := s.frame.elapsed + 1 })
      (updRead r.id (fun k => { k with st := .members rest (second ++ [code]) }) s) := by
  have waits : ∀ a : Bool, (rest.isEmpty && (second ++ [code]).isEmpty && a) = false := fun a => by simp
  have members := setMembers_host hq rest (second ++ [code]) s
  rw [waits] at members
  unfold decodeMember
  simp only [hm, hq, hc, ht, reduceCtorEq, if_false, and_self, if_true]
  rw [Nat.mod_eq_of_lt hc, members]
  rfl

theorem decodeMember_fail {code die b page : Nat} {lost : Bool} {rest second : List Nat} (hq : r.for_ = .host q) (hi : r.id = id)
    (hf : findRead s id = some r) (hm : memberPlace s r.loc (code % 32) = some (die, b, page, lost)) (hc : code < 32)
    (ht : tracked s die b = true) : findRead (decodeMember r code rest second .fail s) id = some { r with
      st := .members rest (second ++ [code]), frame := s.frame.elapsed + 1 } := by
  subst hi
  rw [decodeMember_fail_eq hq hm hc ht]
  have found := findRead_updRead (f := fun k : RdOp => { k with st := .members rest (second ++ [code]) }) rfl hf
  exact findRead_updRead (f := fun k => { k with frame := s.frame.elapsed + 1 }) rfl found

/-! ### The reconstruction -/

theorem backStair_rebuilds {g : Group} (hf : findRead s id = some r) (hr : hallRuns s = true) (hs : r.st = .rebuilt)
    (hg : groupAt s r.loc.eg = some g) : backStair id s =
      if innerCheck (xorOthers s r.loc g.width).data (xorOthers s r.loc g.width).meta_ (xorOthers s r.loc g.width).hdr =
          (xorOthers s r.loc g.width).check ∧ wanted s r (xorOthers s r.loc g.width) = true
      then deliver r (xorOthers s r.loc g.width) s else backEnds r s := by
  unfold backStair
  simp only [hf, hr, hs, hg, Bool.not_true, Bool.false_eq_true, ne_eq, not_true_eq_false, or_self, if_false]

theorem backEnds_unavailable (hq : r.for_ = .host q) (hi : r.id = id) (hf : findRead s id = some r)
    (hb : r.back = some .unavailable) : findRead (backEnds r s) id = some { r with
      step := 1, back := none, noBack := true, st := .requested, senses := [], frame := s.frame.elapsed + 1 } := by
  have e : backEnds r s = again r.id (fun r => { r with step := 1, back := none, noBack := true }) s := by
    unfold backEnds
    simp only [hq, hb, reduceCtorEq, if_false, if_true]
  subst hi
  rw [e]
  exact findRead_again (f := fun r => { r with step := 1, back := none, noBack := true }) rfl hf

/-! ### A unit leaves -/

section egress

variable {cid : CmdId} {it : Item} {x u : Nat} {n : Ns} {d m : List Byte}

theorem piFaults_unchecked (g32 : Bool) (first : Nat) {e : Sqe} (h : ∀ i < 3, e.prchk i = false)
    (l : List (List Byte × List Byte)) : piFaults n g32 e first l = none := by
  induction l generalizing first with
  | nil => rfl
  | cons p l ih =>
    have sound : piFault n g32 e first p.1 p.2 = none := by
      unfold piFault
      simp only [h 0 (by decide), h 1 (by decide), h 2 (by decide), Bool.false_eq_true, false_and, if_false, ite_self]
    unfold piFaults
    rw [sound, ih]
    rfl

/-- What the blocks of a unit leave in the state when they are sent. -/
def handedOut (it : Item) (n : Ns) (u : Nat) (d m : List Byte) (s : State) : State :=
  let bl := askedBlocks n it.sqe u d m
  let pi := if n.pit ≠ 0 ∧ it.sqe.pract then [] else (bl.map (·.2)).flatten
  let data := (bl.map (·.1)).flatten
  if it.opc ≠ 0x02 ∨ it.silent then s else
    updCtl it.id.fn (fun c => { c with dataRead := c.dataRead + data.length })
      (meter it.id.fn (fun k => { k with bytesRead := k.bytesRead + data.length + pi.length })
        (send (.unitOut it.id.fn it.id.cid u data pi) s))

theorem sendUnit_sends (hp : n.pit = 0 ∨ lbaMeta n.lbaf = 0 ∨ ∀ i < 3, it.sqe.prchk i = false) :
    sendUnit it n u d m s =
      readDone it.seq (updItem it.seq (fun i => { i with doneUnits := u :: i.doneUnits }) (handedOut it n u d m s)) := by
  unfold sendUnit
  extract_lets g32 bl first fault pi data v
  have none_ : fault = none := by
    rcases hp with h | h | h
    · exact if_pos (.inl h)
    · exact if_pos (.inr h)
    · exact (ite_eq_left_iff.mpr fun _ => piFaults_unchecked g32 first h bl)
  rw [none_]
  rfl

theorem handedOut_keeps : (handedOut it n u d m s).host.items = s.host.items ∧ SameQueues s (handedOut it n u d m s) ∧
    Only [.host, .inst, .emit] s (handedOut it n u d m s) := by
  unfold handedOut
  dsimp only
  split
  · exact ⟨rfl, .refl s, only_refl _ _⟩
  · refine ⟨rfl, ?_, ?_⟩
    · refine SameQueues.trans ?_ (SameQueues.updCtl _ _ ?_)
      · exact SameQueues.of_host rfl
      · exact fun c => ⟨rfl, fun _ => rfl⟩
    · exact updCtl_only _ _ _ (meter_only _ _ _ (send_only _ _ (only_refl _ _) (by decide)) (by decide)) (by decide)

theorem handedOut_sends (ho : it.opc = 0x02) (hs : it.silent = false) : ∃ pi, .unitOut it.id.fn it.id.cid u
    ((askedBlocks n it.sqe u d m).map (·.1)).flatten pi ∈ (handedOut it n u d m s).emit := by
  unfold handedOut
  dsimp only
  rw [if_neg (by simp [ho, hs])]
  exact ⟨_, List.mem_append_right _ List.mem_cons_self⟩

/-- A unit of a read for a host, with nothing of it failed. -/
theorem readDone_rest {k : Item} (hk : itemBySeq s k.seq = some k) (hl : k.doneUnits.length < k.count)
    (hf : k.failed = []) : readDone k.seq s = s := by
  unfold readDone
  simp only [hk, hf, List.length_nil, Nat.add_zero, hl, true_or, or_true, if_true]

theorem readDone_last {k : Item} (hk : itemBySeq s k.seq = some k) (hl : k.count ≤ k.doneUnits.length)
    (hf : k.failed = []) (ho : k.outcome = none) (hr : flushing s = false) : readDone k.seq s = finishOk k.seq s := by
  unfold readDone
  simp only [hk, hf, ho, hr, List.length_nil, Nat.add_zero, Nat.not_lt.mpr hl, Option.isSome_none, Bool.false_eq_true,
    or_self, if_false, List.isEmpty_nil, if_true]

/-- The state in which a unit has been sent, its command not yet looked at. -/
def unitSent (r : RdOp) (it : Item) (n : Ns) (d m : List Byte) (s : State) : State :=
  updItem it.seq (fun i => { i with doneUnits := r.unit :: i.doneUnits }) (handedOut it n r.unit d m (endRead r s))

theorem readEgress_sends (a : IoStarted s cid it x n)
    (hf : (s.flash.reads.find? fun k => decide (k.for_ = .host it.seq) && decide (k.unit = r.unit)) = some r)
    (hp : n.pit = 0 ∨ lbaMeta n.lbaf = 0 ∨ ∀ i < 3, it.sqe.prchk i = false)
    (hd : (r.st = .zeros ∧ d = zeros 4096) ∨ (∃ t, r.st = .decoded t ∧ innerCheck t.data t.meta_ t.hdr = t.check ∧
      hdrMatches n x r.unit t.hdr = true ∧ t.hdr.poison = false ∧ d = bvBytes (decryptUnit s x n r.unit t))) :
    ∃ m, readEgress cid r.unit s = readDone it.seq (unitSent r it n d m s) := by
  have open_ : ¬(it.phase ≠ .started ∨ it.outcome.isSome = true ∨ (!hallRuns s) = true) := by
    simp [a.started, a.fresh, a.runs]
  rcases hd with ⟨st, rfl⟩ | ⟨t, st, check, header, sound, rfl⟩
  · unfold readEgress
    simp only [a.found, hf, a.named, st]
    rw [if_neg open_]
    exact ⟨_, sendUnit_sends hp⟩
  · have ok : (openUnit s x n r.unit t).ok = true := decide_eq_true rfl
    unfold readEgress
    simp only [a.found, hf, a.named, st, check, header, sound, ok, ne_eq, not_true_eq_false, Bool.not_true,
      Bool.false_eq_true, if_false, if_true]
    rw [if_neg (by simpa using open_)]
    exact ⟨_, sendUnit_sends hp⟩

theorem unitSent_keeps : SameQueues s (unitSent r it n d m s) ∧
    Only [.host, .media, .flash, .inst, .emit] s (unitSent r it n d m s) ∧
    (unitSent r it n d m s).flash.reads = s.flash.reads.filter fun k => decide (k.id ≠ r.id) := by
  have ended : Only [.media, .flash] s (endRead r s) := endRead_only _ _ (only_refl _ _) (by decide)
  have host : (endRead r s).host = s.host := ended.same .host (by decide)
  obtain ⟨-, queues, out⟩ := handedOut_keeps (s := endRead r s) (it := it) (u := r.unit) (n := n) (d := d) (m := m)
  have flash : (handedOut it n r.unit d m (endRead r s)).flash = (endRead r s).flash := out.same .flash (by decide)
  refine ⟨?_, ?_, ?_⟩
  · exact SameQueues.trans (SameQueues.of_host (congrArg HostSt.ctls host)) (queues.trans (SameQueues.of_host rfl))
  · exact updItem_only _ _ _ ((ended.mono (by decide)).trans (out.mono (by decide))) (by decide)
  · refine (congrArg FlashSt.reads flash).trans ?_
    unfold endRead
    dsimp only
    split <;> rfl

theorem unitSent_item (hu : itemBySeq s it.seq = some it) : itemBySeq (unitSent r it n d m s) it.seq =
    some { it with doneUnits := r.unit :: it.doneUnits } := by
  have ended : Only [.media, .flash] s (endRead r s) := endRead_only _ _ (only_refl _ _) (by decide)
  have host : (endRead r s).host = s.host := ended.same .host (by decide)
  have items := (handedOut_keeps (s := endRead r s) (it := it) (u := r.unit) (n := n) (d := d) (m := m)).1
  exact itemBySeq_updItem (fun _ => rfl)
    ((itemBySeq_of_items (items.trans (congrArg HostSt.items host)) _).trans hu)

theorem unitSent_sends (ho : it.opc = 0x02) (hs : it.silent = false) : ∃ pi, .unitOut it.id.fn it.id.cid r.unit
    ((askedBlocks n it.sqe r.unit d m).map (·.1)).flatten pi ∈ (unitSent r it n d m s).emit :=
  handedOut_sends ho hs

/-- The egress of a unit: its read is gone, it is sent, and the last one completes the command. -/
theorem readEgress_leaves (a : IoStarted s cid it x n)
    (hf : (s.flash.reads.find? fun k => decide (k.for_ = .host it.seq) && decide (k.unit = r.unit)) = some r)
    (hp : n.pit = 0 ∨ lbaMeta n.lbaf = 0 ∨ ∀ i < 3, it.sqe.prchk i = false) (hz : it.failed = [])
    (hd : (r.st = .zeros ∧ d = zeros 4096) ∨ (∃ t, r.st = .decoded t ∧ innerCheck t.data t.meta_ t.hdr = t.check ∧
      hdrMatches n x r.unit t.hdr = true ∧ t.hdr.poison = false ∧ d = bvBytes (decryptUnit s x n r.unit t))) :
    (∀ k ∈ (readEgress cid r.unit s).flash.reads, k.id ≠ r.id) ∧
      (it.opc = 0x02 → ∃ m pi, .unitOut it.id.fn it.id.cid r.unit
        ((askedBlocks n it.sqe r.unit d m).map (·.1)).flatten pi ∈ (readEgress cid r.unit s).emit) ∧
      (it.doneUnits.length + 1 < it.count → itemBySeq (readEgress cid r.unit s) it.seq =
        some { it with doneUnits := r.unit :: it.doneUnits }) ∧
      (it.count ≤ it.doneUnits.length + 1 → Completes s (readEgress cid r.unit s) it stOk 0 0) := by
  obtain ⟨m, e⟩ := readEgress_sends a hf hp hd
  rw [e]
  obtain ⟨queues, only, reads⟩ := unitSent_keeps (s := s) (r := r) (it := it) (n := n) (d := d) (m := m)
  have item := unitSent_item (r := r) (n := n) (d := d) (m := m) a.unique
  have posted : Only [.frame, .host, .inst, .recd, .emit] (unitSent r it n d m s) (readDone it.seq (unitSent r it n d m s)) :=
    readDone_only _ _ (only_refl _ _) (by decide)
  refine ⟨fun k hk => ?_, fun ho => ?_, fun hl => ?_, fun hl => ?_⟩
  · have flash : (readDone it.seq (unitSent r it n d m s)).flash = (unitSent r it n d m s).flash :=
      posted.same .flash (by decide)
    rw [flash, reads] at hk
    exact of_decide_eq_true (List.mem_filter.mp hk).2
  · obtain ⟨pi, sent⟩ := unitSent_sends (s := s) (r := r) (n := n) (d := d) (m := m) ho a.heard
    exact ⟨m, pi, readDone_lasts (lasting_sent _) _ sent⟩
  · rw [readDone_rest (k := { it with doneUnits := r.unit :: it.doneUnits }) item hl hz]
    exact item
  · have flushes : flushing (unitSent r it n d m s) = false := by
      unfold flushing
      rw [only.same .power (by decide)]
      exact hallRuns_flushing a.runs
    rw [readDone_last (k := { it with doneUnits := r.unit :: it.doneUnits }) item hl hz a.fresh flushes]
    obtain ⟨gone, completed⟩ := (finishOk_completes (s := unitSent r it n d m s)
      (it := { it with doneUnits := r.unit :: it.doneUnits }) item a.fresh a.heard flushes rfl).of_sameQueues queues
    exact ⟨gone, completed⟩

end egress

theorem IoStarted.act {cid : CmdId} {it : Item} {x : Nat} {n : Ns} (a : IoStarted s cid it x n) :
    IoStarted { s with emit := [] } cid it x n :=
  ⟨a.found, a.unique, a.started, a.heard, a.fresh, a.runs, a.named, a.record⟩

/-- Settles O55: a codeword that decodes is handed to its read, one that fails climbs the ladder by the read's step, and a
unit that leaves is sent. -/
theorem readsAreDecoded : Obligations.ReadsAreDecoded := by
  unfold Obligations.ReadsAreDecoded
  refine fun s id r q hf hi hr => ⟨fun hq => ⟨fun out ho u hu hw hs => ⟨fun h4 => ?_, fun h4 => ?_⟩, fun out ho hs => ?_,
    fun code rest second hs => ⟨fun u v => ?_, fun die b page lost hm hc ht => ?_⟩, fun g hs hg => ⟨fun hc hw => ?_,
    fun hw hb => ?_⟩⟩, fun cid it x n a _ hfound hp hz d hd => ?_⟩
  · exact act_does rfl (codewordDecode_decodes (s := { s with emit := [] }) ho hf hi hr hq hu hw hs h4)
  · exact act_does rfl (softDecode_decodes (s := { s with emit := [] }) ho hf hi hr hq hu hw hs h4)
  · obtain ⟨one, two, three, four, five⟩ := climb_host (s := { s with emit := [] }) hq hi hf
    obtain ⟨one', two', three', four', five'⟩ := climb_host (s := recDataErr 5 1 { s with emit := [] }) hq hi hf
    have direct := fun h4 => codewordDecode_fails (s := { s with emit := [] }) ho hf hr hs h4
    have soft := fun h4 => softDecode_fails (s := { s with emit := [] }) ho hf hr hs h4
    refine ⟨fun die b page lost h1 hm => act_does rfl ?_, fun h2 => act_does rfl ?_, fun h3 he => act_does rfl ?_,
      fun h3 he => act_does rfl ?_, fun h4 => act_does rfl ?_⟩
    · rcases direct (by omega) with e | e
      · exact e ▸ one die b page lost h1 hm
      · exact e ▸ one' die b page lost h1 hm
    · rcases direct (by omega) with e | e
      · exact e ▸ two h2
      · exact e ▸ two' h2
    · rcases direct (by omega) with e | e
      · exact e ▸ three h3 he
      · exact e ▸ three' h3 he
    · have same : ({ r with step := 4 } : RdOp) = { r with step := 4, st := .decoding } := by rw [← hs]
      rw [same]
      rcases direct (by omega) with e | e
      · exact e ▸ four h3 he
      · exact e ▸ four' h3 he
    · rcases soft h4 with e | e
      · exact e ▸ five h4
      · exact e ▸ five' h4
  · have e := codewordDecode_member (s := { s with emit := [] }) (.good u v) hf hr hs
    exact act_does rfl (e ▸ decodeMember_good (s := { s with emit := [] }) u v hq hi hf)
  · have e := codewordDecode_member (s := { s with emit := [] }) .fail hf hr hs
    exact act_does rfl (e ▸ decodeMember_fail (s := { s with emit := [] }) hq hi hf hm hc ht)
  · have e := (backStair_rebuilds (s := { s with emit := [] }) hf hr hs hg).trans (if_pos ⟨hc, hw⟩)
    exact act_does rfl (e ▸ deliver_host (s := { s with emit := [] }) hq hi _ hf)
  · have e := (backStair_rebuilds (s := { s with emit := [] }) hf hr hs hg).trans
      (if_neg fun ⟨_, h⟩ => Bool.false_ne_true (hw.symm.trans h))
    exact act_does rfl (e ▸ backEnds_unavailable (s := { s with emit := [] }) hq hi hf hb)
  · obtain ⟨gone, sent, more, last⟩ := readEgress_leaves (s := { s with emit := [] }) a.act hfound hp hz hd
    refine act_does rfl ⟨fun k hk => hi ▸ gone k hk, sent, more, fun hl => ?_⟩
    obtain ⟨absent, posted⟩ := last hl
    exact ⟨absent, posted⟩

end Sys2Proof.Machine
end

section
/-! SUPPORT. A die and its next sensing, and the bus that a sensed page waits for (R253 to R257, R265). -/

namespace Sys2Proof.Machine

variable {s t : State} {die : Nat} {d : Die} {q : Sense}

/-! ### One die of the table -/

theorem dieAt_updDie (k : Nat) (f : Die → Die) (s : State) : dieAt (updDie k f s) k = (dieAt s k).map f :=
  tabGet_upd_same ..

theorem dieAt_updDie_self {f : Die → Die} (h : dieAt s die = some d) : dieAt (updDie die f s) die = some (f d) := by
  rw [dieAt_updDie, h]
  rfl

theorem dieAt_of_dies (h : t.flash.dies = s.flash.dies) (die : Nat) : dieAt t die = dieAt s die := by
  unfold dieAt
  rw [h]

/-- What of each die an update of one of them does not touch is kept. -/
theorem dieAt_updDie_map {β : Type} (g : Die → β) {f : Die → Die} (hg : ∀ d, g (f d) = g d) (k die : Nat) (s : State) :
    (dieAt (updDie k f s) die).map g = (dieAt s die).map g :=
  congrFun (tabGet_upd_map s.flash.dies k g hg) die

/-! ### The next sensing of a die -/

/-- The die with its next sensing issued. -/
def issuing (c : Nat) (q : Sense) (d : Die) : Die :=
  { d with
    sensing := some { q with issued := c }, ready := false, held := q.ofs.getD d.held
    op := d.op.map fun o => { o with senses := o.senses + flag o.suspended 1 } }

theorem startSense_flash (die : Nat) (q : Sense) (s : State) :
    (startSense die q s).flash = (updDie die (issuing (clk s) q) s).flash := by
  unfold startSense
  extract_lets c a
  have quiet : Only [.emit] s a := by
    unfold a
    split
    · exact only_refl _ _
    · exact only_when _ _ (onfiPlanes_only _ _ _ _ _ _ (only_when _ _ (only_when _ _ (only_refl _ _) fun _ h =>
        onfiLevels_only _ _ _ h (by decide)) fun _ h => onfi_only _ _ _ _ h (by decide)) (by decide)) fun _ h =>
          onfi_only _ _ _ _ h (by decide)
  have flash : a.flash = s.flash := quiet.same .flash (by decide)
  exact congrArg (fun f : FlashSt => { f with dies := tabUpd f.dies die (issuing c q) }) flash

/-- The sensing of `q`, off the queue. -/
def started (die : Nat) (q : Sense) (rest : List Sense) (s : State) : State :=
  updDie die (issuing (clk s) q) (updDie die (fun d => { d with queue := rest }) s)

/-- A die is left as it is, or takes the next sensing of its queue. -/
theorem kickDie_flash (die : Nat) (s : State) : (kickDie die s).flash = s.flash ∨
    ∃ q rest, (kickDie die s).flash = (started die q rest s).flash := by
  unfold kickDie
  split
  · exact .inl rfl
  · split
    · rename_i q rest _ _
      dsimp only
      split
      all_goals
        split
        · exact .inr ⟨q, rest, startSense_flash die q (updDie die (fun d => { d with queue := rest }) s)⟩
        · exact .inl rfl
    · exact .inl rfl

/-- A die with no sensing in progress, idle or suspended, takes the next one. -/
theorem kickDie_starts {rest : List Sense} (hd : dieAt s die = some d) (hs : d.sensing = none) (hq : d.queue = q :: rest)
    (ho : ∀ o, d.op = some o → o.suspended = true ∧ o.senses < 4) (hu : d.inUse = true) (hf : flushing s = false)
    (hx : xferPending s die = false) (hp : dataPending s die = false) :
    (kickDie die s).flash = (started die q rest s).flash := by
  unfold kickDie
  simp only [hd, hs, hq, hu, hf, hx, hp, Bool.not_false, and_true]
  cases h : d.op with
  | none => exact startSense_flash die q (updDie die (fun d => { d with queue := rest }) s)
  | some o =>
    obtain ⟨suspended, few⟩ := ho o h
    simp only [suspended, few, decide_true, Bool.and_self, if_true]
    exact startSense_flash die q (updDie die (fun d => { d with queue := rest }) s)

theorem dieAt_started {rest : List Sense} (hd : dieAt s die = some d) :
    dieAt (started die q rest s) die = some (issuing s.frame.elapsed q { d with queue := rest }) :=
  dieAt_updDie_self (dieAt_updDie_self hd)

theorem kickDie_idle (hd : dieAt s die = some d) (hq : d.queue = []) : kickDie die s = s := by
  unfold kickDie
  simp only [hd, hq]
  cases d.sensing <;> rfl

/-- What a kick leaves: the reads and the channels. -/
theorem kickDie_keeps (die : Nat) (s : State) : (kickDie die s).flash.reads = s.flash.reads ∧
    (kickDie die s).flash.chans = s.flash.chans := by
  rcases kickDie_flash die s with h | ⟨q, rest, h⟩
  · rw [h]
    exact ⟨rfl, rfl⟩
  · rw [h]
    exact ⟨rfl, rfl⟩

/-- What of a die neither its queue nor its next sensing touches is kept. -/
theorem kickDie_map {β : Type} (g : Die → β) (hq : ∀ d l, g { d with queue := l } = g d) (hs : ∀ d c q, g (issuing c q d) = g d)
    (k die : Nat) (s : State) : (dieAt (kickDie k s) die).map g = (dieAt s die).map g := by
  rcases kickDie_flash k s with h | ⟨q, rest, h⟩
  · rw [dieAt_of_dies (congrArg FlashSt.dies h)]
  · rw [dieAt_of_dies (congrArg FlashSt.dies h)]
    exact (dieAt_updDie_map g (fun d => hs d _ q) k die _).trans (dieAt_updDie_map g (fun d => hq d rest) k die s)

/-! ### The bus -/

theorem busEvent_map {β : Type} (g : Die → β) (hq : ∀ d l, g { d with queue := l } = g d)
    (hs : ∀ d c q, g (issuing c q d) = g d) (ho : ∀ d o, g { d with ready := false, op := o } = g d) (e : BusEv) (die : Nat)
    (s : State) : (dieAt (busEvent e s) die).map g = (dieAt s die).map g := by
  unfold busEvent
  split
  · rfl
  · rfl
  · unfold when
    split
    · exact kickDie_map g hq hs _ die _
    · rfl
  · rename_i d
    extract_lets a
    have quiet : Only [.emit] s a := by
      unfold a
      split
      · exact only_when _ _ (only_refl _ _) fun _ h => onfi_only _ _ _ _ h (by decide)
      · exact only_refl _ _
    have dies : a.flash.dies = s.flash.dies := congrArg FlashSt.dies (quiet.same .flash (by decide))
    rw [← dieAt_of_dies dies]
    unfold startOp
    split
    · rfl
    · exact dieAt_updDie_map g (fun d => ho d _) _ die a

theorem runBus_map {β : Type} (g : Die → β) (hq : ∀ d l, g { d with queue := l } = g d)
    (hs : ∀ d c q, g (issuing c q d) = g d) (ho : ∀ d o, g { d with ready := false, op := o } = g d) (ch : Nat)
    (run : Nat → Chan → Chan × List BusEv) (die : Nat) (s : State) :
    (dieAt (runBus ch run s) die).map g = (dieAt s die).map g := by
  unfold runBus
  split
  · rfl
  · exact forEach_keeps (fun s => (dieAt s die).map g) (fun e s => busEvent_map g hq hs ho e die s) _ _

/-- A sensed page goes on to its channel: the die's histograms are kept. -/
theorem beginXfer_map {β : Type} (g : Die → β) (hq : ∀ d l, g { d with queue := l } = g d)
    (hs : ∀ d c q, g (issuing c q d) = g d) (ho : ∀ d o, g { d with ready := false, op := o } = g d) (k : Nat) (q : Sense)
    (die : Nat) (s : State) : (dieAt (beginXfer k q s) die).map g = (dieAt s die).map g := by
  unfold beginXfer
  dsimp only
  split
  · exact kickDie_map g hq hs k die s
  · exact runBus_map g hq hs ho _ _ die _

/-! ### A sensing has ended -/

/-- The die when its sensing has been measured. -/
def measuredSense (k : Class) (n : Nat) (d : Die) : Die :=
  { d with sensing := none, ready := false, rRead := d.rRead.add k.tR n }

/-- The state in which a sensed page goes on to its channel. -/
def senseMeasured (die : Nat) (k : Class) (q : Sense) (s : State) : State :=
  updDie die (measuredSense k (clk s - q.issued)) (recHist 2 (clk s - q.issued) s)

theorem senseComplete_measures {k : Class} (hd : dieAt s die = some d) (hk : classAt s d.cls = some k)
    (hs : d.sensing = some q) (hr : d.ready = true) : senseComplete die s = beginXfer die q (senseMeasured die k q s) := by
  unfold senseComplete
  simp only [hd, hs, hk, hr, Bool.not_true, Bool.false_eq_true, if_false]
  rfl

theorem dieAt_senseMeasured {k : Class} (hd : dieAt s die = some d) : dieAt (senseMeasured die k q s) die =
    some (measuredSense k (s.frame.elapsed - q.issued) d) :=
  dieAt_updDie_self (s := recHist 2 (clk s - q.issued) s) hd

/-- The transfer of a sensed page. -/
def pageXfer (die : Nat) (k : Class) (q : Sense) (s : State) : Xfer :=
  { die := die, sense := q, slots := wantedSlots s q.id, perPlane := 16 / k.planes, size := codeSize (groupRate s q.eg)
    left := codeSize (groupRate s q.eg) }

theorem beginXfer_unwanted (h : wantedSlots s q.id = []) : beginXfer die q s = kickDie die s := by
  unfold beginXfer
  rw [h]
  rfl

theorem beginXfer_waits {k : Class} (hk : dieClass s die = some k) (h : wantedSlots s q.id ≠ []) : beginXfer die q s =
    runBus (channelOf die) Chan.runXfers
      (updChan (channelOf die) (fun c => { c with xfers := addXfer (pageXfer die k q s) c.xfers }) s) := by
  have wanted : (wantedSlots s q.id).isEmpty = false := List.isEmpty_eq_false_iff.mpr h
  unfold beginXfer
  simp only [wanted, hk, Bool.false_eq_true, if_false]
  rfl

theorem chanAt_updChan {ch : Nat} {c : Chan} (f : Chan → Chan) (h : chanAt s ch = some c) :
    chanAt (updChan ch f s) ch = some (f c) :=
  tabGet_upd_self f h

/-- A busy bus, or one without room, moves nothing. -/
theorem runBus_busy {ch : Nat} {c : Chan} (h : chanAt s ch = some c) (hb : c.retraining = true ∨ c.busLeft = 0) :
    runBus ch Chan.runXfers s = updChan ch (fun _ => c) s := by
  have work : ∃ n, c.work = n + 1 := ⟨_, by unfold Chan.work; rw [Nat.add_assoc, Nat.add_comm 2]⟩
  obtain ⟨n, hn⟩ := work
  have still : Chan.runXfers c.work c = (c, []) := by
    rw [hn]
    unfold Chan.runXfers
    exact if_pos hb
  unfold runBus
  simp only [h, still]
  rfl

/-- One codeword that fits goes over at once. -/
theorem runXfers_single {c : Chan} {x : Xfer} {u : Nat} (n : Nat) (hr : c.retraining = false) (hx : c.xfers = [x])
    (hd : c.dataIns = []) (hs : x.slots = [u]) (h0 : 0 < x.left) (hl : x.left ≤ c.busLeft) :
    Chan.runXfers (n + 2) c = ({ c with busLeft := c.busLeft - x.left, xfers := [] },
      [.seek x.die 0x06 0xE0 (slotPlace x.perPlane x.size u), .word x.die x.sense.id u true]) := by
  have moved : c.moveXfer x [] = ({ c with busLeft := c.busLeft - x.left, xfers := [] },
      [.seek x.die 0x06 0xE0 (slotPlace x.perPlane x.size u), .word x.die x.sense.id u true]) := by
    unfold Chan.moveXfer
    simp only [Nat.min_eq_right hl, Nat.lt_irrefl, if_false, hd, hs]
  have rest : ∀ y : Chan, y.xfers = [] → Chan.runXfers (n + 1) y = (y, []) := fun y hy => by
    unfold Chan.runXfers
    simp only [hy, ite_self]
  have busy : ¬(c.retraining = true ∨ c.busLeft = 0) := by
    rintro (h | h)
    · exact absurd h (by simp [hr])
    · omega
  unfold Chan.runXfers
  rw [if_neg busy]
  simp only [hx, hd, moved]
  rw [rest _ rfl]
  rfl

theorem runBus_single {ch : Nat} {c : Chan} {x : Xfer} {u : Nat} (h : chanAt s ch = some c) (hr : c.retraining = false)
    (hx : c.xfers = [x]) (hd : c.dataIns = []) (hs : x.slots = [u]) (h0 : 0 < x.left) (hl : x.left ≤ c.busLeft) :
    (runBus ch Chan.runXfers s).flash.reads = s.flash.reads.map (RdOp.take x.sense.id u) ∧
      chanAt (runBus ch Chan.runXfers s) ch = some { c with busLeft := c.busLeft - x.left, xfers := [] } := by
  have work : c.work = 2 + 2 := by simp [Chan.work, hx, hd, hs]
  have run := runXfers_single 2 hr hx hd hs h0 hl
  rw [← work] at run
  unfold runBus
  simp only [h, run]
  obtain ⟨reads, chans⟩ := kickDie_keeps x.die (transferred x.sense.id u (onfiAt x.die 0x06 0xE0
    (slotPlace x.perPlane x.size u).1 (slotPlace x.perPlane x.size u).2
    (updChan ch (fun _ => { c with busLeft := c.busLeft - x.left, xfers := [] }) s)))
  refine ⟨reads, ?_⟩
  have same := chanAt_updChan (fun _ => { c with busLeft := c.busLeft - x.left, xfers := [] }) h
  unfold chanAt at same ⊢
  exact (congrArg (fun t => tabGet t ch) chans).trans same

/-! ### A suspend is acknowledged -/

/-- The operation once its suspend is acknowledged. -/
def acknowledged (o : DieOp) : DieOp := { o with suspPending := false, suspended := true, susps := o.susps + 1, senses := 0 }

/-- The suspension limit of an operation. -/
def suspLimit (k : Class) (o : DieOp) : Nat := if o.kind = .program then k.suspProg else k.suspErase

/-- The die once a suspend is acknowledged. -/
def heldOp (k : Class) (o : DieOp) (d : Die) : Die :=
  { d with op := some (acknowledged o), limitHits := d.limitHits + flag (decide (o.susps + 1 = suspLimit k o)) 1 }

/-- The state in which the next sensing of a suspended die may start. -/
def opHeld (die : Nat) (k : Class) (o : DieOp) (s : State) : State :=
  when (decide (o.susps + 1 = suspLimit k o)) (recEvent 0x11) (updDie die (heldOp k o) s)

theorem suspendAck_holds {k : Class} {o : DieOp} (hd : dieAt s die = some d) (hk : classAt s d.cls = some k)
    (ho : d.op = some o) (hp : o.suspPending = true) : suspendAck die s = kickDie die (opHeld die k o s) := by
  unfold suspendAck
  simp only [hd, ho, hk, hp, Bool.not_true, Bool.false_eq_true, if_false]
  rfl

theorem opHeld_only (k : Class) (o : DieOp) : Only [.recd] (updDie die (heldOp k o) s) (opHeld die k o s) :=
  only_when _ _ (only_refl _ _) fun _ h => recEvent_only _ _ h (by decide)

/-- A kicked die holds its operation as it was, but for the sensings taken in the suspension. -/
theorem kickDie_op {o : DieOp} (hd : dieAt s die = some d) (ho : d.op = some o) : ∃ d' o', dieAt (kickDie die s) die = some d' ∧
    d'.op = some o' ∧ o'.suspended = o.suspended ∧ o'.suspPending = o.suspPending ∧ o'.susps = o.susps ∧
    d'.limitHits = d.limitHits := by
  rcases kickDie_flash die s with h | ⟨q, rest, h⟩
  · exact ⟨d, o, (dieAt_of_dies (congrArg FlashSt.dies h) die).trans hd, ho, rfl, rfl, rfl, rfl⟩
  · refine ⟨_, _, (dieAt_of_dies (congrArg FlashSt.dies h) die).trans (dieAt_started hd), congrArg (Option.map _) ho, rfl, rfl,
      rfl, rfl⟩

end Sys2Proof.Machine
end

section
/-! SUPPORT. A die that times out is reset (R255, R262, R265). -/

namespace Sys2Proof.Machine

variable {s t : State} {die : Nat} {d : Die} {q : Sense}

/-! ### The bus of a die -/

/-- No transfer and no data-in of the die waits for its channel's bus. -/
def BusFree (s : State) (die : Nat) : Prop := xferPending s die = false ∧ dataPending s die = false

theorem busFree_of_chans (h : t.flash.chans = s.flash.chans) (b : BusFree s die) : BusFree t die := by
  obtain ⟨xfers, dataIns⟩ := b
  unfold BusFree xferPending dataPending chanAt at *
  rw [h]
  exact ⟨xfers, dataIns⟩

/-- Dropping transfers or data-ins leaves a free bus free. -/
theorem busFree_updChan {f : Chan → Chan} (hx : ∀ c, (f c).xfers ⊆ c.xfers) (hd : ∀ c, (f c).dataIns ⊆ c.dataIns)
    (b : BusFree s die) : BusFree (updChan (channelOf die) f s) die := by
  obtain ⟨xfers, dataIns⟩ := b
  have chan : chanAt (updChan (channelOf die) f s) (channelOf die) = (chanAt s (channelOf die)).map f := tabGet_upd_same ..
  unfold BusFree xferPending dataPending at *
  rw [chan]
  cases h : chanAt s (channelOf die) with
  | none => exact ⟨rfl, rfl⟩
  | some c =>
    rw [h] at xfers dataIns
    refine ⟨?_, ?_⟩
    · exact List.any_eq_false.mpr fun x mem => List.any_eq_false.mp xfers x (hx c mem)
    · exact List.any_eq_false.mpr fun x mem => List.any_eq_false.mp dataIns x (hd c mem)

/-- The sensings of a die whose pages wait for the bus. -/
def waitingSenses (s : State) (die : Nat) : List Sense :=
  match chanAt s (channelOf die) with
  | some x => (x.xfers.filter fun q => decide (q.die = die)).map fun q => q.sense
  | none => []

theorem waitingSenses_nil (h : xferPending s die = false) : waitingSenses s die = [] := by
  unfold waitingSenses
  unfold xferPending at h
  split
  · rename_i c hc
    rw [hc] at h
    rw [List.filter_eq_nil_iff.mpr fun x mem => List.any_eq_false.mp h x mem]
    rfl
  · rfl

/-! ### The judgement of a die -/

theorem judgeDie_flash (die : Nat) (s : State) : (judgeDie die s).flash.reads = s.flash.reads ∧
    (judgeDie die s).flash.chans = s.flash.chans := by
  unfold judgeDie
  split
  · exact ⟨rfl, rfl⟩
  · dsimp only
    split <;> exact ⟨rfl, rfl⟩

theorem judgeDie_keeps (hd : dieAt s die = some d) : ∃ d', dieAt (judgeDie die s) die = some d' ∧ d'.sensing = d.sensing ∧
    d'.queue = d.queue ∧ d'.op = d.op ∧ d'.inUse = d.inUse ∧ (s.frame.elapsed ∈ d.timeouts → s.frame.elapsed ∈ d'.timeouts) := by
  unfold judgeDie
  simp only [hd]
  split
  · exact ⟨_, dieAt_updDie_self hd, rfl, rfl, rfl, rfl, id⟩
  · refine ⟨_, dieAt_updDie_self hd, rfl, rfl, rfl, rfl, fun h => List.mem_filter.mpr ⟨h, ?_⟩⟩
    exact decide_eq_true (Nat.lt_add_of_pos_right (by decide))

/-! ### The reset of a LUN -/

/-- The die when its timeout has been noted. -/
def timeoutNoted (c : Nat) (d : Die) : Die := { d with timeouts := c :: d.timeouts, ready := false }

/-- The state in which a LUN that timed out is reset. -/
def lunReset (die : Nat) (s : State) : State := onfi die 0xFA 0xFA (updDie die (timeoutNoted (clk s)) s)

theorem statusTimeout_resets {k : Class} (hd : dieAt s die = some d) (hk : classAt s d.cls = some k) (hu : d.inUse = true)
    (ht : timedOut s d k = true) (hx : xferPending s die = false) : statusTimeout die s =
      kickDie die (judgeDie die (opFails die (forEach d.sensing.toList (resense die) (lunReset die s)))) := by
  have e : statusTimeout die s = kickDie die (judgeDie die (opFails die
      (forEach (d.sensing.toList ++ waitingSenses s die) (resense die) (lunReset die s)))) := by
    unfold statusTimeout
    simp only [hd, hk, hu, ht, Bool.not_true, Bool.false_eq_true, or_self, if_false]
    rfl
  rw [e, waitingSenses_nil hx, List.append_nil]

theorem dieAt_lunReset (hd : dieAt s die = some d) : dieAt (lunReset die s) die = some (timeoutNoted s.frame.elapsed d) :=
  dieAt_updDie_self hd

/-- The channel of a die without its data-ins. -/
def dataDropped (die : Nat) (s : State) : State :=
  updChan (channelOf die) (fun c => { c with dataIns := c.dataIns.filter fun d => decide (d.die ≠ die) }) s

/-- The data-ins of a die whose data is still being moved. -/
def dataWaiting (s : State) (die : Nat) : List DataIn :=
  match chanAt s (channelOf die) with
  | some c => c.dataIns.filter fun d => decide (d.die = die)
  | none => []

theorem dataWaiting_nil (h : dataPending s die = false) : dataWaiting s die = [] := by
  unfold dataWaiting
  unfold dataPending at h
  split
  · rename_i c hc
    rw [hc] at h
    exact List.filter_eq_nil_iff.mpr fun x mem => List.any_eq_false.mp h x mem
  · rfl

/-- The operation on a die with no data on its way ends. -/
theorem opFails_ends (hd : dieAt s die = some d) (hp : dataPending s die = false) :
    (d.op = none → opFails die s = dataDropped die s) ∧
    (∀ o, d.op = some o → o.kind = .program → opFails die s = programResult o.eg o.row o.member false
      (updDie die (fun d => { d with op := none, ready := false }) (dataDropped die s))) ∧
    (∀ o, d.op = some o → o.kind = .erase → opFails die s = eraseResult o.eg o.member false
      (updDie die (fun d => { d with op := none, ready := false }) (dataDropped die s))) := by
  unfold opFails
  extract_lets ins a b c
  have none_ : ins = [] := dataWaiting_nil hp
  have same : b = dataDropped die s := by
    unfold b
    rw [none_]
    rfl
  have op : (dieAt b die).bind (·.op) = d.op := by
    rw [same, show dieAt (dataDropped die s) die = some d from hd]
    rfl
  have stopped : c = updDie die (fun d => { d with op := none, ready := false }) (dataDropped die s) := by
    unfold c
    rw [same]
  rw [op, same]
  refine ⟨fun ho => ?_, fun o ho hk => ?_, fun o ho hk => ?_⟩
  · rw [ho]
  · simp only [ho, hk, stopped]
  · simp only [ho, hk, stopped]

/-! ### What the end of an operation leaves -/

theorem rowOpAt_map {l : List RowOp} {eg row : Nat} {p o : RowOp} (he : o.eg = eg) (hr : o.row = row)
    (h : (l.find? fun o => decide (o.eg = eg) && decide (o.row = row)) = some p) :
    ((l.map fun r => if r.eg = eg ∧ r.row = row then o else r).find? fun o => decide (o.eg = eg) && decide (o.row = row)) =
      some o := by
  induction l with
  | nil => cases h
  | cons a l ih =>
    rw [List.map_cons]
    by_cases e : a.eg = eg ∧ a.row = row
    · rw [if_pos e]
      exact List.find?_cons_of_pos (by simp [he, hr])
    · rw [List.find?_cons_of_neg (by simpa using e)] at h
      rw [if_neg e, List.find?_cons_of_neg (by simpa using e)]
      exact ih h

/-- A program that fails while others of its row are to come marks the row. -/
theorem programResult_waits {eg row m : Nat} {p : RowOp} (hp : rowOpAt s eg row = some p)
    (hl : (p.outstanding.filter fun i => decide (i ≠ m)) ≠ []) : (programResult eg row m false s).flash = s.flash ∧
      ∃ p', rowOpAt (programResult eg row m false s) eg row = some p' ∧ p'.failed = true := by
  have key : p.eg = eg ∧ p.row = row := by simpa using List.find?_some hp
  have left : (p.outstanding.filter fun i => decide (i ≠ m)).isEmpty = false := List.isEmpty_eq_false_iff.mpr hl
  unfold programResult
  simp only [hp, left, Bool.not_false, if_true, Bool.or_true, Bool.false_eq_true, if_false]
  refine ⟨?_, _, rowOpAt_map key.1 key.2 (p := p) ?_, rfl⟩
  · split <;> rfl
  · split <;> exact hp

/-- An erase that fails retires its group; the dies keep their operations and their timeouts. -/
theorem eraseResult_retires {eg m : Nat} {g : Group} (hg : groupAt s eg = some g) :
    (∃ g', groupAt (eraseResult eg m false s) eg = some g' ∧ g'.retire = true) ∧
      ∀ die, (dieAt (eraseResult eg m false s) die).map (fun d => (d.op, d.timeouts)) =
        (dieAt s die).map fun d => (d.op, d.timeouts) := by
  unfold eraseResult
  split
  case h_1 h => cases h.symm.trans hg
  case h_2 g' h =>
    cases h.symm.trans hg
    extract_lets left a b
    have group : groupAt a eg = some { g with erasing := left, retire := g.retire || !false } := groupAt_updGroup (s := s) _ hg
    have groupB : groupAt b eg = some { g with erasing := left, retire := g.retire || !false } := by
      unfold b
      split <;> exact group
    have diesB : ∀ die, (dieAt b die).map (fun d => (d.op, d.timeouts)) = (dieAt s die).map fun d => (d.op, d.timeouts) := by
      intro die
      unfold b
      split
      · rw [if_neg Bool.false_ne_true]
        refine dieAt_updDie_map (fun d => (d.op, d.timeouts)) ?_ _ die _
        exact fun _ => rfl
      · rfl
    unfold when
    split
    · exact ⟨⟨_, groupB, Bool.or_true _⟩, diesB⟩
    · exact ⟨⟨_, groupB, Bool.or_true _⟩, diesB⟩

/-! ### A sensing that timed out -/

/-- A read of a sensing that is taken again. -/
def RdOp.again (n : Nat) (r : RdOp) : RdOp := if (r.senseOf n).isSome then { r with resensed := true } else r

/-- The state in which a sensing is queued again. -/
def resensing (die : Nat) (q : Sense) (s : State) : State :=
  updDie die (fun d => { d with queue := q :: d.queue })
    (updFlash (fun f => { f with reads := f.reads.map (RdOp.again q.id) })
      (updChan (channelOf die) (fun c => { c with xfers := c.xfers.filter fun x => decide (x.sense.id ≠ q.id) })
        (updDie die (fun d => { d with sensing := none }) s)))

theorem resense_first (h : (s.flash.reads.any fun r => (r.senseOf q.id).isSome && !r.resensed) = true) :
    resense die q s = resensing die q s :=
  if_pos h

theorem RdOp.again_resensed (n : Nat) (r : RdOp) (h : ((RdOp.again n r).senseOf n).isSome = true) :
    (RdOp.again n r).resensed = true := by
  unfold RdOp.again at h ⊢
  split
  · rfl
  · rename_i no
    rw [if_neg no] at h
    exact absurd h no

theorem resensing_only (die : Nat) (q : Sense) (s : State) : Only [.flash, .emit] s (resensing die q (lunReset die s)) := by
  have reset : Only [.flash, .emit] s (lunReset die s) :=
    onfi_only _ _ _ _ (updDie_only _ _ _ (only_refl _ _) (by decide)) (by decide)
  exact updDie_only _ _ _ (updFlash_only _ _ (updChan_only _ _ _ (updDie_only _ _ _ reset (by decide)) (by decide))
    (by decide)) (by decide)

/-- A sensing that timed out is taken again, once. -/
theorem statusTimeout_senses {k : Class} (hd : dieAt s die = some d) (hk : classAt s d.cls = some k) (hu : d.inUse = true)
    (ht : timedOut s d k = true) (hb : BusFree s die) (ho : d.op = none) (hs : d.sensing = some q)
    (hf : flushing s = false) (hr : (s.flash.reads.any fun r => (r.senseOf q.id).isSome && !r.resensed) = true) :
    (∃ d', dieAt (statusTimeout die s) die = some d' ∧ d'.sensing = some { q with issued := s.frame.elapsed } ∧
      s.frame.elapsed ∈ d'.timeouts) ∧
    ∀ r ∈ (statusTimeout die s).flash.reads, (r.senseOf q.id).isSome = true → r.resensed = true := by
  have run := statusTimeout_resets hd hk hu ht hb.1
  have again : forEach d.sensing.toList (resense die) (lunReset die s) = resensing die q (lunReset die s) := by
    rw [hs]
    exact resense_first (s := lunReset die s) hr
  rw [again] at run
  generalize he : resensing die q (lunReset die s) = e at run
  have only : Only [.flash, .emit] s e := he ▸ resensing_only die q s
  have die_ : dieAt e die = some { timeoutNoted s.frame.elapsed d with sensing := none, queue := q :: d.queue } := by
    rw [← he]
    exact dieAt_updDie_self (dieAt_updDie_self (s := lunReset die s) (dieAt_lunReset hd))
  have freeE : BusFree e die := by
    rw [← he]
    exact busFree_updChan (s := lunReset die s) (fun _ _ h => (List.mem_filter.mp h).1) (fun _ _ h => h) hb
  have ended : opFails die e = dataDropped die e := (opFails_ends die_ freeE.2).1 ho
  rw [ended] at run
  obtain ⟨d', judged, sensing, queue, op, inUse, noted⟩ := judgeDie_keeps (s := dataDropped die e) (d := _) die_
  obtain ⟨reads, chans⟩ := judgeDie_flash die (dataDropped die e)
  have frame : (dataDropped die e).frame = s.frame := only.same .frame (by decide)
  have power : e.power = s.power := only.same .power (by decide)
  have judge : Only [.flash] (dataDropped die e) (judgeDie die (dataDropped die e)) :=
    judgeDie_only _ _ (only_refl _ _) (by decide)
  have time : (judgeDie die (dataDropped die e)).frame = s.frame := (judge.same .frame (by decide)).trans frame
  have flushes : flushing (judgeDie die (dataDropped die e)) = false := by
    unfold flushing
    rw [judge.same .power (by decide)]
    exact (congrArg (·.flush.isSome) power).trans hf
  have free := busFree_of_chans chans (busFree_updChan (f := fun c => { c with
    dataIns := c.dataIns.filter fun d => decide (d.die ≠ die) }) (fun _ _ h => h) (fun _ _ h => (List.mem_filter.mp h).1) freeE)
  have kicked := kickDie_starts judged sensing queue (fun o h => absurd ((op.symm.trans h).symm.trans ho) (by simp)) (inUse.trans hu) flushes
    free.1 free.2
  rw [run]
  refine ⟨⟨_, (dieAt_of_dies (congrArg FlashSt.dies kicked) die).trans (dieAt_started judged), ?_, ?_⟩, fun r hr => ?_⟩
  · rw [time]
    rfl
  · rw [← frame]
    exact noted (frame ▸ List.mem_cons_self)
  · rw [kicked] at hr
    have mem : r ∈ e.flash.reads := reads ▸ hr
    rw [← he] at mem
    obtain ⟨r', -, rfl⟩ := List.mem_map.mp mem
    exact RdOp.again_resensed q.id r'

/-! ### An operation that timed out -/

/-- A kicked die without an operation has none. -/
theorem kickDie_opless (hd : dieAt s die = some d) (ho : d.op = none) :
    ∃ d', dieAt (kickDie die s) die = some d' ∧ d'.op = none ∧ d'.timeouts = d.timeouts := by
  rcases kickDie_flash die s with h | ⟨q, rest, h⟩
  · exact ⟨d, (dieAt_of_dies (congrArg FlashSt.dies h) die).trans hd, ho, rfl⟩
  · exact ⟨_, (dieAt_of_dies (congrArg FlashSt.dies h) die).trans (dieAt_started hd), congrArg (Option.map _) ho, rfl⟩

/-- The die is judged and kicked: the media's part of the state is kept, and an ended operation stays ended. -/
theorem judgedKick_keeps (hd : dieAt s die = some d) (ho : d.op = none) (hc : s.frame.elapsed ∈ d.timeouts) :
    (kickDie die (judgeDie die s)).media = s.media ∧
      ∃ d', dieAt (kickDie die (judgeDie die s)) die = some d' ∧ d'.op = none ∧ s.frame.elapsed ∈ d'.timeouts := by
  obtain ⟨d1, judged, -, -, op, -, noted⟩ := judgeDie_keeps hd
  obtain ⟨d2, kicked, ended, kept⟩ := kickDie_opless judged (op.trans ho)
  have judge : Only [.flash] s (judgeDie die s) := judgeDie_only _ _ (only_refl _ _) (by decide)
  have kick : Only [.flash, .emit] (judgeDie die s) (kickDie die (judgeDie die s)) := kickDie_only _ _ (only_refl _ _) (by decide)
  exact ⟨(kick.same .media (by decide)).trans (judge.same .media (by decide)), d2, kicked, ended, kept ▸ noted hc⟩

/-- The state in which the operation of a LUN that timed out ends. -/
def opStopped (die : Nat) (s : State) : State :=
  updDie die (fun d => { d with op := none, ready := false }) (dataDropped die (lunReset die s))

theorem opStopped_only (die : Nat) (s : State) : Only [.flash, .emit] s (opStopped die s) :=
  updDie_only _ _ _ (updChan_only _ _ _ (onfi_only _ _ _ _ (updDie_only _ _ _ (only_refl _ _) (by decide)) (by decide))
    (by decide)) (by decide)

theorem dieAt_opStopped (hd : dieAt s die = some d) : dieAt (opStopped die s) die =
    some { timeoutNoted s.frame.elapsed d with op := none, ready := false } :=
  dieAt_updDie_self (s := dataDropped die (lunReset die s)) (dieAt_lunReset hd)

section stopped

variable {k : Class} {o : DieOp} (hd : dieAt s die = some d) (hk : classAt s d.cls = some k) (hu : d.inUse = true)
  (ht : timedOut s d k = true) (hb : BusFree s die) (ho : d.op = some o) (hs : d.sensing = none)
include hd hk hu ht hb ho hs

theorem statusTimeout_program {p : RowOp} (kind : o.kind = .program) (hp : rowOpAt s o.eg o.row = some p)
    (hl : (p.outstanding.filter fun i => decide (i ≠ o.member)) ≠ []) :
    (∃ d', dieAt (statusTimeout die s) die = some d' ∧ d'.op = none ∧ s.frame.elapsed ∈ d'.timeouts) ∧
      ∃ p', rowOpAt (statusTimeout die s) o.eg o.row = some p' ∧ p'.failed = true := by
  have run := statusTimeout_resets hd hk hu ht hb.1
  have ended := (opFails_ends (s := lunReset die s) (dieAt_lunReset hd) hb.2).2.1 o ho kind
  rw [hs] at run
  have media : (opStopped die s).media = s.media := (opStopped_only die s).same .media (by decide)
  have row : rowOpAt (opStopped die s) o.eg o.row = some p := by
    unfold rowOpAt
    rw [media]
    exact hp
  obtain ⟨flash, p', found, failed⟩ := programResult_waits row hl
  have elapsed : (programResult o.eg o.row o.member false (opStopped die s)).frame.elapsed = s.frame.elapsed := by
    obtain ⟨ties, h⟩ := (programResult_ticks o.eg o.row o.member false _ (sameFrame_refl (opStopped die s))).frame
    rw [h, (opStopped_only die s).same .frame (by decide)]
  obtain ⟨same, d', die_, op, noted⟩ := judgedKick_keeps (s := programResult o.eg o.row o.member false (opStopped die s))
    ((dieAt_of_dies (congrArg FlashSt.dies flash) die).trans (dieAt_opStopped hd)) rfl (elapsed ▸ List.mem_cons_self)
  rw [run.trans (congrArg (fun s => kickDie die (judgeDie die s)) ended)]
  refine ⟨⟨d', die_, op, elapsed ▸ noted⟩, p', ?_, failed⟩
  unfold rowOpAt at found ⊢
  exact (congrArg (fun m : MediaSt => m.rowOps.find? _) same).trans found

theorem statusTimeout_erase {g : Group} (kind : o.kind = .erase) (hg : groupAt s o.eg = some g) :
    (∃ d', dieAt (statusTimeout die s) die = some d' ∧ d'.op = none ∧ s.frame.elapsed ∈ d'.timeouts) ∧
      ∃ g', groupAt (statusTimeout die s) o.eg = some g' ∧ g'.retire = true := by
  have run := statusTimeout_resets hd hk hu ht hb.1
  have ended := (opFails_ends (s := lunReset die s) (dieAt_lunReset hd) hb.2).2.2 o ho kind
  rw [hs] at run
  have media : (opStopped die s).media = s.media := (opStopped_only die s).same .media (by decide)
  have group : groupAt (opStopped die s) o.eg = some g := by
    unfold groupAt
    rw [media]
    exact hg
  obtain ⟨⟨g', found, retired⟩, dies⟩ := eraseResult_retires (m := o.member) group
  have erased : Only [.media, .flash] (opStopped die s) (eraseResult o.eg o.member false (opStopped die s)) :=
    eraseResult_only _ _ _ _ (only_refl _ _) (by decide)
  have elapsed : (eraseResult o.eg o.member false (opStopped die s)).frame.elapsed = s.frame.elapsed := by
    rw [erased.same .frame (by decide), (opStopped_only die s).same .frame (by decide)]
  have same := dies die
  rw [dieAt_opStopped hd] at same
  obtain ⟨d1, die1, fields⟩ := Option.map_eq_some_iff.mp same
  obtain ⟨op1, timeouts1⟩ := Prod.mk.inj fields
  obtain ⟨kept, d', die_, op, noted⟩ := judgedKick_keeps die1 op1 (by
    rw [elapsed, timeouts1]
    exact List.mem_cons_self)
  rw [run.trans (congrArg (fun s => kickDie die (judgeDie die s)) ended)]
  refine ⟨⟨d', die_, op, elapsed ▸ noted⟩, g', ?_, retired⟩
  unfold groupAt at found ⊢
  exact (congrArg (fun m : MediaSt => tabGet m.groups o.eg) kept).trans found

end stopped

end Sys2Proof.Machine
end

section
/-! SUPPORT. Tracker windows, the saving of trackers, and the retraining of channels (R187, R188, R249 to R252, R277). -/

namespace Sys2Proof.Machine

variable {s t : State} {ch : Nat} {x : Chan}

/-! ### Trackers -/

theorem trackerWindowEnd_ends (hr : hallRuns s = true) (hw : s.flash.windowFrom + 65536 < s.frame.elapsed) :
    trackerWindowEnd s = updFlash (fun f => { f with
      windowFrom := s.flash.windowFrom + 65536 * ((s.frame.elapsed - 1 - s.flash.windowFrom) / 65536)
      dies := tabMap (fun _ d => judgeWindow d) f.dies }) s := by
  have due : fired s.flash.windowFrom 65536 (clk s) = true := fired_of_lt hw
  unfold trackerWindowEnd
  simp only [hr, due, Bool.not_true, Bool.false_eq_true, or_self, if_false]
  rfl

/-- The trackers as they are saved. -/
def savedTrackers (t : Tab Trk) : Tab Trk := tabMap (fun _ x => { x with changed := false }) t

theorem trackerSave_saves {die price : Nat} (hb : booted s = true) (hf : flushing s = false)
    (hl : s.flash.lastSave + 2 ^ 28 ≤ s.frame.elapsed) (hp : savePayer s = some (die, price)) : trackerSave s =
      updDie die (fun d => { d with gc := d.gc - price }) (updFlash (fun f => { f with
        lastSave := s.frame.elapsed, trackers := savedTrackers f.trackers, standing := savedTrackers f.standing
        savedTrk := savedTrackers f.trackers, savedStanding := savedTrackers f.standing }) s) := by
  have due : ¬clk s < s.flash.lastSave + 2 ^ 28 := Nat.not_lt.mpr hl
  unfold trackerSave
  simp only [hb, hf, due, hp, Bool.not_true, Bool.false_eq_true, or_self, if_false]
  rfl

/-! ### A retraining begins -/

theorem channelRetrain_idle {drift : Bool} (good : Bool) (hx : chanAt s ch = some x) (hr : hallRuns s = true)
    (hf : x.failed = false) (ht : x.trained = true) (hn : x.retrain = none) : channelRetrain ch drift good s =
      when (retrainDue s ch x drift) (updChan ch fun y => { y with retrain := some (Retrain.first s.frame.elapsed
        (decide (x.step ≠ x.cfgStep) && decide (x.lastTrain + 2 ^ 30 ≤ s.frame.elapsed))) }) s := by
  unfold channelRetrain
  simp only [hx, hr, hf, ht, hn, Bool.not_true, Bool.false_eq_true, or_self, if_false]
  rfl

theorem channelRetrain_target {r : Retrain} (drift good : Bool) (hx : chanAt s ch = some x) (hr : hallRuns s = true)
    (hf : x.failed = false) (ht : x.trained = true) (hn : x.retrain = some r) :
    channelRetrain ch drift good s = retrainTarget ch x r good s := by
  unfold channelRetrain
  simp only [hx, hr, hf, ht, hn, Bool.not_true, Bool.false_eq_true, or_self, if_false]

/-! ### A target that has been trained -/

/-- What training has set for a target is kept with its channel. -/
def targetTuned (ch : Nat) (r : Retrain) (s : State) : State :=
  updChan ch (fun x => { x with tuned := x.tuned.set r.target (Config.phySetting (flashSeed (drawNat s).2 ch) (drawNat s).1) })
    (drawNat s).2

theorem retrainTarget_good {r : Retrain} (hw : r.windows ≠ 0) : retrainTarget ch x r true s =
    if r.target + 1 < x.targets then
      updChan ch (fun x => { x with retrain := some { r with target := r.target + 1, windows := 0 } }) (targetTuned ch r s)
    else retrainPassed ch x r.upward (targetTuned ch r s) := by
  unfold retrainTarget
  rw [if_neg hw]
  rfl

theorem chanAt_targetTuned (r : Retrain) (hx : chanAt s ch = some x) : ∃ y, chanAt (targetTuned ch r s) ch = some y ∧
    y.step = x.step ∧ y.cfgStep = x.cfgStep :=
  ⟨_, chanAt_updChan _ (show chanAt (drawNat s).2 ch = some x from hx), rfl, rfl⟩

theorem chanAt_retrainPassed (up : Bool) {y : Chan} (hy : chanAt s ch = some y) : chanAt (retrainPassed ch x up s) ch =
    some { y.trainedAt s.frame.elapsed (regionTemp s ch) with step := if up then y.cfgStep else y.step, fails := 0 } := by
  have trained := chanAt_updChan (fun x => { x.trainedAt (clk s) (regionTemp s ch) with
    step := if up then x.cfgStep else x.step, fails := 0 }) hy
  unfold retrainPassed when
  dsimp only
  split <;> exact trained

/-! ### A target that cannot be trained -/

theorem retrainTarget_bad {r : Retrain} (hw : r.windows ≠ 0) :
    retrainTarget ch x r false s = retrainFailed ch x r.upward s := by
  unfold retrainTarget
  rw [if_neg hw]
  rfl

theorem retrainFailed_upward : retrainFailed ch x true s =
    updChan ch (fun x => { x.trainedAt s.frame.elapsed (regionTemp s ch) with fails := 0 }) s := rfl

theorem retrainFailed_first (h : x.fails = 0) : retrainFailed ch x false s =
    updChan ch (fun x => { x with fails := 1, retrain := some (Retrain.first s.frame.elapsed false) }) s :=
  if_pos h

/-- The channel a step down leaves. -/
def steppedDown (ch : Nat) (s : State) : State :=
  recEvent 0x0E (markChannel ch .slowRate (fun d => decide (d.mark ≠ .slowRate)) (updChan ch (fun y => { y.restartData with
    step := y.step + 1, fails := 0, retrain := some (Retrain.first s.frame.elapsed false) }) s))

theorem retrainFailed_steps (h : x.fails ≠ 0) (h7 : x.step < 7) : retrainFailed ch x false s = steppedDown ch s := by
  unfold retrainFailed
  simp only [Bool.false_eq_true, if_false, h, h7, if_true]
  rfl

theorem retrainFailed_last (h : x.fails ≠ 0) (h7 : 7 ≤ x.step) : retrainFailed ch x false s =
    markChannel ch .retired (fun _ => true) (updChan ch (fun x => { x with failed := true, retrain := none }) s) := by
  unfold retrainFailed
  simp only [Bool.false_eq_true, if_false, h, Nat.not_lt.mpr h7]

theorem tabGet_tabMap {α : Type} (f : Nat → α → α) (t : Tab α) (k : Nat) : tabGet (tabMap f t) k = (tabGet t k).map (f k) := by
  induction t with
  | nil => rfl
  | cons p t ih =>
    obtain ⟨j, a⟩ := p
    unfold tabMap at ih ⊢
    rw [List.map_cons]
    by_cases h : j = k
    · subst h
      simp [tabGet]
    · simp [tabGet, h, ih]

theorem dieAt_markChannel (m : DieMark) (ok : Die → Bool) (die : Nat) (s : State) :
    dieAt (markChannel ch m ok s) die = (dieAt s die).map fun x =>
      if channelOf die = ch ∧ x.inUse = true ∧ x.due ≠ some .retired ∧ ok x = true then { x with due := some m } else x := by
  unfold dieAt markChannel updFlash
  rw [tabGet_tabMap]

theorem steppedDown_flash (ch : Nat) (s : State) : (steppedDown ch s).flash =
    (markChannel ch .slowRate (fun d => decide (d.mark ≠ .slowRate)) (updChan ch (fun y => { y.restartData with
      step := y.step + 1, fails := 0, retrain := some (Retrain.first s.frame.elapsed false) }) s)).flash :=
  (recEvent_only (ps := [.recd]) _ _ (only_refl _ _) (by decide)).same .flash (by decide)

theorem steppedDown_chan (hx : chanAt s ch = some x) : ∃ y, chanAt (steppedDown ch s) ch = some y ∧ y.step = x.step + 1 ∧
    y.fails = 0 ∧ y.retrain = some (Retrain.first s.frame.elapsed false) ∧ ∀ d ∈ y.dataIns, d.moved = 0 ∧ d.part = 0 := by
  have chans := congrArg FlashSt.chans (steppedDown_flash ch s)
  have chan := chanAt_updChan (fun y => { y.restartData with
    step := y.step + 1, fails := 0, retrain := some (Retrain.first s.frame.elapsed false) }) hx
  unfold chanAt at chan ⊢
  refine ⟨_, (congrArg (fun t => tabGet t ch) chans).trans chan, rfl, rfl, rfl, fun d hd => ?_⟩
  obtain ⟨d', -, rfl⟩ := List.mem_map.mp hd
  exact ⟨rfl, rfl⟩

/-- A die in use of a channel, not due for retirement, takes the mark. -/
theorem markChannel_marks {m : DieMark} {ok : Die → Bool} {die : Nat} {d : Die} (hd : dieAt s die = some d)
    (hc : channelOf die = ch) (hi : d.inUse = true) (hu : d.due ≠ some .retired) (hm : ok d = true) :
    dieAt (markChannel ch m ok s) die = some { d with due := some m } := by
  rw [dieAt_markChannel, hd, Option.map_some, if_pos ⟨hc, hi, hu, hm⟩]

/-- Every die in use of a channel that fails is due for retirement. -/
theorem markChannel_retires {die : Nat} {d : Die} (hd : dieAt s die = some d) (hc : channelOf die = ch) (hi : d.inUse = true) :
    ∃ d', dieAt (markChannel ch .retired (fun _ => true) s) die = some d' ∧ d'.due = some .retired := by
  by_cases hu : d.due = some .retired
  · refine ⟨d, ?_, hu⟩
    rw [dieAt_markChannel, hd, Option.map_some, if_neg fun ⟨_, _, h, _⟩ => h hu]
  · exact ⟨_, markChannel_marks hd hc hi hu rfl, rfl⟩

/-! ### A die reports -/

section dies

variable {die : Nat} {d : Die} {k : Class} {q : Sense}

theorem statusPoll_due (ready : Bool) (hd : dieAt s die = some d) (hp : pollDue s d = true) :
    statusPoll die ready s = updDie die (fun d => { d with ready := ready }) s := by
  unfold statusPoll
  simp only [hd]
  exact when_of hp _ _

section ended

variable (hd : dieAt s die = some d) (hk : classAt s d.cls = some k) (hs : d.sensing = some q) (hr : d.ready = true)
include hd hk hs hr

theorem senseComplete_rRead : ∃ d', dieAt (senseComplete die s) die = some d' ∧
    d'.rRead = d.rRead.add k.tR (s.frame.elapsed - q.issued) := by
  have kept := beginXfer_map Die.rRead (fun _ _ => rfl) (fun _ _ _ => rfl) (fun _ _ => rfl) die q die (senseMeasured die k q s)
  rw [dieAt_senseMeasured hd] at kept
  rw [senseComplete_measures hd hk hs hr]
  exact Option.map_eq_some_iff.mp kept

theorem senseComplete_unwanted (hw : wantedSlots s q.id = []) (hq : d.queue = []) :
    senseComplete die s = senseMeasured die k q s := by
  rw [senseComplete_measures hd hk hs hr, beginXfer_unwanted (s := senseMeasured die k q s) hw]
  exact kickDie_idle (dieAt_senseMeasured hd) hq

theorem senseComplete_waits (hw : wantedSlots s q.id ≠ []) : senseComplete die s = runBus (channelOf die) Chan.runXfers
    (updChan (channelOf die) (fun c => { c with xfers := addXfer (pageXfer die k q s) c.xfers }) (senseMeasured die k q s)) := by
  have cls : dieClass (senseMeasured die k q s) die = some k := by
    unfold dieClass
    rw [dieAt_senseMeasured hd]
    exact hk
  rw [senseComplete_measures hd hk hs hr, beginXfer_waits cls hw]
  rfl

end ended

/-- The die of a sensing that has been measured and waits for a busy bus. -/
theorem senseComplete_busy {c : Chan} (hd : dieAt s die = some d) (hk : classAt s d.cls = some k) (hs : d.sensing = some q)
    (hr : d.ready = true) (hc : chanAt s (channelOf die) = some c) (hw : wantedSlots s q.id ≠ [])
    (hb : c.retraining = true ∨ c.busLeft = 0) : (senseComplete die s).flash.reads = s.flash.reads ∧
      chanAt (senseComplete die s) (channelOf die) = some { c with xfers := addXfer (pageXfer die k q s) c.xfers } ∧
      ∃ d', dieAt (senseComplete die s) die = some d' ∧ d'.sensing = none := by
  have chan : chanAt (updChan (channelOf die) (fun c => { c with xfers := addXfer (pageXfer die k q s) c.xfers })
      (senseMeasured die k q s)) (channelOf die) = some { c with xfers := addXfer (pageXfer die k q s) c.xfers } :=
    chanAt_updChan (s := senseMeasured die k q s) (fun c => { c with xfers := addXfer (pageXfer die k q s) c.xfers }) hc
  rw [senseComplete_waits hd hk hs hr hw, runBus_busy chan hb]
  exact ⟨rfl, chanAt_updChan _ chan, _, dieAt_senseMeasured hd, rfl⟩

theorem senseComplete_single {c : Chan} {u : Nat} (hd : dieAt s die = some d) (hk : classAt s d.cls = some k)
    (hs : d.sensing = some q) (hr : d.ready = true) (hc : chanAt s (channelOf die) = some c) (hw : wantedSlots s q.id = [u])
    (ht : c.retraining = false) (hx : c.xfers = []) (hi : c.dataIns = []) (hl : codeSize (groupRate s q.eg) ≤ c.busLeft) :
    (senseComplete die s).flash.reads = s.flash.reads.map (RdOp.take q.id u) ∧
      chanAt (senseComplete die s) (channelOf die) = some { c with busLeft := c.busLeft - codeSize (groupRate s q.eg) } := by
  have chan := chanAt_updChan (s := senseMeasured die k q s)
    (fun c => { c with xfers := addXfer (pageXfer die k q s) c.xfers }) hc
  have one : addXfer (pageXfer die k q s) c.xfers = [pageXfer die k q s] := by rw [hx]; rfl
  have some_ : 0 < codeSize (groupRate s q.eg) := by
    unfold codeSize
    (repeat' split) <;> decide
  obtain ⟨reads, bus⟩ := runBus_single (u := u) chan ht one hi hw some_ hl
  rw [senseComplete_waits hd hk hs hr (by rw [hw]; exact List.cons_ne_nil _ _)]
  refine ⟨reads, bus.trans (congrArg some ?_)⟩
  rw [← hx]
  rfl

/-- A suspend is acknowledged; with a sensing queued and the bus free it starts. -/
theorem suspendAck_acknowledges {o : DieOp} (hd : dieAt s die = some d) (hk : classAt s d.cls = some k) (ho : d.op = some o)
    (hp : o.suspPending = true) : ∃ d' o', dieAt (suspendAck die s) die = some d' ∧ d'.op = some o' ∧ o'.suspended = true ∧
      o'.suspPending = false ∧ o'.susps = o.susps + 1 ∧
      d'.limitHits = d.limitHits + flag (decide (o.susps + 1 = if o.kind = .program then k.suspProg else k.suspErase)) 1 ∧
      ∀ q rest, d.sensing = none → d.queue = q :: rest → d.inUse = true → flushing s = false → BusFree s die →
        d'.sensing = some { q with issued := s.frame.elapsed } ∧ d'.queue = rest ∧ o'.senses = 1 := by
  have only := opHeld_only (s := s) (die := die) k o
  have flash : (opHeld die k o s).flash = (updDie die (heldOp k o) s).flash := only.same .flash (by decide)
  have frame : (opHeld die k o s).frame = s.frame := only.same .frame (by decide)
  have power : (opHeld die k o s).power = s.power := only.same .power (by decide)
  have held : dieAt (opHeld die k o s) die = some (heldOp k o d) :=
    (dieAt_of_dies (congrArg FlashSt.dies flash) die).trans (dieAt_updDie_self hd)
  rw [suspendAck_holds hd hk ho hp]
  by_cases next : ∃ q rest, d.sensing = none ∧ d.queue = q :: rest ∧ d.inUse = true ∧ flushing s = false ∧ BusFree s die
  · obtain ⟨q, rest, hs, hq, hu, hf, hb⟩ := next
    have free : BusFree (opHeld die k o s) die := busFree_of_chans (congrArg FlashSt.chans flash) hb
    have flushes : flushing (opHeld die k o s) = false := by
      unfold flushing
      rw [power]
      exact hf
    have kicked := kickDie_starts held hs hq (fun o' h => by cases h; exact ⟨rfl, Nat.succ_pos 3⟩) hu flushes free.1 free.2
    refine ⟨_, _, (dieAt_of_dies (congrArg FlashSt.dies kicked) die).trans (dieAt_started held), rfl, rfl, rfl, rfl, rfl,
      fun q' rest' _ hq' _ _ _ => ?_⟩
    rw [hq] at hq'
    cases hq'
    rw [frame]
    exact ⟨rfl, rfl, rfl⟩
  · obtain ⟨d', o', die_, op, suspended, pending, susps, hits⟩ := kickDie_op held rfl
    refine ⟨d', o', die_, op, suspended, pending, susps, hits, fun q rest hs hq hu hf hb => ?_⟩
    exact absurd ⟨q, rest, hs, hq, hu, hf, hb⟩ next

end dies

/-! ### The statement -/

/-- Settles O54: each report of a die is written to it, and what follows is a sensing of its queue or the bus of its
channel; the trackers, and the retraining of a channel, are one write each. -/
theorem diesReport : Obligations.DiesReport := by
  unfold Obligations.DiesReport
  refine fun s => ⟨fun die d k hd hk => ⟨fun ready hp => ?_, fun q hs hr => ⟨?_, fun hw hq => ?_, fun c hc hw hb => ?_,
      fun c u hc hw hr' hx hi hl => ?_⟩, fun o ho hp => ?_, fun hu ht hx hi => ⟨fun q ho hs hf hr => ?_, fun o ho hs h => ?_⟩⟩,
    fun hr hw => ?_, fun die d price hb hf hl hp hd => ?_, fun ch x drift good hx hr hf ht => ⟨fun hn hd => ?_, fun hn hd => ?_,
      fun r hn hw => ⟨fun hg hl => ?_, fun hg hl => ?_, fun hg hu => ?_, fun hg hu h0 => ?_, fun hg hu h0 h7 => ?_,
        fun hg hu h0 h7 => ?_⟩⟩⟩
  · have e := statusPoll_due (s := { s with emit := [] }) ready hd hp
    refine act_does rfl (e ▸ ⟨dieAt_updDie_self hd, ?_⟩)
    exact updDie_only _ _ _ ((emptied_only s).mono (by decide)) (by decide)
  · exact act_does rfl (senseComplete_rRead (s := { s with emit := [] }) hd hk hs hr)
  · have e := senseComplete_unwanted (s := { s with emit := [] }) hd hk hs hr hw hq
    exact act_does rfl (e ▸ ⟨rfl, _, dieAt_senseMeasured hd, rfl⟩)
  · exact act_does rfl (senseComplete_busy (s := { s with emit := [] }) hd hk hs hr hc hw hb)
  · exact act_does rfl (senseComplete_single (s := { s with emit := [] }) hd hk hs hr hc hw hr' hx hi hl)
  · obtain ⟨d', o', die_, op, suspended, pending, susps, hits, next⟩ :=
      suspendAck_acknowledges (s := { s with emit := [] }) hd hk ho hp
    exact act_does rfl ⟨d', o', die_, op, suspended, pending, susps, hits,
      fun q rest hs hq hu hf hx hi => next q rest hs hq hu hf ⟨hx, hi⟩⟩
  · exact act_does rfl (statusTimeout_senses (s := { s with emit := [] }) hd hk hu ht ⟨hx, hi⟩ ho hs hf hr)
  · rcases h with ⟨g, kind, hg⟩ | ⟨p, kind, hp, hl⟩
    · obtain ⟨die_, g', group, retired⟩ := statusTimeout_erase (s := { s with emit := [] }) hd hk hu ht ⟨hx, hi⟩ ho hs kind hg
      exact act_does rfl ⟨die_, fun _ _ _ => ⟨g', group, retired⟩, fun p hp => absurd (kind.symm.trans hp) (by decide)⟩
    · obtain ⟨die_, p', row, failed⟩ :=
        statusTimeout_program (s := { s with emit := [] }) hd hk hu ht ⟨hx, hi⟩ ho hs kind hp hl
      exact act_does rfl ⟨die_, fun g hg => absurd (kind.symm.trans hg) (by decide), fun _ _ _ => ⟨p', row, failed⟩⟩
  · exact congrArg Host.Outcome.next (trackerWindowEnd_ends (s := { s with emit := [] }) hr hw)
  · have e := trackerSave_saves (s := { s with emit := [] }) hb hf hl hp
    refine act_does rfl (e ▸ ⟨rfl, rfl, rfl, rfl, ?_, ?_⟩)
    · exact dieAt_updDie_self (s := updFlash _ { s with emit := [] }) hd
    · exact updDie_only _ _ _ (updFlash_only _ _ ((emptied_only s).mono (by decide)) (by decide)) (by decide)
  · have e := (channelRetrain_idle (s := { s with emit := [] }) good hx hr hf ht hn).trans (when_of hd _ _)
    refine act_does rfl (e ▸ ⟨chanAt_updChan _ hx, ?_⟩)
    exact updChan_only _ _ _ ((emptied_only s).mono (by decide)) (by decide)
  · exact congrArg Host.Outcome.next
      ((channelRetrain_idle (s := { s with emit := [] }) (drift := drift) good hx hr hf ht hn).trans (when_not hd _ _))
  all_goals
    have e := channelRetrain_target (s := { s with emit := [] }) drift good hx hr hf ht hn
    subst hg
  · obtain ⟨y, tuned, step, -⟩ := chanAt_targetTuned (s := { s with emit := [] }) r hx
    have run := e.trans ((retrainTarget_good hw).trans (if_pos hl))
    exact act_does rfl (run ▸ ⟨_, chanAt_updChan _ tuned, rfl, step⟩)
  · obtain ⟨y, tuned, step, cfg⟩ := chanAt_targetTuned (s := { s with emit := [] }) r hx
    have run := e.trans ((retrainTarget_good hw).trans (if_neg (Nat.not_lt.mpr hl)))
    refine act_does rfl (run ▸ ⟨_, chanAt_retrainPassed r.upward tuned, rfl, rfl, rfl, rfl, rfl, ?_⟩)
    rw [step, cfg]
  · have run := e.trans (retrainTarget_bad hw)
    rw [hu, retrainFailed_upward] at run
    refine act_does rfl (run ▸ ⟨chanAt_updChan _ hx, ?_⟩)
    exact updChan_only _ _ _ ((emptied_only s).mono (by decide)) (by decide)
  · have run := e.trans (retrainTarget_bad hw)
    rw [hu, retrainFailed_first h0] at run
    refine act_does rfl (run ▸ ⟨chanAt_updChan _ hx, ?_⟩)
    exact updChan_only _ _ _ ((emptied_only s).mono (by decide)) (by decide)
  · have run := e.trans (retrainTarget_bad hw)
    rw [hu, retrainFailed_steps h0 h7] at run
    obtain ⟨y, chan, step, fails, retrain, data⟩ := steppedDown_chan (s := { s with emit := [] }) hx
    refine act_does rfl (run ▸ ⟨⟨y, chan, step, fails, retrain, data⟩, fun die d hd hc hi hdue hm => ?_⟩)
    have marked := markChannel_marks (m := .slowRate) (s := updChan ch (fun y => { y.restartData with
      step := y.step + 1, fails := 0, retrain := some (Retrain.first s.frame.elapsed false) }) { s with emit := [] })
      (ok := fun d => decide (d.mark ≠ .slowRate)) hd hc hi hdue (decide_eq_true hm)
    exact ⟨_, (dieAt_of_dies (congrArg FlashSt.dies (steppedDown_flash ch { s with emit := [] })) die).trans marked, rfl⟩
  · have run := e.trans (retrainTarget_bad hw)
    rw [hu, retrainFailed_last h0 h7] at run
    refine act_does rfl (run ▸ ⟨chanAt_updChan _ hx, fun die d hd hc hi => ?_⟩)
    exact markChannel_retires (s := updChan ch _ { s with emit := [] }) hd hc hi

end Sys2Proof.Machine
end

section
/-! SUPPORT. Writes that start, at once or after their wait (R113, R141, R142, R144, R153, R154, R220, R448). -/

namespace Sys2Proof.Machine

variable {s t u v : State} {id : CmdId} {it : Item} {x z : Nat} {n : Ns} {r : Zone}

/-! ### What a start makes of the command's item -/

/-- What the start of a write on `cnt` units from `u` on makes of its item. -/
def SetsOff (f : Item → Item) (ph : Phase) (u cnt : Nat) : Prop :=
  ∀ i, (f i).id = i.id ∧ (f i).seq = i.seq ∧ (f i).sqe = i.sqe ∧ (f i).outcome = i.outcome ∧ (f i).phase = ph ∧
    (f i).unit = u ∧ (f i).count = cnt

/-- Item `seq` has started; `k` conventional writes have taken their number. -/
structure Begun (w t : State) (seq : Nat) (ph : Phase) (u cnt k : Nat) : Prop where
  items : ∃ f, SetsOff f ph u cnt ∧ t.host.items = (updItem seq f w).host.items
  ctls : t.host.ctls = w.host.ctls
  next : t.host.nextStart = w.host.nextStart + k

section Begun

variable {w : State} {seq a cnt k : Nat} {ph : Phase}

theorem Begun.of_host (b : Begun w t seq ph a cnt k) (h : v.host = t.host) : Begun w v seq ph a cnt k := by
  obtain ⟨items, ctls, next⟩ := b
  exact ⟨h ▸ items, h ▸ ctls, h ▸ next⟩

theorem Begun.starts {i : Item} (b : Begun w t it.seq ph a cnt k) (hi : itemBySeq w it.seq = some i) (hd : i.id = it.id)
    (he : i.sqe = it.sqe) (ho : i.outcome = it.outcome) (hc : w.host.ctls = s.host.ctls) : Starts s t it ph a cnt := by
  obtain ⟨f, sets, items⟩ := b.items
  obtain ⟨id_, -, sqe, outcome, rest⟩ := sets i
  refine ⟨⟨f i, ?_, rest.1, id_.trans hd, sqe.trans he, outcome.trans ho, rest.2⟩, b.ctls.trans hc⟩
  exact (itemBySeq_of_items items _).trans (itemBySeq_updItem (fun i => (sets i).2.1) hi)

/-- The command of an item that has started is not waiting any more. -/
theorem Begun.found (b : Begun w t it.seq ph a cnt k) (hi : findItem w id = some it) :
    ∃ i, findItem t id = some i ∧ i.phase = ph := by
  obtain ⟨f, sets, items⟩ := b.items
  obtain ⟨-, -, -, -, phase, -⟩ := sets it
  refine ⟨f it, ?_, phase⟩
  unfold findItem at hi ⊢
  rw [items]
  unfold updItem updItems
  have same : (fun i : Item => decide (i.id = id)) ∘ (fun i => if i.seq = it.seq then f i else i) =
      fun i => decide (i.id = id) := by
    funext i
    by_cases e : i.seq = it.seq
    · simp only [Function.comp, e, if_true, (sets i).1]
    · simp only [Function.comp, e, if_false]
  rw [List.find?_map, same, hi, Option.map_some, if_pos rfl]

theorem updItem_items (m : Nat) (g : Item → Item) (h : t.host.items = s.host.items) :
    (updItem m g t).host.items = (updItem m g s).host.items := by
  unfold updItem updItems
  dsimp only
  rw [h]

theorem updItem_host (m : Nat) (g : Item → Item) (h : t.host = s.host) : (updItem m g t).host = (updItem m g s).host := by
  unfold updItem updItems
  rw [h]

theorem updItem_updItem {f g : Item → Item} (hf : ∀ i, (f i).seq = i.seq) (m : Nat) (s : State) :
    (updItem m g (updItem m f s)).host.items = (updItem m (g ∘ f) s).host.items := by
  unfold updItem updItems
  dsimp only
  rw [List.map_map]
  refine List.map_congr_left fun i _ => ?_
  by_cases e : i.seq = m
  · simp only [Function.comp, e, if_true, hf]
  · simp only [Function.comp, e, if_false]

/-- The item of a Write Zeroes that has landed. -/
def zeroed (first cnt : Nat) (i : Item) : Item := { i with doneUnits := List.range' first cnt, phase := .done }

theorem landZeros_host (x : Nat) (n : Ns) (it : Item) (first cnt : Nat) (s : State) :
    (landZeros x n it first cnt s).host = (updItem it.seq (zeroed first cnt) s).host := by
  unfold landZeros
  extract_lets _ _ _ a b c
  have landed : Only [.media] s a := only_forEach _ _ _ (only_refl _ _) fun _ _ h => land_only _ _ _ _ _ _ _ h (by decide)
  have metered : Only [.media, .inst] s c :=
    meter_only _ _ _ (countLanded_only _ _ _ (landed.mono (by decide)) (by decide)) (by decide)
  exact updItem_host _ _ (metered.same .host (by decide))

theorem Begun.landZeros (b : Begun w t it.seq ph a cnt k) (x : Nat) (n : Ns) (first m : Nat) :
    Begun w (landZeros x n it first m t) it.seq .done a cnt k := by
  obtain ⟨⟨f, sets, items⟩, ctls, next⟩ := b
  have host := landZeros_host x n it first m t
  refine ⟨⟨zeroed first m ∘ f, fun i => ?_, ?_⟩, (congrArg HostSt.ctls host).trans ctls,
    (congrArg HostSt.nextStart host).trans next⟩
  · obtain ⟨id_, seq, sqe, outcome, -, rest⟩ := sets i
    exact ⟨id_, seq, sqe, outcome, rfl, rest⟩
  · refine Eq.trans ?_ (updItem_updItem (fun i => (sets i).2.1) it.seq w)
    exact (congrArg HostSt.items host).trans (updItem_items _ _ items)

end Begun

/-! ### The zone -/

theorem zoneAt_setZone (z : Nat) (r : Zone) (s : State) : zoneAt (setZone z r s) z = some r := by
  unfold zoneAt setZone updZone
  simp only [tabGet_set_self]

theorem zoneAt_of_zone (h : t.zone = s.zone) (z : Nat) : zoneAt t z = zoneAt s z := by
  unfold zoneAt
  rw [h]

theorem zoneAt_updZoneRec (f : Zone → Zone) (h : zoneAt s z = some r) : zoneAt (updZoneRec z f s) z = some (f r) := by
  unfold updZoneRec
  simp only [h]
  exact zoneAt_setZone _ _ _

/-- What a claim leaves of a zone's record: its pointers, its state and what it is bound to. -/
def zoneCore (r : Zone) : Nat × Nat × ZState × Option (Nat × Nat) := (r.ap, r.wp, r.st, r.bind)

theorem claimRow_core {k : Nat} {cont : Bool} (h : claimRow z k n cont s = some t) (hz : zoneAt s z = some r) :
    ∃ q, zoneAt t z = some q ∧ zoneCore q = zoneCore r := by
  have taken : ∀ eg v, v.zone = s.zone → ∃ q, zoneAt (updZoneRec z (fun r => { r with
      curGroup := some eg, claims := tabSet r.claims k eg }) (reserveRow eg v)) z = some q ∧ zoneCore q = zoneCore r :=
    fun eg v e => ⟨_, zoneAt_updZoneRec _ ((zoneAt_of_zone (t := reserveRow eg v) e z).trans hz), rfl⟩
  unfold claimRow at h
  simp only [hz] at h
  split at h
  case isTrue => cases h
  case isFalse =>
    split at h
    case h_1 => cases h; exact taken _ s rfl
    case h_2 =>
      split at h
      case h_1 chosen =>
        cases h
        exact taken _ _ ((chooseGroup_only2 _ _ (only_refl [.media] s) (by decide) chosen).same .zone (by decide))
      case h_2 => cases h

theorem claimRows_core {l : List Nat} (h : claimRows z n l s = some t) (hz : zoneAt s z = some r) :
    ∃ q, zoneAt t z = some q ∧ zoneCore q = zoneCore r := by
  induction l generalizing s r with
  | nil => cases h; exact ⟨r, hz, rfl⟩
  | cons k l ih =>
    unfold claimRows at h
    simp only [hz] at h
    split at h
    · exact ih h hz
    · split at h
      case h_1 claimed =>
        obtain ⟨q, hq, core⟩ := claimRow_core claimed hz
        obtain ⟨p, hp, again⟩ := ih h hq
        exact ⟨p, hp, again.trans core⟩
      case h_2 => cases h

/-! ### A zone write starts -/

/-- The item of a zone write that starts. -/
def zoneWriting (n : Ns) (r : Zone) (it : Item) (rec : Option Nat) (i : Item) : Item :=
  { i with phase := .started, hold := .none, unit := r.idx * zoneUnits n + r.ap, count := it.sqe.nlb, waitRec := rec }

theorem openForWrite_begun (z : Nat) (it : Item) (n : Ns) (r : Zone) (s : State) :
    Begun s (openForWrite z it n r s) it.seq .started (r.idx * zoneUnits n + r.ap) it.sqe.nlb 0 := by
  unfold openForWrite
  extract_lets opens r1 s1 s2
  have told : Only [.media] s2 (when opens (tell z r.st r.fzr) s2) :=
    only_when _ _ (only_refl _ _) fun _ h => tell_only _ _ _ _ h (by decide)
  have here : Begun s s2 it.seq .started (r.idx * zoneUnits n + r.ap) it.sqe.nlb 0 :=
    ⟨⟨zoneWriting n r it _, fun _ => ⟨rfl, rfl, rfl, rfl, rfl, rfl, rfl⟩, rfl⟩, rfl, rfl⟩
  exact here.of_host (told.same .host (by decide))

theorem firstWrite_core (s : State) (n : Ns) (h : Nat) (r : Zone) :
    zoneCore (firstWrite s n h r) = (r.ap, r.wp, r.st, some (r.bind.getD (handleLc h, handlePg h))) := by
  unfold firstWrite
  dsimp only
  split <;> rfl

/-- The record of a zone once a write of `it` has started in it. -/
def writtenCore (it : Item) (r : Zone) : Nat × Nat × ZState × Option (Nat × Nat) :=
  (r.ap + it.sqe.nlb, r.wp, if r.st = .empty ∨ r.st = .closed then .implicit else r.st,
    some (r.bind.getD (handleLc it.sqe.handle, handlePg it.sqe.handle)))

theorem openForWrite_core (z : Nat) (it : Item) (n : Ns) (r : Zone) (s : State) :
    ∃ q, zoneAt (openForWrite z it n r s) z = some q ∧ zoneCore q = writtenCore it r := by
  unfold openForWrite
  extract_lets opens r1 s1 s2
  have told : Only [.media] s2 (when opens (tell z r.st r.fzr) s2) :=
    only_when _ _ (only_refl _ _) fun _ h => tell_only _ _ _ _ h (by decide)
  refine ⟨_, (zoneAt_of_zone (told.same .zone (by decide)) z).trans (zoneAt_setZone z _ s), ?_⟩
  have opened : opens = decide (r.st = .empty ∨ r.st = .closed) := (Bool.decide_or _ _).symm
  obtain ⟨-, core⟩ := Prod.mk.inj (firstWrite_core s n it.sqe.handle r)
  obtain ⟨wp, core⟩ := Prod.mk.inj core
  obtain ⟨-, bind⟩ := Prod.mk.inj core
  have state : (if opens = true then ZState.implicit else r.st) = if r.st = .empty ∨ r.st = .closed then .implicit else r.st := by
    rw [opened]
    simp only [decide_eq_true_eq]
  exact Prod.ext rfl (Prod.ext wp (Prod.ext state bind))

theorem tryZoned_starts (h : ZoneTakes s it n z r) (x : Nat) : ∃ v,
    claimRows z n (rowsOf n r.ap it.sqe.nlb) (openForWrite z it n r s) = some v ∧
    tryZoned z x n it s = if it.opc = 0x08 then landZeros x n it (r.idx * zoneUnits n + r.ap) it.sqe.nlb v else v := by
  obtain ⟨v, claimed⟩ := Option.ne_none_iff_exists'.mp h.rows
  refine ⟨v, claimed, ?_⟩
  have now_ : tryZoned z x n it s = startZoned z x n it s := by
    unfold tryZoned
    simp only [h.zone, h.order, h.turn, h.room, Bool.not_true, Bool.false_eq_true, or_self, if_false]
    rcases hd : r.drain with - | d
    · simp only [Bool.false_eq_true, if_false]
    · simp only [decide_eq_true_eq, Nat.not_le.mpr (h.drained d hd), if_false]
  rw [now_]
  unfold startZoned
  simp only [h.zone, h.writable, h.checks, h.unblocked, claimed, Bool.false_eq_true, if_false]

theorem tryZoned_begun (h : ZoneTakes s it n z r) (x : Nat) :
    Begun s (tryZoned z x n it s) it.seq (if it.opc = 0x08 then .done else .started) (r.idx * zoneUnits n + r.ap)
      it.sqe.nlb 0 ∧
    ∃ q, zoneAt (tryZoned z x n it s) z = some q ∧ zoneCore q = writtenCore it r := by
  obtain ⟨v, claimed, starts⟩ := tryZoned_starts h x
  have kept := claimRows_only2 z n _ (only_refl [.zone, .media] _) (by decide) claimed
  have here : Begun s v it.seq .started (r.idx * zoneUnits n + r.ap) it.sqe.nlb 0 :=
    (openForWrite_begun z it n r s).of_host (kept.same .host (by decide))
  obtain ⟨q, hq, core⟩ := openForWrite_core z it n r s
  obtain ⟨p, hp, same⟩ := claimRows_core claimed hq
  rw [starts]
  split
  · have landed := landZeros_only x n it (r.idx * zoneUnits n + r.ap) it.sqe.nlb v
      (only_refl [.host, .media, .inst] v) (by decide)
    exact ⟨here.landZeros _ _ _ _, p, (zoneAt_of_zone (landed.same .zone (by decide)) z).trans hp, same.trans core⟩
  · exact ⟨here, p, hp, same.trans core⟩

/-! ### A conventional write starts -/

/-- The item of a conventional write that starts. -/
def convWriting (n : Ns) (it : Item) (k : Nat) (i : Item) : Item :=
  { i with phase := .started, hold := .none, unit := firstUnit n it.sqe.slba, count := unitCount n it.sqe.slba it.sqe.nlb,
           start := k }

theorem tryConv_begun (h : ConvTakes s it x n) :
    Begun s (tryConv x n it s) it.seq (if it.opc = 0x08 ∧ lbaData n.lbaf = 4096 then .done else .started)
      (firstUnit n it.sqe.slba) (unitCount n it.sqe.slba it.sqe.nlb) 1 := by
  obtain ⟨v, claimed⟩ := h.rows
  have kept := claimConv_only2 x _ _ (only_refl [.zone, .media] s) (by decide) claimed
  have host : v.host = s.host := kept.same .host (by decide)
  have wanted : ¬(it.opc = 0x08 ∧ it.sqe.cdw12.getLsbD 25 = true) := fun ⟨o, b⟩ => by
    rw [h.writes o] at b
    cases b
  have here : ∀ w : State, w = updItem it.seq (convWriting n it v.host.nextStart) v →
      Begun s { w with host := { w.host with nextStart := v.host.nextStart + 1 } } it.seq .started
        (firstUnit n it.sqe.slba) (unitCount n it.sqe.slba it.sqe.nlb) 1 := fun w e => by
    subst e
    exact ⟨⟨convWriting n it v.host.nextStart, fun _ => ⟨rfl, rfl, rfl, rfl, rfl, rfl, rfl⟩,
      updItem_items _ _ (congrArg HostSt.items host)⟩, (congrArg HostSt.ctls host :), (congrArg (HostSt.nextStart · + 1) host :)⟩
  unfold tryConv startConv
  simp only [h.order, h.room, h.writable, h.unblocked, wanted, claimed, Bool.not_true, Bool.false_eq_true, false_and,
    if_false]
  split
  · exact (here _ rfl).landZeros _ _ _ _
  · exact here _ rfl

/-- A Write Zeroes that may deallocate does. -/
theorem tryConv_deallocates (hb : barrierOpen s it = true) (hj : s.media.journalReadOnly = false) (ho : it.opc = 0x08)
    (hd : it.sqe.cdw12.getLsbD 25 = true) :
    tryConv x n it s = deallocate x n [wholeUnits n it.sqe.slba it.sqe.nlb] it s := by
  unfold tryConv startConv
  simp only [hb, hj, ho, hd, Bool.not_true, Bool.false_eq_true, and_self, decide_true, and_false, if_false, if_true]

/-! ### The commands -/

theorem writeStarts_of {c : Instr} {w : State} {i : Item} (hi : itemBySeq w it.seq = some i) (hd : i.id = it.id)
    (he : i.sqe = it.sqe) (ho : i.outcome = it.outcome) (hc : w.host.ctls = s.host.ctls)
    (hn : w.host.nextStart = s.host.nextStart)
    (run : n.zoned = true → ∀ r, ZoneTakes w it n (zoneOfUnit n it.sqe.slba) r →
      exec c s = .next (tryZoned (zoneOfUnit n it.sqe.slba) x n it w))
    (conv : n.zoned = false → ConvTakes w it x n → exec c s = .next (tryConv x n it w)) : WriteStarts c s w it x n := by
  refine ⟨fun hz r takes => ⟨_, run hz r takes, ?_⟩, fun hz takes => ⟨_, conv hz takes, ?_⟩⟩
  · obtain ⟨begun, q, hq, core⟩ := tryZoned_begun takes x
    obtain ⟨ap, core⟩ := Prod.mk.inj core
    obtain ⟨wp, core⟩ := Prod.mk.inj core
    obtain ⟨st, bind⟩ := Prod.mk.inj core
    exact ⟨begun.starts hi hd he ho hc, q, hq, ap, wp, st, bind⟩
  · have begun := tryConv_begun takes
    exact ⟨begun.starts hi hd he ho hc, begun.next.trans (congrArg (· + 1) hn)⟩

/-- The item of a command that has been parsed. -/
theorem itemBySeq_parsed (a : IoRuns s id opc it x n) : itemBySeq (parsed s it) it.seq = some { it with phase := .waiting } :=
  itemBySeq_updItem (f := fun i => { i with phase := .waiting }) (fun _ => rfl)
    (a.unique : itemBySeq { s with emit := [] } it.seq = some it)

theorem writeRow_tries {opc : Nat} {ok : Ns → Bool} (a : IoRuns s id opc it x n) (hk : ok n = true) :
    writeRow opc ok id { s with emit := [] } = tryWrite x n it (parsed s it) := by
  obtain ⟨found, -, -, opcode, fetched, -, taken, parsed_⟩ := a.act
  unfold writeRow
  simp only [found, opcode, fetched, taken, parsed_, hk, Bool.not_true, Bool.false_eq_true, ne_eq, not_true_eq_false, or_self,
    if_false, if_true]
  rfl

theorem tryWrite_zoned (hz : n.zoned = true) : tryWrite x n it s = tryZoned (zoneOfUnit n it.sqe.slba) x n it s :=
  if_pos hz

theorem tryWrite_conv (hz : n.zoned = false) : tryWrite x n it s = tryConv x n it s := by
  unfold tryWrite
  rw [hz, if_neg Bool.false_ne_true]

theorem writeRow_writeStarts {c : Instr} {opc : Nat} {ok : Ns → Bool} (a : IoRuns s id opc it x n) (hk : ok n = true)
    (hc : exec c s = act (writeRow opc ok id) s) : WriteStarts c s (parsed s it) it x n := by
  have tries : exec c s = .next (tryWrite x n it (parsed s it)) :=
    hc.trans (congrArg Host.Outcome.next (writeRow_tries a hk))
  refine writeStarts_of (itemBySeq_parsed a) rfl rfl rfl rfl rfl (fun hz _ _ => ?_) fun hz _ => ?_
  · rw [tries, tryWrite_zoned hz]
  · rw [tries, tryWrite_conv hz]

/-- A deallocation takes from its item the number alone. -/
theorem deallocate_item {i : Item} (h : i.seq = it.seq) (ranges : List (Nat × Nat)) (s : State) :
    deallocate x n ranges i s = deallocate x n ranges it s := by
  unfold deallocate
  rw [h]

theorem writeZeroes_deallocates (a : IoRuns s id 0x08 it x n) (hz : n.zoned = false) (hd : it.sqe.cdw12.getLsbD 25 = true)
    (hb : barrierOpen (parsed s it) it = true) (hj : s.media.journalReadOnly = false) :
    Does (.writeZeroes id) s fun t => Deallocates s t it x n [wholeUnits n it.sqe.slba it.sqe.nlb] := by
  have run : writeRow 0x08 (fun _ => true) id { s with emit := [] } =
      deallocate x n [wholeUnits n it.sqe.slba it.sqe.nlb] it (parsed s it) := by
    rw [writeRow_tries a rfl, tryWrite_conv hz, tryConv_deallocates hb hj a.opcode hd]
  have open_ : it.outcome = none := ioOpen_unlatched a.taken
  have runs : flushing s = false := hallRuns_flushing (ioOpen_hallRuns a.taken)
  obtain ⟨none_, some_⟩ := deallocate_deallocates (s := s) (u := parsed s it) (it := { it with phase := .waiting }) (x := x)
    (n := n) (ranges := [wholeUnits n it.sqe.slba it.sqe.nlb]) (itemBySeq_parsed a) open_ a.heard runs rfl rfl rfl
  rw [deallocate_item rfl] at none_ some_
  refine act_does rfl (run ▸ ⟨fun h => ?_, some_⟩)
  obtain ⟨gone, posted⟩ := none_ h
  exact ⟨gone, posted⟩

/-! ### After a wait -/

theorem startRow_tries {ready : Item → Ns → Bool} (a : IoWaits s id it x n) (hw : isWriteOpc it.opc = true)
    (hr : ready it n = true) : startRow ready id s = tryWrite x n it s := by
  unfold startRow
  simp only [a.found, a.waiting, a.taken, hw, a.named, hr, Bool.not_true, Bool.false_eq_true, ne_eq, not_true_eq_false, or_self,
    if_false, if_true]

theorem IoWaits.act (a : IoWaits s id it x n) : IoWaits { s with emit := [] } id it x n :=
  ⟨a.found, a.unique, a.waiting, a.heard, a.taken, a.named⟩

theorem startRow_writeStarts {c : Instr} {ready : Item → Ns → Bool} (a : IoWaits s id it x n) (hw : isWriteOpc it.opc = true)
    (hr : ready it n = true) (hc : exec c s = act (startRow ready id) s) : WriteStarts c s { s with emit := [] } it x n := by
  have tries : exec c s = .next (tryWrite x n it { s with emit := [] }) :=
    hc.trans (congrArg Host.Outcome.next (startRow_tries a.act hw hr))
  refine writeStarts_of a.unique rfl rfl rfl rfl rfl (fun hz _ _ => ?_) fun hz _ => ?_
  · rw [tries, tryWrite_zoned hz]
  · rw [tries, tryWrite_conv hz]

/-- A wait for landing space ends once there is room. -/
theorem landingSpaceWaitEnd_writeStarts (a : IoWaits s id it x n) (hw : isWriteOpc it.opc = true) (hh : it.hold = .landing) :
    WriteStarts (.landingSpaceWaitEnd id) s { s with emit := [] } it x n := by
  have tries (hl : landingRoom s = true) :
      exec (.landingSpaceWaitEnd id) s = .next (tryWrite x n it { s with emit := [] }) := by
    refine congrArg Host.Outcome.next (startRow_tries (s := { s with emit := [] }) a.act hw ?_)
    exact Bool.and_eq_true_iff.mpr ⟨decide_eq_true hh, hl⟩
  refine writeStarts_of a.unique rfl rfl rfl rfl rfl (fun hz _ takes => ?_) fun hz takes => ?_
  · rw [tries takes.room, tryWrite_zoned hz]
  · rw [tries takes.room, tryWrite_conv hz]

/-! ### After a barrier -/

/-- The release of a read does nothing for a command that has started. -/
theorem barrierRead_begun {i : Item} (hi : findItem s id = some i) (hp : i.phase ≠ .waiting) : barrierRead id s = s := by
  unfold barrierRead
  simp only [hi, hp, ne_eq, not_false_eq_true, true_or, if_true]

theorem barrierRelease_write {ph : Phase} {m cnt k : Nat} (a : IoWaits s id it x n) (hw : isWriteOpc it.opc = true)
    (hb : barrierOpen s it = true) (hp : ph ≠ .waiting) (h : Begun s (tryWrite x n it s) it.seq ph m cnt k) :
    barrierRelease id s = tryWrite x n it s := by
  obtain ⟨i, found, phase⟩ := h.found a.found
  unfold barrierRelease barrierWrite
  rw [startRow_tries a hw hb, barrierRead_begun found (phase ▸ hp)]

theorem done_or_started_ne_waiting (c : Prop) [Decidable c] : (if c then Phase.done else .started) ≠ .waiting := by
  split <;> decide

theorem barrierRelease_writeStarts (a : IoWaits s id it x n) (hw : isWriteOpc it.opc = true) :
    WriteStarts (.ordBarrierRelease id) s { s with emit := [] } it x n := by
  refine writeStarts_of a.unique rfl rfl rfl rfl rfl (fun hz r takes => ?_) fun hz takes => ?_
  · have begun := (tryZoned_begun takes x).1
    rw [← tryWrite_zoned hz] at begun ⊢
    exact congrArg Host.Outcome.next (barrierRelease_write a.act hw takes.order (done_or_started_ne_waiting _) begun)
  · have begun := tryConv_begun takes
    rw [← tryWrite_conv hz] at begun ⊢
    exact congrArg Host.Outcome.next (barrierRelease_write a.act hw takes.order (done_or_started_ne_waiting _) begun)

theorem startRead_begun (hd : deallocatedRead s it x n (firstUnit n it.sqe.slba) (unitCount n it.sqe.slba it.sqe.nlb) = false) :
    Begun s (startRead x n it s) it.seq .started (firstUnit n it.sqe.slba) (unitCount n it.sqe.slba it.sqe.nlb) 0 := by
  have started : Begun s (updItem it.seq (reading n it) s) it.seq .started (firstUnit n it.sqe.slba)
      (unitCount n it.sqe.slba it.sqe.nlb) 0 :=
    ⟨⟨reading n it, fun _ => ⟨rfl, rfl, rfl, rfl, rfl, rfl, rfl⟩, rfl⟩, rfl, rfl⟩
  have kept : Only [.media, .flash] (updItem it.seq (reading n it) s) (forEach (List.range' (firstUnit n it.sqe.slba)
      (unitCount n it.sqe.slba it.sqe.nlb)) (readUnit it x n) (updItem it.seq (reading n it) s)) :=
    only_forEach _ _ _ (only_refl _ _) fun _ _ h => readUnit_only _ _ _ _ _ h (by decide)
  unfold startRead
  simp only [hd, Bool.false_eq_true, if_false]
  exact started.of_host (kept.same .host (by decide))

theorem isWriteOpc_of_read {o : Nat} (h : isReadOpc o = true) : isWriteOpc o = false := by
  unfold isReadOpc at h
  simp only [List.contains_cons, List.contains_nil, Bool.or_false, Bool.or_eq_true, beq_iff_eq] at h
  obtain rfl | rfl := h <;> rfl

theorem barrierRelease_reads (a : IoWaits s id it x n) (hr : isReadOpc it.opc = true) (hb : barrierOpen s it = true) :
    barrierRelease id s = startRead x n it s := by
  unfold barrierRelease barrierWrite startRow barrierRead
  simp only [a.found, a.waiting, a.taken, a.named, isWriteOpc_of_read hr, hr, hb, Bool.not_true, Bool.not_false,
    Bool.false_eq_true, ne_eq, not_true_eq_false, or_true, or_self, if_false, if_true]

/-- Settles O49: a write of each kind runs `tryWrite` on its own zone or namespace, at once or after its wait, and what
that leaves is `Begun`. -/
theorem writesStart : Obligations.WritesStart := by
  intro s id it x n
  refine ⟨fun a => writeRow_writeStarts a rfl rfl, fun a => ⟨writeRow_writeStarts a rfl rfl, writeZeroes_deallocates a⟩,
    fun a hz => ?_, fun a hw => ⟨fun hz => ?_, fun hz hh => ?_, landingSpaceWaitEnd_writeStarts a hw,
      barrierRelease_writeStarts a hw⟩, fun a hr hb hd => ?_⟩
  · exact writeRow_writeStarts a (ok := fun n => n.zoned) hz rfl
  · exact startRow_writeStarts a (ready := fun _ n => n.zoned) hw hz rfl
  · refine startRow_writeStarts a (ready := fun it n => !n.zoned && decide (it.hold = .reserve)) hw ?_ rfl
    rw [hz, hh]
    rfl
  · refine act_does rfl ((barrierRelease_reads a.act hr hb).symm ▸ ?_)
    exact (startRead_begun (s := { s with emit := [] }) hd).starts a.unique rfl rfl rfl rfl

end Sys2Proof.Machine
end

section
/-! SUPPORT. A state whose table of erase groups is out of order, in which a secure-discard Reset lists a group twice in
its record (R138, R226). -/

namespace Sys2Proof.Machine

/-- A closed group that holds rows of zone 0. -/
def wornGroup : Group :=
  { owner := 2048, nsx := 0, lc := 0, pg := 0, shared := false, secdisc := true, rebuild := false, subs := 1, width := 2
    cls := 0, st := .closed, pslc := false, shelf := false, refresh := false, retire := false, pack := false, gc := false
    early := false, nextRow := 0, reserved := 0, rows := 1, valid := 0, pred := none, predFrom := 0, lastProg := 0
    members := [], inFlight := [], regions := [], zones := [0], band := 0, victim := false, pendIdx := none
    regionMap := none, erasing := [] }

/-- A zoned secure-discard namespace of one zone with four units. -/
def discardNs : Ns :=
  { owner := 2048, nsid := 1, zoned := true, lbaf := 0, pit := 0, ext := false, pil := false, width := 2, zexp := 14
    secdisc := true, nsze := 4, attached := true, cls := 0, resv := 0, zbase := 0, zcount := 1, salt := 0, saltGen := 0
    fmt := none, hostGroup := [], gcGroup := [], claims := [], shelfGroup := none, blocked := false }

def fullZone : Zone := { Zone.fresh 0 0 with st := .full }

def resetId : CmdId := { fn := 2048, sq := 1, cid := 9 }

/-- Reset Zone of zone 0. -/
def resetCommand : Item :=
  { id := resetId, seq := 1, bell := 0, fetched := 0, gen := 0, life := 1000000, paused := 0, phase := .fetched
    hold := .none, outcome := none, latchedAt := 0, dw0 := 0, dw1 := 0, unit := 0, count := 0, start := 0, waitRec := none
    ranges := [], resets := [], doneUnits := [], failed := [], silent := false, held := false
    sqe := { opc := 0x79, fuse := 0, psdt := 0, cid := 9, nsid := 1, cdw2 := 0, cdw3 := 0, mptr := 0, dptr := 0
             cdw10 := 0, cdw11 := 0, cdw12 := 0, cdw13 := 4, cdw14 := 0, cdw15 := 0 } }

/-- A device that runs, with the command fetched, and groups 9 and 3 of the zone listed in that order. -/
def unsortedGroups : State :=
  { State.reset with
    power := { State.reset.power with boot := .running }
    host := { State.reset.host with items := [resetCommand] }
    zone := { State.reset.zone with nss := [(0, discardNs)], zones := [(0, fullZone)] }
    media := { State.reset.media with groups := [(9, wornGroup), (3, wornGroup)] } }

/-- The groups that the records after the command mark for erasing. -/
def erasedAfter : Option (List (List Nat)) :=
  match exec (.resetZone resetId) unsortedGroups with
  | .next t => some (t.media.ring.map (·.erase))
  | _ => none

theorem erasedAfter_eq : erasedAfter = some [[3, 9, 3]] := by decide +kernel

theorem zoneGroups_unsorted : zoneGroups unsortedGroups 0 = [9, 3] := by decide +kernel

theorem reset_runs : IoRuns unsortedGroups resetId 0x79 resetCommand 0 discardNs :=
  { found := by decide +kernel, unique := by decide +kernel, queue := by decide, opcode := by decide, fetched := rfl
    heard := rfl, taken := by decide +kernel, parsed := by decide +kernel }

/-- Refutes O51: the record of a secure-discard Reset lists the zone's groups as they stand after their pending indices
are taken, and in a table with keys 9 and 3 in that order `takePend` enters group 3 once more, so the record names 3, 9
and 3 where the zone has the groups 9 and 3. -/
theorem not_zonesAreSent : ¬ Obligations.ZonesAreSent := by
  unfold Obligations.ZonesAreSent
  intro h
  obtain ⟨sends, -⟩ := h unsortedGroups resetId resetCommand 0 discardNs
  obtain ⟨-, one⟩ := sends .reset (.resetZone resetId) (fun _ _ => .empty)
    (.inr (.inr (.inr (.inl ⟨rfl, rfl, rfl⟩)))) reset_runs (by decide +kernel) rfl (by decide) rfl
  obtain ⟨-, -, discard, -⟩ := one fullZone (by decide) (by decide) (by decide +kernel)
  obtain ⟨-, ready⟩ := discard rfl rfl (by decide)
  obtain ⟨t, run, -, -, -, j, ring, -, erase, -⟩ := ready (by decide +kernel)
  have after : erasedAfter = some [[9, 3]] := by
    have records : t.media.ring = [j] := ring
    have groups : j.erase = [9, 3] := erase.trans zoneGroups_unsorted
    rw [erasedAfter, run]
    simp only [records, List.map_cons, List.map_nil, groups]
  exact absurd (erasedAfter_eq.symm.trans after) (by decide)

end Sys2Proof.Machine
end
